-- ==== Sys2Proof/Word.lean ====
section
/-! DEFINITION. The plain value types of the model.  Bits the spec lays out as bits are `BitVec`s; numbers,
counts and indices are `Nat`s. -/

namespace Sys2Proof

/-- A byte. -/
abbrev Byte := BitVec 8
/-- A 64-bit register word (R9) or global address word (R23). -/
abbrev Word64 := BitVec 64
/-- A 128-bit instruction word (section 5.10). -/
abbrev Word128 := BitVec 128

end Sys2Proof
end

