-- ==== Sys2Proof/Machine/Codes.lean ====
section
/-! DEFINITION. The status and event codes of the part, with the values of Tables 16.3 and 16.4 (R12, R429). -/

namespace Sys2Proof.Machine

/-- The statuses of Table 16.3; no other status is ever returned (R12, R429). -/
inductive St where
  /-- success. -/
  | ok
  /-- field or argument out of range. -/
  | badParam
  /-- not allowed in the current state. -/
  | badState
  /-- object in use; change refused. -/
  | tableBusy
  /-- unit absent or unlicensed. -/
  | unitAbsent
  /-- address unmapped, reserved or withdrawn. -/
  | addrInvalid
  /-- requester not permitted. -/
  | accessDenied
  /-- format or version not read. -/
  | formatUnsupported
  /-- target in compute-only reset. -/
  | nodeResetting
  /-- no path to the node. -/
  | nodeUnreachable
  /-- poisoned data consumed. -/
  | poisonRead
  /-- role change while work remains. -/
  | roleBusy
  /-- node not admitting. -/
  | admissionClosed
  /-- request already final. -/
  | alreadyDone
  /-- request cancelled. -/
  | cancelled
  /-- no such request. -/
  | noRequest
  /-- no slot, frame or reservation. -/
  | directoryFull
  /-- deputy not bound or silent. -/
  | deputyUnreachable
  /-- records adopted by the deputy. -/
  | homeAdopted
  /-- record lost to a failed check. -/
  | recordCorrupt
  /-- policy version outside the staleness bound. -/
  | versionMismatch
  /-- destination refused the move. -/
  | moveRefused
  /-- move abandoned or displaced before commit. -/
  | moveAborted
  /-- sender's epoch superseded. -/
  | epochStale
  /-- restarts exhausted. -/
  | restartLimit
  /-- history unreadable at home and deputy. -/
  | historyLost
  /-- time to live above TTL_MAX. -/
  | ttlRange
  /-- ownership epoch would pass 0xFFFF_FFFF; request failed. -/
  | epochExhausted
  /-- no valid model descriptor. -/
  | modelUnknown
  /-- Ochre set below 9 nodes. -/
  | codingUnavailable
  /-- held pages do not match the query, or a moved request's page could not be pulled. -/
  | pageMissing
  /-- holder queue full or page recalling. -/
  | mztBusy
  /-- undefined or malformed instruction. -/
  | illegalInstr
  /-- operand outside the buffer or limit. -/
  | operandRange
  /-- no finite candidate. -/
  | sampleInvalid
  /-- block header or element mismatch. -/
  | expandFormat
  /-- declared and decoded sizes differ. -/
  | expandLength
  /-- block CRC-32C failed. -/
  | expandCheck
  /-- bit pattern is no code. -/
  | expandCode
  /-- code table not loaded or bound. -/
  | tableAbsent
  /-- delta slot not loaded or bound. -/
  | deltaAbsent
  /-- delta set malformed. -/
  | deltaFormat
  /-- delta set for another model. -/
  | deltaMismatch
  /-- licensed delta sets exhausted. -/
  | deltaLimit
  /-- context not RUNNING, or role takes no requests. -/
  | contextClosed
  /-- queue invalid or of another tenant. -/
  | queueInvalid
  /-- waiting work flushed by a phase turn. -/
  | turnFlushed
  /-- turn ended by forced abort. -/
  | turnForced
  /-- no region, or wrong key or source. -/
  | keyInvalid
  /-- region being revoked. -/
  | keyRevoked
  /-- no response within REMOTE_US. -/
  | remoteTimeout
  /-- covered bytes did not arrive. -/
  | signalUncovered
  /-- licensed domain size reached. -/
  | domainLimit
  /-- posts exceed the ring. -/
  | queueFull
  /-- request flushed before starting. -/
  | xfrAborted
  /-- destination message state exhausted. -/
  | xfrBusy
  /-- message abandoned. -/
  | xfrTimeout
  /-- members disagree on length. -/
  | collectiveMismatch
  /-- contribution missing. -/
  | collectiveTimeout
  /-- wait exceeded WAIT_LIMIT_MS. -/
  | waitTimeout
  /-- arrival too far ahead, or round full. -/
  | barrierOverrun
  /-- arrival for a past round. -/
  | barrierStale
  /-- opcode unassigned. -/
  | badOpcode
  /-- command queue full or path updating. -/
  | hcpBusy
  /-- prompt read failed. -/
  | hostReadFailed
  /-- queue pair in error or destroyed. -/
  | roceError
  /-- manifest or image hash bad. -/
  | imageInvalid
  /-- chunks missing after repair. -/
  | imageIncomplete
  /-- licence malformed. -/
  | licenceInvalid
  /-- licence for another node. -/
  | licenceNode
  /-- signature or chain failed. -/
  | signatureInvalid
  /-- no matching approved set. -/
  | approvalRequired
  /-- set not open or past deadline. -/
  | approvalExpired
  /-- slot holds no key. -/
  | approverUnknown
  /-- slot already approved. -/
  | approverDuplicate
  /-- identity key not unsealed. -/
  | identityUnavailable
  /-- supply reset. -/
  | supplyFault
  /-- thermal trip. -/
  | thermalTrip
  /-- reference clock lost. -/
  | clockFault
  deriving DecidableEq, Repr

/-- The 16-bit value of a status (Table 16.3). -/
def St.code : St → Nat
  | .ok => 0x0000
  | .badParam => 0x0101
  | .badState => 0x0102
  | .tableBusy => 0x0103
  | .unitAbsent => 0x0104
  | .addrInvalid => 0x0105
  | .accessDenied => 0x0106
  | .formatUnsupported => 0x0107
  | .nodeResetting => 0x0108
  | .nodeUnreachable => 0x0109
  | .poisonRead => 0x010A
  | .roleBusy => 0x0201
  | .admissionClosed => 0x0202
  | .alreadyDone => 0x0203
  | .cancelled => 0x0204
  | .noRequest => 0x0205
  | .directoryFull => 0x0206
  | .deputyUnreachable => 0x0207
  | .homeAdopted => 0x0208
  | .recordCorrupt => 0x0209
  | .versionMismatch => 0x020A
  | .moveRefused => 0x020B
  | .moveAborted => 0x020C
  | .epochStale => 0x020D
  | .restartLimit => 0x020E
  | .historyLost => 0x020F
  | .ttlRange => 0x0210
  | .epochExhausted => 0x0211
  | .modelUnknown => 0x0301
  | .codingUnavailable => 0x0302
  | .pageMissing => 0x0303
  | .mztBusy => 0x0304
  | .illegalInstr => 0x0401
  | .operandRange => 0x0402
  | .sampleInvalid => 0x0403
  | .expandFormat => 0x0404
  | .expandLength => 0x0405
  | .expandCheck => 0x0406
  | .expandCode => 0x0407
  | .tableAbsent => 0x0408
  | .deltaAbsent => 0x0409
  | .deltaFormat => 0x040A
  | .deltaMismatch => 0x040B
  | .deltaLimit => 0x040C
  | .contextClosed => 0x0501
  | .queueInvalid => 0x0502
  | .turnFlushed => 0x0503
  | .turnForced => 0x0504
  | .keyInvalid => 0x0601
  | .keyRevoked => 0x0602
  | .remoteTimeout => 0x0603
  | .signalUncovered => 0x0604
  | .domainLimit => 0x0605
  | .queueFull => 0x0701
  | .xfrAborted => 0x0702
  | .xfrBusy => 0x0703
  | .xfrTimeout => 0x0704
  | .collectiveMismatch => 0x0705
  | .collectiveTimeout => 0x0706
  | .waitTimeout => 0x0707
  | .barrierOverrun => 0x0708
  | .barrierStale => 0x0709
  | .badOpcode => 0x0801
  | .hcpBusy => 0x0802
  | .hostReadFailed => 0x0803
  | .roceError => 0x0804
  | .imageInvalid => 0x0901
  | .imageIncomplete => 0x0902
  | .licenceInvalid => 0x0903
  | .licenceNode => 0x0904
  | .signatureInvalid => 0x0905
  | .approvalRequired => 0x0906
  | .approvalExpired => 0x0907
  | .approverUnknown => 0x0908
  | .approverDuplicate => 0x0909
  | .identityUnavailable => 0x090A
  | .supplyFault => 0x0A01
  | .thermalTrip => 0x0A02
  | .clockFault => 0x0A03

/-- Every status, in the order of Table 16.3. -/
def St.all : List St := [
  .ok, .badParam, .badState, .tableBusy, .unitAbsent, .addrInvalid, .accessDenied, .formatUnsupported, .nodeResetting, .nodeUnreachable, .poisonRead, .roleBusy, .admissionClosed, .alreadyDone, .cancelled, .noRequest, .directoryFull, .deputyUnreachable, .homeAdopted, .recordCorrupt, .versionMismatch, .moveRefused, .moveAborted, .epochStale, .restartLimit, .historyLost, .ttlRange, .epochExhausted, .modelUnknown, .codingUnavailable, .pageMissing, .mztBusy, .illegalInstr, .operandRange, .sampleInvalid, .expandFormat, .expandLength, .expandCheck, .expandCode, .tableAbsent, .deltaAbsent, .deltaFormat, .deltaMismatch, .deltaLimit, .contextClosed, .queueInvalid, .turnFlushed, .turnForced, .keyInvalid, .keyRevoked, .remoteTimeout, .signalUncovered, .domainLimit, .queueFull, .xfrAborted, .xfrBusy, .xfrTimeout, .collectiveMismatch, .collectiveTimeout, .waitTimeout, .barrierOverrun, .barrierStale, .badOpcode, .hcpBusy, .hostReadFailed, .roceError, .imageInvalid, .imageIncomplete, .licenceInvalid, .licenceNode, .signatureInvalid, .approvalRequired, .approvalExpired, .approverUnknown, .approverDuplicate, .identityUnavailable, .supplyFault, .thermalTrip, .clockFault]

/-- The status with a given value, where Table 16.3 lists one. -/
def St.ofCode (n : Nat) : Option St := St.all.find? (fun s => s.code == n)

/-- Severity of an event (Table 16.1). -/
inductive Severity where
  | info | notice | warning | error | critical
  deriving DecidableEq, Repr

/-- The value of a severity (Table 16.1). -/
def Severity.code : Severity → Nat
  | .info => 0 | .notice => 1 | .warning => 2 | .error => 3 | .critical => 4

/-- The events of Table 16.4. -/
inductive Ev where
  | requestExpired
  | requestRecovered
  | requestRestarted
  | requestRebased
  | requestCancelled
  | requestFailed
  | ownershipRepaired
  | homeAdopted
  | recordCorrupt
  | pageLost
  | pageRebuilt
  | pageOrphanFreed
  | contextFault
  | expandFault
  | contextClosed
  | jobAborted
  | syncResidue
  | codeTableFreed
  | deltaSetFreed
  | capabilityChanged
  | linkUp
  | linkDown
  | linkDegraded
  | linkFailed
  | linkVersionSkew
  | nodeNumberConflict
  | nodeUnreachable
  | nodeReachable
  | fabricNotice
  | remoteRefused
  | keyRevoked
  | regionRevoked
  | remoteTimeout
  | xfrQueueError
  | msgAbandoned
  | collectiveFailed
  | barrierMemberLost
  | hostLinkUp
  | hostLinkDown
  | tokenDropped
  | police
  | qpError
  | phaseTurnDone
  | phaseTurnForced
  | policyLagging
  | nodeReady
  | coreSpared
  | tileWithdrawn
  | channelRetired
  | defectListFull
  | imageComplete
  | imageRejected
  | imageFallback
  | licenceInstalled
  | licenceLapsed
  | approverChanged
  | approvedCommand
  | approvalExpired
  | debugUnlocked
  | supplyWarn
  | supplyClear
  | railWarn
  | railClear
  | thermalWarn
  | thermalCrit
  | thermalClear
  | powerLimiting
  | clockFault
  | memCorrected
  | memUncorrected
  | memChannelDegraded
  | eventsOverwritten
  deriving DecidableEq, Repr

/-- The 16-bit code of an event (Table 16.4). -/
def Ev.code : Ev → Nat
  | .requestExpired => 0x8001
  | .requestRecovered => 0x8002
  | .requestRestarted => 0x8003
  | .requestRebased => 0x8004
  | .requestCancelled => 0x8005
  | .requestFailed => 0x8006
  | .ownershipRepaired => 0x8007
  | .homeAdopted => 0x8008
  | .recordCorrupt => 0x8009
  | .pageLost => 0x800A
  | .pageRebuilt => 0x800B
  | .pageOrphanFreed => 0x800C
  | .contextFault => 0x8101
  | .expandFault => 0x8102
  | .contextClosed => 0x8103
  | .jobAborted => 0x8104
  | .syncResidue => 0x8105
  | .codeTableFreed => 0x8106
  | .deltaSetFreed => 0x8107
  | .capabilityChanged => 0x8108
  | .linkUp => 0x8201
  | .linkDown => 0x8202
  | .linkDegraded => 0x8203
  | .linkFailed => 0x8204
  | .linkVersionSkew => 0x8205
  | .nodeNumberConflict => 0x8206
  | .nodeUnreachable => 0x8207
  | .nodeReachable => 0x8208
  | .fabricNotice => 0x8301
  | .remoteRefused => 0x8302
  | .keyRevoked => 0x8303
  | .regionRevoked => 0x8304
  | .remoteTimeout => 0x8305
  | .xfrQueueError => 0x8306
  | .msgAbandoned => 0x8307
  | .collectiveFailed => 0x8308
  | .barrierMemberLost => 0x8309
  | .hostLinkUp => 0x8401
  | .hostLinkDown => 0x8402
  | .tokenDropped => 0x8403
  | .police => 0x8404
  | .qpError => 0x8405
  | .phaseTurnDone => 0x8501
  | .phaseTurnForced => 0x8502
  | .policyLagging => 0x8503
  | .nodeReady => 0x8601
  | .coreSpared => 0x8602
  | .tileWithdrawn => 0x8603
  | .channelRetired => 0x8604
  | .defectListFull => 0x8605
  | .imageComplete => 0x8606
  | .imageRejected => 0x8607
  | .imageFallback => 0x8608
  | .licenceInstalled => 0x8609
  | .licenceLapsed => 0x860A
  | .approverChanged => 0x8701
  | .approvedCommand => 0x8702
  | .approvalExpired => 0x8703
  | .debugUnlocked => 0x8704
  | .supplyWarn => 0x8801
  | .supplyClear => 0x8802
  | .railWarn => 0x8803
  | .railClear => 0x8804
  | .thermalWarn => 0x8805
  | .thermalCrit => 0x8806
  | .thermalClear => 0x8807
  | .powerLimiting => 0x8808
  | .clockFault => 0x8809
  | .memCorrected => 0x8901
  | .memUncorrected => 0x8902
  | .memChannelDegraded => 0x8903
  | .eventsOverwritten => 0x8904

/-- The severity Table 16.4 gives an event; FABRIC_NOTICE takes the original event's, which its poster supplies. -/
def Ev.severity : Ev → Severity
  | .requestExpired => .notice
  | .requestRecovered => .notice
  | .requestRestarted => .warning
  | .requestRebased => .notice
  | .requestCancelled => .info
  | .requestFailed => .error
  | .ownershipRepaired => .warning
  | .homeAdopted => .warning
  | .recordCorrupt => .error
  | .pageLost => .error
  | .pageRebuilt => .notice
  | .pageOrphanFreed => .warning
  | .contextFault => .error
  | .expandFault => .error
  | .contextClosed => .info
  | .jobAborted => .error
  | .syncResidue => .warning
  | .codeTableFreed => .info
  | .deltaSetFreed => .info
  | .capabilityChanged => .notice
  | .linkUp => .info
  | .linkDown => .warning
  | .linkDegraded => .warning
  | .linkFailed => .error
  | .linkVersionSkew => .error
  | .nodeNumberConflict => .error
  | .nodeUnreachable => .error
  | .nodeReachable => .notice
  | .fabricNotice => .info
  | .remoteRefused => .warning
  | .keyRevoked => .warning
  | .regionRevoked => .info
  | .remoteTimeout => .warning
  | .xfrQueueError => .error
  | .msgAbandoned => .warning
  | .collectiveFailed => .error
  | .barrierMemberLost => .warning
  | .hostLinkUp => .info
  | .hostLinkDown => .warning
  | .tokenDropped => .warning
  | .police => .notice
  | .qpError => .error
  | .phaseTurnDone => .info
  | .phaseTurnForced => .warning
  | .policyLagging => .warning
  | .nodeReady => .info
  | .coreSpared => .warning
  | .tileWithdrawn => .error
  | .channelRetired => .notice
  | .defectListFull => .warning
  | .imageComplete => .info
  | .imageRejected => .error
  | .imageFallback => .error
  | .licenceInstalled => .notice
  | .licenceLapsed => .warning
  | .approverChanged => .notice
  | .approvedCommand => .notice
  | .approvalExpired => .info
  | .debugUnlocked => .critical
  | .supplyWarn => .warning
  | .supplyClear => .info
  | .railWarn => .warning
  | .railClear => .info
  | .thermalWarn => .warning
  | .thermalCrit => .critical
  | .thermalClear => .info
  | .powerLimiting => .notice
  | .clockFault => .error
  | .memCorrected => .info
  | .memUncorrected => .error
  | .memChannelDegraded => .warning
  | .eventsOverwritten => .warning

/-- The class of an event, CODE[11:8] (Table 16.1). -/
def Ev.cls (e : Ev) : Nat := e.code / 256 % 16

end Sys2Proof.Machine
end

