-- ==== Sys2Proof/Config.lean ====
section
/-! DEFINITION. What the spec leaves open.  Every constant here is opaque: it has no body, so nothing can be proved of
its value.  A constant with a first argument `n` is a free value: the machine applies it to `State.fresh`, a counter
it advances at each use (log entry 2). -/

namespace Sys2Proof.Config

/-- A fresh 16-bit random integer of a core's random source (R137, R147), taken modulo 2^16. -/
opaque rand16 (n : Nat) : Nat
/-- A fresh 24-bit random integer of a core's random source (R146, R147), taken modulo 2^24. -/
opaque rand24 (n : Nat) : Nat
/-- Which two of the terms left are added next where the order of additions is not fixed (R135, R142, R117, R141). -/
opaque pick (n : Nat) : Nat
/-- How far, in units of the last place, a vector function's result lies from the correctly rounded one, before
clipping to the bound of Table 5.8. -/
opaque ulpOff (n : Nat) : Int
/-- A statistics counter's value after an occurrence that its field cannot hold (log entry 4). -/
opaque statOverflow (n : Nat) : Nat
/-- A fresh 256-bit nonce of the entropy source (R384, R393, R399). -/
opaque nonce (n : Nat) : Nat
/-- A fresh ephemeral P-384 private key (R399). -/
opaque ephemeral (n : Nat) : Nat
/-- Receive buffer of a link peer, in 256-byte units, by credit class (R241). -/
opaque rxBuffer (cls : Nat) : Nat
/-- Whether the collective engines saturate where their encoding overflows (R294, R139). -/
opaque collSat : Bool
/-- An unspecified choice among equally good candidates, as an index. -/
opaque choice (n : Nat) : Nat
/-- A result the spec does not state, as a bit pattern. -/
opaque unstated (n : Nat) : Nat
/-- The identity key in CRT form (its five numbers in the order of RFC 8017) that AES-256-GCM opens from the sealed key, under the key
HKDF-SHA-512 derives from the response of the SRAM physical unclonable function to the helper data (R381, log entry 101). -/
opaque unsealed (helper sealedKey : List Byte) (part : Nat) : Nat
/-- Whether a firmware generation carries a certificate of Table 14.1 (R383, log entry 102). -/
opaque carriesCert (generation index : Nat) : Bool
/-- What an analogue reading that no command brings, or a boundary or debug scan, gives. -/
opaque reading (n : Nat) : Nat

end Sys2Proof.Config
end

