-- ==== Sys2Proof/Machine/Flags.lean ====
section
/-! DEFINITION. The sticky conditions of CORE_ARITH_FLAGS (R140) and the state an instruction's arithmetic threads. -/

namespace Sys2Proof.Machine

/-- The four conditions of CORE_ARITH_FLAGS (R140, Table 5.15). -/
structure ArithFlags where
  nanMade : Bool := false
  infMade : Bool := false
  saturated : Bool := false
  intSaturated : Bool := false
  deriving DecidableEq, Repr

/-- What the arithmetic of one instruction threads: the conditions it met, the free-value counter, and the random
draws it took from the core's source (R147). -/
structure CalcSt where
  flags : ArithFlags := {}
  fresh : Nat := 0
  draws : Nat := 0
  deriving DecidableEq, Repr

/-- A computation of one instruction. -/
abbrev Calc := StateM CalcSt

/-- Records that a NaN was produced from non-NaN inputs. -/
def Calc.noteNan : Calc Unit := modify fun c => { c with flags := { c.flags with nanMade := true } }
/-- Records an overflow to infinity. -/
def Calc.noteInf : Calc Unit := modify fun c => { c with flags := { c.flags with infMade := true } }
/-- Records the saturation of a finite value (R138). -/
def Calc.noteSat : Calc Unit := modify fun c => { c with flags := { c.flags with saturated := true } }
/-- Records an INT32 saturation. -/
def Calc.noteIntSat : Calc Unit := modify fun c => { c with flags := { c.flags with intSaturated := true } }

/-- The next free-value index. -/
def Calc.next : Calc Nat := do
  let c ← get
  set { c with fresh := c.fresh + 1 }
  return c.fresh

/-- A fresh 16-bit random integer (R137, stochastic rounding). -/
def Calc.rand16 : Calc Nat := do
  let n ← Calc.next
  modify fun c => { c with draws := c.draws + 1 }
  return Config.rand16 n % 2 ^ 16

/-- A fresh 24-bit random integer (R146). -/
def Calc.rand24 : Calc Nat := do
  let n ← Calc.next
  modify fun c => { c with draws := c.draws + 1 }
  return Config.rand24 n % 2 ^ 24

/-- The conditions as the CORE_ARITH_FLAGS bits that are set. -/
def ArithFlags.bits (f : ArithFlags) : Nat :=
  (if f.nanMade then 1 else 0) + (if f.infMade then 2 else 0) + (if f.saturated then 4 else 0)
    + (if f.intSaturated then 8 else 0)

end Sys2Proof.Machine
end

