-- ==== Sys2Proof/Machine/Operands.lean ====
section
/-! DEFINITION. The number formats of Table 5.3, rounding and conversion (R131 to R139) and FP32 arithmetic (R142). -/

namespace Sys2Proof.Machine

/-- A value of any floating-point or integer format: NaN, an infinity, or `± m * 2 ^ e` exactly. -/
inductive Num where
  | nan
  | inf (neg : Bool)
  | fin (neg : Bool) (m : Nat) (e : Int)
  deriving DecidableEq, Repr

/-- The number formats of Table 5.3. -/
inductive Fmt where
  | fp32 | bf16 | e4m3 | e5m2 | mx8e4 | mx8e5 | mx6e3 | mx6e2 | mx4 | int8 | int32
  deriving DecidableEq, Repr

/-- The format a code names; codes 0xB to 0xF are reserved (Table 5.3). -/
def Fmt.ofCode : Nat → Option Fmt
  | 0 => some .fp32 | 1 => some .bf16 | 2 => some .e4m3 | 3 => some .e5m2 | 4 => some .mx8e4 | 5 => some .mx8e5
  | 6 => some .mx6e3 | 7 => some .mx6e2 | 8 => some .mx4 | 9 => some .int8 | 10 => some .int32 | _ => none

/-- Bits of one element. -/
def Fmt.bits : Fmt → Nat
  | .fp32 => 32 | .bf16 => 16 | .e4m3 => 8 | .e5m2 => 8 | .mx8e4 => 8 | .mx8e5 => 8 | .mx6e3 => 6 | .mx6e2 => 6
  | .mx4 => 4 | .int8 => 8 | .int32 => 32

/-- The format is a microscaling one (R132). -/
def Fmt.isMx : Fmt → Bool
  | .mx8e4 | .mx8e5 | .mx6e3 | .mx6e2 | .mx4 => true
  | _ => false

/-- The format is an integer one. -/
def Fmt.isInt : Fmt → Bool
  | .int8 | .int32 => true
  | _ => false

/-- Exponent bits, mantissa bits and bias of a floating-point format (Table 5.3). -/
def Fmt.shape : Fmt → Nat × Nat × Nat
  | .fp32 => (8, 23, 127) | .bf16 => (8, 7, 127)
  | .e4m3 | .mx8e4 => (4, 3, 7) | .e5m2 | .mx8e5 => (5, 2, 15)
  | .mx6e3 => (3, 2, 3) | .mx6e2 => (2, 3, 1) | .mx4 => (2, 1, 1)
  | .int8 | .int32 => (0, 0, 0)

/-- The format has infinities: E all ones and M = 0 (Table 5.3). -/
def Fmt.hasInf : Fmt → Bool
  | .fp32 | .bf16 | .e5m2 | .mx8e5 => true
  | _ => false

/-- The magnitude bits of the largest finite value (Table 5.3). -/
def Fmt.maxMag (f : Fmt) : Nat :=
  let (eb, mb, _) := f.shape
  if f.hasInf then (2 ^ eb - 1) * 2 ^ mb - 1
  else match f with
    | .e4m3 | .mx8e4 => 0x7E
    | _ => 2 ^ (eb + mb) - 1

/-- The canonical NaN of a format (R133). -/
def Fmt.nanBits : Fmt → Nat
  | .fp32 => 0x7FC00000 | .bf16 => 0x7FC0 | .e4m3 | .mx8e4 => 0x7F | .e5m2 | .mx8e5 => 0x7E
  | _ => 0

/-- The value of magnitude bits in a floating-point format, subnormals included (R131, R133). -/
def Fmt.magValue (f : Fmt) (mag : Nat) : Nat × Int :=
  let (_, mb, bias) := f.shape
  let e := mag / 2 ^ mb
  let m := mag % 2 ^ mb
  if e = 0 then (m, 1 - (bias : Int) - mb) else (m + 2 ^ mb, (e : Int) - bias - mb)

/-- The value of one element's bits (R131). -/
def Fmt.value (f : Fmt) (b : Nat) : Num :=
  match f with
  | .int8 => let v := b % 256; if v < 128 then .fin false v 0 else .fin true (256 - v) 0
  | .int32 => let v := b % 2 ^ 32; if v < 2 ^ 31 then .fin false v 0 else .fin true (2 ^ 32 - v) 0
  | _ =>
    let (eb, mb, _) := f.shape
    let w := 1 + eb + mb
    let neg := b / 2 ^ (w - 1) % 2 = 1
    let mag := b % 2 ^ (w - 1)
    if mag ≤ f.maxMag then
      let (m, e) := f.magValue mag
      .fin neg m e
    else if f.hasInf && mag == f.maxMag + 1 then .inf neg
    else .nan

/-- Whether `m1 * 2 ^ e1 ≤ m2 * 2 ^ e2`. -/
def magLe (m1 : Nat) (e1 : Int) (m2 : Nat) (e2 : Int) : Bool :=
  let e := min e1 e2
  m1 * 2 ^ (e1 - e).toNat ≤ m2 * 2 ^ (e2 - e).toNat

/-- Rounding modes (Table 5.7). -/
inductive Round where
  | rne | rtz | sr
  deriving DecidableEq, Repr

/-- The mode a ROUND field names; 3 is reserved. -/
def Round.ofCode : Nat → Option Round
  | 0 => some .rne | 1 => some .rtz | 2 => some .sr | _ => none

/-- Whether the larger of the two bracketing magnitudes is taken: `n` is the smaller in units of the last place and
`rem / 2 ^ d` the fraction above it (Table 5.7). -/
def Round.up (r : Round) (n rem d rnd : Nat) : Bool :=
  match r with
  | .rne => 2 * rem > 2 ^ d || (2 * rem == 2 ^ d && n % 2 == 1)
  | .rtz => false
  | .sr => 2 ^ 16 * rem > rnd * 2 ^ d

/-- Magnitude `m * 2 ^ e` rounded to magnitude bits with `mb` mantissa bits and the given bias, without an upper limit. -/
def roundMag (mb bias : Nat) (r : Round) (rnd m : Nat) (e : Int) : Nat :=
  if m = 0 then 0 else
    let x : Int := Nat.log2 m + e
    let x' := max x (1 - (bias : Int))
    let q := x' - mb
    let n := if q ≤ e then m * 2 ^ (e - q).toNat else
      let d := (q - e).toNat
      let n0 := m / 2 ^ d
      if r.up n0 (m % 2 ^ d) d rnd then n0 + 1 else n0
    ((x' + bias - 1).toNat) * 2 ^ mb + n

/-- A value rounded to an integer magnitude under a mode. -/
def roundInt (r : Round) (rnd m : Nat) (e : Int) : Nat :=
  if 0 ≤ e then m * 2 ^ e.toNat else
    let d := (-e).toNat
    let n0 := m / 2 ^ d
    if r.up n0 (m % 2 ^ d) d rnd then n0 + 1 else n0

/-- Bits of a value with a sign. -/
def signed (f : Fmt) (neg : Bool) (mag : Nat) : Nat :=
  mag + if neg then 2 ^ (f.bits - 1) else 0

/-- Conversion of a value to a format's bits under ROUND and SAT, with the conditions it raises (R137, R138, R140).
An FP6 or FP4 element given a NaN is +0; its block's scale is the caller's (R138). -/
def convert (f : Fmt) (r : Round) (sat : Bool) (v : Num) : Calc Nat := do
  match v with
  | .nan => return if f.isInt then 0 else f.nanBits
  | .inf neg =>
    match f with
    | .int8 => return if neg then 0x80 else 0x7F
    | .int32 => do Calc.noteIntSat; return if neg then 0x80000000 else 0x7FFFFFFF
    | .e4m3 | .mx8e4 => do Calc.noteNan; return f.nanBits
    | .mx6e3 | .mx6e2 | .mx4 => return signed f neg f.maxMag
    | _ => return signed f neg (f.maxMag + 1)
  | .fin neg m e =>
    let rnd ← if r = .sr then Calc.rand16 else pure 0
    if f.isInt then
      let lim := 2 ^ (f.bits - 1)
      let n := roundInt r rnd m e
      let big := if neg then n > lim else n ≥ lim
      if big then
        Calc.noteSat
        if f = .int32 then Calc.noteIntSat
        return if neg then lim else lim - 1
      else return if neg ∧ n ≠ 0 then 2 * lim - n else n
    else
      let (_, mb, bias) := f.shape
      let (xm, xe) := f.magValue f.maxMag
      if magLe m e xm xe then return signed f neg (roundMag mb bias r rnd m e)
      else if sat || !f.hasInf then do Calc.noteSat; return signed f neg f.maxMag
      else do Calc.noteInf; return signed f neg (f.maxMag + 1)

/-! ### FP32 arithmetic -/

/-- The value of FP32 bits. -/
def f32 (b : Nat) : Num := Fmt.fp32.value b

/-- A value rounded to FP32, nearest even; a rounded magnitude above the largest finite is an infinity (R142). -/
def toF32 (v : Num) : Calc Num := do
  match v with
  | .fin neg m e =>
    let mag := roundMag 23 127 .rne 0 m e
    if mag ≤ Fmt.fp32.maxMag then
      let (m', e') := Fmt.fp32.magValue mag
      return .fin neg m' e'
    else do Calc.noteInf; return .inf neg
  | v => return v

/-- The FP32 bits of a value that FP32 holds. -/
def Num.f32Bits : Num → Nat
  | .nan => 0x7FC00000
  | .inf neg => signed .fp32 neg 0x7F800000
  | .fin neg m e => signed .fp32 neg (roundMag 23 127 .rne 0 m e)

/-- The exact sum of two finite values; an exact zero of unlike signs is +0. -/
def addExact (n1 : Bool) (m1 : Nat) (e1 : Int) (n2 : Bool) (m2 : Nat) (e2 : Int) : Num :=
  let e := min e1 e2
  let a : Int := (m1 * 2 ^ (e1 - e).toNat : Nat) * (if n1 then -1 else 1)
  let b : Int := (m2 * 2 ^ (e2 - e).toNat : Nat) * (if n2 then -1 else 1)
  let c := a + b
  if c = 0 then .fin (n1 && n2) 0 e else .fin (c < 0) c.natAbs e

/-- Negation. -/
def Num.neg : Num → Num
  | .nan => .nan | .inf n => .inf (!n) | .fin n m e => .fin (!n) m e

/-- Absolute value. -/
def Num.abs : Num → Num
  | .nan => .nan | .inf _ => .inf false | .fin _ m e => .fin false m e

/-- The value is NaN. -/
def Num.isNan : Num → Bool
  | .nan => true | _ => false

/-- The value is finite. -/
def Num.isFin : Num → Bool
  | .fin .. => true | _ => false

/-- Sum before rounding, with the NaN of unlike infinities recorded (R140). -/
def Num.addRaw (a b : Num) : Calc Num := do
  match a, b with
  | .nan, _ | _, .nan => return .nan
  | .inf x, .inf y => if x = y then return .inf x else do Calc.noteNan; return .nan
  | .inf x, _ | _, .inf x => return .inf x
  | .fin n1 m1 e1, .fin n2 m2 e2 => return addExact n1 m1 e1 n2 m2 e2

/-- Product before rounding. -/
def Num.mulRaw (a b : Num) : Calc Num := do
  match a, b with
  | .nan, _ | _, .nan => return .nan
  | .inf x, .inf y => return .inf (x != y)
  | .inf x, .fin n m _ | .fin n m _, .inf x =>
    if m = 0 then do Calc.noteNan; return .nan else return .inf (x != n)
  | .fin n1 m1 e1, .fin n2 m2 e2 => return .fin (n1 != n2) (m1 * m2) (e1 + e2)

/-- FP32 addition, subtraction, multiplication and fused multiply-add, correctly rounded (R142). -/
def fadd (a b : Num) : Calc Num := do toF32 (← a.addRaw b)
def fsub (a b : Num) : Calc Num := fadd a b.neg
def fmul (a b : Num) : Calc Num := do toF32 (← a.mulRaw b)
def ffma (a b c : Num) : Calc Num := do toF32 (← (← a.mulRaw b).addRaw c)

/-- `a < b` on non-NaN values. -/
def Num.lt (a b : Num) : Bool :=
  match a, b with
  | .nan, _ | _, .nan => false
  | .inf x, .inf y => x && !y
  | .inf x, _ => x
  | _, .inf y => !y
  | .fin n1 m1 e1, .fin n2 m2 e2 =>
    match addExact n1 m1 e1 (!n2) m2 e2 with
    | .fin neg m _ => neg && m ≠ 0
    | _ => false

/-- `a ≤ b` on non-NaN values. -/
def Num.le (a b : Num) : Bool := !a.isNan && !b.isNan && !(b.lt a)

/-- The value is zero. -/
def Num.isZero : Num → Bool
  | .fin _ 0 _ => true | _ => false

/-- Maximum and minimum: the non-NaN operand if only one is NaN (R142). -/
def fmax (a b : Num) : Num := if a.isNan then b else if b.isNan then a else if a.lt b then b else a
def fmin (a b : Num) : Num := if a.isNan then b else if b.isNan then a else if b.lt a then b else a

/-- FP32 magnitude bits lie within `k` units of the last place of a magnitude `m * 2 ^ e`. -/
def withinUlps (k m : Nat) (e : Int) (mag : Nat) : Bool :=
  let (m', e') := Fmt.fp32.magValue mag
  let u := if m = 0 then -149 else max ((Nat.log2 m : Int) + e) (-126) - 23
  match addExact false m e true m' e' with
  | .fin _ d de => decide (mag ≤ Fmt.fp32.maxMag) && magLe d de k u
  | _ => false

/-- A result within `k` units of the last place of the exact value `v`: as far from the nearest one as a free value says, where
that is within the bound, else the nearest (Table 5.8). -/
def within (k : Nat) (v : Num) : Calc Num := do
  let n ← Calc.next
  match v with
  | .fin _ m e =>
    let mag := ((roundMag 23 127 .rne 0 m e : Int) + Config.ulpOff n).toNat
    if withinUlps k m e mag then return (match v with
      | .fin neg _ _ => .fin neg (Fmt.fp32.magValue mag).1 (Fmt.fp32.magValue mag).2
      | v => v)
    else toF32 v
  | v => return v

/-- The quotient of two finite values, `b` not zero, to many bits below the last place. -/
def divApprox (n1 : Bool) (m1 : Nat) (e1 : Int) (n2 : Bool) (m2 : Nat) (e2 : Int) : Num :=
  .fin (n1 != n2) (m1 * 2 ^ (200 + Nat.log2 m2) / m2) (e1 - e2 - (200 + Nat.log2 m2 : Nat))

/-- Division, its quotient rounded by `r`. Division of a non-zero value by zero is an infinity, as rcp(±0). -/
def divBy (r : Num → Calc Num) (a b : Num) : Calc Num := do
  match a, b with
  | .nan, _ | _, .nan => return .nan
  | .inf _, .inf _ => do Calc.noteNan; return .nan
  | .inf x, .fin n _ _ => return .inf (x != n)
  | .fin n _ _, .inf y => return .fin (n != y) 0 0
  | .fin n1 m1 e1, .fin n2 m2 e2 =>
    if m2 = 0 then
      if m1 = 0 then do Calc.noteNan; return .nan else return .inf (n1 != n2)
    else if m1 = 0 then return .fin (n1 != n2) 0 0
    else r (divApprox n1 m1 e1 n2 m2 e2)

/-- Division on the vector unit, within 1 ulp (Table 5.8). -/
def fdiv (a b : Num) : Calc Num := divBy (within 1) a b

/-- Division rounded to nearest even (R151). -/
def fdivRne (a b : Num) : Calc Num := divBy toF32 a b

/-- The FP32 value 1. -/
def Num.one : Num := .fin false 1 0
/-- The FP32 value +0. -/
def Num.zero : Num := .fin false 0 0
/-- A natural number as a value. -/
def Num.ofNat (n : Nat) : Num := .fin false n 0

/-- Reciprocal, within 1 ulp. -/
def frcp (a : Num) : Calc Num := fdiv .one a

/-- The square root of `m * 2 ^ e` to many bits below the last place. -/
def sqrtApprox (m : Nat) (e : Int) : Num :=
  let (m, e) := if e % 2 = 0 then (m, e) else (2 * m, e - 1)
  .fin false (Nat.sqrt (m * 2 ^ 200)) (e / 2 - 100)

/-- Square root, rounded by `r`; of a negative value, NaN; of ±0, itself. -/
def sqrtBy (r : Num → Calc Num) (a : Num) : Calc Num := do
  match a with
  | .nan => return .nan
  | .inf neg => if neg then do Calc.noteNan; return .nan else return .inf false
  | .fin neg m e =>
    if m = 0 then return .fin neg 0 0
    else if neg then do Calc.noteNan; return .nan
    else r (sqrtApprox m e)

/-- Square root on the vector unit, within 1 ulp (Table 5.8). -/
def fsqrt (a : Num) : Calc Num := sqrtBy (within 1) a

/-- Square root rounded to nearest even (R151). -/
def fsqrtRne (a : Num) : Calc Num := sqrtBy toF32 a

/-- Reciprocal square root, within 1 ulp; rsqrt(−x) = NaN (Table 5.8). -/
def frsqrt (a : Num) : Calc Num := do
  match a with
  | .nan => return .nan
  | .inf neg => if neg then do Calc.noteNan; return .nan else return .zero
  | .fin neg m e =>
    if m = 0 then return .inf neg
    else if neg then do Calc.noteNan; return .nan
    else match sqrtApprox m e with
      | .fin _ m' e' => within 1 (divApprox false 1 0 false m' e')
      | _ => return .nan

/-! ### Exponential and its relatives, in 200-bit fixed point -/

/-- ln 2 with 200 fractional bits. -/
def ln2Fix : Nat := 0xB17217F7D1CF79ABC9E3B39803F2F6AF40F343267298B62D8A

/-- Taylor series of exp at a fixed-point fraction below 1, 48 terms. -/
def expSeries (x : Nat) : Nat → Nat → Nat → Nat
  | 0, _, acc => acc
  | k + 1, term, acc =>
    let i := 48 - k
    let t := term * x / 2 ^ 200 / i
    expSeries x k t (acc + t)

/-- exp of a fixed-point number `x / 2 ^ 200`, as a value. -/
def expFix (x : Int) : Num :=
  let k := x / (ln2Fix : Int)
  let r := (x % (ln2Fix : Int)).toNat
  .fin false (expSeries r 48 (2 ^ 200) (2 ^ 200)) (k - 200)

/-- A finite value as fixed point with 200 fractional bits, truncated. -/
def toFix (neg : Bool) (m : Nat) (e : Int) : Int :=
  let s := e + 200
  let v : Nat := if 0 ≤ s then m * 2 ^ s.toNat else m / 2 ^ (-s).toNat
  if neg then -(v : Int) else v

/-- The value of a magnitude is at least `2 ^ k`. -/
def magGe (m : Nat) (e : Int) (k : Int) : Bool := m ≠ 0 && decide (k ≤ (Nat.log2 m : Int) + e)

/-- exp of a finite value before rounding; beyond ±256 it is outside FP32's range and shown as such. -/
def expRaw (neg : Bool) (m : Nat) (e : Int) : Num :=
  if magGe m e 8 then (if neg then .fin false 1 (-400) else .fin false 1 400) else expFix (toFix neg m e)

/-- exp, within 2 ulp (Table 5.8). -/
def fexp (a : Num) : Calc Num := do
  match a with
  | .nan => return .nan
  | .inf neg => return if neg then .zero else .inf false
  | .fin neg m e => within 2 (expRaw neg m e)

/-- Series of 2·atanh(t), `t` in fixed point below 1/3: 100 terms. -/
def atanhSeries (t2 : Nat) : Nat → Nat → Nat → Nat → Nat
  | 0, _, _, acc => acc
  | k + 1, i, p, acc => atanhSeries t2 k (i + 2) (p * t2 / 2 ^ 200) (acc + p / i)

/-- Natural logarithm of a positive finite value before rounding. -/
def logRaw (m : Nat) (e : Int) : Num :=
  let l := Nat.log2 m
  let x : Int := l + e
  let one := 2 ^ 200
  let f := m * 2 ^ 200 / 2 ^ l
  let t := (f - one) * 2 ^ 200 / (f + one)
  let v : Int := 2 * (atanhSeries (t * t / 2 ^ 200) 100 1 t 0 : Nat) + x * ln2Fix
  .fin (v < 0) v.natAbs (-200)

/-- log, within 2 ulp: log(0) = −∞, log(x < 0) = NaN (Table 5.8). -/
def flog (a : Num) : Calc Num := do
  match a with
  | .nan => return .nan
  | .inf neg => if neg then do Calc.noteNan; return .nan else return .inf false
  | .fin neg m e =>
    if m = 0 then return .inf true
    else if neg then do Calc.noteNan; return .nan
    else within 2 (logRaw m e)

/-- 1 ÷ (1 + exp(−x)) before rounding. -/
def sigmoidRaw (neg : Bool) (m : Nat) (e : Int) : Num :=
  match expRaw true m e with
  | .fin _ em ee =>
    match addExact false 1 0 false em ee with
    | .fin _ dm de => if neg then divApprox false em ee false dm de else divApprox false 1 0 false dm de
    | v => v
  | v => v

/-- sigmoid, within 4 ulp; limits at ±∞ exact. -/
def fsigmoid (a : Num) : Calc Num := do
  match a with
  | .nan => return .nan
  | .inf neg => return if neg then .zero else .one
  | .fin neg m e => within 4 (sigmoidRaw neg m e)

/-- tanh, within 4 ulp; below 2^−20 it is its argument to that accuracy. -/
def ftanh (a : Num) : Calc Num := do
  match a with
  | .nan => return .nan
  | .inf neg => return .fin neg 1 0
  | .fin neg m e =>
    if !magGe m e (-20) then within 4 (.fin neg m e)
    else match expRaw true m (e + 1) with
      | .fin _ em ee =>
        match addExact false 1 0 true em ee, addExact false 1 0 false em ee with
        | .fin _ nm ne, .fin _ dm de => within 4 (divApprox neg nm ne false dm de)
        | v, _ => return v
      | v => return v

/-- Exact product of two finite values. -/
def mulExact (a b : Num) : Num :=
  match a, b with
  | .fin n1 m1 e1, .fin n2 m2 e2 => .fin (n1 != n2) (m1 * m2) (e1 + e2)
  | _, _ => .nan

/-- x · sigmoid(x), within 4 ulp. -/
def fsilu (a : Num) : Calc Num := do
  match a with
  | .nan => return .nan
  | .inf neg => return if neg then .fin true 0 0 else .inf false
  | .fin neg m e => within 4 (mulExact a (sigmoidRaw neg m e))

/-- gelu in its tanh form, x · sigmoid(2·√(2/π)·(x + 0.044715·x³)), within 4 ulp. -/
def fgelu (a : Num) : Calc Num := do
  match a with
  | .nan => return .nan
  | .inf neg => return if neg then .fin true 0 0 else .inf false
  | .fin neg m e =>
    if magGe m e 40 then return (if neg then .fin true 0 0 else a)
    else
      -- 2·√(2/π) and 0.044715 with 100 fractional bits
      let c : Num := .fin false 2022877684829178931751713263627 (-100)
      let k : Num := .fin false 56682996589205277687925083828 (-100)
      let x3 := mulExact k (mulExact a (mulExact a a))
      match x3 with
      | .fin n3 m3 e3 =>
        match mulExact c (addExact neg m e n3 m3 e3) with
        | .fin ny my ey => within 4 (mulExact a (sigmoidRaw ny my ey))
        | v => return v
      | v => return v

/-- One of the unary functions of VUN, by FUNC (Table 5.10). -/
def vun (func : Nat) (a : Num) : Calc Num :=
  match func with
  | 0 => fexp a | 1 => flog a | 2 => frcp a | 3 => fsqrt a | 4 => frsqrt a | 5 => ftanh a | 6 => fsigmoid a
  | 7 => fsilu a | 8 => fgelu a | 9 => pure a.abs | _ => pure a.neg

/-- One of the binary functions of VBIN and VBINS, by FUNC (Table 5.10). -/
def vbin (func : Nat) (a b : Num) : Calc Num :=
  match func with
  | 0 => fadd a b | 1 => fsub a b | 2 => fmul a b | 3 => fdiv a b | 4 => pure (fmax a b) | _ => pure (fmin a b)

/-- FP32 additions of the terms two at a time, in an order the spec does not fix: at each addition the two terms are a
free choice (R135, R142). -/
def sumFree : Nat → List Num → Calc Num
  | _, [] => pure .zero
  | _, [x] => pure x
  | 0, x :: _ => pure x
  | fuel + 1, x :: y :: rest => do
    let l := x :: y :: rest
    let n ← Calc.next
    let i := Config.pick n % l.length
    let a := l.getD i .zero
    let l1 := l.eraseIdx i
    let j := Config.pick n / l.length % l1.length
    let b := l1.getD j .zero
    let c ← fadd a b
    sumFree fuel (c :: l1.eraseIdx j)

/-- The sum of a row in an unspecified order. -/
def fsum (l : List Num) : Calc Num := sumFree l.length l

/-! ### Microscaling blocks (R132, R139) -/

/-- The value of an MX element under its block's E8M0 scale: NaN under scale 0xFF. -/
def mxValue (f : Fmt) (scale b : Nat) : Num :=
  if scale = 0xFF then .nan else
    match f.value b with
    | .fin neg m e => .fin neg m (e + scale - 127)
    | v => v

/-- The exponent of an element format's largest normal (R139). -/
def mxTop : Fmt → Int
  | .mx8e4 => 8 | .mx8e5 => 15 | .mx6e3 => 4 | _ => 2

/-- The largest magnitude of finite values. -/
def amax (l : List Num) : Num :=
  l.foldl (fun acc v => if acc.lt v.abs then v.abs else acc) .zero

/-- The scale R139 chooses for a block of source values. -/
def mxScale (f : Fmt) (l : List Num) : Nat :=
  if l.any (fun v => match v with | .fin .. => false | _ => true) then 0xFF
  else match amax l with
    | .fin _ 0 _ => 0
    | .fin _ m e => (max 0 (min 254 ((Nat.log2 m : Int) + e - mxTop f + 127))).toNat
    | _ => 0xFF

/-- An MX block of source values: its scale and its elements' bits (R139). A block whose NaNs come of an infinity makes a NaN
(R140). -/
def mxBlock (f : Fmt) (r : Round) (sat : Bool) (l : List Num) : Calc (Nat × List Nat) := do
  let x := mxScale f l
  if x = 0xFF then
    if !l.any Num.isNan then Calc.noteNan
    return (x, l.map fun _ => 0)
  else
    let es ← l.mapM fun v => match v with
      | .fin neg m e => convert f r sat (.fin neg m (e - (x : Int) + 127))
      | v => convert f r sat v
    return (x, es)

end Sys2Proof.Machine
end

