-- ==== Sys2Proof/Machine/Tensor.lean ====
section
/-! DEFINITION. The tensor instructions' encoding (R144, R145, Table 5.9) and the arithmetic of the matrix engine,
vector unit, sampler and optimizer (R134 to R151), as functions of the operand buffer's bytes.  An instruction's
results are a list of writes, each an offset and its bytes. -/

namespace Sys2Proof.Machine

/-- The opcodes of Table 5.10. -/
inductive Opc where
  | nop | mma | mmx | mmt | vbin | vbins | vfma | vun | vred | vsoftmax | vnorm | vrope | vcvt | vmerge
  | sample | sverify | scommit | slogprob | oadam | osgd | load | store | mzquery | mzwrite | wait | signal | arrive
  | fence | end_
  deriving DecidableEq, Repr

/-- The opcode's value (Table 5.10). -/
def Opc.code : Opc → Nat
  | .nop => 0x00 | .mma => 0x01 | .mmx => 0x02 | .mmt => 0x03 | .vbin => 0x20 | .vbins => 0x21 | .vfma => 0x22
  | .vun => 0x23 | .vred => 0x24 | .vsoftmax => 0x25 | .vnorm => 0x26 | .vrope => 0x27 | .vcvt => 0x28
  | .vmerge => 0x29 | .sample => 0x40 | .sverify => 0x41 | .scommit => 0x42 | .slogprob => 0x43 | .oadam => 0x60
  | .osgd => 0x61 | .load => 0x80 | .store => 0x81 | .mzquery => 0x82 | .mzwrite => 0x83 | .wait => 0x88
  | .signal => 0x89 | .arrive => 0x8A | .fence => 0x8E | .end_ => 0x8F

/-- Every opcode, in the order of Table 5.10. -/
def Opc.all : List Opc :=
  [.nop, .mma, .mmx, .mmt, .vbin, .vbins, .vfma, .vun, .vred, .vsoftmax, .vnorm, .vrope, .vcvt, .vmerge, .sample,
   .sverify, .scommit, .slogprob, .oadam, .osgd, .load, .store, .mzquery, .mzwrite, .wait, .signal, .arrive, .fence,
   .end_]

/-- The opcode a value names; every other value is undefined (R145). -/
def Opc.ofCode (n : Nat) : Option Opc := Opc.all.find? (fun o => o.code == n)

/-- The five forms of Table 5.9. -/
inductive Form where
  | m | v | s | o | x
  deriving DecidableEq, Repr

/-- An opcode's form (Table 5.10). -/
def Opc.form : Opc → Form
  | .mma | .mmx | .mmt => .m
  | .vbin | .vbins | .vfma | .vun | .vred | .vsoftmax | .vnorm | .vrope | .vcvt | .vmerge => .v
  | .sample | .sverify | .scommit | .slogprob => .s
  | .oadam | .osgd => .o
  | _ => .x

/-- Bits `[hi:lo]` of an instruction word. -/
def fieldOf (w : Word128) (hi lo : Nat) : Nat := w.toNat / 2 ^ lo % 2 ^ (hi - lo + 1)

/-- OPCODE, bits [127:120]. -/
def opcodeOf (w : Word128) : Nat := fieldOf w 127 120

/-- The reserved bits of the instruction's form are 0 (R144). -/
def rsvdOk (o : Opc) (w : Word128) : Bool :=
  match o.form with
  | .m => o != .mmx || fieldOf w 31 28 == 0
  | .v => fieldOf w 104 104 == 0
  | .s => fieldOf w 115 104 == 0 && fieldOf w 22 20 == 0
  | .o => fieldOf w 111 108 == 0 && fieldOf w 104 96 == 0
  | .x => true

/-- ROWS of the M, V and S forms. -/
def rowsOf (w : Word128) : Nat := fieldOf w 103 96 + 1

/-! ### Operand buffer access -/

/-- Size of the operand buffer. -/
def obSize : Nat := 4194304

/-- `n` rounded up to a multiple of 64 (R136: every row stride). -/
def up64 (n : Nat) : Nat := (n + 63) / 64 * 64

/-- A little-endian number of `n` bytes (R5). -/
def rdNat (rd : Nat → Byte) (off : Nat) : Nat → Nat
  | 0 => 0
  | n + 1 => (rd off).toNat + 256 * rdNat rd (off + 1) n

/-- The little-endian bytes of a number (R5). -/
def toBytes : Nat → Nat → List Byte
  | 0, _ => []
  | n + 1, v => BitVec.ofNat 8 v :: toBytes n (v / 256)

/-- Element `i` of packed elements of format `f` from `off` (R132). -/
def rdElem (rd : Nat → Byte) (f : Fmt) (off i : Nat) : Nat :=
  let b := f.bits
  rdNat rd (off + i * b / 8) ((b + 7) / 8 + 1) / 2 ^ (i * b % 8) % 2 ^ b

/-- Elements packed as R132 lays them out. -/
def packElems (b : Nat) (es : List Nat) : List Byte :=
  toBytes ((es.length * b + 7) / 8) (es.foldr (fun e acc => e + 2 ^ b * acc) 0)

/-- Bytes of `n` packed elements. -/
def packedLen (f : Fmt) (n : Nat) : Nat := (n * f.bits + 7) / 8

/-- Row stride of `n` packed elements. -/
def strideOf (f : Fmt) (n : Nat) : Nat := up64 (packedLen f n)

/-- A write of an instruction: offset and bytes. -/
abbrev ObWrite := Nat × List Byte

/-- The results of a tile-op: each with the row of D it belongs to, where it is a matrix instruction's (R128, R189). -/
abbrev TileOp := List (Option Nat × ObWrite)

/-- Results that one tile-op writes. -/
def oneOp (ws : List ObWrite) : List TileOp := [ws.map fun w => (none, w)]

/-- Results written `n` to a tile-op. -/
def opsOf (n : Nat) : Nat → List ObWrite → List TileOp
  | 0, ws => oneOp ws
  | k + 1, ws => if ws.length ≤ n then oneOp ws else oneOp (ws.take n) ++ opsOf n k (ws.drop n)

/-! ### The matrix engine -/

/-- Rank of an operand format: BF16, then 8-bit, 6-bit, 4-bit (R134). -/
def fmtRank : Fmt → Nat
  | .bf16 => 3 | .mx6e3 | .mx6e2 => 1 | .mx4 => 0 | _ => 2

/-- K_TILE and N_TILE of a pair of operand formats (Table 5.4, R134). -/
def tileShape (a b : Fmt) : Nat × Nat :=
  if a = .int8 then (128, 64)
  else match max (fmtRank a) (fmtRank b) with
    | 3 => (64, 64) | 0 => (128, 128) | _ => (128, 64)

/-- The operand and destination formats are a combination Tables 5.4 and 5.5 permit. -/
def matrixFormatsOk (a b d : Fmt) (acc : Bool) : Bool :=
  let fl := fun f => match f with | Fmt.fp32 | .int32 | .int8 => false | _ => true
  if a = .int8 || b = .int8 then a = .int8 && b = .int8 && d = .int32
  else fl a && fl b && (if acc then d = .fp32 else d = .fp32 || d = .bf16 || d = .e4m3 || d = .e5m2)

/-- The fields of a matrix instruction. -/
structure MInstr where
  fa : Fmt
  fb : Fmt
  fd : Fmt
  round : Round
  acc : Bool
  sat : Bool
  rows : Nat
  addrA : Nat
  addrB : Nat
  addrD : Nat
  addrSA : Nat
  addrSB : Nat
  delta : Nat
  nt : Nat
  kt : Nat
  deriving DecidableEq, Repr

/-- The fields of a matrix instruction word, where its formats and rounding are defined and permitted (Table 5.2). -/
def mDecode (w : Word128) : Option MInstr := do
  let fa ← Fmt.ofCode (fieldOf w 119 116)
  let fb ← Fmt.ofCode (fieldOf w 115 112)
  let fd ← Fmt.ofCode (fieldOf w 111 108)
  let r ← Round.ofCode (fieldOf w 107 106)
  let acc := fieldOf w 105 105 == 1
  if matrixFormatsOk fa fb fd acc then
    some { fa := fa, fb := fb, fd := fd, round := r, acc := acc, sat := fieldOf w 104 104 == 1, rows := rowsOf w,
           addrA := fieldOf w 95 80 * 64, addrB := fieldOf w 79 64 * 64, addrD := fieldOf w 63 48 * 64,
           addrSA := fieldOf w 47 32 * 64, addrSB := fieldOf w 31 16 * 64, delta := fieldOf w 27 16,
           nt := fieldOf w 15 8 + 1, kt := fieldOf w 7 0 + 1 }
  else none

/-- Reduction length and columns of a matrix instruction. -/
def MInstr.k (i : MInstr) : Nat := i.kt * (tileShape i.fa i.fb).1
def MInstr.n (i : MInstr) : Nat := i.nt * (tileShape i.fa i.fb).2

/-- Tile-ops of a matrix instruction (R136). -/
def MInstr.tileOps (i : MInstr) : Nat := i.nt * i.kt

/-- Clocks the array takes for one tile-op (R136). -/
def MInstr.tileClocks (i : MInstr) : Nat := max 64 i.rows + 2

/-- Element (j, k) of A (R136). -/
def MInstr.aVal (i : MInstr) (rd : Nat → Byte) (j k : Nat) : Num :=
  let b := rdElem rd i.fa (i.addrA + j * strideOf i.fa i.k) k
  if i.fa.isMx then mxValue i.fa (rd (i.addrSA + j * up64 ((i.k + 31) / 32) + k / 32)).toNat b else i.fa.value b

/-- Element (k, n) of MMA's B: tile (kt, nt) at tile index nt × KT + kt (R136). -/
def MInstr.bTile (i : MInstr) (rd : Nat → Byte) (k n : Nat) : Num :=
  let (kT, nT) := tileShape i.fa i.fb
  let t := n / nT * i.kt + k / kT
  let b := rdElem rd i.fb (i.addrB + t * packedLen i.fb (kT * nT)) (n % nT * kT + k % kT)
  if i.fb.isMx then
    mxValue i.fb (rd (i.addrSB + (t * nT + n % nT) * (kT / 32) + k % kT / 32)).toNat b
  else i.fb.value b

/-- Element (k, n) of MMT's B, read as Bᵀ: row n holds the K elements (R136); its scales lie as those of A do (DESIGN CHOICE, log entry
73). -/
def MInstr.bRow (i : MInstr) (rd : Nat → Byte) (k n : Nat) : Num :=
  let b := rdElem rd i.fb (i.addrB + n * strideOf i.fb i.k) k
  if i.fb.isMx then mxValue i.fb (rd (i.addrSB + n * up64 ((i.k + 31) / 32) + k / 32)).toNat b else i.fb.value b

/-- An integer of an INT value. -/
def Num.toInt : Num → Int
  | .fin neg m e => let v : Int := (m * 2 ^ e.toNat : Nat); if neg then -v else v
  | _ => 0

/-- The INT32 limits. -/
def int32Max : Int := 2147483647

/-- One element of D: the sum of exact products, with D's prior value when ACC = 1, converted once (R135). An INT32 sum is kept
without limit and saturates once, at its end (DESIGN CHOICE, log entry 73). -/
def MInstr.element (i : MInstr) (rd : Nat → Byte) (bv : Nat → Nat → Num) (j n : Nat) : Calc Nat := do
  let prior := i.fd.value (rdElem rd i.fd (i.addrD + j * strideOf i.fd i.n) n)
  let as := (List.range i.k).map fun k => (i.aVal rd j k, bv k n)
  if i.fa = .int8 then
    let s := as.foldl (fun acc (a, b) => acc + a.toInt * b.toInt) (if i.acc then prior.toInt else 0)
    let c := max (-int32Max - 1) (min int32Max s)
    if c ≠ s then Calc.noteIntSat
    return (c % 2 ^ 32).toNat
  else
    let ps ← as.mapM fun (a, b) => a.mulRaw b
    let s ← fsum ((if i.acc then prior else .zero) :: ps)
    convert i.fd i.round i.sat (← toF32 s)

/-- The rows of D a matrix instruction computes: D[j][n] for every row that is not dead and every column below `cols` (R135, R136,
R189). -/
def MInstr.rowsOfD (i : MInstr) (rd : Nat → Byte) (bv : Nat → Nat → Num) (dead : Nat → Bool) (cols : Nat) :
    Calc (List (Nat × ObWrite)) :=
  ((List.range i.rows).filter fun j => !dead j).mapM fun j => do
    let es ← (List.range cols).mapM fun n => i.element rd bv j n
    return (j, i.addrD + j * strideOf i.fd i.n, packElems i.fd.bits es)

/-- The tile-ops of a matrix instruction whose first `nts` column tiles are computed, kt varying fastest: the last of each column
tile writes the tile's columns of every row (R136). -/
def MInstr.ops (i : MInstr) (nts : Nat) (rows : List (Nat × ObWrite)) : List TileOp :=
  let w := (tileShape i.fa i.fb).2 * i.fd.bits / 8
  (List.range nts).flatMap fun t => List.replicate (i.kt - 1) [] ++
    [rows.map fun (j, off, bs) => (some j, off + t * w, (bs.drop (t * w)).take w)]

/-- What the first `tiles` tile-ops of a matrix instruction write. -/
def MInstr.run (i : MInstr) (rd : Nat → Byte) (bv : Nat → Nat → Num) (dead : Nat → Bool) (tiles : Nat) : Calc (List TileOp) := do
  return i.ops (tiles / i.kt) (← i.rowsOfD rd bv dead (tiles / i.kt * (tileShape i.fa i.fb).2)) ++ List.replicate (tiles % i.kt) []

/-- Ranges of the operand buffer a matrix instruction reads, given the range its B takes, and writes. -/
def MInstr.ranges (i : MInstr) (b : List (Nat × Nat)) : List (Nat × Nat) × List (Nat × Nat) :=
  let d := (i.addrD, i.rows * strideOf i.fd i.n)
  let a := (i.addrA, i.rows * strideOf i.fa i.k)
  let sa := if i.fa.isMx then [(i.addrSA, i.rows * up64 ((i.k + 31) / 32))] else []
  (a :: sa ++ b ++ (if i.acc then [d] else []), [d])

/-- The range of B of MMA, with its scales. -/
def MInstr.bTileRanges (i : MInstr) : List (Nat × Nat) :=
  (i.addrB, packedLen i.fb (i.k * i.n)) :: if i.fb.isMx then [(i.addrSB, i.k * i.n / 32)] else []

/-- The range of B of MMT, with its scales. -/
def MInstr.bRowRanges (i : MInstr) : List (Nat × Nat) :=
  (i.addrB, i.n * strideOf i.fb i.k) :: if i.fb.isMx then [(i.addrSB, i.n * up64 ((i.k + 31) / 32))] else []

/-! ### The vector unit -/

/-- The fields of a vector instruction. -/
structure VInstr where
  op : Opc
  fi : Fmt
  fo : Fmt
  func : Nat
  round : Round
  sat : Bool
  rows : Nat
  addrX : Nat
  addrY : Nat
  addrZ : Nat
  len : Nat
  imm : Nat
  deriving DecidableEq, Repr

/-- The largest FUNC an opcode defines (Table 5.10). -/
def Opc.maxFunc : Opc → Nat
  | .vbin | .vbins => 5 | .vun => 10 | .vred => 4 | .vnorm => 1 | _ => 15

/-- The fields of a vector instruction word, where its formats, rounding and FUNC are defined. Table 5.2 does not name a FUNC that
Table 5.10 does not list: it is taken for an undefined opcode (DESIGN CHOICE, log entry 73). -/
def vDecode (o : Opc) (w : Word128) : Option VInstr := do
  let fi ← Fmt.ofCode (fieldOf w 119 116)
  let fo ← Fmt.ofCode (fieldOf w 115 112)
  let r ← Round.ofCode (fieldOf w 107 106)
  let func := fieldOf w 111 108
  let len := fieldOf w 47 32
  if func ≤ o.maxFunc then
    some { op := o, fi := fi, fo := fo, func := func, round := r, sat := fieldOf w 105 105 == 1, rows := rowsOf w,
           addrX := fieldOf w 95 80 * 64, addrY := fieldOf w 79 64 * 64, addrZ := fieldOf w 63 48 * 64,
           len := if len = 0 then 65536 else len, imm := fieldOf w 31 0 }
  else none

/-- Element `c` of row `r` of a row-major operand, as an FP32 value, given the scale of its block where it has one. -/
def VInstr.input (i : VInstr) (rd : Nat → Byte) (f : Fmt) (scale base r c : Nat) : Calc Num := do
  let b := rdElem rd f (base + r * strideOf f i.len) c
  if f.isMx then return mxValue f scale b
  else if f = .int32 then toF32 (f.value b)
  else return f.value b

/-- The scales of a row of a microscaling operand, one for each block of 32: the V form names no place that holds them, so each is
a free value (R132, log entry 73). -/
def VInstr.scales (i : VInstr) (f : Fmt) : Calc (List Nat) :=
  if f.isMx then (List.range ((i.len + 31) / 32)).mapM fun _ => do return Config.unstated (← Calc.next) % 256
  else return []

/-- Row `r` of an operand. Its rows lie at a stride rounded up to 64 bytes (DESIGN CHOICE, log entry 73). -/
def VInstr.row (i : VInstr) (rd : Nat → Byte) (f : Fmt) (base r : Nat) : Calc (List Num) := do
  let xs ← i.scales f
  (List.range i.len).mapM fun c => i.input rd f (xs.getD (c / 32) 0) base r c

/-- Consecutive blocks of 32. -/
def blocks32 {α : Type} : Nat → List α → List (List α)
  | 0, _ => []
  | _, [] => []
  | n + 1, l => l.take 32 :: blocks32 n (l.drop 32)

/-- A row of results written in FMT_OUT, with MX scales at ADDR_Y for VCVT (R139). The spec names no place for the scales of another
operation's result, which are not written (DESIGN CHOICE, log entry 73). -/
def VInstr.output (i : VInstr) (r : Nat) (vs : List Num) : Calc (List ObWrite) := do
  let base := i.addrZ + r * strideOf i.fo vs.length
  if i.fo.isMx then
    let bs ← (blocks32 vs.length vs).mapM fun b => mxBlock i.fo i.round i.sat b
    let es := packElems i.fo.bits (bs.flatMap fun b => b.2)
    let sc := (i.addrY + r * up64 ((vs.length + 31) / 32), packElems 8 (bs.map fun b => b.1))
    return if i.op = .vcvt then [(base, es), sc] else [(base, es)]
  else
    let es ← vs.mapM fun v => convert i.fo i.round i.sat v
    return [(base, packElems i.fo.bits es)]

/-- Index and value of the largest element: NaN ignored, ties to the lowest index (R142). -/
def argmax (l : List Num) : Nat × Num :=
  (l.foldl (fun (acc : Nat × Nat × Num) v =>
    let (k, best, bv) := acc
    if v.isNan then (k + 1, best, bv)
    else if bv.isNan || bv.lt v then (k + 1, k, v) else (k + 1, best, bv)) (0, 0xFFFFFFFF, .nan)).2

/-- One row reduction (VRED, R142): any NaN gives NaN for the sums; maxima ignore NaN. -/
def vredRow (func : Nat) (l : List Num) : Calc Nat := do
  match func with
  | 0 => return (← fsum l).f32Bits
  | 1 => return (argmax l).2.f32Bits
  | 2 => return ((argmax (l.map Num.neg)).2.neg).f32Bits
  | 3 => do let sq ← l.mapM fun v => fmul v v; return (← fsum sq).f32Bits
  | _ => return (argmax l).1

/-- Row softmax of IMM × X. -/
def softmaxRow (scale : Num) (l : List Num) : Calc (List Num) := do
  let z ← l.mapM fun v => fmul scale v
  let big := (argmax z).2
  let es ← z.mapM fun v => do fexp (← fsub v big)
  let s ← fsum es
  if z.any Num.isNan then return l.map fun _ => .nan
  es.mapM fun e => fdiv e s

/-- RMS norm (FUNC 0) and layer norm (FUNC 1) of a row with gain, epsilon `eps` added under the root (DESIGN CHOICE, log entry 73). -/
def normRow (func : Nat) (eps : Num) (gain l : List Num) : Calc (List Num) := do
  let n := Num.ofNat l.length
  let x ← if func = 0 then pure l else do
    let mean ← fdiv (← fsum l) n
    l.mapM fun v => fsub v mean
  let sq ← x.mapM fun v => fmul v v
  let ms ← fdiv (← fsum sq) n
  let r ← frsqrt (← fadd ms eps)
  (x.zip gain).mapM fun (v, g) => do fmul (← fmul v r) g

/-- Rotary embedding of the pairs (2i, 2i + 1) of a row: `cs` holds cos and sin of each pair in turn (DESIGN CHOICE, log
entry 73). -/
def ropeRow (x cs : List Num) : Calc (List Num) := do
  let ps ← (List.range (x.length / 2)).mapM fun i => do
    let a := x.getD (2 * i) .zero
    let b := x.getD (2 * i + 1) .zero
    let c := cs.getD (2 * i) .zero
    let s := cs.getD (2 * i + 1) .zero
    let p ← fsub (← fmul a c) (← fmul b s)
    let q ← fadd (← fmul a s) (← fmul b c)
    return [p, q]
  return ps.flatten

/-- The merge of R119 for one row and head: partials (O, M, L). -/
def mergeRow (hd : Nat) (ps : List (List Num × Num × Num)) : Calc (List Num) := do
  if ps.any (fun (o, m, l) => m.isNan || l.isNan || o.any Num.isNan) then return List.replicate hd .nan
  let some_ := ps.filter fun (_, _, l) => Num.zero.lt l
  let bigM := if some_.isEmpty then .inf true else (argmax (some_.map fun (_, m, _) => m)).2
  let ws ← (ps.filter fun (_, _, l) => !l.isZero).mapM fun (o, m, l) => do
    let w ← fmul l (← fexp (← fsub m bigM))
    return (w, o)
  let bigL ← fsum (.zero :: ws.map fun p => p.1)
  (List.range hd).mapM fun d => do
    let ts ← ws.mapM fun (w, o) => fmul w (o.getD d .zero)
    let acc ← fsum (.zero :: ts)
    if Num.zero.lt bigL then fdiv acc bigL else return .zero

/-- One PARTIAL record at `off`: O in BF16, M and L in FP32 (Table 4.2). -/
def rdPartial (rd : Nat → Byte) (hd off : Nat) : List Num × Num × Num :=
  ((List.range hd).map fun d => Fmt.bf16.value (rdElem rd .bf16 off d), f32 (rdNat rd (off + 2 * hd) 4),
   f32 (rdNat rd (off + 2 * hd + 4) 4))

/-- The merge of VMERGE (R143): per row and head, n records back to back at ADDR_X. -/
def VInstr.merge (i : VInstr) (rd : Nat → Byte) : Calc (List ObWrite) := do
  let n := i.imm % 2 ^ 16
  let hd := i.imm / 2 ^ 16
  let rec_ := 2 * hd + 8
  let ws ← (List.range i.rows).mapM fun r => do
    let ps := (List.range n).map fun k => rdPartial rd hd (i.addrX + (r * n + k) * rec_)
    i.output r (← mergeRow hd ps)
  return ws.flatten

/-- One row of a vector instruction other than VMERGE (Table 5.10). VRED's results lie back to back, 4 bytes a row; VFMA reads Z in
FMT_OUT; VNORM's gain is one row, in FMT_IN, for every row of X (DESIGN CHOICE, log entry 73). -/
def VInstr.rowRun (i : VInstr) (rd : Nat → Byte) (r : Nat) : Calc (List ObWrite) := do
  let x ← i.row rd i.fi i.addrX r
  match i.op with
  | .vbin => do
    let y ← i.row rd i.fi i.addrY r
    i.output r (← (x.zip y).mapM fun (a, b) => vbin i.func a b)
  | .vbins => i.output r =<< x.mapM fun a => vbin i.func a (f32 i.imm)
  | .vfma => do
    let y ← i.row rd i.fi i.addrY r
    let z ← i.row rd i.fo i.addrZ r
    i.output r (← (x.zip (y.zip z)).mapM fun (a, b, c) => ffma a b c)
  | .vun => i.output r =<< x.mapM fun a => vun i.func a
  | .vred => do
    let v ← vredRow i.func x
    return [(i.addrZ + 4 * r, toBytes 4 v)]
  | .vsoftmax => i.output r =<< softmaxRow (f32 i.imm) x
  | .vnorm => do
    let g ← i.row rd i.fi i.addrY 0
    i.output r =<< normRow i.func (f32 i.imm) g x
  | .vrope => do
    let cs ← i.row rd i.fi i.addrY r
    i.output r =<< ropeRow x cs
  | _ => i.output r x

/-- A vector instruction's writes. -/
def VInstr.writes (i : VInstr) (rd : Nat → Byte) : Calc (List ObWrite) :=
  if i.op = .vmerge then i.merge rd
  else do return (← (List.range i.rows).mapM fun r => i.rowRun rd r).flatten

/-- Clocks of one row: ceil(LEN ÷ 256) a pass, two passes for softmax and normalisation (section 5.5); VMERGE's pass is taken over
its n records (log entry 19). -/
def VInstr.rowClocks (i : VInstr) : Nat := match i.op with
  | .vsoftmax | .vnorm => 2 * ((i.len + 255) / 256)
  | .vmerge => i.imm % 2 ^ 16 * ((i.imm / 2 ^ 16 + 255) / 256)
  | _ => (i.len + 255) / 256

/-- What a vector instruction writes, by tile-op: as many rows to each as 4,096 clocks take; a row that takes more has tile-ops before
the one that writes it (R128). -/
def VInstr.run (i : VInstr) (rd : Nat → Byte) : Calc (List TileOp) := do
  let ws ← i.writes rd
  return (opsOf (max 1 (4096 / max 1 i.rowClocks) * (ws.length / i.rows)) i.rows ws).flatMap fun op =>
    List.replicate ((i.rowClocks - 1) / 4096) [] ++ [op]

/-- The parameters lie within their limits: VMERGE takes 1 to 65 records (R143). -/
def VInstr.limitsOk (i : VInstr) : Bool :=
  i.op != .vmerge || (1 ≤ i.imm % 2 ^ 16 && i.imm % 2 ^ 16 ≤ 65 && 1 ≤ i.imm / 2 ^ 16)

/-- Ranges a vector instruction reads and writes. -/
def VInstr.ranges (i : VInstr) : List (Nat × Nat) × List (Nat × Nat) :=
  let mat := fun (b : Nat) (f : Fmt) => (b, i.rows * strideOf f i.len)
  let x := mat i.addrX i.fi
  let z := mat i.addrZ i.fo
  match i.op with
  | .vbin | .vrope => ([x, mat i.addrY i.fi], [z])
  | .vfma => ([x, mat i.addrY i.fi, z], [z])
  | .vnorm => ([x, (i.addrY, strideOf i.fi i.len)], [z])
  | .vred => ([x], [(i.addrZ, 4 * i.rows)])
  | .vcvt => ([x], if i.fo.isMx then [z, (i.addrY, i.rows * up64 ((i.len + 31) / 32))] else [z])
  | .vmerge =>
    let n := i.imm % 2 ^ 16
    let hd := i.imm / 2 ^ 16
    ([(i.addrX, i.rows * n * (2 * hd + 8))], [(i.addrZ, i.rows * strideOf i.fo hd)])
  | _ => ([x], [z])

/-! ### The sampler -/

/-- A request's sampling parameters, from its working record. -/
structure SampleParams where
  temperature : Num
  topP : Num
  topK : Nat
  penalty : Num
  deriving DecidableEq, Repr

/-- A value is at most zero or NaN. -/
def Num.notPos (v : Num) : Bool := v.isNan || v.le .zero

/-- Inserts into a list kept with the larger value first and ties to the lower ID. -/
def insertDesc (x : Nat × Num) : List (Nat × Num) → List (Nat × Num)
  | [] => [x]
  | y :: l => if y.2.lt x.2 || (!(x.2.lt y.2) && x.1 < y.1) then x :: y :: l else y :: insertDesc x l

/-- Sorted by value, largest first, ties to the lower ID. -/
def sortDesc (l : List (Nat × Num)) : List (Nat × Num) := l.foldr insertDesc []

/-- The shortest prefix whose running sum reaches `lim`. -/
def takeTo (lim : Num) : Num → List (Nat × Num) → Calc (List (Nat × Num))
  | _, [] => return []
  | acc, x :: l => do
    let s ← fadd acc x.2
    if lim.le s then return [x] else return x :: (← takeTo lim s l)

/-- The first candidate whose running sum exceeds `lim`; the last where there is none (R146, step 8). -/
def drawFrom (lim : Num) : Num → List (Nat × Num) → Nat → Calc Nat
  | _, [], last => return last
  | acc, x :: l, _ => do
    let s ← fadd acc x.2
    if lim.lt s then return x.1 else drawFrom lim s l x.1

/-- The candidates of a logit row with the repeat penalty applied (R146, steps 1 and 2). -/
def candidates (p : SampleParams) (pen : List Nat) (row : List Num) : Calc (List (Nat × Num)) := do
  let pf := if p.penalty.notPos then Num.one else p.penalty
  let cs := (row.zipIdx.map fun (v, i) => (i, v)).filter fun c => !c.2.isNan
  cs.mapM fun (i, v) => do
    if pen.contains i then
      let v' ← if v.lt .zero then fmul v pf else fdiv v pf
      return (i, v')
    else return (i, v)

/-- The greedy choice: the largest penalised logit, ties to the lowest ID. -/
def greedyOf (cs : List (Nat × Num)) : Nat := ((sortDesc cs).headD (0, .zero)).1

/-- The kept candidates with their probabilities (R146, step 6): where a z is +∞, those that are share them alike. -/
def keptProbs (kept : List (Nat × Num)) : Calc (List (Nat × Num)) := do
  let infs := kept.filter fun c => c.2 = .inf false
  if infs ≠ [] then
    let p ← frcp (.ofNat infs.length)
    return infs.map fun (i, _) => (i, p)
  else
    let big := (argmax (kept.map fun c => c.2)).2
    let es ← kept.mapM fun (i, v) => do return (i, ← fexp (← fsub v big))
    let s ← fsum (es.map fun c => c.2)
    es.mapM fun (i, e) => do return (i, ← fdiv e s)

/-- The kept candidates in sorted order with their probabilities' weights (R146, steps 4 to 7). -/
def distOf (p : SampleParams) (cs : List (Nat × Num)) : Calc (List (Nat × Num)) := do
  let z ← cs.mapM fun (i, v) => do return (i, ← fdiv v p.temperature)
  let kept := if 0 < p.topK ∧ p.topK < z.length then (sortDesc z).take p.topK else z
  let sorted := sortDesc (← keptProbs kept)
  if p.topP.isNan || Num.one.le p.topP then return sorted
  else if p.topP.le .zero then return sorted.take 1
  else do
    let total ← fsum (sorted.map fun c => c.2)
    takeTo (← fmul p.topP total) .zero sorted

/-- A draw from a distribution (R146, step 8). -/
def drawOf (d : List (Nat × Num)) : Calc Nat := do
  let r ← Calc.rand24
  let s ← fsum (d.map fun c => c.2)
  let lim ← fmul (.fin false r (-24)) s
  drawFrom lim .zero d 0

/-- The logarithm of a token's probability under the softmax of some logits; where one is +∞, those that are share it (R146, R150). -/
def logSoftmax (z : List (Nat × Num)) (tok : Nat) : Calc Num := do
  let infs := (z.filter fun c => c.2 = .inf false).length
  match z.find? (fun c => c.1 == tok) with
  | none => return .inf true
  | some c =>
    if infs ≠ 0 then do
      if c.2 = .inf false then return (← flog (.ofNat infs)).neg else return .inf true
    else do
    let big := (argmax (z.map fun c => c.2)).2
    let es ← z.mapM fun (_, v) => do fexp (← fsub v big)
    fsub (← fsub c.2 big) (← flog (← fsum es))

/-- LOGPROB of a token under the softmax of all candidates' logits divided by the temperature; none is the greedy choice's
temperature of 1 (R146). -/
def logprobOf (t : Option Num) (cs : List (Nat × Num)) (tok : Nat) : Calc Num := do
  match t with
  | none => logSoftmax cs tok
  | some t => logSoftmax (← cs.mapM fun (i, v) => do return (i, ← fdiv v t)) tok

/-- A sample entry (Table 5.12). -/
structure SampleRes where
  accepted : Nat
  tokens : List Nat
  logprobs : List Num
  deriving DecidableEq, Repr

/-- The temperature LOGPROB divides by; none when greedy. -/
def SampleParams.logT (p : SampleParams) : Option Num := if p.temperature.notPos then none else some p.temperature

/-- One token of a logit row (R146); none where no candidate is finite (Table 5.2; log entry 73 where others are not NaN). -/
def sampleRow (p : SampleParams) (pen : List Nat) (row : List Num) : Calc (Option (Nat × Num)) := do
  let cs ← candidates p pen row
  if !row.any Num.isFin then return none
  let tok ← if p.temperature.notPos then pure (greedyOf cs) else do drawOf (← distOf p cs)
  return some (tok, ← logprobOf p.logT cs tok)

/-- Verification of drafts in order from row `i` (R148): rows still to use, drafts still to verify. The bonus token comes from the
row after the last draft verified, which is row SPEC_WINDOW where that is below DRAFTS; p_i is taken over its own sum; a rejection
that leaves no candidate gives token 0 (DESIGN CHOICE, log entry 74). -/
def verifyRows (p : SampleParams) (pen : List Nat) : List (List Num) → List Nat → SampleRes → Calc (Option SampleRes)
  | [], _, acc => return some acc
  | row :: _, [], acc => do
    match ← sampleRow p pen row with
    | none => return none
    | some (t, lp) => return some { acc with tokens := acc.tokens ++ [t], logprobs := acc.logprobs ++ [lp] }
  | row :: rows, d :: ds, acc => do
    let cs ← candidates p pen row
    if !row.any Num.isFin then return none
    if p.temperature.notPos then
      let g := greedyOf cs
      let lp ← logprobOf none cs g
      let acc' := { acc with tokens := acc.tokens ++ [g], logprobs := acc.logprobs ++ [lp] }
      if g = d then verifyRows p pen rows ds { acc' with accepted := acc.accepted + 1 } else return some acc'
    else
      let dist ← distOf p cs
      let s ← fsum (dist.map fun c => c.2)
      let pd ← match dist.find? (fun c => c.1 == d) with
        | some c => fdiv c.2 s
        | none => pure .zero
      let r ← Calc.rand24
      if (Num.fin false r (-24)).lt pd then
        let lp ← logprobOf p.logT cs d
        verifyRows p pen rows ds
          { accepted := acc.accepted + 1, tokens := acc.tokens ++ [d], logprobs := acc.logprobs ++ [lp] }
      else
        let t ← drawOf (dist.filter fun c => c.1 != d)
        let lp ← logprobOf p.logT cs t
        return some { acc with tokens := acc.tokens ++ [t], logprobs := acc.logprobs ++ [lp] }

/-- The bytes of a sample entry (Table 5.12). -/
def SampleRes.bytes (r : SampleRes) : List Byte :=
  let pad := fun (l : List Nat) => l ++ List.replicate (17 - l.length) 0
  toBytes 4 r.tokens.length ++ toBytes 4 r.accepted
    ++ (pad r.tokens).flatMap (toBytes 4) ++ List.replicate 4 0 ++ (pad (r.logprobs.map Num.f32Bits)).flatMap (toBytes 4)
    ++ List.replicate 44 0

/-- The fields of a sampler instruction. -/
structure SInstr where
  fi : Fmt
  rows : Nat
  addrX : Nat
  addrY : Nat
  addrZ : Nat
  addrP : Nat
  drafts : Nat
  pwin : Nat
  vocab : Nat
  deriving DecidableEq, Repr

/-- The fields of a sampler instruction word: logits are FP32 or BF16 (Table 5.9). -/
def sDecode (w : Word128) : Option SInstr := do
  let fi ← Fmt.ofCode (fieldOf w 119 116)
  if fi = .fp32 ∨ fi = .bf16 then
    some { fi := fi, rows := rowsOf w, addrX := fieldOf w 95 80 * 64, addrY := fieldOf w 79 64 * 64,
           addrZ := fieldOf w 63 48 * 64, addrP := fieldOf w 47 32 * 64, drafts := fieldOf w 31 27,
           pwin := fieldOf w 26 23, vocab := fieldOf w 19 0 + 1 }
  else none

/-- A logit row. -/
def SInstr.logits (i : SInstr) (rd : Nat → Byte) (r : Nat) : List Num :=
  (List.range i.vocab).map fun c => i.fi.value (rdElem rd i.fi (i.addrX + r * strideOf i.fi i.vocab) c)

/-- The penalty list of request `r`: 2^PWIN_LOG2 token IDs, 0xFFFF_FFFF unused (R146). -/
def SInstr.penalties (i : SInstr) (rd : Nat → Byte) (r : Nat) : List Nat :=
  let n := 2 ^ i.pwin
  ((List.range n).map fun k => rdNat rd (i.addrP + r * up64 (n * 4) + 4 * k) 4).filter fun t => t != 0xFFFFFFFF

/-- The request and drafts of request list entry `r` (Table 5.11). -/
def SInstr.entry (i : SInstr) (rd : Nat → Byte) (r : Nat) : Nat × List Nat :=
  (rdNat rd (i.addrY + 128 * r) 8, (List.range 16).map fun k => rdNat rd (i.addrY + 128 * r + 8 + 4 * k) 4)

/-- Requests a SAMPLE or SVERIFY covers: one per 1 + DRAFTS rows. -/
def SInstr.requests (i : SInstr) : Nat := i.rows / (1 + i.drafts)

/-- DRAFTS is at most 16 and ROWS a multiple of 1 + DRAFTS. -/
def SInstr.limitsOk (i : SInstr) : Bool := i.drafts ≤ 16 && i.rows % (1 + i.drafts) == 0

/-- The tile-ops of SAMPLE and SVERIFY: one for each logit row, whose at most 2^20 elements take 4,096 clocks at 256 lanes; the last of a
request's rows writes its entry (R128, log entry 19). -/
def SInstr.ops (i : SInstr) (ws : List ObWrite) : List TileOp := ws.flatMap fun w => List.replicate i.drafts [] ++ oneOp [w]

/-- Ranges of SAMPLE and SVERIFY. -/
def SInstr.sampleRanges (i : SInstr) : List (Nat × Nat) × List (Nat × Nat) :=
  let n := i.requests
  ([(i.addrX, i.rows * strideOf i.fi i.vocab), (i.addrY, 128 * n), (i.addrP, n * up64 (2 ^ i.pwin * 4))],
   [(i.addrZ, 192 * n)])

/-- One row of SLOGPROB: the log-probability of the entry's token under the raw logits (R150); its results lie back to back, 4 bytes
a row (DESIGN CHOICE, log entry 73). -/
def SInstr.logprobRow (i : SInstr) (rd : Nat → Byte) (r : Nat) : Calc ObWrite := do
  let cs := ((i.logits rd r).zipIdx.map fun (v, k) => (k, v)).filter fun c => !c.2.isNan
  let tok := rdNat rd (i.addrY + 128 * r) 4
  let lp ← logSoftmax cs tok
  return (i.addrZ + 4 * r, toBytes 4 lp.f32Bits)

/-- What SLOGPROB writes, one row to a tile-op. -/
def SInstr.logprobs (i : SInstr) (rd : Nat → Byte) : Calc (List TileOp) := do
  return opsOf 1 i.rows (← (List.range i.rows).mapM fun r => i.logprobRow rd r)

/-! ### The optimizer (R151) -/

/-- The fields of an optimizer instruction. -/
structure OInstr where
  fg : Fmt
  fw : Fmt
  round : Round
  sat : Bool
  addrG : Nat
  addrM : Nat
  addrS1 : Nat
  addrS2 : Nat
  addrW : Nat
  addrP : Nat
  deriving DecidableEq, Repr

/-- The fields of an optimizer instruction word (Table 5.9). -/
def oDecode (w : Word128) : Option OInstr := do
  let fg ← Fmt.ofCode (fieldOf w 119 116)
  let fw ← Fmt.ofCode (fieldOf w 115 112)
  let r ← Round.ofCode (fieldOf w 107 106)
  if (fg = .fp32 ∨ fg = .bf16) ∧ (fw = .bf16 ∨ fw = .e4m3 ∨ fw = .e5m2) then
    some { fg := fg, fw := fw, round := r, sat := fieldOf w 105 105 == 1, addrG := fieldOf w 95 80 * 64,
           addrM := fieldOf w 79 64 * 64, addrS1 := fieldOf w 63 48 * 64, addrS2 := fieldOf w 47 32 * 64,
           addrW := fieldOf w 31 16 * 64, addrP := fieldOf w 15 0 * 64 }
  else none

/-- COUNT of the parameter block (Table 5.13). -/
def OInstr.count (i : OInstr) (rd : Nat → Byte) : Nat := rdNat rd (i.addrP + 0x20) 4

/-- One element of OADAM or OSGD: its writes (R151). Each arithmetic step rounds to nearest even. -/
def OInstr.element (i : OInstr) (adam : Bool) (rd : Nat → Byte) (k : Nat) : Calc (List ObWrite) := do
  let par := fun off => f32 (rdNat rd (i.addrP + off) 4)
  let at32 := fun base => f32 (rdNat rd (base + 4 * k) 4)
  let g ← fmul (par 0x1C) (i.fg.value (rdElem rd i.fg i.addrG k))
  let b1 := par 0x04
  let w := at32 i.addrM
  let wr := fun (base : Nat) (v : Num) => ((base + 4 * k, toBytes 4 v.f32Bits) : ObWrite)
  if adam then
    let b2 := par 0x08
    let m1 ← fadd (← fmul b1 (at32 i.addrS1)) (← fmul (← fsub .one b1) g)
    let m2 ← fadd (← fmul b2 (at32 i.addrS2)) (← fmul (← fmul (← fsub .one b2) g) g)
    let upd ← fdivRne (← fmul m1 (par 0x14)) (← fadd (← fsqrtRne (← fmul m2 (par 0x18))) (par 0x0C))
    let w' ← fsub w (← fmul (par 0x00) (← fadd upd (← fmul (par 0x10) w)))
    if g.isNan then Calc.noteNan
    let o ← convert i.fw i.round i.sat w'
    return [wr i.addrS1 m1, wr i.addrS2 m2, wr i.addrM w', (i.addrW + k * i.fw.bits / 8, packElems i.fw.bits [o])]
  else
    let m1 ← fadd (← fmul b1 (at32 i.addrS1)) g
    let w' ← fsub w (← fmul (par 0x00) (← fadd m1 (← fmul (par 0x10) w)))
    if g.isNan then Calc.noteNan
    let o ← convert i.fw i.round i.sat w'
    return [wr i.addrS1 m1, wr i.addrM w', (i.addrW + k * i.fw.bits / 8, packElems i.fw.bits [o])]

/-- Every element below COUNT, 65,536 to a tile-op: at 256 lanes and at most 16 steps an element they take 4,096 clocks (R128, log
entry 19). -/
def OInstr.run (i : OInstr) (adam : Bool) (rd : Nat → Byte) : Calc (List TileOp) := do
  return opsOf (65536 * if adam then 4 else 3) 4 (← (List.range (i.count rd)).mapM fun k => i.element adam rd k).flatten

/-- Ranges of an optimizer instruction. -/
def OInstr.ranges (i : OInstr) (adam : Bool) (n : Nat) : List (Nat × Nat) × List (Nat × Nat) :=
  let v := fun (b : Nat) => (b, 4 * n)
  let st := v i.addrM :: v i.addrS1 :: if adam then [v i.addrS2] else []
  ((i.addrP, 64) :: (i.addrG, packedLen i.fg n) :: st, (i.addrW, packedLen i.fw n) :: st)

/-! ### X-form fields -/

/-- LEN[23:0] of the X form; the VALUE of WAIT, SIGNAL and ARRIVE. -/
def xLen (w : Word128) : Nat := fieldOf w 119 96
def xAddrOb (w : Word128) : Nat := fieldOf w 95 80 * 64
def xDoneCtr (w : Word128) : Nat := fieldOf w 79 64
def xGaddr (w : Word128) : Nat := fieldOf w 63 0

/-- A 24-bit field as a signed number (R301). -/
def signed24 (v : Nat) : Int := if v % 2 ^ 24 < 2 ^ 23 then ((v % 2 ^ 24 : Nat) : Int) else ((v % 2 ^ 24 : Nat) : Int) - 2 ^ 24

end Sys2Proof.Machine
end

