-- ==== Sys2Proof/Machine/Expand.lean ====
section
/-! DEFINITION. CRC-32C, the compressed weight block, code tables and delta sets (chapter 6), as functions of bytes. -/

namespace Sys2Proof.Machine

/-- One bit step of CRC-32C's reflected division (log entry 5). -/
def crcBit (c : Nat) : Nat := if c % 2 = 1 then Nat.xor (c / 2) 0x82F63B78 else c / 2

/-- CRC-32C over one more byte. -/
def crcByte (c : Nat) (b : Byte) : Nat :=
  crcBit (crcBit (crcBit (crcBit (crcBit (crcBit (crcBit (crcBit (Nat.xor c b.toNat))))))))

/-- CRC-32C over further bytes, each one's remainder before the next byte's. -/
def crcBytes : Nat → List Byte → Nat
  | c, [] => c
  | c, b :: bs =>
    match crcByte c b with
    | 0 => crcBytes 0 bs
    | n + 1 => crcBytes (n + 1) bs

/-- CRC-32C of a byte string. -/
def crc32c (bs : List Byte) : Nat := Nat.xor (crcBytes 0xFFFFFFFF bs) 0xFFFFFFFF

/-- Bytes `off` to `off + n - 1`. -/
def bytesAt (rd : Nat → Byte) (off n : Nat) : List Byte := (List.range n).map fun i => rd (off + i)

/-- Bits `[hi:lo]` of a number. -/
def bitsOf (v hi lo : Nat) : Nat := v / 2 ^ lo % 2 ^ (hi - lo + 1)

/-! ### Code tables (R159 to R161) -/

/-- Symbols of an element format: 16, 64 or 256. -/
def symbolsOf (f : Fmt) : Nat := 2 ^ f.bits

/-- The element format of a code 0x2 to 0x8 (R153, R159). -/
def blockFmt (c : Nat) : Option Fmt := if 2 ≤ c ∧ c ≤ 8 then Fmt.ofCode c else none

/-- LEN[s] of a code table image at `base` (Table 6.3). -/
def imageLen (rd : Nat → Byte) (base s : Nat) : Nat :=
  bitsOf (rdNat rd (base + 0x10 + 8 * (s / 16)) 8) (4 * (s % 16) + 3) (4 * (s % 16))

/-- The ELEMENT code, TABLE_ID and lengths of an image that R159 accepts. -/
def tableImage (rd : Nat → Byte) (base : Nat) : Option (Nat × Nat × List Nat) :=
  let w0 := rdNat rd base 8
  let w1 := rdNat rd (base + 8) 8
  let el := bitsOf w0 43 40
  let id := bitsOf w0 39 28
  let lens := (List.range 256).map fun s => imageLen rd base s
  match blockFmt el with
  | none => none
  | some f =>
    let n := symbolsOf f
    if bitsOf w0 63 48 = 0xC0DE ∧ bitsOf w0 47 44 = 1 ∧ bitsOf w0 27 0 = 0 ∧ bitsOf w1 31 0 = 0 ∧ id ≠ 0
        ∧ bitsOf w1 63 32 = crc32c (bytesAt rd base 0x0C ++ bytesAt rd (base + 0x10) 0x80)
        ∧ (lens.drop n).all (· == 0) ∧ lens.any (· != 0)
        ∧ (lens.map fun l => if l = 0 then 0 else 2 ^ (15 - l)).sum ≤ 2 ^ 15 then
      some (el, id, lens)
    else none

/-- Symbols of one length, ascending. -/
def symbolsOfLen (lens : List Nat) (l : Nat) : List Nat :=
  (lens.zipIdx.filter fun p => p.1 == l).map fun p => p.2

/-- First codeword of each length from `l` on, with the symbols of that length (R160). -/
def codeRows (lens : List Nat) : Nat → Nat → Nat → List (Nat × List Nat)
  | 0, _, _ => []
  | fuel + 1, l, code =>
    let first := 2 * code
    let syms := symbolsOfLen lens l
    (first, syms) :: codeRows lens fuel (l + 1) (first + syms.length)

/-- The canonical code of R160: for lengths 1 to 15, the first codeword and the symbols. -/
def codeOf (lens : List Nat) : List (Nat × List Nat) := codeRows lens 15 1 0

/-- Bit `i` of a segment (R158). -/
def segBit (seg : List Byte) (i : Nat) : Nat := (seg.getD (i / 8) 0).toNat / 2 ^ (i % 8) % 2

/-- One code of a segment from bit `pos` (R161): the symbol and the position after it, or the failing status. -/
def decodeCode (seg : List Byte) (limit : Nat) : List (Nat × List Nat) → Nat → Nat → Except St (Nat × Nat)
  | [], _, _ => .error .expandCode
  | (first, syms) :: rest, code, pos =>
    if limit ≤ pos then .error .expandLength
    else
      let c := 2 * code + segBit seg pos
      if syms.length ≠ 0 ∧ first ≤ c ∧ c - first < syms.length then .ok (syms.getD (c - first) 0, pos + 1)
      else decodeCode seg limit rest c (pos + 1)

/-- `n` codes of a segment. -/
def decodeCodes (seg : List Byte) (limit : Nat) (rows : List (Nat × List Nat)) : Nat → Nat → Except St (List Nat × Nat)
  | 0, pos => .ok ([], pos)
  | n + 1, pos => do
    let (s, p) ← decodeCode seg limit rows 0 pos
    let (l, q) ← decodeCodes seg limit rows n p
    return (s :: l, q)

/-- `w` bits, least significant first. -/
def takeBits (seg : List Byte) : Nat → Nat → Nat
  | 0, _ => 0
  | w + 1, pos => segBit seg pos + 2 * takeBits seg w (pos + 1)

/-- `n` stored elements of `w` bits (TABLE_ID = 0). -/
def decodeStored (seg : List Byte) (limit w : Nat) : Nat → Nat → Except St (List Nat × Nat)
  | 0, pos => .ok ([], pos)
  | n + 1, pos =>
    if limit < pos + w then .error .expandLength
    else do
      let (l, q) ← decodeStored seg limit w n (pos + w)
      return (takeBits seg w pos :: l, q)

/-- One segment of `kT` elements (R158, R161): a code, or stored elements where `lens` is none. -/
def decodeSegment (seg : List Byte) (kT w : Nat) (lens : Option (List Nat)) : Except St (List Nat) := do
  let limit := 8 * seg.length
  let (es, pos) ← match lens with
    | some l => decodeCodes seg limit (codeOf l) kT 0
    | none => decodeStored seg limit w kT 0
  if (pos + 7) / 8 ≠ seg.length then .error .expandLength
  else if pos % 8 ≠ 0 ∧ (seg.getD (seg.length - 1) 0).toNat / 2 ^ (pos % 8) ≠ 0 then .error .expandLength
  else .ok es

/-! ### Blocks (R157, R162) -/

/-- A block header's fields (Table 6.2). -/
structure BlockHdr where
  element : Nat
  tableId : Nat
  elements : Nat
  length : Nat
  modelId : Nat
  tileKey : Nat
  check : Nat
  formOk : Bool
  deriving DecidableEq, Repr

/-- The header of the block at `off`. -/
def blockHdr (rd : Nat → Byte) (off : Nat) : BlockHdr :=
  let w0 := rdNat rd off 8
  let w1 := rdNat rd (off + 8) 8
  let w2 := rdNat rd (off + 16) 8
  let w3 := rdNat rd (off + 24) 8
  { element := bitsOf w0 43 40, tableId := bitsOf w0 39 28, elements := bitsOf w1 63 32, length := bitsOf w1 31 0,
    modelId := bitsOf w2 63 48, tileKey := bitsOf w2 31 0, check := bitsOf w3 63 32,
    formOk := bitsOf w0 63 48 = 0xB10C ∧ bitsOf w0 47 44 = 1 ∧ bitsOf w0 27 0 = 0 ∧ bitsOf w2 47 32 = 0
      ∧ bitsOf w3 31 0 = 0 }

/-- Length of the scale area (Table 6.1). -/
def scaleLen (f : Fmt) (kT nT : Nat) : Nat := if f.isMx then nT * kT / 32 else 0

/-- A failed block check: its status and the segment in which decoding stopped, 0xFF for checks 1 to 6 (R163); a failed delta check
and poison met while segments are read name no segment either (DESIGN CHOICE, log entry 75). -/
structure BlockFault where
  status : St
  segment : Nat
  deriving DecidableEq, Repr

/-- A decoded weight tile: elements n × K_TILE + k, and the offset of its scales. -/
structure Tile where
  hdr : BlockHdr
  elems : List (List Nat)
  scales : Nat
  deriving DecidableEq, Repr

/-- Segments decoded in column order. -/
def decodeSegments (rd : Nat → Byte) (kT w : Nat) (lens : Option (List Nat)) :
    List Nat → Nat → Nat → Except BlockFault (List (List Nat))
  | [], _, _ => .ok []
  | l :: ls, n, off =>
    match decodeSegment (bytesAt rd off l) kT w lens with
    | .error e => .error ⟨e, n⟩
    | .ok es => do return es :: (← decodeSegments rd kT w lens ls (n + 1) (off + l))

/-- The checks of Table 6.4, in order, on the block at `off`, and its decoded tile. `pz` tells whether a range holds
poison, which is met where a check first reads it (R162); `tab` gives the ELEMENT and lengths of a table bound to the running context and resident. -/
def decodeBlock (rd : Nat → Byte) (pz : Nat → Nat → Bool) (tab : Nat → Option (Nat × List Nat)) (f : Fmt)
    (fCode kT nT off : Nat) : Except BlockFault Tile := do
  let err := fun s => (Except.error ⟨s, 0xFF⟩ : Except BlockFault Unit)
  let h := blockHdr rd off
  if off + 32 > obSize then err .operandRange
  if pz off 32 then err .poisonRead
  if !h.formOk || h.element != fCode then err .expandFormat
  if off + h.length > obSize then err .operandRange
  let lens ← if h.tableId = 0 then pure none else
    match tab h.tableId with
    | none => .error ⟨.tableAbsent, 0xFF⟩
    | some (el, l) => if el = h.element then pure (some l) else .error ⟨.expandFormat, 0xFF⟩
  if pz (off + 32) (min nT (h.length - 32)) then err .poisonRead
  let segs := (bytesAt rd (off + 32) nT).map BitVec.toNat
  let s := scaleLen f kT nT
  if h.elements ≠ kT * nT ∨ h.length ≠ 32 + nT + s + segs.sum then err .expandLength
  if pz off h.length then err .poisonRead
  if h.check ≠ crc32c (bytesAt rd off 0x1C ++ bytesAt rd (off + 0x20) (h.length - 0x20)) then err .expandCheck
  let es ← decodeSegments rd kT f.bits lens segs 0 (off + 32 + nT + s)
  return { hdr := h, elems := es, scales := off + 32 + nT }

/-! ### Delta sets (R171 to R175) -/

/-- A delta set's header (Table 6.6). -/
structure DsetHdr where
  modelId : Nat
  variantId : Nat
  policyVersion : Nat
  tileCount : Nat
  setBytes : Nat
  l1 : Nat
  entries : Nat
  deriving DecidableEq, Repr

/-- The fields of the header at `base`. -/
def dsetFields (rd : Nat → Byte) (base : Nat) : DsetHdr :=
  let w0 := rdNat rd base 8
  let w1 := rdNat rd (base + 8) 8
  { modelId := bitsOf w0 31 16, variantId := bitsOf w0 15 0, policyVersion := bitsOf w1 63 32,
    tileCount := bitsOf w1 31 0, setBytes := rdNat rd (base + 0x10) 8, l1 := rdNat rd (base + 0x18) 8,
    entries := rdNat rd (base + 0x20) 8 }

/-- The header of the set at `base`, where MAGIC, VERSION and the Rsvd bits are right. -/
def dsetHdr (rd : Nat → Byte) (base : Nat) : Option DsetHdr :=
  let w0 := rdNat rd base 8
  if bitsOf w0 63 48 = 0xD5E7 ∧ bitsOf w0 47 44 = 1 ∧ bitsOf w0 43 32 = 0 ∧ rdNat rd (base + 0x28) 16 = 0
      ∧ rdNat rd (base + 0x38) 4 = 0 then some (dsetFields rd base)
  else none

/-- COUNT and OFFSET of a tile's entries; none where the tile, its chunk or its key has none (R175). -/
def dsetTile (rd : Nat → Byte) (base : Nat) (h : DsetHdr) (key : Nat) : Nat × Nat :=
  if h.tileCount ≤ key then (0, 0) else
    let l2 := rdNat rd (base + h.l1 + 8 * (key / 256)) 8
    if l2 = 0 then (0, 0) else
      let t := rdNat rd (base + l2 + 8 * (key % 256)) 8
      (bitsOf t 63 48, bitsOf t 47 0)

/-- The ranges, from the set's header, that are read for a tile's entries: the header, the two directory entries and the entries
themselves. -/
def dsetReads (rd : Nat → Byte) (base : Nat) (h : DsetHdr) (key : Nat) : List (Nat × Nat) :=
  if h.tileCount ≤ key then [(0, 64)] else
    let l2 := rdNat rd (base + h.l1 + 8 * (key / 256)) 8
    if l2 = 0 then [(0, 64), (h.l1 + 8 * (key / 256), 8)]
    else
      let t := dsetTile rd base h key
      [(0, 64), (h.l1 + 8 * (key / 256), 8), (l2 + 8 * (key % 256), 8), (t.2, 3 * t.1)]

/-- The entries (INDEX, Rsvd, DELTA) of a tile. -/
def dsetEntries (rd : Nat → Byte) (base count off : Nat) : List (Nat × Nat × Nat) :=
  (List.range count).map fun i =>
    let e := rdNat rd (base + off + 3 * i) 3
    (bitsOf e 23 10, bitsOf e 9 8, bitsOf e 7 0)

/-- Strictly ascending. -/
def ascending : List Nat → Bool
  | a :: b :: l => a < b && ascending (b :: l)
  | _ => true

/-- One tile's entry list lies within the set, ascends, and holds no NaN (R172). -/
def dsetTileOk (rd : Nat → Byte) (base : Nat) (h : DsetHdr) (count off : Nat) : Bool :=
  let es := dsetEntries rd base count off
  count ≤ 16384 && off + 3 * count ≤ h.setBytes && ascending (es.map fun e => e.1)
    && es.all fun e => e.2.1 == 0 && e.2.2 % 128 != 0x7F

/-- The whole-set checks of R172. The entries of the last chunk at or above TILE_COUNT are neither checked nor summed (DESIGN CHOICE, log
entry 75). -/
def dsetOk (rd : Nat → Byte) (base : Nat) : Option DsetHdr :=
  match dsetHdr rd base with
  | none => none
  | some h =>
    let chunks := (h.tileCount + 255) / 256
    let l2s := (List.range chunks).map fun c => rdNat rd (base + h.l1 + 8 * c) 8
    let dirOk := h.l1 % 8 = 0 ∧ h.l1 + 8 * chunks ≤ h.setBytes ∧ 64 ≤ h.setBytes
      ∧ l2s.all (fun o => o % 8 == 0 && (o == 0 || o + 2048 ≤ h.setBytes))
    let tiles := (List.range h.tileCount).map fun k => dsetTile rd base h k
    if dirOk ∧ rdNat rd (base + 0x3C) 4 = crc32c (bytesAt rd base 0x3C ++ bytesAt rd (base + 0x40) (h.setBytes - 0x40))
        ∧ tiles.all (fun t => dsetTileOk rd base h t.1 t.2) ∧ (tiles.map fun t => t.1).sum = h.entries then
      some h
    else none

/-- An element corrected by a delta (R174): the new bits and whether the sum was not exact. -/
def applyDelta (f : Fmt) (e d : Nat) : Nat × Bool :=
  match f.value e, Fmt.e4m3.value d with
  | .fin n1 m1 e1, .fin n2 m2 e2 =>
    match addExact n1 m1 e1 n2 m2 e2 with
    | .fin neg m ex =>
      if m = 0 then (0, false) else
        let (_, mb, bias) := f.shape
        let mag := min f.maxMag (roundMag mb bias .rne 0 m ex)
        let (rm, re) := f.magValue mag
        (signed f neg mag, !(magLe m ex rm re && magLe rm re m ex))
    | _ => (e, false)
  | _, _ => (e, false)

/-- A tile's elements, in the order n × K_TILE + k, with a tile's entries applied in turn, and how many were inexact. -/
def applyDeltas (f : Fmt) : List Nat → List (Nat × Nat × Nat) → List Nat × Nat
  | es, [] => (es, 0)
  | es, (i, _, d) :: rest =>
    let (v, inexact) := applyDelta f (es.getD i 0) d
    let (es', n) := applyDeltas f (es.set i v) rest
    (es', n + if inexact then 1 else 0)

/-- Load time of a tile beyond 64 clocks (R156). -/
def tileStall (len count : Nat) : Nat := max 64 (max (up64 len / 128 + if up64 len % 128 = 0 then 0 else 1) ((count + 15) / 16)) - 64

/-! ### State of the table store -/

/-- A loaded or dropping code table (section 6.5). ID 0, the stored table, is always loaded and not listed. -/
structure CodeTable where
  id : Nat
  element : Nat
  lens : List Nat
  dropping : Bool
  /-- Contexts that bind it. -/
  binds : List Nat
  /-- Logical cores whose expander holds a copy. -/
  resident : List Nat
  deriving DecidableEq, Repr

/-- A loaded or dropping delta slot. -/
structure DeltaSlot where
  slot : Nat
  base : Nat
  modelId : Nat
  variantId : Nat
  dropping : Bool
  binds : List Nat
  deriving DecidableEq, Repr

/-- The EXP command running (R166): TABLE_LOAD waiting for the expanders, or DSET_LOAD reading its set. -/
inductive ExpBusy where
  | tableLoad (id element : Nat) (lens : List Nat)
  | dsetLoad (slot base : Nat)
  deriving DecidableEq, Repr

/-- The expander's and Stipple's node-wide state. -/
structure Exp where
  tables : List CodeTable
  slots : List DeltaSlot
  /-- Contexts that bind the stored table, ID 0. -/
  storedBinds : List Nat
  busy : Option ExpBusy
  deriving DecidableEq, Repr

end Sys2Proof.Machine
end

