-- ==== Sys2Proof/Machine/RseTypes.lean ====
section
/-! DEFINITION. The request state engine's data (chapter 2): the request state record, the home's, the owner's and
the deputy's copies, and the messages between request state engines. -/

namespace Sys2Proof.Machine

/-- Request states (Table 2.2), in the order of their STATE encoding. -/
inductive ReqState where
  | free | queued | prefill | ready | decode | paused | moving | parked | done | cancelled | failed | restarted
  deriving DecidableEq, Repr

/-- The STATE encoding (Table 2.2). -/
def ReqState.code : ReqState → Nat
  | .free => 0 | .queued => 1 | .prefill => 2 | .ready => 3 | .decode => 4 | .paused => 5 | .moving => 6
  | .parked => 7 | .done => 8 | .cancelled => 9 | .failed => 10 | .restarted => 11

/-- Who gets the reply to a host command: the command numbered `ref` at this node's host port, or one another node
forwarded here (R68, R330). -/
inductive ReplyTo where
  | here (ref : Nat)
  | node (n ref : Nat)
  deriving DecidableEq, Repr

/-- A request state record (R40, Table 2.1). REPLY_ADDR is one 128-bit number; TEMPERATURE, TOP_P and REPEAT_PENALTY
are their bit patterns. PAGE_HEAD, PAGE_COUNT and HISTORY_HEAD are read off the page map (`Rse.recordBytes`). -/
structure Record where
  id : Nat
  epoch : Nat
  owner : Nat
  deputy : Nat
  formatVersion : Nat
  state : ReqState
  nextState : ReqState
  moveDest : Nat
  movePhase : Nat
  /-- CLASS: latency-critical (1) or best-effort (0). -/
  lc : Bool
  coded : Bool
  mirrored : Bool
  pauseAtEnd : Bool
  cancelSeen : Bool
  retried : Bool
  restarts : Nat
  pageSize : Nat
  placement : Nat
  context : Nat
  tenant : Nat
  queue : Nat
  modelId : Nat
  variantId : Nat
  policyVersion : Nat
  stalenessMax : Nat
  specWindow : Nat
  historyLength : Nat
  kvCommitted : Nat
  genCommitted : Nat
  maxNewTokens : Nat
  streamed : Nat
  lastToken : Nat
  ttlTicks : Nat
  replyAddr : Nat
  replyPort : Nat
  replyStream : Nat
  temperature : Nat
  topP : Nat
  topK : Nat
  repeatPenalty : Nat
  mirrorSeq : Nat
  hostTag : Nat
  stopTokens : List Nat
  finalStatus : St
  stepCount : Nat
  deriving DecidableEq, Repr

/-- A pause or park asked of an owner (R64, R438). -/
structure PauseReq where
  /-- A park (to PARKED) rather than a PAUSE. -/
  park : Bool
  ttl : Nat
  reply : Option ReplyTo
  deriving DecidableEq, Repr

/-- What the home's mirror write in flight is for (R34, R35). -/
inductive Change where
  | submit (reply : ReplyTo)
  | resume (reply : ReplyTo)
  | place (target : Nat)
  | move (src dst : Nat)
  | recover (lost : Nat)
  | restart (lost : Nat)
  | repair (claimants : List Nat)
  | rebase
  /-- A reclaimed slot: expiry, a tombstone, a record with nothing left. -/
  | reclaim
  /-- A change the home does not wait for (a step note, a tombstone, a queue change). -/
  | note
  /-- The restoring write of R439, what it restores from, and the status of the refusal. -/
  | restore (of : Change) (status : St)
  deriving DecidableEq, Repr

/-- A host command the home answers later (Table 2.8, R64, R440). -/
inductive WaitCmd where
  | cancel (reply : ReplyTo)
  | pause (p : PauseReq)
  | move (dest : Nat) (reply : ReplyTo)
  deriving DecidableEq, Repr

/-- A command the home forwarded, as NOT_OWNER names it. -/
inductive FwdKind where
  | cancel | pause (p : PauseReq) | move (dest : Nat) (reply : ReplyTo)
  deriving DecidableEq, Repr

/-- A claim gathered under R60. -/
structure Claim where
  node : Nat
  epoch : Nat
  committed : Bool
  record : Record
  deriving DecidableEq, Repr

/-- A page a node named under PG_LOCATE (R102). -/
structure LocatedPage where
  node : Nat
  index : Nat
  layer : Nat
  firstPos : Nat
  group : Nat
  /-- 0 to 7 data, 8 parity. -/
  memberNo : Nat
  deriving DecidableEq, Repr

/-- A RESUME block (Table 12.5). `rsvdOk`: every Rsvd bit is 0. -/
structure ResumeBlock where
  id : Nat
  maxNew : Nat
  promptSrc : Nat
  ttl : Nat
  promptLength : Nat
  replyStream : Nat
  promptVa : Nat
  promptRkey : Nat
  promptQp : Nat
  rsvdOk : Bool
  deriving DecidableEq, Repr

/-- A home record with what the home keeps beside it (R32, R65, R67). -/
structure HomeRec where
  r : Record
  /-- CHECK verifies (R41). -/
  checkOk : Bool
  /-- Token history: the input tokens of every turn and the generated tokens of completed turns. -/
  history : List Nat
  /-- The history pages are readable. -/
  historyOk : Bool
  prefixKey : Nat
  prefixLen : Nat
  /-- A placement of the request has committed: the prefix key ranks no later one (R195). -/
  placed : Bool
  /-- Node a PLACE is out to, with the epoch it carried. -/
  placing : Option (Nat × Nat)
  /-- AON tick at which a PAUSED record expires (R65). -/
  deadline : Option Nat
  /-- AON tick at which the record became final (R67). -/
  finalAt : Option Nat
  /-- Commands whose reply waits for the request's fate. -/
  waits : List WaitCmd
  /-- Commands NOT_OWNER returned from an owner that has not yet received MV_COMMITTED: forwarded again after
  QUERY_RETRY_US (R441). -/
  resend : List FwdKind
  /-- A RESUME held while a hand-back is in MOVING (R66) or its rebase waits for the deputy, with its block and inline
  tokens. -/
  heldResume : Option (ReplyTo × ResumeBlock × List Nat)
  /-- A change the deputy has not acknowledged that is made again (R35). -/
  deferred : Option Change
  /-- PG_LOCATE answers gathered, and the nodes that have not answered (R102). -/
  located : List LocatedPage
  locateWait : List Nat
  /-- The owner is lost and the recovery of R62 is under way. -/
  recovering : Bool
  /-- Source of the committed move whose MV_RELEASED is awaited. -/
  moveSrc : Nat
  deriving DecidableEq, Repr

/-- What names a mirror write of a record: its MIRROR_SEQ, and the sender's EPOCH (R57). -/
structure MirrorMark where
  seq : Nat
  epoch : Nat
  deriving DecidableEq, Repr

/-- A mirror write in flight, in the order sent (R34). -/
structure MirrorPend where
  id : Nat
  seq : Nat
  change : Change
  /-- The home record before the change; none where there was none. -/
  prior : Option HomeRec
  /-- The home record the change makes, recorded at the acknowledgement (Table 2.4, step 5). -/
  next : Option HomeRec
  deriving DecidableEq, Repr

/-- One deputy mirror slot (R33 to R36, R65). -/
structure Mirror where
  r : Record
  history : List Nat
  /-- The epoch the deputy answered at, once it fenced the ID (R36). -/
  fenced : Option Nat
  /-- The deputy's AON tick when it applied the last write (R65). -/
  tickAt : Nat
  deriving DecidableEq, Repr

/-- How a node holds a working copy (R45, R51 to R55). -/
inductive CopyStatus where
  /-- PLACE_ACCEPT sent; PLACED awaited. -/
  | reserved
  /-- MV_PREPARE accepted; MV_COMMITTED awaited. -/
  | prepared
  /-- The node owns the request. -/
  | owned
  deriving DecidableEq, Repr

/-- Where a move at the source stands (Table 2.4). -/
inductive MovePhase where
  | evicting | preparing | committing
  deriving DecidableEq, Repr

/-- Who asked for a move. -/
inductive MoveOrigin where
  | host (reply : ReplyTo)
  | burin
  | handback (p : PauseReq)
  /-- The end of a turn with PAUSE_AT_END (row 7). -/
  | endOfTurn
  deriving DecidableEq, Repr

/-- A move in progress at its source (R51). -/
structure MoveOut where
  dest : Nat
  prior : ReqState
  phase : MovePhase
  origin : MoveOrigin
  deriving DecidableEq, Repr

/-- A step in flight (R46, R50, R88). -/
structure StepInfo where
  /-- Prompt positions of a prefill chunk; 0 for a decode step. -/
  chunk : Nat
  /-- Draft positions d. -/
  drafts : Nat
  /-- The core group it runs on. -/
  group : Nat
  /-- Tokens the sampler accepted with their LOGPROB bits, waiting for ring room or acknowledgements (R49, R101, R114). -/
  accepted : Option (List (Nat × Nat))
  /-- Some unit failed before the commit (R50). -/
  failed : Bool
  deriving DecidableEq, Repr

/-- A token of the output ring (R49): its position in the turn and whether TOKEN has been released. -/
structure RingTok where
  pos : Nat
  token : Nat
  logprob : Nat
  released : Bool
  deriving DecidableEq, Repr

/-- An owner's or a destination's working copy (R32, R45, R51). -/
structure Work where
  r : Record
  status : CopyStatus
  checkOk : Bool
  /-- Node that sent PLACE or MV_PREPARE. -/
  from_ : Nat
  ring : List RingTok
  /-- Committed positions whose STEP_ACK has not arrived, oldest first. -/
  notes : List Nat
  step : Option StepInfo
  /-- READ tags of pulls outstanding (R53). -/
  pulls : List Nat
  /-- Pages still to be recalled before the first step (R97). -/
  recalling : Bool
  pendPause : Option PauseReq
  pendMove : Option (Nat × MoveOrigin)
  /-- A refused hand-back or park waits out REFUSE_HOLD_US (R437). -/
  holdRetry : Bool
  move : Option MoveOut
  /-- The state before MOVING, which row 11 returns to. -/
  before : ReqState
  /-- A cancel was accepted (R69). -/
  cancelled : Bool
  /-- In doubt under R58; the query has gone out. -/
  doubt : Bool
  /-- Write-through acknowledgements still to come for the last commit (R101). -/
  throughWait : Nat
  history : List Nat
  genTokens : List Nat
  prefixKey : Nat
  prefixLen : Nat
  deriving DecidableEq, Repr

/-- Where the home's bind to its deputy stands (R33). -/
inductive BindState where
  | none | sent | copying | bound | refused
  deriving DecidableEq, Repr

/-- A copy's state in a resynchronisation (R38). -/
structure ResyncItem where
  r : Record
  history : List Nat
  fenced : Bool
  deriving DecidableEq, Repr

/-- A T1 page entry travelling with a record (R53, MV_PREPARE, PLACE). -/
structure PageRef where
  kind : Nat
  layer : Nat
  firstPos : Nat
  /-- 0 T0 at the source, to be pulled; 1 T1; 2 a page to be fetched to T0: T2, or at a placement T0 of the home. -/
  tier : Nat
  /-- Holder node (T1), source node (T0) or node whose pool holds it (T2). -/
  node : Nat
  index : Nat
  pageSize : Nat
  group : Nat
  memberNo : Nat
  copyNode : Nat
  copyIndex : Nat
  sealed : Bool
  deriving DecidableEq, Repr

/-- The contents of PLACE and MV_PREPARE: record at the sender's epoch and page entries. -/
structure CopyMsg where
  r : Record
  pages : List PageRef
  /-- Token history, and the tokens generated in the turn so far (log entry 9). -/
  history : List Nat
  genTokens : List Nat
  prefixKey : Nat
  prefixLen : Nat
  deriving DecidableEq, Repr

/-- STEP_NOTE (R48). -/
structure StepNote where
  id : Nat
  epoch : Nat
  gen : Nat
  kv : Nat
  lastToken : Nat
  stepCount : Nat
  streamed : Nat
  /-- State the owner's copy is in after the commit (rows 4 and 5). -/
  state : ReqState
  deriving DecidableEq, Repr

/-- FINAL (R70): the final status and counts; the turn's tokens complete the history. -/
structure FinalMsg where
  id : Nat
  epoch : Nat
  state : ReqState
  status : St
  gen : Nat
  streamed : Nat
  deriving DecidableEq, Repr

/-- The request state engine's state at a node. -/
structure Rse where
  homes : List HomeRec
  works : List Work
  mirrors : List Mirror
  bind : BindState
  /-- Deputy side: the home whose bind was accepted. -/
  boundFrom : Option Nat
  /-- Former homes adopted under R39. -/
  adopted : List Nat
  /-- The home must resynchronise before it answers or commits (R38). -/
  resyncNeeded : Bool
  /-- The directory was lost (cold start): records are rebuilt from the mirror. -/
  rebuild : Bool
  mirrorOut : List MirrorPend
  /-- IDs under claim, the tick the window opened, and the claims (R60). -/
  claims : List (Nat × Nat × List Claim)
  /-- Ownership queries held while resynchronisation is not complete: (source, id, epoch, committed). -/
  heldQueries : List (Nat × Nat × Nat × Bool)
  /-- Nodes under loss: the last attempt to reach them failed (R36, R61). -/
  unreachable : List Nat
  /-- Deputy side: the queries (asker and ID) for which a probe of the home is unanswered (R36). -/
  probes : List (Nat × Nat)
  /-- GENERATION as the NVM die holds it, and COUNT of the next request ID (R20, R21). -/
  generation : Nat
  nextCount : Nat
  /-- The highest RSR format last heard from each node, by rising node; a node not listed has not been heard from (R225). -/
  formats : List (Nat × Nat)
  deriving DecidableEq, Repr

end Sys2Proof.Machine
end

