-- ==== Sys2Proof/Machine/PgeTypes.lean ====
section
/-! DEFINITION. The page engine's data (chapter 3) and Mezzotint's (chapter 4). -/

namespace Sys2Proof.Machine

/-- KIND of a page-map entry (Table 3.2). -/
inductive PageKind where
  | kv | history | parity | shared
  deriving DecidableEq, Repr

/-- LOCATION by tier (Table 3.3). `sharedOf` names the PREFIX entry that owns the frame. -/
inductive PageLoc where
  | t0 (frame : Nat)
  | sharedOf (entry : Nat)
  | t1 (node index : Nat)
  | t2 (pool slot : Nat)
  /-- T2, in a pool of another node, where it is entry `index` (log entry 15). -/
  | t2of (node index : Nat)
  deriving DecidableEq, Repr

/-- A page-map entry in use with its page's header (Tables 3.2 and 3.4). The order of a request's list (R80) is the
order of FIRST_POS and LAYER, so NEXT is read off the list. `kind = shared` is KIND 3, PREFIX. -/
structure Page where
  idx : Nat
  req : Nat
  kind : PageKind
  loc : PageLoc
  foreign : Bool
  migrating : Bool
  sealed : Bool
  lastUse : Nat
  policyVersion : Nat
  modelId : Nat
  /-- 0xFFFF history, 0xFFFE parity. -/
  layer : Nat
  firstPos : Nat
  headDim : Nat
  kvHeads : Nat
  element : Nat
  pageSize : Nat
  epoch : Nat
  deadline : Nat
  group : Nat
  memberNo : Nat
  coded : Bool
  copyNode : Nat
  copyIndex : Nat
  slots : Nat
  dataCrc : Nat
  refs : Nat
  /-- The header's CHECK verifies (R82). -/
  headerOk : Bool
  /-- PREFIX entries: the prefix key and variant they were made under (R90). -/
  prefixKey : Nat
  variantId : Nat
  /-- A holder keeps a page it recalled for a query at least until this tick (R116). -/
  keepUntil : Nat := 0
  /-- The node that holds the parity of its group, where that is not the one R100 names (R102, log entry 85). -/
  parityAt : Option Nat := none
  /-- Freed, but a query that runs reads it: the entry goes once that query's reads are complete (R81, R94, R122). -/
  freeing : Bool := false
  deriving DecidableEq, Repr

/-- Frames and entries reserved for a request and not yet allocated (R85). -/
structure Reservation where
  req : Nat
  pageSize : Nat
  frames : Nat
  deriving DecidableEq, Repr

/-- Why a page migrates. -/
inductive MigWhy where
  | evict | handback | recall | demote | pull | retire | poolRelease
  deriving DecidableEq, Repr

/-- Where a migrating page goes. -/
inductive MigTarget where
  | frame (frame : Nat)
  | node (n index : Nat)
  | slot (pool slot : Nat)
  deriving DecidableEq, Repr

/-- A migration in progress (R93). -/
structure Migration where
  idx : Nat
  target : MigTarget
  why : MigWhy
  retried : Bool
  /-- A page brought back to T1 for the node that asked for it, and that node's entry (R97). -/
  asker : Option (Nat × Nat)
  deriving DecidableEq, Repr

/-- A Mezzotint message's fields and payload (Tables 4.1 and 4.2); TYPE is the kind of message it is sent as, PAYLOAD_BYTES the
payload's length. -/
structure MztMsg where
  req : Nat
  epoch : Nat
  tag : Nat
  format : Nat
  status : St
  modelId : Nat
  layer : Nat
  policyVersion : Nat
  basePos : Nat
  scale : Nat
  window : Nat
  rows : Nat
  qheads : Nat
  headDim : Nat
  kvHeads : Nat
  lc : Bool
  pages : Nat
  payload : List Byte
  check : Nat
  deriving DecidableEq, Repr

/-- A parity update a copy holder waits for before it acknowledges (R101, R114). -/
structure ParityPend where
  /-- Who is to be acknowledged, and with which tag. -/
  to_ : Nat
  tag : Nat
  req : Nat
  epoch : Nat
  /-- The KV_WRITE to be acknowledged; none for a write-through. -/
  write : Option MztMsg
  parityNode : Nat
  deriving DecidableEq, Repr

/-- A lost member of a coded group being rebuilt (R102): the pages still to arrive, by holder and entry, the XOR of those
that have, and the node the member is to rest on. `entry` is the own entry the rebuilt page belongs to, where an owner
rebuilds it (R99). `used`: the nodes the rebuilt page may not rest on: those of its group's members and parity, and those
that have refused it. -/
structure Rebuild where
  num : Nat
  page : Page
  left : List (Nat × Nat)
  acc : List Byte
  target : Nat
  entry : Option Nat
  used : List Nat
  deriving DecidableEq, Repr

/-- The page engine's state. -/
structure Pge where
  pages : List Page
  reservations : List Reservation
  migrations : List Migration
  parityPends : List ParityPend
  rebuilds : List Rebuild
  nextRebuild : Nat
  /-- The tiles' translation caches: tile and page-map entry, the latest read last (R81). -/
  xlate : List (Nat × Nat)
  /-- Switches of entries that wait for a running query's reads of the old location: entry and new location (R81, R94). -/
  switches : List (Nat × PageLoc)
  /-- Requests whose pages were freed at their deadline while a query read some of them, with the pages' number: the event follows
  the last of them (R92, R122). -/
  orphaned : List (Nat × Nat)
  /-- Pages freed while a migration to another node was under way: entry, request and epoch; the copy there is freed once the
  holder answers (R94). -/
  aborted : List (Nat × Nat × Nat)
  deriving DecidableEq, Repr

/-- A query queued or running at a holder (R115, R116); `reading`: the pages it reads, once it runs. -/
structure MztQueued where
  src : Nat
  q : MztMsg
  reading : Option (List Page)
  deriving DecidableEq, Repr

/-- A query or KV_WRITE an owner has outstanding or waiting to be sent (R107, R113, R120, R123). -/
structure MztOut where
  tag : Nat
  holder : Nat
  core : Nat
  /-- QUERY, or KV_WRITE when false. -/
  query : Bool
  /-- Answered ST_MZT_BUSY and to be sent again. -/
  busy : Bool
  /-- Operand-buffer offset of the records, this holder's place among the `n` of each row and head. -/
  base : Nat
  k : Nat
  n : Nat
  m : MztMsg
  deriving DecidableEq, Repr

/-- Mezzotint's state: the holder's queue, the owner's outstanding messages and its queries that wait for a free slot
(R123). -/
structure Mzt where
  queue : List MztQueued
  outs : List MztOut
  nextTag : Nat
  waiting : List MztOut
  deriving DecidableEq, Repr

end Sys2Proof.Machine
end

