-- ==== Sys2Proof/Machine/SchTypes.lean ====
section
/-! DEFINITION. Burin's data (chapter 7) and the logical cores' (chapter 5). -/

namespace Sys2Proof.Machine

/-- KIND of a context (Table 7.1). -/
inductive CtxKind where
  | serving | score | learn | service
  deriving DecidableEq, Repr

/-- The value KIND has in Table 7.1 and SCH_CTX. -/
def CtxKind.code : CtxKind → Nat
  | .serving => 0 | .score => 1 | .learn => 2 | .service => 3

/-- Context states (Table 7.3). -/
inductive CtxState where
  | free | loading | open_ | running | draining | closing
  deriving DecidableEq, Repr

/-- The value SCH_CTX.STATE shows. -/
def CtxState.code : CtxState → Nat
  | .free => 0 | .loading => 1 | .open_ => 2 | .running => 3 | .draining => 4 | .closing => 5

/-- A context descriptor as read at OPEN (Table 7.1). `formOk`: MAGIC, VERSION, Rsvd bits, CHECK and the reserved
field values of check 1. -/
structure Desc where
  formOk : Bool
  kind : CtxKind
  isStatic : Bool
  autoReopen : Bool
  backupOk : Bool
  modelId : Nat
  comp : Nat
  program : Nat
  stepPc : Nat
  jobPc : Nat
  /-- Logical cores in the context, ascending. -/
  cores : List Nat
  groupSize : Nat
  batchAddr : Nat
  batchUnits : Nat
  rowTarget : Nat
  holdUs : Nat
  chunkRows : Nat
  prefillRowsMax : Nat
  shortPrompt : Nat
  jobId : Nat
  rowMin : Nat
  ctrFirst : Nat
  ctrCount : Nat
  barFirst : Nat
  barCount : Nat
  vmapAddr : Nat
  vmapCount : Nat
  listA : List Nat
  listB : List Nat
  shardAddr : Nat
  shardCount : Nat
  deriving DecidableEq, Repr

/-- CAUSE of a CONTEXT_CLOSED (Table 16.2). -/
inductive CloseCause where
  | close | abort | fault | withdrawal | jobAbort | computeReset
  deriving DecidableEq, Repr

/-- The value CAUSE has in form C. -/
def CloseCause.code : CloseCause → Nat
  | .close => 0 | .abort => 1 | .fault => 2 | .withdrawal => 3 | .jobAbort => 4 | .computeReset => 5

/-- Where a class's round robin of one context (or of placement) stopped: the queue, and whether its visit resumes
without a fresh quantum (R192, steps 1 and 2). -/
structure RrPos where
  queue : Nat
  resume : Bool
  deriving DecidableEq, Repr

/-- A batch request's row-map entry (Table 7.4). -/
structure BatchRow where
  req : Nat
  rowFirst : Nat
  rows : Nat
  /-- 0 decode, 1 prefill chunk, 2 final chunk. -/
  kind : Nat
  draftMax : Nat
  /-- Its cancel was accepted: the rows are dead (R189). -/
  dead : Bool
  /-- Its request ended as CANCELLED. -/
  cancelled : Bool
  /-- GEN_COMMITTED and KV_COMMITTED of a request that ended as CANCELLED (R149). -/
  gen : Nat := 0
  kv : Nat := 0
  deriving DecidableEq, Repr

/-- A batch formed and held, or running on a core group (section 7.2). -/
structure Batch where
  ctx : Nat
  group : Nat
  seq : Nat
  rows : List BatchRow
  deltaSlot : Nat
  /-- 1 substitute DELTA_SLOT, 2 clear (R187). -/
  deltaMode : Nat
  /-- Cores of the group that have not executed END. -/
  left : List Nat
  squashed : Bool
  /-- A core of the group took a fault while running it (Table 7.6). -/
  faulted : Bool
  deriving DecidableEq, Repr

/-- A shard copy running on a core group (section 7.6). -/
structure ShardRun where
  ctx : Nat
  group : Nat
  shard : Nat
  copy : Nat
  seq : Nat
  /-- AON cycle at its start. -/
  startedAt : Nat
  left : List Nat
  squashed : Bool
  deriving DecidableEq, Repr

/-- A context not in FREE. -/
structure Ctx where
  num : Nat
  state : CtxState
  addr : Nat
  desc : Desc
  cause : CloseCause
  /-- Fault status, core and PC of a teardown caused by a fault. -/
  status : St
  core : Nat
  pc : Nat
  /-- Batches and shard runs dispatched to each group since START. -/
  seqs : List (Nat × Nat)
  rrLc : RrPos
  rrBe : RrPos
  /-- A batch held below ROW_MIN, and whether its HOLD_US has passed (R193). -/
  held : Option Batch
  holdOver : Bool
  nextShard : Nat
  /-- Shards finished since START, and their run times in AON cycles. -/
  doneShards : List Nat
  runTimes : List Nat
  backups : List Nat
  deriving DecidableEq, Repr

/-- Burin's state. Deficits stand in SCH_QUEUE_B. -/
structure Sch where
  ctxs : List Ctx
  batches : List Batch
  shards : List ShardRun
  /-- Requests holding an active-step entry (R188). -/
  active : List Nat
  /-- Order of each request's last dispatched step (R192, step 3). -/
  lastStep : List (Nat × Nat)
  stepCounter : Nat
  /-- Order of entry to QUEUED (R194). -/
  queuedSeq : List (Nat × Nat)
  queuedCounter : Nat
  placeLc : RrPos
  placeBe : RrPos
  /-- Nodes passed over after a refusal (R195), and the nodes tried per request. -/
  refuseHold : List Nat
  tried : List (Nat × List Nat)
  /-- Context command running: OP and context (R181). -/
  busy : Option (Nat × Nat)
  /-- Contexts in the order of their last dispatch, the latest last: the rotation among those that share a core (R184). -/
  turns : List Nat
  /-- Requests whose failed step is to be retried, with the core group it ran on (R199). -/
  retries : List (Nat × Nat)
  deriving DecidableEq, Repr

/-- What a core waits for, descheduled. -/
inductive CoreWait where
  /-- WAIT on a counter of its tile (R304). -/
  | counter (tile ctr value : Nat)
  /-- ARRIVE at a barrier for a round, awaiting RELEASE (R310). -/
  | barrier (node bar round : Nat)
  /-- SCOMMIT: requests still to be ordered with their places in the list, and where the results go (R149). -/
  | commit (left : List (Nat × Nat)) (addrZ : Nat)
  /-- FENCE: earlier loads, stores and signals of the core are not complete (R126). -/
  | fence
  /-- END, while earlier loads, stores and signals are not complete. -/
  | ending
  /-- MZQUERY or MZWRITE: answers are still to come. -/
  | mzt
  deriving DecidableEq, Repr

/-- POWER of CORE_STATUS (Table 5.15). -/
inductive CorePower where
  | gated | waking | idle | running
  deriving DecidableEq, Repr

/-- The value CORE_STATUS.POWER shows. -/
def CorePower.code : CorePower → Nat
  | .gated => 0 | .waking => 1 | .idle => 2 | .running => 3

/-- What a tile-op does as it ends (R128). -/
inductive OpDone where
  /-- Bytes written in the operand buffer, and the row of D they belong to, where they do. -/
  | write (row : Option Nat) (off : Nat) (bytes : List Byte)
  /-- Bytes `d` to `d + len - 1` of a LOAD from `addr` to `ob`, with the REGION and KEY it is sent with. -/
  | load (addr ob d len : Nat) (key : Nat × Nat)
  /-- Bytes `d` to `d + len - 1` of a STORE from `ob` to `addr`, with the REGION and KEY it is sent with. -/
  | store (addr ob d len : Nat) (key : Nat × Nat)
  /-- The weight tile it would consume is poisoned: the offset of its block, the status and the segment (R163). -/
  | fault (off : Nat) (status : St) (segment : Nat)
  deriving DecidableEq, Repr

/-- The range of the operand buffer an effect writes. -/
def OpDone.writes : OpDone → Nat × Nat
  | .write _ off bs => (off, bs.length)
  | .load _ ob d len _ => (ob + d, len)
  | _ => (0, 0)

/-- A tile-op of an issued instruction that has still to end (R128). -/
structure CoreOp where
  /-- Index and DONE_CTR of its instruction; 0xFFFF none. -/
  pc : Nat
  done : Nat
  /-- Ranges of the operand buffer its instruction reads (R126). -/
  reads : List (Nat × Nat)
  /-- Rows it streams through the matrix array (R152). -/
  rows : Nat
  /-- It is the data mover's. -/
  mover : Bool
  does : List OpDone
  deriving DecidableEq, Repr

/-- One logical core. A core the list does not hold is gated, idle and fault-free. -/
structure Core where
  num : Nat
  /-- 0xFFF none. -/
  ctx : Nat
  power : CorePower
  pc : Nat
  /-- Space-0 offset of instruction 0 of its program. -/
  prog : Nat
  wait : Option CoreWait
  /-- Its clocks are gated while it waits (R305). -/
  waitGated : Bool
  /-- A squash is to be taken at the next tile-op boundary (R128). -/
  squash : Bool
  /-- It has faulted or ended and issues nothing more. -/
  stopped : Bool
  /-- Random draws since its source was last seeded (R147). -/
  draws : Nat
  /-- DONE_CTR of the instruction it waits in; 0xFFFF none (R144). -/
  waitDone : Nat
  /-- WAIT_LIMIT_MS as its WAIT or ARRIVE was issued (R306, R319). -/
  waitLimit : Nat := 0
  /-- Tile-ops of issued instructions that have still to end, first begun first (R128). -/
  tail : List CoreOp := []
  deriving DecidableEq, Repr

/-- Poison of a 64-byte granule: where it is and the status recorded with it (R267, Table 5.2). -/
structure Poison where
  granule : Nat
  status : St
  deriving DecidableEq, Repr

end Sys2Proof.Machine
end

