-- ==== Sys2Proof/Machine/MsgTypes.lean ====
section
/-! DEFINITION. The messages between device engines (Table 9.5's ENGINE values, and the formats of chapters 2 to 4,
7, 10, 11 and 13), the host commands one node forwards to another, and the small payloads of chapter 9's frames. -/

namespace Sys2Proof.Machine

/-- ENGINE values (section 9.2). -/
inductive Engine where
  | rse | pge | mzt | sync | burin | transfer | boot | fabric
  deriving DecidableEq, Repr

/-- An event entry's words 0x08 to 0x18 without the sequence number (Table 16.1). -/
structure EvtWords where
  code : Nat
  severity : Nat
  context : Nat
  time : Nat
  arg0 : Nat
  arg1 : Nat
  deriving DecidableEq, Repr

/-- A request-state command as it is forwarded to the home (R68, R330). -/
inductive FwdCmd where
  | cancel (id : Nat)
  | pause (id ttl : Nat)
  | resume (b : ResumeBlock) (tokens : List Nat)
  | query (id : Nat)
  | setTtl (id ttl : Nat)
  | move (id dest : Nat)
  deriving DecidableEq, Repr

/-- The request a forwarded command names. -/
def FwdCmd.id : FwdCmd → Nat
  | .cancel i => i | .pause i _ => i | .resume b _ => b.id | .query i => i | .setTtl i _ => i | .move i _ => i

/-- MSG_OPEN and MSG_ABORT (Table 10.3). -/
structure OpenMsg where
  count : Nat
  first : Nat
  bytes : Nat
  notifyTile : Nat
  notifyCtr : Nat
  notifyEn : Bool
  deriving DecidableEq, Repr

/-- An engine message, by engine and kind. -/
inductive Msg where
  -- request state engine
  | mirrorBind
  | mirrorBindAccepted
  | mirrorBindRefused (status : St)
  | mirrorWrite (id seq epoch : Nat) (rec : Option Record) (history : List Nat)
  | mirrorAck (id seq epoch : Nat)
  | mirrorRefused (id seq epoch : Nat)
  | mirrorFenced (id seq epoch : Nat)
  | ownQuery (id epoch : Nat) (committed : Bool) (rec : Record)
  | ownReply (id epoch owner : Nat)
  | resync
  | resyncReply (adopted : Bool) (items : List ResyncItem)
  | place (m : CopyMsg)
  | placeAccept (id epoch : Nat)
  | placeRefused (id epoch : Nat) (status : St)
  | placed (id epoch : Nat)
  | placeCancel (id epoch : Nat)
  | stepNote (n : StepNote)
  | stepAck (id epoch gen : Nat)
  | lostStep (id epoch : Nat)
  | mvPrepare (m : CopyMsg)
  | mvPrepared (id epoch : Nat)
  | mvRefused (id epoch : Nat) (status : St)
  | mvCommitReq (id epoch dest : Nat)
  | mvCommitted (id epoch owner : Nat)
  | mvAborted (id epoch : Nat) (status : St)
  | mvAbort (id epoch : Nat)
  | mvReleased (id epoch : Nat)
  | cancelFwd (id epoch : Nat)
  | fwdPause (id epoch : Nat) (p : PauseReq)
  | fwdMove (id epoch dest : Nat) (reply : ReplyTo)
  | final (m : FinalMsg)
  | notOwner (id epoch : Nat) (kind : FwdKind)
  /-- A deputy's attempt to reach its home (R36), and its answer; they carry nothing (log entry 26). -/
  | probe
  | probeReply
  /-- An owner's answer to a MOVE the home forwarded, for the host that asked (R438, R440; log entry 82). -/
  | cmdEnds (id epoch : Nat) (reply : ReplyTo) (status : St) (payload : List Byte)
  | command (c : FwdCmd) (tenant ref : Nat)
  | commandReply (ref : Nat) (status : St) (payload : List Byte)
  -- page engine
  | pgRenew (id epoch : Nat) (idxs : List Nat)
  | pgTtl (id epoch ticks : Nat)
  | pgFree (id epoch : Nat) (idxs : List Nat)
  /-- A message about held pages refused with its status (R83). -/
  | pgRefused (id : Nat) (status : St)
  /-- A holder is asked for entry `idx`, for the asker's entry `dest` (R97, R102). -/
  | pgFetch (id epoch idx dest : Nat)
  | migrate (idx : Nat) (p : Page) (data : List Byte)
  | migrateAck (idx index : Nat)
  | migrateRefused (idx : Nat) (status : St)
  | writeThrough (id epoch idx offset tag : Nat) (data : List Byte)
  | parityUpdate (id epoch group offset tag : Nat) (delta : List Byte)
  | writeThroughAck (id tag : Nat)
  /-- A write-through or parity update refused with its status (R83). -/
  | throughRefused (id tag : Nat) (status : St)
  /-- The parity page of a group rests on another node from here on (R102, log entry 85). -/
  | parityMoved (id epoch group node : Nat)
  | pgLocate (id epoch : Nat)
  | pgLocateReply (id : Nat) (pages : List LocatedPage)
  -- Mezzotint
  | mztQuery (m : MztMsg)
  | mztPartial (m : MztMsg)
  | mztKvWrite (m : MztMsg)
  | mztKvAck (m : MztMsg)
  -- sync
  | barRelease (bar round : Nat)
  | releaseAck (bar round : Nat)
  | barAbort (bar round : Nat) (status : St)
  -- Burin
  | jobAbort (job : Nat)
  -- transfer engines
  | msgOpen (m : OpenMsg)
  | msgDone (first count : Nat) (status : St)
  | msgAbort (m : OpenMsg)
  -- boot and broadcast
  | bcastEnd (session chunks : Nat)
  | repairReq (session first count : Nat)
  | repairNak (session first count : Nat)
  | statusQuery (session : Nat)
  | statusReply (session held : Nat) (complete : Bool)
  -- fabric
  | notice (e : EvtWords)
  deriving DecidableEq, Repr

/-- The engine a message belongs to. -/
def Msg.engine : Msg → Engine
  | .pgFetch .. | .pgRenew .. | .pgTtl .. | .pgFree .. | .migrate .. | .migrateAck .. | .migrateRefused .. | .writeThrough ..
  | .parityUpdate .. | .writeThroughAck .. | .pgLocate .. | .pgLocateReply .. | .pgRefused .. | .throughRefused ..
  | .parityMoved .. => .pge
  | .mztQuery _ | .mztPartial _ | .mztKvWrite _ | .mztKvAck _ => .mzt
  | .barRelease .. | .releaseAck .. | .barAbort .. => .sync
  | .jobAbort _ => .burin
  | .msgOpen _ | .msgDone .. | .msgAbort _ => .transfer
  | .bcastEnd .. | .repairReq .. | .repairNak .. | .statusQuery _ | .statusReply .. => .boot
  | .notice _ => .fabric
  | _ => .rse

/-- A message's length in bytes: the format's where a table gives one, else 64 for a short message and the contents'
length for one that carries records, tokens or data (log entry 10). -/
def Msg.bytes : Msg → Nat
  | .mirrorWrite _ _ _ _ h => 320 + 4 * h.length
  | .resyncReply _ items => 64 + (items.map (fun i => 256 + 4 * i.history.length)).sum
  | .place m => 320 + 64 * m.pages.length
  | .mvPrepare m => 320 + 64 * m.pages.length
  | .migrate _ _ d => 128 + d.length
  | .writeThrough _ _ _ _ _ d => 64 + d.length
  | .parityUpdate _ _ _ _ _ d => 64 + d.length
  | .pgLocateReply _ ps => 64 + 32 * ps.length
  | .mztQuery m => 64 + m.payload.length
  | .mztPartial m => 64 + m.payload.length
  | .mztKvWrite m => 64 + m.payload.length
  | .command (.resume _ t) _ _ => 128 + 4 * t.length
  | .commandReply _ _ p => 64 + p.length
  | .cmdEnds _ _ _ _ p => 64 + p.length
  | .barRelease .. | .releaseAck .. | .barAbort .. => 16
  | .bcastEnd .. | .repairReq .. | .repairNak .. | .statusQuery _ | .statusReply .. => 16
  | .msgOpen _ | .msgDone .. | .msgAbort _ => 32
  | _ => 64

/-- The records a message carries. -/
def Msg.records : Msg → List Record
  | .mirrorWrite _ _ _ (some r) _ => [r]
  | .ownQuery _ _ _ r => [r]
  | .resyncReply _ items => items.map (·.r)
  | .place m | .mvPrepare m => [m.r]
  | _ => []

/-- A message with its records written in a format (R225). -/
def Msg.withFormat (v : Nat) : Msg → Msg
  | .mirrorWrite id seq e (some r) h => .mirrorWrite id seq e (some { r with formatVersion := v }) h
  | .ownQuery id e c r => .ownQuery id e c { r with formatVersion := v }
  | .resyncReply a items => .resyncReply a (items.map fun i => { i with r := { i.r with formatVersion := v } })
  | .place m => .place { m with r := { m.r with formatVersion := v } }
  | .mvPrepare m => .mvPrepare { m with r := { m.r with formatVersion := v } }
  | m => m

/-- Kinds of message a sender sends again after ENGINE_NAK, until accepted (R434). -/
def Msg.mustLearn : Msg → Bool
  | .stepNote _ | .final _ | .lostStep .. | .mvReleased .. | .mirrorWrite .. | .jobAbort _ | .pgTtl .. | .pgFree ..
  | .pgLocate .. | .writeThrough .. => true
  | _ => false

/-- The request a message is for, where it is for one (R434 holds later messages for the same request behind). -/
def Msg.req? : Msg → Option Nat
  | .mirrorWrite i .. | .mirrorAck i .. | .mirrorRefused i .. | .mirrorFenced i .. | .cmdEnds i .. | .ownQuery i .. | .ownReply i ..
  | .placeAccept i _ | .placeRefused i .. | .placed i _ | .placeCancel i _ | .stepAck i .. | .lostStep i _
  | .mvPrepared i _ | .mvRefused i .. | .mvCommitReq i .. | .mvCommitted i .. | .mvAborted i .. | .mvAbort i _
  | .mvReleased i _ | .cancelFwd i _ | .fwdPause i .. | .fwdMove i .. | .notOwner i .. | .pgRenew i .. | .pgTtl i ..
  | .pgFree i .. | .pgFetch i .. | .writeThrough i .. | .parityUpdate i .. | .writeThroughAck i _ | .pgLocate i _
  | .pgLocateReply i _ | .pgRefused i _ | .throughRefused i .. | .parityMoved i .. => some i
  | .place m | .mvPrepare m => some m.r.id
  | .stepNote n => some n.id
  | .final m => some m.id
  | .mztQuery m | .mztPartial m | .mztKvWrite m | .mztKvAck m => some m.req
  | _ => none

/-- ARRIVE payload (Table 11.2). -/
structure ArriveMsg where
  ctx : Nat
  core : Nat
  round : Nat
  deriving DecidableEq, Repr

/-- A REDUCE packet (R292): elements in WIRE_FMT with their scales. -/
structure ReduceMsg where
  down : Bool
  group : Nat
  op : Nat
  chunk : Nat
  firstElem : Nat
  total : Nat
  data : List Byte
  deriving DecidableEq, Repr

/-- A BCAST packet (R367). -/
structure BcastMsg where
  session : Nat
  psn : Nat
  offset : Nat
  imageLen : Nat
  crc : Nat
  data : List Byte
  deriving DecidableEq, Repr

/-- A certificate (Table 14.1): its DER bytes, and what the device reads of them: the signed part, the signature, the
subject's RSA modulus and exponent, and the names (R382, R383). -/
structure Cert where
  der : List Byte
  tbs : List Byte
  sig : Nat
  modulus : Nat
  exponent : Nat
  subject : List Byte
  issuer : List Byte
  deriving DecidableEq, Repr

/-- A HELLO's key agreement part (Table 14.6). -/
structure KeyAgreement where
  kaVersion : Nat
  keyCount : Nat
  ephX : Nat
  ephY : Nat
  identityKey : Nat
  signature : Nat
  cert : Cert
  deriving DecidableEq, Repr

end Sys2Proof.Machine
end

