-- ==== Sys2Proof/Machine/FabTypes.lean ====
section
/-! DEFINITION. The Miard fabric's data (chapter 9): frames, links, ordered channels, remote operations, regions,
routes. -/

namespace Sys2Proof.Machine

/-- Frame class (Table 9.3). -/
inductive FrameClass where
  | ordered | sprayed | management
  deriving DecidableEq, Repr

/-- What an ordered request frame carries to name its target (Table 9.5, 0x18 to 0x28). -/
structure OpHdr where
  /-- ADDRESS: the global address (R23). -/
  addr : Nat
  region : Nat
  key : Nat
  /-- Length in bytes (LEN). -/
  len : Nat
  tag : Nat
  deriving DecidableEq, Repr

/-- The operation part and payload of a frame (Tables 9.4 and 9.5). An ENGINE frame's segment is held as the whole
message, on its LAST frame only (log entry 8). -/
inductive Body where
  | load (h : OpHdr)
  | loadResp (tag : Nat) (status : St) (data : List Byte)
  | store (h : OpHdr) (data : List Byte)
  | storeResp (tag : Nat) (status : St)
  | atomic (h : OpHdr) (aop operand compare : Nat)
  | atomicResp (tag : Nat) (status : St) (prior : Nat)
  | signal (h : OpHdr) (cover value : Nat)
  | signalResp (tag : Nat) (status : St)
  | arrive (h : OpHdr) (cover : Nat) (a : ArriveMsg)
  | arriveResp (tag : Nat) (status : St)
  | engine (e : Engine) (first last : Bool) (msgNum offset len : Nat) (msg : Option Msg)
  | engineNak (e : Engine) (msgNum : Nat) (msg : Msg) (status : St)
  | oack
  | sprayNak (status : St) (region addr msgId : Nat)
  | read (h : OpHdr)
  | write (msgId psn addr region key msgBytes : Nat) (data : List Byte)
  | readData (msgId psn addr : Nat) (data : List Byte)
  | reduce (r : ReduceMsg)
  | bcast (b : BcastMsg)
  | mgmtRead (ctl tag : Nat)
  | mgmtWrite (ctl tag value : Nat)
  | mgmtResp (tag value : Nat) (status : St)
  deriving DecidableEq, Repr

/-- The class a frame's TYPE belongs to (Table 9.4, R235). -/
def Body.cls : Body → FrameClass
  | .write .. | .readData .. | .reduce .. | .bcast .. => .sprayed
  | .mgmtRead .. | .mgmtWrite .. | .mgmtResp .. => .management
  | _ => .ordered

/-- The CLASS code of Table 9.3; it is also the credit class. -/
def FrameClass.code : FrameClass → Nat
  | .ordered => 0 | .sprayed => 1 | .management => 2

/-- The TYPE of a frame (Table 9.4). -/
def Body.type : Body → Nat
  | .load _ => 0x01 | .loadResp .. => 0x02 | .store .. => 0x03 | .storeResp .. => 0x04 | .atomic .. => 0x05
  | .atomicResp .. => 0x06 | .signal .. => 0x07 | .signalResp .. => 0x08 | .arrive .. => 0x09 | .arriveResp .. => 0x0A
  | .engine .. => 0x0B | .engineNak .. => 0x0C | .oack => 0x0D | .sprayNak .. => 0x0E | .read _ => 0x0F
  | .write .. => 0x20 | .readData .. => 0x21 | .reduce _ => 0x22 | .bcast _ => 0x23
  | .mgmtRead .. => 0x40 | .mgmtWrite .. => 0x41 | .mgmtResp .. => 0x42

/-- A frame's end-to-end part: route part and operation part (Tables 9.3 and 9.5). -/
structure Frame where
  dst : Nat
  src : Nat
  hops : Nat
  detour : Bool
  sync : Bool
  incarnation : Nat
  dev : Bool
  poison : Bool
  /-- OSEQ and OACK, of an ordered frame. -/
  oseq : Nat
  oack : Nat
  /-- The sender's highest RSR format, which a request-state-engine message carries (R225). -/
  rsrFormat : Nat
  /-- PATH, PATH_LEN, PATH_INDEX and RETURN, of a management frame. -/
  path : List Nat
  pathIndex : Nat
  ret : List Nat
  /-- The port a management frame reached this node on; it does not travel. -/
  ingress : Option Nat := none
  body : Body
  deriving DecidableEq, Repr

/-- A HELLO's payload (Table 9.7); the key agreement part is Table 14.6's. -/
structure Hello where
  protoMax : Nat
  protoMin : Nat
  fwGeneration : Nat
  port : Nat
  nodeNumber : Nat
  nodeValid : Bool
  transitOnly : Bool
  cryptOffer : Bool
  cryptRequire : Bool
  domainId : Nat
  identityTag : Nat
  part : Nat
  agree : Option KeyAgreement
  deriving DecidableEq, Repr

/-- The Ethernet header of a fabric frame (Table 9.2): DA and SA, first octet most significant, the tag control information of
an 802.1Q tag, and the EtherType. -/
structure Eth where
  da : Nat
  sa : Nat
  tag : Option Nat
  etherType : Nat
  deriving DecidableEq, Repr

/-- The hop part of a DATA frame (Table 9.3, 0x00). -/
structure Hop where
  proto : Nat
  /-- 0 DATA; 1 LINK_CONTROL; 2 and 3 Rsvd. -/
  kind : Nat
  encrypted : Bool
  lseq : Nat
  lack : Nat
  transitOnly : Bool
  creditClass : Nat
  credits : Nat
  deriving DecidableEq, Repr

/-- A DATA frame's outer part as received on a link: its Ethernet header and hop part, the codes of its CLASS and TYPE, its length
from DA to FCS, and what the link layer found of it: whether its FCS, and on an encrypted link its tag, were right. -/
structure HopPart extends Hop where
  eth : Eth
  cls : Nat
  type : Nat
  length : Nat
  fcsOk : Bool
  /-- The key the GCM tag verifies under: 0 none, 1 the receive key in use, 2 the key of a change in progress. -/
  tagKey : Nat
  deriving DecidableEq, Repr

/-- A HELLO as received: its Ethernet header and hop part, and its payload. -/
structure HelloFrame where
  hop : HopPart
  hello : Hello
  deriving DecidableEq, Repr

/-- What REMOTE_US has elapsed for: the frame of an outstanding operation, with ADDRESS of a READ frame, or a forwarded command. -/
inductive Awaited where
  | frame (tag addr : Nat)
  | command (ref : Nat)
  deriving DecidableEq, Repr

/-- A link: a direct port, or virtual link `i` of FAB_PEER (section 9.3). -/
inductive LinkId where
  | port (p : Nat)
  | virt (i : Nat)
  deriving DecidableEq, Repr

/-- Link states (Table 9.6), with the values FAB_PORT_STATUS.STATE shows. -/
inductive LinkState where
  | disabled | training | handshake | up | draining | down | failed
  deriving DecidableEq, Repr

/-- The value FAB_PORT_STATUS.STATE shows. -/
def LinkState.code : LinkState → Nat
  | .disabled => 0 | .training => 1 | .handshake => 2 | .up => 3 | .draining => 4 | .down => 5 | .failed => 6

/-- A frame kept in a replay buffer (R239). -/
structure Replay where
  lseq : Nat
  /-- The Ethernet header and hop part it was sent with, which its stored form keeps (R270). -/
  eth : Eth
  hop : Hop
  frame : Frame
  /-- How often it was replayed. -/
  replays : Nat
  /-- The frame counter its stored ciphertext used (R270). -/
  counter : Nat
  /-- The REPLAY_LIMIT it was first sent under (R272). -/
  limit : Nat
  deriving DecidableEq, Repr

/-- The encryption of one link (R269, R270, R400, R401). -/
structure LinkCrypt where
  /-- Keys of sent and of received frames, and the IV salts. -/
  txKey : Nat
  rxKey : Nat
  txSalt : Nat
  rxSalt : Nat
  sendCtr : Nat
  recvCtr : Nat
  keyCount : Nat
  /-- The AON tick at which these keys came into use. -/
  since : Nat
  /-- A key change in progress: the own fresh private key and HELLO part. -/
  rekey : Option (Nat × KeyAgreement)
  /-- The receive key and salt of the change whose frames have not yet replaced the old key's. -/
  nextRx : Option (Nat × Nat)
  deriving DecidableEq, Repr

/-- One link's state (section 9.3). A link the list does not hold is DISABLED. -/
structure Link where
  id : LinkId
  state : LinkState
  /-- Next LSEQ to send, and the next LSEQ expected. -/
  txSeq : Nat
  rxSeq : Nat
  replay : List Replay
  /-- Frames waiting for credits, oldest first (R241). -/
  queue : List Frame
  /-- Credits held at the receiver: ordered, sprayed, management, and the buffer set of detoured sprayed frames (256-byte
  units). -/
  credits : List Nat
  /-- The lanes a port that could not train on 8 retrains on (R233); 0 for the lanes its configuration names. -/
  lanes : Nat
  peer : Option Hello
  /-- Link protocol version in use. -/
  proto : Nat
  /-- The ephemeral private key and key agreement part of this handshake attempt (R399). -/
  eph : Option (Nat × KeyAgreement)
  crypt : Option LinkCrypt
  deriving DecidableEq, Repr

/-- The sender's side of the ordered channel to one destination (R250 to R252), and SENT (R254). -/
structure OutChannel where
  dst : Nat
  /-- A frame of this incarnation has been sent: the first carries SYNC (R250). -/
  begun : Bool
  nextSeq : Nat
  unacked : List Frame
  /-- Frames that wait because 64 KiB, or 32 MiB in all, are unacknowledged. -/
  waiting : List Frame
  retx : Nat
  unreachable : Bool
  /-- SENT: sprayed payload bytes injected, modulo 2^40. -/
  sent : Nat
  /-- The ORETX_LIMIT each unacknowledged frame was first sent under, by its OSEQ (R272). -/
  limits : List (Nat × Nat)
  deriving DecidableEq, Repr

/-- The receiver's side of the ordered channel from one source (R250, R251), and ACCOUNTED (R254). -/
structure InChannel where
  src : Nat
  /-- There is channel state: a SYNC frame of the source has been accepted. Without it only ACCOUNTED counts (R251). -/
  known : Bool
  incarnation : Nat
  expected : Nat
  accounted : Nat
  /-- The first accepted frame of the source is a SIGNAL or ARRIVE that is held (R254). -/
  held : Bool
  /-- An OACK is owed and no reverse frame has carried it. -/
  oackOwed : Bool
  deriving DecidableEq, Repr

/-- Who waits for a remote operation. -/
inductive Requester where
  /-- A core's instruction: its DONE_CTR and its index. -/
  | core (c done pc : Nat)
  | queue (q : Nat) (serial : Nat)
  /-- The host command, by reference, whose CSR access it is. -/
  | csr (cmd : Nat)
  deriving DecidableEq, Repr

/-- The kinds of remote operation R266 completes. -/
inductive RemoteKind where
  | load | store | atomic | signal | arrive | read | csrRead | csrWrite
  deriving DecidableEq, Repr

/-- An outstanding remote operation (R266). -/
structure RemoteOp where
  tag : Nat
  kind : RemoteKind
  dst : Nat
  addr : Nat
  region : Nat
  len : Nat
  /-- Local destination of a load's data: operand-buffer or HBM offset. -/
  dest : Nat
  who : Requester
  deriving DecidableEq, Repr

/-- Region states (Table 9.12). -/
inductive RegionState where
  | free | valid | revoking
  deriving DecidableEq, Repr

/-- A region entry (Table 9.12). -/
structure Region where
  num : Nat
  state : RegionState
  permR : Bool
  permW : Bool
  permA : Bool
  space : Nat
  anySource : Bool
  source : Nat
  key : Nat
  base : Nat
  length : Nat
  inflight : Nat
  deriving DecidableEq, Repr

/-- A route entry (Table 9.9); an entry the list does not hold is all 0. -/
structure Route where
  dst : Nat
  valid : Bool
  ordPort : Nat
  sprayMask : Nat
  detourMask : Nat
  nextNode : Nat
  dist : Nat
  deriving DecidableEq, Repr

/-- Engine messages of one request refused with ST_NODE_RESETTING that are to be sent again (R434), the first of them
next, with those held behind them. -/
structure NakRetry where
  dst : Nat
  req : Option Nat
  refused : List Msg
  behind : List Msg
  /-- The first has been sent again and not been refused since. -/
  resent : Bool
  deriving DecidableEq, Repr

/-- The TYPE and payload of a link-control frame (Table 9.4); LACK and CREDITS travel in its hop part. -/
inductive LinkControl where
  | hello (h : Hello)
  | lack
  | lnack
  deriving DecidableEq, Repr

/-- The TYPE of a link-control frame (Table 9.4). -/
def LinkControl.type : LinkControl → Nat
  | .hello _ => 0x60 | .lack => 0x61 | .lnack => 0x62

/-- Bytes of a link-control frame's payload (Tables 9.7 and 14.6). -/
def LinkControl.payload : LinkControl → Nat
  | .hello h => match h.agree with
    | some k => 0x488 + k.cert.der.length
    | none => 0x20
  | _ => 0

/-- The fabric's state at a node. -/
structure Fab where
  links : List Link
  routes : List Route
  outs : List OutChannel
  ins : List InChannel
  remotes : List RemoteOp
  nextTag : Nat
  msgNum : Nat
  /-- Table 9.12's entries that are not FREE; region 0 is kept by the page engine (R262). -/
  regions : List Region
  /-- Frames for this node a link has delivered and no command has taken. -/
  arrived : List Frame
  /-- Ordered frames their channels have accepted and no command has taken, oldest first: those of one source are applied in this
  order (R253). -/
  accepted : List Frame
  /-- Engine messages delivered (R236) and not yet taken: source and message. -/
  inbox : List (Nat × Msg)
  nakRetries : List NakRetry
  /-- (source, MSG_ID, status) of the SPRAY_NAKs sent (R265). -/
  sprayNaks : List (Nat × Nat × St)
  /-- AON millisecond of the last REMOTE_TIMEOUT posted per destination (R266). -/
  timeoutPosted : List (Nat × Nat)
  /-- Region being revoked by the running command (R264). -/
  revoking : Option Nat
  /-- Ordered-channel INCARNATION (R251). -/
  incarnation : Nat
  deriving DecidableEq, Repr

end Sys2Proof.Machine
end

