-- ==== Sys2Proof/Machine/XfrTypes.lean ====
section
/-! DEFINITION. The transfer engines' data (chapter 10) and the sync units' (chapter 11). -/

namespace Sys2Proof.Machine

/-- A work request (Table 10.1). `rsvdOk`: every Rsvd bit is 0. -/
structure WorkReq where
  op : Nat
  waitKind : Nat
  fence : Bool
  afterInject : Bool
  notifyEn : Bool
  aop : Nat
  fmt : Nat
  group : Nat
  /-- LOCAL: space and offset. -/
  locSpace : Nat
  locOff : Nat
  remote : Nat
  length : Nat
  region : Nat
  key : Nat
  notifyTile : Nat
  notifyCtr : Nat
  operand : Nat
  compare : Nat
  waitTile : Nat
  waitCtr : Nat
  threshold : Nat
  rsvdOk : Bool
  deriving DecidableEq, Repr

/-- One group of messages of a WRITE (R283): the first MSG_ID, the count, the first destination byte and the bytes. -/
structure MsgGroup where
  first : Nat
  count : Nat
  addr : Nat
  bytes : Nat
  deriving DecidableEq, Repr

/-- What a started request is doing. -/
inductive Progress where
  /-- A WRITE: the group in flight, messages of it not yet injected, the group still to come, and injections left. -/
  | write (group : MsgGroup) (toSend : List Nat) (later : Option (Nat × Nat)) (retriesLeft : Nat) (aborting : Bool)
  /-- A READ: its slot (TAG), the pieces not landed, those landed, and the first failure. -/
  | read (tag : Nat) (left : List (Nat × Nat)) (landed : List Nat) (failed : Option St)
  /-- An ATOMIC or SIGNAL: the outstanding operation's TAG. -/
  | remote (tag : Nat)
  | copy
  /-- An UMBER operation on a QP. -/
  | roce (qp : Nat)
  /-- A REDUCE: chunks in all, the next to submit and those whose result is written. -/
  | reduce (chunks next : Nat) (written : List Nat)
  deriving DecidableEq, Repr

/-- A request in flight (R275). -/
structure XReq where
  q : Nat
  idx : Nat
  wr : WorkReq
  prog : Progress
  /-- Its data has been injected (AFTER_INJECT). -/
  injected : Bool
  deriving DecidableEq, Repr

/-- A queue's progress; VALID, BUSY, POSTED's counter and the rest stand in its registers. -/
structure XQueue where
  q : Nat
  /-- Index of the next request to start. -/
  next : Nat
  /-- Indices completed above COMPLETED. -/
  done : List Nat
  /-- Work requests of a device queue (R273), oldest first, from index 0. -/
  posted : List WorkReq
  deriving DecidableEq, Repr

/-- A message record at a destination (R283). -/
structure MsgRec where
  src : Nat
  msgId : Nat
  psns : List Nat
  /-- Bytes placed and refused. -/
  bytes : Nat
  total : Nat
  deriving DecidableEq, Repr

/-- A destination's state for one source (R283): floor, finished flags and failed flags as lists of MSG_IDs. -/
structure MsgSource where
  src : Nat
  floor : Nat
  finished : List Nat
  failed : List (Nat × St)
  opens : List OpenMsg
  /-- Payload bytes placed or refused so far, by MSG_ID, of the WRITEs not yet answered. -/
  seen : List (Nat × Nat)
  deriving DecidableEq, Repr

/-- A read slot waiting out TAG_QUIET_US (R289): its TAG and the pieces that landed. -/
structure QuietSlot where
  tag : Nat
  landed : List Nat
  deriving DecidableEq, Repr

/-- A collective chunk slot (R294). `from_` holds the children that contributed, and the member itself as 65,536. -/
structure CollSlot where
  group : Nat
  op : Nat
  chunk : Nat
  /-- MSG_BYTES of each contribution: the op's element count. -/
  totals : List Nat
  from_ : List Nat
  /-- The contributions, as values' FP32 bit patterns; none once their sum has gone on. -/
  parts : List (List Nat)
  /-- A contribution carried poison (R267). -/
  poison : Bool
  /-- The sum has been passed on and the result is awaited. -/
  sent : Bool
  deriving DecidableEq, Repr

/-- The last op of a group that ended at this member (R296). -/
structure EndedOp where
  group : Nat
  op : Nat
  /-- It failed before the member's request for it started: the request is still to get the status. -/
  owed : Bool
  deriving DecidableEq, Repr

/-- Transfer engines' state. -/
structure Xfr where
  queues : List XQueue
  flights : List XReq
  recs : List MsgRec
  sources : List MsgSource
  quiet : List QuietSlot
  slots : List CollSlot
  /-- Next MSG_ID per destination. -/
  nextMsg : List (Nat × Nat)
  /-- The last op that ended, per group. -/
  ended : List EndedOp
  deriving DecidableEq, Repr

/-- An owned counter (R316). Its key is tile * 65,536 + counter. -/
structure CtrOwner where
  key : Nat
  owner : Nat
  snap : Nat
  deriving DecidableEq, Repr

/-- Sync state: counters whose VALUE is not 0 by rising key, their owners, members whose RELEASE_ACK is awaited
(barrier, node). Barrier registers hold the rest. -/
structure Syn where
  counters : List (Nat × Nat)
  owners : List CtrOwner
  ackWait : List (Nat × Nat)
  deriving DecidableEq, Repr

end Sys2Proof.Machine
end

