-- ==== Sys2Proof/Machine/HcpTypes.lean ====
section
/-! DEFINITION. The host port's data (chapter 12): Prayr packets and commands, meters, shapers, RoCEv2, the I3C
target. -/

namespace Sys2Proof.Machine

/-- How an inbound IP packet reaches the port (R321, R322): its destination address, the UDP port where it carries UDP, whether it
is a fragment, and the VID where its frame has an IEEE 802.1Q tag. -/
structure NetHdr where
  dst : Nat
  udpPort : Option Nat
  fragment : Bool
  vlan : Option Nat
  deriving DecidableEq, Repr

/-- An inbound Prayr datagram: how it came, its UDP payload, and the fields its header gives (Table 12.1); `payloadOk` says that
the payload has the opcode's length and layout (check 9). -/
structure HostPkt where
  net : NetHdr
  octets : List Byte
  src : Nat
  port : Nat
  session : Nat
  seq : Nat
  tenant : Nat
  version : Nat
  kind : Nat
  payloadOk : Bool
  deriving DecidableEq, Repr

/-- UDP payload bytes. -/
def HostPkt.size (p : HostPkt) : Nat := p.octets.length

/-- A 64-bit word of the Prayr header. -/
def HostPkt.word (p : HostPkt) (off : Nat) : Nat := rdNat (fun k => p.octets.getD k 0) off 8

/-- Check 1 of Table 12.2: the datagram's size, MAGIC, LENGTH and CHECK. -/
def HostPkt.formOk (p : HostPkt) : Bool :=
  32 ≤ p.size && bitsOf (p.word 0) 63 48 == 0x5052 && bitsOf (p.word 0x10) 31 0 == p.size - 32
    && bitsOf (p.word 0x18) 63 32 == crc32c (p.octets.take 28 ++ p.octets.drop 32)

/-- The fields are those the header's octets give. -/
def HostPkt.fieldsOk (p : HostPkt) : Bool :=
  p.session == bitsOf (p.word 0x18) 31 0 && p.seq == p.word 8 && p.tenant == bitsOf (p.word 0) 15 0
    && p.version == bitsOf (p.word 0) 47 40 && p.kind == bitsOf (p.word 0) 39 36

/-- The OPCODE field of the header. -/
def HostPkt.opcode (p : HostPkt) : Nat := bitsOf (p.word 0) 31 24

/-- Who asks the port something on its link: the VID of the frame's tag, and the address to answer. -/
structure Asker where
  vlan : Option Nat
  addr : Nat
  deriving DecidableEq, Repr

/-- An inbound RoCEv2 operation beside what it asks for (R344): how it came, its queue pair, its PSN, whether congestion marked it, and whether it
lies outside the profile of Table 12.9 (an immediate, a SEND, an atomic). -/
structure RoceHdr where
  net : NetHdr
  qp : Nat
  psn : Nat
  ecn : Bool
  outside : Bool
  deriving DecidableEq, Repr

/-- What completes a requester operation: a READ's data, and whether congestion marked it. -/
structure RoceEnd where
  ecn : Bool
  data : List Byte
  deriving DecidableEq, Repr

/-- A SUBMIT block (Table 12.4). -/
structure SubmitBlock where
  hostTag : Nat
  queue : Nat
  context : Nat
  modelId : Nat
  variantId : Nat
  maxNew : Nat
  stalenessMax : Nat
  specWindow : Nat
  coded : Bool
  pauseAtEnd : Bool
  promptSrc : Nat
  ttl : Nat
  promptLength : Nat
  replyAddr : Nat
  replyPort : Nat
  replyStream : Nat
  temperature : Nat
  topP : Nat
  topK : Nat
  repeatPenalty : Nat
  prefixLength : Nat
  prefixKey : Nat
  stopTokens : List Nat
  promptVa : Nat
  promptRkey : Nat
  promptQp : Nat
  rsvdOk : Bool
  deriving DecidableEq, Repr

/-- The key of a request in the reply cache (R324, check 4). -/
structure ReqKey where
  src : Nat
  port : Nat
  session : Nat
  seq : Nat
  deriving DecidableEq, Repr

/-- A reply packet's variable part (Table 12.1). -/
structure Reply where
  key : ReqKey
  opcode : Nat
  version : Nat
  tenant : Nat
  status : St
  payload : List Byte
  srcPort : Nat
  deriving DecidableEq, Repr

/-- A request in execution. -/
structure ExecReq where
  ref : Nat
  key : ReqKey
  opcode : Nat
  version : Nat
  tenant : Nat
  fast : Bool
  srcPort : Nat
  deriving DecidableEq, Repr

/-- A cached reply (R325); `until_` in AON cycles. -/
structure CachedReply where
  reply : Reply
  until_ : Nat
  deriving DecidableEq, Repr

/-- A tenant's meter (R340, Table 12.12). The buckets hold the exact credit, in units of 1 / `Meter.grain` of a packet or byte;
`at_` is the AON cycle of the last refill. -/
structure Meter where
  tenant : Nat
  pir : Nat
  cir : Nat
  enable : Bool
  bytes : Bool
  pbs : Nat
  cbs : Nat
  green : Nat
  yellow : Nat
  red : Nat
  yellowDropped : Nat
  tc : Nat
  tp : Nat
  at_ : Nat
  /-- AON cycle of the last red drop, and red drops since the last POLICE. -/
  lastRed : Option Nat
  redSince : Nat
  deriving DecidableEq, Repr

/-- A TOKEN packet in the output ring (R336, R337). -/
structure TokenPkt where
  id : Nat
  tenant : Nat
  addr : Nat
  port : Nat
  stream : Nat
  pos : Nat
  tokens : List (Nat × Nat)
  ending : Nat
  epoch : Nat
  hostTag : Nat
  sent : Bool
  retx : Nat
  deriving DecidableEq, Repr

/-- What a requester RDMA operation is for. -/
inductive RoceUse where
  | request (q idx : Nat)
  | submitPrompt (ref : Nat)
  | resumePrompt (ref : Nat)
  /-- A page written to (R94) or read from (R97) an Umber pool, or read from one pool for another (R98). -/
  | pageOut (idx : Nat)
  | pageIn (idx : Nat)
  | pageMove (idx : Nat)
  /-- An operation of a migration that was aborted: nothing follows from it (R94). -/
  | dropped
  deriving DecidableEq, Repr

/-- A requester operation outstanding on a QP. -/
structure RoceOp where
  use : RoceUse
  write : Bool
  va : Nat
  rkey : Nat
  len : Nat
  /-- Local space and offset of the data. -/
  space : Nat
  off : Nat
  data : List Byte
  /-- PSN of its first packet, which the QP gives it as it is issued. -/
  psn : Nat
  deriving DecidableEq, Repr

/-- A queue pair (R344, R345, Table 12.7). `rate` in 65,536ths of line rate; `sqPsn` and `rqPsn` are the next PSN to send and the
next expected. A QP the list does not hold is in RESET. -/
structure Qp where
  index : Nat
  /-- In ERROR, rather than ready to send. -/
  error : Bool
  mtu : Nat
  timeout : Nat
  retry : Nat
  remoteQpn : Nat
  sqPsn : Nat
  rqPsn : Nat
  dscp : Nat
  maxReads : Nat
  remoteAddr : Nat
  syndrome : Nat
  lastStatus : Nat
  ops : List RoceOp
  retriesLeft : Nat
  rate : Nat
  deriving DecidableEq, Repr

/-- A QP_SETUP payload (Table 12.7). -/
structure QpCfg where
  index : Nat
  mtu : Nat
  timeout : Nat
  retry : Nat
  remoteQpn : Nat
  sqPsn : Nat
  rqPsn : Nat
  dscp : Nat
  maxReads : Nat
  remoteAddr : Nat
  rsvdOk : Bool
  deriving DecidableEq, Repr

/-- What a host command waits for before its reply, with what its execution needs then. -/
inductive Later where
  | submit (ref : Nat) (b : SubmitBlock) (tenant src port pageSize : Nat)
  | resume (ref : Nat) (b : ResumeBlock) (tenant : Nat) (reply : ReplyTo)
  | csr (ref : Nat) (write : Bool) (node addr : Nat) (values : List Nat) (done : List Nat) (tag : Nat)
  /-- A command forwarded to its home, or to the deputy after the home failed with a status (R330). -/
  | forwarded (ref : Nat) (node : Nat) (c : FwdCmd) (tenant : Nat) (failed : Option St)
  | channelRetire (ref : Nat)
  | tileOnline (ref tile : Nat)
  /-- BCAST_SEND, answered when sending starts (Table 13.8). -/
  | bcastSend (ref session : Nat)
  deriving DecidableEq, Repr

/-- The I3C target (R347). -/
structure I3c where
  dynAddr : Option Nat
  offset : Nat
  snapshot : List Byte
  deriving DecidableEq, Repr

/-- The InfiniBand NAKs the responder sends: PSN sequence error, invalid request, remote access error. -/
inductive NakCode where
  | sequence | invalid | access
  deriving DecidableEq, Repr

/-- The host port's other traffic: RoCEv2 and packets by shaper class. -/
inductive HostOut where
  | reply (r : Reply)
  | token (t : TokenPkt)
  | notice (addr port id tenant : Nat) (stream code status count epoch tag : Nat)
  | event (addr port : Nat) (seq : Nat) (e : EvtWords)
  | rdmaWrite (qp psn va rkey : Nat) (data : List Byte)
  | rdmaRead (qp psn va rkey len : Nat)
  /-- A response to a host-initiated operation: acknowledged, the data read, or a NAK with its InfiniBand code. -/
  | rdmaAck (qp psn : Nat)
  | rdmaReadResponse (qp psn : Nat) (data : List Byte)
  | rdmaNak (qp psn : Nat) (code : NakCode)
  /-- A congestion notification (Table 12.9). -/
  | cnp (qp : Nat)
  | arp (target asker : Nat)
  | neighbour (target asker : Nat)
  | echo (dst : Nat) (data : List Byte)
  deriving DecidableEq, Repr

/-- A shaper's bucket (R342): its level in bits and the AON cycle of the last refill. Indices 0 to 3 are the host
classes, 4 + c the fabric compositions. A bucket the list does not hold is full. -/
structure Bucket where
  k : Nat
  bits : Nat
  at_ : Nat
  deriving DecidableEq, Repr

/-- The host port's state. -/
structure Hcp where
  exec : List ExecReq
  nextRef : Nat
  cache : List CachedReply
  later : List Later
  meters : List Meter
  tokens : List TokenPkt
  qps : List Qp
  i3c : I3c
  buckets : List Bucket
  /-- Held host packets by class, oldest first (R342). -/
  held : List (Nat × HostOut)
  /-- Held fabric frames by composition. -/
  heldFab : List (Nat × Frame)
  /-- The class served last in rotation (R342). -/
  lastClass : Nat
  deriving DecidableEq, Repr

end Sys2Proof.Machine
end

