-- ==== Sys2Proof/Machine/BldTypes.lean ====
section
/-! DEFINITION. Bring-up (chapter 13), security (chapter 14), power (chapter 15) and event (chapter 16) data. -/

namespace Sys2Proof.Machine

/-- KIND of a defect-list entry (Table 13.3). -/
inductive DefectKind where
  | core | tile | hbmChannel | serdesLane | d2dLane | sramRepair
  deriving DecidableEq, Repr

/-- The value KIND has in Table 13.3. -/
def DefectKind.code : DefectKind → Nat
  | .core => 1 | .tile => 2 | .hbmChannel => 3 | .serdesLane => 4 | .d2dLane => 5 | .sramRepair => 6

/-- A defect-list entry (Table 13.3). -/
structure Defect where
  seq : Nat
  kind : DefectKind
  status : St
  startCount : Nat
  ticks : Nat
  unit : Nat
  sub : Nat
  detail : Nat
  deriving DecidableEq, Repr

/-- What a test found: the defective unit. -/
structure Finding where
  kind : DefectKind
  status : St
  unit : Nat
  sub : Nat
  detail : Nat
  deriving DecidableEq, Repr

/-- A stored licence (R372, R374). -/
structure Licence where
  bytes : List Byte
  serial : Nat
  features : Nat
  limits : Nat
  duration : Nat
  /-- Elapsed ticks as the NVM die has them, and the tick at which they were recorded. -/
  recorded : Nat
  since : Nat
  lapsed : Bool
  deriving DecidableEq, Repr

/-- A manifest (Table 13.5). `bytes`: the 704 bytes as received. -/
structure Manifest where
  bytes : List Byte
  kind : Nat
  subsystem : Nat
  fwGeneration : Nat
  length : Nat
  policyVersion : Nat
  imageHash : Nat
  signerHash : Nat
  deriving DecidableEq, Repr

/-- An image slot that holds an accepted image (R363): subsystem, slot B or A, generation and IMAGE_HASH. -/
structure ImageSlot where
  subsystem : Nat
  slotB : Bool
  generation : Nat
  hash : Nat
  deriving DecidableEq, Repr

/-- BCAST_OPEN's fixed part (Table 13.8). -/
structure BcastOpen where
  session : Nat
  parent : Nat
  root : Bool
  dest : Nat
  repairWaitUs : Nat
  repairRounds : Nat
  rsvdOk : Bool
  deriving DecidableEq, Repr

/-- An open broadcast session beside its registers (R366 to R371). `k` is its register index. -/
structure Bcast where
  k : Nat
  o : BcastOpen
  manifest : Manifest
  /-- DEST names the root die's recovery buffer (R357). -/
  inRec : Bool
  children : List Nat
  peers : List Nat
  /-- Packets received of chunks not yet verified: (chunk, PSN). -/
  packets : List (Nat × Nat)
  held : List Nat
  /-- A first packet arrived; BCAST_END arrived. -/
  begun : Bool
  ended : Bool
  /-- BCAST_END has been forwarded. -/
  forwarded : Bool
  /-- Ranges asked of the parent or a peer and not answered: (node, first, count). -/
  asked : List (Nat × Nat × Nat)
  rounds : Nat
  /-- Peers still to be queried in this round, and the peer whose answer is awaited. -/
  queryLeft : List Nat
  /-- Peers from which repair was requested (R368). -/
  repairPeers : List Nat
  /-- Writing a firmware slot. -/
  writing : Bool
  sending : Bool
  deriving DecidableEq, Repr

/-- A channel retirement in progress (R362). -/
structure Retire where
  stack : Nat
  channel : Nat
  copying : Bool
  /-- Highest byte the KV pool's LIMIT may reach once the channel is gone. -/
  low : Nat
  deriving DecidableEq, Repr

/-- The reset kinds (Table 13.1), as LAST_RESET shows them. -/
inductive ResetKind where
  | cold | warm | compute | scrub
  deriving DecidableEq, Repr

/-- The value LAST_RESET has. -/
def ResetKind.code : ResetKind → Nat
  | .cold => 1 | .warm => 2 | .compute => 3 | .scrub => 4

/-- Where the node stands (NODE_STATE of Table 12.10, R357). -/
inductive NodeState where
  | booting | ready | computeReset | recovery | failed
  deriving DecidableEq, Repr

/-- The value NODE_STATE has in the I3C map. -/
def NodeState.code : NodeState → Nat
  | .booting => 0 | .ready => 1 | .computeReset => 2 | .recovery => 3 | .failed => 4

/-- Bring-up state. -/
structure Bld where
  node : NodeState
  /-- The reset in progress, or the last. -/
  kind : ResetKind
  /-- Stage in progress: 0 none, 1 to 10. -/
  stage : Nat
  /-- Stage 5 passed (R357). -/
  hbmOk : Bool
  /-- AON cycle of the last trigger. -/
  since : Nat
  /-- The tiles are held in reset after a VCORE or VSRAM fall (R410). -/
  railHold : Option Nat
  /-- RST_N is held asserted. -/
  rstN : Bool
  /-- Shut down by a thermal trip, or rails off awaiting the supply. -/
  off : Bool
  tripped : Bool
  defects : List Defect
  /-- Units kept out of service until the next cold start although the list was cleared (R359). -/
  cleared : List Defect
  licences : List Licence
  slots : List ImageSlot
  pendingSlot : List (Nat × Bool)
  /-- Activated at once and not yet reported healthy: subsystem and previous slot. -/
  health : List (Nat × Bool)
  /-- AON cycle at which the command processor's firmware path changed images, until it reports healthy (Table 13.4). -/
  hcpSince : Option Nat
  /-- Tiles that have taken a TILE image since its activation, and ports a SERDES activation has still to retrain, the first
  draining now (Table 13.4). -/
  taken : List Nat
  serdesLeft : List Nat
  sessions : List Bcast
  /-- Spare core substituted: (tile, logical core index). -/
  spared : List (Nat × Nat)
  retire : Option Retire
  /-- A compute-only reset waiting for a channel copy to complete, and the host command it answers (R354). -/
  resetAfterCopy : Option (ResetKind × Option Nat)
  /-- Barriers whose members learn of the reset when it ends (R314). -/
  barAborts : List Nat
  /-- A fast test of an offline tile is running. -/
  testing : List Nat
  deriving DecidableEq, Repr

/-- An approval set that is not FREE (R393). -/
structure ApprovalSet where
  k : Nat
  opcode : Nat
  digest : Nat
  nonce : Nat
  deadline : Nat
  slots : List Nat
  deriving DecidableEq, Repr

/-- A private RSA key in CRT form (R381, RFC 8017): the primes, the exponents modulo each less one, and the inverse of the second
prime. -/
structure CrtKey where
  p : Nat
  q : Nat
  dP : Nat
  dQ : Nat
  qInv : Nat
  deriving DecidableEq, Repr

/-- Security state (chapter 14). `sealedKey` and `helper` are the sealed identity key and the helper data in the NVM die, `identityKey`
the key unsealed in the security block's working memory, none when erased; `withdrawn` the indices of Flezu certificates the
running firmware generation no longer carries (R383). -/
structure Sec where
  sets : List ApprovalSet
  /-- Enrolled approver keys: slot and modulus. -/
  approvers : List (Nat × Nat)
  certs : List Cert
  /-- The hash of the Flezu root certificate in ROM (R383). -/
  rootHash : Nat
  identityN : Nat
  sealedKey : List Byte
  helper : List Byte
  identityKey : Option CrtKey
  withdrawn : List Nat
  nonces : Nat
  /-- AON tick at which the debug scopes relock. -/
  debugUntil : Option Nat
  deriving DecidableEq, Repr

/-- What demands a throttle (R414): percentages. -/
structure Throttle where
  input : Nat
  rail : Nat
  thermal : Nat
  power : Nat
  deriving DecidableEq, Repr

/-- HBM channel power. -/
structure ChanDown where
  stack : Nat
  channel : Nat
  deriving DecidableEq, Repr

/-- Power and clock state (chapter 15) beside the PCR registers. -/
structure Pcr where
  throttle : Throttle
  railsWarn : List Nat
  /-- Thermal level: 0 none, 1 warning, 2 critical. -/
  level : Nat
  /-- AON cycle since when no sensor is at its critical level, and since when every sensor is 5 °C below its warning level
  (Table 15.6). -/
  belowCrit : Option Nat
  belowWarn : Option Nat
  /-- Sensors at the trip level, and since when. -/
  tripSince : List (Nat × Nat)
  /-- Tiles in the GATED state of Table 15.8. -/
  gatedTiles : List Nat
  ref25 : Bool
  ref156 : Bool
  channelsDown : List ChanDown
  pwrWarnPin : Bool
  thermWarnPin : Bool
  thermTripPin : Bool
  /-- Throttle that takes effect at the next tile-op boundary (R414). -/
  raiseTo : Option Nat
  /-- AON cycle up to which PCR_THROTTLE_TIME is counted. -/
  throttleAt : Nat
  deriving DecidableEq, Repr

/-- The test access port's instruction (R421). -/
inductive TapInstr where
  | idcode | bypass | sample | extest | trace | scan
  deriving DecidableEq, Repr

/-- An event entry held (Table 16.1). -/
structure EvtEntry where
  seq : Nat
  w : EvtWords
  deriving DecidableEq, Repr

/-- A memory error the patrol or an access found. -/
structure MemErr where
  /-- MEMORY of form M: 0 HBM, 1 tile buffer, 2 operand buffer, 3 NVM. -/
  memory : Nat
  unit : Nat
  sub : Nat
  offset : Nat
  correctable : Bool
  deriving DecidableEq, Repr

/-- Event and error-correction state (chapter 16). -/
structure Evt where
  /-- Entries held, oldest first. -/
  entries : List EvtEntry
  /-- Overwrites since EVENTS_OVERWRITTEN was posted, how many of them were caused by other events, and the tick it
  was last posted in. -/
  overwritten : Nat
  byOthers : Nat
  overwrittenAt : Option Nat
  /-- Per HBM channel: corrections since its last MEM_CORRECTED, and the tick that was posted in, plus 1 (0 never). -/
  corrected : List (Nat × Nat × Nat)
  /-- Corrections per HBM channel in the threshold window. -/
  window : List (Nat × Nat)
  /-- Channels whose running window began under another CE_THRESHOLD, and that threshold (R433). -/
  limits : List (Nat × Nat)
  deriving DecidableEq, Repr

end Sys2Proof.Machine
end

