-- ==== Sys2Proof/Syntax.lean ====
section
/-! DEFINITION. The commands of the block: one constructor per row of the table of operations and events, with what
the row's command carries from outside. -/

namespace Sys2Proof

open Sys2Proof.Machine

/-- A command.  Each constructor is one step of the part, whole and indivisible. -/
inductive Instr where
  /-- CSR_WRITE_GENERIC (R7): Software writes a control register that has no behaviour of its own, under the access
  types of Table 0.4. -/
  | csrWriteGeneric (addr value : Nat)
  /-- CORE_FAILURE (R360): A physical core fails a test or fails in service; the device substitutes the spare, or
  withdraws the tile if the spare is already in use. -/
  | coreFailure (tile phys status : Nat)
  /-- MIRROR_BIND (R33): A deputy receives MIRROR_BIND and accepts it, or refuses it with ST_HOME_ADOPTED or
  ST_BAD_STATE. -/
  | mirrorBind (src : Nat)
  /-- MIRROR_BIND_ACCEPTED (R33): The home receives acceptance of its bind and starts copying every home record and
  history to the deputy. -/
  | mirrorBindAccepted (src : Nat)
  /-- MIRROR_COPY_COMPLETE (R33): The initial copy to the deputy completes and the home sets RSE_DEPUTY.BOUND = 1. -/
  | mirrorCopyComplete
  /-- MIRROR_BIND_REFUSED (R33): The home receives a bind refusal; BOUND stays 0 and the bind is not repeated. -/
  | mirrorBindRefused (src : Nat) (status : St)
  /-- MIRROR_BIND_RETRY_EXPIRY (R33): An unanswered bind times out and is sent again every QUERY_RETRY_US. -/
  | mirrorBindRetryExpiry
  /-- MIRROR_WRITE (R34): A deputy applies a mirror write in order, or answers MIRROR_REFUSED or MIRROR_FENCED. -/
  | mirrorWrite (src id : Nat) (w : MirrorMark) (rec : Option Record) (history : List Nat)
  /-- MIRROR_ACK (R34): The home receives MIRROR_ACK and records the waiting change, reply or reclamation. -/
  | mirrorAck (src id : Nat) (w : MirrorMark)
  /-- MIRROR_ACK_TIMEOUT (R35): No MIRROR_ACK arrives within COMMIT_US; the home refuses or defers the change
  according to its kind. -/
  | mirrorAckTimeout (id seq : Nat)
  /-- DEFERRED_CHANGE_RETRY (R35): A deferred recovery, restart, repair or rebase is attempted again every
  QUERY_RETRY_US. -/
  | deferredChangeRetry (id : Nat)
  /-- MIRROR_REFUSED (R33): The home reverts the change, clears BOUND and refuses commits until a new bind completes.
  -/
  | mirrorRefused (src id : Nat) (w : MirrorMark)
  /-- MIRROR_FENCED (R37): The home reverts the refused change and treats the move, placement or recovery concerned
  as not committed. -/
  | mirrorFenced (src id : Nat) (w : MirrorMark)
  /-- OWN_QUERY (R58): A home or deputy receives an ownership query and answers it, holds it, or gathers it as a
  claim. -/
  | ownQuery (src id epoch : Nat) (committed : Bool) (rec : Record)
  /-- OWN_REPLY (R58): A node in doubt receives OWN_REPLY and either owns the request or discards its copy. -/
  | ownReply (src id epoch owner : Nat)
  /-- OWN_QUERY_RETRY (R58): An unanswered OWN_QUERY is repeated every QUERY_RETRY_US. -/
  | ownQueryRetry (id : Nat)
  /-- CLAIM_WINDOW_EXPIRY (R60): The claim window ends; the best claim is granted ownership and OWNERSHIP_REPAIRED is
  posted. -/
  | claimWindowExpiry (id : Nat)
  /-- RESYNC_REPLY (R38): The deputy's answer settles each ID by epoch and fence, or the home proceeds to adoption on
  ST_HOME_ADOPTED. -/
  | resyncReply (src : Nat) (adopted : Bool) (items : List ResyncItem)
  /-- RESYNC_RETRY (R38): An unanswered resynchronisation request is repeated every QUERY_RETRY_US. -/
  | resyncRetry
  /-- RSE_ADOPT_WRITE (R39): A write of RSE_ADOPT.ADOPT makes the deputy act as home for the former home's IDs. -/
  | rseAdoptWrite (value : Nat)
  /-- RSE_DEPUTY_WRITE (R73): A write to RSE_DEPUTY clears BOUND and, with VALID = 1, starts a new bind and full
  copy. -/
  | rseDeputyWrite (value : Nat)
  /-- RSE_MIRROR_HOME_WRITE (R73): A write that changes HOME or clears VALID discards the mirror records held for the
  former home. -/
  | rseMirrorHomeWrite (value : Nat)
  /-- PLACEMENT_OFFER (R194): Burin at the home selects a QUEUED request in DRR order and sends PLACE to a ranked
  node. -/
  | placementOffer
  /-- PLACE (R52): A target receives PLACE, applies the checks of Table 2.3a, reserves frames and replies
  PLACE_ACCEPT or PLACE_REFUSED. -/
  | place (src : Nat) (m : CopyMsg)
  /-- PLACE_ACCEPT (R45): The home receives PLACE_ACCEPT, sets owner and epoch, mirrors the change and sends PLACED.
  -/
  | placeAccept (src id epoch : Nat)
  /-- PLACE_REFUSED (R45): The home receives a refusal; the request stays QUEUED and is offered again after
  PLACE_CANCEL. -/
  | placeRefused (src id epoch : Nat) (status : St)
  /-- PLACE_TIMEOUT (R45): PLACE_US expires without PLACE_ACCEPT; the home sends PLACE_CANCEL and places the request
  again. -/
  | placeTimeout (id : Nat)
  /-- PLACED (R45): The target receives PLACED and begins work, subject to the recall of its pages. -/
  | placed (src id epoch : Nat)
  /-- RECALL_COMPLETE (R97): Every page of the request is on T0, stays on T1, or is lost; the request may take its
  first step. -/
  | recallComplete (id : Nat)
  /-- PLACE_CANCEL (R45): The target receives PLACE_CANCEL and releases its slot and reservation. -/
  | placeCancel (src id epoch : Nat)
  /-- PLACE_IN_DOUBT_EXPIRY (R45): No PLACED or PLACE_CANCEL arrives within COMMIT_US of PLACE_ACCEPT; the target
  sends OWN_QUERY. -/
  | placeInDoubtExpiry (id : Nat)
  /-- STEP_COMMIT (R46): The owner commits a step indivisibly, advancing its counts and writing tokens to the output
  ring once the ring has room. -/
  | stepCommit (id : Nat)
  /-- STEP_NOTE (R48): The home receives STEP_NOTE, records the committed position, mirrors it and replies STEP_ACK.
  -/
  | stepNote (src : Nat) (n : StepNote)
  /-- STEP_ACK (R48): The owner receives STEP_ACK and releases the step's tokens to the host port as TOKEN packets. -/
  | stepAck (src id epoch gen : Nat)
  /-- LOST_STEP (R61): The home receives LOST_STEP and treats the sender as the lost owner of that request alone. -/
  | lostStep (src id epoch : Nat)
  /-- LOSS_SWEEP (R61): On the loss of a node, the home sweeps its directory within 20 ms for the requests that node
  owned. -/
  | lossSweep (node : Nat)
  /-- REQUEST_RECOVER (R62): Once missing pages are rebuilt, the home takes ownership, increments the epoch, enters
  QUEUED and posts REQUEST_RECOVERED. -/
  | requestRecover (id : Nat)
  /-- RECORD_RESTORE (R41): A home record that fails its CHECK is restored from the mirror, or goes to FAILED with
  ST_RECORD_CORRUPT. -/
  | recordRestore (id : Nat)
  /-- MOVE_START (R51): The source starts a move at a step boundary, enters MOVING and sends MV_PREPARE. -/
  | moveStart (id : Nat)
  /-- MV_PREPARE (R52): A destination receives MV_PREPARE, applies the checks of Table 2.3a, reserves frames and
  starts pulling pages. -/
  | mvPrepare (src : Nat) (m : CopyMsg)
  /-- PULL_COMPLETE (R53): Every pulled page is complete and the destination sends MV_PREPARED. -/
  | pullComplete (id : Nat)
  /-- PULL_READ_FAILED (R435): A pull READ fails; the destination discards its copy and replies MV_REFUSED with
  ST_PAGE_MISSING. -/
  | pullReadFailed (id tag : Nat) (status : St)
  /-- MV_PREPARED (R436): The source receives MV_PREPARED and sends MV_COMMIT_REQ, or answers MV_ABORT for a move it
  has abandoned. -/
  | mvPrepared (src id epoch : Nat)
  /-- MV_REFUSED (R52): The source receives MV_REFUSED and returns the request to its prior state. -/
  | mvRefused (src id epoch : Nat) (status : St)
  /-- MV_COMMIT_REQ (R54): The home checks the commit, mirrors it, and records it or replies MV_ABORTED. -/
  | mvCommitReq (src id epoch dest : Nat)
  /-- MV_COMMITTED (R55): The destination enters NEXT_STATE; the source frees its copy and pages and sends
  MV_RELEASED. -/
  | mvCommitted (src id epoch owner : Nat)
  /-- MV_ABORTED (R54): The source receives MV_ABORTED and returns, discards or finalises according to the reason. -/
  | mvAborted (src id epoch : Nat) (status : St)
  /-- MV_ABORT (R436): A destination discards its prepared copy and releases its slot and reservation. -/
  | mvAbort (src id epoch : Nat)
  /-- MV_RELEASED (R55): The home clears MOVE_PHASE. -/
  | mvReleased (src id epoch : Nat)
  /-- PREPARE_TIMEOUT (R51): PREPARE_US expires before MV_PREPARED; the source aborts the move and returns to its
  prior state. -/
  | prepareTimeout (id : Nat)
  /-- MOVE_COMMIT_TIMEOUT (R58): COMMIT_US expires at the source or destination without MV_COMMITTED; the node
  queries ownership. -/
  | moveCommitTimeout (id : Nat)
  /-- HANDBACK_RETRY_EXPIRY (R437): After REFUSE_HOLD_US the owner starts a refused hand-back or park again. -/
  | handbackRetryExpiry (id : Nat)
  /-- TTL_EXPIRY (R66): A PAUSED record's time to live reaches 0; its pages are freed, REQUEST_EXPIRED is posted and
  the slot is reclaimed. -/
  | ttlExpiry (id : Nat)
  /-- TOMBSTONE_EXPIRY (R67): A tombstone's hold ends and its slot and mirror are released. -/
  | tombstoneExpiry (id : Nat)
  /-- CANCEL_FWD (R69): The owner accepts a forwarded cancel, ordered against the step commit. -/
  | cancelFwd (src id epoch : Nat)
  /-- FWD_PAUSE (R438): The owner receives a PAUSE or park forwarded by the home and applies, holds or answers it. -/
  | fwdPause (src id epoch : Nat) (p : PauseReq)
  /-- FWD_MOVE (R438): The owner receives a host MOVE forwarded by the home and starts it or answers ST_BAD_STATE. -/
  | fwdMove (src id epoch dest : Nat) (reply : ReplyTo)
  /-- FINAL (R70): The home receives FINAL, records the tombstone and replies to the command. -/
  | final (src : Nat) (m : FinalMsg)
  /-- NOT_OWNER (R441): The home receives NOT_OWNER and forwards the command again, or treats the sender as the lost
  owner. -/
  | notOwner (src id epoch : Nat) (kind : FwdKind)
  /-- NOT_OWNER_RETRY_EXPIRY (R441): After QUERY_RETRY_US the home forwards the command again to an owner that lacks
  MV_COMMITTED. -/
  | notOwnerRetryExpiry (id : Nat)
  /-- PGE_MODEL_WRITE (R75): A write to a model descriptor is checked and installed, or refused. -/
  | pgeModelWrite (m value : Nat)
  /-- PGE_KV_POOL_WRITE (R78): A write to PGE_KV_POOL is checked against the reserved regions, capacity and the
  allocated frames. -/
  | pgeKvPoolWrite (value : Nat)
  /-- PGE_OCHRE_WRITE (R104): A write to PGE_OCHRE or PGE_OCHRE_CTRL is accepted only while admission is closed and
  no coded page is held. -/
  | pgeOchreWrite (addr value : Nat)
  /-- PGE_UMBER_CTRL_WRITE (R98): Clearing VALID starts the release of an Umber pool; setting VALID again ends the
  release. -/
  | pgeUmberCtrlWrite (u value : Nat)
  /-- PGE_UMBER_WRITE (R104): A write to the other registers of an Umber pool is accepted only while the pool is
  invalid and drained. -/
  | pgeUmberWrite (addr value : Nat)
  /-- PGE_EVICT_WRITE (R104): A write to PGE_EVICT is refused when PAUSE_TIER or PARK_TIER is 0 or 3. -/
  | pgeEvictWrite (value : Nat)
  /-- PREFIX_IDLE_EXPIRY (R90): An unreferenced PREFIX page idle for PREFIX_HOLD_TICKS has its frame freed. -/
  | prefixIdleExpiry (idx : Nat)
  /-- PG_RENEW_TIMER (R91): The owner sends PG_RENEW for every FOREIGN page it owns, at least every LEASE_TICKS ÷ 4.
  -/
  | pgRenewTimer
  /-- PG_RENEW (R91): A holder checks the epoch and raises DEADLINE to now + LEASE_TICKS. -/
  | pgRenew (src id epoch : Nat) (idxs : List Nat)
  /-- PG_TTL (R92): A holder raises DEADLINE to now + n + GRACE_TICKS. -/
  | pgTtl (src id epoch ticks : Nat)
  /-- PG_FREE (R92): A holder frees the named FOREIGN pages once any reading query completes. -/
  | pgFree (src id epoch : Nat) (idxs : List Nat)
  /-- PAGE_DEADLINE_CHECK (R92): At each tick a holder frees FOREIGN pages whose DEADLINE is reached and posts
  PAGE_ORPHAN_FREED. -/
  | pageDeadlineCheck
  /-- MIGRATION_START (R93): The page engine sets MIGRATING, obtains the target frame or slot and copies the page
  with its DATA_CRC. -/
  | migrationStart (idx : Nat) (why : MigWhy)
  /-- MIGRATION_COPY (R93): The receiver of a migrated page verifies DATA_CRC and acknowledges or refuses the copy. -/
  | migrationCopy (src idx : Nat) (p : Page) (data : List Byte)
  /-- MIGRATION_ACK (R93): The engine switches the entry's location and tier, frees the old frame and clears
  MIGRATING. -/
  | migrationAck (src idx index : Nat)
  /-- MIGRATION_REFUSED (R94): A DATA_CRC refusal is retried once from the old copy; a second failure makes the page
  lost. -/
  | migrationRefused (src idx : Nat) (status : St)
  /-- DEMOTE_IDLE_EXPIRY (R96): A FOREIGN page idle for T1_HOLD_TICKS is demoted to the holder's Umber pool. -/
  | demoteIdleExpiry (idx : Nat)
  /-- WRITE_THROUGH (R101): A copy holder writes committed KV and sends the XOR of old and new bytes to the parity
  holder. -/
  | writeThrough (src id epoch idx offset tag : Nat) (data : List Byte)
  /-- PARITY_UPDATE (R101): The parity holder XORs the delta into the parity page and acknowledges. -/
  | parityUpdate (src id epoch group offset tag : Nat) (delta : List Byte)
  /-- WRITE_THROUGH_ACK (R101): Once every write-through of a step is acknowledged, the owner sends STEP_NOTE. -/
  | writeThroughAck (src id tag : Nat)
  /-- PG_LOCATE (R102): An Ochre node replies with the layer, position, group and member of every page it holds for
  the request. -/
  | pgLocate (src id epoch : Nat)
  /-- PG_LOCATE_REPLY (R102): The home gathers the replies and rebuilds missing members, or takes the restart path. -/
  | pgLocateReply (src id : Nat) (pages : List LocatedPage)
  /-- MZQUERY (R107): The instruction sends a Mezzotint QUERY to each holder of the layer and completes when every
  PARTIAL has arrived. -/
  | mzquery (core : Nat)
  /-- MZWRITE (R113): The instruction sends a KV_WRITE per page and layer and completes at the last KV_ACK. -/
  | mzwrite (core : Nat)
  /-- MZT_QUERY (R115): A holder checks an arriving QUERY in the order of Table 4.3 and queues it or answers a
  PARTIAL. -/
  | mztQuery (src : Nat) (m : MztMsg)
  /-- MZT_QUERY_DONE (R117): A holder finishes computing a queued query and sends its PARTIAL. -/
  | mztQueryDone
  /-- MZT_KV_WRITE (R113): A holder checks the epoch, writes the bytes into the held page and returns KV_ACK. -/
  | mztKvWrite (src : Nat) (m : MztMsg)
  /-- MZT_KV_ACK (R114): The owner records a KV_ACK, a precondition of committing the step. -/
  | mztKvAck (src : Nat) (m : MztMsg)
  /-- MZT_PARTIAL (R120): The owner acts on an arriving PARTIAL as Table 4.4 states. -/
  | mztPartial (src : Nat) (m : MztMsg)
  /-- MZT_BUSY_RETRY_EXPIRY (R120): After BUSY_RETRY_US a query answered ST_MZT_BUSY is resent with a new TAG. -/
  | mztBusyRetryExpiry (tag : Nat)
  /-- MZT_PARTIAL_TIMEOUT (R120): No PARTIAL arrives within PARTIAL_US, or busy resends pass BUSY_LIMIT_US; the step
  fails. -/
  | mztPartialTimeout (tag : Nat)
  /-- MZT_CTRL_WRITE (R125): A write to MZT_CTRL sets CONTEXT or SERVE, subject to the service conditions. -/
  | mztCtrlWrite (value : Nat)
  /-- MZT_CORES_WRITE (R125): A write to MZT_CORES_LO or MZT_CORES_HI is accepted only while SERVE and BUSY are 0. -/
  | mztCoresWrite (hi : Bool) (value : Nat)
  /-- MZT_CONFIG_WRITE (R125): A write to MZT_SPREAD or MZT_TIMEOUT applies to later placements and queries. -/
  | mztConfigWrite (addr value : Nat)
  /-- INSTR_NOP (R145): The NOP instruction does nothing. -/
  | instrNop (core : Nat)
  /-- MMA (R135): A matrix multiply whose B operand is taken from the operand buffer. -/
  | mma (core : Nat)
  /-- MMX (R135): A matrix multiply over expanded compressed weights with an optional Stipple delta. -/
  | mmx (core : Nat)
  /-- MMT (R135): A matrix multiply that reads B transposed. -/
  | mmt (core : Nat)
  /-- VBIN (R145): An elementwise binary vector operation. -/
  | vbin (core : Nat)
  /-- VBINS (R145): An elementwise vector operation against a scalar immediate. -/
  | vbins (core : Nat)
  /-- VFMA (R145): A vector fused multiply-add. -/
  | vfma (core : Nat)
  /-- VUN (R142): An elementwise unary vector function. -/
  | vun (core : Nat)
  /-- VRED (R142): A row reduction yielding one result per row. -/
  | vred (core : Nat)
  /-- VSOFTMAX (R145): A row softmax. -/
  | vsoftmax (core : Nat)
  /-- VNORM (R145): An RMS norm or layer norm. -/
  | vnorm (core : Nat)
  /-- VROPE (R145): A rotary embedding. -/
  | vrope (core : Nat)
  /-- VCVT (R139): A format conversion that writes MX scales where the format needs them. -/
  | vcvt (core : Nat)
  /-- VMERGE (R143): The attention merge of Mezzotint partials. -/
  | vmerge (core : Nat)
  /-- SAMPLE (R146): Samples one token per request. -/
  | sample (core : Nat)
  /-- SVERIFY (R148): Verifies speculative drafts and samples the step's last token. -/
  | sverify (core : Nat)
  /-- SCOMMIT (R149): Hands sample entries to the request state engine for the step commit and writes the results. -/
  | scommit (core : Nat)
  /-- SLOGPROB (R150): Writes the log-probabilities of the given tokens. -/
  | slogprob (core : Nat)
  /-- OADAM (R151): An Adam step on FP32 master weights. -/
  | oadam (core : Nat)
  /-- OSGD (R151): A momentum step on FP32 master weights. -/
  | osgd (core : Nat)
  /-- INSTR_LOAD (R256): A data-mover load from space 0 or 1 into the operand buffer. -/
  | instrLoad (core : Nat)
  /-- INSTR_STORE (R256): A data-mover store from the operand buffer to space 0 or 1. -/
  | instrStore (core : Nat)
  /-- INSTR_WAIT (R304): Deschedules the core until a local counter satisfies the serial comparison. -/
  | instrWait (core : Nat)
  /-- INSTR_SIGNAL (R301): Adds a signed 24-bit value to a counter. -/
  | instrSignal (core : Nat)
  /-- INSTR_ARRIVE (R310): Arrives at a registration barrier for a named round. -/
  | instrArrive (core : Nat)
  /-- FENCE (R126): Waits until every earlier instruction of the core has completed. -/
  | fence (core : Nat)
  /-- END (R185): Ends the core's program run. -/
  | end_ (core : Nat)
  /-- TILE_OP_BOUNDARY (R128): A tile-op completes; the sequencer checks for a squash and begins the next tile-op. -/
  | tileOpBoundary (core : Nat)
  /-- RNG_RESEED (R147): After 2^20 draws, a core's random source is reseeded from entropy. -/
  | rngReseed (core : Nat)
  /-- TABLE_LOAD (R170): Installs a code table image under an ID after checks and expander invalidation. -/
  | tableLoad (id : Nat)
  /-- TABLE_INVALIDATE_DONE (R170): Every expander confirms invalidation, and TABLE_LOAD completes with BUSY cleared.
  -/
  | tableInvalidateDone
  /-- TABLE_DROP (R169): Marks a table ID dropping, and frees it at once if it has no references. -/
  | tableDrop (id : Nat)
  /-- DSET_LOAD (R172): Checks a delta set and registers it in a slot. -/
  | dsetLoad (slot : Nat)
  /-- DSET_LOAD_READ_DONE (R172): The read of the set completes and the load finishes with ST_OK or ST_DELTA_FORMAT.
  -/
  | dsetLoadReadDone
  /-- DSET_DROP (R169): Marks a delta slot dropping, and frees it at once if it has no references. -/
  | dsetDrop (slot : Nat)
  /-- BIND_TABLE (R166): Binds a loaded table to an OPEN context. -/
  | bindTable (ctx id : Nat)
  /-- BIND_DSET (R166): Binds a loaded delta slot to an OPEN context. -/
  | bindDset (ctx slot : Nat)
  /-- EXP_CMD_ADDR_WRITE (R178): A write to EXP_CMD_ADDR is refused while a command is running. -/
  | expCmdAddrWrite (value : Nat)
  /-- CTX_OPEN (R179): Reads a context descriptor and enters LOADING. -/
  | ctxOpen (c : Nat)
  /-- CTX_LOADING_DONE (R180): The descriptor checks and sync-object marking end; the context enters OPEN or returns
  to FREE. -/
  | ctxLoadingDone (c : Nat)
  /-- CTX_START (R181): Takes an OPEN context to RUNNING. -/
  | ctxStart (c : Nat)
  /-- CTX_CLOSE (R181): Takes an OPEN context to CLOSING, or a RUNNING context to DRAINING. -/
  | ctxClose (c : Nat)
  /-- CTX_ABORT (R181): Takes a context to CLOSING for teardown. -/
  | ctxAbort (c : Nat)
  /-- CTX_DRAINED (R181): A DRAINING context owns no live request or running batch and enters CLOSING. -/
  | ctxDrained (c : Nat)
  /-- CTX_TEARDOWN_DONE (R183): Teardown completes, CONTEXT_CLOSED is posted and the context goes to FREE or reopens.
  -/
  | ctxTeardownDone (c : Nat)
  /-- BATCH_DISPATCH (R185): Burin forms a batch for an idle core group, writes the batch area and starts the cores
  at STEP_PC. -/
  | batchDispatch (c group : Nat)
  /-- BATCH_END (R185): Every core of the group has executed END and the batch ends. -/
  | batchEnd (c group : Nat)
  /-- BATCH_HOLD_EXPIRY (R193): A batch held below ROW_MIN is dispatched when HOLD_US expires. -/
  | batchHoldExpiry (c : Nat)
  /-- REFUSE_HOLD_EXPIRY (R195): A node passed over after a refusal becomes eligible again and the request is offered
  again. -/
  | refuseHoldExpiry (node : Nat)
  /-- JOB_ABORT (R200): A receiver tears down its LEARN contexts of the named job and posts JOB_ABORTED. -/
  | jobAbort (src job : Nat)
  /-- SHARD_DISPATCH (R184): Burin dispatches the next shard of the shard table to an idle core group. -/
  | shardDispatch (c group : Nat)
  /-- BACKUP_START (R202): Burin starts a backup copy of a straggling shard. -/
  | backupStart (c shard group : Nat)
  /-- SHARD_WIN (R203): The first copy of a shard to reach END wins; the other is squashed and RESULT and DONE_CTR
  are written. -/
  | shardWin (c shard copy : Nat)
  /-- SCH_COMP_WRITE (R205): A write to a composition is checked for overlap and use, and resets its shaper bucket. -/
  | schCompWrite (addr value : Nat)
  /-- COMP_METER_TICK (R207): At each AON tick the meters of every valid composition increment. -/
  | compMeterTick
  /-- SCH_QUEUE_WRITE (R209): A write to SCH_QUEUE_A is accepted or refused according to the queue's use. -/
  | schQueueWrite (q value : Nat)
  /-- SCH_CTRL_WRITE (R209): A write to SCH_CTRL sets PREFILL_COST, MODE or ENABLE. -/
  | schCtrlWrite (value : Nat)
  /-- PHASE_TURN (R211): The Prayr opcode checks and accepts a phase turn, entering CLOSING. -/
  | phaseTurn (p : HostPkt) (value : Nat)
  /-- PHS_TURN_WRITE (R230): A CSR write to PHS_TURN starts a turn on GO or sets its targets outside a turn. -/
  | phsTurnWrite (value : Nat)
  /-- TURN_FINISH_EXPIRY (R212): FINISH_US elapses and the turn enters PARKING. -/
  | turnFinishExpiry
  /-- TURN_PARKING_DONE (R212): The node owns no live request and every context is FREE; the turn enters QUIESCE. -/
  | turnParkingDone
  /-- TURN_QUIESCE_DONE (R215): Node-origin work is complete and flushed; the turn enters CHECK. -/
  | turnQuiesceDone
  /-- TURN_CHECK_DONE (R220): The empty-state checks hold and the turn proceeds to SWITCH. -/
  | turnCheckDone
  /-- HOLDER_QUIET_EXPIRY (R216): A CACHE node quiet for HOLDER_QUIET_US may enter SWITCH. -/
  | holderQuietExpiry
  /-- TURN_DRAIN_LIMIT_EXPIRY (R214): DRAIN_LIMIT_MS expires; contexts are aborted, PHASE_TURN_FORCED is posted and
  QUIESCE is entered. -/
  | turnDrainLimitExpiry
  /-- PHS_CTRL_WRITE (R229): A write of ADMIT permits or closes admission. -/
  | phsCtrlWrite (value : Nat)
  /-- PHS_POLICY_WRITE (R230): A write of STAGED is refused during a turn. -/
  | phsPolicyWrite (value : Nat)
  /-- PHS_FLOOR_WRITE (R230): A write of FLOOR takes effect at the next rebase check. -/
  | phsFloorWrite (value : Nat)
  /-- FAB_PORT_CFG_WRITE (R232): A write to FAB_PORT_CFG sets the port's mode, drain, lanes or encryption. -/
  | fabPortCfgWrite (port value : Nat)
  /-- LINK_TRAINED (R237): The PHY comes up with FEC locked and the link enters HANDSHAKE. -/
  | linkTrained (link : LinkId)
  /-- LANE_TRAIN_FAIL (R233): A direct port that cannot train on 8 lanes retrains on 4 and posts LINK_DEGRADED. -/
  | laneTrainFail (port : Nat)
  /-- HELLO (R238): A node applies the handshake checks to a peer's HELLO and takes the link UP or to FAILED. -/
  | hello (link : LinkId) (f : HelloFrame)
  /-- HELLO_SEND_TIMER (R237): A HELLO is sent every HELLO_US while the link is in HANDSHAKE. -/
  | helloSendTimer (link : LinkId)
  /-- HELLO_LOSS_TIMEOUT (R237): No HELLO arrives for 1 ms and the link returns to TRAINING. -/
  | helloLossTimeout (link : LinkId)
  /-- LINK_DOWN_RETRAIN_EXPIRY (R237): After 1 ms in DOWN with DRAIN = 0, the link retrains. -/
  | linkDownRetrainExpiry (link : LinkId)
  /-- LINK_FAILED_RECHECK (R237): Once per second a FAILED link checks whether the peer's HELLO has changed. -/
  | linkFailedRecheck (link : LinkId) (h : Hello)
  /-- LINK_DRAINED (R237): A DRAINING link's queue and replay buffer empty and the link goes DOWN. -/
  | linkDrained (link : LinkId)
  /-- DATA_FRAME_RECEIVE (R239): A link accepts the next DATA frame in LSEQ order, or drops it and sends LNACK. -/
  | dataFrameReceive (link : LinkId) (hop : HopPart) (f : Frame)
  /-- LNACK (R239): The sender replays from the named LSEQ, and the link goes DOWN when REPLAY_LIMIT is reached. -/
  | lnack (link : LinkId) (hop : HopPart)
  /-- LACK (R239): The sender frees acknowledged frames and takes the returned credits. -/
  | lack (link : LinkId) (hop : HopPart) (credits : Nat)
  /-- LINK_REPLAY_EXPIRY (R239): LACK has not advanced for 2 µs and the sender replays from the oldest unacknowledged
  frame. -/
  | linkReplayExpiry (link : LinkId)
  /-- LINK_TIMEOUT_EXPIRY (R239): LACK has not advanced for LINK_TIMEOUT_US while frames wait, and the link goes
  DOWN. -/
  | linkTimeoutExpiry (link : LinkId)
  /-- ORDERED_FRAME_ACCEPT (R250): A destination accepts only the next OSEQ of the source's incarnation and
  acknowledges it. -/
  | orderedFrameAccept (f : Frame)
  /-- OACK (R250): The source frees acknowledged frames, retransmits on a gap, or restarts the channel on SYNC. -/
  | oack (f : Frame)
  /-- ORETX_EXPIRY (R250): The oldest frame has waited ORETX_US and every unacknowledged frame is retransmitted. -/
  | oretxExpiry (dst : Nat)
  /-- PROBE_EXPIRY (R252): An unreachable channel sends a probe every PROBE_MS. -/
  | probeExpiry (dst : Nat)
  /-- SIGNAL_FRAME (R254): A target applies a SIGNAL once its cover is accounted, or holds it. -/
  | signalFrame (f : Frame)
  /-- COVER_HOLD_EXPIRY (R255): A signal held for COVER_HOLD_US is refused with ST_SIGNAL_UNCOVERED. -/
  | coverHoldExpiry (src : Nat)
  /-- LOAD_FRAME (R263): A target checks a remote LOAD and returns LOAD_RESP. -/
  | loadFrame (f : Frame)
  /-- STORE_FRAME (R256): A target checks and performs a remote STORE. -/
  | storeFrame (f : Frame)
  /-- ATOMIC_FRAME (R257): A target performs an atomic on one aligned word and returns the prior value. -/
  | atomicFrame (f : Frame)
  /-- REMOTE_RESPONSE (R266): The response to a remote operation completes it at the source. -/
  | remoteResponse (f : Frame)
  /-- REMOTE_TIMEOUT_EXPIRY (R266): REMOTE_US elapses and the operation completes with ST_REMOTE_TIMEOUT. -/
  | remoteTimeoutExpiry (what : Awaited)
  /-- FAB_ASSIGN_NUMBER (R242): A write of FAB_ASSIGN.NUMBER gives the node its number. -/
  | fabAssignNumber (number : Nat)
  /-- FAB_ASSIGN_RELEASE (R243): A write of RELEASE clears NODE_VALID when the node holds no records. -/
  | fabAssignRelease
  /-- MGMT_FRAME (R245): A management frame at its target performs a CSR read or write and answers MGMT_RESP along
  RETURN. -/
  | mgmtFrame (f : Frame)
  /-- MGMT_RESP (R245): A management response arrives back at the manager node along RETURN. -/
  | mgmtResp (f : Frame)
  /-- FABRIC_NOTICE (R246): A manager node posts the copy of a fabric-class event as FABRIC_NOTICE. -/
  | fabricNotice (src : Nat) (e : EvtWords)
  /-- FAB_RT_ENTRY_WRITE (R248): Installs a route entry on every router die in one step, subject to the domain limit.
  -/
  | fabRtEntryWrite (value : Nat)
  /-- FAB_REGION_BASE_WRITE (R261): A write to FAB_REGION_BASE is checked for alignment, range and use. -/
  | fabRegionBaseWrite (value : Nat)
  /-- REGION_REGISTER (R264): Writes a region entry from the ARG registers. -/
  | regionRegister (region : Nat)
  /-- REGION_REVOKE (R264): Sets a region REVOKING and invalidates it in every router die cache. -/
  | regionRevoke (region : Nat)
  /-- REGION_READ (R264): Copies a region entry into the ARG registers. -/
  | regionRead (region : Nat)
  /-- REVOKE_COMPLETE (R264): INFLIGHT reaches 0; the region becomes FREE and REGION_REVOKED is posted. -/
  | revokeComplete
  /-- SPRAY_NAK (R265): The source of a refused sprayed packet posts KEY_REVOKED or REMOTE_REFUSED. -/
  | sprayNak (f : Frame)
  /-- ENGINE_NAK (R434): An engine whose message was refused with ST_NODE_RESETTING retries or drops it according to
  the message kind. -/
  | engineNak (f : Frame)
  /-- ENGINE_NAK_RETRY_EXPIRY (R434): A refused report is sent again every QUERY_RETRY_US. -/
  | engineNakRetryExpiry (dst : Nat)
  /-- FAB_PEER_WRITE (R272): A write to FAB_PEER is refused while the virtual link is UP. -/
  | fabPeerWrite (k value : Nat)
  /-- FAB_CTRL_WRITE (R272): A write to FAB_CTRL is refused unless every port is DISABLED. -/
  | fabCtrlWrite (value : Nat)
  /-- FAB_TIMEOUT_WRITE (R266): A write to FAB_TIMEOUT is range-checked and applies to later operations. -/
  | fabTimeoutWrite (value : Nat)
  /-- REKEY_START (R401): A send counter reaches 2^47, or REKEY_TICKS passes, and the node sends a fresh HELLO. -/
  | rekeyStart (link : LinkId)
  /-- REKEY_HELLO (R401): A HELLO received on an UP link is checked; the node answers it and switches keys, or takes
  the link DOWN. -/
  | rekeyHello (link : LinkId) (f : HelloFrame)
  /-- XFR_Q_D_WRITE (R274): A host raises a queue's POSTED count. -/
  | xfrQDWrite (q value : Nat)
  /-- XFR_QUEUE_CFG_WRITE (R278): A write to XFR_Q_A or XFR_Q_B configures a queue, and clearing VALID flushes it. -/
  | xfrQueueCfgWrite (addr value : Nat)
  /-- XFR_WRITE (R282): A work request sends MSG_OPEN and injects sprayed WRITE messages. -/
  | xfrWrite (q : Nat)
  /-- XFR_READ (R288): A work request sends READ frames for each piece of the remote range. -/
  | xfrRead (q : Nat)
  /-- XFR_ATOMIC (R257): A work request sends an ATOMIC frame. -/
  | xfrAtomic (q : Nat)
  /-- XFR_SIGNAL (R280): A work request sends a SIGNAL carrying its cover. -/
  | xfrSignal (q : Nat)
  /-- XFR_COPY (R280): A work request starts a local copy. -/
  | xfrCopy (q : Nat)
  /-- XFR_COPY_DONE (R280): A local copy is written and its request completes. -/
  | xfrCopyDone (q idx : Nat)
  /-- XFR_NOP (R280): A work request that completes at once. -/
  | xfrNop (q : Nat)
  /-- UMBER_WRITE (R280): A work request issues an RDMA WRITE on its QP. -/
  | umberWrite (q : Nat)
  /-- UMBER_READ (R280): A work request issues an RDMA READ on its QP. -/
  | umberRead (q : Nat)
  /-- XFR_REDUCE (R296): A work request contributes to a collective op chunk by chunk. -/
  | xfrReduce (q : Nat)
  /-- MSG_OPEN (R283): A destination records a WRITE's message range and notify target. -/
  | msgOpen (src : Nat) (m : OpenMsg)
  /-- WRITE_PACKET (R284): A destination treats a WRITE packet by the rows of Table 10.4 and accounts it. -/
  | writePacket (f : Frame)
  /-- MSG_DONE (R285): The source completes the WRITE request with the status MSG_DONE carries. -/
  | msgDone (src first count : Nat) (status : St)
  /-- MSG_TIMEOUT_EXPIRY (R286): No MSG_DONE arrives within MSG_TIMEOUT_US and the source sends MSG_ABORT. -/
  | msgTimeoutExpiry (q idx : Nat)
  /-- MSG_ABORT (R286): The destination abandons unfinished messages, accounts their bytes and answers MSG_DONE. -/
  | msgAbort (src : Nat) (m : OpenMsg)
  /-- READ_FRAME (R288): A responder answers a READ with one READ_DATA packet, or refuses it with SPRAY_NAK. -/
  | readFrame (f : Frame)
  /-- READ_DATA (R289): A requester places a piece, or drops it as a duplicate or late arrival. -/
  | readData (f : Frame)
  /-- TAG_QUIET_EXPIRY (R289): A read slot becomes reusable after TAG_QUIET_US. -/
  | tagQuietExpiry (tag : Nat)
  /-- REDUCE_PACKET (R294): An engine accepts an up contribution, sums the chunk and sends it to its parent when
  complete. -/
  | reducePacket (f : Frame)
  /-- REDUCE_DOWN_PACKET (R295): A member writes the result chunk and passes it to its children. -/
  | reduceDownPacket (f : Frame)
  /-- COLL_TIMEOUT_EXPIRY (R296): A slot waits COLL_TIMEOUT_MS and the op fails with ST_COLLECTIVE_TIMEOUT. -/
  | collTimeoutExpiry (group chunk : Nat)
  /-- XFR_MSG_BASE_WRITE (R299): A write to XFR_MSG_BASE is checked for alignment, range and use. -/
  | xfrMsgBaseWrite (value : Nat)
  /-- XFR_GROUP_WRITE (R299): A write to a collective group's registers is checked for use and window limits. -/
  | xfrGroupWrite (addr value : Nat)
  /-- XFR_CFG_WRITE (R299): A write to XFR_CFG applies to later requests and ops. -/
  | xfrCfgWrite (value : Nat)
  /-- SYN_CTR_DATA_WRITE (R318): Sets the selected counter's VALUE and re-evaluates waits. -/
  | synCtrDataWrite (value : Nat)
  /-- BARRIER_CONFIGURE (R309): Configures a FREE barrier to COLLECTING. -/
  | barrierConfigure (bar : Nat)
  /-- BARRIER_FREE (R309): Returns an idle COLLECTING barrier to FREE. -/
  | barrierFree (bar : Nat)
  /-- ARRIVE_AT_BARRIER (R311): The barrier node handles an arrival by Table 11.3 and returns ARRIVE_RESP. -/
  | arriveAtBarrier (f : Frame)
  /-- RELEASE_ACK (R312): ACKS_PENDING decrements, and at 0 the round advances. -/
  | releaseAck (src bar round : Nat)
  /-- BARRIER_RELEASE (R313): A member ends the matching ARRIVEs and sends RELEASE_ACK. -/
  | barrierRelease (src bar round : Nat)
  /-- BARRIER_ABORT (R313): A member faults every core waiting on that node's barriers. -/
  | barrierAbort (src bar round : Nat) (status : St)
  /-- WAIT_LIMIT_EXPIRY (R306): A WAIT or ARRIVE exceeds WAIT_LIMIT_MS and faults with ST_WAIT_TIMEOUT. -/
  | waitLimitExpiry (core : Nat)
  /-- WAIT_GATE_EXPIRY (R305): A waiting core gates its clocks after GATE_AFTER_US. -/
  | waitGateExpiry (core : Nat)
  /-- PRAYR_NOP (R329): Echoes the payload. -/
  | prayrNop (p : HostPkt) (data : List Byte)
  /-- CAPS (R329): Returns the capability descriptor and PHS_VERSIONS. -/
  | caps (p : HostPkt)
  /-- SUBMIT (R332): The home checks a SUBMIT, builds the record, mirrors it and enters QUEUED. -/
  | submit (p : HostPkt) (b : SubmitBlock) (tokens : List Nat)
  /-- SUBMIT_PROMPT_READ_DONE (R333): The RDMA read of a host-memory prompt completes and the ID is assigned, or the
  SUBMIT fails. -/
  | submitPromptReadDone (ref : Nat) (status : St) (tokens : List Nat)
  /-- CANCEL (R68): A cancel is forwarded to the home and acted on by Table 2.8. -/
  | cancel (p : HostPkt) (id : Nat)
  /-- PAUSE (R64): A request to pause at the next step boundary with a time to live. -/
  | pause (p : HostPkt) (id ticks : Nat)
  /-- RESUME (R334): Appends a new turn to a PAUSED or PARKED record and enters QUEUED. -/
  | resume (p : HostPkt) (b : ResumeBlock) (tokens : List Nat)
  /-- QUERY_REQ (R330): Returns the home's record. -/
  | queryReq (p : HostPkt) (id : Nat)
  /-- TOKEN_ACK (R337): Drains acknowledged TOKEN packets in ACK_MODE 1. -/
  | tokenAck (p : HostPkt) (id epoch next : Nat)
  /-- SET_TTL (R330): Replaces a PAUSED record's time to live and sends PG_TTL to the holders. -/
  | setTtl (p : HostPkt) (id ticks : Nat)
  /-- MOVE (R440): Forwards a host-requested move to the owner and replies with its outcome. -/
  | move (p : HostPkt) (id dest : Nat)
  /-- CSR_READ (R335): Reads COUNT consecutive registers, locally or through space 3. -/
  | csrRead (p : HostPkt) (node addr count : Nat)
  /-- CSR_WRITE (R335): Writes COUNT consecutive registers, locally or through space 3. -/
  | csrWrite (p : HostPkt) (node addr : Nat) (values : List Nat)
  /-- EVENT_PULL (R339): Returns up to MAX event entries from CURSOR. -/
  | eventPull (p : HostPkt) (cursor max : Nat)
  /-- RESET_WARM (R351): RESET KIND 1 performs a warm reset. -/
  | resetWarm (p : HostPkt)
  /-- RESET_COMPUTE (R353): RESET KIND 2 performs a compute-only reset while the node forwards traffic. -/
  | resetCompute (p : HostPkt)
  /-- RESET_COMPUTE_SCRUB (R351): RESET KIND 3 performs a compute-only reset with an HBM scrub. -/
  | resetComputeScrub (p : HostPkt)
  /-- QP_SETUP (R345): Takes a QP from RESET to ready-to-send. -/
  | qpSetup (p : HostPkt) (c : QpCfg)
  /-- QP_DESTROY (R345): Returns a QP to RESET and fails its outstanding operations. -/
  | qpDestroy (p : HostPkt) (qp : Nat)
  /-- PRAYR_BAD_OPCODE (R324): A request with an unassigned opcode is answered ST_BAD_OPCODE. -/
  | prayrBadOpcode (p : HostPkt) (opcode : Nat)
  /-- HOST_PACKET_DROP (R321): A packet not addressed to the node's addresses and ports is dropped and counted. -/
  | hostPacketDrop
  /-- HOST_ARP (R321): Answers ARP for the port's IPv4 address. -/
  | hostArp (target : Nat) (asker : Asker)
  /-- HOST_NEIGHBOUR_SOLICIT (R321): Answers IPv6 neighbour solicitation. -/
  | hostNeighbourSolicit (target : Nat) (asker : Asker)
  /-- HOST_ICMP_ECHO (R321): Answers ICMP and ICMPv6 echo. -/
  | hostIcmpEcho (target : Nat) (asker : Asker) (data : List Byte)
  /-- REPLY_CACHE_EXPIRY (R325): A cached reply is released after REPLY_HOLD_MS. -/
  | replyCacheExpiry (key : ReqKey)
  /-- TOKEN_TRANSMIT (R337): In ACK_MODE 0, a TOKEN packet drains when the port transmits it. -/
  | tokenTransmit
  /-- TOKEN_RETX_EXPIRY (R337): The oldest undrained TOKEN packet is retransmitted, or dropped after RETX_LIMIT. -/
  | tokenRetxExpiry (id : Nat)
  /-- HOST_RDMA_WRITE (R346): A host-initiated RDMA WRITE into a window is checked and performed. -/
  | hostRdmaWrite (h : RoceHdr) (rkey va : Nat) (data : List Byte)
  /-- HOST_RDMA_READ (R346): A host-initiated RDMA READ from a window is checked and answered. -/
  | hostRdmaRead (h : RoceHdr) (rkey va len : Nat)
  /-- ROCE_COMPLETION (R344): A requester RDMA operation completes on its QP. -/
  | roceCompletion (qp : Nat) (e : RoceEnd)
  /-- ROCE_ACK_TIMEOUT (R344): The local ACK timeout retransmits go-back-N, or puts the QP in ERROR once retries are
  exhausted. -/
  | roceAckTimeout (qp : Nat)
  /-- ROCE_NAK (R345): A remote access NAK puts the QP in ERROR and posts QP_ERROR. -/
  | roceNak (qp syndrome : Nat)
  /-- ROCE_CNP (R344): A CNP halves the QP's rate. -/
  | roceCnp (qp : Nat)
  /-- ROCE_RATE_RECOVERY (R344): Every 50 µs without a CNP, the QP's rate recovers by 1/16 of line rate. -/
  | roceRateRecovery (qp : Nat)
  /-- HCP_WINDOW_WRITE (R346): A write to a host window opens it, or closes it in two phases. -/
  | hcpWindowWrite (addr value : Nat)
  /-- WINDOW_CLOSE_DONE (R346): Writes checked before the close have landed and BUSY clears. -/
  | windowCloseDone (window : Nat)
  /-- HOST_PORT_UP (R320): The host port reaches UP, its shaper buckets fill and HOST_LINK_UP is posted. -/
  | hostPortUp
  /-- HOST_PORT_DOWN (R320): The host port leaves UP and HOST_LINK_DOWN is posted. -/
  | hostPortDown
  /-- HCP_REG_WRITE (R350): A write to an HCP register applies to later packets, dropping queued frames that no
  longer fit. -/
  | hcpRegWrite (addr value : Nat)
  /-- TRF_METER_WRITE (R343): A write to a tenant's meter refills both of its buckets. -/
  | trfMeterWrite (addr value : Nat)
  /-- SHAPER_WRITE (R343): A write to a host or fabric shaper refills its bucket. -/
  | shaperWrite (addr value : Nat)
  /-- I3C_PRIVATE_WRITE (R347): Sets the telemetry read offset. -/
  | i3cPrivateWrite (data : List Byte)
  /-- I3C_PRIVATE_READ (R347): Returns telemetry bytes from the current snapshot. -/
  | i3cPrivateRead (count : Nat)
  /-- I3C_ENTDAA (R347): The controller assigns the target's dynamic address. -/
  | i3cEntdaa (addr : Nat)
  /-- I3C_SNAPSHOT_REFRESH (R347): The telemetry snapshot is refreshed every 100 ms. -/
  | i3cSnapshotRefresh
  /-- COLD_START (R351): 48 V becomes valid or RST_N is asserted, and a full cold start begins. -/
  | coldStart (pin : Bool)
  /-- WATCHDOG_EXPIRY (R351): The management-controller watchdog triggers a warm reset. -/
  | watchdogExpiry
  /-- BOOT_STAGE_DONE (R356): A boot stage completes and the next stage begins. -/
  | bootStageDone (status : St) (findings : List Finding) (badImages : List Nat)
  /-- TILE_SERVICE_OFFLINE (R361): Takes a tile offline, clearing its TILE_PRESENT bit. -/
  | tileServiceOffline (p : HostPkt) (tile : Nat)
  /-- TILE_SERVICE_ONLINE (R361): Starts the fast test of an offline tile. -/
  | tileServiceOnline (p : HostPkt) (tile : Nat)
  /-- TILE_ONLINE_TEST_DONE (R361): The fast test completes, its findings are applied and TILE_PRESENT is set. -/
  | tileOnlineTestDone (tile : Nat) (findings : List Finding)
  /-- CHANNEL_RETIRE (R362): Checks a retirement and moves the pool's frames out of the removed range. -/
  | channelRetire (p : HostPkt) (stack channel : Nat)
  /-- CHANNEL_COPY_START (R362): The pool moves complete and the channel's data copy begins. -/
  | channelCopyStart
  /-- CHANNEL_COPY_DONE (R362): The copy commits, CAP_HBM updates and CHANNEL_RETIRED is posted. -/
  | channelCopyDone
  /-- IMG_ACTIVATE (R364): Activates a subsystem's image slot. -/
  | imgActivate (p : HostPkt) (subsystem : Nat) (slotB : Bool)
  /-- IMG_STATUS (R375): Returns the image slot registers. -/
  | imgStatus (p : HostPkt)
  /-- IMAGE_HEALTH_EXPIRY (R365): A subsystem not healthy 10 s after activation falls back to its previous slot. -/
  | imageHealthExpiry (subsystem : Nat)
  /-- BCAST_OPEN (R375): Opens a broadcast session after the manifest checks. -/
  | bcastOpen (p : HostPkt) (o : BcastOpen) (manifest : List Byte) (children peers : List Nat)
  /-- BCAST_SEND (R371): The root hashes and accepts its image, then sends it down the tree. -/
  | bcastSend (p : HostPkt) (session : Nat)
  /-- BCAST_STATUS (R375): Returns a session's registers. -/
  | bcastStatus (p : HostPkt) (session : Nat)
  /-- BCAST_CLOSE (R377): Returns a session to FREE at once. -/
  | bcastClose (p : HostPkt) (session : Nat)
  /-- BCAST_PACKET (R368): A node writes a broadcast packet, forwards it to its children and verifies full chunks. -/
  | bcastPacket (f : Frame)
  /-- BCAST_END (R369): A node forwards BCAST_END and requests repair of missing chunks. -/
  | bcastEnd (src session chunks : Nat)
  /-- REPAIR_REQ (R369): A node resends held chunks of the requested range and answers REPAIR_NAK for the rest. -/
  | repairReq (src session first count : Nat)
  /-- REPAIR_NAK (R369): A node turns to its peers for the chunks its parent lacks. -/
  | repairNak (src session first count : Nat)
  /-- STATUS_QUERY (R369): A node answers STATUS_REPLY with its held chunks and completeness. -/
  | statusQuery (src session : Nat)
  /-- STATUS_REPLY (R369): A node sends REPAIR_REQ to the first complete peer. -/
  | statusReply (src session held : Nat) (complete : Bool)
  /-- REPAIR_WAIT_EXPIRY (R369): REPAIR_WAIT_US passes without progress; the node repairs again, or fails the session
  after REPAIR_ROUNDS. -/
  | repairWaitExpiry (session : Nat)
  /-- IMAGE_HASH_DONE (R370): The image hash is compared with IMAGE_HASH, and the image is accepted or rejected. -/
  | imageHashDone (session : Nat)
  /-- IMAGE_SLOT_WRITE_DONE (R370): A firmware image is written to its inactive slot and IMAGE_COMPLETE is posted. -/
  | imageSlotWriteDone (session : Nat)
  /-- LIC_INSTALL (R373): Checks and stores a licence and recomputes the licensed state. -/
  | licInstall (p : HostPkt) (data : List Byte)
  /-- LIC_LIST (R375): Lists the stored licences. -/
  | licList (p : HostPkt)
  /-- LIC_REMOVE (R373): Deletes a licence by SERIAL. -/
  | licRemove (p : HostPkt) (serial : Nat)
  /-- LICENCE_TICK_RECORD (R374): Every 64 ticks, the licence elapsed count is recorded in the NVM die. -/
  | licenceTickRecord
  /-- LICENCE_LAPSE (R374): A licence reaches DURATION_TICKS and lapses, and the licensed state is recomputed. -/
  | licenceLapse (serial : Nat)
  /-- DEFECT_READ (R375): Returns defect list entries. -/
  | defectRead (p : HostPkt) (first count : Nat)
  /-- DEFECT_CLEAR (R358): Empties the defect list. -/
  | defectClear (p : HostPkt)
  /-- ATTEST (R384): Returns a signed attestation report carrying the host's nonce. -/
  | attest (p : HostPkt) (nonce : Nat)
  /-- CERT_READ (R402): Returns a stored certificate. -/
  | certRead (p : HostPkt) (index : Nat)
  /-- APPROVAL_OPEN (R393): Opens an approval set with a fresh nonce and deadline. -/
  | approvalOpen (p : HostPkt) (opcode digest : Nat)
  /-- APPROVE (R394): Records an approver's signature on a set. -/
  | approve (p : HostPkt) (slot set signature : Nat)
  /-- APPROVER_ENROL_ADD (R388): Enrols an approver key in an empty slot. -/
  | approverEnrolAdd (p : HostPkt) (slot modulus : Nat)
  /-- APPROVER_ENROL_REMOVE (R388): Removes an approver key from a slot. -/
  | approverEnrolRemove (p : HostPkt) (slot : Nat)
  /-- POLICY_SET (R402): Writes the key policy and the approval settings. -/
  | policySet (p : HostPkt) (value rekey : Nat)
  /-- HOST_SET (R392): Writes one host entry in one step. -/
  | hostSet (p : HostPkt) (entry a b c d : Nat)
  /-- DEBUG_UNLOCK (R397): Opens debug scopes for a duration, erasing the identity key for SCAN. -/
  | debugUnlock (p : HostPkt) (value : Nat)
  /-- DEBUG_RELOCK (R397): DEBUG with UNLOCK = 0 relocks the scopes at once. -/
  | debugRelock (p : HostPkt) (value : Nat)
  /-- DEBUG_DURATION_EXPIRY (R397): The unlock duration ends and the scopes relock. -/
  | debugDurationExpiry
  /-- APPROVAL_DEADLINE_EXPIRY (R396): A set reaches its deadline, is freed and APPROVAL_EXPIRED is posted. -/
  | approvalDeadlineExpiry (set : Nat)
  /-- INPUT_WARN_CROSS (R407): The 48 V input falls below 43.0 V; PWR_WARN is raised and the throttle is applied. -/
  | inputWarnCross (mv : Nat)
  /-- INPUT_RECOVERY_DONE (R408): The input has held at or above 44.0 V for 2 ms and the warning clears. -/
  | inputRecoveryDone
  /-- INPUT_UNDERVOLTAGE (R407): The input falls below 39.0 V and a supply reset follows. -/
  | inputUndervoltage
  /-- INPUT_OVERVOLTAGE (R407): The input rises above 57.0 V and a supply reset follows. -/
  | inputOvervoltage
  /-- AON_INPUT_LOSS (R405): The always-on input falls below 3.10 V and a supply reset follows. -/
  | aonInputLoss
  /-- RAIL_WARN_CROSS (R409): A rail falls below its warning level, raising PWR_WARN and posting RAIL_WARN. -/
  | railWarnCross (rail mv : Nat)
  /-- RAIL_CLEAR_DONE (R409): A rail has held above its clear level for 2 ms; RAIL_CLEAR is posted. -/
  | railClearDone (rail : Nat)
  /-- RAIL_RESET_CROSS (R410): A rail falls below its reset level, causing a compute-only or supply reset. -/
  | railResetCross (rail mv : Nat)
  /-- RAIL_HOLD_DONE (R410): VCORE or VSRAM has held above its clear level for 2 ms and the tiles leave reset. -/
  | railHoldDone
  /-- THERMAL_SAMPLE (R412): Every 10 µs the power die reads the sensors and applies the thermal thresholds. -/
  | thermalSample (temps : List Nat)
  /-- POWER_WINDOW_EXPIRY (R415): A power averaging window ends and the power-limit demand steps down or up. -/
  | powerWindowExpiry (watts : Nat)
  /-- PCR_POWER_LIMIT_WRITE (R423): A write to PCR_POWER_LIMIT is range-checked and starts a new window. -/
  | pcrPowerLimitWrite (value : Nat)
  /-- PCR_GATE_CFG_WRITE (R423): A write to PCR_GATE_CFG applies to later idle periods. -/
  | pcrGateCfgWrite (value : Nat)
  /-- REFCLK25_LOSS (R417): Loss of the 25 MHz reference switches AON to the internal oscillator and causes a supply
  reset. -/
  | refclk25Loss
  /-- REFCLK156_LOSS (R417): Loss of the 156.25 MHz reference posts CLOCK_FAULT and the ports go DOWN. -/
  | refclk156Loss
  /-- CORE_IDLE_EXPIRY (R418): A core idle for CORE_IDLE_US gates. -/
  | coreIdleExpiry (core : Nat)
  /-- TILE_IDLE_EXPIRY (R418): A tile whose cores have all been gated for TILE_IDLE_US gates. -/
  | tileIdleExpiry (tile : Nat)
  /-- CORE_WAKE_DONE (R418): A woken core or tile completes its wake and issues its first instruction. -/
  | coreWakeDone (core : Nat)
  /-- HBM_POWERDOWN_IDLE (R418): An HBM channel idle for 1 µs enters power-down. -/
  | hbmPowerdownIdle (stack channel : Nat)
  /-- JTAG_IDCODE (R421): The IDCODE test-access instruction. -/
  | jtagIdcode
  /-- JTAG_BYPASS (R421): The BYPASS test-access instruction. -/
  | jtagBypass
  /-- JTAG_SAMPLE_PRELOAD (R421): The SAMPLE/PRELOAD test-access instruction. -/
  | jtagSamplePreload
  /-- JTAG_EXTEST (R421): EXTEST, accepted only while RST_N is asserted. -/
  | jtagExtest (value : Nat)
  /-- PATROL_SCRUB_PASS (R431): A patrol scrub reads a channel below 0.1% of its bandwidth. -/
  | patrolScrubPass (stack channel : Nat) (errors : List MemErr)
  /-- CE_WINDOW_EXPIRY (R431): A correction-count window ends, and MEM_CHANNEL_DEGRADED is posted if the threshold
  was passed. -/
  | ceWindowExpiry (stack channel : Nat)
  /-- EVT_ECC_CFG_WRITE (R433): A write to EVT_ECC_CFG is range-checked and applies from the next pass and window. -/
  | evtEccCfgWrite (value : Nat)
  /-- REFCLK156_RESTORED (R417): The 156.25 MHz reference returns, its clock domains relock and the fabric and host
  ports retrain. -/
  | refclk156Restored
  /-- PORT_LOCK_LOSS (R237): A port's PHY loses signal or FEC lock on a link beyond TRAINING and the link goes DOWN.
  -/
  | portLockLoss (link : LinkId)
  /-- STANDALONE_OACK_EXPIRY (R250): No reverse ordered frame has carried OACK within 2 µs, so the destination sends
  a standalone OACK frame. -/
  | standaloneOackExpiry (src : Nat)
  /-- REKEY_DEADLINE (R401): A send counter reaches 2^48 − 2^20 while a key change is incomplete, and the link goes
  DOWN and retrains. -/
  | rekeyDeadline (link : LinkId)
  /-- RESUME_PROMPT_READ_DONE (R334): The RDMA read of a RESUME's host-memory tokens completes, and the new turn is
  appended or the RESUME fails. -/
  | resumePromptReadDone (ref : Nat) (status : St) (tokens : List Nat)
  /-- SHAPER_RELEASE (R342): A shaper's bucket refills enough to cover the next held packet, and the device sends it.
  -/
  | shaperRelease (k : Nat)
  /-- IMAGE_HEALTHY (R365): A subsystem activated at once reports healthy, and its new slot stays active. -/
  | imageHealthy (subsystem : Nat)
  /-- INPUT_RECOVERY_RESTART (R408): The 48 V input falls below 44.0 V but stays at or above 43.0 V during the
  recovery window, and the 2 ms window restarts. -/
  | inputRecoveryRestart (mv : Nat)
  /-- RAIL_CLEAR_RESTART (R409): A rail in warning dips below its clear level during its 2 ms clear window, and the
  window restarts. -/
  | railClearRestart (rail mv : Nat)
  /-- DEBUG_SCOPE_ACCESS (R421): A TRACE or SCAN scope instruction on the debug port acts while its scope is open, or
  as BYPASS while it is locked. -/
  | debugScopeAccess (scan : Bool)
  deriving DecidableEq, Repr

end Sys2Proof
end

