-- ==== Sys2Proof/Decode.lean ====
section
/-! DEFINITION. No row of the table of operations and events gives bits: a word spells no command. -/

namespace Sys2Proof

/-- The command a word spells by the table's bits: none, since no row gives bits. -/
def decodeTableWord (_nbits _w : Nat) : Option Instr := none

end Sys2Proof
end

