-- ==== Sys2Proof/Machine/Regs.lean ====
section
/-! DEFINITION. The control registers of the spec's register tables (Tables 1.11, 2.11, 3.6, 4.6, 5.15, 6.8, 7.8, 8.6,
9.16, 10.8, 11.6, 12.11, 12.12, 13.9, 14.8, 15.10, 16.6): one constant per field, and one row per register for
the control-space accesses of R7 to R11.  Each field carries its reset value; where a table gives a value per
variant, the value here is the NLP-7400's and `State.reset` / the reset operation write the NLP-7200's.  A field
whose reset column reads "restored", "provisioned", "silicon" or "firmware" carries 0 (log entry 3). -/

namespace Sys2Proof.Machine

/-- How software may access a field (R7, Table 0.4). -/
inductive Access where
  | ro | rw | w1c | w1s | rc
  deriving DecidableEq, Repr

/-- One field of a control register: the register's control address, the field's lowest bit, its width, and the
value it has at reset. -/
structure Fld where
  reg : Nat
  lo : Nat
  width : Nat
  rst : Nat
  deriving DecidableEq, Repr

/-- The key under which `State.regs` holds a field: the register's address and the field's lowest bit. -/
def Fld.key (f : Fld) : Nat := f.reg * 64 + f.lo

/-- One field of a row of the register tables. -/
structure FldRow where
  name : String
  lo : Nat
  width : Nat
  acc : Access
  rst : Nat
  deriving DecidableEq, Repr

/-- One row of the register tables: `n1 * n2` registers, the one numbered `i` standing at
`base + (i / n2) * s1 + (i % n2) * s2`. -/
structure RegRow where
  name : String
  base : Nat
  n1 : Nat
  s1 : Nat
  n2 : Nat
  s2 : Nat
  fields : List FldRow
  deriving DecidableEq, Repr

/-! ### Registers of Table 1.11 -/

/-- CAP_ID.FAMILY: Nolup 7. -/
def R.CAP_ID_FAMILY : Fld := ⟨0x0, 48, 16, 7⟩
/-- CAP_ID.PART: variant. -/
def R.CAP_ID_PART : Fld := ⟨0x0, 32, 16, 29696⟩
/-- CAP_ID.STEPPING: silicon stepping, from 0x01. -/
def R.CAP_ID_STEPPING : Fld := ⟨0x0, 24, 8, 1⟩
/-- CAP_ID.DESC_VERSION: layout version of this descriptor. -/
def R.CAP_ID_DESC_VERSION : Fld := ⟨0x0, 16, 8, 1⟩
/-- CAP_ID.DESC_LENGTH: descriptor length in bytes. -/
def R.CAP_ID_DESC_LENGTH : Fld := ⟨0x0, 0, 16, 64⟩

/-- CAP_NODE.NODE_VALID: 1 once the fabric manager has assigned a node number. -/
def R.CAP_NODE_NODE_VALID : Fld := ⟨0x8, 16, 1, 0⟩
/-- CAP_NODE.NODE_NUMBER: assigned node number; meaningful only while NODE_VALID = 1. -/
def R.CAP_NODE_NODE_NUMBER : Fld := ⟨0x8, 0, 16, 0⟩

/-- CAP_TILES.TILE_PRESENT: bit t = 1 if tile t is in service. -/
def R.CAP_TILES_TILE_PRESENT : Fld := ⟨0x10, 0, 32, 4294967295⟩

/-- CAP_COUNTS.LOGICAL_CORES: 4 × number of tiles in service. -/
def R.CAP_COUNTS_LOGICAL_CORES : Fld := ⟨0x18, 40, 8, 128⟩
/-- CAP_COUNTS.TILES: tiles in service. -/
def R.CAP_COUNTS_TILES : Fld := ⟨0x18, 32, 8, 32⟩
/-- CAP_COUNTS.HBM_STACKS: stacks with at least one channel in service. -/
def R.CAP_COUNTS_HBM_STACKS : Fld := ⟨0x18, 24, 8, 20⟩
/-- CAP_COUNTS.FABRIC_PORTS: fabric ports present. -/
def R.CAP_COUNTS_FABRIC_PORTS : Fld := ⟨0x18, 16, 8, 16⟩
/-- CAP_COUNTS.ROUTER_DIES: router dies present. -/
def R.CAP_COUNTS_ROUTER_DIES : Fld := ⟨0x18, 8, 8, 4⟩
/-- CAP_COUNTS.HOST_PORTS: host ports present. -/
def R.CAP_COUNTS_HOST_PORTS : Fld := ⟨0x18, 0, 8, 1⟩

/-- CAP_HBM.HBM_CHANNELS: channels in service. -/
def R.CAP_HBM_HBM_CHANNELS : Fld := ⟨0x20, 32, 12, 640⟩
/-- CAP_HBM.HBM_MIB: usable capacity in MiB, including the page-map region. -/
def R.CAP_HBM_HBM_MIB : Fld := ⟨0x20, 0, 32, 1966080⟩

/-- CAP_FEATURES.LINK_CRYPT: fabric link encryption licensed. -/
def R.CAP_FEATURES_LINK_CRYPT : Fld := ⟨0x28, 8, 1, 0⟩
/-- CAP_FEATURES.LEARN_MATH: optimizer ops and FP32 master-weight paths licensed. -/
def R.CAP_FEATURES_LEARN_MATH : Fld := ⟨0x28, 7, 1, 0⟩
/-- CAP_FEATURES.STIPPLE: delta unit licensed. -/
def R.CAP_FEATURES_STIPPLE : Fld := ⟨0x28, 6, 1, 0⟩
/-- CAP_FEATURES.MEZZOTINT: attention-at-rest engine licensed. -/
def R.CAP_FEATURES_MEZZOTINT : Fld := ⟨0x28, 5, 1, 0⟩
/-- CAP_FEATURES.ROLE_LEARN: LEARN role licensed. -/
def R.CAP_FEATURES_ROLE_LEARN : Fld := ⟨0x28, 4, 1, 0⟩
/-- CAP_FEATURES.ROLE_SCORE: SCORE role licensed. -/
def R.CAP_FEATURES_ROLE_SCORE : Fld := ⟨0x28, 3, 1, 0⟩
/-- CAP_FEATURES.ROLE_CACHE: CACHE role licensed. -/
def R.CAP_FEATURES_ROLE_CACHE : Fld := ⟨0x28, 2, 1, 0⟩
/-- CAP_FEATURES.ROLE_GENERATION: GENERATION role licensed. -/
def R.CAP_FEATURES_ROLE_GENERATION : Fld := ⟨0x28, 1, 1, 0⟩
/-- CAP_FEATURES.ROLE_PROMPT: PROMPT role licensed. -/
def R.CAP_FEATURES_ROLE_PROMPT : Fld := ⟨0x28, 0, 1, 0⟩

/-- CAP_LIMITS.DELTA_SETS_MAX: licensed resident delta sets, 0 to 4,096. -/
def R.CAP_LIMITS_DELTA_SETS_MAX : Fld := ⟨0x30, 32, 13, 0⟩
/-- CAP_LIMITS.DOMAIN_MAX: licensed fabric domain size in nodes, 0 to 65,536. -/
def R.CAP_LIMITS_DOMAIN_MAX : Fld := ⟨0x30, 0, 17, 0⟩

/-- CAP_CHANGE.CHANGE_COUNT: incremented once for each change to any other descriptor field after reset. -/
def R.CAP_CHANGE_CHANGE_COUNT : Fld := ⟨0x38, 0, 32, 0⟩

/-! ### Registers of Table 2.11 -/

/-- RSE_DEPUTY.VALID: a deputy is configured. -/
def R.RSE_DEPUTY_VALID : Fld := ⟨0x40000, 32, 1, 0⟩
/-- RSE_DEPUTY.BOUND: bind accepted and initial copy complete; clears on any write to this register. -/
def R.RSE_DEPUTY_BOUND : Fld := ⟨0x40000, 16, 1, 0⟩
/-- RSE_DEPUTY.NODE: deputy node number. -/
def R.RSE_DEPUTY_NODE : Fld := ⟨0x40000, 0, 16, 0⟩

/-- RSE_MIRROR_HOME.VALID: this node accepts a bind. -/
def R.RSE_MIRROR_HOME_VALID : Fld := ⟨0x40008, 32, 1, 0⟩
/-- RSE_MIRROR_HOME.HOME: the home this node mirrors. -/
def R.RSE_MIRROR_HOME_HOME : Fld := ⟨0x40008, 0, 16, 0⟩

/-- RSE_TIMEOUTS.PREPARE_US: MV_PREPARE sent to MV_PREPARED received, µs. -/
def R.RSE_TIMEOUTS_PREPARE_US : Fld := ⟨0x40010, 48, 16, 5000⟩
/-- RSE_TIMEOUTS.COMMIT_US: MV_COMMIT_REQ or MV_PREPARED sent to MV_COMMITTED received, and mirror write to MIRROR_ACK, µs. -/
def R.RSE_TIMEOUTS_COMMIT_US : Fld := ⟨0x40010, 32, 16, 2000⟩
/-- RSE_TIMEOUTS.PLACE_US: PLACE sent to PLACE_ACCEPT received, µs. -/
def R.RSE_TIMEOUTS_PLACE_US : Fld := ⟨0x40010, 16, 16, 1000⟩
/-- RSE_TIMEOUTS.QUERY_RETRY_US: interval between repeated OWN_QUERY, µs. -/
def R.RSE_TIMEOUTS_QUERY_RETRY_US : Fld := ⟨0x40010, 0, 16, 200⟩

/-- RSE_TTL.TTL_DEFAULT: default time to live, AON ticks. -/
def R.RSE_TTL_TTL_DEFAULT : Fld := ⟨0x40018, 32, 32, 3600⟩
/-- RSE_TTL.TTL_MAX: largest time to live accepted, AON ticks. -/
def R.RSE_TTL_TTL_MAX : Fld := ⟨0x40018, 0, 32, 1048576⟩

/-- RSE_LIMITS.RESTART_LIMIT: restarts allowed before FAILED. -/
def R.RSE_LIMITS_RESTART_LIMIT : Fld := ⟨0x40020, 48, 4, 3⟩
/-- RSE_LIMITS.TOMBSTONE_TICKS: tombstone hold, AON ticks. -/
def R.RSE_LIMITS_TOMBSTONE_TICKS : Fld := ⟨0x40020, 32, 16, 16⟩
/-- RSE_LIMITS.CLAIM_WINDOW: repair claim window, AON ticks. -/
def R.RSE_LIMITS_CLAIM_WINDOW : Fld := ⟨0x40020, 16, 16, 2⟩

/-- RSE_ADOPT.ADOPT: adopt the home named in RSE_MIRROR_HOME. -/
def R.RSE_ADOPT_ADOPT : Fld := ⟨0x40028, 63, 1, 0⟩
/-- RSE_ADOPT.ADOPTED: adoption complete. -/
def R.RSE_ADOPT_ADOPTED : Fld := ⟨0x40028, 62, 1, 0⟩
/-- RSE_ADOPT.FORMER_HOME: home adopted. -/
def R.RSE_ADOPT_FORMER_HOME : Fld := ⟨0x40028, 0, 16, 0⟩

/-- RSE_OCCUPANCY.MIRRORS: mirror slots in use. -/
def R.RSE_OCCUPANCY_MIRRORS : Fld := ⟨0x40030, 32, 21, 0⟩
/-- RSE_OCCUPANCY.RECORDS: directory slots in use, tombstones included. -/
def R.RSE_OCCUPANCY_RECORDS : Fld := ⟨0x40030, 0, 21, 0⟩

/-- RSE_MOVE_STATS.COMMITTED: moves and placements committed here as home. -/
def R.RSE_MOVE_STATS_COMMITTED : Fld := ⟨0x40038, 32, 32, 0⟩
/-- RSE_MOVE_STATS.ABORTED: moves aborted or refused. -/
def R.RSE_MOVE_STATS_ABORTED : Fld := ⟨0x40038, 0, 32, 0⟩

/-- RSE_RECOVERY_STATS.REPAIRS: OWNERSHIP_REPAIRED events. -/
def R.RSE_RECOVERY_STATS_REPAIRS : Fld := ⟨0x40040, 48, 16, 0⟩
/-- RSE_RECOVERY_STATS.FAILURES: records entering FAILED. -/
def R.RSE_RECOVERY_STATS_FAILURES : Fld := ⟨0x40040, 32, 16, 0⟩
/-- RSE_RECOVERY_STATS.RESTARTS: records entering RESTARTED. -/
def R.RSE_RECOVERY_STATS_RESTARTS : Fld := ⟨0x40040, 16, 16, 0⟩
/-- RSE_RECOVERY_STATS.RECOVERIES: records recovered under R62. -/
def R.RSE_RECOVERY_STATS_RECOVERIES : Fld := ⟨0x40040, 0, 16, 0⟩

/-! ### Registers of Table 3.6 -/

/-- PGE_CTRL.EVICTING: eviction under R95 in progress. -/
def R.PGE_CTRL_EVICTING : Fld := ⟨0x80000, 1, 1, 0⟩
/-- PGE_CTRL.ENABLE: page engine allocates; 0 refuses PLACE and MV_PREPARE with ST_DIRECTORY_FULL. -/
def R.PGE_CTRL_ENABLE : Fld := ⟨0x80000, 0, 1, 0⟩

/-- PGE_KV_POOL.BASE: first 64 KiB unit of the pool. -/
def R.PGE_KV_POOL_BASE : Fld := ⟨0x80008, 32, 32, 0⟩
/-- PGE_KV_POOL.LIMIT: first 64 KiB unit above the pool. -/
def R.PGE_KV_POOL_LIMIT : Fld := ⟨0x80008, 0, 32, 0⟩

/-- PGE_FREE_COUNT.FREE_UNITS: free 16 KiB units in the pool. -/
def R.PGE_FREE_COUNT_FREE_UNITS : Fld := ⟨0x80010, 32, 27, 0⟩
/-- PGE_FREE_COUNT.FREE_ENTRIES: free page-map entries. -/
def R.PGE_FREE_COUNT_FREE_ENTRIES : Fld := ⟨0x80010, 0, 26, 67108863⟩

/-- PGE_RESERVED.RES_UNITS: 16 KiB units reserved and not yet allocated. -/
def R.PGE_RESERVED_RES_UNITS : Fld := ⟨0x80018, 32, 27, 0⟩
/-- PGE_RESERVED.RES_ENTRIES: entries reserved and not yet allocated. -/
def R.PGE_RESERVED_RES_ENTRIES : Fld := ⟨0x80018, 0, 26, 0⟩

/-- PGE_WATERMARK.HIGH: available units at which eviction stops, in thousandths of the pool. -/
def R.PGE_WATERMARK_HIGH : Fld := ⟨0x80020, 32, 10, 100⟩
/-- PGE_WATERMARK.LOW: available units below which eviction starts, in thousandths of the pool. -/
def R.PGE_WATERMARK_LOW : Fld := ⟨0x80020, 0, 10, 50⟩

/-- PGE_EVICT.PAUSE_TIER: tier for pages at hand-back: 1 T1; 2 T2; a write of 0 or 3 is refused (R104). -/
def R.PGE_EVICT_PAUSE_TIER : Fld := ⟨0x80028, 62, 2, 1⟩
/-- PGE_EVICT.PARK_TIER: tier for pages at park: 1 T1; 2 T2; a write of 0 or 3 is refused (R104). -/
def R.PGE_EVICT_PARK_TIER : Fld := ⟨0x80028, 60, 2, 2⟩
/-- PGE_EVICT.T1_HOLD_TICKS: idle ticks before a holder demotes a FOREIGN page to T2. -/
def R.PGE_EVICT_T1_HOLD_TICKS : Fld := ⟨0x80028, 32, 16, 600⟩
/-- PGE_EVICT.PREFIX_HOLD_TICKS: idle ticks before an unreferenced PREFIX page is freed. -/
def R.PGE_EVICT_PREFIX_HOLD_TICKS : Fld := ⟨0x80028, 16, 16, 60⟩
/-- PGE_EVICT.OCHRE_MIN_TOKENS: committed length at which pages stay on, or move to, T1. -/
def R.PGE_EVICT_OCHRE_MIN_TOKENS : Fld := ⟨0x80028, 0, 16, 32768⟩

/-- PGE_TTL.LEASE_TICKS: FOREIGN page lease without renewal. -/
def R.PGE_TTL_LEASE_TICKS : Fld := ⟨0x80030, 32, 32, 64⟩
/-- PGE_TTL.GRACE_TICKS: added to remaining time to live at holders. -/
def R.PGE_TTL_GRACE_TICKS : Fld := ⟨0x80030, 0, 32, 16⟩

/-- PGE_MIGRATE.RATE_GBPS: migration bandwidth limit, GB/s. -/
def R.PGE_MIGRATE_RATE_GBPS : Fld := ⟨0x80038, 32, 16, 400⟩
/-- PGE_MIGRATE.MAX_INFLIGHT: pages in migration at once. -/
def R.PGE_MIGRATE_MAX_INFLIGHT : Fld := ⟨0x80038, 0, 16, 256⟩

/-- PGE_OCHRE_CTRL.COUNT: N, valid entries in PGE_OCHRE, 0 to 64; a write above 64 is refused (R104). -/
def R.PGE_OCHRE_CTRL_COUNT : Fld := ⟨0x80040, 0, 7, 0⟩

/-- PGE_ALLOC_STATS.ALLOCS: frames allocated. -/
def R.PGE_ALLOC_STATS_ALLOCS : Fld := ⟨0x80048, 32, 32, 0⟩
/-- PGE_ALLOC_STATS.REFUSALS: reservations refused. -/
def R.PGE_ALLOC_STATS_REFUSALS : Fld := ⟨0x80048, 0, 32, 0⟩

/-- PGE_MIGRATE_STATS.MIGRATED: pages migrated. -/
def R.PGE_MIGRATE_STATS_MIGRATED : Fld := ⟨0x80050, 32, 32, 0⟩
/-- PGE_MIGRATE_STATS.RETRIES: DATA_CRC retries. -/
def R.PGE_MIGRATE_STATS_RETRIES : Fld := ⟨0x80050, 16, 16, 0⟩
/-- PGE_MIGRATE_STATS.LOST: pages lost. -/
def R.PGE_MIGRATE_STATS_LOST : Fld := ⟨0x80050, 0, 16, 0⟩

/-- PGE_XLATE_STATS.HITS: translation-cache hits, all tiles. -/
def R.PGE_XLATE_STATS_HITS : Fld := ⟨0x80058, 32, 32, 0⟩
/-- PGE_XLATE_STATS.MISSES: translation-cache misses, all tiles. -/
def R.PGE_XLATE_STATS_MISSES : Fld := ⟨0x80058, 0, 32, 0⟩

/-- PGE_MODEL.MODEL_ID: model. -/
def R.PGE_MODEL_MODEL_ID (i : Nat) : Fld := ⟨0x81000 + 8 * i, 48, 16, 0⟩
/-- PGE_MODEL.VALID: descriptor in use. -/
def R.PGE_MODEL_VALID (i : Nat) : Fld := ⟨0x81000 + 8 * i, 47, 1, 0⟩
/-- PGE_MODEL.PAGE_SIZE: 0 64 KiB; 1 32 KiB; 2 16 KiB. -/
def R.PGE_MODEL_PAGE_SIZE (i : Nat) : Fld := ⟨0x81000 + 8 * i, 42, 2, 0⟩
/-- PGE_MODEL.ELEMENT: as in Table 3.4. -/
def R.PGE_MODEL_ELEMENT (i : Nat) : Fld := ⟨0x81000 + 8 * i, 40, 2, 0⟩
/-- PGE_MODEL.HEAD_DIM: head dimension. -/
def R.PGE_MODEL_HEAD_DIM (i : Nat) : Fld := ⟨0x81000 + 8 * i, 30, 10, 0⟩
/-- PGE_MODEL.KV_HEADS: KV heads. -/
def R.PGE_MODEL_KV_HEADS (i : Nat) : Fld := ⟨0x81000 + 8 * i, 22, 8, 0⟩
/-- PGE_MODEL.LAYERS: layers, 1 to 4,095. -/
def R.PGE_MODEL_LAYERS (i : Nat) : Fld := ⟨0x81000 + 8 * i, 10, 12, 0⟩

/-- PGE_OCHRE.NODE: cache node n of the Ochre set. -/
def R.PGE_OCHRE_NODE (i : Nat) : Fld := ⟨0x82000 + 8 * i, 0, 16, 0⟩

/-- PGE_UMBER_CTRL.DRAINED: no slot of the pool holds a page. -/
def R.PGE_UMBER_CTRL_DRAINED (i : Nat) : Fld := ⟨0x83000 + 32 * i, 33, 1, 1⟩
/-- PGE_UMBER_CTRL.VALID: pool in use by the page engine. -/
def R.PGE_UMBER_CTRL_VALID (i : Nat) : Fld := ⟨0x83000 + 32 * i, 32, 1, 0⟩
/-- PGE_UMBER_CTRL.QP: RoCEv2 queue pair on the host port. -/
def R.PGE_UMBER_CTRL_QP (i : Nat) : Fld := ⟨0x83000 + 32 * i, 0, 24, 0⟩

/-- PGE_UMBER_DATA.DATA_ADDR: remote virtual address of slot 0, 64 KiB aligned. -/
def R.PGE_UMBER_DATA_DATA_ADDR (i : Nat) : Fld := ⟨0x83008 + 32 * i, 0, 64, 0⟩

/-- PGE_UMBER_HDR.HDR_ADDR: remote virtual address of header 0, 64-byte aligned. -/
def R.PGE_UMBER_HDR_HDR_ADDR (i : Nat) : Fld := ⟨0x83010 + 32 * i, 0, 64, 0⟩

/-- PGE_UMBER_SIZE.SLOTS: slots in the pool. -/
def R.PGE_UMBER_SIZE_SLOTS (i : Nat) : Fld := ⟨0x83018 + 32 * i, 32, 32, 0⟩
/-- PGE_UMBER_SIZE.RKEY: RoCEv2 remote key. -/
def R.PGE_UMBER_SIZE_RKEY (i : Nat) : Fld := ⟨0x83018 + 32 * i, 0, 32, 0⟩

/-! ### Registers of Table 4.6 -/

/-- MZT_CTRL.CONTEXT: context in which served queries run. -/
def R.MZT_CTRL_CONTEXT : Fld := ⟨0xc0000, 16, 12, 4095⟩
/-- MZT_CTRL.BUSY: queries queued or running. -/
def R.MZT_CTRL_BUSY : Fld := ⟨0xc0000, 1, 1, 0⟩
/-- MZT_CTRL.SERVE: holder serves queries, subject to R105. -/
def R.MZT_CTRL_SERVE : Fld := ⟨0xc0000, 0, 1, 0⟩

/-- MZT_CORES_LO.CORES: bit c: logical core c runs served queries, c = 0 to 63. -/
def R.MZT_CORES_LO_CORES : Fld := ⟨0xc0008, 0, 64, 0⟩

/-- MZT_CORES_HI.CORES: bit c: logical core 64 + c runs served queries. -/
def R.MZT_CORES_HI_CORES : Fld := ⟨0xc0010, 0, 64, 0⟩

/-- MZT_SPREAD.SPAN_TOKENS: positions per span under R108; 0 is refused with ST_BAD_PARAM. -/
def R.MZT_SPREAD_SPAN_TOKENS : Fld := ⟨0xc0018, 0, 32, 32768⟩

/-- MZT_TIMEOUT.BUSY_LIMIT_US: first QUERY send of a step to the end of busy resends, µs. -/
def R.MZT_TIMEOUT_BUSY_LIMIT_US : Fld := ⟨0xc0020, 32, 32, 100000⟩
/-- MZT_TIMEOUT.PARTIAL_US: last QUERY send to PARTIAL received, µs. -/
def R.MZT_TIMEOUT_PARTIAL_US : Fld := ⟨0xc0020, 16, 16, 2000⟩
/-- MZT_TIMEOUT.BUSY_RETRY_US: ST_MZT_BUSY received to resend, µs. -/
def R.MZT_TIMEOUT_BUSY_RETRY_US : Fld := ⟨0xc0020, 0, 16, 20⟩

/-- MZT_LIMITS.QUEUE_DEPTH: queries a holder queues. -/
def R.MZT_LIMITS_QUEUE_DEPTH : Fld := ⟨0xc0028, 48, 16, 4096⟩
/-- MZT_LIMITS.MAX_OUTSTANDING: queries an owner keeps outstanding. -/
def R.MZT_LIMITS_MAX_OUTSTANDING : Fld := ⟨0xc0028, 32, 16, 16384⟩
/-- MZT_LIMITS.MAX_ROWS: rows per QUERY. -/
def R.MZT_LIMITS_MAX_ROWS : Fld := ⟨0xc0028, 23, 9, 256⟩
/-- MZT_LIMITS.MAX_QHEADS: query heads per QUERY. -/
def R.MZT_LIMITS_MAX_QHEADS : Fld := ⟨0xc0028, 14, 9, 256⟩
/-- MZT_LIMITS.MAX_HEAD_DIM: head dimension. -/
def R.MZT_LIMITS_MAX_HEAD_DIM : Fld := ⟨0xc0028, 5, 9, 256⟩

/-- MZT_QUEUE.LC_QUEUED: LC queries queued at this holder. -/
def R.MZT_QUEUE_LC_QUEUED : Fld := ⟨0xc0030, 32, 16, 0⟩
/-- MZT_QUEUE.BE_QUEUED: BE queries queued at this holder. -/
def R.MZT_QUEUE_BE_QUEUED : Fld := ⟨0xc0030, 16, 16, 0⟩
/-- MZT_QUEUE.OUTSTANDING: queries of this owner awaiting a PARTIAL. -/
def R.MZT_QUEUE_OUTSTANDING : Fld := ⟨0xc0030, 0, 16, 0⟩

/-- MZT_SERVE_STATS.SERVED: PARTIALs sent with ST_OK. -/
def R.MZT_SERVE_STATS_SERVED : Fld := ⟨0xc0038, 32, 32, 0⟩
/-- MZT_SERVE_STATS.REFUSED: PARTIALs sent with any other status. -/
def R.MZT_SERVE_STATS_REFUSED : Fld := ⟨0xc0038, 0, 32, 0⟩

/-- MZT_BYTES.KV_BYTES: KV bytes read by served queries. -/
def R.MZT_BYTES_KV_BYTES : Fld := ⟨0xc0040, 0, 64, 0⟩

/-- MZT_CLIENT_STATS.SENT: QUERYs sent, resends included. -/
def R.MZT_CLIENT_STATS_SENT : Fld := ⟨0xc0048, 32, 32, 0⟩
/-- MZT_CLIENT_STATS.BUSY_RETRIES: resends after ST_MZT_BUSY. -/
def R.MZT_CLIENT_STATS_BUSY_RETRIES : Fld := ⟨0xc0048, 16, 16, 0⟩
/-- MZT_CLIENT_STATS.FAILURES: step failures raised under R120. -/
def R.MZT_CLIENT_STATS_FAILURES : Fld := ⟨0xc0048, 0, 16, 0⟩

/-- MZT_ERR_STATS.CHECK_DROPS: messages dropped for a failed CHECK. -/
def R.MZT_ERR_STATS_CHECK_DROPS : Fld := ⟨0xc0050, 48, 16, 0⟩
/-- MZT_ERR_STATS.STALE: ST_EPOCH_STALE sent. -/
def R.MZT_ERR_STATS_STALE : Fld := ⟨0xc0050, 32, 16, 0⟩
/-- MZT_ERR_STATS.LATE_PARTIALS: PARTIALs and KV_ACKs dropped under R121. -/
def R.MZT_ERR_STATS_LATE_PARTIALS : Fld := ⟨0xc0050, 16, 16, 0⟩
/-- MZT_ERR_STATS.MISSING: ST_PAGE_MISSING sent. -/
def R.MZT_ERR_STATS_MISSING : Fld := ⟨0xc0050, 0, 16, 0⟩

/-! ### Registers of Table 5.15 -/

/-- CORE_STATUS.CONTEXT: context running on the core; 0xFFF none. -/
def R.CORE_STATUS_CONTEXT (i : Nat) : Fld := ⟨0x1000000 + 1048576 * (i / 4) + 4096 * (i % 4), 34, 12, 4095⟩
/-- CORE_STATUS.POWER: 0 gated; 1 waking; 2 awake, idle; 3 running. -/
def R.CORE_STATUS_POWER (i : Nat) : Fld := ⟨0x1000000 + 1048576 * (i / 4) + 4096 * (i % 4), 32, 2, 0⟩
/-- CORE_STATUS.PC: index of the next instruction to issue. -/
def R.CORE_STATUS_PC (i : Nat) : Fld := ⟨0x1000000 + 1048576 * (i / 4) + 4096 * (i % 4), 0, 32, 0⟩

/-- CORE_FAULT.STATUS: status of the last fault under R130. -/
def R.CORE_FAULT_STATUS (i : Nat) : Fld := ⟨0x1000008 + 1048576 * (i / 4) + 4096 * (i % 4), 48, 16, 0⟩
/-- CORE_FAULT.OPCODE: opcode of the faulting instruction. -/
def R.CORE_FAULT_OPCODE (i : Nat) : Fld := ⟨0x1000008 + 1048576 * (i / 4) + 4096 * (i % 4), 40, 8, 0⟩
/-- CORE_FAULT.PC: index of the faulting instruction. -/
def R.CORE_FAULT_PC (i : Nat) : Fld := ⟨0x1000008 + 1048576 * (i / 4) + 4096 * (i % 4), 0, 32, 0⟩

/-- CORE_ARITH_FLAGS.INT_SATURATED: INT32 accumulation or conversion saturated. -/
def R.CORE_ARITH_FLAGS_INT_SATURATED (i : Nat) : Fld := ⟨0x1000010 + 1048576 * (i / 4) + 4096 * (i % 4), 3, 1, 0⟩
/-- CORE_ARITH_FLAGS.SATURATED: finite floating-point value saturated under R138. -/
def R.CORE_ARITH_FLAGS_SATURATED (i : Nat) : Fld := ⟨0x1000010 + 1048576 * (i / 4) + 4096 * (i % 4), 2, 1, 0⟩
/-- CORE_ARITH_FLAGS.INF_MADE: overflow to infinity. -/
def R.CORE_ARITH_FLAGS_INF_MADE (i : Nat) : Fld := ⟨0x1000010 + 1048576 * (i / 4) + 4096 * (i % 4), 1, 1, 0⟩
/-- CORE_ARITH_FLAGS.NAN_MADE: NaN produced from non-NaN inputs. -/
def R.CORE_ARITH_FLAGS_NAN_MADE (i : Nat) : Fld := ⟨0x1000010 + 1048576 * (i / 4) + 4096 * (i % 4), 0, 1, 0⟩

/-- CORE_PHYS.PHYS: physical core, 0 to 4, now serving this logical core. -/
def R.CORE_PHYS_PHYS (i : Nat) : Fld := ⟨0x1000018 + 1048576 * (i / 4) + 4096 * (i % 4), 0, 3, i % 4⟩

/-- CORE_MATRIX_BUSY.CLOCKS: clocks in which the array streamed at least one row. -/
def R.CORE_MATRIX_BUSY_CLOCKS (i : Nat) : Fld := ⟨0x1000020 + 1048576 * (i / 4) + 4096 * (i % 4), 0, 64, 0⟩

/-- CORE_MATRIX_TILES.TILE_OPS: matrix tile-ops completed. -/
def R.CORE_MATRIX_TILES_TILE_OPS (i : Nat) : Fld := ⟨0x1000028 + 1048576 * (i / 4) + 4096 * (i % 4), 0, 64, 0⟩

/-- CORE_ROWS.ROWS: rows streamed through the array; ROWS ÷ (64 × TILE_OPS) estimates the fraction of peak. -/
def R.CORE_ROWS_ROWS (i : Nat) : Fld := ⟨0x1000030 + 1048576 * (i / 4) + 4096 * (i % 4), 0, 64, 0⟩

/-- CORE_SQUASH.SQUASHED: instructions squashed under R128. -/
def R.CORE_SQUASH_SQUASHED (i : Nat) : Fld := ⟨0x1000038 + 1048576 * (i / 4) + 4096 * (i % 4), 0, 32, 0⟩

/-! ### Registers of Table 6.8 -/

/-- EXP_CMD.OP: command of Table 6.5; a write with OP ≠ 0 starts it. -/
def R.EXP_CMD_OP : Fld := ⟨0x140000, 60, 4, 0⟩
/-- EXP_CMD.CONTEXT: context for BIND_TABLE and BIND_DSET. -/
def R.EXP_CMD_CONTEXT : Fld := ⟨0x140000, 36, 12, 0⟩
/-- EXP_CMD.ID: table ID or delta slot. -/
def R.EXP_CMD_ID : Fld := ⟨0x140000, 24, 12, 0⟩

/-- EXP_CMD_ADDR.OFFSET: space-0 offset of the table image or delta set, 64-byte aligned. -/
def R.EXP_CMD_ADDR_OFFSET : Fld := ⟨0x140008, 0, 46, 0⟩

/-- EXP_CMD_STATUS.BUSY: a command is running. -/
def R.EXP_CMD_STATUS_BUSY : Fld := ⟨0x140010, 32, 1, 0⟩
/-- EXP_CMD_STATUS.STATUS: status of the last completed command. -/
def R.EXP_CMD_STATUS_STATUS : Fld := ⟨0x140010, 0, 16, 0⟩

/-- EXP_TABLE_COUNT.DROPPING: IDs in the dropping state. -/
def R.EXP_TABLE_COUNT_DROPPING : Fld := ⟨0x140018, 32, 13, 0⟩
/-- EXP_TABLE_COUNT.LOADED: IDs loaded, ID 0 included. -/
def R.EXP_TABLE_COUNT_LOADED : Fld := ⟨0x140018, 0, 13, 1⟩

/-- EXP_DSET_COUNT.DROPPING: slots in the dropping state. -/
def R.EXP_DSET_COUNT_DROPPING : Fld := ⟨0x140020, 32, 13, 0⟩
/-- EXP_DSET_COUNT.LOADED: slots loaded or dropping; counted against DELTA_SETS_MAX. -/
def R.EXP_DSET_COUNT_LOADED : Fld := ⟨0x140020, 0, 13, 0⟩

/-- EXP_FAULT_STATS.LENGTH: ST_EXPAND_LENGTH faults. -/
def R.EXP_FAULT_STATS_LENGTH : Fld := ⟨0x140028, 48, 16, 0⟩
/-- EXP_FAULT_STATS.CHECK: ST_EXPAND_CHECK faults. -/
def R.EXP_FAULT_STATS_CHECK : Fld := ⟨0x140028, 32, 16, 0⟩
/-- EXP_FAULT_STATS.CODE: ST_EXPAND_CODE faults. -/
def R.EXP_FAULT_STATS_CODE : Fld := ⟨0x140028, 16, 16, 0⟩
/-- EXP_FAULT_STATS.OTHER: other faults of Table 6.4 and R175. -/
def R.EXP_FAULT_STATS_OTHER : Fld := ⟨0x140028, 0, 16, 0⟩

/-- EXP_DELTA_STATS.APPLIED: delta entries applied, all cores. -/
def R.EXP_DELTA_STATS_APPLIED : Fld := ⟨0x140030, 32, 32, 0⟩
/-- EXP_DELTA_STATS.INEXACT: entries rounded or saturated under R174. -/
def R.EXP_DELTA_STATS_INEXACT : Fld := ⟨0x140030, 0, 32, 0⟩

/-- EXP_LAST_FAULT.STATUS: status of the last fault under R163. -/
def R.EXP_LAST_FAULT_STATUS : Fld := ⟨0x140038, 48, 16, 0⟩
/-- EXP_LAST_FAULT.TABLE_ID: TABLE_ID of the block. -/
def R.EXP_LAST_FAULT_TABLE_ID : Fld := ⟨0x140038, 36, 12, 0⟩
/-- EXP_LAST_FAULT.LOGICAL_CORE: core whose expander faulted. -/
def R.EXP_LAST_FAULT_LOGICAL_CORE : Fld := ⟨0x140038, 29, 7, 0⟩
/-- EXP_LAST_FAULT.BLOCK_ADDR: operand-buffer byte offset of the block. -/
def R.EXP_LAST_FAULT_BLOCK_ADDR : Fld := ⟨0x140038, 0, 22, 0⟩

/-- EXP_INTAKE_STATS.STALL_CLOCKS: tile-load clocks above 64, all cores. -/
def R.EXP_INTAKE_STATS_STALL_CLOCKS : Fld := ⟨0x140040, 32, 32, 0⟩
/-- EXP_INTAKE_STATS.BLOCKS: blocks decoded, all cores. -/
def R.EXP_INTAKE_STATS_BLOCKS : Fld := ⟨0x140040, 0, 32, 0⟩

/-- EXP_LAST_FAULT_KEY.TILE_KEY: TILE_KEY of the block of the last fault under R163. -/
def R.EXP_LAST_FAULT_KEY_TILE_KEY : Fld := ⟨0x140048, 0, 32, 0⟩

/-- EXP_TABLE.STATE: 0 empty; 1 loaded; 2 dropping. -/
def R.EXP_TABLE_STATE (i : Nat) : Fld := ⟨0x141000 + 8 * i, 62, 2, if i = 0 then 1 else 0⟩
/-- EXP_TABLE.ELEMENT: table's element format; 0 for ID 0. -/
def R.EXP_TABLE_ELEMENT (i : Nat) : Fld := ⟨0x141000 + 8 * i, 56, 4, 0⟩
/-- EXP_TABLE.BINDS: contexts binding the ID. -/
def R.EXP_TABLE_BINDS (i : Nat) : Fld := ⟨0x141000 + 8 * i, 16, 13, 0⟩
/-- EXP_TABLE.RESIDENT: expanders holding a copy. -/
def R.EXP_TABLE_RESIDENT (i : Nat) : Fld := ⟨0x141000 + 8 * i, 0, 8, 0⟩

/-- EXP_DSET_A.STATE: 0 empty; 1 loaded; 2 dropping; slot 0 reads 0. -/
def R.EXP_DSET_A_STATE (i : Nat) : Fld := ⟨0x149000 + 16 * i, 62, 2, 0⟩
/-- EXP_DSET_A.BINDS: contexts binding the slot. -/
def R.EXP_DSET_A_BINDS (i : Nat) : Fld := ⟨0x149000 + 16 * i, 45, 13, 0⟩
/-- EXP_DSET_A.MODEL_ID: from the set header. -/
def R.EXP_DSET_A_MODEL_ID (i : Nat) : Fld := ⟨0x149000 + 16 * i, 16, 16, 0⟩
/-- EXP_DSET_A.VARIANT_ID: from the set header. -/
def R.EXP_DSET_A_VARIANT_ID (i : Nat) : Fld := ⟨0x149000 + 16 * i, 0, 16, 0⟩

/-- EXP_DSET_B.BASE: space-0 offset of the set. -/
def R.EXP_DSET_B_BASE (i : Nat) : Fld := ⟨0x149008 + 16 * i, 0, 46, 0⟩

/-! ### Registers of Table 7.8 -/

/-- SCH_CTRL.PREFILL_COST: cost per prefill token, 8.8 fixed point. -/
def R.SCH_CTRL_PREFILL_COST : Fld := ⟨0x100000, 48, 16, 256⟩
/-- SCH_CTRL.MODE: 0 NORMAL; 1 STARTUP; 2 TEST; 3 RECOVERY. -/
def R.SCH_CTRL_MODE : Fld := ⟨0x100000, 32, 2, 0⟩
/-- SCH_CTRL.PREFILL_HELD: placement of prefill held under R198. -/
def R.SCH_CTRL_PREFILL_HELD : Fld := ⟨0x100000, 1, 1, 0⟩
/-- SCH_CTRL.ENABLE: Burin places and dispatches; 0 holds both. -/
def R.SCH_CTRL_ENABLE : Fld := ⟨0x100000, 0, 1, 0⟩

/-- SCH_PLACE.PLACE_INFLIGHT: placements outstanding per home. -/
def R.SCH_PLACE_PLACE_INFLIGHT : Fld := ⟨0x100008, 48, 16, 256⟩
/-- SCH_PLACE.REFUSE_HOLD_US: hold after a refusal, µs. -/
def R.SCH_PLACE_REFUSE_HOLD_US : Fld := ⟨0x100008, 0, 32, 10000⟩

/-- SCH_BACKUP.FACTOR: backup threshold in eighths of the median. -/
def R.SCH_BACKUP_FACTOR : Fld := ⟨0x100010, 32, 8, 12⟩
/-- SCH_BACKUP.MIN_US: least run time before a backup, µs. -/
def R.SCH_BACKUP_MIN_US : Fld := ⟨0x100010, 0, 32, 1000⟩

/-- SCH_CTX_CMD.OP: 1 OPEN; 2 START; 3 CLOSE; 4 ABORT; others Rsvd, refused with ST_BAD_PARAM. -/
def R.SCH_CTX_CMD_OP : Fld := ⟨0x100018, 60, 4, 0⟩
/-- SCH_CTX_CMD.CONTEXT: context, 0 to 0xFFE. -/
def R.SCH_CTX_CMD_CONTEXT : Fld := ⟨0x100018, 0, 12, 0⟩

/-- SCH_CTX_ADDR.OFFSET: space-0 offset of the descriptor. -/
def R.SCH_CTX_ADDR_OFFSET : Fld := ⟨0x100020, 0, 46, 0⟩

/-- SCH_CTX_STATUS.BUSY: a context command is running. -/
def R.SCH_CTX_STATUS_BUSY : Fld := ⟨0x100028, 32, 1, 0⟩
/-- SCH_CTX_STATUS.STATUS: status of the last completed command. -/
def R.SCH_CTX_STATUS_STATUS : Fld := ⟨0x100028, 0, 16, 0⟩

/-- SCH_ACTIVE.ACTIVE_REQUESTS: active-step entries in use. -/
def R.SCH_ACTIVE_ACTIVE_REQUESTS : Fld := ⟨0x100030, 32, 15, 0⟩
/-- SCH_ACTIVE.OPEN_CONTEXTS: contexts not in FREE. -/
def R.SCH_ACTIVE_OPEN_CONTEXTS : Fld := ⟨0x100030, 0, 13, 0⟩

/-- SCH_BATCH_STATS.BATCHES: batches dispatched. -/
def R.SCH_BATCH_STATS_BATCHES : Fld := ⟨0x100038, 32, 32, 0⟩
/-- SCH_BATCH_STATS.BELOW_MIN: batches dispatched below ROW_MIN. -/
def R.SCH_BATCH_STATS_BELOW_MIN : Fld := ⟨0x100038, 0, 32, 0⟩

/-- SCH_ROWS.ROWS: rows dispatched in batches. -/
def R.SCH_ROWS_ROWS : Fld := ⟨0x100040, 0, 64, 0⟩

/-- SCH_PLACE_STATS.PLACED: placements committed by this home. -/
def R.SCH_PLACE_STATS_PLACED : Fld := ⟨0x100048, 32, 32, 0⟩
/-- SCH_PLACE_STATS.REFUSED: PLACE and MV_PREPARE refusals received. -/
def R.SCH_PLACE_STATS_REFUSED : Fld := ⟨0x100048, 0, 32, 0⟩

/-- SCH_BACKUP_STATS.STARTED: backup copies started. -/
def R.SCH_BACKUP_STATS_STARTED : Fld := ⟨0x100050, 32, 32, 0⟩
/-- SCH_BACKUP_STATS.WON: shards won by the backup copy. -/
def R.SCH_BACKUP_STATS_WON : Fld := ⟨0x100050, 0, 32, 0⟩

/-- SCH_CTX.STATE: 0 FREE; 1 LOADING; 2 OPEN; 3 RUNNING; 4 DRAINING; 5 CLOSING. -/
def R.SCH_CTX_STATE (i : Nat) : Fld := ⟨0x101000 + 8 * i, 61, 3, 0⟩
/-- SCH_CTX.KIND: from the descriptor. -/
def R.SCH_CTX_KIND (i : Nat) : Fld := ⟨0x101000 + 8 * i, 59, 2, 0⟩
/-- SCH_CTX.COMP: from the descriptor. -/
def R.SCH_CTX_COMP (i : Nat) : Fld := ⟨0x101000 + 8 * i, 54, 5, 0⟩
/-- SCH_CTX.REQUESTS: requests of the context the node owns. -/
def R.SCH_CTX_REQUESTS (i : Nat) : Fld := ⟨0x101000 + 8 * i, 0, 21, 0⟩

/-- SCH_QUEUE_A.VALID: queue in use. -/
def R.SCH_QUEUE_A_VALID (i : Nat) : Fld := ⟨0x109000 + 16 * i, 63, 1, 0⟩
/-- SCH_QUEUE_A.CLASS: 0 BE; 1 LC. -/
def R.SCH_QUEUE_A_CLASS (i : Nat) : Fld := ⟨0x109000 + 16 * i, 62, 1, 0⟩
/-- SCH_QUEUE_A.TENANT: owning tenant. -/
def R.SCH_QUEUE_A_TENANT (i : Nat) : Fld := ⟨0x109000 + 16 * i, 32, 16, 0⟩
/-- SCH_QUEUE_A.QUANTUM: tokens added per fresh visit; 0 holds the queue. -/
def R.SCH_QUEUE_A_QUANTUM (i : Nat) : Fld := ⟨0x109000 + 16 * i, 0, 32, 0⟩

/-- SCH_QUEUE_B.STEP_DEFICIT: deficit at this node as owner. -/
def R.SCH_QUEUE_B_STEP_DEFICIT (i : Nat) : Fld := ⟨0x109008 + 16 * i, 32, 32, 0⟩
/-- SCH_QUEUE_B.PLACE_DEFICIT: deficit at this node as home. -/
def R.SCH_QUEUE_B_PLACE_DEFICIT (i : Nat) : Fld := ⟨0x109008 + 16 * i, 0, 32, 0⟩

/-- SCH_COMP_A.VALID: composition in use. -/
def R.SCH_COMP_A_VALID (i : Nat) : Fld := ⟨0x119000 + 32 * i, 63, 1, if i = 0 then 1 else 0⟩
/-- SCH_COMP_A.TENANT: party charged. -/
def R.SCH_COMP_A_TENANT (i : Nat) : Fld := ⟨0x119000 + 32 * i, 32, 16, 0⟩
/-- SCH_COMP_A.CORE_UNITS: bit t: the four logical cores of tile t. -/
def R.SCH_COMP_A_CORE_UNITS (i : Nat) : Fld := ⟨0x119000 + 32 * i, 0, 32, if i = 0 then 0xFFFFFFFF else 0⟩

/-- SCH_COMP_B.PORTS: bit p: fabric port p. -/
def R.SCH_COMP_B_PORTS (i : Nat) : Fld := ⟨0x119008 + 32 * i, 32, 16, if i = 0 then 0xFFFF else 0⟩
/-- SCH_COMP_B.HBM_UNITS: units of 8 HBM channels. -/
def R.SCH_COMP_B_HBM_UNITS (i : Nat) : Fld := ⟨0x119008 + 32 * i, 0, 7, if i = 0 then 80 else 0⟩

/-- SCH_COMP_METER.TICKS: AON ticks while VALID, since the last read. -/
def R.SCH_COMP_METER_TICKS (i : Nat) : Fld := ⟨0x119010 + 32 * i, 0, 64, 0⟩

/-- SCH_COMP_TOTAL.TOTAL: AON ticks since VALID was last set. -/
def R.SCH_COMP_TOTAL_TOTAL (i : Nat) : Fld := ⟨0x119018 + 32 * i, 0, 64, 0⟩

/-! ### Registers of Table 8.6 -/

/-- PHS_CTRL.ADMITTING: ADMIT = 1, phase GENERATION and no turn in progress. -/
def R.PHS_CTRL_ADMITTING : Fld := ⟨0x400000, 1, 1, 0⟩
/-- PHS_CTRL.ADMIT: host permits admission. -/
def R.PHS_CTRL_ADMIT : Fld := ⟨0x400000, 0, 1, 0⟩

/-- PHS_PHASE.STATE: 0 STEADY; 1 CLOSING; 2 PARKING; 3 QUIESCE; 4 CHECK; 5 SWITCH. -/
def R.PHS_PHASE_STATE : Fld := ⟨0x400008, 32, 8, 0⟩
/-- PHS_PHASE.ROLE: 1 PROMPT; 2 GENERATION; 3 CACHE; 4 SCORE; 5 LEARN. -/
def R.PHS_PHASE_ROLE : Fld := ⟨0x400008, 16, 3, 0⟩
/-- PHS_PHASE.PHASE: Table 8.1. -/
def R.PHS_PHASE_PHASE : Fld := ⟨0x400008, 0, 2, 0⟩

/-- PHS_TURN.GO: start a turn under R211; reads 1 until SWITCH completes. -/
def R.PHS_TURN_GO : Fld := ⟨0x400010, 63, 1, 0⟩
/-- PHS_TURN.TARGET_PHASE: Table 8.1. -/
def R.PHS_TURN_TARGET_PHASE : Fld := ⟨0x400010, 61, 2, 0⟩
/-- PHS_TURN.TARGET_ROLE: as ROLE. -/
def R.PHS_TURN_TARGET_ROLE : Fld := ⟨0x400010, 58, 3, 0⟩
/-- PHS_TURN.DISPOSE: 0 park; 1 move, then park (R213). -/
def R.PHS_TURN_DISPOSE : Fld := ⟨0x400010, 57, 1, 0⟩
/-- PHS_TURN.TARGET_VERSION: policy version after SWITCH. -/
def R.PHS_TURN_TARGET_VERSION : Fld := ⟨0x400010, 0, 32, 0⟩

/-- PHS_TURN_CFG.FINISH_US: acceptance to PARKING, µs. -/
def R.PHS_TURN_CFG_FINISH_US : Fld := ⟨0x400018, 32, 32, 0⟩
/-- PHS_TURN_CFG.DRAIN_LIMIT_MS: acceptance to forced abort (R214), ms. -/
def R.PHS_TURN_CFG_DRAIN_LIMIT_MS : Fld := ⟨0x400018, 16, 16, 60000⟩
/-- PHS_TURN_CFG.HOLDER_QUIET_US: quiet time before a CACHE node switches, µs. -/
def R.PHS_TURN_CFG_HOLDER_QUIET_US : Fld := ⟨0x400018, 0, 16, 10000⟩

/-- PHS_POLICY.CURRENT: node's policy version. -/
def R.PHS_POLICY_CURRENT : Fld := ⟨0x400020, 32, 32, 0⟩
/-- PHS_POLICY.STAGED: version of the weights staged by the host. -/
def R.PHS_POLICY_STAGED : Fld := ⟨0x400020, 0, 32, 0⟩

/-- PHS_FLOOR.FLOOR: lowest version any serving node runs (R223). -/
def R.PHS_FLOOR_FLOOR : Fld := ⟨0x400028, 0, 32, 0⟩

/-- PHS_VERSIONS.FW_GENERATION: firmware generation. -/
def R.PHS_VERSIONS_FW_GENERATION : Fld := ⟨0x400030, 48, 16, 0⟩
/-- PHS_VERSIONS.RSR_FORMAT: highest RSR format. -/
def R.PHS_VERSIONS_RSR_FORMAT : Fld := ⟨0x400030, 40, 8, 1⟩
/-- PHS_VERSIONS.RSR_FORMAT_MIN: lowest RSR format read. -/
def R.PHS_VERSIONS_RSR_FORMAT_MIN : Fld := ⟨0x400030, 32, 8, 1⟩
/-- PHS_VERSIONS.PRAYR_MAX: highest Prayr version. -/
def R.PHS_VERSIONS_PRAYR_MAX : Fld := ⟨0x400030, 24, 8, 1⟩
/-- PHS_VERSIONS.PRAYR_MIN: lowest Prayr version. -/
def R.PHS_VERSIONS_PRAYR_MIN : Fld := ⟨0x400030, 16, 8, 1⟩
/-- PHS_VERSIONS.LINK_PROTO: highest fabric link protocol. -/
def R.PHS_VERSIONS_LINK_PROTO : Fld := ⟨0x400030, 8, 8, 1⟩
/-- PHS_VERSIONS.MZT_FORMAT: highest Mezzotint FORMAT. -/
def R.PHS_VERSIONS_MZT_FORMAT : Fld := ⟨0x400030, 0, 8, 1⟩

/-- PHS_TURN_STATS.TURNS: turns completed. -/
def R.PHS_TURN_STATS_TURNS : Fld := ⟨0x400038, 48, 16, 0⟩
/-- PHS_TURN_STATS.FORCED: turns forced under R214. -/
def R.PHS_TURN_STATS_FORCED : Fld := ⟨0x400038, 32, 16, 0⟩
/-- PHS_TURN_STATS.PARKED: requests parked by turns. -/
def R.PHS_TURN_STATS_PARKED : Fld := ⟨0x400038, 0, 32, 0⟩

/-- PHS_REBASE_STATS.REBASED: records rebased under R223. -/
def R.PHS_REBASE_STATS_REBASED : Fld := ⟨0x400040, 32, 32, 0⟩
/-- PHS_REBASE_STATS.VERSION_REFUSED: PLACE and MV_PREPARE refused under R222. -/
def R.PHS_REBASE_STATS_VERSION_REFUSED : Fld := ⟨0x400040, 0, 32, 0⟩

/-- PHS_LAST_TURN.DURATION_US: acceptance to SWITCH of the last turn, µs, saturating. -/
def R.PHS_LAST_TURN_DURATION_US : Fld := ⟨0x400048, 32, 32, 0⟩
/-- PHS_LAST_TURN.STATUS: ST_OK, or ST_TURN_FORCED after R214. -/
def R.PHS_LAST_TURN_STATUS : Fld := ⟨0x400048, 0, 16, 0⟩

/-! ### Registers of Table 9.16 -/

/-- FAB_PORT_CFG.CRYPT: 0 off; 1 offered; 2 required (R269). -/
def R.FAB_PORT_CFG_CRYPT (i : Nat) : Fld := ⟨0x200000 + 65536 * (i / 4) + 64 * (i % 4), 6, 2, 0⟩
/-- FAB_PORT_CFG.AUTO_DEGRADE: R233. -/
def R.FAB_PORT_CFG_AUTO_DEGRADE (i : Nat) : Fld := ⟨0x200000 + 65536 * (i / 4) + 64 * (i % 4), 5, 1, 1⟩
/-- FAB_PORT_CFG.LANES4: 1: train at 800 Gbit/s on 4 lanes. -/
def R.FAB_PORT_CFG_LANES4 (i : Nat) : Fld := ⟨0x200000 + 65536 * (i / 4) + 64 * (i % 4), 4, 1, 0⟩
/-- FAB_PORT_CFG.DRAIN: take the port's links to DRAINING. -/
def R.FAB_PORT_CFG_DRAIN (i : Nat) : Fld := ⟨0x200000 + 65536 * (i / 4) + 64 * (i % 4), 3, 1, 0⟩
/-- FAB_PORT_CFG.MODE: Table 9.1. -/
def R.FAB_PORT_CFG_MODE (i : Nat) : Fld := ⟨0x200000 + 65536 * (i / 4) + 64 * (i % 4), 0, 2, 2⟩

/-- FAB_PORT_STATUS.LANES_UP: bit i: lane i in use. -/
def R.FAB_PORT_STATUS_LANES_UP (i : Nat) : Fld := ⟨0x200008 + 65536 * (i / 4) + 64 * (i % 4), 8, 8, 0⟩
/-- FAB_PORT_STATUS.ENCRYPTING: direct link encrypted. -/
def R.FAB_PORT_STATUS_ENCRYPTING (i : Nat) : Fld := ⟨0x200008 + 65536 * (i / 4) + 64 * (i % 4), 7, 1, 0⟩
/-- FAB_PORT_STATUS.PROTO: link protocol in use. -/
def R.FAB_PORT_STATUS_PROTO (i : Nat) : Fld := ⟨0x200008 + 65536 * (i / 4) + 64 * (i % 4), 4, 3, 0⟩
/-- FAB_PORT_STATUS.STATE: 0 DISABLED; 1 TRAINING; 2 HANDSHAKE; 3 UP; 4 DRAINING; 5 DOWN; 6 FAILED. -/
def R.FAB_PORT_STATUS_STATE (i : Nat) : Fld := ⟨0x200008 + 65536 * (i / 4) + 64 * (i % 4), 0, 4, 0⟩

/-- FAB_PORT_NBR_A.IDENTITY_TAG: peer's IDENTITY_TAG (direct ports). -/
def R.FAB_PORT_NBR_A_IDENTITY_TAG (i : Nat) : Fld := ⟨0x200010 + 65536 * (i / 4) + 64 * (i % 4), 0, 64, 0⟩

/-- FAB_PORT_NBR_B.FW_GENERATION: peer's. -/
def R.FAB_PORT_NBR_B_FW_GENERATION (i : Nat) : Fld := ⟨0x200018 + 65536 * (i / 4) + 64 * (i % 4), 48, 16, 0⟩
/-- FAB_PORT_NBR_B.NODE_VALID: peer's. -/
def R.FAB_PORT_NBR_B_NODE_VALID (i : Nat) : Fld := ⟨0x200018 + 65536 * (i / 4) + 64 * (i % 4), 32, 1, 0⟩
/-- FAB_PORT_NBR_B.PORT: peer's port. -/
def R.FAB_PORT_NBR_B_PORT (i : Nat) : Fld := ⟨0x200018 + 65536 * (i / 4) + 64 * (i % 4), 16, 16, 0⟩
/-- FAB_PORT_NBR_B.NODE: peer's NODE_NUMBER. -/
def R.FAB_PORT_NBR_B_NODE (i : Nat) : Fld := ⟨0x200018 + 65536 * (i / 4) + 64 * (i % 4), 0, 16, 0⟩

/-- FAB_PORT_ERR.FEC_CORRECTED: codewords corrected. -/
def R.FAB_PORT_ERR_FEC_CORRECTED (i : Nat) : Fld := ⟨0x200020 + 65536 * (i / 4) + 64 * (i % 4), 32, 32, 0⟩
/-- FAB_PORT_ERR.REPLAYS: frames replayed. -/
def R.FAB_PORT_ERR_REPLAYS (i : Nat) : Fld := ⟨0x200020 + 65536 * (i / 4) + 64 * (i % 4), 16, 16, 0⟩
/-- FAB_PORT_ERR.UNCORRECTED: frames dropped for FCS. -/
def R.FAB_PORT_ERR_UNCORRECTED (i : Nat) : Fld := ⟨0x200020 + 65536 * (i / 4) + 64 * (i % 4), 8, 8, 0⟩
/-- FAB_PORT_ERR.AUTH: frames failing the GCM tag. -/
def R.FAB_PORT_ERR_AUTH (i : Nat) : Fld := ⟨0x200020 + 65536 * (i / 4) + 64 * (i % 4), 0, 8, 0⟩

/-- FAB_PORT_TX.BYTES: bytes sent, all classes. -/
def R.FAB_PORT_TX_BYTES (i : Nat) : Fld := ⟨0x200028 + 65536 * (i / 4) + 64 * (i % 4), 0, 64, 0⟩

/-- FAB_PORT_RX.BYTES: bytes received. -/
def R.FAB_PORT_RX_BYTES (i : Nat) : Fld := ⟨0x200030 + 65536 * (i / 4) + 64 * (i % 4), 0, 64, 0⟩

/-- FAB_DIE_STATS.HOP_DROPS: R241. -/
def R.FAB_DIE_STATS_HOP_DROPS (i : Nat) : Fld := ⟨0x200400 + 65536 * i, 48, 16, 0⟩
/-- FAB_DIE_STATS.NO_ROUTE_DROPS: R249. -/
def R.FAB_DIE_STATS_NO_ROUTE_DROPS (i : Nat) : Fld := ⟨0x200400 + 65536 * i, 32, 16, 0⟩
/-- FAB_DIE_STATS.UNKNOWN_DROPS: R235. -/
def R.FAB_DIE_STATS_UNKNOWN_DROPS (i : Nat) : Fld := ⟨0x200400 + 65536 * i, 16, 16, 0⟩

/-- FAB_REGION_CACHE.HITS: region-cache hits. -/
def R.FAB_REGION_CACHE_HITS (i : Nat) : Fld := ⟨0x200408 + 65536 * i, 32, 32, 0⟩
/-- FAB_REGION_CACHE.MISSES: region-cache misses. -/
def R.FAB_REGION_CACHE_MISSES (i : Nat) : Fld := ⟨0x200408 + 65536 * i, 0, 32, 0⟩

/-- FAB_CTRL.MAC_PREFIX: MAC prefix (section 9.2). -/
def R.FAB_CTRL_MAC_PREFIX : Fld := ⟨0x280000, 32, 32, 38621696⟩
/-- FAB_CTRL.ETHERTYPE: fabric EtherType. -/
def R.FAB_CTRL_ETHERTYPE : Fld := ⟨0x280000, 16, 16, 34998⟩

/-- FAB_ASSIGN.RELEASE: R243. -/
def R.FAB_ASSIGN_RELEASE : Fld := ⟨0x280008, 63, 1, 0⟩
/-- FAB_ASSIGN.VALID: CAP_NODE.NODE_VALID. -/
def R.FAB_ASSIGN_VALID : Fld := ⟨0x280008, 16, 1, 0⟩
/-- FAB_ASSIGN.NUMBER: R242. -/
def R.FAB_ASSIGN_NUMBER : Fld := ⟨0x280008, 0, 16, 0⟩

/-- FAB_DOMAIN.DOMAIN_ID: domain; 0 = none. -/
def R.FAB_DOMAIN_DOMAIN_ID : Fld := ⟨0x280010, 0, 32, 0⟩

/-- FAB_TIMEOUT.REMOTE_US: R266, 10 to 2,000. -/
def R.FAB_TIMEOUT_REMOTE_US : Fld := ⟨0x280018, 48, 16, 50⟩
/-- FAB_TIMEOUT.COVER_HOLD_US: R255. -/
def R.FAB_TIMEOUT_COVER_HOLD_US : Fld := ⟨0x280018, 32, 16, 40⟩
/-- FAB_TIMEOUT.ORETX_US: R250. -/
def R.FAB_TIMEOUT_ORETX_US : Fld := ⟨0x280018, 16, 16, 5⟩
/-- FAB_TIMEOUT.ORETX_LIMIT: R252. -/
def R.FAB_TIMEOUT_ORETX_LIMIT : Fld := ⟨0x280018, 8, 8, 8⟩
/-- FAB_TIMEOUT.PROBE_MS: R252. -/
def R.FAB_TIMEOUT_PROBE_MS : Fld := ⟨0x280018, 0, 8, 1⟩

/-- FAB_LINK_CFG.LINK_TIMEOUT_US: R239. -/
def R.FAB_LINK_CFG_LINK_TIMEOUT_US : Fld := ⟨0x280020, 48, 16, 100⟩
/-- FAB_LINK_CFG.REPLAY_LIMIT: R239. -/
def R.FAB_LINK_CFG_REPLAY_LIMIT : Fld := ⟨0x280020, 40, 8, 8⟩
/-- FAB_LINK_CFG.HOP_LIMIT: R241. -/
def R.FAB_LINK_CFG_HOP_LIMIT : Fld := ⟨0x280020, 32, 8, 16⟩
/-- FAB_LINK_CFG.HELLO_US: HELLO interval. -/
def R.FAB_LINK_CFG_HELLO_US : Fld := ⟨0x280020, 16, 16, 10⟩
/-- FAB_LINK_CFG.DETOUR_THRESHOLD: R249, 256-byte units. -/
def R.FAB_LINK_CFG_DETOUR_THRESHOLD : Fld := ⟨0x280020, 0, 16, 64⟩

/-- FAB_VLAN.ENABLE: tag frames on switched ports. -/
def R.FAB_VLAN_ENABLE : Fld := ⟨0x280028, 27, 1, 0⟩
/-- FAB_VLAN.PCP_MGMT: management priority. -/
def R.FAB_VLAN_PCP_MGMT : Fld := ⟨0x280028, 24, 3, 6⟩
/-- FAB_VLAN.PCP_ORDERED: ordered priority. -/
def R.FAB_VLAN_PCP_ORDERED : Fld := ⟨0x280028, 20, 3, 5⟩
/-- FAB_VLAN.PCP_SPRAYED: sprayed priority. -/
def R.FAB_VLAN_PCP_SPRAYED : Fld := ⟨0x280028, 16, 3, 4⟩
/-- FAB_VLAN.VID: VLAN ID. -/
def R.FAB_VLAN_VID : Fld := ⟨0x280028, 0, 12, 0⟩

/-- FAB_RT_INDEX.AUTO_INC: INDEX increments after each FAB_RT_ENTRY write. -/
def R.FAB_RT_INDEX_AUTO_INC : Fld := ⟨0x280030, 16, 1, 0⟩
/-- FAB_RT_INDEX.INDEX: route entry addressed. -/
def R.FAB_RT_INDEX_INDEX : Fld := ⟨0x280030, 0, 16, 0⟩

/-- FAB_RT_ENTRY.ENTRY: Table 9.9; a write installs it under R248 and R247; a read returns die 0's entry. -/
def R.FAB_RT_ENTRY_ENTRY : Fld := ⟨0x280038, 0, 64, 0⟩

/-- FAB_MANAGER.VALID: local writes only; remote writes refused with ST_ACCESS_DENIED. -/
def R.FAB_MANAGER_VALID (i : Nat) : Fld := ⟨0x280040 + 8 * i, 16, 1, 0⟩
/-- FAB_MANAGER.NODE: manager node. -/
def R.FAB_MANAGER_NODE (i : Nat) : Fld := ⟨0x280040 + 8 * i, 0, 16, 0⟩

/-- FAB_REGION_BASE.BASE: region table offset, R261. -/
def R.FAB_REGION_BASE_BASE : Fld := ⟨0x280060, 0, 46, 0⟩

/-- FAB_POOL_KEY.KEY: region 0 key, R262. -/
def R.FAB_POOL_KEY_KEY : Fld := ⟨0x280068, 0, 32, 0⟩

/-- FAB_REGION_CMD.OP: 1 REGISTER; 2 REVOKE; 3 READ; others refused with ST_BAD_PARAM. -/
def R.FAB_REGION_CMD_OP : Fld := ⟨0x280070, 60, 4, 0⟩
/-- FAB_REGION_CMD.REGION: region. -/
def R.FAB_REGION_CMD_REGION : Fld := ⟨0x280070, 0, 20, 0⟩

/-- FAB_REGION_ARG0.WORD: words 0x00, 0x08 and 0x10 of Table 9.12. -/
def R.FAB_REGION_ARG0_WORD : Fld := ⟨0x280078, 0, 64, 0⟩

/-- FAB_REGION_ARG1.WORD: words 0x00, 0x08 and 0x10 of Table 9.12. -/
def R.FAB_REGION_ARG1_WORD : Fld := ⟨0x280080, 0, 64, 0⟩

/-- FAB_REGION_ARG2.WORD: words 0x00, 0x08 and 0x10 of Table 9.12. -/
def R.FAB_REGION_ARG2_WORD : Fld := ⟨0x280088, 0, 64, 0⟩

/-- FAB_REGION_STATUS.INVALIDATED: first phase of REVOKE complete. -/
def R.FAB_REGION_STATUS_INVALIDATED : Fld := ⟨0x280090, 33, 1, 0⟩
/-- FAB_REGION_STATUS.BUSY: a region command is running; FAB_REGION_CMD writes refused with ST_BAD_STATE. -/
def R.FAB_REGION_STATUS_BUSY : Fld := ⟨0x280090, 32, 1, 0⟩
/-- FAB_REGION_STATUS.INFLIGHT: INFLIGHT of the region addressed, saturating. -/
def R.FAB_REGION_STATUS_INFLIGHT : Fld := ⟨0x280090, 16, 16, 0⟩
/-- FAB_REGION_STATUS.STATUS: status of the last completed command. -/
def R.FAB_REGION_STATUS_STATUS : Fld := ⟨0x280090, 0, 16, 0⟩

/-- FAB_KEY_POLICY.SPACE3_READ_ANY: R260. -/
def R.FAB_KEY_POLICY_SPACE3_READ_ANY : Fld := ⟨0x280098, 1, 1, 0⟩
/-- FAB_KEY_POLICY.LOCK: R264. -/
def R.FAB_KEY_POLICY_LOCK : Fld := ⟨0x280098, 0, 1, 0⟩

/-- FAB_STATS.KEY_REFUSALS: R263. -/
def R.FAB_STATS_KEY_REFUSALS : Fld := ⟨0x2800a0, 32, 32, 0⟩
/-- FAB_STATS.TIMEOUTS: ST_REMOTE_TIMEOUT completions. -/
def R.FAB_STATS_TIMEOUTS : Fld := ⟨0x2800a0, 16, 16, 0⟩
/-- FAB_STATS.LATE_RESPONSES: R266. -/
def R.FAB_STATS_LATE_RESPONSES : Fld := ⟨0x2800a0, 0, 16, 0⟩

/-- FAB_ROUTES.VALID_ROUTES: VALID route entries. -/
def R.FAB_ROUTES_VALID_ROUTES : Fld := ⟨0x2800a8, 0, 17, 0⟩

/-- FAB_PEER.VALID: virtual link configured. -/
def R.FAB_PEER_VALID (i : Nat) : Fld := ⟨0x281000 + 8 * i, 63, 1, 0⟩
/-- FAB_PEER.STATE: as FAB_PORT_STATUS.STATE, from 2. -/
def R.FAB_PEER_STATE (i : Nat) : Fld := ⟨0x281000 + 8 * i, 60, 3, 0⟩
/-- FAB_PEER.PORT: switched port. -/
def R.FAB_PEER_PORT (i : Nat) : Fld := ⟨0x281000 + 8 * i, 16, 4, 0⟩
/-- FAB_PEER.NODE: peer node. -/
def R.FAB_PEER_NODE (i : Nat) : Fld := ⟨0x281000 + 8 * i, 0, 16, 0⟩

/-- FAB_OUTKEY_A.VALID: R259. -/
def R.FAB_OUTKEY_A_VALID (i : Nat) : Fld := ⟨0x2a0000 + 32 * i, 63, 1, 0⟩
/-- FAB_OUTKEY_A.SPACE: 0, 1 or 2. -/
def R.FAB_OUTKEY_A_SPACE (i : Nat) : Fld := ⟨0x2a0000 + 32 * i, 61, 2, 0⟩
/-- FAB_OUTKEY_A.CONTEXT: context; 0xFFF = any. -/
def R.FAB_OUTKEY_A_CONTEXT (i : Nat) : Fld := ⟨0x2a0000 + 32 * i, 48, 12, 4095⟩
/-- FAB_OUTKEY_A.DST_NODE: target node. -/
def R.FAB_OUTKEY_A_DST_NODE (i : Nat) : Fld := ⟨0x2a0000 + 32 * i, 32, 16, 0⟩
/-- FAB_OUTKEY_A.KEY: key sent. -/
def R.FAB_OUTKEY_A_KEY (i : Nat) : Fld := ⟨0x2a0000 + 32 * i, 0, 32, 0⟩

/-- FAB_OUTKEY_B.BASE: first offset covered. -/
def R.FAB_OUTKEY_B_BASE (i : Nat) : Fld := ⟨0x2a0008 + 32 * i, 0, 46, 0⟩

/-- FAB_OUTKEY_C.LENGTH: bytes covered. -/
def R.FAB_OUTKEY_C_LENGTH (i : Nat) : Fld := ⟨0x2a0010 + 32 * i, 0, 46, 0⟩

/-- FAB_OUTKEY_D.REGION: region sent. -/
def R.FAB_OUTKEY_D_REGION (i : Nat) : Fld := ⟨0x2a0018 + 32 * i, 0, 20, 0⟩

/-! ### Registers of Table 10.8 -/

/-- XFR_CFG.MSG_TIMEOUT_US: R286. -/
def R.XFR_CFG_MSG_TIMEOUT_US : Fld := ⟨0x300000, 48, 16, 200⟩
/-- XFR_CFG.RETRY_LIMIT: R286. -/
def R.XFR_CFG_RETRY_LIMIT : Fld := ⟨0x300000, 40, 8, 1⟩
/-- XFR_CFG.TAG_QUIET_US: R289. -/
def R.XFR_CFG_TAG_QUIET_US : Fld := ⟨0x300000, 16, 16, 100⟩
/-- XFR_CFG.COLL_TIMEOUT_MS: R296. -/
def R.XFR_CFG_COLL_TIMEOUT_MS : Fld := ⟨0x300000, 0, 16, 100⟩

/-- XFR_MSG_BASE.VALID: message table in use. -/
def R.XFR_MSG_BASE_VALID : Fld := ⟨0x300008, 63, 1, 0⟩
/-- XFR_MSG_BASE.BASE: space-0 offset of the 16 MiB message table. -/
def R.XFR_MSG_BASE_BASE : Fld := ⟨0x300008, 0, 46, 0⟩

/-- XFR_SRC_STATS.COMPLETED: requests completed. -/
def R.XFR_SRC_STATS_COMPLETED : Fld := ⟨0x300010, 32, 32, 0⟩
/-- XFR_SRC_STATS.FAILED: requests completed with another status. -/
def R.XFR_SRC_STATS_FAILED : Fld := ⟨0x300010, 16, 16, 0⟩
/-- XFR_SRC_STATS.RETRIES: WRITEs injected again under R286. -/
def R.XFR_SRC_STATS_RETRIES : Fld := ⟨0x300010, 0, 16, 0⟩

/-- XFR_DEST_STATS.MESSAGES: messages finished. -/
def R.XFR_DEST_STATS_MESSAGES : Fld := ⟨0x300018, 32, 32, 0⟩
/-- XFR_DEST_STATS.DUPLICATES: packets dropped as duplicates. -/
def R.XFR_DEST_STATS_DUPLICATES : Fld := ⟨0x300018, 16, 16, 0⟩
/-- XFR_DEST_STATS.ABANDONED: messages abandoned under R286. -/
def R.XFR_DEST_STATS_ABANDONED : Fld := ⟨0x300018, 0, 16, 0⟩

/-- XFR_INFLIGHT.REQUESTS: requests in flight, at most 16,384. -/
def R.XFR_INFLIGHT_REQUESTS : Fld := ⟨0x300020, 32, 14, 0⟩
/-- XFR_INFLIGHT.RECORDS: message records in use. -/
def R.XFR_INFLIGHT_RECORDS : Fld := ⟨0x300020, 0, 17, 0⟩

/-- XFR_Q_A.VALID: queue in use. -/
def R.XFR_Q_A_VALID (i : Nat) : Fld := ⟨0x301000 + 32 * i, 63, 1, 0⟩
/-- XFR_Q_A.ERROR: R277; cleared when VALID is cleared. -/
def R.XFR_Q_A_ERROR (i : Nat) : Fld := ⟨0x301000 + 32 * i, 62, 1, 0⟩
/-- XFR_Q_A.BUSY: flush in progress (R278). -/
def R.XFR_Q_A_BUSY (i : Nat) : Fld := ⟨0x301000 + 32 * i, 61, 1, 0⟩
/-- XFR_Q_A.CONTEXT: owning context; 0xFFF the host. -/
def R.XFR_Q_A_CONTEXT (i : Nat) : Fld := ⟨0x301000 + 32 * i, 49, 12, 4095⟩
/-- XFR_Q_A.RING: space-0 offset of the ring, 4 KiB aligned. -/
def R.XFR_Q_A_RING (i : Nat) : Fld := ⟨0x301000 + 32 * i, 0, 46, 0⟩

/-- XFR_Q_B.GATE_Q: queue for WAIT_KIND 2. -/
def R.XFR_Q_B_GATE_Q (i : Nat) : Fld := ⟨0x301008 + 32 * i, 54, 10, 0⟩
/-- XFR_Q_B.POST_TILE: tile of the post counter. -/
def R.XFR_Q_B_POST_TILE (i : Nat) : Fld := ⟨0x301008 + 32 * i, 49, 5, 0⟩
/-- XFR_Q_B.POST_CTR: post counter. -/
def R.XFR_Q_B_POST_CTR (i : Nat) : Fld := ⟨0x301008 + 32 * i, 33, 16, 0⟩
/-- XFR_Q_B.DEPTH_LOG2: 4 to 16. -/
def R.XFR_Q_B_DEPTH_LOG2 (i : Nat) : Fld := ⟨0x301008 + 32 * i, 28, 5, 4⟩
/-- XFR_Q_B.INFLIGHT_MAX: 1 to 64. -/
def R.XFR_Q_B_INFLIGHT_MAX (i : Nat) : Fld := ⟨0x301008 + 32 * i, 16, 7, 16⟩
/-- XFR_Q_B.ERROR_STATUS: status that set ERROR. -/
def R.XFR_Q_B_ERROR_STATUS (i : Nat) : Fld := ⟨0x301008 + 32 * i, 0, 16, 0⟩

/-- XFR_Q_C.COMPLETED: R275. -/
def R.XFR_Q_C_COMPLETED (i : Nat) : Fld := ⟨0x301010 + 32 * i, 0, 64, 0⟩

/-- XFR_Q_D.POSTED: post counter value; a write below the current value is refused with ST_BAD_PARAM. -/
def R.XFR_Q_D_POSTED (i : Nat) : Fld := ⟨0x301018 + 32 * i, 0, 64, 0⟩

/-- XFR_GROUP_A.VALID: group configured. -/
def R.XFR_GROUP_A_VALID (i : Nat) : Fld := ⟨0x30a000 + 64 * i, 63, 1, 0⟩
/-- XFR_GROUP_A.ROOT: this member is the root. -/
def R.XFR_GROUP_A_ROOT (i : Nat) : Fld := ⟨0x30a000 + 64 * i, 62, 1, 0⟩
/-- XFR_GROUP_A.DIE: router die whose engine serves the group. -/
def R.XFR_GROUP_A_DIE (i : Nat) : Fld := ⟨0x30a000 + 64 * i, 60, 2, 0⟩
/-- XFR_GROUP_A.ACC_FMT: 0 FP32; 1 BF16. -/
def R.XFR_GROUP_A_ACC_FMT (i : Nat) : Fld := ⟨0x30a000 + 64 * i, 59, 1, 0⟩
/-- XFR_GROUP_A.WIRE_FMT: 0 MXFP8 E4M3; 1 MXFP8 E5M2. -/
def R.XFR_GROUP_A_WIRE_FMT (i : Nat) : Fld := ⟨0x30a000 + 64 * i, 58, 1, 0⟩
/-- XFR_GROUP_A.ROUND: Table 5.7; 3 refused with ST_BAD_PARAM. -/
def R.XFR_GROUP_A_ROUND (i : Nat) : Fld := ⟨0x30a000 + 64 * i, 56, 2, 0⟩
/-- XFR_GROUP_A.RES_FMT: 0 FP32; 1 BF16. -/
def R.XFR_GROUP_A_RES_FMT (i : Nat) : Fld := ⟨0x30a000 + 64 * i, 55, 1, 0⟩
/-- XFR_GROUP_A.CHILD_COUNT: 0 to 16. -/
def R.XFR_GROUP_A_CHILD_COUNT (i : Nat) : Fld := ⟨0x30a000 + 64 * i, 50, 5, 0⟩
/-- XFR_GROUP_A.WINDOW: chunk slots, 1 to 256. -/
def R.XFR_GROUP_A_WINDOW (i : Nat) : Fld := ⟨0x30a000 + 64 * i, 41, 9, 64⟩
/-- XFR_GROUP_A.PARENT: parent node; ignored at the root. -/
def R.XFR_GROUP_A_PARENT (i : Nat) : Fld := ⟨0x30a000 + 64 * i, 0, 16, 0⟩

/-- XFR_GROUP_CHILD.CHILDREN: children 4k to 4k + 3, 16 bits each, child 4k in bits [15:0]. -/
def R.XFR_GROUP_CHILD_CHILDREN (i : Nat) : Fld := ⟨0x30a008 + 64 * (i / 4) + 8 * (i % 4), 0, 64, 0⟩

/-- XFR_GROUP_STATUS.CURRENT_OP: OP in progress. -/
def R.XFR_GROUP_STATUS_CURRENT_OP (i : Nat) : Fld := ⟨0x30a028 + 64 * i, 32, 16, 0⟩
/-- XFR_GROUP_STATUS.LAST_STATUS: status of the last completed op. -/
def R.XFR_GROUP_STATUS_LAST_STATUS (i : Nat) : Fld := ⟨0x30a028 + 64 * i, 0, 16, 0⟩

/-- XFR_GROUP_STATS.CHUNKS: chunks summed at this member. -/
def R.XFR_GROUP_STATS_CHUNKS (i : Nat) : Fld := ⟨0x30a030 + 64 * i, 32, 32, 0⟩
/-- XFR_GROUP_STATS.DUPLICATES: contributions dropped under R294. -/
def R.XFR_GROUP_STATS_DUPLICATES (i : Nat) : Fld := ⟨0x30a030 + 64 * i, 0, 32, 0⟩

/-! ### Registers of Table 11.6 -/

/-- SYN_CFG.WAIT_LIMIT_MS: R306; 0 = no limit. -/
def R.SYN_CFG_WAIT_LIMIT_MS : Fld := ⟨0x180000, 32, 32, 0⟩
/-- SYN_CFG.GATE_AFTER_US: wait before a waiting core gates (R305). -/
def R.SYN_CFG_GATE_AFTER_US : Fld := ⟨0x180000, 0, 16, 20⟩

/-- SYN_CTR_SEL.TILE: tile of the selected counter. -/
def R.SYN_CTR_SEL_TILE : Fld := ⟨0x180008, 16, 5, 0⟩
/-- SYN_CTR_SEL.COUNTER: selected counter. -/
def R.SYN_CTR_SEL_COUNTER : Fld := ⟨0x180008, 0, 16, 0⟩

/-- SYN_CTR_DATA.VALUE: VALUE of the selected counter; a write sets it and re-evaluates waits; a withdrawn tile reads 0 and ignores writes. -/
def R.SYN_CTR_DATA_VALUE : Fld := ⟨0x180010, 0, 40, 0⟩

/-- SYN_CTR_META.OWNER: owning context (R316). -/
def R.SYN_CTR_META_OWNER : Fld := ⟨0x180018, 52, 12, 4095⟩
/-- SYN_CTR_META.EXCLUDED: post counter of a VALID queue. -/
def R.SYN_CTR_META_EXCLUDED : Fld := ⟨0x180018, 51, 1, 0⟩
/-- SYN_CTR_META.SNAP: VALUE at the owner's OPEN. -/
def R.SYN_CTR_META_SNAP : Fld := ⟨0x180018, 0, 40, 0⟩

/-- SYN_BAR_CMD.OP: 1 CONFIGURE; 2 FREE; others refused with ST_BAD_PARAM. -/
def R.SYN_BAR_CMD_OP : Fld := ⟨0x180020, 60, 4, 0⟩
/-- SYN_BAR_CMD.BARRIER: barrier addressed. -/
def R.SYN_BAR_CMD_BARRIER : Fld := ⟨0x180020, 0, 12, 0⟩

/-- SYN_BAR_ARG0.PARTICIPANTS: arrivals per round. -/
def R.SYN_BAR_ARG0_PARTICIPANTS : Fld := ⟨0x180028, 48, 16, 0⟩
/-- SYN_BAR_ARG0.ROUND: starting round. -/
def R.SYN_BAR_ARG0_ROUND : Fld := ⟨0x180028, 32, 16, 0⟩
/-- SYN_BAR_ARG0.MEMBER_COUNT: members, 1 to 4,096. -/
def R.SYN_BAR_ARG0_MEMBER_COUNT : Fld := ⟨0x180028, 0, 13, 0⟩

/-- SYN_BAR_ARG1.MEMBERS: space-0 offset of the member list. -/
def R.SYN_BAR_ARG1_MEMBERS : Fld := ⟨0x180030, 0, 46, 0⟩

/-- SYN_BAR_STATUS.BUSY: a barrier command is running. -/
def R.SYN_BAR_STATUS_BUSY : Fld := ⟨0x180038, 32, 1, 0⟩
/-- SYN_BAR_STATUS.STATUS: status of the last completed command. -/
def R.SYN_BAR_STATUS_STATUS : Fld := ⟨0x180038, 0, 16, 0⟩

/-- SYN_WAIT_STATS.WAITS: WAITs completed. -/
def R.SYN_WAIT_STATS_WAITS : Fld := ⟨0x180040, 32, 32, 0⟩
/-- SYN_WAIT_STATS.TIMEOUTS: ST_WAIT_TIMEOUT faults. -/
def R.SYN_WAIT_STATS_TIMEOUTS : Fld := ⟨0x180040, 16, 16, 0⟩
/-- SYN_WAIT_STATS.SQUASHED: waits ended by squash. -/
def R.SYN_WAIT_STATS_SQUASHED : Fld := ⟨0x180040, 0, 16, 0⟩

/-- SYN_BAR_STATS.ROUNDS: rounds completed, all barriers. -/
def R.SYN_BAR_STATS_ROUNDS : Fld := ⟨0x180048, 32, 32, 0⟩
/-- SYN_BAR_STATS.EARLY: early arrivals. -/
def R.SYN_BAR_STATS_EARLY : Fld := ⟨0x180048, 16, 16, 0⟩
/-- SYN_BAR_STATS.REFUSED: arrivals refused under Table 11.3. -/
def R.SYN_BAR_STATS_REFUSED : Fld := ⟨0x180048, 0, 16, 0⟩

/-- SYN_RESIDUE_STATS.CHECKED: objects checked under R317. -/
def R.SYN_RESIDUE_STATS_CHECKED : Fld := ⟨0x180050, 32, 32, 0⟩
/-- SYN_RESIDUE_STATS.MISMATCHED: objects found mismatched. -/
def R.SYN_RESIDUE_STATS_MISMATCHED : Fld := ⟨0x180050, 0, 32, 0⟩

/-- SYN_BAR_A.STATE: 0 FREE; 1 COLLECTING; 2 RELEASING. -/
def R.SYN_BAR_A_STATE (i : Nat) : Fld := ⟨0x190000 + 32 * i, 62, 2, 0⟩
/-- SYN_BAR_A.OWNER: owning context. -/
def R.SYN_BAR_A_OWNER (i : Nat) : Fld := ⟨0x190000 + 32 * i, 50, 12, 4095⟩
/-- SYN_BAR_A.ROUND: current round. -/
def R.SYN_BAR_A_ROUND (i : Nat) : Fld := ⟨0x190000 + 32 * i, 32, 16, 0⟩
/-- SYN_BAR_A.PARTICIPANTS: arrivals per round. -/
def R.SYN_BAR_A_PARTICIPANTS (i : Nat) : Fld := ⟨0x190000 + 32 * i, 16, 16, 0⟩
/-- SYN_BAR_A.ARRIVED: arrivals for ROUND. -/
def R.SYN_BAR_A_ARRIVED (i : Nat) : Fld := ⟨0x190000 + 32 * i, 0, 16, 0⟩

/-- SYN_BAR_B.EARLY: arrivals for ROUND + 1. -/
def R.SYN_BAR_B_EARLY (i : Nat) : Fld := ⟨0x190008 + 32 * i, 48, 16, 0⟩
/-- SYN_BAR_B.ACKS_PENDING: releases not yet acknowledged. -/
def R.SYN_BAR_B_ACKS_PENDING (i : Nat) : Fld := ⟨0x190008 + 32 * i, 22, 13, 0⟩
/-- SYN_BAR_B.MEMBER_COUNT: members. -/
def R.SYN_BAR_B_MEMBER_COUNT (i : Nat) : Fld := ⟨0x190008 + 32 * i, 0, 13, 0⟩

/-- SYN_BAR_C.MEMBERS: member list offset. -/
def R.SYN_BAR_C_MEMBERS (i : Nat) : Fld := ⟨0x190010 + 32 * i, 0, 46, 0⟩

/-- SYN_BAR_D.COMPLETED: rounds completed since CONFIGURE. -/
def R.SYN_BAR_D_COMPLETED (i : Nat) : Fld := ⟨0x190018 + 32 * i, 0, 64, 0⟩

/-! ### Registers of Table 12.11 and 12.12 -/

/-- HCP_PORT_CFG.VID: VLAN ID. -/
def R.HCP_PORT_CFG_VID : Fld := ⟨0x10000, 40, 12, 0⟩
/-- HCP_PORT_CFG.VLAN_EN: tag frames with VID. -/
def R.HCP_PORT_CFG_VLAN_EN : Fld := ⟨0x10000, 39, 1, 0⟩
/-- HCP_PORT_CFG.MTU: IP MTU, 1,280 to 9,000. -/
def R.HCP_PORT_CFG_MTU : Fld := ⟨0x10000, 0, 16, 1500⟩

/-- HCP_PORT_STATUS.LANES_UP: bit i: lane i in use. -/
def R.HCP_PORT_STATUS_LANES_UP : Fld := ⟨0x10008, 8, 8, 0⟩
/-- HCP_PORT_STATUS.STATE: 0 DOWN; 1 TRAINING; 2 UP. -/
def R.HCP_PORT_STATUS_STATE : Fld := ⟨0x10008, 0, 2, 0⟩

/-- HCP_MAC.MAC: first octet in bits [47:40]. -/
def R.HCP_MAC_MAC : Fld := ⟨0x10010, 0, 48, 0⟩

/-- HCP_IPV4.PREFIX_LEN: 0 to 32. -/
def R.HCP_IPV4_PREFIX_LEN : Fld := ⟨0x10018, 32, 8, 0⟩
/-- HCP_IPV4.ADDR: a.b.c.d with a in bits [31:24]; 0 = none. -/
def R.HCP_IPV4_ADDR : Fld := ⟨0x10018, 0, 32, 0⟩

/-- HCP_IPV4_GW.GW: IPv4 gateway; 0 = none. -/
def R.HCP_IPV4_GW_GW : Fld := ⟨0x10020, 0, 32, 0⟩

/-- HCP_IPV6_HI.ADDR: address bits [127:64] and [63:0]; 0 = none. -/
def R.HCP_IPV6_HI_ADDR : Fld := ⟨0x10028, 0, 64, 0⟩

/-- HCP_IPV6_LO.ADDR: address bits [127:64] and [63:0]; 0 = none. -/
def R.HCP_IPV6_LO_ADDR : Fld := ⟨0x10030, 0, 64, 0⟩

/-- HCP_IPV6_GW_HI.GW: IPv6 gateway; 0 = none. -/
def R.HCP_IPV6_GW_HI_GW : Fld := ⟨0x10038, 0, 64, 0⟩

/-- HCP_IPV6_GW_LO.GW: IPv6 gateway; 0 = none. -/
def R.HCP_IPV6_GW_LO_GW : Fld := ⟨0x10040, 0, 64, 0⟩

/-- HCP_IPV6_CFG.PREFIX_LEN: 0 to 128. -/
def R.HCP_IPV6_CFG_PREFIX_LEN : Fld := ⟨0x10048, 0, 8, 0⟩

/-- HCP_PRAYR.DSCP_ROCE: DSCP of RoCEv2 packets without a QP value. -/
def R.HCP_PRAYR_DSCP_ROCE : Fld := ⟨0x10050, 40, 6, 26⟩
/-- HCP_PRAYR.DSCP_PRAYR: DSCP of Prayr packets. -/
def R.HCP_PRAYR_DSCP_PRAYR : Fld := ⟨0x10050, 32, 6, 0⟩
/-- HCP_PRAYR.REPLY_HOLD_MS: R325. -/
def R.HCP_PRAYR_REPLY_HOLD_MS : Fld := ⟨0x10050, 16, 16, 2000⟩
/-- HCP_PRAYR.UDP_PORT: Prayr UDP port. -/
def R.HCP_PRAYR_UDP_PORT : Fld := ⟨0x10050, 0, 16, 47213⟩

/-- HCP_TOKEN_CFG.ACK_MODE: R337. -/
def R.HCP_TOKEN_CFG_ACK_MODE : Fld := ⟨0x10058, 32, 1, 0⟩
/-- HCP_TOKEN_CFG.RETX_US: R337. -/
def R.HCP_TOKEN_CFG_RETX_US : Fld := ⟨0x10058, 16, 16, 200⟩
/-- HCP_TOKEN_CFG.RETX_LIMIT: R337; 0 = no limit. -/
def R.HCP_TOKEN_CFG_RETX_LIMIT : Fld := ⟨0x10058, 0, 8, 16⟩

/-- HCP_EVENT_DEST.ENABLE: push events (R339). -/
def R.HCP_EVENT_DEST_ENABLE : Fld := ⟨0x10060, 63, 1, 0⟩
/-- HCP_EVENT_DEST.MIN_SEVERITY: lowest severity pushed. -/
def R.HCP_EVENT_DEST_MIN_SEVERITY : Fld := ⟨0x10060, 16, 4, 0⟩
/-- HCP_EVENT_DEST.PORT: destination UDP port. -/
def R.HCP_EVENT_DEST_PORT : Fld := ⟨0x10060, 0, 16, 0⟩

/-- HCP_EVENT_ADDR_HI.ADDR: destination address; IPv4 as ::ffff:a.b.c.d. -/
def R.HCP_EVENT_ADDR_HI_ADDR : Fld := ⟨0x10068, 0, 64, 0⟩

/-- HCP_EVENT_ADDR_LO.ADDR: destination address; IPv4 as ::ffff:a.b.c.d. -/
def R.HCP_EVENT_ADDR_LO_ADDR : Fld := ⟨0x10070, 0, 64, 0⟩

/-- HCP_QUEUE.FAST_DEPTH: fast-path queue places. -/
def R.HCP_QUEUE_FAST_DEPTH : Fld := ⟨0x10078, 48, 16, 16384⟩
/-- HCP_QUEUE.FAST_USED: places in use. -/
def R.HCP_QUEUE_FAST_USED : Fld := ⟨0x10078, 32, 16, 0⟩
/-- HCP_QUEUE.FW_DEPTH: firmware queue places. -/
def R.HCP_QUEUE_FW_DEPTH : Fld := ⟨0x10078, 16, 16, 1024⟩
/-- HCP_QUEUE.FW_USED: places in use. -/
def R.HCP_QUEUE_FW_USED : Fld := ⟨0x10078, 0, 16, 0⟩

/-- HCP_STATS.COMMANDS: requests executed. -/
def R.HCP_STATS_COMMANDS : Fld := ⟨0x10080, 32, 32, 0⟩
/-- HCP_STATS.DUPLICATES: replies sent from the cache. -/
def R.HCP_STATS_DUPLICATES : Fld := ⟨0x10080, 16, 16, 0⟩
/-- HCP_STATS.CHECK_DROPS: R321 and check 1 of Table 12.2. -/
def R.HCP_STATS_CHECK_DROPS : Fld := ⟨0x10080, 0, 16, 0⟩

/-- HCP_DROP_STATS.NO_HOST: check 2 of Table 12.2. -/
def R.HCP_DROP_STATS_NO_HOST : Fld := ⟨0x10088, 48, 16, 0⟩
/-- HCP_DROP_STATS.BUSY: ST_HCP_BUSY replies. -/
def R.HCP_DROP_STATS_BUSY : Fld := ⟨0x10088, 32, 16, 0⟩
/-- HCP_DROP_STATS.TOKEN_RETX: TOKEN retransmissions and ignored TOKEN_ACKs. -/
def R.HCP_DROP_STATS_TOKEN_RETX : Fld := ⟨0x10088, 16, 16, 0⟩
/-- HCP_DROP_STATS.TOKEN_DROPPED: TOKEN packets drained undelivered. -/
def R.HCP_DROP_STATS_TOKEN_DROPPED : Fld := ⟨0x10088, 0, 16, 0⟩

/-- HCP_QP_SEL.INDEX: QP shown in HCP_QP_STATUS. -/
def R.HCP_QP_SEL_INDEX : Fld := ⟨0x10090, 0, 14, 0⟩

/-- HCP_QP_STATUS.STATE: 0 RESET; 1 ready to send; 2 ERROR. -/
def R.HCP_QP_STATUS_STATE : Fld := ⟨0x10098, 62, 2, 0⟩
/-- HCP_QP_STATUS.REMOTE_QPN: see Table 12.11 and 12.12. -/
def R.HCP_QP_STATUS_REMOTE_QPN : Fld := ⟨0x10098, 24, 24, 0⟩
/-- HCP_QP_STATUS.SYNDROME: last IBTA NAK syndrome. -/
def R.HCP_QP_STATUS_SYNDROME : Fld := ⟨0x10098, 16, 8, 0⟩
/-- HCP_QP_STATUS.LAST_STATUS: status of the last failed operation. -/
def R.HCP_QP_STATUS_LAST_STATUS : Fld := ⟨0x10098, 0, 16, 0⟩

/-- HCP_HOST_A.VALID: host entry in use. -/
def R.HCP_HOST_A_VALID (i : Nat) : Fld := ⟨0x11000 + 32 * i, 63, 1, 0⟩
/-- HCP_HOST_A.ADMIN: ADMIN opcodes permitted. -/
def R.HCP_HOST_A_ADMIN (i : Nat) : Fld := ⟨0x11000 + 32 * i, 62, 1, 0⟩
/-- HCP_HOST_A.TENANT_HI: highest tenant permitted. -/
def R.HCP_HOST_A_TENANT_HI (i : Nat) : Fld := ⟨0x11000 + 32 * i, 16, 16, 0⟩
/-- HCP_HOST_A.TENANT_LO: lowest tenant permitted. -/
def R.HCP_HOST_A_TENANT_LO (i : Nat) : Fld := ⟨0x11000 + 32 * i, 0, 16, 0⟩

/-- HCP_HOST_B.ADDR: address bits [127:64] and [63:0]. -/
def R.HCP_HOST_B_ADDR (i : Nat) : Fld := ⟨0x11008 + 32 * i, 0, 64, 0⟩

/-- HCP_HOST_C.ADDR: address bits [127:64] and [63:0]. -/
def R.HCP_HOST_C_ADDR (i : Nat) : Fld := ⟨0x11010 + 32 * i, 0, 64, 0⟩

/-- HCP_HOST_D.PREFIX_LEN: bits of ADDR compared, 0 to 128. -/
def R.HCP_HOST_D_PREFIX_LEN (i : Nat) : Fld := ⟨0x11018 + 32 * i, 0, 8, 0⟩

/-- HCP_WINDOW_A.VALID: R346. -/
def R.HCP_WINDOW_A_VALID (i : Nat) : Fld := ⟨0x12000 + 32 * i, 63, 1, 0⟩
/-- HCP_WINDOW_A.PERM_R: RDMA READ accepted. -/
def R.HCP_WINDOW_A_PERM_R (i : Nat) : Fld := ⟨0x12000 + 32 * i, 62, 1, 0⟩
/-- HCP_WINDOW_A.PERM_W: RDMA WRITE accepted. -/
def R.HCP_WINDOW_A_PERM_W (i : Nat) : Fld := ⟨0x12000 + 32 * i, 61, 1, 0⟩
/-- HCP_WINDOW_A.BUSY: writes still landing after VALID cleared. -/
def R.HCP_WINDOW_A_BUSY (i : Nat) : Fld := ⟨0x12000 + 32 * i, 60, 1, 0⟩
/-- HCP_WINDOW_A.BASE: space-0 offset. -/
def R.HCP_WINDOW_A_BASE (i : Nat) : Fld := ⟨0x12000 + 32 * i, 0, 46, 0⟩

/-- HCP_WINDOW_B.RKEY: remote key. -/
def R.HCP_WINDOW_B_RKEY (i : Nat) : Fld := ⟨0x12008 + 32 * i, 32, 32, 0⟩

/-- HCP_WINDOW_C.LENGTH: bytes. -/
def R.HCP_WINDOW_C_LENGTH (i : Nat) : Fld := ⟨0x12010 + 32 * i, 0, 46, 0⟩

/-- HCP_WINDOW_D.BYTES: bytes written and read through the window. -/
def R.HCP_WINDOW_D_BYTES (i : Nat) : Fld := ⟨0x12018 + 32 * i, 0, 64, 0⟩

/-- TRF_CFG.POLICE_EVENT_MS: R341. -/
def R.TRF_CFG_POLICE_EVENT_MS : Fld := ⟨0x20000, 32, 16, 1000⟩
/-- TRF_CFG.FAST_YELLOW: yellow threshold of the fast-path queue. -/
def R.TRF_CFG_FAST_YELLOW : Fld := ⟨0x20000, 16, 16, 8192⟩
/-- TRF_CFG.FW_YELLOW: yellow threshold of the firmware queue. -/
def R.TRF_CFG_FW_YELLOW : Fld := ⟨0x20000, 0, 16, 512⟩

/-- TRF_METER_SEL.TENANT: tenant selected. -/
def R.TRF_METER_SEL_TENANT : Fld := ⟨0x20008, 0, 16, 0⟩

/-- TRF_METER_A.PIR: peak rate. -/
def R.TRF_METER_A_PIR : Fld := ⟨0x20010, 32, 32, 0⟩
/-- TRF_METER_A.CIR: committed rate. -/
def R.TRF_METER_A_CIR : Fld := ⟨0x20010, 0, 32, 0⟩

/-- TRF_METER_B.ENABLE: meter applies; 0 colours every packet green. -/
def R.TRF_METER_B_ENABLE : Fld := ⟨0x20018, 63, 1, 0⟩
/-- TRF_METER_B.MODE: 0 packets; 1 bytes. -/
def R.TRF_METER_B_MODE : Fld := ⟨0x20018, 62, 1, 0⟩
/-- TRF_METER_B.PBS: peak burst. -/
def R.TRF_METER_B_PBS : Fld := ⟨0x20018, 24, 24, 0⟩
/-- TRF_METER_B.CBS: committed burst. -/
def R.TRF_METER_B_CBS : Fld := ⟨0x20018, 0, 24, 0⟩

/-- TRF_METER_C.GREEN: green packets. -/
def R.TRF_METER_C_GREEN : Fld := ⟨0x20020, 32, 32, 0⟩
/-- TRF_METER_C.YELLOW: yellow packets. -/
def R.TRF_METER_C_YELLOW : Fld := ⟨0x20020, 0, 32, 0⟩

/-- TRF_METER_D.RED: red packets dropped. -/
def R.TRF_METER_D_RED : Fld := ⟨0x20028, 32, 32, 0⟩
/-- TRF_METER_D.YELLOW_DROPPED: yellow packets dropped under R341. -/
def R.TRF_METER_D_YELLOW_DROPPED : Fld := ⟨0x20028, 0, 32, 0⟩

/-- TRF_METER_ALL.RED: red drops, all tenants. -/
def R.TRF_METER_ALL_RED : Fld := ⟨0x20030, 32, 32, 0⟩
/-- TRF_METER_ALL.POLICE_EVENTS: POLICE events posted. -/
def R.TRF_METER_ALL_POLICE_EVENTS : Fld := ⟨0x20030, 0, 32, 0⟩

/-- TRF_HSHAPE.ENABLE: shaper limits class k. -/
def R.TRF_HSHAPE_ENABLE (i : Nat) : Fld := ⟨0x20100 + 8 * i, 63, 1, 0⟩
/-- TRF_HSHAPE.BURST_KIB: bucket size, KiB. -/
def R.TRF_HSHAPE_BURST_KIB (i : Nat) : Fld := ⟨0x20100 + 8 * i, 32, 24, 64⟩
/-- TRF_HSHAPE.RATE_MBPS: rate, Mbit/s. -/
def R.TRF_HSHAPE_RATE_MBPS (i : Nat) : Fld := ⟨0x20100 + 8 * i, 0, 32, 1600000⟩

/-- TRF_FSHAPE.ENABLE: shaper limits composition c. -/
def R.TRF_FSHAPE_ENABLE (i : Nat) : Fld := ⟨0x20200 + 8 * i, 63, 1, 1⟩
/-- TRF_FSHAPE.BURST_KIB: bucket size, KiB. -/
def R.TRF_FSHAPE_BURST_KIB (i : Nat) : Fld := ⟨0x20200 + 8 * i, 32, 24, 1024⟩
/-- TRF_FSHAPE.RATE_GBPS: rate, Gbit/s; 0 = ports × 1,600. -/
def R.TRF_FSHAPE_RATE_GBPS (i : Nat) : Fld := ⟨0x20200 + 8 * i, 0, 32, 0⟩

/-! ### Registers of Table 13.9 -/

/-- BLD_BOOT.STAGE: Table 13.2; 0xE0 RECOVERY. -/
def R.BLD_BOOT_STAGE : Fld := ⟨0x500000, 56, 8, 0⟩
/-- BLD_BOOT.LAST_RESET: 1 cold; 2 warm; 3 compute-only; 4 with scrub. -/
def R.BLD_BOOT_LAST_RESET : Fld := ⟨0x500000, 48, 8, 0⟩
/-- BLD_BOOT.BOOT_STATUS: status of the last failed stage. -/
def R.BLD_BOOT_BOOT_STATUS : Fld := ⟨0x500000, 32, 16, 0⟩
/-- BLD_BOOT.START_COUNT: R355. -/
def R.BLD_BOOT_START_COUNT : Fld := ⟨0x500000, 0, 32, 0⟩

/-- BLD_READY.READY_MS: trigger to node ready of the last start, ms. -/
def R.BLD_READY_READY_MS : Fld := ⟨0x500008, 0, 32, 0⟩

/-- BLD_SERVICE.OFFLINE: bit t: tile t offline (R361). -/
def R.BLD_SERVICE_OFFLINE : Fld := ⟨0x500010, 32, 32, 0⟩
/-- BLD_SERVICE.WITHDRAWN: bit t: tile t withdrawn. -/
def R.BLD_SERVICE_WITHDRAWN : Fld := ⟨0x500010, 0, 32, 0⟩

/-- BLD_HBM.RETIRED: channels retired. -/
def R.BLD_HBM_RETIRED : Fld := ⟨0x500018, 32, 12, 0⟩
/-- BLD_HBM.RETIRING: R362 copy in progress. -/
def R.BLD_HBM_RETIRING : Fld := ⟨0x500018, 0, 1, 0⟩

/-- BLD_DEFECT.OVERFLOW: findings not listed. -/
def R.BLD_DEFECT_OVERFLOW : Fld := ⟨0x500020, 32, 32, 0⟩
/-- BLD_DEFECT.COUNT: entries, 0 to 4,096. -/
def R.BLD_DEFECT_COUNT : Fld := ⟨0x500020, 0, 13, 0⟩

/-- BLD_LIC.COUNT: licences stored. -/
def R.BLD_LIC_COUNT : Fld := ⟨0x500028, 0, 7, 0⟩

/-- BLD_IMG.ACTIVE: 0 A; 1 B. -/
def R.BLD_IMG_ACTIVE (i : Nat) : Fld := ⟨0x500100 + 8 * i, 63, 1, 0⟩
/-- BLD_IMG.PENDING: activation pending. -/
def R.BLD_IMG_PENDING (i : Nat) : Fld := ⟨0x500100 + 8 * i, 62, 1, 0⟩
/-- BLD_IMG.FELL_BACK: R365. -/
def R.BLD_IMG_FELL_BACK (i : Nat) : Fld := ⟨0x500100 + 8 * i, 61, 1, 0⟩
/-- BLD_IMG.GEN_A: generation in slot A; 0 empty. -/
def R.BLD_IMG_GEN_A (i : Nat) : Fld := ⟨0x500100 + 8 * i, 32, 16, 0⟩
/-- BLD_IMG.GEN_B: generation in slot B; 0 empty. -/
def R.BLD_IMG_GEN_B (i : Nat) : Fld := ⟨0x500100 + 8 * i, 16, 16, 0⟩

/-- BLD_BCAST_A.STATE: 0 FREE; 1 RECEIVING; 2 COMPLETE; 3 FAILED. -/
def R.BLD_BCAST_A_STATE (i : Nat) : Fld := ⟨0x501000 + 32 * i, 62, 2, 0⟩
/-- BLD_BCAST_A.KIND: from the manifest. -/
def R.BLD_BCAST_A_KIND (i : Nat) : Fld := ⟨0x501000 + 32 * i, 60, 2, 0⟩
/-- BLD_BCAST_A.SESSION: see Table 13.9. -/
def R.BLD_BCAST_A_SESSION (i : Nat) : Fld := ⟨0x501000 + 32 * i, 16, 16, 0⟩
/-- BLD_BCAST_A.PARENT: see Table 13.9. -/
def R.BLD_BCAST_A_PARENT (i : Nat) : Fld := ⟨0x501000 + 32 * i, 0, 16, 0⟩

/-- BLD_BCAST_B.CHUNKS: chunks in the image. -/
def R.BLD_BCAST_B_CHUNKS (i : Nat) : Fld := ⟨0x501008 + 32 * i, 32, 32, 0⟩
/-- BLD_BCAST_B.HELD: chunks verified. -/
def R.BLD_BCAST_B_HELD (i : Nat) : Fld := ⟨0x501008 + 32 * i, 0, 32, 0⟩

/-- BLD_BCAST_C.REPAIRS: REPAIR_REQ sent. -/
def R.BLD_BCAST_C_REPAIRS (i : Nat) : Fld := ⟨0x501010 + 32 * i, 48, 16, 0⟩
/-- BLD_BCAST_C.CRC_FAILS: R368. -/
def R.BLD_BCAST_C_CRC_FAILS (i : Nat) : Fld := ⟨0x501010 + 32 * i, 32, 16, 0⟩
/-- BLD_BCAST_C.STATUS: ST_OK when COMPLETE; failure status when FAILED. -/
def R.BLD_BCAST_C_STATUS (i : Nat) : Fld := ⟨0x501010 + 32 * i, 0, 16, 0⟩

/-! ### Registers of Table 14.8 -/

/-- SEC_STATE.APPROVERS: enrolled keys. -/
def R.SEC_STATE_APPROVERS : Fld := ⟨0x600000, 8, 5, 0⟩
/-- SEC_STATE.SEALED: R389. -/
def R.SEC_STATE_SEALED : Fld := ⟨0x600000, 7, 1, 0⟩
/-- SEC_STATE.HOST_LOCK: R392. -/
def R.SEC_STATE_HOST_LOCK : Fld := ⟨0x600000, 6, 1, 0⟩
/-- SEC_STATE.DEBUG_STICKY: R397. -/
def R.SEC_STATE_DEBUG_STICKY : Fld := ⟨0x600000, 5, 1, 0⟩
/-- SEC_STATE.IDENTITY_VALID: identity key unsealed and not erased. -/
def R.SEC_STATE_IDENTITY_VALID : Fld := ⟨0x600000, 4, 1, 0⟩

/-- SEC_APPROVAL_CFG.REKEY_TICKS: R401; 0 = counter limit only. -/
def R.SEC_APPROVAL_CFG_REKEY_TICKS : Fld := ⟨0x600008, 32, 32, 0⟩
/-- SEC_APPROVAL_CFG.WINDOW_TICKS: R393. -/
def R.SEC_APPROVAL_CFG_WINDOW_TICKS : Fld := ⟨0x600008, 0, 16, 256⟩

/-- SEC_DEBUG.REMAINING_TICKS: ticks until relock. -/
def R.SEC_DEBUG_REMAINING_TICKS : Fld := ⟨0x600010, 32, 32, 0⟩
/-- SEC_DEBUG.SCAN: scan scope open. -/
def R.SEC_DEBUG_SCAN : Fld := ⟨0x600010, 1, 1, 0⟩
/-- SEC_DEBUG.TRACE: trace scope open. -/
def R.SEC_DEBUG_TRACE : Fld := ⟨0x600010, 0, 1, 0⟩

/-- SEC_STATS.APPROVALS: approvals accepted. -/
def R.SEC_STATS_APPROVALS : Fld := ⟨0x600018, 48, 16, 0⟩
/-- SEC_STATS.REFUSED: approvals refused. -/
def R.SEC_STATS_REFUSED : Fld := ⟨0x600018, 32, 16, 0⟩
/-- SEC_STATS.EXPIRED: sets expired. -/
def R.SEC_STATS_EXPIRED : Fld := ⟨0x600018, 16, 16, 0⟩
/-- SEC_STATS.EXECUTED: dual-approved commands executed. -/
def R.SEC_STATS_EXECUTED : Fld := ⟨0x600018, 8, 8, 0⟩
/-- SEC_STATS.REKEYS: link key changes completed. -/
def R.SEC_STATS_REKEYS : Fld := ⟨0x600018, 0, 8, 0⟩

/-- SEC_REPORT_SEQ.SEQ: incremented at each regeneration of the standing report. -/
def R.SEC_REPORT_SEQ_SEQ : Fld := ⟨0x600020, 0, 64, 0⟩

/-- SEC_SET_A.STATE: 0 FREE; 1 OPEN; 2 APPROVED. -/
def R.SEC_SET_A_STATE (i : Nat) : Fld := ⟨0x600100 + 16 * i, 62, 2, 0⟩
/-- SEC_SET_A.APPROVED_BY: bit i: slot i approved. -/
def R.SEC_SET_A_APPROVED_BY (i : Nat) : Fld := ⟨0x600100 + 16 * i, 40, 16, 0⟩
/-- SEC_SET_A.OPCODE: opcode of the set. -/
def R.SEC_SET_A_OPCODE (i : Nat) : Fld := ⟨0x600100 + 16 * i, 32, 8, 0⟩
/-- SEC_SET_A.DEADLINE: local AON tick count of expiry. -/
def R.SEC_SET_A_DEADLINE (i : Nat) : Fld := ⟨0x600100 + 16 * i, 0, 32, 0⟩

/-- SEC_SET_B.DIGEST_TAG: bits [63:0] of the set's digest. -/
def R.SEC_SET_B_DIGEST_TAG (i : Nat) : Fld := ⟨0x600108 + 16 * i, 0, 64, 0⟩

/-- SEC_APPROVER.KEY_TAG: bits [63:0] of the key hash; 0 = empty. -/
def R.SEC_APPROVER_KEY_TAG (i : Nat) : Fld := ⟨0x600200 + 8 * i, 0, 64, 0⟩

/-- SEC_REPORT.WORD: word w of the standing report. -/
def R.SEC_REPORT_WORD (i : Nat) : Fld := ⟨0x601000 + 8 * i, 0, 64, 0⟩

/-! ### Registers of Table 15.10 -/

/-- PCR_STATUS.THROTTLE: matrix throttle in force, percent (R414). -/
def R.PCR_STATUS_THROTTLE : Fld := ⟨0x700000, 32, 8, 100⟩
/-- PCR_STATUS.LIMITING: power limit demands below 100%. -/
def R.PCR_STATUS_LIMITING : Fld := ⟨0x700000, 5, 1, 0⟩
/-- PCR_STATUS.THERM_CRIT: a sensor at the critical level. -/
def R.PCR_STATUS_THERM_CRIT : Fld := ⟨0x700000, 4, 1, 0⟩
/-- PCR_STATUS.THERM_WARN: a sensor at the warning level or above. -/
def R.PCR_STATUS_THERM_WARN : Fld := ⟨0x700000, 3, 1, 0⟩
/-- PCR_STATUS.RAIL_WARN: a rail in warning. -/
def R.PCR_STATUS_RAIL_WARN : Fld := ⟨0x700000, 2, 1, 0⟩
/-- PCR_STATUS.INPUT_WARN: the 48 V input in warning. -/
def R.PCR_STATUS_INPUT_WARN : Fld := ⟨0x700000, 1, 1, 0⟩
/-- PCR_STATUS.PWR_WARN: R409. -/
def R.PCR_STATUS_PWR_WARN : Fld := ⟨0x700000, 0, 1, 0⟩

/-- PCR_SUPPLY.AON_MV: always-on input, mV. -/
def R.PCR_SUPPLY_AON_MV : Fld := ⟨0x700008, 48, 16, 0⟩
/-- PCR_SUPPLY.POWER_W: package input power, W, averaged over 1 ms. -/
def R.PCR_SUPPLY_POWER_W : Fld := ⟨0x700008, 32, 16, 0⟩
/-- PCR_SUPPLY.INPUT_MV: 48 V input, mV. -/
def R.PCR_SUPPLY_INPUT_MV : Fld := ⟨0x700008, 0, 16, 0⟩

/-- PCR_THERMAL.HOTTEST: sensor index of TJ_MAX. -/
def R.PCR_THERMAL_HOTTEST : Fld := ⟨0x700010, 16, 6, 0⟩
/-- PCR_THERMAL.TJ_MAX: hottest logic-die junction, signed 8.8 °C. -/
def R.PCR_THERMAL_TJ_MAX : Fld := ⟨0x700010, 0, 16, 0⟩

/-- PCR_POWER_LIMIT.ENABLE: R415. -/
def R.PCR_POWER_LIMIT_ENABLE : Fld := ⟨0x700018, 63, 1, 0⟩
/-- PCR_POWER_LIMIT.WINDOW_MS: averaging window, 1 to 1,000 ms. -/
def R.PCR_POWER_LIMIT_WINDOW_MS : Fld := ⟨0x700018, 32, 16, 10⟩
/-- PCR_POWER_LIMIT.LIMIT_W: 1,020 to 3,400, or 540 to 1,800. -/
def R.PCR_POWER_LIMIT_LIMIT_W : Fld := ⟨0x700018, 0, 16, 3400⟩

/-- PCR_GATE_CFG.TILE_IDLE_US: Table 15.8. -/
def R.PCR_GATE_CFG_TILE_IDLE_US : Fld := ⟨0x700020, 32, 32, 200⟩
/-- PCR_GATE_CFG.CORE_IDLE_US: Table 15.8. -/
def R.PCR_GATE_CFG_CORE_IDLE_US : Fld := ⟨0x700020, 0, 32, 50⟩

/-- PCR_TILE_AWAKE.AWAKE: bit t: tile t AWAKE. -/
def R.PCR_TILE_AWAKE_AWAKE : Fld := ⟨0x700028, 0, 32, 0⟩

/-- PCR_CLOCKS.RUNNING: bit n − 1: domain n of Table 15.7 running and locked. -/
def R.PCR_CLOCKS_RUNNING : Fld := ⟨0x700030, 0, 18, 3⟩

/-- PCR_LAST_TRIP.STATUS: ST_SUPPLY_FAULT, ST_THERMAL_TRIP, ST_CLOCK_FAULT, or 0. -/
def R.PCR_LAST_TRIP_STATUS : Fld := ⟨0x700038, 48, 16, 0⟩
/-- PCR_LAST_TRIP.CAUSE: 0 none; 1 input low; 2 input high; 3 rail; 4 always-on input; 5 thermal; 6 reference clock. -/
def R.PCR_LAST_TRIP_CAUSE : Fld := ⟨0x700038, 40, 8, 0⟩
/-- PCR_LAST_TRIP.SOURCE: rail index or sensor index. -/
def R.PCR_LAST_TRIP_SOURCE : Fld := ⟨0x700038, 32, 8, 0⟩
/-- PCR_LAST_TRIP.START_COUNT: BLD_BOOT.START_COUNT when the trip occurred. -/
def R.PCR_LAST_TRIP_START_COUNT : Fld := ⟨0x700038, 0, 32, 0⟩

/-- PCR_STATS.INPUT_WARNS: SUPPLY_WARN events. -/
def R.PCR_STATS_INPUT_WARNS : Fld := ⟨0x700040, 48, 16, 0⟩
/-- PCR_STATS.RAIL_WARNS: RAIL_WARN events. -/
def R.PCR_STATS_RAIL_WARNS : Fld := ⟨0x700040, 32, 16, 0⟩
/-- PCR_STATS.THERMAL_WARNS: THERMAL_WARN and THERMAL_CRIT events. -/
def R.PCR_STATS_THERMAL_WARNS : Fld := ⟨0x700040, 16, 16, 0⟩
/-- PCR_STATS.LIMIT_WINDOWS: windows that lowered the power-limit demand. -/
def R.PCR_STATS_LIMIT_WINDOWS : Fld := ⟨0x700040, 0, 16, 0⟩

/-- PCR_THROTTLE_TIME.US: µs with THROTTLE below 100. -/
def R.PCR_THROTTLE_TIME_US : Fld := ⟨0x700048, 0, 64, 0⟩

/-- PCR_RAIL.WARN: rail i in warning. -/
def R.PCR_RAIL_WARN (i : Nat) : Fld := ⟨0x700100 + 8 * i, 16, 1, 0⟩
/-- PCR_RAIL.MV: rail voltage, mV. -/
def R.PCR_RAIL_MV (i : Nat) : Fld := ⟨0x700100 + 8 * i, 0, 16, 0⟩

/-- PCR_TEMP.TEMP: signed 8.8 °C; 0x8000 for an absent, withdrawn or gated sensor. -/
def R.PCR_TEMP_TEMP (i : Nat) : Fld := ⟨0x700200 + 8 * i, 0, 16, 32768⟩

/-! ### Registers of Table 16.6 -/

/-- EVT_HEAD.NEXT_SEQ: number the next event takes. -/
def R.EVT_HEAD_NEXT_SEQ : Fld := ⟨0x800000, 0, 64, 0⟩

/-- EVT_OLDEST.OLDEST_SEQ: oldest entry held. -/
def R.EVT_OLDEST_OLDEST_SEQ : Fld := ⟨0x800008, 0, 64, 0⟩

/-- EVT_STATS.POSTED: events posted. -/
def R.EVT_STATS_POSTED : Fld := ⟨0x800010, 32, 32, 0⟩
/-- EVT_STATS.OVERWRITTEN: entries overwritten (R424). -/
def R.EVT_STATS_OVERWRITTEN : Fld := ⟨0x800010, 0, 32, 0⟩

/-- EVT_ECC_CFG.SCRUB_HOURS: patrol period (R431). -/
def R.EVT_ECC_CFG_SCRUB_HOURS : Fld := ⟨0x800018, 48, 16, 24⟩
/-- EVT_ECC_CFG.CE_THRESHOLD: corrections per window before MEM_CHANNEL_DEGRADED. -/
def R.EVT_ECC_CFG_CE_THRESHOLD : Fld := ⟨0x800018, 0, 32, 1000⟩

/-- EVT_ECC_STATS.CORRECTED: corrections, all memories. -/
def R.EVT_ECC_STATS_CORRECTED : Fld := ⟨0x800020, 32, 32, 0⟩
/-- EVT_ECC_STATS.UNCORRECTED: R432. -/
def R.EVT_ECC_STATS_UNCORRECTED : Fld := ⟨0x800020, 16, 16, 0⟩
/-- EVT_ECC_STATS.POISON_READS: ST_POISON_READ faults. -/
def R.EVT_ECC_STATS_POISON_READS : Fld := ⟨0x800020, 0, 16, 0⟩

/-- EVT_CLASS_STATS.POSTED: events of class k. -/
def R.EVT_CLASS_STATS_POSTED (i : Nat) : Fld := ⟨0x800100 + 8 * i, 32, 32, 0⟩

/-- EVT_ENTRY.WORD: word w of slot i, Table 16.1. -/
def R.EVT_ENTRY_WORD (i : Nat) : Fld := ⟨0xc00000 + 32 * (i / 4) + 8 * (i % 4), 0, 64, 0⟩

/-- The rows of Table 1.11. -/
def regRows01 : List RegRow := [
  ⟨"CAP_ID", 0x0, 1, 0, 1, 0, [⟨"FAMILY", 48, 16, .ro, 7⟩, ⟨"PART", 32, 16, .ro, 29696⟩, ⟨"STEPPING", 24, 8, .ro, 1⟩, ⟨"DESC_VERSION", 16, 8, .ro, 1⟩, ⟨"DESC_LENGTH", 0, 16, .ro, 64⟩]⟩,
  ⟨"CAP_NODE", 0x8, 1, 0, 1, 0, [⟨"NODE_VALID", 16, 1, .ro, 0⟩, ⟨"NODE_NUMBER", 0, 16, .ro, 0⟩]⟩,
  ⟨"CAP_TILES", 0x10, 1, 0, 1, 0, [⟨"TILE_PRESENT", 0, 32, .ro, 4294967295⟩]⟩,
  ⟨"CAP_COUNTS", 0x18, 1, 0, 1, 0, [⟨"LOGICAL_CORES", 40, 8, .ro, 128⟩, ⟨"TILES", 32, 8, .ro, 32⟩, ⟨"HBM_STACKS", 24, 8, .ro, 20⟩, ⟨"FABRIC_PORTS", 16, 8, .ro, 16⟩, ⟨"ROUTER_DIES", 8, 8, .ro, 4⟩, ⟨"HOST_PORTS", 0, 8, .ro, 1⟩]⟩,
  ⟨"CAP_HBM", 0x20, 1, 0, 1, 0, [⟨"HBM_CHANNELS", 32, 12, .ro, 640⟩, ⟨"HBM_MIB", 0, 32, .ro, 1966080⟩]⟩,
  ⟨"CAP_FEATURES", 0x28, 1, 0, 1, 0, [⟨"LINK_CRYPT", 8, 1, .ro, 0⟩, ⟨"LEARN_MATH", 7, 1, .ro, 0⟩, ⟨"STIPPLE", 6, 1, .ro, 0⟩, ⟨"MEZZOTINT", 5, 1, .ro, 0⟩, ⟨"ROLE_LEARN", 4, 1, .ro, 0⟩, ⟨"ROLE_SCORE", 3, 1, .ro, 0⟩, ⟨"ROLE_CACHE", 2, 1, .ro, 0⟩, ⟨"ROLE_GENERATION", 1, 1, .ro, 0⟩, ⟨"ROLE_PROMPT", 0, 1, .ro, 0⟩]⟩,
  ⟨"CAP_LIMITS", 0x30, 1, 0, 1, 0, [⟨"DELTA_SETS_MAX", 32, 13, .ro, 0⟩, ⟨"DOMAIN_MAX", 0, 17, .ro, 0⟩]⟩,
  ⟨"CAP_CHANGE", 0x38, 1, 0, 1, 0, [⟨"CHANGE_COUNT", 0, 32, .ro, 0⟩]⟩]

/-- The rows of Table 2.11. -/
def regRows02 : List RegRow := [
  ⟨"RSE_DEPUTY", 0x40000, 1, 0, 1, 0, [⟨"VALID", 32, 1, .rw, 0⟩, ⟨"BOUND", 16, 1, .ro, 0⟩, ⟨"NODE", 0, 16, .rw, 0⟩]⟩,
  ⟨"RSE_MIRROR_HOME", 0x40008, 1, 0, 1, 0, [⟨"VALID", 32, 1, .rw, 0⟩, ⟨"HOME", 0, 16, .rw, 0⟩]⟩,
  ⟨"RSE_TIMEOUTS", 0x40010, 1, 0, 1, 0, [⟨"PREPARE_US", 48, 16, .rw, 5000⟩, ⟨"COMMIT_US", 32, 16, .rw, 2000⟩, ⟨"PLACE_US", 16, 16, .rw, 1000⟩, ⟨"QUERY_RETRY_US", 0, 16, .rw, 200⟩]⟩,
  ⟨"RSE_TTL", 0x40018, 1, 0, 1, 0, [⟨"TTL_DEFAULT", 32, 32, .rw, 3600⟩, ⟨"TTL_MAX", 0, 32, .rw, 1048576⟩]⟩,
  ⟨"RSE_LIMITS", 0x40020, 1, 0, 1, 0, [⟨"RESTART_LIMIT", 48, 4, .rw, 3⟩, ⟨"TOMBSTONE_TICKS", 32, 16, .rw, 16⟩, ⟨"CLAIM_WINDOW", 16, 16, .rw, 2⟩]⟩,
  ⟨"RSE_ADOPT", 0x40028, 1, 0, 1, 0, [⟨"ADOPT", 63, 1, .w1s, 0⟩, ⟨"ADOPTED", 62, 1, .ro, 0⟩, ⟨"FORMER_HOME", 0, 16, .ro, 0⟩]⟩,
  ⟨"RSE_OCCUPANCY", 0x40030, 1, 0, 1, 0, [⟨"MIRRORS", 32, 21, .ro, 0⟩, ⟨"RECORDS", 0, 21, .ro, 0⟩]⟩,
  ⟨"RSE_MOVE_STATS", 0x40038, 1, 0, 1, 0, [⟨"COMMITTED", 32, 32, .rc, 0⟩, ⟨"ABORTED", 0, 32, .rc, 0⟩]⟩,
  ⟨"RSE_RECOVERY_STATS", 0x40040, 1, 0, 1, 0, [⟨"REPAIRS", 48, 16, .rc, 0⟩, ⟨"FAILURES", 32, 16, .rc, 0⟩, ⟨"RESTARTS", 16, 16, .rc, 0⟩, ⟨"RECOVERIES", 0, 16, .rc, 0⟩]⟩]

/-- The rows of Table 3.6. -/
def regRows03 : List RegRow := [
  ⟨"PGE_CTRL", 0x80000, 1, 0, 1, 0, [⟨"EVICTING", 1, 1, .ro, 0⟩, ⟨"ENABLE", 0, 1, .rw, 0⟩]⟩,
  ⟨"PGE_KV_POOL", 0x80008, 1, 0, 1, 0, [⟨"BASE", 32, 32, .rw, 0⟩, ⟨"LIMIT", 0, 32, .rw, 0⟩]⟩,
  ⟨"PGE_FREE_COUNT", 0x80010, 1, 0, 1, 0, [⟨"FREE_UNITS", 32, 27, .ro, 0⟩, ⟨"FREE_ENTRIES", 0, 26, .ro, 67108863⟩]⟩,
  ⟨"PGE_RESERVED", 0x80018, 1, 0, 1, 0, [⟨"RES_UNITS", 32, 27, .ro, 0⟩, ⟨"RES_ENTRIES", 0, 26, .ro, 0⟩]⟩,
  ⟨"PGE_WATERMARK", 0x80020, 1, 0, 1, 0, [⟨"HIGH", 32, 10, .rw, 100⟩, ⟨"LOW", 0, 10, .rw, 50⟩]⟩,
  ⟨"PGE_EVICT", 0x80028, 1, 0, 1, 0, [⟨"PAUSE_TIER", 62, 2, .rw, 1⟩, ⟨"PARK_TIER", 60, 2, .rw, 2⟩, ⟨"T1_HOLD_TICKS", 32, 16, .rw, 600⟩, ⟨"PREFIX_HOLD_TICKS", 16, 16, .rw, 60⟩, ⟨"OCHRE_MIN_TOKENS", 0, 16, .rw, 32768⟩]⟩,
  ⟨"PGE_TTL", 0x80030, 1, 0, 1, 0, [⟨"LEASE_TICKS", 32, 32, .rw, 64⟩, ⟨"GRACE_TICKS", 0, 32, .rw, 16⟩]⟩,
  ⟨"PGE_MIGRATE", 0x80038, 1, 0, 1, 0, [⟨"RATE_GBPS", 32, 16, .rw, 400⟩, ⟨"MAX_INFLIGHT", 0, 16, .rw, 256⟩]⟩,
  ⟨"PGE_OCHRE_CTRL", 0x80040, 1, 0, 1, 0, [⟨"COUNT", 0, 7, .rw, 0⟩]⟩,
  ⟨"PGE_ALLOC_STATS", 0x80048, 1, 0, 1, 0, [⟨"ALLOCS", 32, 32, .rc, 0⟩, ⟨"REFUSALS", 0, 32, .rc, 0⟩]⟩,
  ⟨"PGE_MIGRATE_STATS", 0x80050, 1, 0, 1, 0, [⟨"MIGRATED", 32, 32, .rc, 0⟩, ⟨"RETRIES", 16, 16, .rc, 0⟩, ⟨"LOST", 0, 16, .rc, 0⟩]⟩,
  ⟨"PGE_XLATE_STATS", 0x80058, 1, 0, 1, 0, [⟨"HITS", 32, 32, .rc, 0⟩, ⟨"MISSES", 0, 32, .rc, 0⟩]⟩,
  ⟨"PGE_MODEL", 0x81000, 256, 8, 1, 0, [⟨"MODEL_ID", 48, 16, .rw, 0⟩, ⟨"VALID", 47, 1, .rw, 0⟩, ⟨"PAGE_SIZE", 42, 2, .rw, 0⟩, ⟨"ELEMENT", 40, 2, .rw, 0⟩, ⟨"HEAD_DIM", 30, 10, .rw, 0⟩, ⟨"KV_HEADS", 22, 8, .rw, 0⟩, ⟨"LAYERS", 10, 12, .rw, 0⟩]⟩,
  ⟨"PGE_OCHRE", 0x82000, 64, 8, 1, 0, [⟨"NODE", 0, 16, .rw, 0⟩]⟩,
  ⟨"PGE_UMBER_CTRL", 0x83000, 16, 32, 1, 0, [⟨"DRAINED", 33, 1, .ro, 1⟩, ⟨"VALID", 32, 1, .rw, 0⟩, ⟨"QP", 0, 24, .rw, 0⟩]⟩,
  ⟨"PGE_UMBER_DATA", 0x83008, 16, 32, 1, 0, [⟨"DATA_ADDR", 0, 64, .rw, 0⟩]⟩,
  ⟨"PGE_UMBER_HDR", 0x83010, 16, 32, 1, 0, [⟨"HDR_ADDR", 0, 64, .rw, 0⟩]⟩,
  ⟨"PGE_UMBER_SIZE", 0x83018, 16, 32, 1, 0, [⟨"SLOTS", 32, 32, .rw, 0⟩, ⟨"RKEY", 0, 32, .rw, 0⟩]⟩]

/-- The rows of Table 4.6. -/
def regRows04 : List RegRow := [
  ⟨"MZT_CTRL", 0xc0000, 1, 0, 1, 0, [⟨"CONTEXT", 16, 12, .rw, 4095⟩, ⟨"BUSY", 1, 1, .ro, 0⟩, ⟨"SERVE", 0, 1, .rw, 0⟩]⟩,
  ⟨"MZT_CORES_LO", 0xc0008, 1, 0, 1, 0, [⟨"CORES", 0, 64, .rw, 0⟩]⟩,
  ⟨"MZT_CORES_HI", 0xc0010, 1, 0, 1, 0, [⟨"CORES", 0, 64, .rw, 0⟩]⟩,
  ⟨"MZT_SPREAD", 0xc0018, 1, 0, 1, 0, [⟨"SPAN_TOKENS", 0, 32, .rw, 32768⟩]⟩,
  ⟨"MZT_TIMEOUT", 0xc0020, 1, 0, 1, 0, [⟨"BUSY_LIMIT_US", 32, 32, .rw, 100000⟩, ⟨"PARTIAL_US", 16, 16, .rw, 2000⟩, ⟨"BUSY_RETRY_US", 0, 16, .rw, 20⟩]⟩,
  ⟨"MZT_LIMITS", 0xc0028, 1, 0, 1, 0, [⟨"QUEUE_DEPTH", 48, 16, .ro, 4096⟩, ⟨"MAX_OUTSTANDING", 32, 16, .ro, 16384⟩, ⟨"MAX_ROWS", 23, 9, .ro, 256⟩, ⟨"MAX_QHEADS", 14, 9, .ro, 256⟩, ⟨"MAX_HEAD_DIM", 5, 9, .ro, 256⟩]⟩,
  ⟨"MZT_QUEUE", 0xc0030, 1, 0, 1, 0, [⟨"LC_QUEUED", 32, 16, .ro, 0⟩, ⟨"BE_QUEUED", 16, 16, .ro, 0⟩, ⟨"OUTSTANDING", 0, 16, .ro, 0⟩]⟩,
  ⟨"MZT_SERVE_STATS", 0xc0038, 1, 0, 1, 0, [⟨"SERVED", 32, 32, .rc, 0⟩, ⟨"REFUSED", 0, 32, .rc, 0⟩]⟩,
  ⟨"MZT_BYTES", 0xc0040, 1, 0, 1, 0, [⟨"KV_BYTES", 0, 64, .rc, 0⟩]⟩,
  ⟨"MZT_CLIENT_STATS", 0xc0048, 1, 0, 1, 0, [⟨"SENT", 32, 32, .rc, 0⟩, ⟨"BUSY_RETRIES", 16, 16, .rc, 0⟩, ⟨"FAILURES", 0, 16, .rc, 0⟩]⟩,
  ⟨"MZT_ERR_STATS", 0xc0050, 1, 0, 1, 0, [⟨"CHECK_DROPS", 48, 16, .rc, 0⟩, ⟨"STALE", 32, 16, .rc, 0⟩, ⟨"LATE_PARTIALS", 16, 16, .rc, 0⟩, ⟨"MISSING", 0, 16, .rc, 0⟩]⟩]

/-- The rows of Table 5.15. -/
def regRows05 : List RegRow := [
  ⟨"CORE_STATUS", 0x1000000, 32, 1048576, 4, 4096, [⟨"CONTEXT", 34, 12, .ro, 4095⟩, ⟨"POWER", 32, 2, .ro, 0⟩, ⟨"PC", 0, 32, .ro, 0⟩]⟩,
  ⟨"CORE_FAULT", 0x1000008, 32, 1048576, 4, 4096, [⟨"STATUS", 48, 16, .ro, 0⟩, ⟨"OPCODE", 40, 8, .ro, 0⟩, ⟨"PC", 0, 32, .ro, 0⟩]⟩,
  ⟨"CORE_ARITH_FLAGS", 0x1000010, 32, 1048576, 4, 4096, [⟨"INT_SATURATED", 3, 1, .w1c, 0⟩, ⟨"SATURATED", 2, 1, .w1c, 0⟩, ⟨"INF_MADE", 1, 1, .w1c, 0⟩, ⟨"NAN_MADE", 0, 1, .w1c, 0⟩]⟩,
  ⟨"CORE_PHYS", 0x1000018, 32, 1048576, 4, 4096, [⟨"PHYS", 0, 3, .ro, 0⟩]⟩,
  ⟨"CORE_MATRIX_BUSY", 0x1000020, 32, 1048576, 4, 4096, [⟨"CLOCKS", 0, 64, .rc, 0⟩]⟩,
  ⟨"CORE_MATRIX_TILES", 0x1000028, 32, 1048576, 4, 4096, [⟨"TILE_OPS", 0, 64, .rc, 0⟩]⟩,
  ⟨"CORE_ROWS", 0x1000030, 32, 1048576, 4, 4096, [⟨"ROWS", 0, 64, .rc, 0⟩]⟩,
  ⟨"CORE_SQUASH", 0x1000038, 32, 1048576, 4, 4096, [⟨"SQUASHED", 0, 32, .rc, 0⟩]⟩]

/-- The rows of Table 6.8. -/
def regRows06 : List RegRow := [
  ⟨"EXP_CMD", 0x140000, 1, 0, 1, 0, [⟨"OP", 60, 4, .rw, 0⟩, ⟨"CONTEXT", 36, 12, .rw, 0⟩, ⟨"ID", 24, 12, .rw, 0⟩]⟩,
  ⟨"EXP_CMD_ADDR", 0x140008, 1, 0, 1, 0, [⟨"OFFSET", 0, 46, .rw, 0⟩]⟩,
  ⟨"EXP_CMD_STATUS", 0x140010, 1, 0, 1, 0, [⟨"BUSY", 32, 1, .ro, 0⟩, ⟨"STATUS", 0, 16, .ro, 0⟩]⟩,
  ⟨"EXP_TABLE_COUNT", 0x140018, 1, 0, 1, 0, [⟨"DROPPING", 32, 13, .ro, 0⟩, ⟨"LOADED", 0, 13, .ro, 1⟩]⟩,
  ⟨"EXP_DSET_COUNT", 0x140020, 1, 0, 1, 0, [⟨"DROPPING", 32, 13, .ro, 0⟩, ⟨"LOADED", 0, 13, .ro, 0⟩]⟩,
  ⟨"EXP_FAULT_STATS", 0x140028, 1, 0, 1, 0, [⟨"LENGTH", 48, 16, .rc, 0⟩, ⟨"CHECK", 32, 16, .rc, 0⟩, ⟨"CODE", 16, 16, .rc, 0⟩, ⟨"OTHER", 0, 16, .rc, 0⟩]⟩,
  ⟨"EXP_DELTA_STATS", 0x140030, 1, 0, 1, 0, [⟨"APPLIED", 32, 32, .rc, 0⟩, ⟨"INEXACT", 0, 32, .rc, 0⟩]⟩,
  ⟨"EXP_LAST_FAULT", 0x140038, 1, 0, 1, 0, [⟨"STATUS", 48, 16, .ro, 0⟩, ⟨"TABLE_ID", 36, 12, .ro, 0⟩, ⟨"LOGICAL_CORE", 29, 7, .ro, 0⟩, ⟨"BLOCK_ADDR", 0, 22, .ro, 0⟩]⟩,
  ⟨"EXP_INTAKE_STATS", 0x140040, 1, 0, 1, 0, [⟨"STALL_CLOCKS", 32, 32, .rc, 0⟩, ⟨"BLOCKS", 0, 32, .rc, 0⟩]⟩,
  ⟨"EXP_LAST_FAULT_KEY", 0x140048, 1, 0, 1, 0, [⟨"TILE_KEY", 0, 32, .ro, 0⟩]⟩,
  ⟨"EXP_TABLE", 0x141000, 1, 8, 1, 0, [⟨"STATE", 62, 2, .ro, 1⟩, ⟨"ELEMENT", 56, 4, .ro, 0⟩, ⟨"BINDS", 16, 13, .ro, 0⟩, ⟨"RESIDENT", 0, 8, .ro, 0⟩]⟩,
  ⟨"EXP_TABLE", 0x141008, 4095, 8, 1, 0, [⟨"STATE", 62, 2, .ro, 0⟩, ⟨"ELEMENT", 56, 4, .ro, 0⟩, ⟨"BINDS", 16, 13, .ro, 0⟩, ⟨"RESIDENT", 0, 8, .ro, 0⟩]⟩,
  ⟨"EXP_DSET_A", 0x149000, 4096, 16, 1, 0, [⟨"STATE", 62, 2, .ro, 0⟩, ⟨"BINDS", 45, 13, .ro, 0⟩, ⟨"MODEL_ID", 16, 16, .ro, 0⟩, ⟨"VARIANT_ID", 0, 16, .ro, 0⟩]⟩,
  ⟨"EXP_DSET_B", 0x149008, 4096, 16, 1, 0, [⟨"BASE", 0, 46, .ro, 0⟩]⟩]

/-- The rows of Table 7.8. -/
def regRows07 : List RegRow := [
  ⟨"SCH_CTRL", 0x100000, 1, 0, 1, 0, [⟨"PREFILL_COST", 48, 16, .rw, 256⟩, ⟨"MODE", 32, 2, .rw, 0⟩, ⟨"PREFILL_HELD", 1, 1, .ro, 0⟩, ⟨"ENABLE", 0, 1, .rw, 0⟩]⟩,
  ⟨"SCH_PLACE", 0x100008, 1, 0, 1, 0, [⟨"PLACE_INFLIGHT", 48, 16, .rw, 256⟩, ⟨"REFUSE_HOLD_US", 0, 32, .rw, 10000⟩]⟩,
  ⟨"SCH_BACKUP", 0x100010, 1, 0, 1, 0, [⟨"FACTOR", 32, 8, .rw, 12⟩, ⟨"MIN_US", 0, 32, .rw, 1000⟩]⟩,
  ⟨"SCH_CTX_CMD", 0x100018, 1, 0, 1, 0, [⟨"OP", 60, 4, .rw, 0⟩, ⟨"CONTEXT", 0, 12, .rw, 0⟩]⟩,
  ⟨"SCH_CTX_ADDR", 0x100020, 1, 0, 1, 0, [⟨"OFFSET", 0, 46, .rw, 0⟩]⟩,
  ⟨"SCH_CTX_STATUS", 0x100028, 1, 0, 1, 0, [⟨"BUSY", 32, 1, .ro, 0⟩, ⟨"STATUS", 0, 16, .ro, 0⟩]⟩,
  ⟨"SCH_ACTIVE", 0x100030, 1, 0, 1, 0, [⟨"ACTIVE_REQUESTS", 32, 15, .ro, 0⟩, ⟨"OPEN_CONTEXTS", 0, 13, .ro, 0⟩]⟩,
  ⟨"SCH_BATCH_STATS", 0x100038, 1, 0, 1, 0, [⟨"BATCHES", 32, 32, .rc, 0⟩, ⟨"BELOW_MIN", 0, 32, .rc, 0⟩]⟩,
  ⟨"SCH_ROWS", 0x100040, 1, 0, 1, 0, [⟨"ROWS", 0, 64, .rc, 0⟩]⟩,
  ⟨"SCH_PLACE_STATS", 0x100048, 1, 0, 1, 0, [⟨"PLACED", 32, 32, .rc, 0⟩, ⟨"REFUSED", 0, 32, .rc, 0⟩]⟩,
  ⟨"SCH_BACKUP_STATS", 0x100050, 1, 0, 1, 0, [⟨"STARTED", 32, 32, .rc, 0⟩, ⟨"WON", 0, 32, .rc, 0⟩]⟩,
  ⟨"SCH_CTX", 0x101000, 4096, 8, 1, 0, [⟨"STATE", 61, 3, .ro, 0⟩, ⟨"KIND", 59, 2, .ro, 0⟩, ⟨"COMP", 54, 5, .ro, 0⟩, ⟨"REQUESTS", 0, 21, .ro, 0⟩]⟩,
  ⟨"SCH_QUEUE_A", 0x109000, 4096, 16, 1, 0, [⟨"VALID", 63, 1, .rw, 0⟩, ⟨"CLASS", 62, 1, .rw, 0⟩, ⟨"TENANT", 32, 16, .rw, 0⟩, ⟨"QUANTUM", 0, 32, .rw, 0⟩]⟩,
  ⟨"SCH_QUEUE_B", 0x109008, 4096, 16, 1, 0, [⟨"STEP_DEFICIT", 32, 32, .ro, 0⟩, ⟨"PLACE_DEFICIT", 0, 32, .ro, 0⟩]⟩,
  ⟨"SCH_COMP_A", 0x119000, 1, 32, 1, 0, [⟨"VALID", 63, 1, .rw, 1⟩, ⟨"TENANT", 32, 16, .rw, 0⟩, ⟨"CORE_UNITS", 0, 32, .rw, 4294967295⟩]⟩,
  ⟨"SCH_COMP_A", 0x119020, 31, 32, 1, 0, [⟨"VALID", 63, 1, .rw, 0⟩, ⟨"TENANT", 32, 16, .rw, 0⟩, ⟨"CORE_UNITS", 0, 32, .rw, 0⟩]⟩,
  ⟨"SCH_COMP_B", 0x119008, 1, 32, 1, 0, [⟨"PORTS", 32, 16, .rw, 65535⟩, ⟨"HBM_UNITS", 0, 7, .rw, 80⟩]⟩,
  ⟨"SCH_COMP_B", 0x119028, 31, 32, 1, 0, [⟨"PORTS", 32, 16, .rw, 0⟩, ⟨"HBM_UNITS", 0, 7, .rw, 0⟩]⟩,
  ⟨"SCH_COMP_METER", 0x119010, 32, 32, 1, 0, [⟨"TICKS", 0, 64, .rc, 0⟩]⟩,
  ⟨"SCH_COMP_TOTAL", 0x119018, 32, 32, 1, 0, [⟨"TOTAL", 0, 64, .ro, 0⟩]⟩]

/-- The rows of Table 8.6. -/
def regRows08 : List RegRow := [
  ⟨"PHS_CTRL", 0x400000, 1, 0, 1, 0, [⟨"ADMITTING", 1, 1, .ro, 0⟩, ⟨"ADMIT", 0, 1, .rw, 0⟩]⟩,
  ⟨"PHS_PHASE", 0x400008, 1, 0, 1, 0, [⟨"STATE", 32, 8, .ro, 0⟩, ⟨"ROLE", 16, 3, .ro, 0⟩, ⟨"PHASE", 0, 2, .ro, 0⟩]⟩,
  ⟨"PHS_TURN", 0x400010, 1, 0, 1, 0, [⟨"GO", 63, 1, .w1s, 0⟩, ⟨"TARGET_PHASE", 61, 2, .rw, 0⟩, ⟨"TARGET_ROLE", 58, 3, .rw, 0⟩, ⟨"DISPOSE", 57, 1, .rw, 0⟩, ⟨"TARGET_VERSION", 0, 32, .rw, 0⟩]⟩,
  ⟨"PHS_TURN_CFG", 0x400018, 1, 0, 1, 0, [⟨"FINISH_US", 32, 32, .rw, 0⟩, ⟨"DRAIN_LIMIT_MS", 16, 16, .rw, 60000⟩, ⟨"HOLDER_QUIET_US", 0, 16, .rw, 10000⟩]⟩,
  ⟨"PHS_POLICY", 0x400020, 1, 0, 1, 0, [⟨"CURRENT", 32, 32, .ro, 0⟩, ⟨"STAGED", 0, 32, .rw, 0⟩]⟩,
  ⟨"PHS_FLOOR", 0x400028, 1, 0, 1, 0, [⟨"FLOOR", 0, 32, .rw, 0⟩]⟩,
  ⟨"PHS_VERSIONS", 0x400030, 1, 0, 1, 0, [⟨"FW_GENERATION", 48, 16, .ro, 0⟩, ⟨"RSR_FORMAT", 40, 8, .ro, 1⟩, ⟨"RSR_FORMAT_MIN", 32, 8, .ro, 1⟩, ⟨"PRAYR_MAX", 24, 8, .ro, 1⟩, ⟨"PRAYR_MIN", 16, 8, .ro, 1⟩, ⟨"LINK_PROTO", 8, 8, .ro, 1⟩, ⟨"MZT_FORMAT", 0, 8, .ro, 1⟩]⟩,
  ⟨"PHS_TURN_STATS", 0x400038, 1, 0, 1, 0, [⟨"TURNS", 48, 16, .rc, 0⟩, ⟨"FORCED", 32, 16, .rc, 0⟩, ⟨"PARKED", 0, 32, .rc, 0⟩]⟩,
  ⟨"PHS_REBASE_STATS", 0x400040, 1, 0, 1, 0, [⟨"REBASED", 32, 32, .rc, 0⟩, ⟨"VERSION_REFUSED", 0, 32, .rc, 0⟩]⟩,
  ⟨"PHS_LAST_TURN", 0x400048, 1, 0, 1, 0, [⟨"DURATION_US", 32, 32, .ro, 0⟩, ⟨"STATUS", 0, 16, .ro, 0⟩]⟩]

/-- The rows of Table 9.16. -/
def regRows09 : List RegRow := [
  ⟨"FAB_PORT_CFG", 0x200000, 4, 65536, 4, 64, [⟨"CRYPT", 6, 2, .rw, 0⟩, ⟨"AUTO_DEGRADE", 5, 1, .rw, 1⟩, ⟨"LANES4", 4, 1, .rw, 0⟩, ⟨"DRAIN", 3, 1, .rw, 0⟩, ⟨"MODE", 0, 2, .rw, 2⟩]⟩,
  ⟨"FAB_PORT_STATUS", 0x200008, 4, 65536, 4, 64, [⟨"LANES_UP", 8, 8, .ro, 0⟩, ⟨"ENCRYPTING", 7, 1, .ro, 0⟩, ⟨"PROTO", 4, 3, .ro, 0⟩, ⟨"STATE", 0, 4, .ro, 0⟩]⟩,
  ⟨"FAB_PORT_NBR_A", 0x200010, 4, 65536, 4, 64, [⟨"IDENTITY_TAG", 0, 64, .ro, 0⟩]⟩,
  ⟨"FAB_PORT_NBR_B", 0x200018, 4, 65536, 4, 64, [⟨"FW_GENERATION", 48, 16, .ro, 0⟩, ⟨"NODE_VALID", 32, 1, .ro, 0⟩, ⟨"PORT", 16, 16, .ro, 0⟩, ⟨"NODE", 0, 16, .ro, 0⟩]⟩,
  ⟨"FAB_PORT_ERR", 0x200020, 4, 65536, 4, 64, [⟨"FEC_CORRECTED", 32, 32, .rc, 0⟩, ⟨"REPLAYS", 16, 16, .rc, 0⟩, ⟨"UNCORRECTED", 8, 8, .rc, 0⟩, ⟨"AUTH", 0, 8, .rc, 0⟩]⟩,
  ⟨"FAB_PORT_TX", 0x200028, 4, 65536, 4, 64, [⟨"BYTES", 0, 64, .rc, 0⟩]⟩,
  ⟨"FAB_PORT_RX", 0x200030, 4, 65536, 4, 64, [⟨"BYTES", 0, 64, .rc, 0⟩]⟩,
  ⟨"FAB_DIE_STATS", 0x200400, 4, 65536, 1, 0, [⟨"HOP_DROPS", 48, 16, .rc, 0⟩, ⟨"NO_ROUTE_DROPS", 32, 16, .rc, 0⟩, ⟨"UNKNOWN_DROPS", 16, 16, .rc, 0⟩]⟩,
  ⟨"FAB_REGION_CACHE", 0x200408, 4, 65536, 1, 0, [⟨"HITS", 32, 32, .rc, 0⟩, ⟨"MISSES", 0, 32, .rc, 0⟩]⟩,
  ⟨"FAB_CTRL", 0x280000, 1, 0, 1, 0, [⟨"MAC_PREFIX", 32, 32, .rw, 38621696⟩, ⟨"ETHERTYPE", 16, 16, .rw, 34998⟩]⟩,
  ⟨"FAB_ASSIGN", 0x280008, 1, 0, 1, 0, [⟨"RELEASE", 63, 1, .w1s, 0⟩, ⟨"VALID", 16, 1, .ro, 0⟩, ⟨"NUMBER", 0, 16, .rw, 0⟩]⟩,
  ⟨"FAB_DOMAIN", 0x280010, 1, 0, 1, 0, [⟨"DOMAIN_ID", 0, 32, .rw, 0⟩]⟩,
  ⟨"FAB_TIMEOUT", 0x280018, 1, 0, 1, 0, [⟨"REMOTE_US", 48, 16, .rw, 50⟩, ⟨"COVER_HOLD_US", 32, 16, .rw, 40⟩, ⟨"ORETX_US", 16, 16, .rw, 5⟩, ⟨"ORETX_LIMIT", 8, 8, .rw, 8⟩, ⟨"PROBE_MS", 0, 8, .rw, 1⟩]⟩,
  ⟨"FAB_LINK_CFG", 0x280020, 1, 0, 1, 0, [⟨"LINK_TIMEOUT_US", 48, 16, .rw, 100⟩, ⟨"REPLAY_LIMIT", 40, 8, .rw, 8⟩, ⟨"HOP_LIMIT", 32, 8, .rw, 16⟩, ⟨"HELLO_US", 16, 16, .rw, 10⟩, ⟨"DETOUR_THRESHOLD", 0, 16, .rw, 64⟩]⟩,
  ⟨"FAB_VLAN", 0x280028, 1, 0, 1, 0, [⟨"ENABLE", 27, 1, .rw, 0⟩, ⟨"PCP_MGMT", 24, 3, .rw, 6⟩, ⟨"PCP_ORDERED", 20, 3, .rw, 5⟩, ⟨"PCP_SPRAYED", 16, 3, .rw, 4⟩, ⟨"VID", 0, 12, .rw, 0⟩]⟩,
  ⟨"FAB_RT_INDEX", 0x280030, 1, 0, 1, 0, [⟨"AUTO_INC", 16, 1, .rw, 0⟩, ⟨"INDEX", 0, 16, .rw, 0⟩]⟩,
  ⟨"FAB_RT_ENTRY", 0x280038, 1, 0, 1, 0, [⟨"ENTRY", 0, 64, .rw, 0⟩]⟩,
  ⟨"FAB_MANAGER", 0x280040, 4, 8, 1, 0, [⟨"VALID", 16, 1, .rw, 0⟩, ⟨"NODE", 0, 16, .rw, 0⟩]⟩,
  ⟨"FAB_REGION_BASE", 0x280060, 1, 0, 1, 0, [⟨"BASE", 0, 46, .rw, 0⟩]⟩,
  ⟨"FAB_POOL_KEY", 0x280068, 1, 0, 1, 0, [⟨"KEY", 0, 32, .rw, 0⟩]⟩,
  ⟨"FAB_REGION_CMD", 0x280070, 1, 0, 1, 0, [⟨"OP", 60, 4, .rw, 0⟩, ⟨"REGION", 0, 20, .rw, 0⟩]⟩,
  ⟨"FAB_REGION_ARG0", 0x280078, 1, 0, 1, 0, [⟨"WORD", 0, 64, .rw, 0⟩]⟩,
  ⟨"FAB_REGION_ARG1", 0x280080, 1, 0, 1, 0, [⟨"WORD", 0, 64, .rw, 0⟩]⟩,
  ⟨"FAB_REGION_ARG2", 0x280088, 1, 0, 1, 0, [⟨"WORD", 0, 64, .rw, 0⟩]⟩,
  ⟨"FAB_REGION_STATUS", 0x280090, 1, 0, 1, 0, [⟨"INVALIDATED", 33, 1, .ro, 0⟩, ⟨"BUSY", 32, 1, .ro, 0⟩, ⟨"INFLIGHT", 16, 16, .ro, 0⟩, ⟨"STATUS", 0, 16, .ro, 0⟩]⟩,
  ⟨"FAB_KEY_POLICY", 0x280098, 1, 0, 1, 0, [⟨"SPACE3_READ_ANY", 1, 1, .ro, 0⟩, ⟨"LOCK", 0, 1, .ro, 0⟩]⟩,
  ⟨"FAB_STATS", 0x2800a0, 1, 0, 1, 0, [⟨"KEY_REFUSALS", 32, 32, .rc, 0⟩, ⟨"TIMEOUTS", 16, 16, .rc, 0⟩, ⟨"LATE_RESPONSES", 0, 16, .rc, 0⟩]⟩,
  ⟨"FAB_ROUTES", 0x2800a8, 1, 0, 1, 0, [⟨"VALID_ROUTES", 0, 17, .ro, 0⟩]⟩,
  ⟨"FAB_PEER", 0x281000, 256, 8, 1, 0, [⟨"VALID", 63, 1, .rw, 0⟩, ⟨"STATE", 60, 3, .ro, 0⟩, ⟨"PORT", 16, 4, .rw, 0⟩, ⟨"NODE", 0, 16, .rw, 0⟩]⟩,
  ⟨"FAB_OUTKEY_A", 0x2a0000, 4096, 32, 1, 0, [⟨"VALID", 63, 1, .rw, 0⟩, ⟨"SPACE", 61, 2, .rw, 0⟩, ⟨"CONTEXT", 48, 12, .rw, 4095⟩, ⟨"DST_NODE", 32, 16, .rw, 0⟩, ⟨"KEY", 0, 32, .rw, 0⟩]⟩,
  ⟨"FAB_OUTKEY_B", 0x2a0008, 4096, 32, 1, 0, [⟨"BASE", 0, 46, .rw, 0⟩]⟩,
  ⟨"FAB_OUTKEY_C", 0x2a0010, 4096, 32, 1, 0, [⟨"LENGTH", 0, 46, .rw, 0⟩]⟩,
  ⟨"FAB_OUTKEY_D", 0x2a0018, 4096, 32, 1, 0, [⟨"REGION", 0, 20, .rw, 0⟩]⟩]

/-- The rows of Table 10.8. -/
def regRows10 : List RegRow := [
  ⟨"XFR_CFG", 0x300000, 1, 0, 1, 0, [⟨"MSG_TIMEOUT_US", 48, 16, .rw, 200⟩, ⟨"RETRY_LIMIT", 40, 8, .rw, 1⟩, ⟨"TAG_QUIET_US", 16, 16, .rw, 100⟩, ⟨"COLL_TIMEOUT_MS", 0, 16, .rw, 100⟩]⟩,
  ⟨"XFR_MSG_BASE", 0x300008, 1, 0, 1, 0, [⟨"VALID", 63, 1, .rw, 0⟩, ⟨"BASE", 0, 46, .rw, 0⟩]⟩,
  ⟨"XFR_SRC_STATS", 0x300010, 1, 0, 1, 0, [⟨"COMPLETED", 32, 32, .rc, 0⟩, ⟨"FAILED", 16, 16, .rc, 0⟩, ⟨"RETRIES", 0, 16, .rc, 0⟩]⟩,
  ⟨"XFR_DEST_STATS", 0x300018, 1, 0, 1, 0, [⟨"MESSAGES", 32, 32, .rc, 0⟩, ⟨"DUPLICATES", 16, 16, .rc, 0⟩, ⟨"ABANDONED", 0, 16, .rc, 0⟩]⟩,
  ⟨"XFR_INFLIGHT", 0x300020, 1, 0, 1, 0, [⟨"REQUESTS", 32, 14, .ro, 0⟩, ⟨"RECORDS", 0, 17, .ro, 0⟩]⟩,
  ⟨"XFR_Q_A", 0x301000, 1024, 32, 1, 0, [⟨"VALID", 63, 1, .rw, 0⟩, ⟨"ERROR", 62, 1, .ro, 0⟩, ⟨"BUSY", 61, 1, .ro, 0⟩, ⟨"CONTEXT", 49, 12, .rw, 4095⟩, ⟨"RING", 0, 46, .rw, 0⟩]⟩,
  ⟨"XFR_Q_B", 0x301008, 1024, 32, 1, 0, [⟨"GATE_Q", 54, 10, .rw, 0⟩, ⟨"POST_TILE", 49, 5, .rw, 0⟩, ⟨"POST_CTR", 33, 16, .rw, 0⟩, ⟨"DEPTH_LOG2", 28, 5, .rw, 4⟩, ⟨"INFLIGHT_MAX", 16, 7, .rw, 16⟩, ⟨"ERROR_STATUS", 0, 16, .ro, 0⟩]⟩,
  ⟨"XFR_Q_C", 0x301010, 1024, 32, 1, 0, [⟨"COMPLETED", 0, 64, .ro, 0⟩]⟩,
  ⟨"XFR_Q_D", 0x301018, 1024, 32, 1, 0, [⟨"POSTED", 0, 64, .rw, 0⟩]⟩,
  ⟨"XFR_GROUP_A", 0x30a000, 256, 64, 1, 0, [⟨"VALID", 63, 1, .rw, 0⟩, ⟨"ROOT", 62, 1, .rw, 0⟩, ⟨"DIE", 60, 2, .rw, 0⟩, ⟨"ACC_FMT", 59, 1, .rw, 0⟩, ⟨"WIRE_FMT", 58, 1, .rw, 0⟩, ⟨"ROUND", 56, 2, .rw, 0⟩, ⟨"RES_FMT", 55, 1, .rw, 0⟩, ⟨"CHILD_COUNT", 50, 5, .rw, 0⟩, ⟨"WINDOW", 41, 9, .rw, 64⟩, ⟨"PARENT", 0, 16, .rw, 0⟩]⟩,
  ⟨"XFR_GROUP_CHILD", 0x30a008, 256, 64, 4, 8, [⟨"CHILDREN", 0, 64, .rw, 0⟩]⟩,
  ⟨"XFR_GROUP_STATUS", 0x30a028, 256, 64, 1, 0, [⟨"CURRENT_OP", 32, 16, .ro, 0⟩, ⟨"LAST_STATUS", 0, 16, .ro, 0⟩]⟩,
  ⟨"XFR_GROUP_STATS", 0x30a030, 256, 64, 1, 0, [⟨"CHUNKS", 32, 32, .rc, 0⟩, ⟨"DUPLICATES", 0, 32, .rc, 0⟩]⟩]

/-- The rows of Table 11.6. -/
def regRows11 : List RegRow := [
  ⟨"SYN_CFG", 0x180000, 1, 0, 1, 0, [⟨"WAIT_LIMIT_MS", 32, 32, .rw, 0⟩, ⟨"GATE_AFTER_US", 0, 16, .rw, 20⟩]⟩,
  ⟨"SYN_CTR_SEL", 0x180008, 1, 0, 1, 0, [⟨"TILE", 16, 5, .rw, 0⟩, ⟨"COUNTER", 0, 16, .rw, 0⟩]⟩,
  ⟨"SYN_CTR_DATA", 0x180010, 1, 0, 1, 0, [⟨"VALUE", 0, 40, .rw, 0⟩]⟩,
  ⟨"SYN_CTR_META", 0x180018, 1, 0, 1, 0, [⟨"OWNER", 52, 12, .ro, 4095⟩, ⟨"EXCLUDED", 51, 1, .ro, 0⟩, ⟨"SNAP", 0, 40, .ro, 0⟩]⟩,
  ⟨"SYN_BAR_CMD", 0x180020, 1, 0, 1, 0, [⟨"OP", 60, 4, .rw, 0⟩, ⟨"BARRIER", 0, 12, .rw, 0⟩]⟩,
  ⟨"SYN_BAR_ARG0", 0x180028, 1, 0, 1, 0, [⟨"PARTICIPANTS", 48, 16, .rw, 0⟩, ⟨"ROUND", 32, 16, .rw, 0⟩, ⟨"MEMBER_COUNT", 0, 13, .rw, 0⟩]⟩,
  ⟨"SYN_BAR_ARG1", 0x180030, 1, 0, 1, 0, [⟨"MEMBERS", 0, 46, .rw, 0⟩]⟩,
  ⟨"SYN_BAR_STATUS", 0x180038, 1, 0, 1, 0, [⟨"BUSY", 32, 1, .ro, 0⟩, ⟨"STATUS", 0, 16, .ro, 0⟩]⟩,
  ⟨"SYN_WAIT_STATS", 0x180040, 1, 0, 1, 0, [⟨"WAITS", 32, 32, .rc, 0⟩, ⟨"TIMEOUTS", 16, 16, .rc, 0⟩, ⟨"SQUASHED", 0, 16, .rc, 0⟩]⟩,
  ⟨"SYN_BAR_STATS", 0x180048, 1, 0, 1, 0, [⟨"ROUNDS", 32, 32, .rc, 0⟩, ⟨"EARLY", 16, 16, .rc, 0⟩, ⟨"REFUSED", 0, 16, .rc, 0⟩]⟩,
  ⟨"SYN_RESIDUE_STATS", 0x180050, 1, 0, 1, 0, [⟨"CHECKED", 32, 32, .rc, 0⟩, ⟨"MISMATCHED", 0, 32, .rc, 0⟩]⟩,
  ⟨"SYN_BAR_A", 0x190000, 4096, 32, 1, 0, [⟨"STATE", 62, 2, .ro, 0⟩, ⟨"OWNER", 50, 12, .ro, 4095⟩, ⟨"ROUND", 32, 16, .ro, 0⟩, ⟨"PARTICIPANTS", 16, 16, .ro, 0⟩, ⟨"ARRIVED", 0, 16, .ro, 0⟩]⟩,
  ⟨"SYN_BAR_B", 0x190008, 4096, 32, 1, 0, [⟨"EARLY", 48, 16, .ro, 0⟩, ⟨"ACKS_PENDING", 22, 13, .ro, 0⟩, ⟨"MEMBER_COUNT", 0, 13, .ro, 0⟩]⟩,
  ⟨"SYN_BAR_C", 0x190010, 4096, 32, 1, 0, [⟨"MEMBERS", 0, 46, .ro, 0⟩]⟩,
  ⟨"SYN_BAR_D", 0x190018, 4096, 32, 1, 0, [⟨"COMPLETED", 0, 64, .ro, 0⟩]⟩]

/-- The rows of Table 12.11 and 12.12. -/
def regRows12 : List RegRow := [
  ⟨"HCP_PORT_CFG", 0x10000, 1, 0, 1, 0, [⟨"VID", 40, 12, .rw, 0⟩, ⟨"VLAN_EN", 39, 1, .rw, 0⟩, ⟨"MTU", 0, 16, .rw, 1500⟩]⟩,
  ⟨"HCP_PORT_STATUS", 0x10008, 1, 0, 1, 0, [⟨"LANES_UP", 8, 8, .ro, 0⟩, ⟨"STATE", 0, 2, .ro, 0⟩]⟩,
  ⟨"HCP_MAC", 0x10010, 1, 0, 1, 0, [⟨"MAC", 0, 48, .ro, 0⟩]⟩,
  ⟨"HCP_IPV4", 0x10018, 1, 0, 1, 0, [⟨"PREFIX_LEN", 32, 8, .rw, 0⟩, ⟨"ADDR", 0, 32, .rw, 0⟩]⟩,
  ⟨"HCP_IPV4_GW", 0x10020, 1, 0, 1, 0, [⟨"GW", 0, 32, .rw, 0⟩]⟩,
  ⟨"HCP_IPV6_HI", 0x10028, 1, 0, 1, 0, [⟨"ADDR", 0, 64, .rw, 0⟩]⟩,
  ⟨"HCP_IPV6_LO", 0x10030, 1, 0, 1, 0, [⟨"ADDR", 0, 64, .rw, 0⟩]⟩,
  ⟨"HCP_IPV6_GW_HI", 0x10038, 1, 0, 1, 0, [⟨"GW", 0, 64, .rw, 0⟩]⟩,
  ⟨"HCP_IPV6_GW_LO", 0x10040, 1, 0, 1, 0, [⟨"GW", 0, 64, .rw, 0⟩]⟩,
  ⟨"HCP_IPV6_CFG", 0x10048, 1, 0, 1, 0, [⟨"PREFIX_LEN", 0, 8, .rw, 0⟩]⟩,
  ⟨"HCP_PRAYR", 0x10050, 1, 0, 1, 0, [⟨"DSCP_ROCE", 40, 6, .rw, 26⟩, ⟨"DSCP_PRAYR", 32, 6, .rw, 0⟩, ⟨"REPLY_HOLD_MS", 16, 16, .rw, 2000⟩, ⟨"UDP_PORT", 0, 16, .rw, 47213⟩]⟩,
  ⟨"HCP_TOKEN_CFG", 0x10058, 1, 0, 1, 0, [⟨"ACK_MODE", 32, 1, .rw, 0⟩, ⟨"RETX_US", 16, 16, .rw, 200⟩, ⟨"RETX_LIMIT", 0, 8, .rw, 16⟩]⟩,
  ⟨"HCP_EVENT_DEST", 0x10060, 1, 0, 1, 0, [⟨"ENABLE", 63, 1, .rw, 0⟩, ⟨"MIN_SEVERITY", 16, 4, .rw, 0⟩, ⟨"PORT", 0, 16, .rw, 0⟩]⟩,
  ⟨"HCP_EVENT_ADDR_HI", 0x10068, 1, 0, 1, 0, [⟨"ADDR", 0, 64, .rw, 0⟩]⟩,
  ⟨"HCP_EVENT_ADDR_LO", 0x10070, 1, 0, 1, 0, [⟨"ADDR", 0, 64, .rw, 0⟩]⟩,
  ⟨"HCP_QUEUE", 0x10078, 1, 0, 1, 0, [⟨"FAST_DEPTH", 48, 16, .ro, 16384⟩, ⟨"FAST_USED", 32, 16, .ro, 0⟩, ⟨"FW_DEPTH", 16, 16, .ro, 1024⟩, ⟨"FW_USED", 0, 16, .ro, 0⟩]⟩,
  ⟨"HCP_STATS", 0x10080, 1, 0, 1, 0, [⟨"COMMANDS", 32, 32, .rc, 0⟩, ⟨"DUPLICATES", 16, 16, .rc, 0⟩, ⟨"CHECK_DROPS", 0, 16, .rc, 0⟩]⟩,
  ⟨"HCP_DROP_STATS", 0x10088, 1, 0, 1, 0, [⟨"NO_HOST", 48, 16, .rc, 0⟩, ⟨"BUSY", 32, 16, .rc, 0⟩, ⟨"TOKEN_RETX", 16, 16, .rc, 0⟩, ⟨"TOKEN_DROPPED", 0, 16, .rc, 0⟩]⟩,
  ⟨"HCP_QP_SEL", 0x10090, 1, 0, 1, 0, [⟨"INDEX", 0, 14, .rw, 0⟩]⟩,
  ⟨"HCP_QP_STATUS", 0x10098, 1, 0, 1, 0, [⟨"STATE", 62, 2, .ro, 0⟩, ⟨"REMOTE_QPN", 24, 24, .ro, 0⟩, ⟨"SYNDROME", 16, 8, .ro, 0⟩, ⟨"LAST_STATUS", 0, 16, .ro, 0⟩]⟩,
  ⟨"HCP_HOST_A", 0x11000, 16, 32, 1, 0, [⟨"VALID", 63, 1, .rw, 0⟩, ⟨"ADMIN", 62, 1, .rw, 0⟩, ⟨"TENANT_HI", 16, 16, .rw, 0⟩, ⟨"TENANT_LO", 0, 16, .rw, 0⟩]⟩,
  ⟨"HCP_HOST_B", 0x11008, 16, 32, 1, 0, [⟨"ADDR", 0, 64, .rw, 0⟩]⟩,
  ⟨"HCP_HOST_C", 0x11010, 16, 32, 1, 0, [⟨"ADDR", 0, 64, .rw, 0⟩]⟩,
  ⟨"HCP_HOST_D", 0x11018, 16, 32, 1, 0, [⟨"PREFIX_LEN", 0, 8, .rw, 0⟩]⟩,
  ⟨"HCP_WINDOW_A", 0x12000, 64, 32, 1, 0, [⟨"VALID", 63, 1, .rw, 0⟩, ⟨"PERM_R", 62, 1, .rw, 0⟩, ⟨"PERM_W", 61, 1, .rw, 0⟩, ⟨"BUSY", 60, 1, .ro, 0⟩, ⟨"BASE", 0, 46, .rw, 0⟩]⟩,
  ⟨"HCP_WINDOW_B", 0x12008, 64, 32, 1, 0, [⟨"RKEY", 32, 32, .rw, 0⟩]⟩,
  ⟨"HCP_WINDOW_C", 0x12010, 64, 32, 1, 0, [⟨"LENGTH", 0, 46, .rw, 0⟩]⟩,
  ⟨"HCP_WINDOW_D", 0x12018, 64, 32, 1, 0, [⟨"BYTES", 0, 64, .rc, 0⟩]⟩,
  ⟨"TRF_CFG", 0x20000, 1, 0, 1, 0, [⟨"POLICE_EVENT_MS", 32, 16, .rw, 1000⟩, ⟨"FAST_YELLOW", 16, 16, .rw, 8192⟩, ⟨"FW_YELLOW", 0, 16, .rw, 512⟩]⟩,
  ⟨"TRF_METER_SEL", 0x20008, 1, 0, 1, 0, [⟨"TENANT", 0, 16, .rw, 0⟩]⟩,
  ⟨"TRF_METER_A", 0x20010, 1, 0, 1, 0, [⟨"PIR", 32, 32, .rw, 0⟩, ⟨"CIR", 0, 32, .rw, 0⟩]⟩,
  ⟨"TRF_METER_B", 0x20018, 1, 0, 1, 0, [⟨"ENABLE", 63, 1, .rw, 0⟩, ⟨"MODE", 62, 1, .rw, 0⟩, ⟨"PBS", 24, 24, .rw, 0⟩, ⟨"CBS", 0, 24, .rw, 0⟩]⟩,
  ⟨"TRF_METER_C", 0x20020, 1, 0, 1, 0, [⟨"GREEN", 32, 32, .rc, 0⟩, ⟨"YELLOW", 0, 32, .rc, 0⟩]⟩,
  ⟨"TRF_METER_D", 0x20028, 1, 0, 1, 0, [⟨"RED", 32, 32, .rc, 0⟩, ⟨"YELLOW_DROPPED", 0, 32, .rc, 0⟩]⟩,
  ⟨"TRF_METER_ALL", 0x20030, 1, 0, 1, 0, [⟨"RED", 32, 32, .rc, 0⟩, ⟨"POLICE_EVENTS", 0, 32, .rc, 0⟩]⟩,
  ⟨"TRF_HSHAPE", 0x20100, 4, 8, 1, 0, [⟨"ENABLE", 63, 1, .rw, 0⟩, ⟨"BURST_KIB", 32, 24, .rw, 64⟩, ⟨"RATE_MBPS", 0, 32, .rw, 1600000⟩]⟩,
  ⟨"TRF_FSHAPE", 0x20200, 32, 8, 1, 0, [⟨"ENABLE", 63, 1, .rw, 1⟩, ⟨"BURST_KIB", 32, 24, .rw, 1024⟩, ⟨"RATE_GBPS", 0, 32, .rw, 0⟩]⟩]

/-- The rows of Table 13.9. -/
def regRows13 : List RegRow := [
  ⟨"BLD_BOOT", 0x500000, 1, 0, 1, 0, [⟨"STAGE", 56, 8, .ro, 0⟩, ⟨"LAST_RESET", 48, 8, .ro, 0⟩, ⟨"BOOT_STATUS", 32, 16, .ro, 0⟩, ⟨"START_COUNT", 0, 32, .ro, 0⟩]⟩,
  ⟨"BLD_READY", 0x500008, 1, 0, 1, 0, [⟨"READY_MS", 0, 32, .ro, 0⟩]⟩,
  ⟨"BLD_SERVICE", 0x500010, 1, 0, 1, 0, [⟨"OFFLINE", 32, 32, .ro, 0⟩, ⟨"WITHDRAWN", 0, 32, .ro, 0⟩]⟩,
  ⟨"BLD_HBM", 0x500018, 1, 0, 1, 0, [⟨"RETIRED", 32, 12, .ro, 0⟩, ⟨"RETIRING", 0, 1, .ro, 0⟩]⟩,
  ⟨"BLD_DEFECT", 0x500020, 1, 0, 1, 0, [⟨"OVERFLOW", 32, 32, .ro, 0⟩, ⟨"COUNT", 0, 13, .ro, 0⟩]⟩,
  ⟨"BLD_LIC", 0x500028, 1, 0, 1, 0, [⟨"COUNT", 0, 7, .ro, 0⟩]⟩,
  ⟨"BLD_IMG", 0x500100, 16, 8, 1, 0, [⟨"ACTIVE", 63, 1, .ro, 0⟩, ⟨"PENDING", 62, 1, .ro, 0⟩, ⟨"FELL_BACK", 61, 1, .ro, 0⟩, ⟨"GEN_A", 32, 16, .ro, 0⟩, ⟨"GEN_B", 16, 16, .ro, 0⟩]⟩,
  ⟨"BLD_BCAST_A", 0x501000, 16, 32, 1, 0, [⟨"STATE", 62, 2, .ro, 0⟩, ⟨"KIND", 60, 2, .ro, 0⟩, ⟨"SESSION", 16, 16, .ro, 0⟩, ⟨"PARENT", 0, 16, .ro, 0⟩]⟩,
  ⟨"BLD_BCAST_B", 0x501008, 16, 32, 1, 0, [⟨"CHUNKS", 32, 32, .ro, 0⟩, ⟨"HELD", 0, 32, .ro, 0⟩]⟩,
  ⟨"BLD_BCAST_C", 0x501010, 16, 32, 1, 0, [⟨"REPAIRS", 48, 16, .ro, 0⟩, ⟨"CRC_FAILS", 32, 16, .ro, 0⟩, ⟨"STATUS", 0, 16, .ro, 0⟩]⟩]

/-- The rows of Table 14.8. -/
def regRows14 : List RegRow := [
  ⟨"SEC_STATE", 0x600000, 1, 0, 1, 0, [⟨"APPROVERS", 8, 5, .ro, 0⟩, ⟨"SEALED", 7, 1, .ro, 0⟩, ⟨"HOST_LOCK", 6, 1, .ro, 0⟩, ⟨"DEBUG_STICKY", 5, 1, .ro, 0⟩, ⟨"IDENTITY_VALID", 4, 1, .ro, 0⟩]⟩,
  ⟨"SEC_APPROVAL_CFG", 0x600008, 1, 0, 1, 0, [⟨"REKEY_TICKS", 32, 32, .ro, 0⟩, ⟨"WINDOW_TICKS", 0, 16, .ro, 256⟩]⟩,
  ⟨"SEC_DEBUG", 0x600010, 1, 0, 1, 0, [⟨"REMAINING_TICKS", 32, 32, .ro, 0⟩, ⟨"SCAN", 1, 1, .ro, 0⟩, ⟨"TRACE", 0, 1, .ro, 0⟩]⟩,
  ⟨"SEC_STATS", 0x600018, 1, 0, 1, 0, [⟨"APPROVALS", 48, 16, .rc, 0⟩, ⟨"REFUSED", 32, 16, .rc, 0⟩, ⟨"EXPIRED", 16, 16, .rc, 0⟩, ⟨"EXECUTED", 8, 8, .rc, 0⟩, ⟨"REKEYS", 0, 8, .rc, 0⟩]⟩,
  ⟨"SEC_REPORT_SEQ", 0x600020, 1, 0, 1, 0, [⟨"SEQ", 0, 64, .ro, 0⟩]⟩,
  ⟨"SEC_SET_A", 0x600100, 4, 16, 1, 0, [⟨"STATE", 62, 2, .ro, 0⟩, ⟨"APPROVED_BY", 40, 16, .ro, 0⟩, ⟨"OPCODE", 32, 8, .ro, 0⟩, ⟨"DEADLINE", 0, 32, .ro, 0⟩]⟩,
  ⟨"SEC_SET_B", 0x600108, 4, 16, 1, 0, [⟨"DIGEST_TAG", 0, 64, .ro, 0⟩]⟩,
  ⟨"SEC_APPROVER", 0x600200, 16, 8, 1, 0, [⟨"KEY_TAG", 0, 64, .ro, 0⟩]⟩,
  ⟨"SEC_REPORT", 0x601000, 120, 8, 1, 0, [⟨"WORD", 0, 64, .ro, 0⟩]⟩]

/-- The rows of Table 15.10. -/
def regRows15 : List RegRow := [
  ⟨"PCR_STATUS", 0x700000, 1, 0, 1, 0, [⟨"THROTTLE", 32, 8, .ro, 100⟩, ⟨"LIMITING", 5, 1, .ro, 0⟩, ⟨"THERM_CRIT", 4, 1, .ro, 0⟩, ⟨"THERM_WARN", 3, 1, .ro, 0⟩, ⟨"RAIL_WARN", 2, 1, .ro, 0⟩, ⟨"INPUT_WARN", 1, 1, .ro, 0⟩, ⟨"PWR_WARN", 0, 1, .ro, 0⟩]⟩,
  ⟨"PCR_SUPPLY", 0x700008, 1, 0, 1, 0, [⟨"AON_MV", 48, 16, .ro, 0⟩, ⟨"POWER_W", 32, 16, .ro, 0⟩, ⟨"INPUT_MV", 0, 16, .ro, 0⟩]⟩,
  ⟨"PCR_THERMAL", 0x700010, 1, 0, 1, 0, [⟨"HOTTEST", 16, 6, .ro, 0⟩, ⟨"TJ_MAX", 0, 16, .ro, 0⟩]⟩,
  ⟨"PCR_POWER_LIMIT", 0x700018, 1, 0, 1, 0, [⟨"ENABLE", 63, 1, .rw, 0⟩, ⟨"WINDOW_MS", 32, 16, .rw, 10⟩, ⟨"LIMIT_W", 0, 16, .rw, 3400⟩]⟩,
  ⟨"PCR_GATE_CFG", 0x700020, 1, 0, 1, 0, [⟨"TILE_IDLE_US", 32, 32, .rw, 200⟩, ⟨"CORE_IDLE_US", 0, 32, .rw, 50⟩]⟩,
  ⟨"PCR_TILE_AWAKE", 0x700028, 1, 0, 1, 0, [⟨"AWAKE", 0, 32, .ro, 0⟩]⟩,
  ⟨"PCR_CLOCKS", 0x700030, 1, 0, 1, 0, [⟨"RUNNING", 0, 18, .ro, 3⟩]⟩,
  ⟨"PCR_LAST_TRIP", 0x700038, 1, 0, 1, 0, [⟨"STATUS", 48, 16, .ro, 0⟩, ⟨"CAUSE", 40, 8, .ro, 0⟩, ⟨"SOURCE", 32, 8, .ro, 0⟩, ⟨"START_COUNT", 0, 32, .ro, 0⟩]⟩,
  ⟨"PCR_STATS", 0x700040, 1, 0, 1, 0, [⟨"INPUT_WARNS", 48, 16, .rc, 0⟩, ⟨"RAIL_WARNS", 32, 16, .rc, 0⟩, ⟨"THERMAL_WARNS", 16, 16, .rc, 0⟩, ⟨"LIMIT_WINDOWS", 0, 16, .rc, 0⟩]⟩,
  ⟨"PCR_THROTTLE_TIME", 0x700048, 1, 0, 1, 0, [⟨"US", 0, 64, .rc, 0⟩]⟩,
  ⟨"PCR_RAIL", 0x700100, 9, 8, 1, 0, [⟨"WARN", 16, 1, .ro, 0⟩, ⟨"MV", 0, 16, .ro, 0⟩]⟩,
  ⟨"PCR_TEMP", 0x700200, 60, 8, 1, 0, [⟨"TEMP", 0, 16, .ro, 32768⟩]⟩]

/-- The rows of Table 16.6. -/
def regRows16 : List RegRow := [
  ⟨"EVT_HEAD", 0x800000, 1, 0, 1, 0, [⟨"NEXT_SEQ", 0, 64, .ro, 0⟩]⟩,
  ⟨"EVT_OLDEST", 0x800008, 1, 0, 1, 0, [⟨"OLDEST_SEQ", 0, 64, .ro, 0⟩]⟩,
  ⟨"EVT_STATS", 0x800010, 1, 0, 1, 0, [⟨"POSTED", 32, 32, .rc, 0⟩, ⟨"OVERWRITTEN", 0, 32, .rc, 0⟩]⟩,
  ⟨"EVT_ECC_CFG", 0x800018, 1, 0, 1, 0, [⟨"SCRUB_HOURS", 48, 16, .rw, 24⟩, ⟨"CE_THRESHOLD", 0, 32, .rw, 1000⟩]⟩,
  ⟨"EVT_ECC_STATS", 0x800020, 1, 0, 1, 0, [⟨"CORRECTED", 32, 32, .rc, 0⟩, ⟨"UNCORRECTED", 16, 16, .rc, 0⟩, ⟨"POISON_READS", 0, 16, .rc, 0⟩]⟩,
  ⟨"EVT_CLASS_STATS", 0x800100, 10, 8, 1, 0, [⟨"POSTED", 32, 32, .rc, 0⟩]⟩,
  ⟨"EVT_ENTRY", 0xc00000, 65536, 32, 4, 8, [⟨"WORD", 0, 64, .ro, 0⟩]⟩]

/-- Every register of the control space. -/
def regTable : List RegRow :=
  regRows01 ++ regRows02 ++ regRows03 ++ regRows04 ++ regRows05 ++ regRows06 ++ regRows07 ++ regRows08 ++ regRows09 ++ regRows10 ++ regRows11 ++ regRows12 ++ regRows13 ++ regRows14 ++ regRows15 ++ regRows16

end Sys2Proof.Machine
end

