-- ==== Sys2Proof/Machine/State.lean ====
section
/-! DEFINITION. The state of one node: every register, memory, queue and engine state the spec gives it, the queue of
commands waiting, and the state right after reset. -/

namespace Sys2Proof.Machine

/-- Why a command stops the machine: no command does.  Every access the spec refuses completes with a status, and
every failure it describes is a next state. -/
inductive Fault where
  deriving DecidableEq, Repr

/-- Why a command has no meaning. -/
inductive Refusal where
  /-- Raised by `exec` for a row whose meaning is not written; safe: nothing is claimed of it. -/
  | notModelled (mnemonic : String)
  deriving DecidableEq, Repr

/-- What the node sends: a frame on a link (with its Ethernet header, its hop part and the frame counter it was encrypted under), a
link-control frame, a packet of the host port, bytes of the I3C target, or bits of the test access port. -/
inductive Out where
  | frame (link : LinkId) (eth : Eth) (hop : Hop) (counter : Option Nat) (f : Frame)
  | control (link : LinkId) (eth : Eth) (hop : Hop) (c : LinkControl)
  /-- A packet of the host port: the VID of its tag, and the address its frame goes to. -/
  | host (vlan : Option Nat) (hop : Nat) (o : HostOut)
  | i3c (data : List Byte)
  | tap (i : TapInstr) (value : Nat)
  deriving DecidableEq, Repr

/-- A phase turn's progress beside the PHS registers (chapter 8). -/
structure Phs where
  /-- AON cycle of the turn's acceptance. -/
  acceptedAt : Nat
  forced : Bool
  /-- AON cycle of the last query or KV_WRITE served as a holder (R216). -/
  holderAt : Nat
  /-- PHS_TURN_CFG.HOLDER_QUIET_US as the turn was accepted (R230). -/
  quietUs : Nat
  deriving DecidableEq, Repr

/-- The state of a node. -/
structure State where
  /-- NLP-7200 rather than NLP-7400. -/
  small : Bool
  /-- AON cycles counted (1 MHz, R6); ticks are 2^20 cycles. The count runs through every reset. -/
  aon : Nat
  /-- Control-register fields whose value is not their reset value, by rising key. -/
  regs : List (Nat × Nat)
  /-- HBM (space 0), tile buffers (space 1, by offset), operand buffers (core * 2^22 + offset): bytes that are not 0,
  by rising address. -/
  hbm : List Host.Cell
  tileBuf : List Host.Cell
  opBuf : List Host.Cell
  /-- The root die's 64 MiB recovery buffer (R357). -/
  recBuf : List Host.Cell
  /-- Poison-marked 64-byte granules of the three memories. -/
  hbmPoison : List Poison
  tilePoison : List Poison
  opPoison : List Poison
  rse : Rse
  pge : Pge
  mzt : Mzt
  cores : List Core
  exp : Exp
  sch : Sch
  phs : Phs
  fab : Fab
  xfr : Xfr
  syn : Syn
  hcp : Hcp
  bld : Bld
  sec : Sec
  pcr : Pcr
  evt : Evt
  tap : TapInstr
  /-- What the node has sent, newest first. -/
  outbox : List Out
  /-- Free values used so far (log entry 2): the model's own field. -/
  fresh : Nat
  /-- Commands waiting, first in first out. -/
  pending : List Instr
  deriving DecidableEq, Repr

/-- Register fields that differ between the variants, with the NLP-7200's reset values (Tables 1.11, 7.8, 15.10). -/
def smallRegs : List (Fld × Nat) :=
  [(R.CAP_ID_PART, 0x7200), (R.CAP_TILES_TILE_PRESENT, 0xFFFF), (R.CAP_COUNTS_LOGICAL_CORES, 64),
   (R.CAP_COUNTS_TILES, 16), (R.CAP_COUNTS_HBM_STACKS, 10), (R.CAP_COUNTS_FABRIC_PORTS, 8),
   (R.CAP_COUNTS_ROUTER_DIES, 2), (R.CAP_HBM_HBM_CHANNELS, 320), (R.CAP_HBM_HBM_MIB, 983040),
   (R.SCH_COMP_A_CORE_UNITS 0, 0xFFFF), (R.SCH_COMP_B_PORTS 0, 0xFF), (R.SCH_COMP_B_HBM_UNITS 0, 40),
   (R.PCR_POWER_LIMIT_LIMIT_W, 1800)]

/-- The request state engine after reset: an empty directory. Provisioning wrote GENERATION = 0; the cold start raises it
(R21, Table 13.1). -/
def Rse.reset : Rse :=
  { homes := [], works := [], mirrors := [], bind := .none, boundFrom := none, adopted := [], resyncNeeded := false,
    rebuild := false, mirrorOut := [], claims := [], heldQueries := [], unreachable := [], probes := [], generation := 0,
    nextCount := 1, formats := [] }

/-- The page engine after reset. -/
def Pge.reset : Pge :=
  { pages := [], reservations := [], migrations := [], parityPends := [], rebuilds := [], nextRebuild := 0, xlate := [],
    switches := [], orphaned := [], aborted := [] }

/-- Mezzotint after reset. -/
def Mzt.reset : Mzt := { queue := [], outs := [], nextTag := 0, waiting := [] }

/-- The expander after reset: only the stored table. -/
def Exp.reset : Exp := { tables := [], slots := [], storedBinds := [], busy := none }

/-- Burin after reset. -/
def Sch.reset : Sch :=
  { ctxs := [], batches := [], shards := [], active := [], lastStep := [], stepCounter := 0, queuedSeq := [],
    queuedCounter := 0, placeLc := ⟨0, false⟩, placeBe := ⟨0, false⟩, refuseHold := [], tried := [], busy := none,
    turns := [], retries := [] }

/-- No turn. -/
def Phs.reset : Phs := { acceptedAt := 0, forced := false, holderAt := 0, quietUs := 0 }

/-- The fabric after reset: every link DISABLED, no routes, no channel state. -/
def Fab.reset : Fab :=
  { links := [], routes := [], outs := [], ins := [], remotes := [], nextTag := 0, msgNum := 0, regions := [],
    arrived := [], accepted := [], inbox := [], nakRetries := [], sprayNaks := [], timeoutPosted := [], revoking := none,
    incarnation := 0 }

/-- The transfer engines after reset. -/
def Xfr.reset : Xfr := { queues := [], flights := [], recs := [], sources := [], quiet := [], slots := [], nextMsg := [], ended := [] }

/-- Sync units after reset: every counter 0 and unowned. -/
def Syn.reset : Syn := { counters := [], owners := [], ackWait := [] }

/-- The host port after reset. -/
def Hcp.reset : Hcp :=
  { exec := [], nextRef := 0, cache := [], later := [], meters := [], tokens := [], qps := [],
    i3c := { dynAddr := none, offset := 0, snapshot := List.replicate 32 0 }, buckets := [], held := [],
    heldFab := [], lastClass := 0 }

/-- Bring-up right after a cold start's trigger: booting, before stage 1. -/
def Bld.reset : Bld :=
  { node := .booting, kind := .cold, stage := 0, hbmOk := false, since := 0, railHold := none, rstN := false,
    off := false, tripped := false, defects := [], cleared := [], licences := [], slots := [], pendingSlot := [],
    health := [], hcpSince := none, taken := [], serdesLeft := [], sessions := [], spared := [], retire := none, resetAfterCopy := none, barAborts := [], testing := [] }

/-- Security right after reset of a node whose NVM die holds the factory's identity and nothing else. -/
def Sec.reset : Sec :=
  { sets := [], approvers := [], certs := [], rootHash := 0, identityN := 0, sealedKey := [], helper := [], identityKey := none,
    withdrawn := [], nonces := 0,
    debugUntil := none }

/-- Power after reset: nothing demands a throttle, no warning. -/
def Pcr.reset : Pcr :=
  { throttle := ⟨100, 100, 100, 100⟩, railsWarn := [], level := 0, belowCrit := none, belowWarn := none,
    tripSince := [], gatedTiles := List.range 32,
    ref25 := true, ref156 := true, channelsDown := [], pwrWarnPin := false, thermWarnPin := false,
    thermTripPin := false, raiseTo := none, throttleAt := 0 }

/-- Events after reset. -/
def Evt.reset : Evt :=
  { entries := [], overwritten := 0, byOthers := 0, overwrittenAt := none, corrected := [], window := [],
    limits := [] }

/-- The node right after the cold start that follows provisioning: every register at its reset value, the role CACHE
and the phase GENERATION of R210, memories empty, no command waiting. -/
def State.reset : State :=
  { small := false, aon := 0, regs := [(R.PHS_PHASE_ROLE.key, 3)], hbm := [], tileBuf := [], opBuf := [], recBuf := [],
    hbmPoison := [], tilePoison := [], opPoison := [], rse := .reset, pge := .reset, mzt := .reset, cores := [],
    exp := .reset, sch := .reset, phs := .reset, fab := .reset, xfr := .reset, syn := .reset, hcp := .reset,
    bld := .reset, sec := .reset, pcr := .reset, evt := .reset, tap := .bypass, outbox := [], fresh := 0,
    pending := [] }

end Sys2Proof.Machine
end

