-- ==== Sys2Proof/Machine/Ops.lean ====
section
/-! DEFINITION. Named operations over registers, memories, poison marks, free values and the outbox; every meaning goes
through them. -/

namespace Sys2Proof.Machine

/-! ### Lists kept by key -/

/-- The value a sorted association list holds under a key. -/
def lookupD (d : Nat) : List (Nat × Nat) → Nat → Nat
  | [], _ => d
  | (k, v) :: l, key => if key = k then v else if key < k then d else lookupD d l key

/-- A sorted association list with the value under a key set; an entry equal to the default `d` is not listed. (In a sorted
list no key of the rest is at or below `key`; dropping such keys makes a read give what was written in every list.) -/
def assign (d key v : Nat) : List (Nat × Nat) → List (Nat × Nat)
  | [] => if v = d then [] else [(key, v)]
  | (k, w) :: l =>
    if key < k then (if v = d then (k, w) :: l else (key, v) :: (k, w) :: l)
    else if key = k then (if v = d then l.dropWhile (fun p => decide (p.1 ≤ key)) else (key, v) :: l)
    else (k, w) :: assign d key v l

/-- The list with the first element that satisfies `p` replaced, or the new element at the end. -/
def upsert {α : Type} (p : α → Bool) (x : α) : List α → List α
  | [] => [x]
  | y :: l => if p y then x :: l else y :: upsert p x l

/-- The list with `f` applied to every element that satisfies `p`. -/
def updateAll {α : Type} (p : α → Bool) (f : α → α) (l : List α) : List α := l.map fun x => if p x then f x else x

/-- The list without the first element equal to `x`. -/
def dropFirst {α : Type} [DecidableEq α] (x : α) : List α → List α
  | [] => []
  | y :: l => if y = x then l else y :: dropFirst x l

/-- Bit i of a number. -/
def bitAt (w i : Nat) : Bool := w / 2 ^ i % 2 == 1

/-- The length of a list of bytes or requests as a multiple of 8 rounded up. -/
def up8 (n : Nat) : Nat := (n + 7) / 8 * 8

/-- A flag as a bit. -/
def bit (b : Bool) : Nat := if b then 1 else 0

/-! ### One engine's state at a time -/

/-- A change of the request state engine alone. -/
def State.onRse (s : State) (f : Rse → Rse) : State := { s with rse := f s.rse }
/-- A change of the page engine alone. -/
def State.onPge (s : State) (f : Pge → Pge) : State := { s with pge := f s.pge }
/-- A change of Mezzotint alone. -/
def State.onMzt (s : State) (f : Mzt → Mzt) : State := { s with mzt := f s.mzt }
/-- A change of the expander's store alone. -/
def State.onExp (s : State) (f : Exp → Exp) : State := { s with exp := f s.exp }
/-- A change of Burin alone. -/
def State.onSch (s : State) (f : Sch → Sch) : State := { s with sch := f s.sch }
/-- A change of the phase machine alone. -/
def State.onPhs (s : State) (f : Phs → Phs) : State := { s with phs := f s.phs }
/-- A change of the fabric alone. -/
def State.onFab (s : State) (f : Fab → Fab) : State := { s with fab := f s.fab }
/-- A change of the transfer engines alone. -/
def State.onXfr (s : State) (f : Xfr → Xfr) : State := { s with xfr := f s.xfr }
/-- A change of the sync units alone. -/
def State.onSyn (s : State) (f : Syn → Syn) : State := { s with syn := f s.syn }
/-- A change of the host port alone. -/
def State.onHcp (s : State) (f : Hcp → Hcp) : State := { s with hcp := f s.hcp }
/-- A change of bring-up alone. -/
def State.onBld (s : State) (f : Bld → Bld) : State := { s with bld := f s.bld }
/-- A change of the security block alone. -/
def State.onSec (s : State) (f : Sec → Sec) : State := { s with sec := f s.sec }
/-- A change of the power die alone. -/
def State.onPcr (s : State) (f : Pcr → Pcr) : State := { s with pcr := f s.pcr }
/-- A change of the event unit alone. -/
def State.onEvt (s : State) (f : Evt → Evt) : State := { s with evt := f s.evt }

/-! ### Registers -/

/-- The value of a register field. -/
def State.reg (s : State) (f : Fld) : Nat := lookupD f.rst s.regs f.key

/-- A register field set, modulo its width. -/
def State.setReg (s : State) (f : Fld) (v : Nat) : State :=
  { s with regs := assign f.rst f.key (v % 2 ^ f.width) s.regs }

/-- Whether a one-bit field is 1. -/
def State.flag (s : State) (f : Fld) : Bool := s.reg f == 1

/-- Several fields set in turn. -/
def State.setRegs (s : State) : List (Fld × Nat) → State
  | [] => s
  | (f, v) :: l => (s.setReg f v).setRegs l

/-- The count of free values used so far moved on (log entry 2). -/
def State.setFresh (s : State) (n : Nat) : State := { s with fresh := n }

/-- The next free-value index (log entry 2). -/
def State.next (s : State) : Nat × State := (s.fresh, s.setFresh (s.fresh + 1))

/-- A statistics counter (access RC) raised by `n`; past its width it holds a value the spec does not state
(log entry 4). -/
def State.count (s : State) (f : Fld) (n : Nat) : State :=
  if s.reg f + n < 2 ^ f.width then s.setReg f (s.reg f + n)
  else (s.setReg f (Config.statOverflow s.fresh)).setFresh (s.fresh + 1)

/-- A statistics counter raised by one. -/
def State.bump (s : State) (f : Fld) : State := s.count f 1

/-! ### Time -/

/-- The AON tick count (R6): one tick is 2^20 cycles. -/
def State.tick (s : State) : Nat := s.aon / 2 ^ 20

/-- AON ticks since the last start's trigger. -/
def State.startTicks (s : State) : Nat := (s.aon - s.bld.since) / 2 ^ 20

/-! ### The node -/

/-- The node's own number. -/
def State.node (s : State) : Nat := s.reg R.CAP_NODE_NODE_NUMBER
/-- Tiles the variant has. -/
def State.tiles (s : State) : Nat := if s.small then 16 else 32
/-- Fabric ports the variant has (R231). -/
def State.ports (s : State) : Nat := if s.small then 8 else 16
/-- Router dies the variant has. -/
def State.dies (s : State) : Nat := if s.small then 2 else 4
/-- Tile t is in service. -/
def State.tileIn (s : State) (t : Nat) : Bool := t < s.tiles && bitAt (s.reg R.CAP_TILES_TILE_PRESENT) t

/-! ### Memories -/

/-- The byte a canonical cell list holds at an address; an unlisted address reads 0 (log entry 6). -/
def readCell : List Host.Cell → Nat → Byte
  | [], _ => 0
  | (a, b) :: l, addr => if addr = a then b else if addr < a then 0 else readCell l addr

/-- A canonical cell list with one byte written. -/
def writeCell (addr : Nat) (v : Byte) : List Host.Cell → List Host.Cell
  | [] => if v = 0 then [] else [(addr, v)]
  | (a, b) :: l =>
    if addr < a then (if v = 0 then (a, b) :: l else (addr, v) :: (a, b) :: l)
    else if addr = a then (if v = 0 then l.dropWhile (fun p => decide (p.1 ≤ addr)) else (addr, v) :: l)
    else (a, b) :: writeCell addr v l

/-- Bytes written from an address upward. -/
def writeCells (m : List Host.Cell) (addr : Nat) : List Byte → List Host.Cell
  | [] => m
  | b :: l => writeCells (writeCell addr b m) (addr + 1) l

/-- Bytes read from an address upward. -/
def readCells (m : List Host.Cell) (addr n : Nat) : List Byte := (List.range n).map fun i => readCell m (addr + i)

/-- Addresses rise strictly and no cell holds 0. -/
def Memory.wf : List Host.Cell → Bool
  | [] => true
  | [(_, b)] => b != 0
  | (a, b) :: (a', b') :: l => b != 0 && decide (a < a') && Memory.wf ((a', b') :: l)

/-- The keys of a register list rise strictly. -/
def keysRise : List (Nat × Nat) → Bool
  | [] => true
  | x :: l => (l.all fun y => decide (x.1 < y.1)) && keysRise l

/-- Registers and memories are in canonical form: keys and addresses rise strictly, and no memory cell holds the value an
unlisted address reads as. -/
def State.canonical (s : State) : Prop :=
  keysRise s.regs = true ∧ Memory.wf s.hbm = true ∧ Memory.wf s.tileBuf = true ∧ Memory.wf s.opBuf = true
    ∧ Memory.wf s.recBuf = true

/-- The memories: HBM, the tile buffers, the operand buffers and the recovery buffer, which carries no poison. -/
inductive Mem where
  | hbm | tile | op | recovery
  deriving DecidableEq, Repr

/-- A memory's cells. -/
def State.cells (s : State) : Mem → List Host.Cell
  | .hbm => s.hbm | .tile => s.tileBuf | .op => s.opBuf | .recovery => s.recBuf

/-- A memory's poison marks. -/
def State.poisons (s : State) : Mem → List Poison
  | .hbm => s.hbmPoison | .tile => s.tilePoison | .op => s.opPoison | .recovery => []

/-- A memory's cells replaced. -/
def State.setCells (s : State) (m : Mem) (c : List Host.Cell) : State :=
  match m with
  | .hbm => { s with hbm := c } | .tile => { s with tileBuf := c } | .op => { s with opBuf := c }
  | .recovery => { s with recBuf := c }

/-- A memory's poison marks replaced. -/
def State.setPoisons (s : State) (m : Mem) (p : List Poison) : State :=
  match m with
  | .hbm => { s with hbmPoison := p } | .tile => { s with tilePoison := p } | .op => { s with opPoison := p }
  | .recovery => s

/-- One byte of a memory. -/
def State.rd (s : State) (m : Mem) (a : Nat) : Byte := readCell (s.cells m) a

/-- Bytes of a memory. -/
def State.rdBytes (s : State) (m : Mem) (a n : Nat) : List Byte := readCells (s.cells m) a n

/-- An n-byte little-endian number of a memory (R5). -/
def State.rdNum (s : State) (m : Mem) (a n : Nat) : Nat := rdNat (s.rd m) a n

/-- The granules a byte range touches. -/
def granules (a n : Nat) : List Nat := if n = 0 then [] else (List.range ((a + n - 1) / 64 - a / 64 + 1)).map (a / 64 + ·)

/-- The poison mark of some granule a range touches, with the status recorded with it. -/
def State.poisoned (s : State) (m : Mem) (a n : Nat) : Option St :=
  ((s.poisons m).find? fun p => n ≠ 0 && a / 64 ≤ p.granule && p.granule ≤ (a + n - 1) / 64).map (·.status)

/-- Marks cleared from every granule a write covers whole; a granule partly written keeps its mark. -/
def unpoison (ps : List Poison) (a n : Nat) : List Poison :=
  ps.filter fun p => !(a ≤ p.granule * 64 && p.granule * 64 + 64 ≤ a + n)

/-- Bytes written to a memory; fully covered granules lose their poison mark. -/
def State.wr (s : State) (m : Mem) (a : Nat) (bs : List Byte) : State :=
  (s.setCells m (writeCells (s.cells m) a bs)).setPoisons m (unpoison (s.poisons m) a bs.length)

/-- An n-byte little-endian number written. -/
def State.wrNum (s : State) (m : Mem) (a n v : Nat) : State := s.wr m a (toBytes n v)

/-- Every granule a range touches marked poisoned with a status, its bytes all ones (R267). -/
def State.poison (s : State) (m : Mem) (a n : Nat) (st : St) : State :=
  let s := s.setCells m (writeCells (s.cells m) a (List.replicate n 0xFF))
  s.setPoisons m ((s.poisons m).filter (fun p => !(granules a n).contains p.granule)
    ++ (granules a n).map fun g => ⟨g, st⟩)

/-- Granules marked in place without touching the data (R432). -/
def State.markPoison (s : State) (m : Mem) (a n : Nat) (st : St) : State :=
  s.setPoisons m ((s.poisons m).filter (fun p => !(granules a n).contains p.granule)
    ++ (granules a n).map fun g => ⟨g, st⟩)

/-- A memory and an offset of a local address: space 0 is HBM, space 1 the tile buffers. -/
def spaceMem (space : Nat) : Mem := if space = 0 then .hbm else .tile

/-! ### The outbox -/

/-- The test access port's instruction set. -/
def State.setTap (s : State) (i : TapInstr) : State := { s with tap := i }

/-- Something the node sends. -/
def State.emit (s : State) (o : Out) : State := { s with outbox := o :: s.outbox }

end Sys2Proof.Machine
end

