-- ==== Sys2Proof/Machine/HostNet.lean ====
section
/-! DEFINITION. The host port on its network (R321, R322): its addresses, what it accepts, and where it sends. -/

namespace Sys2Proof.Machine

/-! ### Addresses (R321) -/

/-- The port's IPv6 link-local address: the modified EUI-64 identifier of its MAC under fe80::/64. -/
def State.linkLocal (s : State) : Nat :=
  let mac := s.reg R.HCP_MAC_MAC
  let hi := mac / 2 ^ 24
  0xFE80 * 2 ^ 112 + (Nat.xor hi 0x020000) * 2 ^ 40 + 0xFFFE * 2 ^ 24 + mac % 2 ^ 24

/-- An IPv6 address of the port. -/
def State.ownV6 (s : State) (a : Nat) : Bool :=
  let v6 := s.reg R.HCP_IPV6_HI_ADDR * 2 ^ 64 + s.reg R.HCP_IPV6_LO_ADDR
  a == s.linkLocal || (v6 != 0 && a == v6)

/-- The IPv4 address of the port. -/
def State.ownV4 (s : State) (a : Nat) : Bool := s.reg R.HCP_IPV4_ADDR != 0 && a == s.reg R.HCP_IPV4_ADDR

/-- Any address of the port, an IPv4 one in its mapped form. -/
def State.ownAddr (s : State) (a : Nat) : Bool := s.ownV6 a || (a / 2 ^ 32 == 0xFFFF && s.ownV4 (a % 2 ^ 32))

/-- An address in IPv4-mapped form. -/
def isV4 (a : Nat) : Bool := a / 2 ^ 32 == 0xFFFF

/-! ### What the port accepts (R321, R322) -/

/-- A frame has the tag the port accepts: one tag carrying VID while VLAN_EN = 1, none otherwise. -/
def State.tagOk (s : State) (vlan : Option Nat) : Bool :=
  decide (vlan = if s.flag R.HCP_PORT_CFG_VLAN_EN then some (s.reg R.HCP_PORT_CFG_VID) else none)

/-- The port accepts a packet for one of its UDP ports: addressed to it, whole, and tagged as it accepts. -/
def State.hears (s : State) (n : NetHdr) (port : Nat) : Bool :=
  s.ownAddr n.dst && !n.fragment && decide (n.udpPort = some port) && s.tagOk n.vlan

/-- The UDP port of RoCEv2 (R321). -/
def rocePort : Nat := 4791

/-! ### Where the port sends (R321, R322) -/

/-- A QP that is not in RESET. -/
def State.qp? (s : State) (i : Nat) : Option Qp := s.hcp.qps.find? (·.index == i)

/-- The address a host packet goes to, where it has one of its own. -/
def State.outDst (s : State) : HostOut → Nat
  | .reply r => r.key.src
  | .token t => t.addr
  | .notice a .. => a
  | .event a .. => a
  | .echo d _ => d
  | .rdmaWrite q .. | .rdmaRead q .. | .rdmaAck q _ | .rdmaReadResponse q .. | .rdmaNak q .. | .cnp q =>
    ((s.qp? q).map (·.remoteAddr)).getD 0
  | .arp _ a | .neighbour _ a => a

/-- The address a packet's frame goes to: the destination on the port's link or within a configured prefix, and outside it the gateway.
Without a gateway it is the destination itself (DESIGN CHOICE, log entry 98). -/
def State.nextHop (s : State) (a : Nat) : Nat :=
  let via := fun (inside : Bool) (gw : Nat) => if inside || gw = 0 then a else gw
  if isV4 a then
    let k := 2 ^ (32 - s.reg R.HCP_IPV4_PREFIX_LEN)
    via (a % 2 ^ 32 / k == s.reg R.HCP_IPV4_ADDR / k)
      (if s.reg R.HCP_IPV4_GW_GW = 0 then 0 else 0xFFFF * 2 ^ 32 + s.reg R.HCP_IPV4_GW_GW)
  else
    let k := 2 ^ (128 - s.reg R.HCP_IPV6_CFG_PREFIX_LEN)
    let own := s.reg R.HCP_IPV6_HI_ADDR * 2 ^ 64 + s.reg R.HCP_IPV6_LO_ADDR
    via (a / 2 ^ 118 == 0x3FA || a / k == own / k) (s.reg R.HCP_IPV6_GW_HI_GW * 2 ^ 64 + s.reg R.HCP_IPV6_GW_LO_GW)

/-- An answer to ARP or a neighbour solicitation stays on the link. -/
def HostOut.onLink : HostOut → Bool
  | .arp .. | .neighbour .. => true
  | _ => false

/-- A packet transmitted, with the tag of R322. -/
def State.hostEmit (s : State) (o : HostOut) : State :=
  s.emit (.host (if s.flag R.HCP_PORT_CFG_VLAN_EN then some (s.reg R.HCP_PORT_CFG_VID) else none) 
    (if o.onLink then s.outDst o else s.nextHop (s.outDst o)) o)

/-! ### Sizes -/

/-- Bytes of a packet behind its IP header, an operation's or a response's largest packet: the UDP header, for RoCEv2 BTH, RETH or AETH
and ICRC (Table 12.9), and the payload. -/
def HostOut.ipPayload (mtu : Nat) : HostOut → Nat
  | .reply r => 40 + r.payload.length
  | .token t => 64 + 8 * t.tokens.length
  | .notice .. => 64
  | .event .. => 72
  | .rdmaWrite _ _ _ _ d => 40 + min mtu d.length
  | .rdmaRead .. => 40
  | .rdmaReadResponse _ _ d => 28 + min mtu d.length
  | .rdmaAck .. | .rdmaNak .. => 28
  | .cnp _ => 40
  | .echo _ d => 8 + d.length
  | .arp .. => 0
  | .neighbour .. => 32

/-- The queue pair of a packet. -/
def HostOut.qp? : HostOut → Option Nat
  | .rdmaWrite q .. | .rdmaRead q .. | .rdmaAck q _ | .rdmaReadResponse q .. | .rdmaNak q .. | .cnp q => some q
  | _ => none

/-- Payload bytes of a queue pair's packets (Table 12.7). -/
def Qp.pathMtu (q : Qp) : Nat := 1024 * 2 ^ q.mtu

/-- A packet is no longer than an IP MTU. -/
def State.outFits (s : State) (o : HostOut) (mtu : Nat) : Bool :=
  let path := ((o.qp?.bind s.qp?).map Qp.pathMtu).getD 0
  (if isV4 (s.outDst o) then 20 else 40) + o.ipPayload path ≤ mtu

end Sys2Proof.Machine
end

