-- ==== Sys2Proof/Machine/Send.lean ====
section
/-! DEFINITION. What the node sends: packets of the host port with their shapers (R342), events (R424 to R428) and
frames of the fabric (sections 9.2 to 9.5). -/

namespace Sys2Proof.Machine

/-! ### Shapers (R342, R343) -/

/-- Rate of a shaper in bits per AON cycle, none where it does not limit. Indices 0 to 3 are the host classes, 4 + c
the compositions. -/
def State.shaperRate (s : State) (k : Nat) : Option Nat :=
  if k < 4 then
    if s.flag (R.TRF_HSHAPE_ENABLE k) then some (s.reg (R.TRF_HSHAPE_RATE_MBPS k)) else none
  else
    let c := k - 4
    if s.flag (R.TRF_FSHAPE_ENABLE c) then
      let r := s.reg (R.TRF_FSHAPE_RATE_GBPS c)
      let ports := ((List.range 16).filter fun p => bitAt (s.reg (R.SCH_COMP_B_PORTS c)) p).length
      some (1000 * if r = 0 then 1600 * ports else r)
    else none

/-- Size of a shaper's bucket in bits. -/
def State.shaperSize (s : State) (k : Nat) : Nat :=
  8192 * if k < 4 then s.reg (R.TRF_HSHAPE_BURST_KIB k) else s.reg (R.TRF_FSHAPE_BURST_KIB (k - 4))

/-- The level of a shaper's bucket now. -/
def State.shaperLevel (s : State) (k : Nat) : Nat :=
  match s.hcp.buckets.find? (·.k == k) with
  | none => s.shaperSize k
  | some b => min (s.shaperSize k) (b.bits + (s.shaperRate k).getD 0 * (s.aon - b.at_))

/-- The bucket of a shaper holds enough for a packet. A packet larger than the bucket goes when the bucket is full. -/
def State.shaperCovers (s : State) (k bits : Nat) : Bool :=
  match s.shaperRate k with
  | none => true
  | some _ => min bits (s.shaperSize k) ≤ s.shaperLevel k

/-- A packet's bits taken from a shaper's bucket. -/
def State.shaperTake (s : State) (k bits : Nat) : State :=
  match s.shaperRate k with
  | none => s
  | some _ => s.onHcp fun h =>
      { h with buckets := upsert (·.k == k) ⟨k, s.shaperLevel k - bits, s.aon⟩ h.buckets }

/-- A shaper's bucket set full (R343). -/
def State.shaperFill (s : State) (k : Nat) : State :=
  s.onHcp fun h => { h with buckets := h.buckets.filter (·.k != k) }

/-! ### Host packets -/

/-- Bits of a host packet: its payload and 86 bytes of headers (log entry 10). -/
def HostOut.bits : HostOut → Nat
  | .reply r => 8 * (118 + r.payload.length)
  | .token t => 8 * (142 + 8 * t.tokens.length)
  | .notice .. => 8 * 142
  | .event .. => 8 * 150
  | .rdmaWrite _ _ _ _ d => 8 * (86 + d.length)
  | .rdmaReadResponse _ _ d => 8 * (86 + d.length)
  | .echo _ d => 8 * (86 + d.length)
  | _ => 8 * 86

/-- A packet handed over in a shaper class is held: behind the class's held packets, or for its bucket. -/
def State.hostHolds (s : State) (cls : Nat) (o : HostOut) : Bool := s.hcp.held.any (·.1 == cls) || !s.shaperCovers cls o.bits

/-- A packet handed to the host port in a shaper class: sent, or held behind the class's held packets and its bucket. A
port that is not UP transmits nothing: the packet is lost. -/
def State.hostSend (s : State) (cls : Nat) (o : HostOut) : State :=
  if s.reg R.HCP_PORT_STATUS_STATE ≠ 2 then s else
  if s.hostHolds cls o then
    s.onHcp fun h => { h with held := h.held ++ [(cls, o)] }
  else (s.shaperTake cls o.bits).hostEmit o

/-! ### Frames -/

/-- Bytes of a frame's payload (Table 9.4). -/
def Body.payload : Body → Nat
  | .loadResp _ _ d => d.length
  | .store _ d => d.length
  | .atomic .. => 16
  | .atomicResp .. => 8
  | .signal .. | .arrive .. => 8
  | .engine _ _ _ _ _ len _ => len
  | .write _ _ _ _ _ _ d => d.length
  | .readData _ _ _ d => d.length
  | .reduce r => r.data.length
  | .bcast b => b.data.length
  | .mgmtWrite .. | .mgmtResp .. => 8
  | _ => 0

/-- Bytes of a frame from DA to FCS, without 802.1Q tag and GCM tag (Table 9.2). -/
def Frame.bytes (f : Frame) : Nat := 66 + f.body.payload

/-- Credit of a frame: its size in 256-byte units (R241). -/
def Frame.units (f : Frame) : Nat := (f.bytes + 255) / 256

/-- The receive buffers of a frame: its class's, or the set of sprayed frames that have taken their detour (R241). -/
def Frame.buf (f : Frame) : Nat := if f.body.cls = .sprayed ∧ f.detour then 3 else f.body.cls.code

/-- The link with an identity. -/
def State.link? (s : State) (l : LinkId) : Option Link := s.fab.links.find? fun x => decide (x.id = l)

/-- A link's state; a link not listed is DISABLED. -/
def State.linkState (s : State) (l : LinkId) : LinkState := ((s.link? l).map (·.state)).getD .disabled

/-- A link's record put back. -/
def State.putLink (s : State) (l : Link) : State :=
  s.onFab fun f => { f with links := upsert (fun x => decide (x.id = l.id)) l f.links }

/-- The port a link runs on. -/
def State.linkPort (s : State) : LinkId → Nat
  | .port p => p
  | .virt i => s.reg (R.FAB_PEER_PORT i)

/-- The port of a link is in mode 1, SWITCHED. -/
def State.switched (s : State) (l : LinkId) : Bool := s.reg (R.FAB_PORT_CFG_MODE (s.linkPort l)) == 1

/-- The MAC address of a node, first octet most significant (section 9.2). -/
def State.mac (s : State) (n : Nat) : Nat := s.reg R.FAB_CTRL_MAC_PREFIX * 2 ^ 16 + n % 2 ^ 16

/-- The link-local address. -/
def State.linkLocalMac (s : State) : Nat := s.reg R.FAB_CTRL_MAC_PREFIX / 256 * 2 ^ 24 + 0xFFFFFF

/-- The node at the far end of a link. -/
def State.linkPeer (s : State) (l : Link) : Nat :=
  match l.id with
  | .port _ => (l.peer.map (·.nodeNumber)).getD 0
  | .virt i => s.reg (R.FAB_PEER_NODE i)

/-- DA of a DATA frame to a node on a link: the link-local address for management on a direct port (section 9.2). -/
def State.daOf (s : State) (l : LinkId) (n : Nat) (f : Frame) : Nat :=
  if f.body.cls = .management ∧ !s.switched l then s.linkLocalMac else s.mac n

/-- The priority code point of a class on switched ports. -/
def State.pcp (s : State) : FrameClass → Nat
  | .ordered => s.reg R.FAB_VLAN_PCP_ORDERED
  | .sprayed => s.reg R.FAB_VLAN_PCP_SPRAYED
  | .management => s.reg R.FAB_VLAN_PCP_MGMT

/-- Frames of a link carry an 802.1Q tag. -/
def State.tagged (s : State) (l : LinkId) : Bool := s.switched l && s.flag R.FAB_VLAN_ENABLE

/-- The tag control information of a class's frames on a link, where they carry a tag. -/
def State.tagOf (s : State) (l : LinkId) (c : FrameClass) : Option Nat :=
  if s.tagged l then some (s.pcp c * 2 ^ 13 + s.reg R.FAB_VLAN_VID) else none

/-- The Ethernet header of a DATA frame sent on a link (Table 9.2). -/
def State.ethOf (s : State) (l : Link) (f : Frame) : Eth :=
  { da := s.daOf l.id (s.linkPeer l) f, sa := s.mac s.node, tag := s.tagOf l.id f.body.cls,
    etherType := s.reg R.FAB_CTRL_ETHERTYPE }

/-- The node refuses accesses while it is TRANSIT_ONLY (R268). -/
def State.transitOnly (s : State) : Bool := decide (s.bld.node = .computeReset)

/-- The hop part of a DATA frame sent on a link (Table 9.3); credits are returned in link-control frames alone. -/
def State.hopOf (s : State) (l : Link) : Hop :=
  { proto := l.proto, kind := 0, encrypted := l.crypt.isSome, lseq := l.txSeq, lack := l.rxSeq, transitOnly := s.transitOnly,
    creditClass := 3, credits := 0 }

/-- Bytes of a frame on a link, from DA to FCS. -/
def State.linkBytes (s : State) (l : Link) (f : Frame) : Nat := f.bytes + 4 * bit (s.tagged l.id) + 16 * bit l.crypt.isSome

/-- The Ethernet header of a link-control frame: its DA is the link-local address (section 9.2); on a tagged link it has the priority
of management (DESIGN CHOICE, log entry 94). -/
def State.controlEth (s : State) (l : LinkId) : Eth :=
  { da := s.linkLocalMac, sa := s.mac s.node, tag := s.tagOf l .management, etherType := s.reg R.FAB_CTRL_ETHERTYPE }

/-- LINK_PROTO of a link's link-control frames: the version in use, before the handshake the node's own. -/
def State.controlProto (s : State) (l : Link) : Nat := if l.proto = 0 then s.reg R.PHS_VERSIONS_LINK_PROTO else l.proto

/-- A link-control frame sent: it has no LSEQ, needs no credit and is not encrypted (R241, section 9.10); LACK names the next LSEQ
expected. -/
def State.sendControl (s : State) (l : Link) (cls credits : Nat) (c : LinkControl) : State :=
  let hop : Hop := ⟨s.controlProto l, 1, false, 0, l.rxSeq, s.transitOnly, cls, credits⟩
  (s.count (R.FAB_PORT_TX_BYTES (s.linkPort l.id)) (66 + c.payload + 4 * bit (s.tagged l.id))).emit
    (.control l.id (s.controlEth l.id) hop c)

/-- A frame put on a link: it takes the next LSEQ, its credits and a place in the replay buffer (R239, R241). -/
def State.linkPut (s : State) (l : Link) (f : Frame) : State :=
  let c := f.buf
  let counter := l.crypt.map (·.sendCtr)
  let eth := s.ethOf l f
  let hop := s.hopOf l
  let s := s.putLink { l with
    txSeq := (l.txSeq + 1) % 4096
    credits := l.credits.set c (l.credits.getD c 0 - f.units)
    replay := l.replay ++ [⟨l.txSeq, eth, hop, f, 0, counter.getD 0, s.reg R.FAB_LINK_CFG_REPLAY_LIMIT⟩]
    crypt := l.crypt.map fun k => { k with sendCtr := k.sendCtr + 1 } }
  (s.count (R.FAB_PORT_TX_BYTES (s.linkPort l.id)) (s.linkBytes l f)).emit (.frame l.id eth hop counter f)

/-- A link's send counter is within 2^20 frames of 2^48: until a change of keys it takes no new frame (R270, R401). -/
def Link.spent (l : Link) : Bool := l.crypt.any fun k => decide (2 ^ 48 - 2 ^ 20 ≤ k.sendCtr)

/-- A frame sent on a link that holds credits for it; behind others for its buffers, or without credits or frame counters, it waits. -/
def State.linkSend (s : State) (l : Link) (f : Frame) : State :=
  if l.spent || l.queue.any (fun g => g.buf == f.buf) || l.credits.getD f.buf 0 < f.units then
    s.putLink { l with queue := l.queue ++ [f] }
  else s.linkPut l f

/-- Data queued on a link, in 256-byte units. -/
def Link.queued (l : Link) : Nat := (l.queue.map Frame.units).sum

/-- The link of a port toward a next hop: the port itself, or the virtual link of a switched port to that node. -/
def State.linkOf (s : State) (port next : Nat) : LinkId :=
  if s.reg (R.FAB_PORT_CFG_MODE port) = 1 then
    .virt (((List.range 256).find? fun i => s.flag (R.FAB_PEER_VALID i) && s.reg (R.FAB_PEER_PORT i) == port
      && s.reg (R.FAB_PEER_NODE i) == next).getD 256)
  else .port port

/-- The link of a port toward a next hop, where it is UP and its peer has a node number: until then it carries management
and link control only (Table 9.6). -/
def State.upLink (s : State) (port next : Nat) : Option Link :=
  (s.link? (s.linkOf port next)).filter fun l => decide (l.state = .up) && l.peer.any (·.nodeValid)

/-- The VALID route entry of a destination (Table 9.9); the entry of the node's own number is ignored (R248). -/
def State.route? (s : State) (dst : Nat) : Option Route :=
  s.fab.routes.find? fun r => r.dst == dst && r.valid && !(s.flag R.CAP_NODE_NODE_VALID && dst == s.node)

/-- The links of a port mask toward a destination that are UP. -/
def State.maskLinks (s : State) (mask next : Nat) : List Link :=
  ((List.range s.ports).filter (bitAt mask)).filterMap fun p => s.upLink p next

/-- The link with the least queued data; among equals the lowest port (log entry 13). -/
def leastQueued : List Link → Option Link
  | [] => none
  | l :: ls =>
    match leastQueued ls with
    | none => some l
    | some m => if m.queued < l.queued then some m else some l

/-- A router die forwards a frame (R241, R249). A frame for the node itself is delivered locally (R248). -/
def State.forwardAt (s : State) (die : Nat) (f : Frame) : State :=
  if f.dst = s.node ∧ s.flag R.CAP_NODE_NODE_VALID then s.onFab fun b => { b with arrived := b.arrived ++ [f] }
  else match s.route? f.dst with
  | none => s.bump (R.FAB_DIE_STATS_NO_ROUTE_DROPS die)
  | some r =>
    match f.body.cls with
    | .sprayed =>
      if s.reg R.FAB_LINK_CFG_HOP_LIMIT ≤ f.hops then s.bump (R.FAB_DIE_STATS_HOP_DROPS die) else
      let min := s.maskLinks r.sprayMask r.nextNode
      let congested := min.all fun l => s.reg R.FAB_LINK_CFG_DETOUR_THRESHOLD < l.queued
      let detour := s.maskLinks r.detourMask r.nextNode
      if congested && !f.detour && !detour.isEmpty && !min.isEmpty then
        match leastQueued detour with
        | some l => s.linkSend l { f with detour := true }
        | none => s
      else match leastQueued min with
        | some l => s.linkSend l f
        | none => s.bump (R.FAB_DIE_STATS_NO_ROUTE_DROPS die)
    | _ =>
      match s.upLink r.ordPort r.nextNode with
      | some l => s.linkSend l f
      | none => s.bump (R.FAB_DIE_STATS_NO_ROUTE_DROPS die)

/-- A frame of the node's own forwarded; one it cannot route is counted on die 0 (log entry 13). -/
def State.forward (s : State) (f : Frame) : State := s.forwardAt 0 f

/-! ### Ordered channels (R250 to R252) -/

/-- The channel to a destination. -/
def State.out? (s : State) (dst : Nat) : Option OutChannel := s.fab.outs.find? (·.dst == dst)

/-- The channel to a destination, or a fresh one. -/
def State.outCh (s : State) (dst : Nat) : OutChannel := (s.out? dst).getD ⟨dst, false, 0, [], [], 0, false, 0, []⟩

/-- A channel put back. -/
def State.putOut (s : State) (c : OutChannel) : State :=
  s.onFab fun f => { f with outs := upsert (·.dst == c.dst) c f.outs }

/-- What is kept of a source: its channel, or ACCOUNTED alone. -/
def State.inCh? (s : State) (src : Nat) : Option InChannel := s.fab.ins.find? (·.src == src)

/-- A channel from a source put back. -/
def State.putIn (s : State) (c : InChannel) : State :=
  s.onFab fun f => { f with ins := upsert (·.src == c.src) c f.ins }

/-- The in-channel of a source, or one without channel state. -/
def State.inCh (s : State) (src : Nat) : InChannel := (s.inCh? src).getD ⟨src, false, 0, 0, 0, false, false⟩

/-- The first accepted frame of a source is a held signal (R254). -/
def State.holding (s : State) (src : Nat) : Bool := (s.inCh? src).any (·.held)

/-- The first accepted frame of a source becomes a held signal, or is one no longer. -/
def State.setHeld (s : State) (src : Nat) (b : Bool) : State := s.putIn { s.inCh src with held := b }

/-- Bytes of unacknowledged ordered frames. -/
def unackedBytes (c : OutChannel) : Nat := (c.unacked.map Frame.bytes).sum

/-- The ORETX_LIMIT the oldest unacknowledged frame was sent under (R252, R272). -/
def OutChannel.retxLimit (c : OutChannel) : Nat := ((c.limits.head?).map (·.2)).getD 0

/-- An ordered frame numbered and sent: it takes the next OSEQ, carries the reverse channel's OACK, and is kept until
acknowledged. -/
def State.sendNumbered (s : State) (dst : Nat) (f : Frame) : State :=
  let c := s.outCh dst
  let rev := s.inCh? dst
  let g := { f with
    oseq := c.nextSeq
    sync := !c.begun
    incarnation := s.fab.incarnation
    oack := (rev.map (·.expected)).getD 0 }
  let s := match rev with
    | some r => s.putIn { r with oackOwed := false }
    | none => s
  (s.putOut { c with
    begun := true
    nextSeq := (c.nextSeq + 1) % 2 ^ 32
    unacked := c.unacked ++ [g]
    limits := c.limits ++ [(g.oseq, s.reg R.FAB_TIMEOUT_ORETX_LIMIT)] }).forward g

/-- An ordered frame to another node: numbered and sent, or held while 64 KiB to that destination or 32 MiB in all are
unacknowledged (R250), or while it is unreachable and is sent nothing but probes (R252). -/
def State.sendOrderedNow (s : State) (dst : Nat) (f : Frame) : State :=
  let c := s.outCh dst
  let total := (s.fab.outs.map unackedBytes).sum
  if c.unreachable || !c.waiting.isEmpty || 65536 < unackedBytes c + f.bytes || 2 ^ 25 < total + f.bytes then
    s.putOut { c with waiting := c.waiting ++ [f] }
  else s.sendNumbered dst f

/-- Frames waiting for room on a channel sent while there is room. -/
def State.pumpWaiting (s : State) (dst : Nat) : Nat → State
  | 0 => s
  | n + 1 =>
    let c := s.outCh dst
    match c.waiting with
    | [] => s
    | f :: fs =>
      if 65536 < unackedBytes c + f.bytes || 2 ^ 25 < (s.fab.outs.map unackedBytes).sum + f.bytes then s
      else ((s.putOut { c with waiting := fs }).sendNumbered dst f).pumpWaiting dst n

/-- A frame without its channel fields. -/
def mkFrame (src dst : Nat) (dev : Bool) (b : Body) : Frame :=
  { dst := dst, src := src, hops := 0, detour := false, sync := false, incarnation := 0, dev := dev, poison := false,
    oseq := 0, oack := 0, rsrFormat := 0, path := [], pathIndex := 0, ret := [], body := b }

/-- The composition of a context, none for no context (0xFFF) or one that is FREE. -/
def State.compOf (s : State) (ctx : Nat) : Option Nat :=
  (s.sch.ctxs.find? (·.num == ctx)).map (·.desc.comp)

/-- Sprayed payload bytes injected toward a node (R254). -/
def State.addSent (s : State) (dst n : Nat) : State :=
  let c := s.outCh dst
  s.putOut { c with sent := (c.sent + n) % 2 ^ 40 }

/-- A frame of the node's own put on the fabric: ordered frames to their channel, others to the router. An unreachable node is
sent nothing but probes: a sprayed frame to it is not injected (R252). -/
def State.injectNow (s : State) (f : Frame) : State :=
  match f.body.cls with
  | .ordered => s.sendOrderedNow f.dst f
  | .sprayed =>
    if (s.out? f.dst).any (·.unreachable) then s else
      (match f.body with
        | .bcast _ => s
        | b => s.addSent f.dst b.payload).forward f
  | .management => s.forward f

/-- The SIGNAL or ARRIVE of a frame with COVER = SENT at its injection (R254). -/
def coverFrame (sent : Nat) (f : Frame) : Frame :=
  match f.body with
  | .signal h _ v => { f with body := .signal h sent v }
  | .arrive h _ a => { f with body := .arrive h sent a }
  | _ => f

/-- A frame injected through the shaper of a composition (R342), or through none. -/
def State.inject (s : State) (comp : Option Nat) (f : Frame) : State :=
  match comp with
  | none => s.injectNow (coverFrame (s.outCh f.dst).sent f)
  | some c =>
    if s.hcp.heldFab.any (·.1 == c) || !s.shaperCovers (4 + c) (8 * f.bytes) then
      s.onHcp fun h => { h with heldFab := h.heldFab ++ [(c, f)] }
    else (s.shaperTake (4 + c) (8 * f.bytes)).injectNow (coverFrame (s.outCh f.dst).sent f)

/-- The destination is declared unreachable (R252). -/
def State.isUnreachable (s : State) (dst : Nat) : Bool := (s.out? dst).any (·.unreachable)

/-! ### Engine messages (R236) -/

/-- Engines whose frames act for the device: they carry DEV (R262). -/
def Engine.dev : Engine → Bool
  | .rse | .pge | .boot => true
  | _ => false

/-- The ENGINE frames of a message: segments of 4,096 bytes, the message itself on the LAST. -/
def engineFrames (src dst msgNum format : Nat) (m : Msg) : List Frame :=
  let n := max 1 ((m.bytes + 4095) / 4096)
  (List.range n).map fun i =>
    { mkFrame src dst m.engine.dev (.engine m.engine (i == 0) (i + 1 == n) msgNum (4096 * i) (min 4096 (m.bytes - 4096 * i))
      (if i + 1 = n then some m else none)) with rsrFormat := format }

/-- The format records to a node are written in: the lower of the node's own highest and the highest last heard from that node,
RSR_FORMAT_MIN before any (R225). -/
def State.formatFor (s : State) (n : Nat) : Nat :=
  let own := s.reg R.PHS_VERSIONS_RSR_FORMAT
  if n = s.node then own
  else match s.rse.formats.find? (·.1 == n) with
  | some (_, v) => min own v
  | none => s.reg R.PHS_VERSIONS_RSR_FORMAT_MIN

/-- The highest RSR format a node's message carries is kept (R225). -/
def State.hear (s : State) (src format : Nat) (m : Msg) : State :=
  if m.engine = .rse then s.onRse fun e => { e with formats := upsert (·.1 == src) (src, format) e.formats } else s

/-- A record's format is one this node reads (R225). -/
def State.readable (s : State) (r : Record) : Bool :=
  s.reg R.PHS_VERSIONS_RSR_FORMAT_MIN ≤ r.formatVersion && r.formatVersion ≤ s.reg R.PHS_VERSIONS_RSR_FORMAT

/-- Frames injected in turn. -/
def State.injectAll (s : State) (comp : Option Nat) : List Frame → State
  | [] => s
  | f :: fs => (s.inject comp f).injectAll comp fs

/-- A message put out to another node whatever is held behind a refused one. -/
def State.sendMsgNow (s : State) (comp : Option Nat) (dst : Nat) (m : Msg) : State :=
  let n := s.fab.msgNum
  (s.onFab fun f => { f with msgNum := (n + 1) % 65536 }).injectAll comp
    (engineFrames s.node dst n (if m.engine = .rse then s.reg R.PHS_VERSIONS_RSR_FORMAT else 0) (m.withFormat (s.formatFor dst)))

/-- A message to an engine of a node: delivered at once at this node; sent nothing while the destination is unreachable
(R252); held behind a message refused with ST_NODE_RESETTING for the same request and target (R434). -/
def State.sendMsgFor (s : State) (comp : Option Nat) (dst : Nat) (m : Msg) : State :=
  if dst = s.node then s.onFab fun f => { f with inbox := f.inbox ++ [(dst, m)] }
  else if s.isUnreachable dst then s
  else if m.req?.isSome && s.fab.nakRetries.any (fun r => r.dst == dst && decide (r.req = m.req?)) then
    s.onFab fun f => { f with nakRetries := f.nakRetries.map fun r =>
      if r.dst == dst && decide (r.req = m.req?) then { r with behind := r.behind ++ [m] } else r }
  else s.sendMsgNow comp dst m

/-- The context a request runs in, as this node knows it. -/
def State.reqCtx (s : State) (id : Nat) : Nat :=
  match s.rse.works.find? (·.r.id == id) with
  | some w => w.r.context
  | none => ((s.rse.homes.find? (·.r.id == id)).map (·.r.context)).getD 0xFFF

/-- A message to an engine of a node, shaped as work for its request's context (R342). -/
def State.sendMsg (s : State) (dst : Nat) (m : Msg) : State :=
  s.sendMsgFor (m.req?.bind fun i => s.compOf (s.reqCtx i)) dst m

/-- A message sent to several nodes. -/
def State.sendMsgs (s : State) (m : Msg) : List Nat → State
  | [] => s
  | d :: ds => (s.sendMsg d m).sendMsgs m ds

/-- A delivered message taken by its engine. -/
def State.takeMsg (s : State) (src : Nat) (m : Msg) : State :=
  s.onFab fun f => { f with inbox := dropFirst (src, m) f.inbox }

/-- A frame that is no channel's for this node taken by the unit it is for. -/
def State.takeFrame (s : State) (f : Frame) : State := s.onFab fun b => { b with arrived := dropFirst f b.arrived }

/-- An accepted frame left for its command, behind the others of its source (R253). -/
def State.queueFrame (s : State) (f : Frame) : State := s.onFab fun b => { b with accepted := b.accepted ++ [f] }

/-- An accepted frame is the next of its source to be applied (R253). -/
def State.due (s : State) (f : Frame) : Bool := (s.fab.accepted.find? (·.src == f.src)).all fun g => decide (g = f)

/-- An accepted frame taken by the unit it is for. -/
def State.takeOrdered (s : State) (f : Frame) : State := s.onFab fun b => { b with accepted := dropFirst f b.accepted }

/-! ### Events (chapter 16) -/

/-- Form O of Table 16.2. -/
def formO (st : St) (node index value : Nat) : Nat × Nat :=
  (st.code * 2 ^ 48 + node % 65536 * 2 ^ 32 + index % 2 ^ 32, value % 2 ^ 64)
/-- Form Q. -/
def formQ (st : St) (node count id : Nat) : Nat × Nat :=
  (st.code * 2 ^ 48 + node % 65536 * 2 ^ 32 + count % 2 ^ 32, id)
/-- Form P. -/
def formP (st : St) (layer first id : Nat) : Nat × Nat :=
  (st.code * 2 ^ 48 + layer % 65536 * 2 ^ 32 + first % 2 ^ 32, id)
/-- Form C. -/
def formC (st : St) (core cause pc job : Nat) : Nat × Nat :=
  (st.code * 2 ^ 48 + core % 128 * 2 ^ 41 + cause % 8 * 2 ^ 38 + pc % 2 ^ 32, job % 2 ^ 32)
/-- Form X. -/
def formX (st : St) (core table block segment pc key : Nat) : Nat × Nat :=
  (st.code * 2 ^ 48 + core % 128 * 2 ^ 41 + table % 4096 * 2 ^ 29 + block % 65536 * 2 ^ 13 + segment % 256 * 2 ^ 5,
    pc % 2 ^ 32 * 2 ^ 32 + key % 2 ^ 32)
/-- Form L. -/
def formL (st : St) (peer reason lanes port tag : Nat) : Nat × Nat :=
  (st.code * 2 ^ 48 + peer % 65536 * 2 ^ 32 + reason % 16 * 2 ^ 28 + lanes % 256 * 2 ^ 16 + port % 65536, tag)
/-- Form R. -/
def formR (st : St) (node region addr : Nat) : Nat × Nat :=
  (st.code * 2 ^ 48 + node % 65536 * 2 ^ 32 + region % 2 ^ 20, addr)
/-- Form S. -/
def formS (tile object value mismatches snap : Nat) : Nat × Nat :=
  (tile % 32 * 2 ^ 59 + object % 65536 * 2 ^ 43 + value % 2 ^ 40, min mismatches 65535 * 2 ^ 48 + snap % 2 ^ 40)
/-- Form M. -/
def formM (memory unit sub offset count : Nat) : Nat × Nat :=
  (memory % 4 * 2 ^ 62 + unit % 64 * 2 ^ 56 + sub % 256 * 2 ^ 48 + offset % 2 ^ 46, count % 2 ^ 32 * 2 ^ 32)

/-- An entry put into the ring, overwriting the oldest when 65,536 are held (R424, R425), and pushed to the host where
HCP_EVENT_DEST asks for it (R339). `own`: the entry is EVENTS_OVERWRITTEN itself. -/
def State.ringPost (s : State) (w : EvtWords) (own : Bool) : State :=
  let seq := s.reg R.EVT_HEAD_NEXT_SEQ
  let full := 65536 ≤ s.evt.entries.length
  let s := (s.setReg R.EVT_HEAD_NEXT_SEQ (seq / 2 ^ 40 * 2 ^ 40 + (seq + 1) % 2 ^ 40)).bump R.EVT_STATS_POSTED
  let s := s.bump (R.EVT_CLASS_STATS_POSTED (w.code / 256 % 16))
  let s := if full then (s.bump R.EVT_STATS_OVERWRITTEN).onEvt fun e =>
      { e with overwritten := e.overwritten + 1, byOthers := e.byOthers + bit (!own) } else s
  let s := s.onEvt fun e => { e with entries := (if full then e.entries.drop 1 else e.entries) ++ [⟨seq, w⟩] }
  let s := s.setReg R.EVT_OLDEST_OLDEST_SEQ ((s.evt.entries.head?.map (·.seq)).getD seq)
  if s.flag R.HCP_EVENT_DEST_ENABLE && s.reg R.HCP_EVENT_DEST_MIN_SEVERITY ≤ w.severity then
    s.hostSend 0 (.event (s.reg R.HCP_EVENT_ADDR_HI_ADDR * 2 ^ 64 + s.reg R.HCP_EVENT_ADDR_LO_ADDR)
      (s.reg R.HCP_EVENT_DEST_PORT) seq w)
  else s

/-- EVENTS_OVERWRITTEN posted, at most once per tick, when other events overwrote entries (R424). -/
def State.postOverwritten (s : State) : State :=
  if s.evt.byOthers = 0 || s.evt.overwrittenAt == some s.tick then s
  else
    let n := s.evt.overwritten
    let a := formO .ok s.node 0 n
    let s := s.onEvt fun e => { e with overwritten := 0, byOthers := 0, overwrittenAt := some s.tick }
    s.ringPost ⟨Ev.eventsOverwritten.code, Ev.eventsOverwritten.severity.code, 0xFFF, s.aon % 2 ^ 32, a.1, a.2⟩ true

/-- An event's words. -/
def State.evtWords (s : State) (e : Ev) (ctx : Nat) (a : Nat × Nat) : EvtWords :=
  ⟨e.code, e.severity.code, ctx % 4096, s.aon % 2 ^ 32, a.1, a.2⟩

/-- The valid manager nodes. -/
def State.managers (s : State) : List Nat :=
  ((List.range 4).filter fun m => s.flag (R.FAB_MANAGER_VALID m)).map fun m => s.reg (R.FAB_MANAGER_NODE m)

/-- An event posted for a context (0xFFF for none), and copied to the manager nodes where it is of the fabric class
(R246, R426). -/
def State.post (s : State) (e : Ev) (ctx : Nat) (a : Nat × Nat) : State :=
  let w := s.evtWords e ctx a
  let s := (s.ringPost w false).postOverwritten
  if e.cls = 2 then s.sendMsgs (.notice w) s.managers else s

end Sys2Proof.Machine
end

