-- ==== Sys2Proof/Machine/Access.lean ====
section
/-! DEFINITION. Addresses: what the spaces map (R23, R24, Table 3.1), the ranges kept from others, and the checks and
atomic operations of accesses (R256, R257). -/

namespace Sys2Proof.Machine

/-- Bytes of HBM at full capacity. -/
def State.hbmBytes (s : State) : Nat := (if s.small then 960 else 1920) * 2 ^ 30

/-- Start of the page map, the directory, the mirror region and the header array (Table 3.1). -/
def State.pageMapBase (s : State) : Nat := s.hbmBytes - 2 ^ 30
/-- Start of the request directory. -/
def State.directoryBase (s : State) : Nat := s.pageMapBase - 2 ^ 28
/-- Start of the deputy mirror region. -/
def State.mirrorBase (s : State) : Nat := s.directoryBase - 2 ^ 28
/-- Start of the page-header array, the lowest reserved byte. -/
def State.headerBase (s : State) : Nat := s.mirrorBase - 2 ^ 32

/-- The first byte below the reserved regions that channel retirement has unmapped (R362). -/
def State.usableTop (s : State) : Nat := s.headerBase - 3 * 2 ^ 30 * s.reg R.BLD_HBM_RETIRED

/-- Two byte ranges have a byte in common. -/
def meets (a n b m : Nat) : Bool := decide (0 < n ∧ 0 < m ∧ a < b + m ∧ b < a + n)

/-- A space-0 range Table 1.9 maps: "within usable capacity" (R24). -/
def State.hbmMapped (s : State) (off len : Nat) : Bool :=
  decide (off + len ≤ s.usableTop) || decide (s.headerBase ≤ off ∧ off + len ≤ s.hbmBytes)

/-- A range touches a reserved region of Table 3.1. -/
def State.touchesReserved (s : State) (off len : Nat) : Bool := meets off len s.headerBase (s.hbmBytes - s.headerBase)

/-- A range touches the KV pool (R78). -/
def State.touchesPool (s : State) (off len : Nat) : Bool :=
  meets off len (65536 * s.reg R.PGE_KV_POOL_BASE) (65536 * (s.reg R.PGE_KV_POOL_LIMIT - s.reg R.PGE_KV_POOL_BASE))

/-- A range touches the region table, which lies at FAB_REGION_BASE (section 9.8). -/
def State.touchesRegions (s : State) (off len : Nat) : Bool := meets off len (s.reg R.FAB_REGION_BASE_BASE) (2 ^ 25)

/-- A range touches the message table (R283). -/
def State.touchesMessages (s : State) (off len : Nat) : Bool :=
  s.flag R.XFR_MSG_BASE_VALID && meets off len (s.reg R.XFR_MSG_BASE_BASE) (2 ^ 24)

/-- A range within usable capacity that touches nothing the device keeps for itself. -/
def State.hbmFree (s : State) (off len : Nat) : Bool :=
  s.hbmMapped off len && !s.touchesReserved off len && !s.touchesPool off len && !s.touchesRegions off len
    && !s.touchesMessages off len

/-- The global address parts (R23). -/
def gNode (a : Nat) : Nat := a / 2 ^ 48 % 65536
/-- SPACE of a global address. -/
def gSpace (a : Nat) : Nat := a / 2 ^ 46 % 4
/-- OFFSET of a global address. -/
def gOff (a : Nat) : Nat := a % 2 ^ 46
/-- A global address from its parts. -/
def gAddr (node space off : Nat) : Nat := node * 2 ^ 48 + space * 2 ^ 46 + off

/-- A tile-buffer range Table 1.9 maps, in a tile in service. -/
def State.tileMapped (s : State) (off len : Nat) : Bool :=
  off / 2 ^ 30 = 0 && off % 2 ^ 25 + len ≤ 0x1800000 && s.tileIn (off / 2 ^ 25)

/-- The counter a space-2 offset names, where it names one of a tile in service: tile * 65,536 + counter. -/
def State.counterAt (s : State) (off : Nat) : Option Nat :=
  if off / 2 ^ 24 = 0 ∧ off % 8 = 0 ∧ s.tileIn (off / 2 ^ 19) then some (off / 8) else none

/-- The barrier a space-2 offset names. -/
def barrierAt (off : Nat) : Option Nat := if off / 2 ^ 18 = 64 then some (off / 64 % 4096) else none

/-- A range of a space that decodes under R24. -/
def State.decodes (s : State) (space off len : Nat) : Bool :=
  match space with
  | 0 => s.hbmMapped off len && !meets off len s.pageMapBase (2 ^ 30)
  | 1 => s.tileMapped off len
  | 2 => (s.counterAt off).isSome || (barrierAt off).isSome
  | _ => off / 2 ^ 32 = 0

/-- Check 2 of Table 9.13: the range decodes and lies outside the reserved regions and the region table. -/
def State.targetMapped (s : State) (space off len : Nat) : Bool :=
  s.decodes space off len && (space != 0 || !(s.touchesReserved off len || s.touchesRegions off len))

/-- The word an atomic operation leaves (Table 9.11), on `w` bits. -/
def atomicOp (w aop word operand compare : Nat) : Nat :=
  match aop with
  | 0 | 1 => (word + operand) % 2 ^ w
  | 2 => operand
  | 3 => if word = compare then operand else word
  | 4 => max word operand
  | 5 => min word operand
  | 6 => Nat.land word operand
  | _ => Nat.lor word operand

/-- Fields of the capability descriptor changed in one step: CHANGE_COUNT rises with them and CAPABILITY_CHANGED is posted
(R28). -/
def State.capChange (s : State) (fs : List (Fld × Nat)) : State :=
  if fs.all fun p => s.reg p.1 == p.2 then s
  else ((s.setRegs fs).setReg R.CAP_CHANGE_CHANGE_COUNT (s.reg R.CAP_CHANGE_CHANGE_COUNT + 1)).post .capabilityChanged
    0xFFF (formO .ok s.node 0 0)

end Sys2Proof.Machine
end

