-- ==== Sys2Proof/Machine/CoreOps.lean ====
section
/-! DEFINITION. Operations on logical cores and contexts every engine shares: a core's record, a satisfied wait, a fault
(R130) and the start of a context's teardown (R183, Table 7.6). -/

namespace Sys2Proof.Machine

/-- A core's record; one not listed is gated, without a context. -/
def State.core (s : State) (c : Nat) : Core :=
  (s.cores.find? (·.num == c)).getD
    { num := c, ctx := 0xFFF, power := .gated, pc := 0, prog := 0, wait := none, waitGated := false, squash := false,
      stopped := false, draws := 0, waitDone := 0xFFFF }

/-- The power state a core is in: GATED while it waits with its clocks gated (R305, Table 15.8). -/
def Core.powerNow (c : Core) : CorePower := if c.waitGated then .gated else c.power

/-- The tile of a logical core. -/
def coreTile (c : Nat) : Nat := c / 4

/-- A core's record put back. -/
def State.putCore (s : State) (c : Core) : State := { s with cores := upsert (·.num == c.num) c s.cores }

/-- Cores in number order waiting on something. -/
def State.waiters (s : State) (p : CoreWait → Bool) : List Core := s.cores.filter fun c => c.wait.any p

/-- A core whose wait ends: it goes on at once, or 2 µs later when its clocks were gated (R305). -/
def State.endWait (s : State) (c : Core) : State :=
  s.putCore { c with
    wait := none
    waitGated := false
    power := if c.waitGated then .waking else c.power }

/-- Several cores' waits end. -/
def State.endWaits (s : State) : List Core → State
  | [] => s
  | c :: cs => (s.endWait c).endWaits cs

/-- A core's loads, stores, signals and Mezzotint messages are given up: an answer to one is late. -/
def State.dropCoreOps (s : State) (n : Nat) : State :=
  let mine := fun (o : RemoteOp) => match o.who with
    | .core c _ _ => c == n
    | _ => false
  (s.onFab fun f => { f with remotes := f.remotes.filter fun o => !mine o }).onMzt fun m => { m with
    outs := m.outs.filter (·.core != n)
    waiting := m.waiting.filter (·.core != n) }

/-- Loads, stores and signals of a core that are not complete. -/
def State.coreRemotes (s : State) (n : Nat) : List RemoteOp :=
  s.fab.remotes.filter fun o => match o.who with
    | .core c _ _ => c == n
    | _ => false

/-- The index of the instruction a remote operation belongs to. -/
def RemoteOp.pcs (o : RemoteOp) : List Nat := match o.who with
  | .core _ _ pc => [pc]
  | _ => []

/-- The indices of a core's issued instructions that are not complete (R126). -/
def State.openInstrs (s : State) (c : Core) : List Nat :=
  (c.tail.map (·.pc) ++ (s.coreRemotes c.num).flatMap RemoteOp.pcs ++ if c.wait.isSome then [c.pc - 1] else []).dedup

/-- A core stops: its instructions are squashed, and write no further result (R128). -/
def State.stopCore (s : State) (c : Core) : State :=
  ((s.putCore { c with
    wait := none
    waitGated := false
    power := c.powerNow
    squash := false
    stopped := true
    tail := [] }).dropCoreOps c.num).count (R.CORE_SQUASH_SQUASHED c.num) (s.openInstrs c).length

/-- A core is squashed under R128: a waiting one at once, another at its next tile-op boundary. -/
def State.squashCore (s : State) (c : Core) : State :=
  match c.wait with
  | some (.counter ..) | some (.barrier ..) => (s.stopCore c).bump R.SYN_WAIT_STATS_SQUASHED
  | some _ => s.stopCore c
  | none => if c.stopped then s else s.putCore { c with squash := true }

/-- The commit of a request is ordered: a SCOMMIT that waits for it writes the request's result, and goes on after its
last (R149). -/
def State.commitResult (s : State) (c : Core) (z r : Nat) (st : St) (n gen kv : Nat) : State :=
  s.wr .op (c.num * obSize + z + 16 * r) (toBytes 4 st.code ++ toBytes 4 n ++ toBytes 4 gen ++ toBytes 4 kv)

/-- Every core that waits for a request's commit. -/
def State.commitOrdered (s : State) (id : Nat) (st : St) (n gen kv : Nat) : State :=
  s.cores.foldl (fun s c =>
    match c.wait with
    | some (.commit left z) =>
      match left.find? (·.2 == id) with
      | none => s
      | some (r, _) =>
        let s := s.commitResult c z r st n gen kv
        let left := left.filter (·.2 != id)
        if left.isEmpty then s.endWait c else s.putCore { c with wait := some (.commit left z) }
    | _ => s) s

/-- Several cores squashed. -/
def State.squashCores (s : State) : List Core → State
  | [] => s
  | c :: cs => (s.squashCore c).squashCores cs

/-- The throttle in force changes; the time spent below 100% is counted up to now (R414). -/
def State.setThrottle (s : State) (p : Nat) : State :=
  let s := if s.reg R.PCR_STATUS_THROTTLE < 100 then s.count R.PCR_THROTTLE_TIME_US (s.aon - s.pcr.throttleAt) else s
  (s.onPcr fun x => { x with throttleAt := s.aon }).setReg R.PCR_STATUS_THROTTLE p

/-- A context that is not FREE. -/
def State.ctx? (s : State) (c : Nat) : Option Ctx := s.sch.ctxs.find? (·.num == c)

/-- A context's record put back. -/
def State.putCtx (s : State) (c : Ctx) : State :=
  s.onSch fun b => { b with ctxs := upsert (·.num == c.num) c b.ctxs }

/-- The cores now running a context. -/
def State.ctxCores (s : State) (c : Nat) : List Core := s.cores.filter fun x => x.ctx == c

/-- Teardown of a context begins (Table 7.3, rows 5, 7 and 8; step 1 of R183): it enters CLOSING with its cause, and
every running instruction of it is squashed. -/
def State.closeCtx (s : State) (x : Ctx) (cause : CloseCause) (st : St) (core pc : Nat) : State :=
  let s := s.putCtx { x with
    state := .closing
    cause := cause
    status := st
    core := core
    pc := pc }
  (s.squashCores (s.ctxCores x.num)).onSch fun b => { b with
    batches := updateAll (fun y => y.ctx == x.num) (fun y => { y with squashed := true }) b.batches
    shards := updateAll (fun y => y.ctx == x.num) (fun y => { y with squashed := true }) b.shards }

/-- A context in OPEN, RUNNING or DRAINING is torn down (Table 7.3, row 8). -/
def State.tearDown (s : State) (c : Nat) (cause : CloseCause) (st : St) (core pc : Nat) : State :=
  match s.ctx? c with
  | some x =>
    match x.state with
    | .open_ | .running | .draining => s.closeCtx x cause st core pc
    | _ => s
  | none => s

/-- Every one of several contexts torn down for one cause. -/
def State.tearDownAll (s : State) (cause : CloseCause) (st : St) : List Nat → State
  | [] => s
  | c :: cs => (s.tearDown c cause st 0 0).tearDownAll cause st cs

/-- The logical cores of core group `g` of a context (section 7.2). -/
def Desc.group (d : Desc) (g : Nat) : List Nat := (d.cores.drop (g * d.groupSize)).take d.groupSize

/-- The core groups of a context. -/
def Desc.groups (d : Desc) : Nat := d.cores.length / d.groupSize

/-- Every core of a group is in service. -/
def State.groupIn (s : State) (d : Desc) (g : Nat) : Bool := (d.group g).all fun c => s.tileIn (c / 4)

/-- The LEARN contexts of a job that are not FREE or CLOSING. -/
def State.jobContexts (s : State) (job : Nat) : List Nat :=
  (s.sch.ctxs.filter fun x => decide (x.desc.kind = .learn) && x.desc.jobId == job && decide (x.state ≠ .closing)).map (·.num)

/-! ### Mezzotint messages (R111) -/

/-- TYPE of each kind of message (Table 4.1). -/
inductive MztType where
  | query | partial_ | kvWrite | kvAck
  deriving DecidableEq, Repr

/-- TYPE's value. -/
def MztType.code : MztType → Nat
  | .query => 0 | .partial_ => 1 | .kvWrite => 2 | .kvAck => 3

/-- Bytes 0x00 to 0x3B of a message's header (Table 4.1). -/
def MztMsg.head (m : MztMsg) (t : MztType) : List Byte :=
  let at_ := fun (v w lo : Nat) => v % 2 ^ w * 2 ^ lo
  toBytes 8 (m.req % 2 ^ 64) ++ toBytes 8 (at_ m.epoch 32 32 + m.tag % 2 ^ 32)
    ++ toBytes 8 (t.code * 2 ^ 60 + at_ m.format 4 56 + at_ m.status.code 16 32 + at_ m.modelId 16 16 + m.layer % 2 ^ 16)
    ++ toBytes 8 (at_ m.policyVersion 32 32 + m.basePos % 2 ^ 32) ++ toBytes 8 (at_ m.scale 32 32 + m.window % 2 ^ 32)
    ++ toBytes 8 (at_ m.rows 9 55 + at_ m.qheads 9 46 + at_ m.headDim 9 37 + at_ m.kvHeads 8 29 + bit m.lc * 2 ^ 28)
    ++ toBytes 8 (at_ m.pages 32 32 + m.payload.length % 2 ^ 32) ++ toBytes 4 0

/-- The CHECK a message is to carry. -/
def MztMsg.crc (m : MztMsg) (t : MztType) : Nat := crc32c (m.head t ++ m.payload)

/-- CHECK verifies. -/
def MztMsg.checkOk (m : MztMsg) (t : MztType) : Bool := m.check == m.crc t

/-- A message with its CHECK. -/
def MztMsg.sealed (m : MztMsg) (t : MztType) : MztMsg := { m with check := m.crc t }

/-- A message as it travels: its 64-byte header and its payload, the lowest byte of each field first (R5). -/
def MztMsg.wire (m : MztMsg) (t : MztType) : List Byte := m.head t ++ toBytes 4 m.check ++ m.payload

/-- A PARTIAL in answer to a query: the fields of Table 4.1 that are not a PARTIAL's are 0. -/
def MztMsg.partial_ (q : MztMsg) (st : St) (pages : Nat) (payload : List Byte) : MztMsg :=
  MztMsg.sealed { q with format := 1, status := st, scale := 0, window := 0, lc := false, pages := pages, payload := payload }
    .partial_

/-- A KV_ACK in answer to a KV_WRITE. -/
def MztMsg.kvAck (m : MztMsg) (st : St) : MztMsg :=
  MztMsg.sealed { m with format := 1, status := st, scale := 0, window := 0, rows := 0, qheads := 0, lc := false, pages := 0,
                         payload := [] } .kvAck

/-- The holder's queue replaced once a query has left it: a queue left empty is empty from now on (R216). -/
def State.setQueue (s : State) (q : List MztQueued) : State :=
  let s := s.onMzt fun m => { m with queue := q }
  if q.isEmpty then s.onPhs fun p => { p with holderAt := s.aon } else s

/-- A query is answered without a result (R115, R124). -/
def State.refuseQuery (s : State) (src : Nat) (q : MztMsg) (st : St) : State :=
  let s := s.bump R.MZT_SERVE_STATS_REFUSED
  let s := match st with
    | .epochStale => s.bump R.MZT_ERR_STATS_STALE
    | .pageMissing => s.bump R.MZT_ERR_STATS_MISSING
    | _ => s
  s.sendMsg src (.mztPartial (q.partial_ st 0 []))

/-- Every queued query is answered with a status. -/
def State.refuseQueue (s : State) (st : St) : State :=
  let qs := s.mzt.queue
  if qs.isEmpty then s else qs.foldl (fun s x => s.refuseQuery x.src x.q st) (s.setQueue [])

/-- A context faults (Table 7.6): it is torn down; queries of a holder's service are answered (R106); a LEARN context's whole job is aborted here and on every node of its
list A (R200). -/
def State.faultCtx (s : State) (c : Nat) (st : St) (core pc : Nat) : State :=
  match s.ctx? c with
  | none => s
  | some x =>
    let s := s.tearDown c .fault st core pc
    let s := if s.reg R.MZT_CTRL_CONTEXT = c then s.refuseQueue .pageMissing else s
    if x.desc.kind = .learn then
      (s.tearDownAll .jobAbort .ok ((s.jobContexts x.desc.jobId).filter (· != c))).sendMsgs (.jobAbort x.desc.jobId)
        (x.desc.listA.filter (· != s.node))
    else s

/-- A core takes a fault of Table 5.2 (R130): it stops, its other instructions are squashed (R128), CORE_FAULT names the status, opcode
and PC, CONTEXT_FAULT is posted, and its context is torn down. -/
def State.coreFault (s : State) (c : Nat) (st : St) (pc opcode : Nat) : State :=
  let k := s.core c
  let others := (s.openInstrs k).filter (· != pc)
  let s := ((s.putCore { k with
    stopped := true
    wait := none
    waitGated := false
    power := k.powerNow
    tail := [] }).dropCoreOps c).count (R.CORE_SQUASH_SQUASHED c) others.length
  let s := s.setRegs [(R.CORE_FAULT_STATUS c, st.code), (R.CORE_FAULT_OPCODE c, opcode), (R.CORE_FAULT_PC c, pc)]
  let s := if st = .poisonRead then s.bump R.EVT_ECC_STATS_POISON_READS else s
  let job := ((s.ctx? k.ctx).map (·.desc.jobId)).getD 0
  let s := s.post .contextFault k.ctx (formC st c 0 pc job)
  let s := s.onSch fun b => { b with
    batches := updateAll (fun y => y.ctx == k.ctx && y.left.contains c) (fun y => { y with faulted := true }) b.batches }
  s.faultCtx k.ctx st c pc

end Sys2Proof.Machine
end

