-- ==== Sys2Proof/Machine/Sync.lean ====
section
/-! DEFINITION. The sync units (chapter 11): counters, waits, registration barriers, the residue check. -/

namespace Sys2Proof.Machine

/-! ### Counters (R300, R301) -/

/-- VALUE of a counter, by key tile * 65,536 + counter. -/
def State.counter (s : State) (key : Nat) : Nat := lookupD 0 s.syn.counters key

/-- The condition of a WAIT (R304). -/
def waitHolds (value v : Nat) : Bool := decide ((value % 2 ^ 24 + 2 ^ 24 - v % 2 ^ 24) % 2 ^ 24 < 2 ^ 23)

/-- The condition of a work request's WAIT_KIND 1 or 2 (R279). -/
def thresholdMet (value threshold : Nat) : Bool :=
  decide ((value % 2 ^ 40 + 2 ^ 40 - threshold % 2 ^ 40) % 2 ^ 40 < 2 ^ 39)

/-- The VALID transfer queues whose post counter a counter is (R274). -/
def State.postQueues (s : State) (key : Nat) : List Nat :=
  (s.xfr.queues.filter fun q => 64 ≤ q.q && s.flag (R.XFR_Q_A_VALID q.q)
    && s.reg (R.XFR_Q_B_POST_TILE q.q) * 65536 + s.reg (R.XFR_Q_B_POST_CTR q.q) == key).map (·.q)

/-- A queue whose posts exceed its ring enters ERROR (R276). -/
def State.ringCheck (s : State) (key q : Nat) : State :=
  if !s.flag (R.XFR_Q_A_ERROR q)
      && 2 ^ s.reg (R.XFR_Q_B_DEPTH_LOG2 q) < s.counter key - s.reg (R.XFR_Q_C_COMPLETED q) then
    s.setRegs [(R.XFR_Q_A_ERROR q, 1), (R.XFR_Q_B_ERROR_STATUS q, St.queueFull.code)]
  else s

/-- Every queue a counter posts to is checked (R276). -/
def State.checkPosted (s : State) (key : Nat) : State := (s.postQueues key).foldl (fun s q => s.ringCheck key q) s

/-- Cores whose WAIT on a counter its value now satisfies (R304). -/
def State.satisfied (s : State) (key : Nat) : List Core :=
  s.waiters fun w => match w with
    | .counter t k x => t * 65536 + k == key && waitHolds (s.counter key) x
    | _ => false

/-- A counter's VALUE alone, modulo 2^40. -/
def State.storeCounter (s : State) (key v : Nat) : State :=
  s.onSyn fun y => { y with counters := assign 0 key (v % 2 ^ 40) y.counters }

/-- The counter a completing instruction of a core increments by 1 (R144). -/
def Core.doneKey (c : Core) : List Nat := if c.waitDone = 0xFFFF then [] else [c.num / 4 * 65536 + c.waitDone]

/-- Increments by 1 applied in turn; each ends the waits it satisfies, which bring further increments. -/
def State.bumpCounters (s : State) : List Nat → Nat → State
  | [], _ => s
  | _ :: _, 0 => s
  | k :: ks, n + 1 =>
    let s := s.storeCounter k (s.counter k + 1)
    let cs := s.satisfied k
    (((s.endWaits cs).count R.SYN_WAIT_STATS_WAITS cs.length).checkPosted k).bumpCounters (ks ++ cs.flatMap Core.doneKey) n

/-- Waits of some cores end, and their instructions complete. -/
def State.completeWaits (s : State) (cs : List Core) : State :=
  (s.endWaits cs).bumpCounters (cs.flatMap Core.doneKey) (s.cores.length + cs.length)

/-- Cores whose MZQUERY or MZWRITE has nothing left to wait for go on. -/
def State.mztGoOn (s : State) : State :=
  s.completeWaits (s.cores.filter fun c => decide (c.wait = some .mzt) && !s.mzt.outs.any (·.core == c.num)
    && !s.mzt.waiting.any (·.core == c.num))

/-- A counter's VALUE set, modulo 2^40, and everything that watches it re-evaluated. -/
def State.setCounter (s : State) (key v : Nat) : State :=
  let s := s.storeCounter key v
  let cs := s.satisfied key
  ((s.completeWaits cs).count R.SYN_WAIT_STATS_WAITS cs.length).checkPosted key

/-- A signed amount added to a counter. -/
def State.addCounter (s : State) (key : Nat) (d : Int) : State :=
  s.setCounter key (((s.counter key : Int) + d) % 2 ^ 40).toNat

/-- A completing instruction's DONE_CTR on its core's tile. -/
def State.doneCtr (s : State) (core done : Nat) : State :=
  if done = 0xFFFF then s else s.addCounter (core / 4 * 65536 + done) 1

/-- A 24-bit field as a signed number. -/
def sext24 (v : Nat) : Int := if v % 2 ^ 24 < 2 ^ 23 then (v % 2 ^ 24 : Int) else (v % 2 ^ 24 : Int) - 2 ^ 24

/-- The counter SYN_CTR_SEL selects. -/
def State.selCounter (s : State) : Nat := s.reg R.SYN_CTR_SEL_TILE * 65536 + s.reg R.SYN_CTR_SEL_COUNTER

/-- Software sets the selected counter; a withdrawn tile ignores the write (Table 11.6). -/
def State.ctrDataWrite (s : State) (value : Nat) : State :=
  if s.tileIn (s.reg R.SYN_CTR_SEL_TILE) then s.setCounter s.selCounter value else s

/-- A write to SYN_CTR_DATA. -/
def execSynCtrDataWrite (value : Nat) (s : State) : Host.Outcome State Fault Refusal := .next (s.ctrDataWrite value)

/-! ### Barriers (section 11.4) -/

/-- A barrier command's outcome in SYN_BAR_STATUS. -/
def State.barStatus (s : State) (op bar : Nat) (st : St) : State :=
  s.setRegs [(R.SYN_BAR_CMD_OP, op), (R.SYN_BAR_CMD_BARRIER, bar), (R.SYN_BAR_STATUS_STATUS, st.code)]

/-- The arguments of CONFIGURE are in range (R309, step 2). -/
def State.barArgsOk (s : State) : Bool :=
  let n := s.reg R.SYN_BAR_ARG0_MEMBER_COUNT
  let a := s.reg R.SYN_BAR_ARG1_MEMBERS
  1 ≤ s.reg R.SYN_BAR_ARG0_PARTICIPANTS && 1 ≤ n && n ≤ 4096 && a % 2 == 0 && s.hbmFree a (2 * n)

/-- CONFIGURE of a barrier (R309). -/
def State.barConfigure (s : State) (bar : Nat) : State :=
  if s.reg (R.SYN_BAR_A_STATE bar) ≠ 0 then s.barStatus 1 bar .tableBusy
  else if !s.barArgsOk then s.barStatus 1 bar .badParam
  else ((s.setRegs [(R.SYN_BAR_A_STATE bar, 1), (R.SYN_BAR_A_ROUND bar, s.reg R.SYN_BAR_ARG0_ROUND),
    (R.SYN_BAR_A_PARTICIPANTS bar, s.reg R.SYN_BAR_ARG0_PARTICIPANTS), (R.SYN_BAR_A_ARRIVED bar, 0),
    (R.SYN_BAR_B_EARLY bar, 0), (R.SYN_BAR_B_ACKS_PENDING bar, 0),
    (R.SYN_BAR_B_MEMBER_COUNT bar, s.reg R.SYN_BAR_ARG0_MEMBER_COUNT),
    (R.SYN_BAR_C_MEMBERS bar, s.reg R.SYN_BAR_ARG1_MEMBERS), (R.SYN_BAR_D_COMPLETED bar, 0)]).barStatus 1 bar .ok)

/-- CONFIGURE. -/
def execBarrierConfigure (bar : Nat) (s : State) : Host.Outcome State Fault Refusal := .next (s.barConfigure bar)

/-- FREE of an idle COLLECTING barrier (R309). -/
def State.barFree (s : State) (bar : Nat) : State :=
  if s.reg (R.SYN_BAR_A_STATE bar) = 1 ∧ s.reg (R.SYN_BAR_A_ARRIVED bar) = 0 ∧ s.reg (R.SYN_BAR_B_EARLY bar) = 0 then
    (s.setReg (R.SYN_BAR_A_STATE bar) 0).barStatus 2 bar .ok
  else s.barStatus 2 bar .badState

/-- FREE. -/
def execBarrierFree (bar : Nat) (s : State) : Host.Outcome State Fault Refusal := .next (s.barFree bar)

/-- The member list of a barrier, read at each release (R309). -/
def State.barMembers (s : State) (bar : Nat) : List Nat :=
  (List.range (s.reg (R.SYN_BAR_B_MEMBER_COUNT bar))).map fun i =>
    s.rdNum .hbm (s.reg (R.SYN_BAR_C_MEMBERS bar) + 2 * i) 2

/-- A complete round is released: the barrier is RELEASING and its members are sent the release; one that is unreachable is
reported and counts as having acknowledged (R312, steps 1 to 3; log entry 27). -/
def State.releaseRound (s : State) (bar : Nat) : State :=
  let ms := s.barMembers bar
  let up := ms.filter fun n => !s.isUnreachable n
  let round := s.reg (R.SYN_BAR_A_ROUND bar)
  let s' := s.setRegs [(R.SYN_BAR_A_STATE bar, 2), (R.SYN_BAR_B_ACKS_PENDING bar, up.length)]
  let s' := s'.onSyn fun y => { y with ackWait := y.ackWait ++ up.map fun n => (bar, n) }
  (ms.filter s.isUnreachable).foldl (fun s n => s.post .barrierMemberLost 0xFFF (formO .ok n bar round))
    (s'.sendMsgs (.barRelease bar round) up)

/-- Every member has acknowledged: the round number advances and early arrivals count (R312, step 4). -/
def State.advanceRound (s : State) (bar : Nat) : State :=
  (s.setRegs [(R.SYN_BAR_A_ROUND bar, s.reg (R.SYN_BAR_A_ROUND bar) + 1),
    (R.SYN_BAR_A_ARRIVED bar, s.reg (R.SYN_BAR_B_EARLY bar)), (R.SYN_BAR_B_EARLY bar, 0), (R.SYN_BAR_A_STATE bar, 1),
    (R.SYN_BAR_D_COMPLETED bar, s.reg (R.SYN_BAR_D_COMPLETED bar) + 1)]).bump R.SYN_BAR_STATS_ROUNDS

/-- Rounds completed in turn: one no member is left to acknowledge advances at once, and the early arrivals may fill the next
(R312). -/
def State.completeRounds (s : State) (bar : Nat) : Nat → State
  | 0 => s
  | n + 1 =>
    let s := s.releaseRound bar
    if s.reg (R.SYN_BAR_B_ACKS_PENDING bar) = 0 then
      let early := s.reg (R.SYN_BAR_B_EARLY bar)
      let s := s.advanceRound bar
      if early = s.reg (R.SYN_BAR_A_PARTICIPANTS bar) then s.completeRounds bar n else s
    else s

/-- A round completes; at most the next completes with it, for EARLY is then 0. -/
def State.completeRound (s : State) (bar : Nat) : State := s.completeRounds bar 2

/-- ACKS_PENDING has reached 0: the round number advances; a round the early arrivals fill completes at once (R312, steps 4
and 5). -/
def State.closeRound (s : State) (bar : Nat) : State :=
  let early := s.reg (R.SYN_BAR_B_EARLY bar)
  let s := s.advanceRound bar
  if early = s.reg (R.SYN_BAR_A_PARTICIPANTS bar) then s.completeRound bar else s

/-- A member counts as having acknowledged (R312, step 3). -/
def State.barAck (s : State) (bar node : Nat) : State :=
  if s.syn.ackWait.contains (bar, node) then
    let n := s.reg (R.SYN_BAR_B_ACKS_PENDING bar) - 1
    let s := (s.onSyn fun y => { y with ackWait := dropFirst (bar, node) y.ackWait }).setReg
      (R.SYN_BAR_B_ACKS_PENDING bar) n
    if n = 0 then s.closeRound bar else s
  else s

/-- An arrival at its barrier by the first matching row of Table 11.3, and its status. -/
def State.arrive (s : State) (bar : Nat) (a : ArriveMsg) : State × St :=
  let st := s.reg (R.SYN_BAR_A_STATE bar)
  let d := (a.round % 65536 + 65536 - s.reg (R.SYN_BAR_A_ROUND bar)) % 65536
  let p := s.reg (R.SYN_BAR_A_PARTICIPANTS bar)
  if st = 0 then (s.bump R.SYN_BAR_STATS_REFUSED, .badState)
  else if 32768 ≤ d then (s.bump R.SYN_BAR_STATS_REFUSED, .barrierStale)
  else if d = 0 ∧ st = 1 then
    let s := s.setReg (R.SYN_BAR_A_ARRIVED bar) (s.reg (R.SYN_BAR_A_ARRIVED bar) + 1)
    (if s.reg (R.SYN_BAR_A_ARRIVED bar) = p then s.completeRound bar else s, .ok)
  else if d = 0 then (s.bump R.SYN_BAR_STATS_REFUSED, .barrierOverrun)
  else if d = 1 ∧ s.reg (R.SYN_BAR_B_EARLY bar) < p then
    ((s.setReg (R.SYN_BAR_B_EARLY bar) (s.reg (R.SYN_BAR_B_EARLY bar) + 1)).bump R.SYN_BAR_STATS_EARLY, .ok)
  else (s.bump R.SYN_BAR_STATS_REFUSED, .barrierOverrun)

/-- The barrier node receives RELEASE_ACK (R312). -/
def execReleaseAck (src bar round : Nat) (s : State) : Host.Outcome State Fault Refusal :=
  let s := s.takeMsg src (.releaseAck bar round)
  if s.reg (R.SYN_BAR_A_STATE bar) = 2 ∧ s.reg (R.SYN_BAR_A_ROUND bar) = round then .next (s.barAck bar src)
  else .next s

/-- A member receives BARRIER_RELEASE: every matching ARRIVE ends and the release is acknowledged (R313). -/
def execBarrierRelease (src bar round : Nat) (s : State) : Host.Outcome State Fault Refusal :=
  let s := s.takeMsg src (.barRelease bar round)
  let cs := s.waiters fun w => decide (w = .barrier src bar round)
  .next ((s.completeWaits cs).sendMsg src (.releaseAck bar round))

/-- Cores waiting at a node's barriers fault with a status (R313). -/
def State.faultBarrierWaiters (s : State) (st : St) : List Core → State
  | [] => s
  | c :: cs => (s.coreFault c.num st (c.pc - 1) 0x8A).faultBarrierWaiters st cs

/-- The cores waiting on a barrier of a node. -/
def State.barrierWaiters (s : State) (node : Nat) : List Core :=
  s.waiters fun w => match w with
    | .barrier n _ _ => n == node
    | _ => false

/-- A member receives BARRIER_ABORT (R313). -/
def execBarrierAbort (src bar round : Nat) (status : St) (s : State) : Host.Outcome State Fault Refusal :=
  let s := s.takeMsg src (.barAbort bar round status)
  .next (s.faultBarrierWaiters status (s.barrierWaiters src))

/-- A node is unreachable: it counts as having acknowledged every release, and cores waiting on its barriers fault
(R312, R313). -/
def State.syncNodeLost (s : State) (node : Nat) : State :=
  let pend := (s.syn.ackWait.filter (·.2 == node)).map (·.1)
  let s := pend.foldl (fun s b =>
    (s.post .barrierMemberLost 0xFFF (formO .ok node b (s.reg (R.SYN_BAR_A_ROUND b)))).barAck b node) s
  s.faultBarrierWaiters .nodeUnreachable (s.barrierWaiters node)

/-- A WAIT or ARRIVE exceeds the WAIT_LIMIT_MS it was issued under; 0 is no limit (R306, R319). -/
def execWaitLimitExpiry (core : Nat) (s : State) : Host.Outcome State Fault Refusal :=
  let c := s.core core
  if c.waitLimit = 0 then .next s else
  match c.wait with
  | some (.counter ..) => .next ((s.bump R.SYN_WAIT_STATS_TIMEOUTS).coreFault core .waitTimeout (c.pc - 1) 0x88)
  | some (.barrier ..) => .next ((s.bump R.SYN_WAIT_STATS_TIMEOUTS).coreFault core .waitTimeout (c.pc - 1) 0x8A)
  | _ => .next s

/-- A waiting core gates its clocks after GATE_AFTER_US (R305). -/
def execWaitGateExpiry (core : Nat) (s : State) : Host.Outcome State Fault Refusal :=
  let c := s.core core
  match c.wait with
  | some (.counter ..) | some (.barrier ..) => .next (s.putCore { c with waitGated := true })
  | _ => .next s

/-! ### Leaving objects as found (R316, R317) -/

/-- A post counter of a VALID queue is EXCLUDED (R316). -/
def State.excluded (s : State) (key : Nat) : Bool := !(s.postQueues key).isEmpty

/-- The tiles that hold a core of a context. -/
def Desc.tiles (d : Desc) : List Nat := (d.cores.map (· / 4)).dedup

/-- Marking of a context's counters and barriers at OPEN (R316). -/
def State.markObjects (s : State) (c : Nat) (d : Desc) : State :=
  let keys := d.tiles.flatMap fun t => (List.range d.ctrCount).map fun i => t * 65536 + d.ctrFirst + i
  let fresh := keys.filter fun k => !s.excluded k && !s.syn.owners.any (·.key == k)
  let s := s.onSyn fun y => { y with owners := y.owners ++ fresh.map fun k => ⟨k, c, s.counter k⟩ }
  ((List.range d.barCount).map (d.barFirst + ·)).foldl (fun s b =>
    if s.reg (R.SYN_BAR_A_OWNER b) = 0xFFF then s.setReg (R.SYN_BAR_A_OWNER b) c else s) s

/-- The residue events of one tile's counters. -/
def State.residueTile (s : State) (c : Nat) (bad : List CtrOwner) (t : Nat) : State :=
  let l := bad.filter fun o => o.key / 65536 == t
  match l with
  | [] => s
  | o :: _ => s.post .syncResidue c (formS t (o.key % 65536) (s.counter o.key) l.length o.snap)

/-- The residue check of a context being torn down (R317). -/
def State.residueCheck (s : State) (c : Nat) : State :=
  let own := s.syn.owners.filter (·.owner == c)
  let checked := own.filter fun o => !s.excluded o.key
  let bad := checked.filter fun o => s.counter o.key != o.snap
  let bars := (List.range 4096).filter fun b => s.reg (R.SYN_BAR_A_OWNER b) == c
  let badBars := bars.filter fun b => s.reg (R.SYN_BAR_A_ARRIVED b) != 0 || s.reg (R.SYN_BAR_B_EARLY b) != 0
    || s.reg (R.SYN_BAR_A_STATE b) == 2
  let s := ((bad.map fun o => o.key / 65536).dedup).foldl (fun s t => s.residueTile c bad t) s
  let s := match badBars with
    | [] => s
    | b :: _ => s.post .syncResidue c
        (formS 0x1F b (s.reg (R.SYN_BAR_B_EARLY b)) badBars.length (s.reg (R.SYN_BAR_A_ARRIVED b)))
  let s := (s.count R.SYN_RESIDUE_STATS_CHECKED (checked.length + bars.length)).count R.SYN_RESIDUE_STATS_MISMATCHED
    (bad.length + badBars.length)
  let s := bars.foldl (fun s b => s.setReg (R.SYN_BAR_A_OWNER b) 0xFFF) s
  s.onSyn fun y => { y with owners := y.owners.filter (·.owner != c) }

end Sys2Proof.Machine
end

