-- ==== Sys2Proof/Machine/Regions.lean ====
section
/-! DEFINITION. Mordant keys and regions (section 9.8): the region table, the target checks of Table 9.13, atomics and
covered signals at their target (R254 to R257), refused sprayed packets (R265). -/

namespace Sys2Proof.Machine

/-- Region 0: the KV pool under FAB_POOL_KEY (R262). -/
def State.poolRegion (s : State) : Region :=
  { num := 0, state := .valid, permR := true, permW := true, permA := false, space := 0, anySource := true, source := 0,
    key := s.reg R.FAB_POOL_KEY_KEY, base := 65536 * s.reg R.PGE_KV_POOL_BASE,
    length := 65536 * (s.reg R.PGE_KV_POOL_LIMIT - s.reg R.PGE_KV_POOL_BASE), inflight := 0 }

/-- A region entry that is not FREE. -/
def State.region? (s : State) (n : Nat) : Option Region :=
  if n = 0 then some s.poolRegion else s.fab.regions.find? (·.num == n)

/-- A region's entry put back. -/
def State.putRegion (s : State) (r : Region) : State :=
  s.onFab fun f => { f with regions := upsert (·.num == r.num) r f.regions }

/-- The permission a kind of frame needs (Table 9.13, row 7). -/
inductive Perm where
  | read | write | atomic
  deriving DecidableEq, Repr

/-- A region grants a permission. -/
def Region.grants (r : Region) : Perm → Bool
  | .read => r.permR | .write => r.permW | .atomic => r.permA

/-- Rows 3 to 7 of Table 9.13 on a region entry. -/
def regionCheck (r? : Option Region) (region : Nat) (dev : Bool) (src key space off len : Nat) (p : Perm) : Option St :=
  match r? with
  | none => some .keyInvalid
  | some r =>
    if r.state = .revoking then some .keyRevoked
    else if region = 0 ∧ !dev then some .keyInvalid
    else if !r.anySource && r.source != src then some .keyInvalid
    else if r.key ≠ key then some .keyInvalid
    else if r.space ≠ space ∨ off < r.base ∨ r.base + r.length < off + len then some .accessDenied
    else if !r.grants p then some .accessDenied
    else none

/-- Rows 1 to 7 of Table 9.13: the status of the first check an access from a node fails. An access of the node's own
carries no key (R258); space 3 is open to register accesses alone (R260). -/
def State.targetCheck (s : State) (src : Nat) (dev : Bool) (h : OpHdr) (p : Perm) : Option St :=
  let space := gSpace h.addr
  let off := gOff h.addr
  if s.transitOnly then some .nodeResetting
  else if !s.targetMapped space off h.len then some .addrInvalid
  else if space = 3 then some .accessDenied
  else if src = s.node then none
  else regionCheck (s.region? h.region) h.region dev src h.key space off h.len p

/-- A check reaches the region entry: the frame is another node's, and rows 1 and 2 of Table 9.13 pass. -/
def State.looksUp (s : State) (src : Nat) (h : OpHdr) : Bool :=
  src != s.node && !s.transitOnly && s.targetMapped (gSpace h.addr) (gOff h.addr) h.len && gSpace h.addr != 3

/-- A look-up of a region entry is a hit or a miss of one die's region cache; the spec states neither which die's nor which
(FAB_REGION_CACHE, log entry 95). -/
def State.regionLooked (s : State) (src : Nat) (h : OpHdr) : State :=
  if s.looksUp src h then
    let die := Config.unstated s.fresh / 2 % 4
    (s.bump (if Config.unstated s.fresh % 2 = 0 then R.FAB_REGION_CACHE_HITS die else R.FAB_REGION_CACHE_MISSES die)).next.2
  else s

/-- A refusal under Table 9.13 is counted (R263); one under R302 is none of that table's. -/
def State.countRefusal (s : State) (r : Option St) : State :=
  if r.isSome then s.bump R.FAB_STATS_KEY_REFUSALS else s

/-- A response frame to a request; one to the node itself never leaves it (R258). -/
def State.respond (s : State) (f : Frame) (b : Body) (poison : Bool) : State :=
  let r := { mkFrame s.node f.src false b with poison := poison }
  if f.src = s.node then s.queueFrame r else s.inject none r

/-! ### Atomics (R257) -/

/-- Row 8 of Table 9.13 fails: an ATOMIC is not aligned, or its AOP is Rsvd. -/
def misaligned (off aop : Nat) : Bool := decide (off % 8 ≠ 0 ∨ 7 < aop)

/-- The status of an ATOMIC beyond rows 1 to 7: row 8, and after it the space-2 rules of R301 and R302. -/
def atomicCheck (space off aop operand compare : Nat) : Option St :=
  if misaligned off aop then some .badParam
  else if space = 2 then
    if (barrierAt off).isSome then some .addrInvalid
    else if 2 ^ 40 ≤ operand ∨ 2 ^ 40 ≤ compare then some .badParam
    else none
  else if 1 < space then some .addrInvalid
  else none

/-- An atomic performed at this node: the word before, and the state after. -/
def State.atomicAt (s : State) (space off aop operand compare : Nat) : Nat × State :=
  if space = 2 then
    match s.counterAt off with
    | some k => (s.counter k, s.setCounter k (atomicOp 40 aop (s.counter k) operand compare))
    | none => (0, s)
  else
    let m := spaceMem space
    let w := s.rdNum m off 8
    (w, s.wrNum m off 8 (atomicOp 64 aop w operand compare))

/-- A target performs a remote ATOMIC (R257, R263). -/
def State.atomicFrame (s : State) (f : Frame) (h : OpHdr) (aop operand compare : Nat) : State :=
  let t := s.targetCheck f.src f.dev { h with len := 8 } .atomic
  let s := s.regionLooked f.src h
  match t.orElse fun _ => atomicCheck (gSpace h.addr) (gOff h.addr) aop operand compare with
  | some st => (s.countRefusal (t.orElse fun _ => if misaligned (gOff h.addr) aop then some .badParam else none)).respond f
      (.atomicResp h.tag st 0) false
  | none =>
    let (w, s) := s.atomicAt (gSpace h.addr) (gOff h.addr) aop operand compare
    s.respond f (.atomicResp h.tag .ok (if aop = 0 then 0 else w)) false

/-! ### Signals and arrivals at their target (R254, R302) -/

/-- The bytes a signal covers are accounted (R254). -/
def covered (accounted cover : Nat) : Bool :=
  decide ((accounted % 2 ^ 40 + 2 ^ 40 - cover % 2 ^ 40) % 2 ^ 40 < 2 ^ 39)

/-- A SIGNAL or ARRIVE whose cover is accounted is checked, applied and answered; the release of a round an ARRIVE completes follows
its answer (R313). -/
def State.applySignal (s : State) (f : Frame) : State :=
  match f.body with
  | .signal h _ v =>
    let key := s.counterAt (gOff h.addr)
    let t := s.targetCheck f.src f.dev { h with len := 8 } .atomic
    let s := s.regionLooked f.src { h with len := 8 }
    let r := t.orElse fun _ => if gSpace h.addr = 2 ∧ key.isSome then none else some .addrInvalid
    match r, key with
    | none, some k => (s.addCounter k v).respond f (.signalResp h.tag .ok) false
    | _, _ => (s.countRefusal t).respond f (.signalResp h.tag (r.getD .addrInvalid)) false
  | .arrive h _ a =>
    let bar := barrierAt (gOff h.addr)
    let t := s.targetCheck f.src f.dev { h with len := 8 } .atomic
    let s := s.regionLooked f.src { h with len := 8 }
    let r := t.orElse fun _ => if gSpace h.addr = 2 ∧ bar.isSome then none else some .addrInvalid
    match r, bar with
    | none, some b => ((s.respond f (.arriveResp h.tag (s.arrive b a).2) false).arrive b a).1
    | _, _ => (s.countRefusal t).respond f (.arriveResp h.tag (r.getD .addrInvalid)) false
  | _ => s

/-- COVER of a SIGNAL or ARRIVE frame. -/
def Frame.cover? (f : Frame) : Option Nat :=
  match f.body with
  | .signal _ c _ => some c
  | .arrive _ c _ => some c
  | _ => none

/-- An engine message delivered to its engine (R236). -/
def State.deliver (s : State) (src : Nat) (m : Msg) : State := s.onFab fun f => { f with inbox := f.inbox ++ [(src, m)] }

/-- An engine message refused with a status. -/
def State.nakWith (s : State) (src : Nat) (m : Msg) (st : St) : State :=
  s.inject none (mkFrame s.node src false (.engineNak m.engine 0 m st))

/-- An engine message a node in a compute-only reset refuses (R268). -/
def State.nakMsg (s : State) (src : Nat) (m : Msg) : State := s.nakWith src m .nodeResetting

/-- A whole engine message of another node: delivered, and the format it advertises kept (R225), or refused in a compute-only reset
(R268). -/
def State.takeIn (s : State) (f : Frame) (m : Msg) : State :=
  if s.transitOnly then s.nakMsg f.src m else (s.hear f.src f.rsrFormat m).deliver f.src m

/-- A signal must be held: bytes it covers are not accounted. A node in a compute-only reset answers at once (R268). -/
def State.blocked (s : State) (f : Frame) : Bool :=
  !s.transitOnly && f.cover?.any fun v => !covered (s.inCh f.src).accounted v

/-- What needs no command of its own at the head of a source's accepted frames goes on: engine messages are delivered (R253), and a
signal that was held, or is the node's own, is applied once its cover is accounted (R254); any other waits for its command. -/
def State.flowing (s : State) (src : Nat) : Nat → State
  | 0 => s
  | n + 1 =>
    match s.fab.accepted.find? (·.src == src) with
    | none => s
    | some f =>
      match f.body with
      | .engine _ _ _ _ _ _ (some m) => ((s.takeOrdered f).takeIn f m).flowing src n
      | .engine .. => (s.takeOrdered f).flowing src n
      | .signal .. | .arrive .. =>
        if !s.holding src && src != s.node then s
        else if s.blocked f then s.setHeld src true
        else (((s.setHeld src false).takeOrdered f).applySignal f).flowing src n
      | _ => s

/-- The accepted frames of a source go on as far as they can without a command. -/
def State.flow (s : State) (src : Nat) : State := s.flowing src s.fab.accepted.length

/-- The accepted frames of several sources go on. -/
def State.flowAll (s : State) (srcs : List Nat) : State := srcs.foldl State.flow s

/-- Sprayed payload bytes of a source accounted; signals they covered are applied. -/
def State.account (s : State) (src n : Nat) : State :=
  let c := s.inCh src
  (s.putIn { c with accounted := (c.accounted + n) % 2 ^ 40 }).flow src

/-- A signal held for COVER_HOLD_US is refused and the channel goes on (R255). -/
def State.coverExpired (s : State) (src : Nat) : State :=
  match s.fab.accepted.find? (·.src == src) with
  | none => s
  | some f =>
    let t := (s.setHeld src false).takeOrdered f
    if !s.holding src then s
    else match f.body with
      | .signal h _ _ => (t.respond f (.signalResp h.tag .signalUncovered) false).flow src
      | .arrive h _ _ => (t.respond f (.arriveResp h.tag .signalUncovered) false).flow src
      | _ => s

/-- A frame asks something of its destination. -/
def Body.request : Body → Bool
  | .load _ | .store .. | .atomic .. | .signal .. | .arrive .. | .read _ => true
  | _ => false

/-- Requests to the node itself wait in its ordered channel to itself (R258). -/
def State.ownQueue (s : State) : Bool := s.fab.accepted.any fun f => f.src == s.node && f.body.request

/-- A SIGNAL or ARRIVE to the node itself must wait: earlier requests do, or sprayed bytes of its own have not landed (R254, R258). -/
def State.ownWaits (s : State) : Bool :=
  s.ownQueue || !covered (s.inCh s.node).accounted (s.outCh s.node).sent

/-- A request to the node itself that waits in its ordered channel to itself (R258). -/
def State.holdOwn (s : State) (f : Frame) : State := (s.queueFrame (coverFrame (s.outCh s.node).sent f)).flow s.node

/-! ### Refused sprayed packets (R265) -/

/-- SPRAY_NAK at most once per source, MSG_ID and status. -/
def State.sprayNak (s : State) (f : Frame) (msgId region addr : Nat) (st : St) : State :=
  if s.fab.sprayNaks.contains (f.src, msgId, st) then s
  else (s.onFab fun b => { b with sprayNaks := b.sprayNaks ++ [(f.src, msgId, st)] }).respond f
    (.sprayNak st region addr msgId) false

/-! ### Region commands (R264) -/

/-- A region entry's words 0x00 to 0x10 (Table 9.12). -/
def Region.words (r : Region) : Nat × Nat × Nat :=
  let st := match r.state with
    | .free => 0 | .valid => 1 | .revoking => 2
  (st * 2 ^ 62 + bit r.permR * 2 ^ 61 + bit r.permW * 2 ^ 60 + bit r.permA * 2 ^ 59 + r.space * 2 ^ 57
    + bit r.anySource * 2 ^ 56 + r.source * 2 ^ 32 + r.key, r.base, r.length)

/-- The outcome of a region command in FAB_REGION_STATUS. -/
def State.regionStatus (s : State) (op n : Nat) (st : St) : State :=
  s.setRegs [(R.FAB_REGION_CMD_OP, op), (R.FAB_REGION_CMD_REGION, n), (R.FAB_REGION_STATUS_STATUS, st.code)]

/-- The entry FAB_REGION_ARG0 to ARG2 name; none for a Rsvd field or a range outside its space. -/
def State.argRegion (s : State) (n : Nat) : Option Region :=
  let w0 := s.reg R.FAB_REGION_ARG0_WORD
  let w1 := s.reg R.FAB_REGION_ARG1_WORD
  let w2 := s.reg R.FAB_REGION_ARG2_WORD
  let space := bitsOf w0 58 57
  let limit := match space with
    | 0 => s.hbmBytes
    | 1 => 2 ^ 30
    | _ => 0x1040000
  if n = 0 ∨ space = 3 ∨ bitsOf w0 55 48 ≠ 0 ∨ bitsOf w1 63 46 ≠ 0 ∨ bitsOf w2 63 46 ≠ 0 ∨ w2 = 0 ∨ limit < w1 + w2 then
    none
  else some { num := n, state := .valid, permR := bitAt w0 61, permW := bitAt w0 60, permA := bitAt w0 59, space := space,
              anySource := bitAt w0 56, source := bitsOf w0 47 32, key := bitsOf w0 31 0, base := w1, length := w2,
              inflight := 0 }

/-- REGISTER, once the command may run. -/
def State.regionRegister (s : State) (n : Nat) : State × St :=
  match s.argRegion n with
  | none => (s.regionStatus 1 n .badParam, .badParam)
  | some r =>
    if (s.region? n).isSome then (s.regionStatus 1 n .tableBusy, .tableBusy)
    else ((s.putRegion r).regionStatus 1 n .ok, .ok)

/-- The first phase of REVOKE: the entry is REVOKING and every die has dropped it. -/
def State.regionRevoke (s : State) (n : Nat) : State × St :=
  match s.region? n with
  | some r =>
    if n = 0 ∨ r.state ≠ .valid then (s.regionStatus 2 n .badState, .badState)
    else (((s.putRegion { r with state := .revoking }).onFab fun f => { f with revoking := some n }).setRegs
      [(R.FAB_REGION_CMD_OP, 2), (R.FAB_REGION_CMD_REGION, n), (R.FAB_REGION_STATUS_BUSY, 1),
       (R.FAB_REGION_STATUS_INVALIDATED, 1), (R.FAB_REGION_STATUS_INFLIGHT, min r.inflight 65535)], .ok)
  | none => (s.regionStatus 2 n .badState, .badState)

/-- A region command may run now: none is running, and no approval is needed (R264). The approved path is CSR_WRITE's
(R391). -/
def State.regionCmdOk (s : State) (guarded : Bool) : Option St :=
  if s.flag R.FAB_REGION_STATUS_BUSY then some .badState
  else if guarded && s.flag R.FAB_KEY_POLICY_LOCK then some .approvalRequired
  else none

/-- REGISTER. -/
def execRegionRegister (region : Nat) (s : State) : Host.Outcome State Fault Refusal :=
  match s.regionCmdOk true with
  | some _ => .next s
  | none => .next (s.regionRegister region).1

/-- REVOKE. -/
def execRegionRevoke (region : Nat) (s : State) : Host.Outcome State Fault Refusal :=
  match s.regionCmdOk true with
  | some _ => .next s
  | none => .next (s.regionRevoke region).1

/-- READ copies the entry into the ARG registers; a FREE entry reads 0. -/
def State.regionRead (s : State) (n : Nat) : State :=
  let (a, b, c) := ((s.region? n).map Region.words).getD (0, 0, 0)
  (s.setRegs [(R.FAB_REGION_ARG0_WORD, a), (R.FAB_REGION_ARG1_WORD, b), (R.FAB_REGION_ARG2_WORD, c)]).regionStatus 3 n .ok

/-- READ. -/
def execRegionRead (region : Nat) (s : State) : Host.Outcome State Fault Refusal :=
  match s.regionCmdOk false with
  | some _ => .next s
  | none => .next (s.regionRead region)

/-- INFLIGHT is 0: the region is FREE and REGION_REVOKED is posted (R264). -/
def execRevokeComplete (s : State) : Host.Outcome State Fault Refusal :=
  match s.fab.revoking with
  | none => .next s
  | some n =>
    if (s.region? n).any fun r => r.inflight ≠ 0 then .next s else
      let s := s.onFab fun f => { f with
        regions := f.regions.filter (·.num != n)
        revoking := none }
      let s := s.setRegs [(R.FAB_REGION_STATUS_BUSY, 0), (R.FAB_REGION_STATUS_STATUS, 0)]
      .next (s.post .regionRevoked 0xFFF (formR .ok s.node n 0))

/-- FAB_REGION_BASE: 32 MiB aligned, within usable capacity, clear of the reserved regions and the pool, with no region
but region 0 registered (R261). -/
def State.regionBaseWrite (s : State) (value : Nat) : State × St :=
  let b := value % 2 ^ 46
  if b % 2 ^ 25 ≠ 0 ∨ !s.hbmMapped b (2 ^ 25) ∨ s.touchesReserved b (2 ^ 25) ∨ s.touchesPool b (2 ^ 25) then (s, .badParam)
  else if !s.fab.regions.isEmpty then (s, .tableBusy)
  else (s.setReg R.FAB_REGION_BASE_BASE b, .ok)

/-- A write to FAB_REGION_BASE. -/
def execFabRegionBaseWrite (value : Nat) (s : State) : Host.Outcome State Fault Refusal :=
  .next (s.regionBaseWrite value).1

end Sys2Proof.Machine
end

