-- ==== Sys2Proof/Machine/RegAccess.lean ====
section
/-! DEFINITION. Register rows by control address (R7, R8): the fields of the register at an address, the value it reads
and the writing of its RW fields; memory copies that carry poison (R267); calculations over a state. -/

namespace Sys2Proof.Machine

/-- The number of the register of a row that stands at an address. -/
def RegRow.index? (r : RegRow) (addr : Nat) : Option Nat :=
  if addr < r.base then none else
    let d := addr - r.base
    let hi := if r.s1 = 0 then 0 else d / r.s1
    let rem := d - hi * r.s1
    let lo := if r.s2 = 0 then 0 else rem / r.s2
    if hi < r.n1 ∧ lo < r.n2 ∧ hi * r.s1 + lo * r.s2 = d then some (hi * r.n2 + lo) else none

/-- The row of the register at an address. -/
def regRowAt (addr : Nat) : Option RegRow := regTable.find? fun r => (r.index? addr).isSome

/-- A row's field as it stands in the register at an address. -/
def FldRow.at (f : FldRow) (addr : Nat) : Fld := ⟨addr, f.lo, f.width, f.rst⟩

/-- The bits of a word that are a field's. -/
def FldRow.of (f : FldRow) (value : Nat) : Nat := value / 2 ^ f.lo % 2 ^ f.width

/-- The stored fields of a register as one word. -/
def State.rawReg (s : State) (addr : Nat) : Nat :=
  match regRowAt addr with
  | none => 0
  | some r => (r.fields.map fun f => s.reg (f.at addr) * 2 ^ f.lo).sum

/-- The RW fields of a register written from a word; its other fields keep their values (R7). -/
def State.writeRw (s : State) (addr value : Nat) : State :=
  match regRowAt addr with
  | none => s
  | some r => s.setRegs ((r.fields.filter fun f => decide (f.acc = .rw)).map fun f => (f.at addr, f.of value))

/-- A field's value in a word about to be written to its register. -/
def Fld.of (f : Fld) (value : Nat) : Nat := value / 2 ^ f.lo % 2 ^ f.width

/-! ### Copies -/


/-- Bytes copied between memories, with their poison. -/
def State.copyMem (s : State) (m1 : Mem) (a1 : Nat) (m2 : Mem) (a2 n : Nat) : State :=
  let marked := (s.poisons m1).filter fun p => meets (p.granule * 64) 64 a1 n
  let t := s.wr m2 a2 (s.rdBytes m1 a1 n)
  marked.foldl (fun t p =>
    let lo := max (p.granule * 64) a1
    let hi := min (p.granule * 64 + 64) (a1 + n)
    t.markPoison m2 (a2 + (lo - a1)) (hi - lo) p.status) t

/-- Received bytes placed, marked when they carry poison. -/
def State.place (s : State) (m : Mem) (a : Nat) (bs : List Byte) (poison : Bool) : State :=
  let s := s.wr m a bs
  if poison then s.markPoison m a bs.length .poisonRead else s

/-! ### Calculations -/

/-- A calculation run outside a core: its free values come from the state's counter. -/
def State.calc {α : Type} (s : State) (c : Calc α) : α × State :=
  let (a, k) := c.run { fresh := s.fresh }
  (a, s.setFresh k.fresh)

end Sys2Proof.Machine
end

