-- ==== Sys2Proof/Machine/Roce.lean ====
section
/-! DEFINITION. The requester side of RoCEv2 (R344, R345): queue pairs, operations issued on them and what a QP sends. -/

namespace Sys2Proof.Machine

/-- A QP's record put back. -/
def State.putQp (s : State) (q : Qp) : State :=
  s.onHcp fun h => { h with qps := upsert (·.index == q.index) q h.qps }

/-- The QP index a local QPN names (Table 12.9): none for a QPN no queue pair has. -/
def qpnIndex (n : Nat) : Option Nat := if 0x100 ≤ n ∧ n < 0x100 + 16384 then some (n - 0x100) else none

/-- How many of a QP's operations, in order, may be out: READs beyond MAX_READS wait. -/
def sendable (maxReads : Nat) : List RoceOp → Nat
  | [] => 0
  | o :: l => if o.write then 1 + sendable maxReads l else match maxReads with
    | 0 => 0
    | n + 1 => 1 + sendable n l

/-- The shaper class of an operation (R342). -/
def RoceUse.cls : RoceUse → Nat
  | .pageOut _ | .pageIn _ | .pageMove _ | .dropped => 1
  | _ => 2

/-- The page an operation moves. -/
def RoceUse.page? : RoceUse → Option Nat
  | .pageOut i | .pageIn i | .pageMove i => some i
  | _ => none

/-- The packets of an operation. -/
def RoceOp.out (o : RoceOp) (qp : Nat) : HostOut :=
  if o.write then .rdmaWrite qp o.psn o.va o.rkey o.data else .rdmaRead qp o.psn o.va o.rkey o.len

/-- Operations sent in order. -/
def State.roceSend (s : State) (qp : Nat) : List RoceOp → State
  | [] => s
  | o :: l => (s.hostSend o.use.cls (o.out qp)).roceSend qp l

/-- Packets of an operation at a queue pair's path MTU: the PSNs it takes. -/
def Qp.packets (q : Qp) (len : Nat) : Nat := max 1 ((len + q.pathMtu - 1) / q.pathMtu)

/-- A PSN some packets further. -/
def psnAdd (p n : Nat) : Nat := (p + n) % 2 ^ 24

/-- An operation put on a QP ready to send, with the next PSN; none where the QP is in RESET or ERROR. -/
def State.roceIssue (s : State) (qp : Nat) (o : RoceOp) : Option State :=
  match s.qp? qp with
  | none => none
  | some q =>
    if q.error then none else
      let before := sendable q.maxReads q.ops
      let q' := { q with
        ops := q.ops ++ [{ o with psn := q.sqPsn }]
        sqPsn := psnAdd q.sqPsn (q.packets o.len) }
      some ((s.putQp q').roceSend qp ((q'.ops.drop before).take (sendable q.maxReads q'.ops - before)))

/-- The oldest operation of a QP taken off as complete, and the READ it leaves room for sent. -/
def State.rocePop (s : State) (q : Qp) : State :=
  let before := sendable q.maxReads q.ops
  let ops := q.ops.drop 1
  (s.putQp { q with
    ops := ops
    retriesLeft := q.retry }).roceSend q.index ((ops.drop (before - 1)).take (sendable q.maxReads ops - (before - 1)))

end Sys2Proof.Machine
end

