-- ==== Sys2Proof/Machine/Pages.lean ====
section
/-! DEFINITION. The page engine's own operations (sections 3.1 to 3.8): geometry, frames and entries, reservations, a
request's pages, history pages, shared prefix pages, held pages. -/

namespace Sys2Proof.Machine

/-! ### Geometry (R76) -/

/-- 16 KiB units of a frame, by PAGE_SIZE. -/
def frameUnits (ps : Nat) : Nat := match ps with
  | 0 => 4 | 1 => 2 | _ => 1

/-- Bytes of a page, by PAGE_SIZE. -/
def pageBytes (ps : Nat) : Nat := 16384 * frameUnits ps

/-- Bytes of a KV element, by ELEMENT. -/
def elemBytes (e : Nat) : Nat := if e = 2 then 2 else 1

/-- SLOTS of a page of some bytes. -/
def slotsOf (bytes heads dim element : Nat) : Nat := bytes / (2 * heads * dim * elemBytes element)

/-- A valid model descriptor (PGE_MODEL). -/
structure Model where
  id : Nat
  layers : Nat
  kvHeads : Nat
  headDim : Nat
  element : Nat
  pageSize : Nat
  deriving DecidableEq, Repr

/-- The model descriptor a PGE_MODEL register holds. -/
def State.modelReg (s : State) (m : Nat) : Model :=
  ⟨s.reg (R.PGE_MODEL_MODEL_ID m), s.reg (R.PGE_MODEL_LAYERS m), s.reg (R.PGE_MODEL_KV_HEADS m),
    s.reg (R.PGE_MODEL_HEAD_DIM m), s.reg (R.PGE_MODEL_ELEMENT m), s.reg (R.PGE_MODEL_PAGE_SIZE m)⟩

/-- The valid descriptor of a model. -/
def State.model? (s : State) (id : Nat) : Option Model :=
  ((List.range 256).find? fun m => s.flag (R.PGE_MODEL_VALID m) && s.reg (R.PGE_MODEL_MODEL_ID m) == id).map s.modelReg

/-- Positions per page of a model. -/
def Model.slots (m : Model) (ps : Nat) : Nat := slotsOf (pageBytes ps) m.kvHeads m.headDim m.element

/-- Quotient rounded up; 0 for a zero divisor. -/
def ceilDiv (a b : Nat) : Nat := if b = 0 then 0 else (a + b - 1) / b

/-! ### Frames and entries (R78, R80, R84) -/

/-- The page of a page-map entry. -/
def State.page? (s : State) (idx : Nat) : Option Page := s.pge.pages.find? (·.idx == idx)

/-- A page's entry put back. -/
def State.putPage (s : State) (p : Page) : State := s.onPge fun g => { g with pages := upsert (·.idx == p.idx) p g.pages }

/-- The frame of a location. -/
def PageLoc.frame? : PageLoc → Option Nat
  | .t0 f => some f
  | _ => none

/-- TIER of a location (Table 3.3). -/
def PageLoc.tier : PageLoc → Nat
  | .t0 _ | .sharedOf _ => 0
  | .t1 .. => 1
  | _ => 2

/-- The frame of a migration's target. -/
def MigTarget.frame? : MigTarget → Option Nat
  | .frame f => some f
  | _ => none

/-- Frames allocated, as first unit and units: pages' own and the targets of migrations. -/
def State.framesTaken (s : State) : List (Nat × Nat) :=
  s.pge.pages.filterMap (fun p => p.loc.frame?.map fun f => (f, frameUnits p.pageSize))
    ++ s.pge.migrations.filterMap fun m => m.target.frame?.map fun f =>
      (f, frameUnits (((s.page? m.idx).map (·.pageSize)).getD 0))

/-- A unit lies in one of the frames. -/
def unitTaken (ts : List (Nat × Nat)) (u : Nat) : Bool := ts.any fun t => t.1 ≤ u && u < t.1 + t.2

/-- The frame an allocation takes: the lowest free frame of the size, else the first part of the lowest of the smallest
larger size (R84; which frame of a free list is log entry 16). Blocks merge up to 64 KiB, so a free frame smaller than
that lies in a block that holds an allocated one. -/
def State.findFrame (s : State) (ps : Nat) : Option Nat :=
  let ts := s.framesTaken
  let lo := s.reg R.PGE_KV_POOL_BASE
  let hi := s.reg R.PGE_KV_POOL_LIMIT
  let free := fun u => !unitTaken ts u
  let blocks := (ts.map (·.1 / 4)).filter (· < hi)
  let whole := (((List.range (ts.length + 1)).map (lo + ·)).find? fun b => b < hi && !blocks.contains b).map (4 * ·)
  let halves := (blocks.flatMap fun b => [4 * b, 4 * b + 2]).filter fun u => free u && free (u + 1)
  let units := (blocks.flatMap fun b => [4 * b, 4 * b + 1, 4 * b + 2, 4 * b + 3]).filter fun u =>
    free u && !free (if u % 2 = 0 then u + 1 else u - 1)
  match ps with
  | 0 => whole
  | 1 => halves.min?.or whole
  | _ => (units.min?.or halves.min?).or whole

/-- The lowest free page-map entry; entry 0 is never allocated. -/
def State.freeEntry (s : State) : Nat :=
  let n := s.pge.pages.length + s.pge.aborted.length
  (((List.range (n + 1)).map (· + 1)).find? fun i => (s.page? i).isNone && !s.pge.aborted.any (·.1 == i)).getD (n + 1)

/-- Free frames of the pool by size (R84): 64 KiB blocks, 32 KiB frames and 16 KiB frames of blocks that hold an allocated
one. -/
def State.freeFrames (s : State) : Nat × Nat × Nat :=
  let ts := s.framesTaken
  let lo := s.reg R.PGE_KV_POOL_BASE
  let hi := s.reg R.PGE_KV_POOL_LIMIT
  let free := fun u => !unitTaken ts u
  let blocks := ((ts.map (·.1 / 4)).filter fun b => lo ≤ b && b < hi).dedup
  let halves := (blocks.flatMap fun b => [4 * b, 4 * b + 2]).filter fun u => free u && free (u + 1)
  let units := (blocks.flatMap fun b => [4 * b, 4 * b + 1, 4 * b + 2, 4 * b + 3]).filter fun u =>
    free u && !free (if u % 2 = 0 then u + 1 else u - 1)
  (hi - lo - blocks.length, halves.length, units.length)

/-- Units in the pool that are free. -/
def State.freeUnits (s : State) : Nat :=
  4 * (s.reg R.PGE_KV_POOL_LIMIT - s.reg R.PGE_KV_POOL_BASE)
    - ((s.framesTaken.filter fun t => t.1 < 4 * s.reg R.PGE_KV_POOL_LIMIT).map (·.2)).sum

/-- Free page-map entries. -/
def State.freeEntries (s : State) : Nat := 2 ^ 26 - 1 - s.pge.pages.length - s.pge.aborted.length

/-- Units reserved and not yet allocated. -/
def State.reservedUnits (s : State) : Nat := (s.pge.reservations.map fun r => r.frames * frameUnits r.pageSize).sum

/-- Entries reserved and not yet allocated. -/
def State.reservedEntries (s : State) : Nat := (s.pge.reservations.map (·.frames)).sum

/-- Free units less reserved ones (R95). -/
def State.availableUnits (s : State) : Nat := s.freeUnits - s.reservedUnits

/-- The free frames cover every reservation and `n` frames of one size beside them, split as R84 splits them (R85, R86). -/
def State.framesFit (s : State) (ps n : Nat) : Bool :=
  let need := fun k => ((s.pge.reservations.filter fun r => min r.pageSize 2 == k).map (·.frames)).sum + if min ps 2 = k then n else 0
  let f := s.freeFrames
  let small := need 2 - (f.2.2 + 2 * (f.2.1 - need 1))
  decide (need 0 + ceilDiv (2 * (need 1 - f.2.1) + small) 4 ≤ f.1)

/-- EVICTING brought up to date with the available frames (R95): LOW and HIGH are thousandths of the pool. -/
def State.watermark (s : State) : State :=
  let pool := 4 * (s.reg R.PGE_KV_POOL_LIMIT - s.reg R.PGE_KV_POOL_BASE)
  if 1000 * s.availableUnits < pool * s.reg R.PGE_WATERMARK_LOW then s.setReg R.PGE_CTRL_EVICTING 1
  else if pool * s.reg R.PGE_WATERMARK_HIGH ≤ 1000 * s.availableUnits then s.setReg R.PGE_CTRL_EVICTING 0 else s

/-- An entry invalidated in every tile's translation cache (R81). -/
def State.invalidate (s : State) (idx : Nat) : State := s.onPge fun g => { g with xlate := g.xlate.filter (·.2 != idx) }

/-- A tile's cores read page-map entries: they stand in its cache, which holds the 16,384 read last (log entry 67). The spec
does not say which accesses read an entry, so HITS and MISSES rise by amounts it does not state. -/
def State.xlateRead (s : State) (idxs : List Nat) (tile : Nat) : State :=
  let hits := Config.unstated s.fresh
  let misses := Config.unstated (s.fresh + 1)
  let s := ((s.setFresh (s.fresh + 2)).count R.PGE_XLATE_STATS_HITS hits).count R.PGE_XLATE_STATS_MISSES misses
  s.onPge fun g =>
    let mine := (g.xlate.filter fun x => x.1 == tile && !idxs.contains x.2) ++ idxs.map (tile, ·)
    { g with xlate := g.xlate.filter (·.1 != tile) ++ mine.drop (mine.length - 16384) }

/-- A page put on a new frame and entry of this node; none without a frame or an entry. -/
def State.allocPage (s : State) (p : Page) : Option (Nat × State) :=
  match s.findFrame p.pageSize with
  | none => none
  | some f =>
    if s.freeEntries = 0 then none else
      let i := s.freeEntry
      some (i, ((s.bump R.PGE_ALLOC_STATS_ALLOCS).onPge fun g => { g with
        pages := g.pages ++ [{ p with idx := i, loc := .t0 f, lastUse := s.tick % 2 ^ 24 }] }).watermark)

/-- A page on this node's T0: the address of its frame, through the PREFIX entry where it is shared. -/
def State.frameOf (s : State) (p : Page) : Option Nat :=
  match p.loc with
  | .t0 f => some f
  | .sharedOf e => (s.page? e).bind (·.loc.frame?)
  | _ => none

/-- The bytes of a page on T0. -/
def State.pageData (s : State) (p : Page) : List Byte :=
  ((s.frameOf p).map fun f => s.rdBytes .hbm (16384 * f) (pageBytes p.pageSize)).getD []

/-- A query that runs reads the page of an entry. -/
def State.beingRead (s : State) (idx : Nat) : Bool := s.mzt.queue.any fun x => x.reading.any fun l => l.any (·.idx == idx)

/-- A page asked for by another node will not come: that node is told (R97). -/
def State.refuseAsker (s : State) (asker : Option (Nat × Nat)) : State :=
  match asker with
  | some (n, d) => s.sendMsg n (.migrateRefused d .pageMissing)
  | none => s

/-- The migration of an entry. -/
def State.migration? (s : State) (idx : Nat) : Option Migration := s.pge.migrations.find? (·.idx == idx)

/-- The migration of an entry is over; what a queue pair still has out for it moves no byte (R94). -/
def State.endMigration (s : State) (idx : Nat) : State :=
  (s.onPge fun g => { g with
    migrations := g.migrations.filter (·.idx != idx)
    switches := g.switches.filter (·.1 != idx) }).onHcp fun h => { h with
      qps := h.qps.map fun q => { q with
        ops := updateAll (fun o => o.use.page? == some idx) (fun o => { o with use := .dropped }) q.ops } }

/-- Room for another page in migration (R103). -/
def State.migRoom (s : State) : Bool := s.pge.migrations.length < s.reg R.PGE_MIGRATE_MAX_INFLIGHT

/-- An entry freed: it is invalidated in the translation caches, and with it go the frame, a reference of its PREFIX entry, and
a migration of it with both copies (R81, R84, R90, R94). One that a running query reads stays until that query's reads are complete
(R122). -/
def State.freePage (s : State) (idx : Nat) : State :=
  match s.page? idx with
  | none => s
  | some p =>
    let m := s.migration? idx
    let away := m.any fun m => match m.target with
      | .node .. => true
      | _ => false
    let t := (((s.invalidate idx).endMigration idx).refuseAsker (m.bind (·.asker))).onPge fun g => { g with
      aborted := if away then g.aborted ++ [(idx, p.req, p.epoch)] else g.aborted }
    if s.beingRead idx then (t.putPage { p with migrating := false, freeing := true }).watermark
    else (t.onPge fun g => { g with
      pages := (g.pages.filter (·.idx != idx)).map fun x =>
        if p.loc = .sharedOf x.idx then { x with refs := x.refs - 1, lastUse := s.tick % 2 ^ 24 } else x }).watermark

/-- Several entries freed. -/
def State.freePages (s : State) : List Nat → State
  | [] => s
  | i :: is => (s.freePage i).freePages is

/-! ### A request's pages -/

/-- R80's order: FIRST_POS, then LAYER; a parity page after the last data page of its group. -/
def Page.before (a b : Page) : Bool :=
  a.firstPos < b.firstPos || (a.firstPos == b.firstPos && (a.layer < b.layer || (a.layer == b.layer && a.memberNo ≤ b.memberNo)))

/-- A page put in its place in a list. -/
def insertPage (p : Page) : List Page → List Page
  | [] => [p]
  | q :: l => if p.before q then p :: q :: l else q :: insertPage p l

/-- Pages in list order. -/
def sortPages (l : List Page) : List Page := l.foldr insertPage []

/-- A request's own KV pages, in list order. -/
def State.kvPages (s : State) (id : Nat) : List Page :=
  sortPages (s.pge.pages.filter fun p => p.req == id && !p.foreign && decide (p.kind = .kv))

/-- A request's parity entries: each names the parity page of a group at its holder (R80, R100). -/
def State.parityPages (s : State) (id : Nat) : List Page :=
  s.pge.pages.filter fun p => p.req == id && !p.foreign && decide (p.kind = .parity)

/-- A request's KV list (R80): its data pages, and after the last of each group the group's parity entry. -/
def State.listPages (s : State) (id : Nat) : List Page :=
  let ps := s.kvPages id
  ps.zipIdx.flatMap fun (p, k) =>
    p :: if k % 8 = 7 ∨ k + 1 = ps.length then (s.parityPages id).filter (·.group == k / 8) else []

/-- The pages this node holds for another node's request. -/
def State.heldPages (s : State) (id : Nat) : List Page := s.pge.pages.filter fun p => p.req == id && p.foreign

/-- A page's holder and entry there, where another node's entry names it. -/
def PageLoc.remote? : PageLoc → Option (Nat × Nat)
  | .t1 n i => some (n, i)
  | .t2of n i => some (n, i)
  | _ => none

/-- Every copy of a request's page at holders: the entry its location names, and a coded page's T1 copy. A parity page is named
by 2^26 and its group (log entry 68). -/
def Page.holders (p : Page) : List (Nat × Nat) :=
  if p.kind = .parity then (p.loc.remote?.map fun x => (x.1, 2 ^ 26 + p.group)).toList
  else p.loc.remote?.toList ++ (if p.coded && p.copyIndex ≠ 0 && p.loc.remote? != some (p.copyNode, p.copyIndex) then
    [(p.copyNode, p.copyIndex)] else [])

/-- PG_FREE to each holder of some pages (R92). -/
def State.sendFrees (s : State) (id epoch : Nat) (ps : List Page) : State :=
  let hs := ps.flatMap Page.holders
  (hs.map (·.1)).dedup.foldl (fun s n => s.sendMsg n (.pgFree id epoch ((hs.filter (·.1 == n)).map (·.2)))) s

/-- Some pages of a request freed here and at their holders. -/
def State.freeEverywhere (s : State) (id epoch : Nat) (ps : List Page) : State :=
  (s.sendFrees id epoch ps).freePages (ps.map (·.idx))

/-- A request's data and parity entries at this node. -/
def State.ownPages (s : State) (id : Nat) : List Page := s.kvPages id ++ s.parityPages id

/-- Every KV page of a request freed, on every holder, with the parity of its groups (R70, R92). -/
def State.freeKv (s : State) (id epoch : Nat) : State := s.freeEverywhere id epoch (s.ownPages id)

/-- The request's reservation. -/
def State.reservation (s : State) (id : Nat) : Option Reservation := s.pge.reservations.find? (·.req == id)

/-- The unused part of a reservation released (R85). -/
def State.unreserve (s : State) (id : Nat) : State :=
  (s.onPge fun g => { g with reservations := g.reservations.filter (·.req != id) }).watermark

/-- Units reserved and allocated for the requests of a composition's contexts, the frames of recalls in flight among them (R85,
R206). -/
def State.compUnits (s : State) (comp : Nat) : Nat :=
  let mine := fun (id : Nat) => s.compOf (s.reqCtx id) == some comp
  (((s.pge.pages.filter fun p => decide (p.kind = .kv) && !p.foreign && p.loc.frame?.isSome && mine p.req).map fun p => frameUnits p.pageSize).sum)
    + ((s.pge.migrations.filterMap fun m => (m.target.frame?.bind fun _ => s.page? m.idx).filter fun p =>
        decide (p.kind = .kv) && !p.foreign && mine p.req).map fun p => frameUnits p.pageSize).sum
    + ((s.pge.reservations.filter fun r => mine r.req).map fun r => r.frames * frameUnits r.pageSize).sum

/-- A reservation of frames fits the pool, the entries and the composition limit (R85, R206). -/
def State.reserveFits (s : State) (ctx ps frames : Nat) : Bool :=
  let u := frames * frameUnits ps
  s.flag R.PGE_CTRL_ENABLE && s.framesFit ps frames && frames + s.reservedEntries ≤ s.freeEntries
    && match s.compOf ctx with
      | some c => s.compUnits c + u ≤ s.reg (R.SCH_COMP_B_HBM_UNITS c) * 1572864
      | none => true

/-- Frames reserved for a request. -/
def State.reserve (s : State) (id ps frames : Nat) : State :=
  (s.onPge fun g => { g with reservations := upsert (·.req == id) ⟨id, ps, frames⟩ g.reservations }).watermark

/-- The reservation of a request raised or lowered by frames. -/
def State.adjustReservation (s : State) (id : Nat) (up down : Nat) : State :=
  (s.onPge fun g => { g with
    reservations := updateAll (·.req == id) (fun r => { r with frames := r.frames + up - down }) g.reservations }).watermark

/-- A new KV page of a request: layer and first position (R79, R82). -/
def newPage (r : Record) (m : Model) (layer first : Nat) : Page :=
  { idx := 0, req := r.id, kind := .kv, loc := .t0 0, foreign := false, migrating := false, sealed := false, lastUse := 0,
    policyVersion := r.policyVersion, modelId := r.modelId, layer := layer, firstPos := first, headDim := m.headDim,
    kvHeads := m.kvHeads, element := m.element, pageSize := r.pageSize, epoch := r.epoch, deadline := 0, group := 0,
    memberNo := 0, coded := r.coded, copyNode := 0, copyIndex := 0, slots := m.slots r.pageSize, dataCrc := 0, refs := 0,
    headerOk := true, prefixKey := 0, variantId := r.variantId }

/-- Pages allocated in turn from a request's reservation (R86). -/
def State.allocAll (s : State) (id : Nat) : List Page → State
  | [] => s
  | p :: ps =>
    match s.allocPage p with
    | some (_, t) => (t.adjustReservation id 0 1).allocAll id ps
    | none => s.allocAll id ps

/-- The node that holds the parity of a group (R100). -/
def State.parityNode (s : State) (g : Nat) : Nat :=
  s.reg (R.PGE_OCHRE_NODE ((9 * g + 8) % s.reg R.PGE_OCHRE_CTRL_COUNT))

/-- A request's parity entry of a group. -/
def State.parityEntry (s : State) (r : Record) (g : Nat) : Page :=
  { idx := s.freeEntry, req := r.id, kind := .parity, loc := .t1 (s.parityNode g) 0, foreign := false, migrating := false,
    sealed := false, lastUse := s.tick % 2 ^ 24, policyVersion := r.policyVersion, modelId := r.modelId, layer := 0xFFFE,
    firstPos := 0, headDim := 0, kvHeads := 0, element := 0, pageSize := r.pageSize, epoch := r.epoch, deadline := 0, group := g,
    memberNo := 8, coded := true, copyNode := 0, copyIndex := 0, slots := 0, dataCrc := 0, refs := 0, headerOk := true,
    prefixKey := 0, variantId := r.variantId }

/-- One parity entry for each group of a coded request's list, while page-map entries are free (R80). -/
def State.setParity (s : State) (r : Record) : State :=
  let n := ceilDiv (s.kvPages r.id).length 8
  let s := s.freeEverywhere r.id r.epoch ((s.parityPages r.id).filter (n ≤ ·.group))
  (List.range n).foldl (fun s g =>
    if (s.parityPages r.id).any (·.group == g) || s.freeEntries ≤ s.reservedEntries || s.reg R.PGE_OCHRE_CTRL_COUNT = 0 then s
    else s.putPage (s.parityEntry r g)) s

/-- The group and member of every data page of a coded request by its place in the list, the node of a copy it does not have
yet, and a parity entry for each group (R80, R100). -/
def State.regroup (s : State) (r : Record) : State :=
  let n := s.reg R.PGE_OCHRE_CTRL_COUNT
  let s := (s.kvPages r.id).zipIdx.foldl (fun s (p, k) =>
    if p.coded then s.putPage { p with group := k / 8, memberNo := k % 8, copyNode :=
      if n = 0 ∨ p.copyIndex ≠ 0 then p.copyNode else s.reg (R.PGE_OCHRE_NODE ((9 * (k / 8) + k % 8) % n)) } else s) s
  s.setParity r

/-- Pages of a request freed everywhere; the frames of those on T0 count against its reservation again (R86, Table 3.5). -/
def State.dropKv (s : State) (r : Record) (ps : List Page) : State :=
  (s.freeEverywhere r.id r.epoch ps).adjustReservation r.id (ps.filter (·.loc.frame?.isSome)).length 0

/-- A step's pages: those beyond KV_COMMITTED that it will not write are freed, those it will write are allocated from
the reservation, one per layer and run of SLOTS positions (R86, R88). `n` positions from KV_COMMITTED are written. Every new page lies
on T0: the spec names prefill straight into T1 and gives no trigger or message for it (DESIGN CHOICE, log entry 86). -/
def State.stepPages (s : State) (r : Record) (n : Nat) : State :=
  match s.model? r.modelId with
  | none => s
  | some m =>
    let sl := m.slots r.pageSize
    let kv := r.kvCommitted
    let drop := (s.kvPages r.id).filter fun p => kv ≤ p.firstPos && kv + n ≤ p.firstPos
    let s := s.dropKv r drop
    let runs := (List.range ((kv + n - 1) / sl + 1 - kv / sl)).map fun i => (kv / sl + i) * sl
    let have_ := s.kvPages r.id
    let want := runs.flatMap fun f => ((List.range m.layers).filter fun l =>
      !have_.any fun p => p.layer == l && p.firstPos == f).map fun l => newPage r m l f
    let s := s.allocAll r.id want
    if r.coded then s.regroup r else s

/-- Pages at or above KV_COMMITTED freed (R88); their frames are the reservation's again. -/
def State.trimKv (s : State) (r : Record) : State :=
  let s := s.dropKv r ((s.kvPages r.id).filter fun p => r.kvCommitted ≤ p.firstPos)
  if r.coded then s.regroup r else s

/-- SEALED set on every page a commit has filled (R89). -/
def State.sealKv (s : State) (r : Record) : State :=
  s.onPge fun g => { g with pages := g.pages.map fun p =>
    if p.req == r.id && !p.foreign && decide (p.kind = .kv) && p.firstPos + p.slots ≤ r.kvCommitted
    then { p with sealed := true } else p }

/-! ### What stands in the page map and the header array (R79, R82) -/

/-- The KIND encoding (Table 3.2). -/
def PageKind.code : PageKind → Nat
  | .kv => 0 | .history => 1 | .parity => 2 | .shared => 3

/-- TIER and LOCATION of an entry (Table 3.3). A page in a pool of another node is that node's FOREIGN page, and its entry
names the entry there (log entry 15); the index of a parity page at its holder is a free value until this node has learnt it by
rebuilding or locating the page (log entry 68). -/
def Page.location (p : Page) : Nat × Nat :=
  match p.loc with
  | .t0 f => (0, f)
  | .sharedOf e => (0, e)
  | .t1 n i => (1, n * 2 ^ 48 + if p.kind = .parity ∧ i = 0 then Config.unstated p.idx % 2 ^ 26 else i)
  | .t2of n i => (1, n * 2 ^ 48 + i)
  | .t2 u k => (2, u * 2 ^ 60 + k)

/-- NEXT of an entry: the entry that follows in its request's list; 0 at the end, and for pages in no list of this node. -/
def State.nextEntry (s : State) (p : Page) : Nat :=
  let l := if p.foreign || decide (p.kind = .shared) then [] else
    if p.kind = .history then sortPages (s.pge.pages.filter fun q => q.req == p.req && !q.foreign && decide (q.kind = .history))
    else s.listPages p.req
  ((l.map (·.idx)).dropWhile (· != p.idx)).getD 1 0

/-- The 16 bytes of a page-map entry, at the page-map base and 16 times its index (Table 3.2). Of a free entry the spec states
TIER alone; its other bits are free values (log entry 71). -/
def State.pageMapEntry (s : State) (i : Nat) : List Byte :=
  match s.page? i with
  | none =>
    let u := Config.unstated i % 2 ^ 126
    toBytes 16 (u / 2 ^ 100 * 2 ^ 102 + 3 * 2 ^ 100 + u % 2 ^ 100)
  | some p =>
    let a := p.location
    let shared := match p.loc with
      | .sharedOf _ => true
      | _ => false
    toBytes 16 (s.nextEntry p * 2 ^ 102 + a.1 * 2 ^ 100 + p.kind.code * 2 ^ 98 + bit p.foreign * 2 ^ 97 + bit shared * 2 ^ 96
      + bit p.migrating * 2 ^ 95 + bit p.sealed * 2 ^ 94 + p.lastUse % 2 ^ 24 * 2 ^ 64 + a.2)

/-- A page's 64-byte header (Table 3.4). -/
def Page.header (p : Page) : List Byte :=
  let w := fun n => toBytes 8 (n % 2 ^ 64)
  let body := w p.req ++ w (p.policyVersion * 2 ^ 32 + p.modelId * 2 ^ 16 + p.layer)
    ++ w (p.firstPos * 2 ^ 32 + p.headDim * 2 ^ 22 + p.kvHeads * 2 ^ 14 + p.element * 2 ^ 12 + p.pageSize * 2 ^ 10)
    ++ w (p.epoch * 2 ^ 32 + p.deadline)
    ++ w (p.group * 2 ^ 40 + p.memberNo * 2 ^ 36 + bit p.coded * 2 ^ 35 + p.copyNode * 2 ^ 16)
    ++ w (p.copyIndex * 2 ^ 38 + p.slots) ++ w (p.dataCrc * 2 ^ 32 + p.refs) ++ toBytes 4 0
  body ++ toBytes 4 (crc32c body)

/-- The 64 bytes of a page's header, at the header-array base and 64 times the entry's index (R77, R82); none for an entry that
is free. A header whose CHECK fails at a read, through an error of the memory that holds it, makes the page lost. -/
def State.pageHeader (s : State) (i : Nat) : Option (List Byte) := (s.page? i).map Page.header

/-! ### Shared prefix pages (R90) -/

/-- Sealed pages of a request below its prefix length become PREFIX entries, which the request shares; its own entries change their
location and leave the translation caches (R81). -/
def State.makePrefix (s : State) (r : Record) (key len : Nat) : State :=
  if key = 0 then s else
    ((s.kvPages r.id).filter fun p => p.sealed && !p.migrating && p.loc.frame?.isSome && p.firstPos + p.slots ≤ len).foldl
      (fun s p =>
        if s.freeEntries = 0 || s.pge.pages.any (fun x => decide (x.kind = .shared) && x.prefixKey == key
          && x.modelId == p.modelId && x.variantId == r.variantId && x.policyVersion == p.policyVersion
          && x.pageSize == p.pageSize && x.layer == p.layer && x.firstPos == p.firstPos) then s
        else
          let i := s.freeEntry
          let x := { p with idx := i, req := 0, kind := PageKind.shared, refs := 1, prefixKey := key, coded := false }
          ((s.invalidate p.idx).onPge fun g => { g with pages := g.pages ++ [x] }).putPage { p with loc := .sharedOf i }) s

/-- The PREFIX entries a request may share: below its prefix length. -/
def State.prefixPages (s : State) (r : Record) (key len : Nat) : List Page :=
  if key = 0 then [] else s.pge.pages.filter fun x => decide (x.kind = .shared) && x.prefixKey == key
    && x.modelId == r.modelId && x.variantId == r.variantId && x.policyVersion == r.policyVersion
    && x.pageSize == r.pageSize && x.firstPos + x.slots ≤ len

/-- SHARED entries linked for a request to PREFIX entries it has no page of its own for. -/
def State.linkPrefix (s : State) (r : Record) (ps : List Page) : State :=
  ps.foldl (fun s x =>
    if s.freeEntries = 0 || (s.kvPages r.id).any (fun p => p.layer == x.layer && p.firstPos == x.firstPos) then s
    else
      let i := s.freeEntry
      let y := { x with idx := i, req := r.id, kind := PageKind.kv, loc := PageLoc.sharedOf x.idx, refs := 0, epoch := r.epoch }
      (s.onPge fun g => { g with pages := g.pages ++ [{ y with coded := r.coded }] }).putPage { x with refs := x.refs + 1 }) s

/-- An unreferenced PREFIX page idle for PREFIX_HOLD_TICKS is freed. -/
def execPrefixIdleExpiry (idx : Nat) (s : State) : Host.Outcome State Fault Refusal :=
  match s.page? idx with
  | some p => .next (if p.kind = .shared ∧ p.refs = 0
      ∧ s.reg R.PGE_EVICT_PREFIX_HOLD_TICKS ≤ (s.tick + 2 ^ 24 - p.lastUse) % 2 ^ 24 then s.freePage idx else s)
  | none => .next s

/-! ### History pages (R32, R76) -/

/-- A request's history pages, in ascending FIRST_POS. -/
def State.historyPages (s : State) (id : Nat) : List Page :=
  sortPages (s.pge.pages.filter fun p => p.req == id && !p.foreign && decide (p.kind = .history))

/-- A new history page of a record. -/
def historyPage (r : Record) (first : Nat) : Page :=
  { idx := 0, req := r.id, kind := .history, loc := .t0 0, foreign := false, migrating := false, sealed := false,
    lastUse := 0, policyVersion := r.policyVersion, modelId := r.modelId, layer := 0xFFFF, firstPos := first, headDim := 0,
    kvHeads := 0, element := 0, pageSize := r.pageSize, epoch := r.epoch, deadline := 0, group := 0, memberNo := 0,
    coded := false, copyNode := 0, copyIndex := 0, slots := pageBytes r.pageSize / 4, dataCrc := 0, refs := 0,
    headerOk := true, prefixKey := 0, variantId := r.variantId }

/-- History pages allocated until there are `n`; none where a frame or entry is missing. -/
def State.growHistory (s : State) (r : Record) : Nat → Option State
  | 0 => some s
  | n + 1 =>
    match s.growHistory r n with
    | none => none
    | some t =>
      let f := n * (pageBytes r.pageSize / 4)
      if (t.historyPages r.id).any (·.firstPos == f) then some t
      else if !t.framesFit r.pageSize 1 || t.freeEntries ≤ t.reservedEntries then none
      else (t.allocPage (historyPage r f)).map (·.2)

/-- A history written into a request's history pages; none where they cannot be had. -/
def State.writeHistory (s : State) (r : Record) (tokens : List Nat) : Option State :=
  let per := pageBytes r.pageSize / 4
  match s.growHistory r (ceilDiv tokens.length per) with
  | none => none
  | some t => some ((t.historyPages r.id).foldl (fun t p =>
      match p.loc with
      | .t0 f => t.wr .hbm (16384 * f) (((tokens.drop p.firstPos).take per).flatMap (toBytes 4))
      | _ => t) t)

/-- A request's history pages freed. -/
def State.freeHistory (s : State) (id : Nat) : State := s.freePages ((s.historyPages id).map (·.idx))

/-! ### Held pages (R83, R91, R92) -/

/-- The epoch a message carries for a request's held pages is accepted and raises theirs; none when it is stale. -/
def State.holderEpoch (s : State) (id epoch : Nat) : Option State :=
  if (s.heldPages id).any fun p => epoch < p.epoch then none
  else some (s.onPge fun g => { g with pages := g.pages.map fun p =>
    if p.req == id && p.foreign then { p with epoch := epoch } else p })

/-- DEADLINE of some held pages raised; never lowered. -/
def State.raiseDeadline (s : State) (p : Page → Bool) (d : Nat) : State :=
  s.onPge fun g => { g with
    pages := g.pages.map fun x => if x.foreign && p x then { x with deadline := max x.deadline d } else x }

/-- A held page is one of those a message names: by its entry, or, a parity page, by its group (log entry 68). -/
def Page.named (p : Page) (idxs : List Nat) : Bool :=
  idxs.contains p.idx || (decide (p.kind = .parity) && idxs.contains (2 ^ 26 + p.group))

/-- PG_RENEW at a holder. -/
def execPgRenew (src id epoch : Nat) (idxs : List Nat) (s : State) : Host.Outcome State Fault Refusal :=
  let s := s.takeMsg src (.pgRenew id epoch idxs)
  match s.holderEpoch id epoch with
  | none => .next (s.sendMsg src (.pgRefused id .epochStale))
  | some s => .next (s.raiseDeadline (fun x => x.req == id && x.named idxs) (s.tick + s.reg R.PGE_TTL_LEASE_TICKS))

/-- PG_TTL at a holder. -/
def execPgTtl (src id epoch ticks : Nat) (s : State) : Host.Outcome State Fault Refusal :=
  let s := s.takeMsg src (.pgTtl id epoch ticks)
  match s.holderEpoch id epoch with
  | none => .next (s.sendMsg src (.pgRefused id .epochStale))
  | some s => .next (s.raiseDeadline (·.req == id) (s.tick + ticks + s.reg R.PGE_TTL_GRACE_TICKS))

/-- PG_FREE at a holder: the pages are freed, a migration of them aborted (R92, R94, R122). -/
def execPgFree (src id epoch : Nat) (idxs : List Nat) (s : State) : Host.Outcome State Fault Refusal :=
  let s := s.takeMsg src (.pgFree id epoch idxs)
  match s.holderEpoch id epoch with
  | none => .next (s.sendMsg src (.pgRefused id .epochStale))
  | some s => .next (s.freePages (((s.heldPages id).filter (·.named idxs)).map (·.idx)))

/-- HOME_NODE of a request ID (Table 1.5). -/
def idHome (id : Nat) : Nat := id / 2 ^ 48 % 65536

/-- PAGE_ORPHAN_FREED for a request and a number of pages (R92). -/
def State.postOrphan (s : State) (id n : Nat) : State := s.post .pageOrphanFreed (s.reqCtx id) (formQ .ok (idHome id) n id)

/-- The held pages whose DEADLINE has been reached. -/
def State.expired (s : State) : List Page := s.pge.pages.filter fun p => p.foreign && p.deadline ≤ s.tick && !p.freeing

/-- Pages of several requests freed at their deadline: PAGE_ORPHAN_FREED once per request, when the last of them is freed. -/
def State.orphans (s : State) : List Nat → State
  | [] => s
  | id :: ids =>
    let ps := s.expired.filter (·.req == id)
    let t := s.freePages (ps.map (·.idx))
    (if ps.any fun p => s.beingRead p.idx then t.onPge fun g => { g with orphaned := g.orphaned ++ [(id, ps.length)] }
      else t.postOrphan id ps.length).orphans ids

/-- The check of every tick boundary at a holder (R92). -/
def execPageDeadlineCheck (s : State) : Host.Outcome State Fault Refusal :=
  .next (s.orphans (s.expired.map (·.req)).dedup)

/-- PG_RENEW for every T1 page and coded copy of the requests this node owns, but PAUSED ones (R91). -/
def execPgRenewTimer (s : State) : Host.Outcome State Fault Refusal :=
  let owned := (s.rse.works.filter fun w => decide (w.status = .owned)).map fun w => (w.r.id, w.r.epoch)
  let home := (s.rse.homes.filter fun h => h.r.owner == s.node && decide (h.r.state = .queued ∨ h.r.state = .parked)).map fun h =>
    (h.r.id, h.r.epoch)
  .next ((owned ++ home).foldl (fun s (id, e) =>
    let hs := (s.pge.pages.filter fun p => p.req == id && !p.foreign).flatMap Page.holders
    (hs.map (·.1)).dedup.foldl (fun s n => s.sendMsg n (.pgRenew id e ((hs.filter (·.1 == n)).map (·.2)))) s) s)

/-! ### Registers (R75, R78, R104) -/

/-- A page whose layout follows a descriptor: a KV, PREFIX or PARITY page of a request the node owns or is home to. -/
def State.modelInUse (s : State) (id : Nat) : Bool :=
  s.pge.pages.any fun p => !p.foreign && decide (p.kind ≠ .history) && p.modelId == id

/-- A write to PGE_MODEL (R75). The spec accepts a write with VALID = 0 with any field values and refuses one that changes the
geometry of a valid descriptor in use; a write that does both is refused (DESIGN CHOICE, log entry 69). -/
def State.modelWrite (s : State) (m value : Nat) : State × St :=
  let f := fun (x : Nat → Fld) => (x m).of value
  let bytes := pageBytes (f R.PGE_MODEL_PAGE_SIZE)
  let sl := slotsOf bytes (f R.PGE_MODEL_KV_HEADS) (f R.PGE_MODEL_HEAD_DIM) (f R.PGE_MODEL_ELEMENT)
  if 256 ≤ m then (s, .badParam)
  else if f R.PGE_MODEL_VALID = 1 ∧ (f R.PGE_MODEL_ELEMENT = 3 ∨ f R.PGE_MODEL_PAGE_SIZE = 3 ∨ f R.PGE_MODEL_LAYERS = 0
    ∨ f R.PGE_MODEL_KV_HEADS = 0 ∨ f R.PGE_MODEL_HEAD_DIM = 0 ∨ sl = 0 ∨ 16384 < sl) then (s, .badParam)
  else if s.flag (R.PGE_MODEL_VALID m) && s.modelInUse (s.reg (R.PGE_MODEL_MODEL_ID m))
    && (f R.PGE_MODEL_LAYERS != s.reg (R.PGE_MODEL_LAYERS m) || f R.PGE_MODEL_KV_HEADS != s.reg (R.PGE_MODEL_KV_HEADS m)
      || f R.PGE_MODEL_HEAD_DIM != s.reg (R.PGE_MODEL_HEAD_DIM m) || f R.PGE_MODEL_ELEMENT != s.reg (R.PGE_MODEL_ELEMENT m)) then
    (s, .tableBusy)
  else (s.writeRw (0x81000 + 8 * m) value, .ok)

/-- A write to PGE_MODEL. -/
def execPgeModelWrite (m value : Nat) (s : State) : Host.Outcome State Fault Refusal := .next (s.modelWrite m value).1

/-- A write to PGE_KV_POOL (R78). BASE at or above LIMIT, for which the spec names no case, is an empty pool (DESIGN CHOICE,
log entry 69). -/
def State.poolWrite (s : State) (value : Nat) : State × St :=
  let base := bitsOf value 63 32
  let limit := bitsOf value 31 0
  let top := 65536 * limit
  if base < limit ∧ (s.touchesReserved (65536 * base) (top - 65536 * base) ∨ s.usableTop < top) then (s, .badParam)
  else if !s.framesTaken.isEmpty then (s, .tableBusy)
  else ((s.writeRw 0x80008 value).watermark, .ok)

/-- A write to PGE_KV_POOL. -/
def execPgeKvPoolWrite (value : Nat) (s : State) : Host.Outcome State Fault Refusal := .next (s.poolWrite value).1

/-- A role is licensed (R17). -/
def State.roleLicensed (s : State) (role : Nat) : Bool :=
  match role with
  | 1 => s.flag R.CAP_FEATURES_ROLE_PROMPT
  | 2 => s.flag R.CAP_FEATURES_ROLE_GENERATION
  | 3 => s.flag R.CAP_FEATURES_ROLE_CACHE
  | 4 => s.flag R.CAP_FEATURES_ROLE_SCORE
  | 5 => s.flag R.CAP_FEATURES_ROLE_LEARN
  | _ => false

/-- ADMITTING (Table 8.1, R374). -/
def State.admitting (s : State) : Bool :=
  s.flag R.PHS_CTRL_ADMIT && s.reg R.PHS_PHASE_PHASE == 0 && s.reg R.PHS_PHASE_STATE == 0
    && s.roleLicensed (s.reg R.PHS_PHASE_ROLE)

/-- The node's admission is closed. -/
def State.admissionClosed (s : State) : Bool := !s.admitting

/-- A request is coded, as a record of it at this node says. -/
def State.reqCoded (s : State) (id : Nat) : Bool :=
  s.rse.homes.any (fun h => h.r.id == id && h.r.coded) || s.rse.works.any (fun w => w.r.id == id && w.r.coded)
    || s.rse.mirrors.any (fun m => m.r.id == id && m.r.coded)

/-- A page of a coded request is held: a member or the parity of a group, or a history page (R104). -/
def State.holdsCoded (s : State) : Bool := s.pge.pages.any fun p => p.coded || s.reqCoded p.req

/-- A write to PGE_OCHRE or PGE_OCHRE_CTRL (R104). -/
def State.ochreWrite (s : State) (addr value : Nat) : State × St :=
  if !s.admissionClosed || s.holdsCoded then (s, .tableBusy)
  else if addr = 0x80040 ∧ 64 < value % 128 then (s, .badParam)
  else (s.writeRw addr value, .ok)

/-- A write to PGE_OCHRE or PGE_OCHRE_CTRL. -/
def execPgeOchreWrite (addr value : Nat) (s : State) : Host.Outcome State Fault Refusal := .next (s.ochreWrite addr value).1

/-- DRAINED of an Umber pool: none of its slots holds a page. -/
def State.poolDrained (s : State) (u : Nat) : Bool :=
  !(s.pge.pages.any fun p => match p.loc with
    | .t2 v _ => v == u
    | _ => false) && !(s.pge.migrations.any fun m => match m.target with
    | .slot v _ => v == u
    | _ => false)

/-- A write to PGE_UMBER_CTRL (R98, R104). -/
def State.umberCtrlWrite (s : State) (u value : Nat) : State × St :=
  let valid := s.flag (R.PGE_UMBER_CTRL_VALID u)
  let same := value % 2 ^ 24 == s.reg (R.PGE_UMBER_CTRL_QP u)
  if 16 ≤ u then (s, .badParam)
  else if (!valid && s.poolDrained u) || same && (valid && !bitAt value 32 || !valid && bitAt value 32) then
    (s.writeRw (0x83000 + 32 * u) value, .ok)
  else (s, .tableBusy)

/-- A write to PGE_UMBER_CTRL. -/
def execPgeUmberCtrlWrite (u value : Nat) (s : State) : Host.Outcome State Fault Refusal := .next (s.umberCtrlWrite u value).1

/-- A write to another register of an Umber pool (R104). -/
def State.umberWrite (s : State) (addr value : Nat) : State × St :=
  let u := (addr - 0x83000) / 32
  if s.flag (R.PGE_UMBER_CTRL_VALID u) || !s.poolDrained u then (s, .tableBusy) else (s.writeRw addr value, .ok)

/-- A write to another register of an Umber pool. -/
def execPgeUmberWrite (addr value : Nat) (s : State) : Host.Outcome State Fault Refusal := .next (s.umberWrite addr value).1

/-- A write to PGE_EVICT (R104). -/
def State.evictWrite (s : State) (value : Nat) : State × St :=
  let ok := fun t => t = 1 ∨ t = 2
  if ok (bitsOf value 63 62) ∧ ok (bitsOf value 61 60) then (s.writeRw 0x80028 value, .ok) else (s, .badParam)

/-- A write to PGE_EVICT. -/
def execPgeEvictWrite (value : Nat) (s : State) : Host.Outcome State Fault Refusal := .next (s.evictWrite value).1

end Sys2Proof.Machine
end

