-- ==== Sys2Proof/Machine/Xfr.lean ====
section
/-! DEFINITION. Transfer queues and work requests (sections 10.1, 10.2, 10.5): posting, starting, completing and flushing
requests; the requests that run at this node alone. -/

namespace Sys2Proof.Machine

/-! ### Reading requests -/

/-- A work request in memory (Table 10.1). -/
def workReq (rd : Nat → Byte) (o : Nat) : WorkReq :=
  let w := fun k => rdNat rd (o + 8 * k) 8
  { op := bitsOf (w 0) 63 56, waitKind := bitsOf (w 0) 55 54, fence := bitAt (w 0) 53, afterInject := bitAt (w 0) 52,
    notifyEn := bitAt (w 0) 51, aop := bitsOf (w 0) 47 44, fmt := bitsOf (w 0) 43 40, group := bitsOf (w 0) 39 32,
    locSpace := bitsOf (w 1) 47 46, locOff := bitsOf (w 1) 45 0, remote := w 2, length := bitsOf (w 3) 63 32,
    region := bitsOf (w 3) 31 12, key := bitsOf (w 4) 63 32, notifyTile := bitsOf (w 4) 31 27,
    notifyCtr := bitsOf (w 4) 26 11, operand := w 5, compare := w 6, waitTile := bitsOf (w 7) 63 59,
    waitCtr := bitsOf (w 7) 58 43, threshold := bitsOf (w 7) 39 0,
    rsvdOk := bitsOf (w 0) 50 48 = 0 ∧ bitsOf (w 0) 15 1 = 0 ∧ bitsOf (w 1) 63 48 = 0 ∧ bitsOf (w 3) 11 0 = 0
      ∧ bitsOf (w 4) 10 0 = 0 ∧ bitsOf (w 7) 42 40 = 0 }

/-- A queue's progress; one not listed is at its start. -/
def State.xq (s : State) (q : Nat) : XQueue := (s.xfr.queues.find? (·.q == q)).getD ⟨q, 0, [], []⟩

/-- A queue's progress put back. -/
def State.putXq (s : State) (x : XQueue) : State :=
  s.onXfr fun t => { t with queues := upsert (·.q == x.q) x t.queues }

/-- The post counter of a software queue. -/
def State.postKey (s : State) (q : Nat) : Nat := s.reg (R.XFR_Q_B_POST_TILE q) * 65536 + s.reg (R.XFR_Q_B_POST_CTR q)

/-- POSTED of a queue (R273, R274). -/
def State.postedOf (s : State) (q : Nat) : Nat := if q < 64 then (s.xq q).posted.length else s.counter (s.postKey q)

/-- Offset of the slot of a software queue's request. -/
def State.slotOf (s : State) (q i : Nat) : Nat :=
  s.reg (R.XFR_Q_A_RING q) + 64 * (i % 2 ^ s.reg (R.XFR_Q_B_DEPTH_LOG2 q))

/-- Request `i` of a queue. -/
def State.workAt (s : State) (q i : Nat) : WorkReq :=
  if q < 64 then (s.xq q).posted.getD i (workReq (fun _ => 0) 0) else workReq (s.rd .hbm) (s.slotOf q i)

/-- A queue's requests in flight. -/
def State.flightsOf (s : State) (q : Nat) : List XReq := s.xfr.flights.filter (·.q == q)

/-- A request in flight put back. -/
def State.putFlight (s : State) (r : XReq) : State :=
  s.onXfr fun t => { t with flights := upsert (fun x => x.q == r.q && x.idx == r.idx) r t.flights }

/-- The composition a queue's work is shaped for (R342). -/
def State.queueComp (s : State) (q : Nat) : Option Nat := s.compOf (s.reg (R.XFR_Q_A_CONTEXT q))

/-! ### Completing requests -/

/-- COMPLETED advanced across the requests at the head of the ring that are done. -/
def advanceDone : Nat → Nat → List Nat → Nat × List Nat
  | 0, c, done => (c, done)
  | n + 1, c, done => if done.contains c then advanceDone n (c + 1) (done.filter (· != c)) else (c, done)

/-- A flush that has no started request left ends: the queue is not VALID (R278). -/
def State.endFlush (s : State) (q : Nat) : State :=
  if s.flag (R.XFR_Q_A_BUSY q) && (s.flightsOf q).isEmpty then
    (s.setRegs [(R.XFR_Q_A_VALID q, 0), (R.XFR_Q_A_BUSY q, 0), (R.XFR_Q_A_ERROR q, 0)]).onXfr fun t =>
      { t with queues := t.queues.filter (·.q != q) }
  else s

/-- A queue enters ERROR with the first status that put it there (R277). -/
def State.queueError (s : State) (q idx : Nat) (st : St) : State :=
  let s := if s.flag (R.XFR_Q_A_ERROR q) then s
    else s.setRegs [(R.XFR_Q_A_ERROR q, 1), (R.XFR_Q_B_ERROR_STATUS q, st.code)]
  s.post .xfrQueueError (s.reg (R.XFR_Q_A_CONTEXT q)) (formO st s.node q idx)

/-- STATUS and DONE written into a request's slot. -/
def State.writeDone (s : State) (q idx : Nat) (st : St) : State :=
  if q < 64 then s else
    let o := s.slotOf q idx
    (s.wrNum .hbm o 1 1).wrNum .hbm (o + 2) 2 st.code

/-- A context takes the failure of a REDUCE as an instruction fault (R297). -/
def State.reduceFault (s : State) (ctx : Nat) (st : St) : State :=
  match s.ctx? ctx with
  | none => s
  | some x =>
    let core := x.desc.cores.headD 0
    (s.post .contextFault ctx (formC st core 0 0 x.desc.jobId)).faultCtx ctx st core 0

/-- The notify counter of a successful request that does not cross the fabric as a WRITE (R281). -/
def State.notifyLocal (s : State) (wr : WorkReq) : State :=
  if wr.notifyEn && s.tileIn wr.notifyTile then s.addCounter (wr.notifyTile * 65536 + wr.notifyCtr) 1 else s

/-- A request completes with a status: the slot, COMPLETED, the statistics, and what a failure brings (R275 to R277,
R281, R297). A pull of the request state engine is off its list once it succeeds (R53). -/
def State.completeReq (s : State) (r : XReq) (st : St) : State :=
  let s := s.onXfr fun t => { t with flights := t.flights.filter fun x => !(x.q == r.q && x.idx == r.idx) }
  let remoteWrite := r.wr.op == 1 && gNode r.wr.remote != s.node
  let s := if st = .ok && !remoteWrite then s.notifyLocal r.wr else s
  let s := s.writeDone r.q r.idx st
  let s := s.bump R.XFR_SRC_STATS_COMPLETED
  let x := s.xq r.q
  let (c, done) := advanceDone (x.done.length + 1) (s.reg (R.XFR_Q_C_COMPLETED r.q)) (x.done ++ [r.idx])
  let s := (s.putXq { x with done := done }).setReg (R.XFR_Q_C_COMPLETED r.q) c
  let s := if st = .ok then s else (s.bump R.XFR_SRC_STATS_FAILED).queueError r.q r.idx st
  let s := if r.q < 64 ∧ st = .ok then s.onRse fun e => { e with works := e.works.map fun w =>
      { w with pulls := w.pulls.filter (· != r.q * 2 ^ 32 + r.idx) } } else s
  let s := if r.wr.op = 0x10 ∧ st ≠ .ok then s.reduceFault (s.reg (R.XFR_Q_A_CONTEXT r.q)) st else s
  s.endFlush r.q

/-- Every request of a queue that has not started completes with a status. -/
def State.dropWaiting (s : State) (q : Nat) (st : St) : Nat → State
  | 0 => s
  | n + 1 =>
    let x := s.xq q
    if x.next < s.postedOf q then
      ((s.putXq { x with next := x.next + 1 }).completeReq ⟨q, x.next, s.workAt q x.next, .copy, true⟩ st).dropWaiting q st n
    else s

/-- A queue is flushed (R278). -/
def State.flushQueue (s : State) (q : Nat) : State :=
  let n := s.postedOf q - (s.xq q).next
  ((s.dropWaiting q .xfrAborted n).setReg (R.XFR_Q_A_BUSY q) 1).endFlush q

/-- A device queue's work is flushed: what has not started is dropped and the queue serves again (R278, section 10.6). -/
def State.flushDeviceQueue (s : State) (q : Nat) : State :=
  let n := s.postedOf q - (s.xq q).next
  (s.dropWaiting q .xfrAborted n).setReg (R.XFR_Q_A_ERROR q) 0

/-- The queues of a context flushed at its teardown (R278). -/
def State.flushCtxQueues (s : State) (c : Nat) : State :=
  ((List.range 1024).filter fun q => 64 ≤ q && s.flag (R.XFR_Q_A_VALID q) && s.reg (R.XFR_Q_A_CONTEXT q) == c).foldl
    State.flushQueue s

/-- A device queue with nothing posted that has not completed; queue 0 where there is none. -/
def State.idleDeviceQueue (s : State) : Nat :=
  ((List.range 64).find? fun q => (s.flightsOf q).isEmpty && (s.xq q).next == (s.xq q).posted.length).getD 0

/-- Work posted on a device queue for a context: its requests' keys (queue * 2^32 + index). -/
def State.postDevice (s : State) (ctx : Nat) (ws : List WorkReq) : List Nat × State :=
  let q := s.idleDeviceQueue
  let x := s.xq q
  let n := x.posted.length
  ((List.range ws.length).map fun i => q * 2 ^ 32 + n + i,
   (s.putXq { x with posted := x.posted ++ ws }).setRegs [(R.XFR_Q_A_CONTEXT q, ctx), (R.XFR_Q_A_ERROR q, 0)])

/-! ### Starting requests (R275, R279, R280) -/

/-- The wait condition of a request holds (R279). -/
def State.waitOk (s : State) (q : Nat) (wr : WorkReq) : Bool :=
  match wr.waitKind with
  | 1 => thresholdMet (s.counter (wr.waitTile * 65536 + wr.waitCtr)) wr.threshold
  | 2 =>
    let g := s.reg (R.XFR_Q_B_GATE_Q q)
    g == q || thresholdMet (s.reg (R.XFR_Q_C_COMPLETED g)) wr.threshold
  | _ => true

/-- A fabric frame belongs to a request's data. -/
def XReq.owns (r : XReq) (f : Frame) : Bool :=
  match r.prog, f.body with
  | .write g .., .write id .. => f.dst == gNode r.wr.remote && (id + 2 ^ 31 - g.first) % 2 ^ 31 < g.count
  | _, _ => false

/-- A request has injected its data: none of it waits in a shaper (R275, R342). -/
def State.allInjected (s : State) (r : XReq) : Bool := r.injected && !s.hcp.heldFab.any fun x => r.owns x.2

/-- A queue's next request may start (R275). -/
def State.mayStart (s : State) (q : Nat) : Bool :=
  let x := s.xq q
  let fl := s.flightsOf q
  let wr := s.workAt q x.next
  (q < 64 || (q < 1024 && s.flag (R.XFR_Q_A_VALID q))) && !s.flag (R.XFR_Q_A_ERROR q) && !s.flag (R.XFR_Q_A_BUSY q)
    && x.next < s.postedOf q && fl.length < s.reg (R.XFR_Q_B_INFLIGHT_MAX q) && s.xfr.flights.length < 16384
    && (!wr.fence || fl.isEmpty) && (!wr.afterInject || fl.all s.allInjected) && s.waitOk q wr

/-- The operations of Table 10.2. -/
def opKnown (op : Nat) : Bool := [1, 2, 3, 4, 5, 6, 8, 9, 0x10].contains op

/-- LENGTH lies within its operation's limit (Table 10.2). -/
def lengthOk (op len : Nat) : Bool :=
  match op with
  | 1 | 2 | 5 | 8 | 9 => 1 ≤ len && len ≤ 268435456
  | 0x10 => 32 ≤ len && len ≤ 260046848
  | _ => len == 0

/-- A range at this node a queue may not use, or that does not decode. -/
def State.rangeBad (s : State) (q space off n : Nat) : Bool :=
  1 < space || !s.decodes space off n
    || (64 ≤ q && space == 0 && (s.touchesReserved off n || s.touchesPool off n || s.touchesRegions off n
      || s.touchesMessages off n))

/-- Bytes of one element of a REDUCE's source. -/
def fmtBytes (fmt : Nat) : Nat := if fmt = 1 then 2 else 4

/-- Bytes a request uses at LOCAL. -/
def WorkReq.localBytes (w : WorkReq) : Nat :=
  match w.op with
  | 3 => if w.aop = 0 then 0 else 8
  | 4 | 6 => 0
  | 0x10 => w.length * fmtBytes w.fmt
  | _ => w.length

/-- The status a request fails with at its start (R279, R280, Table 11.1). -/
def State.startCheck (s : State) (q : Nat) (w : WorkReq) : Option St :=
  if !opKnown w.op || !w.rsvdOk || !lengthOk w.op w.length || w.waitKind == 3 then some .badParam
  else if w.waitKind = 2 ∧ s.reg (R.XFR_Q_B_GATE_Q q) = q then some .badParam
  else if (w.op = 5 ∨ w.op = 0x10) ∧ gNode w.remote ≠ 0 then some .badParam
  else if w.op = 4 ∧ 2 ^ 40 ≤ w.operand then some .badParam
  else if w.op = 3 ∧ gSpace w.remote = 2 ∧ (2 ^ 40 ≤ w.operand ∨ 2 ^ 40 ≤ w.compare) then some .badParam
  else if w.op = 0x10 ∧ (1 < w.fmt ∨ !s.flag (R.XFR_GROUP_A_VALID w.group)) then some .badParam
  else if 0 < w.localBytes ∧ s.rangeBad q w.locSpace w.locOff w.localBytes then some .addrInvalid
  else
    let here := match w.op with
      | 1 | 2 => gNode w.remote == s.node
      | 5 | 0x10 => true
      | _ => false
    let n := if w.op = 0x10 then
        w.length * (if s.flag (R.XFR_GROUP_A_RES_FMT w.group) then 2 else 4) else w.length
    if here && s.rangeBad q (gSpace w.remote) (gOff w.remote) n then some .addrInvalid else none

/-- The queue's next request started, where it may start and is of this operation; a request of no operation in the
table fails whichever of them is commanded. -/
def State.startNext (s : State) (q op : Nat) (run : State → XReq → State) : State :=
  if !s.mayStart q then s else
    let x := s.xq q
    let w := s.workAt q x.next
    if w.op ≠ op ∧ opKnown w.op then s else
      let r : XReq := ⟨q, x.next, w, .copy, false⟩
      let c := s.startCheck q w
      let s := s.putXq { x with next := x.next + 1 }
      match c with
      | some st => s.completeReq r st
      | none => run s r

/-! ### Remote operations of the node -/

/-- A TAG no outstanding operation and no quiet read slot has. -/
def State.newTag (s : State) : Nat :=
  let used := s.fab.remotes.map (·.tag) ++ s.xfr.quiet.map (·.tag)
  (((List.range (used.length + 1)).map fun i => (s.fab.nextTag + i) % 2 ^ 20).find? fun t => !used.contains t).getD 0

/-- An outstanding operation recorded. -/
def State.addRemote (s : State) (o : RemoteOp) : State :=
  s.onFab fun f => { f with
    remotes := f.remotes ++ [o]
    nextTag := (o.tag + 1) % 2 ^ 20 }

/-- The outstanding operation with a TAG. -/
def State.remote? (s : State) (tag : Nat) : Option RemoteOp := s.fab.remotes.find? (·.tag == tag)

/-- An outstanding operation is over. -/
def State.dropRemote (s : State) (tag : Nat) : State :=
  s.onFab fun f => { f with remotes := f.remotes.filter (·.tag != tag) }

/-- A local address as one number: space * 2^46 + offset. -/
def locAddr (space off : Nat) : Nat := space * 2 ^ 46 + off

/-- An ordered request put on the fabric, or kept at this node behind its held signals where it is for the node itself (R258). -/
def State.injectOr (s : State) (comp : Option Nat) (f : Frame) : State :=
  if f.dst = s.node then s.holdOwn f else s.inject comp f

/-- An ordered request of a transfer engine sent to another node, at once over where the node is unreachable (R252); to the node
itself, behind its held signals (R258). -/
def State.remoteReq (s : State) (r : XReq) (kind : RemoteKind) (body : OpHdr → Body) : State :=
  let w := r.wr
  let dst := gNode w.remote
  if s.isUnreachable dst then s.completeReq r .nodeUnreachable else
    let tag := s.newTag
    let s := s.addRemote ⟨tag, kind, dst, w.remote, w.region, 8, locAddr w.locSpace w.locOff, .queue r.q r.idx⟩
    (s.putFlight { r with
      prog := .remote tag
      injected := true }).injectOr (s.queueComp r.q) (mkFrame s.node dst (r.q < 64) (body ⟨w.remote, w.region, w.key, 8, tag⟩))

/-- An ATOMIC of a transfer engine (R257, R258, Table 11.1). -/
def State.startAtomic (s : State) (r : XReq) : State :=
  let w := r.wr
  if gNode w.remote ≠ s.node ∨ s.ownQueue then s.remoteReq r .atomic fun h => .atomic h w.aop w.operand w.compare
  else
    let space := gSpace w.remote
    let off := gOff w.remote
    let bad := if !s.targetMapped space off 8 then some St.addrInvalid else atomicCheck space off w.aop w.operand w.compare
    match bad with
    | some st => s.completeReq r st
    | none =>
      let (prior, s) := s.atomicAt space off w.aop w.operand w.compare
      let s := if w.aop = 0 then s else s.wrNum (spaceMem w.locSpace) w.locOff 8 prior
      s.completeReq r .ok

/-- An ATOMIC work request starts. -/
def execXfrAtomic (q : Nat) (s : State) : Host.Outcome State Fault Refusal := .next (s.startNext q 3 State.startAtomic)

/-- A SIGNAL of a transfer engine (R254, R258, Table 11.1). -/
def State.startSignal (s : State) (r : XReq) : State :=
  let w := r.wr
  if gNode w.remote ≠ s.node ∨ s.ownWaits then s.remoteReq r .signal fun h => .signal h 0 w.operand
  else match s.counterAt (gOff w.remote) with
    | some k => if gSpace w.remote = 2 then (s.addCounter k w.operand).completeReq r .ok else s.completeReq r .addrInvalid
    | none => s.completeReq r .addrInvalid

/-- A SIGNAL work request starts. -/
def execXfrSignal (q : Nat) (s : State) : Host.Outcome State Fault Refusal := .next (s.startNext q 4 State.startSignal)

/-! ### Requests at this node -/

/-- A COPY starts; its data is through with its completion, XFR_COPY_DONE. -/
def State.startCopy (s : State) (r : XReq) : State := s.putFlight { r with prog := .copy }

/-- A COPY work request starts. -/
def execXfrCopy (q : Nat) (s : State) : Host.Outcome State Fault Refusal := .next (s.startNext q 5 State.startCopy)

/-- A copy is written: LOCAL to REMOTE, or for a READ of this node REMOTE to LOCAL (R258, R280). The bytes of a WRITE to the node
itself are then accounted (R254). -/
def State.copyDone (s : State) (r : XReq) : State :=
  let w := r.wr
  let m := spaceMem w.locSpace
  let m' := spaceMem (gSpace w.remote)
  let s := if w.op = 2 then s.copyMem m' (gOff w.remote) m w.locOff w.length
    else s.copyMem m w.locOff m' (gOff w.remote) w.length
  if w.op = 1 then (s.completeReq r .ok).account s.node w.length else s.completeReq r .ok

/-- A NOP work request completes at once. -/
def execXfrNop (q : Nat) (s : State) : Host.Outcome State Fault Refusal :=
  .next (s.startNext q 6 fun s r => s.completeReq r .ok)

/-! ### UMBER requests (R280, R344, R345) -/

/-- An RDMA operation of a work request, on the QP its OPERAND numbers. -/
def State.startUmber (s : State) (write : Bool) (r : XReq) : State :=
  let w := r.wr
  let m := spaceMem w.locSpace
  let qp := (qpnIndex (w.operand % 2 ^ 24)).getD 16384
  if write && (s.poisoned m w.locOff w.length).isSome then s.completeReq r .poisonRead
  else
    let o : RoceOp := ⟨.request r.q r.idx, write, w.remote, w.key, w.length, w.locSpace, w.locOff,
      if write then s.rdBytes m w.locOff w.length else [], 0⟩
    match (s.putFlight { r with
      prog := .roce qp
      injected := true }).roceIssue qp o with
    | some s => s
    | none => s.completeReq r .roceError

/-- An UMBER_WRITE work request starts. -/
def execUmberWrite (q : Nat) (s : State) : Host.Outcome State Fault Refusal := .next (s.startNext q 8 (·.startUmber true))

/-- An UMBER_READ work request starts. -/
def execUmberRead (q : Nat) (s : State) : Host.Outcome State Fault Refusal := .next (s.startNext q 9 (·.startUmber false))

/-! ### Queue registers -/

/-- A host raises POSTED (R274, Table 10.8). -/
def State.qdWrite (s : State) (q value : Nat) : State × St :=
  if q < 64 then (s, .accessDenied)
  else if 1024 ≤ q ∨ value < s.postedOf q ∨ 2 ^ 40 ≤ value then (s, .badParam)
  else (s.setCounter (s.postKey q) value, .ok)

/-- A write to XFR_Q_D. -/
def execXfrQDWrite (q value : Nat) (s : State) : Host.Outcome State Fault Refusal := .next (s.qdWrite q value).1

/-- A write to XFR_Q_A or XFR_Q_B (R273, R274, R278, Table 10.8). -/
def State.queueCfgWrite (s : State) (addr value : Nat) : State × St :=
  let q := (addr - 0x301000) / 32
  let isA := addr % 32 == 0
  if addr < 0x301000 ∨ 1024 ≤ q then (s, .addrInvalid)
  else if q < 64 then (s, .accessDenied)
  else if s.flag (R.XFR_Q_A_VALID q) || s.flag (R.XFR_Q_A_BUSY q) then
    if isA && !bitAt value 63 then (if s.flag (R.XFR_Q_A_BUSY q) then s else s.flushQueue q, .ok) else (s, .tableBusy)
  else if isA then
    let ring := bitsOf value 45 0
    if ring % 4096 ≠ 0 ∨ !s.hbmFree ring (64 * 2 ^ s.reg (R.XFR_Q_B_DEPTH_LOG2 q)) then (s, .badParam)
    else
      let s := s.writeRw addr value
      if bitAt value 63 then
        (((s.setReg (R.XFR_Q_C_COMPLETED q) 0).putXq ⟨q, 0, [], []⟩).setCounter (s.postKey q) 0, .ok)
      else (s, .ok)
  else
    let d := bitsOf value 32 28
    let i := bitsOf value 22 16
    if d < 4 ∨ 16 < d ∨ i = 0 ∨ 64 < i then (s, .badParam) else (s.writeRw addr value, .ok)

/-- A write to XFR_Q_A or XFR_Q_B. -/
def execXfrQueueCfgWrite (addr value : Nat) (s : State) : Host.Outcome State Fault Refusal :=
  .next (s.queueCfgWrite addr value).1

/-- A write to XFR_CFG is accepted at any time (R299). -/
def execXfrCfgWrite (value : Nat) (s : State) : Host.Outcome State Fault Refusal := .next (s.writeRw 0x300000 value)

end Sys2Proof.Machine
end

