-- ==== Sys2Proof/Machine/Message.lean ====
section
/-! DEFINITION. Sprayed messages and reads (sections 10.3 and 10.4): WRITEs at their source, message state at their
destination, READs at both ends. -/

namespace Sys2Proof.Machine

/-! ### WRITEs at the source (R282, R283) -/

/-- Pieces of a range cut at every multiple of `cut`, as (start, length). -/
def pieces (cut start len : Nat) : List (Nat × Nat) :=
  if len = 0 then [] else
    (List.range ((start + len - 1) / cut - start / cut + 1)).map fun i =>
      let lo := max start ((start / cut + i) * cut)
      let hi := min (start + len) ((start / cut + i + 1) * cut)
      (lo, hi - lo)

/-- Messages to a destination injected whole or in part and not yet answered. -/
def State.incomplete (s : State) (dst : Nat) : Nat :=
  (s.xfr.flights.map fun r => match r.prog with
    | .write g left _ _ _ => if gNode r.wr.remote = dst then g.count - left.length else 0
    | _ => 0).sum

/-- The packets of message `k` of a group (R282). -/
def State.packets (s : State) (r : XReq) (g : MsgGroup) (k : Nat) : List Frame :=
  let w := r.wr
  match (pieces (2 ^ 21) g.addr g.bytes)[k]? with
  | none => []
  | some (ma, ml) => (pieces 4096 ma ml).map fun (a, n) =>
      let from_ := w.locOff + (a - w.remote)
      let m := spaceMem w.locSpace
      { mkFrame s.node (gNode w.remote) (r.q < 64)
          (.write ((g.first + k) % 2 ^ 31) (a / 4096 - ma / 4096) a w.region w.key ml (s.rdBytes m from_ n)) with
        poison := (s.poisoned m from_ n).isSome }

/-- The MSG_OPEN of a group has not gone out: it waits for room in its channel, or in a shaper. -/
def State.openWaits (s : State) (dst first : Nat) : Bool :=
  ((s.outCh dst).waiting ++ s.hcp.heldFab.map (·.2)).any fun f => f.dst == dst && (match f.body with
    | .engine _ _ _ _ _ _ (some (.msgOpen o)) => o.first == first
    | _ => false)

/-- Messages of a WRITE injected, once its MSG_OPEN is out, while fewer than 128 are incomplete toward its destination (R283). -/
def State.pumpWrite (s : State) (r : XReq) : Nat → State
  | 0 => s.putFlight r
  | n + 1 =>
    match r.prog with
    | .write g (k :: left) later tries ab =>
      let s' := s.putFlight r
      if s'.incomplete (gNode r.wr.remote) < 128 ∧ !s'.openWaits (gNode r.wr.remote) g.first then
        (s'.injectAll (s.queueComp r.q) (s.packets r g k)).pumpWrite { r with
          prog := .write g left later tries ab
          injected := left.isEmpty && later.isNone } n
      else s'
    | _ => s.putFlight r

/-- The MSG_OPEN of a group; only the last group's names the notify counter. -/
def openOf (w : WorkReq) (g : MsgGroup) (last : Bool) : OpenMsg :=
  ⟨g.count, g.first, g.bytes, w.notifyTile, w.notifyCtr, w.notifyEn && last⟩

/-- A group of messages begun: numbered, opened at the destination and injected. A group to an unreachable node is a new operation to
it (R252; DEDUCED, log entry 79). -/
def State.beginGroup (s : State) (r : XReq) (addr bytes tries : Nat) (later : Option (Nat × Nat)) : State :=
  let dst := gNode r.wr.remote
  if s.isUnreachable dst then s.completeReq r .nodeUnreachable else
  let first := lookupD 0 s.xfr.nextMsg dst
  let n := (pieces (2 ^ 21) addr bytes).length
  let g : MsgGroup := ⟨first, n, addr, bytes⟩
  let s := s.onXfr fun t => { t with nextMsg := assign 0 dst ((first + n) % 2 ^ 31) t.nextMsg }
  let s := s.sendMsgFor (s.queueComp r.q) dst (.msgOpen (openOf r.wr g later.isNone))
  s.pumpWrite { r with
    prog := .write g (List.range n) later tries false
    injected := false } (n + 1)

/-- A WRITE starts: a copy at its own node, whose bytes are sprayed bytes of the node to itself (R254, R258); else one group of messages, or two when there are more than 128. -/
def State.startWrite (s : State) (r : XReq) : State :=
  let w := r.wr
  if gNode w.remote = s.node then (s.addSent s.node w.length).startCopy r
  else if s.isUnreachable (gNode w.remote) then s.completeReq r .nodeUnreachable
  else
    let ps := pieces (2 ^ 21) w.remote w.length
    let firstBytes := ((ps.take 128).map (·.2)).sum
    let later := if 128 < ps.length then some (w.remote + firstBytes, w.length - firstBytes) else none
    s.beginGroup r w.remote firstBytes (s.reg R.XFR_CFG_RETRY_LIMIT) later

/-- A WRITE work request starts. -/
def execXfrWrite (q : Nat) (s : State) : Host.Outcome State Fault Refusal := .next (s.startNext q 1 State.startWrite)

/-- WRITEs waiting for room toward a destination go on. -/
def State.pumpDst (s : State) (dst : Nat) : State :=
  (s.xfr.flights.filter fun r => gNode r.wr.remote == dst).foldl (fun s r => match r.prog with
    | .write _ left _ _ _ => if left.isEmpty then s else s.pumpWrite r (left.length + 1)
    | _ => s) s

/-- MSG_DONE at the source (R283, R285); R286 applies to each of two groups on its own, with a budget of retries of its own. -/
def State.msgDone (s : State) (src first : Nat) (st : St) : State :=
  match s.xfr.flights.find? fun r => gNode r.wr.remote == src && (match r.prog with
      | .write g _ _ _ _ => g.first == first
      | _ => false) with
  | none => s
  | some r =>
    match r.prog with
    | .write g _ later tries _ =>
      let s := s.onXfr fun t => { t with flights := t.flights.filter fun x => !(x.q == r.q && x.idx == r.idx) }
      let s := match st, later with
        | .ok, some (addr, bytes) => s.beginGroup r addr bytes (s.reg R.XFR_CFG_RETRY_LIMIT) none
        | .ok, none => s.completeReq r .ok
        | .xfrTimeout, _ =>
          if 0 < tries then (s.bump R.XFR_SRC_STATS_RETRIES).beginGroup r g.addr g.bytes (tries - 1) later
          else s.completeReq r st
        | st, _ => s.completeReq r st
      s.pumpDst src
    | _ => s

/-- The source receives MSG_DONE. -/
def execMsgDone (src first count : Nat) (status : St) (s : State) : Host.Outcome State Fault Refusal :=
  .next ((s.takeMsg src (.msgDone first count status)).msgDone src first status)

/-- No MSG_DONE within MSG_TIMEOUT_US of the last packet: MSG_ABORT for the same range (R286). -/
def execMsgTimeoutExpiry (q idx : Nat) (s : State) : Host.Outcome State Fault Refusal :=
  match s.xfr.flights.find? fun x => x.q == q && x.idx == idx with
  | none => .next s
  | some r =>
    match r.prog with
    | .write g [] later tries false =>
      if s.isUnreachable (gNode r.wr.remote) then .next (s.completeReq r .nodeUnreachable)
      else .next ((s.putFlight { r with prog := .write g [] later tries true }).sendMsgFor (s.queueComp q)
        (gNode r.wr.remote) (.msgAbort (openOf r.wr g later.isNone)))
    | _ => .next s

/-- The channel to a destination restarts: SENT is 0 and every unfinished WRITE to it fails (R287). -/
def State.writesLost (s : State) (dst : Nat) : State :=
  let s := s.putOut { s.outCh dst with sent := 0 }
  let s := s.onXfr fun t => { t with nextMsg := assign 0 dst 0 t.nextMsg }
  (s.xfr.flights.filter fun r => gNode r.wr.remote == dst && (match r.prog with
    | .write .. => true
    | _ => false)).foldl (fun s r => s.completeReq r .nodeUnreachable) s

/-! ### Message state at the destination (R283 to R287) -/

/-- The message state kept for a source. -/
def State.msgSrc (s : State) (src : Nat) : MsgSource :=
  (s.xfr.sources.find? (·.src == src)).getD ⟨src, 0, [], [], [], []⟩

/-- The message state of a source put back. -/
def State.putMsgSrc (s : State) (m : MsgSource) : State :=
  s.onXfr fun t => { t with sources := upsert (·.src == m.src) m t.sources }

/-- A MSG_ID lies below a source's floor. -/
def MsgSource.below (m : MsgSource) (id : Nat) : Bool := decide (2 ^ 30 ≤ (id + 2 ^ 31 - m.floor) % 2 ^ 31)

/-- A MSG_ID is finished. -/
def MsgSource.isFinished (m : MsgSource) (id : Nat) : Bool := m.below id || m.finished.contains id

/-- The floor advanced across finished MSG_IDs. -/
def advanceFloor : Nat → MsgSource → MsgSource
  | 0, m => m
  | n + 1, m =>
    if m.finished.contains m.floor then
      advanceFloor n { m with
        floor := (m.floor + 1) % 2 ^ 31
        finished := m.finished.filter (· != m.floor) }
    else m

/-- A message marked failed; the first status stands. -/
def MsgSource.fail (m : MsgSource) (id : Nat) (st : St) : MsgSource :=
  if m.failed.any (·.1 == id) then m else { m with failed := m.failed ++ [(id, st)] }

/-- A message finished: its record is free, its flag set and the floor moved (R284). -/
def State.finishMsg (s : State) (src id : Nat) : State :=
  let m := s.msgSrc src
  let s := s.onXfr fun t => { t with recs := t.recs.filter fun r => !(r.src == src && r.msgId == id) }
  let m := advanceFloor (m.finished.length + 1) { m with finished := m.finished ++ [id] }
  (s.putMsgSrc m).bump R.XFR_DEST_STATS_MESSAGES

/-- The MSG_IDs of an open range. -/
def OpenMsg.ids (o : OpenMsg) : List Nat := (List.range o.count).map fun i => (o.first + i) % 2 ^ 31

/-- The first failure among a range's messages (R285). -/
def MsgSource.failure (m : MsgSource) (o : OpenMsg) : Option St :=
  (m.failed.find? fun f => o.ids.contains f.1).map (·.2)

/-- A finished range is answered (R285). Only a WRITE whose MSG_OPEN stands is notified. -/
def State.answerRange (s : State) (src : Nat) (o : OpenMsg) : State :=
  let m := s.msgSrc src
  let notify := o.notifyEn && m.opens.contains o
  let st := match m.failure o with
    | some st => st
    | none => if notify && !s.tileIn o.notifyTile then .addrInvalid else .ok
  let s := s.putMsgSrc { m with
    opens := m.opens.filter fun x => decide (x ≠ o)
    failed := m.failed.filter fun f => !(o.ids.contains f.1)
    seen := m.seen.filter fun f => !(o.ids.contains f.1) }
  let s := if st = .ok ∧ notify then s.addCounter (o.notifyTile * 65536 + o.notifyCtr) 1 else s
  s.sendMsg src (.msgDone o.first o.count st)

/-- A WRITE whose messages are all finished is answered (R285). -/
def State.answerOpen (s : State) (src : Nat) (o : OpenMsg) : State :=
  if o.ids.all (s.msgSrc src).isFinished then s.answerRange src o else s

/-- Every finished WRITE of a source answered. -/
def State.answerOpens (s : State) (src : Nat) : State := (s.msgSrc src).opens.foldl (fun s o => s.answerOpen src o) s

/-- A destination records a WRITE's message range and notify target. -/
def execMsgOpen (src : Nat) (m : OpenMsg) (s : State) : Host.Outcome State Fault Refusal :=
  let s := s.takeMsg src (.msgOpen m)
  let x := s.msgSrc src
  .next ((s.putMsgSrc { x with opens := x.opens ++ [m] }).answerOpen src m)

/-- Bytes of a message placed or refused so far. -/
def MsgSource.seenOf (m : MsgSource) (id : Nat) : Nat := lookupD 0 m.seen id

/-- A packet's bytes counted toward its message; a message that has them all is finished (R284). -/
def State.msgBytes (s : State) (src id n total : Nat) : State :=
  let m := s.msgSrc src
  let k := m.seenOf id + n
  let s := s.putMsgSrc { m with seen := assign 0 id k m.seen }
  if total ≤ k then (s.finishMsg src id).answerOpens src else s

/-- A packet refused: SPRAY_NAK, and its bytes accounted (R265, Table 10.4). -/
def State.refusePacket (s : State) (f : Frame) (id region addr n : Nat) (st : St) : State :=
  (s.sprayNak f id region addr st).account f.src n

/-- A WRITE packet at its destination, by the rows of Table 10.4. -/
def State.writePacket (s : State) (f : Frame) (id psn addr region key total : Nat) (data : List Byte) : State :=
  let src := f.src
  let n := data.length
  let m := s.msgSrc src
  let d := (id + 2 ^ 31 - m.floor) % 2 ^ 31
  if !s.flag R.XFR_MSG_BASE_VALID then
    (s.refusePacket f id region addr n .xfrBusy).msgBytes src id n total
  else if m.isFinished id then s.bump R.XFR_DEST_STATS_DUPLICATES
  else if 128 ≤ d then (s.refusePacket f id region addr n .badParam).msgBytes src id n total
  else match m.failed.find? (·.1 == id) with
  | some (_, st) => (s.refusePacket f id region addr n st).msgBytes src id n total
  | none =>
    let rec? := s.xfr.recs.find? fun r => r.src == src && r.msgId == id
    if rec?.isNone ∧ 65536 ≤ s.xfr.recs.length then
      ((s.putMsgSrc (m.fail id .xfrBusy)).refusePacket f id region addr n .xfrBusy).msgBytes src id n total
    else
      let r := rec?.getD ⟨src, id, [], 0, total⟩
      if r.psns.contains psn then s.bump R.XFR_DEST_STATS_DUPLICATES
      else
        let r := { r with
          psns := r.psns ++ [psn]
          bytes := r.bytes + n }
        let s := s.onXfr fun t => { t with recs := upsert (fun x => x.src == src && x.msgId == id) r t.recs }
        let t := s.targetCheck src f.dev ⟨addr, region, key, n, 0⟩ .write
        let s := s.regionLooked src ⟨addr, region, key, n, 0⟩
        let bad := t.orElse fun _ => if 1 < gSpace addr then some .addrInvalid else none
        let s := match bad with
          | some st => ((s.countRefusal t).putMsgSrc (m.fail id st)).refusePacket f id region addr n st
          | none => (s.place (spaceMem (gSpace addr)) (gOff addr) data f.poison).account src n
        s.msgBytes src id n total

/-- An unfinished message of an aborted range is given up (R286). -/
def State.abandon (s : State) (src id : Nat) : State :=
  let m := s.msgSrc src
  if m.isFinished id then s else
    (((s.putMsgSrc (m.fail id .xfrTimeout)).finishMsg src id).bump R.XFR_DEST_STATS_ABANDONED).post .msgAbandoned 0xFFF
      (formO .xfrTimeout src id 0)

/-- MSG_ABORT at the destination: unfinished messages are given up, the bytes of the range neither placed nor refused
are accounted, and the range is answered, also where no MSG_OPEN of it stands (R286; DEDUCED, log entry 97). -/
def State.abortMsgs (s : State) (src : Nat) (o : OpenMsg) : State :=
  let m := s.msgSrc src
  let s := if o.ids.all m.isFinished then s
    else (o.ids.foldl (fun s id => s.abandon src id) s).account src (o.bytes - (o.ids.map m.seenOf).sum)
  s.answerRange src o

/-- The unfinished messages a destination knows of from a source. -/
def State.unfinished (s : State) (src : Nat) : List Nat :=
  let m := s.msgSrc src
  let ids := (s.xfr.recs.filter (·.src == src)).map (·.msgId) ++ m.opens.flatMap OpenMsg.ids
  ids.dedup.filter fun id => !m.isFinished id

/-- Every unfinished message of a source marked failed (R287, R432). -/
def State.failSource (s : State) (st : St) (src : Nat) : State :=
  s.putMsgSrc ((s.unfinished src).foldl (fun m id => m.fail id st) (s.msgSrc src))

/-- Every unfinished message marked failed by a compute-only reset (R287). -/
def State.failMessages (s : State) (st : St) : State := (s.xfr.sources.map (·.src)).foldl (fun s n => s.failSource st n) s

/-- The message state of a source cleared: its channel changed incarnation (R287). -/
def State.clearSource (s : State) (src : Nat) : State :=
  s.onXfr fun t => { t with
    recs := t.recs.filter (·.src != src)
    sources := t.sources.filter (·.src != src) }

/-- XFR_MSG_BASE (R299). -/
def State.msgBaseWrite (s : State) (value : Nat) : State × St :=
  let b := bitsOf value 45 0
  if b % 2 ^ 24 ≠ 0 ∨ !s.hbmMapped b (2 ^ 24) ∨ s.touchesReserved b (2 ^ 24) ∨ s.touchesPool b (2 ^ 24)
      ∨ s.touchesRegions b (2 ^ 24) then (s, .badParam)
  else if !s.xfr.recs.isEmpty then (s, .tableBusy)
  else (s.writeRw 0x300008 value, .ok)

/-- A write to XFR_MSG_BASE. -/
def execXfrMsgBaseWrite (value : Nat) (s : State) : Host.Outcome State Fault Refusal := .next (s.msgBaseWrite value).1

/-! ### READs (R288, R289) -/

/-- READ frames sent for several pieces. -/
def State.sendReads (s : State) (comp : Option Nat) (dev : Bool) (dst tag : Nat) (w : WorkReq) : List (Nat × Nat) → State
  | [] => s
  | (a, n) :: l =>
    (s.inject comp (mkFrame s.node dst dev (.read ⟨a, w.region, w.key, n, tag⟩))).sendReads comp dev dst tag w l

/-- A READ starts: a copy at its own node, else one READ frame per piece under one slot. -/
def State.startRead (s : State) (r : XReq) : State :=
  let w := r.wr
  let dst := gNode w.remote
  if dst = s.node then s.startCopy r
  else if s.isUnreachable dst then s.completeReq r .nodeUnreachable
  else
    let tag := s.newTag
    let ps := pieces 4096 w.remote w.length
    let s := s.addRemote ⟨tag, .read, dst, w.remote, w.region, w.length, locAddr w.locSpace w.locOff, .queue r.q r.idx⟩
    (s.putFlight { r with
      prog := .read tag ps [] none
      injected := true }).sendReads (s.queueComp r.q) (r.q < 64) dst tag w ps

/-- A READ work request starts. -/
def execXfrRead (q : Nat) (s : State) : Host.Outcome State Fault Refusal := .next (s.startNext q 2 State.startRead)

/-- A READ whose every piece has landed, been refused or timed out completes; its slot is quiet until reused. -/
def State.readEnd (s : State) (r : XReq) : State :=
  match r.prog with
  | .read tag [] landed failed =>
    let s := (s.dropRemote tag).onXfr fun t => { t with quiet := t.quiet ++ [⟨tag, landed⟩] }
    s.completeReq r (failed.getD .ok)
  | _ => s.putFlight r

/-- The flight of a read slot. -/
def State.readFlight (s : State) (tag : Nat) : Option XReq :=
  s.xfr.flights.find? fun r => match r.prog with
    | .read t _ _ _ => t == tag
    | _ => false

/-- A piece of a READ refused. -/
def State.readRefused (s : State) (tag addr : Nat) (st : St) : State :=
  match s.readFlight tag with
  | none => s
  | some r =>
    match r.prog with
    | .read t left landed failed =>
      if left.any (·.1 == addr) then
        s.readEnd { r with prog := .read t (left.filter (·.1 != addr)) landed (some (failed.getD st)) }
      else s
    | _ => s

/-- Every piece of a READ still awaited fails (R252, R266). -/
def State.readFailed (s : State) (tag : Nat) (st : St) : State :=
  match s.readFlight tag with
  | none => s
  | some r =>
    match r.prog with
    | .read t _ landed failed => s.readEnd { r with prog := .read t [] landed (some (failed.getD st)) }
    | _ => s

/-- A page that became lost at its source during a move stands in a frame a READ touches (R99, R435). -/
def State.readsLost (s : State) (m : Mem) (off len : Nat) : Bool :=
  decide (m = .hbm) && s.pge.pages.any fun p => !p.headerOk && (s.frameOf p).any fun f =>
    16384 * f < off + len && off < 16384 * f + pageBytes p.pageSize

/-- A responder answers a READ (R263, R288); data it has lost goes out with POISON (R267, R435). -/
def State.readFrame (s : State) (f : Frame) (h : OpHdr) : State :=
  let t := s.targetCheck f.src f.dev h .read
  let s := s.regionLooked f.src h
  let bad := t.orElse fun _ => if 1 < gSpace h.addr then some .addrInvalid else none
  match bad with
  | some st => (s.countRefusal t).respond f (.sprayNak st h.region h.addr (2 ^ 31 + h.tag)) false
  | none =>
    let m := spaceMem (gSpace h.addr)
    s.respond f (.readData (2 ^ 31 + h.tag) 0 h.addr (s.rdBytes m (gOff h.addr) h.len))
      ((s.poisoned m (gOff h.addr) h.len).isSome || s.readsLost m (gOff h.addr) h.len)

/-- A late piece: accounted, counted and not placed (R289). -/
def State.lateData (s : State) (src n : Nat) : State := (s.account src n).bump R.FAB_STATS_LATE_RESPONSES

/-- A piece of a READ arrives (R289); a poisoned piece of a device's READ, a pull, ends it with ST_POISON_READ (R435). -/
def State.readData (s : State) (f : Frame) (tag addr : Nat) (data : List Byte) : State :=
  match s.readFlight tag with
  | some r =>
    match r.prog with
    | .read t left landed failed =>
      if left.any (·.1 == addr) then
        let m := spaceMem r.wr.locSpace
        let s := (s.place m (r.wr.locOff + (addr - r.wr.remote)) data f.poison).account f.src data.length
        let bad := if f.poison ∧ r.q < 64 then some (failed.getD .poisonRead) else failed
        s.readEnd { r with prog := .read t (left.filter (·.1 != addr)) (landed ++ [addr]) bad }
      else if landed.contains addr then s
      else s.lateData f.src data.length
    | _ => s
  | none =>
    if s.xfr.quiet.any fun q => q.tag == tag && q.landed.contains addr then s else s.lateData f.src data.length

/-- A read slot becomes reusable (R289). -/
def execTagQuietExpiry (tag : Nat) (s : State) : Host.Outcome State Fault Refusal :=
  .next (s.onXfr fun t => { t with quiet := t.quiet.filter (·.tag != tag) })

end Sys2Proof.Machine
end

