-- ==== Sys2Proof/Machine/Collective.lean ====
section
/-! DEFINITION. Collectives (section 10.7): the wire form of a chunk, contributions and their sums, results, failures, and
the group registers. -/

namespace Sys2Proof.Machine

/-- Elements of a full chunk (R292). -/
def chunkElems : Nat := 3968

/-- WIRE_FMT as an element format. -/
def wireFmt (code : Nat) : Fmt := if code = 1 then .mx8e5 else .mx8e4

/-- Values cut into groups of 32, the last padded with +0. -/
def padded32 (l : List Num) : List (List Num) :=
  (List.range ((l.length + 31) / 32)).map fun b => (List.range 32).map fun i => l.getD (32 * b + i) .zero

/-- A chunk's elements in WIRE_FMT with their scales (R139, R292). -/
def encodeWire (f : Fmt) (r : Round) (l : List Num) : Calc (List Byte) := do
  let bs ← (padded32 l).mapM (mxBlock f r Config.collSat)
  return (bs.flatMap fun b => b.2.map fun e => BitVec.ofNat 8 e) ++ bs.map fun b => BitVec.ofNat 8 b.1

/-- A chunk's elements from their wire form (R292). -/
def decodeWire (f : Fmt) (data : List Byte) : List Num :=
  let n := data.length * 32 / 33
  (List.range n).map fun i => mxValue f (data.getD (n + i / 32) 0).toNat (data.getD i 0).toNat

/-- A value rounded once to BF16 (R294). -/
def toBf16 (v : Num) : Calc Num := do return Fmt.bf16.value (← convert .bf16 .rne false v)

/-- Contributions of one element added in an order that is not fixed (R141, R294). -/
def collSum (bf16 : Bool) : Nat → List Num → Calc Num
  | _, [] => pure .zero
  | _, [x] => pure x
  | 0, x :: _ => pure x
  | n + 1, x :: y :: rest => do
    let l := x :: y :: rest
    let k ← Calc.next
    let a := l.getD (Config.pick k % l.length) .zero
    let l1 := l.eraseIdx (Config.pick k % l.length)
    let b := l1.getD (Config.pick k / l.length % l1.length) .zero
    let raw ← a.addRaw b
    let c ← if bf16 then toBf16 raw else toF32 raw
    collSum bf16 n (c :: l1.eraseIdx (Config.pick k / l.length % l1.length))

/-- A group's ROUND. -/
def State.groupRound (s : State) (g : Nat) : Round := (Round.ofCode (s.reg (R.XFR_GROUP_A_ROUND g))).getD .rne

/-- A group's children. -/
def State.groupChildren (s : State) (g : Nat) : List Nat :=
  (List.range (s.reg (R.XFR_GROUP_A_CHILD_COUNT g))).map fun i =>
    s.reg (R.XFR_GROUP_CHILD_CHILDREN (4 * g + i / 4)) / 2 ^ (16 * (i % 4)) % 65536

/-- The member's REDUCE request of a group in flight. -/
def State.reduceFlight (s : State) (g : Nat) : Option XReq :=
  s.xfr.flights.find? fun r => r.wr.op == 0x10 && r.wr.group == g && (match r.prog with
    | .reduce .. => true
    | _ => false)

/-- OP of a REDUCE request. -/
def WorkReq.collOp (w : WorkReq) : Nat := w.operand % 65536

/-- Elements of chunk `c` of an op. -/
def chunkLen (total c : Nat) : Nat := min chunkElems (total - c * chunkElems)

/-- A member drops an op: its slots are free, its request is over with a status (R296). -/
def State.endOp (s : State) (g op : Nat) (st : St) : State :=
  let s := s.onXfr fun t => { t with
    slots := t.slots.filter fun x => !(x.group == g && x.op == op)
    ended := upsert (·.group == g) ⟨g, op, (s.reduceFlight g).all fun r => r.wr.collOp != op⟩ t.ended }
  let s := s.setReg (R.XFR_GROUP_STATUS_LAST_STATUS g) st.code
  match s.reduceFlight g with
  | some r => if r.wr.collOp = op then s.completeReq r st else s
  | none => s

/-- An op fails at a member (R296). -/
def State.failOp (s : State) (g op : Nat) (st : St) : State :=
  let ctx := ((s.reduceFlight g).map fun r => s.reg (R.XFR_Q_A_CONTEXT r.q)).getD 0xFFF
  (s.endOp g op st).post .collectiveFailed ctx (formO st s.node g op)

/-- A REDUCE packet sent (R292), with POISON where what it sums carried poison (R267). -/
def State.sendReduce (s : State) (dst : Nat) (m : ReduceMsg) (poison : Bool) : State :=
  s.inject ((s.reduceFlight m.group).bind fun r => s.queueComp r.q)
    { mkFrame s.node dst false (.reduce m) with poison := poison }

/-- A packet sent to several nodes. -/
def State.sendReduces (s : State) (m : ReduceMsg) (poison : Bool) : List Nat → State
  | [] => s
  | d :: ds => (s.sendReduce d m poison).sendReduces m poison ds

/-- A chunk's result at a member: written at REMOTE in RES_FMT and passed to the children (R295), with its poison (R267). -/
def State.applyDown (s : State) (m : ReduceMsg) (poison : Bool) : State :=
  let g := m.group
  let s := match s.reduceFlight g with
    | some r =>
      match r.prog with
      | .reduce chunks next written =>
        if r.wr.collOp ≠ m.op ∨ written.contains m.chunk then s else
          let bf := s.flag (R.XFR_GROUP_A_RES_FMT g)
          let vs := (decodeWire (wireFmt (s.reg (R.XFR_GROUP_A_WIRE_FMT g))) m.data).take (chunkLen r.wr.length m.chunk)
          let (out, s) := s.calc (vs.mapM fun v => do
            if bf then return toBytes 2 (← convert .bf16 .rne false v) else return toBytes 4 (← toF32 v).f32Bits)
          let size := if bf then 2 else 4
          let s := s.place (spaceMem (gSpace r.wr.remote)) (gOff r.wr.remote + m.firstElem * size) out.flatten poison
          s.putFlight { r with prog := .reduce chunks next (written ++ [m.chunk]) }
      | _ => s
    | none => s
  let s := s.onXfr fun t => { t with slots := t.slots.filter fun x => !(x.group == g && x.op == m.op && x.chunk == m.chunk) }
  s.sendReduces { m with down := true } poison (s.groupChildren g)

/-- A contribution added to a chunk's slot; a complete sum goes up, or at the root down (R294). -/
def State.contribute (s : State) (m : ReduceMsg) (who : Nat) (poison : Bool) : State :=
  let g := m.group
  let f := wireFmt (s.reg (R.XFR_GROUP_A_WIRE_FMT g))
  let same := fun (x : CollSlot) => x.group == g && x.op == m.op && x.chunk == m.chunk
  let x := (s.xfr.slots.find? same).getD ⟨g, m.op, m.chunk, [], [], [], false, false⟩
  if x.from_.contains who then s.bump (R.XFR_GROUP_STATS_DUPLICATES g)
  else
    let (vals, s) := s.calc ((decodeWire f m.data).mapM fun v => do return (← toF32 v).f32Bits)
    let x := { x with
      totals := x.totals ++ [m.total]
      from_ := x.from_ ++ [who]
      parts := x.parts ++ [vals]
      poison := x.poison || poison }
    if x.from_.length < s.reg (R.XFR_GROUP_A_CHILD_COUNT g) + 1 then
      s.onXfr fun t => { t with slots := upsert same x t.slots }
    else
      let bf := s.flag (R.XFR_GROUP_A_ACC_FMT g)
      let n := (x.parts.map List.length).foldl max 0
      let (data, s) := s.calc (do
        let sums ← (List.range n).mapM fun i => collSum bf x.parts.length (x.parts.map fun p => f32 (p.getD i 0))
        encodeWire f (s.groupRound g) sums)
      let s := s.bump (R.XFR_GROUP_STATS_CHUNKS g)
      let s := s.onXfr fun t => { t with slots := upsert same { x with parts := [], sent := true } t.slots }
      let out := { m with data := data }
      if s.flag (R.XFR_GROUP_A_ROOT g) then s.applyDown { out with down := true } x.poison
      else s.sendReduce (s.reg (R.XFR_GROUP_A_PARENT g)) { out with down := false } x.poison

/-- The member's own contribution for one chunk: its source values encoded (R296), and whether they carry poison (R267). -/
def State.ownChunk (s : State) (r : XReq) (c : Nat) : ReduceMsg × Bool × State :=
  let w := r.wr
  let g := w.group
  let size := fmtBytes w.fmt
  let n := chunkLen w.length c
  let off := w.locOff + c * chunkElems * size
  let m := spaceMem w.locSpace
  let poison := (s.poisoned m off (n * size)).isSome
  let vs := (List.range n).map fun i =>
    (if w.fmt = 1 then Fmt.bf16 else Fmt.fp32).value (s.rdNum m (off + i * size) size)
  let (data, s) := s.calc (encodeWire (wireFmt (s.reg (R.XFR_GROUP_A_WIRE_FMT g))) (s.groupRound g) vs)
  (⟨false, g, w.collOp, c, c * chunkElems, w.length, data⟩, poison, s)

/-- Chunks of a running op submitted while the window allows; an op with every result written completes (R296). -/
def State.pumpReduce (s : State) (g : Nat) : Nat → State
  | 0 => s
  | n + 1 =>
    match s.reduceFlight g with
    | none => s
    | some r =>
      match r.prog with
      | .reduce chunks next written =>
        if written.length = chunks then s.endOp g r.wr.collOp .ok
        else if next < chunks ∧ (next < s.reg (R.XFR_GROUP_A_WINDOW g)
            ∨ written.contains (next - s.reg (R.XFR_GROUP_A_WINDOW g))) then
          let (m, poison, s) := s.ownChunk r next
          ((s.putFlight { r with
            prog := .reduce chunks (next + 1) written
            injected := next + 1 == chunks }).contribute m 65536 poison).pumpReduce g n
        else s
      | _ => s

/-- A REDUCE request starts: the op is the group's current one (R296). One for an op that failed before gets that status; any other starts
its op afresh. -/
def State.startReduce (s : State) (r : XReq) : State :=
  let w := r.wr
  let g := w.group
  if (s.reduceFlight g).isSome then s.completeReq r .badState
  else if s.xfr.ended.contains ⟨g, w.collOp, true⟩ && s.reg (R.XFR_GROUP_STATUS_LAST_STATUS g) != 0 then
    (s.onXfr fun t => { t with ended := t.ended.map fun e => if e.group = g then { e with owed := false } else e }).completeReq r ((St.ofCode (s.reg (R.XFR_GROUP_STATUS_LAST_STATUS g))).getD .badState)
  else
    let chunks := (w.length + chunkElems - 1) / chunkElems
    let s := s.setReg (R.XFR_GROUP_STATUS_CURRENT_OP g) w.collOp
    let s := (s.putFlight { r with prog := .reduce chunks 0 [] }).onXfr fun t => { t with
      ended := t.ended.filter fun e => !(e.group == g && e.op == w.collOp) }
    if s.xfr.slots.any fun x => x.group == g && x.op == w.collOp && x.totals.any (· != w.length) then
      s.failOp g w.collOp .collectiveMismatch
    else s.pumpReduce g (2 * chunks + 2)

/-- A REDUCE work request starts. -/
def execXfrReduce (q : Nat) (s : State) : Host.Outcome State Fault Refusal := .next (s.startNext q 0x10 State.startReduce)

/-- MSG_ID of a REDUCE packet (R292). -/
def ReduceMsg.msgId (m : ReduceMsg) : Nat := (if m.down then 2 ^ 31 else 0) + m.group * 65536 + m.op

/-- A REDUCE packet the group does not accept (R293). -/
def State.reduceRefused (s : State) (f : Frame) (m : ReduceMsg) : State :=
  let addr := m.firstElem
  (s.sprayNak f m.msgId 0 addr .accessDenied).account f.src m.data.length

/-- A group's op is the last that ended at this member. -/
def State.opEnded (s : State) (g op : Nat) : Bool := s.xfr.ended.any fun e => e.group == g && e.op == op

/-- R293's conditions on group, source and op. An op that failed is refused. -/
def State.reduceAccepts (s : State) (f : Frame) (m : ReduceMsg) : Bool :=
  let g := m.group
  let cur := s.reg (R.XFR_GROUP_STATUS_CURRENT_OP g)
  s.flag (R.XFR_GROUP_A_VALID g)
    && (if m.down then !s.flag (R.XFR_GROUP_A_ROOT g) && s.reg (R.XFR_GROUP_A_PARENT g) == f.src
        else (s.groupChildren g).contains f.src)
    && (m.op == cur || m.op == (cur + 1) % 65536)
    && !(s.opEnded g m.op && s.reg (R.XFR_GROUP_STATUS_LAST_STATUS g) != 0)

/-- A packet of an op's chunk that is over, or came before (R294). -/
def State.reduceSeen (s : State) (f : Frame) (m : ReduceMsg) : Bool :=
  s.opEnded m.group m.op
    || (s.reduceFlight m.group).any (fun r => r.wr.collOp == m.op && (match r.prog with
        | .reduce _ _ written => written.contains m.chunk
        | _ => false))
    || (!m.down && s.xfr.slots.any fun x => x.group == m.group && x.op == m.op && x.chunk == m.chunk && x.from_.contains f.src)

/-- The op's length at the member disagrees with a packet's. -/
def State.reduceMismatch (s : State) (m : ReduceMsg) : Bool :=
  (s.reduceFlight m.group).any fun r => r.wr.collOp == m.op && r.wr.length != m.total

/-- A REDUCE packet, up or down (R293 to R296). -/
def State.reducePacket (s : State) (f : Frame) (m : ReduceMsg) : State :=
  if s.transitOnly then (s.sprayNak f m.msgId 0 m.firstElem .nodeResetting).account f.src m.data.length
  else if !s.reduceAccepts f m then s.reduceRefused f m
  else if s.reduceSeen f m then s.bump (R.XFR_GROUP_STATS_DUPLICATES m.group)
  else
    let s := s.account f.src m.data.length
    if s.reduceMismatch m then s.failOp m.group m.op .collectiveMismatch
    else
      let s := if m.down then s.applyDown m f.poison else s.contribute m f.src f.poison
      match s.reduceFlight m.group with
      | some r => s.pumpReduce m.group (2 * (r.wr.length / chunkElems + 1) + 2)
      | none => s

/-- A slot has waited COLL_TIMEOUT_MS since its first contribution (R296). -/
def execCollTimeoutExpiry (group chunk : Nat) (s : State) : Host.Outcome State Fault Refusal :=
  match s.xfr.slots.find? fun x => x.group == group && x.chunk == chunk with
  | none => .next s
  | some x => .next (s.failOp group x.op .collectiveTimeout)

/-- Chunk slots the VALID groups of a die take, without one group. -/
def State.dieWindow (s : State) (die g : Nat) : Nat :=
  (((List.range 256).filter fun k => k != g && s.flag (R.XFR_GROUP_A_VALID k) && s.reg (R.XFR_GROUP_A_DIE k) == die).map
    fun k => s.reg (R.XFR_GROUP_A_WINDOW k)).sum

/-- A group is in use: an op of it has slots, or a REDUCE request of it runs (R299). -/
def State.groupBusy (s : State) (g : Nat) : Bool :=
  s.xfr.slots.any (·.group == g) || s.xfr.flights.any fun r => r.wr.op == 0x10 && r.wr.group == g

/-- A write to a group's registers (R299). -/
def State.groupWrite (s : State) (addr value : Nat) : State × St :=
  let g := (addr - 0x30A000) / 64
  if addr < 0x30A000 ∨ 256 ≤ g ∨ (regRowAt addr).isNone then (s, .addrInvalid)
  else if s.groupBusy g then (s, .tableBusy)
  else if addr % 64 = 0 then
    let w := bitsOf value 49 41
    let die := bitsOf value 61 60
    if bitsOf value 57 56 = 3 ∨ 16 < bitsOf value 54 50 ∨ w = 0 ∨ 256 < w ∨ s.dies ≤ die
        ∨ (bitAt value 63 ∧ 2048 < s.dieWindow die g + w) then (s, .badParam)
    else (s.writeRw addr value, .ok)
  else (s.writeRw addr value, .ok)

/-- A write to a collective group's registers. -/
def execXfrGroupWrite (addr value : Nat) (s : State) : Host.Outcome State Fault Refusal :=
  .next (s.groupWrite addr value).1

end Sys2Proof.Machine
end

