-- ==== Sys2Proof/Machine/Crypto.lean ====
section
/-! DEFINITION. The cryptography chapter 14 names, on the integers of R378: SHA-512 (RFC 6234), RSASSA-PKCS1-v1_5 with
RSA-4096 (RFC 8017, R379), the key hash of R380, HKDF-SHA-512 (RFC 5869) and P-384 (R399, R400).  The standards'
constants come from outside the spec (log entry 14). -/

namespace Sys2Proof.Machine

/-! ### SHA-512 -/

/-- Round constants, first half. -/
def shaK1 : List Nat :=
  [0x428A2F98D728AE22, 0x7137449123EF65CD, 0xB5C0FBCFEC4D3B2F, 0xE9B5DBA58189DBBC,
   0x3956C25BF348B538, 0x59F111F1B605D019, 0x923F82A4AF194F9B, 0xAB1C5ED5DA6D8118,
   0xD807AA98A3030242, 0x12835B0145706FBE, 0x243185BE4EE4B28C, 0x550C7DC3D5FFB4E2,
   0x72BE5D74F27B896F, 0x80DEB1FE3B1696B1, 0x9BDC06A725C71235, 0xC19BF174CF692694,
   0xE49B69C19EF14AD2, 0xEFBE4786384F25E3, 0x0FC19DC68B8CD5B5, 0x240CA1CC77AC9C65,
   0x2DE92C6F592B0275, 0x4A7484AA6EA6E483, 0x5CB0A9DCBD41FBD4, 0x76F988DA831153B5,
   0x983E5152EE66DFAB, 0xA831C66D2DB43210, 0xB00327C898FB213F, 0xBF597FC7BEEF0EE4,
   0xC6E00BF33DA88FC2, 0xD5A79147930AA725, 0x06CA6351E003826F, 0x142929670A0E6E70,
   0x27B70A8546D22FFC, 0x2E1B21385C26C926, 0x4D2C6DFC5AC42AED, 0x53380D139D95B3DF,
   0x650A73548BAF63DE, 0x766A0ABB3C77B2A8, 0x81C2C92E47EDAEE6, 0x92722C851482353B]

/-- Round constants, second half. -/
def shaK2 : List Nat :=
  [0xA2BFE8A14CF10364, 0xA81A664BBC423001, 0xC24B8B70D0F89791, 0xC76C51A30654BE30,
   0xD192E819D6EF5218, 0xD69906245565A910, 0xF40E35855771202A, 0x106AA07032BBD1B8,
   0x19A4C116B8D2D0C8, 0x1E376C085141AB53, 0x2748774CDF8EEB99, 0x34B0BCB5E19B48A8,
   0x391C0CB3C5C95A63, 0x4ED8AA4AE3418ACB, 0x5B9CCA4F7763E373, 0x682E6FF3D6B2B8A3,
   0x748F82EE5DEFB2FC, 0x78A5636F43172F60, 0x84C87814A1F0AB72, 0x8CC702081A6439EC,
   0x90BEFFFA23631E28, 0xA4506CEBDE82BDE9, 0xBEF9A3F7B2C67915, 0xC67178F2E372532B,
   0xCA273ECEEA26619C, 0xD186B8C721C0C207, 0xEADA7DD6CDE0EB1E, 0xF57D4F7FEE6ED178,
   0x06F067AA72176FBA, 0x0A637DC5A2C898A6, 0x113F9804BEF90DAE, 0x1B710B35131C471B,
   0x28DB77F523047D84, 0x32CAAB7B40C72493, 0x3C9EBE0A15C9BEBC, 0x431D67C49C100D4C,
   0x4CC5D4BECB3E42B6, 0x597F299CFC657E2A, 0x5FCB6FAB3AD6FAEC, 0x6C44198C4A475817]

/-- Initial chaining values. -/
def shaInit : List Nat :=
  [0x6A09E667F3BCC908, 0xBB67AE8584CAA73B, 0x3C6EF372FE94F82B, 0xA54FF53A5F1D36F1,
   0x510E527FADE682D1, 0x9B05688C2B3E6C1F, 0x1F83D9ABFB41BD6B, 0x5BE0CD19137E2179]

/-- A 64-bit rotation right. -/
def ror64 (x n : Nat) : Nat := x / 2 ^ n + x % 2 ^ n * 2 ^ (64 - n)

/-- Exclusive or of three words. -/
def xor3 (a b c : Nat) : Nat := Nat.xor (Nat.xor a b) c

/-- The next word of the message schedule from the last sixteen, oldest first. -/
def shaNext (w : List Nat) : Nat :=
  let a := w.getD 1 0
  let b := w.getD 14 0
  let s0 := xor3 (ror64 a 1) (ror64 a 8) (a / 2 ^ 7)
  let s1 := xor3 (ror64 b 19) (ror64 b 61) (b / 2 ^ 6)
  (w.getD 0 0 + s0 + w.getD 9 0 + s1) % 2 ^ 64

/-- One round on the eight working words. -/
def shaRound (v : List Nat) (k w : Nat) : List Nat :=
  match v with
  | [a, b, c, d, e, f, g, h] =>
    let s1 := xor3 (ror64 e 14) (ror64 e 18) (ror64 e 41)
    let ch := Nat.xor (Nat.land e f) (Nat.land (2 ^ 64 - 1 - e) g)
    let t1 := h + s1 + ch + k + w
    let s0 := xor3 (ror64 a 28) (ror64 a 34) (ror64 a 39)
    let maj := xor3 (Nat.land a b) (Nat.land a c) (Nat.land b c)
    [(t1 + s0 + maj) % 2 ^ 64, a, b, c, (d + t1) % 2 ^ 64, e, f, g]
  | v => v

/-- The rounds of one block over the window of the last sixteen schedule words. -/
def shaRounds : List Nat → List Nat → List Nat → List Nat
  | [], v, _ => v
  | k :: ks, v, w => shaRounds ks (shaRound v k (w.getD 0 0)) (w.drop 1 ++ [shaNext w])

/-- A big-endian number of octets. -/
def beNat (bs : List Byte) : Nat := bs.foldl (fun a b => a * 256 + b.toNat) 0

/-- `n` octets of a number, most significant first. -/
def beBytes (n v : Nat) : List Byte := (List.range n).map fun i => BitVec.ofNat 8 (v / 256 ^ (n - 1 - i))

/-- One block absorbed. -/
def shaBlock (h : List Nat) (block : List Byte) : List Nat :=
  let w := (List.range 16).map fun i => beNat ((block.drop (8 * i)).take 8)
  (h.zip (shaRounds (shaK1 ++ shaK2) h w)).map fun p => (p.1 + p.2) % 2 ^ 64

/-- A message padded to whole blocks. -/
def shaPad (bs : List Byte) : List Byte :=
  bs ++ [0x80] ++ List.replicate ((239 - bs.length % 128) % 128) 0 ++ beBytes 16 (8 * bs.length)

/-- Blocks absorbed in order. -/
def shaBlocks : Nat → List Nat → List Byte → List Nat
  | 0, h, _ => h
  | n + 1, h, bs => shaBlocks n (shaBlock h (bs.take 128)) (bs.drop 128)

/-- SHA-512 as an integer (R378). -/
def sha512 (bs : List Byte) : Nat :=
  let p := shaPad bs
  (shaBlocks (p.length / 128) shaInit p).foldl (fun a w => a * 2 ^ 64 + w) 0

/-- A digest in stored (little-endian) octets. -/
def digestBytes (d : Nat) : List Byte := toBytes 64 d

/-! ### HMAC and HKDF -/

/-- HMAC-SHA-512 in octets. -/
def hmac (key msg : List Byte) : List Byte :=
  let k := if 128 < key.length then beBytes 64 (sha512 key) else key
  let k := k ++ List.replicate (128 - k.length) 0
  beBytes 64 (sha512 (k.map (· ^^^ 0x5C) ++ beBytes 64 (sha512 (k.map (· ^^^ 0x36) ++ msg))))

/-- HKDF-SHA-512: 72 octets (R400). -/
def hkdf72 (salt ikm info : List Byte) : List Byte :=
  let prk := hmac salt ikm
  let t1 := hmac prk (info ++ [1])
  (t1 ++ hmac prk (t1 ++ info ++ [2])).take 72

/-! ### RSA -/

/-- Modular power by squaring, one exponent bit a step. -/
def powMod (n : Nat) : Nat → Nat → Nat → Nat → Nat
  | 0, _, _, acc => acc
  | k + 1, b, e, acc => powMod n k (b * b % n) (e / 2) (if e % 2 = 1 then acc * b % n else acc)

/-- The DigestInfo header of SHA-512. -/
def digestInfo : Nat := 0x3051300D060960864801650304020305000440

/-- The encoded message of RFC 8017 for a digest, 512 octets. -/
def emsa (digest : Nat) : Nat :=
  -- 00 01 FF .. FF 00, DigestInfo (19 octets), digest (64 octets)
  (2 * 256 ^ 426 - 1) * 256 ^ 84 + digestInfo * 256 ^ 64 + digest

/-- A modulus R379 allows: 4,096 bits, odd. -/
def rsaKeyOk (n : Nat) : Bool := decide (2 ^ 4095 ≤ n ∧ n < 2 ^ 4096) && n % 2 == 1

/-- A signature over bytes verifies under a modulus (R379). -/
def rsaVerify (n sig : Nat) (bs : List Byte) : Bool :=
  rsaKeyOk n && decide (sig < n) && powMod n 17 sig 65537 1 == emsa (sha512 bs)

/-- The signature over bytes by a private key in CRT form (R379, R381). -/
def CrtKey.sign (k : CrtKey) (bs : List Byte) : Nat :=
  let m := emsa (sha512 bs)
  let m1 := powMod k.p 2048 m k.dP 1
  let m2 := powMod k.q 2048 m k.dQ 1
  m2 + k.q * (k.qInv * (m1 + k.p - m2 % k.p) % k.p)

/-- DER SubjectPublicKeyInfo of an RSA-4096 key with exponent 65,537 (R380). -/
def spki (n : Nat) : List Byte :=
  [0x30, 0x82, 0x02, 0x22, 0x30, 0x0D, 0x06, 0x09, 0x2A, 0x86, 0x48, 0x86, 0xF7, 0x0D, 0x01, 0x01, 0x01, 0x05, 0x00,
   0x03, 0x82, 0x02, 0x0F, 0x00, 0x30, 0x82, 0x02, 0x0A, 0x02, 0x82, 0x02, 0x01, 0x00]
    ++ beBytes 512 n ++ [0x02, 0x03, 0x01, 0x00, 0x01]

/-- The hash of a public key (R380). -/
def keyHash (n : Nat) : Nat := sha512 (spki n)

/-- A certificate is signed by another: signature and name chaining (R383), between keys of the exponent R379 allows. -/
def Cert.signedBy (c ca : Cert) : Bool :=
  decide (c.exponent = 65537) && decide (ca.exponent = 65537) && rsaVerify ca.modulus c.sig c.tbs && decide (c.issuer = ca.subject)

/-! ### P-384 -/

/-- The field prime. -/
def p384 : Nat := 0xfffffffffffffffffffffffffffffffffffffffffffffffffffffffffffffffeffffffff0000000000000000ffffffff
/-- The group order. -/
def n384 : Nat := 0xffffffffffffffffffffffffffffffffffffffffffffffffc7634d81f4372ddf581a0db248b0a77aecec196accc52973
/-- The curve's b; a is -3. -/
def b384 : Nat := 0xb3312fa7e23ee7e4988e056be3f82d19181d9c6efe8141120314088f5013875ac656398d8a2ed19d2a85c8edd3ec2aef
/-- The base point. -/
def g384 : Nat × Nat :=
  (0xaa87ca22be8b05378eb1c71ef320ad746e1d3b628ba79b9859f741e082542a385502f25dbf55296c3a545e3872760ab7,
   0x3617de4a96262c6f5d9e98bf9292dc29f8f41dbd289a147ce9da3113b5f0b8c00a60b1ce1d7e819d7a431d7c90ea0e5f)

/-- A point lies on the curve. -/
def onCurve (x y : Nat) : Bool :=
  decide (x < p384 ∧ y < p384) && (y * y) % p384 == (x * x * x + (p384 - 3) * x + b384) % p384

/-- The inverse of a field element. -/
def invP (x : Nat) : Nat := powMod p384 384 x (p384 - 2) 1

/-- Addition of affine points; none is the point at infinity. -/
def ecAdd (a b : Option (Nat × Nat)) : Option (Nat × Nat) :=
  match a, b with
  | none, b => b
  | a, none => a
  | some (x1, y1), some (x2, y2) =>
    if x1 = x2 ∧ (y1 + y2) % p384 = 0 then none
    else
      let l := if x1 = x2 then (3 * x1 * x1 + p384 - 3) * invP (2 * y1 % p384) % p384
        else (y2 + p384 - y1) * invP ((x2 + p384 - x1) % p384) % p384
      let x := (l * l + 2 * p384 - x1 - x2) % p384
      some (x, (l * (x1 + p384 - x) + p384 - y1) % p384)

/-- Scalar multiplication, one bit of the scalar a step. -/
def ecMul : Nat → Nat → Option (Nat × Nat) → Option (Nat × Nat) → Option (Nat × Nat)
  | 0, _, _, acc => acc
  | n + 1, k, p, acc => ecMul n (k / 2) (ecAdd p p) (if k % 2 = 1 then ecAdd acc p else acc)

/-- The public point of a private key. -/
def ecPublic (d : Nat) : Nat × Nat := (ecMul 384 d (some g384) none).getD (0, 0)

/-- The shared x-coordinate. -/
def ecShared (d x y : Nat) : Nat := ((ecMul 384 d (some (x, y)) none).getD (0, 0)).1

end Sys2Proof.Machine
end

