-- ==== Sys2Proof/Machine/Link.lean ====
section
/-! DEFINITION. Links (sections 9.1, 9.3, 9.10 and 14.6): port configuration, training, the handshake and its key
agreement, link-level retry and credits, loss of a link, key changes. -/

namespace Sys2Proof.Machine

/-- A link carries frames: UP or DRAINING. -/
def Link.carries (l : Link) : Bool := decide (l.state = .up ∨ l.state = .draining)

/-! ### HELLO -/

/-- The node's own IDENTITY_TAG (R380). -/
def State.ownTag (s : State) : Nat := keyHash s.sec.identityN % 2 ^ 64

/-- The node offers encryption on a port (Table 9.7). -/
def State.offers (s : State) (port : Nat) : Bool := s.flag R.CAP_FEATURES_LINK_CRYPT && s.reg (R.FAB_PORT_CFG_CRYPT port) != 0

/-- The node's HELLO on a link, without its key agreement part (Table 9.7). This release supports link protocol version
LINK_PROTO alone (R238). -/
def State.ownHello (s : State) (l : LinkId) : Hello :=
  let p := s.linkPort l
  { protoMax := s.reg R.PHS_VERSIONS_LINK_PROTO, protoMin := s.reg R.PHS_VERSIONS_LINK_PROTO,
    fwGeneration := s.reg R.PHS_VERSIONS_FW_GENERATION, port := p, nodeNumber := s.node,
    nodeValid := s.flag R.CAP_NODE_NODE_VALID, transitOnly := s.transitOnly, cryptOffer := s.offers p,
    cryptRequire := s.reg (R.FAB_PORT_CFG_CRYPT p) == 2, domainId := s.reg R.FAB_DOMAIN_DOMAIN_ID,
    identityTag := s.ownTag, part := s.reg R.CAP_ID_PART, agree := none }

/-- HELLO bytes 0x00 to 0x1F (Table 9.7). -/
def Hello.head (h : Hello) : List Byte :=
  toBytes 8 (h.protoMax * 2 ^ 56 + h.protoMin * 2 ^ 48 + h.fwGeneration * 2 ^ 32 + h.port * 2 ^ 16 + h.nodeNumber)
    ++ toBytes 8 (bit h.nodeValid * 2 ^ 63 + bit h.transitOnly * 2 ^ 61 + bit h.cryptOffer * 2 ^ 60
      + bit h.cryptRequire * 2 ^ 59 + h.domainId)
    ++ toBytes 8 h.identityTag ++ toBytes 8 h.part

/-- HELLO bytes 0x000 to 0x087 (Tables 9.7 and 14.6). -/
def Hello.signedBytes (h : Hello) (k : KeyAgreement) : List Byte :=
  h.head ++ toBytes 8 (k.kaVersion * 2 ^ 56 + k.cert.der.length * 2 ^ 32 + k.keyCount * 2 ^ 24)
    ++ toBytes 48 k.ephX ++ toBytes 48 k.ephY

/-- A fresh ephemeral key and the signed key agreement part for a HELLO (R399); none without the identity key. -/
def State.newAgreement (s : State) (h : Hello) (keyCount : Nat) : Option (Nat × KeyAgreement) × State :=
  match s.sec.identityKey, s.sec.certs[0]? with
  | some d, some cert =>
    let priv := 1 + Config.ephemeral s.fresh % (n384 - 1)
    let e := ecPublic priv
    let k : KeyAgreement := ⟨1, keyCount, e.1, e.2, s.sec.identityN, 0, cert⟩
    (some (priv, { k with signature := d.sign (h.signedBytes k) }), s.setFresh (s.fresh + 1))
  | _, _ => (none, s)

/-- The key agreement part of a peer's HELLO passes R399. -/
def State.agreementOk (s : State) (h : Hello) (k : KeyAgreement) : Bool :=
  !s.sec.withdrawn.contains 1 && (s.sec.certs[1]?).any (fun ca => k.cert.signedBy ca) && k.kaVersion == 1 && k.cert.der.length ≤ 2048
    && k.cert.modulus == k.identityKey && keyHash k.identityKey % 2 ^ 64 == h.identityTag
    && rsaVerify k.identityKey k.signature (h.signedBytes k) && onCurve k.ephX k.ephY && h.identityTag != s.ownTag

/-- The keys of R400: sent and received frames' key and IV salt at this node. -/
def linkKeys (priv ownTag peerTag keyCount x y : Nat) : Nat × Nat × Nat × Nat :=
  let low := min ownTag peerTag
  let high := max ownTag peerTag
  let out := hkdf72 (toBytes 8 low ++ toBytes 8 high) (beBytes 48 (ecShared priv x y))
    ([0x6D, 0x69, 0x61, 0x72, 0x64, 0x20, 0x6C, 0x69, 0x6E, 0x6B] ++ [BitVec.ofNat 8 keyCount])
  let kLow := beNat (out.take 32)
  let kHigh := beNat ((out.drop 32).take 32)
  let sLow := beNat ((out.drop 64).take 4)
  let sHigh := beNat ((out.drop 68).take 4)
  if ownTag < peerTag then (kLow, sLow, kHigh, sHigh) else (kHigh, sHigh, kLow, sLow)

/-- The link's HELLO as it is sent: with the key agreement part once there is one. -/
def State.helloNow (s : State) (l : Link) : Hello := { s.ownHello l.id with agree := l.eph.map (·.2) }

/-- The node takes part in handshakes: not in RECOVERY, which has no part in the fabric beyond link training (R357). -/
def State.shakes (s : State) : Bool := decide (s.bld.node ≠ .recovery)

/-- A HELLO sent on a link. -/
def State.sendHello (s : State) (l : Link) : State := if s.shakes then s.sendControl l 3 0 (.hello (s.helloNow l)) else s

/-! ### Link states (Table 9.6) -/

/-- A link fresh in a state. -/
def freshLink (id : LinkId) (st : LinkState) : Link :=
  { id := id, state := st, txSeq := 0, rxSeq := 0, replay := [], queue := [], credits := [0, 0, 0, 0], lanes := 0,
    peer := none, proto := 0, eph := none, crypt := none }

/-- PORT of form L. -/
def LinkId.evt : LinkId → Nat
  | .port p => p
  | .virt i => 0x100 + i

/-- A link event posted (form L). -/
def State.postLink (s : State) (e : Ev) (l : Link) (reason : Nat) : State :=
  s.post e 0xFFF (formL .ok ((l.peer.map (·.nodeNumber)).getD 0) reason (s.reg (R.FAB_PORT_STATUS_LANES_UP (s.linkPort l.id)))
    l.id.evt ((l.peer.map (·.identityTag)).getD 0))

/-- Frames of a link that went DOWN: sprayed frames go out again on other ports, the rest are discarded (R240). -/
def State.reroute (s : State) (die : Nat) : List Frame → State
  | [] => s
  | f :: fs => (if f.body.cls = .sprayed then s.forwardAt die f else s).reroute die fs

/-- A link goes DOWN (R239, R240). -/
def State.linkDown (s : State) (l : Link) : State :=
  let frames := l.replay.map (·.frame) ++ l.queue
  let s := s.putLink { freshLink l.id .down with peer := l.peer }
  let s := if l.state = .up then s.postLink .linkDown l 0 else s
  s.reroute (s.linkPort l.id / 4) frames

/-- A link fails its handshake with an event. -/
def State.linkFail (s : State) (l : Link) (e : Ev) (reason : Nat) : State :=
  (s.putLink { l with
    state := .failed
    eph := none }).postLink e l reason

/-- The links of a port, its own among them. -/
def State.portLinks (s : State) (port : Nat) : List Link := s.fab.links.filter fun l => s.linkPort l.id == port

/-- Links taken DOWN. -/
def State.linksDown (s : State) : List Link → State
  | [] => s
  | l :: ls => (s.linkDown ((s.link? l.id).getD l)).linksDown ls

/-- Virtual links FAB_PEER configures on a port. -/
def State.peersOf (s : State) (port : Nat) : List Nat :=
  (List.range 256).filter fun i => s.flag (R.FAB_PEER_VALID i) && s.reg (R.FAB_PEER_PORT i) == port

/-- A port's links put in TRAINING: its own, and in switched mode every configured virtual link. -/
def State.trainPort (s : State) (port : Nat) : State :=
  let ids := LinkId.port port :: (if s.reg (R.FAB_PORT_CFG_MODE port) = 1 then (s.peersOf port).map .virt else [])
  ids.foldl (fun s i => s.putLink (freshLink i .training)) s

/-- A port's links removed: it is DISABLED. -/
def State.disablePort (s : State) (port : Nat) : State :=
  let s := s.linksDown ((s.portLinks port).filter fun l => decide (l.state = .up ∨ l.state = .draining))
  (s.onFab fun f => { f with links := f.links.filter fun l => s.linkPort l.id != port }).setReg
    (R.FAB_PORT_STATUS_LANES_UP port) 0

/-- UP links of a port begin to drain (Table 9.6). -/
def State.drainPort (s : State) (port : Nat) : State :=
  ((s.portLinks port).filter fun l => decide (l.state = .up)).foldl (fun s l =>
    (s.putLink { l with state := .draining }).postLink .linkDown l 0) s

/-- A port reconfigured: FAILED links of it start their handshake again. -/
def State.retryFailed (s : State) (port : Nat) : State :=
  ((s.portLinks port).filter fun l => decide (l.state = .failed)).foldl (fun s l =>
    s.putLink { freshLink l.id .handshake with peer := l.peer }) s

/-- A write to FAB_PORT_CFG (R232, R233, R237, R269). -/
def State.portCfgWrite (s : State) (port value : Nat) : State × St :=
  let mode := bitsOf value 1 0
  let crypt := bitsOf value 7 6
  if s.ports ≤ port then (s, .ok)
  else if crypt ≠ 0 ∧ !s.flag R.CAP_FEATURES_LINK_CRYPT then (s, .unitAbsent)
  else if mode = 3 ∨ crypt = 3 then (s, .badParam)
  else
    let old := s.reg (R.FAB_PORT_CFG_MODE port)
    let s := s.writeRw (R.FAB_PORT_CFG_MODE port).reg value
    if mode = 2 then (s.disablePort port, .ok)
    else if old ≠ mode then ((s.disablePort port).trainPort port, .ok)
    else if bitAt value 3 then ((s.retryFailed port).drainPort port, .ok)
    else (s.retryFailed port, .ok)

/-- A write to FAB_PORT_CFG. -/
def execFabPortCfgWrite (port value : Nat) (s : State) : Host.Outcome State Fault Refusal :=
  .next (s.portCfgWrite port value).1

/-- A lane of a port from `lo` to `lo + 3` is kept out of service as defective (R359); port 0xFF is the host port. -/
def State.laneBad (s : State) (port lo : Nat) : Bool :=
  (s.bld.defects ++ s.bld.cleared).any fun d =>
    decide (d.kind = .serdesLane) && d.unit == port && lo ≤ d.sub && d.sub < lo + 4

/-- A link's PHY is up: HANDSHAKE, with its lanes shown. A port with defective lanes trains on the other 4 (R359); with none
of both halves it does not train. A direct port that cannot train on all 8 lanes posts LINK_DEGRADED (R233). -/
def State.trained (s : State) (l : Link) : State :=
  let p := s.linkPort l.id
  let low := s.laneBad p 0
  let high := s.laneBad p 4
  if low && high || !s.pcr.ref156 then s
  else
    let s := s.setReg (R.FAB_PORT_STATUS_LANES_UP p)
      (if low then 0xF0 else if high then 0x0F else if l.lanes ≠ 0 then l.lanes
        else if s.flag (R.FAB_PORT_CFG_LANES4 p) then 0x0F else 0xFF)
    let s := if l.lanes ≠ 0 ∨ ((low || high) ∧ s.reg (R.FAB_PORT_CFG_MODE p) = 0) then s.postLink .linkDegraded l 0 else s
    s.putLink (freshLink l.id .handshake)

/-- The PHY comes up with FEC locked; on a switched port every virtual link shares its training (R237). -/
def execLinkTrained (link : LinkId) (s : State) : Host.Outcome State Fault Refusal :=
  let ls : List Link := match link with
    | .port p => (s.portLinks p).filter fun l => decide (l.state = .training)
    | .virt _ => ((s.link? link).filter fun l => decide (l.state = .training)).toList
  .next (ls.foldl State.trained s)

/-- A direct port that cannot train on 8 lanes retrains on lanes 0 to 3, or failing that on lanes 4 to 7 (R233). -/
def execLaneTrainFail (port : Nat) (s : State) : Host.Outcome State Fault Refusal :=
  match s.link? (.port port) with
  | none => .next s
  | some l =>
    if l.state = .training ∧ s.reg (R.FAB_PORT_CFG_MODE port) = 0 ∧ s.flag (R.FAB_PORT_CFG_AUTO_DEGRADE port) then
      .next (s.putLink { l with lanes := if l.lanes = 0 then 0x0F else if l.lanes = 0x0F then 0xF0 else 0 })
    else .next s

/-! ### The handshake (R238) -/

/-- Checks 1 to 4 of Table 9.8: the event and reason of the first that fails. -/
def Hello.check (own h : Hello) : Option (Ev × Nat) :=
  if own.fwGeneration + 1 < h.fwGeneration ∨ h.fwGeneration + 1 < own.fwGeneration then some (.linkVersionSkew, 0)
  else if min own.protoMax h.protoMax < max own.protoMin h.protoMin then some (.linkVersionSkew, 0)
  else if own.domainId ≠ h.domainId ∧ own.domainId ≠ 0 ∧ h.domainId ≠ 0 then some (.linkFailed, 1)
  else if own.nodeValid ∧ h.nodeValid ∧ own.nodeNumber = h.nodeNumber then some (.nodeNumberConflict, 0)
  else none

/-- Check 6: the peer of a virtual link is the configured one. -/
def State.peerBad (s : State) (l : LinkId) (h : Hello) : Bool :=
  match l with
  | .port _ => false
  | .virt i => h.nodeNumber != s.reg (R.FAB_PEER_NODE i)

/-- The next port a SERDES activation retrains: one at a time, those with no UP link passed over (Table 13.4). -/
def State.serdesNext (s : State) : List Nat → State
  | [] => s.onBld fun b => { b with serdesLeft := [] }
  | p :: ps =>
    if (s.portLinks p).any fun l => decide (l.state = .up) then (s.onBld fun b => { b with serdesLeft := p :: ps }).drainPort p
    else s.serdesNext ps

/-- A port is back after a SERDES retraining: the next one follows. -/
def State.serdesBack (s : State) (port : Nat) : State :=
  match s.bld.serdesLeft with
  | p :: ps => if p = port then s.serdesNext ps else s
  | [] => s

/-- A handshake passed: the link is UP, with the keys of its key agreement; with DRAIN = 1 it goes on to DRAINING (Table 9.6). -/
def State.linkUp (s : State) (l : Link) (own h : Hello) (crypt : Option LinkCrypt) : State :=
  let l := { freshLink l.id .up with
    peer := some h
    proto := min own.protoMax h.protoMax
    credits := [Config.rxBuffer 0, Config.rxBuffer 1, Config.rxBuffer 2, Config.rxBuffer 3]
    crypt := crypt }
  let t := ((s.putLink l).postLink .linkUp l 0).serdesBack (s.linkPort l.id)
  if s.flag (R.FAB_PORT_CFG_DRAIN (s.linkPort l.id)) then t.drainPort (s.linkPort l.id) else t

/-- The last checks of a handshake: 5 already decided, then 6. -/
def State.finishHandshake (s : State) (l : Link) (own h : Hello) (crypt : Option LinkCrypt) : State :=
  if s.peerBad l.id h then s.linkFail l .linkFailed 3 else s.linkUp l own h crypt

/-- A peer's HELLO in HANDSHAKE (R238, R399, R400). Where both ends offer encryption, the link waits for the peer's key
agreement part and sends its own. -/
def State.handshake (s : State) (l : Link) (h : Hello) : State :=
  let own := s.ownHello l.id
  let l := { l with peer := some h }
  match own.check h with
  | some (e, r) => s.linkFail l e r
  | none =>
    if (own.cryptRequire && !h.cryptOffer) || (h.cryptRequire && !own.cryptOffer) then s.linkFail l .linkFailed 2
    else if own.cryptOffer && h.cryptOffer then
      let (eph, s) := match l.eph with
        | some e => (some e, s)
        | none => s.newAgreement own 0
      match eph with
      | none => s.linkFail l .linkFailed 2
      | some (priv, k) =>
        let fresh := l.eph.isNone
        let l := { l with eph := some (priv, k) }
        let s := if fresh then s.sendHello l else s
        match h.agree with
        | none => s.putLink l
        | some pk =>
          if !s.agreementOk h pk then s.linkFail l .linkFailed 2
          else
            let ks := linkKeys priv own.identityTag h.identityTag 0 pk.ephX pk.ephY
            s.finishHandshake l own h (some ⟨ks.1, ks.2.2.1, ks.2.1, ks.2.2.2, 0, 0, 0, s.tick, none, none⟩)
    else s.finishHandshake l own h none

/-! ### Frames received on a link (R234, R235) -/

/-- Bytes received on a port are counted, and the codewords FEC corrected in them, of which the spec states no number (log entry 95). -/
def State.countRx (s : State) (port bytes : Nat) : State :=
  ((s.count (R.FAB_PORT_RX_BYTES port) bytes).count (R.FAB_PORT_ERR_FEC_CORRECTED port) (Config.unstated s.fresh % 2 ^ 32)).next.2

/-- The receiver answers with LNACK naming the expected LSEQ (R239). -/
def State.sendLnack (s : State) (l : Link) : State := s.sendControl l 3 0 .lnack

/-- A frame has the layout of Table 9.2 on this link: the fabric's EtherType, the length limit, a DA, and an 802.1Q tag of the VLAN
where the link's frames carry one (R234). -/
def State.layoutOk (s : State) (l : LinkId) (hop : HopPart) (da : Nat) : Bool :=
  hop.eth.etherType == s.reg R.FAB_CTRL_ETHERTYPE && hop.length ≤ 4182 && hop.eth.da == da
    && (match hop.eth.tag with
      | some t => s.tagged l && t % 2 ^ 12 == s.reg R.FAB_VLAN_VID
      | none => !s.tagged l)

/-- A link-control frame arrives: whether it is taken, and the state with what is counted and answered of one that is not (R234, R235,
R239). -/
def State.controlIn (s : State) (l : Link) (hop : HopPart) (type : Nat) : Bool × State :=
  let p := s.linkPort l.id
  let s := s.countRx p hop.length
  if !hop.fcsOk then
    let s := s.bump (R.FAB_PORT_ERR_UNCORRECTED p)
    (false, if l.carries then s.sendLnack l else s)
  else if !s.layoutOk l.id hop s.linkLocalMac then (false, s)
  else if hop.proto ≠ s.controlProto l ∨ hop.kind ≠ 1 ∨ hop.type ≠ type then (false, s.bump (R.FAB_DIE_STATS_UNKNOWN_DROPS (p / 4)))
  else (true, s)

/-- A peer's HELLO on a link in HANDSHAKE. -/
def execHello (link : LinkId) (f : HelloFrame) (s : State) : Host.Outcome State Fault Refusal :=
  match s.link? link with
  | some l =>
    if l.state = .handshake ∧ s.shakes then
      let (taken, t) := s.controlIn l f.hop 0x60
      .next (if taken then t.handshake l f.hello else t)
    else .next s
  | none => .next s

/-- A HELLO is sent every HELLO_US in HANDSHAKE. -/
def execHelloSendTimer (link : LinkId) (s : State) : Host.Outcome State Fault Refusal :=
  match s.link? link with
  | some l => if l.state = .handshake then .next (s.sendHello l) else .next s
  | none => .next s

/-- No HELLO for 1 ms: TRAINING. -/
def execHelloLossTimeout (link : LinkId) (s : State) : Host.Outcome State Fault Refusal :=
  match s.link? link with
  | some l => if l.state = .handshake then .next (s.putLink (freshLink link .training)) else .next s
  | none => .next s

/-- After 1 ms in DOWN, with DRAIN = 0, the link trains again; the lanes are the port's own, which a virtual link shares. -/
def execLinkDownRetrainExpiry (link : LinkId) (s : State) : Host.Outcome State Fault Refusal :=
  match s.link? link with
  | some l =>
    if l.state = .down ∧ !s.flag (R.FAB_PORT_CFG_DRAIN (s.linkPort link)) ∧ s.pcr.ref156 then
      let t := s.putLink (freshLink link .training)
      match link with
      | .port p => .next (t.setReg (R.FAB_PORT_STATUS_LANES_UP p) 0)
      | .virt _ => .next t
    else .next s
  | none => .next s

/-- A FAILED link starts its handshake again once the peer's HELLO content changes. -/
def execLinkFailedRecheck (link : LinkId) (h : Hello) (s : State) : Host.Outcome State Fault Refusal :=
  match s.link? link with
  | some l =>
    if l.state = .failed ∧ l.peer ≠ some h then .next (s.putLink { freshLink link .handshake with peer := some h })
    else .next s
  | none => .next s

/-- A DRAINING link with nothing queued or unacknowledged goes DOWN. -/
def execLinkDrained (link : LinkId) (s : State) : Host.Outcome State Fault Refusal :=
  match s.link? link with
  | some l =>
    if l.state = .draining ∧ l.queue = [] ∧ l.replay = [] then .next (s.linkDown l) else .next s
  | none => .next s

/-- A port's PHY loses signal or lock: its links beyond TRAINING go DOWN. -/
def execPortLockLoss (link : LinkId) (s : State) : Host.Outcome State Fault Refusal :=
  let beyond := fun (l : Link) => decide (l.state = .handshake ∨ l.state = .up ∨ l.state = .draining ∨ l.state = .failed)
  let ls : List Link := match link with
    | .port p => (s.portLinks p).filter beyond
    | .virt _ => ((s.link? link).filter beyond).toList
  .next (s.linksDown ls)

/-! ### Link-level retry and credits (R239, R241) -/

/-- Every frame below an LSEQ is off the replay buffer. -/
def Link.acked (l : Link) (upTo : Nat) : Link :=
  { l with replay := l.replay.filter fun r => (upTo + 4096 - r.lseq - 1) % 4096 ≥ 2048 }

/-- Returned credits taken (R241). CREDIT_CLASS has no code of its own for the buffers of frames that have taken their detour: credits
of the sprayed class fill those first (DESIGN CHOICE, log entry 94). -/
def Link.credit (l : Link) (cls n : Nat) : Link :=
  let detour := l.credits.getD 3 0
  let d := min n (Config.rxBuffer 3 - detour)
  if cls = 1 then { l with credits := (l.credits.set 3 (detour + d)).set 1 (l.credits.getD 1 0 + (n - d)) }
  else if cls < 3 then { l with credits := l.credits.set cls (l.credits.getD cls 0 + n) }
  else l

/-- The first waiting frame whose buffers have credits, with no earlier frame for them before it. -/
def nextSendable (credits : List Nat) : List Frame → List Nat → Option Frame
  | [], _ => none
  | f :: fs, seen =>
    if !seen.contains f.buf && f.units ≤ credits.getD f.buf 0 then some f else nextSendable credits fs (f.buf :: seen)

/-- Waiting frames sent while credits allow. -/
def State.pumpLink (s : State) (id : LinkId) : Nat → State
  | 0 => s
  | n + 1 =>
    match s.link? id with
    | none => s
    | some l =>
      match nextSendable l.credits l.queue [] with
      | none => s
      | some f => if l.spent then s else (s.linkPut { l with queue := dropFirst f l.queue } f).pumpLink id n

/-- Acknowledgement and credits of a link's reverse direction taken, as a hop part carries them. -/
def State.linkAck (s : State) (l : Link) (hop : Hop) : State :=
  let l := (l.acked hop.lack).credit hop.creditClass hop.credits
  (s.putLink l).pumpLink l.id l.queue.length

/-- Every frame of the replay buffer sent again from its stored form; once one has been replayed REPLAY_LIMIT times the link goes
DOWN; the limit is that of when it was first sent (R272). -/
def State.replayAll (s : State) (l : Link) : State :=
  let rs := l.replay.map fun r => { r with replays := r.replays + 1 }
  let s := s.count (R.FAB_PORT_ERR_REPLAYS (s.linkPort l.id)) rs.length
  let l := { l with replay := rs }
  let t := rs.foldl (fun s r => (s.count (R.FAB_PORT_TX_BYTES (s.linkPort l.id)) (s.linkBytes l r.frame)).emit
    (.frame l.id r.eth r.hop (l.crypt.map fun _ => r.counter) r.frame)) (s.putLink l)
  if rs.any fun r => r.limit ≤ r.replays then t.linkDown l else t

/-- The sender takes a LACK, with the credits it returns (R239, R241). -/
def execLack (link : LinkId) (hop : HopPart) (credits : Nat) (s : State) : Host.Outcome State Fault Refusal :=
  match s.link? link with
  | some l =>
    if l.carries then
      let (taken, t) := s.controlIn l hop 0x61
      .next (if taken then t.linkAck l { hop.toHop with credits := credits } else t)
    else .next s
  | none => .next s

/-- The sender takes an LNACK: what it acknowledges is free, and the frames from the LSEQ it names are replayed (R239). -/
def State.lnack (s : State) (l : Link) (hop : Hop) : State :=
  let t := s.linkAck l hop
  match t.link? l.id with
  | some l => if (l.acked hop.lack).replay = [] then t else t.replayAll l
  | none => t

/-- The sender takes an LNACK (R239). -/
def execLnack (link : LinkId) (hop : HopPart) (s : State) : Host.Outcome State Fault Refusal :=
  match s.link? link with
  | some l =>
    if l.carries then
      let (taken, t) := s.controlIn l hop 0x62
      .next (if taken then t.lnack l hop.toHop else t)
    else .next s
  | none => .next s

/-- LACK has not advanced for 2 µs: replay from the oldest frame. -/
def execLinkReplayExpiry (link : LinkId) (s : State) : Host.Outcome State Fault Refusal :=
  match s.link? link with
  | some l => if l.carries ∧ l.replay ≠ [] then .next (s.replayAll l) else .next s
  | none => .next s

/-- LACK has not advanced for LINK_TIMEOUT_US while frames wait: the link goes DOWN. -/
def execLinkTimeoutExpiry (link : LinkId) (s : State) : Host.Outcome State Fault Refusal :=
  match s.link? link with
  | some l => if l.carries ∧ (l.replay ≠ [] ∨ l.queue ≠ []) then .next (s.linkDown l) else .next s
  | none => .next s

/-- A management frame at this node: at its target it waits for its command; else its ingress port goes into RETURN at PATH_INDEX and it
goes out on its next port (R245). -/
def State.mgmtHop (s : State) (ingress : Nat) (f : Frame) : State :=
  match f.path[f.pathIndex]? with
  | none => s.onFab fun b => { b with arrived := b.arrived ++ [{ f with ingress := some ingress }] }
  | some p =>
    match s.link? (.port p) with
    | some l =>
      if l.state = .up ∧ s.reg (R.FAB_PORT_CFG_MODE p) = 0 ∧ f.pathIndex < 12 then
        s.linkSend l { f with
          ret := (f.ret ++ List.replicate 12 0).take f.pathIndex ++ [ingress]
          pathIndex := f.pathIndex + 1
          hops := f.hops + 1 }
      else s
    | none => s

/-- An accepted frame goes on: to its unit, or to the next hop. -/
def State.routeIn (s : State) (port : Nat) (f : Frame) : State :=
  match f.body.cls with
  | .management => s.mgmtHop port f
  | _ => s.forwardAt (port / 4) { f with hops := f.hops + 1 }

/-- A frame verified under the new key of a change: the old receive key is erased (R401). -/
def State.rxSwitch (s : State) (l : Link) (tagKey : Nat) : Link × State :=
  match l.crypt with
  | some k =>
    if tagKey = 2 then
      match k.nextRx with
      | some (key, salt) => ({ l with crypt := some { k with rxKey := key, rxSalt := salt, recvCtr := 1, nextRx := none } },
          s.bump R.SEC_STATS_REKEYS)
      | none => (l, s)
    else ({ l with crypt := some { k with recvCtr := k.recvCtr + 1 } }, s)
  | none => (l, s)

/-- The frame's encryption is not what the link uses, or its tag fails (R270). -/
def Link.authBad (l : Link) (hop : HopPart) : Bool :=
  match l.crypt with
  | none => hop.encrypted
  | some k => !hop.encrypted || hop.tagKey == 0 || 2 < hop.tagKey || (hop.tagKey == 2 && k.nextRx.isNone)

/-- A frame's CLASS and TYPE are codes the node implements, and the TYPE is one of the CLASS (R235): they are then those of its
operation part. -/
def HopPart.known (hop : HopPart) (f : Frame) : Bool := hop.cls == f.body.cls.code && hop.type == f.body.type

/-- A DATA frame on a link (R234, R235, R239, R241, R270). A frame of another layout is not accepted; one of a CLASS or TYPE the node
does not implement is dropped and counted once the link has taken it (DEDUCED, log entry 76). -/
def State.dataFrame (s : State) (l : Link) (hop : HopPart) (f : Frame) : State :=
  let p := s.linkPort l.id
  let s := s.countRx p hop.length
  if !hop.fcsOk then (s.bump (R.FAB_PORT_ERR_UNCORRECTED p)).sendLnack l
  else if !s.layoutOk l.id hop (s.daOf l.id s.node f) then s
  else if hop.proto ≠ l.proto ∨ hop.kind ≠ 0 then s.bump (R.FAB_DIE_STATS_UNKNOWN_DROPS (p / 4))
  else if l.authBad hop then (s.bump (R.FAB_PORT_ERR_AUTH p)).sendLnack l
  else if hop.lseq ≠ l.rxSeq then s.sendLnack l
  else
    let (l, s) := s.rxSwitch { l with rxSeq := (l.rxSeq + 1) % 4096 } hop.tagKey
    let s := (s.linkAck l hop.toHop).sendControl l f.body.cls.code f.units .lack
    if !hop.known f then s.bump (R.FAB_DIE_STATS_UNKNOWN_DROPS (p / 4))
    else if f.body.cls ≠ .management ∧ !(l.peer.any (·.nodeValid)) then s else s.routeIn p f

/-- A DATA frame arrives on a link. -/
def execDataFrameReceive (link : LinkId) (hop : HopPart) (f : Frame) (s : State) : Host.Outcome State Fault Refusal :=
  match s.link? link with
  | some l => if l.carries then .next (s.dataFrame l hop f) else .next s
  | none => .next s

/-! ### Key changes (R401) -/

/-- A node starts a key change: a HELLO with a fresh key and KEY_COUNT + 1. -/
def execRekeyStart (link : LinkId) (s : State) : Host.Outcome State Fault Refusal :=
  match s.link? link with
  | some l =>
    match l.state, l.crypt with
    | .up, some k =>
      let due := 2 ^ 47 ≤ k.sendCtr ∨ (s.reg R.SEC_APPROVAL_CFG_REKEY_TICKS ≠ 0
        ∧ k.since + s.reg R.SEC_APPROVAL_CFG_REKEY_TICKS ≤ s.tick)
      if due ∧ k.rekey.isNone then
        match s.newAgreement (s.ownHello link) ((k.keyCount + 1) % 256) with
        | (some e, s) =>
          let s := s.putLink { l with crypt := some { k with rekey := some e } }
          .next (s.sendControl l 3 0 (.hello { s.ownHello link with agree := some e.2 }))
        | (none, s) => .next s
      else .next s
    | _, _ => .next s
  | none => .next s

/-- A HELLO on an UP link of a key change at the right KEY_COUNT: the node answers with its own unless it has sent it,
and sends under the new key. -/
def State.rekey (s : State) (l : Link) (k : LinkCrypt) (h : Hello) (pk : KeyAgreement) : State :=
  let own := s.ownHello l.id
  let a := s.newAgreement own pk.keyCount
  let fresh := k.rekey.isNone
  let s := if fresh then a.2 else s
  match k.rekey.or a.1 with
  | none => s.linkDown l
  | some (priv, ka) =>
    let ks := linkKeys priv own.identityTag h.identityTag pk.keyCount pk.ephX pk.ephY
    let s := s.putLink { l with
      crypt := some ⟨ks.1, k.rxKey, ks.2.1, k.rxSalt, 0, k.recvCtr, pk.keyCount, s.tick, none, some ks.2.2⟩ }
    if fresh then s.sendControl l 3 0 (.hello { own with agree := some ka }) else s

/-- A HELLO taken on an UP link (R401). -/
def State.upHello (s : State) (l : Link) (h : Hello) : State :=
  if (l.peer.map fun p => { p with agree := none }) ≠ some { h with agree := none } then s.linkDown l
  else match l.crypt, h.agree with
    | some k, some pk =>
      if !s.agreementOk h pk then s.linkDown l
      else if pk.keyCount ≠ (k.keyCount + 1) % 256 then s
      else s.rekey l k h pk
    | some _, none => s.linkDown l
    | none, _ => s

/-- A HELLO received on an UP link. -/
def execRekeyHello (link : LinkId) (f : HelloFrame) (s : State) : Host.Outcome State Fault Refusal :=
  match s.link? link with
  | some l =>
    if l.state = .up then
      let (taken, t) := s.controlIn l f.hop 0x60
      .next (if taken then t.upHello l f.hello else t)
    else .next s
  | none => .next s

/-- A key change is incomplete, or could not be started, at 2^48 - 2^20 frames: the link goes DOWN and retrains (R270, R401). -/
def execRekeyDeadline (link : LinkId) (s : State) : Host.Outcome State Fault Refusal :=
  match s.link? link with
  | some l => if l.carries ∧ l.spent then .next (s.linkDown l) else .next s
  | none => .next s

/-! ### Virtual links and link-wide registers (R272) -/

/-- A write to FAB_PEER (R272). -/
def State.peerWrite (s : State) (i value : Nat) : State × St :=
  if 256 ≤ i then (s, .addrInvalid)
  else if s.linkState (.virt i) = .up then (s, .tableBusy)
  else
    let s := s.onFab fun f => { f with links := f.links.filter fun l => decide (l.id ≠ .virt i) }
    let s := s.writeRw (R.FAB_PEER_VALID i).reg value
    let p := s.reg (R.FAB_PEER_PORT i)
    if s.flag (R.FAB_PEER_VALID i) && s.reg (R.FAB_PORT_CFG_MODE p) == 1 then
      let st := match s.linkState (.port p) with
        | .disabled => LinkState.disabled
        | .training => .training
        | .down => .down
        | _ => .handshake
      (s.putLink (freshLink (.virt i) st), .ok)
    else (s, .ok)

/-- A write to FAB_PEER. -/
def execFabPeerWrite (i value : Nat) (s : State) : Host.Outcome State Fault Refusal := .next (s.peerWrite i value).1

/-- A write to FAB_CTRL is refused unless every port is DISABLED (R272). -/
def State.fabCtrlWrite (s : State) (value : Nat) : State × St :=
  if (List.range s.ports).any fun p => decide (s.linkState (.port p) ≠ .disabled) then (s, .tableBusy)
  else (s.writeRw 0x280000 value, .ok)

/-- A write to FAB_CTRL. -/
def execFabCtrlWrite (value : Nat) (s : State) : Host.Outcome State Fault Refusal := .next (s.fabCtrlWrite value).1

/-- A write to FAB_TIMEOUT: REMOTE_US from 10 to 2,000 (R266). -/
def State.fabTimeoutWrite (s : State) (value : Nat) : State × St :=
  let r := bitsOf value 63 48
  if r < 10 ∨ 2000 < r then (s, .badParam) else (s.writeRw 0x280018 value, .ok)

/-- A write to FAB_TIMEOUT. -/
def execFabTimeoutWrite (value : Nat) (s : State) : Host.Outcome State Fault Refusal := .next (s.fabTimeoutWrite value).1

end Sys2Proof.Machine
end

