-- ==== Sys2Proof/Machine/RseOps.lean ====
section
/-! DEFINITION. Operations the rows of chapter 2 share: replies and notices, copies of records, the home's changes and
their mirror writes (R33 to R37, R439), final records (R67, R70), the loss of an owner (R61 to R63). -/

namespace Sys2Proof.Machine

/-! ### Replies and notices (R325, R338) -/

/-- The reply to an executing host request: cached and sent (R325). -/
def State.hostReply (s : State) (ref : Nat) (st : St) (payload : List Byte) : State :=
  match s.hcp.exec.find? (·.ref == ref) with
  | none => s
  | some e =>
    let r : Reply := ⟨e.key, e.opcode, e.version, e.tenant, st, payload, e.srcPort⟩
    let c : CachedReply := ⟨r, s.aon + 1000 * s.reg R.HCP_PRAYR_REPLY_HOLD_MS⟩
    (s.onHcp fun h => { h with
      exec := h.exec.filter (·.ref != ref)
      cache := h.cache.drop (h.cache.length + 1 - 65536) ++ [c] }).hostSend 0 (.reply r)

/-- The outcome of a request-state command, to the host here or to the node that forwarded it (R68, R330). -/
def State.replyTo (s : State) (r : ReplyTo) (st : St) (payload : List Byte) : State :=
  match r with
  | .here ref => s.hostReply ref st payload
  | .node n ref => if n = s.node then s.hostReply ref st payload else s.sendMsg n (.commandReply ref st payload)

/-- The payload of a CANCEL reply: FINAL_STATUS and GEN_COMMITTED (Table 12.3). -/
def cancelPayload (st : St) (gen : Nat) : List Byte := toBytes 4 st.code ++ toBytes 4 gen

/-- The payload of a PAUSE reply: GEN_COMMITTED. -/
def genPayload (gen : Nat) : List Byte := toBytes 8 gen

/-- A NOTICE for a record (R338). -/
def State.notice (s : State) (r : Record) (e : Ev) (st : St) (count : Nat) : State :=
  s.hostSend 0 (.notice r.replyAddr r.replyPort r.id r.tenant r.replyStream e.code st.code count r.epoch r.hostTag)

/-! ### Copies of records -/

/-- GENERATION raised, and COUNT started again (R21). -/
def Rse.newGeneration (e : Rse) : Rse := { e with generation := (e.generation + 1) % 65536, nextCount := 1 }

/-- The latest attempt to reach a node failed (R36). -/
def State.markUnreachable (s : State) (n : Nat) : State :=
  if n = s.node then s else s.onRse fun e => { e with unreachable := n :: e.unreachable.filter (· != n) }

/-- The latest attempt to reach a node succeeded (R36). -/
def State.markReachable (s : State) (n : Nat) : State :=
  s.onRse fun e => { e with unreachable := e.unreachable.filter (· != n) }

/-- A node the last attempt to reach did not fail (R36). -/
def State.reachable (s : State) (n : Nat) : Bool := n == s.node || (!s.isUnreachable n && !s.rse.unreachable.contains n)

/-- This node is the home of an ID, or has adopted it (R39). -/
def State.isHome (s : State) (id : Nat) : Bool := idHome id == s.node || s.rse.adopted.contains (idHome id)

/-- The home record of an ID. -/
def State.home? (s : State) (id : Nat) : Option HomeRec := s.rse.homes.find? (·.r.id == id)

/-- A home record put back. -/
def State.putHome (s : State) (h : HomeRec) : State :=
  s.onRse fun e => { e with homes := upsert (·.r.id == h.r.id) h e.homes }

/-- A home record, its history and its claims gone. -/
def State.dropHome (s : State) (id : Nat) : State :=
  (s.freeHistory id).onRse fun e => { e with homes := e.homes.filter (·.r.id != id) }

/-- The working copy of an ID. -/
def State.work? (s : State) (id : Nat) : Option Work := s.rse.works.find? (·.r.id == id)

/-- A working copy put back. -/
def State.putWork (s : State) (w : Work) : State :=
  s.onRse fun e => { e with works := upsert (·.r.id == w.r.id) w e.works }

/-- The node an owner reports to: the home, or the deputy while the home is unreachable (R54, R58). -/
def State.homeNode (s : State) (r : Record) : Nat :=
  if s.isHome r.id then s.node
  else if s.reachable (idHome r.id) || !r.mirrored then idHome r.id else r.deputy

/-- The command a waiting one replies to. -/
def WaitCmd.reply? : WaitCmd → Option ReplyTo
  | .cancel rep | .move _ rep => some rep
  | .pause p => p.reply

/-- The cancels among waiting commands; a PAUSE or a MOVE goes on to a new owner through the source's NOT_OWNER (R438, R441). -/
def cancelsOf (ws : List WaitCmd) : List WaitCmd :=
  ws.filter fun w => match w with
    | .cancel _ => true
    | _ => false

/-- The home answers a command that waits there, if it still waits (R438, R440). -/
def State.endHostWait (s : State) (id : Nat) (rep : ReplyTo) (st : St) (payload : List Byte) : State :=
  match s.home? id with
  | none => s
  | some h =>
    if h.waits.any fun w => decide (w.reply? = some rep) then
      (s.putHome { h with waits := h.waits.filter fun w => !decide (w.reply? = some rep) }).replyTo rep st payload
    else s

/-- An owner answers a command the home forwarded: the home replies to the host (R438, R440; log entry 82). -/
def State.tellHost (s : State) (r : Record) (rep : ReplyTo) (st : St) (payload : List Byte) : State :=
  if s.isHome r.id then s.endHostWait r.id rep st payload
  else s.sendMsg (s.homeNode r) (.cmdEnds r.id r.epoch rep st payload)

/-- STEP_NOTE to the home, with STREAMED as the release of the step's tokens leaves it (R48). -/
def State.sendNote (s : State) (r : Record) : State :=
  s.sendMsg (s.homeNode r) (.stepNote ⟨r.id, r.epoch, r.genCommitted, r.kvCommitted, r.lastToken, r.stepCount, r.genCommitted,
    r.state⟩)

/-- Batches whose every request is dead are squashed whole (R189). -/
def State.squashDead (s : State) : State :=
  let gone := s.sch.batches.filter fun b => !b.squashed && !b.rows.isEmpty && b.rows.all (·.dead)
  let s := s.onSch fun x => { x with
    batches := updateAll (fun b => gone.contains b) (fun b => { b with squashed := true }) x.batches }
  s.squashCores ((gone.flatMap (·.left)).map s.core)

/-- A request's Mezzotint TAGs released: what was outstanding under them is late, and cores go on (R121). -/
def State.releaseTags (s : State) (id : Nat) : State :=
  (s.onMzt fun m => { m with
    outs := m.outs.filter (·.m.req != id)
    waiting := m.waiting.filter (·.m.req != id) }).mztGoOn

/-- A step of a request is abandoned: its rows are dead, its active-step entry and its Mezzotint TAGs are free, a
SCOMMIT that waits for it goes on (R70, R121, R149, R188, R189). -/
def State.dropStep (s : State) (id : Nat) : State :=
  let s := s.onSch fun b => { b with
    active := b.active.filter (· != id)
    batches := b.batches.map fun x => { x with rows := updateAll (·.req == id) (fun r => { r with dead := true }) x.rows } }
  (s.commitOrdered id .noRequest 0 0 0).squashDead.releaseTags id

/-- A working copy gone, with its slot, its reservation and its step; its pulls are flushed. -/
def State.dropWork (s : State) (id : Nat) : State :=
  let qs := (((s.work? id).map (·.pulls)).getD []).map (· / 2 ^ 32)
  let s := qs.dedup.foldl State.flushDeviceQueue s
  ((s.onRse fun e => { e with works := e.works.filter (·.r.id != id) }).unreserve id).dropStep id

/-- A working copy discarded with the frames it holds (R57, R58): holders are told nothing. A home keeps the pages it
holds as the request's owner in its own right. -/
def State.discardCopy (s : State) (id : Nat) : State :=
  let s := s.dropWork id
  if (s.home? id).any (·.r.owner == s.node) then s else s.freePages ((s.ownPages id).map (·.idx))

/-- Slots of the directory in use; a SUBMIT whose prompt is being read holds one (R333). -/
def State.recordsUsed (s : State) : Nat :=
  s.rse.homes.length + (s.rse.works.filter fun w => (s.home? w.r.id).isNone).length
    + (s.hcp.later.filter fun l => match l with
        | .submit .. => true
        | _ => false).length

/-! ### Burin's queue (R194) -/

/-- A record enters QUEUED. -/
def State.enqueue (s : State) (id : Nat) : State :=
  s.onSch fun b => { b with
    queuedSeq := (b.queuedSeq.filter (·.1 != id)) ++ [(id, b.queuedCounter)]
    queuedCounter := b.queuedCounter + 1 }

/-- A record leaves QUEUED. -/
def State.dequeue (s : State) (id : Nat) : State :=
  s.onSch fun b => { b with queuedSeq := b.queuedSeq.filter (·.1 != id) }

/-! ### Mirror writes (R34, R65) -/

/-- A deputy is configured for a record: its changes wait for the deputy. Adopted records have none (R39). -/
def State.mirrors (s : State) (id : Nat) : Bool := s.flag R.RSE_DEPUTY_VALID && !s.rse.adopted.contains (idHome id)

/-- The deputy takes mirror writes: bound, or being copied to; a copy that waits for the resynchronisation has not begun
(R38). -/
def State.mirrorOpen (s : State) : Bool :=
  s.flag R.RSE_DEPUTY_VALID && decide (s.rse.bind = .bound ∨ (s.rse.bind = .copying ∧ s.rse.resyncNeeded = false))

/-- TTL_TICKS as it stands in a mirror write: the remaining ticks of a PAUSED record. -/
def State.remaining (s : State) (h : HomeRec) : Nat :=
  match h.deadline with
  | some d => d - s.tick
  | none => h.r.ttlTicks

/-- The record the home keeps while the deputy has not acknowledged a change: a new record's slot is taken but no request
stands in it yet; a slot being reclaimed holds no request any more; a move has MOVE_DEST and MOVE_PHASE 1 and stays the
source's (Table 2.4, step 3); any other record is as before. -/
def tentative (c : Change) (prior : Option HomeRec) (new : HomeRec) : Option HomeRec :=
  match c with
  | .note | .reclaim => some new
  | .submit _ => some { new with r := { new.r with state := .free } }
  | .move _ dst => prior.map fun h => { h with r := { h.r with state := .moving, moveDest := dst, movePhase := 1 } }
  | _ => prior

/-- A home record's change written to the deputy; `gone` releases the mirror. A change the home waits for is recorded at
the acknowledgement. -/
def State.mirrorWrite (s : State) (h : HomeRec) (gone : Bool) (c : Change) (prior : Option HomeRec) : State :=
  let r := { h.r with
    mirrorSeq := (h.r.mirrorSeq + 1) % 2 ^ 32
    ttlTicks := s.remaining h }
  let s := match tentative c prior { h with r := r } with
    | some k => s.putHome { k with r := { k.r with mirrorSeq := r.mirrorSeq } }
    | none => s
  let s := s.onRse fun e => { e with mirrorOut := e.mirrorOut ++ [⟨r.id, r.mirrorSeq, c, prior, some { h with r := r }⟩] }
  s.sendMsg (s.reg R.RSE_DEPUTY_NODE) (.mirrorWrite r.id r.mirrorSeq r.epoch (if gone then none else some r) h.history)

/-- A change the home does not wait for: made, and written to the deputy where there is one. -/
def State.noteHome (s : State) (h : HomeRec) : State :=
  if s.mirrors h.r.id && s.mirrorOpen then s.mirrorWrite h false .note (s.home? h.r.id) else s.putHome h

/-- A change of a record waits for the deputy's acknowledgement. -/
def State.pendingChange (s : State) (id : Nat) : Bool :=
  s.rse.mirrorOut.any fun p => p.id == id && decide (p.change ≠ .note)

/-! ### Final records (R67, R69, R70, Table 2.8, R338) -/

/-- A command that waited for a request's fate is answered with its final state. -/
def State.answerFinal (s : State) (h : HomeRec) (w : WaitCmd) : State :=
  let r := h.r
  match w with
  | .cancel rep =>
    if r.state = .cancelled then s.replyTo rep .ok (cancelPayload .cancelled r.genCommitted)
    else s.replyTo rep .alreadyDone (cancelPayload r.finalStatus r.genCommitted)
  | .pause p =>
    match p.reply with
    | none => s
    | some rep => s.replyTo rep (if r.state = .done then .alreadyDone else r.finalStatus)
        (if r.state = .failed then [] else genPayload r.genCommitted)
  | .move _ rep => s.replyTo rep (if r.state = .cancelled then .cancelled else .moveAborted) []

/-- Several waiting commands answered. -/
def State.answerAll (s : State) (h : HomeRec) : List WaitCmd → State
  | [] => s
  | w :: ws => (s.answerFinal h w).answerAll h ws

/-- What a change that is given up unrecorded leaves to be said: a RESUME is answered, a move's destination told. -/
def State.dropPend (s : State) (id epoch : Nat) (c : Change) : State :=
  match c with
  | .resume rep => s.replyTo rep .badState []
  | .move _ dst => s.sendMsg dst (.mvAbort id epoch)
  | _ => s

/-- The changes of a record that wait for the deputy given up: their acknowledgements are ignored, and later writes
overtake them at the deputy (R71). -/
def State.dropPends (s : State) (id epoch : Nat) : State :=
  let ps := s.rse.mirrorOut.filter fun p => p.id == id && decide (p.change ≠ .note)
  let s := s.onRse fun e => { e with mirrorOut := e.mirrorOut.filter fun p => !(p.id == id && decide (p.change ≠ .note)) }
  ps.foldl (fun s p => s.dropPend id epoch p.change) s

/-- The number frames of a RESUME's history are reserved under while its rebase waits for the deputy; no request has it. -/
def resumeKey (id : Nat) : Nat := 2 ^ 65 + id

/-- A home record becomes final: its event and NOTICE, the replies that waited, its pages freed where the home owns
them, changes that wait for the deputy given up, its tombstone noted to the deputy. -/
def State.finalise (s : State) (h : HomeRec) (st : ReqState) (status : St) (owner : Nat) : State :=
  let h' := { h with r := { h.r with state := st, finalStatus := status, owner := idHome h.r.id, movePhase := 0 },
                     finalAt := some s.tick, deadline := none, waits := [], resend := [], heldResume := none,
                     deferred := none, placing := none, recovering := false, located := [], locateWait := [] }
  let r := h'.r
  let s := ((s.dequeue r.id).dropPends r.id r.epoch).freeKv r.id r.epoch
  let s := match st with
    | .cancelled => (s.post .requestCancelled r.context (formQ status owner r.genCommitted r.id)).notice r
        .requestCancelled status r.genCommitted
    | .failed => ((s.bump R.RSE_RECOVERY_STATS_FAILURES).post .requestFailed r.context
        (formQ status owner r.genCommitted r.id)).notice r .requestFailed status r.genCommitted
    | _ => s
  let s := s.answerAll h' h.waits
  let s := match h.heldResume with
    | some (rep, _, _) => (s.unreserve (resumeKey r.id)).replyTo rep .badState []
    | none => s
  s.noteHome h'

/-- An EPOCH that cannot be raised fails the request instead (R56). -/
def epochFull (r : Record) : Bool := decide (2 ^ 32 ≤ r.epoch + 1)

/-! ### The home's commits (R34 to R37, R439) -/

/-- A token of the current turn the home learns of, at its place after the history; positions it has not learned of
hold values the spec does not state (log entry 17). -/
def State.noteToken (s : State) (hist : List Nat) (pos token : Nat) : List Nat × State :=
  if pos < hist.length then (hist.set pos token, s)
  else
    let gap := pos - hist.length
    (hist ++ (List.range gap).map (fun i => Config.unstated (s.fresh + i) % 2 ^ 32) ++ [token],
     s.setFresh (s.fresh + gap))

/-- The time to live a PAUSED record starts with (R64). -/
def State.ttlOf (s : State) (ttl : Nat) : Nat := if ttl = 0 then s.reg R.RSE_TTL_TTL_DEFAULT else ttl

/-- The record a hand-back makes: the home's own, in NEXT_STATE with the copy's progress, PAUSED with its deadline; the
release of a source that is another node is awaited (R43, R55, R65, row 10). -/
def State.handbackRec (s : State) (h : HomeRec) (w : Work) (src : Nat) : HomeRec :=
  let st := w.r.nextState
  let ttl := s.ttlOf w.r.ttlTicks
  let r := { w.r with owner := s.node, epoch := h.r.epoch, deputy := h.r.deputy, mirrored := h.r.mirrored, state := st,
                      nextState := .free, moveDest := 0, movePhase := if src = s.node then 0 else 2, restarts := h.r.restarts,
                      mirrorSeq := h.r.mirrorSeq, cancelSeen := h.r.cancelSeen, ttlTicks := ttl }
  { h with r := r, history := w.history ++ w.genTokens, moveSrc := src,
           deadline := if st = .paused then some (s.tick + ttl) else none }

/-- A hand-back commits at the home: its record is `handbackRec`'s, and PG_TTL goes to the holders (R92). -/
def State.enterHandback (s : State) (h : HomeRec) (w : Work) (src : Nat) : State × HomeRec :=
  let h' := s.handbackRec h w src
  let r := h'.r
  let s := (s.onRse fun e => { e with works := e.works.filter (·.r.id != r.id) }).unreserve r.id
  let hs := ((s.ownPages r.id).flatMap Page.holders).map (·.1)
  let s := if r.state = .paused then s.sendMsgs (.pgTtl r.id r.epoch r.ttlTicks) hs.dedup else s
  (s, h')

/-- The commands a committed hand-back answers: every PAUSE, ST_OK when it led to PAUSED and ST_BAD_STATE when a park
committed. Any other command stays: the source answers a MOVE (R440). -/
def State.answerMoved (s : State) (h : HomeRec) (back : Bool) : State × List WaitCmd :=
  h.waits.foldl (fun (s, left) w =>
    match w with
    | .pause p =>
      if !back then (s, left ++ [w])
      else match p.reply with
        | none => (s, left)
        | some rep =>
          (if h.r.state = .paused then s.replyTo rep .ok (genPayload h.r.genCommitted) else s.replyTo rep .badState [], left)
    | w => (s, left ++ [w])) (s, [])

/-- The home's own entries of a placed request pass to the new owner: entries that name a holder are freed, pages that
rest here are held for the owner (R53, R91). -/
def State.surrender (s : State) (id epoch : Nat) : State :=
  (s.ownPages id).foldl (fun s p =>
    match p.loc with
    | .t1 .. | .t2of .. => s.freePage p.idx
    | .sharedOf _ => s.putPage { p with foreign := true, epoch := epoch, deadline := s.tick + s.reg R.PGE_TTL_LEASE_TICKS }
    | _ => s.putPage { p with foreign := true, epoch := epoch, deadline := s.tick + s.reg R.PGE_TTL_LEASE_TICKS }) s

/-- A restarted record is reset and goes on under row 18 or 19 (R63). -/
def State.resetRestarted (s : State) (h : HomeRec) (lost : Nat) : State :=
  let n := h.r.restarts + 1
  let h := { h with r := { h.r with kvCommitted := 0, genCommitted := 0, streamed := 0, stepCount := 0,
                                    restarts := min n 15, moveDest := 0, movePhase := 0,
                                    lastToken := h.history.getD (h.r.historyLength - 1) h.r.lastToken },
                    history := h.history.take h.r.historyLength }
  if !h.historyOk then s.finalise h .failed .historyLost lost
  else if s.reg R.RSE_LIMITS_RESTART_LIMIT < n then s.finalise h .failed .restartLimit lost
  else (s.noteHome { h with r := { h.r with state := .queued } }).enqueue h.r.id

/-- Commands that wait when an owner is lost: a PAUSE is void, a MOVE aborted, a RESUME held for a hand-back refused; a
cancel is applied to the new state (R64, R66, R440, R441). -/
def State.voidWaits (s : State) (h : HomeRec) : State :=
  let s := h.waits.foldl (fun s w =>
    match w with
    | .pause p => match p.reply with
      | some rep => s.replyTo rep .badState []
      | none => s
    | .move _ rep => s.replyTo rep .moveAborted []
    | .cancel _ => s) s
  let s := match h.heldResume with
    | some (rep, _, _) => s.replyTo rep .badState []
    | none => s
  match s.home? h.r.id with
  | none => s
  | some h' =>
    let h'' := { h' with
      waits := cancelsOf h'.waits
      resend := []
      heldResume := none }
    let s := s.putHome h''
    if h''.r.cancelSeen && decide (h''.r.state = .queued) then s.finalise h'' .cancelled .cancelled h''.r.owner else s

/-- A waiting command forwarded to the owner. -/
def State.forwardWait (s : State) (h : HomeRec) : WaitCmd → State
  | .cancel _ => s.sendMsg h.r.owner (.cancelFwd h.r.id h.r.epoch)
  | .pause p => s.sendMsg h.r.owner (.fwdPause h.r.id h.r.epoch p)
  | .move d rep => s.sendMsg h.r.owner (.fwdMove h.r.id h.r.epoch d rep)

/-- Several waiting commands forwarded. -/
def State.forwardWaits (s : State) (h : HomeRec) : List WaitCmd → State
  | [] => s
  | w :: ws => (s.forwardWait h w).forwardWaits h ws

/-- The copy a committed move to this node hands back, where it is a hand-back. -/
def State.handbackCopy (s : State) (id dst : Nat) : Option Work :=
  (s.work? id).filter fun w => decide (dst = s.node ∧ (w.r.nextState = .paused ∨ w.r.nextState = .parked))

/-- The record of a committed move: taken over from a hand-back, or awaiting the source's release. -/
def State.movedRecord (s : State) (h : HomeRec) (back : Option Work) (src dst : Nat) : State × HomeRec :=
  match back with
  | some w => s.enterHandback h w src
  | none => (s, { h with r := { h.r with movePhase := if src = dst then 0 else 2 }, moveSrc := src })

/-- A committed move takes effect (R54, R55, R66). -/
def State.finishMove (s : State) (h : HomeRec) (src dst : Nat) : State :=
  let id := h.r.id
  let s := s.bump R.RSE_MOVE_STATS_COMMITTED
  let back := s.handbackCopy id dst
  let m := s.movedRecord h back src dst
  let s := if src = dst ∧ m.2.r.state = .parked then m.1.bump R.PHS_TURN_STATS_PARKED else m.1
  let a := s.answerMoved m.2 back.isSome
  let h := { m.2 with waits := a.2, resend := [] }
  let s := a.1.noteHome h
  let s := if back.isSome then s else s.sendMsg dst (.mvCommitted id h.r.epoch dst)
  let s := if src = dst then s else s.sendMsg src (.mvCommitted id h.r.epoch dst)
  if back.isNone then s.forwardWaits h (cancelsOf a.2)
  else if h.r.cancelSeen then s.finalise h .cancelled .cancelled src else s

/-- A change takes effect: what follows the acknowledgement, or the change where no deputy is waited for. -/
def State.finish (s : State) (id : Nat) (c : Change) : State :=
  match s.home? id with
  | none => s
  | some h =>
    match c with
    | .submit rep => (s.enqueue id).replyTo rep .ok (toBytes 8 id)
    | .resume rep => (s.enqueue id).replyTo rep .ok (toBytes 8 h.r.historyLength)
    | .place target =>
      let s := ((s.putHome { h with placing := none, placed := true }).bump R.RSE_MOVE_STATS_COMMITTED).bump R.SCH_PLACE_STATS_PLACED
      let s := if target = s.node then s else s.surrender id h.r.epoch
      (s.dequeue id).sendMsg target (.placed id h.r.epoch)
    | .move src dst => s.finishMove h src dst
    | .recover lost =>
      let s := ((s.bump R.RSE_RECOVERY_STATS_RECOVERIES).post .requestRecovered h.r.context
        (formQ .ok lost h.r.genCommitted id)).notice h.r .requestRecovered .ok h.r.genCommitted
      (s.enqueue id).voidWaits h
    | .restart lost =>
      let s := ((s.bump R.RSE_RECOVERY_STATS_RESTARTS).notice h.r .requestRestarted .ok h.r.streamed).post .requestRestarted
        h.r.context (formQ .ok lost h.r.streamed id)
      let s := s.freeKv id h.r.epoch
      let s := if h.r.coded then s.sendMsgs (.pgLocate id h.r.epoch)
          ((List.range (s.reg R.PGE_OCHRE_CTRL_COUNT)).map fun i => s.reg (R.PGE_OCHRE_NODE i)) else s
      (s.resetRestarted h lost).voidWaits h
    | .repair ns =>
      let s := (s.bump R.RSE_RECOVERY_STATS_REPAIRS).post .ownershipRepaired h.r.context
        (formQ .ok h.r.owner h.r.genCommitted id)
      (s.onRse fun e => { e with claims := e.claims.filter (·.1 != id) }).sendMsgs (.ownReply id h.r.epoch h.r.owner) ns
    | .rebase => (((s.freeKv id h.r.epoch).bump R.PHS_REBASE_STATS_REBASED).post .requestRebased h.r.context
        (formQ .ok s.node h.r.genCommitted id)).notice h.r .requestRebased .ok h.r.genCommitted
    | .reclaim => s.dropHome id
    | .note | .restore .. => s

/-- An offer that is over without a placement: PLACE_CANCEL goes out (R45). -/
def State.endPlacing (s : State) (id target epoch : Nat) : State :=
  let s := match s.home? id with
    | some h => s.putHome { h with placing := none }
    | none => s
  s.sendMsg target (.placeCancel id epoch)

/-- A node that refused, or let PLACE_US pass, is passed over for a while (R195). -/
def State.passOver (s : State) (id target : Nat) : State :=
  s.onSch fun b => { b with
    refuseHold := target :: b.refuseHold.filter (· != target)
    tried := upsert (·.1 == id) (id, target :: ((b.tried.find? (·.1 == id)).map (·.2)).getD []) b.tried }

/-- An offer its target refused or did not answer is over, and the node is passed over for a while (R45, R195). -/
def State.dropPlacing (s : State) (id target epoch : Nat) : State := (s.endPlacing id target epoch).passOver id target

/-- A move whose commit the home refuses: both nodes are told (R54). Where the source is this node, it counts the move as
aborted (Table 2.11). -/
def State.refuseMove (s : State) (src dst id epoch : Nat) (st : St) : State :=
  let s := if src = s.node then s else s.bump R.RSE_MOVE_STATS_ABORTED
  (s.sendMsg src (.mvAborted id epoch st)).sendMsg dst (.mvAbort id epoch)

/-- What the nodes concerned are told of a placement or move that is not recorded (R45, R54). -/
def State.tellRefused (s : State) (id epoch : Nat) (c : Change) (st : St) : State :=
  match c with
  | .place t => s.endPlacing id t epoch
  | .move src dst => s.refuseMove src dst id epoch st
  | _ => s

/-- The record as it stood before a change; commands and cancels that came meanwhile stay (R68). -/
def State.revert (s : State) (id : Nat) (prior : Option HomeRec) : State :=
  match prior with
  | some h =>
    match s.home? id with
    | some k => s.putHome { h with
        r := { h.r with cancelSeen := h.r.cancelSeen || k.r.cancelSeen, mirrorSeq := k.r.mirrorSeq }
        waits := k.waits
        resend := k.resend
        heldResume := k.heldResume }
    | none => s.putHome h
  | none => s.dropHome id

/-- The restoring write of a change whose mirror write went out (R439): the record as it stands now, with the status the nodes
concerned are told once it is settled; for a record that is gone, its removal. -/
def State.restoreWrite (s : State) (id : Nat) (c : Change) (new : Option HomeRec) (st : St) : State :=
  match s.home? id with
  | some h => (s.mirrorWrite h false (.restore c st) (some h)).onRse fun e => { e with
      mirrorOut := updateAll (fun p => p.id == id && decide (p.change = .restore c st)) (fun p => { p with next := new }) e.mirrorOut }
  | none => s.sendMsg (s.reg R.RSE_DEPUTY_NODE)
      (.mirrorWrite id (((new.map (·.r.mirrorSeq)).getD 0) + 1) ((new.map (·.r.epoch)).getD 0) none [])

/-- A change the deputy has not acknowledged is refused or deferred by its kind (R35); `sent`: its mirror write went
out, and a restoring write follows (R439). A slot reclamation waits with the slot kept. -/
def State.refuse (s : State) (id : Nat) (c : Change) (prior new : Option HomeRec) (sent : Bool) : State :=
  let s := if c = .reclaim then s else s.revert id prior
  let restore := fun (s : State) => if sent then s.restoreWrite id c new .deputyUnreachable else s
  match c with
  | .submit rep => (restore s).replyTo rep .deputyUnreachable []
  | .resume rep => (restore s).replyTo rep .deputyUnreachable []
  | .place _ | .move .. =>
    if sent then restore s
    else
      let e := match prior with
        | some h => h.r.epoch
        | none => 0
      s.tellRefused id e c .deputyUnreachable
  | .recover _ | .restart _ | .rebase | .repair _ | .reclaim =>
    match s.home? id with
    | some h => s.putHome { h with deferred := some c }
    | none => s
  | .note | .restore .. => s

/-- A write to RSE_DEPUTY leaves a change unacknowledged for good (R35, R73): it is refused or deferred by its kind. A placement
or move stands reverted and no node is told: they time out and query (R439). What a note or a restoring write says, the copy
to the next deputy says. -/
def State.giveUp (s : State) (p : MirrorPend) : State :=
  match p.change with
  | .note | .restore .. => s
  | .place _ | .move .. => s.revert p.id p.prior
  | c => s.refuse p.id c p.prior p.next false

/-- A change that raises EPOCH: a commit, which a home that must resynchronise does not record (R38, R56). -/
def Change.commits : Change → Bool
  | .place _ | .move .. | .recover _ | .restart _ | .repair _ | .rebase => true
  | _ => false

/-- A change of a home record that waits for the deputy (R34): made at once without a deputy, refused or deferred while
the deputy is not bound or, for a commit, the home must resynchronise (R35, R38), else tentative until the acknowledgement. -/
def State.change (s : State) (new : HomeRec) (c : Change) : State :=
  let id := new.r.id
  let prior := s.home? id
  if !s.mirrors id then (s.putHome new).finish id c
  else if !s.flag R.RSE_DEPUTY_BOUND || (s.rse.resyncNeeded && c.commits) then
    (if c = .reclaim then s.putHome new else s).refuse id c prior (some new) false
  else s.mirrorWrite new (decide (c = .reclaim)) c prior

/-- A change the deputy has acknowledged is recorded: the record it makes, with the commands that came meanwhile (R68);
where a later write has gone to the deputy, the record follows it. -/
def State.record (s : State) (p : MirrorPend) : State :=
  match p.next with
  | none => s.finish p.id p.change
  | some n =>
    let n := match s.home? p.id with
      | some k => { n with
          r := { n.r with cancelSeen := n.r.cancelSeen || k.r.cancelSeen, mirrorSeq := k.r.mirrorSeq }
          waits := k.waits
          resend := k.resend
          heldResume := k.heldResume }
      | none => n
    let s := if (s.home? p.id).any (fun k => k.r.mirrorSeq != p.seq) then s.noteHome n else s.putHome n
    s.finish p.id p.change

/-- The deputy's acknowledgement of a change: it is recorded, but a move whose request has had a cancel accepted is
refused instead, and a restoring write says so to the deputy (R34, R54, R439). -/
def State.settle (s : State) (p : MirrorPend) : State :=
  match p.change with
  | .move .. =>
    if (s.home? p.id).any (·.r.cancelSeen) then (s.revert p.id p.prior).restoreWrite p.id p.change p.next .cancelled
    else s.record p
  | _ => s.record p

/-! ### Loss of an owner (R61 to R63) -/

/-- The request is recovered: the home owns it at its committed position (R62, steps 2 to 4). -/
def State.recoverCommit (s : State) (h : HomeRec) : State :=
  let lost := h.r.owner
  if epochFull h.r then s.finalise h .failed .epochExhausted lost else
    s.change { h with r := { h.r with owner := s.node, epoch := h.r.epoch + 1, state := .queued, moveDest := 0, movePhase := 0,
                                      retried := false },
                      recovering := false, deferred := none } (.recover lost)

/-- The request is restarted (R63). -/
def State.restartCommit (s : State) (h : HomeRec) : State :=
  let lost := h.r.owner
  if epochFull h.r then s.finalise h .failed .epochExhausted lost else
    s.change { h with r := { h.r with owner := s.node, epoch := h.r.epoch + 1, state := .restarted, moveDest := 0, movePhase := 0,
                                      retried := false },
                      recovering := false, located := [], locateWait := [], deferred := none } (.restart lost)

/-- Ochre nodes, by their place in the set. -/
def State.ochre (s : State) : List Nat :=
  (List.range (s.reg R.PGE_OCHRE_CTRL_COUNT)).map fun i => s.reg (R.PGE_OCHRE_NODE i)

/-- The record says that its turn has ended with DONE: the last token the home was told of is a stop token or the turn's last
(section 2.3). -/
def Record.turnEnded (r : Record) : Bool :=
  decide (r.state = .prefill ∨ r.state = .decode) && !r.pauseAtEnd && decide (0 < r.genCommitted)
    && (r.genCommitted == r.maxNewTokens || (r.stopTokens.contains r.lastToken && r.lastToken != 0xFFFFFFFF))

/-- The owner of a request is lost: a turn that has ended is final with DONE, which the host may have been told (R71, log entry
83), a coded request's pages are located, any other is restarted. While the record is being restored, or a change of it waits for the
deputy, the loss waits too (R41, R54). -/
def State.ownerLost (s : State) (id : Nat) : State :=
  match s.home? id with
  | none => s
  | some h =>
    if h.recovering then s
    else if !h.checkOk || s.pendingChange id then
      (if s.fab.inbox.contains (h.r.owner, .lostStep id h.r.epoch) then s else s.deliver h.r.owner (.lostStep id h.r.epoch))
    else if h.r.turnEnded then s.finalise h .done .ok h.r.owner
    else if h.r.coded && !s.ochre.isEmpty then
      let ns := s.ochre.filter s.reachable
      let h' := { h with recovering := true, located := [], locateWait := ns }
      (s.putHome h').sendMsgs (.pgLocate id h.r.epoch) ns
    else s.restartCommit h

/-- Several requests' owner is lost. -/
def State.ownersLost (s : State) : List Nat → State
  | [] => s
  | id :: ids => (s.ownerLost id).ownersLost ids

/-! ### What an owner gives up or ends (R50, R56, R69, R70) -/

/-- A working copy relinquished: LOST_STEP to the home, the copy and its frames gone; pages on T1 freed unless the
request is coded (R50). -/
def State.loseStep (s : State) (id : Nat) : State :=
  match s.work? id with
  | none => s
  | some w =>
    let s := s.sendMsg (s.homeNode w.r) (.lostStep id w.r.epoch)
    let s := if w.r.coded then s else s.sendFrees id w.r.epoch (s.ownPages id)
    let s := s.dropWork id
    s.freePages ((s.ownPages id).map (·.idx))

/-- An owner's working copy that fails its check is relinquished (R41); one that is only reserved or prepared is
discarded. -/
def State.checkCopy (s : State) (id : Nat) : State :=
  match s.work? id with
  | none => s
  | some w => if w.checkOk then s else if w.status = .owned then s.loseStep id else s.discardCopy id

/-- A message carries a higher epoch than this node's copy: the copy is discarded with its slot and frames (R57). -/
def State.overtaken (s : State) (id epoch : Nat) : State :=
  if (s.work? id).any fun w => w.r.epoch < epoch then s.discardCopy id else s

/-- Some core group of a context can take a retry: all its cores are in service (R199). -/
def State.retryGroup (s : State) (ctx : Nat) : Bool :=
  (s.ctx? ctx).any fun x => (List.range x.desc.groups).any (s.groupIn x.desc)

/-- A step failed before its commit: it is run once more, or lost (R50, R199). -/
def State.failStep (s : State) (id : Nat) : State :=
  match s.work? id with
  | none => s
  | some w =>
    if w.r.retried || !s.retryGroup w.r.context then s.loseStep id
    else ((s.dropStep id).putWork { w with r := { w.r with retried := true }, step := none }).onSch fun b => { b with
      retries := (id, ((w.step.map (·.group)).getD 0)) :: b.retries.filter (·.1 != id) }

/-- A request's page of committed positions is lost: without coding its step fails and is not retried (R50, R99). -/
def State.loseOwned (s : State) (id : Nat) : State := s.loseStep id

/-- The owner ends a request: FINAL to the home, its pages freed everywhere, its copy gone. -/
def State.endOwned (s : State) (w : Work) (st : ReqState) (status : St) : State :=
  let r := w.r
  let s := s.sendMsg (s.homeNode r) (.final ⟨r.id, r.epoch, st, status, r.genCommitted, r.streamed⟩)
  let s := if st = .cancelled then (s.commitOrdered r.id .cancelled 0 r.genCommitted r.kvCommitted).onSch fun b => { b with
      batches := b.batches.map fun x => { x with rows := updateAll (·.req == r.id) (fun y =>
        { y with cancelled := true, gen := r.genCommitted, kv := r.kvCommitted }) x.rows } }
    else s
  (s.freeKv r.id r.epoch).dropWork r.id

end Sys2Proof.Machine
end

