-- ==== Sys2Proof/Machine/RseHome.lean ====
section
/-! DEFINITION. The home and the deputy (sections 2.1, 2.4, 2.6 to 2.9): binds, mirror writes, placements, commits,
claims, resynchronisation, times to live, and the host's commands at the home. -/

namespace Sys2Proof.Machine

/-! ### Binds (R33, R39, R73) -/

/-- A deputy answers a bind. -/
def execMirrorBind (src : Nat) (s : State) : Host.Outcome State Fault Refusal :=
  let s := s.takeMsg src .mirrorBind
  if s.rse.adopted.contains src then .next (s.sendMsg src (.mirrorBindRefused .homeAdopted))
  else if s.flag R.RSE_MIRROR_HOME_VALID && s.reg R.RSE_MIRROR_HOME_HOME == src then
    .next ((s.onRse fun e => { e with boundFrom := some src }).sendMsg src .mirrorBindAccepted)
  else .next (s.sendMsg src (.mirrorBindRefused .badState))

/-- Every home record this node mirrors copied to the deputy. -/
def State.copyHomes (s : State) : List HomeRec → State
  | [] => s
  | h :: hs =>
    let s := if s.mirrors h.r.id then s.mirrorWrite { h with r := { h.r with mirrored := true } } false .note (some h) else s
    s.copyHomes hs

/-- A message of the deputy this home names (R34, R73). -/
def State.fromDeputy (s : State) (src : Nat) : Bool := s.flag R.RSE_DEPUTY_VALID && s.reg R.RSE_DEPUTY_NODE == src

/-- The bind is accepted: the copy begins, where the home must resynchronise at the end of that (R38). -/
def execMirrorBindAccepted (src : Nat) (s : State) : Host.Outcome State Fault Refusal :=
  let s := s.takeMsg src .mirrorBindAccepted
  if s.fromDeputy src && decide (s.rse.bind = .sent) then
    let s := s.onRse fun e => { e with bind := .copying }
    .next (if s.rse.resyncNeeded then s.sendMsg src .resync else s.copyHomes s.rse.homes)
  else .next s

/-- The initial copy is complete. -/
def execMirrorCopyComplete (s : State) : Host.Outcome State Fault Refusal :=
  if s.rse.bind = .copying ∧ s.rse.mirrorOut = [] ∧ s.rse.resyncNeeded = false then
    .next ((s.onRse fun e => { e with bind := .bound }).setReg R.RSE_DEPUTY_BOUND 1)
  else .next s

/-- The home rejoins after its records were adopted: it discards them and goes on with a new GENERATION (R39). -/
def State.adoptedAway (s : State) : State :=
  let ids := (s.rse.homes.filter fun h => idHome h.r.id == s.node).map (·.r.id)
  (ids.foldl State.dropHome s).onRse fun e => { e with resyncNeeded := false, rebuild := false, heldQueries := [] }.newGeneration

/-- The bind is refused. -/
def execMirrorBindRefused (src : Nat) (status : St) (s : State) : Host.Outcome State Fault Refusal :=
  let s := s.takeMsg src (.mirrorBindRefused status)
  if s.fromDeputy src && decide (s.rse.bind = .sent) then
    let s := s.onRse fun e => { e with bind := .refused }
    .next (if status = .homeAdopted then s.adoptedAway else s)
  else .next s

/-- An unanswered bind is sent again (R33, R36). -/
def execMirrorBindRetryExpiry (s : State) : Host.Outcome State Fault Refusal :=
  if s.rse.bind = .sent then
    .next ((s.markUnreachable (s.reg R.RSE_DEPUTY_NODE)).sendMsg (s.reg R.RSE_DEPUTY_NODE) .mirrorBind)
  else .next s

/-- A write to RSE_DEPUTY: BOUND clears, the changes that wait for the former bind are given up, and with VALID = 1 a new bind
starts (R35, R73). Without a deputy the home no longer waits to resynchronise (R38). -/
def State.deputyWrite (s : State) (value : Nat) : State × St :=
  let ps := s.rse.mirrorOut
  let s := (s.writeRw 0x40000 value).setReg R.RSE_DEPUTY_BOUND 0
  let s := ps.foldl State.giveUp (s.onRse fun e => { e with mirrorOut := [] })
  if s.flag R.RSE_DEPUTY_VALID then
    ((s.onRse fun e => { e with bind := .sent }).sendMsg (s.reg R.RSE_DEPUTY_NODE) .mirrorBind, .ok)
  else (s.onRse fun e => { e with bind := .none, resyncNeeded := false, heldQueries := [] }, .ok)

/-- A write to RSE_DEPUTY. -/
def execRseDeputyWrite (value : Nat) (s : State) : Host.Outcome State Fault Refusal := .next (s.deputyWrite value).1

/-- A write to RSE_MIRROR_HOME: naming another home, or clearing VALID, discards the mirrors held (R73). -/
def State.mirrorHomeWrite (s : State) (value : Nat) : State × St :=
  let same := bitAt value 32 == s.flag R.RSE_MIRROR_HOME_VALID && value % 65536 == s.reg R.RSE_MIRROR_HOME_HOME
  if same then (s, .ok)
  else
    let drop := !bitAt value 32 || value % 65536 != s.reg R.RSE_MIRROR_HOME_HOME
    let s := s.writeRw 0x40008 value
    if drop then
      let ids := (s.rse.mirrors.filter fun m => (s.home? m.r.id).isNone).map (·.r.id)
      ((ids.foldl State.freeHistory s).onRse fun e => { e with mirrors := [], boundFrom := none }, .ok)
    else (s, .ok)

/-- A write to RSE_MIRROR_HOME. -/
def execRseMirrorHomeWrite (value : Nat) (s : State) : Host.Outcome State Fault Refusal := .next (s.mirrorHomeWrite value).1

/-- A home record built from a mirror or a claim. -/
def homeOf (r : Record) (history : List Nat) : HomeRec :=
  { r := r, checkOk := true, history := history, historyOk := decide (r.historyLength ≤ history.length), prefixKey := 0,
    prefixLen := 0, placed := false, placing := none, deadline := none, finalAt := none, waits := [], resend := [], heldResume := none, deferred := none,
    located := [], locateWait := [], recovering := false, moveSrc := 0 }

/-- A request another node runs, at its home. -/
def ReqState.away (st : ReqState) : Bool := decide (st = .prefill ∨ st = .ready ∨ st = .decode ∨ st = .moving)

/-- A final state (section 2.3). -/
def ReqState.final (st : ReqState) : Bool := decide (st = .done ∨ st = .cancelled ∨ st = .failed)

/-- The times a home keeps beside a record it takes from another copy: a PAUSED record runs `ttl` ticks from now (R6, R65), a
final one its hold (R67). -/
def State.homeTimes (s : State) (h : HomeRec) (ttl : Nat) : HomeRec :=
  { h with
    deadline := if h.r.state = .paused then some (s.tick + ttl) else none
    finalAt := if h.r.state.final then some s.tick else none }

/-- A record taken over as home goes on with its times: a QUEUED one joins Burin's queue, a RESTARTED one is reset and goes on
under row 18 or 19, its pages freed (R63). -/
def State.takeHome (s : State) (h : HomeRec) (elapsed : Nat) : State :=
  let h := s.homeTimes h (h.r.ttlTicks - elapsed)
  let s := s.putHome h
  match h.r.state with
  | .queued => s.enqueue h.r.id
  | .restarted => (s.freeKv h.r.id h.r.epoch).resetRestarted h h.r.owner
  | _ => s.dequeue h.r.id

/-- A deputy adopts the records of its home (R39), and sweeps them where that home is out of reach: its own requests have lost
their owner (R61). ADOPT stays set (W1S, R7); where no home is named it is set and adopts none (DESIGN CHOICE, log entry 84). -/
def State.adoptWrite (s : State) (value : Nat) : State × St :=
  if !bitAt value 63 then (s, .ok)
  else if !s.flag R.RSE_MIRROR_HOME_VALID then (s.setReg R.RSE_ADOPT_ADOPT 1, .ok)
  else
    let former := s.reg R.RSE_MIRROR_HOME_HOME
    let ms := s.rse.mirrors
    let s := (s.onRse fun e => { e with mirrors := [], boundFrom := none, probes := [], adopted := e.adopted ++ [former] }).setRegs
      [(R.RSE_ADOPT_ADOPT, 1), (R.RSE_ADOPT_ADOPTED, 1), (R.RSE_ADOPT_FORMER_HOME, former)]
    let s := ms.foldl (fun s m => s.takeHome (homeOf { m.r with mirrored := false } m.history) (s.tick - m.tickAt)) s
    let s := s.post .homeAdopted 0xFFF (formO .ok former 0 0)
    (if s.reachable former then s
     else s.ownersLost ((s.rse.homes.filter fun h => h.r.owner == former && h.r.state.away).map (·.r.id)), .ok)

/-- A write to RSE_ADOPT. -/
def execRseAdoptWrite (value : Nat) (s : State) : Host.Outcome State Fault Refusal := .next (s.adoptWrite value).1

/-! ### Mirror writes (R33 to R37, R439) -/

/-- A deputy receives a mirror write. It applies or refuses it whatever epoch it carries (R34), and its answer carries that epoch
(R57). -/
def execMirrorWrite (src id : Nat) (w : MirrorMark) (rec : Option Record) (history : List Nat) (s : State) : Host.Outcome State Fault Refusal :=
  let s := s.takeMsg src (.mirrorWrite id w.seq w.epoch rec history)
  if s.rse.boundFrom ≠ some src ∨ !s.flag R.RSE_MIRROR_HOME_VALID ∨ s.reg R.RSE_MIRROR_HOME_HOME ≠ src then
    .next (s.sendMsg src (.mirrorRefused id w.seq w.epoch))
  else if rec.any (!s.readable ·) then .next (s.nakWith src (.mirrorWrite id w.seq w.epoch rec history) .formatUnsupported)
  else
    let m := s.rse.mirrors.find? (·.r.id == id)
    match rec with
    | none =>
      .next ((((if (s.home? id).isNone then s.freeHistory id else s)).onRse fun e =>
        { e with mirrors := e.mirrors.filter (·.r.id != id) }).sendMsg src (.mirrorAck id w.seq w.epoch))
    | some r =>
      if m.any fun x => x.fenced.isSome && x.r.epoch != r.epoch then .next (s.sendMsg src (.mirrorFenced id w.seq w.epoch))
      else
        let s := (s.writeHistory r history).getD s
        .next ((s.onRse fun e => { e with mirrors := upsert (·.r.id == id) ⟨r, history, m.bind (·.fenced), s.tick⟩ e.mirrors }).sendMsg
          src (.mirrorAck id w.seq w.epoch))

/-- The mirror write in flight a reply names, taken off the list. -/
def State.takePend (s : State) (id seq : Nat) : Option MirrorPend × State :=
  (s.rse.mirrorOut.find? fun p => p.id == id && p.seq == seq,
   s.onRse fun e => { e with mirrorOut := e.mirrorOut.filter fun p => !(p.id == id && p.seq == seq) })

/-- A claim of R60 put beside the others for its ID. -/
def State.addClaim (s : State) (id : Nat) (c : Claim) : State :=
  s.onRse fun e => { e with claims := match e.claims.find? (·.1 == id) with
    | some (_, t, cs) => upsert (·.1 == id) (id, t, upsert (·.node == c.node) c cs) e.claims
    | none => e.claims ++ [(id, s.tick, [c])] }

/-- The better of two claims (R60). -/
def Claim.better (a b : Claim) : Bool :=
  b.epoch < a.epoch || (a.epoch == b.epoch && ((a.committed && !b.committed)
    || (a.committed == b.committed && a.node < b.node)))

/-- The best of several claims. -/
def bestClaim : List Claim → Option Claim
  | [] => none
  | c :: cs =>
    match bestClaim cs with
    | none => some c
    | some d => if c.better d then some c else some d

/-- The state a placement leads to (rows 2 and 3). -/
def placedState (r : Record) : ReqState :=
  if r.kvCommitted + 1 < r.historyLength + r.genCommitted then .prefill else .decode

/-- The state a granted claim's request is in: a reserved copy is placed (rows 2 and 3), a prepared one enters NEXT_STATE
(rows 9 and 10), an owner in MOVING goes on where it was (row 11; the claim does not say which state that is, so the rule of
rows 2 and 3 decides: log entry 63). -/
def Claim.state (c : Claim) : ReqState :=
  if c.committed then (if c.record.state = .moving then placedState c.record else c.record.state)
  else if c.record.state = .queued then placedState c.record else c.record.nextState

/-- Ownership granted to the best claim for an ID (R60). -/
def State.grantClaims (s : State) (id : Nat) : State :=
  match s.rse.claims.find? (·.1 == id) with
  | none => s
  | some (_, _, cs) =>
    match bestClaim cs with
    | none => s.onRse fun e => { e with claims := e.claims.filter (·.1 != id) }
    | some c =>
      let old := s.home? id
      let st := c.state
      let r := { c.record with owner := if st.away then c.node else s.node, epoch := c.epoch + 1, state := st,
                               nextState := .free, moveDest := 0, movePhase := 0,
                               mirrorSeq := (old.map (·.r.mirrorSeq)).getD c.record.mirrorSeq,
                               mirrored := s.mirrors id }
      let h := s.homeTimes (match old with
        | some h => { h with r := r, checkOk := true, deferred := none }
        | none => homeOf r []) (s.ttlOf r.ttlTicks)
      if epochFull c.record then s.finalise { h with r := { r with epoch := c.epoch } } .failed .epochExhausted c.node
      else s.change h (.repair (cs.map (·.node)))

/-- A home record rebased: version and epoch raised, its pages freed once that is recorded (R223). -/
def State.rebase (s : State) (h : HomeRec) : State :=
  if epochFull h.r then s.finalise h .failed .epochExhausted s.node else
    let cur := s.reg R.PHS_POLICY_CURRENT
    let floor := s.reg R.PHS_FLOOR_FLOOR
    let v := if (floor + 2 ^ 32 - cur) % 2 ^ 32 < 2 ^ 31 then floor else cur
    s.change { h with r := { h.r with kvCommitted := 0, policyVersion := v, epoch := h.r.epoch + 1 }, deferred := none } .rebase

/-- A record in QUEUED, PAUSED or PARKED lies below FLOOR by more than STALENESS_MAX (R223). -/
def State.mustRebase (s : State) (r : Record) : Bool :=
  decide (r.state = .queued ∨ r.state = .paused ∨ r.state = .parked)
    && decide (0 < (s.reg R.PHS_FLOOR_FLOOR + 2 ^ 33 - r.policyVersion - r.stalenessMax) % 2 ^ 32
      ∧ (s.reg R.PHS_FLOOR_FLOOR + 2 ^ 33 - r.policyVersion - r.stalenessMax) % 2 ^ 32 < 2 ^ 31)

/-- A slot given back, with its mirror (R34, R67). -/
def State.reclaim (s : State) (h : HomeRec) : State :=
  (s.dequeue h.r.id).change { h with r := { h.r with state := .free }, deferred := none } .reclaim

/-- A deferred change is made again (R35). -/
def execDeferredChangeRetry (id : Nat) (s : State) : Host.Outcome State Fault Refusal :=
  if s.pendingChange id then .next s
  else match s.home? id with
  | none => .next (s.grantClaims id)
  | some h =>
    if !h.checkOk then .next s
    else match h.deferred with
    | some (.recover _) => .next (s.recoverCommit h)
    | some (.restart _) => .next (s.restartCommit h)
    | some .rebase => .next (s.rebase h)
    | some .reclaim => .next (s.reclaim h)
    | _ => .next (s.grantClaims id)

/-! ### The host's commands at the home (R64, R66, R68, R330, R334, R440) -/

/-- A hand-back of the request is in MOVING, as its home knows (R66): a turn that ended with PAUSE_AT_END, a copy this node
has prepared for it or moves to itself, or a commit of a move to this node that waits for the deputy. -/
def State.handbackPending (s : State) (id : Nat) : Bool :=
  (s.rse.mirrorOut.any fun p => p.id == id && match p.change with
    | .move _ d => d == s.node
    | _ => false)
  || ((s.home? id).any fun h => decide (h.r.state = .moving) && h.r.pauseAtEnd && h.r.movePhase == 0)
  || ((s.work? id).any fun w => decide ((w.r.nextState = .paused ∨ w.r.nextState = .parked)
      ∧ (w.status = .prepared ∨ (w.status = .owned ∧ w.r.state = .moving))))

/-- The READ of a prompt in host memory issued on its QP (R333). -/
def State.promptRead (s : State) (qpn va rkey tokens : Nat) (use : RoceUse) : Option State :=
  (qpnIndex qpn).bind fun i => s.roceIssue i ⟨use, false, va, rkey, 4 * tokens, 0, 0, [], 0⟩

/-- A RESUME whose tokens are in host memory waits for the READ of R333. -/
def State.resumeRead (s : State) (b : ResumeBlock) (tenant : Nat) (rep : ReplyTo) : State :=
  let k := s.hcp.nextRef
  let t := s.onHcp fun h => { h with nextRef := k + 1, later := h.later ++ [.resume k b tenant rep] }
  match t.promptRead b.promptQp b.promptVa b.promptRkey b.promptLength (.resumePrompt k) with
  | some t => t
  | none => s.replyTo rep .hostReadFailed []

/-- The history a RESUME's new turn starts with (R334). -/
def resumeHistory (h : HomeRec) (tokens : List Nat) : List Nat :=
  h.history.take (h.r.historyLength + h.r.genCommitted) ++ tokens

/-- History pages a RESUME's new turn needs beyond those the request has. -/
def State.resumePages (s : State) (h : HomeRec) (tokens : List Nat) : Nat :=
  ceilDiv (resumeHistory h tokens).length (pageBytes h.r.pageSize / 4) - (s.historyPages h.r.id).length

/-- The new turn of a RESUME, or the parked turn gone on with (R334, R335). -/
def State.resumeTurn (s : State) (h : HomeRec) (b : ResumeBlock) (tokens : List Nat) (rep : ReplyTo) : State :=
  let cont := decide (h.r.state = .parked) && b.promptLength == 0 && b.maxNew == 0
  if cont then s.change { h with r := { h.r with state := .queued }, deadline := none } (.resume rep)
  else
    let hist := resumeHistory h tokens
    let r := { h.r with historyLength := h.r.historyLength + h.r.genCommitted + b.promptLength, genCommitted := 0,
                        streamed := 0, stepCount := 0, maxNewTokens := b.maxNew, ttlTicks := b.ttl,
                        replyStream := b.replyStream, state := .queued,
                        lastToken := if b.promptLength = 0 then h.r.lastToken else tokens.getLastD 0 }
    match s.writeHistory r hist with
    | none => s.replyTo rep .directoryFull []
    | some s => s.change { h with r := r, history := hist, deadline := none } (.resume rep)

/-- RESUME of a PAUSED or PARKED record (R334). A record below FLOOR is rebased first (R223), where the new turn's history has
room: a RESUME that is refused for want of it changes nothing. While the rebase waits for the deputy the RESUME is held with that room
reserved; an EPOCH that cannot be raised is its answer (R56). -/
def State.resumeHome (s : State) (h : HomeRec) (b : ResumeBlock) (tokens : List Nat) (rep : ReplyTo) : State :=
  let cont := decide (h.r.state = .parked) && b.promptLength == 0 && b.maxNew == 0
  if !b.rsvdOk || 1 < b.promptSrc || 16777216 < b.promptLength || (b.maxNew == 0 && !cont) then s.replyTo rep .badParam []
  else if s.reg R.RSE_TTL_TTL_MAX < b.ttl then s.replyTo rep .ttlRange []
  else if b.promptSrc = 1 ∧ tokens.length < b.promptLength then s.resumeRead b h.r.tenant rep
  else
    if s.pendingChange h.r.id then
      (if h.heldResume.isNone then s.putHome { h with heldResume := some (rep, b, tokens) } else s.replyTo rep .badState [])
    else if h.deferred.isSome then s.replyTo rep .deputyUnreachable []
    else if !s.mustRebase h.r then s.resumeTurn h b tokens rep
    else if !cont && (s.writeHistory h.r (resumeHistory h tokens)).isNone then s.replyTo rep .directoryFull []
    else if epochFull h.r then (s.rebase h).replyTo rep .epochExhausted []
    else
      let s := s.rebase h
      match s.home? h.r.id with
      | none => s.replyTo rep .badState []
      | some k =>
        if s.pendingChange h.r.id then
          (s.reserve (resumeKey k.r.id) k.r.pageSize (if cont then 0 else s.resumePages k tokens)).putHome
            { k with heldResume := some (rep, b, tokens) }
        else if k.deferred.isSome then s.replyTo rep .deputyUnreachable []
        else s.resumeTurn k b tokens rep

/-- A PARKED record returns to QUEUED (row 13), with the version check of R223. -/
def State.unpark (s : State) (h : HomeRec) : State :=
  let s := (s.noteHome { h with r := { h.r with state := .queued } }).enqueue h.r.id
  match s.home? h.r.id with
  | some h' => if s.mustRebase h'.r then s.rebase h' else s
  | none => s

/-- A home in the generation phase with no turn in progress unparks a record at the commit of its hand-back (R219). -/
def State.unparkDue (s : State) (h : HomeRec) : State :=
  if h.r.state = .parked ∧ s.reg R.PHS_PHASE_PHASE = 0 ∧ s.reg R.PHS_PHASE_STATE = 0
      ∧ !s.pendingChange h.r.id then s.unpark h
  else s

/-- A RESUME held during a hand-back takes effect at its commit, or is refused when the move aborts (R66); a record that
was parked goes on where the home may place it (R219). -/
def State.heldResume (s : State) (id : Nat) : State :=
  match s.home? id with
  | none => s
  | some h =>
    match h.heldResume with
    | none => s.unparkDue h
    | some (rep, b, tokens) =>
      if s.handbackPending id || s.pendingChange id then s else
        let h' := { h with heldResume := none }
        let s := (s.putHome h').unreserve (resumeKey id)
        if h.r.state = .paused ∨ h.r.state = .parked then
          s.resumeHome h' b tokens rep
        else s.replyTo rep .badState []

/-- A record's 256 bytes, format 0x01 (Table 2.1), with its place in a page map. -/
def Record.bytes (r : Record) (pageHead pageCount historyHead : Nat) : List Byte :=
  let w := fun n => toBytes 8 (n % 2 ^ 64)
  let body := w r.id ++ w (r.epoch * 2 ^ 32 + r.owner * 2 ^ 16 + r.deputy)
    ++ w (r.formatVersion * 2 ^ 56 + r.state.code * 2 ^ 52 + r.nextState.code * 2 ^ 48 + r.moveDest * 2 ^ 32
      + r.movePhase * 2 ^ 30 + bit r.lc * 2 ^ 29 + bit r.coded * 2 ^ 28 + bit r.mirrored * 2 ^ 27 + bit r.pauseAtEnd * 2 ^ 26
      + bit r.cancelSeen * 2 ^ 25 + bit r.retried * 2 ^ 24 + r.restarts * 2 ^ 20 + r.pageSize * 2 ^ 18
      + r.placement * 2 ^ 16 + r.context)
    ++ w (r.tenant * 2 ^ 48 + r.queue * 2 ^ 36 + r.modelId * 2 ^ 16 + r.variantId)
    ++ w (r.policyVersion * 2 ^ 32 + r.stalenessMax * 2 ^ 24 + r.specWindow * 2 ^ 16)
    ++ w (r.historyLength * 2 ^ 32 + r.kvCommitted) ++ w (r.genCommitted * 2 ^ 32 + r.maxNewTokens)
    ++ w (r.streamed * 2 ^ 32 + r.lastToken) ++ w (pageHead * 2 ^ 38 + pageCount * 2 ^ 16)
    ++ w (historyHead * 2 ^ 38 + r.ttlTicks) ++ toBytes 16 r.replyAddr ++ w (r.replyPort * 2 ^ 48 + r.replyStream)
    ++ w (r.temperature * 2 ^ 32 + r.topP) ++ w (r.topK * 2 ^ 48 + r.repeatPenalty * 2 ^ 32 + r.mirrorSeq) ++ w r.hostTag
    ++ ((r.stopTokens ++ List.replicate 4 0xFFFFFFFF).take 4).flatMap (toBytes 4)
    ++ w (r.finalStatus.code * 2 ^ 48 + r.stepCount) ++ List.replicate 96 0
  body ++ toBytes 4 0 ++ toBytes 4 (crc32c (body ++ toBytes 4 0))

/-- A home record as QUERY_REQ answers it. -/
def State.queryBytes (s : State) (h : HomeRec) : List Byte :=
  let kv := s.listPages h.r.id
  ({ h.r with ttlTicks := s.remaining h } : Record).bytes ((kv.head?.map (·.idx)).getD 0) kv.length
    (((s.historyPages h.r.id).head?.map (·.idx)).getD 0)

/-- A command that meets a record failing its check waits while the record is restored (R41). -/
def State.commandLater (s : State) (c : FwdCmd) (tenant : Nat) (rep : ReplyTo) : State :=
  match rep with
  | .here ref => s.deliver s.node (.command c tenant ref)
  | .node n ref => s.deliver n (.command c tenant ref)

/-- A request-state command at the home (Table 2.8, R64, R66, R92, R218, R330, R440). -/
def State.homeCommand (s : State) (c : FwdCmd) (tenant : Nat) (rep : ReplyTo) : State :=
  match s.home? c.id with
  | none => s.replyTo rep .noRequest []
  | some h =>
    let r := h.r
    if !h.checkOk then s.commandLater c tenant rep
    else if r.state = .free then s.replyTo rep .noRequest []
    else if r.tenant ≠ tenant then s.replyTo rep .accessDenied []
    else match c with
    | .cancel _ =>
      match r.state with
      | .cancelled => s.replyTo rep .ok (cancelPayload .cancelled r.genCommitted)
      | .done | .failed => s.replyTo rep .alreadyDone (cancelPayload r.finalStatus r.genCommitted)
      | .prefill | .ready | .decode | .moving =>
        let h' := { h with r := { r with cancelSeen := true }, waits := h.waits ++ [.cancel rep] }
        (s.noteHome h').forwardWait h' (.cancel rep)
      | _ =>
        let s := match h.placing with
          | some (t, e) => s.sendMsg t (.placeCancel r.id e)
          | none => s
        s.finalise { h with r := { r with cancelSeen := true }, waits := h.waits ++ [.cancel rep] } .cancelled .cancelled s.node
    | .pause _ ttl =>
      if s.reg R.RSE_TTL_TTL_MAX < ttl then s.replyTo rep .ttlRange []
      else if r.state.away then
        let w := WaitCmd.pause ⟨false, ttl, some rep⟩
        let h' := { h with waits := h.waits ++ [w] }
        (s.putHome h').forwardWait h' w
      else s.replyTo rep .badState []
    | .resume b tokens =>
      if s.reg R.PHS_PHASE_STATE ≠ 0 then s.replyTo rep .admissionClosed []
      else match r.state with
      | .paused | .parked => s.resumeHome h b tokens rep
      | _ =>
        if (s.handbackPending r.id || s.pendingChange r.id) && h.heldResume.isNone then s.putHome { h with heldResume := some (rep, b, tokens) }
        else s.replyTo rep .badState []
    | .query _ => s.replyTo rep .ok (s.queryBytes h)
    | .setTtl _ ttl =>
      if r.state ≠ .paused then s.replyTo rep .badState []
      else if s.reg R.RSE_TTL_TTL_MAX < ttl then s.replyTo rep .ttlRange []
      else
        let t := if ttl = 0 then s.reg R.RSE_TTL_TTL_DEFAULT else ttl
        let s := s.noteHome { h with deadline := some (s.tick + t) }
        (s.sendMsgs (.pgTtl r.id r.epoch t) (((s.ownPages r.id).flatMap Page.holders).map (·.1)).dedup).replyTo rep .ok []
    | .move _ dest =>
      if r.owner = dest then s.replyTo rep .badParam []
      else if !decide (r.state = .ready ∨ r.state = .decode) then s.replyTo rep .badState []
      else
        let h' := { h with waits := h.waits ++ [.move dest rep] }
        (s.putHome h').forwardWait h' (.move dest rep)

/-! ### Acknowledgements of mirror writes -/

/-- A restoring write is settled: the nodes of the placement or move are told (R439). -/
def State.restoreDone (s : State) (id : Nat) (c : Change) (st : St) : State :=
  s.tellRefused id (((s.home? id).map (·.r.epoch)).getD 0) c st

/-- The home receives MIRROR_ACK from its deputy (R73); while it must resynchronise, the acknowledgement of a commit waits
(R38). -/
def execMirrorAck (src id : Nat) (w : MirrorMark) (s : State) : Host.Outcome State Fault Refusal :=
  let s := s.takeMsg src (.mirrorAck id w.seq w.epoch)
  if !s.fromDeputy src then .next s
  else match s.takePend id w.seq with
  | (none, _) => .next s
  | (some p, t) =>
    if s.rse.resyncNeeded && p.change.commits then .next (s.deliver src (.mirrorAck id w.seq w.epoch))
    else match p.change with
    | .note => .next (t.heldResume id)
    | .restore c st => .next ((t.restoreDone id c st).heldResume id)
    | _ => .next ((t.settle p).heldResume id)

/-- No MIRROR_ACK within COMMIT_US (R35, R36); a restoring write stays unsettled (R439). -/
def execMirrorAckTimeout (id seq : Nat) (s : State) : Host.Outcome State Fault Refusal :=
  match s.takePend id seq with
  | (none, _) => .next s
  | (some p, t) =>
    match p.change with
    | .restore .. => .next (s.markUnreachable (s.reg R.RSE_DEPUTY_NODE))
    | .note => .next (t.markUnreachable (s.reg R.RSE_DEPUTY_NODE))
    | c => .next (((t.markUnreachable (s.reg R.RSE_DEPUTY_NODE)).refuse id c p.prior p.next true).heldResume id)

/-- A note the deputy refused or fenced is undone (R33, R37): later writes of the record in flight start from before it, and a
record nothing has changed since goes back. A final record stays final: its outcome has been told (R71). -/
def State.undoNote (s : State) (p : MirrorPend) : State :=
  let h := s.home? p.id
  if h.any (·.r.state.final) then s
  else match s.rse.mirrorOut.find? (·.id == p.id) with
  | some q => s.onRse fun e => { e with
      mirrorOut := updateAll (fun x => x.id == p.id && x.seq == q.seq) (fun x => { x with prior := p.prior }) e.mirrorOut }
  | none => if (h.map (·.r)) = (p.next.map (·.r)) then s.revert p.id p.prior else s

/-- A mirror write the deputy refused or fenced is undone (R33, R37). -/
def State.undoWrite (s : State) (p : MirrorPend) : State :=
  match p.change with
  | .note => s.undoNote p
  | c => (s.refuse p.id c p.prior p.next false).heldResume p.id

/-- The home receives MIRROR_REFUSED from its deputy (R33, R73). -/
def execMirrorRefused (src id : Nat) (w : MirrorMark) (s : State) : Host.Outcome State Fault Refusal :=
  let s := s.takeMsg src (.mirrorRefused id w.seq w.epoch)
  if !s.fromDeputy src then .next s
  else match s.takePend id w.seq with
  | (none, _) => .next s
  | (some p, t) =>
    let t := (t.onRse fun e => { e with bind := .refused }).setReg R.RSE_DEPUTY_BOUND 0
    match p.change with
    | .restore c st => .next (t.restoreDone id c st)
    | _ => .next (t.undoWrite p)

/-- The home receives MIRROR_FENCED from its deputy (R37): a fenced restoring write means that the deputy has answered at the refused epoch,
and the change is recorded after all (R439). -/
def execMirrorFenced (src id : Nat) (w : MirrorMark) (s : State) : Host.Outcome State Fault Refusal :=
  let s := s.takeMsg src (.mirrorFenced id w.seq w.epoch)
  if !s.fromDeputy src then .next s
  else match s.takePend id w.seq with
  | (none, _) => .next s
  | (some p, t) =>
    match p.change with
    | .restore c _ => .next ((t.record { p with change := c }).heldResume id)
    | _ => .next (t.undoWrite p)

/-! ### Ownership queries (R36, R58, R60) -/

/-- Claims for an ID are being gathered (R60). -/
def State.claimsOpen (s : State) (id : Nat) : Bool := s.rse.claims.any (·.1 == id)

/-- A deputy's answer to an ownership query, which fences the ID. -/
def State.fenceAnswer (s : State) (src id : Nat) : State :=
  match s.rse.mirrors.find? (·.r.id == id) with
  | none => s
  | some m => (s.onRse fun e => { e with mirrors := upsert (·.r.id == id) { m with fenced := some m.r.epoch } e.mirrors }).sendMsg src
      (.ownReply id m.r.epoch m.r.owner)

/-- A deputy's probe of a home has failed: the queries that wait for it are answered (R36). -/
def State.probeFailed (s : State) (home : Nat) : State :=
  let ps := s.rse.probes.filter fun p => idHome p.2 == home
  ps.foldl (fun s p => s.fenceAnswer p.1 p.2)
    (s.onRse fun e => { e with probes := e.probes.filter fun p => idHome p.2 != home })

/-- An ownership query at a deputy (R36). It answers while the channel to the home stands unreachable; else it probes the home and
answers once the probe has failed: refused with ST_NODE_RESETTING, its channel declared unreachable, or still unanswered at the
querier's repeat of the query, which is its timer (DESIGN CHOICE, log entry 26). -/
def State.deputyQuery (s : State) (src id : Nat) : State :=
  let home := idHome id
  if s.isUnreachable home then s.fenceAnswer src id
  else if s.rse.probes.contains (src, id) then (s.markUnreachable home).probeFailed home
  else (s.onRse fun e => { e with probes := e.probes ++ [(src, id)] }).sendMsg home .probe

/-- An ownership query at the home, or at a deputy. -/
def State.ownQuery (s : State) (src id epoch : Nat) (committed : Bool) (rec : Record) : State :=
  if s.isHome id then
    if s.rse.resyncNeeded && s.mirrors id then
      s.onRse fun e => { e with heldQueries := upsert (fun q => q.1 == src && q.2.1 == id) (src, id, epoch, committed) e.heldQueries }
    else if s.pendingChange id then s
    else if (s.home? id).any (!·.checkOk) then s.deliver src (.ownQuery id epoch committed rec)
    else match s.home? id with
    | none => s.addClaim id ⟨src, epoch, committed, rec⟩
    | some h =>
      if h.r.epoch < epoch || s.claimsOpen id then s.addClaim id ⟨src, epoch, committed, rec⟩
      else s.sendMsg src (.ownReply id h.r.epoch h.r.owner)
  else if s.flag R.RSE_MIRROR_HOME_VALID && s.reg R.RSE_MIRROR_HOME_HOME == idHome id then s.deputyQuery src id
  else s

/-- OWN_QUERY arrives. -/
def execOwnQuery (src id epoch : Nat) (committed : Bool) (rec : Record) (s : State) : Host.Outcome State Fault Refusal :=
  let s := s.takeMsg src (.ownQuery id epoch committed rec)
  .next (if s.readable rec then s.ownQuery src id epoch committed rec
    else s.nakWith src (.ownQuery id epoch committed rec) .formatUnsupported)

/-- The claim window of an ID ends. -/
def execClaimWindowExpiry (id : Nat) (s : State) : Host.Outcome State Fault Refusal :=
  match s.rse.claims.find? (·.1 == id) with
  | some (_, t, _) => .next (if t + s.reg R.RSE_LIMITS_CLAIM_WINDOW ≤ s.tick then s.grantClaims id else s)
  | none => .next s

/-! ### Resynchronisation (R38) -/

/-- One ID settled from the deputy's copy: a copy that is taken goes on at the home as its own (R38); of a record the home has
released, the deputy releases the mirror. -/
def State.resyncItem (s : State) (i : ResyncItem) : State :=
  match s.home? i.r.id with
  | some h =>
    if i.fenced || h.r.epoch < i.r.epoch || !h.checkOk then
      s.takeHome { h with r := i.r, history := i.history, checkOk := true, placing := none, deferred := none } 0
    else s
  | none =>
    if i.fenced || s.rse.rebuild then s.takeHome (homeOf i.r i.history) 0
    else s.sendMsg (s.reg R.RSE_DEPUTY_NODE) (.mirrorWrite i.r.id (i.r.mirrorSeq + 1) i.r.epoch none [])

/-- The deputy lacks a home record, or has it at a lower epoch (R38). -/
def lacking (items : List ResyncItem) (h : HomeRec) : Bool := !items.any fun i => i.r.id == h.r.id && h.r.epoch ≤ i.r.epoch

/-- A home record that fails its check has no valid mirror: RECORD_CORRUPT, and the request is FAILED (R41). -/
def State.recordLost (s : State) (h : HomeRec) : State :=
  (s.post .recordCorrupt h.r.context (formQ .recordCorrupt s.node h.r.genCommitted h.r.id)).finalise { h with checkOk := true }
    .failed .recordCorrupt h.r.owner

/-- The deputy's answer: every ID is settled, what the deputy lacks is copied, or every record to a deputy newly bound, a record
without a copy that verifies is lost (R41), and the queries held are answered. -/
def execResyncReply (src : Nat) (adopted : Bool) (items : List ResyncItem) (s : State) : Host.Outcome State Fault Refusal :=
  let s := s.takeMsg src (.resyncReply adopted items)
  if !s.fromDeputy src then .next s
  else if items.any (!s.readable ·.r) then .next (s.nakWith src (.resyncReply adopted items) .formatUnsupported)
  else if adopted then .next s.adoptedAway
  else
    let s := items.foldl State.resyncItem s
    let bad := s.rse.homes.filter fun h => !h.checkOk && lacking items h
    let held := s.rse.heldQueries
    let s := s.onRse fun e => { e with resyncNeeded := false, rebuild := false, heldQueries := [] }
    let s := s.copyHomes (s.rse.homes.filter fun h => h.checkOk && (decide (s.rse.bind = .copying) || lacking items h))
    let s := bad.foldl State.recordLost s
    .next (held.foldl (fun s q => match s.home? q.2.1 with
      | some h => s.ownQuery q.1 q.2.1 q.2.2.1 q.2.2.2 h.r
      | none => s) s)

/-- The request to resynchronise went unanswered and is repeated (R36, R38). -/
def execResyncRetry (s : State) : Host.Outcome State Fault Refusal :=
  if s.rse.resyncNeeded && s.flag R.RSE_DEPUTY_VALID then
    .next ((s.markUnreachable (s.reg R.RSE_DEPUTY_NODE)).sendMsg (s.reg R.RSE_DEPUTY_NODE) .resync)
  else .next s

/-- A deputy serves a resynchronisation: its copies of the home's records, whose fences end (R36, R38). -/
def State.serveResync (s : State) (src : Nat) : State :=
  if s.rse.adopted.contains src then s.sendMsg src (.resyncReply true [])
  else
    let ms := s.rse.mirrors.filter fun m => idHome m.r.id == src
    let items := ms.map fun m => (⟨{ m.r with ttlTicks := m.r.ttlTicks - (s.tick - m.tickAt) }, m.history, m.fenced.isSome⟩ : ResyncItem)
    (s.onRse fun e => { e with mirrors := updateAll (fun m => idHome m.r.id == src) (fun m => { m with fenced := none }) e.mirrors }).sendMsg
      src (.resyncReply false items)

/-- A home record that fails its check: asked of the deputy again while a deputy mirrors it, be it out of reach for now, or
FAILED where no valid mirror exists (R41). -/
def execRecordRestore (id : Nat) (s : State) : Host.Outcome State Fault Refusal :=
  match s.home? id with
  | none => .next s
  | some h =>
    if h.checkOk then .next s
    else if s.mirrors id && h.r.mirrored && decide (s.rse.bind ≠ .none ∧ s.rse.bind ≠ .refused) then
      .next (s.sendMsg (s.reg R.RSE_DEPUTY_NODE) .resync)
    else .next (s.recordLost h)

/-! ### Placement (R45) -/

/-- PLACE_ACCEPT at the home. -/
def execPlaceAccept (src id epoch : Nat) (s : State) : Host.Outcome State Fault Refusal :=
  let s := s.takeMsg src (.placeAccept id epoch)
  match s.home? id with
  | none => .next (s.sendMsg src (.placeCancel id epoch))
  | some h =>
    if !h.checkOk || s.pendingChange id then .next (s.deliver src (.placeAccept id epoch))
    else if h.placing ≠ some (src, epoch) ∨ h.r.state ≠ .queued ∨ h.r.epoch ≠ epoch then .next (s.sendMsg src (.placeCancel id epoch))
    else if epochFull h.r then .next ((s.sendMsg src (.placeCancel id epoch)).finalise h .failed .epochExhausted s.node)
    else .next (s.change { h with r := { h.r with owner := src, epoch := epoch + 1, state := placedState h.r } } (.place src))

/-- PLACE_REFUSED at the home. -/
def execPlaceRefused (src id epoch : Nat) (status : St) (s : State) : Host.Outcome State Fault Refusal :=
  let s := s.takeMsg src (.placeRefused id epoch status)
  match s.home? id with
  | none => .next s
  | some h => .next (if !h.checkOk then s.deliver src (.placeRefused id epoch status)
      else if h.placing = some (src, epoch) then (s.bump R.SCH_PLACE_STATS_REFUSED).dropPlacing id src epoch else s)

/-- PLACE_US expires without PLACE_ACCEPT: the target has not answered (R36, R45). A placement whose commit waits for the
deputy has been accepted. -/
def execPlaceTimeout (id : Nat) (s : State) : Host.Outcome State Fault Refusal :=
  match s.home? id with
  | none => .next s
  | some h =>
    match h.placing with
    | some (t, e) => .next (if h.r.state = .queued ∧ h.checkOk = true ∧ s.pendingChange id = false then
        (s.markUnreachable t).dropPlacing id t e else s)
    | none => .next s

/-! ### The owner's reports (R48, R61, R70) -/

/-- STEP_NOTE at the home; a turn that ended with DONE is final with FINAL (row 6, R70). -/
def execStepNote (src : Nat) (n : StepNote) (s : State) : Host.Outcome State Fault Refusal :=
  let s := s.takeMsg src (.stepNote n)
  match s.home? n.id with
  | none => .next s
  | some h =>
    if !h.checkOk || s.pendingChange n.id then .next (s.deliver src (.stepNote n))
    else if h.r.epoch ≠ n.epoch ∨ h.r.owner ≠ src ∨ !h.r.state.away then .next s
    else
      let (hist, s) := if n.gen = 0 then (h.history, s) else s.noteToken h.history (h.r.historyLength + n.gen - 1) n.lastToken
      let r := { h.r with genCommitted := n.gen, kvCommitted := n.kv, lastToken := n.lastToken, stepCount := n.stepCount,
                          streamed := n.streamed, state := if n.state = .done then h.r.state else n.state }
      .next ((s.noteHome { h with r := r, history := hist }).sendMsg src (.stepAck n.id n.epoch n.gen))

/-- LOST_STEP at the home. -/
def execLostStep (src id epoch : Nat) (s : State) : Host.Outcome State Fault Refusal :=
  let s := s.takeMsg src (.lostStep id epoch)
  match s.home? id with
  | none => .next s
  | some h => .next (if !h.checkOk || s.pendingChange id then s.deliver src (.lostStep id epoch)
      else if h.r.epoch = epoch ∧ h.r.owner = src ∧ h.r.state.away then s.ownerLost id else s)

/-- FINAL at the home. -/
def execFinal (src : Nat) (m : FinalMsg) (s : State) : Host.Outcome State Fault Refusal :=
  let s := s.takeMsg src (.final m)
  match s.home? m.id with
  | none => .next s
  | some h =>
    if !h.checkOk then .next (s.deliver src (.final m))
    else if h.r.epoch ≠ m.epoch ∨ h.r.owner ≠ src ∨ !h.r.state.away then .next s
    else .next (s.finalise { h with r := { h.r with genCommitted := m.gen, streamed := m.streamed } } m.state m.status src)

/-- MOVE_PHASE cleared in a record whose source's release no longer comes (R55). -/
def State.clearMovePhase (s : State) (h : HomeRec) : State :=
  s.noteHome { h with r := { h.r with movePhase := 0, moveDest := 0 } }

/-- The source of a committed move is lost: MOVE_PHASE clears (R55), the MOVE that led to this owner has its outcome, and a PAUSE
the source had not returned goes to the new owner (R438, R440). -/
def State.sourceLost (s : State) (h : HomeRec) : State :=
  let s := h.waits.foldl (fun s w =>
    match w with
    | .move d rep => if d = h.r.owner then s.endHostWait h.r.id rep .ok [] else s
    | .pause _ => s.forwardWait h w
    | .cancel _ => s) s
  match s.home? h.r.id with
  | some k => s.clearMovePhase k
  | none => s

/-- The home's sweep after the loss of a node (R55, R61). -/
def execLossSweep (node : Nat) (s : State) : Host.Outcome State Fault Refusal :=
  let s := s.markUnreachable node
  let s := (s.rse.homes.filter fun h => h.r.movePhase == 2 && h.moveSrc == node && h.checkOk).foldl State.sourceLost s
  .next (s.ownersLost ((s.rse.homes.filter fun h => h.r.owner == node && h.r.state.away).map (·.r.id)))

/-! ### Moves at the home (R54 to R56) -/

/-- A commit of this move waits for the deputy already. -/
def State.committing (s : State) (src id dest : Nat) : Bool :=
  s.rse.mirrorOut.any fun p => p.id == id && match p.change with
    | .restore c _ => decide (c = .move src dest)
    | c => decide (c = .move src dest)

/-- The record of a move's commit at the home: the destination's, at the next epoch; of a hand-back the home's own in NEXT_STATE
(R43, R54). -/
def State.committedRec (s : State) (h : HomeRec) (src dest : Nat) : HomeRec :=
  let n := { h with r := { h.r with owner := dest, epoch := h.r.epoch + 1, moveDest := dest, movePhase := 1,
                                    state := if h.r.state = .ready ∨ h.r.state = .moving then .decode else h.r.state } }
  match s.handbackCopy h.r.id dest with
  | some w => s.handbackRec n w src
  | none => n

/-- MV_COMMIT_REQ at the home; a deputy that has not adopted the home records no commit. -/
def State.commitReq (s : State) (src id epoch dest : Nat) : State :=
  let no := fun (s : State) (st : St) => s.refuseMove src dest id epoch st
  if !s.isHome id then s.sendMsg src (.mvAborted id epoch .nodeUnreachable)
  else match s.home? id with
  | none => no s .epochStale
  | some h =>
    if s.committing src id dest then s
    else if !h.checkOk || s.pendingChange id then s.deliver src (.mvCommitReq id epoch dest)
    else if h.r.owner ≠ src ∨ h.r.epoch ≠ epoch then no s .epochStale
    else if h.r.cancelSeen then no s .cancelled
    else if epochFull h.r then no s .epochExhausted
    else s.change (s.committedRec h src dest) (.move src dest)

/-- MV_COMMIT_REQ arrives. -/
def execMvCommitReq (src id epoch dest : Nat) (s : State) : Host.Outcome State Fault Refusal :=
  .next (((s.takeMsg src (.mvCommitReq id epoch dest)).commitReq src id epoch dest).heldResume id)

/-- MV_RELEASED at the home. -/
def execMvReleased (src id epoch : Nat) (s : State) : Host.Outcome State Fault Refusal :=
  let s := s.takeMsg src (.mvReleased id epoch)
  match s.home? id with
  | none => .next s
  | some h =>
    if !h.checkOk then .next (s.deliver src (.mvReleased id epoch))
    else if h.r.movePhase = 2 ∧ h.r.epoch = epoch ∧ h.moveSrc = src then .next (s.clearMovePhase h)
    else .next s

/-- A command NOT_OWNER returned, forwarded to the owner (R441). -/
def State.forwardKind (s : State) (h : HomeRec) (k : FwdKind) : State :=
  s.sendMsg h.r.owner (match k with
    | .cancel => .cancelFwd h.r.id h.r.epoch
    | .pause p => .fwdPause h.r.id h.r.epoch p
    | .move d rep => .fwdMove h.r.id h.r.epoch d rep)

/-- A command NOT_OWNER returned for a record the home owns again: it acts on it as Table 2.8, R64 and R440 have it for such a
state (R441). A cancel has been applied by then. -/
def State.returnedKind (s : State) (id : Nat) (k : FwdKind) : State :=
  match k with
  | .cancel => s
  | .pause p => match p.reply with
    | some rep => s.endHostWait id rep .badState []
    | none => s
  | .move _ rep => s.endHostWait id rep .badState []

/-- NOT_OWNER at the home (R441). -/
def execNotOwner (src id epoch : Nat) (kind : FwdKind) (s : State) : Host.Outcome State Fault Refusal :=
  let s := s.takeMsg src (.notOwner id epoch kind)
  match s.home? id with
  | none => .next s
  | some h =>
    if !h.checkOk || s.pendingChange id then .next (s.deliver src (.notOwner id epoch kind))
    else if !h.r.state.away then .next (s.returnedKind id kind)
    else if h.r.owner ≠ src then .next (s.forwardKind h kind)
    else if epoch ≠ 0 ∧ epoch < h.r.epoch then .next (s.putHome { h with resend := h.resend ++ [kind] })
    else .next (s.ownerLost id)

/-- The home forwards again what an owner without MV_COMMITTED answered NOT_OWNER to. -/
def execNotOwnerRetryExpiry (id : Nat) (s : State) : Host.Outcome State Fault Refusal :=
  match s.home? id with
  | none => .next s
  | some h => .next (if h.r.state.away && h.checkOk && !s.pendingChange id then h.resend.foldl (fun s k => s.forwardKind h k) (s.putHome { h with resend := [] }) else s)

/-! ### Times (R65 to R67) -/

/-- A PAUSED record's time to live ends. A change of the record that waits for the deputy has come first (R66). -/
def execTtlExpiry (id : Nat) (s : State) : Host.Outcome State Fault Refusal :=
  match s.home? id with
  | none => .next s
  | some h =>
    if h.r.state = .paused ∧ h.deadline.any (fun d => d ≤ s.tick) ∧ h.checkOk = true ∧ s.pendingChange id = false then
      let s := s.freeKv id h.r.epoch
      let s := (s.post .requestExpired h.r.context (formQ .ok s.node h.r.genCommitted id)).notice h.r .requestExpired .ok
        h.r.genCommitted
      .next (s.reclaim { h with deadline := none })
    else .next s

/-- A tombstone's hold ends. -/
def execTombstoneExpiry (id : Nat) (s : State) : Host.Outcome State Fault Refusal :=
  match s.home? id with
  | none => .next s
  | some h => .next (if h.checkOk && h.finalAt.any (fun t => t + s.reg R.RSE_LIMITS_TOMBSTONE_TICKS ≤ s.tick) && decide (h.r.state ≠ .free)
      then s.reclaim h else s)

/-- The oldest tombstone, by the tick it became final. -/
def oldestFinal : List HomeRec → Option HomeRec
  | [] => none
  | h :: hs =>
    match h.finalAt, oldestFinal hs with
    | none, o => o
    | some _, none => some h
    | some t, some o => if t ≤ o.finalAt.getD 0 then some h else some o

/-- A directory slot is free; where none is, the oldest tombstone is given back first (R67). -/
def State.freeSlot (s : State) : Bool × State :=
  if s.recordsUsed < 1048576 then (true, s)
  else match oldestFinal s.rse.homes with
    | none => (false, s)
    | some h =>
      let s := s.reclaim h
      (s.recordsUsed < 1048576, s)

end Sys2Proof.Machine
end

