-- ==== Sys2Proof/Machine/Migrate.lean ====
section
/-! DEFINITION. Pages between tiers and nodes (sections 3.8 to 3.10): migration, eviction, recall, Umber pools, lost pages,
write-through and parity, rebuilding. -/

namespace Sys2Proof.Machine

/-! ### What travels with a copy (R53) -/

/-- A page entry as it travels with MV_PREPARE or PLACE. At a placement the home's own pages are fetched (log entry 15). -/
def State.pageRef (s : State) (place : Bool) (p : Page) : PageRef :=
  let base := fun (tier node index : Nat) =>
    (⟨p.kind.code, p.layer, p.firstPos, tier, node, index, p.pageSize, p.group, p.memberNo, p.copyNode, p.copyIndex, p.sealed⟩ : PageRef)
  match p.loc with
  | .t1 n i => base 1 n i
  | .t2of n i => base 2 n i
  | .t2 _ _ => base 2 s.node p.idx
  | _ => if place then base 2 s.node p.idx else base 0 s.node ((s.frameOf p).getD 0)

/-- PLACE's contents for a home record. -/
def State.placeMsg (s : State) (h : HomeRec) : CopyMsg :=
  { r := h.r, pages := (s.listPages h.r.id).map (s.pageRef true), history := h.history.take h.r.historyLength,
    genTokens := (h.history.drop h.r.historyLength).take h.r.genCommitted, prefixKey := h.prefixKey, prefixLen := h.prefixLen }

/-- MV_PREPARE sent: the pages are on T1, on T2 or to be pulled from T0. A move to the node itself has nothing to
prepare and goes on to its commit (log entry 18). -/
def State.sendPrepare (s : State) (w : Work) (mv : MoveOut) : State :=
  if mv.dest = s.node then
    (s.putWork { w with move := some { mv with phase := .committing } }).sendMsg (s.homeNode w.r)
      (.mvCommitReq w.r.id w.r.epoch mv.dest)
  else
    (s.putWork { w with move := some { mv with phase := .preparing } }).sendMsg mv.dest
      (.mvPrepare ⟨w.r, (s.listPages w.r.id).map (s.pageRef false), w.history, w.genTokens, w.prefixKey, w.prefixLen⟩)

/-- A migration of one of a request's pages is running. -/
def State.migratingReq (s : State) (id : Nat) : Bool := (s.kvPages id).any (·.migrating)

/-- The eviction before a hand-back or park is complete: MV_PREPARE goes out. Shared pages never leave T0 (R90). -/
def State.evicted (s : State) (id : Nat) : State :=
  match s.work? id with
  | none => s
  | some w =>
    match w.move with
    | some mv =>
      if mv.phase = .evicting ∧ !(s.kvPages id).any (fun p => p.loc.frame?.isSome || p.migrating) then s.sendPrepare w mv else s
    | none => s

/-! ### Lost pages (R99) -/

/-- PAGE_LOST posted for a page. -/
def State.postLost (s : State) (p : Page) : State :=
  (s.bump R.PGE_MIGRATE_STATS_LOST).post .pageLost (s.reqCtx p.req) (formP .ok p.layer p.firstPos p.req)

/-- The lowest Ochre node in reach that none of a list names (R102). -/
def State.spareOchre (s : State) (used : List Nat) : Option Nat := (s.ochre.filter fun n => s.reachable n && !used.contains n).min?

/-- A page that cannot be rebuilt: the home restarts the request it was recovering (R63, R102); the owner's step fails, and a
home that owns the request drops its KV (R99). -/
def State.rebuildFailed (s : State) (id : Nat) (entry : Option Nat) : State :=
  let s := s.onPge fun g => { g with rebuilds := g.rebuilds.filter (·.page.req != id) }
  match entry, s.work? id, s.home? id with
  | some _, some _, _ => s.loseOwned id
  | some _, none, some h => (s.freeKv id h.r.epoch).noteHome { h with r := { h.r with kvCommitted := 0 } }
  | none, _, some h => if h.recovering then s.restartCommit h else s
  | _, _, none => s

/-- The rebuilding of a lost member begins: the other members and the parity are fetched. -/
def State.startRebuild (s : State) (epoch : Nat) (p : Page) (left : List (Nat × Nat)) (entry : Option Nat) : State :=
  let n := s.pge.nextRebuild
  match s.spareOchre (left.map (·.1)) with
  | none => s.rebuildFailed p.req entry
  | some target =>
    let s := s.onPge fun g => { g with
      rebuilds := g.rebuilds ++ [⟨n, p, left, [], target, entry, left.map (·.1)⟩]
      nextRebuild := n + 1 }
    left.foldl (fun s h => s.sendMsg h.1 (.pgFetch p.req epoch h.2 (2 ^ 26 + n))) s

/-- A rebuilt page's node does not take it: it is offered to the next that holds no member of the group (R102). -/
def State.retarget (s : State) (b : Rebuild) : State :=
  let used := b.target :: b.used
  match s.spareOchre used with
  | none => s.rebuildFailed b.page.req b.entry
  | some n =>
    let s := s.onPge fun g => { g with rebuilds := upsert (·.num == b.num) { b with target := n, used := used } g.rebuilds }
    if b.left.isEmpty then
      s.sendMsg n (.migrate (2 ^ 26 + b.num) { b.page with foreign := false, dataCrc := crc32c b.acc, copyIndex := 0 } b.acc)
    else s

/-- A lost page of a coded request that its owner holds: its T1 copy takes its place where it has one, else it is
rebuilt from its group. -/
def State.rebuildOwn (s : State) (epoch : Nat) (p : Page) : State :=
  if p.loc.tier = 0 ∧ p.copyIndex ≠ 0 then
    (s.invalidate p.idx).putPage { p with loc := .t1 p.copyNode p.copyIndex, headerOk := true, migrating := false }
  else
    let others := (s.kvPages p.req).filter fun q => q.group == p.group && q.idx != p.idx && q.copyIndex != 0
    let parity := if p.kind = .parity then [] else
      [((((s.parityPages p.req).find? (·.group == p.group)).bind (·.loc.remote?)).map (·.1) |>.getD (s.parityNode p.group),
        2 ^ 26 + p.group)]
    s.startRebuild epoch p (others.map (fun q => (q.copyNode, q.copyIndex)) ++ parity) (some p.idx)

/-- A page is lost. PAGE_LOST is posted once for it, when it is found. An owner whose move is past the eviction, and a node whose copy of
the request is not the owner's yet, act on the loss once the node owns the request and no move runs. -/
def State.losePage (s : State) (idx : Nat) : State :=
  match s.page? idx with
  | none => s
  | some p =>
    let asker := (s.migration? idx).bind (·.asker)
    let s := (s.endMigration idx).refuseAsker asker
    let s := if p.headerOk then s.postLost p else s
    if p.foreign then s.freePage idx
    else if p.kind = .history then
      let keep := s.flag R.RSE_DEPUTY_BOUND
      s.onRse fun e => { e with homes := updateAll (fun h => h.r.id == p.req) (fun h => { h with historyOk := keep }) e.homes }
    else match s.work? p.req with
    | some w =>
      if w.status ≠ .owned ∨ w.move.any (fun m => decide (m.phase ≠ .evicting)) then
        s.putPage { p with headerOk := false, migrating := false }
      else if w.r.coded then (s.putPage { p with migrating := false }).rebuildOwn w.r.epoch { p with migrating := false }
      else s.loseOwned p.req
    | none =>
      match s.home? p.req with
      | some h =>
        if h.r.coded then s.rebuildOwn h.r.epoch p
        else
          let s := s.freeKv p.req h.r.epoch
          s.noteHome { h with r := { h.r with kvCommitted := 0 } }
      | none => s.freePage idx

/-- Several pages are lost. -/
def State.losePages (s : State) : List Nat → State
  | [] => s
  | i :: is => (s.losePage i).losePages is

/-- A request's pages found lost before its owner could act on the loss are dealt with (R99, R435). -/
def State.dealLost (s : State) (id : Nat) : State := s.losePages (((s.kvPages id).filter (!·.headerOk)).map (·.idx))

/-- Pages found lost together: each is named by a PAGE_LOST of its own, though the first may take its request's others along. -/
def State.loseTogether (s : State) (ps : List Page) : State :=
  ps.foldl (fun s p => if (s.page? p.idx).any fun x => x.req == p.req then s.losePage p.idx else s.postLost p) s

/-- A PREFIX page that is lost takes every page shared from it along. -/
def State.losePageAll (s : State) (idx : Nat) : State :=
  match s.page? idx with
  | some p =>
    if p.kind = .shared then
      ((s.pge.pages.filter fun q => decide (q.loc = .sharedOf idx)).map (·.idx)).foldl State.losePage s |>.freePage idx
    else s.losePage idx
  | none => s

/-! ### Targets (R96, R98, R108, R109) -/

/-- The T1 node of a page without coding (R108); none while N is 0. -/
def State.t1Node (s : State) (id first : Nat) : Option Nat :=
  let n := s.reg R.PGE_OCHRE_CTRL_COUNT
  if n = 0 then none else
    let b := crc32c (toBytes 8 id) % n
    some (s.reg (R.PGE_OCHRE_NODE ((b + first / s.reg R.MZT_SPREAD_SPAN_TOKENS) % n)))

/-- A slot of an Umber pool is taken. -/
def State.slotTaken (s : State) (u k : Nat) : Bool :=
  (s.pge.pages.any fun p => decide (p.loc = .t2 u k)) || s.pge.migrations.any fun m => decide (m.target = .slot u k)

/-- A free slot of a VALID pool: the lowest pool that has one, its lowest slot. -/
def State.umberSlot (s : State) : Option (Nat × Nat) :=
  (List.range 16).findSome? fun u =>
    if s.flag (R.PGE_UMBER_CTRL_VALID u) then
      ((List.range (min (s.reg (R.PGE_UMBER_SIZE_SLOTS u)) (s.pge.pages.length + s.pge.migrations.length + 1))).find? fun k =>
        !s.slotTaken u k).map fun k => (u, k)
    else none

/-- A migration is over: the entry invalidated and switched to its new location, the old frame or slot free with it. While a query
that runs reads the old location, the switch waits and the page stays MIGRATING (R81, R93, R94). -/
def State.switchPage (s : State) (p : Page) (loc : PageLoc) : State :=
  if s.beingRead p.idx then ((s.invalidate p.idx).putPage { p with migrating := true }).onPge fun g => { g with
    switches := upsert (·.1 == p.idx) (p.idx, loc) g.switches }
  else (((s.invalidate p.idx).putPage { p with loc := loc, migrating := false }).endMigration p.idx).watermark.bump
    R.PGE_MIGRATE_STATS_MIGRATED

/-- The pages whose freeing or switch has waited for a query's reads, once no query that runs reads them (R81, R94, R122); with the
last page freed at its deadline goes the event that names them (R92). -/
def State.settlePages (s : State) : State :=
  let s := s.freePages ((s.pge.pages.filter fun p => p.freeing && !s.beingRead p.idx).map (·.idx))
  let s := (s.pge.switches.filter fun x => !s.beingRead x.1).foldl (fun s x =>
    match s.page? x.1 with
    | some p => s.switchPage p x.2
    | none => s) s
  let gone := fun (x : Nat × Nat) => !(s.heldPages x.1).any (·.freeing)
  (s.pge.orphaned.filter gone).foldl (fun s x => s.postOrphan x.1 x.2) (s.onPge fun g => { g with
    orphaned := g.orphaned.filter fun x => !gone x })

/-- A migration recorded and its page marked. -/
def State.addMigration (s : State) (p : Page) (m : Migration) : State :=
  ((s.putPage { p with migrating := true }).onPge fun g => { g with migrations := upsert (·.idx == m.idx) m g.migrations }).watermark

/-- The queue pair of an Umber pool. -/
def State.umberQp (s : State) (u : Nat) : Nat := (qpnIndex (s.reg (R.PGE_UMBER_CTRL_QP u))).getD 16384

/-- A page's header and bytes written to an Umber slot (R98). -/
def State.writeUmberSlot (s : State) (p : Page) (u k : Nat) (data : List Byte) : Option State :=
  let key := s.reg (R.PGE_UMBER_SIZE_RKEY u)
  let op := fun (va : Nat) (d : List Byte) => (⟨.pageOut p.idx, true, va, key, d.length, 0, 0, d, 0⟩ : RoceOp)
  match s.roceIssue (s.umberQp u) (op (s.reg (R.PGE_UMBER_HDR_HDR_ADDR u) + 64 * k) p.header) with
  | none => none
  | some t => t.roceIssue (s.umberQp u) (op (s.reg (R.PGE_UMBER_DATA_DATA_ADDR u) + 65536 * k) data)

/-- A page written to an Umber slot, with its header; none where no pool takes it. -/
def State.toT2 (s : State) (p : Page) (why : MigWhy) (retried : Bool) : Option State :=
  match s.umberSlot with
  | none => none
  | some (u, k) =>
    let data := s.pageData p
    let p := { p with dataCrc := crc32c data }
    (s.addMigration p ⟨p.idx, .slot u k, why, retried, none⟩).writeUmberSlot p u k data

/-- A page of a pool that is released is read for its slot in another pool, which it holds from here on (R98). -/
def State.toPool (s : State) (p : Page) (retried : Bool) : State :=
  match p.loc, s.umberSlot with
  | .t2 u k, some (v, j) =>
    ((s.addMigration p ⟨p.idx, .slot v j, .poolRelease, retried, none⟩).roceIssue (s.umberQp u)
      ⟨.pageMove p.idx, false, s.reg (R.PGE_UMBER_DATA_DATA_ADDR u) + 65536 * k, s.reg (R.PGE_UMBER_SIZE_RKEY u),
        pageBytes p.pageSize, 0, 0, [], 0⟩).getD s
  | _, _ => s

/-- A page sent to its T1 holder; a coded page rests on its copy and nothing is sent (R109). A holder that is the node itself, or that
is out of reach, takes no page (DESIGN CHOICE, log entry 87). -/
def State.toT1 (s : State) (p : Page) (why : MigWhy) (retried : Bool) : Option State :=
  if p.coded then
    if p.copyIndex = 0 then none
    else some (s.switchPage p (.t1 p.copyNode p.copyIndex))
  else match s.t1Node p.req p.firstPos with
  | none => none
  | some n =>
    if n = s.node ∨ !s.reachable n then none else
      let data := s.pageData p
      let p := { p with dataCrc := crc32c data }
      some ((s.addMigration p ⟨p.idx, .node n 0, why, retried, none⟩).sendMsg n (.migrate p.idx p data))

/-- Every KV page of a request that neither tier takes is freed, and the hand-back goes on with the history (R96). -/
def State.noTier (s : State) (id : Nat) : State :=
  match s.work? id with
  | none => s
  | some w =>
    let s := (s.freeKv id w.r.epoch).putWork { w with r := { w.r with kvCommitted := 0 } }
    (s.post .pageLost w.r.context (formP .ok 0xFFFD 0 id)).evicted id

/-- A hand-back's page started toward tier 1 or 2. -/
def State.toTier (s : State) (p : Page) (tier : Nat) : Option State :=
  if tier = 1 then s.toT1 p .handback false else s.toT2 p .handback false

/-- A page moved before a hand-back or park, to the first of some tiers that takes it (R96). -/
def State.handbackTo (s : State) (p : Page) (tiers : List Nat) : State :=
  match tiers.findSome? (s.toTier p) with
  | some s => s.evicted p.req
  | none => s.noTier p.req

/-- A page moved before a hand-back or park, to the named tier or else the other (R96). -/
def State.handbackPage (s : State) (p : Page) : State :=
  match s.work? p.req with
  | none => s
  | some w =>
    let t := if w.r.nextState = .parked then s.reg R.PGE_EVICT_PARK_TIER else s.reg R.PGE_EVICT_PAUSE_TIER
    s.handbackTo p [t, 3 - t]

/-! ### Recall (R97) -/

/-- The frame a page is recalled to: one of the request's reservation for its owner, else one no reservation needs (R86). -/
def State.recallFrame (s : State) (p : Page) : Option Nat :=
  if p.foreign && !s.framesFit p.pageSize 1 then none else s.findFrame p.pageSize

/-- A page fetched to T0 on a frame of its own: from this node's pool, or from the holder that has it. -/
def State.recallPage (s : State) (p : Page) (epoch : Nat) (why : MigWhy) (retried : Bool) (asker : Option (Nat × Nat)) : State :=
  match s.recallFrame p with
  | none => s
  | some f =>
    let start := fun (s : State) =>
      let s := (s.addMigration p ⟨p.idx, .frame f, why, retried, asker⟩).adjustReservation p.req 0 (bit (!retried && !p.foreign))
      if retried then s else s.bump R.PGE_ALLOC_STATS_ALLOCS
    match p.loc with
    | .t2 u k =>
      match (start s).roceIssue (s.umberQp u) ⟨.pageIn p.idx, false, s.reg (R.PGE_UMBER_DATA_DATA_ADDR u) + 65536 * k,
          s.reg (R.PGE_UMBER_SIZE_RKEY u), pageBytes p.pageSize, 0, 16384 * f, [], 0⟩ with
      | some s => s
      | none => (s.losePage p.idx).refuseAsker asker
    | .t1 n i | .t2of n i =>
      if n = s.node then
        match s.page? i with
        | some q => ((s.freePage i).invalidate p.idx).putPage { p with loc := q.loc, dataCrc := q.dataCrc, migrating := false }
        | none => s.losePage p.idx
      else (start s).sendMsg n (.pgFetch p.req epoch i p.idx)
    | _ => s

/-- The T1 pages of a request stay in place for Mezzotint (R97). -/
def State.staysT1 (s : State) (r : Record) : Bool :=
  s.reg R.PGE_EVICT_OCHRE_MIN_TOKENS ≤ r.kvCommitted && s.flag R.CAP_FEATURES_MEZZOTINT

/-- A page is still to be recalled. -/
def State.toRecall (s : State) (r : Record) (p : Page) : Bool :=
  match p.loc with
  | .t2 .. | .t2of .. => true
  | .t1 .. => !s.staysT1 r
  | _ => false

/-! ### Migration (R93 to R97) -/

/-- A request's pages may migrate now: no step of it is in flight and no move of it has begun (R93, R435). -/
def State.mayMigrate (s : State) (id : Nat) : Bool :=
  match s.work? id with
  | some w => w.step.isNone && w.move.isNone
  | none => true

/-- T0 pages eviction may take: unreferenced PREFIX pages (true), then sealed pages of long requests in DECODE (R95). -/
def State.evictable (s : State) (unreferenced : Bool) (p : Page) : Bool :=
  if unreferenced then decide (p.kind = .shared) && p.refs == 0
  else !p.foreign && decide (p.kind = .kv) && p.sealed && p.loc.frame?.isSome && !p.migrating && s.mayMigrate p.req
    && s.flag R.CAP_FEATURES_MEZZOTINT && s.reg R.PGE_OCHRE_CTRL_COUNT != 0
    && (s.work? p.req).any fun w => decide (w.r.state = .decode) && s.reg R.PGE_EVICT_OCHRE_MIN_TOKENS ≤ w.r.kvCommitted

/-- No page of a set was used longer ago. -/
def oldestUse (tick : Nat) (ps : List Page) (p : Page) : Bool :=
  ps.all fun q => (tick + 2 ^ 24 - q.lastUse) % 2 ^ 24 ≤ (tick + 2 ^ 24 - p.lastUse) % 2 ^ 24

/-- A page whose frame lies in a range a channel's retirement takes from the pool moves to a frame below it, between two
steps of its request and while no query reads it (R93, R94, R362). -/
def State.retirePage (s : State) (p : Page) : State :=
  match p.loc with
  | .t0 f =>
    if f < 4 * s.reg R.PGE_KV_POOL_LIMIT || p.migrating || s.beingRead p.idx || !s.mayMigrate p.req then s
    else match s.findFrame p.pageSize with
    | some g => ((s.copyMem .hbm (16384 * f) .hbm (16384 * g) (pageBytes p.pageSize)).switchPage p (.t0 g)).bump
        R.PGE_ALLOC_STATS_ALLOCS
    | none => s
  | _ => s

/-- A migration starts for one page. -/
def State.startMigration (s : State) (p : Page) (why : MigWhy) : State :=
  match why with
  | .evict =>
    let s := s.watermark
    if !s.flag R.PGE_CTRL_EVICTING then s else
      let a := s.pge.pages.filter (s.evictable true)
      let b := s.pge.pages.filter (s.evictable false)
      if s.evictable true p then (if oldestUse s.tick a p then (s.freePage p.idx).watermark else s)
      else if a.isEmpty && s.evictable false p && oldestUse s.tick b p then ((s.toT1 p .evict false).getD s).watermark else s
  | .handback =>
    if (s.work? p.req).any (fun w => w.move.any fun m => decide (m.phase = .evicting)) && p.loc.frame?.isSome && !p.foreign then
      s.handbackPage p
    else s
  | .recall =>
    match s.work? p.req with
    | some w => if w.recalling && s.toRecall w.r p then s.recallPage p w.r.epoch .recall false none else s
    | none => s
  | .demote =>
    let s := s.watermark
    let held := s.pge.pages.filter fun q => q.foreign && q.loc.frame?.isSome && !q.migrating && q.keepUntil ≤ s.tick
    if p.foreign && p.loc.frame?.isSome && p.keepUntil ≤ s.tick && s.flag R.PGE_CTRL_EVICTING && oldestUse s.tick held p then (s.toT2 p .demote false).getD s
    else s
  | .poolRelease =>
    match p.loc with
    | .t2 u _ => if s.flag (R.PGE_UMBER_CTRL_VALID u) then s else s.toPool p false
    | _ => s
  | .retire => s.retirePage p
  | .pull => s

/-- A migration starts. -/
def execMigrationStart (idx : Nat) (why : MigWhy) (s : State) : Host.Outcome State Fault Refusal :=
  match s.page? idx with
  | none => .next s
  | some p =>
    if p.migrating ∨ p.freeing ∨ !s.migRoom then .next s
    else .next (s.startMigration p why)

/-- A page idle for T1_HOLD_TICKS is demoted by its holder, while fewer than MAX_INFLIGHT pages migrate (R103). -/
def execDemoteIdleExpiry (idx : Nat) (s : State) : Host.Outcome State Fault Refusal :=
  match s.page? idx with
  | none => .next s
  | some p =>
    if p.foreign && p.loc.frame?.isSome && !p.migrating && !p.freeing && s.migRoom
        && s.reg R.PGE_EVICT_T1_HOLD_TICKS ≤ (s.tick + 2 ^ 24 - p.lastUse) % 2 ^ 24 then
      .next ((s.toT2 p .demote false).getD s)
    else .next s

/-- A migration is given up with the page where it was. -/
def State.dropMigration (s : State) (p : Page) : State :=
  ((s.putPage { p with migrating := false }).endMigration p.idx).watermark

/-- Bytes combined by exclusive or; the shorter counts as continued with zeros. -/
def xorBytes : List Byte → List Byte → List Byte
  | [], b => b
  | a, [] => a
  | x :: a, y :: b => (x ^^^ y) :: xorBytes a b

/-- A parity update sent by a copy's holder, which waits for its acknowledgement (R101, R114). -/
def State.sendParity (s : State) (p : Page) (to_ offset tag : Nat) (delta : List Byte) (write : Option MztMsg) : State :=
  let n := p.parityAt.getD (s.parityNode p.group)
  (s.onPge fun g => { g with parityPends := g.parityPends ++ [⟨to_, tag, p.req, p.epoch, write, n⟩] }).sendMsg n
    (.parityUpdate p.req p.epoch p.group offset tag delta)

/-- A page that arrived for a rebuild (R102). -/
def State.rebuildPart (s : State) (src num : Nat) (p : Page) (data : List Byte) : State :=
  match s.pge.rebuilds.find? (·.num == num) with
  | none => s
  | some b =>
    let left := b.left.filter fun h => !(h.1 == src && (h.2 == p.idx || (p.kind == .parity && h.2 == 2 ^ 26 + p.group)))
    let b := { b with left := left, acc := xorBytes b.acc data }
    let s := s.onPge fun g => { g with rebuilds := upsert (·.num == num) b g.rebuilds }
    if left.isEmpty then
      let q := { b.page with foreign := false, dataCrc := crc32c b.acc, copyIndex := 0 }
      s.sendMsg b.target (.migrate (2 ^ 26 + num) q b.acc)
    else s

/-- A page that arrives from the holder it was asked of. -/
def State.recalled (s : State) (src : Nat) (m : Migration) (p : Page) (from_ : Page) (data : List Byte) : State :=
  match m.target.frame? with
  | none => s
  | some f =>
    if crc32c data = from_.dataCrc then
      let s := (s.wr .hbm (16384 * f) data).switchPage p (.t0 f)
      if p.coded && p.copyNode == src && p.copyIndex == from_.idx then s else s.sendMsg src (.pgFree p.req p.epoch [from_.idx])
    else if m.retried then (s.dropMigration p).losePage p.idx
    else ((s.bump R.PGE_MIGRATE_STATS_RETRIES).onPge fun g => { g with migrations := upsert (·.idx == m.idx) { m with retried := true } g.migrations }).sendMsg
      src (.pgFetch p.req p.epoch from_.idx p.idx)

/-- A page pushed to this node as its T1 holder. -/
def State.holdPage (s : State) (src idx : Nat) (p : Page) (data : List Byte) : State :=
  if crc32c data ≠ p.dataCrc then s.sendMsg src (.migrateRefused idx .poisonRead)
  else match s.holderEpoch p.req p.epoch with
  | none => s.sendMsg src (.migrateRefused idx .epochStale)
  | some s =>
    let refuse := s.sendMsg src (.migrateRefused idx .directoryFull)
    if !s.flag R.PGE_CTRL_ENABLE || !s.framesFit p.pageSize 1 || s.freeEntries ≤ s.reservedEntries then refuse
    else match s.allocPage { p with foreign := true, migrating := false, freeing := false, deadline := s.tick + s.reg R.PGE_TTL_LEASE_TICKS } with
    | none => refuse
    | some (i, s) =>
      match s.page? i with
      | none => refuse
      | some q =>
        let s := match q.loc with
          | .t0 f => s.wr .hbm (16384 * f) data
          | _ => s
        let s := s.sendMsg src (.migrateAck idx i)
        if q.coded && q.memberNo < 8 && idx < 2 ^ 26 then s.sendParity q src 0 idx data none else s

/-- A page arrives by migration: pushed, or in answer to this node's request. -/
def execMigrationCopy (src idx : Nat) (p : Page) (data : List Byte) (s : State) : Host.Outcome State Fault Refusal :=
  let s := s.takeMsg src (.migrate idx p data)
  if !p.foreign then .next (s.holdPage src idx p data)
  else if 2 ^ 26 ≤ idx then .next (s.rebuildPart src (idx - 2 ^ 26) p data)
  else match s.migration? idx, s.page? idx with
  | some m, some q => .next (s.recalled src m q p data)
  | _, _ => .next s

/-- A page of a request under recovery is where a holder says (R102). -/
def State.locate (s : State) (id : Nat) (l : LocatedPage) : State :=
  s.onRse fun e => { e with
    homes := updateAll (fun h => h.r.id == id) (fun h => { h with located := h.located ++ [l] }) e.homes }

/-- The owner counts the acknowledgements of a commit's write-through; the last lets STEP_NOTE go (R48, R101). -/
def State.throughAck (s : State) (id : Nat) : State :=
  match s.work? id with
  | none => s
  | some w =>
    let n := w.throughWait - 1
    let s := s.putWork { w with throughWait := n }
    if w.throughWait = 1 then s.sendNote w.r else s

/-- A holder's copy of a page freed here while it was on its way: freed there too (R94). -/
def State.freeAborted (s : State) (src idx index : Nat) : State :=
  match s.pge.aborted.find? (·.1 == idx) with
  | some (_, id, e) => (s.onPge fun g => { g with aborted := g.aborted.filter (·.1 != idx) }).sendMsg src (.pgFree id e [index])
  | none => s

/-- The holders of a group's copies learn the node its rebuilt parity page rests on (R101, log entry 85). -/
def State.tellParity (s : State) (p : Page) (node : Nat) (ns : List Nat) : State :=
  s.sendMsgs (.parityMoved p.req p.epoch p.group node) ns.dedup

/-- A copy's holder learns where the parity of a group rests. -/
def State.parityMoved (s : State) (id epoch group node : Nat) : State :=
  match s.holderEpoch id epoch with
  | none => s
  | some s => s.onPge fun g => { g with
      pages := updateAll (fun p => p.req == id && p.foreign && p.group == group) (fun p => { p with parityAt := some node }) g.pages }

/-- The holder acknowledges a page: the entry switches to it (R93, R94), a coded page's copy is recorded, or a rebuilt page
is in place (R102). -/
def execMigrationAck (src idx index : Nat) (s : State) : Host.Outcome State Fault Refusal :=
  let s := s.takeMsg src (.migrateAck idx index)
  if 2 ^ 26 ≤ idx then
    match s.pge.rebuilds.find? (·.num == idx - 2 ^ 26) with
    | none => .next s
    | some b =>
      let s := s.onPge fun g => { g with rebuilds := g.rebuilds.filter (·.num != b.num) }
      let s := s.post .pageRebuilt (s.reqCtx b.page.req) (formP .ok b.page.layer b.page.firstPos b.page.req)
      match b.entry with
      | some e => .next (match s.page? e with
        | some p =>
          let s := (s.invalidate e).putPage { p with loc := .t1 src index, copyNode := src, copyIndex := index, headerOk := true }
          if p.kind = .parity then s.tellParity p src (((s.kvPages p.req).filter fun q => q.group == p.group && q.copyIndex != 0).map
            (·.copyNode)) else s
        | none => s)
      | none =>
        let s := if b.page.kind = .parity then s.tellParity b.page src (((((s.home? b.page.req).map (·.located)).getD []).filter fun l =>
          l.group == b.page.group).map (·.node)) else s
        .next (s.locate b.page.req ⟨src, index, b.page.layer, b.page.firstPos, b.page.group, b.page.memberNo⟩)
  else if s.pge.aborted.any (·.1 == idx) then .next (s.freeAborted src idx index)
  else match s.migration? idx, s.page? idx with
  | some m, some p =>
    match m.target with
    | .node _ _ => .next ((s.switchPage p (.t1 src index)).evicted p.req)
    | _ => .next s
  | _, some p => .next (if p.coded && p.copyIndex == 0 && p.copyNode == src then s.putPage { p with copyIndex := index }
      else s.sendMsg src (.pgFree p.req p.epoch [index]))
  | _, none => .next s

/-- A page of a rebuild is refused: by the node the rebuilt page is offered to, or by one that was to supply a member. -/
def State.rebuildRefused (s : State) (num : Nat) : State :=
  match s.pge.rebuilds.find? (·.num == num) with
  | none => s
  | some b => if b.left.isEmpty then s.retarget b else s.rebuildFailed b.page.req b.entry

/-- A copy is refused: a wrong DATA_CRC is retried once, a full holder leaves the page to the other tier or where it was,
a holder that cannot return a page has lost it (R94, R96, R97). The first copy of a coded page that its holder refuses counts as
answered, and is offered again after the next commit (R101, log entry 70). -/
def execMigrationRefused (src idx : Nat) (status : St) (s : State) : Host.Outcome State Fault Refusal :=
  let s := s.takeMsg src (.migrateRefused idx status)
  if 2 ^ 26 ≤ idx then .next (s.rebuildRefused (idx - 2 ^ 26))
  else if s.pge.aborted.any (·.1 == idx) then
    .next (s.onPge fun g => { g with aborted := g.aborted.filter (·.1 != idx) })
  else match s.migration? idx, s.page? idx with
  | some m, some p =>
    match m.target with
    | .node _ _ =>
      let t := s.dropMigration p
      let q := { p with migrating := false }
      if status = .poisonRead then
        if m.retried then .next (t.losePage idx)
        else .next (((t.bump R.PGE_MIGRATE_STATS_RETRIES).toT1 q m.why true).getD t)
      else if m.why = .handback then .next (t.handbackTo q [2])
      else .next t
    | _ => .next ((s.dropMigration p).losePage idx)
  | none, some p => .next (if p.coded && p.copyIndex == 0 && p.copyNode == src then s.throughAck p.req else s)
  | _, _ => .next s

/-- An Umber write is complete: the page rests in its slot. -/
def State.pageOutDone (s : State) (idx : Nat) : State :=
  match s.migration? idx, s.page? idx with
  | some m, some p =>
    match m.target with
    | .slot u k => (s.switchPage p (.t2 u k)).evicted p.req
    | _ => s
  | _, _ => s

/-- A page of a released pool has been read: checked, and written to its new slot (R94, R98). -/
def State.pageMoveDone (s : State) (idx : Nat) (data : List Byte) : State :=
  match s.migration? idx, s.page? idx with
  | some m, some p =>
    match m.target with
    | .slot v j =>
      if crc32c data = p.dataCrc then (s.writeUmberSlot p v j data).getD (s.dropMigration p)
      else if m.retried then (s.dropMigration p).losePage idx
      else ((s.bump R.PGE_MIGRATE_STATS_RETRIES).dropMigration p).toPool { p with migrating := false } true
    | _ => s
  | _, _ => s

/-- A page has been read from its Umber slot into its frame: checked, switched, and sent on where a node asked for it. -/
def State.pageInDone (s : State) (idx : Nat) : State :=
  match s.migration? idx, s.page? idx with
  | some m, some p =>
    match m.target with
    | .frame f =>
      let data := s.rdBytes .hbm (16384 * f) (pageBytes p.pageSize)
      if crc32c data = p.dataCrc then
        let hold := if p.foreign then s.tick + s.reg R.PGE_EVICT_T1_HOLD_TICKS else 0
        let t := s.switchPage { p with lastUse := s.tick % 2 ^ 24, keepUntil := hold } (.t0 f)
        match m.asker with
        | some (n, d) => t.sendMsg n (.migrate d { p with foreign := true, loc := .t0 f, migrating := false } data)
        | none => t
      else if m.retried then ((s.dropMigration p).losePage idx).refuseAsker m.asker
      else (((s.bump R.PGE_MIGRATE_STATS_RETRIES).dropMigration p)).recallPage { p with migrating := false } p.epoch m.why true m.asker
    | _ => s
  | _, _ => s

/-- A page engine operation on a queue pair failed: the page is lost (R345). -/
def State.pageIoFailed (s : State) (idx : Nat) : State :=
  match s.migration? idx, s.page? idx with
  | some m, some p => ((s.dropMigration p).losePage idx).refuseAsker m.asker
  | _, _ => s

/-- A holder is asked for a page of a request, or for the parity page of a group (R97, R102). -/
def State.servePgFetch (s : State) (src id epoch idx dest : Nat) : State :=
  match s.holderEpoch id epoch with
  | none => s.sendMsg src (.migrateRefused dest .epochStale)
  | some s =>
    let p? := s.pge.pages.find? fun p => p.req == id && (if 2 ^ 26 ≤ idx then decide (p.kind = .parity) && p.foreign
      && p.group == idx - 2 ^ 26 else p.idx == idx)
    match p? with
    | none => s.sendMsg src (.migrateRefused dest .pageMissing)
    | some p =>
      if !p.headerOk then (s.losePage p.idx).sendMsg src (.migrateRefused dest .pageMissing)
      else match s.frameOf p with
      | some _ =>
        let data := s.pageData p
        (s.putPage { p with lastUse := s.tick % 2 ^ 24 }).sendMsg src (.migrate dest { p with foreign := true, dataCrc := crc32c data } data)
      | none => if p.migrating || (s.recallFrame p).isNone || !s.migRoom then s.deliver src (.pgFetch id epoch idx dest)
        else s.recallPage p epoch .recall false (some (src, dest))

/-! ### Write-through and parity (R101) -/

/-- A copy's holder receives committed KV. -/
def execWriteThrough (src id epoch idx offset tag : Nat) (data : List Byte) (s : State) : Host.Outcome State Fault Refusal :=
  let s := s.takeMsg src (.writeThrough id epoch idx offset tag data)
  match s.holderEpoch id epoch with
  | none => .next (s.sendMsg src (.throughRefused id tag .epochStale))
  | some s =>
    match s.page? idx with
    | none => .next (s.sendMsg src (.throughRefused id tag .pageMissing))
    | some p =>
      match p.loc with
      | .t0 f =>
        let a := 16384 * f + offset
        let delta := xorBytes (s.rdBytes .hbm a data.length) data
        let s := (s.wr .hbm a data).putPage { p with lastUse := s.tick % 2 ^ 24 }
        .next (s.sendParity p src offset tag delta none)
      | _ =>
        let s := if p.migrating || !s.migRoom then s else s.recallPage p epoch .recall false none
        .next (s.deliver src (.writeThrough id epoch idx offset tag data))

/-- The parity page of a group at its holder: the one it holds, or a new one of zeros. -/
def State.parityPage (s : State) (id epoch group len : Nat) : Option (Page × State) :=
  match s.pge.pages.find? fun p => p.req == id && p.foreign && decide (p.kind = .parity) && p.group == group with
  | some p => some (p, s)
  | none =>
    let size := if len ≤ 16384 then 2 else if len ≤ 32768 then 1 else 0
    let fresh : Page :=
      { idx := 0, req := id, kind := .parity, loc := .t0 0, foreign := true, migrating := false, sealed := false, lastUse := 0,
        policyVersion := 0, modelId := 0, layer := 0xFFFE, firstPos := 0, headDim := 0, kvHeads := 0, element := 0,
        pageSize := size, epoch := epoch, deadline := s.tick + s.reg R.PGE_TTL_LEASE_TICKS, group := group, memberNo := 8,
        coded := true, copyNode := 0, copyIndex := 0, slots := 0, dataCrc := 0, refs := 0, headerOk := true, prefixKey := 0,
        variantId := 0 }
    match if s.framesFit size 1 then s.allocPage fresh else none with
    | none => none
    | some (i, t) =>
      match t.page? i with
      | none => none
      | some p => some (p, t.wr .hbm (16384 * (p.loc.frame?.getD 0)) (List.replicate (pageBytes size) 0))

/-- The parity holder folds a change in. -/
def execParityUpdate (src id epoch group offset tag : Nat) (delta : List Byte) (s : State) : Host.Outcome State Fault Refusal :=
  let s := s.takeMsg src (.parityUpdate id epoch group offset tag delta)
  match s.holderEpoch id epoch with
  | none => .next (s.sendMsg src (.throughRefused id tag .epochStale))
  | some s =>
    match s.parityPage id epoch group delta.length with
    | none => .next (s.sendMsg src (.throughRefused id tag .directoryFull))
    | some (p, s) =>
      match p.loc with
      | .t0 f =>
        let a := 16384 * f + offset
        let s := (s.wr .hbm a (xorBytes (s.rdBytes .hbm a delta.length) delta)).putPage { p with lastUse := s.tick % 2 ^ 24 }
        .next (s.sendMsg src (.writeThroughAck id tag))
      | _ =>
        let s := if p.migrating || !s.migRoom then s else s.recallPage p epoch .recall false none
        .next (s.deliver src (.parityUpdate id epoch group offset tag delta))

/-- A KV_ACK sent (R113, R124). -/
def State.sendKvAck (s : State) (src : Nat) (m : MztMsg) (st : St) : State :=
  let s := if st = .epochStale then s.bump R.MZT_ERR_STATS_STALE else if st = .pageMissing then s.bump R.MZT_ERR_STATS_MISSING else s
  s.sendMsg src (.mztKvAck (m.kvAck st))

/-- A write-through refused: by the parity holder to a copy's holder, which passes it on, or by a copy's holder to the owner,
for which it ends the wait (R83, R101, log entry 70). -/
def State.throughRefusal (s : State) (src id tag : Nat) (status : St) : State :=
  match s.pge.parityPends.find? fun p => p.parityNode == src && p.req == id && p.tag == tag with
  | some p =>
    let s := s.onPge fun g => { g with parityPends := dropFirst p g.parityPends }
    match p.write with
    | some m => s.sendKvAck p.to_ m status
    | none => s.sendMsg p.to_ (.throughRefused id tag status)
  | none => s.throughAck id

/-- An acknowledgement of the parity holder to a copy's holder, or of a copy's holder to the owner. -/
def execWriteThroughAck (src id tag : Nat) (s : State) : Host.Outcome State Fault Refusal :=
  let s := s.takeMsg src (.writeThroughAck id tag)
  match s.pge.parityPends.find? fun p => p.parityNode == src && p.req == id && p.tag == tag with
  | some p =>
    let s := s.onPge fun g => { g with parityPends := dropFirst p g.parityPends }
    .next (match p.write with
      | some m => s.sendKvAck p.to_ m .ok
      | none => s.sendMsg p.to_ (.writeThroughAck id tag))
  | none => .next (s.throughAck id)

/-! ### Locating and rebuilding (R102) -/

/-- An Ochre node answers PG_LOCATE. -/
def execPgLocate (src id epoch : Nat) (s : State) : Host.Outcome State Fault Refusal :=
  let s := s.takeMsg src (.pgLocate id epoch)
  match s.holderEpoch id epoch with
  | none => .next s
  | some s => .next (s.sendMsg src (.pgLocateReply id ((s.heldPages id).map fun p =>
      ⟨s.node, p.idx, p.layer, p.firstPos, p.group, p.memberNo⟩)))

/-- The data pages a recovered request needs: every layer of every run of positions below KV_COMMITTED, in list order. -/
def State.neededPages (s : State) (r : Record) : List Page :=
  match s.model? r.modelId with
  | none => []
  | some m =>
    let sl := m.slots r.pageSize
    (((List.range (ceilDiv r.kvCommitted sl)).flatMap fun i => (List.range m.layers).map fun l => newPage r m l (i * sl)).zipIdx).map
      fun (p, k) => { p with group := k / 8, memberNo := k % 8 }

/-- Every answer to PG_LOCATE is in: the missing members and parity pages are rebuilt where no group misses more than one page, or the
request is restarted. -/
def State.locatedAll (s : State) (h : HomeRec) : State :=
  let data := s.neededPages h.r
  let need := data ++ (List.range (ceilDiv data.length 8)).map (s.parityEntry h.r)
  let has := fun (p : Page) => h.located.any fun l => l.group == p.group && l.memberNo == p.memberNo
    && (l.memberNo == 8 || (l.layer == p.layer && l.firstPos == p.firstPos))
  let missing := need.filter fun p => !has p
  let ok := (data.isEmpty == (h.r.kvCommitted == 0)) && missing.all fun p => (missing.filter fun q => q.group == p.group).length == 1
  if ok then missing.foldl (fun s p => s.startRebuild h.r.epoch p
      ((h.located.filter fun l => l.group == p.group).map fun l => (l.node, l.index)) none) s
  else s.restartCommit h

/-- PG_LOCATE_REPLY at the home. -/
def execPgLocateReply (src id : Nat) (pages : List LocatedPage) (s : State) : Host.Outcome State Fault Refusal :=
  let s := s.takeMsg src (.pgLocateReply id pages)
  match s.home? id with
  | none => .next s
  | some h =>
    if !h.recovering then
      .next (if pages.isEmpty || h.r.kvCommitted != 0 then s else s.sendMsg src (.pgFree id h.r.epoch (pages.map (·.index))))
    else
      let h := { h with located := h.located ++ pages, locateWait := h.locateWait.filter (· != src) }
      let s := s.putHome h
      .next (if h.locateWait.isEmpty then s.locatedAll h else s)

/-- Once no page is being rebuilt, the home takes the request back (R62); its page list names the pages and the parity located.
A page that is missing after all sends the request down the restart path (R63, R102). -/
def execRequestRecover (id : Nat) (s : State) : Host.Outcome State Fault Refusal :=
  match s.home? id with
  | none => .next s
  | some h =>
    if !h.recovering || !h.locateWait.isEmpty || s.pge.rebuilds.any (fun b => b.page.req == id) then .next s
    else
      let need := s.neededPages h.r
      let at_ := fun (p : Page) => h.located.find? fun l => l.layer == p.layer && l.firstPos == p.firstPos && l.memberNo != 8
      let put := fun (p : Page) (l : LocatedPage) =>
        { p with loc := PageLoc.t1 l.node l.index, copyNode := l.node, copyIndex := l.index,
                 sealed := decide (p.firstPos + p.slots ≤ h.r.kvCommitted) }
      if need.any fun p => (at_ p).isNone then .next (s.restartCommit h)
      else
        let pages := need.filterMap fun p => (at_ p).map (put p)
        let parity := (h.located.filter fun l => l.memberNo == 8 && l.group < ceilDiv need.length 8).map fun l =>
          { s.parityEntry h.r l.group with loc := PageLoc.t1 l.node l.index }
        let s := s.freePages ((s.ownPages id).map (·.idx))
        let s := (pages ++ parity).foldl (fun s p => s.putPage { p with idx := s.freeEntry }) s
        .next (s.recoverCommit h)

/-- A node is lost to the page engine: the pages it held are lost, and it answers no PG_LOCATE (R99). -/
def State.holderLost (s : State) (n : Nat) : State :=
  let s := s.loseTogether (s.pge.pages.filter fun p => !p.foreign && p.loc.remote?.any fun h => h.1 == n)
  let s := (s.pge.rebuilds.filter fun b => b.target == n || b.left.any (·.1 == n)).foldl (fun s b =>
    if b.left.any (·.1 == n) then s.rebuildFailed b.page.req b.entry else s.retarget b) s
  (s.rse.homes.filter fun h => h.recovering && h.locateWait.contains n).foldl (fun s h =>
    let h := { h with locateWait := h.locateWait.filter (· != n) }
    let s := s.putHome h
    if h.locateWait.isEmpty then s.locatedAll h else s) s

end Sys2Proof.Machine
end

