-- ==== Sys2Proof/Machine/Owner.lean ====
section
/-! DEFINITION. Placed nodes and owners (sections 2.4 to 2.6, 2.9): placement checks, the step commit point, the output
ring, moves at their source and destination, ownership replies, cancels and pauses at the owner. -/

namespace Sys2Proof.Machine

/-! ### Checks at a placed node (Table 2.3a) -/

/-- The delta slot a context's variant map gives a variant. -/
def State.variantSlot (s : State) (d : Desc) (variant : Nat) : Option Nat :=
  ((List.range d.vmapCount).find? fun i => bitsOf (s.rdNum .hbm (d.vmapAddr + 4 * i) 4) 31 16 == variant).map fun i =>
    bitsOf (s.rdNum .hbm (d.vmapAddr + 4 * i) 4) 11 0

/-- The request's version lies within STALENESS_MAX of the node's (R222). -/
def State.versionOk (s : State) (r : Record) : Bool :=
  (s.reg R.PHS_POLICY_CURRENT + 2 ^ 32 - r.policyVersion) % 2 ^ 32 ≤ r.stalenessMax

/-- Frames a placement or a move reserves (R85): those of the whole turn, less the pages that rest without a new frame here.
A placement links the request to shared pages where it has none of its own; a move pulls private copies (R90). -/
def State.framesNeeded (s : State) (m : CopyMsg) (m' : Model) (local_ prepare : Bool) : Nat :=
  let r := m.r
  let total := m'.layers * ceilDiv (r.historyLength + r.maxNewTokens + r.specWindow) (m'.slots r.pageSize)
  let stay := if s.staysT1 r then (m.pages.filter fun f => f.kind == 0 && f.tier == 1).length else 0
  let here := if local_ then ((s.kvPages r.id).filter fun p => p.loc.tier == 0).length else 0
  let shared := if prepare then 0 else ((s.prefixPages r m.prefixKey m.prefixLen).filter fun x =>
    !m.pages.any fun f => f.kind == 0 && f.layer == x.layer && f.firstPos == x.firstPos).length
  total - (stay + here + shared)

/-- Checks 3 to 11 of Table 2.3a, but for the directory slot; checks 1 to 3 alone for a hand-back. -/
def State.placeCheck (s : State) (src : Nat) (m : CopyMsg) (prepare : Bool) : Option St :=
  let r := m.r
  let back := decide (r.nextState = .paused ∨ r.nextState = .parked)
  if prepare && !(decide (r.nextState = .ready ∨ r.nextState = .decode) || (back && s.isHome r.id)) then some .badParam
  else if prepare && back then none
  else if !s.roleLicensed (s.reg R.PHS_PHASE_ROLE) then some .unitAbsent
  else if s.reg R.PHS_PHASE_ROLE ≠ 1 ∧ s.reg R.PHS_PHASE_ROLE ≠ 2 then some .contextClosed
  else match s.ctx? r.context with
  | none => some .contextClosed
  | some x =>
    if x.state ≠ .running then some .contextClosed
    else match s.model? r.modelId with
    | none => some .modelUnknown
    | some mo =>
      if !s.versionOk r then some .versionMismatch
      else if r.variantId ≠ 0 ∧ !s.flag R.CAP_FEATURES_STIPPLE then some .unitAbsent
      else if r.variantId ≠ 0 ∧ (s.variantSlot x.desc r.variantId).isNone then some .deltaAbsent
      else if !s.reserveFits r.context r.pageSize (s.framesNeeded m mo (src == s.node) prepare) then some .directoryFull
      else none

/-- The directory slot of a copy that arrives: the record's own where this node keeps one, else a free one, for which the
oldest tombstone is given back early (R67). -/
def State.copySlot (s : State) (id : Nat) : Bool × State :=
  if (s.home? id).isSome then (true, s) else s.freeSlot

/-- A working copy as PLACE or MV_PREPARE makes it. -/
def workOf (m : CopyMsg) (src : Nat) (status : CopyStatus) (pulls : List Nat) : Work :=
  { r := m.r, status := status, checkOk := true, from_ := src, ring := [], notes := [], step := none, pulls := pulls,
    recalling := true, pendPause := none, pendMove := none, holdRetry := false, move := none,
    before := m.r.state, cancelled := false, doubt := false, throughWait := 0, history := m.history, genTokens := m.genTokens, prefixKey := m.prefixKey,
    prefixLen := m.prefixLen }

/-- A page of a copy that arrives: an entry for one at a holder, a frame for one to be pulled. -/
def pageOfRef (r : Record) (mo : Model) (f : PageRef) : Page :=
  { newPage r mo f.layer f.firstPos with
    kind := if f.kind = 2 then .parity else .kv
    loc := if f.tier = 1 then .t1 f.node f.index else .t2of f.node f.index
    sealed := f.sealed, group := f.group, memberNo := f.memberNo, copyNode := f.copyNode, copyIndex := f.copyIndex }

/-- Entries put in for the pages of a copy that rest elsewhere, and frames and READs for those to be pulled (R53). -/
def State.installRefs (s : State) (r : Record) (mo : Model) (fs : List PageRef) : State × List WorkReq :=
  fs.foldl (fun (s, ws) f =>
    let p := pageOfRef r mo f
    if f.tier = 0 then
      match s.allocPage p with
      | none => (s, ws)
      | some (i, t) =>
        let fr := (((t.page? i).bind (·.loc.frame?))).getD 0
        let w := { workReq (fun _ => 0) 0 with
          op := 2
          locOff := 16384 * fr
          length := pageBytes r.pageSize
          remote := gAddr f.node 0 (16384 * f.index)
          key := s.reg R.FAB_POOL_KEY_KEY }
        (t.adjustReservation r.id 0 1, ws ++ [w])
    else (s.putPage { p with idx := s.freeEntry }, ws)) (s, [])

/-- The refusal of a placement or move counted (R85, R222). -/
def State.countPlaceRefusal (s : State) (st : St) : State :=
  match st with
  | .versionMismatch => s.bump R.PHS_REBASE_STATS_VERSION_REFUSED
  | .directoryFull => s.bump R.PGE_ALLOC_STATS_REFUSALS
  | _ => s

/-- Checks 1 to 11 with what a copy already held means (R52, R57): the state to go on from, or the state after a refusal
or a dropped message. -/
def State.admitCopy (s : State) (src : Nat) (m : CopyMsg) (prepare : Bool) : Except State State :=
  let refused := fun (s : State) (st : St) => (s.countPlaceRefusal st).sendMsg src
    (if prepare then .mvRefused m.r.id m.r.epoch st else .placeRefused m.r.id m.r.epoch st)
  if s.transitOnly then .error (s.nakMsg src (if prepare then .mvPrepare m else .place m))
  else if !s.readable m.r then .error (refused s .formatUnsupported)
  else
    let held := s.work? m.r.id
    if held.any fun w => m.r.epoch < w.r.epoch then .error s
    else if held.any fun w => w.r.epoch == m.r.epoch then .error (refused s .badState)
    else
      let s := if held.isSome then s.discardCopy m.r.id else s
      match s.placeCheck src m prepare with
      | some st => .error (refused s st)
      | none =>
        match s.copySlot m.r.id with
        | (true, s) => .ok s
        | (false, s) => .error (refused s .directoryFull)

/-- What a message about a request means for this node's copy before it is acted on: a copy that fails its check is given
up (R41), one at a lower epoch than the message's is discarded (R57). -/
def State.meet (s : State) (id epoch : Nat) : State := (s.checkCopy id).overtaken id epoch

/-- PLACE at its target. -/
def execPlace (src : Nat) (m : CopyMsg) (s : State) : Host.Outcome State Fault Refusal :=
  match (s.takeMsg src (.place m)).admitCopy src m false with
  | .error t => .next t
  | .ok s =>
    match s.model? m.r.modelId with
    | none => .next s
    | some mo =>
      let n := s.framesNeeded m mo (src == s.node) false
      let s := s.reserve m.r.id m.r.pageSize n
      let s := if src = s.node then s else (s.installRefs m.r mo (m.pages.filter (·.tier != 0))).1
      let s := s.linkPrefix m.r (s.prefixPages m.r m.prefixKey m.prefixLen)
      .next ((s.putWork (workOf m src .reserved [])).sendMsg src (.placeAccept m.r.id m.r.epoch))

/-- The node owns a placed request. -/
def State.enterPlaced (s : State) (w : Work) : State :=
  let r := { w.r with owner := s.node, epoch := w.r.epoch + 1, state := placedState w.r }
  (s.putWork { w with r := r, status := .owned, doubt := false, recalling := (s.kvPages r.id).any (s.toRecall r) }).dealLost r.id

/-- PLACED at the target. -/
def execPlaced (src id epoch : Nat) (s : State) : Host.Outcome State Fault Refusal :=
  let s := (s.takeMsg src (.placed id epoch)).checkCopy id
  match s.work? id with
  | some w => .next (if w.status = .reserved ∧ epoch = w.r.epoch + 1 then s.enterPlaced w else s.overtaken id epoch)
  | none => .next s

/-- Every page of the request is on T0, stays on T1, or is lost. -/
def execRecallComplete (id : Nat) (s : State) : Host.Outcome State Fault Refusal :=
  let s := s.checkCopy id
  match s.work? id with
  | some w => .next (if w.recalling && decide (w.status = .owned) && !(s.kvPages id).any (fun p => s.toRecall w.r p || p.migrating)
      then s.putWork { w with recalling := false } else s)
  | none => .next s

/-- PLACE_CANCEL at the target. -/
def execPlaceCancel (src id epoch : Nat) (s : State) : Host.Outcome State Fault Refusal :=
  let s := (s.takeMsg src (.placeCancel id epoch)).meet id epoch
  match s.work? id with
  | some w => .next (if w.status = .reserved ∧ w.r.epoch = epoch then s.discardCopy id else s)
  | none => .next s

/-- A copy in doubt: the ownership query goes out (R58). -/
def State.query (s : State) (w : Work) : State :=
  (s.putWork { w with doubt := true }).sendMsg (s.homeNode w.r)
    (.ownQuery w.r.id w.r.epoch (decide (w.status = .owned)) w.r)

/-- Neither PLACED nor PLACE_CANCEL within COMMIT_US: the home has left PLACE_ACCEPT unanswered (R36, R45). -/
def execPlaceInDoubtExpiry (id : Nat) (s : State) : Host.Outcome State Fault Refusal :=
  match s.work? id with
  | some w => .next (if !w.checkOk then s.checkCopy id else if w.status = .reserved then (s.markUnreachable w.from_).query w else s)
  | none => .next s

/-- An unanswered ownership query is repeated: a home that did not answer is unreachable, and the deputy is asked; where
the deputy did not answer, the home's reachability is judged afresh (R36, R58). -/
def execOwnQueryRetry (id : Nat) (s : State) : Host.Outcome State Fault Refusal :=
  match s.work? id with
  | some w =>
    let h := idHome id
    .next (if !w.checkOk then s.checkCopy id else if !w.doubt then s else if s.homeNode w.r = h then (s.markUnreachable h).query w else (s.markReachable h).query w)
  | none => .next s

/-- Contact with a node after a partition is regained (R38, R58): a home resynchronises with its deputy, and copies whose home that node is
are in doubt. -/
def State.regained (s : State) (n : Nat) : State :=
  let s := if s.flag R.RSE_DEPUTY_VALID && s.reg R.RSE_DEPUTY_NODE == n && decide (s.rse.bind = .bound) then
      (s.onRse fun e => { e with resyncNeeded := true }).sendMsg n .resync
    else s
  (s.rse.works.filter fun w => idHome w.r.id == n && !s.isHome w.r.id).foldl State.query s

/-- Something has come from a node: a probe of it has succeeded (R36), and where it stood under loss, contact is regained. -/
def State.contact (s : State) (n : Nat) : State :=
  let s := if s.rse.probes.any (fun p => idHome p.2 == n) then
      s.onRse fun e => { e with probes := e.probes.filter fun p => idHome p.2 != n }
    else s
  if s.rse.unreachable.contains n then (s.markReachable n).regained n else s

/-! ### The output ring (R48, R49, R336, R337) -/

/-- The host port is up. -/
def State.hostUp (s : State) : Bool := s.reg R.HCP_PORT_STATUS_STATE == 2

/-- A port that is not UP trains: from boot stage 9 on and in RECOVERY, never in FAILED, with its reference clock and no lane out of
service. -/
def State.hostTrains (s : State) : Bool :=
  !(s.hostUp || decide (s.bld.node = .failed) || s.bld.off || !s.pcr.ref156 || s.laneBad 0xFF 0 || s.laneBad 0xFF 4
      || (decide (s.bld.node = .booting) && s.bld.stage < 9))

/-- A TOKEN packet drains: its slots in the ring are free, and a request that has ended with an empty ring is gone. -/
def State.drainToken (s : State) (t : TokenPkt) : State :=
  let s := s.onHcp fun h => { h with tokens := h.tokens.filter fun x => !(x.id == t.id && x.pos == t.pos && x.epoch == t.epoch) }
  match s.work? t.id with
  | none => s
  | some w =>
    let ring := w.ring.filter fun x => !(t.pos ≤ x.pos && x.pos < t.pos + t.tokens.length)
    if ring.isEmpty && decide (w.r.state = .done) && w.notes.isEmpty then s.dropWork t.id else s.putWork { w with ring := ring }

/-- The same TOKEN packet, by its request, position and epoch. -/
def TokenPkt.same (t x : TokenPkt) : Bool := x.id == t.id && x.pos == t.pos && x.epoch == t.epoch

/-- The port has transmitted a packet: in ACK_MODE 0 a TOKEN packet drains here. -/
def State.transmitted (s : State) (o : HostOut) : State :=
  match o with
  | .token t => if s.flag R.HCP_TOKEN_CFG_ACK_MODE then s else s.drainToken t
  | _ => s

/-- A TOKEN packet waits behind its shaper. -/
def State.tokenHeld (s : State) (t : TokenPkt) : Bool :=
  s.hcp.held.any fun x => match x.2 with
    | .token y => t.same y
    | _ => false

/-- A TOKEN packet handed to the port. In ACK_MODE 0 one that its shaper holds keeps its slots until it leaves (R337, R342). -/
def State.sendToken (s : State) (t : TokenPkt) : State :=
  let u := s.hostSend 0 (.token t)
  if s.flag R.HCP_TOKEN_CFG_ACK_MODE then
    u.onHcp fun h => { h with tokens := updateAll t.same (fun x => { x with sent := true }) h.tokens }
  else if s.hostHolds 0 (.token t) then u else u.transmitted (.token t)

/-- The tokens of a commit released as one TOKEN packet. -/
def State.releaseTokens (s : State) (w : Work) (gen : Nat) : State :=
  let ts := w.ring.filter fun x => !x.released && x.pos < gen
  match ts with
  | [] => s.putWork w
  | t0 :: _ =>
    let last := gen == w.r.genCommitted
    let ending := if last && decide (w.r.state = .done) then 1 else if last && decide (w.r.state = .moving)
      && w.pendMove.any (fun p => decide (p.2 = .endOfTurn)) then 2 else 0
    let t : TokenPkt := ⟨w.r.id, w.r.tenant, w.r.replyAddr, w.r.replyPort, w.r.replyStream, t0.pos,
      ts.map (fun x => (x.token, x.logprob)), ending, w.r.epoch, w.r.hostTag, false, 0⟩
    let w' := { w with r := { w.r with streamed := max w.r.streamed gen },
                       ring := w.ring.map fun x => if x.pos < gen then { x with released := true } else x }
    let s := (s.putWork w').onHcp fun h => { h with tokens := h.tokens ++ [t] }
    if s.hostUp then s.sendToken t else s

/-- STEP_ACK at the owner: the tokens are released; a turn that ended with DONE is reported once nothing is owed. -/
def execStepAck (src id epoch gen : Nat) (s : State) : Host.Outcome State Fault Refusal :=
  let s := (s.takeMsg src (.stepAck id epoch gen)).meet id epoch
  match s.work? id with
  | none => .next s
  | some w =>
    if w.r.epoch ≠ epoch ∨ w.status ≠ .owned ∨ !w.notes.contains gen then .next s
    else
      let notes := w.notes.drop (w.notes.idxOf gen + 1)
      let s := s.releaseTokens { w with notes := notes } gen
      match s.work? id with
      | none => .next ((s.sendMsg (s.homeNode w.r) (.final ⟨id, epoch, .done, .ok, w.r.genCommitted, max w.r.streamed gen⟩)).freeKv id epoch)
      | some w =>
        if w.r.state = .done ∧ notes = [] then
          let s := s.sendMsg (s.homeNode w.r) (.final ⟨id, epoch, .done, .ok, w.r.genCommitted, w.r.streamed⟩)
          let s := s.freeKv id epoch
          .next (if w.ring.isEmpty then s.dropWork id else s.unreserve id)
        else .next s

/-! ### The step commit point (R46, R47, R101) -/

/-- Tokens up to and with the first stop token. -/
def untilStop (stops : List Nat) : List (Nat × Nat) → List (Nat × Nat)
  | [] => []
  | t :: ts => if stops.contains t.1 && t.1 != 0xFFFFFFFF then [t] else t :: untilStop stops ts

/-- A page's bytes with nothing but committed positions: zeros elsewhere (R101). -/
def committedBytes (kv : Nat) (p : Page) (data : List Byte) : List Byte :=
  let per := p.kvHeads * p.headDim * elemBytes p.element
  let n := min (kv - p.firstPos) p.slots * per
  let half := p.slots * per
  data.take n ++ List.replicate (half - n) 0 ++ (data.drop half).take n ++ List.replicate (data.length - (half + n)) 0

/-- Committed KV written through to a page's T1 copy: the page's committed positions where it has none yet, else the K and the
V bytes of the new positions (R76, R101). The number of acknowledgements to come with it. -/
def State.throughPage (s : State) (r : Record) (old : Nat) (p : Page) : Nat × State :=
  let data := if p.copyIndex = 0 then committedBytes r.kvCommitted p (s.pageData p) else s.pageData p
  if p.copyIndex = 0 then
    let q := { p with dataCrc := crc32c data, foreign := false, parityAt := (((s.parityPages p.req).find? (·.group == p.group)).bind
      (·.loc.remote?)).map (·.1) }
    (1, s.sendMsg p.copyNode (.migrate p.idx q data))
  else
    let per := p.kvHeads * p.headDim * elemBytes p.element
    let a := (max old p.firstPos - p.firstPos) * per
    let b := (min r.kvCommitted (p.firstPos + p.slots) - p.firstPos) * per
    let half := p.slots * per
    let put := fun (s : State) (off tag : Nat) => s.sendMsg p.copyNode
      (.writeThrough r.id r.epoch p.copyIndex off tag ((data.drop off).take (b - a)))
    (2, put (put s a (2 * p.idx)) (half + a) (2 * p.idx + 1))

/-- Every page with newly committed positions written through. -/
def State.throughAll (s : State) (r : Record) (old : Nat) : List Page → Nat × State
  | [] => (0, s)
  | p :: ps =>
    let (n, s) := s.throughPage r old p
    let (m, s) := s.throughAll r old ps
    (n + m, s)

/-- The tokens a step commits of those the sampler accepted: none after a stop token, at most SPEC_WINDOW + 1, and no more
than the turn has left (R47). -/
def stepTokens (r : Record) (toks : List (Nat × Nat)) : List (Nat × Nat) :=
  (untilStop r.stopTokens toks).take (min (r.specWindow + 1) (r.maxNewTokens - r.genCommitted))

/-- The committed tokens end the turn: a stop token, or the token that brings GEN_COMMITTED to MAX_NEW_TOKENS (section 2.3). -/
def stepEnds (r : Record) (ts : List (Nat × Nat)) : Bool :=
  decide (0 < ts.length) && ((ts.getLast?.any fun t => r.stopTokens.contains t.1 && t.1 != 0xFFFFFFFF)
    || r.genCommitted + ts.length == r.maxNewTokens)

/-- The state a commit leads to (rows 4 to 7). -/
def State.stepState (s : State) (r : Record) (ts : List (Nat × Nat)) : ReqState :=
  if stepEnds r ts then (if r.pauseAtEnd then .moving else .done)
  else if ts.isEmpty ∨ r.state = .decode then r.state
  else if s.reg R.PHS_PHASE_ROLE = 1 then .ready else .decode

/-- The owner's record after a commit of tokens (R46): a prefill chunk advances KV_COMMITTED by its length, a decode step by
its tokens. -/
def State.stepRecord (s : State) (w : Work) (si : StepInfo) (ts : List (Nat × Nat)) : Record :=
  let r := w.r
  let back := stepEnds r ts && r.pauseAtEnd
  { r with
    kvCommitted := r.kvCommitted + if si.chunk = 0 then ts.length else si.chunk
    genCommitted := r.genCommitted + ts.length
    lastToken := (ts.getLast?.map (·.1)).getD r.lastToken
    stepCount := r.stepCount + bit (!ts.isEmpty)
    state := s.stepState r ts
    retried := false
    nextState := if back then .paused else r.nextState
    ttlTicks := if back then ((w.pendPause.filter (!·.park)).map PauseReq.ttl).getD r.ttlTicks else r.ttlTicks }

/-- The working copy after a commit: the tokens in the output ring, the STEP_NOTE's acknowledgement awaited, an end of turn
with PAUSE_AT_END a hand-back that is due. -/
def stepWork (w : Work) (r : Record) (ts : List (Nat × Nat)) (through : Nat) : Work :=
  let ended := stepEnds w.r ts
  { w with
    r := r
    before := w.r.state
    step := none
    notes := w.notes ++ [r.genCommitted]
    genTokens := w.genTokens ++ ts.map (·.1)
    ring := w.ring ++ ts.zipIdx.map fun x => ⟨w.r.genCommitted + x.2, x.1.1, x.1.2, false⟩
    pendMove := if ended && w.r.pauseAtEnd then some (idHome r.id, .endOfTurn) else if ended then none else w.pendMove
    pendPause := if ended then none else w.pendPause
    throughWait := through }

/-- A host's MOVE that a turn's end overtakes is answered. -/
def State.moveOvertaken (s : State) (w : Work) (ended : Bool) : State :=
  match w.pendMove with
  | some (_, .host rep) => if ended then s.tellHost w.r rep .moveAborted [] else s
  | _ => s

/-- What a commit does to the request's pages: sealed, shared as a prefix, those beyond the end freed (R88 to R90). -/
def State.commitPages (s : State) (w : Work) (r : Record) : State :=
  let s := (s.sealKv r).makePrefix r w.prefixKey w.prefixLen
  if r.state = .done then s.trimKv r else s

/-- A coded request's newly committed positions written through (R101): the acknowledgements to come. -/
def State.stepThrough (s : State) (r : Record) (old : Nat) : Nat × State :=
  if r.coded then s.throughAll r old ((s.kvPages r.id).filter fun p =>
    p.loc.tier == 0 && p.firstPos < r.kvCommitted && old < p.firstPos + p.slots) else (0, s)

/-- The commit of a request's step, once its tokens fit the ring (R49). STEP_NOTE waits for the write-through; the step's
Mezzotint TAGs are released (R121). -/
def State.commitStep (s : State) (w : Work) (si : StepInfo) (toks : List (Nat × Nat)) : State :=
  let ts := stepTokens w.r toks
  let r := s.stepRecord w si ts
  let s := ((s.moveOvertaken w (stepEnds w.r ts)).commitPages w r).onSch fun b => { b with active := b.active.filter (· != r.id) }
  let t := s.stepThrough r w.r.kvCommitted
  let s := t.2.putWork (stepWork w r ts t.1)
  (if t.1 = 0 then s.sendNote r else s).releaseTags r.id

/-- A KV_WRITE of a request's step awaits its KV_ACK (R114). -/
def State.writesOut (s : State) (id : Nat) : Bool := s.mzt.outs.any fun o => !o.query && o.m.req == id

/-- The owner orders the commit of a step, once its KV_WRITEs are acknowledged and where the output ring takes its tokens; the
SCOMMIT that waits for it is told (R46, R49, R114, R149). -/
def State.tryCommit (s : State) (id : Nat) : State :=
  match s.work? id with
  | none => s
  | some w =>
    match w.step with
    | none => s
    | some si =>
      if !w.checkOk then s.loseStep id
      else if w.cancelled then s.endOwned w .cancelled .cancelled
      else if si.failed then s.failStep id
      else match si.accepted with
      | none => s
      | some toks =>
        if s.writesOut id ∨ 64 < w.ring.length + (stepTokens w.r toks).length then s
        else
          let t := s.commitStep w si toks
          let r := ((t.work? id).map (·.r)).getD w.r
          t.commitOrdered id .ok (r.genCommitted - w.r.genCommitted) r.genCommitted r.kvCommitted

/-- The owner commits a step. -/
def execStepCommit (id : Nat) (s : State) : Host.Outcome State Fault Refusal := .next (s.tryCommit id)

/-! ### Moves at the source (R51, R435 to R438) -/

/-- The host's MOVE of a request answered. -/
def State.answerOrigin (s : State) (r : Record) (o : MoveOrigin) (st : St) (payload : List Byte) : State :=
  match o with
  | .host rep => s.tellHost r rep st payload
  | _ => s

/-- A move is over without a commit: the request is back in its prior state; a cancel that came meanwhile is applied, a
hand-back waits to be started again, and pages lost meanwhile are dealt with (R69, R435, R437, row 11). -/
def State.returnPrior (s : State) (w : Work) (mv : MoveOut) : State :=
  let s := s.bump R.RSE_MOVE_STATS_ABORTED
  let w := { w with move := none, doubt := false }
  if w.cancelled then s.endOwned { w with r := { w.r with state := mv.prior } } .cancelled .cancelled
  else
    let w := match mv.origin with
      | .handback p => { w with r := { w.r with state := mv.prior }, pendPause := (w.pendPause.or (some p)), holdRetry := true }
      | .endOfTurn => { w with r := { w.r with state := mv.prior }, pendMove := some (mv.dest, .endOfTurn), holdRetry := true }
      | _ => { w with r := { w.r with state := mv.prior } }
    (s.putWork w).dealLost w.r.id

/-- A move starts: pages beyond KV_COMMITTED go (R88), the state is MOVING, and pages are evicted before a hand-back. -/
def State.startMove (s : State) (w : Work) (dest : Nat) (next : ReqState) (origin : MoveOrigin) (ttl : Option Nat) : State :=
  let back := decide (next = .paused ∨ next = .parked)
  let r := { w.r with state := .moving, nextState := next, ttlTicks := ttl.getD w.r.ttlTicks }
  let prior := if w.r.state = .moving then w.before else w.r.state
  let mv : MoveOut := ⟨dest, prior, if back then .evicting else .preparing, origin⟩
  let w' := { w with r := r, before := prior, pendPause := none, pendMove := none, holdRetry := false, move := some mv }
  let s := (s.trimKv r).putWork w'
  if back then s.evicted r.id else s.sendPrepare w' mv

/-- The pending move of a request at a step boundary with an empty ring starts (R51), once its lost pages are rebuilt
(R435). In CLOSING no move of R197 starts (Table 8.2). -/
def State.beginMove (s : State) (w : Work) : State :=
  if w.status ≠ .owned ∨ w.step.isSome ∨ !w.ring.isEmpty ∨ !w.notes.isEmpty ∨ w.move.isSome ∨ w.recalling ∨ w.throughWait ≠ 0
    ∨ s.migratingReq w.r.id ∨ (s.kvPages w.r.id).any (!·.headerOk) ∨ s.pge.rebuilds.any (·.page.req == w.r.id) then s
  else match w.pendMove with
  | some (d, .endOfTurn) => s.startMove w d .paused .endOfTurn none
  | m =>
    if !decide (w.r.state = .ready ∨ w.r.state = .decode) then s
    else match w.pendPause with
    | some p =>
      let home := if s.isHome w.r.id then s.node else idHome w.r.id
      s.startMove w home (if p.park then .parked else .paused) (.handback p) (if p.park then none else some p.ttl)
    | none =>
      match m with
      | some (d, o) => if o = .burin ∧ s.reg R.PHS_PHASE_STATE = 1 then s else s.startMove w d .decode o none
      | none => s

/-- A refused hand-back or park is started again. -/
def execHandbackRetryExpiry (id : Nat) (s : State) : Host.Outcome State Fault Refusal :=
  let s := s.checkCopy id
  match s.work? id with
  | some w => .next (if w.holdRetry then s.beginMove { w with holdRetry := false } else s)
  | none => .next s

/-- The move of a request to a node, in a phase. -/
def Work.moveTo (w : Work) (dest : Nat) (ph : MovePhase) : Option MoveOut :=
  w.move.filter fun m => m.dest == dest && decide (m.phase = ph)

/-- MV_PREPARED at the source. -/
def execMvPrepared (src id epoch : Nat) (s : State) : Host.Outcome State Fault Refusal :=
  let s := (s.takeMsg src (.mvPrepared id epoch)).meet id epoch
  match (s.work? id).filter fun w => w.r.epoch == epoch with
  | none => .next (s.sendMsg src (.mvAbort id epoch))
  | some w =>
    match w.moveTo src .preparing with
    | none => .next (if (w.moveTo src .committing).isSome then s else s.sendMsg src (.mvAbort id epoch))
    | some mv => .next ((s.putWork { w with move := some { mv with phase := .committing } }).sendMsg (s.homeNode w.r)
        (.mvCommitReq id epoch src))

/-- MV_REFUSED at the source. -/
def execMvRefused (src id epoch : Nat) (status : St) (s : State) : Host.Outcome State Fault Refusal :=
  let s := (s.takeMsg src (.mvRefused id epoch status)).meet id epoch
  match (s.work? id).filter fun w => w.r.epoch == epoch with
  | none => .next s
  | some w =>
    match w.moveTo src .preparing with
    | none => .next s
    | some mv =>
      let s := s.passOver id src
      .next (((s.bump R.SCH_PLACE_STATS_REFUSED).answerOrigin w.r mv.origin .moveRefused (toBytes 8 status.code)).returnPrior w mv)

/-- PREPARE_US expires at the source: MV_ABORT goes to a destination that stood reachable until then, which is unreachable
from now on (R36). -/
def execPrepareTimeout (id : Nat) (s : State) : Host.Outcome State Fault Refusal :=
  let s := s.checkCopy id
  match s.work? id with
  | none => .next s
  | some w =>
    match w.move with
    | some mv =>
      if mv.phase = .preparing then
        let t := if s.reachable mv.dest then s.sendMsg mv.dest (.mvAbort id w.r.epoch) else s
        .next (((t.markUnreachable mv.dest).answerOrigin w.r mv.origin .moveAborted []).returnPrior w mv)
      else .next s
    | none => .next s

/-- COMMIT_US expires at the source or the destination: the node asks who owns the request. A source's home has not
answered (R36). -/
def execMoveCommitTimeout (id : Nat) (s : State) : Host.Outcome State Fault Refusal :=
  let s := s.checkCopy id
  match s.work? id with
  | none => .next s
  | some w =>
    if w.status = .prepared then .next (s.query w)
    else if w.move.any fun m => decide (m.phase = .committing) then
      .next ((s.markUnreachable (s.homeNode w.r)).query w)
    else .next s

/-- The source's copy of a committed move is released (R55): the pages that followed are freed, its own pool's pages are
held for the new owner, the host's MOVE has its outcome (R440), and a PAUSE or park that waited goes back to the home (R438). -/
def State.releaseSource (s : State) (w : Work) (epoch : Nat) : State :=
  let id := w.r.id
  let s := match w.move with
    | some mv => s.answerOrigin w.r mv.origin .ok []
    | none => s
  let s := match w.move.map (·.origin) with
    | some (.handback p) => if p.park then s.bump R.PHS_TURN_STATS_PARKED else s
    | _ => s
  let s := match w.pendPause with
    | some p => s.sendMsg (s.homeNode w.r) (.notOwner id w.r.epoch (.pause p))
    | none => s
  let s := (s.ownPages id).foldl (fun s p =>
    match p.loc with
    | .t2 .. => s.putPage { p with foreign := true, epoch := epoch, deadline := s.tick + s.reg R.PGE_TTL_LEASE_TICKS }
    | _ => s.freePage p.idx) s
  (s.dropWork id).sendMsg (s.homeNode w.r) (.mvReleased id epoch)

/-- A prepared copy becomes the owner's (row 9). -/
def State.enterMoved (s : State) (w : Work) (epoch : Nat) : State :=
  let r := { w.r with owner := s.node, epoch := epoch, state := w.r.nextState, nextState := .free, moveDest := 0, movePhase := 0,
                      retried := false }
  (s.putWork { w with r := r, status := .owned, doubt := false, recalling := (s.kvPages r.id).any (s.toRecall r) }).dealLost r.id

/-- MV_COMMITTED at the destination or the source. -/
def execMvCommitted (src id epoch owner : Nat) (s : State) : Host.Outcome State Fault Refusal :=
  let s := (s.takeMsg src (.mvCommitted id epoch owner)).checkCopy id
  match s.work? id with
  | none => .next s
  | some w =>
    if epoch = w.r.epoch + 1 ∧ w.status = .prepared ∧ owner = s.node then .next (s.enterMoved w epoch)
    else if epoch = w.r.epoch + 1 ∧ w.status = .owned ∧ owner ≠ s.node ∧ w.move.isSome then .next (s.releaseSource w epoch)
    else .next (s.overtaken id epoch)

/-- MV_ABORTED at the source (Table 2.5). -/
def execMvAborted (src id epoch : Nat) (status : St) (s : State) : Host.Outcome State Fault Refusal :=
  let s := (s.takeMsg src (.mvAborted id epoch status)).meet id epoch
  match (s.work? id).filter fun w => w.r.epoch == epoch with
  | none => .next s
  | some w =>
    match w.move with
    | none => .next s
    | some mv =>
      let s := s.answerOrigin w.r mv.origin (if status = .nodeUnreachable then .moveAborted else status) []
      let t := s.bump R.RSE_MOVE_STATS_ABORTED
      match status with
      | .epochStale => .next (t.discardCopy id)
      | .cancelled => .next (t.endOwned w .cancelled .cancelled)
      | .epochExhausted => .next (t.endOwned w .failed .epochExhausted)
      | .nodeUnreachable => .next ((s.sendMsg mv.dest (.mvAbort id epoch)).returnPrior w mv)
      | _ => .next (s.returnPrior w mv)

/-! ### Moves at the destination (R52, R53, R435, R436) -/

/-- MV_PREPARE at the destination. A hand-back is never refused for capacity or for its model (R52): where the pages that
follow it do not fit, its KV is given up as under R96 (log entry 64). -/
def execMvPrepare (src : Nat) (m : CopyMsg) (s : State) : Host.Outcome State Fault Refusal :=
  match (s.takeMsg src (.mvPrepare m)).admitCopy src m true with
  | .error t => .next t
  | .ok s =>
    let back := decide (m.r.nextState = .paused ∨ m.r.nextState = .parked)
    let pulled := (m.pages.filter (·.tier == 0)).length
    let mo := (s.model? m.r.modelId).getD ⟨m.r.modelId, 0, 0, 0, 0, m.r.pageSize⟩
    let n := if back then pulled else s.framesNeeded m mo false true
    if back && !s.reserveFits m.r.context m.r.pageSize n then
      let r := { m.r with kvCommitted := 0 }
      let s := s.sendFrees r.id r.epoch ((m.pages.filter (·.tier != 0)).map (pageOfRef r mo))
      .next ((s.post .pageLost r.context (formP .ok 0xFFFD 0 r.id)).putWork (workOf { m with r := r, pages := [] } src .prepared []))
    else
      let (s, ws) := (s.reserve m.r.id m.r.pageSize n).installRefs m.r mo m.pages
      let (keys, s) := if ws.isEmpty then ([], s) else s.postDevice m.r.context ws
      .next (s.putWork (workOf m src .prepared keys))

/-- Every pulled page is complete. -/
def execPullComplete (id : Nat) (s : State) : Host.Outcome State Fault Refusal :=
  let s := s.checkCopy id
  match s.work? id with
  | some w => .next (if w.status = .prepared ∧ w.pulls = [] then s.sendMsg w.from_ (.mvPrepared id w.r.epoch) else s)
  | none => .next s

/-- A pull READ fails: the prepared copy is discarded and the move refused. -/
def execPullReadFailed (id tag : Nat) (status : St) (s : State) : Host.Outcome State Fault Refusal :=
  let s := s.checkCopy id
  match s.work? id with
  | some w => .next (if w.status = .prepared ∧ w.pulls.contains tag ∧ status ≠ .ok then
      ((s.discardCopy id).sendMsg w.from_ (.mvRefused id w.r.epoch .pageMissing)).heldResume id else s)
  | none => .next s

/-- MV_ABORT at the destination. -/
def execMvAbort (src id epoch : Nat) (s : State) : Host.Outcome State Fault Refusal :=
  let s := (s.takeMsg src (.mvAbort id epoch)).meet id epoch
  match s.work? id with
  | some w => .next (if w.status = .prepared ∧ w.r.epoch = epoch then (s.discardCopy id).heldResume id else s)
  | none => .next s

/-! ### Ownership replies (R45, R58, Table 2.5) -/

/-- OWN_REPLY: the copy that matches and is named owner owns the request, any other is discarded; a reply at a lower epoch
than the copy's is dropped (R57). -/
def execOwnReply (src id epoch owner : Nat) (s : State) : Host.Outcome State Fault Refusal :=
  let s := (s.takeMsg src (.ownReply id epoch owner)).checkCopy id
  match s.work? id with
  | none => .next s
  | some w =>
    let mine := decide (owner = s.node)
    if epoch < w.r.epoch then .next s
    else match w.status with
    | .reserved => .next (if mine && epoch == w.r.epoch + 1 then s.enterPlaced w else s.discardCopy id)
    | .prepared => .next (if mine && epoch == w.r.epoch + 1 then s.enterMoved w epoch else (s.discardCopy id).heldResume id)
    | .owned =>
      if mine && (epoch == w.r.epoch || epoch == w.r.epoch + 1) then
        let w' := { w with r := { w.r with epoch := epoch }, doubt := false }
        match w.move with
        | some mv =>
          let s := if mv.dest = s.node then s else s.sendMsg mv.dest (.mvAbort id w.r.epoch)
          .next ((s.answerOrigin w.r mv.origin .moveAborted []).returnPrior w' mv)
        | none => .next (s.putWork w')
      else if epoch == w.r.epoch + 1 && w.move.any (fun m => m.dest == owner) then .next (s.releaseSource w epoch)
      else .next (s.discardCopy id)

/-! ### Forwarded commands at the owner (R69, R438, R441) -/

/-- A forwarded command meets this node's copy (R57, R441): the copy, or what to do without one. -/
def State.ownedFor (s : State) (src id epoch : Nat) (kind : FwdKind) : Except State Work :=
  let no := fun (s : State) (e : Nat) => s.sendMsg src (.notOwner id e kind)
  let s := s.checkCopy id
  match s.work? id with
  | none => .error (no s 0)
  | some w =>
    if w.status ≠ .owned then .error (no s w.r.epoch)
    else if w.r.epoch < epoch then .error (no (s.discardCopy id) 0)
    else if epoch < w.r.epoch then .error s
    else .ok w

/-- CANCEL_FWD at the owner: before a commit, or after one that did not end the turn, the request is final CANCELLED; in a
move the cancel waits for its outcome; a turn that has ended is not cancelled here. -/
def execCancelFwd (src id epoch : Nat) (s : State) : Host.Outcome State Fault Refusal :=
  let s := s.takeMsg src (.cancelFwd id epoch)
  match s.ownedFor src id epoch .cancel with
  | .error t => .next t
  | .ok w =>
    if w.r.state = .done then .next s
    else if decide (w.r.state = .moving) || w.pendMove.any (fun m => decide (m.2 = .endOfTurn)) then
      .next (s.putWork { w with cancelled := true })
    else .next (s.endOwned { w with cancelled := true } .cancelled .cancelled)

/-- A PAUSE or park meets what is pending or in progress (R438): it takes the place of a MOVE that has not started, waits for
one in progress, and is answered by a hand-back; a park leaves a PAUSE that is pending. -/
def State.askHandback (s : State) (w : Work) (p : PauseReq) : State × Work :=
  let w' := if p.park && w.pendPause.isSome then w else { w with pendPause := some p }
  match w.pendMove, w.move with
  | some (_, .endOfTurn), _ => (s, if p.park then w else { w with r := { w.r with ttlTicks := p.ttl } })
  | _, some mv =>
    match mv.origin with
    | .handback _ | .endOfTurn => (s, w)
    | _ => (s, w')
  | some (_, o), none => (s.answerOrigin w.r o .moveAborted [], { w' with pendMove := none })
  | none, none => (s, w')

/-- FWD_PAUSE at the owner. -/
def execFwdPause (src id epoch : Nat) (p : PauseReq) (s : State) : Host.Outcome State Fault Refusal :=
  let s := s.takeMsg src (.fwdPause id epoch p)
  match s.ownedFor src id epoch (.pause p) with
  | .error t => .next t
  | .ok w =>
    if w.r.state = .done then .next s
    else
      let a := s.askHandback w p
      .next (a.1.putWork a.2)

/-- FWD_MOVE at the owner. -/
def execFwdMove (src id epoch dest : Nat) (reply : ReplyTo) (s : State) : Host.Outcome State Fault Refusal :=
  let s := s.takeMsg src (.fwdMove id epoch dest reply)
  match s.ownedFor src id epoch (.move dest reply) with
  | .error t => .next t
  | .ok w =>
    if !decide (w.r.state = .ready ∨ w.r.state = .decode) || w.pendMove.isSome || w.pendPause.isSome || w.move.isSome then
      .next (s.tellHost w.r reply .badState [])
    else .next (s.putWork { w with pendMove := some (dest, .host reply) })

end Sys2Proof.Machine
end

