-- ==== Sys2Proof/Machine/Store.lean ====
section
/-! DEFINITION. The code table and delta set store (sections 6.5, 6.6): the EXP commands, binds and their release. Staged
blocks live within one instruction, so between commands the references of a table or slot are its binds. -/

namespace Sys2Proof.Machine

/-- The outcome of an EXP command; CONTEXT is a bind's own operand, and another command leaves it as it was written. -/
def State.expStatus (s : State) (op ctx id : Nat) (st : St) : State :=
  let s := if 5 ≤ op then s.setReg R.EXP_CMD_CONTEXT ctx else s
  s.setRegs [(R.EXP_CMD_OP, op), (R.EXP_CMD_ID, id), (R.EXP_CMD_STATUS_STATUS, st.code)]

/-- The table loaded or dropping under an ID. -/
def State.table? (s : State) (id : Nat) : Option CodeTable := s.exp.tables.find? (·.id == id)

/-- The delta slot loaded or dropping. -/
def State.dslot? (s : State) (k : Nat) : Option DeltaSlot := s.exp.slots.find? (·.slot == k)

/-- A dropping ID without references is freed (R169). -/
def State.freeTables (s : State) : State :=
  let gone := s.exp.tables.filter fun t => t.dropping && t.binds.isEmpty
  let s := s.onExp fun e => { e with tables := e.tables.filter fun t => !(t.dropping && t.binds.isEmpty) }
  gone.foldl (fun s t => s.post .codeTableFreed 0xFFF (formO .ok s.node t.id 0)) s

/-- A dropping slot without references is freed (R169). -/
def State.freeDsets (s : State) : State :=
  let gone := s.exp.slots.filter fun t => t.dropping && t.binds.isEmpty
  let s := s.onExp fun e => { e with slots := e.slots.filter fun t => !(t.dropping && t.binds.isEmpty) }
  gone.foldl (fun s t => s.post .deltaSetFreed 0xFFF (formO .ok s.node t.slot 0)) s

/-- Every bind of a context released (R167). -/
def State.releaseBinds (s : State) (c : Nat) : State :=
  ((s.onExp fun e => { e with
    tables := e.tables.map fun t => { t with binds := t.binds.filter (· != c) }
    slots := e.slots.map fun t => { t with binds := t.binds.filter (· != c) }
    storedBinds := e.storedBinds.filter (· != c) }).freeTables).freeDsets

/-- The store runs no command (R166). -/
def State.expIdle (s : State) : Bool := !s.flag R.EXP_CMD_STATUS_BUSY

/-- TABLE_LOAD: the same content makes a dropping ID loaded again; different content under a held ID completes once every expander has
dropped the old (R170). -/
def State.tableLoad (s : State) (id : Nat) : State × St :=
  let a := s.reg R.EXP_CMD_ADDR_OFFSET
  match tableImage (s.rd .hbm) a with
  | none => (s.expStatus 1 0 id .badParam, .badParam)
  | some (el, tid, lens) =>
    if tid ≠ id ∨ a % 64 ≠ 0 ∨ !s.hbmMapped a 144 then (s.expStatus 1 0 id .badParam, .badParam)
    else match s.table? id with
    | none =>
      ((s.onExp fun e => { e with tables := e.tables ++ [⟨id, el, lens, false, [], []⟩] }).expStatus 1 0 id .ok, .ok)
    | some t =>
      if t.element = el ∧ t.lens = lens then
        ((s.onExp fun e => { e with tables := upsert (·.id == id) { t with dropping := false } e.tables }).expStatus 1 0 id .ok, .ok)
      else if !t.binds.isEmpty then (s.expStatus 1 0 id .tableBusy, .tableBusy)
      else
        let s := s.onExp fun e => { e with
          tables := upsert (·.id == id) { t with resident := [] } e.tables
          busy := some (.tableLoad id el lens) }
        ((s.setRegs [(R.EXP_CMD_OP, 1), (R.EXP_CMD_ID, id), (R.EXP_CMD_STATUS_BUSY, 1)]), .ok)

/-- TABLE_LOAD. -/
def execTableLoad (id : Nat) (s : State) : Host.Outcome State Fault Refusal :=
  .next (if s.expIdle then (s.tableLoad id).1 else s)

/-- Every expander has confirmed the invalidation. -/
def execTableInvalidateDone (s : State) : Host.Outcome State Fault Refusal :=
  match s.exp.busy with
  | some (.tableLoad id el lens) =>
    let s := s.onExp fun e => { e with
      tables := upsert (·.id == id) ⟨id, el, lens, false, [], []⟩ e.tables
      busy := none }
    .next ((s.setReg R.EXP_CMD_STATUS_BUSY 0).expStatus 1 0 id .ok)
  | _ => .next s

/-- TABLE_DROP. -/
def State.tableDrop (s : State) (id : Nat) : State × St :=
  if id = 0 then (s.expStatus 2 0 id .badParam, .badParam)
  else match s.table? id with
  | none => (s.expStatus 2 0 id .tableAbsent, .tableAbsent)
  | some t =>
    let s := s.onExp fun e => { e with tables := upsert (·.id == id) { t with dropping := true } e.tables }
    (s.freeTables.expStatus 2 0 id .ok, .ok)

/-- TABLE_DROP. -/
def execTableDrop (id : Nat) (s : State) : Host.Outcome State Fault Refusal :=
  .next (if s.expIdle then (s.tableDrop id).1 else s)

/-- DSET_LOAD: the checks before the set is read. -/
def State.dsetLoad (s : State) (k : Nat) : State × St :=
  let st : St := if !s.flag R.CAP_FEATURES_STIPPLE then .unitAbsent
    else if k = 0 then .badParam
    else if (s.dslot? k).isSome then .tableBusy
    else if s.reg R.CAP_LIMITS_DELTA_SETS_MAX ≤ s.exp.slots.length then .deltaLimit
    else .ok
  if st = .ok then
    ((s.onExp fun e => { e with busy := some (.dsetLoad k (s.reg R.EXP_CMD_ADDR_OFFSET)) }).setRegs
      [(R.EXP_CMD_OP, 3), (R.EXP_CMD_ID, k), (R.EXP_CMD_STATUS_BUSY, 1)], .ok)
  else (s.expStatus 3 0 k st, st)

/-- DSET_LOAD. -/
def execDsetLoad (slot : Nat) (s : State) : Host.Outcome State Fault Refusal :=
  .next (if s.expIdle then (s.dsetLoad slot).1 else s)

/-- The set has been read (R172). -/
def execDsetLoadReadDone (s : State) : Host.Outcome State Fault Refusal :=
  match s.exp.busy with
  | some (.dsetLoad k a) =>
    let s := (s.onExp fun e => { e with busy := none }).setReg R.EXP_CMD_STATUS_BUSY 0
    let set := if a % 64 = 0 then (dsetOk (s.rd .hbm) a).filter fun h => s.hbmMapped a h.setBytes else none
    match set with
    | some h => .next ((s.onExp fun e => { e with slots := e.slots ++ [⟨k, a, h.modelId, h.variantId, false, []⟩] }).expStatus 3 0 k .ok)
    | none => .next (s.expStatus 3 0 k .deltaFormat)
  | _ => .next s

/-- DSET_DROP. -/
def State.dsetDrop (s : State) (k : Nat) : State × St :=
  if k = 0 then (s.expStatus 4 0 k .badParam, .badParam)
  else match s.dslot? k with
  | none => (s.expStatus 4 0 k .deltaAbsent, .deltaAbsent)
  | some t =>
    let s := s.onExp fun e => { e with slots := upsert (·.slot == k) { t with dropping := true } e.slots }
    (s.freeDsets.expStatus 4 0 k .ok, .ok)

/-- DSET_DROP. -/
def execDsetDrop (slot : Nat) (s : State) : Host.Outcome State Fault Refusal :=
  .next (if s.expIdle then (s.dsetDrop slot).1 else s)

/-- A context in OPEN. -/
def State.ctxOpen (s : State) (c : Nat) : Bool := (s.ctx? c).any fun x => decide (x.state = .open_)

/-- A context already binds 64 tables, the stored one counted. -/
def State.bindsFull (s : State) (c : Nat) : Bool :=
  64 ≤ (s.exp.tables.filter fun x => x.binds.contains c).length + bit (s.exp.storedBinds.contains c)

/-- BIND_TABLE of the stored table, which is always loaded. -/
def State.bindStored (s : State) (c : Nat) : State × St :=
  if s.exp.storedBinds.contains c then (s.expStatus 5 c 0 .ok, .ok)
  else if s.bindsFull c then (s.expStatus 5 c 0 .badParam, .badParam)
  else ((s.onExp fun e => { e with storedBinds := e.storedBinds ++ [c] }).expStatus 5 c 0 .ok, .ok)

/-- BIND_TABLE. -/
def State.bindTable (s : State) (c id : Nat) : State × St :=
  if !s.ctxOpen c then (s.expStatus 5 c id .badParam, .badParam)
  else if id = 0 then s.bindStored c
  else match s.table? id with
  | none => (s.expStatus 5 c id .tableAbsent, .tableAbsent)
  | some t =>
    if t.dropping then (s.expStatus 5 c id .tableAbsent, .tableAbsent)
    else if t.binds.contains c then (s.expStatus 5 c id .ok, .ok)
    else if s.bindsFull c then (s.expStatus 5 c id .badParam, .badParam)
    else ((s.onExp fun e => { e with tables := upsert (·.id == id) { t with binds := t.binds ++ [c] } e.tables }).expStatus 5 c id .ok, .ok)

/-- BIND_TABLE. -/
def execBindTable (ctx id : Nat) (s : State) : Host.Outcome State Fault Refusal :=
  .next (if s.expIdle then (s.bindTable ctx id).1 else s)

/-- BIND_DSET. -/
def State.bindDset (s : State) (c k : Nat) : State × St :=
  if !s.ctxOpen c then (s.expStatus 6 c k .badParam, .badParam)
  else match s.dslot? k with
  | none => (s.expStatus 6 c k .deltaAbsent, .deltaAbsent)
  | some t =>
    if t.dropping then (s.expStatus 6 c k .deltaAbsent, .deltaAbsent)
    else if t.binds.contains c then (s.expStatus 6 c k .ok, .ok)
    else if 256 ≤ (s.exp.slots.filter fun x => x.binds.contains c).length then (s.expStatus 6 c k .badParam, .badParam)
    else ((s.onExp fun e => { e with slots := upsert (·.slot == k) { t with binds := t.binds ++ [c] } e.slots }).expStatus 6 c k .ok, .ok)

/-- BIND_DSET. -/
def execBindDset (ctx slot : Nat) (s : State) : Host.Outcome State Fault Refusal :=
  .next (if s.expIdle then (s.bindDset ctx slot).1 else s)

/-- A write to EXP_CMD_ADDR (R178). -/
def State.expAddrWrite (s : State) (value : Nat) : State × St :=
  if s.expIdle then (s.writeRw 0x140008 value, .ok) else (s, .badState)

/-- A write to EXP_CMD_ADDR. -/
def execExpCmdAddrWrite (value : Nat) (s : State) : Host.Outcome State Fault Refusal := .next (s.expAddrWrite value).1

/-- A write to EXP_CMD (R166). -/
def State.expCmdWrite (s : State) (value : Nat) : State × St :=
  if !s.expIdle then (s, .badState)
  else
    let c := bitsOf value 47 36
    let id := bitsOf value 35 24
    match bitsOf value 63 60 with
    | 0 => (s.writeRw 0x140000 value, .ok)
    | 1 => ((s.tableLoad id).1.setReg R.EXP_CMD_CONTEXT c, .ok)
    | 2 => ((s.tableDrop id).1.setReg R.EXP_CMD_CONTEXT c, .ok)
    | 3 => ((s.dsetLoad id).1.setReg R.EXP_CMD_CONTEXT c, .ok)
    | 4 => ((s.dsetDrop id).1.setReg R.EXP_CMD_CONTEXT c, .ok)
    | 5 => ((s.bindTable c id).1, .ok)
    | 6 => ((s.bindDset c id).1, .ok)
    | _ => (s, .badParam)

end Sys2Proof.Machine
end

