-- ==== Sys2Proof/Machine/Issue.lean ====
section
/-! DEFINITION. A core's sequencer (section 5.1): fetching and issuing the next instruction, its operand ranges, its
results, its completion. An instruction's first tile-op runs within its command, the others at the tile-op boundaries that
follow (log entry 19). -/

namespace Sys2Proof.Machine

/-- The batch a core runs. -/
def State.coreBatch (s : State) (n : Nat) : Option Batch := s.sch.batches.find? (·.left.contains n)

/-- Arithmetic conditions recorded on a core (R140). -/
def State.arith (s : State) (n : Nat) (f : ArithFlags) : State :=
  let put := fun (b : Bool) (g : Fld) (s : State) => if b then s.setReg g 1 else s
  put f.nanMade (R.CORE_ARITH_FLAGS_NAN_MADE n) (put f.infMade (R.CORE_ARITH_FLAGS_INF_MADE n)
    (put f.saturated (R.CORE_ARITH_FLAGS_SATURATED n) (put f.intSaturated (R.CORE_ARITH_FLAGS_INT_SATURATED n) s)))

/-- A core with a squash to take stops (R128). -/
def State.takeSquash (s : State) (c : Core) : State := if c.squash && !c.stopped then s.stopCore c else s

/-- The next instruction of a core is issued if it is `o`: `f` gets the state and the core's record with the PC past it,
and the word. An opcode of no row of Table 5.10 faults at issue (R145). -/
def State.issue (s : State) (n : Nat) (o : Opc) (f : State → Core → Word128 → State) : State :=
  let c := s.core n
  if c.power ≠ .running ∨ c.wait.isSome ∨ c.stopped then s
  else if c.squash then s.takeSquash c
  else
    let a := c.prog + 16 * c.pc
    let w := BitVec.ofNat 128 (s.rdNum .hbm a 16)
    match s.poisoned .hbm a 16 with
    | some st => s.coreFault n st c.pc o.code
    | none =>
      if (Opc.ofCode (opcodeOf w)).isNone then s.coreFault n .illegalInstr c.pc (opcodeOf w)
      else if opcodeOf w ≠ o.code then s
      else if !rsvdOk o w then s.coreFault n .illegalInstr c.pc o.code
      else
        let c' := { c with pc := c.pc + 1 }
        f (s.putCore c') c' w

/-- A fault of the instruction a core has just issued. -/
def State.instrFault (s : State) (c : Core) (o : Opc) (st : St) : State := s.coreFault c.num st (c.pc - 1) o.code

/-- Byte `off` of a core's operand buffer. -/
def State.ob (s : State) (n off : Nat) : Byte := s.rd .op (n * obSize + off)

/-- Bytes written into a core's operand buffer. -/
def State.obWrite (s : State) (n : Nat) (w : ObWrite) : State := s.wr .op (n * obSize + w.1) w.2

/-- Two ranges of an operand buffer have a 64-byte granule in common (R126). -/
def granulesMeet (a b : Nat × Nat) : Bool :=
  let n := fun (r : Nat × Nat) => if r.2 = 0 then 0 else (r.1 + r.2 + 63) / 64 - r.1 / 64
  meets (a.1 / 64) (n a) (b.1 / 64) (n b)

/-- An instruction of the core that is not complete writes a granule of a range read or written, or reads a granule of a range
written (R126). -/
def State.loading (s : State) (n : Nat) (reads writes : List (Nat × Nat)) : Bool :=
  ((s.coreRemotes n).any fun o =>
    (decide (o.kind = .load) && (reads ++ writes).any (granulesMeet (o.dest, o.len)))
      || (decide (o.kind = .store) && writes.any (granulesMeet (o.dest, o.len))))
    || (s.core n).tail.any fun op => (op.does.any fun e => (reads ++ writes).any (granulesMeet e.writes))
      || op.reads.any fun r => writes.any (granulesMeet r)

/-- The data mover has still to end a tile-op of an earlier instruction of the core. -/
def State.moving (s : State) (n : Nat) : Bool := (s.core n).tail.any (·.mover)

/-- A range lies beyond the operand buffer (Table 5.2). -/
def beyond (rs : List (Nat × Nat)) : Bool := rs.any fun r => obSize < r.1 + r.2

/-- The status recorded with the first poison the ranges an instruction reads hold (Table 5.2). -/
def State.readFault (s : State) (n : Nat) (rs : List (Nat × Nat)) : Option St :=
  rs.findSome? fun r => s.poisoned .op (n * obSize + r.1) r.2

/-- The core as it stood before an instruction that cannot start yet. -/
def State.notYet (s : State) (c : Core) : State := s.putCore { c with pc := c.pc - 1 }

/-- What keeps an instruction from running on its ranges: a range beyond the buffer, an earlier instruction it must wait for, the data
mover that is at work for one of its own form, or poison as it then stands. -/
def State.held (s : State) (c : Core) (o : Opc) (rs ws : List (Nat × Nat)) : Option State :=
  if beyond (rs ++ ws) then some (s.instrFault c o .operandRange)
  else if s.loading c.num rs ws || (decide (o.form = .x) && s.moving c.num) then some (s.notYet c)
  else (s.readFault c.num rs).map (s.instrFault c o)

/-- What a calculation of an instruction leaves beside its results: the free values it used, its random draws and its
conditions. -/
def State.calcDone (s : State) (c : Core) (k : CalcSt) : State :=
  ((s.setFresh k.fresh).putCore { c with draws := c.draws + k.draws }).arith c.num k.flags

/-- A row of an instruction belongs to a request whose rows are dead (R189; which batch row it is is log entry 21). -/
def State.deadRow (s : State) (n j : Nat) : Bool :=
  (s.coreBatch n).any fun b => b.rows.any fun r => r.dead && r.rowFirst ≤ j && j < r.rowFirst + r.rows

/-! ### Frames of an access (R256) -/

/-- Bytes from the start of an access, with their numbers, in ascending order; no piece crosses 4 KiB of the target. -/
def accessCut : Nat → Nat → Nat → Nat → List (Nat × Nat)
  | 0, _, _, _ => []
  | fuel + 1, off, d, len =>
    if len = 0 then [] else
      let n := min len (4096 - (off + d) % 4096)
      (d, n) :: accessCut fuel off (d + n) (len - n)

/-- The frames of an access of `len` bytes at an offset. -/
def accessPieces (off len : Nat) : List (Nat × Nat) := accessCut (len / 4096 + 2) off 0 len

/-- The REGION and KEY of an access to another node: the lowest entry of FAB_OUTKEY that covers it (R259). -/
def State.outKey (s : State) (ctx node space off len : Nat) : Option (Nat × Nat) :=
  ((List.range 4096).find? fun i =>
    s.flag (R.FAB_OUTKEY_A_VALID i) && s.reg (R.FAB_OUTKEY_A_DST_NODE i) == node
      && s.reg (R.FAB_OUTKEY_A_SPACE i) == space
      && (s.reg (R.FAB_OUTKEY_A_CONTEXT i) == ctx || s.reg (R.FAB_OUTKEY_A_CONTEXT i) == 0xFFF)
      && s.reg (R.FAB_OUTKEY_B_BASE i) ≤ off
      && off + len ≤ s.reg (R.FAB_OUTKEY_B_BASE i) + s.reg (R.FAB_OUTKEY_C_LENGTH i)).map fun i =>
    (s.reg (R.FAB_OUTKEY_D_REGION i), s.reg (R.FAB_OUTKEY_A_KEY i))

/-- What keeps an access to another node from being sent (R252, R259); else its REGION and KEY. One to the node itself carries no
key (R258). -/
def State.outAccess (s : State) (ctx addr len : Nat) : Except St (Nat × Nat) :=
  if gNode addr = s.node then .ok (0, 0) else match s.outKey ctx (gNode addr) (gSpace addr) (gOff addr) len with
  | none => .error .keyInvalid
  | some k => if s.isUnreachable (gNode addr) then .error .nodeUnreachable else .ok k

/-- A frame of an instruction sent to another node, or kept behind the node's own held signals (R258). -/
def State.sendAccess (s : State) (c : Core) (done : Nat) (kind : RemoteKind) (k : Nat × Nat) (addr len dest : Nat)
    (poison : Bool) (body : OpHdr → Body) : State :=
  let tag := s.newTag
  let s := s.addRemote ⟨tag, kind, gNode addr, addr, k.1, len, dest, .core c.num done (c.pc - 1)⟩
  s.injectOr (s.compOf c.ctx) { mkFrame s.node (gNode addr) false (body ⟨addr, k.1, k.2, len, tag⟩) with poison := poison }

/-- The address of a piece of an access. -/
def pieceAddr (addr d : Nat) : Nat := gAddr (gNode addr) (gSpace addr) ((gOff addr + d) % 2 ^ 46)

/-- A piece of a load of the node's own (R258); a refused one leaves poison (R267). -/
def State.loadPiece (s : State) (c : Core) (addr ob : Nat) (p : Nat × Nat) : State :=
  let sp := gSpace addr
  let off := gOff addr + p.1
  let dst := c.num * obSize + ob + p.1
  if sp < 2 && s.targetMapped sp off p.2 then s.copyMem (spaceMem sp) off .op dst p.2 else s.poison .op dst p.2 .poisonRead

/-- A piece of a store of the node's own; a refused one changes nothing. -/
def State.storePiece (s : State) (c : Core) (addr ob : Nat) (p : Nat × Nat) : State :=
  let sp := gSpace addr
  let off := gOff addr + p.1
  if sp < 2 && s.targetMapped sp off p.2 then s.copyMem .op (c.num * obSize + ob + p.1) (spaceMem sp) off p.2 else s

/-- A piece of a store sent to another node, with its poison (R267). -/
def State.storeSend (s : State) (c : Core) (done : Nat) (k : Nat × Nat) (addr ob : Nat) (p : Nat × Nat) : State :=
  let src := c.num * obSize + ob + p.1
  s.sendAccess c done .store k (pieceAddr addr p.1) p.2 (ob + p.1) (s.poisoned .op src p.2).isSome
    fun h => .store h (s.rdBytes .op src p.2)

/-- Whether an instruction still has frames outstanding or tile-ops to end. -/
def State.instrOpen (s : State) (n pc : Nat) : Bool :=
  ((s.core n).tail.any (·.pc == pc)) || s.fab.remotes.any fun o => match o.who with
    | .core c _ p => c == n && p == pc
    | _ => false

/-- TABLE_ID and TILE_KEY of a block that faults; of one whose header lies beyond the operand buffer, and so cannot be read, they are
free values (R163). -/
def State.faultIds (s : State) (n off : Nat) : (Nat × Nat) × State :=
  if obSize < off + 32 then
    ((Config.unstated s.fresh % 4096, Config.unstated (s.fresh + 1) % 2 ^ 32), s.setFresh (s.fresh + 2))
  else (((blockHdr (s.ob n) off).tableId, (blockHdr (s.ob n) off).tileKey), s)

/-- An expander or Stipple fault (R163): the registers, the counters, EXPAND_FAULT and then the core's fault (R426). -/
def State.expandFault (s : State) (c : Core) (off : Nat) (e : BlockFault) : State :=
  let ids := s.faultIds c.num off
  let tableId := ids.1.1
  let tileKey := ids.1.2
  let s := ids.2.setRegs [(R.EXP_LAST_FAULT_STATUS, e.status.code), (R.EXP_LAST_FAULT_TABLE_ID, tableId),
    (R.EXP_LAST_FAULT_LOGICAL_CORE, c.num), (R.EXP_LAST_FAULT_BLOCK_ADDR, off), (R.EXP_LAST_FAULT_KEY_TILE_KEY, tileKey)]
  let s := s.bump (match e.status with
    | .expandLength => R.EXP_FAULT_STATS_LENGTH
    | .expandCheck => R.EXP_FAULT_STATS_CHECK
    | .expandCode => R.EXP_FAULT_STATS_CODE
    | _ => R.EXP_FAULT_STATS_OTHER)
  (s.post .expandFault c.ctx (formX e.status c.num tableId (off / 64) e.segment (c.pc - 1) tileKey)).instrFault c .mmx e.status

/-! ### Tile-ops (R128) -/

/-- A piece of a LOAD: of the node's own memory at once, unless held signals of the node stand before it (R258); else as a frame. -/
def State.loadOne (s : State) (c : Core) (done : Nat) (k : Nat × Nat) (addr ob : Nat) (p : Nat × Nat) : State :=
  if gNode addr = s.node ∧ !s.ownQueue then s.loadPiece c addr ob p
  else if gNode addr ≠ s.node ∧ s.isUnreachable (gNode addr) then s.poison .op (c.num * obSize + ob + p.1) p.2 .poisonRead
  else s.sendAccess c done .load k (pieceAddr addr p.1) p.2 (ob + p.1) false .load

/-- A piece of a STORE, likewise. -/
def State.storeOne (s : State) (c : Core) (done : Nat) (k : Nat × Nat) (addr ob : Nat) (p : Nat × Nat) : State :=
  if gNode addr = s.node ∧ !s.ownQueue then s.storePiece c addr ob p
  else if gNode addr ≠ s.node ∧ s.isUnreachable (gNode addr) then s
  else s.storeSend c done k addr ob p

/-- One effect of a tile-op of a core: results but those of rows that are dead by then (R189), a piece of a LOAD or STORE, or the
fault of a poisoned weight tile (R163). -/
def State.opDone (s : State) (n : Nat) (op : CoreOp) (e : OpDone) : State :=
  let c := { s.core n with pc := op.pc + 1 }
  match e with
  | .write row off bs => if row.any (s.deadRow n) then s else s.obWrite n (off, bs)
  | .load addr ob d len k => s.loadOne c op.done k addr ob (d, len)
  | .store addr ob d len k => s.storeOne c op.done k addr ob (d, len)
  | .fault off st segment => s.expandFault c off ⟨st, segment⟩

/-- The counters of Table 5.15 for a tile-op that streamed some rows through the array. -/
def State.countRows (s : State) (n rows : Nat) : State :=
  if rows = 0 then s else ((s.count (R.CORE_MATRIX_TILES_TILE_OPS n) 1).count (R.CORE_ROWS_ROWS n) rows).count
    (R.CORE_MATRIX_BUSY_CLOCKS n) rows

/-- A tile-op of a core ends: its results are written; the last of an access that is answered completes its instruction (R128,
R144). -/
def State.endTileOp (s : State) (n : Nat) (op : CoreOp) : State :=
  let s := (op.does.foldl (fun s e => s.opDone n op e) s).countRows n op.rows
  if op.mover && !s.instrOpen n op.pc then s.doneCtr n op.done else s

/-- The tile-ops of an instruction follow those of earlier ones; with none of those the first ends at once. -/
def State.pushOps (s : State) (n : Nat) (ops : List CoreOp) : State :=
  let c := s.core n
  match c.tail ++ ops with
  | [] => s
  | op :: rest => if c.tail.isEmpty then (s.putCore { c with tail := rest }).endTileOp n op else s.putCore { c with tail := op :: rest }

/-- The tile-ops of an instruction that reads the ranges `reads`, from their results; each streams `rows` rows. -/
def coreOps (c : Core) (reads : List (Nat × Nat)) (rows : Nat) (ops : List TileOp) : List CoreOp :=
  ops.map fun op => ⟨c.pc - 1, 0xFFFF, reads, rows, false, op.map fun w => .write w.1 w.2.1 w.2.2⟩

/-- A calculation's results: its conditions and random draws are recorded, and its tile-ops begin, before the others in `more`. -/
def State.results (s : State) (c : Core) (reads : List (Nat × Nat)) (rows : Nat) (run : Calc (List TileOp)) (more : List CoreOp) :
    State :=
  let (out, k) := run.run { fresh := s.fresh }
  (s.calcDone c k).pushOps c.num (coreOps c reads rows out ++ more)

/-- An instruction that works on the operand buffer: its ranges are checked, then it runs. -/
def State.compute (s : State) (c : Core) (o : Opc) (rs ws : List (Nat × Nat)) (run : Calc (List TileOp)) : State :=
  match s.held c o rs ws with
  | some t => t
  | none => s.results c rs 0 run []

/-- A LOAD or STORE of pieces, 128 to a tile-op: the mover takes 128 bytes a clock, 4,096 clocks for 512 KiB (section 5.1, R128). The
first tile-op runs at once; `one` runs one piece. A short one of the node's own is then complete. -/
def State.move (s : State) (c : Core) (done : Nat) (here : Bool) (reads : List (Nat × Nat)) (one : State → Nat × Nat → State)
    (eff : Nat × Nat → OpDone) (ps : List (Nat × Nat)) : State :=
  let rest := (List.range ((ps.length - 1) / 128)).map fun k => (ps.drop (128 * (k + 1))).take 128
  let ops := rest.map fun l => (⟨c.pc - 1, done, reads, 0, true, l.map eff⟩ : CoreOp)
  let k := s.core c.num
  let s := (ps.take 128).foldl one (s.putCore { k with tail := k.tail ++ ops })
  if here ∧ rest = [] then s.doneCtr c.num done else s

/-- A core descheduled in the instruction it has just issued. -/
def State.deschedule (s : State) (c : Core) (w : CoreWait) (done : Nat) : State :=
  s.putCore { c with
    wait := some w
    waitDone := done
    waitLimit := s.reg R.SYN_CFG_WAIT_LIMIT_MS }

/-- Nothing a core has issued is incomplete: no load, store or signal, and no tile-op (R126). -/
def State.coreQuiet (s : State) (n : Nat) : Bool := (s.coreRemotes n).isEmpty && (s.core n).tail.isEmpty

/-- A core's random source is seeded afresh after 2^20 draws (R147). -/
def execRngReseed (core : Nat) (s : State) : Host.Outcome State Fault Refusal :=
  let c := s.core core
  .next (if 2 ^ 20 ≤ c.draws then s.putCore { c with draws := c.draws - 2 ^ 20 } else s)

end Sys2Proof.Machine
end

