-- ==== Sys2Proof/Machine/Move.lean ====
section
/-! DEFINITION. The data mover and the sync instructions (section 5.8, sections 9.6 to 9.9, chapter 11): NOP, LOAD,
STORE, WAIT, SIGNAL, ARRIVE, FENCE, END, and the end of a core's remote operations. -/

namespace Sys2Proof.Machine

/-! ### Completion of a core's remote operations (R266) -/

/-- A core has executed END: it leaves its batch or shard run and waits for work. -/
def State.finishCore (s : State) (n : Nat) : State :=
  (s.putCore { s.core n with
    ctx := 0xFFF
    power := .idle
    stopped := true
    waitDone := 0xFFFF }).onSch fun b => { b with
      batches := b.batches.map fun y => { y with left := y.left.filter (· != n) }
      shards := b.shards.map fun y => { y with left := y.left.filter (· != n) } }

/-- A core at FENCE or END goes on when nothing it has sent is outstanding. -/
def State.settleCore (s : State) (n : Nat) : State :=
  let c := s.core n
  if s.coreQuiet n then
    match c.wait with
    | some .fence => s.completeWaits [c]
    | some .ending => (s.completeWaits [c]).finishCore n
    | _ => s
  else s

/-- The first tile-op of a core that has not ended ends. -/
def State.nextOp (s : State) (n : Nat) : State :=
  let c := s.core n
  match c.tail with
  | [] => s
  | op :: ops => ((s.putCore { c with tail := ops }).endTileOp n op).settleCore n

/-- A tile-op boundary of a core: a throttle that waits for it takes effect; a squash is taken, and without one the tile-op's
results are written and the next begins (R128, R414). -/
def execTileOpBoundary (core : Nat) (s : State) : Host.Outcome State Fault Refusal :=
  let s := match s.pcr.raiseTo with
    | some p => (s.setThrottle p).onPcr fun x => { x with raiseTo := none }
    | none => s
  .next (if (s.core core).squash then s.takeSquash (s.core core) else s.nextOp core)

/-- A frame of an instruction of a core is answered and off the list: the instruction completes at its last (R144, R266),
and a core at FENCE or END goes on. -/
def State.instrAnswered (s : State) (n done pc : Nat) : State :=
  let s := if s.instrOpen n pc then s else s.doneCtr n done
  s.settleCore n

/-! ### LOAD and STORE -/

/-- LOAD. -/
def State.load (s : State) (c : Core) (w : Word128) : State :=
  let a := xGaddr w
  let len := 64 * xLen w
  let ob := xAddrOb w
  let done := xDoneCtr w
  match s.held c .load [] [(ob, len)] with
  | some t => t
  | none =>
    let bad := (s.poison .op (c.num * obSize + ob) len .poisonRead).doneCtr c.num done
    if len = 0 then s.doneCtr c.num done
    else if 2 ≤ gSpace a then bad
    else match s.outAccess c.ctx a len with
      | .error _ => bad
      | .ok k => s.move c done (decide (gNode a = s.node) && !s.ownQueue) [] (fun s p => s.loadOne c done k a ob p)
          (fun p => .load a ob p.1 p.2 k) (accessPieces (gOff a) len)

/-- LOAD. -/
def execInstrLoad (core : Nat) (s : State) : Host.Outcome State Fault Refusal := .next (s.issue core .load State.load)

/-- The range of a store is within the operand buffer; poison in it travels on and is no fault. -/
def State.storeHeld (s : State) (c : Core) (ob len : Nat) : Option State :=
  if obSize < ob + len then some (s.instrFault c .store .operandRange)
  else if s.loading c.num [(ob, len)] [] || s.moving c.num then some (s.notYet c) else none

/-- STORE. -/
def State.store (s : State) (c : Core) (w : Word128) : State :=
  let a := xGaddr w
  let len := 64 * xLen w
  let ob := xAddrOb w
  let done := xDoneCtr w
  match s.storeHeld c ob len with
  | some t => t
  | none =>
    if len = 0 ∨ 2 ≤ gSpace a then s.doneCtr c.num done
    else match s.outAccess c.ctx a len with
      | .error _ => s.doneCtr c.num done
      | .ok k => s.move c done (decide (gNode a = s.node) && !s.ownQueue) [(ob, len)] (fun s p => s.storeOne c done k a ob p)
          (fun p => .store a ob p.1 p.2 k) (accessPieces (gOff a) len)

/-- STORE. -/
def execInstrStore (core : Nat) (s : State) : Host.Outcome State Fault Refusal := .next (s.issue core .store State.store)

/-! ### Counters and barriers (R301 to R313) -/

/-- WAIT (R304). -/
def State.waitInstr (s : State) (c : Core) (w : Word128) : State :=
  let a := xGaddr w
  match s.counterAt (gOff a) with
  | none => s.instrFault c .wait .operandRange
  | some k =>
    if gNode a ≠ s.node ∨ gSpace a ≠ 2 then s.instrFault c .wait .operandRange
    else if waitHolds (s.counter k) (xLen w) then (s.bump R.SYN_WAIT_STATS_WAITS).doneCtr c.num (xDoneCtr w)
    else s.deschedule c (.counter (k / 65536) (k % 65536) (xLen w)) (xDoneCtr w)

/-- WAIT. -/
def execInstrWait (core : Nat) (s : State) : Host.Outcome State Fault Refusal := .next (s.issue core .wait State.waitInstr)

/-- SIGNAL: VALUE is a signed amount (R301, R303). -/
def State.signal (s : State) (c : Core) (w : Word128) : State :=
  let a := xGaddr w
  let v := sext24 (xLen w)
  let done := xDoneCtr w
  if s.moving c.num then s.notYet c
  else if gNode a = s.node ∧ !s.ownWaits then
    match s.counterAt (gOff a) with
    | some k => if gSpace a = 2 then (s.addCounter k v).doneCtr c.num done else s.instrFault c .signal .addrInvalid
    | none => s.instrFault c .signal .addrInvalid
  else match s.outAccess c.ctx a 8 with
    | .error st => s.instrFault c .signal st
    | .ok k => s.sendAccess c done .signal k a 8 0 false fun h => .signal h 0 (v % 2 ^ 40).toNat

/-- SIGNAL. -/
def execInstrSignal (core : Nat) (s : State) : Host.Outcome State Fault Refusal := .next (s.issue core .signal State.signal)

/-- ARRIVE at a barrier of this node or another; the core waits for the release (R310, R311). What is no barrier slot its target
refuses, after the checks of Table 9.13 (R302): no release names barrier 4,096. -/
def State.arriveInstr (s : State) (c : Core) (w : Word128) : State :=
  let a := xGaddr w
  let round := xLen w % 65536
  let m : ArriveMsg := ⟨c.ctx, c.num, round⟩
  if s.moving c.num then s.notYet c
  else if 65536 ≤ xLen w then s.instrFault c .arrive .illegalInstr
  else if gNode a = s.node ∧ !s.ownWaits then
    match barrierAt (gOff a) with
    | none => s.instrFault c .arrive .addrInvalid
    | some b =>
      if gSpace a ≠ 2 then s.instrFault c .arrive .addrInvalid
      else
        let (t, st) := (s.deschedule c (.barrier s.node b round) (xDoneCtr w)).arrive b m
        if st = .ok then t else t.instrFault c .arrive st
  else match s.outAccess c.ctx a 8 with
    | .error st => s.instrFault c .arrive st
    | .ok k => (s.deschedule c (.barrier (gNode a) ((barrierAt (gOff a)).getD 4096) round) (xDoneCtr w)).sendAccess c 0xFFFF
        .arrive k a 8 0 false fun h => .arrive h 0 m

/-- ARRIVE. -/
def execInstrArrive (core : Nat) (s : State) : Host.Outcome State Fault Refusal := .next (s.issue core .arrive State.arriveInstr)

/-! ### NOP, FENCE, END -/

/-- NOP. -/
def execInstrNop (core : Nat) (s : State) : Host.Outcome State Fault Refusal :=
  .next (s.issue core .nop fun s c w => s.doneCtr c.num (xDoneCtr w))

/-- FENCE: every earlier instruction of the core has completed (R126). -/
def execFence (core : Nat) (s : State) : Host.Outcome State Fault Refusal :=
  .next (s.issue core .fence fun s c w =>
    if s.coreQuiet core then s.doneCtr c.num (xDoneCtr w) else s.deschedule c .fence (xDoneCtr w))

/-- END of the core's program. -/
def execEnd (core : Nat) (s : State) : Host.Outcome State Fault Refusal :=
  .next (s.issue core .end_ fun s c w =>
    if s.coreQuiet core then (s.doneCtr c.num (xDoneCtr w)).finishCore core
    else s.deschedule c .ending (xDoneCtr w))

end Sys2Proof.Machine
end

