-- ==== Sys2Proof/Machine/Burin.lean ====
section
/-! DEFINITION. Contexts (sections 7.1 and 7.5): descriptors and their checks, the context commands, drain, teardown and
reopening, the abort of a job, tile-gating of cores. -/

namespace Sys2Proof.Machine

/-! ### Descriptors (R179, R180) -/

/-- Logical cores a pair of masks names, ascending. -/
def maskCores (lo hi : Nat) : List Nat :=
  ((List.range 64).filter (bitAt lo)) ++ ((List.range 64).filter (bitAt hi)).map (64 + ·)

/-- KIND by its value in Table 7.1. -/
def CtxKind.ofCode (n : Nat) : CtxKind := match n with
  | 0 => .serving | 1 => .score | 2 => .learn | _ => .service

/-- The Rsvd bits of a descriptor's words are 0. -/
def descRsvdOk (w : Nat → Nat) : Bool :=
  bitsOf (w 0) 37 32 == 0 && bitsOf (w 0) 15 5 == 0 && bitsOf (w 1) 63 46 == 0 && bitsOf (w 5) 10 0 == 0
    && bitsOf (w 6) 9 0 == 0 && bitsOf (w 7) 31 13 == 0 && bitsOf (w 8) 6 0 == 0 && bitsOf (w 9) 17 13 == 0
    && bitsOf (w 10) 47 0 == 0 && w 28 == 0 && w 29 == 0 && w 30 == 0 && bitsOf (w 31) 31 0 == 0

/-- The descriptor at an offset of HBM (Table 7.1). -/
def State.readDesc (s : State) (a : Nat) : Desc :=
  let w := fun k => s.rdNum .hbm (a + 8 * k) 8
  let node := fun i => s.rdNum .hbm (a + 0x58 + 2 * i) 2
  let na := bitsOf (w 10) 63 56
  let nb := bitsOf (w 10) 55 48
  { formOk := a % 64 == 0 && s.hbmMapped a 256 && bitsOf (w 0) 63 48 == 0xC7E1 && bitsOf (w 0) 47 44 == 1
      && bitsOf (w 0) 41 40 < 2 && descRsvdOk w && crc32c (s.rdBytes .hbm a 252) == bitsOf (w 31) 63 32
    kind := .ofCode (bitsOf (w 0) 43 42), isStatic := bitsOf (w 0) 41 40 == 1, autoReopen := bitAt (w 0) 39
    backupOk := bitAt (w 0) 38, modelId := bitsOf (w 0) 31 16, comp := bitsOf (w 0) 4 0, program := bitsOf (w 1) 45 0
    stepPc := bitsOf (w 2) 63 32, jobPc := bitsOf (w 2) 31 0, cores := maskCores (w 3) (w 4)
    groupSize := bitsOf (w 5) 63 56, batchAddr := bitsOf (w 5) 55 40, batchUnits := bitsOf (w 5) 39 24
    rowTarget := bitsOf (w 5) 23 11, holdUs := bitsOf (w 6) 63 48, chunkRows := bitsOf (w 6) 47 39
    prefillRowsMax := bitsOf (w 6) 38 26, shortPrompt := bitsOf (w 6) 25 10, jobId := bitsOf (w 7) 63 32
    rowMin := bitsOf (w 7) 12 0, ctrFirst := bitsOf (w 8) 63 48, ctrCount := bitsOf (w 8) 47 32
    barFirst := bitsOf (w 8) 31 20, barCount := bitsOf (w 8) 19 7, vmapAddr := bitsOf (w 9) 63 18
    vmapCount := bitsOf (w 9) 12 0, listA := (List.range na).map node
    listB := (List.range nb).map fun i => node (na + i), shardAddr := bitsOf (w 27) 63 18
    shardCount := bitsOf (w 27) 17 0 }

/-- Check 2 of Table 7.2. -/
def State.descCores (s : State) (d : Desc) : Bool :=
  !d.cores.isEmpty && d.cores.all fun c => s.tileIn (c / 4) && bitAt (s.reg (R.SCH_COMP_A_CORE_UNITS d.comp)) (c / 4)

/-- Check 3 of Table 7.2. -/
def Desc.ranges (d : Desc) : Bool :=
  1 ≤ d.groupSize && d.groupSize ≤ 128 && 1 ≤ d.rowTarget && d.rowTarget ≤ 4096 && d.rowMin ≤ d.rowTarget
    && 1 ≤ d.chunkRows && d.chunkRows ≤ 256 && d.prefillRowsMax ≤ 4096 && d.vmapCount ≤ 4096 && d.barCount ≤ 4096
    && d.cores.length % d.groupSize == 0 && d.batchAddr + d.batchUnits ≤ 65536 && d.listA.length + d.listB.length ≤ 64
    && d.ctrFirst + d.ctrCount ≤ 65536 && d.barFirst + d.barCount ≤ 4096 && d.vmapAddr % 64 == 0 && d.shardAddr % 64 == 0

/-- Check 4 of Table 7.2. -/
def Desc.suits (d : Desc) (role : Nat) : Bool :=
  match d.kind with
  | .serving => role == 1 || role == 2
  | .score => role == 4
  | .learn => role == 5
  | .service => role == 3

/-- The unit an opcode requires is present and licensed (Table 5.10). -/
def State.unitPresent (s : State) (op delta : Nat) : Bool :=
  let role := s.reg R.PHS_PHASE_ROLE
  match Opc.ofCode op with
  | some .mmx => delta == 0 || s.flag R.CAP_FEATURES_STIPPLE
  | some .sample | some .scommit | some .mzquery | some .mzwrite => (role == 1 || role == 2) && s.roleLicensed role
  | some .sverify => role == 2 && s.roleLicensed role
  | some .oadam | some .osgd => s.flag R.CAP_FEATURES_LEARN_MATH
  | _ => true

/-- Opcodes of a program other than NOP, in order, up to its first END: `o` is the offset its entry stands at. Each is
given with the offset of its word. A word of which no byte is listed is a NOP. -/
def programOps (o : Nat) : List Host.Cell → List (Nat × Nat)
  | [] => []
  | (a, b) :: l =>
    if o ≤ a ∧ (a - o) % 16 = 15 then
      if b.toNat = Opc.end_.code then [] else (a - 15, b.toNat) :: programOps o l
    else programOps o l

/-- Check 5 of Table 7.2 (R129): the program from the entry its KIND runs to the first END; the descriptor gives a program no length
(DESIGN CHOICE, log entry 93). -/
def State.programOk (s : State) (d : Desc) : Bool :=
  let pc := match d.kind with
    | .serving => d.stepPc
    | .score | .learn => d.jobPc
    | .service => 0
  (programOps (d.program + 16 * pc) s.hbm).all fun x => s.unitPresent x.2 (bitsOf (s.rdNum .hbm (x.1 + 2) 2) 11 0)

/-- The status of the first check of Table 7.2 a descriptor fails. -/
def State.descCheck (s : State) (d : Desc) : Option St :=
  if !d.formOk ∨ !s.descCores d ∨ !d.ranges then some .badParam
  else if !d.suits (s.reg R.PHS_PHASE_ROLE) then some .badState
  else if !s.programOk d then some .unitAbsent
  else none

/-! ### Context commands (R181) -/

/-- A context gone to FREE. -/
def State.dropCtx (s : State) (c : Nat) : State := s.onSch fun b => { b with ctxs := b.ctxs.filter (·.num != c) }

/-- The command running on a context completes with a status. -/
def State.ctxCmdDone (s : State) (c : Nat) (st : St) : State :=
  if s.sch.busy.any (·.2 == c) then
    (s.onSch fun b => { b with busy := none }).setRegs [(R.SCH_CTX_STATUS_BUSY, 0), (R.SCH_CTX_STATUS_STATUS, st.code)]
  else s

/-- A command that does not complete at once. -/
def State.ctxCmdRuns (s : State) (op c : Nat) : State :=
  (s.onSch fun b => { b with busy := some (op, c) }).setReg R.SCH_CTX_STATUS_BUSY 1

/-- A context enters LOADING from a descriptor offset. -/
def State.loadCtx (s : State) (c a : Nat) : State :=
  s.putCtx { num := c, state := .loading, addr := a, desc := s.readDesc a, cause := .close, status := .ok, core := 0, pc := 0,
             seqs := [], rrLc := ⟨0, false⟩, rrBe := ⟨0, false⟩, held := none, holdOver := false, nextShard := 0, doneShards := [],
             runTimes := [], backups := [] }

/-- An OPEN context enters RUNNING. -/
def State.startCtx (s : State) (x : Ctx) : State :=
  s.putCtx { x with
    state := .running
    seqs := []
    nextShard := 0
    doneShards := []
    runTimes := []
    backups := [] }

/-- A turn is in progress. -/
def State.turning (s : State) : Bool := s.reg R.PHS_PHASE_STATE != 0

/-- A context command: what it does and the status of its write. -/
def State.ctxCmd (s : State) (op c : Nat) : State × St :=
  let t := s.setRegs [(R.SCH_CTX_CMD_OP, op), (R.SCH_CTX_CMD_CONTEXT, c)]
  let done := fun (t : State) => (t.setReg R.SCH_CTX_STATUS_STATUS 0, St.ok)
  if s.flag R.SCH_CTX_STATUS_BUSY then (s, .badState)
  else if op < 1 ∨ 4 < op ∨ 0xFFF ≤ c then (s, .badParam)
  else match op, s.ctx? c with
  | 1, none => if s.turning then (s, .badState) else ((t.loadCtx c (s.reg R.SCH_CTX_ADDR_OFFSET)).ctxCmdRuns 1 c, .ok)
  | 2, some x => if x.state = .open_ ∧ !s.turning then done (t.startCtx x) else (s, .badState)
  | 3, some x =>
    match x.state with
    | .open_ => ((t.closeCtx x .close .ok 0 0).ctxCmdRuns 3 c, .ok)
    | .running => done (t.putCtx { x with state := .draining })
    | _ => (s, .badState)
  | 4, some x =>
    match x.state with
    | .open_ | .running | .draining => ((t.closeCtx x .abort .ok 0 0).ctxCmdRuns 4 c, .ok)
    | _ => (s, .badState)
  | _, _ => (s, .badState)

/-- OPEN. -/
def execCtxOpen (c : Nat) (s : State) : Host.Outcome State Fault Refusal := .next (s.ctxCmd 1 c).1

/-- START. -/
def execCtxStart (c : Nat) (s : State) : Host.Outcome State Fault Refusal := .next (s.ctxCmd 2 c).1

/-- CLOSE. -/
def execCtxClose (c : Nat) (s : State) : Host.Outcome State Fault Refusal := .next (s.ctxCmd 3 c).1

/-- ABORT. -/
def execCtxAbort (c : Nat) (s : State) : Host.Outcome State Fault Refusal := .next (s.ctxCmd 4 c).1

/-- A context goes to FREE; Mezzotint's service ends with its context (R125). -/
def State.freeCtx (s : State) (c : Nat) : State :=
  let s := s.dropCtx c
  if s.reg R.MZT_CTRL_CONTEXT = c then s.setReg R.MZT_CTRL_SERVE 0 else s

/-- A loaded context enters OPEN: its sync objects are marked (R316); during a turn it is closed again (R212, R214), and a
holder starts the context it reopened (R106). -/
def State.openCtx (s : State) (x : Ctx) : State :=
  let byCmd := s.sch.busy.any (·.2 == x.num)
  let y := { x with state := CtxState.open_ }
  let s := ((s.putCtx y).markObjects x.num x.desc).ctxCmdDone x.num .ok
  if s.turning then s.closeCtx y (if 3 ≤ s.reg R.PHS_PHASE_STATE then .abort else .close) .ok 0 0
  else if !byCmd && decide (x.desc.kind = .service) && s.reg R.MZT_CTRL_CONTEXT == x.num then s.startCtx y else s

/-- The checks of a LOADING context end. -/
def execCtxLoadingDone (c : Nat) (s : State) : Host.Outcome State Fault Refusal :=
  match (s.ctx? c).filter fun x => decide (x.state = .loading) with
  | none => .next s
  | some x =>
    match s.descCheck x.desc with
    | some st => .next ((s.freeCtx c).ctxCmdDone c st)
    | none => .next (s.openCtx x)

/-- The node owns a request of a context in PREFILL, READY, DECODE or MOVING, or runs a batch or shard of it. -/
def State.ctxBusy (s : State) (c : Nat) : Bool :=
  (s.rse.works.any fun w => decide (w.status = .owned) && w.r.context == c && w.r.state.away)
    || s.sch.batches.any (·.ctx == c) || s.sch.shards.any (·.ctx == c)

/-- A DRAINING context closes. -/
def execCtxDrained (c : Nat) (s : State) : Host.Outcome State Fault Refusal :=
  match s.ctx? c with
  | some x => .next (if x.state = .draining ∧ !s.ctxBusy c then s.closeCtx x .close .ok 0 0 else s)
  | none => .next s

/-! ### Teardown (R183, Table 7.6) -/

/-- RESULT of a shard (Table 7.7). -/
def State.shardResult (s : State) (d : Desc) (shard res : Nat) : State :=
  let a := d.shardAddr + 32 * shard + 31
  s.wr .hbm a [BitVec.ofNat 8 ((s.rd .hbm a).toNat % 64 + 64 * res)]

/-- The requests a node owns in a context: those of a faulting batch are FAILED, the others LOST_STEP. -/
def State.disposeOwned (s : State) (x : Ctx) : State :=
  let failing := (s.sch.batches.filter fun b => b.ctx == x.num && b.faulted).flatMap fun b =>
    (b.rows.filter (!·.dead)).map (·.req)
  (s.rse.works.filter fun w => decide (w.status = .owned) && w.r.context == x.num && w.r.state.away).foldl (fun s w =>
    if x.cause = .fault ∧ failing.contains w.r.id then s.endOwned w .failed x.status else s.loseStep w.r.id) s

/-- A core without work. -/
def State.idleCore (s : State) (c : Core) : State :=
  let s := s.takeSquash c
  let c := s.core c.num
  s.putCore { c with
    ctx := 0xFFF
    power := if c.powerNow = .gated then .gated else .idle
    wait := none
    waitGated := false
    squash := false
    stopped := true
    tail := [] }

/-- What a torn-down context's instructions left in a core's operand buffer is discarded (R128): the buffer reads as one that nothing
has written (DESIGN CHOICE, log entry 19). -/
def State.clearOb (s : State) (n : Nat) : State :=
  let out := fun (a size : Nat) => !decide (n * obSize ≤ a * size ∧ a * size < (n + 1) * obSize)
  { s with
    opBuf := s.opBuf.filter fun x => out x.1 1
    opPoison := s.opPoison.filter fun p => out p.granule 64 }

/-- The cores of a context freed and its batches and shard runs gone; a shard whose copy faulted has failed. -/
def State.clearRuns (s : State) (x : Ctx) : State :=
  let s := if x.cause = .fault then
      (s.sch.shards.filter fun y => y.ctx == x.num && (x.desc.group y.group).contains x.core).foldl
        (fun s y => s.shardResult x.desc y.shard 3) s
    else s
  (((s.ctxCores x.num).map (·.num)).foldl State.clearOb ((s.ctxCores x.num).foldl State.idleCore s)).onSch fun b => { b with
    batches := b.batches.filter (·.ctx != x.num)
    shards := b.shards.filter (·.ctx != x.num) }

/-- A teardown ends. -/
def State.endTeardown (s : State) (x : Ctx) : State :=
  let c := x.num
  let s := ((((s.disposeOwned x).clearRuns x).releaseBinds c).residueCheck c).settlePages
  let s := (s.flushCtxQueues c).post .contextClosed c (formC x.status x.core x.cause.code x.pc x.desc.jobId)
  let s := s.ctxCmdDone c .ok
  if x.cause = .fault ∧ x.desc.autoReopen ∧ x.desc.kind ≠ .learn then s.loadCtx c x.addr else s.freeCtx c

/-- Teardown completes. -/
def execCtxTeardownDone (c : Nat) (s : State) : Host.Outcome State Fault Refusal :=
  match s.ctx? c with
  | some x => .next (if x.state = .closing then s.endTeardown x else s)
  | none => .next s

/-- A job is aborted on another node (R200). -/
def execJobAbort (src job : Nat) (s : State) : Host.Outcome State Fault Refusal :=
  let s := s.takeMsg src (.jobAbort job)
  match s.jobContexts job with
  | [] => .next s
  | c :: cs => .next ((s.tearDownAll .jobAbort .ok (c :: cs)).post .jobAborted c (formO .ok src job 0))

/-! ### SCH registers -/

/-- A write to SCH_CTX_CMD. -/
def State.ctxCmdWrite (s : State) (value : Nat) : State × St := s.ctxCmd (bitsOf value 63 60) (value % 4096)

/-- A queue has a request QUEUED at this node. -/
def State.queueWaiting (s : State) (q : Nat) : Bool := s.rse.homes.any fun h => decide (h.r.state = .queued) && h.r.queue == q

/-- A write to SCH_QUEUE_A (R209). -/
def State.queueWrite (s : State) (q value : Nat) : State × St :=
  let a := 0x109000 + 16 * q
  if 4096 ≤ q then (s, .addrInvalid)
  else
    let onlyQuantum := bitAt value 63 == s.flag (R.SCH_QUEUE_A_VALID q) && bitsOf value 62 62 == s.reg (R.SCH_QUEUE_A_CLASS q)
      && bitsOf value 47 32 == s.reg (R.SCH_QUEUE_A_TENANT q)
    let unused := s.reg (R.SCH_QUEUE_B_STEP_DEFICIT q) == 0 && s.reg (R.SCH_QUEUE_B_PLACE_DEFICIT q) == 0 && !s.queueWaiting q
    if onlyQuantum || unused || !s.flag (R.SCH_QUEUE_A_VALID q) then (s.writeRw a value, .ok) else (s, .tableBusy)

/-- A write to SCH_QUEUE_A. -/
def execSchQueueWrite (q value : Nat) (s : State) : Host.Outcome State Fault Refusal := .next (s.queueWrite q value).1

/-- A write to SCH_CTRL takes effect at the next cost computed. -/
def execSchCtrlWrite (value : Nat) (s : State) : Host.Outcome State Fault Refusal := .next (s.writeRw 0x100000 value)

/-- The valid compositions share no core unit and no port, and their HBM units fit the node (R205). -/
def State.compsOk (s : State) : Bool :=
  let cs := (List.range 32).filter fun c => s.flag (R.SCH_COMP_A_VALID c)
  let clash := fun (c d : Nat) => c != d && (Nat.land (s.reg (R.SCH_COMP_A_CORE_UNITS c)) (s.reg (R.SCH_COMP_A_CORE_UNITS d)) != 0
    || Nat.land (s.reg (R.SCH_COMP_B_PORTS c)) (s.reg (R.SCH_COMP_B_PORTS d)) != 0)
  !(cs.any fun c => cs.any (clash c)) && (cs.map fun c => s.reg (R.SCH_COMP_B_HBM_UNITS c)).sum ≤ s.reg R.CAP_HBM_HBM_CHANNELS / 8

/-- A write to SCH_COMP_A or SCH_COMP_B: refused where it would overlap or a context names the composition; else the
composition's shaper starts with a full bucket (R343), and setting VALID restarts TOTAL (R205, R207). -/
def State.compWrite (s : State) (addr value : Nat) : State × St :=
  let c := (addr - 0x119000) / 32
  let part := addr % 32
  if addr < 0x119000 ∨ 32 ≤ c ∨ (part ≠ 0 ∧ part ≠ 8) then (s, .addrInvalid)
  else
    let t := s.writeRw addr value
    if !t.compsOk then (s, .badParam)
    else if s.sch.ctxs.any (·.desc.comp == c) then (s, .tableBusy)
    else
      let t := t.shaperFill (4 + c)
      (if !s.flag (R.SCH_COMP_A_VALID c) && t.flag (R.SCH_COMP_A_VALID c) then t.setReg (R.SCH_COMP_TOTAL_TOTAL c) 0 else t, .ok)

/-- A write to a composition. -/
def execSchCompWrite (addr value : Nat) (s : State) : Host.Outcome State Fault Refusal := .next (s.compWrite addr value).1

/-- An AON tick: the meters of every valid composition rise (R207). -/
def execCompMeterTick (s : State) : Host.Outcome State Fault Refusal :=
  .next (((List.range 32).filter fun c => s.flag (R.SCH_COMP_A_VALID c)).foldl (fun s c =>
    (s.bump (R.SCH_COMP_METER_TICKS c)).setReg (R.SCH_COMP_TOTAL_TOTAL c) (s.reg (R.SCH_COMP_TOTAL_TOTAL c) + 1)) s)

end Sys2Proof.Machine
end

