-- ==== Sys2Proof/Machine/Batch.lean ====
section
/-! DEFINITION. Batches and steps (sections 7.2 and 7.3): forming a batch by deficit round robin, dispatching it to a core
group, its end; shard runs and their backups (section 7.6). -/

namespace Sys2Proof.Machine

/-! ### Core groups (R184) -/

/-- A core runs nothing and no batch or shard run holds it. -/
def State.coreIdle (s : State) (n : Nat) : Bool :=
  (s.core n).ctx == 0xFFF && !s.sch.batches.any (·.left.contains n) && !s.sch.shards.any (·.left.contains n)

/-- A group every core of which is idle and in service, and which has no batch or shard run that has not ended. -/
def State.groupIdle (s : State) (x : Ctx) (g : Nat) : Bool :=
  decide (g < x.desc.groups) && s.groupIn x.desc g && (x.desc.group g).all s.coreIdle
    && !s.sch.batches.any (fun b => b.ctx == x.num && b.group == g) && !s.sch.shards.any (fun y => y.ctx == x.num && y.group == g)

/-! ### Eligible requests (R189, R192) -/

/-- Prefill tokens of a record. -/
def Record.prefillLeft (r : Record) : Nat := r.historyLength + r.genCommitted - 1 - r.kvCommitted

/-- A request of a context may be put into a batch on a group, its model and variant apart. -/
def State.mayStep (s : State) (c g : Nat) (taken : List Nat) (w : Work) : Bool :=
  decide (w.status = .owned) && w.r.context == c && decide (w.r.state = .prefill ∨ w.r.state = .decode) && w.step.isNone
    && !s.sch.active.contains w.r.id && w.pendMove.isNone && (w.pendPause.isNone || decide (w.r.state = .prefill))
    && w.move.isNone && !w.recalling && !w.doubt && !s.migratingReq w.r.id
    && !w.cancelled && w.throughWait == 0 && !taken.contains w.r.id
    && !(w.r.retried && s.pge.rebuilds.any fun b => b.page.req == w.r.id)
    && (!w.r.retried || (s.sch.retries.find? (·.1 == w.r.id)).all fun x => x.2 == g || (s.ctx? c).all fun y => !s.groupIn y.desc x.2)
    && !(s.reg R.PHS_PHASE_STATE == 2 && decide (w.r.state = .decode))

/-- The variant has an entry in the context's map, or is none. -/
def State.variantFound (s : State) (d : Desc) (r : Record) : Bool := r.variantId == 0 || (s.variantSlot d r.variantId).isSome

/-- A batch being formed. -/
structure Forming where
  /-- Row-map entries, newest first. -/
  rows : List BatchRow
  total : Nat
  chunk : Nat
  closed : Bool
  /-- MODEL_ID and VARIANT_ID of its first request. -/
  fixed : Option (Nat × Nat)
  /-- The delta slot read for that variant (R187). -/
  slot : Nat
  lc : Bool
  deriving DecidableEq, Repr

/-- The requests it holds. -/
def Forming.taken (b : Forming) : List Nat := b.rows.map (·.req)

/-- A request fits the batch's model and variant. -/
def State.fitsBatch (s : State) (d : Desc) (b : Forming) (r : Record) : Bool :=
  s.variantFound d r && (match b.fixed with
    | none => true
    | some (m, v) => r.modelId == m && r.variantId == v)

/-- Order of the last dispatched step; a request never stepped comes first. -/
def State.stepOrder (s : State) (id : Nat) : Nat := ((s.sch.lastStep.find? (·.1 == id)).map fun x => x.2 + 1).getD 0

/-- One request before another in a queue: decode first, then the step dispatched earliest, then the lower ID. -/
def State.before (s : State) (a b : Work) : Bool :=
  let k := fun (w : Work) => if w.r.state = .decode then 0 else 1
  k a < k b || (k a == k b && (s.stepOrder a.r.id < s.stepOrder b.r.id
    || (s.stepOrder a.r.id == s.stepOrder b.r.id && a.r.id ≤ b.r.id)))

/-- A request put in its place in a queue's order. -/
def State.insertStep (s : State) (w : Work) : List Work → List Work
  | [] => [w]
  | v :: l => if s.before w v then w :: v :: l else v :: s.insertStep w l

/-- The requests of a queue that may be put into the batch, in the order of R192. -/
def State.queueWorks (s : State) (c g q : Nat) (b : Forming) : List Work :=
  (s.rse.works.filter fun w => w.r.queue == q && s.mayStep c g b.taken w).foldr s.insertStep []

/-- Bytes of the batch area with some requests and chunk rows (Table 7.4). -/
def areaBytes (n chunk : Nat) : Nat := up64 (64 + 144 * n) + 4 * chunk

/-- The batch area and the active-step table have room for one more request. -/
def State.hasRoom (s : State) (d : Desc) (b : Forming) (chunk : Nat) : Bool :=
  areaBytes (b.rows.length + 1) (b.chunk + chunk) ≤ 64 * d.batchUnits && s.sch.active.length + b.rows.length + 1 ≤ 16384

/-- Cost of a prefill of n tokens (R191). -/
def State.prefillCost (s : State) (n : Nat) : Nat := (n * s.reg R.SCH_CTRL_PREFILL_COST + 255) / 256

/-- Rows of a request as it stands, its deficit apart: a decode's, or the longest chunk (R186, R192). -/
def rowsFree (d : Desc) (b : Forming) (r : Record) : Nat :=
  if r.state = .decode then (if b.total + 1 + r.specWindow ≤ d.rowTarget then 1 + r.specWindow else 0)
  else min (min d.chunkRows r.prefillLeft) (min (d.rowTarget - b.total) (d.prefillRowsMax - b.chunk))

/-- Rows a request takes under a deficit; 0 when it takes none (steps 4 and 5). -/
def State.rowsTaken (s : State) (d : Desc) (b : Forming) (r : Record) (deficit : Nat) : Nat :=
  let n := rowsFree d b r
  if r.state = .decode then (if n ≤ deficit then n else 0)
  else
    let cost := s.reg R.SCH_CTRL_PREFILL_COST
    if cost = 0 then n else min n (deficit * 256 / cost)

/-- The batch with a request taken. -/
def Forming.add (b : Forming) (lc : Bool) (d : Desc) (r : Record) (n slot : Nat) : Forming :=
  let dec := decide (r.state = .decode)
  { rows := ⟨r.id, b.total, n, if dec then 0 else if n = r.prefillLeft then 2 else 1, if dec then r.specWindow else 0, false, false, 0, 0⟩
      :: b.rows
    total := b.total + n
    chunk := if dec then b.chunk else b.chunk + n
    closed := d.rowTarget ≤ b.total + n
    fixed := some (r.modelId, r.variantId)
    slot := if b.fixed.isSome then b.slot else slot
    lc := b.lc || lc }

/-- One visit of a queue over its requests in order: the batch and the deficit after it (steps 4 to 6). Each request that
can be taken is. -/
def State.visitRows (s : State) (d : Desc) (lc : Bool) : List Work → Forming → Nat → Forming × Nat
  | [], b, k => (b, k)
  | w :: ws, b, k =>
    if b.closed then (b, k)
    else if !s.fitsBatch d b w.r then s.visitRows d lc ws b k
    else
      let isDec := decide (w.r.state = .decode)
      let n := s.rowsTaken d b w.r k
      if n = 0 then s.visitRows d lc ws b k
      else if !s.hasRoom d b (if isDec then 0 else n) then ({ b with closed := true }, k)
      else s.visitRows d lc ws (b.add lc d w.r n ((s.variantSlot d w.r.variantId).getD 0)) (k - if isDec then n else s.prefillCost n)

/-- QUANTUM added to a deficit; past its 32 bits the sum is a value the spec does not state (log entry 22). -/
def State.addQuantum (s : State) (k q : Nat) : Nat × State :=
  if k + q < 2 ^ 32 then (k + q, s) else (Config.unstated s.fresh % 2 ^ 32, s.setFresh (s.fresh + 1))

/-- A visit of a queue (R192, steps 2 to 6). -/
def State.visit (s : State) (x : Ctx) (g q : Nat) (lc fresh : Bool) (b : Forming) : Forming × State :=
  let k := s.reg (R.SCH_QUEUE_B_STEP_DEFICIT q)
  let a := if fresh then s.addQuantum k (s.reg (R.SCH_QUEUE_A_QUANTUM q)) else (k, s)
  let s := a.2
  let v := s.visitRows x.desc lc (s.queueWorks x.num g q b) b a.1
  let k := if !v.1.closed && (s.queueWorks x.num g q v.1).isEmpty then 0 else v.2
  (v.1, s.setReg (R.SCH_QUEUE_B_STEP_DEFICIT q) k)

/-- A queue can add a row at some deficit (step 7). -/
def State.canAdd (s : State) (x : Ctx) (g q : Nat) (b : Forming) : Bool :=
  s.reg (R.SCH_QUEUE_A_QUANTUM q) != 0 && (s.queueWorks x.num g q b).any fun w => s.fitsBatch x.desc b w.r && rowsFree x.desc b w.r != 0

/-- The first queue at or after a number, cyclically. -/
def nextQueue (qs : List Nat) (from_ : Nat) : Nat := ((qs.find? (from_ ≤ ·)).or qs.head?).getD 0

/-- No visit of a class's queues changes a batch any more. -/
def State.formOver (s : State) (x : Ctx) (g : Nat) (qs : List Nat) (b : Forming) : Bool :=
  b.closed || !qs.any fun q => s.canAdd x g q b

/-- Up to 2^d visits of a class's queues in turn, until the batch closes or no queue can add a row; where they stopped. A visit the
last batch closed in the middle ends where its queue has nothing more to add (step 6). -/
def State.formClass (s : State) (x : Ctx) (g : Nat) (lc : Bool) (qs : List Nat) : Nat → RrPos → Forming → RrPos × Forming × State
  | 0, p, b =>
    if s.formOver x g qs b then
      if b.closed || !p.resume then (p, b, s) else (⟨p.queue + 1, false⟩, s.visit x g p.queue lc false b)
    else
      let q := nextQueue qs p.queue
      let v := s.visit x g q lc (!(p.resume && p.queue == q)) b
      (if v.1.closed then ⟨q, true⟩ else ⟨q + 1, false⟩, v)
  | d + 1, p, b =>
    let a := s.formClass x g lc qs d p b
    if a.2.2.formOver x g qs a.2.1 then a else a.2.2.formClass x g lc qs d a.1 a.2.1

/-- Queues of a class that are in use, have a quantum, and hold requests of this node or a deficit, ascending. -/
def State.classQueues (s : State) (lc : Bool) : List Nat :=
  let own := s.rse.works.map (·.r.queue)
  let owing := s.regs.filterMap fun p =>
    let a := p.1 / 64
    if p.1 % 64 = 32 ∧ 0x109008 ≤ a ∧ a < 0x119008 ∧ a % 16 = 8 then some ((a - 0x109008) / 16) else none
  ((own ++ owing).dedup.filter fun q => s.flag (R.SCH_QUEUE_A_VALID q) && s.reg (R.SCH_QUEUE_A_QUANTUM q) != 0
    && s.reg (R.SCH_QUEUE_A_CLASS q) == bit lc).mergeSort

/-- 2^41 visits are enough for any batch: at most 4,096 requests, each due within 2^28 visits. -/
def visitDepth : Nat := 41

/-- A batch formed for a context, from the rows it holds already (R192). -/
def State.form (s : State) (x : Ctx) (g : Nat) (b : Forming) : Ctx × Forming × State :=
  let l := s.classQueues true
  let a := s.formClass x g true l visitDepth x.rrLc b
  let e := a.2.2.classQueues false
  let c := a.2.2.formClass x g false e visitDepth x.rrBe a.2.1
  ({ x with
      rrLc := a.1
      rrBe := c.1 }, c.2)

/-! ### Dispatch (R185 to R188, R193) -/

/-- The batch area of a dispatch (Table 7.4): header, request list, row map, chunk tokens. -/
def batchArea (seq c g slot mode copy shard : Nat) (rows : List (BatchRow × Record × List Nat)) : List Byte :=
  let w := fun n => toBytes 8 n
  let n := rows.length
  let total := (rows.map (·.1.rows)).sum
  let head := w seq ++ w (n * 2 ^ 48 + total * 2 ^ 32 + c * 2 ^ 20 + g * 2 ^ 12 + slot) ++ w (mode * 2 ^ 62 + copy * 2 ^ 61 + shard)
    ++ List.replicate 40 0
  let reqs := rows.flatMap fun x => w x.1.req ++ List.replicate 64 0xFF ++ List.replicate 56 0
  let tok := fun (k : Nat) => ((rows.take k).map fun x => x.2.2.length).sum
  let map := rows.zipIdx.flatMap fun (x, k) =>
    w (x.2.1.kvCommitted * 2 ^ 32 + x.1.rowFirst * 2 ^ 20 + x.1.rows * 2 ^ 11 + x.1.kind * 2 ^ 9 + x.1.draftMax * 2 ^ 4)
      ++ w (if x.1.kind = 0 then x.2.1.lastToken * 2 ^ 32 else tok k)
  let pad := up64 (64 + 144 * n) - (64 + 144 * n)
  head ++ reqs ++ map ++ List.replicate pad 0 ++ (rows.flatMap fun x => x.2.2).flatMap (toBytes 4)

/-- The tables bound to a context installed in a core's expander; a table it does not bind gives up its place where the
64 slots are full (R168). -/
def State.installTables (s : State) (c n : Nat) : State :=
  let bound := (s.exp.tables.filter (·.binds.contains c)).length
  s.onExp fun e =>
    let other := (e.tables.filter fun t => !t.binds.contains c && t.resident.contains n).map (·.id)
    let keep := other.take (64 - bound)
    { e with tables := e.tables.map fun t =>
        if t.binds.contains c then { t with resident := t.resident.filter (· != n) ++ [n] }
        else if keep.contains t.id then t else { t with resident := t.resident.filter (· != n) } }

/-- A core started at an entry of a context's program: at once, or once it is awake (R185, R418). -/
def State.startCore (s : State) (x : Ctx) (pc : Nat) (area : List Byte) (n : Nat) : State :=
  let s := (s.wr .op (n * obSize + 64 * x.desc.batchAddr) area).installTables x.num n
  let c := s.core n
  s.putCore { c with
    ctx := x.num
    power := if c.power = .gated ∨ c.power = .waking then .waking else .running
    pc := pc
    prog := x.desc.program
    wait := none
    waitGated := false
    squash := false
    stopped := false
    waitDone := 0xFFFF
    tail := [] }

/-- STEP_SEQ of a group's next run, counted. -/
def Ctx.bumpSeq (x : Ctx) (g : Nat) : Nat × Ctx :=
  let n := ((x.seqs.find? (·.1 == g)).map (·.2)).getD 0 + 1
  (n, { x with seqs := upsert (·.1 == g) (g, n) x.seqs })

/-- The tokens of a chunk, from the request's history. -/
def Work.chunkTokens (w : Work) (n : Nat) : List Nat := ((w.history ++ w.genTokens).drop w.r.kvCommitted).take n

/-- A step reads and writes the request's pages on T0: their LAST_USE, and their entries in the translation caches of the tiles
of its core group (R79, R81). -/
def State.touchStep (s : State) (id g ctx : Nat) : State :=
  let mine := (s.kvPages id).filter (·.loc.tier == 0)
  let s := mine.foldl (fun s p => s.putPage { p with lastUse := s.tick % 2 ^ 24 }) s
  let tiles := (((s.ctx? ctx).map fun x => x.desc.group g).getD []).map coreTile
  tiles.dedup.foldl (fun s t => s.xlateRead (mine.map (·.idx)) t) s

/-- A request's step begins: pages, active-step entry, order (R86, R88, R188). The draft positions d its program writes, which
the program chooses, are a free value up to SPEC_WINDOW (R87, log entry 71). -/
def State.beginStep (s : State) (g : Nat) (row : BatchRow) : State :=
  match s.work? row.req with
  | none => s
  | some w =>
    let a := if row.draftMax = 0 then (0, s) else s.next
    let d := if row.draftMax = 0 then 0 else Config.choice a.1 % (row.draftMax + 1)
    let s := a.2.stepPages w.r (if row.kind = 0 then 1 + d else row.rows)
    let s := s.touchStep w.r.id g w.r.context
    (s.putWork { w with step := some ⟨if row.kind = 0 then 0 else row.rows, d, g, none, false⟩ }).onSch fun b => { b with
      active := b.active ++ [row.req]
      lastStep := upsert (·.1 == row.req) (row.req, b.stepCounter) b.lastStep
      stepCounter := b.stepCounter + 1
      retries := b.retries.filter (·.1 != row.req) }

/-- Rows renumbered from 0 in order. -/
def renumber : Nat → List BatchRow → List BatchRow
  | _, [] => []
  | k, r :: rs => { r with rowFirst := k } :: renumber (k + r.rows) rs

/-- A batch dispatched to a core group. -/
def State.dispatch (s : State) (x : Ctx) (g : Nat) (b : Forming) : State :=
  let rows := renumber 0 b.rows.reverse
  let (seq, x) := x.bumpSeq g
  let variant := (b.fixed.map (·.2)).getD 0
  let slot := if variant = 0 then 0 else b.slot
  let mode := if variant = 0 then 2 else 1
  let data := rows.filterMap fun r => (s.work? r.req).map fun w => (r, w.r, if r.kind = 0 then [] else w.chunkTokens r.rows)
  let area := batchArea seq x.num g slot mode 0 0xFFFFFFFF data
  let s := rows.foldl (fun s r => s.beginStep g r) s
  let s := ((s.bump R.SCH_BATCH_STATS_BATCHES).count R.SCH_ROWS_ROWS b.total).putCtx { x with held := none, holdOver := false }
  let s := if b.total < x.desc.rowMin then s.bump R.SCH_BATCH_STATS_BELOW_MIN else s
  let cores := x.desc.group g
  let s := cores.foldl (fun s n => s.startCore x x.desc.stepPc area n) s
  (s.onSch fun k => { k with
    batches := k.batches ++ [⟨x.num, g, seq, rows, slot, mode, cores, false, false⟩]
    turns := k.turns.filter (· != x.num) ++ [x.num] })

/-- A held batch as it is taken up again: requests that may no longer be stepped, or for which no active-step entry is free,
are gone from it (R188); its delta slot stays the one it read (R187). -/
def State.resumeHeld (s : State) (x : Ctx) (g : Nat) : Forming :=
  match x.held with
  | none => ⟨[], 0, 0, false, none, 0, false⟩
  | some h =>
    let rows := (h.rows.filter fun r => (s.work? r.req).any fun w => s.mayStep x.num g [] w).take (16384 - s.sch.active.length)
    let chunk := ((rows.filter (·.kind != 0)).map (·.rows)).sum
    let first := (rows.head?.bind fun r => s.work? r.req).map fun w => (w.r.modelId, w.r.variantId)
    { rows := rows.reverse, total := (rows.map (·.rows)).sum, chunk := chunk, closed := false, fixed := first,
      slot := h.deltaSlot, lc := rows.any fun r => (s.work? r.req).any fun w => s.flag (R.SCH_QUEUE_A_CLASS w.r.queue) }

/-- A context has an eligible row in a class's queues. -/
def State.hasRow (s : State) (x : Ctx) (g : Nat) (lc : Bool) : Bool :=
  let b : Forming := ⟨[], 0, 0, false, none, 0, false⟩
  decide (x.desc.kind = .serving) && (s.classQueues lc).any fun q => s.canAdd x g q b

/-- A context takes batches or shard runs now. -/
def Ctx.serving (x : Ctx) : Bool := decide (x.state = .running ∨ x.state = .draining)

/-- A shard of a context waits for a group. -/
def Ctx.shardWaits (x : Ctx) : Bool :=
  decide (x.desc.kind = .score ∨ x.desc.kind = .learn) && decide (x.state = .running) && x.nextShard < x.desc.shardCount

/-- A context has an eligible row in a class's queues for a group of its own that shares a core with a group of another. -/
def State.rowOn (s : State) (y x : Ctx) (g : Nat) (lc : Bool) : Bool :=
  (List.range y.desc.groups).any fun k => (y.desc.group k).any (x.desc.group g).contains && s.hasRow y k lc

/-- The contexts with work that share a core with a group of a context. -/
def State.rivals (s : State) (x : Ctx) (g : Nat) : List Ctx :=
  s.sch.ctxs.filter fun y => y.serving && (y.desc.cores.any (x.desc.group g).contains)
    && (y.held.isSome || s.rowOn y x g true || s.rowOn y x g false || y.shardWaits)

/-- Burin's turn for a group falls to a context: to one with an eligible LC row, else in rotation (R184): to the one whose last
dispatch lies longest ago. -/
def State.turnOf (s : State) (x : Ctx) (g : Nat) : Bool :=
  let rs := (s.rivals x g).filter (·.num != x.num)
  if s.hasRow x g true then true
  else if rs.any fun y => s.rowOn y x g true then false
  else
    let key := fun (n : Nat) => if s.sch.turns.contains n then s.sch.turns.idxOf n + 1 else 0
    rs.all fun y => key x.num < key y.num || (key x.num == key y.num && x.num < y.num)

/-- A batch formed for an idle group: dispatched, or held below ROW_MIN (R193). -/
def State.formAndDispatch (s : State) (x : Ctx) (g : Nat) (expired : Bool) : State :=
  let f := s.form x g (s.resumeHeld x g)
  let y := f.1
  let b := f.2.1
  let t := f.2.2
  if b.rows.isEmpty then t.putCtx { y with held := none, holdOver := false }
  else if expired || x.desc.rowMin ≤ b.total || b.lc || x.desc.holdUs = 0 then t.dispatch y g b
  else t.putCtx { y with held := some ⟨x.num, g, 0, renumber 0 b.rows.reverse, b.slot, 0, [], false, false⟩ }

/-- A batch for an idle core group. -/
def execBatchDispatch (c group : Nat) (s : State) : Host.Outcome State Fault Refusal :=
  match s.ctx? c with
  | none => .next s
  | some x => .next (if s.flag R.SCH_CTRL_ENABLE && x.serving && decide (x.desc.kind = .serving) && s.groupIdle x group
      && s.turnOf x group then s.formAndDispatch x group x.holdOver else s)

/-- HOLD_US expires: the held batch goes to its group, or to another that is idle and whose turn it is, now or as soon as
there is one. -/
def execBatchHoldExpiry (c : Nat) (s : State) : Host.Outcome State Fault Refusal :=
  match s.ctx? c with
  | none => .next s
  | some x =>
    match x.held with
    | none => .next s
    | some h =>
      let g := ((h.group :: List.range x.desc.groups).find? fun g => s.groupIdle x g && s.turnOf x g).getD x.desc.groups
      .next (if s.flag R.SCH_CTRL_ENABLE && x.serving && s.groupIdle x g then s.formAndDispatch x g true
        else s.putCtx { x with holdOver := true })

/-- A batch's core group is done: every core has executed END, or has been squashed. -/
def State.runOver (s : State) (left : List Nat) (squashed : Bool) : Bool :=
  left.isEmpty || (squashed && left.all fun n => (s.core n).stopped)

/-- Steps of a batch that has ended without their commit fail (log entry 23). -/
def State.unfinishedSteps (s : State) (b : Batch) : State :=
  (b.rows.filter fun r => !r.dead && ((s.work? r.req).any fun w => w.step.isSome && decide (w.status = .owned))).foldl
    (fun s r => s.failStep r.req) s

/-- A batch ends, or a squashed shard run. -/
def execBatchEnd (c group : Nat) (s : State) : Host.Outcome State Fault Refusal :=
  let closing := (s.ctx? c).any fun x => decide (x.state = .closing)
  if closing then .next s
  else match s.sch.batches.find? fun b => b.ctx == c && b.group == group with
  | some b =>
    if s.runOver b.left b.squashed then
      let s := (b.left.map s.core).foldl State.idleCore s
      let s := s.onSch fun k => { k with batches := k.batches.filter fun y => !(y.ctx == c && y.group == group) }
      .next (s.unfinishedSteps b)
    else .next s
  | none =>
    match s.sch.shards.find? fun y => y.ctx == c && y.group == group && y.squashed with
    | some y =>
      if s.runOver y.left true then
        let s := (y.left.map s.core).foldl State.idleCore s
        .next (s.onSch fun k => { k with shards := k.shards.filter fun z => !(z.ctx == c && z.group == group) })
      else .next s
    | none => .next s

/-! ### Shards (R201 to R204) -/

/-- A shard copy started on a group. -/
def State.startShard (s : State) (x : Ctx) (g shard copy : Nat) : State :=
  let (seq, x) := x.bumpSeq g
  let x := if copy = 0 then { x with nextShard := shard + 1 } else { x with backups := x.backups ++ [shard] }
  let cores := x.desc.group g
  let area := batchArea seq x.num g 0 0 copy shard []
  let s := cores.foldl (fun s n => s.startCore x x.desc.jobPc area n) (s.putCtx x)
  s.onSch fun k => { k with
    shards := k.shards ++ [⟨x.num, g, shard, copy, seq, s.aon, cores, false⟩]
    turns := k.turns.filter (· != x.num) ++ [x.num] }

/-- The next shard goes to an idle group. -/
def execShardDispatch (c group : Nat) (s : State) : Host.Outcome State Fault Refusal :=
  match s.ctx? c with
  | none => .next s
  | some x => .next (if s.flag R.SCH_CTRL_ENABLE && x.shardWaits && s.groupIdle x group && 1 ≤ x.desc.batchUnits && s.turnOf x group
      then s.startShard x group x.nextShard 0 else s)

/-- Twice the median of some run times. -/
def median2 (l : List Nat) : Nat :=
  let t := l.mergeSort
  let n := t.length
  t.getD ((n - 1) / 2) 0 + t.getD (n / 2) 0

/-- Copy 0 of a shard has run long enough for a backup (R202). -/
def State.straggles (s : State) (x : Ctx) (y : ShardRun) : Bool :=
  let t := s.aon - y.startedAt
  s.reg R.SCH_BACKUP_FACTOR * median2 x.runTimes < 16 * t && s.reg R.SCH_BACKUP_MIN_US < t

/-- A backup copy of a shard starts. -/
def execBackupStart (c shard group : Nat) (s : State) : Host.Outcome State Fault Refusal :=
  match s.ctx? c with
  | none => .next s
  | some x =>
    match s.sch.shards.find? fun y => y.ctx == c && y.shard == shard && y.copy == 0 && !y.squashed with
    | none => .next s
    | some y =>
      .next (if s.flag R.SCH_CTRL_ENABLE && s.reg R.SCH_CTRL_MODE != 0 && x.desc.backupOk && decide (x.state = .running)
          && !x.shardWaits && !x.doneShards.isEmpty && !x.backups.contains shard && s.straggles x y && s.groupIdle x group && s.turnOf x group
        then (s.startShard x group shard 1).bump R.SCH_BACKUP_STATS_STARTED else s)

/-- A copy of a shard wins: the other is squashed, RESULT names it and DONE_CTR rises (R203). -/
def State.shardWin (s : State) (x : Ctx) (y : ShardRun) : State :=
  let other := s.sch.shards.filter fun z => z.ctx == x.num && z.shard == y.shard && z.copy != y.copy
  let s := s.onSch fun k => { k with shards := (k.shards.filter (· != y)).map fun z =>
    if z.ctx == x.num && z.shard == y.shard then { z with squashed := true } else z }
  let s := s.squashCores ((other.flatMap (·.left)).map s.core)
  let s := (s.shardResult x.desc y.shard (y.copy + 1)).putCtx { x with
    doneShards := x.doneShards ++ [y.shard]
    runTimes := x.runTimes ++ [s.aon - y.startedAt] }
  let s := if y.copy = 1 then s.bump R.SCH_BACKUP_STATS_WON else s
  let w := s.rdNum .hbm (x.desc.shardAddr + 32 * y.shard + 0x18) 8
  let tile := bitsOf w 31 27
  let ctr := bitsOf w 47 32
  if ctr = 0xFFFF || !s.tileIn tile then s else s.addCounter (tile * 65536 + ctr) 1

/-- The first copy of a shard to reach END wins. -/
def execShardWin (c shard copy : Nat) (s : State) : Host.Outcome State Fault Refusal :=
  match s.ctx? c with
  | none => .next s
  | some x =>
    match s.sch.shards.find? fun y => y.ctx == c && y.shard == shard && y.copy == copy && !y.squashed && y.left.isEmpty with
    | some y => .next (if x.serving && !x.doneShards.contains shard then s.shardWin x y else s)
    | none => .next s

end Sys2Proof.Machine
end

