-- ==== Sys2Proof/Machine/Compute.lean ====
section
/-! DEFINITION. The matrix, vector, sampler and optimizer instructions (sections 5.3 to 5.8) and the expander behind MMX
(sections 6.2 to 6.6). -/

namespace Sys2Proof.Machine

/-! ### The matrix engine -/

/-- The first `tiles` tile-ops of a matrix instruction that reads the ranges `rs`, and then those in `more`. -/
def State.runMatrix (s : State) (c : Core) (i : MInstr) (rs : List (Nat × Nat)) (bv : Nat → Nat → Num) (tiles : Nat)
    (more : List CoreOp) : State :=
  s.results c rs i.rows (i.run (s.ob c.num) bv (s.deadRow c.num) tiles) more

/-- A matrix instruction whose B lies in the operand buffer. -/
def State.matrix (s : State) (c : Core) (o : Opc) (i : MInstr) (b : List (Nat × Nat)) (bv : Nat → Nat → Num) : State :=
  match s.held c o (i.ranges b).1 (i.ranges b).2 with
  | some t => t
  | none => s.runMatrix c i (i.ranges b).1 bv i.tileOps []

/-- MMA. -/
def State.mma (s : State) (c : Core) (w : Word128) : State :=
  match mDecode w with
  | none => s.instrFault c .mma .illegalInstr
  | some i => s.matrix c .mma i i.bTileRanges (i.bTile (s.ob c.num))

/-- MMA. -/
def execMma (core : Nat) (s : State) : Host.Outcome State Fault Refusal := .next (s.issue core .mma State.mma)

/-- MMT. -/
def State.mmt (s : State) (c : Core) (w : Word128) : State :=
  match mDecode w with
  | none => s.instrFault c .mmt .illegalInstr
  | some i => s.matrix c .mmt i i.bRowRanges (i.bRow (s.ob c.num))

/-- MMT. -/
def execMmt (core : Nat) (s : State) : Host.Outcome State Fault Refusal := .next (s.issue core .mmt State.mmt)

/-! ### The expander (R154 to R165, R174, R175, R187) -/

/-- The delta slot an MMX runs with (R187). -/
def State.deltaOf (s : State) (n encoded : Nat) : Nat :=
  match s.coreBatch n with
  | some b => if b.deltaMode = 2 then 0 else if b.deltaMode = 1 ∧ encoded ≠ 0 then b.deltaSlot else encoded
  | none => encoded

/-- A decoded tile with a delta set's entries applied, as their bytes now are (R173), and how many were applied and inexact; the
status of the first check of R175 that fails. -/
def State.deltaTile (s : State) (ctx slot : Nat) (f : Fmt) (kT nT : Nat) (t : Tile) : Except St (Tile × Nat × Nat) :=
  if slot = 0 then .ok (t, 0, 0)
  else match (s.dslot? slot).filter (·.binds.contains ctx) with
  | none => .error .deltaAbsent
  | some d =>
    if d.modelId ≠ t.hdr.modelId then .error .deltaMismatch
    else
      let h := dsetFields (s.rd .hbm) d.base
      let (n, off) := dsetTile (s.rd .hbm) d.base h t.hdr.tileKey
      let es := dsetEntries (s.rd .hbm) d.base n off
      if (dsetReads (s.rd .hbm) d.base h t.hdr.tileKey).any fun r => (s.poisoned .hbm (d.base + r.1) r.2).isSome then
        .error .poisonRead
      else if !(es.all (·.1 < kT * nT) && ascending (es.map (·.1))) then .error .deltaFormat
      else
        let (l, inexact) := applyDeltas f t.elems.flatten es
        .ok ({ t with elems := (List.range nT).map fun k => (l.drop (k * kT)).take kT }, n, inexact)

/-- What the expander has staged of an MMX: the tiles that passed every check, the block that failed, and its counts. -/
structure Staged where
  tiles : List Tile
  fault : Option (Nat × BlockFault)
  applied : Nat
  inexact : Nat
  stall : Nat
  deriving DecidableEq, Repr

/-- The table an expander decodes with: bound to the running context and resident (R162, check 3). -/
def State.tableFor (s : State) (ctx n id : Nat) : Option (Nat × List Nat) :=
  ((s.table? id).filter fun t => t.binds.contains ctx && t.resident.contains n).map fun t => (t.element, t.lens)

/-- Blocks decoded in tile-op order from an offset (R154); a failed check stops the walk (R163). -/
def State.stage (s : State) (c : Core) (i : MInstr) (code slot : Nat) : Nat → Nat → Staged
  | 0, _ => ⟨[], none, 0, 0, 0⟩
  | k + 1, off =>
    let (kT, nT) := tileShape i.fa i.fb
    let pz := fun o n => (s.poisoned .op (c.num * obSize + o) n).isSome
    match decodeBlock (s.ob c.num) pz (s.tableFor c.ctx c.num) i.fb code kT nT off with
    | .error e => ⟨[], some (off, e), 0, 0, 0⟩
    | .ok t =>
      match s.deltaTile c.ctx slot i.fb kT nT t with
      | .error e => ⟨[], some (off, ⟨e, 0xFF⟩), 0, 0, 0⟩
      | .ok (t, n, inexact) =>
        let r := s.stage c i code slot k (up64 (off + t.hdr.length))
        { r with
          tiles := t :: r.tiles
          applied := r.applied + n
          inexact := r.inexact + inexact
          stall := r.stall + tileStall t.hdr.length n }

/-- The end of the last block of an MMX, by the walk over its headers; none while an earlier instruction has still to write a header
on the way (R126, R155). -/
def State.walkEnd (s : State) (n : Nat) : Nat → Nat → Option Nat
  | 0, off => some off
  | k + 1, off =>
    if obSize < off + 32 then some (off + 32)
    else if s.loading n [(off, 32)] [] then none
    else s.walkEnd n k (up64 (off + max 32 (blockHdr (s.ob n) off).length))

/-- Element (k, n) of the expanded B. -/
def stagedElem (i : MInstr) (rd : Nat → Byte) (ts : List Tile) (k n : Nat) : Num :=
  let (kT, nT) := tileShape i.fa i.fb
  match ts[n / nT * i.kt + k / kT]? with
  | none => .zero
  | some t =>
    let b := (t.elems.getD (n % nT) []).getD (k % kT) 0
    if i.fb.isMx then mxValue i.fb (rd (t.scales + n % nT * (kT / 32) + k % kT / 32)).toNat b else i.fb.value b

/-- MMX: the tile-ops before a failed block write their results; the one that would consume it faults, where no squash stops the
instruction first (R163, R165). -/
def State.mmx (s : State) (c : Core) (w : Word128) : State :=
  let code := fieldOf w 115 112
  match (mDecode w).filter fun _ => (blockFmt code).isSome with
  | none => s.instrFault c .mmx .illegalInstr
  | some i =>
    let tiles := i.tileOps
    let (rs, ws) := i.ranges []
    match s.held c .mmx rs ws with
    | some t => t
    | none =>
      match s.walkEnd c.num tiles i.addrB with
      | none => s.notYet c
      | some e =>
        if s.loading c.num [(i.addrB, e - i.addrB)] [] then s.notYet c
        else
          let g := s.stage c i code (s.deltaOf c.num i.delta) tiles i.addrB
          let done := g.tiles.length
          let s := ((s.count R.EXP_INTAKE_STATS_BLOCKS done).count R.EXP_INTAKE_STATS_STALL_CLOCKS g.stall).count
            R.EXP_DELTA_STATS_APPLIED g.applied |>.count R.EXP_DELTA_STATS_INEXACT g.inexact
          let rs := (i.addrB, e - i.addrB) :: rs
          s.runMatrix c i rs (stagedElem i (s.ob c.num) g.tiles) done
            (g.fault.toList.map fun x => ⟨c.pc - 1, 0xFFFF, rs, 0, false, [.fault x.1 x.2.status x.2.segment]⟩)

/-- MMX. -/
def execMmx (core : Nat) (s : State) : Host.Outcome State Fault Refusal := .next (s.issue core .mmx State.mmx)

/-! ### The vector unit -/

/-- A vector instruction. -/
def State.vector (o : Opc) (s : State) (c : Core) (w : Word128) : State :=
  match vDecode o w with
  | none => s.instrFault c o .illegalInstr
  | some i =>
    if !i.limitsOk then s.instrFault c o .operandRange
    else s.compute c o i.ranges.1 i.ranges.2 (i.run (s.ob c.num))

/-- VBIN. -/
def execVbin (core : Nat) (s : State) : Host.Outcome State Fault Refusal := .next (s.issue core .vbin (State.vector .vbin))
/-- VBINS. -/
def execVbins (core : Nat) (s : State) : Host.Outcome State Fault Refusal := .next (s.issue core .vbins (State.vector .vbins))
/-- VFMA. -/
def execVfma (core : Nat) (s : State) : Host.Outcome State Fault Refusal := .next (s.issue core .vfma (State.vector .vfma))
/-- VUN. -/
def execVun (core : Nat) (s : State) : Host.Outcome State Fault Refusal := .next (s.issue core .vun (State.vector .vun))
/-- VRED. -/
def execVred (core : Nat) (s : State) : Host.Outcome State Fault Refusal := .next (s.issue core .vred (State.vector .vred))
/-- VSOFTMAX. -/
def execVsoftmax (core : Nat) (s : State) : Host.Outcome State Fault Refusal :=
  .next (s.issue core .vsoftmax (State.vector .vsoftmax))
/-- VNORM. -/
def execVnorm (core : Nat) (s : State) : Host.Outcome State Fault Refusal := .next (s.issue core .vnorm (State.vector .vnorm))
/-- VROPE. -/
def execVrope (core : Nat) (s : State) : Host.Outcome State Fault Refusal := .next (s.issue core .vrope (State.vector .vrope))
/-- VCVT. -/
def execVcvt (core : Nat) (s : State) : Host.Outcome State Fault Refusal := .next (s.issue core .vcvt (State.vector .vcvt))
/-- VMERGE. -/
def execVmerge (core : Nat) (s : State) : Host.Outcome State Fault Refusal := .next (s.issue core .vmerge (State.vector .vmerge))

/-! ### The sampler (section 5.7) -/

/-- A request of a core's batch whose rows are dead (R189). -/
def State.deadReq (s : State) (n id : Nat) : Bool :=
  (s.coreBatch n).any fun b => b.rows.any fun r => r.dead && r.req == id

/-- The node owns a request. -/
def State.ownedReq (s : State) (id : Nat) : Option Work := (s.work? id).filter fun w => decide (w.status = .owned)

/-- A listed request that the node does not own and that is not dead in the batch (Table 5.2). -/
def State.badReq (s : State) (n id : Nat) : Bool := (s.ownedReq id).isNone && !s.deadReq n id

/-- The sampling parameters of a working record. -/
def Record.sampling (r : Record) : SampleParams := ⟨f32 r.temperature, f32 r.topP, r.topK, f32 r.repeatPenalty⟩

/-- SAMPLE or SVERIFY of the request list, in order; none where a row has no finite candidate. Entries of dead requests
are not written. -/
def State.sampleAll (s : State) (c : Core) (i : SInstr) (verify : Bool) : List Nat → Calc (Option (List ObWrite))
  | [] => return some []
  | r :: rs => do
    let rd := s.ob c.num
    let (id, drafts) := i.entry rd r
    match s.ownedReq id with
    | none => s.sampleAll c i verify rs
    | some w =>
      let p := w.r.sampling
      let pen := i.penalties rd r
      let rows := (List.range (1 + i.drafts)).map fun k => i.logits rd (r * (1 + i.drafts) + k)
      let one ← if verify then verifyRows p pen rows (drafts.take (min i.drafts w.r.specWindow)) ⟨0, [], []⟩
        else do
          let t ← sampleRow p pen (rows.headD [])
          pure (t.map fun x => (⟨0, [x.1], [x.2]⟩ : SampleRes))
      match one with
      | none => return none
      | some e =>
        let rest ← s.sampleAll c i verify rs
        return rest.map fun (l : List ObWrite) => ((i.addrZ + 192 * r, e.bytes) : ObWrite) :: l

/-- SAMPLE and SVERIFY. -/
def State.sample (o : Opc) (verify : Bool) (s : State) (c : Core) (w : Word128) : State :=
  match sDecode w with
  | none => s.instrFault c o .illegalInstr
  | some i =>
    if !i.limitsOk then s.instrFault c o .operandRange
    else match s.held c o i.sampleRanges.1 i.sampleRanges.2 with
    | some t => t
    | none =>
      let n := i.requests
      if (List.range n).any fun r => s.badReq c.num (i.entry (s.ob c.num) r).1 then s.instrFault c o .noRequest
      else
        let (out, k) := (s.sampleAll c i verify (List.range n)).run { fresh := s.fresh }
        let s := s.calcDone c k
        match out with
        | none => s.instrFault { c with draws := c.draws + k.draws } o .sampleInvalid
        | some ws => s.pushOps c.num (coreOps c i.sampleRanges.1 0 (i.ops ws))

/-- SAMPLE. -/
def execSample (core : Nat) (s : State) : Host.Outcome State Fault Refusal := .next (s.issue core .sample (State.sample .sample false))

/-- SVERIFY. -/
def execSverify (core : Nat) (s : State) : Host.Outcome State Fault Refusal := .next (s.issue core .sverify (State.sample .sverify true))

/-- SLOGPROB. A row without a finite logit is no fault of it: Table 5.2's sampler row is taken for one SAMPLE or SVERIFY draws from
(DESIGN CHOICE, log entry 73). -/
def State.slogprob (s : State) (c : Core) (w : Word128) : State :=
  match sDecode w with
  | none => s.instrFault c .slogprob .illegalInstr
  | some i => s.compute c .slogprob [(i.addrX, i.rows * strideOf i.fi i.vocab), (i.addrY, 128 * i.rows)] [(i.addrZ, 4 * i.rows)]
      (i.logprobs (s.ob c.num))

/-- SLOGPROB. -/
def execSlogprob (core : Nat) (s : State) : Host.Outcome State Fault Refusal := .next (s.issue core .slogprob State.slogprob)

/-- A sample entry as SCOMMIT hands it over: COUNT tokens with their LOGPROB bits (Table 5.12). -/
def sampleEntry (rd : Nat → Byte) (a : Nat) : List (Nat × Nat) :=
  (List.range (min (rdNat rd a 4) 17)).map fun k => (rdNat rd (a + 8 + 4 * k) 4, rdNat rd (a + 0x50 + 4 * k) 4)

/-- One request of SCOMMIT: its tokens are handed over and committed where the output ring takes them; a request that ended
or whose step was abandoned is reported (R149). A chunk that is not its prompt's last hands over no token. -/
def State.commitOne (s : State) (n id : Nat) (toks : List (Nat × Nat)) : State :=
  let row := (s.coreBatch n).bind fun b => b.rows.find? (·.req == id)
  if row.any (·.dead) then
    match row.filter (·.cancelled) with
    | some r => s.commitOrdered id .cancelled 0 r.gen r.kv
    | none => s.commitOrdered id .noRequest 0 0 0
  else match s.ownedReq id with
  | none => s.commitOrdered id .noRequest 0 0 0
  | some w =>
    match w.step with
    | none => s.commitOrdered id .noRequest 0 0 0
    | some si =>
      let toks := if row.any (·.kind == 1) then [] else toks
      (s.putWork { w with step := some { si with accepted := some toks } }).tryCommit id

/-- SCOMMIT of the request list: ROWS ÷ (1 + DRAFTS) requests, as SAMPLE counts them (DESIGN CHOICE, log entry 73). -/
def State.scommit (s : State) (c : Core) (w : Word128) : State :=
  match sDecode w with
  | none => s.instrFault c .scommit .illegalInstr
  | some i =>
    if !i.limitsOk then s.instrFault c .scommit .operandRange
    else
      let n := i.requests
      match s.held c .scommit [(i.addrX, 192 * n), (i.addrY, 128 * n)] [(i.addrZ, 16 * n)] with
      | some t => t
      | none =>
        let rd := s.ob c.num
        let ids := (List.range n).map fun r => (i.entry rd r).1
        if ids.any (s.badReq c.num) then s.instrFault c .scommit .noRequest
        else
          let left := ids.zipIdx.map fun (id, r) => (r, id)
          let s := s.deschedule c (.commit left i.addrZ) 0xFFFF
          left.foldl (fun s x => s.commitOne c.num x.2 (sampleEntry rd (i.addrX + 192 * x.1))) s

/-- SCOMMIT. -/
def execScommit (core : Nat) (s : State) : Host.Outcome State Fault Refusal := .next (s.issue core .scommit State.scommit)

/-! ### The optimizer (section 5.8) -/

/-- OADAM and OSGD. -/
def State.optimize (o : Opc) (adam : Bool) (s : State) (c : Core) (w : Word128) : State :=
  match oDecode w with
  | none => s.instrFault c o .illegalInstr
  | some i =>
    match s.held c o [(i.addrP, 64)] [] with
    | some t => t
    | none =>
      let n := i.count (s.ob c.num)
      if n = 0 ∨ 262144 < n then s.instrFault c o .operandRange
      else s.compute c o (i.ranges adam n).1 (i.ranges adam n).2 (i.run adam (s.ob c.num))

/-- OADAM. -/
def execOadam (core : Nat) (s : State) : Host.Outcome State Fault Refusal := .next (s.issue core .oadam (State.optimize .oadam true))

/-- OSGD. -/
def execOsgd (core : Nat) (s : State) : Host.Outcome State Fault Refusal := .next (s.issue core .osgd (State.optimize .osgd false))

end Sys2Proof.Machine
end

