-- ==== Sys2Proof/Machine/Mezzotint.lean ====
section
/-! DEFINITION. Mezzotint (chapter 4): MZQUERY and MZWRITE, a holder's queries and KV writes, the owner's answers, the MZT
registers. Where the operand buffer holds the descriptor and the records is log entry 20. -/

namespace Sys2Proof.Machine

/-! ### The owner's messages (R107, R112, R113, R123) -/

/-- The descriptor of MZQUERY or MZWRITE at an offset of a core's operand buffer, in the layout of Table 4.1. -/
def State.mztDescriptor (s : State) (n off : Nat) : MztMsg :=
  let w := fun (o : Nat) => rdNat (s.ob n) (off + o) 8
  { req := w 0, epoch := 0, tag := 0, format := 1, status := .ok, modelId := bitsOf (w 0x10) 31 16, layer := bitsOf (w 0x10) 15 0,
    policyVersion := 0, basePos := bitsOf (w 0x18) 31 0, scale := bitsOf (w 0x20) 63 32, window := bitsOf (w 0x20) 31 0,
    rows := bitsOf (w 0x28) 63 55, qheads := bitsOf (w 0x28) 54 46, headDim := bitsOf (w 0x28) 45 37,
    kvHeads := bitsOf (w 0x28) 36 29, lc := false, pages := 0, payload := [], check := 0 }

/-- The limits of R112 that the fields alone show. -/
def MztMsg.fieldsOk (m : MztMsg) : Bool :=
  1 ≤ m.rows && m.rows ≤ 256 && 1 ≤ m.qheads && m.qheads ≤ 256 && m.kvHeads != 0 && m.qheads % m.kvHeads == 0
    && m.headDim % 16 == 0 && 16 ≤ m.headDim && m.headDim ≤ 256

/-- Bytes of a QUERY's payload (Table 4.2). -/
def MztMsg.queryBytes (m : MztMsg) : Nat := 2 * m.rows * m.qheads * m.headDim

/-- Bytes of one PARTIAL record. -/
def MztMsg.recordBytes (m : MztMsg) : Nat := 2 * m.headDim + 8

/-- Bytes of KV of one position and half. -/
def kvBytes (mo : Model) : Nat := mo.kvHeads * mo.headDim * elemBytes mo.element

/-- A message sent under a fresh TAG, with its CHECK. -/
def State.mztSend (s : State) (o : MztOut) : State :=
  let t := s.mzt.nextTag
  let o := { o with tag := t, busy := false, m := MztMsg.sealed { o.m with tag := t } (if o.query then .query else .kvWrite) }
  let s := s.onMzt fun m => { m with
    nextTag := (t + 1) % 2 ^ 32
    outs := m.outs ++ [o] }
  if o.query then (s.bump R.MZT_CLIENT_STATS_SENT).sendMsg o.holder (.mztQuery o.m) else s.sendMsg o.holder (.mztKvWrite o.m)

/-- Queries of the node awaiting a PARTIAL. -/
def State.mztOutstanding (s : State) : Nat := (s.mzt.outs.filter fun o => o.query && !o.busy).length

/-- Waiting queries sent while slots are free (R123). -/
def State.mztPump (s : State) : Nat → State
  | 0 => s
  | n + 1 =>
    match s.mzt.waiting with
    | [] => s
    | o :: os =>
      if s.reg R.MZT_LIMITS_MAX_OUTSTANDING ≤ s.mztOutstanding then s
      else ((s.onMzt fun m => { m with waiting := os }).mztSend o).mztPump n

/-- After a change of the outstanding messages: waiting queries go out, and cores with nothing left to wait for go on. -/
def State.mztNext (s : State) : State := (s.mztPump s.mzt.waiting.length).mztGoOn

/-- A request's step fails under R120. -/
def State.mztFail (s : State) (id : Nat) : State := ((s.bump R.MZT_CLIENT_STATS_FAILURES).failStep id).mztNext

/-- The request a core's descriptor names, as the node owns it. -/
def State.mztOwned (s : State) (id : Nat) : Option Work := (s.work? id).filter fun w => decide (w.status = .owned)

/-- An instruction's messages sent to their holders; a holder under NODE_UNREACHABLE fails the step at once (R120). -/
def State.mztStart (s : State) (c : Core) (done : Nat) (id : Nat) (os : List MztOut) : State :=
  if os.isEmpty then s.doneCtr c.num done
  else
    let s := s.deschedule c .mzt done
    if os.any fun o => s.isUnreachable o.holder then (s.mztFail id)
    else
      let s := (os.filter (!·.query)).foldl State.mztSend s
      (s.onMzt fun m => { m with waiting := m.waiting ++ os.filter (·.query) }).mztNext

/-- MZQUERY: one QUERY to each holder of a T1 page of the layer. The records of row and head r from the k-th holder go to
record r · (n + 1) + k after the descriptor; the last of each row and head is the owner's own. -/
def State.mzQuery (s : State) (c : Core) (w : Word128) : State :=
  let off := xAddrOb w
  match s.held c .mzquery [(off, 64)] [] with
  | some t => t
  | none =>
    let d := s.mztDescriptor c.num off
    match s.mztOwned d.req with
    | none => s.doneCtr c.num (xDoneCtr w)
    | some k =>
      let pages := (s.kvPages d.req).filter fun p => p.layer == d.layer
      let at_ := fun (p : Page) => match p.loc with
        | .t1 n _ => some n
        | _ => none
      let hs := ((pages.filterMap at_).dedup).mergeSort
      let n := hs.length + 1
      let base := off + up64 (64 + d.queryBytes)
      let shapeOk := (s.model? k.r.modelId).any fun mo => mo.id == d.modelId && mo.kvHeads == d.kvHeads && mo.headDim == d.headDim
      if !d.fieldsOk || !shapeOk || d.basePos ≠ k.r.kvCommitted then s.instrFault c .mzquery .operandRange
      else match s.held c .mzquery [(off, 64 + d.queryBytes)] [(base, d.rows * d.qheads * n * d.recordBytes)] with
      | some t => t
      | none =>
        let q := { d with epoch := k.r.epoch, policyVersion := k.r.policyVersion, lc := k.r.lc,
                          payload := bytesAt (s.ob c.num) (off + 64) d.queryBytes }
        s.mztStart c (xDoneCtr w) d.req (hs.zipIdx.map fun (h, i) =>
          ⟨0, h, c.num, true, false, base, i, n, { q with pages := (pages.filter fun p => at_ p == some h).length }⟩)

/-- MZQUERY. -/
def execMzquery (core : Nat) (s : State) : Host.Outcome State Fault Refusal := .next (s.issue core .mzquery State.mzQuery)

/-- MZWRITE: one KV_WRITE for each T1 page that holds some of the positions. -/
def State.mzWrite (s : State) (c : Core) (w : Word128) : State :=
  let off := xAddrOb w
  match s.held c .mzwrite [(off, 64)] [] with
  | some t => t
  | none =>
    let d := s.mztDescriptor c.num off
    match s.mztOwned d.req with
    | none => s.doneCtr c.num (xDoneCtr w)
    | some k =>
      match s.model? k.r.modelId with
      | none => s.instrFault c .mzwrite .operandRange
      | some mo =>
        let per := kvBytes mo
        if d.rows = 0 ∨ mo.id ≠ d.modelId ∨ mo.kvHeads ≠ d.kvHeads ∨ mo.headDim ≠ d.headDim then
          s.instrFault c .mzwrite .operandRange
        else match s.held c .mzwrite [(off, 64 + 2 * d.rows * per)] [] with
        | some t => t
        | none =>
          let put := fun (p : Page) => match p.loc with
            | .t1 h _ =>
              let lo := max d.basePos p.firstPos
              let hi := min (d.basePos + d.rows) (p.firstPos + p.slots)
              let k0 := off + 64 + (lo - d.basePos) * per
              if lo < hi && p.layer == d.layer then
                some (⟨0, h, c.num, false, false, 0, 0, 0, { d with
                  epoch := k.r.epoch, policyVersion := k.r.policyVersion, basePos := lo, rows := hi - lo, qheads := 0, scale := 0, window := 0,
                  payload := bytesAt (s.ob c.num) k0 ((hi - lo) * per)
                    ++ bytesAt (s.ob c.num) (k0 + d.rows * per) ((hi - lo) * per) }⟩ : MztOut)
              else none
            | _ => none
          s.mztStart c (xDoneCtr w) d.req ((s.kvPages d.req).filterMap put)

/-- MZWRITE. -/
def execMzwrite (core : Nat) (s : State) : Host.Outcome State Fault Refusal := .next (s.issue core .mzwrite State.mzWrite)

/-! ### A holder (R105, R106, R113 to R118, R122) -/

/-- The three conditions of R105. -/
def State.mztServes (s : State) : Bool :=
  s.flag R.CAP_FEATURES_MEZZOTINT && s.reg R.PHS_PHASE_ROLE == 3 && s.flag R.MZT_CTRL_SERVE

/-- The context of the service is RUNNING. -/
def State.mztRunning (s : State) : Bool := (s.ctx? (s.reg R.MZT_CTRL_CONTEXT)).any fun x => decide (x.state = .running)

/-- The pages of a request's layer that the node holds (R110). -/
def State.layerPages (s : State) (id layer : Nat) : List Page :=
  (s.heldPages id).filter fun p => decide (p.kind = .kv) && p.layer == layer

/-- Recalls of pages in the node's Umber pools start (R116), while fewer than MAX_INFLIGHT pages migrate (R103). -/
def State.recallHeld (s : State) (ps : List Page) : State :=
  ps.foldl (fun s p => if p.loc.tier = 2 ∧ !p.migrating ∧ s.migRoom then s.recallPage p p.epoch .recall false none else s) s

/-- The positions a page holds that row `j` of a query reads (R117). -/
def MztMsg.reads (q : MztMsg) (j : Nat) (p : Page) : List Nat :=
  ((List.range p.slots).map (p.firstPos + ·)).filter fun x =>
    x ≤ q.basePos + j && (q.window == 0 || q.basePos + j + 1 ≤ x + q.window)

/-- A query reads a page: some row reads one of its positions. -/
def MztMsg.readsPage (q : MztMsg) (p : Page) : Bool := (List.range q.rows).any fun j => !(q.reads j p).isEmpty

/-- The pages a query reads. -/
def State.readPages (s : State) (q : MztMsg) : List Page := (s.layerPages q.req q.layer).filter q.readsPage

/-- The bytes a query reads of a page on T0 hold poison. -/
def State.readsPoison (s : State) (q : MztMsg) (p : Page) : Bool :=
  let per := p.kvHeads * p.headDim * elemBytes p.element
  (s.frameOf p).any fun f => ((List.range q.rows).flatMap fun j => q.reads j p).dedup.any fun x =>
    let a := 16384 * f + (x - p.firstPos) * per
    (s.poisoned .hbm a per).isSome || (s.poisoned .hbm (a + p.slots * per) per).isSome

/-- Checks 5 to 7 of Table 4.3: the first status that refuses a query. -/
def State.queryPages (s : State) (q : MztMsg) : Option St :=
  let ps := s.layerPages q.req q.layer
  if (s.heldPages q.req).isEmpty then some .noRequest
  else if ps.length ≠ q.pages ∨ !ps.all (fun p => p.kvHeads == q.kvHeads && p.headDim == q.headDim && p.modelId == q.modelId) then
    some .pageMissing
  else if !(s.readPages q).all (·.policyVersion == q.policyVersion) then some .versionMismatch
  else none

/-- A query reads a page that rests in an Umber pool: the recall of each starts (R116). -/
def State.recallNeeded (s : State) (q : MztMsg) : State := s.recallHeld (s.readPages q)

/-- Some page a query reads is not on the node's T0. -/
def State.needsRecall (s : State) (q : MztMsg) : Bool := (s.readPages q).any (·.loc.tier == 2)

/-- The query served next: the one that runs, else LC before BE, in order of arrival (R116). -/
def State.mztFront (s : State) : Option MztQueued :=
  (s.mzt.queue.find? (·.reading.isSome)).or ((s.mzt.queue.find? (·.q.lc)).or s.mzt.queue.head?)

/-- Logical cores MZT_CORES names. -/
def State.mztCores (s : State) : List Nat :=
  (List.range 128).filter fun c =>
    if c < 64 then bitAt (s.reg R.MZT_CORES_LO_CORES) c else bitAt (s.reg R.MZT_CORES_HI_CORES) (c - 64)

/-- The service's cores run its context while a query runs (R106). Their programs are fixed: the cores issue no instruction of a
program in memory. -/
def State.serveOn (s : State) : State :=
  s.mztCores.foldl (fun s n => s.putCore { s.core n with
    ctx := s.reg R.MZT_CTRL_CONTEXT
    power := .running
    stopped := true }) s

/-- The service's cores after a query: they run no context. -/
def State.serveOff (s : State) : State :=
  (s.ctxCores (s.reg R.MZT_CTRL_CONTEXT)).foldl (fun s c => s.putCore { c with
    ctx := 0xFFF
    power := .idle }) s

/-- A queued query is over; with the one that ran, its cores are idle and the pages that waited for its reads are settled (R122). -/
def State.leaveQueue (s : State) (x : MztQueued) : State :=
  if s.mzt.queue.contains x then
    let s := s.setQueue (dropFirst x s.mzt.queue)
    if x.reading.isSome then s.serveOff.settlePages else s
  else s.settlePages

/-- The front query begins to run unless one runs: its pages are those it now reads, and it holds the service's cores (R106); one query runs
at a time (DESIGN CHOICE, log entry 89). One whose service has ended, or whose pages are gone or have gone to the Umber pool, since it
was queued is answered (R105, R116, R122). -/
def State.mztBegin (s : State) : Nat → State
  | 0 => s
  | n + 1 =>
    match s.mztFront with
    | none => s
    | some x =>
      if x.reading.isSome then s
      else if !s.mztServes then ((s.leaveQueue x).refuseQuery x.src x.q .unitAbsent).mztBegin n
      else if !s.mztRunning then ((s.leaveQueue x).refuseQuery x.src x.q .mztBusy).mztBegin n
      else if (s.heldPages x.q.req).any fun p => x.q.epoch < p.epoch then
        ((s.leaveQueue x).refuseQuery x.src x.q .epochStale).mztBegin n
      else if (s.queryPages x.q).isSome then
        ((s.leaveQueue x).refuseQuery x.src x.q .pageMissing).mztBegin n
      else if s.needsRecall x.q then (((s.leaveQueue x).recallNeeded x.q).refuseQuery x.src x.q .mztBusy).mztBegin n
      else
        let ps := (s.readPages x.q).map fun p => { p with loc := ((s.frameOf p).map PageLoc.t0).getD p.loc }
        s.serveOn.onMzt fun m => { m with queue := m.queue.map fun y => if y = x then { y with reading := some ps } else y }

/-- A query arrives: the checks of Table 4.3 in order. -/
def State.mztQuery (s : State) (src : Nat) (q : MztMsg) : State :=
  if !q.checkOk .query then s.bump R.MZT_ERR_STATS_CHECK_DROPS
  else if s.transitOnly then s.nakMsg src (.mztQuery q)
  else
    let s := s.onPhs fun p => { p with holderAt := s.aon }
    if !s.mztServes then s.refuseQuery src q .unitAbsent
    else if !s.mztRunning then s.refuseQuery src q .mztBusy
    else if q.format ≠ 1 || !q.fieldsOk || q.payload.length != q.queryBytes then s.refuseQuery src q .badParam
    else match s.holderEpoch q.req q.epoch with
    | none => s.refuseQuery src q .epochStale
    | some s =>
      match s.queryPages q with
      | some st => s.refuseQuery src q st
      | none =>
        if s.reg R.MZT_LIMITS_QUEUE_DEPTH ≤ s.mzt.queue.length then s.refuseQuery src q .mztBusy
        else if s.needsRecall q then (s.recallNeeded q).refuseQuery src q .mztBusy
        else (s.onMzt fun m => { m with queue := m.queue ++ [⟨src, q, none⟩] }).mztBegin (s.mzt.queue.length + 1)

/-- A KV_WRITE of a node delivered before a message of it still waits for a page on its way from the Umber pool: the message
waits behind it (R113). -/
def State.behindWrite (s : State) (src : Nat) (m : Msg) : Bool :=
  (s.fab.inbox.takeWhile fun x => decide (x ≠ (src, m))).any fun x => x.1 == src && (match x.2 with
    | .mztKvWrite _ => true
    | _ => false)

/-- A message stays where it was delivered. -/
def State.keepMsg (s : State) (src : Nat) (m : Msg) : State := if s.fab.inbox.contains (src, m) then s else s.deliver src m

/-- A QUERY arrives at a holder. -/
def execMztQuery (src : Nat) (m : MztMsg) (s : State) : Host.Outcome State Fault Refusal :=
  .next (if s.behindWrite src (.mztQuery m) then s.keepMsg src (.mztQuery m) else (s.takeMsg src (.mztQuery m)).mztQuery src m)

/-- The format of an ELEMENT value (Table 3.4). -/
def elementFmt (e : Nat) : Fmt := match e with
  | 0 => .e4m3 | 1 => .e5m2 | _ => .bf16

/-- KV elements of one position and head: K, or V with `v` (R76). -/
def State.kvRow (s : State) (p : Page) (v : Bool) (pos head : Nat) : List Num :=
  let f := elementFmt p.element
  let per := p.kvHeads * p.headDim
  let i := (if v then p.slots * per else 0) + ((pos - p.firstPos) * p.kvHeads + head) * p.headDim
  let base := 16384 * (s.frameOf p).getD 0
  (List.range p.headDim).map fun d => f.value (rdElem (s.rd .hbm) f base (i + d))

/-- One row and head of a partial (R117): O in BF16, M and L in FP32. -/
def headPartial (scale : Num) (q : List Num) (hd : Nat) (kv : List (List Num × List Num)) : Calc (List Byte) := do
  let out := fun (o : List Nat) (m l : Num) => packElems 16 o ++ toBytes 4 m.f32Bits ++ toBytes 4 l.f32Bits
  if kv.isEmpty then return out (List.replicate hd 0) (.inf true) .zero
  let ss ← kv.mapM fun x => do
    let ps ← (q.zip x.1).mapM fun (a, b) => a.mulRaw b
    fmul scale (← toF32 (← fsum ps))
  if ss.any Num.isNan then return out (List.replicate hd Fmt.bf16.nanBits) .nan .nan
  let m := (argmax ss).2
  let es ← ss.mapM fun v => do fexp (← fsub v m)
  let l ← fsum es
  let o ← (List.range hd).mapM fun d => do
    let ts ← (es.zip kv).mapM fun (e, x) => fmul e (x.2.getD d .zero)
    convert .bf16 .rne false (← fdiv (← fsum ts) l)
  return out o m l

/-- The payload of a partial over some pages (Table 4.2). -/
def State.partialOf (s : State) (q : MztMsg) (ps : List Page) : Calc (List Byte) := do
  let rs ← (List.range (q.rows * q.qheads)).mapM fun r => do
    let j := r / q.qheads
    let h := r % q.qheads
    let g := h / (q.qheads / q.kvHeads)
    let kv := ps.flatMap fun p => (q.reads j p).map fun x => (s.kvRow p false x g, s.kvRow p true x g)
    let qv := (List.range q.headDim).map fun d =>
      Fmt.bf16.value (rdNat (fun i => q.payload.getD i 0) (2 * (r * q.headDim + d)) 2)
    headPartial (f32 q.scale) qv q.headDim kv
  return rs.flatten

/-- KV bytes a query reads. -/
def MztMsg.kvRead (q : MztMsg) (ps : List Page) : Nat :=
  (ps.map fun p => (((List.range q.rows).flatMap fun j => q.reads j p).dedup).length * 2 * p.kvHeads * p.headDim
    * elemBytes p.element).sum

/-- LAST_USE of the pages a query has read (R79, R116). -/
def State.touchRead (s : State) (q : MztMsg) (ps : List Page) : State :=
  s.onPge fun g => { g with pages := g.pages.map fun p =>
    if p.req == q.req && p.foreign && ps.any (·.idx == p.idx) then { p with lastUse := s.tick % 2 ^ 24 } else p }

/-- A read of a query that runs meets poison: the pages are lost (R99), and the core that read them faults, so that the service's context is
torn down and every query is answered (R106, R130). Which of the cores read them is a choice the spec leaves open; the fixed program's
PC and opcode are free values (log entry 92). -/
def State.serveFault (s : State) (x : MztQueued) (bad : List Page) : State :=
  let cs := s.mztCores
  let k := s.fresh
  let s := (s.setFresh (k + 3)).loseTogether bad
  let s := s.coreFault (cs.getD (Config.choice k % cs.length) 0) .poisonRead (Config.unstated (k + 1) % 2 ^ 32)
    (Config.unstated (k + 2) % 2 ^ 8)
  if s.mzt.queue.contains x then s.refuseQuery x.src x.q .pageMissing else s

/-- A query that runs is computed from the pages it reads, whose freeing or switch waits for it, and answered (R117, R118, R122). -/
def State.serveQuery (s : State) (x : MztQueued) (ps : List Page) : State :=
  let q := x.q
  if !s.mztServes then s.refuseQuery x.src q .unitAbsent
  else if !s.mztRunning then s.refuseQuery x.src q .mztBusy
  else if (s.heldPages q.req).any fun p => q.epoch < p.epoch then s.refuseQuery x.src q .epochStale
  else if ps.any (s.readsPoison q) then s.serveFault x (ps.filter (s.readsPoison q))
  else
    let (out, k) := (s.partialOf q ps).run { fresh := s.fresh }
    let cs := s.mztCores
    let s := s.setFresh (k.fresh + 1)
    let s := s.arith (cs.getD (Config.choice k.fresh % cs.length) 0) k.flags
    (((s.touchRead q ps).bump R.MZT_SERVE_STATS_SERVED).count R.MZT_BYTES_KV_BYTES (q.kvRead ps)).sendMsg x.src
      (.mztPartial (q.partial_ .ok ps.length out))

/-- The queue after the query that ran has been answered: the next begins. -/
def State.mztAnswered (s : State) (x : MztQueued) : State := (s.leaveQueue x).mztBegin s.mzt.queue.length

/-- A holder finishes computing the query that runs; with none running, the front one begins. -/
def execMztQueryDone (s : State) : Host.Outcome State Fault Refusal :=
  match s.mztFront with
  | some x =>
    match x.reading with
    | some ps => .next ((s.serveQuery x ps).mztAnswered x)
    | none => .next (s.mztBegin s.mzt.queue.length)
  | none => .next s

/-- A KV_WRITE arrives: checked, written, for a coded page folded into the parity first, and acknowledged (R113, R114). One whose
positions lie in no held page is answered ST_PAGE_MISSING (DESIGN CHOICE, log entry 88). -/
def State.kvWrite (s : State) (src : Nat) (m : MztMsg) : State :=
  if !m.checkOk .kvWrite then s.bump R.MZT_ERR_STATS_CHECK_DROPS
  else if s.transitOnly then s.nakMsg src (.mztKvWrite m)
  else
    let s := s.onPhs fun p => { p with holderAt := s.aon }
    match s.holderEpoch m.req m.epoch with
    | none => s.sendKvAck src m .epochStale
    | some s =>
      match (s.layerPages m.req m.layer).find? fun p => p.firstPos ≤ m.basePos && m.basePos < p.firstPos + p.slots with
      | none => s.sendKvAck src m .pageMissing
      | some p =>
        match s.frameOf p with
        | none => (s.recallHeld [p]).onFab fun b => { b with inbox := (src, .mztKvWrite m) :: b.inbox }
        | some f =>
          let per := p.kvHeads * p.headDim * elemBytes p.element
          let n := min (m.payload.length / 2) ((p.firstPos + p.slots - m.basePos) * per)
          let a := (m.basePos - p.firstPos) * per
          let b := p.slots * per + a
          let base := 16384 * f
          let old := s.rdBytes .hbm (base + a) (b + n - a)
          let s := (s.wr .hbm (base + a) (m.payload.take n)).wr .hbm (base + b) ((m.payload.drop (m.payload.length / 2)).take n)
          let s := s.putPage { p with lastUse := s.tick % 2 ^ 24 }
          if p.coded then s.sendParity p src a m.tag (xorBytes old (s.rdBytes .hbm (base + a) (b + n - a))) (some m)
          else s.sendKvAck src m .ok

/-- A KV_WRITE arrives at a holder. -/
def execMztKvWrite (src : Nat) (m : MztMsg) (s : State) : Host.Outcome State Fault Refusal :=
  .next (if s.behindWrite src (.mztKvWrite m) then s.keepMsg src (.mztKvWrite m) else (s.takeMsg src (.mztKvWrite m)).kvWrite src m)

/-! ### Answers at the owner (R120, R121) -/

/-- The outstanding message an answer is for. -/
def State.mztOut? (s : State) (src tag : Nat) (query : Bool) : Option MztOut :=
  s.mzt.outs.find? fun o => o.tag == tag && o.holder == src && o.query == query && !o.busy

/-- An outstanding message is answered. -/
def State.dropOut (s : State) (o : MztOut) : State :=
  s.onMzt fun m => { m with outs := m.outs.filter (·.tag != o.tag) }

/-- A partial's records put into the operand buffer. -/
def State.putRecords (s : State) (o : MztOut) (payload : List Byte) : State :=
  let rb := o.m.recordBytes
  (List.range (o.m.rows * o.m.qheads)).foldl (fun s r =>
    s.obWrite o.core (o.base + (r * o.n + o.k) * rb, (payload.drop (r * rb)).take rb)) s

/-- The owner's step is abandoned and its copy in doubt: a newer epoch holds the pages (R58, R120). -/
def State.mztStale (s : State) (id : Nat) : State :=
  match s.work? id with
  | none => s.mztNext
  | some w => ((s.dropStep id).query { w with step := none }).mztNext

/-- What an answer other than ST_OK and ST_MZT_BUSY brings (Table 4.4). -/
def State.mztRefused (s : State) (o : MztOut) (st : St) : State :=
  match st with
  | .epochStale => s.mztStale o.m.req
  | .pageMissing =>
    let gone := (s.kvPages o.m.req).filter fun p => p.layer == o.m.layer && (match p.loc with
      | .t1 n _ => n == o.holder
      | _ => false)
    ((s.loseTogether gone).mztFail o.m.req).mztNext
  | _ => s.mztFail o.m.req

/-- A PARTIAL at the owner. -/
def State.mztPartial (s : State) (src : Nat) (m : MztMsg) : State :=
  if !m.checkOk .partial_ then s.bump R.MZT_ERR_STATS_CHECK_DROPS
  else match s.mztOut? src m.tag true with
  | none => s.bump R.MZT_ERR_STATS_LATE_PARTIALS
  | some o =>
    match m.status with
    | .ok => ((s.dropOut o).putRecords o m.payload).mztNext
    | .mztBusy => (s.onMzt fun z => { z with outs := updateAll (·.tag == o.tag) (fun x => { x with busy := true }) z.outs }).mztNext
    | st => s.mztRefused o st

/-- A PARTIAL arrives. -/
def execMztPartial (src : Nat) (m : MztMsg) (s : State) : Host.Outcome State Fault Refusal :=
  .next ((s.takeMsg src (.mztPartial m)).mztPartial src m)

/-- A KV_ACK at the owner: the last lets a commit that waits for it go (R114). One with another status than ST_OK has the effect Table 4.4
gives a PARTIAL of that status (DESIGN CHOICE, log entry 90). -/
def State.mztAck (s : State) (src : Nat) (m : MztMsg) : State :=
  if !m.checkOk .kvAck then s.bump R.MZT_ERR_STATS_CHECK_DROPS
  else match s.mztOut? src m.tag false with
  | none => s.bump R.MZT_ERR_STATS_LATE_PARTIALS
  | some o => if m.status = .ok then ((s.dropOut o).mztNext).tryCommit o.m.req else s.mztRefused o m.status

/-- A KV_ACK arrives. -/
def execMztKvAck (src : Nat) (m : MztMsg) (s : State) : Host.Outcome State Fault Refusal :=
  .next ((s.takeMsg src (.mztKvAck m)).mztAck src m)

/-- A query answered ST_MZT_BUSY is sent again under a new TAG. -/
def execMztBusyRetryExpiry (tag : Nat) (s : State) : Host.Outcome State Fault Refusal :=
  match s.mzt.outs.find? fun o => o.tag == tag && o.busy with
  | none => .next s
  | some o =>
    .next (((s.dropOut o).bump R.MZT_CLIENT_STATS_BUSY_RETRIES).onMzt fun m => { m with waiting := m.waiting ++ [o] }).mztNext

/-- PARTIAL_US, or BUSY_LIMIT_US of busy answers, has passed: the step fails; the pages of a lost holder are lost. -/
def execMztPartialTimeout (tag : Nat) (s : State) : Host.Outcome State Fault Refusal :=
  match s.mzt.outs.find? fun o => o.tag == tag with
  | none => .next s
  | some o =>
    let s := if s.reachable o.holder then s else s.holderLost o.holder
    .next (s.mztFail o.m.req)

/-- A node is unreachable: the steps that wait for it fail (R120). -/
def State.mztNodeLost (s : State) (n : Nat) : State :=
  let ids := ((s.mzt.outs ++ s.mzt.waiting).filter (·.holder == n)).map (·.m.req)
  ids.dedup.foldl State.mztFail s

/-! ### Registers (R124, R125) -/

/-- SERVE may be set for a context: a SERVICE context, OPEN or RUNNING, with every named core. -/
def State.mayServe (s : State) (c : Nat) : Bool :=
  (s.ctx? c).any fun x => decide (x.desc.kind = .service) && decide (x.state = .open_ ∨ x.state = .running)
    && !s.mztCores.isEmpty && s.mztCores.all (x.desc.cores.contains ·)

/-- CONTEXT and the cores may be written. -/
def State.mztStill (s : State) : Bool := !s.flag R.MZT_CTRL_SERVE && s.mzt.queue.isEmpty

/-- A write to MZT_CTRL (R125). One that repeats CONTEXT's value is no write of CONTEXT, and so may clear SERVE while the service
runs (DESIGN CHOICE, log entry 72). -/
def State.mztCtrlWrite (s : State) (value : Nat) : State × St :=
  let c := bitsOf value 27 16
  if c ≠ s.reg R.MZT_CTRL_CONTEXT ∧ !s.mztStill then (s, .tableBusy)
  else if bitAt value 0 && !s.mayServe c then (s, .badState)
  else (s.writeRw 0xC0000 value, .ok)

/-- A write to MZT_CTRL. -/
def execMztCtrlWrite (value : Nat) (s : State) : Host.Outcome State Fault Refusal := .next (s.mztCtrlWrite value).1

/-- A write to MZT_CORES_LO or MZT_CORES_HI. -/
def State.mztCoresWrite (s : State) (hi : Bool) (value : Nat) : State × St :=
  if s.mztStill then (s.writeRw (if hi then 0xC0010 else 0xC0008) value, .ok) else (s, .tableBusy)

/-- A write to MZT_CORES_LO or MZT_CORES_HI. -/
def execMztCoresWrite (hi : Bool) (value : Nat) (s : State) : Host.Outcome State Fault Refusal :=
  .next (s.mztCoresWrite hi value).1

/-- A write to MZT_SPREAD or MZT_TIMEOUT. -/
def State.mztConfigWrite (s : State) (addr value : Nat) : State × St :=
  if addr = 0xC0018 ∧ value % 2 ^ 32 = 0 then (s, .badParam) else (s.writeRw addr value, .ok)

/-- A write to MZT_SPREAD or MZT_TIMEOUT. -/
def execMztConfigWrite (addr value : Nat) (s : State) : Host.Outcome State Fault Refusal :=
  .next (s.mztConfigWrite addr value).1

end Sys2Proof.Machine
end

