-- ==== Sys2Proof/Machine/Place.lean ====
section
/-! DEFINITION. Placement at the home (section 7.4) and the destinations of Burin's moves (R197, R213). -/

namespace Sys2Proof.Machine

/-! ### Ranking (R195, R196) -/

/-- A node's weight for a model, a variant and a prefix key. -/
def nodeWeight (model variant node key : Nat) : Nat :=
  crc32c (toBytes 2 model ++ toBytes 2 variant ++ toBytes 2 node ++ toBytes 2 0 ++ toBytes 8 key)

/-- The node of a list that ranks first: the greatest weight, then the lowest number. -/
def bestNode (weight : Nat → Nat) : List Nat → Option Nat
  | [] => none
  | n :: ns =>
    match bestNode weight ns with
    | none => some n
    | some m => if weight m < weight n ∨ (weight m = weight n ∧ n ≤ m) then some n else some m

/-- The nodes tried for a request. -/
def State.triedFor (s : State) (id : Nat) : List Nat := ((s.sch.tried.find? (·.1 == id)).map (·.2)).getD []

/-- COUNT of a request ID (R20). -/
def idCount (id : Nat) : Nat := id % 2 ^ 32

/-- The node of a list a request is offered to next, some nodes left aside; none where each has been tried or is passed
over. -/
def State.pickNode (s : State) (d : Desc) (r : Record) (key : Nat) (l skip : List Nat) : Option Nat :=
  let free := fun n => !(s.triedFor r.id).contains n && !s.sch.refuseHold.contains n && !skip.contains n
  if d.isStatic then
    if l.isEmpty then none else (l[idCount r.id % l.length]?).filter free
  else bestNode (fun n => nodeWeight r.modelId r.variantId n key) (l.filter free)

/-! ### Placement (R194 to R198) -/

/-- The cost of a placement (R191). -/
def State.placeCost (s : State) (r : Record) : Nat := max 1 (s.prefillCost r.prefillLeft)

/-- The node the home offers a request to next. -/
def State.placeTarget (s : State) (h : HomeRec) : Option Nat :=
  match s.ctx? h.r.context with
  | none => none
  | some x =>
    if !decide (x.state = .open_ ∨ x.state = .running ∨ x.state = .draining) then none
    else
      let d := x.desc
      let l := if d.shortPrompt < h.r.prefillLeft ∧ d.listA ≠ [] then d.listA else d.listB
      s.pickNode d h.r (if h.placed then 0 else h.prefixKey) l []

/-- A change of a record waits for the deputy, or is to be made again, or claims for it are gathered (R35, R60). -/
def State.changing (s : State) (h : HomeRec) : Bool :=
  h.deferred.isSome || s.pendingChange h.r.id || s.claimsOpen h.r.id

/-- A record may be offered now. -/
def State.placeable (s : State) (h : HomeRec) : Bool :=
  decide (h.r.state = .queued) && h.placing.isNone && h.checkOk && !s.changing h && h.historyOk && !s.mustRebase h.r
    && !(s.flag R.SCH_CTRL_PREFILL_HELD && h.r.prefillLeft != 0) && (s.placeTarget h).isSome

/-- Placeable records of a queue, in order of entry to QUEUED. -/
def State.placeQueue (s : State) (q : Nat) : List HomeRec :=
  s.sch.queuedSeq.filterMap fun x => (s.home? x.1).filter fun h => h.r.queue == q && s.placeable h

/-- PLACE offered to a node (R45). -/
def State.offer (s : State) (h : HomeRec) (target : Nat) : State :=
  let h' := { h with placing := some (target, h.r.epoch) }
  (s.putHome h').sendMsg target (.place (s.placeMsg h'))

/-- Queues of a class with placeable records or a deficit, ascending. -/
def State.placeQueues (s : State) (lc : Bool) : List Nat :=
  let own := (s.rse.homes.filter s.placeable).map (·.r.queue)
  let owing := s.regs.filterMap fun p =>
    let a := p.1 / 64
    if p.1 % 64 = 0 ∧ 0x109008 ≤ a ∧ a < 0x119008 ∧ a % 16 = 8 then some ((a - 0x109008) / 16) else none
  ((own ++ owing).dedup.filter fun q => s.flag (R.SCH_QUEUE_A_VALID q) && s.reg (R.SCH_QUEUE_A_QUANTUM q) != 0
    && s.reg (R.SCH_QUEUE_A_CLASS q) == bit lc).mergeSort

/-- No queue of a class holds a placeable record. -/
def State.placesNone (s : State) (qs : List Nat) : Bool := !qs.any fun q => !(s.placeQueue q).isEmpty

/-- Up to 2^d visits of a class's queues until a record's cost is covered: the record, where the class stopped, and the
deficits. A visit that stopped in the middle ends, with no deficit left, where its queue has nothing placeable any more (R192, step 6). -/
def State.pickPlace (s : State) (qs : List Nat) : Nat → RrPos → Option HomeRec × RrPos × State
  | 0, p =>
    if s.placesNone qs then
      if p.resume then (none, ⟨p.queue + 1, false⟩, s.setReg (R.SCH_QUEUE_B_PLACE_DEFICIT p.queue) 0) else (none, p, s)
    else
      let q := nextQueue qs p.queue
      let f := R.SCH_QUEUE_B_PLACE_DEFICIT q
      let a := if p.resume && p.queue == q then (s.reg f, s) else s.addQuantum (s.reg f) (s.reg (R.SCH_QUEUE_A_QUANTUM q))
      match a.2.placeQueue q with
      | [] => (none, ⟨q + 1, false⟩, a.2.setReg f 0)
      | h :: rest =>
        let c := a.2.placeCost h.r
        if c ≤ a.1 then
          if rest.isEmpty then (some h, ⟨q + 1, false⟩, a.2.setReg f 0) else (some h, ⟨q, true⟩, a.2.setReg f (a.1 - c))
        else (none, ⟨q + 1, false⟩, a.2.setReg f a.1)
  | d + 1, p =>
    let a := s.pickPlace qs d p
    if a.1.isSome || a.2.2.placesNone qs then a else a.2.2.pickPlace qs d a.2.1

/-- Records below FLOOR are rebased before they are offered (R223). -/
def State.rebaseStale (s : State) : State :=
  (s.rse.homes.filter fun h => decide (h.r.state = .queued) && h.checkOk && h.placing.isNone && !s.changing h
    && s.mustRebase h.r).foldl State.rebase s

/-- The next record of a class by deficit round robin. -/
def State.pickClass (s : State) (lc : Bool) : Option HomeRec × State :=
  let a := s.pickPlace (s.placeQueues lc) visitDepth (if lc then s.sch.placeLc else s.sch.placeBe)
  (a.1, a.2.2.onSch fun b => if lc then { b with placeLc := a.2.1 } else { b with placeBe := a.2.1 })

/-- A record offered to the node chosen for it. -/
def State.offerNext (s : State) (h : HomeRec) : State :=
  match s.placeTarget h with
  | some t => s.offer h t
  | none => s

/-- The class a record is taken from: LC first. -/
def State.placeNext (s : State) : State :=
  let a := s.pickClass true
  match a.1 with
  | some h => a.2.offerNext h
  | none =>
    let b := a.2.pickClass false
    match b.1 with
    | some h => b.2.offerNext h
    | none => b.2

/-- The home offers a request. -/
def execPlacementOffer (s : State) : Host.Outcome State Fault Refusal :=
  let out := (s.rse.homes.filter (·.placing.isSome)).length
  if s.flag R.SCH_CTRL_ENABLE && s.reg R.PHS_PHASE_PHASE == 0 && !s.turning && out < s.reg R.SCH_PLACE_PLACE_INFLIGHT then
    .next (s.rebaseStale.placeNext)
  else .next s

/-- A node passed over becomes eligible again (R195, R196). -/
def execRefuseHoldExpiry (node : Nat) (s : State) : Host.Outcome State Fault Refusal :=
  .next (s.onSch fun b => { b with
    refuseHold := b.refuseHold.filter (· != node)
    tried := b.tried.map fun x => (x.1, x.2.filter (· != node)) })

/-! ### Moves Burin starts (R197, R213) -/

/-- The node of list B a request is moved to next. -/
def State.moveTarget (s : State) (r : Record) (skip : List Nat) : Option Nat :=
  (s.ctx? r.context).bind fun x => s.pickNode x.desc r 0 x.desc.listB skip

/-- Every node of list B but this one has refused a request (R213). -/
def State.allRefused (s : State) (r : Record) : Bool :=
  match s.ctx? r.context with
  | none => true
  | some x =>
    let l := x.desc.listB
    let asked := if x.desc.isStatic then (l[idCount r.id % l.length]?).toList else l
    asked.all fun n => n == s.node || (s.triedFor r.id).contains n

/-- What a turn in PARKING does with a request at its step boundary (R213): it is parked, in the place of a MOVE that has
not started (R438), or offered to the nodes of list B until each has refused it. -/
def State.turnDisposal (s : State) (w : Work) : State × Work :=
  let park : PauseReq := ⟨true, 0, none⟩
  if !s.flag R.PHS_TURN_DISPOSE then (if w.pendPause.isSome then (s, w) else s.askHandback w park)
  else if w.pendMove.isSome || w.pendPause.isSome then (s, w)
  else match s.moveTarget w.r [s.node] with
  | some n => (s, { w with pendMove := some (n, .burin) })
  | none => if s.allRefused w.r then s.askHandback w park else (s, w)

/-- What a turn in PARKING, or a PROMPT node, does with a request at its step boundary. -/
def State.disposal (s : State) (w : Work) : State × Work :=
  let ready := decide (w.r.state = .ready)
  if w.move.isSome || decide (w.status ≠ .owned) then (s, w)
  else if s.reg R.PHS_PHASE_STATE = 2 ∧ (ready ∨ w.r.state = .decode) then s.turnDisposal w
  else if ready && s.reg R.PHS_PHASE_ROLE == 1 && !s.turning && w.pendMove.isNone && w.pendPause.isNone then
    match s.moveTarget w.r [] with
    | some n => (s, { w with pendMove := some (n, .burin) })
    | none => (s, w)
  else (s, w)

/-- A move starts. -/
def execMoveStart (id : Nat) (s : State) : Host.Outcome State Fault Refusal :=
  let s := s.checkCopy id
  match s.work? id with
  | some w => .next (if w.holdRetry then s else let a := s.disposal w; (a.1.putWork a.2).beginMove a.2)
  | none => .next s

end Sys2Proof.Machine
end

