-- ==== Sys2Proof/Machine/Phase.lean ====
section
/-! DEFINITION. Phase turns (chapter 8): acceptance, the states of Table 8.2, the empty state, the switch. -/

namespace Sys2Proof.Machine

/-! ### Acceptance (R211, R212, R230) -/

/-- A phase permits a role (Table 8.1). -/
def phasePermits (phase role : Nat) : Bool :=
  match phase with
  | 0 => role == 1 || role == 2 || role == 3
  | 1 => role == 4 || role == 3
  | 2 => role == 5 || role == 3
  | _ => false

/-- The targets of a word of PHS_TURN are those of the turn in progress. -/
def State.sameTurn (s : State) (value : Nat) : Bool :=
  bitsOf value 62 61 == s.reg R.PHS_TURN_TARGET_PHASE && bitsOf value 60 58 == s.reg R.PHS_TURN_TARGET_ROLE
    && bitsOf value 57 57 == s.reg R.PHS_TURN_DISPOSE && bitsOf value 31 0 == s.reg R.PHS_TURN_TARGET_VERSION

/-- OPEN contexts close and RUNNING ones drain (Table 8.2, row 1). -/
def State.drainCtxs (s : State) : State :=
  s.sch.ctxs.foldl (fun s x =>
    match x.state with
    | .open_ => s.closeCtx x .close .ok 0 0
    | .running => s.putCtx { x with state := .draining }
    | _ => s) s

/-- An accepted turn: CLOSING. -/
def State.acceptTurn (s : State) (value : Nat) : State :=
  let s := (s.writeRw 0x400010 value).setRegs [(R.PHS_TURN_GO, 1), (R.PHS_PHASE_STATE, 1)]
  (s.onPhs fun p => { p with
    acceptedAt := s.aon
    forced := false
    quietUs := s.reg R.PHS_TURN_CFG_HOLDER_QUIET_US }).drainCtxs

/-- GO set: the checks of R211. -/
def State.turnGo (s : State) (value : Nat) : State × St :=
  if !s.roleLicensed (bitsOf value 60 58) then (s, .unitAbsent)
  else if !phasePermits (bitsOf value 62 61) (bitsOf value 60 58) then (s, .badParam)
  else if s.turning then (s, if s.sameTurn value then .ok else .badState)
  else (s.acceptTurn value, .ok)

/-- A write to PHS_TURN. -/
def State.turnWrite (s : State) (value : Nat) : State × St :=
  if bitAt value 63 then s.turnGo value
  else if s.turning then (s, .badState)
  else (s.writeRw 0x400010 value, .ok)

/-- A write to PHS_TURN. -/
def execPhsTurnWrite (value : Nat) (s : State) : Host.Outcome State Fault Refusal := .next (s.turnWrite value).1

/-! ### The states of a turn (Table 8.2) -/

/-- FINISH_US elapses: PARKING. -/
def execTurnFinishExpiry (s : State) : Host.Outcome State Fault Refusal :=
  .next (if s.reg R.PHS_PHASE_STATE = 1 then s.setReg R.PHS_PHASE_STATE 2 else s)

/-- The node owns no request in PREFILL, READY, DECODE or MOVING. -/
def State.ownsNone (s : State) : Bool := !s.rse.works.any fun w => decide (w.status = .owned) && w.r.state.away

/-- Parking is done: QUIESCE. -/
def execTurnParkingDone (s : State) : Host.Outcome State Fault Refusal :=
  .next (if s.reg R.PHS_PHASE_STATE = 2 ∧ s.ownsNone ∧ s.sch.ctxs = [] then s.setReg R.PHS_PHASE_STATE 3 else s)

/-- Requests at the head of a queue that wait on a condition, or behind a failure, completed with ST_TURN_FLUSHED. -/
def State.turnFlush (s : State) (q : Nat) : Nat → State
  | 0 => s
  | n + 1 =>
    let x := s.xq q
    let wr := s.workAt q x.next
    if x.next < s.postedOf q && (s.flag (R.XFR_Q_A_ERROR q) || !s.waitOk q wr) then
      ((s.putXq { x with next := x.next + 1 }).completeReq ⟨q, x.next, wr, .copy, true⟩ .turnFlushed).turnFlush q n
    else s

/-- Queues that may hold requests. -/
def State.liveQueues (s : State) : List Nat :=
  (List.range 1024).filter fun q => q < 64 || s.flag (R.XFR_Q_A_VALID q)

/-- Every posted request of the node has completed. -/
def State.queuesEmpty (s : State) : Bool :=
  s.xfr.flights.isEmpty && s.liveQueues.all fun q => s.postedOf q ≤ (s.xq q).next

/-- Operations the node originated are outstanding. -/
def State.originBusy (s : State) : Bool := !s.fab.remotes.isEmpty

/-- Node-origin work is complete and what waits is flushed: CHECK (R215). -/
def execTurnQuiesceDone (s : State) : Host.Outcome State Fault Refusal :=
  if s.reg R.PHS_PHASE_STATE ≠ 3 then .next s
  else
    let s := s.liveQueues.foldl (fun s q => s.turnFlush q (s.postedOf q - (s.xq q).next)) s
    .next (if !s.originBusy && s.queuesEmpty then s.setReg R.PHS_PHASE_STATE 4 else s)

/-- No registration barrier holds an arrival: no ARRIVED and no EARLY differs from 0. -/
def State.barsEmpty (s : State) : Bool :=
  !s.regs.any fun p =>
    let a := p.1 / 64
    0x190000 ≤ a && a < 0x1B0000 && ((a % 32 == 0 && p.1 % 64 == 0) || (a % 32 == 8 && p.1 % 64 == (R.SYN_BAR_B_EARLY 0).lo))

/-- Every item of Table 8.4 holds. -/
def State.emptyState (s : State) : Bool :=
  s.ownsNone && s.sch.ctxs.isEmpty && s.sch.active.isEmpty && s.sch.batches.isEmpty && s.sch.shards.isEmpty
    && s.cores.all (fun c => decide (c.power = .gated ∨ c.power = .idle) && c.wait.isNone)
    && s.rse.homes.all (·.placing.isNone) && s.mzt.queue.isEmpty && s.mzt.outs.isEmpty && s.mzt.waiting.isEmpty && s.queuesEmpty
    && s.barsEmpty && s.exp.storedBinds.isEmpty && s.exp.tables.all (·.binds.isEmpty) && s.exp.slots.all (·.binds.isEmpty)

/-- Every deficit set to 0. -/
def State.clearDeficits (s : State) : State :=
  { s with regs := s.regs.filter fun p => !(0x109008 ≤ p.1 / 64 && p.1 / 64 < 0x119008 && p.1 / 64 % 16 == 8) }

/-- Every PARKED record this node is home to returns to QUEUED. -/
def State.unparkAll (s : State) : State :=
  (s.rse.homes.filter fun h => decide (h.r.state = .parked)).foldl State.unpark s

/-- SWITCH (R219). -/
def State.turnSwitch (s : State) : State :=
  let v := s.reg R.PHS_TURN_TARGET_VERSION
  let phase := s.reg R.PHS_TURN_TARGET_PHASE
  let s := s.setRegs [(R.PHS_PHASE_ROLE, s.reg R.PHS_TURN_TARGET_ROLE), (R.PHS_PHASE_PHASE, phase)]
  let s := if s.reg R.PHS_POLICY_STAGED = v then s.setReg R.PHS_POLICY_CURRENT v
    else s.post .policyLagging 0xFFF (formO .ok s.node 0 0)
  let s := s.clearDeficits
  let s := if phase = 0 then s.unparkAll else s
  let d := min (s.aon - s.phs.acceptedAt) 0xFFFFFFFF
  let st := if s.phs.forced then St.turnForced else .ok
  let s := (s.setRegs [(R.PHS_TURN_GO, 0), (R.PHS_PHASE_STATE, 0), (R.PHS_LAST_TURN_DURATION_US, d),
    (R.PHS_LAST_TURN_STATUS, st.code)]).bump R.PHS_TURN_STATS_TURNS
  s.post .phaseTurnDone 0xFFF (formO st s.node 0 d)

/-- A CACHE node has been quiet for HOLDER_QUIET_US (R216). -/
def State.holderQuiet (s : State) : Bool :=
  s.reg R.PHS_PHASE_ROLE != 3 || s.phs.holderAt + s.phs.quietUs ≤ s.aon

/-- The empty-state checks hold: SWITCH, on a CACHE node once it has been quiet. -/
def execTurnCheckDone (s : State) : Host.Outcome State Fault Refusal :=
  .next (if s.reg R.PHS_PHASE_STATE = 4 ∧ s.emptyState ∧ s.holderQuiet then s.turnSwitch else s)

/-- A CACHE node has been quiet for HOLDER_QUIET_US. -/
def execHolderQuietExpiry (s : State) : Host.Outcome State Fault Refusal :=
  .next (if s.reg R.PHS_PHASE_STATE = 4 ∧ s.reg R.PHS_PHASE_ROLE = 3 ∧ s.emptyState then s.turnSwitch else s)

/-- DRAIN_LIMIT_MS expires before CHECK (R214). -/
def execTurnDrainLimitExpiry (s : State) : Host.Outcome State Fault Refusal :=
  let st := s.reg R.PHS_PHASE_STATE
  if 1 ≤ st ∧ st ≤ 3 ∧ !s.phs.forced then
    let s := s.setReg R.PHS_PHASE_STATE 3
    let s := (s.tearDownAll .abort .ok (s.sch.ctxs.map (·.num))).onPhs fun p => { p with forced := true }
    .next ((s.bump R.PHS_TURN_STATS_FORCED).post .phaseTurnForced 0xFFF (formO .turnForced s.node 0 0))
  else .next s

/-! ### Registers -/

/-- A write to PHS_CTRL. -/
def execPhsCtrlWrite (value : Nat) (s : State) : Host.Outcome State Fault Refusal := .next (s.writeRw 0x400000 value)

/-- A write to PHS_POLICY (R230). -/
def State.policyWrite (s : State) (value : Nat) : State × St :=
  if s.turning then (s, .badState) else (s.writeRw 0x400020 value, .ok)

/-- A write to PHS_POLICY. -/
def execPhsPolicyWrite (value : Nat) (s : State) : Host.Outcome State Fault Refusal := .next (s.policyWrite value).1

/-- A write to PHS_FLOOR takes effect at the next rebase check. -/
def execPhsFloorWrite (value : Nat) (s : State) : Host.Outcome State Fault Refusal := .next (s.writeRw 0x400028 value)

end Sys2Proof.Machine
end

