-- ==== Sys2Proof/Machine/Prayr.lean ====
section
/-! DEFINITION. Inbound Prayr packets: the checks of Table 12.2 (R324 to R328) and the tenants' meters (R340, R341). -/

namespace Sys2Proof.Machine

/-! ### Meters -/

/-- A packet's colour (R340). -/
inductive Colour where
  | green | yellow | red
  deriving DecidableEq, Repr

/-- A tenant's meter; one nothing has set is disabled. -/
def State.meter (s : State) (tenant : Nat) : Meter :=
  (s.hcp.meters.find? (·.tenant == tenant)).getD ⟨tenant, 0, 0, false, false, 0, 0, 0, 0, 0, 0, 0, 0, 0, none, 0⟩

/-- A meter put back. -/
def State.putMeter (s : State) (m : Meter) : State :=
  s.onHcp fun h => { h with meters := upsert (·.tenant == m.tenant) m h.meters }

/-- Bytes a rate's unit stands for. -/
def Meter.unit (m : Meter) : Nat := if m.bytes then 1000 else 1

/-- Parts of a packet or byte a bucket counts in: the 16 fractional bits of R340, and below them the microseconds of a second, so that
no credit of a rate is lost. -/
def Meter.grain : Nat := 65536 * 1000000

/-- Both buckets filled up to now. -/
def Meter.refill (m : Meter) (now : Nat) : Meter :=
  let add := fun rate => rate * m.unit * 65536 * (now - m.at_)
  { m with
    tc := min (m.cbs * Meter.grain) (m.tc + add m.cir)
    tp := min (m.pbs * Meter.grain) (m.tp + add m.pir)
    at_ := now }

/-- A packet of a size coloured, and the buckets after it (R340). -/
def Meter.colour (m : Meter) (now size : Nat) : Colour × Meter :=
  if !m.enable then (.green, m) else
    let m := m.refill now
    let b := Meter.grain * if m.bytes then size else 1
    if m.tp < b then (.red, m)
    else if m.tc < b then (.yellow, { m with tp := m.tp - b })
    else (.green, { m with
      tp := m.tp - b
      tc := m.tc - b })

/-- A 32-bit statistics counter outside the register file raised by one (log entry 4). -/
def State.up32 (s : State) (v : Nat) : Nat × State :=
  if v + 1 < 2 ^ 32 then (v + 1, s) else (Config.statOverflow s.fresh % 2 ^ 32, s.next.2)

/-- Requests in execution on a path: the places its inbound queue has in use. -/
def State.pathUsed (s : State) (fast : Bool) : Nat := (s.hcp.exec.filter (·.fast == fast)).length

/-- A red drop: counted, and POLICE posted after a quiet period (R341). -/
def State.redDrop (s : State) (m : Meter) : State :=
  let (n, s) := s.up32 m.red
  let quiet := match m.lastRed with
    | none => true
    | some t => 1000 * s.reg R.TRF_CFG_POLICE_EVENT_MS ≤ s.aon - t
  let s := (s.putMeter { m with
    red := n
    lastRed := some s.aon
    redSince := if quiet then 0 else m.redSince + 1 }).bump R.TRF_METER_ALL_RED
  if quiet then (s.bump R.TRF_METER_ALL_POLICE_EVENTS).post .police 0xFFF (formO .ok s.node m.tenant (m.redSince + 1)) else s

/-- A packet metered against its tenant's allowance (check 3): whether it is admitted. -/
def State.police (s : State) (tenant size : Nat) (fast : Bool) : Bool × State :=
  match (s.meter tenant).colour s.aon size with
  | (.green, m) =>
    let (n, s) := s.up32 m.green
    (true, s.putMeter { m with green := n })
  | (.yellow, m) =>
    let (n, s) := s.up32 m.yellow
    let limit := if fast then s.reg R.TRF_CFG_FAST_YELLOW else s.reg R.TRF_CFG_FW_YELLOW
    if s.pathUsed fast < limit then (true, s.putMeter { m with yellow := n })
    else
      let (d, s) := s.up32 m.yellowDropped
      (false, s.putMeter { m with
        yellow := n
        yellowDropped := d })
  | (.red, m) => (false, s.redDrop m)

/-! ### The checks -/

/-- The host entry a source address matches (check 2): its tenant range and ADMIN. With no entry VALID a link-local
source has the full range and ADMIN. -/
def State.hostEntry (s : State) (src : Nat) : Option (Nat × Nat × Bool) :=
  let valid := (List.range 16).filter fun h => s.flag (R.HCP_HOST_A_VALID h)
  if valid.isEmpty then (if src / 2 ^ 118 = 0x3FA then some (0, 65535, true) else none)
  else (valid.find? fun h =>
      let n := 128 - s.reg (R.HCP_HOST_D_PREFIX_LEN h)
      src / 2 ^ n == (s.reg (R.HCP_HOST_B_ADDR h) * 2 ^ 64 + s.reg (R.HCP_HOST_C_ADDR h)) / 2 ^ n).map fun h =>
    (s.reg (R.HCP_HOST_A_TENANT_LO h), s.reg (R.HCP_HOST_A_TENANT_HI h), s.flag (R.HCP_HOST_A_ADMIN h))

/-- What the port accepts (R321), and checks 1 to 3: the host entry of a packet that passes them. Nothing arrives while the port is not
UP. -/
def State.screen (s : State) (p : HostPkt) (fast : Bool) : Option (Nat × Nat × Bool) × State :=
  if !s.hostUp then (none, s)
  else if !s.hears p.net (s.reg R.HCP_PRAYR_UDP_PORT) || !p.formOk then (none, s.bump R.HCP_STATS_CHECK_DROPS)
  else match s.hostEntry p.src with
  | none => (none, s.bump R.HCP_DROP_STATS_NO_HOST)
  | some e =>
    match s.police p.tenant p.size fast with
    | (true, s) => (some e, s)
    | (false, s) => (none, s)

/-- A packet's reply-cache key (check 4). -/
def HostPkt.key (p : HostPkt) : ReqKey := ⟨p.src, p.port, p.session, p.seq⟩

/-- A reply to a request that a check refuses: sent, and not cached. -/
def State.rejectPkt (s : State) (p : HostPkt) (op version : Nat) (st : St) (payload : List Byte) : State :=
  s.hostSend 0 (.reply ⟨p.key, op, version, p.tenant, st, payload, s.reg R.HCP_PRAYR_UDP_PORT⟩)

/-- Places of a path's inbound queue (R328). -/
def pathDepth (fast : Bool) : Nat := if fast then 16384 else 1024

/-- The firmware path changes images: until it reports healthy, and for at most 200 ms, its opcodes are answered ST_HCP_BUSY (Table
13.4). -/
def State.handsOver (s : State) : Bool := s.bld.hcpSince.any fun t => decide (s.aon < t + 200000)

/-- A path has no free place for a request (check 8). -/
def State.pathBusy (s : State) (fast : Bool) : Bool := pathDepth fast ≤ s.pathUsed fast || (!fast && s.handsOver)

/-- Checks 1 to 4: the host entry of a packet whose key is new. A key in the cache gets its reply again; one in execution gets
nothing (R325). -/
def State.unseen (s : State) (p : HostPkt) (fast : Bool) : Option (Nat × Nat × Bool) × State :=
  match s.screen p fast with
  | (none, s) => (none, s)
  | (some e, s) =>
    match s.hcp.cache.find? (fun c => decide (c.reply.key = p.key)) with
    | some c => (none, (s.bump R.HCP_STATS_DUPLICATES).hostSend 0 (.reply c.reply))
    | none => (if s.hcp.exec.any fun e => decide (e.key = p.key) then none else some e, s)

/-- Checks 1 to 5 of a packet of an opcode: the host entry of a request that passes them. -/
def State.prayrFront (s : State) (p : HostPkt) (op : Nat) (fast : Bool) : Option (Nat × Nat × Bool) × State :=
  match s.unseen p fast with
  | (none, s) => (none, s)
  | (some e, s) =>
    if p.kind ≠ 0 then (none, s)
    else
      let vmin := s.reg R.PHS_VERSIONS_PRAYR_MIN
      let vmax := s.reg R.PHS_VERSIONS_PRAYR_MAX
      if p.version < vmin ∨ vmax < p.version then
        (none, s.rejectPkt p op vmax .formatUnsupported (toBytes 8 (vmin * 256 + vmax)))
      else (some e, s)

/-- A request of an assigned opcode: checks 6 to 9, and its execution under a reference of its own. `serves`: the node
answers this opcode in RECOVERY; `ok`: the payload suits the opcode. -/
def State.prayr (s : State) (p : HostPkt) (op : Nat) (fast admin serves ok : Bool) (run : Nat → State → State) : State :=
  match s.prayrFront p op fast with
  | (none, s) => s
  | (some (lo, hi, adm), s) =>
    if p.tenant < lo ∨ hi < p.tenant ∨ (admin = true ∧ adm = false) then s.rejectPkt p op p.version .accessDenied []
    else if s.bld.node = .recovery ∧ serves = false then s.rejectPkt p op p.version .nodeResetting []
    else if s.pathBusy fast then
      (s.bump R.HCP_DROP_STATS_BUSY).rejectPkt p op p.version .hcpBusy []
    else if !ok then s.rejectPkt p op p.version .badParam []
    else
      let ref := s.hcp.nextRef
      run ref ((s.onHcp fun h => { h with
        nextRef := ref + 1
        exec := h.exec ++ [⟨ref, p.key, op, p.version, p.tenant, fast, s.reg R.HCP_PRAYR_UDP_PORT⟩] }).bump
          R.HCP_STATS_COMMANDS)

/-- A request of an opcode nothing assigns (check 7). -/
def State.prayrBad (s : State) (p : HostPkt) (op : Nat) : State :=
  match s.prayrFront p op true with
  | (none, s) => s
  | (some (lo, hi, _), s) =>
    if p.tenant < lo ∨ hi < p.tenant then s.rejectPkt p op p.version .accessDenied []
    else s.rejectPkt p op p.version .badOpcode []

/-- The opcodes of Table 12.3 and of chapters 13 and 14. -/
def assignedOps : List Nat :=
  [0x00, 0x01, 0x10, 0x11, 0x12, 0x13, 0x14, 0x15, 0x16, 0x17, 0x20, 0x21, 0x22, 0x30, 0x31, 0x32, 0x33, 0x40, 0x41, 0x42,
   0x43, 0x44, 0x45, 0x48, 0x49, 0x4A, 0x4C, 0x4D, 0x4E, 0x4F, 0x50, 0x51, 0x52, 0x53, 0x54, 0x55, 0x56, 0x57]

end Sys2Proof.Machine
end

