-- ==== Sys2Proof/Machine/HostCmds.lean ====
section
/-! DEFINITION. The host's commands (section 12.3): request-state commands, SUBMIT, tokens, events, and what the port
answers by itself (R321). -/

namespace Sys2Proof.Machine

/-! ### NOP, CAPS, unassigned opcodes -/

/-- NOP echoes its payload. -/
def execPrayrNop (p : HostPkt) (data : List Byte) (s : State) : Host.Outcome State Fault Refusal :=
  .next (s.prayr p 0x00 true false true (p.payloadOk && data.length ≤ 1024) fun ref t => t.hostReply ref .ok data)

/-- The payload of a CAPS reply: the capability descriptor and PHS_VERSIONS. -/
def State.capsBytes (s : State) : List Byte :=
  ([0x0, 0x8, 0x10, 0x18, 0x20, 0x28, 0x30, 0x38, 0x400030] : List Nat).flatMap fun a => toBytes 8 (s.rawReg a)

/-- CAPS. -/
def execCaps (p : HostPkt) (s : State) : Host.Outcome State Fault Refusal :=
  .next (s.prayr p 0x01 true false true p.payloadOk fun ref t => t.hostReply ref .ok t.capsBytes)

/-- A request of an unassigned opcode. -/
def execPrayrBadOpcode (p : HostPkt) (opcode : Nat) (s : State) : Host.Outcome State Fault Refusal :=
  .next (if assignedOps.contains opcode then s else s.prayrBad p opcode)

/-- A cached reply is released. -/
def execReplyCacheExpiry (key : ReqKey) (s : State) : Host.Outcome State Fault Refusal :=
  .next (s.onHcp fun h => { h with cache := h.cache.filter fun c => !decide (c.reply.key = key) })

/-! ### Request-state commands (R330, R440) -/

/-- A request-state command sent on to another node, which answers it: to the home, or to the deputy once the home failed. -/
def State.forwardCommand (s : State) (c : FwdCmd) (tenant ref n : Nat) (failed : Option St) : State :=
  (s.onHcp fun h => { h with later := h.later ++ [.forwarded ref n c tenant failed] }).sendMsg n (.command c tenant ref)

/-- A command whose home is unreachable goes to the deputy, where this node knows one: that of its own copy of the record (log entry
100). Otherwise it is answered with how the home failed (R330). -/
def State.toDeputy (s : State) (c : FwdCmd) (tenant ref : Nat) (st : St) : State :=
  match s.work? c.id with
  | some w =>
    if w.r.mirrored && !s.isUnreachable w.r.deputy && w.r.deputy != s.node then s.forwardCommand c tenant ref w.r.deputy (some st)
    else s.hostReply ref st []
  | none => s.hostReply ref st []

/-- A request-state command of a host (R330): acted on at the home, or forwarded to it in an attempt of its own, whatever earlier
attempts came to (R36). A home whose channel stands unreachable takes no attempt. -/
def State.requestCommand (s : State) (c : FwdCmd) (tenant ref : Nat) : State :=
  let home := idHome c.id
  if s.isHome c.id then
    if s.transitOnly then s.hostReply ref .nodeResetting [] else s.homeCommand c tenant (.here ref)
  else if s.isUnreachable home then s.toDeputy c tenant ref .nodeUnreachable
  else s.forwardCommand c tenant ref home none

/-- CANCEL. -/
def execCancel (p : HostPkt) (id : Nat) (s : State) : Host.Outcome State Fault Refusal :=
  .next (s.prayr p 0x11 true false false p.payloadOk fun ref t => t.requestCommand (.cancel id) p.tenant ref)

/-- PAUSE. -/
def execPause (p : HostPkt) (id ticks : Nat) (s : State) : Host.Outcome State Fault Refusal :=
  .next (s.prayr p 0x12 true false false p.payloadOk fun ref t => t.requestCommand (.pause id ticks) p.tenant ref)

/-- RESUME. -/
def execResume (p : HostPkt) (b : ResumeBlock) (tokens : List Nat) (s : State) : Host.Outcome State Fault Refusal :=
  .next (s.prayr p 0x13 true false false
    (p.payloadOk && tokens.length == if b.promptSrc = 0 then b.promptLength else 0)
    fun ref t => t.requestCommand (.resume b tokens) p.tenant ref)

/-- QUERY_REQ. -/
def execQueryReq (p : HostPkt) (id : Nat) (s : State) : Host.Outcome State Fault Refusal :=
  .next (s.prayr p 0x14 true false false p.payloadOk fun ref t => t.requestCommand (.query id) p.tenant ref)

/-- SET_TTL. -/
def execSetTtl (p : HostPkt) (id ticks : Nat) (s : State) : Host.Outcome State Fault Refusal :=
  .next (s.prayr p 0x16 false false false p.payloadOk fun ref t => t.requestCommand (.setTtl id ticks) p.tenant ref)

/-- MOVE. -/
def execMove (p : HostPkt) (id dest : Nat) (s : State) : Host.Outcome State Fault Refusal :=
  .next (s.prayr p 0x17 false true false p.payloadOk fun ref t => t.requestCommand (.move id dest) p.tenant ref)

/-! ### SUBMIT (R331 to R333) -/

/-- A block is within the limits of Table 12.4, with the payload length of R332. -/
def SubmitBlock.ok (b : SubmitBlock) (tokens : List Nat) : Bool :=
  b.rsvdOk && 1 ≤ b.maxNew && b.specWindow ≤ 16 && b.promptSrc ≤ 1 && 1 ≤ b.promptLength && b.promptLength ≤ 16777216
    && b.prefixLength ≤ b.promptLength && b.context ≤ 0xFFE && tokens.length == if b.promptSrc = 0 then b.promptLength else 0

/-- The CLASS of a queue is latency-critical. -/
def State.queueLc (s : State) (q : Nat) : Bool := s.flag (R.SCH_QUEUE_A_CLASS q)

/-- The record of an accepted SUBMIT (R331), with the PAGE_SIZE its model had at the SUBMIT (R74). -/
def State.submitRecord (s : State) (b : SubmitBlock) (id tenant src port ps : Nat) (tokens : List Nat) : Record :=
  { id := id, epoch := 1, owner := s.node, deputy := s.reg R.RSE_DEPUTY_NODE, formatVersion := 1, state := .queued,
    nextState := .free, moveDest := 0, movePhase := 0, lc := s.queueLc b.queue, coded := b.coded, mirrored := s.mirrors id,
    pauseAtEnd := b.pauseAtEnd, cancelSeen := false, retried := false, restarts := 0,
    pageSize := ps,
    placement := ((s.ctx? b.context).map fun x => bit x.desc.isStatic).getD 0, context := b.context, tenant := tenant,
    queue := b.queue, modelId := b.modelId, variantId := b.variantId, policyVersion := s.reg R.PHS_POLICY_CURRENT,
    stalenessMax := b.stalenessMax, specWindow := b.specWindow, historyLength := b.promptLength, kvCommitted := 0,
    genCommitted := 0, maxNewTokens := b.maxNew, streamed := 0, lastToken := tokens.getLastD 0, ttlTicks := b.ttl,
    replyAddr := if b.replyAddr = 0 then src else b.replyAddr, replyPort := if b.replyPort = 0 then port else b.replyPort,
    replyStream := b.replyStream, temperature := b.temperature, topP := b.topP, topK := b.topK,
    repeatPenalty := b.repeatPenalty, mirrorSeq := 0, hostTag := b.hostTag, stopTokens := b.stopTokens, finalStatus := .ok,
    stepCount := 0 }

/-- History pages a prompt needs. -/
def State.promptPages (s : State) (b : SubmitBlock) : Nat :=
  ceilDiv b.promptLength (pageBytes (((s.model? b.modelId).map (·.pageSize)).getD 0) / 4)

/-- Checks 1 to 7 and 9 of Table 12.5a around check 8, which `room` answers. -/
def State.submitCheck (s : State) (b : SubmitBlock) (tenant : Nat) (tokens : List Nat) (room : Bool) : Option St :=
  if !s.admitting then some .admissionClosed
  else if !b.ok tokens then some .badParam
  else if s.reg R.RSE_TTL_TTL_MAX < b.ttl then some .ttlRange
  else if !s.flag (R.SCH_QUEUE_A_VALID b.queue) || s.reg (R.SCH_QUEUE_A_TENANT b.queue) != tenant then some .queueInvalid
  else if (s.model? b.modelId).isNone then some .modelUnknown
  else if !(s.ctx? b.context).any (fun x => decide (x.state = .running)) then some .contextClosed
  else if b.coded && s.ochre.length < 9 then some .codingUnavailable
  else if !room then some .directoryFull
  else if s.flag R.RSE_DEPUTY_VALID && !s.flag R.RSE_DEPUTY_BOUND then some .deputyUnreachable
  else none

/-- A new request ID; GENERATION is raised first where COUNT has run out (R21). -/
def State.newId (s : State) : Nat × State :=
  let s := if 2 ^ 32 ≤ s.rse.nextCount then s.onRse Rse.newGeneration else s
  (s.node * 2 ^ 48 + s.rse.generation * 2 ^ 32 + s.rse.nextCount, s.onRse fun e => { e with nextCount := e.nextCount + 1 })

/-- A SUBMIT admitted with its tokens at hand: the ID is assigned, the record made and mirrored. -/
def State.submitGo (s : State) (b : SubmitBlock) (tenant src port ref ps : Nat) (tokens : List Nat) : State :=
  let (id, t) := s.newId
  let r := t.submitRecord b id tenant src port ps tokens
  match t.writeHistory r tokens with
  | none => s.hostReply ref .directoryFull []
  | some t => t.change { homeOf r tokens with
      prefixKey := b.prefixKey
      prefixLen := b.prefixLength } (.submit (.here ref))

/-- A SUBMIT at the home (R332, R333). Frames of a prompt to be read are reserved under a number no request has. -/
def State.submit (s : State) (b : SubmitBlock) (tokens : List Nat) (tenant src port ref : Nat) : State :=
  let (slot, t) := s.freeSlot
  let n := t.promptPages b
  let ps := ((t.model? b.modelId).map (·.pageSize)).getD 0
  let fits := t.framesFit ps n && n + t.reservedEntries ≤ t.freeEntries
  match s.submitCheck b tenant tokens (slot && fits) with
  | some st => s.hostReply ref st []
  | none =>
    if b.promptSrc = 0 then t.submitGo b tenant src port ref ps tokens
    else
      let u := (t.reserve (2 ^ 64 + ref) ps n).onHcp fun h => { h with
        later := h.later ++ [.submit ref b tenant src port ps] }
      match u.promptRead b.promptQp b.promptVa b.promptRkey b.promptLength (.submitPrompt ref) with
      | some u => u
      | none => s.hostReply ref .hostReadFailed []

/-- SUBMIT. -/
def execSubmit (p : HostPkt) (b : SubmitBlock) (tokens : List Nat) (s : State) : Host.Outcome State Fault Refusal :=
  .next (s.prayr p 0x10 true false false true fun ref t =>
    t.submit { b with rsvdOk := b.rsvdOk && p.payloadOk } tokens p.tenant p.src p.port ref)

/-- The prompt of a SUBMIT has been read, or not (R333). -/
def State.submitRead (s : State) (ref : Nat) (status : St) (tokens : List Nat) : State :=
  match s.hcp.later.findSome? fun l => match l with
    | .submit r b tenant src port ps => if r = ref then some (b, tenant, src, port, ps) else none
    | _ => none with
  | none => s
  | some (b, tenant, src, port, ps) =>
    let s := (s.unreserve (2 ^ 64 + ref)).onHcp fun h => { h with
      later := h.later.filter fun l => match l with
        | .submit r .. => r != ref
        | _ => true }
    if status = .ok ∧ tokens.length = b.promptLength then s.submitGo b tenant src port ref ps tokens
    else s.hostReply ref .hostReadFailed []

/-- The tokens of a RESUME have been read, or not. -/
def State.resumeReadDone (s : State) (ref : Nat) (status : St) (tokens : List Nat) : State :=
  match s.hcp.later.findSome? fun l => match l with
    | .resume r b tenant rep => if r = ref then some (b, tenant, rep) else none
    | _ => none with
  | none => s
  | some (b, tenant, rep) =>
    let s := s.onHcp fun h => { h with
      later := h.later.filter fun l => match l with
        | .resume r .. => r != ref
        | _ => true }
    if status = .ok ∧ tokens.length = b.promptLength then s.homeCommand (.resume b tokens) tenant rep
    else s.replyTo rep .hostReadFailed []

/-- An operation taken off its queue pair wherever it stands, and the READ it leaves room for sent. -/
def State.roceRemove (s : State) (use : RoceUse) : State :=
  match s.hcp.qps.find? fun q => q.ops.any fun o => decide (o.use = use) with
  | none => s
  | some q =>
    let i := q.ops.findIdx fun o => decide (o.use = use)
    let before := sendable q.maxReads q.ops
    let ops := q.ops.eraseIdx i
    let sent := if i < before then before - 1 else before
    (s.putQp { q with ops := ops }).roceSend q.index ((ops.drop sent).take (sendable q.maxReads ops - sent))

/-- The READ of a SUBMIT's prompt completes. -/
def execSubmitPromptReadDone (ref : Nat) (status : St) (tokens : List Nat) (s : State) : Host.Outcome State Fault Refusal :=
  .next ((s.roceRemove (.submitPrompt ref)).submitRead ref status tokens)

/-- The READ of a RESUME's tokens completes. -/
def execResumePromptReadDone (ref : Nat) (status : St) (tokens : List Nat) (s : State) : Host.Outcome State Fault Refusal :=
  .next ((s.roceRemove (.resumePrompt ref)).resumeReadDone ref status tokens)

/-! ### Tokens (R337) -/

/-- Several TOKEN packets drain. -/
def State.drainTokens (s : State) : List TokenPkt → State
  | [] => s
  | t :: ts => (s.drainToken t).drainTokens ts

/-- TOKEN_ACK at the owner. -/
def State.tokenAck (s : State) (id epoch next : Nat) : State :=
  match s.work? id with
  | none => s.bump R.HCP_DROP_STATS_TOKEN_RETX
  | some w =>
    if w.status ≠ .owned ∨ w.r.epoch ≠ epoch then s.bump R.HCP_DROP_STATS_TOKEN_RETX
    else if s.flag R.HCP_TOKEN_CFG_ACK_MODE then
      s.drainTokens (s.hcp.tokens.filter fun t => t.id == id && t.pos + t.tokens.length ≤ next)
    else s

/-- TOKEN_ACK: checked as any request, with no reply of its own and no cache entry (R325). The key of a request that is cached or
executes makes it that request again (check 4). -/
def execTokenAck (p : HostPkt) (id epoch next : Nat) (s : State) : Host.Outcome State Fault Refusal :=
  match s.unseen p true with
  | (none, s) => .next s
  | (some (lo, hi, _), s) =>
    if p.kind ≠ 0 ∨ p.version < s.reg R.PHS_VERSIONS_PRAYR_MIN ∨ s.reg R.PHS_VERSIONS_PRAYR_MAX < p.version
        ∨ p.tenant < lo ∨ hi < p.tenant ∨ p.payloadOk = false ∨ s.bld.node = .recovery ∨ s.pathBusy true then
      .next s
    else .next ((s.bump R.HCP_STATS_COMMANDS).tokenAck id epoch next)

/-- The port transmits the oldest TOKEN packet that is neither sent nor held by its shaper. -/
def execTokenTransmit (s : State) : Host.Outcome State Fault Refusal :=
  match s.hcp.tokens.find? fun t => if s.flag R.HCP_TOKEN_CFG_ACK_MODE then !t.sent else !s.tokenHeld t with
  | none => .next s
  | some t => .next (if s.hostUp then s.sendToken t else s)

/-- The oldest undrained TOKEN packet of a request is sent again, or every one dropped after RETX_LIMIT. -/
def execTokenRetxExpiry (id : Nat) (s : State) : Host.Outcome State Fault Refusal :=
  if !s.flag R.HCP_TOKEN_CFG_ACK_MODE || !s.hostUp then .next s
  else
    let mine := s.hcp.tokens.filter fun t => t.id == id
    match mine.find? (·.sent) with
    | none => .next s
    | some t =>
      let limit := s.reg R.HCP_TOKEN_CFG_RETX_LIMIT
      if limit ≠ 0 ∧ limit ≤ t.retx then
        let first := (mine.map (·.pos)).foldl min t.pos
        let last := (mine.map fun x => x.pos + x.tokens.length - 1).foldl max 0
        let u := (s.drainTokens mine).count R.HCP_DROP_STATS_TOKEN_DROPPED mine.length
        .next (u.post .tokenDropped (s.reqCtx id) (last * 2 ^ 32 + first, id))
      else
        let u := s.onHcp fun h => { h with
          tokens := updateAll (fun x => x.id == t.id && x.pos == t.pos && x.epoch == t.epoch)
            (fun x => { x with retx := x.retx + 1 }) h.tokens }
        .next ((u.bump R.HCP_DROP_STATS_TOKEN_RETX).hostSend 0 (.token t))

/-! ### EVENT_PULL (R339) -/

/-- An event entry's 32 bytes (Table 16.1). -/
def EvtEntry.bytes (e : EvtEntry) : List Byte :=
  toBytes 8 e.seq ++ toBytes 8 (e.w.code * 2 ^ 48 + e.w.severity * 2 ^ 44 + e.w.context * 2 ^ 32 + e.w.time)
    ++ toBytes 8 e.w.arg0 ++ toBytes 8 e.w.arg1

/-- The payload of an EVENT_PULL reply. -/
def State.pullBytes (s : State) (cursor max : Nat) : List Byte :=
  let nextSeq := s.reg R.EVT_HEAD_NEXT_SEQ
  let es := if s.evt.entries.any (·.seq == cursor) then s.evt.entries.dropWhile (·.seq != cursor)
    else if cursor / 2 ^ 40 = nextSeq / 2 ^ 40 ∧ (cursor % 2 ^ 40 + 2 ^ 40 - nextSeq % 2 ^ 40) % 2 ^ 40 < 2 ^ 39 then []
    else s.evt.entries
  let es := es.take max
  toBytes 8 ((es.head?.map (·.seq)).getD nextSeq) ++ toBytes 8 es.length ++ es.flatMap EvtEntry.bytes

/-- EVENT_PULL. -/
def execEventPull (p : HostPkt) (cursor max : Nat) (s : State) : Host.Outcome State Fault Refusal :=
  .next (s.prayr p 0x22 true true true (p.payloadOk && 1 ≤ max && max ≤ 32) fun ref t =>
    t.hostReply ref .ok (t.pullBytes cursor max))

/-! ### PHASE_TURN -/

/-- PHASE_TURN. -/
def execPhaseTurn (p : HostPkt) (value : Nat) (s : State) : Host.Outcome State Fault Refusal :=
  .next (s.prayr p 0x30 false true false p.payloadOk fun ref t =>
    let (t, st) := t.turnGo value
    t.hostReply ref st [])

/-! ### What the port answers by itself (R321) -/

/-- An answer of the port's own to a packet for one of its addresses; any other packet is dropped and counted. -/
def State.portAnswer (s : State) (own : Bool) (o : HostOut) : State :=
  if !s.hostUp then s else if own then s.hostEmit o else s.bump R.HCP_STATS_CHECK_DROPS

/-- A packet of no other command, addressed to none of the port's addresses and UDP ports: dropped and counted. Of the packets that
are commands of their own the port decides itself which it accepts. -/
def execHostPacketDrop (s : State) : Host.Outcome State Fault Refusal :=
  .next (if s.hostUp then s.bump R.HCP_STATS_CHECK_DROPS else s)

/-- ARP for an IPv4 address. -/
def execHostArp (target : Nat) (asker : Asker) (s : State) : Host.Outcome State Fault Refusal :=
  .next (s.portAnswer (s.tagOk asker.vlan && s.ownV4 target) (.arp target asker.addr))

/-- A neighbour solicitation for an IPv6 address. -/
def execHostNeighbourSolicit (target : Nat) (asker : Asker) (s : State) : Host.Outcome State Fault Refusal :=
  .next (s.portAnswer (s.tagOk asker.vlan && s.ownV6 target) (.neighbour target asker.addr))

/-- An ICMP or ICMPv6 echo request. -/
def execHostIcmpEcho (target : Nat) (asker : Asker) (data : List Byte) (s : State) : Host.Outcome State Fault Refusal :=
  .next (s.portAnswer (s.tagOk asker.vlan && s.ownAddr target) (.echo asker.addr data))

end Sys2Proof.Machine
end

