-- ==== Sys2Proof/Machine/Rdma.lean ====
section
/-! DEFINITION. RoCEv2 (section 12.7): queue pairs, how their operations end, and the host's reads and writes of windows. -/

namespace Sys2Proof.Machine

/-! ### How operations end (R345) -/

/-- An operation of a queue pair completes with ST_ROCE_ERROR. -/
def State.roceFail (s : State) (o : RoceOp) : State :=
  match o.use with
  | .request q idx =>
    match s.xfr.flights.find? fun x => x.q == q && x.idx == idx with
    | some r => s.completeReq r .roceError
    | none => s
  | .submitPrompt ref => s.submitRead ref .roceError []
  | .resumePrompt ref => s.resumeReadDone ref .roceError []
  | .pageOut idx | .pageIn idx | .pageMove idx => s.pageIoFailed idx
  | .dropped => s

/-- Several operations fail. -/
def State.roceFails (s : State) : List RoceOp → State
  | [] => s
  | o :: l => (s.roceFail o).roceFails l

/-- 32-bit numbers of bytes. -/
def tokensOf (d : List Byte) : List Nat := (List.range (d.length / 4)).map fun i => rdNat (fun k => d.getD k 0) (4 * i) 4

/-- An operation of a queue pair succeeds: a READ's data is placed, and what waited goes on. A page rests in its Umber slot
once its data is written; its 64-byte header goes before (R98). -/
def State.roceDone (s : State) (o : RoceOp) (data : List Byte) : State :=
  match o.use with
  | .request q idx =>
    match s.xfr.flights.find? fun x => x.q == q && x.idx == idx with
    | some r => (if o.write then s else s.place (spaceMem o.space) o.off data false).completeReq r .ok
    | none => s
  | .submitPrompt ref => s.submitRead ref .ok (tokensOf data)
  | .resumePrompt ref => s.resumeReadDone ref .ok (tokensOf data)
  | .pageOut idx => if o.len = 64 then s else s.pageOutDone idx
  | .pageIn idx => (s.wr .hbm o.off data).pageInDone idx
  | .pageMove idx => s.pageMoveDone idx data
  | .dropped => s

/-- A queue pair enters ERROR: QP_ERROR, and its outstanding operations fail. -/
def State.qpFail (s : State) (q : Qp) (syndrome : Nat) : State :=
  let t := (s.putQp { q with
    error := true
    syndrome := syndrome
    lastStatus := St.roceError.code
    ops := [] }).post .qpError 0xFFF (formO .roceError s.node q.index syndrome)
  t.roceFails q.ops

/-- A packet marked by congestion is answered with a CNP (Table 12.9), in the class of the responses (log entry 99). -/
def State.marked (s : State) (qp : Nat) (ecn : Bool) : State := if ecn then s.hostSend 3 (.cnp qp) else s

/-- The oldest operation of a queue pair completes. -/
def execRoceCompletion (qp : Nat) (e : RoceEnd) (s : State) : Host.Outcome State Fault Refusal :=
  match s.qp? qp with
  | none => .next s
  | some q =>
    match q.ops with
    | [] => .next s
    | o :: _ =>
      if q.error ∨ (o.write = false ∧ e.data.length ≠ o.len) then .next s
      else .next (((s.rocePop q).marked qp e.ecn).roceDone o e.data)

/-- The local ACK timeout: everything sent is sent again, or the retries are exhausted. -/
def execRoceAckTimeout (qp : Nat) (s : State) : Host.Outcome State Fault Refusal :=
  match s.qp? qp with
  | none => .next s
  | some q =>
    if q.error ∨ q.ops = [] then .next s
    else if q.retriesLeft = 0 then .next (s.qpFail q q.syndrome)
    else .next ((s.putQp { q with retriesLeft := q.retriesLeft - 1 }).roceSend qp (q.ops.take (sendable q.maxReads q.ops)))

/-- A remote access NAK. -/
def execRoceNak (qp syndrome : Nat) (s : State) : Host.Outcome State Fault Refusal :=
  match s.qp? qp with
  | none => .next s
  | some q => .next (if q.error then s else s.qpFail q syndrome)

/-- A CNP halves the rate. -/
def execRoceCnp (qp : Nat) (s : State) : Host.Outcome State Fault Refusal :=
  match s.qp? qp with
  | none => .next s
  | some q => .next (s.putQp { q with rate := q.rate / 2 })

/-- 50 µs without a CNP: the rate recovers by 1/16 of line rate. -/
def execRoceRateRecovery (qp : Nat) (s : State) : Host.Outcome State Fault Refusal :=
  match s.qp? qp with
  | none => .next s
  | some q => .next (s.putQp { q with rate := min 65536 (q.rate + 4096) })

/-! ### QP_SETUP and QP_DESTROY -/

/-- The parameters of Table 12.7 are in range. -/
def QpCfg.ok (c : QpCfg) : Bool :=
  c.rsvdOk && c.index < 16384 && c.mtu ≤ 2 && 1 ≤ c.timeout && c.timeout ≤ 31 && c.retry ≤ 7 && 1 ≤ c.maxReads
    && c.maxReads ≤ 16

/-- A queue pair ready to send. -/
def QpCfg.qp (c : QpCfg) : Qp :=
  { index := c.index, error := false, mtu := c.mtu, timeout := c.timeout, retry := c.retry, remoteQpn := c.remoteQpn,
    sqPsn := c.sqPsn, rqPsn := c.rqPsn, dscp := c.dscp, maxReads := c.maxReads, remoteAddr := c.remoteAddr, syndrome := 0,
    lastStatus := 0, ops := [], retriesLeft := c.retry, rate := 65536 }

/-- QP_SETUP. -/
def execQpSetup (p : HostPkt) (c : QpCfg) (s : State) : Host.Outcome State Fault Refusal :=
  .next (s.prayr p 0x32 false true true (p.payloadOk && c.ok) fun ref t =>
    if (t.qp? c.index).isSome then t.hostReply ref .tableBusy []
    else (t.putQp c.qp).hostReply ref .ok (toBytes 8 (0x100 + c.index)))

/-- A queue pair back in RESET, its outstanding operations failed. -/
def State.qpDestroy (s : State) (i : Nat) : State :=
  match s.qp? i with
  | none => s
  | some q => (s.onHcp fun h => { h with qps := h.qps.filter (·.index != i) }).roceFails q.ops

/-- QP_DESTROY. -/
def execQpDestroy (p : HostPkt) (qp : Nat) (s : State) : Host.Outcome State Fault Refusal :=
  .next (s.prayr p 0x33 false true false (p.payloadOk && qp < 16384) fun ref t => (t.qpDestroy qp).hostReply ref .ok [])

/-! ### Windows (R346) -/

/-- The window a host-initiated access may use. -/
def State.window? (s : State) (rkey va len : Nat) (write : Bool) : Option Nat :=
  (List.range 64).find? fun w => s.flag (R.HCP_WINDOW_A_VALID w) && s.reg (R.HCP_WINDOW_B_RKEY w) == rkey
    && s.reg (R.HCP_WINDOW_A_BASE w) ≤ va && va + len ≤ s.reg (R.HCP_WINDOW_A_BASE w) + s.reg (R.HCP_WINDOW_C_LENGTH w)
    && s.flag (if write then R.HCP_WINDOW_A_PERM_W w else R.HCP_WINDOW_A_PERM_R w)

/-- Where a request's PSN stands on its queue pair: the next expected, one already taken, or one ahead of it (PRESUMED, log entry
99). -/
inductive PsnPlace where
  | due | again | ahead
  deriving DecidableEq, Repr

/-- The place of a PSN. -/
def Qp.psnPlace (q : Qp) (psn : Nat) : PsnPlace :=
  if psn = q.rqPsn then .due else if psnAdd psn (2 ^ 24 - q.rqPsn) < 2 ^ 23 then .ahead else .again

/-- READs of a queue pair whose responses have not all left. -/
def State.readsOut (s : State) (qp : Nat) : Nat :=
  (s.hcp.held.filter fun x => match x.2 with
    | .rdmaReadResponse q .. => q == qp
    | _ => false).length

/-- A host-initiated operation reaches its queue pair: the port is UP and accepts the packet, and the queue pair is ready to send. A
mark of congestion is answered. -/
def State.roceFront (s : State) (h : RoceHdr) : Option Qp × State :=
  if !s.hostUp then (none, s)
  else if !s.hears h.net rocePort then (none, s.bump R.HCP_STATS_CHECK_DROPS)
  else match s.qp? h.qp with
  | none => (none, s)
  | some q => if q.error then (none, s) else (some q, s.marked h.qp h.ecn)

/-- What answers an operation that is not performed: its PSN is ahead, it lies outside the profile or is a READ beyond MAX_READS, its
length is none the profile has, or no window takes it. -/
def State.roceRefuse (s : State) (q : Qp) (h : RoceHdr) (len reads : Nat) (win : Option Nat) : Option NakCode :=
  if q.psnPlace h.psn = .ahead then some .sequence
  else if h.outside ∨ len < 1 ∨ 2 ^ 31 < len ∨ q.maxReads < reads then some .invalid
  else if win = none then some .access
  else none

/-- The expected PSN moves past an operation that is due. -/
def State.psnTaken (s : State) (q : Qp) (h : RoceHdr) (len : Nat) : State :=
  if q.psnPlace h.psn = .due then s.putQp { q with rqPsn := psnAdd q.rqPsn (q.packets len) } else s

/-- A host-initiated RDMA WRITE. One that was taken before is acknowledged again and not performed. -/
def execHostRdmaWrite (h : RoceHdr) (rkey va : Nat) (data : List Byte) (s : State) : Host.Outcome State Fault Refusal :=
  match s.roceFront h with
  | (none, s) => .next s
  | (some q, s) =>
    let win := s.window? rkey va data.length true
    match s.roceRefuse q h data.length 0 (if q.psnPlace h.psn = .again then some 0 else win) with
    | some k => .next (s.hostSend 3 (.rdmaNak h.qp h.psn k))
    | none =>
      let s := if q.psnPlace h.psn = .again then s
        else ((s.wr .hbm va data).count (R.HCP_WINDOW_D_BYTES (win.getD 0)) data.length).psnTaken q h data.length
      .next (s.hostSend 3 (.rdmaAck h.qp h.psn))

/-- A host-initiated RDMA READ; one that was answered before is answered again. Poisoned data is not returned as good (R432): the read
is refused. -/
def execHostRdmaRead (h : RoceHdr) (rkey va len : Nat) (s : State) : Host.Outcome State Fault Refusal :=
  match s.roceFront h with
  | (none, s) => .next s
  | (some q, s) =>
    let win := s.window? rkey va len false
    match s.roceRefuse q h len (s.readsOut h.qp + 1) win with
    | some k => .next (s.hostSend 3 (.rdmaNak h.qp h.psn k))
    | none =>
      if (s.poisoned .hbm va len).isSome then .next (s.hostSend 3 (.rdmaNak h.qp h.psn .invalid))
      else .next (((s.count (R.HCP_WINDOW_D_BYTES (win.getD 0)) len).psnTaken q h len).hostSend 3
        (.rdmaReadResponse h.qp h.psn (s.rdBytes .hbm va len)))

/-- A write to a window register: fields other than VALID stand while the window is open or closing; clearing VALID closes
it in two phases. -/
def State.windowWrite (s : State) (addr value : Nat) : State × St :=
  let w := (addr - 0x12000) / 32
  let k := (addr - 0x12000) % 32
  let wasOpen := s.flag (R.HCP_WINDOW_A_VALID w)
  let busy := wasOpen || s.flag (R.HCP_WINDOW_A_BUSY w)
  if k = 0 then
    let same := bitAt value 62 == s.flag (R.HCP_WINDOW_A_PERM_R w) && bitAt value 61 == s.flag (R.HCP_WINDOW_A_PERM_W w)
      && value % 2 ^ 46 == s.reg (R.HCP_WINDOW_A_BASE w)
    if busy && !same then (s, .tableBusy)
    else if bitAt value 63 then
      if s.hbmFree (value % 2 ^ 46) (s.reg (R.HCP_WINDOW_C_LENGTH w)) then (s.writeRw addr value, .ok) else (s, .badParam)
    else
      let t := s.writeRw addr value
      (if wasOpen then t.setReg (R.HCP_WINDOW_A_BUSY w) 1 else t, .ok)
  else if k = 24 then (s, .ok)
  else if busy then (if s.rawReg addr = (s.writeRw addr value).rawReg addr then (s, .ok) else (s, .tableBusy))
  else (s.writeRw addr value, .ok)

/-- A write to a window register. -/
def execHcpWindowWrite (addr value : Nat) (s : State) : Host.Outcome State Fault Refusal := .next (s.windowWrite addr value).1

/-- The writes checked before a close have landed. -/
def execWindowCloseDone (window : Nat) (s : State) : Host.Outcome State Fault Refusal :=
  .next (if s.flag (R.HCP_WINDOW_A_BUSY window) then s.setReg (R.HCP_WINDOW_A_BUSY window) 0 else s)

end Sys2Proof.Machine
end

