-- ==== Sys2Proof/Machine/HostRegs.lean ====
section
/-! DEFINITION. The host port's state and registers (R320, R343, R348 to R350) and the shapers' releases (R342). -/

namespace Sys2Proof.Machine

/-! ### The port (R320) -/

/-- The port reaches UP. -/
def execHostPortUp (s : State) : Host.Outcome State Fault Refusal :=
  if !s.hostTrains then .next s
  else
    let s := s.setRegs [(R.HCP_PORT_STATUS_STATE, 2), (R.HCP_PORT_STATUS_LANES_UP, 0xFF)]
    let s := (((s.shaperFill 0).shaperFill 1).shaperFill 2).shaperFill 3
    .next (s.post .hostLinkUp 0xFFF (formO .ok s.node 0 0))

/-- The port leaves UP. -/
def State.hostDown (s : State) : State :=
  if s.hostUp then (s.setRegs [(R.HCP_PORT_STATUS_STATE, 0), (R.HCP_PORT_STATUS_LANES_UP, 0)]).post .hostLinkDown 0xFFF
    (formO .ok s.node 0 0)
  else s

/-- The port leaves UP. -/
def execHostPortDown (s : State) : Host.Outcome State Fault Refusal := .next s.hostDown

/-! ### Register writes (R350) -/

/-- Held packets that satisfy a test dropped. -/
def State.dropHeld (s : State) (p : HostOut → Bool) : State :=
  s.onHcp fun h => { h with held := h.held.filter fun x => !p x.2 }

/-- A write to an HCP register outside the window block: what R350 refuses, and queued packets that no longer fit or match
dropped. -/
def State.hcpWrite (s : State) (addr value : Nat) : State × St :=
  let t := s.writeRw addr value
  if addr = 0x10000 then
    let mtu := value % 65536
    if mtu < 1280 ∨ 9000 < mtu then (s, .badParam)
    else if bitAt value 39 != s.flag R.HCP_PORT_CFG_VLAN_EN then (t.dropHeld fun _ => true, .ok)
    else (t.dropHeld fun o => !s.outFits o mtu, .ok)
  else if addr = 0x10018 then
    if 32 < bitsOf value 39 32 then (s, .badParam)
    else if value % 2 ^ 32 = s.reg R.HCP_IPV4_ADDR then (t, .ok)
    else (t.dropHeld fun o => isV4 (s.outDst o), .ok)
  else if addr = 0x10028 ∨ addr = 0x10030 then
    if t.rawReg addr = s.rawReg addr then (s, .ok)
    else (t.dropHeld fun o => !isV4 (s.outDst o) && s.outDst o / 2 ^ 118 != 0x3FA, .ok)
  else if addr = 0x10048 ∧ 128 < value % 256 then (s, .badParam)
  else if 0x11000 ≤ addr ∧ addr < 0x11200 ∧ addr % 32 = 0x18 ∧ 128 < value % 256 then (s, .badParam)
  else if addr = 0x10090 ∧ 16383 < value then (s, .badParam)
  else (t, .ok)

/-- A write to an HCP register. -/
def execHcpRegWrite (addr value : Nat) (s : State) : Host.Outcome State Fault Refusal := .next (s.hcpWrite addr value).1

/-- A write to a metering register: a write to the selected tenant's meter fills both its buckets (R343). -/
def State.meterWrite (s : State) (addr value : Nat) : State × St :=
  let m := s.meter (s.reg R.TRF_METER_SEL_TENANT)
  if addr = 0x20010 then
    (s.putMeter { m with
      pir := bitsOf value 63 32
      cir := bitsOf value 31 0
      tc := Meter.grain * m.cbs
      tp := Meter.grain * m.pbs
      at_ := s.aon }, .ok)
  else if addr = 0x20018 then
    let pbs := bitsOf value 47 24
    let cbs := bitsOf value 23 0
    if bitAt value 63 && (pbs == 0 || cbs == 0) then (s, .badParam)
    else (s.putMeter { m with
      enable := bitAt value 63
      bytes := bitAt value 62
      pbs := pbs
      cbs := cbs
      tc := Meter.grain * cbs
      tp := Meter.grain * pbs
      at_ := s.aon }, .ok)
  else (s.writeRw addr value, .ok)

/-- A write to a metering register. -/
def execTrfMeterWrite (addr value : Nat) (s : State) : Host.Outcome State Fault Refusal := .next (s.meterWrite addr value).1

/-- The bucket a shaper register's address names. -/
def shaperAt (addr : Nat) : Nat := if addr < 0x20200 then (addr - 0x20100) / 8 else 4 + (addr - 0x20200) / 8

/-- A write to a shaper: its bucket is set full. -/
def State.shaperWrite (s : State) (addr value : Nat) : State × St := ((s.writeRw addr value).shaperFill (shaperAt addr), .ok)

/-- A write to a shaper. -/
def execShaperWrite (addr value : Nat) (s : State) : Host.Outcome State Fault Refusal := .next (s.shaperWrite addr value).1

/-! ### Releases (R342) -/

/-- The oldest held packet of a host class. -/
def State.heldHead (s : State) (k : Nat) : Option HostOut := (s.hcp.held.find? (·.1 == k)).map (·.2)

/-- A host class has a held packet its bucket covers. -/
def State.eligible (s : State) (k : Nat) : Bool := (s.heldHead k).any fun o => s.shaperCovers k o.bits

/-- The class that goes next: 0 first, the others in rotation. -/
def State.nextClass (s : State) : Option Nat :=
  if s.eligible 0 then some 0
  else ((List.range 3).map fun i => 1 + (s.hcp.lastClass + i) % 3).find? s.eligible

/-- A shaper's bucket covers its next held packet. -/
def execShaperRelease (k : Nat) (s : State) : Host.Outcome State Fault Refusal :=
  if k < 4 then
    if !s.hostUp || !s.eligible k then .next s
    else match s.nextClass with
    | none => .next s
    | some c =>
      match s.heldHead c with
      | none => .next s
      | some o => .next ((((s.onHcp fun h => { h with
          held := dropFirst (c, o) h.held
          lastClass := if c = 0 then h.lastClass else c }).shaperTake c o.bits).hostEmit o).transmitted o)
  else
    match s.hcp.heldFab.find? (·.1 == k - 4) with
    | none => .next s
    | some (c, f) =>
      if s.shaperCovers k (8 * f.bytes) then
        let t := (s.onHcp fun h => { h with heldFab := dropFirst (c, f) h.heldFab }).shaperTake k (8 * f.bytes)
        .next ((t.injectNow (coverFrame (t.outCh f.dst).sent f)).pumpDst f.dst)
      else .next s

end Sys2Proof.Machine
end

