-- ==== Sys2Proof/Machine/Sec.lean ====
section
/-! DEFINITION. Identity, attestation and dual approval (chapter 14). -/

namespace Sys2Proof.Machine

/-! ### Attestation (R384 to R387) -/

/-- A defect-list entry's 32 bytes (Table 13.3). -/
def Defect.bytes (d : Defect) : List Byte :=
  let body := toBytes 8 (d.seq * 2 ^ 32 + d.kind.code * 2 ^ 16 + d.status.code) ++ toBytes 8 (d.startCount * 2 ^ 32 + d.ticks)
    ++ toBytes 8 (d.unit * 2 ^ 56 + d.sub * 2 ^ 48 + d.detail) ++ toBytes 4 0
  body ++ toBytes 4 (crc32c body)

/-- FW_MEAS: the running images' hashes, in code order. -/
def State.fwMeas (s : State) : Nat :=
  sha512 ((List.range 9).flatMap fun k =>
    match s.bld.slots.find? fun x => x.subsystem == k && x.slotB == s.flag (R.BLD_IMG_ACTIVE k) with
    | some x => digestBytes x.hash
    | none => [])

/-- Licences by ascending SERIAL. -/
def insertLicence (l : Licence) : List Licence → List Licence
  | [] => [l]
  | m :: ms => if l.serial ≤ m.serial then l :: m :: ms else m :: insertLicence l ms

/-- LICENCE_MEAS. -/
def State.licenceMeas (s : State) : Nat := sha512 ((s.bld.licences.foldr insertLicence []).flatMap (·.bytes))

/-- DEFECT_MEAS. -/
def State.defectMeas (s : State) : Nat := sha512 (s.bld.defects.flatMap Defect.bytes)

/-- The key in an approver slot. -/
def State.approver? (s : State) (slot : Nat) : Option Nat := (s.sec.approvers.find? (·.1 == slot)).map (·.2)

/-- APPROVER_MEAS. -/
def State.approverMeas (s : State) : Nat :=
  sha512 ((List.range 16).flatMap fun i => digestBytes (((s.approver? i).map keyHash).getD 0))

/-- NODE_HASH (R380). -/
def State.nodeHash (s : State) : Nat := keyHash s.sec.identityN

/-- A report's bytes 0x000 to 0x1BF (Table 14.2). -/
def State.reportBody (s : State) (nonce : Nat) : List Byte :=
  let mask := fun (f : Nat → Fld) => ((List.range 9).map fun k => s.reg (f k) * 2 ^ k).sum
  toBytes 8 (0xA77E * 2 ^ 48 + 2 ^ 44 + s.reg R.BLD_BOOT_LAST_RESET * 2 ^ 32 + s.reg R.CAP_ID_PART * 2 ^ 16
      + s.reg R.CAP_ID_STEPPING * 2 ^ 8)
    ++ toBytes 8 (s.reg R.BLD_BOOT_START_COUNT * 2 ^ 32 + s.startTicks % 2 ^ 32)
    ++ toBytes 8 (s.reg R.PHS_VERSIONS_FW_GENERATION * 2 ^ 48 + (if s.flag R.CAP_NODE_NODE_VALID then s.node else 0) * 2 ^ 32
      + s.reg R.BLD_DEFECT_COUNT * 2 ^ 16 + s.reg R.BLD_LIC_COUNT * 2 ^ 9 + s.sec.approvers.length * 2 ^ 4
      + s.reg R.SEC_STATE_DEBUG_STICKY * 8 + s.reg R.SEC_STATE_HOST_LOCK * 4 + s.reg R.FAB_KEY_POLICY_LOCK * 2
      + s.reg R.FAB_KEY_POLICY_SPACE3_READ_ANY)
    ++ toBytes 8 (s.reg R.CAP_NODE_NODE_VALID * 2 ^ 63 + mask R.BLD_IMG_FELL_BACK * 2 ^ 32 + mask R.BLD_IMG_PENDING * 2 ^ 16
      + mask R.BLD_IMG_ACTIVE)
    ++ digestBytes nonce ++ digestBytes s.nodeHash ++ digestBytes s.fwMeas ++ digestBytes s.licenceMeas
    ++ digestBytes s.defectMeas ++ digestBytes s.approverMeas ++ List.replicate 32 0

/-- A signed report; none while the identity key is not unsealed. -/
def State.report (s : State) (nonce : Nat) : Option (List Byte) :=
  s.sec.identityKey.map fun d =>
    let b := s.reportBody nonce
    b ++ toBytes 512 (d.sign b)

/-- The standing report regenerated (R387); it stands while the identity key is not unsealed. -/
def State.reReport (s : State) : State :=
  match s.report 0 with
  | none => s
  | some b =>
    (s.setRegs ((List.range 120).map fun w => (R.SEC_REPORT_WORD w, rdNat (fun k => b.getD k 0) (8 * w) 8))).setReg
      R.SEC_REPORT_SEQ_SEQ (s.reg R.SEC_REPORT_SEQ_SEQ + 1)

/-- ATTEST. A node that is in RECOVERY because its key was not unsealed answers it with ST_IDENTITY_UNAVAILABLE (R382, log entry 103). -/
def execAttest (p : HostPkt) (nonce : Nat) (s : State) : Host.Outcome State Fault Refusal :=
  .next (s.prayr p 0x50 false true s.sec.identityKey.isNone p.payloadOk fun ref t =>
    match t.report nonce with
    | some b => t.hostReply ref .ok b
    | none => t.hostReply ref .identityUnavailable [])

/-! ### Certificates (R382, R383) -/

/-- A certificate's chain holds: signed by the Flezu root whose hash the ROM has, and neither withdrawn (R383). -/
def State.chainOk (s : State) (i : Nat) : Bool :=
  !s.sec.withdrawn.contains i && !s.sec.withdrawn.contains 4 && match s.sec.certs[i]?, s.sec.certs[4]? with
  | some c, some r => sha512 r.der == s.sec.rootHash && r.signedBy r && c.signedBy r
  | _, _ => false

/-- A signature by the key of a Flezu certificate, named by its hash. -/
def State.flezuSigned (s : State) (i signer sig : Nat) (bs : List Byte) : Bool :=
  match s.sec.certs[i]? with
  | some c => s.chainOk i && keyHash c.modulus == signer && rsaVerify c.modulus sig bs
  | none => false

/-- CERT_READ; a certificate the NVM die does not hold has LENGTH 0. -/
def execCertRead (p : HostPkt) (index : Nat) (s : State) : Host.Outcome State Fault Refusal :=
  .next (s.prayr p 0x51 false true false (p.payloadOk && index ≤ 4) fun ref t =>
    let der := ((t.sec.certs[index]?).map (·.der)).getD []
    t.hostReply ref .ok (toBytes 8 der.length ++ der))

/-! ### Approval sets (R391 to R396) -/

/-- A set's registers. -/
def State.showSet (s : State) (k : Nat) : State :=
  match s.sec.sets.find? (·.k == k) with
  | none => s.setRegs [(R.SEC_SET_A_STATE k, 0), (R.SEC_SET_A_APPROVED_BY k, 0), (R.SEC_SET_A_OPCODE k, 0),
      (R.SEC_SET_A_DEADLINE k, 0), (R.SEC_SET_B_DIGEST_TAG k, 0)]
  | some x => s.setRegs [(R.SEC_SET_A_STATE k, if 2 ≤ x.slots.length then 2 else 1),
      (R.SEC_SET_A_APPROVED_BY k, (x.slots.map fun i => 2 ^ i).sum), (R.SEC_SET_A_OPCODE k, x.opcode),
      (R.SEC_SET_A_DEADLINE k, x.deadline), (R.SEC_SET_B_DIGEST_TAG k, x.digest)]

/-- The sets replaced, and their registers. -/
def State.setSets (s : State) (l : List ApprovalSet) : State :=
  let s := s.onSec fun e => { e with sets := l }
  (((s.showSet 0).showSet 1).showSet 2).showSet 3

/-- The digest of a command (R391). -/
def commandDigest (opcode : Nat) (payload : List Byte) : Nat := sha512 (BitVec.ofNat 8 opcode :: payload)

/-- A command of Table 14.3 executed under the approved set that matches it, which it consumes (R395); `clears`: an executed
one frees every other set, and the reply carries a payload that suits the status. -/
def State.approvedWith (s : State) (ref opcode digest : Nat) (clears : Bool) (payload : St → List Byte)
    (run : State → State × St) : State :=
  if s.sec.approvers.length < 2 then s.hostReply ref .approvalRequired (payload .approvalRequired)
  else match s.sec.sets.find? fun x => 2 ≤ x.slots.length && x.opcode == opcode && x.digest == digest && s.tick < x.deadline with
  | none => s.hostReply ref .approvalRequired (payload .approvalRequired)
  | some x =>
    let s := (s.setSets (s.sec.sets.filter (·.k != x.k))).bump R.SEC_STATS_EXECUTED
    let (s, st) := run s
    let s := if st = .ok ∧ clears = true then s.setSets [] else s
    (s.post .approvedCommand 0xFFF (formO st s.node opcode ((x.slots.map fun i => 2 ^ i).sum))).hostReply ref st (payload st)

/-- A command of Table 14.3 whose reply has no payload. -/
def State.approved (s : State) (ref opcode digest : Nat) (clears : Bool) (run : State → State × St) : State :=
  s.approvedWith ref opcode digest clears (fun _ => []) run

/-- The opcodes of Table 14.3. -/
def approvalOps : List Nat := [0x48, 0x4D, 0x54, 0x55, 0x56, 0x57, 0x21]

/-- APPROVAL_OPEN. -/
def execApprovalOpen (p : HostPkt) (opcode digest : Nat) (s : State) : Host.Outcome State Fault Refusal :=
  .next (s.prayr p 0x52 false true false p.payloadOk fun ref t =>
    if !approvalOps.contains opcode then t.hostReply ref .badParam []
    else if t.sec.approvers.length < 2 then t.hostReply ref .badState []
    else match (List.range 4).find? fun k => !t.sec.sets.any fun x => x.k == k with
    | none => t.hostReply ref .tableBusy []
    | some k =>
      if t.sec.sets.any (·.digest == digest) then t.hostReply ref .tableBusy []
      else
        let w := t.reg R.SEC_APPROVAL_CFG_WINDOW_TICKS
        let nonce := Config.nonce t.sec.nonces % 2 ^ 256
        let t := (t.onSec fun e => { e with nonces := e.nonces + 1 }).setSets
          (t.sec.sets ++ [⟨k, opcode, digest, nonce, t.tick + w, []⟩])
        t.hostReply ref .ok (toBytes 8 (w * 2 ^ 32 + k) ++ toBytes 32 nonce))

/-- The approval statement of a set (Table 14.4). -/
def State.statement (s : State) (x : ApprovalSet) : List Byte :=
  toBytes 8 (0xA990 * 2 ^ 48 + 2 ^ 44 + x.opcode * 2 ^ 8 + x.k) ++ toBytes 8 0 ++ digestBytes s.nodeHash ++ toBytes 32 x.nonce
    ++ digestBytes x.digest

/-- APPROVE. -/
def execApprove (p : HostPkt) (slot set signature : Nat) (s : State) : Host.Outcome State Fault Refusal :=
  .next (s.prayr p 0x53 false true false p.payloadOk fun ref t =>
    let refuse := fun (st : St) => (t.bump R.SEC_STATS_REFUSED).hostReply ref st []
    match t.sec.sets.find? (·.k == set) with
    | none => refuse .approvalExpired
    | some x =>
      if 2 ≤ x.slots.length ∨ x.deadline ≤ t.tick then refuse .approvalExpired
      else match t.approver? slot with
      | none => refuse .approverUnknown
      | some n =>
        if x.slots.contains slot then refuse .approverDuplicate
        else if !rsaVerify n signature (t.statement x) then refuse .signatureInvalid
        else
          let x' := { x with slots := x.slots ++ [slot] }
          ((t.setSets (upsert (·.k == set) x' t.sec.sets)).bump R.SEC_STATS_APPROVALS).hostReply ref .ok
            (toBytes 8 ((x'.slots.map fun i => 2 ^ i).sum)))

/-- A set reaches its deadline. -/
def execApprovalDeadlineExpiry (set : Nat) (s : State) : Host.Outcome State Fault Refusal :=
  match s.sec.sets.find? (·.k == set) with
  | none => .next s
  | some x =>
    if x.deadline ≤ s.tick then
      .next (((s.setSets (s.sec.sets.filter (·.k != set))).bump R.SEC_STATS_EXPIRED).post .approvalExpired 0xFFF
        (formO .ok s.node set 0))
    else .next s

/-! ### Approver keys (R388 to R390) -/

/-- The key of an approver slot set or removed: its registers, APPROVER_CHANGED and the standing report. -/
def State.setApprover (s : State) (slot : Nat) (key : Option Nat) (hash : Nat) : State :=
  let rest := s.sec.approvers.filter (·.1 != slot)
  let l := match key with
    | some n => rest ++ [(slot, n)]
    | none => rest
  let s := (s.onSec fun e => { e with approvers := l }).setRegs
    [(R.SEC_STATE_APPROVERS, l.length), (R.SEC_APPROVER_KEY_TAG slot, if key.isSome then hash else 0)]
  let s := if 2 ≤ l.length then s.setReg R.SEC_STATE_SEALED 1 else s
  (s.post .approverChanged 0xFFF (formO .ok s.node slot hash)).reReport

/-- An add of an approver key. -/
def State.enrol (s : State) (slot n : Nat) : State × St :=
  if (s.approver? slot).isSome || s.sec.approvers.any (·.2 == n) then (s, .tableBusy)
  else if !rsaKeyOk n then (s, .badParam)
  else (s.setApprover slot (some n) (keyHash n), .ok)

/-- A removal of an approver key. -/
def State.unenrol (s : State) (slot : Nat) : State × St :=
  match s.approver? slot with
  | none => (s.setApprover slot none 0, .ok)
  | some n => if s.sec.approvers.length ≤ 2 ∧ s.flag R.SEC_STATE_SEALED then (s, .badState) else (s.setApprover slot none (keyHash n), .ok)

/-- APPROVER_ENROL with ADD = 1: without a set while SEALED = 0. -/
def execApproverEnrolAdd (p : HostPkt) (slot modulus : Nat) (s : State) : Host.Outcome State Fault Refusal :=
  .next (s.prayr p 0x54 false true false (p.payloadOk && slot < 16) fun ref t =>
    if t.flag R.SEC_STATE_SEALED then
      t.approved ref 0x54 (commandDigest 0x54 (toBytes 8 (256 + slot) ++ toBytes 512 modulus)) true (·.enrol slot modulus)
    else
      let (t, st) := t.enrol slot modulus
      t.hostReply ref st [])

/-- APPROVER_ENROL with ADD = 0. -/
def execApproverEnrolRemove (p : HostPkt) (slot : Nat) (s : State) : Host.Outcome State Fault Refusal :=
  .next (s.prayr p 0x54 false true false (p.payloadOk && slot < 16) fun ref t =>
    t.approved ref 0x54 (commandDigest 0x54 (toBytes 8 slot)) true (·.unenrol slot))

/-! ### POLICY_SET and HOST_SET -/

/-- The policy registers written. -/
def State.policySet (s : State) (value rekey : Nat) : State × St :=
  ((s.setRegs [(R.SEC_APPROVAL_CFG_WINDOW_TICKS, bitsOf value 63 48), (R.SEC_STATE_HOST_LOCK, bitsOf value 2 2),
      (R.FAB_KEY_POLICY_SPACE3_READ_ANY, bitsOf value 1 1), (R.FAB_KEY_POLICY_LOCK, bitsOf value 0 0),
      (R.SEC_APPROVAL_CFG_REKEY_TICKS, rekey)]).reReport, .ok)

/-- POLICY_SET. -/
def execPolicySet (p : HostPkt) (value rekey : Nat) (s : State) : Host.Outcome State Fault Refusal :=
  .next (s.prayr p 0x55 false true false (p.payloadOk && 1 ≤ bitsOf value 63 48) fun ref t =>
    t.approved ref 0x55 (commandDigest 0x55 (toBytes 8 value ++ toBytes 8 rekey)) true (·.policySet value rekey))

/-- One host entry written in one step. -/
def State.hostSet (s : State) (entry a b c d : Nat) : State × St :=
  if 128 < d % 256 then (s, .badParam)
  else
    let base := 0x11000 + 32 * entry
    ((((s.writeRw base a).writeRw (base + 8) b).writeRw (base + 16) c).writeRw (base + 24) d, .ok)

/-- HOST_SET. -/
def execHostSet (p : HostPkt) (entry a b c d : Nat) (s : State) : Host.Outcome State Fault Refusal :=
  .next (s.prayr p 0x56 false true false (p.payloadOk && entry < 16) fun ref t =>
    t.approved ref 0x56 (commandDigest 0x56 (toBytes 8 entry ++ toBytes 8 a ++ toBytes 8 b ++ toBytes 8 c ++ toBytes 8 d)) false
      (·.hostSet entry a b c d))

/-! ### The debug lock (R397, R398) -/

/-- Both scopes locked. -/
def State.relock (s : State) : State :=
  (s.setRegs [(R.SEC_DEBUG_SCAN, 0), (R.SEC_DEBUG_TRACE, 0)]).onSec fun e => { e with debugUntil := none }

/-- Scopes opened; SCAN erases the unsealed identity key first. -/
def State.unlock (s : State) (value : Nat) : State × St :=
  let s := if bitAt value 2 then (s.onSec fun e => { e with identityKey := none }).setReg R.SEC_STATE_IDENTITY_VALID 0 else s
  let s := s.setReg R.SEC_STATE_DEBUG_STICKY 1
  let s := if bitAt value 2 then s.setReg R.SEC_DEBUG_SCAN 1 else s
  let s := if bitAt value 1 then s.setReg R.SEC_DEBUG_TRACE 1 else s
  let s := s.onSec fun e => { e with debugUntil := some (s.tick + bitsOf value 63 32) }
  ((s.post .debugUnlocked 0xFFF (formO .ok s.node 0 0)).reReport, .ok)

/-- DEBUG with UNLOCK = 1. -/
def execDebugUnlock (p : HostPkt) (value : Nat) (s : State) : Host.Outcome State Fault Refusal :=
  .next (s.prayr p 0x57 false true false
    (p.payloadOk && bitAt value 0 && 1 ≤ bitsOf value 63 32 && bitsOf value 63 32 ≤ 4096) fun ref t =>
    t.approved ref 0x57 (commandDigest 0x57 (toBytes 8 value)) false (·.unlock value))

/-- DEBUG with UNLOCK = 0. -/
def execDebugRelock (p : HostPkt) (value : Nat) (s : State) : Host.Outcome State Fault Refusal :=
  .next (s.prayr p 0x57 false true false (p.payloadOk && !bitAt value 0) fun ref t => t.relock.hostReply ref .ok [])

/-- The unlock's duration ends. -/
def execDebugDurationExpiry (s : State) : Host.Outcome State Fault Refusal :=
  .next (if s.sec.debugUntil.any fun d => d ≤ s.tick then s.relock else s)

end Sys2Proof.Machine
end

