-- ==== Sys2Proof/Machine/Units.lean ====
section
/-! DEFINITION. The defect list, spares, withdrawn and serviced tiles (section 13.3), and the registers of the firmware
slots (R364). -/

namespace Sys2Proof.Machine

/-! ### The defect list (R358, R359) -/

/-- Units kept out of service: those listed, and those no longer listed that the next cold start tests afresh. -/
def State.badUnits (s : State) : List Defect := s.bld.defects ++ s.bld.cleared

/-- A unit is out of service already: it is not tested, and nothing is found of it. -/
def State.known (s : State) (f : Finding) : Bool :=
  s.badUnits.any fun d => decide (d.kind = f.kind) && d.unit == f.unit && d.sub == f.sub && d.detail == f.detail

/-- A finding entered in the list. A full list counts it in OVERFLOW and posts DEFECT_LIST_FULL; the unit is kept out of
service all the same. -/
def State.addDefect (s : State) (f : Finding) : State :=
  let d : Defect := ⟨s.bld.defects.length, f.kind, f.status, s.reg R.BLD_BOOT_START_COUNT, s.startTicks % 2 ^ 32, f.unit, f.sub, f.detail⟩
  if 4096 ≤ s.bld.defects.length then
    ((s.onBld fun b => { b with cleared := b.cleared ++ [d] }).bump R.BLD_DEFECT_OVERFLOW).post .defectListFull 0xFFF
      (formO .ok s.node 0 0)
  else
    ((s.onBld fun b => { b with defects := b.defects ++ [d] }).setReg R.BLD_DEFECT_COUNT (s.bld.defects.length + 1)).reReport

/-- DEFECT_READ. -/
def execDefectRead (p : HostPkt) (first count : Nat) (s : State) : Host.Outcome State Fault Refusal :=
  .next (s.prayr p 0x4C false true false (p.payloadOk && first < 8192 && 1 ≤ count && count ≤ 32) fun ref t =>
    t.hostReply ref .ok (((t.bld.defects.drop first).take count).flatMap Defect.bytes))

/-- The list emptied. -/
def State.defectClear (s : State) : State × St :=
  (((s.onBld fun b => { b with
    cleared := b.cleared ++ b.defects
    defects := [] }).setRegs [(R.BLD_DEFECT_COUNT, 0), (R.BLD_DEFECT_OVERFLOW, 0)]).reReport, .ok)

/-- DEFECT_CLEAR. -/
def execDefectClear (p : HostPkt) (s : State) : Host.Outcome State Fault Refusal :=
  .next (s.prayr p 0x4D false true false p.payloadOk fun ref t =>
    t.approved ref 0x4D (commandDigest 0x4D []) false (·.defectClear))

/-! ### Tiles in service (R14, R31) -/

/-- The tiles in service changed (R28). -/
def State.setTiles (s : State) (mask : Nat) : State :=
  let n := ((List.range s.tiles).filter (bitAt mask)).length
  s.capChange [(R.CAP_TILES_TILE_PRESENT, mask), (R.CAP_COUNTS_TILES, n), (R.CAP_COUNTS_LOGICAL_CORES, 4 * n)]

/-- A tile taken out of the descriptor. -/
def State.tileOut (s : State) (t : Nat) : State :=
  let m := s.reg R.CAP_TILES_TILE_PRESENT
  if bitAt m t then s.setTiles (m - 2 ^ t) else s

/-- A tile back in the descriptor. -/
def State.tileBack (s : State) (t : Nat) : State :=
  let m := s.reg R.CAP_TILES_TILE_PRESENT
  if bitAt m t then s else s.setTiles (m + 2 ^ t)

/-- A bit of a mask register set or cleared. -/
def State.setBit (s : State) (f : Fld) (i : Nat) (on : Bool) : State :=
  let m := s.reg f
  match on, bitAt m i with
  | true, false => s.setReg f (m + 2 ^ i)
  | false, true => s.setReg f (m - 2 ^ i)
  | _, _ => s

/-- A tile's clocks and power gated, and its cores' with them. -/
def State.gateTile (s : State) (t : Nat) : State :=
  { s with
    cores := s.cores.map fun c => if c.num / 4 = t then { c with power := .gated } else c
    pcr := { s.pcr with gatedTiles := s.pcr.gatedTiles.filter (· != t) ++ [t] } }

/-- Contexts that are not FREE and have a core on a tile. -/
def State.tileContexts (s : State) (t : Nat) : List Nat :=
  (s.sch.ctxs.filter fun x => x.desc.cores.any fun c => c / 4 == t).map (·.num)

/-- A tile withdrawn (R31, R360). -/
def State.withdraw (s : State) (t : Nat) (st : St) : State :=
  if bitAt (s.reg R.BLD_SERVICE_WITHDRAWN) t then s
  else
    let s := ((s.addDefect ⟨.tile, st, t, 0, 0⟩).setBit R.BLD_SERVICE_WITHDRAWN t true).setBit R.BLD_SERVICE_OFFLINE t false
    let s := (s.tileOut t).tearDownAll .withdrawal .ok (s.tileContexts t)
    (s.gateTile t).post .tileWithdrawn 0xFFF (formO st s.node t 0)

/-- A shard run started over on its group. -/
def State.rerunShard (s : State) (x : Ctx) (y : ShardRun) : State :=
  let cores := x.desc.group y.group
  let s := (cores.map s.core).foldl (fun s c => (s.squashCore c).idleCore ((s.squashCore c).core c.num)) s
  let (seq, x) := x.bumpSeq y.group
  let area := batchArea seq x.num y.group 0 0 y.copy y.shard []
  let s := cores.foldl (fun s n => s.startCore x x.desc.jobPc area n) (s.putCtx x)
  s.onSch fun k => { k with shards := k.shards.map fun z => if z = y then { y with
    seq := seq
    startedAt := s.aon
    left := cores } else z }

/-- A logical core's work when the tile's spare takes its place: the steps of its batch fail and are retried (R50,
Table 7.6); a shard run starts over. -/
def State.substitute (s : State) (n : Nat) : State :=
  match s.sch.batches.find? fun b => !b.squashed && b.left.contains n with
  | some b =>
    let s := s.squashCores (b.left.map s.core)
    let s := s.onSch fun k => { k with
      batches := updateAll (fun y => y.ctx == b.ctx && y.group == b.group) (fun y => { y with squashed := true }) k.batches }
    s.unfinishedSteps b
  | none =>
    match s.sch.shards.find? fun y => !y.squashed && y.left.contains n with
    | some y =>
      match s.ctx? y.ctx with
      | some x => if x.serving then s.rerunShard x y else s
      | none => s
    | none => s

/-- A physical core of a tile has failed: the spare takes its place, or the tile is withdrawn (R360). -/
def State.coreFailed (s : State) (t phys : Nat) (st : St) : State :=
  if bitAt (s.reg R.BLD_SERVICE_WITHDRAWN) t || s.bld.spared.contains (t, phys) then s
  else if s.bld.spared.any (·.1 == t) then s.withdraw t st
  else
    let s := (s.addDefect ⟨.core, st, t, phys, 0⟩).onBld fun b => { b with spared := b.spared ++ [(t, phys)] }
    if phys = 4 then s else (s.substitute (4 * t + phys)).post .coreSpared 0xFFF (formO st s.node t 0)

/-- A physical core fails in service. -/
def execCoreFailure (tile phys status : Nat) (s : State) : Host.Outcome State Fault Refusal :=
  .next (if tile < s.tiles ∧ phys ≤ 4 then s.coreFailed tile phys ((St.ofCode status).getD .ok) else s)

/-! ### Channels in service -/

/-- Channels of a stack that are retired. -/
def State.retiredOf (s : State) (stack : Nat) : Nat :=
  (s.badUnits.filter fun d => decide (d.kind = .hbmChannel) && d.unit == stack).length

/-- Stacks the variant has. -/
def State.stacks (s : State) : Nat := if s.small then 10 else 20

/-- A channel out of service: its entry, and the capacity it leaves (R15, R28, R362). -/
def State.channelOut (s : State) (stack channel : Nat) (st : St) : State :=
  let s := s.addDefect ⟨.hbmChannel, st, stack, channel, 0⟩
  let s := s.setReg R.BLD_HBM_RETIRED (s.reg R.BLD_HBM_RETIRED + 1)
  s.capChange [(R.CAP_HBM_HBM_CHANNELS, s.reg R.CAP_HBM_HBM_CHANNELS - 1), (R.CAP_HBM_HBM_MIB, s.reg R.CAP_HBM_HBM_MIB - 3072),
    (R.CAP_COUNTS_HBM_STACKS, ((List.range s.stacks).filter fun k => s.retiredOf k < 32).length)]

/-- What a test finds, applied (R358 to R360). -/
def State.applyFinding (s : State) (f : Finding) : State :=
  if s.known f then s
  else match f.kind with
  | .core => s.coreFailed f.unit f.sub f.status
  | .tile => s.withdraw f.unit f.status
  | .hbmChannel => s.channelOut f.unit f.sub f.status
  | _ => s.addDefect f

/-- Several findings applied. -/
def State.applyFindings (s : State) : List Finding → State
  | [] => s
  | f :: fs => (s.applyFinding f).applyFindings fs

/-! ### Firmware slots (R363, R364) -/

/-- The image a slot holds. -/
def State.slot? (s : State) (sub : Nat) (slotB : Bool) : Option ImageSlot :=
  s.bld.slots.find? fun x => x.subsystem == sub && x.slotB == slotB

/-- The slot a subsystem runs. -/
def State.activeSlot (s : State) (sub : Nat) : Bool := s.flag (R.BLD_IMG_ACTIVE sub)

/-- The slot whose activation is pending, else the active one. -/
def State.nextSlot (s : State) (sub : Nat) : Bool := ((s.bld.pendingSlot.find? (·.1 == sub)).map (·.2)).getD (s.activeSlot sub)

/-- FW_GENERATION: the lowest among the active images, a pending one counted as active. A new generation withdraws the Flezu
certificates it does not carry (R383). -/
def State.fwGeneration (s : State) : State :=
  match ((List.range 9).filterMap fun k => (s.slot? k (s.nextSlot k)).map (·.generation)).min? with
  | some g =>
    if s.reg R.PHS_VERSIONS_FW_GENERATION = g then s
    else (s.onSec fun e => { e with withdrawn := [1, 2, 3, 4].filter fun i => !Config.carriesCert g i }).setReg
      R.PHS_VERSIONS_FW_GENERATION g
  | none => s

/-- A subsystem's pending activation gone. -/
def State.dropPending (s : State) (sub : Nat) : State :=
  (s.onBld fun b => { b with pendingSlot := b.pendingSlot.filter (·.1 != sub) }).setReg (R.BLD_IMG_PENDING sub) 0

/-- A slot made the active one; a change of the command processor's image opens its hand-over (Table 13.4). -/
def State.activate (s : State) (sub : Nat) (slotB : Bool) : State :=
  let s := if sub = 1 then s.onBld fun b => { b with hcpSince := some s.aon } else s
  (((s.dropPending sub).setReg (R.BLD_IMG_ACTIVE sub) (bit slotB)).fwGeneration).reReport

/-- A tile takes a pending TILE image; once every tile in service has, the image is active (Table 13.4). -/
def State.takeTile (s : State) (t : Nat) : State :=
  match s.bld.pendingSlot.find? (·.1 == 4) with
  | none => s
  | some (_, b) =>
    let s := s.onBld fun x => { x with taken := x.taken.filter (· != t) ++ [t] }
    if (List.range s.tiles).all fun k => !s.tileIn k || s.bld.taken.contains k then
      (s.activate 4 b).onBld fun x => { x with taken := [] }
    else s

/-! ### TILE_SERVICE (R361) -/

/-- A core of the tile is in use by a context that is not FREE, or serves Mezzotint. -/
def State.tileUsed (s : State) (t : Nat) : Bool :=
  !(s.tileContexts t).isEmpty || s.mztCores.any fun c => c / 4 == t

/-- TILE_SERVICE with ONLINE = 0. -/
def execTileServiceOffline (p : HostPkt) (tile : Nat) (s : State) : Host.Outcome State Fault Refusal :=
  .next (s.prayr p 0x4E false true false p.payloadOk fun ref t =>
    if t.tiles ≤ tile then t.hostReply ref .badParam []
    else if !t.tileIn tile then t.hostReply ref .badState []
    else if t.tileUsed tile then t.hostReply ref .tableBusy []
    else (((t.setBit R.BLD_SERVICE_OFFLINE tile true).tileOut tile).gateTile tile).hostReply ref .ok [])

/-- TILE_SERVICE with ONLINE = 1: the tile's fast test begins. -/
def execTileServiceOnline (p : HostPkt) (tile : Nat) (s : State) : Host.Outcome State Fault Refusal :=
  .next (s.prayr p 0x4E false true false p.payloadOk fun ref t =>
    if t.tiles ≤ tile then t.hostReply ref .badParam []
    else if !bitAt (t.reg R.BLD_SERVICE_OFFLINE) tile || t.bld.testing.contains tile then t.hostReply ref .badState []
    else (t.onBld fun b => { b with testing := b.testing ++ [tile] }).onHcp fun h => { h with
      later := h.later ++ [.tileOnline ref tile] })

/-- The reply a tile's TILE_SERVICE waits for. -/
def State.onlineReply (s : State) (tile : Nat) (st : St) : State :=
  match s.hcp.later.findSome? fun l => match l with
    | .tileOnline ref t => if t = tile then some ref else none
    | _ => none with
  | none => s
  | some ref => (s.onHcp fun h => { h with later := dropFirst (.tileOnline ref tile) h.later }).hostReply ref st []

/-- The fast test of a tile ends: its findings are applied, and unless they withdraw it the tile is back in service. -/
def execTileOnlineTestDone (tile : Nat) (findings : List Finding) (s : State) : Host.Outcome State Fault Refusal :=
  if !s.bld.testing.contains tile then .next s
  else
    let s := s.onBld fun b => { b with testing := b.testing.filter (· != tile) }
    let s := s.applyFindings (findings.filter (·.unit == tile))
    if bitAt (s.reg R.BLD_SERVICE_WITHDRAWN) tile then .next (s.onlineReply tile .unitAbsent)
    else .next ((((s.setBit R.BLD_SERVICE_OFFLINE tile false).tileBack tile).takeTile tile).onlineReply tile .ok)

end Sys2Proof.Machine
end

