-- ==== Sys2Proof/Machine/Licence.lean ====
section
/-! DEFINITION. Licences (section 13.6). -/

namespace Sys2Proof.Machine

/-- An n-byte little-endian number of some bytes; bytes past their end count 0. -/
def numAt (bs : List Byte) (off n : Nat) : Nat := ((bs.drop off).take n).foldr (fun b a => b.toNat + 256 * a) 0

/-- The fields of a licence's 704 bytes (R372). -/
def parseLicence (bs : List Byte) (now : Nat) : Licence :=
  { bytes := bs, serial := numAt bs 8 8, features := bitsOf (numAt bs 0x10 8) 8 0, limits := numAt bs 0x18 8,
    duration := numAt bs 0x20 4, recorded := 0, since := now, lapsed := false }

/-- Check 1 of R373: MAGIC, VERSION, Rsvd bits, and limits within CAP_LIMITS. -/
def licenceFormOk (bs : List Byte) : Bool :=
  let limits := numAt bs 0x18 8
  numAt bs 0 8 == 0x11CE * 2 ^ 48 + 2 ^ 44 && bitsOf (numAt bs 0x10 8) 63 9 == 0 && bitsOf limits 63 45 == 0
    && bitsOf limits 31 17 == 0 && bitsOf limits 44 32 ≤ 4096 && bitsOf limits 16 0 ≤ 65536 && numAt bs 0x24 4 == 0
    && numAt bs 0x28 8 == 0 && numAt bs 0x30 8 == 0 && numAt bs 0x38 8 == 0

/-- Ticks a licence has been counted for (R374). -/
def State.elapsed (s : State) (l : Licence) : Nat := if l.lapsed then l.recorded else l.recorded + (s.tick - l.since)

/-- The feature bits of CAP_FEATURES. -/
def featureFlds : List Fld :=
  [R.CAP_FEATURES_ROLE_PROMPT, R.CAP_FEATURES_ROLE_GENERATION, R.CAP_FEATURES_ROLE_CACHE, R.CAP_FEATURES_ROLE_SCORE,
   R.CAP_FEATURES_ROLE_LEARN, R.CAP_FEATURES_MEZZOTINT, R.CAP_FEATURES_STIPPLE, R.CAP_FEATURES_LEARN_MATH,
   R.CAP_FEATURES_LINK_CRYPT]

/-- The licensed state: the OR of the features and the largest of each limit over the unlapsed licences (R373), applied as
one change of the descriptor. -/
def State.license (s : State) : State :=
  let ls := s.bld.licences.filter (!·.lapsed)
  let bits := featureFlds.zipIdx.map fun (f, i) => (f, bit (ls.any fun l => bitAt l.features i))
  s.capChange (bits ++ [(R.CAP_LIMITS_DELTA_SETS_MAX, (ls.map fun l => bitsOf l.limits 44 32).foldl max 0),
    (R.CAP_LIMITS_DOMAIN_MAX, (ls.map fun l => bitsOf l.limits 16 0).foldl max 0)])

/-- The stored licences replaced. -/
def State.setLicences (s : State) (l : List Licence) : State :=
  (s.onBld fun b => { b with licences := l }).setReg R.BLD_LIC_COUNT l.length

/-- The checks of R373 and the licence stored. -/
def State.installLicence (s : State) (bs : List Byte) : State × St :=
  let l := parseLicence bs s.tick
  if !licenceFormOk bs then (s, .licenceInvalid)
  else if numAt bs 0x40 64 ≠ s.nodeHash then (s, .licenceNode)
  else if !s.flezuSigned 3 (numAt bs 0x80 64) (numAt bs 0xC0 512) (bs.take 0xC0) then (s, .signatureInvalid)
  else if s.bld.licences.any (·.serial == l.serial) || 64 ≤ s.bld.licences.length then (s, .tableBusy)
  else (((s.setLicences (s.bld.licences ++ [l])).license.post .licenceInstalled 0xFFF (formO .ok s.node l.serial 0)).reReport, .ok)

/-- LIC_INSTALL. -/
def execLicInstall (p : HostPkt) (data : List Byte) (s : State) : Host.Outcome State Fault Refusal :=
  .next (s.prayr p 0x48 false true false (p.payloadOk && data.length == 704) fun ref t =>
    t.approved ref 0x48 (commandDigest 0x48 data) false (·.installLicence data))

/-- LIC_LIST entries; the remaining ticks of a perpetual licence are a value the spec does not state (log entry 24). -/
def State.licenceBytes (s : State) : List Licence → List Byte × State
  | [] => ([], s)
  | l :: ls =>
    let (left, t) := if l.duration = 0 then (Config.unstated s.fresh % 2 ^ 32, s.next.2) else (l.duration - s.elapsed l, s)
    let (bs, t) := t.licenceBytes ls
    (toBytes 8 l.serial ++ toBytes 8 (left * 2 ^ 32 + l.features) ++ bs, t)

/-- LIC_LIST. -/
def execLicList (p : HostPkt) (s : State) : Host.Outcome State Fault Refusal :=
  .next (s.prayr p 0x49 false true false p.payloadOk fun ref t =>
    let (bs, t) := t.licenceBytes t.bld.licences
    t.hostReply ref .ok bs)

/-- LIC_REMOVE. -/
def execLicRemove (p : HostPkt) (serial : Nat) (s : State) : Host.Outcome State Fault Refusal :=
  .next (s.prayr p 0x4A false true false p.payloadOk fun ref t =>
    if t.bld.licences.any (·.serial == serial) then
      ((t.setLicences (t.bld.licences.filter (·.serial != serial))).license.reReport).hostReply ref .ok []
    else t.hostReply ref .badParam [])

/-- The elapsed counts recorded in the NVM die, every 64 ticks. -/
def execLicenceTickRecord (s : State) : Host.Outcome State Fault Refusal :=
  .next (s.onBld fun b => { b with
    licences := b.licences.map fun l => if !l.lapsed && 64 ≤ s.tick - l.since then { l with
      recorded := s.elapsed l
      since := s.tick } else l })

/-- A licence reaches its DURATION_TICKS. -/
def execLicenceLapse (serial : Nat) (s : State) : Host.Outcome State Fault Refusal :=
  match s.bld.licences.find? (·.serial == serial) with
  | none => .next s
  | some l =>
    if l.lapsed ∨ l.duration = 0 ∨ s.elapsed l < l.duration then .next s
    else
      let t := s.onBld fun b => { b with
        licences := updateAll (·.serial == serial) (fun x => { x with
          lapsed := true
          recorded := x.duration }) b.licences }
      .next ((t.license.post .licenceLapsed 0xFFF (formO .ok s.node serial 0)).reReport)

end Sys2Proof.Machine
end

