-- ==== Sys2Proof/Machine/Images.lean ====
section
/-! DEFINITION. Firmware images (section 13.4), broadcast and repair (section 13.5). -/

namespace Sys2Proof.Machine

/-! ### Activation (R363 to R365) -/

/-- IMG_STATUS: BLD_IMG[0] to BLD_IMG[15]. -/
def execImgStatus (p : HostPkt) (s : State) : Host.Outcome State Fault Refusal :=
  .next (s.prayr p 0x45 false true true p.payloadOk fun ref t =>
    t.hostReply ref .ok ((List.range 16).flatMap fun k => toBytes 8 (t.rawReg (0x500100 + 8 * k))))

/-- Activating a slot would leave two active images more than one generation apart (R364). -/
def State.spread (s : State) (sub : Nat) (slotB : Bool) : Bool :=
  let gs := (List.range 9).filterMap fun k => (s.slot? k (if k = sub then slotB else s.nextSlot k)).map (·.generation)
  gs.any fun g => gs.any fun h => h + 1 < g

/-- A slot activated: at once for codes 0 to 3, else pending until the reset or TILE_SERVICE of Table 13.4. -/
def State.imgActivate (s : State) (sub : Nat) (slotB : Bool) : State :=
  let old := s.activeSlot sub
  let s := s.setReg (R.BLD_IMG_FELL_BACK sub) 0
  if sub ≤ 3 then
    let s := (s.activate sub slotB).onBld fun b => { b with health := b.health.filter (·.1 != sub) ++ [(sub, old)] }
    if sub = 3 then s.serdesNext (List.range s.ports) else s
  else if slotB = old then ((s.dropPending sub).fwGeneration).reReport
  else
    let s := (s.onBld fun b => { b with
      pendingSlot := b.pendingSlot.filter (·.1 != sub) ++ [(sub, slotB)]
      taken := if sub = 4 then [] else b.taken }).setReg (R.BLD_IMG_PENDING sub) 1
    s.fwGeneration.reReport

/-- IMG_ACTIVATE. -/
def execImgActivate (p : HostPkt) (subsystem : Nat) (slotB : Bool) (s : State) : Host.Outcome State Fault Refusal :=
  .next (s.prayr p 0x44 false true true p.payloadOk fun ref t =>
    if 8 < subsystem then t.hostReply ref .badParam []
    else if (t.slot? subsystem slotB).isNone || t.spread subsystem slotB then t.hostReply ref .badState []
    else (t.imgActivate subsystem slotB).hostReply ref .ok [])

/-- A subsystem reports healthy. -/
def execImageHealthy (subsystem : Nat) (s : State) : Host.Outcome State Fault Refusal :=
  .next (s.onBld fun b => { b with
    health := b.health.filter (·.1 != subsystem)
    hcpSince := if subsystem = 1 then none else b.hcpSince })

/-- A subsystem runs its other slot (R365). -/
def State.fallBack (s : State) (sub : Nat) (slotB : Bool) : State :=
  ((s.setReg (R.BLD_IMG_FELL_BACK sub) 1).activate sub slotB).post .imageFallback 0xFFF (formO .ok s.node sub 0)

/-- A subsystem has not reported healthy within 10 s. -/
def execImageHealthExpiry (subsystem : Nat) (s : State) : Host.Outcome State Fault Refusal :=
  match s.bld.health.find? (·.1 == subsystem) with
  | none => .next s
  | some (_, old) =>
    let t := (s.onBld fun b => { b with health := b.health.filter (·.1 != subsystem) }).fallBack subsystem old
    .next (if subsystem = 3 then t.serdesNext (List.range t.ports) else t)

/-! ### Manifests (R366) -/

/-- The fields of a manifest's 704 bytes. -/
def parseManifest (bs : List Byte) : Manifest :=
  let w := numAt bs 0 8
  { bytes := bs, kind := bitsOf w 43 42, subsystem := bitsOf w 35 32, fwGeneration := bitsOf w 31 16,
    length := bitsOf (numAt bs 8 8) 63 24, policyVersion := bitsOf (numAt bs 0x10 8) 63 32, imageHash := numAt bs 0x40 64,
    signerHash := numAt bs 0x80 64 }

/-- Check 1 of BCAST_OPEN: MAGIC, VERSION, KIND, Rsvd bits, and the fields a kind leaves 0. -/
def manifestFormOk (bs : List Byte) : Bool :=
  let w := numAt bs 0 8
  let m := parseManifest bs
  bitsOf w 63 44 == 0x1A6E1 && m.kind < 2 && bitsOf w 41 36 == 0 && bitsOf w 15 0 == 0 && bitsOf (numAt bs 8 8) 23 0 == 0
    && bitsOf (numAt bs 0x10 8) 31 0 == 0 && (bs.drop 0x18).take 40 == List.replicate 40 0
    && (if m.kind = 0 then m.policyVersion == 0 else m.fwGeneration == 0)

/-- Check 2: the signature by the key SIGNER_HASH names (R370). -/
def State.manifestSigned (s : State) (m : Manifest) : Bool :=
  let body := m.bytes.take 0xC0
  let sig := numAt m.bytes 0xC0 512
  if m.kind = 0 then s.flezuSigned 2 m.signerHash sig body
  else s.sec.approvers.any fun a => keyHash a.2 == m.signerHash && rsaVerify a.2 sig body

/-- Chunks of an image. -/
def Manifest.chunks (m : Manifest) : Nat := (m.length + 65535) / 65536

/-! ### Sessions (R375) -/

/-- The session of a number. -/
def State.session? (s : State) (n : Nat) : Option Bcast := s.bld.sessions.find? (·.o.session == n)

/-- A session put back. -/
def State.putSession (s : State) (b : Bcast) : State :=
  s.onBld fun x => { x with sessions := upsert (·.o.session == b.o.session) b x.sessions }

/-- STATE of a session. -/
def State.sessionState (s : State) (b : Bcast) : Nat := s.reg (R.BLD_BCAST_A_STATE b.k)

/-- The memory an image lies in. -/
def Bcast.mem (b : Bcast) : Mem := if b.inRec then .recovery else .hbm

/-- Check 3 of BCAST_OPEN. In RECOVERY without a passed stage 5 only the recovery buffer is open, at DEST = 0 (R357). -/
def State.bcastArgsOk (s : State) (o : BcastOpen) (m : Manifest) (children peers : List Nat) : Bool :=
  let rec_ := decide (s.bld.node = .recovery) && !s.bld.hbmOk
  (if m.kind = 0 then m.subsystem ≤ 8 && m.length ≤ 2 ^ 26 else m.subsystem == 0) && 1 ≤ m.length
    && children.length ≤ 16 && peers.length ≤ 16 && o.dest % 65536 == 0
    && (if rec_ then o.dest == 0 && m.length ≤ 2 ^ 26 else s.hbmFree o.dest m.length)

/-- A session opened at the lowest free register. -/
def State.openSession (s : State) (o : BcastOpen) (m : Manifest) (children peers : List Nat) : State :=
  let k := ((List.range 16).find? fun k => !s.bld.sessions.any (·.k == k)).getD 0
  let b : Bcast := { k := k, o := o, manifest := m, inRec := decide (s.bld.node = .recovery) && !s.bld.hbmOk,
                     children := children, peers := peers, packets := [], held := [], begun := false, ended := false,
                     forwarded := false, asked := [], rounds := 0, queryLeft := [], repairPeers := [], writing := false,
                     sending := false }
  (s.onBld fun x => { x with sessions := x.sessions ++ [b] }).setRegs
    [(R.BLD_BCAST_A_STATE k, 1), (R.BLD_BCAST_A_KIND k, m.kind), (R.BLD_BCAST_A_SESSION k, o.session),
     (R.BLD_BCAST_A_PARENT k, o.parent), (R.BLD_BCAST_B_CHUNKS k, m.chunks), (R.BLD_BCAST_B_HELD k, 0),
     (R.BLD_BCAST_C_REPAIRS k, 0), (R.BLD_BCAST_C_CRC_FAILS k, 0), (R.BLD_BCAST_C_STATUS k, 0)]

/-- BCAST_OPEN. -/
def execBcastOpen (p : HostPkt) (o : BcastOpen) (manifest : List Byte) (children peers : List Nat) (s : State) :
    Host.Outcome State Fault Refusal :=
  .next (s.prayr p 0x40 false true true
    (p.payloadOk && o.rsvdOk && manifest.length == 704 && children.length < 32 && peers.length < 32) fun ref t =>
    let m := parseManifest manifest
    if !manifestFormOk manifest then t.hostReply ref .imageInvalid []
    else if !t.manifestSigned m then t.hostReply ref .signatureInvalid []
    else if !t.bcastArgsOk o m children peers then t.hostReply ref .badParam []
    else if (t.session? o.session).isSome || 16 ≤ t.bld.sessions.length then t.hostReply ref .tableBusy []
    else (t.openSession o m children peers).hostReply ref .ok [])

/-- BCAST_STATUS. -/
def execBcastStatus (p : HostPkt) (session : Nat) (s : State) : Host.Outcome State Fault Refusal :=
  .next (s.prayr p 0x42 false true true p.payloadOk fun ref t =>
    match t.session? session with
    | none => t.hostReply ref .badParam []
    | some b => t.hostReply ref .ok ((List.range 3).flatMap fun i => toBytes 8 (t.rawReg (0x501000 + 32 * b.k + 8 * i))))

/-- The reply a session's BCAST_SEND waits for. -/
def State.sendReply (s : State) (session : Nat) (st : St) : State :=
  match s.hcp.later.findSome? fun l => match l with
    | .bcastSend ref n => if n = session then some ref else none
    | _ => none with
  | none => s
  | some ref => (s.onHcp fun h => { h with later := dropFirst (.bcastSend ref session) h.later }).hostReply ref st []

/-- A session back in FREE. -/
def State.closeSession (s : State) (b : Bcast) : State :=
  let s := (s.onBld fun x => { x with sessions := x.sessions.filter (·.k != b.k) }).setRegs
    [(R.BLD_BCAST_A_STATE b.k, 0), (R.BLD_BCAST_A_KIND b.k, 0), (R.BLD_BCAST_A_SESSION b.k, 0), (R.BLD_BCAST_A_PARENT b.k, 0),
     (R.BLD_BCAST_B_CHUNKS b.k, 0), (R.BLD_BCAST_B_HELD b.k, 0), (R.BLD_BCAST_C_REPAIRS b.k, 0),
     (R.BLD_BCAST_C_CRC_FAILS b.k, 0), (R.BLD_BCAST_C_STATUS b.k, 0)]
  s.sendReply b.o.session .badState

/-- BCAST_CLOSE (R377). -/
def execBcastClose (p : HostPkt) (session : Nat) (s : State) : Host.Outcome State Fault Refusal :=
  .next (s.prayr p 0x43 false true false p.payloadOk fun ref t =>
    match t.session? session with
    | none => t.hostReply ref .badParam []
    | some b => (t.closeSession b).hostReply ref .ok [])

/-- A session FAILED, with IMAGE_REJECTED. -/
def State.failSession (s : State) (b : Bcast) (st : St) : State :=
  ((s.setRegs [(R.BLD_BCAST_A_STATE b.k, 3), (R.BLD_BCAST_C_STATUS b.k, st.code)]).post .imageRejected 0xFFF
    (formO st s.node b.o.session 0)).sendReply b.o.session st

/-- A session COMPLETE. -/
def State.completeSession (s : State) (b : Bcast) : State :=
  ((s.putSession { b with
    writing := false
    asked := []
    queryLeft := [] }).setRegs [(R.BLD_BCAST_A_STATE b.k, 2), (R.BLD_BCAST_C_STATUS b.k, 0)]).post .imageComplete 0xFFF
      (formO .ok s.node b.o.session 0)

/-! ### Packets (R367, R368) -/

/-- Bytes of a chunk. -/
def Bcast.chunkLen (b : Bcast) (c : Nat) : Nat := min 65536 (b.manifest.length - 65536 * c)

/-- Packets of a chunk. -/
def Bcast.chunkPackets (b : Bcast) (c : Nat) : Nat := (b.chunkLen c + 4095) / 4096

/-- A chunk's bytes as they stand at this node. -/
def State.chunkBytes (s : State) (b : Bcast) (c : Nat) : List Byte := s.rdBytes b.mem (b.o.dest + 65536 * c) (b.chunkLen c)

/-- A chunk sent to a node, packet by packet. -/
def State.sendChunk (s : State) (b : Bcast) (dst c : Nat) : State :=
  let crc := crc32c (s.chunkBytes b c)
  (List.range (b.chunkPackets c)).foldl (fun s i =>
    let off := 65536 * c + 4096 * i
    let n := min 4096 (b.manifest.length - off)
    let f := mkFrame s.node dst true
      (.bcast ⟨b.o.session, i, off, b.manifest.length, crc, s.rdBytes b.mem (b.o.dest + off) n⟩)
    s.inject none { f with poison := (s.poisoned b.mem (b.o.dest + off) n).isSome }) s

/-- Consecutive numbers of a rising list as runs: first and count. -/
def runs : List Nat → List (Nat × Nat)
  | [] => []
  | c :: cs =>
    match runs cs with
    | (f, n) :: rest => if f = c + 1 then (c, n + 1) :: rest else (c, 1) :: (f, n) :: rest
    | [] => [(c, 1)]

/-- Chunks not held. -/
def Bcast.missing (b : Bcast) : List Nat := (List.range b.manifest.chunks).filter fun c => !b.held.contains c

/-- A chunk lies in a range asked for. -/
def inRanges (l : List (Nat × Nat × Nat)) (c : Nat) : Bool := l.any fun r => r.2.1 ≤ c && c < r.2.1 + r.2.2

/-- REPAIR_REQ for missing ranges, at most 4 outstanding (R369). -/
def State.askRepair (s : State) (b : Bcast) (node : Nat) : State :=
  let rs := (runs (b.missing.filter fun c => !inRanges b.asked c)).take (4 - b.asked.length)
  let s := s.putSession { b with asked := b.asked ++ rs.map fun r => (node, r.1, r.2) }
  let s := s.count (R.BLD_BCAST_C_REPAIRS b.k) rs.length
  rs.foldl (fun s r => s.sendMsg node (.repairReq b.o.session r.1 r.2)) s

/-- The node a session repairs from: the last complete peer, else its parent. -/
def Bcast.repairFrom (b : Bcast) : Nat := b.repairPeers.getLast?.getD b.o.parent

/-- A full chunk verified against KEY; a mismatch clears its packets. -/
def State.verifyChunk (s : State) (b : Bcast) (c crc : Nat) : State :=
  let b := { b with packets := b.packets.filter (·.1 != c) }
  if crc32c (s.chunkBytes b c) = crc then
    let held := b.held ++ [c]
    let b := { b with
      held := held
      asked := b.asked.filter fun r => !((List.range r.2.2).all fun i => held.contains (r.2.1 + i)) }
    let s := (s.putSession b).setReg (R.BLD_BCAST_B_HELD b.k) held.length
    if 1 ≤ b.rounds ∧ b.missing ≠ [] then s.askRepair b b.repairFrom else s
  else (s.putSession b).bump (R.BLD_BCAST_C_CRC_FAILS b.k)

/-- A packet accepted by its session: written, forwarded when its bit is new, its chunk verified when full. -/
def State.takePacket (s : State) (b : Bcast) (f : Frame) (m : BcastMsg) : State :=
  let c := m.offset / 65536
  let i := m.offset / 4096 % 16
  let s := s.place b.mem (b.o.dest + m.offset) m.data f.poison
  if b.held.contains c || b.packets.contains (c, i) then s.putSession { b with begun := true }
  else
    let b := { b with
      begun := true
      packets := b.packets ++ [(c, i)] }
    let s := (s.putSession b).injectAll none (b.children.map fun n =>
      { mkFrame s.node n true (.bcast m) with poison := f.poison })
    if (b.packets.filter (·.1 == c)).length = b.chunkPackets c then s.verifyChunk b c m.crc else s

/-- A BCAST packet. -/
def execBcastPacket (f : Frame) (s : State) : Host.Outcome State Fault Refusal :=
  let s := s.takeFrame f
  match f.body with
  | .bcast m =>
    match s.session? m.session with
    | some b =>
      if (s.sessionState b == 1 || s.sessionState b == 2) && ((!b.o.root && f.src == b.o.parent) || b.repairPeers.contains f.src)
          && m.offset + m.data.length ≤ b.manifest.length then .next (s.takePacket b f m)
      else .next (s.bump (R.FAB_DIE_STATS_UNKNOWN_DROPS 0))
    | none => .next (s.bump (R.FAB_DIE_STATS_UNKNOWN_DROPS 0))
  | _ => .next s

/-! ### Session messages (R369) -/

/-- A session that still receives. -/
def State.receiving? (s : State) (n : Nat) : Option Bcast := (s.session? n).filter fun b => s.sessionState b == 1

/-- The first round of repair: the parent is asked. -/
def State.firstRepair (s : State) (b : Bcast) : State :=
  if b.rounds = 0 ∧ b.missing ≠ [] then s.askRepair { b with rounds := 1 } b.o.parent else s

/-- BCAST_END: forwarded once, and repair of missing chunks begins. -/
def execBcastEnd (src session chunks : Nat) (s : State) : Host.Outcome State Fault Refusal :=
  let s := s.takeMsg src (.bcastEnd session chunks)
  match s.session? session with
  | none => .next (s.bump (R.FAB_DIE_STATS_UNKNOWN_DROPS 0))
  | some b =>
    if b.o.root ∨ src ≠ b.o.parent ∨ s.sessionState b = 3 then .next s
    else
      let c := { b with
        ended := true
        forwarded := true }
      let s := s.putSession c
      let s := if b.forwarded then s else s.sendMsgs (.bcastEnd session chunks) b.children
      .next (if s.sessionState b = 1 then s.firstRepair c else s)

/-- REPAIR_REQ answered: held chunks resent, the others refused. -/
def State.serveRepair (s : State) (b : Bcast) (src first count : Nat) : State :=
  let top := b.manifest.chunks
  let asked := (List.range (min (first + count) top - first)).map (first + ·)
  let have_ := fun c => b.held.contains c && s.sessionState b != 3
  let beyond := if top < first + count then [(max first top, first + count - max first top)] else []
  let s := (asked.filter have_).foldl (fun s c => s.sendChunk b src c) s
  (runs (asked.filter fun c => !have_ c) ++ beyond).foldl (fun s r => s.sendMsg src (.repairNak b.o.session r.1 r.2)) s

/-- REPAIR_REQ at the node asked. -/
def execRepairReq (src session first count : Nat) (s : State) : Host.Outcome State Fault Refusal :=
  let s := s.takeMsg src (.repairReq session first count)
  match s.session? session with
  | none => .next (s.bump (R.FAB_DIE_STATS_UNKNOWN_DROPS 0))
  | some b => .next (s.serveRepair b src first count)

/-- STATUS_QUERY to the peers in list order, unless answers are awaited already. -/
def State.queryPeers (s : State) (b : Bcast) : State :=
  if b.queryLeft ≠ [] then s.putSession b
  else (s.putSession { b with queryLeft := b.peers }).sendMsgs (.statusQuery b.o.session) b.peers

/-- REPAIR_NAK: the peers are queried. -/
def execRepairNak (src session first count : Nat) (s : State) : Host.Outcome State Fault Refusal :=
  let s := s.takeMsg src (.repairNak session first count)
  match s.receiving? session with
  | none => .next (if (s.session? session).isNone then s.bump (R.FAB_DIE_STATS_UNKNOWN_DROPS 0) else s)
  | some b =>
    if b.asked.any fun r => r.1 == src && r.2.1 < first + count && first < r.2.1 + r.2.2 then
      .next (s.queryPeers { b with
        asked := b.asked.filter fun r => !(r.1 == src && r.2.1 < first + count && first < r.2.1 + r.2.2) })
    else .next s

/-- STATUS_QUERY at a peer. -/
def execStatusQuery (src session : Nat) (s : State) : Host.Outcome State Fault Refusal :=
  let s := s.takeMsg src (.statusQuery session)
  match s.session? session with
  | none => .next (s.bump (R.FAB_DIE_STATS_UNKNOWN_DROPS 0))
  | some b => .next (s.sendMsg src (.statusReply session b.held.length (s.sessionState b == 2)))

/-- STATUS_REPLY: repair from the first complete peer. -/
def execStatusReply (src session held : Nat) (complete : Bool) (s : State) : Host.Outcome State Fault Refusal :=
  let s := s.takeMsg src (.statusReply session held complete)
  match s.receiving? session with
  | none => .next (if (s.session? session).isNone then s.bump (R.FAB_DIE_STATS_UNKNOWN_DROPS 0) else s)
  | some b =>
    if !b.queryLeft.contains src then .next s
    else if complete then
      .next (s.askRepair { b with
        queryLeft := []
        repairPeers := b.repairPeers.filter (· != src) ++ [src] } src)
    else .next (s.putSession { b with queryLeft := b.queryLeft.filter (· != src) })

/-- REPAIR_WAIT_US without progress: the next round, or the session FAILED after REPAIR_ROUNDS of them. -/
def execRepairWaitExpiry (session : Nat) (s : State) : Host.Outcome State Fault Refusal :=
  match s.receiving? session with
  | none => .next s
  | some b =>
    if b.o.root ∨ (b.begun = false ∧ b.ended = false) ∨ b.missing = [] then .next s
    else if b.o.repairRounds ≤ b.rounds then .next (s.failSession b .imageIncomplete)
    else if b.rounds = 0 then .next (s.firstRepair b)
    else
      let c := { b with
        rounds := b.rounds + 1
        asked := []
        queryLeft := [] }
      .next (if b.peers.isEmpty then s.askRepair c b.o.parent else s.queryPeers c)

/-! ### Acceptance (R370, R371) -/

/-- BCAST_SEND: the root's own image is to be hashed first. -/
def execBcastSend (p : HostPkt) (session : Nat) (s : State) : Host.Outcome State Fault Refusal :=
  .next (s.prayr p 0x41 false true true p.payloadOk fun ref t =>
    match t.session? session with
    | none => t.hostReply ref .badParam []
    | some b =>
      if !b.o.root || b.sending || t.sessionState b != 1 then t.hostReply ref .badState []
      else (t.putSession { b with sending := true }).onHcp fun h => { h with later := h.later ++ [.bcastSend ref session] })

/-- The image sent down the tree, and BCAST_END after it. -/
def State.sendImage (s : State) (b : Bcast) : State :=
  let s := b.children.foldl (fun s n => (List.range b.manifest.chunks).foldl (fun s c => s.sendChunk b n c) s) s
  s.sendMsgs (.bcastEnd b.o.session b.manifest.chunks) b.children

/-- The image's bytes have IMAGE_HASH, and none is poisoned. -/
def State.imageOk (s : State) (b : Bcast) : Bool :=
  (s.poisoned b.mem b.o.dest b.manifest.length).isNone
    && sha512 (s.rdBytes b.mem b.o.dest b.manifest.length) == b.manifest.imageHash

/-- The hash of an image whose every chunk is held, or of the root's own, is compared. -/
def execImageHashDone (session : Nat) (s : State) : Host.Outcome State Fault Refusal :=
  match s.receiving? session with
  | none => .next s
  | some b =>
    if b.writing = true ∨ (if b.o.root then b.sending = false else b.missing ≠ []) then .next s
    else if !s.imageOk b then .next (s.failSession b .imageInvalid)
    else
      let b := { b with
        held := List.range b.manifest.chunks
        writing := b.manifest.kind == 0 }
      let s := (s.putSession b).setReg (R.BLD_BCAST_B_HELD b.k) b.manifest.chunks
      let s := if b.o.root then (s.sendReply session .ok).sendImage b else s
      .next (if b.manifest.kind = 0 then s else s.completeSession b)

/-- An accepted FIRMWARE image in its slot: an activation pending for that slot is cancelled (R364). -/
def State.writeSlot (s : State) (m : Manifest) : State :=
  let slotB := !s.activeSlot m.subsystem
  let s := s.onBld fun x => { x with
    slots := upsert (fun y => y.subsystem == m.subsystem && y.slotB == slotB) ⟨m.subsystem, slotB, m.fwGeneration, m.imageHash⟩ x.slots }
  let s := s.setReg (if slotB then R.BLD_IMG_GEN_B m.subsystem else R.BLD_IMG_GEN_A m.subsystem) m.fwGeneration
  if s.bld.pendingSlot.contains (m.subsystem, slotB) then (s.dropPending m.subsystem).fwGeneration.reReport else s

/-- A firmware image is in its slot. -/
def execImageSlotWriteDone (session : Nat) (s : State) : Host.Outcome State Fault Refusal :=
  match s.receiving? session with
  | none => .next s
  | some b => .next (if b.writing then (s.writeSlot b.manifest).completeSession b else s)

end Sys2Proof.Machine
end

