-- ==== Sys2Proof/Machine/Reset.lean ====
section
/-! DEFINITION. Resets (section 13.1), supply resets (R406) and boot stages (section 13.2). -/

namespace Sys2Proof.Machine

/-! ### Cold starts and warm resets (R351, R352) -/

/-- The field at a key is kept through a cold start and a warm reset: its reset column reads "restored", or the NVM die holds
it (R352, R402). -/
def restored (cold : Bool) (key : Nat) : Bool :=
  let a := key / 64
  let f := fun (x : Fld) => key == x.key
  (0x10010 ≤ a && a < 0x10058) || (0x11000 ≤ a && a < 0x11200)
    || f R.PHS_PHASE_ROLE || f R.PHS_PHASE_PHASE || f R.PHS_POLICY_CURRENT || f R.FAB_ASSIGN_VALID || f R.FAB_ASSIGN_NUMBER
    || f R.FAB_KEY_POLICY_LOCK || f R.FAB_KEY_POLICY_SPACE3_READ_ANY || f R.BLD_BOOT_LAST_RESET || f R.BLD_BOOT_START_COUNT
    || f R.BLD_HBM_RETIRED || a == 0x500020 || a == 0x500028
    || (0x500100 ≤ a && a < 0x500180 && !(List.range 16).any fun s => f (R.BLD_IMG_PENDING s) || f (R.BLD_IMG_FELL_BACK s))
    || f R.SEC_STATE_APPROVERS || f R.SEC_STATE_SEALED || f R.SEC_STATE_HOST_LOCK || (!cold && f R.SEC_STATE_DEBUG_STICKY)
    || a == 0x600008 || (0x600200 ≤ a && a < 0x600280) || a == 0x700038

/-- The register file after a cold start or a warm reset. -/
def State.resetRegs (s : State) (cold : Bool) : State :=
  { s with regs := s.regs.filter fun p => restored cold p.1 }.setRegs (if s.small then smallRegs else [])

/-- A home record after a warm reset, given the change of it that waited for the deputy: no offer is out (R45), a record not yet
admitted is gone, an unacknowledged placement or move is undone, and a change R35 does not refuse is made again. A RESUME that was
held went with the host port. -/
def HomeRec.warm (h : HomeRec) (p : Option MirrorPend) : Option HomeRec :=
  let h := { h with placing := none, heldResume := none }
  match p with
  | none => some h
  | some p =>
    match p.change with
    | .submit _ => none
    | .place _ | .move .. => some (match p.prior with
        | some k => { k with
          r := { k.r with mirrorSeq := h.r.mirrorSeq, cancelSeen := h.r.cancelSeen }
          placing := none
          heldResume := none
          waits := h.waits }
        | none => h)
    | .recover _ | .restart _ | .repair _ | .rebase | .reclaim => some { h with deferred := some p.change }
    | _ => some h

/-- The directory after a warm reset: home records stand as `HomeRec.warm` has them; copies the node owns are kept and in doubt,
with no step of theirs left (R32, R58); a copy not yet owned is lost with the pulls it waited for. -/
def Rse.warm (e : Rse) (node : Nat) : Rse :=
  { e with
    homes := e.homes.filterMap fun h => h.warm (e.mirrorOut.find? fun p => p.id == h.r.id && decide (p.change ≠ .note))
    works := (e.works.filter fun w => decide (w.status = .owned)).map fun w => { w with
      step := none
      pulls := []
      doubt := !(idHome w.r.id == node || e.adopted.contains (idHome w.r.id))
      throughWait := 0 }
    bind := .none
    boundFrom := none
    resyncNeeded := true
    mirrorOut := []
    heldQueries := []
    unreachable := []
    probes := [] }

/-- The directory after a cold start: lost, to be rebuilt from the mirror (R38). -/
def Rse.cold (e : Rse) : Rse :=
  { Rse.reset with
    resyncNeeded := true
    rebuild := true
    generation := e.generation }

/-- The page engine after a warm reset: the page map is kept, what was in flight is gone. -/
def Pge.warm (g : Pge) : Pge :=
  { g with
    pages := (g.pages.filter (!·.freeing)).map fun p => { p with migrating := false }
    migrations := []
    parityPends := []
    rebuilds := []
    xlate := []
    switches := []
    orphaned := []
    aborted := [] }

/-- What a cold start and a warm reset leave beside the registers. -/
def State.lose (s : State) (cold : Bool) : State :=
  { s with
    hbm := if cold then [] else s.hbm
    tileBuf := []
    opBuf := []
    recBuf := []
    hbmPoison := if cold then [] else s.hbmPoison
    tilePoison := []
    opPoison := []
    rse := if cold then s.rse.cold else s.rse.warm s.node
    pge := if cold then .reset else s.pge.warm
    mzt := .reset
    cores := []
    exp := .reset
    sch := .reset
    phs := .reset
    fab := { Fab.reset with incarnation := s.fab.incarnation }
    xfr := .reset
    syn := .reset
    hcp := { Hcp.reset with
      nextRef := s.hcp.nextRef
      i3c := s.hcp.i3c }
    bld := { s.bld with
      stage := 0
      hbmOk := false
      railHold := none
      pendingSlot := []
      health := []
      hcpSince := none
      taken := []
      serdesLeft := []
      sessions := []
      spared := []
      cleared := if cold then [] else s.bld.cleared
      retire := none
      resetAfterCopy := none
      barAborts := []
      testing := []
      licences := s.bld.licences.map fun l => { l with since := s.tick } }
    sec := { s.sec with
      sets := []
      identityKey := none
      debugUntil := none }
    pcr := { Pcr.reset with
      ref25 := s.pcr.ref25
      ref156 := s.pcr.ref156
      thermTripPin := s.pcr.thermTripPin }
    evt := .reset }

/-- A warm reset activates what waits for it (Table 13.4, codes 6 to 8). -/
def State.warmSlots (s : State) : State :=
  ((s.bld.pendingSlot.filter fun x => 6 ≤ x.1).map fun x => (R.BLD_IMG_ACTIVE x.1, bit x.2)).foldl (fun s p => s.setReg p.1 p.2) s

/-- A start is counted and its kind recorded (R355). -/
def State.countStart (s : State) (k : ResetKind) : State :=
  (s.onBld fun b => { b with
    kind := k
    since := s.aon }).setRegs [(R.BLD_BOOT_START_COUNT, s.reg R.BLD_BOOT_START_COUNT + 1), (R.BLD_BOOT_LAST_RESET, k.code)]

/-- A boot stage begins. -/
def State.enterStage (s : State) (n : Nat) : State :=
  (s.onBld fun b => { b with stage := n }).setReg R.BLD_BOOT_STAGE n

/-- A start raises GENERATION and INCARNATION (R21, R251, Table 13.1). -/
def State.newStart (s : State) : State :=
  (s.onRse Rse.newGeneration).onFab fun f => { f with incarnation := (f.incarnation + 1) % 256 }

/-- QUEUED records that a warm reset has kept join Burin's queue again, in the directory's order (R45, R194). -/
def State.requeue (s : State) : State :=
  ((s.rse.homes.filter fun h => decide (h.r.state = .queued)).map (·.r.id)).foldl State.enqueue s

/-- Records of SUBMITs the deputy has not acknowledged are given up with their history (R35). -/
def State.dropSubmits (s : State) : State :=
  (s.rse.mirrorOut.filter fun p => match p.change with
    | .submit _ => true
    | _ => false).foldl (fun s p => s.dropHome p.id) s

/-- A cold start or a warm reset begins. Sequence numbers start at (START_COUNT mod 2^24) * 2^40 (R425). -/
def State.fullReset (s : State) (k : ResetKind) : State :=
  let cold := decide (k = .cold)
  let s := if cold then s else s.warmSlots.dropSubmits
  let s := ((s.lose cold).newStart.requeue.resetRegs cold).countStart k
  let seq := s.reg R.BLD_BOOT_START_COUNT % 2 ^ 24 * 2 ^ 40
  let s := (s.onBld fun b => { b with
    node := .booting
    off := false }).setRegs [(R.EVT_HEAD_NEXT_SEQ, seq), (R.EVT_OLDEST_OLDEST_SEQ, seq)]
  s.enterStage (if cold then 1 else 2)

/-- 48 V becomes valid, or RST_N is asserted: a cold start, which releases THERM_TRIP_N (R413). -/
def execColdStart (pin : Bool) (s : State) : Host.Outcome State Fault Refusal :=
  .next (((s.fullReset .cold).onBld fun b => { b with
    rstN := pin
    tripped := false }).onPcr fun p => { p with thermTripPin := false })

/-- The management controller's watchdog; it does not run while the rails are off or the node is FAILED. -/
def execWatchdogExpiry (s : State) : Host.Outcome State Fault Refusal :=
  .next (if s.bld.off ∨ s.bld.node = .failed ∨ s.bld.stage = 0 then s else s.fullReset .warm)

/-! ### Supply resets (R406) -/

/-- PCR_LAST_TRIP written. -/
def State.recordTrip (s : State) (st : St) (cause source : Nat) : State :=
  s.setRegs [(R.PCR_LAST_TRIP_STATUS, st.code), (R.PCR_LAST_TRIP_CAUSE, cause), (R.PCR_LAST_TRIP_SOURCE, source),
    (R.PCR_LAST_TRIP_START_COUNT, s.reg R.BLD_BOOT_START_COUNT)]

/-- Every rail but the always-on domain off, with the cause recorded: what a cold start loses is lost now, and the node waits
for one. -/
def State.railsOff (s : State) (st : St) (cause source : Nat) : State :=
  (((s.recordTrip st cause source).lose true).resetRegs true).onBld fun b => { b with
    node := .booting
    off := true }

/-! ### Compute-only resets (R353) -/

/-- A started request of a transfer queue ends with ST_NODE_RESETTING; its queue does not enter ERROR and goes on at its next
request (R274). The slot of a READ is quiet from here (R289); the bytes of a WRITE to the node itself count as landed (R254). -/
def State.dropFlight (s : State) (r : XReq) : State :=
  let s := (s.onXfr fun t => { t with flights := t.flights.filter fun x => !(x.q == r.q && x.idx == r.idx) }).writeDone r.q r.idx
    .nodeResetting
  let s := match r.prog with
    | .read tag _ landed _ => s.onXfr fun t => { t with quiet := t.quiet ++ [(⟨tag, landed⟩ : QuietSlot)] }
    | .copy => if r.wr.op = 1 then s.account s.node r.wr.length else s
    | _ => s
  let x := s.xq r.q
  let (c, done) := advanceDone (x.done.length + 1) (s.reg (R.XFR_Q_C_COMPLETED r.q)) (x.done ++ [r.idx])
  ((((s.putXq { x with done := done }).setReg (R.XFR_Q_C_COMPLETED r.q) c).bump R.XFR_SRC_STATS_COMPLETED).bump
    R.XFR_SRC_STATS_FAILED).endFlush r.q

/-- The transfer engines reset: what has started ends, device queues and every queue but the host's are flushed, message
state is kept with its unfinished messages failed (R274, R287). -/
def State.resetXfr (s : State) : State :=
  let s := s.xfr.flights.foldl State.dropFlight s
  let s := (List.range 64).foldl State.flushDeviceQueue s
  let qs := (List.range 1024).filter fun q => 64 ≤ q && s.flag (R.XFR_Q_A_VALID q) && s.reg (R.XFR_Q_A_CONTEXT q) != 0xFFF
  (qs.foldl State.flushQueue s).failMessages .nodeResetting

/-- Sync units reset: counters 0 and unowned but for the post counters of VALID queues; barriers COLLECTING with no arrival
(R274, R314). -/
def State.resetSync (s : State) : State :=
  let bars := (List.range 4096).filter fun b => s.reg (R.SYN_BAR_A_STATE b) != 0
  let held := bars.filter fun b => s.reg (R.SYN_BAR_A_ARRIVED b) != 0 || s.reg (R.SYN_BAR_B_EARLY b) != 0
    || s.reg (R.SYN_BAR_A_STATE b) == 2
  let s := s.onSyn fun y => { y with
    counters := y.counters.filter fun p => s.excluded p.1
    owners := []
    ackWait := [] }
  let s := bars.foldl (fun s b => s.setRegs [(R.SYN_BAR_A_STATE b, 1), (R.SYN_BAR_A_ARRIVED b, 0), (R.SYN_BAR_B_EARLY b, 0),
    (R.SYN_BAR_B_ACKS_PENDING b, 0), (R.SYN_BAR_A_OWNER b, 0xFFF)]) s
  s.onBld fun b => { b with barAborts := b.barAborts ++ held.filter (!b.barAborts.contains ·) }

/-- Tiles reset: their cores, buffers and per-tile registers (R352); an offline tile's state ends with the reset (R361). -/
def State.resetTiles (s : State) : State :=
  let s := (s.bld.testing.foldl (fun s t => s.onlineReply t .nodeResetting) s).refuseQueue .nodeResetting
  { s with
    cores := []
    tileBuf := []
    opBuf := []
    tilePoison := []
    opPoison := []
    regs := s.regs.filter fun p => p.1 / 64 < 0x1000000 || 0x3000000 ≤ p.1 / 64
    fab := { s.fab with remotes := s.fab.remotes.filter fun o => match o.who with
      | .csr _ => true
      | _ => false }
    mzt := .reset
    bld := { s.bld with testing := [] }
    pcr := { s.pcr with gatedTiles := List.range 32 } }

/-- Every context gone: binds released, one CONTEXT_CLOSED for all, a running context command ended (R353, step 3). -/
def State.closeAll (s : State) : State :=
  let cs := s.sch.ctxs.map (·.num)
  let s := cs.foldl State.releaseBinds s
  let s := match s.sch.busy with
    | some (_, c) => s.ctxCmdDone c .nodeResetting
    | none => s
  let s := if cs.contains (s.reg R.MZT_CTRL_CONTEXT) then s.setReg R.MZT_CTRL_SERVE 0 else s
  let s := s.onSch fun b => { Sch.reset with
    queuedSeq := b.queuedSeq
    queuedCounter := b.queuedCounter }
  let s := s.resetXfr
  let s := s.onRse fun e => { e with homes := e.homes.map fun h => { h with placing := none } }
  s.post .contextClosed 0xFFF (formC .nodeResetting 0 CloseCause.computeReset.code 0 0)

/-- Every delta slot emptied, by KIND 3 (Table 13.1). -/
def State.emptySlots (s : State) : State :=
  let gone := s.exp.slots
  let s := s.onExp fun e => { e with slots := [] }
  let s := match s.exp.busy with
    | some (.dsetLoad ..) => (s.onExp fun e => { e with busy := none }).setRegs
        [(R.EXP_CMD_STATUS_BUSY, 0), (R.EXP_CMD_STATUS_STATUS, St.nodeResetting.code)]
    | _ => s
  gone.foldl (fun s t => s.post .deltaSetFreed 0xFFF (formO .ok s.node t.slot 0)) s

/-- A phase turn in progress is abandoned, and ADMIT reads 0 (R210, R354). -/
def State.abandonTurn (s : State) : State :=
  (s.onPhs fun _ => Phs.reset).setRegs [(R.PHS_PHASE_STATE, 0), (R.PHS_CTRL_ADMIT, 0), (R.PHS_TURN_GO, 0)]

/-- Steps 2 to 5 of R353: the node is TRANSIT_ONLY from here to the end of stage 8. The standing report follows LAST_RESET and
START_COUNT (R387). -/
def State.computeReset (s : State) (k : ResetKind) : State :=
  let s := (s.onBld fun b => { b with node := NodeState.computeReset }).countStart k |>.reReport
  let s := (s.flowAll (s.fab.ins.map (·.src))).closeAll
  let s := (s.resetSync.resetTiles).abandonTurn
  let s := (s.onPge Pge.warm).onRse Rse.newGeneration
  let s := if k = .scrub then s.emptySlots else s
  (s.relock.setReg R.BLD_SERVICE_OFFLINE 0).enterStage 6

/-- A compute-only reset asked for: at once with the RESET reply before it, or when a channel copy completes (R354). -/
def State.askCompute (s : State) (k : ResetKind) (ref : Option Nat) : State :=
  if s.bld.retire.any (·.copying) then s.onBld fun b => { b with resetAfterCopy := some (k, ref) }
  else
    let s := match ref with
      | some r => s.hostReply r .ok []
      | none => s
    s.computeReset k

/-- A reset is in progress, or waits for a channel copy. -/
def State.resetting (s : State) : Bool :=
  decide (s.bld.node = .booting ∨ s.bld.node = .computeReset) || s.bld.resetAfterCopy.isSome

/-- RESET with KIND 1. -/
def execResetWarm (p : HostPkt) (s : State) : Host.Outcome State Fault Refusal :=
  .next (s.prayr p 0x31 false true true p.payloadOk fun ref t =>
    if t.resetting then t.hostReply ref .badState [] else (t.hostReply ref .ok []).fullReset .warm)

/-- RESET with KIND 2 or 3; a node in RECOVERY has not the compute side that it restarts. -/
def State.resetCmd (s : State) (p : HostPkt) (k : ResetKind) : State :=
  s.prayr p 0x31 false true true p.payloadOk fun ref t =>
    if t.resetting || decide (t.bld.node ≠ .ready) then t.hostReply ref .badState [] else t.askCompute k (some ref)

/-- RESET with KIND 2. -/
def execResetCompute (p : HostPkt) (s : State) : Host.Outcome State Fault Refusal := .next (s.resetCmd p .compute)

/-- RESET with KIND 3. -/
def execResetComputeScrub (p : HostPkt) (s : State) : Host.Outcome State Fault Refusal := .next (s.resetCmd p .scrub)

/-! ### Boot stages (R356, R357) -/

/-- Several subsystems whose active slot fails verification run their other slot, where it holds an image (R365). -/
def State.fallBacks (s : State) : List Nat → State
  | [] => s
  | k :: ks => (if (s.slot? k (!s.activeSlot k)).isSome then s.fallBack k (!s.activeSlot k) else s).fallBacks ks

/-- Units the defect list keeps out of service (R359). -/
def State.applyList (s : State) : State :=
  let ds := s.badUnits
  let tiles := (ds.filter fun d => decide (d.kind = .tile)).map (·.unit)
  let s := s.onBld fun b => { b with spared := (ds.filter fun d => decide (d.kind = .core)).map fun d => (d.unit, d.sub) }
  let s := tiles.foldl (fun s t => (s.setBit R.BLD_SERVICE_WITHDRAWN t true).tileOut t) s
  let n := (ds.filter fun d => decide (d.kind = .hbmChannel)).length
  (s.setReg R.BLD_HBM_RETIRED n).capChange [(R.CAP_HBM_HBM_CHANNELS, 32 * s.stacks - n), (R.CAP_HBM_HBM_MIB, 3072 * (32 * s.stacks - n)),
    (R.CAP_COUNTS_HBM_STACKS, ((List.range s.stacks).filter fun k => s.retiredOf k < 32).length)]

/-- The identity key as stage 3 unseals it (R381, R382). -/
def Sec.unseal (e : Sec) : CrtKey :=
  let part := Config.unsealed e.helper e.sealedKey
  ⟨part 0, part 1, part 2, part 3, part 4⟩

/-- What the management controller reads at stage 3: the defect list, the licences, the identity key, the node number. -/
def State.stageMgmt (s : State) : State :=
  let s := s.applyList.license
  let s := (s.onSec fun e => { e with identityKey := some e.unseal }).setReg R.SEC_STATE_IDENTITY_VALID 1
  let s := if s.flag R.FAB_ASSIGN_VALID then
      s.capChange [(R.CAP_NODE_NODE_NUMBER, s.reg R.FAB_ASSIGN_NUMBER), (R.CAP_NODE_NODE_VALID, 1)]
    else s
  s.fwGeneration

/-- Every tile not withdrawn is in service after its test, and has taken a pending TILE image. -/
def State.stageTiles (s : State) : State :=
  let mask := ((List.range s.tiles).filter fun t => !bitAt (s.reg R.BLD_SERVICE_WITHDRAWN) t).map (2 ^ ·) |>.sum
  let s := s.setTiles mask
  if s.bld.node = .computeReset then ((List.range s.tiles).filter s.tileIn).foldl State.takeTile s else s

/-- Space 0 outside Table 3.1, the KV pool, the region table and the message table zeroed (KIND 3). -/
def State.scrub (s : State) : State :=
  let keep := fun a n => s.touchesReserved a n || s.touchesPool a n || s.touchesRegions a n || s.touchesMessages a n
  { s with
    hbm := s.hbm.filter fun c => keep c.1 1
    hbmPoison := s.hbmPoison.filter fun p => keep (64 * p.granule) 64 }

/-- The node's own directory swept as a lost owner's (R353, step 6). -/
def State.sweepSelf (s : State) : State :=
  let s := s.rse.works.foldl (fun s w =>
    if s.isHome w.r.id then s.dropWork w.r.id
    else if w.status = .owned then s.loseStep w.r.id
    else s.discardCopy w.r.id) s
  s.ownersLost ((s.rse.homes.filter fun h => h.r.owner == s.node && h.r.state.away).map (·.r.id))

/-- Members of barriers that held an arrival at the reset are told (R314). -/
def State.tellBarriers (s : State) : State :=
  (s.bld.barAborts.foldl (fun s b => s.sendMsgs (.barAbort b (s.reg (R.SYN_BAR_A_ROUND b)) .nodeResetting) (s.barMembers b)) s).onBld
    fun b => { b with barAborts := [] }

/-- Resynchronisation begins where a deputy is named (R38). -/
def State.resync (s : State) : State :=
  if s.flag R.RSE_DEPUTY_VALID then
    (s.onRse fun e => { e with resyncNeeded := true }).sendMsg (s.reg R.RSE_DEPUTY_NODE) .resync
  else s

/-- Node ready (R355): NODE_READY with the reset kind, START_COUNT and the start time in ms (log entry 32), READY_MS, the standing
report. -/
def State.nodeReady (s : State) : State :=
  let ms := (s.aon - s.bld.since) / 1000
  let value := s.reg R.BLD_BOOT_START_COUNT * 2 ^ 32 + ms % 2 ^ 32
  let s := ((s.onBld fun b => { b with node := .ready }).enterStage 10).setReg R.BLD_READY_READY_MS ms
  (s.post .nodeReady 0xFFF (formO .ok s.node s.bld.kind.code value)).reReport

/-- A compute-only reset ends: an ENGINES image takes effect, members of barriers are told, KIND 3 scrubs, the home must resynchronise before it records a
commit (R38), the sweep runs, TRANSIT_ONLY clears. -/
def State.computeDone (s : State) : State :=
  let s := match s.bld.pendingSlot.find? (·.1 == 5) with
    | some (_, b) => s.activate 5 b
    | none => s
  let s := s.tellBarriers
  let s := if s.bld.kind = .scrub then s.scrub else s
  s.resync.sweepSelf.nodeReady

/-- A stage passed: its work, and the next stage. -/
def State.stageDone (s : State) : State :=
  match s.bld.stage with
  | 3 => s.stageMgmt.enterStage 4
  | 4 => (s.onPcr fun p => { p with ref25 := true }).enterStage 5
  | 5 => (s.onBld fun b => { b with hbmOk := true }).enterStage 6
  | 6 => s.stageTiles.enterStage (if s.bld.node = .computeReset then 8 else 7)
  | 8 => if s.bld.node = .computeReset then s.computeDone else s.resync.enterStage 9
  | 9 => s.nodeReady
  | n => s.enterStage (n + 1)

/-- The node takes no part in the fabric any more: its links go DOWN, and frames it has not served are gone (R357). -/
def State.leaveFabric (s : State) : State :=
  let s := s.onFab fun f => { f with
    arrived := []
    accepted := [] }
  s.linksDown (s.fab.links.filter fun l => decide (l.state = .handshake ∨ l.state = .up ∨ l.state = .draining ∨ l.state = .failed))

/-- A stage failed (R357). -/
def State.stageFailed (s : State) (st : St) : State :=
  let s := s.setReg R.BLD_BOOT_BOOT_STATUS st.code
  if s.bld.stage = 1 ∨ s.bld.stage = 4 then s.hostDown.onBld fun b => { b with node := .failed }
  else (s.leaveFabric.onBld fun b => { b with node := .recovery }).setReg R.BLD_BOOT_STAGE 0xE0

/-- A boot stage ends, with what its tests found and the subsystems whose active image failed verification (the management
image at stage 2, the others at stage 3). RST_N is released once the boot goes on; tiles held in reset wait (R410). -/
def execBootStageDone (status : St) (findings : List Finding) (badImages : List Nat) (s : State) :
    Host.Outcome State Fault Refusal :=
  if !decide (s.bld.node = .booting ∨ s.bld.node = .computeReset) || s.bld.stage = 0 || s.bld.railHold.isSome then .next s
  else
    let n := s.bld.stage
    let s := s.onBld fun b => { b with rstN := false }
    let s := s.applyFindings findings
    let s := if n = 2 then s.fallBacks (badImages.filter (· == 0))
      else if n = 3 then s.fallBacks (badImages.filter (· != 0)) else s
    .next (if status = .ok then s.stageDone else s.stageFailed status)

end Sys2Proof.Machine
end

