-- ==== Sys2Proof/Machine/Power.lean ====
section
/-! DEFINITION. Supplies, rails, temperature, throttle and power limit, reference clocks, sleep and wake, and the debug port
(chapter 15). A command that names a level's crossing comes when its filter has elapsed. -/

namespace Sys2Proof.Machine

/-! ### The throttle (R414) -/

/-- The throttle the demands give together: the lowest. -/
def Throttle.force (t : Throttle) : Nat := min (min t.input t.rail) (min t.thermal t.power)

/-- A core streams tile-ops. -/
def State.anyTileOp (s : State) : Bool := s.cores.any fun c => decide (c.power = .running) && c.wait.isNone && !c.stopped

/-- The demands combined: a lower level is in force at once, a higher one at the next tile-op boundary. -/
def State.combine (s : State) : State :=
  let want := s.pcr.throttle.force
  if s.reg R.PCR_STATUS_THROTTLE < want ∧ s.anyTileOp then s.onPcr fun p => { p with raiseTo := some want }
  else (if s.reg R.PCR_STATUS_THROTTLE = want then s else s.setThrottle want).onPcr fun p => { p with raiseTo := none }

/-- A demand changed. -/
def State.demand (s : State) (f : Throttle → Throttle) : State :=
  (s.onPcr fun p => { p with throttle := f p.throttle }).combine

/-! ### The 48 V input (R407, R408) -/

/-- PWR_WARN, its pin, the rail summary and the hold on prefill follow the warnings in force (R198, R409). -/
def State.pwrWarn (s : State) : State :=
  let rails := !s.pcr.railsWarn.isEmpty
  let on := s.flag R.PCR_STATUS_INPUT_WARN || rails
  (s.setRegs [(R.PCR_STATUS_RAIL_WARN, bit rails), (R.PCR_STATUS_PWR_WARN, bit on), (R.SCH_CTRL_PREFILL_HELD, bit on)]).onPcr
    fun p => { p with pwrWarnPin := on }

/-- The input below 43.0 V: a warning, unless one is in force. -/
def execInputWarnCross (mv : Nat) (s : State) : Host.Outcome State Fault Refusal :=
  if s.bld.off then .next s
  else
    let s := s.setReg R.PCR_SUPPLY_INPUT_MV mv
    if s.flag R.PCR_STATUS_INPUT_WARN then .next s
    else
      let s := (s.setReg R.PCR_STATUS_INPUT_WARN 1).pwrWarn.demand fun t => { t with input := 50 }
      .next ((s.bump R.PCR_STATS_INPUT_WARNS).post .supplyWarn 0xFFF (formO .ok s.node 0 0))

/-- 2 ms at or above 44.0 V: the warning ends. -/
def execInputRecoveryDone (s : State) : Host.Outcome State Fault Refusal :=
  if !s.flag R.PCR_STATUS_INPUT_WARN then .next s
  else
    let s := (s.setReg R.PCR_STATUS_INPUT_WARN 0).pwrWarn.demand fun t => { t with input := 100 }
    .next (s.post .supplyClear 0xFFF (formO .ok s.node 0 0))

/-- A fall below 44.0 V that stays at or above 43.0 V: the window starts again, and nothing else. -/
def execInputRecoveryRestart (mv : Nat) (s : State) : Host.Outcome State Fault Refusal :=
  .next (if s.bld.off then s else s.setReg R.PCR_SUPPLY_INPUT_MV mv)

/-- The input below 39.0 V. -/
def execInputUndervoltage (s : State) : Host.Outcome State Fault Refusal :=
  .next (if s.bld.off then s else s.railsOff .supplyFault 1 0)

/-- The input above 57.0 V. -/
def execInputOvervoltage (s : State) : Host.Outcome State Fault Refusal :=
  .next (if s.bld.off then s else s.railsOff .supplyFault 2 0)

/-- The always-on input below 3.10 V (R405); a node a thermal trip has shut down stays so. -/
def execAonInputLoss (s : State) : Host.Outcome State Fault Refusal :=
  .next (if s.bld.tripped then s.recordTrip .supplyFault 4 0 else s.railsOff .supplyFault 4 0)

/-! ### Internal rails (R409, R410) -/

/-- A rail below its warning level. -/
def execRailWarnCross (rail mv : Nat) (s : State) : Host.Outcome State Fault Refusal :=
  if s.bld.off || 9 ≤ rail then .next s
  else
    let s := s.setReg (R.PCR_RAIL_MV rail) mv
    if s.pcr.railsWarn.contains rail then .next s
    else
      let s := (s.setReg (R.PCR_RAIL_WARN rail) 1).onPcr fun p => { p with railsWarn := p.railsWarn ++ [rail] }
      let s := s.pwrWarn.demand fun t => { t with rail := 50 }
      .next ((s.bump R.PCR_STATS_RAIL_WARNS).post .railWarn 0xFFF (formO .ok s.node rail 0))

/-- A rail above its clear level for 2 ms. -/
def execRailClearDone (rail : Nat) (s : State) : Host.Outcome State Fault Refusal :=
  if !s.pcr.railsWarn.contains rail then .next s
  else
    let s := (s.setReg (R.PCR_RAIL_WARN rail) 0).onPcr fun p => { p with railsWarn := p.railsWarn.filter (· != rail) }
    let s := s.pwrWarn.demand fun t => { t with rail := if s.pcr.railsWarn.isEmpty then 100 else t.rail }
    .next (s.post .railClear 0xFFF (formO .ok s.node rail 0))

/-- A dip below the clear level: the rail's window starts again, and nothing else. -/
def execRailClearRestart (rail mv : Nat) (s : State) : Host.Outcome State Fault Refusal :=
  .next (if s.bld.off || 9 ≤ rail then s else s.setReg (R.PCR_RAIL_MV rail) mv)

/-- VCORE or VSRAM below its reset level: a compute-only reset with the tiles held in reset, and no supply reset. While no
compute side serves, the tiles are held alone; one already in a compute-only reset starts its tiles over. -/
def State.railReset (s : State) (rail : Nat) : State :=
  let s := (s.recordTrip .supplyFault 3 rail).onBld fun b => { b with railHold := some rail }
  match s.bld.node with
  | .ready => if s.bld.resetAfterCopy.isSome then s else s.askCompute .compute none
  | .computeReset => s.resetTiles.enterStage 6
  | _ => s

/-- A rail below its reset level: the reset Table 15.4 names. -/
def execRailResetCross (rail mv : Nat) (s : State) : Host.Outcome State Fault Refusal :=
  if s.bld.off || 9 ≤ rail then .next s
  else
    let s := s.setReg (R.PCR_RAIL_MV rail) mv
    .next (if rail < 2 then s.railReset rail else s.railsOff .supplyFault 3 rail)

/-- The rail has held above its clear level for 2 ms: the tiles leave reset. -/
def execRailHoldDone (s : State) : Host.Outcome State Fault Refusal := .next (s.onBld fun b => { b with railHold := none })

/-! ### Temperature (R412, R413) -/

/-- A signed 8.8 reading. -/
def degrees (x : Nat) : Int := if x < 0x8000 then x else (x : Int) - 0x10000

/-- The reading of an absent, withdrawn or gated sensor. -/
def noReading : Nat := 0x8000

/-- A sensor gives no reading: its die is absent, or its tile withdrawn or gated. -/
def State.sensorOff (s : State) (i : Nat) : Bool :=
  if i < 32 then decide (s.tiles ≤ i) || bitAt (s.reg R.BLD_SERVICE_WITHDRAWN) i || s.pcr.gatedTiles.contains i
  else if i < 36 then decide (s.dies ≤ i - 32)
  else decide (40 + s.stacks ≤ i)

/-- The readings of a sample: sensor and value. -/
def State.readings (s : State) (temps : List Nat) : List (Nat × Nat) :=
  (List.range 60).map fun i => (i, if s.sensorOff i then noReading else temps.getD i noReading % 0x10000)

/-- A reading at or above a level given in °C for logic dies and for HBM stacks (Table 15.6). -/
def atLevel (logic hbm : Int) (r : Nat × Nat) : Bool :=
  r.2 != noReading && decide (256 * (if r.1 < 40 then logic else hbm) ≤ degrees r.2)

/-- The hottest of the logic dies, the lowest index among equals. -/
def hottest : List (Nat × Nat) → Option (Nat × Nat)
  | [] => none
  | r :: l =>
    match hottest l with
    | none => some r
    | some m => if degrees m.2 ≤ degrees r.2 then some r else some m

/-- The readings shown in PCR_TEMP and PCR_THERMAL. -/
def State.showTemps (s : State) (rs : List (Nat × Nat)) : State :=
  let s := rs.foldl (fun s r => s.setReg (R.PCR_TEMP_TEMP r.1) r.2) s
  match hottest (rs.filter fun r => decide (r.1 < 40) && r.2 != noReading) with
  | some m => s.setRegs [(R.PCR_THERMAL_HOTTEST, m.1), (R.PCR_THERMAL_TJ_MAX, m.2)]
  | none => s

/-- The thermal level in force changes: its demand, its bits and the pin. -/
def State.setLevel (s : State) (n : Nat) : State :=
  let s := s.onPcr fun p => { p with
    level := n
    thermWarnPin := decide (0 < n) }
  let s := s.setRegs [(R.PCR_STATUS_THERM_CRIT, bit (decide (n = 2))), (R.PCR_STATUS_THERM_WARN, bit (decide (0 < n)))]
  s.demand fun t => { t with thermal := match n with
    | 0 => 100
    | 1 => 50
    | _ => 25 }

/-- A level is reached by a sensor: the level and its event. -/
def State.heat (s : State) (n : Nat) (e : Ev) (rs : List (Nat × Nat)) : State :=
  match rs with
  | [] => s
  | r :: _ => if n ≤ s.pcr.level then s
    else ((s.setLevel n).bump R.PCR_STATS_THERMAL_WARNS).post e 0xFFF (formO .ok s.node r.1 0)

/-- The level in force ends when its clear condition has held for 100 ms. -/
def State.cool (s : State) (n : Nat) (since : Option Nat) : State :=
  if s.pcr.level = n ∧ since.any (fun t => t + 100000 ≤ s.aon) then
    (s.setLevel (n - 1)).post .thermalClear 0xFFF (formO .ok s.node 0 0)
  else s

/-- A thermal trip: rails off, THERM_TRIP_N asserted, the cause recorded; no event is posted. -/
def State.thermalTrip (s : State) (sensor : Nat) : State :=
  (((s.railsOff .thermalTrip 5 sensor).onBld fun b => { b with
    node := .failed
    tripped := true }).onPcr fun p => { p with thermTripPin := true }).setReg R.BLD_BOOT_BOOT_STATUS St.thermalTrip.code

/-- A sample of the sensors. -/
def execThermalSample (temps : List Nat) (s : State) : Host.Outcome State Fault Refusal :=
  if s.bld.off then .next s
  else
    let rs := s.readings temps
    let s := s.showTemps rs
    let crit := rs.filter (atLevel 103 92)
    let cold := rs.all fun r => !atLevel 93 83 r
    let s := s.onPcr fun p => { p with
      belowCrit := if crit.isEmpty then some (p.belowCrit.getD s.aon) else none
      belowWarn := if cold then some (p.belowWarn.getD s.aon) else none
      tripSince := (rs.filter (atLevel 107 97)).map fun r => (r.1, ((p.tripSince.find? (·.1 == r.1)).map (·.2)).getD s.aon) }
    match s.pcr.tripSince.find? fun x => x.2 + 100 ≤ s.aon with
    | some x => .next (s.thermalTrip x.1)
    | none =>
      let s := (s.heat 1 .thermalWarn (rs.filter (atLevel 98 88))).heat 2 .thermalCrit crit
      .next ((s.cool 2 s.pcr.belowCrit).cool 1 s.pcr.belowWarn)

/-! ### The power limit (R415, R423) -/

/-- The next level of the power-limit demand down or up. -/
def powerStep (up : Bool) (p : Nat) : Nat := if up then min 100 (p + 25) else max 25 (p - 25)

/-- The power-limit demand set, with LIMITING. -/
def State.setPower (s : State) (p : Nat) : State :=
  (s.setReg R.PCR_STATUS_LIMITING (bit (decide (p < 100)))).demand fun t => { t with power := p }

/-- An averaging window ends. -/
def execPowerWindowExpiry (watts : Nat) (s : State) : Host.Outcome State Fault Refusal :=
  if s.bld.off || !s.flag R.PCR_POWER_LIMIT_ENABLE then .next s
  else
    let lim := s.reg R.PCR_POWER_LIMIT_LIMIT_W
    let old := s.pcr.throttle.power
    if lim < watts then
      let t := s.setPower (powerStep false old)
      let t := if 25 < old then t.bump R.PCR_STATS_LIMIT_WINDOWS else t
      .next (if old = 100 then t.post .powerLimiting 0xFFF (formO .ok s.node 0 0) else t)
    else if 100 * watts < 95 * lim then .next (s.setPower (powerStep true old))
    else .next s

/-- A write to PCR_POWER_LIMIT. -/
def State.powerLimitWrite (s : State) (value : Nat) : State × St :=
  let w := R.PCR_POWER_LIMIT_WINDOW_MS.of value
  let l := R.PCR_POWER_LIMIT_LIMIT_W.of value
  let (lo, hi) := if s.small then (540, 1800) else (1020, 3400)
  if w < 1 ∨ 1000 < w ∨ l < lo ∨ hi < l then (s, .badParam)
  else
    let s := s.writeRw 0x700018 value
    (if s.flag R.PCR_POWER_LIMIT_ENABLE then s else s.setPower 100, .ok)

/-- A write to PCR_POWER_LIMIT. -/
def execPcrPowerLimitWrite (value : Nat) (s : State) : Host.Outcome State Fault Refusal := .next (s.powerLimitWrite value).1

/-- A write to PCR_GATE_CFG. -/
def execPcrGateCfgWrite (value : Nat) (s : State) : Host.Outcome State Fault Refusal := .next (s.writeRw 0x700020 value)

/-! ### Reference clocks (R417) -/

/-- The 25 MHz reference is lost: a supply reset. -/
def execRefclk25Loss (s : State) : Host.Outcome State Fault Refusal :=
  let s := s.onPcr fun p => { p with ref25 := false }
  .next (if s.bld.off then s else s.railsOff .clockFault 6 0)

/-- The 156.25 MHz reference is lost: the ports go DOWN. -/
def execRefclk156Loss (s : State) : Host.Outcome State Fault Refusal :=
  if !s.pcr.ref156 then .next s
  else
    let s := s.onPcr fun p => { p with ref156 := false }
    let s := s.linksDown (s.fab.links.filter fun l => decide (l.state ≠ .disabled ∧ l.state ≠ .down))
    .next (s.hostDown.post .clockFault 0xFFF (formO .ok s.node 0 0))

/-- It is back: the ports train again; the host port is UP when it has trained (R320). -/
def execRefclk156Restored (s : State) : Host.Outcome State Fault Refusal :=
  let s := s.onPcr fun p => { p with ref156 := true }
  .next ((s.fab.links.filter fun l => decide (l.state = .down) && !s.flag (R.FAB_PORT_CFG_DRAIN (s.linkPort l.id))).foldl
    (fun s l => (s.putLink (freshLink l.id .training)).setReg (R.FAB_PORT_STATUS_LANES_UP (s.linkPort l.id)) 0) s)

/-! ### Sleep and wake (R418) -/

/-- A core idle for CORE_IDLE_US gates; its operand buffer keeps its content. -/
def execCoreIdleExpiry (core : Nat) (s : State) : Host.Outcome State Fault Refusal :=
  let c := s.core core
  .next (if c.power = .idle then s.putCore { c with power := .gated } else s)

/-- A tile whose 4 logical cores are gated, idle or waiting, gates (Table 15.8). -/
def execTileIdleExpiry (tile : Nat) (s : State) : Host.Outcome State Fault Refusal :=
  if tile < s.tiles ∧ !s.pcr.gatedTiles.contains tile
      ∧ [0, 1, 2, 3].all (fun k => decide ((s.core (4 * tile + k)).powerNow = .gated)) then
    .next (s.onPcr fun p => { p with gatedTiles := p.gatedTiles ++ [tile] })
  else .next s

/-- A woken core, and its tile with it, issues its first instruction. -/
def execCoreWakeDone (core : Nat) (s : State) : Host.Outcome State Fault Refusal :=
  let c := s.core core
  if c.power = .waking then
    .next ((s.putCore { c with power := .running }).onPcr fun p => { p with gatedTiles := p.gatedTiles.filter (· != core / 4) })
  else .next s

/-- A channel idle for 1 µs enters power-down. -/
def execHbmPowerdownIdle (stack channel : Nat) (s : State) : Host.Outcome State Fault Refusal :=
  if s.stacks ≤ stack || 32 ≤ channel || s.known ⟨.hbmChannel, .ok, stack, channel, 0⟩
      || s.pcr.channelsDown.contains ⟨stack, channel⟩ then .next s
  else .next (s.onPcr fun p => { p with channelsDown := p.channelsDown ++ [⟨stack, channel⟩] })

/-! ### The debug port (R421) -/

/-- An instruction of the test access port with what it shifts out. -/
def State.tapRun (s : State) (i : TapInstr) : State :=
  let (n, s) := s.next
  (s.setTap i).emit (.tap i (Config.reading n))

/-- IDCODE. -/
def execJtagIdcode (s : State) : Host.Outcome State Fault Refusal := .next (s.tapRun .idcode)

/-- BYPASS: one bit, 0. -/
def State.bypass (s : State) : State := (s.setTap .bypass).emit (.tap .bypass 0)

/-- BYPASS. -/
def execJtagBypass (s : State) : Host.Outcome State Fault Refusal := .next s.bypass

/-- SAMPLE/PRELOAD. -/
def execJtagSamplePreload (s : State) : Host.Outcome State Fault Refusal := .next (s.tapRun .sample)

/-- EXTEST drives the low-speed lands while RST_N is held asserted; else it is not accepted. -/
def execJtagExtest (value : Nat) (s : State) : Host.Outcome State Fault Refusal :=
  .next (if s.bld.rstN then (s.setTap .extest).emit (.tap .extest value) else s)

/-- An instruction of the TRACE or SCAN scope: it acts while its scope is open, else as BYPASS. -/
def execDebugScopeAccess (scan : Bool) (s : State) : Host.Outcome State Fault Refusal :=
  .next (if s.flag (if scan then R.SEC_DEBUG_SCAN else R.SEC_DEBUG_TRACE) then s.tapRun (if scan then .scan else .trace)
    else s.bypass)

end Sys2Proof.Machine
end

