-- ==== Sys2Proof/Machine/Ecc.lean ====
section
/-! DEFINITION. Memory errors and their correction (section 16.4), and EVT_ECC_CFG (R433). -/

namespace Sys2Proof.Machine

/-- The number of an HBM channel. -/
def channelKey (stack channel : Nat) : Nat := 32 * stack + channel

/-- A corrected error: counted, and posted at most once per channel and tick with the corrections since the last posting
(R430). -/
def State.corrected (s : State) (e : MemErr) : State :=
  let k := channelKey e.unit e.sub
  let s := s.bump R.EVT_ECC_STATS_CORRECTED
  let (n, at_) := ((s.evt.corrected.find? (·.1 == k)).map (·.2)).getD (0, 0)
  let s := s.onEvt fun v => { v with
    window := upsert (·.1 == k) (k, ((v.window.find? (·.1 == k)).map (·.2)).getD 0 + 1) v.window }
  if at_ = s.tick + 1 then s.onEvt fun v => { v with corrected := upsert (·.1 == k) (k, n + 1, at_) v.corrected }
  else (s.onEvt fun v => { v with corrected := upsert (·.1 == k) (k, 0, s.tick + 1) v.corrected }).post .memCorrected 0xFFF
    (formM 0 e.unit e.sub e.offset (n + 1))

/-- A directory slot that fails its check: of the requests the directory holds, one in a slot the spec does not place (log
entry 25), or a free slot. -/
def State.slotError (s : State) : State :=
  let ids := (s.rse.homes.map (·.r.id) ++ s.rse.works.map (·.r.id)).dedup
  let (n, s) := s.next
  match ids[Config.choice n]? with
  | none => s
  | some id => s.onRse fun e => { e with
      homes := updateAll (fun h => h.r.id == id) (fun h => { h with checkOk := false }) e.homes
      works := updateAll (fun w => w.r.id == id) (fun w => { w with checkOk := false }) e.works }

/-- A mirror slot that fails its check: no valid mirror of that record is left here. -/
def State.mirrorError (s : State) : State :=
  let (n, s) := s.next
  match s.rse.mirrors[Config.choice n]? with
  | none => s
  | some m => s.onRse fun e => { e with mirrors := e.mirrors.filter (·.r.id != m.r.id) }

/-- An error in the message table: every unfinished message of the source concerned has failed. -/
def State.messageError (s : State) : State :=
  let (n, s) := s.next
  match (s.xfr.sources.map (·.src))[Config.choice n]? with
  | none => s
  | some src => s.failSource .poisonRead src

/-- An error that cannot be corrected, by its location in HBM (Table 16.5); a page whose frame has one is lost (R99). -/
def State.uncorrected (s : State) (e : MemErr) : State :=
  let s := (s.bump R.EVT_ECC_STATS_UNCORRECTED).post .memUncorrected 0xFFF (formM 0 e.unit e.sub e.offset 0)
  let a := e.offset
  if s.pageMapBase ≤ a then s.losePageAll ((a - s.pageMapBase) / 16)
  else if s.directoryBase ≤ a then s.slotError
  else if s.mirrorBase ≤ a then s.mirrorError
  else if s.headerBase ≤ a then s.losePageAll ((a - s.headerBase) / 64)
  else if s.touchesRegions a 1 then
    s.onFab fun f => { f with regions := f.regions.filter (·.num != (a - s.reg R.FAB_REGION_BASE_BASE) / 32) }
  else if s.touchesMessages a 1 then s.messageError
  else
    let s := s.markPoison .hbm a 1 .poisonRead
    match s.pge.pages.find? fun p => p.loc.frame?.any fun f => 16384 * f ≤ a && a < 16384 * f + pageBytes p.pageSize with
    | some p => s.losePageAll p.idx
    | none => s

/-- Errors dealt with in turn. -/
def State.memErrors (s : State) : List MemErr → State
  | [] => s
  | e :: es => (if e.correctable then s.corrected e else s.uncorrected e).memErrors es

/-- A patrol scrub of an in-service channel, with the errors of that channel it finds (R431). -/
def execPatrolScrubPass (stack channel : Nat) (errors : List MemErr) (s : State) : Host.Outcome State Fault Refusal :=
  if s.bld.off || s.stacks ≤ stack || 32 ≤ channel || s.known ⟨.hbmChannel, .ok, stack, channel, 0⟩ then .next s
  else
    let s := s.onPcr fun p => { p with channelsDown := p.channelsDown.filter fun d => decide (d ≠ ⟨stack, channel⟩) }
    .next (s.memErrors (errors.filter fun e => e.memory == 0 && e.unit == stack && e.sub == channel && decide (e.offset < s.hbmBytes)))

/-- A channel's threshold window of 3,433 ticks ends. -/
def execCeWindowExpiry (stack channel : Nat) (s : State) : Host.Outcome State Fault Refusal :=
  let k := channelKey stack channel
  let n := ((s.evt.window.find? (·.1 == k)).map (·.2)).getD 0
  let lim := ((s.evt.limits.find? (·.1 == k)).map (·.2)).getD (s.reg R.EVT_ECC_CFG_CE_THRESHOLD)
  let s := s.onEvt fun v => { v with
    window := v.window.filter (·.1 != k)
    limits := v.limits.filter (·.1 != k) }
  .next (if lim < n then s.post .memChannelDegraded 0xFFF (formM 0 stack channel 0 0) else s)

/-- A write to EVT_ECC_CFG: running windows keep the threshold they began under. -/
def State.eccCfgWrite (s : State) (value : Nat) : State × St :=
  let h := R.EVT_ECC_CFG_SCRUB_HOURS.of value
  if h < 1 ∨ 168 < h then (s, .badParam)
  else
    let old := s.reg R.EVT_ECC_CFG_CE_THRESHOLD
    let fresh := (List.range (32 * s.stacks)).filter fun k => !(s.evt.limits.any (·.1 == k))
    ((s.onEvt fun v => { v with limits := v.limits ++ fresh.map (·, old) }).writeRw 0x800018 value, .ok)

/-- A write to EVT_ECC_CFG. -/
def execEvtEccCfgWrite (value : Nat) (s : State) : Host.Outcome State Fault Refusal := .next (s.eccCfgWrite value).1

end Sys2Proof.Machine
end

