-- ==== Sys2Proof/Machine/I3c.lean ====
section
/-! DEFINITION. The board-management I3C target (R347, Table 12.10). -/

namespace Sys2Proof.Machine

/-- The bytes of the telemetry map as the node stands. A reading no command brings, and the number of an event where none is
held, is a free value. -/
def State.telemetry (s : State) (power newest : Nat) : List Byte :=
  let valid := s.flag R.CAP_NODE_NODE_VALID
  let flags := bit (s.flag R.PCR_STATUS_PWR_WARN) + 2 * bit (s.flag R.PCR_STATUS_THERM_WARN) + 4 * bit s.hostUp
    + 8 * bit (s.fab.links.any fun l => decide (l.state = .up)) + 16 * bit valid
  let image := bit (s.activeSlot 0) + 2 * bit ((List.range 9).any fun k => s.flag (R.BLD_IMG_FELL_BACK k))
  [1, BitVec.ofNat 8 (s.reg R.BLD_BOOT_STAGE), BitVec.ofNat 8 s.bld.node.code, BitVec.ofNat 8 flags]
    ++ toBytes 2 (s.reg R.PHS_VERSIONS_FW_GENERATION) ++ toBytes 2 (if valid then s.node else 0)
    ++ (toBytes 6 (s.reg R.HCP_MAC_MAC)).reverse ++ toBytes 2 (s.reg R.PCR_SUPPLY_INPUT_MV) ++ toBytes 2 power
    ++ toBytes 2 (s.reg R.PCR_THERMAL_TJ_MAX) ++ [BitVec.ofNat 8 image, 0] ++ toBytes 2 (s.reg R.BLD_BOOT_BOOT_STATUS)
    ++ toBytes 4 s.startTicks ++ toBytes 4 newest

/-- A change of the I3C target alone. -/
def State.onI3c (s : State) (f : I3c → I3c) : State := s.onHcp fun h => { h with i3c := f h.i3c }

/-- The snapshot is refreshed. -/
def execI3cSnapshotRefresh (s : State) : Host.Outcome State Fault Refusal :=
  let (n, s) := s.next
  let (k, s) := s.next
  let newest := match s.evt.entries.getLast? with
    | some e => e.seq
    | none => Config.reading k
  .next (s.onI3c fun i => { i with snapshot := s.telemetry (Config.reading n) newest })

/-- A private write: its first byte is the read offset, the rest is ignored. -/
def execI3cPrivateWrite (data : List Byte) (s : State) : Host.Outcome State Fault Refusal :=
  match data with
  | [] => .next s
  | b :: _ => .next (s.onI3c fun i => { i with offset := b.toNat })

/-- Bytes of the map from an offset; past its end the spec states none. -/
def mapBytes (m : List Byte) (offset n free : Nat) : List Byte :=
  (List.range n).map fun k => (m[offset + k]?).getD (BitVec.ofNat 8 (Config.reading (free + k)))

/-- A private read from the snapshot. -/
def execI3cPrivateRead (count : Nat) (s : State) : Host.Outcome State Fault Refusal :=
  let i := s.hcp.i3c
  .next ((s.setFresh (s.fresh + count)).emit (.i3c (mapBytes i.snapshot i.offset count s.fresh)))

/-- ENTDAA: the controller assigns the dynamic address. -/
def execI3cEntdaa (addr : Nat) (s : State) : Host.Outcome State Fault Refusal :=
  .next (s.onI3c fun i => { i with dynAddr := some addr })

end Sys2Proof.Machine
end

