-- ==== Sys2Proof/Machine/Retire.lean ====
section
/-! DEFINITION. Retirement of HBM channels while the node runs (R362). -/

namespace Sys2Proof.Machine

/-- The first byte of the range the next retirement removes. -/
def State.retireLow (s : State) : Nat := s.usableTop - 3 * 2 ^ 30

/-- The removed range overlaps something the host has to move first. -/
def State.retireBusy (s : State) : Bool :=
  let low := s.retireLow
  let hit := fun off len => meets off len low (3 * 2 ^ 30)
  s.touchesRegions low (3 * 2 ^ 30) || s.touchesMessages low (3 * 2 ^ 30)
    || (s.fab.regions.any fun r => decide (r.state = .valid) && r.space == 0 && r.num != 0 && hit r.base r.length)
    || ((List.range 64).any fun w => s.flag (R.HCP_WINDOW_A_VALID w) && hit (s.reg (R.HCP_WINDOW_A_BASE w)) (s.reg (R.HCP_WINDOW_C_LENGTH w)))
    || (List.range 4096).any fun b => s.reg (R.SYN_BAR_A_STATE b) != 0
      && hit (s.reg (R.SYN_BAR_C_MEMBERS b)) (2 * s.reg (R.SYN_BAR_B_MEMBER_COUNT b))

/-- The pool's end below the removed range. -/
def State.lowerLimit (s : State) : State :=
  s.setReg R.PGE_KV_POOL_LIMIT (min (s.reg R.PGE_KV_POOL_LIMIT) (s.retireLow / 65536))

/-- Pages whose frames lie at or above the pool's end. -/
def State.beyond (s : State) : List Page :=
  s.pge.pages.filter fun p => p.loc.frame?.any fun f => 4 * s.reg R.PGE_KV_POOL_LIMIT ≤ f

/-- Migrations whose target frames lie there. -/
def State.beyondTargets (s : State) : List Migration :=
  s.pge.migrations.filter fun m => m.target.frame?.any fun f => 4 * s.reg R.PGE_KV_POOL_LIMIT ≤ f

/-- The state with frames below the pool's end given to some pages, where there are any. -/
def State.planPages (s : State) : List Page → Option State
  | [] => some s
  | p :: ps =>
    match s.findFrame p.pageSize with
    | some f => (s.putPage { p with loc := .t0 f }).planPages ps
    | none => none

/-- The same for the targets of migrations. -/
def State.planTargets (s : State) : List Migration → Option State
  | [] => some s
  | m :: ms =>
    match s.findFrame (((s.page? m.idx).map (·.pageSize)).getD 0) with
    | some f => (s.onPge fun g => { g with
        migrations := upsert (·.idx == m.idx) { m with target := .frame f } g.migrations }).planTargets ms
    | none => none

/-- The pool has free, unreserved frames below the range for those allocated inside it. -/
def State.retireFits (s : State) : Bool :=
  let t := s.lowerLimit
  ((t.planPages t.beyond).bind fun t => t.planTargets t.beyondTargets).any fun t => t.reservedUnits ≤ t.freeUnits

/-- CHANNEL_RETIRE: the refusals of step 1, then the pool's pages move; those of a request in a step wait for its end. -/
def execChannelRetire (p : HostPkt) (stack channel : Nat) (s : State) : Host.Outcome State Fault Refusal :=
  .next (s.prayr p 0x4F false true false p.payloadOk fun ref t =>
    if t.stacks ≤ stack || 32 ≤ channel then t.hostReply ref .badParam []
    else if t.known ⟨.hbmChannel, .ok, stack, channel, 0⟩ || t.bld.retire.isSome || t.resetting || decide (t.bld.node ≠ .ready) then
      t.hostReply ref .badState []
    else if t.retireBusy then t.hostReply ref .tableBusy []
    else if !t.retireFits then t.hostReply ref .directoryFull []
    else
      let low := t.retireLow
      let t := t.lowerLimit
      let t := t.beyond.foldl State.retirePage t
      (t.onBld fun b => { b with retire := some ⟨stack, channel, false, low⟩ }).onHcp fun h => { h with
        later := h.later ++ [.channelRetire ref] })

/-- The pool holds nothing in the range any more: the copy of the channel's data starts. -/
def execChannelCopyStart (s : State) : Host.Outcome State Fault Refusal :=
  match s.bld.retire with
  | some r =>
    let s := s.beyond.foldl State.retirePage s
    if r.copying || !s.beyond.isEmpty || !s.beyondTargets.isEmpty then .next s
    else .next ((s.onBld fun b => { b with retire := some { r with copying := true } }).setReg R.BLD_HBM_RETIRING 1)
  | none => .next s

/-- The reply a retirement waits for. -/
def State.retireReply (s : State) (st : St) : State :=
  match s.hcp.later.findSome? fun l => match l with
    | .channelRetire ref => some ref
    | _ => none with
  | none => s
  | some ref => (s.onHcp fun h => { h with later := dropFirst (.channelRetire ref) h.later }).hostReply ref st []

/-- A range of HBM that no longer exists: its bytes and its poison are gone. -/
def State.dropRange (s : State) (low n : Nat) : State :=
  { s with
    hbm := s.hbm.filter fun c => !(low ≤ c.1 && c.1 < low + n)
    hbmPoison := s.hbmPoison.filter fun p => !meets (64 * p.granule) 64 low n }

/-- The copy commits: the channel's entry, the capacity, the removed range gone, and a compute-only reset that waited for it
(R354). -/
def execChannelCopyDone (s : State) : Host.Outcome State Fault Refusal :=
  match s.bld.retire with
  | some r =>
    if !r.copying then .next s
    else
      let s := s.channelOut r.stack r.channel .ok
      let s := s.dropRange r.low (3 * 2 ^ 30)
      let s := (s.onBld fun b => { b with retire := none }).setReg R.BLD_HBM_RETIRING 0
      let s := (s.post .channelRetired 0xFFF (formO .ok s.node 0 0)).retireReply .ok
      match s.bld.resetAfterCopy with
      | some (k, ref) => .next ((s.onBld fun b => { b with resetAfterCopy := none }).askCompute k ref)
      | none => .next s
  | none => .next s

end Sys2Proof.Machine
end

