-- ==== Sys2Proof/Machine/Remote.lean ====
section
/-! DEFINITION. Ordered channels at their source, and the end of remote operations (sections 9.5 and 9.9): acknowledgement,
retransmission, unreachable nodes (R250 to R252), responses and timeouts (R266, R267), refused sprayed packets at their
source (R265), refused engine messages (R434), register accesses of another node (R335). -/

namespace Sys2Proof.Machine

/-! ### Register accesses of another node (R260, R335) -/

/-- The payload of a CSR reply: DONE, and the values read. -/
def csrPayload (write : Bool) (done : List Nat) : List Byte :=
  toBytes 8 done.length ++ (if write then [] else done.flatMap (toBytes 8))

/-- The next access of a CSR command at another node; the reply once none is left, or the node is unreachable. -/
def State.csrNext (s : State) (ref : Nat) (write : Bool) (node addr : Nat) (values done : List Nat) : State :=
  match values with
  | [] => s.hostReply ref .ok (csrPayload write done)
  | v :: _ =>
    if addr % 8 ≠ 0 then s.hostReply ref .addrInvalid (csrPayload write done)
    else if s.isUnreachable node then s.hostReply ref .nodeUnreachable (csrPayload write done)
    else
      let tag := s.newTag
      let a := gAddr node 3 addr
      let kind := if write then RemoteKind.csrWrite else .csrRead
      let h : OpHdr := ⟨a, 0, 0, 8, tag⟩
      ((s.addRemote ⟨tag, kind, node, a, 0, 8, 0, .csr ref⟩).onHcp fun p => { p with
        later := p.later ++ [.csr ref write node addr values done tag] }).inject none
        (mkFrame s.node node false (if write then .store h (toBytes 8 v) else .load h))

/-- An access of a CSR command at another node has ended. -/
def State.csrAnswered (s : State) (ref : Nat) (st : St) (value : Nat) : State :=
  let mine := fun (l : Later) => match l with
    | .csr r .. => r == ref
    | _ => false
  match s.hcp.later.find? mine with
  | some (.csr _ write node addr (_ :: values) done _) =>
    let s := s.onHcp fun p => { p with later := p.later.filter fun l => !mine l }
    if st = .ok then s.csrNext ref write node (addr + 8) values (done ++ [value])
    else s.hostReply ref st (csrPayload write done)
  | _ => s

/-! ### The end of a remote operation (R266) -/

/-- The context a remote operation is done for. -/
def State.remoteCtx (s : State) (o : RemoteOp) : Nat :=
  match o.who with
  | .core c _ _ => (s.core c).ctx
  | .queue q _ => s.reg (R.XFR_Q_A_CONTEXT q)
  | .csr _ => 0xFFF

/-- What a target answers: a status, a load's data, an atomic's prior word, and whether the data carries poison. -/
structure Answer where
  status : St
  data : List Byte
  prior : Nat
  poison : Bool
  deriving DecidableEq, Repr

/-- An operation that ends without an answer of the target. -/
def noAnswer (st : St) : Answer := ⟨st, [], 0, false⟩

/-- A core's operation ends: a load's data or poison (R267), a fault for a refused SIGNAL or ARRIVE (Table 5.2). -/
def State.coreAnswered (s : State) (o : RemoteOp) (c done pc : Nat) (a : Answer) : State :=
  match o.kind with
  | .load =>
    let at_ := c * obSize + o.dest
    let s := if a.status = .ok then s.place .op at_ (a.data.take o.len) a.poison else s.poison .op at_ o.len .poisonRead
    s.instrAnswered c done pc
  | .signal => if a.status = .ok then s.instrAnswered c done pc else s.coreFault c a.status pc 0x89
  | .arrive => if a.status = .ok then s.instrAnswered c done pc else s.coreFault c a.status pc 0x8A
  | _ => s.instrAnswered c done pc

/-- A transfer engine's operation ends; an ATOMIC writes the prior word at LOCAL (R257, Table 10.2). -/
def State.queueAnswered (s : State) (o : RemoteOp) (q idx : Nat) (a : Answer) : State :=
  match s.xfr.flights.find? fun r => r.q == q && r.idx == idx with
  | none => s
  | some r =>
    let s := if o.kind = .atomic ∧ a.status = .ok ∧ r.wr.aop ≠ 0 then
        s.wrNum (spaceMem r.wr.locSpace) r.wr.locOff 8 a.prior
      else s
    s.completeReq r a.status

/-- An outstanding operation completes. -/
def State.completeRemote (s : State) (o : RemoteOp) (a : Answer) : State :=
  let s := if o.dst ≠ s.node ∧ (a.status = .nodeResetting ∨ a.status = .remoteTimeout) then s.markUnreachable o.dst else s
  if o.kind = .read then s.readFailed o.tag a.status
  else
    let s := s.dropRemote o.tag
    match o.who with
    | .core c done pc => s.coreAnswered o c done pc a
    | .queue q idx => s.queueAnswered o q idx a
    | .csr ref => s.csrAnswered ref a.status (rdNat (fun k => a.data.getD k 0) 0 8)

/-- What a response frame answers: the TAG and the kinds of operation it may belong to. -/
def Body.answer? : Body → Option (Nat × List RemoteKind × Answer)
  | .loadResp tag st data => some (tag, [.load, .csrRead], ⟨st, data, 0, false⟩)
  | .storeResp tag st => some (tag, [.store, .csrWrite], noAnswer st)
  | .atomicResp tag st prior => some (tag, [.atomic], ⟨st, [], prior, false⟩)
  | .signalResp tag st => some (tag, [.signal], noAnswer st)
  | .arriveResp tag st => some (tag, [.arrive], noAnswer st)
  | _ => none

/-- A refused access reported (R255, R265). -/
def State.postRefused (s : State) (ctx : Nat) (st : St) (dst region addr : Nat) : State :=
  s.post (if st = .keyRevoked then .keyRevoked else .remoteRefused) ctx (formR st dst region addr)

/-- A response to an operation of this node; one that answers nothing outstanding is late (R266). -/
def State.response (s : State) (f : Frame) (tag : Nat) (kinds : List RemoteKind) (a : Answer) : State :=
  match (s.remote? tag).filter fun o => o.dst == f.src && kinds.contains o.kind with
  | none => s.bump R.FAB_STATS_LATE_RESPONSES
  | some o =>
    let s := if a.status = .signalUncovered then s.postRefused (s.remoteCtx o) a.status o.dst o.region o.addr else s
    s.completeRemote o { a with poison := f.poison }

/-- REMOTE_TIMEOUT posted, at most once per destination per millisecond. -/
def State.postTimeout (s : State) (o : RemoteOp) : State :=
  let ms := s.aon / 1000 + 1
  if lookupD 0 s.fab.timeoutPosted o.dst = ms then s
  else (s.onFab fun f => { f with timeoutPosted := assign 0 o.dst ms f.timeoutPosted }).post .remoteTimeout (s.remoteCtx o)
    (formR .remoteTimeout o.dst o.region o.addr)

/-- A READ frame still awaits its piece. -/
def State.pieceAwaited (s : State) (tag addr : Nat) : Bool :=
  (s.readFlight tag).any fun r => match r.prog with
    | .read _ left _ _ => left.any (·.1 == addr)
    | _ => false

/-- REMOTE_US has elapsed for an operation; of a READ, for one of its frames (R266, R289). -/
def State.timedOut (s : State) (o : RemoteOp) (addr : Nat) : State :=
  if o.kind = .read then
    if s.pieceAwaited o.tag addr then
      (((s.bump R.FAB_STATS_TIMEOUTS).postTimeout o).markUnreachable o.dst).readRefused o.tag addr .remoteTimeout
    else s
  else ((s.bump R.FAB_STATS_TIMEOUTS).postTimeout o).completeRemote o (noAnswer .remoteTimeout)

/-! ### Refused sprayed packets at their source (R265) -/

/-- The context a WRITE is done for, by a MSG_ID in its group. -/
def State.writeCtx (s : State) (dst id : Nat) : Nat :=
  match s.xfr.flights.find? fun r => gNode r.wr.remote == dst && (match r.prog with
    | .write g .. => (id + 2 ^ 31 - g.first) % 2 ^ 31 < g.count
    | _ => false) with
  | some r => s.reg (R.XFR_Q_A_CONTEXT r.q)
  | none => 0xFFF

/-- The source learns of a refused sprayed packet: the event, and for a piece of a READ its end. -/
def State.sprayRefused (s : State) (src : Nat) (st : St) (region addr id : Nat) : State :=
  if id < 2 ^ 31 then s.postRefused (s.writeCtx src id) st src region addr
  else
    let tag := id - 2 ^ 31
    let ctx := ((s.remote? tag).map s.remoteCtx).getD 0xFFF
    (s.postRefused ctx st src region addr).readRefused tag addr st

/-! ### Refused engine messages (R434) -/

/-- A refused message put where it is sent again from, behind those of its request refused before it. -/
def State.retryLater (s : State) (dst : Nat) (m : Msg) : State :=
  let mine := fun (r : NakRetry) => r.dst == dst && (m.req?.isSome && decide (r.req = m.req?) || decide (r.refused = [m]))
  if s.fab.nakRetries.any mine then
    let again := fun (r : NakRetry) => { r with
      refused := if r.refused.contains m then r.refused else r.refused ++ [m]
      resent := false }
    s.onFab fun f => { f with nakRetries := updateAll mine again f.nakRetries }
  else s.onFab fun f => { f with nakRetries := f.nakRetries ++ [⟨dst, m.req?, [m], [], false⟩] }

/-- A command forwarded under a reference. -/
def Later.isForward (l : Later) (ref : Nat) : Bool :=
  match l with
  | .forwarded r .. => r == ref
  | _ => false

/-- A forwarded command is waited for no more. -/
def State.dropForwarded (s : State) (ref : Nat) : State :=
  s.onHcp fun h => { h with later := h.later.filter fun l => !l.isForward ref }

/-- A host command forwarded to a node is over, with a status. -/
def State.forwardedEnds (s : State) (ref : Nat) (st : St) (payload : List Byte) : State :=
  if s.hcp.later.any (·.isForward ref) then (s.dropForwarded ref).hostReply ref st payload else s

/-- An attempt to forward a command failed: at the home the deputy is tried, at the deputy the home's failure is the reply. -/
def State.forwardFails (s : State) (ref : Nat) (st : St) : State :=
  match s.hcp.later.findSome? fun l => match l with
    | .forwarded r _ c tenant failed => if r = ref then some (c, tenant, failed) else none
    | _ => none with
  | none => s
  | some (_, _, some st) => s.forwardedEnds ref st []
  | some (c, tenant, none) => (s.dropForwarded ref).toDeputy c tenant ref st

/-- The reply of the node a command was forwarded to. A deputy that has not adopted the home answers ST_NODE_UNREACHABLE: the home's
failure is then the reply (R330). -/
def State.forwardedReply (s : State) (ref : Nat) (st : St) (payload : List Byte) : State :=
  if st = .nodeUnreachable then s.forwardFails ref st else s.forwardedEnds ref st payload

/-- REMOTE_US has elapsed since a command was forwarded: where the node has not even acknowledged it, the attempt failed; one the
node has taken is answered when its outcome is known (R330, R440; log entry 100). -/
def State.forwardTimeout (s : State) (ref : Nat) : State :=
  match s.hcp.later.findSome? fun l => match l with
    | .forwarded r n .. => if r = ref then some n else none
    | _ => none with
  | none => s
  | some n =>
    let carries := fun (f : Frame) => match f.body with
      | .engine _ _ _ _ _ _ (some (.command _ _ r)) => r == ref
      | _ => false
    if (s.outCh n).unacked.any carries then (s.markUnreachable n).forwardFails ref .nodeUnreachable else s

/-- REMOTE_US has elapsed since a frame's first transmission. -/
def execRemoteTimeoutExpiry (what : Awaited) (s : State) : Host.Outcome State Fault Refusal :=
  match what with
  | .command ref => .next (s.forwardTimeout ref)
  | .frame tag addr =>
    match s.remote? tag with
    | none => .next s
    | some o => .next (s.timedOut o addr)

/-- A message answered with ST_NODE_RESETTING, by its kind. -/
def State.engineRefused (s : State) (src : Nat) (m : Msg) : State :=
  let s := s.markUnreachable src
  if m.mustLearn then s.retryLater src m
  else match m with
  | .mvCommitReq .. => s.retryLater src m
  | .mztQuery q | .mztKvWrite q =>
    match s.mztOut? src q.tag (decide (m = .mztQuery q)) with
    | some o => s.mztRefused o .nodeResetting
    | none => s
  | .command _ _ ref => s.forwardFails ref .nodeResetting
  | .probe => s.probeFailed src
  | _ => s

/-- A refused message is still to be sent: MV_COMMIT_REQ only while its move waits for the commit. -/
def State.stillSend (s : State) (m : Msg) : Bool :=
  match m with
  | .mvCommitReq id .. => (s.work? id).any fun w => !w.doubt && w.move.any fun v => decide (v.phase = .committing)
  | _ => true

/-- Messages sent to a node in turn. -/
def State.sendEach (s : State) (dst : Nat) : List Msg → State
  | [] => s
  | m :: ms => (s.sendMsg dst m).sendEach dst ms

/-- One refused message's retry is due: sent again, or once it stood unrefused for a period the messages behind it go. -/
def State.nakRetry (s : State) (r : NakRetry) : State :=
  let s := s.onFab fun f => { f with nakRetries := dropFirst r f.nakRetries }
  match r.refused with
  | [] => s.sendEach r.dst r.behind
  | m :: ms =>
    if r.resent then (s.contact r.dst).sendEach r.dst (ms ++ r.behind)
    else if s.stillSend m then (s.sendMsg r.dst m).onFab fun f => { f with
      nakRetries := f.nakRetries ++ [{ r with resent := true }] }
    else s.sendEach r.dst (ms ++ r.behind)

/-- QUERY_RETRY_US has passed: every refused message to a node is sent again. -/
def execEngineNakRetryExpiry (dst : Nat) (s : State) : Host.Outcome State Fault Refusal :=
  .next ((s.fab.nakRetries.filter (·.dst == dst)).foldl State.nakRetry s)

/-! ### Unreachable nodes (R252) -/

/-- A destination is declared unreachable: everything that waits for it there learns of it. -/
def State.nodeLost (s : State) (dst : Nat) : State :=
  let c := s.outCh dst
  if c.unreachable then s else
    let s := (s.putOut { c with unreachable := true }).post .nodeUnreachable 0xFFF (formO .nodeUnreachable dst 0 0)
    let refs := s.hcp.later.filterMap fun l => match l with
      | .forwarded ref n .. => if n = dst then some ref else none
      | _ => none
    let s := s.onFab fun f => { f with nakRetries := f.nakRetries.filter (·.dst != dst) }
    let s := (refs.foldl (fun s ref => s.forwardFails ref .nodeUnreachable) s).probeFailed dst
    ((s.syncNodeLost dst).holderLost dst).mztNodeLost dst

/-! ### Acknowledgement and retransmission (R250) -/

/-- OACK covers a sequence number. -/
def oackCovers (oack seq : Nat) : Bool := decide ((oack + 2 ^ 32 - seq - 1) % 2 ^ 32 < 2 ^ 31)

/-- Frames of a channel put on the fabric again, each with the OACK of now. -/
def State.resend (s : State) (dst : Nat) (fs : List Frame) : State :=
  let n := ((s.inCh? dst).map (·.expected)).getD 0
  fs.foldl (fun s f => s.forward { f with oack := n }) s

/-- Every unacknowledged frame is retransmitted; the ORETX_LIMIT-th time without progress the destination is unreachable; the
limit is that of when the oldest was first sent (R272). -/
def State.retransmit (s : State) (dst : Nat) : State :=
  let c := s.outCh dst
  if c.unreachable || c.unacked.isEmpty then s else
    let s := (s.putOut { c with retx := c.retx + 1 }).resend dst c.unacked
    if c.retxLimit ≤ c.retx + 1 then s.nodeLost dst else s

/-- An OACK taken: acknowledged frames are freed; progress on an unreachable channel posts NODE_REACHABLE and resumes it
(R252). -/
def State.takeOack (s : State) (dst oack : Nat) : State :=
  match s.out? dst with
  | none => s
  | some c =>
    let left := c.unacked.filter fun g => !oackCovers oack g.oseq
    if left.length = c.unacked.length then s else
      let s := s.putOut { c with
        unacked := left
        limits := c.limits.filter fun x => !oackCovers oack x.1
        retx := 0
        unreachable := false }
      let s := if c.unreachable then
          (((s.markReachable dst).post .nodeReachable 0xFFF (formO .ok dst 0 0)).resend dst left).regained dst
        else s
      (s.pumpWaiting dst c.waiting.length).pumpDst dst

/-- A frame numbered afresh in a channel that starts again; nothing sprayed has been sent on it (R287). -/
def restartFrame (inc i : Nat) (f : Frame) : Frame :=
  { (coverFrame 0 f) with
    oseq := i
    sync := i == 0
    incarnation := inc }

/-- The destination has no state of the channel: it starts again at OSEQ 0 (R251), and unfinished WRITEs fail (R287). -/
def State.restartChannel (s : State) (dst : Nat) : State :=
  match s.out? dst with
  | none => s
  | some c =>
    let fs := (List.range c.unacked.length).zipWith (restartFrame s.fab.incarnation) c.unacked
    let s := (s.putOut { c with
      begun := !fs.isEmpty
      unacked := fs
      limits := (List.range c.limits.length).zipWith (fun i x => (i, x.2)) c.limits
      nextSeq := fs.length
      retx := 0 }).writesLost dst
    if c.unreachable then s else s.resend dst fs

/-- A standalone OACK arrives: it acknowledges, asks for a restart, or, where it acknowledges nothing new, names a gap. -/
def execOack (f : Frame) (s : State) : Host.Outcome State Fault Refusal :=
  let s := s.takeFrame f
  if f.body ≠ .oack then .next s
  else if f.sync then .next (s.restartChannel f.src)
  else
    let sent := (s.outCh f.src).unacked
    .next (if sent.any fun g => oackCovers f.oack g.oseq then s.takeOack f.src f.oack else s.retransmit f.src)

/-- The oldest unacknowledged frame has waited ORETX_US. -/
def execOretxExpiry (dst : Nat) (s : State) : Host.Outcome State Fault Refusal := .next (s.retransmit dst)

/-- The probe of an unreachable channel: its oldest unacknowledged frame (R252). -/
def execProbeExpiry (dst : Nat) (s : State) : Host.Outcome State Fault Refusal :=
  let c := s.outCh dst
  .next (if c.unreachable then s.resend dst (c.unacked.take 1) else s)

/-- A standalone OACK of the channel from a source. -/
def State.sendOack (s : State) (src : Nat) (sync : Bool) : State :=
  let c := s.inCh? src
  let s := match c with
    | some c => s.putIn { c with oackOwed := false }
    | none => s
  s.forward { mkFrame s.node src false .oack with
    sync := sync
    incarnation := s.fab.incarnation
    oack := (c.map (·.expected)).getD 0 }

/-- No reverse frame has carried OACK within 2 µs. -/
def execStandaloneOackExpiry (src : Nat) (s : State) : Host.Outcome State Fault Refusal :=
  .next (if (s.inCh? src).any (·.oackOwed) then s.sendOack src false else s)

end Sys2Proof.Machine
end

