-- ==== Sys2Proof/Machine/Csr.lean ====
section
/-! DEFINITION. The control space as software sees it (R7 to R11, R26, R335): what each register reads, what a write to each
does, node numbers (R242, R243), route entries (R247, R248), and the host commands CSR_READ and CSR_WRITE. -/

namespace Sys2Proof.Machine

/-! ### Registers that show other state -/

/-- The element of a register array an address names. -/
def elemAt (base stride addr : Nat) : Nat := (addr - base) / stride

/-- The request state engine's and the page engine's registers that show other state. -/
def State.showRse (s : State) (addr : Nat) : List (Fld × Nat) :=
  if addr = 0x40030 then
    [(R.RSE_OCCUPANCY_MIRRORS, s.rse.mirrors.length),
     (R.RSE_OCCUPANCY_RECORDS, s.recordsUsed)]
  else if addr = 0x80010 then
    [(R.PGE_FREE_COUNT_FREE_UNITS, s.freeUnits), (R.PGE_FREE_COUNT_FREE_ENTRIES, s.freeEntries)]
  else if addr = 0x80018 then
    [(R.PGE_RESERVED_RES_UNITS, s.reservedUnits), (R.PGE_RESERVED_RES_ENTRIES, s.reservedEntries)]
  else if 0x83000 ≤ addr ∧ addr % 32 = 0 then
    let u := elemAt 0x83000 32 addr
    [(R.PGE_UMBER_CTRL_DRAINED u, bit (s.poolDrained u))]
  else []

/-- Mezzotint's registers that show other state. -/
def State.showMzt (s : State) (addr : Nat) : List (Fld × Nat) :=
  let queued := fun lc => (s.mzt.queue.filter fun x => x.q.lc == lc).length
  if addr = 0xC0000 then [(R.MZT_CTRL_BUSY, bit (!s.mzt.queue.isEmpty))]
  else if addr = 0xC0030 then
    [(R.MZT_QUEUE_LC_QUEUED, queued true), (R.MZT_QUEUE_BE_QUEUED, queued false),
     (R.MZT_QUEUE_OUTSTANDING, s.mztOutstanding)]
  else []

/-- The core's registers that show other state. -/
def State.showCore (s : State) (addr : Nat) : List (Fld × Nat) :=
  let t := elemAt 0x1000000 0x100000 addr
  let k := addr % 0x100000 / 4096
  let c := s.core (4 * t + k)
  if addr % 4096 = 0 then
    [(R.CORE_STATUS_CONTEXT (4 * t + k), c.ctx), (R.CORE_STATUS_POWER (4 * t + k), c.powerNow.code),
     (R.CORE_STATUS_PC (4 * t + k), c.pc)]
  else if addr % 4096 = 0x18 then [(R.CORE_PHYS_PHYS (4 * t + k), if s.bld.spared.contains (t, k) then 4 else k)]
  else []

/-- The expander store's registers that show other state. -/
def State.showExp (s : State) (addr : Nat) : List (Fld × Nat) :=
  let ts := s.exp.tables
  let ds := s.exp.slots
  if addr = 0x140018 then
    [(R.EXP_TABLE_COUNT_DROPPING, (ts.filter (·.dropping)).length),
     (R.EXP_TABLE_COUNT_LOADED, 1 + (ts.filter (!·.dropping)).length)]
  else if addr = 0x140020 then
    [(R.EXP_DSET_COUNT_DROPPING, (ds.filter (·.dropping)).length), (R.EXP_DSET_COUNT_LOADED, ds.length)]
  else if 0x141000 ≤ addr ∧ addr < 0x149000 then
    let i := elemAt 0x141000 8 addr
    if i = 0 then [(R.EXP_TABLE_BINDS 0, s.exp.storedBinds.length)] else match s.table? i with
    | some t => [(R.EXP_TABLE_STATE i, if t.dropping then 2 else 1), (R.EXP_TABLE_ELEMENT i, t.element),
        (R.EXP_TABLE_BINDS i, t.binds.length), (R.EXP_TABLE_RESIDENT i, t.resident.length)]
    | none => []
  else if 0x149000 ≤ addr then
    let k := elemAt 0x149000 16 addr
    match s.dslot? k with
    | some d => [(R.EXP_DSET_A_STATE k, if d.dropping then 2 else 1), (R.EXP_DSET_A_BINDS k, d.binds.length),
        (R.EXP_DSET_A_MODEL_ID k, d.modelId), (R.EXP_DSET_A_VARIANT_ID k, d.variantId), (R.EXP_DSET_B_BASE k, d.base)]
    | none => []
  else []

/-- Burin's and the phase machine's registers that show other state. -/
def State.showSch (s : State) (addr : Nat) : List (Fld × Nat) :=
  if addr = 0x100030 then
    [(R.SCH_ACTIVE_ACTIVE_REQUESTS, s.sch.active.length), (R.SCH_ACTIVE_OPEN_CONTEXTS, s.sch.ctxs.length)]
  else if 0x101000 ≤ addr ∧ addr < 0x109000 then
    let c := elemAt 0x101000 8 addr
    match s.ctx? c with
    | some x => [(R.SCH_CTX_STATE c, x.state.code), (R.SCH_CTX_KIND c, x.desc.kind.code), (R.SCH_CTX_COMP c, x.desc.comp),
        (R.SCH_CTX_REQUESTS c, (s.rse.works.filter fun w => decide (w.status = .owned) && w.r.context == c).length)]
    | none => []
  else if addr = 0x400000 then [(R.PHS_CTRL_ADMITTING, bit s.admitting)]
  else []

/-- A port's registers that show its own link (Table 9.16); the neighbour is shown on direct ports. -/
def State.showPort (s : State) (p : Nat) : List (Fld × Nat) :=
  match s.link? (.port p) with
  | none => []
  | some l =>
    let st := [(R.FAB_PORT_STATUS_STATE p, l.state.code), (R.FAB_PORT_STATUS_PROTO p, l.proto),
      (R.FAB_PORT_STATUS_ENCRYPTING p, bit l.crypt.isSome)]
    match l.peer with
    | some h =>
      if s.reg (R.FAB_PORT_CFG_MODE p) = 0 then
        st ++ [(R.FAB_PORT_NBR_A_IDENTITY_TAG p, h.identityTag), (R.FAB_PORT_NBR_B_FW_GENERATION p, h.fwGeneration),
          (R.FAB_PORT_NBR_B_NODE_VALID p, bit h.nodeValid), (R.FAB_PORT_NBR_B_PORT p, h.port),
          (R.FAB_PORT_NBR_B_NODE p, h.nodeNumber)]
      else st
    | none => st

/-- A route entry's word (Table 9.9). -/
def Route.word (r : Route) : Nat :=
  bit r.valid * 2 ^ 63 + r.ordPort * 2 ^ 59 + r.sprayMask * 2 ^ 43 + r.detourMask * 2 ^ 27 + r.nextNode * 2 ^ 11 + r.dist * 2 ^ 5

/-- The fabric's registers that show other state. -/
def State.showFab (s : State) (addr : Nat) : List (Fld × Nat) :=
  if addr < 0x280000 then
    if addr % 0x10000 < 0x100 then s.showPort (4 * elemAt 0x200000 0x10000 addr + addr % 0x10000 / 0x40) else []
  else if addr = 0x280038 then
    [(R.FAB_RT_ENTRY_ENTRY, ((s.fab.routes.find? (·.dst == s.reg R.FAB_RT_INDEX_INDEX)).map Route.word).getD 0)]
  else if addr = 0x280090 then
    match s.fab.revoking with
    | some n => [(R.FAB_REGION_STATUS_INFLIGHT, min (((s.region? n).map (·.inflight)).getD 0) 65535)]
    | none => []
  else if addr = 0x2800A8 then [(R.FAB_ROUTES_VALID_ROUTES, (s.fab.routes.filter (·.valid)).length)]
  else if 0x281000 ≤ addr ∧ addr < 0x2A0000 then
    let i := elemAt 0x281000 8 addr
    let st := (s.linkState (.virt i)).code
    [(R.FAB_PEER_STATE i, if st < 2 then 0 else st)]
  else []

/-- The transfer engines' and sync units' registers that show other state. -/
def State.showXfr (s : State) (addr : Nat) : List (Fld × Nat) :=
  if addr = 0x300020 then
    [(R.XFR_INFLIGHT_REQUESTS, s.xfr.flights.length), (R.XFR_INFLIGHT_RECORDS, s.xfr.recs.length)]
  else if 0x301000 ≤ addr ∧ addr < 0x309000 ∧ addr % 32 = 0x18 then
    let q := elemAt 0x301000 32 addr
    [(R.XFR_Q_D_POSTED q, s.postedOf q)]
  else if addr = 0x180010 then
    [(R.SYN_CTR_DATA_VALUE, if s.tileIn (s.reg R.SYN_CTR_SEL_TILE) then s.counter s.selCounter else 0)]
  else if addr = 0x180018 then
    let o := s.syn.owners.find? (·.key == s.selCounter)
    [(R.SYN_CTR_META_OWNER, (o.map (·.owner)).getD 0xFFF), (R.SYN_CTR_META_EXCLUDED, bit (s.excluded s.selCounter)),
     (R.SYN_CTR_META_SNAP, (o.map (·.snap)).getD 0)]
  else []

/-- The host port's registers that show other state. -/
def State.showHcp (s : State) (addr : Nat) : List (Fld × Nat) :=
  let m := s.meter (s.reg R.TRF_METER_SEL_TENANT)
  if addr = 0x10008 then (if s.hostTrains then [(R.HCP_PORT_STATUS_STATE, 1)] else [])
  else if addr = 0x10078 then [(R.HCP_QUEUE_FAST_USED, s.pathUsed true), (R.HCP_QUEUE_FW_USED, s.pathUsed false)]
  else if addr = 0x10098 then
    match s.qp? (s.reg R.HCP_QP_SEL_INDEX) with
    | some q => [(R.HCP_QP_STATUS_STATE, if q.error then 2 else 1), (R.HCP_QP_STATUS_REMOTE_QPN, q.remoteQpn),
        (R.HCP_QP_STATUS_SYNDROME, q.syndrome), (R.HCP_QP_STATUS_LAST_STATUS, q.lastStatus)]
    | none => []
  else if addr = 0x20010 then [(R.TRF_METER_A_PIR, m.pir), (R.TRF_METER_A_CIR, m.cir)]
  else if addr = 0x20018 then
    [(R.TRF_METER_B_ENABLE, bit m.enable), (R.TRF_METER_B_MODE, bit m.bytes), (R.TRF_METER_B_PBS, m.pbs),
     (R.TRF_METER_B_CBS, m.cbs)]
  else if addr = 0x20020 then [(R.TRF_METER_C_GREEN, m.green), (R.TRF_METER_C_YELLOW, m.yellow)]
  else if addr = 0x20028 then [(R.TRF_METER_D_RED, m.red), (R.TRF_METER_D_YELLOW_DROPPED, m.yellowDropped)]
  else []

/-- The domains of Table 15.7 that run: bit n - 1 for domain n. -/
def State.clocks (s : State) : Nat :=
  let on := !s.bld.off && decide (s.bld.node ≠ .failed)
  let past := fun n => on && (n ≤ s.bld.stage)
  let fabric := on && s.pcr.ref156 && (List.range s.ports).any fun p => s.reg (R.FAB_PORT_CFG_MODE p) != 2
  let host := past 9 && s.pcr.ref156
  let tile := (List.range 32).any fun t => s.tileIn t && !s.pcr.gatedTiles.contains t
  let queue := (List.range 1024).any fun q => s.flag (R.XFR_Q_A_VALID q)
  let bits : List (Nat × Bool) :=
    [(0, true), (1, s.pcr.ref25), (2, past 3), (3, past 4 && tile), (4, past 4), (5, past 4), (6, past 4), (7, past 4),
     (8, past 4), (9, fabric), (10, fabric), (11, host), (12, host), (13, past 4 && s.fab.links.any (·.crypt.isSome)),
     (14, past 4 && queue), (15, past 4 && s.flag R.SEC_DEBUG_TRACE), (16, past 1)]
  (bits.map fun b => bit b.2 * 2 ^ b.1).sum

/-- Microseconds below full rate, up to now. -/
def State.throttleTime (s : State) : Nat :=
  s.reg R.PCR_THROTTLE_TIME_US + if s.reg R.PCR_STATUS_THROTTLE < 100 then s.aon - s.pcr.throttleAt else 0

/-- The power die's, the security block's and the event unit's registers that show other state. -/
def State.showPcr (s : State) (addr : Nat) : List (Fld × Nat) :=
  if addr = 0x600010 then
    [(R.SEC_DEBUG_REMAINING_TICKS, (s.sec.debugUntil.map (· - s.tick)).getD 0)]
  else if addr = 0x700028 then
    [(R.PCR_TILE_AWAKE_AWAKE, (((List.range 32).filter fun t => s.tileIn t && !s.pcr.gatedTiles.contains t).map (2 ^ ·)).sum)]
  else if addr = 0x700030 then [(R.PCR_CLOCKS_RUNNING, s.clocks)]
  else if addr = 0x700048 then [(R.PCR_THROTTLE_TIME_US, s.throttleTime)]
  else if 0xC00000 ≤ addr then
    let i := elemAt 0xC00000 8 addr
    match s.evt.entries.find? fun e => e.seq % 65536 = i / 4 with
    | some e => [(R.EVT_ENTRY_WORD i, rdNat (fun k => e.bytes.getD k 0) (8 * (i % 4)) 8)]
    | none => []
  else []

/-- Readings no command brings: a fresh free value at each read. -/
def State.showFree (s : State) (addr : Nat) : List (Fld × Nat) :=
  let r := Config.reading s.fresh
  if addr = 0x700008 then [(R.PCR_SUPPLY_AON_MV, r), (R.PCR_SUPPLY_POWER_W, r / 2 ^ 16)]
  else []

/-- The fields of the register at an address that show other state, with what they show now. -/
def State.shown (s : State) (addr : Nat) : List (Fld × Nat) :=
  (if addr < 0x40000 then s.showHcp addr
  else if addr < 0xC0000 then s.showRse addr
  else if addr < 0x100000 then s.showMzt addr
  else if addr < 0x140000 then s.showSch addr
  else if addr < 0x180000 then s.showExp addr
  else if addr < 0x200000 then s.showXfr addr
  else if addr < 0x300000 then s.showFab addr
  else if addr < 0x400000 then s.showXfr addr
  else if addr < 0x500000 then s.showSch addr
  else if addr < 0x1000000 then s.showPcr addr
  else s.showCore addr) ++ s.showFree addr

/-! ### Reads -/

/-- The block of an absent or withdrawn tile, or the window of an absent router die: reads 0, ignores writes (R26). -/
def State.absentBlock (s : State) (addr : Nat) : Bool :=
  (0x1000000 ≤ addr && addr < 0x3000000 && !s.tileIn (elemAt 0x1000000 0x100000 addr))
    || (0x200000 ≤ addr && addr < 0x240000 && s.dies ≤ elemAt 0x200000 0x10000 addr)

/-- What a read of a register clears: its RC fields (R7). -/
def State.clearRc (s : State) (addr : Nat) : State :=
  let s := match regRowAt addr with
    | some r => s.setRegs ((r.fields.filter fun f => decide (f.acc = .rc)).map fun f => (f.at addr, 0))
    | none => s
  let m := s.meter (s.reg R.TRF_METER_SEL_TENANT)
  if addr = 0x20020 then s.putMeter { m with
    green := 0
    yellow := 0 }
  else if addr = 0x20028 then s.putMeter { m with
    red := 0
    yellowDropped := 0 }
  else if addr = 0x700048 then s.onPcr fun p => { p with throttleAt := s.aon }
  else s

/-- A read of the control space (R9, R26): the word, or the status of a refused access. -/
def State.csrRead (s : State) (addr : Nat) : Except St Nat × State :=
  if addr % 8 ≠ 0 then (.error .addrInvalid, s)
  else if s.absentBlock addr || (regRowAt addr).isNone then (.ok 0, s)
  else
    let v := (s.setRegs (s.shown addr)).rawReg addr
    let s := if (s.showFree addr).isEmpty then s else s.next.2
    (.ok v, s.clearRc addr)

/-! ### Node numbers (R242, R243) -/

/-- A number written to FAB_ASSIGN. -/
def State.assignNumber (s : State) (n : Nat) : State × St :=
  if s.flag R.CAP_NODE_NODE_VALID then (s, if n = s.node then .ok else .badState)
  else if s.reg R.CAP_LIMITS_DOMAIN_MAX < 1 then (s, .unitAbsent)
  else (((s.setRegs [(R.FAB_ASSIGN_NUMBER, n), (R.FAB_ASSIGN_VALID, 1), (R.FAB_ASSIGN_RELEASE, 0)]).capChange
    [(R.CAP_NODE_NODE_NUMBER, n), (R.CAP_NODE_NODE_VALID, 1)]).reReport, .ok)

/-- FAB_ASSIGN.NUMBER written. -/
def execFabAssignNumber (number : Nat) (s : State) : Host.Outcome State Fault Refusal :=
  .next (s.assignNumber (number % 65536)).1

/-- RELEASE written with a value: refused while the node is home to a record or owns a request. NUMBER takes the value's (RW, R7).
RELEASE stays set until the node is given a number again (W1S, R7; DESIGN CHOICE, log entry 78). -/
def State.releaseNumber (s : State) (value : Nat) : State × St :=
  if s.recordsUsed ≠ 0 then (s, .badState)
  else
    let t := s.setRegs [(R.FAB_ASSIGN_NUMBER, value % 65536), (R.FAB_ASSIGN_VALID, 0), (R.FAB_ASSIGN_RELEASE, 1)]
    (if s.flag R.CAP_NODE_NODE_VALID then (t.capChange [(R.CAP_NODE_NODE_VALID, 0)]).reReport else t, .ok)

/-- FAB_ASSIGN.RELEASE written. -/
def execFabAssignRelease (s : State) : Host.Outcome State Fault Refusal :=
  .next (s.releaseNumber (s.reg R.FAB_ASSIGN_NUMBER)).1

/-! ### Route entries (R247, R248) -/

/-- A route entry's fields (Table 9.9). -/
def routeOf (dst w : Nat) : Route :=
  ⟨dst, bitAt w 63, bitsOf w 62 59, bitsOf w 58 43, bitsOf w 42 27, bitsOf w 26 11, bitsOf w 10 5⟩

/-- INDEX goes on after an entry is written. -/
def State.rtNext (s : State) : State :=
  if s.flag R.FAB_RT_INDEX_AUTO_INC then s.setReg R.FAB_RT_INDEX_INDEX (s.reg R.FAB_RT_INDEX_INDEX + 1) else s

/-- VALID route entries (FAB_ROUTES). -/
def State.validRoutes (s : State) : List Route := s.fab.routes.filter (·.valid)

/-- An entry installed on every die. -/
def State.putRoute (s : State) (r : Route) : State := s.onFab fun f => { f with routes := upsert (·.dst == r.dst) r f.routes }

/-- FAB_RT_ENTRY written: the entry at INDEX is installed on every die, its fields kept with VALID = 0 too. A destination that loses
its entry with frames outstanding is unreachable (R252). -/
def State.routeWrite (s : State) (value : Nat) : State × St :=
  let dst := s.reg R.FAB_RT_INDEX_INDEX
  if bitAt value 63 then
    if s.reg R.CAP_LIMITS_DOMAIN_MAX ≤ (s.validRoutes.filter (·.dst != dst)).length + 1 then (s, .domainLimit)
    else ((s.putRoute (routeOf dst value)).rtNext, .ok)
  else
    let lost := (s.route? dst).isSome && !(s.outCh dst).unacked.isEmpty
    let s := s.putRoute (routeOf dst value)
    ((if lost then s.nodeLost dst else s).rtNext, .ok)

/-- FAB_RT_ENTRY written. -/
def execFabRtEntryWrite (value : Nat) (s : State) : Host.Outcome State Fault Refusal := .next (s.routeWrite value).1

/-! ### Writes -/

/-- FAB_REGION_CMD written (R264); `approved`: under an approved set (R391). -/
def State.regionCmdWrite (s : State) (value : Nat) (approved : Bool) : State × St :=
  let n := value % 2 ^ 20
  match bitsOf value 63 60 with
  | 1 => match s.regionCmdOk (!approved) with
    | some st => (s, st)
    | none => s.regionRegister n
  | 2 => match s.regionCmdOk (!approved) with
    | some st => (s, st)
    | none => s.regionRevoke n
  | 3 => match s.regionCmdOk false with
    | some st => (s, st)
    | none => (s.regionRead n, .ok)
  | _ => (s, ((s.regionCmdOk false).getD .badParam))

/-- SYN_BAR_CMD written (R309). -/
def State.barCmdWrite (s : State) (value : Nat) : State × St :=
  match bitsOf value 63 60 with
  | 1 => (s.barConfigure (value % 4096), .ok)
  | 2 => (s.barFree (value % 4096), .ok)
  | _ => (s, .badParam)

/-- A write with no effect but its register's fields: RW fields take the value, W1C fields clear where a 1 is written
(R7). -/
def State.plainWrite (s : State) (addr value : Nat) : State :=
  match regRowAt addr with
  | none => s
  | some r => (s.writeRw addr value).setRegs
      ((r.fields.filter fun f => decide (f.acc = .w1c) && s.reg (f.at addr) == 1 && f.of value == 1).map fun f => (f.at addr, 0))

/-- A write to the host port's registers. -/
def State.hostWrite (s : State) (addr value : Nat) : State × St :=
  if addr < 0x12000 then s.hcpWrite addr value
  else if addr < 0x20000 then s.windowWrite addr value
  else if addr < 0x20100 then s.meterWrite addr value
  else s.shaperWrite addr value

/-- A write to the request state engine's or page engine's registers. -/
def State.stateWrite (s : State) (addr value : Nat) : State × St :=
  if addr = 0x40000 then s.deputyWrite value
  else if addr = 0x40008 then s.mirrorHomeWrite value
  else if addr = 0x40028 then s.adoptWrite value
  else if addr = 0x80008 then s.poolWrite value
  else if addr = 0x80020 then ((s.plainWrite addr value).watermark, .ok)
  else if addr = 0x80028 then s.evictWrite value
  else if addr = 0x80040 ∨ (0x82000 ≤ addr ∧ addr < 0x83000) then s.ochreWrite addr value
  else if 0x81000 ≤ addr ∧ addr < 0x82000 then s.modelWrite (elemAt 0x81000 8 addr) value
  else if 0x83000 ≤ addr then
    if addr % 32 = 0 then s.umberCtrlWrite (elemAt 0x83000 32 addr) value else s.umberWrite addr value
  else (s.plainWrite addr value, .ok)

/-- A write to Mezzotint's registers. -/
def State.mztWrite (s : State) (addr value : Nat) : State × St :=
  if addr = 0xC0000 then s.mztCtrlWrite value
  else if addr = 0xC0008 then s.mztCoresWrite false value
  else if addr = 0xC0010 then s.mztCoresWrite true value
  else if addr = 0xC0018 ∨ addr = 0xC0020 then s.mztConfigWrite addr value
  else (s.plainWrite addr value, .ok)

/-- A write to Burin's registers. -/
def State.schWrite (s : State) (addr value : Nat) : State × St :=
  if addr = 0x100018 then s.ctxCmdWrite value
  else if 0x109000 ≤ addr ∧ addr < 0x119000 then
    if addr % 16 = 0 then s.queueWrite (elemAt 0x109000 16 addr) value else (s, .ok)
  else if 0x119000 ≤ addr then
    if addr % 32 < 16 then s.compWrite addr value else (s, .ok)
  else (s.plainWrite addr value, .ok)

/-- A write to the fabric's registers. -/
def State.fabWrite (s : State) (addr value : Nat) : State × St :=
  if addr < 0x280000 then
    if addr % 0x10000 < 0x100 ∧ addr % 0x40 = 0 then
      s.portCfgWrite (4 * elemAt 0x200000 0x10000 addr + addr % 0x10000 / 0x40) value
    else (s, .ok)
  else if addr = 0x280000 then s.fabCtrlWrite value
  else if addr = 0x280008 then (if bitAt value 63 then s.releaseNumber value else s.assignNumber (value % 65536))
  else if addr = 0x280018 then s.fabTimeoutWrite value
  else if addr = 0x280038 then s.routeWrite value
  else if addr = 0x280060 then s.regionBaseWrite value
  else if addr = 0x280070 then s.regionCmdWrite value false
  else if 0x281000 ≤ addr ∧ addr < 0x2A0000 then s.peerWrite (elemAt 0x281000 8 addr) value
  else (s.plainWrite addr value, .ok)

/-- A write to the transfer engines' registers. -/
def State.xfrWrite (s : State) (addr value : Nat) : State × St :=
  if addr = 0x300008 then s.msgBaseWrite value
  else if 0x301000 ≤ addr ∧ addr < 0x309000 then
    if addr % 32 = 0x18 then s.qdWrite (elemAt 0x301000 32 addr) value
    else if addr % 32 = 0x10 then (s, if elemAt 0x301000 32 addr < 64 then .accessDenied else .ok)
    else s.queueCfgWrite addr value
  else if 0x30A000 ≤ addr then
    if addr % 64 < 0x28 then s.groupWrite addr value
    else (s, if s.groupBusy (elemAt 0x30A000 64 addr) then .tableBusy else .ok)
  else (s.plainWrite addr value, .ok)

/-- A write to a register that exists and that software may write. -/
def State.regWrite (s : State) (addr value : Nat) : State × St :=
  if addr < 0x10000 then (s, .ok)
  else if addr < 0x40000 then s.hostWrite addr value
  else if addr < 0xC0000 then s.stateWrite addr value
  else if addr < 0x100000 then s.mztWrite addr value
  else if addr < 0x140000 then s.schWrite addr value
  else if addr = 0x140000 then s.expCmdWrite value
  else if addr = 0x140008 then s.expAddrWrite value
  else if addr = 0x180010 then (s.ctrDataWrite value, .ok)
  else if 0x180020 ≤ addr ∧ addr ≤ 0x180030 ∧ s.flag R.SYN_BAR_STATUS_BUSY then (s, .badState)
  else if addr = 0x180020 then s.barCmdWrite value
  else if addr < 0x200000 then (s.plainWrite addr value, .ok)
  else if addr < 0x300000 then s.fabWrite addr value
  else if addr < 0x400000 then s.xfrWrite addr value
  else if addr = 0x400010 then s.turnWrite value
  else if addr = 0x400020 then s.policyWrite value
  else if addr = 0x700018 then s.powerLimitWrite value
  else if addr = 0x800018 then s.eccCfgWrite value
  else (s.plainWrite addr value, .ok)

/-- A register only dual-approved commands change: the SEC and BLD blocks and FAB_KEY_POLICY (R335, section 9.12), and the
host table under HOST_LOCK (R392). -/
def State.csrGuarded (s : State) (addr : Nat) : Bool :=
  (0x500000 ≤ addr && addr < 0x700000) || addr == 0x280098
    || (s.flag R.SEC_STATE_HOST_LOCK && 0x11000 ≤ addr && addr < 0x11200)

/-- A write of the control space, local or of another node (R9, R26, R335). -/
def State.csrWrite (s : State) (remote : Bool) (addr value : Nat) : State × St :=
  if addr % 8 ≠ 0 then (s, .addrInvalid)
  else if s.absentBlock addr then (s, .ok)
  else if s.csrGuarded addr || (remote && 0x280040 ≤ addr && addr < 0x280060) then (s, .accessDenied)
  else if (regRowAt addr).isNone then (s, .ok)
  else s.regWrite addr value

/-- Software writes a control register. -/
def execCsrWriteGeneric (addr value : Nat) (s : State) : Host.Outcome State Fault Refusal :=
  .next (s.csrWrite false addr (value % 2 ^ 64)).1

/-! ### CSR_READ and CSR_WRITE (R335) -/

/-- Consecutive registers read until one is refused: the values, and the status. -/
def State.csrReads (s : State) (addr : Nat) (acc : List Nat) : Nat → List Nat × St × State
  | 0 => (acc, .ok, s)
  | n + 1 =>
    match s.csrRead addr with
    | (.ok v, s) => s.csrReads (addr + 8) (acc ++ [v]) n
    | (.error st, s) => (acc, st, s)

/-- Consecutive registers written until one is refused: how many, and the status. -/
def State.csrWrites (s : State) (addr : Nat) (n : Nat) : List Nat → Nat × St × State
  | [] => (n, .ok, s)
  | v :: vs =>
    match s.csrWrite false addr v with
    | (t, .ok) => t.csrWrites (addr + 8) (n + 1) vs
    | (t, st) => (n, st, t)

/-- CSR_READ. -/
def execCsrRead (p : HostPkt) (node addr count : Nat) (s : State) : Host.Outcome State Fault Refusal :=
  let here := node == s.node
  .next (s.prayr p 0x20 here true true (p.payloadOk && 1 ≤ count && count ≤ 64) fun ref t =>
    if here then
      let (vs, st, t) := t.csrReads addr [] count
      t.hostReply ref st (csrPayload false vs)
    else t.csrNext ref false node addr (List.replicate count 0) [])

/-- A region command that asks for approval: REGISTER or REVOKE alone, at this node, under LOCK (Table 14.3). -/
def State.regionGuarded (s : State) (addr : Nat) (values : List Nat) : Option Nat :=
  match values with
  | [v] => if addr = 0x280070 ∧ (bitsOf v 63 60 = 1 ∨ bitsOf v 63 60 = 2) ∧ s.flag R.FAB_KEY_POLICY_LOCK then some v else none
  | _ => none

/-- The digest of an approved region command (Table 14.3). -/
def State.regionDigest (s : State) (node addr value : Nat) : Nat :=
  commandDigest 0x21 (toBytes 8 (node * 2 ^ 48 + addr) ++ toBytes 8 value ++ toBytes 8 (s.reg R.FAB_REGION_ARG0_WORD)
    ++ toBytes 8 (s.reg R.FAB_REGION_ARG1_WORD) ++ toBytes 8 (s.reg R.FAB_REGION_ARG2_WORD))

/-- CSR_WRITE. -/
def execCsrWrite (p : HostPkt) (node addr : Nat) (values : List Nat) (s : State) : Host.Outcome State Fault Refusal :=
  let here := node == s.node
  let n := values.length
  let serves := here && 0x10000 ≤ addr && addr + 8 * n ≤ 0x20000
  .next (s.prayr p 0x21 here true serves (p.payloadOk && 1 ≤ n && n ≤ 64) fun ref t =>
    if here then
      match t.regionGuarded addr values with
      | some v => t.approvedWith ref 0x21 (t.regionDigest node addr v) false
          (fun st => toBytes 8 (if st = .ok then 1 else 0)) fun t => t.regionCmdWrite v true
      | none =>
        let (k, st, t) := t.csrWrites addr 0 values
        t.hostReply ref st (toBytes 8 k)
    else t.csrNext ref true node addr values [])

end Sys2Proof.Machine
end

