-- ==== Sys2Proof/Machine/Fabric.lean ====
section
/-! DEFINITION. The fabric at a destination: ordered frames accepted (R250, R251), loads and stores performed (R256, R260,
R263), management frames (R245), notices (R246), and the messages that have no command of their own. -/

namespace Sys2Proof.Machine

/-! ### Messages without a command of their own -/

/-- A request-state command another node forwarded here (R68, R330): acted on at the home, or at a deputy that has adopted
it. -/
def State.serveCommand (s : State) (src : Nat) (c : FwdCmd) (tenant ref : Nat) : State :=
  let rep := if src = s.node then ReplyTo.here ref else .node src ref
  if s.isHome c.id then s.homeCommand c tenant rep else s.replyTo rep .nodeUnreachable []

/-- A delivered message that its engine serves as it finds it; any other waits for its command. -/
def State.serveMsg (s : State) (x : Nat × Msg) : State :=
  match x.2 with
  | .resync => (s.takeMsg x.1 x.2).serveResync x.1
  | .probe => (s.takeMsg x.1 x.2).sendMsg x.1 .probeReply
  | .probeReply => s.takeMsg x.1 x.2
  | .parityMoved id epoch group node => (s.takeMsg x.1 x.2).parityMoved id epoch group node
  | .cmdEnds id _ rep st payload => (s.takeMsg x.1 x.2).endHostWait id rep st payload
  | .pgFetch id epoch idx dest => (s.takeMsg x.1 x.2).servePgFetch x.1 id epoch idx dest
  | .pgRefused .. => s.takeMsg x.1 x.2
  | .throughRefused id tag st => (s.takeMsg x.1 x.2).throughRefusal x.1 id tag st
  | .command c tenant ref => (s.takeMsg x.1 x.2).serveCommand x.1 c tenant ref
  | .commandReply ref st payload => (s.takeMsg x.1 x.2).forwardedReply ref st payload
  | _ => s

/-- The delivered messages served that need no command. -/
def State.serveInbox (s : State) : State := s.fab.inbox.foldl State.serveMsg s

/-! ### Accepted frames (R250, R251) -/

/-- A frame says that its source refuses this node while it resets (R36). -/
def Body.resetting : Body → Bool
  | .engineNak _ _ _ st => decide (st = .nodeResetting)
  | b => b.answer?.any fun x => decide (x.2.2.status = .nodeResetting)

/-- An accepted frame waits in its turn: an engine message for the frames before it, any other for its command too (R253). -/
def State.admitFrame (s : State) (f : Frame) : State :=
  match f.body with
  | .engine .. => ((s.queueFrame f).flow f.src).serveInbox
  | _ => s.queueFrame f

/-- The frames held of a source are discarded: a held signal and those behind it (R251). -/
def State.dropHeldOf (s : State) (src : Nat) : State :=
  if s.holding src then s.onFab fun b => { b with accepted := b.accepted.filter (·.src != src) } else s

/-- A channel of a new incarnation (R251): what was held is discarded, the message state is cleared (R287), and the frame
is its first. Of a source without channel state ACCOUNTED stands: those bytes are of this incarnation (DEDUCED, log entry 77). -/
def State.newChannel (s : State) (f : Frame) : State :=
  let c := s.inCh f.src
  let s := if c.known then (s.dropHeldOf f.src).clearSource f.src else s
  (s.putIn ⟨f.src, true, f.incarnation, 1, if c.known then 0 else c.accounted, false, true⟩).admitFrame f

/-- An ordered frame at its destination: the next of its channel is accepted; without channel state a restart is asked for,
beyond a gap OACK is returned, a duplicate is dropped. -/
def State.orderedFrame (s : State) (f : Frame) : State :=
  let s := s.takeOack f.src f.oack
  let s := if f.body.resetting then s else s.contact f.src
  match (s.inCh? f.src).filter (·.known) with
  | none => if f.sync ∧ f.oseq = 0 then s.newChannel f else s.sendOack f.src true
  | some c =>
    if f.sync ∧ f.oseq = 0 ∧ f.incarnation ≠ c.incarnation then s.newChannel f
    else if f.incarnation ≠ c.incarnation then s
    else if f.oseq = c.expected then
      (s.putIn { c with
        expected := (c.expected + 1) % 2 ^ 32
        oackOwed := true }).admitFrame f
    else if oackCovers c.expected f.oseq then s.putIn { c with oackOwed := true }
    else s.sendOack f.src false

/-- An ordered frame arrives at its destination. -/
def execOrderedFrameAccept (f : Frame) (s : State) : Host.Outcome State Fault Refusal :=
  let s := s.takeFrame f
  if f.body.cls = .ordered ∧ f.body ≠ .oack then .next (s.orderedFrame f) else .next s

/-! ### Loads and stores at their target (R256, R260, R263) -/

/-- The source is a valid manager node. -/
def State.isManager (s : State) (n : Nat) : Bool := s.managers.contains n

/-- What keeps a remote access of space 3 from being made (R268, R24, R260). -/
def State.space3Check (s : State) (src : Nat) (h : OpHdr) (write : Bool) : Option St :=
  let a := gOff h.addr
  if s.transitOnly then some .nodeResetting
  else if !s.decodes 3 a h.len then some .addrInvalid
  else if s.isManager src || (!write && a < 0x10000 && s.flag R.FAB_KEY_POLICY_SPACE3_READ_ANY) then
    if h.len = 8 then none else some .addrInvalid
  else some .accessDenied

/-- A refusal of a register access by rows 1 and 2 of Table 9.13 is counted (R263); one by R260 is none of that table's. -/
def State.countSpace3 (s : State) (st : St) : State :=
  s.countRefusal (if st = .accessDenied then none else some st)

/-- A register read of another node answered. -/
def State.space3Load (s : State) (f : Frame) (h : OpHdr) : State :=
  match s.space3Check f.src h false with
  | some st => (s.countSpace3 st).respond f (.loadResp h.tag st []) false
  | none =>
    match s.csrRead (gOff h.addr) with
    | (.ok v, s) => s.respond f (.loadResp h.tag .ok (toBytes 8 v)) false
    | (.error st, s) => s.respond f (.loadResp h.tag st []) false

/-- A register write of another node. -/
def State.space3Store (s : State) (f : Frame) (h : OpHdr) (data : List Byte) : State :=
  match s.space3Check f.src { h with len := data.length } true with
  | some st => (s.countSpace3 st).respond f (.storeResp h.tag st) false
  | none =>
    let (s, st) := s.csrWrite true (gOff h.addr) (rdNat (fun k => data.getD k 0) 0 8)
    s.respond f (.storeResp h.tag st) false

/-- What follows Table 9.13 for a LOAD or STORE: space 2 has none (R302). -/
def spaceCheck (t : Option St) (h : OpHdr) : Option St := t.orElse fun _ => if 1 < gSpace h.addr then some .addrInvalid else none

/-- A target performs a remote LOAD; poisoned data is answered with ST_POISON_READ (R267). -/
def State.loadFrame (s : State) (f : Frame) (h : OpHdr) : State :=
  if gSpace h.addr = 3 then s.space3Load f h
  else
    let t := s.targetCheck f.src f.dev h .read
    let s := s.regionLooked f.src h
    match spaceCheck t h with
    | some st => (s.countRefusal t).respond f (.loadResp h.tag st []) false
    | none =>
      let m := spaceMem (gSpace h.addr)
      let a := gOff h.addr
      match s.poisoned m a h.len with
      | some _ => s.respond f (.loadResp h.tag .poisonRead (s.rdBytes m a h.len)) true
      | none => s.respond f (.loadResp h.tag .ok (s.rdBytes m a h.len)) false

/-- A target performs a remote STORE. -/
def State.storeFrame (s : State) (f : Frame) (h : OpHdr) (data : List Byte) : State :=
  if gSpace h.addr = 3 then s.space3Store f h data
  else
    let t := s.targetCheck f.src f.dev { h with len := data.length } .write
    let s := s.regionLooked f.src { h with len := data.length }
    match spaceCheck t h with
    | some st => (s.countRefusal t).respond f (.storeResp h.tag st) false
    | none => (s.place (spaceMem (gSpace h.addr)) (gOff h.addr) data f.poison).respond f (.storeResp h.tag .ok) false

/-! ### Management frames (R245) -/

/-- A management frame of this node's own sent along a path of ports: its first RETURN nibble, for which it has no ingress port, is 0
(DESIGN CHOICE, log entry 94). -/
def State.mgmtSend (s : State) (path : List Nat) (f : Frame) : State :=
  match path with
  | [] => s.onFab fun b => { b with arrived := b.arrived ++ [{ f with path := [], pathIndex := 0 }] }
  | p :: _ =>
    match s.link? (.port p) with
    | some l =>
      if l.state = .up ∧ s.reg (R.FAB_PORT_CFG_MODE p) = 0 then
        s.linkSend l { f with
          path := path
          pathIndex := 1
          ret := [0]
          hops := 1 }
      else s
    | none => s

/-- MGMT_RESP along RETURN: out of the port the frame came in on, and on through the ports the routers before the target wrote. -/
def State.mgmtAnswer (s : State) (f : Frame) (tag value : Nat) (st : St) : State :=
  s.mgmtSend (f.ingress.toList ++ ((f.ret.take f.pathIndex).drop 1).reverse) (mkFrame s.node f.src false (.mgmtResp tag value st))

/-- The device accepts a management frame from its source; the first source becomes the manager of a node that has none and
no number. -/
def State.mgmtAccept (s : State) (src : Nat) : Option State :=
  if s.isManager src then some s
  else if s.managers.isEmpty && !s.flag R.CAP_NODE_NODE_VALID then
    some (s.setRegs [(R.FAB_MANAGER_VALID 0, 1), (R.FAB_MANAGER_NODE 0, src)])
  else none

/-- The access of a management frame at its target: a local one, but the SEC and BLD blocks are not written (R245). -/
def State.mgmtAccess (s : State) (f : Frame) : State :=
  match f.body with
  | .mgmtRead ctl tag =>
    match s.csrRead ctl with
    | (.ok v, s) => s.mgmtAnswer f tag v .ok
    | (.error st, s) => s.mgmtAnswer f tag 0 st
  | .mgmtWrite ctl tag v =>
    let (s, st) := if 0x500000 ≤ ctl ∧ ctl < 0x700000 then (s, St.accessDenied) else s.csrWrite false ctl v
    s.mgmtAnswer f tag 0 st
  | _ => s

/-- A management frame is at its target. -/
def execMgmtFrame (f : Frame) (s : State) : Host.Outcome State Fault Refusal :=
  let s := s.takeFrame f
  if f.pathIndex ≠ f.path.length then .next s
  else match s.mgmtAccept f.src with
  | none => .next s
  | some s => .next (s.mgmtAccess f)

/-- A management response is back at the node that asked: its software has it. -/
def execMgmtResp (f : Frame) (s : State) : Host.Outcome State Fault Refusal := .next (s.takeFrame f)

/-! ### Notices (R246) -/

/-- A manager node posts another node's event of the fabric class as FABRIC_NOTICE (form F). -/
def execFabricNotice (src : Nat) (e : EvtWords) (s : State) : Host.Outcome State Fault Refusal :=
  let s := s.takeMsg src (.notice e)
  .next (s.ringPost ⟨Ev.fabricNotice.code, e.severity, 0xFFF, s.aon % 2 ^ 32,
    e.code % 65536 * 2 ^ 48 + src % 65536 * 2 ^ 32 + e.severity % 16 * 2 ^ 28, e.arg0⟩ false).postOverwritten

end Sys2Proof.Machine
end

