-- ==== Sys2Proof/Machine/Target.lean ====
section
/-! DEFINITION. Frames taken at this node (sections 9.6 to 9.10, 10.3, 10.4, 10.7): accepted ordered frames in the order their source
sent them (R253), sprayed packets, and what held frames they let go on. -/

namespace Sys2Proof.Machine

/-! ### Ordered frames (R253, R254) -/

/-- An accepted frame taken in its turn, once no earlier frame of its source waits; then what is behind it goes on. -/
def State.inTurn (s : State) (f : Frame) (run : State → State) : State :=
  if !s.due f then s else ((run (s.takeOrdered f)).flow f.src).serveInbox

/-- A SIGNAL or ARRIVE in its turn: held while bytes it covers are not accounted, else applied (R254). -/
def State.signalTurn (s : State) (f : Frame) : State :=
  if !s.due f then s
  else if s.blocked f then s.setHeld f.src true
  else s.inTurn f fun s => s.applySignal f

/-- A target receives a LOAD. -/
def execLoadFrame (f : Frame) (s : State) : Host.Outcome State Fault Refusal :=
  match f.body with
  | .load h => .next (s.inTurn f fun s => s.loadFrame f h)
  | _ => .next s

/-- A target receives a STORE. -/
def execStoreFrame (f : Frame) (s : State) : Host.Outcome State Fault Refusal :=
  match f.body with
  | .store h data => .next (s.inTurn f fun s => s.storeFrame f h data)
  | _ => .next s

/-- A target receives an ATOMIC. -/
def execAtomicFrame (f : Frame) (s : State) : Host.Outcome State Fault Refusal :=
  match f.body with
  | .atomic h aop operand compare => .next (s.inTurn f fun s => s.atomicFrame f h aop operand compare)
  | _ => .next s

/-- A responder receives a READ. -/
def execReadFrame (f : Frame) (s : State) : Host.Outcome State Fault Refusal :=
  match f.body with
  | .read h => .next (s.inTurn f fun s => s.readFrame f h)
  | _ => .next s

/-- A target receives a SIGNAL. -/
def execSignalFrame (f : Frame) (s : State) : Host.Outcome State Fault Refusal :=
  match f.body with
  | .signal .. => .next (s.signalTurn f)
  | _ => .next s

/-- A barrier node receives an ARRIVE. -/
def execArriveAtBarrier (f : Frame) (s : State) : Host.Outcome State Fault Refusal :=
  match f.body with
  | .arrive .. => .next (s.signalTurn f)
  | _ => .next s

/-- COVER_HOLD_US has passed for the first held signal of a source. -/
def execCoverHoldExpiry (src : Nat) (s : State) : Host.Outcome State Fault Refusal := .next (s.coverExpired src)

/-- A response to an operation of this node. -/
def execRemoteResponse (f : Frame) (s : State) : Host.Outcome State Fault Refusal :=
  match f.body.answer? with
  | some (tag, kinds, a) => .next (s.inTurn f fun s => s.response f tag kinds a)
  | none => .next s

/-- The source learns of a refused sprayed packet. -/
def execSprayNak (f : Frame) (s : State) : Host.Outcome State Fault Refusal :=
  match f.body with
  | .sprayNak st region addr id => .next (s.inTurn f fun s => s.sprayRefused f.src st region addr id)
  | _ => .next s

/-- An engine message of this node was refused. -/
def execEngineNak (f : Frame) (s : State) : Host.Outcome State Fault Refusal :=
  match f.body with
  | .engineNak _ _ m .nodeResetting => .next (s.inTurn f fun s => s.engineRefused f.src m)
  | .engineNak .. => .next (s.inTurn f id)
  | _ => .next s

/-! ### Sprayed packets (R253, R254) -/

/-- A destination receives a WRITE packet. -/
def execWritePacket (f : Frame) (s : State) : Host.Outcome State Fault Refusal :=
  match f.body with
  | .write id psn addr region key total data => .next ((s.takeFrame f).writePacket f id psn addr region key total data)
  | _ => .next s

/-- A requester receives READ_DATA. -/
def execReadData (f : Frame) (s : State) : Host.Outcome State Fault Refusal :=
  match f.body with
  | .readData id _ addr data => .next ((s.takeFrame f).readData f (id % 2 ^ 31) addr data)
  | _ => .next s

/-- An engine receives an up contribution. -/
def execReducePacket (f : Frame) (s : State) : Host.Outcome State Fault Refusal :=
  match f.body with
  | .reduce m => .next (if m.down then s else ((s.takeFrame f).reducePacket f m))
  | _ => .next s

/-- A member receives a result chunk. -/
def execReduceDownPacket (f : Frame) (s : State) : Host.Outcome State Fault Refusal :=
  match f.body with
  | .reduce m => .next (if m.down then ((s.takeFrame f).reducePacket f m) else s)
  | _ => .next s

/-- A destination receives MSG_ABORT. -/
def execMsgAbort (src : Nat) (m : OpenMsg) (s : State) : Host.Outcome State Fault Refusal :=
  .next ((s.takeMsg src (.msgAbort m)).abortMsgs src m)

/-- A local copy is written and its request completes. -/
def execXfrCopyDone (q idx : Nat) (s : State) : Host.Outcome State Fault Refusal :=
  match s.xfr.flights.find? fun x => x.q == q && x.idx == idx && decide (x.prog = .copy) with
  | none => .next s
  | some r => .next (s.copyDone r)

end Sys2Proof.Machine
end

