-- ==== Sys2Proof/Machine/Dispatch.lean ====
section
/-! DEFINITION. What each command does: one arm per constructor, one direct call of its meaning. -/

namespace Sys2Proof.Machine

open Sys2Proof

def exec (i : Instr) (s : State) : Host.Outcome State Fault Refusal :=
  match i with
  | .csrWriteGeneric addr value => Sys2Proof.Machine.execCsrWriteGeneric addr value s
  | .coreFailure tile phys status => Sys2Proof.Machine.execCoreFailure tile phys status s
  | .mirrorBind src => Sys2Proof.Machine.execMirrorBind src s
  | .mirrorBindAccepted src => Sys2Proof.Machine.execMirrorBindAccepted src s
  | .mirrorCopyComplete => Sys2Proof.Machine.execMirrorCopyComplete s
  | .mirrorBindRefused src status => Sys2Proof.Machine.execMirrorBindRefused src status s
  | .mirrorBindRetryExpiry => Sys2Proof.Machine.execMirrorBindRetryExpiry s
  | .mirrorWrite src id w rec history => Sys2Proof.Machine.execMirrorWrite src id w rec history s
  | .mirrorAck src id w => Sys2Proof.Machine.execMirrorAck src id w s
  | .mirrorAckTimeout id seq => Sys2Proof.Machine.execMirrorAckTimeout id seq s
  | .deferredChangeRetry id => Sys2Proof.Machine.execDeferredChangeRetry id s
  | .mirrorRefused src id w => Sys2Proof.Machine.execMirrorRefused src id w s
  | .mirrorFenced src id w => Sys2Proof.Machine.execMirrorFenced src id w s
  | .ownQuery src id epoch committed rec => Sys2Proof.Machine.execOwnQuery src id epoch committed rec s
  | .ownReply src id epoch owner => Sys2Proof.Machine.execOwnReply src id epoch owner s
  | .ownQueryRetry id => Sys2Proof.Machine.execOwnQueryRetry id s
  | .claimWindowExpiry id => Sys2Proof.Machine.execClaimWindowExpiry id s
  | .resyncReply src adopted items => Sys2Proof.Machine.execResyncReply src adopted items s
  | .resyncRetry => Sys2Proof.Machine.execResyncRetry s
  | .rseAdoptWrite value => Sys2Proof.Machine.execRseAdoptWrite value s
  | .rseDeputyWrite value => Sys2Proof.Machine.execRseDeputyWrite value s
  | .rseMirrorHomeWrite value => Sys2Proof.Machine.execRseMirrorHomeWrite value s
  | .placementOffer => Sys2Proof.Machine.execPlacementOffer s
  | .place src m => Sys2Proof.Machine.execPlace src m s
  | .placeAccept src id epoch => Sys2Proof.Machine.execPlaceAccept src id epoch s
  | .placeRefused src id epoch status => Sys2Proof.Machine.execPlaceRefused src id epoch status s
  | .placeTimeout id => Sys2Proof.Machine.execPlaceTimeout id s
  | .placed src id epoch => Sys2Proof.Machine.execPlaced src id epoch s
  | .recallComplete id => Sys2Proof.Machine.execRecallComplete id s
  | .placeCancel src id epoch => Sys2Proof.Machine.execPlaceCancel src id epoch s
  | .placeInDoubtExpiry id => Sys2Proof.Machine.execPlaceInDoubtExpiry id s
  | .stepCommit id => Sys2Proof.Machine.execStepCommit id s
  | .stepNote src n => Sys2Proof.Machine.execStepNote src n s
  | .stepAck src id epoch gen => Sys2Proof.Machine.execStepAck src id epoch gen s
  | .lostStep src id epoch => Sys2Proof.Machine.execLostStep src id epoch s
  | .lossSweep node => Sys2Proof.Machine.execLossSweep node s
  | .requestRecover id => Sys2Proof.Machine.execRequestRecover id s
  | .recordRestore id => Sys2Proof.Machine.execRecordRestore id s
  | .moveStart id => Sys2Proof.Machine.execMoveStart id s
  | .mvPrepare src m => Sys2Proof.Machine.execMvPrepare src m s
  | .pullComplete id => Sys2Proof.Machine.execPullComplete id s
  | .pullReadFailed id tag status => Sys2Proof.Machine.execPullReadFailed id tag status s
  | .mvPrepared src id epoch => Sys2Proof.Machine.execMvPrepared src id epoch s
  | .mvRefused src id epoch status => Sys2Proof.Machine.execMvRefused src id epoch status s
  | .mvCommitReq src id epoch dest => Sys2Proof.Machine.execMvCommitReq src id epoch dest s
  | .mvCommitted src id epoch owner => Sys2Proof.Machine.execMvCommitted src id epoch owner s
  | .mvAborted src id epoch status => Sys2Proof.Machine.execMvAborted src id epoch status s
  | .mvAbort src id epoch => Sys2Proof.Machine.execMvAbort src id epoch s
  | .mvReleased src id epoch => Sys2Proof.Machine.execMvReleased src id epoch s
  | .prepareTimeout id => Sys2Proof.Machine.execPrepareTimeout id s
  | .moveCommitTimeout id => Sys2Proof.Machine.execMoveCommitTimeout id s
  | .handbackRetryExpiry id => Sys2Proof.Machine.execHandbackRetryExpiry id s
  | .ttlExpiry id => Sys2Proof.Machine.execTtlExpiry id s
  | .tombstoneExpiry id => Sys2Proof.Machine.execTombstoneExpiry id s
  | .cancelFwd src id epoch => Sys2Proof.Machine.execCancelFwd src id epoch s
  | .fwdPause src id epoch p => Sys2Proof.Machine.execFwdPause src id epoch p s
  | .fwdMove src id epoch dest reply => Sys2Proof.Machine.execFwdMove src id epoch dest reply s
  | .final src m => Sys2Proof.Machine.execFinal src m s
  | .notOwner src id epoch kind => Sys2Proof.Machine.execNotOwner src id epoch kind s
  | .notOwnerRetryExpiry id => Sys2Proof.Machine.execNotOwnerRetryExpiry id s
  | .pgeModelWrite m value => Sys2Proof.Machine.execPgeModelWrite m value s
  | .pgeKvPoolWrite value => Sys2Proof.Machine.execPgeKvPoolWrite value s
  | .pgeOchreWrite addr value => Sys2Proof.Machine.execPgeOchreWrite addr value s
  | .pgeUmberCtrlWrite u value => Sys2Proof.Machine.execPgeUmberCtrlWrite u value s
  | .pgeUmberWrite addr value => Sys2Proof.Machine.execPgeUmberWrite addr value s
  | .pgeEvictWrite value => Sys2Proof.Machine.execPgeEvictWrite value s
  | .prefixIdleExpiry idx => Sys2Proof.Machine.execPrefixIdleExpiry idx s
  | .pgRenewTimer => Sys2Proof.Machine.execPgRenewTimer s
  | .pgRenew src id epoch idxs => Sys2Proof.Machine.execPgRenew src id epoch idxs s
  | .pgTtl src id epoch ticks => Sys2Proof.Machine.execPgTtl src id epoch ticks s
  | .pgFree src id epoch idxs => Sys2Proof.Machine.execPgFree src id epoch idxs s
  | .pageDeadlineCheck => Sys2Proof.Machine.execPageDeadlineCheck s
  | .migrationStart idx why => Sys2Proof.Machine.execMigrationStart idx why s
  | .migrationCopy src idx p data => Sys2Proof.Machine.execMigrationCopy src idx p data s
  | .migrationAck src idx index => Sys2Proof.Machine.execMigrationAck src idx index s
  | .migrationRefused src idx status => Sys2Proof.Machine.execMigrationRefused src idx status s
  | .demoteIdleExpiry idx => Sys2Proof.Machine.execDemoteIdleExpiry idx s
  | .writeThrough src id epoch idx offset tag data => Sys2Proof.Machine.execWriteThrough src id epoch idx offset tag data s
  | .parityUpdate src id epoch group offset tag delta => Sys2Proof.Machine.execParityUpdate src id epoch group offset tag delta s
  | .writeThroughAck src id tag => Sys2Proof.Machine.execWriteThroughAck src id tag s
  | .pgLocate src id epoch => Sys2Proof.Machine.execPgLocate src id epoch s
  | .pgLocateReply src id pages => Sys2Proof.Machine.execPgLocateReply src id pages s
  | .mzquery core => Sys2Proof.Machine.execMzquery core s
  | .mzwrite core => Sys2Proof.Machine.execMzwrite core s
  | .mztQuery src m => Sys2Proof.Machine.execMztQuery src m s
  | .mztQueryDone => Sys2Proof.Machine.execMztQueryDone s
  | .mztKvWrite src m => Sys2Proof.Machine.execMztKvWrite src m s
  | .mztKvAck src m => Sys2Proof.Machine.execMztKvAck src m s
  | .mztPartial src m => Sys2Proof.Machine.execMztPartial src m s
  | .mztBusyRetryExpiry tag => Sys2Proof.Machine.execMztBusyRetryExpiry tag s
  | .mztPartialTimeout tag => Sys2Proof.Machine.execMztPartialTimeout tag s
  | .mztCtrlWrite value => Sys2Proof.Machine.execMztCtrlWrite value s
  | .mztCoresWrite hi value => Sys2Proof.Machine.execMztCoresWrite hi value s
  | .mztConfigWrite addr value => Sys2Proof.Machine.execMztConfigWrite addr value s
  | .instrNop core => Sys2Proof.Machine.execInstrNop core s
  | .mma core => Sys2Proof.Machine.execMma core s
  | .mmx core => Sys2Proof.Machine.execMmx core s
  | .mmt core => Sys2Proof.Machine.execMmt core s
  | .vbin core => Sys2Proof.Machine.execVbin core s
  | .vbins core => Sys2Proof.Machine.execVbins core s
  | .vfma core => Sys2Proof.Machine.execVfma core s
  | .vun core => Sys2Proof.Machine.execVun core s
  | .vred core => Sys2Proof.Machine.execVred core s
  | .vsoftmax core => Sys2Proof.Machine.execVsoftmax core s
  | .vnorm core => Sys2Proof.Machine.execVnorm core s
  | .vrope core => Sys2Proof.Machine.execVrope core s
  | .vcvt core => Sys2Proof.Machine.execVcvt core s
  | .vmerge core => Sys2Proof.Machine.execVmerge core s
  | .sample core => Sys2Proof.Machine.execSample core s
  | .sverify core => Sys2Proof.Machine.execSverify core s
  | .scommit core => Sys2Proof.Machine.execScommit core s
  | .slogprob core => Sys2Proof.Machine.execSlogprob core s
  | .oadam core => Sys2Proof.Machine.execOadam core s
  | .osgd core => Sys2Proof.Machine.execOsgd core s
  | .instrLoad core => Sys2Proof.Machine.execInstrLoad core s
  | .instrStore core => Sys2Proof.Machine.execInstrStore core s
  | .instrWait core => Sys2Proof.Machine.execInstrWait core s
  | .instrSignal core => Sys2Proof.Machine.execInstrSignal core s
  | .instrArrive core => Sys2Proof.Machine.execInstrArrive core s
  | .fence core => Sys2Proof.Machine.execFence core s
  | .end_ core => Sys2Proof.Machine.execEnd core s
  | .tileOpBoundary core => Sys2Proof.Machine.execTileOpBoundary core s
  | .rngReseed core => Sys2Proof.Machine.execRngReseed core s
  | .tableLoad id => Sys2Proof.Machine.execTableLoad id s
  | .tableInvalidateDone => Sys2Proof.Machine.execTableInvalidateDone s
  | .tableDrop id => Sys2Proof.Machine.execTableDrop id s
  | .dsetLoad slot => Sys2Proof.Machine.execDsetLoad slot s
  | .dsetLoadReadDone => Sys2Proof.Machine.execDsetLoadReadDone s
  | .dsetDrop slot => Sys2Proof.Machine.execDsetDrop slot s
  | .bindTable ctx id => Sys2Proof.Machine.execBindTable ctx id s
  | .bindDset ctx slot => Sys2Proof.Machine.execBindDset ctx slot s
  | .expCmdAddrWrite value => Sys2Proof.Machine.execExpCmdAddrWrite value s
  | .ctxOpen c => Sys2Proof.Machine.execCtxOpen c s
  | .ctxLoadingDone c => Sys2Proof.Machine.execCtxLoadingDone c s
  | .ctxStart c => Sys2Proof.Machine.execCtxStart c s
  | .ctxClose c => Sys2Proof.Machine.execCtxClose c s
  | .ctxAbort c => Sys2Proof.Machine.execCtxAbort c s
  | .ctxDrained c => Sys2Proof.Machine.execCtxDrained c s
  | .ctxTeardownDone c => Sys2Proof.Machine.execCtxTeardownDone c s
  | .batchDispatch c group => Sys2Proof.Machine.execBatchDispatch c group s
  | .batchEnd c group => Sys2Proof.Machine.execBatchEnd c group s
  | .batchHoldExpiry c => Sys2Proof.Machine.execBatchHoldExpiry c s
  | .refuseHoldExpiry node => Sys2Proof.Machine.execRefuseHoldExpiry node s
  | .jobAbort src job => Sys2Proof.Machine.execJobAbort src job s
  | .shardDispatch c group => Sys2Proof.Machine.execShardDispatch c group s
  | .backupStart c shard group => Sys2Proof.Machine.execBackupStart c shard group s
  | .shardWin c shard copy => Sys2Proof.Machine.execShardWin c shard copy s
  | .schCompWrite addr value => Sys2Proof.Machine.execSchCompWrite addr value s
  | .compMeterTick => Sys2Proof.Machine.execCompMeterTick s
  | .schQueueWrite q value => Sys2Proof.Machine.execSchQueueWrite q value s
  | .schCtrlWrite value => Sys2Proof.Machine.execSchCtrlWrite value s
  | .phaseTurn p value => Sys2Proof.Machine.execPhaseTurn p value s
  | .phsTurnWrite value => Sys2Proof.Machine.execPhsTurnWrite value s
  | .turnFinishExpiry => Sys2Proof.Machine.execTurnFinishExpiry s
  | .turnParkingDone => Sys2Proof.Machine.execTurnParkingDone s
  | .turnQuiesceDone => Sys2Proof.Machine.execTurnQuiesceDone s
  | .turnCheckDone => Sys2Proof.Machine.execTurnCheckDone s
  | .holderQuietExpiry => Sys2Proof.Machine.execHolderQuietExpiry s
  | .turnDrainLimitExpiry => Sys2Proof.Machine.execTurnDrainLimitExpiry s
  | .phsCtrlWrite value => Sys2Proof.Machine.execPhsCtrlWrite value s
  | .phsPolicyWrite value => Sys2Proof.Machine.execPhsPolicyWrite value s
  | .phsFloorWrite value => Sys2Proof.Machine.execPhsFloorWrite value s
  | .fabPortCfgWrite port value => Sys2Proof.Machine.execFabPortCfgWrite port value s
  | .linkTrained link => Sys2Proof.Machine.execLinkTrained link s
  | .laneTrainFail port => Sys2Proof.Machine.execLaneTrainFail port s
  | .hello link f => Sys2Proof.Machine.execHello link f s
  | .helloSendTimer link => Sys2Proof.Machine.execHelloSendTimer link s
  | .helloLossTimeout link => Sys2Proof.Machine.execHelloLossTimeout link s
  | .linkDownRetrainExpiry link => Sys2Proof.Machine.execLinkDownRetrainExpiry link s
  | .linkFailedRecheck link h => Sys2Proof.Machine.execLinkFailedRecheck link h s
  | .linkDrained link => Sys2Proof.Machine.execLinkDrained link s
  | .dataFrameReceive link hop f => Sys2Proof.Machine.execDataFrameReceive link hop f s
  | .lnack link hop => Sys2Proof.Machine.execLnack link hop s
  | .lack link hop credits => Sys2Proof.Machine.execLack link hop credits s
  | .linkReplayExpiry link => Sys2Proof.Machine.execLinkReplayExpiry link s
  | .linkTimeoutExpiry link => Sys2Proof.Machine.execLinkTimeoutExpiry link s
  | .orderedFrameAccept f => Sys2Proof.Machine.execOrderedFrameAccept f s
  | .oack f => Sys2Proof.Machine.execOack f s
  | .oretxExpiry dst => Sys2Proof.Machine.execOretxExpiry dst s
  | .probeExpiry dst => Sys2Proof.Machine.execProbeExpiry dst s
  | .signalFrame f => Sys2Proof.Machine.execSignalFrame f s
  | .coverHoldExpiry src => Sys2Proof.Machine.execCoverHoldExpiry src s
  | .loadFrame f => Sys2Proof.Machine.execLoadFrame f s
  | .storeFrame f => Sys2Proof.Machine.execStoreFrame f s
  | .atomicFrame f => Sys2Proof.Machine.execAtomicFrame f s
  | .remoteResponse f => Sys2Proof.Machine.execRemoteResponse f s
  | .remoteTimeoutExpiry what => Sys2Proof.Machine.execRemoteTimeoutExpiry what s
  | .fabAssignNumber number => Sys2Proof.Machine.execFabAssignNumber number s
  | .fabAssignRelease => Sys2Proof.Machine.execFabAssignRelease s
  | .mgmtFrame f => Sys2Proof.Machine.execMgmtFrame f s
  | .mgmtResp f => Sys2Proof.Machine.execMgmtResp f s
  | .fabricNotice src e => Sys2Proof.Machine.execFabricNotice src e s
  | .fabRtEntryWrite value => Sys2Proof.Machine.execFabRtEntryWrite value s
  | .fabRegionBaseWrite value => Sys2Proof.Machine.execFabRegionBaseWrite value s
  | .regionRegister region => Sys2Proof.Machine.execRegionRegister region s
  | .regionRevoke region => Sys2Proof.Machine.execRegionRevoke region s
  | .regionRead region => Sys2Proof.Machine.execRegionRead region s
  | .revokeComplete => Sys2Proof.Machine.execRevokeComplete s
  | .sprayNak f => Sys2Proof.Machine.execSprayNak f s
  | .engineNak f => Sys2Proof.Machine.execEngineNak f s
  | .engineNakRetryExpiry dst => Sys2Proof.Machine.execEngineNakRetryExpiry dst s
  | .fabPeerWrite k value => Sys2Proof.Machine.execFabPeerWrite k value s
  | .fabCtrlWrite value => Sys2Proof.Machine.execFabCtrlWrite value s
  | .fabTimeoutWrite value => Sys2Proof.Machine.execFabTimeoutWrite value s
  | .rekeyStart link => Sys2Proof.Machine.execRekeyStart link s
  | .rekeyHello link f => Sys2Proof.Machine.execRekeyHello link f s
  | .xfrQDWrite q value => Sys2Proof.Machine.execXfrQDWrite q value s
  | .xfrQueueCfgWrite addr value => Sys2Proof.Machine.execXfrQueueCfgWrite addr value s
  | .xfrWrite q => Sys2Proof.Machine.execXfrWrite q s
  | .xfrRead q => Sys2Proof.Machine.execXfrRead q s
  | .xfrAtomic q => Sys2Proof.Machine.execXfrAtomic q s
  | .xfrSignal q => Sys2Proof.Machine.execXfrSignal q s
  | .xfrCopy q => Sys2Proof.Machine.execXfrCopy q s
  | .xfrCopyDone q idx => Sys2Proof.Machine.execXfrCopyDone q idx s
  | .xfrNop q => Sys2Proof.Machine.execXfrNop q s
  | .umberWrite q => Sys2Proof.Machine.execUmberWrite q s
  | .umberRead q => Sys2Proof.Machine.execUmberRead q s
  | .xfrReduce q => Sys2Proof.Machine.execXfrReduce q s
  | .msgOpen src m => Sys2Proof.Machine.execMsgOpen src m s
  | .writePacket f => Sys2Proof.Machine.execWritePacket f s
  | .msgDone src first count status => Sys2Proof.Machine.execMsgDone src first count status s
  | .msgTimeoutExpiry q idx => Sys2Proof.Machine.execMsgTimeoutExpiry q idx s
  | .msgAbort src m => Sys2Proof.Machine.execMsgAbort src m s
  | .readFrame f => Sys2Proof.Machine.execReadFrame f s
  | .readData f => Sys2Proof.Machine.execReadData f s
  | .tagQuietExpiry tag => Sys2Proof.Machine.execTagQuietExpiry tag s
  | .reducePacket f => Sys2Proof.Machine.execReducePacket f s
  | .reduceDownPacket f => Sys2Proof.Machine.execReduceDownPacket f s
  | .collTimeoutExpiry group chunk => Sys2Proof.Machine.execCollTimeoutExpiry group chunk s
  | .xfrMsgBaseWrite value => Sys2Proof.Machine.execXfrMsgBaseWrite value s
  | .xfrGroupWrite addr value => Sys2Proof.Machine.execXfrGroupWrite addr value s
  | .xfrCfgWrite value => Sys2Proof.Machine.execXfrCfgWrite value s
  | .synCtrDataWrite value => Sys2Proof.Machine.execSynCtrDataWrite value s
  | .barrierConfigure bar => Sys2Proof.Machine.execBarrierConfigure bar s
  | .barrierFree bar => Sys2Proof.Machine.execBarrierFree bar s
  | .arriveAtBarrier f => Sys2Proof.Machine.execArriveAtBarrier f s
  | .releaseAck src bar round => Sys2Proof.Machine.execReleaseAck src bar round s
  | .barrierRelease src bar round => Sys2Proof.Machine.execBarrierRelease src bar round s
  | .barrierAbort src bar round status => Sys2Proof.Machine.execBarrierAbort src bar round status s
  | .waitLimitExpiry core => Sys2Proof.Machine.execWaitLimitExpiry core s
  | .waitGateExpiry core => Sys2Proof.Machine.execWaitGateExpiry core s
  | .prayrNop p data => Sys2Proof.Machine.execPrayrNop p data s
  | .caps p => Sys2Proof.Machine.execCaps p s
  | .submit p b tokens => Sys2Proof.Machine.execSubmit p b tokens s
  | .submitPromptReadDone ref status tokens => Sys2Proof.Machine.execSubmitPromptReadDone ref status tokens s
  | .cancel p id => Sys2Proof.Machine.execCancel p id s
  | .pause p id ticks => Sys2Proof.Machine.execPause p id ticks s
  | .resume p b tokens => Sys2Proof.Machine.execResume p b tokens s
  | .queryReq p id => Sys2Proof.Machine.execQueryReq p id s
  | .tokenAck p id epoch next => Sys2Proof.Machine.execTokenAck p id epoch next s
  | .setTtl p id ticks => Sys2Proof.Machine.execSetTtl p id ticks s
  | .move p id dest => Sys2Proof.Machine.execMove p id dest s
  | .csrRead p node addr count => Sys2Proof.Machine.execCsrRead p node addr count s
  | .csrWrite p node addr values => Sys2Proof.Machine.execCsrWrite p node addr values s
  | .eventPull p cursor max => Sys2Proof.Machine.execEventPull p cursor max s
  | .resetWarm p => Sys2Proof.Machine.execResetWarm p s
  | .resetCompute p => Sys2Proof.Machine.execResetCompute p s
  | .resetComputeScrub p => Sys2Proof.Machine.execResetComputeScrub p s
  | .qpSetup p c => Sys2Proof.Machine.execQpSetup p c s
  | .qpDestroy p qp => Sys2Proof.Machine.execQpDestroy p qp s
  | .prayrBadOpcode p opcode => Sys2Proof.Machine.execPrayrBadOpcode p opcode s
  | .hostPacketDrop => Sys2Proof.Machine.execHostPacketDrop s
  | .hostArp target asker => Sys2Proof.Machine.execHostArp target asker s
  | .hostNeighbourSolicit target asker => Sys2Proof.Machine.execHostNeighbourSolicit target asker s
  | .hostIcmpEcho target asker data => Sys2Proof.Machine.execHostIcmpEcho target asker data s
  | .replyCacheExpiry key => Sys2Proof.Machine.execReplyCacheExpiry key s
  | .tokenTransmit => Sys2Proof.Machine.execTokenTransmit s
  | .tokenRetxExpiry id => Sys2Proof.Machine.execTokenRetxExpiry id s
  | .hostRdmaWrite h rkey va data => Sys2Proof.Machine.execHostRdmaWrite h rkey va data s
  | .hostRdmaRead h rkey va len => Sys2Proof.Machine.execHostRdmaRead h rkey va len s
  | .roceCompletion qp e => Sys2Proof.Machine.execRoceCompletion qp e s
  | .roceAckTimeout qp => Sys2Proof.Machine.execRoceAckTimeout qp s
  | .roceNak qp syndrome => Sys2Proof.Machine.execRoceNak qp syndrome s
  | .roceCnp qp => Sys2Proof.Machine.execRoceCnp qp s
  | .roceRateRecovery qp => Sys2Proof.Machine.execRoceRateRecovery qp s
  | .hcpWindowWrite addr value => Sys2Proof.Machine.execHcpWindowWrite addr value s
  | .windowCloseDone window => Sys2Proof.Machine.execWindowCloseDone window s
  | .hostPortUp => Sys2Proof.Machine.execHostPortUp s
  | .hostPortDown => Sys2Proof.Machine.execHostPortDown s
  | .hcpRegWrite addr value => Sys2Proof.Machine.execHcpRegWrite addr value s
  | .trfMeterWrite addr value => Sys2Proof.Machine.execTrfMeterWrite addr value s
  | .shaperWrite addr value => Sys2Proof.Machine.execShaperWrite addr value s
  | .i3cPrivateWrite data => Sys2Proof.Machine.execI3cPrivateWrite data s
  | .i3cPrivateRead count => Sys2Proof.Machine.execI3cPrivateRead count s
  | .i3cEntdaa addr => Sys2Proof.Machine.execI3cEntdaa addr s
  | .i3cSnapshotRefresh => Sys2Proof.Machine.execI3cSnapshotRefresh s
  | .coldStart pin => Sys2Proof.Machine.execColdStart pin s
  | .watchdogExpiry => Sys2Proof.Machine.execWatchdogExpiry s
  | .bootStageDone status findings badImages => Sys2Proof.Machine.execBootStageDone status findings badImages s
  | .tileServiceOffline p tile => Sys2Proof.Machine.execTileServiceOffline p tile s
  | .tileServiceOnline p tile => Sys2Proof.Machine.execTileServiceOnline p tile s
  | .tileOnlineTestDone tile findings => Sys2Proof.Machine.execTileOnlineTestDone tile findings s
  | .channelRetire p stack channel => Sys2Proof.Machine.execChannelRetire p stack channel s
  | .channelCopyStart => Sys2Proof.Machine.execChannelCopyStart s
  | .channelCopyDone => Sys2Proof.Machine.execChannelCopyDone s
  | .imgActivate p subsystem slotB => Sys2Proof.Machine.execImgActivate p subsystem slotB s
  | .imgStatus p => Sys2Proof.Machine.execImgStatus p s
  | .imageHealthExpiry subsystem => Sys2Proof.Machine.execImageHealthExpiry subsystem s
  | .bcastOpen p o manifest children peers => Sys2Proof.Machine.execBcastOpen p o manifest children peers s
  | .bcastSend p session => Sys2Proof.Machine.execBcastSend p session s
  | .bcastStatus p session => Sys2Proof.Machine.execBcastStatus p session s
  | .bcastClose p session => Sys2Proof.Machine.execBcastClose p session s
  | .bcastPacket f => Sys2Proof.Machine.execBcastPacket f s
  | .bcastEnd src session chunks => Sys2Proof.Machine.execBcastEnd src session chunks s
  | .repairReq src session first count => Sys2Proof.Machine.execRepairReq src session first count s
  | .repairNak src session first count => Sys2Proof.Machine.execRepairNak src session first count s
  | .statusQuery src session => Sys2Proof.Machine.execStatusQuery src session s
  | .statusReply src session held complete => Sys2Proof.Machine.execStatusReply src session held complete s
  | .repairWaitExpiry session => Sys2Proof.Machine.execRepairWaitExpiry session s
  | .imageHashDone session => Sys2Proof.Machine.execImageHashDone session s
  | .imageSlotWriteDone session => Sys2Proof.Machine.execImageSlotWriteDone session s
  | .licInstall p data => Sys2Proof.Machine.execLicInstall p data s
  | .licList p => Sys2Proof.Machine.execLicList p s
  | .licRemove p serial => Sys2Proof.Machine.execLicRemove p serial s
  | .licenceTickRecord => Sys2Proof.Machine.execLicenceTickRecord s
  | .licenceLapse serial => Sys2Proof.Machine.execLicenceLapse serial s
  | .defectRead p first count => Sys2Proof.Machine.execDefectRead p first count s
  | .defectClear p => Sys2Proof.Machine.execDefectClear p s
  | .attest p nonce => Sys2Proof.Machine.execAttest p nonce s
  | .certRead p index => Sys2Proof.Machine.execCertRead p index s
  | .approvalOpen p opcode digest => Sys2Proof.Machine.execApprovalOpen p opcode digest s
  | .approve p slot set signature => Sys2Proof.Machine.execApprove p slot set signature s
  | .approverEnrolAdd p slot modulus => Sys2Proof.Machine.execApproverEnrolAdd p slot modulus s
  | .approverEnrolRemove p slot => Sys2Proof.Machine.execApproverEnrolRemove p slot s
  | .policySet p value rekey => Sys2Proof.Machine.execPolicySet p value rekey s
  | .hostSet p entry a b c d => Sys2Proof.Machine.execHostSet p entry a b c d s
  | .debugUnlock p value => Sys2Proof.Machine.execDebugUnlock p value s
  | .debugRelock p value => Sys2Proof.Machine.execDebugRelock p value s
  | .debugDurationExpiry => Sys2Proof.Machine.execDebugDurationExpiry s
  | .approvalDeadlineExpiry set => Sys2Proof.Machine.execApprovalDeadlineExpiry set s
  | .inputWarnCross mv => Sys2Proof.Machine.execInputWarnCross mv s
  | .inputRecoveryDone => Sys2Proof.Machine.execInputRecoveryDone s
  | .inputUndervoltage => Sys2Proof.Machine.execInputUndervoltage s
  | .inputOvervoltage => Sys2Proof.Machine.execInputOvervoltage s
  | .aonInputLoss => Sys2Proof.Machine.execAonInputLoss s
  | .railWarnCross rail mv => Sys2Proof.Machine.execRailWarnCross rail mv s
  | .railClearDone rail => Sys2Proof.Machine.execRailClearDone rail s
  | .railResetCross rail mv => Sys2Proof.Machine.execRailResetCross rail mv s
  | .railHoldDone => Sys2Proof.Machine.execRailHoldDone s
  | .thermalSample temps => Sys2Proof.Machine.execThermalSample temps s
  | .powerWindowExpiry watts => Sys2Proof.Machine.execPowerWindowExpiry watts s
  | .pcrPowerLimitWrite value => Sys2Proof.Machine.execPcrPowerLimitWrite value s
  | .pcrGateCfgWrite value => Sys2Proof.Machine.execPcrGateCfgWrite value s
  | .refclk25Loss => Sys2Proof.Machine.execRefclk25Loss s
  | .refclk156Loss => Sys2Proof.Machine.execRefclk156Loss s
  | .coreIdleExpiry core => Sys2Proof.Machine.execCoreIdleExpiry core s
  | .tileIdleExpiry tile => Sys2Proof.Machine.execTileIdleExpiry tile s
  | .coreWakeDone core => Sys2Proof.Machine.execCoreWakeDone core s
  | .hbmPowerdownIdle stack channel => Sys2Proof.Machine.execHbmPowerdownIdle stack channel s
  | .jtagIdcode => Sys2Proof.Machine.execJtagIdcode s
  | .jtagBypass => Sys2Proof.Machine.execJtagBypass s
  | .jtagSamplePreload => Sys2Proof.Machine.execJtagSamplePreload s
  | .jtagExtest value => Sys2Proof.Machine.execJtagExtest value s
  | .patrolScrubPass stack channel errors => Sys2Proof.Machine.execPatrolScrubPass stack channel errors s
  | .ceWindowExpiry stack channel => Sys2Proof.Machine.execCeWindowExpiry stack channel s
  | .evtEccCfgWrite value => Sys2Proof.Machine.execEvtEccCfgWrite value s
  | .refclk156Restored => Sys2Proof.Machine.execRefclk156Restored s
  | .portLockLoss link => Sys2Proof.Machine.execPortLockLoss link s
  | .standaloneOackExpiry src => Sys2Proof.Machine.execStandaloneOackExpiry src s
  | .rekeyDeadline link => Sys2Proof.Machine.execRekeyDeadline link s
  | .resumePromptReadDone ref status tokens => Sys2Proof.Machine.execResumePromptReadDone ref status tokens s
  | .shaperRelease k => Sys2Proof.Machine.execShaperRelease k s
  | .imageHealthy subsystem => Sys2Proof.Machine.execImageHealthy subsystem s
  | .inputRecoveryRestart mv => Sys2Proof.Machine.execInputRecoveryRestart mv s
  | .railClearRestart rail mv => Sys2Proof.Machine.execRailClearRestart rail mv s
  | .debugScopeAccess scan => Sys2Proof.Machine.execDebugScopeAccess scan s

end Sys2Proof.Machine
end

