-- ==== Sys2Proof/Machine/Tick.lean ====
section
/-! DEFINITION. What passes with the clock when no command waits. -/

namespace Sys2Proof.Machine

/-- One AON cycle (1 µs, R396) passes, and the engines serve the delivered messages that have no command of their own. -/
def cycle (s : State) : State :=
  let s := s.serveInbox
  { s with aon := s.aon + 1 }

end Sys2Proof.Machine
end

