-- ==== Sys2Proof/Machine/Step.lean ====
section
/-! DEFINITION. One step of the block: the command at the front of the queue runs; an empty queue lets one AON cycle
pass (log entry 1). -/

namespace Sys2Proof.Machine

open Sys2Proof

/-- One step: take the front command and run it on the queue's rest; with nothing waiting, one AON cycle passes. -/
def step (s : State) : Host.Outcome State Fault Refusal :=
  match s.pending with
  | [] => .next (cycle s)
  | c :: rest => exec c { s with pending := rest }

/-- `s` with the command a word spells at the front of its queue: no word of this table spells one. -/
def State.withFetchWord (s : State) (nbits w : Nat) : State :=
  match decodeTableWord nbits w with
  | some c => { s with pending := c :: s.pending }
  | none => s

end Sys2Proof.Machine
end

