-- ==== Sys2Proof/Machine/Parts.lean ====
section
/-! DEFINITION. The parts of a node's state, in whose terms the frame of every command is stated. -/

namespace Sys2Proof.Machine

/-- The parts of a node's state beside the variant, the AON count, the queue of commands and the count of free values. -/
inductive Part where
  /-- Every byte and every poison mark of the memories. -/
  | mem
  /-- Every control-register field. -/
  | regs
  /-- The request directory, the page engine, Mezzotint, the cores, the expander and Burin. -/
  | rse | pge | mzt | cores | exp | sch
  /-- The phase machine, the fabric, the transfer engines, the sync units and the host port. -/
  | phs | fab | xfr | syn | hcp
  /-- Bring-up, security, power, the event ring, the test access port and what the node has sent. -/
  | bld | sec | pcr | evt | tap | out
  deriving DecidableEq, Repr

/-- A part is the same in two states. -/
def Part.same (s t : State) : Part → Prop
  | .mem => (t.hbm, t.tileBuf, t.opBuf, t.recBuf, t.hbmPoison, t.tilePoison, t.opPoison)
      = (s.hbm, s.tileBuf, s.opBuf, s.recBuf, s.hbmPoison, s.tilePoison, s.opPoison)
  | .regs => t.regs = s.regs
  | .rse => t.rse = s.rse
  | .pge => t.pge = s.pge
  | .mzt => t.mzt = s.mzt
  | .cores => t.cores = s.cores
  | .exp => t.exp = s.exp
  | .sch => t.sch = s.sch
  | .phs => t.phs = s.phs
  | .fab => t.fab = s.fab
  | .xfr => t.xfr = s.xfr
  | .syn => t.syn = s.syn
  | .hcp => t.hcp = s.hcp
  | .bld => t.bld = s.bld
  | .sec => t.sec = s.sec
  | .pcr => t.pcr = s.pcr
  | .evt => t.evt = s.evt
  | .tap => t.tap = s.tap
  | .out => t.outbox = s.outbox

end Sys2Proof.Machine
end

