-- ==== Sys2Proof/Safety.lean ====
section
/-! DEFINITION. What a safe run of the block is, and the parts of the state each command may change. -/

namespace Sys2Proof.Machine

/-- A step that neither faults nor is refused. -/
def Safe (s : State) : Prop := ∃ t, step s = .next t

/-- The record of core `n` past the instruction at its PC. -/
def State.pastCore (s : State) (n : Nat) : Core := { s.core n with pc := (s.core n).pc + 1 }

/-- The state in which core `n` is past the instruction at its PC. -/
def State.advance (s : State) (n : Nat) : State := s.putCore (s.pastCore n)

/-- Core `n` is ready to issue, and the word at its PC is `w`, a well-formed instruction of opcode `o`. -/
abbrev Issues (s : State) (n : Nat) (o : Opc) (w : Word128) : Prop :=
  (s.core n).power = .running ∧ (s.core n).wait = none ∧ (s.core n).stopped = false ∧ (s.core n).squash = false
    ∧ w = BitVec.ofNat 128 (s.rdNum .hbm ((s.core n).prog + 16 * (s.core n).pc) 16)
    ∧ s.poisoned .hbm ((s.core n).prog + 16 * (s.core n).pc) 16 = none
    ∧ (Opc.ofCode (opcodeOf w)).isSome = true ∧ opcodeOf w = o.code ∧ rsvdOk o w = true ∧ (s.core n).num = n

/-- A host's request that passes every check of Table 12.2 but its payload's: its reference, and the node with it in
execution. `fast`, `admin`, `serves`: its path, whether it asks for ADMIN, and whether the node answers it in RECOVERY. -/
def State.accept? (s : State) (p : HostPkt) (op : Nat) (fast admin serves : Bool) : Option (Nat × State) :=
  match s.prayrFront p op fast with
  | (none, _) => none
  | (some (lo, hi, adm), t) =>
    if p.tenant < lo ∨ hi < p.tenant ∨ (admin = true ∧ adm = false) ∨ (t.bld.node = .recovery ∧ serves = false)
        ∨ t.pathBusy fast = true then none
    else some (t.hcp.nextRef, (t.onHcp fun h => { h with
      nextRef := t.hcp.nextRef + 1
      exec := h.exec ++ [⟨t.hcp.nextRef, p.key, op, p.version, p.tenant, fast, t.reg R.HCP_PRAYR_UDP_PORT⟩] }).bump
        R.HCP_STATS_COMMANDS)

/-- The parts of the state a command may change, with all it makes the node's other units do: every other part is as
before. -/
def touches : Instr → List Part
  | .pgeModelWrite .. | .pgeKvPoolWrite .. | .pgeOchreWrite .. | .pgeUmberCtrlWrite .. | .pgeUmberWrite ..
  | .pgeEvictWrite .. | .mztCtrlWrite .. | .mztCoresWrite .. | .mztConfigWrite .. | .expCmdAddrWrite ..
  | .compMeterTick .. | .schQueueWrite .. | .schCtrlWrite .. | .turnFinishExpiry .. | .turnParkingDone ..
  | .phsCtrlWrite .. | .phsPolicyWrite .. | .phsFloorWrite .. | .fabRegionBaseWrite .. | .regionRead ..
  | .fabCtrlWrite .. | .fabTimeoutWrite .. | .xfrMsgBaseWrite .. | .xfrGroupWrite .. | .xfrCfgWrite ..
  | .barrierConfigure .. | .barrierFree .. | .hostPacketDrop .. | .hcpWindowWrite .. | .windowCloseDone ..
  | .pcrGateCfgWrite .. | .inputRecoveryRestart .. | .railClearRestart ..
    => [.regs]
  | .rngReseed .. | .waitGateExpiry .. | .coreIdleExpiry ..
    => [.cores]
  | .refuseHoldExpiry ..
    => [.sch]
  | .laneTrainFail .. | .helloLossTimeout .. | .linkFailedRecheck .. | .mgmtResp ..
    => [.fab]
  | .tagQuietExpiry ..
    => [.xfr]
  | .replyCacheExpiry .. | .roceCnp .. | .roceRateRecovery .. | .i3cPrivateWrite .. | .i3cEntdaa ..
  | .i3cSnapshotRefresh ..
    => [.hcp]
  | .licenceTickRecord .. | .railHoldDone .. | .imageHealthy ..
    => [.bld]
  | .tileIdleExpiry .. | .hbmPowerdownIdle ..
    => [.pcr]
  | .i3cPrivateRead ..
    => [.out]
  | .mirrorCopyComplete ..
    => [.regs, .rse]
  | .tableLoad .. | .tableInvalidateDone .. | .dsetLoad .. | .dsetLoadReadDone .. | .bindTable .. | .bindDset ..
    => [.regs, .exp]
  | .linkDownRetrainExpiry .. | .regionRegister .. | .regionRevoke .. | .fabPeerWrite ..
    => [.regs, .fab]
  | .schCompWrite .. | .hcpRegWrite .. | .trfMeterWrite .. | .shaperWrite ..
    => [.regs, .hcp]
  | .debugDurationExpiry ..
    => [.regs, .sec]
  | .pcrPowerLimitWrite ..
    => [.regs, .pcr]
  | .evtEccCfgWrite ..
    => [.regs, .evt]
  | .helloSendTimer .. | .hostArp .. | .hostNeighbourSolicit .. | .hostIcmpEcho ..
    => [.regs, .out]
  | .coreWakeDone ..
    => [.cores, .pcr]
  | .jtagIdcode .. | .jtagBypass .. | .jtagSamplePreload .. | .jtagExtest .. | .debugScopeAccess ..
    => [.tap, .out]
  | .xfrQDWrite .. | .synCtrDataWrite ..
    => [.regs, .cores, .syn]
  | .refclk156Restored ..
    => [.regs, .fab, .pcr]
  | .dataFrameReceive .. | .lack .. | .probeExpiry .. | .rekeyStart .. | .standaloneOackExpiry ..
    => [.regs, .fab, .out]
  | .hostRdmaRead ..
    => [.regs, .hcp, .out]
  | .hostRdmaWrite ..
    => [.mem, .regs, .hcp, .out]
  | .shardDispatch ..
    => [.mem, .cores, .exp, .sch]
  | .demoteIdleExpiry ..
    => [.regs, .pge, .hcp, .out]
  | .pgRenewTimer .. | .repairReq .. | .statusQuery ..
    => [.regs, .fab, .hcp, .out]
  | .channelCopyStart ..
    => [.mem, .regs, .pge, .hcp, .bld]
  | .backupStart ..
    => [.mem, .regs, .cores, .exp, .sch]
  | .mirrorBind .. | .mirrorBindAccepted .. | .mirrorBindRetryExpiry .. | .ownQuery .. | .resyncRetry ..
  | .stepNote .. | .mvReleased .. | .notOwnerRetryExpiry .. | .engineNakRetryExpiry ..
    => [.regs, .rse, .fab, .hcp, .out]
  | .prefixIdleExpiry .. | .pgRenew .. | .pgTtl .. | .pgFree .. | .pgLocate ..
    => [.regs, .pge, .fab, .hcp, .out]
  | .ctxOpen .. | .ctxStart .. | .ctxClose .. | .ctxAbort .. | .ctxDrained ..
    => [.regs, .mzt, .cores, .sch, .fab]
  | .bcastEnd .. | .repairNak .. | .statusReply ..
    => [.regs, .fab, .hcp, .bld, .out]
  | .fabPortCfgWrite .. | .linkTrained .. | .linkDrained .. | .lnack .. | .linkReplayExpiry ..
  | .linkTimeoutExpiry .. | .fabAssignNumber .. | .fabAssignRelease .. | .fabricNotice .. | .revokeComplete ..
  | .rekeyHello .. | .prayrNop .. | .caps .. | .eventPull .. | .qpSetup .. | .prayrBadOpcode .. | .hostPortUp ..
  | .hostPortDown .. | .imgStatus .. | .bcastStatus .. | .licList .. | .defectRead .. | .attest .. | .certRead ..
  | .ceWindowExpiry .. | .portLockLoss .. | .rekeyDeadline ..
    => [.regs, .fab, .hcp, .evt, .out]
  | .bcastPacket ..
    => [.mem, .regs, .fab, .hcp, .bld, .out]
  | .mirrorBindRefused .. | .rseDeputyWrite .. | .rseMirrorHomeWrite .. | .writeThroughAck ..
    => [.regs, .rse, .pge, .fab, .hcp, .out]
  | .placeRefused .. | .placeTimeout ..
    => [.regs, .rse, .sch, .fab, .hcp, .out]
  | .pageDeadlineCheck ..
    => [.regs, .pge, .fab, .hcp, .evt, .out]
  | .phsTurnWrite ..
    => [.regs, .mzt, .cores, .sch, .phs, .fab]
  | .ctxLoadingDone ..
    => [.regs, .mzt, .cores, .sch, .fab, .syn]
  | .barrierRelease ..
    => [.regs, .cores, .fab, .syn, .hcp, .out]
  | .tableDrop .. | .dsetDrop ..
    => [.regs, .exp, .fab, .hcp, .evt, .out]
  | .releaseAck ..
    => [.regs, .fab, .syn, .hcp, .evt, .out]
  | .hello .. | .tileServiceOnline .. | .bcastOpen .. | .bcastSend .. | .bcastClose .. | .repairWaitExpiry ..
  | .imageHashDone .. | .licRemove .. | .licenceLapse ..
    => [.regs, .fab, .hcp, .bld, .evt, .out]
  | .approvalOpen .. | .approve .. | .approverEnrolAdd .. | .approverEnrolRemove .. | .policySet .. | .hostSet ..
  | .debugUnlock .. | .debugRelock .. | .approvalDeadlineExpiry ..
    => [.regs, .fab, .hcp, .sec, .evt, .out]
  | .csrRead .. | .inputWarnCross .. | .inputRecoveryDone .. | .railWarnCross .. | .railClearDone ..
  | .powerWindowExpiry .. | .refclk156Loss ..
    => [.regs, .fab, .hcp, .pcr, .evt, .out]
  | .mirrorWrite ..
    => [.mem, .regs, .rse, .pge, .fab, .hcp, .out]
  | .shardWin ..
    => [.mem, .regs, .mzt, .cores, .sch, .fab, .syn]
  | .migrationAck ..
    => [.regs, .rse, .pge, .fab, .hcp, .evt, .out]
  | .mztBusyRetryExpiry ..
    => [.regs, .mzt, .cores, .fab, .syn, .hcp, .out]
  | .msgOpen ..
    => [.regs, .cores, .fab, .xfr, .syn, .hcp, .out]
  | .tileServiceOffline ..
    => [.regs, .cores, .fab, .hcp, .pcr, .evt, .out]
  | .imgActivate .. | .imageHealthExpiry .. | .imageSlotWriteDone .. | .licInstall .. | .defectClear ..
    => [.regs, .fab, .hcp, .bld, .sec, .evt, .out]
  | .channelRetire ..
    => [.mem, .regs, .pge, .fab, .hcp, .bld, .evt, .out]
  | .deferredChangeRetry .. | .claimWindowExpiry .. | .resyncReply .. | .rseAdoptWrite .. | .placementOffer ..
  | .placeAccept .. | .lostStep .. | .lossSweep .. | .requestRecover .. | .recordRestore .. | .ttlExpiry ..
  | .tombstoneExpiry .. | .final .. | .notOwner .. | .turnCheckDone .. | .holderQuietExpiry ..
    => [.regs, .rse, .pge, .sch, .fab, .hcp, .evt, .out]
  | .coverHoldExpiry ..
    => [.regs, .rse, .cores, .fab, .syn, .hcp, .evt, .out]
  | .jobAbort ..
    => [.regs, .mzt, .cores, .sch, .fab, .hcp, .evt, .out]
  | .mirrorAck .. | .mirrorAckTimeout .. | .mirrorRefused .. | .mirrorFenced .. | .mvCommitReq .. | .submit ..
  | .submitPromptReadDone .. | .cancel .. | .pause .. | .resume .. | .queryReq .. | .setTtl .. | .move ..
  | .resumePromptReadDone ..
    => [.mem, .regs, .rse, .pge, .sch, .fab, .hcp, .evt, .out]
  | .msgAbort ..
    => [.regs, .rse, .cores, .fab, .xfr, .syn, .hcp, .evt, .out]
  | .phaseTurn .. | .turnDrainLimitExpiry .. | .barrierAbort .. | .waitLimitExpiry ..
    => [.regs, .mzt, .cores, .sch, .phs, .fab, .hcp, .evt, .out]
  | .batchDispatch .. | .batchHoldExpiry ..
    => [.mem, .regs, .rse, .pge, .cores, .exp, .sch, .fab, .hcp, .out]
  | .writePacket ..
    => [.mem, .regs, .rse, .cores, .fab, .xfr, .syn, .hcp, .evt, .out]
  | .instrNop .. | .instrWait .. | .fence .. | .end_ ..
    => [.regs, .mzt, .cores, .sch, .phs, .fab, .syn, .hcp, .evt, .out]
  | .instrSignal .. | .instrArrive ..
    => [.regs, .rse, .mzt, .cores, .sch, .phs, .fab, .syn, .hcp, .evt, .out]
  | .mma .. | .mmx .. | .mmt .. | .vbin .. | .vbins .. | .vfma .. | .vun .. | .vred .. | .vsoftmax .. | .vnorm ..
  | .vrope .. | .vcvt .. | .vmerge .. | .sample .. | .sverify .. | .slogprob .. | .oadam .. | .osgd ..
  | .instrLoad .. | .instrStore ..
    => [.mem, .regs, .rse, .mzt, .cores, .sch, .phs, .fab, .syn, .hcp, .evt, .out]
  | .turnQuiesceDone .. | .remoteTimeoutExpiry .. | .xfrQueueCfgWrite .. | .xfrWrite .. | .xfrRead .. | .xfrAtomic ..
  | .xfrSignal .. | .xfrCopy .. | .xfrCopyDone .. | .xfrNop .. | .umberWrite .. | .umberRead .. | .xfrReduce ..
  | .msgDone .. | .msgTimeoutExpiry .. | .readData .. | .reducePacket .. | .reduceDownPacket ..
  | .collTimeoutExpiry ..
    => [.mem, .regs, .rse, .mzt, .cores, .sch, .phs, .fab, .xfr, .syn, .hcp, .evt, .out]
  | .tileOpBoundary ..
    => [.mem, .regs, .rse, .mzt, .cores, .sch, .phs, .fab, .syn, .hcp, .pcr, .evt, .out]
  | .ownReply .. | .ownQueryRetry .. | .place .. | .placed .. | .recallComplete .. | .placeCancel ..
  | .placeInDoubtExpiry .. | .stepCommit .. | .stepAck .. | .moveStart .. | .mvPrepare .. | .pullComplete ..
  | .pullReadFailed .. | .mvPrepared .. | .mvRefused .. | .mvCommitted .. | .mvAborted .. | .mvAbort ..
  | .prepareTimeout .. | .moveCommitTimeout .. | .handbackRetryExpiry .. | .cancelFwd .. | .fwdPause .. | .fwdMove ..
  | .migrationStart .. | .migrationCopy .. | .migrationRefused .. | .writeThrough .. | .parityUpdate ..
  | .pgLocateReply .. | .mzquery .. | .mzwrite .. | .mztQuery .. | .mztQueryDone .. | .mztKvWrite .. | .mztKvAck ..
  | .mztPartial .. | .mztPartialTimeout .. | .scommit .. | .batchEnd .. | .orderedFrameAccept .. | .oack ..
  | .oretxExpiry .. | .signalFrame .. | .atomicFrame .. | .remoteResponse .. | .fabRtEntryWrite .. | .sprayNak ..
  | .engineNak .. | .readFrame .. | .arriveAtBarrier .. | .tokenAck .. | .qpDestroy .. | .tokenTransmit ..
  | .tokenRetxExpiry .. | .roceCompletion .. | .roceAckTimeout .. | .roceNak .. | .shaperRelease ..
    => [.mem, .regs, .rse, .pge, .mzt, .cores, .sch, .phs, .fab, .xfr, .syn, .hcp, .evt, .out]
  | .ctxTeardownDone ..
    => [.mem, .regs, .rse, .pge, .mzt, .cores, .exp, .sch, .phs, .fab, .xfr, .syn, .hcp, .evt, .out]
  | .loadFrame .. | .patrolScrubPass ..
    => [.mem, .regs, .rse, .pge, .mzt, .cores, .sch, .phs, .fab, .xfr, .syn, .hcp, .pcr, .evt, .out]
  | .csrWriteGeneric .. | .storeFrame .. | .mgmtFrame ..
    => [.mem, .regs, .rse, .pge, .mzt, .cores, .exp, .sch, .phs, .fab, .xfr, .syn, .hcp, .pcr, .evt, .out]
  | .inputUndervoltage .. | .inputOvervoltage .. | .aonInputLoss .. | .refclk25Loss ..
    => [.mem, .regs, .rse, .pge, .mzt, .cores, .exp, .sch, .phs, .fab, .xfr, .syn, .hcp, .bld, .sec, .pcr, .evt]
  | .coreFailure ..
    => [.mem, .regs, .rse, .pge, .mzt, .cores, .exp, .sch, .phs, .fab, .xfr, .syn, .hcp, .bld, .pcr, .evt, .out]
  | .csrWrite ..
    => [.mem, .regs, .rse, .pge, .mzt, .cores, .exp, .sch, .phs, .fab, .xfr, .syn, .hcp, .sec, .pcr, .evt, .out]
  | .resetWarm .. | .resetCompute .. | .resetComputeScrub .. | .coldStart .. | .watchdogExpiry .. | .bootStageDone ..
  | .tileOnlineTestDone .. | .channelCopyDone .. | .railResetCross .. | .thermalSample ..
    => [.mem, .regs, .rse, .pge, .mzt, .cores, .exp, .sch, .phs, .fab, .xfr, .syn, .hcp, .bld, .sec, .pcr, .evt, .out]

/-- The parts a step may change: those of its front command; an idle cycle lets the node take what waits in its inbox. -/
def stepTouches (s : State) : List Part :=
  match s.pending with
  | [] => [.mem, .regs, .rse, .pge, .mzt, .cores, .sch, .phs, .fab, .xfr, .syn, .hcp, .evt, .out]
  | c :: _ => touches c

end Sys2Proof.Machine
end

