-- ==== Sys2Proof/Certificates/Slice0/Obligations.lean ====
section
/-! DEFINITION. The statements about the model: one per group of commands, and those of every step. -/

open Sys2Proof Sys2Proof.Machine

/-- With a command at the front of the queue, a step is that command's effect on the state with the queue's rest. -/
def Obligations.StepRunsFrontCommand : Prop :=
  ∀ (c : Instr) (s : Machine.State), Machine.step { s with pending := c :: s.pending } = Machine.exec c s

/-- What a write with no effect but its register's fields does to each field of the register, and what a read clears: the access types RO,
RW, W1C and RC of Table 0.4 (R7). -/
def Obligations.AccessTypes : Prop :=
  (∀ (s : State) (addr v : Nat) (r : RegRow) (f : FldRow), s.canonical → regRowAt addr = some r → f ∈ r.fields → f.acc = .rw →
    (s.plainWrite addr v).reg (f.at addr) = f.of v)
  ∧ (∀ (s : State) (addr v : Nat) (r : RegRow) (f : FldRow), s.canonical → regRowAt addr = some r → f ∈ r.fields → f.acc = .w1c →
      (s.plainWrite addr v).reg (f.at addr) = (if f.of v = 1 ∧ s.reg (f.at addr) = 1 then 0 else s.reg (f.at addr)))
  ∧ (∀ (s : State) (addr v : Nat) (r : RegRow) (f : FldRow), s.canonical → regRowAt addr = some r → f ∈ r.fields →
      f.acc = .ro ∨ f.acc = .rc → (s.plainWrite addr v).reg (f.at addr) = s.reg (f.at addr))
  ∧ (∀ (s : State) (addr : Nat) (r : RegRow) (f : FldRow), s.canonical → regRowAt addr = some r → f ∈ r.fields → f.acc = .rc →
      (s.clearRc addr).reg (f.at addr) = 0)
  ∧ (∀ (s : State) (addr : Nat) (r : RegRow) (f : FldRow), s.canonical → regRowAt addr = some r → f ∈ r.fields → f.acc ≠ .rc →
      (s.clearRc addr).reg (f.at addr) = s.reg (f.at addr))
  ∧ (∀ (s : State) (addr v : Nat) (r : RegRow) (g : Fld), s.canonical → regRowAt addr = some r →
      (∀ f, f ∈ r.fields → (f.at addr).key ≠ g.key) → (s.plainWrite addr v).reg g = s.reg g ∧ (s.clearRc addr).reg g = s.reg g)

/-- The control space: a write by its address, refused and ignored accesses, node numbers and route entries (R8, R9, R26, R242, R243, R247,
R248, R252, R335, R392). -/
def Obligations.ControlSpace : Prop :=
  (∀ (s : State) (addr v : Nat), addr % 8 ≠ 0 → exec (.csrWriteGeneric addr v) s = .next s ∧ s.csrRead addr = (.error .addrInvalid, s))
  ∧ (∀ (s : State) (addr v : Nat), s.absentBlock addr = true ∨ regRowAt addr = none → exec (.csrWriteGeneric addr v) s = .next s)
  ∧ (∀ (s : State) (addr : Nat), addr % 8 = 0 → s.absentBlock addr = true ∨ regRowAt addr = none → s.csrRead addr = (.ok 0, s))
  ∧ (∀ (s : State) (addr v : Nat), 0x500000 ≤ addr ∧ addr < 0x700000 ∨ addr = 0x280098 ∨
      s.flag R.SEC_STATE_HOST_LOCK = true ∧ 0x11000 ≤ addr ∧ addr < 0x11200 → exec (.csrWriteGeneric addr v) s = .next s)
  ∧ (∀ (s : State) (addr v : Nat), addr < 0x10000 → exec (.csrWriteGeneric addr v) s = .next s)
  ∧ (∀ (s : State) (addr v : Nat), addr % 8 = 0 → (regRowAt addr).isSome = true → 0x800000 ≤ addr → addr < 0x1000000 →
      addr ≠ 0x800018 → exec (.csrWriteGeneric addr v) s = .next (s.plainWrite addr (v % 2 ^ 64)))
  ∧ (∀ (s t : State) (addr v : Nat) (x : St), addr % 8 = 0 → s.absentBlock addr = false → (regRowAt addr).isSome = true →
      s.csrGuarded addr = false → s.regWrite addr (v % 2 ^ 64) = (t, x) → exec (.csrWriteGeneric addr v) s = .next t)
  ∧ (∀ (s : State) (n : Nat), n < 65536 → s.flag R.CAP_NODE_NODE_VALID = false → 1 ≤ s.reg R.CAP_LIMITS_DOMAIN_MAX →
      exec (.fabAssignNumber n) s = .next (((s.setRegs [(R.FAB_ASSIGN_NUMBER, n), (R.FAB_ASSIGN_VALID, 1), (R.FAB_ASSIGN_RELEASE, 0)]).capChange
        [(R.CAP_NODE_NODE_NUMBER, n), (R.CAP_NODE_NODE_VALID, 1)]).reReport))
  ∧ (∀ (s : State) (n : Nat), s.flag R.CAP_NODE_NODE_VALID = true ∨ s.reg R.CAP_LIMITS_DOMAIN_MAX = 0 →
      exec (.fabAssignNumber n) s = .next s)
  ∧ (∀ (s : State), s.rse.homes = [] → s.rse.works = [] → s.flag R.CAP_NODE_NODE_VALID = true → exec .fabAssignRelease s
      = .next (((s.setRegs [(R.FAB_ASSIGN_VALID, 0), (R.FAB_ASSIGN_RELEASE, 1)]).capChange [(R.CAP_NODE_NODE_VALID, 0)]).reReport))
  ∧ (∀ (s : State), s.rse.homes ≠ [] ∨ s.rse.works ≠ [] → exec .fabAssignRelease s = .next s)
  ∧ (∀ (s : State) (v : Nat), bitAt v 63 = true →
      (s.fab.routes.filter fun r => r.valid && r.dst != s.reg R.FAB_RT_INDEX_INDEX).length + 1 < s.reg R.CAP_LIMITS_DOMAIN_MAX →
      exec (.fabRtEntryWrite v) s = .next ((s.onFab fun f => { f with routes := upsert (·.dst == s.reg R.FAB_RT_INDEX_INDEX) (routeOf (s.reg R.FAB_RT_INDEX_INDEX) v) f.routes }).rtNext))
  ∧ (∀ (s : State) (v : Nat), bitAt v 63 = true →
      s.reg R.CAP_LIMITS_DOMAIN_MAX ≤ (s.fab.routes.filter fun r => r.valid && r.dst != s.reg R.FAB_RT_INDEX_INDEX).length + 1 →
      exec (.fabRtEntryWrite v) s = .next s)
  ∧ (∀ (s : State) (v : Nat) (r : Route) (g : Frame) (gs : List Frame), bitAt v 63 = false → s.fab.routes = [r] →
      r.dst = s.reg R.FAB_RT_INDEX_INDEX → r.valid = true → ¬ (s.flag R.CAP_NODE_NODE_VALID = true ∧ r.dst = s.node) →
      (s.outCh r.dst).unacked = g :: gs → exec (.fabRtEntryWrite v) s
        = .next (((s.onFab fun f => { f with routes := [routeOf r.dst v] }).nodeLost r.dst).rtNext))
  ∧ (∀ (s : State) (v : Nat), bitAt v 63 = false → s.route? (s.reg R.FAB_RT_INDEX_INDEX) = none →
      exec (.fabRtEntryWrite v) s = .next ((s.onFab fun f => { f with routes := upsert (·.dst == s.reg R.FAB_RT_INDEX_INDEX) (routeOf (s.reg R.FAB_RT_INDEX_INDEX) v) f.routes }).rtNext))
  ∧ (∀ (s : State), s.flag R.CAP_NODE_NODE_VALID = true → s.route? s.node = none)
  ∧ (∀ (dst w : Nat), (routeOf dst w).dst = dst ∧ (routeOf dst w).valid = bitAt w 63 ∧ (routeOf dst w).ordPort = bitsOf w 62 59 ∧ (routeOf dst w).sprayMask = bitsOf w 58 43
      ∧ (routeOf dst w).detourMask = bitsOf w 42 27 ∧ (routeOf dst w).nextNode = bitsOf w 26 11 ∧ (routeOf dst w).dist = bitsOf w 10 5)

/-- A deputy answers a bind, the home acts on the answer, and the writes of the deputy's registers (R33, R39, R73). Mirror writes at the
deputy, one in a format it cannot read among them, and their answers at the home (R33 to R37, R225, R439). -/
def Obligations.Mirroring : Prop :=
  (∀ (s : State) (src : Nat), exec (.mirrorBind src) s = .next (
    if src ∈ s.rse.adopted then (s.takeMsg src .mirrorBind).sendMsg src (.mirrorBindRefused .homeAdopted)
    else if s.flag R.RSE_MIRROR_HOME_VALID = true ∧ s.reg R.RSE_MIRROR_HOME_HOME = src then
      ((s.takeMsg src .mirrorBind).onRse fun e => { e with boundFrom := some src }).sendMsg src .mirrorBindAccepted
    else (s.takeMsg src .mirrorBind).sendMsg src (.mirrorBindRefused .badState)))
  ∧ (∀ s : State, s.flag R.RSE_DEPUTY_VALID = true → s.rse.bind = .sent → s.rse.homes = [] → s.rse.resyncNeeded = false →
      exec (.mirrorBindAccepted (s.reg R.RSE_DEPUTY_NODE)) s
        = .next ((s.takeMsg (s.reg R.RSE_DEPUTY_NODE) .mirrorBindAccepted).onRse fun e => { e with bind := .copying }))
  ∧ (∀ s : State, s.rse.bind = .copying → s.rse.mirrorOut = [] → s.rse.resyncNeeded = false → ∃ t, exec .mirrorCopyComplete s = .next t
      ∧ t.flag R.RSE_DEPUTY_BOUND = true ∧ t.rse = { s.rse with bind := .bound }
      ∧ ∀ f : Fld, f.key ≠ R.RSE_DEPUTY_BOUND.key → t.reg f = s.reg f)
  ∧ (∀ (s : State) (st : St), s.flag R.RSE_DEPUTY_VALID = true → s.rse.bind = .sent → st ≠ .homeAdopted →
      exec (.mirrorBindRefused (s.reg R.RSE_DEPUTY_NODE) st) s
        = .next ((s.takeMsg (s.reg R.RSE_DEPUTY_NODE) (.mirrorBindRefused st)).onRse fun e => { e with bind := .refused }))
  ∧ (∀ s : State, exec .mirrorBindRetryExpiry s
      = .next (if s.rse.bind = .sent then
          (s.markUnreachable (s.reg R.RSE_DEPUTY_NODE)).sendMsg (s.reg R.RSE_DEPUTY_NODE) .mirrorBind else s))
  ∧ (∀ (s : State) (v : Nat), bitAt v 32 = false → ∃ t, exec (.rseDeputyWrite v) s = .next t
      ∧ t.reg R.RSE_DEPUTY_NODE = v % 65536 ∧ t.flag R.RSE_DEPUTY_VALID = false ∧ t.flag R.RSE_DEPUTY_BOUND = false
      ∧ (s.rse.mirrorOut = [] → t.rse = { s.rse with bind := .none, resyncNeeded := false, heldQueries := [] }))
  ∧ (∀ (s : State) (v : Nat), bitAt v 32 = true → s.rse.mirrorOut = [] → exec (.rseDeputyWrite v) s
      = .next ((((s.setRegs [(R.RSE_DEPUTY_VALID, 1), (R.RSE_DEPUTY_NODE, v)]).setReg R.RSE_DEPUTY_BOUND 0).onRse
          fun e => { e with bind := .sent }).sendMsg (v % 65536) .mirrorBind))
  ∧ (∀ (s : State) (v : Nat) (p : MirrorPend), bitAt v 32 = true → s.rse.mirrorOut = [p] → ∃ t, exec (.rseDeputyWrite v) s
      = .next ((t.onRse fun e => { e with bind := .sent }).sendMsg (t.reg R.RSE_DEPUTY_NODE) .mirrorBind)
      ∧ t = ((((s.setRegs [(R.RSE_DEPUTY_VALID, 1), (R.RSE_DEPUTY_NODE, v)]).setReg R.RSE_DEPUTY_BOUND 0).onRse
          fun e => { e with mirrorOut := [] })).giveUp p)
  ∧ (∀ (s : State) (v : Nat), bitAt v 32 = false → s.flag R.RSE_MIRROR_HOME_VALID = true →
      (∀ m ∈ s.rse.mirrors, (s.home? m.r.id).isSome = true) →
      ∃ t, exec (.rseMirrorHomeWrite v) s = .next t ∧ t.flag R.RSE_MIRROR_HOME_VALID = false
        ∧ t.reg R.RSE_MIRROR_HOME_HOME = v % 65536 ∧ t.rse = { s.rse with mirrors := [], boundFrom := none })
  ∧ (∀ (s : State) (v : Nat), bitAt v 32 = false → s.flag R.RSE_MIRROR_HOME_VALID = true →
      exec (.rseMirrorHomeWrite v) s = .next ((((s.rse.mirrors.filter fun m => (s.home? m.r.id).isNone).map (·.r.id)).foldl
        State.freeHistory (s.setRegs [(R.RSE_MIRROR_HOME_VALID, 0), (R.RSE_MIRROR_HOME_HOME, v)])).onRse
          fun e => { e with mirrors := [], boundFrom := none }))
  ∧ (∀ (s : State) (v : Nat), bitAt v 63 = true → s.flag R.RSE_MIRROR_HOME_VALID = true → s.rse.mirrors = [] →
      s.reachable (s.reg R.RSE_MIRROR_HOME_HOME) = true →
      exec (.rseAdoptWrite v) s = .next ((((s.onRse fun e => { e with mirrors := [], boundFrom := none, probes := [], adopted := e.adopted ++ [s.reg R.RSE_MIRROR_HOME_HOME] }).setRegs
        [(R.RSE_ADOPT_ADOPT, 1), (R.RSE_ADOPT_ADOPTED, 1), (R.RSE_ADOPT_FORMER_HOME, s.reg R.RSE_MIRROR_HOME_HOME)])).post
        .homeAdopted 0xFFF (formO .ok (s.reg R.RSE_MIRROR_HOME_HOME) 0 0)))
  ∧ (∀ (s : State) (v : Nat), bitAt v 63 = true → s.flag R.RSE_MIRROR_HOME_VALID = false →
      exec (.rseAdoptWrite v) s = .next (s.setReg R.RSE_ADOPT_ADOPT 1))
  ∧ (∀ (s : State) (src id seq epoch : Nat) (r' : Option Record) (hist : List Nat), s.rse.boundFrom ≠ some src →
    exec (.mirrorWrite src id ⟨seq, epoch⟩ r' hist) s
      = .next ((s.takeMsg src (.mirrorWrite id seq epoch r' hist)).sendMsg src (.mirrorRefused id seq epoch)))
  ∧ (∀ (s : State) (src id seq epoch : Nat) (r : Record) (hist : List Nat), s.rse.boundFrom = some src →
      s.flag R.RSE_MIRROR_HOME_VALID = true → s.reg R.RSE_MIRROR_HOME_HOME = src → s.readable r = false →
      exec (.mirrorWrite src id ⟨seq, epoch⟩ (some r) hist) s
        = .next ((s.takeMsg src (.mirrorWrite id seq epoch (some r) hist)).nakWith src (.mirrorWrite id seq epoch (some r) hist)
            .formatUnsupported))
  ∧ (∀ (s : State) (src id seq epoch : Nat) (r : Record) (hist : List Nat) (m : Mirror), s.rse.boundFrom = some src →
      s.flag R.RSE_MIRROR_HOME_VALID = true → s.reg R.RSE_MIRROR_HOME_HOME = src → s.readable r = true →
      (s.rse.mirrors.find? fun x => x.r.id == id) = some m → m.fenced.isSome = true → m.r.epoch ≠ r.epoch →
      exec (.mirrorWrite src id ⟨seq, epoch⟩ (some r) hist) s
        = .next ((s.takeMsg src (.mirrorWrite id seq epoch (some r) hist)).sendMsg src (.mirrorFenced id seq epoch)))
  ∧ (∀ (s s' : State) (src id seq epoch : Nat) (r : Record) (hist : List Nat), s.rse.boundFrom = some src →
      s.flag R.RSE_MIRROR_HOME_VALID = true → s.reg R.RSE_MIRROR_HOME_HOME = src → s.readable r = true →
      (s.rse.mirrors.find? fun x => x.r.id == id) = none →
      (s.takeMsg src (.mirrorWrite id seq epoch (some r) hist)).writeHistory r hist = some s' →
      exec (.mirrorWrite src id ⟨seq, epoch⟩ (some r) hist) s
        = .next ((s'.onRse fun e => { e with mirrors := upsert (·.r.id == id) ⟨r, hist, none, s'.tick⟩ e.mirrors }).sendMsg src
            (.mirrorAck id seq epoch)))
  ∧ (∀ (s : State) (src id seq epoch : Nat) (m : Msg), m = .mirrorAck id seq epoch → s.fromDeputy src = false →
      exec (.mirrorAck src id ⟨seq, epoch⟩) s = .next (s.takeMsg src m))
  ∧ (∀ (s : State) (src id seq epoch : Nat) (p : MirrorPend), s.fromDeputy src = true → (s.rse.mirrorOut.find? fun p => p.id == id && p.seq == seq) = some p →
      p.change = .note → s.home? id = none → exec (.mirrorAck src id ⟨seq, epoch⟩) s = .next
        ((s.takeMsg src (.mirrorAck id seq epoch)).onRse fun e => { e with mirrorOut := e.mirrorOut.filter fun p => !(p.id == id && p.seq == seq) }))
  ∧ (∀ (s : State) (id seq ref : Nat) (p : MirrorPend), (s.rse.mirrorOut.find? fun p => p.id == id && p.seq == seq) = some p →
      p.change = .submit (.here ref) → p.prior = none →
      let t := (s.onRse fun e => { e with mirrorOut := e.mirrorOut.filter fun p => !(p.id == id && p.seq == seq) }).markUnreachable
        (s.reg R.RSE_DEPUTY_NODE)
      exec (.mirrorAckTimeout id seq) s
        = .next (((((t.dropHome id).sendMsg ((t.dropHome id).reg R.RSE_DEPUTY_NODE)
          (.mirrorWrite id (((p.next.map (·.r.mirrorSeq)).getD 0) + 1) ((p.next.map (·.r.epoch)).getD 0) none []))).hostReply ref .deputyUnreachable []).heldResume id))
  ∧ (∀ (s : State) (id : Nat) (h : HomeRec), s.home? id = some h → h.checkOk = true → h.deferred = some .rebase →
      (s.rse.mirrorOut.any fun p => p.id == id && decide (p.change ≠ .note)) = false →
      exec (.deferredChangeRetry id) s = .next (s.rebase h))
  ∧ (∀ (s : State) (id : Nat) (h : HomeRec) (lost : Nat), s.home? id = some h → h.checkOk = true → h.deferred = some (.recover lost) →
      (s.rse.mirrorOut.any fun p => p.id == id && decide (p.change ≠ .note)) = false → h.r.epoch + 1 < 2 ^ 32 →
      exec (.deferredChangeRetry id) s = .next (s.change { h with r := { h.r with owner := s.node, epoch := h.r.epoch + 1, state := .queued, moveDest := 0, movePhase := 0, retried := false }, recovering := false, deferred := none } (.recover h.r.owner)))
  ∧ (∀ (s : State) (src id seq epoch : Nat) (p : MirrorPend) (h h' k : HomeRec), s.fromDeputy src = true →
      (s.rse.mirrorOut.find? fun p => p.id == id && p.seq == seq) = some p → p.change = .note → p.prior = some h →
      p.id = id → p.next = some k → s.home? id = some h' → h'.r = k.r → h'.r.state.final = false →
      (s.rse.mirrorOut.filter fun x => x.id == id) = [p] →
      exec (.mirrorRefused src id ⟨seq, epoch⟩) s = .next (((((s.takeMsg src (.mirrorRefused id seq epoch)).onRse fun e => { e with mirrorOut := e.mirrorOut.filter fun p => !(p.id == id && p.seq == seq) }).onRse fun e => { e with bind := .refused }).setReg
        R.RSE_DEPUTY_BOUND 0).putHome
          { h with r := { h.r with cancelSeen := h.r.cancelSeen || h'.r.cancelSeen, mirrorSeq := h'.r.mirrorSeq }, waits := h'.waits, resend := h'.resend, heldResume := h'.heldResume })
      ∧ exec (.mirrorFenced src id ⟨seq, epoch⟩) s = .next (((s.takeMsg src (.mirrorFenced id seq epoch)).onRse fun e => { e with mirrorOut := e.mirrorOut.filter fun p => !(p.id == id && p.seq == seq) }).putHome
          { h with r := { h.r with cancelSeen := h.r.cancelSeen || h'.r.cancelSeen, mirrorSeq := h'.r.mirrorSeq }, waits := h'.waits, resend := h'.resend, heldResume := h'.heldResume }))

/-- A node in doubt, the home's answer, claims and resynchronisation, and a copy in a format this node cannot read (R36, R38, R41,
R57, R58, R60, R225). That a question without an answer goes to the home and the deputy in turn is the model's reading (log
entry 65). -/
def Obligations.OwnershipDoubt : Prop :=
  (∀ (s : State) (src id epoch : Nat) (cm : Bool) (r' : Record) (h : HomeRec), s.isHome id = true → s.home? id = some h →
      epoch ≤ h.r.epoch → s.claimsOpen id = false → h.checkOk = true → s.readable r' = true →
      (s.rse.resyncNeeded && s.mirrors id) = false →
      (s.rse.mirrorOut.any fun p => p.id == id && decide (p.change ≠ .note)) = false →
      exec (.ownQuery src id epoch cm r') s
        = .next ((s.takeMsg src (.ownQuery id epoch cm r')).sendMsg src (.ownReply id h.r.epoch h.r.owner)))
  ∧ (∀ (s : State) (src id epoch : Nat) (cm : Bool) (r' : Record) (h : HomeRec), s.isHome id = true → s.home? id = some h →
      h.r.epoch < epoch ∨ s.claimsOpen id = true → h.checkOk = true → s.readable r' = true →
      (s.rse.resyncNeeded && s.mirrors id) = false →
      (s.rse.mirrorOut.any fun p => p.id == id && decide (p.change ≠ .note)) = false →
      exec (.ownQuery src id epoch cm r') s
        = .next ((s.takeMsg src (.ownQuery id epoch cm r')).addClaim id ⟨src, epoch, cm, r'⟩))
  ∧ (∀ (s : State) (src id epoch : Nat) (cm : Bool) (r' : Record), s.readable r' = false →
      exec (.ownQuery src id epoch cm r') s = .next ((s.takeMsg src (.ownQuery id epoch cm r')).nakWith src
        (.ownQuery id epoch cm r') .formatUnsupported))
  ∧ (∀ (s : State) (src id epoch : Nat) (w : Work), s.work? id = some w → w.checkOk = true → w.status = .owned → w.move = none →
      w.r.epoch = epoch → exec (.ownReply src id epoch s.node) s = .next ((s.takeMsg src (.ownReply id epoch s.node)).putWork
        { w with doubt := false }))
  ∧ (∀ (s : State) (src id epoch owner : Nat) (w : Work), s.work? id = some w → w.checkOk = true → owner ≠ s.node →
      w.status = .reserved → exec (.ownReply src id epoch owner) s
        = .next (if epoch < w.r.epoch then s.takeMsg src (.ownReply id epoch owner)
          else (s.takeMsg src (.ownReply id epoch owner)).discardCopy id))
  ∧ (∀ (s : State) (id : Nat) (w : Work), s.work? id = some w → w.checkOk = true → w.doubt = true → s.homeNode w.r = idHome id →
      exec (.ownQueryRetry id) s = .next (((s.markUnreachable (idHome id)).putWork w).sendMsg
        ((s.markUnreachable (idHome id)).homeNode w.r) (.ownQuery w.r.id w.r.epoch (decide (w.status = .owned)) w.r)))
  ∧ (∀ (s : State) (id : Nat) (w : Work), s.work? id = some w → w.checkOk = true → w.doubt = true → s.homeNode w.r ≠ idHome id →
      exec (.ownQueryRetry id) s = .next (((s.markReachable (idHome id)).putWork w).sendMsg
        ((s.markReachable (idHome id)).homeNode w.r) (.ownQuery w.r.id w.r.epoch (decide (w.status = .owned)) w.r)))
  ∧ (∀ (s : State) (id t : Nat) (c : Claim), s.rse.claims.find? (·.1 == id) = some (id, t, [c]) → s.home? id = none →
      t + s.reg R.RSE_LIMITS_CLAIM_WINDOW ≤ s.tick → c.epoch + 1 < 2 ^ 32 → c.record.epoch + 1 < 2 ^ 32 →
      exec (.claimWindowExpiry id) s = .next (s.change (s.homeTimes (homeOf { c.record with
        owner := if c.state.away then c.node else s.node, epoch := c.epoch + 1, state := c.state, nextState := .free, moveDest := 0,
        movePhase := 0, mirrored := s.mirrors id } []) (s.ttlOf c.record.ttlTicks)) (.repair [c.node])))
  ∧ (∀ s : State, s.flag R.RSE_DEPUTY_VALID = true → s.rse.homes = [] → s.rse.heldQueries = [] →
      exec (.resyncReply (s.reg R.RSE_DEPUTY_NODE) false []) s
        = .next ((s.takeMsg (s.reg R.RSE_DEPUTY_NODE) (.resyncReply false [])).onRse fun e => { e with resyncNeeded := false, rebuild := false, heldQueries := [] }))
  ∧ (∀ s : State, exec .resyncRetry s = .next (if s.rse.resyncNeeded = true ∧ s.flag R.RSE_DEPUTY_VALID = true then
      (s.markUnreachable (s.reg R.RSE_DEPUTY_NODE)).sendMsg (s.reg R.RSE_DEPUTY_NODE) .resync else s))
  ∧ (∀ (s : State) (id : Nat) (h : HomeRec), s.home? id = some h → h.checkOk = false → s.mirrors id = true →
      h.r.mirrored = true → s.rse.bind ≠ .none → s.rse.bind ≠ .refused →
      exec (.recordRestore id) s = .next (s.sendMsg (s.reg R.RSE_DEPUTY_NODE) .resync))
  ∧ (∀ (s : State) (id : Nat) (h : HomeRec), s.home? id = some h → h.checkOk = false → h.r.mirrored = false →
      exec (.recordRestore id) s = .next ((s.post .recordCorrupt h.r.context
        (formQ .recordCorrupt s.node h.r.genCommitted id)).finalise { h with checkOk := true } .failed .recordCorrupt h.r.owner))

/-- A placement at the home and at the node it is offered to, and what a missing answer makes of it (R36, R45, R52, R58, R97, R194). -/
def Obligations.Placements : Prop :=
  (∀ s : State, s.flag R.SCH_CTRL_ENABLE = true → s.reg R.PHS_PHASE_PHASE = 0 → s.turning = false → s.rse.homes = [] →
      0 < s.reg R.SCH_PLACE_PLACE_INFLIGHT → exec .placementOffer s = .next s.placeNext)
  ∧ (∀ (s : State) (h : HomeRec) (target : Nat), s.flag R.SCH_CTRL_ENABLE = true → s.reg R.PHS_PHASE_PHASE = 0 →
      s.turning = false → (s.rse.homes.filter (·.placing.isSome)).length < s.reg R.SCH_PLACE_PLACE_INFLIGHT →
      (∀ k, k ∈ s.rse.homes → k.r.state = .queued → s.mustRebase k.r = false) → (s.pickClass true).1 = some h →
      (s.pickClass true).2.placeTarget h = some target →
      exec .placementOffer s = .next (((s.pickClass true).2.putHome { h with placing := some (target, h.r.epoch) }).sendMsg target
        (.place ((s.pickClass true).2.placeMsg { h with placing := some (target, h.r.epoch) }))))
  ∧ (∀ (s s' : State) (src : Nat) (m : CopyMsg) (mo : Model), (s.takeMsg src (.place m)).admitCopy src m false = .ok s' →
      s'.model? m.r.modelId = some mo → src = s'.node →
      exec (.place src m) s = .next (((s'.reserve m.r.id m.r.pageSize (s'.framesNeeded m mo true false)).linkPrefix m.r
        ((s'.reserve m.r.id m.r.pageSize (s'.framesNeeded m mo true false)).prefixPages m.r m.prefixKey m.prefixLen)).putWork
          (workOf m src .reserved []) |>.sendMsg src (.placeAccept m.r.id m.r.epoch)))
  ∧ (∀ (s : State) (src id epoch : Nat) (h : HomeRec), s.home? id = some h → h.placing = some (src, epoch) →
      h.checkOk = true → s.pendingChange id = false → h.r.state = .queued → h.r.epoch = epoch → epoch + 1 < 2 ^ 32 →
      exec (.placeAccept src id epoch) s = .next ((s.takeMsg src (.placeAccept id epoch)).change
        { h with r := { h.r with owner := src, epoch := epoch + 1, state := placedState h.r } } (.place src)))
  ∧ (∀ (s : State) (src id epoch : Nat), s.home? id = none → exec (.placeAccept src id epoch) s
      = .next ((s.takeMsg src (.placeAccept id epoch)).sendMsg src (.placeCancel id epoch)))
  ∧ (∀ (s : State) (src id epoch : Nat) (st : St) (h : HomeRec), s.home? id = some h → h.placing = some (src, epoch) →
      h.checkOk = true → exec (.placeRefused src id epoch st) s = .next
        (((s.takeMsg src (.placeRefused id epoch st)).bump R.SCH_PLACE_STATS_REFUSED).dropPlacing id src epoch))
  ∧ (∀ (s : State) (id target epoch : Nat) (h : HomeRec), s.home? id = some h → h.placing = some (target, epoch) →
      h.r.state = .queued → h.checkOk = true → s.pendingChange id = false →
      exec (.placeTimeout id) s = .next ((s.markUnreachable target).dropPlacing id target epoch))
  ∧ (∀ (s : State) (src id : Nat) (w : Work), s.work? id = some w → w.checkOk = true → w.status = .reserved →
      exec (.placed src id (w.r.epoch + 1)) s = .next ((s.takeMsg src (.placed id (w.r.epoch + 1))).putWork { w with r := { w.r with owner := s.node, epoch := w.r.epoch + 1, state := placedState w.r }, status := .owned, doubt := false, recalling := (s.kvPages w.r.id).any (s.toRecall { w.r with owner := s.node, epoch := w.r.epoch + 1, state := placedState w.r }) } |>.dealLost w.r.id))
  ∧ (∀ (s : State) (id : Nat) (w : Work), s.work? id = some w → w.checkOk = true → w.recalling = true → w.status = .owned →
      s.kvPages id = [] →
      exec (.recallComplete id) s = .next (s.putWork { w with recalling := false }))
  ∧ (∀ (s : State) (src id : Nat) (w : Work), s.work? id = some w → w.checkOk = true → w.status = .reserved →
      exec (.placeCancel src id w.r.epoch) s = .next ((s.takeMsg src (.placeCancel id w.r.epoch)).discardCopy id))
  ∧ (∀ (s : State) (id : Nat) (w : Work), s.work? id = some w → w.checkOk = true → w.status = .reserved → exec (.placeInDoubtExpiry id) s
      = .next (((s.markUnreachable w.from_).putWork { w with doubt := true }).sendMsg ((s.markUnreachable w.from_).homeNode w.r)
          (.ownQuery w.r.id w.r.epoch false w.r)))

/-- The step commit point, the owner's reports, and the loss of an owner (R46 to R50, R61 to R63). -/
def Obligations.StepCommits : Prop :=
  (∀ (s : State) (id : Nat) (w : Work) (si : StepInfo) (toks : List (Nat × Nat)), s.work? id = some w → w.step = some si →
      w.checkOk = true → w.cancelled = false → si.failed = false → si.accepted = some toks → s.writesOut id = false →
      w.ring.length + (stepTokens w.r toks).length ≤ 64 → exec (.stepCommit id) s
        = .next ((s.commitStep w si toks).commitOrdered id .ok
            (((((s.commitStep w si toks).work? id).map (·.r)).getD w.r).genCommitted - w.r.genCommitted)
            ((((s.commitStep w si toks).work? id).map (·.r)).getD w.r).genCommitted
            ((((s.commitStep w si toks).work? id).map (·.r)).getD w.r).kvCommitted))
  ∧ (∀ (s : State) (w : Work) (si : StepInfo) (ts : List (Nat × Nat)), si.chunk = 0 →
      (s.stepRecord w si ts).kvCommitted = w.r.kvCommitted + ts.length
      ∧ (s.stepRecord w si ts).genCommitted = w.r.genCommitted + ts.length)
  ∧ (∀ (s : State) (src : Nat) (n : StepNote) (h : HomeRec), s.home? n.id = some h → h.r.epoch = n.epoch → h.r.owner = src →
      h.checkOk = true → s.pendingChange n.id = false →
      h.r.state = .decode → n.gen = 0 → exec (.stepNote src n) s = .next (((s.takeMsg src (.stepNote n)).noteHome { h with r := { h.r with genCommitted := 0, kvCommitted := n.kv, lastToken := n.lastToken, stepCount := n.stepCount, streamed := n.streamed, state := if n.state = .done then .decode else n.state } }).sendMsg src (.stepAck n.id n.epoch 0)))
  ∧ (∀ (s : State) (src id gen : Nat) (w : Work), s.work? id = some w → w.checkOk = true → w.status = .owned → w.notes = [gen] →
      w.r.id = id → w.r.state = .decode → (w.ring.filter fun x => !x.released && decide (x.pos < gen)) = [] →
      exec (.stepAck src id w.r.epoch gen) s
        = .next ((s.takeMsg src (.stepAck id w.r.epoch gen)).putWork { w with notes := [] }))
  ∧ (∀ (s : State) (src id : Nat) (h : HomeRec), s.home? id = some h → h.checkOk = true → s.pendingChange id = false → h.r.owner = src → h.r.state = .decode →
      exec (.lostStep src id h.r.epoch) s = .next ((s.takeMsg src (.lostStep id h.r.epoch)).ownerLost id))
  ∧ (∀ (s : State) (node : Nat), s.rse.homes = [] → exec (.lossSweep node) s = .next (s.markUnreachable node))
  ∧ (∀ (s : State) (node : Nat), node ≠ s.node →
      s.markUnreachable node = s.onRse fun e => { e with unreachable := node :: e.unreachable.filter (· != node) })
  ∧ (∀ (s : State) (node : Nat) (h : HomeRec), s.rse.homes = [h] → h.r.owner = node → h.r.state = .decode → h.r.movePhase = 0 →
      exec (.lossSweep node) s = .next ((s.markUnreachable node).ownerLost h.r.id))
  ∧ (∀ (s : State) (node : Nat) (h : HomeRec), s.rse.homes = [h] → h.r.owner ≠ node → h.moveSrc = node → h.r.movePhase = 2 → h.checkOk = true → h.waits = [] →
      exec (.lossSweep node) s = .next ((s.markUnreachable node).noteHome { h with r := { h.r with movePhase := 0, moveDest := 0 } }))
  ∧ (∀ (s : State) (id : Nat) (h : HomeRec), s.home? id = some h → h.recovering = true → h.locateWait = [] →
      s.pge.rebuilds = [] → s.ownPages id = [] → s.neededPages h.r = [] →
      exec (.requestRecover id) s = .next ((s.freePages []).recoverCommit h))
  ∧ (∀ (s : State) (id : Nat) (h : HomeRec) (p : Page), s.home? id = some h → h.recovering = true → h.locateWait = [] →
      s.pge.rebuilds = [] → p ∈ s.neededPages h.r →
      (h.located.find? fun l => l.layer == p.layer && l.firstPos == p.firstPos && l.memberNo != 8) = none →
      exec (.requestRecover id) s = .next (s.restartCommit h))

/-- A move from its start to its release, at the source, the destination and the home (R51 to R58, R435 to R437). -/
def Obligations.Moves : Prop :=
  (∀ (s : State) (id dest : Nat) (o : MoveOrigin) (w : Work), s.work? id = some w → w.holdRetry = false → w.status = .owned →
      w.checkOk = true → s.reg R.PHS_PHASE_STATE ≠ 2 → (s.kvPages w.r.id).all (·.headerOk) = true →
      s.pge.rebuilds.all (·.page.req != w.r.id) = true →
      w.step = none → w.ring = [] → w.notes = [] → w.move = none → w.recalling = false → w.throughWait = 0 → w.pendPause = none →
      s.migratingReq w.r.id = false → w.r.state = .decode → w.pendMove = some (dest, o) → o ≠ .endOfTurn → o ≠ .burin ∨ s.reg R.PHS_PHASE_STATE ≠ 1 →
      exec (.moveStart id) s = .next ((s.putWork w).startMove w dest .decode o none))
  ∧ (∀ (s s' : State) (src : Nat) (m : CopyMsg) (mo : Model), (s.takeMsg src (.mvPrepare m)).admitCopy src m true = .ok s' →
      m.r.nextState = .decode → m.pages = [] → s'.model? m.r.modelId = some mo →
      exec (.mvPrepare src m) s = .next ((s'.reserve m.r.id m.r.pageSize (s'.framesNeeded m mo false true)).putWork
        (workOf m src .prepared [])))
  ∧ (∀ (s : State) (id : Nat) (w : Work), s.work? id = some w → w.checkOk = true → w.status = .prepared → w.pulls = [] →
      exec (.pullComplete id) s = .next (s.sendMsg w.from_ (.mvPrepared id w.r.epoch)))
  ∧ (∀ (s : State) (id tag : Nat) (st : St) (w : Work), s.work? id = some w → w.checkOk = true → w.status = .prepared → tag ∈ w.pulls → st ≠ .ok →
      exec (.pullReadFailed id tag st) s
        = .next (((s.discardCopy id).sendMsg w.from_ (.mvRefused id w.r.epoch .pageMissing)).heldResume id))
  ∧ (∀ (s : State) (src id : Nat) (w : Work) (mv : MoveOut), s.work? id = some w → w.move = some mv → mv.dest = src →
      w.checkOk = true → mv.phase = .preparing → exec (.mvPrepared src id w.r.epoch) s
        = .next (((s.takeMsg src (.mvPrepared id w.r.epoch)).putWork { w with move := some { mv with phase := .committing } }).sendMsg
            (s.homeNode w.r) (.mvCommitReq id w.r.epoch src)))
  ∧ (∀ (s : State) (src id epoch : Nat), s.work? id = none → exec (.mvPrepared src id epoch) s
      = .next ((s.takeMsg src (.mvPrepared id epoch)).sendMsg src (.mvAbort id epoch)))
  ∧ (∀ (s : State) (src id : Nat) (st : St) (w : Work) (mv : MoveOut), s.work? id = some w → w.move = some mv → mv.dest = src →
      w.checkOk = true → mv.phase = .preparing → exec (.mvRefused src id w.r.epoch st) s
        = .next (((((s.takeMsg src (.mvRefused id w.r.epoch st)).onSch fun b => { b with refuseHold := src :: b.refuseHold.filter (· != src), tried := upsert (·.1 == id) (id, src :: ((b.tried.find? (·.1 == id)).map (·.2)).getD []) b.tried }).bump R.SCH_PLACE_STATS_REFUSED).answerOrigin w.r mv.origin
          .moveRefused (toBytes 8 st.code)).returnPrior w mv))
  ∧ (∀ (s : State) (src id dest : Nat) (h : HomeRec), s.isHome id = true → s.home? id = some h → h.r.owner = src →
      h.checkOk = true → s.committing src id dest = false → s.pendingChange id = false → h.r.cancelSeen = false → h.r.epoch + 1 < 2 ^ 32 → h.r.state = .decode →
      s.handbackCopy id dest = none →
      exec (.mvCommitReq src id h.r.epoch dest) s = .next (((s.takeMsg src (.mvCommitReq id h.r.epoch dest)).change
        { h with r := { h.r with owner := dest, epoch := h.r.epoch + 1, moveDest := dest, movePhase := 1 } }
        (.move src dest)).heldResume id))
  ∧ (∀ (s : State) (src id : Nat) (w : Work), s.work? id = some w → w.checkOk = true → w.status = .prepared →
      exec (.mvCommitted src id (w.r.epoch + 1) s.node) s
        = .next ((s.takeMsg src (.mvCommitted id (w.r.epoch + 1) s.node)).enterMoved w (w.r.epoch + 1)))
  ∧ (∀ (s : State) (src id owner : Nat) (w : Work), s.work? id = some w → w.checkOk = true → w.status = .owned → w.move.isSome = true →
      owner ≠ s.node → exec (.mvCommitted src id (w.r.epoch + 1) owner) s
        = .next ((s.takeMsg src (.mvCommitted id (w.r.epoch + 1) owner)).releaseSource w (w.r.epoch + 1)))
  ∧ (∀ (s : State) (src id : Nat) (w : Work) (mv : MoveOut), s.work? id = some w → w.checkOk = true → w.move = some mv →
      exec (.mvAborted src id w.r.epoch .epochStale) s = .next
        ((((s.takeMsg src (.mvAborted id w.r.epoch .epochStale)).answerOrigin w.r mv.origin .epochStale []).bump
          R.RSE_MOVE_STATS_ABORTED).discardCopy id))
  ∧ (∀ (s : State) (src id : Nat) (w : Work), s.work? id = some w → w.checkOk = true → w.status = .prepared →
      exec (.mvAbort src id w.r.epoch) s = .next (((s.takeMsg src (.mvAbort id w.r.epoch)).discardCopy id).heldResume id))
  ∧ (∀ (s : State) (src id : Nat) (h : HomeRec), s.home? id = some h → h.checkOk = true → h.r.movePhase = 2 → h.moveSrc = src →
      exec (.mvReleased src id h.r.epoch) s = .next ((s.takeMsg src (.mvReleased id h.r.epoch)).noteHome
        { h with r := { h.r with movePhase := 0, moveDest := 0 } }))
  ∧ (∀ (s : State) (id : Nat) (w : Work) (mv : MoveOut), s.work? id = some w → w.move = some mv → mv.phase = .preparing →
      w.checkOk = true → s.reachable mv.dest = true → exec (.prepareTimeout id) s
        = .next ((((s.sendMsg mv.dest (.mvAbort id w.r.epoch)).markUnreachable mv.dest).answerOrigin w.r mv.origin .moveAborted
            []).returnPrior w mv))
  ∧ (∀ (s : State) (id : Nat) (w : Work) (mv : MoveOut), s.work? id = some w → w.checkOk = true → w.status = .owned →
      w.move = some mv → mv.phase = .committing → exec (.moveCommitTimeout id) s
        = .next (((s.markUnreachable (s.homeNode w.r)).putWork { w with doubt := true }).sendMsg
            ((s.markUnreachable (s.homeNode w.r)).homeNode w.r) (.ownQuery w.r.id w.r.epoch true w.r)))
  ∧ (∀ (s : State) (id : Nat) (w : Work), s.work? id = some w → w.checkOk = true → w.status = .prepared → exec (.moveCommitTimeout id) s
      = .next ((s.putWork { w with doubt := true }).sendMsg (s.homeNode w.r) (.ownQuery w.r.id w.r.epoch false w.r)))
  ∧ (∀ (s : State) (id : Nat) (w : Work), s.work? id = some w → w.checkOk = true → w.holdRetry = true →
      exec (.handbackRetryExpiry id) s = .next (s.beginMove { w with holdRetry := false }))

/-- How a request ends, and the commands the home forwards to its owner (R65 to R70, R438, R441). -/
def Obligations.RequestEnds : Prop :=
  (∀ (s : State) (id d : Nat) (h : HomeRec), s.home? id = some h → h.r.state = .paused → h.deadline = some d → d ≤ s.tick →
      h.checkOk = true → s.pendingChange id = false → exec (.ttlExpiry id) s = .next ((((s.freeKv id h.r.epoch).post .requestExpired h.r.context
        (formQ .ok (s.freeKv id h.r.epoch).node h.r.genCommitted id)).notice h.r .requestExpired .ok h.r.genCommitted).reclaim
          { h with deadline := none }))
  ∧ (∀ (s : State) (id d : Nat) (h : HomeRec), s.home? id = some h → h.r.state = .paused → h.deadline = some d → s.tick < d ∨ s.pendingChange id = true →
      exec (.ttlExpiry id) s = .next s)
  ∧ (∀ (s : State) (id t : Nat) (h : HomeRec), s.home? id = some h → h.checkOk = true → h.finalAt = some t → h.r.state = .done →
      exec (.tombstoneExpiry id) s
        = .next (if t + s.reg R.RSE_LIMITS_TOMBSTONE_TICKS ≤ s.tick then s.reclaim h else s))
  ∧ (∀ (s : State) (src id : Nat) (w : Work), s.work? id = some w → w.checkOk = true → w.status = .owned → w.r.state = .decode →
      (w.pendMove.any fun m => decide (m.2 = .endOfTurn)) = false → exec (.cancelFwd src id w.r.epoch) s = .next ((s.takeMsg src (.cancelFwd id w.r.epoch)).endOwned
        { w with cancelled := true } .cancelled .cancelled))
  ∧ (∀ (s : State) (src id : Nat) (p : PauseReq) (w : Work), s.work? id = some w → w.status = .owned → w.r.state = .decode →
      w.checkOk = true → w.pendMove = none → w.move = none → w.pendPause = none → exec (.fwdPause src id w.r.epoch p) s
        = .next ((s.takeMsg src (.fwdPause id w.r.epoch p)).putWork { w with pendPause := some p }))
  ∧ (∀ (s : State) (src id dest : Nat) (rep : ReplyTo) (w : Work), s.work? id = some w → w.status = .owned →
      w.checkOk = true → w.r.state = .decode → w.pendMove = none → w.move = none → w.pendPause = none →
      exec (.fwdMove src id w.r.epoch dest rep) s
        = .next ((s.takeMsg src (.fwdMove id w.r.epoch dest rep)).putWork { w with pendMove := some (dest, .host rep) }))
  ∧ (∀ (s : State) (src : Nat) (m : FinalMsg) (h : HomeRec), s.home? m.id = some h → h.r.epoch = m.epoch → h.r.owner = src →
      h.checkOk = true → h.r.state = .decode → exec (.final src m) s = .next ((s.takeMsg src (.final m)).finalise
        { h with r := { h.r with genCommitted := m.gen, streamed := m.streamed } } m.state m.status src))
  ∧ (∀ (s : State) (src id epoch : Nat) (h : HomeRec), s.home? id = some h → h.checkOk = true → s.pendingChange id = false → h.r.owner ≠ src → h.r.state = .decode →
      exec (.notOwner src id epoch .cancel) s
        = .next ((s.takeMsg src (.notOwner id epoch .cancel)).sendMsg h.r.owner (.cancelFwd id h.r.epoch)))
  ∧ (∀ (s : State) (id epoch : Nat) (k : FwdKind) (h : HomeRec), s.home? id = some h → h.checkOk = true → s.pendingChange id = false → h.r.state = .decode →
      epoch ≠ 0 → epoch < h.r.epoch → exec (.notOwner h.r.owner id epoch k) s
        = .next ((s.takeMsg h.r.owner (.notOwner id epoch k)).putHome { h with resend := h.resend ++ [k] }))
  ∧ (∀ (s : State) (id : Nat) (h : HomeRec), s.home? id = some h → h.checkOk = true → s.pendingChange id = false → h.r.state = .decode → h.resend = [] →
      exec (.notOwnerRetryExpiry id) s = .next (s.putHome h))
  ∧ (∀ (s : State) (id : Nat) (h : HomeRec), s.home? id = some h → h.checkOk = true → s.pendingChange id = false → h.r.state = .decode → h.resend = [.cancel] →
      exec (.notOwnerRetryExpiry id) s
        = .next ((s.putHome { h with resend := [] }).sendMsg h.r.owner (.cancelFwd h.r.id h.r.epoch)))

/-- Writes of the page engine's registers: checked, then the RW fields take the value; a refused write changes nothing (R75, R78, R98,
R104). Pages held for other nodes: their deadlines are raised and never lowered, they are freed by their owner, at their deadline, or
when idle, and what names an older epoch is refused (R83, R90 to R92, R96). -/
def Obligations.PageRegistersAndHeldPages : Prop :=
  (∀ (s : State) (m v : Nat), m < 256 → (R.PGE_MODEL_VALID m).of v = 0 → s.flag (R.PGE_MODEL_VALID m) = false →
    exec (.pgeModelWrite m v) s = .next (s.writeRw (0x81000 + 8 * m) v))
  ∧ (∀ (s : State) (m v : Nat), m < 256 → (R.PGE_MODEL_VALID m).of v = 1 → (R.PGE_MODEL_ELEMENT m).of v = 3 →
      exec (.pgeModelWrite m v) s = .next s)
  ∧ (∀ (s : State) (v : Nat), bitsOf v 31 0 ≤ bitsOf v 63 32 → exec (.pgeKvPoolWrite v) s
      = .next (if s.framesTaken = [] then (s.writeRw 0x80008 v).watermark else s))
  ∧ (∀ (s : State) (v : Nat), s.touchesReserved (65536 * bitsOf v 63 32) (65536 * bitsOf v 31 0 - 65536 * bitsOf v 63 32) = false →
      65536 * bitsOf v 31 0 ≤ s.usableTop → s.framesTaken = [] → exec (.pgeKvPoolWrite v) s = .next (s.writeRw 0x80008 v).watermark)
  ∧ (∀ (s : State) (v : Nat), bitsOf v 63 32 < bitsOf v 31 0 →
      s.touchesReserved (65536 * bitsOf v 63 32) (65536 * bitsOf v 31 0 - 65536 * bitsOf v 63 32) = true ∨ s.usableTop < 65536 * bitsOf v 31 0 →
      exec (.pgeKvPoolWrite v) s = .next s)
  ∧ (∀ (s : State) (addr v : Nat), addr ≠ 0x80040 → s.holdsCoded = false →
      exec (.pgeOchreWrite addr v) s = .next (if s.admitting = true then s else s.writeRw addr v))
  ∧ (∀ (s : State) (addr v : Nat), s.holdsCoded = true → exec (.pgeOchreWrite addr v) s = .next s)
  ∧ (∀ (s : State) (u v : Nat), u < 16 → s.flag (R.PGE_UMBER_CTRL_VALID u) = true → v % 2 ^ 24 = s.reg (R.PGE_UMBER_CTRL_QP u) →
      bitAt v 32 = false → exec (.pgeUmberCtrlWrite u v) s = .next (s.writeRw (0x83000 + 32 * u) v))
  ∧ (∀ (s : State) (u v : Nat), u < 16 → s.flag (R.PGE_UMBER_CTRL_VALID u) = true → v % 2 ^ 24 ≠ s.reg (R.PGE_UMBER_CTRL_QP u) →
      exec (.pgeUmberCtrlWrite u v) s = .next s)
  ∧ (∀ (s : State) (addr v : Nat), exec (.pgeUmberWrite addr v) s
      = .next (if s.flag (R.PGE_UMBER_CTRL_VALID ((addr - 0x83000) / 32)) = true ∨ s.poolDrained ((addr - 0x83000) / 32) = false
          then s else s.writeRw addr v))
  ∧ (∀ (s : State) (v : Nat), exec (.pgeEvictWrite v) s = .next (if (bitsOf v 63 62 = 1 ∨ bitsOf v 63 62 = 2)
      ∧ (bitsOf v 61 60 = 1 ∨ bitsOf v 61 60 = 2) then s.writeRw 0x80028 v else s))
  ∧ (∀ (s : State) (idx : Nat) (p : Page), s.page? idx = some p → exec (.prefixIdleExpiry idx) s
    = .next (if p.kind = .shared ∧ p.refs = 0
        ∧ s.reg R.PGE_EVICT_PREFIX_HOLD_TICKS ≤ (s.tick + 2 ^ 24 - p.lastUse) % 2 ^ 24 then s.freePage idx else s))
  ∧ (∀ (s : State) (w : Work) (p : Page) (n i : Nat), s.rse.works = [w] → w.status = .owned → s.rse.homes = [] →
      s.pge.pages = [p] → p.req = w.r.id → p.foreign = false → p.holders = [(n, i)] →
      exec .pgRenewTimer s = .next (s.sendMsg n (.pgRenew w.r.id w.r.epoch [i])))
  ∧ (∀ (s : State) (src id epoch : Nat) (idxs : List Nat), (∀ p ∈ s.heldPages id, p.epoch ≤ epoch) →
      ∃ t, exec (.pgRenew src id epoch idxs) s = .next t ∧ t.pge = { s.pge with pages := s.pge.pages.map fun p => let q := if p.req == id && p.foreign then { p with epoch := epoch } else p; if q.foreign && (q.req == id && q.named idxs) then { q with deadline := max q.deadline (s.tick + s.reg R.PGE_TTL_LEASE_TICKS) } else q })
  ∧ (∀ (s : State) (src id epoch ticks : Nat), (∀ p ∈ s.heldPages id, p.epoch ≤ epoch) →
      ∃ t, exec (.pgTtl src id epoch ticks) s = .next t ∧ t.pge = { s.pge with pages := s.pge.pages.map fun p => let q := if p.req == id && p.foreign then { p with epoch := epoch } else p; if q.foreign && q.req == id then { q with deadline := max q.deadline (s.tick + ticks + s.reg R.PGE_TTL_GRACE_TICKS) } else q })
  ∧ (∀ (s : State) (src id epoch : Nat) (idxs : List Nat) (p : Page), p ∈ s.heldPages id → epoch < p.epoch →
      exec (.pgRenew src id epoch idxs) s = .next ((s.takeMsg src (.pgRenew id epoch idxs)).sendMsg src (.pgRefused id .epochStale))
      ∧ exec (.pgFree src id epoch idxs) s = .next ((s.takeMsg src (.pgFree id epoch idxs)).sendMsg src (.pgRefused id .epochStale)))
  ∧ (∀ (s : State) (src id epoch ticks : Nat) (p : Page), p ∈ s.heldPages id → epoch < p.epoch →
      exec (.pgTtl src id epoch ticks) s = .next ((s.takeMsg src (.pgTtl id epoch ticks)).sendMsg src (.pgRefused id .epochStale)))
  ∧ (∀ (s : State) (src id epoch i : Nat) (p : Page), s.pge.pages = [p] → p.req = id → p.foreign = true → p.idx = i →
      p.epoch ≤ epoch → s.beingRead i = false → ∃ t, exec (.pgFree src id epoch [i]) s = .next t ∧ t.pge.pages = [])
  ∧ (∀ (s : State) (p : Page), s.pge.pages = [p] → p.foreign = true → p.deadline ≤ s.tick → p.freeing = false →
      s.beingRead p.idx = false →
      exec .pageDeadlineCheck s = .next ((s.freePage p.idx).post .pageOrphanFreed ((s.freePage p.idx).reqCtx p.req)
        (formQ .ok (idHome p.req) 1 p.req)))
  ∧ (∀ (s : State) (idx : Nat) (p : Page), s.page? idx = some p → p.foreign = true → p.loc.frame?.isSome = true →
      p.migrating = false → p.freeing = false → s.migRoom = true → s.reg R.PGE_EVICT_T1_HOLD_TICKS ≤ (s.tick + 2 ^ 24 - p.lastUse) % 2 ^ 24 →
      (s.toT2 p .demote false).isSome = true → exec (.demoteIdleExpiry idx) s = .next ((s.toT2 p .demote false).getD s))

/-- A page moves between tiers and nodes (R93, R94, R102, R362). Committed KV written through to its copy and folded into the parity; pages
located for a recovery (R101, R102). -/
def Obligations.PageMigrations : Prop :=
  (∀ (s : State) (idx f g : Nat) (p : Page), s.page? idx = some p → p.migrating = false →
      s.pge.migrations.length < s.reg R.PGE_MIGRATE_MAX_INFLIGHT → p.loc = .t0 f → 4 * s.reg R.PGE_KV_POOL_LIMIT ≤ f →
      p.freeing = false → s.beingRead p.idx = false →
      s.mayMigrate p.req = true → s.findFrame p.pageSize = some g → exec (.migrationStart idx .retire) s
        = .next (((s.copyMem .hbm (16384 * f) .hbm (16384 * g) (pageBytes p.pageSize)).switchPage p (.t0 g)).bump
            R.PGE_ALLOC_STATS_ALLOCS))
  ∧ (∀ (s : State) (idx : Nat) (why : MigWhy) (p : Page), s.page? idx = some p → p.migrating = true →
      exec (.migrationStart idx why) s = .next s)
  ∧ (∀ (s : State) (src idx : Nat) (p : Page) (data : List Byte), p.foreign = false → crc32c data ≠ p.dataCrc →
      exec (.migrationCopy src idx p data) s
        = .next ((s.takeMsg src (.migrate idx p data)).sendMsg src (.migrateRefused idx .poisonRead)))
  ∧ (∀ (s : State) (src idx f : Nat) (p q : Page) (m : Migration) (data : List Byte), p.foreign = true → idx < 2 ^ 26 →
      s.migration? idx = some m → m.target = .frame f → s.page? idx = some q → q.coded = false → crc32c data = p.dataCrc →
      exec (.migrationCopy src idx p data) s = .next ((((s.takeMsg src (.migrate idx p data)).wr .hbm (16384 * f) data).switchPage
        q (.t0 f)).sendMsg src (.pgFree q.req q.epoch [p.idx])))
  ∧ (∀ (s : State) (src idx index a b : Nat) (p : Page) (m : Migration), idx < 2 ^ 26 → s.migration? idx = some m →
      s.pge.aborted = [] → s.page? idx = some p → m.target = .node a b → exec (.migrationAck src idx index) s
        = .next (((s.takeMsg src (.migrateAck idx index)).switchPage p (.t1 src index)).evicted p.req))
  ∧ (∀ (s : State) (src idx a b : Nat) (p : Page) (m : Migration), idx < 2 ^ 26 → s.migration? idx = some m →
      s.pge.aborted = [] → s.page? idx = some p → m.target = .node a b → m.retried = true → exec (.migrationRefused src idx .poisonRead) s
        = .next (((s.takeMsg src (.migrateRefused idx .poisonRead)).dropMigration p).losePage idx))
  ∧ (∀ (s : State) (src idx a b : Nat) (st : St) (p : Page) (m : Migration), idx < 2 ^ 26 → s.migration? idx = some m →
      s.pge.aborted = [] → s.page? idx = some p → m.target = .node a b → m.why = .evict → st ≠ .poisonRead → exec (.migrationRefused src idx st) s
        = .next ((s.takeMsg src (.migrateRefused idx st)).dropMigration p))
  ∧ (∀ (s : State) (src id epoch idx offset tag f : Nat) (data : List Byte) (p : Page), s.pge.pages = [p] → p.idx = idx → p.req = id →
      p.foreign = true → p.epoch = epoch → p.loc = .t0 f → ∃ t, exec (.writeThrough src id epoch idx offset tag data) s = .next t
        ∧ t = (((s.takeMsg src (.writeThrough id epoch idx offset tag data)).wr .hbm (16384 * f + offset) data).putPage
          { p with lastUse := s.tick % 2 ^ 24 }).sendParity p src offset tag
            (xorBytes (s.rdBytes .hbm (16384 * f + offset) data.length) data) none)
  ∧ (∀ (s : State) (src id epoch group offset tag f : Nat) (delta : List Byte) (p : Page), s.pge.pages = [p] → p.req = id →
      p.foreign = true → p.epoch = epoch → p.kind = .parity → p.group = group → p.loc = .t0 f →
      exec (.parityUpdate src id epoch group offset tag delta) s
        = .next (((s.takeMsg src (.parityUpdate id epoch group offset tag delta)).wr .hbm (16384 * f + offset)
            (xorBytes (s.rdBytes .hbm (16384 * f + offset) delta.length) delta)).putPage { p with lastUse := s.tick % 2 ^ 24 } |>.sendMsg src
              (.writeThroughAck id tag)))
  ∧ (∀ (s : State) (src id tag : Nat) (p : ParityPend), s.pge.parityPends = [p] → p.parityNode = src → p.req = id → p.tag = tag →
      p.write = none → exec (.writeThroughAck src id tag) s = .next (((s.takeMsg src (.writeThroughAck id tag)).onPge
        fun g => { g with parityPends := [] }).sendMsg p.to_ (.writeThroughAck id tag)))
  ∧ (∀ (s : State) (src id tag : Nat) (w : Work), s.pge.parityPends = [] → s.work? id = some w → w.throughWait = 1 → w.r.id = id →
      exec (.writeThroughAck src id tag) s = .next (((s.takeMsg src (.writeThroughAck id tag)).putWork
        { w with throughWait := 0 }).sendMsg (s.homeNode w.r) (.stepNote ⟨id, w.r.epoch, w.r.genCommitted, w.r.kvCommitted,
          w.r.lastToken, w.r.stepCount, w.r.genCommitted, w.r.state⟩)))
  ∧ (∀ (s : State) (src idx index id e : Nat), idx < 2 ^ 26 → s.pge.aborted = [(idx, id, e)] →
      exec (.migrationAck src idx index) s = .next (((s.takeMsg src (.migrateAck idx index)).onPge fun g => { g with
        aborted := [] }).sendMsg src (.pgFree id e [index])))
  ∧ (∀ (s : State) (src id epoch : Nat), s.pge.pages = [] → exec (.pgLocate src id epoch) s
      = .next ((s.takeMsg src (.pgLocate id epoch)).sendMsg src (.pgLocateReply id [])))
  ∧ (∀ (s : State) (src id n : Nat) (ps : List LocatedPage) (h : HomeRec), s.home? id = some h → h.recovering = true →
      h.locateWait = [src, n] → n ≠ src → exec (.pgLocateReply src id ps) s
        = .next ((s.takeMsg src (.pgLocateReply id ps)).putHome { h with located := h.located ++ ps, locateWait := [n] }))

/-- What a Mezzotint holder does with queries and KV writes, and the writes of its registers (R105, R113 to R118, R125). What the owner's
instructions and the answers to them do (R107, R112 to R114, R120, R121, R123). -/
def Obligations.Mezzotint : Prop :=
  (∀ (s : State) (src : Nat) (q : MztMsg), q.checkOk .query = false → s.behindWrite src (.mztQuery q) = false →
    exec (.mztQuery src q) s = .next ((s.takeMsg src (.mztQuery q)).bump R.MZT_ERR_STATS_CHECK_DROPS))
  ∧ (∀ (s : State) (src : Nat) (q : MztMsg), q.checkOk .kvWrite = false → s.behindWrite src (.mztKvWrite q) = false →
      exec (.mztKvWrite src q) s = .next ((s.takeMsg src (.mztKvWrite q)).bump R.MZT_ERR_STATS_CHECK_DROPS))
  ∧ (∀ (s : State) (src : Nat) (q : MztMsg), (src, .mztQuery q) ∈ s.fab.inbox → s.behindWrite src (.mztQuery q) = true →
      exec (.mztQuery src q) s = .next s)
  ∧ (∀ (s : State) (src : Nat) (q : MztMsg), q.checkOk .query = true → s.behindWrite src (.mztQuery q) = false →
      s.transitOnly = false → s.mztServes = false →
      exec (.mztQuery src q) s = .next (((s.takeMsg src (.mztQuery q)).onPhs fun p => { p with holderAt := s.aon }).refuseQuery src q
        .unitAbsent))
  ∧ (∀ (s : State) (src : Nat) (q : MztMsg) (p : Page), q.checkOk .query = true → s.behindWrite src (.mztQuery q) = false →
      s.transitOnly = false → s.mztServes = true →
      s.mztRunning = true → q.format = 1 → q.fieldsOk = true → q.payload.length = q.queryBytes → s.heldPages q.req = [p] →
      p.epoch = q.epoch → s.queryPages q = none → s.needsRecall q = false → s.mzt.queue = [] →
      0 < s.reg R.MZT_LIMITS_QUEUE_DEPTH →
      ∃ t, ∃ ps : List Page, exec (.mztQuery src q) s = .next t ∧ t.mzt.queue = [⟨src, q, some ps⟩]
        ∧ ps.map (·.idx) = (s.readPages q).map (·.idx))
  ∧ (∀ (s : State) (src : Nat) (q : MztMsg) (p : Page), q.checkOk .query = true → s.behindWrite src (.mztQuery q) = false →
      s.transitOnly = false → s.mztServes = true →
      s.mztRunning = true → q.format = 1 → q.fieldsOk = true → q.payload.length = q.queryBytes → s.heldPages q.req = [p] →
      q.epoch < p.epoch → exec (.mztQuery src q) s
        = .next (((s.takeMsg src (.mztQuery q)).onPhs fun p => { p with holderAt := s.aon }).refuseQuery src q .epochStale))
  ∧ (∀ (s : State) (x : MztQueued) (ps : List Page), s.mzt.queue = [x] → x.reading = some ps → s.mztServes = false →
      exec .mztQueryDone s = .next ((s.refuseQuery x.src x.q .unitAbsent).mztAnswered x))
  ∧ (∀ (s : State) (x : MztQueued) (ps : List Page), s.mzt.queue = [x] → x.reading = some ps → s.mztServes = true →
      s.mztRunning = true → (s.heldPages x.q.req).any (fun p => x.q.epoch < p.epoch) = false → ps.any (s.readsPoison x.q) = false →
      ∃ u : State, ∃ out : List Byte, exec .mztQueryDone s = .next ((u.sendMsg x.src (.mztPartial (x.q.partial_ .ok
        ps.length out))).mztAnswered x) ∧ u.mzt = s.mzt ∧ u.hbm = s.hbm)
  ∧ (∀ (s : State) (src : Nat) (m : MztMsg), m.checkOk .kvWrite = true → s.behindWrite src (.mztKvWrite m) = false →
      s.transitOnly = false → s.pge.pages = [] →
      exec (.mztKvWrite src m) s = .next ((((s.takeMsg src (.mztKvWrite m)).onPhs fun p => { p with holderAt := s.aon }).bump
        R.MZT_ERR_STATS_MISSING).sendMsg src (.mztKvAck (m.kvAck .pageMissing))))
  ∧ (∀ (s : State) (src f L per : Nat) (m : MztMsg) (p : Page), m.checkOk .kvWrite = true →
      s.behindWrite src (.mztKvWrite m) = false → s.transitOnly = false → s.pge.pages = [p] →
      p.req = m.req → p.foreign = true → p.kind = .kv → p.epoch = m.epoch → p.layer = m.layer → p.loc = .t0 f → p.coded = false →
      p.firstPos ≤ m.basePos → m.basePos < p.firstPos + p.slots → m.payload.length = 2 * L →
      per = p.kvHeads * p.headDim * elemBytes p.element → L ≤ (p.firstPos + p.slots - m.basePos) * per →
      ∃ u : State, exec (.mztKvWrite src m) s = .next (u.sendMsg src (.mztKvAck (m.kvAck .ok)))
        ∧ u.hbm = writeCells (writeCells s.hbm (16384 * f + (m.basePos - p.firstPos) * per) (m.payload.take L))
            (16384 * f + (p.slots * per + (m.basePos - p.firstPos) * per)) ((m.payload.drop L).take L))
  ∧ (∀ (s : State) (v : Nat), bitAt v 0 = false → bitsOf v 27 16 = s.reg R.MZT_CTRL_CONTEXT →
      exec (.mztCtrlWrite v) s = .next (s.writeRw 0xC0000 v))
  ∧ (∀ (s : State) (v : Nat), bitAt v 0 = true → s.mayServe (bitsOf v 27 16) = false → exec (.mztCtrlWrite v) s = .next s)
  ∧ (∀ (s : State) (hi : Bool) (v : Nat), exec (.mztCoresWrite hi v) s
      = .next (if s.flag R.MZT_CTRL_SERVE = false ∧ s.mzt.queue = [] then s.writeRw (if hi then 0xC0010 else 0xC0008) v else s))
  ∧ (∀ (s : State) (addr v : Nat), exec (.mztConfigWrite addr v) s
      = .next (if addr = 0xC0018 ∧ v % 2 ^ 32 = 0 then s else s.writeRw addr v))
  ∧ (∀ (s : State) (n off h i : Nat) (w : Word128) (d : MztMsg) (k : Work) (mo : Model) (p : Page), Issues s n .mzquery w →
    off = xAddrOb w → d = (s.advance n).mztDescriptor n off → (s.advance n).held (s.pastCore n) .mzquery [(off, 64)] [] = none →
    s.work? d.req = some k → k.status = .owned → d.fieldsOk = true → s.model? k.r.modelId = some mo → mo.id = d.modelId →
    mo.kvHeads = d.kvHeads → mo.headDim = d.headDim → d.basePos = k.r.kvCommitted → s.kvPages d.req = [p] → p.layer = d.layer →
    p.loc = .t1 h i → (s.advance n).held (s.pastCore n) .mzquery [(off, 64 + d.queryBytes)]
      [(off + up64 (64 + d.queryBytes), d.rows * d.qheads * 2 * d.recordBytes)] = none →
    exec (.mzquery n) s = .next ((s.advance n).mztStart (s.pastCore n) (xDoneCtr w) d.req
      [⟨0, h, n, true, false, off + up64 (64 + d.queryBytes), 0, 2, { d with epoch := k.r.epoch, policyVersion := k.r.policyVersion, lc := k.r.lc, payload := bytesAt ((s.advance n).ob n) (off + 64) d.queryBytes, pages := 1 }⟩]))
  ∧ (∀ (s : State) (n off : Nat) (w : Word128) (d : MztMsg) (k : Work) (mo : Model), Issues s n .mzwrite w →
      off = xAddrOb w → d = (s.advance n).mztDescriptor n off → (s.advance n).held (s.pastCore n) .mzwrite [(off, 64)] [] = none →
      s.work? d.req = some k → k.status = .owned → s.model? k.r.modelId = some mo → d.rows ≠ 0 → mo.id = d.modelId →
      mo.kvHeads = d.kvHeads → mo.headDim = d.headDim →
      (s.advance n).held (s.pastCore n) .mzwrite [(off, 64 + 2 * d.rows * kvBytes mo)] [] = none → s.kvPages d.req = [] →
      exec (.mzwrite n) s = .next ((s.advance n).doneCtr n (xDoneCtr w)))
  ∧ (∀ (s : State) (n off h i : Nat) (w : Word128) (d : MztMsg) (k : Work) (mo : Model) (p : Page), Issues s n .mzwrite w →
      off = xAddrOb w → d = (s.advance n).mztDescriptor n off → (s.advance n).held (s.pastCore n) .mzwrite [(off, 64)] [] = none →
      s.work? d.req = some k → k.status = .owned → s.model? k.r.modelId = some mo → d.rows = 1 → mo.id = d.modelId →
      mo.kvHeads = d.kvHeads → mo.headDim = d.headDim →
      (s.advance n).held (s.pastCore n) .mzwrite [(off, 64 + 2 * kvBytes mo)] [] = none → s.kvPages d.req = [p] →
      p.layer = d.layer → p.loc = .t1 h i → p.firstPos ≤ d.basePos → d.basePos < p.firstPos + p.slots →
      exec (.mzwrite n) s = .next ((s.advance n).mztStart (s.pastCore n) (xDoneCtr w) d.req
        [⟨0, h, n, false, false, 0, 0, 0, { d with epoch := k.r.epoch, policyVersion := k.r.policyVersion, qheads := 0, scale := 0, window := 0, payload := bytesAt ((s.advance n).ob n) (off + 64) (kvBytes mo) ++ bytesAt ((s.advance n).ob n) (off + 64 + kvBytes mo) (kvBytes mo) }⟩]))
  ∧ (∀ (s : State) (c : Core) (done id : Nat) (o : MztOut), s.isUnreachable o.holder = false → o.query = true → s.mzt.waiting = [] →
      s.mzt.outs = [] → 0 < s.reg R.MZT_LIMITS_MAX_OUTSTANDING → s.mztStart c done id [o]
        = ((((s.deschedule c .mzt done).onMzt fun m => { m with waiting := [o] }).onMzt fun m => { m with waiting := [] }).mztSend
            o).mztGoOn)
  ∧ (∀ (s : State) (src : Nat) (m : MztMsg), m.checkOk .kvAck = true → s.mzt.outs = [] →
      exec (.mztKvAck src m) s = .next ((s.takeMsg src (.mztKvAck m)).bump R.MZT_ERR_STATS_LATE_PARTIALS))
  ∧ (∀ (s : State) (src : Nat) (m : MztMsg), m.checkOk .partial_ = true → s.mzt.outs = [] →
      exec (.mztPartial src m) s = .next ((s.takeMsg src (.mztPartial m)).bump R.MZT_ERR_STATS_LATE_PARTIALS))
  ∧ (∀ (s : State) (m : MztMsg) (o : MztOut), m.checkOk .kvAck = true → s.mzt.outs = [o] → o.tag = m.tag → o.query = false →
      o.busy = false → m.status = .ok → s.mzt.waiting = [] → exec (.mztKvAck o.holder m) s
        = .next (((((s.takeMsg o.holder (.mztKvAck m)).onMzt fun x => { x with outs := [] })).mztGoOn).tryCommit o.m.req))
  ∧ (∀ (s : State) (m : MztMsg) (o : MztOut), m.checkOk .partial_ = true → s.mzt.outs = [o] → o.tag = m.tag → o.query = true →
      o.busy = false → m.status = .ok → exec (.mztPartial o.holder m) s
        = .next ((((s.takeMsg o.holder (.mztPartial m)).onMzt fun x => { x with outs := [] }).putRecords o m.payload).mztNext))
  ∧ (∀ (s : State) (tag : Nat) (o : MztOut), s.mzt.outs = [o] → o.tag = tag → o.busy = true → s.mzt.waiting = [] →
      exec (.mztBusyRetryExpiry tag) s = .next ((((s.onMzt fun m => { m with outs := [] }).bump
        R.MZT_CLIENT_STATS_BUSY_RETRIES).onMzt fun m => { m with waiting := [o] }).mztNext))
  ∧ (∀ (s : State) (tag : Nat) (o : MztOut), s.mzt.outs = [o] → o.tag = tag → s.reachable o.holder = true →
      exec (.mztPartialTimeout tag) s = .next (s.mztFail o.m.req))

/-- The X instructions of a core: NOP, LOAD, STORE, WAIT, SIGNAL, ARRIVE, FENCE and END (section 5.9, R126, R303 to R311). -/
def Obligations.CoreInstructions : Prop :=
  (∀ (s : State) (n : Nat) (w : Word128), Issues s n .nop w →
    exec (.instrNop n) s = .next ((s.advance n).doneCtr n (xDoneCtr w)))
  ∧ (∀ (s : State) (n : Nat) (w : Word128), Issues s n .fence w → s.coreRemotes n = [] → (s.core n).tail = [] →
      exec (.fence n) s = .next ((s.advance n).doneCtr n (xDoneCtr w)))
  ∧ (∀ (s : State) (n : Nat) (w : Word128), Issues s n .fence w → s.coreRemotes n ≠ [] ∨ (s.core n).tail ≠ [] →
      exec (.fence n) s = .next ((s.advance n).deschedule (s.pastCore n) .fence (xDoneCtr w)))
  ∧ (∀ (s : State) (n : Nat) (w : Word128), Issues s n .end_ w → s.coreRemotes n ≠ [] ∨ (s.core n).tail ≠ [] →
      exec (.end_ n) s = .next ((s.advance n).deschedule (s.pastCore n) .ending (xDoneCtr w)))
  ∧ (∀ (s : State) (n : Nat) (w : Word128), Issues s n .end_ w → s.coreRemotes n = [] → (s.core n).tail = [] →
      exec (.end_ n) s = .next (((s.advance n).doneCtr n (xDoneCtr w)).finishCore n))
  ∧ (∀ (s : State) (n : Nat) (w : Word128), Issues s n .load w → (s.advance n).held (s.pastCore n) .load []
        [(xAddrOb w, 64 * xLen w)] = none → gSpace (xGaddr w) < 2 → gNode (xGaddr w) = s.node → s.ownQueue = false → 0 < xLen w → xLen w ≤ 64 →
      gOff (xGaddr w) % 4096 = 0 → s.targetMapped (gSpace (xGaddr w)) (gOff (xGaddr w)) (64 * xLen w) = true →
      exec (.instrLoad n) s = .next (((s.advance n).copyMem (spaceMem (gSpace (xGaddr w))) (gOff (xGaddr w)) .op
        (n * obSize + xAddrOb w) (64 * xLen w)).doneCtr n (xDoneCtr w)))
  ∧ (∀ (s : State) (n : Nat) (w : Word128), Issues s n .store w → xAddrOb w + 64 * xLen w ≤ obSize → s.fab.remotes = [] →
      (s.core n).tail = [] → s.ownQueue = false → gSpace (xGaddr w) < 2 → gNode (xGaddr w) = s.node → 0 < xLen w → xLen w ≤ 64 → gOff (xGaddr w) % 4096 = 0 →
      s.targetMapped (gSpace (xGaddr w)) (gOff (xGaddr w)) (64 * xLen w) = true →
      exec (.instrStore n) s = .next (((s.advance n).copyMem .op (n * obSize + xAddrOb w) (spaceMem (gSpace (xGaddr w)))
        (gOff (xGaddr w)) (64 * xLen w)).doneCtr n (xDoneCtr w)))
  ∧ (∀ (s : State) (n k : Nat) (w : Word128), Issues s n .wait w → s.counterAt (gOff (xGaddr w)) = some k →
      gNode (xGaddr w) = s.node → gSpace (xGaddr w) = 2 → exec (.instrWait n) s
        = .next (if waitHolds (s.counter k) (xLen w) = true then
            ((s.advance n).bump R.SYN_WAIT_STATS_WAITS).doneCtr n (xDoneCtr w)
          else (s.advance n).deschedule (s.pastCore n) (.counter (k / 65536) (k % 65536) (xLen w)) (xDoneCtr w)))
  ∧ (∀ (s : State) (n k : Nat) (w : Word128), Issues s n .signal w → s.counterAt (gOff (xGaddr w)) = some k →
      gNode (xGaddr w) = s.node → gSpace (xGaddr w) = 2 → s.moving n = false → s.ownWaits = false → exec (.instrSignal n) s
        = .next (((s.advance n).addCounter k (sext24 (xLen w))).doneCtr n (xDoneCtr w)))
  ∧ (∀ (s : State) (n : Nat) (w : Word128) (o : Opc) (c : Instr), (o, c) ∈ [(Opc.signal, Instr.instrSignal n), (.arrive, .instrArrive n)] →
      Issues s n o w → s.moving n = true → exec c s = .next ((s.advance n).notYet (s.pastCore n)))
  ∧ (∀ (s : State) (n b : Nat) (w : Word128), Issues s n .arrive w → xLen w < 65536 → barrierAt (gOff (xGaddr w)) = some b →
      gSpace (xGaddr w) = 2 → gNode (xGaddr w) = s.node → s.moving n = false → s.ownWaits = false →
      (((s.advance n).deschedule (s.pastCore n) (.barrier s.node b (xLen w % 65536)) (xDoneCtr w)).arrive b
        ⟨(s.core n).ctx, n, xLen w % 65536⟩).2 = .ok → exec (.instrArrive n) s
        = .next (((s.advance n).deschedule (s.pastCore n) (.barrier s.node b (xLen w % 65536)) (xDoneCtr w)).arrive b
            ⟨(s.core n).ctx, n, xLen w % 65536⟩).1)

/-- The matrix and vector instructions: on operands that pass their checks each writes the results of its calculation (R134 to R145, R154 to
R165). The sampler and optimizer instructions: on operands that pass their checks each writes the results of its calculation, and SCOMMIT
begins the commit of its request (R146 to R151). A squash is taken at a tile-op boundary (R128), and RNG_RESEED follows 2^20 draws. -/
def Obligations.DataPathInstructions : Prop :=
  (∀ (s : State) (n : Nat) (w : Word128) (i : MInstr), Issues s n .mma w → mDecode w = some i →
    (s.advance n).held (s.pastCore n) .mma (i.ranges i.bTileRanges).1 (i.ranges i.bTileRanges).2 = none →
    exec (.mma n) s = .next ((s.advance n).runMatrix (s.pastCore n) i (i.ranges i.bTileRanges).1 (i.bTile
      ((s.advance n).ob n)) i.tileOps []))
  ∧ (∀ (s : State) (n : Nat) (w : Word128) (i : MInstr), Issues s n .mmt w → mDecode w = some i →
      (s.advance n).held (s.pastCore n) .mmt (i.ranges i.bRowRanges).1 (i.ranges i.bRowRanges).2 = none →
      exec (.mmt n) s = .next ((s.advance n).runMatrix (s.pastCore n) i (i.ranges i.bRowRanges).1 (i.bRow
        ((s.advance n).ob n)) i.tileOps []))
  ∧ (∀ (s : State) (n e : Nat) (w : Word128) (i : MInstr) (g : Staged), Issues s n .mmx w → mDecode w = some i →
      (blockFmt (fieldOf w 115 112)).isSome = true → (s.advance n).held (s.pastCore n) .mmx (i.ranges []).1 (i.ranges []).2 = none →
      (s.advance n).walkEnd n i.tileOps i.addrB = some e → (s.advance n).loading n [(i.addrB, e - i.addrB)] [] = false →
      g = (s.advance n).stage (s.pastCore n) i (fieldOf w 115 112) ((s.advance n).deltaOf n i.delta) i.tileOps i.addrB →
      exec (.mmx n) s = .next (((((s.advance n).count R.EXP_INTAKE_STATS_BLOCKS g.tiles.length).count
          R.EXP_INTAKE_STATS_STALL_CLOCKS g.stall).count R.EXP_DELTA_STATS_APPLIED g.applied).count R.EXP_DELTA_STATS_INEXACT
          g.inexact |>.runMatrix (s.pastCore n) i ((i.addrB, e - i.addrB) :: (i.ranges []).1)
          (stagedElem i ((s.advance n).ob n) g.tiles) g.tiles.length (g.fault.toList.map fun x => ⟨(s.core n).pc, 0xFFFF,
            (i.addrB, e - i.addrB) :: (i.ranges []).1, 0, false, [.fault x.1 x.2.status x.2.segment]⟩)))
  ∧ (∀ (s : State) (n : Nat) (w : Word128) (o : Opc) (c : Instr) (i : VInstr), (o, c) ∈ [(Opc.vbin, Instr.vbin n),
        (.vbins, .vbins n), (.vfma, .vfma n), (.vun, .vun n), (.vred, .vred n), (.vsoftmax, .vsoftmax n), (.vnorm, .vnorm n),
        (.vrope, .vrope n), (.vcvt, .vcvt n), (.vmerge, .vmerge n)] → Issues s n o w → vDecode o w = some i → i.limitsOk = true →
      (s.advance n).held (s.pastCore n) o i.ranges.1 i.ranges.2 = none →
      exec c s = .next ((s.advance n).results (s.pastCore n) i.ranges.1 0 (i.run ((s.advance n).ob n)) []))
  ∧ (∀ (s : State) (n : Nat) (w : Word128) (o : Opc) (v : Bool) (c : Instr) (i : SInstr) (ws : List ObWrite), (o, v, c) ∈
        [(Opc.sample, false, Instr.sample n), (.sverify, true, .sverify n)] → Issues s n o w → sDecode w = some i → i.limitsOk = true →
      (s.advance n).held (s.pastCore n) o i.sampleRanges.1 i.sampleRanges.2 = none →
      ((List.range i.requests).any fun r => (s.advance n).badReq n (i.entry ((s.advance n).ob n) r).1) = false →
      (((s.advance n).sampleAll (s.pastCore n) i v (List.range i.requests)).run { fresh := s.fresh }).1 = some ws →
      exec c s = .next (((s.advance n).calcDone (s.pastCore n) (((s.advance n).sampleAll (s.pastCore n) i v
        (List.range i.requests)).run { fresh := s.fresh }).2).pushOps n (coreOps (s.pastCore n) i.sampleRanges.1 0 (i.ops ws))))
  ∧ (∀ (s : State) (n : Nat) (w : Word128) (i : SInstr), Issues s n .slogprob w → sDecode w = some i →
      (s.advance n).held (s.pastCore n) .slogprob [(i.addrX, i.rows * strideOf i.fi i.vocab), (i.addrY, 128 * i.rows)]
        [(i.addrZ, 4 * i.rows)] = none → exec (.slogprob n) s
        = .next ((s.advance n).results (s.pastCore n) [(i.addrX, i.rows * strideOf i.fi i.vocab), (i.addrY, 128 * i.rows)] 0
          (i.logprobs ((s.advance n).ob n)) []))
  ∧ (∀ (s : State) (n id : Nat) (w : Word128) (i : SInstr), Issues s n .scommit w → sDecode w = some i → i.limitsOk = true →
      i.requests = 1 → (s.advance n).held (s.pastCore n) .scommit [(i.addrX, 192), (i.addrY, 128)] [(i.addrZ, 16)] = none →
      (i.entry ((s.advance n).ob n) 0).1 = id → (s.advance n).badReq n id = false → exec (.scommit n) s
        = .next (((s.advance n).deschedule (s.pastCore n) (.commit [(0, id)] i.addrZ) 0xFFFF).commitOne n id
            (sampleEntry ((s.advance n).ob n) i.addrX)))
  ∧ (∀ (s : State) (n m : Nat) (w : Word128) (o : Opc) (a : Bool) (c : Instr) (i : OInstr), (o, a, c) ∈
        [(Opc.oadam, true, Instr.oadam n), (.osgd, false, .osgd n)] → Issues s n o w → oDecode w = some i →
      (s.advance n).held (s.pastCore n) o [(i.addrP, 64)] [] = none → i.count ((s.advance n).ob n) = m → 0 < m → m ≤ 262144 →
      (s.advance n).held (s.pastCore n) o (i.ranges a m).1 (i.ranges a m).2 = none → exec c s
        = .next ((s.advance n).results (s.pastCore n) (i.ranges a m).1 0 (i.run a ((s.advance n).ob n)) []))
  ∧ (∀ (s : State) (n : Nat), s.pcr.raiseTo = none → (s.core n).squash = true → (s.core n).stopped = false →
      exec (.tileOpBoundary n) s = .next (s.stopCore (s.core n)))
  ∧ (∀ (s : State) (n : Nat) (op : CoreOp) (ops : List CoreOp), s.pcr.raiseTo = none → (s.core n).squash = false →
      (s.core n).tail = op :: ops → exec (.tileOpBoundary n) s
        = .next (((s.putCore { s.core n with tail := ops }).endTileOp n op).settleCore n))
  ∧ (∀ (s : State) (n : Nat), exec (.rngReseed n) s
      = .next (if 2 ^ 20 ≤ (s.core n).draws then s.putCore { s.core n with draws := (s.core n).draws - 2 ^ 20 } else s))

/-- The code table and delta set store: its commands, each answered in EXP_CMD_STATUS (R166 to R172, R178). -/
def Obligations.ExpanderStore : Prop :=
  (∀ (s : State) (id el : Nat) (lens : List Nat), s.expIdle = true →
    tableImage (s.rd .hbm) (s.reg R.EXP_CMD_ADDR_OFFSET) = some (el, id, lens) → s.reg R.EXP_CMD_ADDR_OFFSET % 64 = 0 →
    s.hbmMapped (s.reg R.EXP_CMD_ADDR_OFFSET) 144 = true → s.table? id = none →
    exec (.tableLoad id) s
      = .next ((s.onExp fun e => { e with tables := e.tables ++ [⟨id, el, lens, false, [], []⟩] }).expStatus 1 0 id .ok))
  ∧ (∀ (s : State) (id el : Nat) (lens : List Nat) (t : CodeTable), s.expIdle = true →
      tableImage (s.rd .hbm) (s.reg R.EXP_CMD_ADDR_OFFSET) = some (el, id, lens) → s.reg R.EXP_CMD_ADDR_OFFSET % 64 = 0 →
      s.hbmMapped (s.reg R.EXP_CMD_ADDR_OFFSET) 144 = true → s.table? id = some t → t.element = el → t.lens = lens →
      exec (.tableLoad id) s = .next ((s.onExp fun e => { e with tables := upsert (·.id == id) { t with dropping := false } e.tables }).expStatus 1 0 id .ok))
  ∧ (∀ (s : State) (id el : Nat) (lens : List Nat) (t : CodeTable), s.expIdle = true →
      tableImage (s.rd .hbm) (s.reg R.EXP_CMD_ADDR_OFFSET) = some (el, id, lens) → s.reg R.EXP_CMD_ADDR_OFFSET % 64 = 0 →
      s.hbmMapped (s.reg R.EXP_CMD_ADDR_OFFSET) 144 = true → s.table? id = some t → t.lens ≠ lens → t.binds ≠ [] →
      exec (.tableLoad id) s = .next (s.expStatus 1 0 id .tableBusy))
  ∧ (∀ (s : State) (id el : Nat) (lens : List Nat) (t : CodeTable), s.expIdle = true →
      tableImage (s.rd .hbm) (s.reg R.EXP_CMD_ADDR_OFFSET) = some (el, id, lens) → s.reg R.EXP_CMD_ADDR_OFFSET % 64 = 0 →
      s.hbmMapped (s.reg R.EXP_CMD_ADDR_OFFSET) 144 = true → s.table? id = some t → t.lens ≠ lens → t.binds = [] →
      exec (.tableLoad id) s = .next ((s.onExp fun e => { e with tables := upsert (·.id == id) { t with resident := [] } e.tables, busy := some (.tableLoad id el lens) }).setRegs [(R.EXP_CMD_OP, 1), (R.EXP_CMD_ID, id), (R.EXP_CMD_STATUS_BUSY, 1)]))
  ∧ (∀ (s : State) (id : Nat), s.expIdle = true → tableImage (s.rd .hbm) (s.reg R.EXP_CMD_ADDR_OFFSET) = none →
      exec (.tableLoad id) s = .next (s.expStatus 1 0 id .badParam))
  ∧ (∀ (s : State) (id el : Nat) (lens : List Nat), s.exp.busy = some (.tableLoad id el lens) → exec .tableInvalidateDone s
      = .next (((s.onExp fun e => { e with tables := upsert (·.id == id) ⟨id, el, lens, false, [], []⟩ e.tables, busy := none }).setReg
          R.EXP_CMD_STATUS_BUSY 0).expStatus 1 0 id .ok))
  ∧ (∀ (s : State) (id : Nat) (t : CodeTable), s.expIdle = true → id ≠ 0 → s.table? id = some t → exec (.tableDrop id) s
      = .next ((s.onExp fun e => { e with tables := upsert (·.id == id) { t with dropping := true } e.tables }).freeTables.expStatus
          2 0 id .ok))
  ∧ (∀ (s : State) (id : Nat), s.expIdle = true → id ≠ 0 → s.table? id = none →
      exec (.tableDrop id) s = .next (s.expStatus 2 0 id .tableAbsent))
  ∧ (∀ (s : State) (k : Nat), s.expIdle = true → s.flag R.CAP_FEATURES_STIPPLE = true → k ≠ 0 → s.dslot? k = none →
      s.exp.slots.length < s.reg R.CAP_LIMITS_DELTA_SETS_MAX → exec (.dsetLoad k) s
        = .next ((s.onExp fun e => { e with busy := some (.dsetLoad k (s.reg R.EXP_CMD_ADDR_OFFSET)) }).setRegs
            [(R.EXP_CMD_OP, 3), (R.EXP_CMD_ID, k), (R.EXP_CMD_STATUS_BUSY, 1)]))
  ∧ (∀ (s : State) (k : Nat), s.expIdle = true → s.flag R.CAP_FEATURES_STIPPLE = true → k ≠ 0 → s.dslot? k = none →
      s.reg R.CAP_LIMITS_DELTA_SETS_MAX ≤ s.exp.slots.length → exec (.dsetLoad k) s = .next (s.expStatus 3 0 k .deltaLimit))
  ∧ (∀ (s : State) (k : Nat), s.expIdle = true → s.flag R.CAP_FEATURES_STIPPLE = false →
      exec (.dsetLoad k) s = .next (s.expStatus 3 0 k .unitAbsent))
  ∧ (∀ (s : State) (k a : Nat) (h : DsetHdr), s.exp.busy = some (.dsetLoad k a) → a % 64 = 0 → dsetOk (s.rd .hbm) a = some h →
      s.hbmMapped a h.setBytes = true → exec .dsetLoadReadDone s
        = .next ((((s.onExp fun e => { e with busy := none }).setReg R.EXP_CMD_STATUS_BUSY 0).onExp fun e =>
            { e with slots := e.slots ++ [⟨k, a, h.modelId, h.variantId, false, []⟩] }).expStatus 3 0 k .ok))
  ∧ (∀ (s : State) (k a : Nat), s.exp.busy = some (.dsetLoad k a) → dsetOk (s.rd .hbm) a = none → exec .dsetLoadReadDone s
      = .next (((s.onExp fun e => { e with busy := none }).setReg R.EXP_CMD_STATUS_BUSY 0).expStatus 3 0 k .deltaFormat))
  ∧ (∀ (s : State) (k : Nat) (t : DeltaSlot), s.expIdle = true → k ≠ 0 → s.dslot? k = some t → exec (.dsetDrop k) s
      = .next ((s.onExp fun e => { e with slots := upsert (·.slot == k) { t with dropping := true } e.slots }).freeDsets.expStatus
          4 0 k .ok))
  ∧ (∀ (s : State) (c id : Nat) (t : CodeTable), s.expIdle = true → s.ctxOpen c = true → id ≠ 0 → s.table? id = some t →
      t.dropping = false → c ∉ t.binds →
      (s.exp.tables.filter fun x => x.binds.contains c).length + bit (s.exp.storedBinds.contains c) < 64 →
      exec (.bindTable c id) s = .next ((s.onExp fun e => { e with tables := upsert (·.id == id) { t with binds := t.binds ++ [c] } e.tables }).expStatus 5 c id .ok))
  ∧ (∀ (s : State) (c : Nat), s.expIdle = true → s.ctxOpen c = true → c ∉ s.exp.storedBinds →
      (s.exp.tables.filter fun x => x.binds.contains c).length < 64 → exec (.bindTable c 0) s
        = .next ((s.onExp fun e => { e with storedBinds := e.storedBinds ++ [c] }).expStatus 5 c 0 .ok))
  ∧ (∀ (s : State) (c id : Nat), s.expIdle = true → s.ctxOpen c = false →
      exec (.bindTable c id) s = .next (s.expStatus 5 c id .badParam))
  ∧ (∀ (s : State) (c k : Nat) (t : DeltaSlot), s.expIdle = true → s.ctxOpen c = true → s.dslot? k = some t →
      t.dropping = false → c ∉ t.binds → (s.exp.slots.filter fun x => x.binds.contains c).length < 256 →
      exec (.bindDset c k) s = .next ((s.onExp fun e => { e with slots := upsert (·.slot == k) { t with binds := t.binds ++ [c] } e.slots }).expStatus 6 c k .ok))
  ∧ (∀ (s : State) (c k : Nat), s.expIdle = true → s.ctxOpen c = true → s.dslot? k = none →
      exec (.bindDset c k) s = .next (s.expStatus 6 c k .deltaAbsent))
  ∧ (∀ (s : State) (v : Nat), s.expIdle = true → exec (.expCmdAddrWrite v) s = .next (s.writeRw 0x140008 v))
  ∧ (∀ (s : State) (c : Instr) (a b : Nat), c ∈ [Instr.tableLoad a, .tableDrop a, .dsetLoad a, .dsetDrop a, .bindTable b a,
      .bindDset b a, .expCmdAddrWrite a] → s.expIdle = false → exec c s = .next s)

/-- Contexts: the commands of SCH_CTX_CMD, the checks a descriptor passes, draining and teardown, and a job aborted elsewhere (R179 to R184,
R200, Tables 7.2, 7.3 and 7.6). -/
def Obligations.Contexts : Prop :=
  (∀ (s : State) (c : Nat), s.flag R.SCH_CTX_STATUS_BUSY = false → c < 0xFFF → s.ctx? c = none → s.turning = false →
    exec (.ctxOpen c) s = .next (((s.setRegs [(R.SCH_CTX_CMD_OP, 1), (R.SCH_CTX_CMD_CONTEXT, c)]).loadCtx c
      (s.reg R.SCH_CTX_ADDR_OFFSET)).ctxCmdRuns 1 c))
  ∧ (∀ (s : State) (c : Nat) (x : Ctx), s.flag R.SCH_CTX_STATUS_BUSY = false → c < 0xFFF → s.ctx? c = some x → x.state = .open_ →
      s.turning = false → exec (.ctxStart c) s
        = .next (((s.setRegs [(R.SCH_CTX_CMD_OP, 2), (R.SCH_CTX_CMD_CONTEXT, c)]).putCtx { x with state := .running, seqs := [], nextShard := 0, doneShards := [], runTimes := [], backups := [] }).setReg
              R.SCH_CTX_STATUS_STATUS 0))
  ∧ (∀ (s : State) (c : Nat) (x : Ctx), s.flag R.SCH_CTX_STATUS_BUSY = false → c < 0xFFF → s.ctx? c = some x → x.state = .running →
      exec (.ctxClose c) s = .next (((s.setRegs [(R.SCH_CTX_CMD_OP, 3), (R.SCH_CTX_CMD_CONTEXT, c)]).putCtx
        { x with state := .draining }).setReg R.SCH_CTX_STATUS_STATUS 0))
  ∧ (∀ (s : State) (c : Nat) (x : Ctx), s.flag R.SCH_CTX_STATUS_BUSY = false → c < 0xFFF → s.ctx? c = some x → x.state = .open_ →
      exec (.ctxClose c) s = .next (((s.setRegs [(R.SCH_CTX_CMD_OP, 3), (R.SCH_CTX_CMD_CONTEXT, c)]).closeCtx x .close .ok 0
        0).ctxCmdRuns 3 c))
  ∧ (∀ (s : State) (c : Nat) (x : Ctx), s.flag R.SCH_CTX_STATUS_BUSY = false → c < 0xFFF → s.ctx? c = some x →
      x.state = .open_ ∨ x.state = .running ∨ x.state = .draining → exec (.ctxAbort c) s
        = .next (((s.setRegs [(R.SCH_CTX_CMD_OP, 4), (R.SCH_CTX_CMD_CONTEXT, c)]).closeCtx x .abort .ok 0 0).ctxCmdRuns 4 c))
  ∧ (∀ (s : State) (c : Nat) (i : Instr), i ∈ [Instr.ctxOpen c, .ctxStart c, .ctxClose c, .ctxAbort c] →
      s.flag R.SCH_CTX_STATUS_BUSY = true ∨ 0xFFF ≤ c → exec i s = .next s)
  ∧ (∀ (s : State) (c : Nat) (i : Instr), i ∈ [Instr.ctxStart c, .ctxClose c, .ctxAbort c] → s.ctx? c = none → exec i s = .next s)
  ∧ (∀ (s : State) (c : Nat), s.turning = true → exec (.ctxOpen c) s = .next s)
  ∧ (∀ (s : State) (c : Nat) (x : Ctx) (st : St), s.ctx? c = some x → x.state = .loading → s.descCheck x.desc = some st →
      exec (.ctxLoadingDone c) s = .next ((s.freeCtx c).ctxCmdDone c st))
  ∧ (∀ (s : State) (c : Nat) (x : Ctx), s.ctx? c = some x → x.num = c → x.state = .loading → s.descCheck x.desc = none →
      s.turning = false → s.sch.busy = some (1, c) → exec (.ctxLoadingDone c) s
        = .next (((s.putCtx { x with state := .open_ }).markObjects c x.desc).ctxCmdDone c .ok))
  ∧ (∀ (s : State) (d : Desc), d.formOk = false ∨ s.descCores d = false ∨ d.ranges = false → s.descCheck d = some .badParam)
  ∧ (∀ (s : State) (d : Desc), d.formOk = true → s.descCores d = true → d.ranges = true →
      d.suits (s.reg R.PHS_PHASE_ROLE) = false → s.descCheck d = some .badState)
  ∧ (∀ (s : State) (d : Desc), d.formOk = true → s.descCores d = true → d.ranges = true →
      d.suits (s.reg R.PHS_PHASE_ROLE) = true → s.programOk d = false → s.descCheck d = some .unitAbsent)
  ∧ (∀ (s : State) (c : Nat) (x : Ctx), s.ctx? c = some x → x.state = .draining → exec (.ctxDrained c) s
      = .next (if s.ctxBusy c = true then s else s.closeCtx x .close .ok 0 0))
  ∧ (∀ (s : State) (c : Nat) (x : Ctx), s.ctx? c = some x → x.state ≠ .draining → exec (.ctxDrained c) s = .next s)
  ∧ (∀ (s : State) (c : Nat) (x : Ctx), s.ctx? c = some x → x.num = c → x.state = .closing → x.cause ≠ .fault →
      exec (.ctxTeardownDone c) s = .next (((((((((s.disposeOwned x).clearRuns x).releaseBinds c).residueCheck c).settlePages).flushCtxQueues
        c).post .contextClosed c (formC x.status x.core x.cause.code x.pc x.desc.jobId)).ctxCmdDone c .ok).freeCtx c))
  ∧ (∀ (s : State) (c : Nat) (x : Ctx), s.ctx? c = some x → x.state ≠ .closing → exec (.ctxTeardownDone c) s = .next s)
  ∧ (∀ (s : State) (src job c : Nat) (cs : List Nat), s.jobContexts job = c :: cs → exec (.jobAbort src job) s
      = .next (((s.takeMsg src (.jobAbort job)).tearDownAll .jobAbort .ok (c :: cs)).post .jobAborted c (formO .ok src job 0)))
  ∧ (∀ (s : State) (src job : Nat), s.jobContexts job = [] → exec (.jobAbort src job) s = .next (s.takeMsg src (.jobAbort job)))

/-- Burin's registers: queues, compositions, meters and SCH_CTRL (R205 to R209, R343). -/
def Obligations.SchedulerRegisters : Prop :=
  (∀ (s : State) (v : Nat), exec (.schCtrlWrite v) s = .next (s.writeRw 0x100000 v))
  ∧ (∀ (s : State) (q v : Nat), q < 4096 → s.flag (R.SCH_QUEUE_A_VALID q) = false →
      exec (.schQueueWrite q v) s = .next (s.writeRw (0x109000 + 16 * q) v))
  ∧ (∀ (s : State) (q v : Nat), q < 4096 → s.flag (R.SCH_QUEUE_A_VALID q) = true → bitAt v 63 = true →
      bitsOf v 62 62 = s.reg (R.SCH_QUEUE_A_CLASS q) → bitsOf v 47 32 = s.reg (R.SCH_QUEUE_A_TENANT q) →
      exec (.schQueueWrite q v) s = .next (s.writeRw (0x109000 + 16 * q) v))
  ∧ (∀ (s : State) (q v : Nat), s.flag (R.SCH_QUEUE_A_VALID q) = true → bitsOf v 47 32 ≠ s.reg (R.SCH_QUEUE_A_TENANT q) →
      s.reg (R.SCH_QUEUE_B_STEP_DEFICIT q) ≠ 0 → exec (.schQueueWrite q v) s = .next s)
  ∧ (∀ (s : State) (c v : Nat), c < 32 → (s.writeRw (0x119000 + 32 * c) v).compsOk = true → (s.sch.ctxs.any (·.desc.comp == c)) = false →
      s.flag (R.SCH_COMP_A_VALID c) = true → exec (.schCompWrite (0x119000 + 32 * c) v) s
        = .next ((s.writeRw (0x119000 + 32 * c) v).shaperFill (4 + c)))
  ∧ (∀ (s : State) (c v : Nat), c < 32 → (s.writeRw (0x119000 + 32 * c) v).compsOk = true → (s.sch.ctxs.any (·.desc.comp == c)) = false →
      s.flag (R.SCH_COMP_A_VALID c) = false → (s.writeRw (0x119000 + 32 * c) v).flag (R.SCH_COMP_A_VALID c) = true →
      ∃ t, exec (.schCompWrite (0x119000 + 32 * c) v) s = .next t ∧
        t = ((s.writeRw (0x119000 + 32 * c) v).shaperFill (4 + c)).setReg (R.SCH_COMP_TOTAL_TOTAL c) 0)
  ∧ (∀ (s : State) (c v : Nat), c < 32 → (s.writeRw (0x119000 + 32 * c) v).compsOk = false →
      exec (.schCompWrite (0x119000 + 32 * c) v) s = .next s)
  ∧ (∀ (s : State) (c v : Nat), c < 32 → (s.sch.ctxs.any (·.desc.comp == c)) = true →
      exec (.schCompWrite (0x119000 + 32 * c) v) s = .next s)
  ∧ (∀ (s : State), s.canonical → ∃ t, exec .compMeterTick s = .next t
      ∧ (∀ c, c < 32 → s.flag (R.SCH_COMP_A_VALID c) = true → s.reg (R.SCH_COMP_METER_TICKS c) + 1 < 2 ^ 64 →
          t.reg (R.SCH_COMP_METER_TICKS c) = s.reg (R.SCH_COMP_METER_TICKS c) + 1
          ∧ t.reg (R.SCH_COMP_TOTAL_TOTAL c) = (s.reg (R.SCH_COMP_TOTAL_TOTAL c) + 1) % 2 ^ 64)
      ∧ (∀ c, c < 32 → s.flag (R.SCH_COMP_A_VALID c) = false →
          t.reg (R.SCH_COMP_METER_TICKS c) = s.reg (R.SCH_COMP_METER_TICKS c)
          ∧ t.reg (R.SCH_COMP_TOTAL_TOTAL c) = s.reg (R.SCH_COMP_TOTAL_TOTAL c)))

/-- Batches and shards: dispatch, the hold below ROW_MIN, the end of a run, backups and the copy that wins (R185 to R204), and a node passed
over that becomes eligible again (R195, R196). -/
def Obligations.BatchesAndShards : Prop :=
  (∀ (s : State) (c g : Nat) (x : Ctx), s.ctx? c = some x → s.flag R.SCH_CTRL_ENABLE = true → x.serving = true →
    x.desc.kind = .serving → s.groupIdle x g = true → s.turnOf x g = true → (s.form x g (s.resumeHeld x g)).2.1.rows ≠ [] →
    x.desc.rowMin ≤ (s.form x g (s.resumeHeld x g)).2.1.total → exec (.batchDispatch c g) s
      = .next ((s.form x g (s.resumeHeld x g)).2.2.dispatch (s.form x g (s.resumeHeld x g)).1 g (s.form x g (s.resumeHeld x g)).2.1))
  ∧ (∀ (s : State) (c g : Nat) (x : Ctx), s.ctx? c = some x → s.flag R.SCH_CTRL_ENABLE = true → x.serving = true →
      x.desc.kind = .serving → s.groupIdle x g = true → s.turnOf x g = true → (s.form x g (s.resumeHeld x g)).2.1.rows ≠ [] →
      x.holdOver = false → (s.form x g (s.resumeHeld x g)).2.1.total < x.desc.rowMin → (s.form x g (s.resumeHeld x g)).2.1.lc = false →
      x.desc.holdUs ≠ 0 → exec (.batchDispatch c g) s
        = .next ((s.form x g (s.resumeHeld x g)).2.2.putCtx { (s.form x g (s.resumeHeld x g)).1 with held := some ⟨x.num, g, 0, renumber 0 (s.form x g (s.resumeHeld x g)).2.1.rows.reverse, (s.form x g (s.resumeHeld x g)).2.1.slot, 0, [], false, false⟩ }))
  ∧ (∀ (s : State) (c g : Nat) (x : Ctx), s.ctx? c = some x → s.flag R.SCH_CTRL_ENABLE = false ∨ x.serving = false
        ∨ x.desc.kind ≠ .serving ∨ s.groupIdle x g = false ∨ s.turnOf x g = false → exec (.batchDispatch c g) s = .next s)
  ∧ (∀ (s : State) (c : Nat) (x : Ctx) (h : Batch), s.ctx? c = some x → x.held = some h → s.flag R.SCH_CTRL_ENABLE = true →
      x.serving = true → s.groupIdle x h.group = true → s.turnOf x h.group = true → (s.form x h.group (s.resumeHeld x h.group)).2.1.rows ≠ [] →
      exec (.batchHoldExpiry c) s = .next ((s.form x h.group (s.resumeHeld x h.group)).2.2.dispatch
        (s.form x h.group (s.resumeHeld x h.group)).1 h.group (s.form x h.group (s.resumeHeld x h.group)).2.1))
  ∧ (∀ (s : State) (c : Nat) (x : Ctx), s.ctx? c = some x → x.held = none → exec (.batchHoldExpiry c) s = .next s)
  ∧ (∀ (s : State) (c : Nat) (x : Ctx) (h : Batch), s.ctx? c = some x → x.held = some h →
      (∀ g, s.groupIdle x g = false ∨ s.turnOf x g = false) →
      exec (.batchHoldExpiry c) s = .next (s.putCtx { x with holdOver := true }))
  ∧ (∀ (s : State) (c g : Nat) (b : Batch), s.ctx? c = none → (s.sch.batches.find? fun b => b.ctx == c && b.group == g) = some b →
      b.left = [] → exec (.batchEnd c g) s = .next ((s.onSch fun k => { k with batches := k.batches.filter fun y => !(y.ctx == c && y.group == g) }).unfinishedSteps b))
  ∧ (∀ (s : State) (c g : Nat) (b : Batch), ((s.ctx? c).any fun x => decide (x.state = .closing)) = false →
      (s.sch.batches.find? fun b => b.ctx == c && b.group == g) = some b → s.runOver b.left b.squashed = true →
      exec (.batchEnd c g) s = .next ((((b.left.map s.core).foldl State.idleCore s).onSch fun k => { k with
        batches := k.batches.filter fun y => !(y.ctx == c && y.group == g) }).unfinishedSteps b))
  ∧ (∀ (s : State) (c g : Nat) (y : ShardRun), ((s.ctx? c).any fun x => decide (x.state = .closing)) = false →
      (s.sch.batches.find? fun b => b.ctx == c && b.group == g) = none →
      (s.sch.shards.find? fun y => y.ctx == c && y.group == g && y.squashed) = some y → s.runOver y.left true = true →
      exec (.batchEnd c g) s = .next (((y.left.map s.core).foldl State.idleCore s).onSch fun k => { k with
        shards := k.shards.filter fun z => !(z.ctx == c && z.group == g) }))
  ∧ (∀ (s : State) (c g : Nat) (b : Batch), (s.sch.batches.find? fun b => b.ctx == c && b.group == g) = some b → b.left ≠ [] →
      b.squashed = false → exec (.batchEnd c g) s = .next s)
  ∧ (∀ (s : State) (c g : Nat) (x : Ctx), s.ctx? c = some x → s.flag R.SCH_CTRL_ENABLE = true → x.shardWaits = true →
      s.groupIdle x g = true → 1 ≤ x.desc.batchUnits → s.turnOf x g = true →
      exec (.shardDispatch c g) s = .next (s.startShard x g x.nextShard 0))
  ∧ (∀ (s : State) (c g sh : Nat) (x : Ctx) (y : ShardRun), s.ctx? c = some x →
      (s.sch.shards.find? fun y => y.ctx == c && y.shard == sh && y.copy == 0 && !y.squashed) = some y →
      s.flag R.SCH_CTRL_ENABLE = true → s.reg R.SCH_CTRL_MODE ≠ 0 → x.desc.backupOk = true → x.state = .running →
      x.shardWaits = false → x.doneShards ≠ [] → sh ∉ x.backups → s.straggles x y = true → s.groupIdle x g = true →
      s.turnOf x g = true → exec (.backupStart c sh g) s = .next ((s.startShard x g sh 1).bump R.SCH_BACKUP_STATS_STARTED))
  ∧ (∀ (s : State) (c g sh : Nat) (x : Ctx) (y : ShardRun), s.ctx? c = some x →
      (s.sch.shards.find? fun y => y.ctx == c && y.shard == sh && y.copy == 0 && !y.squashed) = some y →
      s.straggles x y = false → exec (.backupStart c sh g) s = .next s)
  ∧ (∀ (s : State) (c sh copy : Nat) (x : Ctx) (y : ShardRun), s.ctx? c = some x →
      (s.sch.shards.find? fun y => y.ctx == c && y.shard == sh && y.copy == copy && !y.squashed && y.left.isEmpty) = some y →
      x.serving = true → sh ∉ x.doneShards → exec (.shardWin c sh copy) s = .next (s.shardWin x y))
  ∧ (∀ (s : State) (n : Nat), exec (.refuseHoldExpiry n) s = .next (s.onSch fun b => { b with refuseHold := b.refuseHold.filter (· != n), tried := b.tried.map fun x => (x.1, x.2.filter (· != n)) }))

/-- Phase turns: what a write of PHS_TURN accepts and refuses, the states of a turn and the switch (R210 to R221, R230, Tables 8.1 to 8.4).
What the switch of a turn to SCORE or LEARN leaves (R219): the target phase and role, the staged policy version current where it is the
target's, every deficit 0, and no turn in progress. -/
def Obligations.PhaseTurns : Prop :=
  (∀ (s : State) (v : Nat), bitAt v 63 = true → s.roleLicensed (bitsOf v 60 58) = true →
    phasePermits (bitsOf v 62 61) (bitsOf v 60 58) = true → s.turning = false → s.sch.ctxs = [] →
    let t := (s.writeRw 0x400010 v).setRegs [(R.PHS_TURN_GO, 1), (R.PHS_PHASE_STATE, 1)]
    exec (.phsTurnWrite v) s = .next (t.onPhs fun p =>
      { p with acceptedAt := s.aon, forced := false, quietUs := t.reg R.PHS_TURN_CFG_HOLDER_QUIET_US }))
  ∧ (∀ (s : State) (v : Nat), bitAt v 63 = true → s.roleLicensed (bitsOf v 60 58) = false →
      exec (.phsTurnWrite v) s = .next s)
  ∧ (∀ (s : State) (v : Nat), bitAt v 63 = true → phasePermits (bitsOf v 62 61) (bitsOf v 60 58) = false →
      exec (.phsTurnWrite v) s = .next s)
  ∧ (∀ (s : State) (v : Nat), s.turning = true → exec (.phsTurnWrite v) s = .next s)
  ∧ (∀ (s : State) (v : Nat), bitAt v 63 = false → s.turning = false → exec (.phsTurnWrite v) s = .next (s.writeRw 0x400010 v))
  ∧ (∀ (s : State), exec .turnFinishExpiry s
      = .next (if s.reg R.PHS_PHASE_STATE = 1 then s.setReg R.PHS_PHASE_STATE 2 else s))
  ∧ (∀ (s : State), exec .turnParkingDone s
      = .next (if s.reg R.PHS_PHASE_STATE = 2 ∧ s.ownsNone = true ∧ s.sch.ctxs = [] then s.setReg R.PHS_PHASE_STATE 3 else s))
  ∧ (∀ (s : State), s.reg R.PHS_PHASE_STATE = 3 → s.fab.remotes = [] → s.queuesEmpty = true →
      exec .turnQuiesceDone s = .next (s.setReg R.PHS_PHASE_STATE 4))
  ∧ (∀ (s : State), s.reg R.PHS_PHASE_STATE ≠ 3 → exec .turnQuiesceDone s = .next s)
  ∧ (∀ (s : State), s.reg R.PHS_PHASE_STATE = 4 → s.emptyState = true → s.holderQuiet = true →
      exec .turnCheckDone s = .next s.turnSwitch)
  ∧ (∀ (s : State), s.reg R.PHS_PHASE_STATE ≠ 4 ∨ s.emptyState = false ∨ s.holderQuiet = false → exec .turnCheckDone s = .next s)
  ∧ (∀ (s : State), exec .holderQuietExpiry s
      = .next (if s.reg R.PHS_PHASE_STATE = 4 ∧ s.reg R.PHS_PHASE_ROLE = 3 ∧ s.emptyState = true then s.turnSwitch else s))
  ∧ (∀ (s : State), 1 ≤ s.reg R.PHS_PHASE_STATE → s.reg R.PHS_PHASE_STATE ≤ 3 → s.phs.forced = false → s.sch.ctxs = [] →
      exec .turnDrainLimitExpiry s = .next ((((s.setReg R.PHS_PHASE_STATE 3).onPhs fun p => { p with forced := true }).bump
        R.PHS_TURN_STATS_FORCED).post .phaseTurnForced 0xFFF (formO .turnForced s.node 0 0)))
  ∧ (∀ (s : State), s.reg R.PHS_PHASE_STATE = 0 ∨ 4 ≤ s.reg R.PHS_PHASE_STATE ∨ s.phs.forced = true →
      exec .turnDrainLimitExpiry s = .next s)
  ∧ (∀ (s : State) (v : Nat), exec (.phsCtrlWrite v) s = .next (s.writeRw 0x400000 v))
  ∧ (∀ (s : State) (v : Nat), exec (.phsPolicyWrite v) s = .next (if s.turning = true then s else s.writeRw 0x400020 v))
  ∧ (∀ (s : State) (v : Nat), exec (.phsFloorWrite v) s = .next (s.writeRw 0x400028 v))
  ∧ (∀ (s : State), s.canonical → s.reg R.PHS_TURN_TARGET_PHASE ≠ 0 →
    s.turnSwitch.reg R.PHS_PHASE_ROLE = s.reg R.PHS_TURN_TARGET_ROLE % 8
    ∧ s.turnSwitch.reg R.PHS_PHASE_PHASE = s.reg R.PHS_TURN_TARGET_PHASE % 4 ∧ s.turnSwitch.reg R.PHS_PHASE_STATE = 0
    ∧ s.turnSwitch.reg R.PHS_TURN_GO = 0
    ∧ s.turnSwitch.reg R.PHS_POLICY_CURRENT = (if s.reg R.PHS_POLICY_STAGED = s.reg R.PHS_TURN_TARGET_VERSION then
        s.reg R.PHS_TURN_TARGET_VERSION % 2 ^ 32 else s.reg R.PHS_POLICY_CURRENT)
    ∧ s.turnSwitch.reg R.PHS_LAST_TURN_STATUS = (if s.phs.forced = true then St.turnForced.code % 2 ^ 16 else St.ok.code)
    ∧ s.turnSwitch.reg R.PHS_LAST_TURN_DURATION_US = min (s.aon - s.phs.acceptedAt) 0xFFFFFFFF
    ∧ (∀ q, q < 4096 → s.turnSwitch.reg (R.SCH_QUEUE_B_STEP_DEFICIT q) = 0 ∧ s.turnSwitch.reg (R.SCH_QUEUE_B_PLACE_DEFICIT q) = 0))

/-- Ports and the states of a link: configuration, training, loss, draining, the handshake's timers, virtual links and the registers of
section 9.11 (R232, R233, R237, R239, R240, R266, R272, Table 9.6). -/
def Obligations.PortsAndLinks : Prop :=
  (∀ (s : State) (p v : Nat), p < s.ports → bitsOf v 1 0 ≠ 3 → bitsOf v 7 6 = 0 → bitsOf v 1 0 = s.reg (R.FAB_PORT_CFG_MODE p) →
    bitsOf v 1 0 ≠ 2 → bitAt v 3 = true → exec (.fabPortCfgWrite p v) s
      = .next ((s.writeRw (0x200000 + 0x10000 * (p / 4) + 0x40 * (p % 4)) v |>.retryFailed p).drainPort p))
  ∧ (∀ (s : State) (p v : Nat), p < s.ports → bitsOf v 1 0 ≠ 3 → bitsOf v 7 6 = 0 → bitsOf v 1 0 ≠ s.reg (R.FAB_PORT_CFG_MODE p) →
      bitsOf v 1 0 ≠ 2 → exec (.fabPortCfgWrite p v) s
        = .next ((s.writeRw (0x200000 + 0x10000 * (p / 4) + 0x40 * (p % 4)) v |>.disablePort p).trainPort p))
  ∧ (∀ (s : State) (p v : Nat), bitsOf v 1 0 = 3 ∨ bitsOf v 7 6 = 3 ∨ bitsOf v 7 6 ≠ 0 ∧ s.flag R.CAP_FEATURES_LINK_CRYPT = false →
      exec (.fabPortCfgWrite p v) s = .next s)
  ∧ (∀ (s : State) (p : Nat) (l : Link), s.portLinks p = [l] → l.state = .training → exec (.linkTrained (.port p)) s
      = .next (s.trained l))
  ∧ (∀ (s : State) (i : Nat) (l : Link), s.link? (.virt i) = some l → l.state = .training → exec (.linkTrained (.virt i)) s
      = .next (s.trained l))
  ∧ (∀ (s : State) (l : Link), s.laneBad (s.linkPort l.id) 0 = false → s.laneBad (s.linkPort l.id) 4 = false → s.pcr.ref156 = true →
      l.lanes = 0 → s.trained l = (s.setReg (R.FAB_PORT_STATUS_LANES_UP (s.linkPort l.id))
        (if s.flag (R.FAB_PORT_CFG_LANES4 (s.linkPort l.id)) = true then 0x0F else 0xFF)).putLink (freshLink l.id .handshake))
  ∧ (∀ (s : State) (l : Link), s.laneBad (s.linkPort l.id) 0 = false → s.laneBad (s.linkPort l.id) 4 = false → s.pcr.ref156 = true →
      l.lanes ≠ 0 → s.trained l = ((s.setReg (R.FAB_PORT_STATUS_LANES_UP (s.linkPort l.id)) l.lanes).postLink .linkDegraded l
        0).putLink (freshLink l.id .handshake))
  ∧ (∀ (s : State) (p : Nat) (l : Link), s.link? (.port p) = some l → l.state = .training → s.reg (R.FAB_PORT_CFG_MODE p) = 0 →
      s.flag (R.FAB_PORT_CFG_AUTO_DEGRADE p) = true → exec (.laneTrainFail p) s
        = .next (s.putLink { l with lanes := if l.lanes = 0 then 0x0F else if l.lanes = 0x0F then 0xF0 else 0 }))
  ∧ (∀ (s : State) (i : LinkId) (l : Link), s.link? i = some l → l.state = .handshake →
      exec (.helloSendTimer i) s = .next (s.sendHello l) ∧ exec (.helloLossTimeout i) s = .next (s.putLink (freshLink i .training)))
  ∧ (∀ (s : State) (i : LinkId) (l : Link), s.link? i = some l → l.state ≠ .handshake →
      exec (.helloSendTimer i) s = .next s ∧ exec (.helloLossTimeout i) s = .next s)
  ∧ (∀ (s : State) (p : Nat) (l : Link), s.link? (.port p) = some l → l.state = .down →
      s.flag (R.FAB_PORT_CFG_DRAIN p) = false → s.pcr.ref156 = true → exec (.linkDownRetrainExpiry (.port p)) s
        = .next ((s.putLink (freshLink (.port p) .training)).setReg (R.FAB_PORT_STATUS_LANES_UP p) 0))
  ∧ (∀ (s : State) (i : Nat) (l : Link), s.link? (.virt i) = some l → l.state = .down →
      s.flag (R.FAB_PORT_CFG_DRAIN (s.reg (R.FAB_PEER_PORT i))) = false → s.pcr.ref156 = true →
      exec (.linkDownRetrainExpiry (.virt i)) s = .next (s.putLink (freshLink (.virt i) .training)))
  ∧ (∀ (s : State) (i : LinkId) (h : Hello) (l : Link), s.link? i = some l → l.state = .failed → l.peer ≠ some h →
      exec (.linkFailedRecheck i h) s = .next (s.putLink { freshLink i .handshake with peer := some h }))
  ∧ (∀ (s : State) (i : LinkId) (h : Hello) (l : Link), s.link? i = some l → l.peer = some h →
      exec (.linkFailedRecheck i h) s = .next s)
  ∧ (∀ (s : State) (i : LinkId) (l : Link), s.link? i = some l → l.state = .draining → exec (.linkDrained i) s
      = .next (if l.queue = [] ∧ l.replay = [] then s.linkDown l else s))
  ∧ (∀ (s : State) (i : Nat) (l : Link), s.link? (.virt i) = some l → l.id = .virt i → l.state = .up → exec (.portLockLoss (.virt i)) s
      = .next (s.linkDown l))
  ∧ (∀ (s : State) (l : Link), l.state = .up → s.linkDown l
      = ((s.putLink { freshLink l.id .down with peer := l.peer }).postLink .linkDown l 0).reroute (s.linkPort l.id / 4)
          (l.replay.map (·.frame) ++ l.queue))
  ∧ (∀ (s : State) (i v : Nat), i < 256 → s.linkState (.virt i) = .up → exec (.fabPeerWrite i v) s = .next s)
  ∧ (∀ (s : State) (i v : Nat), i < 256 → s.linkState (.virt i) ≠ .up → bitAt v 63 = false → exec (.fabPeerWrite i v) s
      = .next ((s.onFab fun f => { f with links := f.links.filter fun l => decide (l.id ≠ .virt i) }).writeRw (0x281000 + 8 * i) v))
  ∧ (∀ (s : State) (v : Nat), exec (.fabCtrlWrite v) s = .next (if (List.range s.ports).any (fun p =>
      decide (s.linkState (.port p) ≠ .disabled)) = true then s else s.writeRw 0x280000 v))
  ∧ (∀ (s : State) (v : Nat), exec (.fabTimeoutWrite v) s
      = .next (if bitsOf v 63 48 < 10 ∨ 2000 < bitsOf v 63 48 then s else s.writeRw 0x280018 v))

/-- The handshake of a link and its encryption: what the link layer takes of a link-control frame, the checks of Table
9.8 in order, the link that comes UP, and a change of keys (R234, R235, R238, R268, R269, R399 to R401). -/
def Obligations.HandshakeAndKeys : Prop :=
  (∀ (s : State) (l : Link) (hop : HopPart) (type : Nat), hop.fcsOk = false → l.carries = false → s.controlIn l hop type
    = (false, (s.countRx (s.linkPort l.id) hop.length).bump (R.FAB_PORT_ERR_UNCORRECTED (s.linkPort l.id))))
  ∧ (∀ (s : State) (l : Link) (hop : HopPart) (type : Nat), hop.fcsOk = true → hop.eth.da ≠ s.linkLocalMac ∨
      hop.eth.etherType ≠ s.reg R.FAB_CTRL_ETHERTYPE → s.controlIn l hop type = (false, s.countRx (s.linkPort l.id) hop.length))
  ∧ (∀ (s : State) (l : Link) (hop : HopPart) (type : Nat), hop.fcsOk = true → hop.eth.da = s.linkLocalMac →
      hop.eth.etherType = s.reg R.FAB_CTRL_ETHERTYPE → hop.eth.tag = none → s.tagged l.id = false → hop.length ≤ 4182 → l.proto ≠ 0 →
      s.controlIn l hop type = if hop.proto = l.proto ∧ hop.kind = 1 ∧ hop.type = type then
          (true, s.countRx (s.linkPort l.id) hop.length)
        else (false, (s.countRx (s.linkPort l.id) hop.length).bump (R.FAB_DIE_STATS_UNKNOWN_DROPS (s.linkPort l.id / 4))))
  ∧ (∀ (s u : State) (i : LinkId) (hop : HopPart) (h : Hello) (l : Link), s.link? i = some l → l.state = .handshake → s.shakes = true →
      s.controlIn l hop 0x60 = (false, u) → exec (.hello i ⟨hop, h⟩) s = .next u)
  ∧ (∀ (s : State) (i : LinkId) (hop : HopPart) (h : Hello) (l : Link), s.link? i = some l → l.state ≠ .handshake ∨ s.shakes = false →
      exec (.hello i ⟨hop, h⟩) s = .next s)
  ∧ (∀ (s u : State) (i : LinkId) (hop : HopPart) (h : Hello) (l : Link) (e : Ev) (r : Nat), s.link? i = some l → l.state = .handshake →
      s.shakes = true → s.controlIn l hop 0x60 = (true, u) → (u.ownHello l.id).check h = some (e, r) →
      exec (.hello i ⟨hop, h⟩) s = .next (u.linkFail { l with peer := some h } e r))
  ∧ (∀ (s u : State) (i : LinkId) (hop : HopPart) (h : Hello) (l : Link), s.link? i = some l → l.state = .handshake → s.shakes = true →
      s.controlIn l hop 0x60 = (true, u) → (u.ownHello l.id).check h = none →
      (u.ownHello l.id).cryptRequire = true → h.cryptOffer = false →
      exec (.hello i ⟨hop, h⟩) s = .next (u.linkFail { l with peer := some h } .linkFailed 2))
  ∧ (∀ (s u : State) (p : Nat) (hop : HopPart) (h : Hello) (l v : Link), s.link? (.port p) = some l → l.id = .port p →
      l.state = .handshake → s.shakes = true → s.controlIn l hop 0x60 = (true, u) →
      (u.ownHello (.port p)).check h = none → (u.ownHello (.port p)).cryptOffer = false → h.cryptRequire = false →
      (u.ownHello (.port p)).cryptRequire = false →
      v = { freshLink (.port p) .up with peer := some h, proto := min (u.ownHello (.port p)).protoMax h.protoMax, credits := [Config.rxBuffer 0, Config.rxBuffer 1, Config.rxBuffer 2, Config.rxBuffer 3] } →
      exec (.hello (.port p) ⟨hop, h⟩) s = .next (if u.flag (R.FAB_PORT_CFG_DRAIN p) = true then
          (((u.putLink v).postLink .linkUp v 0).serdesBack p).drainPort p
        else ((u.putLink v).postLink .linkUp v 0).serdesBack p))
  ∧ (∀ (s u : State) (i : Nat) (hop : HopPart) (h : Hello) (l : Link), s.link? (.virt i) = some l → l.id = .virt i →
      l.state = .handshake → s.shakes = true → s.controlIn l hop 0x60 = (true, u) →
      (u.ownHello (.virt i)).check h = none → (u.ownHello (.virt i)).cryptOffer = false → h.cryptRequire = false →
      (u.ownHello (.virt i)).cryptRequire = false → h.nodeNumber ≠ u.reg (R.FAB_PEER_NODE i) →
      exec (.hello (.virt i) ⟨hop, h⟩) s = .next (u.linkFail { l with peer := some h } .linkFailed 3))
  ∧ (∀ (o h : Hello), o.fwGeneration + 1 < h.fwGeneration → o.check h = some (.linkVersionSkew, 0))
  ∧ (∀ (o h : Hello), h.fwGeneration ≤ o.fwGeneration + 1 → o.fwGeneration ≤ h.fwGeneration + 1 →
      max o.protoMin h.protoMin ≤ min o.protoMax h.protoMax → o.domainId ≠ h.domainId → o.domainId ≠ 0 → h.domainId ≠ 0 →
      o.check h = some (.linkFailed, 1))
  ∧ (∀ (o h : Hello), h.fwGeneration ≤ o.fwGeneration + 1 → o.fwGeneration ≤ h.fwGeneration + 1 →
      max o.protoMin h.protoMin ≤ min o.protoMax h.protoMax → o.domainId = h.domainId → o.nodeValid = true → h.nodeValid = true →
      o.nodeNumber = h.nodeNumber → o.check h = some (.nodeNumberConflict, 0))
  ∧ (∀ (s : State) (i : LinkId) (l : Link) (k : LinkCrypt) (d : CrtKey) (c : Cert), s.link? i = some l → l.state = .up →
      l.crypt = some k → 2 ^ 47 ≤ k.sendCtr → k.rekey = none → s.sec.identityKey = some d → s.sec.certs[0]? = some c →
      ∃ e : Nat × KeyAgreement, e.2.kaVersion = 1 ∧ e.2.keyCount = (k.keyCount + 1) % 256 ∧ e.2.identityKey = s.sec.identityN
        ∧ e.2.cert = c ∧ e.2.signature = d.sign ((s.ownHello i).signedBytes e.2) ∧ exec (.rekeyStart i) s
          = .next (((s.setFresh (s.fresh + 1)).putLink { l with crypt := some { k with rekey := some e } }).sendControl l 3 0
            (.hello { s.ownHello i with agree := some e.2 })))
  ∧ (∀ (s : State) (i : LinkId) (l : Link), s.link? i = some l → l.crypt = none → exec (.rekeyStart i) s = .next s)
  ∧ (∀ (s u : State) (i : LinkId) (hop : HopPart) (h : Hello) (l : Link) (k : LinkCrypt) (pk : KeyAgreement), s.link? i = some l →
      l.state = .up → s.controlIn l hop 0x60 = (true, u) →
      l.peer.map (fun p => { p with agree := none }) = some { h with agree := none } → l.crypt = some k → h.agree = some pk →
      u.agreementOk h pk = false → exec (.rekeyHello i ⟨hop, h⟩) s = .next (u.linkDown l))
  ∧ (∀ (s u : State) (i : LinkId) (hop : HopPart) (h : Hello) (l : Link), s.link? i = some l → l.state = .up →
      s.controlIn l hop 0x60 = (true, u) → l.peer.map (fun p => { p with agree := none }) ≠ some { h with agree := none } →
      exec (.rekeyHello i ⟨hop, h⟩) s = .next (u.linkDown l))
  ∧ (∀ (s u : State) (i : LinkId) (hop : HopPart) (h : Hello) (l : Link) (k : LinkCrypt) (pk : KeyAgreement), s.link? i = some l →
      l.state = .up → s.controlIn l hop 0x60 = (true, u) →
      l.peer.map (fun p => { p with agree := none }) = some { h with agree := none } → l.crypt = some k → h.agree = some pk →
      u.agreementOk h pk = true → pk.keyCount = (k.keyCount + 1) % 256 → exec (.rekeyHello i ⟨hop, h⟩) s = .next (u.rekey l k h pk))
  ∧ (∀ (s : State) (i : LinkId) (l : Link) (k : LinkCrypt), s.link? i = some l → l.state = .up → l.crypt = some k →
      2 ^ 48 - 2 ^ 20 ≤ k.sendCtr → exec (.rekeyDeadline i) s = .next (s.linkDown l))
  ∧ (∀ (s : State) (i : LinkId) (l : Link) (k : LinkCrypt), s.link? i = some l → l.crypt = some k → k.sendCtr < 2 ^ 48 - 2 ^ 20 →
      exec (.rekeyDeadline i) s = .next s)
  ∧ (∀ (s : State) (l : Link) (k : LinkCrypt) (f : Frame), l.crypt = some k → 2 ^ 48 - 2 ^ 20 ≤ k.sendCtr →
      s.linkSend l f = s.putLink { l with queue := l.queue ++ [f] })

/-- Link-level retry and credits: what a DATA frame, a LACK, an LNACK and the timers do (R234, R235, R239, R241, R270). That a frame of an
unknown CLASS or TYPE is dropped once the link has taken it is the model's reading (log entry 76). -/
def Obligations.LinkRetry : Prop :=
  (∀ (s u : State) (i : LinkId) (hop : HopPart) (f : Frame) (l : Link), s.link? i = some l → l.state = .up →
    u = s.countRx (s.linkPort l.id) hop.length → hop.fcsOk = false →
    exec (.dataFrameReceive i hop f) s = .next ((u.bump (R.FAB_PORT_ERR_UNCORRECTED (s.linkPort l.id))).sendLnack l))
  ∧ (∀ (s u : State) (i : LinkId) (hop : HopPart) (f : Frame) (l : Link), s.link? i = some l → l.state = .up →
      u = s.countRx (s.linkPort l.id) hop.length → hop.fcsOk = true → u.layoutOk l.id hop (u.daOf l.id u.node f) = false →
      exec (.dataFrameReceive i hop f) s = .next u)
  ∧ (∀ (s : State) (l : LinkId) (hop : HopPart) (da : Nat), s.layoutOk l hop da = true ↔ hop.eth.etherType = s.reg R.FAB_CTRL_ETHERTYPE
      ∧ hop.length ≤ 4182 ∧ hop.eth.da = da
      ∧ (hop.eth.tag = none ∧ s.tagged l = false ∨ ∃ t, hop.eth.tag = some t ∧ s.tagged l = true ∧ t % 4096 = s.reg R.FAB_VLAN_VID))
  ∧ (∀ (s u : State) (i : LinkId) (hop : HopPart) (f : Frame) (l : Link), s.link? i = some l → l.state = .up →
      u = s.countRx (s.linkPort l.id) hop.length → hop.fcsOk = true → u.layoutOk l.id hop (u.daOf l.id u.node f) = true →
      hop.proto ≠ l.proto ∨ hop.kind ≠ 0 → exec (.dataFrameReceive i hop f) s
        = .next (u.bump (R.FAB_DIE_STATS_UNKNOWN_DROPS (s.linkPort l.id / 4))))
  ∧ (∀ (s u : State) (i : LinkId) (hop : HopPart) (f : Frame) (l : Link), s.link? i = some l → l.state = .up →
      u = s.countRx (s.linkPort l.id) hop.length → hop.fcsOk = true → u.layoutOk l.id hop (u.daOf l.id u.node f) = true →
      hop.proto = l.proto → hop.kind = 0 → l.authBad hop = true → exec (.dataFrameReceive i hop f) s
        = .next ((u.bump (R.FAB_PORT_ERR_AUTH (s.linkPort l.id))).sendLnack l))
  ∧ (∀ (s u : State) (i : LinkId) (hop : HopPart) (f : Frame) (l : Link), s.link? i = some l → l.state = .up →
      u = s.countRx (s.linkPort l.id) hop.length → hop.fcsOk = true → u.layoutOk l.id hop (u.daOf l.id u.node f) = true →
      hop.proto = l.proto → hop.kind = 0 → l.authBad hop = false → hop.lseq ≠ l.rxSeq → exec (.dataFrameReceive i hop f) s
        = .next (u.sendLnack l))
  ∧ (∀ (s u : State) (i : LinkId) (hop : HopPart) (f : Frame) (l v : Link), s.link? i = some l → l.state = .up →
      u = s.countRx (s.linkPort l.id) hop.length → hop.fcsOk = true → u.layoutOk l.id hop (u.daOf l.id u.node f) = true →
      hop.proto = l.proto → hop.kind = 0 → hop.encrypted = false → l.crypt = none → hop.lseq = l.rxSeq →
      v = { l with rxSeq := (l.rxSeq + 1) % 4096 } →
      l.peer.any (·.nodeValid) = true → f.body.cls ≠ .management → hop.known f = true → exec (.dataFrameReceive i hop f) s
        = .next (((u.linkAck v hop.toHop).sendControl v f.body.cls.code f.units .lack).forwardAt (s.linkPort l.id / 4)
            { f with hops := f.hops + 1 }))
  ∧ (∀ (s u : State) (i : LinkId) (hop : HopPart) (f : Frame) (l v : Link), s.link? i = some l → l.state = .up →
      u = s.countRx (s.linkPort l.id) hop.length → hop.fcsOk = true → u.layoutOk l.id hop (u.daOf l.id u.node f) = true →
      hop.proto = l.proto → hop.kind = 0 → hop.encrypted = false → l.crypt = none → hop.lseq = l.rxSeq →
      v = { l with rxSeq := (l.rxSeq + 1) % 4096 } →
      hop.cls ≠ f.body.cls.code ∨ hop.type ≠ f.body.type → exec (.dataFrameReceive i hop f) s
        = .next (((u.linkAck v hop.toHop).sendControl v f.body.cls.code f.units .lack).bump
            (R.FAB_DIE_STATS_UNKNOWN_DROPS (s.linkPort l.id / 4))))
  ∧ (∀ (s u : State) (i : LinkId) (hop : HopPart) (l : Link), s.link? i = some l → l.state = .up ∨ l.state = .draining →
      s.controlIn l hop 0x61 = (true, u) → exec (.lack i hop hop.credits) s
        = .next ((u.putLink ((l.acked hop.lack).credit hop.creditClass hop.credits)).pumpLink l.id l.queue.length))
  ∧ (∀ (s u : State) (i : LinkId) (hop : HopPart) (l v : Link), s.link? i = some l → l.state = .up → s.controlIn l hop 0x62 = (true, u) →
      l.queue = [] → v = (l.acked hop.lack).credit hop.creditClass hop.credits → exec (.lnack i hop) s
        = .next (if v.replay = [] then u.putLink v else (u.putLink v).replayAll v))
  ∧ (∀ (s u : State) (i : LinkId) (hop : HopPart) (l : Link), s.link? i = some l → l.state = .up →
      s.controlIn l hop 0x61 = (false, u) → exec (.lack i hop hop.credits) s = .next u)
  ∧ (∀ (s u : State) (i : LinkId) (hop : HopPart) (l : Link), s.link? i = some l → l.state = .up →
      s.controlIn l hop 0x62 = (false, u) → exec (.lnack i hop) s = .next u)
  ∧ (∀ (s : State) (i : LinkId) (l : Link), s.link? i = some l → l.state = .up → l.replay ≠ [] →
      exec (.linkReplayExpiry i) s = .next (s.replayAll l) ∧ exec (.linkTimeoutExpiry i) s = .next (s.linkDown l))
  ∧ (∀ (s : State) (i : LinkId) (l : Link), s.link? i = some l → l.replay = [] → l.queue = [] →
      exec (.linkReplayExpiry i) s = .next s ∧ exec (.linkTimeoutExpiry i) s = .next s)
  ∧ (∀ (s : State) (l v : Link), v = { l with replay := l.replay.map fun r => { r with replays := r.replays + 1 } } →
      s.replayAll l = (v.replay.foldl (fun u r => (u.count (R.FAB_PORT_TX_BYTES (u.linkPort l.id)) (u.linkBytes l r.frame)).emit
          (.frame l.id r.eth r.hop (l.crypt.map fun _ => r.counter) r.frame))
          ((s.count (R.FAB_PORT_ERR_REPLAYS (s.linkPort l.id)) l.replay.length).putLink v) |> fun t =>
        if (l.replay.any fun r => decide (r.limit ≤ r.replays + 1)) = true then t.linkDown v else t))
  ∧ (∀ (l : Link) (n : Nat), (l.acked n).replay = l.replay.filter fun r => decide (2048 ≤ (n + 4096 - r.lseq - 1) % 4096))

/-- Accesses of another node at their target: the checks of Table 9.13 in order, loads, stores and atomics performed or refused in the order
their source sent them, and space 3 (R253, R256, R257, R260, R263, R267, R268, Tables 9.11 and 9.13). -/
def Obligations.TargetAccesses : Prop :=
  (∀ (s : State) (src : Nat) (dev : Bool) (h : OpHdr) (p : Perm), s.transitOnly = true →
    s.targetCheck src dev h p = some .nodeResetting)
  ∧ (∀ (s : State) (src : Nat) (dev : Bool) (h : OpHdr) (p : Perm), s.transitOnly = false →
      s.targetMapped (gSpace h.addr) (gOff h.addr) h.len = false → s.targetCheck src dev h p = some .addrInvalid)
  ∧ (∀ (s : State) (src : Nat) (dev : Bool) (h : OpHdr) (p : Perm), s.transitOnly = false →
      s.targetMapped (gSpace h.addr) (gOff h.addr) h.len = true → gSpace h.addr = 3 → s.targetCheck src dev h p = some .accessDenied)
  ∧ (∀ (s : State) (src : Nat) (dev : Bool) (h : OpHdr) (p : Perm), s.transitOnly = false →
      s.targetMapped (gSpace h.addr) (gOff h.addr) h.len = true → gSpace h.addr ≠ 3 → src ≠ s.node → s.region? h.region = none →
      s.targetCheck src dev h p = some .keyInvalid)
  ∧ (∀ (s : State) (src : Nat) (dev : Bool) (h : OpHdr) (p : Perm) (r : Region), s.transitOnly = false →
      s.targetMapped (gSpace h.addr) (gOff h.addr) h.len = true → gSpace h.addr ≠ 3 → src ≠ s.node → s.region? h.region = some r →
      r.state = .revoking → s.targetCheck src dev h p = some .keyRevoked)
  ∧ (∀ (s : State) (src : Nat) (dev : Bool) (h : OpHdr) (p : Perm) (r : Region), s.transitOnly = false →
      s.targetMapped (gSpace h.addr) (gOff h.addr) h.len = true → gSpace h.addr ≠ 3 → src ≠ s.node → s.region? h.region = some r →
      r.state ≠ .revoking → h.region = 0 ∧ dev = false ∨ r.anySource = false ∧ r.source ≠ src ∨ r.key ≠ h.key →
      s.targetCheck src dev h p = some .keyInvalid)
  ∧ (∀ (s : State) (src : Nat) (dev : Bool) (h : OpHdr) (p : Perm) (r : Region), s.transitOnly = false →
      s.targetMapped (gSpace h.addr) (gOff h.addr) h.len = true → gSpace h.addr ≠ 3 → src ≠ s.node → s.region? h.region = some r →
      r.state ≠ .revoking → h.region ≠ 0 ∨ dev = true → r.anySource = true ∨ r.source = src → r.key = h.key →
      s.targetCheck src dev h p = (if r.space = gSpace h.addr ∧ r.base ≤ gOff h.addr ∧ gOff h.addr + h.len ≤ r.base + r.length
        ∧ r.grants p = true then none else some .accessDenied))
  ∧ (∀ (s : State) (f : Frame) (h : OpHdr), f.body = .load h → s.due f = true → gSpace h.addr < 2 →
      s.targetCheck f.src f.dev h .read = none → s.poisoned (spaceMem (gSpace h.addr)) (gOff h.addr) h.len = none →
      let t := ((s.takeOrdered f).regionLooked f.src h).respond f
        (.loadResp h.tag .ok (s.rdBytes (spaceMem (gSpace h.addr)) (gOff h.addr) h.len)) false
      exec (.loadFrame f) s = .next (t.flow f.src).serveInbox)
  ∧ (∀ (s : State) (f : Frame) (h : OpHdr) (x : St), f.body = .load h → s.due f = true →
      gSpace h.addr < 2 → s.targetCheck f.src f.dev h .read = none →
      s.poisoned (spaceMem (gSpace h.addr)) (gOff h.addr) h.len = some x →
      let t := ((s.takeOrdered f).regionLooked f.src h).respond f (.loadResp h.tag .poisonRead
        (s.rdBytes (spaceMem (gSpace h.addr)) (gOff h.addr) h.len)) true
      exec (.loadFrame f) s = .next (t.flow f.src).serveInbox)
  ∧ (∀ (s : State) (f : Frame) (h : OpHdr) (x : St), f.body = .load h → s.due f = true →
      gSpace h.addr < 3 → s.targetCheck f.src f.dev h .read = some x →
      let t := (((s.takeOrdered f).regionLooked f.src h).bump R.FAB_STATS_KEY_REFUSALS).respond f (.loadResp h.tag x []) false
      exec (.loadFrame f) s = .next (t.flow f.src).serveInbox)
  ∧ (∀ (s : State) (f : Frame) (h : OpHdr), f.body = .load h → s.due f = true → gSpace h.addr = 2 →
      s.targetCheck f.src f.dev h .read = none →
      let t := ((s.takeOrdered f).regionLooked f.src h).respond f (.loadResp h.tag .addrInvalid []) false
      exec (.loadFrame f) s = .next (t.flow f.src).serveInbox)
  ∧ (∀ (s : State) (f : Frame) (h : OpHdr) (data : List Byte), f.body = .store h data → s.due f = true →
      gSpace h.addr < 2 → s.targetCheck f.src f.dev { h with len := data.length } .write = none →
      let t := (((s.takeOrdered f).regionLooked f.src { h with len := data.length }).place (spaceMem (gSpace h.addr)) (gOff h.addr)
        data f.poison).respond f (.storeResp h.tag .ok) false
      exec (.storeFrame f) s = .next (t.flow f.src).serveInbox)
  ∧ (∀ (s : State) (f : Frame) (h : OpHdr) (data : List Byte) (x : St), f.body = .store h data → s.due f = true →
      gSpace h.addr < 3 → s.targetCheck f.src f.dev { h with len := data.length } .write = some x →
      let t := (((s.takeOrdered f).regionLooked f.src { h with len := data.length }).bump R.FAB_STATS_KEY_REFUSALS).respond f
        (.storeResp h.tag x) false
      exec (.storeFrame f) s = .next (t.flow f.src).serveInbox)
  ∧ (∀ (s : State) (f : Frame) (h : OpHdr) (aop operand compare : Nat), f.body = .atomic h aop operand compare → s.due f = true →
      gSpace h.addr < 2 → s.targetCheck f.src f.dev { h with len := 8 } .atomic = none →
      gOff h.addr % 8 = 0 → aop ≤ 7 →
      let t := (((s.takeOrdered f).regionLooked f.src h).wrNum (spaceMem (gSpace h.addr)) (gOff h.addr) 8 (atomicOp 64 aop
          (s.rdNum (spaceMem (gSpace h.addr)) (gOff h.addr) 8) operand compare)).respond f (.atomicResp h.tag .ok
            (if aop = 0 then 0 else s.rdNum (spaceMem (gSpace h.addr)) (gOff h.addr) 8)) false
      exec (.atomicFrame f) s = .next (t.flow f.src).serveInbox)
  ∧ (∀ (s : State) (f : Frame) (h : OpHdr) (aop operand compare : Nat), f.body = .atomic h aop operand compare → s.due f = true →
      gSpace h.addr < 3 → s.targetCheck f.src f.dev { h with len := 8 } .atomic = none →
      gOff h.addr % 8 ≠ 0 ∨ 7 < aop →
      let t := (((s.takeOrdered f).regionLooked f.src h).bump R.FAB_STATS_KEY_REFUSALS).respond f
        (.atomicResp h.tag .badParam 0) false
      exec (.atomicFrame f) s = .next (t.flow f.src).serveInbox)
  ∧ (∀ (s : State) (f : Frame) (h : OpHdr) (aop operand compare k : Nat), f.body = .atomic h aop operand compare → s.due f = true →
      gSpace h.addr = 2 → s.targetCheck f.src f.dev { h with len := 8 } .atomic = none →
      s.counterAt (gOff h.addr) = some k → barrierAt (gOff h.addr) = none → operand < 2 ^ 40 → compare < 2 ^ 40 → aop ≤ 7 →
      let t := (((s.takeOrdered f).regionLooked f.src h).setCounter k (atomicOp 40 aop (s.counter k) operand compare)).respond f
        (.atomicResp h.tag .ok (if aop = 0 then 0 else s.counter k)) false
      exec (.atomicFrame f) s = .next (t.flow f.src).serveInbox)
  ∧ (∀ (w a o c : Nat), atomicOp w 0 a o c = (a + o) % 2 ^ w ∧ atomicOp w 1 a o c = (a + o) % 2 ^ w ∧ atomicOp w 2 a o c = o
      ∧ atomicOp w 3 a o c = (if a = c then o else a) ∧ atomicOp w 4 a o c = max a o ∧ atomicOp w 5 a o c = min a o
      ∧ atomicOp w 6 a o c = a &&& o ∧ atomicOp w 7 a o c = a ||| o)
  ∧ (∀ (s : State) (f : Frame) (h : OpHdr), f.body = .load h → s.due f = true → gSpace h.addr = 3 →
      s.transitOnly = false → s.decodes 3 (gOff h.addr) h.len = true → s.isManager f.src = false →
      0x10000 ≤ gOff h.addr ∨ s.flag R.FAB_KEY_POLICY_SPACE3_READ_ANY = false →
      let t := (s.takeOrdered f).respond f (.loadResp h.tag .accessDenied []) false
      exec (.loadFrame f) s = .next (t.flow f.src).serveInbox)
  ∧ (∀ (s : State) (f : Frame) (h : OpHdr), f.body = .load h → s.due f = true → gSpace h.addr = 3 →
      s.transitOnly = true ∨ s.decodes 3 (gOff h.addr) h.len = false →
      let t := ((s.takeOrdered f).bump R.FAB_STATS_KEY_REFUSALS).respond f (.loadResp h.tag
        (if s.transitOnly = true then .nodeResetting else .addrInvalid) []) false
      exec (.loadFrame f) s = .next (t.flow f.src).serveInbox)
  ∧ (∀ (s u : State) (f : Frame) (h : OpHdr) (data : List Byte) (x : St), f.body = .store h data → s.due f = true →
      gSpace h.addr = 3 → s.transitOnly = false → s.decodes 3 (gOff h.addr) 8 = true →
      s.isManager f.src = true → data.length = 8 →
      (s.takeOrdered f).csrWrite true (gOff h.addr) (rdNat (fun k => data.getD k 0) 0 8) = (u, x) →
      let t := u.respond f (.storeResp h.tag x) false
      exec (.storeFrame f) s = .next (t.flow f.src).serveInbox)
  ∧ (∀ (s : State) (f : Frame), s.due f = false → exec (.loadFrame f) s = .next s ∧ exec (.storeFrame f) s = .next s
      ∧ exec (.atomicFrame f) s = .next s ∧ exec (.readFrame f) s = .next s ∧ exec (.signalFrame f) s = .next s
      ∧ exec (.arriveAtBarrier f) s = .next s ∧ exec (.remoteResponse f) s = .next s ∧ exec (.sprayNak f) s = .next s
      ∧ exec (.engineNak f) s = .next s)
  ∧ (∀ (s : State) (f g : Frame), s.fab.accepted.find? (·.src == f.src) = some g → (s.due f = true ↔ g = f))

/-- Ordered frames accepted at their destination and the operations that wait for sprayed data: channel state, signals, arrivals and the
limit of holding (R250, R251, R253 to R255, R287, R301). That ACCOUNTED stands when the first SYNC frame of a source makes its channel is
the model's reading (log entry 77). -/
def Obligations.FrameAcceptance : Prop :=
  (∀ (s : State) (f : Frame) (c : InChannel), f.body.cls = .ordered → f.body ≠ .oack → f.body.resetting = false →
    let u := ((s.takeFrame f).takeOack f.src f.oack).contact f.src
    u.inCh? f.src = some c → c.known = true → c.incarnation = f.incarnation → f.oseq = c.expected → exec (.orderedFrameAccept f) s
      = .next ((u.putIn { c with expected := (c.expected + 1) % 2 ^ 32, oackOwed := true }).admitFrame f))
  ∧ (∀ (s : State) (f : Frame), f.body.cls = .ordered → f.body ≠ .oack → f.body.resetting = false →
      let u := ((s.takeFrame f).takeOack f.src f.oack).contact f.src
      (∀ c, u.inCh? f.src = some c → c.known = false) → f.sync = false →
      exec (.orderedFrameAccept f) s = .next (u.sendOack f.src true))
  ∧ (∀ (s : State) (f : Frame), f.body.cls = .ordered → f.body ≠ .oack → f.body.resetting = false →
      let u := ((s.takeFrame f).takeOack f.src f.oack).contact f.src
      u.inCh? f.src = none → f.sync = true → f.oseq = 0 →
      exec (.orderedFrameAccept f) s = .next ((u.putIn ⟨f.src, true, f.incarnation, 1, 0, false, true⟩).admitFrame f))
  ∧ (∀ (s : State) (f : Frame) (c : InChannel), f.body.cls = .ordered → f.body ≠ .oack → f.body.resetting = false →
      let u := ((s.takeFrame f).takeOack f.src f.oack).contact f.src
      u.inCh? f.src = some c → c.known = false → f.sync = true → f.oseq = 0 →
      exec (.orderedFrameAccept f) s = .next ((u.putIn ⟨f.src, true, f.incarnation, 1, c.accounted, false, true⟩).admitFrame f))
  ∧ (∀ (s : State) (f : Frame) (c : InChannel), f.body.cls = .ordered → f.body ≠ .oack → f.body.resetting = false →
      let u := ((s.takeFrame f).takeOack f.src f.oack).contact f.src
      u.inCh? f.src = some c → c.known = true → f.sync = true → f.oseq = 0 → f.incarnation ≠ c.incarnation →
      exec (.orderedFrameAccept f) s = .next ((((u.dropHeldOf f.src).clearSource f.src).putIn ⟨f.src, true, f.incarnation, 1, 0, false, true⟩).admitFrame f))
  ∧ (∀ (s : State) (f : Frame) (c : InChannel), f.body.cls = .ordered → f.body ≠ .oack → f.body.resetting = false →
      let u := ((s.takeFrame f).takeOack f.src f.oack).contact f.src
      u.inCh? f.src = some c → c.known = true → c.incarnation = f.incarnation → f.oseq ≠ c.expected →
      exec (.orderedFrameAccept f) s = .next (if oackCovers c.expected f.oseq = true then u.putIn { c with oackOwed := true }
        else u.sendOack f.src false))
  ∧ (∀ (s : State) (f : Frame) (c : InChannel), f.body.cls = .ordered → f.body ≠ .oack → f.body.resetting = false →
      let u := ((s.takeFrame f).takeOack f.src f.oack).contact f.src
      u.inCh? f.src = some c → c.known = true → c.incarnation ≠ f.incarnation → f.sync = false →
      exec (.orderedFrameAccept f) s = .next u)
  ∧ (∀ (s : State) (f : Frame), f.body.cls ≠ .ordered → exec (.orderedFrameAccept f) s = .next (s.takeFrame f))
  ∧ (∀ (s : State) (f : Frame) (e : Engine) (first last : Bool) (n off len : Nat) (m : Option Msg), f.body = .engine e first last n off len m →
      s.admitFrame f = ((s.queueFrame f).flow f.src).serveInbox)
  ∧ (∀ (s : State) (f : Frame),
      (∀ e first last n off len m, f.body ≠ .engine e first last n off len m) → s.admitFrame f = s.queueFrame f)
  ∧ (∀ (s : State) (f : Frame), s.blocked f = true ↔ s.transitOnly = false
      ∧ ∃ v, f.cover? = some v ∧ covered (s.inCh f.src).accounted v = false)
  ∧ (∀ (s : State) (f : Frame) (h : OpHdr) (cover v k : Nat), f.body = .signal h cover v → s.due f = true → s.blocked f = false →
      gSpace h.addr = 2 → s.counterAt (gOff h.addr) = some k → s.targetCheck f.src f.dev { h with len := 8 } .atomic = none →
      let t := (((s.takeOrdered f).regionLooked f.src { h with len := 8 }).addCounter k v).respond f (.signalResp h.tag .ok) false
      exec (.signalFrame f) s = .next (t.flow f.src).serveInbox)
  ∧ (∀ (s : State) (f : Frame) (h : OpHdr) (cover v : Nat), f.body = .signal h cover v → s.due f = true → s.blocked f = true →
      exec (.signalFrame f) s = .next (s.setHeld f.src true))
  ∧ (∀ (s : State) (f : Frame) (h : OpHdr) (cover v : Nat) (x : St), f.body = .signal h cover v → s.due f = true →
      s.blocked f = false → s.targetCheck f.src f.dev { h with len := 8 } .atomic = some x →
      let t := (((s.takeOrdered f).regionLooked f.src { h with len := 8 }).bump R.FAB_STATS_KEY_REFUSALS).respond f
        (.signalResp h.tag x) false
      exec (.signalFrame f) s = .next (t.flow f.src).serveInbox)
  ∧ (∀ (s u : State) (f : Frame) (h : OpHdr) (cover b : Nat) (a : ArriveMsg), f.body = .arrive h cover a → s.due f = true →
      s.blocked f = false → gSpace h.addr = 2 → barrierAt (gOff h.addr) = some b →
      s.targetCheck f.src f.dev { h with len := 8 } .atomic = none →
      u = (s.takeOrdered f).regionLooked f.src { h with len := 8 } →
      let t := ((u.respond f (.arriveResp h.tag (u.arrive b a).2) false).arrive b a).1
      exec (.arriveAtBarrier f) s = .next (t.flow f.src).serveInbox)
  ∧ (∀ (a c : Nat), covered a c = true ↔ (a % 2 ^ 40 + 2 ^ 40 - c % 2 ^ 40) % 2 ^ 40 < 2 ^ 39)
  ∧ (∀ (s : State) (src : Nat) (f : Frame), s.fab.accepted.find? (·.src == src) = some f → s.holding src = true →
      s.blocked f = true → s.flow src = s.setHeld src true)
  ∧ (∀ (s : State) (f : Frame) (h : OpHdr) (cover v : Nat), s.fab.accepted = [f] → f.body = .signal h cover v →
      s.holding f.src = true → s.blocked f = false → s.flow f.src = ((s.setHeld f.src false).takeOrdered f).applySignal f)
  ∧ (∀ (s : State) (src : Nat) (f : Frame) (h : OpHdr) (cover v : Nat), s.fab.accepted.find? (·.src == src) = some f →
      s.holding src = true → f.body = .signal h cover v → exec (.coverHoldExpiry src) s
        = .next ((((s.setHeld src false).takeOrdered f).respond f (.signalResp h.tag .signalUncovered) false).flow src))
  ∧ (∀ (s : State) (src : Nat) (f : Frame) (h : OpHdr) (cover : Nat) (a : ArriveMsg),
      s.fab.accepted.find? (·.src == src) = some f → s.holding src = true → f.body = .arrive h cover a →
      exec (.coverHoldExpiry src) s
        = .next ((((s.setHeld src false).takeOrdered f).respond f (.arriveResp h.tag .signalUncovered) false).flow src))
  ∧ (∀ (s : State) (src : Nat), s.holding src = false → exec (.coverHoldExpiry src) s = .next s)
  ∧ (∀ (s : State) (src n : Nat), s.account src n
      = (s.putIn { s.inCh src with accounted := ((s.inCh src).accounted + n) % 2 ^ 40 }).flow src)

/-- Management frames at their target, an access of the node's own but for the blocks a management frame may not write, and fabric notices
at a manager (R245, R246). -/
def Obligations.ManagementAndNotices : Prop :=
  (∀ (s t : State) (f : Frame) (ctl tag v : Nat), f.body = .mgmtRead ctl tag → f.pathIndex = f.path.length →
    s.isManager f.src = true → (s.takeFrame f).csrRead ctl = (.ok v, t) →
    exec (.mgmtFrame f) s = .next (t.mgmtAnswer f tag v .ok))
  ∧ (∀ (s t : State) (f : Frame) (ctl tag v : Nat) (x : St), f.body = .mgmtWrite ctl tag v → f.pathIndex = f.path.length →
      s.isManager f.src = true → ctl < 0x500000 ∨ 0x700000 ≤ ctl → (s.takeFrame f).csrWrite false ctl v = (t, x) →
      exec (.mgmtFrame f) s = .next (t.mgmtAnswer f tag 0 x))
  ∧ (∀ (s : State) (f : Frame) (ctl tag v : Nat), f.body = .mgmtWrite ctl tag v → f.pathIndex = f.path.length →
      s.isManager f.src = true → 0x500000 ≤ ctl → ctl < 0x700000 →
      exec (.mgmtFrame f) s = .next ((s.takeFrame f).mgmtAnswer f tag 0 .accessDenied))
  ∧ (∀ (s t : State) (f : Frame) (ctl tag v : Nat) (x : St), f.body = .mgmtWrite ctl tag v → f.pathIndex = f.path.length →
      s.managers = [] → s.flag R.CAP_NODE_NODE_VALID = false → ctl < 0x500000 ∨ 0x700000 ≤ ctl →
      ((s.takeFrame f).setRegs [(R.FAB_MANAGER_VALID 0, 1), (R.FAB_MANAGER_NODE 0, f.src)]).csrWrite false ctl v = (t, x) →
      exec (.mgmtFrame f) s = .next (t.mgmtAnswer f tag 0 x))
  ∧ (∀ (s : State) (f : Frame), f.pathIndex = f.path.length → s.isManager f.src = false →
      s.managers ≠ [] ∨ s.flag R.CAP_NODE_NODE_VALID = true → exec (.mgmtFrame f) s = .next (s.takeFrame f))
  ∧ (∀ (s : State) (f : Frame), f.pathIndex ≠ f.path.length → exec (.mgmtFrame f) s = .next (s.takeFrame f))
  ∧ (∀ (s : State) (f : Frame), exec (.mgmtResp f) s = .next (s.takeFrame f))
  ∧ (∀ (s : State) (src : Nat) (e : EvtWords), exec (.fabricNotice src e) s
      = .next (((s.takeMsg src (.notice e)).ringPost ⟨Ev.fabricNotice.code, e.severity, 0xFFF, s.aon % 2 ^ 32,
        e.code % 65536 * 2 ^ 48 + src % 65536 * 2 ^ 32 + e.severity % 16 * 2 ^ 28, e.arg0⟩ false).postOverwritten))
  ∧ (∀ (s : State) (f : Frame) (tag value p : Nat) (l : Link) (x : St), f.ingress = some p →
      s.link? (.port p) = some l → l.state = .up → s.reg (R.FAB_PORT_CFG_MODE p) = 0 → s.mgmtAnswer f tag value x
        = s.linkSend l { mkFrame s.node f.src false (.mgmtResp tag value x) with
            path := p :: ((f.ret.take f.pathIndex).drop 1).reverse, pathIndex := 1, ret := [0], hops := 1 })

/-- The region table of mordant keys: REGISTER, REVOKE in its two phases, READ, the entry's home, and FAB_REGION_BASE (R261, R262, R264,
Table 9.12). -/
def Obligations.RegionCommands : Prop :=
  (∀ (s : State) (n : Nat) (r : Region), s.flag R.FAB_REGION_STATUS_BUSY = false → s.flag R.FAB_KEY_POLICY_LOCK = false →
    s.argRegion n = some r → s.region? n = none → exec (.regionRegister n) s = .next ((s.putRegion r).regionStatus 1 n .ok))
  ∧ (∀ (s : State) (n : Nat) (r : Region), s.flag R.FAB_REGION_STATUS_BUSY = false → s.flag R.FAB_KEY_POLICY_LOCK = false →
      s.argRegion n = some r → (s.region? n).isSome = true →
      exec (.regionRegister n) s = .next (s.regionStatus 1 n .tableBusy))
  ∧ (∀ (s : State) (n : Nat), s.flag R.FAB_REGION_STATUS_BUSY = false → s.flag R.FAB_KEY_POLICY_LOCK = false →
      s.argRegion n = none → exec (.regionRegister n) s = .next (s.regionStatus 1 n .badParam))
  ∧ (∀ (s : State) (n : Nat), n = 0 ∨ bitsOf (s.reg R.FAB_REGION_ARG0_WORD) 58 57 = 3 ∨ s.reg R.FAB_REGION_ARG2_WORD = 0 →
      s.argRegion n = none)
  ∧ (∀ (s : State) (n : Nat) (r : Region), s.argRegion n = some r → r.num = n ∧ r.state = .valid ∧ 0 < n ∧ 0 < r.length ∧ r.space < 3
      ∧ r.base = s.reg R.FAB_REGION_ARG1_WORD ∧ r.length = s.reg R.FAB_REGION_ARG2_WORD
      ∧ (r.space = 0 → r.base + r.length ≤ s.hbmBytes))
  ∧ (∀ (s : State) (n : Nat) (r : Region), s.flag R.FAB_REGION_STATUS_BUSY = false → s.flag R.FAB_KEY_POLICY_LOCK = false →
      0 < n → s.region? n = some r → r.state = .valid → exec (.regionRevoke n) s
        = .next (((s.putRegion { r with state := .revoking }).onFab fun f => { f with revoking := some n }).setRegs
          [(R.FAB_REGION_CMD_OP, 2), (R.FAB_REGION_CMD_REGION, n), (R.FAB_REGION_STATUS_BUSY, 1),
            (R.FAB_REGION_STATUS_INVALIDATED, 1), (R.FAB_REGION_STATUS_INFLIGHT, min r.inflight 65535)]))
  ∧ (∀ (s : State) (n : Nat), s.flag R.FAB_REGION_STATUS_BUSY = false → s.flag R.FAB_KEY_POLICY_LOCK = false →
      s.region? n = none ∨ (∃ r, s.region? n = some r ∧ r.state ≠ .valid) ∨ n = 0 →
      exec (.regionRevoke n) s = .next (s.regionStatus 2 n .badState))
  ∧ (∀ (s : State) (n : Nat), s.flag R.FAB_REGION_STATUS_BUSY = true ∨ s.flag R.FAB_KEY_POLICY_LOCK = true →
      exec (.regionRegister n) s = .next s ∧ exec (.regionRevoke n) s = .next s)
  ∧ (∀ (s : State) (n : Nat) (r : Region), s.flag R.FAB_REGION_STATUS_BUSY = false → s.region? n = some r → exec (.regionRead n) s
      = .next ((s.setRegs [(R.FAB_REGION_ARG0_WORD, r.words.1), (R.FAB_REGION_ARG1_WORD, r.base), (R.FAB_REGION_ARG2_WORD,
        r.length)]).regionStatus 3 n .ok))
  ∧ (∀ (s : State) (n : Nat), s.flag R.FAB_REGION_STATUS_BUSY = false → s.region? n = none → exec (.regionRead n) s
      = .next ((s.setRegs [(R.FAB_REGION_ARG0_WORD, 0), (R.FAB_REGION_ARG1_WORD, 0), (R.FAB_REGION_ARG2_WORD, 0)]).regionStatus 3 n
        .ok))
  ∧ (∀ (s : State) (n : Nat) (r : Region), s.fab.revoking = some n → s.region? n = some r → r.inflight = 0 →
      exec .revokeComplete s = .next (((s.onFab fun f => { f with regions := f.regions.filter (·.num != n), revoking := none }).setRegs [(R.FAB_REGION_STATUS_BUSY, 0),
          (R.FAB_REGION_STATUS_STATUS, 0)]).post .regionRevoked 0xFFF (formR .ok s.node n 0)))
  ∧ (∀ (s : State) (n : Nat) (r : Region), s.fab.revoking = some n → s.region? n = some r → r.inflight ≠ 0 →
      exec .revokeComplete s = .next s)
  ∧ (∀ (s : State) (r : Region), s.region? 0 = some r → r.state = .valid ∧ r.permR = true ∧ r.permW = true ∧ r.anySource = true
      ∧ r.key = s.reg R.FAB_POOL_KEY_KEY ∧ r.base = 65536 * s.reg R.PGE_KV_POOL_BASE)
  ∧ (∀ (s : State) (b : Nat), b < 2 ^ 46 → b % 2 ^ 25 = 0 → s.hbmMapped b (2 ^ 25) = true → s.touchesReserved b (2 ^ 25) = false →
      s.touchesPool b (2 ^ 25) = false → s.fab.regions = [] →
      exec (.fabRegionBaseWrite b) s = .next (s.setReg R.FAB_REGION_BASE_BASE b))
  ∧ (∀ (s : State) (b : Nat), s.fab.regions ≠ [] ∨ b % 2 ^ 25 ≠ 0 → exec (.fabRegionBaseWrite b) s = .next s)

/-- Ordered channels at their source: acknowledgement, gaps, retransmission, restart, unreachable destinations and probes (R250 to R252). -/
def Obligations.OrderedChannels : Prop :=
  (∀ (s : State) (f : Frame), f.body = .oack → f.sync = true → exec (.oack f) s = .next ((s.takeFrame f).restartChannel f.src))
  ∧ (∀ (s : State) (f : Frame) (c : OutChannel), f.body = .oack → f.sync = false → (s.takeFrame f).out? f.src = some c →
      (c.unacked.filter fun g => !oackCovers f.oack g.oseq).length = c.unacked.length → exec (.oack f) s
        = .next ((s.takeFrame f).retransmit f.src))
  ∧ (∀ (s : State) (f : Frame) (c : OutChannel), f.body = .oack → f.sync = false → (s.takeFrame f).out? f.src = some c →
      (c.unacked.filter fun g => !oackCovers f.oack g.oseq).length < c.unacked.length → c.waiting = [] → c.unreachable = false →
      exec (.oack f) s = .next (((s.takeFrame f).putOut { c with
        unacked := c.unacked.filter fun g => !oackCovers f.oack g.oseq
        limits := c.limits.filter fun x => !oackCovers f.oack x.1
        retx := 0 }).pumpDst f.src))
  ∧ (∀ (s : State) (f : Frame) (c : OutChannel), f.body = .oack → f.sync = false → (s.takeFrame f).out? f.src = some c →
      c.unacked.filter (fun g => !oackCovers f.oack g.oseq) = [] → c.unacked ≠ [] → c.waiting = [] → c.unreachable = true →
      exec (.oack f) s = .next ((((((s.takeFrame f).putOut { c with
        unacked := []
        limits := c.limits.filter fun x => !oackCovers f.oack x.1
        retx := 0
        unreachable := false }).markReachable
        f.src).post .nodeReachable 0xFFF (formO .ok f.src 0 0)).regained f.src).pumpDst f.src))
  ∧ (∀ (s : State) (f : Frame), f.body ≠ .oack → exec (.oack f) s = .next (s.takeFrame f))
  ∧ (∀ (s : State) (dst : Nat), (s.outCh dst).unreachable = true ∨ (s.outCh dst).unacked = [] →
      exec (.oretxExpiry dst) s = .next s)
  ∧ (∀ (s : State) (dst : Nat), (s.outCh dst).unreachable = false → (s.outCh dst).unacked ≠ [] →
      (s.outCh dst).retx + 1 < (s.outCh dst).retxLimit → exec (.oretxExpiry dst) s
        = .next ((s.putOut { s.outCh dst with retx := (s.outCh dst).retx + 1 }).resend dst (s.outCh dst).unacked))
  ∧ (∀ (s : State) (dst : Nat), (s.outCh dst).unreachable = false → (s.outCh dst).unacked ≠ [] →
      (s.outCh dst).retxLimit ≤ (s.outCh dst).retx + 1 → exec (.oretxExpiry dst) s
        = .next (((s.putOut { s.outCh dst with retx := (s.outCh dst).retx + 1 }).resend dst (s.outCh dst).unacked).nodeLost dst))
  ∧ (∀ (s : State) (dst : Nat), (s.outCh dst).unreachable = true → s.nodeLost dst = s)
  ∧ (∀ (s : State) (dst : Nat) (g : Frame) (gs : List Frame), (s.outCh dst).unreachable = true → (s.outCh dst).unacked = g :: gs →
      exec (.probeExpiry dst) s = .next (s.forward { g with oack := ((s.inCh? dst).map (·.expected)).getD 0 }))
  ∧ (∀ (s : State) (dst : Nat), (s.outCh dst).unreachable = false → exec (.probeExpiry dst) s = .next s)
  ∧ (∀ (s : State) (src : Nat) (c : InChannel), s.inCh? src = some c → c.oackOwed = true → exec (.standaloneOackExpiry src) s
      = .next ((s.putIn { c with oackOwed := false }).forward { mkFrame s.node src false .oack with incarnation := s.fab.incarnation, oack := c.expected }))
  ∧ (∀ (s : State) (src : Nat), (∀ c, s.inCh? src = some c → c.oackOwed = false) → exec (.standaloneOackExpiry src) s = .next s)
  ∧ (∀ (inc i : Nat) (f : Frame), (restartFrame inc i f).oseq = i ∧ (restartFrame inc i f).sync = (i == 0)
      ∧ (restartFrame inc i f).incarnation = inc ∧ (restartFrame inc i f).dst = f.dst)

/-- The end of a remote operation: its answer, its timeout, a forwarded command without an answer, refused sprayed
packets and refused engine messages at their source (R36, R255, R265 to R267, R330, R434). -/
def Obligations.RemoteOperations : Prop :=
  (∀ (s : State) (f : Frame) (tag : Nat) (kinds : List RemoteKind) (a : Answer) (o : RemoteOp), f.body.answer? = some (tag, kinds, a) →
    s.due f = true → s.remote? tag = some o → o.dst = f.src → kinds.contains o.kind = true →
    a.status ≠ .signalUncovered →
    let t := (s.takeOrdered f).completeRemote o { a with poison := f.poison }
    exec (.remoteResponse f) s = .next ((t.flow f.src).serveInbox))
  ∧ (∀ (s : State) (f : Frame) (tag : Nat) (kinds : List RemoteKind) (a : Answer), f.body.answer? = some (tag, kinds, a) →
      s.due f = true → s.remote? tag = none →
      let t := (s.takeOrdered f).bump R.FAB_STATS_LATE_RESPONSES
      exec (.remoteResponse f) s = .next ((t.flow f.src).serveInbox))
  ∧ (∀ (s : State) (f : Frame), f.body.answer? = none → exec (.remoteResponse f) s = .next s)
  ∧ (∀ (s : State) (o : RemoteOp) (c done pc : Nat) (a : Answer), o.who = .core c done pc → o.kind = .load → a.status = .ok →
      s.completeRemote o a = ((s.dropRemote o.tag).place .op (c * obSize + o.dest) (a.data.take o.len) a.poison).instrAnswered c done
        pc)
  ∧ (∀ (s : State) (o : RemoteOp) (c done pc : Nat) (a : Answer), o.who = .core c done pc → o.kind = .load → a.status ≠ .ok →
      a.status ≠ .nodeResetting → a.status ≠ .remoteTimeout →
      s.completeRemote o a = ((s.dropRemote o.tag).poison .op (c * obSize + o.dest) o.len .poisonRead).instrAnswered c done pc)
  ∧ (∀ (s : State) (m : Mem) (off len k : Nat) (st : St), s.canonical → k < len → (s.poison m off len st).rdNum m (off + k) 1 = 0xFF)
  ∧ (∀ (s : State) (o : RemoteOp) (c done pc : Nat) (a : Answer), o.who = .core c done pc → o.kind = .signal → a.status ≠ .ok →
      a.status ≠ .nodeResetting → a.status ≠ .remoteTimeout →
      s.completeRemote o a = (s.dropRemote o.tag).coreFault c a.status pc 0x89)
  ∧ (∀ (s : State) (tag addr : Nat) (o : RemoteOp), s.remote? tag = some o → o.kind ≠ .read →
      lookupD 0 s.fab.timeoutPosted o.dst = s.aon / 1000 + 1 → exec (.remoteTimeoutExpiry (.frame tag addr)) s
        = .next ((s.bump R.FAB_STATS_TIMEOUTS).completeRemote o (noAnswer .remoteTimeout)))
  ∧ (∀ (s : State) (tag addr : Nat) (o : RemoteOp), s.remote? tag = some o → o.kind ≠ .read →
      lookupD 0 s.fab.timeoutPosted o.dst ≠ s.aon / 1000 + 1 → exec (.remoteTimeoutExpiry (.frame tag addr)) s
        = .next ((((s.bump R.FAB_STATS_TIMEOUTS).onFab fun f => { f with timeoutPosted := assign 0 o.dst (s.aon / 1000 + 1) f.timeoutPosted }).post .remoteTimeout (s.remoteCtx o)
          (formR .remoteTimeout o.dst o.region o.addr)).completeRemote o (noAnswer .remoteTimeout)))
  ∧ (∀ (s : State) (tag addr : Nat) (o : RemoteOp), s.remote? tag = some o → o.kind = .read → exec (.remoteTimeoutExpiry (.frame tag addr)) s
      = .next (if s.pieceAwaited o.tag addr = true then
          (((s.bump R.FAB_STATS_TIMEOUTS).postTimeout o).markUnreachable o.dst).readRefused o.tag addr .remoteTimeout
        else s))
  ∧ (∀ (s : State) (tag addr : Nat), s.remote? tag = none → exec (.remoteTimeoutExpiry (.frame tag addr)) s = .next s)
  ∧ (∀ (s : State) (ref n tenant first : Nat) (c : FwdCmd) (e : Engine) (g : Frame), s.hcp.later = [.forwarded ref n c tenant none] →
      (s.outCh n).unacked = [g] → g.body = .engine e true true first 0 0 (some (.command c tenant ref)) →
      exec (.remoteTimeoutExpiry (.command ref)) s
        = .next (((s.markUnreachable n).dropForwarded ref).toDeputy c tenant ref .nodeUnreachable))
  ∧ (∀ (s : State) (ref n tenant first : Nat) (c : FwdCmd) (e : Engine) (g : Frame) (st : St),
      s.hcp.later = [.forwarded ref n c tenant (some st)] →
      (s.outCh n).unacked = [g] → g.body = .engine e true true first 0 0 (some (.command c tenant ref)) →
      exec (.remoteTimeoutExpiry (.command ref)) s = .next (((s.markUnreachable n).dropForwarded ref).hostReply ref st []))
  ∧ (∀ (s : State) (ref n tenant : Nat) (c : FwdCmd) (st : Option St), s.hcp.later = [.forwarded ref n c tenant st] →
      (s.outCh n).unacked = [] → exec (.remoteTimeoutExpiry (.command ref)) s = .next s)
  ∧ (∀ (s : State) (f : Frame) (st : St) (region addr id : Nat), f.body = .sprayNak st region addr id → s.due f = true →
      id < 2 ^ 31 →
      let t := (s.takeOrdered f).post (if st = .keyRevoked then .keyRevoked else .remoteRefused)
        (s.writeCtx f.src id) (formR st f.src region addr)
      exec (.sprayNak f) s = .next ((t.flow f.src).serveInbox))
  ∧ (∀ (s : State) (f : Frame) (st : St) (region addr id : Nat) (o : RemoteOp), f.body = .sprayNak st region addr id →
      s.due f = true → 2 ^ 31 ≤ id → s.remote? (id - 2 ^ 31) = some o →
      let t := ((s.takeOrdered f).post (if st = .keyRevoked then .keyRevoked else .remoteRefused) (s.remoteCtx o)
          (formR st f.src region addr)).readRefused (id - 2 ^ 31) addr st
      exec (.sprayNak f) s = .next ((t.flow f.src).serveInbox))
  ∧ (∀ (s : State) (f : Frame) (e : Engine) (n : Nat) (m : Msg), f.body = .engineNak e n m .nodeResetting → s.due f = true →
      m.mustLearn = true →
      let t := ((s.takeOrdered f).markUnreachable f.src).retryLater f.src m
      exec (.engineNak f) s = .next ((t.flow f.src).serveInbox))
  ∧ (∀ (s : State) (f : Frame) (e : Engine) (n : Nat) (m : Msg) (st : St), f.body = .engineNak e n m st → st ≠ .nodeResetting →
      s.due f = true →
      exec (.engineNak f) s = .next ((s.takeOrdered f).flow f.src).serveInbox)
  ∧ (∀ (s : State) (dst : Nat) (r : NakRetry) (m : Msg) (ms : List Msg), s.fab.nakRetries = [r] → r.dst = dst →
      r.refused = m :: ms → r.resent = false → s.stillSend m = true → exec (.engineNakRetryExpiry dst) s
        = .next (((s.onFab fun f => { f with nakRetries := [] }).sendMsg dst m).onFab fun f => { f with nakRetries := f.nakRetries ++ [{ r with resent := true }] }))
  ∧ (∀ (s : State) (dst : Nat) (r : NakRetry) (m : Msg) (ms : List Msg), s.fab.nakRetries = [r] → r.dst = dst →
      r.refused = m :: ms → r.resent = true → exec (.engineNakRetryExpiry dst) s
        = .next (((s.onFab fun f => { f with nakRetries := [] }).contact dst).sendEach dst (ms ++ r.behind)))
  ∧ (∀ (s : State) (n : Nat), n ≠ s.node → (s.markUnreachable n).rse.unreachable.contains n = true)
  ∧ (∀ (s : State) (n : Nat), (s.markReachable n).rse.unreachable.contains n = false)

/-- Transfer queues and the work requests that run at this node: when a request starts and fails at its start, its completion, the requests
NOP, COPY, ATOMIC, SIGNAL and UMBER, and the queue registers (R258, R273 to R281, R290, R298, R299, R344). -/
def Obligations.TransferQueues : Prop :=
  (∀ (s : State) (q : Nat), s.mayStart q = true → s.flag (R.XFR_Q_A_ERROR q) = false ∧ (s.xq q).next < s.postedOf q
    ∧ (s.flightsOf q).length < s.reg (R.XFR_Q_B_INFLIGHT_MAX q) ∧ s.waitOk q (s.workAt q (s.xq q).next) = true
    ∧ ((s.workAt q (s.xq q).next).fence = true → s.flightsOf q = [])
    ∧ ((s.workAt q (s.xq q).next).afterInject = true → ∀ r, r ∈ s.flightsOf q → s.allInjected r = true))
  ∧ (∀ (s : State) (q : Nat), s.mayStart q = false → exec (.xfrWrite q) s = .next s ∧ exec (.xfrRead q) s = .next s
      ∧ exec (.xfrAtomic q) s = .next s ∧ exec (.xfrSignal q) s = .next s ∧ exec (.xfrCopy q) s = .next s
      ∧ exec (.xfrNop q) s = .next s ∧ exec (.umberWrite q) s = .next s ∧ exec (.umberRead q) s = .next s
      ∧ exec (.xfrReduce q) s = .next s)
  ∧ (∀ (s : State) (q : Nat) (x : XQueue) (w : WorkReq) (st : St), s.mayStart q = true → s.xq q = x → s.workAt q x.next = w →
      w.op = 6 ∨ opKnown w.op = false → s.startCheck q w = some st → exec (.xfrNop q) s
        = .next ((s.putXq { x with next := x.next + 1 }).completeReq ⟨q, x.next, w, .copy, false⟩ st))
  ∧ (∀ (s : State) (q : Nat) (w : WorkReq), opKnown w.op = false ∨ w.rsvdOk = false ∨ lengthOk w.op w.length = false ∨ w.waitKind = 3
      ∨ ((w.op = 5 ∨ w.op = 0x10) ∧ gNode w.remote ≠ 0) →
      s.startCheck q w = some .badParam)
  ∧ (∀ (s : State) (q : Nat) (x : XQueue) (w : WorkReq), s.mayStart q = true → s.xq q = x → s.workAt q x.next = w → w.op = 6 →
      s.startCheck q w = none → exec (.xfrNop q) s
        = .next ((s.putXq { x with next := x.next + 1 }).completeReq ⟨q, x.next, w, .copy, false⟩ .ok))
  ∧ (∀ (s : State) (q : Nat) (x : XQueue) (w : WorkReq), s.canonical → 64 ≤ q → s.mayStart q = true → s.xq q = x →
      s.workAt q x.next = w → w.op = 6 → w.notifyEn = false → s.startCheck q w = none → x.done = [] →
      s.reg (R.XFR_Q_C_COMPLETED q) = x.next → x.next + 1 < 2 ^ 64 → ∃ t, exec (.xfrNop q) s = .next t
        ∧ t.reg (R.XFR_Q_C_COMPLETED q) = x.next + 1 ∧ t.rdNum .hbm (s.slotOf q x.next) 1 = 1
        ∧ t.rdNum .hbm (s.slotOf q x.next + 2) 2 = 0)
  ∧ (∀ (s : State) (q : Nat) (x : XQueue) (w : WorkReq), s.mayStart q = true → s.xq q = x → s.workAt q x.next = w → w.op = 5 →
      s.startCheck q w = none → exec (.xfrCopy q) s
        = .next ((s.putXq { x with next := x.next + 1 }).putFlight ⟨q, x.next, w, .copy, false⟩))
  ∧ (∀ (s : State) (q idx : Nat) (r : XReq), (s.xfr.flights.find? fun x => x.q == q && x.idx == idx && decide (x.prog = .copy))
      = some r → r.wr.op = 5 → exec (.xfrCopyDone q idx) s
        = .next ((s.copyMem (spaceMem r.wr.locSpace) r.wr.locOff (spaceMem (gSpace r.wr.remote)) (gOff r.wr.remote)
          r.wr.length).completeReq r .ok))
  ∧ (∀ (s : State) (q : Nat) (x : XQueue) (w : WorkReq), s.mayStart q = true → s.xq q = x → s.workAt q x.next = w → w.op = 3 →
      s.startCheck q w = none → gNode w.remote = s.node → s.targetMapped (gSpace w.remote) (gOff w.remote) 8 = true →
      s.ownQueue = false → gSpace w.remote < 2 → gOff w.remote % 8 = 0 → 1 ≤ w.aop → w.aop ≤ 7 → exec (.xfrAtomic q) s
        = .next ((((s.putXq { x with next := x.next + 1 }).wrNum (spaceMem (gSpace w.remote)) (gOff w.remote) 8 (atomicOp 64 w.aop
          (s.rdNum (spaceMem (gSpace w.remote)) (gOff w.remote) 8) w.operand w.compare)).wrNum (spaceMem w.locSpace) w.locOff 8
            (s.rdNum (spaceMem (gSpace w.remote)) (gOff w.remote) 8)).completeReq ⟨q, x.next, w, .copy, false⟩ .ok))
  ∧ (∀ (s : State) (q : Nat) (x : XQueue) (w : WorkReq) (c : OutChannel), s.mayStart q = true → s.xq q = x → s.workAt q x.next = w →
      w.op = 4 → s.startCheck q w = none → gNode w.remote ≠ s.node → s.out? (gNode w.remote) = some c → c.unreachable = true →
      exec (.xfrSignal q) s
        = .next ((s.putXq { x with next := x.next + 1 }).completeReq ⟨q, x.next, w, .copy, false⟩ .nodeUnreachable))
  ∧ (∀ (s : State) (q k : Nat) (x : XQueue) (w : WorkReq), s.mayStart q = true → s.xq q = x → s.workAt q x.next = w → w.op = 4 →
      s.startCheck q w = none → gNode w.remote = s.node → s.ownWaits = false → gSpace w.remote = 2 → s.counterAt (gOff w.remote) = some k →
      exec (.xfrSignal q) s = .next (((s.putXq { x with next := x.next + 1 }).addCounter k w.operand).completeReq
        ⟨q, x.next, w, .copy, false⟩ .ok))
  ∧ (∀ (s : State) (q tag : Nat) (x : XQueue) (w : WorkReq), s.mayStart q = true → s.xq q = x → s.workAt q x.next = w → w.op = 4 →
      s.startCheck q w = none → gNode w.remote ≠ s.node → s.isUnreachable (gNode w.remote) = false → s.newTag = tag →
      exec (.xfrSignal q) s = .next ((((s.putXq { x with next := x.next + 1 }).addRemote ⟨tag, .signal, gNode w.remote, w.remote,
        w.region, 8, locAddr w.locSpace w.locOff, .queue q x.next⟩).putFlight ⟨q, x.next, w, .remote tag, true⟩).inject (s.queueComp q)
          (mkFrame s.node (gNode w.remote) (q < 64) (.signal ⟨w.remote, w.region, w.key, 8, tag⟩ 0 w.operand))))
  ∧ (∀ (s : State) (q i : Nat) (x : XQueue) (w : WorkReq) (p : Qp), s.mayStart q = true → s.xq q = x → s.workAt q x.next = w →
      w.op = 9 → s.startCheck q w = none → qpnIndex (w.operand % 2 ^ 24) = some i → s.qp? i = some p → p.error = false →
      ∃ t, exec (.umberRead q) s = .next t ∧ ((s.putXq { x with next := x.next + 1 }).putFlight ⟨q, x.next, w, .roce i, true⟩).roceIssue i
        ⟨.request q x.next, false, w.remote, w.key, w.length, w.locSpace, w.locOff, [], 0⟩ = some t)
  ∧ (∀ (s : State) (q i : Nat) (x : XQueue) (w : WorkReq) (p : Qp), s.mayStart q = true → s.xq q = x → s.workAt q x.next = w →
      w.op = 8 → s.startCheck q w = none → s.poisoned (spaceMem w.locSpace) w.locOff w.length = none →
      qpnIndex (w.operand % 2 ^ 24) = some i → s.qp? i = some p → p.error = false →
      ∃ t, exec (.umberWrite q) s = .next t
        ∧ ((s.putXq { x with next := x.next + 1 }).putFlight ⟨q, x.next, w, .roce i, true⟩).roceIssue i ⟨.request q x.next, true, w.remote,
          w.key, w.length, w.locSpace, w.locOff, s.rdBytes (spaceMem w.locSpace) w.locOff w.length, 0⟩ = some t)
  ∧ (∀ (s : State) (i : Nat) (p : Qp) (o : RoceOp), s.qp? i = some p → p.error = false → p.ops = [] → o.write = true → s.roceIssue i o
      = some ((s.putQp { p with ops := [{ o with psn := p.sqPsn }], sqPsn := psnAdd p.sqPsn (p.packets o.len) }).hostSend o.use.cls
          (.rdmaWrite i p.sqPsn o.va o.rkey o.data)))
  ∧ (∀ (s : State) (q v : Nat), 64 ≤ q → q < 1024 → s.postedOf q ≤ v → v < 2 ^ 40 →
      exec (.xfrQDWrite q v) s = .next (s.setCounter (s.postKey q) v))
  ∧ (∀ (s : State) (q v : Nat), q < 64 ∨ 1024 ≤ q ∨ v < s.postedOf q ∨ 2 ^ 40 ≤ v →
      exec (.xfrQDWrite q v) s = .next s)
  ∧ (∀ (s : State) (q v : Nat), 64 ≤ q → q < 1024 → s.flag (R.XFR_Q_A_VALID q) = false → s.flag (R.XFR_Q_A_BUSY q) = false →
      bitAt v 63 = true → bitsOf v 45 0 % 4096 = 0 → s.hbmFree (bitsOf v 45 0) (64 * 2 ^ s.reg (R.XFR_Q_B_DEPTH_LOG2 q)) = true →
      exec (.xfrQueueCfgWrite (0x301000 + 32 * q) v) s
        = .next ((((s.writeRw (0x301000 + 32 * q) v).setReg (R.XFR_Q_C_COMPLETED q) 0).putXq ⟨q, 0, [], []⟩).setCounter
          ((s.writeRw (0x301000 + 32 * q) v).postKey q) 0))
  ∧ (∀ (s : State) (q v : Nat), 64 ≤ q → q < 1024 → s.flag (R.XFR_Q_A_VALID q) = true → s.flag (R.XFR_Q_A_BUSY q) = false →
      bitAt v 63 = false → exec (.xfrQueueCfgWrite (0x301000 + 32 * q) v) s = .next (s.flushQueue q))
  ∧ (∀ (s : State) (q v : Nat), q < 64 ∨ 64 ≤ q ∧ q < 1024 ∧ s.flag (R.XFR_Q_A_VALID q) = true ∧ bitAt v 63 = true →
      exec (.xfrQueueCfgWrite (0x301000 + 32 * q) v) s = .next s)
  ∧ (∀ (s : State) (q v : Nat), 64 ≤ q → q < 1024 → s.flag (R.XFR_Q_A_VALID q) = false → s.flag (R.XFR_Q_A_BUSY q) = false →
      4 ≤ bitsOf v 32 28 → bitsOf v 32 28 ≤ 16 → 1 ≤ bitsOf v 22 16 → bitsOf v 22 16 ≤ 64 →
      exec (.xfrQueueCfgWrite (0x301008 + 32 * q) v) s = .next (s.writeRw (0x301008 + 32 * q) v))
  ∧ (∀ (s : State) (v : Nat), exec (.xfrCfgWrite v) s = .next (s.writeRw 0x300000 v))

/-- WRITEs: messages and packets at the source, message state and the rows of Table 10.4 at the destination, MSG_OPEN, MSG_DONE, MSG_ABORT
and their timeout (R254, R258, R265, R282 to R287, R299). -/
def Obligations.SprayedMessages : Prop :=
  (∀ (s : State) (q : Nat) (x : XQueue) (w : WorkReq), s.mayStart q = true → s.xq q = x → s.workAt q x.next = w → w.op = 1 →
    s.startCheck q w = none → gNode w.remote = s.node → exec (.xfrWrite q) s
      = .next (((s.putXq { x with next := x.next + 1 }).addSent s.node w.length).putFlight ⟨q, x.next, w, .copy, false⟩))
  ∧ (∀ (s : State) (q : Nat) (x : XQueue) (w : WorkReq), s.mayStart q = true → s.xq q = x → s.workAt q x.next = w → w.op = 1 →
      s.startCheck q w = none → gNode w.remote ≠ s.node → s.isUnreachable (gNode w.remote) = true → exec (.xfrWrite q) s
        = .next ((s.putXq { x with next := x.next + 1 }).completeReq ⟨q, x.next, w, .copy, false⟩ .nodeUnreachable))
  ∧ (∀ (s : State) (q : Nat) (x : XQueue) (w : WorkReq), s.mayStart q = true → s.xq q = x → s.workAt q x.next = w → w.op = 1 →
      s.startCheck q w = none → gNode w.remote ≠ s.node → s.isUnreachable (gNode w.remote) = false →
      (pieces (2 ^ 21) w.remote w.length).length ≤ 128 → exec (.xfrWrite q) s
        = .next ((s.putXq { x with next := x.next + 1 }).beginGroup ⟨q, x.next, w, .copy, false⟩ w.remote
          ((pieces (2 ^ 21) w.remote w.length).map (·.2)).sum (s.reg R.XFR_CFG_RETRY_LIMIT) none))
  ∧ (∀ (cut start len : Nat), 0 < cut → ((pieces cut start len).map (·.2)).sum = len)
  ∧ (∀ (cut start len : Nat) (p : Nat × Nat), 0 < cut → p ∈ pieces cut start len → 0 < p.2 ∧ start ≤ p.1 ∧ p.1 + p.2 ≤ start + len
      ∧ p.1 / cut = (p.1 + p.2 - 1) / cut)
  ∧ (∀ (s : State) (src first count : Nat) (st : St), (∀ r, r ∈ s.xfr.flights → gNode r.wr.remote ≠ src) →
      exec (.msgDone src first count st) s = .next (s.takeMsg src (.msgDone first count st)))
  ∧ (∀ (s : State) (src first count tries : Nat) (r : XReq) (g : MsgGroup) (b : Bool), s.xfr.flights = [r] →
      gNode r.wr.remote = src → r.prog = .write g [] none tries b → g.first = first → exec (.msgDone src first count .ok) s
        = .next ((((s.takeMsg src (.msgDone first count .ok)).onXfr fun t => { t with flights := [] }).completeReq r .ok).pumpDst src))
  ∧ (∀ (s : State) (src first count tries : Nat) (r : XReq) (g : MsgGroup) (b : Bool), s.xfr.flights = [r] →
      gNode r.wr.remote = src → r.prog = .write g [] none (tries + 1) b → g.first = first →
      exec (.msgDone src first count .xfrTimeout) s
        = .next (((((s.takeMsg src (.msgDone first count .xfrTimeout)).onXfr fun t => { t with flights := [] }).bump
          R.XFR_SRC_STATS_RETRIES).beginGroup r g.addr g.bytes tries none).pumpDst src))
  ∧ (∀ (s : State) (q idx tries : Nat) (r : XReq) (g : MsgGroup), (s.xfr.flights.find? fun x => x.q == q && x.idx == idx) = some r →
      r.prog = .write g [] none tries false → s.isUnreachable (gNode r.wr.remote) = false → exec (.msgTimeoutExpiry q idx) s
        = .next ((s.putFlight { r with prog := .write g [] none tries true }).sendMsgFor (s.queueComp q) (gNode r.wr.remote)
          (.msgAbort (openOf r.wr g true))))
  ∧ (∀ (s : State) (q idx : Nat), (s.xfr.flights.find? fun x => x.q == q && x.idx == idx) = none →
      exec (.msgTimeoutExpiry q idx) s = .next s)
  ∧ (∀ (s : State) (src : Nat) (m : OpenMsg), exec (.msgOpen src m) s
      = .next (((s.takeMsg src (.msgOpen m)).putMsgSrc { s.msgSrc src with opens := (s.msgSrc src).opens ++ [m] }).answerOpen src m))
  ∧ (∀ (s : State) (f : Frame) (id psn addr region key total : Nat) (data : List Byte),
      f.body = .write id psn addr region key total data → s.flag R.XFR_MSG_BASE_VALID = true →
      (s.msgSrc f.src).isFinished id = true →
      exec (.writePacket f) s = .next ((s.takeFrame f).bump R.XFR_DEST_STATS_DUPLICATES))
  ∧ (∀ (s : State) (f : Frame) (id psn addr region key total : Nat) (data : List Byte),
      f.body = .write id psn addr region key total data → s.flag R.XFR_MSG_BASE_VALID = false → exec (.writePacket f) s
        = .next (((s.takeFrame f).refusePacket f id region addr data.length .xfrBusy).msgBytes f.src id data.length total))
  ∧ (∀ (s : State) (f : Frame) (id psn addr region key total : Nat) (data : List Byte),
      f.body = .write id psn addr region key total data → s.flag R.XFR_MSG_BASE_VALID = true →
      (s.msgSrc f.src).isFinished id = false → 128 ≤ (id + 2 ^ 31 - (s.msgSrc f.src).floor) % 2 ^ 31 →
      exec (.writePacket f) s
        = .next (((s.takeFrame f).refusePacket f id region addr data.length .badParam).msgBytes f.src id data.length total))
  ∧ (∀ (s : State) (f : Frame) (id psn addr region key total : Nat) (data : List Byte) (i : Nat) (st : St),
      f.body = .write id psn addr region key total data → s.flag R.XFR_MSG_BASE_VALID = true →
      (s.msgSrc f.src).isFinished id = false → (id + 2 ^ 31 - (s.msgSrc f.src).floor) % 2 ^ 31 < 128 →
      ((s.msgSrc f.src).failed.find? (·.1 == id)) = some (i, st) → exec (.writePacket f) s
        = .next (((s.takeFrame f).refusePacket f id region addr data.length st).msgBytes f.src id data.length total))
  ∧ (∀ (s : State) (f : Frame) (id psn addr region key total : Nat) (data : List Byte) (r : MsgRec),
      f.body = .write id psn addr region key total data → s.flag R.XFR_MSG_BASE_VALID = true →
      (s.msgSrc f.src).isFinished id = false → (id + 2 ^ 31 - (s.msgSrc f.src).floor) % 2 ^ 31 < 128 →
      ((s.msgSrc f.src).failed.find? (·.1 == id)) = none → (s.xfr.recs.find? fun r => r.src == f.src && r.msgId == id) = some r →
      r.psns.contains psn = true → exec (.writePacket f) s = .next ((s.takeFrame f).bump R.XFR_DEST_STATS_DUPLICATES))
  ∧ (∀ (s : State) (f : Frame) (id psn addr region key total : Nat) (data : List Byte), f.body = .write id psn addr region key total data →
      s.flag R.XFR_MSG_BASE_VALID = true → (s.msgSrc f.src).isFinished id = false →
      (id + 2 ^ 31 - (s.msgSrc f.src).floor) % 2 ^ 31 < 128 → ((s.msgSrc f.src).failed.find? (·.1 == id)) = none → s.xfr.recs = [] →
      gSpace addr < 2 → s.targetCheck f.src f.dev ⟨addr, region, key, data.length, 0⟩ .write = none → exec (.writePacket f) s
        = .next ((((((s.takeFrame f).onXfr fun t => { t with recs := [⟨f.src, id, [psn], data.length, total⟩] }).regionLooked f.src
          ⟨addr, region, key, data.length, 0⟩).place (spaceMem (gSpace addr)) (gOff addr) data f.poison).account f.src data.length).msgBytes f.src id data.length total))
  ∧ (∀ (s : State) (f : Frame) (id psn addr region key total : Nat) (data : List Byte) (st : St),
      f.body = .write id psn addr region key total data → s.flag R.XFR_MSG_BASE_VALID = true →
      (s.msgSrc f.src).isFinished id = false → (id + 2 ^ 31 - (s.msgSrc f.src).floor) % 2 ^ 31 < 128 →
      ((s.msgSrc f.src).failed.find? (·.1 == id)) = none → s.xfr.recs = [] →
      s.targetCheck f.src f.dev ⟨addr, region, key, data.length, 0⟩ .write = some st → exec (.writePacket f) s
        = .next (((((((s.takeFrame f).onXfr fun t => { t with recs := [⟨f.src, id, [psn], data.length, total⟩] }).regionLooked f.src
          ⟨addr, region, key, data.length, 0⟩).bump R.FAB_STATS_KEY_REFUSALS).putMsgSrc ((s.msgSrc f.src).fail id st)).refusePacket f id region addr data.length st).msgBytes f.src
            id data.length total))
  ∧ (∀ (s : State) (src : Nat) (m : OpenMsg), exec (.msgAbort src m) s = .next ((s.takeMsg src (.msgAbort m)).abortMsgs src m))
  ∧ (∀ (s : State) (v : Nat), bitsOf v 45 0 % 2 ^ 24 = 0 → s.hbmMapped (bitsOf v 45 0) (2 ^ 24) = true →
      s.touchesReserved (bitsOf v 45 0) (2 ^ 24) = false → s.touchesPool (bitsOf v 45 0) (2 ^ 24) = false →
      s.touchesRegions (bitsOf v 45 0) (2 ^ 24) = false → s.xfr.recs = [] →
      exec (.xfrMsgBaseWrite v) s = .next (s.writeRw 0x300008 v))
  ∧ (∀ (s : State) (v : Nat), bitsOf v 45 0 % 2 ^ 24 ≠ 0 ∨ s.xfr.recs ≠ [] → exec (.xfrMsgBaseWrite v) s = .next s)

/-- READs: pieces, the answers of a responder, placed, duplicate and late data, and a slot's quiet time (R258, R263, R288, R289). -/
def Obligations.Reads : Prop :=
  (∀ (s : State) (q tag : Nat) (x : XQueue) (w : WorkReq), s.mayStart q = true → s.xq q = x → s.workAt q x.next = w → w.op = 2 →
    s.startCheck q w = none → gNode w.remote ≠ s.node → s.isUnreachable (gNode w.remote) = false → s.newTag = tag →
    exec (.xfrRead q) s = .next ((((s.putXq { x with next := x.next + 1 }).addRemote ⟨tag, .read, gNode w.remote, w.remote, w.region,
      w.length, locAddr w.locSpace w.locOff, .queue q x.next⟩).putFlight ⟨q, x.next, w, .read tag (pieces 4096 w.remote w.length) [] none,
        true⟩).sendReads (s.queueComp q) (q < 64) (gNode w.remote) tag w (pieces 4096 w.remote w.length)))
  ∧ (∀ (s : State) (f : Frame) (h : OpHdr), f.body = .read h → s.due f = true → gSpace h.addr < 2 →
      s.targetCheck f.src f.dev h .read = none →
      let t := ((s.takeOrdered f).regionLooked f.src h).respond f (.readData (2 ^ 31 + h.tag) 0 h.addr (s.rdBytes (spaceMem
          (gSpace h.addr)) (gOff h.addr) h.len)) ((s.poisoned (spaceMem (gSpace h.addr)) (gOff h.addr) h.len).isSome
            || s.readsLost (spaceMem (gSpace h.addr)) (gOff h.addr) h.len)
      exec (.readFrame f) s = .next (t.flow f.src).serveInbox)
  ∧ (∀ (s : State) (f : Frame) (h : OpHdr) (st : St), f.body = .read h → s.due f = true →
      s.targetCheck f.src f.dev h .read = some st →
      let t := (((s.takeOrdered f).regionLooked f.src h).bump R.FAB_STATS_KEY_REFUSALS).respond f (.sprayNak st h.region h.addr (2 ^ 31 + h.tag)) false
      exec (.readFrame f) s = .next (t.flow f.src).serveInbox)
  ∧ (∀ (s : State) (f : Frame) (id psn addr tag : Nat) (data : List Byte) (r : XReq) (left : List (Nat × Nat)) (landed : List Nat)
      (failed : Option St), f.body = .readData id psn addr data → s.readFlight (id % 2 ^ 31) = some r →
      r.prog = .read tag left landed failed → (left.any (·.1 == addr)) = true → exec (.readData f) s
        = .next ((((s.takeFrame f).place (spaceMem r.wr.locSpace) (r.wr.locOff + (addr - r.wr.remote)) data f.poison).account f.src
          data.length).readEnd { r with prog := .read tag (left.filter (·.1 != addr)) (landed ++ [addr]) (if f.poison = true ∧ r.q < 64 then some (failed.getD .poisonRead) else failed) }))
  ∧ (∀ (s : State) (f : Frame) (id psn addr tag : Nat) (data : List Byte) (r : XReq) (left : List (Nat × Nat)) (landed : List Nat)
      (failed : Option St), f.body = .readData id psn addr data → s.readFlight (id % 2 ^ 31) = some r →
      r.prog = .read tag left landed failed → (left.any (·.1 == addr)) = false → landed.contains addr = true →
      exec (.readData f) s = .next (s.takeFrame f))
  ∧ (∀ (s : State) (f : Frame) (id psn addr : Nat) (data : List Byte), f.body = .readData id psn addr data →
      s.readFlight (id % 2 ^ 31) = none → (s.xfr.quiet.any fun q => q.tag == id % 2 ^ 31 && q.landed.contains addr) = false →
      exec (.readData f) s = .next (((s.takeFrame f).account f.src data.length).bump R.FAB_STATS_LATE_RESPONSES))
  ∧ (∀ (s : State) (f : Frame) (id psn addr : Nat) (data : List Byte), f.body = .readData id psn addr data →
      s.readFlight (id % 2 ^ 31) = none → (s.xfr.quiet.any fun q => q.tag == id % 2 ^ 31 && q.landed.contains addr) = true →
      exec (.readData f) s = .next (s.takeFrame f))
  ∧ (∀ (s : State) (r : XReq) (tag : Nat) (landed : List Nat) (failed : Option St), r.prog = .read tag [] landed failed →
      s.readEnd r = (((s.dropRemote tag).onXfr fun t => { t with quiet := t.quiet ++ [⟨tag, landed⟩] }).completeReq r
        (failed.getD .ok)))
  ∧ (∀ (s : State) (tag : Nat), exec (.tagQuietExpiry tag) s
      = .next (s.onXfr fun t => { t with quiet := t.quiet.filter (·.tag != tag) }))

/-- Collectives: a REDUCE request's chunks, contributions and results, refused packets, failures, and the group registers (R292 to R297,
R299). -/
def Obligations.Collectives : Prop :=
  (∀ (s : State) (q : Nat) (x : XQueue) (w : WorkReq), s.mayStart q = true → s.xq q = x → s.workAt q x.next = w → w.op = 0x10 →
    s.startCheck q w = none → s.reduceFlight w.group = none → s.xfr.ended.contains ⟨w.group, w.collOp, true⟩ = false →
    s.xfr.slots = [] →
    exec (.xfrReduce q) s = .next (((((s.putXq { x with next := x.next + 1 }).setReg (R.XFR_GROUP_STATUS_CURRENT_OP w.group)
      w.collOp).putFlight ⟨q, x.next, w, .reduce ((w.length + 3967) / 3968) 0 [], false⟩).onXfr fun t => { t with
        ended := t.ended.filter fun e => !(e.group == w.group && e.op == w.collOp) }).pumpReduce w.group
        (2 * ((w.length + 3967) / 3968) + 2)))
  ∧ (∀ (s : State) (q : Nat) (x : XQueue) (w : WorkReq) (st : St), s.mayStart q = true → s.xq q = x → s.workAt q x.next = w →
      w.op = 0x10 → s.startCheck q w = none → s.reduceFlight w.group = none → s.xfr.ended = [⟨w.group, w.collOp, true⟩] →
      s.reg (R.XFR_GROUP_STATUS_LAST_STATUS w.group) ≠ 0 → St.ofCode (s.reg (R.XFR_GROUP_STATUS_LAST_STATUS w.group)) = some st →
      exec (.xfrReduce q) s = .next (((s.putXq { x with next := x.next + 1 }).onXfr fun t => { t with
        ended := [⟨w.group, w.collOp, false⟩] }).completeReq ⟨q, x.next, w, .copy, false⟩ st))
  ∧ (∀ (s : State) (q : Nat) (x : XQueue) (w : WorkReq) (r : XReq), s.mayStart q = true → s.xq q = x → s.workAt q x.next = w →
      w.op = 0x10 → s.startCheck q w = none → s.reduceFlight w.group = some r → exec (.xfrReduce q) s
        = .next ((s.putXq { x with next := x.next + 1 }).completeReq ⟨q, x.next, w, .copy, false⟩ .badState))
  ∧ (∀ (s : State) (g n next : Nat) (r : XReq) (w : List Nat) (t : State) (m : ReduceMsg) (b : Bool) (k : Nat), s.reduceFlight g = some r →
      r.prog = .reduce n next w → w.length ≠ n → next < n → next < s.reg (R.XFR_GROUP_A_WINDOW g) → s.ownChunk r next = (m, b, t) →
      s.pumpReduce g (k + 1) = ((t.putFlight { r with prog := .reduce n (next + 1) w, injected := next + 1 == n }).contribute m 65536 b).pumpReduce g k)
  ∧ (∀ (s : State) (g n next : Nat) (r : XReq) (w : List Nat) (k : Nat), s.reduceFlight g = some r → r.prog = .reduce n next w → w.length ≠ n →
      next < n → s.reg (R.XFR_GROUP_A_WINDOW g) ≤ next → w.contains (next - s.reg (R.XFR_GROUP_A_WINDOW g)) = false →
      s.pumpReduce g k = s)
  ∧ (∀ (s : State) (g n next : Nat) (r : XReq) (w : List Nat) (k : Nat), s.reduceFlight g = some r → r.prog = .reduce n next w → w.length = n →
      s.pumpReduce g (k + 1) = s.endOp g r.wr.collOp .ok)
  ∧ (∀ (s t : State) (r : XReq) (c : Nat) (m : ReduceMsg) (b : Bool), s.ownChunk r c = (m, b, t) → m.down = false ∧ m.group = r.wr.group
      ∧ m.op = r.wr.collOp ∧ m.chunk = c ∧ m.firstElem = 3968 * c ∧ m.total = r.wr.length
      ∧ b = (s.poisoned (spaceMem r.wr.locSpace) (r.wr.locOff + c * 3968 * fmtBytes r.wr.fmt)
        (chunkLen r.wr.length c * fmtBytes r.wr.fmt)).isSome)
  ∧ (∀ (s : State) (f : Frame) (m : ReduceMsg), f.body = .reduce m → m.down = false → s.transitOnly = false →
      (s.takeFrame f).reduceAccepts f m = false → exec (.reducePacket f) s
        = .next (((s.takeFrame f).sprayNak f m.msgId 0 m.firstElem .accessDenied).account f.src m.data.length))
  ∧ (∀ (s : State) (f : Frame) (m : ReduceMsg), s.flag (R.XFR_GROUP_A_VALID m.group) = false ∨ m.down = false ∧
      (s.groupChildren m.group).contains f.src = false ∨ m.down = true ∧ s.reg (R.XFR_GROUP_A_PARENT m.group) ≠ f.src →
      s.reduceAccepts f m = false)
  ∧ (∀ (s : State) (f : Frame) (m : ReduceMsg), f.body = .reduce m → m.down = false → s.transitOnly = false →
      (s.takeFrame f).reduceAccepts f m = true → (s.takeFrame f).reduceSeen f m = true →
      exec (.reducePacket f) s = .next ((s.takeFrame f).bump (R.XFR_GROUP_STATS_DUPLICATES m.group)))
  ∧ (∀ (s : State) (f : Frame) (m : ReduceMsg) (r : XReq), f.body = .reduce m → m.down = true → s.transitOnly = false →
      (s.takeFrame f).reduceAccepts f m = true → (s.takeFrame f).reduceSeen f m = false →
      ((s.takeFrame f).account f.src m.data.length).reduceFlight m.group = some r → r.wr.collOp = m.op → r.wr.length ≠ m.total →
      exec (.reduceDownPacket f) s
        = .next (((s.takeFrame f).account f.src m.data.length).failOp m.group m.op .collectiveMismatch))
  ∧ (∀ (s : State) (f : Frame) (m : ReduceMsg), f.body = .reduce m → m.down = false → s.transitOnly = false →
      (s.takeFrame f).reduceAccepts f m = true → (s.takeFrame f).reduceSeen f m = false →
      ((s.takeFrame f).account f.src m.data.length).reduceFlight m.group = none →
      (((s.takeFrame f).account f.src m.data.length).contribute m f.src f.poison).reduceFlight m.group = none →
      exec (.reducePacket f) s = .next (((s.takeFrame f).account f.src m.data.length).contribute m f.src f.poison))
  ∧ (∀ (s : State) (f : Frame) (m : ReduceMsg), f.body = .reduce m → m.down = true → s.transitOnly = false →
      (s.takeFrame f).reduceAccepts f m = true → (s.takeFrame f).reduceSeen f m = false →
      ((s.takeFrame f).account f.src m.data.length).reduceFlight m.group = none →
      (((s.takeFrame f).account f.src m.data.length).applyDown m f.poison).reduceFlight m.group = none →
      exec (.reduceDownPacket f) s = .next (((s.takeFrame f).account f.src m.data.length).applyDown m f.poison))
  ∧ (∀ (s : State) (f : Frame) (m : ReduceMsg), f.body = .reduce m → m.down = true → exec (.reducePacket f) s = .next s)
  ∧ (∀ (s : State) (f : Frame) (m : ReduceMsg), f.body = .reduce m → m.down = false → exec (.reduceDownPacket f) s = .next s)
  ∧ (∀ (s : State) (g c : Nat) (x : CollSlot), (s.xfr.slots.find? fun x => x.group == g && x.chunk == c) = some x →
      exec (.collTimeoutExpiry g c) s = .next (s.failOp g x.op .collectiveTimeout))
  ∧ (∀ (s : State) (g c : Nat), (s.xfr.slots.find? fun x => x.group == g && x.chunk == c) = none →
      exec (.collTimeoutExpiry g c) s = .next s)
  ∧ (∀ (s : State) (g op : Nat) (st : St), s.reduceFlight g = none → 
      ((s.failOp g op st).xfr.slots.filter fun x => x.group == g && x.op == op) = []
      ∧ (s.failOp g op st).xfr.flights = s.xfr.flights)
  ∧ (∀ (s : State) (g v : Nat), g < 256 → (s.xfr.slots.any (·.group == g)) = false →
      (s.xfr.flights.any fun r => r.wr.op == 0x10 && r.wr.group == g) = false → bitsOf v 57 56 ≠ 3 → bitsOf v 54 50 ≤ 16 →
      1 ≤ bitsOf v 49 41 → bitsOf v 49 41 ≤ 256 → bitsOf v 61 60 < s.dies → s.dieWindow (bitsOf v 61 60) g + bitsOf v 49 41 ≤ 2048 →
      exec (.xfrGroupWrite (0x30A000 + 64 * g) v) s = .next (s.writeRw (0x30A000 + 64 * g) v))
  ∧ (∀ (s : State) (g v : Nat), g < 256 → (s.xfr.slots.any (·.group == g)) = true ∨
      (s.xfr.flights.any fun r => r.wr.op == 0x10 && r.wr.group == g) = true ∨ bitsOf v 57 56 = 3 ∨ 16 < bitsOf v 54 50 ∨
      256 < bitsOf v 49 41 ∨ bitAt v 63 = true ∧ 2048 < s.dieWindow (bitsOf v 61 60) g + bitsOf v 49 41 →
      exec (.xfrGroupWrite (0x30A000 + 64 * g) v) s = .next s)
  ∧ (∀ (s : State) (g k v : Nat), g < 256 → k < 4 → (s.xfr.slots.any (·.group == g)) = false →
      (s.xfr.flights.any fun r => r.wr.op == 0x10 && r.wr.group == g) = false →
      exec (.xfrGroupWrite (0x30A008 + 64 * g + 8 * k) v) s = .next (s.writeRw (0x30A008 + 64 * g + 8 * k) v))

/-- Counters, waits and their limits (R300, R301, R304 to R306, Table 11.6). -/
def Obligations.CountersAndWaits : Prop :=
  (∀ (s : State) (v : Nat), s.tileIn (s.reg R.SYN_CTR_SEL_TILE) = true → exec (.synCtrDataWrite v) s
    = .next (s.setCounter (s.reg R.SYN_CTR_SEL_TILE * 65536 + s.reg R.SYN_CTR_SEL_COUNTER) v))
  ∧ (∀ (s : State) (v : Nat), s.tileIn (s.reg R.SYN_CTR_SEL_TILE) = false → exec (.synCtrDataWrite v) s = .next s)
  ∧ (∀ (s : State) (k v : Nat), (s.storeCounter k v).counter k = v % 2 ^ 40)
  ∧ (∀ (s : State) (k j v : Nat), keysRise s.syn.counters = true → j ≠ k → (s.storeCounter k v).counter j = s.counter j)
  ∧ (∀ (s : State) (k v : Nat), s.cores = [] → s.xfr.queues = [] → (s.setCounter k v).counter k = v % 2 ^ 40)
  ∧ (∀ (s : State) (k : Nat) (d : Int), s.addCounter k d = s.setCounter k (((s.counter k : Int) + d) % 2 ^ 40).toNat)
  ∧ (∀ (v : Nat), v < 2 ^ 24 → sext24 v = if v < 2 ^ 23 then (v : Int) else (v : Int) - 2 ^ 24)
  ∧ (∀ (a v : Nat), waitHolds a v = true ↔ (a % 2 ^ 24 + 2 ^ 24 - v % 2 ^ 24) % 2 ^ 24 < 2 ^ 23)
  ∧ (∀ (s : State) (n t k x : Nat), (s.core n).wait = some (.counter t k x) → (s.core n).waitLimit ≠ 0 → exec (.waitLimitExpiry n) s
      = .next ((s.bump R.SYN_WAIT_STATS_TIMEOUTS).coreFault n .waitTimeout ((s.core n).pc - 1) 0x88))
  ∧ (∀ (s : State) (n m b r : Nat), (s.core n).wait = some (.barrier m b r) → (s.core n).waitLimit ≠ 0 → exec (.waitLimitExpiry n) s
      = .next ((s.bump R.SYN_WAIT_STATS_TIMEOUTS).coreFault n .waitTimeout ((s.core n).pc - 1) 0x8A))
  ∧ (∀ (s : State) (n : Nat), (s.core n).wait = none → exec (.waitLimitExpiry n) s = .next s ∧ exec (.waitGateExpiry n) s = .next s)
  ∧ (∀ (s : State) (n t k x : Nat), (s.core n).wait = some (.counter t k x) →
      exec (.waitGateExpiry n) s = .next (s.putCore { s.core n with waitGated := true }))
  ∧ (∀ (s : State) (q : XQueue), s.xfr.queues = [q] → 64 ≤ q.q → s.flag (R.XFR_Q_A_VALID q.q) = true →
      s.flag (R.XFR_Q_A_ERROR q.q) = false → 2 ^ s.reg (R.XFR_Q_B_DEPTH_LOG2 q.q) + s.reg (R.XFR_Q_C_COMPLETED q.q)
        < s.counter (s.postKey q.q) → s.checkPosted (s.postKey q.q)
          = s.setRegs [(R.XFR_Q_A_ERROR q.q, 1), (R.XFR_Q_B_ERROR_STATUS q.q, St.queueFull.code)])
  ∧ (∀ (s : State) (n : Nat), (s.core n).waitLimit = 0 → exec (.waitLimitExpiry n) s = .next s)

/-- Registration barriers: CONFIGURE, FREE, the rows of Table 11.3, rounds, releases and aborts (R309, R311 to R313). -/
def Obligations.Barriers : Prop :=
  (∀ (s : State) (b : Nat), s.reg (R.SYN_BAR_A_STATE b) = 0 → s.barArgsOk = true → exec (.barrierConfigure b) s
    = .next ((s.setRegs [(R.SYN_BAR_A_STATE b, 1), (R.SYN_BAR_A_ROUND b, s.reg R.SYN_BAR_ARG0_ROUND),
      (R.SYN_BAR_A_PARTICIPANTS b, s.reg R.SYN_BAR_ARG0_PARTICIPANTS), (R.SYN_BAR_A_ARRIVED b, 0), (R.SYN_BAR_B_EARLY b, 0),
      (R.SYN_BAR_B_ACKS_PENDING b, 0), (R.SYN_BAR_B_MEMBER_COUNT b, s.reg R.SYN_BAR_ARG0_MEMBER_COUNT),
      (R.SYN_BAR_C_MEMBERS b, s.reg R.SYN_BAR_ARG1_MEMBERS), (R.SYN_BAR_D_COMPLETED b, 0)]).barStatus 1 b .ok))
  ∧ (∀ (s : State) (b : Nat), s.reg (R.SYN_BAR_A_STATE b) ≠ 0 → exec (.barrierConfigure b) s = .next (s.barStatus 1 b .tableBusy))
  ∧ (∀ (s : State) (b : Nat), s.reg (R.SYN_BAR_A_STATE b) = 0 → s.barArgsOk = false →
      exec (.barrierConfigure b) s = .next (s.barStatus 1 b .badParam))
  ∧ (∀ (s : State), s.reg R.SYN_BAR_ARG0_PARTICIPANTS = 0 ∨ s.reg R.SYN_BAR_ARG0_MEMBER_COUNT = 0 ∨
      4096 < s.reg R.SYN_BAR_ARG0_MEMBER_COUNT ∨ s.reg R.SYN_BAR_ARG1_MEMBERS % 2 = 1 → s.barArgsOk = false)
  ∧ (∀ (s : State) (b : Nat), s.reg (R.SYN_BAR_A_STATE b) = 1 → s.reg (R.SYN_BAR_A_ARRIVED b) = 0 →
      s.reg (R.SYN_BAR_B_EARLY b) = 0 →
      exec (.barrierFree b) s = .next ((s.setReg (R.SYN_BAR_A_STATE b) 0).barStatus 2 b .ok))
  ∧ (∀ (s : State) (b : Nat), s.reg (R.SYN_BAR_A_STATE b) ≠ 1 ∨ s.reg (R.SYN_BAR_A_ARRIVED b) ≠ 0 ∨
      s.reg (R.SYN_BAR_B_EARLY b) ≠ 0 → exec (.barrierFree b) s = .next (s.barStatus 2 b .badState))
  ∧ (∀ (s : State) (b : Nat) (a : ArriveMsg), s.reg (R.SYN_BAR_A_STATE b) = 0 →
      s.arrive b a = (s.bump R.SYN_BAR_STATS_REFUSED, .badState))
  ∧ (∀ (s : State) (b : Nat) (a : ArriveMsg), s.reg (R.SYN_BAR_A_STATE b) ≠ 0 → s.reg (R.SYN_BAR_A_ROUND b) < 65536 →
      32768 ≤ (a.round % 65536 + 65536 - s.reg (R.SYN_BAR_A_ROUND b)) % 65536 →
      s.arrive b a = (s.bump R.SYN_BAR_STATS_REFUSED, .barrierStale))
  ∧ (∀ (s : State) (b : Nat) (a : ArriveMsg), s.reg (R.SYN_BAR_A_STATE b) = 1 → a.round = s.reg (R.SYN_BAR_A_ROUND b) →
      a.round < 65536 → (s.reg (R.SYN_BAR_A_ARRIVED b) + 1) % 65536 ≠ s.reg (R.SYN_BAR_A_PARTICIPANTS b) → keysRise s.regs = true →
      s.arrive b a = (s.setReg (R.SYN_BAR_A_ARRIVED b) (s.reg (R.SYN_BAR_A_ARRIVED b) + 1), .ok))
  ∧ (∀ (s : State) (b : Nat) (a : ArriveMsg), s.reg (R.SYN_BAR_A_STATE b) = 1 → a.round = s.reg (R.SYN_BAR_A_ROUND b) →
      a.round < 65536 → (s.reg (R.SYN_BAR_A_ARRIVED b) + 1) % 65536 = s.reg (R.SYN_BAR_A_PARTICIPANTS b) → keysRise s.regs = true →
      s.arrive b a = ((s.setReg (R.SYN_BAR_A_ARRIVED b) (s.reg (R.SYN_BAR_A_ARRIVED b) + 1)).completeRound b, .ok))
  ∧ (∀ (s : State) (b : Nat) (a : ArriveMsg), s.reg (R.SYN_BAR_A_STATE b) = 2 → a.round = s.reg (R.SYN_BAR_A_ROUND b) →
      a.round < 65536 → s.arrive b a = (s.bump R.SYN_BAR_STATS_REFUSED, .barrierOverrun))
  ∧ (∀ (s : State) (b : Nat) (a : ArriveMsg), s.reg (R.SYN_BAR_A_STATE b) ≠ 0 → s.reg (R.SYN_BAR_A_ROUND b) < 65536 →
      a.round % 65536 = (s.reg (R.SYN_BAR_A_ROUND b) + 1) % 65536 →
      s.arrive b a = (if s.reg (R.SYN_BAR_B_EARLY b) < s.reg (R.SYN_BAR_A_PARTICIPANTS b) then
        ((s.setReg (R.SYN_BAR_B_EARLY b) (s.reg (R.SYN_BAR_B_EARLY b) + 1)).bump R.SYN_BAR_STATS_EARLY, .ok)
      else (s.bump R.SYN_BAR_STATS_REFUSED, .barrierOverrun)))
  ∧ (∀ (s : State) (src b round : Nat), s.reg (R.SYN_BAR_A_STATE b) ≠ 2 ∨ s.reg (R.SYN_BAR_A_ROUND b) ≠ round ∨
      s.syn.ackWait.contains (b, src) = false →
      exec (.releaseAck src b round) s = .next (s.takeMsg src (.releaseAck b round)))
  ∧ (∀ (s : State) (src b round : Nat), s.reg (R.SYN_BAR_A_STATE b) = 2 → s.reg (R.SYN_BAR_A_ROUND b) = round →
      s.syn.ackWait.contains (b, src) = true → 1 < s.reg (R.SYN_BAR_B_ACKS_PENDING b) → exec (.releaseAck src b round) s
        = .next (((s.takeMsg src (.releaseAck b round)).onSyn fun y => { y with ackWait := dropFirst (b, src) y.ackWait }).setReg
          (R.SYN_BAR_B_ACKS_PENDING b) (s.reg (R.SYN_BAR_B_ACKS_PENDING b) - 1)))
  ∧ (∀ (s : State) (src b round : Nat), s.reg (R.SYN_BAR_A_STATE b) = 2 → s.reg (R.SYN_BAR_A_ROUND b) = round →
      s.syn.ackWait.contains (b, src) = true → s.reg (R.SYN_BAR_B_ACKS_PENDING b) = 1 → exec (.releaseAck src b round) s
        = .next ((((s.takeMsg src (.releaseAck b round)).onSyn fun y => { y with ackWait := dropFirst (b, src) y.ackWait }).setReg
          (R.SYN_BAR_B_ACKS_PENDING b) 0).closeRound b))
  ∧ (∀ (s : State) (b : Nat), s.reg (R.SYN_BAR_B_EARLY b) ≠ s.reg (R.SYN_BAR_A_PARTICIPANTS b) → keysRise s.regs = true →
      s.closeRound b = (s.setRegs [(R.SYN_BAR_A_ROUND b, s.reg (R.SYN_BAR_A_ROUND b) + 1),
        (R.SYN_BAR_A_ARRIVED b, s.reg (R.SYN_BAR_B_EARLY b)), (R.SYN_BAR_B_EARLY b, 0), (R.SYN_BAR_A_STATE b, 1),
        (R.SYN_BAR_D_COMPLETED b, s.reg (R.SYN_BAR_D_COMPLETED b) + 1)]).bump R.SYN_BAR_STATS_ROUNDS)
  ∧ (∀ (s : State) (src b round : Nat), (∀ c, c ∈ s.cores → c.wait ≠ some (.barrier src b round)) →
      exec (.barrierRelease src b round) s
        = .next ((s.takeMsg src (.barRelease b round)).sendMsg src (.releaseAck b round)))
  ∧ (∀ (s : State) (src b round : Nat) (c : Core), s.cores = [c] → c.wait = some (.barrier src b round) →
      exec (.barrierRelease src b round) s
        = .next (((s.takeMsg src (.barRelease b round)).completeWaits [c]).sendMsg src (.releaseAck b round)))
  ∧ (∀ (s : State) (src b round : Nat) (st : St) (c : Core) (b' r' : Nat), s.cores = [c] → c.wait = some (.barrier src b' r') →
      exec (.barrierAbort src b round st) s
        = .next ((s.takeMsg src (.barAbort b round st)).coreFault c.num st (c.pc - 1) 0x8A))
  ∧ (∀ (s : State) (src b round : Nat) (st : St), s.barrierWaiters src = [] →
      exec (.barrierAbort src b round st) s = .next (s.takeMsg src (.barAbort b round st)))

/-- The checks a host's packet passes in order, what each refusal answers, and the refill of a meter (Table 12.2,
R321, R322, R324 to R328, R340). That a firmware-path request gets ST_HCP_BUSY while the port's firmware hands over
follows R363. -/
def Obligations.HostRequestChecks : Prop :=
  (∀ (s : State) (p : HostPkt) (op : Nat) (fast admin serves : Bool) (lo hi : Nat) (adm : Bool), s.hostUp = true → p.formOk = true →
    s.hears p.net (s.reg R.HCP_PRAYR_UDP_PORT) = true → s.hostEntry p.src = some (lo, hi, adm) → (s.meter p.tenant).enable = false → (s.meter p.tenant).green + 1 < 2 ^ 32 →
    (s.hcp.cache.any fun c => decide (c.reply.key = p.key)) = false → (s.hcp.exec.any fun e => decide (e.key = p.key)) = false →
    p.kind = 0 → s.reg R.PHS_VERSIONS_PRAYR_MIN ≤ p.version → p.version ≤ s.reg R.PHS_VERSIONS_PRAYR_MAX → lo ≤ p.tenant →
    p.tenant ≤ hi → (admin = true → adm = true) → (s.bld.node = .recovery → serves = true) → s.pathUsed fast < pathDepth fast →
    (fast = false → s.handsOver = false) →
    s.accept? p op fast admin serves = some (s.hcp.nextRef, ((s.putMeter { s.meter p.tenant with green := (s.meter p.tenant).green + 1 }).onHcp fun h => { h with nextRef := s.hcp.nextRef + 1, exec := h.exec ++ [⟨s.hcp.nextRef, p.key, op, p.version, p.tenant, fast, s.reg R.HCP_PRAYR_UDP_PORT⟩] }).bump
          R.HCP_STATS_COMMANDS))
  ∧ (∀ (s : State) (p : HostPkt), s.hostUp = false → exec (.caps p) s = .next s)
  ∧ (∀ (s : State) (p : HostPkt), s.hostUp = true →
      p.formOk = false ∨ s.hears p.net (s.reg R.HCP_PRAYR_UDP_PORT) = false → exec (.caps p) s = .next (s.bump R.HCP_STATS_CHECK_DROPS))
  ∧ (∀ (s : State) (p : HostPkt), s.hostUp = true → p.formOk = true → s.hears p.net (s.reg R.HCP_PRAYR_UDP_PORT) = true →
      s.hostEntry p.src = none →
      exec (.caps p) s = .next (s.bump R.HCP_DROP_STATS_NO_HOST))
  ∧ (∀ (s t : State) (p : HostPkt) (e : Nat × Nat × Bool) (c : CachedReply), s.screen p true = (some e, t) →
      (t.hcp.cache.find? fun x => decide (x.reply.key = p.key)) = some c →
      exec (.caps p) s = .next ((t.bump R.HCP_STATS_DUPLICATES).hostSend 0 (.reply c.reply)))
  ∧ (∀ (s t : State) (p : HostPkt) (e : Nat × Nat × Bool), s.screen p true = (some e, t) →
      (t.hcp.cache.find? fun x => decide (x.reply.key = p.key)) = none →
      (t.hcp.exec.any fun x => decide (x.key = p.key)) = true → exec (.caps p) s = .next t)
  ∧ (∀ (s t : State) (p : HostPkt) (e : Nat × Nat × Bool), s.screen p true = (some e, t) →
      (t.hcp.cache.find? fun x => decide (x.reply.key = p.key)) = none →
      (t.hcp.exec.any fun x => decide (x.key = p.key)) = false → p.kind = 0 →
      p.version < t.reg R.PHS_VERSIONS_PRAYR_MIN ∨ t.reg R.PHS_VERSIONS_PRAYR_MAX < p.version →
      exec (.caps p) s = .next (t.rejectPkt p 0x01 (t.reg R.PHS_VERSIONS_PRAYR_MAX) .formatUnsupported
        (toBytes 8 (t.reg R.PHS_VERSIONS_PRAYR_MIN * 256 + t.reg R.PHS_VERSIONS_PRAYR_MAX))))
  ∧ (∀ (s t : State) (p : HostPkt) (cursor max lo hi : Nat) (adm : Bool), s.prayrFront p 0x22 true = (some (lo, hi, adm), t) →
      p.tenant < lo ∨ hi < p.tenant ∨ adm = false →
      exec (.eventPull p cursor max) s = .next (t.rejectPkt p 0x22 p.version .accessDenied []))
  ∧ (∀ (s t : State) (p : HostPkt) (op lo hi : Nat) (adm : Bool), op ∉ assignedOps → s.prayrFront p op true = (some (lo, hi, adm), t) →
      lo ≤ p.tenant → p.tenant ≤ hi → exec (.prayrBadOpcode p op) s = .next (t.rejectPkt p op p.version .badOpcode []))
  ∧ (∀ (s t : State) (p : HostPkt) (id lo hi : Nat) (adm : Bool), s.prayrFront p 0x14 true = (some (lo, hi, adm), t) →
      lo ≤ p.tenant → p.tenant ≤ hi → t.bld.node = .recovery →
      exec (.queryReq p id) s = .next (t.rejectPkt p 0x14 p.version .nodeResetting []))
  ∧ (∀ (s t : State) (p : HostPkt) (id lo hi : Nat) (adm : Bool), s.prayrFront p 0x14 true = (some (lo, hi, adm), t) →
      lo ≤ p.tenant → p.tenant ≤ hi → t.bld.node ≠ .recovery → pathDepth true ≤ t.pathUsed true →
      exec (.queryReq p id) s = .next ((t.bump R.HCP_DROP_STATS_BUSY).rejectPkt p 0x14 p.version .hcpBusy []))
  ∧ (∀ (s t : State) (p : HostPkt) (id lo hi : Nat) (adm : Bool), s.prayrFront p 0x14 true = (some (lo, hi, adm), t) →
      lo ≤ p.tenant → p.tenant ≤ hi → t.bld.node ≠ .recovery → t.pathUsed true < pathDepth true → p.payloadOk = false →
      exec (.queryReq p id) s = .next (t.rejectPkt p 0x14 p.version .badParam []))
  ∧ (∀ (s : State) (p : HostPkt), s.hostUp = true → p.formOk = true → s.hears p.net (s.reg R.HCP_PRAYR_UDP_PORT) = true →
      (s.hostEntry p.src).isSome = true →
      (s.meter p.tenant).enable = true → ((s.meter p.tenant).refill s.aon).tp < Meter.grain → (s.meter p.tenant).bytes = false →
      exec (.caps p) s = .next (s.redDrop ((s.meter p.tenant).refill s.aon)))
  ∧ (∀ (s t : State) (p : HostPkt) (v lo hi : Nat), s.prayrFront p 0x30 false = (some (lo, hi, true), t) →
      lo ≤ p.tenant → p.tenant ≤ hi → t.bld.node ≠ .recovery → t.handsOver = true → t.pathUsed false < pathDepth false →
      exec (.phaseTurn p v) s = .next ((t.bump R.HCP_DROP_STATS_BUSY).rejectPkt p 0x30 p.version .hcpBusy []))
  ∧ (∀ (m : Meter) (now : Nat), m.bytes = false → m.at_ ≤ now → m.tc + m.cir * 65536 * (now - m.at_) ≤ m.cbs * Meter.grain →
      (m.refill now).tc = m.tc + m.cir * 65536 * (now - m.at_))
  ∧ (∀ (s : State) (n : NetHdr) (port : Nat), s.hears n port = true ↔ s.ownAddr n.dst = true ∧ n.fragment = false
      ∧ n.udpPort = some port
      ∧ n.vlan = (if s.flag R.HCP_PORT_CFG_VLAN_EN = true then some (s.reg R.HCP_PORT_CFG_VID) else none))

/-- Accepted requests that the node answers at once: NOP, CAPS, EVENT_PULL, CSR_READ, CSR_WRITE and PHASE_TURN, and the release of a cached
reply (R325, R335, R339, Table 12.3). -/
def Obligations.HostQueries : Prop :=
  (∀ (s t : State) (p : HostPkt) (ref : Nat) (data : List Byte), s.accept? p 0x00 true false true = some (ref, t) →
    p.payloadOk = true → data.length ≤ 1024 → exec (.prayrNop p data) s = .next (t.hostReply ref .ok data))
  ∧ (∀ (s t : State) (p : HostPkt) (ref : Nat), s.accept? p 0x01 true false true = some (ref, t) → p.payloadOk = true →
      exec (.caps p) s = .next (t.hostReply ref .ok t.capsBytes))
  ∧ (∀ (s t : State) (p : HostPkt) (ref cursor max : Nat), s.accept? p 0x22 true true true = some (ref, t) → p.payloadOk = true →
      1 ≤ max → max ≤ 32 → exec (.eventPull p cursor max) s = .next (t.hostReply ref .ok (t.pullBytes cursor max)))
  ∧ (∀ (s t : State) (p : HostPkt) (ref addr v : Nat), s.accept? p 0x20 true true true = some (ref, t) → p.payloadOk = true →
      (t.csrRead addr).1 = .ok v → exec (.csrRead p s.node addr 1) s
        = .next ((t.csrRead addr).2.hostReply ref .ok (csrPayload false [v])))
  ∧ (∀ (s t : State) (p : HostPkt) (ref node addr n : Nat), s.accept? p 0x20 false true true = some (ref, t) → p.payloadOk = true →
      node ≠ s.node → 1 ≤ n → n ≤ 64 → exec (.csrRead p node addr n) s
        = .next (t.csrNext ref false node addr (List.replicate n 0) []))
  ∧ (∀ (s t : State) (p : HostPkt) (ref addr v : Nat), s.accept? p 0x21 true true (decide (0x10000 ≤ addr ∧ addr + 8 ≤ 0x20000))
        = some (ref, t) → p.payloadOk = true → t.regionGuarded addr [v] = none → (t.csrWrite false addr v).2 = .ok →
      exec (.csrWrite p s.node addr [v]) s = .next ((t.csrWrite false addr v).1.hostReply ref .ok (toBytes 8 1)))
  ∧ (∀ (s t : State) (p : HostPkt) (ref node addr v : Nat), s.accept? p 0x21 false true false = some (ref, t) → p.payloadOk = true →
      node ≠ s.node → exec (.csrWrite p node addr [v]) s = .next (t.csrNext ref true node addr [v] []))
  ∧ (∀ (s t : State) (p : HostPkt) (ref value : Nat), s.accept? p 0x30 false true false = some (ref, t) → p.payloadOk = true →
      t.roleLicensed (bitsOf value 60 58) = true → phasePermits (bitsOf value 62 61) (bitsOf value 60 58) = true →
      t.turning = false → exec (.phaseTurn p value) s = .next ((t.acceptTurn value).hostReply ref .ok []))
  ∧ (∀ (s t : State) (p : HostPkt) (ref value : Nat), s.accept? p 0x30 false true false = some (ref, t) → p.payloadOk = true →
      t.roleLicensed (bitsOf value 60 58) = true → phasePermits (bitsOf value 62 61) (bitsOf value 60 58) = false →
      exec (.phaseTurn p value) s = .next (t.hostReply ref .badParam []))
  ∧ (∀ (s : State) (k : ReqKey), exec (.replyCacheExpiry k) s
      = .next (s.onHcp fun h => { h with cache := h.cache.filter fun c => !decide (c.reply.key = k) }))

/-- Request-state commands of a host: acted on at the home, forwarded to it, or refused, and what each does when it is
accepted: SUBMIT and RESUME with the prompt inline and read from the host, CANCEL, PAUSE, QUERY, SET_TTL and MOVE
(R20, R41, R64, R66, R68, R92, R218, R330 to R333, R440), and the TOKEN packets sent in ACK_MODE 0 and 1 and TOKEN_ACK
(section 12.4). -/
def Obligations.HostRequestCommands : Prop :=
  (∀ (s t : State) (p : HostPkt) (ref op : Nat) (fast admin : Bool) (c : Instr) (f : FwdCmd) (id n : Nat), (c, f, op, fast, admin) ∈
        [(Instr.cancel p id, FwdCmd.cancel id, 0x11, true, false), (.pause p id n, .pause id n, 0x12, true, false),
         (.queryReq p id, .query id, 0x14, true, false), (.setTtl p id n, .setTtl id n, 0x16, false, false),
         (.move p id n, .move id n, 0x17, false, true)] → s.accept? p op fast admin false = some (ref, t) → p.payloadOk = true →
    exec c s = .next (if t.isHome id = true then
        (if t.transitOnly = true then t.hostReply ref .nodeResetting [] else t.homeCommand f p.tenant (.here ref))
      else if t.isUnreachable (idHome id) = true then t.toDeputy f p.tenant ref .nodeUnreachable
      else (t.onHcp fun h => { h with later := h.later ++ [.forwarded ref (idHome id) f p.tenant none] }).sendMsg (idHome id)
        (.command f p.tenant ref)))
  ∧ (∀ (s : State) (c : FwdCmd) (tenant ref : Nat) (st : St) (w : Work), s.work? c.id = some w → w.r.mirrored = true →
      s.isUnreachable w.r.deputy = false → w.r.deputy ≠ s.node → s.toDeputy c tenant ref st
        = (s.onHcp fun h => { h with later := h.later ++ [.forwarded ref w.r.deputy c tenant (some st)] }).sendMsg w.r.deputy
            (.command c tenant ref))
  ∧ (∀ (s : State) (c : FwdCmd) (tenant ref : Nat) (st : St), s.work? c.id = none → s.toDeputy c tenant ref st = s.hostReply ref st [])
  ∧ (∀ (s t : State) (p : HostPkt) (ref : Nat) (b : ResumeBlock) (tokens : List Nat), s.accept? p 0x13 true false false = some (ref, t) →
      p.payloadOk = true → tokens.length = (if b.promptSrc = 0 then b.promptLength else 0) → t.isHome b.id = true →
      t.transitOnly = false → exec (.resume p b tokens) s = .next (t.homeCommand (.resume b tokens) p.tenant (.here ref)))
  ∧ (∀ (s : State) (c : FwdCmd) (tenant : Nat) (rep : ReplyTo), s.home? c.id = none →
      s.homeCommand c tenant rep = s.replyTo rep .noRequest [])
  ∧ (∀ (s : State) (c : FwdCmd) (tenant : Nat) (rep : ReplyTo) (h : HomeRec), s.home? c.id = some h → h.checkOk = true →
      h.r.state ≠ .free → h.r.tenant ≠ tenant → s.homeCommand c tenant rep = s.replyTo rep .accessDenied [])
  ∧ (∀ (s : State) (id : Nat) (rep : ReplyTo) (h : HomeRec), s.home? id = some h → h.checkOk = true → h.r.state = .queued →
      h.placing = none → s.homeCommand (.cancel id) h.r.tenant rep
        = s.finalise { h with r := { h.r with cancelSeen := true }, waits := h.waits ++ [.cancel rep] } .cancelled .cancelled s.node)
  ∧ (∀ (s : State) (id ttl : Nat) (rep : ReplyTo) (h : HomeRec), s.home? id = some h → h.checkOk = true → h.r.state = .decode →
      ttl ≤ s.reg R.RSE_TTL_TTL_MAX → s.homeCommand (.pause id ttl) h.r.tenant rep
        = (s.putHome { h with waits := h.waits ++ [.pause ⟨false, ttl, some rep⟩] }).forwardWait
            { h with waits := h.waits ++ [.pause ⟨false, ttl, some rep⟩] } (.pause ⟨false, ttl, some rep⟩))
  ∧ (∀ (s : State) (b : ResumeBlock) (tokens : List Nat) (rep : ReplyTo) (h : HomeRec), s.home? b.id = some h → h.checkOk = true →
      h.r.state = .paused → s.homeCommand (.resume b tokens) h.r.tenant rep
        = (if s.reg R.PHS_PHASE_STATE = 0 then s.resumeHome h b tokens rep else s.replyTo rep .admissionClosed []))
  ∧ (∀ (s : State) (c : FwdCmd) (tenant : Nat) (rep : ReplyTo) (h : HomeRec), s.home? c.id = some h → h.checkOk = false →
      s.homeCommand c tenant rep = s.commandLater c tenant rep)
  ∧ (∀ (s : State) (id : Nat) (rep : ReplyTo) (h : HomeRec), s.home? id = some h → h.checkOk = true → h.r.state ≠ .free →
      s.homeCommand (.query id) h.r.tenant rep = s.replyTo rep .ok (s.queryBytes h))
  ∧ (∀ (s : State) (id ttl : Nat) (rep : ReplyTo) (h : HomeRec), s.home? id = some h → h.checkOk = true → h.r.state = .paused →
      s.reg R.RSE_TTL_TTL_MAX < ttl → s.homeCommand (.setTtl id ttl) h.r.tenant rep = s.replyTo rep .ttlRange [])
  ∧ (∀ (s : State) (id dest : Nat) (rep : ReplyTo) (h : HomeRec), s.home? id = some h → h.checkOk = true → h.r.state = .decode →
      h.r.owner ≠ dest → s.homeCommand (.move id dest) h.r.tenant rep
        = (s.putHome { h with waits := h.waits ++ [.move dest rep] }).forwardWait { h with waits := h.waits ++ [.move dest rep] }
            (.move dest rep))
  ∧ (∀ (s t : State) (p : HostPkt) (ref : Nat) (b : SubmitBlock) (tokens : List Nat), s.accept? p 0x10 true false false = some (ref, t) →
      p.payloadOk = true → t.admitting = false → exec (.submit p b tokens) s = .next (t.hostReply ref .admissionClosed []))
  ∧ (∀ (s t : State) (p : HostPkt) (ref : Nat) (b : SubmitBlock) (tokens : List Nat) (id : Nat) (v w : State),
      s.accept? p 0x10 true false false = some (ref, t) → p.payloadOk = true →
      let u := t.freeSlot.2
      let ps := ((u.model? b.modelId).map (·.pageSize)).getD 0
      t.submitCheck b p.tenant tokens (t.freeSlot.1 && (u.framesFit ps (u.promptPages b)
        && u.promptPages b + u.reservedEntries ≤ u.freeEntries)) = none → b.promptSrc = 0 → u.newId = (id, v) →
      v.writeHistory (v.submitRecord b id p.tenant p.src p.port ps tokens) tokens = some w →
      exec (.submit p b tokens) s = .next (w.change { homeOf (v.submitRecord b id p.tenant p.src p.port ps tokens) tokens with prefixKey := b.prefixKey, prefixLen := b.prefixLength }
        (.submit (.here ref))))
  ∧ (∀ (s : State) (b : SubmitBlock) (id tenant src port ps : Nat) (tokens : List Nat),
      let r := s.submitRecord b id tenant src port ps tokens
      r.id = id ∧ r.epoch = 1 ∧ r.owner = s.node ∧ r.state = .queued ∧ r.tenant = tenant ∧ r.pageSize = ps
        ∧ r.historyLength = b.promptLength ∧ r.kvCommitted = 0 ∧ r.genCommitted = 0 ∧ r.maxNewTokens = b.maxNew
        ∧ r.policyVersion = s.reg R.PHS_POLICY_CURRENT ∧ r.finalStatus = .ok)
  ∧ (∀ (s : State) (new : HomeRec) (c : Change), s.mirrors new.r.id = false → s.change new c = (s.putHome new).finish new.r.id c)
  ∧ (∀ (s : State) (id ref : Nat) (h : HomeRec), s.home? id = some h → s.finish id (.submit (.here ref))
      = (s.enqueue id).replyTo (.here ref) .ok (toBytes 8 id))
  ∧ (∀ (s : State), s.rse.nextCount < 2 ^ 32 → s.newId = (s.node * 2 ^ 48 + s.rse.generation * 2 ^ 32 + s.rse.nextCount,
      s.onRse fun e => { e with nextCount := e.nextCount + 1 }))
  ∧ (∀ (s : State) (ref : Nat) (st : St) (tokens : List Nat), s.hcp.qps = [] → s.hcp.later = [] →
      exec (.submitPromptReadDone ref st tokens) s = .next s)
  ∧ (∀ (s : State) (ref tenant src port ps : Nat) (b : SubmitBlock) (st : St) (tokens : List Nat), s.hcp.qps = [] →
      s.hcp.later = [.submit ref b tenant src port ps] → st ≠ .ok ∨ tokens.length ≠ b.promptLength →
      exec (.submitPromptReadDone ref st tokens) s
        = .next (((s.unreserve (2 ^ 64 + ref)).onHcp fun h => { h with later := [] }).hostReply ref .hostReadFailed []))
  ∧ (∀ (s : State) (ref tenant src port ps : Nat) (b : SubmitBlock) (tokens : List Nat) (id : Nat) (v w : State), s.hcp.qps = [] →
      s.hcp.later = [.submit ref b tenant src port ps] → tokens.length = b.promptLength →
      ((s.unreserve (2 ^ 64 + ref)).onHcp fun h => { h with later := [] }).newId = (id, v) →
      v.writeHistory (v.submitRecord b id tenant src port ps tokens) tokens = some w →
      exec (.submitPromptReadDone ref .ok tokens) s
        = .next (w.change { homeOf (v.submitRecord b id tenant src port ps tokens) tokens with prefixKey := b.prefixKey, prefixLen := b.prefixLength }
          (.submit (.here ref))))
  ∧ (∀ (s : State) (ref tenant : Nat) (b : ResumeBlock) (rep : ReplyTo) (st : St) (tokens : List Nat), s.hcp.qps = [] →
      s.hcp.later = [.resume ref b tenant rep] → exec (.resumePromptReadDone ref st tokens) s
        = .next (let t := s.onHcp fun h => { h with later := [] };
          if st = .ok ∧ tokens.length = b.promptLength then t.homeCommand (.resume b tokens) tenant rep
          else t.replyTo rep .hostReadFailed []))
  ∧ (∀ (s t : State) (p : HostPkt) (ref id : Nat) (h : HomeRec), s.accept? p 0x11 true false false = some (ref, t) →
      p.payloadOk = true → t.isHome id = true → t.transitOnly = false → t.home? id = some h → h.checkOk = true →
      h.r.tenant = p.tenant → h.r.state = .queued ∨ h.r.state = .paused ∨ h.r.state = .parked → h.placing = none →
      exec (.cancel p id) s = .next (t.finalise { h with r := { h.r with cancelSeen := true }, waits := h.waits ++ [.cancel (.here ref)] } .cancelled .cancelled t.node))
  ∧ (∀ (s t : State) (p : HostPkt) (ref id : Nat) (h : HomeRec), s.accept? p 0x11 true false false = some (ref, t) →
      p.payloadOk = true → t.isHome id = true → t.transitOnly = false → t.home? id = some h → h.checkOk = true →
      h.r.tenant = p.tenant → h.r.state = .decode → exec (.cancel p id) s
        = .next ((t.noteHome { h with r := { h.r with cancelSeen := true }, waits := h.waits ++ [.cancel (.here ref)] }).forwardWait
            { h with r := { h.r with cancelSeen := true }, waits := h.waits ++ [.cancel (.here ref)] } (.cancel (.here ref))))
  ∧ (∀ (s t : State) (p : HostPkt) (ref id ttl : Nat) (h : HomeRec), s.accept? p 0x12 true false false = some (ref, t) →
      p.payloadOk = true → t.isHome id = true → t.transitOnly = false → t.home? id = some h → h.checkOk = true →
      h.r.tenant = p.tenant → h.r.state = .decode → ttl ≤ t.reg R.RSE_TTL_TTL_MAX → exec (.pause p id ttl) s
        = .next ((t.putHome { h with waits := h.waits ++ [.pause ⟨false, ttl, some (.here ref)⟩] }).forwardWait
            { h with waits := h.waits ++ [.pause ⟨false, ttl, some (.here ref)⟩] } (.pause ⟨false, ttl, some (.here ref)⟩)))
  ∧ (∀ (s t : State) (p : HostPkt) (ref id : Nat) (h : HomeRec), s.accept? p 0x14 true false false = some (ref, t) →
      p.payloadOk = true → t.isHome id = true → t.transitOnly = false → t.home? id = some h → h.checkOk = true →
      h.r.tenant = p.tenant → h.r.state ≠ .free → exec (.queryReq p id) s = .next (t.hostReply ref .ok (t.queryBytes h)))
  ∧ (∀ (s t : State) (p : HostPkt) (ref id ttl : Nat) (h : HomeRec), s.accept? p 0x16 false false false = some (ref, t) →
      p.payloadOk = true → t.isHome id = true → t.transitOnly = false → t.home? id = some h → h.checkOk = true →
      h.r.tenant = p.tenant → h.r.state = .paused → ttl ≤ t.reg R.RSE_TTL_TTL_MAX →
      let k := if ttl = 0 then t.reg R.RSE_TTL_TTL_DEFAULT else ttl
      let u := t.noteHome { h with deadline := some (t.tick + k) }
      exec (.setTtl p id ttl) s = .next ((u.sendMsgs (.pgTtl h.r.id h.r.epoch k) (((u.ownPages h.r.id).flatMap Page.holders).map
        (·.1)).dedup).hostReply ref .ok []))
  ∧ (∀ (s t : State) (p : HostPkt) (ref id dest : Nat) (h : HomeRec), s.accept? p 0x17 false true false = some (ref, t) →
      p.payloadOk = true → t.isHome id = true → t.transitOnly = false → t.home? id = some h → h.checkOk = true →
      h.r.tenant = p.tenant → h.r.state = .decode → h.r.owner ≠ dest → exec (.move p id dest) s
        = .next ((t.putHome { h with waits := h.waits ++ [.move dest (.here ref)] }).forwardWait
            { h with waits := h.waits ++ [.move dest (.here ref)] } (.move dest (.here ref))))
  ∧ (∀ (s : State) (h : HomeRec) (b : ResumeBlock) (tokens : List Nat) (rep : ReplyTo) (u : State), s.pendingChange h.r.id = false →
      h.deferred = none → s.mustRebase h.r = false → h.r.state = .paused → b.rsvdOk = true → b.promptSrc ≤ 1 →
      b.promptLength ≤ 16777216 → 0 < b.maxNew → b.ttl ≤ s.reg R.RSE_TTL_TTL_MAX → tokens.length = b.promptLength →
      let hist := h.history.take (h.r.historyLength + h.r.genCommitted) ++ tokens
      let r : Record := { h.r with historyLength := h.r.historyLength + h.r.genCommitted + b.promptLength, genCommitted := 0, streamed := 0, stepCount := 0, maxNewTokens := b.maxNew, ttlTicks := b.ttl, replyStream := b.replyStream, state := .queued, lastToken := if b.promptLength = 0 then h.r.lastToken else tokens.getLastD 0 }
      s.writeHistory r hist = some u →
      s.resumeHome h b tokens rep = u.change { h with r := r, history := hist, deadline := none } (.resume rep))
  ∧ (∀ (s t : State) (p : HostPkt) (ref : Nat) (b : ResumeBlock) (tokens : List Nat) (h : HomeRec) (u : State),
      s.accept? p 0x13 true false false = some (ref, t) → p.payloadOk = true → t.isHome b.id = true → t.transitOnly = false →
      t.home? b.id = some h → h.checkOk = true → h.r.tenant = p.tenant → t.reg R.PHS_PHASE_STATE = 0 →
      t.pendingChange h.r.id = false → h.deferred = none → t.mustRebase h.r = false → h.r.state = .paused → b.rsvdOk = true →
      b.promptSrc = 0 → b.promptLength ≤ 16777216 → 0 < b.maxNew → b.ttl ≤ t.reg R.RSE_TTL_TTL_MAX →
      tokens.length = b.promptLength →
      let hist := h.history.take (h.r.historyLength + h.r.genCommitted) ++ tokens
      let r : Record := { h.r with historyLength := h.r.historyLength + h.r.genCommitted + b.promptLength, genCommitted := 0, streamed := 0, stepCount := 0, maxNewTokens := b.maxNew, ttlTicks := b.ttl, replyStream := b.replyStream, state := .queued, lastToken := if b.promptLength = 0 then h.r.lastToken else tokens.getLastD 0 }
      t.writeHistory r hist = some u →
      exec (.resume p b tokens) s = .next (u.change { h with r := r, history := hist, deadline := none } (.resume (.here ref))))
  ∧ (∀ (s : State) (ref : Nat) (b : ResumeBlock) (tokens : List Nat) (rep : ReplyTo) (h : HomeRec) (u : State), s.hcp.qps = [] →
      s.hcp.later = [.resume ref b h.r.tenant rep] → s.home? b.id = some h → h.checkOk = true → s.reg R.PHS_PHASE_STATE = 0 →
      s.pendingChange h.r.id = false → h.deferred = none → s.mustRebase h.r = false → h.r.state = .paused → b.rsvdOk = true →
      b.promptSrc ≤ 1 → b.promptLength ≤ 16777216 → 0 < b.maxNew → b.ttl ≤ s.reg R.RSE_TTL_TTL_MAX →
      tokens.length = b.promptLength →
      let t := s.onHcp fun h => { h with later := [] }
      let hist := h.history.take (h.r.historyLength + h.r.genCommitted) ++ tokens
      let r : Record := { h.r with historyLength := h.r.historyLength + h.r.genCommitted + b.promptLength, genCommitted := 0, streamed := 0, stepCount := 0, maxNewTokens := b.maxNew, ttlTicks := b.ttl, replyStream := b.replyStream, state := .queued, lastToken := if b.promptLength = 0 then h.r.lastToken else tokens.getLastD 0 }
      t.writeHistory r hist = some u →
      exec (.resumePromptReadDone ref .ok tokens) s
        = .next (u.change { h with r := r, history := hist, deadline := none } (.resume rep)))
  ∧ (∀ (s t : State) (p : HostPkt) (lo hi id next : Nat) (adm : Bool) (w : Work), s.unseen p true = (some (lo, hi, adm), t) →
      p.kind = 0 → t.reg R.PHS_VERSIONS_PRAYR_MIN ≤ p.version → p.version ≤ t.reg R.PHS_VERSIONS_PRAYR_MAX → lo ≤ p.tenant →
      p.tenant ≤ hi → p.payloadOk = true → t.bld.node ≠ .recovery → t.pathUsed true < pathDepth true → t.work? id = some w →
      w.status = .owned → t.flag R.HCP_TOKEN_CFG_ACK_MODE = true → exec (.tokenAck p id w.r.epoch next) s
        = .next ((t.bump R.HCP_STATS_COMMANDS).drainTokens (t.hcp.tokens.filter fun x => x.id == id && x.pos + x.tokens.length ≤ next)))
  ∧ (∀ (s : State) (k : TokenPkt), (s.hcp.tokens.find? fun t => if s.flag R.HCP_TOKEN_CFG_ACK_MODE = true then !t.sent else
      !s.tokenHeld t) = some k →
      s.hostUp = true → exec .tokenTransmit s = .next (s.sendToken k))
  ∧ (∀ (s : State) (k : TokenPkt), s.flag R.HCP_TOKEN_CFG_ACK_MODE = true → s.hostUp = true → s.hcp.tokens = [k] → k.sent = true →
      s.reg R.HCP_TOKEN_CFG_RETX_LIMIT = 0 → exec (.tokenRetxExpiry k.id) s
        = .next (((s.onHcp fun h => { h with tokens := [{ k with retx := k.retx + 1 }] }).bump
            R.HCP_DROP_STATS_TOKEN_RETX).hostSend 0 (.token k)))
  ∧ (∀ (s : State) (k : TokenPkt), s.flag R.HCP_TOKEN_CFG_ACK_MODE = true → s.hostUp = true → s.hcp.tokens = [k] → k.sent = true →
      s.reg R.HCP_TOKEN_CFG_RETX_LIMIT ≠ 0 → s.reg R.HCP_TOKEN_CFG_RETX_LIMIT ≤ k.retx → exec (.tokenRetxExpiry k.id) s
        = .next (((s.drainToken k).count R.HCP_DROP_STATS_TOKEN_DROPPED 1).post .tokenDropped (s.reqCtx k.id)
            ((max 0 (k.pos + k.tokens.length - 1)) * 2 ^ 32 + min k.pos k.pos, k.id)))

/-- What the host port answers by itself, the next hop and the tag of what it sends, its state, and the writes of its
registers, meters and shapers (R320 to R322, R337, R342, R343, R348 to R350). -/
def Obligations.HostPort : Prop :=
  (∀ (s : State), exec .hostPacketDrop s = .next (if s.hostUp = true then s.bump R.HCP_STATS_CHECK_DROPS else s))
  ∧ (∀ (s : State) (vlan : Option Nat) (target asker : Nat), s.hostUp = true → exec (.hostArp target ⟨vlan, asker⟩) s
      = .next (if s.tagOk vlan = true ∧ s.reg R.HCP_IPV4_ADDR ≠ 0 ∧ target = s.reg R.HCP_IPV4_ADDR then s.hostEmit (.arp target asker)
        else s.bump R.HCP_STATS_CHECK_DROPS))
  ∧ (∀ (s : State) (vlan : Option Nat) (target asker : Nat), s.hostUp = true → exec (.hostNeighbourSolicit target ⟨vlan, asker⟩) s
      = .next (if s.tagOk vlan = true ∧ s.ownV6 target = true then s.hostEmit (.neighbour target asker)
        else s.bump R.HCP_STATS_CHECK_DROPS))
  ∧ (∀ (s : State) (vlan : Option Nat) (target asker : Nat) (d : List Byte), s.hostUp = true →
      exec (.hostIcmpEcho target ⟨vlan, asker⟩ d) s
        = .next (if s.tagOk vlan = true ∧ s.ownAddr target = true then s.hostEmit (.echo asker d)
          else s.bump R.HCP_STATS_CHECK_DROPS))
  ∧ (∀ (s : State) (o : HostOut), o.onLink = false → s.hostEmit o = s.emit (.host
      (if s.flag R.HCP_PORT_CFG_VLAN_EN = true then some (s.reg R.HCP_PORT_CFG_VID) else none) (s.nextHop (s.outDst o)) o))
  ∧ (∀ (s : State) (a : Nat), a / 2 ^ 32 = 0xFFFF → s.reg R.HCP_IPV4_GW_GW ≠ 0 → a % 2 ^ 32 / 2 ^ (32 - s.reg R.HCP_IPV4_PREFIX_LEN)
      ≠ s.reg R.HCP_IPV4_ADDR / 2 ^ (32 - s.reg R.HCP_IPV4_PREFIX_LEN) → s.nextHop a = 0xFFFF * 2 ^ 32 + s.reg R.HCP_IPV4_GW_GW)
  ∧ (∀ (s : State) (a : Nat), a / 2 ^ 118 = 0x3FA → s.nextHop a = a)
  ∧ (∀ (s : State), s.hostUp = false → s.bld.node = .ready → s.bld.off = false → s.pcr.ref156 = true → s.laneBad 0xFF 0 = false →
      s.laneBad 0xFF 4 = false → exec .hostPortUp s
        = .next ((((((s.setRegs [(R.HCP_PORT_STATUS_STATE, 2), (R.HCP_PORT_STATUS_LANES_UP, 0xFF)]).shaperFill 0).shaperFill
            1).shaperFill 2).shaperFill 3).post .hostLinkUp 0xFFF (formO .ok s.node 0 0)))
  ∧ (∀ (s : State), s.hostUp = true → exec .hostPortDown s
      = .next ((s.setRegs [(R.HCP_PORT_STATUS_STATE, 0), (R.HCP_PORT_STATUS_LANES_UP, 0)]).post .hostLinkDown 0xFFF
          (formO .ok s.node 0 0)))
  ∧ (∀ (s : State) (v : Nat), v % 65536 < 1280 ∨ 9000 < v % 65536 → exec (.hcpRegWrite 0x10000 v) s = .next s)
  ∧ (∀ (s : State) (v : Nat), 1280 ≤ v % 65536 → v % 65536 ≤ 9000 → bitAt v 39 = s.flag R.HCP_PORT_CFG_VLAN_EN →
      exec (.hcpRegWrite 0x10000 v) s = .next ((s.writeRw 0x10000 v).dropHeld fun o => !s.outFits o (v % 65536)))
  ∧ (∀ (s : State) (v : Nat), bitsOf v 39 32 ≤ 32 → exec (.hcpRegWrite 0x10018 v) s
      = .next (if v % 2 ^ 32 = s.reg R.HCP_IPV4_ADDR then s.writeRw 0x10018 v
        else (s.writeRw 0x10018 v).dropHeld fun o => isV4 (s.outDst o)))
  ∧ (∀ (s : State) (v : Nat), 16383 < v → exec (.hcpRegWrite 0x10090 v) s = .next s)
  ∧ (∀ (s : State) (v : Nat), exec (.hcpRegWrite 0x10040 v) s = .next (s.writeRw 0x10040 v))
  ∧ (∀ (s : State) (v : Nat), exec (.trfMeterWrite 0x20010 v) s
      = .next (let m := s.meter (s.reg R.TRF_METER_SEL_TENANT);
        s.putMeter { m with pir := bitsOf v 63 32, cir := bitsOf v 31 0, tc := Meter.grain * m.cbs, tp := Meter.grain * m.pbs, at_ := s.aon }))
  ∧ (∀ (s : State) (v : Nat), exec (.trfMeterWrite 0x20018 v) s
      = .next (if bitAt v 63 = true ∧ (bitsOf v 47 24 = 0 ∨ bitsOf v 23 0 = 0) then s
        else s.putMeter { s.meter (s.reg R.TRF_METER_SEL_TENANT) with enable := bitAt v 63, bytes := bitAt v 62, pbs := bitsOf v 47 24, cbs := bitsOf v 23 0, tc := Meter.grain * bitsOf v 23 0, tp := Meter.grain * bitsOf v 47 24, at_ := s.aon }))
  ∧ (∀ (s : State) (k v : Nat), k < 4 → exec (.shaperWrite (0x20100 + 8 * k) v) s
      = .next ((s.writeRw (0x20100 + 8 * k) v).shaperFill k))
  ∧ (∀ (s : State) (k v : Nat), k < 128 → exec (.shaperWrite (0x20200 + 8 * k) v) s
      = .next ((s.writeRw (0x20200 + 8 * k) v).shaperFill (4 + k)))
  ∧ (∀ (s : State) (o : HostOut), s.hostUp = true → s.heldHead 0 = some o → s.shaperCovers 0 o.bits = true →
      exec (.shaperRelease 0) s
        = .next ((((s.onHcp fun h => { h with held := dropFirst (0, o) h.held }).shaperTake 0 o.bits).hostEmit o).transmitted o))
  ∧ (∀ (s : State) (c k : Nat) (o : HostOut), s.hostUp = true → 1 ≤ k → k < 4 → s.eligible k = true → s.eligible 0 = false →
      s.nextClass = some c → s.heldHead c = some o → exec (.shaperRelease k) s
        = .next ((((s.onHcp fun h => { h with held := dropFirst (c, o) h.held, lastClass := c }).shaperTake c o.bits).hostEmit
          o).transmitted o))
  ∧ (∀ (s : State) (c : Nat) (f : Frame), (s.hcp.heldFab.find? fun x => x.1 == c) = some (c, f) →
      s.shaperCovers (4 + c) (8 * f.bytes) = true → exec (.shaperRelease (4 + c)) s
        = .next (let t := (s.onHcp fun h => { h with heldFab := dropFirst (c, f) h.heldFab }).shaperTake (4 + c) (8 * f.bytes);
          (t.injectNow (coverFrame (t.outCh f.dst).sent f)).pumpDst f.dst))
  ∧ (∀ (s : State) (k : TokenPkt), s.flag R.HCP_TOKEN_CFG_ACK_MODE = false → s.hostUp = true → s.sendToken k
      = if s.hostHolds 0 (.token k) = true then s.onHcp fun h => { h with held := h.held ++ [(0, .token k)] }
        else ((s.shaperTake 0 (HostOut.token k).bits).hostEmit (.token k)).drainToken k)

/-- RoCEv2: queue pairs set up and destroyed, how their operations end, sequence numbers and congestion notices, the
windows and the host's accesses to them, and the I3C target (R344 to R347). -/
def Obligations.RdmaAndManagement : Prop :=
  (∀ (s t : State) (p : HostPkt) (ref : Nat) (c : QpCfg), s.accept? p 0x32 false true true = some (ref, t) → p.payloadOk = true →
    c.ok = true → t.qp? c.index = none → exec (.qpSetup p c) s = .next ((t.putQp c.qp).hostReply ref .ok (toBytes 8 (0x100 + c.index))))
  ∧ (∀ (s t : State) (p : HostPkt) (ref : Nat) (c : QpCfg) (q : Qp), s.accept? p 0x32 false true true = some (ref, t) →
      p.payloadOk = true → c.ok = true → t.qp? c.index = some q → exec (.qpSetup p c) s = .next (t.hostReply ref .tableBusy []))
  ∧ (∀ (s t : State) (p : HostPkt) (ref i : Nat) (q : Qp), s.accept? p 0x33 false true false = some (ref, t) → p.payloadOk = true →
      i < 16384 → t.qp? i = some q → exec (.qpDestroy p i) s
        = .next (((t.onHcp fun h => { h with qps := h.qps.filter fun x => x.index != i }).roceFails q.ops).hostReply ref .ok []))
  ∧ (∀ (s : State) (rkey va : Nat) (h : RoceHdr) (d : List Byte), s.hostUp = true → s.hears h.net rocePort = false →
      exec (.hostRdmaWrite h rkey va d) s = .next (s.bump R.HCP_STATS_CHECK_DROPS))
  ∧ (∀ (s : State) (h : RoceHdr) (q : Qp), s.hostUp = true → s.hears h.net rocePort = true → s.qp? h.qp = some q →
      q.error = false → s.roceFront h = (some q, if h.ecn = true then s.hostSend 3 (.cnp h.qp) else s))
  ∧ (∀ (s u : State) (rkey va w : Nat) (h : RoceHdr) (q : Qp) (d : List Byte), s.roceFront h = (some q, u) → h.psn = q.rqPsn →
      h.outside = false → 1 ≤ d.length → d.length ≤ 2 ^ 31 → u.window? rkey va d.length true = some w →
      exec (.hostRdmaWrite h rkey va d) s
        = .next ((((u.wr .hbm va d).count (R.HCP_WINDOW_D_BYTES w) d.length).putQp
          { q with rqPsn := psnAdd q.rqPsn (q.packets d.length) }).hostSend 3 (.rdmaAck h.qp h.psn)))
  ∧ (∀ (s u : State) (rkey va : Nat) (h : RoceHdr) (q : Qp) (d : List Byte), s.roceFront h = (some q, u) →
      q.psnPlace h.psn = .again → h.outside = false → 1 ≤ d.length → d.length ≤ 2 ^ 31 →
      exec (.hostRdmaWrite h rkey va d) s = .next (u.hostSend 3 (.rdmaAck h.qp h.psn)))
  ∧ (∀ (s u : State) (rkey va n : Nat) (h : RoceHdr) (q : Qp) (d : List Byte), s.roceFront h = (some q, u) →
      q.psnPlace h.psn = .ahead → exec (.hostRdmaWrite h rkey va d) s = .next (u.hostSend 3 (.rdmaNak h.qp h.psn .sequence))
        ∧ exec (.hostRdmaRead h rkey va n) s = .next (u.hostSend 3 (.rdmaNak h.qp h.psn .sequence)))
  ∧ (∀ (s u : State) (rkey va n : Nat) (h : RoceHdr) (q : Qp) (d : List Byte), s.roceFront h = (some q, u) → h.psn = q.rqPsn →
      h.outside = true → exec (.hostRdmaWrite h rkey va d) s = .next (u.hostSend 3 (.rdmaNak h.qp h.psn .invalid))
        ∧ exec (.hostRdmaRead h rkey va n) s = .next (u.hostSend 3 (.rdmaNak h.qp h.psn .invalid)))
  ∧ (∀ (s u : State) (rkey va : Nat) (h : RoceHdr) (q : Qp) (d : List Byte), s.roceFront h = (some q, u) → h.psn = q.rqPsn →
      h.outside = false → 1 ≤ d.length → d.length ≤ 2 ^ 31 → u.window? rkey va d.length true = none →
      exec (.hostRdmaWrite h rkey va d) s = .next (u.hostSend 3 (.rdmaNak h.qp h.psn .access)))
  ∧ (∀ (s u : State) (rkey va len w : Nat) (h : RoceHdr) (q : Qp), s.roceFront h = (some q, u) → h.psn = q.rqPsn →
      h.outside = false → 1 ≤ len → len ≤ 2 ^ 31 → u.readsOut h.qp < q.maxReads → u.window? rkey va len false = some w →
      u.poisoned .hbm va len = none → exec (.hostRdmaRead h rkey va len) s
        = .next (((u.count (R.HCP_WINDOW_D_BYTES w) len).putQp { q with rqPsn := psnAdd q.rqPsn (q.packets len) }).hostSend 3
          (.rdmaReadResponse h.qp h.psn (u.rdBytes .hbm va len))))
  ∧ (∀ (s u : State) (rkey va len w : Nat) (h : RoceHdr) (q : Qp), s.roceFront h = (some q, u) → h.psn = q.rqPsn →
      u.window? rkey va len false = some w → (u.poisoned .hbm va len).isSome = true ∨ q.maxReads ≤ u.readsOut h.qp →
      exec (.hostRdmaRead h rkey va len) s = .next (u.hostSend 3 (.rdmaNak h.qp h.psn .invalid)))
  ∧ (∀ (s : State) (i : Nat) (e : Bool) (d : List Byte) (q : Qp) (o : RoceOp) (l : List RoceOp), s.qp? i = some q → q.ops = o :: l →
      q.error = false → o.write = true ∨ d.length = o.len → exec (.roceCompletion i ⟨e, d⟩) s
        = .next ((if e = true then (s.rocePop q).hostSend 3 (.cnp i) else s.rocePop q).roceDone o d))
  ∧ (∀ (s : State) (i : Nat) (q : Qp), s.qp? i = some q → q.error = false → q.ops ≠ [] → exec (.roceAckTimeout i) s
      = .next (if q.retriesLeft = 0 then s.qpFail q q.syndrome
        else (s.putQp { q with retriesLeft := q.retriesLeft - 1 }).roceSend i (q.ops.take (sendable q.maxReads q.ops))))
  ∧ (∀ (s : State) (i syn : Nat) (q : Qp), s.qp? i = some q → q.error = false → exec (.roceNak i syn) s
      = .next (((s.putQp { q with error := true, syndrome := syn, lastStatus := St.roceError.code, ops := [] }).post .qpError 0xFFF
          (formO .roceError s.node q.index syn)).roceFails q.ops))
  ∧ (∀ (s : State) (i : Nat) (q : Qp), s.qp? i = some q → exec (.roceCnp i) s = .next (s.putQp { q with rate := q.rate / 2 }))
  ∧ (∀ (s : State) (i : Nat) (q : Qp), s.qp? i = some q →
      exec (.roceRateRecovery i) s = .next (s.putQp { q with rate := min 65536 (q.rate + 4096) }))
  ∧ (∀ (s : State) (w v : Nat), w < 64 → bitAt v 63 = false → bitAt v 62 = s.flag (R.HCP_WINDOW_A_PERM_R w) →
      bitAt v 61 = s.flag (R.HCP_WINDOW_A_PERM_W w) → v % 2 ^ 46 = s.reg (R.HCP_WINDOW_A_BASE w) →
      s.flag (R.HCP_WINDOW_A_VALID w) = true → exec (.hcpWindowWrite (0x12000 + 32 * w) v) s
        = .next ((s.writeRw (0x12000 + 32 * w) v).setReg (R.HCP_WINDOW_A_BUSY w) 1))
  ∧ (∀ (s : State) (w v : Nat), w < 64 → s.flag (R.HCP_WINDOW_A_VALID w) = false → s.flag (R.HCP_WINDOW_A_BUSY w) = false →
      bitAt v 63 = true → s.hbmFree (v % 2 ^ 46) (s.reg (R.HCP_WINDOW_C_LENGTH w)) = true →
      exec (.hcpWindowWrite (0x12000 + 32 * w) v) s = .next (s.writeRw (0x12000 + 32 * w) v))
  ∧ (∀ (s : State) (w v : Nat), w < 64 → s.flag (R.HCP_WINDOW_A_VALID w) = true → v % 2 ^ 46 ≠ s.reg (R.HCP_WINDOW_A_BASE w) →
      exec (.hcpWindowWrite (0x12000 + 32 * w) v) s = .next s)
  ∧ (∀ (s : State) (w : Nat), exec (.windowCloseDone w) s
      = .next (if s.flag (R.HCP_WINDOW_A_BUSY w) = true then s.setReg (R.HCP_WINDOW_A_BUSY w) 0 else s))
  ∧ (∀ (s : State) (b : Byte) (d : List Byte), exec (.i3cPrivateWrite (b :: d)) s
      = .next (s.onHcp fun h => { h with i3c := { h.i3c with offset := b.toNat } }))
  ∧ (∀ (s : State) (n : Nat), s.hcp.i3c.offset + n ≤ s.hcp.i3c.snapshot.length → ∃ t, exec (.i3cPrivateRead n) s = .next t
      ∧ t.outbox = .i3c ((s.hcp.i3c.snapshot.drop s.hcp.i3c.offset).take n) :: s.outbox ∧ t.hcp = s.hcp)
  ∧ (∀ (s : State) (a : Nat), exec (.i3cEntdaa a) s = .next (s.onHcp fun h => { h with i3c := { h.i3c with dynAddr := some a } }))
  ∧ (∀ (s : State), ∃ t, exec .i3cSnapshotRefresh s = .next t ∧ t.hcp.i3c.offset = s.hcp.i3c.offset
      ∧ t.hcp.i3c.snapshot[0]? = some 1 ∧ t.hcp.i3c.snapshot[1]? = some (BitVec.ofNat 8 (s.reg R.BLD_BOOT_STAGE))
      ∧ t.hcp.i3c.snapshot[2]? = some (BitVec.ofNat 8 s.bld.node.code)
      ∧ (t.hcp.i3c.snapshot.drop 14).take 2 = toBytes 2 (s.reg R.PCR_SUPPLY_INPUT_MV)
      ∧ (t.hcp.i3c.snapshot.drop 18).take 2 = toBytes 2 (s.reg R.PCR_THERMAL_TJ_MAX))

/-- Defects, spares, tiles in and out of service and the retirement of HBM channels (R14, R15, R28, R31, R358 to R362, Table 13.3). -/
def Obligations.UnitsInService : Prop :=
  (∀ (s : State) (f : Finding), s.bld.defects.length < 4096 → s.addDefect f = (((s.onBld fun b => { b with defects := b.defects ++ [⟨s.bld.defects.length, f.kind, f.status, s.reg R.BLD_BOOT_START_COUNT, s.startTicks % 2 ^ 32, f.unit, f.sub, f.detail⟩] }).setReg R.BLD_DEFECT_COUNT (s.bld.defects.length + 1)).reReport))
  ∧ (∀ (s : State) (f : Finding), 4096 ≤ s.bld.defects.length → (s.addDefect f).bld.defects = s.bld.defects)
  ∧ (∀ (s : State) (tile phys st : Nat), tile < s.tiles → phys < 4 → bitAt (s.reg R.BLD_SERVICE_WITHDRAWN) tile = false →
      s.bld.spared = [] → exec (.coreFailure tile phys st) s
        = .next (((((s.addDefect ⟨.core, (St.ofCode st).getD .ok, tile, phys, 0⟩).onBld fun b => { b with spared := b.spared ++ [(tile, phys)] }).substitute (4 * tile + phys)).post .coreSpared 0xFFF
            (formO ((St.ofCode st).getD .ok) s.node tile 0))))
  ∧ (∀ (s : State) (tile phys p2 st : Nat), tile < s.tiles → phys ≤ 4 → bitAt (s.reg R.BLD_SERVICE_WITHDRAWN) tile = false →
      s.bld.spared = [(tile, p2)] → phys ≠ p2 →
      exec (.coreFailure tile phys st) s = .next (s.withdraw tile ((St.ofCode st).getD .ok)))
  ∧ (∀ (s : State) (tile phys st : Nat), bitAt (s.reg R.BLD_SERVICE_WITHDRAWN) tile = true ∨ s.tiles ≤ tile ∨ 4 < phys →
      exec (.coreFailure tile phys st) s = .next s)
  ∧ (∀ (s : State) (t : Nat) (st : St), bitAt (s.reg R.BLD_SERVICE_WITHDRAWN) t = false → s.withdraw t st
      = ((((((s.addDefect ⟨.tile, st, t, 0, 0⟩).setBit R.BLD_SERVICE_WITHDRAWN t true).setBit R.BLD_SERVICE_OFFLINE t false).tileOut
        t).tearDownAll .withdrawal .ok ((((s.addDefect ⟨.tile, st, t, 0, 0⟩).setBit R.BLD_SERVICE_WITHDRAWN t true).setBit
          R.BLD_SERVICE_OFFLINE t false).tileContexts t)).gateTile t).post .tileWithdrawn 0xFFF (formO st s.node t 0))
  ∧ (∀ (s t : State) (p : HostPkt) (ref tile : Nat), s.accept? p 0x4E false true false = some (ref, t) → p.payloadOk = true →
      tile < t.tiles → t.tileIn tile = true → t.tileUsed tile = false → exec (.tileServiceOffline p tile) s
        = .next ((((t.setBit R.BLD_SERVICE_OFFLINE tile true).tileOut tile).gateTile tile).hostReply ref .ok []))
  ∧ (∀ (s t : State) (p : HostPkt) (ref tile : Nat), s.accept? p 0x4E false true false = some (ref, t) → p.payloadOk = true →
      tile < t.tiles → t.tileIn tile = true → t.tileUsed tile = true →
      exec (.tileServiceOffline p tile) s = .next (t.hostReply ref .tableBusy []))
  ∧ (∀ (s t : State) (p : HostPkt) (ref tile : Nat), s.accept? p 0x4E false true false = some (ref, t) → p.payloadOk = true →
      tile < t.tiles → bitAt (t.reg R.BLD_SERVICE_OFFLINE) tile = true → t.bld.testing.contains tile = false →
      exec (.tileServiceOnline p tile) s = .next ((t.onBld fun b => { b with testing := b.testing ++ [tile] }).onHcp fun h => { h with later := h.later ++ [.tileOnline ref tile] }))
  ∧ (∀ (s t : State) (p : HostPkt) (ref tile : Nat), s.accept? p 0x4E false true false = some (ref, t) → p.payloadOk = true →
      tile < t.tiles → bitAt (t.reg R.BLD_SERVICE_OFFLINE) tile = false →
      exec (.tileServiceOnline p tile) s = .next (t.hostReply ref .badState []))
  ∧ (∀ (s : State) (tile : Nat), s.bld.testing = [tile] → bitAt (s.reg R.BLD_SERVICE_WITHDRAWN) tile = false →
      exec (.tileOnlineTestDone tile []) s = .next (((((s.onBld fun b => { b with testing := [] }).setBit R.BLD_SERVICE_OFFLINE tile
        false).tileBack tile).takeTile tile).onlineReply tile .ok))
  ∧ (∀ (s : State) (tile : Nat) (fs : List Finding), s.bld.testing.contains tile = false →
      exec (.tileOnlineTestDone tile fs) s = .next s)
  ∧ (∀ (s t : State) (p : HostPkt) (ref first count : Nat), s.accept? p 0x4C false true false = some (ref, t) → p.payloadOk = true →
      first < 8192 → 1 ≤ count → count ≤ 32 → exec (.defectRead p first count) s
        = .next (t.hostReply ref .ok (((t.bld.defects.drop first).take count).flatMap Defect.bytes)))
  ∧ (∀ (d : Defect), d.bytes.length = 32)
  ∧ (∀ (s t : State) (p : HostPkt) (ref : Nat), s.accept? p 0x4D false true false = some (ref, t) → p.payloadOk = true →
      exec (.defectClear p) s = .next (t.approved ref 0x4D (commandDigest 0x4D []) false (·.defectClear)))
  ∧ (∀ (s : State), s.defectClear = (((s.onBld fun b => { b with cleared := b.cleared ++ b.defects, defects := [] }).setRegs
      [(R.BLD_DEFECT_COUNT, 0), (R.BLD_DEFECT_OVERFLOW, 0)]).reReport, .ok))
  ∧ (∀ (s t : State) (p : HostPkt) (ref stack channel : Nat), s.accept? p 0x4F false true false = some (ref, t) → p.payloadOk = true →
      stack < t.stacks → channel < 32 → t.known ⟨.hbmChannel, .ok, stack, channel, 0⟩ = false → t.bld.retire = none →
      t.resetting = false → t.bld.node = .ready → t.retireBusy = false → t.retireFits = true →
      exec (.channelRetire p stack channel) s
        = .next (((t.lowerLimit.beyond.foldl State.retirePage t.lowerLimit).onBld fun b => { b with retire := some ⟨stack, channel, false, t.retireLow⟩ }).onHcp fun h => { h with later := h.later ++ [.channelRetire ref] }))
  ∧ (∀ (s t : State) (p : HostPkt) (ref stack channel : Nat), s.accept? p 0x4F false true false = some (ref, t) → p.payloadOk = true →
      stack < t.stacks → channel < 32 → t.known ⟨.hbmChannel, .ok, stack, channel, 0⟩ = true ∨ t.bld.retire.isSome = true →
      exec (.channelRetire p stack channel) s = .next (t.hostReply ref .badState []))
  ∧ (∀ (s : State) (r : Retire), s.bld.retire = some r → r.copying = false → s.beyond = [] → s.beyondTargets = [] →
      exec .channelCopyStart s = .next ((s.onBld fun b => { b with retire := some { r with copying := true } }).setReg
        R.BLD_HBM_RETIRING 1))
  ∧ (∀ (s : State), s.bld.retire = none → exec .channelCopyStart s = .next s ∧ exec .channelCopyDone s = .next s)
  ∧ (∀ (s : State) (r : Retire), s.bld.retire = some r → r.copying = true → s.bld.resetAfterCopy = none → exec .channelCopyDone s
      = .next ((((((s.channelOut r.stack r.channel .ok).dropRange r.low (3 * 2 ^ 30)).onBld fun b => { b with retire := none }).setReg
        R.BLD_HBM_RETIRING 0).post .channelRetired 0xFFF (formO .ok s.node 0 0)).retireReply .ok))
  ∧ (∀ (s : State) (low n a : Nat), low ≤ a → a < low + n → (s.dropRange low n).rdNum .hbm a 1 = 0)

/-- Resets: what a cold start and a warm reset keep and lose (a change without its answer among it), the compute-only
reset, and the commands and pins that ask for them (R35, R45, R251, R351 to R355, R406, R413, R425, Table 13.1). -/
def Obligations.Resets : Prop :=
  (∀ (s : State) (pin : Bool), exec (.coldStart pin) s = .next (((s.fullReset .cold).onBld fun b => { b with rstN := pin, tripped := false }).onPcr fun p => { p with thermTripPin := false }))
  ∧ (∀ (s : State), (s.fullReset .cold).hbm = [] ∧ (s.fullReset .cold).tileBuf = [] ∧ (s.fullReset .cold).opBuf = []
      ∧ (s.fullReset .cold).cores = [] ∧ (s.fullReset .cold).sch = .reset ∧ (s.fullReset .cold).exp = .reset
      ∧ (s.fullReset .cold).xfr = .reset ∧ (s.fullReset .cold).syn = .reset ∧ (s.fullReset .cold).mzt = .reset
      ∧ (s.fullReset .cold).evt = .reset ∧ (s.fullReset .cold).fab.links = [] ∧ (s.fullReset .cold).fab.routes = []
      ∧ (s.fullReset .cold).fab.regions = [] ∧ (s.fullReset .cold).fab.incarnation = (s.fab.incarnation + 1) % 256
      ∧ (s.fullReset .cold).bld.node = .booting ∧ (s.fullReset .cold).bld.stage = 1 ∧ (s.fullReset .cold).rse.homes = []
      ∧ (s.fullReset .cold).rse.generation = (s.rse.generation + 1) % 65536 ∧ (s.fullReset .cold).rse.nextCount = 1)
  ∧ (∀ (s : State), (s.fullReset .warm).tileBuf = [] ∧ (s.fullReset .warm).opBuf = []
      ∧ (s.fullReset .warm).cores = [] ∧ (s.fullReset .warm).exp = .reset
      ∧ (s.fullReset .warm).xfr = .reset ∧ (s.fullReset .warm).syn = .reset ∧ (s.fullReset .warm).evt = .reset
      ∧ (s.fullReset .warm).fab.links = [] ∧ (s.fullReset .warm).fab.incarnation = (s.fab.incarnation + 1) % 256
      ∧ (s.fullReset .warm).bld.stage = 2
      ∧ (s.fullReset .warm).rse.generation = (s.rse.generation + 1) % 65536 ∧ (s.fullReset .warm).rse.nextCount = 1)
  ∧ (∀ (s : State), s.rse.mirrorOut = [] → (s.fullReset .warm).hbm = s.hbm ∧ (s.fullReset .warm).rse.mirrors = s.rse.mirrors
      ∧ (s.fullReset .warm).rse.homes = s.rse.homes.map (fun h => { h with placing := none, heldResume := none })
      ∧ (s.fullReset .warm).pge.pages = (s.pge.pages.filter (!·.freeing)).map fun p => { p with migrating := false })
  ∧ (∀ (s : State), s.rse.mirrorOut = [] → (∀ h ∈ s.rse.homes, h.r.state ≠ .queued) → (s.fullReset .warm).sch = .reset)
  ∧ (∀ (s : State) (h : HomeRec), s.rse.mirrorOut = [] → s.rse.homes = [h] → h.r.state = .queued →
      (s.fullReset .warm).sch = { Sch.reset with queuedSeq := [(h.r.id, 0)], queuedCounter := 1 })
  ∧ (∀ (s : State) (h : HomeRec) (p : MirrorPend) (rep : ReplyTo), s.rse.mirrorOut = [p] → s.rse.homes = [h] → p.id = h.r.id →
      p.change = .submit rep → (s.fullReset .warm).rse.homes = [])
  ∧ (∀ (s : State) (k : ResetKind), (s.fullReset k).bld.defects = s.bld.defects ∧ (s.fullReset k).bld.slots = s.bld.slots
      ∧ (s.fullReset k).sec.approvers = s.sec.approvers ∧ (s.fullReset k).sec.sealedKey = s.sec.sealedKey
      ∧ (s.fullReset k).sec.helper = s.sec.helper
      ∧ (s.fullReset k).bld.licences.length = s.bld.licences.length ∧ (s.fullReset k).bld.sessions = []
      ∧ (s.fullReset k).hcp.qps = [] ∧ (s.fullReset k).hcp.cache = [] ∧ (s.fullReset k).phs = .reset)
  ∧ (∀ (s : State) (f : Fld), s.canonical → s.small = false → f.reg < 0x500000 → f.lo < 64 → restored true f.key = false →
      (s.fullReset .cold).reg f = f.rst)
  ∧ (∀ (s : State) (f : Fld), s.canonical → s.small = false → f.reg < 0x500000 → f.lo < 64 → restored true f.key = true →
      (s.fullReset .cold).reg f = s.reg f)
  ∧ (∀ (s : State) (k : ResetKind), s.canonical → (s.fullReset k).reg R.BLD_BOOT_START_COUNT = (s.reg R.BLD_BOOT_START_COUNT + 1) % 2 ^ 32
      ∧ (s.fullReset k).reg R.BLD_BOOT_LAST_RESET = k.code)
  ∧ (∀ (s : State), s.bld.off = false → s.bld.node ≠ .failed → s.bld.stage ≠ 0 → exec .watchdogExpiry s = .next (s.fullReset .warm))
  ∧ (∀ (s : State), s.bld.off = true ∨ s.bld.node = .failed ∨ s.bld.stage = 0 → exec .watchdogExpiry s = .next s)
  ∧ (∀ (s t : State) (p : HostPkt) (ref : Nat), s.accept? p 0x31 false true true = some (ref, t) → p.payloadOk = true →
      t.resetting = false → exec (.resetWarm p) s = .next ((t.hostReply ref .ok []).fullReset .warm))
  ∧ (∀ (s t : State) (p : HostPkt) (ref : Nat), s.accept? p 0x31 false true true = some (ref, t) → p.payloadOk = true →
      t.resetting = true → exec (.resetWarm p) s = .next (t.hostReply ref .badState [])
      ∧ exec (.resetCompute p) s = .next (t.hostReply ref .badState [])
      ∧ exec (.resetComputeScrub p) s = .next (t.hostReply ref .badState []))
  ∧ (∀ (s t : State) (p : HostPkt) (ref : Nat), s.accept? p 0x31 false true true = some (ref, t) → p.payloadOk = true →
      t.resetting = false → t.bld.node = .ready → t.bld.retire = none →
      exec (.resetCompute p) s = .next ((t.hostReply ref .ok []).computeReset .compute)
      ∧ exec (.resetComputeScrub p) s = .next ((t.hostReply ref .ok []).computeReset .scrub))
  ∧ (∀ (s t : State) (p : HostPkt) (ref : Nat) (r : Retire), s.accept? p 0x31 false true true = some (ref, t) → p.payloadOk = true →
      t.resetting = false → t.bld.node = .ready → t.bld.retire = some r → r.copying = true → exec (.resetCompute p) s
        = .next (t.onBld fun b => { b with resetAfterCopy := some (.compute, some ref) }))
  ∧ (∀ (s : State) (k : ResetKind), (s.computeReset k).bld.node = .computeReset ∧ (s.computeReset k).cores = []
      ∧ (s.computeReset k).sch.ctxs = [] ∧ (s.computeReset k).tileBuf = [] ∧ (s.computeReset k).opBuf = []
      ∧ (s.fab.accepted = [] → s.mzt.queue = [] → (s.computeReset k).fab.links = s.fab.links)
      ∧ (s.computeReset k).fab.routes = s.fab.routes
      ∧ (s.computeReset k).fab.incarnation = s.fab.incarnation ∧ (s.computeReset k).bld.stage = 6
      ∧ (s.computeReset k).rse.generation = (s.rse.generation + 1) % 65536 ∧ (s.computeReset k).rse.nextCount = 1)

/-- Boot stages in order, the work of each, a stage that fails (RECOVERY leaves the fabric), and the end of a compute-
only reset (R242, R355 to R357, R359, R365, Table 13.2). -/
def Obligations.BootStages : Prop :=
  (∀ (s : State) (st : St) (fs : List Finding) (bad : List Nat), s.bld.node ≠ .booting ∧ s.bld.node ≠ .computeReset ∨ s.bld.stage = 0 ∨
    s.bld.railHold.isSome = true → exec (.bootStageDone st fs bad) s = .next s)
  ∧ (∀ (s : State), s.bld.node = .booting → s.bld.railHold = none → s.bld.stage = 1 ∨ s.bld.stage = 2 ∨ s.bld.stage = 7 →
      exec (.bootStageDone .ok [] []) s
        = .next ((s.onBld fun b => { b with rstN := false }).enterStage (s.bld.stage + 1)))
  ∧ (∀ (s : State), s.bld.node = .booting → s.bld.railHold = none → s.bld.stage = 3 → exec (.bootStageDone .ok [] []) s
      = .next ((s.onBld fun b => { b with rstN := false }).stageMgmt.enterStage 4))
  ∧ (∀ (s : State), s.bld.node = .booting → s.bld.railHold = none → s.bld.stage = 4 → exec (.bootStageDone .ok [] []) s
      = .next (((s.onBld fun b => { b with rstN := false }).onPcr fun p => { p with ref25 := true }).enterStage 5))
  ∧ (∀ (s : State), s.bld.node = .booting → s.bld.railHold = none → s.bld.stage = 5 → exec (.bootStageDone .ok [] []) s
      = .next ((s.onBld fun b => { b with rstN := false, hbmOk := true }).enterStage 6))
  ∧ (∀ (s : State), s.bld.node = .booting → s.bld.railHold = none → s.bld.stage = 6 → exec (.bootStageDone .ok [] []) s
      = .next ((s.onBld fun b => { b with rstN := false }).stageTiles.enterStage 7))
  ∧ (∀ (s : State), s.bld.node = .booting → s.bld.railHold = none → s.bld.stage = 8 → exec (.bootStageDone .ok [] []) s
      = .next ((s.onBld fun b => { b with rstN := false }).resync.enterStage 9))
  ∧ (∀ (s : State), s.bld.node = .booting → s.bld.railHold = none → s.bld.stage = 9 → exec (.bootStageDone .ok [] []) s
      = .next ((s.onBld fun b => { b with rstN := false }).nodeReady))
  ∧ (∀ (s : State), s.bld.node = .computeReset → s.bld.railHold = none → s.bld.stage = 6 → exec (.bootStageDone .ok [] []) s
      = .next ((s.onBld fun b => { b with rstN := false }).stageTiles.enterStage 8))
  ∧ (∀ (s : State), s.bld.node = .computeReset → s.bld.railHold = none → s.bld.stage = 8 → exec (.bootStageDone .ok [] []) s
      = .next ((s.onBld fun b => { b with rstN := false }).computeDone))
  ∧ (∀ (s : State) (st : St), s.bld.node = .booting → s.bld.railHold = none → s.bld.stage = 1 ∨ s.bld.stage = 4 → st ≠ .ok →
      exec (.bootStageDone st [] []) s = .next ((((s.onBld fun b => { b with rstN := false }).setReg R.BLD_BOOT_BOOT_STATUS
        st.code).hostDown).onBld fun b => { b with node := .failed }))
  ∧ (∀ (s : State) (st : St), s.bld.node = .booting → s.bld.railHold = none → s.bld.stage ≠ 0 → s.bld.stage ≠ 1 → s.bld.stage ≠ 4 →
      st ≠ .ok → exec (.bootStageDone st [] []) s = .next (((((s.onBld fun b => { b with rstN := false }).setReg R.BLD_BOOT_BOOT_STATUS
        st.code).leaveFabric).onBld fun b => { b with node := .recovery }).setReg R.BLD_BOOT_STAGE 0xE0))
  ∧ (∀ (s : State) (l : Link), s.fab.links = [l] → l.state = .up → ∀ m ∈ s.leaveFabric.fab.links, m.id = l.id ∧ m.state = .down)
  ∧ (∀ (s : State), s.fab.links = [] →
      s.leaveFabric = s.onFab fun f => { f with arrived := [], accepted := [] })
  ∧ (∀ (s : State), (s.nodeReady).bld.node = .ready ∧ (s.nodeReady).bld.stage = 10)
  ∧ (∀ (s : State), (s.scrub).hbm = s.hbm.filter fun c => s.touchesReserved c.1 1 || s.touchesPool c.1 1 || s.touchesRegions c.1 1
      || s.touchesMessages c.1 1)

/-- Firmware images: what an accepted activation changes, when it is refused, and the fall-back of a subsystem that does not report healthy
(R363 to R365). -/
def Obligations.Images : Prop :=
  (∀ (s t : State) (p : HostPkt) (ref sub : Nat) (b : Bool), s.accept? p 0x44 false true true = some (ref, t) → p.payloadOk = true →
    8 < sub → exec (.imgActivate p sub b) s = .next (t.hostReply ref .badParam []))
  ∧ (∀ (s t : State) (p : HostPkt) (ref sub : Nat) (b : Bool), s.accept? p 0x44 false true true = some (ref, t) → p.payloadOk = true →
      sub ≤ 8 → t.slot? sub b = none → exec (.imgActivate p sub b) s = .next (t.hostReply ref .badState []))
  ∧ (∀ (s t : State) (p : HostPkt) (ref sub : Nat) (b : Bool) (x y : ImageSlot) (k : Nat), s.accept? p 0x44 false true true = some (ref, t) →
      p.payloadOk = true → sub ≤ 8 → t.slot? sub b = some x → k ≤ 8 → k ≠ sub → t.slot? k (t.nextSlot k) = some y →
      x.generation + 1 < y.generation ∨ y.generation + 1 < x.generation →
      exec (.imgActivate p sub b) s = .next (t.hostReply ref .badState []))
  ∧ (∀ (s t : State) (p : HostPkt) (ref sub : Nat) (b : Bool) (x : ImageSlot), s.accept? p 0x44 false true true = some (ref, t) →
      p.payloadOk = true → sub ≤ 8 → t.slot? sub b = some x → t.spread sub b = false →
      exec (.imgActivate p sub b) s = .next ((t.imgActivate sub b).hostReply ref .ok []))
  ∧ (∀ (s : State) (sub : Nat) (b : Bool), sub < 3 → s.canonical → s.sec.identityKey = none →
      (s.imgActivate sub b).reg (R.BLD_IMG_ACTIVE sub) = bit b ∧ (s.imgActivate sub b).reg (R.BLD_IMG_PENDING sub) = 0
      ∧ (s.imgActivate sub b).reg (R.BLD_IMG_FELL_BACK sub) = 0 ∧ (s.imgActivate sub b).bld.slots = s.bld.slots
      ∧ (sub, s.activeSlot sub) ∈ (s.imgActivate sub b).bld.health)
  ∧ (∀ (s : State) (sub : Nat) (b : Bool), 4 ≤ sub → sub ≤ 8 → b ≠ s.activeSlot sub → s.canonical → s.sec.identityKey = none →
      (s.imgActivate sub b).reg (R.BLD_IMG_ACTIVE sub) = s.reg (R.BLD_IMG_ACTIVE sub)
      ∧ (s.imgActivate sub b).reg (R.BLD_IMG_PENDING sub) = 1 ∧ (s.imgActivate sub b).nextSlot sub = b
      ∧ (s.imgActivate sub b).bld.health = s.bld.health)
  ∧ (∀ (s t : State) (p : HostPkt) (ref : Nat), s.accept? p 0x45 false true true = some (ref, t) → p.payloadOk = true →
      exec (.imgStatus p) s = .next (t.hostReply ref .ok ((List.range 16).flatMap fun k => toBytes 8 (t.rawReg (0x500100 + 8 * k)))))
  ∧ (∀ (s : State) (sub : Nat), sub ≠ 1 → exec (.imageHealthy sub) s
      = .next (s.onBld fun b => { b with health := b.health.filter (·.1 != sub) }))
  ∧ (∀ (s : State), exec (.imageHealthy 1) s
      = .next (s.onBld fun b => { b with health := b.health.filter (·.1 != 1), hcpSince := none }))
  ∧ (∀ (s : State) (sub : Nat) (old : Bool), s.bld.health.find? (·.1 == sub) = some (sub, old) → sub ≠ 3 →
      exec (.imageHealthExpiry sub) s
        = .next ((s.onBld fun b => { b with health := b.health.filter (·.1 != sub) }).fallBack sub old))
  ∧ (∀ (s : State) (old : Bool), s.bld.health.find? (·.1 == 3) = some (3, old) → exec (.imageHealthExpiry 3) s
      = .next (((s.onBld fun b => { b with health := b.health.filter (·.1 != 3) }).fallBack 3 old).serdesNext (List.range s.ports)))
  ∧ (∀ (s : State) (sub : Nat), s.bld.health.find? (·.1 == sub) = none → exec (.imageHealthExpiry sub) s = .next s)
  ∧ (∀ (s : State) (sub : Nat) (old : Bool), s.fallBack sub old = ((s.setReg (R.BLD_IMG_FELL_BACK sub) 1).activate sub old).post
      .imageFallback 0xFFF (formO .ok s.node sub 0))

/-- Broadcast sessions: the checks of BCAST_OPEN in their order, what an opened session shows, BCAST_SEND, BCAST_STATUS and BCAST_CLOSE, and
the acceptance of an image (R357, R366, R370, R371, R375, R377). -/
def Obligations.ImageSessions : Prop :=
  (∀ (s t : State) (p : HostPkt) (ref : Nat) (o : BcastOpen) (m : List Byte) (cs ps : List Nat), s.accept? p 0x40 false true true =
      some (ref, t) → p.payloadOk = true → o.rsvdOk = true → m.length = 704 → cs.length < 32 → ps.length < 32 → manifestFormOk m = false →
    exec (.bcastOpen p o m cs ps) s = .next (t.hostReply ref .imageInvalid []))
  ∧ (∀ (s t : State) (p : HostPkt) (ref : Nat) (o : BcastOpen) (m : List Byte) (cs ps : List Nat), s.accept? p 0x40 false true true =
      some (ref, t) → p.payloadOk = true → o.rsvdOk = true → m.length = 704 → cs.length < 32 → ps.length < 32 → manifestFormOk m = true →
      t.manifestSigned (parseManifest m) = false → exec (.bcastOpen p o m cs ps) s = .next (t.hostReply ref .signatureInvalid []))
  ∧ (∀ (s t : State) (p : HostPkt) (ref : Nat) (o : BcastOpen) (m : List Byte) (cs ps : List Nat), s.accept? p 0x40 false true true =
      some (ref, t) → p.payloadOk = true → o.rsvdOk = true → m.length = 704 → cs.length < 32 → ps.length < 32 → manifestFormOk m = true →
      t.manifestSigned (parseManifest m) = true → o.dest % 65536 ≠ 0 ∨ 16 < cs.length ∨ 16 < ps.length →
      exec (.bcastOpen p o m cs ps) s = .next (t.hostReply ref .badParam []))
  ∧ (∀ (s t : State) (p : HostPkt) (ref : Nat) (o : BcastOpen) (m : List Byte) (cs ps : List Nat), s.accept? p 0x40 false true true =
      some (ref, t) → p.payloadOk = true → o.rsvdOk = true → m.length = 704 → cs.length < 32 → ps.length < 32 → manifestFormOk m = true →
      t.manifestSigned (parseManifest m) = true → t.bcastArgsOk o (parseManifest m) cs ps = true →
      (t.session? o.session).isSome = true ∨ 16 ≤ t.bld.sessions.length →
      exec (.bcastOpen p o m cs ps) s = .next (t.hostReply ref .tableBusy []))
  ∧ (∀ (s t : State) (p : HostPkt) (ref : Nat) (o : BcastOpen) (m : List Byte) (cs ps : List Nat), s.accept? p 0x40 false true true =
      some (ref, t) → p.payloadOk = true → o.rsvdOk = true → m.length = 704 → cs.length < 32 → ps.length < 32 → manifestFormOk m = true →
      t.manifestSigned (parseManifest m) = true → t.bcastArgsOk o (parseManifest m) cs ps = true → t.session? o.session = none →
      t.bld.sessions.length < 16 →
      exec (.bcastOpen p o m cs ps) s = .next ((t.openSession o (parseManifest m) cs ps).hostReply ref .ok []))
  ∧ (∀ (s t : State) (p : HostPkt) (ref n : Nat) (b : Bcast), s.accept? p 0x41 false true true = some (ref, t) → p.payloadOk = true →
      t.session? n = some b → b.o.root = true → b.sending = false → t.sessionState b = 1 →
      exec (.bcastSend p n) s = .next ((t.putSession { b with sending := true }).onHcp fun h =>
        { h with later := h.later ++ [.bcastSend ref n] }))
  ∧ (∀ (s t : State) (p : HostPkt) (ref n : Nat) (b : Bcast), s.accept? p 0x42 false true true = some (ref, t) → p.payloadOk = true →
      t.session? n = some b → exec (.bcastStatus p n) s
        = .next (t.hostReply ref .ok ((List.range 3).flatMap fun i => toBytes 8 (t.rawReg (0x501000 + 32 * b.k + 8 * i)))))
  ∧ (∀ (s t : State) (p : HostPkt) (ref n : Nat) (b : Bcast), s.accept? p 0x43 false true false = some (ref, t) → p.payloadOk = true →
      t.session? n = some b → exec (.bcastClose p n) s = .next ((t.closeSession b).hostReply ref .ok []))
  ∧ (∀ (s : State) (b : Bcast), b.k < 16 → s.canonical →
      (s.closeSession b).sessionState b = 0 ∧ (s.closeSession b).bld.slots = s.bld.slots ∧ (s.closeSession b).hbm = s.hbm
      ∧ (∀ x ∈ (s.closeSession b).bld.sessions, x.k ≠ b.k))
  ∧ (∀ (s : State) (n : Nat) (b : Bcast), s.receiving? n = some b → b.writing = false → b.o.root = false → b.missing = [] →
      s.imageOk b = false → exec (.imageHashDone n) s = .next (s.failSession b .imageInvalid))
  ∧ (∀ (s : State) (n : Nat) (b : Bcast), s.receiving? n = some b → b.writing = false → b.o.root = false → b.missing = [] →
      s.imageOk b = true → b.manifest.kind = 1 → exec (.imageHashDone n) s
        = .next (((s.putSession { b with held := List.range b.manifest.chunks, writing := false }).setReg (R.BLD_BCAST_B_HELD b.k)
          b.manifest.chunks).completeSession { b with held := List.range b.manifest.chunks, writing := false }))
  ∧ (∀ (s : State) (n : Nat) (b : Bcast), s.receiving? n = some b → b.writing = false → b.o.root = true → b.sending = true →
      s.imageOk b = true → b.manifest.kind = 0 → exec (.imageHashDone n) s
        = .next ((((s.putSession { b with held := List.range b.manifest.chunks, writing := true }).setReg (R.BLD_BCAST_B_HELD b.k)
          b.manifest.chunks).sendReply n .ok).sendImage { b with held := List.range b.manifest.chunks, writing := true }))
  ∧ (∀ (s : State) (n : Nat) (b : Bcast), s.receiving? n = some b → b.writing = true →
      exec (.imageSlotWriteDone n) s = .next ((s.writeSlot b.manifest).completeSession b))
  ∧ (∀ (s : State) (m : Manifest), (s.writeSlot m).slot? m.subsystem (!s.activeSlot m.subsystem)
      = some ⟨m.subsystem, !s.activeSlot m.subsystem, m.fwGeneration, m.imageHash⟩)

/-- Broadcast packets and the messages of repair; what comes for a session this node does not know is dropped (R367 to R369, R377). -/
def Obligations.ImageRepair : Prop :=
  (∀ (s : State) (f : Frame) (m : BcastMsg), f.body = .bcast m → (s.takeFrame f).session? m.session = none →
    exec (.bcastPacket f) s = .next ((s.takeFrame f).bump (R.FAB_DIE_STATS_UNKNOWN_DROPS 0)))
  ∧ (∀ (s : State) (f : Frame) (m : BcastMsg) (b : Bcast), f.body = .bcast m → (s.takeFrame f).session? m.session = some b →
      (s.takeFrame f).sessionState b = 3 ∨ (f.src ≠ b.o.parent ∧ f.src ∉ b.repairPeers)
        ∨ b.manifest.length < m.offset + m.data.length →
      exec (.bcastPacket f) s = .next ((s.takeFrame f).bump (R.FAB_DIE_STATS_UNKNOWN_DROPS 0)))
  ∧ (∀ (s : State) (f : Frame) (m : BcastMsg) (b : Bcast), f.body = .bcast m → (s.takeFrame f).session? m.session = some b →
      (s.takeFrame f).sessionState b = 1 → b.o.root = false → f.src = b.o.parent → m.offset + m.data.length ≤ b.manifest.length →
      exec (.bcastPacket f) s = .next ((s.takeFrame f).takePacket b f m))
  ∧ (∀ (s : State) (b : Bcast) (f : Frame) (m : BcastMsg), (m.offset / 65536, m.offset / 4096 % 16) ∈ b.packets →
      s.takePacket b f m = (s.place b.mem (b.o.dest + m.offset) m.data f.poison).putSession { b with begun := true })
  ∧ (∀ (s : State) (b : Bcast) (c crc : Nat), crc32c (s.chunkBytes b c) ≠ crc → s.verifyChunk b c crc
      = (s.putSession { b with packets := b.packets.filter (·.1 != c) }).bump (R.BLD_BCAST_C_CRC_FAILS b.k))
  ∧ (∀ (s : State) (b : Bcast) (c crc : Nat), crc32c (s.chunkBytes b c) = crc → b.rounds = 0 → s.verifyChunk b c crc
      = (s.putSession { b with packets := b.packets.filter (·.1 != c), held := b.held ++ [c], asked := b.asked.filter fun r => !((List.range r.2.2).all fun i => (b.held ++ [c]).contains (r.2.1 + i)) }).setReg
        (R.BLD_BCAST_B_HELD b.k) (b.held.length + 1))
  ∧ (∀ (s : State) (src n chunks : Nat) (b : Bcast), (s.takeMsg src (.bcastEnd n chunks)).session? n = some b → b.o.root = false →
      src = b.o.parent → (s.takeMsg src (.bcastEnd n chunks)).sessionState b = 2 → b.forwarded = false →
      exec (.bcastEnd src n chunks) s = .next (((s.takeMsg src (.bcastEnd n chunks)).putSession { b with ended := true, forwarded := true }).sendMsgs (.bcastEnd n chunks) b.children))
  ∧ (∀ (s : State) (src n chunks : Nat) (b : Bcast), (s.takeMsg src (.bcastEnd n chunks)).session? n = some b → b.o.root = false →
      src = b.o.parent → (s.takeMsg src (.bcastEnd n chunks)).sessionState b = 1 → b.forwarded = false →
      exec (.bcastEnd src n chunks) s = .next ((((s.takeMsg src (.bcastEnd n chunks)).putSession { b with ended := true, forwarded := true }).sendMsgs (.bcastEnd n chunks) b.children).firstRepair { b with ended := true, forwarded := true }))
  ∧ (∀ (s : State) (b : Bcast), b.rounds = 0 → b.missing ≠ [] → s.firstRepair b = s.askRepair { b with rounds := 1 } b.o.parent)
  ∧ (∀ (s : State) (b : Bcast) (node : Nat), 4 ≤ b.asked.length → s.askRepair b node
      = (s.putSession b).count (R.BLD_BCAST_C_REPAIRS b.k) 0)
  ∧ (∀ (s : State) (src n first count : Nat) (b : Bcast), (s.takeMsg src (.repairReq n first count)).session? n = some b →
      exec (.repairReq src n first count) s = .next ((s.takeMsg src (.repairReq n first count)).serveRepair b src first count))
  ∧ (∀ (s : State) (src n c : Nat) (b : Bcast), b.o.session = n → c < b.manifest.chunks → c ∉ b.held →
      s.serveRepair b src c 1 = s.sendMsg src (.repairNak n c 1))
  ∧ (∀ (s : State) (src c : Nat) (b : Bcast), c < b.manifest.chunks → c ∈ b.held → s.sessionState b ≠ 3 →
      s.serveRepair b src c 1 = s.sendChunk b src c)
  ∧ (∀ (s : State) (src n first count : Nat) (b : Bcast), (s.takeMsg src (.repairNak n first count)).receiving? n = some b →
      (src, first, count) ∈ b.asked → 0 < count → exec (.repairNak src n first count) s
        = .next ((s.takeMsg src (.repairNak n first count)).queryPeers { b with asked := b.asked.filter fun r => !(r.1 == src && r.2.1 < first + count && first < r.2.1 + r.2.2) }))
  ∧ (∀ (s : State) (src n a b : Nat) (c : Bool), s.session? n = none →
      exec (.repairReq src n a b) s = .next ((s.takeMsg src (.repairReq n a b)).bump (R.FAB_DIE_STATS_UNKNOWN_DROPS 0))
      ∧ exec (.repairNak src n a b) s = .next ((s.takeMsg src (.repairNak n a b)).bump (R.FAB_DIE_STATS_UNKNOWN_DROPS 0))
      ∧ exec (.bcastEnd src n a) s = .next ((s.takeMsg src (.bcastEnd n a)).bump (R.FAB_DIE_STATS_UNKNOWN_DROPS 0))
      ∧ exec (.statusQuery src n) s = .next ((s.takeMsg src (.statusQuery n)).bump (R.FAB_DIE_STATS_UNKNOWN_DROPS 0))
      ∧ exec (.statusReply src n a c) s = .next ((s.takeMsg src (.statusReply n a c)).bump (R.FAB_DIE_STATS_UNKNOWN_DROPS 0)))
  ∧ (∀ (s : State) (b : Bcast), b.queryLeft = [] → s.queryPeers b = (s.putSession { b with queryLeft := b.peers }).sendMsgs
      (.statusQuery b.o.session) b.peers)
  ∧ (∀ (s : State) (src n : Nat) (b : Bcast), (s.takeMsg src (.statusQuery n)).session? n = some b → exec (.statusQuery src n) s
      = .next ((s.takeMsg src (.statusQuery n)).sendMsg src (.statusReply n b.held.length
          ((s.takeMsg src (.statusQuery n)).sessionState b == 2))))
  ∧ (∀ (s : State) (src n held : Nat) (b : Bcast), (s.takeMsg src (.statusReply n held true)).receiving? n = some b → src ∈ b.queryLeft →
      exec (.statusReply src n held true) s = .next ((s.takeMsg src (.statusReply n held true)).askRepair { b with queryLeft := [], repairPeers := b.repairPeers.filter (· != src) ++ [src] } src))
  ∧ (∀ (s : State) (src n held : Nat) (b : Bcast), (s.takeMsg src (.statusReply n held false)).receiving? n = some b → src ∈ b.queryLeft →
      exec (.statusReply src n held false) s = .next ((s.takeMsg src (.statusReply n held false)).putSession { b with queryLeft := b.queryLeft.filter (· != src) }))
  ∧ (∀ (s : State) (n : Nat) (b : Bcast), s.receiving? n = some b → b.o.root = false → b.begun = true → b.missing ≠ [] →
      b.o.repairRounds ≤ b.rounds → exec (.repairWaitExpiry n) s = .next (s.failSession b .imageIncomplete))
  ∧ (∀ (s : State) (n : Nat) (b : Bcast), s.receiving? n = some b → b.o.root = false → b.begun = true → b.missing ≠ [] →
      b.rounds < b.o.repairRounds → b.rounds ≠ 0 → b.peers ≠ [] → exec (.repairWaitExpiry n) s
        = .next (s.queryPeers { b with rounds := b.rounds + 1, asked := [], queryLeft := [] }))
  ∧ (∀ (s : State) (n : Nat) (b : Bcast), s.receiving? n = some b → b.o.root = false → b.begun = true → b.missing ≠ [] →
      b.rounds < b.o.repairRounds → b.rounds = 0 → exec (.repairWaitExpiry n) s = .next (s.firstRepair b))
  ∧ (∀ (s : State) (b : Bcast) (st : St), s.failSession b st = ((s.setRegs [(R.BLD_BCAST_A_STATE b.k, 3), (R.BLD_BCAST_C_STATUS b.k,
      st.code)]).post .imageRejected 0xFFF (formO st s.node b.o.session 0)).sendReply b.o.session st)

/-- Licences: the checks of LIC_INSTALL in their order, LIC_LIST and LIC_REMOVE, the record of elapsed ticks, and the lapse of a licence
(R28, R372 to R374). -/
def Obligations.Licences : Prop :=
  (∀ (s t : State) (p : HostPkt) (ref : Nat) (data : List Byte), s.accept? p 0x48 false true false = some (ref, t) → p.payloadOk = true →
    data.length = 704 → exec (.licInstall p data) s
      = .next (t.approved ref 0x48 (sha512 (0x48 :: data)) false (·.installLicence data)))
  ∧ (∀ (s : State) (bs : List Byte), licenceFormOk bs = false → s.installLicence bs = (s, .licenceInvalid))
  ∧ (∀ (s : State) (bs : List Byte), licenceFormOk bs = true → numAt bs 0x40 64 ≠ s.nodeHash → s.installLicence bs = (s, .licenceNode))
  ∧ (∀ (s : State) (bs : List Byte), licenceFormOk bs = true → numAt bs 0x40 64 = s.nodeHash →
      s.flezuSigned 3 (numAt bs 0x80 64) (numAt bs 0xC0 512) (bs.take 0xC0) = false → s.installLicence bs = (s, .signatureInvalid))
  ∧ (∀ (s : State) (bs : List Byte), (s.installLicence bs).2 = .ok → ((s.installLicence bs).1.bld.licences
      = s.bld.licences ++ [parseLicence bs s.tick] ∧ (∀ l ∈ s.bld.licences, l.serial ≠ numAt bs 8 8) ∧ s.bld.licences.length < 64
      ∧ numAt bs 0x40 64 = s.nodeHash ∧ licenceFormOk bs = true))
  ∧ (∀ (s : State) (bs : List Byte), (s.installLicence bs).2 ≠ .ok → (s.installLicence bs).1 = s)
  ∧ (∀ (s t : State) (p : HostPkt) (ref : Nat), s.accept? p 0x49 false true false = some (ref, t) → p.payloadOk = true →
      exec (.licList p) s = .next ((t.licenceBytes t.bld.licences).2.hostReply ref .ok (t.licenceBytes t.bld.licences).1))
  ∧ (∀ (s : State) (l : Licence) (ls : List Licence), l.duration ≠ 0 → (s.licenceBytes (l :: ls)).1
      = toBytes 8 l.serial ++ toBytes 8 ((l.duration - s.elapsed l) * 2 ^ 32 + l.features) ++ (s.licenceBytes ls).1)
  ∧ (∀ (s t : State) (p : HostPkt) (ref n : Nat), s.accept? p 0x4A false true false = some (ref, t) → p.payloadOk = true →
      t.bld.licences.any (·.serial == n) = true → exec (.licRemove p n) s
        = .next (((t.setLicences (t.bld.licences.filter (·.serial != n))).license.reReport).hostReply ref .ok []))
  ∧ (∀ (s t : State) (p : HostPkt) (ref n : Nat), s.accept? p 0x4A false true false = some (ref, t) → p.payloadOk = true →
      t.bld.licences.any (·.serial == n) = false → exec (.licRemove p n) s = .next (t.hostReply ref .badParam []))
  ∧ (∀ (s : State), ∃ t, exec .licenceTickRecord s = .next t ∧ t.bld.licences.map t.elapsed = s.bld.licences.map s.elapsed
      ∧ t.bld.licences.length = s.bld.licences.length ∧ t.regs = s.regs)
  ∧ (∀ (s : State) (n : Nat) (l : Licence), s.bld.licences.find? (·.serial == n) = some l → l.lapsed = false → l.duration ≠ 0 →
      l.duration ≤ s.elapsed l → exec (.licenceLapse n) s = .next ((((s.onBld fun b => { b with licences := updateAll (·.serial == n) (fun x => { x with lapsed := true, recorded := x.duration }) b.licences }).license).post
          .licenceLapsed 0xFFF (formO .ok s.node n 0)).reReport))
  ∧ (∀ (s : State) (n : Nat) (l : Licence), s.bld.licences.find? (·.serial == n) = some l → l.duration = 0 ∨ s.elapsed l < l.duration →
      exec (.licenceLapse n) s = .next s)

/-- Attestation: ATTEST with and without the unsealed identity key, the layout and signature of a report, the standing report, and CERT_READ
(R382 to R387, Tables 14.1, 14.2, 14.7). -/
def Obligations.Attestation : Prop :=
  (∀ (s t : State) (p : HostPkt) (ref nonce : Nat) (d : CrtKey), s.accept? p 0x50 false true false = some (ref, t) → p.payloadOk = true →
    s.sec.identityKey = some d → exec (.attest p nonce) s = .next (t.hostReply ref .ok (t.reportBody nonce
      ++ toBytes 512 (d.sign (t.reportBody nonce)))))
  ∧ (∀ (s t : State) (p : HostPkt) (ref nonce : Nat), s.accept? p 0x50 false true true = some (ref, t) → p.payloadOk = true →
      s.sec.identityKey = none → exec (.attest p nonce) s = .next (t.hostReply ref .identityUnavailable []))
  ∧ (∀ (s : State) (nonce : Nat), (s.reportBody nonce).length = 0x1C0
      ∧ ((s.reportBody nonce).drop 0x20).take 64 = digestBytes nonce
      ∧ ((s.reportBody nonce).drop 0x60).take 64 = digestBytes s.nodeHash
      ∧ ((s.reportBody nonce).drop 0xA0).take 64 = digestBytes s.fwMeas
      ∧ ((s.reportBody nonce).drop 0xE0).take 64 = digestBytes s.licenceMeas
      ∧ ((s.reportBody nonce).drop 0x120).take 64 = digestBytes s.defectMeas
      ∧ ((s.reportBody nonce).drop 0x160).take 64 = digestBytes s.approverMeas)
  ∧ (∀ (s : State), s.sec.identityKey = none → s.reReport = s)
  ∧ (∀ (s : State) (w : Nat), s.sec.identityKey ≠ none → s.canonical → w < 56 → s.reReport.reg (R.SEC_REPORT_WORD w)
        = rdNat (fun k => (s.reportBody 0).getD k 0) (8 * w) 8)
  ∧ (∀ (s : State), s.sec.identityKey ≠ none → s.canonical →
      s.reReport.reg R.SEC_REPORT_SEQ_SEQ = (s.reg R.SEC_REPORT_SEQ_SEQ + 1) % 2 ^ 64)
  ∧ (∀ (s t : State) (p : HostPkt) (ref index : Nat), s.accept? p 0x51 false true false = some (ref, t) → p.payloadOk = true →
      index ≤ 4 → exec (.certRead p index) s = .next (t.hostReply ref .ok
        (toBytes 8 (((t.sec.certs[index]?).map (·.der)).getD []).length ++ ((t.sec.certs[index]?).map (·.der)).getD [])))

/-- Dual approval: APPROVAL_OPEN and APPROVE with their checks in order, the expiry of a set, and what an approved set lets a command do
(R391 to R396). -/
def Obligations.DualApproval : Prop :=
  (∀ (s t : State) (p : HostPkt) (ref op digest : Nat), s.accept? p 0x52 false true false = some (ref, t) → p.payloadOk = true →
    op ∉ approvalOps → exec (.approvalOpen p op digest) s = .next (t.hostReply ref .badParam []))
  ∧ (∀ (s t : State) (p : HostPkt) (ref op digest : Nat), s.accept? p 0x52 false true false = some (ref, t) → p.payloadOk = true →
      op ∈ approvalOps → t.sec.approvers.length < 2 → exec (.approvalOpen p op digest) s = .next (t.hostReply ref .badState []))
  ∧ (∀ (s t : State) (p : HostPkt) (ref op digest : Nat), s.accept? p 0x52 false true false = some (ref, t) → p.payloadOk = true →
      op ∈ approvalOps → 2 ≤ t.sec.approvers.length → t.sec.sets.any (·.digest == digest) = true
        ∨ (∀ k < 4, t.sec.sets.any (·.k == k) = true) →
      exec (.approvalOpen p op digest) s = .next (t.hostReply ref .tableBusy []))
  ∧ (∀ (s t : State) (p : HostPkt) (ref op digest k : Nat), s.accept? p 0x52 false true false = some (ref, t) → p.payloadOk = true →
      op ∈ approvalOps → 2 ≤ t.sec.approvers.length → t.sec.sets.any (·.digest == digest) = false → k < 4 →
      t.sec.sets.any (·.k == k) = false → (∀ j < k, t.sec.sets.any (·.k == j) = true) →
      exec (.approvalOpen p op digest) s = .next (((t.onSec fun e => { e with nonces := e.nonces + 1 }).setSets (t.sec.sets
        ++ [⟨k, op, digest, Config.nonce t.sec.nonces % 2 ^ 256, t.tick + t.reg R.SEC_APPROVAL_CFG_WINDOW_TICKS, []⟩])).hostReply ref .ok
          (toBytes 8 (t.reg R.SEC_APPROVAL_CFG_WINDOW_TICKS * 2 ^ 32 + k) ++ toBytes 32 (Config.nonce t.sec.nonces % 2 ^ 256))))
  ∧ (∀ (s t : State) (p : HostPkt) (ref slot set sig : Nat), s.accept? p 0x53 false true false = some (ref, t) → p.payloadOk = true →
      t.sec.sets.find? (·.k == set) = none → exec (.approve p slot set sig) s
        = .next ((t.bump R.SEC_STATS_REFUSED).hostReply ref .approvalExpired []))
  ∧ (∀ (s t : State) (p : HostPkt) (ref slot set sig : Nat) (x : ApprovalSet), s.accept? p 0x53 false true false = some (ref, t) →
      p.payloadOk = true → t.sec.sets.find? (·.k == set) = some x → 2 ≤ x.slots.length ∨ x.deadline ≤ t.tick →
      exec (.approve p slot set sig) s = .next ((t.bump R.SEC_STATS_REFUSED).hostReply ref .approvalExpired []))
  ∧ (∀ (s t : State) (p : HostPkt) (ref slot set sig : Nat) (x : ApprovalSet), s.accept? p 0x53 false true false = some (ref, t) →
      p.payloadOk = true → t.sec.sets.find? (·.k == set) = some x → x.slots.length < 2 → t.tick < x.deadline →
      t.approver? slot = none → exec (.approve p slot set sig) s
        = .next ((t.bump R.SEC_STATS_REFUSED).hostReply ref .approverUnknown []))
  ∧ (∀ (s t : State) (p : HostPkt) (ref slot set sig n : Nat) (x : ApprovalSet), s.accept? p 0x53 false true false = some (ref, t) →
      p.payloadOk = true → t.sec.sets.find? (·.k == set) = some x → x.slots.length < 2 → t.tick < x.deadline →
      t.approver? slot = some n → slot ∈ x.slots → exec (.approve p slot set sig) s
        = .next ((t.bump R.SEC_STATS_REFUSED).hostReply ref .approverDuplicate []))
  ∧ (∀ (s t : State) (p : HostPkt) (ref slot set sig n : Nat) (x : ApprovalSet), s.accept? p 0x53 false true false = some (ref, t) →
      p.payloadOk = true → t.sec.sets.find? (·.k == set) = some x → x.slots.length < 2 → t.tick < x.deadline →
      t.approver? slot = some n → slot ∉ x.slots → rsaVerify n sig (t.statement x) = false → exec (.approve p slot set sig) s
        = .next ((t.bump R.SEC_STATS_REFUSED).hostReply ref .signatureInvalid []))
  ∧ (∀ (s t : State) (p : HostPkt) (ref slot set sig n : Nat) (x : ApprovalSet), s.accept? p 0x53 false true false = some (ref, t) →
      p.payloadOk = true → t.sec.sets.find? (·.k == set) = some x → x.slots.length < 2 → t.tick < x.deadline →
      t.approver? slot = some n → slot ∉ x.slots → rsaVerify n sig (t.statement x) = true → exec (.approve p slot set sig) s
        = .next (((t.setSets (upsert (·.k == set) { x with slots := x.slots ++ [slot] } t.sec.sets)).bump
          R.SEC_STATS_APPROVALS).hostReply ref .ok (toBytes 8 (((x.slots ++ [slot]).map fun i => 2 ^ i).sum))))
  ∧ (∀ (s : State) (x : ApprovalSet), x.opcode < 256 → x.k < 4 → (s.statement x).length = 176
      ∧ ((s.statement x).drop 0x10).take 64 = digestBytes s.nodeHash ∧ ((s.statement x).drop 0x50).take 32 = toBytes 32 x.nonce
      ∧ (s.statement x).drop 0x70 = digestBytes x.digest)
  ∧ (∀ (s : State) (k : Nat) (x : ApprovalSet), s.sec.sets.find? (·.k == k) = some x → x.deadline ≤ s.tick →
      exec (.approvalDeadlineExpiry k) s = .next (((s.setSets (s.sec.sets.filter (·.k != k))).bump R.SEC_STATS_EXPIRED).post
        .approvalExpired 0xFFF (formO .ok s.node k 0)))
  ∧ (∀ (s : State) (k : Nat), s.sec.sets.find? (·.k == k) = none → exec (.approvalDeadlineExpiry k) s = .next s)
  ∧ (∀ (s : State) (ref op digest : Nat) (c : Bool) (run : State → State × St), s.sec.approvers.length < 2 ∨
      (∀ x ∈ s.sec.sets, x.slots.length < 2 ∨ x.opcode ≠ op ∨ x.digest ≠ digest ∨ x.deadline ≤ s.tick) →
      s.approved ref op digest c run = s.hostReply ref .approvalRequired [])
  ∧ (∀ (s t : State) (ref op digest : Nat) (run : State → State × St) (x : ApprovalSet) (st : St) (c : Bool), 2 ≤ s.sec.approvers.length →
      s.sec.sets.find? (fun x => 2 ≤ x.slots.length && x.opcode == op && x.digest == digest && s.tick < x.deadline) = some x →
      run ((s.setSets (s.sec.sets.filter (·.k != x.k))).bump R.SEC_STATS_EXECUTED) = (t, st) → s.approved ref op digest c run
        = ((if st = .ok ∧ c = true then t.setSets [] else t).post .approvedCommand 0xFFF
            (formO st t.node op ((x.slots.map fun i => 2 ^ i).sum))).hostReply ref st [])

/-- The commands of dual approval: APPROVER_ENROL, POLICY_SET and HOST_SET, the debug lock, and each of the six commands carried out when
its approval set stands (R388 to R392, R397, R398, R402). -/
def Obligations.ApprovedCommands : Prop :=
  (∀ (s t : State) (p : HostPkt) (ref slot n : Nat), s.accept? p 0x54 false true false = some (ref, t) → p.payloadOk = true → slot < 16 →
    t.flag R.SEC_STATE_SEALED = false → exec (.approverEnrolAdd p slot n) s
      = .next ((t.enrol slot n).1.hostReply ref (t.enrol slot n).2 []))
  ∧ (∀ (s t : State) (p : HostPkt) (ref slot n : Nat), s.accept? p 0x54 false true false = some (ref, t) → p.payloadOk = true → slot < 16 →
      t.flag R.SEC_STATE_SEALED = true → exec (.approverEnrolAdd p slot n) s
        = .next (t.approved ref 0x54 (sha512 (0x54 :: (toBytes 8 (256 + slot) ++ toBytes 512 n))) true (·.enrol slot n)))
  ∧ (∀ (s t : State) (p : HostPkt) (ref slot : Nat), s.accept? p 0x54 false true false = some (ref, t) → p.payloadOk = true → slot < 16 →
      exec (.approverEnrolRemove p slot) s
        = .next (t.approved ref 0x54 (sha512 (0x54 :: toBytes 8 slot)) true (·.unenrol slot)))
  ∧ (∀ (s : State) (slot n : Nat), (s.approver? slot).isSome = true ∨ s.sec.approvers.any (·.2 == n) = true →
      s.enrol slot n = (s, .tableBusy))
  ∧ (∀ (s : State) (slot n : Nat), s.approver? slot = none → s.sec.approvers.any (·.2 == n) = false →
      n < 2 ^ 4095 ∨ 2 ^ 4096 ≤ n ∨ n % 2 = 0 → s.enrol slot n = (s, .badParam))
  ∧ (∀ (s : State) (slot n : Nat), s.approver? slot = none → s.sec.approvers.any (·.2 == n) = false → 2 ^ 4095 ≤ n → n < 2 ^ 4096 →
      n % 2 = 1 → s.sec.identityKey = none → s.canonical → (s.enrol slot n).2 = .ok
      ∧ (s.enrol slot n).1.sec.approvers = s.sec.approvers.filter (·.1 != slot) ++ [(slot, n)]
      ∧ (s.enrol slot n).1.reg (R.SEC_APPROVER_KEY_TAG slot) = keyHash n % 2 ^ 64
      ∧ ((s.enrol slot n).1.flag R.SEC_STATE_SEALED
          = (s.flag R.SEC_STATE_SEALED || decide (1 ≤ (s.sec.approvers.filter (·.1 != slot)).length))))
  ∧ (∀ (s : State) (slot n : Nat), s.approver? slot = some n → s.sec.approvers.length ≤ 2 → s.flag R.SEC_STATE_SEALED = true →
      s.unenrol slot = (s, .badState))
  ∧ (∀ (s : State) (slot n : Nat), s.approver? slot = some n → 2 < s.sec.approvers.length →
      s.unenrol slot = (s.setApprover slot none (keyHash n), .ok))
  ∧ (∀ (s t : State) (p : HostPkt) (ref v rekey : Nat), s.accept? p 0x55 false true false = some (ref, t) → p.payloadOk = true →
      1 ≤ bitsOf v 63 48 → exec (.policySet p v rekey) s
        = .next (t.approved ref 0x55 (sha512 (0x55 :: (toBytes 8 v ++ toBytes 8 rekey))) true (·.policySet v rekey)))
  ∧ (∀ (s : State) (v rekey : Nat), s.canonical → s.sec.identityKey = none → rekey < 2 ^ 32 → (s.policySet v rekey).2 = .ok
      ∧ (s.policySet v rekey).1.reg R.SEC_APPROVAL_CFG_WINDOW_TICKS = bitsOf v 63 48
      ∧ (s.policySet v rekey).1.reg R.SEC_STATE_HOST_LOCK = bitsOf v 2 2
      ∧ (s.policySet v rekey).1.reg R.FAB_KEY_POLICY_SPACE3_READ_ANY = bitsOf v 1 1
      ∧ (s.policySet v rekey).1.reg R.FAB_KEY_POLICY_LOCK = bitsOf v 0 0
      ∧ (s.policySet v rekey).1.reg R.SEC_APPROVAL_CFG_REKEY_TICKS = rekey)
  ∧ (∀ (s t : State) (p : HostPkt) (ref entry a b c d : Nat), s.accept? p 0x56 false true false = some (ref, t) → p.payloadOk = true →
      entry < 16 → exec (.hostSet p entry a b c d) s = .next (t.approved ref 0x56 (sha512 (0x56 :: (toBytes 8 entry ++ toBytes 8 a
        ++ toBytes 8 b ++ toBytes 8 c ++ toBytes 8 d))) false (·.hostSet entry a b c d)))
  ∧ (∀ (s : State) (entry a b c d : Nat), d % 256 ≤ 128 → s.hostSet entry a b c d = ((((s.writeRw (0x11000 + 32 * entry) a).writeRw
      (0x11008 + 32 * entry) b).writeRw (0x11010 + 32 * entry) c).writeRw (0x11018 + 32 * entry) d, .ok))
  ∧ (∀ (s : State) (a v : Nat), s.flag R.SEC_STATE_HOST_LOCK = true → a % 8 = 0 → 0x11000 ≤ a → a < 0x11200 →
      s.csrWrite false a v = (s, .accessDenied))
  ∧ (∀ (s t : State) (p : HostPkt) (ref v : Nat), s.accept? p 0x57 false true false = some (ref, t) → p.payloadOk = true →
      bitAt v 0 = true → 1 ≤ bitsOf v 63 32 → bitsOf v 63 32 ≤ 4096 → exec (.debugUnlock p v) s
        = .next (t.approved ref 0x57 (sha512 (0x57 :: toBytes 8 v)) false (·.unlock v)))
  ∧ (∀ (s : State) (v : Nat), s.canonical → (s.unlock v).2 = .ok ∧ (s.unlock v).1.flag R.SEC_STATE_DEBUG_STICKY = true
      ∧ ((s.unlock v).1.flag R.SEC_DEBUG_SCAN = (s.flag R.SEC_DEBUG_SCAN || bitAt v 2))
      ∧ ((s.unlock v).1.flag R.SEC_DEBUG_TRACE = (s.flag R.SEC_DEBUG_TRACE || bitAt v 1))
      ∧ (s.unlock v).1.sec.identityKey = (if bitAt v 2 = true then none else s.sec.identityKey)
      ∧ (s.unlock v).1.sec.debugUntil = some (s.tick + bitsOf v 63 32))
  ∧ (∀ (s t : State) (p : HostPkt) (ref v : Nat), s.accept? p 0x57 false true false = some (ref, t) → p.payloadOk = true →
      bitAt v 0 = false → exec (.debugRelock p v) s = .next (t.relock.hostReply ref .ok []))
  ∧ (∀ (s : State), s.canonical → s.relock.flag R.SEC_DEBUG_SCAN = false ∧ s.relock.flag R.SEC_DEBUG_TRACE = false
      ∧ s.relock.flag R.SEC_STATE_DEBUG_STICKY = s.flag R.SEC_STATE_DEBUG_STICKY)
  ∧ (∀ (s t w : State) (p : HostPkt) (data : List Byte) (ref op digest slot v rekey entry a b c d u : Nat) (i : Instr) (clears : Bool)
      (run : State → State × St) (y : ApprovalSet) (st : St), (i, op, digest, clears, run) ∈
        [(Instr.licInstall p data, 0x48, commandDigest 0x48 data, false, fun x => x.installLicence data),
         (.defectClear p, 0x4D, commandDigest 0x4D [], false, fun x => x.defectClear),
         (.approverEnrolRemove p slot, 0x54, commandDigest 0x54 (toBytes 8 slot), true, fun x => x.unenrol slot),
         (.policySet p v rekey, 0x55, commandDigest 0x55 (toBytes 8 v ++ toBytes 8 rekey), true, fun x => x.policySet v rekey),
         (.hostSet p entry a b c d, 0x56, commandDigest 0x56 (toBytes 8 entry ++ toBytes 8 a ++ toBytes 8 b ++ toBytes 8 c ++ toBytes 8 d),
           false, fun x => x.hostSet entry a b c d),
         (.debugUnlock p u, 0x57, commandDigest 0x57 (toBytes 8 u), false, fun x => x.unlock u)] →
      data.length = 704 → slot < 16 → 1 ≤ bitsOf v 63 48 → entry < 16 → bitAt u 0 = true → 1 ≤ bitsOf u 63 32 → bitsOf u 63 32 ≤ 4096 →
      s.accept? p op false true false = some (ref, t) → p.payloadOk = true → 2 ≤ t.sec.approvers.length →
      t.sec.sets.find? (fun x => 2 ≤ x.slots.length && x.opcode == op && x.digest == digest && t.tick < x.deadline) = some y →
      run ((t.setSets (t.sec.sets.filter (·.k != y.k))).bump R.SEC_STATS_EXECUTED) = (w, st) → exec i s
        = .next (((if st = .ok ∧ clears = true then w.setSets [] else w).post .approvedCommand 0xFFF
            (formO st w.node op ((y.slots.map fun i => 2 ^ i).sum))).hostReply ref st []))
  ∧ (∀ (s : State) (d : Nat), s.sec.debugUntil = some d → d ≤ s.tick → exec .debugDurationExpiry s = .next s.relock)
  ∧ (∀ (s : State), (∀ d, s.sec.debugUntil = some d → s.tick < d) → exec .debugDurationExpiry s = .next s)

/-- The 48 V input, the rails and the always-on input: warnings and their ends, the throttle they demand, supply resets and the compute-only
reset of VCORE and VSRAM (R198, R406 to R410, Tables 15.2, 15.4). -/
def Obligations.Supplies : Prop :=
  (∀ (s : State) (mv : Nat), s.bld.off = false → (s.setReg R.PCR_SUPPLY_INPUT_MV mv).flag R.PCR_STATUS_INPUT_WARN = false →
    exec (.inputWarnCross mv) s = .next ((((((s.setReg R.PCR_SUPPLY_INPUT_MV mv).setReg R.PCR_STATUS_INPUT_WARN 1).pwrWarn).demand
      fun t => { t with input := 50 }).bump R.PCR_STATS_INPUT_WARNS).post .supplyWarn 0xFFF (formO .ok s.node 0 0)))
  ∧ (∀ (s : State) (mv : Nat), s.bld.off = false → (s.setReg R.PCR_SUPPLY_INPUT_MV mv).flag R.PCR_STATUS_INPUT_WARN = true →
      exec (.inputWarnCross mv) s = .next (s.setReg R.PCR_SUPPLY_INPUT_MV mv))
  ∧ (∀ (s : State), s.flag R.PCR_STATUS_INPUT_WARN = true → exec .inputRecoveryDone s
      = .next ((((s.setReg R.PCR_STATUS_INPUT_WARN 0).pwrWarn).demand fun t => { t with input := 100 }).post .supplyClear 0xFFF
        (formO .ok s.node 0 0)))
  ∧ (∀ (s : State) (mv : Nat), s.bld.off = false → exec (.inputRecoveryRestart mv) s = .next (s.setReg R.PCR_SUPPLY_INPUT_MV mv))
  ∧ (∀ (s : State), s.bld.off = false → exec .inputUndervoltage s = .next (s.railsOff .supplyFault 1 0)
      ∧ exec .inputOvervoltage s = .next (s.railsOff .supplyFault 2 0))
  ∧ (∀ (s : State), s.bld.tripped = false → exec .aonInputLoss s = .next (s.railsOff .supplyFault 4 0))
  ∧ (∀ (s : State), s.bld.tripped = true → exec .aonInputLoss s = .next (s.recordTrip .supplyFault 4 0))
  ∧ (∀ (s : State), s.canonical → (s.pwrWarn.flag R.PCR_STATUS_PWR_WARN
        = (s.flag R.PCR_STATUS_INPUT_WARN || !s.pcr.railsWarn.isEmpty))
      ∧ (s.pwrWarn.flag R.SCH_CTRL_PREFILL_HELD = (s.flag R.PCR_STATUS_INPUT_WARN || !s.pcr.railsWarn.isEmpty))
      ∧ (s.pwrWarn.pcr.pwrWarnPin = (s.flag R.PCR_STATUS_INPUT_WARN || !s.pcr.railsWarn.isEmpty))
      ∧ s.pwrWarn.rse = s.rse ∧ s.pwrWarn.hbm = s.hbm ∧ s.pwrWarn.cores = s.cores)
  ∧ (∀ (s : State) (rail mv : Nat), s.bld.off = false → rail < 9 → rail ∉ s.pcr.railsWarn → exec (.railWarnCross rail mv) s
      = .next (((((((s.setReg (R.PCR_RAIL_MV rail) mv).setReg (R.PCR_RAIL_WARN rail) 1).onPcr fun p =>
        { p with railsWarn := p.railsWarn ++ [rail] }).pwrWarn).demand fun t => { t with rail := 50 }).bump
          R.PCR_STATS_RAIL_WARNS).post .railWarn 0xFFF (formO .ok s.node rail 0)))
  ∧ (∀ (s : State) (rail mv : Nat), s.bld.off = false → rail < 9 → rail ∈ s.pcr.railsWarn → exec (.railWarnCross rail mv) s
      = .next (s.setReg (R.PCR_RAIL_MV rail) mv))
  ∧ (∀ (s : State) (rail : Nat), rail ∈ s.pcr.railsWarn → (∀ r ∈ s.pcr.railsWarn, r = rail) → exec (.railClearDone rail) s
      = .next (((((s.setReg (R.PCR_RAIL_WARN rail) 0).onPcr fun p => { p with railsWarn := [] }).pwrWarn).demand fun t =>
        { t with rail := 100 }).post .railClear 0xFFF (formO .ok s.node rail 0)))
  ∧ (∀ (s : State) (rail mv : Nat), s.bld.off = false → rail < 9 → exec (.railClearRestart rail mv) s
      = .next (s.setReg (R.PCR_RAIL_MV rail) mv))
  ∧ (∀ (s : State) (rail mv : Nat), s.bld.off = false → 2 ≤ rail → rail < 9 → exec (.railResetCross rail mv) s
      = .next ((s.setReg (R.PCR_RAIL_MV rail) mv).railsOff .supplyFault 3 rail))
  ∧ (∀ (s : State) (rail mv : Nat), s.bld.off = false → rail < 2 → exec (.railResetCross rail mv) s
      = .next ((s.setReg (R.PCR_RAIL_MV rail) mv).railReset rail))
  ∧ (∀ (s : State) (rail : Nat), s.bld.node = .ready → s.bld.resetAfterCopy = none → s.bld.retire = none → s.railReset rail
      = ((s.recordTrip .supplyFault 3 rail).onBld fun b => { b with railHold := some rail }).computeReset .compute)
  ∧ (∀ (s : State), exec .railHoldDone s = .next (s.onBld fun b => { b with railHold := none }))
  ∧ (∀ (s : State) (st : St) (cause source : Nat), s.canonical → cause < 256 → source < 256 →
      (s.railsOff st cause source).reg R.PCR_LAST_TRIP_STATUS = st.code ∧ (s.railsOff st cause source).reg R.PCR_LAST_TRIP_CAUSE = cause
      ∧ (s.railsOff st cause source).reg R.PCR_LAST_TRIP_SOURCE = source
      ∧ (s.railsOff st cause source).reg R.PCR_LAST_TRIP_START_COUNT = s.reg R.BLD_BOOT_START_COUNT
      ∧ (s.railsOff st cause source).hbm = [] ∧ (s.railsOff st cause source).bld.off = true)

/-- Temperature: the levels, what each demands and posts, the clear conditions, and the thermal trip (R412, R413, Table 15.6). -/
def Obligations.Temperatures : Prop :=
  (∀ (s : State) (temps : List Nat), s.bld.off = true → exec (.thermalSample temps) s = .next s)
  ∧ (∀ (s : State) (temps : List Nat) (x : Nat × Nat), s.bld.off = false → x ∈ s.readings temps → atLevel 107 97 x = true →
      (∃ t, (x.1, t) ∈ s.pcr.tripSince ∧ t + 100 ≤ s.aon) → (∀ y ∈ s.readings temps, y ≠ x → atLevel 107 97 y = false) →
      (∀ a ∈ s.pcr.tripSince, a.1 = x.1 → a.2 + 100 ≤ s.aon) →
      ∃ t, exec (.thermalSample temps) s = .next t ∧ t.bld.node = .failed ∧ t.bld.tripped = true ∧ t.pcr.thermTripPin = true
        ∧ t.bld.off = true ∧ t.hbm = [])
  ∧ (∀ (s : State) (temps : List Nat), s.bld.off = false → s.pcr.level = 0 → s.canonical → (∀ r ∈ s.readings temps, atLevel 98 88 r = false) →
      ∃ t, exec (.thermalSample temps) s = .next t ∧ t.pcr.level = 0 ∧ t.pcr.throttle = s.pcr.throttle ∧ t.evt = s.evt
        ∧ ∀ r ∈ s.readings temps, t.reg (R.PCR_TEMP_TEMP r.1) = r.2 % 2 ^ 16)
  ∧ (∀ (s : State) (temps : List Nat), s.bld.off = false → s.pcr.level = 0 → s.pcr.tripSince = [] →
      (∃ r ∈ s.readings temps, atLevel 98 88 r = true) → (∀ r ∈ s.readings temps, atLevel 103 92 r = false) →
      ∃ t, exec (.thermalSample temps) s = .next t ∧ t.pcr.level = 1 ∧ t.pcr.throttle = { s.pcr.throttle with thermal := 50 }
        ∧ t.pcr.thermWarnPin = true)
  ∧ (∀ (s : State) (temps : List Nat), s.bld.off = false → s.pcr.level < 2 → s.pcr.tripSince = [] →
      (∃ r ∈ s.readings temps, atLevel 103 92 r = true) →
      ∃ t, exec (.thermalSample temps) s = .next t ∧ t.pcr.level = 2 ∧ t.pcr.throttle = { s.pcr.throttle with thermal := 25 }
        ∧ t.pcr.thermWarnPin = true)
  ∧ (∀ (s : State) (temps : List Nat) (b : Nat), s.bld.off = false → s.pcr.level = 2 → s.pcr.belowCrit = some b → b + 100000 ≤ s.aon →
      (∀ r ∈ s.readings temps, atLevel 103 92 r = false) → (∃ r ∈ s.readings temps, atLevel 93 83 r = true) →
      ∃ t, exec (.thermalSample temps) s = .next t ∧ t.pcr.level = 1 ∧ t.pcr.throttle = { s.pcr.throttle with thermal := 50 })
  ∧ (∀ (s : State) (temps : List Nat) (b : Nat), s.bld.off = false → s.pcr.level = 1 → s.pcr.belowWarn = some b → b + 100000 ≤ s.aon →
      (∀ r ∈ s.readings temps, atLevel 93 83 r = false) →
      ∃ t, exec (.thermalSample temps) s = .next t ∧ t.pcr.level = 0 ∧ t.pcr.throttle = { s.pcr.throttle with thermal := 100 }
        ∧ t.pcr.thermWarnPin = false)
  ∧ (∀ (s : State) (temps : List Nat) (b : Nat), s.bld.off = false → s.pcr.level = 1 → s.pcr.belowWarn = some b → s.aon < b + 100000 →
      (∀ r ∈ s.readings temps, atLevel 93 83 r = false) →
      ∃ t, exec (.thermalSample temps) s = .next t ∧ t.pcr.level = 1 ∧ t.pcr.throttle = s.pcr.throttle)

/-- The throttle in force, the power limit, the reference clocks, and the writes of the power-limit and gating registers (R414, R415, R417,
R423). -/
def Obligations.ThrottleAndClocks : Prop :=
  (∀ (t : Throttle), t.force ≤ t.input ∧ t.force ≤ t.rail ∧ t.force ≤ t.thermal ∧ t.force ≤ t.power
    ∧ (t.force = t.input ∨ t.force = t.rail ∨ t.force = t.thermal ∨ t.force = t.power))
  ∧ (∀ (s : State), s.canonical → s.pcr.throttle.force ≤ s.reg R.PCR_STATUS_THROTTLE ∨ s.anyTileOp = false →
      s.pcr.throttle.force < 256 → s.combine.reg R.PCR_STATUS_THROTTLE = s.pcr.throttle.force ∧ s.combine.pcr.raiseTo = none)
  ∧ (∀ (s : State), s.reg R.PCR_STATUS_THROTTLE < s.pcr.throttle.force → s.anyTileOp = true →
      s.combine = s.onPcr fun p => { p with raiseTo := some s.pcr.throttle.force })
  ∧ (∀ (s : State) (w : Nat), s.bld.off = true ∨ s.flag R.PCR_POWER_LIMIT_ENABLE = false → exec (.powerWindowExpiry w) s = .next s)
  ∧ (∀ (s : State) (w : Nat), s.bld.off = false → s.flag R.PCR_POWER_LIMIT_ENABLE = true → s.reg R.PCR_POWER_LIMIT_LIMIT_W < w →
      s.pcr.throttle.power = 100 → exec (.powerWindowExpiry w) s
        = .next (((s.setPower 75).bump R.PCR_STATS_LIMIT_WINDOWS).post .powerLimiting 0xFFF (formO .ok s.node 0 0)))
  ∧ (∀ (s : State) (w p : Nat), s.bld.off = false → s.flag R.PCR_POWER_LIMIT_ENABLE = true → s.reg R.PCR_POWER_LIMIT_LIMIT_W < w →
      s.pcr.throttle.power = p → p = 75 ∨ p = 50 → exec (.powerWindowExpiry w) s
        = .next ((s.setPower (p - 25)).bump R.PCR_STATS_LIMIT_WINDOWS))
  ∧ (∀ (s : State) (w : Nat), s.bld.off = false → s.flag R.PCR_POWER_LIMIT_ENABLE = true → s.reg R.PCR_POWER_LIMIT_LIMIT_W < w →
      s.pcr.throttle.power = 25 → exec (.powerWindowExpiry w) s = .next (s.setPower 25))
  ∧ (∀ (s : State) (w p : Nat), s.bld.off = false → s.flag R.PCR_POWER_LIMIT_ENABLE = true →
      100 * w < 95 * s.reg R.PCR_POWER_LIMIT_LIMIT_W → s.pcr.throttle.power = p → p = 25 ∨ p = 50 ∨ p = 75 →
      exec (.powerWindowExpiry w) s = .next (s.setPower (p + 25)))
  ∧ (∀ (s : State) (w : Nat), s.bld.off = false → s.flag R.PCR_POWER_LIMIT_ENABLE = true →
      95 * s.reg R.PCR_POWER_LIMIT_LIMIT_W ≤ 100 * w → w ≤ s.reg R.PCR_POWER_LIMIT_LIMIT_W → exec (.powerWindowExpiry w) s = .next s)
  ∧ (∀ (s : State) (v : Nat), bitsOf v 47 32 < 1 ∨ 1000 < bitsOf v 47 32 ∨ bitsOf v 15 0 < (if s.small then 540 else 1020)
      ∨ (if s.small then 1800 else 3400) < bitsOf v 15 0 → s.powerLimitWrite v = (s, .badParam)
      ∧ exec (.pcrPowerLimitWrite v) s = .next s)
  ∧ (∀ (s : State) (v : Nat), 1 ≤ bitsOf v 47 32 → bitsOf v 47 32 ≤ 1000 → (if s.small then 540 else 1020) ≤ bitsOf v 15 0 →
      bitsOf v 15 0 ≤ (if s.small then 1800 else 3400) → s.canonical → ∃ t, exec (.pcrPowerLimitWrite v) s = .next t
      ∧ t.reg R.PCR_POWER_LIMIT_WINDOW_MS = bitsOf v 47 32 ∧ t.reg R.PCR_POWER_LIMIT_LIMIT_W = bitsOf v 15 0
      ∧ t.reg R.PCR_POWER_LIMIT_ENABLE = bitsOf v 63 63
      ∧ t.pcr.throttle.power = (if bitsOf v 63 63 = 0 then 100 else s.pcr.throttle.power))
  ∧ (∀ (s : State) (v : Nat), s.canonical → ∃ t, exec (.pcrGateCfgWrite v) s = .next t
      ∧ t.reg R.PCR_GATE_CFG_TILE_IDLE_US = bitsOf v 63 32 ∧ t.reg R.PCR_GATE_CFG_CORE_IDLE_US = bitsOf v 31 0)
  ∧ (∀ (s : State), s.bld.off = false → exec .refclk25Loss s
      = .next ((s.onPcr fun p => { p with ref25 := false }).railsOff .clockFault 6 0))
  ∧ (∀ (s : State), s.pcr.ref156 = true → s.fab.links = [] → exec .refclk156Loss s
      = .next ((s.onPcr fun p => { p with ref156 := false }).hostDown.post .clockFault 0xFFF (formO .ok s.node 0 0)))
  ∧ (∀ (s : State), s.pcr.ref156 = true → s.canonical → ∃ t, exec .refclk156Loss s = .next t ∧ t.pcr.ref156 = false
      ∧ t.hostUp = false ∧ t.hbm = s.hbm ∧ t.bld = s.bld)
  ∧ (∀ (s : State) (l : Link), s.pcr.ref156 = true → s.fab.links = [l] → l.state ≠ .disabled → ∃ t, exec .refclk156Loss s = .next t
      ∧ (∀ m ∈ t.fab.links, m.id = l.id ∧ m.state = .down))
  ∧ (∀ (s : State) (l : Link), s.fab.links = [l] → l.state = .down →
      s.flag (R.FAB_PORT_CFG_DRAIN (s.linkPort l.id)) = false → exec .refclk156Restored s
        = .next (((s.onPcr fun p => { p with ref156 := true }).putLink (freshLink l.id .training)).setReg
          (R.FAB_PORT_STATUS_LANES_UP (s.linkPort l.id)) 0))

/-- Sleep and wake of cores, tiles and HBM channels, and the debug port (R418, R421, Table 15.8). -/
def Obligations.SleepAndDebug : Prop :=
  (∀ (s : State) (n : Nat), (s.core n).power = .idle → exec (.coreIdleExpiry n) s
    = .next (s.putCore { s.core n with power := .gated }))
  ∧ (∀ (s : State) (n : Nat), (s.core n).power ≠ .idle → exec (.coreIdleExpiry n) s = .next s)
  ∧ (∀ (s : State) (n : Nat), ∃ t, exec (.coreIdleExpiry n) s = .next t ∧ t.opBuf = s.opBuf ∧ t.tileBuf = s.tileBuf ∧ t.regs = s.regs)
  ∧ (∀ (s : State) (tile : Nat), tile < s.tiles → tile ∉ s.pcr.gatedTiles → (∀ k < 4, (s.core (4 * tile + k)).powerNow = .gated) →
      exec (.tileIdleExpiry tile) s = .next (s.onPcr fun p => { p with gatedTiles := p.gatedTiles ++ [tile] }))
  ∧ (∀ (s : State) (tile k : Nat), k < 4 → (s.core (4 * tile + k)).powerNow ≠ .gated → exec (.tileIdleExpiry tile) s = .next s)
  ∧ (∀ (s : State) (n : Nat), (s.core n).power = .waking → exec (.coreWakeDone n) s
      = .next ((s.putCore { s.core n with power := .running }).onPcr fun p =>
        { p with gatedTiles := p.gatedTiles.filter (· != n / 4) }))
  ∧ (∀ (s : State) (stack ch : Nat), stack < s.stacks → ch < 32 → s.known ⟨.hbmChannel, .ok, stack, ch, 0⟩ = false →
      (⟨stack, ch⟩ : ChanDown) ∉ s.pcr.channelsDown → exec (.hbmPowerdownIdle stack ch) s
        = .next (s.onPcr fun p => { p with channelsDown := p.channelsDown ++ [⟨stack, ch⟩] }))
  ∧ (∀ (s : State), exec .jtagBypass s = .next ((s.setTap .bypass).emit (.tap .bypass 0)))
  ∧ (∀ (s : State), exec .jtagIdcode s = .next ((s.next.2.setTap .idcode).emit (.tap .idcode (Config.reading s.fresh)))
      ∧ exec .jtagSamplePreload s = .next ((s.next.2.setTap .sample).emit (.tap .sample (Config.reading s.fresh))))
  ∧ (∀ (s : State) (v : Nat), s.bld.rstN = true → exec (.jtagExtest v) s = .next ((s.setTap .extest).emit (.tap .extest v)))
  ∧ (∀ (s : State) (v : Nat), s.bld.rstN = false → exec (.jtagExtest v) s = .next s)
  ∧ (∀ (s : State) (scan : Bool), s.flag (if scan then R.SEC_DEBUG_SCAN else R.SEC_DEBUG_TRACE) = false →
      exec (.debugScopeAccess scan) s = exec .jtagBypass s)
  ∧ (∀ (s : State), s.flag R.SEC_DEBUG_SCAN = true → exec (.debugScopeAccess true) s
      = .next ((s.next.2.setTap .scan).emit (.tap .scan (Config.reading s.fresh))))
  ∧ (∀ (s : State), s.flag R.SEC_DEBUG_TRACE = true → exec (.debugScopeAccess false) s
      = .next ((s.next.2.setTap .trace).emit (.tap .trace (Config.reading s.fresh))))

/-- Memory errors: corrected ones counted and posted at most once per channel and tick, uncorrected ones dealt with by their place in HBM,
the threshold of a window, and EVT_ECC_CFG (R430, R431, R433, Table 16.5). -/
def Obligations.MemoryErrors : Prop :=
  (∀ (s : State) (stack ch : Nat) (es : List MemErr), s.bld.off = true ∨ s.stacks ≤ stack ∨ 32 ≤ ch ∨
      s.known ⟨.hbmChannel, .ok, stack, ch, 0⟩ = true → exec (.patrolScrubPass stack ch es) s = .next s)
  ∧ (∀ (s : State) (stack ch : Nat) (es : List MemErr), s.bld.off = false → stack < s.stacks → ch < 32 →
      s.known ⟨.hbmChannel, .ok, stack, ch, 0⟩ = false → exec (.patrolScrubPass stack ch es) s
        = .next ((s.onPcr fun p => { p with channelsDown := p.channelsDown.filter fun d => decide (d ≠ ⟨stack, ch⟩) }).memErrors
          (es.filter fun e => e.memory == 0 && e.unit == stack && e.sub == ch && decide (e.offset < s.hbmBytes))))
  ∧ (∀ (s : State) (e : MemErr) (es : List MemErr), e.correctable = true → s.memErrors (e :: es) = (s.corrected e).memErrors es)
  ∧ (∀ (s : State) (e : MemErr) (es : List MemErr), e.correctable = false → s.memErrors (e :: es) = (s.uncorrected e).memErrors es)
  ∧ (∀ (s : State) (e : MemErr), (s.corrected e).hbm = s.hbm ∧ (s.corrected e).hbmPoison = s.hbmPoison
      ∧ (s.corrected e).rse = s.rse ∧ (s.corrected e).pge = s.pge)
  ∧ (∀ (s : State) (e : MemErr) (n : Nat), s.canonical → s.evt.corrected.find? (·.1 == channelKey e.unit e.sub)
        = some (channelKey e.unit e.sub, n, s.tick + 1) → (s.corrected e).evt.corrected.find? (·.1 == channelKey e.unit e.sub)
          = some (channelKey e.unit e.sub, n + 1, s.tick + 1) ∧ (s.corrected e).reg R.EVT_STATS_POSTED = s.reg R.EVT_STATS_POSTED)
  ∧ (∀ (s : State) (e : MemErr), s.canonical → e.offset < s.mirrorBase → e.offset < s.headerBase → e.offset < s.directoryBase →
      e.offset < s.pageMapBase → s.touchesRegions e.offset 1 = false → s.touchesMessages e.offset 1 = false → s.pge.pages = [] →
      s.uncorrected e = ((s.bump R.EVT_ECC_STATS_UNCORRECTED).post .memUncorrected 0xFFF (formM 0 e.unit e.sub e.offset 0)).markPoison
        .hbm e.offset 1 .poisonRead)
  ∧ (∀ (s : State) (stack ch n lim : Nat), s.evt.window.find? (·.1 == channelKey stack ch) = some (channelKey stack ch, n) →
      s.evt.limits.find? (·.1 == channelKey stack ch) = some (channelKey stack ch, lim) → lim < n →
      exec (.ceWindowExpiry stack ch) s = .next ((s.onEvt fun v => { v with window := v.window.filter (·.1 != channelKey stack ch), limits := v.limits.filter (·.1 != channelKey stack ch) }).post
          .memChannelDegraded 0xFFF (formM 0 stack ch 0 0)))
  ∧ (∀ (s : State) (stack ch n : Nat), s.evt.window.find? (·.1 == channelKey stack ch) = some (channelKey stack ch, n) →
      s.evt.limits.find? (·.1 == channelKey stack ch) = none → n ≤ s.reg R.EVT_ECC_CFG_CE_THRESHOLD →
      exec (.ceWindowExpiry stack ch) s = .next (s.onEvt fun v => { v with window := v.window.filter (·.1 != channelKey stack ch), limits := v.limits.filter (·.1 != channelKey stack ch) }))
  ∧ (∀ (s : State) (v : Nat), R.EVT_ECC_CFG_SCRUB_HOURS.of v < 1 ∨ 168 < R.EVT_ECC_CFG_SCRUB_HOURS.of v →
      exec (.evtEccCfgWrite v) s = .next s ∧ s.eccCfgWrite v = (s, .badParam))
  ∧ (∀ (s : State) (v : Nat), 1 ≤ R.EVT_ECC_CFG_SCRUB_HOURS.of v → R.EVT_ECC_CFG_SCRUB_HOURS.of v ≤ 168 → s.canonical →
      ∃ t, exec (.evtEccCfgWrite v) s = .next t ∧ t.reg R.EVT_ECC_CFG_SCRUB_HOURS = R.EVT_ECC_CFG_SCRUB_HOURS.of v
        ∧ t.reg R.EVT_ECC_CFG_CE_THRESHOLD = R.EVT_ECC_CFG_CE_THRESHOLD.of v)

/-- FAB_ASSIGN.RELEASE gives up the node's number only while the node is home to no record and owns no request (R243). -/
def Obligations.NumberRelease : Prop :=
  (∀ (s : State) (v : Nat), bitAt v 63 = true → s.rse.homes ≠ [] ∨ s.rse.works ≠ [] →
    s.csrWrite false 0x280008 v = (s, .badState) ∧ exec .fabAssignRelease s = .next s)
  ∧ (∀ (s : State) (v : Nat), bitAt v 63 = true → s.recordsUsed = 0 → s.canonical →
      ∃ t, s.csrWrite false 0x280008 v = (t, .ok) ∧ t.flag R.CAP_NODE_NODE_VALID = false
        ∧ t.reg R.FAB_ASSIGN_NUMBER = v % 65536 ∧ t.flag R.FAB_ASSIGN_VALID = false)
  ∧ (∀ (s : State) (v : Nat), bitAt v 63 = true → s.recordsUsed = 0 → s.canonical → v % 65536 = s.reg R.FAB_ASSIGN_NUMBER →
      ∃ t, exec .fabAssignRelease s = .next t ∧ s.csrWrite false 0x280008 v = (t, .ok))

/-- A route-table write is refused with ST_DOMAIN_LIMIT when it would bring the number of VALID route entries to CAP_LIMITS.DOMAIN_MAX or
above, the node itself being one member of the domain (R247). -/
def Obligations.DomainLimit : Prop :=
  (∀ (s : State) (v : Nat), bitAt v 63 = true → s.flag R.CAP_NODE_NODE_VALID = false ∨ s.reg R.FAB_RT_INDEX_INDEX ≠ s.node →
    s.reg R.CAP_LIMITS_DOMAIN_MAX ≤ (s.fab.routes.filter (·.dst != s.reg R.FAB_RT_INDEX_INDEX)).length + 1 →
    s.csrWrite false 0x280038 v = (s, .domainLimit) ∧ exec (.fabRtEntryWrite v) s = .next s)
  ∧ (∀ (s : State) (v : Nat), bitAt v 63 = true → s.flag R.CAP_NODE_NODE_VALID = false ∨ s.reg R.FAB_RT_INDEX_INDEX ≠ s.node →
      (s.fab.routes.filter (·.dst != s.reg R.FAB_RT_INDEX_INDEX)).length + 1 < s.reg R.CAP_LIMITS_DOMAIN_MAX →
      ∃ t, exec (.fabRtEntryWrite v) s = .next t ∧ s.csrWrite false 0x280038 v = (t, .ok)
        ∧ t.route? (s.reg R.FAB_RT_INDEX_INDEX) = some (routeOf (s.reg R.FAB_RT_INDEX_INDEX) v)
        ∧ t.fab.routes.filter (·.dst != s.reg R.FAB_RT_INDEX_INDEX) = s.fab.routes.filter (·.dst != s.reg R.FAB_RT_INDEX_INDEX))

/-- Right after reset the registers and every memory are in canonical form, nothing waits, the node boots, and every control-register field
holds its reset value. A field the spec gives no reset value, and a byte of memory nothing has written, hold the model's choice (log entries
3 and 6). -/
def Obligations.ResetState : Prop :=
  State.reset.canonical ∧ State.reset.pending = [] ∧ State.reset.bld.node = .booting ∧ State.reset.rse.homes = []
    ∧ State.reset.rse.works = [] ∧ State.reset.pge.pages = [] ∧ State.reset.cores = [] ∧ State.reset.fab.links = []
    ∧ (∀ f : Fld, State.reset.reg f = f.rst) ∧ ∀ a, State.reset.rd .hbm a = 0

/-- From every state whose registers and memories are in canonical form, a step gives such a state. -/
def Obligations.StepKeepsCanonical : Prop :=
  ∀ (s t : State), s.canonical → step s = .next t → t.canonical

/-- Every step ends in a next state, for no command stops the block; it takes the front command from the queue and leaves the rest and the
variant of the part alone; and the AON count goes on exactly when nothing waits (log entry 1). -/
def Obligations.StepTakesOneCommand : Prop :=
  ∀ (s : State), ∃ t, step s = .next t ∧ t.pending = s.pending.tail ∧ t.small = s.small
    ∧ t.aon = if s.pending = [] then s.aon + 1 else s.aon

/-- A step leaves every part of the state alone but those its front command may change: every byte of memory, every register, the request
directory, the page engine, the cores, the expander, the scheduler, the phase machine, the fabric, the transfer engines, the sync units, the
host port, bring-up, security, power, the event ring, the test access port, and what the node has sent. -/
def Obligations.StepFrame : Prop :=
  ∀ (s t : State) (p : Part), step s = .next t → p ∉ stepTouches s → p.same s t
end

