-- ==== Sys2Proof/Laws/Accept.lean ====
section
/-! SUPPORT. What a host request that passes the checks of Table 12.2 does: its command's effect on the accepted state. -/

namespace Sys2Proof.Machine

/-- A request that passes every check, its payload's too, runs under its reference. -/
theorem prayr_accept {s t : State} {p : HostPkt} {op ref : Nat} {fast admin serves ok : Bool} {run : Nat → State → State}
    (h : s.accept? p op fast admin serves = some (ref, t)) (hok : ok = true) :
    s.prayr p op fast admin serves ok run = run ref t := by
  unfold State.accept? at h
  unfold State.prayr
  rcases heq : s.prayrFront p op fast with ⟨_ | ⟨lo, hi, adm⟩, u⟩
  · simp only [heq, reduceCtorEq] at h
  · simp only [heq] at h ⊢
    split at h
    · cases h
    · rename_i hn
      simp only [not_or, not_and] at hn
      cases h
      rw [if_neg (by simp only [not_or, not_and]; exact ⟨hn.1, hn.2.1, hn.2.2.1⟩),
        if_neg (by simpa only [not_and] using hn.2.2.2.1), if_neg hn.2.2.2.2, if_neg (by simp [hok])]

end Sys2Proof.Machine
end

