-- ==== Sys2Proof/Laws/Cells.lean ====
section
/-! SUPPORT. Lists kept by key and memories: a read gives what was written and leaves every other place alone, in every
list; every operation of a memory keeps its canonical form. -/

namespace Sys2Proof.Machine

/-! ### Register lists -/

theorem lookupD_dropWhile (d key k : Nat) (l : List (Nat × Nat)) :
    lookupD d (l.dropWhile fun p => decide (p.1 ≤ key)) k = if k ≤ key then d else lookupD d l k := by
  induction l with
  | nil => simp [lookupD]
  | cons x l ih =>
    obtain ⟨a, v⟩ := x
    simp only [List.dropWhile_cons]
    split
    · rename_i hle
      simp at hle
      rw [ih]
      simp only [lookupD]
      grind
    · rename_i hle
      simp at hle
      simp only [lookupD]
      grind

/-- A value read after a value set: the value set under its own key, and what stood there under every other. -/
theorem lookupD_assign (d d' key v k : Nat) (l : List (Nat × Nat)) :
    lookupD d' (assign d key v l) k = if k = key then (if v = d then d' else v) else lookupD d' l k := by
  induction l with
  | nil =>
    simp only [assign]
    split <;> simp only [lookupD] <;> grind
  | cons x l ih =>
    obtain ⟨a, w⟩ := x
    simp only [assign]
    split
    · split <;> simp only [lookupD] <;> grind
    · split
      · split
        · rw [lookupD_dropWhile]
          simp only [lookupD]
          grind
        · simp only [lookupD]
          grind
      · simp only [lookupD, ih]
        grind

@[simp] theorem reg_setReg_self (s : State) (f : Fld) (v : Nat) : (s.setReg f v).reg f = v % 2 ^ f.width := by
  simp only [State.reg, State.setReg, lookupD_assign]
  grind

theorem reg_setReg_ne {f g : Fld} (h : g.key ≠ f.key) (s : State) (v : Nat) : (s.setReg f v).reg g = s.reg g := by
  simp [State.reg, State.setReg, lookupD_assign, h]

/-! ### Memories -/

theorem readCell_dropWhile (a k : Nat) (m : List Host.Cell) :
    readCell (m.dropWhile fun p => decide (p.1 ≤ a)) k = if k ≤ a then 0 else readCell m k := by
  induction m with
  | nil => simp [readCell]
  | cons x m ih =>
    obtain ⟨b, v⟩ := x
    simp only [List.dropWhile_cons]
    split
    · rename_i hle
      simp at hle
      rw [ih]
      simp only [readCell]
      grind
    · rename_i hle
      simp at hle
      simp only [readCell]
      grind

/-- A byte read after a byte written. -/
theorem readCell_writeCell (a k : Nat) (v : Byte) (m : List Host.Cell) :
    readCell (writeCell a v m) k = if k = a then v else readCell m k := by
  induction m with
  | nil =>
    simp only [writeCell]
    split <;> simp only [readCell] <;> grind
  | cons x m ih =>
    obtain ⟨b, w⟩ := x
    simp only [writeCell]
    split
    · split <;> simp only [readCell] <;> grind
    · split
      · split
        · rw [readCell_dropWhile]
          simp only [readCell]
          grind
        · simp only [readCell]
          grind
      · simp only [readCell, ih]
        grind

/-- A byte read after bytes written: one of them inside their range, what stood there outside it. -/
theorem readCell_writeCells (bs : List Byte) : ∀ (m : List Host.Cell) (a k : Nat),
    readCell (writeCells m a bs) k = if a ≤ k ∧ k < a + bs.length then bs.getD (k - a) 0 else readCell m k := by
  induction bs with
  | nil =>
    intro m a k
    simp only [writeCells, List.length_nil]
    grind
  | cons b bs ih =>
    intro m a k
    simp only [writeCells, ih, readCell_writeCell, List.length_cons]
    by_cases h : k = a
    · subst h
      simp
    · by_cases h1 : a + 1 ≤ k ∧ k < a + 1 + bs.length
      · have h2 : a ≤ k ∧ k < a + (bs.length + 1) := by omega
        have h3 : k - a = (k - (a + 1)) + 1 := by omega
        simp [h1, h2, h3]
      · have h2 : ¬(a ≤ k ∧ k < a + (bs.length + 1)) := by omega
        rw [if_neg h1, if_neg h2, if_neg h]

/-- Every key of a canonical list lies above its first. -/
theorem Memory.wf_cons (a : Nat) (b : Byte) (m : List Host.Cell) :
    Memory.wf ((a, b) :: m) = true ↔ b ≠ 0 ∧ (∀ p ∈ m, a < p.1) ∧ Memory.wf m = true := by
  induction m generalizing a b with
  | nil => simp [Memory.wf]
  | cons x m ih =>
    obtain ⟨c, d⟩ := x
    simp only [Memory.wf, Bool.and_eq_true, bne_iff_ne, decide_eq_true_eq, List.mem_cons, forall_eq_or_imp, ih]
    constructor
    · rintro ⟨⟨hb, hc⟩, hd, h1, h2⟩
      exact ⟨hb, ⟨hc, fun p hp => lt_trans hc (h1 p hp)⟩, hd, h1, h2⟩
    · rintro ⟨hb, ⟨hc, _⟩, hd, h1, h2⟩
      exact ⟨⟨hb, hc⟩, hd, h1, h2⟩

theorem Memory.wf_dropWhile (f : Host.Cell → Bool) (m : List Host.Cell) (h : Memory.wf m = true) :
    Memory.wf (m.dropWhile f) = true := by
  induction m with
  | nil => simpa using h
  | cons x m ih =>
    obtain ⟨a, b⟩ := x
    rw [Memory.wf_cons] at h
    simp only [List.dropWhile_cons]
    split
    · exact ih h.2.2
    · rw [Memory.wf_cons]
      exact h

theorem mem_writeCell (a : Nat) (v : Byte) (m : List Host.Cell) (p : Host.Cell) (h : p ∈ writeCell a v m) :
    p = (a, v) ∨ p ∈ m := by
  induction m with
  | nil =>
    simp only [writeCell] at h
    split at h <;> simp_all
  | cons x m ih =>
    obtain ⟨b, w⟩ := x
    simp only [writeCell] at h
    split at h
    · split at h <;> simp_all
    · split at h
      · split at h
        · exact .inr (.tail _ ((List.dropWhile_sublist _).subset h))
        · rcases List.mem_cons.1 h with h | h
          · exact .inl (by simp_all)
          · exact .inr (.tail _ h)
      · rcases List.mem_cons.1 h with h | h
        · simp [h]
        · rcases ih h with h | h <;> simp [h]

/-- Writing a byte keeps the canonical form. -/
theorem Memory.wf_writeCell (a : Nat) (v : Byte) (m : List Host.Cell) (h : Memory.wf m = true) :
    Memory.wf (writeCell a v m) = true := by
  induction m with
  | nil =>
    simp only [writeCell]
    split <;> simp_all [Memory.wf]
  | cons x m ih =>
    obtain ⟨b, w⟩ := x
    have h' := h
    rw [Memory.wf_cons] at h'
    simp only [writeCell]
    split
    · rename_i hab
      split
      · exact h
      · rename_i hv
        rw [Memory.wf_cons]
        refine ⟨hv, ?_, h⟩
        intro p hp
        rcases List.mem_cons.1 hp with hp | hp
        · simpa [hp] using hab
        · exact lt_trans hab (h'.2.1 p hp)
    · rename_i hab
      split
      · rename_i he
        subst he
        split
        · exact Memory.wf_dropWhile _ _ h'.2.2
        · rename_i hv
          rw [Memory.wf_cons]
          exact ⟨hv, h'.2.1, h'.2.2⟩
      · rename_i hne
        rw [Memory.wf_cons]
        refine ⟨h'.1, ?_, ih h'.2.2⟩
        intro p hp
        rcases mem_writeCell a v m p hp with hp | hp
        · simp [hp]
          omega
        · exact h'.2.1 p hp

/-- Writing bytes keeps the canonical form. -/
theorem Memory.wf_writeCells (bs : List Byte) : ∀ (m : List Host.Cell) (a : Nat), Memory.wf m = true →
    Memory.wf (writeCells m a bs) = true := by
  induction bs with
  | nil => exact fun _ _ h => h
  | cons b bs ih => exact fun m a h => ih _ _ (Memory.wf_writeCell a b m h)

/-! ### The canonical form of the registers -/

theorem keysRise_cons (x : Nat × Nat) (l : List (Nat × Nat)) :
    keysRise (x :: l) = true ↔ (∀ y ∈ l, x.1 < y.1) ∧ keysRise l = true := by
  simp [keysRise]

theorem Memory.wf_sublist {l m : List Host.Cell} (h : l.Sublist m) (hm : Memory.wf m = true) : Memory.wf l = true := by
  induction h with
  | slnil => rfl
  | cons x _ ih =>
    obtain ⟨a, b⟩ := x
    rw [Memory.wf_cons] at hm
    exact ih hm.2.2
  | cons_cons x hs ih =>
    obtain ⟨a, b⟩ := x
    rw [Memory.wf_cons] at hm ⊢
    exact ⟨hm.1, fun y hy => hm.2.1 y (hs.subset hy), ih hm.2.2⟩

theorem keysRise_sublist {l m : List (Nat × Nat)} (h : l.Sublist m) (hm : keysRise m = true) : keysRise l = true := by
  induction h with
  | slnil => rfl
  | cons x _ ih =>
    rw [keysRise_cons] at hm
    exact ih hm.2
  | cons_cons x hs ih =>
    rw [keysRise_cons] at hm ⊢
    exact ⟨fun y hy => hm.1 y (hs.subset hy), ih hm.2⟩

theorem mem_assign (d key v : Nat) (l : List (Nat × Nat)) (p : Nat × Nat) (h : p ∈ assign d key v l) :
    p = (key, v) ∨ p ∈ l := by
  induction l with
  | nil =>
    simp only [assign] at h
    split at h <;> simp_all
  | cons x l ih =>
    obtain ⟨b, w⟩ := x
    simp only [assign] at h
    split at h
    · split at h <;> simp_all
    · split at h
      · split at h
        · exact .inr (.tail _ ((List.dropWhile_sublist _).subset h))
        · rcases List.mem_cons.1 h with h | h
          · exact .inl (by simp_all)
          · exact .inr (.tail _ h)
      · rcases List.mem_cons.1 h with h | h
        · simp [h]
        · rcases ih h with h | h <;> simp [h]

/-- Setting a register field keeps the keys rising. -/
theorem keysRise_assign (d key v : Nat) (l : List (Nat × Nat)) (h : keysRise l = true) :
    keysRise (assign d key v l) = true := by
  induction l with
  | nil =>
    simp only [assign]
    split <;> simp [keysRise]
  | cons x l ih =>
    obtain ⟨b, w⟩ := x
    have h' := h
    rw [keysRise_cons] at h'
    simp only [assign]
    split
    · rename_i hab
      split
      · exact h
      · rw [keysRise_cons]
        refine ⟨?_, h⟩
        intro p hp
        rcases List.mem_cons.1 hp with hp | hp
        · simpa [hp] using hab
        · exact lt_trans hab (h'.1 p hp)
    · split
      · rename_i he
        subst he
        split
        · exact keysRise_sublist (List.dropWhile_sublist _) h'.2
        · rw [keysRise_cons]
          exact h'
      · rw [keysRise_cons]
        refine ⟨?_, ih h'.2⟩
        intro p hp
        rcases mem_assign d key v l p hp with hp | hp
        · simp [hp]
          omega
        · exact h'.1 p hp

end Sys2Proof.Machine
end

