-- ==== Sys2Proof/Laws/State.lean ====
section
/-! SUPPORT. One lemma per field for each update of the state, so that no proof unfolds a record update. -/

namespace Sys2Proof.Machine

variable (s : State)

/-! ### onRse -/

@[simp] theorem onRse_small (f : Rse → Rse) : (s.onRse f).small = s.small := rfl
@[simp] theorem onRse_aon (f : Rse → Rse) : (s.onRse f).aon = s.aon := rfl
@[simp] theorem onRse_regs (f : Rse → Rse) : (s.onRse f).regs = s.regs := rfl
@[simp] theorem onRse_hbm (f : Rse → Rse) : (s.onRse f).hbm = s.hbm := rfl
@[simp] theorem onRse_tileBuf (f : Rse → Rse) : (s.onRse f).tileBuf = s.tileBuf := rfl
@[simp] theorem onRse_opBuf (f : Rse → Rse) : (s.onRse f).opBuf = s.opBuf := rfl
@[simp] theorem onRse_recBuf (f : Rse → Rse) : (s.onRse f).recBuf = s.recBuf := rfl
@[simp] theorem onRse_hbmPoison (f : Rse → Rse) : (s.onRse f).hbmPoison = s.hbmPoison := rfl
@[simp] theorem onRse_tilePoison (f : Rse → Rse) : (s.onRse f).tilePoison = s.tilePoison := rfl
@[simp] theorem onRse_opPoison (f : Rse → Rse) : (s.onRse f).opPoison = s.opPoison := rfl
@[simp] theorem onRse_rse (f : Rse → Rse) : (s.onRse f).rse = f s.rse := rfl
@[simp] theorem onRse_pge (f : Rse → Rse) : (s.onRse f).pge = s.pge := rfl
@[simp] theorem onRse_mzt (f : Rse → Rse) : (s.onRse f).mzt = s.mzt := rfl
@[simp] theorem onRse_cores (f : Rse → Rse) : (s.onRse f).cores = s.cores := rfl
@[simp] theorem onRse_exp (f : Rse → Rse) : (s.onRse f).exp = s.exp := rfl
@[simp] theorem onRse_sch (f : Rse → Rse) : (s.onRse f).sch = s.sch := rfl
@[simp] theorem onRse_phs (f : Rse → Rse) : (s.onRse f).phs = s.phs := rfl
@[simp] theorem onRse_fab (f : Rse → Rse) : (s.onRse f).fab = s.fab := rfl
@[simp] theorem onRse_xfr (f : Rse → Rse) : (s.onRse f).xfr = s.xfr := rfl
@[simp] theorem onRse_syn (f : Rse → Rse) : (s.onRse f).syn = s.syn := rfl
@[simp] theorem onRse_hcp (f : Rse → Rse) : (s.onRse f).hcp = s.hcp := rfl
@[simp] theorem onRse_bld (f : Rse → Rse) : (s.onRse f).bld = s.bld := rfl
@[simp] theorem onRse_sec (f : Rse → Rse) : (s.onRse f).sec = s.sec := rfl
@[simp] theorem onRse_pcr (f : Rse → Rse) : (s.onRse f).pcr = s.pcr := rfl
@[simp] theorem onRse_evt (f : Rse → Rse) : (s.onRse f).evt = s.evt := rfl
@[simp] theorem onRse_tap (f : Rse → Rse) : (s.onRse f).tap = s.tap := rfl
@[simp] theorem onRse_outbox (f : Rse → Rse) : (s.onRse f).outbox = s.outbox := rfl
@[simp] theorem onRse_fresh (f : Rse → Rse) : (s.onRse f).fresh = s.fresh := rfl
@[simp] theorem onRse_pending (f : Rse → Rse) : (s.onRse f).pending = s.pending := rfl
@[simp] theorem onRse_reg (f : Rse → Rse) (g : Fld) : (s.onRse f).reg g = s.reg g := rfl
@[simp] theorem onRse_flag (f : Rse → Rse) (g : Fld) : (s.onRse f).flag g = s.flag g := rfl
@[simp] theorem onRse_node (f : Rse → Rse) : (s.onRse f).node = s.node := rfl
@[simp] theorem onRse_tick (f : Rse → Rse) : (s.onRse f).tick = s.tick := rfl
@[simp] theorem onRse_tiles (f : Rse → Rse) : (s.onRse f).tiles = s.tiles := rfl
@[simp] theorem onRse_ports (f : Rse → Rse) : (s.onRse f).ports = s.ports := rfl
@[simp] theorem onRse_rd (f : Rse → Rse) (m : Mem) (a : Nat) : (s.onRse f).rd m a = s.rd m a := by cases m <;> rfl

/-! ### onPge -/

@[simp] theorem onPge_small (f : Pge → Pge) : (s.onPge f).small = s.small := rfl
@[simp] theorem onPge_aon (f : Pge → Pge) : (s.onPge f).aon = s.aon := rfl
@[simp] theorem onPge_regs (f : Pge → Pge) : (s.onPge f).regs = s.regs := rfl
@[simp] theorem onPge_hbm (f : Pge → Pge) : (s.onPge f).hbm = s.hbm := rfl
@[simp] theorem onPge_tileBuf (f : Pge → Pge) : (s.onPge f).tileBuf = s.tileBuf := rfl
@[simp] theorem onPge_opBuf (f : Pge → Pge) : (s.onPge f).opBuf = s.opBuf := rfl
@[simp] theorem onPge_recBuf (f : Pge → Pge) : (s.onPge f).recBuf = s.recBuf := rfl
@[simp] theorem onPge_hbmPoison (f : Pge → Pge) : (s.onPge f).hbmPoison = s.hbmPoison := rfl
@[simp] theorem onPge_tilePoison (f : Pge → Pge) : (s.onPge f).tilePoison = s.tilePoison := rfl
@[simp] theorem onPge_opPoison (f : Pge → Pge) : (s.onPge f).opPoison = s.opPoison := rfl
@[simp] theorem onPge_rse (f : Pge → Pge) : (s.onPge f).rse = s.rse := rfl
@[simp] theorem onPge_pge (f : Pge → Pge) : (s.onPge f).pge = f s.pge := rfl
@[simp] theorem onPge_mzt (f : Pge → Pge) : (s.onPge f).mzt = s.mzt := rfl
@[simp] theorem onPge_cores (f : Pge → Pge) : (s.onPge f).cores = s.cores := rfl
@[simp] theorem onPge_exp (f : Pge → Pge) : (s.onPge f).exp = s.exp := rfl
@[simp] theorem onPge_sch (f : Pge → Pge) : (s.onPge f).sch = s.sch := rfl
@[simp] theorem onPge_phs (f : Pge → Pge) : (s.onPge f).phs = s.phs := rfl
@[simp] theorem onPge_fab (f : Pge → Pge) : (s.onPge f).fab = s.fab := rfl
@[simp] theorem onPge_xfr (f : Pge → Pge) : (s.onPge f).xfr = s.xfr := rfl
@[simp] theorem onPge_syn (f : Pge → Pge) : (s.onPge f).syn = s.syn := rfl
@[simp] theorem onPge_hcp (f : Pge → Pge) : (s.onPge f).hcp = s.hcp := rfl
@[simp] theorem onPge_bld (f : Pge → Pge) : (s.onPge f).bld = s.bld := rfl
@[simp] theorem onPge_sec (f : Pge → Pge) : (s.onPge f).sec = s.sec := rfl
@[simp] theorem onPge_pcr (f : Pge → Pge) : (s.onPge f).pcr = s.pcr := rfl
@[simp] theorem onPge_evt (f : Pge → Pge) : (s.onPge f).evt = s.evt := rfl
@[simp] theorem onPge_tap (f : Pge → Pge) : (s.onPge f).tap = s.tap := rfl
@[simp] theorem onPge_outbox (f : Pge → Pge) : (s.onPge f).outbox = s.outbox := rfl
@[simp] theorem onPge_fresh (f : Pge → Pge) : (s.onPge f).fresh = s.fresh := rfl
@[simp] theorem onPge_pending (f : Pge → Pge) : (s.onPge f).pending = s.pending := rfl
@[simp] theorem onPge_reg (f : Pge → Pge) (g : Fld) : (s.onPge f).reg g = s.reg g := rfl
@[simp] theorem onPge_flag (f : Pge → Pge) (g : Fld) : (s.onPge f).flag g = s.flag g := rfl
@[simp] theorem onPge_node (f : Pge → Pge) : (s.onPge f).node = s.node := rfl
@[simp] theorem onPge_tick (f : Pge → Pge) : (s.onPge f).tick = s.tick := rfl
@[simp] theorem onPge_tiles (f : Pge → Pge) : (s.onPge f).tiles = s.tiles := rfl
@[simp] theorem onPge_ports (f : Pge → Pge) : (s.onPge f).ports = s.ports := rfl
@[simp] theorem onPge_rd (f : Pge → Pge) (m : Mem) (a : Nat) : (s.onPge f).rd m a = s.rd m a := by cases m <;> rfl

/-! ### onMzt -/

@[simp] theorem onMzt_small (f : Mzt → Mzt) : (s.onMzt f).small = s.small := rfl
@[simp] theorem onMzt_aon (f : Mzt → Mzt) : (s.onMzt f).aon = s.aon := rfl
@[simp] theorem onMzt_regs (f : Mzt → Mzt) : (s.onMzt f).regs = s.regs := rfl
@[simp] theorem onMzt_hbm (f : Mzt → Mzt) : (s.onMzt f).hbm = s.hbm := rfl
@[simp] theorem onMzt_tileBuf (f : Mzt → Mzt) : (s.onMzt f).tileBuf = s.tileBuf := rfl
@[simp] theorem onMzt_opBuf (f : Mzt → Mzt) : (s.onMzt f).opBuf = s.opBuf := rfl
@[simp] theorem onMzt_recBuf (f : Mzt → Mzt) : (s.onMzt f).recBuf = s.recBuf := rfl
@[simp] theorem onMzt_hbmPoison (f : Mzt → Mzt) : (s.onMzt f).hbmPoison = s.hbmPoison := rfl
@[simp] theorem onMzt_tilePoison (f : Mzt → Mzt) : (s.onMzt f).tilePoison = s.tilePoison := rfl
@[simp] theorem onMzt_opPoison (f : Mzt → Mzt) : (s.onMzt f).opPoison = s.opPoison := rfl
@[simp] theorem onMzt_rse (f : Mzt → Mzt) : (s.onMzt f).rse = s.rse := rfl
@[simp] theorem onMzt_pge (f : Mzt → Mzt) : (s.onMzt f).pge = s.pge := rfl
@[simp] theorem onMzt_mzt (f : Mzt → Mzt) : (s.onMzt f).mzt = f s.mzt := rfl
@[simp] theorem onMzt_cores (f : Mzt → Mzt) : (s.onMzt f).cores = s.cores := rfl
@[simp] theorem onMzt_exp (f : Mzt → Mzt) : (s.onMzt f).exp = s.exp := rfl
@[simp] theorem onMzt_sch (f : Mzt → Mzt) : (s.onMzt f).sch = s.sch := rfl
@[simp] theorem onMzt_phs (f : Mzt → Mzt) : (s.onMzt f).phs = s.phs := rfl
@[simp] theorem onMzt_fab (f : Mzt → Mzt) : (s.onMzt f).fab = s.fab := rfl
@[simp] theorem onMzt_xfr (f : Mzt → Mzt) : (s.onMzt f).xfr = s.xfr := rfl
@[simp] theorem onMzt_syn (f : Mzt → Mzt) : (s.onMzt f).syn = s.syn := rfl
@[simp] theorem onMzt_hcp (f : Mzt → Mzt) : (s.onMzt f).hcp = s.hcp := rfl
@[simp] theorem onMzt_bld (f : Mzt → Mzt) : (s.onMzt f).bld = s.bld := rfl
@[simp] theorem onMzt_sec (f : Mzt → Mzt) : (s.onMzt f).sec = s.sec := rfl
@[simp] theorem onMzt_pcr (f : Mzt → Mzt) : (s.onMzt f).pcr = s.pcr := rfl
@[simp] theorem onMzt_evt (f : Mzt → Mzt) : (s.onMzt f).evt = s.evt := rfl
@[simp] theorem onMzt_tap (f : Mzt → Mzt) : (s.onMzt f).tap = s.tap := rfl
@[simp] theorem onMzt_outbox (f : Mzt → Mzt) : (s.onMzt f).outbox = s.outbox := rfl
@[simp] theorem onMzt_fresh (f : Mzt → Mzt) : (s.onMzt f).fresh = s.fresh := rfl
@[simp] theorem onMzt_pending (f : Mzt → Mzt) : (s.onMzt f).pending = s.pending := rfl
@[simp] theorem onMzt_reg (f : Mzt → Mzt) (g : Fld) : (s.onMzt f).reg g = s.reg g := rfl
@[simp] theorem onMzt_flag (f : Mzt → Mzt) (g : Fld) : (s.onMzt f).flag g = s.flag g := rfl
@[simp] theorem onMzt_node (f : Mzt → Mzt) : (s.onMzt f).node = s.node := rfl
@[simp] theorem onMzt_tick (f : Mzt → Mzt) : (s.onMzt f).tick = s.tick := rfl
@[simp] theorem onMzt_tiles (f : Mzt → Mzt) : (s.onMzt f).tiles = s.tiles := rfl
@[simp] theorem onMzt_ports (f : Mzt → Mzt) : (s.onMzt f).ports = s.ports := rfl
@[simp] theorem onMzt_rd (f : Mzt → Mzt) (m : Mem) (a : Nat) : (s.onMzt f).rd m a = s.rd m a := by cases m <;> rfl

/-! ### onExp -/

@[simp] theorem onExp_small (f : Exp → Exp) : (s.onExp f).small = s.small := rfl
@[simp] theorem onExp_aon (f : Exp → Exp) : (s.onExp f).aon = s.aon := rfl
@[simp] theorem onExp_regs (f : Exp → Exp) : (s.onExp f).regs = s.regs := rfl
@[simp] theorem onExp_hbm (f : Exp → Exp) : (s.onExp f).hbm = s.hbm := rfl
@[simp] theorem onExp_tileBuf (f : Exp → Exp) : (s.onExp f).tileBuf = s.tileBuf := rfl
@[simp] theorem onExp_opBuf (f : Exp → Exp) : (s.onExp f).opBuf = s.opBuf := rfl
@[simp] theorem onExp_recBuf (f : Exp → Exp) : (s.onExp f).recBuf = s.recBuf := rfl
@[simp] theorem onExp_hbmPoison (f : Exp → Exp) : (s.onExp f).hbmPoison = s.hbmPoison := rfl
@[simp] theorem onExp_tilePoison (f : Exp → Exp) : (s.onExp f).tilePoison = s.tilePoison := rfl
@[simp] theorem onExp_opPoison (f : Exp → Exp) : (s.onExp f).opPoison = s.opPoison := rfl
@[simp] theorem onExp_rse (f : Exp → Exp) : (s.onExp f).rse = s.rse := rfl
@[simp] theorem onExp_pge (f : Exp → Exp) : (s.onExp f).pge = s.pge := rfl
@[simp] theorem onExp_mzt (f : Exp → Exp) : (s.onExp f).mzt = s.mzt := rfl
@[simp] theorem onExp_cores (f : Exp → Exp) : (s.onExp f).cores = s.cores := rfl
@[simp] theorem onExp_exp (f : Exp → Exp) : (s.onExp f).exp = f s.exp := rfl
@[simp] theorem onExp_sch (f : Exp → Exp) : (s.onExp f).sch = s.sch := rfl
@[simp] theorem onExp_phs (f : Exp → Exp) : (s.onExp f).phs = s.phs := rfl
@[simp] theorem onExp_fab (f : Exp → Exp) : (s.onExp f).fab = s.fab := rfl
@[simp] theorem onExp_xfr (f : Exp → Exp) : (s.onExp f).xfr = s.xfr := rfl
@[simp] theorem onExp_syn (f : Exp → Exp) : (s.onExp f).syn = s.syn := rfl
@[simp] theorem onExp_hcp (f : Exp → Exp) : (s.onExp f).hcp = s.hcp := rfl
@[simp] theorem onExp_bld (f : Exp → Exp) : (s.onExp f).bld = s.bld := rfl
@[simp] theorem onExp_sec (f : Exp → Exp) : (s.onExp f).sec = s.sec := rfl
@[simp] theorem onExp_pcr (f : Exp → Exp) : (s.onExp f).pcr = s.pcr := rfl
@[simp] theorem onExp_evt (f : Exp → Exp) : (s.onExp f).evt = s.evt := rfl
@[simp] theorem onExp_tap (f : Exp → Exp) : (s.onExp f).tap = s.tap := rfl
@[simp] theorem onExp_outbox (f : Exp → Exp) : (s.onExp f).outbox = s.outbox := rfl
@[simp] theorem onExp_fresh (f : Exp → Exp) : (s.onExp f).fresh = s.fresh := rfl
@[simp] theorem onExp_pending (f : Exp → Exp) : (s.onExp f).pending = s.pending := rfl
@[simp] theorem onExp_reg (f : Exp → Exp) (g : Fld) : (s.onExp f).reg g = s.reg g := rfl
@[simp] theorem onExp_flag (f : Exp → Exp) (g : Fld) : (s.onExp f).flag g = s.flag g := rfl
@[simp] theorem onExp_node (f : Exp → Exp) : (s.onExp f).node = s.node := rfl
@[simp] theorem onExp_tick (f : Exp → Exp) : (s.onExp f).tick = s.tick := rfl
@[simp] theorem onExp_tiles (f : Exp → Exp) : (s.onExp f).tiles = s.tiles := rfl
@[simp] theorem onExp_ports (f : Exp → Exp) : (s.onExp f).ports = s.ports := rfl
@[simp] theorem onExp_rd (f : Exp → Exp) (m : Mem) (a : Nat) : (s.onExp f).rd m a = s.rd m a := by cases m <;> rfl

/-! ### onSch -/

@[simp] theorem onSch_small (f : Sch → Sch) : (s.onSch f).small = s.small := rfl
@[simp] theorem onSch_aon (f : Sch → Sch) : (s.onSch f).aon = s.aon := rfl
@[simp] theorem onSch_regs (f : Sch → Sch) : (s.onSch f).regs = s.regs := rfl
@[simp] theorem onSch_hbm (f : Sch → Sch) : (s.onSch f).hbm = s.hbm := rfl
@[simp] theorem onSch_tileBuf (f : Sch → Sch) : (s.onSch f).tileBuf = s.tileBuf := rfl
@[simp] theorem onSch_opBuf (f : Sch → Sch) : (s.onSch f).opBuf = s.opBuf := rfl
@[simp] theorem onSch_recBuf (f : Sch → Sch) : (s.onSch f).recBuf = s.recBuf := rfl
@[simp] theorem onSch_hbmPoison (f : Sch → Sch) : (s.onSch f).hbmPoison = s.hbmPoison := rfl
@[simp] theorem onSch_tilePoison (f : Sch → Sch) : (s.onSch f).tilePoison = s.tilePoison := rfl
@[simp] theorem onSch_opPoison (f : Sch → Sch) : (s.onSch f).opPoison = s.opPoison := rfl
@[simp] theorem onSch_rse (f : Sch → Sch) : (s.onSch f).rse = s.rse := rfl
@[simp] theorem onSch_pge (f : Sch → Sch) : (s.onSch f).pge = s.pge := rfl
@[simp] theorem onSch_mzt (f : Sch → Sch) : (s.onSch f).mzt = s.mzt := rfl
@[simp] theorem onSch_cores (f : Sch → Sch) : (s.onSch f).cores = s.cores := rfl
@[simp] theorem onSch_exp (f : Sch → Sch) : (s.onSch f).exp = s.exp := rfl
@[simp] theorem onSch_sch (f : Sch → Sch) : (s.onSch f).sch = f s.sch := rfl
@[simp] theorem onSch_phs (f : Sch → Sch) : (s.onSch f).phs = s.phs := rfl
@[simp] theorem onSch_fab (f : Sch → Sch) : (s.onSch f).fab = s.fab := rfl
@[simp] theorem onSch_xfr (f : Sch → Sch) : (s.onSch f).xfr = s.xfr := rfl
@[simp] theorem onSch_syn (f : Sch → Sch) : (s.onSch f).syn = s.syn := rfl
@[simp] theorem onSch_hcp (f : Sch → Sch) : (s.onSch f).hcp = s.hcp := rfl
@[simp] theorem onSch_bld (f : Sch → Sch) : (s.onSch f).bld = s.bld := rfl
@[simp] theorem onSch_sec (f : Sch → Sch) : (s.onSch f).sec = s.sec := rfl
@[simp] theorem onSch_pcr (f : Sch → Sch) : (s.onSch f).pcr = s.pcr := rfl
@[simp] theorem onSch_evt (f : Sch → Sch) : (s.onSch f).evt = s.evt := rfl
@[simp] theorem onSch_tap (f : Sch → Sch) : (s.onSch f).tap = s.tap := rfl
@[simp] theorem onSch_outbox (f : Sch → Sch) : (s.onSch f).outbox = s.outbox := rfl
@[simp] theorem onSch_fresh (f : Sch → Sch) : (s.onSch f).fresh = s.fresh := rfl
@[simp] theorem onSch_pending (f : Sch → Sch) : (s.onSch f).pending = s.pending := rfl
@[simp] theorem onSch_reg (f : Sch → Sch) (g : Fld) : (s.onSch f).reg g = s.reg g := rfl
@[simp] theorem onSch_flag (f : Sch → Sch) (g : Fld) : (s.onSch f).flag g = s.flag g := rfl
@[simp] theorem onSch_node (f : Sch → Sch) : (s.onSch f).node = s.node := rfl
@[simp] theorem onSch_tick (f : Sch → Sch) : (s.onSch f).tick = s.tick := rfl
@[simp] theorem onSch_tiles (f : Sch → Sch) : (s.onSch f).tiles = s.tiles := rfl
@[simp] theorem onSch_ports (f : Sch → Sch) : (s.onSch f).ports = s.ports := rfl
@[simp] theorem onSch_rd (f : Sch → Sch) (m : Mem) (a : Nat) : (s.onSch f).rd m a = s.rd m a := by cases m <;> rfl

/-! ### onPhs -/

@[simp] theorem onPhs_small (f : Phs → Phs) : (s.onPhs f).small = s.small := rfl
@[simp] theorem onPhs_aon (f : Phs → Phs) : (s.onPhs f).aon = s.aon := rfl
@[simp] theorem onPhs_regs (f : Phs → Phs) : (s.onPhs f).regs = s.regs := rfl
@[simp] theorem onPhs_hbm (f : Phs → Phs) : (s.onPhs f).hbm = s.hbm := rfl
@[simp] theorem onPhs_tileBuf (f : Phs → Phs) : (s.onPhs f).tileBuf = s.tileBuf := rfl
@[simp] theorem onPhs_opBuf (f : Phs → Phs) : (s.onPhs f).opBuf = s.opBuf := rfl
@[simp] theorem onPhs_recBuf (f : Phs → Phs) : (s.onPhs f).recBuf = s.recBuf := rfl
@[simp] theorem onPhs_hbmPoison (f : Phs → Phs) : (s.onPhs f).hbmPoison = s.hbmPoison := rfl
@[simp] theorem onPhs_tilePoison (f : Phs → Phs) : (s.onPhs f).tilePoison = s.tilePoison := rfl
@[simp] theorem onPhs_opPoison (f : Phs → Phs) : (s.onPhs f).opPoison = s.opPoison := rfl
@[simp] theorem onPhs_rse (f : Phs → Phs) : (s.onPhs f).rse = s.rse := rfl
@[simp] theorem onPhs_pge (f : Phs → Phs) : (s.onPhs f).pge = s.pge := rfl
@[simp] theorem onPhs_mzt (f : Phs → Phs) : (s.onPhs f).mzt = s.mzt := rfl
@[simp] theorem onPhs_cores (f : Phs → Phs) : (s.onPhs f).cores = s.cores := rfl
@[simp] theorem onPhs_exp (f : Phs → Phs) : (s.onPhs f).exp = s.exp := rfl
@[simp] theorem onPhs_sch (f : Phs → Phs) : (s.onPhs f).sch = s.sch := rfl
@[simp] theorem onPhs_phs (f : Phs → Phs) : (s.onPhs f).phs = f s.phs := rfl
@[simp] theorem onPhs_fab (f : Phs → Phs) : (s.onPhs f).fab = s.fab := rfl
@[simp] theorem onPhs_xfr (f : Phs → Phs) : (s.onPhs f).xfr = s.xfr := rfl
@[simp] theorem onPhs_syn (f : Phs → Phs) : (s.onPhs f).syn = s.syn := rfl
@[simp] theorem onPhs_hcp (f : Phs → Phs) : (s.onPhs f).hcp = s.hcp := rfl
@[simp] theorem onPhs_bld (f : Phs → Phs) : (s.onPhs f).bld = s.bld := rfl
@[simp] theorem onPhs_sec (f : Phs → Phs) : (s.onPhs f).sec = s.sec := rfl
@[simp] theorem onPhs_pcr (f : Phs → Phs) : (s.onPhs f).pcr = s.pcr := rfl
@[simp] theorem onPhs_evt (f : Phs → Phs) : (s.onPhs f).evt = s.evt := rfl
@[simp] theorem onPhs_tap (f : Phs → Phs) : (s.onPhs f).tap = s.tap := rfl
@[simp] theorem onPhs_outbox (f : Phs → Phs) : (s.onPhs f).outbox = s.outbox := rfl
@[simp] theorem onPhs_fresh (f : Phs → Phs) : (s.onPhs f).fresh = s.fresh := rfl
@[simp] theorem onPhs_pending (f : Phs → Phs) : (s.onPhs f).pending = s.pending := rfl
@[simp] theorem onPhs_reg (f : Phs → Phs) (g : Fld) : (s.onPhs f).reg g = s.reg g := rfl
@[simp] theorem onPhs_flag (f : Phs → Phs) (g : Fld) : (s.onPhs f).flag g = s.flag g := rfl
@[simp] theorem onPhs_node (f : Phs → Phs) : (s.onPhs f).node = s.node := rfl
@[simp] theorem onPhs_tick (f : Phs → Phs) : (s.onPhs f).tick = s.tick := rfl
@[simp] theorem onPhs_tiles (f : Phs → Phs) : (s.onPhs f).tiles = s.tiles := rfl
@[simp] theorem onPhs_ports (f : Phs → Phs) : (s.onPhs f).ports = s.ports := rfl
@[simp] theorem onPhs_rd (f : Phs → Phs) (m : Mem) (a : Nat) : (s.onPhs f).rd m a = s.rd m a := by cases m <;> rfl

/-! ### onFab -/

@[simp] theorem onFab_small (f : Fab → Fab) : (s.onFab f).small = s.small := rfl
@[simp] theorem onFab_aon (f : Fab → Fab) : (s.onFab f).aon = s.aon := rfl
@[simp] theorem onFab_regs (f : Fab → Fab) : (s.onFab f).regs = s.regs := rfl
@[simp] theorem onFab_hbm (f : Fab → Fab) : (s.onFab f).hbm = s.hbm := rfl
@[simp] theorem onFab_tileBuf (f : Fab → Fab) : (s.onFab f).tileBuf = s.tileBuf := rfl
@[simp] theorem onFab_opBuf (f : Fab → Fab) : (s.onFab f).opBuf = s.opBuf := rfl
@[simp] theorem onFab_recBuf (f : Fab → Fab) : (s.onFab f).recBuf = s.recBuf := rfl
@[simp] theorem onFab_hbmPoison (f : Fab → Fab) : (s.onFab f).hbmPoison = s.hbmPoison := rfl
@[simp] theorem onFab_tilePoison (f : Fab → Fab) : (s.onFab f).tilePoison = s.tilePoison := rfl
@[simp] theorem onFab_opPoison (f : Fab → Fab) : (s.onFab f).opPoison = s.opPoison := rfl
@[simp] theorem onFab_rse (f : Fab → Fab) : (s.onFab f).rse = s.rse := rfl
@[simp] theorem onFab_pge (f : Fab → Fab) : (s.onFab f).pge = s.pge := rfl
@[simp] theorem onFab_mzt (f : Fab → Fab) : (s.onFab f).mzt = s.mzt := rfl
@[simp] theorem onFab_cores (f : Fab → Fab) : (s.onFab f).cores = s.cores := rfl
@[simp] theorem onFab_exp (f : Fab → Fab) : (s.onFab f).exp = s.exp := rfl
@[simp] theorem onFab_sch (f : Fab → Fab) : (s.onFab f).sch = s.sch := rfl
@[simp] theorem onFab_phs (f : Fab → Fab) : (s.onFab f).phs = s.phs := rfl
@[simp] theorem onFab_fab (f : Fab → Fab) : (s.onFab f).fab = f s.fab := rfl
@[simp] theorem onFab_xfr (f : Fab → Fab) : (s.onFab f).xfr = s.xfr := rfl
@[simp] theorem onFab_syn (f : Fab → Fab) : (s.onFab f).syn = s.syn := rfl
@[simp] theorem onFab_hcp (f : Fab → Fab) : (s.onFab f).hcp = s.hcp := rfl
@[simp] theorem onFab_bld (f : Fab → Fab) : (s.onFab f).bld = s.bld := rfl
@[simp] theorem onFab_sec (f : Fab → Fab) : (s.onFab f).sec = s.sec := rfl
@[simp] theorem onFab_pcr (f : Fab → Fab) : (s.onFab f).pcr = s.pcr := rfl
@[simp] theorem onFab_evt (f : Fab → Fab) : (s.onFab f).evt = s.evt := rfl
@[simp] theorem onFab_tap (f : Fab → Fab) : (s.onFab f).tap = s.tap := rfl
@[simp] theorem onFab_outbox (f : Fab → Fab) : (s.onFab f).outbox = s.outbox := rfl
@[simp] theorem onFab_fresh (f : Fab → Fab) : (s.onFab f).fresh = s.fresh := rfl
@[simp] theorem onFab_pending (f : Fab → Fab) : (s.onFab f).pending = s.pending := rfl
@[simp] theorem onFab_reg (f : Fab → Fab) (g : Fld) : (s.onFab f).reg g = s.reg g := rfl
@[simp] theorem onFab_flag (f : Fab → Fab) (g : Fld) : (s.onFab f).flag g = s.flag g := rfl
@[simp] theorem onFab_node (f : Fab → Fab) : (s.onFab f).node = s.node := rfl
@[simp] theorem onFab_tick (f : Fab → Fab) : (s.onFab f).tick = s.tick := rfl
@[simp] theorem onFab_tiles (f : Fab → Fab) : (s.onFab f).tiles = s.tiles := rfl
@[simp] theorem onFab_ports (f : Fab → Fab) : (s.onFab f).ports = s.ports := rfl
@[simp] theorem onFab_rd (f : Fab → Fab) (m : Mem) (a : Nat) : (s.onFab f).rd m a = s.rd m a := by cases m <;> rfl

/-! ### onXfr -/

@[simp] theorem onXfr_small (f : Xfr → Xfr) : (s.onXfr f).small = s.small := rfl
@[simp] theorem onXfr_aon (f : Xfr → Xfr) : (s.onXfr f).aon = s.aon := rfl
@[simp] theorem onXfr_regs (f : Xfr → Xfr) : (s.onXfr f).regs = s.regs := rfl
@[simp] theorem onXfr_hbm (f : Xfr → Xfr) : (s.onXfr f).hbm = s.hbm := rfl
@[simp] theorem onXfr_tileBuf (f : Xfr → Xfr) : (s.onXfr f).tileBuf = s.tileBuf := rfl
@[simp] theorem onXfr_opBuf (f : Xfr → Xfr) : (s.onXfr f).opBuf = s.opBuf := rfl
@[simp] theorem onXfr_recBuf (f : Xfr → Xfr) : (s.onXfr f).recBuf = s.recBuf := rfl
@[simp] theorem onXfr_hbmPoison (f : Xfr → Xfr) : (s.onXfr f).hbmPoison = s.hbmPoison := rfl
@[simp] theorem onXfr_tilePoison (f : Xfr → Xfr) : (s.onXfr f).tilePoison = s.tilePoison := rfl
@[simp] theorem onXfr_opPoison (f : Xfr → Xfr) : (s.onXfr f).opPoison = s.opPoison := rfl
@[simp] theorem onXfr_rse (f : Xfr → Xfr) : (s.onXfr f).rse = s.rse := rfl
@[simp] theorem onXfr_pge (f : Xfr → Xfr) : (s.onXfr f).pge = s.pge := rfl
@[simp] theorem onXfr_mzt (f : Xfr → Xfr) : (s.onXfr f).mzt = s.mzt := rfl
@[simp] theorem onXfr_cores (f : Xfr → Xfr) : (s.onXfr f).cores = s.cores := rfl
@[simp] theorem onXfr_exp (f : Xfr → Xfr) : (s.onXfr f).exp = s.exp := rfl
@[simp] theorem onXfr_sch (f : Xfr → Xfr) : (s.onXfr f).sch = s.sch := rfl
@[simp] theorem onXfr_phs (f : Xfr → Xfr) : (s.onXfr f).phs = s.phs := rfl
@[simp] theorem onXfr_fab (f : Xfr → Xfr) : (s.onXfr f).fab = s.fab := rfl
@[simp] theorem onXfr_xfr (f : Xfr → Xfr) : (s.onXfr f).xfr = f s.xfr := rfl
@[simp] theorem onXfr_syn (f : Xfr → Xfr) : (s.onXfr f).syn = s.syn := rfl
@[simp] theorem onXfr_hcp (f : Xfr → Xfr) : (s.onXfr f).hcp = s.hcp := rfl
@[simp] theorem onXfr_bld (f : Xfr → Xfr) : (s.onXfr f).bld = s.bld := rfl
@[simp] theorem onXfr_sec (f : Xfr → Xfr) : (s.onXfr f).sec = s.sec := rfl
@[simp] theorem onXfr_pcr (f : Xfr → Xfr) : (s.onXfr f).pcr = s.pcr := rfl
@[simp] theorem onXfr_evt (f : Xfr → Xfr) : (s.onXfr f).evt = s.evt := rfl
@[simp] theorem onXfr_tap (f : Xfr → Xfr) : (s.onXfr f).tap = s.tap := rfl
@[simp] theorem onXfr_outbox (f : Xfr → Xfr) : (s.onXfr f).outbox = s.outbox := rfl
@[simp] theorem onXfr_fresh (f : Xfr → Xfr) : (s.onXfr f).fresh = s.fresh := rfl
@[simp] theorem onXfr_pending (f : Xfr → Xfr) : (s.onXfr f).pending = s.pending := rfl
@[simp] theorem onXfr_reg (f : Xfr → Xfr) (g : Fld) : (s.onXfr f).reg g = s.reg g := rfl
@[simp] theorem onXfr_flag (f : Xfr → Xfr) (g : Fld) : (s.onXfr f).flag g = s.flag g := rfl
@[simp] theorem onXfr_node (f : Xfr → Xfr) : (s.onXfr f).node = s.node := rfl
@[simp] theorem onXfr_tick (f : Xfr → Xfr) : (s.onXfr f).tick = s.tick := rfl
@[simp] theorem onXfr_tiles (f : Xfr → Xfr) : (s.onXfr f).tiles = s.tiles := rfl
@[simp] theorem onXfr_ports (f : Xfr → Xfr) : (s.onXfr f).ports = s.ports := rfl
@[simp] theorem onXfr_rd (f : Xfr → Xfr) (m : Mem) (a : Nat) : (s.onXfr f).rd m a = s.rd m a := by cases m <;> rfl

/-! ### onSyn -/

@[simp] theorem onSyn_small (f : Syn → Syn) : (s.onSyn f).small = s.small := rfl
@[simp] theorem onSyn_aon (f : Syn → Syn) : (s.onSyn f).aon = s.aon := rfl
@[simp] theorem onSyn_regs (f : Syn → Syn) : (s.onSyn f).regs = s.regs := rfl
@[simp] theorem onSyn_hbm (f : Syn → Syn) : (s.onSyn f).hbm = s.hbm := rfl
@[simp] theorem onSyn_tileBuf (f : Syn → Syn) : (s.onSyn f).tileBuf = s.tileBuf := rfl
@[simp] theorem onSyn_opBuf (f : Syn → Syn) : (s.onSyn f).opBuf = s.opBuf := rfl
@[simp] theorem onSyn_recBuf (f : Syn → Syn) : (s.onSyn f).recBuf = s.recBuf := rfl
@[simp] theorem onSyn_hbmPoison (f : Syn → Syn) : (s.onSyn f).hbmPoison = s.hbmPoison := rfl
@[simp] theorem onSyn_tilePoison (f : Syn → Syn) : (s.onSyn f).tilePoison = s.tilePoison := rfl
@[simp] theorem onSyn_opPoison (f : Syn → Syn) : (s.onSyn f).opPoison = s.opPoison := rfl
@[simp] theorem onSyn_rse (f : Syn → Syn) : (s.onSyn f).rse = s.rse := rfl
@[simp] theorem onSyn_pge (f : Syn → Syn) : (s.onSyn f).pge = s.pge := rfl
@[simp] theorem onSyn_mzt (f : Syn → Syn) : (s.onSyn f).mzt = s.mzt := rfl
@[simp] theorem onSyn_cores (f : Syn → Syn) : (s.onSyn f).cores = s.cores := rfl
@[simp] theorem onSyn_exp (f : Syn → Syn) : (s.onSyn f).exp = s.exp := rfl
@[simp] theorem onSyn_sch (f : Syn → Syn) : (s.onSyn f).sch = s.sch := rfl
@[simp] theorem onSyn_phs (f : Syn → Syn) : (s.onSyn f).phs = s.phs := rfl
@[simp] theorem onSyn_fab (f : Syn → Syn) : (s.onSyn f).fab = s.fab := rfl
@[simp] theorem onSyn_xfr (f : Syn → Syn) : (s.onSyn f).xfr = s.xfr := rfl
@[simp] theorem onSyn_syn (f : Syn → Syn) : (s.onSyn f).syn = f s.syn := rfl
@[simp] theorem onSyn_hcp (f : Syn → Syn) : (s.onSyn f).hcp = s.hcp := rfl
@[simp] theorem onSyn_bld (f : Syn → Syn) : (s.onSyn f).bld = s.bld := rfl
@[simp] theorem onSyn_sec (f : Syn → Syn) : (s.onSyn f).sec = s.sec := rfl
@[simp] theorem onSyn_pcr (f : Syn → Syn) : (s.onSyn f).pcr = s.pcr := rfl
@[simp] theorem onSyn_evt (f : Syn → Syn) : (s.onSyn f).evt = s.evt := rfl
@[simp] theorem onSyn_tap (f : Syn → Syn) : (s.onSyn f).tap = s.tap := rfl
@[simp] theorem onSyn_outbox (f : Syn → Syn) : (s.onSyn f).outbox = s.outbox := rfl
@[simp] theorem onSyn_fresh (f : Syn → Syn) : (s.onSyn f).fresh = s.fresh := rfl
@[simp] theorem onSyn_pending (f : Syn → Syn) : (s.onSyn f).pending = s.pending := rfl
@[simp] theorem onSyn_reg (f : Syn → Syn) (g : Fld) : (s.onSyn f).reg g = s.reg g := rfl
@[simp] theorem onSyn_flag (f : Syn → Syn) (g : Fld) : (s.onSyn f).flag g = s.flag g := rfl
@[simp] theorem onSyn_node (f : Syn → Syn) : (s.onSyn f).node = s.node := rfl
@[simp] theorem onSyn_tick (f : Syn → Syn) : (s.onSyn f).tick = s.tick := rfl
@[simp] theorem onSyn_tiles (f : Syn → Syn) : (s.onSyn f).tiles = s.tiles := rfl
@[simp] theorem onSyn_ports (f : Syn → Syn) : (s.onSyn f).ports = s.ports := rfl
@[simp] theorem onSyn_rd (f : Syn → Syn) (m : Mem) (a : Nat) : (s.onSyn f).rd m a = s.rd m a := by cases m <;> rfl

/-! ### onHcp -/

@[simp] theorem onHcp_small (f : Hcp → Hcp) : (s.onHcp f).small = s.small := rfl
@[simp] theorem onHcp_aon (f : Hcp → Hcp) : (s.onHcp f).aon = s.aon := rfl
@[simp] theorem onHcp_regs (f : Hcp → Hcp) : (s.onHcp f).regs = s.regs := rfl
@[simp] theorem onHcp_hbm (f : Hcp → Hcp) : (s.onHcp f).hbm = s.hbm := rfl
@[simp] theorem onHcp_tileBuf (f : Hcp → Hcp) : (s.onHcp f).tileBuf = s.tileBuf := rfl
@[simp] theorem onHcp_opBuf (f : Hcp → Hcp) : (s.onHcp f).opBuf = s.opBuf := rfl
@[simp] theorem onHcp_recBuf (f : Hcp → Hcp) : (s.onHcp f).recBuf = s.recBuf := rfl
@[simp] theorem onHcp_hbmPoison (f : Hcp → Hcp) : (s.onHcp f).hbmPoison = s.hbmPoison := rfl
@[simp] theorem onHcp_tilePoison (f : Hcp → Hcp) : (s.onHcp f).tilePoison = s.tilePoison := rfl
@[simp] theorem onHcp_opPoison (f : Hcp → Hcp) : (s.onHcp f).opPoison = s.opPoison := rfl
@[simp] theorem onHcp_rse (f : Hcp → Hcp) : (s.onHcp f).rse = s.rse := rfl
@[simp] theorem onHcp_pge (f : Hcp → Hcp) : (s.onHcp f).pge = s.pge := rfl
@[simp] theorem onHcp_mzt (f : Hcp → Hcp) : (s.onHcp f).mzt = s.mzt := rfl
@[simp] theorem onHcp_cores (f : Hcp → Hcp) : (s.onHcp f).cores = s.cores := rfl
@[simp] theorem onHcp_exp (f : Hcp → Hcp) : (s.onHcp f).exp = s.exp := rfl
@[simp] theorem onHcp_sch (f : Hcp → Hcp) : (s.onHcp f).sch = s.sch := rfl
@[simp] theorem onHcp_phs (f : Hcp → Hcp) : (s.onHcp f).phs = s.phs := rfl
@[simp] theorem onHcp_fab (f : Hcp → Hcp) : (s.onHcp f).fab = s.fab := rfl
@[simp] theorem onHcp_xfr (f : Hcp → Hcp) : (s.onHcp f).xfr = s.xfr := rfl
@[simp] theorem onHcp_syn (f : Hcp → Hcp) : (s.onHcp f).syn = s.syn := rfl
@[simp] theorem onHcp_hcp (f : Hcp → Hcp) : (s.onHcp f).hcp = f s.hcp := rfl
@[simp] theorem onHcp_bld (f : Hcp → Hcp) : (s.onHcp f).bld = s.bld := rfl
@[simp] theorem onHcp_sec (f : Hcp → Hcp) : (s.onHcp f).sec = s.sec := rfl
@[simp] theorem onHcp_pcr (f : Hcp → Hcp) : (s.onHcp f).pcr = s.pcr := rfl
@[simp] theorem onHcp_evt (f : Hcp → Hcp) : (s.onHcp f).evt = s.evt := rfl
@[simp] theorem onHcp_tap (f : Hcp → Hcp) : (s.onHcp f).tap = s.tap := rfl
@[simp] theorem onHcp_outbox (f : Hcp → Hcp) : (s.onHcp f).outbox = s.outbox := rfl
@[simp] theorem onHcp_fresh (f : Hcp → Hcp) : (s.onHcp f).fresh = s.fresh := rfl
@[simp] theorem onHcp_pending (f : Hcp → Hcp) : (s.onHcp f).pending = s.pending := rfl
@[simp] theorem onHcp_reg (f : Hcp → Hcp) (g : Fld) : (s.onHcp f).reg g = s.reg g := rfl
@[simp] theorem onHcp_flag (f : Hcp → Hcp) (g : Fld) : (s.onHcp f).flag g = s.flag g := rfl
@[simp] theorem onHcp_node (f : Hcp → Hcp) : (s.onHcp f).node = s.node := rfl
@[simp] theorem onHcp_tick (f : Hcp → Hcp) : (s.onHcp f).tick = s.tick := rfl
@[simp] theorem onHcp_tiles (f : Hcp → Hcp) : (s.onHcp f).tiles = s.tiles := rfl
@[simp] theorem onHcp_ports (f : Hcp → Hcp) : (s.onHcp f).ports = s.ports := rfl
@[simp] theorem onHcp_rd (f : Hcp → Hcp) (m : Mem) (a : Nat) : (s.onHcp f).rd m a = s.rd m a := by cases m <;> rfl

/-! ### onBld -/

@[simp] theorem onBld_small (f : Bld → Bld) : (s.onBld f).small = s.small := rfl
@[simp] theorem onBld_aon (f : Bld → Bld) : (s.onBld f).aon = s.aon := rfl
@[simp] theorem onBld_regs (f : Bld → Bld) : (s.onBld f).regs = s.regs := rfl
@[simp] theorem onBld_hbm (f : Bld → Bld) : (s.onBld f).hbm = s.hbm := rfl
@[simp] theorem onBld_tileBuf (f : Bld → Bld) : (s.onBld f).tileBuf = s.tileBuf := rfl
@[simp] theorem onBld_opBuf (f : Bld → Bld) : (s.onBld f).opBuf = s.opBuf := rfl
@[simp] theorem onBld_recBuf (f : Bld → Bld) : (s.onBld f).recBuf = s.recBuf := rfl
@[simp] theorem onBld_hbmPoison (f : Bld → Bld) : (s.onBld f).hbmPoison = s.hbmPoison := rfl
@[simp] theorem onBld_tilePoison (f : Bld → Bld) : (s.onBld f).tilePoison = s.tilePoison := rfl
@[simp] theorem onBld_opPoison (f : Bld → Bld) : (s.onBld f).opPoison = s.opPoison := rfl
@[simp] theorem onBld_rse (f : Bld → Bld) : (s.onBld f).rse = s.rse := rfl
@[simp] theorem onBld_pge (f : Bld → Bld) : (s.onBld f).pge = s.pge := rfl
@[simp] theorem onBld_mzt (f : Bld → Bld) : (s.onBld f).mzt = s.mzt := rfl
@[simp] theorem onBld_cores (f : Bld → Bld) : (s.onBld f).cores = s.cores := rfl
@[simp] theorem onBld_exp (f : Bld → Bld) : (s.onBld f).exp = s.exp := rfl
@[simp] theorem onBld_sch (f : Bld → Bld) : (s.onBld f).sch = s.sch := rfl
@[simp] theorem onBld_phs (f : Bld → Bld) : (s.onBld f).phs = s.phs := rfl
@[simp] theorem onBld_fab (f : Bld → Bld) : (s.onBld f).fab = s.fab := rfl
@[simp] theorem onBld_xfr (f : Bld → Bld) : (s.onBld f).xfr = s.xfr := rfl
@[simp] theorem onBld_syn (f : Bld → Bld) : (s.onBld f).syn = s.syn := rfl
@[simp] theorem onBld_hcp (f : Bld → Bld) : (s.onBld f).hcp = s.hcp := rfl
@[simp] theorem onBld_bld (f : Bld → Bld) : (s.onBld f).bld = f s.bld := rfl
@[simp] theorem onBld_sec (f : Bld → Bld) : (s.onBld f).sec = s.sec := rfl
@[simp] theorem onBld_pcr (f : Bld → Bld) : (s.onBld f).pcr = s.pcr := rfl
@[simp] theorem onBld_evt (f : Bld → Bld) : (s.onBld f).evt = s.evt := rfl
@[simp] theorem onBld_tap (f : Bld → Bld) : (s.onBld f).tap = s.tap := rfl
@[simp] theorem onBld_outbox (f : Bld → Bld) : (s.onBld f).outbox = s.outbox := rfl
@[simp] theorem onBld_fresh (f : Bld → Bld) : (s.onBld f).fresh = s.fresh := rfl
@[simp] theorem onBld_pending (f : Bld → Bld) : (s.onBld f).pending = s.pending := rfl
@[simp] theorem onBld_reg (f : Bld → Bld) (g : Fld) : (s.onBld f).reg g = s.reg g := rfl
@[simp] theorem onBld_flag (f : Bld → Bld) (g : Fld) : (s.onBld f).flag g = s.flag g := rfl
@[simp] theorem onBld_node (f : Bld → Bld) : (s.onBld f).node = s.node := rfl
@[simp] theorem onBld_tick (f : Bld → Bld) : (s.onBld f).tick = s.tick := rfl
@[simp] theorem onBld_tiles (f : Bld → Bld) : (s.onBld f).tiles = s.tiles := rfl
@[simp] theorem onBld_ports (f : Bld → Bld) : (s.onBld f).ports = s.ports := rfl
@[simp] theorem onBld_rd (f : Bld → Bld) (m : Mem) (a : Nat) : (s.onBld f).rd m a = s.rd m a := by cases m <;> rfl

/-! ### onSec -/

@[simp] theorem onSec_small (f : Sec → Sec) : (s.onSec f).small = s.small := rfl
@[simp] theorem onSec_aon (f : Sec → Sec) : (s.onSec f).aon = s.aon := rfl
@[simp] theorem onSec_regs (f : Sec → Sec) : (s.onSec f).regs = s.regs := rfl
@[simp] theorem onSec_hbm (f : Sec → Sec) : (s.onSec f).hbm = s.hbm := rfl
@[simp] theorem onSec_tileBuf (f : Sec → Sec) : (s.onSec f).tileBuf = s.tileBuf := rfl
@[simp] theorem onSec_opBuf (f : Sec → Sec) : (s.onSec f).opBuf = s.opBuf := rfl
@[simp] theorem onSec_recBuf (f : Sec → Sec) : (s.onSec f).recBuf = s.recBuf := rfl
@[simp] theorem onSec_hbmPoison (f : Sec → Sec) : (s.onSec f).hbmPoison = s.hbmPoison := rfl
@[simp] theorem onSec_tilePoison (f : Sec → Sec) : (s.onSec f).tilePoison = s.tilePoison := rfl
@[simp] theorem onSec_opPoison (f : Sec → Sec) : (s.onSec f).opPoison = s.opPoison := rfl
@[simp] theorem onSec_rse (f : Sec → Sec) : (s.onSec f).rse = s.rse := rfl
@[simp] theorem onSec_pge (f : Sec → Sec) : (s.onSec f).pge = s.pge := rfl
@[simp] theorem onSec_mzt (f : Sec → Sec) : (s.onSec f).mzt = s.mzt := rfl
@[simp] theorem onSec_cores (f : Sec → Sec) : (s.onSec f).cores = s.cores := rfl
@[simp] theorem onSec_exp (f : Sec → Sec) : (s.onSec f).exp = s.exp := rfl
@[simp] theorem onSec_sch (f : Sec → Sec) : (s.onSec f).sch = s.sch := rfl
@[simp] theorem onSec_phs (f : Sec → Sec) : (s.onSec f).phs = s.phs := rfl
@[simp] theorem onSec_fab (f : Sec → Sec) : (s.onSec f).fab = s.fab := rfl
@[simp] theorem onSec_xfr (f : Sec → Sec) : (s.onSec f).xfr = s.xfr := rfl
@[simp] theorem onSec_syn (f : Sec → Sec) : (s.onSec f).syn = s.syn := rfl
@[simp] theorem onSec_hcp (f : Sec → Sec) : (s.onSec f).hcp = s.hcp := rfl
@[simp] theorem onSec_bld (f : Sec → Sec) : (s.onSec f).bld = s.bld := rfl
@[simp] theorem onSec_sec (f : Sec → Sec) : (s.onSec f).sec = f s.sec := rfl
@[simp] theorem onSec_pcr (f : Sec → Sec) : (s.onSec f).pcr = s.pcr := rfl
@[simp] theorem onSec_evt (f : Sec → Sec) : (s.onSec f).evt = s.evt := rfl
@[simp] theorem onSec_tap (f : Sec → Sec) : (s.onSec f).tap = s.tap := rfl
@[simp] theorem onSec_outbox (f : Sec → Sec) : (s.onSec f).outbox = s.outbox := rfl
@[simp] theorem onSec_fresh (f : Sec → Sec) : (s.onSec f).fresh = s.fresh := rfl
@[simp] theorem onSec_pending (f : Sec → Sec) : (s.onSec f).pending = s.pending := rfl
@[simp] theorem onSec_reg (f : Sec → Sec) (g : Fld) : (s.onSec f).reg g = s.reg g := rfl
@[simp] theorem onSec_flag (f : Sec → Sec) (g : Fld) : (s.onSec f).flag g = s.flag g := rfl
@[simp] theorem onSec_node (f : Sec → Sec) : (s.onSec f).node = s.node := rfl
@[simp] theorem onSec_tick (f : Sec → Sec) : (s.onSec f).tick = s.tick := rfl
@[simp] theorem onSec_tiles (f : Sec → Sec) : (s.onSec f).tiles = s.tiles := rfl
@[simp] theorem onSec_ports (f : Sec → Sec) : (s.onSec f).ports = s.ports := rfl
@[simp] theorem onSec_rd (f : Sec → Sec) (m : Mem) (a : Nat) : (s.onSec f).rd m a = s.rd m a := by cases m <;> rfl

/-! ### onPcr -/

@[simp] theorem onPcr_small (f : Pcr → Pcr) : (s.onPcr f).small = s.small := rfl
@[simp] theorem onPcr_aon (f : Pcr → Pcr) : (s.onPcr f).aon = s.aon := rfl
@[simp] theorem onPcr_regs (f : Pcr → Pcr) : (s.onPcr f).regs = s.regs := rfl
@[simp] theorem onPcr_hbm (f : Pcr → Pcr) : (s.onPcr f).hbm = s.hbm := rfl
@[simp] theorem onPcr_tileBuf (f : Pcr → Pcr) : (s.onPcr f).tileBuf = s.tileBuf := rfl
@[simp] theorem onPcr_opBuf (f : Pcr → Pcr) : (s.onPcr f).opBuf = s.opBuf := rfl
@[simp] theorem onPcr_recBuf (f : Pcr → Pcr) : (s.onPcr f).recBuf = s.recBuf := rfl
@[simp] theorem onPcr_hbmPoison (f : Pcr → Pcr) : (s.onPcr f).hbmPoison = s.hbmPoison := rfl
@[simp] theorem onPcr_tilePoison (f : Pcr → Pcr) : (s.onPcr f).tilePoison = s.tilePoison := rfl
@[simp] theorem onPcr_opPoison (f : Pcr → Pcr) : (s.onPcr f).opPoison = s.opPoison := rfl
@[simp] theorem onPcr_rse (f : Pcr → Pcr) : (s.onPcr f).rse = s.rse := rfl
@[simp] theorem onPcr_pge (f : Pcr → Pcr) : (s.onPcr f).pge = s.pge := rfl
@[simp] theorem onPcr_mzt (f : Pcr → Pcr) : (s.onPcr f).mzt = s.mzt := rfl
@[simp] theorem onPcr_cores (f : Pcr → Pcr) : (s.onPcr f).cores = s.cores := rfl
@[simp] theorem onPcr_exp (f : Pcr → Pcr) : (s.onPcr f).exp = s.exp := rfl
@[simp] theorem onPcr_sch (f : Pcr → Pcr) : (s.onPcr f).sch = s.sch := rfl
@[simp] theorem onPcr_phs (f : Pcr → Pcr) : (s.onPcr f).phs = s.phs := rfl
@[simp] theorem onPcr_fab (f : Pcr → Pcr) : (s.onPcr f).fab = s.fab := rfl
@[simp] theorem onPcr_xfr (f : Pcr → Pcr) : (s.onPcr f).xfr = s.xfr := rfl
@[simp] theorem onPcr_syn (f : Pcr → Pcr) : (s.onPcr f).syn = s.syn := rfl
@[simp] theorem onPcr_hcp (f : Pcr → Pcr) : (s.onPcr f).hcp = s.hcp := rfl
@[simp] theorem onPcr_bld (f : Pcr → Pcr) : (s.onPcr f).bld = s.bld := rfl
@[simp] theorem onPcr_sec (f : Pcr → Pcr) : (s.onPcr f).sec = s.sec := rfl
@[simp] theorem onPcr_pcr (f : Pcr → Pcr) : (s.onPcr f).pcr = f s.pcr := rfl
@[simp] theorem onPcr_evt (f : Pcr → Pcr) : (s.onPcr f).evt = s.evt := rfl
@[simp] theorem onPcr_tap (f : Pcr → Pcr) : (s.onPcr f).tap = s.tap := rfl
@[simp] theorem onPcr_outbox (f : Pcr → Pcr) : (s.onPcr f).outbox = s.outbox := rfl
@[simp] theorem onPcr_fresh (f : Pcr → Pcr) : (s.onPcr f).fresh = s.fresh := rfl
@[simp] theorem onPcr_pending (f : Pcr → Pcr) : (s.onPcr f).pending = s.pending := rfl
@[simp] theorem onPcr_reg (f : Pcr → Pcr) (g : Fld) : (s.onPcr f).reg g = s.reg g := rfl
@[simp] theorem onPcr_flag (f : Pcr → Pcr) (g : Fld) : (s.onPcr f).flag g = s.flag g := rfl
@[simp] theorem onPcr_node (f : Pcr → Pcr) : (s.onPcr f).node = s.node := rfl
@[simp] theorem onPcr_tick (f : Pcr → Pcr) : (s.onPcr f).tick = s.tick := rfl
@[simp] theorem onPcr_tiles (f : Pcr → Pcr) : (s.onPcr f).tiles = s.tiles := rfl
@[simp] theorem onPcr_ports (f : Pcr → Pcr) : (s.onPcr f).ports = s.ports := rfl
@[simp] theorem onPcr_rd (f : Pcr → Pcr) (m : Mem) (a : Nat) : (s.onPcr f).rd m a = s.rd m a := by cases m <;> rfl

/-! ### onEvt -/

@[simp] theorem onEvt_small (f : Evt → Evt) : (s.onEvt f).small = s.small := rfl
@[simp] theorem onEvt_aon (f : Evt → Evt) : (s.onEvt f).aon = s.aon := rfl
@[simp] theorem onEvt_regs (f : Evt → Evt) : (s.onEvt f).regs = s.regs := rfl
@[simp] theorem onEvt_hbm (f : Evt → Evt) : (s.onEvt f).hbm = s.hbm := rfl
@[simp] theorem onEvt_tileBuf (f : Evt → Evt) : (s.onEvt f).tileBuf = s.tileBuf := rfl
@[simp] theorem onEvt_opBuf (f : Evt → Evt) : (s.onEvt f).opBuf = s.opBuf := rfl
@[simp] theorem onEvt_recBuf (f : Evt → Evt) : (s.onEvt f).recBuf = s.recBuf := rfl
@[simp] theorem onEvt_hbmPoison (f : Evt → Evt) : (s.onEvt f).hbmPoison = s.hbmPoison := rfl
@[simp] theorem onEvt_tilePoison (f : Evt → Evt) : (s.onEvt f).tilePoison = s.tilePoison := rfl
@[simp] theorem onEvt_opPoison (f : Evt → Evt) : (s.onEvt f).opPoison = s.opPoison := rfl
@[simp] theorem onEvt_rse (f : Evt → Evt) : (s.onEvt f).rse = s.rse := rfl
@[simp] theorem onEvt_pge (f : Evt → Evt) : (s.onEvt f).pge = s.pge := rfl
@[simp] theorem onEvt_mzt (f : Evt → Evt) : (s.onEvt f).mzt = s.mzt := rfl
@[simp] theorem onEvt_cores (f : Evt → Evt) : (s.onEvt f).cores = s.cores := rfl
@[simp] theorem onEvt_exp (f : Evt → Evt) : (s.onEvt f).exp = s.exp := rfl
@[simp] theorem onEvt_sch (f : Evt → Evt) : (s.onEvt f).sch = s.sch := rfl
@[simp] theorem onEvt_phs (f : Evt → Evt) : (s.onEvt f).phs = s.phs := rfl
@[simp] theorem onEvt_fab (f : Evt → Evt) : (s.onEvt f).fab = s.fab := rfl
@[simp] theorem onEvt_xfr (f : Evt → Evt) : (s.onEvt f).xfr = s.xfr := rfl
@[simp] theorem onEvt_syn (f : Evt → Evt) : (s.onEvt f).syn = s.syn := rfl
@[simp] theorem onEvt_hcp (f : Evt → Evt) : (s.onEvt f).hcp = s.hcp := rfl
@[simp] theorem onEvt_bld (f : Evt → Evt) : (s.onEvt f).bld = s.bld := rfl
@[simp] theorem onEvt_sec (f : Evt → Evt) : (s.onEvt f).sec = s.sec := rfl
@[simp] theorem onEvt_pcr (f : Evt → Evt) : (s.onEvt f).pcr = s.pcr := rfl
@[simp] theorem onEvt_evt (f : Evt → Evt) : (s.onEvt f).evt = f s.evt := rfl
@[simp] theorem onEvt_tap (f : Evt → Evt) : (s.onEvt f).tap = s.tap := rfl
@[simp] theorem onEvt_outbox (f : Evt → Evt) : (s.onEvt f).outbox = s.outbox := rfl
@[simp] theorem onEvt_fresh (f : Evt → Evt) : (s.onEvt f).fresh = s.fresh := rfl
@[simp] theorem onEvt_pending (f : Evt → Evt) : (s.onEvt f).pending = s.pending := rfl
@[simp] theorem onEvt_reg (f : Evt → Evt) (g : Fld) : (s.onEvt f).reg g = s.reg g := rfl
@[simp] theorem onEvt_flag (f : Evt → Evt) (g : Fld) : (s.onEvt f).flag g = s.flag g := rfl
@[simp] theorem onEvt_node (f : Evt → Evt) : (s.onEvt f).node = s.node := rfl
@[simp] theorem onEvt_tick (f : Evt → Evt) : (s.onEvt f).tick = s.tick := rfl
@[simp] theorem onEvt_tiles (f : Evt → Evt) : (s.onEvt f).tiles = s.tiles := rfl
@[simp] theorem onEvt_ports (f : Evt → Evt) : (s.onEvt f).ports = s.ports := rfl
@[simp] theorem onEvt_rd (f : Evt → Evt) (m : Mem) (a : Nat) : (s.onEvt f).rd m a = s.rd m a := by cases m <;> rfl

/-! ### setReg, emit -/

@[simp] theorem setReg_small (g : Fld) (v : Nat) : (s.setReg g v).small = s.small := rfl
@[simp] theorem emit_small (o : Out) : (s.emit o).small = s.small := rfl
@[simp] theorem setReg_aon (g : Fld) (v : Nat) : (s.setReg g v).aon = s.aon := rfl
@[simp] theorem emit_aon (o : Out) : (s.emit o).aon = s.aon := rfl
@[simp] theorem emit_regs (o : Out) : (s.emit o).regs = s.regs := rfl
@[simp] theorem setReg_hbm (g : Fld) (v : Nat) : (s.setReg g v).hbm = s.hbm := rfl
@[simp] theorem emit_hbm (o : Out) : (s.emit o).hbm = s.hbm := rfl
@[simp] theorem setReg_tileBuf (g : Fld) (v : Nat) : (s.setReg g v).tileBuf = s.tileBuf := rfl
@[simp] theorem emit_tileBuf (o : Out) : (s.emit o).tileBuf = s.tileBuf := rfl
@[simp] theorem setReg_opBuf (g : Fld) (v : Nat) : (s.setReg g v).opBuf = s.opBuf := rfl
@[simp] theorem emit_opBuf (o : Out) : (s.emit o).opBuf = s.opBuf := rfl
@[simp] theorem setReg_recBuf (g : Fld) (v : Nat) : (s.setReg g v).recBuf = s.recBuf := rfl
@[simp] theorem emit_recBuf (o : Out) : (s.emit o).recBuf = s.recBuf := rfl
@[simp] theorem setReg_hbmPoison (g : Fld) (v : Nat) : (s.setReg g v).hbmPoison = s.hbmPoison := rfl
@[simp] theorem emit_hbmPoison (o : Out) : (s.emit o).hbmPoison = s.hbmPoison := rfl
@[simp] theorem setReg_tilePoison (g : Fld) (v : Nat) : (s.setReg g v).tilePoison = s.tilePoison := rfl
@[simp] theorem emit_tilePoison (o : Out) : (s.emit o).tilePoison = s.tilePoison := rfl
@[simp] theorem setReg_opPoison (g : Fld) (v : Nat) : (s.setReg g v).opPoison = s.opPoison := rfl
@[simp] theorem emit_opPoison (o : Out) : (s.emit o).opPoison = s.opPoison := rfl
@[simp] theorem setReg_rse (g : Fld) (v : Nat) : (s.setReg g v).rse = s.rse := rfl
@[simp] theorem emit_rse (o : Out) : (s.emit o).rse = s.rse := rfl
@[simp] theorem setReg_pge (g : Fld) (v : Nat) : (s.setReg g v).pge = s.pge := rfl
@[simp] theorem emit_pge (o : Out) : (s.emit o).pge = s.pge := rfl
@[simp] theorem setReg_mzt (g : Fld) (v : Nat) : (s.setReg g v).mzt = s.mzt := rfl
@[simp] theorem emit_mzt (o : Out) : (s.emit o).mzt = s.mzt := rfl
@[simp] theorem setReg_cores (g : Fld) (v : Nat) : (s.setReg g v).cores = s.cores := rfl
@[simp] theorem emit_cores (o : Out) : (s.emit o).cores = s.cores := rfl
@[simp] theorem setReg_exp (g : Fld) (v : Nat) : (s.setReg g v).exp = s.exp := rfl
@[simp] theorem emit_exp (o : Out) : (s.emit o).exp = s.exp := rfl
@[simp] theorem setReg_sch (g : Fld) (v : Nat) : (s.setReg g v).sch = s.sch := rfl
@[simp] theorem emit_sch (o : Out) : (s.emit o).sch = s.sch := rfl
@[simp] theorem setReg_phs (g : Fld) (v : Nat) : (s.setReg g v).phs = s.phs := rfl
@[simp] theorem emit_phs (o : Out) : (s.emit o).phs = s.phs := rfl
@[simp] theorem setReg_fab (g : Fld) (v : Nat) : (s.setReg g v).fab = s.fab := rfl
@[simp] theorem emit_fab (o : Out) : (s.emit o).fab = s.fab := rfl
@[simp] theorem setReg_xfr (g : Fld) (v : Nat) : (s.setReg g v).xfr = s.xfr := rfl
@[simp] theorem emit_xfr (o : Out) : (s.emit o).xfr = s.xfr := rfl
@[simp] theorem setReg_syn (g : Fld) (v : Nat) : (s.setReg g v).syn = s.syn := rfl
@[simp] theorem emit_syn (o : Out) : (s.emit o).syn = s.syn := rfl
@[simp] theorem setReg_hcp (g : Fld) (v : Nat) : (s.setReg g v).hcp = s.hcp := rfl
@[simp] theorem emit_hcp (o : Out) : (s.emit o).hcp = s.hcp := rfl
@[simp] theorem setReg_bld (g : Fld) (v : Nat) : (s.setReg g v).bld = s.bld := rfl
@[simp] theorem emit_bld (o : Out) : (s.emit o).bld = s.bld := rfl
@[simp] theorem setReg_sec (g : Fld) (v : Nat) : (s.setReg g v).sec = s.sec := rfl
@[simp] theorem emit_sec (o : Out) : (s.emit o).sec = s.sec := rfl
@[simp] theorem setReg_pcr (g : Fld) (v : Nat) : (s.setReg g v).pcr = s.pcr := rfl
@[simp] theorem emit_pcr (o : Out) : (s.emit o).pcr = s.pcr := rfl
@[simp] theorem setReg_evt (g : Fld) (v : Nat) : (s.setReg g v).evt = s.evt := rfl
@[simp] theorem emit_evt (o : Out) : (s.emit o).evt = s.evt := rfl
@[simp] theorem setReg_tap (g : Fld) (v : Nat) : (s.setReg g v).tap = s.tap := rfl
@[simp] theorem emit_tap (o : Out) : (s.emit o).tap = s.tap := rfl
@[simp] theorem setReg_outbox (g : Fld) (v : Nat) : (s.setReg g v).outbox = s.outbox := rfl
@[simp] theorem emit_outbox (o : Out) : (s.emit o).outbox = o :: s.outbox := rfl
@[simp] theorem setReg_fresh (g : Fld) (v : Nat) : (s.setReg g v).fresh = s.fresh := rfl
@[simp] theorem emit_fresh (o : Out) : (s.emit o).fresh = s.fresh := rfl
@[simp] theorem setReg_pending (g : Fld) (v : Nat) : (s.setReg g v).pending = s.pending := rfl
@[simp] theorem emit_pending (o : Out) : (s.emit o).pending = s.pending := rfl
@[simp] theorem emit_reg (o : Out) (g : Fld) : (s.emit o).reg g = s.reg g := rfl
@[simp] theorem setReg_tick (g : Fld) (v : Nat) : (s.setReg g v).tick = s.tick := rfl
@[simp] theorem setReg_rd (g : Fld) (v : Nat) (m : Mem) (a : Nat) : (s.setReg g v).rd m a = s.rd m a := by cases m <;> rfl

end Sys2Proof.Machine
end

