-- ==== Sys2Proof/Laws/Kept.lean ====
section
/-! SUPPORT. What every operation of the machine keeps: the queue of commands, the variant, the AON count, the canonical
form of registers and memories, and every part of the state it does not touch. One lemma per operation says so, here and in
the Kept files beside this one. -/

namespace Sys2Proof.Machine

/-- `t` has the queue, the variant and the AON count of `s₀`, is canonical where `s₀` is, and has every part `κ` names as
in `s₀`. -/
def Kept (κ : Part → Bool) (s₀ t : State) : Prop :=
  t.pending = s₀.pending ∧ t.small = s₀.small ∧ t.aon = s₀.aon ∧ (s₀.canonical → t.canonical)
    ∧ ∀ p, κ p = true → p.same s₀ t

/-- None of the listed parts is named. -/
def Off (κ : Part → Bool) (l : List Part) : Prop := ∀ p ∈ l, κ p = false

/-- A state as the state it is. -/
abbrev itself (s : State) : State := s

/-- Every next state among an outcome is kept. -/
def OutKept (κ : Part → Bool) (s₀ : State) (o : Host.Outcome State Fault Refusal) : Prop := ∀ t, o = .next t → Kept κ s₀ t

/-- The state of an option, where there is one, is kept. -/
def OptKept {α : Type} (κ : Part → Bool) (s₀ : State) (f : α → State) (o : Option α) : Prop := ∀ t, o = some t → Kept κ s₀ (f t)

/-- The state of either side is kept. -/
def ExcKept {ε α : Type} (κ : Part → Bool) (s₀ : State) (f : ε → State) (g : α → State) (o : Except ε α) : Prop :=
  (∀ t, o = .error t → Kept κ s₀ (f t)) ∧ ∀ t, o = .ok t → Kept κ s₀ (g t)

/-- The state of an error is kept. -/
def ErrKept {α : Type} (κ : Part → Bool) (s₀ : State) (o : Except State α) : Prop := ∀ t, o = .error t → Kept κ s₀ t

variable {κ : Part → Bool} {s₀ s t u : State}

theorem Off.sub {l l' : List Part} (h : Off κ l) (hs : l' ⊆ l) : Off κ l' := fun p hp => h p (hs hp)

theorem Off.not {l : List Part} {p : Part} (h : Off κ l) (hp : κ p = true) (hm : p ∈ l) : False := by
  simp [h p hm] at hp

@[simp] theorem Part.same_refl (p : Part) (s : State) : p.same s s := by cases p <;> rfl

theorem Part.same_trans {p : Part} (h : p.same s t) (h' : p.same t u) : p.same s u := by
  cases p <;> exact Eq.trans h' h

theorem Kept.refl (s : State) : Kept κ s s := ⟨rfl, rfl, rfl, id, fun p _ => p.same_refl s⟩

theorem Kept.same (h : Kept κ s₀ s) {p : Part} (hp : κ p = true) : p.same s₀ s := h.2.2.2.2 p hp

theorem Kept.of_eq (h : Kept κ s₀ s) (h1 : t.pending = s.pending) (h2 : t.small = s.small) (h3 : t.aon = s.aon)
    (h4 : t.regs = s.regs) (h5 : t.hbm = s.hbm) (h6 : t.tileBuf = s.tileBuf) (h7 : t.opBuf = s.opBuf)
    (h8 : t.recBuf = s.recBuf) (hp : ∀ p, κ p = true → p.same s t) : Kept κ s₀ t := by
  refine ⟨h1.trans h.1, h2.trans h.2.1, h3.trans h.2.2.1, fun hc => ?_, fun p hκ => Part.same_trans (h.same hκ) (hp p hκ)⟩
  have := h.2.2.2.1 hc
  simpa only [State.canonical, h4, h5, h6, h7, h8] using this

theorem OutKept.next (h : Kept κ s₀ t) : OutKept κ s₀ (.next t) := by
  intro u hu
  cases hu
  exact h

theorem OptKept.none {α : Type} {f : α → State} : OptKept κ s₀ f .none := by simp [OptKept]

theorem OptKept.some {α : Type} {f : α → State} {x : α} (h : Kept κ s₀ (f x)) : OptKept κ s₀ f (.some x) := by
  simpa [OptKept] using h

theorem OptKept.get {α : Type} {f : α → State} {o : Option α} {x : α} (h : OptKept κ s₀ f o) (hx : o = .some x) :
    Kept κ s₀ (f x) := h x hx

theorem OptKept.get_id {o : Option State} {u : State} (h : OptKept κ s₀ itself o) (hx : o = .some u) : Kept κ s₀ u := h u hx

theorem OptKept.get_snd {α : Type} {o : Option (α × State)} {a : α} {u : State} (h : OptKept κ s₀ Prod.snd o)
    (hx : o = .some (a, u)) : Kept κ s₀ u := h _ hx

theorem Kept.of_snd {α : Type} {p : α × State} {a : α} {u : State} (h : Kept κ s₀ p.2) (hx : p = (a, u)) : Kept κ s₀ u := by
  subst hx
  exact h

theorem Kept.of_fst {α : Type} {p : State × α} {a : α} {u : State} (h : Kept κ s₀ p.1) (hx : p = (u, a)) : Kept κ s₀ u := by
  subst hx
  exact h

theorem Kept.of_third {α β : Type} {p : α × β × State} {a : α} {b : β} {u : State} (h : Kept κ s₀ p.2.2)
    (hx : p = (a, b, u)) : Kept κ s₀ u := by
  subst hx
  exact h

theorem OptKept.getD {f : State → State} {o : Option State} (h : OptKept κ s₀ f o) (hs : Kept κ s₀ (f s)) :
    Kept κ s₀ (f (o.getD s)) := by
  cases o with
  | none => exact hs
  | some x => exact h x rfl

theorem OptKept.bind {α β : Type} {f : α → State} {o : Option β} {g : β → Option α} (h : ∀ x, o = .some x → OptKept κ s₀ f (g x)) :
    OptKept κ s₀ f (o.bind g) := by
  cases o with
  | none => exact OptKept.none
  | some x => exact h x rfl

theorem OptKept.map {α β : Type} {f : α → State} {o : Option β} {g : β → α} (h : ∀ x, o = .some x → Kept κ s₀ (f (g x))) :
    OptKept κ s₀ f (o.map g) := by
  cases o with
  | none => exact OptKept.none
  | some x => exact OptKept.some (h x rfl)

theorem ExcKept.error {ε α : Type} {f : ε → State} {g : α → State} {x : ε} (h : Kept κ s₀ (f x)) :
    ExcKept κ s₀ f g (.error x) := by
  constructor
  · intro t ht
    cases ht
    exact h
  · intro t ht
    cases ht

theorem ExcKept.ok {ε α : Type} {f : ε → State} {g : α → State} {x : α} (h : Kept κ s₀ (g x)) :
    ExcKept κ s₀ f g (.ok x) := by
  constructor
  · intro t ht
    cases ht
  · intro t ht
    cases ht
    exact h

theorem ExcKept.get_error {ε α : Type} {f : ε → State} {g : α → State} {o : Except ε α} {x : ε} (h : ExcKept κ s₀ f g o)
    (hx : o = .error x) : Kept κ s₀ (f x) := h.1 x hx

theorem ExcKept.get_ok {ε α : Type} {f : ε → State} {g : α → State} {o : Except ε α} {x : α} (h : ExcKept κ s₀ f g o)
    (hx : o = .ok x) : Kept κ s₀ (g x) := h.2 x hx

theorem ErrKept.error {α : Type} {u : State} (h : Kept κ s₀ u) : ErrKept κ s₀ (.error u : Except State α) := by
  intro t ht
  cases ht
  exact h

theorem ErrKept.ok {α : Type} {x : α} : ErrKept κ s₀ (.ok x : Except State α) := by
  intro t ht
  cases ht

theorem ErrKept.get {α : Type} {o : Except State α} {u : State} (h : ErrKept κ s₀ o) (hx : o = .error u) : Kept κ s₀ u := h u hx

theorem kept_foldl {α : Type} (f : State → α → State) (l : List α) (hs : Kept κ s₀ s)
    (hf : ∀ u x, Kept κ s₀ u → Kept κ s₀ (f u x)) : Kept κ s₀ (l.foldl f s) := by
  induction l generalizing s with
  | nil => exact hs
  | cons x l ih => exact ih (hf s x hs)

theorem kept_foldl_on {α β : Type} (g : β → State) (f : β → α → β) (l : List α) (b : β) (hs : Kept κ s₀ (g b))
    (hf : ∀ u x, Kept κ s₀ (g u) → Kept κ s₀ (g (f u x))) : Kept κ s₀ (g (l.foldl f b)) := by
  induction l generalizing b with
  | nil => exact hs
  | cons x l ih => exact ih _ (hf b x hs)

theorem kept_foldr {α : Type} (f : α → State → State) (l : List α) (hs : Kept κ s₀ s)
    (hf : ∀ u x, Kept κ s₀ u → Kept κ s₀ (f x u)) : Kept κ s₀ (l.foldr f s) := by
  induction l with
  | nil => exact hs
  | cons x l ih => exact hf _ x ih

/-- The first state a list yields is kept, where each that it may yield is. -/
theorem OptKept.findSome {α β : Type} {f : β → State} {g : α → Option β} (l : List α) (h : ∀ a, OptKept κ s₀ f (g a)) :
    OptKept κ s₀ f (l.findSome? g) := fun t ht =>
  let ⟨a, _, ha⟩ := List.exists_of_findSome?_eq_some ht
  h a t ha

/-! ### The primitive updates -/

/-- An update of registers and memories that leaves each canonical keeps the state. -/
theorem Kept.of_cells (h : Kept κ s₀ s) (h1 : t.pending = s.pending) (h2 : t.small = s.small) (h3 : t.aon = s.aon)
    (h4 : t.regs.Sublist s.regs) (h5 : t.hbm.Sublist s.hbm) (h6 : t.tileBuf.Sublist s.tileBuf)
    (h7 : t.opBuf.Sublist s.opBuf) (h8 : t.recBuf.Sublist s.recBuf) (hp : ∀ p, κ p = true → p.same s t) :
    Kept κ s₀ t := by
  refine ⟨h1.trans h.1, h2.trans h.2.1, h3.trans h.2.2.1, fun hc => ?_, fun p hκ => Part.same_trans (h.same hκ) (hp p hκ)⟩
  obtain ⟨c1, c2, c3, c4, c5⟩ := h.2.2.2.1 hc
  exact ⟨keysRise_sublist h4 c1, Memory.wf_sublist h5 c2, Memory.wf_sublist h6 c3, Memory.wf_sublist h7 c4,
    Memory.wf_sublist h8 c5⟩

theorem kept_setReg (h : Kept κ s₀ s) (hκ : Off κ [.regs]) (f : Fld) (v : Nat) : Kept κ s₀ (s.setReg f v) := by
  refine ⟨h.1, h.2.1, h.2.2.1, fun hc => ⟨keysRise_assign _ _ _ _ (h.2.2.2.1 hc).1, (h.2.2.2.1 hc).2⟩, fun p hp => ?_⟩
  have hs := h.same hp
  cases p <;> first | exact hs | exact (hκ.not hp (by decide)).elim

theorem kept_setCells (h : Kept κ s₀ s) (hκ : Off κ [.mem]) (m : Mem) (c : List Host.Cell)
    (hc : Memory.wf (s.cells m) = true → Memory.wf c = true) : Kept κ s₀ (s.setCells m c) := by
  refine ⟨?_, ?_, ?_, fun h0 => ?_, fun p hp => ?_⟩
  · cases m <;> exact h.1
  · cases m <;> exact h.2.1
  · cases m <;> exact h.2.2.1
  · have h' := h.2.2.2.1 h0
    cases m <;>
      (simp only [State.canonical, State.cells, State.setCells] at *
       simp_all)
  · have hs := h.same hp
    cases p <;> first | exact (hκ.not hp (by decide)).elim | (cases m <;> exact hs)

theorem kept_setPoisons (h : Kept κ s₀ s) (hκ : Off κ [.mem]) (m : Mem) (p : List Poison) :
    Kept κ s₀ (s.setPoisons m p) := by
  have hp : ∀ q : Part, κ q = true → q.same s (s.setPoisons m p) := by
    intro q hq
    cases q <;> first | exact (hκ.not hq (by decide)).elim | (cases m <;> rfl)
  cases m <;> exact Kept.of_eq h rfl rfl rfl rfl rfl rfl rfl rfl hp

theorem kept_wr (h : Kept κ s₀ s) (hκ : Off κ [.mem]) (m : Mem) (a : Nat) (bs : List Byte) : Kept κ s₀ (s.wr m a bs) :=
  kept_setPoisons (kept_setCells h hκ m _ (Memory.wf_writeCells bs _ a)) hκ m _

theorem kept_poison (h : Kept κ s₀ s) (hκ : Off κ [.mem]) (m : Mem) (a n : Nat) (st : St) :
    Kept κ s₀ (s.poison m a n st) :=
  kept_setPoisons (kept_setCells h hκ m _ (Memory.wf_writeCells _ _ a)) hκ m _

end Sys2Proof.Machine
end

