-- ==== Sys2Proof/Laws/KeptOps.lean ====
section
/-! SUPPORT. What the operations of Machine/Ops.lean keep (see Laws/Kept.lean). -/

namespace Sys2Proof.Machine

variable {κ : Part → Bool} {s₀ s : State}

theorem kept_onRse (h : Kept κ s₀ s) (hκ : Off κ [.rse]) (f : Rse → Rse) :
    Kept κ s₀ (State.onRse s f) :=
  Kept.of_eq h rfl rfl rfl rfl rfl rfl rfl rfl (by intro p hp; cases p <;> first | exact (hκ.not hp (by decide)).elim | rfl)

theorem kept_onPge (h : Kept κ s₀ s) (hκ : Off κ [.pge]) (f : Pge → Pge) :
    Kept κ s₀ (State.onPge s f) :=
  Kept.of_eq h rfl rfl rfl rfl rfl rfl rfl rfl (by intro p hp; cases p <;> first | exact (hκ.not hp (by decide)).elim | rfl)

theorem kept_onMzt (h : Kept κ s₀ s) (hκ : Off κ [.mzt]) (f : Mzt → Mzt) :
    Kept κ s₀ (State.onMzt s f) :=
  Kept.of_eq h rfl rfl rfl rfl rfl rfl rfl rfl (by intro p hp; cases p <;> first | exact (hκ.not hp (by decide)).elim | rfl)

theorem kept_onExp (h : Kept κ s₀ s) (hκ : Off κ [.exp]) (f : Exp → Exp) :
    Kept κ s₀ (State.onExp s f) :=
  Kept.of_eq h rfl rfl rfl rfl rfl rfl rfl rfl (by intro p hp; cases p <;> first | exact (hκ.not hp (by decide)).elim | rfl)

theorem kept_onSch (h : Kept κ s₀ s) (hκ : Off κ [.sch]) (f : Sch → Sch) :
    Kept κ s₀ (State.onSch s f) :=
  Kept.of_eq h rfl rfl rfl rfl rfl rfl rfl rfl (by intro p hp; cases p <;> first | exact (hκ.not hp (by decide)).elim | rfl)

theorem kept_onPhs (h : Kept κ s₀ s) (hκ : Off κ [.phs]) (f : Phs → Phs) :
    Kept κ s₀ (State.onPhs s f) :=
  Kept.of_eq h rfl rfl rfl rfl rfl rfl rfl rfl (by intro p hp; cases p <;> first | exact (hκ.not hp (by decide)).elim | rfl)

theorem kept_onFab (h : Kept κ s₀ s) (hκ : Off κ [.fab]) (f : Fab → Fab) :
    Kept κ s₀ (State.onFab s f) :=
  Kept.of_eq h rfl rfl rfl rfl rfl rfl rfl rfl (by intro p hp; cases p <;> first | exact (hκ.not hp (by decide)).elim | rfl)

theorem kept_onXfr (h : Kept κ s₀ s) (hκ : Off κ [.xfr]) (f : Xfr → Xfr) :
    Kept κ s₀ (State.onXfr s f) :=
  Kept.of_eq h rfl rfl rfl rfl rfl rfl rfl rfl (by intro p hp; cases p <;> first | exact (hκ.not hp (by decide)).elim | rfl)

theorem kept_onSyn (h : Kept κ s₀ s) (hκ : Off κ [.syn]) (f : Syn → Syn) :
    Kept κ s₀ (State.onSyn s f) :=
  Kept.of_eq h rfl rfl rfl rfl rfl rfl rfl rfl (by intro p hp; cases p <;> first | exact (hκ.not hp (by decide)).elim | rfl)

theorem kept_onHcp (h : Kept κ s₀ s) (hκ : Off κ [.hcp]) (f : Hcp → Hcp) :
    Kept κ s₀ (State.onHcp s f) :=
  Kept.of_eq h rfl rfl rfl rfl rfl rfl rfl rfl (by intro p hp; cases p <;> first | exact (hκ.not hp (by decide)).elim | rfl)

theorem kept_onBld (h : Kept κ s₀ s) (hκ : Off κ [.bld]) (f : Bld → Bld) :
    Kept κ s₀ (State.onBld s f) :=
  Kept.of_eq h rfl rfl rfl rfl rfl rfl rfl rfl (by intro p hp; cases p <;> first | exact (hκ.not hp (by decide)).elim | rfl)

theorem kept_onSec (h : Kept κ s₀ s) (hκ : Off κ [.sec]) (f : Sec → Sec) :
    Kept κ s₀ (State.onSec s f) :=
  Kept.of_eq h rfl rfl rfl rfl rfl rfl rfl rfl (by intro p hp; cases p <;> first | exact (hκ.not hp (by decide)).elim | rfl)

theorem kept_onPcr (h : Kept κ s₀ s) (hκ : Off κ [.pcr]) (f : Pcr → Pcr) :
    Kept κ s₀ (State.onPcr s f) :=
  Kept.of_eq h rfl rfl rfl rfl rfl rfl rfl rfl (by intro p hp; cases p <;> first | exact (hκ.not hp (by decide)).elim | rfl)

theorem kept_onEvt (h : Kept κ s₀ s) (hκ : Off κ [.evt]) (f : Evt → Evt) :
    Kept κ s₀ (State.onEvt s f) :=
  Kept.of_eq h rfl rfl rfl rfl rfl rfl rfl rfl (by intro p hp; cases p <;> first | exact (hκ.not hp (by decide)).elim | rfl)

theorem kept_setRegs (h : Kept κ s₀ s) (hκ : Off κ [.regs]) (a0 : List (Fld × ℕ)) :
    Kept κ s₀ (State.setRegs s a0) := by
  induction a0 generalizing s with
  | nil =>
    unfold State.setRegs
    try dsimp only
    repeat' first
      | with_reducible assumption
  | cons x_ l_ ih =>
    unfold State.setRegs
    try dsimp only
    repeat' first
      | with_reducible assumption
      | with_reducible apply ih
      | exact hκ.sub (by decide)
      | with_reducible apply kept_setReg
      | with_reducible intro _ _ _ _
      | with_reducible intro _ _ _
      | with_reducible intro _ _
      | split

theorem kept_setFresh (h : Kept κ s₀ s) (n : ℕ) :
    Kept κ s₀ (State.setFresh s n) := by
  exact Kept.of_eq h rfl rfl rfl rfl rfl rfl rfl rfl (by intro p hp; cases p <;> rfl)

theorem kept_next (h : Kept κ s₀ s)  :
    Kept κ s₀ (State.next s).2 := by
  unfold State.next
  try dsimp only
  repeat' first
    | with_reducible assumption
    | with_reducible apply kept_setFresh
    | with_reducible intro _ _ _ _
    | with_reducible intro _ _ _
    | with_reducible intro _ _
    | split

theorem kept_count (h : Kept κ s₀ s) (hκ : Off κ [.regs]) (f : Fld) (n : ℕ) :
    Kept κ s₀ (State.count s f n) := by
  unfold State.count
  try dsimp only
  repeat' first
    | with_reducible assumption
    | exact hκ.sub (by decide)
    | with_reducible apply kept_setReg
    | with_reducible apply kept_setFresh
    | with_reducible intro _ _ _ _
    | with_reducible intro _ _ _
    | with_reducible intro _ _
    | split

theorem kept_bump (h : Kept κ s₀ s) (hκ : Off κ [.regs]) (f : Fld) :
    Kept κ s₀ (State.bump s f) := by
  unfold State.bump
  try dsimp only
  repeat' first
    | with_reducible assumption
    | exact hκ.sub (by decide)
    | with_reducible apply kept_count
    | with_reducible intro _ _ _ _
    | with_reducible intro _ _ _
    | with_reducible intro _ _
    | split

theorem kept_wrNum (h : Kept κ s₀ s) (hκ : Off κ [.mem]) (m : Mem) (a : ℕ) (n : ℕ) (v : ℕ) :
    Kept κ s₀ (State.wrNum s m a n v) := by
  unfold State.wrNum
  try dsimp only
  repeat' first
    | with_reducible assumption
    | exact hκ.sub (by decide)
    | with_reducible apply kept_wr
    | with_reducible intro _ _ _ _
    | with_reducible intro _ _ _
    | with_reducible intro _ _
    | split

theorem kept_markPoison (h : Kept κ s₀ s) (hκ : Off κ [.mem]) (m : Mem) (a : ℕ) (n : ℕ) (st : St) :
    Kept κ s₀ (State.markPoison s m a n st) := by
  unfold State.markPoison
  try dsimp only
  repeat' first
    | with_reducible assumption
    | exact hκ.sub (by decide)
    | with_reducible apply kept_setPoisons
    | with_reducible intro _ _ _ _
    | with_reducible intro _ _ _
    | with_reducible intro _ _
    | split

theorem kept_setTap (h : Kept κ s₀ s) (hκ : Off κ [.tap]) (i : TapInstr) :
    Kept κ s₀ (State.setTap s i) := by
  exact Kept.of_eq h rfl rfl rfl rfl rfl rfl rfl rfl (by intro p hp; cases p <;> first | exact (hκ.not hp (by decide)).elim | rfl)

theorem kept_emit (h : Kept κ s₀ s) (hκ : Off κ [.out]) (o : Out) :
    Kept κ s₀ (State.emit s o) :=
  Kept.of_eq h rfl rfl rfl rfl rfl rfl rfl rfl (by intro p hp; cases p <;> first | exact (hκ.not hp (by decide)).elim | rfl)

end Sys2Proof.Machine
end

