-- ==== Sys2Proof/Laws/KeptHostNet.lean ====
section
/-! SUPPORT. What the operations of Machine/HostNet.lean keep (see Laws/Kept.lean). -/

namespace Sys2Proof.Machine

variable {κ : Part → Bool} {s₀ s : State}

theorem kept_hostEmit (h : Kept κ s₀ s) (hκ : Off κ [.out]) (o : HostOut) :
    Kept κ s₀ (State.hostEmit s o) := by
  unfold State.hostEmit
  try dsimp only
  repeat' first
    | with_reducible assumption
    | exact hκ.sub (by decide)
    | with_reducible apply kept_emit
    | with_reducible intro _ _ _ _
    | with_reducible intro _ _ _
    | with_reducible intro _ _
    | split

end Sys2Proof.Machine
end

