-- ==== Sys2Proof/Laws/KeptSend.lean ====
section
/-! SUPPORT. What the operations of Machine/Send.lean keep (see Laws/Kept.lean). -/

namespace Sys2Proof.Machine

variable {κ : Part → Bool} {s₀ s : State}

theorem kept_shaperTake (h : Kept κ s₀ s) (hκ : Off κ [.hcp]) (k : ℕ) (bits : ℕ) :
    Kept κ s₀ (State.shaperTake s k bits) := by
  unfold State.shaperTake
  try dsimp only
  repeat' first
    | with_reducible assumption
    | exact hκ.sub (by decide)
    | with_reducible apply kept_onHcp
    | with_reducible intro _ _ _ _
    | with_reducible intro _ _ _
    | with_reducible intro _ _
    | split

theorem kept_shaperFill (h : Kept κ s₀ s) (hκ : Off κ [.hcp]) (k : ℕ) :
    Kept κ s₀ (State.shaperFill s k) := by
  unfold State.shaperFill
  try dsimp only
  repeat' first
    | with_reducible assumption
    | exact hκ.sub (by decide)
    | with_reducible apply kept_onHcp
    | with_reducible intro _ _ _ _
    | with_reducible intro _ _ _
    | with_reducible intro _ _
    | split

theorem kept_hostSend (h : Kept κ s₀ s) (hκ : Off κ [.hcp, .out]) (cls : ℕ) (o : HostOut) :
    Kept κ s₀ (State.hostSend s cls o) := by
  unfold State.hostSend
  try dsimp only
  repeat' first
    | with_reducible assumption
    | exact hκ.sub (by decide)
    | with_reducible apply kept_onHcp
    | with_reducible apply kept_shaperTake
    | with_reducible apply kept_hostEmit
    | with_reducible intro _ _ _ _
    | with_reducible intro _ _ _
    | with_reducible intro _ _
    | split

theorem kept_putLink (h : Kept κ s₀ s) (hκ : Off κ [.fab]) (l : Link) :
    Kept κ s₀ (State.putLink s l) := by
  unfold State.putLink
  try dsimp only
  repeat' first
    | with_reducible assumption
    | exact hκ.sub (by decide)
    | with_reducible apply kept_onFab
    | with_reducible intro _ _ _ _
    | with_reducible intro _ _ _
    | with_reducible intro _ _
    | split

theorem kept_sendControl (h : Kept κ s₀ s) (hκ : Off κ [.regs, .out]) (l : Link) (cls : ℕ) (credits : ℕ) (c : LinkControl) :
    Kept κ s₀ (State.sendControl s l cls credits c) := by
  unfold State.sendControl
  try dsimp only
  repeat' first
    | with_reducible assumption
    | exact hκ.sub (by decide)
    | with_reducible apply kept_emit
    | with_reducible apply kept_count
    | with_reducible intro _ _ _ _
    | with_reducible intro _ _ _
    | with_reducible intro _ _
    | split

theorem kept_linkPut (h : Kept κ s₀ s) (hκ : Off κ [.regs, .fab, .out]) (l : Link) (f : Frame) :
    Kept κ s₀ (State.linkPut s l f) := by
  unfold State.linkPut
  try dsimp only
  repeat' first
    | with_reducible assumption
    | exact hκ.sub (by decide)
    | with_reducible apply kept_putLink
    | with_reducible apply kept_emit
    | with_reducible apply kept_count
    | with_reducible intro _ _ _ _
    | with_reducible intro _ _ _
    | with_reducible intro _ _
    | split

theorem kept_linkSend (h : Kept κ s₀ s) (hκ : Off κ [.regs, .fab, .out]) (l : Link) (f : Frame) :
    Kept κ s₀ (State.linkSend s l f) := by
  unfold State.linkSend
  try dsimp only
  repeat' first
    | with_reducible assumption
    | exact hκ.sub (by decide)
    | with_reducible apply kept_putLink
    | with_reducible apply kept_linkPut
    | with_reducible intro _ _ _ _
    | with_reducible intro _ _ _
    | with_reducible intro _ _
    | split

theorem kept_forwardAt (h : Kept κ s₀ s) (hκ : Off κ [.regs, .fab, .out]) (die : ℕ) (f : Frame) :
    Kept κ s₀ (State.forwardAt s die f) := by
  unfold State.forwardAt
  try dsimp only
  repeat' first
    | with_reducible assumption
    | exact hκ.sub (by decide)
    | with_reducible apply kept_onFab
    | with_reducible apply kept_bump
    | with_reducible apply kept_linkSend
    | with_reducible intro _ _ _ _
    | with_reducible intro _ _ _
    | with_reducible intro _ _
    | split

theorem kept_forward (h : Kept κ s₀ s) (hκ : Off κ [.regs, .fab, .out]) (f : Frame) :
    Kept κ s₀ (State.forward s f) := by
  unfold State.forward
  try dsimp only
  repeat' first
    | with_reducible assumption
    | exact hκ.sub (by decide)
    | with_reducible apply kept_forwardAt
    | with_reducible intro _ _ _ _
    | with_reducible intro _ _ _
    | with_reducible intro _ _
    | split

theorem kept_putOut (h : Kept κ s₀ s) (hκ : Off κ [.fab]) (c : OutChannel) :
    Kept κ s₀ (State.putOut s c) := by
  unfold State.putOut
  try dsimp only
  repeat' first
    | with_reducible assumption
    | exact hκ.sub (by decide)
    | with_reducible apply kept_onFab
    | with_reducible intro _ _ _ _
    | with_reducible intro _ _ _
    | with_reducible intro _ _
    | split

theorem kept_putIn (h : Kept κ s₀ s) (hκ : Off κ [.fab]) (c : InChannel) :
    Kept κ s₀ (State.putIn s c) := by
  unfold State.putIn
  try dsimp only
  repeat' first
    | with_reducible assumption
    | exact hκ.sub (by decide)
    | with_reducible apply kept_onFab
    | with_reducible intro _ _ _ _
    | with_reducible intro _ _ _
    | with_reducible intro _ _
    | split

theorem kept_setHeld (h : Kept κ s₀ s) (hκ : Off κ [.fab]) (src : ℕ) (b : Bool) :
    Kept κ s₀ (State.setHeld s src b) := by
  unfold State.setHeld
  try dsimp only
  repeat' first
    | with_reducible assumption
    | exact hκ.sub (by decide)
    | with_reducible apply kept_putIn
    | with_reducible intro _ _ _ _
    | with_reducible intro _ _ _
    | with_reducible intro _ _
    | split

theorem kept_sendNumbered (h : Kept κ s₀ s) (hκ : Off κ [.regs, .fab, .out]) (dst : ℕ) (f : Frame) :
    Kept κ s₀ (State.sendNumbered s dst f) := by
  unfold State.sendNumbered
  try dsimp only
  repeat' first
    | with_reducible assumption
    | exact hκ.sub (by decide)
    | with_reducible apply kept_putIn
    | with_reducible apply kept_forward
    | with_reducible apply kept_putOut
    | with_reducible intro _ _ _ _
    | with_reducible intro _ _ _
    | with_reducible intro _ _
    | split

theorem kept_sendOrderedNow (h : Kept κ s₀ s) (hκ : Off κ [.regs, .fab, .out]) (dst : ℕ) (f : Frame) :
    Kept κ s₀ (State.sendOrderedNow s dst f) := by
  unfold State.sendOrderedNow
  try dsimp only
  repeat' first
    | with_reducible assumption
    | exact hκ.sub (by decide)
    | with_reducible apply kept_putOut
    | with_reducible apply kept_sendNumbered
    | with_reducible intro _ _ _ _
    | with_reducible intro _ _ _
    | with_reducible intro _ _
    | split

theorem kept_pumpWaiting (h : Kept κ s₀ s) (hκ : Off κ [.regs, .fab, .out]) (dst : ℕ) (a0 : ℕ) :
    Kept κ s₀ (State.pumpWaiting s dst a0) := by
  induction a0 generalizing s dst with
  | zero =>
    unfold State.pumpWaiting
    try dsimp only
    repeat' first
      | with_reducible assumption
  | succ n_ ih =>
    unfold State.pumpWaiting
    try dsimp only
    repeat' first
      | with_reducible assumption
      | with_reducible apply ih
      | exact hκ.sub (by decide)
      | with_reducible apply kept_sendNumbered
      | with_reducible apply kept_putOut
      | with_reducible intro _ _ _ _
      | with_reducible intro _ _ _
      | with_reducible intro _ _
      | split

theorem kept_addSent (h : Kept κ s₀ s) (hκ : Off κ [.fab]) (dst : ℕ) (n : ℕ) :
    Kept κ s₀ (State.addSent s dst n) := by
  unfold State.addSent
  try dsimp only
  repeat' first
    | with_reducible assumption
    | exact hκ.sub (by decide)
    | with_reducible apply kept_putOut
    | with_reducible intro _ _ _ _
    | with_reducible intro _ _ _
    | with_reducible intro _ _
    | split

theorem kept_injectNow (h : Kept κ s₀ s) (hκ : Off κ [.regs, .fab, .out]) (f : Frame) :
    Kept κ s₀ (State.injectNow s f) := by
  unfold State.injectNow
  try dsimp only
  repeat' first
    | with_reducible assumption
    | exact hκ.sub (by decide)
    | with_reducible apply kept_sendOrderedNow
    | with_reducible apply kept_forward
    | with_reducible apply kept_addSent
    | with_reducible intro _ _ _ _
    | with_reducible intro _ _ _
    | with_reducible intro _ _
    | split

theorem kept_inject (h : Kept κ s₀ s) (hκ : Off κ [.regs, .fab, .hcp, .out]) (comp : Option ℕ) (f : Frame) :
    Kept κ s₀ (State.inject s comp f) := by
  unfold State.inject
  try dsimp only
  repeat' first
    | with_reducible assumption
    | exact hκ.sub (by decide)
    | with_reducible apply kept_injectNow
    | with_reducible apply kept_onHcp
    | with_reducible apply kept_shaperTake
    | with_reducible intro _ _ _ _
    | with_reducible intro _ _ _
    | with_reducible intro _ _
    | split

theorem kept_hear (h : Kept κ s₀ s) (hκ : Off κ [.rse]) (src : ℕ) (format : ℕ) (m : Msg) :
    Kept κ s₀ (State.hear s src format m) := by
  unfold State.hear
  try dsimp only
  repeat' first
    | with_reducible assumption
    | exact hκ.sub (by decide)
    | with_reducible apply kept_onRse
    | with_reducible intro _ _ _ _
    | with_reducible intro _ _ _
    | with_reducible intro _ _
    | split

theorem kept_injectAll (h : Kept κ s₀ s) (hκ : Off κ [.regs, .fab, .hcp, .out]) (comp : Option ℕ) (a0 : List Frame) :
    Kept κ s₀ (State.injectAll s comp a0) := by
  induction a0 generalizing s comp with
  | nil =>
    unfold State.injectAll
    try dsimp only
    repeat' first
      | with_reducible assumption
  | cons x_ l_ ih =>
    unfold State.injectAll
    try dsimp only
    repeat' first
      | with_reducible assumption
      | with_reducible apply ih
      | exact hκ.sub (by decide)
      | with_reducible apply kept_inject
      | with_reducible intro _ _ _ _
      | with_reducible intro _ _ _
      | with_reducible intro _ _
      | split

theorem kept_sendMsgNow (h : Kept κ s₀ s) (hκ : Off κ [.regs, .fab, .hcp, .out]) (comp : Option ℕ) (dst : ℕ) (m : Msg) :
    Kept κ s₀ (State.sendMsgNow s comp dst m) := by
  unfold State.sendMsgNow
  try dsimp only
  repeat' first
    | with_reducible assumption
    | exact hκ.sub (by decide)
    | with_reducible apply kept_injectAll
    | with_reducible apply kept_onFab
    | with_reducible intro _ _ _ _
    | with_reducible intro _ _ _
    | with_reducible intro _ _
    | split

theorem kept_sendMsgFor (h : Kept κ s₀ s) (hκ : Off κ [.regs, .fab, .hcp, .out]) (comp : Option ℕ) (dst : ℕ) (m : Msg) :
    Kept κ s₀ (State.sendMsgFor s comp dst m) := by
  unfold State.sendMsgFor
  try dsimp only
  repeat' first
    | with_reducible assumption
    | exact hκ.sub (by decide)
    | with_reducible apply kept_onFab
    | with_reducible apply kept_sendMsgNow
    | with_reducible intro _ _ _ _
    | with_reducible intro _ _ _
    | with_reducible intro _ _
    | split

theorem kept_sendMsg (h : Kept κ s₀ s) (hκ : Off κ [.regs, .fab, .hcp, .out]) (dst : ℕ) (m : Msg) :
    Kept κ s₀ (State.sendMsg s dst m) := by
  unfold State.sendMsg
  try dsimp only
  repeat' first
    | with_reducible assumption
    | exact hκ.sub (by decide)
    | with_reducible apply kept_sendMsgFor
    | with_reducible intro _ _ _ _
    | with_reducible intro _ _ _
    | with_reducible intro _ _
    | split

theorem kept_sendMsgs (h : Kept κ s₀ s) (hκ : Off κ [.regs, .fab, .hcp, .out]) (m : Msg) (a0 : List ℕ) :
    Kept κ s₀ (State.sendMsgs s m a0) := by
  induction a0 generalizing s m with
  | nil =>
    unfold State.sendMsgs
    try dsimp only
    repeat' first
      | with_reducible assumption
  | cons x_ l_ ih =>
    unfold State.sendMsgs
    try dsimp only
    repeat' first
      | with_reducible assumption
      | with_reducible apply ih
      | exact hκ.sub (by decide)
      | with_reducible apply kept_sendMsg
      | with_reducible intro _ _ _ _
      | with_reducible intro _ _ _
      | with_reducible intro _ _
      | split

theorem kept_takeMsg (h : Kept κ s₀ s) (hκ : Off κ [.fab]) (src : ℕ) (m : Msg) :
    Kept κ s₀ (State.takeMsg s src m) := by
  unfold State.takeMsg
  try dsimp only
  repeat' first
    | with_reducible assumption
    | exact hκ.sub (by decide)
    | with_reducible apply kept_onFab
    | with_reducible intro _ _ _ _
    | with_reducible intro _ _ _
    | with_reducible intro _ _
    | split

theorem kept_takeFrame (h : Kept κ s₀ s) (hκ : Off κ [.fab]) (f : Frame) :
    Kept κ s₀ (State.takeFrame s f) := by
  unfold State.takeFrame
  try dsimp only
  repeat' first
    | with_reducible assumption
    | exact hκ.sub (by decide)
    | with_reducible apply kept_onFab
    | with_reducible intro _ _ _ _
    | with_reducible intro _ _ _
    | with_reducible intro _ _
    | split

theorem kept_queueFrame (h : Kept κ s₀ s) (hκ : Off κ [.fab]) (f : Frame) :
    Kept κ s₀ (State.queueFrame s f) := by
  unfold State.queueFrame
  try dsimp only
  repeat' first
    | with_reducible assumption
    | exact hκ.sub (by decide)
    | with_reducible apply kept_onFab
    | with_reducible intro _ _ _ _
    | with_reducible intro _ _ _
    | with_reducible intro _ _
    | split

theorem kept_takeOrdered (h : Kept κ s₀ s) (hκ : Off κ [.fab]) (f : Frame) :
    Kept κ s₀ (State.takeOrdered s f) := by
  unfold State.takeOrdered
  try dsimp only
  repeat' first
    | with_reducible assumption
    | exact hκ.sub (by decide)
    | with_reducible apply kept_onFab
    | with_reducible intro _ _ _ _
    | with_reducible intro _ _ _
    | with_reducible intro _ _
    | split

theorem kept_ringPost (h : Kept κ s₀ s) (hκ : Off κ [.regs, .hcp, .evt, .out]) (w : EvtWords) (own : Bool) :
    Kept κ s₀ (State.ringPost s w own) := by
  unfold State.ringPost
  try dsimp only
  repeat' first
    | with_reducible assumption
    | exact hκ.sub (by decide)
    | with_reducible apply kept_bump
    | with_reducible apply kept_setReg
    | with_reducible apply kept_onEvt
    | with_reducible apply kept_hostSend
    | with_reducible intro _ _ _ _
    | with_reducible intro _ _ _
    | with_reducible intro _ _
    | split

theorem kept_postOverwritten (h : Kept κ s₀ s) (hκ : Off κ [.regs, .hcp, .evt, .out])  :
    Kept κ s₀ (State.postOverwritten s) := by
  unfold State.postOverwritten
  try dsimp only
  repeat' first
    | with_reducible assumption
    | exact hκ.sub (by decide)
    | with_reducible apply kept_onEvt
    | with_reducible apply kept_ringPost
    | with_reducible intro _ _ _ _
    | with_reducible intro _ _ _
    | with_reducible intro _ _
    | split

theorem kept_post (h : Kept κ s₀ s) (hκ : Off κ [.regs, .fab, .hcp, .evt, .out]) (e : Ev) (ctx : ℕ) (a : ℕ × ℕ) :
    Kept κ s₀ (State.post s e ctx a) := by
  unfold State.post
  try dsimp only
  repeat' first
    | with_reducible assumption
    | exact hκ.sub (by decide)
    | with_reducible apply kept_postOverwritten
    | with_reducible apply kept_ringPost
    | with_reducible apply kept_sendMsgs
    | with_reducible intro _ _ _ _
    | with_reducible intro _ _ _
    | with_reducible intro _ _
    | split

end Sys2Proof.Machine
end

