-- ==== Sys2Proof/Laws/KeptAccess.lean ====
section
/-! SUPPORT. What the operations of Machine/Access.lean keep (see Laws/Kept.lean). -/

namespace Sys2Proof.Machine

variable {κ : Part → Bool} {s₀ s : State}

theorem kept_capChange (h : Kept κ s₀ s) (hκ : Off κ [.regs, .fab, .hcp, .evt, .out]) (fs : List (Fld × ℕ)) :
    Kept κ s₀ (State.capChange s fs) := by
  unfold State.capChange
  try dsimp only
  repeat' first
    | with_reducible assumption
    | exact hκ.sub (by decide)
    | with_reducible apply kept_post
    | with_reducible apply kept_setReg
    | with_reducible apply kept_setRegs
    | with_reducible intro _ _ _ _
    | with_reducible intro _ _ _
    | with_reducible intro _ _
    | split

end Sys2Proof.Machine
end

