-- ==== Sys2Proof/Laws/KeptCoreOps.lean ====
section
/-! SUPPORT. What the operations of Machine/CoreOps.lean keep (see Laws/Kept.lean). -/

namespace Sys2Proof.Machine

variable {κ : Part → Bool} {s₀ s : State}

theorem kept_putCore (h : Kept κ s₀ s) (hκ : Off κ [.cores]) (c : Core) :
    Kept κ s₀ (State.putCore s c) := by
  exact Kept.of_eq h rfl rfl rfl rfl rfl rfl rfl rfl (by intro p hp; cases p <;> first | exact (hκ.not hp (by decide)).elim | rfl)

theorem kept_endWait (h : Kept κ s₀ s) (hκ : Off κ [.cores]) (c : Core) :
    Kept κ s₀ (State.endWait s c) := by
  unfold State.endWait
  try dsimp only
  repeat' first
    | with_reducible assumption
    | exact hκ.sub (by decide)
    | with_reducible apply kept_putCore
    | with_reducible intro _ _ _ _
    | with_reducible intro _ _ _
    | with_reducible intro _ _
    | split

theorem kept_endWaits (h : Kept κ s₀ s) (hκ : Off κ [.cores]) (a0 : List Core) :
    Kept κ s₀ (State.endWaits s a0) := by
  induction a0 generalizing s with
  | nil =>
    unfold State.endWaits
    try dsimp only
    repeat' first
      | with_reducible assumption
  | cons x_ l_ ih =>
    unfold State.endWaits
    try dsimp only
    repeat' first
      | with_reducible assumption
      | with_reducible apply ih
      | exact hκ.sub (by decide)
      | with_reducible apply kept_endWait
      | with_reducible intro _ _ _ _
      | with_reducible intro _ _ _
      | with_reducible intro _ _
      | split

theorem kept_dropCoreOps (h : Kept κ s₀ s) (hκ : Off κ [.mzt, .fab]) (n : ℕ) :
    Kept κ s₀ (State.dropCoreOps s n) := by
  unfold State.dropCoreOps
  try dsimp only
  repeat' first
    | with_reducible assumption
    | exact hκ.sub (by decide)
    | with_reducible apply kept_onMzt
    | with_reducible apply kept_onFab
    | with_reducible intro _ _ _ _
    | with_reducible intro _ _ _
    | with_reducible intro _ _
    | split

theorem kept_stopCore (h : Kept κ s₀ s) (hκ : Off κ [.regs, .mzt, .cores, .fab]) (c : Core) :
    Kept κ s₀ (State.stopCore s c) := by
  unfold State.stopCore
  try dsimp only
  repeat' first
    | with_reducible assumption
    | exact hκ.sub (by decide)
    | with_reducible apply kept_dropCoreOps
    | with_reducible apply kept_putCore
    | with_reducible apply kept_count
    | with_reducible intro _ _ _ _
    | with_reducible intro _ _ _
    | with_reducible intro _ _
    | split

theorem kept_squashCore (h : Kept κ s₀ s) (hκ : Off κ [.regs, .mzt, .cores, .fab]) (c : Core) :
    Kept κ s₀ (State.squashCore s c) := by
  unfold State.squashCore
  try dsimp only
  repeat' first
    | with_reducible assumption
    | exact hκ.sub (by decide)
    | with_reducible apply kept_bump
    | with_reducible apply kept_stopCore
    | with_reducible apply kept_putCore
    | with_reducible intro _ _ _ _
    | with_reducible intro _ _ _
    | with_reducible intro _ _
    | split

theorem kept_commitResult (h : Kept κ s₀ s) (hκ : Off κ [.mem]) (c : Core) (z : ℕ) (r : ℕ) (st : St) (n : ℕ) (gen : ℕ) (kv : ℕ) :
    Kept κ s₀ (State.commitResult s c z r st n gen kv) := by
  unfold State.commitResult
  try dsimp only
  repeat' first
    | with_reducible assumption
    | exact hκ.sub (by decide)
    | with_reducible apply kept_wr
    | with_reducible intro _ _ _ _
    | with_reducible intro _ _ _
    | with_reducible intro _ _
    | split

theorem kept_commitOrdered (h : Kept κ s₀ s) (hκ : Off κ [.mem, .cores]) (id : ℕ) (st : St) (n : ℕ) (gen : ℕ) (kv : ℕ) :
    Kept κ s₀ (State.commitOrdered s id st n gen kv) := by
  unfold State.commitOrdered
  try dsimp only
  repeat' first
    | with_reducible assumption
    | exact hκ.sub (by decide)
    | with_reducible apply kept_commitResult
    | with_reducible apply kept_endWait
    | with_reducible apply kept_putCore
    | with_reducible apply kept_foldl
    | with_reducible intro _ _ _ _
    | with_reducible intro _ _ _
    | with_reducible intro _ _
    | split

theorem kept_squashCores (h : Kept κ s₀ s) (hκ : Off κ [.regs, .mzt, .cores, .fab]) (a0 : List Core) :
    Kept κ s₀ (State.squashCores s a0) := by
  induction a0 generalizing s with
  | nil =>
    unfold State.squashCores
    try dsimp only
    repeat' first
      | with_reducible assumption
  | cons x_ l_ ih =>
    unfold State.squashCores
    try dsimp only
    repeat' first
      | with_reducible assumption
      | with_reducible apply ih
      | exact hκ.sub (by decide)
      | with_reducible apply kept_squashCore
      | with_reducible intro _ _ _ _
      | with_reducible intro _ _ _
      | with_reducible intro _ _
      | split

theorem kept_setThrottle (h : Kept κ s₀ s) (hκ : Off κ [.regs, .pcr]) (p : ℕ) :
    Kept κ s₀ (State.setThrottle s p) := by
  unfold State.setThrottle
  try dsimp only
  repeat' first
    | with_reducible assumption
    | exact hκ.sub (by decide)
    | with_reducible apply kept_count
    | with_reducible apply kept_setReg
    | with_reducible apply kept_onPcr
    | with_reducible intro _ _ _ _
    | with_reducible intro _ _ _
    | with_reducible intro _ _
    | split

theorem kept_putCtx (h : Kept κ s₀ s) (hκ : Off κ [.sch]) (c : Ctx) :
    Kept κ s₀ (State.putCtx s c) := by
  unfold State.putCtx
  try dsimp only
  repeat' first
    | with_reducible assumption
    | exact hκ.sub (by decide)
    | with_reducible apply kept_onSch
    | with_reducible intro _ _ _ _
    | with_reducible intro _ _ _
    | with_reducible intro _ _
    | split

theorem kept_closeCtx (h : Kept κ s₀ s) (hκ : Off κ [.regs, .mzt, .cores, .sch, .fab]) (x : Ctx) (cause : CloseCause) (st : St) (core : ℕ) (pc : ℕ) :
    Kept κ s₀ (State.closeCtx s x cause st core pc) := by
  unfold State.closeCtx
  try dsimp only
  repeat' first
    | with_reducible assumption
    | exact hκ.sub (by decide)
    | with_reducible apply kept_putCtx
    | with_reducible apply kept_onSch
    | with_reducible apply kept_squashCores
    | with_reducible intro _ _ _ _
    | with_reducible intro _ _ _
    | with_reducible intro _ _
    | split

theorem kept_tearDown (h : Kept κ s₀ s) (hκ : Off κ [.regs, .mzt, .cores, .sch, .fab]) (c : ℕ) (cause : CloseCause) (st : St) (core : ℕ) (pc : ℕ) :
    Kept κ s₀ (State.tearDown s c cause st core pc) := by
  unfold State.tearDown
  try dsimp only
  repeat' first
    | with_reducible assumption
    | exact hκ.sub (by decide)
    | with_reducible apply kept_closeCtx
    | with_reducible intro _ _ _ _
    | with_reducible intro _ _ _
    | with_reducible intro _ _
    | split

theorem kept_tearDownAll (h : Kept κ s₀ s) (hκ : Off κ [.regs, .mzt, .cores, .sch, .fab]) (cause : CloseCause) (st : St) (a0 : List ℕ) :
    Kept κ s₀ (State.tearDownAll s cause st a0) := by
  induction a0 generalizing s cause st with
  | nil =>
    unfold State.tearDownAll
    try dsimp only
    repeat' first
      | with_reducible assumption
  | cons x_ l_ ih =>
    unfold State.tearDownAll
    try dsimp only
    repeat' first
      | with_reducible assumption
      | with_reducible apply ih
      | exact hκ.sub (by decide)
      | with_reducible apply kept_tearDown
      | with_reducible intro _ _ _ _
      | with_reducible intro _ _ _
      | with_reducible intro _ _
      | split

theorem kept_setQueue (h : Kept κ s₀ s) (hκ : Off κ [.mzt, .phs]) (q : List MztQueued) :
    Kept κ s₀ (State.setQueue s q) := by
  unfold State.setQueue
  try dsimp only
  repeat' first
    | with_reducible assumption
    | exact hκ.sub (by decide)
    | with_reducible apply kept_onMzt
    | with_reducible apply kept_onPhs
    | with_reducible intro _ _ _ _
    | with_reducible intro _ _ _
    | with_reducible intro _ _
    | split

theorem kept_refuseQuery (h : Kept κ s₀ s) (hκ : Off κ [.regs, .fab, .hcp, .out]) (src : ℕ) (q : MztMsg) (st : St) :
    Kept κ s₀ (State.refuseQuery s src q st) := by
  unfold State.refuseQuery
  try dsimp only
  repeat' first
    | with_reducible assumption
    | exact hκ.sub (by decide)
    | with_reducible apply kept_bump
    | with_reducible apply kept_sendMsg
    | with_reducible intro _ _ _ _
    | with_reducible intro _ _ _
    | with_reducible intro _ _
    | split

theorem kept_refuseQueue (h : Kept κ s₀ s) (hκ : Off κ [.regs, .mzt, .phs, .fab, .hcp, .out]) (st : St) :
    Kept κ s₀ (State.refuseQueue s st) := by
  unfold State.refuseQueue
  try dsimp only
  repeat' first
    | with_reducible assumption
    | exact hκ.sub (by decide)
    | with_reducible apply kept_refuseQuery
    | with_reducible apply kept_setQueue
    | with_reducible apply kept_foldl
    | with_reducible intro _ _ _ _
    | with_reducible intro _ _ _
    | with_reducible intro _ _
    | split

theorem kept_faultCtx (h : Kept κ s₀ s) (hκ : Off κ [.regs, .mzt, .cores, .sch, .phs, .fab, .hcp, .out]) (c : ℕ) (st : St) (core : ℕ) (pc : ℕ) :
    Kept κ s₀ (State.faultCtx s c st core pc) := by
  unfold State.faultCtx
  try dsimp only
  repeat' first
    | with_reducible assumption
    | exact hκ.sub (by decide)
    | with_reducible apply kept_tearDown
    | with_reducible apply kept_refuseQueue
    | with_reducible apply kept_sendMsgs
    | with_reducible apply kept_tearDownAll
    | with_reducible intro _ _ _ _
    | with_reducible intro _ _ _
    | with_reducible intro _ _
    | split

theorem kept_coreFault (h : Kept κ s₀ s) (hκ : Off κ [.regs, .mzt, .cores, .sch, .phs, .fab, .hcp, .evt, .out]) (c : ℕ) (st : St) (pc : ℕ) (opcode : ℕ) :
    Kept κ s₀ (State.coreFault s c st pc opcode) := by
  unfold State.coreFault
  try dsimp only
  repeat' first
    | with_reducible assumption
    | exact hκ.sub (by decide)
    | with_reducible apply kept_dropCoreOps
    | with_reducible apply kept_putCore
    | with_reducible apply kept_setRegs
    | with_reducible apply kept_bump
    | with_reducible apply kept_post
    | with_reducible apply kept_onSch
    | with_reducible apply kept_faultCtx
    | with_reducible apply kept_count
    | with_reducible intro _ _ _ _
    | with_reducible intro _ _ _
    | with_reducible intro _ _
    | split

end Sys2Proof.Machine
end

