-- ==== Sys2Proof/Laws/KeptSync.lean ====
section
/-! SUPPORT. What the operations of Machine/Sync.lean keep (see Laws/Kept.lean). -/

namespace Sys2Proof.Machine

variable {κ : Part → Bool} {s₀ s : State}

theorem kept_ringCheck (h : Kept κ s₀ s) (hκ : Off κ [.regs]) (key : ℕ) (q : ℕ) :
    Kept κ s₀ (State.ringCheck s key q) := by
  unfold State.ringCheck
  try dsimp only
  repeat' first
    | with_reducible assumption
    | exact hκ.sub (by decide)
    | with_reducible apply kept_setRegs
    | with_reducible intro _ _ _ _
    | with_reducible intro _ _ _
    | with_reducible intro _ _
    | split

theorem kept_checkPosted (h : Kept κ s₀ s) (hκ : Off κ [.regs]) (key : ℕ) :
    Kept κ s₀ (State.checkPosted s key) := by
  unfold State.checkPosted
  try dsimp only
  repeat' first
    | with_reducible assumption
    | exact hκ.sub (by decide)
    | with_reducible apply kept_ringCheck
    | with_reducible apply kept_foldl
    | with_reducible intro _ _ _ _
    | with_reducible intro _ _ _
    | with_reducible intro _ _
    | split

theorem kept_storeCounter (h : Kept κ s₀ s) (hκ : Off κ [.syn]) (key : ℕ) (v : ℕ) :
    Kept κ s₀ (State.storeCounter s key v) := by
  unfold State.storeCounter
  try dsimp only
  repeat' first
    | with_reducible assumption
    | exact hκ.sub (by decide)
    | with_reducible apply kept_onSyn
    | with_reducible intro _ _ _ _
    | with_reducible intro _ _ _
    | with_reducible intro _ _
    | split

theorem kept_bumpCounters (h : Kept κ s₀ s) (hκ : Off κ [.regs, .cores, .syn]) (a0 : List ℕ) (a1 : ℕ) :
    Kept κ s₀ (State.bumpCounters s a0 a1) := by
  induction a1 generalizing s a0 with
  | zero => cases a0 <;> exact h
  | succ n ih =>
    cases a0 with
    | nil => exact h
    | cons k ks =>
      unfold State.bumpCounters
      dsimp only
      refine ih ?_ _
      repeat' first
        | with_reducible assumption
        | exact hκ.sub (by decide)
        | with_reducible apply kept_checkPosted
        | with_reducible apply kept_count
        | with_reducible apply kept_endWaits
        | with_reducible apply kept_storeCounter

theorem kept_completeWaits (h : Kept κ s₀ s) (hκ : Off κ [.regs, .cores, .syn]) (cs : List Core) :
    Kept κ s₀ (State.completeWaits s cs) := by
  unfold State.completeWaits
  try dsimp only
  repeat' first
    | with_reducible assumption
    | exact hκ.sub (by decide)
    | with_reducible apply kept_bumpCounters
    | with_reducible apply kept_endWaits
    | with_reducible intro _ _ _ _
    | with_reducible intro _ _ _
    | with_reducible intro _ _
    | split

theorem kept_mztGoOn (h : Kept κ s₀ s) (hκ : Off κ [.regs, .cores, .syn])  :
    Kept κ s₀ (State.mztGoOn s) := by
  unfold State.mztGoOn
  try dsimp only
  repeat' first
    | with_reducible assumption
    | exact hκ.sub (by decide)
    | with_reducible apply kept_completeWaits
    | with_reducible intro _ _ _ _
    | with_reducible intro _ _ _
    | with_reducible intro _ _
    | split

theorem kept_setCounter (h : Kept κ s₀ s) (hκ : Off κ [.regs, .cores, .syn]) (key : ℕ) (v : ℕ) :
    Kept κ s₀ (State.setCounter s key v) := by
  unfold State.setCounter
  try dsimp only
  repeat' first
    | with_reducible assumption
    | exact hκ.sub (by decide)
    | with_reducible apply kept_storeCounter
    | with_reducible apply kept_checkPosted
    | with_reducible apply kept_count
    | with_reducible apply kept_completeWaits
    | with_reducible intro _ _ _ _
    | with_reducible intro _ _ _
    | with_reducible intro _ _
    | split

theorem kept_addCounter (h : Kept κ s₀ s) (hκ : Off κ [.regs, .cores, .syn]) (key : ℕ) (d : ℤ) :
    Kept κ s₀ (State.addCounter s key d) := by
  unfold State.addCounter
  try dsimp only
  repeat' first
    | with_reducible assumption
    | exact hκ.sub (by decide)
    | with_reducible apply kept_setCounter
    | with_reducible intro _ _ _ _
    | with_reducible intro _ _ _
    | with_reducible intro _ _
    | split

theorem kept_doneCtr (h : Kept κ s₀ s) (hκ : Off κ [.regs, .cores, .syn]) (core : ℕ) (done : ℕ) :
    Kept κ s₀ (State.doneCtr s core done) := by
  unfold State.doneCtr
  try dsimp only
  repeat' first
    | with_reducible assumption
    | exact hκ.sub (by decide)
    | with_reducible apply kept_addCounter
    | with_reducible intro _ _ _ _
    | with_reducible intro _ _ _
    | with_reducible intro _ _
    | split

theorem kept_ctrDataWrite (h : Kept κ s₀ s) (hκ : Off κ [.regs, .cores, .syn]) (value : ℕ) :
    Kept κ s₀ (State.ctrDataWrite s value) := by
  unfold State.ctrDataWrite
  try dsimp only
  repeat' first
    | with_reducible assumption
    | exact hκ.sub (by decide)
    | with_reducible apply kept_setCounter
    | with_reducible intro _ _ _ _
    | with_reducible intro _ _ _
    | with_reducible intro _ _
    | split

theorem kept_execSynCtrDataWrite (h : Kept κ s₀ s) (hκ : Off κ [.regs, .cores, .syn]) (value : ℕ) :
    OutKept κ s₀ (execSynCtrDataWrite value s) := by
  unfold execSynCtrDataWrite
  try dsimp only
  repeat' first
    | with_reducible assumption
    | exact hκ.sub (by decide)
    | with_reducible apply kept_ctrDataWrite
    | with_reducible apply OutKept.next
    | with_reducible intro _ _ _ _
    | with_reducible intro _ _ _
    | with_reducible intro _ _
    | split

theorem kept_barStatus (h : Kept κ s₀ s) (hκ : Off κ [.regs]) (op : ℕ) (bar : ℕ) (st : St) :
    Kept κ s₀ (State.barStatus s op bar st) := by
  unfold State.barStatus
  try dsimp only
  repeat' first
    | with_reducible assumption
    | exact hκ.sub (by decide)
    | with_reducible apply kept_setRegs
    | with_reducible intro _ _ _ _
    | with_reducible intro _ _ _
    | with_reducible intro _ _
    | split

theorem kept_barConfigure (h : Kept κ s₀ s) (hκ : Off κ [.regs]) (bar : ℕ) :
    Kept κ s₀ (State.barConfigure s bar) := by
  unfold State.barConfigure
  try dsimp only
  repeat' first
    | with_reducible assumption
    | exact hκ.sub (by decide)
    | with_reducible apply kept_barStatus
    | with_reducible apply kept_setRegs
    | with_reducible intro _ _ _ _
    | with_reducible intro _ _ _
    | with_reducible intro _ _
    | split

theorem kept_execBarrierConfigure (h : Kept κ s₀ s) (hκ : Off κ [.regs]) (bar : ℕ) :
    OutKept κ s₀ (execBarrierConfigure bar s) := by
  unfold execBarrierConfigure
  try dsimp only
  repeat' first
    | with_reducible assumption
    | exact hκ.sub (by decide)
    | with_reducible apply kept_barConfigure
    | with_reducible apply OutKept.next
    | with_reducible intro _ _ _ _
    | with_reducible intro _ _ _
    | with_reducible intro _ _
    | split

theorem kept_barFree (h : Kept κ s₀ s) (hκ : Off κ [.regs]) (bar : ℕ) :
    Kept κ s₀ (State.barFree s bar) := by
  unfold State.barFree
  try dsimp only
  repeat' first
    | with_reducible assumption
    | exact hκ.sub (by decide)
    | with_reducible apply kept_barStatus
    | with_reducible apply kept_setReg
    | with_reducible intro _ _ _ _
    | with_reducible intro _ _ _
    | with_reducible intro _ _
    | split

theorem kept_execBarrierFree (h : Kept κ s₀ s) (hκ : Off κ [.regs]) (bar : ℕ) :
    OutKept κ s₀ (execBarrierFree bar s) := by
  unfold execBarrierFree
  try dsimp only
  repeat' first
    | with_reducible assumption
    | exact hκ.sub (by decide)
    | with_reducible apply kept_barFree
    | with_reducible apply OutKept.next
    | with_reducible intro _ _ _ _
    | with_reducible intro _ _ _
    | with_reducible intro _ _
    | split

theorem kept_releaseRound (h : Kept κ s₀ s) (hκ : Off κ [.regs, .fab, .syn, .hcp, .evt, .out]) (bar : ℕ) :
    Kept κ s₀ (State.releaseRound s bar) := by
  unfold State.releaseRound
  try dsimp only
  repeat' first
    | with_reducible assumption
    | exact hκ.sub (by decide)
    | with_reducible apply kept_setRegs
    | with_reducible apply kept_onSyn
    | with_reducible apply kept_post
    | with_reducible apply kept_sendMsgs
    | with_reducible apply kept_foldl
    | with_reducible intro _ _ _ _
    | with_reducible intro _ _ _
    | with_reducible intro _ _
    | split

theorem kept_advanceRound (h : Kept κ s₀ s) (hκ : Off κ [.regs]) (bar : ℕ) :
    Kept κ s₀ (State.advanceRound s bar) := by
  unfold State.advanceRound
  try dsimp only
  repeat' first
    | with_reducible assumption
    | exact hκ.sub (by decide)
    | with_reducible apply kept_bump
    | with_reducible apply kept_setRegs
    | with_reducible intro _ _ _ _
    | with_reducible intro _ _ _
    | with_reducible intro _ _
    | split

theorem kept_completeRounds (h : Kept κ s₀ s) (hκ : Off κ [.regs, .fab, .syn, .hcp, .evt, .out]) (bar : ℕ) (a0 : ℕ) :
    Kept κ s₀ (State.completeRounds s bar a0) := by
  induction a0 generalizing s bar with
  | zero =>
    unfold State.completeRounds
    try dsimp only
    repeat' first
      | with_reducible assumption
  | succ n_ ih =>
    unfold State.completeRounds
    try dsimp only
    repeat' first
      | with_reducible assumption
      | with_reducible apply ih
      | exact hκ.sub (by decide)
      | with_reducible apply kept_releaseRound
      | with_reducible apply kept_advanceRound
      | with_reducible intro _ _ _ _
      | with_reducible intro _ _ _
      | with_reducible intro _ _
      | split

theorem kept_completeRound (h : Kept κ s₀ s) (hκ : Off κ [.regs, .fab, .syn, .hcp, .evt, .out]) (bar : ℕ) :
    Kept κ s₀ (State.completeRound s bar) := by
  unfold State.completeRound
  try dsimp only
  repeat' first
    | with_reducible assumption
    | exact hκ.sub (by decide)
    | with_reducible apply kept_completeRounds
    | with_reducible intro _ _ _ _
    | with_reducible intro _ _ _
    | with_reducible intro _ _
    | split

theorem kept_closeRound (h : Kept κ s₀ s) (hκ : Off κ [.regs, .fab, .syn, .hcp, .evt, .out]) (bar : ℕ) :
    Kept κ s₀ (State.closeRound s bar) := by
  unfold State.closeRound
  try dsimp only
  repeat' first
    | with_reducible assumption
    | exact hκ.sub (by decide)
    | with_reducible apply kept_advanceRound
    | with_reducible apply kept_completeRound
    | with_reducible intro _ _ _ _
    | with_reducible intro _ _ _
    | with_reducible intro _ _
    | split

theorem kept_barAck (h : Kept κ s₀ s) (hκ : Off κ [.regs, .fab, .syn, .hcp, .evt, .out]) (bar : ℕ) (node : ℕ) :
    Kept κ s₀ (State.barAck s bar node) := by
  unfold State.barAck
  try dsimp only
  repeat' first
    | with_reducible assumption
    | exact hκ.sub (by decide)
    | with_reducible apply kept_setReg
    | with_reducible apply kept_onSyn
    | with_reducible apply kept_closeRound
    | with_reducible intro _ _ _ _
    | with_reducible intro _ _ _
    | with_reducible intro _ _
    | split

theorem kept_arrive (h : Kept κ s₀ s) (hκ : Off κ [.regs, .fab, .syn, .hcp, .evt, .out]) (bar : ℕ) (a : ArriveMsg) :
    Kept κ s₀ (State.arrive s bar a).1 := by
  unfold State.arrive
  try dsimp only
  repeat' first
    | with_reducible assumption
    | exact hκ.sub (by decide)
    | with_reducible apply kept_bump
    | with_reducible apply kept_setReg
    | with_reducible apply kept_completeRound
    | with_reducible intro _ _ _ _
    | with_reducible intro _ _ _
    | with_reducible intro _ _
    | split

theorem kept_execReleaseAck (h : Kept κ s₀ s) (hκ : Off κ [.regs, .fab, .syn, .hcp, .evt, .out]) (src : ℕ) (bar : ℕ) (round : ℕ) :
    OutKept κ s₀ (execReleaseAck src bar round s) := by
  unfold execReleaseAck
  try dsimp only
  repeat' first
    | with_reducible assumption
    | exact hκ.sub (by decide)
    | with_reducible apply kept_takeMsg
    | with_reducible apply kept_barAck
    | with_reducible apply OutKept.next
    | with_reducible intro _ _ _ _
    | with_reducible intro _ _ _
    | with_reducible intro _ _
    | split

theorem kept_execBarrierRelease (h : Kept κ s₀ s) (hκ : Off κ [.regs, .cores, .fab, .syn, .hcp, .out]) (src : ℕ) (bar : ℕ) (round : ℕ) :
    OutKept κ s₀ (execBarrierRelease src bar round s) := by
  unfold execBarrierRelease
  try dsimp only
  repeat' first
    | with_reducible assumption
    | exact hκ.sub (by decide)
    | with_reducible apply kept_takeMsg
    | with_reducible apply kept_sendMsg
    | with_reducible apply kept_completeWaits
    | with_reducible apply OutKept.next
    | with_reducible intro _ _ _ _
    | with_reducible intro _ _ _
    | with_reducible intro _ _
    | split

theorem kept_faultBarrierWaiters (h : Kept κ s₀ s) (hκ : Off κ [.regs, .mzt, .cores, .sch, .phs, .fab, .hcp, .evt, .out]) (st : St) (a0 : List Core) :
    Kept κ s₀ (State.faultBarrierWaiters s st a0) := by
  induction a0 generalizing s st with
  | nil =>
    unfold State.faultBarrierWaiters
    try dsimp only
    repeat' first
      | with_reducible assumption
  | cons x_ l_ ih =>
    unfold State.faultBarrierWaiters
    try dsimp only
    repeat' first
      | with_reducible assumption
      | with_reducible apply ih
      | exact hκ.sub (by decide)
      | with_reducible apply kept_coreFault
      | with_reducible intro _ _ _ _
      | with_reducible intro _ _ _
      | with_reducible intro _ _
      | split

theorem kept_execBarrierAbort (h : Kept κ s₀ s) (hκ : Off κ [.regs, .mzt, .cores, .sch, .phs, .fab, .hcp, .evt, .out]) (src : ℕ) (bar : ℕ) (round : ℕ) (status : St) :
    OutKept κ s₀ (execBarrierAbort src bar round status s) := by
  unfold execBarrierAbort
  try dsimp only
  repeat' first
    | with_reducible assumption
    | exact hκ.sub (by decide)
    | with_reducible apply kept_takeMsg
    | with_reducible apply kept_faultBarrierWaiters
    | with_reducible apply OutKept.next
    | with_reducible intro _ _ _ _
    | with_reducible intro _ _ _
    | with_reducible intro _ _
    | split

theorem kept_syncNodeLost (h : Kept κ s₀ s) (hκ : Off κ [.regs, .mzt, .cores, .sch, .phs, .fab, .syn, .hcp, .evt, .out]) (node : ℕ) :
    Kept κ s₀ (State.syncNodeLost s node) := by
  unfold State.syncNodeLost
  try dsimp only
  repeat' first
    | with_reducible assumption
    | exact hκ.sub (by decide)
    | with_reducible apply kept_barAck
    | with_reducible apply kept_post
    | with_reducible apply kept_faultBarrierWaiters
    | with_reducible apply kept_foldl
    | with_reducible intro _ _ _ _
    | with_reducible intro _ _ _
    | with_reducible intro _ _
    | split

theorem kept_execWaitLimitExpiry (h : Kept κ s₀ s) (hκ : Off κ [.regs, .mzt, .cores, .sch, .phs, .fab, .hcp, .evt, .out]) (core : ℕ) :
    OutKept κ s₀ (execWaitLimitExpiry core s) := by
  unfold execWaitLimitExpiry
  try dsimp only
  repeat' first
    | with_reducible assumption
    | exact hκ.sub (by decide)
    | with_reducible apply kept_coreFault
    | with_reducible apply kept_bump
    | with_reducible apply OutKept.next
    | with_reducible intro _ _ _ _
    | with_reducible intro _ _ _
    | with_reducible intro _ _
    | split

theorem kept_execWaitGateExpiry (h : Kept κ s₀ s) (hκ : Off κ [.cores]) (core : ℕ) :
    OutKept κ s₀ (execWaitGateExpiry core s) := by
  unfold execWaitGateExpiry
  try dsimp only
  repeat' first
    | with_reducible assumption
    | exact hκ.sub (by decide)
    | with_reducible apply kept_putCore
    | with_reducible apply OutKept.next
    | with_reducible intro _ _ _ _
    | with_reducible intro _ _ _
    | with_reducible intro _ _
    | split

theorem kept_markObjects (h : Kept κ s₀ s) (hκ : Off κ [.regs, .syn]) (c : ℕ) (d : Desc) :
    Kept κ s₀ (State.markObjects s c d) := by
  unfold State.markObjects
  try dsimp only
  repeat' first
    | with_reducible assumption
    | exact hκ.sub (by decide)
    | with_reducible apply kept_onSyn
    | with_reducible apply kept_setReg
    | with_reducible apply kept_foldl
    | with_reducible intro _ _ _ _
    | with_reducible intro _ _ _
    | with_reducible intro _ _
    | split

theorem kept_residueTile (h : Kept κ s₀ s) (hκ : Off κ [.regs, .fab, .hcp, .evt, .out]) (c : ℕ) (bad : List CtrOwner) (t_ : ℕ) :
    Kept κ s₀ (State.residueTile s c bad t_) := by
  unfold State.residueTile
  try dsimp only
  repeat' first
    | with_reducible assumption
    | exact hκ.sub (by decide)
    | with_reducible apply kept_post
    | with_reducible intro _ _ _ _
    | with_reducible intro _ _ _
    | with_reducible intro _ _
    | split

theorem kept_residueCheck (h : Kept κ s₀ s) (hκ : Off κ [.regs, .fab, .syn, .hcp, .evt, .out]) (c : ℕ) :
    Kept κ s₀ (State.residueCheck s c) := by
  unfold State.residueCheck
  try dsimp only
  repeat' first
    | with_reducible assumption
    | exact hκ.sub (by decide)
    | with_reducible apply kept_residueTile
    | with_reducible apply kept_post
    | with_reducible apply kept_count
    | with_reducible apply kept_setReg
    | with_reducible apply kept_onSyn
    | with_reducible apply kept_foldl
    | with_reducible intro _ _ _ _
    | with_reducible intro _ _ _
    | with_reducible intro _ _
    | split

end Sys2Proof.Machine
end

