-- ==== Sys2Proof/Laws/KeptRegions.lean ====
section
/-! SUPPORT. What the operations of Machine/Regions.lean keep (see Laws/Kept.lean). -/

namespace Sys2Proof.Machine

variable {κ : Part → Bool} {s₀ s : State}

theorem kept_putRegion (h : Kept κ s₀ s) (hκ : Off κ [.fab]) (r : Region) :
    Kept κ s₀ (State.putRegion s r) := by
  unfold State.putRegion
  try dsimp only
  repeat' first
    | with_reducible assumption
    | exact hκ.sub (by decide)
    | with_reducible apply kept_onFab
    | with_reducible intro _ _ _ _
    | with_reducible intro _ _ _
    | with_reducible intro _ _
    | split

theorem kept_regionLooked (h : Kept κ s₀ s) (hκ : Off κ [.regs]) (src : ℕ) (h_ : OpHdr) :
    Kept κ s₀ (State.regionLooked s src h_) := by
  unfold State.regionLooked
  try dsimp only
  repeat' first
    | with_reducible assumption
    | exact hκ.sub (by decide)
    | with_reducible apply kept_next
    | with_reducible apply kept_bump
    | with_reducible intro _ _ _ _
    | with_reducible intro _ _ _
    | with_reducible intro _ _
    | split
    | dsimp only [itself]
    | refine Kept.of_snd ?_ (by with_reducible assumption)

theorem kept_countRefusal (h : Kept κ s₀ s) (hκ : Off κ [.regs]) (r : Option St) :
    Kept κ s₀ (State.countRefusal s r) := by
  unfold State.countRefusal
  try dsimp only
  repeat' first
    | with_reducible assumption
    | exact hκ.sub (by decide)
    | with_reducible apply kept_bump
    | with_reducible intro _ _ _ _
    | with_reducible intro _ _ _
    | with_reducible intro _ _
    | split

theorem kept_respond (h : Kept κ s₀ s) (hκ : Off κ [.regs, .fab, .hcp, .out]) (f : Frame) (b : Body) (poison : Bool) :
    Kept κ s₀ (State.respond s f b poison) := by
  unfold State.respond
  try dsimp only
  repeat' first
    | with_reducible assumption
    | exact hκ.sub (by decide)
    | with_reducible apply kept_inject
    | with_reducible apply kept_queueFrame
    | with_reducible intro _ _ _ _
    | with_reducible intro _ _ _
    | with_reducible intro _ _
    | split

theorem kept_atomicAt (h : Kept κ s₀ s) (hκ : Off κ [.mem, .regs, .cores, .syn]) (space : ℕ) (off : ℕ) (aop : ℕ) (operand : ℕ) (compare : ℕ) :
    Kept κ s₀ (State.atomicAt s space off aop operand compare).2 := by
  unfold State.atomicAt
  try dsimp only
  repeat' first
    | with_reducible assumption
    | exact hκ.sub (by decide)
    | with_reducible apply kept_setCounter
    | with_reducible apply kept_wrNum
    | with_reducible intro _ _ _ _
    | with_reducible intro _ _ _
    | with_reducible intro _ _
    | split

theorem kept_atomicFrame (h : Kept κ s₀ s) (hκ : Off κ [.mem, .regs, .cores, .fab, .syn, .hcp, .out]) (f : Frame) (h_ : OpHdr) (aop : ℕ) (operand : ℕ) (compare : ℕ) :
    Kept κ s₀ (State.atomicFrame s f h_ aop operand compare) := by
  unfold State.atomicFrame
  try dsimp only
  repeat' first
    | with_reducible assumption
    | exact hκ.sub (by decide)
    | with_reducible apply kept_respond
    | with_reducible apply kept_countRefusal
    | with_reducible apply kept_atomicAt
    | with_reducible apply kept_regionLooked
    | with_reducible intro _ _ _ _
    | with_reducible intro _ _ _
    | with_reducible intro _ _
    | split
    | dsimp only [itself]
    | refine Kept.of_snd ?_ (by with_reducible assumption)

theorem kept_applySignal (h : Kept κ s₀ s) (hκ : Off κ [.regs, .cores, .fab, .syn, .hcp, .evt, .out]) (f : Frame) :
    Kept κ s₀ (State.applySignal s f) := by
  unfold State.applySignal
  try dsimp only
  repeat' first
    | with_reducible assumption
    | exact hκ.sub (by decide)
    | with_reducible apply kept_respond
    | with_reducible apply kept_addCounter
    | with_reducible apply kept_countRefusal
    | with_reducible apply kept_arrive
    | with_reducible apply kept_regionLooked
    | with_reducible intro _ _ _ _
    | with_reducible intro _ _ _
    | with_reducible intro _ _
    | split
    | dsimp only [itself]
    | refine Kept.of_fst ?_ (by with_reducible assumption)

theorem kept_deliver (h : Kept κ s₀ s) (hκ : Off κ [.fab]) (src : ℕ) (m : Msg) :
    Kept κ s₀ (State.deliver s src m) := by
  unfold State.deliver
  try dsimp only
  repeat' first
    | with_reducible assumption
    | exact hκ.sub (by decide)
    | with_reducible apply kept_onFab
    | with_reducible intro _ _ _ _
    | with_reducible intro _ _ _
    | with_reducible intro _ _
    | split

theorem kept_nakWith (h : Kept κ s₀ s) (hκ : Off κ [.regs, .fab, .hcp, .out]) (src : ℕ) (m : Msg) (st : St) :
    Kept κ s₀ (State.nakWith s src m st) := by
  unfold State.nakWith
  try dsimp only
  repeat' first
    | with_reducible assumption
    | exact hκ.sub (by decide)
    | with_reducible apply kept_inject
    | with_reducible intro _ _ _ _
    | with_reducible intro _ _ _
    | with_reducible intro _ _
    | split

theorem kept_nakMsg (h : Kept κ s₀ s) (hκ : Off κ [.regs, .fab, .hcp, .out]) (src : ℕ) (m : Msg) :
    Kept κ s₀ (State.nakMsg s src m) := by
  unfold State.nakMsg
  try dsimp only
  repeat' first
    | with_reducible assumption
    | exact hκ.sub (by decide)
    | with_reducible apply kept_nakWith
    | with_reducible intro _ _ _ _
    | with_reducible intro _ _ _
    | with_reducible intro _ _
    | split

theorem kept_takeIn (h : Kept κ s₀ s) (hκ : Off κ [.regs, .rse, .fab, .hcp, .out]) (f : Frame) (m : Msg) :
    Kept κ s₀ (State.takeIn s f m) := by
  unfold State.takeIn
  try dsimp only
  repeat' first
    | with_reducible assumption
    | exact hκ.sub (by decide)
    | with_reducible apply kept_nakMsg
    | with_reducible apply kept_deliver
    | with_reducible apply kept_hear
    | with_reducible intro _ _ _ _
    | with_reducible intro _ _ _
    | with_reducible intro _ _
    | split

theorem kept_flowing (h : Kept κ s₀ s) (hκ : Off κ [.regs, .rse, .cores, .fab, .syn, .hcp, .evt, .out]) (src : ℕ) (a1 : ℕ) :
    Kept κ s₀ (State.flowing s src a1) := by
  induction a1 generalizing s with
  | zero =>
    unfold State.flowing
    try dsimp only
    repeat' first
      | with_reducible assumption
      | exact hκ.sub (by decide)
      | with_reducible apply kept_takeIn
      | with_reducible apply kept_takeOrdered
      | with_reducible apply kept_setHeld
      | with_reducible apply kept_applySignal
      | with_reducible intro _ _ _ _
      | with_reducible intro _ _ _
      | with_reducible intro _ _
      | split
  | succ n_ ih =>
    unfold State.flowing
    try dsimp only
    repeat' first
      | with_reducible assumption
      | with_reducible apply ih
      | exact hκ.sub (by decide)
      | with_reducible apply kept_takeIn
      | with_reducible apply kept_takeOrdered
      | with_reducible apply kept_setHeld
      | with_reducible apply kept_applySignal
      | with_reducible intro _ _ _ _
      | with_reducible intro _ _ _
      | with_reducible intro _ _
      | split

theorem kept_flow (h : Kept κ s₀ s) (hκ : Off κ [.regs, .rse, .cores, .fab, .syn, .hcp, .evt, .out]) (src : ℕ) :
    Kept κ s₀ (State.flow s src) := by
  unfold State.flow
  try dsimp only
  repeat' first
    | with_reducible assumption
    | exact hκ.sub (by decide)
    | with_reducible apply kept_flowing
    | with_reducible intro _ _ _ _
    | with_reducible intro _ _ _
    | with_reducible intro _ _
    | split

theorem kept_flowAll (h : Kept κ s₀ s) (hκ : Off κ [.regs, .rse, .cores, .fab, .syn, .hcp, .evt, .out]) (srcs : List ℕ) :
    Kept κ s₀ (State.flowAll s srcs) := by
  unfold State.flowAll
  try dsimp only
  repeat' first
    | with_reducible assumption
    | exact hκ.sub (by decide)
    | with_reducible apply kept_flow
    | with_reducible apply kept_foldl
    | with_reducible intro _ _ _ _
    | with_reducible intro _ _ _
    | with_reducible intro _ _
    | split

theorem kept_account (h : Kept κ s₀ s) (hκ : Off κ [.regs, .rse, .cores, .fab, .syn, .hcp, .evt, .out]) (src : ℕ) (n : ℕ) :
    Kept κ s₀ (State.account s src n) := by
  unfold State.account
  try dsimp only
  repeat' first
    | with_reducible assumption
    | exact hκ.sub (by decide)
    | with_reducible apply kept_putIn
    | with_reducible apply kept_flow
    | with_reducible intro _ _ _ _
    | with_reducible intro _ _ _
    | with_reducible intro _ _
    | split

theorem kept_coverExpired (h : Kept κ s₀ s) (hκ : Off κ [.regs, .rse, .cores, .fab, .syn, .hcp, .evt, .out]) (src : ℕ) :
    Kept κ s₀ (State.coverExpired s src) := by
  unfold State.coverExpired
  try dsimp only
  repeat' first
    | with_reducible assumption
    | exact hκ.sub (by decide)
    | with_reducible apply kept_respond
    | with_reducible apply kept_takeOrdered
    | with_reducible apply kept_setHeld
    | with_reducible apply kept_flow
    | with_reducible intro _ _ _ _
    | with_reducible intro _ _ _
    | with_reducible intro _ _
    | split

theorem kept_holdOwn (h : Kept κ s₀ s) (hκ : Off κ [.regs, .rse, .cores, .fab, .syn, .hcp, .evt, .out]) (f : Frame) :
    Kept κ s₀ (State.holdOwn s f) := by
  unfold State.holdOwn
  try dsimp only
  repeat' first
    | with_reducible assumption
    | exact hκ.sub (by decide)
    | with_reducible apply kept_flow
    | with_reducible apply kept_queueFrame
    | with_reducible intro _ _ _ _
    | with_reducible intro _ _ _
    | with_reducible intro _ _
    | split

theorem kept_sprayNak (h : Kept κ s₀ s) (hκ : Off κ [.regs, .fab, .hcp, .out]) (f : Frame) (msgId : ℕ) (region : ℕ) (addr : ℕ) (st : St) :
    Kept κ s₀ (State.sprayNak s f msgId region addr st) := by
  unfold State.sprayNak
  try dsimp only
  repeat' first
    | with_reducible assumption
    | exact hκ.sub (by decide)
    | with_reducible apply kept_respond
    | with_reducible apply kept_onFab
    | with_reducible intro _ _ _ _
    | with_reducible intro _ _ _
    | with_reducible intro _ _
    | split

theorem kept_regionStatus (h : Kept κ s₀ s) (hκ : Off κ [.regs]) (op : ℕ) (n : ℕ) (st : St) :
    Kept κ s₀ (State.regionStatus s op n st) := by
  unfold State.regionStatus
  try dsimp only
  repeat' first
    | with_reducible assumption
    | exact hκ.sub (by decide)
    | with_reducible apply kept_setRegs
    | with_reducible intro _ _ _ _
    | with_reducible intro _ _ _
    | with_reducible intro _ _
    | split

theorem kept_regionRegister (h : Kept κ s₀ s) (hκ : Off κ [.regs, .fab]) (n : ℕ) :
    Kept κ s₀ (State.regionRegister s n).1 := by
  unfold State.regionRegister
  try dsimp only
  repeat' first
    | with_reducible assumption
    | exact hκ.sub (by decide)
    | with_reducible apply kept_regionStatus
    | with_reducible apply kept_putRegion
    | with_reducible intro _ _ _ _
    | with_reducible intro _ _ _
    | with_reducible intro _ _
    | split

theorem kept_regionRevoke (h : Kept κ s₀ s) (hκ : Off κ [.regs, .fab]) (n : ℕ) :
    Kept κ s₀ (State.regionRevoke s n).1 := by
  unfold State.regionRevoke
  try dsimp only
  repeat' first
    | with_reducible assumption
    | exact hκ.sub (by decide)
    | with_reducible apply kept_regionStatus
    | with_reducible apply kept_setRegs
    | with_reducible apply kept_onFab
    | with_reducible apply kept_putRegion
    | with_reducible intro _ _ _ _
    | with_reducible intro _ _ _
    | with_reducible intro _ _
    | split

theorem kept_execRegionRegister (h : Kept κ s₀ s) (hκ : Off κ [.regs, .fab]) (region : ℕ) :
    OutKept κ s₀ (execRegionRegister region s) := by
  unfold execRegionRegister
  try dsimp only
  repeat' first
    | with_reducible assumption
    | exact hκ.sub (by decide)
    | with_reducible apply kept_regionRegister
    | with_reducible apply OutKept.next
    | with_reducible intro _ _ _ _
    | with_reducible intro _ _ _
    | with_reducible intro _ _
    | split
    | dsimp only [itself]
    | refine Kept.of_fst ?_ (by with_reducible assumption)

theorem kept_execRegionRevoke (h : Kept κ s₀ s) (hκ : Off κ [.regs, .fab]) (region : ℕ) :
    OutKept κ s₀ (execRegionRevoke region s) := by
  unfold execRegionRevoke
  try dsimp only
  repeat' first
    | with_reducible assumption
    | exact hκ.sub (by decide)
    | with_reducible apply kept_regionRevoke
    | with_reducible apply OutKept.next
    | with_reducible intro _ _ _ _
    | with_reducible intro _ _ _
    | with_reducible intro _ _
    | split
    | dsimp only [itself]
    | refine Kept.of_fst ?_ (by with_reducible assumption)

theorem kept_regionRead (h : Kept κ s₀ s) (hκ : Off κ [.regs]) (n : ℕ) :
    Kept κ s₀ (State.regionRead s n) := by
  unfold State.regionRead
  try dsimp only
  repeat' first
    | with_reducible assumption
    | exact hκ.sub (by decide)
    | with_reducible apply kept_regionStatus
    | with_reducible apply kept_setRegs
    | with_reducible intro _ _ _ _
    | with_reducible intro _ _ _
    | with_reducible intro _ _
    | split

theorem kept_execRegionRead (h : Kept κ s₀ s) (hκ : Off κ [.regs]) (region : ℕ) :
    OutKept κ s₀ (execRegionRead region s) := by
  unfold execRegionRead
  try dsimp only
  repeat' first
    | with_reducible assumption
    | exact hκ.sub (by decide)
    | with_reducible apply kept_regionRead
    | with_reducible apply OutKept.next
    | with_reducible intro _ _ _ _
    | with_reducible intro _ _ _
    | with_reducible intro _ _
    | split

theorem kept_execRevokeComplete (h : Kept κ s₀ s) (hκ : Off κ [.regs, .fab, .hcp, .evt, .out])  :
    OutKept κ s₀ (execRevokeComplete s) := by
  unfold execRevokeComplete
  try dsimp only
  repeat' first
    | with_reducible assumption
    | exact hκ.sub (by decide)
    | with_reducible apply kept_onFab
    | with_reducible apply kept_setRegs
    | with_reducible apply kept_post
    | with_reducible apply OutKept.next
    | with_reducible intro _ _ _ _
    | with_reducible intro _ _ _
    | with_reducible intro _ _
    | split

theorem kept_regionBaseWrite (h : Kept κ s₀ s) (hκ : Off κ [.regs]) (value : ℕ) :
    Kept κ s₀ (State.regionBaseWrite s value).1 := by
  unfold State.regionBaseWrite
  try dsimp only
  repeat' first
    | with_reducible assumption
    | exact hκ.sub (by decide)
    | with_reducible apply kept_setReg
    | with_reducible intro _ _ _ _
    | with_reducible intro _ _ _
    | with_reducible intro _ _
    | split

theorem kept_execFabRegionBaseWrite (h : Kept κ s₀ s) (hκ : Off κ [.regs]) (value : ℕ) :
    OutKept κ s₀ (execFabRegionBaseWrite value s) := by
  unfold execFabRegionBaseWrite
  try dsimp only
  repeat' first
    | with_reducible assumption
    | exact hκ.sub (by decide)
    | with_reducible apply kept_regionBaseWrite
    | with_reducible apply OutKept.next
    | with_reducible intro _ _ _ _
    | with_reducible intro _ _ _
    | with_reducible intro _ _
    | split
    | dsimp only [itself]
    | refine Kept.of_fst ?_ (by with_reducible assumption)

end Sys2Proof.Machine
end

