-- ==== Sys2Proof/Laws/KeptRegAccess.lean ====
section
/-! SUPPORT. What the operations of Machine/RegAccess.lean keep (see Laws/Kept.lean). -/

namespace Sys2Proof.Machine

variable {κ : Part → Bool} {s₀ s : State}

theorem kept_writeRw (h : Kept κ s₀ s) (hκ : Off κ [.regs]) (addr : ℕ) (value : ℕ) :
    Kept κ s₀ (State.writeRw s addr value) := by
  unfold State.writeRw
  try dsimp only
  repeat' first
    | with_reducible assumption
    | exact hκ.sub (by decide)
    | with_reducible apply kept_setRegs
    | with_reducible intro _ _ _ _
    | with_reducible intro _ _ _
    | with_reducible intro _ _
    | split

theorem kept_copyMem (h : Kept κ s₀ s) (hκ : Off κ [.mem]) (m1 : Mem) (a1 : ℕ) (m2 : Mem) (a2 : ℕ) (n : ℕ) :
    Kept κ s₀ (State.copyMem s m1 a1 m2 a2 n) := by
  unfold State.copyMem
  try dsimp only
  repeat' first
    | with_reducible assumption
    | exact hκ.sub (by decide)
    | with_reducible apply kept_wr
    | with_reducible apply kept_markPoison
    | with_reducible apply kept_foldl
    | with_reducible intro _ _ _ _
    | with_reducible intro _ _ _
    | with_reducible intro _ _
    | split

theorem kept_place (h : Kept κ s₀ s) (hκ : Off κ [.mem]) (m : Mem) (a : ℕ) (bs : List Sys2Proof.Byte) (poison : Bool) :
    Kept κ s₀ (State.place s m a bs poison) := by
  unfold State.place
  try dsimp only
  repeat' first
    | with_reducible assumption
    | exact hκ.sub (by decide)
    | with_reducible apply kept_wr
    | with_reducible apply kept_markPoison
    | with_reducible intro _ _ _ _
    | with_reducible intro _ _ _
    | with_reducible intro _ _
    | split

theorem kept_calc (h : Kept κ s₀ s) {α : Type} (c : Calc α) :
    Kept κ s₀ (State.calc s c).2 := by
  unfold State.calc
  try dsimp only
  repeat' first
    | with_reducible assumption
    | with_reducible apply kept_setFresh
    | with_reducible intro _ _ _ _
    | with_reducible intro _ _ _
    | with_reducible intro _ _
    | split

end Sys2Proof.Machine
end

