-- ==== Sys2Proof/Laws/KeptRoce.lean ====
section
/-! SUPPORT. What the operations of Machine/Roce.lean keep (see Laws/Kept.lean). -/

namespace Sys2Proof.Machine

variable {κ : Part → Bool} {s₀ s : State}

theorem kept_putQp (h : Kept κ s₀ s) (hκ : Off κ [.hcp]) (q : Qp) :
    Kept κ s₀ (State.putQp s q) := by
  unfold State.putQp
  try dsimp only
  repeat' first
    | with_reducible assumption
    | exact hκ.sub (by decide)
    | with_reducible apply kept_onHcp
    | with_reducible intro _ _ _ _
    | with_reducible intro _ _ _
    | with_reducible intro _ _
    | split

theorem kept_roceSend (h : Kept κ s₀ s) (hκ : Off κ [.hcp, .out]) (qp : ℕ) (a0 : List RoceOp) :
    Kept κ s₀ (State.roceSend s qp a0) := by
  induction a0 generalizing s qp with
  | nil =>
    unfold State.roceSend
    try dsimp only
    repeat' first
      | with_reducible assumption
  | cons x_ l_ ih =>
    unfold State.roceSend
    try dsimp only
    repeat' first
      | with_reducible assumption
      | with_reducible apply ih
      | exact hκ.sub (by decide)
      | with_reducible apply kept_hostSend
      | with_reducible intro _ _ _ _
      | with_reducible intro _ _ _
      | with_reducible intro _ _
      | split

theorem kept_roceIssue (h : Kept κ s₀ s) (hκ : Off κ [.hcp, .out]) (qp : ℕ) (o : RoceOp) :
    OptKept κ s₀ itself (State.roceIssue s qp o) := by
  unfold State.roceIssue
  try dsimp only
  repeat' first
    | with_reducible assumption
    | exact hκ.sub (by decide)
    | with_reducible apply kept_roceSend
    | with_reducible apply kept_putQp
    | exact OptKept.none
    | with_reducible apply OptKept.some
    | with_reducible intro _ _ _ _
    | with_reducible intro _ _ _
    | with_reducible intro _ _
    | split

theorem kept_rocePop (h : Kept κ s₀ s) (hκ : Off κ [.hcp, .out]) (q : Qp) :
    Kept κ s₀ (State.rocePop s q) := by
  unfold State.rocePop
  try dsimp only
  repeat' first
    | with_reducible assumption
    | exact hκ.sub (by decide)
    | with_reducible apply kept_roceSend
    | with_reducible apply kept_putQp
    | with_reducible intro _ _ _ _
    | with_reducible intro _ _ _
    | with_reducible intro _ _
    | split

end Sys2Proof.Machine
end

