-- ==== Sys2Proof/Laws/KeptXfr.lean ====
section
/-! SUPPORT. What the operations of Machine/Xfr.lean keep (see Laws/Kept.lean). -/

namespace Sys2Proof.Machine

variable {κ : Part → Bool} {s₀ s : State}

theorem kept_putXq (h : Kept κ s₀ s) (hκ : Off κ [.xfr]) (x : XQueue) :
    Kept κ s₀ (State.putXq s x) := by
  unfold State.putXq
  try dsimp only
  repeat' first
    | with_reducible assumption
    | exact hκ.sub (by decide)
    | with_reducible apply kept_onXfr
    | with_reducible intro _ _ _ _
    | with_reducible intro _ _ _
    | with_reducible intro _ _
    | split

theorem kept_putFlight (h : Kept κ s₀ s) (hκ : Off κ [.xfr]) (r : XReq) :
    Kept κ s₀ (State.putFlight s r) := by
  unfold State.putFlight
  try dsimp only
  repeat' first
    | with_reducible assumption
    | exact hκ.sub (by decide)
    | with_reducible apply kept_onXfr
    | with_reducible intro _ _ _ _
    | with_reducible intro _ _ _
    | with_reducible intro _ _
    | split

theorem kept_endFlush (h : Kept κ s₀ s) (hκ : Off κ [.regs, .xfr]) (q : ℕ) :
    Kept κ s₀ (State.endFlush s q) := by
  unfold State.endFlush
  try dsimp only
  repeat' first
    | with_reducible assumption
    | exact hκ.sub (by decide)
    | with_reducible apply kept_onXfr
    | with_reducible apply kept_setRegs
    | with_reducible intro _ _ _ _
    | with_reducible intro _ _ _
    | with_reducible intro _ _
    | split

theorem kept_queueError (h : Kept κ s₀ s) (hκ : Off κ [.regs, .fab, .hcp, .evt, .out]) (q : ℕ) (idx : ℕ) (st : St) :
    Kept κ s₀ (State.queueError s q idx st) := by
  unfold State.queueError
  try dsimp only
  repeat' first
    | with_reducible assumption
    | exact hκ.sub (by decide)
    | with_reducible apply kept_setRegs
    | with_reducible apply kept_post
    | with_reducible intro _ _ _ _
    | with_reducible intro _ _ _
    | with_reducible intro _ _
    | split

theorem kept_writeDone (h : Kept κ s₀ s) (hκ : Off κ [.mem]) (q : ℕ) (idx : ℕ) (st : St) :
    Kept κ s₀ (State.writeDone s q idx st) := by
  unfold State.writeDone
  try dsimp only
  repeat' first
    | with_reducible assumption
    | exact hκ.sub (by decide)
    | with_reducible apply kept_wrNum
    | with_reducible intro _ _ _ _
    | with_reducible intro _ _ _
    | with_reducible intro _ _
    | split

theorem kept_reduceFault (h : Kept κ s₀ s) (hκ : Off κ [.regs, .mzt, .cores, .sch, .phs, .fab, .hcp, .evt, .out]) (ctx : ℕ) (st : St) :
    Kept κ s₀ (State.reduceFault s ctx st) := by
  unfold State.reduceFault
  try dsimp only
  repeat' first
    | with_reducible assumption
    | exact hκ.sub (by decide)
    | with_reducible apply kept_faultCtx
    | with_reducible apply kept_post
    | with_reducible intro _ _ _ _
    | with_reducible intro _ _ _
    | with_reducible intro _ _
    | split

theorem kept_notifyLocal (h : Kept κ s₀ s) (hκ : Off κ [.regs, .cores, .syn]) (wr : WorkReq) :
    Kept κ s₀ (State.notifyLocal s wr) := by
  unfold State.notifyLocal
  try dsimp only
  repeat' first
    | with_reducible assumption
    | exact hκ.sub (by decide)
    | with_reducible apply kept_addCounter
    | with_reducible intro _ _ _ _
    | with_reducible intro _ _ _
    | with_reducible intro _ _
    | split

theorem kept_completeReq (h : Kept κ s₀ s) (hκ : Off κ [.mem, .regs, .rse, .mzt, .cores, .sch, .phs, .fab, .xfr, .syn, .hcp, .evt, .out]) (r : XReq) (st : St) :
    Kept κ s₀ (State.completeReq s r st) := by
  unfold State.completeReq
  try dsimp only
  repeat' first
    | with_reducible assumption
    | exact hκ.sub (by decide)
    | with_reducible apply kept_onXfr
    | with_reducible apply kept_notifyLocal
    | with_reducible apply kept_writeDone
    | with_reducible apply kept_bump
    | with_reducible apply kept_setReg
    | with_reducible apply kept_putXq
    | with_reducible apply kept_queueError
    | with_reducible apply kept_onRse
    | with_reducible apply kept_reduceFault
    | with_reducible apply kept_endFlush
    | with_reducible intro _ _ _ _
    | with_reducible intro _ _ _
    | with_reducible intro _ _
    | split

theorem kept_dropWaiting (h : Kept κ s₀ s) (hκ : Off κ [.mem, .regs, .rse, .mzt, .cores, .sch, .phs, .fab, .xfr, .syn, .hcp, .evt, .out]) (q : ℕ) (st : St) (a0 : ℕ) :
    Kept κ s₀ (State.dropWaiting s q st a0) := by
  induction a0 generalizing s q st with
  | zero =>
    unfold State.dropWaiting
    try dsimp only
    repeat' first
      | with_reducible assumption
  | succ n_ ih =>
    unfold State.dropWaiting
    try dsimp only
    repeat' first
      | with_reducible assumption
      | with_reducible apply ih
      | exact hκ.sub (by decide)
      | with_reducible apply kept_completeReq
      | with_reducible apply kept_putXq
      | with_reducible intro _ _ _ _
      | with_reducible intro _ _ _
      | with_reducible intro _ _
      | split

theorem kept_flushQueue (h : Kept κ s₀ s) (hκ : Off κ [.mem, .regs, .rse, .mzt, .cores, .sch, .phs, .fab, .xfr, .syn, .hcp, .evt, .out]) (q : ℕ) :
    Kept κ s₀ (State.flushQueue s q) := by
  unfold State.flushQueue
  try dsimp only
  repeat' first
    | with_reducible assumption
    | exact hκ.sub (by decide)
    | with_reducible apply kept_endFlush
    | with_reducible apply kept_setReg
    | with_reducible apply kept_dropWaiting
    | with_reducible intro _ _ _ _
    | with_reducible intro _ _ _
    | with_reducible intro _ _
    | split

theorem kept_flushDeviceQueue (h : Kept κ s₀ s) (hκ : Off κ [.mem, .regs, .rse, .mzt, .cores, .sch, .phs, .fab, .xfr, .syn, .hcp, .evt, .out]) (q : ℕ) :
    Kept κ s₀ (State.flushDeviceQueue s q) := by
  unfold State.flushDeviceQueue
  try dsimp only
  repeat' first
    | with_reducible assumption
    | exact hκ.sub (by decide)
    | with_reducible apply kept_setReg
    | with_reducible apply kept_dropWaiting
    | with_reducible intro _ _ _ _
    | with_reducible intro _ _ _
    | with_reducible intro _ _
    | split

theorem kept_flushCtxQueues (h : Kept κ s₀ s) (hκ : Off κ [.mem, .regs, .rse, .mzt, .cores, .sch, .phs, .fab, .xfr, .syn, .hcp, .evt, .out]) (c : ℕ) :
    Kept κ s₀ (State.flushCtxQueues s c) := by
  unfold State.flushCtxQueues
  try dsimp only
  repeat' first
    | with_reducible assumption
    | exact hκ.sub (by decide)
    | with_reducible apply kept_flushQueue
    | with_reducible apply kept_foldl
    | with_reducible intro _ _ _ _
    | with_reducible intro _ _ _
    | with_reducible intro _ _
    | split

theorem kept_postDevice (h : Kept κ s₀ s) (hκ : Off κ [.regs, .xfr]) (ctx : ℕ) (ws : List WorkReq) :
    Kept κ s₀ (State.postDevice s ctx ws).2 := by
  unfold State.postDevice
  try dsimp only
  repeat' first
    | with_reducible assumption
    | exact hκ.sub (by decide)
    | with_reducible apply kept_setRegs
    | with_reducible apply kept_putXq
    | with_reducible intro _ _ _ _
    | with_reducible intro _ _ _
    | with_reducible intro _ _
    | split

theorem kept_startNext (h : Kept κ s₀ s) (hκ : Off κ [.mem, .regs, .rse, .mzt, .cores, .sch, .phs, .fab, .xfr, .syn, .hcp, .evt, .out]) (q op : Nat) (run : State → XReq → State)
    (hrun : ∀ u r, Kept κ s₀ u → Kept κ s₀ (run u r)) : Kept κ s₀ (State.startNext s q op run) := by
  unfold State.startNext
  dsimp only
  split
  · exact h
  · split
    · exact h
    · split
      · exact kept_completeReq (kept_putXq h (hκ.sub (by decide)) _) (hκ.sub (by decide)) _ _
      · exact hrun _ _ (kept_putXq h (hκ.sub (by decide)) _)

theorem kept_addRemote (h : Kept κ s₀ s) (hκ : Off κ [.fab]) (o : RemoteOp) :
    Kept κ s₀ (State.addRemote s o) := by
  unfold State.addRemote
  try dsimp only
  repeat' first
    | with_reducible assumption
    | exact hκ.sub (by decide)
    | with_reducible apply kept_onFab
    | with_reducible intro _ _ _ _
    | with_reducible intro _ _ _
    | with_reducible intro _ _
    | split

theorem kept_dropRemote (h : Kept κ s₀ s) (hκ : Off κ [.fab]) (tag : ℕ) :
    Kept κ s₀ (State.dropRemote s tag) := by
  unfold State.dropRemote
  try dsimp only
  repeat' first
    | with_reducible assumption
    | exact hκ.sub (by decide)
    | with_reducible apply kept_onFab
    | with_reducible intro _ _ _ _
    | with_reducible intro _ _ _
    | with_reducible intro _ _
    | split

theorem kept_injectOr (h : Kept κ s₀ s) (hκ : Off κ [.regs, .rse, .cores, .fab, .syn, .hcp, .evt, .out]) (comp : Option ℕ) (f : Frame) :
    Kept κ s₀ (State.injectOr s comp f) := by
  unfold State.injectOr
  try dsimp only
  repeat' first
    | with_reducible assumption
    | exact hκ.sub (by decide)
    | with_reducible apply kept_holdOwn
    | with_reducible apply kept_inject
    | with_reducible intro _ _ _ _
    | with_reducible intro _ _ _
    | with_reducible intro _ _
    | split

theorem kept_remoteReq (h : Kept κ s₀ s) (hκ : Off κ [.mem, .regs, .rse, .mzt, .cores, .sch, .phs, .fab, .xfr, .syn, .hcp, .evt, .out]) (r : XReq) (kind : RemoteKind) (body : OpHdr → Body) :
    Kept κ s₀ (State.remoteReq s r kind body) := by
  unfold State.remoteReq
  try dsimp only
  repeat' first
    | with_reducible assumption
    | exact hκ.sub (by decide)
    | with_reducible apply kept_completeReq
    | with_reducible apply kept_addRemote
    | with_reducible apply kept_putFlight
    | with_reducible apply kept_injectOr
    | with_reducible intro _ _ _ _
    | with_reducible intro _ _ _
    | with_reducible intro _ _
    | split

theorem kept_startAtomic (h : Kept κ s₀ s) (hκ : Off κ [.mem, .regs, .rse, .mzt, .cores, .sch, .phs, .fab, .xfr, .syn, .hcp, .evt, .out]) (r : XReq) :
    Kept κ s₀ (State.startAtomic s r) := by
  unfold State.startAtomic
  try dsimp only
  repeat' first
    | with_reducible assumption
    | exact hκ.sub (by decide)
    | with_reducible apply kept_remoteReq
    | with_reducible apply kept_completeReq
    | with_reducible apply kept_atomicAt
    | with_reducible apply kept_wrNum
    | with_reducible intro _ _ _ _
    | with_reducible intro _ _ _
    | with_reducible intro _ _
    | split
    | dsimp only [itself]
    | refine Kept.of_snd ?_ (by with_reducible assumption)

theorem kept_execXfrAtomic (h : Kept κ s₀ s) (hκ : Off κ [.mem, .regs, .rse, .mzt, .cores, .sch, .phs, .fab, .xfr, .syn, .hcp, .evt, .out]) (q : ℕ) :
    OutKept κ s₀ (execXfrAtomic q s) := by
  unfold execXfrAtomic
  try dsimp only
  repeat' first
    | with_reducible assumption
    | exact hκ.sub (by decide)
    | with_reducible apply kept_startNext
    | with_reducible apply kept_startAtomic
    | with_reducible apply OutKept.next
    | with_reducible intro _ _ _ _
    | with_reducible intro _ _ _
    | with_reducible intro _ _
    | split

theorem kept_startSignal (h : Kept κ s₀ s) (hκ : Off κ [.mem, .regs, .rse, .mzt, .cores, .sch, .phs, .fab, .xfr, .syn, .hcp, .evt, .out]) (r : XReq) :
    Kept κ s₀ (State.startSignal s r) := by
  unfold State.startSignal
  try dsimp only
  repeat' first
    | with_reducible assumption
    | exact hκ.sub (by decide)
    | with_reducible apply kept_remoteReq
    | with_reducible apply kept_completeReq
    | with_reducible apply kept_addCounter
    | with_reducible intro _ _ _ _
    | with_reducible intro _ _ _
    | with_reducible intro _ _
    | split

theorem kept_execXfrSignal (h : Kept κ s₀ s) (hκ : Off κ [.mem, .regs, .rse, .mzt, .cores, .sch, .phs, .fab, .xfr, .syn, .hcp, .evt, .out]) (q : ℕ) :
    OutKept κ s₀ (execXfrSignal q s) := by
  unfold execXfrSignal
  try dsimp only
  repeat' first
    | with_reducible assumption
    | exact hκ.sub (by decide)
    | with_reducible apply kept_startNext
    | with_reducible apply kept_startSignal
    | with_reducible apply OutKept.next
    | with_reducible intro _ _ _ _
    | with_reducible intro _ _ _
    | with_reducible intro _ _
    | split

theorem kept_startCopy (h : Kept κ s₀ s) (hκ : Off κ [.xfr]) (r : XReq) :
    Kept κ s₀ (State.startCopy s r) := by
  unfold State.startCopy
  try dsimp only
  repeat' first
    | with_reducible assumption
    | exact hκ.sub (by decide)
    | with_reducible apply kept_putFlight
    | with_reducible intro _ _ _ _
    | with_reducible intro _ _ _
    | with_reducible intro _ _
    | split

theorem kept_execXfrCopy (h : Kept κ s₀ s) (hκ : Off κ [.mem, .regs, .rse, .mzt, .cores, .sch, .phs, .fab, .xfr, .syn, .hcp, .evt, .out]) (q : ℕ) :
    OutKept κ s₀ (execXfrCopy q s) := by
  unfold execXfrCopy
  try dsimp only
  repeat' first
    | with_reducible assumption
    | exact hκ.sub (by decide)
    | with_reducible apply kept_startNext
    | with_reducible apply kept_startCopy
    | with_reducible apply OutKept.next
    | with_reducible intro _ _ _ _
    | with_reducible intro _ _ _
    | with_reducible intro _ _
    | split

theorem kept_copyDone (h : Kept κ s₀ s) (hκ : Off κ [.mem, .regs, .rse, .mzt, .cores, .sch, .phs, .fab, .xfr, .syn, .hcp, .evt, .out]) (r : XReq) :
    Kept κ s₀ (State.copyDone s r) := by
  unfold State.copyDone
  try dsimp only
  repeat' first
    | with_reducible assumption
    | exact hκ.sub (by decide)
    | with_reducible apply kept_copyMem
    | with_reducible apply kept_completeReq
    | with_reducible apply kept_account
    | with_reducible intro _ _ _ _
    | with_reducible intro _ _ _
    | with_reducible intro _ _
    | split

theorem kept_execXfrNop (h : Kept κ s₀ s) (hκ : Off κ [.mem, .regs, .rse, .mzt, .cores, .sch, .phs, .fab, .xfr, .syn, .hcp, .evt, .out]) (q : ℕ) :
    OutKept κ s₀ (execXfrNop q s) := by
  unfold execXfrNop
  try dsimp only
  repeat' first
    | with_reducible assumption
    | exact hκ.sub (by decide)
    | with_reducible apply kept_startNext
    | with_reducible apply kept_completeReq
    | with_reducible apply OutKept.next
    | with_reducible intro _ _ _ _
    | with_reducible intro _ _ _
    | with_reducible intro _ _
    | split

theorem kept_startUmber (h : Kept κ s₀ s) (hκ : Off κ [.mem, .regs, .rse, .mzt, .cores, .sch, .phs, .fab, .xfr, .syn, .hcp, .evt, .out]) (write : Bool) (r : XReq) :
    Kept κ s₀ (State.startUmber s write r) := by
  unfold State.startUmber
  try dsimp only
  repeat' first
    | with_reducible assumption
    | exact hκ.sub (by decide)
    | with_reducible apply kept_completeReq
    | with_reducible apply kept_roceIssue
    | with_reducible apply kept_putFlight
    | with_reducible intro _ _ _ _
    | with_reducible intro _ _ _
    | with_reducible intro _ _
    | split
    | dsimp only [itself]
    | refine OptKept.getD (f := itself) ?_ ?_
    | refine OptKept.get_id ?_ (by with_reducible assumption)

theorem kept_execUmberWrite (h : Kept κ s₀ s) (hκ : Off κ [.mem, .regs, .rse, .mzt, .cores, .sch, .phs, .fab, .xfr, .syn, .hcp, .evt, .out]) (q : ℕ) :
    OutKept κ s₀ (execUmberWrite q s) := by
  unfold execUmberWrite
  try dsimp only
  repeat' first
    | with_reducible assumption
    | exact hκ.sub (by decide)
    | with_reducible apply kept_startNext
    | with_reducible apply kept_startUmber
    | with_reducible apply OutKept.next
    | with_reducible intro _ _ _ _
    | with_reducible intro _ _ _
    | with_reducible intro _ _
    | split

theorem kept_execUmberRead (h : Kept κ s₀ s) (hκ : Off κ [.mem, .regs, .rse, .mzt, .cores, .sch, .phs, .fab, .xfr, .syn, .hcp, .evt, .out]) (q : ℕ) :
    OutKept κ s₀ (execUmberRead q s) := by
  unfold execUmberRead
  try dsimp only
  repeat' first
    | with_reducible assumption
    | exact hκ.sub (by decide)
    | with_reducible apply kept_startNext
    | with_reducible apply kept_startUmber
    | with_reducible apply OutKept.next
    | with_reducible intro _ _ _ _
    | with_reducible intro _ _ _
    | with_reducible intro _ _
    | split

theorem kept_qdWrite (h : Kept κ s₀ s) (hκ : Off κ [.regs, .cores, .syn]) (q : ℕ) (value : ℕ) :
    Kept κ s₀ (State.qdWrite s q value).1 := by
  unfold State.qdWrite
  try dsimp only
  repeat' first
    | with_reducible assumption
    | exact hκ.sub (by decide)
    | with_reducible apply kept_setCounter
    | with_reducible intro _ _ _ _
    | with_reducible intro _ _ _
    | with_reducible intro _ _
    | split

theorem kept_execXfrQDWrite (h : Kept κ s₀ s) (hκ : Off κ [.regs, .cores, .syn]) (q : ℕ) (value : ℕ) :
    OutKept κ s₀ (execXfrQDWrite q value s) := by
  unfold execXfrQDWrite
  try dsimp only
  repeat' first
    | with_reducible assumption
    | exact hκ.sub (by decide)
    | with_reducible apply kept_qdWrite
    | with_reducible apply OutKept.next
    | with_reducible intro _ _ _ _
    | with_reducible intro _ _ _
    | with_reducible intro _ _
    | split
    | dsimp only [itself]
    | refine Kept.of_fst ?_ (by with_reducible assumption)

theorem kept_queueCfgWrite (h : Kept κ s₀ s) (hκ : Off κ [.mem, .regs, .rse, .mzt, .cores, .sch, .phs, .fab, .xfr, .syn, .hcp, .evt, .out]) (addr : ℕ) (value : ℕ) :
    Kept κ s₀ (State.queueCfgWrite s addr value).1 := by
  unfold State.queueCfgWrite
  try dsimp only
  repeat' first
    | with_reducible assumption
    | exact hκ.sub (by decide)
    | with_reducible apply kept_flushQueue
    | with_reducible apply kept_writeRw
    | with_reducible apply kept_setCounter
    | with_reducible apply kept_putXq
    | with_reducible apply kept_setReg
    | with_reducible intro _ _ _ _
    | with_reducible intro _ _ _
    | with_reducible intro _ _
    | split

theorem kept_execXfrQueueCfgWrite (h : Kept κ s₀ s) (hκ : Off κ [.mem, .regs, .rse, .mzt, .cores, .sch, .phs, .fab, .xfr, .syn, .hcp, .evt, .out]) (addr : ℕ) (value : ℕ) :
    OutKept κ s₀ (execXfrQueueCfgWrite addr value s) := by
  unfold execXfrQueueCfgWrite
  try dsimp only
  repeat' first
    | with_reducible assumption
    | exact hκ.sub (by decide)
    | with_reducible apply kept_queueCfgWrite
    | with_reducible apply OutKept.next
    | with_reducible intro _ _ _ _
    | with_reducible intro _ _ _
    | with_reducible intro _ _
    | split
    | dsimp only [itself]
    | refine Kept.of_fst ?_ (by with_reducible assumption)

theorem kept_execXfrCfgWrite (h : Kept κ s₀ s) (hκ : Off κ [.regs]) (value : ℕ) :
    OutKept κ s₀ (execXfrCfgWrite value s) := by
  unfold execXfrCfgWrite
  try dsimp only
  repeat' first
    | with_reducible assumption
    | exact hκ.sub (by decide)
    | with_reducible apply kept_writeRw
    | with_reducible apply OutKept.next
    | with_reducible intro _ _ _ _
    | with_reducible intro _ _ _
    | with_reducible intro _ _
    | split

end Sys2Proof.Machine
end

