-- ==== Sys2Proof/Laws/KeptMessage.lean ====
section
/-! SUPPORT. What the operations of Machine/Message.lean keep (see Laws/Kept.lean). -/

namespace Sys2Proof.Machine

variable {κ : Part → Bool} {s₀ s : State}

theorem kept_pumpWrite (h : Kept κ s₀ s) (hκ : Off κ [.regs, .fab, .xfr, .hcp, .out]) (r : XReq) (a0 : ℕ) :
    Kept κ s₀ (State.pumpWrite s r a0) := by
  induction a0 generalizing s r with
  | zero =>
    unfold State.pumpWrite
    try dsimp only
    repeat' first
      | with_reducible assumption
      | exact hκ.sub (by decide)
      | with_reducible apply kept_putFlight
      | with_reducible apply kept_injectAll
      | with_reducible intro _ _ _ _
      | with_reducible intro _ _ _
      | with_reducible intro _ _
      | split
  | succ n_ ih =>
    unfold State.pumpWrite
    try dsimp only
    repeat' first
      | with_reducible assumption
      | with_reducible apply ih
      | exact hκ.sub (by decide)
      | with_reducible apply kept_putFlight
      | with_reducible apply kept_injectAll
      | with_reducible intro _ _ _ _
      | with_reducible intro _ _ _
      | with_reducible intro _ _
      | split

theorem kept_beginGroup (h : Kept κ s₀ s) (hκ : Off κ [.mem, .regs, .rse, .mzt, .cores, .sch, .phs, .fab, .xfr, .syn, .hcp, .evt, .out]) (r : XReq) (addr : ℕ) (bytes : ℕ) (tries : ℕ) (later : Option (ℕ × ℕ)) :
    Kept κ s₀ (State.beginGroup s r addr bytes tries later) := by
  unfold State.beginGroup
  try dsimp only
  repeat' first
    | with_reducible assumption
    | exact hκ.sub (by decide)
    | with_reducible apply kept_onXfr
    | with_reducible apply kept_sendMsgFor
    | with_reducible apply kept_pumpWrite
    | with_reducible apply kept_completeReq
    | with_reducible intro _ _ _ _
    | with_reducible intro _ _ _
    | with_reducible intro _ _
    | split

theorem kept_startWrite (h : Kept κ s₀ s) (hκ : Off κ [.mem, .regs, .rse, .mzt, .cores, .sch, .phs, .fab, .xfr, .syn, .hcp, .evt, .out]) (r : XReq) :
    Kept κ s₀ (State.startWrite s r) := by
  unfold State.startWrite
  try dsimp only
  repeat' first
    | with_reducible assumption
    | exact hκ.sub (by decide)
    | with_reducible apply kept_startCopy
    | with_reducible apply kept_completeReq
    | with_reducible apply kept_beginGroup
    | with_reducible apply kept_addSent
    | with_reducible intro _ _ _ _
    | with_reducible intro _ _ _
    | with_reducible intro _ _
    | split

theorem kept_execXfrWrite (h : Kept κ s₀ s) (hκ : Off κ [.mem, .regs, .rse, .mzt, .cores, .sch, .phs, .fab, .xfr, .syn, .hcp, .evt, .out]) (q : ℕ) :
    OutKept κ s₀ (execXfrWrite q s) := by
  unfold execXfrWrite
  try dsimp only
  repeat' first
    | with_reducible assumption
    | exact hκ.sub (by decide)
    | with_reducible apply kept_startNext
    | with_reducible apply kept_startWrite
    | with_reducible apply OutKept.next
    | with_reducible intro _ _ _ _
    | with_reducible intro _ _ _
    | with_reducible intro _ _
    | split

theorem kept_pumpDst (h : Kept κ s₀ s) (hκ : Off κ [.regs, .fab, .xfr, .hcp, .out]) (dst : ℕ) :
    Kept κ s₀ (State.pumpDst s dst) := by
  unfold State.pumpDst
  try dsimp only
  repeat' first
    | with_reducible assumption
    | exact hκ.sub (by decide)
    | with_reducible apply kept_pumpWrite
    | with_reducible apply kept_foldl
    | with_reducible intro _ _ _ _
    | with_reducible intro _ _ _
    | with_reducible intro _ _
    | split

theorem kept_msgDone (h : Kept κ s₀ s) (hκ : Off κ [.mem, .regs, .rse, .mzt, .cores, .sch, .phs, .fab, .xfr, .syn, .hcp, .evt, .out]) (src : ℕ) (first : ℕ) (st : St) :
    Kept κ s₀ (State.msgDone s src first st) := by
  unfold State.msgDone
  try dsimp only
  repeat' first
    | with_reducible assumption
    | exact hκ.sub (by decide)
    | with_reducible apply kept_onXfr
    | with_reducible apply kept_beginGroup
    | with_reducible apply kept_completeReq
    | with_reducible apply kept_bump
    | with_reducible apply kept_pumpDst
    | with_reducible intro _ _ _ _
    | with_reducible intro _ _ _
    | with_reducible intro _ _
    | split

theorem kept_execMsgDone (h : Kept κ s₀ s) (hκ : Off κ [.mem, .regs, .rse, .mzt, .cores, .sch, .phs, .fab, .xfr, .syn, .hcp, .evt, .out]) (src : ℕ) (first : ℕ) (count : ℕ) (status : St) :
    OutKept κ s₀ (execMsgDone src first count status s) := by
  unfold execMsgDone
  try dsimp only
  repeat' first
    | with_reducible assumption
    | exact hκ.sub (by decide)
    | with_reducible apply kept_msgDone
    | with_reducible apply kept_takeMsg
    | with_reducible apply OutKept.next
    | with_reducible intro _ _ _ _
    | with_reducible intro _ _ _
    | with_reducible intro _ _
    | split

theorem kept_execMsgTimeoutExpiry (h : Kept κ s₀ s) (hκ : Off κ [.mem, .regs, .rse, .mzt, .cores, .sch, .phs, .fab, .xfr, .syn, .hcp, .evt, .out]) (q : ℕ) (idx : ℕ) :
    OutKept κ s₀ (execMsgTimeoutExpiry q idx s) := by
  unfold execMsgTimeoutExpiry
  try dsimp only
  repeat' first
    | with_reducible assumption
    | exact hκ.sub (by decide)
    | with_reducible apply kept_sendMsgFor
    | with_reducible apply kept_putFlight
    | with_reducible apply kept_completeReq
    | with_reducible apply OutKept.next
    | with_reducible intro _ _ _ _
    | with_reducible intro _ _ _
    | with_reducible intro _ _
    | split

theorem kept_writesLost (h : Kept κ s₀ s) (hκ : Off κ [.mem, .regs, .rse, .mzt, .cores, .sch, .phs, .fab, .xfr, .syn, .hcp, .evt, .out]) (dst : ℕ) :
    Kept κ s₀ (State.writesLost s dst) := by
  unfold State.writesLost
  try dsimp only
  repeat' first
    | with_reducible assumption
    | exact hκ.sub (by decide)
    | with_reducible apply kept_putOut
    | with_reducible apply kept_onXfr
    | with_reducible apply kept_completeReq
    | with_reducible apply kept_foldl
    | with_reducible intro _ _ _ _
    | with_reducible intro _ _ _
    | with_reducible intro _ _
    | split

theorem kept_putMsgSrc (h : Kept κ s₀ s) (hκ : Off κ [.xfr]) (m : MsgSource) :
    Kept κ s₀ (State.putMsgSrc s m) := by
  unfold State.putMsgSrc
  try dsimp only
  repeat' first
    | with_reducible assumption
    | exact hκ.sub (by decide)
    | with_reducible apply kept_onXfr
    | with_reducible intro _ _ _ _
    | with_reducible intro _ _ _
    | with_reducible intro _ _
    | split

theorem kept_finishMsg (h : Kept κ s₀ s) (hκ : Off κ [.regs, .xfr]) (src : ℕ) (id : ℕ) :
    Kept κ s₀ (State.finishMsg s src id) := by
  unfold State.finishMsg
  try dsimp only
  repeat' first
    | with_reducible assumption
    | exact hκ.sub (by decide)
    | with_reducible apply kept_onXfr
    | with_reducible apply kept_bump
    | with_reducible apply kept_putMsgSrc
    | with_reducible intro _ _ _ _
    | with_reducible intro _ _ _
    | with_reducible intro _ _
    | split

theorem kept_answerRange (h : Kept κ s₀ s) (hκ : Off κ [.regs, .cores, .fab, .xfr, .syn, .hcp, .out]) (src : ℕ) (o : OpenMsg) :
    Kept κ s₀ (State.answerRange s src o) := by
  unfold State.answerRange
  try dsimp only
  repeat' first
    | with_reducible assumption
    | exact hκ.sub (by decide)
    | with_reducible apply kept_putMsgSrc
    | with_reducible apply kept_addCounter
    | with_reducible apply kept_sendMsg
    | with_reducible intro _ _ _ _
    | with_reducible intro _ _ _
    | with_reducible intro _ _
    | split

theorem kept_answerOpen (h : Kept κ s₀ s) (hκ : Off κ [.regs, .cores, .fab, .xfr, .syn, .hcp, .out]) (src : ℕ) (o : OpenMsg) :
    Kept κ s₀ (State.answerOpen s src o) := by
  unfold State.answerOpen
  try dsimp only
  repeat' first
    | with_reducible assumption
    | exact hκ.sub (by decide)
    | with_reducible apply kept_answerRange
    | with_reducible intro _ _ _ _
    | with_reducible intro _ _ _
    | with_reducible intro _ _
    | split

theorem kept_answerOpens (h : Kept κ s₀ s) (hκ : Off κ [.regs, .cores, .fab, .xfr, .syn, .hcp, .out]) (src : ℕ) :
    Kept κ s₀ (State.answerOpens s src) := by
  unfold State.answerOpens
  try dsimp only
  repeat' first
    | with_reducible assumption
    | exact hκ.sub (by decide)
    | with_reducible apply kept_answerOpen
    | with_reducible apply kept_foldl
    | with_reducible intro _ _ _ _
    | with_reducible intro _ _ _
    | with_reducible intro _ _
    | split

theorem kept_execMsgOpen (h : Kept κ s₀ s) (hκ : Off κ [.regs, .cores, .fab, .xfr, .syn, .hcp, .out]) (src : ℕ) (m : OpenMsg) :
    OutKept κ s₀ (execMsgOpen src m s) := by
  unfold execMsgOpen
  try dsimp only
  repeat' first
    | with_reducible assumption
    | exact hκ.sub (by decide)
    | with_reducible apply kept_takeMsg
    | with_reducible apply kept_answerOpen
    | with_reducible apply kept_putMsgSrc
    | with_reducible apply OutKept.next
    | with_reducible intro _ _ _ _
    | with_reducible intro _ _ _
    | with_reducible intro _ _
    | split

theorem kept_msgBytes (h : Kept κ s₀ s) (hκ : Off κ [.regs, .cores, .fab, .xfr, .syn, .hcp, .out]) (src : ℕ) (id : ℕ) (n : ℕ) (total : ℕ) :
    Kept κ s₀ (State.msgBytes s src id n total) := by
  unfold State.msgBytes
  try dsimp only
  repeat' first
    | with_reducible assumption
    | exact hκ.sub (by decide)
    | with_reducible apply kept_putMsgSrc
    | with_reducible apply kept_answerOpens
    | with_reducible apply kept_finishMsg
    | with_reducible intro _ _ _ _
    | with_reducible intro _ _ _
    | with_reducible intro _ _
    | split

theorem kept_refusePacket (h : Kept κ s₀ s) (hκ : Off κ [.regs, .rse, .cores, .fab, .syn, .hcp, .evt, .out]) (f : Frame) (id : ℕ) (region : ℕ) (addr : ℕ) (n : ℕ) (st : St) :
    Kept κ s₀ (State.refusePacket s f id region addr n st) := by
  unfold State.refusePacket
  try dsimp only
  repeat' first
    | with_reducible assumption
    | exact hκ.sub (by decide)
    | with_reducible apply kept_account
    | with_reducible apply kept_sprayNak
    | with_reducible intro _ _ _ _
    | with_reducible intro _ _ _
    | with_reducible intro _ _
    | split

theorem kept_writePacket (h : Kept κ s₀ s) (hκ : Off κ [.mem, .regs, .rse, .cores, .fab, .xfr, .syn, .hcp, .evt, .out]) (f : Frame) (id : ℕ) (psn : ℕ) (addr : ℕ) (region : ℕ) (key : ℕ) (total : ℕ) (data : List Sys2Proof.Byte) :
    Kept κ s₀ (State.writePacket s f id psn addr region key total data) := by
  unfold State.writePacket
  try dsimp only
  repeat' first
    | with_reducible assumption
    | exact hκ.sub (by decide)
    | with_reducible apply kept_refusePacket
    | with_reducible apply kept_putMsgSrc
    | with_reducible apply kept_bump
    | with_reducible apply kept_msgBytes
    | with_reducible apply kept_onXfr
    | with_reducible apply kept_countRefusal
    | with_reducible apply kept_account
    | with_reducible apply kept_place
    | with_reducible apply kept_regionLooked
    | with_reducible intro _ _ _ _
    | with_reducible intro _ _ _
    | with_reducible intro _ _
    | split

theorem kept_abandon (h : Kept κ s₀ s) (hκ : Off κ [.regs, .fab, .xfr, .hcp, .evt, .out]) (src : ℕ) (id : ℕ) :
    Kept κ s₀ (State.abandon s src id) := by
  unfold State.abandon
  try dsimp only
  repeat' first
    | with_reducible assumption
    | exact hκ.sub (by decide)
    | with_reducible apply kept_post
    | with_reducible apply kept_bump
    | with_reducible apply kept_finishMsg
    | with_reducible apply kept_putMsgSrc
    | with_reducible intro _ _ _ _
    | with_reducible intro _ _ _
    | with_reducible intro _ _
    | split

theorem kept_abortMsgs (h : Kept κ s₀ s) (hκ : Off κ [.regs, .rse, .cores, .fab, .xfr, .syn, .hcp, .evt, .out]) (src : ℕ) (o : OpenMsg) :
    Kept κ s₀ (State.abortMsgs s src o) := by
  unfold State.abortMsgs
  try dsimp only
  repeat' first
    | with_reducible assumption
    | exact hκ.sub (by decide)
    | with_reducible apply kept_abandon
    | with_reducible apply kept_account
    | with_reducible apply kept_answerRange
    | with_reducible apply kept_foldl
    | with_reducible intro _ _ _ _
    | with_reducible intro _ _ _
    | with_reducible intro _ _
    | split

theorem kept_failSource (h : Kept κ s₀ s) (hκ : Off κ [.xfr]) (st : St) (src : ℕ) :
    Kept κ s₀ (State.failSource s st src) := by
  unfold State.failSource
  try dsimp only
  repeat' first
    | with_reducible assumption
    | exact hκ.sub (by decide)
    | with_reducible apply kept_putMsgSrc
    | with_reducible apply kept_foldl
    | with_reducible intro _ _ _ _
    | with_reducible intro _ _ _
    | with_reducible intro _ _
    | split

theorem kept_failMessages (h : Kept κ s₀ s) (hκ : Off κ [.xfr]) (st : St) :
    Kept κ s₀ (State.failMessages s st) := by
  unfold State.failMessages
  try dsimp only
  repeat' first
    | with_reducible assumption
    | exact hκ.sub (by decide)
    | with_reducible apply kept_failSource
    | with_reducible apply kept_foldl
    | with_reducible intro _ _ _ _
    | with_reducible intro _ _ _
    | with_reducible intro _ _
    | split

theorem kept_clearSource (h : Kept κ s₀ s) (hκ : Off κ [.xfr]) (src : ℕ) :
    Kept κ s₀ (State.clearSource s src) := by
  unfold State.clearSource
  try dsimp only
  repeat' first
    | with_reducible assumption
    | exact hκ.sub (by decide)
    | with_reducible apply kept_onXfr
    | with_reducible intro _ _ _ _
    | with_reducible intro _ _ _
    | with_reducible intro _ _
    | split

theorem kept_msgBaseWrite (h : Kept κ s₀ s) (hκ : Off κ [.regs]) (value : ℕ) :
    Kept κ s₀ (State.msgBaseWrite s value).1 := by
  unfold State.msgBaseWrite
  try dsimp only
  repeat' first
    | with_reducible assumption
    | exact hκ.sub (by decide)
    | with_reducible apply kept_writeRw
    | with_reducible intro _ _ _ _
    | with_reducible intro _ _ _
    | with_reducible intro _ _
    | split

theorem kept_execXfrMsgBaseWrite (h : Kept κ s₀ s) (hκ : Off κ [.regs]) (value : ℕ) :
    OutKept κ s₀ (execXfrMsgBaseWrite value s) := by
  unfold execXfrMsgBaseWrite
  try dsimp only
  repeat' first
    | with_reducible assumption
    | exact hκ.sub (by decide)
    | with_reducible apply kept_msgBaseWrite
    | with_reducible apply OutKept.next
    | with_reducible intro _ _ _ _
    | with_reducible intro _ _ _
    | with_reducible intro _ _
    | split
    | dsimp only [itself]
    | refine Kept.of_fst ?_ (by with_reducible assumption)

theorem kept_sendReads (h : Kept κ s₀ s) (hκ : Off κ [.regs, .fab, .hcp, .out]) (comp : Option ℕ) (dev : Bool) (dst : ℕ) (tag : ℕ) (w : WorkReq) (a0 : List (ℕ × ℕ)) :
    Kept κ s₀ (State.sendReads s comp dev dst tag w a0) := by
  induction a0 generalizing s comp dev dst tag w with
  | nil =>
    unfold State.sendReads
    try dsimp only
    repeat' first
      | with_reducible assumption
  | cons x_ l_ ih =>
    unfold State.sendReads
    try dsimp only
    repeat' first
      | with_reducible assumption
      | with_reducible apply ih
      | exact hκ.sub (by decide)
      | with_reducible apply kept_inject
      | with_reducible intro _ _ _ _
      | with_reducible intro _ _ _
      | with_reducible intro _ _
      | split

theorem kept_startRead (h : Kept κ s₀ s) (hκ : Off κ [.mem, .regs, .rse, .mzt, .cores, .sch, .phs, .fab, .xfr, .syn, .hcp, .evt, .out]) (r : XReq) :
    Kept κ s₀ (State.startRead s r) := by
  unfold State.startRead
  try dsimp only
  repeat' first
    | with_reducible assumption
    | exact hκ.sub (by decide)
    | with_reducible apply kept_startCopy
    | with_reducible apply kept_completeReq
    | with_reducible apply kept_addRemote
    | with_reducible apply kept_sendReads
    | with_reducible apply kept_putFlight
    | with_reducible intro _ _ _ _
    | with_reducible intro _ _ _
    | with_reducible intro _ _
    | split

theorem kept_execXfrRead (h : Kept κ s₀ s) (hκ : Off κ [.mem, .regs, .rse, .mzt, .cores, .sch, .phs, .fab, .xfr, .syn, .hcp, .evt, .out]) (q : ℕ) :
    OutKept κ s₀ (execXfrRead q s) := by
  unfold execXfrRead
  try dsimp only
  repeat' first
    | with_reducible assumption
    | exact hκ.sub (by decide)
    | with_reducible apply kept_startNext
    | with_reducible apply kept_startRead
    | with_reducible apply OutKept.next
    | with_reducible intro _ _ _ _
    | with_reducible intro _ _ _
    | with_reducible intro _ _
    | split

theorem kept_readEnd (h : Kept κ s₀ s) (hκ : Off κ [.mem, .regs, .rse, .mzt, .cores, .sch, .phs, .fab, .xfr, .syn, .hcp, .evt, .out]) (r : XReq) :
    Kept κ s₀ (State.readEnd s r) := by
  unfold State.readEnd
  try dsimp only
  repeat' first
    | with_reducible assumption
    | exact hκ.sub (by decide)
    | with_reducible apply kept_onXfr
    | with_reducible apply kept_dropRemote
    | with_reducible apply kept_completeReq
    | with_reducible apply kept_putFlight
    | with_reducible intro _ _ _ _
    | with_reducible intro _ _ _
    | with_reducible intro _ _
    | split

theorem kept_readRefused (h : Kept κ s₀ s) (hκ : Off κ [.mem, .regs, .rse, .mzt, .cores, .sch, .phs, .fab, .xfr, .syn, .hcp, .evt, .out]) (tag : ℕ) (addr : ℕ) (st : St) :
    Kept κ s₀ (State.readRefused s tag addr st) := by
  unfold State.readRefused
  try dsimp only
  repeat' first
    | with_reducible assumption
    | exact hκ.sub (by decide)
    | with_reducible apply kept_readEnd
    | with_reducible intro _ _ _ _
    | with_reducible intro _ _ _
    | with_reducible intro _ _
    | split

theorem kept_readFailed (h : Kept κ s₀ s) (hκ : Off κ [.mem, .regs, .rse, .mzt, .cores, .sch, .phs, .fab, .xfr, .syn, .hcp, .evt, .out]) (tag : ℕ) (st : St) :
    Kept κ s₀ (State.readFailed s tag st) := by
  unfold State.readFailed
  try dsimp only
  repeat' first
    | with_reducible assumption
    | exact hκ.sub (by decide)
    | with_reducible apply kept_readEnd
    | with_reducible intro _ _ _ _
    | with_reducible intro _ _ _
    | with_reducible intro _ _
    | split

theorem kept_readFrame (h : Kept κ s₀ s) (hκ : Off κ [.regs, .fab, .hcp, .out]) (f : Frame) (h_ : OpHdr) :
    Kept κ s₀ (State.readFrame s f h_) := by
  unfold State.readFrame
  try dsimp only
  repeat' first
    | with_reducible assumption
    | exact hκ.sub (by decide)
    | with_reducible apply kept_respond
    | with_reducible apply kept_countRefusal
    | with_reducible apply kept_regionLooked
    | with_reducible intro _ _ _ _
    | with_reducible intro _ _ _
    | with_reducible intro _ _
    | split

theorem kept_lateData (h : Kept κ s₀ s) (hκ : Off κ [.regs, .rse, .cores, .fab, .syn, .hcp, .evt, .out]) (src : ℕ) (n : ℕ) :
    Kept κ s₀ (State.lateData s src n) := by
  unfold State.lateData
  try dsimp only
  repeat' first
    | with_reducible assumption
    | exact hκ.sub (by decide)
    | with_reducible apply kept_bump
    | with_reducible apply kept_account
    | with_reducible intro _ _ _ _
    | with_reducible intro _ _ _
    | with_reducible intro _ _
    | split

theorem kept_readData (h : Kept κ s₀ s) (hκ : Off κ [.mem, .regs, .rse, .mzt, .cores, .sch, .phs, .fab, .xfr, .syn, .hcp, .evt, .out]) (f : Frame) (tag : ℕ) (addr : ℕ) (data : List Sys2Proof.Byte) :
    Kept κ s₀ (State.readData s f tag addr data) := by
  unfold State.readData
  try dsimp only
  repeat' first
    | with_reducible assumption
    | exact hκ.sub (by decide)
    | with_reducible apply kept_account
    | with_reducible apply kept_place
    | with_reducible apply kept_readEnd
    | with_reducible apply kept_lateData
    | with_reducible intro _ _ _ _
    | with_reducible intro _ _ _
    | with_reducible intro _ _
    | split

theorem kept_execTagQuietExpiry (h : Kept κ s₀ s) (hκ : Off κ [.xfr]) (tag : ℕ) :
    OutKept κ s₀ (execTagQuietExpiry tag s) := by
  unfold execTagQuietExpiry
  try dsimp only
  repeat' first
    | with_reducible assumption
    | exact hκ.sub (by decide)
    | with_reducible apply kept_onXfr
    | with_reducible apply OutKept.next
    | with_reducible intro _ _ _ _
    | with_reducible intro _ _ _
    | with_reducible intro _ _
    | split

end Sys2Proof.Machine
end

