-- ==== Sys2Proof/Laws/KeptCollective.lean ====
section
/-! SUPPORT. What the operations of Machine/Collective.lean keep (see Laws/Kept.lean). -/

namespace Sys2Proof.Machine

variable {κ : Part → Bool} {s₀ s : State}

theorem kept_endOp (h : Kept κ s₀ s) (hκ : Off κ [.mem, .regs, .rse, .mzt, .cores, .sch, .phs, .fab, .xfr, .syn, .hcp, .evt, .out]) (g : ℕ) (op : ℕ) (st : St) :
    Kept κ s₀ (State.endOp s g op st) := by
  unfold State.endOp
  try dsimp only
  repeat' first
    | with_reducible assumption
    | exact hκ.sub (by decide)
    | with_reducible apply kept_onXfr
    | with_reducible apply kept_setReg
    | with_reducible apply kept_completeReq
    | with_reducible intro _ _ _ _
    | with_reducible intro _ _ _
    | with_reducible intro _ _
    | split

theorem kept_failOp (h : Kept κ s₀ s) (hκ : Off κ [.mem, .regs, .rse, .mzt, .cores, .sch, .phs, .fab, .xfr, .syn, .hcp, .evt, .out]) (g : ℕ) (op : ℕ) (st : St) :
    Kept κ s₀ (State.failOp s g op st) := by
  unfold State.failOp
  try dsimp only
  repeat' first
    | with_reducible assumption
    | exact hκ.sub (by decide)
    | with_reducible apply kept_post
    | with_reducible apply kept_endOp
    | with_reducible intro _ _ _ _
    | with_reducible intro _ _ _
    | with_reducible intro _ _
    | split

theorem kept_sendReduce (h : Kept κ s₀ s) (hκ : Off κ [.regs, .fab, .hcp, .out]) (dst : ℕ) (m : ReduceMsg) (poison : Bool) :
    Kept κ s₀ (State.sendReduce s dst m poison) := by
  unfold State.sendReduce
  try dsimp only
  repeat' first
    | with_reducible assumption
    | exact hκ.sub (by decide)
    | with_reducible apply kept_inject
    | with_reducible intro _ _ _ _
    | with_reducible intro _ _ _
    | with_reducible intro _ _
    | split

theorem kept_sendReduces (h : Kept κ s₀ s) (hκ : Off κ [.regs, .fab, .hcp, .out]) (m : ReduceMsg) (poison : Bool) (a2 : List ℕ) :
    Kept κ s₀ (State.sendReduces s m poison a2) := by
  induction a2 generalizing s with
  | nil =>
    unfold State.sendReduces
    try dsimp only
    repeat' first
      | with_reducible assumption
      | exact hκ.sub (by decide)
      | with_reducible apply kept_sendReduce
      | with_reducible intro _ _ _ _
      | with_reducible intro _ _ _
      | with_reducible intro _ _
      | split
  | cons x_ xs_ ih =>
    unfold State.sendReduces
    try dsimp only
    repeat' first
      | with_reducible assumption
      | with_reducible apply ih
      | exact hκ.sub (by decide)
      | with_reducible apply kept_sendReduce
      | with_reducible intro _ _ _ _
      | with_reducible intro _ _ _
      | with_reducible intro _ _
      | split

theorem kept_applyDown (h : Kept κ s₀ s) (hκ : Off κ [.mem, .regs, .fab, .xfr, .hcp, .out]) (m : ReduceMsg) (poison : Bool) :
    Kept κ s₀ (State.applyDown s m poison) := by
  unfold State.applyDown
  try dsimp only
  repeat' first
    | with_reducible assumption
    | exact hκ.sub (by decide)
    | with_reducible apply kept_calc
    | with_reducible apply kept_place
    | with_reducible apply kept_putFlight
    | with_reducible apply kept_onXfr
    | with_reducible apply kept_sendReduces
    | with_reducible intro _ _ _ _
    | with_reducible intro _ _ _
    | with_reducible intro _ _
    | split
    | dsimp only [itself]
    | refine Kept.of_snd ?_ (by with_reducible assumption)

theorem kept_contribute (h : Kept κ s₀ s) (hκ : Off κ [.mem, .regs, .fab, .xfr, .hcp, .out]) (m : ReduceMsg) (who : ℕ) (poison : Bool) :
    Kept κ s₀ (State.contribute s m who poison) := by
  unfold State.contribute
  try dsimp only
  repeat' first
    | with_reducible assumption
    | exact hκ.sub (by decide)
    | with_reducible apply kept_bump
    | with_reducible apply kept_calc
    | with_reducible apply kept_onXfr
    | with_reducible apply kept_applyDown
    | with_reducible apply kept_sendReduce
    | refine kept_foldl_on Prod.fst _ _ _ ?_ ?_
    | refine kept_foldl_on Prod.snd _ _ _ ?_ ?_
    | with_reducible apply kept_foldl
    | with_reducible intro _ _ _ _
    | with_reducible intro _ _ _
    | with_reducible intro _ _
    | split
    | dsimp only [itself]
    | refine Kept.of_snd ?_ (by with_reducible assumption)

theorem kept_ownChunk (h : Kept κ s₀ s) (r : XReq) (c : ℕ) :
    Kept κ s₀ (State.ownChunk s r c).2.2 := by
  unfold State.ownChunk
  try dsimp only
  repeat' first
    | with_reducible assumption
    | with_reducible apply kept_calc
    | with_reducible intro _ _ _ _
    | with_reducible intro _ _ _
    | with_reducible intro _ _
    | split
    | dsimp only [itself]
    | refine Kept.of_snd ?_ (by with_reducible assumption)

theorem kept_pumpReduce (h : Kept κ s₀ s) (hκ : Off κ [.mem, .regs, .rse, .mzt, .cores, .sch, .phs, .fab, .xfr, .syn, .hcp, .evt, .out]) (g : ℕ) (a0 : ℕ) :
    Kept κ s₀ (State.pumpReduce s g a0) := by
  induction a0 generalizing s g with
  | zero =>
    unfold State.pumpReduce
    try dsimp only
    repeat' first
      | with_reducible assumption
  | succ n_ ih =>
    unfold State.pumpReduce
    try dsimp only
    repeat' first
      | with_reducible assumption
      | with_reducible apply ih
      | exact hκ.sub (by decide)
      | with_reducible apply kept_endOp
      | with_reducible apply kept_ownChunk
      | with_reducible apply kept_contribute
      | with_reducible apply kept_putFlight
      | with_reducible intro _ _ _ _
      | with_reducible intro _ _ _
      | with_reducible intro _ _
      | split
      | dsimp only [itself]
      | refine Kept.of_third ?_ (by with_reducible assumption)
      | refine Kept.of_snd ?_ (by with_reducible assumption)
      | refine OptKept.get_snd ?_ (by with_reducible assumption)

theorem kept_startReduce (h : Kept κ s₀ s) (hκ : Off κ [.mem, .regs, .rse, .mzt, .cores, .sch, .phs, .fab, .xfr, .syn, .hcp, .evt, .out]) (r : XReq) :
    Kept κ s₀ (State.startReduce s r) := by
  unfold State.startReduce
  try dsimp only
  repeat' first
    | with_reducible assumption
    | exact hκ.sub (by decide)
    | with_reducible apply kept_completeReq
    | with_reducible apply kept_setReg
    | with_reducible apply kept_putFlight
    | with_reducible apply kept_failOp
    | with_reducible apply kept_pumpReduce
    | with_reducible apply kept_onXfr
    | with_reducible intro _ _ _ _
    | with_reducible intro _ _ _
    | with_reducible intro _ _
    | split

theorem kept_execXfrReduce (h : Kept κ s₀ s) (hκ : Off κ [.mem, .regs, .rse, .mzt, .cores, .sch, .phs, .fab, .xfr, .syn, .hcp, .evt, .out]) (q : ℕ) :
    OutKept κ s₀ (execXfrReduce q s) := by
  unfold execXfrReduce
  try dsimp only
  repeat' first
    | with_reducible assumption
    | exact hκ.sub (by decide)
    | with_reducible apply kept_startNext
    | with_reducible apply kept_startReduce
    | with_reducible apply OutKept.next
    | with_reducible intro _ _ _ _
    | with_reducible intro _ _ _
    | with_reducible intro _ _
    | split

theorem kept_reduceRefused (h : Kept κ s₀ s) (hκ : Off κ [.regs, .rse, .cores, .fab, .syn, .hcp, .evt, .out]) (f : Frame) (m : ReduceMsg) :
    Kept κ s₀ (State.reduceRefused s f m) := by
  unfold State.reduceRefused
  try dsimp only
  repeat' first
    | with_reducible assumption
    | exact hκ.sub (by decide)
    | with_reducible apply kept_account
    | with_reducible apply kept_sprayNak
    | with_reducible intro _ _ _ _
    | with_reducible intro _ _ _
    | with_reducible intro _ _
    | split

theorem kept_reducePacket (h : Kept κ s₀ s) (hκ : Off κ [.mem, .regs, .rse, .mzt, .cores, .sch, .phs, .fab, .xfr, .syn, .hcp, .evt, .out]) (f : Frame) (m : ReduceMsg) :
    Kept κ s₀ (State.reducePacket s f m) := by
  unfold State.reducePacket
  try dsimp only
  repeat' first
    | with_reducible assumption
    | exact hκ.sub (by decide)
    | with_reducible apply kept_account
    | with_reducible apply kept_sprayNak
    | with_reducible apply kept_reduceRefused
    | with_reducible apply kept_bump
    | with_reducible apply kept_failOp
    | with_reducible apply kept_applyDown
    | with_reducible apply kept_contribute
    | with_reducible apply kept_pumpReduce
    | with_reducible intro _ _ _ _
    | with_reducible intro _ _ _
    | with_reducible intro _ _
    | split

theorem kept_execCollTimeoutExpiry (h : Kept κ s₀ s) (hκ : Off κ [.mem, .regs, .rse, .mzt, .cores, .sch, .phs, .fab, .xfr, .syn, .hcp, .evt, .out]) (group : ℕ) (chunk : ℕ) :
    OutKept κ s₀ (execCollTimeoutExpiry group chunk s) := by
  unfold execCollTimeoutExpiry
  try dsimp only
  repeat' first
    | with_reducible assumption
    | exact hκ.sub (by decide)
    | with_reducible apply kept_failOp
    | with_reducible apply OutKept.next
    | with_reducible intro _ _ _ _
    | with_reducible intro _ _ _
    | with_reducible intro _ _
    | split

theorem kept_groupWrite (h : Kept κ s₀ s) (hκ : Off κ [.regs]) (addr : ℕ) (value : ℕ) :
    Kept κ s₀ (State.groupWrite s addr value).1 := by
  unfold State.groupWrite
  try dsimp only
  repeat' first
    | with_reducible assumption
    | exact hκ.sub (by decide)
    | with_reducible apply kept_writeRw
    | with_reducible intro _ _ _ _
    | with_reducible intro _ _ _
    | with_reducible intro _ _
    | split

theorem kept_execXfrGroupWrite (h : Kept κ s₀ s) (hκ : Off κ [.regs]) (addr : ℕ) (value : ℕ) :
    OutKept κ s₀ (execXfrGroupWrite addr value s) := by
  unfold execXfrGroupWrite
  try dsimp only
  repeat' first
    | with_reducible assumption
    | exact hκ.sub (by decide)
    | with_reducible apply kept_groupWrite
    | with_reducible apply OutKept.next
    | with_reducible intro _ _ _ _
    | with_reducible intro _ _ _
    | with_reducible intro _ _
    | split
    | dsimp only [itself]
    | refine Kept.of_fst ?_ (by with_reducible assumption)

end Sys2Proof.Machine
end

