-- ==== Sys2Proof/Laws/KeptLink.lean ====
section
/-! SUPPORT. What the operations of Machine/Link.lean keep (see Laws/Kept.lean). -/

namespace Sys2Proof.Machine

variable {κ : Part → Bool} {s₀ s : State}

theorem kept_newAgreement (h : Kept κ s₀ s) (h_ : Hello) (keyCount : ℕ) :
    Kept κ s₀ (State.newAgreement s h_ keyCount).2 := by
  unfold State.newAgreement
  try dsimp only
  repeat' first
    | with_reducible assumption
    | with_reducible apply kept_setFresh
    | with_reducible intro _ _ _ _
    | with_reducible intro _ _ _
    | with_reducible intro _ _
    | split
    | exact OptKept.none
    | with_reducible apply OptKept.some

theorem kept_sendHello (h : Kept κ s₀ s) (hκ : Off κ [.regs, .out]) (l : Link) :
    Kept κ s₀ (State.sendHello s l) := by
  unfold State.sendHello
  try dsimp only
  repeat' first
    | with_reducible assumption
    | exact hκ.sub (by decide)
    | with_reducible apply kept_sendControl
    | with_reducible intro _ _ _ _
    | with_reducible intro _ _ _
    | with_reducible intro _ _
    | split

theorem kept_postLink (h : Kept κ s₀ s) (hκ : Off κ [.regs, .fab, .hcp, .evt, .out]) (e : Ev) (l : Link) (reason : ℕ) :
    Kept κ s₀ (State.postLink s e l reason) := by
  unfold State.postLink
  try dsimp only
  repeat' first
    | with_reducible assumption
    | exact hκ.sub (by decide)
    | with_reducible apply kept_post
    | with_reducible intro _ _ _ _
    | with_reducible intro _ _ _
    | with_reducible intro _ _
    | split

theorem kept_reroute (h : Kept κ s₀ s) (hκ : Off κ [.regs, .fab, .out]) (die : ℕ) (a0 : List Frame) :
    Kept κ s₀ (State.reroute s die a0) := by
  induction a0 generalizing s die with
  | nil =>
    unfold State.reroute
    try dsimp only
    repeat' first
      | with_reducible assumption
  | cons x_ l_ ih =>
    unfold State.reroute
    try dsimp only
    repeat' first
      | with_reducible assumption
      | with_reducible apply ih
      | exact hκ.sub (by decide)
      | with_reducible apply kept_forwardAt
      | with_reducible intro _ _ _ _
      | with_reducible intro _ _ _
      | with_reducible intro _ _
      | split

theorem kept_linkDown (h : Kept κ s₀ s) (hκ : Off κ [.regs, .fab, .hcp, .evt, .out]) (l : Link) :
    Kept κ s₀ (State.linkDown s l) := by
  unfold State.linkDown
  try dsimp only
  repeat' first
    | with_reducible assumption
    | exact hκ.sub (by decide)
    | with_reducible apply kept_putLink
    | with_reducible apply kept_postLink
    | with_reducible apply kept_reroute
    | with_reducible intro _ _ _ _
    | with_reducible intro _ _ _
    | with_reducible intro _ _
    | split

theorem kept_linkFail (h : Kept κ s₀ s) (hκ : Off κ [.regs, .fab, .hcp, .evt, .out]) (l : Link) (e : Ev) (reason : ℕ) :
    Kept κ s₀ (State.linkFail s l e reason) := by
  unfold State.linkFail
  try dsimp only
  repeat' first
    | with_reducible assumption
    | exact hκ.sub (by decide)
    | with_reducible apply kept_postLink
    | with_reducible apply kept_putLink
    | with_reducible intro _ _ _ _
    | with_reducible intro _ _ _
    | with_reducible intro _ _
    | split

theorem kept_linksDown (h : Kept κ s₀ s) (hκ : Off κ [.regs, .fab, .hcp, .evt, .out]) (a0 : List Link) :
    Kept κ s₀ (State.linksDown s a0) := by
  induction a0 generalizing s with
  | nil =>
    unfold State.linksDown
    try dsimp only
    repeat' first
      | with_reducible assumption
  | cons x_ l_ ih =>
    unfold State.linksDown
    try dsimp only
    repeat' first
      | with_reducible assumption
      | with_reducible apply ih
      | exact hκ.sub (by decide)
      | with_reducible apply kept_linkDown
      | with_reducible intro _ _ _ _
      | with_reducible intro _ _ _
      | with_reducible intro _ _
      | split

theorem kept_trainPort (h : Kept κ s₀ s) (hκ : Off κ [.fab]) (port : ℕ) :
    Kept κ s₀ (State.trainPort s port) := by
  unfold State.trainPort
  try dsimp only
  repeat' first
    | with_reducible assumption
    | exact hκ.sub (by decide)
    | with_reducible apply kept_putLink
    | with_reducible apply kept_foldl
    | with_reducible intro _ _ _ _
    | with_reducible intro _ _ _
    | with_reducible intro _ _
    | split

theorem kept_disablePort (h : Kept κ s₀ s) (hκ : Off κ [.regs, .fab, .hcp, .evt, .out]) (port : ℕ) :
    Kept κ s₀ (State.disablePort s port) := by
  unfold State.disablePort
  try dsimp only
  repeat' first
    | with_reducible assumption
    | exact hκ.sub (by decide)
    | with_reducible apply kept_linksDown
    | with_reducible apply kept_setReg
    | with_reducible apply kept_onFab
    | with_reducible intro _ _ _ _
    | with_reducible intro _ _ _
    | with_reducible intro _ _
    | split

theorem kept_drainPort (h : Kept κ s₀ s) (hκ : Off κ [.regs, .fab, .hcp, .evt, .out]) (port : ℕ) :
    Kept κ s₀ (State.drainPort s port) := by
  unfold State.drainPort
  try dsimp only
  repeat' first
    | with_reducible assumption
    | exact hκ.sub (by decide)
    | with_reducible apply kept_postLink
    | with_reducible apply kept_putLink
    | with_reducible apply kept_foldl
    | with_reducible intro _ _ _ _
    | with_reducible intro _ _ _
    | with_reducible intro _ _
    | split

theorem kept_retryFailed (h : Kept κ s₀ s) (hκ : Off κ [.fab]) (port : ℕ) :
    Kept κ s₀ (State.retryFailed s port) := by
  unfold State.retryFailed
  try dsimp only
  repeat' first
    | with_reducible assumption
    | exact hκ.sub (by decide)
    | with_reducible apply kept_putLink
    | with_reducible apply kept_foldl
    | with_reducible intro _ _ _ _
    | with_reducible intro _ _ _
    | with_reducible intro _ _
    | split

theorem kept_portCfgWrite (h : Kept κ s₀ s) (hκ : Off κ [.regs, .fab, .hcp, .evt, .out]) (port : ℕ) (value : ℕ) :
    Kept κ s₀ (State.portCfgWrite s port value).1 := by
  unfold State.portCfgWrite
  try dsimp only
  repeat' first
    | with_reducible assumption
    | exact hκ.sub (by decide)
    | with_reducible apply kept_writeRw
    | with_reducible apply kept_disablePort
    | with_reducible apply kept_trainPort
    | with_reducible apply kept_drainPort
    | with_reducible apply kept_retryFailed
    | with_reducible intro _ _ _ _
    | with_reducible intro _ _ _
    | with_reducible intro _ _
    | split

theorem kept_execFabPortCfgWrite (h : Kept κ s₀ s) (hκ : Off κ [.regs, .fab, .hcp, .evt, .out]) (port : ℕ) (value : ℕ) :
    OutKept κ s₀ (execFabPortCfgWrite port value s) := by
  unfold execFabPortCfgWrite
  try dsimp only
  repeat' first
    | with_reducible assumption
    | exact hκ.sub (by decide)
    | with_reducible apply kept_portCfgWrite
    | with_reducible apply OutKept.next
    | with_reducible intro _ _ _ _
    | with_reducible intro _ _ _
    | with_reducible intro _ _
    | split
    | dsimp only [itself]
    | refine Kept.of_fst ?_ (by with_reducible assumption)

theorem kept_trained (h : Kept κ s₀ s) (hκ : Off κ [.regs, .fab, .hcp, .evt, .out]) (l : Link) :
    Kept κ s₀ (State.trained s l) := by
  unfold State.trained
  try dsimp only
  repeat' first
    | with_reducible assumption
    | exact hκ.sub (by decide)
    | with_reducible apply kept_setReg
    | with_reducible apply kept_putLink
    | with_reducible apply kept_postLink
    | with_reducible intro _ _ _ _
    | with_reducible intro _ _ _
    | with_reducible intro _ _
    | split

theorem kept_execLinkTrained (h : Kept κ s₀ s) (hκ : Off κ [.regs, .fab, .hcp, .evt, .out]) (link : LinkId) :
    OutKept κ s₀ (execLinkTrained link s) := by
  unfold execLinkTrained
  try dsimp only
  repeat' first
    | with_reducible assumption
    | exact hκ.sub (by decide)
    | with_reducible apply kept_trained
    | with_reducible apply OutKept.next
    | with_reducible apply kept_foldl
    | with_reducible intro _ _ _ _
    | with_reducible intro _ _ _
    | with_reducible intro _ _
    | split

theorem kept_execLaneTrainFail (h : Kept κ s₀ s) (hκ : Off κ [.fab]) (port : ℕ) :
    OutKept κ s₀ (execLaneTrainFail port s) := by
  unfold execLaneTrainFail
  try dsimp only
  repeat' first
    | with_reducible assumption
    | exact hκ.sub (by decide)
    | with_reducible apply kept_putLink
    | with_reducible apply OutKept.next
    | with_reducible intro _ _ _ _
    | with_reducible intro _ _ _
    | with_reducible intro _ _
    | split

theorem kept_serdesNext (h : Kept κ s₀ s) (hκ : Off κ [.regs, .fab, .hcp, .bld, .evt, .out]) (a0 : List ℕ) :
    Kept κ s₀ (State.serdesNext s a0) := by
  induction a0 generalizing s with
  | nil =>
    unfold State.serdesNext
    try dsimp only
    repeat' first
      | with_reducible assumption
      | exact hκ.sub (by decide)
      | with_reducible apply kept_onBld
      | with_reducible apply kept_drainPort
      | with_reducible intro _ _ _ _
      | with_reducible intro _ _ _
      | with_reducible intro _ _
      | split
  | cons x_ l_ ih =>
    unfold State.serdesNext
    try dsimp only
    repeat' first
      | with_reducible assumption
      | with_reducible apply ih
      | exact hκ.sub (by decide)
      | with_reducible apply kept_onBld
      | with_reducible apply kept_drainPort
      | with_reducible intro _ _ _ _
      | with_reducible intro _ _ _
      | with_reducible intro _ _
      | split

theorem kept_serdesBack (h : Kept κ s₀ s) (hκ : Off κ [.regs, .fab, .hcp, .bld, .evt, .out]) (port : ℕ) :
    Kept κ s₀ (State.serdesBack s port) := by
  unfold State.serdesBack
  try dsimp only
  repeat' first
    | with_reducible assumption
    | exact hκ.sub (by decide)
    | with_reducible apply kept_serdesNext
    | with_reducible intro _ _ _ _
    | with_reducible intro _ _ _
    | with_reducible intro _ _
    | split

theorem kept_linkUp (h : Kept κ s₀ s) (hκ : Off κ [.regs, .fab, .hcp, .bld, .evt, .out]) (l : Link) (own : Hello) (h_ : Hello) (crypt : Option LinkCrypt) :
    Kept κ s₀ (State.linkUp s l own h_ crypt) := by
  unfold State.linkUp
  try dsimp only
  repeat' first
    | with_reducible assumption
    | exact hκ.sub (by decide)
    | with_reducible apply kept_serdesBack
    | with_reducible apply kept_postLink
    | with_reducible apply kept_putLink
    | with_reducible apply kept_drainPort
    | with_reducible intro _ _ _ _
    | with_reducible intro _ _ _
    | with_reducible intro _ _
    | split

theorem kept_finishHandshake (h : Kept κ s₀ s) (hκ : Off κ [.regs, .fab, .hcp, .bld, .evt, .out]) (l : Link) (own : Hello) (h_ : Hello) (crypt : Option LinkCrypt) :
    Kept κ s₀ (State.finishHandshake s l own h_ crypt) := by
  unfold State.finishHandshake
  try dsimp only
  repeat' first
    | with_reducible assumption
    | exact hκ.sub (by decide)
    | with_reducible apply kept_linkFail
    | with_reducible apply kept_linkUp
    | with_reducible intro _ _ _ _
    | with_reducible intro _ _ _
    | with_reducible intro _ _
    | split

theorem kept_handshake (h : Kept κ s₀ s) (hκ : Off κ [.regs, .fab, .hcp, .bld, .evt, .out]) (l : Link) (h_ : Hello) :
    Kept κ s₀ (State.handshake s l h_) := by
  unfold State.handshake
  try dsimp only
  repeat' first
    | with_reducible assumption
    | exact hκ.sub (by decide)
    | with_reducible apply kept_linkFail
    | with_reducible apply kept_newAgreement
    | with_reducible apply kept_sendHello
    | with_reducible apply kept_putLink
    | with_reducible apply kept_finishHandshake
    | with_reducible intro _ _ _ _
    | with_reducible intro _ _ _
    | with_reducible intro _ _
    | split
    | dsimp only [itself]
    | refine Kept.of_snd ?_ (by with_reducible assumption)

theorem kept_countRx (h : Kept κ s₀ s) (hκ : Off κ [.regs]) (port : ℕ) (bytes : ℕ) :
    Kept κ s₀ (State.countRx s port bytes) := by
  unfold State.countRx
  try dsimp only
  repeat' first
    | with_reducible assumption
    | exact hκ.sub (by decide)
    | with_reducible apply kept_next
    | with_reducible apply kept_count
    | with_reducible intro _ _ _ _
    | with_reducible intro _ _ _
    | with_reducible intro _ _
    | split
    | dsimp only [itself]
    | refine Kept.of_snd ?_ (by with_reducible assumption)

theorem kept_sendLnack (h : Kept κ s₀ s) (hκ : Off κ [.regs, .out]) (l : Link) :
    Kept κ s₀ (State.sendLnack s l) := by
  unfold State.sendLnack
  try dsimp only
  repeat' first
    | with_reducible assumption
    | exact hκ.sub (by decide)
    | with_reducible apply kept_sendControl
    | with_reducible intro _ _ _ _
    | with_reducible intro _ _ _
    | with_reducible intro _ _
    | split

theorem kept_controlIn (h : Kept κ s₀ s) (hκ : Off κ [.regs, .out]) (l : Link) (hop : HopPart) (type : ℕ) :
    Kept κ s₀ (State.controlIn s l hop type).2 := by
  unfold State.controlIn
  try dsimp only
  repeat' first
    | with_reducible assumption
    | exact hκ.sub (by decide)
    | with_reducible apply kept_countRx
    | with_reducible apply kept_bump
    | with_reducible apply kept_sendLnack
    | with_reducible intro _ _ _ _
    | with_reducible intro _ _ _
    | with_reducible intro _ _
    | split

theorem kept_execHello (h : Kept κ s₀ s) (hκ : Off κ [.regs, .fab, .hcp, .bld, .evt, .out]) (link : LinkId) (f : HelloFrame) :
    OutKept κ s₀ (execHello link f s) := by
  unfold execHello
  try dsimp only
  repeat' first
    | with_reducible assumption
    | exact hκ.sub (by decide)
    | with_reducible apply kept_controlIn
    | with_reducible apply kept_handshake
    | with_reducible apply OutKept.next
    | with_reducible intro _ _ _ _
    | with_reducible intro _ _ _
    | with_reducible intro _ _
    | split
    | dsimp only [itself]
    | refine Kept.of_snd ?_ (by with_reducible assumption)

theorem kept_execHelloSendTimer (h : Kept κ s₀ s) (hκ : Off κ [.regs, .out]) (link : LinkId) :
    OutKept κ s₀ (execHelloSendTimer link s) := by
  unfold execHelloSendTimer
  try dsimp only
  repeat' first
    | with_reducible assumption
    | exact hκ.sub (by decide)
    | with_reducible apply kept_sendHello
    | with_reducible apply OutKept.next
    | with_reducible intro _ _ _ _
    | with_reducible intro _ _ _
    | with_reducible intro _ _
    | split

theorem kept_execHelloLossTimeout (h : Kept κ s₀ s) (hκ : Off κ [.fab]) (link : LinkId) :
    OutKept κ s₀ (execHelloLossTimeout link s) := by
  unfold execHelloLossTimeout
  try dsimp only
  repeat' first
    | with_reducible assumption
    | exact hκ.sub (by decide)
    | with_reducible apply kept_putLink
    | with_reducible apply OutKept.next
    | with_reducible intro _ _ _ _
    | with_reducible intro _ _ _
    | with_reducible intro _ _
    | split

theorem kept_execLinkDownRetrainExpiry (h : Kept κ s₀ s) (hκ : Off κ [.regs, .fab]) (link : LinkId) :
    OutKept κ s₀ (execLinkDownRetrainExpiry link s) := by
  unfold execLinkDownRetrainExpiry
  try dsimp only
  repeat' first
    | with_reducible assumption
    | exact hκ.sub (by decide)
    | with_reducible apply kept_setReg
    | with_reducible apply kept_putLink
    | with_reducible apply OutKept.next
    | with_reducible intro _ _ _ _
    | with_reducible intro _ _ _
    | with_reducible intro _ _
    | split

theorem kept_execLinkFailedRecheck (h : Kept κ s₀ s) (hκ : Off κ [.fab]) (link : LinkId) (h_ : Hello) :
    OutKept κ s₀ (execLinkFailedRecheck link h_ s) := by
  unfold execLinkFailedRecheck
  try dsimp only
  repeat' first
    | with_reducible assumption
    | exact hκ.sub (by decide)
    | with_reducible apply kept_putLink
    | with_reducible apply OutKept.next
    | with_reducible intro _ _ _ _
    | with_reducible intro _ _ _
    | with_reducible intro _ _
    | split

theorem kept_execLinkDrained (h : Kept κ s₀ s) (hκ : Off κ [.regs, .fab, .hcp, .evt, .out]) (link : LinkId) :
    OutKept κ s₀ (execLinkDrained link s) := by
  unfold execLinkDrained
  try dsimp only
  repeat' first
    | with_reducible assumption
    | exact hκ.sub (by decide)
    | with_reducible apply kept_linkDown
    | with_reducible apply OutKept.next
    | with_reducible intro _ _ _ _
    | with_reducible intro _ _ _
    | with_reducible intro _ _
    | split

theorem kept_execPortLockLoss (h : Kept κ s₀ s) (hκ : Off κ [.regs, .fab, .hcp, .evt, .out]) (link : LinkId) :
    OutKept κ s₀ (execPortLockLoss link s) := by
  unfold execPortLockLoss
  try dsimp only
  repeat' first
    | with_reducible assumption
    | exact hκ.sub (by decide)
    | with_reducible apply kept_linksDown
    | with_reducible apply OutKept.next
    | with_reducible intro _ _ _ _
    | with_reducible intro _ _ _
    | with_reducible intro _ _
    | split

theorem kept_pumpLink (h : Kept κ s₀ s) (hκ : Off κ [.regs, .fab, .out]) (id : LinkId) (a0 : ℕ) :
    Kept κ s₀ (State.pumpLink s id a0) := by
  induction a0 generalizing s id with
  | zero =>
    unfold State.pumpLink
    try dsimp only
    repeat' first
      | with_reducible assumption
  | succ n_ ih =>
    unfold State.pumpLink
    try dsimp only
    repeat' first
      | with_reducible assumption
      | with_reducible apply ih
      | exact hκ.sub (by decide)
      | with_reducible apply kept_linkPut
      | with_reducible intro _ _ _ _
      | with_reducible intro _ _ _
      | with_reducible intro _ _
      | split

theorem kept_linkAck (h : Kept κ s₀ s) (hκ : Off κ [.regs, .fab, .out]) (l : Link) (hop : Hop) :
    Kept κ s₀ (State.linkAck s l hop) := by
  unfold State.linkAck
  try dsimp only
  repeat' first
    | with_reducible assumption
    | exact hκ.sub (by decide)
    | with_reducible apply kept_pumpLink
    | with_reducible apply kept_putLink
    | with_reducible intro _ _ _ _
    | with_reducible intro _ _ _
    | with_reducible intro _ _
    | split

theorem kept_replayAll (h : Kept κ s₀ s) (hκ : Off κ [.regs, .fab, .hcp, .evt, .out]) (l : Link) :
    Kept κ s₀ (State.replayAll s l) := by
  unfold State.replayAll
  try dsimp only
  repeat' first
    | with_reducible assumption
    | exact hκ.sub (by decide)
    | with_reducible apply kept_count
    | with_reducible apply kept_linkDown
    | with_reducible apply kept_emit
    | with_reducible apply kept_putLink
    | with_reducible apply kept_foldl
    | with_reducible intro _ _ _ _
    | with_reducible intro _ _ _
    | with_reducible intro _ _
    | split

theorem kept_execLack (h : Kept κ s₀ s) (hκ : Off κ [.regs, .fab, .out]) (link : LinkId) (hop : HopPart) (credits : ℕ) :
    OutKept κ s₀ (execLack link hop credits s) := by
  unfold execLack
  try dsimp only
  repeat' first
    | with_reducible assumption
    | exact hκ.sub (by decide)
    | with_reducible apply kept_controlIn
    | with_reducible apply kept_linkAck
    | with_reducible apply OutKept.next
    | with_reducible intro _ _ _ _
    | with_reducible intro _ _ _
    | with_reducible intro _ _
    | split
    | dsimp only [itself]
    | refine Kept.of_snd ?_ (by with_reducible assumption)

theorem kept_lnack (h : Kept κ s₀ s) (hκ : Off κ [.regs, .fab, .hcp, .evt, .out]) (l : Link) (hop : Hop) :
    Kept κ s₀ (State.lnack s l hop) := by
  unfold State.lnack
  try dsimp only
  repeat' first
    | with_reducible assumption
    | exact hκ.sub (by decide)
    | with_reducible apply kept_linkAck
    | with_reducible apply kept_replayAll
    | with_reducible intro _ _ _ _
    | with_reducible intro _ _ _
    | with_reducible intro _ _
    | split

theorem kept_execLnack (h : Kept κ s₀ s) (hκ : Off κ [.regs, .fab, .hcp, .evt, .out]) (link : LinkId) (hop : HopPart) :
    OutKept κ s₀ (execLnack link hop s) := by
  unfold execLnack
  try dsimp only
  repeat' first
    | with_reducible assumption
    | exact hκ.sub (by decide)
    | with_reducible apply kept_controlIn
    | with_reducible apply kept_lnack
    | with_reducible apply OutKept.next
    | with_reducible intro _ _ _ _
    | with_reducible intro _ _ _
    | with_reducible intro _ _
    | split
    | dsimp only [itself]
    | refine Kept.of_snd ?_ (by with_reducible assumption)

theorem kept_execLinkReplayExpiry (h : Kept κ s₀ s) (hκ : Off κ [.regs, .fab, .hcp, .evt, .out]) (link : LinkId) :
    OutKept κ s₀ (execLinkReplayExpiry link s) := by
  unfold execLinkReplayExpiry
  try dsimp only
  repeat' first
    | with_reducible assumption
    | exact hκ.sub (by decide)
    | with_reducible apply kept_replayAll
    | with_reducible apply OutKept.next
    | with_reducible intro _ _ _ _
    | with_reducible intro _ _ _
    | with_reducible intro _ _
    | split

theorem kept_execLinkTimeoutExpiry (h : Kept κ s₀ s) (hκ : Off κ [.regs, .fab, .hcp, .evt, .out]) (link : LinkId) :
    OutKept κ s₀ (execLinkTimeoutExpiry link s) := by
  unfold execLinkTimeoutExpiry
  try dsimp only
  repeat' first
    | with_reducible assumption
    | exact hκ.sub (by decide)
    | with_reducible apply kept_linkDown
    | with_reducible apply OutKept.next
    | with_reducible intro _ _ _ _
    | with_reducible intro _ _ _
    | with_reducible intro _ _
    | split

theorem kept_mgmtHop (h : Kept κ s₀ s) (hκ : Off κ [.regs, .fab, .out]) (ingress : ℕ) (f : Frame) :
    Kept κ s₀ (State.mgmtHop s ingress f) := by
  unfold State.mgmtHop
  try dsimp only
  repeat' first
    | with_reducible assumption
    | exact hκ.sub (by decide)
    | with_reducible apply kept_onFab
    | with_reducible apply kept_linkSend
    | with_reducible intro _ _ _ _
    | with_reducible intro _ _ _
    | with_reducible intro _ _
    | split

theorem kept_routeIn (h : Kept κ s₀ s) (hκ : Off κ [.regs, .fab, .out]) (port : ℕ) (f : Frame) :
    Kept κ s₀ (State.routeIn s port f) := by
  unfold State.routeIn
  try dsimp only
  repeat' first
    | with_reducible assumption
    | exact hκ.sub (by decide)
    | with_reducible apply kept_mgmtHop
    | with_reducible apply kept_forwardAt
    | with_reducible intro _ _ _ _
    | with_reducible intro _ _ _
    | with_reducible intro _ _
    | split

theorem kept_rxSwitch (h : Kept κ s₀ s) (hκ : Off κ [.regs]) (l : Link) (tagKey : ℕ) :
    Kept κ s₀ (State.rxSwitch s l tagKey).2 := by
  unfold State.rxSwitch
  try dsimp only
  repeat' first
    | with_reducible assumption
    | exact hκ.sub (by decide)
    | with_reducible apply kept_bump
    | with_reducible intro _ _ _ _
    | with_reducible intro _ _ _
    | with_reducible intro _ _
    | split

theorem kept_dataFrame (h : Kept κ s₀ s) (hκ : Off κ [.regs, .fab, .out]) (l : Link) (hop : HopPart) (f : Frame) :
    Kept κ s₀ (State.dataFrame s l hop f) := by
  unfold State.dataFrame
  try dsimp only
  repeat' first
    | with_reducible assumption
    | exact hκ.sub (by decide)
    | with_reducible apply kept_sendLnack
    | with_reducible apply kept_bump
    | with_reducible apply kept_rxSwitch
    | with_reducible apply kept_linkAck
    | with_reducible apply kept_routeIn
    | with_reducible apply kept_countRx
    | with_reducible apply kept_sendControl
    | with_reducible intro _ _ _ _
    | with_reducible intro _ _ _
    | with_reducible intro _ _
    | split
    | dsimp only [itself]
    | refine Kept.of_snd ?_ (by with_reducible assumption)

theorem kept_execDataFrameReceive (h : Kept κ s₀ s) (hκ : Off κ [.regs, .fab, .out]) (link : LinkId) (hop : HopPart) (f : Frame) :
    OutKept κ s₀ (execDataFrameReceive link hop f s) := by
  unfold execDataFrameReceive
  try dsimp only
  repeat' first
    | with_reducible assumption
    | exact hκ.sub (by decide)
    | with_reducible apply kept_dataFrame
    | with_reducible apply OutKept.next
    | with_reducible intro _ _ _ _
    | with_reducible intro _ _ _
    | with_reducible intro _ _
    | split

theorem kept_execRekeyStart (h : Kept κ s₀ s) (hκ : Off κ [.regs, .fab, .out]) (link : LinkId) :
    OutKept κ s₀ (execRekeyStart link s) := by
  unfold execRekeyStart
  try dsimp only
  repeat' first
    | with_reducible assumption
    | exact hκ.sub (by decide)
    | with_reducible apply kept_newAgreement
    | with_reducible apply kept_putLink
    | with_reducible apply kept_sendControl
    | with_reducible apply OutKept.next
    | with_reducible intro _ _ _ _
    | with_reducible intro _ _ _
    | with_reducible intro _ _
    | split
    | dsimp only [itself]
    | refine Kept.of_snd ?_ (by with_reducible assumption)

theorem kept_rekey (h : Kept κ s₀ s) (hκ : Off κ [.regs, .fab, .hcp, .evt, .out]) (l : Link) (k : LinkCrypt) (h_ : Hello) (pk : KeyAgreement) :
    Kept κ s₀ (State.rekey s l k h_ pk) := by
  unfold State.rekey
  try dsimp only
  repeat' first
    | with_reducible assumption
    | exact hκ.sub (by decide)
    | with_reducible apply kept_newAgreement
    | with_reducible apply kept_linkDown
    | with_reducible apply kept_putLink
    | with_reducible apply kept_sendControl
    | with_reducible intro _ _ _ _
    | with_reducible intro _ _ _
    | with_reducible intro _ _
    | split
    | dsimp only [itself]
    | refine Kept.of_snd ?_ (by with_reducible assumption)

theorem kept_upHello (h : Kept κ s₀ s) (hκ : Off κ [.regs, .fab, .hcp, .evt, .out]) (l : Link) (h_ : Hello) :
    Kept κ s₀ (State.upHello s l h_) := by
  unfold State.upHello
  try dsimp only
  repeat' first
    | with_reducible assumption
    | exact hκ.sub (by decide)
    | with_reducible apply kept_linkDown
    | with_reducible apply kept_rekey
    | with_reducible intro _ _ _ _
    | with_reducible intro _ _ _
    | with_reducible intro _ _
    | split

theorem kept_execRekeyHello (h : Kept κ s₀ s) (hκ : Off κ [.regs, .fab, .hcp, .evt, .out]) (link : LinkId) (f : HelloFrame) :
    OutKept κ s₀ (execRekeyHello link f s) := by
  unfold execRekeyHello
  try dsimp only
  repeat' first
    | with_reducible assumption
    | exact hκ.sub (by decide)
    | with_reducible apply kept_controlIn
    | with_reducible apply kept_upHello
    | with_reducible apply OutKept.next
    | with_reducible intro _ _ _ _
    | with_reducible intro _ _ _
    | with_reducible intro _ _
    | split
    | dsimp only [itself]
    | refine Kept.of_snd ?_ (by with_reducible assumption)

theorem kept_execRekeyDeadline (h : Kept κ s₀ s) (hκ : Off κ [.regs, .fab, .hcp, .evt, .out]) (link : LinkId) :
    OutKept κ s₀ (execRekeyDeadline link s) := by
  unfold execRekeyDeadline
  try dsimp only
  repeat' first
    | with_reducible assumption
    | exact hκ.sub (by decide)
    | with_reducible apply kept_linkDown
    | with_reducible apply OutKept.next
    | with_reducible intro _ _ _ _
    | with_reducible intro _ _ _
    | with_reducible intro _ _
    | split

theorem kept_peerWrite (h : Kept κ s₀ s) (hκ : Off κ [.regs, .fab]) (i : ℕ) (value : ℕ) :
    Kept κ s₀ (State.peerWrite s i value).1 := by
  unfold State.peerWrite
  try dsimp only
  repeat' first
    | with_reducible assumption
    | exact hκ.sub (by decide)
    | with_reducible apply kept_onFab
    | with_reducible apply kept_writeRw
    | with_reducible apply kept_putLink
    | with_reducible intro _ _ _ _
    | with_reducible intro _ _ _
    | with_reducible intro _ _
    | split

theorem kept_execFabPeerWrite (h : Kept κ s₀ s) (hκ : Off κ [.regs, .fab]) (i : ℕ) (value : ℕ) :
    OutKept κ s₀ (execFabPeerWrite i value s) := by
  unfold execFabPeerWrite
  try dsimp only
  repeat' first
    | with_reducible assumption
    | exact hκ.sub (by decide)
    | with_reducible apply kept_peerWrite
    | with_reducible apply OutKept.next
    | with_reducible intro _ _ _ _
    | with_reducible intro _ _ _
    | with_reducible intro _ _
    | split
    | dsimp only [itself]
    | refine Kept.of_fst ?_ (by with_reducible assumption)

theorem kept_fabCtrlWrite (h : Kept κ s₀ s) (hκ : Off κ [.regs]) (value : ℕ) :
    Kept κ s₀ (State.fabCtrlWrite s value).1 := by
  unfold State.fabCtrlWrite
  try dsimp only
  repeat' first
    | with_reducible assumption
    | exact hκ.sub (by decide)
    | with_reducible apply kept_writeRw
    | with_reducible intro _ _ _ _
    | with_reducible intro _ _ _
    | with_reducible intro _ _
    | split

theorem kept_execFabCtrlWrite (h : Kept κ s₀ s) (hκ : Off κ [.regs]) (value : ℕ) :
    OutKept κ s₀ (execFabCtrlWrite value s) := by
  unfold execFabCtrlWrite
  try dsimp only
  repeat' first
    | with_reducible assumption
    | exact hκ.sub (by decide)
    | with_reducible apply kept_fabCtrlWrite
    | with_reducible apply OutKept.next
    | with_reducible intro _ _ _ _
    | with_reducible intro _ _ _
    | with_reducible intro _ _
    | split
    | dsimp only [itself]
    | refine Kept.of_fst ?_ (by with_reducible assumption)

theorem kept_fabTimeoutWrite (h : Kept κ s₀ s) (hκ : Off κ [.regs]) (value : ℕ) :
    Kept κ s₀ (State.fabTimeoutWrite s value).1 := by
  unfold State.fabTimeoutWrite
  try dsimp only
  repeat' first
    | with_reducible assumption
    | exact hκ.sub (by decide)
    | with_reducible apply kept_writeRw
    | with_reducible intro _ _ _ _
    | with_reducible intro _ _ _
    | with_reducible intro _ _
    | split

theorem kept_execFabTimeoutWrite (h : Kept κ s₀ s) (hκ : Off κ [.regs]) (value : ℕ) :
    OutKept κ s₀ (execFabTimeoutWrite value s) := by
  unfold execFabTimeoutWrite
  try dsimp only
  repeat' first
    | with_reducible assumption
    | exact hκ.sub (by decide)
    | with_reducible apply kept_fabTimeoutWrite
    | with_reducible apply OutKept.next
    | with_reducible intro _ _ _ _
    | with_reducible intro _ _ _
    | with_reducible intro _ _
    | split
    | dsimp only [itself]
    | refine Kept.of_fst ?_ (by with_reducible assumption)

end Sys2Proof.Machine
end

