-- ==== Sys2Proof/Laws/KeptPages.lean ====
section
/-! SUPPORT. What the operations of Machine/Pages.lean keep (see Laws/Kept.lean). -/

namespace Sys2Proof.Machine

variable {κ : Part → Bool} {s₀ s : State}

theorem kept_putPage (h : Kept κ s₀ s) (hκ : Off κ [.pge]) (p : Page) :
    Kept κ s₀ (State.putPage s p) := by
  unfold State.putPage
  try dsimp only
  repeat' first
    | with_reducible assumption
    | exact hκ.sub (by decide)
    | with_reducible apply kept_onPge
    | with_reducible intro _ _ _ _
    | with_reducible intro _ _ _
    | with_reducible intro _ _
    | split

theorem kept_watermark (h : Kept κ s₀ s) (hκ : Off κ [.regs])  :
    Kept κ s₀ (State.watermark s) := by
  unfold State.watermark
  try dsimp only
  repeat' first
    | with_reducible assumption
    | exact hκ.sub (by decide)
    | with_reducible apply kept_setReg
    | with_reducible intro _ _ _ _
    | with_reducible intro _ _ _
    | with_reducible intro _ _
    | split

theorem kept_invalidate (h : Kept κ s₀ s) (hκ : Off κ [.pge]) (idx : ℕ) :
    Kept κ s₀ (State.invalidate s idx) := by
  unfold State.invalidate
  try dsimp only
  repeat' first
    | with_reducible assumption
    | exact hκ.sub (by decide)
    | with_reducible apply kept_onPge
    | with_reducible intro _ _ _ _
    | with_reducible intro _ _ _
    | with_reducible intro _ _
    | split

theorem kept_xlateRead (h : Kept κ s₀ s) (hκ : Off κ [.regs, .pge]) (idxs : List ℕ) (tile : ℕ) :
    Kept κ s₀ (State.xlateRead s idxs tile) := by
  unfold State.xlateRead
  try dsimp only
  repeat' first
    | with_reducible assumption
    | exact hκ.sub (by decide)
    | with_reducible apply kept_count
    | with_reducible apply kept_setFresh
    | with_reducible apply kept_onPge
    | with_reducible intro _ _ _ _
    | with_reducible intro _ _ _
    | with_reducible intro _ _
    | split

theorem kept_allocPage (h : Kept κ s₀ s) (hκ : Off κ [.regs, .pge]) (p : Page) :
    OptKept κ s₀ Prod.snd (State.allocPage s p) := by
  unfold State.allocPage
  try dsimp only
  repeat' first
    | with_reducible assumption
    | exact hκ.sub (by decide)
    | with_reducible apply kept_onPge
    | with_reducible apply kept_bump
    | with_reducible apply kept_watermark
    | exact OptKept.none
    | with_reducible apply OptKept.some
    | with_reducible intro _ _ _ _
    | with_reducible intro _ _ _
    | with_reducible intro _ _
    | split

theorem kept_refuseAsker (h : Kept κ s₀ s) (hκ : Off κ [.regs, .fab, .hcp, .out]) (asker : Option (ℕ × ℕ)) :
    Kept κ s₀ (State.refuseAsker s asker) := by
  unfold State.refuseAsker
  try dsimp only
  repeat' first
    | with_reducible assumption
    | exact hκ.sub (by decide)
    | with_reducible apply kept_sendMsg
    | with_reducible intro _ _ _ _
    | with_reducible intro _ _ _
    | with_reducible intro _ _
    | split

theorem kept_endMigration (h : Kept κ s₀ s) (hκ : Off κ [.pge, .hcp]) (idx : ℕ) :
    Kept κ s₀ (State.endMigration s idx) := by
  unfold State.endMigration
  try dsimp only
  repeat' first
    | with_reducible assumption
    | exact hκ.sub (by decide)
    | with_reducible apply kept_onHcp
    | with_reducible apply kept_onPge
    | with_reducible intro _ _ _ _
    | with_reducible intro _ _ _
    | with_reducible intro _ _
    | split

theorem kept_freePage (h : Kept κ s₀ s) (hκ : Off κ [.regs, .pge, .fab, .hcp, .out]) (idx : ℕ) :
    Kept κ s₀ (State.freePage s idx) := by
  unfold State.freePage
  try dsimp only
  repeat' first
    | with_reducible assumption
    | exact hκ.sub (by decide)
    | with_reducible apply kept_onPge
    | with_reducible apply kept_invalidate
    | with_reducible apply kept_watermark
    | with_reducible apply kept_refuseAsker
    | with_reducible apply kept_endMigration
    | with_reducible apply kept_putPage
    | with_reducible intro _ _ _ _
    | with_reducible intro _ _ _
    | with_reducible intro _ _
    | split

theorem kept_freePages (h : Kept κ s₀ s) (hκ : Off κ [.regs, .pge, .fab, .hcp, .out]) (a0 : List ℕ) :
    Kept κ s₀ (State.freePages s a0) := by
  induction a0 generalizing s with
  | nil =>
    unfold State.freePages
    try dsimp only
    repeat' first
      | with_reducible assumption
  | cons x_ l_ ih =>
    unfold State.freePages
    try dsimp only
    repeat' first
      | with_reducible assumption
      | with_reducible apply ih
      | exact hκ.sub (by decide)
      | with_reducible apply kept_freePage
      | with_reducible intro _ _ _ _
      | with_reducible intro _ _ _
      | with_reducible intro _ _
      | split

theorem kept_sendFrees (h : Kept κ s₀ s) (hκ : Off κ [.regs, .fab, .hcp, .out]) (id : ℕ) (epoch : ℕ) (ps : List Page) :
    Kept κ s₀ (State.sendFrees s id epoch ps) := by
  unfold State.sendFrees
  try dsimp only
  repeat' first
    | with_reducible assumption
    | exact hκ.sub (by decide)
    | with_reducible apply kept_sendMsg
    | with_reducible apply kept_foldl
    | with_reducible intro _ _ _ _
    | with_reducible intro _ _ _
    | with_reducible intro _ _
    | split

theorem kept_freeEverywhere (h : Kept κ s₀ s) (hκ : Off κ [.regs, .pge, .fab, .hcp, .out]) (id : ℕ) (epoch : ℕ) (ps : List Page) :
    Kept κ s₀ (State.freeEverywhere s id epoch ps) := by
  unfold State.freeEverywhere
  try dsimp only
  repeat' first
    | with_reducible assumption
    | exact hκ.sub (by decide)
    | with_reducible apply kept_freePages
    | with_reducible apply kept_sendFrees
    | with_reducible intro _ _ _ _
    | with_reducible intro _ _ _
    | with_reducible intro _ _
    | split

theorem kept_freeKv (h : Kept κ s₀ s) (hκ : Off κ [.regs, .pge, .fab, .hcp, .out]) (id : ℕ) (epoch : ℕ) :
    Kept κ s₀ (State.freeKv s id epoch) := by
  unfold State.freeKv
  try dsimp only
  repeat' first
    | with_reducible assumption
    | exact hκ.sub (by decide)
    | with_reducible apply kept_freeEverywhere
    | with_reducible intro _ _ _ _
    | with_reducible intro _ _ _
    | with_reducible intro _ _
    | split

theorem kept_unreserve (h : Kept κ s₀ s) (hκ : Off κ [.regs, .pge]) (id : ℕ) :
    Kept κ s₀ (State.unreserve s id) := by
  unfold State.unreserve
  try dsimp only
  repeat' first
    | with_reducible assumption
    | exact hκ.sub (by decide)
    | with_reducible apply kept_onPge
    | with_reducible apply kept_watermark
    | with_reducible intro _ _ _ _
    | with_reducible intro _ _ _
    | with_reducible intro _ _
    | split

theorem kept_reserve (h : Kept κ s₀ s) (hκ : Off κ [.regs, .pge]) (id : ℕ) (ps : ℕ) (frames : ℕ) :
    Kept κ s₀ (State.reserve s id ps frames) := by
  unfold State.reserve
  try dsimp only
  repeat' first
    | with_reducible assumption
    | exact hκ.sub (by decide)
    | with_reducible apply kept_onPge
    | with_reducible apply kept_watermark
    | with_reducible intro _ _ _ _
    | with_reducible intro _ _ _
    | with_reducible intro _ _
    | split

theorem kept_adjustReservation (h : Kept κ s₀ s) (hκ : Off κ [.regs, .pge]) (id : ℕ) (up : ℕ) (down : ℕ) :
    Kept κ s₀ (State.adjustReservation s id up down) := by
  unfold State.adjustReservation
  try dsimp only
  repeat' first
    | with_reducible assumption
    | exact hκ.sub (by decide)
    | with_reducible apply kept_onPge
    | with_reducible apply kept_watermark
    | with_reducible intro _ _ _ _
    | with_reducible intro _ _ _
    | with_reducible intro _ _
    | split

theorem kept_allocAll (h : Kept κ s₀ s) (hκ : Off κ [.regs, .pge]) (id : ℕ) (a0 : List Page) :
    Kept κ s₀ (State.allocAll s id a0) := by
  induction a0 generalizing s id with
  | nil =>
    unfold State.allocAll
    try dsimp only
    repeat' first
      | with_reducible assumption
  | cons x_ l_ ih =>
    unfold State.allocAll
    try dsimp only
    repeat' first
      | with_reducible assumption
      | with_reducible apply ih
      | exact hκ.sub (by decide)
      | with_reducible apply kept_allocPage
      | with_reducible apply kept_adjustReservation
      | with_reducible intro _ _ _ _
      | with_reducible intro _ _ _
      | with_reducible intro _ _
      | split
      | dsimp only [itself]
      | refine OptKept.get_snd ?_ (by with_reducible assumption)

theorem kept_setParity (h : Kept κ s₀ s) (hκ : Off κ [.regs, .pge, .fab, .hcp, .out]) (r : Record) :
    Kept κ s₀ (State.setParity s r) := by
  unfold State.setParity
  try dsimp only
  repeat' first
    | with_reducible assumption
    | exact hκ.sub (by decide)
    | with_reducible apply kept_freeEverywhere
    | with_reducible apply kept_putPage
    | with_reducible apply kept_foldl
    | with_reducible intro _ _ _ _
    | with_reducible intro _ _ _
    | with_reducible intro _ _
    | split

theorem kept_regroup (h : Kept κ s₀ s) (hκ : Off κ [.regs, .pge, .fab, .hcp, .out]) (r : Record) :
    Kept κ s₀ (State.regroup s r) := by
  unfold State.regroup
  try dsimp only
  repeat' first
    | with_reducible assumption
    | exact hκ.sub (by decide)
    | with_reducible apply kept_putPage
    | with_reducible apply kept_setParity
    | with_reducible apply kept_foldl
    | with_reducible intro _ _ _ _
    | with_reducible intro _ _ _
    | with_reducible intro _ _
    | split

theorem kept_dropKv (h : Kept κ s₀ s) (hκ : Off κ [.regs, .pge, .fab, .hcp, .out]) (r : Record) (ps : List Page) :
    Kept κ s₀ (State.dropKv s r ps) := by
  unfold State.dropKv
  try dsimp only
  repeat' first
    | with_reducible assumption
    | exact hκ.sub (by decide)
    | with_reducible apply kept_adjustReservation
    | with_reducible apply kept_freeEverywhere
    | with_reducible intro _ _ _ _
    | with_reducible intro _ _ _
    | with_reducible intro _ _
    | split

theorem kept_stepPages (h : Kept κ s₀ s) (hκ : Off κ [.regs, .pge, .fab, .hcp, .out]) (r : Record) (n : ℕ) :
    Kept κ s₀ (State.stepPages s r n) := by
  unfold State.stepPages
  try dsimp only
  repeat' first
    | with_reducible assumption
    | exact hκ.sub (by decide)
    | with_reducible apply kept_allocAll
    | with_reducible apply kept_regroup
    | with_reducible apply kept_dropKv
    | with_reducible intro _ _ _ _
    | with_reducible intro _ _ _
    | with_reducible intro _ _
    | split

theorem kept_trimKv (h : Kept κ s₀ s) (hκ : Off κ [.regs, .pge, .fab, .hcp, .out]) (r : Record) :
    Kept κ s₀ (State.trimKv s r) := by
  unfold State.trimKv
  try dsimp only
  repeat' first
    | with_reducible assumption
    | exact hκ.sub (by decide)
    | with_reducible apply kept_regroup
    | with_reducible apply kept_dropKv
    | with_reducible intro _ _ _ _
    | with_reducible intro _ _ _
    | with_reducible intro _ _
    | split

theorem kept_sealKv (h : Kept κ s₀ s) (hκ : Off κ [.pge]) (r : Record) :
    Kept κ s₀ (State.sealKv s r) := by
  unfold State.sealKv
  try dsimp only
  repeat' first
    | with_reducible assumption
    | exact hκ.sub (by decide)
    | with_reducible apply kept_onPge
    | with_reducible intro _ _ _ _
    | with_reducible intro _ _ _
    | with_reducible intro _ _
    | split

theorem kept_makePrefix (h : Kept κ s₀ s) (hκ : Off κ [.pge]) (r : Record) (key : ℕ) (len : ℕ) :
    Kept κ s₀ (State.makePrefix s r key len) := by
  unfold State.makePrefix
  try dsimp only
  repeat' first
    | with_reducible assumption
    | exact hκ.sub (by decide)
    | with_reducible apply kept_putPage
    | with_reducible apply kept_onPge
    | with_reducible apply kept_invalidate
    | with_reducible apply kept_foldl
    | with_reducible intro _ _ _ _
    | with_reducible intro _ _ _
    | with_reducible intro _ _
    | split

theorem kept_linkPrefix (h : Kept κ s₀ s) (hκ : Off κ [.pge]) (r : Record) (ps : List Page) :
    Kept κ s₀ (State.linkPrefix s r ps) := by
  unfold State.linkPrefix
  try dsimp only
  repeat' first
    | with_reducible assumption
    | exact hκ.sub (by decide)
    | with_reducible apply kept_putPage
    | with_reducible apply kept_onPge
    | with_reducible apply kept_foldl
    | with_reducible intro _ _ _ _
    | with_reducible intro _ _ _
    | with_reducible intro _ _
    | split

theorem kept_execPrefixIdleExpiry (h : Kept κ s₀ s) (hκ : Off κ [.regs, .pge, .fab, .hcp, .out]) (idx : ℕ) :
    OutKept κ s₀ (execPrefixIdleExpiry idx s) := by
  unfold execPrefixIdleExpiry
  try dsimp only
  repeat' first
    | with_reducible assumption
    | exact hκ.sub (by decide)
    | with_reducible apply kept_freePage
    | with_reducible apply OutKept.next
    | with_reducible intro _ _ _ _
    | with_reducible intro _ _ _
    | with_reducible intro _ _
    | split

theorem kept_growHistory (h : Kept κ s₀ s) (hκ : Off κ [.regs, .pge]) (r : Record) (a0 : ℕ) :
    OptKept κ s₀ itself (State.growHistory s r a0) := by
  induction a0 with
  | zero => exact OptKept.some h
  | succ n ih =>
    unfold State.growHistory
    cases hg : s.growHistory r n with
    | none => exact OptKept.none
    | some t =>
      have ht : Kept κ s₀ t := ih.get_id hg
      dsimp only
      split
      · exact OptKept.some ht
      · split
        · exact OptKept.none
        · exact OptKept.map fun x hx => (kept_allocPage ht (hκ.sub (by decide)) _).get hx

theorem kept_writeHistory (h : Kept κ s₀ s) (hκ : Off κ [.mem, .regs, .pge]) (r : Record) (tokens : List ℕ) :
    OptKept κ s₀ itself (State.writeHistory s r tokens) := by
  unfold State.writeHistory
  try dsimp only
  repeat' first
    | with_reducible assumption
    | exact hκ.sub (by decide)
    | with_reducible apply kept_growHistory
    | with_reducible apply kept_wr
    | exact OptKept.none
    | with_reducible apply OptKept.some
    | with_reducible apply kept_foldl
    | with_reducible intro _ _ _ _
    | with_reducible intro _ _ _
    | with_reducible intro _ _
    | split
    | dsimp only [itself]
    | refine OptKept.getD (f := itself) ?_ ?_
    | refine OptKept.get_id ?_ (by with_reducible assumption)

theorem kept_freeHistory (h : Kept κ s₀ s) (hκ : Off κ [.regs, .pge, .fab, .hcp, .out]) (id : ℕ) :
    Kept κ s₀ (State.freeHistory s id) := by
  unfold State.freeHistory
  try dsimp only
  repeat' first
    | with_reducible assumption
    | exact hκ.sub (by decide)
    | with_reducible apply kept_freePages
    | with_reducible intro _ _ _ _
    | with_reducible intro _ _ _
    | with_reducible intro _ _
    | split

theorem kept_holderEpoch (h : Kept κ s₀ s) (hκ : Off κ [.pge]) (id : ℕ) (epoch : ℕ) :
    OptKept κ s₀ itself (State.holderEpoch s id epoch) := by
  unfold State.holderEpoch
  try dsimp only
  repeat' first
    | with_reducible assumption
    | exact hκ.sub (by decide)
    | with_reducible apply kept_onPge
    | exact OptKept.none
    | with_reducible apply OptKept.some
    | with_reducible intro _ _ _ _
    | with_reducible intro _ _ _
    | with_reducible intro _ _
    | split

theorem kept_raiseDeadline (h : Kept κ s₀ s) (hκ : Off κ [.pge]) (p : Page → Bool) (d : ℕ) :
    Kept κ s₀ (State.raiseDeadline s p d) := by
  unfold State.raiseDeadline
  try dsimp only
  repeat' first
    | with_reducible assumption
    | exact hκ.sub (by decide)
    | with_reducible apply kept_onPge
    | with_reducible intro _ _ _ _
    | with_reducible intro _ _ _
    | with_reducible intro _ _
    | split

theorem kept_execPgRenew (h : Kept κ s₀ s) (hκ : Off κ [.regs, .pge, .fab, .hcp, .out]) (src : ℕ) (id : ℕ) (epoch : ℕ) (idxs : List ℕ) :
    OutKept κ s₀ (execPgRenew src id epoch idxs s) := by
  unfold execPgRenew
  try dsimp only
  repeat' first
    | with_reducible assumption
    | exact hκ.sub (by decide)
    | with_reducible apply kept_takeMsg
    | with_reducible apply kept_holderEpoch
    | with_reducible apply kept_raiseDeadline
    | with_reducible apply kept_sendMsg
    | with_reducible apply OutKept.next
    | with_reducible intro _ _ _ _
    | with_reducible intro _ _ _
    | with_reducible intro _ _
    | split
    | dsimp only [itself]
    | refine OptKept.getD (f := itself) ?_ ?_
    | refine OptKept.get_id ?_ (by with_reducible assumption)

theorem kept_execPgTtl (h : Kept κ s₀ s) (hκ : Off κ [.regs, .pge, .fab, .hcp, .out]) (src : ℕ) (id : ℕ) (epoch : ℕ) (ticks : ℕ) :
    OutKept κ s₀ (execPgTtl src id epoch ticks s) := by
  unfold execPgTtl
  try dsimp only
  repeat' first
    | with_reducible assumption
    | exact hκ.sub (by decide)
    | with_reducible apply kept_takeMsg
    | with_reducible apply kept_holderEpoch
    | with_reducible apply kept_raiseDeadline
    | with_reducible apply kept_sendMsg
    | with_reducible apply OutKept.next
    | with_reducible intro _ _ _ _
    | with_reducible intro _ _ _
    | with_reducible intro _ _
    | split
    | dsimp only [itself]
    | refine OptKept.getD (f := itself) ?_ ?_
    | refine OptKept.get_id ?_ (by with_reducible assumption)

theorem kept_execPgFree (h : Kept κ s₀ s) (hκ : Off κ [.regs, .pge, .fab, .hcp, .out]) (src : ℕ) (id : ℕ) (epoch : ℕ) (idxs : List ℕ) :
    OutKept κ s₀ (execPgFree src id epoch idxs s) := by
  unfold execPgFree
  try dsimp only
  repeat' first
    | with_reducible assumption
    | exact hκ.sub (by decide)
    | with_reducible apply kept_takeMsg
    | with_reducible apply kept_holderEpoch
    | with_reducible apply kept_freePages
    | with_reducible apply kept_sendMsg
    | with_reducible apply OutKept.next
    | with_reducible intro _ _ _ _
    | with_reducible intro _ _ _
    | with_reducible intro _ _
    | split
    | dsimp only [itself]
    | refine OptKept.getD (f := itself) ?_ ?_
    | refine OptKept.get_id ?_ (by with_reducible assumption)

theorem kept_postOrphan (h : Kept κ s₀ s) (hκ : Off κ [.regs, .fab, .hcp, .evt, .out]) (id : ℕ) (n : ℕ) :
    Kept κ s₀ (State.postOrphan s id n) := by
  unfold State.postOrphan
  try dsimp only
  repeat' first
    | with_reducible assumption
    | exact hκ.sub (by decide)
    | with_reducible apply kept_post
    | with_reducible intro _ _ _ _
    | with_reducible intro _ _ _
    | with_reducible intro _ _
    | split

theorem kept_orphans (h : Kept κ s₀ s) (hκ : Off κ [.regs, .pge, .fab, .hcp, .evt, .out]) (a0 : List ℕ) :
    Kept κ s₀ (State.orphans s a0) := by
  induction a0 generalizing s with
  | nil =>
    unfold State.orphans
    try dsimp only
    repeat' first
      | with_reducible assumption
  | cons x_ l_ ih =>
    unfold State.orphans
    try dsimp only
    repeat' first
      | with_reducible assumption
      | with_reducible apply ih
      | exact hκ.sub (by decide)
      | with_reducible apply kept_freePages
      | with_reducible apply kept_onPge
      | with_reducible apply kept_postOrphan
      | with_reducible intro _ _ _ _
      | with_reducible intro _ _ _
      | with_reducible intro _ _
      | split

theorem kept_execPageDeadlineCheck (h : Kept κ s₀ s) (hκ : Off κ [.regs, .pge, .fab, .hcp, .evt, .out])  :
    OutKept κ s₀ (execPageDeadlineCheck s) := by
  unfold execPageDeadlineCheck
  try dsimp only
  repeat' first
    | with_reducible assumption
    | exact hκ.sub (by decide)
    | with_reducible apply kept_orphans
    | with_reducible apply OutKept.next
    | with_reducible intro _ _ _ _
    | with_reducible intro _ _ _
    | with_reducible intro _ _
    | split

theorem kept_execPgRenewTimer (h : Kept κ s₀ s) (hκ : Off κ [.regs, .fab, .hcp, .out])  :
    OutKept κ s₀ (execPgRenewTimer s) := by
  unfold execPgRenewTimer
  try dsimp only
  repeat' first
    | with_reducible assumption
    | exact hκ.sub (by decide)
    | with_reducible apply kept_sendMsg
    | with_reducible apply OutKept.next
    | with_reducible apply kept_foldl
    | with_reducible intro _ _ _ _
    | with_reducible intro _ _ _
    | with_reducible intro _ _
    | split

theorem kept_modelWrite (h : Kept κ s₀ s) (hκ : Off κ [.regs]) (m : ℕ) (value : ℕ) :
    Kept κ s₀ (State.modelWrite s m value).1 := by
  unfold State.modelWrite
  try dsimp only
  repeat' first
    | with_reducible assumption
    | exact hκ.sub (by decide)
    | with_reducible apply kept_writeRw
    | with_reducible intro _ _ _ _
    | with_reducible intro _ _ _
    | with_reducible intro _ _
    | split

theorem kept_execPgeModelWrite (h : Kept κ s₀ s) (hκ : Off κ [.regs]) (m : ℕ) (value : ℕ) :
    OutKept κ s₀ (execPgeModelWrite m value s) := by
  unfold execPgeModelWrite
  try dsimp only
  repeat' first
    | with_reducible assumption
    | exact hκ.sub (by decide)
    | with_reducible apply kept_modelWrite
    | with_reducible apply OutKept.next
    | with_reducible intro _ _ _ _
    | with_reducible intro _ _ _
    | with_reducible intro _ _
    | split
    | dsimp only [itself]
    | refine Kept.of_fst ?_ (by with_reducible assumption)

theorem kept_poolWrite (h : Kept κ s₀ s) (hκ : Off κ [.regs]) (value : ℕ) :
    Kept κ s₀ (State.poolWrite s value).1 := by
  unfold State.poolWrite
  try dsimp only
  repeat' first
    | with_reducible assumption
    | exact hκ.sub (by decide)
    | with_reducible apply kept_writeRw
    | with_reducible apply kept_watermark
    | with_reducible intro _ _ _ _
    | with_reducible intro _ _ _
    | with_reducible intro _ _
    | split

theorem kept_execPgeKvPoolWrite (h : Kept κ s₀ s) (hκ : Off κ [.regs]) (value : ℕ) :
    OutKept κ s₀ (execPgeKvPoolWrite value s) := by
  unfold execPgeKvPoolWrite
  try dsimp only
  repeat' first
    | with_reducible assumption
    | exact hκ.sub (by decide)
    | with_reducible apply kept_poolWrite
    | with_reducible apply OutKept.next
    | with_reducible intro _ _ _ _
    | with_reducible intro _ _ _
    | with_reducible intro _ _
    | split
    | dsimp only [itself]
    | refine Kept.of_fst ?_ (by with_reducible assumption)

theorem kept_ochreWrite (h : Kept κ s₀ s) (hκ : Off κ [.regs]) (addr : ℕ) (value : ℕ) :
    Kept κ s₀ (State.ochreWrite s addr value).1 := by
  unfold State.ochreWrite
  try dsimp only
  repeat' first
    | with_reducible assumption
    | exact hκ.sub (by decide)
    | with_reducible apply kept_writeRw
    | with_reducible intro _ _ _ _
    | with_reducible intro _ _ _
    | with_reducible intro _ _
    | split

theorem kept_execPgeOchreWrite (h : Kept κ s₀ s) (hκ : Off κ [.regs]) (addr : ℕ) (value : ℕ) :
    OutKept κ s₀ (execPgeOchreWrite addr value s) := by
  unfold execPgeOchreWrite
  try dsimp only
  repeat' first
    | with_reducible assumption
    | exact hκ.sub (by decide)
    | with_reducible apply kept_ochreWrite
    | with_reducible apply OutKept.next
    | with_reducible intro _ _ _ _
    | with_reducible intro _ _ _
    | with_reducible intro _ _
    | split
    | dsimp only [itself]
    | refine Kept.of_fst ?_ (by with_reducible assumption)

theorem kept_umberCtrlWrite (h : Kept κ s₀ s) (hκ : Off κ [.regs]) (u : ℕ) (value : ℕ) :
    Kept κ s₀ (State.umberCtrlWrite s u value).1 := by
  unfold State.umberCtrlWrite
  try dsimp only
  repeat' first
    | with_reducible assumption
    | exact hκ.sub (by decide)
    | with_reducible apply kept_writeRw
    | with_reducible intro _ _ _ _
    | with_reducible intro _ _ _
    | with_reducible intro _ _
    | split

theorem kept_execPgeUmberCtrlWrite (h : Kept κ s₀ s) (hκ : Off κ [.regs]) (u : ℕ) (value : ℕ) :
    OutKept κ s₀ (execPgeUmberCtrlWrite u value s) := by
  unfold execPgeUmberCtrlWrite
  try dsimp only
  repeat' first
    | with_reducible assumption
    | exact hκ.sub (by decide)
    | with_reducible apply kept_umberCtrlWrite
    | with_reducible apply OutKept.next
    | with_reducible intro _ _ _ _
    | with_reducible intro _ _ _
    | with_reducible intro _ _
    | split
    | dsimp only [itself]
    | refine Kept.of_fst ?_ (by with_reducible assumption)

theorem kept_umberWrite (h : Kept κ s₀ s) (hκ : Off κ [.regs]) (addr : ℕ) (value : ℕ) :
    Kept κ s₀ (State.umberWrite s addr value).1 := by
  unfold State.umberWrite
  try dsimp only
  repeat' first
    | with_reducible assumption
    | exact hκ.sub (by decide)
    | with_reducible apply kept_writeRw
    | with_reducible intro _ _ _ _
    | with_reducible intro _ _ _
    | with_reducible intro _ _
    | split

theorem kept_execPgeUmberWrite (h : Kept κ s₀ s) (hκ : Off κ [.regs]) (addr : ℕ) (value : ℕ) :
    OutKept κ s₀ (execPgeUmberWrite addr value s) := by
  unfold execPgeUmberWrite
  try dsimp only
  repeat' first
    | with_reducible assumption
    | exact hκ.sub (by decide)
    | with_reducible apply kept_umberWrite
    | with_reducible apply OutKept.next
    | with_reducible intro _ _ _ _
    | with_reducible intro _ _ _
    | with_reducible intro _ _
    | split
    | dsimp only [itself]
    | refine Kept.of_fst ?_ (by with_reducible assumption)

theorem kept_evictWrite (h : Kept κ s₀ s) (hκ : Off κ [.regs]) (value : ℕ) :
    Kept κ s₀ (State.evictWrite s value).1 := by
  unfold State.evictWrite
  try dsimp only
  repeat' first
    | with_reducible assumption
    | exact hκ.sub (by decide)
    | with_reducible apply kept_writeRw
    | with_reducible intro _ _ _ _
    | with_reducible intro _ _ _
    | with_reducible intro _ _
    | split

theorem kept_execPgeEvictWrite (h : Kept κ s₀ s) (hκ : Off κ [.regs]) (value : ℕ) :
    OutKept κ s₀ (execPgeEvictWrite value s) := by
  unfold execPgeEvictWrite
  try dsimp only
  repeat' first
    | with_reducible assumption
    | exact hκ.sub (by decide)
    | with_reducible apply kept_evictWrite
    | with_reducible apply OutKept.next
    | with_reducible intro _ _ _ _
    | with_reducible intro _ _ _
    | with_reducible intro _ _
    | split
    | dsimp only [itself]
    | refine Kept.of_fst ?_ (by with_reducible assumption)

end Sys2Proof.Machine
end

