-- ==== Sys2Proof/Laws/KeptRseOps.lean ====
section
/-! SUPPORT. What the operations of Machine/RseOps.lean keep (see Laws/Kept.lean). -/

namespace Sys2Proof.Machine

variable {κ : Part → Bool} {s₀ s : State}

theorem kept_hostReply (h : Kept κ s₀ s) (hκ : Off κ [.hcp, .out]) (ref : ℕ) (st : St) (payload : List Sys2Proof.Byte) :
    Kept κ s₀ (State.hostReply s ref st payload) := by
  unfold State.hostReply
  try dsimp only
  repeat' first
    | with_reducible assumption
    | exact hκ.sub (by decide)
    | with_reducible apply kept_hostSend
    | with_reducible apply kept_onHcp
    | with_reducible intro _ _ _ _
    | with_reducible intro _ _ _
    | with_reducible intro _ _
    | split

theorem kept_replyTo (h : Kept κ s₀ s) (hκ : Off κ [.regs, .fab, .hcp, .out]) (r : ReplyTo) (st : St) (payload : List Sys2Proof.Byte) :
    Kept κ s₀ (State.replyTo s r st payload) := by
  unfold State.replyTo
  try dsimp only
  repeat' first
    | with_reducible assumption
    | exact hκ.sub (by decide)
    | with_reducible apply kept_hostReply
    | with_reducible apply kept_sendMsg
    | with_reducible intro _ _ _ _
    | with_reducible intro _ _ _
    | with_reducible intro _ _
    | split

theorem kept_notice (h : Kept κ s₀ s) (hκ : Off κ [.hcp, .out]) (r : Record) (e : Ev) (st : St) (count : ℕ) :
    Kept κ s₀ (State.notice s r e st count) := by
  unfold State.notice
  try dsimp only
  repeat' first
    | with_reducible assumption
    | exact hκ.sub (by decide)
    | with_reducible apply kept_hostSend
    | with_reducible intro _ _ _ _
    | with_reducible intro _ _ _
    | with_reducible intro _ _
    | split

theorem kept_markUnreachable (h : Kept κ s₀ s) (hκ : Off κ [.rse]) (n : ℕ) :
    Kept κ s₀ (State.markUnreachable s n) := by
  unfold State.markUnreachable
  try dsimp only
  repeat' first
    | with_reducible assumption
    | exact hκ.sub (by decide)
    | with_reducible apply kept_onRse
    | with_reducible intro _ _ _ _
    | with_reducible intro _ _ _
    | with_reducible intro _ _
    | split

theorem kept_markReachable (h : Kept κ s₀ s) (hκ : Off κ [.rse]) (n : ℕ) :
    Kept κ s₀ (State.markReachable s n) := by
  unfold State.markReachable
  try dsimp only
  repeat' first
    | with_reducible assumption
    | exact hκ.sub (by decide)
    | with_reducible apply kept_onRse
    | with_reducible intro _ _ _ _
    | with_reducible intro _ _ _
    | with_reducible intro _ _
    | split

theorem kept_putHome (h : Kept κ s₀ s) (hκ : Off κ [.rse]) (h_ : HomeRec) :
    Kept κ s₀ (State.putHome s h_) := by
  unfold State.putHome
  try dsimp only
  repeat' first
    | with_reducible assumption
    | exact hκ.sub (by decide)
    | with_reducible apply kept_onRse
    | with_reducible intro _ _ _ _
    | with_reducible intro _ _ _
    | with_reducible intro _ _
    | split

theorem kept_dropHome (h : Kept κ s₀ s) (hκ : Off κ [.regs, .rse, .pge, .fab, .hcp, .out]) (id : ℕ) :
    Kept κ s₀ (State.dropHome s id) := by
  unfold State.dropHome
  try dsimp only
  repeat' first
    | with_reducible assumption
    | exact hκ.sub (by decide)
    | with_reducible apply kept_onRse
    | with_reducible apply kept_freeHistory
    | with_reducible intro _ _ _ _
    | with_reducible intro _ _ _
    | with_reducible intro _ _
    | split

theorem kept_putWork (h : Kept κ s₀ s) (hκ : Off κ [.rse]) (w : Work) :
    Kept κ s₀ (State.putWork s w) := by
  unfold State.putWork
  try dsimp only
  repeat' first
    | with_reducible assumption
    | exact hκ.sub (by decide)
    | with_reducible apply kept_onRse
    | with_reducible intro _ _ _ _
    | with_reducible intro _ _ _
    | with_reducible intro _ _
    | split

theorem kept_endHostWait (h : Kept κ s₀ s) (hκ : Off κ [.regs, .rse, .fab, .hcp, .out]) (id : ℕ) (rep : ReplyTo) (st : St) (payload : List Sys2Proof.Byte) :
    Kept κ s₀ (State.endHostWait s id rep st payload) := by
  unfold State.endHostWait
  try dsimp only
  repeat' first
    | with_reducible assumption
    | exact hκ.sub (by decide)
    | with_reducible apply kept_replyTo
    | with_reducible apply kept_putHome
    | with_reducible intro _ _ _ _
    | with_reducible intro _ _ _
    | with_reducible intro _ _
    | split

theorem kept_tellHost (h : Kept κ s₀ s) (hκ : Off κ [.regs, .rse, .fab, .hcp, .out]) (r : Record) (rep : ReplyTo) (st : St) (payload : List Sys2Proof.Byte) :
    Kept κ s₀ (State.tellHost s r rep st payload) := by
  unfold State.tellHost
  try dsimp only
  repeat' first
    | with_reducible assumption
    | exact hκ.sub (by decide)
    | with_reducible apply kept_endHostWait
    | with_reducible apply kept_sendMsg
    | with_reducible intro _ _ _ _
    | with_reducible intro _ _ _
    | with_reducible intro _ _
    | split

theorem kept_sendNote (h : Kept κ s₀ s) (hκ : Off κ [.regs, .fab, .hcp, .out]) (r : Record) :
    Kept κ s₀ (State.sendNote s r) := by
  unfold State.sendNote
  try dsimp only
  repeat' first
    | with_reducible assumption
    | exact hκ.sub (by decide)
    | with_reducible apply kept_sendMsg
    | with_reducible intro _ _ _ _
    | with_reducible intro _ _ _
    | with_reducible intro _ _
    | split

theorem kept_squashDead (h : Kept κ s₀ s) (hκ : Off κ [.regs, .mzt, .cores, .sch, .fab])  :
    Kept κ s₀ (State.squashDead s) := by
  unfold State.squashDead
  try dsimp only
  repeat' first
    | with_reducible assumption
    | exact hκ.sub (by decide)
    | with_reducible apply kept_onSch
    | with_reducible apply kept_squashCores
    | with_reducible intro _ _ _ _
    | with_reducible intro _ _ _
    | with_reducible intro _ _
    | split

theorem kept_releaseTags (h : Kept κ s₀ s) (hκ : Off κ [.regs, .mzt, .cores, .syn]) (id : ℕ) :
    Kept κ s₀ (State.releaseTags s id) := by
  unfold State.releaseTags
  try dsimp only
  repeat' first
    | with_reducible assumption
    | exact hκ.sub (by decide)
    | with_reducible apply kept_mztGoOn
    | with_reducible apply kept_onMzt
    | with_reducible intro _ _ _ _
    | with_reducible intro _ _ _
    | with_reducible intro _ _
    | split

theorem kept_dropStep (h : Kept κ s₀ s) (hκ : Off κ [.mem, .regs, .mzt, .cores, .sch, .fab, .syn]) (id : ℕ) :
    Kept κ s₀ (State.dropStep s id) := by
  unfold State.dropStep
  try dsimp only
  repeat' first
    | with_reducible assumption
    | exact hκ.sub (by decide)
    | with_reducible apply kept_onSch
    | with_reducible apply kept_squashDead
    | with_reducible apply kept_commitOrdered
    | with_reducible apply kept_releaseTags
    | with_reducible intro _ _ _ _
    | with_reducible intro _ _ _
    | with_reducible intro _ _
    | split

theorem kept_dropWork (h : Kept κ s₀ s) (hκ : Off κ [.mem, .regs, .rse, .pge, .mzt, .cores, .sch, .phs, .fab, .xfr, .syn, .hcp, .evt, .out]) (id : ℕ) :
    Kept κ s₀ (State.dropWork s id) := by
  unfold State.dropWork
  try dsimp only
  repeat' first
    | with_reducible assumption
    | exact hκ.sub (by decide)
    | with_reducible apply kept_flushDeviceQueue
    | with_reducible apply kept_dropStep
    | with_reducible apply kept_unreserve
    | with_reducible apply kept_onRse
    | with_reducible apply kept_foldl
    | with_reducible intro _ _ _ _
    | with_reducible intro _ _ _
    | with_reducible intro _ _
    | split

theorem kept_discardCopy (h : Kept κ s₀ s) (hκ : Off κ [.mem, .regs, .rse, .pge, .mzt, .cores, .sch, .phs, .fab, .xfr, .syn, .hcp, .evt, .out]) (id : ℕ) :
    Kept κ s₀ (State.discardCopy s id) := by
  unfold State.discardCopy
  try dsimp only
  repeat' first
    | with_reducible assumption
    | exact hκ.sub (by decide)
    | with_reducible apply kept_dropWork
    | with_reducible apply kept_freePages
    | with_reducible intro _ _ _ _
    | with_reducible intro _ _ _
    | with_reducible intro _ _
    | split

theorem kept_enqueue (h : Kept κ s₀ s) (hκ : Off κ [.sch]) (id : ℕ) :
    Kept κ s₀ (State.enqueue s id) := by
  unfold State.enqueue
  try dsimp only
  repeat' first
    | with_reducible assumption
    | exact hκ.sub (by decide)
    | with_reducible apply kept_onSch
    | with_reducible intro _ _ _ _
    | with_reducible intro _ _ _
    | with_reducible intro _ _
    | split

theorem kept_dequeue (h : Kept κ s₀ s) (hκ : Off κ [.sch]) (id : ℕ) :
    Kept κ s₀ (State.dequeue s id) := by
  unfold State.dequeue
  try dsimp only
  repeat' first
    | with_reducible assumption
    | exact hκ.sub (by decide)
    | with_reducible apply kept_onSch
    | with_reducible intro _ _ _ _
    | with_reducible intro _ _ _
    | with_reducible intro _ _
    | split

theorem kept_mirrorWrite (h : Kept κ s₀ s) (hκ : Off κ [.regs, .rse, .fab, .hcp, .out]) (h_ : HomeRec) (gone : Bool) (c : Change) (prior : Option HomeRec) :
    Kept κ s₀ (State.mirrorWrite s h_ gone c prior) := by
  unfold State.mirrorWrite
  try dsimp only
  repeat' first
    | with_reducible assumption
    | exact hκ.sub (by decide)
    | with_reducible apply kept_onRse
    | with_reducible apply kept_putHome
    | with_reducible apply kept_sendMsg
    | with_reducible intro _ _ _ _
    | with_reducible intro _ _ _
    | with_reducible intro _ _
    | split

theorem kept_noteHome (h : Kept κ s₀ s) (hκ : Off κ [.regs, .rse, .fab, .hcp, .out]) (h_ : HomeRec) :
    Kept κ s₀ (State.noteHome s h_) := by
  unfold State.noteHome
  try dsimp only
  repeat' first
    | with_reducible assumption
    | exact hκ.sub (by decide)
    | with_reducible apply kept_mirrorWrite
    | with_reducible apply kept_putHome
    | with_reducible intro _ _ _ _
    | with_reducible intro _ _ _
    | with_reducible intro _ _
    | split

theorem kept_answerFinal (h : Kept κ s₀ s) (hκ : Off κ [.regs, .fab, .hcp, .out]) (h_ : HomeRec) (w : WaitCmd) :
    Kept κ s₀ (State.answerFinal s h_ w) := by
  unfold State.answerFinal
  try dsimp only
  repeat' first
    | with_reducible assumption
    | exact hκ.sub (by decide)
    | with_reducible apply kept_replyTo
    | with_reducible intro _ _ _ _
    | with_reducible intro _ _ _
    | with_reducible intro _ _
    | split

theorem kept_answerAll (h : Kept κ s₀ s) (hκ : Off κ [.regs, .fab, .hcp, .out]) (h_ : HomeRec) (a0 : List WaitCmd) :
    Kept κ s₀ (State.answerAll s h_ a0) := by
  induction a0 generalizing s h_ with
  | nil =>
    unfold State.answerAll
    try dsimp only
    repeat' first
      | with_reducible assumption
  | cons x_ l_ ih =>
    unfold State.answerAll
    try dsimp only
    repeat' first
      | with_reducible assumption
      | with_reducible apply ih
      | exact hκ.sub (by decide)
      | with_reducible apply kept_answerFinal
      | with_reducible intro _ _ _ _
      | with_reducible intro _ _ _
      | with_reducible intro _ _
      | split

theorem kept_dropPend (h : Kept κ s₀ s) (hκ : Off κ [.regs, .fab, .hcp, .out]) (id : ℕ) (epoch : ℕ) (c : Change) :
    Kept κ s₀ (State.dropPend s id epoch c) := by
  unfold State.dropPend
  try dsimp only
  repeat' first
    | with_reducible assumption
    | exact hκ.sub (by decide)
    | with_reducible apply kept_replyTo
    | with_reducible apply kept_sendMsg
    | with_reducible intro _ _ _ _
    | with_reducible intro _ _ _
    | with_reducible intro _ _
    | split

theorem kept_dropPends (h : Kept κ s₀ s) (hκ : Off κ [.regs, .rse, .fab, .hcp, .out]) (id : ℕ) (epoch : ℕ) :
    Kept κ s₀ (State.dropPends s id epoch) := by
  unfold State.dropPends
  try dsimp only
  repeat' first
    | with_reducible assumption
    | exact hκ.sub (by decide)
    | with_reducible apply kept_onRse
    | with_reducible apply kept_dropPend
    | with_reducible apply kept_foldl
    | with_reducible intro _ _ _ _
    | with_reducible intro _ _ _
    | with_reducible intro _ _
    | split

theorem kept_finalise (h : Kept κ s₀ s) (hκ : Off κ [.regs, .rse, .pge, .sch, .fab, .hcp, .evt, .out]) (h_ : HomeRec) (st : ReqState) (status : St) (owner : ℕ) :
    Kept κ s₀ (State.finalise s h_ st status owner) := by
  unfold State.finalise
  try dsimp only
  repeat' first
    | with_reducible assumption
    | exact hκ.sub (by decide)
    | with_reducible apply kept_freeKv
    | with_reducible apply kept_dequeue
    | with_reducible apply kept_notice
    | with_reducible apply kept_post
    | with_reducible apply kept_bump
    | with_reducible apply kept_answerAll
    | with_reducible apply kept_replyTo
    | with_reducible apply kept_noteHome
    | with_reducible apply kept_dropPends
    | with_reducible apply kept_unreserve
    | with_reducible intro _ _ _ _
    | with_reducible intro _ _ _
    | with_reducible intro _ _
    | split

theorem kept_noteToken (h : Kept κ s₀ s) (hist : List ℕ) (pos : ℕ) (token : ℕ) :
    Kept κ s₀ (State.noteToken s hist pos token).2 := by
  unfold State.noteToken
  try dsimp only
  repeat' first
    | with_reducible assumption
    | with_reducible apply kept_setFresh
    | with_reducible intro _ _ _ _
    | with_reducible intro _ _ _
    | with_reducible intro _ _
    | split

theorem kept_enterHandback (h : Kept κ s₀ s) (hκ : Off κ [.regs, .rse, .pge, .fab, .hcp, .out]) (h_ : HomeRec) (w : Work) (src : ℕ) :
    Kept κ s₀ (State.enterHandback s h_ w src).1 := by
  unfold State.enterHandback
  try dsimp only
  repeat' first
    | with_reducible assumption
    | exact hκ.sub (by decide)
    | with_reducible apply kept_unreserve
    | with_reducible apply kept_onRse
    | with_reducible apply kept_sendMsgs
    | with_reducible intro _ _ _ _
    | with_reducible intro _ _ _
    | with_reducible intro _ _
    | split

theorem kept_answerMoved (h : Kept κ s₀ s) (hκ : Off κ [.regs, .fab, .hcp, .out]) (h_ : HomeRec) (back : Bool) :
    Kept κ s₀ (State.answerMoved s h_ back).1 := by
  unfold State.answerMoved
  try dsimp only
  repeat' first
    | with_reducible assumption
    | exact hκ.sub (by decide)
    | with_reducible apply kept_replyTo
    | refine kept_foldl_on Prod.fst _ _ _ ?_ ?_
    | refine kept_foldl_on Prod.snd _ _ _ ?_ ?_
    | with_reducible apply kept_foldl
    | with_reducible intro _ _ _ _
    | with_reducible intro _ _ _
    | with_reducible intro _ _
    | split

theorem kept_surrender (h : Kept κ s₀ s) (hκ : Off κ [.regs, .pge, .fab, .hcp, .out]) (id : ℕ) (epoch : ℕ) :
    Kept κ s₀ (State.surrender s id epoch) := by
  unfold State.surrender
  try dsimp only
  repeat' first
    | with_reducible assumption
    | exact hκ.sub (by decide)
    | with_reducible apply kept_freePage
    | with_reducible apply kept_putPage
    | with_reducible apply kept_foldl
    | with_reducible intro _ _ _ _
    | with_reducible intro _ _ _
    | with_reducible intro _ _
    | split

theorem kept_resetRestarted (h : Kept κ s₀ s) (hκ : Off κ [.regs, .rse, .pge, .sch, .fab, .hcp, .evt, .out]) (h_ : HomeRec) (lost : ℕ) :
    Kept κ s₀ (State.resetRestarted s h_ lost) := by
  unfold State.resetRestarted
  try dsimp only
  repeat' first
    | with_reducible assumption
    | exact hκ.sub (by decide)
    | with_reducible apply kept_finalise
    | with_reducible apply kept_enqueue
    | with_reducible apply kept_noteHome
    | with_reducible intro _ _ _ _
    | with_reducible intro _ _ _
    | with_reducible intro _ _
    | split

theorem kept_voidWaits (h : Kept κ s₀ s) (hκ : Off κ [.regs, .rse, .pge, .sch, .fab, .hcp, .evt, .out]) (h_ : HomeRec) :
    Kept κ s₀ (State.voidWaits s h_) := by
  unfold State.voidWaits
  try dsimp only
  repeat' first
    | with_reducible assumption
    | exact hκ.sub (by decide)
    | with_reducible apply kept_replyTo
    | with_reducible apply kept_putHome
    | with_reducible apply kept_finalise
    | with_reducible apply kept_foldl
    | with_reducible intro _ _ _ _
    | with_reducible intro _ _ _
    | with_reducible intro _ _
    | split

theorem kept_forwardWait (h : Kept κ s₀ s) (hκ : Off κ [.regs, .fab, .hcp, .out]) (h_ : HomeRec) (a0 : WaitCmd) :
    Kept κ s₀ (State.forwardWait s h_ a0) := by
  unfold State.forwardWait
  try dsimp only
  repeat' first
    | with_reducible assumption
    | exact hκ.sub (by decide)
    | with_reducible apply kept_sendMsg
    | with_reducible intro _ _ _ _
    | with_reducible intro _ _ _
    | with_reducible intro _ _
    | split

theorem kept_forwardWaits (h : Kept κ s₀ s) (hκ : Off κ [.regs, .fab, .hcp, .out]) (h_ : HomeRec) (a0 : List WaitCmd) :
    Kept κ s₀ (State.forwardWaits s h_ a0) := by
  induction a0 generalizing s h_ with
  | nil =>
    unfold State.forwardWaits
    try dsimp only
    repeat' first
      | with_reducible assumption
  | cons x_ l_ ih =>
    unfold State.forwardWaits
    try dsimp only
    repeat' first
      | with_reducible assumption
      | with_reducible apply ih
      | exact hκ.sub (by decide)
      | with_reducible apply kept_forwardWait
      | with_reducible intro _ _ _ _
      | with_reducible intro _ _ _
      | with_reducible intro _ _
      | split

theorem kept_movedRecord (h : Kept κ s₀ s) (hκ : Off κ [.regs, .rse, .pge, .fab, .hcp, .out]) (h_ : HomeRec) (back : Option Work) (src : ℕ) (dst : ℕ) :
    Kept κ s₀ (State.movedRecord s h_ back src dst).1 := by
  unfold State.movedRecord
  try dsimp only
  repeat' first
    | with_reducible assumption
    | exact hκ.sub (by decide)
    | with_reducible apply kept_enterHandback
    | with_reducible intro _ _ _ _
    | with_reducible intro _ _ _
    | with_reducible intro _ _
    | split
    | dsimp only [itself]
    | refine Kept.of_fst ?_ (by with_reducible assumption)

theorem kept_finishMove (h : Kept κ s₀ s) (hκ : Off κ [.regs, .rse, .pge, .sch, .fab, .hcp, .evt, .out]) (h_ : HomeRec) (src : ℕ) (dst : ℕ) :
    Kept κ s₀ (State.finishMove s h_ src dst) := by
  unfold State.finishMove
  try dsimp only
  repeat' first
    | with_reducible assumption
    | exact hκ.sub (by decide)
    | with_reducible apply kept_bump
    | with_reducible apply kept_movedRecord
    | with_reducible apply kept_answerMoved
    | with_reducible apply kept_noteHome
    | with_reducible apply kept_sendMsg
    | with_reducible apply kept_forwardWaits
    | with_reducible apply kept_finalise
    | with_reducible intro _ _ _ _
    | with_reducible intro _ _ _
    | with_reducible intro _ _
    | split
    | dsimp only [itself]
    | refine Kept.of_fst ?_ (by with_reducible assumption)

theorem kept_finish (h : Kept κ s₀ s) (hκ : Off κ [.regs, .rse, .pge, .sch, .fab, .hcp, .evt, .out]) (id : ℕ) (c : Change) :
    Kept κ s₀ (State.finish s id c) := by
  unfold State.finish
  try dsimp only
  repeat' first
    | with_reducible assumption
    | exact hκ.sub (by decide)
    | with_reducible apply kept_replyTo
    | with_reducible apply kept_enqueue
    | with_reducible apply kept_bump
    | with_reducible apply kept_putHome
    | with_reducible apply kept_surrender
    | with_reducible apply kept_sendMsg
    | with_reducible apply kept_dequeue
    | with_reducible apply kept_finishMove
    | with_reducible apply kept_notice
    | with_reducible apply kept_post
    | with_reducible apply kept_voidWaits
    | with_reducible apply kept_freeKv
    | with_reducible apply kept_sendMsgs
    | with_reducible apply kept_resetRestarted
    | with_reducible apply kept_onRse
    | with_reducible apply kept_dropHome
    | with_reducible intro _ _ _ _
    | with_reducible intro _ _ _
    | with_reducible intro _ _
    | split

theorem kept_endPlacing (h : Kept κ s₀ s) (hκ : Off κ [.regs, .rse, .fab, .hcp, .out]) (id : ℕ) (target : ℕ) (epoch : ℕ) :
    Kept κ s₀ (State.endPlacing s id target epoch) := by
  unfold State.endPlacing
  try dsimp only
  repeat' first
    | with_reducible assumption
    | exact hκ.sub (by decide)
    | with_reducible apply kept_putHome
    | with_reducible apply kept_sendMsg
    | with_reducible intro _ _ _ _
    | with_reducible intro _ _ _
    | with_reducible intro _ _
    | split

theorem kept_passOver (h : Kept κ s₀ s) (hκ : Off κ [.sch]) (id : ℕ) (target : ℕ) :
    Kept κ s₀ (State.passOver s id target) := by
  unfold State.passOver
  try dsimp only
  repeat' first
    | with_reducible assumption
    | exact hκ.sub (by decide)
    | with_reducible apply kept_onSch
    | with_reducible intro _ _ _ _
    | with_reducible intro _ _ _
    | with_reducible intro _ _
    | split

theorem kept_dropPlacing (h : Kept κ s₀ s) (hκ : Off κ [.regs, .rse, .sch, .fab, .hcp, .out]) (id : ℕ) (target : ℕ) (epoch : ℕ) :
    Kept κ s₀ (State.dropPlacing s id target epoch) := by
  unfold State.dropPlacing
  try dsimp only
  repeat' first
    | with_reducible assumption
    | exact hκ.sub (by decide)
    | with_reducible apply kept_passOver
    | with_reducible apply kept_endPlacing
    | with_reducible intro _ _ _ _
    | with_reducible intro _ _ _
    | with_reducible intro _ _
    | split

theorem kept_refuseMove (h : Kept κ s₀ s) (hκ : Off κ [.regs, .fab, .hcp, .out]) (src : ℕ) (dst : ℕ) (id : ℕ) (epoch : ℕ) (st : St) :
    Kept κ s₀ (State.refuseMove s src dst id epoch st) := by
  unfold State.refuseMove
  try dsimp only
  repeat' first
    | with_reducible assumption
    | exact hκ.sub (by decide)
    | with_reducible apply kept_bump
    | with_reducible apply kept_sendMsg
    | with_reducible intro _ _ _ _
    | with_reducible intro _ _ _
    | with_reducible intro _ _
    | split

theorem kept_tellRefused (h : Kept κ s₀ s) (hκ : Off κ [.regs, .rse, .fab, .hcp, .out]) (id : ℕ) (epoch : ℕ) (c : Change) (st : St) :
    Kept κ s₀ (State.tellRefused s id epoch c st) := by
  unfold State.tellRefused
  try dsimp only
  repeat' first
    | with_reducible assumption
    | exact hκ.sub (by decide)
    | with_reducible apply kept_endPlacing
    | with_reducible apply kept_refuseMove
    | with_reducible intro _ _ _ _
    | with_reducible intro _ _ _
    | with_reducible intro _ _
    | split

theorem kept_revert (h : Kept κ s₀ s) (hκ : Off κ [.regs, .rse, .pge, .fab, .hcp, .out]) (id : ℕ) (prior : Option HomeRec) :
    Kept κ s₀ (State.revert s id prior) := by
  unfold State.revert
  try dsimp only
  repeat' first
    | with_reducible assumption
    | exact hκ.sub (by decide)
    | with_reducible apply kept_putHome
    | with_reducible apply kept_dropHome
    | with_reducible intro _ _ _ _
    | with_reducible intro _ _ _
    | with_reducible intro _ _
    | split

theorem kept_restoreWrite (h : Kept κ s₀ s) (hκ : Off κ [.regs, .rse, .fab, .hcp, .out]) (id : ℕ) (c : Change) (new : Option HomeRec) (st : St) :
    Kept κ s₀ (State.restoreWrite s id c new st) := by
  unfold State.restoreWrite
  try dsimp only
  repeat' first
    | with_reducible assumption
    | exact hκ.sub (by decide)
    | with_reducible apply kept_onRse
    | with_reducible apply kept_mirrorWrite
    | with_reducible apply kept_sendMsg
    | with_reducible intro _ _ _ _
    | with_reducible intro _ _ _
    | with_reducible intro _ _
    | split

theorem kept_refuse (h : Kept κ s₀ s) (hκ : Off κ [.regs, .rse, .pge, .fab, .hcp, .out]) (id : ℕ) (c : Change) (prior : Option HomeRec) (new : Option HomeRec) (sent : Bool) :
    Kept κ s₀ (State.refuse s id c prior new sent) := by
  unfold State.refuse
  try dsimp only
  repeat' first
    | with_reducible assumption
    | exact hκ.sub (by decide)
    | with_reducible apply kept_revert
    | with_reducible apply kept_replyTo
    | with_reducible apply kept_tellRefused
    | with_reducible apply kept_putHome
    | with_reducible apply kept_restoreWrite
    | with_reducible intro _ _ _ _
    | with_reducible intro _ _ _
    | with_reducible intro _ _
    | split

theorem kept_giveUp (h : Kept κ s₀ s) (hκ : Off κ [.regs, .rse, .pge, .fab, .hcp, .out]) (p : MirrorPend) :
    Kept κ s₀ (State.giveUp s p) := by
  unfold State.giveUp
  try dsimp only
  repeat' first
    | with_reducible assumption
    | exact hκ.sub (by decide)
    | with_reducible apply kept_revert
    | with_reducible apply kept_refuse
    | with_reducible intro _ _ _ _
    | with_reducible intro _ _ _
    | with_reducible intro _ _
    | split

theorem kept_change (h : Kept κ s₀ s) (hκ : Off κ [.regs, .rse, .pge, .sch, .fab, .hcp, .evt, .out]) (new : HomeRec) (c : Change) :
    Kept κ s₀ (State.change s new c) := by
  unfold State.change
  try dsimp only
  repeat' first
    | with_reducible assumption
    | exact hκ.sub (by decide)
    | with_reducible apply kept_finish
    | with_reducible apply kept_putHome
    | with_reducible apply kept_refuse
    | with_reducible apply kept_mirrorWrite
    | with_reducible intro _ _ _ _
    | with_reducible intro _ _ _
    | with_reducible intro _ _
    | split

theorem kept_record (h : Kept κ s₀ s) (hκ : Off κ [.regs, .rse, .pge, .sch, .fab, .hcp, .evt, .out]) (p : MirrorPend) :
    Kept κ s₀ (State.record s p) := by
  unfold State.record
  try dsimp only
  repeat' first
    | with_reducible assumption
    | exact hκ.sub (by decide)
    | with_reducible apply kept_finish
    | with_reducible apply kept_noteHome
    | with_reducible apply kept_putHome
    | with_reducible intro _ _ _ _
    | with_reducible intro _ _ _
    | with_reducible intro _ _
    | split

theorem kept_settle (h : Kept κ s₀ s) (hκ : Off κ [.regs, .rse, .pge, .sch, .fab, .hcp, .evt, .out]) (p : MirrorPend) :
    Kept κ s₀ (State.settle s p) := by
  unfold State.settle
  try dsimp only
  repeat' first
    | with_reducible assumption
    | exact hκ.sub (by decide)
    | with_reducible apply kept_revert
    | with_reducible apply kept_record
    | with_reducible apply kept_restoreWrite
    | with_reducible intro _ _ _ _
    | with_reducible intro _ _ _
    | with_reducible intro _ _
    | split

theorem kept_recoverCommit (h : Kept κ s₀ s) (hκ : Off κ [.regs, .rse, .pge, .sch, .fab, .hcp, .evt, .out]) (h_ : HomeRec) :
    Kept κ s₀ (State.recoverCommit s h_) := by
  unfold State.recoverCommit
  try dsimp only
  repeat' first
    | with_reducible assumption
    | exact hκ.sub (by decide)
    | with_reducible apply kept_finalise
    | with_reducible apply kept_change
    | with_reducible intro _ _ _ _
    | with_reducible intro _ _ _
    | with_reducible intro _ _
    | split

theorem kept_restartCommit (h : Kept κ s₀ s) (hκ : Off κ [.regs, .rse, .pge, .sch, .fab, .hcp, .evt, .out]) (h_ : HomeRec) :
    Kept κ s₀ (State.restartCommit s h_) := by
  unfold State.restartCommit
  try dsimp only
  repeat' first
    | with_reducible assumption
    | exact hκ.sub (by decide)
    | with_reducible apply kept_finalise
    | with_reducible apply kept_change
    | with_reducible intro _ _ _ _
    | with_reducible intro _ _ _
    | with_reducible intro _ _
    | split

theorem kept_ownerLost (h : Kept κ s₀ s) (hκ : Off κ [.regs, .rse, .pge, .sch, .fab, .hcp, .evt, .out]) (id : ℕ) :
    Kept κ s₀ (State.ownerLost s id) := by
  unfold State.ownerLost
  try dsimp only
  repeat' first
    | with_reducible assumption
    | exact hκ.sub (by decide)
    | with_reducible apply kept_sendMsgs
    | with_reducible apply kept_putHome
    | with_reducible apply kept_restartCommit
    | with_reducible apply kept_deliver
    | with_reducible apply kept_finalise
    | with_reducible intro _ _ _ _
    | with_reducible intro _ _ _
    | with_reducible intro _ _
    | split

theorem kept_ownersLost (h : Kept κ s₀ s) (hκ : Off κ [.regs, .rse, .pge, .sch, .fab, .hcp, .evt, .out]) (a0 : List ℕ) :
    Kept κ s₀ (State.ownersLost s a0) := by
  induction a0 generalizing s with
  | nil =>
    unfold State.ownersLost
    try dsimp only
    repeat' first
      | with_reducible assumption
  | cons x_ l_ ih =>
    unfold State.ownersLost
    try dsimp only
    repeat' first
      | with_reducible assumption
      | with_reducible apply ih
      | exact hκ.sub (by decide)
      | with_reducible apply kept_ownerLost
      | with_reducible intro _ _ _ _
      | with_reducible intro _ _ _
      | with_reducible intro _ _
      | split

theorem kept_loseStep (h : Kept κ s₀ s) (hκ : Off κ [.mem, .regs, .rse, .pge, .mzt, .cores, .sch, .phs, .fab, .xfr, .syn, .hcp, .evt, .out]) (id : ℕ) :
    Kept κ s₀ (State.loseStep s id) := by
  unfold State.loseStep
  try dsimp only
  repeat' first
    | with_reducible assumption
    | exact hκ.sub (by decide)
    | with_reducible apply kept_sendMsg
    | with_reducible apply kept_sendFrees
    | with_reducible apply kept_dropWork
    | with_reducible apply kept_freePages
    | with_reducible intro _ _ _ _
    | with_reducible intro _ _ _
    | with_reducible intro _ _
    | split

theorem kept_checkCopy (h : Kept κ s₀ s) (hκ : Off κ [.mem, .regs, .rse, .pge, .mzt, .cores, .sch, .phs, .fab, .xfr, .syn, .hcp, .evt, .out]) (id : ℕ) :
    Kept κ s₀ (State.checkCopy s id) := by
  unfold State.checkCopy
  try dsimp only
  repeat' first
    | with_reducible assumption
    | exact hκ.sub (by decide)
    | with_reducible apply kept_loseStep
    | with_reducible apply kept_discardCopy
    | with_reducible intro _ _ _ _
    | with_reducible intro _ _ _
    | with_reducible intro _ _
    | split

theorem kept_overtaken (h : Kept κ s₀ s) (hκ : Off κ [.mem, .regs, .rse, .pge, .mzt, .cores, .sch, .phs, .fab, .xfr, .syn, .hcp, .evt, .out]) (id : ℕ) (epoch : ℕ) :
    Kept κ s₀ (State.overtaken s id epoch) := by
  unfold State.overtaken
  try dsimp only
  repeat' first
    | with_reducible assumption
    | exact hκ.sub (by decide)
    | with_reducible apply kept_discardCopy
    | with_reducible intro _ _ _ _
    | with_reducible intro _ _ _
    | with_reducible intro _ _
    | split

theorem kept_failStep (h : Kept κ s₀ s) (hκ : Off κ [.mem, .regs, .rse, .pge, .mzt, .cores, .sch, .phs, .fab, .xfr, .syn, .hcp, .evt, .out]) (id : ℕ) :
    Kept κ s₀ (State.failStep s id) := by
  unfold State.failStep
  try dsimp only
  repeat' first
    | with_reducible assumption
    | exact hκ.sub (by decide)
    | with_reducible apply kept_loseStep
    | with_reducible apply kept_onSch
    | with_reducible apply kept_putWork
    | with_reducible apply kept_dropStep
    | with_reducible intro _ _ _ _
    | with_reducible intro _ _ _
    | with_reducible intro _ _
    | split

theorem kept_loseOwned (h : Kept κ s₀ s) (hκ : Off κ [.mem, .regs, .rse, .pge, .mzt, .cores, .sch, .phs, .fab, .xfr, .syn, .hcp, .evt, .out]) (id : ℕ) :
    Kept κ s₀ (State.loseOwned s id) := by
  unfold State.loseOwned
  try dsimp only
  repeat' first
    | with_reducible assumption
    | exact hκ.sub (by decide)
    | with_reducible apply kept_loseStep
    | with_reducible intro _ _ _ _
    | with_reducible intro _ _ _
    | with_reducible intro _ _
    | split

theorem kept_endOwned (h : Kept κ s₀ s) (hκ : Off κ [.mem, .regs, .rse, .pge, .mzt, .cores, .sch, .phs, .fab, .xfr, .syn, .hcp, .evt, .out]) (w : Work) (st : ReqState) (status : St) :
    Kept κ s₀ (State.endOwned s w st status) := by
  unfold State.endOwned
  try dsimp only
  repeat' first
    | with_reducible assumption
    | exact hκ.sub (by decide)
    | with_reducible apply kept_sendMsg
    | with_reducible apply kept_onSch
    | with_reducible apply kept_commitOrdered
    | with_reducible apply kept_dropWork
    | with_reducible apply kept_freeKv
    | with_reducible intro _ _ _ _
    | with_reducible intro _ _ _
    | with_reducible intro _ _
    | split

end Sys2Proof.Machine
end

