-- ==== Sys2Proof/Laws/KeptRseHome.lean ====
section
/-! SUPPORT. What the operations of Machine/RseHome.lean keep (see Laws/Kept.lean). -/

namespace Sys2Proof.Machine

variable {κ : Part → Bool} {s₀ s : State}

theorem kept_execMirrorBind (h : Kept κ s₀ s) (hκ : Off κ [.regs, .rse, .fab, .hcp, .out]) (src : ℕ) :
    OutKept κ s₀ (execMirrorBind src s) := by
  unfold execMirrorBind
  try dsimp only
  repeat' first
    | with_reducible assumption
    | exact hκ.sub (by decide)
    | with_reducible apply kept_takeMsg
    | with_reducible apply kept_sendMsg
    | with_reducible apply kept_onRse
    | with_reducible apply OutKept.next
    | with_reducible intro _ _ _ _
    | with_reducible intro _ _ _
    | with_reducible intro _ _
    | split

theorem kept_copyHomes (h : Kept κ s₀ s) (hκ : Off κ [.regs, .rse, .fab, .hcp, .out]) (a0 : List HomeRec) :
    Kept κ s₀ (State.copyHomes s a0) := by
  induction a0 generalizing s with
  | nil =>
    unfold State.copyHomes
    try dsimp only
    repeat' first
      | with_reducible assumption
  | cons x_ l_ ih =>
    unfold State.copyHomes
    try dsimp only
    repeat' first
      | with_reducible assumption
      | with_reducible apply ih
      | exact hκ.sub (by decide)
      | with_reducible apply kept_mirrorWrite
      | with_reducible intro _ _ _ _
      | with_reducible intro _ _ _
      | with_reducible intro _ _
      | split

theorem kept_execMirrorBindAccepted (h : Kept κ s₀ s) (hκ : Off κ [.regs, .rse, .fab, .hcp, .out]) (src : ℕ) :
    OutKept κ s₀ (execMirrorBindAccepted src s) := by
  unfold execMirrorBindAccepted
  try dsimp only
  repeat' first
    | with_reducible assumption
    | exact hκ.sub (by decide)
    | with_reducible apply kept_takeMsg
    | with_reducible apply kept_onRse
    | with_reducible apply kept_copyHomes
    | with_reducible apply kept_sendMsg
    | with_reducible apply OutKept.next
    | with_reducible intro _ _ _ _
    | with_reducible intro _ _ _
    | with_reducible intro _ _
    | split

theorem kept_execMirrorCopyComplete (h : Kept κ s₀ s) (hκ : Off κ [.regs, .rse])  :
    OutKept κ s₀ (execMirrorCopyComplete s) := by
  unfold execMirrorCopyComplete
  try dsimp only
  repeat' first
    | with_reducible assumption
    | exact hκ.sub (by decide)
    | with_reducible apply kept_setReg
    | with_reducible apply kept_onRse
    | with_reducible apply OutKept.next
    | with_reducible intro _ _ _ _
    | with_reducible intro _ _ _
    | with_reducible intro _ _
    | split

theorem kept_adoptedAway (h : Kept κ s₀ s) (hκ : Off κ [.regs, .rse, .pge, .fab, .hcp, .out])  :
    Kept κ s₀ (State.adoptedAway s) := by
  unfold State.adoptedAway
  try dsimp only
  repeat' first
    | with_reducible assumption
    | exact hκ.sub (by decide)
    | with_reducible apply kept_onRse
    | with_reducible apply kept_dropHome
    | with_reducible apply kept_foldl
    | with_reducible intro _ _ _ _
    | with_reducible intro _ _ _
    | with_reducible intro _ _
    | split

theorem kept_execMirrorBindRefused (h : Kept κ s₀ s) (hκ : Off κ [.regs, .rse, .pge, .fab, .hcp, .out]) (src : ℕ) (status : St) :
    OutKept κ s₀ (execMirrorBindRefused src status s) := by
  unfold execMirrorBindRefused
  try dsimp only
  repeat' first
    | with_reducible assumption
    | exact hκ.sub (by decide)
    | with_reducible apply kept_takeMsg
    | with_reducible apply kept_onRse
    | with_reducible apply kept_adoptedAway
    | with_reducible apply OutKept.next
    | with_reducible intro _ _ _ _
    | with_reducible intro _ _ _
    | with_reducible intro _ _
    | split

theorem kept_execMirrorBindRetryExpiry (h : Kept κ s₀ s) (hκ : Off κ [.regs, .rse, .fab, .hcp, .out])  :
    OutKept κ s₀ (execMirrorBindRetryExpiry s) := by
  unfold execMirrorBindRetryExpiry
  try dsimp only
  repeat' first
    | with_reducible assumption
    | exact hκ.sub (by decide)
    | with_reducible apply kept_sendMsg
    | with_reducible apply kept_markUnreachable
    | with_reducible apply OutKept.next
    | with_reducible intro _ _ _ _
    | with_reducible intro _ _ _
    | with_reducible intro _ _
    | split

theorem kept_deputyWrite (h : Kept κ s₀ s) (hκ : Off κ [.regs, .rse, .pge, .fab, .hcp, .out]) (value : ℕ) :
    Kept κ s₀ (State.deputyWrite s value).1 := by
  unfold State.deputyWrite
  try dsimp only
  repeat' first
    | with_reducible assumption
    | exact hκ.sub (by decide)
    | with_reducible apply kept_setReg
    | with_reducible apply kept_writeRw
    | with_reducible apply kept_sendMsg
    | with_reducible apply kept_onRse
    | with_reducible apply kept_giveUp
    | refine kept_foldl_on Prod.fst _ _ _ ?_ ?_
    | refine kept_foldl_on Prod.snd _ _ _ ?_ ?_
    | with_reducible apply kept_foldl
    | with_reducible intro _ _ _ _
    | with_reducible intro _ _ _
    | with_reducible intro _ _
    | split

theorem kept_execRseDeputyWrite (h : Kept κ s₀ s) (hκ : Off κ [.regs, .rse, .pge, .fab, .hcp, .out]) (value : ℕ) :
    OutKept κ s₀ (execRseDeputyWrite value s) := by
  unfold execRseDeputyWrite
  try dsimp only
  repeat' first
    | with_reducible assumption
    | exact hκ.sub (by decide)
    | with_reducible apply kept_deputyWrite
    | with_reducible apply OutKept.next
    | with_reducible intro _ _ _ _
    | with_reducible intro _ _ _
    | with_reducible intro _ _
    | split
    | dsimp only [itself]
    | refine Kept.of_fst ?_ (by with_reducible assumption)

theorem kept_mirrorHomeWrite (h : Kept κ s₀ s) (hκ : Off κ [.regs, .rse, .pge, .fab, .hcp, .out]) (value : ℕ) :
    Kept κ s₀ (State.mirrorHomeWrite s value).1 := by
  unfold State.mirrorHomeWrite
  try dsimp only
  repeat' first
    | with_reducible assumption
    | exact hκ.sub (by decide)
    | with_reducible apply kept_writeRw
    | with_reducible apply kept_onRse
    | with_reducible apply kept_freeHistory
    | refine kept_foldl_on Prod.fst _ _ _ ?_ ?_
    | refine kept_foldl_on Prod.snd _ _ _ ?_ ?_
    | with_reducible apply kept_foldl
    | with_reducible intro _ _ _ _
    | with_reducible intro _ _ _
    | with_reducible intro _ _
    | split

theorem kept_execRseMirrorHomeWrite (h : Kept κ s₀ s) (hκ : Off κ [.regs, .rse, .pge, .fab, .hcp, .out]) (value : ℕ) :
    OutKept κ s₀ (execRseMirrorHomeWrite value s) := by
  unfold execRseMirrorHomeWrite
  try dsimp only
  repeat' first
    | with_reducible assumption
    | exact hκ.sub (by decide)
    | with_reducible apply kept_mirrorHomeWrite
    | with_reducible apply OutKept.next
    | with_reducible intro _ _ _ _
    | with_reducible intro _ _ _
    | with_reducible intro _ _
    | split
    | dsimp only [itself]
    | refine Kept.of_fst ?_ (by with_reducible assumption)

theorem kept_takeHome (h : Kept κ s₀ s) (hκ : Off κ [.regs, .rse, .pge, .sch, .fab, .hcp, .evt, .out]) (h_ : HomeRec) (elapsed : ℕ) :
    Kept κ s₀ (State.takeHome s h_ elapsed) := by
  unfold State.takeHome
  try dsimp only
  repeat' first
    | with_reducible assumption
    | exact hκ.sub (by decide)
    | with_reducible apply kept_putHome
    | with_reducible apply kept_enqueue
    | with_reducible apply kept_resetRestarted
    | with_reducible apply kept_freeKv
    | with_reducible apply kept_dequeue
    | with_reducible intro _ _ _ _
    | with_reducible intro _ _ _
    | with_reducible intro _ _
    | split

theorem kept_adoptWrite (h : Kept κ s₀ s) (hκ : Off κ [.regs, .rse, .pge, .sch, .fab, .hcp, .evt, .out]) (value : ℕ) :
    Kept κ s₀ (State.adoptWrite s value).1 := by
  unfold State.adoptWrite
  try dsimp only
  repeat' first
    | with_reducible assumption
    | exact hκ.sub (by decide)
    | with_reducible apply kept_setRegs
    | with_reducible apply kept_onRse
    | with_reducible apply kept_takeHome
    | with_reducible apply kept_post
    | with_reducible apply kept_setReg
    | with_reducible apply kept_ownersLost
    | refine kept_foldl_on Prod.fst _ _ _ ?_ ?_
    | refine kept_foldl_on Prod.snd _ _ _ ?_ ?_
    | with_reducible apply kept_foldl
    | with_reducible intro _ _ _ _
    | with_reducible intro _ _ _
    | with_reducible intro _ _
    | split

theorem kept_execRseAdoptWrite (h : Kept κ s₀ s) (hκ : Off κ [.regs, .rse, .pge, .sch, .fab, .hcp, .evt, .out]) (value : ℕ) :
    OutKept κ s₀ (execRseAdoptWrite value s) := by
  unfold execRseAdoptWrite
  try dsimp only
  repeat' first
    | with_reducible assumption
    | exact hκ.sub (by decide)
    | with_reducible apply kept_adoptWrite
    | with_reducible apply OutKept.next
    | with_reducible intro _ _ _ _
    | with_reducible intro _ _ _
    | with_reducible intro _ _
    | split
    | dsimp only [itself]
    | refine Kept.of_fst ?_ (by with_reducible assumption)

theorem kept_execMirrorWrite (h : Kept κ s₀ s) (hκ : Off κ [.mem, .regs, .rse, .pge, .fab, .hcp, .out]) (src : ℕ) (id : ℕ) (w : MirrorMark) (rec : Option Record) (history : List ℕ) :
    OutKept κ s₀ (execMirrorWrite src id w rec history s) := by
  unfold execMirrorWrite
  try dsimp only
  repeat' first
    | with_reducible assumption
    | exact hκ.sub (by decide)
    | with_reducible apply kept_takeMsg
    | with_reducible apply kept_sendMsg
    | with_reducible apply kept_nakWith
    | with_reducible apply kept_onRse
    | with_reducible apply kept_freeHistory
    | with_reducible apply kept_writeHistory
    | with_reducible apply OutKept.next
    | with_reducible intro _ _ _ _
    | with_reducible intro _ _ _
    | with_reducible intro _ _
    | split
    | dsimp only [itself]
    | refine OptKept.getD (f := itself) ?_ ?_
    | refine OptKept.get_id ?_ (by with_reducible assumption)

theorem kept_takePend (h : Kept κ s₀ s) (hκ : Off κ [.rse]) (id : ℕ) (seq : ℕ) :
    Kept κ s₀ (State.takePend s id seq).2 := by
  unfold State.takePend
  try dsimp only
  repeat' first
    | with_reducible assumption
    | exact hκ.sub (by decide)
    | with_reducible apply kept_onRse
    | with_reducible intro _ _ _ _
    | with_reducible intro _ _ _
    | with_reducible intro _ _
    | split

theorem kept_addClaim (h : Kept κ s₀ s) (hκ : Off κ [.rse]) (id : ℕ) (c : Claim) :
    Kept κ s₀ (State.addClaim s id c) := by
  unfold State.addClaim
  try dsimp only
  repeat' first
    | with_reducible assumption
    | exact hκ.sub (by decide)
    | with_reducible apply kept_onRse
    | with_reducible intro _ _ _ _
    | with_reducible intro _ _ _
    | with_reducible intro _ _
    | split

theorem kept_grantClaims (h : Kept κ s₀ s) (hκ : Off κ [.regs, .rse, .pge, .sch, .fab, .hcp, .evt, .out]) (id : ℕ) :
    Kept κ s₀ (State.grantClaims s id) := by
  unfold State.grantClaims
  try dsimp only
  repeat' first
    | with_reducible assumption
    | exact hκ.sub (by decide)
    | with_reducible apply kept_onRse
    | with_reducible apply kept_finalise
    | with_reducible apply kept_change
    | with_reducible intro _ _ _ _
    | with_reducible intro _ _ _
    | with_reducible intro _ _
    | split

theorem kept_rebase (h : Kept κ s₀ s) (hκ : Off κ [.regs, .rse, .pge, .sch, .fab, .hcp, .evt, .out]) (h_ : HomeRec) :
    Kept κ s₀ (State.rebase s h_) := by
  unfold State.rebase
  try dsimp only
  repeat' first
    | with_reducible assumption
    | exact hκ.sub (by decide)
    | with_reducible apply kept_finalise
    | with_reducible apply kept_change
    | with_reducible intro _ _ _ _
    | with_reducible intro _ _ _
    | with_reducible intro _ _
    | split

theorem kept_reclaim (h : Kept κ s₀ s) (hκ : Off κ [.regs, .rse, .pge, .sch, .fab, .hcp, .evt, .out]) (h_ : HomeRec) :
    Kept κ s₀ (State.reclaim s h_) := by
  unfold State.reclaim
  try dsimp only
  repeat' first
    | with_reducible assumption
    | exact hκ.sub (by decide)
    | with_reducible apply kept_change
    | with_reducible apply kept_dequeue
    | with_reducible intro _ _ _ _
    | with_reducible intro _ _ _
    | with_reducible intro _ _
    | split

theorem kept_execDeferredChangeRetry (h : Kept κ s₀ s) (hκ : Off κ [.regs, .rse, .pge, .sch, .fab, .hcp, .evt, .out]) (id : ℕ) :
    OutKept κ s₀ (execDeferredChangeRetry id s) := by
  unfold execDeferredChangeRetry
  try dsimp only
  repeat' first
    | with_reducible assumption
    | exact hκ.sub (by decide)
    | with_reducible apply kept_grantClaims
    | with_reducible apply kept_recoverCommit
    | with_reducible apply kept_restartCommit
    | with_reducible apply kept_rebase
    | with_reducible apply kept_reclaim
    | with_reducible apply OutKept.next
    | with_reducible intro _ _ _ _
    | with_reducible intro _ _ _
    | with_reducible intro _ _
    | split

theorem kept_promptRead (h : Kept κ s₀ s) (hκ : Off κ [.hcp, .out]) (qpn : ℕ) (va : ℕ) (rkey : ℕ) (tokens : ℕ) (use : RoceUse) :
    OptKept κ s₀ itself (State.promptRead s qpn va rkey tokens use) := by
  unfold State.promptRead
  try dsimp only
  repeat' first
    | with_reducible assumption
    | exact hκ.sub (by decide)
    | with_reducible apply kept_roceIssue
    | exact OptKept.none
    | with_reducible apply OptKept.some
    | with_reducible intro _ _ _ _
    | with_reducible intro _ _ _
    | with_reducible intro _ _
    | split
    | dsimp only [itself]
    | refine OptKept.getD (f := itself) ?_ ?_
    | refine OptKept.get_id ?_ (by with_reducible assumption)
    | (with_reducible apply OptKept.bind; intro _ _)

theorem kept_resumeRead (h : Kept κ s₀ s) (hκ : Off κ [.regs, .fab, .hcp, .out]) (b : ResumeBlock) (tenant : ℕ) (rep : ReplyTo) :
    Kept κ s₀ (State.resumeRead s b tenant rep) := by
  unfold State.resumeRead
  try dsimp only
  repeat' first
    | with_reducible assumption
    | exact hκ.sub (by decide)
    | with_reducible apply kept_onHcp
    | with_reducible apply kept_promptRead
    | with_reducible apply kept_replyTo
    | with_reducible intro _ _ _ _
    | with_reducible intro _ _ _
    | with_reducible intro _ _
    | split
    | dsimp only [itself]
    | refine OptKept.getD (f := itself) ?_ ?_
    | refine OptKept.get_id ?_ (by with_reducible assumption)

theorem kept_resumeTurn (h : Kept κ s₀ s) (hκ : Off κ [.mem, .regs, .rse, .pge, .sch, .fab, .hcp, .evt, .out]) (h_ : HomeRec) (b : ResumeBlock) (tokens : List ℕ) (rep : ReplyTo) :
    Kept κ s₀ (State.resumeTurn s h_ b tokens rep) := by
  unfold State.resumeTurn
  try dsimp only
  repeat' first
    | with_reducible assumption
    | exact hκ.sub (by decide)
    | with_reducible apply kept_change
    | with_reducible apply kept_writeHistory
    | with_reducible apply kept_replyTo
    | with_reducible intro _ _ _ _
    | with_reducible intro _ _ _
    | with_reducible intro _ _
    | split
    | dsimp only [itself]
    | refine OptKept.getD (f := itself) ?_ ?_
    | refine OptKept.get_id ?_ (by with_reducible assumption)

/-- Each branch of a condition changes no part outside `κ`. -/
theorem kept_ite {c : Prop} [Decidable c] {t u : State} (ht : Kept κ s₀ t) (hu : Kept κ s₀ u) :
    Kept κ s₀ (if c then t else u) := by
  by_cases hc : c <;> simp only [hc, if_true, if_false] <;> assumption

theorem kept_resumeHome (h : Kept κ s₀ s) (hκ : Off κ [.mem, .regs, .rse, .pge, .sch, .fab, .hcp, .evt, .out]) (h_ : HomeRec) (b : ResumeBlock) (tokens : List ℕ) (rep : ReplyTo) :
    Kept κ s₀ (State.resumeHome s h_ b tokens rep) := by
  unfold State.resumeHome
  try dsimp only
  repeat' first
    | with_reducible assumption
    | exact hκ.sub (by decide)
    | with_reducible apply kept_replyTo
    | with_reducible apply kept_resumeRead
    | with_reducible apply kept_rebase
    | with_reducible apply kept_putHome
    | with_reducible apply kept_resumeTurn
    | with_reducible apply kept_writeHistory
    | with_reducible apply kept_reserve
    | with_reducible intro _ _ _ _
    | with_reducible intro _ _ _
    | with_reducible intro _ _
    | with_reducible refine kept_ite ?_ ?_
    | split
    | dsimp only [itself]
    | refine OptKept.getD (f := itself) ?_ ?_
    | refine OptKept.get_id ?_ (by with_reducible assumption)

theorem kept_unpark (h : Kept κ s₀ s) (hκ : Off κ [.regs, .rse, .pge, .sch, .fab, .hcp, .evt, .out]) (h_ : HomeRec) :
    Kept κ s₀ (State.unpark s h_) := by
  unfold State.unpark
  try dsimp only
  repeat' first
    | with_reducible assumption
    | exact hκ.sub (by decide)
    | with_reducible apply kept_enqueue
    | with_reducible apply kept_noteHome
    | with_reducible apply kept_rebase
    | with_reducible intro _ _ _ _
    | with_reducible intro _ _ _
    | with_reducible intro _ _
    | split

theorem kept_unparkDue (h : Kept κ s₀ s) (hκ : Off κ [.regs, .rse, .pge, .sch, .fab, .hcp, .evt, .out]) (h_ : HomeRec) :
    Kept κ s₀ (State.unparkDue s h_) := by
  unfold State.unparkDue
  try dsimp only
  repeat' first
    | with_reducible assumption
    | exact hκ.sub (by decide)
    | with_reducible apply kept_unpark
    | with_reducible intro _ _ _ _
    | with_reducible intro _ _ _
    | with_reducible intro _ _
    | split

theorem kept_heldResume (h : Kept κ s₀ s) (hκ : Off κ [.mem, .regs, .rse, .pge, .sch, .fab, .hcp, .evt, .out]) (id : ℕ) :
    Kept κ s₀ (State.heldResume s id) := by
  unfold State.heldResume
  try dsimp only
  repeat' first
    | with_reducible assumption
    | exact hκ.sub (by decide)
    | with_reducible apply kept_unparkDue
    | with_reducible apply kept_putHome
    | with_reducible apply kept_resumeHome
    | with_reducible apply kept_replyTo
    | with_reducible apply kept_unreserve
    | with_reducible intro _ _ _ _
    | with_reducible intro _ _ _
    | with_reducible intro _ _
    | split

theorem kept_commandLater (h : Kept κ s₀ s) (hκ : Off κ [.fab]) (c : FwdCmd) (tenant : ℕ) (rep : ReplyTo) :
    Kept κ s₀ (State.commandLater s c tenant rep) := by
  unfold State.commandLater
  try dsimp only
  repeat' first
    | with_reducible assumption
    | exact hκ.sub (by decide)
    | with_reducible apply kept_deliver
    | with_reducible intro _ _ _ _
    | with_reducible intro _ _ _
    | with_reducible intro _ _
    | split

theorem kept_homeCommand (h : Kept κ s₀ s) (hκ : Off κ [.mem, .regs, .rse, .pge, .sch, .fab, .hcp, .evt, .out]) (c : FwdCmd) (tenant : ℕ) (rep : ReplyTo) :
    Kept κ s₀ (State.homeCommand s c tenant rep) := by
  unfold State.homeCommand
  try dsimp only
  repeat' first
    | with_reducible assumption
    | exact hκ.sub (by decide)
    | with_reducible apply kept_replyTo
    | with_reducible apply kept_commandLater
    | with_reducible apply kept_forwardWait
    | with_reducible apply kept_noteHome
    | with_reducible apply kept_sendMsg
    | with_reducible apply kept_finalise
    | with_reducible apply kept_putHome
    | with_reducible apply kept_resumeHome
    | with_reducible apply kept_sendMsgs
    | with_reducible intro _ _ _ _
    | with_reducible intro _ _ _
    | with_reducible intro _ _
    | split

theorem kept_restoreDone (h : Kept κ s₀ s) (hκ : Off κ [.regs, .rse, .fab, .hcp, .out]) (id : ℕ) (c : Change) (st : St) :
    Kept κ s₀ (State.restoreDone s id c st) := by
  unfold State.restoreDone
  try dsimp only
  repeat' first
    | with_reducible assumption
    | exact hκ.sub (by decide)
    | with_reducible apply kept_tellRefused
    | with_reducible intro _ _ _ _
    | with_reducible intro _ _ _
    | with_reducible intro _ _
    | split

theorem kept_execMirrorAck (h : Kept κ s₀ s) (hκ : Off κ [.mem, .regs, .rse, .pge, .sch, .fab, .hcp, .evt, .out]) (src : ℕ) (id : ℕ) (w : MirrorMark) :
    OutKept κ s₀ (execMirrorAck src id w s) := by
  unfold execMirrorAck
  try dsimp only
  repeat' first
    | with_reducible assumption
    | exact hκ.sub (by decide)
    | with_reducible apply kept_takeMsg
    | with_reducible apply kept_takePend
    | with_reducible apply kept_deliver
    | with_reducible apply kept_heldResume
    | with_reducible apply kept_restoreDone
    | with_reducible apply kept_settle
    | with_reducible apply OutKept.next
    | with_reducible intro _ _ _ _
    | with_reducible intro _ _ _
    | with_reducible intro _ _
    | split
    | dsimp only [itself]
    | refine Kept.of_snd ?_ (by with_reducible assumption)

theorem kept_execMirrorAckTimeout (h : Kept κ s₀ s) (hκ : Off κ [.mem, .regs, .rse, .pge, .sch, .fab, .hcp, .evt, .out]) (id : ℕ) (seq : ℕ) :
    OutKept κ s₀ (execMirrorAckTimeout id seq s) := by
  unfold execMirrorAckTimeout
  try dsimp only
  repeat' first
    | with_reducible assumption
    | exact hκ.sub (by decide)
    | with_reducible apply kept_takePend
    | with_reducible apply kept_heldResume
    | with_reducible apply kept_refuse
    | with_reducible apply kept_markUnreachable
    | with_reducible apply OutKept.next
    | with_reducible intro _ _ _ _
    | with_reducible intro _ _ _
    | with_reducible intro _ _
    | split
    | dsimp only [itself]
    | refine Kept.of_snd ?_ (by with_reducible assumption)

theorem kept_undoNote (h : Kept κ s₀ s) (hκ : Off κ [.regs, .rse, .pge, .fab, .hcp, .out]) (p : MirrorPend) :
    Kept κ s₀ (State.undoNote s p) := by
  unfold State.undoNote
  try dsimp only
  repeat' first
    | with_reducible assumption
    | exact hκ.sub (by decide)
    | with_reducible apply kept_onRse
    | with_reducible apply kept_revert
    | with_reducible intro _ _ _ _
    | with_reducible intro _ _ _
    | with_reducible intro _ _
    | split

theorem kept_undoWrite (h : Kept κ s₀ s) (hκ : Off κ [.mem, .regs, .rse, .pge, .sch, .fab, .hcp, .evt, .out]) (p : MirrorPend) :
    Kept κ s₀ (State.undoWrite s p) := by
  unfold State.undoWrite
  try dsimp only
  repeat' first
    | with_reducible assumption
    | exact hκ.sub (by decide)
    | with_reducible apply kept_heldResume
    | with_reducible apply kept_refuse
    | with_reducible apply kept_undoNote
    | with_reducible intro _ _ _ _
    | with_reducible intro _ _ _
    | with_reducible intro _ _
    | split

theorem kept_execMirrorRefused (h : Kept κ s₀ s) (hκ : Off κ [.mem, .regs, .rse, .pge, .sch, .fab, .hcp, .evt, .out]) (src : ℕ) (id : ℕ) (w : MirrorMark) :
    OutKept κ s₀ (execMirrorRefused src id w s) := by
  unfold execMirrorRefused
  try dsimp only
  repeat' first
    | with_reducible assumption
    | exact hκ.sub (by decide)
    | with_reducible apply kept_takeMsg
    | with_reducible apply kept_takePend
    | with_reducible apply kept_setReg
    | with_reducible apply kept_onRse
    | with_reducible apply kept_restoreDone
    | with_reducible apply kept_undoWrite
    | with_reducible apply OutKept.next
    | with_reducible intro _ _ _ _
    | with_reducible intro _ _ _
    | with_reducible intro _ _
    | split
    | dsimp only [itself]
    | refine Kept.of_snd ?_ (by with_reducible assumption)

theorem kept_execMirrorFenced (h : Kept κ s₀ s) (hκ : Off κ [.mem, .regs, .rse, .pge, .sch, .fab, .hcp, .evt, .out]) (src : ℕ) (id : ℕ) (w : MirrorMark) :
    OutKept κ s₀ (execMirrorFenced src id w s) := by
  unfold execMirrorFenced
  try dsimp only
  repeat' first
    | with_reducible assumption
    | exact hκ.sub (by decide)
    | with_reducible apply kept_takeMsg
    | with_reducible apply kept_takePend
    | with_reducible apply kept_heldResume
    | with_reducible apply kept_record
    | with_reducible apply kept_undoWrite
    | with_reducible apply OutKept.next
    | with_reducible intro _ _ _ _
    | with_reducible intro _ _ _
    | with_reducible intro _ _
    | split
    | dsimp only [itself]
    | refine Kept.of_snd ?_ (by with_reducible assumption)

theorem kept_fenceAnswer (h : Kept κ s₀ s) (hκ : Off κ [.regs, .rse, .fab, .hcp, .out]) (src : ℕ) (id : ℕ) :
    Kept κ s₀ (State.fenceAnswer s src id) := by
  unfold State.fenceAnswer
  try dsimp only
  repeat' first
    | with_reducible assumption
    | exact hκ.sub (by decide)
    | with_reducible apply kept_sendMsg
    | with_reducible apply kept_onRse
    | with_reducible intro _ _ _ _
    | with_reducible intro _ _ _
    | with_reducible intro _ _
    | split

theorem kept_probeFailed (h : Kept κ s₀ s) (hκ : Off κ [.regs, .rse, .fab, .hcp, .out]) (home : ℕ) :
    Kept κ s₀ (State.probeFailed s home) := by
  unfold State.probeFailed
  try dsimp only
  repeat' first
    | with_reducible assumption
    | exact hκ.sub (by decide)
    | with_reducible apply kept_fenceAnswer
    | with_reducible apply kept_onRse
    | with_reducible apply kept_foldl
    | with_reducible intro _ _ _ _
    | with_reducible intro _ _ _
    | with_reducible intro _ _
    | split

theorem kept_deputyQuery (h : Kept κ s₀ s) (hκ : Off κ [.regs, .rse, .fab, .hcp, .out]) (src : ℕ) (id : ℕ) :
    Kept κ s₀ (State.deputyQuery s src id) := by
  unfold State.deputyQuery
  try dsimp only
  repeat' first
    | with_reducible assumption
    | exact hκ.sub (by decide)
    | with_reducible apply kept_fenceAnswer
    | with_reducible apply kept_probeFailed
    | with_reducible apply kept_markUnreachable
    | with_reducible apply kept_sendMsg
    | with_reducible apply kept_onRse
    | with_reducible intro _ _ _ _
    | with_reducible intro _ _ _
    | with_reducible intro _ _
    | split

theorem kept_ownQuery (h : Kept κ s₀ s) (hκ : Off κ [.regs, .rse, .fab, .hcp, .out]) (src : ℕ) (id : ℕ) (epoch : ℕ) (committed : Bool) (rec : Record) :
    Kept κ s₀ (State.ownQuery s src id epoch committed rec) := by
  unfold State.ownQuery
  try dsimp only
  repeat' first
    | with_reducible assumption
    | exact hκ.sub (by decide)
    | with_reducible apply kept_onRse
    | with_reducible apply kept_addClaim
    | with_reducible apply kept_sendMsg
    | with_reducible apply kept_deliver
    | with_reducible apply kept_deputyQuery
    | with_reducible intro _ _ _ _
    | with_reducible intro _ _ _
    | with_reducible intro _ _
    | split

theorem kept_execOwnQuery (h : Kept κ s₀ s) (hκ : Off κ [.regs, .rse, .fab, .hcp, .out]) (src : ℕ) (id : ℕ) (epoch : ℕ) (committed : Bool) (rec : Record) :
    OutKept κ s₀ (execOwnQuery src id epoch committed rec s) := by
  unfold execOwnQuery
  try dsimp only
  repeat' first
    | with_reducible assumption
    | exact hκ.sub (by decide)
    | with_reducible apply kept_ownQuery
    | with_reducible apply kept_takeMsg
    | with_reducible apply kept_nakWith
    | with_reducible apply OutKept.next
    | with_reducible intro _ _ _ _
    | with_reducible intro _ _ _
    | with_reducible intro _ _
    | split

theorem kept_execClaimWindowExpiry (h : Kept κ s₀ s) (hκ : Off κ [.regs, .rse, .pge, .sch, .fab, .hcp, .evt, .out]) (id : ℕ) :
    OutKept κ s₀ (execClaimWindowExpiry id s) := by
  unfold execClaimWindowExpiry
  try dsimp only
  repeat' first
    | with_reducible assumption
    | exact hκ.sub (by decide)
    | with_reducible apply kept_grantClaims
    | with_reducible apply OutKept.next
    | with_reducible intro _ _ _ _
    | with_reducible intro _ _ _
    | with_reducible intro _ _
    | split

theorem kept_resyncItem (h : Kept κ s₀ s) (hκ : Off κ [.regs, .rse, .pge, .sch, .fab, .hcp, .evt, .out]) (i : ResyncItem) :
    Kept κ s₀ (State.resyncItem s i) := by
  unfold State.resyncItem
  try dsimp only
  repeat' first
    | with_reducible assumption
    | exact hκ.sub (by decide)
    | with_reducible apply kept_takeHome
    | with_reducible apply kept_sendMsg
    | with_reducible intro _ _ _ _
    | with_reducible intro _ _ _
    | with_reducible intro _ _
    | split

theorem kept_recordLost (h : Kept κ s₀ s) (hκ : Off κ [.regs, .rse, .pge, .sch, .fab, .hcp, .evt, .out]) (h_ : HomeRec) :
    Kept κ s₀ (State.recordLost s h_) := by
  unfold State.recordLost
  try dsimp only
  repeat' first
    | with_reducible assumption
    | exact hκ.sub (by decide)
    | with_reducible apply kept_finalise
    | with_reducible apply kept_post
    | with_reducible intro _ _ _ _
    | with_reducible intro _ _ _
    | with_reducible intro _ _
    | split

theorem kept_execResyncReply (h : Kept κ s₀ s) (hκ : Off κ [.regs, .rse, .pge, .sch, .fab, .hcp, .evt, .out]) (src : ℕ) (adopted : Bool) (items : List ResyncItem) :
    OutKept κ s₀ (execResyncReply src adopted items s) := by
  unfold execResyncReply
  try dsimp only
  repeat' first
    | with_reducible assumption
    | exact hκ.sub (by decide)
    | with_reducible apply kept_takeMsg
    | with_reducible apply kept_adoptedAway
    | with_reducible apply kept_resyncItem
    | with_reducible apply kept_copyHomes
    | with_reducible apply kept_onRse
    | with_reducible apply kept_ownQuery
    | with_reducible apply kept_nakWith
    | with_reducible apply kept_recordLost
    | with_reducible apply OutKept.next
    | with_reducible apply kept_foldl
    | with_reducible intro _ _ _ _
    | with_reducible intro _ _ _
    | with_reducible intro _ _
    | split

theorem kept_execResyncRetry (h : Kept κ s₀ s) (hκ : Off κ [.regs, .rse, .fab, .hcp, .out])  :
    OutKept κ s₀ (execResyncRetry s) := by
  unfold execResyncRetry
  try dsimp only
  repeat' first
    | with_reducible assumption
    | exact hκ.sub (by decide)
    | with_reducible apply kept_sendMsg
    | with_reducible apply kept_markUnreachable
    | with_reducible apply OutKept.next
    | with_reducible intro _ _ _ _
    | with_reducible intro _ _ _
    | with_reducible intro _ _
    | split

theorem kept_serveResync (h : Kept κ s₀ s) (hκ : Off κ [.regs, .rse, .fab, .hcp, .out]) (src : ℕ) :
    Kept κ s₀ (State.serveResync s src) := by
  unfold State.serveResync
  try dsimp only
  repeat' first
    | with_reducible assumption
    | exact hκ.sub (by decide)
    | with_reducible apply kept_sendMsg
    | with_reducible apply kept_onRse
    | with_reducible intro _ _ _ _
    | with_reducible intro _ _ _
    | with_reducible intro _ _
    | split

theorem kept_execRecordRestore (h : Kept κ s₀ s) (hκ : Off κ [.regs, .rse, .pge, .sch, .fab, .hcp, .evt, .out]) (id : ℕ) :
    OutKept κ s₀ (execRecordRestore id s) := by
  unfold execRecordRestore
  try dsimp only
  repeat' first
    | with_reducible assumption
    | exact hκ.sub (by decide)
    | with_reducible apply kept_sendMsg
    | with_reducible apply kept_recordLost
    | with_reducible apply OutKept.next
    | with_reducible intro _ _ _ _
    | with_reducible intro _ _ _
    | with_reducible intro _ _
    | split

theorem kept_execPlaceAccept (h : Kept κ s₀ s) (hκ : Off κ [.regs, .rse, .pge, .sch, .fab, .hcp, .evt, .out]) (src : ℕ) (id : ℕ) (epoch : ℕ) :
    OutKept κ s₀ (execPlaceAccept src id epoch s) := by
  unfold execPlaceAccept
  try dsimp only
  repeat' first
    | with_reducible assumption
    | exact hκ.sub (by decide)
    | with_reducible apply kept_takeMsg
    | with_reducible apply kept_sendMsg
    | with_reducible apply kept_finalise
    | with_reducible apply kept_change
    | with_reducible apply kept_deliver
    | with_reducible apply OutKept.next
    | with_reducible intro _ _ _ _
    | with_reducible intro _ _ _
    | with_reducible intro _ _
    | split

theorem kept_execPlaceRefused (h : Kept κ s₀ s) (hκ : Off κ [.regs, .rse, .sch, .fab, .hcp, .out]) (src : ℕ) (id : ℕ) (epoch : ℕ) (status : St) :
    OutKept κ s₀ (execPlaceRefused src id epoch status s) := by
  unfold execPlaceRefused
  try dsimp only
  repeat' first
    | with_reducible assumption
    | exact hκ.sub (by decide)
    | with_reducible apply kept_takeMsg
    | with_reducible apply kept_dropPlacing
    | with_reducible apply kept_bump
    | with_reducible apply kept_deliver
    | with_reducible apply OutKept.next
    | with_reducible intro _ _ _ _
    | with_reducible intro _ _ _
    | with_reducible intro _ _
    | split

theorem kept_execPlaceTimeout (h : Kept κ s₀ s) (hκ : Off κ [.regs, .rse, .sch, .fab, .hcp, .out]) (id : ℕ) :
    OutKept κ s₀ (execPlaceTimeout id s) := by
  unfold execPlaceTimeout
  try dsimp only
  repeat' first
    | with_reducible assumption
    | exact hκ.sub (by decide)
    | with_reducible apply kept_dropPlacing
    | with_reducible apply kept_markUnreachable
    | with_reducible apply OutKept.next
    | with_reducible intro _ _ _ _
    | with_reducible intro _ _ _
    | with_reducible intro _ _
    | split

theorem kept_execStepNote (h : Kept κ s₀ s) (hκ : Off κ [.regs, .rse, .fab, .hcp, .out]) (src : ℕ) (n : StepNote) :
    OutKept κ s₀ (execStepNote src n s) := by
  unfold execStepNote
  try dsimp only
  repeat' first
    | with_reducible assumption
    | exact hκ.sub (by decide)
    | with_reducible apply kept_takeMsg
    | with_reducible apply kept_noteToken
    | with_reducible apply kept_sendMsg
    | with_reducible apply kept_noteHome
    | with_reducible apply kept_deliver
    | with_reducible apply OutKept.next
    | with_reducible intro _ _ _ _
    | with_reducible intro _ _ _
    | with_reducible intro _ _
    | split
    | dsimp only [itself]
    | refine Kept.of_snd ?_ (by with_reducible assumption)

theorem kept_execLostStep (h : Kept κ s₀ s) (hκ : Off κ [.regs, .rse, .pge, .sch, .fab, .hcp, .evt, .out]) (src : ℕ) (id : ℕ) (epoch : ℕ) :
    OutKept κ s₀ (execLostStep src id epoch s) := by
  unfold execLostStep
  try dsimp only
  repeat' first
    | with_reducible assumption
    | exact hκ.sub (by decide)
    | with_reducible apply kept_takeMsg
    | with_reducible apply kept_ownerLost
    | with_reducible apply kept_deliver
    | with_reducible apply OutKept.next
    | with_reducible intro _ _ _ _
    | with_reducible intro _ _ _
    | with_reducible intro _ _
    | split

theorem kept_execFinal (h : Kept κ s₀ s) (hκ : Off κ [.regs, .rse, .pge, .sch, .fab, .hcp, .evt, .out]) (src : ℕ) (m : FinalMsg) :
    OutKept κ s₀ (execFinal src m s) := by
  unfold execFinal
  try dsimp only
  repeat' first
    | with_reducible assumption
    | exact hκ.sub (by decide)
    | with_reducible apply kept_takeMsg
    | with_reducible apply kept_finalise
    | with_reducible apply kept_deliver
    | with_reducible apply OutKept.next
    | with_reducible intro _ _ _ _
    | with_reducible intro _ _ _
    | with_reducible intro _ _
    | split

theorem kept_clearMovePhase (h : Kept κ s₀ s) (hκ : Off κ [.regs, .rse, .fab, .hcp, .out]) (h_ : HomeRec) :
    Kept κ s₀ (State.clearMovePhase s h_) := by
  unfold State.clearMovePhase
  try dsimp only
  repeat' first
    | with_reducible assumption
    | exact hκ.sub (by decide)
    | with_reducible apply kept_noteHome
    | with_reducible intro _ _ _ _
    | with_reducible intro _ _ _
    | with_reducible intro _ _
    | split

theorem kept_sourceLost (h : Kept κ s₀ s) (hκ : Off κ [.regs, .rse, .fab, .hcp, .out]) (h_ : HomeRec) :
    Kept κ s₀ (State.sourceLost s h_) := by
  unfold State.sourceLost
  try dsimp only
  repeat' first
    | with_reducible assumption
    | exact hκ.sub (by decide)
    | with_reducible apply kept_endHostWait
    | with_reducible apply kept_forwardWait
    | with_reducible apply kept_clearMovePhase
    | with_reducible apply kept_foldl
    | with_reducible intro _ _ _ _
    | with_reducible intro _ _ _
    | with_reducible intro _ _
    | split

theorem kept_execLossSweep (h : Kept κ s₀ s) (hκ : Off κ [.regs, .rse, .pge, .sch, .fab, .hcp, .evt, .out]) (node : ℕ) :
    OutKept κ s₀ (execLossSweep node s) := by
  unfold execLossSweep
  try dsimp only
  repeat' first
    | with_reducible assumption
    | exact hκ.sub (by decide)
    | with_reducible apply kept_ownersLost
    | with_reducible apply kept_markUnreachable
    | with_reducible apply kept_sourceLost
    | with_reducible apply OutKept.next
    | with_reducible apply kept_foldl
    | with_reducible intro _ _ _ _
    | with_reducible intro _ _ _
    | with_reducible intro _ _
    | split

theorem kept_commitReq (h : Kept κ s₀ s) (hκ : Off κ [.regs, .rse, .pge, .sch, .fab, .hcp, .evt, .out]) (src : ℕ) (id : ℕ) (epoch : ℕ) (dest : ℕ) :
    Kept κ s₀ (State.commitReq s src id epoch dest) := by
  unfold State.commitReq
  try dsimp only
  repeat' first
    | with_reducible assumption
    | exact hκ.sub (by decide)
    | with_reducible apply kept_sendMsg
    | with_reducible apply kept_change
    | with_reducible apply kept_deliver
    | with_reducible apply kept_refuseMove
    | with_reducible intro _ _ _ _
    | with_reducible intro _ _ _
    | with_reducible intro _ _
    | split

theorem kept_execMvCommitReq (h : Kept κ s₀ s) (hκ : Off κ [.mem, .regs, .rse, .pge, .sch, .fab, .hcp, .evt, .out]) (src : ℕ) (id : ℕ) (epoch : ℕ) (dest : ℕ) :
    OutKept κ s₀ (execMvCommitReq src id epoch dest s) := by
  unfold execMvCommitReq
  try dsimp only
  repeat' first
    | with_reducible assumption
    | exact hκ.sub (by decide)
    | with_reducible apply kept_heldResume
    | with_reducible apply kept_commitReq
    | with_reducible apply kept_takeMsg
    | with_reducible apply OutKept.next
    | with_reducible intro _ _ _ _
    | with_reducible intro _ _ _
    | with_reducible intro _ _
    | split

theorem kept_execMvReleased (h : Kept κ s₀ s) (hκ : Off κ [.regs, .rse, .fab, .hcp, .out]) (src : ℕ) (id : ℕ) (epoch : ℕ) :
    OutKept κ s₀ (execMvReleased src id epoch s) := by
  unfold execMvReleased
  try dsimp only
  repeat' first
    | with_reducible assumption
    | exact hκ.sub (by decide)
    | with_reducible apply kept_takeMsg
    | with_reducible apply kept_deliver
    | with_reducible apply kept_clearMovePhase
    | with_reducible apply OutKept.next
    | with_reducible intro _ _ _ _
    | with_reducible intro _ _ _
    | with_reducible intro _ _
    | split

theorem kept_forwardKind (h : Kept κ s₀ s) (hκ : Off κ [.regs, .fab, .hcp, .out]) (h_ : HomeRec) (k : FwdKind) :
    Kept κ s₀ (State.forwardKind s h_ k) := by
  unfold State.forwardKind
  try dsimp only
  repeat' first
    | with_reducible assumption
    | exact hκ.sub (by decide)
    | with_reducible apply kept_sendMsg
    | with_reducible intro _ _ _ _
    | with_reducible intro _ _ _
    | with_reducible intro _ _
    | split

theorem kept_returnedKind (h : Kept κ s₀ s) (hκ : Off κ [.regs, .rse, .fab, .hcp, .out]) (id : ℕ) (k : FwdKind) :
    Kept κ s₀ (State.returnedKind s id k) := by
  unfold State.returnedKind
  try dsimp only
  repeat' first
    | with_reducible assumption
    | exact hκ.sub (by decide)
    | with_reducible apply kept_endHostWait
    | with_reducible intro _ _ _ _
    | with_reducible intro _ _ _
    | with_reducible intro _ _
    | split

theorem kept_execNotOwner (h : Kept κ s₀ s) (hκ : Off κ [.regs, .rse, .pge, .sch, .fab, .hcp, .evt, .out]) (src : ℕ) (id : ℕ) (epoch : ℕ) (kind : FwdKind) :
    OutKept κ s₀ (execNotOwner src id epoch kind s) := by
  unfold execNotOwner
  try dsimp only
  repeat' first
    | with_reducible assumption
    | exact hκ.sub (by decide)
    | with_reducible apply kept_takeMsg
    | with_reducible apply kept_ownerLost
    | with_reducible apply kept_deliver
    | with_reducible apply kept_forwardKind
    | with_reducible apply kept_putHome
    | with_reducible apply kept_returnedKind
    | with_reducible apply OutKept.next
    | with_reducible intro _ _ _ _
    | with_reducible intro _ _ _
    | with_reducible intro _ _
    | split

theorem kept_execNotOwnerRetryExpiry (h : Kept κ s₀ s) (hκ : Off κ [.regs, .rse, .fab, .hcp, .out]) (id : ℕ) :
    OutKept κ s₀ (execNotOwnerRetryExpiry id s) := by
  unfold execNotOwnerRetryExpiry
  try dsimp only
  repeat' first
    | with_reducible assumption
    | exact hκ.sub (by decide)
    | with_reducible apply kept_forwardKind
    | with_reducible apply kept_putHome
    | with_reducible apply OutKept.next
    | with_reducible apply kept_foldl
    | with_reducible intro _ _ _ _
    | with_reducible intro _ _ _
    | with_reducible intro _ _
    | split

theorem kept_execTtlExpiry (h : Kept κ s₀ s) (hκ : Off κ [.regs, .rse, .pge, .sch, .fab, .hcp, .evt, .out]) (id : ℕ) :
    OutKept κ s₀ (execTtlExpiry id s) := by
  unfold execTtlExpiry
  try dsimp only
  repeat' first
    | with_reducible assumption
    | exact hκ.sub (by decide)
    | with_reducible apply kept_freeKv
    | with_reducible apply kept_notice
    | with_reducible apply kept_post
    | with_reducible apply kept_reclaim
    | with_reducible apply OutKept.next
    | with_reducible intro _ _ _ _
    | with_reducible intro _ _ _
    | with_reducible intro _ _
    | split

theorem kept_execTombstoneExpiry (h : Kept κ s₀ s) (hκ : Off κ [.regs, .rse, .pge, .sch, .fab, .hcp, .evt, .out]) (id : ℕ) :
    OutKept κ s₀ (execTombstoneExpiry id s) := by
  unfold execTombstoneExpiry
  try dsimp only
  repeat' first
    | with_reducible assumption
    | exact hκ.sub (by decide)
    | with_reducible apply kept_reclaim
    | with_reducible apply OutKept.next
    | with_reducible intro _ _ _ _
    | with_reducible intro _ _ _
    | with_reducible intro _ _
    | split

theorem kept_freeSlot (h : Kept κ s₀ s) (hκ : Off κ [.regs, .rse, .pge, .sch, .fab, .hcp, .evt, .out])  :
    Kept κ s₀ (State.freeSlot s).2 := by
  unfold State.freeSlot
  try dsimp only
  repeat' first
    | with_reducible assumption
    | exact hκ.sub (by decide)
    | with_reducible apply kept_reclaim
    | with_reducible intro _ _ _ _
    | with_reducible intro _ _ _
    | with_reducible intro _ _
    | split

end Sys2Proof.Machine
end

