-- ==== Sys2Proof/Laws/KeptMigrate.lean ====
section
/-! SUPPORT. What the operations of Machine/Migrate.lean keep (see Laws/Kept.lean). -/

namespace Sys2Proof.Machine

variable {κ : Part → Bool} {s₀ s : State}

theorem kept_sendPrepare (h : Kept κ s₀ s) (hκ : Off κ [.regs, .rse, .fab, .hcp, .out]) (w : Work) (mv : MoveOut) :
    Kept κ s₀ (State.sendPrepare s w mv) := by
  unfold State.sendPrepare
  try dsimp only
  repeat' first
    | with_reducible assumption
    | exact hκ.sub (by decide)
    | with_reducible apply kept_sendMsg
    | with_reducible apply kept_putWork
    | with_reducible intro _ _ _ _
    | with_reducible intro _ _ _
    | with_reducible intro _ _
    | split

theorem kept_evicted (h : Kept κ s₀ s) (hκ : Off κ [.regs, .rse, .fab, .hcp, .out]) (id : ℕ) :
    Kept κ s₀ (State.evicted s id) := by
  unfold State.evicted
  try dsimp only
  repeat' first
    | with_reducible assumption
    | exact hκ.sub (by decide)
    | with_reducible apply kept_sendPrepare
    | with_reducible intro _ _ _ _
    | with_reducible intro _ _ _
    | with_reducible intro _ _
    | split

theorem kept_postLost (h : Kept κ s₀ s) (hκ : Off κ [.regs, .fab, .hcp, .evt, .out]) (p : Page) :
    Kept κ s₀ (State.postLost s p) := by
  unfold State.postLost
  try dsimp only
  repeat' first
    | with_reducible assumption
    | exact hκ.sub (by decide)
    | with_reducible apply kept_post
    | with_reducible apply kept_bump
    | with_reducible intro _ _ _ _
    | with_reducible intro _ _ _
    | with_reducible intro _ _
    | split

theorem kept_rebuildFailed (h : Kept κ s₀ s) (hκ : Off κ [.mem, .regs, .rse, .pge, .mzt, .cores, .sch, .phs, .fab, .xfr, .syn, .hcp, .evt, .out]) (id : ℕ) (entry : Option ℕ) :
    Kept κ s₀ (State.rebuildFailed s id entry) := by
  unfold State.rebuildFailed
  try dsimp only
  repeat' first
    | with_reducible assumption
    | exact hκ.sub (by decide)
    | with_reducible apply kept_onPge
    | with_reducible apply kept_loseOwned
    | with_reducible apply kept_noteHome
    | with_reducible apply kept_freeKv
    | with_reducible apply kept_restartCommit
    | with_reducible intro _ _ _ _
    | with_reducible intro _ _ _
    | with_reducible intro _ _
    | split

theorem kept_startRebuild (h : Kept κ s₀ s) (hκ : Off κ [.mem, .regs, .rse, .pge, .mzt, .cores, .sch, .phs, .fab, .xfr, .syn, .hcp, .evt, .out]) (epoch : ℕ) (p : Page) (left : List (ℕ × ℕ)) (entry : Option ℕ) :
    Kept κ s₀ (State.startRebuild s epoch p left entry) := by
  unfold State.startRebuild
  try dsimp only
  repeat' first
    | with_reducible assumption
    | exact hκ.sub (by decide)
    | with_reducible apply kept_onPge
    | with_reducible apply kept_sendMsg
    | with_reducible apply kept_rebuildFailed
    | with_reducible apply kept_foldl
    | with_reducible intro _ _ _ _
    | with_reducible intro _ _ _
    | with_reducible intro _ _
    | split

theorem kept_retarget (h : Kept κ s₀ s) (hκ : Off κ [.mem, .regs, .rse, .pge, .mzt, .cores, .sch, .phs, .fab, .xfr, .syn, .hcp, .evt, .out]) (b : Rebuild) :
    Kept κ s₀ (State.retarget s b) := by
  unfold State.retarget
  try dsimp only
  repeat' first
    | with_reducible assumption
    | exact hκ.sub (by decide)
    | with_reducible apply kept_rebuildFailed
    | with_reducible apply kept_onPge
    | with_reducible apply kept_sendMsg
    | with_reducible intro _ _ _ _
    | with_reducible intro _ _ _
    | with_reducible intro _ _
    | split

theorem kept_rebuildOwn (h : Kept κ s₀ s) (hκ : Off κ [.mem, .regs, .rse, .pge, .mzt, .cores, .sch, .phs, .fab, .xfr, .syn, .hcp, .evt, .out]) (epoch : ℕ) (p : Page) :
    Kept κ s₀ (State.rebuildOwn s epoch p) := by
  unfold State.rebuildOwn
  try dsimp only
  repeat' first
    | with_reducible assumption
    | exact hκ.sub (by decide)
    | with_reducible apply kept_putPage
    | with_reducible apply kept_startRebuild
    | with_reducible apply kept_invalidate
    | with_reducible intro _ _ _ _
    | with_reducible intro _ _ _
    | with_reducible intro _ _
    | split

theorem kept_losePage (h : Kept κ s₀ s) (hκ : Off κ [.mem, .regs, .rse, .pge, .mzt, .cores, .sch, .phs, .fab, .xfr, .syn, .hcp, .evt, .out]) (idx : ℕ) :
    Kept κ s₀ (State.losePage s idx) := by
  unfold State.losePage
  try dsimp only
  repeat' first
    | with_reducible assumption
    | exact hκ.sub (by decide)
    | with_reducible apply kept_freePage
    | with_reducible apply kept_postLost
    | with_reducible apply kept_onRse
    | with_reducible apply kept_putPage
    | with_reducible apply kept_rebuildOwn
    | with_reducible apply kept_loseOwned
    | with_reducible apply kept_freeKv
    | with_reducible apply kept_noteHome
    | with_reducible apply kept_refuseAsker
    | with_reducible apply kept_endMigration
    | with_reducible intro _ _ _ _
    | with_reducible intro _ _ _
    | with_reducible intro _ _
    | split

theorem kept_losePages (h : Kept κ s₀ s) (hκ : Off κ [.mem, .regs, .rse, .pge, .mzt, .cores, .sch, .phs, .fab, .xfr, .syn, .hcp, .evt, .out]) (a0 : List ℕ) :
    Kept κ s₀ (State.losePages s a0) := by
  induction a0 generalizing s with
  | nil =>
    unfold State.losePages
    try dsimp only
    repeat' first
      | with_reducible assumption
  | cons x_ l_ ih =>
    unfold State.losePages
    try dsimp only
    repeat' first
      | with_reducible assumption
      | with_reducible apply ih
      | exact hκ.sub (by decide)
      | with_reducible apply kept_losePage
      | with_reducible intro _ _ _ _
      | with_reducible intro _ _ _
      | with_reducible intro _ _
      | split

theorem kept_dealLost (h : Kept κ s₀ s) (hκ : Off κ [.mem, .regs, .rse, .pge, .mzt, .cores, .sch, .phs, .fab, .xfr, .syn, .hcp, .evt, .out]) (id : ℕ) :
    Kept κ s₀ (State.dealLost s id) := by
  unfold State.dealLost
  try dsimp only
  repeat' first
    | with_reducible assumption
    | exact hκ.sub (by decide)
    | with_reducible apply kept_losePages
    | with_reducible intro _ _ _ _
    | with_reducible intro _ _ _
    | with_reducible intro _ _
    | split

theorem kept_loseTogether (h : Kept κ s₀ s) (hκ : Off κ [.mem, .regs, .rse, .pge, .mzt, .cores, .sch, .phs, .fab, .xfr, .syn, .hcp, .evt, .out]) (ps : List Page) :
    Kept κ s₀ (State.loseTogether s ps) := by
  unfold State.loseTogether
  try dsimp only
  repeat' first
    | with_reducible assumption
    | exact hκ.sub (by decide)
    | with_reducible apply kept_losePage
    | with_reducible apply kept_postLost
    | with_reducible apply kept_foldl
    | with_reducible intro _ _ _ _
    | with_reducible intro _ _ _
    | with_reducible intro _ _
    | split

theorem kept_losePageAll (h : Kept κ s₀ s) (hκ : Off κ [.mem, .regs, .rse, .pge, .mzt, .cores, .sch, .phs, .fab, .xfr, .syn, .hcp, .evt, .out]) (idx : ℕ) :
    Kept κ s₀ (State.losePageAll s idx) := by
  unfold State.losePageAll
  try dsimp only
  repeat' first
    | with_reducible assumption
    | exact hκ.sub (by decide)
    | with_reducible apply kept_freePage
    | with_reducible apply kept_losePage
    | with_reducible apply kept_foldl
    | with_reducible intro _ _ _ _
    | with_reducible intro _ _ _
    | with_reducible intro _ _
    | split

theorem kept_switchPage (h : Kept κ s₀ s) (hκ : Off κ [.regs, .pge, .hcp]) (p : Page) (loc : PageLoc) :
    Kept κ s₀ (State.switchPage s p loc) := by
  unfold State.switchPage
  try dsimp only
  repeat' first
    | with_reducible assumption
    | exact hκ.sub (by decide)
    | with_reducible apply kept_bump
    | with_reducible apply kept_onPge
    | with_reducible apply kept_putPage
    | with_reducible apply kept_watermark
    | with_reducible apply kept_invalidate
    | with_reducible apply kept_endMigration
    | with_reducible intro _ _ _ _
    | with_reducible intro _ _ _
    | with_reducible intro _ _
    | split

theorem kept_settlePages (h : Kept κ s₀ s) (hκ : Off κ [.regs, .pge, .fab, .hcp, .evt, .out]) :
    Kept κ s₀ (State.settlePages s) := by
  unfold State.settlePages
  try dsimp only
  repeat' first
    | with_reducible assumption
    | exact hκ.sub (by decide)
    | with_reducible apply kept_freePages
    | with_reducible apply kept_switchPage
    | with_reducible apply kept_postOrphan
    | with_reducible apply kept_onPge
    | with_reducible apply kept_foldl
    | with_reducible intro _ _ _ _
    | with_reducible intro _ _ _
    | with_reducible intro _ _
    | split

theorem kept_addMigration (h : Kept κ s₀ s) (hκ : Off κ [.regs, .pge]) (p : Page) (m : Migration) :
    Kept κ s₀ (State.addMigration s p m) := by
  unfold State.addMigration
  try dsimp only
  repeat' first
    | with_reducible assumption
    | exact hκ.sub (by decide)
    | with_reducible apply kept_onPge
    | with_reducible apply kept_putPage
    | with_reducible apply kept_watermark
    | with_reducible intro _ _ _ _
    | with_reducible intro _ _ _
    | with_reducible intro _ _
    | split

theorem kept_writeUmberSlot (h : Kept κ s₀ s) (hκ : Off κ [.hcp, .out]) (p : Page) (u_ : ℕ) (k : ℕ) (data : List Sys2Proof.Byte) :
    OptKept κ s₀ itself (State.writeUmberSlot s p u_ k data) := by
  unfold State.writeUmberSlot
  try dsimp only
  repeat' first
    | with_reducible assumption
    | exact hκ.sub (by decide)
    | with_reducible apply kept_roceIssue
    | exact OptKept.none
    | with_reducible apply OptKept.some
    | with_reducible intro _ _ _ _
    | with_reducible intro _ _ _
    | with_reducible intro _ _
    | split
    | dsimp only [itself]
    | refine OptKept.getD (f := itself) ?_ ?_
    | refine OptKept.get_id ?_ (by with_reducible assumption)

theorem kept_toT2 (h : Kept κ s₀ s) (hκ : Off κ [.regs, .pge, .hcp, .out]) (p : Page) (why : MigWhy) (retried : Bool) :
    OptKept κ s₀ itself (State.toT2 s p why retried) := by
  unfold State.toT2
  try dsimp only
  repeat' first
    | with_reducible assumption
    | exact hκ.sub (by decide)
    | with_reducible apply kept_addMigration
    | with_reducible apply kept_writeUmberSlot
    | exact OptKept.none
    | with_reducible apply OptKept.some
    | with_reducible intro _ _ _ _
    | with_reducible intro _ _ _
    | with_reducible intro _ _
    | split
    | dsimp only [itself]
    | refine OptKept.getD (f := itself) ?_ ?_
    | refine OptKept.get_id ?_ (by with_reducible assumption)

theorem kept_toPool (h : Kept κ s₀ s) (hκ : Off κ [.regs, .pge, .hcp, .out]) (p : Page) (retried : Bool) :
    Kept κ s₀ (State.toPool s p retried) := by
  unfold State.toPool
  try dsimp only
  repeat' first
    | with_reducible assumption
    | exact hκ.sub (by decide)
    | with_reducible apply kept_roceIssue
    | with_reducible apply kept_addMigration
    | with_reducible intro _ _ _ _
    | with_reducible intro _ _ _
    | with_reducible intro _ _
    | split
    | dsimp only [itself]
    | refine OptKept.getD (f := itself) ?_ ?_
    | refine OptKept.get_id ?_ (by with_reducible assumption)

theorem kept_toT1 (h : Kept κ s₀ s) (hκ : Off κ [.regs, .pge, .fab, .hcp, .out]) (p : Page) (why : MigWhy) (retried : Bool) :
    OptKept κ s₀ itself (State.toT1 s p why retried) := by
  unfold State.toT1
  try dsimp only
  repeat' first
    | with_reducible assumption
    | exact hκ.sub (by decide)
    | with_reducible apply kept_sendMsg
    | with_reducible apply kept_addMigration
    | with_reducible apply kept_switchPage
    | exact OptKept.none
    | with_reducible apply OptKept.some
    | with_reducible intro _ _ _ _
    | with_reducible intro _ _ _
    | with_reducible intro _ _
    | split

theorem kept_noTier (h : Kept κ s₀ s) (hκ : Off κ [.regs, .rse, .pge, .fab, .hcp, .evt, .out]) (id : ℕ) :
    Kept κ s₀ (State.noTier s id) := by
  unfold State.noTier
  try dsimp only
  repeat' first
    | with_reducible assumption
    | exact hκ.sub (by decide)
    | with_reducible apply kept_putWork
    | with_reducible apply kept_freeKv
    | with_reducible apply kept_evicted
    | with_reducible apply kept_post
    | with_reducible intro _ _ _ _
    | with_reducible intro _ _ _
    | with_reducible intro _ _
    | split

theorem kept_toTier (h : Kept κ s₀ s) (hκ : Off κ [.regs, .pge, .fab, .hcp, .out]) (p : Page) (tier : ℕ) :
    OptKept κ s₀ itself (State.toTier s p tier) := by
  unfold State.toTier
  try dsimp only
  repeat' first
    | with_reducible assumption
    | exact hκ.sub (by decide)
    | with_reducible apply kept_toT1
    | with_reducible apply kept_toT2
    | exact OptKept.none
    | with_reducible apply OptKept.some
    | with_reducible intro _ _ _ _
    | with_reducible intro _ _ _
    | with_reducible intro _ _
    | split
    | dsimp only [itself]
    | refine OptKept.getD (f := itself) ?_ ?_
    | refine OptKept.get_id ?_ (by with_reducible assumption)

theorem kept_handbackTo (h : Kept κ s₀ s) (hκ : Off κ [.regs, .rse, .pge, .fab, .hcp, .evt, .out]) (p : Page) (tiers : List ℕ) :
    Kept κ s₀ (State.handbackTo s p tiers) := by
  unfold State.handbackTo
  try dsimp only
  repeat' first
    | with_reducible assumption
    | exact hκ.sub (by decide)
    | with_reducible apply kept_toTier
    | with_reducible apply kept_evicted
    | with_reducible apply kept_noTier
    | with_reducible intro _ _ _ _
    | with_reducible intro _ _ _
    | with_reducible intro _ _
    | split
    | dsimp only [itself]
    | refine OptKept.getD (f := itself) ?_ ?_
    | refine OptKept.get_id ?_ (by with_reducible assumption)
    | refine OptKept.findSome _ fun _ => ?_

theorem kept_handbackPage (h : Kept κ s₀ s) (hκ : Off κ [.regs, .rse, .pge, .fab, .hcp, .evt, .out]) (p : Page) :
    Kept κ s₀ (State.handbackPage s p) := by
  unfold State.handbackPage
  try dsimp only
  repeat' first
    | with_reducible assumption
    | exact hκ.sub (by decide)
    | with_reducible apply kept_handbackTo
    | with_reducible intro _ _ _ _
    | with_reducible intro _ _ _
    | with_reducible intro _ _
    | split

theorem kept_recallPage (h : Kept κ s₀ s) (hκ : Off κ [.mem, .regs, .rse, .pge, .mzt, .cores, .sch, .phs, .fab, .xfr, .syn, .hcp, .evt, .out]) (p : Page) (epoch : ℕ) (why : MigWhy) (retried : Bool) (asker : Option (ℕ × ℕ)) :
    Kept κ s₀ (State.recallPage s p epoch why retried asker) := by
  unfold State.recallPage
  try dsimp only
  repeat' first
    | with_reducible assumption
    | exact hκ.sub (by decide)
    | with_reducible apply kept_adjustReservation
    | with_reducible apply kept_addMigration
    | with_reducible apply kept_roceIssue
    | with_reducible apply kept_losePage
    | with_reducible apply kept_putPage
    | with_reducible apply kept_freePage
    | with_reducible apply kept_sendMsg
    | with_reducible apply kept_invalidate
    | with_reducible apply kept_bump
    | with_reducible apply kept_refuseAsker
    | with_reducible intro _ _ _ _
    | with_reducible intro _ _ _
    | with_reducible intro _ _
    | split
    | dsimp only [itself]
    | refine OptKept.getD (f := itself) ?_ ?_
    | refine OptKept.get_id ?_ (by with_reducible assumption)

theorem kept_retirePage (h : Kept κ s₀ s) (hκ : Off κ [.mem, .regs, .pge, .hcp]) (p : Page) :
    Kept κ s₀ (State.retirePage s p) := by
  unfold State.retirePage
  try dsimp only
  repeat' first
    | with_reducible assumption
    | exact hκ.sub (by decide)
    | with_reducible apply kept_switchPage
    | with_reducible apply kept_copyMem
    | with_reducible apply kept_bump
    | with_reducible intro _ _ _ _
    | with_reducible intro _ _ _
    | with_reducible intro _ _
    | split

theorem kept_startMigration (h : Kept κ s₀ s) (hκ : Off κ [.mem, .regs, .rse, .pge, .mzt, .cores, .sch, .phs, .fab, .xfr, .syn, .hcp, .evt, .out]) (p : Page) (why : MigWhy) :
    Kept κ s₀ (State.startMigration s p why) := by
  unfold State.startMigration
  try dsimp only
  repeat' first
    | with_reducible assumption
    | exact hκ.sub (by decide)
    | with_reducible apply kept_watermark
    | with_reducible apply kept_freePage
    | with_reducible apply kept_toT1
    | with_reducible apply kept_handbackPage
    | with_reducible apply kept_recallPage
    | with_reducible apply kept_toT2
    | with_reducible apply kept_retirePage
    | with_reducible apply kept_toPool
    | with_reducible intro _ _ _ _
    | with_reducible intro _ _ _
    | with_reducible intro _ _
    | split
    | dsimp only [itself]
    | refine OptKept.getD (f := itself) ?_ ?_
    | refine OptKept.get_id ?_ (by with_reducible assumption)

theorem kept_execMigrationStart (h : Kept κ s₀ s) (hκ : Off κ [.mem, .regs, .rse, .pge, .mzt, .cores, .sch, .phs, .fab, .xfr, .syn, .hcp, .evt, .out]) (idx : ℕ) (why : MigWhy) :
    OutKept κ s₀ (execMigrationStart idx why s) := by
  unfold execMigrationStart
  try dsimp only
  repeat' first
    | with_reducible assumption
    | exact hκ.sub (by decide)
    | with_reducible apply kept_startMigration
    | with_reducible apply OutKept.next
    | with_reducible intro _ _ _ _
    | with_reducible intro _ _ _
    | with_reducible intro _ _
    | split

theorem kept_execDemoteIdleExpiry (h : Kept κ s₀ s) (hκ : Off κ [.regs, .pge, .hcp, .out]) (idx : ℕ) :
    OutKept κ s₀ (execDemoteIdleExpiry idx s) := by
  unfold execDemoteIdleExpiry
  try dsimp only
  repeat' first
    | with_reducible assumption
    | exact hκ.sub (by decide)
    | with_reducible apply kept_toT2
    | with_reducible apply OutKept.next
    | with_reducible intro _ _ _ _
    | with_reducible intro _ _ _
    | with_reducible intro _ _
    | split
    | dsimp only [itself]
    | refine OptKept.getD (f := itself) ?_ ?_
    | refine OptKept.get_id ?_ (by with_reducible assumption)

theorem kept_dropMigration (h : Kept κ s₀ s) (hκ : Off κ [.regs, .pge, .hcp]) (p : Page) :
    Kept κ s₀ (State.dropMigration s p) := by
  unfold State.dropMigration
  try dsimp only
  repeat' first
    | with_reducible assumption
    | exact hκ.sub (by decide)
    | with_reducible apply kept_putPage
    | with_reducible apply kept_watermark
    | with_reducible apply kept_endMigration
    | with_reducible intro _ _ _ _
    | with_reducible intro _ _ _
    | with_reducible intro _ _
    | split

theorem kept_sendParity (h : Kept κ s₀ s) (hκ : Off κ [.regs, .pge, .fab, .hcp, .out]) (p : Page) (to_ : ℕ) (offset : ℕ) (tag : ℕ) (delta : List Sys2Proof.Byte) (write : Option MztMsg) :
    Kept κ s₀ (State.sendParity s p to_ offset tag delta write) := by
  unfold State.sendParity
  try dsimp only
  repeat' first
    | with_reducible assumption
    | exact hκ.sub (by decide)
    | with_reducible apply kept_sendMsg
    | with_reducible apply kept_onPge
    | with_reducible intro _ _ _ _
    | with_reducible intro _ _ _
    | with_reducible intro _ _
    | split

theorem kept_rebuildPart (h : Kept κ s₀ s) (hκ : Off κ [.regs, .pge, .fab, .hcp, .out]) (src : ℕ) (num : ℕ) (p : Page) (data : List Sys2Proof.Byte) :
    Kept κ s₀ (State.rebuildPart s src num p data) := by
  unfold State.rebuildPart
  try dsimp only
  repeat' first
    | with_reducible assumption
    | exact hκ.sub (by decide)
    | with_reducible apply kept_onPge
    | with_reducible apply kept_sendMsg
    | with_reducible intro _ _ _ _
    | with_reducible intro _ _ _
    | with_reducible intro _ _
    | split

theorem kept_recalled (h : Kept κ s₀ s) (hκ : Off κ [.mem, .regs, .rse, .pge, .mzt, .cores, .sch, .phs, .fab, .xfr, .syn, .hcp, .evt, .out]) (src : ℕ) (m : Migration) (p : Page) (from_ : Page) (data : List Sys2Proof.Byte) :
    Kept κ s₀ (State.recalled s src m p from_ data) := by
  unfold State.recalled
  try dsimp only
  repeat' first
    | with_reducible assumption
    | exact hκ.sub (by decide)
    | with_reducible apply kept_switchPage
    | with_reducible apply kept_wr
    | with_reducible apply kept_sendMsg
    | with_reducible apply kept_losePage
    | with_reducible apply kept_dropMigration
    | with_reducible apply kept_onPge
    | with_reducible apply kept_bump
    | with_reducible intro _ _ _ _
    | with_reducible intro _ _ _
    | with_reducible intro _ _
    | split

theorem kept_holdPage (h : Kept κ s₀ s) (hκ : Off κ [.mem, .regs, .pge, .fab, .hcp, .out]) (src : ℕ) (idx : ℕ) (p : Page) (data : List Sys2Proof.Byte) :
    Kept κ s₀ (State.holdPage s src idx p data) := by
  unfold State.holdPage
  try dsimp only
  repeat' first
    | with_reducible assumption
    | exact hκ.sub (by decide)
    | with_reducible apply kept_sendMsg
    | with_reducible apply kept_holderEpoch
    | with_reducible apply kept_allocPage
    | with_reducible apply kept_wr
    | with_reducible apply kept_sendParity
    | with_reducible intro _ _ _ _
    | with_reducible intro _ _ _
    | with_reducible intro _ _
    | split
    | dsimp only [itself]
    | refine OptKept.getD (f := itself) ?_ ?_
    | refine OptKept.get_id ?_ (by with_reducible assumption)
    | refine OptKept.get_snd ?_ (by with_reducible assumption)
    | exact OptKept.none

theorem kept_execMigrationCopy (h : Kept κ s₀ s) (hκ : Off κ [.mem, .regs, .rse, .pge, .mzt, .cores, .sch, .phs, .fab, .xfr, .syn, .hcp, .evt, .out]) (src : ℕ) (idx : ℕ) (p : Page) (data : List Sys2Proof.Byte) :
    OutKept κ s₀ (execMigrationCopy src idx p data s) := by
  unfold execMigrationCopy
  try dsimp only
  repeat' first
    | with_reducible assumption
    | exact hκ.sub (by decide)
    | with_reducible apply kept_takeMsg
    | with_reducible apply kept_holdPage
    | with_reducible apply kept_rebuildPart
    | with_reducible apply kept_recalled
    | with_reducible apply OutKept.next
    | with_reducible intro _ _ _ _
    | with_reducible intro _ _ _
    | with_reducible intro _ _
    | split

theorem kept_locate (h : Kept κ s₀ s) (hκ : Off κ [.rse]) (id : ℕ) (l : LocatedPage) :
    Kept κ s₀ (State.locate s id l) := by
  unfold State.locate
  try dsimp only
  repeat' first
    | with_reducible assumption
    | exact hκ.sub (by decide)
    | with_reducible apply kept_onRse
    | with_reducible intro _ _ _ _
    | with_reducible intro _ _ _
    | with_reducible intro _ _
    | split

theorem kept_throughAck (h : Kept κ s₀ s) (hκ : Off κ [.regs, .rse, .fab, .hcp, .out]) (id : ℕ) :
    Kept κ s₀ (State.throughAck s id) := by
  unfold State.throughAck
  try dsimp only
  repeat' first
    | with_reducible assumption
    | exact hκ.sub (by decide)
    | with_reducible apply kept_putWork
    | with_reducible apply kept_sendNote
    | with_reducible intro _ _ _ _
    | with_reducible intro _ _ _
    | with_reducible intro _ _
    | split

theorem kept_freeAborted (h : Kept κ s₀ s) (hκ : Off κ [.regs, .pge, .fab, .hcp, .out]) (src : ℕ) (idx : ℕ) (index : ℕ) :
    Kept κ s₀ (State.freeAborted s src idx index) := by
  unfold State.freeAborted
  try dsimp only
  repeat' first
    | with_reducible assumption
    | exact hκ.sub (by decide)
    | with_reducible apply kept_sendMsg
    | with_reducible apply kept_onPge
    | with_reducible intro _ _ _ _
    | with_reducible intro _ _ _
    | with_reducible intro _ _
    | split

theorem kept_tellParity (h : Kept κ s₀ s) (hκ : Off κ [.regs, .fab, .hcp, .out]) (p : Page) (node : ℕ) (ns : List ℕ) :
    Kept κ s₀ (State.tellParity s p node ns) := by
  unfold State.tellParity
  try dsimp only
  repeat' first
    | with_reducible assumption
    | exact hκ.sub (by decide)
    | with_reducible apply kept_sendMsgs
    | with_reducible intro _ _ _ _
    | with_reducible intro _ _ _
    | with_reducible intro _ _
    | split

theorem kept_parityMoved (h : Kept κ s₀ s) (hκ : Off κ [.pge]) (id : ℕ) (epoch : ℕ) (group : ℕ) (node : ℕ) :
    Kept κ s₀ (State.parityMoved s id epoch group node) := by
  unfold State.parityMoved
  try dsimp only
  repeat' first
    | with_reducible assumption
    | exact hκ.sub (by decide)
    | with_reducible apply kept_holderEpoch
    | with_reducible apply kept_onPge
    | with_reducible intro _ _ _ _
    | with_reducible intro _ _ _
    | with_reducible intro _ _
    | split
    | dsimp only [itself]
    | refine OptKept.getD (f := itself) ?_ ?_
    | refine OptKept.get_id ?_ (by with_reducible assumption)

theorem kept_execMigrationAck (h : Kept κ s₀ s) (hκ : Off κ [.regs, .rse, .pge, .fab, .hcp, .evt, .out]) (src : ℕ) (idx : ℕ) (index : ℕ) :
    OutKept κ s₀ (execMigrationAck src idx index s) := by
  unfold execMigrationAck
  try dsimp only
  repeat' first
    | with_reducible assumption
    | exact hκ.sub (by decide)
    | with_reducible apply kept_takeMsg
    | with_reducible apply kept_onPge
    | with_reducible apply kept_post
    | with_reducible apply kept_putPage
    | with_reducible apply kept_locate
    | with_reducible apply kept_evicted
    | with_reducible apply kept_switchPage
    | with_reducible apply kept_sendMsg
    | with_reducible apply kept_invalidate
    | with_reducible apply kept_freeAborted
    | with_reducible apply kept_tellParity
    | with_reducible apply OutKept.next
    | with_reducible intro _ _ _ _
    | with_reducible intro _ _ _
    | with_reducible intro _ _
    | split

theorem kept_rebuildRefused (h : Kept κ s₀ s) (hκ : Off κ [.mem, .regs, .rse, .pge, .mzt, .cores, .sch, .phs, .fab, .xfr, .syn, .hcp, .evt, .out]) (num : ℕ) :
    Kept κ s₀ (State.rebuildRefused s num) := by
  unfold State.rebuildRefused
  try dsimp only
  repeat' first
    | with_reducible assumption
    | exact hκ.sub (by decide)
    | with_reducible apply kept_retarget
    | with_reducible apply kept_rebuildFailed
    | with_reducible intro _ _ _ _
    | with_reducible intro _ _ _
    | with_reducible intro _ _
    | split

theorem kept_execMigrationRefused (h : Kept κ s₀ s) (hκ : Off κ [.mem, .regs, .rse, .pge, .mzt, .cores, .sch, .phs, .fab, .xfr, .syn, .hcp, .evt, .out]) (src : ℕ) (idx : ℕ) (status : St) :
    OutKept κ s₀ (execMigrationRefused src idx status s) := by
  unfold execMigrationRefused
  try dsimp only
  repeat' first
    | with_reducible assumption
    | exact hκ.sub (by decide)
    | with_reducible apply kept_takeMsg
    | with_reducible apply kept_onPge
    | with_reducible apply kept_dropMigration
    | with_reducible apply kept_losePage
    | with_reducible apply kept_toT1
    | with_reducible apply kept_bump
    | with_reducible apply kept_rebuildRefused
    | with_reducible apply kept_handbackTo
    | with_reducible apply kept_throughAck
    | with_reducible apply OutKept.next
    | with_reducible intro _ _ _ _
    | with_reducible intro _ _ _
    | with_reducible intro _ _
    | split
    | dsimp only [itself]
    | refine OptKept.getD (f := itself) ?_ ?_
    | refine OptKept.get_id ?_ (by with_reducible assumption)

theorem kept_pageOutDone (h : Kept κ s₀ s) (hκ : Off κ [.regs, .rse, .pge, .fab, .hcp, .out]) (idx : ℕ) :
    Kept κ s₀ (State.pageOutDone s idx) := by
  unfold State.pageOutDone
  try dsimp only
  repeat' first
    | with_reducible assumption
    | exact hκ.sub (by decide)
    | with_reducible apply kept_evicted
    | with_reducible apply kept_switchPage
    | with_reducible intro _ _ _ _
    | with_reducible intro _ _ _
    | with_reducible intro _ _
    | split

theorem kept_pageMoveDone (h : Kept κ s₀ s) (hκ : Off κ [.mem, .regs, .rse, .pge, .mzt, .cores, .sch, .phs, .fab, .xfr, .syn, .hcp, .evt, .out]) (idx : ℕ) (data : List Sys2Proof.Byte) :
    Kept κ s₀ (State.pageMoveDone s idx data) := by
  unfold State.pageMoveDone
  try dsimp only
  repeat' first
    | with_reducible assumption
    | exact hκ.sub (by decide)
    | with_reducible apply kept_writeUmberSlot
    | with_reducible apply kept_dropMigration
    | with_reducible apply kept_losePage
    | with_reducible apply kept_toPool
    | with_reducible apply kept_bump
    | with_reducible intro _ _ _ _
    | with_reducible intro _ _ _
    | with_reducible intro _ _
    | split
    | dsimp only [itself]
    | refine OptKept.getD (f := itself) ?_ ?_
    | refine OptKept.get_id ?_ (by with_reducible assumption)

theorem kept_pageInDone (h : Kept κ s₀ s) (hκ : Off κ [.mem, .regs, .rse, .pge, .mzt, .cores, .sch, .phs, .fab, .xfr, .syn, .hcp, .evt, .out]) (idx : ℕ) :
    Kept κ s₀ (State.pageInDone s idx) := by
  unfold State.pageInDone
  try dsimp only
  repeat' first
    | with_reducible assumption
    | exact hκ.sub (by decide)
    | with_reducible apply kept_switchPage
    | with_reducible apply kept_sendMsg
    | with_reducible apply kept_losePage
    | with_reducible apply kept_dropMigration
    | with_reducible apply kept_recallPage
    | with_reducible apply kept_bump
    | with_reducible apply kept_refuseAsker
    | with_reducible intro _ _ _ _
    | with_reducible intro _ _ _
    | with_reducible intro _ _
    | split
    | dsimp only [itself]
    | refine OptKept.getD (f := itself) ?_ ?_
    | refine OptKept.get_id ?_ (by with_reducible assumption)

theorem kept_pageIoFailed (h : Kept κ s₀ s) (hκ : Off κ [.mem, .regs, .rse, .pge, .mzt, .cores, .sch, .phs, .fab, .xfr, .syn, .hcp, .evt, .out]) (idx : ℕ) :
    Kept κ s₀ (State.pageIoFailed s idx) := by
  unfold State.pageIoFailed
  try dsimp only
  repeat' first
    | with_reducible assumption
    | exact hκ.sub (by decide)
    | with_reducible apply kept_losePage
    | with_reducible apply kept_dropMigration
    | with_reducible apply kept_refuseAsker
    | with_reducible intro _ _ _ _
    | with_reducible intro _ _ _
    | with_reducible intro _ _
    | split

theorem kept_servePgFetch (h : Kept κ s₀ s) (hκ : Off κ [.mem, .regs, .rse, .pge, .mzt, .cores, .sch, .phs, .fab, .xfr, .syn, .hcp, .evt, .out]) (src : ℕ) (id : ℕ) (epoch : ℕ) (idx : ℕ) (dest : ℕ) :
    Kept κ s₀ (State.servePgFetch s src id epoch idx dest) := by
  unfold State.servePgFetch
  try dsimp only
  repeat' first
    | with_reducible assumption
    | exact hκ.sub (by decide)
    | with_reducible apply kept_holderEpoch
    | with_reducible apply kept_sendMsg
    | with_reducible apply kept_losePage
    | with_reducible apply kept_deliver
    | with_reducible apply kept_recallPage
    | with_reducible apply kept_putPage
    | with_reducible intro _ _ _ _
    | with_reducible intro _ _ _
    | with_reducible intro _ _
    | split
    | dsimp only [itself]
    | refine OptKept.getD (f := itself) ?_ ?_
    | refine OptKept.get_id ?_ (by with_reducible assumption)

theorem kept_execWriteThrough (h : Kept κ s₀ s) (hκ : Off κ [.mem, .regs, .rse, .pge, .mzt, .cores, .sch, .phs, .fab, .xfr, .syn, .hcp, .evt, .out]) (src : ℕ) (id : ℕ) (epoch : ℕ) (idx : ℕ) (offset : ℕ) (tag : ℕ) (data : List Sys2Proof.Byte) :
    OutKept κ s₀ (execWriteThrough src id epoch idx offset tag data s) := by
  unfold execWriteThrough
  try dsimp only
  repeat' first
    | with_reducible assumption
    | exact hκ.sub (by decide)
    | with_reducible apply kept_takeMsg
    | with_reducible apply kept_holderEpoch
    | with_reducible apply kept_putPage
    | with_reducible apply kept_wr
    | with_reducible apply kept_sendParity
    | with_reducible apply kept_recallPage
    | with_reducible apply kept_deliver
    | with_reducible apply kept_sendMsg
    | with_reducible apply OutKept.next
    | with_reducible intro _ _ _ _
    | with_reducible intro _ _ _
    | with_reducible intro _ _
    | split
    | dsimp only [itself]
    | refine OptKept.getD (f := itself) ?_ ?_
    | refine OptKept.get_id ?_ (by with_reducible assumption)

theorem kept_parityPage (h : Kept κ s₀ s) (hκ : Off κ [.mem, .regs, .pge]) (id : ℕ) (epoch : ℕ) (group : ℕ) (len : ℕ) :
    OptKept κ s₀ Prod.snd (State.parityPage s id epoch group len) := by
  unfold State.parityPage
  try dsimp only
  repeat' first
    | with_reducible assumption
    | exact hκ.sub (by decide)
    | with_reducible apply kept_allocPage
    | with_reducible apply kept_wr
    | exact OptKept.none
    | with_reducible apply OptKept.some
    | with_reducible intro _ _ _ _
    | with_reducible intro _ _ _
    | with_reducible intro _ _
    | split
    | dsimp only [itself]
    | refine OptKept.get_snd ?_ (by with_reducible assumption)

theorem kept_execParityUpdate (h : Kept κ s₀ s) (hκ : Off κ [.mem, .regs, .rse, .pge, .mzt, .cores, .sch, .phs, .fab, .xfr, .syn, .hcp, .evt, .out]) (src : ℕ) (id : ℕ) (epoch : ℕ) (group : ℕ) (offset : ℕ) (tag : ℕ) (delta : List Sys2Proof.Byte) :
    OutKept κ s₀ (execParityUpdate src id epoch group offset tag delta s) := by
  unfold execParityUpdate
  try dsimp only
  repeat' first
    | with_reducible assumption
    | exact hκ.sub (by decide)
    | with_reducible apply kept_takeMsg
    | with_reducible apply kept_holderEpoch
    | with_reducible apply kept_parityPage
    | with_reducible apply kept_wr
    | with_reducible apply kept_sendMsg
    | with_reducible apply kept_recallPage
    | with_reducible apply kept_deliver
    | with_reducible apply kept_putPage
    | with_reducible apply OutKept.next
    | with_reducible intro _ _ _ _
    | with_reducible intro _ _ _
    | with_reducible intro _ _
    | split
    | dsimp only [itself]
    | refine OptKept.getD (f := itself) ?_ ?_
    | refine OptKept.get_id ?_ (by with_reducible assumption)
    | refine OptKept.get_snd ?_ (by with_reducible assumption)
    | exact OptKept.none

theorem kept_sendKvAck (h : Kept κ s₀ s) (hκ : Off κ [.regs, .fab, .hcp, .out]) (src : ℕ) (m : MztMsg) (st : St) :
    Kept κ s₀ (State.sendKvAck s src m st) := by
  unfold State.sendKvAck
  try dsimp only
  repeat' first
    | with_reducible assumption
    | exact hκ.sub (by decide)
    | with_reducible apply kept_bump
    | with_reducible apply kept_sendMsg
    | with_reducible intro _ _ _ _
    | with_reducible intro _ _ _
    | with_reducible intro _ _
    | split

theorem kept_throughRefusal (h : Kept κ s₀ s) (hκ : Off κ [.regs, .rse, .pge, .fab, .hcp, .out]) (src : ℕ) (id : ℕ) (tag : ℕ) (status : St) :
    Kept κ s₀ (State.throughRefusal s src id tag status) := by
  unfold State.throughRefusal
  try dsimp only
  repeat' first
    | with_reducible assumption
    | exact hκ.sub (by decide)
    | with_reducible apply kept_onPge
    | with_reducible apply kept_sendMsg
    | with_reducible apply kept_throughAck
    | with_reducible apply kept_sendKvAck
    | with_reducible intro _ _ _ _
    | with_reducible intro _ _ _
    | with_reducible intro _ _
    | split

theorem kept_execWriteThroughAck (h : Kept κ s₀ s) (hκ : Off κ [.regs, .rse, .pge, .fab, .hcp, .out]) (src : ℕ) (id : ℕ) (tag : ℕ) :
    OutKept κ s₀ (execWriteThroughAck src id tag s) := by
  unfold execWriteThroughAck
  try dsimp only
  repeat' first
    | with_reducible assumption
    | exact hκ.sub (by decide)
    | with_reducible apply kept_takeMsg
    | with_reducible apply kept_onPge
    | with_reducible apply kept_sendMsg
    | with_reducible apply kept_throughAck
    | with_reducible apply kept_sendKvAck
    | with_reducible apply OutKept.next
    | with_reducible intro _ _ _ _
    | with_reducible intro _ _ _
    | with_reducible intro _ _
    | split

theorem kept_execPgLocate (h : Kept κ s₀ s) (hκ : Off κ [.regs, .pge, .fab, .hcp, .out]) (src : ℕ) (id : ℕ) (epoch : ℕ) :
    OutKept κ s₀ (execPgLocate src id epoch s) := by
  unfold execPgLocate
  try dsimp only
  repeat' first
    | with_reducible assumption
    | exact hκ.sub (by decide)
    | with_reducible apply kept_takeMsg
    | with_reducible apply kept_holderEpoch
    | with_reducible apply kept_sendMsg
    | with_reducible apply OutKept.next
    | with_reducible intro _ _ _ _
    | with_reducible intro _ _ _
    | with_reducible intro _ _
    | split
    | dsimp only [itself]
    | refine OptKept.getD (f := itself) ?_ ?_
    | refine OptKept.get_id ?_ (by with_reducible assumption)

theorem kept_locatedAll (h : Kept κ s₀ s) (hκ : Off κ [.mem, .regs, .rse, .pge, .mzt, .cores, .sch, .phs, .fab, .xfr, .syn, .hcp, .evt, .out]) (h_ : HomeRec) :
    Kept κ s₀ (State.locatedAll s h_) := by
  unfold State.locatedAll
  try dsimp only
  repeat' first
    | with_reducible assumption
    | exact hκ.sub (by decide)
    | with_reducible apply kept_startRebuild
    | with_reducible apply kept_restartCommit
    | with_reducible apply kept_foldl
    | with_reducible intro _ _ _ _
    | with_reducible intro _ _ _
    | with_reducible intro _ _
    | split

theorem kept_execPgLocateReply (h : Kept κ s₀ s) (hκ : Off κ [.mem, .regs, .rse, .pge, .mzt, .cores, .sch, .phs, .fab, .xfr, .syn, .hcp, .evt, .out]) (src : ℕ) (id : ℕ) (pages : List LocatedPage) :
    OutKept κ s₀ (execPgLocateReply src id pages s) := by
  unfold execPgLocateReply
  try dsimp only
  repeat' first
    | with_reducible assumption
    | exact hκ.sub (by decide)
    | with_reducible apply kept_takeMsg
    | with_reducible apply kept_sendMsg
    | with_reducible apply kept_putHome
    | with_reducible apply kept_locatedAll
    | with_reducible apply OutKept.next
    | with_reducible intro _ _ _ _
    | with_reducible intro _ _ _
    | with_reducible intro _ _
    | split

theorem kept_execRequestRecover (h : Kept κ s₀ s) (hκ : Off κ [.regs, .rse, .pge, .sch, .fab, .hcp, .evt, .out]) (id : ℕ) :
    OutKept κ s₀ (execRequestRecover id s) := by
  unfold execRequestRecover
  try dsimp only
  repeat' first
    | with_reducible assumption
    | exact hκ.sub (by decide)
    | with_reducible apply kept_freePages
    | with_reducible apply kept_putPage
    | with_reducible apply kept_recoverCommit
    | with_reducible apply kept_restartCommit
    | with_reducible apply OutKept.next
    | with_reducible apply kept_foldl
    | with_reducible intro _ _ _ _
    | with_reducible intro _ _ _
    | with_reducible intro _ _
    | split

theorem kept_holderLost (h : Kept κ s₀ s) (hκ : Off κ [.mem, .regs, .rse, .pge, .mzt, .cores, .sch, .phs, .fab, .xfr, .syn, .hcp, .evt, .out]) (n : ℕ) :
    Kept κ s₀ (State.holderLost s n) := by
  unfold State.holderLost
  try dsimp only
  repeat' first
    | with_reducible assumption
    | exact hκ.sub (by decide)
    | with_reducible apply kept_putHome
    | with_reducible apply kept_locatedAll
    | with_reducible apply kept_loseTogether
    | with_reducible apply kept_rebuildFailed
    | with_reducible apply kept_retarget
    | with_reducible apply kept_foldl
    | with_reducible intro _ _ _ _
    | with_reducible intro _ _ _
    | with_reducible intro _ _
    | split

end Sys2Proof.Machine
end

