-- ==== Sys2Proof/Laws/KeptOwner.lean ====
section
/-! SUPPORT. What the operations of Machine/Owner.lean keep (see Laws/Kept.lean). -/

namespace Sys2Proof.Machine

variable {κ : Part → Bool} {s₀ s : State}

theorem kept_copySlot (h : Kept κ s₀ s) (hκ : Off κ [.regs, .rse, .pge, .sch, .fab, .hcp, .evt, .out]) (id : ℕ) :
    Kept κ s₀ (State.copySlot s id).2 := by
  unfold State.copySlot
  try dsimp only
  repeat' first
    | with_reducible assumption
    | exact hκ.sub (by decide)
    | with_reducible apply kept_freeSlot
    | with_reducible intro _ _ _ _
    | with_reducible intro _ _ _
    | with_reducible intro _ _
    | split
    | dsimp only [itself]
    | refine Kept.of_snd ?_ (by with_reducible assumption)

theorem kept_installRefs (h : Kept κ s₀ s) (hκ : Off κ [.regs, .pge]) (r : Record) (mo : Model) (fs : List PageRef) :
    Kept κ s₀ (State.installRefs s r mo fs).1 := by
  unfold State.installRefs
  try dsimp only
  repeat' first
    | with_reducible assumption
    | exact hκ.sub (by decide)
    | with_reducible apply kept_allocPage
    | with_reducible apply kept_adjustReservation
    | with_reducible apply kept_putPage
    | refine kept_foldl_on Prod.fst _ _ _ ?_ ?_
    | refine kept_foldl_on Prod.snd _ _ _ ?_ ?_
    | with_reducible apply kept_foldl
    | with_reducible intro _ _ _ _
    | with_reducible intro _ _ _
    | with_reducible intro _ _
    | split
    | dsimp only [itself]
    | refine OptKept.get_snd ?_ (by with_reducible assumption)

theorem kept_countPlaceRefusal (h : Kept κ s₀ s) (hκ : Off κ [.regs]) (st : St) :
    Kept κ s₀ (State.countPlaceRefusal s st) := by
  unfold State.countPlaceRefusal
  try dsimp only
  repeat' first
    | with_reducible assumption
    | exact hκ.sub (by decide)
    | with_reducible apply kept_bump
    | with_reducible intro _ _ _ _
    | with_reducible intro _ _ _
    | with_reducible intro _ _
    | split

theorem kept_admitCopy (h : Kept κ s₀ s) (hκ : Off κ [.mem, .regs, .rse, .pge, .mzt, .cores, .sch, .phs, .fab, .xfr, .syn, .hcp, .evt, .out]) (src : ℕ) (m : CopyMsg) (prepare : Bool) :
    ExcKept κ s₀ itself itself (State.admitCopy s src m prepare) := by
  unfold State.admitCopy
  try dsimp only
  repeat' first
    | with_reducible assumption
    | exact hκ.sub (by decide)
    | with_reducible apply kept_sendMsg
    | with_reducible apply kept_countPlaceRefusal
    | with_reducible apply kept_nakMsg
    | with_reducible apply kept_discardCopy
    | with_reducible apply kept_copySlot
    | with_reducible apply ExcKept.error
    | with_reducible apply ExcKept.ok
    | with_reducible apply ErrKept.error
    | with_reducible apply ErrKept.ok
    | with_reducible intro _ _ _ _
    | with_reducible intro _ _ _
    | with_reducible intro _ _
    | split
    | dsimp only [itself]
    | refine Kept.of_snd ?_ (by with_reducible assumption)

theorem kept_meet (h : Kept κ s₀ s) (hκ : Off κ [.mem, .regs, .rse, .pge, .mzt, .cores, .sch, .phs, .fab, .xfr, .syn, .hcp, .evt, .out]) (id : ℕ) (epoch : ℕ) :
    Kept κ s₀ (State.meet s id epoch) := by
  unfold State.meet
  try dsimp only
  repeat' first
    | with_reducible assumption
    | exact hκ.sub (by decide)
    | with_reducible apply kept_overtaken
    | with_reducible apply kept_checkCopy
    | with_reducible intro _ _ _ _
    | with_reducible intro _ _ _
    | with_reducible intro _ _
    | split

theorem kept_execPlace (h : Kept κ s₀ s) (hκ : Off κ [.mem, .regs, .rse, .pge, .mzt, .cores, .sch, .phs, .fab, .xfr, .syn, .hcp, .evt, .out]) (src : ℕ) (m : CopyMsg) :
    OutKept κ s₀ (execPlace src m s) := by
  unfold execPlace
  try dsimp only
  repeat' first
    | with_reducible assumption
    | exact hκ.sub (by decide)
    | with_reducible apply kept_admitCopy
    | with_reducible apply kept_takeMsg
    | with_reducible apply kept_reserve
    | with_reducible apply kept_installRefs
    | with_reducible apply kept_linkPrefix
    | with_reducible apply kept_sendMsg
    | with_reducible apply kept_putWork
    | with_reducible apply OutKept.next
    | with_reducible intro _ _ _ _
    | with_reducible intro _ _ _
    | with_reducible intro _ _
    | split
    | dsimp only [itself]
    | refine Kept.of_fst ?_ (by with_reducible assumption)
    | refine ExcKept.get_error (f := itself) (g := itself) ?_ (by with_reducible assumption)
    | refine ExcKept.get_ok (f := itself) (g := itself) ?_ (by with_reducible assumption)

theorem kept_enterPlaced (h : Kept κ s₀ s) (hκ : Off κ [.mem, .regs, .rse, .pge, .mzt, .cores, .sch, .phs, .fab, .xfr, .syn, .hcp, .evt, .out]) (w : Work) :
    Kept κ s₀ (State.enterPlaced s w) := by
  unfold State.enterPlaced
  try dsimp only
  repeat' first
    | with_reducible assumption
    | exact hκ.sub (by decide)
    | with_reducible apply kept_putWork
    | with_reducible apply kept_dealLost
    | with_reducible intro _ _ _ _
    | with_reducible intro _ _ _
    | with_reducible intro _ _
    | split

theorem kept_execPlaced (h : Kept κ s₀ s) (hκ : Off κ [.mem, .regs, .rse, .pge, .mzt, .cores, .sch, .phs, .fab, .xfr, .syn, .hcp, .evt, .out]) (src : ℕ) (id : ℕ) (epoch : ℕ) :
    OutKept κ s₀ (execPlaced src id epoch s) := by
  unfold execPlaced
  try dsimp only
  repeat' first
    | with_reducible assumption
    | exact hκ.sub (by decide)
    | with_reducible apply kept_takeMsg
    | with_reducible apply kept_enterPlaced
    | with_reducible apply kept_checkCopy
    | with_reducible apply kept_overtaken
    | with_reducible apply OutKept.next
    | with_reducible intro _ _ _ _
    | with_reducible intro _ _ _
    | with_reducible intro _ _
    | split

theorem kept_execRecallComplete (h : Kept κ s₀ s) (hκ : Off κ [.mem, .regs, .rse, .pge, .mzt, .cores, .sch, .phs, .fab, .xfr, .syn, .hcp, .evt, .out]) (id : ℕ) :
    OutKept κ s₀ (execRecallComplete id s) := by
  unfold execRecallComplete
  try dsimp only
  repeat' first
    | with_reducible assumption
    | exact hκ.sub (by decide)
    | with_reducible apply kept_putWork
    | with_reducible apply kept_checkCopy
    | with_reducible apply OutKept.next
    | with_reducible intro _ _ _ _
    | with_reducible intro _ _ _
    | with_reducible intro _ _
    | split

theorem kept_execPlaceCancel (h : Kept κ s₀ s) (hκ : Off κ [.mem, .regs, .rse, .pge, .mzt, .cores, .sch, .phs, .fab, .xfr, .syn, .hcp, .evt, .out]) (src : ℕ) (id : ℕ) (epoch : ℕ) :
    OutKept κ s₀ (execPlaceCancel src id epoch s) := by
  unfold execPlaceCancel
  try dsimp only
  repeat' first
    | with_reducible assumption
    | exact hκ.sub (by decide)
    | with_reducible apply kept_takeMsg
    | with_reducible apply kept_discardCopy
    | with_reducible apply kept_meet
    | with_reducible apply OutKept.next
    | with_reducible intro _ _ _ _
    | with_reducible intro _ _ _
    | with_reducible intro _ _
    | split

theorem kept_query (h : Kept κ s₀ s) (hκ : Off κ [.regs, .rse, .fab, .hcp, .out]) (w : Work) :
    Kept κ s₀ (State.query s w) := by
  unfold State.query
  try dsimp only
  repeat' first
    | with_reducible assumption
    | exact hκ.sub (by decide)
    | with_reducible apply kept_sendMsg
    | with_reducible apply kept_putWork
    | with_reducible intro _ _ _ _
    | with_reducible intro _ _ _
    | with_reducible intro _ _
    | split

theorem kept_execPlaceInDoubtExpiry (h : Kept κ s₀ s) (hκ : Off κ [.mem, .regs, .rse, .pge, .mzt, .cores, .sch, .phs, .fab, .xfr, .syn, .hcp, .evt, .out]) (id : ℕ) :
    OutKept κ s₀ (execPlaceInDoubtExpiry id s) := by
  unfold execPlaceInDoubtExpiry
  try dsimp only
  repeat' first
    | with_reducible assumption
    | exact hκ.sub (by decide)
    | with_reducible apply kept_query
    | with_reducible apply kept_markUnreachable
    | with_reducible apply kept_checkCopy
    | with_reducible apply OutKept.next
    | with_reducible intro _ _ _ _
    | with_reducible intro _ _ _
    | with_reducible intro _ _
    | split

theorem kept_execOwnQueryRetry (h : Kept κ s₀ s) (hκ : Off κ [.mem, .regs, .rse, .pge, .mzt, .cores, .sch, .phs, .fab, .xfr, .syn, .hcp, .evt, .out]) (id : ℕ) :
    OutKept κ s₀ (execOwnQueryRetry id s) := by
  unfold execOwnQueryRetry
  try dsimp only
  repeat' first
    | with_reducible assumption
    | exact hκ.sub (by decide)
    | with_reducible apply kept_query
    | with_reducible apply kept_markUnreachable
    | with_reducible apply kept_markReachable
    | with_reducible apply kept_checkCopy
    | with_reducible apply OutKept.next
    | with_reducible intro _ _ _ _
    | with_reducible intro _ _ _
    | with_reducible intro _ _
    | split

theorem kept_regained (h : Kept κ s₀ s) (hκ : Off κ [.regs, .rse, .fab, .hcp, .out]) (n : ℕ) :
    Kept κ s₀ (State.regained s n) := by
  unfold State.regained
  try dsimp only
  repeat' first
    | with_reducible assumption
    | exact hκ.sub (by decide)
    | with_reducible apply kept_sendMsg
    | with_reducible apply kept_onRse
    | with_reducible apply kept_query
    | with_reducible apply kept_foldl
    | with_reducible intro _ _ _ _
    | with_reducible intro _ _ _
    | with_reducible intro _ _
    | split

theorem kept_contact (h : Kept κ s₀ s) (hκ : Off κ [.regs, .rse, .fab, .hcp, .out]) (n : ℕ) :
    Kept κ s₀ (State.contact s n) := by
  unfold State.contact
  try dsimp only
  repeat' first
    | with_reducible assumption
    | exact hκ.sub (by decide)
    | with_reducible apply kept_regained
    | with_reducible apply kept_markReachable
    | with_reducible apply kept_onRse
    | with_reducible intro _ _ _ _
    | with_reducible intro _ _ _
    | with_reducible intro _ _
    | split

theorem kept_drainToken (h : Kept κ s₀ s) (hκ : Off κ [.mem, .regs, .rse, .pge, .mzt, .cores, .sch, .phs, .fab, .xfr, .syn, .hcp, .evt, .out]) (t_ : TokenPkt) :
    Kept κ s₀ (State.drainToken s t_) := by
  unfold State.drainToken
  try dsimp only
  repeat' first
    | with_reducible assumption
    | exact hκ.sub (by decide)
    | with_reducible apply kept_onHcp
    | with_reducible apply kept_dropWork
    | with_reducible apply kept_putWork
    | with_reducible intro _ _ _ _
    | with_reducible intro _ _ _
    | with_reducible intro _ _
    | split

theorem kept_transmitted (h : Kept κ s₀ s) (hκ : Off κ [.mem, .regs, .rse, .pge, .mzt, .cores, .sch, .phs, .fab, .xfr, .syn, .hcp, .evt, .out]) (o : HostOut) :
    Kept κ s₀ (State.transmitted s o) := by
  unfold State.transmitted
  try dsimp only
  repeat' first
    | with_reducible assumption
    | exact hκ.sub (by decide)
    | with_reducible apply kept_drainToken
    | with_reducible intro _ _ _ _
    | with_reducible intro _ _ _
    | with_reducible intro _ _
    | split

theorem kept_sendToken (h : Kept κ s₀ s) (hκ : Off κ [.mem, .regs, .rse, .pge, .mzt, .cores, .sch, .phs, .fab, .xfr, .syn, .hcp, .evt, .out]) (t_ : TokenPkt) :
    Kept κ s₀ (State.sendToken s t_) := by
  unfold State.sendToken
  try dsimp only
  repeat' first
    | with_reducible assumption
    | exact hκ.sub (by decide)
    | with_reducible apply kept_hostSend
    | with_reducible apply kept_onHcp
    | with_reducible apply kept_transmitted
    | with_reducible intro _ _ _ _
    | with_reducible intro _ _ _
    | with_reducible intro _ _
    | split

theorem kept_releaseTokens (h : Kept κ s₀ s) (hκ : Off κ [.mem, .regs, .rse, .pge, .mzt, .cores, .sch, .phs, .fab, .xfr, .syn, .hcp, .evt, .out]) (w : Work) (gen : ℕ) :
    Kept κ s₀ (State.releaseTokens s w gen) := by
  unfold State.releaseTokens
  try dsimp only
  repeat' first
    | with_reducible assumption
    | exact hκ.sub (by decide)
    | with_reducible apply kept_putWork
    | with_reducible apply kept_onHcp
    | with_reducible apply kept_sendToken
    | with_reducible intro _ _ _ _
    | with_reducible intro _ _ _
    | with_reducible intro _ _
    | split

theorem kept_execStepAck (h : Kept κ s₀ s) (hκ : Off κ [.mem, .regs, .rse, .pge, .mzt, .cores, .sch, .phs, .fab, .xfr, .syn, .hcp, .evt, .out]) (src : ℕ) (id : ℕ) (epoch : ℕ) (gen : ℕ) :
    OutKept κ s₀ (execStepAck src id epoch gen s) := by
  unfold execStepAck
  try dsimp only
  repeat' first
    | with_reducible assumption
    | exact hκ.sub (by decide)
    | with_reducible apply kept_takeMsg
    | with_reducible apply kept_releaseTokens
    | with_reducible apply kept_freeKv
    | with_reducible apply kept_sendMsg
    | with_reducible apply kept_dropWork
    | with_reducible apply kept_unreserve
    | with_reducible apply kept_meet
    | with_reducible apply OutKept.next
    | with_reducible intro _ _ _ _
    | with_reducible intro _ _ _
    | with_reducible intro _ _
    | split

theorem kept_throughPage (h : Kept κ s₀ s) (hκ : Off κ [.regs, .fab, .hcp, .out]) (r : Record) (old : ℕ) (p : Page) :
    Kept κ s₀ (State.throughPage s r old p).2 := by
  unfold State.throughPage
  try dsimp only
  repeat' first
    | with_reducible assumption
    | exact hκ.sub (by decide)
    | with_reducible apply kept_sendMsg
    | with_reducible intro _ _ _ _
    | with_reducible intro _ _ _
    | with_reducible intro _ _
    | split

theorem kept_throughAll (h : Kept κ s₀ s) (hκ : Off κ [.regs, .fab, .hcp, .out]) (r : Record) (old : ℕ) (a0 : List Page) :
    Kept κ s₀ (State.throughAll s r old a0).2 := by
  induction a0 generalizing s r old with
  | nil =>
    unfold State.throughAll
    try dsimp only
    repeat' first
      | with_reducible assumption
  | cons x_ l_ ih =>
    unfold State.throughAll
    try dsimp only
    repeat' first
      | with_reducible assumption
      | with_reducible apply ih
      | exact hκ.sub (by decide)
      | with_reducible apply kept_throughPage
      | with_reducible intro _ _ _ _
      | with_reducible intro _ _ _
      | with_reducible intro _ _
      | split
      | dsimp only [itself]
      | refine Kept.of_snd ?_ (by with_reducible assumption)

theorem kept_moveOvertaken (h : Kept κ s₀ s) (hκ : Off κ [.regs, .rse, .fab, .hcp, .out]) (w : Work) (ended : Bool) :
    Kept κ s₀ (State.moveOvertaken s w ended) := by
  unfold State.moveOvertaken
  try dsimp only
  repeat' first
    | with_reducible assumption
    | exact hκ.sub (by decide)
    | with_reducible apply kept_tellHost
    | with_reducible intro _ _ _ _
    | with_reducible intro _ _ _
    | with_reducible intro _ _
    | split

theorem kept_commitPages (h : Kept κ s₀ s) (hκ : Off κ [.regs, .pge, .fab, .hcp, .out]) (w : Work) (r : Record) :
    Kept κ s₀ (State.commitPages s w r) := by
  unfold State.commitPages
  try dsimp only
  repeat' first
    | with_reducible assumption
    | exact hκ.sub (by decide)
    | with_reducible apply kept_makePrefix
    | with_reducible apply kept_sealKv
    | with_reducible apply kept_trimKv
    | with_reducible intro _ _ _ _
    | with_reducible intro _ _ _
    | with_reducible intro _ _
    | split

theorem kept_stepThrough (h : Kept κ s₀ s) (hκ : Off κ [.regs, .fab, .hcp, .out]) (r : Record) (old : ℕ) :
    Kept κ s₀ (State.stepThrough s r old).2 := by
  unfold State.stepThrough
  try dsimp only
  repeat' first
    | with_reducible assumption
    | exact hκ.sub (by decide)
    | with_reducible apply kept_throughAll
    | with_reducible intro _ _ _ _
    | with_reducible intro _ _ _
    | with_reducible intro _ _
    | split
    | dsimp only [itself]
    | refine Kept.of_snd ?_ (by with_reducible assumption)

theorem kept_commitStep (h : Kept κ s₀ s) (hκ : Off κ [.regs, .rse, .pge, .mzt, .cores, .sch, .fab, .syn, .hcp, .out]) (w : Work) (si : StepInfo) (toks : List (ℕ × ℕ)) :
    Kept κ s₀ (State.commitStep s w si toks) := by
  unfold State.commitStep
  try dsimp only
  repeat' first
    | with_reducible assumption
    | exact hκ.sub (by decide)
    | with_reducible apply kept_onSch
    | with_reducible apply kept_commitPages
    | with_reducible apply kept_moveOvertaken
    | with_reducible apply kept_stepThrough
    | with_reducible apply kept_putWork
    | with_reducible apply kept_sendNote
    | with_reducible apply kept_releaseTags
    | with_reducible intro _ _ _ _
    | with_reducible intro _ _ _
    | with_reducible intro _ _
    | split
    | dsimp only [itself]
    | refine Kept.of_snd ?_ (by with_reducible assumption)

theorem kept_tryCommit (h : Kept κ s₀ s) (hκ : Off κ [.mem, .regs, .rse, .pge, .mzt, .cores, .sch, .phs, .fab, .xfr, .syn, .hcp, .evt, .out]) (id : ℕ) :
    Kept κ s₀ (State.tryCommit s id) := by
  unfold State.tryCommit
  try dsimp only
  repeat' first
    | with_reducible assumption
    | exact hκ.sub (by decide)
    | with_reducible apply kept_loseStep
    | with_reducible apply kept_endOwned
    | with_reducible apply kept_failStep
    | with_reducible apply kept_commitStep
    | with_reducible apply kept_commitOrdered
    | with_reducible intro _ _ _ _
    | with_reducible intro _ _ _
    | with_reducible intro _ _
    | split

theorem kept_execStepCommit (h : Kept κ s₀ s) (hκ : Off κ [.mem, .regs, .rse, .pge, .mzt, .cores, .sch, .phs, .fab, .xfr, .syn, .hcp, .evt, .out]) (id : ℕ) :
    OutKept κ s₀ (execStepCommit id s) := by
  unfold execStepCommit
  try dsimp only
  repeat' first
    | with_reducible assumption
    | exact hκ.sub (by decide)
    | with_reducible apply kept_tryCommit
    | with_reducible apply OutKept.next
    | with_reducible intro _ _ _ _
    | with_reducible intro _ _ _
    | with_reducible intro _ _
    | split

theorem kept_answerOrigin (h : Kept κ s₀ s) (hκ : Off κ [.regs, .rse, .fab, .hcp, .out]) (r : Record) (o : MoveOrigin) (st : St) (payload : List Sys2Proof.Byte) :
    Kept κ s₀ (State.answerOrigin s r o st payload) := by
  unfold State.answerOrigin
  try dsimp only
  repeat' first
    | with_reducible assumption
    | exact hκ.sub (by decide)
    | with_reducible apply kept_tellHost
    | with_reducible intro _ _ _ _
    | with_reducible intro _ _ _
    | with_reducible intro _ _
    | split

theorem kept_returnPrior (h : Kept κ s₀ s) (hκ : Off κ [.mem, .regs, .rse, .pge, .mzt, .cores, .sch, .phs, .fab, .xfr, .syn, .hcp, .evt, .out]) (w : Work) (mv : MoveOut) :
    Kept κ s₀ (State.returnPrior s w mv) := by
  unfold State.returnPrior
  try dsimp only
  repeat' first
    | with_reducible assumption
    | exact hκ.sub (by decide)
    | with_reducible apply kept_bump
    | with_reducible apply kept_endOwned
    | with_reducible apply kept_putWork
    | with_reducible apply kept_dealLost
    | with_reducible intro _ _ _ _
    | with_reducible intro _ _ _
    | with_reducible intro _ _
    | split

theorem kept_startMove (h : Kept κ s₀ s) (hκ : Off κ [.regs, .rse, .pge, .fab, .hcp, .out]) (w : Work) (dest : ℕ) (next : ReqState) (origin : MoveOrigin) (ttl : Option ℕ) :
    Kept κ s₀ (State.startMove s w dest next origin ttl) := by
  unfold State.startMove
  try dsimp only
  repeat' first
    | with_reducible assumption
    | exact hκ.sub (by decide)
    | with_reducible apply kept_putWork
    | with_reducible apply kept_trimKv
    | with_reducible apply kept_evicted
    | with_reducible apply kept_sendPrepare
    | with_reducible intro _ _ _ _
    | with_reducible intro _ _ _
    | with_reducible intro _ _
    | split

theorem kept_beginMove (h : Kept κ s₀ s) (hκ : Off κ [.regs, .rse, .pge, .fab, .hcp, .out]) (w : Work) :
    Kept κ s₀ (State.beginMove s w) := by
  unfold State.beginMove
  try dsimp only
  repeat' first
    | with_reducible assumption
    | exact hκ.sub (by decide)
    | with_reducible apply kept_startMove
    | with_reducible intro _ _ _ _
    | with_reducible intro _ _ _
    | with_reducible intro _ _
    | split

theorem kept_execHandbackRetryExpiry (h : Kept κ s₀ s) (hκ : Off κ [.mem, .regs, .rse, .pge, .mzt, .cores, .sch, .phs, .fab, .xfr, .syn, .hcp, .evt, .out]) (id : ℕ) :
    OutKept κ s₀ (execHandbackRetryExpiry id s) := by
  unfold execHandbackRetryExpiry
  try dsimp only
  repeat' first
    | with_reducible assumption
    | exact hκ.sub (by decide)
    | with_reducible apply kept_beginMove
    | with_reducible apply kept_checkCopy
    | with_reducible apply OutKept.next
    | with_reducible intro _ _ _ _
    | with_reducible intro _ _ _
    | with_reducible intro _ _
    | split

theorem kept_execMvPrepared (h : Kept κ s₀ s) (hκ : Off κ [.mem, .regs, .rse, .pge, .mzt, .cores, .sch, .phs, .fab, .xfr, .syn, .hcp, .evt, .out]) (src : ℕ) (id : ℕ) (epoch : ℕ) :
    OutKept κ s₀ (execMvPrepared src id epoch s) := by
  unfold execMvPrepared
  try dsimp only
  repeat' first
    | with_reducible assumption
    | exact hκ.sub (by decide)
    | with_reducible apply kept_takeMsg
    | with_reducible apply kept_sendMsg
    | with_reducible apply kept_putWork
    | with_reducible apply kept_meet
    | with_reducible apply OutKept.next
    | with_reducible intro _ _ _ _
    | with_reducible intro _ _ _
    | with_reducible intro _ _
    | split

theorem kept_execMvRefused (h : Kept κ s₀ s) (hκ : Off κ [.mem, .regs, .rse, .pge, .mzt, .cores, .sch, .phs, .fab, .xfr, .syn, .hcp, .evt, .out]) (src : ℕ) (id : ℕ) (epoch : ℕ) (status : St) :
    OutKept κ s₀ (execMvRefused src id epoch status s) := by
  unfold execMvRefused
  try dsimp only
  repeat' first
    | with_reducible assumption
    | exact hκ.sub (by decide)
    | with_reducible apply kept_takeMsg
    | with_reducible apply kept_returnPrior
    | with_reducible apply kept_answerOrigin
    | with_reducible apply kept_bump
    | with_reducible apply kept_meet
    | with_reducible apply kept_passOver
    | with_reducible apply OutKept.next
    | with_reducible intro _ _ _ _
    | with_reducible intro _ _ _
    | with_reducible intro _ _
    | split

theorem kept_execPrepareTimeout (h : Kept κ s₀ s) (hκ : Off κ [.mem, .regs, .rse, .pge, .mzt, .cores, .sch, .phs, .fab, .xfr, .syn, .hcp, .evt, .out]) (id : ℕ) :
    OutKept κ s₀ (execPrepareTimeout id s) := by
  unfold execPrepareTimeout
  try dsimp only
  repeat' first
    | with_reducible assumption
    | exact hκ.sub (by decide)
    | with_reducible apply kept_sendMsg
    | with_reducible apply kept_returnPrior
    | with_reducible apply kept_answerOrigin
    | with_reducible apply kept_checkCopy
    | with_reducible apply kept_markUnreachable
    | with_reducible apply OutKept.next
    | with_reducible intro _ _ _ _
    | with_reducible intro _ _ _
    | with_reducible intro _ _
    | split

theorem kept_execMoveCommitTimeout (h : Kept κ s₀ s) (hκ : Off κ [.mem, .regs, .rse, .pge, .mzt, .cores, .sch, .phs, .fab, .xfr, .syn, .hcp, .evt, .out]) (id : ℕ) :
    OutKept κ s₀ (execMoveCommitTimeout id s) := by
  unfold execMoveCommitTimeout
  try dsimp only
  repeat' first
    | with_reducible assumption
    | exact hκ.sub (by decide)
    | with_reducible apply kept_query
    | with_reducible apply kept_checkCopy
    | with_reducible apply kept_markUnreachable
    | with_reducible apply OutKept.next
    | with_reducible intro _ _ _ _
    | with_reducible intro _ _ _
    | with_reducible intro _ _
    | split

theorem kept_releaseSource (h : Kept κ s₀ s) (hκ : Off κ [.mem, .regs, .rse, .pge, .mzt, .cores, .sch, .phs, .fab, .xfr, .syn, .hcp, .evt, .out]) (w : Work) (epoch : ℕ) :
    Kept κ s₀ (State.releaseSource s w epoch) := by
  unfold State.releaseSource
  try dsimp only
  repeat' first
    | with_reducible assumption
    | exact hκ.sub (by decide)
    | with_reducible apply kept_bump
    | with_reducible apply kept_sendMsg
    | with_reducible apply kept_putPage
    | with_reducible apply kept_freePage
    | with_reducible apply kept_dropWork
    | with_reducible apply kept_answerOrigin
    | with_reducible apply kept_foldl
    | with_reducible intro _ _ _ _
    | with_reducible intro _ _ _
    | with_reducible intro _ _
    | split

theorem kept_enterMoved (h : Kept κ s₀ s) (hκ : Off κ [.mem, .regs, .rse, .pge, .mzt, .cores, .sch, .phs, .fab, .xfr, .syn, .hcp, .evt, .out]) (w : Work) (epoch : ℕ) :
    Kept κ s₀ (State.enterMoved s w epoch) := by
  unfold State.enterMoved
  try dsimp only
  repeat' first
    | with_reducible assumption
    | exact hκ.sub (by decide)
    | with_reducible apply kept_putWork
    | with_reducible apply kept_dealLost
    | with_reducible intro _ _ _ _
    | with_reducible intro _ _ _
    | with_reducible intro _ _
    | split

theorem kept_execMvCommitted (h : Kept κ s₀ s) (hκ : Off κ [.mem, .regs, .rse, .pge, .mzt, .cores, .sch, .phs, .fab, .xfr, .syn, .hcp, .evt, .out]) (src : ℕ) (id : ℕ) (epoch : ℕ) (owner : ℕ) :
    OutKept κ s₀ (execMvCommitted src id epoch owner s) := by
  unfold execMvCommitted
  try dsimp only
  repeat' first
    | with_reducible assumption
    | exact hκ.sub (by decide)
    | with_reducible apply kept_takeMsg
    | with_reducible apply kept_enterMoved
    | with_reducible apply kept_releaseSource
    | with_reducible apply kept_checkCopy
    | with_reducible apply kept_overtaken
    | with_reducible apply OutKept.next
    | with_reducible intro _ _ _ _
    | with_reducible intro _ _ _
    | with_reducible intro _ _
    | split

theorem kept_execMvAborted (h : Kept κ s₀ s) (hκ : Off κ [.mem, .regs, .rse, .pge, .mzt, .cores, .sch, .phs, .fab, .xfr, .syn, .hcp, .evt, .out]) (src : ℕ) (id : ℕ) (epoch : ℕ) (status : St) :
    OutKept κ s₀ (execMvAborted src id epoch status s) := by
  unfold execMvAborted
  try dsimp only
  repeat' first
    | with_reducible assumption
    | exact hκ.sub (by decide)
    | with_reducible apply kept_takeMsg
    | with_reducible apply kept_answerOrigin
    | with_reducible apply kept_discardCopy
    | with_reducible apply kept_endOwned
    | with_reducible apply kept_returnPrior
    | with_reducible apply kept_sendMsg
    | with_reducible apply kept_meet
    | with_reducible apply kept_bump
    | with_reducible apply OutKept.next
    | with_reducible intro _ _ _ _
    | with_reducible intro _ _ _
    | with_reducible intro _ _
    | split

theorem kept_execMvPrepare (h : Kept κ s₀ s) (hκ : Off κ [.mem, .regs, .rse, .pge, .mzt, .cores, .sch, .phs, .fab, .xfr, .syn, .hcp, .evt, .out]) (src : ℕ) (m : CopyMsg) :
    OutKept κ s₀ (execMvPrepare src m s) := by
  unfold execMvPrepare
  try dsimp only
  repeat' first
    | with_reducible assumption
    | exact hκ.sub (by decide)
    | with_reducible apply kept_admitCopy
    | with_reducible apply kept_takeMsg
    | with_reducible apply kept_putWork
    | with_reducible apply kept_reserve
    | with_reducible apply kept_installRefs
    | with_reducible apply kept_postDevice
    | with_reducible apply kept_sendFrees
    | with_reducible apply kept_post
    | with_reducible apply OutKept.next
    | with_reducible intro _ _ _ _
    | with_reducible intro _ _ _
    | with_reducible intro _ _
    | split
    | dsimp only [itself]
    | refine Kept.of_snd ?_ (by with_reducible assumption)
    | refine Kept.of_fst ?_ (by with_reducible assumption)
    | refine ExcKept.get_error (f := itself) (g := itself) ?_ (by with_reducible assumption)
    | refine ExcKept.get_ok (f := itself) (g := itself) ?_ (by with_reducible assumption)

theorem kept_execPullComplete (h : Kept κ s₀ s) (hκ : Off κ [.mem, .regs, .rse, .pge, .mzt, .cores, .sch, .phs, .fab, .xfr, .syn, .hcp, .evt, .out]) (id : ℕ) :
    OutKept κ s₀ (execPullComplete id s) := by
  unfold execPullComplete
  try dsimp only
  repeat' first
    | with_reducible assumption
    | exact hκ.sub (by decide)
    | with_reducible apply kept_sendMsg
    | with_reducible apply kept_checkCopy
    | with_reducible apply OutKept.next
    | with_reducible intro _ _ _ _
    | with_reducible intro _ _ _
    | with_reducible intro _ _
    | split

theorem kept_execPullReadFailed (h : Kept κ s₀ s) (hκ : Off κ [.mem, .regs, .rse, .pge, .mzt, .cores, .sch, .phs, .fab, .xfr, .syn, .hcp, .evt, .out]) (id : ℕ) (tag : ℕ) (status : St) :
    OutKept κ s₀ (execPullReadFailed id tag status s) := by
  unfold execPullReadFailed
  try dsimp only
  repeat' first
    | with_reducible assumption
    | exact hκ.sub (by decide)
    | with_reducible apply kept_sendMsg
    | with_reducible apply kept_discardCopy
    | with_reducible apply kept_heldResume
    | with_reducible apply kept_checkCopy
    | with_reducible apply OutKept.next
    | with_reducible intro _ _ _ _
    | with_reducible intro _ _ _
    | with_reducible intro _ _
    | split

theorem kept_execMvAbort (h : Kept κ s₀ s) (hκ : Off κ [.mem, .regs, .rse, .pge, .mzt, .cores, .sch, .phs, .fab, .xfr, .syn, .hcp, .evt, .out]) (src : ℕ) (id : ℕ) (epoch : ℕ) :
    OutKept κ s₀ (execMvAbort src id epoch s) := by
  unfold execMvAbort
  try dsimp only
  repeat' first
    | with_reducible assumption
    | exact hκ.sub (by decide)
    | with_reducible apply kept_takeMsg
    | with_reducible apply kept_discardCopy
    | with_reducible apply kept_meet
    | with_reducible apply kept_heldResume
    | with_reducible apply OutKept.next
    | with_reducible intro _ _ _ _
    | with_reducible intro _ _ _
    | with_reducible intro _ _
    | split

theorem kept_execOwnReply (h : Kept κ s₀ s) (hκ : Off κ [.mem, .regs, .rse, .pge, .mzt, .cores, .sch, .phs, .fab, .xfr, .syn, .hcp, .evt, .out]) (src : ℕ) (id : ℕ) (epoch : ℕ) (owner : ℕ) :
    OutKept κ s₀ (execOwnReply src id epoch owner s) := by
  unfold execOwnReply
  try dsimp only
  repeat' first
    | with_reducible assumption
    | exact hκ.sub (by decide)
    | with_reducible apply kept_takeMsg
    | with_reducible apply kept_enterPlaced
    | with_reducible apply kept_discardCopy
    | with_reducible apply kept_enterMoved
    | with_reducible apply kept_sendMsg
    | with_reducible apply kept_returnPrior
    | with_reducible apply kept_answerOrigin
    | with_reducible apply kept_putWork
    | with_reducible apply kept_releaseSource
    | with_reducible apply kept_checkCopy
    | with_reducible apply kept_heldResume
    | with_reducible apply OutKept.next
    | with_reducible intro _ _ _ _
    | with_reducible intro _ _ _
    | with_reducible intro _ _
    | split

theorem kept_ownedFor (h : Kept κ s₀ s) (hκ : Off κ [.mem, .regs, .rse, .pge, .mzt, .cores, .sch, .phs, .fab, .xfr, .syn, .hcp, .evt, .out]) (src : ℕ) (id : ℕ) (epoch : ℕ) (kind : FwdKind) :
    ErrKept κ s₀ (State.ownedFor s src id epoch kind) := by
  unfold State.ownedFor
  try dsimp only
  repeat' first
    | with_reducible assumption
    | exact hκ.sub (by decide)
    | with_reducible apply kept_sendMsg
    | with_reducible apply kept_discardCopy
    | with_reducible apply kept_checkCopy
    | with_reducible apply ExcKept.error
    | with_reducible apply ExcKept.ok
    | with_reducible apply ErrKept.error
    | with_reducible apply ErrKept.ok
    | with_reducible intro _ _ _ _
    | with_reducible intro _ _ _
    | with_reducible intro _ _
    | split

theorem kept_execCancelFwd (h : Kept κ s₀ s) (hκ : Off κ [.mem, .regs, .rse, .pge, .mzt, .cores, .sch, .phs, .fab, .xfr, .syn, .hcp, .evt, .out]) (src : ℕ) (id : ℕ) (epoch : ℕ) :
    OutKept κ s₀ (execCancelFwd src id epoch s) := by
  unfold execCancelFwd
  try dsimp only
  repeat' first
    | with_reducible assumption
    | exact hκ.sub (by decide)
    | with_reducible apply kept_takeMsg
    | with_reducible apply kept_ownedFor
    | with_reducible apply kept_putWork
    | with_reducible apply kept_endOwned
    | with_reducible apply OutKept.next
    | with_reducible intro _ _ _ _
    | with_reducible intro _ _ _
    | with_reducible intro _ _
    | split
    | dsimp only [itself]
    | refine ErrKept.get ?_ (by with_reducible assumption)

theorem kept_askHandback (h : Kept κ s₀ s) (hκ : Off κ [.regs, .rse, .fab, .hcp, .out]) (w : Work) (p : PauseReq) :
    Kept κ s₀ (State.askHandback s w p).1 := by
  unfold State.askHandback
  try dsimp only
  repeat' first
    | with_reducible assumption
    | exact hκ.sub (by decide)
    | with_reducible apply kept_answerOrigin
    | with_reducible intro _ _ _ _
    | with_reducible intro _ _ _
    | with_reducible intro _ _
    | split

theorem kept_execFwdPause (h : Kept κ s₀ s) (hκ : Off κ [.mem, .regs, .rse, .pge, .mzt, .cores, .sch, .phs, .fab, .xfr, .syn, .hcp, .evt, .out]) (src : ℕ) (id : ℕ) (epoch : ℕ) (p : PauseReq) :
    OutKept κ s₀ (execFwdPause src id epoch p s) := by
  unfold execFwdPause
  try dsimp only
  repeat' first
    | with_reducible assumption
    | exact hκ.sub (by decide)
    | with_reducible apply kept_takeMsg
    | with_reducible apply kept_ownedFor
    | with_reducible apply kept_putWork
    | with_reducible apply kept_askHandback
    | with_reducible apply OutKept.next
    | with_reducible intro _ _ _ _
    | with_reducible intro _ _ _
    | with_reducible intro _ _
    | split
    | dsimp only [itself]
    | refine Kept.of_fst ?_ (by with_reducible assumption)
    | refine ErrKept.get ?_ (by with_reducible assumption)

theorem kept_execFwdMove (h : Kept κ s₀ s) (hκ : Off κ [.mem, .regs, .rse, .pge, .mzt, .cores, .sch, .phs, .fab, .xfr, .syn, .hcp, .evt, .out]) (src : ℕ) (id : ℕ) (epoch : ℕ) (dest : ℕ) (reply : ReplyTo) :
    OutKept κ s₀ (execFwdMove src id epoch dest reply s) := by
  unfold execFwdMove
  try dsimp only
  repeat' first
    | with_reducible assumption
    | exact hκ.sub (by decide)
    | with_reducible apply kept_takeMsg
    | with_reducible apply kept_ownedFor
    | with_reducible apply kept_putWork
    | with_reducible apply kept_tellHost
    | with_reducible apply OutKept.next
    | with_reducible intro _ _ _ _
    | with_reducible intro _ _ _
    | with_reducible intro _ _
    | split
    | dsimp only [itself]
    | refine ErrKept.get ?_ (by with_reducible assumption)

end Sys2Proof.Machine
end

