-- ==== Sys2Proof/Laws/KeptStore.lean ====
section
/-! SUPPORT. What the operations of Machine/Store.lean keep (see Laws/Kept.lean). -/

namespace Sys2Proof.Machine

variable {κ : Part → Bool} {s₀ s : State}

theorem kept_expStatus (h : Kept κ s₀ s) (hκ : Off κ [.regs]) (op : ℕ) (ctx : ℕ) (id : ℕ) (st : St) :
    Kept κ s₀ (State.expStatus s op ctx id st) := by
  unfold State.expStatus
  try dsimp only
  repeat' first
    | with_reducible assumption
    | exact hκ.sub (by decide)
    | with_reducible apply kept_setRegs
    | with_reducible apply kept_setReg
    | with_reducible intro _ _ _ _
    | with_reducible intro _ _ _
    | with_reducible intro _ _
    | split

theorem kept_freeTables (h : Kept κ s₀ s) (hκ : Off κ [.regs, .exp, .fab, .hcp, .evt, .out])  :
    Kept κ s₀ (State.freeTables s) := by
  unfold State.freeTables
  try dsimp only
  repeat' first
    | with_reducible assumption
    | exact hκ.sub (by decide)
    | with_reducible apply kept_onExp
    | with_reducible apply kept_post
    | with_reducible apply kept_foldl
    | with_reducible intro _ _ _ _
    | with_reducible intro _ _ _
    | with_reducible intro _ _
    | split

theorem kept_freeDsets (h : Kept κ s₀ s) (hκ : Off κ [.regs, .exp, .fab, .hcp, .evt, .out])  :
    Kept κ s₀ (State.freeDsets s) := by
  unfold State.freeDsets
  try dsimp only
  repeat' first
    | with_reducible assumption
    | exact hκ.sub (by decide)
    | with_reducible apply kept_onExp
    | with_reducible apply kept_post
    | with_reducible apply kept_foldl
    | with_reducible intro _ _ _ _
    | with_reducible intro _ _ _
    | with_reducible intro _ _
    | split

theorem kept_releaseBinds (h : Kept κ s₀ s) (hκ : Off κ [.regs, .exp, .fab, .hcp, .evt, .out]) (c : ℕ) :
    Kept κ s₀ (State.releaseBinds s c) := by
  unfold State.releaseBinds
  try dsimp only
  repeat' first
    | with_reducible assumption
    | exact hκ.sub (by decide)
    | with_reducible apply kept_freeDsets
    | with_reducible apply kept_freeTables
    | with_reducible apply kept_onExp
    | with_reducible intro _ _ _ _
    | with_reducible intro _ _ _
    | with_reducible intro _ _
    | split

theorem kept_tableLoad (h : Kept κ s₀ s) (hκ : Off κ [.regs, .exp]) (id : ℕ) :
    Kept κ s₀ (State.tableLoad s id).1 := by
  unfold State.tableLoad
  try dsimp only
  repeat' first
    | with_reducible assumption
    | exact hκ.sub (by decide)
    | with_reducible apply kept_expStatus
    | with_reducible apply kept_onExp
    | with_reducible apply kept_setRegs
    | with_reducible intro _ _ _ _
    | with_reducible intro _ _ _
    | with_reducible intro _ _
    | split

theorem kept_execTableLoad (h : Kept κ s₀ s) (hκ : Off κ [.regs, .exp]) (id : ℕ) :
    OutKept κ s₀ (execTableLoad id s) := by
  unfold execTableLoad
  try dsimp only
  repeat' first
    | with_reducible assumption
    | exact hκ.sub (by decide)
    | with_reducible apply kept_tableLoad
    | with_reducible apply OutKept.next
    | with_reducible intro _ _ _ _
    | with_reducible intro _ _ _
    | with_reducible intro _ _
    | split
    | dsimp only [itself]
    | refine Kept.of_fst ?_ (by with_reducible assumption)

theorem kept_execTableInvalidateDone (h : Kept κ s₀ s) (hκ : Off κ [.regs, .exp])  :
    OutKept κ s₀ (execTableInvalidateDone s) := by
  unfold execTableInvalidateDone
  try dsimp only
  repeat' first
    | with_reducible assumption
    | exact hκ.sub (by decide)
    | with_reducible apply kept_onExp
    | with_reducible apply kept_expStatus
    | with_reducible apply kept_setReg
    | with_reducible apply OutKept.next
    | with_reducible intro _ _ _ _
    | with_reducible intro _ _ _
    | with_reducible intro _ _
    | split

theorem kept_tableDrop (h : Kept κ s₀ s) (hκ : Off κ [.regs, .exp, .fab, .hcp, .evt, .out]) (id : ℕ) :
    Kept κ s₀ (State.tableDrop s id).1 := by
  unfold State.tableDrop
  try dsimp only
  repeat' first
    | with_reducible assumption
    | exact hκ.sub (by decide)
    | with_reducible apply kept_expStatus
    | with_reducible apply kept_onExp
    | with_reducible apply kept_freeTables
    | with_reducible intro _ _ _ _
    | with_reducible intro _ _ _
    | with_reducible intro _ _
    | split

theorem kept_execTableDrop (h : Kept κ s₀ s) (hκ : Off κ [.regs, .exp, .fab, .hcp, .evt, .out]) (id : ℕ) :
    OutKept κ s₀ (execTableDrop id s) := by
  unfold execTableDrop
  try dsimp only
  repeat' first
    | with_reducible assumption
    | exact hκ.sub (by decide)
    | with_reducible apply kept_tableDrop
    | with_reducible apply OutKept.next
    | with_reducible intro _ _ _ _
    | with_reducible intro _ _ _
    | with_reducible intro _ _
    | split
    | dsimp only [itself]
    | refine Kept.of_fst ?_ (by with_reducible assumption)

theorem kept_dsetLoad (h : Kept κ s₀ s) (hκ : Off κ [.regs, .exp]) (k : ℕ) :
    Kept κ s₀ (State.dsetLoad s k).1 := by
  unfold State.dsetLoad
  try dsimp only
  repeat' first
    | with_reducible assumption
    | exact hκ.sub (by decide)
    | with_reducible apply kept_setRegs
    | with_reducible apply kept_onExp
    | with_reducible apply kept_expStatus
    | with_reducible intro _ _ _ _
    | with_reducible intro _ _ _
    | with_reducible intro _ _
    | split

theorem kept_execDsetLoad (h : Kept κ s₀ s) (hκ : Off κ [.regs, .exp]) (slot : ℕ) :
    OutKept κ s₀ (execDsetLoad slot s) := by
  unfold execDsetLoad
  try dsimp only
  repeat' first
    | with_reducible assumption
    | exact hκ.sub (by decide)
    | with_reducible apply kept_dsetLoad
    | with_reducible apply OutKept.next
    | with_reducible intro _ _ _ _
    | with_reducible intro _ _ _
    | with_reducible intro _ _
    | split
    | dsimp only [itself]
    | refine Kept.of_fst ?_ (by with_reducible assumption)

theorem kept_execDsetLoadReadDone (h : Kept κ s₀ s) (hκ : Off κ [.regs, .exp])  :
    OutKept κ s₀ (execDsetLoadReadDone s) := by
  unfold execDsetLoadReadDone
  try dsimp only
  repeat' first
    | with_reducible assumption
    | exact hκ.sub (by decide)
    | with_reducible apply kept_setReg
    | with_reducible apply kept_onExp
    | with_reducible apply kept_expStatus
    | with_reducible apply OutKept.next
    | with_reducible intro _ _ _ _
    | with_reducible intro _ _ _
    | with_reducible intro _ _
    | split

theorem kept_dsetDrop (h : Kept κ s₀ s) (hκ : Off κ [.regs, .exp, .fab, .hcp, .evt, .out]) (k : ℕ) :
    Kept κ s₀ (State.dsetDrop s k).1 := by
  unfold State.dsetDrop
  try dsimp only
  repeat' first
    | with_reducible assumption
    | exact hκ.sub (by decide)
    | with_reducible apply kept_expStatus
    | with_reducible apply kept_onExp
    | with_reducible apply kept_freeDsets
    | with_reducible intro _ _ _ _
    | with_reducible intro _ _ _
    | with_reducible intro _ _
    | split

theorem kept_execDsetDrop (h : Kept κ s₀ s) (hκ : Off κ [.regs, .exp, .fab, .hcp, .evt, .out]) (slot : ℕ) :
    OutKept κ s₀ (execDsetDrop slot s) := by
  unfold execDsetDrop
  try dsimp only
  repeat' first
    | with_reducible assumption
    | exact hκ.sub (by decide)
    | with_reducible apply kept_dsetDrop
    | with_reducible apply OutKept.next
    | with_reducible intro _ _ _ _
    | with_reducible intro _ _ _
    | with_reducible intro _ _
    | split
    | dsimp only [itself]
    | refine Kept.of_fst ?_ (by with_reducible assumption)

theorem kept_bindStored (h : Kept κ s₀ s) (hκ : Off κ [.regs, .exp]) (c : ℕ) :
    Kept κ s₀ (State.bindStored s c).1 := by
  unfold State.bindStored
  try dsimp only
  repeat' first
    | with_reducible assumption
    | exact hκ.sub (by decide)
    | with_reducible apply kept_expStatus
    | with_reducible apply kept_onExp
    | with_reducible intro _ _ _ _
    | with_reducible intro _ _ _
    | with_reducible intro _ _
    | split

theorem kept_bindTable (h : Kept κ s₀ s) (hκ : Off κ [.regs, .exp]) (c : ℕ) (id : ℕ) :
    Kept κ s₀ (State.bindTable s c id).1 := by
  unfold State.bindTable
  try dsimp only
  repeat' first
    | with_reducible assumption
    | exact hκ.sub (by decide)
    | with_reducible apply kept_expStatus
    | with_reducible apply kept_onExp
    | with_reducible apply kept_bindStored
    | with_reducible intro _ _ _ _
    | with_reducible intro _ _ _
    | with_reducible intro _ _
    | split
    | dsimp only [itself]
    | refine Kept.of_fst ?_ (by with_reducible assumption)

theorem kept_execBindTable (h : Kept κ s₀ s) (hκ : Off κ [.regs, .exp]) (ctx : ℕ) (id : ℕ) :
    OutKept κ s₀ (execBindTable ctx id s) := by
  unfold execBindTable
  try dsimp only
  repeat' first
    | with_reducible assumption
    | exact hκ.sub (by decide)
    | with_reducible apply kept_bindTable
    | with_reducible apply OutKept.next
    | with_reducible intro _ _ _ _
    | with_reducible intro _ _ _
    | with_reducible intro _ _
    | split
    | dsimp only [itself]
    | refine Kept.of_fst ?_ (by with_reducible assumption)

theorem kept_bindDset (h : Kept κ s₀ s) (hκ : Off κ [.regs, .exp]) (c : ℕ) (k : ℕ) :
    Kept κ s₀ (State.bindDset s c k).1 := by
  unfold State.bindDset
  try dsimp only
  repeat' first
    | with_reducible assumption
    | exact hκ.sub (by decide)
    | with_reducible apply kept_expStatus
    | with_reducible apply kept_onExp
    | with_reducible intro _ _ _ _
    | with_reducible intro _ _ _
    | with_reducible intro _ _
    | split

theorem kept_execBindDset (h : Kept κ s₀ s) (hκ : Off κ [.regs, .exp]) (ctx : ℕ) (slot : ℕ) :
    OutKept κ s₀ (execBindDset ctx slot s) := by
  unfold execBindDset
  try dsimp only
  repeat' first
    | with_reducible assumption
    | exact hκ.sub (by decide)
    | with_reducible apply kept_bindDset
    | with_reducible apply OutKept.next
    | with_reducible intro _ _ _ _
    | with_reducible intro _ _ _
    | with_reducible intro _ _
    | split
    | dsimp only [itself]
    | refine Kept.of_fst ?_ (by with_reducible assumption)

theorem kept_expAddrWrite (h : Kept κ s₀ s) (hκ : Off κ [.regs]) (value : ℕ) :
    Kept κ s₀ (State.expAddrWrite s value).1 := by
  unfold State.expAddrWrite
  try dsimp only
  repeat' first
    | with_reducible assumption
    | exact hκ.sub (by decide)
    | with_reducible apply kept_writeRw
    | with_reducible intro _ _ _ _
    | with_reducible intro _ _ _
    | with_reducible intro _ _
    | split

theorem kept_execExpCmdAddrWrite (h : Kept κ s₀ s) (hκ : Off κ [.regs]) (value : ℕ) :
    OutKept κ s₀ (execExpCmdAddrWrite value s) := by
  unfold execExpCmdAddrWrite
  try dsimp only
  repeat' first
    | with_reducible assumption
    | exact hκ.sub (by decide)
    | with_reducible apply kept_expAddrWrite
    | with_reducible apply OutKept.next
    | with_reducible intro _ _ _ _
    | with_reducible intro _ _ _
    | with_reducible intro _ _
    | split
    | dsimp only [itself]
    | refine Kept.of_fst ?_ (by with_reducible assumption)

theorem kept_expCmdWrite (h : Kept κ s₀ s) (hκ : Off κ [.regs, .exp, .fab, .hcp, .evt, .out]) (value : ℕ) :
    Kept κ s₀ (State.expCmdWrite s value).1 := by
  unfold State.expCmdWrite
  try dsimp only
  repeat' first
    | with_reducible assumption
    | exact hκ.sub (by decide)
    | with_reducible apply kept_writeRw
    | with_reducible apply kept_setReg
    | with_reducible apply kept_tableLoad
    | with_reducible apply kept_tableDrop
    | with_reducible apply kept_dsetLoad
    | with_reducible apply kept_dsetDrop
    | with_reducible apply kept_bindTable
    | with_reducible apply kept_bindDset
    | with_reducible intro _ _ _ _
    | with_reducible intro _ _ _
    | with_reducible intro _ _
    | split
    | dsimp only [itself]
    | refine Kept.of_fst ?_ (by with_reducible assumption)

end Sys2Proof.Machine
end

