-- ==== Sys2Proof/Laws/KeptIssue.lean ====
section
/-! SUPPORT. What the operations of Machine/Issue.lean keep (see Laws/Kept.lean). -/

namespace Sys2Proof.Machine

variable {κ : Part → Bool} {s₀ s : State}

theorem kept_arith (h : Kept κ s₀ s) (hκ : Off κ [.regs]) (n : ℕ) (f : ArithFlags) :
    Kept κ s₀ (State.arith s n f) := by
  unfold State.arith
  try dsimp only
  repeat' first
    | with_reducible assumption
    | exact hκ.sub (by decide)
    | with_reducible apply kept_setReg
    | with_reducible intro _ _ _ _
    | with_reducible intro _ _ _
    | with_reducible intro _ _
    | split

theorem kept_takeSquash (h : Kept κ s₀ s) (hκ : Off κ [.regs, .mzt, .cores, .fab]) (c : Core) :
    Kept κ s₀ (State.takeSquash s c) := by
  unfold State.takeSquash
  try dsimp only
  repeat' first
    | with_reducible assumption
    | exact hκ.sub (by decide)
    | with_reducible apply kept_stopCore
    | with_reducible intro _ _ _ _
    | with_reducible intro _ _ _
    | with_reducible intro _ _
    | split

theorem kept_issue (h : Kept κ s₀ s) (hκ : Off κ [.regs, .mzt, .cores, .sch, .phs, .fab, .hcp, .evt, .out]) (n : ℕ) (o : Opc) (f : State → Core → Sys2Proof.Word128 → State) (hf : ∀ u c w, Kept κ s₀ u → Kept κ s₀ (f u c w)) :
    Kept κ s₀ (State.issue s n o f) := by
  unfold State.issue
  try dsimp only
  repeat' first
    | with_reducible assumption
    | exact hκ.sub (by decide)
    | with_reducible apply kept_takeSquash
    | with_reducible apply kept_coreFault
    | with_reducible apply kept_putCore
    | with_reducible intro _ _ _ _
    | with_reducible intro _ _ _
    | with_reducible intro _ _
    | split
    | with_reducible apply hf

theorem kept_instrFault (h : Kept κ s₀ s) (hκ : Off κ [.regs, .mzt, .cores, .sch, .phs, .fab, .hcp, .evt, .out]) (c : Core) (o : Opc) (st : St) :
    Kept κ s₀ (State.instrFault s c o st) := by
  unfold State.instrFault
  try dsimp only
  repeat' first
    | with_reducible assumption
    | exact hκ.sub (by decide)
    | with_reducible apply kept_coreFault
    | with_reducible intro _ _ _ _
    | with_reducible intro _ _ _
    | with_reducible intro _ _
    | split

theorem kept_obWrite (h : Kept κ s₀ s) (hκ : Off κ [.mem]) (n : ℕ) (w : ObWrite) :
    Kept κ s₀ (State.obWrite s n w) := by
  unfold State.obWrite
  try dsimp only
  repeat' first
    | with_reducible assumption
    | exact hκ.sub (by decide)
    | with_reducible apply kept_wr
    | with_reducible intro _ _ _ _
    | with_reducible intro _ _ _
    | with_reducible intro _ _
    | split

theorem kept_notYet (h : Kept κ s₀ s) (hκ : Off κ [.cores]) (c : Core) :
    Kept κ s₀ (State.notYet s c) := by
  unfold State.notYet
  try dsimp only
  repeat' first
    | with_reducible assumption
    | exact hκ.sub (by decide)
    | with_reducible apply kept_putCore
    | with_reducible intro _ _ _ _
    | with_reducible intro _ _ _
    | with_reducible intro _ _
    | split

theorem kept_held (h : Kept κ s₀ s) (hκ : Off κ [.regs, .mzt, .cores, .sch, .phs, .fab, .hcp, .evt, .out]) (c : Core) (o : Opc) (rs : List (ℕ × ℕ)) (ws : List (ℕ × ℕ)) :
    OptKept κ s₀ itself (State.held s c o rs ws) := by
  unfold State.held
  try dsimp only
  repeat' first
    | with_reducible assumption
    | exact hκ.sub (by decide)
    | with_reducible apply kept_instrFault
    | with_reducible apply kept_notYet
    | exact OptKept.none
    | with_reducible apply OptKept.some
    | refine OptKept.map fun _ _ => ?_
    | with_reducible intro _ _ _ _
    | with_reducible intro _ _ _
    | with_reducible intro _ _
    | split

theorem kept_calcDone (h : Kept κ s₀ s) (hκ : Off κ [.regs, .cores]) (c : Core) (k : CalcSt) :
    Kept κ s₀ (State.calcDone s c k) := by
  unfold State.calcDone
  try dsimp only
  repeat' first
    | with_reducible assumption
    | exact hκ.sub (by decide)
    | with_reducible apply kept_arith
    | with_reducible apply kept_putCore
    | with_reducible apply kept_setFresh
    | with_reducible intro _ _ _ _
    | with_reducible intro _ _ _
    | with_reducible intro _ _
    | split

theorem kept_sendAccess (h : Kept κ s₀ s) (hκ : Off κ [.regs, .rse, .cores, .fab, .syn, .hcp, .evt, .out]) (c : Core) (done : ℕ) (kind : RemoteKind) (k : ℕ × ℕ) (addr : ℕ) (len : ℕ) (dest : ℕ) (poison : Bool) (body : OpHdr → Body) :
    Kept κ s₀ (State.sendAccess s c done kind k addr len dest poison body) := by
  unfold State.sendAccess
  try dsimp only
  repeat' first
    | with_reducible assumption
    | exact hκ.sub (by decide)
    | with_reducible apply kept_addRemote
    | with_reducible apply kept_injectOr
    | with_reducible intro _ _ _ _
    | with_reducible intro _ _ _
    | with_reducible intro _ _
    | split

theorem kept_loadPiece (h : Kept κ s₀ s) (hκ : Off κ [.mem]) (c : Core) (addr : ℕ) (ob : ℕ) (p : ℕ × ℕ) :
    Kept κ s₀ (State.loadPiece s c addr ob p) := by
  unfold State.loadPiece
  try dsimp only
  repeat' first
    | with_reducible assumption
    | exact hκ.sub (by decide)
    | with_reducible apply kept_copyMem
    | with_reducible apply kept_poison
    | with_reducible intro _ _ _ _
    | with_reducible intro _ _ _
    | with_reducible intro _ _
    | split

theorem kept_storePiece (h : Kept κ s₀ s) (hκ : Off κ [.mem]) (c : Core) (addr : ℕ) (ob : ℕ) (p : ℕ × ℕ) :
    Kept κ s₀ (State.storePiece s c addr ob p) := by
  unfold State.storePiece
  try dsimp only
  repeat' first
    | with_reducible assumption
    | exact hκ.sub (by decide)
    | with_reducible apply kept_copyMem
    | with_reducible intro _ _ _ _
    | with_reducible intro _ _ _
    | with_reducible intro _ _
    | split

theorem kept_storeSend (h : Kept κ s₀ s) (hκ : Off κ [.regs, .rse, .cores, .fab, .syn, .hcp, .evt, .out]) (c : Core) (done : ℕ) (k : ℕ × ℕ) (addr : ℕ) (ob : ℕ) (p : ℕ × ℕ) :
    Kept κ s₀ (State.storeSend s c done k addr ob p) := by
  unfold State.storeSend
  try dsimp only
  repeat' first
    | with_reducible assumption
    | exact hκ.sub (by decide)
    | with_reducible apply kept_sendAccess
    | with_reducible intro _ _ _ _
    | with_reducible intro _ _ _
    | with_reducible intro _ _
    | split

theorem kept_faultIds (h : Kept κ s₀ s) (n : ℕ) (off : ℕ) :
    Kept κ s₀ (State.faultIds s n off).2 := by
  unfold State.faultIds
  try dsimp only
  repeat' first
    | with_reducible assumption
    | with_reducible apply kept_setFresh
    | with_reducible intro _ _ _ _
    | with_reducible intro _ _ _
    | with_reducible intro _ _
    | split

theorem kept_expandFault (h : Kept κ s₀ s) (hκ : Off κ [.regs, .mzt, .cores, .sch, .phs, .fab, .hcp, .evt, .out]) (c : Core) (off : ℕ) (e : BlockFault) :
    Kept κ s₀ (State.expandFault s c off e) := by
  unfold State.expandFault
  try dsimp only
  repeat' first
    | with_reducible assumption
    | exact hκ.sub (by decide)
    | with_reducible apply kept_setRegs
    | with_reducible apply kept_bump
    | with_reducible apply kept_post
    | with_reducible apply kept_instrFault
    | with_reducible apply kept_faultIds
    | with_reducible intro _ _ _ _
    | with_reducible intro _ _ _
    | with_reducible intro _ _
    | split
    | dsimp only [itself]
    | refine Kept.of_snd ?_ (by with_reducible assumption)

theorem kept_loadOne (h : Kept κ s₀ s) (hκ : Off κ [.mem, .regs, .rse, .cores, .fab, .syn, .hcp, .evt, .out]) (c : Core) (done : ℕ) (k : ℕ × ℕ) (addr : ℕ) (ob : ℕ) (p : ℕ × ℕ) :
    Kept κ s₀ (State.loadOne s c done k addr ob p) := by
  unfold State.loadOne
  try dsimp only
  repeat' first
    | with_reducible assumption
    | exact hκ.sub (by decide)
    | with_reducible apply kept_loadPiece
    | with_reducible apply kept_poison
    | with_reducible apply kept_sendAccess
    | with_reducible intro _ _ _ _
    | with_reducible intro _ _ _
    | with_reducible intro _ _
    | split

theorem kept_storeOne (h : Kept κ s₀ s) (hκ : Off κ [.mem, .regs, .rse, .cores, .fab, .syn, .hcp, .evt, .out]) (c : Core) (done : ℕ) (k : ℕ × ℕ) (addr : ℕ) (ob : ℕ) (p : ℕ × ℕ) :
    Kept κ s₀ (State.storeOne s c done k addr ob p) := by
  unfold State.storeOne
  try dsimp only
  repeat' first
    | with_reducible assumption
    | exact hκ.sub (by decide)
    | with_reducible apply kept_storePiece
    | with_reducible apply kept_storeSend
    | with_reducible intro _ _ _ _
    | with_reducible intro _ _ _
    | with_reducible intro _ _
    | split

theorem kept_opDone (h : Kept κ s₀ s) (hκ : Off κ [.mem, .regs, .rse, .mzt, .cores, .sch, .phs, .fab, .syn, .hcp, .evt, .out]) (n : ℕ) (op : CoreOp) (e : OpDone) :
    Kept κ s₀ (State.opDone s n op e) := by
  unfold State.opDone
  try dsimp only
  repeat' first
    | with_reducible assumption
    | exact hκ.sub (by decide)
    | with_reducible apply kept_obWrite
    | with_reducible apply kept_loadOne
    | with_reducible apply kept_storeOne
    | with_reducible apply kept_expandFault
    | with_reducible intro _ _ _ _
    | with_reducible intro _ _ _
    | with_reducible intro _ _
    | split

theorem kept_countRows (h : Kept κ s₀ s) (hκ : Off κ [.regs]) (n : ℕ) (rows : ℕ) :
    Kept κ s₀ (State.countRows s n rows) := by
  unfold State.countRows
  try dsimp only
  repeat' first
    | with_reducible assumption
    | exact hκ.sub (by decide)
    | with_reducible apply kept_count
    | with_reducible intro _ _ _ _
    | with_reducible intro _ _ _
    | with_reducible intro _ _
    | split

theorem kept_endTileOp (h : Kept κ s₀ s) (hκ : Off κ [.mem, .regs, .rse, .mzt, .cores, .sch, .phs, .fab, .syn, .hcp, .evt, .out]) (n : ℕ) (op : CoreOp) :
    Kept κ s₀ (State.endTileOp s n op) := by
  unfold State.endTileOp
  try dsimp only
  repeat' first
    | with_reducible assumption
    | exact hκ.sub (by decide)
    | with_reducible apply kept_countRows
    | with_reducible apply kept_opDone
    | with_reducible apply kept_doneCtr
    | with_reducible apply kept_foldl
    | with_reducible intro _ _ _ _
    | with_reducible intro _ _ _
    | with_reducible intro _ _
    | split

theorem kept_pushOps (h : Kept κ s₀ s) (hκ : Off κ [.mem, .regs, .rse, .mzt, .cores, .sch, .phs, .fab, .syn, .hcp, .evt, .out]) (n : ℕ) (ops : List CoreOp) :
    Kept κ s₀ (State.pushOps s n ops) := by
  unfold State.pushOps
  try dsimp only
  repeat' first
    | with_reducible assumption
    | exact hκ.sub (by decide)
    | with_reducible apply kept_endTileOp
    | with_reducible apply kept_putCore
    | with_reducible intro _ _ _ _
    | with_reducible intro _ _ _
    | with_reducible intro _ _
    | split

theorem kept_results (h : Kept κ s₀ s) (hκ : Off κ [.mem, .regs, .rse, .mzt, .cores, .sch, .phs, .fab, .syn, .hcp, .evt, .out]) (c : Core) (reads : List (ℕ × ℕ)) (rows : ℕ) (run : Calc (List TileOp)) (more : List CoreOp) :
    Kept κ s₀ (State.results s c reads rows run more) := by
  unfold State.results
  try dsimp only
  repeat' first
    | with_reducible assumption
    | exact hκ.sub (by decide)
    | with_reducible apply kept_pushOps
    | with_reducible apply kept_calcDone
    | with_reducible intro _ _ _ _
    | with_reducible intro _ _ _
    | with_reducible intro _ _
    | split

theorem kept_compute (h : Kept κ s₀ s) (hκ : Off κ [.mem, .regs, .rse, .mzt, .cores, .sch, .phs, .fab, .syn, .hcp, .evt, .out]) (c : Core) (o : Opc) (rs : List (ℕ × ℕ)) (ws : List (ℕ × ℕ)) (run : Calc (List TileOp)) :
    Kept κ s₀ (State.compute s c o rs ws run) := by
  unfold State.compute
  try dsimp only
  repeat' first
    | with_reducible assumption
    | exact hκ.sub (by decide)
    | with_reducible apply kept_held
    | with_reducible apply kept_results
    | with_reducible intro _ _ _ _
    | with_reducible intro _ _ _
    | with_reducible intro _ _
    | split
    | dsimp only [itself]
    | refine OptKept.getD (f := itself) ?_ ?_
    | refine OptKept.get_id ?_ (by with_reducible assumption)

theorem kept_move (h : Kept κ s₀ s) (hκ : Off κ [.regs, .cores, .syn]) (c : Core) (done : ℕ) (here : Bool) (reads : List (ℕ × ℕ)) (one : State → ℕ × ℕ → State) (eff : ℕ × ℕ → OpDone) (ps : List (ℕ × ℕ))
    (hone : ∀ u x, Kept κ s₀ u → Kept κ s₀ (one u x)) : Kept κ s₀ (State.move s c done here reads one eff ps) := by
  unfold State.move
  try dsimp only
  repeat' first
    | with_reducible assumption
    | with_reducible apply hone
    | exact hκ.sub (by decide)
    | with_reducible apply kept_putCore
    | with_reducible apply kept_doneCtr
    | with_reducible apply kept_foldl
    | with_reducible intro _ _ _ _
    | with_reducible intro _ _ _
    | with_reducible intro _ _
    | split

theorem kept_deschedule (h : Kept κ s₀ s) (hκ : Off κ [.cores]) (c : Core) (w : CoreWait) (done : ℕ) :
    Kept κ s₀ (State.deschedule s c w done) := by
  unfold State.deschedule
  try dsimp only
  repeat' first
    | with_reducible assumption
    | exact hκ.sub (by decide)
    | with_reducible apply kept_putCore
    | with_reducible intro _ _ _ _
    | with_reducible intro _ _ _
    | with_reducible intro _ _
    | split

theorem kept_execRngReseed (h : Kept κ s₀ s) (hκ : Off κ [.cores]) (core : ℕ) :
    OutKept κ s₀ (execRngReseed core s) := by
  unfold execRngReseed
  try dsimp only
  repeat' first
    | with_reducible assumption
    | exact hκ.sub (by decide)
    | with_reducible apply kept_putCore
    | with_reducible apply OutKept.next
    | with_reducible intro _ _ _ _
    | with_reducible intro _ _ _
    | with_reducible intro _ _
    | split

end Sys2Proof.Machine
end

