-- ==== Sys2Proof/Laws/KeptMove.lean ====
section
/-! SUPPORT. What the operations of Machine/Move.lean keep (see Laws/Kept.lean). -/

namespace Sys2Proof.Machine

variable {κ : Part → Bool} {s₀ s : State}

theorem kept_finishCore (h : Kept κ s₀ s) (hκ : Off κ [.cores, .sch]) (n : ℕ) :
    Kept κ s₀ (State.finishCore s n) := by
  unfold State.finishCore
  try dsimp only
  repeat' first
    | with_reducible assumption
    | exact hκ.sub (by decide)
    | with_reducible apply kept_onSch
    | with_reducible apply kept_putCore
    | with_reducible intro _ _ _ _
    | with_reducible intro _ _ _
    | with_reducible intro _ _
    | split

theorem kept_settleCore (h : Kept κ s₀ s) (hκ : Off κ [.regs, .cores, .sch, .syn]) (n : ℕ) :
    Kept κ s₀ (State.settleCore s n) := by
  unfold State.settleCore
  try dsimp only
  repeat' first
    | with_reducible assumption
    | exact hκ.sub (by decide)
    | with_reducible apply kept_completeWaits
    | with_reducible apply kept_finishCore
    | with_reducible intro _ _ _ _
    | with_reducible intro _ _ _
    | with_reducible intro _ _
    | split

theorem kept_nextOp (h : Kept κ s₀ s) (hκ : Off κ [.mem, .regs, .rse, .mzt, .cores, .sch, .phs, .fab, .syn, .hcp, .evt, .out]) (n : ℕ) :
    Kept κ s₀ (State.nextOp s n) := by
  unfold State.nextOp
  try dsimp only
  repeat' first
    | with_reducible assumption
    | exact hκ.sub (by decide)
    | with_reducible apply kept_settleCore
    | with_reducible apply kept_endTileOp
    | with_reducible apply kept_putCore
    | with_reducible intro _ _ _ _
    | with_reducible intro _ _ _
    | with_reducible intro _ _
    | split

theorem kept_execTileOpBoundary (h : Kept κ s₀ s) (hκ : Off κ [.mem, .regs, .rse, .mzt, .cores, .sch, .phs, .fab, .syn, .hcp, .pcr, .evt, .out]) (core : ℕ) :
    OutKept κ s₀ (execTileOpBoundary core s) := by
  unfold execTileOpBoundary
  try dsimp only
  repeat' first
    | with_reducible assumption
    | exact hκ.sub (by decide)
    | with_reducible apply kept_onPcr
    | with_reducible apply kept_setThrottle
    | with_reducible apply kept_takeSquash
    | with_reducible apply kept_nextOp
    | with_reducible apply OutKept.next
    | with_reducible intro _ _ _ _
    | with_reducible intro _ _ _
    | with_reducible intro _ _
    | split

theorem kept_instrAnswered (h : Kept κ s₀ s) (hκ : Off κ [.regs, .cores, .sch, .syn]) (n : ℕ) (done : ℕ) (pc : ℕ) :
    Kept κ s₀ (State.instrAnswered s n done pc) := by
  unfold State.instrAnswered
  try dsimp only
  repeat' first
    | with_reducible assumption
    | exact hκ.sub (by decide)
    | with_reducible apply kept_doneCtr
    | with_reducible apply kept_settleCore
    | with_reducible intro _ _ _ _
    | with_reducible intro _ _ _
    | with_reducible intro _ _
    | split

theorem kept_load (h : Kept κ s₀ s) (hκ : Off κ [.mem, .regs, .rse, .mzt, .cores, .sch, .phs, .fab, .syn, .hcp, .evt, .out]) (c : Core) (w : Sys2Proof.Word128) :
    Kept κ s₀ (State.load s c w) := by
  unfold State.load
  try dsimp only
  repeat' first
    | with_reducible assumption
    | exact hκ.sub (by decide)
    | with_reducible apply kept_held
    | with_reducible apply kept_doneCtr
    | with_reducible apply kept_poison
    | with_reducible apply kept_move
    | with_reducible apply kept_loadOne
    | with_reducible intro _ _ _ _
    | with_reducible intro _ _ _
    | with_reducible intro _ _
    | split
    | dsimp only [itself]
    | refine OptKept.getD (f := itself) ?_ ?_
    | refine OptKept.get_id ?_ (by with_reducible assumption)

theorem kept_execInstrLoad (h : Kept κ s₀ s) (hκ : Off κ [.mem, .regs, .rse, .mzt, .cores, .sch, .phs, .fab, .syn, .hcp, .evt, .out]) (core : ℕ) :
    OutKept κ s₀ (execInstrLoad core s) := by
  unfold execInstrLoad
  try dsimp only
  repeat' first
    | with_reducible assumption
    | exact hκ.sub (by decide)
    | with_reducible apply kept_issue
    | with_reducible apply kept_load
    | with_reducible apply OutKept.next
    | with_reducible intro _ _ _ _
    | with_reducible intro _ _ _
    | with_reducible intro _ _
    | split

theorem kept_storeHeld (h : Kept κ s₀ s) (hκ : Off κ [.regs, .mzt, .cores, .sch, .phs, .fab, .hcp, .evt, .out]) (c : Core) (ob : ℕ) (len : ℕ) :
    OptKept κ s₀ itself (State.storeHeld s c ob len) := by
  unfold State.storeHeld
  try dsimp only
  repeat' first
    | with_reducible assumption
    | exact hκ.sub (by decide)
    | with_reducible apply kept_instrFault
    | with_reducible apply kept_notYet
    | exact OptKept.none
    | with_reducible apply OptKept.some
    | with_reducible intro _ _ _ _
    | with_reducible intro _ _ _
    | with_reducible intro _ _
    | split

theorem kept_store (h : Kept κ s₀ s) (hκ : Off κ [.mem, .regs, .rse, .mzt, .cores, .sch, .phs, .fab, .syn, .hcp, .evt, .out]) (c : Core) (w : Sys2Proof.Word128) :
    Kept κ s₀ (State.store s c w) := by
  unfold State.store
  try dsimp only
  repeat' first
    | with_reducible assumption
    | exact hκ.sub (by decide)
    | with_reducible apply kept_storeHeld
    | with_reducible apply kept_doneCtr
    | with_reducible apply kept_move
    | with_reducible apply kept_storeOne
    | with_reducible intro _ _ _ _
    | with_reducible intro _ _ _
    | with_reducible intro _ _
    | split
    | dsimp only [itself]
    | refine OptKept.getD (f := itself) ?_ ?_
    | refine OptKept.get_id ?_ (by with_reducible assumption)

theorem kept_execInstrStore (h : Kept κ s₀ s) (hκ : Off κ [.mem, .regs, .rse, .mzt, .cores, .sch, .phs, .fab, .syn, .hcp, .evt, .out]) (core : ℕ) :
    OutKept κ s₀ (execInstrStore core s) := by
  unfold execInstrStore
  try dsimp only
  repeat' first
    | with_reducible assumption
    | exact hκ.sub (by decide)
    | with_reducible apply kept_issue
    | with_reducible apply kept_store
    | with_reducible apply OutKept.next
    | with_reducible intro _ _ _ _
    | with_reducible intro _ _ _
    | with_reducible intro _ _
    | split

theorem kept_waitInstr (h : Kept κ s₀ s) (hκ : Off κ [.regs, .mzt, .cores, .sch, .phs, .fab, .syn, .hcp, .evt, .out]) (c : Core) (w : Sys2Proof.Word128) :
    Kept κ s₀ (State.waitInstr s c w) := by
  unfold State.waitInstr
  try dsimp only
  repeat' first
    | with_reducible assumption
    | exact hκ.sub (by decide)
    | with_reducible apply kept_instrFault
    | with_reducible apply kept_doneCtr
    | with_reducible apply kept_bump
    | with_reducible apply kept_deschedule
    | with_reducible intro _ _ _ _
    | with_reducible intro _ _ _
    | with_reducible intro _ _
    | split

theorem kept_execInstrWait (h : Kept κ s₀ s) (hκ : Off κ [.regs, .mzt, .cores, .sch, .phs, .fab, .syn, .hcp, .evt, .out]) (core : ℕ) :
    OutKept κ s₀ (execInstrWait core s) := by
  unfold execInstrWait
  try dsimp only
  repeat' first
    | with_reducible assumption
    | exact hκ.sub (by decide)
    | with_reducible apply kept_issue
    | with_reducible apply kept_waitInstr
    | with_reducible apply OutKept.next
    | with_reducible intro _ _ _ _
    | with_reducible intro _ _ _
    | with_reducible intro _ _
    | split

theorem kept_signal (h : Kept κ s₀ s) (hκ : Off κ [.regs, .rse, .mzt, .cores, .sch, .phs, .fab, .syn, .hcp, .evt, .out]) (c : Core) (w : Sys2Proof.Word128) :
    Kept κ s₀ (State.signal s c w) := by
  unfold State.signal
  try dsimp only
  repeat' first
    | with_reducible assumption
    | exact hκ.sub (by decide)
    | with_reducible apply kept_doneCtr
    | with_reducible apply kept_addCounter
    | with_reducible apply kept_instrFault
    | with_reducible apply kept_sendAccess
    | with_reducible apply kept_notYet
    | with_reducible intro _ _ _ _
    | with_reducible intro _ _ _
    | with_reducible intro _ _
    | split

theorem kept_execInstrSignal (h : Kept κ s₀ s) (hκ : Off κ [.regs, .rse, .mzt, .cores, .sch, .phs, .fab, .syn, .hcp, .evt, .out]) (core : ℕ) :
    OutKept κ s₀ (execInstrSignal core s) := by
  unfold execInstrSignal
  try dsimp only
  repeat' first
    | with_reducible assumption
    | exact hκ.sub (by decide)
    | with_reducible apply kept_issue
    | with_reducible apply kept_signal
    | with_reducible apply OutKept.next
    | with_reducible intro _ _ _ _
    | with_reducible intro _ _ _
    | with_reducible intro _ _
    | split

theorem kept_arriveInstr (h : Kept κ s₀ s) (hκ : Off κ [.regs, .rse, .mzt, .cores, .sch, .phs, .fab, .syn, .hcp, .evt, .out]) (c : Core) (w : Sys2Proof.Word128) :
    Kept κ s₀ (State.arriveInstr s c w) := by
  unfold State.arriveInstr
  try dsimp only
  repeat' first
    | with_reducible assumption
    | exact hκ.sub (by decide)
    | with_reducible apply kept_instrFault
    | with_reducible apply kept_arrive
    | with_reducible apply kept_deschedule
    | with_reducible apply kept_sendAccess
    | with_reducible apply kept_notYet
    | with_reducible intro _ _ _ _
    | with_reducible intro _ _ _
    | with_reducible intro _ _
    | split
    | dsimp only [itself]
    | refine Kept.of_fst ?_ (by with_reducible assumption)

theorem kept_execInstrArrive (h : Kept κ s₀ s) (hκ : Off κ [.regs, .rse, .mzt, .cores, .sch, .phs, .fab, .syn, .hcp, .evt, .out]) (core : ℕ) :
    OutKept κ s₀ (execInstrArrive core s) := by
  unfold execInstrArrive
  try dsimp only
  repeat' first
    | with_reducible assumption
    | exact hκ.sub (by decide)
    | with_reducible apply kept_issue
    | with_reducible apply kept_arriveInstr
    | with_reducible apply OutKept.next
    | with_reducible intro _ _ _ _
    | with_reducible intro _ _ _
    | with_reducible intro _ _
    | split

theorem kept_execInstrNop (h : Kept κ s₀ s) (hκ : Off κ [.regs, .mzt, .cores, .sch, .phs, .fab, .syn, .hcp, .evt, .out]) (core : ℕ) :
    OutKept κ s₀ (execInstrNop core s) := by
  unfold execInstrNop
  try dsimp only
  repeat' first
    | with_reducible assumption
    | exact hκ.sub (by decide)
    | with_reducible apply kept_issue
    | with_reducible apply kept_doneCtr
    | with_reducible apply OutKept.next
    | with_reducible intro _ _ _ _
    | with_reducible intro _ _ _
    | with_reducible intro _ _
    | split

theorem kept_execFence (h : Kept κ s₀ s) (hκ : Off κ [.regs, .mzt, .cores, .sch, .phs, .fab, .syn, .hcp, .evt, .out]) (core : ℕ) :
    OutKept κ s₀ (execFence core s) := by
  unfold execFence
  try dsimp only
  repeat' first
    | with_reducible assumption
    | exact hκ.sub (by decide)
    | with_reducible apply kept_issue
    | with_reducible apply kept_doneCtr
    | with_reducible apply kept_deschedule
    | with_reducible apply OutKept.next
    | with_reducible intro _ _ _ _
    | with_reducible intro _ _ _
    | with_reducible intro _ _
    | split

theorem kept_execEnd (h : Kept κ s₀ s) (hκ : Off κ [.regs, .mzt, .cores, .sch, .phs, .fab, .syn, .hcp, .evt, .out]) (core : ℕ) :
    OutKept κ s₀ (execEnd core s) := by
  unfold execEnd
  try dsimp only
  repeat' first
    | with_reducible assumption
    | exact hκ.sub (by decide)
    | with_reducible apply kept_issue
    | with_reducible apply kept_finishCore
    | with_reducible apply kept_doneCtr
    | with_reducible apply kept_deschedule
    | with_reducible apply OutKept.next
    | with_reducible intro _ _ _ _
    | with_reducible intro _ _ _
    | with_reducible intro _ _
    | split

end Sys2Proof.Machine
end

