-- ==== Sys2Proof/Laws/KeptBurin.lean ====
section
/-! SUPPORT. What the operations of Machine/Burin.lean keep (see Laws/Kept.lean). -/

namespace Sys2Proof.Machine

variable {κ : Part → Bool} {s₀ s : State}

theorem kept_dropCtx (h : Kept κ s₀ s) (hκ : Off κ [.sch]) (c : ℕ) :
    Kept κ s₀ (State.dropCtx s c) := by
  unfold State.dropCtx
  try dsimp only
  repeat' first
    | with_reducible assumption
    | exact hκ.sub (by decide)
    | with_reducible apply kept_onSch
    | with_reducible intro _ _ _ _
    | with_reducible intro _ _ _
    | with_reducible intro _ _
    | split

theorem kept_ctxCmdDone (h : Kept κ s₀ s) (hκ : Off κ [.regs, .sch]) (c : ℕ) (st : St) :
    Kept κ s₀ (State.ctxCmdDone s c st) := by
  unfold State.ctxCmdDone
  try dsimp only
  repeat' first
    | with_reducible assumption
    | exact hκ.sub (by decide)
    | with_reducible apply kept_setRegs
    | with_reducible apply kept_onSch
    | with_reducible intro _ _ _ _
    | with_reducible intro _ _ _
    | with_reducible intro _ _
    | split

theorem kept_ctxCmdRuns (h : Kept κ s₀ s) (hκ : Off κ [.regs, .sch]) (op : ℕ) (c : ℕ) :
    Kept κ s₀ (State.ctxCmdRuns s op c) := by
  unfold State.ctxCmdRuns
  try dsimp only
  repeat' first
    | with_reducible assumption
    | exact hκ.sub (by decide)
    | with_reducible apply kept_setReg
    | with_reducible apply kept_onSch
    | with_reducible intro _ _ _ _
    | with_reducible intro _ _ _
    | with_reducible intro _ _
    | split

theorem kept_loadCtx (h : Kept κ s₀ s) (hκ : Off κ [.sch]) (c : ℕ) (a : ℕ) :
    Kept κ s₀ (State.loadCtx s c a) := by
  unfold State.loadCtx
  try dsimp only
  repeat' first
    | with_reducible assumption
    | exact hκ.sub (by decide)
    | with_reducible apply kept_putCtx
    | with_reducible intro _ _ _ _
    | with_reducible intro _ _ _
    | with_reducible intro _ _
    | split

theorem kept_startCtx (h : Kept κ s₀ s) (hκ : Off κ [.sch]) (x : Ctx) :
    Kept κ s₀ (State.startCtx s x) := by
  unfold State.startCtx
  try dsimp only
  repeat' first
    | with_reducible assumption
    | exact hκ.sub (by decide)
    | with_reducible apply kept_putCtx
    | with_reducible intro _ _ _ _
    | with_reducible intro _ _ _
    | with_reducible intro _ _
    | split

theorem kept_ctxCmd (h : Kept κ s₀ s) (hκ : Off κ [.regs, .mzt, .cores, .sch, .fab]) (op : ℕ) (c : ℕ) :
    Kept κ s₀ (State.ctxCmd s op c).1 := by
  unfold State.ctxCmd
  try dsimp only
  repeat' first
    | with_reducible assumption
    | exact hκ.sub (by decide)
    | with_reducible apply kept_setRegs
    | with_reducible apply kept_setReg
    | with_reducible apply kept_ctxCmdRuns
    | with_reducible apply kept_loadCtx
    | with_reducible apply kept_startCtx
    | with_reducible apply kept_closeCtx
    | with_reducible apply kept_putCtx
    | with_reducible intro _ _ _ _
    | with_reducible intro _ _ _
    | with_reducible intro _ _
    | split

theorem kept_execCtxOpen (h : Kept κ s₀ s) (hκ : Off κ [.regs, .mzt, .cores, .sch, .fab]) (c : ℕ) :
    OutKept κ s₀ (execCtxOpen c s) := by
  unfold execCtxOpen
  try dsimp only
  repeat' first
    | with_reducible assumption
    | exact hκ.sub (by decide)
    | with_reducible apply kept_ctxCmd
    | with_reducible apply OutKept.next
    | with_reducible intro _ _ _ _
    | with_reducible intro _ _ _
    | with_reducible intro _ _
    | split
    | dsimp only [itself]
    | refine Kept.of_fst ?_ (by with_reducible assumption)

theorem kept_execCtxStart (h : Kept κ s₀ s) (hκ : Off κ [.regs, .mzt, .cores, .sch, .fab]) (c : ℕ) :
    OutKept κ s₀ (execCtxStart c s) := by
  unfold execCtxStart
  try dsimp only
  repeat' first
    | with_reducible assumption
    | exact hκ.sub (by decide)
    | with_reducible apply kept_ctxCmd
    | with_reducible apply OutKept.next
    | with_reducible intro _ _ _ _
    | with_reducible intro _ _ _
    | with_reducible intro _ _
    | split
    | dsimp only [itself]
    | refine Kept.of_fst ?_ (by with_reducible assumption)

theorem kept_execCtxClose (h : Kept κ s₀ s) (hκ : Off κ [.regs, .mzt, .cores, .sch, .fab]) (c : ℕ) :
    OutKept κ s₀ (execCtxClose c s) := by
  unfold execCtxClose
  try dsimp only
  repeat' first
    | with_reducible assumption
    | exact hκ.sub (by decide)
    | with_reducible apply kept_ctxCmd
    | with_reducible apply OutKept.next
    | with_reducible intro _ _ _ _
    | with_reducible intro _ _ _
    | with_reducible intro _ _
    | split
    | dsimp only [itself]
    | refine Kept.of_fst ?_ (by with_reducible assumption)

theorem kept_execCtxAbort (h : Kept κ s₀ s) (hκ : Off κ [.regs, .mzt, .cores, .sch, .fab]) (c : ℕ) :
    OutKept κ s₀ (execCtxAbort c s) := by
  unfold execCtxAbort
  try dsimp only
  repeat' first
    | with_reducible assumption
    | exact hκ.sub (by decide)
    | with_reducible apply kept_ctxCmd
    | with_reducible apply OutKept.next
    | with_reducible intro _ _ _ _
    | with_reducible intro _ _ _
    | with_reducible intro _ _
    | split
    | dsimp only [itself]
    | refine Kept.of_fst ?_ (by with_reducible assumption)

theorem kept_freeCtx (h : Kept κ s₀ s) (hκ : Off κ [.regs, .sch]) (c : ℕ) :
    Kept κ s₀ (State.freeCtx s c) := by
  unfold State.freeCtx
  try dsimp only
  repeat' first
    | with_reducible assumption
    | exact hκ.sub (by decide)
    | with_reducible apply kept_dropCtx
    | with_reducible apply kept_setReg
    | with_reducible intro _ _ _ _
    | with_reducible intro _ _ _
    | with_reducible intro _ _
    | split

theorem kept_openCtx (h : Kept κ s₀ s) (hκ : Off κ [.regs, .mzt, .cores, .sch, .fab, .syn]) (x : Ctx) :
    Kept κ s₀ (State.openCtx s x) := by
  unfold State.openCtx
  try dsimp only
  repeat' first
    | with_reducible assumption
    | exact hκ.sub (by decide)
    | with_reducible apply kept_ctxCmdDone
    | with_reducible apply kept_markObjects
    | with_reducible apply kept_putCtx
    | with_reducible apply kept_closeCtx
    | with_reducible apply kept_startCtx
    | with_reducible intro _ _ _ _
    | with_reducible intro _ _ _
    | with_reducible intro _ _
    | split

theorem kept_execCtxLoadingDone (h : Kept κ s₀ s) (hκ : Off κ [.regs, .mzt, .cores, .sch, .fab, .syn]) (c : ℕ) :
    OutKept κ s₀ (execCtxLoadingDone c s) := by
  unfold execCtxLoadingDone
  try dsimp only
  repeat' first
    | with_reducible assumption
    | exact hκ.sub (by decide)
    | with_reducible apply kept_ctxCmdDone
    | with_reducible apply kept_freeCtx
    | with_reducible apply kept_openCtx
    | with_reducible apply OutKept.next
    | with_reducible intro _ _ _ _
    | with_reducible intro _ _ _
    | with_reducible intro _ _
    | split

theorem kept_execCtxDrained (h : Kept κ s₀ s) (hκ : Off κ [.regs, .mzt, .cores, .sch, .fab]) (c : ℕ) :
    OutKept κ s₀ (execCtxDrained c s) := by
  unfold execCtxDrained
  try dsimp only
  repeat' first
    | with_reducible assumption
    | exact hκ.sub (by decide)
    | with_reducible apply kept_closeCtx
    | with_reducible apply OutKept.next
    | with_reducible intro _ _ _ _
    | with_reducible intro _ _ _
    | with_reducible intro _ _
    | split

theorem kept_shardResult (h : Kept κ s₀ s) (hκ : Off κ [.mem]) (d : Desc) (shard : ℕ) (res : ℕ) :
    Kept κ s₀ (State.shardResult s d shard res) := by
  unfold State.shardResult
  try dsimp only
  repeat' first
    | with_reducible assumption
    | exact hκ.sub (by decide)
    | with_reducible apply kept_wr
    | with_reducible intro _ _ _ _
    | with_reducible intro _ _ _
    | with_reducible intro _ _
    | split

theorem kept_disposeOwned (h : Kept κ s₀ s) (hκ : Off κ [.mem, .regs, .rse, .pge, .mzt, .cores, .sch, .phs, .fab, .xfr, .syn, .hcp, .evt, .out]) (x : Ctx) :
    Kept κ s₀ (State.disposeOwned s x) := by
  unfold State.disposeOwned
  try dsimp only
  repeat' first
    | with_reducible assumption
    | exact hκ.sub (by decide)
    | with_reducible apply kept_endOwned
    | with_reducible apply kept_loseStep
    | with_reducible apply kept_foldl
    | with_reducible intro _ _ _ _
    | with_reducible intro _ _ _
    | with_reducible intro _ _
    | split

theorem kept_idleCore (h : Kept κ s₀ s) (hκ : Off κ [.regs, .mzt, .cores, .fab]) (c : Core) :
    Kept κ s₀ (State.idleCore s c) := by
  unfold State.idleCore
  try dsimp only
  repeat' first
    | with_reducible assumption
    | exact hκ.sub (by decide)
    | with_reducible apply kept_takeSquash
    | with_reducible apply kept_putCore
    | with_reducible intro _ _ _ _
    | with_reducible intro _ _ _
    | with_reducible intro _ _
    | split

theorem kept_clearOb (h : Kept κ s₀ s) (hκ : Off κ [.mem]) (n : ℕ) :
    Kept κ s₀ (State.clearOb s n) := by
  exact Kept.of_cells h rfl rfl rfl (.refl _) (.refl _) (.refl _) List.filter_sublist (.refl _) (by intro p hp; cases p <;> first | exact (hκ.not hp (by decide)).elim | rfl)

theorem kept_clearRuns (h : Kept κ s₀ s) (hκ : Off κ [.mem, .regs, .mzt, .cores, .sch, .fab]) (x : Ctx) :
    Kept κ s₀ (State.clearRuns s x) := by
  unfold State.clearRuns
  try dsimp only
  repeat' first
    | with_reducible assumption
    | exact hκ.sub (by decide)
    | with_reducible apply kept_shardResult
    | with_reducible apply kept_onSch
    | with_reducible apply kept_idleCore
    | with_reducible apply kept_clearOb
    | with_reducible apply kept_foldl
    | with_reducible intro _ _ _ _
    | with_reducible intro _ _ _
    | with_reducible intro _ _
    | split

theorem kept_endTeardown (h : Kept κ s₀ s) (hκ : Off κ [.mem, .regs, .rse, .pge, .mzt, .cores, .exp, .sch, .phs, .fab, .xfr, .syn, .hcp, .evt, .out]) (x : Ctx) :
    Kept κ s₀ (State.endTeardown s x) := by
  unfold State.endTeardown
  try dsimp only
  repeat' first
    | with_reducible assumption
    | exact hκ.sub (by decide)
    | with_reducible apply kept_residueCheck
    | with_reducible apply kept_releaseBinds
    | with_reducible apply kept_clearRuns
    | with_reducible apply kept_disposeOwned
    | with_reducible apply kept_post
    | with_reducible apply kept_flushCtxQueues
    | with_reducible apply kept_ctxCmdDone
    | with_reducible apply kept_loadCtx
    | with_reducible apply kept_freeCtx
    | with_reducible apply kept_settlePages
    | with_reducible intro _ _ _ _
    | with_reducible intro _ _ _
    | with_reducible intro _ _
    | split

theorem kept_execCtxTeardownDone (h : Kept κ s₀ s) (hκ : Off κ [.mem, .regs, .rse, .pge, .mzt, .cores, .exp, .sch, .phs, .fab, .xfr, .syn, .hcp, .evt, .out]) (c : ℕ) :
    OutKept κ s₀ (execCtxTeardownDone c s) := by
  unfold execCtxTeardownDone
  try dsimp only
  repeat' first
    | with_reducible assumption
    | exact hκ.sub (by decide)
    | with_reducible apply kept_endTeardown
    | with_reducible apply OutKept.next
    | with_reducible intro _ _ _ _
    | with_reducible intro _ _ _
    | with_reducible intro _ _
    | split

theorem kept_execJobAbort (h : Kept κ s₀ s) (hκ : Off κ [.regs, .mzt, .cores, .sch, .fab, .hcp, .evt, .out]) (src : ℕ) (job : ℕ) :
    OutKept κ s₀ (execJobAbort src job s) := by
  unfold execJobAbort
  try dsimp only
  repeat' first
    | with_reducible assumption
    | exact hκ.sub (by decide)
    | with_reducible apply kept_takeMsg
    | with_reducible apply kept_post
    | with_reducible apply kept_tearDownAll
    | with_reducible apply OutKept.next
    | with_reducible intro _ _ _ _
    | with_reducible intro _ _ _
    | with_reducible intro _ _
    | split

theorem kept_ctxCmdWrite (h : Kept κ s₀ s) (hκ : Off κ [.regs, .mzt, .cores, .sch, .fab]) (value : ℕ) :
    Kept κ s₀ (State.ctxCmdWrite s value).1 := by
  unfold State.ctxCmdWrite
  try dsimp only
  repeat' first
    | with_reducible assumption
    | exact hκ.sub (by decide)
    | with_reducible apply kept_ctxCmd
    | with_reducible intro _ _ _ _
    | with_reducible intro _ _ _
    | with_reducible intro _ _
    | split
    | dsimp only [itself]
    | refine Kept.of_fst ?_ (by with_reducible assumption)

theorem kept_queueWrite (h : Kept κ s₀ s) (hκ : Off κ [.regs]) (q : ℕ) (value : ℕ) :
    Kept κ s₀ (State.queueWrite s q value).1 := by
  unfold State.queueWrite
  try dsimp only
  repeat' first
    | with_reducible assumption
    | exact hκ.sub (by decide)
    | with_reducible apply kept_writeRw
    | with_reducible intro _ _ _ _
    | with_reducible intro _ _ _
    | with_reducible intro _ _
    | split

theorem kept_execSchQueueWrite (h : Kept κ s₀ s) (hκ : Off κ [.regs]) (q : ℕ) (value : ℕ) :
    OutKept κ s₀ (execSchQueueWrite q value s) := by
  unfold execSchQueueWrite
  try dsimp only
  repeat' first
    | with_reducible assumption
    | exact hκ.sub (by decide)
    | with_reducible apply kept_queueWrite
    | with_reducible apply OutKept.next
    | with_reducible intro _ _ _ _
    | with_reducible intro _ _ _
    | with_reducible intro _ _
    | split
    | dsimp only [itself]
    | refine Kept.of_fst ?_ (by with_reducible assumption)

theorem kept_execSchCtrlWrite (h : Kept κ s₀ s) (hκ : Off κ [.regs]) (value : ℕ) :
    OutKept κ s₀ (execSchCtrlWrite value s) := by
  unfold execSchCtrlWrite
  try dsimp only
  repeat' first
    | with_reducible assumption
    | exact hκ.sub (by decide)
    | with_reducible apply kept_writeRw
    | with_reducible apply OutKept.next
    | with_reducible intro _ _ _ _
    | with_reducible intro _ _ _
    | with_reducible intro _ _
    | split

theorem kept_compWrite (h : Kept κ s₀ s) (hκ : Off κ [.regs, .hcp]) (addr : ℕ) (value : ℕ) :
    Kept κ s₀ (State.compWrite s addr value).1 := by
  unfold State.compWrite
  try dsimp only
  repeat' first
    | with_reducible assumption
    | exact hκ.sub (by decide)
    | with_reducible apply kept_writeRw
    | with_reducible apply kept_shaperFill
    | with_reducible apply kept_setReg
    | with_reducible intro _ _ _ _
    | with_reducible intro _ _ _
    | with_reducible intro _ _
    | split

theorem kept_execSchCompWrite (h : Kept κ s₀ s) (hκ : Off κ [.regs, .hcp]) (addr : ℕ) (value : ℕ) :
    OutKept κ s₀ (execSchCompWrite addr value s) := by
  unfold execSchCompWrite
  try dsimp only
  repeat' first
    | with_reducible assumption
    | exact hκ.sub (by decide)
    | with_reducible apply kept_compWrite
    | with_reducible apply OutKept.next
    | with_reducible intro _ _ _ _
    | with_reducible intro _ _ _
    | with_reducible intro _ _
    | split
    | dsimp only [itself]
    | refine Kept.of_fst ?_ (by with_reducible assumption)

theorem kept_execCompMeterTick (h : Kept κ s₀ s) (hκ : Off κ [.regs])  :
    OutKept κ s₀ (execCompMeterTick s) := by
  unfold execCompMeterTick
  try dsimp only
  repeat' first
    | with_reducible assumption
    | exact hκ.sub (by decide)
    | with_reducible apply kept_setReg
    | with_reducible apply kept_bump
    | with_reducible apply OutKept.next
    | with_reducible apply kept_foldl
    | with_reducible intro _ _ _ _
    | with_reducible intro _ _ _
    | with_reducible intro _ _
    | split

end Sys2Proof.Machine
end

