-- ==== Sys2Proof/Laws/KeptBatch.lean ====
section
/-! SUPPORT. What the operations of Machine/Batch.lean keep (see Laws/Kept.lean). -/

namespace Sys2Proof.Machine

variable {κ : Part → Bool} {s₀ s : State}

theorem kept_addQuantum (h : Kept κ s₀ s) (k : ℕ) (q : ℕ) :
    Kept κ s₀ (State.addQuantum s k q).2 := by
  unfold State.addQuantum
  try dsimp only
  repeat' first
    | with_reducible assumption
    | with_reducible apply kept_setFresh
    | with_reducible intro _ _ _ _
    | with_reducible intro _ _ _
    | with_reducible intro _ _
    | split

theorem kept_visit (h : Kept κ s₀ s) (hκ : Off κ [.regs]) (x : Ctx) (g : ℕ) (q : ℕ) (lc : Bool) (fresh : Bool) (b : Forming) :
    Kept κ s₀ (State.visit s x g q lc fresh b).2 := by
  unfold State.visit
  try dsimp only
  repeat' first
    | with_reducible assumption
    | exact hκ.sub (by decide)
    | with_reducible apply kept_addQuantum
    | with_reducible apply kept_setReg
    | with_reducible intro _ _ _ _
    | with_reducible intro _ _ _
    | with_reducible intro _ _
    | split
    | dsimp only [itself]
    | refine Kept.of_snd ?_ (by with_reducible assumption)

theorem kept_formClass (h : Kept κ s₀ s) (hκ : Off κ [.regs]) (x : Ctx) (g : ℕ) (lc : Bool) (qs : List ℕ) (a0 : ℕ) (a1 : RrPos) (a2 : Forming) :
    Kept κ s₀ (State.formClass s x g lc qs a0 a1 a2).2.2 := by
  induction a0 generalizing s x g lc qs a1 a2 with
  | zero =>
    unfold State.formClass
    try dsimp only
    repeat' first
      | with_reducible assumption
      | exact hκ.sub (by decide)
      | with_reducible apply kept_visit
      | with_reducible intro _ _ _ _
      | with_reducible intro _ _ _
      | with_reducible intro _ _
      | split
      | dsimp only [itself]
      | refine Kept.of_snd ?_ (by with_reducible assumption)
  | succ n_ ih =>
    unfold State.formClass
    try dsimp only
    repeat' first
      | with_reducible assumption
      | with_reducible apply ih
      | exact hκ.sub (by decide)
      | with_reducible apply kept_visit
      | with_reducible intro _ _ _ _
      | with_reducible intro _ _ _
      | with_reducible intro _ _
      | split
      | dsimp only [itself]
      | refine Kept.of_snd ?_ (by with_reducible assumption)

theorem kept_form (h : Kept κ s₀ s) (hκ : Off κ [.regs]) (x : Ctx) (g : ℕ) (b : Forming) :
    Kept κ s₀ (State.form s x g b).2.2 := by
  unfold State.form
  try dsimp only
  repeat' first
    | with_reducible assumption
    | exact hκ.sub (by decide)
    | with_reducible apply kept_formClass
    | with_reducible intro _ _ _ _
    | with_reducible intro _ _ _
    | with_reducible intro _ _
    | split
    | dsimp only [itself]
    | refine Kept.of_third ?_ (by with_reducible assumption)
    | refine Kept.of_snd ?_ (by with_reducible assumption)

theorem kept_installTables (h : Kept κ s₀ s) (hκ : Off κ [.exp]) (c : ℕ) (n : ℕ) :
    Kept κ s₀ (State.installTables s c n) := by
  unfold State.installTables
  try dsimp only
  repeat' first
    | with_reducible assumption
    | exact hκ.sub (by decide)
    | with_reducible apply kept_onExp
    | with_reducible intro _ _ _ _
    | with_reducible intro _ _ _
    | with_reducible intro _ _
    | split

theorem kept_startCore (h : Kept κ s₀ s) (hκ : Off κ [.mem, .cores, .exp]) (x : Ctx) (pc : ℕ) (area : List Sys2Proof.Byte) (n : ℕ) :
    Kept κ s₀ (State.startCore s x pc area n) := by
  unfold State.startCore
  try dsimp only
  repeat' first
    | with_reducible assumption
    | exact hκ.sub (by decide)
    | with_reducible apply kept_installTables
    | with_reducible apply kept_wr
    | with_reducible apply kept_putCore
    | with_reducible intro _ _ _ _
    | with_reducible intro _ _ _
    | with_reducible intro _ _
    | split

theorem kept_touchStep (h : Kept κ s₀ s) (hκ : Off κ [.regs, .pge]) (id : ℕ) (g : ℕ) (ctx : ℕ) :
    Kept κ s₀ (State.touchStep s id g ctx) := by
  unfold State.touchStep
  try dsimp only
  repeat' first
    | with_reducible assumption
    | exact hκ.sub (by decide)
    | with_reducible apply kept_putPage
    | with_reducible apply kept_xlateRead
    | with_reducible apply kept_foldl
    | with_reducible intro _ _ _ _
    | with_reducible intro _ _ _
    | with_reducible intro _ _
    | split

theorem kept_beginStep (h : Kept κ s₀ s) (hκ : Off κ [.regs, .rse, .pge, .sch, .fab, .hcp, .out]) (g : ℕ) (row : BatchRow) :
    Kept κ s₀ (State.beginStep s g row) := by
  unfold State.beginStep
  try dsimp only
  repeat' first
    | with_reducible assumption
    | exact hκ.sub (by decide)
    | with_reducible apply kept_stepPages
    | with_reducible apply kept_onSch
    | with_reducible apply kept_putWork
    | with_reducible apply kept_next
    | with_reducible apply kept_touchStep
    | with_reducible intro _ _ _ _
    | with_reducible intro _ _ _
    | with_reducible intro _ _
    | split
    | dsimp only [itself]
    | refine Kept.of_snd ?_ (by with_reducible assumption)

theorem kept_dispatch (h : Kept κ s₀ s) (hκ : Off κ [.mem, .regs, .rse, .pge, .cores, .exp, .sch, .fab, .hcp, .out]) (x : Ctx) (g : ℕ) (b : Forming) :
    Kept κ s₀ (State.dispatch s x g b) := by
  unfold State.dispatch
  try dsimp only
  repeat' first
    | with_reducible assumption
    | exact hκ.sub (by decide)
    | with_reducible apply kept_beginStep
    | with_reducible apply kept_putCtx
    | with_reducible apply kept_count
    | with_reducible apply kept_bump
    | with_reducible apply kept_startCore
    | with_reducible apply kept_onSch
    | with_reducible apply kept_foldl
    | with_reducible intro _ _ _ _
    | with_reducible intro _ _ _
    | with_reducible intro _ _
    | split

theorem kept_formAndDispatch (h : Kept κ s₀ s) (hκ : Off κ [.mem, .regs, .rse, .pge, .cores, .exp, .sch, .fab, .hcp, .out]) (x : Ctx) (g : ℕ) (expired : Bool) :
    Kept κ s₀ (State.formAndDispatch s x g expired) := by
  unfold State.formAndDispatch
  try dsimp only
  repeat' first
    | with_reducible assumption
    | exact hκ.sub (by decide)
    | with_reducible apply kept_form
    | with_reducible apply kept_putCtx
    | with_reducible apply kept_dispatch
    | with_reducible intro _ _ _ _
    | with_reducible intro _ _ _
    | with_reducible intro _ _
    | split
    | dsimp only [itself]
    | refine Kept.of_third ?_ (by with_reducible assumption)
    | refine Kept.of_snd ?_ (by with_reducible assumption)

theorem kept_execBatchDispatch (h : Kept κ s₀ s) (hκ : Off κ [.mem, .regs, .rse, .pge, .cores, .exp, .sch, .fab, .hcp, .out]) (c : ℕ) (group : ℕ) :
    OutKept κ s₀ (execBatchDispatch c group s) := by
  unfold execBatchDispatch
  try dsimp only
  repeat' first
    | with_reducible assumption
    | exact hκ.sub (by decide)
    | with_reducible apply kept_formAndDispatch
    | with_reducible apply OutKept.next
    | with_reducible intro _ _ _ _
    | with_reducible intro _ _ _
    | with_reducible intro _ _
    | split

theorem kept_execBatchHoldExpiry (h : Kept κ s₀ s) (hκ : Off κ [.mem, .regs, .rse, .pge, .cores, .exp, .sch, .fab, .hcp, .out]) (c : ℕ) :
    OutKept κ s₀ (execBatchHoldExpiry c s) := by
  unfold execBatchHoldExpiry
  try dsimp only
  repeat' first
    | with_reducible assumption
    | exact hκ.sub (by decide)
    | with_reducible apply kept_formAndDispatch
    | with_reducible apply kept_putCtx
    | with_reducible apply OutKept.next
    | with_reducible intro _ _ _ _
    | with_reducible intro _ _ _
    | with_reducible intro _ _
    | split

theorem kept_unfinishedSteps (h : Kept κ s₀ s) (hκ : Off κ [.mem, .regs, .rse, .pge, .mzt, .cores, .sch, .phs, .fab, .xfr, .syn, .hcp, .evt, .out]) (b : Batch) :
    Kept κ s₀ (State.unfinishedSteps s b) := by
  unfold State.unfinishedSteps
  try dsimp only
  repeat' first
    | with_reducible assumption
    | exact hκ.sub (by decide)
    | with_reducible apply kept_failStep
    | with_reducible apply kept_foldl
    | with_reducible intro _ _ _ _
    | with_reducible intro _ _ _
    | with_reducible intro _ _
    | split

theorem kept_execBatchEnd (h : Kept κ s₀ s) (hκ : Off κ [.mem, .regs, .rse, .pge, .mzt, .cores, .sch, .phs, .fab, .xfr, .syn, .hcp, .evt, .out]) (c : ℕ) (group : ℕ) :
    OutKept κ s₀ (execBatchEnd c group s) := by
  unfold execBatchEnd
  try dsimp only
  repeat' first
    | with_reducible assumption
    | exact hκ.sub (by decide)
    | with_reducible apply kept_idleCore
    | with_reducible apply kept_onSch
    | with_reducible apply kept_unfinishedSteps
    | with_reducible apply OutKept.next
    | with_reducible apply kept_foldl
    | with_reducible intro _ _ _ _
    | with_reducible intro _ _ _
    | with_reducible intro _ _
    | split

theorem kept_startShard (h : Kept κ s₀ s) (hκ : Off κ [.mem, .cores, .exp, .sch]) (x : Ctx) (g : ℕ) (shard : ℕ) (copy : ℕ) :
    Kept κ s₀ (State.startShard s x g shard copy) := by
  unfold State.startShard
  try dsimp only
  repeat' first
    | with_reducible assumption
    | exact hκ.sub (by decide)
    | with_reducible apply kept_startCore
    | with_reducible apply kept_putCtx
    | with_reducible apply kept_onSch
    | with_reducible apply kept_foldl
    | with_reducible intro _ _ _ _
    | with_reducible intro _ _ _
    | with_reducible intro _ _
    | split

theorem kept_execShardDispatch (h : Kept κ s₀ s) (hκ : Off κ [.mem, .cores, .exp, .sch]) (c : ℕ) (group : ℕ) :
    OutKept κ s₀ (execShardDispatch c group s) := by
  unfold execShardDispatch
  try dsimp only
  repeat' first
    | with_reducible assumption
    | exact hκ.sub (by decide)
    | with_reducible apply kept_startShard
    | with_reducible apply OutKept.next
    | with_reducible intro _ _ _ _
    | with_reducible intro _ _ _
    | with_reducible intro _ _
    | split

theorem kept_execBackupStart (h : Kept κ s₀ s) (hκ : Off κ [.mem, .regs, .cores, .exp, .sch]) (c : ℕ) (shard : ℕ) (group : ℕ) :
    OutKept κ s₀ (execBackupStart c shard group s) := by
  unfold execBackupStart
  try dsimp only
  repeat' first
    | with_reducible assumption
    | exact hκ.sub (by decide)
    | with_reducible apply kept_bump
    | with_reducible apply kept_startShard
    | with_reducible apply OutKept.next
    | with_reducible intro _ _ _ _
    | with_reducible intro _ _ _
    | with_reducible intro _ _
    | split

theorem kept_shardWin (h : Kept κ s₀ s) (hκ : Off κ [.mem, .regs, .mzt, .cores, .sch, .fab, .syn]) (x : Ctx) (y : ShardRun) :
    Kept κ s₀ (State.shardWin s x y) := by
  unfold State.shardWin
  try dsimp only
  repeat' first
    | with_reducible assumption
    | exact hκ.sub (by decide)
    | with_reducible apply kept_onSch
    | with_reducible apply kept_squashCores
    | with_reducible apply kept_putCtx
    | with_reducible apply kept_shardResult
    | with_reducible apply kept_bump
    | with_reducible apply kept_addCounter
    | with_reducible intro _ _ _ _
    | with_reducible intro _ _ _
    | with_reducible intro _ _
    | split

theorem kept_execShardWin (h : Kept κ s₀ s) (hκ : Off κ [.mem, .regs, .mzt, .cores, .sch, .fab, .syn]) (c : ℕ) (shard : ℕ) (copy : ℕ) :
    OutKept κ s₀ (execShardWin c shard copy s) := by
  unfold execShardWin
  try dsimp only
  repeat' first
    | with_reducible assumption
    | exact hκ.sub (by decide)
    | with_reducible apply kept_shardWin
    | with_reducible apply OutKept.next
    | with_reducible intro _ _ _ _
    | with_reducible intro _ _ _
    | with_reducible intro _ _
    | split

end Sys2Proof.Machine
end

