-- ==== Sys2Proof/Laws/KeptCompute.lean ====
section
/-! SUPPORT. What the operations of Machine/Compute.lean keep (see Laws/Kept.lean). -/

namespace Sys2Proof.Machine

variable {κ : Part → Bool} {s₀ s : State}

theorem kept_runMatrix (h : Kept κ s₀ s) (hκ : Off κ [.mem, .regs, .rse, .mzt, .cores, .sch, .phs, .fab, .syn, .hcp, .evt, .out]) (c : Core) (i : MInstr) (rs : List (ℕ × ℕ)) (bv : ℕ → ℕ → Num) (tiles : ℕ) (more : List CoreOp) :
    Kept κ s₀ (State.runMatrix s c i rs bv tiles more) := by
  unfold State.runMatrix
  try dsimp only
  repeat' first
    | with_reducible assumption
    | exact hκ.sub (by decide)
    | with_reducible apply kept_results
    | with_reducible intro _ _ _ _
    | with_reducible intro _ _ _
    | with_reducible intro _ _
    | split

theorem kept_matrix (h : Kept κ s₀ s) (hκ : Off κ [.mem, .regs, .rse, .mzt, .cores, .sch, .phs, .fab, .syn, .hcp, .evt, .out]) (c : Core) (o : Opc) (i : MInstr) (b : List (ℕ × ℕ)) (bv : ℕ → ℕ → Num) :
    Kept κ s₀ (State.matrix s c o i b bv) := by
  unfold State.matrix
  try dsimp only
  repeat' first
    | with_reducible assumption
    | exact hκ.sub (by decide)
    | with_reducible apply kept_held
    | with_reducible apply kept_runMatrix
    | with_reducible intro _ _ _ _
    | with_reducible intro _ _ _
    | with_reducible intro _ _
    | split
    | dsimp only [itself]
    | refine OptKept.getD (f := itself) ?_ ?_
    | refine OptKept.get_id ?_ (by with_reducible assumption)

theorem kept_mma (h : Kept κ s₀ s) (hκ : Off κ [.mem, .regs, .rse, .mzt, .cores, .sch, .phs, .fab, .syn, .hcp, .evt, .out]) (c : Core) (w : Sys2Proof.Word128) :
    Kept κ s₀ (State.mma s c w) := by
  unfold State.mma
  try dsimp only
  repeat' first
    | with_reducible assumption
    | exact hκ.sub (by decide)
    | with_reducible apply kept_instrFault
    | with_reducible apply kept_matrix
    | with_reducible intro _ _ _ _
    | with_reducible intro _ _ _
    | with_reducible intro _ _
    | split

theorem kept_execMma (h : Kept κ s₀ s) (hκ : Off κ [.mem, .regs, .rse, .mzt, .cores, .sch, .phs, .fab, .syn, .hcp, .evt, .out]) (core : ℕ) :
    OutKept κ s₀ (execMma core s) := by
  unfold execMma
  try dsimp only
  repeat' first
    | with_reducible assumption
    | exact hκ.sub (by decide)
    | with_reducible apply kept_issue
    | with_reducible apply kept_mma
    | with_reducible apply OutKept.next
    | with_reducible intro _ _ _ _
    | with_reducible intro _ _ _
    | with_reducible intro _ _
    | split

theorem kept_mmt (h : Kept κ s₀ s) (hκ : Off κ [.mem, .regs, .rse, .mzt, .cores, .sch, .phs, .fab, .syn, .hcp, .evt, .out]) (c : Core) (w : Sys2Proof.Word128) :
    Kept κ s₀ (State.mmt s c w) := by
  unfold State.mmt
  try dsimp only
  repeat' first
    | with_reducible assumption
    | exact hκ.sub (by decide)
    | with_reducible apply kept_instrFault
    | with_reducible apply kept_matrix
    | with_reducible intro _ _ _ _
    | with_reducible intro _ _ _
    | with_reducible intro _ _
    | split

theorem kept_execMmt (h : Kept κ s₀ s) (hκ : Off κ [.mem, .regs, .rse, .mzt, .cores, .sch, .phs, .fab, .syn, .hcp, .evt, .out]) (core : ℕ) :
    OutKept κ s₀ (execMmt core s) := by
  unfold execMmt
  try dsimp only
  repeat' first
    | with_reducible assumption
    | exact hκ.sub (by decide)
    | with_reducible apply kept_issue
    | with_reducible apply kept_mmt
    | with_reducible apply OutKept.next
    | with_reducible intro _ _ _ _
    | with_reducible intro _ _ _
    | with_reducible intro _ _
    | split

theorem kept_mmx (h : Kept κ s₀ s) (hκ : Off κ [.mem, .regs, .rse, .mzt, .cores, .sch, .phs, .fab, .syn, .hcp, .evt, .out]) (c : Core) (w : Sys2Proof.Word128) :
    Kept κ s₀ (State.mmx s c w) := by
  unfold State.mmx
  try dsimp only
  repeat' first
    | with_reducible assumption
    | exact hκ.sub (by decide)
    | with_reducible apply kept_instrFault
    | with_reducible apply kept_held
    | with_reducible apply kept_notYet
    | with_reducible apply kept_runMatrix
    | with_reducible apply kept_count
    | with_reducible intro _ _ _ _
    | with_reducible intro _ _ _
    | with_reducible intro _ _
    | split
    | dsimp only [itself]
    | refine OptKept.getD (f := itself) ?_ ?_
    | refine OptKept.get_id ?_ (by with_reducible assumption)

theorem kept_execMmx (h : Kept κ s₀ s) (hκ : Off κ [.mem, .regs, .rse, .mzt, .cores, .sch, .phs, .fab, .syn, .hcp, .evt, .out]) (core : ℕ) :
    OutKept κ s₀ (execMmx core s) := by
  unfold execMmx
  try dsimp only
  repeat' first
    | with_reducible assumption
    | exact hκ.sub (by decide)
    | with_reducible apply kept_issue
    | with_reducible apply kept_mmx
    | with_reducible apply OutKept.next
    | with_reducible intro _ _ _ _
    | with_reducible intro _ _ _
    | with_reducible intro _ _
    | split

theorem kept_vector (h : Kept κ s₀ s) (hκ : Off κ [.mem, .regs, .rse, .mzt, .cores, .sch, .phs, .fab, .syn, .hcp, .evt, .out]) (o : Opc) (c : Core) (w : Sys2Proof.Word128) :
    Kept κ s₀ (State.vector o s c w) := by
  unfold State.vector
  try dsimp only
  repeat' first
    | with_reducible assumption
    | exact hκ.sub (by decide)
    | with_reducible apply kept_instrFault
    | with_reducible apply kept_compute
    | with_reducible intro _ _ _ _
    | with_reducible intro _ _ _
    | with_reducible intro _ _
    | split

theorem kept_execVbin (h : Kept κ s₀ s) (hκ : Off κ [.mem, .regs, .rse, .mzt, .cores, .sch, .phs, .fab, .syn, .hcp, .evt, .out]) (core : ℕ) :
    OutKept κ s₀ (execVbin core s) := by
  unfold execVbin
  try dsimp only
  repeat' first
    | with_reducible assumption
    | exact hκ.sub (by decide)
    | with_reducible apply kept_issue
    | with_reducible apply kept_vector
    | with_reducible apply OutKept.next
    | with_reducible intro _ _ _ _
    | with_reducible intro _ _ _
    | with_reducible intro _ _
    | split

theorem kept_execVbins (h : Kept κ s₀ s) (hκ : Off κ [.mem, .regs, .rse, .mzt, .cores, .sch, .phs, .fab, .syn, .hcp, .evt, .out]) (core : ℕ) :
    OutKept κ s₀ (execVbins core s) := by
  unfold execVbins
  try dsimp only
  repeat' first
    | with_reducible assumption
    | exact hκ.sub (by decide)
    | with_reducible apply kept_issue
    | with_reducible apply kept_vector
    | with_reducible apply OutKept.next
    | with_reducible intro _ _ _ _
    | with_reducible intro _ _ _
    | with_reducible intro _ _
    | split

theorem kept_execVfma (h : Kept κ s₀ s) (hκ : Off κ [.mem, .regs, .rse, .mzt, .cores, .sch, .phs, .fab, .syn, .hcp, .evt, .out]) (core : ℕ) :
    OutKept κ s₀ (execVfma core s) := by
  unfold execVfma
  try dsimp only
  repeat' first
    | with_reducible assumption
    | exact hκ.sub (by decide)
    | with_reducible apply kept_issue
    | with_reducible apply kept_vector
    | with_reducible apply OutKept.next
    | with_reducible intro _ _ _ _
    | with_reducible intro _ _ _
    | with_reducible intro _ _
    | split

theorem kept_execVun (h : Kept κ s₀ s) (hκ : Off κ [.mem, .regs, .rse, .mzt, .cores, .sch, .phs, .fab, .syn, .hcp, .evt, .out]) (core : ℕ) :
    OutKept κ s₀ (execVun core s) := by
  unfold execVun
  try dsimp only
  repeat' first
    | with_reducible assumption
    | exact hκ.sub (by decide)
    | with_reducible apply kept_issue
    | with_reducible apply kept_vector
    | with_reducible apply OutKept.next
    | with_reducible intro _ _ _ _
    | with_reducible intro _ _ _
    | with_reducible intro _ _
    | split

theorem kept_execVred (h : Kept κ s₀ s) (hκ : Off κ [.mem, .regs, .rse, .mzt, .cores, .sch, .phs, .fab, .syn, .hcp, .evt, .out]) (core : ℕ) :
    OutKept κ s₀ (execVred core s) := by
  unfold execVred
  try dsimp only
  repeat' first
    | with_reducible assumption
    | exact hκ.sub (by decide)
    | with_reducible apply kept_issue
    | with_reducible apply kept_vector
    | with_reducible apply OutKept.next
    | with_reducible intro _ _ _ _
    | with_reducible intro _ _ _
    | with_reducible intro _ _
    | split

theorem kept_execVsoftmax (h : Kept κ s₀ s) (hκ : Off κ [.mem, .regs, .rse, .mzt, .cores, .sch, .phs, .fab, .syn, .hcp, .evt, .out]) (core : ℕ) :
    OutKept κ s₀ (execVsoftmax core s) := by
  unfold execVsoftmax
  try dsimp only
  repeat' first
    | with_reducible assumption
    | exact hκ.sub (by decide)
    | with_reducible apply kept_issue
    | with_reducible apply kept_vector
    | with_reducible apply OutKept.next
    | with_reducible intro _ _ _ _
    | with_reducible intro _ _ _
    | with_reducible intro _ _
    | split

theorem kept_execVnorm (h : Kept κ s₀ s) (hκ : Off κ [.mem, .regs, .rse, .mzt, .cores, .sch, .phs, .fab, .syn, .hcp, .evt, .out]) (core : ℕ) :
    OutKept κ s₀ (execVnorm core s) := by
  unfold execVnorm
  try dsimp only
  repeat' first
    | with_reducible assumption
    | exact hκ.sub (by decide)
    | with_reducible apply kept_issue
    | with_reducible apply kept_vector
    | with_reducible apply OutKept.next
    | with_reducible intro _ _ _ _
    | with_reducible intro _ _ _
    | with_reducible intro _ _
    | split

theorem kept_execVrope (h : Kept κ s₀ s) (hκ : Off κ [.mem, .regs, .rse, .mzt, .cores, .sch, .phs, .fab, .syn, .hcp, .evt, .out]) (core : ℕ) :
    OutKept κ s₀ (execVrope core s) := by
  unfold execVrope
  try dsimp only
  repeat' first
    | with_reducible assumption
    | exact hκ.sub (by decide)
    | with_reducible apply kept_issue
    | with_reducible apply kept_vector
    | with_reducible apply OutKept.next
    | with_reducible intro _ _ _ _
    | with_reducible intro _ _ _
    | with_reducible intro _ _
    | split

theorem kept_execVcvt (h : Kept κ s₀ s) (hκ : Off κ [.mem, .regs, .rse, .mzt, .cores, .sch, .phs, .fab, .syn, .hcp, .evt, .out]) (core : ℕ) :
    OutKept κ s₀ (execVcvt core s) := by
  unfold execVcvt
  try dsimp only
  repeat' first
    | with_reducible assumption
    | exact hκ.sub (by decide)
    | with_reducible apply kept_issue
    | with_reducible apply kept_vector
    | with_reducible apply OutKept.next
    | with_reducible intro _ _ _ _
    | with_reducible intro _ _ _
    | with_reducible intro _ _
    | split

theorem kept_execVmerge (h : Kept κ s₀ s) (hκ : Off κ [.mem, .regs, .rse, .mzt, .cores, .sch, .phs, .fab, .syn, .hcp, .evt, .out]) (core : ℕ) :
    OutKept κ s₀ (execVmerge core s) := by
  unfold execVmerge
  try dsimp only
  repeat' first
    | with_reducible assumption
    | exact hκ.sub (by decide)
    | with_reducible apply kept_issue
    | with_reducible apply kept_vector
    | with_reducible apply OutKept.next
    | with_reducible intro _ _ _ _
    | with_reducible intro _ _ _
    | with_reducible intro _ _
    | split

theorem kept_sample (h : Kept κ s₀ s) (hκ : Off κ [.mem, .regs, .rse, .mzt, .cores, .sch, .phs, .fab, .syn, .hcp, .evt, .out]) (o : Opc) (verify : Bool) (c : Core) (w : Sys2Proof.Word128) :
    Kept κ s₀ (State.sample o verify s c w) := by
  unfold State.sample
  try dsimp only
  repeat' first
    | with_reducible assumption
    | exact hκ.sub (by decide)
    | with_reducible apply kept_instrFault
    | with_reducible apply kept_held
    | with_reducible apply kept_calcDone
    | with_reducible apply kept_pushOps
    | with_reducible intro _ _ _ _
    | with_reducible intro _ _ _
    | with_reducible intro _ _
    | split
    | dsimp only [itself]
    | refine OptKept.getD (f := itself) ?_ ?_
    | refine OptKept.get_id ?_ (by with_reducible assumption)

theorem kept_execSample (h : Kept κ s₀ s) (hκ : Off κ [.mem, .regs, .rse, .mzt, .cores, .sch, .phs, .fab, .syn, .hcp, .evt, .out]) (core : ℕ) :
    OutKept κ s₀ (execSample core s) := by
  unfold execSample
  try dsimp only
  repeat' first
    | with_reducible assumption
    | exact hκ.sub (by decide)
    | with_reducible apply kept_issue
    | with_reducible apply kept_sample
    | with_reducible apply OutKept.next
    | with_reducible intro _ _ _ _
    | with_reducible intro _ _ _
    | with_reducible intro _ _
    | split

theorem kept_execSverify (h : Kept κ s₀ s) (hκ : Off κ [.mem, .regs, .rse, .mzt, .cores, .sch, .phs, .fab, .syn, .hcp, .evt, .out]) (core : ℕ) :
    OutKept κ s₀ (execSverify core s) := by
  unfold execSverify
  try dsimp only
  repeat' first
    | with_reducible assumption
    | exact hκ.sub (by decide)
    | with_reducible apply kept_issue
    | with_reducible apply kept_sample
    | with_reducible apply OutKept.next
    | with_reducible intro _ _ _ _
    | with_reducible intro _ _ _
    | with_reducible intro _ _
    | split

theorem kept_slogprob (h : Kept κ s₀ s) (hκ : Off κ [.mem, .regs, .rse, .mzt, .cores, .sch, .phs, .fab, .syn, .hcp, .evt, .out]) (c : Core) (w : Sys2Proof.Word128) :
    Kept κ s₀ (State.slogprob s c w) := by
  unfold State.slogprob
  try dsimp only
  repeat' first
    | with_reducible assumption
    | exact hκ.sub (by decide)
    | with_reducible apply kept_instrFault
    | with_reducible apply kept_compute
    | with_reducible intro _ _ _ _
    | with_reducible intro _ _ _
    | with_reducible intro _ _
    | split

theorem kept_execSlogprob (h : Kept κ s₀ s) (hκ : Off κ [.mem, .regs, .rse, .mzt, .cores, .sch, .phs, .fab, .syn, .hcp, .evt, .out]) (core : ℕ) :
    OutKept κ s₀ (execSlogprob core s) := by
  unfold execSlogprob
  try dsimp only
  repeat' first
    | with_reducible assumption
    | exact hκ.sub (by decide)
    | with_reducible apply kept_issue
    | with_reducible apply kept_slogprob
    | with_reducible apply OutKept.next
    | with_reducible intro _ _ _ _
    | with_reducible intro _ _ _
    | with_reducible intro _ _
    | split

theorem kept_commitOne (h : Kept κ s₀ s) (hκ : Off κ [.mem, .regs, .rse, .pge, .mzt, .cores, .sch, .phs, .fab, .xfr, .syn, .hcp, .evt, .out]) (n : ℕ) (id : ℕ) (toks : List (ℕ × ℕ)) :
    Kept κ s₀ (State.commitOne s n id toks) := by
  unfold State.commitOne
  try dsimp only
  repeat' first
    | with_reducible assumption
    | exact hκ.sub (by decide)
    | with_reducible apply kept_commitOrdered
    | with_reducible apply kept_tryCommit
    | with_reducible apply kept_putWork
    | with_reducible intro _ _ _ _
    | with_reducible intro _ _ _
    | with_reducible intro _ _
    | split

theorem kept_scommit (h : Kept κ s₀ s) (hκ : Off κ [.mem, .regs, .rse, .pge, .mzt, .cores, .sch, .phs, .fab, .xfr, .syn, .hcp, .evt, .out]) (c : Core) (w : Sys2Proof.Word128) :
    Kept κ s₀ (State.scommit s c w) := by
  unfold State.scommit
  try dsimp only
  repeat' first
    | with_reducible assumption
    | exact hκ.sub (by decide)
    | with_reducible apply kept_instrFault
    | with_reducible apply kept_held
    | with_reducible apply kept_deschedule
    | with_reducible apply kept_commitOne
    | with_reducible apply kept_foldl
    | with_reducible intro _ _ _ _
    | with_reducible intro _ _ _
    | with_reducible intro _ _
    | split
    | dsimp only [itself]
    | refine OptKept.getD (f := itself) ?_ ?_
    | refine OptKept.get_id ?_ (by with_reducible assumption)

theorem kept_execScommit (h : Kept κ s₀ s) (hκ : Off κ [.mem, .regs, .rse, .pge, .mzt, .cores, .sch, .phs, .fab, .xfr, .syn, .hcp, .evt, .out]) (core : ℕ) :
    OutKept κ s₀ (execScommit core s) := by
  unfold execScommit
  try dsimp only
  repeat' first
    | with_reducible assumption
    | exact hκ.sub (by decide)
    | with_reducible apply kept_issue
    | with_reducible apply kept_scommit
    | with_reducible apply OutKept.next
    | with_reducible intro _ _ _ _
    | with_reducible intro _ _ _
    | with_reducible intro _ _
    | split

theorem kept_optimize (h : Kept κ s₀ s) (hκ : Off κ [.mem, .regs, .rse, .mzt, .cores, .sch, .phs, .fab, .syn, .hcp, .evt, .out]) (o : Opc) (adam : Bool) (c : Core) (w : Sys2Proof.Word128) :
    Kept κ s₀ (State.optimize o adam s c w) := by
  unfold State.optimize
  try dsimp only
  repeat' first
    | with_reducible assumption
    | exact hκ.sub (by decide)
    | with_reducible apply kept_instrFault
    | with_reducible apply kept_held
    | with_reducible apply kept_compute
    | with_reducible intro _ _ _ _
    | with_reducible intro _ _ _
    | with_reducible intro _ _
    | split
    | dsimp only [itself]
    | refine OptKept.getD (f := itself) ?_ ?_
    | refine OptKept.get_id ?_ (by with_reducible assumption)

theorem kept_execOadam (h : Kept κ s₀ s) (hκ : Off κ [.mem, .regs, .rse, .mzt, .cores, .sch, .phs, .fab, .syn, .hcp, .evt, .out]) (core : ℕ) :
    OutKept κ s₀ (execOadam core s) := by
  unfold execOadam
  try dsimp only
  repeat' first
    | with_reducible assumption
    | exact hκ.sub (by decide)
    | with_reducible apply kept_issue
    | with_reducible apply kept_optimize
    | with_reducible apply OutKept.next
    | with_reducible intro _ _ _ _
    | with_reducible intro _ _ _
    | with_reducible intro _ _
    | split

theorem kept_execOsgd (h : Kept κ s₀ s) (hκ : Off κ [.mem, .regs, .rse, .mzt, .cores, .sch, .phs, .fab, .syn, .hcp, .evt, .out]) (core : ℕ) :
    OutKept κ s₀ (execOsgd core s) := by
  unfold execOsgd
  try dsimp only
  repeat' first
    | with_reducible assumption
    | exact hκ.sub (by decide)
    | with_reducible apply kept_issue
    | with_reducible apply kept_optimize
    | with_reducible apply OutKept.next
    | with_reducible intro _ _ _ _
    | with_reducible intro _ _ _
    | with_reducible intro _ _
    | split

end Sys2Proof.Machine
end

