-- ==== Sys2Proof/Laws/KeptMezzotint.lean ====
section
/-! SUPPORT. What the operations of Machine/Mezzotint.lean keep (see Laws/Kept.lean). -/

namespace Sys2Proof.Machine

variable {κ : Part → Bool} {s₀ s : State}

theorem kept_mztSend (h : Kept κ s₀ s) (hκ : Off κ [.regs, .mzt, .fab, .hcp, .out]) (o : MztOut) :
    Kept κ s₀ (State.mztSend s o) := by
  unfold State.mztSend
  try dsimp only
  repeat' first
    | with_reducible assumption
    | exact hκ.sub (by decide)
    | with_reducible apply kept_onMzt
    | with_reducible apply kept_sendMsg
    | with_reducible apply kept_bump
    | with_reducible intro _ _ _ _
    | with_reducible intro _ _ _
    | with_reducible intro _ _
    | split

theorem kept_mztPump (h : Kept κ s₀ s) (hκ : Off κ [.regs, .mzt, .fab, .hcp, .out]) (a0 : ℕ) :
    Kept κ s₀ (State.mztPump s a0) := by
  induction a0 generalizing s with
  | zero =>
    unfold State.mztPump
    try dsimp only
    repeat' first
      | with_reducible assumption
  | succ n_ ih =>
    unfold State.mztPump
    try dsimp only
    repeat' first
      | with_reducible assumption
      | with_reducible apply ih
      | exact hκ.sub (by decide)
      | with_reducible apply kept_mztSend
      | with_reducible apply kept_onMzt
      | with_reducible intro _ _ _ _
      | with_reducible intro _ _ _
      | with_reducible intro _ _
      | split

theorem kept_mztNext (h : Kept κ s₀ s) (hκ : Off κ [.regs, .mzt, .cores, .fab, .syn, .hcp, .out])  :
    Kept κ s₀ (State.mztNext s) := by
  unfold State.mztNext
  try dsimp only
  repeat' first
    | with_reducible assumption
    | exact hκ.sub (by decide)
    | with_reducible apply kept_mztGoOn
    | with_reducible apply kept_mztPump
    | with_reducible intro _ _ _ _
    | with_reducible intro _ _ _
    | with_reducible intro _ _
    | split

theorem kept_mztFail (h : Kept κ s₀ s) (hκ : Off κ [.mem, .regs, .rse, .pge, .mzt, .cores, .sch, .phs, .fab, .xfr, .syn, .hcp, .evt, .out]) (id : ℕ) :
    Kept κ s₀ (State.mztFail s id) := by
  unfold State.mztFail
  try dsimp only
  repeat' first
    | with_reducible assumption
    | exact hκ.sub (by decide)
    | with_reducible apply kept_mztNext
    | with_reducible apply kept_failStep
    | with_reducible apply kept_bump
    | with_reducible intro _ _ _ _
    | with_reducible intro _ _ _
    | with_reducible intro _ _
    | split

theorem kept_mztStart (h : Kept κ s₀ s) (hκ : Off κ [.mem, .regs, .rse, .pge, .mzt, .cores, .sch, .phs, .fab, .xfr, .syn, .hcp, .evt, .out]) (c : Core) (done : ℕ) (id : ℕ) (os : List MztOut) :
    Kept κ s₀ (State.mztStart s c done id os) := by
  unfold State.mztStart
  try dsimp only
  repeat' first
    | with_reducible assumption
    | exact hκ.sub (by decide)
    | with_reducible apply kept_doneCtr
    | with_reducible apply kept_deschedule
    | with_reducible apply kept_mztFail
    | with_reducible apply kept_mztSend
    | with_reducible apply kept_mztNext
    | with_reducible apply kept_onMzt
    | with_reducible apply kept_foldl
    | with_reducible intro _ _ _ _
    | with_reducible intro _ _ _
    | with_reducible intro _ _
    | split

theorem kept_mzQuery (h : Kept κ s₀ s) (hκ : Off κ [.mem, .regs, .rse, .pge, .mzt, .cores, .sch, .phs, .fab, .xfr, .syn, .hcp, .evt, .out]) (c : Core) (w : Sys2Proof.Word128) :
    Kept κ s₀ (State.mzQuery s c w) := by
  unfold State.mzQuery
  try dsimp only
  repeat' first
    | with_reducible assumption
    | exact hκ.sub (by decide)
    | with_reducible apply kept_held
    | with_reducible apply kept_doneCtr
    | with_reducible apply kept_instrFault
    | with_reducible apply kept_mztStart
    | with_reducible intro _ _ _ _
    | with_reducible intro _ _ _
    | with_reducible intro _ _
    | split
    | dsimp only [itself]
    | refine OptKept.getD (f := itself) ?_ ?_
    | refine OptKept.get_id ?_ (by with_reducible assumption)

theorem kept_execMzquery (h : Kept κ s₀ s) (hκ : Off κ [.mem, .regs, .rse, .pge, .mzt, .cores, .sch, .phs, .fab, .xfr, .syn, .hcp, .evt, .out]) (core : ℕ) :
    OutKept κ s₀ (execMzquery core s) := by
  unfold execMzquery
  try dsimp only
  repeat' first
    | with_reducible assumption
    | exact hκ.sub (by decide)
    | with_reducible apply kept_issue
    | with_reducible apply kept_mzQuery
    | with_reducible apply OutKept.next
    | with_reducible intro _ _ _ _
    | with_reducible intro _ _ _
    | with_reducible intro _ _
    | split

theorem kept_mzWrite (h : Kept κ s₀ s) (hκ : Off κ [.mem, .regs, .rse, .pge, .mzt, .cores, .sch, .phs, .fab, .xfr, .syn, .hcp, .evt, .out]) (c : Core) (w : Sys2Proof.Word128) :
    Kept κ s₀ (State.mzWrite s c w) := by
  unfold State.mzWrite
  try dsimp only
  repeat' first
    | with_reducible assumption
    | exact hκ.sub (by decide)
    | with_reducible apply kept_held
    | with_reducible apply kept_doneCtr
    | with_reducible apply kept_instrFault
    | with_reducible apply kept_mztStart
    | with_reducible intro _ _ _ _
    | with_reducible intro _ _ _
    | with_reducible intro _ _
    | split
    | dsimp only [itself]
    | refine OptKept.getD (f := itself) ?_ ?_
    | refine OptKept.get_id ?_ (by with_reducible assumption)

theorem kept_execMzwrite (h : Kept κ s₀ s) (hκ : Off κ [.mem, .regs, .rse, .pge, .mzt, .cores, .sch, .phs, .fab, .xfr, .syn, .hcp, .evt, .out]) (core : ℕ) :
    OutKept κ s₀ (execMzwrite core s) := by
  unfold execMzwrite
  try dsimp only
  repeat' first
    | with_reducible assumption
    | exact hκ.sub (by decide)
    | with_reducible apply kept_issue
    | with_reducible apply kept_mzWrite
    | with_reducible apply OutKept.next
    | with_reducible intro _ _ _ _
    | with_reducible intro _ _ _
    | with_reducible intro _ _
    | split

theorem kept_recallHeld (h : Kept κ s₀ s) (hκ : Off κ [.mem, .regs, .rse, .pge, .mzt, .cores, .sch, .phs, .fab, .xfr, .syn, .hcp, .evt, .out]) (ps : List Page) :
    Kept κ s₀ (State.recallHeld s ps) := by
  unfold State.recallHeld
  try dsimp only
  repeat' first
    | with_reducible assumption
    | exact hκ.sub (by decide)
    | with_reducible apply kept_recallPage
    | with_reducible apply kept_foldl
    | with_reducible intro _ _ _ _
    | with_reducible intro _ _ _
    | with_reducible intro _ _
    | split

theorem kept_recallNeeded (h : Kept κ s₀ s) (hκ : Off κ [.mem, .regs, .rse, .pge, .mzt, .cores, .sch, .phs, .fab, .xfr, .syn, .hcp, .evt, .out]) (q : MztMsg) :
    Kept κ s₀ (State.recallNeeded s q) := by
  unfold State.recallNeeded
  try dsimp only
  repeat' first
    | with_reducible assumption
    | exact hκ.sub (by decide)
    | with_reducible apply kept_recallHeld
    | with_reducible intro _ _ _ _
    | with_reducible intro _ _ _
    | with_reducible intro _ _
    | split

theorem kept_serveOn (h : Kept κ s₀ s) (hκ : Off κ [.cores]) :
    Kept κ s₀ (State.serveOn s) := by
  unfold State.serveOn
  try dsimp only
  repeat' first
    | with_reducible assumption
    | exact hκ.sub (by decide)
    | with_reducible apply kept_putCore
    | with_reducible apply kept_foldl
    | with_reducible intro _ _ _ _
    | with_reducible intro _ _ _
    | with_reducible intro _ _
    | split

theorem kept_serveOff (h : Kept κ s₀ s) (hκ : Off κ [.cores]) :
    Kept κ s₀ (State.serveOff s) := by
  unfold State.serveOff
  try dsimp only
  repeat' first
    | with_reducible assumption
    | exact hκ.sub (by decide)
    | with_reducible apply kept_putCore
    | with_reducible apply kept_foldl
    | with_reducible intro _ _ _ _
    | with_reducible intro _ _ _
    | with_reducible intro _ _
    | split

theorem kept_leaveQueue (h : Kept κ s₀ s) (hκ : Off κ [.regs, .pge, .mzt, .cores, .phs, .fab, .hcp, .evt, .out]) (a0 : MztQueued) :
    Kept κ s₀ (State.leaveQueue s a0) := by
  unfold State.leaveQueue
  try dsimp only
  repeat' first
    | with_reducible assumption
    | exact hκ.sub (by decide)
    | with_reducible apply kept_setQueue
    | with_reducible apply kept_settlePages
    | with_reducible apply kept_serveOff
    | with_reducible intro _ _ _ _
    | with_reducible intro _ _ _
    | with_reducible intro _ _
    | split

theorem kept_mztBegin (h : Kept κ s₀ s) (hκ : Off κ [.mem, .regs, .rse, .pge, .mzt, .cores, .sch, .phs, .fab, .xfr, .syn, .hcp, .evt, .out]) (a0 : ℕ) :
    Kept κ s₀ (State.mztBegin s a0) := by
  induction a0 generalizing s with
  | zero =>
    unfold State.mztBegin
    try dsimp only
    repeat' first
      | with_reducible assumption
      | exact hκ.sub (by decide)
      | with_reducible apply kept_refuseQuery
      | with_reducible apply kept_leaveQueue
      | with_reducible apply kept_recallNeeded
      | with_reducible apply kept_onMzt
      | with_reducible apply kept_serveOn
      | with_reducible intro _ _ _ _
      | with_reducible intro _ _ _
      | with_reducible intro _ _
      | split
  | succ n_ ih =>
    unfold State.mztBegin
    try dsimp only
    repeat' first
      | with_reducible assumption
      | with_reducible apply ih
      | exact hκ.sub (by decide)
      | with_reducible apply kept_refuseQuery
      | with_reducible apply kept_leaveQueue
      | with_reducible apply kept_recallNeeded
      | with_reducible apply kept_onMzt
      | with_reducible apply kept_serveOn
      | with_reducible intro _ _ _ _
      | with_reducible intro _ _ _
      | with_reducible intro _ _
      | split

theorem kept_mztQuery (h : Kept κ s₀ s) (hκ : Off κ [.mem, .regs, .rse, .pge, .mzt, .cores, .sch, .phs, .fab, .xfr, .syn, .hcp, .evt, .out]) (src : ℕ) (q : MztMsg) :
    Kept κ s₀ (State.mztQuery s src q) := by
  unfold State.mztQuery
  try dsimp only
  repeat' first
    | with_reducible assumption
    | exact hκ.sub (by decide)
    | with_reducible apply kept_bump
    | with_reducible apply kept_nakMsg
    | with_reducible apply kept_onPhs
    | with_reducible apply kept_refuseQuery
    | with_reducible apply kept_holderEpoch
    | with_reducible apply kept_onMzt
    | with_reducible apply kept_recallNeeded
    | with_reducible apply kept_mztBegin
    | with_reducible intro _ _ _ _
    | with_reducible intro _ _ _
    | with_reducible intro _ _
    | split
    | dsimp only [itself]
    | refine OptKept.getD (f := itself) ?_ ?_
    | refine OptKept.get_id ?_ (by with_reducible assumption)

theorem kept_keepMsg (h : Kept κ s₀ s) (hκ : Off κ [.fab]) (src : ℕ) (m : Msg) :
    Kept κ s₀ (State.keepMsg s src m) := by
  unfold State.keepMsg
  try dsimp only
  repeat' first
    | with_reducible assumption
    | exact hκ.sub (by decide)
    | with_reducible apply kept_deliver
    | with_reducible intro _ _ _ _
    | with_reducible intro _ _ _
    | with_reducible intro _ _
    | split

theorem kept_execMztQuery (h : Kept κ s₀ s) (hκ : Off κ [.mem, .regs, .rse, .pge, .mzt, .cores, .sch, .phs, .fab, .xfr, .syn, .hcp, .evt, .out]) (src : ℕ) (m : MztMsg) :
    OutKept κ s₀ (execMztQuery src m s) := by
  unfold execMztQuery
  try dsimp only
  repeat' first
    | with_reducible assumption
    | exact hκ.sub (by decide)
    | with_reducible apply kept_mztQuery
    | with_reducible apply kept_takeMsg
    | with_reducible apply kept_keepMsg
    | with_reducible apply OutKept.next
    | with_reducible intro _ _ _ _
    | with_reducible intro _ _ _
    | with_reducible intro _ _
    | split

theorem kept_touchRead (h : Kept κ s₀ s) (hκ : Off κ [.pge]) (q : MztMsg) (ps : List Page) :
    Kept κ s₀ (State.touchRead s q ps) := by
  unfold State.touchRead
  try dsimp only
  repeat' first
    | with_reducible assumption
    | exact hκ.sub (by decide)
    | with_reducible apply kept_onPge
    | with_reducible intro _ _ _ _
    | with_reducible intro _ _ _
    | with_reducible intro _ _
    | split

theorem kept_serveFault (h : Kept κ s₀ s) (hκ : Off κ [.mem, .regs, .rse, .pge, .mzt, .cores, .sch, .phs, .fab, .xfr, .syn, .hcp, .evt, .out]) (a0 : MztQueued) (bad : List Page) :
    Kept κ s₀ (State.serveFault s a0 bad) := by
  unfold State.serveFault
  try dsimp only
  repeat' first
    | with_reducible assumption
    | exact hκ.sub (by decide)
    | with_reducible apply kept_loseTogether
    | with_reducible apply kept_setFresh
    | with_reducible apply kept_coreFault
    | with_reducible apply kept_refuseQuery
    | with_reducible intro _ _ _ _
    | with_reducible intro _ _ _
    | with_reducible intro _ _
    | split

theorem kept_serveQuery (h : Kept κ s₀ s) (hκ : Off κ [.mem, .regs, .rse, .pge, .mzt, .cores, .sch, .phs, .fab, .xfr, .syn, .hcp, .evt, .out]) (a0 : MztQueued) (ps : List Page) :
    Kept κ s₀ (State.serveQuery s a0 ps) := by
  unfold State.serveQuery
  try dsimp only
  repeat' first
    | with_reducible assumption
    | exact hκ.sub (by decide)
    | with_reducible apply kept_refuseQuery
    | with_reducible apply kept_setFresh
    | with_reducible apply kept_arith
    | with_reducible apply kept_sendMsg
    | with_reducible apply kept_count
    | with_reducible apply kept_bump
    | with_reducible apply kept_touchRead
    | with_reducible apply kept_serveFault
    | with_reducible intro _ _ _ _
    | with_reducible intro _ _ _
    | with_reducible intro _ _
    | split

theorem kept_mztAnswered (h : Kept κ s₀ s) (hκ : Off κ [.mem, .regs, .rse, .pge, .mzt, .cores, .sch, .phs, .fab, .xfr, .syn, .hcp, .evt, .out]) (a0 : MztQueued) :
    Kept κ s₀ (State.mztAnswered s a0) := by
  unfold State.mztAnswered
  try dsimp only
  repeat' first
    | with_reducible assumption
    | exact hκ.sub (by decide)
    | with_reducible apply kept_mztBegin
    | with_reducible apply kept_leaveQueue
    | with_reducible intro _ _ _ _
    | with_reducible intro _ _ _
    | with_reducible intro _ _
    | split

theorem kept_execMztQueryDone (h : Kept κ s₀ s) (hκ : Off κ [.mem, .regs, .rse, .pge, .mzt, .cores, .sch, .phs, .fab, .xfr, .syn, .hcp, .evt, .out])  :
    OutKept κ s₀ (execMztQueryDone s) := by
  unfold execMztQueryDone
  try dsimp only
  repeat' first
    | with_reducible assumption
    | exact hκ.sub (by decide)
    | with_reducible apply kept_serveQuery
    | with_reducible apply kept_mztAnswered
    | with_reducible apply kept_mztBegin
    | with_reducible apply OutKept.next
    | with_reducible intro _ _ _ _
    | with_reducible intro _ _ _
    | with_reducible intro _ _
    | split

theorem kept_kvWrite (h : Kept κ s₀ s) (hκ : Off κ [.mem, .regs, .rse, .pge, .mzt, .cores, .sch, .phs, .fab, .xfr, .syn, .hcp, .evt, .out]) (src : ℕ) (m : MztMsg) :
    Kept κ s₀ (State.kvWrite s src m) := by
  unfold State.kvWrite
  try dsimp only
  repeat' first
    | with_reducible assumption
    | exact hκ.sub (by decide)
    | with_reducible apply kept_bump
    | with_reducible apply kept_nakMsg
    | with_reducible apply kept_onPhs
    | with_reducible apply kept_holderEpoch
    | with_reducible apply kept_sendKvAck
    | with_reducible apply kept_recallHeld
    | with_reducible apply kept_wr
    | with_reducible apply kept_putPage
    | with_reducible apply kept_sendParity
    | with_reducible apply kept_onFab
    | with_reducible intro _ _ _ _
    | with_reducible intro _ _ _
    | with_reducible intro _ _
    | split
    | dsimp only [itself]
    | refine OptKept.getD (f := itself) ?_ ?_
    | refine OptKept.get_id ?_ (by with_reducible assumption)

theorem kept_execMztKvWrite (h : Kept κ s₀ s) (hκ : Off κ [.mem, .regs, .rse, .pge, .mzt, .cores, .sch, .phs, .fab, .xfr, .syn, .hcp, .evt, .out]) (src : ℕ) (m : MztMsg) :
    OutKept κ s₀ (execMztKvWrite src m s) := by
  unfold execMztKvWrite
  try dsimp only
  repeat' first
    | with_reducible assumption
    | exact hκ.sub (by decide)
    | with_reducible apply kept_kvWrite
    | with_reducible apply kept_takeMsg
    | with_reducible apply kept_keepMsg
    | with_reducible apply OutKept.next
    | with_reducible intro _ _ _ _
    | with_reducible intro _ _ _
    | with_reducible intro _ _
    | split

theorem kept_dropOut (h : Kept κ s₀ s) (hκ : Off κ [.mzt]) (o : MztOut) :
    Kept κ s₀ (State.dropOut s o) := by
  unfold State.dropOut
  try dsimp only
  repeat' first
    | with_reducible assumption
    | exact hκ.sub (by decide)
    | with_reducible apply kept_onMzt
    | with_reducible intro _ _ _ _
    | with_reducible intro _ _ _
    | with_reducible intro _ _
    | split

theorem kept_putRecords (h : Kept κ s₀ s) (hκ : Off κ [.mem]) (o : MztOut) (payload : List Sys2Proof.Byte) :
    Kept κ s₀ (State.putRecords s o payload) := by
  unfold State.putRecords
  try dsimp only
  repeat' first
    | with_reducible assumption
    | exact hκ.sub (by decide)
    | with_reducible apply kept_obWrite
    | with_reducible apply kept_foldl
    | with_reducible intro _ _ _ _
    | with_reducible intro _ _ _
    | with_reducible intro _ _
    | split

theorem kept_mztStale (h : Kept κ s₀ s) (hκ : Off κ [.mem, .regs, .rse, .mzt, .cores, .sch, .fab, .syn, .hcp, .out]) (id : ℕ) :
    Kept κ s₀ (State.mztStale s id) := by
  unfold State.mztStale
  try dsimp only
  repeat' first
    | with_reducible assumption
    | exact hκ.sub (by decide)
    | with_reducible apply kept_mztNext
    | with_reducible apply kept_query
    | with_reducible apply kept_dropStep
    | with_reducible intro _ _ _ _
    | with_reducible intro _ _ _
    | with_reducible intro _ _
    | split

theorem kept_mztRefused (h : Kept κ s₀ s) (hκ : Off κ [.mem, .regs, .rse, .pge, .mzt, .cores, .sch, .phs, .fab, .xfr, .syn, .hcp, .evt, .out]) (o : MztOut) (st : St) :
    Kept κ s₀ (State.mztRefused s o st) := by
  unfold State.mztRefused
  try dsimp only
  repeat' first
    | with_reducible assumption
    | exact hκ.sub (by decide)
    | with_reducible apply kept_mztStale
    | with_reducible apply kept_mztNext
    | with_reducible apply kept_mztFail
    | with_reducible apply kept_loseTogether
    | with_reducible intro _ _ _ _
    | with_reducible intro _ _ _
    | with_reducible intro _ _
    | split

theorem kept_mztPartial (h : Kept κ s₀ s) (hκ : Off κ [.mem, .regs, .rse, .pge, .mzt, .cores, .sch, .phs, .fab, .xfr, .syn, .hcp, .evt, .out]) (src : ℕ) (m : MztMsg) :
    Kept κ s₀ (State.mztPartial s src m) := by
  unfold State.mztPartial
  try dsimp only
  repeat' first
    | with_reducible assumption
    | exact hκ.sub (by decide)
    | with_reducible apply kept_bump
    | with_reducible apply kept_mztNext
    | with_reducible apply kept_putRecords
    | with_reducible apply kept_dropOut
    | with_reducible apply kept_onMzt
    | with_reducible apply kept_mztRefused
    | with_reducible intro _ _ _ _
    | with_reducible intro _ _ _
    | with_reducible intro _ _
    | split

theorem kept_execMztPartial (h : Kept κ s₀ s) (hκ : Off κ [.mem, .regs, .rse, .pge, .mzt, .cores, .sch, .phs, .fab, .xfr, .syn, .hcp, .evt, .out]) (src : ℕ) (m : MztMsg) :
    OutKept κ s₀ (execMztPartial src m s) := by
  unfold execMztPartial
  try dsimp only
  repeat' first
    | with_reducible assumption
    | exact hκ.sub (by decide)
    | with_reducible apply kept_mztPartial
    | with_reducible apply kept_takeMsg
    | with_reducible apply OutKept.next
    | with_reducible intro _ _ _ _
    | with_reducible intro _ _ _
    | with_reducible intro _ _
    | split

theorem kept_mztAck (h : Kept κ s₀ s) (hκ : Off κ [.mem, .regs, .rse, .pge, .mzt, .cores, .sch, .phs, .fab, .xfr, .syn, .hcp, .evt, .out]) (src : ℕ) (m : MztMsg) :
    Kept κ s₀ (State.mztAck s src m) := by
  unfold State.mztAck
  try dsimp only
  repeat' first
    | with_reducible assumption
    | exact hκ.sub (by decide)
    | with_reducible apply kept_bump
    | with_reducible apply kept_mztNext
    | with_reducible apply kept_dropOut
    | with_reducible apply kept_mztRefused
    | with_reducible apply kept_tryCommit
    | with_reducible intro _ _ _ _
    | with_reducible intro _ _ _
    | with_reducible intro _ _
    | split

theorem kept_execMztKvAck (h : Kept κ s₀ s) (hκ : Off κ [.mem, .regs, .rse, .pge, .mzt, .cores, .sch, .phs, .fab, .xfr, .syn, .hcp, .evt, .out]) (src : ℕ) (m : MztMsg) :
    OutKept κ s₀ (execMztKvAck src m s) := by
  unfold execMztKvAck
  try dsimp only
  repeat' first
    | with_reducible assumption
    | exact hκ.sub (by decide)
    | with_reducible apply kept_mztAck
    | with_reducible apply kept_takeMsg
    | with_reducible apply OutKept.next
    | with_reducible intro _ _ _ _
    | with_reducible intro _ _ _
    | with_reducible intro _ _
    | split

theorem kept_execMztBusyRetryExpiry (h : Kept κ s₀ s) (hκ : Off κ [.regs, .mzt, .cores, .fab, .syn, .hcp, .out]) (tag : ℕ) :
    OutKept κ s₀ (execMztBusyRetryExpiry tag s) := by
  unfold execMztBusyRetryExpiry
  try dsimp only
  repeat' first
    | with_reducible assumption
    | exact hκ.sub (by decide)
    | with_reducible apply kept_mztNext
    | with_reducible apply kept_onMzt
    | with_reducible apply kept_bump
    | with_reducible apply kept_dropOut
    | with_reducible apply OutKept.next
    | with_reducible intro _ _ _ _
    | with_reducible intro _ _ _
    | with_reducible intro _ _
    | split

theorem kept_execMztPartialTimeout (h : Kept κ s₀ s) (hκ : Off κ [.mem, .regs, .rse, .pge, .mzt, .cores, .sch, .phs, .fab, .xfr, .syn, .hcp, .evt, .out]) (tag : ℕ) :
    OutKept κ s₀ (execMztPartialTimeout tag s) := by
  unfold execMztPartialTimeout
  try dsimp only
  repeat' first
    | with_reducible assumption
    | exact hκ.sub (by decide)
    | with_reducible apply kept_mztFail
    | with_reducible apply kept_holderLost
    | with_reducible apply OutKept.next
    | with_reducible intro _ _ _ _
    | with_reducible intro _ _ _
    | with_reducible intro _ _
    | split

theorem kept_mztNodeLost (h : Kept κ s₀ s) (hκ : Off κ [.mem, .regs, .rse, .pge, .mzt, .cores, .sch, .phs, .fab, .xfr, .syn, .hcp, .evt, .out]) (n : ℕ) :
    Kept κ s₀ (State.mztNodeLost s n) := by
  unfold State.mztNodeLost
  try dsimp only
  repeat' first
    | with_reducible assumption
    | exact hκ.sub (by decide)
    | with_reducible apply kept_mztFail
    | with_reducible apply kept_foldl
    | with_reducible intro _ _ _ _
    | with_reducible intro _ _ _
    | with_reducible intro _ _
    | split

theorem kept_mztCtrlWrite (h : Kept κ s₀ s) (hκ : Off κ [.regs]) (value : ℕ) :
    Kept κ s₀ (State.mztCtrlWrite s value).1 := by
  unfold State.mztCtrlWrite
  try dsimp only
  repeat' first
    | with_reducible assumption
    | exact hκ.sub (by decide)
    | with_reducible apply kept_writeRw
    | with_reducible intro _ _ _ _
    | with_reducible intro _ _ _
    | with_reducible intro _ _
    | split

theorem kept_execMztCtrlWrite (h : Kept κ s₀ s) (hκ : Off κ [.regs]) (value : ℕ) :
    OutKept κ s₀ (execMztCtrlWrite value s) := by
  unfold execMztCtrlWrite
  try dsimp only
  repeat' first
    | with_reducible assumption
    | exact hκ.sub (by decide)
    | with_reducible apply kept_mztCtrlWrite
    | with_reducible apply OutKept.next
    | with_reducible intro _ _ _ _
    | with_reducible intro _ _ _
    | with_reducible intro _ _
    | split
    | dsimp only [itself]
    | refine Kept.of_fst ?_ (by with_reducible assumption)

theorem kept_mztCoresWrite (h : Kept κ s₀ s) (hκ : Off κ [.regs]) (hi : Bool) (value : ℕ) :
    Kept κ s₀ (State.mztCoresWrite s hi value).1 := by
  unfold State.mztCoresWrite
  try dsimp only
  repeat' first
    | with_reducible assumption
    | exact hκ.sub (by decide)
    | with_reducible apply kept_writeRw
    | with_reducible intro _ _ _ _
    | with_reducible intro _ _ _
    | with_reducible intro _ _
    | split

theorem kept_execMztCoresWrite (h : Kept κ s₀ s) (hκ : Off κ [.regs]) (hi : Bool) (value : ℕ) :
    OutKept κ s₀ (execMztCoresWrite hi value s) := by
  unfold execMztCoresWrite
  try dsimp only
  repeat' first
    | with_reducible assumption
    | exact hκ.sub (by decide)
    | with_reducible apply kept_mztCoresWrite
    | with_reducible apply OutKept.next
    | with_reducible intro _ _ _ _
    | with_reducible intro _ _ _
    | with_reducible intro _ _
    | split
    | dsimp only [itself]
    | refine Kept.of_fst ?_ (by with_reducible assumption)

theorem kept_mztConfigWrite (h : Kept κ s₀ s) (hκ : Off κ [.regs]) (addr : ℕ) (value : ℕ) :
    Kept κ s₀ (State.mztConfigWrite s addr value).1 := by
  unfold State.mztConfigWrite
  try dsimp only
  repeat' first
    | with_reducible assumption
    | exact hκ.sub (by decide)
    | with_reducible apply kept_writeRw
    | with_reducible intro _ _ _ _
    | with_reducible intro _ _ _
    | with_reducible intro _ _
    | split

theorem kept_execMztConfigWrite (h : Kept κ s₀ s) (hκ : Off κ [.regs]) (addr : ℕ) (value : ℕ) :
    OutKept κ s₀ (execMztConfigWrite addr value s) := by
  unfold execMztConfigWrite
  try dsimp only
  repeat' first
    | with_reducible assumption
    | exact hκ.sub (by decide)
    | with_reducible apply kept_mztConfigWrite
    | with_reducible apply OutKept.next
    | with_reducible intro _ _ _ _
    | with_reducible intro _ _ _
    | with_reducible intro _ _
    | split
    | dsimp only [itself]
    | refine Kept.of_fst ?_ (by with_reducible assumption)

end Sys2Proof.Machine
end

