-- ==== Sys2Proof/Laws/KeptPlace.lean ====
section
/-! SUPPORT. What the operations of Machine/Place.lean keep (see Laws/Kept.lean). -/

namespace Sys2Proof.Machine

variable {κ : Part → Bool} {s₀ s : State}

theorem kept_offer (h : Kept κ s₀ s) (hκ : Off κ [.regs, .rse, .fab, .hcp, .out]) (h_ : HomeRec) (target : ℕ) :
    Kept κ s₀ (State.offer s h_ target) := by
  unfold State.offer
  try dsimp only
  repeat' first
    | with_reducible assumption
    | exact hκ.sub (by decide)
    | with_reducible apply kept_sendMsg
    | with_reducible apply kept_putHome
    | with_reducible intro _ _ _ _
    | with_reducible intro _ _ _
    | with_reducible intro _ _
    | split

theorem kept_pickPlace (h : Kept κ s₀ s) (hκ : Off κ [.regs]) (qs : List ℕ) (a0 : ℕ) (a1 : RrPos) :
    Kept κ s₀ (State.pickPlace s qs a0 a1).2.2 := by
  induction a0 generalizing s qs a1 with
  | zero =>
    unfold State.pickPlace
    try dsimp only
    repeat' first
      | with_reducible assumption
      | exact hκ.sub (by decide)
      | with_reducible apply kept_addQuantum
      | with_reducible apply kept_setReg
      | with_reducible intro _ _ _ _
      | with_reducible intro _ _ _
      | with_reducible intro _ _
      | split
      | dsimp only [itself]
      | refine Kept.of_snd ?_ (by with_reducible assumption)
      | exact OptKept.none
      | with_reducible apply OptKept.some
  | succ n_ ih =>
    unfold State.pickPlace
    try dsimp only
    repeat' first
      | with_reducible assumption
      | with_reducible apply ih
      | exact hκ.sub (by decide)
      | with_reducible apply kept_addQuantum
      | with_reducible apply kept_setReg
      | with_reducible intro _ _ _ _
      | with_reducible intro _ _ _
      | with_reducible intro _ _
      | split
      | dsimp only [itself]
      | refine Kept.of_snd ?_ (by with_reducible assumption)
      | exact OptKept.none
      | with_reducible apply OptKept.some

theorem kept_rebaseStale (h : Kept κ s₀ s) (hκ : Off κ [.regs, .rse, .pge, .sch, .fab, .hcp, .evt, .out])  :
    Kept κ s₀ (State.rebaseStale s) := by
  unfold State.rebaseStale
  try dsimp only
  repeat' first
    | with_reducible assumption
    | exact hκ.sub (by decide)
    | with_reducible apply kept_rebase
    | with_reducible apply kept_foldl
    | with_reducible intro _ _ _ _
    | with_reducible intro _ _ _
    | with_reducible intro _ _
    | split

theorem kept_pickClass (h : Kept κ s₀ s) (hκ : Off κ [.regs, .sch]) (lc : Bool) :
    Kept κ s₀ (State.pickClass s lc).2 := by
  unfold State.pickClass
  try dsimp only
  repeat' first
    | with_reducible assumption
    | exact hκ.sub (by decide)
    | with_reducible apply kept_pickPlace
    | with_reducible apply kept_onSch
    | with_reducible intro _ _ _ _
    | with_reducible intro _ _ _
    | with_reducible intro _ _
    | split
    | dsimp only [itself]
    | refine Kept.of_third ?_ (by with_reducible assumption)
    | refine Kept.of_snd ?_ (by with_reducible assumption)

theorem kept_offerNext (h : Kept κ s₀ s) (hκ : Off κ [.regs, .rse, .fab, .hcp, .out]) (h_ : HomeRec) :
    Kept κ s₀ (State.offerNext s h_) := by
  unfold State.offerNext
  try dsimp only
  repeat' first
    | with_reducible assumption
    | exact hκ.sub (by decide)
    | with_reducible apply kept_offer
    | with_reducible intro _ _ _ _
    | with_reducible intro _ _ _
    | with_reducible intro _ _
    | split

theorem kept_placeNext (h : Kept κ s₀ s) (hκ : Off κ [.regs, .rse, .sch, .fab, .hcp, .out])  :
    Kept κ s₀ (State.placeNext s) := by
  unfold State.placeNext
  try dsimp only
  repeat' first
    | with_reducible assumption
    | exact hκ.sub (by decide)
    | with_reducible apply kept_pickClass
    | with_reducible apply kept_offerNext
    | with_reducible intro _ _ _ _
    | with_reducible intro _ _ _
    | with_reducible intro _ _
    | split
    | dsimp only [itself]
    | refine Kept.of_snd ?_ (by with_reducible assumption)

theorem kept_execPlacementOffer (h : Kept κ s₀ s) (hκ : Off κ [.regs, .rse, .pge, .sch, .fab, .hcp, .evt, .out])  :
    OutKept κ s₀ (execPlacementOffer s) := by
  unfold execPlacementOffer
  try dsimp only
  repeat' first
    | with_reducible assumption
    | exact hκ.sub (by decide)
    | with_reducible apply kept_placeNext
    | with_reducible apply kept_rebaseStale
    | with_reducible apply OutKept.next
    | with_reducible intro _ _ _ _
    | with_reducible intro _ _ _
    | with_reducible intro _ _
    | split

theorem kept_execRefuseHoldExpiry (h : Kept κ s₀ s) (hκ : Off κ [.sch]) (node : ℕ) :
    OutKept κ s₀ (execRefuseHoldExpiry node s) := by
  unfold execRefuseHoldExpiry
  try dsimp only
  repeat' first
    | with_reducible assumption
    | exact hκ.sub (by decide)
    | with_reducible apply kept_onSch
    | with_reducible apply OutKept.next
    | with_reducible intro _ _ _ _
    | with_reducible intro _ _ _
    | with_reducible intro _ _
    | split

theorem kept_turnDisposal (h : Kept κ s₀ s) (hκ : Off κ [.regs, .rse, .fab, .hcp, .out]) (w : Work) :
    Kept κ s₀ (State.turnDisposal s w).1 := by
  unfold State.turnDisposal
  try dsimp only
  repeat' first
    | with_reducible assumption
    | exact hκ.sub (by decide)
    | with_reducible apply kept_askHandback
    | with_reducible intro _ _ _ _
    | with_reducible intro _ _ _
    | with_reducible intro _ _
    | split
    | dsimp only [itself]
    | refine Kept.of_fst ?_ (by with_reducible assumption)

theorem kept_disposal (h : Kept κ s₀ s) (hκ : Off κ [.regs, .rse, .fab, .hcp, .out]) (w : Work) :
    Kept κ s₀ (State.disposal s w).1 := by
  unfold State.disposal
  try dsimp only
  repeat' first
    | with_reducible assumption
    | exact hκ.sub (by decide)
    | with_reducible apply kept_turnDisposal
    | with_reducible intro _ _ _ _
    | with_reducible intro _ _ _
    | with_reducible intro _ _
    | split
    | dsimp only [itself]
    | refine Kept.of_fst ?_ (by with_reducible assumption)

theorem kept_execMoveStart (h : Kept κ s₀ s) (hκ : Off κ [.mem, .regs, .rse, .pge, .mzt, .cores, .sch, .phs, .fab, .xfr, .syn, .hcp, .evt, .out]) (id : ℕ) :
    OutKept κ s₀ (execMoveStart id s) := by
  unfold execMoveStart
  try dsimp only
  repeat' first
    | with_reducible assumption
    | exact hκ.sub (by decide)
    | with_reducible apply kept_beginMove
    | with_reducible apply kept_checkCopy
    | with_reducible apply kept_disposal
    | with_reducible apply kept_putWork
    | with_reducible apply OutKept.next
    | with_reducible intro _ _ _ _
    | with_reducible intro _ _ _
    | with_reducible intro _ _
    | split
    | dsimp only [itself]
    | refine Kept.of_fst ?_ (by with_reducible assumption)

end Sys2Proof.Machine
end

