-- ==== Sys2Proof/Laws/KeptPrayr.lean ====
section
/-! SUPPORT. What the operations of Machine/Prayr.lean keep (see Laws/Kept.lean). -/

namespace Sys2Proof.Machine

variable {κ : Part → Bool} {s₀ s : State}

theorem kept_putMeter (h : Kept κ s₀ s) (hκ : Off κ [.hcp]) (m : Meter) :
    Kept κ s₀ (State.putMeter s m) := by
  unfold State.putMeter
  try dsimp only
  repeat' first
    | with_reducible assumption
    | exact hκ.sub (by decide)
    | with_reducible apply kept_onHcp
    | with_reducible intro _ _ _ _
    | with_reducible intro _ _ _
    | with_reducible intro _ _
    | split

theorem kept_up32 (h : Kept κ s₀ s) (v : ℕ) :
    Kept κ s₀ (State.up32 s v).2 := by
  unfold State.up32
  try dsimp only
  repeat' first
    | with_reducible assumption
    | with_reducible apply kept_next
    | with_reducible intro _ _ _ _
    | with_reducible intro _ _ _
    | with_reducible intro _ _
    | split
    | dsimp only [itself]
    | refine Kept.of_snd ?_ (by with_reducible assumption)

theorem kept_redDrop (h : Kept κ s₀ s) (hκ : Off κ [.regs, .fab, .hcp, .evt, .out]) (m : Meter) :
    Kept κ s₀ (State.redDrop s m) := by
  unfold State.redDrop
  try dsimp only
  repeat' first
    | with_reducible assumption
    | exact hκ.sub (by decide)
    | with_reducible apply kept_up32
    | with_reducible apply kept_bump
    | with_reducible apply kept_putMeter
    | with_reducible apply kept_post
    | with_reducible intro _ _ _ _
    | with_reducible intro _ _ _
    | with_reducible intro _ _
    | split
    | dsimp only [itself]
    | refine Kept.of_snd ?_ (by with_reducible assumption)

theorem kept_police (h : Kept κ s₀ s) (hκ : Off κ [.regs, .fab, .hcp, .evt, .out]) (tenant : ℕ) (size : ℕ) (fast : Bool) :
    Kept κ s₀ (State.police s tenant size fast).2 := by
  unfold State.police
  try dsimp only
  repeat' first
    | with_reducible assumption
    | exact hκ.sub (by decide)
    | with_reducible apply kept_up32
    | with_reducible apply kept_putMeter
    | with_reducible apply kept_redDrop
    | with_reducible intro _ _ _ _
    | with_reducible intro _ _ _
    | with_reducible intro _ _
    | split
    | dsimp only [itself]
    | refine Kept.of_snd ?_ (by with_reducible assumption)

theorem kept_screen (h : Kept κ s₀ s) (hκ : Off κ [.regs, .fab, .hcp, .evt, .out]) (p : HostPkt) (fast : Bool) :
    Kept κ s₀ (State.screen s p fast).2 := by
  unfold State.screen
  try dsimp only
  repeat' first
    | with_reducible assumption
    | exact hκ.sub (by decide)
    | with_reducible apply kept_bump
    | with_reducible apply kept_police
    | with_reducible intro _ _ _ _
    | with_reducible intro _ _ _
    | with_reducible intro _ _
    | split
    | dsimp only [itself]
    | refine Kept.of_snd ?_ (by with_reducible assumption)
    | exact OptKept.none
    | with_reducible apply OptKept.some

theorem kept_rejectPkt (h : Kept κ s₀ s) (hκ : Off κ [.hcp, .out]) (p : HostPkt) (op : ℕ) (version : ℕ) (st : St) (payload : List Sys2Proof.Byte) :
    Kept κ s₀ (State.rejectPkt s p op version st payload) := by
  unfold State.rejectPkt
  try dsimp only
  repeat' first
    | with_reducible assumption
    | exact hκ.sub (by decide)
    | with_reducible apply kept_hostSend
    | with_reducible intro _ _ _ _
    | with_reducible intro _ _ _
    | with_reducible intro _ _
    | split

theorem kept_unseen (h : Kept κ s₀ s) (hκ : Off κ [.regs, .fab, .hcp, .evt, .out]) (p : HostPkt) (fast : Bool) :
    Kept κ s₀ (State.unseen s p fast).2 := by
  unfold State.unseen
  try dsimp only
  repeat' first
    | with_reducible assumption
    | exact hκ.sub (by decide)
    | with_reducible apply kept_screen
    | with_reducible apply kept_hostSend
    | with_reducible apply kept_bump
    | with_reducible intro _ _ _ _
    | with_reducible intro _ _ _
    | with_reducible intro _ _
    | split
    | dsimp only [itself]
    | refine Kept.of_snd ?_ (by with_reducible assumption)

theorem kept_prayrFront (h : Kept κ s₀ s) (hκ : Off κ [.regs, .fab, .hcp, .evt, .out]) (p : HostPkt) (op : ℕ) (fast : Bool) :
    Kept κ s₀ (State.prayrFront s p op fast).2 := by
  unfold State.prayrFront
  try dsimp only
  repeat' first
    | with_reducible assumption
    | exact hκ.sub (by decide)
    | with_reducible apply kept_rejectPkt
    | with_reducible apply kept_unseen
    | with_reducible intro _ _ _ _
    | with_reducible intro _ _ _
    | with_reducible intro _ _
    | split
    | dsimp only [itself]
    | refine Kept.of_snd ?_ (by with_reducible assumption)
    | exact OptKept.none
    | with_reducible apply OptKept.some

theorem kept_prayr (h : Kept κ s₀ s) (hκ : Off κ [.regs, .fab, .hcp, .evt, .out]) (p : HostPkt) (op : ℕ) (fast : Bool) (admin : Bool) (serves : Bool) (ok : Bool) (run : ℕ → State → State) (hf : ∀ n u, Kept κ s₀ u → Kept κ s₀ (run n u)) :
    Kept κ s₀ (State.prayr s p op fast admin serves ok run) := by
  unfold State.prayr
  try dsimp only
  repeat' first
    | with_reducible assumption
    | exact hκ.sub (by decide)
    | with_reducible apply kept_prayrFront
    | with_reducible apply kept_rejectPkt
    | with_reducible apply kept_bump
    | with_reducible apply kept_onHcp
    | with_reducible intro _ _ _ _
    | with_reducible intro _ _ _
    | with_reducible intro _ _
    | split
    | dsimp only [itself]
    | refine Kept.of_snd ?_ (by with_reducible assumption)
    | with_reducible apply hf

theorem kept_prayrBad (h : Kept κ s₀ s) (hκ : Off κ [.regs, .fab, .hcp, .evt, .out]) (p : HostPkt) (op : ℕ) :
    Kept κ s₀ (State.prayrBad s p op) := by
  unfold State.prayrBad
  try dsimp only
  repeat' first
    | with_reducible assumption
    | exact hκ.sub (by decide)
    | with_reducible apply kept_prayrFront
    | with_reducible apply kept_rejectPkt
    | with_reducible intro _ _ _ _
    | with_reducible intro _ _ _
    | with_reducible intro _ _
    | split
    | dsimp only [itself]
    | refine Kept.of_snd ?_ (by with_reducible assumption)

end Sys2Proof.Machine
end

