-- ==== Sys2Proof/Laws/KeptHostCmds.lean ====
section
/-! SUPPORT. What the operations of Machine/HostCmds.lean keep (see Laws/Kept.lean). -/

namespace Sys2Proof.Machine

variable {κ : Part → Bool} {s₀ s : State}

theorem kept_execPrayrNop (h : Kept κ s₀ s) (hκ : Off κ [.regs, .fab, .hcp, .evt, .out]) (p : HostPkt) (data : List Sys2Proof.Byte) :
    OutKept κ s₀ (execPrayrNop p data s) := by
  unfold execPrayrNop
  try dsimp only
  repeat' first
    | with_reducible assumption
    | exact hκ.sub (by decide)
    | with_reducible apply kept_prayr
    | with_reducible apply kept_hostReply
    | with_reducible apply OutKept.next
    | with_reducible intro _ _ _ _
    | with_reducible intro _ _ _
    | with_reducible intro _ _
    | split

theorem kept_execCaps (h : Kept κ s₀ s) (hκ : Off κ [.regs, .fab, .hcp, .evt, .out]) (p : HostPkt) :
    OutKept κ s₀ (execCaps p s) := by
  unfold execCaps
  try dsimp only
  repeat' first
    | with_reducible assumption
    | exact hκ.sub (by decide)
    | with_reducible apply kept_prayr
    | with_reducible apply kept_hostReply
    | with_reducible apply OutKept.next
    | with_reducible intro _ _ _ _
    | with_reducible intro _ _ _
    | with_reducible intro _ _
    | split

theorem kept_execPrayrBadOpcode (h : Kept κ s₀ s) (hκ : Off κ [.regs, .fab, .hcp, .evt, .out]) (p : HostPkt) (opcode : ℕ) :
    OutKept κ s₀ (execPrayrBadOpcode p opcode s) := by
  unfold execPrayrBadOpcode
  try dsimp only
  repeat' first
    | with_reducible assumption
    | exact hκ.sub (by decide)
    | with_reducible apply kept_prayrBad
    | with_reducible apply OutKept.next
    | with_reducible intro _ _ _ _
    | with_reducible intro _ _ _
    | with_reducible intro _ _
    | split

theorem kept_execReplyCacheExpiry (h : Kept κ s₀ s) (hκ : Off κ [.hcp]) (key : ReqKey) :
    OutKept κ s₀ (execReplyCacheExpiry key s) := by
  unfold execReplyCacheExpiry
  try dsimp only
  repeat' first
    | with_reducible assumption
    | exact hκ.sub (by decide)
    | with_reducible apply kept_onHcp
    | with_reducible apply OutKept.next
    | with_reducible intro _ _ _ _
    | with_reducible intro _ _ _
    | with_reducible intro _ _
    | split

theorem kept_forwardCommand (h : Kept κ s₀ s) (hκ : Off κ [.regs, .fab, .hcp, .out]) (c : FwdCmd) (tenant : ℕ) (ref : ℕ) (n : ℕ) (failed : Option St) :
    Kept κ s₀ (State.forwardCommand s c tenant ref n failed) := by
  unfold State.forwardCommand
  try dsimp only
  repeat' first
    | with_reducible assumption
    | exact hκ.sub (by decide)
    | with_reducible apply kept_sendMsg
    | with_reducible apply kept_onHcp
    | with_reducible intro _ _ _ _
    | with_reducible intro _ _ _
    | with_reducible intro _ _
    | split

theorem kept_toDeputy (h : Kept κ s₀ s) (hκ : Off κ [.regs, .fab, .hcp, .out]) (c : FwdCmd) (tenant : ℕ) (ref : ℕ) (st : St) :
    Kept κ s₀ (State.toDeputy s c tenant ref st) := by
  unfold State.toDeputy
  try dsimp only
  repeat' first
    | with_reducible assumption
    | exact hκ.sub (by decide)
    | with_reducible apply kept_forwardCommand
    | with_reducible apply kept_hostReply
    | with_reducible intro _ _ _ _
    | with_reducible intro _ _ _
    | with_reducible intro _ _
    | split

theorem kept_requestCommand (h : Kept κ s₀ s) (hκ : Off κ [.mem, .regs, .rse, .pge, .sch, .fab, .hcp, .evt, .out]) (c : FwdCmd) (tenant : ℕ) (ref : ℕ) :
    Kept κ s₀ (State.requestCommand s c tenant ref) := by
  unfold State.requestCommand
  try dsimp only
  repeat' first
    | with_reducible assumption
    | exact hκ.sub (by decide)
    | with_reducible apply kept_hostReply
    | with_reducible apply kept_homeCommand
    | with_reducible apply kept_forwardCommand
    | with_reducible apply kept_toDeputy
    | with_reducible intro _ _ _ _
    | with_reducible intro _ _ _
    | with_reducible intro _ _
    | split

theorem kept_execCancel (h : Kept κ s₀ s) (hκ : Off κ [.mem, .regs, .rse, .pge, .sch, .fab, .hcp, .evt, .out]) (p : HostPkt) (id : ℕ) :
    OutKept κ s₀ (execCancel p id s) := by
  unfold execCancel
  try dsimp only
  repeat' first
    | with_reducible assumption
    | exact hκ.sub (by decide)
    | with_reducible apply kept_prayr
    | with_reducible apply kept_requestCommand
    | with_reducible apply OutKept.next
    | with_reducible intro _ _ _ _
    | with_reducible intro _ _ _
    | with_reducible intro _ _
    | split

theorem kept_execPause (h : Kept κ s₀ s) (hκ : Off κ [.mem, .regs, .rse, .pge, .sch, .fab, .hcp, .evt, .out]) (p : HostPkt) (id : ℕ) (ticks : ℕ) :
    OutKept κ s₀ (execPause p id ticks s) := by
  unfold execPause
  try dsimp only
  repeat' first
    | with_reducible assumption
    | exact hκ.sub (by decide)
    | with_reducible apply kept_prayr
    | with_reducible apply kept_requestCommand
    | with_reducible apply OutKept.next
    | with_reducible intro _ _ _ _
    | with_reducible intro _ _ _
    | with_reducible intro _ _
    | split

theorem kept_execResume (h : Kept κ s₀ s) (hκ : Off κ [.mem, .regs, .rse, .pge, .sch, .fab, .hcp, .evt, .out]) (p : HostPkt) (b : ResumeBlock) (tokens : List ℕ) :
    OutKept κ s₀ (execResume p b tokens s) := by
  unfold execResume
  try dsimp only
  repeat' first
    | with_reducible assumption
    | exact hκ.sub (by decide)
    | with_reducible apply kept_prayr
    | with_reducible apply kept_requestCommand
    | with_reducible apply OutKept.next
    | with_reducible intro _ _ _ _
    | with_reducible intro _ _ _
    | with_reducible intro _ _
    | split

theorem kept_execQueryReq (h : Kept κ s₀ s) (hκ : Off κ [.mem, .regs, .rse, .pge, .sch, .fab, .hcp, .evt, .out]) (p : HostPkt) (id : ℕ) :
    OutKept κ s₀ (execQueryReq p id s) := by
  unfold execQueryReq
  try dsimp only
  repeat' first
    | with_reducible assumption
    | exact hκ.sub (by decide)
    | with_reducible apply kept_prayr
    | with_reducible apply kept_requestCommand
    | with_reducible apply OutKept.next
    | with_reducible intro _ _ _ _
    | with_reducible intro _ _ _
    | with_reducible intro _ _
    | split

theorem kept_execSetTtl (h : Kept κ s₀ s) (hκ : Off κ [.mem, .regs, .rse, .pge, .sch, .fab, .hcp, .evt, .out]) (p : HostPkt) (id : ℕ) (ticks : ℕ) :
    OutKept κ s₀ (execSetTtl p id ticks s) := by
  unfold execSetTtl
  try dsimp only
  repeat' first
    | with_reducible assumption
    | exact hκ.sub (by decide)
    | with_reducible apply kept_prayr
    | with_reducible apply kept_requestCommand
    | with_reducible apply OutKept.next
    | with_reducible intro _ _ _ _
    | with_reducible intro _ _ _
    | with_reducible intro _ _
    | split

theorem kept_execMove (h : Kept κ s₀ s) (hκ : Off κ [.mem, .regs, .rse, .pge, .sch, .fab, .hcp, .evt, .out]) (p : HostPkt) (id : ℕ) (dest : ℕ) :
    OutKept κ s₀ (execMove p id dest s) := by
  unfold execMove
  try dsimp only
  repeat' first
    | with_reducible assumption
    | exact hκ.sub (by decide)
    | with_reducible apply kept_prayr
    | with_reducible apply kept_requestCommand
    | with_reducible apply OutKept.next
    | with_reducible intro _ _ _ _
    | with_reducible intro _ _ _
    | with_reducible intro _ _
    | split

theorem kept_newId (h : Kept κ s₀ s) (hκ : Off κ [.rse])  :
    Kept κ s₀ (State.newId s).2 := by
  unfold State.newId
  try dsimp only
  repeat' first
    | with_reducible assumption
    | exact hκ.sub (by decide)
    | with_reducible apply kept_onRse
    | with_reducible intro _ _ _ _
    | with_reducible intro _ _ _
    | with_reducible intro _ _
    | split

theorem kept_submitGo (h : Kept κ s₀ s) (hκ : Off κ [.mem, .regs, .rse, .pge, .sch, .fab, .hcp, .evt, .out]) (b : SubmitBlock) (tenant : ℕ) (src : ℕ) (port : ℕ) (ref : ℕ) (ps : ℕ) (tokens : List ℕ) :
    Kept κ s₀ (State.submitGo s b tenant src port ref ps tokens) := by
  unfold State.submitGo
  try dsimp only
  repeat' first
    | with_reducible assumption
    | exact hκ.sub (by decide)
    | with_reducible apply kept_newId
    | with_reducible apply kept_writeHistory
    | with_reducible apply kept_hostReply
    | with_reducible apply kept_change
    | with_reducible intro _ _ _ _
    | with_reducible intro _ _ _
    | with_reducible intro _ _
    | split
    | dsimp only [itself]
    | refine OptKept.getD (f := itself) ?_ ?_
    | refine OptKept.get_id ?_ (by with_reducible assumption)
    | refine Kept.of_snd ?_ (by with_reducible assumption)

theorem kept_submit (h : Kept κ s₀ s) (hκ : Off κ [.mem, .regs, .rse, .pge, .sch, .fab, .hcp, .evt, .out]) (b : SubmitBlock) (tokens : List ℕ) (tenant : ℕ) (src : ℕ) (port : ℕ) (ref : ℕ) :
    Kept κ s₀ (State.submit s b tokens tenant src port ref) := by
  unfold State.submit
  try dsimp only
  repeat' first
    | with_reducible assumption
    | exact hκ.sub (by decide)
    | with_reducible apply kept_freeSlot
    | with_reducible apply kept_hostReply
    | with_reducible apply kept_submitGo
    | with_reducible apply kept_onHcp
    | with_reducible apply kept_reserve
    | with_reducible apply kept_promptRead
    | with_reducible intro _ _ _ _
    | with_reducible intro _ _ _
    | with_reducible intro _ _
    | split
    | dsimp only [itself]
    | refine OptKept.getD (f := itself) ?_ ?_
    | refine OptKept.get_id ?_ (by with_reducible assumption)
    | refine Kept.of_snd ?_ (by with_reducible assumption)

theorem kept_execSubmit (h : Kept κ s₀ s) (hκ : Off κ [.mem, .regs, .rse, .pge, .sch, .fab, .hcp, .evt, .out]) (p : HostPkt) (b : SubmitBlock) (tokens : List ℕ) :
    OutKept κ s₀ (execSubmit p b tokens s) := by
  unfold execSubmit
  try dsimp only
  repeat' first
    | with_reducible assumption
    | exact hκ.sub (by decide)
    | with_reducible apply kept_prayr
    | with_reducible apply kept_submit
    | with_reducible apply OutKept.next
    | with_reducible intro _ _ _ _
    | with_reducible intro _ _ _
    | with_reducible intro _ _
    | split

theorem kept_submitRead (h : Kept κ s₀ s) (hκ : Off κ [.mem, .regs, .rse, .pge, .sch, .fab, .hcp, .evt, .out]) (ref : ℕ) (status : St) (tokens : List ℕ) :
    Kept κ s₀ (State.submitRead s ref status tokens) := by
  unfold State.submitRead
  try dsimp only
  repeat' first
    | with_reducible assumption
    | exact hκ.sub (by decide)
    | with_reducible apply kept_onHcp
    | with_reducible apply kept_unreserve
    | with_reducible apply kept_submitGo
    | with_reducible apply kept_hostReply
    | with_reducible intro _ _ _ _
    | with_reducible intro _ _ _
    | with_reducible intro _ _
    | split

theorem kept_resumeReadDone (h : Kept κ s₀ s) (hκ : Off κ [.mem, .regs, .rse, .pge, .sch, .fab, .hcp, .evt, .out]) (ref : ℕ) (status : St) (tokens : List ℕ) :
    Kept κ s₀ (State.resumeReadDone s ref status tokens) := by
  unfold State.resumeReadDone
  try dsimp only
  repeat' first
    | with_reducible assumption
    | exact hκ.sub (by decide)
    | with_reducible apply kept_onHcp
    | with_reducible apply kept_homeCommand
    | with_reducible apply kept_replyTo
    | with_reducible intro _ _ _ _
    | with_reducible intro _ _ _
    | with_reducible intro _ _
    | split

theorem kept_roceRemove (h : Kept κ s₀ s) (hκ : Off κ [.hcp, .out]) (use : RoceUse) :
    Kept κ s₀ (State.roceRemove s use) := by
  unfold State.roceRemove
  try dsimp only
  repeat' first
    | with_reducible assumption
    | exact hκ.sub (by decide)
    | with_reducible apply kept_roceSend
    | with_reducible apply kept_putQp
    | with_reducible intro _ _ _ _
    | with_reducible intro _ _ _
    | with_reducible intro _ _
    | split

theorem kept_execSubmitPromptReadDone (h : Kept κ s₀ s) (hκ : Off κ [.mem, .regs, .rse, .pge, .sch, .fab, .hcp, .evt, .out]) (ref : ℕ) (status : St) (tokens : List ℕ) :
    OutKept κ s₀ (execSubmitPromptReadDone ref status tokens s) := by
  unfold execSubmitPromptReadDone
  try dsimp only
  repeat' first
    | with_reducible assumption
    | exact hκ.sub (by decide)
    | with_reducible apply kept_submitRead
    | with_reducible apply kept_roceRemove
    | with_reducible apply OutKept.next
    | with_reducible intro _ _ _ _
    | with_reducible intro _ _ _
    | with_reducible intro _ _
    | split

theorem kept_execResumePromptReadDone (h : Kept κ s₀ s) (hκ : Off κ [.mem, .regs, .rse, .pge, .sch, .fab, .hcp, .evt, .out]) (ref : ℕ) (status : St) (tokens : List ℕ) :
    OutKept κ s₀ (execResumePromptReadDone ref status tokens s) := by
  unfold execResumePromptReadDone
  try dsimp only
  repeat' first
    | with_reducible assumption
    | exact hκ.sub (by decide)
    | with_reducible apply kept_resumeReadDone
    | with_reducible apply kept_roceRemove
    | with_reducible apply OutKept.next
    | with_reducible intro _ _ _ _
    | with_reducible intro _ _ _
    | with_reducible intro _ _
    | split

theorem kept_drainTokens (h : Kept κ s₀ s) (hκ : Off κ [.mem, .regs, .rse, .pge, .mzt, .cores, .sch, .phs, .fab, .xfr, .syn, .hcp, .evt, .out]) (a0 : List TokenPkt) :
    Kept κ s₀ (State.drainTokens s a0) := by
  induction a0 generalizing s with
  | nil =>
    unfold State.drainTokens
    try dsimp only
    repeat' first
      | with_reducible assumption
  | cons x_ l_ ih =>
    unfold State.drainTokens
    try dsimp only
    repeat' first
      | with_reducible assumption
      | with_reducible apply ih
      | exact hκ.sub (by decide)
      | with_reducible apply kept_drainToken
      | with_reducible intro _ _ _ _
      | with_reducible intro _ _ _
      | with_reducible intro _ _
      | split

theorem kept_tokenAck (h : Kept κ s₀ s) (hκ : Off κ [.mem, .regs, .rse, .pge, .mzt, .cores, .sch, .phs, .fab, .xfr, .syn, .hcp, .evt, .out]) (id : ℕ) (epoch : ℕ) (next : ℕ) :
    Kept κ s₀ (State.tokenAck s id epoch next) := by
  unfold State.tokenAck
  try dsimp only
  repeat' first
    | with_reducible assumption
    | exact hκ.sub (by decide)
    | with_reducible apply kept_bump
    | with_reducible apply kept_drainTokens
    | with_reducible intro _ _ _ _
    | with_reducible intro _ _ _
    | with_reducible intro _ _
    | split

theorem kept_execTokenAck (h : Kept κ s₀ s) (hκ : Off κ [.mem, .regs, .rse, .pge, .mzt, .cores, .sch, .phs, .fab, .xfr, .syn, .hcp, .evt, .out]) (p : HostPkt) (id : ℕ) (epoch : ℕ) (next : ℕ) :
    OutKept κ s₀ (execTokenAck p id epoch next s) := by
  unfold execTokenAck
  try dsimp only
  repeat' first
    | with_reducible assumption
    | exact hκ.sub (by decide)
    | with_reducible apply kept_tokenAck
    | with_reducible apply kept_bump
    | with_reducible apply kept_unseen
    | with_reducible apply OutKept.next
    | with_reducible intro _ _ _ _
    | with_reducible intro _ _ _
    | with_reducible intro _ _
    | split
    | dsimp only [itself]
    | refine Kept.of_snd ?_ (by with_reducible assumption)

theorem kept_execTokenTransmit (h : Kept κ s₀ s) (hκ : Off κ [.mem, .regs, .rse, .pge, .mzt, .cores, .sch, .phs, .fab, .xfr, .syn, .hcp, .evt, .out])  :
    OutKept κ s₀ (execTokenTransmit s) := by
  unfold execTokenTransmit
  try dsimp only
  repeat' first
    | with_reducible assumption
    | exact hκ.sub (by decide)
    | with_reducible apply kept_sendToken
    | with_reducible apply OutKept.next
    | with_reducible intro _ _ _ _
    | with_reducible intro _ _ _
    | with_reducible intro _ _
    | split

theorem kept_execTokenRetxExpiry (h : Kept κ s₀ s) (hκ : Off κ [.mem, .regs, .rse, .pge, .mzt, .cores, .sch, .phs, .fab, .xfr, .syn, .hcp, .evt, .out]) (id : ℕ) :
    OutKept κ s₀ (execTokenRetxExpiry id s) := by
  unfold execTokenRetxExpiry
  try dsimp only
  repeat' first
    | with_reducible assumption
    | exact hκ.sub (by decide)
    | with_reducible apply kept_count
    | with_reducible apply kept_drainTokens
    | with_reducible apply kept_post
    | with_reducible apply kept_onHcp
    | with_reducible apply kept_hostSend
    | with_reducible apply kept_bump
    | with_reducible apply OutKept.next
    | with_reducible apply kept_foldl
    | with_reducible intro _ _ _ _
    | with_reducible intro _ _ _
    | with_reducible intro _ _
    | split

theorem kept_execEventPull (h : Kept κ s₀ s) (hκ : Off κ [.regs, .fab, .hcp, .evt, .out]) (p : HostPkt) (cursor : ℕ) (max : ℕ) :
    OutKept κ s₀ (execEventPull p cursor max s) := by
  unfold execEventPull
  try dsimp only
  repeat' first
    | with_reducible assumption
    | exact hκ.sub (by decide)
    | with_reducible apply kept_prayr
    | with_reducible apply kept_hostReply
    | with_reducible apply OutKept.next
    | with_reducible intro _ _ _ _
    | with_reducible intro _ _ _
    | with_reducible intro _ _
    | split

theorem kept_execPhaseTurn (h : Kept κ s₀ s) (hκ : Off κ [.regs, .mzt, .cores, .sch, .phs, .fab, .hcp, .evt, .out]) (p : HostPkt) (value : ℕ) :
    OutKept κ s₀ (execPhaseTurn p value s) := by
  unfold execPhaseTurn
  try dsimp only
  repeat' first
    | with_reducible assumption
    | exact hκ.sub (by decide)
    | with_reducible apply kept_prayr
    | with_reducible apply kept_turnGo
    | with_reducible apply kept_hostReply
    | with_reducible apply OutKept.next
    | with_reducible intro _ _ _ _
    | with_reducible intro _ _ _
    | with_reducible intro _ _
    | split
    | dsimp only [itself]
    | refine Kept.of_fst ?_ (by with_reducible assumption)

theorem kept_portAnswer (h : Kept κ s₀ s) (hκ : Off κ [.regs, .out]) (own : Bool) (o : HostOut) :
    Kept κ s₀ (State.portAnswer s own o) := by
  unfold State.portAnswer
  try dsimp only
  repeat' first
    | with_reducible assumption
    | exact hκ.sub (by decide)
    | with_reducible apply kept_bump
    | with_reducible apply kept_hostEmit
    | with_reducible intro _ _ _ _
    | with_reducible intro _ _ _
    | with_reducible intro _ _
    | split

theorem kept_execHostPacketDrop (h : Kept κ s₀ s) (hκ : Off κ [.regs]) :
    OutKept κ s₀ (execHostPacketDrop s) := by
  unfold execHostPacketDrop
  try dsimp only
  repeat' first
    | with_reducible assumption
    | exact hκ.sub (by decide)
    | with_reducible apply kept_bump
    | with_reducible apply OutKept.next
    | with_reducible intro _ _ _ _
    | with_reducible intro _ _ _
    | with_reducible intro _ _
    | split

theorem kept_execHostArp (h : Kept κ s₀ s) (hκ : Off κ [.regs, .out]) (target : ℕ) (asker : Asker) :
    OutKept κ s₀ (execHostArp target asker s) := by
  unfold execHostArp
  try dsimp only
  repeat' first
    | with_reducible assumption
    | exact hκ.sub (by decide)
    | with_reducible apply kept_portAnswer
    | with_reducible apply OutKept.next
    | with_reducible intro _ _ _ _
    | with_reducible intro _ _ _
    | with_reducible intro _ _
    | split

theorem kept_execHostNeighbourSolicit (h : Kept κ s₀ s) (hκ : Off κ [.regs, .out]) (target : ℕ) (asker : Asker) :
    OutKept κ s₀ (execHostNeighbourSolicit target asker s) := by
  unfold execHostNeighbourSolicit
  try dsimp only
  repeat' first
    | with_reducible assumption
    | exact hκ.sub (by decide)
    | with_reducible apply kept_portAnswer
    | with_reducible apply OutKept.next
    | with_reducible intro _ _ _ _
    | with_reducible intro _ _ _
    | with_reducible intro _ _
    | split

theorem kept_execHostIcmpEcho (h : Kept κ s₀ s) (hκ : Off κ [.regs, .out]) (target : ℕ) (asker : Asker) (data : List Sys2Proof.Byte) :
    OutKept κ s₀ (execHostIcmpEcho target asker data s) := by
  unfold execHostIcmpEcho
  try dsimp only
  repeat' first
    | with_reducible assumption
    | exact hκ.sub (by decide)
    | with_reducible apply kept_portAnswer
    | with_reducible apply OutKept.next
    | with_reducible intro _ _ _ _
    | with_reducible intro _ _ _
    | with_reducible intro _ _
    | split

end Sys2Proof.Machine
end

