-- ==== Sys2Proof/Laws/KeptRdma.lean ====
section
/-! SUPPORT. What the operations of Machine/Rdma.lean keep (see Laws/Kept.lean). -/

namespace Sys2Proof.Machine

variable {κ : Part → Bool} {s₀ s : State}

theorem kept_roceFail (h : Kept κ s₀ s) (hκ : Off κ [.mem, .regs, .rse, .pge, .mzt, .cores, .sch, .phs, .fab, .xfr, .syn, .hcp, .evt, .out]) (o : RoceOp) :
    Kept κ s₀ (State.roceFail s o) := by
  unfold State.roceFail
  try dsimp only
  repeat' first
    | with_reducible assumption
    | exact hκ.sub (by decide)
    | with_reducible apply kept_completeReq
    | with_reducible apply kept_submitRead
    | with_reducible apply kept_resumeReadDone
    | with_reducible apply kept_pageIoFailed
    | with_reducible intro _ _ _ _
    | with_reducible intro _ _ _
    | with_reducible intro _ _
    | split

theorem kept_roceFails (h : Kept κ s₀ s) (hκ : Off κ [.mem, .regs, .rse, .pge, .mzt, .cores, .sch, .phs, .fab, .xfr, .syn, .hcp, .evt, .out]) (a0 : List RoceOp) :
    Kept κ s₀ (State.roceFails s a0) := by
  induction a0 generalizing s with
  | nil =>
    unfold State.roceFails
    try dsimp only
    repeat' first
      | with_reducible assumption
  | cons x_ l_ ih =>
    unfold State.roceFails
    try dsimp only
    repeat' first
      | with_reducible assumption
      | with_reducible apply ih
      | exact hκ.sub (by decide)
      | with_reducible apply kept_roceFail
      | with_reducible intro _ _ _ _
      | with_reducible intro _ _ _
      | with_reducible intro _ _
      | split

theorem kept_roceDone (h : Kept κ s₀ s) (hκ : Off κ [.mem, .regs, .rse, .pge, .mzt, .cores, .sch, .phs, .fab, .xfr, .syn, .hcp, .evt, .out]) (o : RoceOp) (data : List Sys2Proof.Byte) :
    Kept κ s₀ (State.roceDone s o data) := by
  unfold State.roceDone
  try dsimp only
  repeat' first
    | with_reducible assumption
    | exact hκ.sub (by decide)
    | with_reducible apply kept_completeReq
    | with_reducible apply kept_place
    | with_reducible apply kept_submitRead
    | with_reducible apply kept_resumeReadDone
    | with_reducible apply kept_pageOutDone
    | with_reducible apply kept_pageInDone
    | with_reducible apply kept_wr
    | with_reducible apply kept_pageMoveDone
    | with_reducible intro _ _ _ _
    | with_reducible intro _ _ _
    | with_reducible intro _ _
    | split

theorem kept_qpFail (h : Kept κ s₀ s) (hκ : Off κ [.mem, .regs, .rse, .pge, .mzt, .cores, .sch, .phs, .fab, .xfr, .syn, .hcp, .evt, .out]) (q : Qp) (syndrome : ℕ) :
    Kept κ s₀ (State.qpFail s q syndrome) := by
  unfold State.qpFail
  try dsimp only
  repeat' first
    | with_reducible assumption
    | exact hκ.sub (by decide)
    | with_reducible apply kept_post
    | with_reducible apply kept_putQp
    | with_reducible apply kept_roceFails
    | with_reducible intro _ _ _ _
    | with_reducible intro _ _ _
    | with_reducible intro _ _
    | split

theorem kept_marked (h : Kept κ s₀ s) (hκ : Off κ [.hcp, .out]) (qp : ℕ) (ecn : Bool) :
    Kept κ s₀ (State.marked s qp ecn) := by
  unfold State.marked
  try dsimp only
  repeat' first
    | with_reducible assumption
    | exact hκ.sub (by decide)
    | with_reducible apply kept_hostSend
    | with_reducible intro _ _ _ _
    | with_reducible intro _ _ _
    | with_reducible intro _ _
    | split

theorem kept_execRoceCompletion (h : Kept κ s₀ s) (hκ : Off κ [.mem, .regs, .rse, .pge, .mzt, .cores, .sch, .phs, .fab, .xfr, .syn, .hcp, .evt, .out]) (qp : ℕ) (e : RoceEnd) :
    OutKept κ s₀ (execRoceCompletion qp e s) := by
  unfold execRoceCompletion
  try dsimp only
  repeat' first
    | with_reducible assumption
    | exact hκ.sub (by decide)
    | with_reducible apply kept_roceDone
    | with_reducible apply kept_marked
    | with_reducible apply kept_rocePop
    | with_reducible apply OutKept.next
    | with_reducible intro _ _ _ _
    | with_reducible intro _ _ _
    | with_reducible intro _ _
    | split

theorem kept_execRoceAckTimeout (h : Kept κ s₀ s) (hκ : Off κ [.mem, .regs, .rse, .pge, .mzt, .cores, .sch, .phs, .fab, .xfr, .syn, .hcp, .evt, .out]) (qp : ℕ) :
    OutKept κ s₀ (execRoceAckTimeout qp s) := by
  unfold execRoceAckTimeout
  try dsimp only
  repeat' first
    | with_reducible assumption
    | exact hκ.sub (by decide)
    | with_reducible apply kept_qpFail
    | with_reducible apply kept_roceSend
    | with_reducible apply kept_putQp
    | with_reducible apply OutKept.next
    | with_reducible intro _ _ _ _
    | with_reducible intro _ _ _
    | with_reducible intro _ _
    | split

theorem kept_execRoceNak (h : Kept κ s₀ s) (hκ : Off κ [.mem, .regs, .rse, .pge, .mzt, .cores, .sch, .phs, .fab, .xfr, .syn, .hcp, .evt, .out]) (qp : ℕ) (syndrome : ℕ) :
    OutKept κ s₀ (execRoceNak qp syndrome s) := by
  unfold execRoceNak
  try dsimp only
  repeat' first
    | with_reducible assumption
    | exact hκ.sub (by decide)
    | with_reducible apply kept_qpFail
    | with_reducible apply OutKept.next
    | with_reducible intro _ _ _ _
    | with_reducible intro _ _ _
    | with_reducible intro _ _
    | split

theorem kept_execRoceCnp (h : Kept κ s₀ s) (hκ : Off κ [.hcp]) (qp : ℕ) :
    OutKept κ s₀ (execRoceCnp qp s) := by
  unfold execRoceCnp
  try dsimp only
  repeat' first
    | with_reducible assumption
    | exact hκ.sub (by decide)
    | with_reducible apply kept_putQp
    | with_reducible apply OutKept.next
    | with_reducible intro _ _ _ _
    | with_reducible intro _ _ _
    | with_reducible intro _ _
    | split

theorem kept_execRoceRateRecovery (h : Kept κ s₀ s) (hκ : Off κ [.hcp]) (qp : ℕ) :
    OutKept κ s₀ (execRoceRateRecovery qp s) := by
  unfold execRoceRateRecovery
  try dsimp only
  repeat' first
    | with_reducible assumption
    | exact hκ.sub (by decide)
    | with_reducible apply kept_putQp
    | with_reducible apply OutKept.next
    | with_reducible intro _ _ _ _
    | with_reducible intro _ _ _
    | with_reducible intro _ _
    | split

theorem kept_execQpSetup (h : Kept κ s₀ s) (hκ : Off κ [.regs, .fab, .hcp, .evt, .out]) (p : HostPkt) (c : QpCfg) :
    OutKept κ s₀ (execQpSetup p c s) := by
  unfold execQpSetup
  try dsimp only
  repeat' first
    | with_reducible assumption
    | exact hκ.sub (by decide)
    | with_reducible apply kept_prayr
    | with_reducible apply kept_hostReply
    | with_reducible apply kept_putQp
    | with_reducible apply OutKept.next
    | with_reducible intro _ _ _ _
    | with_reducible intro _ _ _
    | with_reducible intro _ _
    | split

theorem kept_qpDestroy (h : Kept κ s₀ s) (hκ : Off κ [.mem, .regs, .rse, .pge, .mzt, .cores, .sch, .phs, .fab, .xfr, .syn, .hcp, .evt, .out]) (i : ℕ) :
    Kept κ s₀ (State.qpDestroy s i) := by
  unfold State.qpDestroy
  try dsimp only
  repeat' first
    | with_reducible assumption
    | exact hκ.sub (by decide)
    | with_reducible apply kept_roceFails
    | with_reducible apply kept_onHcp
    | with_reducible intro _ _ _ _
    | with_reducible intro _ _ _
    | with_reducible intro _ _
    | split

theorem kept_execQpDestroy (h : Kept κ s₀ s) (hκ : Off κ [.mem, .regs, .rse, .pge, .mzt, .cores, .sch, .phs, .fab, .xfr, .syn, .hcp, .evt, .out]) (p : HostPkt) (qp : ℕ) :
    OutKept κ s₀ (execQpDestroy p qp s) := by
  unfold execQpDestroy
  try dsimp only
  repeat' first
    | with_reducible assumption
    | exact hκ.sub (by decide)
    | with_reducible apply kept_prayr
    | with_reducible apply kept_hostReply
    | with_reducible apply kept_qpDestroy
    | with_reducible apply OutKept.next
    | with_reducible intro _ _ _ _
    | with_reducible intro _ _ _
    | with_reducible intro _ _
    | split

theorem kept_roceFront (h : Kept κ s₀ s) (hκ : Off κ [.regs, .hcp, .out]) (h_ : RoceHdr) :
    Kept κ s₀ (State.roceFront s h_).2 := by
  unfold State.roceFront
  try dsimp only
  repeat' first
    | with_reducible assumption
    | exact hκ.sub (by decide)
    | with_reducible apply kept_bump
    | with_reducible apply kept_marked
    | with_reducible intro _ _ _ _
    | with_reducible intro _ _ _
    | with_reducible intro _ _
    | split

theorem kept_psnTaken (h : Kept κ s₀ s) (hκ : Off κ [.hcp]) (q : Qp) (h_ : RoceHdr) (len : ℕ) :
    Kept κ s₀ (State.psnTaken s q h_ len) := by
  unfold State.psnTaken
  try dsimp only
  repeat' first
    | with_reducible assumption
    | exact hκ.sub (by decide)
    | with_reducible apply kept_putQp
    | with_reducible intro _ _ _ _
    | with_reducible intro _ _ _
    | with_reducible intro _ _
    | split

theorem kept_execHostRdmaWrite (h : Kept κ s₀ s) (hκ : Off κ [.mem, .regs, .hcp, .out]) (h_ : RoceHdr) (rkey : ℕ) (va : ℕ) (data : List Sys2Proof.Byte) :
    OutKept κ s₀ (execHostRdmaWrite h_ rkey va data s) := by
  unfold execHostRdmaWrite
  try dsimp only
  repeat' first
    | with_reducible assumption
    | exact hκ.sub (by decide)
    | with_reducible apply kept_roceFront
    | with_reducible apply kept_hostSend
    | with_reducible apply kept_psnTaken
    | with_reducible apply kept_count
    | with_reducible apply kept_wr
    | with_reducible apply OutKept.next
    | with_reducible intro _ _ _ _
    | with_reducible intro _ _ _
    | with_reducible intro _ _
    | split
    | dsimp only [itself]
    | refine Kept.of_snd ?_ (by with_reducible assumption)

theorem kept_execHostRdmaRead (h : Kept κ s₀ s) (hκ : Off κ [.regs, .hcp, .out]) (h_ : RoceHdr) (rkey : ℕ) (va : ℕ) (len : ℕ) :
    OutKept κ s₀ (execHostRdmaRead h_ rkey va len s) := by
  unfold execHostRdmaRead
  try dsimp only
  repeat' first
    | with_reducible assumption
    | exact hκ.sub (by decide)
    | with_reducible apply kept_roceFront
    | with_reducible apply kept_hostSend
    | with_reducible apply kept_psnTaken
    | with_reducible apply kept_count
    | with_reducible apply OutKept.next
    | with_reducible intro _ _ _ _
    | with_reducible intro _ _ _
    | with_reducible intro _ _
    | split
    | dsimp only [itself]
    | refine Kept.of_snd ?_ (by with_reducible assumption)

theorem kept_windowWrite (h : Kept κ s₀ s) (hκ : Off κ [.regs]) (addr : ℕ) (value : ℕ) :
    Kept κ s₀ (State.windowWrite s addr value).1 := by
  unfold State.windowWrite
  generalize (addr - 0x12000) / 32 = w
  generalize (addr - 0x12000) % 32 = k
  extract_lets
  repeat' first
    | with_reducible assumption
    | exact hκ.sub (by decide)
    | with_reducible apply kept_writeRw
    | with_reducible apply kept_setReg
    | split

theorem kept_execHcpWindowWrite (h : Kept κ s₀ s) (hκ : Off κ [.regs]) (addr : ℕ) (value : ℕ) :
    OutKept κ s₀ (execHcpWindowWrite addr value s) := by
  unfold execHcpWindowWrite
  try dsimp only
  repeat' first
    | with_reducible assumption
    | exact hκ.sub (by decide)
    | with_reducible apply kept_windowWrite
    | with_reducible apply OutKept.next
    | with_reducible intro _ _ _ _
    | with_reducible intro _ _ _
    | with_reducible intro _ _
    | split
    | dsimp only [itself]
    | refine Kept.of_fst ?_ (by with_reducible assumption)

theorem kept_execWindowCloseDone (h : Kept κ s₀ s) (hκ : Off κ [.regs]) (window : ℕ) :
    OutKept κ s₀ (execWindowCloseDone window s) := by
  unfold execWindowCloseDone
  try dsimp only
  repeat' first
    | with_reducible assumption
    | exact hκ.sub (by decide)
    | with_reducible apply kept_setReg
    | with_reducible apply OutKept.next
    | with_reducible intro _ _ _ _
    | with_reducible intro _ _ _
    | with_reducible intro _ _
    | split

end Sys2Proof.Machine
end

