-- ==== Sys2Proof/Laws/KeptHostRegs.lean ====
section
/-! SUPPORT. What the operations of Machine/HostRegs.lean keep (see Laws/Kept.lean). -/

namespace Sys2Proof.Machine

variable {κ : Part → Bool} {s₀ s : State}

theorem kept_execHostPortUp (h : Kept κ s₀ s) (hκ : Off κ [.regs, .fab, .hcp, .evt, .out])  :
    OutKept κ s₀ (execHostPortUp s) := by
  unfold execHostPortUp
  try dsimp only
  repeat' first
    | with_reducible assumption
    | exact hκ.sub (by decide)
    | with_reducible apply kept_setRegs
    | with_reducible apply kept_shaperFill
    | with_reducible apply kept_post
    | with_reducible apply OutKept.next
    | with_reducible intro _ _ _ _
    | with_reducible intro _ _ _
    | with_reducible intro _ _
    | split

theorem kept_hostDown (h : Kept κ s₀ s) (hκ : Off κ [.regs, .fab, .hcp, .evt, .out])  :
    Kept κ s₀ (State.hostDown s) := by
  unfold State.hostDown
  try dsimp only
  repeat' first
    | with_reducible assumption
    | exact hκ.sub (by decide)
    | with_reducible apply kept_post
    | with_reducible apply kept_setRegs
    | with_reducible intro _ _ _ _
    | with_reducible intro _ _ _
    | with_reducible intro _ _
    | split

theorem kept_execHostPortDown (h : Kept κ s₀ s) (hκ : Off κ [.regs, .fab, .hcp, .evt, .out])  :
    OutKept κ s₀ (execHostPortDown s) := by
  unfold execHostPortDown
  try dsimp only
  repeat' first
    | with_reducible assumption
    | exact hκ.sub (by decide)
    | with_reducible apply kept_hostDown
    | with_reducible apply OutKept.next
    | with_reducible intro _ _ _ _
    | with_reducible intro _ _ _
    | with_reducible intro _ _
    | split

theorem kept_dropHeld (h : Kept κ s₀ s) (hκ : Off κ [.hcp]) (p : HostOut → Bool) :
    Kept κ s₀ (State.dropHeld s p) := by
  unfold State.dropHeld
  try dsimp only
  repeat' first
    | with_reducible assumption
    | exact hκ.sub (by decide)
    | with_reducible apply kept_onHcp
    | with_reducible intro _ _ _ _
    | with_reducible intro _ _ _
    | with_reducible intro _ _
    | split

theorem kept_hcpWrite (h : Kept κ s₀ s) (hκ : Off κ [.regs, .hcp]) (addr : ℕ) (value : ℕ) :
    Kept κ s₀ (State.hcpWrite s addr value).1 := by
  unfold State.hcpWrite
  try dsimp only
  repeat' first
    | with_reducible assumption
    | exact hκ.sub (by decide)
    | with_reducible apply kept_writeRw
    | with_reducible apply kept_dropHeld
    | with_reducible intro _ _ _ _
    | with_reducible intro _ _ _
    | with_reducible intro _ _
    | split

theorem kept_execHcpRegWrite (h : Kept κ s₀ s) (hκ : Off κ [.regs, .hcp]) (addr : ℕ) (value : ℕ) :
    OutKept κ s₀ (execHcpRegWrite addr value s) := by
  unfold execHcpRegWrite
  try dsimp only
  repeat' first
    | with_reducible assumption
    | exact hκ.sub (by decide)
    | with_reducible apply kept_hcpWrite
    | with_reducible apply OutKept.next
    | with_reducible intro _ _ _ _
    | with_reducible intro _ _ _
    | with_reducible intro _ _
    | split
    | dsimp only [itself]
    | refine Kept.of_fst ?_ (by with_reducible assumption)

theorem kept_meterWrite (h : Kept κ s₀ s) (hκ : Off κ [.regs, .hcp]) (addr : ℕ) (value : ℕ) :
    Kept κ s₀ (State.meterWrite s addr value).1 := by
  unfold State.meterWrite
  try dsimp only
  repeat' first
    | with_reducible assumption
    | exact hκ.sub (by decide)
    | with_reducible apply kept_putMeter
    | with_reducible apply kept_writeRw
    | with_reducible intro _ _ _ _
    | with_reducible intro _ _ _
    | with_reducible intro _ _
    | split

theorem kept_execTrfMeterWrite (h : Kept κ s₀ s) (hκ : Off κ [.regs, .hcp]) (addr : ℕ) (value : ℕ) :
    OutKept κ s₀ (execTrfMeterWrite addr value s) := by
  unfold execTrfMeterWrite
  try dsimp only
  repeat' first
    | with_reducible assumption
    | exact hκ.sub (by decide)
    | with_reducible apply kept_meterWrite
    | with_reducible apply OutKept.next
    | with_reducible intro _ _ _ _
    | with_reducible intro _ _ _
    | with_reducible intro _ _
    | split
    | dsimp only [itself]
    | refine Kept.of_fst ?_ (by with_reducible assumption)

theorem kept_shaperWrite (h : Kept κ s₀ s) (hκ : Off κ [.regs, .hcp]) (addr : ℕ) (value : ℕ) :
    Kept κ s₀ (State.shaperWrite s addr value).1 := by
  unfold State.shaperWrite
  try dsimp only
  repeat' first
    | with_reducible assumption
    | exact hκ.sub (by decide)
    | with_reducible apply kept_shaperFill
    | with_reducible apply kept_writeRw
    | with_reducible intro _ _ _ _
    | with_reducible intro _ _ _
    | with_reducible intro _ _
    | split

theorem kept_execShaperWrite (h : Kept κ s₀ s) (hκ : Off κ [.regs, .hcp]) (addr : ℕ) (value : ℕ) :
    OutKept κ s₀ (execShaperWrite addr value s) := by
  unfold execShaperWrite
  try dsimp only
  repeat' first
    | with_reducible assumption
    | exact hκ.sub (by decide)
    | with_reducible apply kept_shaperWrite
    | with_reducible apply OutKept.next
    | with_reducible intro _ _ _ _
    | with_reducible intro _ _ _
    | with_reducible intro _ _
    | split
    | dsimp only [itself]
    | refine Kept.of_fst ?_ (by with_reducible assumption)

theorem kept_execShaperRelease (h : Kept κ s₀ s) (hκ : Off κ [.mem, .regs, .rse, .pge, .mzt, .cores, .sch, .phs, .fab, .xfr, .syn, .hcp, .evt, .out]) (k : ℕ) :
    OutKept κ s₀ (execShaperRelease k s) := by
  unfold execShaperRelease
  try dsimp only
  repeat' first
    | with_reducible assumption
    | exact hκ.sub (by decide)
    | with_reducible apply kept_shaperTake
    | with_reducible apply kept_onHcp
    | with_reducible apply kept_injectNow
    | with_reducible apply kept_transmitted
    | with_reducible apply kept_hostEmit
    | with_reducible apply kept_pumpDst
    | with_reducible apply OutKept.next
    | with_reducible intro _ _ _ _
    | with_reducible intro _ _ _
    | with_reducible intro _ _
    | split

end Sys2Proof.Machine
end

