-- ==== Sys2Proof/Laws/KeptSec.lean ====
section
/-! SUPPORT. What the operations of Machine/Sec.lean keep (see Laws/Kept.lean). -/

namespace Sys2Proof.Machine

variable {κ : Part → Bool} {s₀ s : State}

theorem kept_reReport (h : Kept κ s₀ s) (hκ : Off κ [.regs])  :
    Kept κ s₀ (State.reReport s) := by
  unfold State.reReport
  try dsimp only
  repeat' first
    | with_reducible assumption
    | exact hκ.sub (by decide)
    | with_reducible apply kept_setReg
    | with_reducible apply kept_setRegs
    | with_reducible intro _ _ _ _
    | with_reducible intro _ _ _
    | with_reducible intro _ _
    | split

theorem kept_execAttest (h : Kept κ s₀ s) (hκ : Off κ [.regs, .fab, .hcp, .evt, .out]) (p : HostPkt) (nonce : ℕ) :
    OutKept κ s₀ (execAttest p nonce s) := by
  unfold execAttest
  try dsimp only
  repeat' first
    | with_reducible assumption
    | exact hκ.sub (by decide)
    | with_reducible apply kept_prayr
    | with_reducible apply kept_hostReply
    | with_reducible apply OutKept.next
    | with_reducible intro _ _ _ _
    | with_reducible intro _ _ _
    | with_reducible intro _ _
    | split

theorem kept_execCertRead (h : Kept κ s₀ s) (hκ : Off κ [.regs, .fab, .hcp, .evt, .out]) (p : HostPkt) (index : ℕ) :
    OutKept κ s₀ (execCertRead p index s) := by
  unfold execCertRead
  try dsimp only
  repeat' first
    | with_reducible assumption
    | exact hκ.sub (by decide)
    | with_reducible apply kept_prayr
    | with_reducible apply kept_hostReply
    | with_reducible apply OutKept.next
    | with_reducible intro _ _ _ _
    | with_reducible intro _ _ _
    | with_reducible intro _ _
    | split

theorem kept_showSet (h : Kept κ s₀ s) (hκ : Off κ [.regs]) (k : ℕ) :
    Kept κ s₀ (State.showSet s k) := by
  unfold State.showSet
  try dsimp only
  repeat' first
    | with_reducible assumption
    | exact hκ.sub (by decide)
    | with_reducible apply kept_setRegs
    | with_reducible intro _ _ _ _
    | with_reducible intro _ _ _
    | with_reducible intro _ _
    | split

theorem kept_setSets (h : Kept κ s₀ s) (hκ : Off κ [.regs, .sec]) (l : List ApprovalSet) :
    Kept κ s₀ (State.setSets s l) := by
  unfold State.setSets
  try dsimp only
  repeat' first
    | with_reducible assumption
    | exact hκ.sub (by decide)
    | with_reducible apply kept_onSec
    | with_reducible apply kept_showSet
    | with_reducible intro _ _ _ _
    | with_reducible intro _ _ _
    | with_reducible intro _ _
    | split

theorem kept_approvedWith (h : Kept κ s₀ s) (hκ : Off κ [.regs, .fab, .hcp, .sec, .evt, .out]) (ref : ℕ) (opcode : ℕ) (digest : ℕ) (clears : Bool) (payload : St → List Sys2Proof.Byte) (run : State → State × St) (hf : ∀ u, Kept κ s₀ u → Kept κ s₀ (run u).1) :
    Kept κ s₀ (State.approvedWith s ref opcode digest clears payload run) := by
  unfold State.approvedWith
  try dsimp only
  repeat' first
    | with_reducible assumption
    | exact hκ.sub (by decide)
    | with_reducible apply kept_hostReply
    | with_reducible apply kept_bump
    | with_reducible apply kept_setSets
    | with_reducible apply kept_post
    | with_reducible intro _ _ _ _
    | with_reducible intro _ _ _
    | with_reducible intro _ _
    | split
    | with_reducible apply hf

theorem kept_approved (h : Kept κ s₀ s) (hκ : Off κ [.regs, .fab, .hcp, .sec, .evt, .out]) (ref : ℕ) (opcode : ℕ) (digest : ℕ) (clears : Bool) (run : State → State × St) (hf : ∀ u, Kept κ s₀ u → Kept κ s₀ (run u).1) :
    Kept κ s₀ (State.approved s ref opcode digest clears run) := by
  unfold State.approved
  try dsimp only
  repeat' first
    | with_reducible assumption
    | exact hκ.sub (by decide)
    | with_reducible apply kept_approvedWith
    | with_reducible intro _ _ _ _
    | with_reducible intro _ _ _
    | with_reducible intro _ _
    | split
    | with_reducible apply hf

theorem kept_execApprovalOpen (h : Kept κ s₀ s) (hκ : Off κ [.regs, .fab, .hcp, .sec, .evt, .out]) (p : HostPkt) (opcode : ℕ) (digest : ℕ) :
    OutKept κ s₀ (execApprovalOpen p opcode digest s) := by
  unfold execApprovalOpen
  try dsimp only
  repeat' first
    | with_reducible assumption
    | exact hκ.sub (by decide)
    | with_reducible apply kept_prayr
    | with_reducible apply kept_hostReply
    | with_reducible apply kept_setSets
    | with_reducible apply kept_onSec
    | with_reducible apply OutKept.next
    | with_reducible intro _ _ _ _
    | with_reducible intro _ _ _
    | with_reducible intro _ _
    | split

theorem kept_execApprove (h : Kept κ s₀ s) (hκ : Off κ [.regs, .fab, .hcp, .sec, .evt, .out]) (p : HostPkt) (slot : ℕ) (set : ℕ) (signature : ℕ) :
    OutKept κ s₀ (execApprove p slot set signature s) := by
  unfold execApprove
  try dsimp only
  repeat' first
    | with_reducible assumption
    | exact hκ.sub (by decide)
    | with_reducible apply kept_prayr
    | with_reducible apply kept_hostReply
    | with_reducible apply kept_bump
    | with_reducible apply kept_setSets
    | with_reducible apply OutKept.next
    | with_reducible intro _ _ _ _
    | with_reducible intro _ _ _
    | with_reducible intro _ _
    | split

theorem kept_execApprovalDeadlineExpiry (h : Kept κ s₀ s) (hκ : Off κ [.regs, .fab, .hcp, .sec, .evt, .out]) (set : ℕ) :
    OutKept κ s₀ (execApprovalDeadlineExpiry set s) := by
  unfold execApprovalDeadlineExpiry
  try dsimp only
  repeat' first
    | with_reducible assumption
    | exact hκ.sub (by decide)
    | with_reducible apply kept_post
    | with_reducible apply kept_bump
    | with_reducible apply kept_setSets
    | with_reducible apply OutKept.next
    | with_reducible intro _ _ _ _
    | with_reducible intro _ _ _
    | with_reducible intro _ _
    | split

theorem kept_setApprover (h : Kept κ s₀ s) (hκ : Off κ [.regs, .fab, .hcp, .sec, .evt, .out]) (slot : ℕ) (key : Option ℕ) (hash : ℕ) :
    Kept κ s₀ (State.setApprover s slot key hash) := by
  unfold State.setApprover
  try dsimp only
  repeat' first
    | with_reducible assumption
    | exact hκ.sub (by decide)
    | with_reducible apply kept_setRegs
    | with_reducible apply kept_onSec
    | with_reducible apply kept_setReg
    | with_reducible apply kept_reReport
    | with_reducible apply kept_post
    | with_reducible intro _ _ _ _
    | with_reducible intro _ _ _
    | with_reducible intro _ _
    | split

theorem kept_enrol (h : Kept κ s₀ s) (hκ : Off κ [.regs, .fab, .hcp, .sec, .evt, .out]) (slot : ℕ) (n : ℕ) :
    Kept κ s₀ (State.enrol s slot n).1 := by
  unfold State.enrol
  try dsimp only
  repeat' first
    | with_reducible assumption
    | exact hκ.sub (by decide)
    | with_reducible apply kept_setApprover
    | with_reducible intro _ _ _ _
    | with_reducible intro _ _ _
    | with_reducible intro _ _
    | split

theorem kept_unenrol (h : Kept κ s₀ s) (hκ : Off κ [.regs, .fab, .hcp, .sec, .evt, .out]) (slot : ℕ) :
    Kept κ s₀ (State.unenrol s slot).1 := by
  unfold State.unenrol
  try dsimp only
  repeat' first
    | with_reducible assumption
    | exact hκ.sub (by decide)
    | with_reducible apply kept_setApprover
    | with_reducible intro _ _ _ _
    | with_reducible intro _ _ _
    | with_reducible intro _ _
    | split

theorem kept_execApproverEnrolAdd (h : Kept κ s₀ s) (hκ : Off κ [.regs, .fab, .hcp, .sec, .evt, .out]) (p : HostPkt) (slot : ℕ) (modulus : ℕ) :
    OutKept κ s₀ (execApproverEnrolAdd p slot modulus s) := by
  unfold execApproverEnrolAdd
  try dsimp only
  repeat' first
    | with_reducible assumption
    | exact hκ.sub (by decide)
    | with_reducible apply kept_prayr
    | with_reducible apply kept_approved
    | with_reducible apply kept_enrol
    | with_reducible apply kept_hostReply
    | with_reducible apply OutKept.next
    | with_reducible intro _ _ _ _
    | with_reducible intro _ _ _
    | with_reducible intro _ _
    | split
    | dsimp only [itself]
    | refine Kept.of_fst ?_ (by with_reducible assumption)

theorem kept_execApproverEnrolRemove (h : Kept κ s₀ s) (hκ : Off κ [.regs, .fab, .hcp, .sec, .evt, .out]) (p : HostPkt) (slot : ℕ) :
    OutKept κ s₀ (execApproverEnrolRemove p slot s) := by
  unfold execApproverEnrolRemove
  try dsimp only
  repeat' first
    | with_reducible assumption
    | exact hκ.sub (by decide)
    | with_reducible apply kept_prayr
    | with_reducible apply kept_approved
    | with_reducible apply kept_unenrol
    | with_reducible apply OutKept.next
    | with_reducible intro _ _ _ _
    | with_reducible intro _ _ _
    | with_reducible intro _ _
    | split
    | dsimp only [itself]
    | refine Kept.of_fst ?_ (by with_reducible assumption)

theorem kept_policySet (h : Kept κ s₀ s) (hκ : Off κ [.regs]) (value : ℕ) (rekey : ℕ) :
    Kept κ s₀ (State.policySet s value rekey).1 := by
  unfold State.policySet
  try dsimp only
  repeat' first
    | with_reducible assumption
    | exact hκ.sub (by decide)
    | with_reducible apply kept_reReport
    | with_reducible apply kept_setRegs
    | with_reducible intro _ _ _ _
    | with_reducible intro _ _ _
    | with_reducible intro _ _
    | split

theorem kept_execPolicySet (h : Kept κ s₀ s) (hκ : Off κ [.regs, .fab, .hcp, .sec, .evt, .out]) (p : HostPkt) (value : ℕ) (rekey : ℕ) :
    OutKept κ s₀ (execPolicySet p value rekey s) := by
  unfold execPolicySet
  try dsimp only
  repeat' first
    | with_reducible assumption
    | exact hκ.sub (by decide)
    | with_reducible apply kept_prayr
    | with_reducible apply kept_approved
    | with_reducible apply kept_policySet
    | with_reducible apply OutKept.next
    | with_reducible intro _ _ _ _
    | with_reducible intro _ _ _
    | with_reducible intro _ _
    | split
    | dsimp only [itself]
    | refine Kept.of_fst ?_ (by with_reducible assumption)

theorem kept_hostSet (h : Kept κ s₀ s) (hκ : Off κ [.regs]) (entry : ℕ) (a : ℕ) (b : ℕ) (c : ℕ) (d : ℕ) :
    Kept κ s₀ (State.hostSet s entry a b c d).1 := by
  unfold State.hostSet
  try dsimp only
  repeat' first
    | with_reducible assumption
    | exact hκ.sub (by decide)
    | with_reducible apply kept_writeRw
    | with_reducible intro _ _ _ _
    | with_reducible intro _ _ _
    | with_reducible intro _ _
    | split

theorem kept_execHostSet (h : Kept κ s₀ s) (hκ : Off κ [.regs, .fab, .hcp, .sec, .evt, .out]) (p : HostPkt) (entry : ℕ) (a : ℕ) (b : ℕ) (c : ℕ) (d : ℕ) :
    OutKept κ s₀ (execHostSet p entry a b c d s) := by
  unfold execHostSet
  try dsimp only
  repeat' first
    | with_reducible assumption
    | exact hκ.sub (by decide)
    | with_reducible apply kept_prayr
    | with_reducible apply kept_approved
    | with_reducible apply kept_hostSet
    | with_reducible apply OutKept.next
    | with_reducible intro _ _ _ _
    | with_reducible intro _ _ _
    | with_reducible intro _ _
    | split
    | dsimp only [itself]
    | refine Kept.of_fst ?_ (by with_reducible assumption)

theorem kept_relock (h : Kept κ s₀ s) (hκ : Off κ [.regs, .sec])  :
    Kept κ s₀ (State.relock s) := by
  unfold State.relock
  try dsimp only
  repeat' first
    | with_reducible assumption
    | exact hκ.sub (by decide)
    | with_reducible apply kept_onSec
    | with_reducible apply kept_setRegs
    | with_reducible intro _ _ _ _
    | with_reducible intro _ _ _
    | with_reducible intro _ _
    | split

theorem kept_unlock (h : Kept κ s₀ s) (hκ : Off κ [.regs, .fab, .hcp, .sec, .evt, .out]) (value : ℕ) :
    Kept κ s₀ (State.unlock s value).1 := by
  unfold State.unlock
  try dsimp only
  repeat' first
    | with_reducible assumption
    | exact hκ.sub (by decide)
    | with_reducible apply kept_setReg
    | with_reducible apply kept_onSec
    | with_reducible apply kept_reReport
    | with_reducible apply kept_post
    | with_reducible intro _ _ _ _
    | with_reducible intro _ _ _
    | with_reducible intro _ _
    | split

theorem kept_execDebugUnlock (h : Kept κ s₀ s) (hκ : Off κ [.regs, .fab, .hcp, .sec, .evt, .out]) (p : HostPkt) (value : ℕ) :
    OutKept κ s₀ (execDebugUnlock p value s) := by
  unfold execDebugUnlock
  try dsimp only
  repeat' first
    | with_reducible assumption
    | exact hκ.sub (by decide)
    | with_reducible apply kept_prayr
    | with_reducible apply kept_approved
    | with_reducible apply kept_unlock
    | with_reducible apply OutKept.next
    | with_reducible intro _ _ _ _
    | with_reducible intro _ _ _
    | with_reducible intro _ _
    | split
    | dsimp only [itself]
    | refine Kept.of_fst ?_ (by with_reducible assumption)

theorem kept_execDebugRelock (h : Kept κ s₀ s) (hκ : Off κ [.regs, .fab, .hcp, .sec, .evt, .out]) (p : HostPkt) (value : ℕ) :
    OutKept κ s₀ (execDebugRelock p value s) := by
  unfold execDebugRelock
  try dsimp only
  repeat' first
    | with_reducible assumption
    | exact hκ.sub (by decide)
    | with_reducible apply kept_prayr
    | with_reducible apply kept_hostReply
    | with_reducible apply kept_relock
    | with_reducible apply OutKept.next
    | with_reducible intro _ _ _ _
    | with_reducible intro _ _ _
    | with_reducible intro _ _
    | split

theorem kept_execDebugDurationExpiry (h : Kept κ s₀ s) (hκ : Off κ [.regs, .sec])  :
    OutKept κ s₀ (execDebugDurationExpiry s) := by
  unfold execDebugDurationExpiry
  try dsimp only
  repeat' first
    | with_reducible assumption
    | exact hκ.sub (by decide)
    | with_reducible apply kept_relock
    | with_reducible apply OutKept.next
    | with_reducible intro _ _ _ _
    | with_reducible intro _ _ _
    | with_reducible intro _ _
    | split

end Sys2Proof.Machine
end

