-- ==== Sys2Proof/Laws/KeptUnits.lean ====
section
/-! SUPPORT. What the operations of Machine/Units.lean keep (see Laws/Kept.lean). -/

namespace Sys2Proof.Machine

variable {κ : Part → Bool} {s₀ s : State}

theorem kept_addDefect (h : Kept κ s₀ s) (hκ : Off κ [.regs, .fab, .hcp, .bld, .evt, .out]) (f : Finding) :
    Kept κ s₀ (State.addDefect s f) := by
  unfold State.addDefect
  try dsimp only
  repeat' first
    | with_reducible assumption
    | exact hκ.sub (by decide)
    | with_reducible apply kept_post
    | with_reducible apply kept_bump
    | with_reducible apply kept_onBld
    | with_reducible apply kept_reReport
    | with_reducible apply kept_setReg
    | with_reducible intro _ _ _ _
    | with_reducible intro _ _ _
    | with_reducible intro _ _
    | split

theorem kept_execDefectRead (h : Kept κ s₀ s) (hκ : Off κ [.regs, .fab, .hcp, .evt, .out]) (p : HostPkt) (first : ℕ) (count : ℕ) :
    OutKept κ s₀ (execDefectRead p first count s) := by
  unfold execDefectRead
  try dsimp only
  repeat' first
    | with_reducible assumption
    | exact hκ.sub (by decide)
    | with_reducible apply kept_prayr
    | with_reducible apply kept_hostReply
    | with_reducible apply OutKept.next
    | with_reducible intro _ _ _ _
    | with_reducible intro _ _ _
    | with_reducible intro _ _
    | split

theorem kept_defectClear (h : Kept κ s₀ s) (hκ : Off κ [.regs, .bld])  :
    Kept κ s₀ (State.defectClear s).1 := by
  unfold State.defectClear
  try dsimp only
  repeat' first
    | with_reducible assumption
    | exact hκ.sub (by decide)
    | with_reducible apply kept_reReport
    | with_reducible apply kept_setRegs
    | with_reducible apply kept_onBld
    | with_reducible intro _ _ _ _
    | with_reducible intro _ _ _
    | with_reducible intro _ _
    | split

theorem kept_execDefectClear (h : Kept κ s₀ s) (hκ : Off κ [.regs, .fab, .hcp, .bld, .sec, .evt, .out]) (p : HostPkt) :
    OutKept κ s₀ (execDefectClear p s) := by
  unfold execDefectClear
  try dsimp only
  repeat' first
    | with_reducible assumption
    | exact hκ.sub (by decide)
    | with_reducible apply kept_prayr
    | with_reducible apply kept_approved
    | with_reducible apply kept_defectClear
    | with_reducible apply OutKept.next
    | with_reducible intro _ _ _ _
    | with_reducible intro _ _ _
    | with_reducible intro _ _
    | split
    | dsimp only [itself]
    | refine Kept.of_fst ?_ (by with_reducible assumption)

theorem kept_setTiles (h : Kept κ s₀ s) (hκ : Off κ [.regs, .fab, .hcp, .evt, .out]) (mask : ℕ) :
    Kept κ s₀ (State.setTiles s mask) := by
  unfold State.setTiles
  try dsimp only
  repeat' first
    | with_reducible assumption
    | exact hκ.sub (by decide)
    | with_reducible apply kept_capChange
    | with_reducible intro _ _ _ _
    | with_reducible intro _ _ _
    | with_reducible intro _ _
    | split

theorem kept_tileOut (h : Kept κ s₀ s) (hκ : Off κ [.regs, .fab, .hcp, .evt, .out]) (t_ : ℕ) :
    Kept κ s₀ (State.tileOut s t_) := by
  unfold State.tileOut
  try dsimp only
  repeat' first
    | with_reducible assumption
    | exact hκ.sub (by decide)
    | with_reducible apply kept_setTiles
    | with_reducible intro _ _ _ _
    | with_reducible intro _ _ _
    | with_reducible intro _ _
    | split

theorem kept_tileBack (h : Kept κ s₀ s) (hκ : Off κ [.regs, .fab, .hcp, .evt, .out]) (t_ : ℕ) :
    Kept κ s₀ (State.tileBack s t_) := by
  unfold State.tileBack
  try dsimp only
  repeat' first
    | with_reducible assumption
    | exact hκ.sub (by decide)
    | with_reducible apply kept_setTiles
    | with_reducible intro _ _ _ _
    | with_reducible intro _ _ _
    | with_reducible intro _ _
    | split

theorem kept_setBit (h : Kept κ s₀ s) (hκ : Off κ [.regs]) (f : Fld) (i : ℕ) (on : Bool) :
    Kept κ s₀ (State.setBit s f i on) := by
  unfold State.setBit
  try dsimp only
  repeat' first
    | with_reducible assumption
    | exact hκ.sub (by decide)
    | with_reducible apply kept_setReg
    | with_reducible intro _ _ _ _
    | with_reducible intro _ _ _
    | with_reducible intro _ _
    | split

theorem kept_gateTile (h : Kept κ s₀ s) (hκ : Off κ [.cores, .pcr]) (t_ : ℕ) :
    Kept κ s₀ (State.gateTile s t_) := by
  exact Kept.of_eq h rfl rfl rfl rfl rfl rfl rfl rfl (by intro p hp; cases p <;> first | exact (hκ.not hp (by decide)).elim | rfl)

theorem kept_withdraw (h : Kept κ s₀ s) (hκ : Off κ [.regs, .mzt, .cores, .sch, .fab, .hcp, .bld, .pcr, .evt, .out]) (t_ : ℕ) (st : St) :
    Kept κ s₀ (State.withdraw s t_ st) := by
  unfold State.withdraw
  try dsimp only
  repeat' first
    | with_reducible assumption
    | exact hκ.sub (by decide)
    | with_reducible apply kept_setBit
    | with_reducible apply kept_addDefect
    | with_reducible apply kept_tearDownAll
    | with_reducible apply kept_tileOut
    | with_reducible apply kept_post
    | with_reducible apply kept_gateTile
    | with_reducible intro _ _ _ _
    | with_reducible intro _ _ _
    | with_reducible intro _ _
    | split

theorem kept_rerunShard (h : Kept κ s₀ s) (hκ : Off κ [.mem, .regs, .mzt, .cores, .exp, .sch, .fab]) (x : Ctx) (y : ShardRun) :
    Kept κ s₀ (State.rerunShard s x y) := by
  unfold State.rerunShard
  try dsimp only
  repeat' first
    | with_reducible assumption
    | exact hκ.sub (by decide)
    | with_reducible apply kept_idleCore
    | with_reducible apply kept_squashCore
    | with_reducible apply kept_startCore
    | with_reducible apply kept_putCtx
    | with_reducible apply kept_onSch
    | with_reducible apply kept_foldl
    | with_reducible intro _ _ _ _
    | with_reducible intro _ _ _
    | with_reducible intro _ _
    | split

theorem kept_substitute (h : Kept κ s₀ s) (hκ : Off κ [.mem, .regs, .rse, .pge, .mzt, .cores, .exp, .sch, .phs, .fab, .xfr, .syn, .hcp, .evt, .out]) (n : ℕ) :
    Kept κ s₀ (State.substitute s n) := by
  unfold State.substitute
  try dsimp only
  repeat' first
    | with_reducible assumption
    | exact hκ.sub (by decide)
    | with_reducible apply kept_squashCores
    | with_reducible apply kept_onSch
    | with_reducible apply kept_unfinishedSteps
    | with_reducible apply kept_rerunShard
    | with_reducible intro _ _ _ _
    | with_reducible intro _ _ _
    | with_reducible intro _ _
    | split

theorem kept_coreFailed (h : Kept κ s₀ s) (hκ : Off κ [.mem, .regs, .rse, .pge, .mzt, .cores, .exp, .sch, .phs, .fab, .xfr, .syn, .hcp, .bld, .pcr, .evt, .out]) (t_ : ℕ) (phys : ℕ) (st : St) :
    Kept κ s₀ (State.coreFailed s t_ phys st) := by
  unfold State.coreFailed
  try dsimp only
  repeat' first
    | with_reducible assumption
    | exact hκ.sub (by decide)
    | with_reducible apply kept_withdraw
    | with_reducible apply kept_onBld
    | with_reducible apply kept_addDefect
    | with_reducible apply kept_post
    | with_reducible apply kept_substitute
    | with_reducible intro _ _ _ _
    | with_reducible intro _ _ _
    | with_reducible intro _ _
    | split

theorem kept_execCoreFailure (h : Kept κ s₀ s) (hκ : Off κ [.mem, .regs, .rse, .pge, .mzt, .cores, .exp, .sch, .phs, .fab, .xfr, .syn, .hcp, .bld, .pcr, .evt, .out]) (tile : ℕ) (phys : ℕ) (status : ℕ) :
    OutKept κ s₀ (execCoreFailure tile phys status s) := by
  unfold execCoreFailure
  try dsimp only
  repeat' first
    | with_reducible assumption
    | exact hκ.sub (by decide)
    | with_reducible apply kept_coreFailed
    | with_reducible apply OutKept.next
    | with_reducible intro _ _ _ _
    | with_reducible intro _ _ _
    | with_reducible intro _ _
    | split

theorem kept_channelOut (h : Kept κ s₀ s) (hκ : Off κ [.regs, .fab, .hcp, .bld, .evt, .out]) (stack : ℕ) (channel : ℕ) (st : St) :
    Kept κ s₀ (State.channelOut s stack channel st) := by
  unfold State.channelOut
  try dsimp only
  repeat' first
    | with_reducible assumption
    | exact hκ.sub (by decide)
    | with_reducible apply kept_addDefect
    | with_reducible apply kept_setReg
    | with_reducible apply kept_capChange
    | with_reducible intro _ _ _ _
    | with_reducible intro _ _ _
    | with_reducible intro _ _
    | split

theorem kept_applyFinding (h : Kept κ s₀ s) (hκ : Off κ [.mem, .regs, .rse, .pge, .mzt, .cores, .exp, .sch, .phs, .fab, .xfr, .syn, .hcp, .bld, .pcr, .evt, .out]) (f : Finding) :
    Kept κ s₀ (State.applyFinding s f) := by
  unfold State.applyFinding
  try dsimp only
  repeat' first
    | with_reducible assumption
    | exact hκ.sub (by decide)
    | with_reducible apply kept_coreFailed
    | with_reducible apply kept_withdraw
    | with_reducible apply kept_channelOut
    | with_reducible apply kept_addDefect
    | with_reducible intro _ _ _ _
    | with_reducible intro _ _ _
    | with_reducible intro _ _
    | split

theorem kept_applyFindings (h : Kept κ s₀ s) (hκ : Off κ [.mem, .regs, .rse, .pge, .mzt, .cores, .exp, .sch, .phs, .fab, .xfr, .syn, .hcp, .bld, .pcr, .evt, .out]) (a0 : List Finding) :
    Kept κ s₀ (State.applyFindings s a0) := by
  induction a0 generalizing s with
  | nil =>
    unfold State.applyFindings
    try dsimp only
    repeat' first
      | with_reducible assumption
  | cons x_ l_ ih =>
    unfold State.applyFindings
    try dsimp only
    repeat' first
      | with_reducible assumption
      | with_reducible apply ih
      | exact hκ.sub (by decide)
      | with_reducible apply kept_applyFinding
      | with_reducible intro _ _ _ _
      | with_reducible intro _ _ _
      | with_reducible intro _ _
      | split

theorem kept_fwGeneration (h : Kept κ s₀ s) (hκ : Off κ [.regs, .sec])  :
    Kept κ s₀ (State.fwGeneration s) := by
  unfold State.fwGeneration
  try dsimp only
  repeat' first
    | with_reducible assumption
    | exact hκ.sub (by decide)
    | with_reducible apply kept_setReg
    | with_reducible apply kept_onSec
    | with_reducible intro _ _ _ _
    | with_reducible intro _ _ _
    | with_reducible intro _ _
    | split

theorem kept_dropPending (h : Kept κ s₀ s) (hκ : Off κ [.regs, .bld]) (sub : ℕ) :
    Kept κ s₀ (State.dropPending s sub) := by
  unfold State.dropPending
  try dsimp only
  repeat' first
    | with_reducible assumption
    | exact hκ.sub (by decide)
    | with_reducible apply kept_setReg
    | with_reducible apply kept_onBld
    | with_reducible intro _ _ _ _
    | with_reducible intro _ _ _
    | with_reducible intro _ _
    | split

theorem kept_activate (h : Kept κ s₀ s) (hκ : Off κ [.regs, .bld, .sec]) (sub : ℕ) (slotB : Bool) :
    Kept κ s₀ (State.activate s sub slotB) := by
  unfold State.activate
  try dsimp only
  repeat' first
    | with_reducible assumption
    | exact hκ.sub (by decide)
    | with_reducible apply kept_reReport
    | with_reducible apply kept_fwGeneration
    | with_reducible apply kept_setReg
    | with_reducible apply kept_dropPending
    | with_reducible apply kept_onBld
    | with_reducible intro _ _ _ _
    | with_reducible intro _ _ _
    | with_reducible intro _ _
    | split

theorem kept_takeTile (h : Kept κ s₀ s) (hκ : Off κ [.regs, .bld, .sec]) (t_ : ℕ) :
    Kept κ s₀ (State.takeTile s t_) := by
  unfold State.takeTile
  try dsimp only
  repeat' first
    | with_reducible assumption
    | exact hκ.sub (by decide)
    | with_reducible apply kept_onBld
    | with_reducible apply kept_activate
    | with_reducible intro _ _ _ _
    | with_reducible intro _ _ _
    | with_reducible intro _ _
    | split

theorem kept_execTileServiceOffline (h : Kept κ s₀ s) (hκ : Off κ [.regs, .cores, .fab, .hcp, .pcr, .evt, .out]) (p : HostPkt) (tile : ℕ) :
    OutKept κ s₀ (execTileServiceOffline p tile s) := by
  unfold execTileServiceOffline
  try dsimp only
  repeat' first
    | with_reducible assumption
    | exact hκ.sub (by decide)
    | with_reducible apply kept_prayr
    | with_reducible apply kept_hostReply
    | with_reducible apply kept_gateTile
    | with_reducible apply kept_tileOut
    | with_reducible apply kept_setBit
    | with_reducible apply OutKept.next
    | with_reducible intro _ _ _ _
    | with_reducible intro _ _ _
    | with_reducible intro _ _
    | split

theorem kept_execTileServiceOnline (h : Kept κ s₀ s) (hκ : Off κ [.regs, .fab, .hcp, .bld, .evt, .out]) (p : HostPkt) (tile : ℕ) :
    OutKept κ s₀ (execTileServiceOnline p tile s) := by
  unfold execTileServiceOnline
  try dsimp only
  repeat' first
    | with_reducible assumption
    | exact hκ.sub (by decide)
    | with_reducible apply kept_prayr
    | with_reducible apply kept_hostReply
    | with_reducible apply kept_onHcp
    | with_reducible apply kept_onBld
    | with_reducible apply OutKept.next
    | with_reducible intro _ _ _ _
    | with_reducible intro _ _ _
    | with_reducible intro _ _
    | split

theorem kept_onlineReply (h : Kept κ s₀ s) (hκ : Off κ [.hcp, .out]) (tile : ℕ) (st : St) :
    Kept κ s₀ (State.onlineReply s tile st) := by
  unfold State.onlineReply
  try dsimp only
  repeat' first
    | with_reducible assumption
    | exact hκ.sub (by decide)
    | with_reducible apply kept_hostReply
    | with_reducible apply kept_onHcp
    | with_reducible intro _ _ _ _
    | with_reducible intro _ _ _
    | with_reducible intro _ _
    | split

theorem kept_execTileOnlineTestDone (h : Kept κ s₀ s) (hκ : Off κ [.mem, .regs, .rse, .pge, .mzt, .cores, .exp, .sch, .phs, .fab, .xfr, .syn, .hcp, .bld, .sec, .pcr, .evt, .out]) (tile : ℕ) (findings : List Finding) :
    OutKept κ s₀ (execTileOnlineTestDone tile findings s) := by
  unfold execTileOnlineTestDone
  try dsimp only
  repeat' first
    | with_reducible assumption
    | exact hκ.sub (by decide)
    | with_reducible apply kept_onBld
    | with_reducible apply kept_applyFindings
    | with_reducible apply kept_onlineReply
    | with_reducible apply kept_takeTile
    | with_reducible apply kept_tileBack
    | with_reducible apply kept_setBit
    | with_reducible apply OutKept.next
    | with_reducible intro _ _ _ _
    | with_reducible intro _ _ _
    | with_reducible intro _ _
    | split

end Sys2Proof.Machine
end

