-- ==== Sys2Proof/Laws/KeptLicence.lean ====
section
/-! SUPPORT. What the operations of Machine/Licence.lean keep (see Laws/Kept.lean). -/

namespace Sys2Proof.Machine

variable {κ : Part → Bool} {s₀ s : State}

theorem kept_license (h : Kept κ s₀ s) (hκ : Off κ [.regs, .fab, .hcp, .evt, .out])  :
    Kept κ s₀ (State.license s) := by
  unfold State.license
  try dsimp only
  repeat' first
    | with_reducible assumption
    | exact hκ.sub (by decide)
    | with_reducible apply kept_capChange
    | with_reducible apply kept_foldl
    | with_reducible intro _ _ _ _
    | with_reducible intro _ _ _
    | with_reducible intro _ _
    | split

theorem kept_setLicences (h : Kept κ s₀ s) (hκ : Off κ [.regs, .bld]) (l : List Licence) :
    Kept κ s₀ (State.setLicences s l) := by
  unfold State.setLicences
  try dsimp only
  repeat' first
    | with_reducible assumption
    | exact hκ.sub (by decide)
    | with_reducible apply kept_setReg
    | with_reducible apply kept_onBld
    | with_reducible intro _ _ _ _
    | with_reducible intro _ _ _
    | with_reducible intro _ _
    | split

theorem kept_installLicence (h : Kept κ s₀ s) (hκ : Off κ [.regs, .fab, .hcp, .bld, .evt, .out]) (bs : List Sys2Proof.Byte) :
    Kept κ s₀ (State.installLicence s bs).1 := by
  unfold State.installLicence
  try dsimp only
  repeat' first
    | with_reducible assumption
    | exact hκ.sub (by decide)
    | with_reducible apply kept_reReport
    | with_reducible apply kept_post
    | with_reducible apply kept_license
    | with_reducible apply kept_setLicences
    | with_reducible intro _ _ _ _
    | with_reducible intro _ _ _
    | with_reducible intro _ _
    | split

theorem kept_execLicInstall (h : Kept κ s₀ s) (hκ : Off κ [.regs, .fab, .hcp, .bld, .sec, .evt, .out]) (p : HostPkt) (data : List Sys2Proof.Byte) :
    OutKept κ s₀ (execLicInstall p data s) := by
  unfold execLicInstall
  try dsimp only
  repeat' first
    | with_reducible assumption
    | exact hκ.sub (by decide)
    | with_reducible apply kept_prayr
    | with_reducible apply kept_approved
    | with_reducible apply kept_installLicence
    | with_reducible apply OutKept.next
    | with_reducible intro _ _ _ _
    | with_reducible intro _ _ _
    | with_reducible intro _ _
    | split
    | dsimp only [itself]
    | refine Kept.of_fst ?_ (by with_reducible assumption)

theorem kept_licenceBytes (h : Kept κ s₀ s) (a0 : List Licence) :
    Kept κ s₀ (State.licenceBytes s a0).2 := by
  induction a0 generalizing s with
  | nil =>
    unfold State.licenceBytes
    try dsimp only
    repeat' first
      | with_reducible assumption
  | cons x_ l_ ih =>
    unfold State.licenceBytes
    try dsimp only
    repeat' first
      | with_reducible assumption
      | with_reducible apply ih
      | with_reducible apply kept_next
      | with_reducible intro _ _ _ _
      | with_reducible intro _ _ _
      | with_reducible intro _ _
      | split
      | dsimp only [itself]
      | refine Kept.of_snd ?_ (by with_reducible assumption)

theorem kept_execLicList (h : Kept κ s₀ s) (hκ : Off κ [.regs, .fab, .hcp, .evt, .out]) (p : HostPkt) :
    OutKept κ s₀ (execLicList p s) := by
  unfold execLicList
  try dsimp only
  repeat' first
    | with_reducible assumption
    | exact hκ.sub (by decide)
    | with_reducible apply kept_prayr
    | with_reducible apply kept_licenceBytes
    | with_reducible apply kept_hostReply
    | with_reducible apply OutKept.next
    | with_reducible intro _ _ _ _
    | with_reducible intro _ _ _
    | with_reducible intro _ _
    | split
    | dsimp only [itself]
    | refine Kept.of_snd ?_ (by with_reducible assumption)

theorem kept_execLicRemove (h : Kept κ s₀ s) (hκ : Off κ [.regs, .fab, .hcp, .bld, .evt, .out]) (p : HostPkt) (serial : ℕ) :
    OutKept κ s₀ (execLicRemove p serial s) := by
  unfold execLicRemove
  try dsimp only
  repeat' first
    | with_reducible assumption
    | exact hκ.sub (by decide)
    | with_reducible apply kept_prayr
    | with_reducible apply kept_hostReply
    | with_reducible apply kept_reReport
    | with_reducible apply kept_license
    | with_reducible apply kept_setLicences
    | with_reducible apply OutKept.next
    | with_reducible intro _ _ _ _
    | with_reducible intro _ _ _
    | with_reducible intro _ _
    | split

theorem kept_execLicenceTickRecord (h : Kept κ s₀ s) (hκ : Off κ [.bld])  :
    OutKept κ s₀ (execLicenceTickRecord s) := by
  unfold execLicenceTickRecord
  try dsimp only
  repeat' first
    | with_reducible assumption
    | exact hκ.sub (by decide)
    | with_reducible apply kept_onBld
    | with_reducible apply OutKept.next
    | with_reducible intro _ _ _ _
    | with_reducible intro _ _ _
    | with_reducible intro _ _
    | split

theorem kept_execLicenceLapse (h : Kept κ s₀ s) (hκ : Off κ [.regs, .fab, .hcp, .bld, .evt, .out]) (serial : ℕ) :
    OutKept κ s₀ (execLicenceLapse serial s) := by
  unfold execLicenceLapse
  try dsimp only
  repeat' first
    | with_reducible assumption
    | exact hκ.sub (by decide)
    | with_reducible apply kept_onBld
    | with_reducible apply kept_reReport
    | with_reducible apply kept_post
    | with_reducible apply kept_license
    | with_reducible apply OutKept.next
    | with_reducible intro _ _ _ _
    | with_reducible intro _ _ _
    | with_reducible intro _ _
    | split

end Sys2Proof.Machine
end

