-- ==== Sys2Proof/Laws/KeptImages.lean ====
section
/-! SUPPORT. What the operations of Machine/Images.lean keep (see Laws/Kept.lean). -/

namespace Sys2Proof.Machine

variable {κ : Part → Bool} {s₀ s : State}

theorem kept_execImgStatus (h : Kept κ s₀ s) (hκ : Off κ [.regs, .fab, .hcp, .evt, .out]) (p : HostPkt) :
    OutKept κ s₀ (execImgStatus p s) := by
  unfold execImgStatus
  try dsimp only
  repeat' first
    | with_reducible assumption
    | exact hκ.sub (by decide)
    | with_reducible apply kept_prayr
    | with_reducible apply kept_hostReply
    | with_reducible apply OutKept.next
    | with_reducible intro _ _ _ _
    | with_reducible intro _ _ _
    | with_reducible intro _ _
    | split

theorem kept_imgActivate (h : Kept κ s₀ s) (hκ : Off κ [.regs, .fab, .hcp, .bld, .sec, .evt, .out]) (sub : ℕ) (slotB : Bool) :
    Kept κ s₀ (State.imgActivate s sub slotB) := by
  unfold State.imgActivate
  try dsimp only
  repeat' first
    | with_reducible assumption
    | exact hκ.sub (by decide)
    | with_reducible apply kept_setReg
    | with_reducible apply kept_onBld
    | with_reducible apply kept_activate
    | with_reducible apply kept_serdesNext
    | with_reducible apply kept_reReport
    | with_reducible apply kept_fwGeneration
    | with_reducible apply kept_dropPending
    | with_reducible intro _ _ _ _
    | with_reducible intro _ _ _
    | with_reducible intro _ _
    | split

theorem kept_execImgActivate (h : Kept κ s₀ s) (hκ : Off κ [.regs, .fab, .hcp, .bld, .sec, .evt, .out]) (p : HostPkt) (subsystem : ℕ) (slotB : Bool) :
    OutKept κ s₀ (execImgActivate p subsystem slotB s) := by
  unfold execImgActivate
  try dsimp only
  repeat' first
    | with_reducible assumption
    | exact hκ.sub (by decide)
    | with_reducible apply kept_prayr
    | with_reducible apply kept_hostReply
    | with_reducible apply kept_imgActivate
    | with_reducible apply OutKept.next
    | with_reducible intro _ _ _ _
    | with_reducible intro _ _ _
    | with_reducible intro _ _
    | split

theorem kept_execImageHealthy (h : Kept κ s₀ s) (hκ : Off κ [.bld]) (subsystem : ℕ) :
    OutKept κ s₀ (execImageHealthy subsystem s) := by
  unfold execImageHealthy
  try dsimp only
  repeat' first
    | with_reducible assumption
    | exact hκ.sub (by decide)
    | with_reducible apply kept_onBld
    | with_reducible apply OutKept.next
    | with_reducible intro _ _ _ _
    | with_reducible intro _ _ _
    | with_reducible intro _ _
    | split

theorem kept_fallBack (h : Kept κ s₀ s) (hκ : Off κ [.regs, .fab, .hcp, .bld, .sec, .evt, .out]) (sub : ℕ) (slotB : Bool) :
    Kept κ s₀ (State.fallBack s sub slotB) := by
  unfold State.fallBack
  try dsimp only
  repeat' first
    | with_reducible assumption
    | exact hκ.sub (by decide)
    | with_reducible apply kept_post
    | with_reducible apply kept_activate
    | with_reducible apply kept_setReg
    | with_reducible intro _ _ _ _
    | with_reducible intro _ _ _
    | with_reducible intro _ _
    | split

theorem kept_execImageHealthExpiry (h : Kept κ s₀ s) (hκ : Off κ [.regs, .fab, .hcp, .bld, .sec, .evt, .out]) (subsystem : ℕ) :
    OutKept κ s₀ (execImageHealthExpiry subsystem s) := by
  unfold execImageHealthExpiry
  try dsimp only
  repeat' first
    | with_reducible assumption
    | exact hκ.sub (by decide)
    | with_reducible apply kept_fallBack
    | with_reducible apply kept_onBld
    | with_reducible apply kept_serdesNext
    | with_reducible apply OutKept.next
    | with_reducible intro _ _ _ _
    | with_reducible intro _ _ _
    | with_reducible intro _ _
    | split

theorem kept_putSession (h : Kept κ s₀ s) (hκ : Off κ [.bld]) (b : Bcast) :
    Kept κ s₀ (State.putSession s b) := by
  unfold State.putSession
  try dsimp only
  repeat' first
    | with_reducible assumption
    | exact hκ.sub (by decide)
    | with_reducible apply kept_onBld
    | with_reducible intro _ _ _ _
    | with_reducible intro _ _ _
    | with_reducible intro _ _
    | split

theorem kept_openSession (h : Kept κ s₀ s) (hκ : Off κ [.regs, .bld]) (o : BcastOpen) (m : Manifest) (children : List ℕ) (peers : List ℕ) :
    Kept κ s₀ (State.openSession s o m children peers) := by
  unfold State.openSession
  try dsimp only
  repeat' first
    | with_reducible assumption
    | exact hκ.sub (by decide)
    | with_reducible apply kept_setRegs
    | with_reducible apply kept_onBld
    | with_reducible intro _ _ _ _
    | with_reducible intro _ _ _
    | with_reducible intro _ _
    | split

theorem kept_execBcastOpen (h : Kept κ s₀ s) (hκ : Off κ [.regs, .fab, .hcp, .bld, .evt, .out]) (p : HostPkt) (o : BcastOpen) (manifest : List Sys2Proof.Byte) (children : List ℕ) (peers : List ℕ) :
    OutKept κ s₀ (execBcastOpen p o manifest children peers s) := by
  unfold execBcastOpen
  try dsimp only
  repeat' first
    | with_reducible assumption
    | exact hκ.sub (by decide)
    | with_reducible apply kept_prayr
    | with_reducible apply kept_hostReply
    | with_reducible apply kept_openSession
    | with_reducible apply OutKept.next
    | with_reducible intro _ _ _ _
    | with_reducible intro _ _ _
    | with_reducible intro _ _
    | split

theorem kept_execBcastStatus (h : Kept κ s₀ s) (hκ : Off κ [.regs, .fab, .hcp, .evt, .out]) (p : HostPkt) (session : ℕ) :
    OutKept κ s₀ (execBcastStatus p session s) := by
  unfold execBcastStatus
  try dsimp only
  repeat' first
    | with_reducible assumption
    | exact hκ.sub (by decide)
    | with_reducible apply kept_prayr
    | with_reducible apply kept_hostReply
    | with_reducible apply OutKept.next
    | with_reducible intro _ _ _ _
    | with_reducible intro _ _ _
    | with_reducible intro _ _
    | split

theorem kept_sendReply (h : Kept κ s₀ s) (hκ : Off κ [.hcp, .out]) (session : ℕ) (st : St) :
    Kept κ s₀ (State.sendReply s session st) := by
  unfold State.sendReply
  try dsimp only
  repeat' first
    | with_reducible assumption
    | exact hκ.sub (by decide)
    | with_reducible apply kept_hostReply
    | with_reducible apply kept_onHcp
    | with_reducible intro _ _ _ _
    | with_reducible intro _ _ _
    | with_reducible intro _ _
    | split

theorem kept_closeSession (h : Kept κ s₀ s) (hκ : Off κ [.regs, .hcp, .bld, .out]) (b : Bcast) :
    Kept κ s₀ (State.closeSession s b) := by
  unfold State.closeSession
  try dsimp only
  repeat' first
    | with_reducible assumption
    | exact hκ.sub (by decide)
    | with_reducible apply kept_setRegs
    | with_reducible apply kept_onBld
    | with_reducible apply kept_sendReply
    | with_reducible intro _ _ _ _
    | with_reducible intro _ _ _
    | with_reducible intro _ _
    | split

theorem kept_execBcastClose (h : Kept κ s₀ s) (hκ : Off κ [.regs, .fab, .hcp, .bld, .evt, .out]) (p : HostPkt) (session : ℕ) :
    OutKept κ s₀ (execBcastClose p session s) := by
  unfold execBcastClose
  try dsimp only
  repeat' first
    | with_reducible assumption
    | exact hκ.sub (by decide)
    | with_reducible apply kept_prayr
    | with_reducible apply kept_hostReply
    | with_reducible apply kept_closeSession
    | with_reducible apply OutKept.next
    | with_reducible intro _ _ _ _
    | with_reducible intro _ _ _
    | with_reducible intro _ _
    | split

theorem kept_failSession (h : Kept κ s₀ s) (hκ : Off κ [.regs, .fab, .hcp, .evt, .out]) (b : Bcast) (st : St) :
    Kept κ s₀ (State.failSession s b st) := by
  unfold State.failSession
  try dsimp only
  repeat' first
    | with_reducible assumption
    | exact hκ.sub (by decide)
    | with_reducible apply kept_sendReply
    | with_reducible apply kept_post
    | with_reducible apply kept_setRegs
    | with_reducible intro _ _ _ _
    | with_reducible intro _ _ _
    | with_reducible intro _ _
    | split

theorem kept_completeSession (h : Kept κ s₀ s) (hκ : Off κ [.regs, .fab, .hcp, .bld, .evt, .out]) (b : Bcast) :
    Kept κ s₀ (State.completeSession s b) := by
  unfold State.completeSession
  try dsimp only
  repeat' first
    | with_reducible assumption
    | exact hκ.sub (by decide)
    | with_reducible apply kept_post
    | with_reducible apply kept_setRegs
    | with_reducible apply kept_putSession
    | with_reducible intro _ _ _ _
    | with_reducible intro _ _ _
    | with_reducible intro _ _
    | split

theorem kept_sendChunk (h : Kept κ s₀ s) (hκ : Off κ [.regs, .fab, .hcp, .out]) (b : Bcast) (dst : ℕ) (c : ℕ) :
    Kept κ s₀ (State.sendChunk s b dst c) := by
  unfold State.sendChunk
  try dsimp only
  repeat' first
    | with_reducible assumption
    | exact hκ.sub (by decide)
    | with_reducible apply kept_inject
    | with_reducible apply kept_foldl
    | with_reducible intro _ _ _ _
    | with_reducible intro _ _ _
    | with_reducible intro _ _
    | split

theorem kept_askRepair (h : Kept κ s₀ s) (hκ : Off κ [.regs, .fab, .hcp, .bld, .out]) (b : Bcast) (node : ℕ) :
    Kept κ s₀ (State.askRepair s b node) := by
  unfold State.askRepair
  try dsimp only
  repeat' first
    | with_reducible assumption
    | exact hκ.sub (by decide)
    | with_reducible apply kept_putSession
    | with_reducible apply kept_count
    | with_reducible apply kept_sendMsg
    | with_reducible apply kept_foldl
    | with_reducible intro _ _ _ _
    | with_reducible intro _ _ _
    | with_reducible intro _ _
    | split

theorem kept_verifyChunk (h : Kept κ s₀ s) (hκ : Off κ [.regs, .fab, .hcp, .bld, .out]) (b : Bcast) (c : ℕ) (crc : ℕ) :
    Kept κ s₀ (State.verifyChunk s b c crc) := by
  unfold State.verifyChunk
  try dsimp only
  repeat' first
    | with_reducible assumption
    | exact hκ.sub (by decide)
    | with_reducible apply kept_setReg
    | with_reducible apply kept_putSession
    | with_reducible apply kept_askRepair
    | with_reducible apply kept_bump
    | with_reducible intro _ _ _ _
    | with_reducible intro _ _ _
    | with_reducible intro _ _
    | split

theorem kept_takePacket (h : Kept κ s₀ s) (hκ : Off κ [.mem, .regs, .fab, .hcp, .bld, .out]) (b : Bcast) (f : Frame) (m : BcastMsg) :
    Kept κ s₀ (State.takePacket s b f m) := by
  unfold State.takePacket
  try dsimp only
  repeat' first
    | with_reducible assumption
    | exact hκ.sub (by decide)
    | with_reducible apply kept_place
    | with_reducible apply kept_putSession
    | with_reducible apply kept_injectAll
    | with_reducible apply kept_verifyChunk
    | with_reducible intro _ _ _ _
    | with_reducible intro _ _ _
    | with_reducible intro _ _
    | split

theorem kept_execBcastPacket (h : Kept κ s₀ s) (hκ : Off κ [.mem, .regs, .fab, .hcp, .bld, .out]) (f : Frame) :
    OutKept κ s₀ (execBcastPacket f s) := by
  unfold execBcastPacket
  try dsimp only
  repeat' first
    | with_reducible assumption
    | exact hκ.sub (by decide)
    | with_reducible apply kept_takeFrame
    | with_reducible apply kept_takePacket
    | with_reducible apply kept_bump
    | with_reducible apply OutKept.next
    | with_reducible intro _ _ _ _
    | with_reducible intro _ _ _
    | with_reducible intro _ _
    | split

theorem kept_firstRepair (h : Kept κ s₀ s) (hκ : Off κ [.regs, .fab, .hcp, .bld, .out]) (b : Bcast) :
    Kept κ s₀ (State.firstRepair s b) := by
  unfold State.firstRepair
  try dsimp only
  repeat' first
    | with_reducible assumption
    | exact hκ.sub (by decide)
    | with_reducible apply kept_askRepair
    | with_reducible intro _ _ _ _
    | with_reducible intro _ _ _
    | with_reducible intro _ _
    | split

theorem kept_execBcastEnd (h : Kept κ s₀ s) (hκ : Off κ [.regs, .fab, .hcp, .bld, .out]) (src : ℕ) (session : ℕ) (chunks : ℕ) :
    OutKept κ s₀ (execBcastEnd src session chunks s) := by
  unfold execBcastEnd
  try dsimp only
  repeat' first
    | with_reducible assumption
    | exact hκ.sub (by decide)
    | with_reducible apply kept_takeMsg
    | with_reducible apply kept_bump
    | with_reducible apply kept_putSession
    | with_reducible apply kept_sendMsgs
    | with_reducible apply kept_firstRepair
    | with_reducible apply OutKept.next
    | with_reducible intro _ _ _ _
    | with_reducible intro _ _ _
    | with_reducible intro _ _
    | split

theorem kept_serveRepair (h : Kept κ s₀ s) (hκ : Off κ [.regs, .fab, .hcp, .out]) (b : Bcast) (src : ℕ) (first : ℕ) (count : ℕ) :
    Kept κ s₀ (State.serveRepair s b src first count) := by
  unfold State.serveRepair
  try dsimp only
  repeat' first
    | with_reducible assumption
    | exact hκ.sub (by decide)
    | with_reducible apply kept_sendChunk
    | with_reducible apply kept_sendMsg
    | with_reducible apply kept_foldl
    | with_reducible intro _ _ _ _
    | with_reducible intro _ _ _
    | with_reducible intro _ _
    | split

theorem kept_execRepairReq (h : Kept κ s₀ s) (hκ : Off κ [.regs, .fab, .hcp, .out]) (src : ℕ) (session : ℕ) (first : ℕ) (count : ℕ) :
    OutKept κ s₀ (execRepairReq src session first count s) := by
  unfold execRepairReq
  try dsimp only
  repeat' first
    | with_reducible assumption
    | exact hκ.sub (by decide)
    | with_reducible apply kept_takeMsg
    | with_reducible apply kept_bump
    | with_reducible apply kept_serveRepair
    | with_reducible apply OutKept.next
    | with_reducible intro _ _ _ _
    | with_reducible intro _ _ _
    | with_reducible intro _ _
    | split

theorem kept_queryPeers (h : Kept κ s₀ s) (hκ : Off κ [.regs, .fab, .hcp, .bld, .out]) (b : Bcast) :
    Kept κ s₀ (State.queryPeers s b) := by
  unfold State.queryPeers
  try dsimp only
  repeat' first
    | with_reducible assumption
    | exact hκ.sub (by decide)
    | with_reducible apply kept_putSession
    | with_reducible apply kept_sendMsgs
    | with_reducible intro _ _ _ _
    | with_reducible intro _ _ _
    | with_reducible intro _ _
    | split

theorem kept_execRepairNak (h : Kept κ s₀ s) (hκ : Off κ [.regs, .fab, .hcp, .bld, .out]) (src : ℕ) (session : ℕ) (first : ℕ) (count : ℕ) :
    OutKept κ s₀ (execRepairNak src session first count s) := by
  unfold execRepairNak
  try dsimp only
  repeat' first
    | with_reducible assumption
    | exact hκ.sub (by decide)
    | with_reducible apply kept_takeMsg
    | with_reducible apply kept_queryPeers
    | with_reducible apply kept_bump
    | with_reducible apply OutKept.next
    | with_reducible intro _ _ _ _
    | with_reducible intro _ _ _
    | with_reducible intro _ _
    | split

theorem kept_execStatusQuery (h : Kept κ s₀ s) (hκ : Off κ [.regs, .fab, .hcp, .out]) (src : ℕ) (session : ℕ) :
    OutKept κ s₀ (execStatusQuery src session s) := by
  unfold execStatusQuery
  try dsimp only
  repeat' first
    | with_reducible assumption
    | exact hκ.sub (by decide)
    | with_reducible apply kept_takeMsg
    | with_reducible apply kept_bump
    | with_reducible apply kept_sendMsg
    | with_reducible apply OutKept.next
    | with_reducible intro _ _ _ _
    | with_reducible intro _ _ _
    | with_reducible intro _ _
    | split

theorem kept_execStatusReply (h : Kept κ s₀ s) (hκ : Off κ [.regs, .fab, .hcp, .bld, .out]) (src : ℕ) (session : ℕ) (held : ℕ) (complete : Bool) :
    OutKept κ s₀ (execStatusReply src session held complete s) := by
  unfold execStatusReply
  try dsimp only
  repeat' first
    | with_reducible assumption
    | exact hκ.sub (by decide)
    | with_reducible apply kept_takeMsg
    | with_reducible apply kept_askRepair
    | with_reducible apply kept_putSession
    | with_reducible apply kept_bump
    | with_reducible apply OutKept.next
    | with_reducible intro _ _ _ _
    | with_reducible intro _ _ _
    | with_reducible intro _ _
    | split

theorem kept_execRepairWaitExpiry (h : Kept κ s₀ s) (hκ : Off κ [.regs, .fab, .hcp, .bld, .evt, .out]) (session : ℕ) :
    OutKept κ s₀ (execRepairWaitExpiry session s) := by
  unfold execRepairWaitExpiry
  try dsimp only
  repeat' first
    | with_reducible assumption
    | exact hκ.sub (by decide)
    | with_reducible apply kept_failSession
    | with_reducible apply kept_firstRepair
    | with_reducible apply kept_askRepair
    | with_reducible apply kept_queryPeers
    | with_reducible apply OutKept.next
    | with_reducible intro _ _ _ _
    | with_reducible intro _ _ _
    | with_reducible intro _ _
    | split

theorem kept_execBcastSend (h : Kept κ s₀ s) (hκ : Off κ [.regs, .fab, .hcp, .bld, .evt, .out]) (p : HostPkt) (session : ℕ) :
    OutKept κ s₀ (execBcastSend p session s) := by
  unfold execBcastSend
  try dsimp only
  repeat' first
    | with_reducible assumption
    | exact hκ.sub (by decide)
    | with_reducible apply kept_prayr
    | with_reducible apply kept_hostReply
    | with_reducible apply kept_onHcp
    | with_reducible apply kept_putSession
    | with_reducible apply OutKept.next
    | with_reducible intro _ _ _ _
    | with_reducible intro _ _ _
    | with_reducible intro _ _
    | split

theorem kept_sendImage (h : Kept κ s₀ s) (hκ : Off κ [.regs, .fab, .hcp, .out]) (b : Bcast) :
    Kept κ s₀ (State.sendImage s b) := by
  unfold State.sendImage
  try dsimp only
  repeat' first
    | with_reducible assumption
    | exact hκ.sub (by decide)
    | with_reducible apply kept_sendChunk
    | with_reducible apply kept_sendMsgs
    | with_reducible apply kept_foldl
    | with_reducible intro _ _ _ _
    | with_reducible intro _ _ _
    | with_reducible intro _ _
    | split

theorem kept_execImageHashDone (h : Kept κ s₀ s) (hκ : Off κ [.regs, .fab, .hcp, .bld, .evt, .out]) (session : ℕ) :
    OutKept κ s₀ (execImageHashDone session s) := by
  unfold execImageHashDone
  try dsimp only
  repeat' first
    | with_reducible assumption
    | exact hκ.sub (by decide)
    | with_reducible apply kept_failSession
    | with_reducible apply kept_setReg
    | with_reducible apply kept_putSession
    | with_reducible apply kept_sendImage
    | with_reducible apply kept_sendReply
    | with_reducible apply kept_completeSession
    | with_reducible apply OutKept.next
    | with_reducible intro _ _ _ _
    | with_reducible intro _ _ _
    | with_reducible intro _ _
    | split

theorem kept_writeSlot (h : Kept κ s₀ s) (hκ : Off κ [.regs, .bld, .sec]) (m : Manifest) :
    Kept κ s₀ (State.writeSlot s m) := by
  unfold State.writeSlot
  try dsimp only
  repeat' first
    | with_reducible assumption
    | exact hκ.sub (by decide)
    | with_reducible apply kept_onBld
    | with_reducible apply kept_setReg
    | with_reducible apply kept_reReport
    | with_reducible apply kept_fwGeneration
    | with_reducible apply kept_dropPending
    | with_reducible intro _ _ _ _
    | with_reducible intro _ _ _
    | with_reducible intro _ _
    | split

theorem kept_execImageSlotWriteDone (h : Kept κ s₀ s) (hκ : Off κ [.regs, .fab, .hcp, .bld, .sec, .evt, .out]) (session : ℕ) :
    OutKept κ s₀ (execImageSlotWriteDone session s) := by
  unfold execImageSlotWriteDone
  try dsimp only
  repeat' first
    | with_reducible assumption
    | exact hκ.sub (by decide)
    | with_reducible apply kept_completeSession
    | with_reducible apply kept_writeSlot
    | with_reducible apply OutKept.next
    | with_reducible intro _ _ _ _
    | with_reducible intro _ _ _
    | with_reducible intro _ _
    | split

end Sys2Proof.Machine
end

