-- ==== Sys2Proof/Laws/KeptReset.lean ====
section
/-! SUPPORT. What the operations of Machine/Reset.lean keep (see Laws/Kept.lean). -/

namespace Sys2Proof.Machine

variable {κ : Part → Bool} {s₀ s : State}

theorem kept_resetRegs (h : Kept κ s₀ s) (hκ : Off κ [.regs]) (cold : Bool) :
    Kept κ s₀ (State.resetRegs s cold) := by
  unfold State.resetRegs
  refine kept_setRegs ?_ hκ _
  exact Kept.of_cells h rfl rfl rfl List.filter_sublist (.refl _) (.refl _) (.refl _) (.refl _) (by intro p hp; cases p <;> first | exact (hκ.not hp (by decide)).elim | rfl)

theorem kept_lose (h : Kept κ s₀ s) (hκ : Off κ [.mem, .rse, .pge, .mzt, .cores, .exp, .sch, .phs, .fab, .xfr, .syn, .hcp, .bld, .sec, .pcr, .evt]) (cold : Bool) :
    Kept κ s₀ (State.lose s cold) := by
  refine Kept.of_cells h rfl rfl rfl (.refl _) ?_ (List.nil_sublist _) (List.nil_sublist _) (List.nil_sublist _)
    (by intro p hp; cases p <;> first | exact (hκ.not hp (by decide)).elim | rfl)
  cases cold
  · exact .refl _
  · exact List.nil_sublist _

theorem kept_warmSlots (h : Kept κ s₀ s) (hκ : Off κ [.regs])  :
    Kept κ s₀ (State.warmSlots s) := by
  unfold State.warmSlots
  try dsimp only
  repeat' first
    | with_reducible assumption
    | exact hκ.sub (by decide)
    | with_reducible apply kept_setReg
    | with_reducible apply kept_foldl
    | with_reducible intro _ _ _ _
    | with_reducible intro _ _ _
    | with_reducible intro _ _
    | split

theorem kept_countStart (h : Kept κ s₀ s) (hκ : Off κ [.regs, .bld]) (k : ResetKind) :
    Kept κ s₀ (State.countStart s k) := by
  unfold State.countStart
  try dsimp only
  repeat' first
    | with_reducible assumption
    | exact hκ.sub (by decide)
    | with_reducible apply kept_setRegs
    | with_reducible apply kept_onBld
    | with_reducible intro _ _ _ _
    | with_reducible intro _ _ _
    | with_reducible intro _ _
    | split

theorem kept_enterStage (h : Kept κ s₀ s) (hκ : Off κ [.regs, .bld]) (n : ℕ) :
    Kept κ s₀ (State.enterStage s n) := by
  unfold State.enterStage
  try dsimp only
  repeat' first
    | with_reducible assumption
    | exact hκ.sub (by decide)
    | with_reducible apply kept_setReg
    | with_reducible apply kept_onBld
    | with_reducible intro _ _ _ _
    | with_reducible intro _ _ _
    | with_reducible intro _ _
    | split

theorem kept_newStart (h : Kept κ s₀ s) (hκ : Off κ [.rse, .fab]) :
    Kept κ s₀ (State.newStart s) := by
  unfold State.newStart
  try dsimp only
  repeat' first
    | with_reducible assumption
    | exact hκ.sub (by decide)
    | with_reducible apply kept_onFab
    | with_reducible apply kept_onRse
    | with_reducible intro _ _ _ _
    | with_reducible intro _ _ _
    | with_reducible intro _ _
    | split

theorem kept_requeue (h : Kept κ s₀ s) (hκ : Off κ [.sch]) :
    Kept κ s₀ (State.requeue s) := by
  unfold State.requeue
  try dsimp only
  repeat' first
    | with_reducible assumption
    | exact hκ.sub (by decide)
    | with_reducible apply kept_enqueue
    | with_reducible apply kept_foldl
    | with_reducible intro _ _ _ _
    | with_reducible intro _ _ _
    | with_reducible intro _ _
    | split

theorem kept_dropSubmits (h : Kept κ s₀ s) (hκ : Off κ [.regs, .rse, .pge, .fab, .hcp, .out]) :
    Kept κ s₀ (State.dropSubmits s) := by
  unfold State.dropSubmits
  try dsimp only
  repeat' first
    | with_reducible assumption
    | exact hκ.sub (by decide)
    | with_reducible apply kept_dropHome
    | with_reducible apply kept_foldl
    | with_reducible intro _ _ _ _
    | with_reducible intro _ _ _
    | with_reducible intro _ _
    | split

theorem kept_fullReset (h : Kept κ s₀ s) (hκ : Off κ [.mem, .regs, .rse, .pge, .mzt, .cores, .exp, .sch, .phs, .fab, .xfr, .syn, .hcp, .bld, .sec, .pcr, .evt, .out]) (k : ResetKind) :
    Kept κ s₀ (State.fullReset s k) := by
  unfold State.fullReset
  try dsimp only
  repeat' first
    | with_reducible assumption
    | exact hκ.sub (by decide)
    | with_reducible apply kept_warmSlots
    | with_reducible apply kept_countStart
    | with_reducible apply kept_resetRegs
    | with_reducible apply kept_lose
    | with_reducible apply kept_setRegs
    | with_reducible apply kept_onBld
    | with_reducible apply kept_enterStage
    | with_reducible apply kept_dropSubmits
    | with_reducible apply kept_requeue
    | with_reducible apply kept_newStart
    | with_reducible intro _ _ _ _
    | with_reducible intro _ _ _
    | with_reducible intro _ _
    | split

theorem kept_execColdStart (h : Kept κ s₀ s) (hκ : Off κ [.mem, .regs, .rse, .pge, .mzt, .cores, .exp, .sch, .phs, .fab, .xfr, .syn, .hcp, .bld, .sec, .pcr, .evt, .out]) (pin : Bool) :
    OutKept κ s₀ (execColdStart pin s) := by
  unfold execColdStart
  try dsimp only
  repeat' first
    | with_reducible assumption
    | exact hκ.sub (by decide)
    | with_reducible apply kept_onPcr
    | with_reducible apply kept_onBld
    | with_reducible apply kept_fullReset
    | with_reducible apply OutKept.next
    | with_reducible intro _ _ _ _
    | with_reducible intro _ _ _
    | with_reducible intro _ _
    | split

theorem kept_execWatchdogExpiry (h : Kept κ s₀ s) (hκ : Off κ [.mem, .regs, .rse, .pge, .mzt, .cores, .exp, .sch, .phs, .fab, .xfr, .syn, .hcp, .bld, .sec, .pcr, .evt, .out])  :
    OutKept κ s₀ (execWatchdogExpiry s) := by
  unfold execWatchdogExpiry
  try dsimp only
  repeat' first
    | with_reducible assumption
    | exact hκ.sub (by decide)
    | with_reducible apply kept_fullReset
    | with_reducible apply OutKept.next
    | with_reducible intro _ _ _ _
    | with_reducible intro _ _ _
    | with_reducible intro _ _
    | split

theorem kept_recordTrip (h : Kept κ s₀ s) (hκ : Off κ [.regs]) (st : St) (cause : ℕ) (source : ℕ) :
    Kept κ s₀ (State.recordTrip s st cause source) := by
  unfold State.recordTrip
  try dsimp only
  repeat' first
    | with_reducible assumption
    | exact hκ.sub (by decide)
    | with_reducible apply kept_setRegs
    | with_reducible intro _ _ _ _
    | with_reducible intro _ _ _
    | with_reducible intro _ _
    | split

theorem kept_railsOff (h : Kept κ s₀ s) (hκ : Off κ [.mem, .regs, .rse, .pge, .mzt, .cores, .exp, .sch, .phs, .fab, .xfr, .syn, .hcp, .bld, .sec, .pcr, .evt]) (st : St) (cause : ℕ) (source : ℕ) :
    Kept κ s₀ (State.railsOff s st cause source) := by
  unfold State.railsOff
  try dsimp only
  repeat' first
    | with_reducible assumption
    | exact hκ.sub (by decide)
    | with_reducible apply kept_onBld
    | with_reducible apply kept_resetRegs
    | with_reducible apply kept_lose
    | with_reducible apply kept_recordTrip
    | with_reducible intro _ _ _ _
    | with_reducible intro _ _ _
    | with_reducible intro _ _
    | split

theorem kept_dropFlight (h : Kept κ s₀ s) (hκ : Off κ [.mem, .regs, .rse, .cores, .fab, .xfr, .syn, .hcp, .evt, .out]) (r : XReq) :
    Kept κ s₀ (State.dropFlight s r) := by
  unfold State.dropFlight
  try dsimp only
  repeat' first
    | with_reducible assumption
    | exact hκ.sub (by decide)
    | with_reducible apply kept_writeDone
    | with_reducible apply kept_onXfr
    | with_reducible apply kept_endFlush
    | with_reducible apply kept_bump
    | with_reducible apply kept_setReg
    | with_reducible apply kept_putXq
    | with_reducible apply kept_account
    | with_reducible intro _ _ _ _
    | with_reducible intro _ _ _
    | with_reducible intro _ _
    | split

theorem kept_resetXfr (h : Kept κ s₀ s) (hκ : Off κ [.mem, .regs, .rse, .mzt, .cores, .sch, .phs, .fab, .xfr, .syn, .hcp, .evt, .out]) :
    Kept κ s₀ (State.resetXfr s) := by
  unfold State.resetXfr
  try dsimp only
  repeat' first
    | with_reducible assumption
    | exact hκ.sub (by decide)
    | with_reducible apply kept_dropFlight
    | with_reducible apply kept_flushDeviceQueue
    | with_reducible apply kept_failMessages
    | with_reducible apply kept_flushQueue
    | with_reducible apply kept_foldl
    | with_reducible intro _ _ _ _
    | with_reducible intro _ _ _
    | with_reducible intro _ _
    | split

theorem kept_resetSync (h : Kept κ s₀ s) (hκ : Off κ [.regs, .syn, .bld])  :
    Kept κ s₀ (State.resetSync s) := by
  unfold State.resetSync
  try dsimp only
  repeat' first
    | with_reducible assumption
    | exact hκ.sub (by decide)
    | with_reducible apply kept_onSyn
    | with_reducible apply kept_setRegs
    | with_reducible apply kept_onBld
    | with_reducible apply kept_foldl
    | with_reducible intro _ _ _ _
    | with_reducible intro _ _ _
    | with_reducible intro _ _
    | split

theorem kept_resetTiles (h : Kept κ s₀ s) (hκ : Off κ [.mem, .regs, .pge, .mzt, .cores, .phs, .fab, .hcp, .bld, .pcr, .out])  :
    Kept κ s₀ (State.resetTiles s) := by
  unfold State.resetTiles
  dsimp only
  have hr := kept_refuseQueue (kept_foldl (fun s t => s.onlineReply t .nodeResetting) s.bld.testing h
    fun _ _ hu => kept_onlineReply hu (hκ.sub (by decide)) _ _) (hκ.sub (by decide)) .nodeResetting
  exact Kept.of_cells hr rfl rfl rfl List.filter_sublist (.refl _) (List.nil_sublist _)
    (List.nil_sublist _) (.refl _) (by intro p hp; cases p <;> first | exact (hκ.not hp (by decide)).elim | rfl)

theorem kept_closeAll (h : Kept κ s₀ s) (hκ : Off κ [.mem, .regs, .rse, .mzt, .cores, .exp, .sch, .phs, .fab, .xfr, .syn, .hcp, .evt, .out])  :
    Kept κ s₀ (State.closeAll s) := by
  unfold State.closeAll
  try dsimp only
  repeat' first
    | with_reducible assumption
    | exact hκ.sub (by decide)
    | with_reducible apply kept_releaseBinds
    | with_reducible apply kept_ctxCmdDone
    | with_reducible apply kept_setReg
    | with_reducible apply kept_onSch
    | with_reducible apply kept_resetXfr
    | with_reducible apply kept_onRse
    | with_reducible apply kept_post
    | with_reducible apply kept_foldl
    | with_reducible intro _ _ _ _
    | with_reducible intro _ _ _
    | with_reducible intro _ _
    | split

theorem kept_emptySlots (h : Kept κ s₀ s) (hκ : Off κ [.regs, .exp, .fab, .hcp, .evt, .out])  :
    Kept κ s₀ (State.emptySlots s) := by
  unfold State.emptySlots
  try dsimp only
  repeat' first
    | with_reducible assumption
    | exact hκ.sub (by decide)
    | with_reducible apply kept_onExp
    | with_reducible apply kept_setRegs
    | with_reducible apply kept_post
    | with_reducible apply kept_foldl
    | with_reducible intro _ _ _ _
    | with_reducible intro _ _ _
    | with_reducible intro _ _
    | split

theorem kept_abandonTurn (h : Kept κ s₀ s) (hκ : Off κ [.regs, .phs])  :
    Kept κ s₀ (State.abandonTurn s) := by
  unfold State.abandonTurn
  try dsimp only
  repeat' first
    | with_reducible assumption
    | exact hκ.sub (by decide)
    | with_reducible apply kept_setRegs
    | with_reducible apply kept_onPhs
    | with_reducible intro _ _ _ _
    | with_reducible intro _ _ _
    | with_reducible intro _ _
    | split

theorem kept_computeReset (h : Kept κ s₀ s) (hκ : Off κ [.mem, .regs, .rse, .pge, .mzt, .cores, .exp, .sch, .phs, .fab, .xfr, .syn, .hcp, .bld, .sec, .pcr, .evt, .out]) (k : ResetKind) :
    Kept κ s₀ (State.computeReset s k) := by
  unfold State.computeReset
  try dsimp only
  repeat' first
    | with_reducible assumption
    | exact hκ.sub (by decide)
    | with_reducible apply kept_countStart
    | with_reducible apply kept_onBld
    | with_reducible apply kept_closeAll
    | with_reducible apply kept_abandonTurn
    | with_reducible apply kept_resetTiles
    | with_reducible apply kept_resetSync
    | with_reducible apply kept_onRse
    | with_reducible apply kept_onPge
    | with_reducible apply kept_emptySlots
    | with_reducible apply kept_enterStage
    | with_reducible apply kept_setReg
    | with_reducible apply kept_relock
    | with_reducible apply kept_reReport
    | with_reducible apply kept_flowAll
    | with_reducible intro _ _ _ _
    | with_reducible intro _ _ _
    | with_reducible intro _ _
    | split

theorem kept_askCompute (h : Kept κ s₀ s) (hκ : Off κ [.mem, .regs, .rse, .pge, .mzt, .cores, .exp, .sch, .phs, .fab, .xfr, .syn, .hcp, .bld, .sec, .pcr, .evt, .out]) (k : ResetKind) (ref : Option ℕ) :
    Kept κ s₀ (State.askCompute s k ref) := by
  unfold State.askCompute
  try dsimp only
  repeat' first
    | with_reducible assumption
    | exact hκ.sub (by decide)
    | with_reducible apply kept_onBld
    | with_reducible apply kept_hostReply
    | with_reducible apply kept_computeReset
    | with_reducible intro _ _ _ _
    | with_reducible intro _ _ _
    | with_reducible intro _ _
    | split

theorem kept_execResetWarm (h : Kept κ s₀ s) (hκ : Off κ [.mem, .regs, .rse, .pge, .mzt, .cores, .exp, .sch, .phs, .fab, .xfr, .syn, .hcp, .bld, .sec, .pcr, .evt, .out]) (p : HostPkt) :
    OutKept κ s₀ (execResetWarm p s) := by
  unfold execResetWarm
  try dsimp only
  repeat' first
    | with_reducible assumption
    | exact hκ.sub (by decide)
    | with_reducible apply kept_prayr
    | with_reducible apply kept_hostReply
    | with_reducible apply kept_fullReset
    | with_reducible apply OutKept.next
    | with_reducible intro _ _ _ _
    | with_reducible intro _ _ _
    | with_reducible intro _ _
    | split

theorem kept_resetCmd (h : Kept κ s₀ s) (hκ : Off κ [.mem, .regs, .rse, .pge, .mzt, .cores, .exp, .sch, .phs, .fab, .xfr, .syn, .hcp, .bld, .sec, .pcr, .evt, .out]) (p : HostPkt) (k : ResetKind) :
    Kept κ s₀ (State.resetCmd s p k) := by
  unfold State.resetCmd
  try dsimp only
  repeat' first
    | with_reducible assumption
    | exact hκ.sub (by decide)
    | with_reducible apply kept_prayr
    | with_reducible apply kept_hostReply
    | with_reducible apply kept_askCompute
    | with_reducible intro _ _ _ _
    | with_reducible intro _ _ _
    | with_reducible intro _ _
    | split

theorem kept_execResetCompute (h : Kept κ s₀ s) (hκ : Off κ [.mem, .regs, .rse, .pge, .mzt, .cores, .exp, .sch, .phs, .fab, .xfr, .syn, .hcp, .bld, .sec, .pcr, .evt, .out]) (p : HostPkt) :
    OutKept κ s₀ (execResetCompute p s) := by
  unfold execResetCompute
  try dsimp only
  repeat' first
    | with_reducible assumption
    | exact hκ.sub (by decide)
    | with_reducible apply kept_resetCmd
    | with_reducible apply OutKept.next
    | with_reducible intro _ _ _ _
    | with_reducible intro _ _ _
    | with_reducible intro _ _
    | split

theorem kept_execResetComputeScrub (h : Kept κ s₀ s) (hκ : Off κ [.mem, .regs, .rse, .pge, .mzt, .cores, .exp, .sch, .phs, .fab, .xfr, .syn, .hcp, .bld, .sec, .pcr, .evt, .out]) (p : HostPkt) :
    OutKept κ s₀ (execResetComputeScrub p s) := by
  unfold execResetComputeScrub
  try dsimp only
  repeat' first
    | with_reducible assumption
    | exact hκ.sub (by decide)
    | with_reducible apply kept_resetCmd
    | with_reducible apply OutKept.next
    | with_reducible intro _ _ _ _
    | with_reducible intro _ _ _
    | with_reducible intro _ _
    | split

theorem kept_fallBacks (h : Kept κ s₀ s) (hκ : Off κ [.regs, .fab, .hcp, .bld, .sec, .evt, .out]) (a0 : List ℕ) :
    Kept κ s₀ (State.fallBacks s a0) := by
  induction a0 generalizing s with
  | nil =>
    unfold State.fallBacks
    try dsimp only
    repeat' first
      | with_reducible assumption
  | cons x_ l_ ih =>
    unfold State.fallBacks
    try dsimp only
    repeat' first
      | with_reducible assumption
      | with_reducible apply ih
      | exact hκ.sub (by decide)
      | with_reducible apply kept_fallBack
      | with_reducible intro _ _ _ _
      | with_reducible intro _ _ _
      | with_reducible intro _ _
      | split

theorem kept_applyList (h : Kept κ s₀ s) (hκ : Off κ [.regs, .fab, .hcp, .bld, .evt, .out])  :
    Kept κ s₀ (State.applyList s) := by
  unfold State.applyList
  try dsimp only
  repeat' first
    | with_reducible assumption
    | exact hκ.sub (by decide)
    | with_reducible apply kept_onBld
    | with_reducible apply kept_tileOut
    | with_reducible apply kept_setBit
    | with_reducible apply kept_capChange
    | with_reducible apply kept_setReg
    | with_reducible apply kept_foldl
    | with_reducible intro _ _ _ _
    | with_reducible intro _ _ _
    | with_reducible intro _ _
    | split

theorem kept_stageMgmt (h : Kept κ s₀ s) (hκ : Off κ [.regs, .fab, .hcp, .bld, .sec, .evt, .out])  :
    Kept κ s₀ (State.stageMgmt s) := by
  unfold State.stageMgmt
  try dsimp only
  repeat' first
    | with_reducible assumption
    | exact hκ.sub (by decide)
    | with_reducible apply kept_license
    | with_reducible apply kept_applyList
    | with_reducible apply kept_setReg
    | with_reducible apply kept_onSec
    | with_reducible apply kept_capChange
    | with_reducible apply kept_fwGeneration
    | with_reducible intro _ _ _ _
    | with_reducible intro _ _ _
    | with_reducible intro _ _
    | split

theorem kept_stageTiles (h : Kept κ s₀ s) (hκ : Off κ [.regs, .fab, .hcp, .bld, .sec, .evt, .out])  :
    Kept κ s₀ (State.stageTiles s) := by
  unfold State.stageTiles
  try dsimp only
  repeat' first
    | with_reducible assumption
    | exact hκ.sub (by decide)
    | with_reducible apply kept_setTiles
    | with_reducible apply kept_takeTile
    | with_reducible apply kept_foldl
    | with_reducible intro _ _ _ _
    | with_reducible intro _ _ _
    | with_reducible intro _ _
    | split

theorem kept_scrub (h : Kept κ s₀ s) (hκ : Off κ [.mem])  :
    Kept κ s₀ (State.scrub s) := by
  exact Kept.of_cells h rfl rfl rfl (.refl _) List.filter_sublist (.refl _) (.refl _) (.refl _) (by intro p hp; cases p <;> first | exact (hκ.not hp (by decide)).elim | rfl)

theorem kept_sweepSelf (h : Kept κ s₀ s) (hκ : Off κ [.mem, .regs, .rse, .pge, .mzt, .cores, .sch, .phs, .fab, .xfr, .syn, .hcp, .evt, .out])  :
    Kept κ s₀ (State.sweepSelf s) := by
  unfold State.sweepSelf
  try dsimp only
  repeat' first
    | with_reducible assumption
    | exact hκ.sub (by decide)
    | with_reducible apply kept_dropWork
    | with_reducible apply kept_loseStep
    | with_reducible apply kept_discardCopy
    | with_reducible apply kept_ownersLost
    | with_reducible apply kept_foldl
    | with_reducible intro _ _ _ _
    | with_reducible intro _ _ _
    | with_reducible intro _ _
    | split

theorem kept_tellBarriers (h : Kept κ s₀ s) (hκ : Off κ [.regs, .fab, .hcp, .bld, .out])  :
    Kept κ s₀ (State.tellBarriers s) := by
  unfold State.tellBarriers
  try dsimp only
  repeat' first
    | with_reducible assumption
    | exact hκ.sub (by decide)
    | with_reducible apply kept_onBld
    | with_reducible apply kept_sendMsgs
    | with_reducible apply kept_foldl
    | with_reducible intro _ _ _ _
    | with_reducible intro _ _ _
    | with_reducible intro _ _
    | split

theorem kept_resync (h : Kept κ s₀ s) (hκ : Off κ [.regs, .rse, .fab, .hcp, .out])  :
    Kept κ s₀ (State.resync s) := by
  unfold State.resync
  try dsimp only
  repeat' first
    | with_reducible assumption
    | exact hκ.sub (by decide)
    | with_reducible apply kept_sendMsg
    | with_reducible apply kept_onRse
    | with_reducible intro _ _ _ _
    | with_reducible intro _ _ _
    | with_reducible intro _ _
    | split

theorem kept_nodeReady (h : Kept κ s₀ s) (hκ : Off κ [.regs, .fab, .hcp, .bld, .evt, .out])  :
    Kept κ s₀ (State.nodeReady s) := by
  unfold State.nodeReady
  try dsimp only
  repeat' first
    | with_reducible assumption
    | exact hκ.sub (by decide)
    | with_reducible apply kept_setReg
    | with_reducible apply kept_enterStage
    | with_reducible apply kept_onBld
    | with_reducible apply kept_reReport
    | with_reducible apply kept_post
    | with_reducible intro _ _ _ _
    | with_reducible intro _ _ _
    | with_reducible intro _ _
    | split

theorem kept_computeDone (h : Kept κ s₀ s) (hκ : Off κ [.mem, .regs, .rse, .pge, .mzt, .cores, .sch, .phs, .fab, .xfr, .syn, .hcp, .bld, .sec, .evt, .out])  :
    Kept κ s₀ (State.computeDone s) := by
  unfold State.computeDone
  try dsimp only
  repeat' first
    | with_reducible assumption
    | exact hκ.sub (by decide)
    | with_reducible apply kept_activate
    | with_reducible apply kept_scrub
    | with_reducible apply kept_sweepSelf
    | with_reducible apply kept_nodeReady
    | with_reducible apply kept_resync
    | with_reducible apply kept_tellBarriers
    | with_reducible intro _ _ _ _
    | with_reducible intro _ _ _
    | with_reducible intro _ _
    | split

theorem kept_stageDone (h : Kept κ s₀ s) (hκ : Off κ [.mem, .regs, .rse, .pge, .mzt, .cores, .sch, .phs, .fab, .xfr, .syn, .hcp, .bld, .sec, .pcr, .evt, .out])  :
    Kept κ s₀ (State.stageDone s) := by
  unfold State.stageDone
  try dsimp only
  repeat' first
    | with_reducible assumption
    | exact hκ.sub (by decide)
    | with_reducible apply kept_enterStage
    | with_reducible apply kept_stageMgmt
    | with_reducible apply kept_onPcr
    | with_reducible apply kept_onBld
    | with_reducible apply kept_stageTiles
    | with_reducible apply kept_computeDone
    | with_reducible apply kept_resync
    | with_reducible apply kept_nodeReady
    | with_reducible intro _ _ _ _
    | with_reducible intro _ _ _
    | with_reducible intro _ _
    | split

theorem kept_leaveFabric (h : Kept κ s₀ s) (hκ : Off κ [.regs, .fab, .hcp, .evt, .out]) :
    Kept κ s₀ (State.leaveFabric s) := by
  unfold State.leaveFabric
  try dsimp only
  repeat' first
    | with_reducible assumption
    | exact hκ.sub (by decide)
    | with_reducible apply kept_onFab
    | with_reducible apply kept_linksDown
    | with_reducible intro _ _ _ _
    | with_reducible intro _ _ _
    | with_reducible intro _ _
    | split

theorem kept_stageFailed (h : Kept κ s₀ s) (hκ : Off κ [.regs, .fab, .hcp, .bld, .evt, .out]) (st : St) :
    Kept κ s₀ (State.stageFailed s st) := by
  unfold State.stageFailed
  try dsimp only
  repeat' first
    | with_reducible assumption
    | exact hκ.sub (by decide)
    | with_reducible apply kept_setReg
    | with_reducible apply kept_onBld
    | with_reducible apply kept_hostDown
    | with_reducible apply kept_leaveFabric
    | with_reducible intro _ _ _ _
    | with_reducible intro _ _ _
    | with_reducible intro _ _
    | split

theorem kept_execBootStageDone (h : Kept κ s₀ s) (hκ : Off κ [.mem, .regs, .rse, .pge, .mzt, .cores, .exp, .sch, .phs, .fab, .xfr, .syn, .hcp, .bld, .sec, .pcr, .evt, .out]) (status : St) (findings : List Finding) (badImages : List ℕ) :
    OutKept κ s₀ (execBootStageDone status findings badImages s) := by
  unfold execBootStageDone
  try dsimp only
  repeat' first
    | with_reducible assumption
    | exact hκ.sub (by decide)
    | with_reducible apply kept_onBld
    | with_reducible apply kept_applyFindings
    | with_reducible apply kept_fallBacks
    | with_reducible apply kept_stageDone
    | with_reducible apply kept_stageFailed
    | with_reducible apply OutKept.next
    | with_reducible intro _ _ _ _
    | with_reducible intro _ _ _
    | with_reducible intro _ _
    | split

end Sys2Proof.Machine
end

