-- ==== Sys2Proof/Laws/KeptPower.lean ====
section
/-! SUPPORT. What the operations of Machine/Power.lean keep (see Laws/Kept.lean). -/

namespace Sys2Proof.Machine

variable {κ : Part → Bool} {s₀ s : State}

theorem kept_combine (h : Kept κ s₀ s) (hκ : Off κ [.regs, .pcr])  :
    Kept κ s₀ (State.combine s) := by
  unfold State.combine
  try dsimp only
  repeat' first
    | with_reducible assumption
    | exact hκ.sub (by decide)
    | with_reducible apply kept_onPcr
    | with_reducible apply kept_setThrottle
    | with_reducible intro _ _ _ _
    | with_reducible intro _ _ _
    | with_reducible intro _ _
    | split

theorem kept_demand (h : Kept κ s₀ s) (hκ : Off κ [.regs, .pcr]) (f : Throttle → Throttle) :
    Kept κ s₀ (State.demand s f) := by
  unfold State.demand
  try dsimp only
  repeat' first
    | with_reducible assumption
    | exact hκ.sub (by decide)
    | with_reducible apply kept_combine
    | with_reducible apply kept_onPcr
    | with_reducible intro _ _ _ _
    | with_reducible intro _ _ _
    | with_reducible intro _ _
    | split

theorem kept_pwrWarn (h : Kept κ s₀ s) (hκ : Off κ [.regs, .pcr])  :
    Kept κ s₀ (State.pwrWarn s) := by
  unfold State.pwrWarn
  try dsimp only
  repeat' first
    | with_reducible assumption
    | exact hκ.sub (by decide)
    | with_reducible apply kept_onPcr
    | with_reducible apply kept_setRegs
    | with_reducible intro _ _ _ _
    | with_reducible intro _ _ _
    | with_reducible intro _ _
    | split

theorem kept_execInputWarnCross (h : Kept κ s₀ s) (hκ : Off κ [.regs, .fab, .hcp, .pcr, .evt, .out]) (mv : ℕ) :
    OutKept κ s₀ (execInputWarnCross mv s) := by
  unfold execInputWarnCross
  try dsimp only
  repeat' first
    | with_reducible assumption
    | exact hκ.sub (by decide)
    | with_reducible apply kept_setReg
    | with_reducible apply kept_demand
    | with_reducible apply kept_pwrWarn
    | with_reducible apply kept_post
    | with_reducible apply kept_bump
    | with_reducible apply OutKept.next
    | with_reducible intro _ _ _ _
    | with_reducible intro _ _ _
    | with_reducible intro _ _
    | split

theorem kept_execInputRecoveryDone (h : Kept κ s₀ s) (hκ : Off κ [.regs, .fab, .hcp, .pcr, .evt, .out])  :
    OutKept κ s₀ (execInputRecoveryDone s) := by
  unfold execInputRecoveryDone
  try dsimp only
  repeat' first
    | with_reducible assumption
    | exact hκ.sub (by decide)
    | with_reducible apply kept_demand
    | with_reducible apply kept_pwrWarn
    | with_reducible apply kept_setReg
    | with_reducible apply kept_post
    | with_reducible apply OutKept.next
    | with_reducible intro _ _ _ _
    | with_reducible intro _ _ _
    | with_reducible intro _ _
    | split

theorem kept_execInputRecoveryRestart (h : Kept κ s₀ s) (hκ : Off κ [.regs]) (mv : ℕ) :
    OutKept κ s₀ (execInputRecoveryRestart mv s) := by
  unfold execInputRecoveryRestart
  try dsimp only
  repeat' first
    | with_reducible assumption
    | exact hκ.sub (by decide)
    | with_reducible apply kept_setReg
    | with_reducible apply OutKept.next
    | with_reducible intro _ _ _ _
    | with_reducible intro _ _ _
    | with_reducible intro _ _
    | split

theorem kept_execInputUndervoltage (h : Kept κ s₀ s) (hκ : Off κ [.mem, .regs, .rse, .pge, .mzt, .cores, .exp, .sch, .phs, .fab, .xfr, .syn, .hcp, .bld, .sec, .pcr, .evt])  :
    OutKept κ s₀ (execInputUndervoltage s) := by
  unfold execInputUndervoltage
  try dsimp only
  repeat' first
    | with_reducible assumption
    | exact hκ.sub (by decide)
    | with_reducible apply kept_railsOff
    | with_reducible apply OutKept.next
    | with_reducible intro _ _ _ _
    | with_reducible intro _ _ _
    | with_reducible intro _ _
    | split

theorem kept_execInputOvervoltage (h : Kept κ s₀ s) (hκ : Off κ [.mem, .regs, .rse, .pge, .mzt, .cores, .exp, .sch, .phs, .fab, .xfr, .syn, .hcp, .bld, .sec, .pcr, .evt])  :
    OutKept κ s₀ (execInputOvervoltage s) := by
  unfold execInputOvervoltage
  try dsimp only
  repeat' first
    | with_reducible assumption
    | exact hκ.sub (by decide)
    | with_reducible apply kept_railsOff
    | with_reducible apply OutKept.next
    | with_reducible intro _ _ _ _
    | with_reducible intro _ _ _
    | with_reducible intro _ _
    | split

theorem kept_execAonInputLoss (h : Kept κ s₀ s) (hκ : Off κ [.mem, .regs, .rse, .pge, .mzt, .cores, .exp, .sch, .phs, .fab, .xfr, .syn, .hcp, .bld, .sec, .pcr, .evt])  :
    OutKept κ s₀ (execAonInputLoss s) := by
  unfold execAonInputLoss
  try dsimp only
  repeat' first
    | with_reducible assumption
    | exact hκ.sub (by decide)
    | with_reducible apply kept_recordTrip
    | with_reducible apply kept_railsOff
    | with_reducible apply OutKept.next
    | with_reducible intro _ _ _ _
    | with_reducible intro _ _ _
    | with_reducible intro _ _
    | split

theorem kept_execRailWarnCross (h : Kept κ s₀ s) (hκ : Off κ [.regs, .fab, .hcp, .pcr, .evt, .out]) (rail : ℕ) (mv : ℕ) :
    OutKept κ s₀ (execRailWarnCross rail mv s) := by
  unfold execRailWarnCross
  try dsimp only
  repeat' first
    | with_reducible assumption
    | exact hκ.sub (by decide)
    | with_reducible apply kept_setReg
    | with_reducible apply kept_onPcr
    | with_reducible apply kept_demand
    | with_reducible apply kept_pwrWarn
    | with_reducible apply kept_post
    | with_reducible apply kept_bump
    | with_reducible apply OutKept.next
    | with_reducible intro _ _ _ _
    | with_reducible intro _ _ _
    | with_reducible intro _ _
    | split

theorem kept_execRailClearDone (h : Kept κ s₀ s) (hκ : Off κ [.regs, .fab, .hcp, .pcr, .evt, .out]) (rail : ℕ) :
    OutKept κ s₀ (execRailClearDone rail s) := by
  unfold execRailClearDone
  try dsimp only
  repeat' first
    | with_reducible assumption
    | exact hκ.sub (by decide)
    | with_reducible apply kept_onPcr
    | with_reducible apply kept_setReg
    | with_reducible apply kept_demand
    | with_reducible apply kept_pwrWarn
    | with_reducible apply kept_post
    | with_reducible apply OutKept.next
    | with_reducible intro _ _ _ _
    | with_reducible intro _ _ _
    | with_reducible intro _ _
    | split

theorem kept_execRailClearRestart (h : Kept κ s₀ s) (hκ : Off κ [.regs]) (rail : ℕ) (mv : ℕ) :
    OutKept κ s₀ (execRailClearRestart rail mv s) := by
  unfold execRailClearRestart
  try dsimp only
  repeat' first
    | with_reducible assumption
    | exact hκ.sub (by decide)
    | with_reducible apply kept_setReg
    | with_reducible apply OutKept.next
    | with_reducible intro _ _ _ _
    | with_reducible intro _ _ _
    | with_reducible intro _ _
    | split

theorem kept_railReset (h : Kept κ s₀ s) (hκ : Off κ [.mem, .regs, .rse, .pge, .mzt, .cores, .exp, .sch, .phs, .fab, .xfr, .syn, .hcp, .bld, .sec, .pcr, .evt, .out]) (rail : ℕ) :
    Kept κ s₀ (State.railReset s rail) := by
  unfold State.railReset
  try dsimp only
  repeat' first
    | with_reducible assumption
    | exact hκ.sub (by decide)
    | with_reducible apply kept_onBld
    | with_reducible apply kept_recordTrip
    | with_reducible apply kept_askCompute
    | with_reducible apply kept_enterStage
    | with_reducible apply kept_resetTiles
    | with_reducible intro _ _ _ _
    | with_reducible intro _ _ _
    | with_reducible intro _ _
    | split

theorem kept_execRailResetCross (h : Kept κ s₀ s) (hκ : Off κ [.mem, .regs, .rse, .pge, .mzt, .cores, .exp, .sch, .phs, .fab, .xfr, .syn, .hcp, .bld, .sec, .pcr, .evt, .out]) (rail : ℕ) (mv : ℕ) :
    OutKept κ s₀ (execRailResetCross rail mv s) := by
  unfold execRailResetCross
  try dsimp only
  repeat' first
    | with_reducible assumption
    | exact hκ.sub (by decide)
    | with_reducible apply kept_setReg
    | with_reducible apply kept_railReset
    | with_reducible apply kept_railsOff
    | with_reducible apply OutKept.next
    | with_reducible intro _ _ _ _
    | with_reducible intro _ _ _
    | with_reducible intro _ _
    | split

theorem kept_execRailHoldDone (h : Kept κ s₀ s) (hκ : Off κ [.bld])  :
    OutKept κ s₀ (execRailHoldDone s) := by
  unfold execRailHoldDone
  try dsimp only
  repeat' first
    | with_reducible assumption
    | exact hκ.sub (by decide)
    | with_reducible apply kept_onBld
    | with_reducible apply OutKept.next
    | with_reducible intro _ _ _ _
    | with_reducible intro _ _ _
    | with_reducible intro _ _
    | split

theorem kept_showTemps (h : Kept κ s₀ s) (hκ : Off κ [.regs]) (rs : List (ℕ × ℕ)) :
    Kept κ s₀ (State.showTemps s rs) := by
  unfold State.showTemps
  try dsimp only
  repeat' first
    | with_reducible assumption
    | exact hκ.sub (by decide)
    | with_reducible apply kept_setReg
    | with_reducible apply kept_setRegs
    | with_reducible apply kept_foldl
    | with_reducible intro _ _ _ _
    | with_reducible intro _ _ _
    | with_reducible intro _ _
    | split

theorem kept_setLevel (h : Kept κ s₀ s) (hκ : Off κ [.regs, .pcr]) (n : ℕ) :
    Kept κ s₀ (State.setLevel s n) := by
  unfold State.setLevel
  try dsimp only
  repeat' first
    | with_reducible assumption
    | exact hκ.sub (by decide)
    | with_reducible apply kept_onPcr
    | with_reducible apply kept_setRegs
    | with_reducible apply kept_demand
    | with_reducible intro _ _ _ _
    | with_reducible intro _ _ _
    | with_reducible intro _ _
    | split

theorem kept_heat (h : Kept κ s₀ s) (hκ : Off κ [.regs, .fab, .hcp, .pcr, .evt, .out]) (n : ℕ) (e : Ev) (rs : List (ℕ × ℕ)) :
    Kept κ s₀ (State.heat s n e rs) := by
  unfold State.heat
  try dsimp only
  repeat' first
    | with_reducible assumption
    | exact hκ.sub (by decide)
    | with_reducible apply kept_post
    | with_reducible apply kept_bump
    | with_reducible apply kept_setLevel
    | with_reducible intro _ _ _ _
    | with_reducible intro _ _ _
    | with_reducible intro _ _
    | split

theorem kept_cool (h : Kept κ s₀ s) (hκ : Off κ [.regs, .fab, .hcp, .pcr, .evt, .out]) (n : ℕ) (since : Option ℕ) :
    Kept κ s₀ (State.cool s n since) := by
  unfold State.cool
  try dsimp only
  repeat' first
    | with_reducible assumption
    | exact hκ.sub (by decide)
    | with_reducible apply kept_post
    | with_reducible apply kept_setLevel
    | with_reducible intro _ _ _ _
    | with_reducible intro _ _ _
    | with_reducible intro _ _
    | split

theorem kept_thermalTrip (h : Kept κ s₀ s) (hκ : Off κ [.mem, .regs, .rse, .pge, .mzt, .cores, .exp, .sch, .phs, .fab, .xfr, .syn, .hcp, .bld, .sec, .pcr, .evt]) (sensor : ℕ) :
    Kept κ s₀ (State.thermalTrip s sensor) := by
  unfold State.thermalTrip
  try dsimp only
  repeat' first
    | with_reducible assumption
    | exact hκ.sub (by decide)
    | with_reducible apply kept_setReg
    | with_reducible apply kept_onPcr
    | with_reducible apply kept_onBld
    | with_reducible apply kept_railsOff
    | with_reducible intro _ _ _ _
    | with_reducible intro _ _ _
    | with_reducible intro _ _
    | split

theorem kept_execThermalSample (h : Kept κ s₀ s) (hκ : Off κ [.mem, .regs, .rse, .pge, .mzt, .cores, .exp, .sch, .phs, .fab, .xfr, .syn, .hcp, .bld, .sec, .pcr, .evt, .out]) (temps : List ℕ) :
    OutKept κ s₀ (execThermalSample temps s) := by
  unfold execThermalSample
  try dsimp only
  repeat' first
    | with_reducible assumption
    | exact hκ.sub (by decide)
    | with_reducible apply kept_showTemps
    | with_reducible apply kept_onPcr
    | with_reducible apply kept_thermalTrip
    | with_reducible apply kept_heat
    | with_reducible apply kept_cool
    | with_reducible apply OutKept.next
    | with_reducible intro _ _ _ _
    | with_reducible intro _ _ _
    | with_reducible intro _ _
    | split

theorem kept_setPower (h : Kept κ s₀ s) (hκ : Off κ [.regs, .pcr]) (p : ℕ) :
    Kept κ s₀ (State.setPower s p) := by
  unfold State.setPower
  try dsimp only
  repeat' first
    | with_reducible assumption
    | exact hκ.sub (by decide)
    | with_reducible apply kept_demand
    | with_reducible apply kept_setReg
    | with_reducible intro _ _ _ _
    | with_reducible intro _ _ _
    | with_reducible intro _ _
    | split

theorem kept_execPowerWindowExpiry (h : Kept κ s₀ s) (hκ : Off κ [.regs, .fab, .hcp, .pcr, .evt, .out]) (watts : ℕ) :
    OutKept κ s₀ (execPowerWindowExpiry watts s) := by
  unfold execPowerWindowExpiry
  try dsimp only
  repeat' first
    | with_reducible assumption
    | exact hκ.sub (by decide)
    | with_reducible apply kept_setPower
    | with_reducible apply kept_bump
    | with_reducible apply kept_post
    | with_reducible apply OutKept.next
    | with_reducible intro _ _ _ _
    | with_reducible intro _ _ _
    | with_reducible intro _ _
    | split

theorem kept_powerLimitWrite (h : Kept κ s₀ s) (hκ : Off κ [.regs, .pcr]) (value : ℕ) :
    Kept κ s₀ (State.powerLimitWrite s value).1 := by
  unfold State.powerLimitWrite
  try dsimp only
  repeat' first
    | with_reducible assumption
    | exact hκ.sub (by decide)
    | with_reducible apply kept_writeRw
    | with_reducible apply kept_setPower
    | with_reducible intro _ _ _ _
    | with_reducible intro _ _ _
    | with_reducible intro _ _
    | split

theorem kept_execPcrPowerLimitWrite (h : Kept κ s₀ s) (hκ : Off κ [.regs, .pcr]) (value : ℕ) :
    OutKept κ s₀ (execPcrPowerLimitWrite value s) := by
  unfold execPcrPowerLimitWrite
  try dsimp only
  repeat' first
    | with_reducible assumption
    | exact hκ.sub (by decide)
    | with_reducible apply kept_powerLimitWrite
    | with_reducible apply OutKept.next
    | with_reducible intro _ _ _ _
    | with_reducible intro _ _ _
    | with_reducible intro _ _
    | split
    | dsimp only [itself]
    | refine Kept.of_fst ?_ (by with_reducible assumption)

theorem kept_execPcrGateCfgWrite (h : Kept κ s₀ s) (hκ : Off κ [.regs]) (value : ℕ) :
    OutKept κ s₀ (execPcrGateCfgWrite value s) := by
  unfold execPcrGateCfgWrite
  try dsimp only
  repeat' first
    | with_reducible assumption
    | exact hκ.sub (by decide)
    | with_reducible apply kept_writeRw
    | with_reducible apply OutKept.next
    | with_reducible intro _ _ _ _
    | with_reducible intro _ _ _
    | with_reducible intro _ _
    | split

theorem kept_execRefclk25Loss (h : Kept κ s₀ s) (hκ : Off κ [.mem, .regs, .rse, .pge, .mzt, .cores, .exp, .sch, .phs, .fab, .xfr, .syn, .hcp, .bld, .sec, .pcr, .evt])  :
    OutKept κ s₀ (execRefclk25Loss s) := by
  unfold execRefclk25Loss
  try dsimp only
  repeat' first
    | with_reducible assumption
    | exact hκ.sub (by decide)
    | with_reducible apply kept_onPcr
    | with_reducible apply kept_railsOff
    | with_reducible apply OutKept.next
    | with_reducible intro _ _ _ _
    | with_reducible intro _ _ _
    | with_reducible intro _ _
    | split

theorem kept_execRefclk156Loss (h : Kept κ s₀ s) (hκ : Off κ [.regs, .fab, .hcp, .pcr, .evt, .out])  :
    OutKept κ s₀ (execRefclk156Loss s) := by
  unfold execRefclk156Loss
  try dsimp only
  repeat' first
    | with_reducible assumption
    | exact hκ.sub (by decide)
    | with_reducible apply kept_onPcr
    | with_reducible apply kept_linksDown
    | with_reducible apply kept_post
    | with_reducible apply kept_hostDown
    | with_reducible apply OutKept.next
    | with_reducible intro _ _ _ _
    | with_reducible intro _ _ _
    | with_reducible intro _ _
    | split

theorem kept_execRefclk156Restored (h : Kept κ s₀ s) (hκ : Off κ [.regs, .fab, .pcr])  :
    OutKept κ s₀ (execRefclk156Restored s) := by
  unfold execRefclk156Restored
  try dsimp only
  repeat' first
    | with_reducible assumption
    | exact hκ.sub (by decide)
    | with_reducible apply kept_onPcr
    | with_reducible apply kept_setReg
    | with_reducible apply kept_putLink
    | with_reducible apply OutKept.next
    | with_reducible apply kept_foldl
    | with_reducible intro _ _ _ _
    | with_reducible intro _ _ _
    | with_reducible intro _ _
    | split

theorem kept_execCoreIdleExpiry (h : Kept κ s₀ s) (hκ : Off κ [.cores]) (core : ℕ) :
    OutKept κ s₀ (execCoreIdleExpiry core s) := by
  unfold execCoreIdleExpiry
  try dsimp only
  repeat' first
    | with_reducible assumption
    | exact hκ.sub (by decide)
    | with_reducible apply kept_putCore
    | with_reducible apply OutKept.next
    | with_reducible intro _ _ _ _
    | with_reducible intro _ _ _
    | with_reducible intro _ _
    | split

theorem kept_execTileIdleExpiry (h : Kept κ s₀ s) (hκ : Off κ [.pcr]) (tile : ℕ) :
    OutKept κ s₀ (execTileIdleExpiry tile s) := by
  unfold execTileIdleExpiry
  try dsimp only
  repeat' first
    | with_reducible assumption
    | exact hκ.sub (by decide)
    | with_reducible apply kept_onPcr
    | with_reducible apply OutKept.next
    | with_reducible intro _ _ _ _
    | with_reducible intro _ _ _
    | with_reducible intro _ _
    | split

theorem kept_execCoreWakeDone (h : Kept κ s₀ s) (hκ : Off κ [.cores, .pcr]) (core : ℕ) :
    OutKept κ s₀ (execCoreWakeDone core s) := by
  unfold execCoreWakeDone
  try dsimp only
  repeat' first
    | with_reducible assumption
    | exact hκ.sub (by decide)
    | with_reducible apply kept_onPcr
    | with_reducible apply kept_putCore
    | with_reducible apply OutKept.next
    | with_reducible intro _ _ _ _
    | with_reducible intro _ _ _
    | with_reducible intro _ _
    | split

theorem kept_execHbmPowerdownIdle (h : Kept κ s₀ s) (hκ : Off κ [.pcr]) (stack : ℕ) (channel : ℕ) :
    OutKept κ s₀ (execHbmPowerdownIdle stack channel s) := by
  unfold execHbmPowerdownIdle
  try dsimp only
  repeat' first
    | with_reducible assumption
    | exact hκ.sub (by decide)
    | with_reducible apply kept_onPcr
    | with_reducible apply OutKept.next
    | with_reducible intro _ _ _ _
    | with_reducible intro _ _ _
    | with_reducible intro _ _
    | split

theorem kept_tapRun (h : Kept κ s₀ s) (hκ : Off κ [.tap, .out]) (i : TapInstr) :
    Kept κ s₀ (State.tapRun s i) := by
  unfold State.tapRun
  try dsimp only
  repeat' first
    | with_reducible assumption
    | exact hκ.sub (by decide)
    | with_reducible apply kept_next
    | with_reducible apply kept_emit
    | with_reducible apply kept_setTap
    | with_reducible intro _ _ _ _
    | with_reducible intro _ _ _
    | with_reducible intro _ _
    | split
    | dsimp only [itself]
    | refine Kept.of_snd ?_ (by with_reducible assumption)

theorem kept_execJtagIdcode (h : Kept κ s₀ s) (hκ : Off κ [.tap, .out])  :
    OutKept κ s₀ (execJtagIdcode s) := by
  unfold execJtagIdcode
  try dsimp only
  repeat' first
    | with_reducible assumption
    | exact hκ.sub (by decide)
    | with_reducible apply kept_tapRun
    | with_reducible apply OutKept.next
    | with_reducible intro _ _ _ _
    | with_reducible intro _ _ _
    | with_reducible intro _ _
    | split

theorem kept_bypass (h : Kept κ s₀ s) (hκ : Off κ [.tap, .out])  :
    Kept κ s₀ (State.bypass s) := by
  unfold State.bypass
  try dsimp only
  repeat' first
    | with_reducible assumption
    | exact hκ.sub (by decide)
    | with_reducible apply kept_emit
    | with_reducible apply kept_setTap
    | with_reducible intro _ _ _ _
    | with_reducible intro _ _ _
    | with_reducible intro _ _
    | split

theorem kept_execJtagBypass (h : Kept κ s₀ s) (hκ : Off κ [.tap, .out])  :
    OutKept κ s₀ (execJtagBypass s) := by
  unfold execJtagBypass
  try dsimp only
  repeat' first
    | with_reducible assumption
    | exact hκ.sub (by decide)
    | with_reducible apply kept_bypass
    | with_reducible apply OutKept.next
    | with_reducible intro _ _ _ _
    | with_reducible intro _ _ _
    | with_reducible intro _ _
    | split

theorem kept_execJtagSamplePreload (h : Kept κ s₀ s) (hκ : Off κ [.tap, .out])  :
    OutKept κ s₀ (execJtagSamplePreload s) := by
  unfold execJtagSamplePreload
  try dsimp only
  repeat' first
    | with_reducible assumption
    | exact hκ.sub (by decide)
    | with_reducible apply kept_tapRun
    | with_reducible apply OutKept.next
    | with_reducible intro _ _ _ _
    | with_reducible intro _ _ _
    | with_reducible intro _ _
    | split

theorem kept_execJtagExtest (h : Kept κ s₀ s) (hκ : Off κ [.tap, .out]) (value : ℕ) :
    OutKept κ s₀ (execJtagExtest value s) := by
  unfold execJtagExtest
  try dsimp only
  repeat' first
    | with_reducible assumption
    | exact hκ.sub (by decide)
    | with_reducible apply kept_emit
    | with_reducible apply kept_setTap
    | with_reducible apply OutKept.next
    | with_reducible intro _ _ _ _
    | with_reducible intro _ _ _
    | with_reducible intro _ _
    | split

theorem kept_execDebugScopeAccess (h : Kept κ s₀ s) (hκ : Off κ [.tap, .out]) (scan : Bool) :
    OutKept κ s₀ (execDebugScopeAccess scan s) := by
  unfold execDebugScopeAccess
  try dsimp only
  repeat' first
    | with_reducible assumption
    | exact hκ.sub (by decide)
    | with_reducible apply kept_tapRun
    | with_reducible apply kept_bypass
    | with_reducible apply OutKept.next
    | with_reducible intro _ _ _ _
    | with_reducible intro _ _ _
    | with_reducible intro _ _
    | split

end Sys2Proof.Machine
end

