-- ==== Sys2Proof/Laws/KeptEcc.lean ====
section
/-! SUPPORT. What the operations of Machine/Ecc.lean keep (see Laws/Kept.lean). -/

namespace Sys2Proof.Machine

variable {κ : Part → Bool} {s₀ s : State}

theorem kept_corrected (h : Kept κ s₀ s) (hκ : Off κ [.regs, .fab, .hcp, .evt, .out]) (e : MemErr) :
    Kept κ s₀ (State.corrected s e) := by
  unfold State.corrected
  try dsimp only
  repeat' first
    | with_reducible assumption
    | exact hκ.sub (by decide)
    | with_reducible apply kept_bump
    | with_reducible apply kept_onEvt
    | with_reducible apply kept_post
    | with_reducible intro _ _ _ _
    | with_reducible intro _ _ _
    | with_reducible intro _ _
    | split

theorem kept_slotError (h : Kept κ s₀ s) (hκ : Off κ [.rse])  :
    Kept κ s₀ (State.slotError s) := by
  unfold State.slotError
  try dsimp only
  repeat' first
    | with_reducible assumption
    | exact hκ.sub (by decide)
    | with_reducible apply kept_next
    | with_reducible apply kept_onRse
    | with_reducible intro _ _ _ _
    | with_reducible intro _ _ _
    | with_reducible intro _ _
    | split
    | dsimp only [itself]
    | refine Kept.of_snd ?_ (by with_reducible assumption)

theorem kept_mirrorError (h : Kept κ s₀ s) (hκ : Off κ [.rse])  :
    Kept κ s₀ (State.mirrorError s) := by
  unfold State.mirrorError
  try dsimp only
  repeat' first
    | with_reducible assumption
    | exact hκ.sub (by decide)
    | with_reducible apply kept_next
    | with_reducible apply kept_onRse
    | with_reducible intro _ _ _ _
    | with_reducible intro _ _ _
    | with_reducible intro _ _
    | split
    | dsimp only [itself]
    | refine Kept.of_snd ?_ (by with_reducible assumption)

theorem kept_messageError (h : Kept κ s₀ s) (hκ : Off κ [.xfr])  :
    Kept κ s₀ (State.messageError s) := by
  unfold State.messageError
  try dsimp only
  repeat' first
    | with_reducible assumption
    | exact hκ.sub (by decide)
    | with_reducible apply kept_next
    | with_reducible apply kept_failSource
    | with_reducible intro _ _ _ _
    | with_reducible intro _ _ _
    | with_reducible intro _ _
    | split
    | dsimp only [itself]
    | refine Kept.of_snd ?_ (by with_reducible assumption)

theorem kept_uncorrected (h : Kept κ s₀ s) (hκ : Off κ [.mem, .regs, .rse, .pge, .mzt, .cores, .sch, .phs, .fab, .xfr, .syn, .hcp, .evt, .out]) (e : MemErr) :
    Kept κ s₀ (State.uncorrected s e) := by
  unfold State.uncorrected
  try dsimp only
  repeat' first
    | with_reducible assumption
    | exact hκ.sub (by decide)
    | with_reducible apply kept_post
    | with_reducible apply kept_bump
    | with_reducible apply kept_losePageAll
    | with_reducible apply kept_slotError
    | with_reducible apply kept_mirrorError
    | with_reducible apply kept_onFab
    | with_reducible apply kept_messageError
    | with_reducible apply kept_markPoison
    | with_reducible intro _ _ _ _
    | with_reducible intro _ _ _
    | with_reducible intro _ _
    | split

theorem kept_memErrors (h : Kept κ s₀ s) (hκ : Off κ [.mem, .regs, .rse, .pge, .mzt, .cores, .sch, .phs, .fab, .xfr, .syn, .hcp, .evt, .out]) (a0 : List MemErr) :
    Kept κ s₀ (State.memErrors s a0) := by
  induction a0 generalizing s with
  | nil =>
    unfold State.memErrors
    try dsimp only
    repeat' first
      | with_reducible assumption
  | cons x_ l_ ih =>
    unfold State.memErrors
    try dsimp only
    repeat' first
      | with_reducible assumption
      | with_reducible apply ih
      | exact hκ.sub (by decide)
      | with_reducible apply kept_corrected
      | with_reducible apply kept_uncorrected
      | with_reducible intro _ _ _ _
      | with_reducible intro _ _ _
      | with_reducible intro _ _
      | split

theorem kept_execPatrolScrubPass (h : Kept κ s₀ s) (hκ : Off κ [.mem, .regs, .rse, .pge, .mzt, .cores, .sch, .phs, .fab, .xfr, .syn, .hcp, .pcr, .evt, .out]) (stack : ℕ) (channel : ℕ) (errors : List MemErr) :
    OutKept κ s₀ (execPatrolScrubPass stack channel errors s) := by
  unfold execPatrolScrubPass
  try dsimp only
  repeat' first
    | with_reducible assumption
    | exact hκ.sub (by decide)
    | with_reducible apply kept_onPcr
    | with_reducible apply kept_memErrors
    | with_reducible apply OutKept.next
    | with_reducible intro _ _ _ _
    | with_reducible intro _ _ _
    | with_reducible intro _ _
    | split

theorem kept_execCeWindowExpiry (h : Kept κ s₀ s) (hκ : Off κ [.regs, .fab, .hcp, .evt, .out]) (stack : ℕ) (channel : ℕ) :
    OutKept κ s₀ (execCeWindowExpiry stack channel s) := by
  unfold execCeWindowExpiry
  try dsimp only
  repeat' first
    | with_reducible assumption
    | exact hκ.sub (by decide)
    | with_reducible apply kept_onEvt
    | with_reducible apply kept_post
    | with_reducible apply OutKept.next
    | with_reducible intro _ _ _ _
    | with_reducible intro _ _ _
    | with_reducible intro _ _
    | split

theorem kept_eccCfgWrite (h : Kept κ s₀ s) (hκ : Off κ [.regs, .evt]) (value : ℕ) :
    Kept κ s₀ (State.eccCfgWrite s value).1 := by
  unfold State.eccCfgWrite
  try dsimp only
  repeat' first
    | with_reducible assumption
    | exact hκ.sub (by decide)
    | with_reducible apply kept_writeRw
    | with_reducible apply kept_onEvt
    | with_reducible intro _ _ _ _
    | with_reducible intro _ _ _
    | with_reducible intro _ _
    | split

theorem kept_execEvtEccCfgWrite (h : Kept κ s₀ s) (hκ : Off κ [.regs, .evt]) (value : ℕ) :
    OutKept κ s₀ (execEvtEccCfgWrite value s) := by
  unfold execEvtEccCfgWrite
  try dsimp only
  repeat' first
    | with_reducible assumption
    | exact hκ.sub (by decide)
    | with_reducible apply kept_eccCfgWrite
    | with_reducible apply OutKept.next
    | with_reducible intro _ _ _ _
    | with_reducible intro _ _ _
    | with_reducible intro _ _
    | split
    | dsimp only [itself]
    | refine Kept.of_fst ?_ (by with_reducible assumption)

end Sys2Proof.Machine
end

