-- ==== Sys2Proof/Laws/KeptI3c.lean ====
section
/-! SUPPORT. What the operations of Machine/I3c.lean keep (see Laws/Kept.lean). -/

namespace Sys2Proof.Machine

variable {κ : Part → Bool} {s₀ s : State}

theorem kept_onI3c (h : Kept κ s₀ s) (hκ : Off κ [.hcp]) (f : I3c → I3c) :
    Kept κ s₀ (State.onI3c s f) := by
  unfold State.onI3c
  try dsimp only
  repeat' first
    | with_reducible assumption
    | exact hκ.sub (by decide)
    | with_reducible apply kept_onHcp
    | with_reducible intro _ _ _ _
    | with_reducible intro _ _ _
    | with_reducible intro _ _
    | split

theorem kept_execI3cSnapshotRefresh (h : Kept κ s₀ s) (hκ : Off κ [.hcp])  :
    OutKept κ s₀ (execI3cSnapshotRefresh s) := by
  unfold execI3cSnapshotRefresh
  try dsimp only
  repeat' first
    | with_reducible assumption
    | exact hκ.sub (by decide)
    | with_reducible apply kept_next
    | with_reducible apply kept_onI3c
    | with_reducible apply OutKept.next
    | with_reducible intro _ _ _ _
    | with_reducible intro _ _ _
    | with_reducible intro _ _
    | split
    | dsimp only [itself]
    | refine Kept.of_snd ?_ (by with_reducible assumption)

theorem kept_execI3cPrivateWrite (h : Kept κ s₀ s) (hκ : Off κ [.hcp]) (data : List Sys2Proof.Byte) :
    OutKept κ s₀ (execI3cPrivateWrite data s) := by
  unfold execI3cPrivateWrite
  try dsimp only
  repeat' first
    | with_reducible assumption
    | exact hκ.sub (by decide)
    | with_reducible apply kept_onI3c
    | with_reducible apply OutKept.next
    | with_reducible intro _ _ _ _
    | with_reducible intro _ _ _
    | with_reducible intro _ _
    | split

theorem kept_execI3cPrivateRead (h : Kept κ s₀ s) (hκ : Off κ [.out]) (count : ℕ) :
    OutKept κ s₀ (execI3cPrivateRead count s) := by
  unfold execI3cPrivateRead
  try dsimp only
  repeat' first
    | with_reducible assumption
    | exact hκ.sub (by decide)
    | with_reducible apply kept_emit
    | with_reducible apply kept_setFresh
    | with_reducible apply OutKept.next
    | with_reducible intro _ _ _ _
    | with_reducible intro _ _ _
    | with_reducible intro _ _
    | split

theorem kept_execI3cEntdaa (h : Kept κ s₀ s) (hκ : Off κ [.hcp]) (addr : ℕ) :
    OutKept κ s₀ (execI3cEntdaa addr s) := by
  unfold execI3cEntdaa
  try dsimp only
  repeat' first
    | with_reducible assumption
    | exact hκ.sub (by decide)
    | with_reducible apply kept_onI3c
    | with_reducible apply OutKept.next
    | with_reducible intro _ _ _ _
    | with_reducible intro _ _ _
    | with_reducible intro _ _
    | split

end Sys2Proof.Machine
end

