-- ==== Sys2Proof/Laws/KeptRetire.lean ====
section
/-! SUPPORT. What the operations of Machine/Retire.lean keep (see Laws/Kept.lean). -/

namespace Sys2Proof.Machine

variable {κ : Part → Bool} {s₀ s : State}

theorem kept_lowerLimit (h : Kept κ s₀ s) (hκ : Off κ [.regs])  :
    Kept κ s₀ (State.lowerLimit s) := by
  unfold State.lowerLimit
  try dsimp only
  repeat' first
    | with_reducible assumption
    | exact hκ.sub (by decide)
    | with_reducible apply kept_setReg
    | with_reducible intro _ _ _ _
    | with_reducible intro _ _ _
    | with_reducible intro _ _
    | split

theorem kept_planPages (h : Kept κ s₀ s) (hκ : Off κ [.pge]) (a0 : List Page) :
    OptKept κ s₀ itself (State.planPages s a0) := by
  induction a0 generalizing s with
  | nil =>
    unfold State.planPages
    try dsimp only
    repeat' first
      | with_reducible assumption
      | exact hκ.sub (by decide)
      | with_reducible apply kept_putPage
      | exact OptKept.none
      | with_reducible apply OptKept.some
      | with_reducible intro _ _ _ _
      | with_reducible intro _ _ _
      | with_reducible intro _ _
      | split
  | cons x_ l_ ih =>
    unfold State.planPages
    try dsimp only
    repeat' first
      | with_reducible assumption
      | with_reducible apply ih
      | exact hκ.sub (by decide)
      | with_reducible apply kept_putPage
      | exact OptKept.none
      | with_reducible apply OptKept.some
      | with_reducible intro _ _ _ _
      | with_reducible intro _ _ _
      | with_reducible intro _ _
      | split

theorem kept_planTargets (h : Kept κ s₀ s) (hκ : Off κ [.pge]) (a0 : List Migration) :
    OptKept κ s₀ itself (State.planTargets s a0) := by
  induction a0 generalizing s with
  | nil =>
    unfold State.planTargets
    try dsimp only
    repeat' first
      | with_reducible assumption
      | exact hκ.sub (by decide)
      | with_reducible apply kept_onPge
      | exact OptKept.none
      | with_reducible apply OptKept.some
      | with_reducible intro _ _ _ _
      | with_reducible intro _ _ _
      | with_reducible intro _ _
      | split
  | cons x_ l_ ih =>
    unfold State.planTargets
    try dsimp only
    repeat' first
      | with_reducible assumption
      | with_reducible apply ih
      | exact hκ.sub (by decide)
      | with_reducible apply kept_onPge
      | exact OptKept.none
      | with_reducible apply OptKept.some
      | with_reducible intro _ _ _ _
      | with_reducible intro _ _ _
      | with_reducible intro _ _
      | split

theorem kept_execChannelRetire (h : Kept κ s₀ s) (hκ : Off κ [.mem, .regs, .pge, .fab, .hcp, .bld, .evt, .out]) (p : HostPkt) (stack : ℕ) (channel : ℕ) :
    OutKept κ s₀ (execChannelRetire p stack channel s) := by
  unfold execChannelRetire
  try dsimp only
  repeat' first
    | with_reducible assumption
    | exact hκ.sub (by decide)
    | with_reducible apply kept_prayr
    | with_reducible apply kept_hostReply
    | with_reducible apply kept_lowerLimit
    | with_reducible apply kept_retirePage
    | with_reducible apply kept_onHcp
    | with_reducible apply kept_onBld
    | with_reducible apply OutKept.next
    | with_reducible apply kept_foldl
    | with_reducible intro _ _ _ _
    | with_reducible intro _ _ _
    | with_reducible intro _ _
    | split

theorem kept_execChannelCopyStart (h : Kept κ s₀ s) (hκ : Off κ [.mem, .regs, .pge, .hcp, .bld])  :
    OutKept κ s₀ (execChannelCopyStart s) := by
  unfold execChannelCopyStart
  try dsimp only
  repeat' first
    | with_reducible assumption
    | exact hκ.sub (by decide)
    | with_reducible apply kept_retirePage
    | with_reducible apply kept_setReg
    | with_reducible apply kept_onBld
    | with_reducible apply OutKept.next
    | with_reducible apply kept_foldl
    | with_reducible intro _ _ _ _
    | with_reducible intro _ _ _
    | with_reducible intro _ _
    | split

theorem kept_retireReply (h : Kept κ s₀ s) (hκ : Off κ [.hcp, .out]) (st : St) :
    Kept κ s₀ (State.retireReply s st) := by
  unfold State.retireReply
  try dsimp only
  repeat' first
    | with_reducible assumption
    | exact hκ.sub (by decide)
    | with_reducible apply kept_hostReply
    | with_reducible apply kept_onHcp
    | with_reducible intro _ _ _ _
    | with_reducible intro _ _ _
    | with_reducible intro _ _
    | split

theorem kept_dropRange (h : Kept κ s₀ s) (hκ : Off κ [.mem]) (low : ℕ) (n : ℕ) :
    Kept κ s₀ (State.dropRange s low n) := by
  exact Kept.of_cells h rfl rfl rfl (.refl _) List.filter_sublist (.refl _) (.refl _) (.refl _) (by intro p hp; cases p <;> first | exact (hκ.not hp (by decide)).elim | rfl)

theorem kept_execChannelCopyDone (h : Kept κ s₀ s) (hκ : Off κ [.mem, .regs, .rse, .pge, .mzt, .cores, .exp, .sch, .phs, .fab, .xfr, .syn, .hcp, .bld, .sec, .pcr, .evt, .out])  :
    OutKept κ s₀ (execChannelCopyDone s) := by
  unfold execChannelCopyDone
  try dsimp only
  repeat' first
    | with_reducible assumption
    | exact hκ.sub (by decide)
    | with_reducible apply kept_channelOut
    | with_reducible apply kept_dropRange
    | with_reducible apply kept_setReg
    | with_reducible apply kept_onBld
    | with_reducible apply kept_retireReply
    | with_reducible apply kept_post
    | with_reducible apply kept_askCompute
    | with_reducible apply OutKept.next
    | with_reducible intro _ _ _ _
    | with_reducible intro _ _ _
    | with_reducible intro _ _
    | split

end Sys2Proof.Machine
end

