-- ==== Sys2Proof/Laws/KeptRemote.lean ====
section
/-! SUPPORT. What the operations of Machine/Remote.lean keep (see Laws/Kept.lean). -/

namespace Sys2Proof.Machine

variable {κ : Part → Bool} {s₀ s : State}

theorem kept_csrNext (h : Kept κ s₀ s) (hκ : Off κ [.regs, .fab, .hcp, .out]) (ref : ℕ) (write : Bool) (node : ℕ) (addr : ℕ) (values : List ℕ) (done : List ℕ) :
    Kept κ s₀ (State.csrNext s ref write node addr values done) := by
  unfold State.csrNext
  try dsimp only
  repeat' first
    | with_reducible assumption
    | exact hκ.sub (by decide)
    | with_reducible apply kept_hostReply
    | with_reducible apply kept_inject
    | with_reducible apply kept_onHcp
    | with_reducible apply kept_addRemote
    | with_reducible intro _ _ _ _
    | with_reducible intro _ _ _
    | with_reducible intro _ _
    | split

theorem kept_csrAnswered (h : Kept κ s₀ s) (hκ : Off κ [.regs, .fab, .hcp, .out]) (ref : ℕ) (st : St) (value : ℕ) :
    Kept κ s₀ (State.csrAnswered s ref st value) := by
  unfold State.csrAnswered
  try dsimp only
  repeat' first
    | with_reducible assumption
    | exact hκ.sub (by decide)
    | with_reducible apply kept_onHcp
    | with_reducible apply kept_csrNext
    | with_reducible apply kept_hostReply
    | with_reducible intro _ _ _ _
    | with_reducible intro _ _ _
    | with_reducible intro _ _
    | split

theorem kept_coreAnswered (h : Kept κ s₀ s) (hκ : Off κ [.mem, .regs, .mzt, .cores, .sch, .phs, .fab, .syn, .hcp, .evt, .out]) (o : RemoteOp) (c : ℕ) (done : ℕ) (pc : ℕ) (a : Answer) :
    Kept κ s₀ (State.coreAnswered s o c done pc a) := by
  unfold State.coreAnswered
  try dsimp only
  repeat' first
    | with_reducible assumption
    | exact hκ.sub (by decide)
    | with_reducible apply kept_place
    | with_reducible apply kept_poison
    | with_reducible apply kept_instrAnswered
    | with_reducible apply kept_coreFault
    | with_reducible intro _ _ _ _
    | with_reducible intro _ _ _
    | with_reducible intro _ _
    | split

theorem kept_queueAnswered (h : Kept κ s₀ s) (hκ : Off κ [.mem, .regs, .rse, .mzt, .cores, .sch, .phs, .fab, .xfr, .syn, .hcp, .evt, .out]) (o : RemoteOp) (q : ℕ) (idx : ℕ) (a : Answer) :
    Kept κ s₀ (State.queueAnswered s o q idx a) := by
  unfold State.queueAnswered
  try dsimp only
  repeat' first
    | with_reducible assumption
    | exact hκ.sub (by decide)
    | with_reducible apply kept_wrNum
    | with_reducible apply kept_completeReq
    | with_reducible intro _ _ _ _
    | with_reducible intro _ _ _
    | with_reducible intro _ _
    | split

theorem kept_completeRemote (h : Kept κ s₀ s) (hκ : Off κ [.mem, .regs, .rse, .mzt, .cores, .sch, .phs, .fab, .xfr, .syn, .hcp, .evt, .out]) (o : RemoteOp) (a : Answer) :
    Kept κ s₀ (State.completeRemote s o a) := by
  unfold State.completeRemote
  try dsimp only
  repeat' first
    | with_reducible assumption
    | exact hκ.sub (by decide)
    | with_reducible apply kept_markUnreachable
    | with_reducible apply kept_readFailed
    | with_reducible apply kept_dropRemote
    | with_reducible apply kept_coreAnswered
    | with_reducible apply kept_queueAnswered
    | with_reducible apply kept_csrAnswered
    | with_reducible intro _ _ _ _
    | with_reducible intro _ _ _
    | with_reducible intro _ _
    | split

theorem kept_postRefused (h : Kept κ s₀ s) (hκ : Off κ [.regs, .fab, .hcp, .evt, .out]) (ctx : ℕ) (st : St) (dst : ℕ) (region : ℕ) (addr : ℕ) :
    Kept κ s₀ (State.postRefused s ctx st dst region addr) := by
  unfold State.postRefused
  try dsimp only
  repeat' first
    | with_reducible assumption
    | exact hκ.sub (by decide)
    | with_reducible apply kept_post
    | with_reducible intro _ _ _ _
    | with_reducible intro _ _ _
    | with_reducible intro _ _
    | split

theorem kept_response (h : Kept κ s₀ s) (hκ : Off κ [.mem, .regs, .rse, .mzt, .cores, .sch, .phs, .fab, .xfr, .syn, .hcp, .evt, .out]) (f : Frame) (tag : ℕ) (kinds : List RemoteKind) (a : Answer) :
    Kept κ s₀ (State.response s f tag kinds a) := by
  unfold State.response
  try dsimp only
  repeat' first
    | with_reducible assumption
    | exact hκ.sub (by decide)
    | with_reducible apply kept_bump
    | with_reducible apply kept_postRefused
    | with_reducible apply kept_completeRemote
    | with_reducible intro _ _ _ _
    | with_reducible intro _ _ _
    | with_reducible intro _ _
    | split

theorem kept_postTimeout (h : Kept κ s₀ s) (hκ : Off κ [.regs, .fab, .hcp, .evt, .out]) (o : RemoteOp) :
    Kept κ s₀ (State.postTimeout s o) := by
  unfold State.postTimeout
  try dsimp only
  repeat' first
    | with_reducible assumption
    | exact hκ.sub (by decide)
    | with_reducible apply kept_post
    | with_reducible apply kept_onFab
    | with_reducible intro _ _ _ _
    | with_reducible intro _ _ _
    | with_reducible intro _ _
    | split

theorem kept_timedOut (h : Kept κ s₀ s) (hκ : Off κ [.mem, .regs, .rse, .mzt, .cores, .sch, .phs, .fab, .xfr, .syn, .hcp, .evt, .out]) (o : RemoteOp) (addr : ℕ) :
    Kept κ s₀ (State.timedOut s o addr) := by
  unfold State.timedOut
  try dsimp only
  repeat' first
    | with_reducible assumption
    | exact hκ.sub (by decide)
    | with_reducible apply kept_readRefused
    | with_reducible apply kept_markUnreachable
    | with_reducible apply kept_postTimeout
    | with_reducible apply kept_bump
    | with_reducible apply kept_completeRemote
    | with_reducible intro _ _ _ _
    | with_reducible intro _ _ _
    | with_reducible intro _ _
    | split

theorem kept_sprayRefused (h : Kept κ s₀ s) (hκ : Off κ [.mem, .regs, .rse, .mzt, .cores, .sch, .phs, .fab, .xfr, .syn, .hcp, .evt, .out]) (src : ℕ) (st : St) (region : ℕ) (addr : ℕ) (id : ℕ) :
    Kept κ s₀ (State.sprayRefused s src st region addr id) := by
  unfold State.sprayRefused
  try dsimp only
  repeat' first
    | with_reducible assumption
    | exact hκ.sub (by decide)
    | with_reducible apply kept_postRefused
    | with_reducible apply kept_readRefused
    | with_reducible intro _ _ _ _
    | with_reducible intro _ _ _
    | with_reducible intro _ _
    | split

theorem kept_retryLater (h : Kept κ s₀ s) (hκ : Off κ [.fab]) (dst : ℕ) (m : Msg) :
    Kept κ s₀ (State.retryLater s dst m) := by
  unfold State.retryLater
  try dsimp only
  repeat' first
    | with_reducible assumption
    | exact hκ.sub (by decide)
    | with_reducible apply kept_onFab
    | with_reducible intro _ _ _ _
    | with_reducible intro _ _ _
    | with_reducible intro _ _
    | split

theorem kept_dropForwarded (h : Kept κ s₀ s) (hκ : Off κ [.hcp]) (ref : ℕ) :
    Kept κ s₀ (State.dropForwarded s ref) := by
  unfold State.dropForwarded
  try dsimp only
  repeat' first
    | with_reducible assumption
    | exact hκ.sub (by decide)
    | with_reducible apply kept_onHcp
    | with_reducible intro _ _ _ _
    | with_reducible intro _ _ _
    | with_reducible intro _ _
    | split

theorem kept_forwardedEnds (h : Kept κ s₀ s) (hκ : Off κ [.hcp, .out]) (ref : ℕ) (st : St) (payload : List Sys2Proof.Byte) :
    Kept κ s₀ (State.forwardedEnds s ref st payload) := by
  unfold State.forwardedEnds
  try dsimp only
  repeat' first
    | with_reducible assumption
    | exact hκ.sub (by decide)
    | with_reducible apply kept_hostReply
    | with_reducible apply kept_dropForwarded
    | with_reducible intro _ _ _ _
    | with_reducible intro _ _ _
    | with_reducible intro _ _
    | split

theorem kept_forwardFails (h : Kept κ s₀ s) (hκ : Off κ [.regs, .fab, .hcp, .out]) (ref : ℕ) (st : St) :
    Kept κ s₀ (State.forwardFails s ref st) := by
  unfold State.forwardFails
  try dsimp only
  repeat' first
    | with_reducible assumption
    | exact hκ.sub (by decide)
    | with_reducible apply kept_forwardedEnds
    | with_reducible apply kept_toDeputy
    | with_reducible apply kept_dropForwarded
    | with_reducible intro _ _ _ _
    | with_reducible intro _ _ _
    | with_reducible intro _ _
    | split

theorem kept_forwardedReply (h : Kept κ s₀ s) (hκ : Off κ [.regs, .fab, .hcp, .out]) (ref : ℕ) (st : St) (payload : List Sys2Proof.Byte) :
    Kept κ s₀ (State.forwardedReply s ref st payload) := by
  unfold State.forwardedReply
  try dsimp only
  repeat' first
    | with_reducible assumption
    | exact hκ.sub (by decide)
    | with_reducible apply kept_forwardFails
    | with_reducible apply kept_forwardedEnds
    | with_reducible intro _ _ _ _
    | with_reducible intro _ _ _
    | with_reducible intro _ _
    | split

theorem kept_forwardTimeout (h : Kept κ s₀ s) (hκ : Off κ [.regs, .rse, .fab, .hcp, .out]) (ref : ℕ) :
    Kept κ s₀ (State.forwardTimeout s ref) := by
  unfold State.forwardTimeout
  try dsimp only
  repeat' first
    | with_reducible assumption
    | exact hκ.sub (by decide)
    | with_reducible apply kept_forwardFails
    | with_reducible apply kept_markUnreachable
    | with_reducible intro _ _ _ _
    | with_reducible intro _ _ _
    | with_reducible intro _ _
    | split

theorem kept_execRemoteTimeoutExpiry (h : Kept κ s₀ s) (hκ : Off κ [.mem, .regs, .rse, .mzt, .cores, .sch, .phs, .fab, .xfr, .syn, .hcp, .evt, .out]) (what : Awaited) :
    OutKept κ s₀ (execRemoteTimeoutExpiry what s) := by
  unfold execRemoteTimeoutExpiry
  try dsimp only
  repeat' first
    | with_reducible assumption
    | exact hκ.sub (by decide)
    | with_reducible apply kept_forwardTimeout
    | with_reducible apply kept_timedOut
    | with_reducible apply OutKept.next
    | with_reducible intro _ _ _ _
    | with_reducible intro _ _ _
    | with_reducible intro _ _
    | split

theorem kept_engineRefused (h : Kept κ s₀ s) (hκ : Off κ [.mem, .regs, .rse, .pge, .mzt, .cores, .sch, .phs, .fab, .xfr, .syn, .hcp, .evt, .out]) (src : ℕ) (m : Msg) :
    Kept κ s₀ (State.engineRefused s src m) := by
  unfold State.engineRefused
  try dsimp only
  repeat' first
    | with_reducible assumption
    | exact hκ.sub (by decide)
    | with_reducible apply kept_markUnreachable
    | with_reducible apply kept_retryLater
    | with_reducible apply kept_mztRefused
    | with_reducible apply kept_forwardFails
    | with_reducible apply kept_probeFailed
    | with_reducible intro _ _ _ _
    | with_reducible intro _ _ _
    | with_reducible intro _ _
    | split

theorem kept_sendEach (h : Kept κ s₀ s) (hκ : Off κ [.regs, .fab, .hcp, .out]) (dst : ℕ) (a0 : List Msg) :
    Kept κ s₀ (State.sendEach s dst a0) := by
  induction a0 generalizing s dst with
  | nil =>
    unfold State.sendEach
    try dsimp only
    repeat' first
      | with_reducible assumption
  | cons x_ l_ ih =>
    unfold State.sendEach
    try dsimp only
    repeat' first
      | with_reducible assumption
      | with_reducible apply ih
      | exact hκ.sub (by decide)
      | with_reducible apply kept_sendMsg
      | with_reducible intro _ _ _ _
      | with_reducible intro _ _ _
      | with_reducible intro _ _
      | split

theorem kept_nakRetry (h : Kept κ s₀ s) (hκ : Off κ [.regs, .rse, .fab, .hcp, .out]) (r : NakRetry) :
    Kept κ s₀ (State.nakRetry s r) := by
  unfold State.nakRetry
  try dsimp only
  repeat' first
    | with_reducible assumption
    | exact hκ.sub (by decide)
    | with_reducible apply kept_onFab
    | with_reducible apply kept_sendEach
    | with_reducible apply kept_sendMsg
    | with_reducible apply kept_contact
    | with_reducible intro _ _ _ _
    | with_reducible intro _ _ _
    | with_reducible intro _ _
    | split

theorem kept_execEngineNakRetryExpiry (h : Kept κ s₀ s) (hκ : Off κ [.regs, .rse, .fab, .hcp, .out]) (dst : ℕ) :
    OutKept κ s₀ (execEngineNakRetryExpiry dst s) := by
  unfold execEngineNakRetryExpiry
  try dsimp only
  repeat' first
    | with_reducible assumption
    | exact hκ.sub (by decide)
    | with_reducible apply kept_nakRetry
    | with_reducible apply OutKept.next
    | with_reducible apply kept_foldl
    | with_reducible intro _ _ _ _
    | with_reducible intro _ _ _
    | with_reducible intro _ _
    | split

theorem kept_nodeLost (h : Kept κ s₀ s) (hκ : Off κ [.mem, .regs, .rse, .pge, .mzt, .cores, .sch, .phs, .fab, .xfr, .syn, .hcp, .evt, .out]) (dst : ℕ) :
    Kept κ s₀ (State.nodeLost s dst) := by
  unfold State.nodeLost
  try dsimp only
  repeat' first
    | with_reducible assumption
    | exact hκ.sub (by decide)
    | with_reducible apply kept_post
    | with_reducible apply kept_putOut
    | with_reducible apply kept_onFab
    | with_reducible apply kept_holderLost
    | with_reducible apply kept_mztNodeLost
    | with_reducible apply kept_syncNodeLost
    | with_reducible apply kept_probeFailed
    | with_reducible apply kept_forwardFails
    | with_reducible apply kept_foldl
    | with_reducible intro _ _ _ _
    | with_reducible intro _ _ _
    | with_reducible intro _ _
    | split

theorem kept_resend (h : Kept κ s₀ s) (hκ : Off κ [.regs, .fab, .out]) (dst : ℕ) (fs : List Frame) :
    Kept κ s₀ (State.resend s dst fs) := by
  unfold State.resend
  try dsimp only
  repeat' first
    | with_reducible assumption
    | exact hκ.sub (by decide)
    | with_reducible apply kept_forward
    | with_reducible apply kept_foldl
    | with_reducible intro _ _ _ _
    | with_reducible intro _ _ _
    | with_reducible intro _ _
    | split

theorem kept_retransmit (h : Kept κ s₀ s) (hκ : Off κ [.mem, .regs, .rse, .pge, .mzt, .cores, .sch, .phs, .fab, .xfr, .syn, .hcp, .evt, .out]) (dst : ℕ) :
    Kept κ s₀ (State.retransmit s dst) := by
  unfold State.retransmit
  try dsimp only
  repeat' first
    | with_reducible assumption
    | exact hκ.sub (by decide)
    | with_reducible apply kept_resend
    | with_reducible apply kept_putOut
    | with_reducible apply kept_nodeLost
    | with_reducible intro _ _ _ _
    | with_reducible intro _ _ _
    | with_reducible intro _ _
    | split

theorem kept_takeOack (h : Kept κ s₀ s) (hκ : Off κ [.regs, .rse, .fab, .xfr, .hcp, .evt, .out]) (dst : ℕ) (oack : ℕ) :
    Kept κ s₀ (State.takeOack s dst oack) := by
  unfold State.takeOack
  try dsimp only
  repeat' first
    | with_reducible assumption
    | exact hκ.sub (by decide)
    | with_reducible apply kept_putOut
    | with_reducible apply kept_resend
    | with_reducible apply kept_post
    | with_reducible apply kept_markReachable
    | with_reducible apply kept_pumpWaiting
    | with_reducible apply kept_regained
    | with_reducible apply kept_pumpDst
    | with_reducible intro _ _ _ _
    | with_reducible intro _ _ _
    | with_reducible intro _ _
    | split

theorem kept_restartChannel (h : Kept κ s₀ s) (hκ : Off κ [.mem, .regs, .rse, .mzt, .cores, .sch, .phs, .fab, .xfr, .syn, .hcp, .evt, .out]) (dst : ℕ) :
    Kept κ s₀ (State.restartChannel s dst) := by
  unfold State.restartChannel
  try dsimp only
  repeat' first
    | with_reducible assumption
    | exact hκ.sub (by decide)
    | with_reducible apply kept_writesLost
    | with_reducible apply kept_putOut
    | with_reducible apply kept_resend
    | with_reducible intro _ _ _ _
    | with_reducible intro _ _ _
    | with_reducible intro _ _
    | split

theorem kept_execOack (h : Kept κ s₀ s) (hκ : Off κ [.mem, .regs, .rse, .pge, .mzt, .cores, .sch, .phs, .fab, .xfr, .syn, .hcp, .evt, .out]) (f : Frame) :
    OutKept κ s₀ (execOack f s) := by
  unfold execOack
  try dsimp only
  repeat' first
    | with_reducible assumption
    | exact hκ.sub (by decide)
    | with_reducible apply kept_takeFrame
    | with_reducible apply kept_restartChannel
    | with_reducible apply kept_takeOack
    | with_reducible apply kept_retransmit
    | with_reducible apply OutKept.next
    | with_reducible intro _ _ _ _
    | with_reducible intro _ _ _
    | with_reducible intro _ _
    | split

theorem kept_execOretxExpiry (h : Kept κ s₀ s) (hκ : Off κ [.mem, .regs, .rse, .pge, .mzt, .cores, .sch, .phs, .fab, .xfr, .syn, .hcp, .evt, .out]) (dst : ℕ) :
    OutKept κ s₀ (execOretxExpiry dst s) := by
  unfold execOretxExpiry
  try dsimp only
  repeat' first
    | with_reducible assumption
    | exact hκ.sub (by decide)
    | with_reducible apply kept_retransmit
    | with_reducible apply OutKept.next
    | with_reducible intro _ _ _ _
    | with_reducible intro _ _ _
    | with_reducible intro _ _
    | split

theorem kept_execProbeExpiry (h : Kept κ s₀ s) (hκ : Off κ [.regs, .fab, .out]) (dst : ℕ) :
    OutKept κ s₀ (execProbeExpiry dst s) := by
  unfold execProbeExpiry
  try dsimp only
  repeat' first
    | with_reducible assumption
    | exact hκ.sub (by decide)
    | with_reducible apply kept_resend
    | with_reducible apply OutKept.next
    | with_reducible intro _ _ _ _
    | with_reducible intro _ _ _
    | with_reducible intro _ _
    | split

theorem kept_sendOack (h : Kept κ s₀ s) (hκ : Off κ [.regs, .fab, .out]) (src : ℕ) (sync : Bool) :
    Kept κ s₀ (State.sendOack s src sync) := by
  unfold State.sendOack
  try dsimp only
  repeat' first
    | with_reducible assumption
    | exact hκ.sub (by decide)
    | with_reducible apply kept_putIn
    | with_reducible apply kept_forward
    | with_reducible intro _ _ _ _
    | with_reducible intro _ _ _
    | with_reducible intro _ _
    | split

theorem kept_execStandaloneOackExpiry (h : Kept κ s₀ s) (hκ : Off κ [.regs, .fab, .out]) (src : ℕ) :
    OutKept κ s₀ (execStandaloneOackExpiry src s) := by
  unfold execStandaloneOackExpiry
  try dsimp only
  repeat' first
    | with_reducible assumption
    | exact hκ.sub (by decide)
    | with_reducible apply kept_sendOack
    | with_reducible apply OutKept.next
    | with_reducible intro _ _ _ _
    | with_reducible intro _ _ _
    | with_reducible intro _ _
    | split

end Sys2Proof.Machine
end

