-- ==== Sys2Proof/Laws/KeptCsr.lean ====
section
/-! SUPPORT. What the operations of Machine/Csr.lean keep (see Laws/Kept.lean). -/

namespace Sys2Proof.Machine

variable {κ : Part → Bool} {s₀ s : State}

theorem kept_clearRc (h : Kept κ s₀ s) (hκ : Off κ [.regs, .hcp, .pcr]) (addr : ℕ) :
    Kept κ s₀ (State.clearRc s addr) := by
  unfold State.clearRc
  try dsimp only
  repeat' first
    | with_reducible assumption
    | exact hκ.sub (by decide)
    | with_reducible apply kept_setRegs
    | with_reducible apply kept_putMeter
    | with_reducible apply kept_onPcr
    | with_reducible intro _ _ _ _
    | with_reducible intro _ _ _
    | with_reducible intro _ _
    | split

theorem kept_csrRead (h : Kept κ s₀ s) (hκ : Off κ [.regs, .hcp, .pcr]) (addr : ℕ) :
    Kept κ s₀ (State.csrRead s addr).2 := by
  unfold State.csrRead
  try dsimp only
  repeat' first
    | with_reducible assumption
    | exact hκ.sub (by decide)
    | with_reducible apply kept_setRegs
    | with_reducible apply kept_next
    | with_reducible apply kept_clearRc
    | with_reducible apply ExcKept.error
    | with_reducible apply ExcKept.ok
    | with_reducible apply ErrKept.error
    | with_reducible apply ErrKept.ok
    | with_reducible intro _ _ _ _
    | with_reducible intro _ _ _
    | with_reducible intro _ _
    | split
    | dsimp only [itself]
    | refine Kept.of_snd ?_ (by with_reducible assumption)

theorem kept_assignNumber (h : Kept κ s₀ s) (hκ : Off κ [.regs, .fab, .hcp, .evt, .out]) (n : ℕ) :
    Kept κ s₀ (State.assignNumber s n).1 := by
  unfold State.assignNumber
  try dsimp only
  repeat' first
    | with_reducible assumption
    | exact hκ.sub (by decide)
    | with_reducible apply kept_reReport
    | with_reducible apply kept_capChange
    | with_reducible apply kept_setRegs
    | with_reducible intro _ _ _ _
    | with_reducible intro _ _ _
    | with_reducible intro _ _
    | split

theorem kept_execFabAssignNumber (h : Kept κ s₀ s) (hκ : Off κ [.regs, .fab, .hcp, .evt, .out]) (number : ℕ) :
    OutKept κ s₀ (execFabAssignNumber number s) := by
  unfold execFabAssignNumber
  try dsimp only
  repeat' first
    | with_reducible assumption
    | exact hκ.sub (by decide)
    | with_reducible apply kept_assignNumber
    | with_reducible apply OutKept.next
    | with_reducible intro _ _ _ _
    | with_reducible intro _ _ _
    | with_reducible intro _ _
    | split
    | dsimp only [itself]
    | refine Kept.of_fst ?_ (by with_reducible assumption)

theorem kept_releaseNumber (h : Kept κ s₀ s) (hκ : Off κ [.regs, .fab, .hcp, .evt, .out]) (value : ℕ) :
    Kept κ s₀ (State.releaseNumber s value).1 := by
  unfold State.releaseNumber
  try dsimp only
  repeat' first
    | with_reducible assumption
    | exact hκ.sub (by decide)
    | with_reducible apply kept_setRegs
    | with_reducible apply kept_reReport
    | with_reducible apply kept_capChange
    | with_reducible intro _ _ _ _
    | with_reducible intro _ _ _
    | with_reducible intro _ _
    | split

theorem kept_execFabAssignRelease (h : Kept κ s₀ s) (hκ : Off κ [.regs, .fab, .hcp, .evt, .out])  :
    OutKept κ s₀ (execFabAssignRelease s) := by
  unfold execFabAssignRelease
  try dsimp only
  repeat' first
    | with_reducible assumption
    | exact hκ.sub (by decide)
    | with_reducible apply kept_releaseNumber
    | with_reducible apply OutKept.next
    | with_reducible intro _ _ _ _
    | with_reducible intro _ _ _
    | with_reducible intro _ _
    | split
    | dsimp only [itself]
    | refine Kept.of_fst ?_ (by with_reducible assumption)

theorem kept_rtNext (h : Kept κ s₀ s) (hκ : Off κ [.regs])  :
    Kept κ s₀ (State.rtNext s) := by
  unfold State.rtNext
  try dsimp only
  repeat' first
    | with_reducible assumption
    | exact hκ.sub (by decide)
    | with_reducible apply kept_setReg
    | with_reducible intro _ _ _ _
    | with_reducible intro _ _ _
    | with_reducible intro _ _
    | split

theorem kept_putRoute (h : Kept κ s₀ s) (hκ : Off κ [.fab]) (r : Route) :
    Kept κ s₀ (State.putRoute s r) := by
  unfold State.putRoute
  try dsimp only
  repeat' first
    | with_reducible assumption
    | exact hκ.sub (by decide)
    | with_reducible apply kept_onFab
    | with_reducible intro _ _ _ _
    | with_reducible intro _ _ _
    | with_reducible intro _ _
    | split

theorem kept_routeWrite (h : Kept κ s₀ s) (hκ : Off κ [.mem, .regs, .rse, .pge, .mzt, .cores, .sch, .phs, .fab, .xfr, .syn, .hcp, .evt, .out]) (value : ℕ) :
    Kept κ s₀ (State.routeWrite s value).1 := by
  unfold State.routeWrite
  try dsimp only
  repeat' first
    | with_reducible assumption
    | exact hκ.sub (by decide)
    | with_reducible apply kept_rtNext
    | with_reducible apply kept_nodeLost
    | with_reducible apply kept_putRoute
    | with_reducible intro _ _ _ _
    | with_reducible intro _ _ _
    | with_reducible intro _ _
    | split

theorem kept_execFabRtEntryWrite (h : Kept κ s₀ s) (hκ : Off κ [.mem, .regs, .rse, .pge, .mzt, .cores, .sch, .phs, .fab, .xfr, .syn, .hcp, .evt, .out]) (value : ℕ) :
    OutKept κ s₀ (execFabRtEntryWrite value s) := by
  unfold execFabRtEntryWrite
  try dsimp only
  repeat' first
    | with_reducible assumption
    | exact hκ.sub (by decide)
    | with_reducible apply kept_routeWrite
    | with_reducible apply OutKept.next
    | with_reducible intro _ _ _ _
    | with_reducible intro _ _ _
    | with_reducible intro _ _
    | split
    | dsimp only [itself]
    | refine Kept.of_fst ?_ (by with_reducible assumption)

theorem kept_regionCmdWrite (h : Kept κ s₀ s) (hκ : Off κ [.regs, .fab]) (value : ℕ) (approved : Bool) :
    Kept κ s₀ (State.regionCmdWrite s value approved).1 := by
  unfold State.regionCmdWrite
  try dsimp only
  repeat' first
    | with_reducible assumption
    | exact hκ.sub (by decide)
    | with_reducible apply kept_regionRegister
    | with_reducible apply kept_regionRevoke
    | with_reducible apply kept_regionRead
    | with_reducible intro _ _ _ _
    | with_reducible intro _ _ _
    | with_reducible intro _ _
    | split
    | dsimp only [itself]
    | refine Kept.of_fst ?_ (by with_reducible assumption)

theorem kept_barCmdWrite (h : Kept κ s₀ s) (hκ : Off κ [.regs]) (value : ℕ) :
    Kept κ s₀ (State.barCmdWrite s value).1 := by
  unfold State.barCmdWrite
  try dsimp only
  repeat' first
    | with_reducible assumption
    | exact hκ.sub (by decide)
    | with_reducible apply kept_barConfigure
    | with_reducible apply kept_barFree
    | with_reducible intro _ _ _ _
    | with_reducible intro _ _ _
    | with_reducible intro _ _
    | split

theorem kept_plainWrite (h : Kept κ s₀ s) (hκ : Off κ [.regs]) (addr : ℕ) (value : ℕ) :
    Kept κ s₀ (State.plainWrite s addr value) := by
  unfold State.plainWrite
  try dsimp only
  repeat' first
    | with_reducible assumption
    | exact hκ.sub (by decide)
    | with_reducible apply kept_setRegs
    | with_reducible apply kept_writeRw
    | with_reducible intro _ _ _ _
    | with_reducible intro _ _ _
    | with_reducible intro _ _
    | split

theorem kept_hostWrite (h : Kept κ s₀ s) (hκ : Off κ [.regs, .hcp]) (addr : ℕ) (value : ℕ) :
    Kept κ s₀ (State.hostWrite s addr value).1 := by
  unfold State.hostWrite
  try dsimp only
  repeat' first
    | with_reducible assumption
    | exact hκ.sub (by decide)
    | with_reducible apply kept_hcpWrite
    | with_reducible apply kept_windowWrite
    | with_reducible apply kept_meterWrite
    | with_reducible apply kept_shaperWrite
    | with_reducible intro _ _ _ _
    | with_reducible intro _ _ _
    | with_reducible intro _ _
    | split
    | dsimp only [itself]
    | refine Kept.of_fst ?_ (by with_reducible assumption)

theorem kept_stateWrite (h : Kept κ s₀ s) (hκ : Off κ [.regs, .rse, .pge, .sch, .fab, .hcp, .evt, .out]) (addr : ℕ) (value : ℕ) :
    Kept κ s₀ (State.stateWrite s addr value).1 := by
  unfold State.stateWrite
  try dsimp only
  repeat' first
    | with_reducible assumption
    | exact hκ.sub (by decide)
    | with_reducible apply kept_deputyWrite
    | with_reducible apply kept_mirrorHomeWrite
    | with_reducible apply kept_adoptWrite
    | with_reducible apply kept_poolWrite
    | with_reducible apply kept_evictWrite
    | with_reducible apply kept_ochreWrite
    | with_reducible apply kept_modelWrite
    | with_reducible apply kept_umberCtrlWrite
    | with_reducible apply kept_umberWrite
    | with_reducible apply kept_plainWrite
    | with_reducible apply kept_watermark
    | with_reducible intro _ _ _ _
    | with_reducible intro _ _ _
    | with_reducible intro _ _
    | split
    | dsimp only [itself]
    | refine Kept.of_fst ?_ (by with_reducible assumption)

theorem kept_mztWrite (h : Kept κ s₀ s) (hκ : Off κ [.regs]) (addr : ℕ) (value : ℕ) :
    Kept κ s₀ (State.mztWrite s addr value).1 := by
  unfold State.mztWrite
  try dsimp only
  repeat' first
    | with_reducible assumption
    | exact hκ.sub (by decide)
    | with_reducible apply kept_mztCtrlWrite
    | with_reducible apply kept_mztCoresWrite
    | with_reducible apply kept_mztConfigWrite
    | with_reducible apply kept_plainWrite
    | with_reducible intro _ _ _ _
    | with_reducible intro _ _ _
    | with_reducible intro _ _
    | split
    | dsimp only [itself]
    | refine Kept.of_fst ?_ (by with_reducible assumption)

theorem kept_schWrite (h : Kept κ s₀ s) (hκ : Off κ [.regs, .mzt, .cores, .sch, .fab, .hcp]) (addr : ℕ) (value : ℕ) :
    Kept κ s₀ (State.schWrite s addr value).1 := by
  unfold State.schWrite
  try dsimp only
  repeat' first
    | with_reducible assumption
    | exact hκ.sub (by decide)
    | with_reducible apply kept_ctxCmdWrite
    | with_reducible apply kept_queueWrite
    | with_reducible apply kept_compWrite
    | with_reducible apply kept_plainWrite
    | with_reducible intro _ _ _ _
    | with_reducible intro _ _ _
    | with_reducible intro _ _
    | split
    | dsimp only [itself]
    | refine Kept.of_fst ?_ (by with_reducible assumption)

theorem kept_fabWrite (h : Kept κ s₀ s) (hκ : Off κ [.mem, .regs, .rse, .pge, .mzt, .cores, .sch, .phs, .fab, .xfr, .syn, .hcp, .evt, .out]) (addr : ℕ) (value : ℕ) :
    Kept κ s₀ (State.fabWrite s addr value).1 := by
  unfold State.fabWrite
  try dsimp only
  repeat' first
    | with_reducible assumption
    | exact hκ.sub (by decide)
    | with_reducible apply kept_portCfgWrite
    | with_reducible apply kept_fabCtrlWrite
    | with_reducible apply kept_releaseNumber
    | with_reducible apply kept_assignNumber
    | with_reducible apply kept_fabTimeoutWrite
    | with_reducible apply kept_routeWrite
    | with_reducible apply kept_regionBaseWrite
    | with_reducible apply kept_regionCmdWrite
    | with_reducible apply kept_peerWrite
    | with_reducible apply kept_plainWrite
    | with_reducible intro _ _ _ _
    | with_reducible intro _ _ _
    | with_reducible intro _ _
    | split
    | dsimp only [itself]
    | refine Kept.of_fst ?_ (by with_reducible assumption)

theorem kept_xfrWrite (h : Kept κ s₀ s) (hκ : Off κ [.mem, .regs, .rse, .mzt, .cores, .sch, .phs, .fab, .xfr, .syn, .hcp, .evt, .out]) (addr : ℕ) (value : ℕ) :
    Kept κ s₀ (State.xfrWrite s addr value).1 := by
  unfold State.xfrWrite
  try dsimp only
  repeat' first
    | with_reducible assumption
    | exact hκ.sub (by decide)
    | with_reducible apply kept_msgBaseWrite
    | with_reducible apply kept_qdWrite
    | with_reducible apply kept_queueCfgWrite
    | with_reducible apply kept_groupWrite
    | with_reducible apply kept_plainWrite
    | with_reducible intro _ _ _ _
    | with_reducible intro _ _ _
    | with_reducible intro _ _
    | split
    | dsimp only [itself]
    | refine Kept.of_fst ?_ (by with_reducible assumption)

theorem kept_ite_fst {α : Type} {c : Prop} [Decidable c] {p q : State × α} (hp : Kept κ s₀ p.1) (hq : Kept κ s₀ q.1) :
    Kept κ s₀ (if c then p else q).1 := by
  split <;> assumption

theorem kept_regWrite (h : Kept κ s₀ s) (hκ : Off κ [.mem, .regs, .rse, .pge, .mzt, .cores, .exp, .sch, .phs, .fab, .xfr, .syn, .hcp, .pcr, .evt, .out]) (addr value : ℕ) : Kept κ s₀ (State.regWrite s addr value).1 := by
  unfold State.regWrite
  repeat' first
    | with_reducible assumption
    | exact hκ.sub (by decide)
    | with_reducible apply kept_ite_fst
    | with_reducible apply kept_hostWrite
    | with_reducible apply kept_stateWrite
    | with_reducible apply kept_mztWrite
    | with_reducible apply kept_schWrite
    | with_reducible apply kept_expCmdWrite
    | with_reducible apply kept_expAddrWrite
    | with_reducible apply kept_ctrDataWrite
    | with_reducible apply kept_barCmdWrite
    | with_reducible apply kept_plainWrite
    | with_reducible apply kept_fabWrite
    | with_reducible apply kept_xfrWrite
    | with_reducible apply kept_turnWrite
    | with_reducible apply kept_policyWrite
    | with_reducible apply kept_powerLimitWrite
    | with_reducible apply kept_eccCfgWrite

theorem kept_csrWrite (h : Kept κ s₀ s) (hκ : Off κ [.mem, .regs, .rse, .pge, .mzt, .cores, .exp, .sch, .phs, .fab, .xfr, .syn, .hcp, .pcr, .evt, .out]) (remote : Bool) (addr : ℕ) (value : ℕ) :
    Kept κ s₀ (State.csrWrite s remote addr value).1 := by
  unfold State.csrWrite
  try dsimp only
  repeat' first
    | with_reducible assumption
    | exact hκ.sub (by decide)
    | with_reducible apply kept_regWrite
    | with_reducible intro _ _ _ _
    | with_reducible intro _ _ _
    | with_reducible intro _ _
    | split
    | dsimp only [itself]
    | refine Kept.of_fst ?_ (by with_reducible assumption)

theorem kept_execCsrWriteGeneric (h : Kept κ s₀ s) (hκ : Off κ [.mem, .regs, .rse, .pge, .mzt, .cores, .exp, .sch, .phs, .fab, .xfr, .syn, .hcp, .pcr, .evt, .out]) (addr : ℕ) (value : ℕ) :
    OutKept κ s₀ (execCsrWriteGeneric addr value s) := by
  unfold execCsrWriteGeneric
  try dsimp only
  repeat' first
    | with_reducible assumption
    | exact hκ.sub (by decide)
    | with_reducible apply kept_csrWrite
    | with_reducible apply OutKept.next
    | with_reducible intro _ _ _ _
    | with_reducible intro _ _ _
    | with_reducible intro _ _
    | split
    | dsimp only [itself]
    | refine Kept.of_fst ?_ (by with_reducible assumption)

theorem kept_csrReads (h : Kept κ s₀ s) (hκ : Off κ [.regs, .hcp, .pcr]) (addr : ℕ) (acc : List ℕ) (a0 : ℕ) :
    Kept κ s₀ (State.csrReads s addr acc a0).2.2 := by
  induction a0 generalizing s addr acc with
  | zero =>
    unfold State.csrReads
    try dsimp only
    repeat' first
      | with_reducible assumption
  | succ n_ ih =>
    unfold State.csrReads
    try dsimp only
    repeat' first
      | with_reducible assumption
      | with_reducible apply ih
      | exact hκ.sub (by decide)
      | with_reducible apply kept_csrRead
      | with_reducible intro _ _ _ _
      | with_reducible intro _ _ _
      | with_reducible intro _ _
      | split
      | dsimp only [itself]
      | refine Kept.of_snd ?_ (by with_reducible assumption)

theorem kept_csrWrites (h : Kept κ s₀ s) (hκ : Off κ [.mem, .regs, .rse, .pge, .mzt, .cores, .exp, .sch, .phs, .fab, .xfr, .syn, .hcp, .pcr, .evt, .out]) (addr : ℕ) (n : ℕ) (a0 : List ℕ) :
    Kept κ s₀ (State.csrWrites s addr n a0).2.2 := by
  induction a0 generalizing s addr n with
  | nil =>
    unfold State.csrWrites
    try dsimp only
    repeat' first
      | with_reducible assumption
  | cons x_ l_ ih =>
    unfold State.csrWrites
    try dsimp only
    repeat' first
      | with_reducible assumption
      | with_reducible apply ih
      | exact hκ.sub (by decide)
      | with_reducible apply kept_csrWrite
      | with_reducible intro _ _ _ _
      | with_reducible intro _ _ _
      | with_reducible intro _ _
      | split
      | dsimp only [itself]
      | refine Kept.of_fst ?_ (by with_reducible assumption)

theorem kept_execCsrRead (h : Kept κ s₀ s) (hκ : Off κ [.regs, .fab, .hcp, .pcr, .evt, .out]) (p : HostPkt) (node : ℕ) (addr : ℕ) (count : ℕ) :
    OutKept κ s₀ (execCsrRead p node addr count s) := by
  unfold execCsrRead
  try dsimp only
  repeat' first
    | with_reducible assumption
    | exact hκ.sub (by decide)
    | with_reducible apply kept_prayr
    | with_reducible apply kept_csrReads
    | with_reducible apply kept_hostReply
    | with_reducible apply kept_csrNext
    | with_reducible apply OutKept.next
    | with_reducible intro _ _ _ _
    | with_reducible intro _ _ _
    | with_reducible intro _ _
    | split
    | dsimp only [itself]
    | refine Kept.of_third ?_ (by with_reducible assumption)
    | refine Kept.of_snd ?_ (by with_reducible assumption)

theorem kept_execCsrWrite (h : Kept κ s₀ s) (hκ : Off κ [.mem, .regs, .rse, .pge, .mzt, .cores, .exp, .sch, .phs, .fab, .xfr, .syn, .hcp, .sec, .pcr, .evt, .out]) (p : HostPkt) (node : ℕ) (addr : ℕ) (values : List ℕ) :
    OutKept κ s₀ (execCsrWrite p node addr values s) := by
  unfold execCsrWrite
  try dsimp only
  repeat' first
    | with_reducible assumption
    | exact hκ.sub (by decide)
    | with_reducible apply kept_prayr
    | with_reducible apply kept_approvedWith
    | with_reducible apply kept_regionCmdWrite
    | with_reducible apply kept_csrWrites
    | with_reducible apply kept_hostReply
    | with_reducible apply kept_csrNext
    | with_reducible apply OutKept.next
    | with_reducible intro _ _ _ _
    | with_reducible intro _ _ _
    | with_reducible intro _ _
    | split
    | dsimp only [itself]
    | refine Kept.of_third ?_ (by with_reducible assumption)
    | refine Kept.of_snd ?_ (by with_reducible assumption)
    | refine Kept.of_fst ?_ (by with_reducible assumption)

end Sys2Proof.Machine
end

