-- ==== Sys2Proof/Laws/KeptFabric.lean ====
section
/-! SUPPORT. What the operations of Machine/Fabric.lean keep (see Laws/Kept.lean). -/

namespace Sys2Proof.Machine

variable {κ : Part → Bool} {s₀ s : State}

theorem kept_serveCommand (h : Kept κ s₀ s) (hκ : Off κ [.mem, .regs, .rse, .pge, .sch, .fab, .hcp, .evt, .out]) (src : ℕ) (c : FwdCmd) (tenant : ℕ) (ref : ℕ) :
    Kept κ s₀ (State.serveCommand s src c tenant ref) := by
  unfold State.serveCommand
  try dsimp only
  repeat' first
    | with_reducible assumption
    | exact hκ.sub (by decide)
    | with_reducible apply kept_homeCommand
    | with_reducible apply kept_replyTo
    | with_reducible intro _ _ _ _
    | with_reducible intro _ _ _
    | with_reducible intro _ _
    | split

theorem kept_serveMsg (h : Kept κ s₀ s) (hκ : Off κ [.mem, .regs, .rse, .pge, .mzt, .cores, .sch, .phs, .fab, .xfr, .syn, .hcp, .evt, .out]) (x : ℕ × Msg) :
    Kept κ s₀ (State.serveMsg s x) := by
  unfold State.serveMsg
  try dsimp only
  repeat' first
    | with_reducible assumption
    | exact hκ.sub (by decide)
    | with_reducible apply kept_serveResync
    | with_reducible apply kept_takeMsg
    | with_reducible apply kept_servePgFetch
    | with_reducible apply kept_serveCommand
    | with_reducible apply kept_throughRefusal
    | with_reducible apply kept_sendMsg
    | with_reducible apply kept_parityMoved
    | with_reducible apply kept_endHostWait
    | with_reducible apply kept_forwardedReply
    | with_reducible intro _ _ _ _
    | with_reducible intro _ _ _
    | with_reducible intro _ _
    | split

theorem kept_serveInbox (h : Kept κ s₀ s) (hκ : Off κ [.mem, .regs, .rse, .pge, .mzt, .cores, .sch, .phs, .fab, .xfr, .syn, .hcp, .evt, .out])  :
    Kept κ s₀ (State.serveInbox s) := by
  unfold State.serveInbox
  try dsimp only
  repeat' first
    | with_reducible assumption
    | exact hκ.sub (by decide)
    | with_reducible apply kept_serveMsg
    | with_reducible apply kept_foldl
    | with_reducible intro _ _ _ _
    | with_reducible intro _ _ _
    | with_reducible intro _ _
    | split

theorem kept_admitFrame (h : Kept κ s₀ s) (hκ : Off κ [.mem, .regs, .rse, .pge, .mzt, .cores, .sch, .phs, .fab, .xfr, .syn, .hcp, .evt, .out]) (f : Frame) :
    Kept κ s₀ (State.admitFrame s f) := by
  unfold State.admitFrame
  try dsimp only
  repeat' first
    | with_reducible assumption
    | exact hκ.sub (by decide)
    | with_reducible apply kept_serveInbox
    | with_reducible apply kept_queueFrame
    | with_reducible apply kept_flow
    | with_reducible intro _ _ _ _
    | with_reducible intro _ _ _
    | with_reducible intro _ _
    | split

theorem kept_dropHeldOf (h : Kept κ s₀ s) (hκ : Off κ [.fab]) (src : ℕ) :
    Kept κ s₀ (State.dropHeldOf s src) := by
  unfold State.dropHeldOf
  try dsimp only
  repeat' first
    | with_reducible assumption
    | exact hκ.sub (by decide)
    | with_reducible apply kept_onFab
    | with_reducible intro _ _ _ _
    | with_reducible intro _ _ _
    | with_reducible intro _ _
    | split

theorem kept_newChannel (h : Kept κ s₀ s) (hκ : Off κ [.mem, .regs, .rse, .pge, .mzt, .cores, .sch, .phs, .fab, .xfr, .syn, .hcp, .evt, .out]) (f : Frame) :
    Kept κ s₀ (State.newChannel s f) := by
  unfold State.newChannel
  try dsimp only
  repeat' first
    | with_reducible assumption
    | exact hκ.sub (by decide)
    | with_reducible apply kept_clearSource
    | with_reducible apply kept_admitFrame
    | with_reducible apply kept_putIn
    | with_reducible apply kept_dropHeldOf
    | with_reducible intro _ _ _ _
    | with_reducible intro _ _ _
    | with_reducible intro _ _
    | split

theorem kept_orderedFrame (h : Kept κ s₀ s) (hκ : Off κ [.mem, .regs, .rse, .pge, .mzt, .cores, .sch, .phs, .fab, .xfr, .syn, .hcp, .evt, .out]) (f : Frame) :
    Kept κ s₀ (State.orderedFrame s f) := by
  unfold State.orderedFrame
  try dsimp only
  repeat' first
    | with_reducible assumption
    | exact hκ.sub (by decide)
    | with_reducible apply kept_takeOack
    | with_reducible apply kept_newChannel
    | with_reducible apply kept_sendOack
    | with_reducible apply kept_admitFrame
    | with_reducible apply kept_putIn
    | with_reducible apply kept_contact
    | with_reducible intro _ _ _ _
    | with_reducible intro _ _ _
    | with_reducible intro _ _
    | split

theorem kept_execOrderedFrameAccept (h : Kept κ s₀ s) (hκ : Off κ [.mem, .regs, .rse, .pge, .mzt, .cores, .sch, .phs, .fab, .xfr, .syn, .hcp, .evt, .out]) (f : Frame) :
    OutKept κ s₀ (execOrderedFrameAccept f s) := by
  unfold execOrderedFrameAccept
  try dsimp only
  repeat' first
    | with_reducible assumption
    | exact hκ.sub (by decide)
    | with_reducible apply kept_takeFrame
    | with_reducible apply kept_orderedFrame
    | with_reducible apply OutKept.next
    | with_reducible intro _ _ _ _
    | with_reducible intro _ _ _
    | with_reducible intro _ _
    | split

theorem kept_countSpace3 (h : Kept κ s₀ s) (hκ : Off κ [.regs]) (st : St) :
    Kept κ s₀ (State.countSpace3 s st) := by
  unfold State.countSpace3
  try dsimp only
  repeat' first
    | with_reducible assumption
    | exact hκ.sub (by decide)
    | with_reducible apply kept_countRefusal
    | with_reducible intro _ _ _ _
    | with_reducible intro _ _ _
    | with_reducible intro _ _
    | split

theorem kept_space3Load (h : Kept κ s₀ s) (hκ : Off κ [.regs, .fab, .hcp, .pcr, .out]) (f : Frame) (h_ : OpHdr) :
    Kept κ s₀ (State.space3Load s f h_) := by
  unfold State.space3Load
  try dsimp only
  repeat' first
    | with_reducible assumption
    | exact hκ.sub (by decide)
    | with_reducible apply kept_respond
    | with_reducible apply kept_csrRead
    | with_reducible apply kept_countSpace3
    | with_reducible intro _ _ _ _
    | with_reducible intro _ _ _
    | with_reducible intro _ _
    | split
    | dsimp only [itself]
    | refine Kept.of_snd ?_ (by with_reducible assumption)

theorem kept_space3Store (h : Kept κ s₀ s) (hκ : Off κ [.mem, .regs, .rse, .pge, .mzt, .cores, .exp, .sch, .phs, .fab, .xfr, .syn, .hcp, .pcr, .evt, .out]) (f : Frame) (h_ : OpHdr) (data : List Sys2Proof.Byte) :
    Kept κ s₀ (State.space3Store s f h_ data) := by
  unfold State.space3Store
  try dsimp only
  repeat' first
    | with_reducible assumption
    | exact hκ.sub (by decide)
    | with_reducible apply kept_respond
    | with_reducible apply kept_csrWrite
    | with_reducible apply kept_countSpace3
    | with_reducible intro _ _ _ _
    | with_reducible intro _ _ _
    | with_reducible intro _ _
    | split
    | dsimp only [itself]
    | refine Kept.of_fst ?_ (by with_reducible assumption)

theorem kept_loadFrame (h : Kept κ s₀ s) (hκ : Off κ [.regs, .fab, .hcp, .pcr, .out]) (f : Frame) (h_ : OpHdr) :
    Kept κ s₀ (State.loadFrame s f h_) := by
  unfold State.loadFrame
  try dsimp only
  repeat' first
    | with_reducible assumption
    | exact hκ.sub (by decide)
    | with_reducible apply kept_space3Load
    | with_reducible apply kept_respond
    | with_reducible apply kept_countRefusal
    | with_reducible apply kept_regionLooked
    | with_reducible intro _ _ _ _
    | with_reducible intro _ _ _
    | with_reducible intro _ _
    | split

theorem kept_storeFrame (h : Kept κ s₀ s) (hκ : Off κ [.mem, .regs, .rse, .pge, .mzt, .cores, .exp, .sch, .phs, .fab, .xfr, .syn, .hcp, .pcr, .evt, .out]) (f : Frame) (h_ : OpHdr) (data : List Sys2Proof.Byte) :
    Kept κ s₀ (State.storeFrame s f h_ data) := by
  unfold State.storeFrame
  try dsimp only
  repeat' first
    | with_reducible assumption
    | exact hκ.sub (by decide)
    | with_reducible apply kept_space3Store
    | with_reducible apply kept_respond
    | with_reducible apply kept_countRefusal
    | with_reducible apply kept_place
    | with_reducible apply kept_regionLooked
    | with_reducible intro _ _ _ _
    | with_reducible intro _ _ _
    | with_reducible intro _ _
    | split

theorem kept_mgmtSend (h : Kept κ s₀ s) (hκ : Off κ [.regs, .fab, .out]) (path : List ℕ) (f : Frame) :
    Kept κ s₀ (State.mgmtSend s path f) := by
  unfold State.mgmtSend
  try dsimp only
  repeat' first
    | with_reducible assumption
    | exact hκ.sub (by decide)
    | with_reducible apply kept_onFab
    | with_reducible apply kept_linkSend
    | with_reducible intro _ _ _ _
    | with_reducible intro _ _ _
    | with_reducible intro _ _
    | split

theorem kept_mgmtAnswer (h : Kept κ s₀ s) (hκ : Off κ [.regs, .fab, .out]) (f : Frame) (tag : ℕ) (value : ℕ) (st : St) :
    Kept κ s₀ (State.mgmtAnswer s f tag value st) := by
  unfold State.mgmtAnswer
  try dsimp only
  repeat' first
    | with_reducible assumption
    | exact hκ.sub (by decide)
    | with_reducible apply kept_mgmtSend
    | with_reducible intro _ _ _ _
    | with_reducible intro _ _ _
    | with_reducible intro _ _
    | split

theorem kept_mgmtAccept (h : Kept κ s₀ s) (hκ : Off κ [.regs]) (src : ℕ) :
    OptKept κ s₀ itself (State.mgmtAccept s src) := by
  unfold State.mgmtAccept
  try dsimp only
  repeat' first
    | with_reducible assumption
    | exact hκ.sub (by decide)
    | with_reducible apply kept_setRegs
    | exact OptKept.none
    | with_reducible apply OptKept.some
    | with_reducible intro _ _ _ _
    | with_reducible intro _ _ _
    | with_reducible intro _ _
    | split

theorem kept_mgmtAccess (h : Kept κ s₀ s) (hκ : Off κ [.mem, .regs, .rse, .pge, .mzt, .cores, .exp, .sch, .phs, .fab, .xfr, .syn, .hcp, .pcr, .evt, .out]) (f : Frame) :
    Kept κ s₀ (State.mgmtAccess s f) := by
  unfold State.mgmtAccess
  try dsimp only
  repeat' first
    | with_reducible assumption
    | exact hκ.sub (by decide)
    | with_reducible apply kept_csrRead
    | with_reducible apply kept_mgmtAnswer
    | with_reducible apply kept_csrWrite
    | with_reducible intro _ _ _ _
    | with_reducible intro _ _ _
    | with_reducible intro _ _
    | split
    | dsimp only [itself]
    | refine Kept.of_snd ?_ (by with_reducible assumption)
    | refine Kept.of_fst ?_ (by with_reducible assumption)

theorem kept_execMgmtFrame (h : Kept κ s₀ s) (hκ : Off κ [.mem, .regs, .rse, .pge, .mzt, .cores, .exp, .sch, .phs, .fab, .xfr, .syn, .hcp, .pcr, .evt, .out]) (f : Frame) :
    OutKept κ s₀ (execMgmtFrame f s) := by
  unfold execMgmtFrame
  try dsimp only
  repeat' first
    | with_reducible assumption
    | exact hκ.sub (by decide)
    | with_reducible apply kept_takeFrame
    | with_reducible apply kept_mgmtAccept
    | with_reducible apply kept_mgmtAccess
    | with_reducible apply OutKept.next
    | with_reducible intro _ _ _ _
    | with_reducible intro _ _ _
    | with_reducible intro _ _
    | split
    | dsimp only [itself]
    | refine OptKept.getD (f := itself) ?_ ?_
    | refine OptKept.get_id ?_ (by with_reducible assumption)

theorem kept_execMgmtResp (h : Kept κ s₀ s) (hκ : Off κ [.fab]) (f : Frame) :
    OutKept κ s₀ (execMgmtResp f s) := by
  unfold execMgmtResp
  try dsimp only
  repeat' first
    | with_reducible assumption
    | exact hκ.sub (by decide)
    | with_reducible apply kept_takeFrame
    | with_reducible apply OutKept.next
    | with_reducible intro _ _ _ _
    | with_reducible intro _ _ _
    | with_reducible intro _ _
    | split

theorem kept_execFabricNotice (h : Kept κ s₀ s) (hκ : Off κ [.regs, .fab, .hcp, .evt, .out]) (src : ℕ) (e : EvtWords) :
    OutKept κ s₀ (execFabricNotice src e s) := by
  unfold execFabricNotice
  try dsimp only
  repeat' first
    | with_reducible assumption
    | exact hκ.sub (by decide)
    | with_reducible apply kept_takeMsg
    | with_reducible apply kept_postOverwritten
    | with_reducible apply kept_ringPost
    | with_reducible apply OutKept.next
    | with_reducible intro _ _ _ _
    | with_reducible intro _ _ _
    | with_reducible intro _ _
    | split

end Sys2Proof.Machine
end

