-- ==== Sys2Proof/Laws/KeptDispatch.lean ====
section
/-! SUPPORT. What every command keeps (see Laws/Kept.lean). -/

namespace Sys2Proof.Machine

open Sys2Proof

variable {κ : Part → Bool}

/-- Every command leaves the queue, the variant and the AON count alone, keeps the canonical form, and changes no part beside
those it touches. -/
theorem kept_exec (c : Instr) (s : State) (hκ : Off κ (touches c)) : OutKept κ s (exec c s) := by
  cases c with
  | csrWriteGeneric addr value => exact kept_execCsrWriteGeneric (Kept.refl s) hκ addr value
  | coreFailure tile phys status => exact kept_execCoreFailure (Kept.refl s) hκ tile phys status
  | mirrorBind src => exact kept_execMirrorBind (Kept.refl s) hκ src
  | mirrorBindAccepted src => exact kept_execMirrorBindAccepted (Kept.refl s) hκ src
  | mirrorCopyComplete => exact kept_execMirrorCopyComplete (Kept.refl s) hκ
  | mirrorBindRefused src status => exact kept_execMirrorBindRefused (Kept.refl s) hκ src status
  | mirrorBindRetryExpiry => exact kept_execMirrorBindRetryExpiry (Kept.refl s) hκ
  | mirrorWrite src id w rec history => exact kept_execMirrorWrite (Kept.refl s) hκ src id w rec history
  | mirrorAck src id w => exact kept_execMirrorAck (Kept.refl s) hκ src id w
  | mirrorAckTimeout id seq => exact kept_execMirrorAckTimeout (Kept.refl s) hκ id seq
  | deferredChangeRetry id => exact kept_execDeferredChangeRetry (Kept.refl s) hκ id
  | mirrorRefused src id w => exact kept_execMirrorRefused (Kept.refl s) hκ src id w
  | mirrorFenced src id w => exact kept_execMirrorFenced (Kept.refl s) hκ src id w
  | ownQuery src id epoch committed rec => exact kept_execOwnQuery (Kept.refl s) hκ src id epoch committed rec
  | ownReply src id epoch owner => exact kept_execOwnReply (Kept.refl s) hκ src id epoch owner
  | ownQueryRetry id => exact kept_execOwnQueryRetry (Kept.refl s) hκ id
  | claimWindowExpiry id => exact kept_execClaimWindowExpiry (Kept.refl s) hκ id
  | resyncReply src adopted items => exact kept_execResyncReply (Kept.refl s) hκ src adopted items
  | resyncRetry => exact kept_execResyncRetry (Kept.refl s) hκ
  | rseAdoptWrite value => exact kept_execRseAdoptWrite (Kept.refl s) hκ value
  | rseDeputyWrite value => exact kept_execRseDeputyWrite (Kept.refl s) hκ value
  | rseMirrorHomeWrite value => exact kept_execRseMirrorHomeWrite (Kept.refl s) hκ value
  | placementOffer => exact kept_execPlacementOffer (Kept.refl s) hκ
  | place src m => exact kept_execPlace (Kept.refl s) hκ src m
  | placeAccept src id epoch => exact kept_execPlaceAccept (Kept.refl s) hκ src id epoch
  | placeRefused src id epoch status => exact kept_execPlaceRefused (Kept.refl s) hκ src id epoch status
  | placeTimeout id => exact kept_execPlaceTimeout (Kept.refl s) hκ id
  | placed src id epoch => exact kept_execPlaced (Kept.refl s) hκ src id epoch
  | recallComplete id => exact kept_execRecallComplete (Kept.refl s) hκ id
  | placeCancel src id epoch => exact kept_execPlaceCancel (Kept.refl s) hκ src id epoch
  | placeInDoubtExpiry id => exact kept_execPlaceInDoubtExpiry (Kept.refl s) hκ id
  | stepCommit id => exact kept_execStepCommit (Kept.refl s) hκ id
  | stepNote src n => exact kept_execStepNote (Kept.refl s) hκ src n
  | stepAck src id epoch gen => exact kept_execStepAck (Kept.refl s) hκ src id epoch gen
  | lostStep src id epoch => exact kept_execLostStep (Kept.refl s) hκ src id epoch
  | lossSweep node => exact kept_execLossSweep (Kept.refl s) hκ node
  | requestRecover id => exact kept_execRequestRecover (Kept.refl s) hκ id
  | recordRestore id => exact kept_execRecordRestore (Kept.refl s) hκ id
  | moveStart id => exact kept_execMoveStart (Kept.refl s) hκ id
  | mvPrepare src m => exact kept_execMvPrepare (Kept.refl s) hκ src m
  | pullComplete id => exact kept_execPullComplete (Kept.refl s) hκ id
  | pullReadFailed id tag status => exact kept_execPullReadFailed (Kept.refl s) hκ id tag status
  | mvPrepared src id epoch => exact kept_execMvPrepared (Kept.refl s) hκ src id epoch
  | mvRefused src id epoch status => exact kept_execMvRefused (Kept.refl s) hκ src id epoch status
  | mvCommitReq src id epoch dest => exact kept_execMvCommitReq (Kept.refl s) hκ src id epoch dest
  | mvCommitted src id epoch owner => exact kept_execMvCommitted (Kept.refl s) hκ src id epoch owner
  | mvAborted src id epoch status => exact kept_execMvAborted (Kept.refl s) hκ src id epoch status
  | mvAbort src id epoch => exact kept_execMvAbort (Kept.refl s) hκ src id epoch
  | mvReleased src id epoch => exact kept_execMvReleased (Kept.refl s) hκ src id epoch
  | prepareTimeout id => exact kept_execPrepareTimeout (Kept.refl s) hκ id
  | moveCommitTimeout id => exact kept_execMoveCommitTimeout (Kept.refl s) hκ id
  | handbackRetryExpiry id => exact kept_execHandbackRetryExpiry (Kept.refl s) hκ id
  | ttlExpiry id => exact kept_execTtlExpiry (Kept.refl s) hκ id
  | tombstoneExpiry id => exact kept_execTombstoneExpiry (Kept.refl s) hκ id
  | cancelFwd src id epoch => exact kept_execCancelFwd (Kept.refl s) hκ src id epoch
  | fwdPause src id epoch p => exact kept_execFwdPause (Kept.refl s) hκ src id epoch p
  | fwdMove src id epoch dest reply => exact kept_execFwdMove (Kept.refl s) hκ src id epoch dest reply
  | final src m => exact kept_execFinal (Kept.refl s) hκ src m
  | notOwner src id epoch kind => exact kept_execNotOwner (Kept.refl s) hκ src id epoch kind
  | notOwnerRetryExpiry id => exact kept_execNotOwnerRetryExpiry (Kept.refl s) hκ id
  | pgeModelWrite m value => exact kept_execPgeModelWrite (Kept.refl s) hκ m value
  | pgeKvPoolWrite value => exact kept_execPgeKvPoolWrite (Kept.refl s) hκ value
  | pgeOchreWrite addr value => exact kept_execPgeOchreWrite (Kept.refl s) hκ addr value
  | pgeUmberCtrlWrite u value => exact kept_execPgeUmberCtrlWrite (Kept.refl s) hκ u value
  | pgeUmberWrite addr value => exact kept_execPgeUmberWrite (Kept.refl s) hκ addr value
  | pgeEvictWrite value => exact kept_execPgeEvictWrite (Kept.refl s) hκ value
  | prefixIdleExpiry idx => exact kept_execPrefixIdleExpiry (Kept.refl s) hκ idx
  | pgRenewTimer => exact kept_execPgRenewTimer (Kept.refl s) hκ
  | pgRenew src id epoch idxs => exact kept_execPgRenew (Kept.refl s) hκ src id epoch idxs
  | pgTtl src id epoch ticks => exact kept_execPgTtl (Kept.refl s) hκ src id epoch ticks
  | pgFree src id epoch idxs => exact kept_execPgFree (Kept.refl s) hκ src id epoch idxs
  | pageDeadlineCheck => exact kept_execPageDeadlineCheck (Kept.refl s) hκ
  | migrationStart idx why => exact kept_execMigrationStart (Kept.refl s) hκ idx why
  | migrationCopy src idx p data => exact kept_execMigrationCopy (Kept.refl s) hκ src idx p data
  | migrationAck src idx index => exact kept_execMigrationAck (Kept.refl s) hκ src idx index
  | migrationRefused src idx status => exact kept_execMigrationRefused (Kept.refl s) hκ src idx status
  | demoteIdleExpiry idx => exact kept_execDemoteIdleExpiry (Kept.refl s) hκ idx
  | writeThrough src id epoch idx offset tag data => exact kept_execWriteThrough (Kept.refl s) hκ src id epoch idx offset tag data
  | parityUpdate src id epoch group offset tag delta => exact kept_execParityUpdate (Kept.refl s) hκ src id epoch group offset tag delta
  | writeThroughAck src id tag => exact kept_execWriteThroughAck (Kept.refl s) hκ src id tag
  | pgLocate src id epoch => exact kept_execPgLocate (Kept.refl s) hκ src id epoch
  | pgLocateReply src id pages => exact kept_execPgLocateReply (Kept.refl s) hκ src id pages
  | mzquery core => exact kept_execMzquery (Kept.refl s) hκ core
  | mzwrite core => exact kept_execMzwrite (Kept.refl s) hκ core
  | mztQuery src m => exact kept_execMztQuery (Kept.refl s) hκ src m
  | mztQueryDone => exact kept_execMztQueryDone (Kept.refl s) hκ
  | mztKvWrite src m => exact kept_execMztKvWrite (Kept.refl s) hκ src m
  | mztKvAck src m => exact kept_execMztKvAck (Kept.refl s) hκ src m
  | mztPartial src m => exact kept_execMztPartial (Kept.refl s) hκ src m
  | mztBusyRetryExpiry tag => exact kept_execMztBusyRetryExpiry (Kept.refl s) hκ tag
  | mztPartialTimeout tag => exact kept_execMztPartialTimeout (Kept.refl s) hκ tag
  | mztCtrlWrite value => exact kept_execMztCtrlWrite (Kept.refl s) hκ value
  | mztCoresWrite hi value => exact kept_execMztCoresWrite (Kept.refl s) hκ hi value
  | mztConfigWrite addr value => exact kept_execMztConfigWrite (Kept.refl s) hκ addr value
  | instrNop core => exact kept_execInstrNop (Kept.refl s) hκ core
  | mma core => exact kept_execMma (Kept.refl s) hκ core
  | mmx core => exact kept_execMmx (Kept.refl s) hκ core
  | mmt core => exact kept_execMmt (Kept.refl s) hκ core
  | vbin core => exact kept_execVbin (Kept.refl s) hκ core
  | vbins core => exact kept_execVbins (Kept.refl s) hκ core
  | vfma core => exact kept_execVfma (Kept.refl s) hκ core
  | vun core => exact kept_execVun (Kept.refl s) hκ core
  | vred core => exact kept_execVred (Kept.refl s) hκ core
  | vsoftmax core => exact kept_execVsoftmax (Kept.refl s) hκ core
  | vnorm core => exact kept_execVnorm (Kept.refl s) hκ core
  | vrope core => exact kept_execVrope (Kept.refl s) hκ core
  | vcvt core => exact kept_execVcvt (Kept.refl s) hκ core
  | vmerge core => exact kept_execVmerge (Kept.refl s) hκ core
  | sample core => exact kept_execSample (Kept.refl s) hκ core
  | sverify core => exact kept_execSverify (Kept.refl s) hκ core
  | scommit core => exact kept_execScommit (Kept.refl s) hκ core
  | slogprob core => exact kept_execSlogprob (Kept.refl s) hκ core
  | oadam core => exact kept_execOadam (Kept.refl s) hκ core
  | osgd core => exact kept_execOsgd (Kept.refl s) hκ core
  | instrLoad core => exact kept_execInstrLoad (Kept.refl s) hκ core
  | instrStore core => exact kept_execInstrStore (Kept.refl s) hκ core
  | instrWait core => exact kept_execInstrWait (Kept.refl s) hκ core
  | instrSignal core => exact kept_execInstrSignal (Kept.refl s) hκ core
  | instrArrive core => exact kept_execInstrArrive (Kept.refl s) hκ core
  | fence core => exact kept_execFence (Kept.refl s) hκ core
  | end_ core => exact kept_execEnd (Kept.refl s) hκ core
  | tileOpBoundary core => exact kept_execTileOpBoundary (Kept.refl s) hκ core
  | rngReseed core => exact kept_execRngReseed (Kept.refl s) hκ core
  | tableLoad id => exact kept_execTableLoad (Kept.refl s) hκ id
  | tableInvalidateDone => exact kept_execTableInvalidateDone (Kept.refl s) hκ
  | tableDrop id => exact kept_execTableDrop (Kept.refl s) hκ id
  | dsetLoad slot => exact kept_execDsetLoad (Kept.refl s) hκ slot
  | dsetLoadReadDone => exact kept_execDsetLoadReadDone (Kept.refl s) hκ
  | dsetDrop slot => exact kept_execDsetDrop (Kept.refl s) hκ slot
  | bindTable ctx id => exact kept_execBindTable (Kept.refl s) hκ ctx id
  | bindDset ctx slot => exact kept_execBindDset (Kept.refl s) hκ ctx slot
  | expCmdAddrWrite value => exact kept_execExpCmdAddrWrite (Kept.refl s) hκ value
  | ctxOpen c => exact kept_execCtxOpen (Kept.refl s) hκ c
  | ctxLoadingDone c => exact kept_execCtxLoadingDone (Kept.refl s) hκ c
  | ctxStart c => exact kept_execCtxStart (Kept.refl s) hκ c
  | ctxClose c => exact kept_execCtxClose (Kept.refl s) hκ c
  | ctxAbort c => exact kept_execCtxAbort (Kept.refl s) hκ c
  | ctxDrained c => exact kept_execCtxDrained (Kept.refl s) hκ c
  | ctxTeardownDone c => exact kept_execCtxTeardownDone (Kept.refl s) hκ c
  | batchDispatch c group => exact kept_execBatchDispatch (Kept.refl s) hκ c group
  | batchEnd c group => exact kept_execBatchEnd (Kept.refl s) hκ c group
  | batchHoldExpiry c => exact kept_execBatchHoldExpiry (Kept.refl s) hκ c
  | refuseHoldExpiry node => exact kept_execRefuseHoldExpiry (Kept.refl s) hκ node
  | jobAbort src job => exact kept_execJobAbort (Kept.refl s) hκ src job
  | shardDispatch c group => exact kept_execShardDispatch (Kept.refl s) hκ c group
  | backupStart c shard group => exact kept_execBackupStart (Kept.refl s) hκ c shard group
  | shardWin c shard copy => exact kept_execShardWin (Kept.refl s) hκ c shard copy
  | schCompWrite addr value => exact kept_execSchCompWrite (Kept.refl s) hκ addr value
  | compMeterTick => exact kept_execCompMeterTick (Kept.refl s) hκ
  | schQueueWrite q value => exact kept_execSchQueueWrite (Kept.refl s) hκ q value
  | schCtrlWrite value => exact kept_execSchCtrlWrite (Kept.refl s) hκ value
  | phaseTurn p value => exact kept_execPhaseTurn (Kept.refl s) hκ p value
  | phsTurnWrite value => exact kept_execPhsTurnWrite (Kept.refl s) hκ value
  | turnFinishExpiry => exact kept_execTurnFinishExpiry (Kept.refl s) hκ
  | turnParkingDone => exact kept_execTurnParkingDone (Kept.refl s) hκ
  | turnQuiesceDone => exact kept_execTurnQuiesceDone (Kept.refl s) hκ
  | turnCheckDone => exact kept_execTurnCheckDone (Kept.refl s) hκ
  | holderQuietExpiry => exact kept_execHolderQuietExpiry (Kept.refl s) hκ
  | turnDrainLimitExpiry => exact kept_execTurnDrainLimitExpiry (Kept.refl s) hκ
  | phsCtrlWrite value => exact kept_execPhsCtrlWrite (Kept.refl s) hκ value
  | phsPolicyWrite value => exact kept_execPhsPolicyWrite (Kept.refl s) hκ value
  | phsFloorWrite value => exact kept_execPhsFloorWrite (Kept.refl s) hκ value
  | fabPortCfgWrite port value => exact kept_execFabPortCfgWrite (Kept.refl s) hκ port value
  | linkTrained link => exact kept_execLinkTrained (Kept.refl s) hκ link
  | laneTrainFail port => exact kept_execLaneTrainFail (Kept.refl s) hκ port
  | hello link f => exact kept_execHello (Kept.refl s) hκ link f
  | helloSendTimer link => exact kept_execHelloSendTimer (Kept.refl s) hκ link
  | helloLossTimeout link => exact kept_execHelloLossTimeout (Kept.refl s) hκ link
  | linkDownRetrainExpiry link => exact kept_execLinkDownRetrainExpiry (Kept.refl s) hκ link
  | linkFailedRecheck link h => exact kept_execLinkFailedRecheck (Kept.refl s) hκ link h
  | linkDrained link => exact kept_execLinkDrained (Kept.refl s) hκ link
  | dataFrameReceive link hop f => exact kept_execDataFrameReceive (Kept.refl s) hκ link hop f
  | lnack link hop => exact kept_execLnack (Kept.refl s) hκ link hop
  | lack link hop credits => exact kept_execLack (Kept.refl s) hκ link hop credits
  | linkReplayExpiry link => exact kept_execLinkReplayExpiry (Kept.refl s) hκ link
  | linkTimeoutExpiry link => exact kept_execLinkTimeoutExpiry (Kept.refl s) hκ link
  | orderedFrameAccept f => exact kept_execOrderedFrameAccept (Kept.refl s) hκ f
  | oack f => exact kept_execOack (Kept.refl s) hκ f
  | oretxExpiry dst => exact kept_execOretxExpiry (Kept.refl s) hκ dst
  | probeExpiry dst => exact kept_execProbeExpiry (Kept.refl s) hκ dst
  | signalFrame f => exact kept_execSignalFrame (Kept.refl s) hκ f
  | coverHoldExpiry src => exact kept_execCoverHoldExpiry (Kept.refl s) hκ src
  | loadFrame f => exact kept_execLoadFrame (Kept.refl s) hκ f
  | storeFrame f => exact kept_execStoreFrame (Kept.refl s) hκ f
  | atomicFrame f => exact kept_execAtomicFrame (Kept.refl s) hκ f
  | remoteResponse f => exact kept_execRemoteResponse (Kept.refl s) hκ f
  | remoteTimeoutExpiry what => exact kept_execRemoteTimeoutExpiry (Kept.refl s) hκ what
  | fabAssignNumber number => exact kept_execFabAssignNumber (Kept.refl s) hκ number
  | fabAssignRelease => exact kept_execFabAssignRelease (Kept.refl s) hκ
  | mgmtFrame f => exact kept_execMgmtFrame (Kept.refl s) hκ f
  | mgmtResp f => exact kept_execMgmtResp (Kept.refl s) hκ f
  | fabricNotice src e => exact kept_execFabricNotice (Kept.refl s) hκ src e
  | fabRtEntryWrite value => exact kept_execFabRtEntryWrite (Kept.refl s) hκ value
  | fabRegionBaseWrite value => exact kept_execFabRegionBaseWrite (Kept.refl s) hκ value
  | regionRegister region => exact kept_execRegionRegister (Kept.refl s) hκ region
  | regionRevoke region => exact kept_execRegionRevoke (Kept.refl s) hκ region
  | regionRead region => exact kept_execRegionRead (Kept.refl s) hκ region
  | revokeComplete => exact kept_execRevokeComplete (Kept.refl s) hκ
  | sprayNak f => exact kept_execSprayNak (Kept.refl s) hκ f
  | engineNak f => exact kept_execEngineNak (Kept.refl s) hκ f
  | engineNakRetryExpiry dst => exact kept_execEngineNakRetryExpiry (Kept.refl s) hκ dst
  | fabPeerWrite k value => exact kept_execFabPeerWrite (Kept.refl s) hκ k value
  | fabCtrlWrite value => exact kept_execFabCtrlWrite (Kept.refl s) hκ value
  | fabTimeoutWrite value => exact kept_execFabTimeoutWrite (Kept.refl s) hκ value
  | rekeyStart link => exact kept_execRekeyStart (Kept.refl s) hκ link
  | rekeyHello link f => exact kept_execRekeyHello (Kept.refl s) hκ link f
  | xfrQDWrite q value => exact kept_execXfrQDWrite (Kept.refl s) hκ q value
  | xfrQueueCfgWrite addr value => exact kept_execXfrQueueCfgWrite (Kept.refl s) hκ addr value
  | xfrWrite q => exact kept_execXfrWrite (Kept.refl s) hκ q
  | xfrRead q => exact kept_execXfrRead (Kept.refl s) hκ q
  | xfrAtomic q => exact kept_execXfrAtomic (Kept.refl s) hκ q
  | xfrSignal q => exact kept_execXfrSignal (Kept.refl s) hκ q
  | xfrCopy q => exact kept_execXfrCopy (Kept.refl s) hκ q
  | xfrCopyDone q idx => exact kept_execXfrCopyDone (Kept.refl s) hκ q idx
  | xfrNop q => exact kept_execXfrNop (Kept.refl s) hκ q
  | umberWrite q => exact kept_execUmberWrite (Kept.refl s) hκ q
  | umberRead q => exact kept_execUmberRead (Kept.refl s) hκ q
  | xfrReduce q => exact kept_execXfrReduce (Kept.refl s) hκ q
  | msgOpen src m => exact kept_execMsgOpen (Kept.refl s) hκ src m
  | writePacket f => exact kept_execWritePacket (Kept.refl s) hκ f
  | msgDone src first count status => exact kept_execMsgDone (Kept.refl s) hκ src first count status
  | msgTimeoutExpiry q idx => exact kept_execMsgTimeoutExpiry (Kept.refl s) hκ q idx
  | msgAbort src m => exact kept_execMsgAbort (Kept.refl s) hκ src m
  | readFrame f => exact kept_execReadFrame (Kept.refl s) hκ f
  | readData f => exact kept_execReadData (Kept.refl s) hκ f
  | tagQuietExpiry tag => exact kept_execTagQuietExpiry (Kept.refl s) hκ tag
  | reducePacket f => exact kept_execReducePacket (Kept.refl s) hκ f
  | reduceDownPacket f => exact kept_execReduceDownPacket (Kept.refl s) hκ f
  | collTimeoutExpiry group chunk => exact kept_execCollTimeoutExpiry (Kept.refl s) hκ group chunk
  | xfrMsgBaseWrite value => exact kept_execXfrMsgBaseWrite (Kept.refl s) hκ value
  | xfrGroupWrite addr value => exact kept_execXfrGroupWrite (Kept.refl s) hκ addr value
  | xfrCfgWrite value => exact kept_execXfrCfgWrite (Kept.refl s) hκ value
  | synCtrDataWrite value => exact kept_execSynCtrDataWrite (Kept.refl s) hκ value
  | barrierConfigure bar => exact kept_execBarrierConfigure (Kept.refl s) hκ bar
  | barrierFree bar => exact kept_execBarrierFree (Kept.refl s) hκ bar
  | arriveAtBarrier f => exact kept_execArriveAtBarrier (Kept.refl s) hκ f
  | releaseAck src bar round => exact kept_execReleaseAck (Kept.refl s) hκ src bar round
  | barrierRelease src bar round => exact kept_execBarrierRelease (Kept.refl s) hκ src bar round
  | barrierAbort src bar round status => exact kept_execBarrierAbort (Kept.refl s) hκ src bar round status
  | waitLimitExpiry core => exact kept_execWaitLimitExpiry (Kept.refl s) hκ core
  | waitGateExpiry core => exact kept_execWaitGateExpiry (Kept.refl s) hκ core
  | prayrNop p data => exact kept_execPrayrNop (Kept.refl s) hκ p data
  | caps p => exact kept_execCaps (Kept.refl s) hκ p
  | submit p b tokens => exact kept_execSubmit (Kept.refl s) hκ p b tokens
  | submitPromptReadDone ref status tokens => exact kept_execSubmitPromptReadDone (Kept.refl s) hκ ref status tokens
  | cancel p id => exact kept_execCancel (Kept.refl s) hκ p id
  | pause p id ticks => exact kept_execPause (Kept.refl s) hκ p id ticks
  | resume p b tokens => exact kept_execResume (Kept.refl s) hκ p b tokens
  | queryReq p id => exact kept_execQueryReq (Kept.refl s) hκ p id
  | tokenAck p id epoch next => exact kept_execTokenAck (Kept.refl s) hκ p id epoch next
  | setTtl p id ticks => exact kept_execSetTtl (Kept.refl s) hκ p id ticks
  | move p id dest => exact kept_execMove (Kept.refl s) hκ p id dest
  | csrRead p node addr count => exact kept_execCsrRead (Kept.refl s) hκ p node addr count
  | csrWrite p node addr values => exact kept_execCsrWrite (Kept.refl s) hκ p node addr values
  | eventPull p cursor max => exact kept_execEventPull (Kept.refl s) hκ p cursor max
  | resetWarm p => exact kept_execResetWarm (Kept.refl s) hκ p
  | resetCompute p => exact kept_execResetCompute (Kept.refl s) hκ p
  | resetComputeScrub p => exact kept_execResetComputeScrub (Kept.refl s) hκ p
  | qpSetup p c => exact kept_execQpSetup (Kept.refl s) hκ p c
  | qpDestroy p qp => exact kept_execQpDestroy (Kept.refl s) hκ p qp
  | prayrBadOpcode p opcode => exact kept_execPrayrBadOpcode (Kept.refl s) hκ p opcode
  | hostPacketDrop => exact kept_execHostPacketDrop (Kept.refl s) hκ
  | hostArp target asker => exact kept_execHostArp (Kept.refl s) hκ target asker
  | hostNeighbourSolicit target asker => exact kept_execHostNeighbourSolicit (Kept.refl s) hκ target asker
  | hostIcmpEcho target asker data => exact kept_execHostIcmpEcho (Kept.refl s) hκ target asker data
  | replyCacheExpiry key => exact kept_execReplyCacheExpiry (Kept.refl s) hκ key
  | tokenTransmit => exact kept_execTokenTransmit (Kept.refl s) hκ
  | tokenRetxExpiry id => exact kept_execTokenRetxExpiry (Kept.refl s) hκ id
  | hostRdmaWrite h rkey va data => exact kept_execHostRdmaWrite (Kept.refl s) hκ h rkey va data
  | hostRdmaRead h rkey va len => exact kept_execHostRdmaRead (Kept.refl s) hκ h rkey va len
  | roceCompletion qp e => exact kept_execRoceCompletion (Kept.refl s) hκ qp e
  | roceAckTimeout qp => exact kept_execRoceAckTimeout (Kept.refl s) hκ qp
  | roceNak qp syndrome => exact kept_execRoceNak (Kept.refl s) hκ qp syndrome
  | roceCnp qp => exact kept_execRoceCnp (Kept.refl s) hκ qp
  | roceRateRecovery qp => exact kept_execRoceRateRecovery (Kept.refl s) hκ qp
  | hcpWindowWrite addr value => exact kept_execHcpWindowWrite (Kept.refl s) hκ addr value
  | windowCloseDone window => exact kept_execWindowCloseDone (Kept.refl s) hκ window
  | hostPortUp => exact kept_execHostPortUp (Kept.refl s) hκ
  | hostPortDown => exact kept_execHostPortDown (Kept.refl s) hκ
  | hcpRegWrite addr value => exact kept_execHcpRegWrite (Kept.refl s) hκ addr value
  | trfMeterWrite addr value => exact kept_execTrfMeterWrite (Kept.refl s) hκ addr value
  | shaperWrite addr value => exact kept_execShaperWrite (Kept.refl s) hκ addr value
  | i3cPrivateWrite data => exact kept_execI3cPrivateWrite (Kept.refl s) hκ data
  | i3cPrivateRead count => exact kept_execI3cPrivateRead (Kept.refl s) hκ count
  | i3cEntdaa addr => exact kept_execI3cEntdaa (Kept.refl s) hκ addr
  | i3cSnapshotRefresh => exact kept_execI3cSnapshotRefresh (Kept.refl s) hκ
  | coldStart pin => exact kept_execColdStart (Kept.refl s) hκ pin
  | watchdogExpiry => exact kept_execWatchdogExpiry (Kept.refl s) hκ
  | bootStageDone status findings badImages => exact kept_execBootStageDone (Kept.refl s) hκ status findings badImages
  | tileServiceOffline p tile => exact kept_execTileServiceOffline (Kept.refl s) hκ p tile
  | tileServiceOnline p tile => exact kept_execTileServiceOnline (Kept.refl s) hκ p tile
  | tileOnlineTestDone tile findings => exact kept_execTileOnlineTestDone (Kept.refl s) hκ tile findings
  | channelRetire p stack channel => exact kept_execChannelRetire (Kept.refl s) hκ p stack channel
  | channelCopyStart => exact kept_execChannelCopyStart (Kept.refl s) hκ
  | channelCopyDone => exact kept_execChannelCopyDone (Kept.refl s) hκ
  | imgActivate p subsystem slotB => exact kept_execImgActivate (Kept.refl s) hκ p subsystem slotB
  | imgStatus p => exact kept_execImgStatus (Kept.refl s) hκ p
  | imageHealthExpiry subsystem => exact kept_execImageHealthExpiry (Kept.refl s) hκ subsystem
  | bcastOpen p o manifest children peers => exact kept_execBcastOpen (Kept.refl s) hκ p o manifest children peers
  | bcastSend p session => exact kept_execBcastSend (Kept.refl s) hκ p session
  | bcastStatus p session => exact kept_execBcastStatus (Kept.refl s) hκ p session
  | bcastClose p session => exact kept_execBcastClose (Kept.refl s) hκ p session
  | bcastPacket f => exact kept_execBcastPacket (Kept.refl s) hκ f
  | bcastEnd src session chunks => exact kept_execBcastEnd (Kept.refl s) hκ src session chunks
  | repairReq src session first count => exact kept_execRepairReq (Kept.refl s) hκ src session first count
  | repairNak src session first count => exact kept_execRepairNak (Kept.refl s) hκ src session first count
  | statusQuery src session => exact kept_execStatusQuery (Kept.refl s) hκ src session
  | statusReply src session held complete => exact kept_execStatusReply (Kept.refl s) hκ src session held complete
  | repairWaitExpiry session => exact kept_execRepairWaitExpiry (Kept.refl s) hκ session
  | imageHashDone session => exact kept_execImageHashDone (Kept.refl s) hκ session
  | imageSlotWriteDone session => exact kept_execImageSlotWriteDone (Kept.refl s) hκ session
  | licInstall p data => exact kept_execLicInstall (Kept.refl s) hκ p data
  | licList p => exact kept_execLicList (Kept.refl s) hκ p
  | licRemove p serial => exact kept_execLicRemove (Kept.refl s) hκ p serial
  | licenceTickRecord => exact kept_execLicenceTickRecord (Kept.refl s) hκ
  | licenceLapse serial => exact kept_execLicenceLapse (Kept.refl s) hκ serial
  | defectRead p first count => exact kept_execDefectRead (Kept.refl s) hκ p first count
  | defectClear p => exact kept_execDefectClear (Kept.refl s) hκ p
  | attest p nonce => exact kept_execAttest (Kept.refl s) hκ p nonce
  | certRead p index => exact kept_execCertRead (Kept.refl s) hκ p index
  | approvalOpen p opcode digest => exact kept_execApprovalOpen (Kept.refl s) hκ p opcode digest
  | approve p slot set signature => exact kept_execApprove (Kept.refl s) hκ p slot set signature
  | approverEnrolAdd p slot modulus => exact kept_execApproverEnrolAdd (Kept.refl s) hκ p slot modulus
  | approverEnrolRemove p slot => exact kept_execApproverEnrolRemove (Kept.refl s) hκ p slot
  | policySet p value rekey => exact kept_execPolicySet (Kept.refl s) hκ p value rekey
  | hostSet p entry a b c d => exact kept_execHostSet (Kept.refl s) hκ p entry a b c d
  | debugUnlock p value => exact kept_execDebugUnlock (Kept.refl s) hκ p value
  | debugRelock p value => exact kept_execDebugRelock (Kept.refl s) hκ p value
  | debugDurationExpiry => exact kept_execDebugDurationExpiry (Kept.refl s) hκ
  | approvalDeadlineExpiry set => exact kept_execApprovalDeadlineExpiry (Kept.refl s) hκ set
  | inputWarnCross mv => exact kept_execInputWarnCross (Kept.refl s) hκ mv
  | inputRecoveryDone => exact kept_execInputRecoveryDone (Kept.refl s) hκ
  | inputUndervoltage => exact kept_execInputUndervoltage (Kept.refl s) hκ
  | inputOvervoltage => exact kept_execInputOvervoltage (Kept.refl s) hκ
  | aonInputLoss => exact kept_execAonInputLoss (Kept.refl s) hκ
  | railWarnCross rail mv => exact kept_execRailWarnCross (Kept.refl s) hκ rail mv
  | railClearDone rail => exact kept_execRailClearDone (Kept.refl s) hκ rail
  | railResetCross rail mv => exact kept_execRailResetCross (Kept.refl s) hκ rail mv
  | railHoldDone => exact kept_execRailHoldDone (Kept.refl s) hκ
  | thermalSample temps => exact kept_execThermalSample (Kept.refl s) hκ temps
  | powerWindowExpiry watts => exact kept_execPowerWindowExpiry (Kept.refl s) hκ watts
  | pcrPowerLimitWrite value => exact kept_execPcrPowerLimitWrite (Kept.refl s) hκ value
  | pcrGateCfgWrite value => exact kept_execPcrGateCfgWrite (Kept.refl s) hκ value
  | refclk25Loss => exact kept_execRefclk25Loss (Kept.refl s) hκ
  | refclk156Loss => exact kept_execRefclk156Loss (Kept.refl s) hκ
  | coreIdleExpiry core => exact kept_execCoreIdleExpiry (Kept.refl s) hκ core
  | tileIdleExpiry tile => exact kept_execTileIdleExpiry (Kept.refl s) hκ tile
  | coreWakeDone core => exact kept_execCoreWakeDone (Kept.refl s) hκ core
  | hbmPowerdownIdle stack channel => exact kept_execHbmPowerdownIdle (Kept.refl s) hκ stack channel
  | jtagIdcode => exact kept_execJtagIdcode (Kept.refl s) hκ
  | jtagBypass => exact kept_execJtagBypass (Kept.refl s) hκ
  | jtagSamplePreload => exact kept_execJtagSamplePreload (Kept.refl s) hκ
  | jtagExtest value => exact kept_execJtagExtest (Kept.refl s) hκ value
  | patrolScrubPass stack channel errors => exact kept_execPatrolScrubPass (Kept.refl s) hκ stack channel errors
  | ceWindowExpiry stack channel => exact kept_execCeWindowExpiry (Kept.refl s) hκ stack channel
  | evtEccCfgWrite value => exact kept_execEvtEccCfgWrite (Kept.refl s) hκ value
  | refclk156Restored => exact kept_execRefclk156Restored (Kept.refl s) hκ
  | portLockLoss link => exact kept_execPortLockLoss (Kept.refl s) hκ link
  | standaloneOackExpiry src => exact kept_execStandaloneOackExpiry (Kept.refl s) hκ src
  | rekeyDeadline link => exact kept_execRekeyDeadline (Kept.refl s) hκ link
  | resumePromptReadDone ref status tokens => exact kept_execResumePromptReadDone (Kept.refl s) hκ ref status tokens
  | shaperRelease k => exact kept_execShaperRelease (Kept.refl s) hκ k
  | imageHealthy subsystem => exact kept_execImageHealthy (Kept.refl s) hκ subsystem
  | inputRecoveryRestart mv => exact kept_execInputRecoveryRestart (Kept.refl s) hκ mv
  | railClearRestart rail mv => exact kept_execRailClearRestart (Kept.refl s) hκ rail mv
  | debugScopeAccess scan => exact kept_execDebugScopeAccess (Kept.refl s) hκ scan

end Sys2Proof.Machine
end

