-- ==== Sys2Proof/Laws/LinkRx.lean ====
section
/-! SUPPORT. What the counting of a received frame leaves as it was, and when a link-control frame is taken. -/

namespace Sys2Proof.Machine

variable (s : State)

theorem reg_count_ne {f g : Fld} (h : g.key ≠ f.key) (n : Nat) : (s.count f n).reg g = s.reg g := by
  unfold State.count
  split
  · exact reg_setReg_ne h s _
  · exact reg_setReg_ne h s _

theorem reg_bump_ne {f g : Fld} (h : g.key ≠ f.key) : (s.bump f).reg g = s.reg g := reg_count_ne s h 1

theorem count_fab (f : Fld) (n : Nat) : (s.count f n).fab = s.fab := by unfold State.count; split <;> rfl
theorem count_bld (f : Fld) (n : Nat) : (s.count f n).bld = s.bld := by unfold State.count; split <;> rfl
theorem count_sec (f : Fld) (n : Nat) : (s.count f n).sec = s.sec := by unfold State.count; split <;> rfl

/-- Of the registers a received frame changes the two counters of its port. -/
theorem reg_countRx_ne {g : Fld} {p : Nat} (h : g.key ≠ (R.FAB_PORT_RX_BYTES p).key)
    (h' : g.key ≠ (R.FAB_PORT_ERR_FEC_CORRECTED p).key) (n : Nat) : (s.countRx p n).reg g = s.reg g :=
  (reg_count_ne _ h' _).trans (reg_count_ne s h n)

theorem countRx_fab (p n : Nat) : (s.countRx p n).fab = s.fab := (count_fab _ _ _).trans (count_fab s _ n)
theorem countRx_bld (p n : Nat) : (s.countRx p n).bld = s.bld := (count_bld _ _ _).trans (count_bld s _ n)
theorem countRx_sec (p n : Nat) : (s.countRx p n).sec = s.sec := (count_sec _ _ _).trans (count_sec s _ n)

/-- What makes the link layer take a link-control frame (R234). -/
theorem controlIn_taken (l : Link) (hop : HopPart) (type : Nat) (h : hop.fcsOk = true)
    (h1 : (s.countRx (s.linkPort l.id) hop.length).layoutOk l.id hop (s.countRx (s.linkPort l.id) hop.length).linkLocalMac = true)
    (h2 : hop.proto = (s.countRx (s.linkPort l.id) hop.length).controlProto l) (h3 : hop.kind = 1) (h4 : hop.type = type) :
    s.controlIn l hop type = (true, s.countRx (s.linkPort l.id) hop.length) := by
  simp [State.controlIn, h, h1, h2, h3, h4]

/-- One of another TYPE is dropped and counted (R235). -/
theorem controlIn_type (l : Link) (hop : HopPart) (type : Nat) (h : hop.fcsOk = true)
    (h1 : (s.countRx (s.linkPort l.id) hop.length).layoutOk l.id hop (s.countRx (s.linkPort l.id) hop.length).linkLocalMac = true)
    (h2 : hop.type ≠ type) : s.controlIn l hop type
      = (false, (s.countRx (s.linkPort l.id) hop.length).bump (R.FAB_DIE_STATS_UNKNOWN_DROPS (s.linkPort l.id / 4))) := by
  simp [State.controlIn, h, h1, h2]

end Sys2Proof.Machine
end

