-- ==== Sys2Proof/Laws/Views.lean ====
section
/-! SUPPORT. What a taken message or frame leaves as it was, and what a list kept by key answers after an update. -/

namespace Sys2Proof.Machine

variable (s : State)

/-! ### takeMsg -/

@[simp] theorem takeMsg_small (src : Nat) (m : Msg) : (s.takeMsg src m).small = s.small := rfl
@[simp] theorem takeMsg_aon (src : Nat) (m : Msg) : (s.takeMsg src m).aon = s.aon := rfl
@[simp] theorem takeMsg_regs (src : Nat) (m : Msg) : (s.takeMsg src m).regs = s.regs := rfl
@[simp] theorem takeMsg_hbm (src : Nat) (m : Msg) : (s.takeMsg src m).hbm = s.hbm := rfl
@[simp] theorem takeMsg_tileBuf (src : Nat) (m : Msg) : (s.takeMsg src m).tileBuf = s.tileBuf := rfl
@[simp] theorem takeMsg_opBuf (src : Nat) (m : Msg) : (s.takeMsg src m).opBuf = s.opBuf := rfl
@[simp] theorem takeMsg_recBuf (src : Nat) (m : Msg) : (s.takeMsg src m).recBuf = s.recBuf := rfl
@[simp] theorem takeMsg_hbmPoison (src : Nat) (m : Msg) : (s.takeMsg src m).hbmPoison = s.hbmPoison := rfl
@[simp] theorem takeMsg_tilePoison (src : Nat) (m : Msg) : (s.takeMsg src m).tilePoison = s.tilePoison := rfl
@[simp] theorem takeMsg_opPoison (src : Nat) (m : Msg) : (s.takeMsg src m).opPoison = s.opPoison := rfl
@[simp] theorem takeMsg_rse (src : Nat) (m : Msg) : (s.takeMsg src m).rse = s.rse := rfl
@[simp] theorem takeMsg_pge (src : Nat) (m : Msg) : (s.takeMsg src m).pge = s.pge := rfl
@[simp] theorem takeMsg_mzt (src : Nat) (m : Msg) : (s.takeMsg src m).mzt = s.mzt := rfl
@[simp] theorem takeMsg_cores (src : Nat) (m : Msg) : (s.takeMsg src m).cores = s.cores := rfl
@[simp] theorem takeMsg_exp (src : Nat) (m : Msg) : (s.takeMsg src m).exp = s.exp := rfl
@[simp] theorem takeMsg_sch (src : Nat) (m : Msg) : (s.takeMsg src m).sch = s.sch := rfl
@[simp] theorem takeMsg_phs (src : Nat) (m : Msg) : (s.takeMsg src m).phs = s.phs := rfl
@[simp] theorem takeMsg_xfr (src : Nat) (m : Msg) : (s.takeMsg src m).xfr = s.xfr := rfl
@[simp] theorem takeMsg_syn (src : Nat) (m : Msg) : (s.takeMsg src m).syn = s.syn := rfl
@[simp] theorem takeMsg_hcp (src : Nat) (m : Msg) : (s.takeMsg src m).hcp = s.hcp := rfl
@[simp] theorem takeMsg_bld (src : Nat) (m : Msg) : (s.takeMsg src m).bld = s.bld := rfl
@[simp] theorem takeMsg_sec (src : Nat) (m : Msg) : (s.takeMsg src m).sec = s.sec := rfl
@[simp] theorem takeMsg_pcr (src : Nat) (m : Msg) : (s.takeMsg src m).pcr = s.pcr := rfl
@[simp] theorem takeMsg_evt (src : Nat) (m : Msg) : (s.takeMsg src m).evt = s.evt := rfl
@[simp] theorem takeMsg_tap (src : Nat) (m : Msg) : (s.takeMsg src m).tap = s.tap := rfl
@[simp] theorem takeMsg_outbox (src : Nat) (m : Msg) : (s.takeMsg src m).outbox = s.outbox := rfl
@[simp] theorem takeMsg_fresh (src : Nat) (m : Msg) : (s.takeMsg src m).fresh = s.fresh := rfl
@[simp] theorem takeMsg_pending (src : Nat) (m : Msg) : (s.takeMsg src m).pending = s.pending := rfl
@[simp] theorem takeMsg_reg (src : Nat) (m : Msg) (g : Fld) : (s.takeMsg src m).reg g = s.reg g := rfl
@[simp] theorem takeMsg_flag (src : Nat) (m : Msg) (g : Fld) : (s.takeMsg src m).flag g = s.flag g := rfl
@[simp] theorem takeMsg_home_opt (src : Nat) (m : Msg) (i : Nat) : (s.takeMsg src m).home? i = s.home? i := rfl
@[simp] theorem takeMsg_work_opt (src : Nat) (m : Msg) (i : Nat) : (s.takeMsg src m).work? i = s.work? i := rfl
@[simp] theorem takeMsg_kvPages (src : Nat) (m : Msg) (i : Nat) : (s.takeMsg src m).kvPages i = s.kvPages i := rfl
@[simp] theorem takeMsg_isHome (src : Nat) (m : Msg) (i : Nat) : (s.takeMsg src m).isHome i = s.isHome i := rfl
@[simp] theorem takeMsg_mirrors (src : Nat) (m : Msg) (i : Nat) : (s.takeMsg src m).mirrors i = s.mirrors i := rfl
@[simp] theorem takeMsg_page_opt (src : Nat) (m : Msg) (i : Nat) : (s.takeMsg src m).page? i = s.page? i := rfl
@[simp] theorem takeMsg_ctx_opt (src : Nat) (m : Msg) (i : Nat) : (s.takeMsg src m).ctx? i = s.ctx? i := rfl
@[simp] theorem takeMsg_node (src : Nat) (m : Msg) : (s.takeMsg src m).node = s.node := rfl
@[simp] theorem takeMsg_tick (src : Nat) (m : Msg) : (s.takeMsg src m).tick = s.tick := rfl
@[simp] theorem takeMsg_tiles (src : Nat) (m : Msg) : (s.takeMsg src m).tiles = s.tiles := rfl
@[simp] theorem takeMsg_ports (src : Nat) (m : Msg) : (s.takeMsg src m).ports = s.ports := rfl
@[simp] theorem takeMsg_ochre (src : Nat) (m : Msg) : (s.takeMsg src m).ochre = s.ochre := rfl

/-! ### takeFrame -/

@[simp] theorem takeFrame_small (f : Frame) : (s.takeFrame f).small = s.small := rfl
@[simp] theorem takeFrame_aon (f : Frame) : (s.takeFrame f).aon = s.aon := rfl
@[simp] theorem takeFrame_regs (f : Frame) : (s.takeFrame f).regs = s.regs := rfl
@[simp] theorem takeFrame_hbm (f : Frame) : (s.takeFrame f).hbm = s.hbm := rfl
@[simp] theorem takeFrame_tileBuf (f : Frame) : (s.takeFrame f).tileBuf = s.tileBuf := rfl
@[simp] theorem takeFrame_opBuf (f : Frame) : (s.takeFrame f).opBuf = s.opBuf := rfl
@[simp] theorem takeFrame_recBuf (f : Frame) : (s.takeFrame f).recBuf = s.recBuf := rfl
@[simp] theorem takeFrame_hbmPoison (f : Frame) : (s.takeFrame f).hbmPoison = s.hbmPoison := rfl
@[simp] theorem takeFrame_tilePoison (f : Frame) : (s.takeFrame f).tilePoison = s.tilePoison := rfl
@[simp] theorem takeFrame_opPoison (f : Frame) : (s.takeFrame f).opPoison = s.opPoison := rfl
@[simp] theorem takeFrame_rse (f : Frame) : (s.takeFrame f).rse = s.rse := rfl
@[simp] theorem takeFrame_pge (f : Frame) : (s.takeFrame f).pge = s.pge := rfl
@[simp] theorem takeFrame_mzt (f : Frame) : (s.takeFrame f).mzt = s.mzt := rfl
@[simp] theorem takeFrame_cores (f : Frame) : (s.takeFrame f).cores = s.cores := rfl
@[simp] theorem takeFrame_exp (f : Frame) : (s.takeFrame f).exp = s.exp := rfl
@[simp] theorem takeFrame_sch (f : Frame) : (s.takeFrame f).sch = s.sch := rfl
@[simp] theorem takeFrame_phs (f : Frame) : (s.takeFrame f).phs = s.phs := rfl
@[simp] theorem takeFrame_xfr (f : Frame) : (s.takeFrame f).xfr = s.xfr := rfl
@[simp] theorem takeFrame_syn (f : Frame) : (s.takeFrame f).syn = s.syn := rfl
@[simp] theorem takeFrame_hcp (f : Frame) : (s.takeFrame f).hcp = s.hcp := rfl
@[simp] theorem takeFrame_bld (f : Frame) : (s.takeFrame f).bld = s.bld := rfl
@[simp] theorem takeFrame_sec (f : Frame) : (s.takeFrame f).sec = s.sec := rfl
@[simp] theorem takeFrame_pcr (f : Frame) : (s.takeFrame f).pcr = s.pcr := rfl
@[simp] theorem takeFrame_evt (f : Frame) : (s.takeFrame f).evt = s.evt := rfl
@[simp] theorem takeFrame_tap (f : Frame) : (s.takeFrame f).tap = s.tap := rfl
@[simp] theorem takeFrame_outbox (f : Frame) : (s.takeFrame f).outbox = s.outbox := rfl
@[simp] theorem takeFrame_fresh (f : Frame) : (s.takeFrame f).fresh = s.fresh := rfl
@[simp] theorem takeFrame_pending (f : Frame) : (s.takeFrame f).pending = s.pending := rfl
@[simp] theorem takeFrame_reg (f : Frame) (g : Fld) : (s.takeFrame f).reg g = s.reg g := rfl
@[simp] theorem takeFrame_flag (f : Frame) (g : Fld) : (s.takeFrame f).flag g = s.flag g := rfl
@[simp] theorem takeFrame_home_opt (f : Frame) (i : Nat) : (s.takeFrame f).home? i = s.home? i := rfl
@[simp] theorem takeFrame_work_opt (f : Frame) (i : Nat) : (s.takeFrame f).work? i = s.work? i := rfl
@[simp] theorem takeFrame_kvPages (f : Frame) (i : Nat) : (s.takeFrame f).kvPages i = s.kvPages i := rfl
@[simp] theorem takeFrame_isHome (f : Frame) (i : Nat) : (s.takeFrame f).isHome i = s.isHome i := rfl
@[simp] theorem takeFrame_mirrors (f : Frame) (i : Nat) : (s.takeFrame f).mirrors i = s.mirrors i := rfl
@[simp] theorem takeFrame_page_opt (f : Frame) (i : Nat) : (s.takeFrame f).page? i = s.page? i := rfl
@[simp] theorem takeFrame_ctx_opt (f : Frame) (i : Nat) : (s.takeFrame f).ctx? i = s.ctx? i := rfl
@[simp] theorem takeFrame_node (f : Frame) : (s.takeFrame f).node = s.node := rfl
@[simp] theorem takeFrame_tick (f : Frame) : (s.takeFrame f).tick = s.tick := rfl
@[simp] theorem takeFrame_tiles (f : Frame) : (s.takeFrame f).tiles = s.tiles := rfl
@[simp] theorem takeFrame_ports (f : Frame) : (s.takeFrame f).ports = s.ports := rfl
@[simp] theorem takeFrame_ochre (f : Frame) : (s.takeFrame f).ochre = s.ochre := rfl

/-! ### Lists kept by key -/

theorem find_upsert_self {α : Type} (p : α → Bool) (x : α) (l : List α) (hx : p x = true) :
    (upsert p x l).find? p = some x := by
  induction l with
  | nil => simp [upsert, hx]
  | cons y l ih =>
    simp only [upsert]
    split
    · simp [hx]
    · simp_all

theorem find_upsert_other {α : Type} (p q : α → Bool) (x : α) (l : List α) (hx : q x = false)
    (hpq : ∀ y, p y = true → q y = false) : (upsert p x l).find? q = l.find? q := by
  induction l with
  | nil => simp [upsert, hx]
  | cons y l ih =>
    simp only [upsert]
    split
    · rename_i hy
      simp [hx, hpq y hy]
    · simp only [List.find?_cons, ih]

@[simp] theorem putWork_work (w : Work) : (s.putWork w).work? w.r.id = some w :=
  find_upsert_self _ w _ (by simp)

@[simp] theorem putHome_home (h : HomeRec) : (s.putHome h).home? h.r.id = some h :=
  find_upsert_self _ h _ (by simp)

end Sys2Proof.Machine
end

