-- ==== Sys2Proof/Machine/Wire.lean ====
section
/-! DEFINITION. Frames and packets as the octets that travel (R5, R234, R323): every multi-byte field has its lowest byte
first; the Ethernet header alone is octet strings, first octet first (Table 9.2). -/

namespace Sys2Proof.Machine

/-- A field of a word: a value's low bits at their place. -/
def fieldAt (v width lo : Nat) : Nat := v % 2 ^ width * 2 ^ lo

/-- Words of 64 bits as octets. -/
def words (ws : List Nat) : List Byte := ws.flatMap (toBytes 8)

/-! ### Fabric frames (Tables 9.2 to 9.5) -/

/-- The Ethernet header's octets (Table 9.2). -/
def Eth.octets (e : Eth) : List Byte :=
  beBytes 6 e.da ++ beBytes 6 e.sa ++ (match e.tag with
    | some t => beBytes 2 0x8100 ++ beBytes 2 t
    | none => []) ++ beBytes 2 e.etherType

/-- The hop part (Table 9.3, 0x00). -/
def Hop.word (h : Hop) : Nat :=
  fieldAt h.proto 4 60 + fieldAt h.kind 2 58 + fieldAt (bit h.encrypted) 1 57 + fieldAt h.lseq 12 44 + fieldAt h.lack 12 32
    + fieldAt (bit h.transitOnly) 2 30 + fieldAt h.creditClass 2 28 + fieldAt h.credits 12 16

/-- The route part (Table 9.3, 0x08). -/
def Frame.routeWord (f : Frame) : Nat :=
  fieldAt f.dst 16 48 + fieldAt f.src 16 32 + fieldAt f.body.cls.code 2 30 + fieldAt f.hops 6 24 + fieldAt (bit f.detour) 1 23
    + fieldAt (bit f.sync) 1 22 + fieldAt f.incarnation 8 14 + fieldAt (bit f.dev) 1 13 + fieldAt (bit f.poison) 1 12
    + f.body.type

/-- The ENGINE value of an engine (section 9.2). -/
def Engine.code : Engine → Nat
  | .rse => 1 | .pge => 2 | .mzt => 3 | .sync => 4 | .burin => 5 | .transfer => 6 | .boot => 7 | .fabric => 8

/-- REGION, LEN − 1 and KEY (Table 9.5, 0x20). -/
def keyWord (region len key : Nat) : Nat := fieldAt region 20 44 + fieldAt (len - 1) 12 32 + fieldAt key 32 0

/-- TAG, AOP and the field below them (Table 9.5, 0x28, ordered class). -/
def tagWord (tag aop low : Nat) : Nat := fieldAt tag 20 44 + fieldAt aop 4 40 + fieldAt low 40 0

/-- The three words 0x18, 0x20 and 0x28 of a frame that names its target. -/
def OpHdr.opWords (h : OpHdr) (aop low : Nat) : List Nat := [h.addr, keyWord h.region h.len h.key, tagWord h.tag aop low]

/-- The three words of a response, with the length of its data. -/
def respWords (tag len : Nat) (st : St) : List Nat := [0, keyWord 0 len 0, tagWord tag 0 st.code]

/-- The words 0x18, 0x20 and 0x28 of the operation part (Table 9.5; R288, R292, R367). What an ENGINE_NAK and a SPRAY_NAK name
has no place of its own in the table (log entry 76). -/
def Body.opWords : Body → List Nat
  | .load h => h.opWords 0 0
  | .loadResp tag st d => respWords tag d.length st
  | .store h _ => h.opWords 0 0
  | .storeResp tag st => respWords tag 0 st
  | .atomic h aop _ _ => h.opWords aop 0
  | .atomicResp tag st _ => respWords tag 0 st
  | .signal h cover _ => h.opWords 0 cover
  | .signalResp tag st => respWords tag 0 st
  | .arrive h cover _ => h.opWords 0 cover
  | .arriveResp tag st => respWords tag 0 st
  | .engine e first last num off len _ =>
    [fieldAt e.code 8 56 + fieldAt (bit first) 1 55 + fieldAt (bit last) 1 54 + fieldAt len 13 32 + fieldAt off 32 0,
     fieldAt num 16 48, 0]
  | .engineNak e num _ st => [fieldAt e.code 8 56, fieldAt num 16 48, tagWord 0 0 st.code]
  | .oack => [0, 0, 0]
  | .sprayNak st region addr msgId => [addr, keyWord region 1 0, tagWord msgId 0 st.code]
  | .read h => h.opWords 0 0
  | .write _ _ addr region key total d => [addr, keyWord region d.length key, fieldAt total 40 24]
  | .readData _ _ addr d => [addr, keyWord 0 d.length 0, fieldAt d.length 40 24]
  | .reduce r => [r.firstElem, keyWord 0 r.data.length 0, fieldAt r.total 40 24]
  | .bcast b => [b.offset, keyWord 0 b.data.length b.crc, fieldAt b.imageLen 40 24]
  | .mgmtRead ctl tag => [0, fieldAt ctl 32 0, fieldAt tag 16 48]
  | .mgmtWrite ctl tag _ => [0, fieldAt ctl 32 0, fieldAt tag 16 48]
  | .mgmtResp tag _ st => [0, 0, fieldAt tag 16 48 + st.code]

/-- MSG_ID and PSN of a sprayed frame. -/
def Body.msgId : Body → Nat × Nat
  | .write id psn .. => (id, psn)
  | .readData id psn .. => (id, psn)
  | .reduce r => (bit r.down * 2 ^ 31 + fieldAt r.group 8 16 + fieldAt r.op 16 0, r.chunk)
  | .bcast b => (fieldAt b.session 16 16, b.psn)
  | _ => (0, 0)

/-- Ports of a path, four bits each, the first lowest (R245). -/
def pathNibbles : List Nat → Nat
  | [] => 0
  | p :: ps => p % 16 + 16 * pathNibbles ps

/-- The operation part's four words. -/
def Frame.opWords (f : Frame) : List Nat :=
  match f.body.cls with
  | .ordered => (fieldAt f.oseq 32 32 + fieldAt f.oack 32 0) :: f.body.opWords
  | .sprayed => (fieldAt f.body.msgId.1 32 32 + fieldAt f.body.msgId.2 16 16) :: f.body.opWords
  | .management =>
    let p := pathNibbles f.path
    (fieldAt (p / 2 ^ 16) 32 32 + fieldAt p 16 16 + fieldAt f.path.length 4 12 + fieldAt f.pathIndex 4 8)
      :: fieldAt (pathNibbles f.ret) 48 16 :: f.body.opWords.drop 1

/-- The octets of an ARRIVE payload (Table 11.2). -/
def ArriveMsg.octets (a : ArriveMsg) : List Byte := toBytes 8 (fieldAt a.ctx 12 23 + fieldAt a.core 7 16 + fieldAt a.round 16 0)

/-- A 16-byte message of the sync engine (Table 11.4). -/
def syncMsg (kind st round bar : Nat) : List Byte :=
  words [fieldAt kind 8 56 + fieldAt st 16 32 + fieldAt round 16 16 + fieldAt bar 12 0, 0]

/-- A 32-byte message of the transfer engines (Table 10.3). -/
def OpenMsg.octets (m : OpenMsg) (kind : Nat) : List Byte :=
  words [fieldAt kind 8 56 + fieldAt m.count 8 48 + fieldAt m.first 32 0, fieldAt m.bytes 40 24,
    fieldAt m.notifyTile 5 59 + fieldAt m.notifyCtr 16 43 + fieldAt (bit m.notifyEn) 1 42, 0]

/-- A 16-byte message of the session engine (Table 13.6). -/
def sessionMsg (kind session first count : Nat) (complete : Bool) : List Byte :=
  words [fieldAt kind 8 56 + fieldAt session 16 32 + fieldAt first 32 0, fieldAt count 32 32 + fieldAt (bit complete) 1 31]

/-- A message's octets, where a table of the spec lays its format out. -/
def Msg.octets? : Msg → Option (List Byte)
  | .mztQuery m => some (m.wire .query)
  | .mztPartial m => some (m.wire .partial_)
  | .mztKvWrite m => some (m.wire .kvWrite)
  | .mztKvAck m => some (m.wire .kvAck)
  | .barRelease b r => some (syncMsg 1 0 r b)
  | .releaseAck b r => some (syncMsg 2 0 r b)
  | .barAbort b r st => some (syncMsg 3 st.code r b)
  | .msgOpen m => some (m.octets 1)
  | .msgDone first count st => some (words [fieldAt 2 8 56 + fieldAt count 8 48 + fieldAt st.code 16 32 + fieldAt first 32 0, 0, 0, 0])
  | .msgAbort m => some (m.octets 3)
  | .bcastEnd s n => some (sessionMsg 1 s 0 n false)
  | .repairReq s f n => some (sessionMsg 2 s f n false)
  | .repairNak s f n => some (sessionMsg 3 s f n false)
  | .statusQuery s => some (sessionMsg 4 s 0 0 false)
  | .statusReply s n c => some (sessionMsg 5 s 0 n c)
  | _ => none

/-- A frame's payload octets; of an ENGINE frame, the segment of a message whose format a table lays out, held on its LAST
frame. -/
def Body.octets : Body → List Byte
  | .loadResp _ _ d => d
  | .store _ d => d
  | .atomic _ _ operand compare => words [operand, compare]
  | .atomicResp _ _ prior => words [prior]
  | .signal _ _ value => words [value]
  | .arrive _ _ a => a.octets
  | .engine _ _ _ _ off len (some m) => ((m.octets?.getD []).drop off).take len
  | .write _ _ _ _ _ _ d => d
  | .readData _ _ _ d => d
  | .reduce r => r.data
  | .bcast b => b.data
  | .mgmtWrite _ _ v => words [v]
  | .mgmtResp _ v _ => words [v]
  | _ => []

/-- A frame on a link that does not encrypt, from DA up to the FCS. -/
def Frame.octets (f : Frame) (e : Eth) (h : Hop) : List Byte :=
  e.octets ++ words (h.word :: f.routeWord :: f.opWords) ++ f.body.octets

/-- The octets of a HELLO payload (Tables 9.7 and 14.6): without a key agreement part bytes 0x00 to 0x1F alone. -/
def Hello.octets (h : Hello) : List Byte :=
  match h.agree with
  | some k => h.signedBytes k ++ toBytes 512 k.identityKey ++ toBytes 512 k.signature ++ k.cert.der
  | none => h.head

/-- A link-control frame, from DA up to the FCS: behind the hop part its TYPE, and a HELLO's payload (Tables 9.2 to 9.4). -/
def LinkControl.octets (c : LinkControl) (e : Eth) (h : Hop) : List Byte :=
  e.octets ++ words [h.word, c.type, 0, 0, 0, 0] ++ (match c with
    | .hello p => p.octets
    | _ => [])

/-! ### Prayr packets (Table 12.1) -/

/-- A Prayr packet: the header with its CHECK, and the payload. -/
def prayrPacket (version kind opcode tenant seq status session : Nat) (payload : List Byte) : List Byte :=
  let head := words [0x5052 * 2 ^ 48 + fieldAt version 8 40 + fieldAt kind 4 36 + fieldAt opcode 8 24 + fieldAt tenant 16 0,
    fieldAt seq 64 0, fieldAt status 16 48 + fieldAt payload.length 32 0] ++ toBytes 4 (session % 2 ^ 32)
  head ++ toBytes 4 (crc32c (head ++ payload)) ++ payload

/-- A reply. -/
def Reply.octets (r : Reply) : List Byte :=
  prayrPacket r.version 1 r.opcode r.tenant r.key.seq r.status.code r.key.session r.payload

/-- A TOKEN payload (Table 12.6). -/
def TokenPkt.payload (t : TokenPkt) : List Byte :=
  words [fieldAt t.stream 32 32 + fieldAt t.pos 32 0, fieldAt t.tokens.length 8 56 + fieldAt t.ending 2 54 + fieldAt t.epoch 32 0,
    fieldAt t.hostTag 64 0] ++ t.tokens.flatMap fun x => toBytes 8 (fieldAt x.2 32 32 + fieldAt x.1 32 0)

/-- The UDP payload of what the host port sends as a Prayr packet, in the version PHS_VERSIONS names where no request carries
one. -/
def HostOut.octets (version : Nat) : HostOut → Option (List Byte)
  | .reply r => some r.octets
  | .token t => some (prayrPacket version 2 0 t.tenant t.id 0 0 t.payload)
  | .notice _ _ id tenant stream code st count epoch tag =>
    some (prayrPacket version 3 0 tenant id 0 0
      (words [fieldAt stream 32 32 + fieldAt code 16 16 + fieldAt st 16 0, fieldAt count 32 32 + fieldAt epoch 32 0, fieldAt tag 64 0]))
  | .event _ _ seq e => some (prayrPacket version 4 0 0 seq 0 0 (EvtEntry.bytes ⟨seq, e⟩))
  | _ => none

/-- The 128 bytes of a SUBMIT block (Table 12.4). -/
def SubmitBlock.octets (b : SubmitBlock) : List Byte :=
  words [fieldAt b.hostTag 64 0, fieldAt b.queue 12 48 + fieldAt b.context 12 32 + fieldAt b.modelId 16 16 + fieldAt b.variantId 16 0,
    fieldAt b.maxNew 32 32 + fieldAt b.stalenessMax 8 24 + fieldAt b.specWindow 5 16 + fieldAt (bit b.coded) 1 3
      + fieldAt (bit b.pauseAtEnd) 1 2 + fieldAt b.promptSrc 2 0,
    fieldAt b.ttl 32 32 + fieldAt b.promptLength 32 0] ++ toBytes 16 b.replyAddr
  ++ words [fieldAt b.replyPort 16 48 + fieldAt b.replyStream 32 0, fieldAt b.temperature 32 32 + fieldAt b.topP 32 0,
    fieldAt b.topK 16 48 + fieldAt b.repeatPenalty 16 32 + fieldAt b.prefixLength 32 0, fieldAt b.prefixKey 64 0]
  ++ (b.stopTokens.take 4).flatMap (toBytes 4)
  ++ words [fieldAt b.promptVa 64 0, fieldAt b.promptRkey 32 32 + fieldAt b.promptQp 24 0, 0, 0]

/-- The 64 bytes of a RESUME block (Table 12.5). -/
def ResumeBlock.octets (b : ResumeBlock) : List Byte :=
  words [fieldAt b.id 64 0, fieldAt b.maxNew 32 32 + fieldAt b.promptSrc 2 0, fieldAt b.ttl 32 32 + fieldAt b.promptLength 32 0,
    fieldAt b.replyStream 32 32, fieldAt b.promptVa 64 0, fieldAt b.promptRkey 32 32 + fieldAt b.promptQp 24 0, 0, 0]

/-- The 32 bytes of a QP_SETUP payload (Table 12.7). -/
def QpCfg.octets (c : QpCfg) : List Byte :=
  words [fieldAt c.index 14 36 + fieldAt c.mtu 2 34 + fieldAt c.timeout 5 29 + fieldAt c.retry 3 26 + fieldAt c.remoteQpn 24 0,
    fieldAt c.sqPsn 24 40 + fieldAt c.rqPsn 24 16 + fieldAt c.dscp 6 10 + fieldAt c.maxReads 5 5] ++ toBytes 16 c.remoteAddr

end Sys2Proof.Machine
end

