-- ==== Sys2Proof/WellFormed.lean ====
section
/-! DEFINITION. Which commands are well formed: every number is within the field or the range the spec gives it. -/

namespace Sys2Proof

open Sys2Proof.Machine

/-- How a packet reaches the port is within the widths of its headers. -/
def Machine.NetHdr.wellFormed (n : NetHdr) : Bool :=
  decide (n.dst < 2 ^ 128) && (n.udpPort.all fun u => decide (u < 65536)) && (n.vlan.all fun v => decide (v < 4096))

/-- A packet's fields are those its octets give (Table 12.1). -/
def Machine.HostPkt.wellFormed (p : HostPkt) : Bool :=
  p.net.wellFormed && decide (p.src < 2 ^ 128) && decide (p.port < 65536) && p.fieldsOk

/-- A packet carries the opcode its command stands for, where it is a request at all. -/
def Machine.HostPkt.carries (p : HostPkt) (op : Nat) : Bool := p.wellFormed && (!p.formOk || p.opcode == op)

/-- An inbound RoCEv2 operation is within the widths of its headers. -/
def Machine.RoceHdr.wellFormed (h : RoceHdr) : Bool := h.net.wellFormed && decide (h.qp < 16384) && decide (h.psn < 2 ^ 24)

/-- Who asks is within the widths of a VID and of an address. -/
def Machine.Asker.wellFormed (a : Asker) (limit : Nat) : Bool := (a.vlan.all fun v => decide (v < 4096)) && decide (a.addr < limit)

/-- A frame's route part is within Table 9.3's widths, and the RSR format it advertises within Table 2.1's. -/
def Machine.Frame.wellFormed (f : Frame) : Bool :=
  decide (f.dst < 65536) && decide (f.src < 65536) && decide (f.hops < 64) && decide (f.incarnation < 256) &&
    decide (f.oseq < 2 ^ 32) && decide (f.oack < 2 ^ 32) && decide (f.rsrFormat < 256)

/-- A frame's Ethernet header and hop part are within the widths of Tables 9.2 and 9.3. -/
def Machine.HopPart.wellFormed (h : HopPart) : Bool :=
  decide (h.proto < 16) && decide (h.kind < 4) && decide (h.lseq < 4096) && decide (h.lack < 4096) &&
    decide (h.creditClass < 4) && decide (h.credits < 4096) && decide (h.cls < 4) && decide (h.type < 256) &&
    decide (h.eth.da < 2 ^ 48) && decide (h.eth.sa < 2 ^ 48) && (h.eth.tag.all fun t => decide (t < 65536)) &&
    decide (h.eth.etherType < 65536) && decide (h.tagKey < 3)

/-- A Mezzotint message's header fields are within Table 4.1's widths. -/
def Machine.MztMsg.wellFormed (m : MztMsg) : Bool :=
  decide (m.req < 2 ^ 64) && decide (m.epoch < 2 ^ 32) && decide (m.tag < 2 ^ 32) && decide (m.format < 16) &&
    decide (m.modelId < 65536) && decide (m.layer < 65536) && decide (m.policyVersion < 2 ^ 32) &&
    decide (m.basePos < 2 ^ 32) && decide (m.scale < 2 ^ 32) && decide (m.window < 2 ^ 32) && decide (m.rows < 512) &&
    decide (m.qheads < 512) && decide (m.headDim < 512) && decide (m.kvHeads < 256) && decide (m.pages < 2 ^ 32) &&
    decide (m.payload.length < 2 ^ 32) && decide (m.check < 2 ^ 32)

/-- A link the part has: 16 ports and 256 virtual links (R231, section 9.3). -/
def Machine.LinkId.wellFormed : LinkId → Bool
  | .port p => decide (p < 16)
  | .virt i => decide (i < 256)

/-- The operands of a command are within the fields and ranges the spec gives them. -/
def Instr.wellFormed : Instr → Bool
  | .csrWriteGeneric addr value => decide (addr < 2 ^ 32) && decide (value < 2 ^ 64)
  | .coreFailure tile phys _ => decide (tile < 32) && decide (phys < 5)
  | .mirrorBind src => decide (src < 65536)
  | .mirrorBindAccepted src => decide (src < 65536)
  | .mirrorCopyComplete => true
  | .mirrorBindRefused src _ => decide (src < 65536)
  | .mirrorBindRetryExpiry => true
  | .mirrorWrite src id w _ _ => decide (src < 65536) && decide (id < 2 ^ 64) && decide (w.seq < 2 ^ 32) && decide (w.epoch < 2 ^ 32)
  | .mirrorAck src id w => decide (src < 65536) && decide (id < 2 ^ 64) && decide (w.seq < 2 ^ 32) && decide (w.epoch < 2 ^ 32)
  | .mirrorAckTimeout id seq => decide (id < 2 ^ 64) && decide (seq < 2 ^ 32)
  | .deferredChangeRetry id => decide (id < 2 ^ 64)
  | .mirrorRefused src id w => decide (src < 65536) && decide (id < 2 ^ 64) && decide (w.seq < 2 ^ 32) && decide (w.epoch < 2 ^ 32)
  | .mirrorFenced src id w => decide (src < 65536) && decide (id < 2 ^ 64) && decide (w.seq < 2 ^ 32) && decide (w.epoch < 2 ^ 32)
  | .ownQuery src id epoch _ _ => decide (src < 65536) && decide (id < 2 ^ 64) && decide (epoch < 2 ^ 32)
  | .ownReply src id epoch owner => decide (src < 65536) && decide (id < 2 ^ 64) && decide (epoch < 2 ^ 32) &&
      decide (owner < 65536)
  | .ownQueryRetry id => decide (id < 2 ^ 64)
  | .claimWindowExpiry id => decide (id < 2 ^ 64)
  | .resyncReply src _ _ => decide (src < 65536)
  | .resyncRetry => true
  | .rseAdoptWrite value => decide (value < 2 ^ 64)
  | .rseDeputyWrite value => decide (value < 2 ^ 64)
  | .rseMirrorHomeWrite value => decide (value < 2 ^ 64)
  | .placementOffer => true
  | .place src _ => decide (src < 65536)
  | .placeAccept src id epoch => decide (src < 65536) && decide (id < 2 ^ 64) && decide (epoch < 2 ^ 32)
  | .placeRefused src id epoch _ => decide (src < 65536) && decide (id < 2 ^ 64) && decide (epoch < 2 ^ 32)
  | .placeTimeout id => decide (id < 2 ^ 64)
  | .placed src id epoch => decide (src < 65536) && decide (id < 2 ^ 64) && decide (epoch < 2 ^ 32)
  | .recallComplete id => decide (id < 2 ^ 64)
  | .placeCancel src id epoch => decide (src < 65536) && decide (id < 2 ^ 64) && decide (epoch < 2 ^ 32)
  | .placeInDoubtExpiry id => decide (id < 2 ^ 64)
  | .stepCommit id => decide (id < 2 ^ 64)
  | .stepNote src _ => decide (src < 65536)
  | .stepAck src id epoch gen => decide (src < 65536) && decide (id < 2 ^ 64) && decide (epoch < 2 ^ 32) &&
      decide (gen < 2 ^ 32)
  | .lostStep src id epoch => decide (src < 65536) && decide (id < 2 ^ 64) && decide (epoch < 2 ^ 32)
  | .lossSweep node => decide (node < 65536)
  | .requestRecover id => decide (id < 2 ^ 64)
  | .recordRestore id => decide (id < 2 ^ 64)
  | .moveStart id => decide (id < 2 ^ 64)
  | .mvPrepare src _ => decide (src < 65536)
  | .pullComplete id => decide (id < 2 ^ 64)
  | .pullReadFailed id tag _ => decide (id < 2 ^ 64) && decide (tag < 2 ^ 20)
  | .mvPrepared src id epoch => decide (src < 65536) && decide (id < 2 ^ 64) && decide (epoch < 2 ^ 32)
  | .mvRefused src id epoch _ => decide (src < 65536) && decide (id < 2 ^ 64) && decide (epoch < 2 ^ 32)
  | .mvCommitReq src id epoch dest => decide (src < 65536) && decide (id < 2 ^ 64) && decide (epoch < 2 ^ 32) &&
      decide (dest < 65536)
  | .mvCommitted src id epoch owner => decide (src < 65536) && decide (id < 2 ^ 64) && decide (epoch < 2 ^ 32) &&
      decide (owner < 65536)
  | .mvAborted src id epoch _ => decide (src < 65536) && decide (id < 2 ^ 64) && decide (epoch < 2 ^ 32)
  | .mvAbort src id epoch => decide (src < 65536) && decide (id < 2 ^ 64) && decide (epoch < 2 ^ 32)
  | .mvReleased src id epoch => decide (src < 65536) && decide (id < 2 ^ 64) && decide (epoch < 2 ^ 32)
  | .prepareTimeout id => decide (id < 2 ^ 64)
  | .moveCommitTimeout id => decide (id < 2 ^ 64)
  | .handbackRetryExpiry id => decide (id < 2 ^ 64)
  | .ttlExpiry id => decide (id < 2 ^ 64)
  | .tombstoneExpiry id => decide (id < 2 ^ 64)
  | .cancelFwd src id epoch => decide (src < 65536) && decide (id < 2 ^ 64) && decide (epoch < 2 ^ 32)
  | .fwdPause src id epoch _ => decide (src < 65536) && decide (id < 2 ^ 64) && decide (epoch < 2 ^ 32)
  | .fwdMove src id epoch dest _ => decide (src < 65536) && decide (id < 2 ^ 64) && decide (epoch < 2 ^ 32) &&
      decide (dest < 65536)
  | .final src _ => decide (src < 65536)
  | .notOwner src id epoch _ => decide (src < 65536) && decide (id < 2 ^ 64) && decide (epoch < 2 ^ 32)
  | .notOwnerRetryExpiry id => decide (id < 2 ^ 64)
  | .pgeModelWrite m value => decide (m < 65536) && decide (value < 2 ^ 64)
  | .pgeKvPoolWrite value => decide (value < 2 ^ 64)
  | .pgeOchreWrite addr value => decide (addr < 2 ^ 32) && decide (value < 2 ^ 64)
  | .pgeUmberCtrlWrite u value => decide (u < 16) && decide (value < 2 ^ 64)
  | .pgeUmberWrite addr value => decide (addr < 2 ^ 32) && decide (value < 2 ^ 64)
  | .pgeEvictWrite value => decide (value < 2 ^ 64)
  | .prefixIdleExpiry idx => decide (idx < 2 ^ 24)
  | .pgRenewTimer => true
  | .pgRenew src id epoch _ => decide (src < 65536) && decide (id < 2 ^ 64) && decide (epoch < 2 ^ 32)
  | .pgTtl src id epoch ticks => decide (src < 65536) && decide (id < 2 ^ 64) && decide (epoch < 2 ^ 32) &&
      decide (ticks < 2 ^ 32)
  | .pgFree src id epoch _ => decide (src < 65536) && decide (id < 2 ^ 64) && decide (epoch < 2 ^ 32)
  | .pageDeadlineCheck => true
  | .migrationStart idx _ => decide (idx < 2 ^ 24)
  | .migrationCopy src idx _ _ => decide (src < 65536) && decide (idx < 2 ^ 24)
  | .migrationAck src idx index => decide (src < 65536) && decide (idx < 2 ^ 24) && decide (index < 2 ^ 24)
  | .migrationRefused src idx _ => decide (src < 65536) && decide (idx < 2 ^ 24)
  | .demoteIdleExpiry idx => decide (idx < 2 ^ 24)
  | .writeThrough src id epoch idx offset tag _ => decide (src < 65536) && decide (id < 2 ^ 64) &&
      decide (epoch < 2 ^ 32) && decide (idx < 2 ^ 24) && decide (offset < 2 ^ 46) && decide (tag < 2 ^ 20)
  | .parityUpdate src id epoch _ offset tag _ => decide (src < 65536) && decide (id < 2 ^ 64) &&
      decide (epoch < 2 ^ 32) && decide (offset < 2 ^ 46) && decide (tag < 2 ^ 20)
  | .writeThroughAck src id tag => decide (src < 65536) && decide (id < 2 ^ 64) && decide (tag < 2 ^ 20)
  | .pgLocate src id epoch => decide (src < 65536) && decide (id < 2 ^ 64) && decide (epoch < 2 ^ 32)
  | .pgLocateReply src id _ => decide (src < 65536) && decide (id < 2 ^ 64)
  | .mzquery core => decide (core < 128)
  | .mzwrite core => decide (core < 128)
  | .mztQuery src m => decide (src < 65536) && m.wellFormed
  | .mztQueryDone => true
  | .mztKvWrite src m => decide (src < 65536) && m.wellFormed
  | .mztKvAck src m => decide (src < 65536) && m.wellFormed
  | .mztPartial src m => decide (src < 65536) && m.wellFormed
  | .mztBusyRetryExpiry tag => decide (tag < 2 ^ 20)
  | .mztPartialTimeout tag => decide (tag < 2 ^ 20)
  | .mztCtrlWrite value => decide (value < 2 ^ 64)
  | .mztCoresWrite _ value => decide (value < 2 ^ 64)
  | .mztConfigWrite addr value => decide (addr < 2 ^ 32) && decide (value < 2 ^ 64)
  | .instrNop core => decide (core < 128)
  | .mma core => decide (core < 128)
  | .mmx core => decide (core < 128)
  | .mmt core => decide (core < 128)
  | .vbin core => decide (core < 128)
  | .vbins core => decide (core < 128)
  | .vfma core => decide (core < 128)
  | .vun core => decide (core < 128)
  | .vred core => decide (core < 128)
  | .vsoftmax core => decide (core < 128)
  | .vnorm core => decide (core < 128)
  | .vrope core => decide (core < 128)
  | .vcvt core => decide (core < 128)
  | .vmerge core => decide (core < 128)
  | .sample core => decide (core < 128)
  | .sverify core => decide (core < 128)
  | .scommit core => decide (core < 128)
  | .slogprob core => decide (core < 128)
  | .oadam core => decide (core < 128)
  | .osgd core => decide (core < 128)
  | .instrLoad core => decide (core < 128)
  | .instrStore core => decide (core < 128)
  | .instrWait core => decide (core < 128)
  | .instrSignal core => decide (core < 128)
  | .instrArrive core => decide (core < 128)
  | .fence core => decide (core < 128)
  | .end_ core => decide (core < 128)
  | .tileOpBoundary core => decide (core < 128)
  | .rngReseed core => decide (core < 128)
  | .tableLoad id => decide (id < 4096)
  | .tableInvalidateDone => true
  | .tableDrop id => decide (id < 4096)
  | .dsetLoad slot => decide (slot < 64)
  | .dsetLoadReadDone => true
  | .dsetDrop slot => decide (slot < 64)
  | .bindTable ctx id => decide (ctx < 4096) && decide (id < 4096)
  | .bindDset ctx slot => decide (ctx < 4096) && decide (slot < 64)
  | .expCmdAddrWrite value => decide (value < 2 ^ 64)
  | .ctxOpen c => decide (c < 4096)
  | .ctxLoadingDone c => decide (c < 4096)
  | .ctxStart c => decide (c < 4096)
  | .ctxClose c => decide (c < 4096)
  | .ctxAbort c => decide (c < 4096)
  | .ctxDrained c => decide (c < 4096)
  | .ctxTeardownDone c => decide (c < 4096)
  | .batchDispatch c _ => decide (c < 4096)
  | .batchEnd c _ => decide (c < 4096)
  | .batchHoldExpiry c => decide (c < 4096)
  | .refuseHoldExpiry node => decide (node < 65536)
  | .jobAbort src job => decide (src < 65536) && decide (job < 2 ^ 32)
  | .shardDispatch c _ => decide (c < 4096)
  | .backupStart c shard _ => decide (c < 4096) && decide (shard < 65536)
  | .shardWin c shard copy => decide (c < 4096) && decide (shard < 65536) && decide (copy < 2)
  | .schCompWrite addr value => decide (addr < 2 ^ 32) && decide (value < 2 ^ 64)
  | .compMeterTick => true
  | .schQueueWrite q value => decide (q < 4096) && decide (value < 2 ^ 64)
  | .schCtrlWrite value => decide (value < 2 ^ 64)
  | .phaseTurn p value => p.wellFormed && decide (value < 2 ^ 64)
  | .phsTurnWrite value => decide (value < 2 ^ 64)
  | .turnFinishExpiry => true
  | .turnParkingDone => true
  | .turnQuiesceDone => true
  | .turnCheckDone => true
  | .holderQuietExpiry => true
  | .turnDrainLimitExpiry => true
  | .phsCtrlWrite value => decide (value < 2 ^ 64)
  | .phsPolicyWrite value => decide (value < 2 ^ 64)
  | .phsFloorWrite value => decide (value < 2 ^ 64)
  | .fabPortCfgWrite port value => decide (port < 16) && decide (value < 2 ^ 64)
  | .linkTrained link => link.wellFormed
  | .laneTrainFail port => decide (port < 16)
  | .hello link f => link.wellFormed && f.hop.wellFormed
  | .helloSendTimer link => link.wellFormed
  | .helloLossTimeout link => link.wellFormed
  | .linkDownRetrainExpiry link => link.wellFormed
  | .linkFailedRecheck link _ => link.wellFormed
  | .linkDrained link => link.wellFormed
  | .dataFrameReceive link hop f => link.wellFormed && f.wellFormed && hop.wellFormed
  | .lnack link hop => link.wellFormed && hop.wellFormed
  | .lack link hop credits => link.wellFormed && hop.wellFormed && decide (hop.credits = credits)
  | .linkReplayExpiry link => link.wellFormed
  | .linkTimeoutExpiry link => link.wellFormed
  | .orderedFrameAccept f => f.wellFormed
  | .oack f => f.wellFormed
  | .oretxExpiry dst => decide (dst < 65536)
  | .probeExpiry dst => decide (dst < 65536)
  | .signalFrame f => f.wellFormed
  | .coverHoldExpiry src => decide (src < 65536)
  | .loadFrame f => f.wellFormed
  | .storeFrame f => f.wellFormed
  | .atomicFrame f => f.wellFormed
  | .remoteResponse f => f.wellFormed
  | .remoteTimeoutExpiry what => match what with
    | .frame tag addr => decide (tag < 2 ^ 20) && decide (addr < 2 ^ 64)
    | .command _ => true
  | .fabAssignNumber number => decide (number < 65536)
  | .fabAssignRelease => true
  | .mgmtFrame f => f.wellFormed
  | .mgmtResp f => f.wellFormed
  | .fabricNotice src _ => decide (src < 65536)
  | .fabRtEntryWrite value => decide (value < 2 ^ 64)
  | .fabRegionBaseWrite value => decide (value < 2 ^ 64)
  | .regionRegister region => decide (region < 2 ^ 20)
  | .regionRevoke region => decide (region < 2 ^ 20)
  | .regionRead region => decide (region < 2 ^ 20)
  | .revokeComplete => true
  | .sprayNak f => f.wellFormed
  | .engineNak f => f.wellFormed
  | .engineNakRetryExpiry dst => decide (dst < 65536)
  | .fabPeerWrite k value => decide (k < 36) && decide (value < 2 ^ 64)
  | .fabCtrlWrite value => decide (value < 2 ^ 64)
  | .fabTimeoutWrite value => decide (value < 2 ^ 64)
  | .rekeyStart link => link.wellFormed
  | .rekeyHello link f => link.wellFormed && f.hop.wellFormed
  | .xfrQDWrite q value => decide (q < 1024) && decide (value < 2 ^ 64)
  | .xfrQueueCfgWrite addr value => decide (addr < 2 ^ 32) && decide (value < 2 ^ 64)
  | .xfrWrite q => decide (q < 1024)
  | .xfrRead q => decide (q < 1024)
  | .xfrAtomic q => decide (q < 1024)
  | .xfrSignal q => decide (q < 1024)
  | .xfrCopy q => decide (q < 1024)
  | .xfrCopyDone q idx => decide (q < 1024) && decide (idx < 2 ^ 24)
  | .xfrNop q => decide (q < 1024)
  | .umberWrite q => decide (q < 1024)
  | .umberRead q => decide (q < 1024)
  | .xfrReduce q => decide (q < 1024)
  | .msgOpen src _ => decide (src < 65536)
  | .writePacket f => f.wellFormed
  | .msgDone src first count _ => decide (src < 65536) && decide (first < 2 ^ 32) && decide (count < 2 ^ 32)
  | .msgTimeoutExpiry q idx => decide (q < 1024) && decide (idx < 2 ^ 24)
  | .msgAbort src _ => decide (src < 65536)
  | .readFrame f => f.wellFormed
  | .readData f => f.wellFormed
  | .tagQuietExpiry tag => decide (tag < 2 ^ 20)
  | .reducePacket f => f.wellFormed
  | .reduceDownPacket f => f.wellFormed
  | .collTimeoutExpiry _ _ => true
  | .xfrMsgBaseWrite value => decide (value < 2 ^ 64)
  | .xfrGroupWrite addr value => decide (addr < 2 ^ 32) && decide (value < 2 ^ 64)
  | .xfrCfgWrite value => decide (value < 2 ^ 64)
  | .synCtrDataWrite value => decide (value < 2 ^ 64)
  | .barrierConfigure bar => decide (bar < 4096)
  | .barrierFree bar => decide (bar < 4096)
  | .arriveAtBarrier f => f.wellFormed
  | .releaseAck src bar round => decide (src < 65536) && decide (bar < 4096) && decide (round < 65536)
  | .barrierRelease src bar round => decide (src < 65536) && decide (bar < 4096) && decide (round < 65536)
  | .barrierAbort src bar round _ => decide (src < 65536) && decide (bar < 4096) && decide (round < 65536)
  | .waitLimitExpiry core => decide (core < 128)
  | .waitGateExpiry core => decide (core < 128)
  | .prayrNop p _ => p.wellFormed
  | .caps p => p.wellFormed
  | .submit p _ _ => p.wellFormed
  | .submitPromptReadDone _ _ _ => true
  | .cancel p id => p.wellFormed && decide (id < 2 ^ 64)
  | .pause p id ticks => p.wellFormed && decide (id < 2 ^ 64) && decide (ticks < 2 ^ 32)
  | .resume p _ _ => p.wellFormed
  | .queryReq p id => p.wellFormed && decide (id < 2 ^ 64)
  | .tokenAck p id epoch next => p.wellFormed && decide (id < 2 ^ 64) && decide (epoch < 2 ^ 32) &&
      decide (next < 2 ^ 32)
  | .setTtl p id ticks => p.wellFormed && decide (id < 2 ^ 64) && decide (ticks < 2 ^ 32)
  | .move p id dest => p.wellFormed && decide (id < 2 ^ 64) && decide (dest < 65536)
  | .csrRead p node addr count => p.wellFormed && decide (node < 65536) && decide (addr < 2 ^ 32) &&
      decide (count < 2 ^ 32)
  | .csrWrite p node addr _ => p.wellFormed && decide (node < 65536) && decide (addr < 2 ^ 32)
  | .eventPull p cursor max => p.wellFormed && decide (cursor < 2 ^ 64) && decide (max < 64)
  | .resetWarm p => p.wellFormed
  | .resetCompute p => p.wellFormed
  | .resetComputeScrub p => p.wellFormed
  | .qpSetup p _ => p.wellFormed
  | .qpDestroy p qp => p.wellFormed && decide (qp < 16384)
  | .prayrBadOpcode p opcode => p.wellFormed && decide (opcode < 256)
  | .hostPacketDrop => true
  | .hostArp target asker => decide (target < 2 ^ 32) && asker.wellFormed (2 ^ 32)
  | .hostNeighbourSolicit target asker => decide (target < 2 ^ 128) && asker.wellFormed (2 ^ 128)
  | .hostIcmpEcho target asker _ => decide (target < 2 ^ 128) && asker.wellFormed (2 ^ 128)
  | .replyCacheExpiry _ => true
  | .tokenTransmit => true
  | .tokenRetxExpiry id => decide (id < 2 ^ 64)
  | .hostRdmaWrite h rkey va _ => h.wellFormed && decide (rkey < 2 ^ 32) && decide (va < 2 ^ 64)
  | .hostRdmaRead h rkey va _ => h.wellFormed && decide (rkey < 2 ^ 32) && decide (va < 2 ^ 64)
  | .roceCompletion qp _ => decide (qp < 16384)
  | .roceAckTimeout qp => decide (qp < 16384)
  | .roceNak qp syndrome => decide (qp < 16384) && decide (syndrome < 256)
  | .roceCnp qp => decide (qp < 16384)
  | .roceRateRecovery qp => decide (qp < 16384)
  | .hcpWindowWrite addr value => decide (addr < 2 ^ 32) && decide (value < 2 ^ 64)
  | .windowCloseDone window => decide (window < 64)
  | .hostPortUp => true
  | .hostPortDown => true
  | .hcpRegWrite addr value => decide (addr < 2 ^ 32) && decide (value < 2 ^ 64)
  | .trfMeterWrite addr value => decide (addr < 2 ^ 32) && decide (value < 2 ^ 64)
  | .shaperWrite addr value => decide (addr < 2 ^ 32) && decide (value < 2 ^ 64)
  | .i3cPrivateWrite _ => true
  | .i3cPrivateRead count => decide (count < 256)
  | .i3cEntdaa addr => decide (addr < 128)
  | .i3cSnapshotRefresh => true
  | .coldStart _ => true
  | .watchdogExpiry => true
  | .bootStageDone _ _ bad => bad.all (· < 9)
  | .tileServiceOffline p tile => p.wellFormed && decide (tile < 32)
  | .tileServiceOnline p tile => p.wellFormed && decide (tile < 32)
  | .tileOnlineTestDone tile _ => decide (tile < 32)
  | .channelRetire p stack channel => p.wellFormed && decide (stack < 20) && decide (channel < 32)
  | .channelCopyStart => true
  | .channelCopyDone => true
  | .imgActivate p subsystem _ => p.wellFormed && decide (subsystem < 16)
  | .imgStatus p => p.wellFormed
  | .imageHealthExpiry subsystem => decide (subsystem < 16)
  | .bcastOpen p _ _ _ _ => p.wellFormed
  | .bcastSend p session => p.wellFormed && decide (session < 65536)
  | .bcastStatus p session => p.wellFormed && decide (session < 65536)
  | .bcastClose p session => p.wellFormed && decide (session < 65536)
  | .bcastPacket f => f.wellFormed
  | .bcastEnd src session chunks => decide (src < 65536) && decide (session < 65536) && decide (chunks < 2 ^ 32)
  | .repairReq src session first count => decide (src < 65536) && decide (session < 65536) &&
      decide (first < 2 ^ 32) && decide (count < 2 ^ 32)
  | .repairNak src session first count => decide (src < 65536) && decide (session < 65536) &&
      decide (first < 2 ^ 32) && decide (count < 2 ^ 32)
  | .statusQuery src session => decide (src < 65536) && decide (session < 65536)
  | .statusReply src session held _ => decide (src < 65536) && decide (session < 65536) && decide (held < 2 ^ 32)
  | .repairWaitExpiry session => decide (session < 65536)
  | .imageHashDone session => decide (session < 65536)
  | .imageSlotWriteDone session => decide (session < 65536)
  | .licInstall p _ => p.wellFormed
  | .licList p => p.wellFormed
  | .licRemove p serial => p.wellFormed && decide (serial < 2 ^ 64)
  | .licenceTickRecord => true
  | .licenceLapse serial => decide (serial < 2 ^ 64)
  | .defectRead p first count => p.wellFormed && decide (first < 2 ^ 32) && decide (count < 2 ^ 32)
  | .defectClear p => p.wellFormed
  | .attest p nonce => p.wellFormed && decide (nonce < 2 ^ 512)
  | .certRead p index => p.wellFormed && decide (index < 8)
  | .approvalOpen p opcode digest => p.wellFormed && decide (opcode < 256) && decide (digest < 2 ^ 512)
  | .approve p slot set signature => p.wellFormed && decide (slot < 16) && decide (set < 4) &&
      decide (signature < 2 ^ 4096)
  | .approverEnrolAdd p slot modulus => p.wellFormed && decide (slot < 16) && decide (modulus < 2 ^ 4096)
  | .approverEnrolRemove p slot => p.wellFormed && decide (slot < 16)
  | .policySet p value rekey => p.wellFormed && decide (value < 2 ^ 64) && decide (rekey < 2 ^ 64)
  | .hostSet p entry a b c d => p.wellFormed && decide (entry < 16) && decide (a < 2 ^ 64) && decide (b < 2 ^ 64) &&
      decide (c < 2 ^ 64) && decide (d < 2 ^ 64)
  | .debugUnlock p value => p.wellFormed && decide (value < 2 ^ 64)
  | .debugRelock p value => p.wellFormed && decide (value < 2 ^ 64)
  | .debugDurationExpiry => true
  | .approvalDeadlineExpiry set => decide (set < 4)
  | .inputWarnCross mv => decide (mv < 65536)
  | .inputRecoveryDone => true
  | .inputUndervoltage => true
  | .inputOvervoltage => true
  | .aonInputLoss => true
  | .railWarnCross rail mv => decide (rail < 9) && decide (mv < 65536)
  | .railClearDone rail => decide (rail < 9)
  | .railResetCross rail mv => decide (rail < 9) && decide (mv < 65536)
  | .railHoldDone => true
  | .thermalSample _ => true
  | .powerWindowExpiry watts => decide (watts < 65536)
  | .pcrPowerLimitWrite value => decide (value < 2 ^ 64)
  | .pcrGateCfgWrite value => decide (value < 2 ^ 64)
  | .refclk25Loss => true
  | .refclk156Loss => true
  | .coreIdleExpiry core => decide (core < 128)
  | .tileIdleExpiry tile => decide (tile < 32)
  | .coreWakeDone core => decide (core < 128)
  | .hbmPowerdownIdle stack channel => decide (stack < 20) && decide (channel < 32)
  | .jtagIdcode => true
  | .jtagBypass => true
  | .jtagSamplePreload => true
  | .jtagExtest value => decide (value < 2 ^ 64)
  | .patrolScrubPass stack channel _ => decide (stack < 20) && decide (channel < 32)
  | .ceWindowExpiry stack channel => decide (stack < 20) && decide (channel < 32)
  | .evtEccCfgWrite value => decide (value < 2 ^ 64)
  | .refclk156Restored => true
  | .portLockLoss link => link.wellFormed
  | .standaloneOackExpiry src => decide (src < 65536)
  | .rekeyDeadline link => link.wellFormed
  | .resumePromptReadDone _ _ _ => true
  | .shaperRelease k => decide (k < 36)
  | .imageHealthy subsystem => decide (subsystem < 16)
  | .inputRecoveryRestart mv => decide (mv < 65536)
  | .railClearRestart rail mv => decide (rail < 9) && decide (mv < 65536)
  | .debugScopeAccess _ => true

end Sys2Proof
end

