-- ==== Sys2Proof/Tests/Slice0.lean ====
section
/-! SUPPORT. Tests, and for every statement states that meet its hypotheses. -/

set_option linter.unusedVariables false
set_option maxRecDepth 20000
set_option Elab.async false

namespace Sys2Proof.Tests

open Sys2Proof Sys2Proof.Machine

/-- Nothing waits after reset. -/
theorem test_reset_queue : State.reset.pending = [] := rfl

/-- The CRC-32C check value of the digits 1 to 9 (the published check value of that CRC). -/
theorem test_crc32c : crc32c [49, 50, 51, 52, 53, 54, 55, 56, 57] = 0xE3069283 := by decide +kernel

/-- SHA-512 of "abc" (RFC 6234), its first 64 bits. -/
theorem test_sha512 : sha512 [97, 98, 99] / 2 ^ 448 = 0xddaf35a193617aba := by decide +kernel

/-- The image of the example of section 13.5: 41,943,040 bytes are 640 chunks. -/
theorem test_chunks : ({ bytes := [], kind := 0, subsystem := 4, fwGeneration := 1, length := 41943040, policyVersion := 0, imageHash := 0, signerHash := 0 } : Manifest).chunks = 640 := by decide +kernel

/-- One chunk missing is one range (Table 13.7). -/
theorem test_runs : runs [17] = [(17, 1)] ∧ runs [3, 4, 5, 9] = [(3, 3), (9, 1)] := by decide +kernel

/-- The throttle in force is the lowest demand (R414). -/
theorem test_throttle : (⟨50, 100, 75, 25⟩ : Throttle).force = 25 := by decide

/-- Readings at the levels of Table 15.6: a logic die at 98 °C warns, at 97.9 °C it does not; a stack warns at 88 °C. -/
theorem test_levels : atLevel 98 88 (37, 98 * 256) = true ∧ atLevel 98 88 (37, 98 * 256 - 1) = false
    ∧ atLevel 98 88 (40, 88 * 256) = true ∧ atLevel 98 88 (40, 0x8000) = false := by decide

/-- Status values of Table 16.3. -/
theorem test_status_codes : St.ok.code = 0 ∧ St.clockFault.code = 0x0A03 ∧ St.mztBusy.code = 0x0304 := by decide

/-- A step with a command in front runs it on the queue's rest. -/
theorem test_step_front : step { State.reset with pending := [.jtagBypass, .jtagIdcode] }
    = .next { State.reset.bypass with pending := [.jtagIdcode] } := rfl

/-- An idle step is one AON cycle. -/
theorem test_step_idle : (match step State.reset with
    | .next t => t.aon
    | _ => 0) = 1 := by decide +kernel

/-- No word spells a command. -/
theorem test_no_word : decodeTableWord 64 0 = none := rfl

/-- A request record: id 5 of node 0, epoch 3, owned by node 0. -/
def rec0 : Record :=
  { id := 5, epoch := 3, owner := 0, deputy := 0, formatVersion := 1, state := .decode, nextState := .free, moveDest := 0,
    movePhase := 0, lc := true, coded := false, mirrored := false, pauseAtEnd := false, cancelSeen := false, retried := false,
    restarts := 0, pageSize := 0, placement := 0, context := 1, tenant := 0, queue := 0, modelId := 0, variantId := 0,
    policyVersion := 0, stalenessMax := 0, specWindow := 0, historyLength := 1, kvCommitted := 0, genCommitted := 0,
    maxNewTokens := 8, streamed := 0, lastToken := 0, ttlTicks := 0, replyAddr := 0, replyPort := 0, replyStream := 0,
    temperature := 0, topP := 0, topK := 0, repeatPenalty := 0, mirrorSeq := 0, hostTag := 0, stopTokens := [],
    finalStatus := .ok, stepCount := 0 }

/-- A home record of it. -/
def home0 : HomeRec := homeOf rec0 [7]

/-- A working copy of it, owned. -/
def work0 : Work := { workOf ⟨rec0, [], [7], [], 0, 0⟩ 0 .owned [] with recalling := false }

/-- The node after reset with a home record. -/
def withHome (h : HomeRec) : State := State.reset.putHome h

/-- The node after reset with a working copy. -/
def withWork (w : Work) : State := State.reset.putWork w

/-- A GENERATE context descriptor on composition 0. -/
def desc0 : Desc :=
  { formOk := true, kind := .serving, isStatic := false, autoReopen := false, backupOk := false, modelId := 0, comp := 0,
    program := 0, stepPc := 0, jobPc := 0, cores := [0], groupSize := 1, batchAddr := 0, batchUnits := 1, rowTarget := 1,
    holdUs := 0, chunkRows := 0, prefillRowsMax := 0, shortPrompt := 0, jobId := 0, rowMin := 1, ctrFirst := 0,
    ctrCount := 0, barFirst := 0, barCount := 0, vmapAddr := 0, vmapCount := 0, listA := [], listB := [], shardAddr := 0,
    shardCount := 0 }

/-- A context in a state. -/
def ctx0 (num : Nat) (st : CtxState) : Ctx :=
  { num := num, state := st, addr := 0, desc := desc0, cause := .close, status := .ok, core := 0, pc := 0, seqs := [],
    rrLc := ⟨0, false⟩, rrBe := ⟨0, false⟩, held := none, holdOver := false, nextShard := 0, doneShards := [], runTimes := [], backups := [] }

/-- A GENERATION node that takes placements: a model, a pool of 8 frames of 64 KiB, context 1 RUNNING. -/
def serving : State :=
  (State.reset.setRegs [(R.CAP_FEATURES_ROLE_GENERATION, 1), (R.PGE_CTRL_ENABLE, 1), (R.PGE_KV_POOL_LIMIT, 8),
    (R.PGE_MODEL_VALID 0, 1), (R.PGE_MODEL_LAYERS 0, 1), (R.PGE_MODEL_KV_HEADS 0, 1), (R.PGE_MODEL_HEAD_DIM 0, 64),
    (R.PHS_PHASE_ROLE, 2)]).onSch fun b => { b with ctxs := [ctx0 1 .running] }

/-- The state a check goes on with. -/
def okState : Except State State → State
  | .ok t => t
  | .error t => t

/-- A check that goes on. -/
def goesOn : Except State State → Bool
  | .ok _ => true
  | .error _ => false

theorem goesOn_eq (x : Except State State) (h : goesOn x = true) : x = .ok (okState x) := by
  cases x <;> simp_all [goesOn, okState]

/-- A page of request 5, held for another node in frame 0. -/
def page0 : Page :=
  { idx := 3, req := 5, kind := .kv, loc := .t0 0, foreign := true, migrating := false, sealed := true, lastUse := 0,
    policyVersion := 0, modelId := 0, layer := 0, firstPos := 0, headDim := 64, kvHeads := 1, element := 0, pageSize := 2,
    epoch := 3, deadline := 0, group := 0, memberNo := 0, coded := false, copyNode := 0, copyIndex := 0, slots := 128,
    dataCrc := 0, refs := 0, headerOk := true, prefixKey := 0, variantId := 0 }

/-- The node after reset with one page. -/
def withPage (p : Page) : State := State.reset.onPge fun g => { g with pages := [p] }

/-- The node after reset with one page and a migration of it. -/
def migrating (p : Page) (m : Migration) : State := State.reset.onPge fun g => { g with pages := [p], migrations := [m] }

/-- A queue pair ready to send. -/
def qp0 : Qp :=
  { index := 0, error := false, mtu := 4096, timeout := 10, retry := 3, remoteQpn := 7, sqPsn := 0, rqPsn := 0, dscp := 0,
    maxReads := 4, remoteAddr := 1, syndrome := 0, lastStatus := 0, ops := [], retriesLeft := 3, rate := 0 }

/-- A state with it. -/
def withQp (s : State) : State := s.onHcp fun h => { h with qps := [qp0] }

/-- The node after reset with core 2 in context 1 about to issue the instruction whose word is `w`. -/
def issuing (w : Nat) : State :=
  (State.reset.wrNum .hbm 0 16 w).putCore
    { num := 2, ctx := 1, power := .running, pc := 0, prog := 0, wait := none, waitGated := false, squash := false,
      stopped := false, draws := 0, waitDone := 0xFFFF }

/-- A core about to issue an MZQUERY or MZWRITE whose descriptor names request 5, with its T1 page at node 7. -/
def mztIssuing (op : Nat) : State :=
  let d := ((issuing (op * 2 ^ 120)).wrNum .op (2 * obSize) 8 5).wrNum .op (2 * obSize + 0x28) 8
    (2 ^ 55 + 2 ^ 46 + 64 * 2 ^ 37 + 2 ^ 29)
  ((d.setRegs [(R.PGE_MODEL_VALID 0, 1), (R.PGE_MODEL_LAYERS 0, 1), (R.PGE_MODEL_KV_HEADS 0, 1),
    (R.PGE_MODEL_HEAD_DIM 0, 64)]).onPge fun g => { g with pages := [{ page0 with foreign := false, loc := .t1 7 9 }] }).putWork
    work0

/-- A Mezzotint message about request 5. -/
def mzt0 : MztMsg :=
  { req := 5, epoch := 3, tag := 0, format := 1, status := .ok, modelId := 0, layer := 0, policyVersion := 0, basePos := 0, scale := 0,
    window := 0, rows := 1, qheads := 1, headDim := 64, kvHeads := 1, lc := false, pages := 1,
    payload := List.replicate 128 0, check := 0 }

/-- A message of the owner's to node 7. -/
def mztOut0 (query busy : Bool) : MztOut := ⟨0, 7, 2, query, busy, 0, 0, 2, mzt0⟩

/-- A holder that serves Mezzotint, with a page of request 5. -/
def mztServing : State :=
  ((withPage page0).setRegs [(R.CAP_FEATURES_MEZZOTINT, 1), (R.MZT_CTRL_SERVE, 1), (R.MZT_CTRL_CONTEXT, 1)]).onSch fun b =>
    { b with ctxs := [ctx0 1 .running] }


/-- A core about to issue an MMX whose one block, of table 3's single code, is at offset 256 of its operand buffer. -/
def mmxIssuing : State :=
  ((((((issuing (2 * 2 ^ 120 + 2 ^ 116 + 2 * 2 ^ 112 + 2 ^ 80 + 4 * 2 ^ 64 + 512 * 2 ^ 48)).wrNum .op (2 * obSize + 256) 8
    (0xB10C * 2 ^ 48 + 2 ^ 44 + 2 * 2 ^ 40 + 3 * 2 ^ 28)).wrNum .op (2 * obSize + 264) 8 (4096 * 2 ^ 32 + 608)).wrNum .op
    (2 * obSize + 280) 8 (377549640 * 2 ^ 32)).wrNum .op (2 * obSize + 288) 64 0x08080808080808080808080808080808080808080808080808080808080808080808080808080808080808080808080808080808080808080808080808080808)).onExp fun e =>
      { e with tables := [{ id := 3, element := 2, lens := [1], dropping := false, binds := [1], resident := [2] }] }

/-- The matrix instruction of the words of these tests. -/
def mInstr0 : MInstr :=
  { fa := .e4m3, fb := .e4m3, fd := .fp32, round := .rne, acc := false, sat := false, rows := 1, addrA := 64, addrB := 256,
    addrD := 32768, addrSA := 0, addrSB := 0, delta := 0, nt := 1, kt := 1 }

/-- The vector instruction of them. -/
def vInstr0 (o : Opc) : VInstr :=
  { op := o, fi := .fp32, fo := .fp32, func := 0, round := .rne, sat := false, rows := 1, addrX := 64, addrY := 256,
    addrZ := 32768, len := 8, imm := 0 }

/-- The sampler instruction of them. -/
def sInstr0 : SInstr :=
  { fi := .fp32, rows := 1, addrX := 64, addrY := 256, addrZ := 32768, addrP := 44800, drafts := 0, pwin := 0, vocab := 4 }

/-- The optimizer instruction of them. -/
def oInstr0 : OInstr :=
  { fg := .fp32, fw := .bf16, round := .rne, sat := false, addrG := 64, addrM := 256, addrS1 := 32768, addrS2 := 44800,
    addrW := 51200, addrP := 57600 }

/-- A node whose host port is UP. -/
def hostNode : State := State.reset.setReg R.HCP_PORT_STATUS_STATE 2

/-- How a packet comes to the link-local address of the node after reset, for the UDP port `port`. -/
def netTo (port : Nat) : NetHdr := ⟨0xFE80 * 2 ^ 112 + 2 ^ 57 + 0xFFFE * 2 ^ 24, some port, false, none⟩

/-- A packet of a link-local source and tenant 0: version 1, session 1, sequence number 1 and 32 payload bytes of 0, its CHECK
computed by hand from Table 12.1. -/
def pkt0 : HostPkt :=
  { net := netTo 47213
    octets := [0, 0, 0, 0, 0, 1, 0x52, 0x50] ++ [1, 0, 0, 0, 0, 0, 0, 0] ++ [32, 0, 0, 0, 0, 0, 0, 0] ++ [1, 0, 0, 0]
      ++ [137, 190, 249, 45] ++ List.replicate 32 0
    src := 0xFE80 * 2 ^ 112 + 1
    port := 7
    session := 1
    seq := 1
    tenant := 0
    version := 1
    kind := 0
    payloadOk := true }

/-- Its octets are a whole packet with the fields it names, and no other sequence number. -/
theorem test_packet : pkt0.formOk = true ∧ pkt0.wellFormed = true ∧ HostPkt.wellFormed { pkt0 with seq := 2 } = false := by
  decide +kernel

/-- A host-initiated operation of queue pair 0, in sequence. -/
def roceHdr0 : RoceHdr := ⟨netTo 4791, 0, 0, false, false⟩

/-- A SUBMIT block of one token. -/
def block0 : SubmitBlock :=
  { hostTag := 0, queue := 0, context := 1, modelId := 0, variantId := 0, maxNew := 1, stalenessMax := 0, specWindow := 0,
    coded := false, pauseAtEnd := false, promptSrc := 0, ttl := 0, promptLength := 1, replyAddr := 0, replyPort := 0,
    replyStream := 0, temperature := 0, topP := 0, topK := 0, repeatPenalty := 0, prefixLength := 0, prefixKey := 0,
    stopTokens := [], promptVa := 0, promptRkey := 0, promptQp := 0, rsvdOk := true }

/-- A RESUME block for request 5. -/
def resume0 : ResumeBlock :=
  { id := 5, maxNew := 1, promptSrc := 0, ttl := 0, promptLength := 1, replyStream := 0, promptVa := 0, promptRkey := 0,
    promptQp := 0, rsvdOk := true }

/-- A TOKEN packet sent once. -/
def token0 : TokenPkt :=
  { id := 5, tenant := 0, addr := 1, port := 7, stream := 0, pos := 1, tokens := [(9, 0)], ending := 0, epoch := 3, hostTag := 0,
    sent := true, retx := 0 }

/-- The node of an accepted request. -/
def accepted (s : State) (op : Nat) (fast admin serves : Bool) : State :=
  ((s.accept? pkt0 op fast admin serves).map (·.2)).getD State.reset

/-- A SIGNAL frame. -/
def frame0 : Frame := mkFrame 1 2 false (.signal ⟨0, 0, 0, 0, 0⟩ 0 0)

/-- A QP_SETUP payload. -/
def qpCfg0 : QpCfg :=
  { index := 0, mtu := 1, timeout := 10, retry := 3, remoteQpn := 7, sqPsn := 0, rqPsn := 0, dscp := 0, maxReads := 4,
    remoteAddr := 1, rsvdOk := true }

/-- A page write to an Umber pool. -/
def roceOp0 : RoceOp := { use := .pageOut 0, write := true, va := 0, rkey := 0, len := 64, space := 0, off := 0, data := [], psn := 0 }

/-- A node whose HBM holds, at offset 0, the image of code table 3: one symbol of length 1. -/
def tableNode : State :=
  (((State.reset.wrNum .hbm 0 8 (0xC0DE * 2 ^ 48 + 2 ^ 44 + 2 * 2 ^ 40 + 3 * 2 ^ 28)).wrNum .hbm 12 4 1242517630).wrNum .hbm 16 1
    1)

/-- Table 3 loaded with other content. -/
def table0 : CodeTable := { id := 3, element := 2, lens := [2, 2], dropping := false, binds := [], resident := [] }

/-- A node whose HBM holds, at offset 0, a delta set of no tiles. -/
def dsetNode : State :=
  ((State.reset.wrNum .hbm 0 8 (0xD5E7 * 2 ^ 48 + 2 ^ 44 + 4 * 2 ^ 16 + 9)).wrNum .hbm 0x10 8 64).wrNum .hbm 0x3C 4 2945278229

/-- A delta slot. -/
def dslot0 : DeltaSlot := { slot := 2, base := 0, modelId := 0, variantId := 0, dropping := false, binds := [] }

/-- A GENERATION node with request 5 in DECODE in queue 0 of context 1, whose group 0 is idle. -/
def batching (x : Ctx) : State :=
  ((serving.setRegs [(R.SCH_QUEUE_A_VALID 0, 1), (R.SCH_QUEUE_A_QUANTUM 0, 4), (R.SCH_CTRL_ENABLE, 1), (R.SCH_CTRL_MODE, 1)]).putWork work0).onSch fun b =>
    { b with ctxs := [x] }

/-- A LEARN context with two shards, one done. -/
def shardCtx : Ctx :=
  { ctx0 1 .running with
    desc := { desc0 with kind := .learn, backupOk := true, shardCount := 2, shardAddr := 4096 }
    nextShard := 1
    doneShards := [1]
    runTimes := [1] }

/-- A run of its shard 0. -/
def run0 : ShardRun :=
  { ctx := 1, group := 0, shard := 0, copy := 0, seq := 1, startedAt := 0, left := [], squashed := false }

/-- A node with links. -/
def linked (ls : List Link) : State := State.reset.onFab fun f => { f with links := ls }

/-- A HELLO of another node. -/
def hello0 : Hello :=
  { State.reset.ownHello (.port 0) with nodeNumber := 9, nodeValid := true, identityTag := 77, cryptOffer := false,
                                        cryptRequire := false }

/-- A link that is UP to that node. -/
def up0 : Link := { freshLink (.port 3) .up with peer := some hello0, credits := [16, 16, 16, 16] }

/-- Its hop part of a frame received. -/
def hop0 : HopPart :=
  { proto := 0, kind := 0, encrypted := false, lseq := 0, lack := 0, transitOnly := false, creditClass := 3, credits := 0,
    eth := ⟨State.reset.mac State.reset.node, State.reset.mac 7, none, State.reset.reg R.FAB_CTRL_ETHERTYPE⟩,
    cls := frame0.body.cls.code, type := frame0.body.type, length := 100, fcsOk := true, tagKey := 0 }

/-- The hop part of a link-control frame of a TYPE. -/
def ctrl0 (type : Nat) : HopPart :=
  { hop0 with
    kind := 1
    proto := State.reset.reg R.PHS_VERSIONS_LINK_PROTO
    type := type
    eth := { hop0.eth with da := State.reset.linkLocalMac } }

/-- The links of these tests are port 3 and a virtual link on port 3. -/
def onPort3 (s : State) (l : LinkId) : Prop := (l = .port 3 ∨ l = .virt 2) ∧ s.linkPort l = 3

theorem rx_layout (s : State) (n : Nat) (l : LinkId) (hop : HopPart) (da : Nat) (h : onPort3 s l) :
    (s.countRx 3 n).layoutOk l hop da = s.layoutOk l hop da := by
  obtain ⟨rfl | rfl, h⟩ := h <;> simp only [State.linkPort] at h <;>
    simp (disch := first | assumption | decide) only [State.layoutOk, State.tagged, State.switched, State.linkPort, State.flag,
      reg_countRx_ne, h]

theorem rx_mac (s : State) (n : Nat) : (s.countRx 3 n).linkLocalMac = s.linkLocalMac := by
  simp (disch := decide) only [State.linkLocalMac, reg_countRx_ne]

theorem rx_da (s : State) (n : Nat) (f : Frame) : (s.countRx 3 n).daOf (.port 3) (s.countRx 3 n).node f = s.daOf (.port 3) s.node f := by
  simp (disch := decide) only [State.daOf, State.switched, State.linkPort, State.node, State.mac, rx_mac, reg_countRx_ne]
  congr

theorem rx_hello (s : State) (n : Nat) (l : LinkId) (h : onPort3 s l) : (s.countRx 3 n).ownHello l = s.ownHello l := by
  obtain ⟨rfl | rfl, h⟩ := h <;> simp only [State.linkPort] at h <;>
    simp (disch := first | assumption | decide) only [State.ownHello, State.offers, State.transitOnly, State.ownTag, State.linkPort,
      State.node, State.flag, reg_countRx_ne, countRx_sec, countRx_bld, h]

theorem rx_agreement (s : State) (n : Nat) (h : Hello) (k : KeyAgreement) : (s.countRx 3 n).agreementOk h k = s.agreementOk h k := by
  simp only [State.agreementOk, State.ownTag, countRx_sec]

/-- A DATA frame's layout, checked on the state before its bytes are counted. -/
theorem rx_data (s : State) (b : Bool) (hop : HopPart) (f : Frame) (h : s.layoutOk (.port 3) hop (s.daOf (.port 3) s.node f) = b) :
    (s.countRx (s.linkPort (.port 3)) hop.length).layoutOk (.port 3) hop ((s.countRx (s.linkPort (.port 3)) hop.length).daOf (.port 3)
      (s.countRx (s.linkPort (.port 3)) hop.length).node f) = b :=
  (congrArg _ (rx_da s _ f)).trans ((rx_layout s _ _ hop _ ⟨.inl rfl, rfl⟩).trans h)

/-- A link-control frame taken, by what its hop part says and the state before it. -/
theorem rx_taken (s : State) (l : Link) (hop : HopPart) (type : Nat) (h : onPort3 s l.id)
    (hd : (hop.fcsOk && s.layoutOk l.id hop s.linkLocalMac && hop.proto == s.controlProto l && hop.kind == 1 && hop.type == type) = true) :
    s.controlIn l hop type = (true, s.countRx 3 hop.length) := by
  simp only [Bool.and_eq_true, beq_iff_eq] at hd
  have e := h.2
  rw [controlIn_taken s l hop type hd.1.1.1.1 (by rw [e, rx_mac, rx_layout s _ _ _ _ h]; exact hd.1.1.1.2) (by
    rw [e, hd.1.1.2]; unfold State.controlProto; split <;> simp (disch := decide) only [reg_countRx_ne]) hd.1.2 hd.2, e]

/-- One of another TYPE, dropped. -/
theorem rx_type (s : State) (l : Link) (hop : HopPart) (type : Nat) (h : onPort3 s l.id)
    (hd : (hop.fcsOk && s.layoutOk l.id hop s.linkLocalMac && hop.type != type) = true) :
    s.controlIn l hop type = (false, (s.countRx 3 hop.length).bump (R.FAB_DIE_STATS_UNKNOWN_DROPS 0)) := by
  simp only [Bool.and_eq_true, bne_iff_ne] at hd
  have e := h.2
  rw [controlIn_type s l hop type hd.1.1 (by rw [e, rx_mac, rx_layout s _ _ _ _ h]; exact hd.1.2) hd.2, e]

/-- An encrypted link's keys, a key change due. -/
def crypt0 : LinkCrypt := ⟨1, 2, 3, 4, 2 ^ 48 - 2 ^ 20, 0, 0, 0, none, none⟩

/-- A modulus whose private exponent these tests know: a prime. -/
def rsaN : Nat := 2 ^ 4096 - 2549

/-- The certificate of a certificate authority with that key. -/
def ca0 : Cert := ⟨[], [], 0, rsaN, 65537, [], []⟩

/-- A certificate without a signature. -/
def cert0 : Cert := ⟨[], [], 0, rsaN, 65537, [], []⟩

/-- A key agreement part. -/
def agree0 : KeyAgreement := ⟨1, 1, 0, 0, 0, 0, cert0⟩

/-- The signature of no bytes under that key, by its private exponent. -/
def sig0 : Nat :=
  804676166568350301656250812575298104509213397259968638733272953730834022406495413510717861848948061426981345677511434039494254506336083776498297201485104588108738735013193313640645135488386651788928726290365959777947442996776202155648822706040322407956059643687251676509323271815094908850088317743754988803640894950464712072574495184039435722005357260321716711191926118020273227583896120231486032832428047631142484893409356376302357993678372803386808401081278456378889344692296557024869065109522359155844186189279076323591959556877670331739477560309227889419191853423429994762753200288090215836802177041989592317274748868043406967395190655982518145876923376534658713483055645367474725993997176561504413877511632067091035677841543534424911584761393478080945776229957671932734079150178306773813637073846353653556522357194728862205862121774275037460263110381360741409483294080857458412386688197916785436937761696620743342666925871961987136116370339615839145462373743328239173053084030691172556891218844516190637530484848483458050178218086671376786447125626667683978164413186441795484920719024547405244679337516583022651270052332673947016564764733700294434037351200600425147944410275381709007408970922037305166748931697725717686043268428

/-- The authority's certificate signed by itself. -/
def cert1 : Cert := ⟨[], [], sig0, rsaN, 65537, [], []⟩

/-- The HELLO of a node whose identity key is that key. -/
def hello1 : Hello := { hello0 with identityTag := 14501460688395490089, cryptOffer := true }

/-- Its key agreement part, signed. -/
def agree1 : KeyAgreement :=
  ⟨1, 1, g384.1, g384.2, rsaN,
    936579652375552690176116823103741764521604811856120889495545904187556891377258976874001418777279108890666370143185628308554389266059370659958669598486568046093479740205825692291860546221409773969572907171767392615996334774557077889945575137183274729911865161702531572806082581531731087459976192493035766393451929604921764296169413297558656105685615265394334934646530380152904900636100233961527600704858384191566366663644588498713538517006143033635896959755871434453143836099407835673562450388094714896956103963749922161134705502328013086861314924214161556093648570898695153693731555072854732220749487817273092051905060692514280787621747903268012768356024705833149437174720632921126908488062589383980593560656816803363398812559363101313172173579309741088746367389384087948323924540388146257256602929540723117508934638667658105822209018106243814500867916299928029044992794729360191541273100516440400302281297637694314028498097388958805425462837359938786422922455067990647118770175104732933479041795712772458111792542152698196107582211071134508669915162899882606060646290351646462525282774156545387873090610502881911384309535138387851649415822620381575035138632245386519974045543926617540934428828239744374210045833169526550176274275257, cert1⟩

/-- Software queue 70 with one request posted, of these words. -/
def queued (ws : List Nat) : State :=
  ((((List.range 8).foldl (fun s i => s.wrNum .hbm (0x10000 + 8 * i) 8 (ws.getD i 0)) State.reset).setRegs
    [(R.XFR_Q_A_VALID 70, 1), (R.XFR_Q_A_CONTEXT 70, 0xFFF), (R.XFR_Q_A_RING 70, 0x10000), (R.XFR_Q_B_POST_CTR 70, 100)]).putXq
      ⟨70, 0, [], []⟩).storeCounter 100 1

/-- Group 3 in use, its child node 8, its parent node 6. -/
def group3 : List (Fld × Nat) :=
  [(R.XFR_GROUP_A_VALID 3, 1), (R.XFR_GROUP_A_CHILD_COUNT 3, 1), (R.XFR_GROUP_CHILD_CHILDREN 12, 8),
    (R.XFR_GROUP_A_PARENT 3, 6)]

/-- A member of group 3 whose queue 70 asks for a reduction of 32 bytes from `a` to `b`. -/
def reducing (a b : Nat) : State :=
  (queued [16 * 2 ^ 56 + 3 * 2 ^ 32, a, b, 32 * 2 ^ 32 + 0, 0, 5, 0, 0]).setRegs group3

/-- Queue `i`'s request of index 0, this far, with the words of queue 70's ring in `s`. -/
def reqOf (s : State) (i : Nat) (p : Progress) : XReq := ⟨i, 0, s.workAt 70 0, p, true⟩

theorem opt_getD {α : Type} (x : Option α) (d : α) (h : x.isSome = true) : x = some (x.getD d) := by
  cases x <;> simp_all

theorem some_getD {α β : Type} (x : Option (α × β)) (d : α × β) (h : x.isSome = true) :
    x = some ((x.getD d).1, (x.getD d).2) := by
  cases x <;> simp_all

/-- Request 5 PAUSED at its home. -/
def paused0 : HomeRec := { home0 with r := { rec0 with state := .paused } }

/-- A READY GENERATION node that admits requests to queue 0. -/
def submitting : State :=
  (serving.setRegs [(R.HCP_PORT_STATUS_STATE, 2), (R.PHS_CTRL_ADMIT, 1), (R.SCH_QUEUE_A_VALID 0, 1)]).onBld fun b =>
    { b with node := .ready }

/-- A home whose request 5 may be offered to node 4. -/
def offering : State :=
  ((serving.setRegs [(R.SCH_CTRL_ENABLE, 1), (R.SCH_PLACE_PLACE_INFLIGHT, 1), (R.SCH_QUEUE_A_VALID 0, 1),
    (R.SCH_QUEUE_A_QUANTUM 0, 4), (R.SCH_QUEUE_A_CLASS 0, 1)]).putHome { home0 with r := { rec0 with state := .queued } }).onSch
      fun b => { b with queuedSeq := [(5, 0)], ctxs := [{ ctx0 1 .running with desc := { desc0 with listB := [4] } }] }

/-- The node that has SET 1 approved for an opcode and digest. -/
def approving (op digest : Nat) : State :=
  (hostNode.onBld fun b => { b with node := .ready }).onSec fun e =>
    { e with approvers := [(3, rsaN), (7, rsaN)], sets := [⟨1, op, digest, 5, 100, [3, 7]⟩] }

/-- A session 7 that receives a DATA image of 100000 bytes from node 9, for node 3. -/
def bcast0 : Bcast :=
  { k := 0, o := { session := 7, parent := 9, root := false, dest := 0x10000, repairWaitUs := 100, repairRounds := 3, rsvdOk := true },
    manifest := { bytes := [], kind := 1, subsystem := 0, fwGeneration := 0, length := 100000, policyVersion := 0, imageHash := 0,
                  signerHash := 0 },
    inRec := false, children := [3], peers := [3, 4], packets := [], held := [], begun := false, ended := false, forwarded := false,
    asked := [], rounds := 0, queryLeft := [], repairPeers := [], writing := false, sending := false }

/-- The hash of that key. -/
def rsaKeyHash : Nat :=
  9632843643114681192935412407194965362788913743483532578190408359252344637753590644191238895805242143072909119823768323569975945341884475349059886498108201

/-- The first 192 bytes of the manifest of a DATA image of one byte. -/
def manifestHead : List Byte :=
  toBytes 8 (0x1A6E1 * 2 ^ 44 + 2 ^ 42) ++ toBytes 8 (2 ^ 24) ++ List.replicate 48 0 ++ List.replicate 64 0 ++ digestBytes rsaKeyHash

/-- That manifest without a signature. -/
def manifest0 : List Byte := manifestHead ++ List.replicate 512 0

/-- A licence for a node. -/
def licence0 (node sig : Nat) : List Byte :=
  toBytes 8 (0x11CE * 2 ^ 48 + 2 ^ 44) ++ toBytes 8 5 ++ toBytes 8 3 ++ toBytes 8 0 ++ toBytes 8 100 ++ List.replicate 24 0
    ++ digestBytes node ++ digestBytes rsaKeyHash ++ toBytes 512 sig

/-- That manifest signed by that key. -/
def manifest1 : List Byte :=
  manifestHead ++ toBytes 512
    745254610530631960823232913639578124062136303478897559222411116346724851579260917815700832486363525361916960080193290667270688203409632144606819332624033617592665125142537407768867433387634971951411035572214991847093346593165467931124298752527611577750535737691618269558840331514494783910478134959375015723437103218679288268234772532150709366233009099268321182451197760350816190978114345206452032311389087071755497499555157264675093809412733967164909397026291613766080888327417416495599475580813796112819753621183442691501114097724251316569001335572833940735670577281411887581255927126896998327129451920838034257383984292068589703373963582959350010518398426279132692681851510203390502063081833357458132552403186360017705809970441116452230023434004202400782822486432678194262498048881740758226876523944525662815114813605764124386086262627317503851689862402761158143178963118463890677690195980266515319218349604910524377823671555844258670494981994376475114710505889684352381237221652038312319999698387587360792293224134200439221394663761545455707681243250332840236389583492810934289534220896277145289577301014498031106586303791212728819154673390817681447710099895233058511757692276951772754454962984734312786563725610985057334399041870

/-- The signature of the licence for the node whose identity key is that key. -/
def licSig : Nat :=
  498411462386050543357873613209236135509624834754177116282384832755283604783107525363348206329295201465905393377228507705272009539616998764927013947135290560320052054828930478122583126770750289676215343611668075011112782900391294655552121390045801693062366143051356010508967866321530572982866935660956795959857435580997678423136080550353197999569805255720509078165455997822977074151510107713625092956462152557857671218467778727385104060445402572913185139198703310217398446783136381163659696827022554565076299707319179806501784675109772748809786701786907005014610524960431985716257282473309159964500708503169275618078493474948908078914586254348666138239263626740133770912987927071480194845432268829178585812866282609613948269757952115899586651183894198039904003631537714478584858670177942505430162686517020694832070496149417366969719693037514872104075249023188721161630119668815012206598358316229334944898110870760834101029758609991017083686607094094206433854652844495520529639447493655408421492157027112600456067355615733311182211205533319085169704335908539225044002760971210832620822131888201875569652083540954750566646011764987283305853496313502601963217551964649297568318480086838334794114328520532866434991415038269941652368770151

/-- That node, with certificates under that key. -/
def licNode : State :=
  hostNode.onSec fun e => { e with identityN := rsaN, certs := [cert0, cert0, cert0, cert1, cert1], rootHash := sha512 [] }

/-- The signature of the approval statement of set 1, opcode 0x48, digest 9 and nonce 5. -/
def approveSig : Nat :=
  582869127399579865590030267316344585676988143324171540509630545215859211784547570540217192073180687672542102577112000832119604021531015603208533735853492518977133399718978818204163922524530345095537184249866039741775857525754587742885178093919011359319035832748955927054212458569313357462114158404598053795100966819738579523139597987075936249410778391863160931118921038158167819224786019834789628577517885794765259830270033984899041571662452807848661901914039627336240057046293711896522069551037138011833229460497863783361262478293832385256082571065176118574091936769331004099527488034555110909899006676841063458778335638331236741861556917423090090206475280877328124560577798427858156589836306662614100789802504667851226760366874878235864488612902244296116498579369558107478725329300028665805091518750330009186585475938728129433451641941044553421588009857013060302815236879213553112217672421636236635089264532807263102499284036628443776034568239115501769805253993943030197817917205766113670439905780846735529154815374028287147669425311705227603652742263415664984678422579569279683691874330921648928832480077210026890032579351508890006838343531929142129962549351600797100337710806590266216570805866456736236866808517022627196973030395


/-- Ill-formed commands, one for each check (part 1). -/
theorem test_ill_formed_1 :
    ([.csrWriteGeneric (2 ^ 32) 0,
      .csrWriteGeneric 0 (2 ^ 64),
      .coreFailure 32 0 0,
      .coreFailure 0 5 0,
      .mirrorBind 65536,
      .mirrorBindAccepted 65536,
      .mirrorBindRefused 65536 .ok,
      .mirrorAck 65536 0 ⟨0, 0⟩,
      .mirrorAck 0 (2 ^ 64) ⟨0, 0⟩,
      .mirrorAck 0 0 ⟨2 ^ 32, 0⟩,
      .mirrorAck 0 0 ⟨0, 2 ^ 32⟩,
      .mirrorAckTimeout (2 ^ 64) 0,
      .mirrorAckTimeout 0 (2 ^ 32),
      .deferredChangeRetry (2 ^ 64),
      .mirrorRefused 65536 0 ⟨0, 0⟩,
      .mirrorRefused 0 (2 ^ 64) ⟨0, 0⟩,
      .mirrorRefused 0 0 ⟨2 ^ 32, 0⟩,
      .mirrorRefused 0 0 ⟨0, 2 ^ 32⟩,
      .mirrorFenced 65536 0 ⟨0, 0⟩,
      .mirrorFenced 0 (2 ^ 64) ⟨0, 0⟩,
      .mirrorFenced 0 0 ⟨2 ^ 32, 0⟩,
      .mirrorFenced 0 0 ⟨0, 2 ^ 32⟩,
      .ownReply 65536 0 0 0,
      .ownReply 0 (2 ^ 64) 0 0,
      .ownReply 0 0 (2 ^ 32) 0,
      .ownReply 0 0 0 65536,
      .ownQueryRetry (2 ^ 64),
      .claimWindowExpiry (2 ^ 64),
      .rseAdoptWrite (2 ^ 64),
      .rseDeputyWrite (2 ^ 64),
      .rseMirrorHomeWrite (2 ^ 64),
      .placeAccept 65536 0 0,
      .placeAccept 0 (2 ^ 64) 0,
      .placeAccept 0 0 (2 ^ 32),
      .placeRefused 65536 0 0 .ok,
      .placeRefused 0 (2 ^ 64) 0 .ok,
      .placeRefused 0 0 (2 ^ 32) .ok,
      .placeTimeout (2 ^ 64),
      .placed 65536 0 0,
      .placed 0 (2 ^ 64) 0,
      .placed 0 0 (2 ^ 32),
      .recallComplete (2 ^ 64),
      .placeCancel 65536 0 0,
      .placeCancel 0 (2 ^ 64) 0,
      .placeCancel 0 0 (2 ^ 32),
      .placeInDoubtExpiry (2 ^ 64),
      .stepCommit (2 ^ 64),
      .stepAck 65536 0 0 0,
      .stepAck 0 (2 ^ 64) 0 0,
      .stepAck 0 0 (2 ^ 32) 0,
      .stepAck 0 0 0 (2 ^ 32),
      .lostStep 65536 0 0,
      .lostStep 0 (2 ^ 64) 0,
      .lostStep 0 0 (2 ^ 32),
      .lossSweep 65536,
      .requestRecover (2 ^ 64),
      .recordRestore (2 ^ 64),
      .moveStart (2 ^ 64),
      .pullComplete (2 ^ 64),
      .pullReadFailed (2 ^ 64) 0 .ok,
      .pullReadFailed 0 (2 ^ 20) .ok] : List Instr).all (fun c => !c.wellFormed) = true := by decide +kernel

/-- Ill-formed commands, one for each check (part 2). -/
theorem test_ill_formed_2 :
    ([.mvPrepared 65536 0 0,
      .mvPrepared 0 (2 ^ 64) 0,
      .mvPrepared 0 0 (2 ^ 32),
      .mvRefused 65536 0 0 .ok,
      .mvRefused 0 (2 ^ 64) 0 .ok,
      .mvRefused 0 0 (2 ^ 32) .ok,
      .mvCommitReq 65536 0 0 0,
      .mvCommitReq 0 (2 ^ 64) 0 0,
      .mvCommitReq 0 0 (2 ^ 32) 0,
      .mvCommitReq 0 0 0 65536,
      .mvCommitted 65536 0 0 0,
      .mvCommitted 0 (2 ^ 64) 0 0,
      .mvCommitted 0 0 (2 ^ 32) 0,
      .mvCommitted 0 0 0 65536,
      .mvAborted 65536 0 0 .ok,
      .mvAborted 0 (2 ^ 64) 0 .ok,
      .mvAborted 0 0 (2 ^ 32) .ok,
      .mvAbort 65536 0 0,
      .mvAbort 0 (2 ^ 64) 0,
      .mvAbort 0 0 (2 ^ 32),
      .mvReleased 65536 0 0,
      .mvReleased 0 (2 ^ 64) 0,
      .mvReleased 0 0 (2 ^ 32),
      .prepareTimeout (2 ^ 64),
      .moveCommitTimeout (2 ^ 64),
      .handbackRetryExpiry (2 ^ 64),
      .ttlExpiry (2 ^ 64),
      .tombstoneExpiry (2 ^ 64),
      .cancelFwd 65536 0 0,
      .cancelFwd 0 (2 ^ 64) 0,
      .cancelFwd 0 0 (2 ^ 32),
      .notOwnerRetryExpiry (2 ^ 64),
      .pgeModelWrite 65536 0,
      .pgeModelWrite 0 (2 ^ 64),
      .pgeKvPoolWrite (2 ^ 64),
      .pgeOchreWrite (2 ^ 32) 0,
      .pgeOchreWrite 0 (2 ^ 64),
      .pgeUmberCtrlWrite 16 0,
      .pgeUmberCtrlWrite 0 (2 ^ 64),
      .pgeUmberWrite (2 ^ 32) 0,
      .pgeUmberWrite 0 (2 ^ 64),
      .pgeEvictWrite (2 ^ 64),
      .prefixIdleExpiry (2 ^ 24),
      .pgRenew 65536 0 0 [],
      .pgRenew 0 (2 ^ 64) 0 [],
      .pgRenew 0 0 (2 ^ 32) [],
      .pgTtl 65536 0 0 0,
      .pgTtl 0 (2 ^ 64) 0 0,
      .pgTtl 0 0 (2 ^ 32) 0,
      .pgTtl 0 0 0 (2 ^ 32),
      .pgFree 65536 0 0 [],
      .pgFree 0 (2 ^ 64) 0 [],
      .pgFree 0 0 (2 ^ 32) [],
      .migrationAck 65536 0 0,
      .migrationAck 0 (2 ^ 24) 0,
      .migrationAck 0 0 (2 ^ 24),
      .migrationRefused 65536 0 .ok,
      .migrationRefused 0 (2 ^ 24) .ok,
      .demoteIdleExpiry (2 ^ 24),
      .writeThrough 65536 0 0 0 0 0 [],
      .writeThrough 0 (2 ^ 64) 0 0 0 0 [],
      .writeThrough 0 0 (2 ^ 32) 0 0 0 []] : List Instr).all (fun c => !c.wellFormed) = true := by decide +kernel

/-- Ill-formed commands, one for each check (part 3). -/
theorem test_ill_formed_3 :
    ([.writeThrough 0 0 0 (2 ^ 24) 0 0 [],
      .writeThrough 0 0 0 0 (2 ^ 46) 0 [],
      .writeThrough 0 0 0 0 0 (2 ^ 20) [],
      .parityUpdate 65536 0 0 0 0 0 [],
      .parityUpdate 0 (2 ^ 64) 0 0 0 0 [],
      .parityUpdate 0 0 (2 ^ 32) 0 0 0 [],
      .parityUpdate 0 0 0 0 (2 ^ 46) 0 [],
      .parityUpdate 0 0 0 0 0 (2 ^ 20) [],
      .writeThroughAck 65536 0 0,
      .writeThroughAck 0 (2 ^ 64) 0,
      .writeThroughAck 0 0 (2 ^ 20),
      .pgLocate 65536 0 0,
      .pgLocate 0 (2 ^ 64) 0,
      .pgLocate 0 0 (2 ^ 32),
      .mzquery 128,
      .mzwrite 128,
      .mztBusyRetryExpiry (2 ^ 20),
      .mztPartialTimeout (2 ^ 20),
      .mztCtrlWrite (2 ^ 64),
      .mztCoresWrite false (2 ^ 64),
      .mztConfigWrite (2 ^ 32) 0,
      .mztConfigWrite 0 (2 ^ 64),
      .instrNop 128,
      .mma 128,
      .mmx 128,
      .mmt 128,
      .vbin 128,
      .vbins 128,
      .vfma 128,
      .vun 128,
      .vred 128,
      .vsoftmax 128,
      .vnorm 128,
      .vrope 128,
      .vcvt 128,
      .vmerge 128,
      .sample 128,
      .sverify 128,
      .scommit 128,
      .slogprob 128,
      .oadam 128,
      .osgd 128,
      .instrLoad 128,
      .instrStore 128,
      .instrWait 128,
      .instrSignal 128,
      .instrArrive 128,
      .fence 128,
      .end_ 128,
      .tileOpBoundary 128,
      .rngReseed 128,
      .tableLoad 4096,
      .tableDrop 4096,
      .dsetLoad 64,
      .dsetDrop 64,
      .bindTable 4096 0,
      .bindTable 0 4096,
      .bindDset 4096 0,
      .bindDset 0 64,
      .expCmdAddrWrite (2 ^ 64)] : List Instr).all (fun c => !c.wellFormed) = true := by decide +kernel

/-- Ill-formed commands, one for each check (part 4). -/
theorem test_ill_formed_4 :
    ([.ctxOpen 4096,
      .ctxLoadingDone 4096,
      .ctxStart 4096,
      .ctxClose 4096,
      .ctxAbort 4096,
      .ctxDrained 4096,
      .ctxTeardownDone 4096,
      .batchDispatch 4096 0,
      .batchEnd 4096 0,
      .batchHoldExpiry 4096,
      .refuseHoldExpiry 65536,
      .jobAbort 65536 0,
      .jobAbort 0 (2 ^ 32),
      .shardDispatch 4096 0,
      .backupStart 4096 0 0,
      .backupStart 0 65536 0,
      .shardWin 4096 0 0,
      .shardWin 0 65536 0,
      .shardWin 0 0 2,
      .schCompWrite (2 ^ 32) 0,
      .schCompWrite 0 (2 ^ 64),
      .schQueueWrite 4096 0,
      .schQueueWrite 0 (2 ^ 64),
      .schCtrlWrite (2 ^ 64),
      .phaseTurn { pkt0 with src := 2 ^ 128 } 0,
      .phaseTurn pkt0 (2 ^ 64),
      .phsTurnWrite (2 ^ 64),
      .phsCtrlWrite (2 ^ 64),
      .phsPolicyWrite (2 ^ 64),
      .phsFloorWrite (2 ^ 64),
      .fabPortCfgWrite 16 0,
      .fabPortCfgWrite 0 (2 ^ 64),
      .linkTrained (.port 16),
      .laneTrainFail 16,
      .helloSendTimer (.port 16),
      .helloLossTimeout (.port 16),
      .linkDownRetrainExpiry (.port 16),
      .linkDrained (.port 16),
      .lnack (.port 16) hop0,
      .lnack (.port 0) { hop0 with lseq := 4096 },
      .lack (.port 16) hop0 0,
      .lack (.port 0) { hop0 with lack := 4096 } 0,
      .lack (.port 0) hop0 1,
      .linkReplayExpiry (.port 16),
      .linkTimeoutExpiry (.port 16),
      .orderedFrameAccept { frame0 with dst := 65536 },
      .oack { frame0 with dst := 65536 },
      .oretxExpiry 65536,
      .probeExpiry 65536,
      .signalFrame { frame0 with dst := 65536 },
      .coverHoldExpiry 65536,
      .loadFrame { frame0 with dst := 65536 },
      .storeFrame { frame0 with dst := 65536 },
      .atomicFrame { frame0 with dst := 65536 },
      .remoteResponse { frame0 with dst := 65536 },
      .remoteTimeoutExpiry (.frame (2 ^ 20) 0),
      .remoteTimeoutExpiry (.frame 0 (2 ^ 64)),
      .fabAssignNumber 65536,
      .mgmtFrame { frame0 with dst := 65536 },
      .mgmtResp { frame0 with dst := 65536 },
      .fabRtEntryWrite (2 ^ 64),
      .fabRegionBaseWrite (2 ^ 64),
      .regionRegister (2 ^ 20)] : List Instr).all (fun c => !c.wellFormed) = true := by decide +kernel

/-- Ill-formed commands, one for each check (part 5). -/
theorem test_ill_formed_5 :
    ([.regionRevoke (2 ^ 20),
      .regionRead (2 ^ 20),
      .sprayNak { frame0 with dst := 65536 },
      .engineNak { frame0 with dst := 65536 },
      .engineNakRetryExpiry 65536,
      .fabPeerWrite 36 0,
      .fabPeerWrite 0 (2 ^ 64),
      .fabCtrlWrite (2 ^ 64),
      .fabTimeoutWrite (2 ^ 64),
      .rekeyStart (.port 16),
      .xfrQDWrite 1024 0,
      .xfrQDWrite 0 (2 ^ 64),
      .xfrQueueCfgWrite (2 ^ 32) 0,
      .xfrQueueCfgWrite 0 (2 ^ 64),
      .xfrWrite 1024,
      .xfrRead 1024,
      .xfrAtomic 1024,
      .xfrSignal 1024,
      .xfrCopy 1024,
      .xfrCopyDone 1024 0,
      .xfrCopyDone 0 (2 ^ 24),
      .xfrNop 1024,
      .umberWrite 1024,
      .umberRead 1024,
      .xfrReduce 1024,
      .writePacket { frame0 with dst := 65536 },
      .msgDone 65536 0 0 .ok,
      .msgDone 0 (2 ^ 32) 0 .ok,
      .msgDone 0 0 (2 ^ 32) .ok,
      .msgTimeoutExpiry 1024 0,
      .msgTimeoutExpiry 0 (2 ^ 24),
      .readFrame { frame0 with dst := 65536 },
      .readData { frame0 with dst := 65536 },
      .tagQuietExpiry (2 ^ 20),
      .reducePacket { frame0 with dst := 65536 },
      .reduceDownPacket { frame0 with dst := 65536 },
      .xfrMsgBaseWrite (2 ^ 64),
      .xfrGroupWrite (2 ^ 32) 0,
      .xfrGroupWrite 0 (2 ^ 64),
      .xfrCfgWrite (2 ^ 64),
      .synCtrDataWrite (2 ^ 64),
      .barrierConfigure 4096,
      .barrierFree 4096,
      .arriveAtBarrier { frame0 with dst := 65536 },
      .releaseAck 65536 0 0,
      .releaseAck 0 4096 0,
      .releaseAck 0 0 65536,
      .barrierRelease 65536 0 0,
      .barrierRelease 0 4096 0,
      .barrierRelease 0 0 65536,
      .barrierAbort 65536 0 0 .ok,
      .barrierAbort 0 4096 0 .ok,
      .barrierAbort 0 0 65536 .ok,
      .waitLimitExpiry 128,
      .waitGateExpiry 128,
      .prayrNop { pkt0 with src := 2 ^ 128 } [],
      .caps { pkt0 with src := 2 ^ 128 },
      .cancel { pkt0 with src := 2 ^ 128 } 0,
      .cancel pkt0 (2 ^ 64),
      .pause { pkt0 with src := 2 ^ 128 } 0 0] : List Instr).all (fun c => !c.wellFormed) = true := by decide +kernel

/-- Ill-formed commands, one for each check (part 6). -/
theorem test_ill_formed_6 :
    ([.pause pkt0 (2 ^ 64) 0,
      .pause pkt0 0 (2 ^ 32),
      .queryReq { pkt0 with src := 2 ^ 128 } 0,
      .queryReq pkt0 (2 ^ 64),
      .tokenAck { pkt0 with src := 2 ^ 128 } 0 0 0,
      .tokenAck pkt0 (2 ^ 64) 0 0,
      .tokenAck pkt0 0 (2 ^ 32) 0,
      .tokenAck pkt0 0 0 (2 ^ 32),
      .setTtl { pkt0 with src := 2 ^ 128 } 0 0,
      .setTtl pkt0 (2 ^ 64) 0,
      .setTtl pkt0 0 (2 ^ 32),
      .move { pkt0 with src := 2 ^ 128 } 0 0,
      .move pkt0 (2 ^ 64) 0,
      .move pkt0 0 65536,
      .csrRead { pkt0 with src := 2 ^ 128 } 0 0 0,
      .csrRead pkt0 65536 0 0,
      .csrRead pkt0 0 (2 ^ 32) 0,
      .csrRead pkt0 0 0 (2 ^ 32),
      .csrWrite { pkt0 with src := 2 ^ 128 } 0 0 [],
      .csrWrite pkt0 65536 0 [],
      .csrWrite pkt0 0 (2 ^ 32) [],
      .eventPull { pkt0 with src := 2 ^ 128 } 0 0,
      .eventPull pkt0 (2 ^ 64) 0,
      .eventPull pkt0 0 64,
      .resetWarm { pkt0 with src := 2 ^ 128 },
      .resetCompute { pkt0 with src := 2 ^ 128 },
      .resetComputeScrub { pkt0 with src := 2 ^ 128 },
      .qpDestroy { pkt0 with src := 2 ^ 128 } 0,
      .qpDestroy pkt0 16384,
      .prayrBadOpcode { pkt0 with src := 2 ^ 128 } 0,
      .prayrBadOpcode pkt0 256,
      .tokenRetxExpiry (2 ^ 64),
      .roceAckTimeout 16384,
      .roceNak 16384 0,
      .roceNak 0 256,
      .roceCnp 16384,
      .roceRateRecovery 16384,
      .hcpWindowWrite (2 ^ 32) 0,
      .hcpWindowWrite 0 (2 ^ 64),
      .windowCloseDone 64,
      .hcpRegWrite (2 ^ 32) 0,
      .hcpRegWrite 0 (2 ^ 64),
      .trfMeterWrite (2 ^ 32) 0,
      .trfMeterWrite 0 (2 ^ 64),
      .shaperWrite (2 ^ 32) 0,
      .shaperWrite 0 (2 ^ 64),
      .i3cPrivateRead 256,
      .i3cEntdaa 128,
      .bootStageDone .ok [] [9],
      .tileServiceOffline { pkt0 with src := 2 ^ 128 } 0,
      .tileServiceOffline pkt0 32,
      .tileServiceOnline { pkt0 with src := 2 ^ 128 } 0,
      .tileServiceOnline pkt0 32] : List Instr).all (fun c => !c.wellFormed) = true := by decide +kernel

/-- Ill-formed commands, one for each check (part 7). -/
theorem test_ill_formed_7 :
    ([.tileOnlineTestDone 32 [],
      .channelRetire { pkt0 with src := 2 ^ 128 } 0 0,
      .channelRetire pkt0 20 0,
      .channelRetire pkt0 0 32,
      .imgActivate { pkt0 with src := 2 ^ 128 } 0 false,
      .imgActivate pkt0 16 false,
      .imgStatus { pkt0 with src := 2 ^ 128 },
      .imageHealthExpiry 16,
      .bcastSend { pkt0 with src := 2 ^ 128 } 0,
      .bcastSend pkt0 65536,
      .bcastStatus { pkt0 with src := 2 ^ 128 } 0,
      .bcastStatus pkt0 65536,
      .bcastClose { pkt0 with src := 2 ^ 128 } 0,
      .bcastClose pkt0 65536,
      .bcastPacket { frame0 with dst := 65536 },
      .bcastEnd 65536 0 0,
      .bcastEnd 0 65536 0,
      .bcastEnd 0 0 (2 ^ 32),
      .repairReq 65536 0 0 0,
      .repairReq 0 65536 0 0,
      .repairReq 0 0 (2 ^ 32) 0,
      .repairReq 0 0 0 (2 ^ 32),
      .repairNak 65536 0 0 0,
      .repairNak 0 65536 0 0,
      .repairNak 0 0 (2 ^ 32) 0,
      .repairNak 0 0 0 (2 ^ 32),
      .statusQuery 65536 0,
      .statusQuery 0 65536,
      .statusReply 65536 0 0 false,
      .statusReply 0 65536 0 false,
      .statusReply 0 0 (2 ^ 32) false,
      .repairWaitExpiry 65536,
      .imageHashDone 65536,
      .imageSlotWriteDone 65536,
      .licInstall { pkt0 with src := 2 ^ 128 } [],
      .licList { pkt0 with src := 2 ^ 128 },
      .licRemove { pkt0 with src := 2 ^ 128 } 0,
      .licRemove pkt0 (2 ^ 64),
      .licenceLapse (2 ^ 64),
      .defectRead { pkt0 with src := 2 ^ 128 } 0 0,
      .defectRead pkt0 (2 ^ 32) 0,
      .defectRead pkt0 0 (2 ^ 32),
      .defectClear { pkt0 with src := 2 ^ 128 },
      .attest { pkt0 with src := 2 ^ 128 } 0,
      .attest pkt0 (2 ^ 512),
      .certRead { pkt0 with src := 2 ^ 128 } 0,
      .certRead pkt0 8,
      .approvalOpen { pkt0 with src := 2 ^ 128 } 0 0,
      .approvalOpen pkt0 256 0,
      .approvalOpen pkt0 0 (2 ^ 512),
      .approve { pkt0 with src := 2 ^ 128 } 0 0 0,
      .approve pkt0 16 0 0,
      .approve pkt0 0 4 0,
      .approve pkt0 0 0 (2 ^ 4096),
      .approverEnrolAdd { pkt0 with src := 2 ^ 128 } 0 0,
      .approverEnrolAdd pkt0 16 0,
      .approverEnrolAdd pkt0 0 (2 ^ 4096),
      .approverEnrolRemove { pkt0 with src := 2 ^ 128 } 0,
      .approverEnrolRemove pkt0 16,
      .policySet { pkt0 with src := 2 ^ 128 } 0 0] : List Instr).all (fun c => !c.wellFormed) = true := by decide +kernel

/-- Ill-formed commands, one for each check (part 8). -/
theorem test_ill_formed_8 :
    ([.policySet pkt0 (2 ^ 64) 0,
      .policySet pkt0 0 (2 ^ 64),
      .hostSet { pkt0 with src := 2 ^ 128 } 0 0 0 0 0,
      .hostSet pkt0 16 0 0 0 0,
      .hostSet pkt0 0 (2 ^ 64) 0 0 0,
      .hostSet pkt0 0 0 (2 ^ 64) 0 0,
      .hostSet pkt0 0 0 0 (2 ^ 64) 0,
      .hostSet pkt0 0 0 0 0 (2 ^ 64),
      .debugUnlock { pkt0 with src := 2 ^ 128 } 0,
      .debugUnlock pkt0 (2 ^ 64),
      .debugRelock { pkt0 with src := 2 ^ 128 } 0,
      .debugRelock pkt0 (2 ^ 64),
      .approvalDeadlineExpiry 4,
      .inputWarnCross 65536,
      .railWarnCross 9 0,
      .railWarnCross 0 65536,
      .railClearDone 9,
      .railResetCross 9 0,
      .railResetCross 0 65536,
      .powerWindowExpiry 65536,
      .pcrPowerLimitWrite (2 ^ 64),
      .pcrGateCfgWrite (2 ^ 64),
      .coreIdleExpiry 128,
      .tileIdleExpiry 32,
      .coreWakeDone 128,
      .hbmPowerdownIdle 20 0,
      .hbmPowerdownIdle 0 32,
      .jtagExtest (2 ^ 64),
      .patrolScrubPass 20 0 [],
      .patrolScrubPass 0 32 [],
      .ceWindowExpiry 20 0,
      .ceWindowExpiry 0 32,
      .evtEccCfgWrite (2 ^ 64),
      .portLockLoss (.port 16),
      .standaloneOackExpiry 65536,
      .rekeyDeadline (.port 16),
      .shaperRelease 36,
      .imageHealthy 16,
      .inputRecoveryRestart 65536,
      .railClearRestart 9 0,
      .railClearRestart 0 65536] : List Instr).all (fun c => !c.wellFormed) = true := by decide +kernel

/-- Ill-formed commands, one for each check (part 9). -/
theorem test_ill_formed_9 :
    ([.hostArp (2 ^ 32) ⟨none, 0⟩,
      .hostArp 0 ⟨some 4096, 0⟩,
      .hostNeighbourSolicit 0 ⟨none, 2 ^ 128⟩,
      .hostIcmpEcho (2 ^ 128) ⟨none, 0⟩ [],
      .hostRdmaWrite { roceHdr0 with qp := 16384 } 0 0 [],
      .hostRdmaWrite { roceHdr0 with psn := 2 ^ 24 } 0 0 [],
      .hostRdmaWrite roceHdr0 (2 ^ 32) 0 [],
      .hostRdmaWrite roceHdr0 0 (2 ^ 64) [],
      .hostRdmaRead { roceHdr0 with net := netTo 65536 } 0 0 0,
      .hostRdmaRead roceHdr0 (2 ^ 32) 0 0,
      .hostRdmaRead roceHdr0 0 (2 ^ 64) 0,
      .roceCompletion 16384 ⟨false, []⟩] : List Instr).all (fun c => !c.wellFormed) = true := by decide +kernel

/-- Mezzotint messages and frames ill-formed in one header field each, and well-formed ones. -/
theorem test_ill_formed_headers :
    ([.mztQuery 0 { mzt0 with req := 2 ^ 64 },
      .mztQuery 0 { mzt0 with epoch := 2 ^ 32 },
      .mztQuery 0 { mzt0 with tag := 2 ^ 32 },
      .mztQuery 0 { mzt0 with format := 16 },
      .mztQuery 0 { mzt0 with modelId := 65536 },
      .mztQuery 0 { mzt0 with layer := 65536 },
      .mztQuery 0 { mzt0 with policyVersion := 2 ^ 32 },
      .mztQuery 0 { mzt0 with basePos := 2 ^ 32 },
      .mztQuery 0 { mzt0 with scale := 2 ^ 32 },
      .mztQuery 0 { mzt0 with window := 2 ^ 32 },
      .mztQuery 0 { mzt0 with rows := 512 },
      .mztQuery 0 { mzt0 with qheads := 512 },
      .mztQuery 0 { mzt0 with headDim := 512 },
      .mztQuery 0 { mzt0 with kvHeads := 256 },
      .mztQuery 0 { mzt0 with pages := 2 ^ 32 },
      .mztQuery 0 { mzt0 with check := 2 ^ 32 },
      .dataFrameReceive (.port 0) { hop0 with proto := 16 } frame0,
      .dataFrameReceive (.port 0) { hop0 with kind := 4 } frame0,
      .dataFrameReceive (.port 0) { hop0 with lseq := 4096 } frame0,
      .dataFrameReceive (.port 0) { hop0 with lack := 4096 } frame0,
      .dataFrameReceive (.port 0) { hop0 with creditClass := 4 } frame0,
      .dataFrameReceive (.port 0) { hop0 with credits := 4096 } frame0,
      .dataFrameReceive (.port 0) { hop0 with cls := 4 } frame0,
      .dataFrameReceive (.port 0) { hop0 with type := 256 } frame0,
      .dataFrameReceive (.port 0) { hop0 with eth := { hop0.eth with da := 2 ^ 48 } } frame0,
      .dataFrameReceive (.port 0) { hop0 with eth := { hop0.eth with sa := 2 ^ 48 } } frame0,
      .dataFrameReceive (.port 0) { hop0 with eth := { hop0.eth with tag := some 65536 } } frame0,
      .dataFrameReceive (.port 0) { hop0 with eth := { hop0.eth with etherType := 65536 } } frame0,
      .dataFrameReceive (.port 0) { hop0 with tagKey := 3 } frame0,
      .dataFrameReceive (.port 0) hop0 { frame0 with rsrFormat := 256 },
      .mztKvWrite 0 { mzt0 with format := 16 },
      .mztKvAck 0 { mzt0 with format := 16 },
      .mztPartial 0 { mzt0 with format := 16 }] : List Instr).all (fun c => !c.wellFormed) = true ∧
    (Instr.mztQuery 0 mzt0).wellFormed = true ∧ (Instr.dataFrameReceive (.port 0) hop0 frame0).wellFormed = true := by
  decide +kernel

/-- A Mezzotint payload longer than PAYLOAD_BYTES can say. -/
theorem test_ill_formed_payload (l : List Byte) (h : 2 ^ 32 ≤ l.length) :
    (Instr.mztQuery 0 { mzt0 with payload := l }).wellFormed = false := by
  have h' : decide (l.length < 2 ^ 32) = false := decide_eq_false (by omega)
  simp only [Instr.wellFormed, MztMsg.wellFormed, h', Bool.and_false, Bool.false_and]

/-- Ill-formed commands, one for each check, whatever they carry beside. -/
theorem test_ill_formed_any :
    (∀ x3, (Instr.mirrorWrite 65536 0 ⟨0, 0⟩ x3 []).wellFormed = false) ∧
    (∀ x3, (Instr.mirrorWrite 0 (2 ^ 64) ⟨0, 0⟩ x3 []).wellFormed = false) ∧
    (∀ x3, (Instr.mirrorWrite 0 0 ⟨2 ^ 32, 0⟩ x3 []).wellFormed = false) ∧
    (∀ x3, (Instr.mirrorWrite 0 0 ⟨0, 2 ^ 32⟩ x3 []).wellFormed = false) ∧
    (∀ x4, (Instr.ownQuery 65536 0 0 false x4).wellFormed = false) ∧
    (∀ x4, (Instr.ownQuery 0 (2 ^ 64) 0 false x4).wellFormed = false) ∧
    (∀ x4, (Instr.ownQuery 0 0 (2 ^ 32) false x4).wellFormed = false) ∧
    (∀ x2, (Instr.resyncReply 65536 false x2).wellFormed = false) ∧
    (∀ x1, (Instr.place 65536 x1).wellFormed = false) ∧
    (∀ x1, (Instr.stepNote 65536 x1).wellFormed = false) ∧
    (∀ x1, (Instr.mvPrepare 65536 x1).wellFormed = false) ∧
    (∀ x3, (Instr.fwdPause 65536 0 0 x3).wellFormed = false) ∧
    (∀ x3, (Instr.fwdPause 0 (2 ^ 64) 0 x3).wellFormed = false) ∧
    (∀ x3, (Instr.fwdPause 0 0 (2 ^ 32) x3).wellFormed = false) ∧
    (∀ x4, (Instr.fwdMove 65536 0 0 0 x4).wellFormed = false) ∧
    (∀ x4, (Instr.fwdMove 0 (2 ^ 64) 0 0 x4).wellFormed = false) ∧
    (∀ x4, (Instr.fwdMove 0 0 (2 ^ 32) 0 x4).wellFormed = false) ∧
    (∀ x4, (Instr.fwdMove 0 0 0 65536 x4).wellFormed = false) ∧
    (∀ x1, (Instr.final 65536 x1).wellFormed = false) ∧
    (∀ x3, (Instr.notOwner 65536 0 0 x3).wellFormed = false) ∧
    (∀ x3, (Instr.notOwner 0 (2 ^ 64) 0 x3).wellFormed = false) ∧
    (∀ x3, (Instr.notOwner 0 0 (2 ^ 32) x3).wellFormed = false) ∧
    (∀ x1, (Instr.migrationStart (2 ^ 24) x1).wellFormed = false) ∧
    (∀ x2, (Instr.migrationCopy 65536 0 x2 []).wellFormed = false) ∧
    (∀ x2, (Instr.migrationCopy 0 (2 ^ 24) x2 []).wellFormed = false) ∧
    (∀ x2, (Instr.pgLocateReply 65536 0 x2).wellFormed = false) ∧
    (∀ x2, (Instr.pgLocateReply 0 (2 ^ 64) x2).wellFormed = false) ∧
    (∀ x1, (Instr.mztQuery 65536 x1).wellFormed = false) ∧
    (∀ x1, (Instr.mztKvWrite 65536 x1).wellFormed = false) ∧
    (∀ x1, (Instr.mztKvAck 65536 x1).wellFormed = false) ∧
    (∀ x1, (Instr.mztPartial 65536 x1).wellFormed = false) ∧
    (∀ x1, (Instr.hello (.port 16) x1).wellFormed = false) ∧
    (∀ x1, (Instr.linkFailedRecheck (.port 16) x1).wellFormed = false) ∧
    (∀ x1, (Instr.dataFrameReceive (.port 16) x1 frame0).wellFormed = false) ∧
    (∀ x1, (Instr.dataFrameReceive (.port 0) x1 { frame0 with dst := 65536 }).wellFormed = false) ∧
    (∀ x1, (Instr.fabricNotice 65536 x1).wellFormed = false) ∧
    (∀ x1, (Instr.rekeyHello (.port 16) x1).wellFormed = false) ∧
    (∀ x1, (Instr.msgOpen 65536 x1).wellFormed = false) ∧
    (∀ x1, (Instr.msgAbort 65536 x1).wellFormed = false) ∧
    (∀ x1, (Instr.submit { pkt0 with src := 2 ^ 128 } x1 []).wellFormed = false) ∧
    (∀ x1, (Instr.resume { pkt0 with src := 2 ^ 128 } x1 []).wellFormed = false) ∧
    (∀ x1, (Instr.qpSetup { pkt0 with src := 2 ^ 128 } x1).wellFormed = false) ∧
    (∀ x1, (Instr.bcastOpen { pkt0 with src := 2 ^ 128 } x1 [] [] []).wellFormed = false) :=
  by and_intros <;> exact fun _ => rfl

/-- Ill-formed packet headers, frame headers and links, one for each check. -/
theorem test_ill_formed_parts :
    ([{ pkt0 with net := { netTo 0 with dst := 2 ^ 128 } }, { pkt0 with net := { netTo 0 with vlan := some 4096 } }, { pkt0 with src := 2 ^ 128 }, { pkt0 with port := 65536 }, { pkt0 with session := 2 ^ 32 }, { pkt0 with seq := 2 ^ 64 }, { pkt0 with tenant := 65536 }, { pkt0 with version := 256 }, { pkt0 with kind := 16 }] : List HostPkt).all (fun p => !p.wellFormed) = true
    ∧ ([{ frame0 with dst := 65536 }, { frame0 with src := 65536 }, { frame0 with hops := 64 }, { frame0 with incarnation := 256 }, { frame0 with oseq := 2 ^ 32 }, { frame0 with oack := 2 ^ 32 }] : List Frame).all (fun f => !f.wellFormed) = true
    ∧ ([(.port 16), (.virt 256)] : List LinkId).all (fun l => !l.wellFormed) = true := by decide +kernel

/-! ### States that meet the hypotheses -/

/-- States that meet the hypotheses of `AccessTypes` (clauses 1, 2, 3, 4, 5). -/
theorem witness_AccessTypes_1 :
    (∃ (s : State) (addr : Nat) (v : Nat) (r : RegRow) (f : FldRow),
    s.canonical ∧ regRowAt addr = some r ∧ f ∈ r.fields ∧ f.acc = .rw)
    ∧ (∃ (s : State) (addr : Nat) (v : Nat) (r : RegRow) (f : FldRow),
    s.canonical ∧ regRowAt addr = some r ∧ f ∈ r.fields ∧ f.acc = .w1c)
    ∧ (∃ (s : State) (addr : Nat) (v : Nat) (r : RegRow) (f : FldRow),
    s.canonical ∧ regRowAt addr = some r ∧ f ∈ r.fields ∧ (f.acc = .ro ∨ f.acc = .rc))
    ∧ (∃ (s : State) (addr : Nat) (v : Nat) (r : RegRow) (f : FldRow),
    s.canonical ∧ regRowAt addr = some r ∧ f ∈ r.fields ∧ (f.acc = .ro ∨ f.acc = .rc))
    ∧ (∃ (s : State) (addr : Nat) (r : RegRow) (f : FldRow),
    s.canonical ∧ regRowAt addr = some r ∧ f ∈ r.fields ∧ f.acc = .rc)
    ∧ (∃ (s : State) (addr : Nat) (r : RegRow) (f : FldRow),
    s.canonical ∧ regRowAt addr = some r ∧ f ∈ r.fields ∧ f.acc ≠ .rc) :=
  ⟨⟨State.reset, 0x280018, 50 * 2 ^ 48, ((regRowAt 0x280018).getD ⟨"", 0, 0, 0, 0, 0, []⟩), (((regRowAt 0x280018).getD ⟨"", 0, 0, 0, 0, 0, []⟩).fields.getD 0 ⟨"", 0, 0, .ro, 0⟩), by unfold State.canonical; decide +kernel, by decide +kernel, by decide +kernel, by decide +kernel⟩,
   ⟨(State.reset.setReg (R.CORE_ARITH_FLAGS_SATURATED 0) 1), 0x1000010, 4, ((regRowAt 0x1000010).getD ⟨"", 0, 0, 0, 0, 0, []⟩), (((regRowAt 0x1000010).getD ⟨"", 0, 0, 0, 0, 0, []⟩).fields.getD 1 ⟨"", 0, 0, .ro, 0⟩), by unfold State.canonical; decide +kernel, by decide +kernel, by decide +kernel, by decide +kernel⟩,
   ⟨(State.reset.setReg R.FAB_STATS_KEY_REFUSALS 5), 0x2800A0, 0, ((regRowAt 0x2800A0).getD ⟨"", 0, 0, 0, 0, 0, []⟩), (((regRowAt 0x2800A0).getD ⟨"", 0, 0, 0, 0, 0, []⟩).fields.getD 0 ⟨"", 0, 0, .ro, 0⟩), by unfold State.canonical; decide +kernel, by decide +kernel, by decide +kernel, by decide +kernel⟩,
   ⟨State.reset, 0x8, 1, ((regRowAt 0x8).getD ⟨"", 0, 0, 0, 0, 0, []⟩), (((regRowAt 0x8).getD ⟨"", 0, 0, 0, 0, 0, []⟩).fields.getD 0 ⟨"", 0, 0, .ro, 0⟩), by unfold State.canonical; decide +kernel, by decide +kernel, by decide +kernel, by decide +kernel⟩,
   ⟨(State.reset.setReg R.FAB_STATS_KEY_REFUSALS 5), 0x2800A0, ((regRowAt 0x2800A0).getD ⟨"", 0, 0, 0, 0, 0, []⟩), (((regRowAt 0x2800A0).getD ⟨"", 0, 0, 0, 0, 0, []⟩).fields.getD 0 ⟨"", 0, 0, .ro, 0⟩), by unfold State.canonical; decide +kernel, by decide +kernel, by decide +kernel, by decide +kernel⟩,
   ⟨State.reset, 0x280018, ((regRowAt 0x280018).getD ⟨"", 0, 0, 0, 0, 0, []⟩), (((regRowAt 0x280018).getD ⟨"", 0, 0, 0, 0, 0, []⟩).fields.getD 0 ⟨"", 0, 0, .ro, 0⟩), by unfold State.canonical; decide +kernel, by decide +kernel, by decide +kernel, by decide +kernel⟩⟩

/-- States that meet the hypotheses of `AccessTypes` (clauses 6). -/
theorem witness_AccessTypes_2 :
    ∃ (s : State) (addr : Nat) (v : Nat) (r : RegRow) (g : Fld),
    s.canonical ∧ regRowAt addr = some r ∧ (∀ f, f ∈ r.fields → (f.at addr).key ≠ g.key) :=
  ⟨State.reset, 0x280018, 5, ((regRowAt 0x280018).getD ⟨"", 0, 0, 0, 0, 0, []⟩), R.FAB_STATS_KEY_REFUSALS, by unfold State.canonical; decide +kernel, by decide +kernel, by decide +kernel⟩

/-- States that meet the hypotheses of `ControlSpace` (clauses 1, 2, 3, 4). -/
theorem witness_ControlSpace_1 :
    (∃ (s : State) (addr : Nat) (v : Nat),
    addr % 8 ≠ 0)
    ∧ (∃ (s : State) (addr : Nat) (v : Nat),
    (s.absentBlock addr = true ∨ regRowAt addr = none))
    ∧ (∃ (s : State) (addr : Nat) (v : Nat),
    (s.absentBlock addr = true ∨ regRowAt addr = none))
    ∧ (∃ (s : State) (addr : Nat),
    addr % 8 = 0 ∧ (s.absentBlock addr = true ∨ regRowAt addr = none))
    ∧ (∃ (s : State) (addr : Nat),
    addr % 8 = 0 ∧ (s.absentBlock addr = true ∨ regRowAt addr = none))
    ∧ (∃ (s : State) (addr : Nat) (v : Nat),
    (0x500000 ≤ addr ∧ addr < 0x700000 ∨ addr = 0x280098 ∨ s.flag R.SEC_STATE_HOST_LOCK = true ∧ 0x11000 ≤ addr ∧ addr < 0x11200)) :=
  ⟨⟨State.reset, 4, 5, by decide +kernel⟩,
   ⟨State.reset, 0xF00000, 5, by decide +kernel⟩,
   ⟨State.reset.setReg R.CAP_TILES_TILE_PRESENT 0, 0x1000008, 5, by decide +kernel⟩,
   ⟨State.reset, 0xF00000, by and_intros <;> decide +kernel⟩,
   ⟨State.reset.setReg R.CAP_TILES_TILE_PRESENT 0, 0x1000008, by and_intros <;> decide +kernel⟩,
   ⟨State.reset, 0x500000, 5, by decide +kernel⟩⟩

/-- States that meet the hypotheses of `ControlSpace` (clauses 4, 5, 6, 7). -/
theorem witness_ControlSpace_2 :
    (∃ (s : State) (addr : Nat) (v : Nat),
    (0x500000 ≤ addr ∧ addr < 0x700000 ∨ addr = 0x280098 ∨ s.flag R.SEC_STATE_HOST_LOCK = true ∧ 0x11000 ≤ addr ∧ addr < 0x11200))
    ∧ (∃ (s : State) (addr : Nat) (v : Nat),
    (0x500000 ≤ addr ∧ addr < 0x700000 ∨ addr = 0x280098 ∨ s.flag R.SEC_STATE_HOST_LOCK = true ∧ 0x11000 ≤ addr ∧ addr < 0x11200))
    ∧ (∃ (s : State) (addr : Nat) (v : Nat),
    (0x500000 ≤ addr ∧ addr < 0x700000 ∨ addr = 0x280098 ∨ s.flag R.SEC_STATE_HOST_LOCK = true ∧ 0x11000 ≤ addr ∧ addr < 0x11200))
    ∧ (∃ (s : State) (addr : Nat) (v : Nat),
    addr < 0x10000)
    ∧ (∃ (s : State) (addr : Nat) (v : Nat),
    addr % 8 = 0 ∧ (regRowAt addr).isSome = true ∧ 0x800000 ≤ addr ∧ addr < 0x1000000 ∧ addr ≠ 0x800018)
    ∧ (∃ (s : State) (t : State) (addr : Nat) (v : Nat) (x : St),
    addr % 8 = 0 ∧ s.absentBlock addr = false ∧ (regRowAt addr).isSome = true ∧ s.csrGuarded addr = false ∧ s.regWrite addr (v % 2 ^ 64) = (t, x)) :=
  ⟨⟨State.reset, 0x6FFFF8, 5, by decide +kernel⟩,
   ⟨State.reset, 0x280098, 5, by decide +kernel⟩,
   ⟨State.reset.setReg R.SEC_STATE_HOST_LOCK 1, 0x11000, 5, by decide +kernel⟩,
   ⟨State.reset, 8, 5, by decide +kernel⟩,
   ⟨State.reset, 0x800000, 5, by and_intros <;> decide +kernel⟩,
   ⟨State.reset, (State.reset.regWrite 0x400020 5).1, 0x400020, 5, (State.reset.regWrite 0x400020 5).2, by and_intros <;> decide +kernel⟩⟩

/-- States that meet the hypotheses of `ControlSpace` (clauses 8, 9, 10, 11). -/
theorem witness_ControlSpace_3 :
    (∃ (s : State) (n : Nat),
    n < 65536 ∧ s.flag R.CAP_NODE_NODE_VALID = false ∧ 1 ≤ s.reg R.CAP_LIMITS_DOMAIN_MAX)
    ∧ (∃ (s : State) (n : Nat),
    (s.flag R.CAP_NODE_NODE_VALID = true ∨ s.reg R.CAP_LIMITS_DOMAIN_MAX = 0))
    ∧ (∃ (s : State) (n : Nat),
    (s.flag R.CAP_NODE_NODE_VALID = true ∨ s.reg R.CAP_LIMITS_DOMAIN_MAX = 0))
    ∧ (∃ (s : State),
    s.rse.homes = [] ∧ s.rse.works = [] ∧ s.flag R.CAP_NODE_NODE_VALID = true)
    ∧ (∃ (s : State),
    (s.rse.homes ≠ [] ∨ s.rse.works ≠ []))
    ∧ (∃ (s : State),
    (s.rse.homes ≠ [] ∨ s.rse.works ≠ [])) :=
  ⟨⟨State.reset.setRegs [(R.CAP_LIMITS_DOMAIN_MAX, 4)], 65535, by and_intros <;> decide +kernel⟩,
   ⟨State.reset, 5, by decide +kernel⟩,
   ⟨State.reset.setRegs [(R.CAP_LIMITS_DOMAIN_MAX, 4), (R.CAP_NODE_NODE_VALID, 1)], 5, by decide +kernel⟩,
   ⟨State.reset.setRegs [(R.CAP_LIMITS_DOMAIN_MAX, 4), (R.CAP_NODE_NODE_VALID, 1)], by and_intros <;> decide +kernel⟩,
   ⟨withHome home0, by decide +kernel⟩,
   ⟨withWork work0, by decide +kernel⟩⟩

/-- States that meet the hypotheses of `ControlSpace` (clauses 12, 13, 14, 15, 16). -/
theorem witness_ControlSpace_4 :
    (∃ (s : State) (v : Nat),
    bitAt v 63 = true ∧ (s.fab.routes.filter fun r => r.valid && r.dst != s.reg R.FAB_RT_INDEX_INDEX).length + 1 < s.reg R.CAP_LIMITS_DOMAIN_MAX)
    ∧ (∃ (s : State) (v : Nat),
    bitAt v 63 = true ∧ s.reg R.CAP_LIMITS_DOMAIN_MAX ≤ (s.fab.routes.filter fun r => r.valid && r.dst != s.reg R.FAB_RT_INDEX_INDEX).length + 1)
    ∧ (∃ (s : State) (v : Nat) (r : Route) (g : Frame) (gs : List Frame),
    bitAt v 63 = false ∧ s.fab.routes = [r] ∧ r.dst = s.reg R.FAB_RT_INDEX_INDEX ∧ r.valid = true ∧ ¬ (s.flag R.CAP_NODE_NODE_VALID = true ∧ r.dst = s.node) ∧ (s.outCh r.dst).unacked = g :: gs)
    ∧ (∃ (s : State) (v : Nat),
    bitAt v 63 = false ∧ s.route? (s.reg R.FAB_RT_INDEX_INDEX) = none)
    ∧ (∃ (s : State),
    s.flag R.CAP_NODE_NODE_VALID = true) :=
  ⟨⟨State.reset.setReg R.CAP_LIMITS_DOMAIN_MAX 2, 2 ^ 63, by and_intros <;> decide +kernel⟩,
   ⟨State.reset.setReg R.CAP_LIMITS_DOMAIN_MAX 1, 2 ^ 63, by and_intros <;> decide +kernel⟩,
   ⟨((State.reset.setRegs [(R.CAP_LIMITS_DOMAIN_MAX, 4), (R.FAB_RT_INDEX_INDEX, 7)]).putOut { dst := 7, begun := true, nextSeq := 3, unacked := [frame0], waiting := [], retx := 0, unreachable := false, sent := 0, limits := [(0, 8)] }).onFab fun f => { f with routes := [routeOf 7 (2 ^ 63)] }, 0, routeOf 7 (2 ^ 63), frame0, [], by and_intros <;> decide +kernel⟩,
   ⟨State.reset, 5, by and_intros <;> decide +kernel⟩,
   ⟨State.reset.setReg R.CAP_NODE_NODE_VALID 1, by decide +kernel⟩⟩

/-- States that meet the hypotheses of `Mirroring` (clauses 2, 3, 4, 6, 7, 8). -/
theorem witness_Mirroring_1 :
    (∃ (s : State),
    s.flag R.RSE_DEPUTY_VALID = true ∧ s.rse.bind = .sent ∧ s.rse.homes = [] ∧ s.rse.resyncNeeded = false)
    ∧ (∃ (s : State),
    s.rse.bind = .copying ∧ s.rse.mirrorOut = [] ∧ s.rse.resyncNeeded = false)
    ∧ (∃ (s : State) (st : St),
    s.flag R.RSE_DEPUTY_VALID = true ∧ s.rse.bind = .sent ∧ st ≠ .homeAdopted)
    ∧ (∃ (s : State) (v : Nat),
    bitAt v 32 = false)
    ∧ (∃ (s : State) (v : Nat),
    bitAt v 32 = true ∧ s.rse.mirrorOut = [])
    ∧ (∃ (s : State) (v : Nat) (p : MirrorPend),
    bitAt v 32 = true ∧ s.rse.mirrorOut = [p]) :=
  ⟨⟨((State.reset.setRegs [(R.RSE_DEPUTY_VALID, 1), (R.RSE_DEPUTY_NODE, 9)]).onRse fun e => { e with bind := .sent }), by and_intros <;> decide +kernel⟩,
   ⟨((State.reset.setRegs [(R.RSE_DEPUTY_VALID, 1), (R.RSE_DEPUTY_NODE, 9)]).onRse fun e => { e with bind := .copying }), by and_intros <;> decide +kernel⟩,
   ⟨((State.reset.setRegs [(R.RSE_DEPUTY_VALID, 1), (R.RSE_DEPUTY_NODE, 9)]).onRse fun e => { e with bind := .sent }), .badState, by and_intros <;> decide +kernel⟩,
   ⟨((State.reset.setRegs [(R.RSE_DEPUTY_VALID, 1), (R.RSE_DEPUTY_NODE, 9)]).onRse fun e => { e with bind := .sent }), 8, by decide +kernel⟩,
   ⟨State.reset, 2 ^ 32 + 8, by and_intros <;> decide +kernel⟩,
   ⟨(withHome home0).onRse fun e => { e with mirrorOut := [(⟨5, 1, .note, some home0, none⟩ : MirrorPend)] }, 2 ^ 32 + 8, (⟨5, 1, .note, some home0, none⟩ : MirrorPend), by and_intros <;> decide +kernel⟩⟩

/-- States that meet the hypotheses of `Mirroring` (clauses 9, 10, 11, 12, 13, 14). -/
theorem witness_Mirroring_2 :
    (∃ (s : State) (v : Nat),
    bitAt v 32 = false ∧ s.flag R.RSE_MIRROR_HOME_VALID = true ∧ (∀ m ∈ s.rse.mirrors, (s.home? m.r.id).isSome = true))
    ∧ (∃ (s : State) (v : Nat),
    bitAt v 32 = false ∧ s.flag R.RSE_MIRROR_HOME_VALID = true)
    ∧ (∃ (s : State) (v : Nat),
    bitAt v 63 = true ∧ s.flag R.RSE_MIRROR_HOME_VALID = true ∧ s.rse.mirrors = [] ∧ s.reachable (s.reg R.RSE_MIRROR_HOME_HOME) = true)
    ∧ (∃ (s : State) (v : Nat),
    bitAt v 63 = true ∧ s.flag R.RSE_MIRROR_HOME_VALID = false)
    ∧ (∃ (s : State) (src : Nat) (id : Nat) (seq : Nat) (epoch : Nat) (r' : Option Record) (hist : List Nat),
    s.rse.boundFrom ≠ some src)
    ∧ (∃ (s : State) (src : Nat) (id : Nat) (seq : Nat) (epoch : Nat) (r : Record) (hist : List Nat),
    s.rse.boundFrom = some src ∧ s.flag R.RSE_MIRROR_HOME_VALID = true ∧ s.reg R.RSE_MIRROR_HOME_HOME = src ∧ s.readable r = false) :=
  ⟨⟨(State.reset.setRegs [(R.RSE_MIRROR_HOME_VALID, 1), (R.RSE_MIRROR_HOME_HOME, 4)]), 2 ^ 63, by and_intros <;> decide +kernel⟩,
   ⟨(State.reset.setRegs [(R.RSE_MIRROR_HOME_VALID, 1), (R.RSE_MIRROR_HOME_HOME, 4)]), 4, by and_intros <;> decide +kernel⟩,
   ⟨(State.reset.setRegs [(R.RSE_MIRROR_HOME_VALID, 1), (R.RSE_MIRROR_HOME_HOME, 4)]), 2 ^ 63, by and_intros <;> decide +kernel⟩,
   ⟨State.reset, 2 ^ 63, by and_intros <;> decide +kernel⟩,
   ⟨State.reset, 4, 5, 0, 3, none, [], by decide +kernel⟩,
   ⟨((State.reset.setRegs [(R.RSE_MIRROR_HOME_VALID, 1), (R.RSE_MIRROR_HOME_HOME, 4)]).onRse fun e => { e with boundFrom := some 4 }), 4, 5, 0, 3, { rec0 with formatVersion := 9 }, [], by and_intros <;> decide +kernel⟩⟩

/-- States that meet the hypotheses of `Mirroring` (clauses 15, 16, 17, 18, 19, 20). -/
theorem witness_Mirroring_3 :
    (∃ (s : State) (src : Nat) (id : Nat) (seq : Nat) (epoch : Nat) (r : Record) (hist : List Nat) (m : Mirror),
    s.rse.boundFrom = some src ∧ s.flag R.RSE_MIRROR_HOME_VALID = true ∧ s.reg R.RSE_MIRROR_HOME_HOME = src ∧ s.readable r = true ∧ (s.rse.mirrors.find? fun x => x.r.id == id) = some m ∧ m.fenced.isSome = true ∧ m.r.epoch ≠ r.epoch)
    ∧ (∃ (s : State) (s' : State) (src : Nat) (id : Nat) (seq : Nat) (epoch : Nat) (r : Record) (hist : List Nat),
    s.rse.boundFrom = some src ∧ s.flag R.RSE_MIRROR_HOME_VALID = true ∧ s.reg R.RSE_MIRROR_HOME_HOME = src ∧ s.readable r = true ∧ (s.rse.mirrors.find? fun x => x.r.id == id) = none ∧ (s.takeMsg src (.mirrorWrite id seq epoch (some r) hist)).writeHistory r hist = some s')
    ∧ (∃ (s : State) (src : Nat) (id : Nat) (seq : Nat) (epoch : Nat) (m : Msg),
    m = .mirrorAck id seq epoch ∧ s.fromDeputy src = false)
    ∧ (∃ (s : State) (src : Nat) (id : Nat) (seq : Nat) (epoch : Nat) (p : MirrorPend),
    s.fromDeputy src = true ∧ (s.rse.mirrorOut.find? fun p => p.id == id && p.seq == seq) = some p ∧ p.change = .note ∧ s.home? id = none)
    ∧ (∃ (s : State) (id : Nat) (seq : Nat) (ref : Nat) (p : MirrorPend),
    (s.rse.mirrorOut.find? fun p => p.id == id && p.seq == seq) = some p ∧ p.change = .submit (.here ref) ∧ p.prior = none)
    ∧ (∃ (s : State) (id : Nat) (h : HomeRec),
    s.home? id = some h ∧ h.checkOk = true ∧ h.deferred = some .rebase ∧ (s.rse.mirrorOut.any fun p => p.id == id && decide (p.change ≠ .note)) = false) :=
  ⟨⟨((State.reset.setRegs [(R.RSE_MIRROR_HOME_VALID, 1), (R.RSE_MIRROR_HOME_HOME, 4)]).onRse fun e => { e with boundFrom := some 4, mirrors := [(⟨rec0, [7], some 3, 0⟩ : Mirror)] }), 4, 5, 0, 9, { rec0 with epoch := 9 }, [7], (⟨rec0, [7], some 3, 0⟩ : Mirror), by and_intros <;> decide +kernel⟩,
   ⟨((State.reset.setRegs [(R.RSE_MIRROR_HOME_VALID, 1), (R.RSE_MIRROR_HOME_HOME, 4)]).onRse fun e => { e with boundFrom := some 4 }), (((State.reset.setRegs [(R.RSE_MIRROR_HOME_VALID, 1), (R.RSE_MIRROR_HOME_HOME, 4)]).onRse fun e => { e with boundFrom := some 4 }).takeMsg 4 (.mirrorWrite 5 0 3 (some rec0) [])), 4, 5, 0, 3, rec0, [], by and_intros <;> decide +kernel⟩,
   ⟨State.reset, 4, 5, 1, 3, .mirrorAck 5 1 3, by and_intros <;> decide +kernel⟩,
   ⟨((State.reset.onRse fun e => { e with mirrorOut := [(⟨5, 1, .note, some home0, none⟩ : MirrorPend)] }).setRegs [(R.RSE_DEPUTY_VALID, 1), (R.RSE_DEPUTY_NODE, 4)]), 4, 5, 1, 3, (⟨5, 1, .note, some home0, none⟩ : MirrorPend), by and_intros <;> decide +kernel⟩,
   ⟨((withHome home0).onRse fun e => { e with mirrorOut := [(⟨5, 1, .submit (.here 2), none, some home0⟩ : MirrorPend)] }), 5, 1, 2, (⟨5, 1, .submit (.here 2), none, some home0⟩ : MirrorPend), by and_intros <;> decide +kernel⟩,
   ⟨withHome { home0 with deferred := some .rebase }, 5, { home0 with deferred := some .rebase }, by and_intros <;> decide +kernel⟩⟩

/-- States that meet the hypotheses of `Mirroring` (clauses 21, 22). -/
theorem witness_Mirroring_4 :
    (∃ (s : State) (id : Nat) (h : HomeRec) (lost : Nat),
    s.home? id = some h ∧ h.checkOk = true ∧ h.deferred = some (.recover lost) ∧ (s.rse.mirrorOut.any fun p => p.id == id && decide (p.change ≠ .note)) = false ∧ h.r.epoch + 1 < 2 ^ 32)
    ∧ (∃ (s : State) (src : Nat) (id : Nat) (seq : Nat) (epoch : Nat) (p : MirrorPend) (h : HomeRec) (h' : HomeRec) (k : HomeRec),
    s.fromDeputy src = true ∧ (s.rse.mirrorOut.find? fun p => p.id == id && p.seq == seq) = some p ∧ p.change = .note ∧ p.prior = some h ∧ p.id = id ∧ p.next = some k ∧ s.home? id = some h' ∧ h'.r = k.r ∧ h'.r.state.final = false ∧ (s.rse.mirrorOut.filter fun x => x.id == id) = [p]) :=
  ⟨⟨withHome { home0 with deferred := some (.recover 2) }, 5, { home0 with deferred := some (.recover 2) }, 2, by and_intros <;> decide +kernel⟩,
   ⟨(((withHome { home0 with r := { rec0 with mirrorSeq := 1 } }).onRse fun e => { e with mirrorOut := [(⟨5, 1, .note, some home0, some { home0 with r := { rec0 with mirrorSeq := 1 } }⟩ : MirrorPend)] }).setRegs [(R.RSE_DEPUTY_VALID, 1), (R.RSE_DEPUTY_NODE, 4)]), 4, 5, 1, 3, (⟨5, 1, .note, some home0, some { home0 with r := { rec0 with mirrorSeq := 1 } }⟩ : MirrorPend), home0, { home0 with r := { rec0 with mirrorSeq := 1 } }, { home0 with r := { rec0 with mirrorSeq := 1 } }, by and_intros <;> decide +kernel⟩⟩

/-- States that meet the hypotheses of `OwnershipDoubt` (clauses 1, 2, 3, 4, 5, 6). -/
theorem witness_OwnershipDoubt_1 :
    (∃ (s : State) (src : Nat) (id : Nat) (epoch : Nat) (cm : Bool) (r' : Record) (h : HomeRec),
    s.isHome id = true ∧ s.home? id = some h ∧ epoch ≤ h.r.epoch ∧ s.claimsOpen id = false ∧ h.checkOk = true ∧ s.readable r' = true ∧ (s.rse.resyncNeeded && s.mirrors id) = false ∧ (s.rse.mirrorOut.any fun p => p.id == id && decide (p.change ≠ .note)) = false)
    ∧ (∃ (s : State) (src : Nat) (id : Nat) (epoch : Nat) (cm : Bool) (r' : Record) (h : HomeRec),
    s.isHome id = true ∧ s.home? id = some h ∧ (h.r.epoch < epoch ∨ s.claimsOpen id = true) ∧ h.checkOk = true ∧ s.readable r' = true ∧ (s.rse.resyncNeeded && s.mirrors id) = false ∧ (s.rse.mirrorOut.any fun p => p.id == id && decide (p.change ≠ .note)) = false)
    ∧ (∃ (s : State) (src : Nat) (id : Nat) (epoch : Nat) (cm : Bool) (r' : Record),
    s.readable r' = false)
    ∧ (∃ (s : State) (src : Nat) (id : Nat) (epoch : Nat) (w : Work),
    s.work? id = some w ∧ w.checkOk = true ∧ w.status = .owned ∧ w.move = none ∧ w.r.epoch = epoch)
    ∧ (∃ (s : State) (src : Nat) (id : Nat) (epoch : Nat) (owner : Nat) (w : Work),
    s.work? id = some w ∧ w.checkOk = true ∧ owner ≠ s.node ∧ w.status = .reserved)
    ∧ (∃ (s : State) (id : Nat) (w : Work),
    s.work? id = some w ∧ w.checkOk = true ∧ w.doubt = true ∧ s.homeNode w.r = idHome id) :=
  ⟨⟨withHome home0, 4, 5, 3, true, rec0, home0, by and_intros <;> decide +kernel⟩,
   ⟨withHome home0, 4, 5, 4, true, rec0, home0, by and_intros <;> decide +kernel⟩,
   ⟨State.reset, 4, 5, 3, true, { rec0 with formatVersion := 9 }, by decide +kernel⟩,
   ⟨withWork work0, 4, 5, 3, work0, by and_intros <;> decide +kernel⟩,
   ⟨withWork { work0 with status := .reserved }, 4, 5, 3, 7, { work0 with status := .reserved }, by and_intros <;> decide +kernel⟩,
   ⟨withWork { work0 with doubt := true }, 5, { work0 with doubt := true }, by and_intros <;> decide +kernel⟩⟩

/-- States that meet the hypotheses of `OwnershipDoubt` (clauses 7, 8, 9, 11, 12). -/
theorem witness_OwnershipDoubt_2 :
    (∃ (s : State) (id : Nat) (w : Work),
    s.work? id = some w ∧ w.checkOk = true ∧ w.doubt = true ∧ s.homeNode w.r ≠ idHome id)
    ∧ (∃ (s : State) (id : Nat) (t : Nat) (c : Claim),
    s.rse.claims.find? (·.1 == id) = some (id, t, [c]) ∧ s.home? id = none ∧ t + s.reg R.RSE_LIMITS_CLAIM_WINDOW ≤ s.tick ∧ c.epoch + 1 < 2 ^ 32 ∧ c.record.epoch + 1 < 2 ^ 32)
    ∧ (∃ (s : State),
    s.flag R.RSE_DEPUTY_VALID = true ∧ s.rse.homes = [] ∧ s.rse.heldQueries = [])
    ∧ (∃ (s : State) (id : Nat) (h : HomeRec),
    s.home? id = some h ∧ h.checkOk = false ∧ s.mirrors id = true ∧ h.r.mirrored = true ∧ s.rse.bind ≠ .none ∧ s.rse.bind ≠ .refused)
    ∧ (∃ (s : State) (id : Nat) (h : HomeRec),
    s.home? id = some h ∧ h.checkOk = false ∧ h.r.mirrored = false) :=
  ⟨⟨((withWork { work0 with doubt := true, r := { rec0 with deputy := 8, mirrored := true } }).setRegs [(R.CAP_NODE_NODE_VALID, 1), (R.CAP_NODE_NODE_NUMBER, 9)]).markUnreachable 0, 5, { work0 with doubt := true, r := { rec0 with deputy := 8, mirrored := true } }, by and_intros <;> decide +kernel⟩,
   ⟨(State.reset.setReg R.RSE_LIMITS_CLAIM_WINDOW 0).onRse fun e => { e with claims := [(5, 0, [⟨7, 3, true, rec0⟩])] }, 5, 0, ⟨7, 3, true, rec0⟩, by and_intros <;> decide +kernel⟩,
   ⟨State.reset.setReg R.RSE_DEPUTY_VALID 1, by and_intros <;> decide +kernel⟩,
   ⟨((withHome { home0 with checkOk := false, r := { rec0 with mirrored := true } }).setReg R.RSE_DEPUTY_VALID 1).onRse fun e => { e with bind := .bound }, 5, { home0 with checkOk := false, r := { rec0 with mirrored := true } }, by and_intros <;> decide +kernel⟩,
   ⟨withHome { home0 with checkOk := false }, 5, { home0 with checkOk := false }, by and_intros <;> decide +kernel⟩⟩

/-- States that meet the hypotheses of `Placements` (clauses 1, 2, 3, 4, 5, 6). -/
theorem witness_Placements_1 :
    (∃ (s : State),
    s.flag R.SCH_CTRL_ENABLE = true ∧ s.reg R.PHS_PHASE_PHASE = 0 ∧ s.turning = false ∧ s.rse.homes = [] ∧ 0 < s.reg R.SCH_PLACE_PLACE_INFLIGHT)
    ∧ (∃ (s : State) (h : HomeRec) (target : Nat),
    s.flag R.SCH_CTRL_ENABLE = true ∧ s.reg R.PHS_PHASE_PHASE = 0 ∧ s.turning = false ∧ (s.rse.homes.filter (·.placing.isSome)).length < s.reg R.SCH_PLACE_PLACE_INFLIGHT ∧ (∀ k, k ∈ s.rse.homes → k.r.state = .queued → s.mustRebase k.r = false) ∧ (s.pickClass true).1 = some h ∧ (s.pickClass true).2.placeTarget h = some target)
    ∧ (∃ (s : State) (s' : State) (src : Nat) (m : CopyMsg) (mo : Model),
    (s.takeMsg src (.place m)).admitCopy src m false = .ok s' ∧ s'.model? m.r.modelId = some mo ∧ src = s'.node)
    ∧ (∃ (s : State) (src : Nat) (id : Nat) (epoch : Nat) (h : HomeRec),
    s.home? id = some h ∧ h.placing = some (src, epoch) ∧ h.checkOk = true ∧ s.pendingChange id = false ∧ h.r.state = .queued ∧ h.r.epoch = epoch ∧ epoch + 1 < 2 ^ 32)
    ∧ (∃ (s : State) (src : Nat) (id : Nat) (epoch : Nat),
    s.home? id = none)
    ∧ (∃ (s : State) (src : Nat) (id : Nat) (epoch : Nat) (st : St) (h : HomeRec),
    s.home? id = some h ∧ h.placing = some (src, epoch) ∧ h.checkOk = true) :=
  ⟨⟨(State.reset.setReg R.SCH_CTRL_ENABLE 1), by and_intros <;> decide +kernel⟩,
   ⟨offering, { home0 with r := { rec0 with state := .queued } }, 4, by and_intros <;> decide +kernel⟩,
   ⟨serving, okState ((serving.takeMsg 0 (.place ⟨rec0, [], [7], [], 0, 0⟩)).admitCopy 0 ⟨rec0, [], [7], [], 0, 0⟩ false), 0, ⟨rec0, [], [7], [], 0, 0⟩, serving.modelReg 0, by and_intros <;> first | decide +kernel | exact goesOn_eq _ (by decide +kernel)⟩,
   ⟨withHome { home0 with placing := some (4, 3), r := { rec0 with state := .queued } }, 4, 5, 3, { home0 with placing := some (4, 3), r := { rec0 with state := .queued } }, by and_intros <;> decide +kernel⟩,
   ⟨State.reset, 4, 5, 3, by decide +kernel⟩,
   ⟨withHome { home0 with placing := some (4, 3), r := { rec0 with state := .queued } }, 4, 5, 3, .directoryFull, { home0 with placing := some (4, 3), r := { rec0 with state := .queued } }, by and_intros <;> decide +kernel⟩⟩

/-- States that meet the hypotheses of `Placements` (clauses 7, 8, 9, 10). -/
theorem witness_Placements_2 :
    (∃ (s : State) (id : Nat) (target : Nat) (epoch : Nat) (h : HomeRec),
    s.home? id = some h ∧ h.placing = some (target, epoch) ∧ h.r.state = .queued ∧ h.checkOk = true ∧ s.pendingChange id = false)
    ∧ (∃ (s : State) (src : Nat) (id : Nat) (w : Work),
    s.work? id = some w ∧ w.checkOk = true ∧ w.status = .reserved)
    ∧ (∃ (s : State) (src : Nat) (id : Nat) (w : Work),
    s.work? id = some w ∧ w.checkOk = true ∧ w.status = .reserved)
    ∧ (∃ (s : State) (id : Nat) (w : Work),
    s.work? id = some w ∧ w.checkOk = true ∧ w.recalling = true ∧ w.status = .owned ∧ s.kvPages id = [])
    ∧ (∃ (s : State) (src : Nat) (id : Nat) (w : Work),
    s.work? id = some w ∧ w.checkOk = true ∧ w.status = .reserved)
    ∧ (∃ (s : State) (src : Nat) (id : Nat) (w : Work),
    s.work? id = some w ∧ w.checkOk = true ∧ w.status = .reserved) :=
  ⟨⟨withHome { home0 with placing := some (4, 3), r := { rec0 with state := .queued } }, 5, 4, 3, { home0 with placing := some (4, 3), r := { rec0 with state := .queued } }, by and_intros <;> decide +kernel⟩,
   ⟨withWork { work0 with status := .reserved }, 4, 5, { work0 with status := .reserved }, by and_intros <;> decide +kernel⟩,
   ⟨withWork { work0 with status := .reserved }, 4, 5, { work0 with status := .reserved }, by and_intros <;> decide +kernel⟩,
   ⟨withWork { work0 with recalling := true }, 5, { work0 with recalling := true }, by and_intros <;> decide +kernel⟩,
   ⟨withWork { work0 with status := .reserved }, 4, 5, { work0 with status := .reserved }, by and_intros <;> decide +kernel⟩,
   ⟨withWork { work0 with status := .reserved }, 4, 5, { work0 with status := .reserved }, by and_intros <;> decide +kernel⟩⟩

/-- States that meet the hypotheses of `Placements` (clauses 11). -/
theorem witness_Placements_3 :
    ∃ (s : State) (id : Nat) (w : Work),
    s.work? id = some w ∧ w.checkOk = true ∧ w.status = .reserved :=
  ⟨withWork { work0 with status := .reserved }, 5, { work0 with status := .reserved }, by and_intros <;> decide +kernel⟩

/-- States that meet the hypotheses of `StepCommits` (clauses 1, 2, 3, 4, 5, 6). -/
theorem witness_StepCommits_1 :
    (∃ (s : State) (id : Nat) (w : Work) (si : StepInfo) (toks : List (Nat × Nat)),
    s.work? id = some w ∧ w.step = some si ∧ w.checkOk = true ∧ w.cancelled = false ∧ si.failed = false ∧ si.accepted = some toks ∧ s.writesOut id = false ∧ w.ring.length + (stepTokens w.r toks).length ≤ 64)
    ∧ (∃ (s : State) (w : Work) (si : StepInfo) (ts : List (Nat × Nat)),
    si.chunk = 0)
    ∧ (∃ (s : State) (src : Nat) (n : StepNote) (h : HomeRec),
    s.home? n.id = some h ∧ h.r.epoch = n.epoch ∧ h.r.owner = src ∧ h.checkOk = true ∧ s.pendingChange n.id = false ∧ h.r.state = .decode ∧ n.gen = 0)
    ∧ (∃ (s : State) (src : Nat) (id : Nat) (gen : Nat) (w : Work),
    s.work? id = some w ∧ w.checkOk = true ∧ w.status = .owned ∧ w.notes = [gen] ∧ w.r.id = id ∧ w.r.state = .decode ∧ (w.ring.filter fun x => !x.released && decide (x.pos < gen)) = [])
    ∧ (∃ (s : State) (src : Nat) (id : Nat) (h : HomeRec),
    s.home? id = some h ∧ h.checkOk = true ∧ s.pendingChange id = false ∧ h.r.owner = src ∧ h.r.state = .decode)
    ∧ (∃ (s : State) (node : Nat),
    s.rse.homes = []) :=
  ⟨⟨withWork { work0 with step := some ⟨0, 0, 0, some [(9, 0)], false⟩ }, 5, { work0 with step := some ⟨0, 0, 0, some [(9, 0)], false⟩ }, ⟨0, 0, 0, some [(9, 0)], false⟩, [(9, 0)], by and_intros <;> decide +kernel⟩,
   ⟨State.reset, work0, ⟨0, 0, 0, some [(9, 0)], false⟩, [(9, 0)], by decide +kernel⟩,
   ⟨withHome home0, 0, ⟨5, 3, 0, 1, 7, 1, 0, .decode⟩, home0, by and_intros <;> decide +kernel⟩,
   ⟨withWork { work0 with notes := [1] }, 0, 5, 1, { work0 with notes := [1] }, by and_intros <;> decide +kernel⟩,
   ⟨withHome home0, 0, 5, home0, by and_intros <;> decide +kernel⟩,
   ⟨State.reset, 4, by decide +kernel⟩⟩

/-- States that meet the hypotheses of `StepCommits` (clauses 7, 8, 9, 10, 11). -/
theorem witness_StepCommits_2 :
    (∃ (s : State) (node : Nat),
    node ≠ s.node)
    ∧ (∃ (s : State) (node : Nat) (h : HomeRec),
    s.rse.homes = [h] ∧ h.r.owner = node ∧ h.r.state = .decode ∧ h.r.movePhase = 0)
    ∧ (∃ (s : State) (node : Nat) (h : HomeRec),
    s.rse.homes = [h] ∧ h.r.owner ≠ node ∧ h.moveSrc = node ∧ h.r.movePhase = 2 ∧ h.checkOk = true ∧ h.waits = [])
    ∧ (∃ (s : State) (id : Nat) (h : HomeRec),
    s.home? id = some h ∧ h.recovering = true ∧ h.locateWait = [] ∧ s.pge.rebuilds = [] ∧ s.ownPages id = [] ∧ s.neededPages h.r = [])
    ∧ (∃ (s : State) (id : Nat) (h : HomeRec) (p : Page),
    s.home? id = some h ∧ h.recovering = true ∧ h.locateWait = [] ∧ s.pge.rebuilds = [] ∧ p ∈ s.neededPages h.r ∧ (h.located.find? fun l => l.layer == p.layer && l.firstPos == p.firstPos && l.memberNo != 8) = none) :=
  ⟨⟨State.reset, 4, by decide +kernel⟩,
   ⟨withHome { home0 with r := { rec0 with owner := 4 } }, 4, { home0 with r := { rec0 with owner := 4 } }, by and_intros <;> decide +kernel⟩,
   ⟨withHome { home0 with moveSrc := 4, r := { rec0 with movePhase := 2 } }, 4, { home0 with moveSrc := 4, r := { rec0 with movePhase := 2 } }, by and_intros <;> decide +kernel⟩,
   ⟨withHome { home0 with recovering := true }, 5, { home0 with recovering := true }, by and_intros <;> decide +kernel⟩,
   ⟨serving.putHome { home0 with recovering := true, r := { rec0 with kvCommitted := 1 } }, 5, { home0 with recovering := true, r := { rec0 with kvCommitted := 1 } }, (serving.neededPages { rec0 with kvCommitted := 1 }).getD 0 page0, by and_intros <;> decide +kernel⟩⟩

/-- States that meet the hypotheses of `Moves` (clauses 1, 2, 3, 4, 5, 6). -/
theorem witness_Moves_1 :
    (∃ (s : State) (id : Nat) (dest : Nat) (o : MoveOrigin) (w : Work),
    s.work? id = some w ∧ w.holdRetry = false ∧ w.status = .owned ∧ w.checkOk = true ∧ s.reg R.PHS_PHASE_STATE ≠ 2 ∧ (s.kvPages w.r.id).all (·.headerOk) = true ∧ s.pge.rebuilds.all (·.page.req != w.r.id) = true ∧ w.step = none ∧ w.ring = [] ∧ w.notes = [] ∧ w.move = none ∧ w.recalling = false ∧ w.throughWait = 0 ∧ w.pendPause = none ∧ s.migratingReq w.r.id = false ∧ w.r.state = .decode ∧ w.pendMove = some (dest, o) ∧ o ≠ .endOfTurn ∧ (o ≠ .burin ∨ s.reg R.PHS_PHASE_STATE ≠ 1))
    ∧ (∃ (s : State) (s' : State) (src : Nat) (m : CopyMsg) (mo : Model),
    (s.takeMsg src (.mvPrepare m)).admitCopy src m true = .ok s' ∧ m.r.nextState = .decode ∧ m.pages = [] ∧ s'.model? m.r.modelId = some mo)
    ∧ (∃ (s : State) (id : Nat) (w : Work),
    s.work? id = some w ∧ w.checkOk = true ∧ w.status = .prepared ∧ w.pulls = [])
    ∧ (∃ (s : State) (id : Nat) (tag : Nat) (st : St) (w : Work),
    s.work? id = some w ∧ w.checkOk = true ∧ w.status = .prepared ∧ tag ∈ w.pulls ∧ st ≠ .ok)
    ∧ (∃ (s : State) (src : Nat) (id : Nat) (w : Work) (mv : MoveOut),
    s.work? id = some w ∧ w.move = some mv ∧ mv.dest = src ∧ w.checkOk = true ∧ mv.phase = .preparing)
    ∧ (∃ (s : State) (src : Nat) (id : Nat) (epoch : Nat),
    s.work? id = none) :=
  ⟨⟨withWork { work0 with pendMove := some (4, .burin) }, 5, 4, .burin, { work0 with pendMove := some (4, .burin) }, by and_intros <;> decide +kernel⟩,
   ⟨serving, okState ((serving.takeMsg 4 (.mvPrepare ⟨{ rec0 with nextState := .decode }, [], [7], [], 0, 0⟩)).admitCopy 4 ⟨{ rec0 with nextState := .decode }, [], [7], [], 0, 0⟩ true), 4, ⟨{ rec0 with nextState := .decode }, [], [7], [], 0, 0⟩, serving.modelReg 0, by and_intros <;> first | decide +kernel | exact goesOn_eq _ (by decide +kernel)⟩,
   ⟨withWork { work0 with status := .prepared, pulls := [] }, 5, { work0 with status := .prepared, pulls := [] }, by and_intros <;> decide +kernel⟩,
   ⟨withWork { work0 with status := .prepared, pulls := [8] }, 5, 8, .nodeUnreachable, { work0 with status := .prepared, pulls := [8] }, by and_intros <;> decide +kernel⟩,
   ⟨withWork { work0 with move := some (⟨4, .decode, .preparing, .burin⟩ : MoveOut) }, 4, 5, { work0 with move := some (⟨4, .decode, .preparing, .burin⟩ : MoveOut) }, (⟨4, .decode, .preparing, .burin⟩ : MoveOut), by and_intros <;> decide +kernel⟩,
   ⟨State.reset, 4, 5, 3, by decide +kernel⟩⟩

/-- States that meet the hypotheses of `Moves` (clauses 7, 8, 9, 10, 11). -/
theorem witness_Moves_2 :
    (∃ (s : State) (src : Nat) (id : Nat) (st : St) (w : Work) (mv : MoveOut),
    s.work? id = some w ∧ w.move = some mv ∧ mv.dest = src ∧ w.checkOk = true ∧ mv.phase = .preparing)
    ∧ (∃ (s : State) (src : Nat) (id : Nat) (dest : Nat) (h : HomeRec),
    s.isHome id = true ∧ s.home? id = some h ∧ h.r.owner = src ∧ h.checkOk = true ∧ s.committing src id dest = false ∧ s.pendingChange id = false ∧ h.r.cancelSeen = false ∧ h.r.epoch + 1 < 2 ^ 32 ∧ h.r.state = .decode ∧ s.handbackCopy id dest = none)
    ∧ (∃ (s : State) (src : Nat) (id : Nat) (w : Work),
    s.work? id = some w ∧ w.checkOk = true ∧ w.status = .prepared)
    ∧ (∃ (s : State) (src : Nat) (id : Nat) (w : Work),
    s.work? id = some w ∧ w.checkOk = true ∧ w.status = .prepared)
    ∧ (∃ (s : State) (src : Nat) (id : Nat) (owner : Nat) (w : Work),
    s.work? id = some w ∧ w.checkOk = true ∧ w.status = .owned ∧ w.move.isSome = true ∧ owner ≠ s.node)
    ∧ (∃ (s : State) (src : Nat) (id : Nat) (w : Work) (mv : MoveOut),
    s.work? id = some w ∧ w.checkOk = true ∧ w.move = some mv) :=
  ⟨⟨withWork { work0 with move := some (⟨4, .decode, .preparing, .burin⟩ : MoveOut) }, 4, 5, .directoryFull, { work0 with move := some (⟨4, .decode, .preparing, .burin⟩ : MoveOut) }, (⟨4, .decode, .preparing, .burin⟩ : MoveOut), by and_intros <;> decide +kernel⟩,
   ⟨withHome home0, 0, 5, 4, home0, by and_intros <;> decide +kernel⟩,
   ⟨withWork { work0 with status := .prepared, pulls := [] }, 4, 5, { work0 with status := .prepared, pulls := [] }, by and_intros <;> decide +kernel⟩,
   ⟨withWork { work0 with status := .prepared, pulls := [] }, 4, 5, { work0 with status := .prepared, pulls := [] }, by and_intros <;> decide +kernel⟩,
   ⟨withWork { work0 with move := some (⟨4, .decode, .preparing, .burin⟩ : MoveOut) }, 4, 5, 4, { work0 with move := some (⟨4, .decode, .preparing, .burin⟩ : MoveOut) }, by and_intros <;> decide +kernel⟩,
   ⟨withWork { work0 with move := some (⟨4, .decode, .preparing, .burin⟩ : MoveOut) }, 4, 5, { work0 with move := some (⟨4, .decode, .preparing, .burin⟩ : MoveOut) }, (⟨4, .decode, .preparing, .burin⟩ : MoveOut), by and_intros <;> decide +kernel⟩⟩

/-- States that meet the hypotheses of `Moves` (clauses 12, 13, 14, 15, 16). -/
theorem witness_Moves_3 :
    (∃ (s : State) (src : Nat) (id : Nat) (w : Work),
    s.work? id = some w ∧ w.checkOk = true ∧ w.status = .prepared)
    ∧ (∃ (s : State) (src : Nat) (id : Nat) (w : Work),
    s.work? id = some w ∧ w.checkOk = true ∧ w.status = .prepared)
    ∧ (∃ (s : State) (src : Nat) (id : Nat) (h : HomeRec),
    s.home? id = some h ∧ h.checkOk = true ∧ h.r.movePhase = 2 ∧ h.moveSrc = src)
    ∧ (∃ (s : State) (id : Nat) (w : Work) (mv : MoveOut),
    s.work? id = some w ∧ w.move = some mv ∧ mv.phase = .preparing ∧ w.checkOk = true ∧ s.reachable mv.dest = true)
    ∧ (∃ (s : State) (id : Nat) (w : Work) (mv : MoveOut),
    s.work? id = some w ∧ w.checkOk = true ∧ w.status = .owned ∧ w.move = some mv ∧ mv.phase = .committing)
    ∧ (∃ (s : State) (id : Nat) (w : Work),
    s.work? id = some w ∧ w.checkOk = true ∧ w.status = .prepared) :=
  ⟨⟨withWork { work0 with status := .prepared, pulls := [] }, 4, 5, { work0 with status := .prepared, pulls := [] }, by and_intros <;> decide +kernel⟩,
   ⟨withWork { work0 with status := .prepared, pulls := [] }, 4, 5, { work0 with status := .prepared, pulls := [] }, by and_intros <;> decide +kernel⟩,
   ⟨withHome { home0 with moveSrc := 4, r := { rec0 with movePhase := 2 } }, 4, 5, { home0 with moveSrc := 4, r := { rec0 with movePhase := 2 } }, by and_intros <;> decide +kernel⟩,
   ⟨withWork { work0 with move := some (⟨4, .decode, .preparing, .burin⟩ : MoveOut) }, 5, { work0 with move := some (⟨4, .decode, .preparing, .burin⟩ : MoveOut) }, (⟨4, .decode, .preparing, .burin⟩ : MoveOut), by and_intros <;> decide +kernel⟩,
   ⟨withWork { work0 with move := some (⟨4, .decode, .committing, .burin⟩ : MoveOut) }, 5, { work0 with move := some (⟨4, .decode, .committing, .burin⟩ : MoveOut) }, (⟨4, .decode, .committing, .burin⟩ : MoveOut), by and_intros <;> decide +kernel⟩,
   ⟨withWork { work0 with status := .prepared, pulls := [] }, 5, { work0 with status := .prepared, pulls := [] }, by and_intros <;> decide +kernel⟩⟩

/-- States that meet the hypotheses of `Moves` (clauses 17). -/
theorem witness_Moves_4 :
    ∃ (s : State) (id : Nat) (w : Work),
    s.work? id = some w ∧ w.checkOk = true ∧ w.holdRetry = true :=
  ⟨withWork { work0 with holdRetry := true }, 5, { work0 with holdRetry := true }, by and_intros <;> decide +kernel⟩

/-- States that meet the hypotheses of `RequestEnds` (clauses 1, 2, 3, 4, 5, 6). -/
theorem witness_RequestEnds_1 :
    (∃ (s : State) (id : Nat) (d : Nat) (h : HomeRec),
    s.home? id = some h ∧ h.r.state = .paused ∧ h.deadline = some d ∧ d ≤ s.tick ∧ h.checkOk = true ∧ s.pendingChange id = false)
    ∧ (∃ (s : State) (id : Nat) (d : Nat) (h : HomeRec),
    s.home? id = some h ∧ h.r.state = .paused ∧ h.deadline = some d ∧ (s.tick < d ∨ s.pendingChange id = true))
    ∧ (∃ (s : State) (id : Nat) (t : Nat) (h : HomeRec),
    s.home? id = some h ∧ h.checkOk = true ∧ h.finalAt = some t ∧ h.r.state = .done)
    ∧ (∃ (s : State) (src : Nat) (id : Nat) (w : Work),
    s.work? id = some w ∧ w.checkOk = true ∧ w.status = .owned ∧ w.r.state = .decode ∧ (w.pendMove.any fun m => decide (m.2 = .endOfTurn)) = false)
    ∧ (∃ (s : State) (src : Nat) (id : Nat) (p : PauseReq) (w : Work),
    s.work? id = some w ∧ w.status = .owned ∧ w.r.state = .decode ∧ w.checkOk = true ∧ w.pendMove = none ∧ w.move = none ∧ w.pendPause = none)
    ∧ (∃ (s : State) (src : Nat) (id : Nat) (dest : Nat) (rep : ReplyTo) (w : Work),
    s.work? id = some w ∧ w.status = .owned ∧ w.checkOk = true ∧ w.r.state = .decode ∧ w.pendMove = none ∧ w.move = none ∧ w.pendPause = none) :=
  ⟨⟨withHome { home0 with deadline := some 0, r := { rec0 with state := .paused } }, 5, 0, { home0 with deadline := some 0, r := { rec0 with state := .paused } }, by and_intros <;> decide +kernel⟩,
   ⟨withHome { home0 with deadline := some 2, r := { rec0 with state := .paused } }, 5, 2, { home0 with deadline := some 2, r := { rec0 with state := .paused } }, by and_intros <;> decide +kernel⟩,
   ⟨withHome { home0 with finalAt := some 0, r := { rec0 with state := .done } }, 5, 0, { home0 with finalAt := some 0, r := { rec0 with state := .done } }, by and_intros <;> decide +kernel⟩,
   ⟨withWork work0, 4, 5, work0, by and_intros <;> decide +kernel⟩,
   ⟨withWork work0, 4, 5, ⟨false, 2, none⟩, work0, by and_intros <;> decide +kernel⟩,
   ⟨withWork work0, 4, 5, 6, .here 2, work0, by and_intros <;> decide +kernel⟩⟩

/-- States that meet the hypotheses of `RequestEnds` (clauses 7, 8, 9, 10, 11). -/
theorem witness_RequestEnds_2 :
    (∃ (s : State) (src : Nat) (m : FinalMsg) (h : HomeRec),
    s.home? m.id = some h ∧ h.r.epoch = m.epoch ∧ h.r.owner = src ∧ h.checkOk = true ∧ h.r.state = .decode)
    ∧ (∃ (s : State) (src : Nat) (id : Nat) (epoch : Nat) (h : HomeRec),
    s.home? id = some h ∧ h.checkOk = true ∧ s.pendingChange id = false ∧ h.r.owner ≠ src ∧ h.r.state = .decode)
    ∧ (∃ (s : State) (id : Nat) (epoch : Nat) (k : FwdKind) (h : HomeRec),
    s.home? id = some h ∧ h.checkOk = true ∧ s.pendingChange id = false ∧ h.r.state = .decode ∧ epoch ≠ 0 ∧ epoch < h.r.epoch)
    ∧ (∃ (s : State) (id : Nat) (h : HomeRec),
    s.home? id = some h ∧ h.checkOk = true ∧ s.pendingChange id = false ∧ h.r.state = .decode ∧ h.resend = [])
    ∧ (∃ (s : State) (id : Nat) (h : HomeRec),
    s.home? id = some h ∧ h.checkOk = true ∧ s.pendingChange id = false ∧ h.r.state = .decode ∧ h.resend = [.cancel]) :=
  ⟨⟨withHome home0, 0, ⟨5, 3, .done, .ok, 2, 2⟩, home0, by and_intros <;> decide +kernel⟩,
   ⟨withHome home0, 4, 5, 3, home0, by and_intros <;> decide +kernel⟩,
   ⟨withHome home0, 5, 1, .cancel, home0, by and_intros <;> decide +kernel⟩,
   ⟨withHome home0, 5, home0, by and_intros <;> decide +kernel⟩,
   ⟨withHome { home0 with resend := [.cancel] }, 5, { home0 with resend := [.cancel] }, by and_intros <;> decide +kernel⟩⟩

/-- States that meet the hypotheses of `PageRegistersAndHeldPages` (clauses 1, 2, 3, 4, 5, 6). -/
theorem witness_PageRegistersAndHeldPages_1 :
    (∃ (s : State) (m : Nat) (v : Nat),
    m < 256 ∧ (R.PGE_MODEL_VALID m).of v = 0 ∧ s.flag (R.PGE_MODEL_VALID m) = false)
    ∧ (∃ (s : State) (m : Nat) (v : Nat),
    m < 256 ∧ (R.PGE_MODEL_VALID m).of v = 1 ∧ (R.PGE_MODEL_ELEMENT m).of v = 3)
    ∧ (∃ (s : State) (v : Nat),
    bitsOf v 31 0 ≤ bitsOf v 63 32)
    ∧ (∃ (s : State) (v : Nat),
    s.touchesReserved (65536 * bitsOf v 63 32) (65536 * bitsOf v 31 0 - 65536 * bitsOf v 63 32) = false ∧ 65536 * bitsOf v 31 0 ≤ s.usableTop ∧ s.framesTaken = [])
    ∧ (∃ (s : State) (v : Nat),
    bitsOf v 63 32 < bitsOf v 31 0 ∧ (s.touchesReserved (65536 * bitsOf v 63 32) (65536 * bitsOf v 31 0 - 65536 * bitsOf v 63 32) = true ∨ s.usableTop < 65536 * bitsOf v 31 0))
    ∧ (∃ (s : State) (addr : Nat) (v : Nat),
    addr ≠ 0x80040 ∧ s.holdsCoded = false) :=
  ⟨⟨State.reset, 3, 2 ^ 48, by and_intros <;> decide +kernel⟩,
   ⟨State.reset, 3, 2 ^ 47 + 3 * 2 ^ 40, by and_intros <;> decide +kernel⟩,
   ⟨State.reset, 5 * 2 ^ 32, by decide +kernel⟩,
   ⟨(hostNode.onBld fun b => { b with node := .ready, off := false }), 1000 * 2 ^ 32 + 3400, by and_intros <;> first | decide +kernel | (unfold State.canonical; decide +kernel)⟩,
   ⟨State.reset, 2 ^ 32 - 1, by and_intros <;> decide +kernel⟩,
   ⟨State.reset, 0x82000, 7, by and_intros <;> decide +kernel⟩⟩

/-- States that meet the hypotheses of `PageRegistersAndHeldPages` (clauses 7, 8, 9, 12, 13, 14). -/
theorem witness_PageRegistersAndHeldPages_2 :
    (∃ (s : State) (addr : Nat) (v : Nat),
    s.holdsCoded = true)
    ∧ (∃ (s : State) (u : Nat) (v : Nat),
    u < 16 ∧ s.flag (R.PGE_UMBER_CTRL_VALID u) = true ∧ v % 2 ^ 24 = s.reg (R.PGE_UMBER_CTRL_QP u) ∧ bitAt v 32 = false)
    ∧ (∃ (s : State) (u : Nat) (v : Nat),
    u < 16 ∧ s.flag (R.PGE_UMBER_CTRL_VALID u) = true ∧ v % 2 ^ 24 ≠ s.reg (R.PGE_UMBER_CTRL_QP u))
    ∧ (∃ (s : State) (idx : Nat) (p : Page),
    s.page? idx = some p)
    ∧ (∃ (s : State) (w : Work) (p : Page) (n : Nat) (i : Nat),
    s.rse.works = [w] ∧ w.status = .owned ∧ s.rse.homes = [] ∧ s.pge.pages = [p] ∧ p.req = w.r.id ∧ p.foreign = false ∧ p.holders = [(n, i)])
    ∧ (∃ (s : State) (src : Nat) (id : Nat) (epoch : Nat) (idxs : List Nat),
    (∀ p ∈ s.heldPages id, p.epoch ≤ epoch)) :=
  ⟨⟨withPage { page0 with coded := true }, 0x82000, 7, by decide +kernel⟩,
   ⟨State.reset.setRegs [(R.PGE_UMBER_CTRL_VALID 2, 1), (R.PGE_UMBER_CTRL_QP 2, 9)], 2, 9, by and_intros <;> decide +kernel⟩,
   ⟨State.reset.setRegs [(R.PGE_UMBER_CTRL_VALID 2, 1), (R.PGE_UMBER_CTRL_QP 2, 9)], 2, 8, by and_intros <;> decide +kernel⟩,
   ⟨withPage { page0 with kind := .shared }, 3, { page0 with kind := .shared }, by decide +kernel⟩,
   ⟨{ withWork work0 with pge := (withPage { page0 with foreign := false, loc := .t1 7 9 }).pge }, work0, { page0 with foreign := false, loc := .t1 7 9 }, 7, 9, by and_intros <;> decide +kernel⟩,
   ⟨withPage page0, 4, 5, 4, [3], by decide +kernel⟩⟩

/-- States that meet the hypotheses of `PageRegistersAndHeldPages` (clauses 15, 16, 17, 18, 19, 20). -/
theorem witness_PageRegistersAndHeldPages_3 :
    (∃ (s : State) (src : Nat) (id : Nat) (epoch : Nat) (ticks : Nat),
    (∀ p ∈ s.heldPages id, p.epoch ≤ epoch))
    ∧ (∃ (s : State) (src : Nat) (id : Nat) (epoch : Nat) (idxs : List Nat) (p : Page),
    p ∈ s.heldPages id ∧ epoch < p.epoch)
    ∧ (∃ (s : State) (src : Nat) (id : Nat) (epoch : Nat) (ticks : Nat) (p : Page),
    p ∈ s.heldPages id ∧ epoch < p.epoch)
    ∧ (∃ (s : State) (src : Nat) (id : Nat) (epoch : Nat) (i : Nat) (p : Page),
    s.pge.pages = [p] ∧ p.req = id ∧ p.foreign = true ∧ p.idx = i ∧ p.epoch ≤ epoch ∧ s.beingRead i = false)
    ∧ (∃ (s : State) (p : Page),
    s.pge.pages = [p] ∧ p.foreign = true ∧ p.deadline ≤ s.tick ∧ p.freeing = false ∧ s.beingRead p.idx = false)
    ∧ (∃ (s : State) (idx : Nat) (p : Page),
    s.page? idx = some p ∧ p.foreign = true ∧ p.loc.frame?.isSome = true ∧ p.migrating = false ∧ p.freeing = false ∧ s.migRoom = true ∧ s.reg R.PGE_EVICT_T1_HOLD_TICKS ≤ (s.tick + 2 ^ 24 - p.lastUse) % 2 ^ 24 ∧ (s.toT2 p .demote false).isSome = true) :=
  ⟨⟨withPage page0, 4, 5, 4, 9, by decide +kernel⟩,
   ⟨withPage page0, 4, 5, 2, [3], page0, by and_intros <;> decide +kernel⟩,
   ⟨withPage page0, 4, 5, 2, 9, page0, by and_intros <;> decide +kernel⟩,
   ⟨withPage page0, 4, 5, 3, 3, page0, by and_intros <;> decide +kernel⟩,
   ⟨withPage page0, page0, by and_intros <;> decide +kernel⟩,
   ⟨withQp ((withPage page0).setRegs [(R.PGE_EVICT_T1_HOLD_TICKS, 0), (R.PGE_UMBER_CTRL_VALID 0, 1), (R.PGE_UMBER_CTRL_QP 0, 0x100), (R.PGE_UMBER_SIZE_SLOTS 0, 4)]), 3, page0, by and_intros <;> decide +kernel⟩⟩

/-- States that meet the hypotheses of `PageMigrations` (clauses 1, 2, 3, 4, 5, 6). -/
theorem witness_PageMigrations_1 :
    (∃ (s : State) (idx : Nat) (f : Nat) (g : Nat) (p : Page),
    s.page? idx = some p ∧ p.migrating = false ∧ s.pge.migrations.length < s.reg R.PGE_MIGRATE_MAX_INFLIGHT ∧ p.loc = .t0 f ∧ 4 * s.reg R.PGE_KV_POOL_LIMIT ≤ f ∧ p.freeing = false ∧ s.beingRead p.idx = false ∧ s.mayMigrate p.req = true ∧ s.findFrame p.pageSize = some g)
    ∧ (∃ (s : State) (idx : Nat) (why : MigWhy) (p : Page),
    s.page? idx = some p ∧ p.migrating = true)
    ∧ (∃ (s : State) (src : Nat) (idx : Nat) (p : Page) (data : List Byte),
    p.foreign = false ∧ crc32c data ≠ p.dataCrc)
    ∧ (∃ (s : State) (src : Nat) (idx : Nat) (f : Nat) (p : Page) (q : Page) (m : Migration) (data : List Byte),
    p.foreign = true ∧ idx < 2 ^ 26 ∧ s.migration? idx = some m ∧ m.target = .frame f ∧ s.page? idx = some q ∧ q.coded = false ∧ crc32c data = p.dataCrc)
    ∧ (∃ (s : State) (src : Nat) (idx : Nat) (index : Nat) (a : Nat) (b : Nat) (p : Page) (m : Migration),
    idx < 2 ^ 26 ∧ s.migration? idx = some m ∧ s.pge.aborted = [] ∧ s.page? idx = some p ∧ m.target = .node a b)
    ∧ (∃ (s : State) (src : Nat) (idx : Nat) (a : Nat) (b : Nat) (p : Page) (m : Migration),
    idx < 2 ^ 26 ∧ s.migration? idx = some m ∧ s.pge.aborted = [] ∧ s.page? idx = some p ∧ m.target = .node a b ∧ m.retried = true) :=
  ⟨⟨((withPage { page0 with loc := .t0 9 }).setReg R.PGE_KV_POOL_LIMIT 2), 3, 9, 0, { page0 with loc := .t0 9 }, by and_intros <;> decide +kernel⟩,
   ⟨withPage { page0 with migrating := true }, 3, .evict, { page0 with migrating := true }, by and_intros <;> decide +kernel⟩,
   ⟨State.reset, 4, 3, { page0 with foreign := false, dataCrc := 1 }, [], by and_intros <;> decide +kernel⟩,
   ⟨migrating page0 ⟨3, .frame 1, .recall, false, none⟩, 4, 3, 1, { page0 with dataCrc := crc32c [1] }, page0, ⟨3, .frame 1, .recall, false, none⟩, [1], by and_intros <;> decide +kernel⟩,
   ⟨migrating page0 ⟨3, .node 7 0, .evict, false, none⟩, 7, 3, 11, 7, 0, page0, ⟨3, .node 7 0, .evict, false, none⟩, by and_intros <;> decide +kernel⟩,
   ⟨migrating page0 ⟨3, .node 7 0, .evict, true, none⟩, 7, 3, 7, 0, page0, ⟨3, .node 7 0, .evict, true, none⟩, by and_intros <;> decide +kernel⟩⟩

/-- States that meet the hypotheses of `PageMigrations` (clauses 7, 8, 9, 10, 11, 12). -/
theorem witness_PageMigrations_2 :
    (∃ (s : State) (src : Nat) (idx : Nat) (a : Nat) (b : Nat) (st : St) (p : Page) (m : Migration),
    idx < 2 ^ 26 ∧ s.migration? idx = some m ∧ s.pge.aborted = [] ∧ s.page? idx = some p ∧ m.target = .node a b ∧ m.why = .evict ∧ st ≠ .poisonRead)
    ∧ (∃ (s : State) (src : Nat) (id : Nat) (epoch : Nat) (idx : Nat) (offset : Nat) (tag : Nat) (f : Nat) (data : List Byte) (p : Page),
    s.pge.pages = [p] ∧ p.idx = idx ∧ p.req = id ∧ p.foreign = true ∧ p.epoch = epoch ∧ p.loc = .t0 f)
    ∧ (∃ (s : State) (src : Nat) (id : Nat) (epoch : Nat) (group : Nat) (offset : Nat) (tag : Nat) (f : Nat) (delta : List Byte) (p : Page),
    s.pge.pages = [p] ∧ p.req = id ∧ p.foreign = true ∧ p.epoch = epoch ∧ p.kind = .parity ∧ p.group = group ∧ p.loc = .t0 f)
    ∧ (∃ (s : State) (src : Nat) (id : Nat) (tag : Nat) (p : ParityPend),
    s.pge.parityPends = [p] ∧ p.parityNode = src ∧ p.req = id ∧ p.tag = tag ∧ p.write = none)
    ∧ (∃ (s : State) (src : Nat) (id : Nat) (tag : Nat) (w : Work),
    s.pge.parityPends = [] ∧ s.work? id = some w ∧ w.throughWait = 1 ∧ w.r.id = id)
    ∧ (∃ (s : State) (src : Nat) (idx : Nat) (index : Nat) (id : Nat) (e : Nat),
    idx < 2 ^ 26 ∧ s.pge.aborted = [(idx, id, e)]) :=
  ⟨⟨migrating page0 ⟨3, .node 7 0, .evict, true, none⟩, 7, 3, 7, 0, .directoryFull, page0, ⟨3, .node 7 0, .evict, true, none⟩, by and_intros <;> decide +kernel⟩,
   ⟨withPage page0, 4, 5, 3, 3, 64, 1, 0, [1, 2], page0, by and_intros <;> decide +kernel⟩,
   ⟨withPage { page0 with kind := .parity, group := 2 }, 4, 5, 3, 2, 64, 1, 0, [1, 2], { page0 with kind := .parity, group := 2 }, by and_intros <;> decide +kernel⟩,
   ⟨State.reset.onPge fun g => { g with parityPends := [⟨8, 1, 5, 3, none, 4⟩] }, 4, 5, 1, ⟨8, 1, 5, 3, none, 4⟩, by and_intros <;> decide +kernel⟩,
   ⟨withWork { work0 with throughWait := 1 }, 4, 5, 1, { work0 with throughWait := 1 }, by and_intros <;> decide +kernel⟩,
   ⟨State.reset.onPge fun g => { g with aborted := [(3, 5, 3)] }, 4, 3, 7, 5, 3, by and_intros <;> decide +kernel⟩⟩

/-- States that meet the hypotheses of `PageMigrations` (clauses 13, 14). -/
theorem witness_PageMigrations_3 :
    (∃ (s : State) (src : Nat) (id : Nat) (epoch : Nat),
    s.pge.pages = [])
    ∧ (∃ (s : State) (src : Nat) (id : Nat) (n : Nat) (ps : List LocatedPage) (h : HomeRec),
    s.home? id = some h ∧ h.recovering = true ∧ h.locateWait = [src, n] ∧ n ≠ src) :=
  ⟨⟨State.reset, 4, 5, 3, by decide +kernel⟩,
   ⟨withHome { home0 with recovering := true, locateWait := [4, 6] }, 4, 5, 6, [], { home0 with recovering := true, locateWait := [4, 6] }, by and_intros <;> decide +kernel⟩⟩

/-- States that meet the hypotheses of `Mezzotint` (clauses 1, 2, 3, 4, 5, 6). -/
theorem witness_Mezzotint_1 :
    (∃ (s : State) (src : Nat) (q : MztMsg),
    q.checkOk .query = false ∧ s.behindWrite src (.mztQuery q) = false)
    ∧ (∃ (s : State) (src : Nat) (q : MztMsg),
    q.checkOk .kvWrite = false ∧ s.behindWrite src (.mztKvWrite q) = false)
    ∧ (∃ (s : State) (src : Nat) (q : MztMsg),
    (src, .mztQuery q) ∈ s.fab.inbox ∧ s.behindWrite src (.mztQuery q) = true)
    ∧ (∃ (s : State) (src : Nat) (q : MztMsg),
    q.checkOk .query = true ∧ s.behindWrite src (.mztQuery q) = false ∧ s.transitOnly = false ∧ s.mztServes = false)
    ∧ (∃ (s : State) (src : Nat) (q : MztMsg) (p : Page),
    q.checkOk .query = true ∧ s.behindWrite src (.mztQuery q) = false ∧ s.transitOnly = false ∧ s.mztServes = true ∧ s.mztRunning = true ∧ q.format = 1 ∧ q.fieldsOk = true ∧ q.payload.length = q.queryBytes ∧ s.heldPages q.req = [p] ∧ p.epoch = q.epoch ∧ s.queryPages q = none ∧ s.needsRecall q = false ∧ s.mzt.queue = [] ∧ 0 < s.reg R.MZT_LIMITS_QUEUE_DEPTH)
    ∧ (∃ (s : State) (src : Nat) (q : MztMsg) (p : Page),
    q.checkOk .query = true ∧ s.behindWrite src (.mztQuery q) = false ∧ s.transitOnly = false ∧ s.mztServes = true ∧ s.mztRunning = true ∧ q.format = 1 ∧ q.fieldsOk = true ∧ q.payload.length = q.queryBytes ∧ s.heldPages q.req = [p] ∧ q.epoch < p.epoch) :=
  ⟨⟨State.reset, 4, mzt0, by and_intros <;> decide +kernel⟩,
   ⟨State.reset, 4, mzt0, by and_intros <;> decide +kernel⟩,
   ⟨mztServing.onFab fun f => { f with inbox := [(4, .mztKvWrite mzt0), (4, .mztQuery mzt0)] }, 4, mzt0, by and_intros <;> decide +kernel⟩,
   ⟨State.reset, 4, ((mzt0 : MztMsg).sealed .query), by and_intros <;> decide +kernel⟩,
   ⟨mztServing, 4, ((mzt0 : MztMsg).sealed .query), page0, by and_intros <;> decide +kernel⟩,
   ⟨mztServing, 4, (({ mzt0 with epoch := 2 } : MztMsg).sealed .query), page0, by and_intros <;> decide +kernel⟩⟩

/-- States that meet the hypotheses of `Mezzotint` (clauses 7, 8, 9, 10, 11, 12). -/
theorem witness_Mezzotint_2 :
    (∃ (s : State) (x : MztQueued) (ps : List Page),
    s.mzt.queue = [x] ∧ x.reading = some ps ∧ s.mztServes = false)
    ∧ (∃ (s : State) (x : MztQueued) (ps : List Page),
    s.mzt.queue = [x] ∧ x.reading = some ps ∧ s.mztServes = true ∧ s.mztRunning = true ∧ (s.heldPages x.q.req).any (fun p => x.q.epoch < p.epoch) = false ∧ ps.any (s.readsPoison x.q) = false)
    ∧ (∃ (s : State) (src : Nat) (m : MztMsg),
    m.checkOk .kvWrite = true ∧ s.behindWrite src (.mztKvWrite m) = false ∧ s.transitOnly = false ∧ s.pge.pages = [])
    ∧ (∃ (s : State) (src : Nat) (f : Nat) (L : Nat) (per : Nat) (m : MztMsg) (p : Page),
    m.checkOk .kvWrite = true ∧ s.behindWrite src (.mztKvWrite m) = false ∧ s.transitOnly = false ∧ s.pge.pages = [p] ∧ p.req = m.req ∧ p.foreign = true ∧ p.kind = .kv ∧ p.epoch = m.epoch ∧ p.layer = m.layer ∧ p.loc = .t0 f ∧ p.coded = false ∧ p.firstPos ≤ m.basePos ∧ m.basePos < p.firstPos + p.slots ∧ m.payload.length = 2 * L ∧ per = p.kvHeads * p.headDim * elemBytes p.element ∧ L ≤ (p.firstPos + p.slots - m.basePos) * per)
    ∧ (∃ (s : State) (v : Nat),
    bitAt v 0 = false ∧ bitsOf v 27 16 = s.reg R.MZT_CTRL_CONTEXT)
    ∧ (∃ (s : State) (v : Nat),
    bitAt v 0 = true ∧ s.mayServe (bitsOf v 27 16) = false) :=
  ⟨⟨State.reset.onMzt fun m => { m with queue := [⟨4, mzt0, some [page0]⟩] }, ⟨4, mzt0, some [page0]⟩, [page0], by and_intros <;> decide +kernel⟩,
   ⟨mztServing.onMzt fun m => { m with queue := [⟨4, mzt0, some [page0]⟩] }, ⟨4, mzt0, some [page0]⟩, [page0], by and_intros <;> decide +kernel⟩,
   ⟨State.reset, 4, ((mzt0 : MztMsg).sealed .kvWrite), by and_intros <;> decide +kernel⟩,
   ⟨withPage page0, 4, 0, 64, 64, ((mzt0 : MztMsg).sealed .kvWrite), page0, by and_intros <;> decide +kernel⟩,
   ⟨State.reset, 0xFFF * 2 ^ 16, by and_intros <;> decide +kernel⟩,
   ⟨State.reset, 1, by and_intros <;> decide +kernel⟩⟩

/-- States that meet the hypotheses of `Mezzotint` (clauses 15, 16, 17, 18, 19, 20). -/
theorem witness_Mezzotint_3 :
    (∃ (s : State) (n : Nat) (off : Nat) (h : Nat) (i : Nat) (w : Word128) (d : MztMsg) (k : Work) (mo : Model) (p : Page),
    Issues s n .mzquery w ∧ off = xAddrOb w ∧ d = (s.advance n).mztDescriptor n off ∧ (s.advance n).held (s.pastCore n) .mzquery [(off, 64)] [] = none ∧ s.work? d.req = some k ∧ k.status = .owned ∧ d.fieldsOk = true ∧ s.model? k.r.modelId = some mo ∧ mo.id = d.modelId ∧ mo.kvHeads = d.kvHeads ∧ mo.headDim = d.headDim ∧ d.basePos = k.r.kvCommitted ∧ s.kvPages d.req = [p] ∧ p.layer = d.layer ∧ p.loc = .t1 h i ∧ (s.advance n).held (s.pastCore n) .mzquery [(off, 64 + d.queryBytes)] [(off + up64 (64 + d.queryBytes), d.rows * d.qheads * 2 * d.recordBytes)] = none)
    ∧ (∃ (s : State) (n : Nat) (off : Nat) (w : Word128) (d : MztMsg) (k : Work) (mo : Model),
    Issues s n .mzwrite w ∧ off = xAddrOb w ∧ d = (s.advance n).mztDescriptor n off ∧ (s.advance n).held (s.pastCore n) .mzwrite [(off, 64)] [] = none ∧ s.work? d.req = some k ∧ k.status = .owned ∧ s.model? k.r.modelId = some mo ∧ d.rows ≠ 0 ∧ mo.id = d.modelId ∧ mo.kvHeads = d.kvHeads ∧ mo.headDim = d.headDim ∧ (s.advance n).held (s.pastCore n) .mzwrite [(off, 64 + 2 * d.rows * kvBytes mo)] [] = none ∧ s.kvPages d.req = [])
    ∧ (∃ (s : State) (n : Nat) (off : Nat) (h : Nat) (i : Nat) (w : Word128) (d : MztMsg) (k : Work) (mo : Model) (p : Page),
    Issues s n .mzwrite w ∧ off = xAddrOb w ∧ d = (s.advance n).mztDescriptor n off ∧ (s.advance n).held (s.pastCore n) .mzwrite [(off, 64)] [] = none ∧ s.work? d.req = some k ∧ k.status = .owned ∧ s.model? k.r.modelId = some mo ∧ d.rows = 1 ∧ mo.id = d.modelId ∧ mo.kvHeads = d.kvHeads ∧ mo.headDim = d.headDim ∧ (s.advance n).held (s.pastCore n) .mzwrite [(off, 64 + 2 * kvBytes mo)] [] = none ∧ s.kvPages d.req = [p] ∧ p.layer = d.layer ∧ p.loc = .t1 h i ∧ p.firstPos ≤ d.basePos ∧ d.basePos < p.firstPos + p.slots)
    ∧ (∃ (s : State) (c : Core) (done : Nat) (id : Nat) (o : MztOut),
    s.isUnreachable o.holder = false ∧ o.query = true ∧ s.mzt.waiting = [] ∧ s.mzt.outs = [] ∧ 0 < s.reg R.MZT_LIMITS_MAX_OUTSTANDING)
    ∧ (∃ (s : State) (src : Nat) (m : MztMsg),
    m.checkOk .kvAck = true ∧ s.mzt.outs = [])
    ∧ (∃ (s : State) (src : Nat) (m : MztMsg),
    m.checkOk .partial_ = true ∧ s.mzt.outs = []) :=
  ⟨⟨mztIssuing 0x82, 2, 0, 7, 9, BitVec.ofNat 128 (0x82 * 2 ^ 120), (((mztIssuing 0x82).advance 2).mztDescriptor 2 0), work0, (mztIssuing 0x82).modelReg 0, { page0 with foreign := false, loc := .t1 7 9 }, by and_intros <;> decide +kernel⟩,
   ⟨(mztIssuing 0x83).onPge fun g => { g with pages := [] }, 2, 0, BitVec.ofNat 128 (0x83 * 2 ^ 120), ((((mztIssuing 0x83).onPge fun g => { g with pages := [] }).advance 2).mztDescriptor 2 0), work0, (mztIssuing 0x83).modelReg 0, by and_intros <;> decide +kernel⟩,
   ⟨mztIssuing 0x83, 2, 0, 7, 9, BitVec.ofNat 128 (0x83 * 2 ^ 120), (((mztIssuing 0x83).advance 2).mztDescriptor 2 0), work0, (mztIssuing 0x83).modelReg 0, { page0 with foreign := false, loc := .t1 7 9 }, by and_intros <;> decide +kernel⟩,
   ⟨State.reset, (State.reset.core 2), 0xFFFF, 5, mztOut0 true false, by and_intros <;> decide +kernel⟩,
   ⟨State.reset, 7, ((mzt0 : MztMsg).sealed .kvAck), by and_intros <;> decide +kernel⟩,
   ⟨State.reset, 7, (({ mzt0 with payload := [] } : MztMsg).sealed .partial_), by and_intros <;> decide +kernel⟩⟩

/-- States that meet the hypotheses of `Mezzotint` (clauses 21, 22, 23, 24). -/
theorem witness_Mezzotint_4 :
    (∃ (s : State) (m : MztMsg) (o : MztOut),
    m.checkOk .kvAck = true ∧ s.mzt.outs = [o] ∧ o.tag = m.tag ∧ o.query = false ∧ o.busy = false ∧ m.status = .ok ∧ s.mzt.waiting = [])
    ∧ (∃ (s : State) (m : MztMsg) (o : MztOut),
    m.checkOk .partial_ = true ∧ s.mzt.outs = [o] ∧ o.tag = m.tag ∧ o.query = true ∧ o.busy = false ∧ m.status = .ok)
    ∧ (∃ (s : State) (tag : Nat) (o : MztOut),
    s.mzt.outs = [o] ∧ o.tag = tag ∧ o.busy = true ∧ s.mzt.waiting = [])
    ∧ (∃ (s : State) (tag : Nat) (o : MztOut),
    s.mzt.outs = [o] ∧ o.tag = tag ∧ s.reachable o.holder = true) :=
  ⟨⟨State.reset.onMzt fun m => { m with outs := [mztOut0 false false] }, ((mzt0 : MztMsg).sealed .kvAck), mztOut0 false false, by and_intros <;> decide +kernel⟩,
   ⟨State.reset.onMzt fun m => { m with outs := [mztOut0 true false] }, (({ mzt0 with payload := [] } : MztMsg).sealed .partial_), mztOut0 true false, by and_intros <;> decide +kernel⟩,
   ⟨State.reset.onMzt fun m => { m with outs := [mztOut0 true true] }, 0, mztOut0 true true, by and_intros <;> decide +kernel⟩,
   ⟨State.reset.onMzt fun m => { m with outs := [mztOut0 true true] }, 0, mztOut0 true true, by and_intros <;> decide +kernel⟩⟩

/-- States that meet the hypotheses of `CoreInstructions` (clauses 1, 2, 3, 4, 5, 6). -/
theorem witness_CoreInstructions_1 :
    (∃ (s : State) (n : Nat) (w : Word128),
    Issues s n .nop w)
    ∧ (∃ (s : State) (n : Nat) (w : Word128),
    Issues s n .fence w ∧ s.coreRemotes n = [] ∧ (s.core n).tail = [])
    ∧ (∃ (s : State) (n : Nat) (w : Word128),
    Issues s n .fence w ∧ (s.coreRemotes n ≠ [] ∨ (s.core n).tail ≠ []))
    ∧ (∃ (s : State) (n : Nat) (w : Word128),
    Issues s n .end_ w ∧ (s.coreRemotes n ≠ [] ∨ (s.core n).tail ≠ []))
    ∧ (∃ (s : State) (n : Nat) (w : Word128),
    Issues s n .end_ w ∧ s.coreRemotes n = [] ∧ (s.core n).tail = [])
    ∧ (∃ (s : State) (n : Nat) (w : Word128),
    Issues s n .load w ∧ (s.advance n).held (s.pastCore n) .load [] [(xAddrOb w, 64 * xLen w)] = none ∧ gSpace (xGaddr w) < 2 ∧ gNode (xGaddr w) = s.node ∧ s.ownQueue = false ∧ 0 < xLen w ∧ xLen w ≤ 64 ∧ gOff (xGaddr w) % 4096 = 0 ∧ s.targetMapped (gSpace (xGaddr w)) (gOff (xGaddr w)) (64 * xLen w) = true) :=
  ⟨⟨(issuing (0 * 2 ^ 120 + 0xFFFF * 2 ^ 64)), 2, BitVec.ofNat 128 (0 * 2 ^ 120 + 0xFFFF * 2 ^ 64), by decide +kernel⟩,
   ⟨(issuing (0x8E * 2 ^ 120 + 0xFFFF * 2 ^ 64)), 2, BitVec.ofNat 128 (0x8E * 2 ^ 120 + 0xFFFF * 2 ^ 64), by and_intros <;> decide +kernel⟩,
   ⟨(issuing (0x8E * 2 ^ 120 + 0xFFFF * 2 ^ 64)).onFab fun f => { f with remotes := [{ tag := 0, kind := .load, dst := 7, addr := 0, region := 0, len := 64, dest := 0, who := .core 2 0xFFFF 0 }] }, 2, BitVec.ofNat 128 (0x8E * 2 ^ 120 + 0xFFFF * 2 ^ 64), by and_intros <;> decide +kernel⟩,
   ⟨(issuing (0x8F * 2 ^ 120 + 0xFFFF * 2 ^ 64)).putCore { (issuing (0x8F * 2 ^ 120 + 0xFFFF * 2 ^ 64)).core 2 with tail := [⟨0, 0xFFFF, [], 0, false, []⟩] }, 2, BitVec.ofNat 128 (0x8F * 2 ^ 120 + 0xFFFF * 2 ^ 64), by and_intros <;> decide +kernel⟩,
   ⟨(issuing (0x8F * 2 ^ 120 + 0xFFFF * 2 ^ 64)), 2, BitVec.ofNat 128 (0x8F * 2 ^ 120 + 0xFFFF * 2 ^ 64), by and_intros <;> decide +kernel⟩,
   ⟨(issuing (0x80 * 2 ^ 120 + (1 * 2 ^ 96 + 2 * 2 ^ 80 + 0xFFFF * 2 ^ 64 + State.reset.node * 2 ^ 48 + 2 ^ 26))), 2, BitVec.ofNat 128 (0x80 * 2 ^ 120 + (1 * 2 ^ 96 + 2 * 2 ^ 80 + 0xFFFF * 2 ^ 64 + State.reset.node * 2 ^ 48 + 2 ^ 26)), by and_intros <;> decide +kernel⟩⟩

/-- States that meet the hypotheses of `CoreInstructions` (clauses 7, 8, 9, 10, 11). -/
theorem witness_CoreInstructions_2 :
    (∃ (s : State) (n : Nat) (w : Word128),
    Issues s n .store w ∧ xAddrOb w + 64 * xLen w ≤ obSize ∧ s.fab.remotes = [] ∧ (s.core n).tail = [] ∧ s.ownQueue = false ∧ gSpace (xGaddr w) < 2 ∧ gNode (xGaddr w) = s.node ∧ 0 < xLen w ∧ xLen w ≤ 64 ∧ gOff (xGaddr w) % 4096 = 0 ∧ s.targetMapped (gSpace (xGaddr w)) (gOff (xGaddr w)) (64 * xLen w) = true)
    ∧ (∃ (s : State) (n : Nat) (k : Nat) (w : Word128),
    Issues s n .wait w ∧ s.counterAt (gOff (xGaddr w)) = some k ∧ gNode (xGaddr w) = s.node ∧ gSpace (xGaddr w) = 2)
    ∧ (∃ (s : State) (n : Nat) (k : Nat) (w : Word128),
    Issues s n .signal w ∧ s.counterAt (gOff (xGaddr w)) = some k ∧ gNode (xGaddr w) = s.node ∧ gSpace (xGaddr w) = 2 ∧ s.moving n = false ∧ s.ownWaits = false)
    ∧ (∃ (s : State) (n : Nat) (w : Word128) (o : Opc) (c : Instr),
    (o, c) ∈ [(Opc.signal, Instr.instrSignal n), (.arrive, .instrArrive n)] ∧ Issues s n o w ∧ s.moving n = true)
    ∧ (∃ (s : State) (n : Nat) (b : Nat) (w : Word128),
    Issues s n .arrive w ∧ xLen w < 65536 ∧ barrierAt (gOff (xGaddr w)) = some b ∧ gSpace (xGaddr w) = 2 ∧ gNode (xGaddr w) = s.node ∧ s.moving n = false ∧ s.ownWaits = false ∧ (((s.advance n).deschedule (s.pastCore n) (.barrier s.node b (xLen w % 65536)) (xDoneCtr w)).arrive b ⟨(s.core n).ctx, n, xLen w % 65536⟩).2 = .ok) :=
  ⟨⟨(issuing (0x81 * 2 ^ 120 + (1 * 2 ^ 96 + 2 * 2 ^ 80 + 0xFFFF * 2 ^ 64 + State.reset.node * 2 ^ 48 + 2 ^ 26))), 2, BitVec.ofNat 128 (0x81 * 2 ^ 120 + (1 * 2 ^ 96 + 2 * 2 ^ 80 + 0xFFFF * 2 ^ 64 + State.reset.node * 2 ^ 48 + 2 ^ 26)), by and_intros <;> decide +kernel⟩,
   ⟨(issuing (0x88 * 2 ^ 120 + (5 * 2 ^ 96 + 0 * 2 ^ 80 + 0xFFFF * 2 ^ 64 + State.reset.node * 2 ^ 48 + 2 ^ 47 + 8 * 3))), 2, 3, BitVec.ofNat 128 (0x88 * 2 ^ 120 + (5 * 2 ^ 96 + 0 * 2 ^ 80 + 0xFFFF * 2 ^ 64 + State.reset.node * 2 ^ 48 + 2 ^ 47 + 8 * 3)), by and_intros <;> decide +kernel⟩,
   ⟨(issuing (0x89 * 2 ^ 120 + ((2 ^ 24 - 1) * 2 ^ 96 + 0 * 2 ^ 80 + 0xFFFF * 2 ^ 64 + State.reset.node * 2 ^ 48 + 2 ^ 47 + 8 * 3))), 2, 3, BitVec.ofNat 128 (0x89 * 2 ^ 120 + ((2 ^ 24 - 1) * 2 ^ 96 + 0 * 2 ^ 80 + 0xFFFF * 2 ^ 64 + State.reset.node * 2 ^ 48 + 2 ^ 47 + 8 * 3)), by and_intros <;> decide +kernel⟩,
   ⟨((issuing (0x89 * 2 ^ 120 + 0xFFFF * 2 ^ 64)).putCore { (issuing (0x89 * 2 ^ 120 + 0xFFFF * 2 ^ 64)).core 2 with tail := [⟨0, 0xFFFF, [], 0, true, []⟩] }), 2, BitVec.ofNat 128 (0x89 * 2 ^ 120 + 0xFFFF * 2 ^ 64), .signal, .instrSignal 2, by and_intros <;> decide +kernel⟩,
   ⟨((issuing (0x8A * 2 ^ 120 + (2 * 2 ^ 96 + 0 * 2 ^ 80 + 0xFFFF * 2 ^ 64 + State.reset.node * 2 ^ 48 + 2 ^ 47 + 64 * 2 ^ 18 + 64 * 3))).setRegs [(R.SYN_BAR_A_STATE 3, 1), (R.SYN_BAR_A_ROUND 3, 2), (R.SYN_BAR_A_PARTICIPANTS 3, 4)]), 2, 3, BitVec.ofNat 128 (0x8A * 2 ^ 120 + (2 * 2 ^ 96 + 0 * 2 ^ 80 + 0xFFFF * 2 ^ 64 + State.reset.node * 2 ^ 48 + 2 ^ 47 + 64 * 2 ^ 18 + 64 * 3)), by and_intros <;> decide +kernel⟩⟩

/-- States that meet the hypotheses of `DataPathInstructions` (clauses 1, 2, 3, 4). -/
theorem witness_DataPathInstructions_1 :
    (∃ (s : State) (n : Nat) (w : Word128) (i : MInstr),
    Issues s n .mma w ∧ mDecode w = some i ∧ (s.advance n).held (s.pastCore n) .mma (i.ranges i.bTileRanges).1 (i.ranges i.bTileRanges).2 = none)
    ∧ (∃ (s : State) (n : Nat) (w : Word128) (i : MInstr),
    Issues s n .mmt w ∧ mDecode w = some i ∧ (s.advance n).held (s.pastCore n) .mmt (i.ranges i.bRowRanges).1 (i.ranges i.bRowRanges).2 = none)
    ∧ (∃ (s : State) (n : Nat) (e : Nat) (w : Word128) (i : MInstr) (g : Staged),
    Issues s n .mmx w ∧ mDecode w = some i ∧ (blockFmt (fieldOf w 115 112)).isSome = true ∧ (s.advance n).held (s.pastCore n) .mmx (i.ranges []).1 (i.ranges []).2 = none ∧ (s.advance n).walkEnd n i.tileOps i.addrB = some e ∧ (s.advance n).loading n [(i.addrB, e - i.addrB)] [] = false ∧ g = (s.advance n).stage (s.pastCore n) i (fieldOf w 115 112) ((s.advance n).deltaOf n i.delta) i.tileOps i.addrB)
    ∧ (∃ (s : State) (n : Nat) (w : Word128) (o : Opc) (c : Instr) (i : VInstr),
    (o, c) ∈ [(Opc.vbin, Instr.vbin n), (.vbins, .vbins n), (.vfma, .vfma n), (.vun, .vun n), (.vred, .vred n), (.vsoftmax, .vsoftmax n), (.vnorm, .vnorm n), (.vrope, .vrope n), (.vcvt, .vcvt n), (.vmerge, .vmerge n)] ∧ Issues s n o w ∧ vDecode o w = some i ∧ i.limitsOk = true ∧ (s.advance n).held (s.pastCore n) o i.ranges.1 i.ranges.2 = none)
    ∧ (∃ (s : State) (n : Nat) (w : Word128) (o : Opc) (c : Instr) (i : VInstr),
    (o, c) ∈ [(Opc.vbin, Instr.vbin n), (.vbins, .vbins n), (.vfma, .vfma n), (.vun, .vun n), (.vred, .vred n), (.vsoftmax, .vsoftmax n), (.vnorm, .vnorm n), (.vrope, .vrope n), (.vcvt, .vcvt n), (.vmerge, .vmerge n)] ∧ Issues s n o w ∧ vDecode o w = some i ∧ i.limitsOk = true ∧ (s.advance n).held (s.pastCore n) o i.ranges.1 i.ranges.2 = none)
    ∧ (∃ (s : State) (n : Nat) (w : Word128) (o : Opc) (c : Instr) (i : VInstr),
    (o, c) ∈ [(Opc.vbin, Instr.vbin n), (.vbins, .vbins n), (.vfma, .vfma n), (.vun, .vun n), (.vred, .vred n), (.vsoftmax, .vsoftmax n), (.vnorm, .vnorm n), (.vrope, .vrope n), (.vcvt, .vcvt n), (.vmerge, .vmerge n)] ∧ Issues s n o w ∧ vDecode o w = some i ∧ i.limitsOk = true ∧ (s.advance n).held (s.pastCore n) o i.ranges.1 i.ranges.2 = none) :=
  ⟨⟨(issuing (1 * 2 ^ 120 + (2 * 2 ^ 116 + 2 * 2 ^ 112 + 2 ^ 80 + 4 * 2 ^ 64 + 512 * 2 ^ 48))), 2, BitVec.ofNat 128 (1 * 2 ^ 120 + (2 * 2 ^ 116 + 2 * 2 ^ 112 + 2 ^ 80 + 4 * 2 ^ 64 + 512 * 2 ^ 48)), mInstr0, by and_intros <;> decide +kernel⟩,
   ⟨(issuing (3 * 2 ^ 120 + (2 * 2 ^ 116 + 2 * 2 ^ 112 + 2 ^ 80 + 4 * 2 ^ 64 + 512 * 2 ^ 48))), 2, BitVec.ofNat 128 (3 * 2 ^ 120 + (2 * 2 ^ 116 + 2 * 2 ^ 112 + 2 ^ 80 + 4 * 2 ^ 64 + 512 * 2 ^ 48)), mInstr0, by and_intros <;> decide +kernel⟩,
   ⟨mmxIssuing, 2, ((mmxIssuing.advance 2).walkEnd 2 ({ mInstr0 with fa := .bf16 } : MInstr).tileOps ({ mInstr0 with fa := .bf16 } : MInstr).addrB).getD 0, BitVec.ofNat 128 (2 * 2 ^ 120 + 2 ^ 116 + 2 * 2 ^ 112 + 2 ^ 80 + 4 * 2 ^ 64 + 512 * 2 ^ 48), ({ mInstr0 with fa := .bf16 } : MInstr), (mmxIssuing.advance 2).stage (mmxIssuing.pastCore 2) ({ mInstr0 with fa := .bf16 } : MInstr) (fieldOf (BitVec.ofNat 128 (2 * 2 ^ 120 + 2 ^ 116 + 2 * 2 ^ 112 + 2 ^ 80 + 4 * 2 ^ 64 + 512 * 2 ^ 48)) 115 112) ((mmxIssuing.advance 2).deltaOf 2 ({ mInstr0 with fa := .bf16 } : MInstr).delta) ({ mInstr0 with fa := .bf16 } : MInstr).tileOps ({ mInstr0 with fa := .bf16 } : MInstr).addrB, by and_intros <;> first | decide +kernel | exact rfl⟩,
   ⟨(issuing (0x20 * 2 ^ 120 + (2 ^ 80 + 4 * 2 ^ 64 + 512 * 2 ^ 48 + 8 * 2 ^ 32))), 2, BitVec.ofNat 128 (0x20 * 2 ^ 120 + (2 ^ 80 + 4 * 2 ^ 64 + 512 * 2 ^ 48 + 8 * 2 ^ 32)), .vbin, .vbin 2, vInstr0 .vbin, by and_intros <;> decide +kernel⟩,
   ⟨(issuing (0x21 * 2 ^ 120 + (2 ^ 80 + 4 * 2 ^ 64 + 512 * 2 ^ 48 + 8 * 2 ^ 32))), 2, BitVec.ofNat 128 (0x21 * 2 ^ 120 + (2 ^ 80 + 4 * 2 ^ 64 + 512 * 2 ^ 48 + 8 * 2 ^ 32)), .vbins, .vbins 2, vInstr0 .vbins, by and_intros <;> decide +kernel⟩,
   ⟨(issuing (0x22 * 2 ^ 120 + (2 ^ 80 + 4 * 2 ^ 64 + 512 * 2 ^ 48 + 8 * 2 ^ 32))), 2, BitVec.ofNat 128 (0x22 * 2 ^ 120 + (2 ^ 80 + 4 * 2 ^ 64 + 512 * 2 ^ 48 + 8 * 2 ^ 32)), .vfma, .vfma 2, vInstr0 .vfma, by and_intros <;> decide +kernel⟩⟩

/-- States that meet the hypotheses of `DataPathInstructions` (clauses 4). -/
theorem witness_DataPathInstructions_2 :
    (∃ (s : State) (n : Nat) (w : Word128) (o : Opc) (c : Instr) (i : VInstr),
    (o, c) ∈ [(Opc.vbin, Instr.vbin n), (.vbins, .vbins n), (.vfma, .vfma n), (.vun, .vun n), (.vred, .vred n), (.vsoftmax, .vsoftmax n), (.vnorm, .vnorm n), (.vrope, .vrope n), (.vcvt, .vcvt n), (.vmerge, .vmerge n)] ∧ Issues s n o w ∧ vDecode o w = some i ∧ i.limitsOk = true ∧ (s.advance n).held (s.pastCore n) o i.ranges.1 i.ranges.2 = none)
    ∧ (∃ (s : State) (n : Nat) (w : Word128) (o : Opc) (c : Instr) (i : VInstr),
    (o, c) ∈ [(Opc.vbin, Instr.vbin n), (.vbins, .vbins n), (.vfma, .vfma n), (.vun, .vun n), (.vred, .vred n), (.vsoftmax, .vsoftmax n), (.vnorm, .vnorm n), (.vrope, .vrope n), (.vcvt, .vcvt n), (.vmerge, .vmerge n)] ∧ Issues s n o w ∧ vDecode o w = some i ∧ i.limitsOk = true ∧ (s.advance n).held (s.pastCore n) o i.ranges.1 i.ranges.2 = none)
    ∧ (∃ (s : State) (n : Nat) (w : Word128) (o : Opc) (c : Instr) (i : VInstr),
    (o, c) ∈ [(Opc.vbin, Instr.vbin n), (.vbins, .vbins n), (.vfma, .vfma n), (.vun, .vun n), (.vred, .vred n), (.vsoftmax, .vsoftmax n), (.vnorm, .vnorm n), (.vrope, .vrope n), (.vcvt, .vcvt n), (.vmerge, .vmerge n)] ∧ Issues s n o w ∧ vDecode o w = some i ∧ i.limitsOk = true ∧ (s.advance n).held (s.pastCore n) o i.ranges.1 i.ranges.2 = none)
    ∧ (∃ (s : State) (n : Nat) (w : Word128) (o : Opc) (c : Instr) (i : VInstr),
    (o, c) ∈ [(Opc.vbin, Instr.vbin n), (.vbins, .vbins n), (.vfma, .vfma n), (.vun, .vun n), (.vred, .vred n), (.vsoftmax, .vsoftmax n), (.vnorm, .vnorm n), (.vrope, .vrope n), (.vcvt, .vcvt n), (.vmerge, .vmerge n)] ∧ Issues s n o w ∧ vDecode o w = some i ∧ i.limitsOk = true ∧ (s.advance n).held (s.pastCore n) o i.ranges.1 i.ranges.2 = none)
    ∧ (∃ (s : State) (n : Nat) (w : Word128) (o : Opc) (c : Instr) (i : VInstr),
    (o, c) ∈ [(Opc.vbin, Instr.vbin n), (.vbins, .vbins n), (.vfma, .vfma n), (.vun, .vun n), (.vred, .vred n), (.vsoftmax, .vsoftmax n), (.vnorm, .vnorm n), (.vrope, .vrope n), (.vcvt, .vcvt n), (.vmerge, .vmerge n)] ∧ Issues s n o w ∧ vDecode o w = some i ∧ i.limitsOk = true ∧ (s.advance n).held (s.pastCore n) o i.ranges.1 i.ranges.2 = none)
    ∧ (∃ (s : State) (n : Nat) (w : Word128) (o : Opc) (c : Instr) (i : VInstr),
    (o, c) ∈ [(Opc.vbin, Instr.vbin n), (.vbins, .vbins n), (.vfma, .vfma n), (.vun, .vun n), (.vred, .vred n), (.vsoftmax, .vsoftmax n), (.vnorm, .vnorm n), (.vrope, .vrope n), (.vcvt, .vcvt n), (.vmerge, .vmerge n)] ∧ Issues s n o w ∧ vDecode o w = some i ∧ i.limitsOk = true ∧ (s.advance n).held (s.pastCore n) o i.ranges.1 i.ranges.2 = none) :=
  ⟨⟨(issuing (0x23 * 2 ^ 120 + (2 ^ 80 + 4 * 2 ^ 64 + 512 * 2 ^ 48 + 8 * 2 ^ 32))), 2, BitVec.ofNat 128 (0x23 * 2 ^ 120 + (2 ^ 80 + 4 * 2 ^ 64 + 512 * 2 ^ 48 + 8 * 2 ^ 32)), .vun, .vun 2, vInstr0 .vun, by and_intros <;> decide +kernel⟩,
   ⟨(issuing (0x24 * 2 ^ 120 + (2 ^ 80 + 4 * 2 ^ 64 + 512 * 2 ^ 48 + 8 * 2 ^ 32))), 2, BitVec.ofNat 128 (0x24 * 2 ^ 120 + (2 ^ 80 + 4 * 2 ^ 64 + 512 * 2 ^ 48 + 8 * 2 ^ 32)), .vred, .vred 2, vInstr0 .vred, by and_intros <;> decide +kernel⟩,
   ⟨(issuing (0x25 * 2 ^ 120 + (2 ^ 80 + 4 * 2 ^ 64 + 512 * 2 ^ 48 + 8 * 2 ^ 32))), 2, BitVec.ofNat 128 (0x25 * 2 ^ 120 + (2 ^ 80 + 4 * 2 ^ 64 + 512 * 2 ^ 48 + 8 * 2 ^ 32)), .vsoftmax, .vsoftmax 2, vInstr0 .vsoftmax, by and_intros <;> decide +kernel⟩,
   ⟨(issuing (0x26 * 2 ^ 120 + (2 ^ 80 + 4 * 2 ^ 64 + 512 * 2 ^ 48 + 8 * 2 ^ 32))), 2, BitVec.ofNat 128 (0x26 * 2 ^ 120 + (2 ^ 80 + 4 * 2 ^ 64 + 512 * 2 ^ 48 + 8 * 2 ^ 32)), .vnorm, .vnorm 2, vInstr0 .vnorm, by and_intros <;> decide +kernel⟩,
   ⟨(issuing (0x27 * 2 ^ 120 + (2 ^ 80 + 4 * 2 ^ 64 + 512 * 2 ^ 48 + 8 * 2 ^ 32))), 2, BitVec.ofNat 128 (0x27 * 2 ^ 120 + (2 ^ 80 + 4 * 2 ^ 64 + 512 * 2 ^ 48 + 8 * 2 ^ 32)), .vrope, .vrope 2, vInstr0 .vrope, by and_intros <;> decide +kernel⟩,
   ⟨(issuing (0x28 * 2 ^ 120 + (2 ^ 80 + 4 * 2 ^ 64 + 512 * 2 ^ 48 + 8 * 2 ^ 32))), 2, BitVec.ofNat 128 (0x28 * 2 ^ 120 + (2 ^ 80 + 4 * 2 ^ 64 + 512 * 2 ^ 48 + 8 * 2 ^ 32)), .vcvt, .vcvt 2, vInstr0 .vcvt, by and_intros <;> decide +kernel⟩⟩

/-- States that meet the hypotheses of `DataPathInstructions` (clauses 4, 5, 6, 7, 8). -/
theorem witness_DataPathInstructions_3 :
    (∃ (s : State) (n : Nat) (w : Word128) (o : Opc) (c : Instr) (i : VInstr),
    (o, c) ∈ [(Opc.vbin, Instr.vbin n), (.vbins, .vbins n), (.vfma, .vfma n), (.vun, .vun n), (.vred, .vred n), (.vsoftmax, .vsoftmax n), (.vnorm, .vnorm n), (.vrope, .vrope n), (.vcvt, .vcvt n), (.vmerge, .vmerge n)] ∧ Issues s n o w ∧ vDecode o w = some i ∧ i.limitsOk = true ∧ (s.advance n).held (s.pastCore n) o i.ranges.1 i.ranges.2 = none)
    ∧ (∃ (s : State) (n : Nat) (w : Word128) (o : Opc) (v : Bool) (c : Instr) (i : SInstr) (ws : List ObWrite),
    (o, v, c) ∈ [(Opc.sample, false, Instr.sample n), (.sverify, true, .sverify n)] ∧ Issues s n o w ∧ sDecode w = some i ∧ i.limitsOk = true ∧ (s.advance n).held (s.pastCore n) o i.sampleRanges.1 i.sampleRanges.2 = none ∧ ((List.range i.requests).any fun r => (s.advance n).badReq n (i.entry ((s.advance n).ob n) r).1) = false ∧ (((s.advance n).sampleAll (s.pastCore n) i v (List.range i.requests)).run { fresh := s.fresh }).1 = some ws)
    ∧ (∃ (s : State) (n : Nat) (w : Word128) (o : Opc) (v : Bool) (c : Instr) (i : SInstr) (ws : List ObWrite),
    (o, v, c) ∈ [(Opc.sample, false, Instr.sample n), (.sverify, true, .sverify n)] ∧ Issues s n o w ∧ sDecode w = some i ∧ i.limitsOk = true ∧ (s.advance n).held (s.pastCore n) o i.sampleRanges.1 i.sampleRanges.2 = none ∧ ((List.range i.requests).any fun r => (s.advance n).badReq n (i.entry ((s.advance n).ob n) r).1) = false ∧ (((s.advance n).sampleAll (s.pastCore n) i v (List.range i.requests)).run { fresh := s.fresh }).1 = some ws)
    ∧ (∃ (s : State) (n : Nat) (w : Word128) (i : SInstr),
    Issues s n .slogprob w ∧ sDecode w = some i ∧ (s.advance n).held (s.pastCore n) .slogprob [(i.addrX, i.rows * strideOf i.fi i.vocab), (i.addrY, 128 * i.rows)] [(i.addrZ, 4 * i.rows)] = none)
    ∧ (∃ (s : State) (n : Nat) (id : Nat) (w : Word128) (i : SInstr),
    Issues s n .scommit w ∧ sDecode w = some i ∧ i.limitsOk = true ∧ i.requests = 1 ∧ (s.advance n).held (s.pastCore n) .scommit [(i.addrX, 192), (i.addrY, 128)] [(i.addrZ, 16)] = none ∧ (i.entry ((s.advance n).ob n) 0).1 = id ∧ (s.advance n).badReq n id = false)
    ∧ (∃ (s : State) (n : Nat) (m : Nat) (w : Word128) (o : Opc) (a : Bool) (c : Instr) (i : OInstr),
    (o, a, c) ∈ [(Opc.oadam, true, Instr.oadam n), (.osgd, false, .osgd n)] ∧ Issues s n o w ∧ oDecode w = some i ∧ (s.advance n).held (s.pastCore n) o [(i.addrP, 64)] [] = none ∧ i.count ((s.advance n).ob n) = m ∧ 0 < m ∧ m ≤ 262144 ∧ (s.advance n).held (s.pastCore n) o (i.ranges a m).1 (i.ranges a m).2 = none) :=
  ⟨⟨(issuing (0x29 * 2 ^ 120 + (2 ^ 80 + 4 * 2 ^ 64 + 512 * 2 ^ 48 + 8 * 2 ^ 32 + 2 ^ 16 + 1))), 2, BitVec.ofNat 128 (0x29 * 2 ^ 120 + (2 ^ 80 + 4 * 2 ^ 64 + 512 * 2 ^ 48 + 8 * 2 ^ 32 + 2 ^ 16 + 1)), .vmerge, .vmerge 2, { vInstr0 .vmerge with imm := 0x10001 }, by and_intros <;> decide +kernel⟩,
   ⟨((((issuing (0x40 * 2 ^ 120 + (2 ^ 80 + 4 * 2 ^ 64 + 512 * 2 ^ 48 + 700 * 2 ^ 32 + 3))).wrNum .op (2 * obSize + 256) 8 5).wrNum .op (2 * obSize + 64) 4 0x7F800000).putWork work0), 2, BitVec.ofNat 128 (0x40 * 2 ^ 120 + (2 ^ 80 + 4 * 2 ^ 64 + 512 * 2 ^ 48 + 700 * 2 ^ 32 + 3)), .sample, false, .sample 2, sInstr0, (((((((issuing (0x40 * 2 ^ 120 + (2 ^ 80 + 4 * 2 ^ 64 + 512 * 2 ^ 48 + 700 * 2 ^ 32 + 3))).wrNum .op (2 * obSize + 256) 8 5).wrNum .op (2 * obSize + 64) 4 0x7F800000).putWork work0).advance 2).sampleAll (((((issuing (0x40 * 2 ^ 120 + (2 ^ 80 + 4 * 2 ^ 64 + 512 * 2 ^ 48 + 700 * 2 ^ 32 + 3))).wrNum .op (2 * obSize + 256) 8 5).wrNum .op (2 * obSize + 64) 4 0x7F800000).putWork work0).pastCore 2) sInstr0 false (List.range sInstr0.requests)).run { fresh := ((((issuing (0x40 * 2 ^ 120 + (2 ^ 80 + 4 * 2 ^ 64 + 512 * 2 ^ 48 + 700 * 2 ^ 32 + 3))).wrNum .op (2 * obSize + 256) 8 5).wrNum .op (2 * obSize + 64) 4 0x7F800000).putWork work0).fresh }).1.getD [], by and_intros <;> first | decide +kernel | exact opt_getD _ _ (by decide +kernel)⟩,
   ⟨((((issuing (0x41 * 2 ^ 120 + (2 ^ 80 + 4 * 2 ^ 64 + 512 * 2 ^ 48 + 700 * 2 ^ 32 + 3))).wrNum .op (2 * obSize + 256) 8 5).wrNum .op (2 * obSize + 64) 4 0x7F800000).putWork work0), 2, BitVec.ofNat 128 (0x41 * 2 ^ 120 + (2 ^ 80 + 4 * 2 ^ 64 + 512 * 2 ^ 48 + 700 * 2 ^ 32 + 3)), .sverify, true, .sverify 2, sInstr0, (((((((issuing (0x41 * 2 ^ 120 + (2 ^ 80 + 4 * 2 ^ 64 + 512 * 2 ^ 48 + 700 * 2 ^ 32 + 3))).wrNum .op (2 * obSize + 256) 8 5).wrNum .op (2 * obSize + 64) 4 0x7F800000).putWork work0).advance 2).sampleAll (((((issuing (0x41 * 2 ^ 120 + (2 ^ 80 + 4 * 2 ^ 64 + 512 * 2 ^ 48 + 700 * 2 ^ 32 + 3))).wrNum .op (2 * obSize + 256) 8 5).wrNum .op (2 * obSize + 64) 4 0x7F800000).putWork work0).pastCore 2) sInstr0 true (List.range sInstr0.requests)).run { fresh := ((((issuing (0x41 * 2 ^ 120 + (2 ^ 80 + 4 * 2 ^ 64 + 512 * 2 ^ 48 + 700 * 2 ^ 32 + 3))).wrNum .op (2 * obSize + 256) 8 5).wrNum .op (2 * obSize + 64) 4 0x7F800000).putWork work0).fresh }).1.getD [], by and_intros <;> first | decide +kernel | exact opt_getD _ _ (by decide +kernel)⟩,
   ⟨(issuing (0x43 * 2 ^ 120 + (2 ^ 80 + 4 * 2 ^ 64 + 512 * 2 ^ 48 + 700 * 2 ^ 32 + 3))), 2, BitVec.ofNat 128 (0x43 * 2 ^ 120 + (2 ^ 80 + 4 * 2 ^ 64 + 512 * 2 ^ 48 + 700 * 2 ^ 32 + 3)), sInstr0, by and_intros <;> decide +kernel⟩,
   ⟨((((issuing (0x42 * 2 ^ 120 + (2 ^ 80 + 4 * 2 ^ 64 + 512 * 2 ^ 48 + 700 * 2 ^ 32 + 3))).wrNum .op (2 * obSize + 256) 8 5).wrNum .op (2 * obSize + 64) 4 0x7F800000).putWork work0), 2, 5, BitVec.ofNat 128 (0x42 * 2 ^ 120 + (2 ^ 80 + 4 * 2 ^ 64 + 512 * 2 ^ 48 + 700 * 2 ^ 32 + 3)), sInstr0, by and_intros <;> decide +kernel⟩,
   ⟨((issuing (0x60 * 2 ^ 120 + (2 ^ 112 + 2 ^ 80 + 4 * 2 ^ 64 + 512 * 2 ^ 48 + 700 * 2 ^ 32 + 800 * 2 ^ 16 + 900))).wrNum .op (2 * obSize + 900 * 64 + 0x20) 4 3), 2, 3, BitVec.ofNat 128 (0x60 * 2 ^ 120 + (2 ^ 112 + 2 ^ 80 + 4 * 2 ^ 64 + 512 * 2 ^ 48 + 700 * 2 ^ 32 + 800 * 2 ^ 16 + 900)), .oadam, true, .oadam 2, oInstr0, by and_intros <;> decide +kernel⟩⟩

/-- States that meet the hypotheses of `DataPathInstructions` (clauses 8, 9, 10). -/
theorem witness_DataPathInstructions_4 :
    (∃ (s : State) (n : Nat) (m : Nat) (w : Word128) (o : Opc) (a : Bool) (c : Instr) (i : OInstr),
    (o, a, c) ∈ [(Opc.oadam, true, Instr.oadam n), (.osgd, false, .osgd n)] ∧ Issues s n o w ∧ oDecode w = some i ∧ (s.advance n).held (s.pastCore n) o [(i.addrP, 64)] [] = none ∧ i.count ((s.advance n).ob n) = m ∧ 0 < m ∧ m ≤ 262144 ∧ (s.advance n).held (s.pastCore n) o (i.ranges a m).1 (i.ranges a m).2 = none)
    ∧ (∃ (s : State) (n : Nat),
    s.pcr.raiseTo = none ∧ (s.core n).squash = true ∧ (s.core n).stopped = false)
    ∧ (∃ (s : State) (n : Nat) (op : CoreOp) (ops : List CoreOp),
    s.pcr.raiseTo = none ∧ (s.core n).squash = false ∧ (s.core n).tail = op :: ops) :=
  ⟨⟨((issuing (0x61 * 2 ^ 120 + (2 ^ 112 + 2 ^ 80 + 4 * 2 ^ 64 + 512 * 2 ^ 48 + 700 * 2 ^ 32 + 800 * 2 ^ 16 + 900))).wrNum .op (2 * obSize + 900 * 64 + 0x20) 4 3), 2, 3, BitVec.ofNat 128 (0x61 * 2 ^ 120 + (2 ^ 112 + 2 ^ 80 + 4 * 2 ^ 64 + 512 * 2 ^ 48 + 700 * 2 ^ 32 + 800 * 2 ^ 16 + 900)), .osgd, false, .osgd 2, oInstr0, by and_intros <;> decide +kernel⟩,
   ⟨State.reset.putCore { (State.reset.core 2) with num := 2, squash := true }, 2, by and_intros <;> decide +kernel⟩,
   ⟨State.reset.putCore { (State.reset.core 2) with num := 2, tail := [⟨0, 0xFFFF, [], 0, false, [.write none 64 [1]]⟩] }, 2, ⟨0, 0xFFFF, [], 0, false, [.write none 64 [1]]⟩, [], by and_intros <;> decide +kernel⟩⟩

/-- States that meet the hypotheses of `ExpanderStore` (clauses 1, 2, 3, 4, 5, 6). -/
theorem witness_ExpanderStore_1 :
    (∃ (s : State) (id : Nat) (el : Nat) (lens : List Nat),
    s.expIdle = true ∧ tableImage (s.rd .hbm) (s.reg R.EXP_CMD_ADDR_OFFSET) = some (el, id, lens) ∧ s.reg R.EXP_CMD_ADDR_OFFSET % 64 = 0 ∧ s.hbmMapped (s.reg R.EXP_CMD_ADDR_OFFSET) 144 = true ∧ s.table? id = none)
    ∧ (∃ (s : State) (id : Nat) (el : Nat) (lens : List Nat) (t : CodeTable),
    s.expIdle = true ∧ tableImage (s.rd .hbm) (s.reg R.EXP_CMD_ADDR_OFFSET) = some (el, id, lens) ∧ s.reg R.EXP_CMD_ADDR_OFFSET % 64 = 0 ∧ s.hbmMapped (s.reg R.EXP_CMD_ADDR_OFFSET) 144 = true ∧ s.table? id = some t ∧ t.element = el ∧ t.lens = lens)
    ∧ (∃ (s : State) (id : Nat) (el : Nat) (lens : List Nat) (t : CodeTable),
    s.expIdle = true ∧ tableImage (s.rd .hbm) (s.reg R.EXP_CMD_ADDR_OFFSET) = some (el, id, lens) ∧ s.reg R.EXP_CMD_ADDR_OFFSET % 64 = 0 ∧ s.hbmMapped (s.reg R.EXP_CMD_ADDR_OFFSET) 144 = true ∧ s.table? id = some t ∧ t.lens ≠ lens ∧ t.binds ≠ [])
    ∧ (∃ (s : State) (id : Nat) (el : Nat) (lens : List Nat) (t : CodeTable),
    s.expIdle = true ∧ tableImage (s.rd .hbm) (s.reg R.EXP_CMD_ADDR_OFFSET) = some (el, id, lens) ∧ s.reg R.EXP_CMD_ADDR_OFFSET % 64 = 0 ∧ s.hbmMapped (s.reg R.EXP_CMD_ADDR_OFFSET) 144 = true ∧ s.table? id = some t ∧ t.lens ≠ lens ∧ t.binds = [])
    ∧ (∃ (s : State) (id : Nat),
    s.expIdle = true ∧ tableImage (s.rd .hbm) (s.reg R.EXP_CMD_ADDR_OFFSET) = none)
    ∧ (∃ (s : State) (id : Nat) (el : Nat) (lens : List Nat),
    s.exp.busy = some (.tableLoad id el lens)) :=
  ⟨⟨tableNode, 3, 2, (1 :: List.replicate 255 0), by and_intros <;> decide +kernel⟩,
   ⟨tableNode.onExp fun e => { e with tables := [{ table0 with lens := 1 :: List.replicate 255 0 }] }, 3, 2, (1 :: List.replicate 255 0), { table0 with lens := 1 :: List.replicate 255 0 }, by and_intros <;> decide +kernel⟩,
   ⟨tableNode.onExp fun e => { e with tables := [{ table0 with binds := [1] }] }, 3, 2, (1 :: List.replicate 255 0), { table0 with binds := [1] }, by and_intros <;> decide +kernel⟩,
   ⟨tableNode.onExp fun e => { e with tables := [table0] }, 3, 2, (1 :: List.replicate 255 0), table0, by and_intros <;> decide +kernel⟩,
   ⟨State.reset, 3, by and_intros <;> decide +kernel⟩,
   ⟨State.reset.onExp fun e => { e with tables := [table0], busy := some (.tableLoad 3 2 [1]) }, 3, 2, [1], by decide +kernel⟩⟩

/-- States that meet the hypotheses of `ExpanderStore` (clauses 7, 8, 9, 10, 11, 12). -/
theorem witness_ExpanderStore_2 :
    (∃ (s : State) (id : Nat) (t : CodeTable),
    s.expIdle = true ∧ id ≠ 0 ∧ s.table? id = some t)
    ∧ (∃ (s : State) (id : Nat),
    s.expIdle = true ∧ id ≠ 0 ∧ s.table? id = none)
    ∧ (∃ (s : State) (k : Nat),
    s.expIdle = true ∧ s.flag R.CAP_FEATURES_STIPPLE = true ∧ k ≠ 0 ∧ s.dslot? k = none ∧ s.exp.slots.length < s.reg R.CAP_LIMITS_DELTA_SETS_MAX)
    ∧ (∃ (s : State) (k : Nat),
    s.expIdle = true ∧ s.flag R.CAP_FEATURES_STIPPLE = true ∧ k ≠ 0 ∧ s.dslot? k = none ∧ s.reg R.CAP_LIMITS_DELTA_SETS_MAX ≤ s.exp.slots.length)
    ∧ (∃ (s : State) (k : Nat),
    s.expIdle = true ∧ s.flag R.CAP_FEATURES_STIPPLE = false)
    ∧ (∃ (s : State) (k : Nat) (a : Nat) (h : DsetHdr),
    s.exp.busy = some (.dsetLoad k a) ∧ a % 64 = 0 ∧ dsetOk (s.rd .hbm) a = some h ∧ s.hbmMapped a h.setBytes = true) :=
  ⟨⟨tableNode.onExp fun e => { e with tables := [table0] }, 3, table0, by and_intros <;> decide +kernel⟩,
   ⟨State.reset, 3, by and_intros <;> decide +kernel⟩,
   ⟨(State.reset.setRegs [(R.CAP_FEATURES_STIPPLE, 1), (R.CAP_LIMITS_DELTA_SETS_MAX, 1)]), 2, by and_intros <;> decide +kernel⟩,
   ⟨(State.reset.setRegs [(R.CAP_FEATURES_STIPPLE, 1), (R.CAP_LIMITS_DELTA_SETS_MAX, 1)]).onExp fun e => { e with slots := [dslot0] }, 3, by and_intros <;> decide +kernel⟩,
   ⟨State.reset.setReg R.CAP_FEATURES_STIPPLE 0, 2, by and_intros <;> decide +kernel⟩,
   ⟨(dsetNode.onExp fun e => { e with busy := some (.dsetLoad 2 0) }), 2, 0, { modelId := 4, variantId := 9, policyVersion := 0, tileCount := 0, setBytes := 64, l1 := 0, entries := 0 }, by and_intros <;> decide +kernel⟩⟩

/-- States that meet the hypotheses of `ExpanderStore` (clauses 13, 14, 15, 16, 17, 18). -/
theorem witness_ExpanderStore_3 :
    (∃ (s : State) (k : Nat) (a : Nat),
    s.exp.busy = some (.dsetLoad k a) ∧ dsetOk (s.rd .hbm) a = none)
    ∧ (∃ (s : State) (k : Nat) (t : DeltaSlot),
    s.expIdle = true ∧ k ≠ 0 ∧ s.dslot? k = some t)
    ∧ (∃ (s : State) (c : Nat) (id : Nat) (t : CodeTable),
    s.expIdle = true ∧ s.ctxOpen c = true ∧ id ≠ 0 ∧ s.table? id = some t ∧ t.dropping = false ∧ c ∉ t.binds ∧ (s.exp.tables.filter fun x => x.binds.contains c).length + bit (s.exp.storedBinds.contains c) < 64)
    ∧ (∃ (s : State) (c : Nat),
    s.expIdle = true ∧ s.ctxOpen c = true ∧ c ∉ s.exp.storedBinds ∧ (s.exp.tables.filter fun x => x.binds.contains c).length < 64)
    ∧ (∃ (s : State) (c : Nat) (id : Nat),
    s.expIdle = true ∧ s.ctxOpen c = false)
    ∧ (∃ (s : State) (c : Nat) (k : Nat) (t : DeltaSlot),
    s.expIdle = true ∧ s.ctxOpen c = true ∧ s.dslot? k = some t ∧ t.dropping = false ∧ c ∉ t.binds ∧ (s.exp.slots.filter fun x => x.binds.contains c).length < 256) :=
  ⟨⟨State.reset.onExp fun e => { e with busy := some (.dsetLoad 2 0) }, 2, 0, by and_intros <;> decide +kernel⟩,
   ⟨State.reset.onExp fun e => { e with slots := [dslot0] }, 2, dslot0, by and_intros <;> decide +kernel⟩,
   ⟨(State.reset.onSch fun b => { b with ctxs := [ctx0 1 .open_] }).onExp fun e => { e with tables := [table0] }, 1, 3, table0, by and_intros <;> decide +kernel⟩,
   ⟨State.reset.onSch fun b => { b with ctxs := [ctx0 1 .open_] }, 1, by and_intros <;> decide +kernel⟩,
   ⟨State.reset, 1, 3, by and_intros <;> decide +kernel⟩,
   ⟨(State.reset.onSch fun b => { b with ctxs := [ctx0 1 .open_] }).onExp fun e => { e with slots := [dslot0] }, 1, 2, dslot0, by and_intros <;> decide +kernel⟩⟩

/-- States that meet the hypotheses of `ExpanderStore` (clauses 19, 20, 21). -/
theorem witness_ExpanderStore_4 :
    (∃ (s : State) (c : Nat) (k : Nat),
    s.expIdle = true ∧ s.ctxOpen c = true ∧ s.dslot? k = none)
    ∧ (∃ (s : State) (v : Nat),
    s.expIdle = true)
    ∧ (∃ (s : State) (c : Instr) (a : Nat) (b : Nat),
    c ∈ [Instr.tableLoad a, .tableDrop a, .dsetLoad a, .dsetDrop a, .bindTable b a, .bindDset b a, .expCmdAddrWrite a] ∧ s.expIdle = false)
    ∧ (∃ (s : State) (c : Instr) (a : Nat) (b : Nat),
    c ∈ [Instr.tableLoad a, .tableDrop a, .dsetLoad a, .dsetDrop a, .bindTable b a, .bindDset b a, .expCmdAddrWrite a] ∧ s.expIdle = false) :=
  ⟨⟨(State.reset.onSch fun b => { b with ctxs := [ctx0 1 .open_] }).onExp fun e => { e with slots := [] }, 1, 2, by and_intros <;> decide +kernel⟩,
   ⟨State.reset, 3, by decide +kernel⟩,
   ⟨State.reset.setReg R.EXP_CMD_STATUS_BUSY 1, .tableLoad 3, 3, 1, by and_intros <;> decide +kernel⟩,
   ⟨State.reset.setReg R.EXP_CMD_STATUS_BUSY 1, .bindDset 1 3, 3, 1, by and_intros <;> decide +kernel⟩⟩

/-- States that meet the hypotheses of `Contexts` (clauses 1, 2, 3, 4, 5, 6). -/
theorem witness_Contexts_1 :
    (∃ (s : State) (c : Nat),
    s.flag R.SCH_CTX_STATUS_BUSY = false ∧ c < 0xFFF ∧ s.ctx? c = none ∧ s.turning = false)
    ∧ (∃ (s : State) (c : Nat) (x : Ctx),
    s.flag R.SCH_CTX_STATUS_BUSY = false ∧ c < 0xFFF ∧ s.ctx? c = some x ∧ x.state = .open_ ∧ s.turning = false)
    ∧ (∃ (s : State) (c : Nat) (x : Ctx),
    s.flag R.SCH_CTX_STATUS_BUSY = false ∧ c < 0xFFF ∧ s.ctx? c = some x ∧ x.state = .running)
    ∧ (∃ (s : State) (c : Nat) (x : Ctx),
    s.flag R.SCH_CTX_STATUS_BUSY = false ∧ c < 0xFFF ∧ s.ctx? c = some x ∧ x.state = .open_)
    ∧ (∃ (s : State) (c : Nat) (x : Ctx),
    s.flag R.SCH_CTX_STATUS_BUSY = false ∧ c < 0xFFF ∧ s.ctx? c = some x ∧ (x.state = .open_ ∨ x.state = .running ∨ x.state = .draining))
    ∧ (∃ (s : State) (c : Nat) (i : Instr),
    i ∈ [Instr.ctxOpen c, .ctxStart c, .ctxClose c, .ctxAbort c] ∧ (s.flag R.SCH_CTX_STATUS_BUSY = true ∨ 0xFFF ≤ c)) :=
  ⟨⟨State.reset, 1, by and_intros <;> decide +kernel⟩,
   ⟨(State.reset.onSch fun b => { b with ctxs := [ctx0 1 .open_] }), 1, ctx0 1 .open_, by and_intros <;> decide +kernel⟩,
   ⟨(State.reset.onSch fun b => { b with ctxs := [ctx0 1 .running] }), 1, ctx0 1 .running, by and_intros <;> decide +kernel⟩,
   ⟨(State.reset.onSch fun b => { b with ctxs := [ctx0 1 .open_] }), 1, ctx0 1 .open_, by and_intros <;> decide +kernel⟩,
   ⟨(State.reset.onSch fun b => { b with ctxs := [ctx0 1 .draining] }), 1, ctx0 1 .draining, by and_intros <;> decide +kernel⟩,
   ⟨State.reset, 0xFFF, .ctxOpen 0xFFF, by and_intros <;> decide +kernel⟩⟩

/-- States that meet the hypotheses of `Contexts` (clauses 6, 7, 8, 9, 10, 11). -/
theorem witness_Contexts_2 :
    (∃ (s : State) (c : Nat) (i : Instr),
    i ∈ [Instr.ctxOpen c, .ctxStart c, .ctxClose c, .ctxAbort c] ∧ (s.flag R.SCH_CTX_STATUS_BUSY = true ∨ 0xFFF ≤ c))
    ∧ (∃ (s : State) (c : Nat) (i : Instr),
    i ∈ [Instr.ctxStart c, .ctxClose c, .ctxAbort c] ∧ s.ctx? c = none)
    ∧ (∃ (s : State) (c : Nat),
    s.turning = true)
    ∧ (∃ (s : State) (c : Nat) (x : Ctx) (st : St),
    s.ctx? c = some x ∧ x.state = .loading ∧ s.descCheck x.desc = some st)
    ∧ (∃ (s : State) (c : Nat) (x : Ctx),
    s.ctx? c = some x ∧ x.num = c ∧ x.state = .loading ∧ s.descCheck x.desc = none ∧ s.turning = false ∧ s.sch.busy = some (1, c))
    ∧ (∃ (s : State) (d : Desc),
    (d.formOk = false ∨ s.descCores d = false ∨ d.ranges = false)) :=
  ⟨⟨State.reset.setReg R.SCH_CTX_STATUS_BUSY 1, 1, .ctxStart 1, by and_intros <;> decide +kernel⟩,
   ⟨State.reset, 1, .ctxAbort 1, by and_intros <;> decide +kernel⟩,
   ⟨State.reset.setReg R.PHS_PHASE_STATE 1, 1, by decide +kernel⟩,
   ⟨(State.reset.onSch fun b => { b with ctxs := [{ ctx0 1 .loading with desc := { desc0 with formOk := false } }] }), 1, { ctx0 1 .loading with desc := { desc0 with formOk := false } }, .badParam, by and_intros <;> decide +kernel⟩,
   ⟨((State.reset.onSch fun b => { b with ctxs := [{ ctx0 1 .loading with desc := { desc0 with chunkRows := 1 } }], busy := some (1, 1) }).setRegs [(R.SCH_COMP_A_CORE_UNITS 0, 1), (R.PHS_PHASE_ROLE, 2)]), 1, { ctx0 1 .loading with desc := { desc0 with chunkRows := 1 } }, by and_intros <;> decide +kernel⟩,
   ⟨State.reset, { desc0 with formOk := false }, by decide +kernel⟩⟩

/-- States that meet the hypotheses of `Contexts` (clauses 12, 13, 14, 15, 16, 17). -/
theorem witness_Contexts_3 :
    (∃ (s : State) (d : Desc),
    d.formOk = true ∧ s.descCores d = true ∧ d.ranges = true ∧ d.suits (s.reg R.PHS_PHASE_ROLE) = false)
    ∧ (∃ (s : State) (d : Desc),
    d.formOk = true ∧ s.descCores d = true ∧ d.ranges = true ∧ d.suits (s.reg R.PHS_PHASE_ROLE) = true ∧ s.programOk d = false)
    ∧ (∃ (s : State) (c : Nat) (x : Ctx),
    s.ctx? c = some x ∧ x.state = .draining)
    ∧ (∃ (s : State) (c : Nat) (x : Ctx),
    s.ctx? c = some x ∧ x.state ≠ .draining)
    ∧ (∃ (s : State) (c : Nat) (x : Ctx),
    s.ctx? c = some x ∧ x.num = c ∧ x.state = .closing ∧ x.cause ≠ .fault)
    ∧ (∃ (s : State) (c : Nat) (x : Ctx),
    s.ctx? c = some x ∧ x.state ≠ .closing) :=
  ⟨⟨(State.reset.setRegs [(R.SCH_COMP_A_CORE_UNITS 0, 1), (R.PHS_PHASE_ROLE, 3)]), { desc0 with chunkRows := 1 }, by and_intros <;> decide +kernel⟩,
   ⟨((State.reset.setRegs [(R.SCH_COMP_A_CORE_UNITS 0, 1), (R.PHS_PHASE_ROLE, 2), (R.CAP_FEATURES_ROLE_GENERATION, 0)]).wrNum .hbm 0 16 (0x41 * 2 ^ 120)), { desc0 with chunkRows := 1 }, by and_intros <;> decide +kernel⟩,
   ⟨(State.reset.onSch fun b => { b with ctxs := [ctx0 1 .draining] }), 1, ctx0 1 .draining, by and_intros <;> decide +kernel⟩,
   ⟨(State.reset.onSch fun b => { b with ctxs := [ctx0 1 .open_] }), 1, ctx0 1 .open_, by and_intros <;> decide +kernel⟩,
   ⟨(State.reset.onSch fun b => { b with ctxs := [ctx0 1 .closing] }), 1, ctx0 1 .closing, by and_intros <;> decide +kernel⟩,
   ⟨(State.reset.onSch fun b => { b with ctxs := [ctx0 1 .open_] }), 1, ctx0 1 .open_, by and_intros <;> decide +kernel⟩⟩

/-- States that meet the hypotheses of `Contexts` (clauses 18, 19). -/
theorem witness_Contexts_4 :
    (∃ (s : State) (src : Nat) (job : Nat) (c : Nat) (cs : List Nat),
    s.jobContexts job = c :: cs)
    ∧ (∃ (s : State) (src : Nat) (job : Nat),
    s.jobContexts job = []) :=
  ⟨⟨(State.reset.onSch fun b => { b with ctxs := [{ ctx0 1 .running with desc := { desc0 with kind := .learn, jobId := 8 } }] }), 4, 8, 1, [], by decide +kernel⟩,
   ⟨State.reset, 4, 8, by decide +kernel⟩⟩

/-- States that meet the hypotheses of `SchedulerRegisters` (clauses 2, 3, 4, 5, 6, 7). -/
theorem witness_SchedulerRegisters_1 :
    (∃ (s : State) (q : Nat) (v : Nat),
    q < 4096 ∧ s.flag (R.SCH_QUEUE_A_VALID q) = false)
    ∧ (∃ (s : State) (q : Nat) (v : Nat),
    q < 4096 ∧ s.flag (R.SCH_QUEUE_A_VALID q) = true ∧ bitAt v 63 = true ∧ bitsOf v 62 62 = s.reg (R.SCH_QUEUE_A_CLASS q) ∧ bitsOf v 47 32 = s.reg (R.SCH_QUEUE_A_TENANT q))
    ∧ (∃ (s : State) (q : Nat) (v : Nat),
    s.flag (R.SCH_QUEUE_A_VALID q) = true ∧ bitsOf v 47 32 ≠ s.reg (R.SCH_QUEUE_A_TENANT q) ∧ s.reg (R.SCH_QUEUE_B_STEP_DEFICIT q) ≠ 0)
    ∧ (∃ (s : State) (c : Nat) (v : Nat),
    c < 32 ∧ (s.writeRw (0x119000 + 32 * c) v).compsOk = true ∧ (s.sch.ctxs.any (·.desc.comp == c)) = false ∧ s.flag (R.SCH_COMP_A_VALID c) = true)
    ∧ (∃ (s : State) (c : Nat) (v : Nat),
    c < 32 ∧ (s.writeRw (0x119000 + 32 * c) v).compsOk = true ∧ (s.sch.ctxs.any (·.desc.comp == c)) = false ∧ s.flag (R.SCH_COMP_A_VALID c) = false ∧ (s.writeRw (0x119000 + 32 * c) v).flag (R.SCH_COMP_A_VALID c) = true)
    ∧ (∃ (s : State) (c : Nat) (v : Nat),
    c < 32 ∧ (s.writeRw (0x119000 + 32 * c) v).compsOk = false) :=
  ⟨⟨State.reset, 4095, 2 ^ 63, by and_intros <;> decide +kernel⟩,
   ⟨State.reset.setRegs [(R.SCH_QUEUE_A_VALID 5, 1), (R.SCH_QUEUE_A_TENANT 5, 3), (R.SCH_QUEUE_B_STEP_DEFICIT 5, 3)], 5, 2 ^ 63 + 3 * 2 ^ 32 + 7, by and_intros <;> decide +kernel⟩,
   ⟨State.reset.setRegs [(R.SCH_QUEUE_A_VALID 5, 1), (R.SCH_QUEUE_A_TENANT 5, 3), (R.SCH_QUEUE_B_STEP_DEFICIT 5, 3)], 5, 2 ^ 63 + 7, by and_intros <;> decide +kernel⟩,
   ⟨State.reset.setRegs [(R.SCH_COMP_A_VALID 31, 1)], 31, 2 ^ 63, by and_intros <;> decide +kernel⟩,
   ⟨State.reset, 31, 2 ^ 63, by and_intros <;> decide +kernel⟩,
   ⟨State.reset.setRegs [(R.SCH_COMP_A_VALID 3, 1), (R.SCH_COMP_A_CORE_UNITS 3, 1)], 31, 2 ^ 63 + 1, by and_intros <;> decide +kernel⟩⟩

/-- States that meet the hypotheses of `SchedulerRegisters` (clauses 8, 9). -/
theorem witness_SchedulerRegisters_2 :
    (∃ (s : State) (c : Nat) (v : Nat),
    c < 32 ∧ (s.sch.ctxs.any (·.desc.comp == c)) = true)
    ∧ (∃ (s : State),
    s.canonical)
    ∧ (∃ (s : State),
    s.canonical)
    ∧ (∃ (s : State),
    s.canonical)
    ∧ (∃ (s : State),
    s.canonical)
    ∧ (∃ (s : State),
    s.canonical) :=
  ⟨⟨(State.reset.onSch fun b => { b with ctxs := [ctx0 1 .open_] }), 0, 1, by and_intros <;> decide +kernel⟩,
   ⟨State.reset.setRegs [(R.SCH_COMP_A_VALID 31, 1)], by unfold State.canonical; decide +kernel⟩,
   ⟨(hostNode.onBld fun b => { b with node := .ready }), by unfold State.canonical; decide +kernel⟩,
   ⟨((hostNode.onBld fun b => { b with node := .ready, off := false }).setReg R.PCR_STATUS_INPUT_WARN 1), by unfold State.canonical; decide +kernel⟩,
   ⟨State.reset.setRegs [(R.SCH_COMP_A_VALID 31, 1)], by unfold State.canonical; decide +kernel⟩,
   ⟨(hostNode.onBld fun b => { b with node := .ready }), by unfold State.canonical; decide +kernel⟩⟩

/-- States that meet the hypotheses of `SchedulerRegisters` (clauses 9). -/
theorem witness_SchedulerRegisters_3 :
    (∃ (s : State),
    s.canonical)
    ∧ (∃ (s : State),
    s.canonical)
    ∧ (∃ (s : State),
    s.canonical)
    ∧ (∃ (s : State),
    s.canonical) :=
  ⟨⟨((hostNode.onBld fun b => { b with node := .ready, off := false }).setReg R.PCR_STATUS_INPUT_WARN 1), by unfold State.canonical; decide +kernel⟩,
   ⟨State.reset.setRegs [(R.SCH_COMP_A_VALID 31, 1)], by unfold State.canonical; decide +kernel⟩,
   ⟨(hostNode.onBld fun b => { b with node := .ready }), by unfold State.canonical; decide +kernel⟩,
   ⟨((hostNode.onBld fun b => { b with node := .ready, off := false }).setReg R.PCR_STATUS_INPUT_WARN 1), by unfold State.canonical; decide +kernel⟩⟩

/-- States that meet the hypotheses of `BatchesAndShards` (clauses 1, 2, 3, 4, 5, 6). -/
theorem witness_BatchesAndShards_1 :
    (∃ (s : State) (c : Nat) (g : Nat) (x : Ctx),
    s.ctx? c = some x ∧ s.flag R.SCH_CTRL_ENABLE = true ∧ x.serving = true ∧ x.desc.kind = .serving ∧ s.groupIdle x g = true ∧ s.turnOf x g = true ∧ (s.form x g (s.resumeHeld x g)).2.1.rows ≠ [] ∧ x.desc.rowMin ≤ (s.form x g (s.resumeHeld x g)).2.1.total)
    ∧ (∃ (s : State) (c : Nat) (g : Nat) (x : Ctx),
    s.ctx? c = some x ∧ s.flag R.SCH_CTRL_ENABLE = true ∧ x.serving = true ∧ x.desc.kind = .serving ∧ s.groupIdle x g = true ∧ s.turnOf x g = true ∧ (s.form x g (s.resumeHeld x g)).2.1.rows ≠ [] ∧ x.holdOver = false ∧ (s.form x g (s.resumeHeld x g)).2.1.total < x.desc.rowMin ∧ (s.form x g (s.resumeHeld x g)).2.1.lc = false ∧ x.desc.holdUs ≠ 0)
    ∧ (∃ (s : State) (c : Nat) (g : Nat) (x : Ctx),
    s.ctx? c = some x ∧ (s.flag R.SCH_CTRL_ENABLE = false ∨ x.serving = false ∨ x.desc.kind ≠ .serving ∨ s.groupIdle x g = false ∨ s.turnOf x g = false))
    ∧ (∃ (s : State) (c : Nat) (x : Ctx) (h : Batch),
    s.ctx? c = some x ∧ x.held = some h ∧ s.flag R.SCH_CTRL_ENABLE = true ∧ x.serving = true ∧ s.groupIdle x h.group = true ∧ s.turnOf x h.group = true ∧ (s.form x h.group (s.resumeHeld x h.group)).2.1.rows ≠ [])
    ∧ (∃ (s : State) (c : Nat) (x : Ctx),
    s.ctx? c = some x ∧ x.held = none)
    ∧ (∃ (s : State) (c : Nat) (x : Ctx) (h : Batch),
    s.ctx? c = some x ∧ x.held = some h ∧ (∀ g, s.groupIdle x g = false ∨ s.turnOf x g = false)) :=
  ⟨⟨batching ({ ctx0 1 .running with desc := { desc0 with batchUnits := 4 } }), 1, 0, { ctx0 1 .running with desc := { desc0 with batchUnits := 4 } }, by and_intros <;> decide +kernel⟩,
   ⟨batching ({ ctx0 1 .running with desc := { desc0 with batchUnits := 4, rowTarget := 8, rowMin := 8, holdUs := 5 } }), 1, 0, { ctx0 1 .running with desc := { desc0 with batchUnits := 4, rowTarget := 8, rowMin := 8, holdUs := 5 } }, by and_intros <;> decide +kernel⟩,
   ⟨(State.reset.onSch fun b => { b with ctxs := [ctx0 1 .open_] }), 1, 0, ctx0 1 .open_, by and_intros <;> decide +kernel⟩,
   ⟨batching ({ ctx0 1 .running with held := some ⟨1, 0, 0, [], 0, 0, [], false, false⟩, desc := { desc0 with batchUnits := 4, rowTarget := 8, rowMin := 8, holdUs := 5 } }), 1, { ctx0 1 .running with held := some ⟨1, 0, 0, [], 0, 0, [], false, false⟩, desc := { desc0 with batchUnits := 4, rowTarget := 8, rowMin := 8, holdUs := 5 } }, ⟨1, 0, 0, [], 0, 0, [], false, false⟩, by and_intros <;> decide +kernel⟩,
   ⟨(State.reset.onSch fun b => { b with ctxs := [ctx0 1 .running] }), 1, ctx0 1 .running, by and_intros <;> decide +kernel⟩,
   ⟨(State.reset.onSch fun b => { b with ctxs := [{ ctx0 1 .running with held := some ⟨1, 0, 0, [], 0, 0, [], false, false⟩, desc := { desc0 with cores := [] } }] }), 1, { ctx0 1 .running with held := some ⟨1, 0, 0, [], 0, 0, [], false, false⟩, desc := { desc0 with cores := [] } }, ⟨1, 0, 0, [], 0, 0, [], false, false⟩, by decide +kernel, by decide +kernel, fun g => Or.inl (by simp [State.groupIdle, ctx0, desc0, Desc.groups])⟩⟩

/-- States that meet the hypotheses of `BatchesAndShards` (clauses 7, 8, 9, 10, 11, 12). -/
theorem witness_BatchesAndShards_2 :
    (∃ (s : State) (c : Nat) (g : Nat) (b : Batch),
    s.ctx? c = none ∧ (s.sch.batches.find? fun b => b.ctx == c && b.group == g) = some b ∧ b.left = [])
    ∧ (∃ (s : State) (c : Nat) (g : Nat) (b : Batch),
    ((s.ctx? c).any fun x => decide (x.state = .closing)) = false ∧ (s.sch.batches.find? fun b => b.ctx == c && b.group == g) = some b ∧ s.runOver b.left b.squashed = true)
    ∧ (∃ (s : State) (c : Nat) (g : Nat) (y : ShardRun),
    ((s.ctx? c).any fun x => decide (x.state = .closing)) = false ∧ (s.sch.batches.find? fun b => b.ctx == c && b.group == g) = none ∧ (s.sch.shards.find? fun y => y.ctx == c && y.group == g && y.squashed) = some y ∧ s.runOver y.left true = true)
    ∧ (∃ (s : State) (c : Nat) (g : Nat) (b : Batch),
    (s.sch.batches.find? fun b => b.ctx == c && b.group == g) = some b ∧ b.left ≠ [] ∧ b.squashed = false)
    ∧ (∃ (s : State) (c : Nat) (g : Nat) (x : Ctx),
    s.ctx? c = some x ∧ s.flag R.SCH_CTRL_ENABLE = true ∧ x.shardWaits = true ∧ s.groupIdle x g = true ∧ 1 ≤ x.desc.batchUnits ∧ s.turnOf x g = true)
    ∧ (∃ (s : State) (c : Nat) (g : Nat) (sh : Nat) (x : Ctx) (y : ShardRun),
    s.ctx? c = some x ∧ (s.sch.shards.find? fun y => y.ctx == c && y.shard == sh && y.copy == 0 && !y.squashed) = some y ∧ s.flag R.SCH_CTRL_ENABLE = true ∧ s.reg R.SCH_CTRL_MODE ≠ 0 ∧ x.desc.backupOk = true ∧ x.state = .running ∧ x.shardWaits = false ∧ x.doneShards ≠ [] ∧ sh ∉ x.backups ∧ s.straggles x y = true ∧ s.groupIdle x g = true ∧ s.turnOf x g = true) :=
  ⟨⟨State.reset.onSch fun b => { b with batches := [⟨1, 0, 0, [], 0, 0, [], false, false⟩] }, 1, 0, ⟨1, 0, 0, [], 0, 0, [], false, false⟩, by and_intros <;> decide +kernel⟩,
   ⟨State.reset.onSch fun b => { b with batches := [⟨1, 0, 0, [], 0, 0, [], false, false⟩] }, 1, 0, ⟨1, 0, 0, [], 0, 0, [], false, false⟩, by and_intros <;> decide +kernel⟩,
   ⟨State.reset.onSch fun b => { b with shards := [{ run0 with squashed := true }] }, 1, 0, { run0 with squashed := true }, by and_intros <;> decide +kernel⟩,
   ⟨State.reset.onSch fun b => { b with batches := [⟨1, 0, 0, [], 0, 0, [3], false, false⟩] }, 1, 0, ⟨1, 0, 0, [], 0, 0, [3], false, false⟩, by and_intros <;> decide +kernel⟩,
   ⟨batching shardCtx, 1, 0, shardCtx, by and_intros <;> decide +kernel⟩,
   ⟨({ (batching ({ shardCtx with nextShard := 2, desc := { desc0 with kind := .learn, backupOk := true, shardCount := 2, cores := [0, 1] } })) with aon := 9000000000 }.onSch fun b => { b with shards := [run0] }), 1, 1, 0, { shardCtx with nextShard := 2, desc := { desc0 with kind := .learn, backupOk := true, shardCount := 2, cores := [0, 1] } }, run0, by and_intros <;> decide +kernel⟩⟩

/-- States that meet the hypotheses of `BatchesAndShards` (clauses 13, 14). -/
theorem witness_BatchesAndShards_3 :
    (∃ (s : State) (c : Nat) (g : Nat) (sh : Nat) (x : Ctx) (y : ShardRun),
    s.ctx? c = some x ∧ (s.sch.shards.find? fun y => y.ctx == c && y.shard == sh && y.copy == 0 && !y.squashed) = some y ∧ s.straggles x y = false)
    ∧ (∃ (s : State) (c : Nat) (sh : Nat) (copy : Nat) (x : Ctx) (y : ShardRun),
    s.ctx? c = some x ∧ (s.sch.shards.find? fun y => y.ctx == c && y.shard == sh && y.copy == copy && !y.squashed && y.left.isEmpty) = some y ∧ x.serving = true ∧ sh ∉ x.doneShards) :=
  ⟨⟨(batching ({ shardCtx with nextShard := 2, desc := { desc0 with kind := .learn, backupOk := true, shardCount := 2, cores := [0, 1] } })).onSch fun b => { b with shards := [run0] }, 1, 1, 0, { shardCtx with nextShard := 2, desc := { desc0 with kind := .learn, backupOk := true, shardCount := 2, cores := [0, 1] } }, run0, by and_intros <;> decide +kernel⟩,
   ⟨(batching shardCtx).onSch fun b => { b with shards := [run0] }, 1, 0, 0, shardCtx, run0, by and_intros <;> decide +kernel⟩⟩

/-- States that meet the hypotheses of `PhaseTurns` (clauses 1, 2, 3, 4, 5, 8). -/
theorem witness_PhaseTurns_1 :
    (∃ (s : State) (v : Nat),
    bitAt v 63 = true ∧ s.roleLicensed (bitsOf v 60 58) = true ∧ phasePermits (bitsOf v 62 61) (bitsOf v 60 58) = true ∧ s.turning = false ∧ s.sch.ctxs = [])
    ∧ (∃ (s : State) (v : Nat),
    bitAt v 63 = true ∧ s.roleLicensed (bitsOf v 60 58) = false)
    ∧ (∃ (s : State) (v : Nat),
    bitAt v 63 = true ∧ phasePermits (bitsOf v 62 61) (bitsOf v 60 58) = false)
    ∧ (∃ (s : State) (v : Nat),
    s.turning = true)
    ∧ (∃ (s : State) (v : Nat),
    bitAt v 63 = false ∧ s.turning = false)
    ∧ (∃ (s : State),
    s.reg R.PHS_PHASE_STATE = 3 ∧ s.fab.remotes = [] ∧ s.queuesEmpty = true) :=
  ⟨⟨State.reset.setReg R.CAP_FEATURES_ROLE_CACHE 1, 2 ^ 63 + 3 * 2 ^ 58 + 7, by and_intros <;> decide +kernel⟩,
   ⟨State.reset, 2 ^ 63 + 4 * 2 ^ 58, by and_intros <;> decide +kernel⟩,
   ⟨State.reset.setReg R.CAP_FEATURES_ROLE_CACHE 1, 2 ^ 63 + 3 * 2 ^ 61 + 3 * 2 ^ 58, by and_intros <;> decide +kernel⟩,
   ⟨State.reset.setRegs [(R.PHS_PHASE_STATE, 2)], 2 ^ 63 + 1, by decide +kernel⟩,
   ⟨State.reset.setReg R.CAP_FEATURES_ROLE_CACHE 1, 3 * 2 ^ 58, by and_intros <;> decide +kernel⟩,
   ⟨State.reset.setRegs [(R.PHS_PHASE_STATE, 3)], by and_intros <;> decide +kernel⟩⟩

/-- States that meet the hypotheses of `PhaseTurns` (clauses 9, 10, 11, 13, 14, 18). -/
theorem witness_PhaseTurns_2 :
    (∃ (s : State),
    s.reg R.PHS_PHASE_STATE ≠ 3)
    ∧ (∃ (s : State),
    s.reg R.PHS_PHASE_STATE = 4 ∧ s.emptyState = true ∧ s.holderQuiet = true)
    ∧ (∃ (s : State),
    (s.reg R.PHS_PHASE_STATE ≠ 4 ∨ s.emptyState = false ∨ s.holderQuiet = false))
    ∧ (∃ (s : State),
    1 ≤ s.reg R.PHS_PHASE_STATE ∧ s.reg R.PHS_PHASE_STATE ≤ 3 ∧ s.phs.forced = false ∧ s.sch.ctxs = [])
    ∧ (∃ (s : State),
    (s.reg R.PHS_PHASE_STATE = 0 ∨ 4 ≤ s.reg R.PHS_PHASE_STATE ∨ s.phs.forced = true))
    ∧ (∃ (s : State),
    s.canonical ∧ s.reg R.PHS_TURN_TARGET_PHASE ≠ 0) :=
  ⟨⟨State.reset.setRegs [(R.PHS_PHASE_STATE, 2)], by decide +kernel⟩,
   ⟨State.reset.setRegs [(R.PHS_PHASE_STATE, 4), (R.PHS_PHASE_ROLE, 2)], by and_intros <;> decide +kernel⟩,
   ⟨State.reset.setRegs [(R.PHS_PHASE_STATE, 3)], by decide +kernel⟩,
   ⟨State.reset.setRegs [(R.PHS_PHASE_STATE, 3)], by and_intros <;> decide +kernel⟩,
   ⟨State.reset.setRegs [(R.PHS_PHASE_STATE, 4)], by decide +kernel⟩,
   ⟨State.reset.setRegs [(R.PHS_TURN_TARGET_PHASE, 2), (R.PHS_TURN_TARGET_ROLE, 5), (R.PHS_TURN_TARGET_VERSION, 9), (R.PHS_POLICY_STAGED, 9), (R.SCH_QUEUE_B_STEP_DEFICIT 7, 4)], by unfold State.canonical; decide +kernel, by decide +kernel⟩⟩

/-- States that meet the hypotheses of `PortsAndLinks` (clauses 1, 2, 3, 4, 5, 6). -/
theorem witness_PortsAndLinks_1 :
    (∃ (s : State) (p : Nat) (v : Nat),
    p < s.ports ∧ bitsOf v 1 0 ≠ 3 ∧ bitsOf v 7 6 = 0 ∧ bitsOf v 1 0 = s.reg (R.FAB_PORT_CFG_MODE p) ∧ bitsOf v 1 0 ≠ 2 ∧ bitAt v 3 = true)
    ∧ (∃ (s : State) (p : Nat) (v : Nat),
    p < s.ports ∧ bitsOf v 1 0 ≠ 3 ∧ bitsOf v 7 6 = 0 ∧ bitsOf v 1 0 ≠ s.reg (R.FAB_PORT_CFG_MODE p) ∧ bitsOf v 1 0 ≠ 2)
    ∧ (∃ (s : State) (p : Nat) (v : Nat),
    (bitsOf v 1 0 = 3 ∨ bitsOf v 7 6 = 3 ∨ bitsOf v 7 6 ≠ 0 ∧ s.flag R.CAP_FEATURES_LINK_CRYPT = false))
    ∧ (∃ (s : State) (p : Nat) (l : Link),
    s.portLinks p = [l] ∧ l.state = .training)
    ∧ (∃ (s : State) (i : Nat) (l : Link),
    s.link? (.virt i) = some l ∧ l.state = .training)
    ∧ (∃ (s : State) (l : Link),
    s.laneBad (s.linkPort l.id) 0 = false ∧ s.laneBad (s.linkPort l.id) 4 = false ∧ s.pcr.ref156 = true ∧ l.lanes = 0) :=
  ⟨⟨State.reset.setReg (R.FAB_PORT_CFG_MODE 3) 0, 3, 8, by and_intros <;> decide +kernel⟩,
   ⟨State.reset.setReg (R.FAB_PORT_CFG_MODE 3) 0, 3, 1, by and_intros <;> decide +kernel⟩,
   ⟨State.reset, 3, 3, by decide +kernel⟩,
   ⟨linked [freshLink (.port 3) .training], 3, freshLink (.port 3) .training, by and_intros <;> decide +kernel⟩,
   ⟨linked [freshLink (.virt 2) .training], 2, freshLink (.virt 2) .training, by and_intros <;> decide +kernel⟩,
   ⟨(linked [freshLink (.port 3) .training]).onPcr fun p => { p with ref156 := true }, freshLink (.port 3) .training, by and_intros <;> decide +kernel⟩⟩

/-- States that meet the hypotheses of `PortsAndLinks` (clauses 7, 8, 9, 10, 11, 12). -/
theorem witness_PortsAndLinks_2 :
    (∃ (s : State) (l : Link),
    s.laneBad (s.linkPort l.id) 0 = false ∧ s.laneBad (s.linkPort l.id) 4 = false ∧ s.pcr.ref156 = true ∧ l.lanes ≠ 0)
    ∧ (∃ (s : State) (p : Nat) (l : Link),
    s.link? (.port p) = some l ∧ l.state = .training ∧ s.reg (R.FAB_PORT_CFG_MODE p) = 0 ∧ s.flag (R.FAB_PORT_CFG_AUTO_DEGRADE p) = true)
    ∧ (∃ (s : State) (i : LinkId) (l : Link),
    s.link? i = some l ∧ l.state = .handshake)
    ∧ (∃ (s : State) (i : LinkId) (l : Link),
    s.link? i = some l ∧ l.state ≠ .handshake)
    ∧ (∃ (s : State) (p : Nat) (l : Link),
    s.link? (.port p) = some l ∧ l.state = .down ∧ s.flag (R.FAB_PORT_CFG_DRAIN p) = false ∧ s.pcr.ref156 = true)
    ∧ (∃ (s : State) (i : Nat) (l : Link),
    s.link? (.virt i) = some l ∧ l.state = .down ∧ s.flag (R.FAB_PORT_CFG_DRAIN (s.reg (R.FAB_PEER_PORT i))) = false ∧ s.pcr.ref156 = true) :=
  ⟨⟨(linked [{ freshLink (.port 3) .training with lanes := 0x0F }]).onPcr fun p => { p with ref156 := true }, { freshLink (.port 3) .training with lanes := 0x0F }, by and_intros <;> decide +kernel⟩,
   ⟨(linked [freshLink (.port 3) .training]).setRegs [(R.FAB_PORT_CFG_AUTO_DEGRADE 3, 1), (R.FAB_PORT_CFG_MODE 3, 0)], 3, freshLink (.port 3) .training, by and_intros <;> decide +kernel⟩,
   ⟨linked [freshLink (.port 3) .handshake], .port 3, freshLink (.port 3) .handshake, by and_intros <;> decide +kernel⟩,
   ⟨linked [up0], .port 3, up0, by and_intros <;> decide +kernel⟩,
   ⟨(linked [freshLink (.port 3) .down]).onPcr fun p => { p with ref156 := true }, 3, freshLink (.port 3) .down, by and_intros <;> decide +kernel⟩,
   ⟨(linked [freshLink (.virt 3) .down]).onPcr fun p => { p with ref156 := true }, 3, freshLink (.virt 3) .down, by and_intros <;> decide +kernel⟩⟩

/-- States that meet the hypotheses of `PortsAndLinks` (clauses 13, 14, 15, 16, 17, 18). -/
theorem witness_PortsAndLinks_3 :
    (∃ (s : State) (i : LinkId) (h : Hello) (l : Link),
    s.link? i = some l ∧ l.state = .failed ∧ l.peer ≠ some h)
    ∧ (∃ (s : State) (i : LinkId) (h : Hello) (l : Link),
    s.link? i = some l ∧ l.peer = some h)
    ∧ (∃ (s : State) (i : LinkId) (l : Link),
    s.link? i = some l ∧ l.state = .draining)
    ∧ (∃ (s : State) (i : Nat) (l : Link),
    s.link? (.virt i) = some l ∧ l.id = .virt i ∧ l.state = .up)
    ∧ (∃ (s : State) (l : Link),
    l.state = .up)
    ∧ (∃ (s : State) (i : Nat) (v : Nat),
    i < 256 ∧ s.linkState (.virt i) = .up) :=
  ⟨⟨linked [freshLink (.port 3) .failed], .port 3, hello0, freshLink (.port 3) .failed, by and_intros <;> decide +kernel⟩,
   ⟨linked [up0], .port 3, hello0, up0, by and_intros <;> decide +kernel⟩,
   ⟨linked [freshLink (.port 3) .draining], .port 3, freshLink (.port 3) .draining, by and_intros <;> decide +kernel⟩,
   ⟨linked [freshLink (.virt 2) .up], 2, freshLink (.virt 2) .up, by and_intros <;> decide +kernel⟩,
   ⟨linked [up0], up0, by decide +kernel⟩,
   ⟨linked [freshLink (.virt 2) .up], 2, 2 ^ 63, by and_intros <;> decide +kernel⟩⟩

/-- States that meet the hypotheses of `PortsAndLinks` (clauses 19). -/
theorem witness_PortsAndLinks_4 :
    ∃ (s : State) (i : Nat) (v : Nat),
    i < 256 ∧ s.linkState (.virt i) ≠ .up ∧ bitAt v 63 = false :=
  ⟨State.reset, 2, 3, by and_intros <;> decide +kernel⟩

/-- States that meet the hypotheses of `HandshakeAndKeys` (clauses 1, 2, 3, 4, 5). -/
theorem witness_HandshakeAndKeys_1 :
    (∃ (s : State) (l : Link) (hop : HopPart) (type : Nat),
    hop.fcsOk = false ∧ l.carries = false)
    ∧ (∃ (s : State) (l : Link) (hop : HopPart) (type : Nat),
    hop.fcsOk = true ∧ (hop.eth.da ≠ s.linkLocalMac ∨ hop.eth.etherType ≠ s.reg R.FAB_CTRL_ETHERTYPE))
    ∧ (∃ (s : State) (l : Link) (hop : HopPart) (type : Nat),
    hop.fcsOk = true ∧ (hop.eth.da ≠ s.linkLocalMac ∨ hop.eth.etherType ≠ s.reg R.FAB_CTRL_ETHERTYPE))
    ∧ (∃ (s : State) (l : Link) (hop : HopPart) (type : Nat),
    hop.fcsOk = true ∧ hop.eth.da = s.linkLocalMac ∧ hop.eth.etherType = s.reg R.FAB_CTRL_ETHERTYPE ∧ hop.eth.tag = none ∧ s.tagged l.id = false ∧ hop.length ≤ 4182 ∧ l.proto ≠ 0)
    ∧ (∃ (s : State) (u : State) (i : LinkId) (hop : HopPart) (h : Hello) (l : Link),
    s.link? i = some l ∧ l.state = .handshake ∧ s.shakes = true ∧ s.controlIn l hop 0x60 = (false, u))
    ∧ (∃ (s : State) (i : LinkId) (hop : HopPart) (h : Hello) (l : Link),
    s.link? i = some l ∧ (l.state ≠ .handshake ∨ s.shakes = false)) :=
  ⟨⟨(linked [freshLink (.port 3) .handshake]), freshLink (.port 3) .handshake, { ctrl0 0x60 with fcsOk := false }, 0x60, by and_intros <;> decide +kernel⟩,
   ⟨(linked [freshLink (.port 3) .handshake]), freshLink (.port 3) .handshake, { ctrl0 0x60 with eth := hop0.eth }, 0x60, by and_intros <;> decide +kernel⟩,
   ⟨(linked [freshLink (.port 3) .handshake]), freshLink (.port 3) .handshake, { ctrl0 0x60 with eth := { (ctrl0 0x60).eth with etherType := 1 } }, 0x60, by and_intros <;> decide +kernel⟩,
   ⟨(linked [{ up0 with proto := 1 }]), { up0 with proto := 1 }, ctrl0 0x61, 0x61, by and_intros <;> decide +kernel⟩,
   ⟨(linked [freshLink (.port 3) .handshake]), ((linked [freshLink (.port 3) .handshake]).countRx 3 (ctrl0 0x61).length).bump (R.FAB_DIE_STATS_UNKNOWN_DROPS 0), .port 3, ctrl0 0x61, hello0, freshLink (.port 3) .handshake, by decide +kernel, by decide +kernel, by decide +kernel, rx_type _ _ _ _ ⟨.inl rfl, rfl⟩ (by decide +kernel)⟩,
   ⟨(linked [up0]), .port 3, ctrl0 0x60, hello0, up0, by and_intros <;> decide +kernel⟩⟩

/-- States that meet the hypotheses of `HandshakeAndKeys` (clauses 5, 6, 7, 8, 9, 10). -/
theorem witness_HandshakeAndKeys_2 :
    (∃ (s : State) (i : LinkId) (hop : HopPart) (h : Hello) (l : Link),
    s.link? i = some l ∧ (l.state ≠ .handshake ∨ s.shakes = false))
    ∧ (∃ (s : State) (u : State) (i : LinkId) (hop : HopPart) (h : Hello) (l : Link) (e : Ev) (r : Nat),
    s.link? i = some l ∧ l.state = .handshake ∧ s.shakes = true ∧ s.controlIn l hop 0x60 = (true, u) ∧ (u.ownHello l.id).check h = some (e, r))
    ∧ (∃ (s : State) (u : State) (i : LinkId) (hop : HopPart) (h : Hello) (l : Link),
    s.link? i = some l ∧ l.state = .handshake ∧ s.shakes = true ∧ s.controlIn l hop 0x60 = (true, u) ∧ (u.ownHello l.id).check h = none ∧ (u.ownHello l.id).cryptRequire = true ∧ h.cryptOffer = false)
    ∧ (∃ (s : State) (u : State) (p : Nat) (hop : HopPart) (h : Hello) (l : Link) (v : Link),
    s.link? (.port p) = some l ∧ l.id = .port p ∧ l.state = .handshake ∧ s.shakes = true ∧ s.controlIn l hop 0x60 = (true, u) ∧ (u.ownHello (.port p)).check h = none ∧ (u.ownHello (.port p)).cryptOffer = false ∧ h.cryptRequire = false ∧ (u.ownHello (.port p)).cryptRequire = false ∧ v = { freshLink (.port p) .up with peer := some h, proto := min (u.ownHello (.port p)).protoMax h.protoMax, credits := [Config.rxBuffer 0, Config.rxBuffer 1, Config.rxBuffer 2, Config.rxBuffer 3] })
    ∧ (∃ (s : State) (u : State) (i : Nat) (hop : HopPart) (h : Hello) (l : Link),
    s.link? (.virt i) = some l ∧ l.id = .virt i ∧ l.state = .handshake ∧ s.shakes = true ∧ s.controlIn l hop 0x60 = (true, u) ∧ (u.ownHello (.virt i)).check h = none ∧ (u.ownHello (.virt i)).cryptOffer = false ∧ h.cryptRequire = false ∧ (u.ownHello (.virt i)).cryptRequire = false ∧ h.nodeNumber ≠ u.reg (R.FAB_PEER_NODE i))
    ∧ (∃ (o : Hello) (h : Hello),
    o.fwGeneration + 1 < h.fwGeneration) :=
  ⟨⟨(linked [freshLink (.port 3) .handshake]).onBld fun b => { b with node := .recovery }, .port 3, ctrl0 0x60, hello0, freshLink (.port 3) .handshake, by and_intros <;> decide +kernel⟩,
   ⟨(linked [freshLink (.port 3) .handshake]), (linked [freshLink (.port 3) .handshake]).countRx 3 (ctrl0 0x60).length, .port 3, ctrl0 0x60, { hello0 with fwGeneration := 99 }, freshLink (.port 3) .handshake, .linkVersionSkew, 0, by decide +kernel, by decide +kernel, by decide +kernel, rx_taken _ _ _ _ ⟨.inl rfl, rfl⟩ (by decide +kernel), (congrArg (fun x => Hello.check x _) (rx_hello _ _ _ ⟨.inl rfl, rfl⟩)).trans (by decide +kernel)⟩,
   ⟨((linked [freshLink (.port 3) .handshake]).setRegs [(R.CAP_FEATURES_LINK_CRYPT, 1), (R.FAB_PORT_CFG_CRYPT 3, 2)]), ((linked [freshLink (.port 3) .handshake]).setRegs [(R.CAP_FEATURES_LINK_CRYPT, 1), (R.FAB_PORT_CFG_CRYPT 3, 2)]).countRx 3 (ctrl0 0x60).length, .port 3, ctrl0 0x60, hello0, freshLink (.port 3) .handshake, by decide +kernel, by decide +kernel, by decide +kernel, rx_taken _ _ _ _ ⟨.inl rfl, rfl⟩ (by decide +kernel), (congrArg (fun x => Hello.check x _) (rx_hello _ _ _ ⟨.inl rfl, rfl⟩)).trans (by decide +kernel), (congrArg (fun x => Hello.cryptRequire x) (rx_hello _ _ _ ⟨.inl rfl, rfl⟩)).trans (by decide +kernel), by decide +kernel⟩,
   ⟨(linked [freshLink (.port 3) .handshake]), (linked [freshLink (.port 3) .handshake]).countRx 3 (ctrl0 0x60).length, 3, ctrl0 0x60, hello0, freshLink (.port 3) .handshake, { freshLink (.port 3) .up with peer := some hello0, proto := min (((linked [freshLink (.port 3) .handshake]).countRx 3 (ctrl0 0x60).length).ownHello (.port 3)).protoMax hello0.protoMax, credits := [Config.rxBuffer 0, Config.rxBuffer 1, Config.rxBuffer 2, Config.rxBuffer 3] }, by decide +kernel, by decide +kernel, by decide +kernel, by decide +kernel, rx_taken _ _ _ _ ⟨.inl rfl, rfl⟩ (by decide +kernel), (congrArg (fun x => Hello.check x _) (rx_hello _ _ _ ⟨.inl rfl, rfl⟩)).trans (by decide +kernel), (congrArg (fun x => Hello.cryptOffer x) (rx_hello _ _ _ ⟨.inl rfl, rfl⟩)).trans (by decide +kernel), by decide +kernel, (congrArg (fun x => Hello.cryptRequire x) (rx_hello _ _ _ ⟨.inl rfl, rfl⟩)).trans (by decide +kernel), rfl⟩,
   ⟨((linked [freshLink (.virt 2) .handshake]).setReg (R.FAB_PEER_PORT 2) 3), ((linked [freshLink (.virt 2) .handshake]).setReg (R.FAB_PEER_PORT 2) 3).countRx 3 (ctrl0 0x60).length, 2, ctrl0 0x60, hello0, freshLink (.virt 2) .handshake, by decide +kernel, by decide +kernel, by decide +kernel, by decide +kernel, rx_taken _ _ _ _ ⟨.inr rfl, by decide +kernel⟩ (by decide +kernel), (congrArg (fun x => Hello.check x _) (rx_hello _ _ _ ⟨.inr rfl, by decide +kernel⟩)).trans (by decide +kernel), (congrArg (fun x => Hello.cryptOffer x) (rx_hello _ _ _ ⟨.inr rfl, by decide +kernel⟩)).trans (by decide +kernel), by decide +kernel, (congrArg (fun x => Hello.cryptRequire x) (rx_hello _ _ _ ⟨.inr rfl, by decide +kernel⟩)).trans (by decide +kernel), fun e => absurd (e.trans (reg_countRx_ne _ (by decide) (by decide) _)) (by decide +kernel)⟩,
   ⟨hello0, { hello0 with fwGeneration := hello0.fwGeneration + 2 }, by decide +kernel⟩⟩

/-- States that meet the hypotheses of `HandshakeAndKeys` (clauses 11, 12, 13, 14, 15, 16). -/
theorem witness_HandshakeAndKeys_3 :
    (∃ (o : Hello) (h : Hello),
    h.fwGeneration ≤ o.fwGeneration + 1 ∧ o.fwGeneration ≤ h.fwGeneration + 1 ∧ max o.protoMin h.protoMin ≤ min o.protoMax h.protoMax ∧ o.domainId ≠ h.domainId ∧ o.domainId ≠ 0 ∧ h.domainId ≠ 0)
    ∧ (∃ (o : Hello) (h : Hello),
    h.fwGeneration ≤ o.fwGeneration + 1 ∧ o.fwGeneration ≤ h.fwGeneration + 1 ∧ max o.protoMin h.protoMin ≤ min o.protoMax h.protoMax ∧ o.domainId = h.domainId ∧ o.nodeValid = true ∧ h.nodeValid = true ∧ o.nodeNumber = h.nodeNumber)
    ∧ (∃ (s : State) (i : LinkId) (l : Link) (k : LinkCrypt) (d : CrtKey) (c : Cert),
    s.link? i = some l ∧ l.state = .up ∧ l.crypt = some k ∧ 2 ^ 47 ≤ k.sendCtr ∧ k.rekey = none ∧ s.sec.identityKey = some d ∧ s.sec.certs[0]? = some c)
    ∧ (∃ (s : State) (i : LinkId) (l : Link),
    s.link? i = some l ∧ l.crypt = none)
    ∧ (∃ (s : State) (u : State) (i : LinkId) (hop : HopPart) (h : Hello) (l : Link) (k : LinkCrypt) (pk : KeyAgreement),
    s.link? i = some l ∧ l.state = .up ∧ s.controlIn l hop 0x60 = (true, u) ∧ l.peer.map (fun p => { p with agree := none }) = some { h with agree := none } ∧ l.crypt = some k ∧ h.agree = some pk ∧ u.agreementOk h pk = false)
    ∧ (∃ (s : State) (u : State) (i : LinkId) (hop : HopPart) (h : Hello) (l : Link),
    s.link? i = some l ∧ l.state = .up ∧ s.controlIn l hop 0x60 = (true, u) ∧ l.peer.map (fun p => { p with agree := none }) ≠ some { h with agree := none }) :=
  ⟨⟨{ hello0 with domainId := 1 }, { hello0 with domainId := 2 }, by and_intros <;> decide +kernel⟩,
   ⟨hello0, hello0, by and_intros <;> decide +kernel⟩,
   ⟨(linked [{ up0 with crypt := some crypt0 }]).onSec fun b => { b with identityN := 15, identityKey := some ⟨3, 5, 1, 1, 2⟩, certs := [cert1, cert1] }, .port 3, { up0 with crypt := some crypt0 }, crypt0, ⟨3, 5, 1, 1, 2⟩, cert1, by and_intros <;> decide +kernel⟩,
   ⟨linked [up0], .port 3, up0, by and_intros <;> decide +kernel⟩,
   ⟨(linked [{ up0 with crypt := some crypt0 }]), (linked [{ up0 with crypt := some crypt0 }]).countRx 3 (ctrl0 0x60).length, .port 3, ctrl0 0x60, { hello0 with agree := some agree0 }, { up0 with crypt := some crypt0 }, crypt0, agree0, by decide +kernel, by decide +kernel, rx_taken _ _ _ _ ⟨.inl rfl, rfl⟩ (by decide +kernel), by decide +kernel, by decide +kernel, by decide +kernel, (rx_agreement _ _ _ _).trans (by decide +kernel)⟩,
   ⟨(linked [up0]), (linked [up0]).countRx 3 (ctrl0 0x60).length, .port 3, ctrl0 0x60, { hello0 with port := 9 }, up0, by decide +kernel, by decide +kernel, rx_taken _ _ _ _ ⟨.inl rfl, rfl⟩ (by decide +kernel), by decide +kernel⟩⟩

/-- States that meet the hypotheses of `HandshakeAndKeys` (clauses 17, 18, 19, 20). -/
theorem witness_HandshakeAndKeys_4 :
    (∃ (s : State) (u : State) (i : LinkId) (hop : HopPart) (h : Hello) (l : Link) (k : LinkCrypt) (pk : KeyAgreement),
    s.link? i = some l ∧ l.state = .up ∧ s.controlIn l hop 0x60 = (true, u) ∧ l.peer.map (fun p => { p with agree := none }) = some { h with agree := none } ∧ l.crypt = some k ∧ h.agree = some pk ∧ u.agreementOk h pk = true ∧ pk.keyCount = (k.keyCount + 1) % 256)
    ∧ (∃ (s : State) (i : LinkId) (l : Link) (k : LinkCrypt),
    s.link? i = some l ∧ l.state = .up ∧ l.crypt = some k ∧ 2 ^ 48 - 2 ^ 20 ≤ k.sendCtr)
    ∧ (∃ (s : State) (i : LinkId) (l : Link) (k : LinkCrypt),
    s.link? i = some l ∧ l.crypt = some k ∧ k.sendCtr < 2 ^ 48 - 2 ^ 20)
    ∧ (∃ (s : State) (l : Link) (k : LinkCrypt) (f : Frame),
    l.crypt = some k ∧ 2 ^ 48 - 2 ^ 20 ≤ k.sendCtr) :=
  ⟨⟨((linked [{ up0 with peer := some hello1, crypt := some crypt0 }]).onSec fun b => { b with identityN := 15, identityKey := some ⟨3, 5, 1, 1, 2⟩, certs := [cert1, cert1] }), ((linked [{ up0 with peer := some hello1, crypt := some crypt0 }]).onSec fun b => { b with identityN := 15, identityKey := some ⟨3, 5, 1, 1, 2⟩, certs := [cert1, cert1] }).countRx 3 (ctrl0 0x60).length, .port 3, ctrl0 0x60, { hello1 with agree := some agree1 }, { up0 with peer := some hello1, crypt := some crypt0 }, crypt0, agree1, by and_intros <;> first | decide +kernel | exact rx_taken _ _ _ _ ⟨.inl rfl, rfl⟩ (by decide +kernel) | exact (rx_agreement _ _ _ _).trans (by decide +kernel)⟩,
   ⟨linked [{ up0 with crypt := some { crypt0 with rekey := some (1, agree0) } }], .port 3, { up0 with crypt := some { crypt0 with rekey := some (1, agree0) } }, { crypt0 with rekey := some (1, agree0) }, by and_intros <;> decide +kernel⟩,
   ⟨linked [{ up0 with crypt := some { crypt0 with sendCtr := 5 } }], .port 3, { up0 with crypt := some { crypt0 with sendCtr := 5 } }, { crypt0 with sendCtr := 5 }, by and_intros <;> decide +kernel⟩,
   ⟨(linked [up0]), { up0 with crypt := some crypt0 }, crypt0, frame0, by and_intros <;> decide +kernel⟩⟩

/-- States that meet the hypotheses of `LinkRetry` (clauses 1, 2, 4, 5). -/
theorem witness_LinkRetry_1 :
    (∃ (s : State) (u : State) (i : LinkId) (hop : HopPart) (f : Frame) (l : Link),
    s.link? i = some l ∧ l.state = .up ∧ u = s.countRx (s.linkPort l.id) hop.length ∧ hop.fcsOk = false)
    ∧ (∃ (s : State) (u : State) (i : LinkId) (hop : HopPart) (f : Frame) (l : Link),
    s.link? i = some l ∧ l.state = .up ∧ u = s.countRx (s.linkPort l.id) hop.length ∧ hop.fcsOk = true ∧ u.layoutOk l.id hop (u.daOf l.id u.node f) = false)
    ∧ (∃ (s : State) (u : State) (i : LinkId) (hop : HopPart) (f : Frame) (l : Link),
    s.link? i = some l ∧ l.state = .up ∧ u = s.countRx (s.linkPort l.id) hop.length ∧ hop.fcsOk = true ∧ u.layoutOk l.id hop (u.daOf l.id u.node f) = false)
    ∧ (∃ (s : State) (u : State) (i : LinkId) (hop : HopPart) (f : Frame) (l : Link),
    s.link? i = some l ∧ l.state = .up ∧ u = s.countRx (s.linkPort l.id) hop.length ∧ hop.fcsOk = true ∧ u.layoutOk l.id hop (u.daOf l.id u.node f) = true ∧ (hop.proto ≠ l.proto ∨ hop.kind ≠ 0))
    ∧ (∃ (s : State) (u : State) (i : LinkId) (hop : HopPart) (f : Frame) (l : Link),
    s.link? i = some l ∧ l.state = .up ∧ u = s.countRx (s.linkPort l.id) hop.length ∧ hop.fcsOk = true ∧ u.layoutOk l.id hop (u.daOf l.id u.node f) = true ∧ (hop.proto ≠ l.proto ∨ hop.kind ≠ 0))
    ∧ (∃ (s : State) (u : State) (i : LinkId) (hop : HopPart) (f : Frame) (l : Link),
    s.link? i = some l ∧ l.state = .up ∧ u = s.countRx (s.linkPort l.id) hop.length ∧ hop.fcsOk = true ∧ u.layoutOk l.id hop (u.daOf l.id u.node f) = true ∧ hop.proto = l.proto ∧ hop.kind = 0 ∧ l.authBad hop = true) :=
  ⟨⟨(linked [up0]), (linked [up0]).countRx ((linked [up0]).linkPort (up0 : Link).id) ({ hop0 with fcsOk := false } : HopPart).length, .port 3, { hop0 with fcsOk := false }, frame0, up0, by decide +kernel, by decide +kernel, rfl, by decide +kernel⟩,
   ⟨(linked [up0]), (linked [up0]).countRx ((linked [up0]).linkPort (up0 : Link).id) ({ hop0 with length := 4183 } : HopPart).length, .port 3, { hop0 with length := 4183 }, frame0, up0, by decide +kernel, by decide +kernel, rfl, by decide +kernel, rx_data _ false _ _ (by decide +kernel)⟩,
   ⟨(linked [up0]), (linked [up0]).countRx ((linked [up0]).linkPort (up0 : Link).id) ({ hop0 with eth := { hop0.eth with etherType := 1 } } : HopPart).length, .port 3, { hop0 with eth := { hop0.eth with etherType := 1 } }, frame0, up0, by decide +kernel, by decide +kernel, rfl, by decide +kernel, rx_data _ false _ _ (by decide +kernel)⟩,
   ⟨(linked [up0]), (linked [up0]).countRx ((linked [up0]).linkPort (up0 : Link).id) ({ hop0 with proto := 9 } : HopPart).length, .port 3, { hop0 with proto := 9 }, frame0, up0, by decide +kernel, by decide +kernel, rfl, by decide +kernel, rx_data _ true _ _ (by decide +kernel), by decide +kernel⟩,
   ⟨(linked [up0]), (linked [up0]).countRx ((linked [up0]).linkPort (up0 : Link).id) ({ hop0 with kind := 1 } : HopPart).length, .port 3, { hop0 with kind := 1 }, frame0, up0, by decide +kernel, by decide +kernel, rfl, by decide +kernel, rx_data _ true _ _ (by decide +kernel), by decide +kernel⟩,
   ⟨(linked [{ up0 with crypt := some crypt0 }]), (linked [{ up0 with crypt := some crypt0 }]).countRx ((linked [{ up0 with crypt := some crypt0 }]).linkPort ({ up0 with crypt := some crypt0 } : Link).id) (hop0 : HopPart).length, .port 3, hop0, frame0, { up0 with crypt := some crypt0 }, by and_intros <;> first | decide +kernel | exact rfl | exact rx_data _ true _ _ (by decide +kernel)⟩⟩

/-- States that meet the hypotheses of `LinkRetry` (clauses 6, 7, 8, 9, 10). -/
theorem witness_LinkRetry_2 :
    (∃ (s : State) (u : State) (i : LinkId) (hop : HopPart) (f : Frame) (l : Link),
    s.link? i = some l ∧ l.state = .up ∧ u = s.countRx (s.linkPort l.id) hop.length ∧ hop.fcsOk = true ∧ u.layoutOk l.id hop (u.daOf l.id u.node f) = true ∧ hop.proto = l.proto ∧ hop.kind = 0 ∧ l.authBad hop = false ∧ hop.lseq ≠ l.rxSeq)
    ∧ (∃ (s : State) (u : State) (i : LinkId) (hop : HopPart) (f : Frame) (l : Link) (v : Link),
    s.link? i = some l ∧ l.state = .up ∧ u = s.countRx (s.linkPort l.id) hop.length ∧ hop.fcsOk = true ∧ u.layoutOk l.id hop (u.daOf l.id u.node f) = true ∧ hop.proto = l.proto ∧ hop.kind = 0 ∧ hop.encrypted = false ∧ l.crypt = none ∧ hop.lseq = l.rxSeq ∧ v = { l with rxSeq := (l.rxSeq + 1) % 4096 } ∧ l.peer.any (·.nodeValid) = true ∧ f.body.cls ≠ .management ∧ hop.known f = true)
    ∧ (∃ (s : State) (u : State) (i : LinkId) (hop : HopPart) (f : Frame) (l : Link) (v : Link),
    s.link? i = some l ∧ l.state = .up ∧ u = s.countRx (s.linkPort l.id) hop.length ∧ hop.fcsOk = true ∧ u.layoutOk l.id hop (u.daOf l.id u.node f) = true ∧ hop.proto = l.proto ∧ hop.kind = 0 ∧ hop.encrypted = false ∧ l.crypt = none ∧ hop.lseq = l.rxSeq ∧ v = { l with rxSeq := (l.rxSeq + 1) % 4096 } ∧ (hop.cls ≠ f.body.cls.code ∨ hop.type ≠ f.body.type))
    ∧ (∃ (s : State) (u : State) (i : LinkId) (hop : HopPart) (l : Link),
    s.link? i = some l ∧ (l.state = .up ∨ l.state = .draining) ∧ s.controlIn l hop 0x61 = (true, u))
    ∧ (∃ (s : State) (u : State) (i : LinkId) (hop : HopPart) (l : Link),
    s.link? i = some l ∧ (l.state = .up ∨ l.state = .draining) ∧ s.controlIn l hop 0x61 = (true, u))
    ∧ (∃ (s : State) (u : State) (i : LinkId) (hop : HopPart) (l : Link) (v : Link),
    s.link? i = some l ∧ l.state = .up ∧ s.controlIn l hop 0x62 = (true, u) ∧ l.queue = [] ∧ v = (l.acked hop.lack).credit hop.creditClass hop.credits) :=
  ⟨⟨(linked [up0]), (linked [up0]).countRx ((linked [up0]).linkPort (up0 : Link).id) ({ hop0 with lseq := 5 } : HopPart).length, .port 3, { hop0 with lseq := 5 }, frame0, up0, by and_intros <;> first | decide +kernel | exact rfl | exact rx_data _ true _ _ (by decide +kernel)⟩,
   ⟨(linked [up0]), (linked [up0]).countRx ((linked [up0]).linkPort (up0 : Link).id) (hop0 : HopPart).length, .port 3, hop0, frame0, up0, { up0 with rxSeq := 1 }, by and_intros <;> first | decide +kernel | exact rfl | exact rx_data _ true _ _ (by decide +kernel)⟩,
   ⟨(linked [up0]), (linked [up0]).countRx ((linked [up0]).linkPort (up0 : Link).id) ({ hop0 with cls := 3 } : HopPart).length, .port 3, { hop0 with cls := 3 }, frame0, up0, { up0 with rxSeq := 1 }, by and_intros <;> first | decide +kernel | exact rfl | exact rx_data _ true _ _ (by decide +kernel)⟩,
   ⟨(linked [up0]), (linked [up0]).countRx 3 (ctrl0 0x61).length, .port 3, ctrl0 0x61, up0, by decide +kernel, by decide +kernel, rx_taken _ _ _ _ ⟨.inl rfl, rfl⟩ (by decide +kernel)⟩,
   ⟨(linked [{ up0 with state := .draining }]), (linked [{ up0 with state := .draining }]).countRx 3 (ctrl0 0x61).length, .port 3, ctrl0 0x61, { up0 with state := .draining }, by decide +kernel, by decide +kernel, rx_taken _ _ _ _ ⟨.inl rfl, rfl⟩ (by decide +kernel)⟩,
   ⟨(linked [{ up0 with txSeq := 1, replay := [⟨0, hop0.eth, hop0.toHop, frame0, 0, 0, 8⟩] }]), (linked [{ up0 with txSeq := 1, replay := [⟨0, hop0.eth, hop0.toHop, frame0, 0, 0, 8⟩] }]).countRx 3 (ctrl0 0x62).length, .port 3, ctrl0 0x62, { up0 with txSeq := 1, replay := [⟨0, hop0.eth, hop0.toHop, frame0, 0, 0, 8⟩] }, (({ up0 with txSeq := 1, replay := [⟨0, hop0.eth, hop0.toHop, frame0, 0, 0, 8⟩] } : Link).acked 0).credit 3 0, by decide +kernel, by decide +kernel, rx_taken _ _ _ _ ⟨.inl rfl, rfl⟩ (by decide +kernel), by decide +kernel, by decide +kernel⟩⟩

/-- States that meet the hypotheses of `LinkRetry` (clauses 10, 11, 12, 13, 14, 15). -/
theorem witness_LinkRetry_3 :
    (∃ (s : State) (u : State) (i : LinkId) (hop : HopPart) (l : Link) (v : Link),
    s.link? i = some l ∧ l.state = .up ∧ s.controlIn l hop 0x62 = (true, u) ∧ l.queue = [] ∧ v = (l.acked hop.lack).credit hop.creditClass hop.credits)
    ∧ (∃ (s : State) (u : State) (i : LinkId) (hop : HopPart) (l : Link),
    s.link? i = some l ∧ l.state = .up ∧ s.controlIn l hop 0x61 = (false, u))
    ∧ (∃ (s : State) (u : State) (i : LinkId) (hop : HopPart) (l : Link),
    s.link? i = some l ∧ l.state = .up ∧ s.controlIn l hop 0x62 = (false, u))
    ∧ (∃ (s : State) (i : LinkId) (l : Link),
    s.link? i = some l ∧ l.state = .up ∧ l.replay ≠ [])
    ∧ (∃ (s : State) (i : LinkId) (l : Link),
    s.link? i = some l ∧ l.replay = [] ∧ l.queue = [])
    ∧ (∃ (s : State) (l : Link) (v : Link),
    v = { l with replay := l.replay.map fun r => { r with replays := r.replays + 1 } }) :=
  ⟨⟨(linked [up0]), (linked [up0]).countRx 3 (ctrl0 0x62).length, .port 3, ctrl0 0x62, up0, ((up0 : Link).acked 0).credit 3 0, by decide +kernel, by decide +kernel, rx_taken _ _ _ _ ⟨.inl rfl, rfl⟩ (by decide +kernel), by decide +kernel, by decide +kernel⟩,
   ⟨(linked [up0]), ((linked [up0]).countRx 3 (ctrl0 0x62).length).bump (R.FAB_DIE_STATS_UNKNOWN_DROPS 0), .port 3, ctrl0 0x62, up0, by decide +kernel, by decide +kernel, rx_type _ _ _ _ ⟨.inl rfl, rfl⟩ (by decide +kernel)⟩,
   ⟨(linked [up0]), ((linked [up0]).countRx 3 (ctrl0 0x61).length).bump (R.FAB_DIE_STATS_UNKNOWN_DROPS 0), .port 3, ctrl0 0x61, up0, by decide +kernel, by decide +kernel, rx_type _ _ _ _ ⟨.inl rfl, rfl⟩ (by decide +kernel)⟩,
   ⟨linked [{ up0 with txSeq := 1, replay := [⟨0, hop0.eth, hop0.toHop, frame0, 0, 0, 8⟩] }], .port 3, { up0 with txSeq := 1, replay := [⟨0, hop0.eth, hop0.toHop, frame0, 0, 0, 8⟩] }, by and_intros <;> decide +kernel⟩,
   ⟨linked [up0], .port 3, up0, by and_intros <;> decide +kernel⟩,
   ⟨(linked [{ up0 with txSeq := 1, replay := [⟨0, hop0.eth, hop0.toHop, frame0, 0, 0, 8⟩] }]), { up0 with txSeq := 1, replay := [⟨0, hop0.eth, hop0.toHop, frame0, 0, 0, 8⟩] }, { up0 with txSeq := 1, replay := [⟨0, hop0.eth, hop0.toHop, frame0, 1, 0, 8⟩] }, by decide +kernel⟩⟩

/-- States that meet the hypotheses of `TargetAccesses` (clauses 1, 2, 3, 4, 5, 6). -/
theorem witness_TargetAccesses_1 :
    (∃ (s : State) (src : Nat) (dev : Bool) (h : OpHdr) (p : Perm),
    s.transitOnly = true)
    ∧ (∃ (s : State) (src : Nat) (dev : Bool) (h : OpHdr) (p : Perm),
    s.transitOnly = false ∧ s.targetMapped (gSpace h.addr) (gOff h.addr) h.len = false)
    ∧ (∃ (s : State) (src : Nat) (dev : Bool) (h : OpHdr) (p : Perm),
    s.transitOnly = false ∧ s.targetMapped (gSpace h.addr) (gOff h.addr) h.len = true ∧ gSpace h.addr = 3)
    ∧ (∃ (s : State) (src : Nat) (dev : Bool) (h : OpHdr) (p : Perm),
    s.transitOnly = false ∧ s.targetMapped (gSpace h.addr) (gOff h.addr) h.len = true ∧ gSpace h.addr ≠ 3 ∧ src ≠ s.node ∧ s.region? h.region = none)
    ∧ (∃ (s : State) (src : Nat) (dev : Bool) (h : OpHdr) (p : Perm) (r : Region),
    s.transitOnly = false ∧ s.targetMapped (gSpace h.addr) (gOff h.addr) h.len = true ∧ gSpace h.addr ≠ 3 ∧ src ≠ s.node ∧ s.region? h.region = some r ∧ r.state = .revoking)
    ∧ (∃ (s : State) (src : Nat) (dev : Bool) (h : OpHdr) (p : Perm) (r : Region),
    s.transitOnly = false ∧ s.targetMapped (gSpace h.addr) (gOff h.addr) h.len = true ∧ gSpace h.addr ≠ 3 ∧ src ≠ s.node ∧ s.region? h.region = some r ∧ r.state ≠ .revoking ∧ (h.region = 0 ∧ dev = false ∨ r.anySource = false ∧ r.source ≠ src ∨ r.key ≠ h.key)) :=
  ⟨⟨(State.reset.onFab fun f => { f with regions := [{ num := 5, state := .valid, permR := true, permW := true, permA := true, space := 0, anySource := true, source := 0, key := 9, base := 0, length := 4096, inflight := 0 }] }).onBld fun b => { b with node := .computeReset }, 7, false, ⟨64, 5, 9, 8, 1⟩, .read, by decide +kernel⟩,
   ⟨State.reset.onFab fun f => { f with regions := [{ num := 5, state := .valid, permR := true, permW := true, permA := true, space := 0, anySource := true, source := 0, key := 9, base := 0, length := 4096, inflight := 0 }] }, 7, false, ⟨(2 ^ 45), 5, 9, 8, 1⟩, .read, by and_intros <;> decide +kernel⟩,
   ⟨State.reset, 7, false, ⟨3 * 2 ^ 46 + 8, 5, 9, 8, 1⟩, .read, by and_intros <;> decide +kernel⟩,
   ⟨State.reset.onFab fun f => { f with regions := [{ num := 5, state := .valid, permR := true, permW := true, permA := true, space := 0, anySource := true, source := 0, key := 9, base := 2 ^ 26, length := 4096, inflight := 0 }] }, 7, false, ⟨2 ^ 26 + 64, 6, 9, 8, 1⟩, .read, by and_intros <;> decide +kernel⟩,
   ⟨State.reset.onFab fun f => { f with regions := [{ num := 5, state := .revoking, permR := true, permW := true, permA := true, space := 0, anySource := true, source := 0, key := 9, base := 2 ^ 26, length := 4096, inflight := 0 }] }, 7, false, ⟨2 ^ 26 + 64, 5, 9, 8, 1⟩, .read, { num := 5, state := .revoking, permR := true, permW := true, permA := true, space := 0, anySource := true, source := 0, key := 9, base := 2 ^ 26, length := 4096, inflight := 0 }, by and_intros <;> decide +kernel⟩,
   ⟨(State.reset.onFab fun f => { f with regions := [{ num := 5, state := .valid, permR := true, permW := true, permA := true, space := 0, anySource := true, source := 0, key := 9, base := 2 ^ 26, length := 4096, inflight := 0 }] }), 7, false, ⟨2 ^ 26 + 64, 5, 8, 8, 1⟩, .read, { num := 5, state := .valid, permR := true, permW := true, permA := true, space := 0, anySource := true, source := 0, key := 9, base := 2 ^ 26, length := 4096, inflight := 0 }, by and_intros <;> decide +kernel⟩⟩

/-- States that meet the hypotheses of `TargetAccesses` (clauses 7, 8, 9, 10, 11, 12). -/
theorem witness_TargetAccesses_2 :
    (∃ (s : State) (src : Nat) (dev : Bool) (h : OpHdr) (p : Perm) (r : Region),
    s.transitOnly = false ∧ s.targetMapped (gSpace h.addr) (gOff h.addr) h.len = true ∧ gSpace h.addr ≠ 3 ∧ src ≠ s.node ∧ s.region? h.region = some r ∧ r.state ≠ .revoking ∧ (h.region ≠ 0 ∨ dev = true) ∧ (r.anySource = true ∨ r.source = src) ∧ r.key = h.key)
    ∧ (∃ (s : State) (f : Frame) (h : OpHdr),
    f.body = .load h ∧ s.due f = true ∧ gSpace h.addr < 2 ∧ s.targetCheck f.src f.dev h .read = none ∧ s.poisoned (spaceMem (gSpace h.addr)) (gOff h.addr) h.len = none)
    ∧ (∃ (s : State) (f : Frame) (h : OpHdr) (x : St),
    f.body = .load h ∧ s.due f = true ∧ gSpace h.addr < 2 ∧ s.targetCheck f.src f.dev h .read = none ∧ s.poisoned (spaceMem (gSpace h.addr)) (gOff h.addr) h.len = some x)
    ∧ (∃ (s : State) (f : Frame) (h : OpHdr) (x : St),
    f.body = .load h ∧ s.due f = true ∧ gSpace h.addr < 3 ∧ s.targetCheck f.src f.dev h .read = some x)
    ∧ (∃ (s : State) (f : Frame) (h : OpHdr),
    f.body = .load h ∧ s.due f = true ∧ gSpace h.addr = 2 ∧ s.targetCheck f.src f.dev h .read = none)
    ∧ (∃ (s : State) (f : Frame) (h : OpHdr) (data : List Byte),
    f.body = .store h data ∧ s.due f = true ∧ gSpace h.addr < 2 ∧ s.targetCheck f.src f.dev { h with len := data.length } .write = none) :=
  ⟨⟨(State.reset.onFab fun f => { f with regions := [{ num := 5, state := .valid, permR := true, permW := true, permA := true, space := 0, anySource := true, source := 0, key := 9, base := 2 ^ 26, length := 4096, inflight := 0 }] }), 7, false, ⟨2 ^ 26 + 64, 5, 9, 8, 1⟩, .read, { num := 5, state := .valid, permR := true, permW := true, permA := true, space := 0, anySource := true, source := 0, key := 9, base := 2 ^ 26, length := 4096, inflight := 0 }, by and_intros <;> decide +kernel⟩,
   ⟨State.reset.onFab fun f => { f with regions := [{ num := 5, state := .valid, permR := true, permW := true, permA := true, space := 0, anySource := true, source := 0, key := 9, base := 2 ^ 26, length := 4096, inflight := 0 }] }, { frame0 with src := 7, body := .load ⟨2 ^ 26 + 64, 5, 9, 8, 1⟩ }, ⟨2 ^ 26 + 64, 5, 9, 8, 1⟩, by and_intros <;> decide +kernel⟩,
   ⟨(State.reset.onFab fun f => { f with regions := [{ num := 5, state := .valid, permR := true, permW := true, permA := true, space := 0, anySource := true, source := 0, key := 9, base := 2 ^ 26, length := 4096, inflight := 0 }] }).markPoison .hbm (2 ^ 26 + 64) 8 .poisonRead, { frame0 with src := 7, body := .load ⟨2 ^ 26 + 64, 5, 9, 8, 1⟩ }, ⟨2 ^ 26 + 64, 5, 9, 8, 1⟩, .poisonRead, by and_intros <;> decide +kernel⟩,
   ⟨State.reset.onFab fun f => { f with regions := [{ num := 5, state := .valid, permR := true, permW := true, permA := true, space := 0, anySource := true, source := 0, key := 9, base := 2 ^ 26, length := 4096, inflight := 0 }] }, { frame0 with src := 7, body := .load ⟨2 ^ 26 + 64, 5, 8, 8, 1⟩ }, ⟨2 ^ 26 + 64, 5, 8, 8, 1⟩, .keyInvalid, by and_intros <;> decide +kernel⟩,
   ⟨(State.reset.onFab fun f => { f with regions := [{ num := 5, state := .valid, permR := true, permW := true, permA := true, space := 2, anySource := true, source := 0, key := 9, base := 0, length := 4096, inflight := 0 }] }), { frame0 with src := 7, body := .load ⟨2 * 2 ^ 46 + 64, 5, 9, 8, 1⟩ }, ⟨2 * 2 ^ 46 + 64, 5, 9, 8, 1⟩, by and_intros <;> decide +kernel⟩,
   ⟨State.reset.onFab fun f => { f with regions := [{ num := 5, state := .valid, permR := true, permW := true, permA := true, space := 0, anySource := true, source := 0, key := 9, base := 2 ^ 26, length := 4096, inflight := 0 }] }, { frame0 with src := 7, body := .store ⟨2 ^ 26 + 64, 5, 9, 8, 1⟩ [1, 2] }, ⟨2 ^ 26 + 64, 5, 9, 8, 1⟩, [1, 2], by and_intros <;> decide +kernel⟩⟩

/-- States that meet the hypotheses of `TargetAccesses` (clauses 13, 14, 15, 16, 18, 19). -/
theorem witness_TargetAccesses_3 :
    (∃ (s : State) (f : Frame) (h : OpHdr) (data : List Byte) (x : St),
    f.body = .store h data ∧ s.due f = true ∧ gSpace h.addr < 3 ∧ s.targetCheck f.src f.dev { h with len := data.length } .write = some x)
    ∧ (∃ (s : State) (f : Frame) (h : OpHdr) (aop : Nat) (operand : Nat) (compare : Nat),
    f.body = .atomic h aop operand compare ∧ s.due f = true ∧ gSpace h.addr < 2 ∧ s.targetCheck f.src f.dev { h with len := 8 } .atomic = none ∧ gOff h.addr % 8 = 0 ∧ aop ≤ 7)
    ∧ (∃ (s : State) (f : Frame) (h : OpHdr) (aop : Nat) (operand : Nat) (compare : Nat),
    f.body = .atomic h aop operand compare ∧ s.due f = true ∧ gSpace h.addr < 3 ∧ s.targetCheck f.src f.dev { h with len := 8 } .atomic = none ∧ (gOff h.addr % 8 ≠ 0 ∨ 7 < aop))
    ∧ (∃ (s : State) (f : Frame) (h : OpHdr) (aop : Nat) (operand : Nat) (compare : Nat) (k : Nat),
    f.body = .atomic h aop operand compare ∧ s.due f = true ∧ gSpace h.addr = 2 ∧ s.targetCheck f.src f.dev { h with len := 8 } .atomic = none ∧ s.counterAt (gOff h.addr) = some k ∧ barrierAt (gOff h.addr) = none ∧ operand < 2 ^ 40 ∧ compare < 2 ^ 40 ∧ aop ≤ 7)
    ∧ (∃ (s : State) (f : Frame) (h : OpHdr),
    f.body = .load h ∧ s.due f = true ∧ gSpace h.addr = 3 ∧ s.transitOnly = false ∧ s.decodes 3 (gOff h.addr) h.len = true ∧ s.isManager f.src = false ∧ (0x10000 ≤ gOff h.addr ∨ s.flag R.FAB_KEY_POLICY_SPACE3_READ_ANY = false))
    ∧ (∃ (s : State) (f : Frame) (h : OpHdr),
    f.body = .load h ∧ s.due f = true ∧ gSpace h.addr = 3 ∧ (s.transitOnly = true ∨ s.decodes 3 (gOff h.addr) h.len = false)) :=
  ⟨⟨State.reset.onFab fun f => { f with regions := [{ num := 5, state := .valid, permR := true, permW := false, permA := true, space := 0, anySource := true, source := 0, key := 9, base := 2 ^ 26, length := 4096, inflight := 0 }] }, { frame0 with src := 7, body := .store ⟨2 ^ 26 + 64, 5, 9, 8, 1⟩ [1, 2] }, ⟨2 ^ 26 + 64, 5, 9, 8, 1⟩, [1, 2], .accessDenied, by and_intros <;> decide +kernel⟩,
   ⟨State.reset.onFab fun f => { f with regions := [{ num := 5, state := .valid, permR := true, permW := true, permA := true, space := 0, anySource := true, source := 0, key := 9, base := 2 ^ 26, length := 4096, inflight := 0 }] }, { frame0 with src := 7, body := .atomic ⟨2 ^ 26 + 64, 5, 9, 8, 1⟩ 7 5 0 }, ⟨2 ^ 26 + 64, 5, 9, 8, 1⟩, 7, 5, 0, by and_intros <;> decide +kernel⟩,
   ⟨State.reset.onFab fun f => { f with regions := [{ num := 5, state := .valid, permR := true, permW := true, permA := true, space := 0, anySource := true, source := 0, key := 9, base := 2 ^ 26, length := 4096, inflight := 0 }] }, { frame0 with src := 7, body := .atomic ⟨2 ^ 26 + 65, 5, 9, 8, 1⟩ 7 5 0 }, ⟨2 ^ 26 + 65, 5, 9, 8, 1⟩, 7, 5, 0, by and_intros <;> decide +kernel⟩,
   ⟨State.reset.onFab fun f => { f with regions := [{ num := 5, state := .valid, permR := true, permW := true, permA := true, space := 2, anySource := true, source := 0, key := 9, base := 0, length := 4096, inflight := 0 }] }, { frame0 with src := 7, body := .atomic ⟨(2 * 2 ^ 46 + 8), 5, 9, 8, 1⟩ 1 5 0 }, ⟨(2 * 2 ^ 46 + 8), 5, 9, 8, 1⟩, 1, 5, 0, 1, by and_intros <;> decide +kernel⟩,
   ⟨State.reset.onFab fun f => { f with regions := [{ num := 5, state := .valid, permR := true, permW := true, permA := true, space := 0, anySource := true, source := 0, key := 9, base := 0, length := 4096, inflight := 0 }] }, { frame0 with src := 7, body := .load ⟨(3 * 2 ^ 46 + 0x200040), 5, 9, 8, 1⟩ }, ⟨(3 * 2 ^ 46 + 0x200040), 5, 9, 8, 1⟩, by and_intros <;> decide +kernel⟩,
   ⟨State.reset, { frame0 with src := 7, body := .load ⟨(3 * 2 ^ 46 + 2 ^ 45), 5, 9, 8, 1⟩ }, ⟨(3 * 2 ^ 46 + 2 ^ 45), 5, 9, 8, 1⟩, by and_intros <;> decide +kernel⟩⟩

/-- States that meet the hypotheses of `TargetAccesses` (clauses 20, 21, 22). -/
theorem witness_TargetAccesses_4 :
    (∃ (s : State) (u : State) (f : Frame) (h : OpHdr) (data : List Byte) (x : St),
    f.body = .store h data ∧ s.due f = true ∧ gSpace h.addr = 3 ∧ s.transitOnly = false ∧ s.decodes 3 (gOff h.addr) 8 = true ∧ s.isManager f.src = true ∧ data.length = 8 ∧ (s.takeOrdered f).csrWrite true (gOff h.addr) (rdNat (fun k => data.getD k 0) 0 8) = (u, x))
    ∧ (∃ (s : State) (f : Frame),
    s.due f = false)
    ∧ (∃ (s : State) (f : Frame) (g : Frame),
    s.fab.accepted.find? (·.src == f.src) = some g) :=
  ⟨⟨(State.reset.setRegs [(R.FAB_MANAGER_VALID 0, 1), (R.FAB_MANAGER_NODE 0, 7)]), ((((State.reset.setRegs [(R.FAB_MANAGER_VALID 0, 1), (R.FAB_MANAGER_NODE 0, 7)])).takeOrdered { frame0 with src := 7, body := .store ⟨(3 * 2 ^ 46 + 0x280018), 5, 9, 8, 1⟩ [0, 0, 0, 0, 0, 0, 50, 0] }).csrWrite true 0x280018 (rdNat (fun k => [0, 0, 0, 0, 0, 0, 50, 0].getD k 0) 0 8)).1, { frame0 with src := 7, body := .store ⟨(3 * 2 ^ 46 + 0x280018), 5, 9, 8, 1⟩ [0, 0, 0, 0, 0, 0, 50, 0] }, ⟨(3 * 2 ^ 46 + 0x280018), 5, 9, 8, 1⟩, [0, 0, 0, 0, 0, 0, 50, 0], ((((State.reset.setRegs [(R.FAB_MANAGER_VALID 0, 1), (R.FAB_MANAGER_NODE 0, 7)])).takeOrdered { frame0 with src := 7, body := .store ⟨(3 * 2 ^ 46 + 0x280018), 5, 9, 8, 1⟩ [0, 0, 0, 0, 0, 0, 50, 0] }).csrWrite true 0x280018 (rdNat (fun k => [0, 0, 0, 0, 0, 0, 50, 0].getD k 0) 0 8)).2, by and_intros <;> decide +kernel⟩,
   ⟨State.reset.onFab fun b => { b with accepted := [{ frame0 with src := 7, oseq := 1 }] }, { frame0 with src := 7 }, by decide +kernel⟩,
   ⟨State.reset.onFab fun b => { b with accepted := [{ frame0 with src := 7 }] }, { frame0 with src := 7 }, { frame0 with src := 7 }, by decide +kernel⟩⟩

/-- States that meet the hypotheses of `FrameAcceptance` (clauses 1, 2, 3, 4, 5). -/
theorem witness_FrameAcceptance_1 :
    (∃ (s : State) (f : Frame) (c : InChannel),
    f.body.cls = .ordered ∧ f.body ≠ .oack ∧ f.body.resetting = false ∧ (let u := ((s.takeFrame f).takeOack f.src f.oack).contact f.src; u.inCh? f.src = some c ∧ c.known = true ∧ c.incarnation = f.incarnation ∧ f.oseq = c.expected))
    ∧ (∃ (s : State) (f : Frame) (c : InChannel),
    f.body.cls = .ordered ∧ f.body ≠ .oack ∧ f.body.resetting = false ∧ (let u := ((s.takeFrame f).takeOack f.src f.oack).contact f.src; u.inCh? f.src = some c ∧ c.known = true ∧ c.incarnation = f.incarnation ∧ f.oseq = c.expected))
    ∧ (∃ (s : State) (f : Frame),
    f.body.cls = .ordered ∧ f.body ≠ .oack ∧ f.body.resetting = false ∧ (let u := ((s.takeFrame f).takeOack f.src f.oack).contact f.src; (∀ c, u.inCh? f.src = some c → c.known = false) ∧ f.sync = false))
    ∧ (∃ (s : State) (f : Frame),
    f.body.cls = .ordered ∧ f.body ≠ .oack ∧ f.body.resetting = false ∧ (let u := ((s.takeFrame f).takeOack f.src f.oack).contact f.src; u.inCh? f.src = none ∧ f.sync = true ∧ f.oseq = 0))
    ∧ (∃ (s : State) (f : Frame) (c : InChannel),
    f.body.cls = .ordered ∧ f.body ≠ .oack ∧ f.body.resetting = false ∧ (let u := ((s.takeFrame f).takeOack f.src f.oack).contact f.src; u.inCh? f.src = some c ∧ c.known = false ∧ f.sync = true ∧ f.oseq = 0))
    ∧ (∃ (s : State) (f : Frame) (c : InChannel),
    f.body.cls = .ordered ∧ f.body ≠ .oack ∧ f.body.resetting = false ∧ (let u := ((s.takeFrame f).takeOack f.src f.oack).contact f.src; u.inCh? f.src = some c ∧ c.known = true ∧ f.sync = true ∧ f.oseq = 0 ∧ f.incarnation ≠ c.incarnation)) :=
  ⟨⟨(State.reset.onFab fun f => { f with regions := [{ num := 5, state := .valid, permR := true, permW := true, permA := true, space := 2, anySource := true, source := 0, key := 9, base := 0, length := 4096, inflight := 0 }] }).putIn ⟨7, true, 0, 3, 0, false, false⟩, { frame0 with src := 7, oseq := 3 }, ⟨7, true, 0, 3, 0, false, false⟩, by and_intros <;> decide +kernel⟩,
   ⟨(State.reset.onFab fun f => { f with regions := [{ num := 5, state := .valid, permR := true, permW := true, permA := true, space := 2, anySource := true, source := 0, key := 9, base := 0, length := 4096, inflight := 0 }] }).putIn ⟨7, true, 0, 2 ^ 32 - 1, 0, false, false⟩, { frame0 with src := 7, oseq := 2 ^ 32 - 1 }, ⟨7, true, 0, 2 ^ 32 - 1, 0, false, false⟩, by and_intros <;> decide +kernel⟩,
   ⟨State.reset.onFab fun f => { f with regions := [{ num := 5, state := .valid, permR := true, permW := true, permA := true, space := 0, anySource := true, source := 0, key := 9, base := 2 ^ 26, length := 4096, inflight := 0 }] }, { frame0 with src := 7, oseq := 3 }, by and_intros <;> decide +kernel⟩,
   ⟨State.reset.onFab fun f => { f with regions := [{ num := 5, state := .valid, permR := true, permW := true, permA := true, space := 0, anySource := true, source := 0, key := 9, base := 2 ^ 26, length := 4096, inflight := 0 }] }, { frame0 with src := 7, oseq := 0, sync := true }, by and_intros <;> decide +kernel⟩,
   ⟨(State.reset.onFab fun f => { f with regions := [{ num := 5, state := .valid, permR := true, permW := true, permA := true, space := 2, anySource := true, source := 0, key := 9, base := 0, length := 4096, inflight := 0 }] }).putIn ⟨7, false, 0, 0, 5, false, false⟩, { frame0 with src := 7, sync := true }, ⟨7, false, 0, 0, 5, false, false⟩, by and_intros <;> decide +kernel⟩,
   ⟨(State.reset.onFab fun f => { f with regions := [{ num := 5, state := .valid, permR := true, permW := true, permA := true, space := 2, anySource := true, source := 0, key := 9, base := 0, length := 4096, inflight := 0 }] }).putIn ⟨7, true, 0, 3, 0, false, false⟩, { frame0 with src := 7, sync := true, incarnation := 1 }, ⟨7, true, 0, 3, 0, false, false⟩, by and_intros <;> decide +kernel⟩⟩

/-- States that meet the hypotheses of `FrameAcceptance` (clauses 6, 7, 8, 9, 10, 12). -/
theorem witness_FrameAcceptance_2 :
    (∃ (s : State) (f : Frame) (c : InChannel),
    f.body.cls = .ordered ∧ f.body ≠ .oack ∧ f.body.resetting = false ∧ (let u := ((s.takeFrame f).takeOack f.src f.oack).contact f.src; u.inCh? f.src = some c ∧ c.known = true ∧ c.incarnation = f.incarnation ∧ f.oseq ≠ c.expected))
    ∧ (∃ (s : State) (f : Frame) (c : InChannel),
    f.body.cls = .ordered ∧ f.body ≠ .oack ∧ f.body.resetting = false ∧ (let u := ((s.takeFrame f).takeOack f.src f.oack).contact f.src; u.inCh? f.src = some c ∧ c.known = true ∧ c.incarnation ≠ f.incarnation ∧ f.sync = false))
    ∧ (∃ (s : State) (f : Frame),
    f.body.cls ≠ .ordered)
    ∧ (∃ (s : State) (f : Frame) (e : Engine) (first : Bool) (last : Bool) (n : Nat) (off : Nat) (len : Nat) (m : Option Msg),
    f.body = .engine e first last n off len m)
    ∧ (∃ (s : State) (f : Frame),
    (∀ e first last n off len m, f.body ≠ .engine e first last n off len m))
    ∧ (∃ (s : State) (f : Frame) (h : OpHdr) (cover : Nat) (v : Nat) (k : Nat),
    f.body = .signal h cover v ∧ s.due f = true ∧ s.blocked f = false ∧ gSpace h.addr = 2 ∧ s.counterAt (gOff h.addr) = some k ∧ s.targetCheck f.src f.dev { h with len := 8 } .atomic = none) :=
  ⟨⟨(State.reset.onFab fun f => { f with regions := [{ num := 5, state := .valid, permR := true, permW := true, permA := true, space := 2, anySource := true, source := 0, key := 9, base := 0, length := 4096, inflight := 0 }] }).putIn ⟨7, true, 0, 3, 0, false, false⟩, { frame0 with src := 7, oseq := 5 }, ⟨7, true, 0, 3, 0, false, false⟩, by and_intros <;> decide +kernel⟩,
   ⟨(State.reset.onFab fun f => { f with regions := [{ num := 5, state := .valid, permR := true, permW := true, permA := true, space := 2, anySource := true, source := 0, key := 9, base := 0, length := 4096, inflight := 0 }] }).putIn ⟨7, true, 0, 3, 0, false, false⟩, { frame0 with src := 7, incarnation := 1 }, ⟨7, true, 0, 3, 0, false, false⟩, by and_intros <;> decide +kernel⟩,
   ⟨State.reset.onFab fun f => { f with regions := [{ num := 5, state := .valid, permR := true, permW := true, permA := true, space := 0, anySource := true, source := 0, key := 9, base := 0, length := 4096, inflight := 0 }] }, { frame0 with src := 7, body := .mgmtRead 0 0 }, by decide +kernel⟩,
   ⟨State.reset, { frame0 with src := 7, body := .engine .rse true true 0 0 0 (some .resync) }, .rse, true, true, 0, 0, 0, some .resync, by decide +kernel⟩,
   ⟨State.reset, { frame0 with src := 7 }, by intro e a b c d f m h; cases h⟩,
   ⟨(State.reset.onFab fun f => { f with regions := [{ num := 5, state := .valid, permR := true, permW := true, permA := true, space := 2, anySource := true, source := 0, key := 9, base := 0, length := 4096, inflight := 0 }] }).putIn ⟨7, true, 0, 3, 100, false, false⟩, { frame0 with src := 7, body := .signal ⟨(2 * 2 ^ 46 + 8), 5, 9, 8, 1⟩ 100 4 }, ⟨(2 * 2 ^ 46 + 8), 5, 9, 8, 1⟩, 100, 4, 1, by and_intros <;> decide +kernel⟩⟩

/-- States that meet the hypotheses of `FrameAcceptance` (clauses 13, 14, 15, 17, 18, 19). -/
theorem witness_FrameAcceptance_3 :
    (∃ (s : State) (f : Frame) (h : OpHdr) (cover : Nat) (v : Nat),
    f.body = .signal h cover v ∧ s.due f = true ∧ s.blocked f = true)
    ∧ (∃ (s : State) (f : Frame) (h : OpHdr) (cover : Nat) (v : Nat) (x : St),
    f.body = .signal h cover v ∧ s.due f = true ∧ s.blocked f = false ∧ s.targetCheck f.src f.dev { h with len := 8 } .atomic = some x)
    ∧ (∃ (s : State) (u : State) (f : Frame) (h : OpHdr) (cover : Nat) (b : Nat) (a : ArriveMsg),
    f.body = .arrive h cover a ∧ s.due f = true ∧ s.blocked f = false ∧ gSpace h.addr = 2 ∧ barrierAt (gOff h.addr) = some b ∧ s.targetCheck f.src f.dev { h with len := 8 } .atomic = none ∧ u = (s.takeOrdered f).regionLooked f.src { h with len := 8 })
    ∧ (∃ (s : State) (src : Nat) (f : Frame),
    s.fab.accepted.find? (·.src == src) = some f ∧ s.holding src = true ∧ s.blocked f = true)
    ∧ (∃ (s : State) (f : Frame) (h : OpHdr) (cover : Nat) (v : Nat),
    s.fab.accepted = [f] ∧ f.body = .signal h cover v ∧ s.holding f.src = true ∧ s.blocked f = false)
    ∧ (∃ (s : State) (src : Nat) (f : Frame) (h : OpHdr) (cover : Nat) (v : Nat),
    s.fab.accepted.find? (·.src == src) = some f ∧ s.holding src = true ∧ f.body = .signal h cover v) :=
  ⟨⟨(((State.reset.onFab fun f => { f with regions := [{ num := 5, state := .valid, permR := true, permW := true, permA := true, space := 2, anySource := true, source := 0, key := 9, base := 0, length := 4096, inflight := 0 }] })).putIn ⟨7, true, 0, 3, 99, false, false⟩), { frame0 with src := 7, body := .signal ⟨(2 * 2 ^ 46 + 8), 5, 9, 8, 1⟩ 100 4 }, ⟨(2 * 2 ^ 46 + 8), 5, 9, 8, 1⟩, 100, 4, by and_intros <;> decide +kernel⟩,
   ⟨(State.reset.onFab fun f => { f with regions := [{ num := 5, state := .valid, permR := true, permW := true, permA := true, space := 2, anySource := true, source := 0, key := 9, base := 0, length := 4096, inflight := 0 }] }).putIn ⟨7, true, 0, 3, 100, false, false⟩, { frame0 with src := 7, body := .signal ⟨(2 * 2 ^ 46 + 8), 5, 8, 8, 1⟩ 100 4 }, ⟨(2 * 2 ^ 46 + 8), 5, 8, 8, 1⟩, 100, 4, .keyInvalid, by and_intros <;> decide +kernel⟩,
   ⟨(State.reset.onFab fun f => { f with regions := [{ num := 5, state := .valid, permR := true, permW := true, permA := true, space := 2, anySource := true, source := 0, key := 9, base := 0, length := (2 ^ 30), inflight := 0 }] }), (((State.reset.onFab fun f => { f with regions := [{ num := 5, state := .valid, permR := true, permW := true, permA := true, space := 2, anySource := true, source := 0, key := 9, base := 0, length := (2 ^ 30), inflight := 0 }] }).takeOrdered { frame0 with src := 7, body := .arrive ⟨(2 * 2 ^ 46 + 64 * 2 ^ 18 + 64 * 3), 5, 9, 8, 1⟩ 0 ⟨1, 2, 3⟩ }).regionLooked 7 { (⟨(2 * 2 ^ 46 + 64 * 2 ^ 18 + 64 * 3), 5, 9, 8, 1⟩ : OpHdr) with len := 8 }), { frame0 with src := 7, body := .arrive ⟨(2 * 2 ^ 46 + 64 * 2 ^ 18 + 64 * 3), 5, 9, 8, 1⟩ 0 ⟨1, 2, 3⟩ }, ⟨(2 * 2 ^ 46 + 64 * 2 ^ 18 + 64 * 3), 5, 9, 8, 1⟩, 0, 3, ⟨1, 2, 3⟩, by and_intros <;> first | decide +kernel | exact rfl⟩,
   ⟨((((State.reset.onFab fun f => { f with regions := [{ num := 5, state := .valid, permR := true, permW := true, permA := true, space := 2, anySource := true, source := 0, key := 9, base := 0, length := 4096, inflight := 0 }] })).onFab fun g => { g with accepted := [{ frame0 with src := 7, body := .signal ⟨(2 * 2 ^ 46 + 8), 5, 9, 8, 1⟩ 100 4 }] }).putIn ⟨7, true, 0, 3, 99, true, false⟩), 7, { frame0 with src := 7, body := .signal ⟨(2 * 2 ^ 46 + 8), 5, 9, 8, 1⟩ 100 4 }, by and_intros <;> decide +kernel⟩,
   ⟨((((State.reset.onFab fun f => { f with regions := [{ num := 5, state := .valid, permR := true, permW := true, permA := true, space := 2, anySource := true, source := 0, key := 9, base := 0, length := 4096, inflight := 0 }] })).onFab fun g => { g with accepted := [{ frame0 with src := 7, body := .signal ⟨(2 * 2 ^ 46 + 8), 5, 9, 8, 1⟩ 100 4 }] }).putIn ⟨7, true, 0, 3, 100, true, false⟩), { frame0 with src := 7, body := .signal ⟨(2 * 2 ^ 46 + 8), 5, 9, 8, 1⟩ 100 4 }, ⟨(2 * 2 ^ 46 + 8), 5, 9, 8, 1⟩, 100, 4, by and_intros <;> decide +kernel⟩,
   ⟨((((State.reset.onFab fun f => { f with regions := [{ num := 5, state := .valid, permR := true, permW := true, permA := true, space := 2, anySource := true, source := 0, key := 9, base := 0, length := 4096, inflight := 0 }] })).onFab fun g => { g with accepted := [{ frame0 with src := 7, body := .signal ⟨(2 * 2 ^ 46 + 8), 5, 9, 8, 1⟩ 100 4 }] }).putIn ⟨7, true, 0, 3, 99, true, false⟩), 7, { frame0 with src := 7, body := .signal ⟨(2 * 2 ^ 46 + 8), 5, 9, 8, 1⟩ 100 4 }, ⟨(2 * 2 ^ 46 + 8), 5, 9, 8, 1⟩, 100, 4, by and_intros <;> decide +kernel⟩⟩

/-- States that meet the hypotheses of `FrameAcceptance` (clauses 20, 21). -/
theorem witness_FrameAcceptance_4 :
    (∃ (s : State) (src : Nat) (f : Frame) (h : OpHdr) (cover : Nat) (a : ArriveMsg),
    s.fab.accepted.find? (·.src == src) = some f ∧ s.holding src = true ∧ f.body = .arrive h cover a)
    ∧ (∃ (s : State) (src : Nat),
    s.holding src = false) :=
  ⟨⟨((((State.reset.onFab fun f => { f with regions := [{ num := 5, state := .valid, permR := true, permW := true, permA := true, space := 2, anySource := true, source := 0, key := 9, base := 0, length := 4096, inflight := 0 }] })).onFab fun g => { g with accepted := [{ frame0 with src := 7, body := .arrive ⟨(2 * 2 ^ 46 + 64 * 2 ^ 18 + 64 * 3), 5, 9, 8, 1⟩ 100 ⟨1, 2, 3⟩ }] }).putIn ⟨7, true, 0, 3, 99, true, false⟩), 7, { frame0 with src := 7, body := .arrive ⟨(2 * 2 ^ 46 + 64 * 2 ^ 18 + 64 * 3), 5, 9, 8, 1⟩ 100 ⟨1, 2, 3⟩ }, ⟨(2 * 2 ^ 46 + 64 * 2 ^ 18 + 64 * 3), 5, 9, 8, 1⟩, 100, ⟨1, 2, 3⟩, by and_intros <;> decide +kernel⟩,
   ⟨State.reset, 7, by decide +kernel⟩⟩

/-- States that meet the hypotheses of `ManagementAndNotices` (clauses 1, 2, 3, 4, 5). -/
theorem witness_ManagementAndNotices_1 :
    (∃ (s : State) (t : State) (f : Frame) (ctl : Nat) (tag : Nat) (v : Nat),
    f.body = .mgmtRead ctl tag ∧ f.pathIndex = f.path.length ∧ s.isManager f.src = true ∧ (s.takeFrame f).csrRead ctl = (.ok v, t))
    ∧ (∃ (s : State) (t : State) (f : Frame) (ctl : Nat) (tag : Nat) (v : Nat) (x : St),
    f.body = .mgmtWrite ctl tag v ∧ f.pathIndex = f.path.length ∧ s.isManager f.src = true ∧ (ctl < 0x500000 ∨ 0x700000 ≤ ctl) ∧ (s.takeFrame f).csrWrite false ctl v = (t, x))
    ∧ (∃ (s : State) (f : Frame) (ctl : Nat) (tag : Nat) (v : Nat),
    f.body = .mgmtWrite ctl tag v ∧ f.pathIndex = f.path.length ∧ s.isManager f.src = true ∧ 0x500000 ≤ ctl ∧ ctl < 0x700000)
    ∧ (∃ (s : State) (f : Frame) (ctl : Nat) (tag : Nat) (v : Nat),
    f.body = .mgmtWrite ctl tag v ∧ f.pathIndex = f.path.length ∧ s.isManager f.src = true ∧ 0x500000 ≤ ctl ∧ ctl < 0x700000)
    ∧ (∃ (s : State) (t : State) (f : Frame) (ctl : Nat) (tag : Nat) (v : Nat) (x : St),
    f.body = .mgmtWrite ctl tag v ∧ f.pathIndex = f.path.length ∧ s.managers = [] ∧ s.flag R.CAP_NODE_NODE_VALID = false ∧ (ctl < 0x500000 ∨ 0x700000 ≤ ctl) ∧ ((s.takeFrame f).setRegs [(R.FAB_MANAGER_VALID 0, 1), (R.FAB_MANAGER_NODE 0, f.src)]).csrWrite false ctl v = (t, x))
    ∧ (∃ (s : State) (f : Frame),
    f.pathIndex = f.path.length ∧ s.isManager f.src = false ∧ (s.managers ≠ [] ∨ s.flag R.CAP_NODE_NODE_VALID = true)) :=
  ⟨⟨(State.reset.setRegs [(R.FAB_MANAGER_VALID 0, 1), (R.FAB_MANAGER_NODE 0, 7)]), ((((State.reset.setRegs [(R.FAB_MANAGER_VALID 0, 1), (R.FAB_MANAGER_NODE 0, 7)])).takeFrame ({ frame0 with src := 7, ret := [3], body := .mgmtRead 0x280018 9 })).csrRead 0x280018).2, { frame0 with src := 7, ret := [3], body := .mgmtRead 0x280018 9 }, 0x280018, 9, (((((State.reset.setRegs [(R.FAB_MANAGER_VALID 0, 1), (R.FAB_MANAGER_NODE 0, 7)])).takeFrame ({ frame0 with src := 7, ret := [3], body := .mgmtRead 0x280018 9 })).csrRead 0x280018).1.toOption.getD 0), by and_intros <;> decide +kernel⟩,
   ⟨(State.reset.setRegs [(R.FAB_MANAGER_VALID 0, 1), (R.FAB_MANAGER_NODE 0, 7)]), ((((State.reset.setRegs [(R.FAB_MANAGER_VALID 0, 1), (R.FAB_MANAGER_NODE 0, 7)])).takeFrame { frame0 with src := 7, ret := [3], body := .mgmtWrite 0x280018 9 (50 * 2 ^ 48) }).csrWrite true 0x280018 (50 * 2 ^ 48)).1, { frame0 with src := 7, ret := [3], body := .mgmtWrite 0x280018 9 (50 * 2 ^ 48) }, 0x280018, 9, 50 * 2 ^ 48, ((((State.reset.setRegs [(R.FAB_MANAGER_VALID 0, 1), (R.FAB_MANAGER_NODE 0, 7)])).takeFrame { frame0 with src := 7, ret := [3], body := .mgmtWrite 0x280018 9 (50 * 2 ^ 48) }).csrWrite true 0x280018 (50 * 2 ^ 48)).2, by and_intros <;> decide +kernel⟩,
   ⟨(State.reset.setRegs [(R.FAB_MANAGER_VALID 0, 1), (R.FAB_MANAGER_NODE 0, 7)]), { frame0 with src := 7, body := .mgmtWrite 0x500000 3 1 }, 0x500000, 3, 1, by and_intros <;> decide +kernel⟩,
   ⟨(State.reset.setRegs [(R.FAB_MANAGER_VALID 0, 1), (R.FAB_MANAGER_NODE 0, 7)]), { frame0 with src := 7, body := .mgmtWrite 0x6FFFF8 3 1 }, 0x6FFFF8, 3, 1, by and_intros <;> decide +kernel⟩,
   ⟨State.reset, (((State.reset.takeFrame { frame0 with src := 7, ret := [3], body := .mgmtWrite 0x280018 9 (50 * 2 ^ 48) }).setRegs [(R.FAB_MANAGER_VALID 0, 1), (R.FAB_MANAGER_NODE 0, 7)]).csrWrite true 0x280018 (50 * 2 ^ 48)).1, { frame0 with src := 7, ret := [3], body := .mgmtWrite 0x280018 9 (50 * 2 ^ 48) }, 0x280018, 9, 50 * 2 ^ 48, (((State.reset.takeFrame { frame0 with src := 7, ret := [3], body := .mgmtWrite 0x280018 9 (50 * 2 ^ 48) }).setRegs [(R.FAB_MANAGER_VALID 0, 1), (R.FAB_MANAGER_NODE 0, 7)]).csrWrite true 0x280018 (50 * 2 ^ 48)).2, by and_intros <;> decide +kernel⟩,
   ⟨(State.reset.setRegs [(R.FAB_MANAGER_VALID 0, 1), (R.FAB_MANAGER_NODE 0, 7)]), { frame0 with src := 8, body := .mgmtRead 0 0 }, by and_intros <;> decide +kernel⟩⟩

/-- States that meet the hypotheses of `ManagementAndNotices` (clauses 6, 9). -/
theorem witness_ManagementAndNotices_2 :
    (∃ (s : State) (f : Frame),
    f.pathIndex ≠ f.path.length)
    ∧ (∃ (s : State) (f : Frame) (tag : Nat) (value : Nat) (p : Nat) (l : Link) (x : St),
    f.ingress = some p ∧ s.link? (.port p) = some l ∧ l.state = .up ∧ s.reg (R.FAB_PORT_CFG_MODE p) = 0) :=
  ⟨⟨(State.reset.setRegs [(R.FAB_MANAGER_VALID 0, 1), (R.FAB_MANAGER_NODE 0, 7)]), { frame0 with path := [1] }, by decide +kernel⟩,
   ⟨((linked [up0]).setReg (R.FAB_PORT_CFG_MODE 3) 0), { frame0 with src := 9, ingress := some 3, ret := [0, 3], pathIndex := 2, body := .mgmtRead 0 0 }, 0, 0, 3, up0, .ok, by and_intros <;> decide +kernel⟩⟩

/-- States that meet the hypotheses of `RegionCommands` (clauses 1, 2, 3, 4). -/
theorem witness_RegionCommands_1 :
    (∃ (s : State) (n : Nat) (r : Region),
    s.flag R.FAB_REGION_STATUS_BUSY = false ∧ s.flag R.FAB_KEY_POLICY_LOCK = false ∧ s.argRegion n = some r ∧ s.region? n = none)
    ∧ (∃ (s : State) (n : Nat) (r : Region),
    s.flag R.FAB_REGION_STATUS_BUSY = false ∧ s.flag R.FAB_KEY_POLICY_LOCK = false ∧ s.argRegion n = some r ∧ (s.region? n).isSome = true)
    ∧ (∃ (s : State) (n : Nat),
    s.flag R.FAB_REGION_STATUS_BUSY = false ∧ s.flag R.FAB_KEY_POLICY_LOCK = false ∧ s.argRegion n = none)
    ∧ (∃ (s : State) (n : Nat),
    s.flag R.FAB_REGION_STATUS_BUSY = false ∧ s.flag R.FAB_KEY_POLICY_LOCK = false ∧ s.argRegion n = none)
    ∧ (∃ (s : State) (n : Nat),
    (n = 0 ∨ bitsOf (s.reg R.FAB_REGION_ARG0_WORD) 58 57 = 3 ∨ s.reg R.FAB_REGION_ARG2_WORD = 0))
    ∧ (∃ (s : State) (n : Nat),
    (n = 0 ∨ bitsOf (s.reg R.FAB_REGION_ARG0_WORD) 58 57 = 3 ∨ s.reg R.FAB_REGION_ARG2_WORD = 0)) :=
  ⟨⟨State.reset.setRegs [(R.FAB_REGION_ARG0_WORD, 7 * 2 ^ 59 + 2 ^ 56 + 9), (R.FAB_REGION_ARG1_WORD, 4096), (R.FAB_REGION_ARG2_WORD, 64)], 5, { num := 5, state := .valid, permR := true, permW := true, permA := true, space := 0, anySource := true, source := 0, key := 9, base := 4096, length := 64, inflight := 0 }, by and_intros <;> decide +kernel⟩,
   ⟨(State.reset.setRegs [(R.FAB_REGION_ARG0_WORD, 7 * 2 ^ 59 + 2 ^ 56 + 9), (R.FAB_REGION_ARG1_WORD, 4096), (R.FAB_REGION_ARG2_WORD, 64)]).putRegion { num := 5, state := .valid, permR := true, permW := true, permA := true, space := 0, anySource := true, source := 0, key := 9, base := 0, length := 4096, inflight := 0 }, 5, { num := 5, state := .valid, permR := true, permW := true, permA := true, space := 0, anySource := true, source := 0, key := 9, base := 4096, length := 64, inflight := 0 }, by and_intros <;> decide +kernel⟩,
   ⟨State.reset.setRegs [(R.FAB_REGION_ARG0_WORD, 7 * 2 ^ 59 + 2 ^ 56 + 9), (R.FAB_REGION_ARG1_WORD, 4096), (R.FAB_REGION_ARG2_WORD, 64)], 0, by and_intros <;> decide +kernel⟩,
   ⟨State.reset, 5, by and_intros <;> decide +kernel⟩,
   ⟨State.reset.setRegs [(R.FAB_REGION_ARG0_WORD, 7 * 2 ^ 59 + 2 ^ 56 + 9), (R.FAB_REGION_ARG1_WORD, 4096), (R.FAB_REGION_ARG2_WORD, 64)], 0, by decide +kernel⟩,
   ⟨State.reset, 5, by decide +kernel⟩⟩

/-- States that meet the hypotheses of `RegionCommands` (clauses 4, 5, 6, 7, 8). -/
theorem witness_RegionCommands_2 :
    (∃ (s : State) (n : Nat),
    (n = 0 ∨ bitsOf (s.reg R.FAB_REGION_ARG0_WORD) 58 57 = 3 ∨ s.reg R.FAB_REGION_ARG2_WORD = 0))
    ∧ (∃ (s : State) (n : Nat) (r : Region),
    s.argRegion n = some r)
    ∧ (∃ (s : State) (n : Nat) (r : Region),
    s.flag R.FAB_REGION_STATUS_BUSY = false ∧ s.flag R.FAB_KEY_POLICY_LOCK = false ∧ 0 < n ∧ s.region? n = some r ∧ r.state = .valid)
    ∧ (∃ (s : State) (n : Nat),
    s.flag R.FAB_REGION_STATUS_BUSY = false ∧ s.flag R.FAB_KEY_POLICY_LOCK = false ∧ (s.region? n = none ∨ (∃ r, s.region? n = some r ∧ r.state ≠ .valid) ∨ n = 0))
    ∧ (∃ (s : State) (n : Nat),
    s.flag R.FAB_REGION_STATUS_BUSY = false ∧ s.flag R.FAB_KEY_POLICY_LOCK = false ∧ (s.region? n = none ∨ (∃ r, s.region? n = some r ∧ r.state ≠ .valid) ∨ n = 0))
    ∧ (∃ (s : State) (n : Nat),
    (s.flag R.FAB_REGION_STATUS_BUSY = true ∨ s.flag R.FAB_KEY_POLICY_LOCK = true)) :=
  ⟨⟨State.reset.setRegs [(R.FAB_REGION_ARG0_WORD, 3 * 2 ^ 57), (R.FAB_REGION_ARG2_WORD, 5)], 5, by decide +kernel⟩,
   ⟨State.reset.setRegs [(R.FAB_REGION_ARG0_WORD, 7 * 2 ^ 59 + 2 ^ 56 + 9), (R.FAB_REGION_ARG1_WORD, 4096), (R.FAB_REGION_ARG2_WORD, 64)], 5, { num := 5, state := .valid, permR := true, permW := true, permA := true, space := 0, anySource := true, source := 0, key := 9, base := 4096, length := 64, inflight := 0 }, by decide +kernel⟩,
   ⟨State.reset.onFab fun f => { f with regions := [{ num := 5, state := .valid, permR := true, permW := true, permA := true, space := 0, anySource := true, source := 0, key := 9, base := 0, length := 4096, inflight := 0 }] }, 5, { num := 5, state := .valid, permR := true, permW := true, permA := true, space := 0, anySource := true, source := 0, key := 9, base := 0, length := 4096, inflight := 0 }, by and_intros <;> decide +kernel⟩,
   ⟨State.reset.onFab fun f => { f with regions := [{ num := 5, state := .valid, permR := true, permW := true, permA := true, space := 0, anySource := true, source := 0, key := 9, base := 0, length := 4096, inflight := 0 }] }, 6, by decide +kernel, by decide +kernel, .inl (by decide +kernel)⟩,
   ⟨State.reset.onFab fun f => { f with regions := [{ num := 5, state := .revoking, permR := true, permW := true, permA := true, space := 0, anySource := true, source := 0, key := 9, base := 0, length := 4096, inflight := 0 }] }, 5, by decide +kernel, by decide +kernel, .inr (.inl ⟨{ num := 5, state := .revoking, permR := true, permW := true, permA := true, space := 0, anySource := true, source := 0, key := 9, base := 0, length := 4096, inflight := 0 }, by decide +kernel⟩)⟩,
   ⟨State.reset.setReg R.FAB_KEY_POLICY_LOCK 1, 5, by decide +kernel⟩⟩

/-- States that meet the hypotheses of `RegionCommands` (clauses 9, 10, 11, 12, 13, 14). -/
theorem witness_RegionCommands_3 :
    (∃ (s : State) (n : Nat) (r : Region),
    s.flag R.FAB_REGION_STATUS_BUSY = false ∧ s.region? n = some r)
    ∧ (∃ (s : State) (n : Nat),
    s.flag R.FAB_REGION_STATUS_BUSY = false ∧ s.region? n = none)
    ∧ (∃ (s : State) (n : Nat) (r : Region),
    s.fab.revoking = some n ∧ s.region? n = some r ∧ r.inflight = 0)
    ∧ (∃ (s : State) (n : Nat) (r : Region),
    s.fab.revoking = some n ∧ s.region? n = some r ∧ r.inflight ≠ 0)
    ∧ (∃ (s : State) (r : Region),
    s.region? 0 = some r)
    ∧ (∃ (s : State) (b : Nat),
    b < 2 ^ 46 ∧ b % 2 ^ 25 = 0 ∧ s.hbmMapped b (2 ^ 25) = true ∧ s.touchesReserved b (2 ^ 25) = false ∧ s.touchesPool b (2 ^ 25) = false ∧ s.fab.regions = []) :=
  ⟨⟨State.reset.onFab fun f => { f with regions := [{ num := 5, state := .valid, permR := true, permW := true, permA := true, space := 0, anySource := true, source := 0, key := 9, base := 0, length := 4096, inflight := 0 }] }, 5, { num := 5, state := .valid, permR := true, permW := true, permA := true, space := 0, anySource := true, source := 0, key := 9, base := 0, length := 4096, inflight := 0 }, by and_intros <;> decide +kernel⟩,
   ⟨State.reset.onFab fun f => { f with regions := [{ num := 5, state := .valid, permR := true, permW := true, permA := true, space := 0, anySource := true, source := 0, key := 9, base := 0, length := 4096, inflight := 0 }] }, 6, by and_intros <;> decide +kernel⟩,
   ⟨State.reset.onFab fun f => { f with revoking := some 5, regions := [{ num := 5, state := .revoking, permR := true, permW := true, permA := true, space := 0, anySource := true, source := 0, key := 9, base := 0, length := 4096, inflight := 0 }] }, 5, { num := 5, state := .revoking, permR := true, permW := true, permA := true, space := 0, anySource := true, source := 0, key := 9, base := 0, length := 4096, inflight := 0 }, by and_intros <;> decide +kernel⟩,
   ⟨State.reset.onFab fun f => { f with revoking := some 5, regions := [{ num := 5, state := .revoking, permR := true, permW := true, permA := true, space := 0, anySource := true, source := 0, key := 9, base := 0, length := 4096, inflight := 3 }] }, 5, { num := 5, state := .revoking, permR := true, permW := true, permA := true, space := 0, anySource := true, source := 0, key := 9, base := 0, length := 4096, inflight := 3 }, by and_intros <;> decide +kernel⟩,
   ⟨State.reset, State.reset.poolRegion, by decide +kernel⟩,
   ⟨State.reset, 2 ^ 25, by and_intros <;> decide +kernel⟩⟩

/-- States that meet the hypotheses of `RegionCommands` (clauses 15). -/
theorem witness_RegionCommands_4 :
    (∃ (s : State) (b : Nat),
    (s.fab.regions ≠ [] ∨ b % 2 ^ 25 ≠ 0))
    ∧ (∃ (s : State) (b : Nat),
    (s.fab.regions ≠ [] ∨ b % 2 ^ 25 ≠ 0)) :=
  ⟨⟨State.reset.onFab fun f => { f with regions := [{ num := 5, state := .valid, permR := true, permW := true, permA := true, space := 0, anySource := true, source := 0, key := 9, base := 0, length := 4096, inflight := 0 }] }, 2 ^ 25, by decide +kernel⟩,
   ⟨State.reset, 1, by decide +kernel⟩⟩

/-- States that meet the hypotheses of `OrderedChannels` (clauses 1, 2, 3, 4, 5, 6). -/
theorem witness_OrderedChannels_1 :
    (∃ (s : State) (f : Frame),
    f.body = .oack ∧ f.sync = true)
    ∧ (∃ (s : State) (f : Frame) (c : OutChannel),
    f.body = .oack ∧ f.sync = false ∧ (s.takeFrame f).out? f.src = some c ∧ (c.unacked.filter fun g => !oackCovers f.oack g.oseq).length = c.unacked.length)
    ∧ (∃ (s : State) (f : Frame) (c : OutChannel),
    f.body = .oack ∧ f.sync = false ∧ (s.takeFrame f).out? f.src = some c ∧ (c.unacked.filter fun g => !oackCovers f.oack g.oseq).length < c.unacked.length ∧ c.waiting = [] ∧ c.unreachable = false)
    ∧ (∃ (s : State) (f : Frame) (c : OutChannel),
    f.body = .oack ∧ f.sync = false ∧ (s.takeFrame f).out? f.src = some c ∧ c.unacked.filter (fun g => !oackCovers f.oack g.oseq) = [] ∧ c.unacked ≠ [] ∧ c.waiting = [] ∧ c.unreachable = true)
    ∧ (∃ (s : State) (f : Frame),
    f.body ≠ .oack)
    ∧ (∃ (s : State) (dst : Nat),
    ((s.outCh dst).unreachable = true ∨ (s.outCh dst).unacked = [])) :=
  ⟨⟨State.reset.putOut { dst := 7, begun := true, nextSeq := 3, unacked := [frame0], waiting := [], retx := 0, unreachable := false, sent := 0, limits := [(0, 8)] }, { frame0 with src := 7, body := .oack, oack := 0, sync := true }, by and_intros <;> decide +kernel⟩,
   ⟨State.reset.putOut { dst := 7, begun := true, nextSeq := 3, unacked := [frame0], waiting := [], retx := 0, unreachable := false, sent := 0, limits := [(0, 8)] }, { frame0 with src := 7, body := .oack, oack := 0 }, { dst := 7, begun := true, nextSeq := 3, unacked := [frame0], waiting := [], retx := 0, unreachable := false, sent := 0, limits := [(0, 8)] }, by and_intros <;> decide +kernel⟩,
   ⟨State.reset.putOut { dst := 7, begun := true, nextSeq := 3, unacked := [frame0], waiting := [], retx := 0, unreachable := false, sent := 0, limits := [(0, 8)] }, { frame0 with src := 7, body := .oack, oack := 1 }, { dst := 7, begun := true, nextSeq := 3, unacked := [frame0], waiting := [], retx := 0, unreachable := false, sent := 0, limits := [(0, 8)] }, by and_intros <;> decide +kernel⟩,
   ⟨State.reset.putOut { dst := 7, begun := true, nextSeq := 3, unacked := [frame0], waiting := [], retx := 0, unreachable := true, sent := 0, limits := [(0, 8)] }, { frame0 with src := 7, body := .oack, oack := 1 }, { dst := 7, begun := true, nextSeq := 3, unacked := [frame0], waiting := [], retx := 0, unreachable := true, sent := 0, limits := [(0, 8)] }, by and_intros <;> decide +kernel⟩,
   ⟨State.reset.putOut { dst := 7, begun := true, nextSeq := 3, unacked := [frame0], waiting := [], retx := 0, unreachable := false, sent := 0, limits := [(0, 8)] }, { frame0 with src := 7 }, by decide +kernel⟩,
   ⟨State.reset.putOut { dst := 7, begun := true, nextSeq := 3, unacked := [frame0], waiting := [], retx := 0, unreachable := true, sent := 0, limits := [(0, 8)] }, 7, by decide +kernel⟩⟩

/-- States that meet the hypotheses of `OrderedChannels` (clauses 6, 7, 8, 9, 10, 11). -/
theorem witness_OrderedChannels_2 :
    (∃ (s : State) (dst : Nat),
    ((s.outCh dst).unreachable = true ∨ (s.outCh dst).unacked = []))
    ∧ (∃ (s : State) (dst : Nat),
    (s.outCh dst).unreachable = false ∧ (s.outCh dst).unacked ≠ [] ∧ (s.outCh dst).retx + 1 < (s.outCh dst).retxLimit)
    ∧ (∃ (s : State) (dst : Nat),
    (s.outCh dst).unreachable = false ∧ (s.outCh dst).unacked ≠ [] ∧ (s.outCh dst).retxLimit ≤ (s.outCh dst).retx + 1)
    ∧ (∃ (s : State) (dst : Nat),
    (s.outCh dst).unreachable = true)
    ∧ (∃ (s : State) (dst : Nat) (g : Frame) (gs : List Frame),
    (s.outCh dst).unreachable = true ∧ (s.outCh dst).unacked = g :: gs)
    ∧ (∃ (s : State) (dst : Nat),
    (s.outCh dst).unreachable = false) :=
  ⟨⟨State.reset.putOut { dst := 7, begun := true, nextSeq := 3, unacked := [frame0], waiting := [], retx := 0, unreachable := false, sent := 0, limits := [(0, 8)] }, 8, by decide +kernel⟩,
   ⟨State.reset.putOut { dst := 7, begun := true, nextSeq := 3, unacked := [frame0], waiting := [], retx := 0, unreachable := false, sent := 0, limits := [(0, 8)] }, 7, by and_intros <;> decide +kernel⟩,
   ⟨State.reset.putOut { dst := 7, begun := true, nextSeq := 3, unacked := [frame0], waiting := [], retx := 7, unreachable := false, sent := 0, limits := [(0, 8)] }, 7, by and_intros <;> decide +kernel⟩,
   ⟨State.reset.putOut { dst := 7, begun := true, nextSeq := 3, unacked := [frame0], waiting := [], retx := 0, unreachable := true, sent := 0, limits := [(0, 8)] }, 7, by decide +kernel⟩,
   ⟨State.reset.putOut { dst := 7, begun := true, nextSeq := 3, unacked := [frame0], waiting := [], retx := 0, unreachable := true, sent := 0, limits := [(0, 8)] }, 7, frame0, [], by and_intros <;> decide +kernel⟩,
   ⟨State.reset.putOut { dst := 7, begun := true, nextSeq := 3, unacked := [frame0], waiting := [], retx := 0, unreachable := false, sent := 0, limits := [(0, 8)] }, 7, by decide +kernel⟩⟩

/-- States that meet the hypotheses of `OrderedChannels` (clauses 12, 13). -/
theorem witness_OrderedChannels_3 :
    (∃ (s : State) (src : Nat) (c : InChannel),
    s.inCh? src = some c ∧ c.oackOwed = true)
    ∧ (∃ (s : State) (src : Nat),
    (∀ c, s.inCh? src = some c → c.oackOwed = false)) :=
  ⟨⟨State.reset.putIn ⟨7, true, 0, 3, 0, false, true⟩, 7, ⟨7, true, 0, 3, 0, false, true⟩, by and_intros <;> decide +kernel⟩,
   ⟨State.reset, 7, fun c h => by simp [State.inCh?, State.reset, Fab.reset] at h⟩⟩

/-- States that meet the hypotheses of `RemoteOperations` (clauses 1, 2, 3, 4, 5, 6). -/
theorem witness_RemoteOperations_1 :
    (∃ (s : State) (f : Frame) (tag : Nat) (kinds : List RemoteKind) (a : Answer) (o : RemoteOp),
    f.body.answer? = some (tag, kinds, a) ∧ s.due f = true ∧ s.remote? tag = some o ∧ o.dst = f.src ∧ kinds.contains o.kind = true ∧ a.status ≠ .signalUncovered)
    ∧ (∃ (s : State) (f : Frame) (tag : Nat) (kinds : List RemoteKind) (a : Answer),
    f.body.answer? = some (tag, kinds, a) ∧ s.due f = true ∧ s.remote? tag = none)
    ∧ (∃ (s : State) (f : Frame),
    f.body.answer? = none)
    ∧ (∃ (s : State) (o : RemoteOp) (c : Nat) (done : Nat) (pc : Nat) (a : Answer),
    o.who = .core c done pc ∧ o.kind = .load ∧ a.status = .ok)
    ∧ (∃ (s : State) (o : RemoteOp) (c : Nat) (done : Nat) (pc : Nat) (a : Answer),
    o.who = .core c done pc ∧ o.kind = .load ∧ a.status ≠ .ok ∧ a.status ≠ .nodeResetting ∧ a.status ≠ .remoteTimeout)
    ∧ (∃ (s : State) (m : Mem) (off : Nat) (len : Nat) (k : Nat) (st : St),
    s.canonical ∧ k < len) :=
  ⟨⟨State.reset.addRemote ⟨4, .load, 7, 4096, 5, 8, 0, .core 2 5 9⟩, { frame0 with src := 7, body := .loadResp 4 .ok [1, 2, 3, 4, 5, 6, 7, 8] }, 4, [.load, .csrRead], ⟨.ok, [1, 2, 3, 4, 5, 6, 7, 8], 0, false⟩, ⟨4, .load, 7, 4096, 5, 8, 0, .core 2 5 9⟩, by and_intros <;> decide +kernel⟩,
   ⟨State.reset, { frame0 with src := 7, body := .loadResp 4 .ok [1, 2, 3, 4, 5, 6, 7, 8] }, 4, [.load, .csrRead], ⟨.ok, [1, 2, 3, 4, 5, 6, 7, 8], 0, false⟩, by and_intros <;> decide +kernel⟩,
   ⟨State.reset, { frame0 with src := 7 }, by decide +kernel⟩,
   ⟨State.reset.addRemote ⟨4, .load, 7, 4096, 5, 8, 0, .core 2 5 9⟩, ⟨4, .load, 7, 4096, 5, 8, 0, .core 2 5 9⟩, 2, 5, 9, ⟨.ok, [1, 2, 3, 4, 5, 6, 7, 8], 0, false⟩, by and_intros <;> decide +kernel⟩,
   ⟨State.reset.addRemote ⟨4, .load, 7, 4096, 5, 8, 0, .core 2 5 9⟩, ⟨4, .load, 7, 4096, 5, 8, 0, .core 2 5 9⟩, 2, 5, 9, noAnswer .keyInvalid, by and_intros <;> decide +kernel⟩,
   ⟨State.reset, .hbm, 64, 8, 7, .poisonRead, by unfold State.canonical; decide +kernel, by decide⟩⟩

/-- States that meet the hypotheses of `RemoteOperations` (clauses 7, 8, 9, 10, 11, 12). -/
theorem witness_RemoteOperations_2 :
    (∃ (s : State) (o : RemoteOp) (c : Nat) (done : Nat) (pc : Nat) (a : Answer),
    o.who = .core c done pc ∧ o.kind = .signal ∧ a.status ≠ .ok ∧ a.status ≠ .nodeResetting ∧ a.status ≠ .remoteTimeout)
    ∧ (∃ (s : State) (tag : Nat) (addr : Nat) (o : RemoteOp),
    s.remote? tag = some o ∧ o.kind ≠ .read ∧ lookupD 0 s.fab.timeoutPosted o.dst = s.aon / 1000 + 1)
    ∧ (∃ (s : State) (tag : Nat) (addr : Nat) (o : RemoteOp),
    s.remote? tag = some o ∧ o.kind ≠ .read ∧ lookupD 0 s.fab.timeoutPosted o.dst ≠ s.aon / 1000 + 1)
    ∧ (∃ (s : State) (tag : Nat) (addr : Nat) (o : RemoteOp),
    s.remote? tag = some o ∧ o.kind = .read)
    ∧ (∃ (s : State) (tag : Nat) (addr : Nat),
    s.remote? tag = none)
    ∧ (∃ (s : State) (ref : Nat) (n : Nat) (tenant : Nat) (first : Nat) (c : FwdCmd) (e : Engine) (g : Frame),
    s.hcp.later = [.forwarded ref n c tenant none] ∧ (s.outCh n).unacked = [g] ∧ g.body = .engine e true true first 0 0 (some (.command c tenant ref))) :=
  ⟨⟨State.reset.addRemote ⟨4, .signal, 7, 4096, 5, 8, 0, .core 2 5 9⟩, ⟨4, .signal, 7, 4096, 5, 8, 0, .core 2 5 9⟩, 2, 5, 9, noAnswer .keyInvalid, by and_intros <;> decide +kernel⟩,
   ⟨(State.reset.addRemote ⟨4, .load, 7, 4096, 5, 8, 0, .core 2 5 9⟩).onFab fun f => { f with timeoutPosted := [(7, 1)] }, 4, 0, ⟨4, .load, 7, 4096, 5, 8, 0, .core 2 5 9⟩, by and_intros <;> decide +kernel⟩,
   ⟨State.reset.addRemote ⟨4, .load, 7, 4096, 5, 8, 0, .core 2 5 9⟩, 4, 0, ⟨4, .load, 7, 4096, 5, 8, 0, .core 2 5 9⟩, by and_intros <;> decide +kernel⟩,
   ⟨State.reset.addRemote ⟨4, .read, 7, 4096, 5, 8, 0, .queue 3 1⟩, 4, 4096, ⟨4, .read, 7, 4096, 5, 8, 0, .queue 3 1⟩, by and_intros <;> decide +kernel⟩,
   ⟨State.reset, 3, 0, by decide +kernel⟩,
   ⟨((State.reset.onHcp fun h => { h with later := [.forwarded 3 7 (.query 5) 0 none] }).putOut { dst := 7, begun := true, nextSeq := 1, unacked := [{ frame0 with dst := 7, body := .engine .rse true true 0 0 0 (some (.command (.query 5) 0 3)) }], waiting := [], retx := 0, unreachable := false, sent := 0, limits := [(0, 8)] }), 3, 7, 0, 0, .query 5, .rse, { frame0 with dst := 7, body := .engine .rse true true 0 0 0 (some (.command (.query 5) 0 3)) }, by and_intros <;> decide +kernel⟩⟩

/-- States that meet the hypotheses of `RemoteOperations` (clauses 13, 14, 15, 16, 17, 18). -/
theorem witness_RemoteOperations_3 :
    (∃ (s : State) (ref : Nat) (n : Nat) (tenant : Nat) (first : Nat) (c : FwdCmd) (e : Engine) (g : Frame) (st : St),
    s.hcp.later = [.forwarded ref n c tenant (some st)] ∧ (s.outCh n).unacked = [g] ∧ g.body = .engine e true true first 0 0 (some (.command c tenant ref)))
    ∧ (∃ (s : State) (ref : Nat) (n : Nat) (tenant : Nat) (c : FwdCmd) (st : Option St),
    s.hcp.later = [.forwarded ref n c tenant st] ∧ (s.outCh n).unacked = [])
    ∧ (∃ (s : State) (f : Frame) (st : St) (region : Nat) (addr : Nat) (id : Nat),
    f.body = .sprayNak st region addr id ∧ s.due f = true ∧ id < 2 ^ 31)
    ∧ (∃ (s : State) (f : Frame) (st : St) (region : Nat) (addr : Nat) (id : Nat) (o : RemoteOp),
    f.body = .sprayNak st region addr id ∧ s.due f = true ∧ 2 ^ 31 ≤ id ∧ s.remote? (id - 2 ^ 31) = some o)
    ∧ (∃ (s : State) (f : Frame) (e : Engine) (n : Nat) (m : Msg),
    f.body = .engineNak e n m .nodeResetting ∧ s.due f = true ∧ m.mustLearn = true)
    ∧ (∃ (s : State) (f : Frame) (e : Engine) (n : Nat) (m : Msg) (st : St),
    f.body = .engineNak e n m st ∧ st ≠ .nodeResetting ∧ s.due f = true) :=
  ⟨⟨((State.reset.onHcp fun h => { h with later := [.forwarded 3 7 (.query 5) 0 (some .nodeUnreachable)] }).putOut { dst := 7, begun := true, nextSeq := 1, unacked := [{ frame0 with dst := 7, body := .engine .rse true true 0 0 0 (some (.command (.query 5) 0 3)) }], waiting := [], retx := 0, unreachable := false, sent := 0, limits := [(0, 8)] }), 3, 7, 0, 0, .query 5, .rse, { frame0 with dst := 7, body := .engine .rse true true 0 0 0 (some (.command (.query 5) 0 3)) }, .nodeUnreachable, by and_intros <;> decide +kernel⟩,
   ⟨(State.reset.onHcp fun h => { h with later := [.forwarded 3 7 (.query 5) 0 none] }), 3, 7, 0, .query 5, none, by and_intros <;> decide +kernel⟩,
   ⟨State.reset, { frame0 with src := 7, body := .sprayNak .keyRevoked 5 4096 9 }, .keyRevoked, 5, 4096, 9, by and_intros <;> decide +kernel⟩,
   ⟨State.reset.addRemote ⟨4, .read, 7, 4096, 5, 8, 0, .queue 3 1⟩, { frame0 with src := 7, body := .sprayNak .keyRevoked 5 4096 (2 ^ 31 + 4) }, .keyRevoked, 5, 4096, 2 ^ 31 + 4, ⟨4, .read, 7, 4096, 5, 8, 0, .queue 3 1⟩, by and_intros <;> decide +kernel⟩,
   ⟨State.reset, { frame0 with src := 7, body := .engineNak (Msg.lostStep 5 3).engine 3 (Msg.lostStep 5 3) .nodeResetting }, (Msg.lostStep 5 3).engine, 3, (Msg.lostStep 5 3), by and_intros <;> decide +kernel⟩,
   ⟨State.reset, { frame0 with src := 7, body := .engineNak (Msg.lostStep 5 3).engine 3 (Msg.lostStep 5 3) .badParam }, (Msg.lostStep 5 3).engine, 3, (Msg.lostStep 5 3), .badParam, by and_intros <;> decide +kernel⟩⟩

/-- States that meet the hypotheses of `RemoteOperations` (clauses 19, 20, 21). -/
theorem witness_RemoteOperations_4 :
    (∃ (s : State) (dst : Nat) (r : NakRetry) (m : Msg) (ms : List Msg),
    s.fab.nakRetries = [r] ∧ r.dst = dst ∧ r.refused = m :: ms ∧ r.resent = false ∧ s.stillSend m = true)
    ∧ (∃ (s : State) (dst : Nat) (r : NakRetry) (m : Msg) (ms : List Msg),
    s.fab.nakRetries = [r] ∧ r.dst = dst ∧ r.refused = m :: ms ∧ r.resent = true)
    ∧ (∃ (s : State) (n : Nat),
    n ≠ s.node) :=
  ⟨⟨State.reset.onFab fun f => { f with nakRetries := [⟨7, some 5, [(Msg.lostStep 5 3)], [], false⟩] }, 7, ⟨7, some 5, [(Msg.lostStep 5 3)], [], false⟩, (Msg.lostStep 5 3), [], by and_intros <;> decide +kernel⟩,
   ⟨State.reset.onFab fun f => { f with nakRetries := [⟨7, some 5, [(Msg.lostStep 5 3)], [], true⟩] }, 7, ⟨7, some 5, [(Msg.lostStep 5 3)], [], true⟩, (Msg.lostStep 5 3), [], by and_intros <;> decide +kernel⟩,
   ⟨State.reset, 7, by decide +kernel⟩⟩

/-- States that meet the hypotheses of `TransferQueues` (clauses 1, 2, 3, 4). -/
theorem witness_TransferQueues_1 :
    (∃ (s : State) (q : Nat),
    s.mayStart q = true)
    ∧ (∃ (s : State) (q : Nat),
    s.mayStart q = false)
    ∧ (∃ (s : State) (q : Nat),
    s.mayStart q = false)
    ∧ (∃ (s : State) (q : Nat) (x : XQueue) (w : WorkReq) (st : St),
    s.mayStart q = true ∧ s.xq q = x ∧ s.workAt q x.next = w ∧ (w.op = 6 ∨ opKnown w.op = false) ∧ s.startCheck q w = some st)
    ∧ (∃ (s : State) (q : Nat) (x : XQueue) (w : WorkReq) (st : St),
    s.mayStart q = true ∧ s.xq q = x ∧ s.workAt q x.next = w ∧ (w.op = 6 ∨ opKnown w.op = false) ∧ s.startCheck q w = some st)
    ∧ (∃ (s : State) (q : Nat) (w : WorkReq),
    (opKnown w.op = false ∨ w.rsvdOk = false ∨ lengthOk w.op w.length = false ∨ w.waitKind = 3 ∨ ((w.op = 5 ∨ w.op = 0x10) ∧ gNode w.remote ≠ 0))) :=
  ⟨⟨(queued [6 * 2 ^ 56 + 0, 131072, 0, 0 * 2 ^ 32 + 0, 0, 0, 0, 0]), 70, by decide +kernel⟩,
   ⟨State.reset, 70, by decide +kernel⟩,
   ⟨State.reset, 3, by decide +kernel⟩,
   ⟨(queued [6 * 2 ^ 56 + 0, 131072, 0, 5 * 2 ^ 32 + 0, 0, 0, 0, 0]), 70, ((queued [6 * 2 ^ 56 + 0, 131072, 0, 5 * 2 ^ 32 + 0, 0, 0, 0, 0]).xq 70), ((queued [6 * 2 ^ 56 + 0, 131072, 0, 5 * 2 ^ 32 + 0, 0, 0, 0, 0]).workAt 70 0), .badParam, by and_intros <;> decide +kernel⟩,
   ⟨(queued [119 * 2 ^ 56 + 0, 131072, 0, 0 * 2 ^ 32 + 0, 0, 0, 0, 0]), 70, ((queued [119 * 2 ^ 56 + 0, 131072, 0, 0 * 2 ^ 32 + 0, 0, 0, 0, 0]).xq 70), ((queued [119 * 2 ^ 56 + 0, 131072, 0, 0 * 2 ^ 32 + 0, 0, 0, 0, 0]).workAt 70 0), .badParam, by and_intros <;> decide +kernel⟩,
   ⟨State.reset, 70, ((queued [6 * 2 ^ 56 + 0, 131072, 0, 5 * 2 ^ 32 + 0, 0, 0, 0, 0]).workAt 70 0), by decide +kernel⟩⟩

/-- States that meet the hypotheses of `TransferQueues` (clauses 5, 6, 7, 8, 9, 10). -/
theorem witness_TransferQueues_2 :
    (∃ (s : State) (q : Nat) (x : XQueue) (w : WorkReq),
    s.mayStart q = true ∧ s.xq q = x ∧ s.workAt q x.next = w ∧ w.op = 6 ∧ s.startCheck q w = none)
    ∧ (∃ (s : State) (q : Nat) (x : XQueue) (w : WorkReq),
    s.canonical ∧ 64 ≤ q ∧ s.mayStart q = true ∧ s.xq q = x ∧ s.workAt q x.next = w ∧ w.op = 6 ∧ w.notifyEn = false ∧ s.startCheck q w = none ∧ x.done = [] ∧ s.reg (R.XFR_Q_C_COMPLETED q) = x.next ∧ x.next + 1 < 2 ^ 64)
    ∧ (∃ (s : State) (q : Nat) (x : XQueue) (w : WorkReq),
    s.mayStart q = true ∧ s.xq q = x ∧ s.workAt q x.next = w ∧ w.op = 5 ∧ s.startCheck q w = none)
    ∧ (∃ (s : State) (q : Nat) (idx : Nat) (r : XReq),
    (s.xfr.flights.find? fun x => x.q == q && x.idx == idx && decide (x.prog = .copy)) = some r ∧ r.wr.op = 5)
    ∧ (∃ (s : State) (q : Nat) (x : XQueue) (w : WorkReq),
    s.mayStart q = true ∧ s.xq q = x ∧ s.workAt q x.next = w ∧ w.op = 3 ∧ s.startCheck q w = none ∧ gNode w.remote = s.node ∧ s.targetMapped (gSpace w.remote) (gOff w.remote) 8 = true ∧ s.ownQueue = false ∧ gSpace w.remote < 2 ∧ gOff w.remote % 8 = 0 ∧ 1 ≤ w.aop ∧ w.aop ≤ 7)
    ∧ (∃ (s : State) (q : Nat) (x : XQueue) (w : WorkReq) (c : OutChannel),
    s.mayStart q = true ∧ s.xq q = x ∧ s.workAt q x.next = w ∧ w.op = 4 ∧ s.startCheck q w = none ∧ gNode w.remote ≠ s.node ∧ s.out? (gNode w.remote) = some c ∧ c.unreachable = true) :=
  ⟨⟨(queued [6 * 2 ^ 56 + 0, 131072, 0, 0 * 2 ^ 32 + 0, 0, 0, 0, 0]), 70, ((queued [6 * 2 ^ 56 + 0, 131072, 0, 0 * 2 ^ 32 + 0, 0, 0, 0, 0]).xq 70), ((queued [6 * 2 ^ 56 + 0, 131072, 0, 0 * 2 ^ 32 + 0, 0, 0, 0, 0]).workAt 70 0), by and_intros <;> decide +kernel⟩,
   ⟨(queued [6 * 2 ^ 56 + 0, 131072, 0, 0 * 2 ^ 32 + 0, 0, 0, 0, 0]), 70, ((queued [6 * 2 ^ 56 + 0, 131072, 0, 0 * 2 ^ 32 + 0, 0, 0, 0, 0]).xq 70), ((queued [6 * 2 ^ 56 + 0, 131072, 0, 0 * 2 ^ 32 + 0, 0, 0, 0, 0]).workAt 70 0), by and_intros <;> first | decide +kernel | (unfold State.canonical; decide +kernel)⟩,
   ⟨(queued [5 * 2 ^ 56 + 0, 2 ^ 26 + 131072, 2 ^ 26 + 196608, 64 * 2 ^ 32 + 0, 0, 0, 0, 0]), 70, ((queued [5 * 2 ^ 56 + 0, 2 ^ 26 + 131072, 2 ^ 26 + 196608, 64 * 2 ^ 32 + 0, 0, 0, 0, 0]).xq 70), ((queued [5 * 2 ^ 56 + 0, 2 ^ 26 + 131072, 2 ^ 26 + 196608, 64 * 2 ^ 32 + 0, 0, 0, 0, 0]).workAt 70 0), by and_intros <;> decide +kernel⟩,
   ⟨((queued [5 * 2 ^ 56 + 0, 131072, 196608, 64 * 2 ^ 32 + 0, 0, 0, 0, 0])).putFlight (reqOf (queued [5 * 2 ^ 56 + 0, 131072, 196608, 64 * 2 ^ 32 + 0, 0, 0, 0, 0]) 70 (.copy)), 70, 0, (reqOf (queued [5 * 2 ^ 56 + 0, 131072, 196608, 64 * 2 ^ 32 + 0, 0, 0, 0, 0]) 70 (.copy)), by and_intros <;> decide +kernel⟩,
   ⟨(queued [3 * 2 ^ 56 + 1 * 2 ^ 44, 2 ^ 26 + 131072, 2 ^ 26 + 196608, 0 * 2 ^ 32 + 0, 0, 5, 0, 0]), 70, ((queued [3 * 2 ^ 56 + 1 * 2 ^ 44, 2 ^ 26 + 131072, 2 ^ 26 + 196608, 0 * 2 ^ 32 + 0, 0, 5, 0, 0]).xq 70), ((queued [3 * 2 ^ 56 + 1 * 2 ^ 44, 2 ^ 26 + 131072, 2 ^ 26 + 196608, 0 * 2 ^ 32 + 0, 0, 5, 0, 0]).workAt 70 0), by and_intros <;> decide +kernel⟩,
   ⟨((queued [4 * 2 ^ 56 + 0, 2 ^ 26 + 131072, 7 * 2 ^ 48 + 2 * 2 ^ 46 + 8, 0 * 2 ^ 32 + 0, 0, 5, 0, 0])).putOut { dst := 7, begun := true, nextSeq := 3, unacked := [frame0], waiting := [], retx := 0, unreachable := true, sent := 0, limits := [(0, 8)] }, 70, ((queued [4 * 2 ^ 56 + 0, 2 ^ 26 + 131072, 7 * 2 ^ 48 + 2 * 2 ^ 46 + 8, 0 * 2 ^ 32 + 0, 0, 5, 0, 0]).xq 70), ((queued [4 * 2 ^ 56 + 0, 2 ^ 26 + 131072, 7 * 2 ^ 48 + 2 * 2 ^ 46 + 8, 0 * 2 ^ 32 + 0, 0, 5, 0, 0]).workAt 70 0), { dst := 7, begun := true, nextSeq := 3, unacked := [frame0], waiting := [], retx := 0, unreachable := true, sent := 0, limits := [(0, 8)] }, by and_intros <;> decide +kernel⟩⟩

/-- States that meet the hypotheses of `TransferQueues` (clauses 11, 12, 13, 14, 15, 16). -/
theorem witness_TransferQueues_3 :
    (∃ (s : State) (q : Nat) (k : Nat) (x : XQueue) (w : WorkReq),
    s.mayStart q = true ∧ s.xq q = x ∧ s.workAt q x.next = w ∧ w.op = 4 ∧ s.startCheck q w = none ∧ gNode w.remote = s.node ∧ s.ownWaits = false ∧ gSpace w.remote = 2 ∧ s.counterAt (gOff w.remote) = some k)
    ∧ (∃ (s : State) (q : Nat) (tag : Nat) (x : XQueue) (w : WorkReq),
    s.mayStart q = true ∧ s.xq q = x ∧ s.workAt q x.next = w ∧ w.op = 4 ∧ s.startCheck q w = none ∧ gNode w.remote ≠ s.node ∧ s.isUnreachable (gNode w.remote) = false ∧ s.newTag = tag)
    ∧ (∃ (s : State) (q : Nat) (i : Nat) (x : XQueue) (w : WorkReq) (p : Qp),
    s.mayStart q = true ∧ s.xq q = x ∧ s.workAt q x.next = w ∧ w.op = 9 ∧ s.startCheck q w = none ∧ qpnIndex (w.operand % 2 ^ 24) = some i ∧ s.qp? i = some p ∧ p.error = false)
    ∧ (∃ (s : State) (q : Nat) (i : Nat) (x : XQueue) (w : WorkReq) (p : Qp),
    s.mayStart q = true ∧ s.xq q = x ∧ s.workAt q x.next = w ∧ w.op = 8 ∧ s.startCheck q w = none ∧ s.poisoned (spaceMem w.locSpace) w.locOff w.length = none ∧ qpnIndex (w.operand % 2 ^ 24) = some i ∧ s.qp? i = some p ∧ p.error = false)
    ∧ (∃ (s : State) (i : Nat) (p : Qp) (o : RoceOp),
    s.qp? i = some p ∧ p.error = false ∧ p.ops = [] ∧ o.write = true)
    ∧ (∃ (s : State) (q : Nat) (v : Nat),
    64 ≤ q ∧ q < 1024 ∧ s.postedOf q ≤ v ∧ v < 2 ^ 40) :=
  ⟨⟨(queued [4 * 2 ^ 56 + 0, 131072, 2 * 2 ^ 46 + 8, 0 * 2 ^ 32 + 0, 0, 5, 0, 0]), 70, 1, ((queued [4 * 2 ^ 56 + 0, 131072, 2 * 2 ^ 46 + 8, 0 * 2 ^ 32 + 0, 0, 5, 0, 0]).xq 70), ((queued [4 * 2 ^ 56 + 0, 131072, 2 * 2 ^ 46 + 8, 0 * 2 ^ 32 + 0, 0, 5, 0, 0]).workAt 70 0), by and_intros <;> decide +kernel⟩,
   ⟨(queued [4 * 2 ^ 56 + 0, 131072, 7 * 2 ^ 48 + 2 * 2 ^ 46 + 8, 0 * 2 ^ 32 + 0, 0, 5, 0, 0]), 70, 0, ((queued [4 * 2 ^ 56 + 0, 131072, 7 * 2 ^ 48 + 2 * 2 ^ 46 + 8, 0 * 2 ^ 32 + 0, 0, 5, 0, 0]).xq 70), ((queued [4 * 2 ^ 56 + 0, 131072, 7 * 2 ^ 48 + 2 * 2 ^ 46 + 8, 0 * 2 ^ 32 + 0, 0, 5, 0, 0]).workAt 70 0), by and_intros <;> decide +kernel⟩,
   ⟨withQp ((queued [9 * 2 ^ 56 + 0, 2 ^ 26 + 131072, 0, 64 * 2 ^ 32 + 0, 0, 0x100, 0, 0])), 70, 0, ((queued [9 * 2 ^ 56 + 0, 2 ^ 26 + 131072, 0, 64 * 2 ^ 32 + 0, 0, 0x100, 0, 0]).xq 70), ((queued [9 * 2 ^ 56 + 0, 2 ^ 26 + 131072, 0, 64 * 2 ^ 32 + 0, 0, 0x100, 0, 0]).workAt 70 0), qp0, by and_intros <;> decide +kernel⟩,
   ⟨withQp ((queued [8 * 2 ^ 56 + 0, 2 ^ 26 + 131072, 0, 64 * 2 ^ 32 + 0, 0, 0x100, 0, 0])), 70, 0, ((queued [8 * 2 ^ 56 + 0, 2 ^ 26 + 131072, 0, 64 * 2 ^ 32 + 0, 0, 0x100, 0, 0]).xq 70), ((queued [8 * 2 ^ 56 + 0, 2 ^ 26 + 131072, 0, 64 * 2 ^ 32 + 0, 0, 0x100, 0, 0]).workAt 70 0), qp0, by and_intros <;> decide +kernel⟩,
   ⟨withQp State.reset, 0, qp0, roceOp0, by and_intros <;> decide +kernel⟩,
   ⟨(queued [6 * 2 ^ 56 + 0, 131072, 0, 0 * 2 ^ 32 + 0, 0, 0, 0, 0]), 70, 2, by and_intros <;> decide +kernel⟩⟩

/-- States that meet the hypotheses of `TransferQueues` (clauses 17, 18, 19). -/
theorem witness_TransferQueues_4 :
    (∃ (s : State) (q : Nat) (v : Nat),
    (q < 64 ∨ 1024 ≤ q ∨ v < s.postedOf q ∨ 2 ^ 40 ≤ v))
    ∧ (∃ (s : State) (q : Nat) (v : Nat),
    (q < 64 ∨ 1024 ≤ q ∨ v < s.postedOf q ∨ 2 ^ 40 ≤ v))
    ∧ (∃ (s : State) (q : Nat) (v : Nat),
    (q < 64 ∨ 1024 ≤ q ∨ v < s.postedOf q ∨ 2 ^ 40 ≤ v))
    ∧ (∃ (s : State) (q : Nat) (v : Nat),
    (q < 64 ∨ 1024 ≤ q ∨ v < s.postedOf q ∨ 2 ^ 40 ≤ v))
    ∧ (∃ (s : State) (q : Nat) (v : Nat),
    64 ≤ q ∧ q < 1024 ∧ s.flag (R.XFR_Q_A_VALID q) = false ∧ s.flag (R.XFR_Q_A_BUSY q) = false ∧ bitAt v 63 = true ∧ bitsOf v 45 0 % 4096 = 0 ∧ s.hbmFree (bitsOf v 45 0) (64 * 2 ^ s.reg (R.XFR_Q_B_DEPTH_LOG2 q)) = true)
    ∧ (∃ (s : State) (q : Nat) (v : Nat),
    64 ≤ q ∧ q < 1024 ∧ s.flag (R.XFR_Q_A_VALID q) = true ∧ s.flag (R.XFR_Q_A_BUSY q) = false ∧ bitAt v 63 = false) :=
  ⟨⟨(queued [6 * 2 ^ 56 + 0, 131072, 0, 0 * 2 ^ 32 + 0, 0, 0, 0, 0]), 63, 2, by decide +kernel⟩,
   ⟨(queued [6 * 2 ^ 56 + 0, 131072, 0, 0 * 2 ^ 32 + 0, 0, 0, 0, 0]), 1024, 2, by decide +kernel⟩,
   ⟨(queued [6 * 2 ^ 56 + 0, 131072, 0, 0 * 2 ^ 32 + 0, 0, 0, 0, 0]), 70, 0, by decide +kernel⟩,
   ⟨(queued [6 * 2 ^ 56 + 0, 131072, 0, 0 * 2 ^ 32 + 0, 0, 0, 0, 0]), 70, 2 ^ 40, by decide +kernel⟩,
   ⟨State.reset, 70, 2 ^ 63 + 2 ^ 26, by and_intros <;> decide +kernel⟩,
   ⟨(queued [6 * 2 ^ 56 + 0, 131072, 0, 0 * 2 ^ 32 + 0, 0, 0, 0, 0]), 70, 0, by and_intros <;> decide +kernel⟩⟩

/-- States that meet the hypotheses of `TransferQueues` (clauses 20, 21). -/
theorem witness_TransferQueues_5 :
    (∃ (s : State) (q : Nat) (v : Nat),
    (q < 64 ∨ 64 ≤ q ∧ q < 1024 ∧ s.flag (R.XFR_Q_A_VALID q) = true ∧ bitAt v 63 = true))
    ∧ (∃ (s : State) (q : Nat) (v : Nat),
    (q < 64 ∨ 64 ≤ q ∧ q < 1024 ∧ s.flag (R.XFR_Q_A_VALID q) = true ∧ bitAt v 63 = true))
    ∧ (∃ (s : State) (q : Nat) (v : Nat),
    64 ≤ q ∧ q < 1024 ∧ s.flag (R.XFR_Q_A_VALID q) = false ∧ s.flag (R.XFR_Q_A_BUSY q) = false ∧ 4 ≤ bitsOf v 32 28 ∧ bitsOf v 32 28 ≤ 16 ∧ 1 ≤ bitsOf v 22 16 ∧ bitsOf v 22 16 ≤ 64) :=
  ⟨⟨(queued [6 * 2 ^ 56 + 0, 131072, 0, 0 * 2 ^ 32 + 0, 0, 0, 0, 0]), 63, 0, by decide +kernel⟩,
   ⟨(queued [6 * 2 ^ 56 + 0, 131072, 0, 0 * 2 ^ 32 + 0, 0, 0, 0, 0]), 70, 2 ^ 63, by decide +kernel⟩,
   ⟨State.reset, 70, 4 * 2 ^ 28 + 2 ^ 16, by and_intros <;> decide +kernel⟩⟩

/-- States that meet the hypotheses of `SprayedMessages` (clauses 1, 2, 3, 4, 5, 6). -/
theorem witness_SprayedMessages_1 :
    (∃ (s : State) (q : Nat) (x : XQueue) (w : WorkReq),
    s.mayStart q = true ∧ s.xq q = x ∧ s.workAt q x.next = w ∧ w.op = 1 ∧ s.startCheck q w = none ∧ gNode w.remote = s.node)
    ∧ (∃ (s : State) (q : Nat) (x : XQueue) (w : WorkReq),
    s.mayStart q = true ∧ s.xq q = x ∧ s.workAt q x.next = w ∧ w.op = 1 ∧ s.startCheck q w = none ∧ gNode w.remote ≠ s.node ∧ s.isUnreachable (gNode w.remote) = true)
    ∧ (∃ (s : State) (q : Nat) (x : XQueue) (w : WorkReq),
    s.mayStart q = true ∧ s.xq q = x ∧ s.workAt q x.next = w ∧ w.op = 1 ∧ s.startCheck q w = none ∧ gNode w.remote ≠ s.node ∧ s.isUnreachable (gNode w.remote) = false ∧ (pieces (2 ^ 21) w.remote w.length).length ≤ 128)
    ∧ (∃ (cut : Nat) (start : Nat) (len : Nat),
    0 < cut)
    ∧ (∃ (cut : Nat) (start : Nat) (len : Nat) (p : Nat × Nat),
    0 < cut ∧ p ∈ pieces cut start len)
    ∧ (∃ (s : State) (src : Nat) (first : Nat) (count : Nat) (st : St),
    (∀ r, r ∈ s.xfr.flights → gNode r.wr.remote ≠ src)) :=
  ⟨⟨(queued [1 * 2 ^ 56 + 0, 2 ^ 26 + 131072, 2 ^ 26 + 196608, 64 * 2 ^ 32 + 0, 0, 0, 0, 0]), 70, ((queued [1 * 2 ^ 56 + 0, 2 ^ 26 + 131072, 2 ^ 26 + 196608, 64 * 2 ^ 32 + 0, 0, 0, 0, 0]).xq 70), ((queued [1 * 2 ^ 56 + 0, 2 ^ 26 + 131072, 2 ^ 26 + 196608, 64 * 2 ^ 32 + 0, 0, 0, 0, 0]).workAt 70 0), by and_intros <;> decide +kernel⟩,
   ⟨((queued [1 * 2 ^ 56 + 0, 2 ^ 26 + 131072, 7 * 2 ^ 48 + 2 ^ 26 + 0x30000, 64 * 2 ^ 32 + 0, 0, 0, 0, 0])).putOut { dst := 7, begun := true, nextSeq := 3, unacked := [frame0], waiting := [], retx := 0, unreachable := true, sent := 0, limits := [(0, 8)] }, 70, ((queued [1 * 2 ^ 56 + 0, 2 ^ 26 + 131072, 7 * 2 ^ 48 + 2 ^ 26 + 0x30000, 64 * 2 ^ 32 + 0, 0, 0, 0, 0]).xq 70), ((queued [1 * 2 ^ 56 + 0, 2 ^ 26 + 131072, 7 * 2 ^ 48 + 2 ^ 26 + 0x30000, 64 * 2 ^ 32 + 0, 0, 0, 0, 0]).workAt 70 0), by and_intros <;> decide +kernel⟩,
   ⟨(queued [1 * 2 ^ 56 + 0, 2 ^ 26 + 131072, 7 * 2 ^ 48 + 2 ^ 26 + 0x30000, 64 * 2 ^ 32 + 0, 0, 0, 0, 0]), 70, ((queued [1 * 2 ^ 56 + 0, 2 ^ 26 + 131072, 7 * 2 ^ 48 + 2 ^ 26 + 0x30000, 64 * 2 ^ 32 + 0, 0, 0, 0, 0]).xq 70), ((queued [1 * 2 ^ 56 + 0, 2 ^ 26 + 131072, 7 * 2 ^ 48 + 2 ^ 26 + 0x30000, 64 * 2 ^ 32 + 0, 0, 0, 0, 0]).workAt 70 0), by and_intros <;> decide +kernel⟩,
   ⟨4096, 4000, 5000, by decide +kernel⟩,
   ⟨4096, 4000, 5000, (4096, 4096), by and_intros <;> decide +kernel⟩,
   ⟨State.reset, 7, 0, 1, .ok, by decide +kernel⟩⟩

/-- States that meet the hypotheses of `SprayedMessages` (clauses 7, 8, 9, 10, 12, 13). -/
theorem witness_SprayedMessages_2 :
    (∃ (s : State) (src : Nat) (first : Nat) (count : Nat) (tries : Nat) (r : XReq) (g : MsgGroup) (b : Bool),
    s.xfr.flights = [r] ∧ gNode r.wr.remote = src ∧ r.prog = .write g [] none tries b ∧ g.first = first)
    ∧ (∃ (s : State) (src : Nat) (first : Nat) (count : Nat) (tries : Nat) (r : XReq) (g : MsgGroup) (b : Bool),
    s.xfr.flights = [r] ∧ gNode r.wr.remote = src ∧ r.prog = .write g [] none (tries + 1) b ∧ g.first = first)
    ∧ (∃ (s : State) (q : Nat) (idx : Nat) (tries : Nat) (r : XReq) (g : MsgGroup),
    (s.xfr.flights.find? fun x => x.q == q && x.idx == idx) = some r ∧ r.prog = .write g [] none tries false ∧ s.isUnreachable (gNode r.wr.remote) = false)
    ∧ (∃ (s : State) (q : Nat) (idx : Nat),
    (s.xfr.flights.find? fun x => x.q == q && x.idx == idx) = none)
    ∧ (∃ (s : State) (f : Frame) (id : Nat) (psn : Nat) (addr : Nat) (region : Nat) (key : Nat) (total : Nat) (data : List Byte),
    f.body = .write id psn addr region key total data ∧ s.flag R.XFR_MSG_BASE_VALID = true ∧ (s.msgSrc f.src).isFinished id = true)
    ∧ (∃ (s : State) (f : Frame) (id : Nat) (psn : Nat) (addr : Nat) (region : Nat) (key : Nat) (total : Nat) (data : List Byte),
    f.body = .write id psn addr region key total data ∧ s.flag R.XFR_MSG_BASE_VALID = false) :=
  ⟨⟨((queued [1 * 2 ^ 56 + 0, 131072, 7 * 2 ^ 48 + 0x30000, 64 * 2 ^ 32 + 0, 0, 0, 0, 0])).putFlight (reqOf (queued [1 * 2 ^ 56 + 0, 131072, 7 * 2 ^ 48 + 0x30000, 64 * 2 ^ 32 + 0, 0, 0, 0, 0]) 70 (.write ⟨0, 1, 7 * 2 ^ 48 + 0x30000, 64⟩ [] none 1 false)), 7, 0, 1, 1, (reqOf (queued [1 * 2 ^ 56 + 0, 131072, 7 * 2 ^ 48 + 0x30000, 64 * 2 ^ 32 + 0, 0, 0, 0, 0]) 70 (.write ⟨0, 1, 7 * 2 ^ 48 + 0x30000, 64⟩ [] none 1 false)), ⟨0, 1, 7 * 2 ^ 48 + 0x30000, 64⟩, false, by and_intros <;> decide +kernel⟩,
   ⟨((queued [1 * 2 ^ 56 + 0, 131072, 7 * 2 ^ 48 + 0x30000, 64 * 2 ^ 32 + 0, 0, 0, 0, 0])).putFlight (reqOf (queued [1 * 2 ^ 56 + 0, 131072, 7 * 2 ^ 48 + 0x30000, 64 * 2 ^ 32 + 0, 0, 0, 0, 0]) 70 (.write ⟨0, 1, 7 * 2 ^ 48 + 0x30000, 64⟩ [] none 1 false)), 7, 0, 1, 0, (reqOf (queued [1 * 2 ^ 56 + 0, 131072, 7 * 2 ^ 48 + 0x30000, 64 * 2 ^ 32 + 0, 0, 0, 0, 0]) 70 (.write ⟨0, 1, 7 * 2 ^ 48 + 0x30000, 64⟩ [] none 1 false)), ⟨0, 1, 7 * 2 ^ 48 + 0x30000, 64⟩, false, by and_intros <;> decide +kernel⟩,
   ⟨((queued [1 * 2 ^ 56 + 0, 131072, 7 * 2 ^ 48 + 0x30000, 64 * 2 ^ 32 + 0, 0, 0, 0, 0])).putFlight (reqOf (queued [1 * 2 ^ 56 + 0, 131072, 7 * 2 ^ 48 + 0x30000, 64 * 2 ^ 32 + 0, 0, 0, 0, 0]) 70 (.write ⟨0, 1, 7 * 2 ^ 48 + 0x30000, 64⟩ [] none 1 false)), 70, 0, 1, (reqOf (queued [1 * 2 ^ 56 + 0, 131072, 7 * 2 ^ 48 + 0x30000, 64 * 2 ^ 32 + 0, 0, 0, 0, 0]) 70 (.write ⟨0, 1, 7 * 2 ^ 48 + 0x30000, 64⟩ [] none 1 false)), ⟨0, 1, 7 * 2 ^ 48 + 0x30000, 64⟩, by and_intros <;> decide +kernel⟩,
   ⟨State.reset, 70, 0, by decide +kernel⟩,
   ⟨(State.reset.setReg R.XFR_MSG_BASE_VALID 1).putMsgSrc ⟨7, 3, [], [], [], []⟩, { frame0 with src := 7, body := .write 2 0 64 5 9 4 [1, 2] }, 2, 0, 64, 5, 9, 4, [1, 2], by and_intros <;> decide +kernel⟩,
   ⟨State.reset, { frame0 with src := 7, body := .write 2 0 64 5 9 4 [1, 2] }, 2, 0, 64, 5, 9, 4, [1, 2], by and_intros <;> decide +kernel⟩⟩

/-- States that meet the hypotheses of `SprayedMessages` (clauses 14, 15, 16, 17, 18, 20). -/
theorem witness_SprayedMessages_3 :
    (∃ (s : State) (f : Frame) (id : Nat) (psn : Nat) (addr : Nat) (region : Nat) (key : Nat) (total : Nat) (data : List Byte),
    f.body = .write id psn addr region key total data ∧ s.flag R.XFR_MSG_BASE_VALID = true ∧ (s.msgSrc f.src).isFinished id = false ∧ 128 ≤ (id + 2 ^ 31 - (s.msgSrc f.src).floor) % 2 ^ 31)
    ∧ (∃ (s : State) (f : Frame) (id : Nat) (psn : Nat) (addr : Nat) (region : Nat) (key : Nat) (total : Nat) (data : List Byte) (i : Nat) (st : St),
    f.body = .write id psn addr region key total data ∧ s.flag R.XFR_MSG_BASE_VALID = true ∧ (s.msgSrc f.src).isFinished id = false ∧ (id + 2 ^ 31 - (s.msgSrc f.src).floor) % 2 ^ 31 < 128 ∧ ((s.msgSrc f.src).failed.find? (·.1 == id)) = some (i, st))
    ∧ (∃ (s : State) (f : Frame) (id : Nat) (psn : Nat) (addr : Nat) (region : Nat) (key : Nat) (total : Nat) (data : List Byte) (r : MsgRec),
    f.body = .write id psn addr region key total data ∧ s.flag R.XFR_MSG_BASE_VALID = true ∧ (s.msgSrc f.src).isFinished id = false ∧ (id + 2 ^ 31 - (s.msgSrc f.src).floor) % 2 ^ 31 < 128 ∧ ((s.msgSrc f.src).failed.find? (·.1 == id)) = none ∧ (s.xfr.recs.find? fun r => r.src == f.src && r.msgId == id) = some r ∧ r.psns.contains psn = true)
    ∧ (∃ (s : State) (f : Frame) (id : Nat) (psn : Nat) (addr : Nat) (region : Nat) (key : Nat) (total : Nat) (data : List Byte),
    f.body = .write id psn addr region key total data ∧ s.flag R.XFR_MSG_BASE_VALID = true ∧ (s.msgSrc f.src).isFinished id = false ∧ (id + 2 ^ 31 - (s.msgSrc f.src).floor) % 2 ^ 31 < 128 ∧ ((s.msgSrc f.src).failed.find? (·.1 == id)) = none ∧ s.xfr.recs = [] ∧ gSpace addr < 2 ∧ s.targetCheck f.src f.dev ⟨addr, region, key, data.length, 0⟩ .write = none)
    ∧ (∃ (s : State) (f : Frame) (id : Nat) (psn : Nat) (addr : Nat) (region : Nat) (key : Nat) (total : Nat) (data : List Byte) (st : St),
    f.body = .write id psn addr region key total data ∧ s.flag R.XFR_MSG_BASE_VALID = true ∧ (s.msgSrc f.src).isFinished id = false ∧ (id + 2 ^ 31 - (s.msgSrc f.src).floor) % 2 ^ 31 < 128 ∧ ((s.msgSrc f.src).failed.find? (·.1 == id)) = none ∧ s.xfr.recs = [] ∧ s.targetCheck f.src f.dev ⟨addr, region, key, data.length, 0⟩ .write = some st)
    ∧ (∃ (s : State) (v : Nat),
    bitsOf v 45 0 % 2 ^ 24 = 0 ∧ s.hbmMapped (bitsOf v 45 0) (2 ^ 24) = true ∧ s.touchesReserved (bitsOf v 45 0) (2 ^ 24) = false ∧ s.touchesPool (bitsOf v 45 0) (2 ^ 24) = false ∧ s.touchesRegions (bitsOf v 45 0) (2 ^ 24) = false ∧ s.xfr.recs = []) :=
  ⟨⟨(State.reset.setReg R.XFR_MSG_BASE_VALID 1), { frame0 with src := 7, body := .write 128 0 64 5 9 4 [1, 2] }, 128, 0, 64, 5, 9, 4, [1, 2], by and_intros <;> decide +kernel⟩,
   ⟨(State.reset.setReg R.XFR_MSG_BASE_VALID 1).putMsgSrc ⟨7, 0, [], [(2, .keyInvalid)], [], []⟩, { frame0 with src := 7, body := .write 2 0 64 5 9 4 [1, 2] }, 2, 0, 64, 5, 9, 4, [1, 2], 2, .keyInvalid, by and_intros <;> decide +kernel⟩,
   ⟨(State.reset.setReg R.XFR_MSG_BASE_VALID 1).onXfr fun t => { t with recs := [⟨7, 2, [0], 2, 4⟩] }, { frame0 with src := 7, body := .write 2 0 64 5 9 4 [1, 2] }, 2, 0, 64, 5, 9, 4, [1, 2], ⟨7, 2, [0], 2, 4⟩, by and_intros <;> decide +kernel⟩,
   ⟨((State.reset.setReg R.XFR_MSG_BASE_VALID 1).onFab fun f => { f with regions := [{ num := 5, state := .valid, permR := true, permW := true, permA := true, space := 0, anySource := true, source := 0, key := 9, base := 2 ^ 26, length := 4096, inflight := 0 }] }), { frame0 with src := 7, body := .write 127 0 (2 ^ 26 + 64) 5 9 4 [1, 2] }, 127, 0, 2 ^ 26 + 64, 5, 9, 4, [1, 2], by and_intros <;> decide +kernel⟩,
   ⟨((State.reset.setReg R.XFR_MSG_BASE_VALID 1).onFab fun f => { f with regions := [{ num := 5, state := .valid, permR := true, permW := true, permA := true, space := 0, anySource := true, source := 0, key := 9, base := 2 ^ 26, length := 4096, inflight := 0 }] }), { frame0 with src := 7, body := .write 0 0 (2 ^ 26 + 64) 5 8 4 [1, 2] }, 0, 0, 2 ^ 26 + 64, 5, 8, 4, [1, 2], .keyInvalid, by and_intros <;> decide +kernel⟩,
   ⟨State.reset, 2 ^ 63 + 2 ^ 26, by and_intros <;> decide +kernel⟩⟩

/-- States that meet the hypotheses of `SprayedMessages` (clauses 21). -/
theorem witness_SprayedMessages_4 :
    (∃ (s : State) (v : Nat),
    (bitsOf v 45 0 % 2 ^ 24 ≠ 0 ∨ s.xfr.recs ≠ []))
    ∧ (∃ (s : State) (v : Nat),
    (bitsOf v 45 0 % 2 ^ 24 ≠ 0 ∨ s.xfr.recs ≠ [])) :=
  ⟨⟨State.reset, 1, by decide +kernel⟩,
   ⟨(State.reset.setReg R.XFR_MSG_BASE_VALID 1).onXfr fun t => { t with recs := [⟨7, 2, [0], 2, 4⟩] }, 2 ^ 24, by decide +kernel⟩⟩

/-- States that meet the hypotheses of `Reads` (clauses 1, 2, 3, 4, 5, 6). -/
theorem witness_Reads_1 :
    (∃ (s : State) (q : Nat) (tag : Nat) (x : XQueue) (w : WorkReq),
    s.mayStart q = true ∧ s.xq q = x ∧ s.workAt q x.next = w ∧ w.op = 2 ∧ s.startCheck q w = none ∧ gNode w.remote ≠ s.node ∧ s.isUnreachable (gNode w.remote) = false ∧ s.newTag = tag)
    ∧ (∃ (s : State) (f : Frame) (h : OpHdr),
    f.body = .read h ∧ s.due f = true ∧ gSpace h.addr < 2 ∧ s.targetCheck f.src f.dev h .read = none)
    ∧ (∃ (s : State) (f : Frame) (h : OpHdr) (st : St),
    f.body = .read h ∧ s.due f = true ∧ s.targetCheck f.src f.dev h .read = some st)
    ∧ (∃ (s : State) (f : Frame) (id : Nat) (psn : Nat) (addr : Nat) (tag : Nat) (data : List Byte) (r : XReq) (left : List (Nat × Nat)) (landed : List Nat) (failed : Option St),
    f.body = .readData id psn addr data ∧ s.readFlight (id % 2 ^ 31) = some r ∧ r.prog = .read tag left landed failed ∧ (left.any (·.1 == addr)) = true)
    ∧ (∃ (s : State) (f : Frame) (id : Nat) (psn : Nat) (addr : Nat) (tag : Nat) (data : List Byte) (r : XReq) (left : List (Nat × Nat)) (landed : List Nat) (failed : Option St),
    f.body = .readData id psn addr data ∧ s.readFlight (id % 2 ^ 31) = some r ∧ r.prog = .read tag left landed failed ∧ (left.any (·.1 == addr)) = false ∧ landed.contains addr = true)
    ∧ (∃ (s : State) (f : Frame) (id : Nat) (psn : Nat) (addr : Nat) (data : List Byte),
    f.body = .readData id psn addr data ∧ s.readFlight (id % 2 ^ 31) = none ∧ (s.xfr.quiet.any fun q => q.tag == id % 2 ^ 31 && q.landed.contains addr) = false) :=
  ⟨⟨(queued [2 * 2 ^ 56 + 0, 2 ^ 26 + 131072, 7 * 2 ^ 48 + 2 ^ 26 + 0x30000, 64 * 2 ^ 32 + 0, 0, 0, 0, 0]), 70, 0, ((queued [2 * 2 ^ 56 + 0, 2 ^ 26 + 131072, 7 * 2 ^ 48 + 2 ^ 26 + 0x30000, 64 * 2 ^ 32 + 0, 0, 0, 0, 0]).xq 70), ((queued [2 * 2 ^ 56 + 0, 2 ^ 26 + 131072, 7 * 2 ^ 48 + 2 ^ 26 + 0x30000, 64 * 2 ^ 32 + 0, 0, 0, 0, 0]).workAt 70 0), by and_intros <;> decide +kernel⟩,
   ⟨((State.reset.setReg R.XFR_MSG_BASE_VALID 1).onFab fun f => { f with regions := [{ num := 5, state := .valid, permR := true, permW := true, permA := true, space := 0, anySource := true, source := 0, key := 9, base := 2 ^ 26, length := 4096, inflight := 0 }] }), { frame0 with src := 7, body := .read ⟨2 ^ 26 + 64, 5, 9, 8, 1⟩ }, ⟨2 ^ 26 + 64, 5, 9, 8, 1⟩, by and_intros <;> decide +kernel⟩,
   ⟨((State.reset.setReg R.XFR_MSG_BASE_VALID 1).onFab fun f => { f with regions := [{ num := 5, state := .valid, permR := true, permW := true, permA := true, space := 0, anySource := true, source := 0, key := 9, base := 2 ^ 26, length := 4096, inflight := 0 }] }), { frame0 with src := 7, body := .read ⟨2 ^ 26 + 64, 5, 8, 8, 1⟩ }, ⟨2 ^ 26 + 64, 5, 8, 8, 1⟩, .keyInvalid, by and_intros <;> decide +kernel⟩,
   ⟨((queued [2 * 2 ^ 56 + 0, 131072, 7 * 2 ^ 48 + 0x30000, 64 * 2 ^ 32 + 0, 0, 0, 0, 0])).putFlight (reqOf (queued [2 * 2 ^ 56 + 0, 131072, 7 * 2 ^ 48 + 0x30000, 64 * 2 ^ 32 + 0, 0, 0, 0, 0]) 70 (.read 4 [((7 * 2 ^ 48 + 0x30000), 2)] [] none)), { frame0 with src := 7, body := .readData (2 ^ 31 + 4) 0 (7 * 2 ^ 48 + 0x30000) [1, 2] }, 2 ^ 31 + 4, 0, (7 * 2 ^ 48 + 0x30000), 4, [1, 2], (reqOf (queued [2 * 2 ^ 56 + 0, 131072, 7 * 2 ^ 48 + 0x30000, 64 * 2 ^ 32 + 0, 0, 0, 0, 0]) 70 (.read 4 [((7 * 2 ^ 48 + 0x30000), 2)] [] none)), [((7 * 2 ^ 48 + 0x30000), 2)], [], none, by and_intros <;> decide +kernel⟩,
   ⟨((queued [2 * 2 ^ 56 + 0, 131072, 7 * 2 ^ 48 + 0x30000, 64 * 2 ^ 32 + 0, 0, 0, 0, 0])).putFlight (reqOf (queued [2 * 2 ^ 56 + 0, 131072, 7 * 2 ^ 48 + 0x30000, 64 * 2 ^ 32 + 0, 0, 0, 0, 0]) 70 (.read 4 [(5, 2)] [(7 * 2 ^ 48 + 0x30000)] none)), { frame0 with src := 7, body := .readData (2 ^ 31 + 4) 0 (7 * 2 ^ 48 + 0x30000) [1, 2] }, 2 ^ 31 + 4, 0, (7 * 2 ^ 48 + 0x30000), 4, [1, 2], (reqOf (queued [2 * 2 ^ 56 + 0, 131072, 7 * 2 ^ 48 + 0x30000, 64 * 2 ^ 32 + 0, 0, 0, 0, 0]) 70 (.read 4 [(5, 2)] [(7 * 2 ^ 48 + 0x30000)] none)), [(5, 2)], [(7 * 2 ^ 48 + 0x30000)], none, by and_intros <;> decide +kernel⟩,
   ⟨State.reset, { frame0 with src := 7, body := .readData (2 ^ 31 + 4) 0 (7 * 2 ^ 48 + 0x30000) [1, 2] }, 2 ^ 31 + 4, 0, (7 * 2 ^ 48 + 0x30000), [1, 2], by and_intros <;> decide +kernel⟩⟩

/-- States that meet the hypotheses of `Reads` (clauses 7, 8). -/
theorem witness_Reads_2 :
    (∃ (s : State) (f : Frame) (id : Nat) (psn : Nat) (addr : Nat) (data : List Byte),
    f.body = .readData id psn addr data ∧ s.readFlight (id % 2 ^ 31) = none ∧ (s.xfr.quiet.any fun q => q.tag == id % 2 ^ 31 && q.landed.contains addr) = true)
    ∧ (∃ (s : State) (r : XReq) (tag : Nat) (landed : List Nat) (failed : Option St),
    r.prog = .read tag [] landed failed) :=
  ⟨⟨State.reset.onXfr fun t => { t with quiet := [⟨4, [(7 * 2 ^ 48 + 0x30000)]⟩] }, { frame0 with src := 7, body := .readData (2 ^ 31 + 4) 0 (7 * 2 ^ 48 + 0x30000) [1, 2] }, 2 ^ 31 + 4, 0, (7 * 2 ^ 48 + 0x30000), [1, 2], by and_intros <;> decide +kernel⟩,
   ⟨((queued [2 * 2 ^ 56 + 0, 131072, 7 * 2 ^ 48 + 0x30000, 64 * 2 ^ 32 + 0, 0, 0, 0, 0])).putFlight (reqOf (queued [2 * 2 ^ 56 + 0, 131072, 7 * 2 ^ 48 + 0x30000, 64 * 2 ^ 32 + 0, 0, 0, 0, 0]) 70 (.read 4 [] [(7 * 2 ^ 48 + 0x30000)] none)), (reqOf (queued [2 * 2 ^ 56 + 0, 131072, 7 * 2 ^ 48 + 0x30000, 64 * 2 ^ 32 + 0, 0, 0, 0, 0]) 70 (.read 4 [] [(7 * 2 ^ 48 + 0x30000)] none)), 4, [(7 * 2 ^ 48 + 0x30000)], none, by decide +kernel⟩⟩

/-- States that meet the hypotheses of `Collectives` (clauses 1, 2, 3, 4, 5, 6). -/
theorem witness_Collectives_1 :
    (∃ (s : State) (q : Nat) (x : XQueue) (w : WorkReq),
    s.mayStart q = true ∧ s.xq q = x ∧ s.workAt q x.next = w ∧ w.op = 0x10 ∧ s.startCheck q w = none ∧ s.reduceFlight w.group = none ∧ s.xfr.ended.contains ⟨w.group, w.collOp, true⟩ = false ∧ s.xfr.slots = [])
    ∧ (∃ (s : State) (q : Nat) (x : XQueue) (w : WorkReq) (st : St),
    s.mayStart q = true ∧ s.xq q = x ∧ s.workAt q x.next = w ∧ w.op = 0x10 ∧ s.startCheck q w = none ∧ s.reduceFlight w.group = none ∧ s.xfr.ended = [⟨w.group, w.collOp, true⟩] ∧ s.reg (R.XFR_GROUP_STATUS_LAST_STATUS w.group) ≠ 0 ∧ St.ofCode (s.reg (R.XFR_GROUP_STATUS_LAST_STATUS w.group)) = some st)
    ∧ (∃ (s : State) (q : Nat) (x : XQueue) (w : WorkReq) (r : XReq),
    s.mayStart q = true ∧ s.xq q = x ∧ s.workAt q x.next = w ∧ w.op = 0x10 ∧ s.startCheck q w = none ∧ s.reduceFlight w.group = some r)
    ∧ (∃ (s : State) (g : Nat) (n : Nat) (next : Nat) (r : XReq) (w : List Nat) (t : State) (m : ReduceMsg) (b : Bool) (k : Nat),
    s.reduceFlight g = some r ∧ r.prog = .reduce n next w ∧ w.length ≠ n ∧ next < n ∧ next < s.reg (R.XFR_GROUP_A_WINDOW g) ∧ s.ownChunk r next = (m, b, t))
    ∧ (∃ (s : State) (g : Nat) (n : Nat) (next : Nat) (r : XReq) (w : List Nat) (k : Nat),
    s.reduceFlight g = some r ∧ r.prog = .reduce n next w ∧ w.length ≠ n ∧ next < n ∧ s.reg (R.XFR_GROUP_A_WINDOW g) ≤ next ∧ w.contains (next - s.reg (R.XFR_GROUP_A_WINDOW g)) = false)
    ∧ (∃ (s : State) (g : Nat) (n : Nat) (next : Nat) (r : XReq) (w : List Nat) (k : Nat),
    s.reduceFlight g = some r ∧ r.prog = .reduce n next w ∧ w.length = n) :=
  ⟨⟨(reducing (2 ^ 26 + 131072) (2 ^ 26 + 196608)), 70, ((reducing (2 ^ 26 + 131072) (2 ^ 26 + 196608)).xq 70), ((reducing (2 ^ 26 + 131072) (2 ^ 26 + 196608)).workAt 70 0), by and_intros <;> decide +kernel⟩,
   ⟨(((reducing (2 ^ 26 + 131072) (2 ^ 26 + 196608)).setReg (R.XFR_GROUP_STATUS_LAST_STATUS 3) (St.code .remoteTimeout)).onXfr fun t => { t with ended := [⟨3, 5, true⟩] }), 70, ((((reducing (2 ^ 26 + 131072) (2 ^ 26 + 196608)).setReg (R.XFR_GROUP_STATUS_LAST_STATUS 3) (St.code .remoteTimeout)).onXfr fun t => { t with ended := [⟨3, 5, true⟩] }).xq 70), ((((reducing (2 ^ 26 + 131072) (2 ^ 26 + 196608)).setReg (R.XFR_GROUP_STATUS_LAST_STATUS 3) (St.code .remoteTimeout)).onXfr fun t => { t with ended := [⟨3, 5, true⟩] }).workAt 70 0), .remoteTimeout, by and_intros <;> decide +kernel⟩,
   ⟨((reducing (2 ^ 26 + 131072) (2 ^ 26 + 196608)).putFlight (reqOf (reducing (2 ^ 26 + 131072) (2 ^ 26 + 196608)) 71 (.reduce 1 0 []))), 70, ((reducing (2 ^ 26 + 131072) (2 ^ 26 + 196608)).xq 70), ((reducing (2 ^ 26 + 131072) (2 ^ 26 + 196608)).workAt 70 0), (reqOf (reducing (2 ^ 26 + 131072) (2 ^ 26 + 196608)) 71 (.reduce 1 0 [])), by and_intros <;> decide +kernel⟩,
   ⟨((reducing (2 ^ 26 + 131072) (2 ^ 26 + 196608)).putFlight (reqOf (reducing (2 ^ 26 + 131072) (2 ^ 26 + 196608)) 71 (.reduce 1 0 []))), 3, 1, 0, (reqOf (reducing (2 ^ 26 + 131072) (2 ^ 26 + 196608)) 71 (.reduce 1 0 [])), [], (((reducing (2 ^ 26 + 131072) (2 ^ 26 + 196608)).putFlight (reqOf (reducing (2 ^ 26 + 131072) (2 ^ 26 + 196608)) 71 (.reduce 1 0 []))).ownChunk (reqOf (reducing (2 ^ 26 + 131072) (2 ^ 26 + 196608)) 71 (.reduce 1 0 [])) 0).2.2, (((reducing (2 ^ 26 + 131072) (2 ^ 26 + 196608)).putFlight (reqOf (reducing (2 ^ 26 + 131072) (2 ^ 26 + 196608)) 71 (.reduce 1 0 []))).ownChunk (reqOf (reducing (2 ^ 26 + 131072) (2 ^ 26 + 196608)) 71 (.reduce 1 0 [])) 0).1, (((reducing (2 ^ 26 + 131072) (2 ^ 26 + 196608)).putFlight (reqOf (reducing (2 ^ 26 + 131072) (2 ^ 26 + 196608)) 71 (.reduce 1 0 []))).ownChunk (reqOf (reducing (2 ^ 26 + 131072) (2 ^ 26 + 196608)) 71 (.reduce 1 0 [])) 0).2.1, 0, by and_intros <;> decide +kernel⟩,
   ⟨(((reducing (131072) (196608)).putFlight (reqOf (reducing (131072) (196608)) 71 (.reduce 200 100 []))).setReg (R.XFR_GROUP_A_WINDOW 3) 64), 3, 200, 100, (reqOf (reducing (131072) (196608)) 71 (.reduce 200 100 [])), [], 7, by and_intros <;> decide +kernel⟩,
   ⟨((reducing (131072) (196608)).putFlight (reqOf (reducing (131072) (196608)) 71 (.reduce 1 1 [0]))), 3, 1, 1, (reqOf (reducing (131072) (196608)) 71 (.reduce 1 1 [0])), [0], 7, by and_intros <;> decide +kernel⟩⟩

/-- States that meet the hypotheses of `Collectives` (clauses 7, 8, 9, 10). -/
theorem witness_Collectives_2 :
    (∃ (s : State) (t : State) (r : XReq) (c : Nat) (m : ReduceMsg) (b : Bool),
    s.ownChunk r c = (m, b, t))
    ∧ (∃ (s : State) (f : Frame) (m : ReduceMsg),
    f.body = .reduce m ∧ m.down = false ∧ s.transitOnly = false ∧ (s.takeFrame f).reduceAccepts f m = false)
    ∧ (∃ (s : State) (f : Frame) (m : ReduceMsg),
    (s.flag (R.XFR_GROUP_A_VALID m.group) = false ∨ m.down = false ∧ (s.groupChildren m.group).contains f.src = false ∨ m.down = true ∧ s.reg (R.XFR_GROUP_A_PARENT m.group) ≠ f.src))
    ∧ (∃ (s : State) (f : Frame) (m : ReduceMsg),
    (s.flag (R.XFR_GROUP_A_VALID m.group) = false ∨ m.down = false ∧ (s.groupChildren m.group).contains f.src = false ∨ m.down = true ∧ s.reg (R.XFR_GROUP_A_PARENT m.group) ≠ f.src))
    ∧ (∃ (s : State) (f : Frame) (m : ReduceMsg),
    (s.flag (R.XFR_GROUP_A_VALID m.group) = false ∨ m.down = false ∧ (s.groupChildren m.group).contains f.src = false ∨ m.down = true ∧ s.reg (R.XFR_GROUP_A_PARENT m.group) ≠ f.src))
    ∧ (∃ (s : State) (f : Frame) (m : ReduceMsg),
    f.body = .reduce m ∧ m.down = false ∧ s.transitOnly = false ∧ (s.takeFrame f).reduceAccepts f m = true ∧ (s.takeFrame f).reduceSeen f m = true) :=
  ⟨⟨((reducing (2 ^ 26 + 131072) (2 ^ 26 + 196608)).putFlight (reqOf (reducing (2 ^ 26 + 131072) (2 ^ 26 + 196608)) 71 (.reduce 1 0 []))), (((reducing (2 ^ 26 + 131072) (2 ^ 26 + 196608)).putFlight (reqOf (reducing (2 ^ 26 + 131072) (2 ^ 26 + 196608)) 71 (.reduce 1 0 []))).ownChunk (reqOf (reducing (2 ^ 26 + 131072) (2 ^ 26 + 196608)) 71 (.reduce 1 0 [])) 0).2.2, (reqOf (reducing (2 ^ 26 + 131072) (2 ^ 26 + 196608)) 71 (.reduce 1 0 [])), 0, (((reducing (2 ^ 26 + 131072) (2 ^ 26 + 196608)).putFlight (reqOf (reducing (2 ^ 26 + 131072) (2 ^ 26 + 196608)) 71 (.reduce 1 0 []))).ownChunk (reqOf (reducing (2 ^ 26 + 131072) (2 ^ 26 + 196608)) 71 (.reduce 1 0 [])) 0).1, (((reducing (2 ^ 26 + 131072) (2 ^ 26 + 196608)).putFlight (reqOf (reducing (2 ^ 26 + 131072) (2 ^ 26 + 196608)) 71 (.reduce 1 0 []))).ownChunk (reqOf (reducing (2 ^ 26 + 131072) (2 ^ 26 + 196608)) 71 (.reduce 1 0 [])) 0).2.1, by decide +kernel⟩,
   ⟨(State.reset.setRegs (group3 ++ [(R.XFR_GROUP_STATUS_CURRENT_OP 3, 5)])), { frame0 with src := 9, body := .reduce ⟨false, 3, 5, 0, 0, 32, [0x38]⟩ }, ⟨false, 3, 5, 0, 0, 32, [0x38]⟩, by and_intros <;> decide +kernel⟩,
   ⟨State.reset, { frame0 with src := 8, body := .reduce ⟨false, 3, 5, 0, 0, 32, [0x38]⟩ }, ⟨false, 3, 5, 0, 0, 32, [0x38]⟩, by decide +kernel⟩,
   ⟨(State.reset.setRegs (group3 ++ [(R.XFR_GROUP_STATUS_CURRENT_OP 3, 5)])), { frame0 with src := 9, body := .reduce ⟨false, 3, 5, 0, 0, 32, [0x38]⟩ }, ⟨false, 3, 5, 0, 0, 32, [0x38]⟩, by decide +kernel⟩,
   ⟨(State.reset.setRegs (group3 ++ [(R.XFR_GROUP_STATUS_CURRENT_OP 3, 5)])), { frame0 with src := 8, body := .reduce ⟨true, 3, 5, 0, 0, 32, [0x38]⟩ }, ⟨true, 3, 5, 0, 0, 32, [0x38]⟩, by decide +kernel⟩,
   ⟨((State.reset.setRegs (group3 ++ [(R.XFR_GROUP_STATUS_CURRENT_OP 3, 5)])).onXfr fun t => { t with slots := [⟨3, 5, 0, [32], [8], [], false, false⟩] }), { frame0 with src := 8, body := .reduce ⟨false, 3, 5, 0, 0, 32, [0x38]⟩ }, ⟨false, 3, 5, 0, 0, 32, [0x38]⟩, by and_intros <;> decide +kernel⟩⟩

/-- States that meet the hypotheses of `Collectives` (clauses 11, 12, 13, 14, 15, 16). -/
theorem witness_Collectives_3 :
    (∃ (s : State) (f : Frame) (m : ReduceMsg) (r : XReq),
    f.body = .reduce m ∧ m.down = true ∧ s.transitOnly = false ∧ (s.takeFrame f).reduceAccepts f m = true ∧ (s.takeFrame f).reduceSeen f m = false ∧ ((s.takeFrame f).account f.src m.data.length).reduceFlight m.group = some r ∧ r.wr.collOp = m.op ∧ r.wr.length ≠ m.total)
    ∧ (∃ (s : State) (f : Frame) (m : ReduceMsg),
    f.body = .reduce m ∧ m.down = false ∧ s.transitOnly = false ∧ (s.takeFrame f).reduceAccepts f m = true ∧ (s.takeFrame f).reduceSeen f m = false ∧ ((s.takeFrame f).account f.src m.data.length).reduceFlight m.group = none ∧ (((s.takeFrame f).account f.src m.data.length).contribute m f.src f.poison).reduceFlight m.group = none)
    ∧ (∃ (s : State) (f : Frame) (m : ReduceMsg),
    f.body = .reduce m ∧ m.down = true ∧ s.transitOnly = false ∧ (s.takeFrame f).reduceAccepts f m = true ∧ (s.takeFrame f).reduceSeen f m = false ∧ ((s.takeFrame f).account f.src m.data.length).reduceFlight m.group = none ∧ (((s.takeFrame f).account f.src m.data.length).applyDown m f.poison).reduceFlight m.group = none)
    ∧ (∃ (s : State) (f : Frame) (m : ReduceMsg),
    f.body = .reduce m ∧ m.down = true)
    ∧ (∃ (s : State) (f : Frame) (m : ReduceMsg),
    f.body = .reduce m ∧ m.down = false)
    ∧ (∃ (s : State) (g : Nat) (c : Nat) (x : CollSlot),
    (s.xfr.slots.find? fun x => x.group == g && x.chunk == c) = some x) :=
  ⟨⟨(((reducing (131072) (196608)).setReg (R.XFR_GROUP_STATUS_CURRENT_OP 3) 5).putFlight (reqOf (reducing (131072) (196608)) 71 (.reduce 1 1 []))), { frame0 with src := 6, body := .reduce ⟨true, 3, 5, 0, 0, 64, [0x38]⟩ }, ⟨true, 3, 5, 0, 0, 64, [0x38]⟩, (reqOf (reducing (131072) (196608)) 71 (.reduce 1 1 [])), by and_intros <;> decide +kernel⟩,
   ⟨(State.reset.setRegs (group3 ++ [(R.XFR_GROUP_STATUS_CURRENT_OP 3, 5)])), { frame0 with src := 8, body := .reduce ⟨false, 3, 5, 0, 0, 32, [0x38]⟩ }, ⟨false, 3, 5, 0, 0, 32, [0x38]⟩, by and_intros <;> decide +kernel⟩,
   ⟨(State.reset.setRegs (group3 ++ [(R.XFR_GROUP_STATUS_CURRENT_OP 3, 5)])), { frame0 with src := 6, body := .reduce ⟨true, 3, 5, 0, 0, 32, [0x38]⟩ }, ⟨true, 3, 5, 0, 0, 32, [0x38]⟩, by and_intros <;> decide +kernel⟩,
   ⟨(State.reset.setRegs (group3 ++ [(R.XFR_GROUP_STATUS_CURRENT_OP 3, 5)])), { frame0 with src := 6, body := .reduce ⟨true, 3, 5, 0, 0, 32, [0x38]⟩ }, ⟨true, 3, 5, 0, 0, 32, [0x38]⟩, by and_intros <;> decide +kernel⟩,
   ⟨State.reset, { frame0 with src := 6, body := .reduce ⟨false, 3, 5, 0, 0, 32, [0x38]⟩ }, ⟨false, 3, 5, 0, 0, 32, [0x38]⟩, by and_intros <;> decide +kernel⟩,
   ⟨((State.reset.setRegs (group3 ++ [(R.XFR_GROUP_STATUS_CURRENT_OP 3, 5)])).onXfr fun t => { t with slots := [⟨3, 5, 0, [32], [8], [], false, false⟩] }), 3, 0, ⟨3, 5, 0, [32], [8], [], false, false⟩, by decide +kernel⟩⟩

/-- States that meet the hypotheses of `Collectives` (clauses 17, 18, 19, 20). -/
theorem witness_Collectives_4 :
    (∃ (s : State) (g : Nat) (c : Nat),
    (s.xfr.slots.find? fun x => x.group == g && x.chunk == c) = none)
    ∧ (∃ (s : State) (g : Nat) (op : Nat) (st : St),
    s.reduceFlight g = none)
    ∧ (∃ (s : State) (g : Nat) (v : Nat),
    g < 256 ∧ (s.xfr.slots.any (·.group == g)) = false ∧ (s.xfr.flights.any fun r => r.wr.op == 0x10 && r.wr.group == g) = false ∧ bitsOf v 57 56 ≠ 3 ∧ bitsOf v 54 50 ≤ 16 ∧ 1 ≤ bitsOf v 49 41 ∧ bitsOf v 49 41 ≤ 256 ∧ bitsOf v 61 60 < s.dies ∧ s.dieWindow (bitsOf v 61 60) g + bitsOf v 49 41 ≤ 2048)
    ∧ (∃ (s : State) (g : Nat) (v : Nat),
    g < 256 ∧ ((s.xfr.slots.any (·.group == g)) = true ∨ (s.xfr.flights.any fun r => r.wr.op == 0x10 && r.wr.group == g) = true ∨ bitsOf v 57 56 = 3 ∨ 16 < bitsOf v 54 50 ∨ 256 < bitsOf v 49 41 ∨ bitAt v 63 = true ∧ 2048 < s.dieWindow (bitsOf v 61 60) g + bitsOf v 49 41))
    ∧ (∃ (s : State) (g : Nat) (v : Nat),
    g < 256 ∧ ((s.xfr.slots.any (·.group == g)) = true ∨ (s.xfr.flights.any fun r => r.wr.op == 0x10 && r.wr.group == g) = true ∨ bitsOf v 57 56 = 3 ∨ 16 < bitsOf v 54 50 ∨ 256 < bitsOf v 49 41 ∨ bitAt v 63 = true ∧ 2048 < s.dieWindow (bitsOf v 61 60) g + bitsOf v 49 41))
    ∧ (∃ (s : State) (g : Nat) (v : Nat),
    g < 256 ∧ ((s.xfr.slots.any (·.group == g)) = true ∨ (s.xfr.flights.any fun r => r.wr.op == 0x10 && r.wr.group == g) = true ∨ bitsOf v 57 56 = 3 ∨ 16 < bitsOf v 54 50 ∨ 256 < bitsOf v 49 41 ∨ bitAt v 63 = true ∧ 2048 < s.dieWindow (bitsOf v 61 60) g + bitsOf v 49 41)) :=
  ⟨⟨((State.reset.setRegs (group3 ++ [(R.XFR_GROUP_STATUS_CURRENT_OP 3, 5)])).onXfr fun t => { t with slots := [⟨3, 5, 0, [32], [8], [], false, false⟩] }), 3, 1, by decide +kernel⟩,
   ⟨((State.reset.setRegs (group3 ++ [(R.XFR_GROUP_STATUS_CURRENT_OP 3, 5)])).onXfr fun t => { t with slots := [⟨3, 5, 0, [32], [8], [], false, false⟩] }), 3, 5, .badParam, by decide +kernel⟩,
   ⟨State.reset, 255, 2 ^ 63 + 16 * 2 ^ 50 + 256 * 2 ^ 41, by and_intros <;> decide +kernel⟩,
   ⟨((State.reset.setRegs (group3 ++ [(R.XFR_GROUP_STATUS_CURRENT_OP 3, 5)])).onXfr fun t => { t with slots := [⟨3, 5, 0, [32], [8], [], false, false⟩] }), 3, 0, by and_intros <;> decide +kernel⟩,
   ⟨((reducing (131072) (196608)).putFlight (reqOf (reducing (131072) (196608)) 71 (.reduce 1 1 []))), 3, 0, by and_intros <;> decide +kernel⟩,
   ⟨State.reset, 3, 3 * 2 ^ 56, by and_intros <;> decide +kernel⟩⟩

/-- States that meet the hypotheses of `Collectives` (clauses 20, 21). -/
theorem witness_Collectives_5 :
    (∃ (s : State) (g : Nat) (v : Nat),
    g < 256 ∧ ((s.xfr.slots.any (·.group == g)) = true ∨ (s.xfr.flights.any fun r => r.wr.op == 0x10 && r.wr.group == g) = true ∨ bitsOf v 57 56 = 3 ∨ 16 < bitsOf v 54 50 ∨ 256 < bitsOf v 49 41 ∨ bitAt v 63 = true ∧ 2048 < s.dieWindow (bitsOf v 61 60) g + bitsOf v 49 41))
    ∧ (∃ (s : State) (g : Nat) (v : Nat),
    g < 256 ∧ ((s.xfr.slots.any (·.group == g)) = true ∨ (s.xfr.flights.any fun r => r.wr.op == 0x10 && r.wr.group == g) = true ∨ bitsOf v 57 56 = 3 ∨ 16 < bitsOf v 54 50 ∨ 256 < bitsOf v 49 41 ∨ bitAt v 63 = true ∧ 2048 < s.dieWindow (bitsOf v 61 60) g + bitsOf v 49 41))
    ∧ (∃ (s : State) (g : Nat) (v : Nat),
    g < 256 ∧ ((s.xfr.slots.any (·.group == g)) = true ∨ (s.xfr.flights.any fun r => r.wr.op == 0x10 && r.wr.group == g) = true ∨ bitsOf v 57 56 = 3 ∨ 16 < bitsOf v 54 50 ∨ 256 < bitsOf v 49 41 ∨ bitAt v 63 = true ∧ 2048 < s.dieWindow (bitsOf v 61 60) g + bitsOf v 49 41))
    ∧ (∃ (s : State) (g : Nat) (k : Nat) (v : Nat),
    g < 256 ∧ k < 4 ∧ (s.xfr.slots.any (·.group == g)) = false ∧ (s.xfr.flights.any fun r => r.wr.op == 0x10 && r.wr.group == g) = false) :=
  ⟨⟨State.reset, 3, 17 * 2 ^ 50, by and_intros <;> decide +kernel⟩,
   ⟨State.reset, 3, 257 * 2 ^ 41, by and_intros <;> decide +kernel⟩,
   ⟨State.reset.setRegs ((List.range 8).flatMap fun k => [(R.XFR_GROUP_A_VALID (k + 10), 1), (R.XFR_GROUP_A_WINDOW (k + 10), 256)]), 3, 2 ^ 63 + 2 ^ 41, by and_intros <;> decide +kernel⟩,
   ⟨State.reset, 255, 3, 7, by and_intros <;> decide +kernel⟩⟩

/-- States that meet the hypotheses of `CountersAndWaits` (clauses 1, 2, 4, 5, 7). -/
theorem witness_CountersAndWaits_1 :
    (∃ (s : State) (v : Nat),
    s.tileIn (s.reg R.SYN_CTR_SEL_TILE) = true)
    ∧ (∃ (s : State) (v : Nat),
    s.tileIn (s.reg R.SYN_CTR_SEL_TILE) = false)
    ∧ (∃ (s : State) (k : Nat) (j : Nat) (v : Nat),
    keysRise s.syn.counters = true ∧ j ≠ k)
    ∧ (∃ (s : State) (k : Nat) (v : Nat),
    s.cores = [] ∧ s.xfr.queues = [])
    ∧ (∃ (v : Nat),
    v < 2 ^ 24)
    ∧ (∃ (v : Nat),
    v < 2 ^ 24) :=
  ⟨⟨State.reset, 5, by decide +kernel⟩,
   ⟨State.reset.setReg R.CAP_TILES_TILE_PRESENT 0, 5, by decide +kernel⟩,
   ⟨State.reset.storeCounter 4 9, 3, 4, 5, by and_intros <;> decide +kernel⟩,
   ⟨State.reset, 3, 2 ^ 40 + 5, by and_intros <;> decide +kernel⟩,
   ⟨2 ^ 23, by decide +kernel⟩,
   ⟨2 ^ 24 - 1, by decide +kernel⟩⟩

/-- States that meet the hypotheses of `CountersAndWaits` (clauses 7, 9, 10, 11, 12). -/
theorem witness_CountersAndWaits_2 :
    (∃ (v : Nat),
    v < 2 ^ 24)
    ∧ (∃ (s : State) (n : Nat) (t : Nat) (k : Nat) (x : Nat),
    (s.core n).wait = some (.counter t k x) ∧ (s.core n).waitLimit ≠ 0)
    ∧ (∃ (s : State) (n : Nat) (m : Nat) (b : Nat) (r : Nat),
    (s.core n).wait = some (.barrier m b r) ∧ (s.core n).waitLimit ≠ 0)
    ∧ (∃ (s : State) (n : Nat),
    (s.core n).wait = none)
    ∧ (∃ (s : State) (n : Nat) (t : Nat) (k : Nat) (x : Nat),
    (s.core n).wait = some (.counter t k x))
    ∧ (∃ (s : State) (n : Nat) (t : Nat) (k : Nat) (x : Nat),
    (s.core n).wait = some (.counter t k x)) :=
  ⟨⟨2 ^ 23 - 1, by decide +kernel⟩,
   ⟨State.reset.putCore { (State.reset.core 2) with ctx := 1, power := .running, pc := 9, waitLimit := 100, wait := some (.counter 0 7 5) }, 2, 0, 7, 5, by and_intros <;> decide +kernel⟩,
   ⟨State.reset.putCore { (State.reset.core 2) with ctx := 1, power := .running, pc := 9, waitLimit := 100, wait := some (.barrier 0 7 5) }, 2, 0, 7, 5, by and_intros <;> decide +kernel⟩,
   ⟨State.reset.putCore { (State.reset.core 2) with ctx := 1, power := .running, pc := 9, wait := none }, 2, by decide +kernel⟩,
   ⟨State.reset.putCore { (State.reset.core 2) with ctx := 1, power := .running, pc := 9, wait := some (.counter 0 7 5) }, 2, 0, 7, 5, by decide +kernel⟩,
   ⟨State.reset.putCore { (State.reset.core 2) with ctx := 1, power := .running, pc := 9, wait := some (.counter 0 7 5) }, 2, 0, 7, 5, by decide +kernel⟩⟩

/-- States that meet the hypotheses of `CountersAndWaits` (clauses 13, 14). -/
theorem witness_CountersAndWaits_3 :
    (∃ (s : State) (q : XQueue),
    s.xfr.queues = [q] ∧ 64 ≤ q.q ∧ s.flag (R.XFR_Q_A_VALID q.q) = true ∧ s.flag (R.XFR_Q_A_ERROR q.q) = false ∧ 2 ^ s.reg (R.XFR_Q_B_DEPTH_LOG2 q.q) + s.reg (R.XFR_Q_C_COMPLETED q.q) < s.counter (s.postKey q.q))
    ∧ (∃ (s : State) (n : Nat),
    (s.core n).waitLimit = 0) :=
  ⟨⟨(queued []).storeCounter 100 17, ⟨70, 0, [], []⟩, by and_intros <;> decide +kernel⟩,
   ⟨State.reset, 2, by decide +kernel⟩⟩

/-- States that meet the hypotheses of `Barriers` (clauses 1, 2, 3, 4). -/
theorem witness_Barriers_1 :
    (∃ (s : State) (b : Nat),
    s.reg (R.SYN_BAR_A_STATE b) = 0 ∧ s.barArgsOk = true)
    ∧ (∃ (s : State) (b : Nat),
    s.reg (R.SYN_BAR_A_STATE b) ≠ 0)
    ∧ (∃ (s : State) (b : Nat),
    s.reg (R.SYN_BAR_A_STATE b) = 0 ∧ s.barArgsOk = false)
    ∧ (∃ (s : State),
    (s.reg R.SYN_BAR_ARG0_PARTICIPANTS = 0 ∨ s.reg R.SYN_BAR_ARG0_MEMBER_COUNT = 0 ∨ 4096 < s.reg R.SYN_BAR_ARG0_MEMBER_COUNT ∨ s.reg R.SYN_BAR_ARG1_MEMBERS % 2 = 1))
    ∧ (∃ (s : State),
    (s.reg R.SYN_BAR_ARG0_PARTICIPANTS = 0 ∨ s.reg R.SYN_BAR_ARG0_MEMBER_COUNT = 0 ∨ 4096 < s.reg R.SYN_BAR_ARG0_MEMBER_COUNT ∨ s.reg R.SYN_BAR_ARG1_MEMBERS % 2 = 1))
    ∧ (∃ (s : State),
    (s.reg R.SYN_BAR_ARG0_PARTICIPANTS = 0 ∨ s.reg R.SYN_BAR_ARG0_MEMBER_COUNT = 0 ∨ 4096 < s.reg R.SYN_BAR_ARG0_MEMBER_COUNT ∨ s.reg R.SYN_BAR_ARG1_MEMBERS % 2 = 1)) :=
  ⟨⟨State.reset.setRegs [(R.SYN_BAR_ARG0_PARTICIPANTS, 2), (R.SYN_BAR_ARG0_MEMBER_COUNT, 1), (R.SYN_BAR_ARG0_ROUND, 5), (R.SYN_BAR_ARG1_MEMBERS, 2 ^ 26)], 4095, by and_intros <;> decide +kernel⟩,
   ⟨State.reset.setRegs [(R.SYN_BAR_A_STATE 7, 1)], 7, by decide +kernel⟩,
   ⟨State.reset, 7, by and_intros <;> decide +kernel⟩,
   ⟨State.reset, by decide +kernel⟩,
   ⟨State.reset.setRegs [(R.SYN_BAR_ARG0_PARTICIPANTS, 2), (R.SYN_BAR_ARG0_MEMBER_COUNT, 4097)], by decide +kernel⟩,
   ⟨(State.reset.setRegs [(R.SYN_BAR_ARG0_PARTICIPANTS, 2), (R.SYN_BAR_ARG0_MEMBER_COUNT, 1), (R.SYN_BAR_ARG0_ROUND, 5)]).setReg R.SYN_BAR_ARG1_MEMBERS 1, by decide +kernel⟩⟩

/-- States that meet the hypotheses of `Barriers` (clauses 5, 6, 7, 8). -/
theorem witness_Barriers_2 :
    (∃ (s : State) (b : Nat),
    s.reg (R.SYN_BAR_A_STATE b) = 1 ∧ s.reg (R.SYN_BAR_A_ARRIVED b) = 0 ∧ s.reg (R.SYN_BAR_B_EARLY b) = 0)
    ∧ (∃ (s : State) (b : Nat),
    (s.reg (R.SYN_BAR_A_STATE b) ≠ 1 ∨ s.reg (R.SYN_BAR_A_ARRIVED b) ≠ 0 ∨ s.reg (R.SYN_BAR_B_EARLY b) ≠ 0))
    ∧ (∃ (s : State) (b : Nat),
    (s.reg (R.SYN_BAR_A_STATE b) ≠ 1 ∨ s.reg (R.SYN_BAR_A_ARRIVED b) ≠ 0 ∨ s.reg (R.SYN_BAR_B_EARLY b) ≠ 0))
    ∧ (∃ (s : State) (b : Nat),
    (s.reg (R.SYN_BAR_A_STATE b) ≠ 1 ∨ s.reg (R.SYN_BAR_A_ARRIVED b) ≠ 0 ∨ s.reg (R.SYN_BAR_B_EARLY b) ≠ 0))
    ∧ (∃ (s : State) (b : Nat) (a : ArriveMsg),
    s.reg (R.SYN_BAR_A_STATE b) = 0)
    ∧ (∃ (s : State) (b : Nat) (a : ArriveMsg),
    s.reg (R.SYN_BAR_A_STATE b) ≠ 0 ∧ s.reg (R.SYN_BAR_A_ROUND b) < 65536 ∧ 32768 ≤ (a.round % 65536 + 65536 - s.reg (R.SYN_BAR_A_ROUND b)) % 65536) :=
  ⟨⟨State.reset.setRegs [(R.SYN_BAR_A_STATE 7, 1)], 7, by and_intros <;> decide +kernel⟩,
   ⟨State.reset, 7, by decide +kernel⟩,
   ⟨State.reset.setRegs [(R.SYN_BAR_A_STATE 7, 1), (R.SYN_BAR_A_ARRIVED 7, 1)], 7, by decide +kernel⟩,
   ⟨State.reset.setRegs [(R.SYN_BAR_A_STATE 7, 1), (R.SYN_BAR_B_EARLY 7, 1)], 7, by decide +kernel⟩,
   ⟨State.reset, 7, ⟨1, 2, 0⟩, by decide +kernel⟩,
   ⟨State.reset.setRegs [(R.SYN_BAR_A_STATE 7, 1), (R.SYN_BAR_A_ROUND 7, 5)], 7, ⟨1, 2, 4⟩, by and_intros <;> decide +kernel⟩⟩

/-- States that meet the hypotheses of `Barriers` (clauses 8, 9, 10, 11, 12). -/
theorem witness_Barriers_3 :
    (∃ (s : State) (b : Nat) (a : ArriveMsg),
    s.reg (R.SYN_BAR_A_STATE b) ≠ 0 ∧ s.reg (R.SYN_BAR_A_ROUND b) < 65536 ∧ 32768 ≤ (a.round % 65536 + 65536 - s.reg (R.SYN_BAR_A_ROUND b)) % 65536)
    ∧ (∃ (s : State) (b : Nat) (a : ArriveMsg),
    s.reg (R.SYN_BAR_A_STATE b) = 1 ∧ a.round = s.reg (R.SYN_BAR_A_ROUND b) ∧ a.round < 65536 ∧ (s.reg (R.SYN_BAR_A_ARRIVED b) + 1) % 65536 ≠ s.reg (R.SYN_BAR_A_PARTICIPANTS b) ∧ keysRise s.regs = true)
    ∧ (∃ (s : State) (b : Nat) (a : ArriveMsg),
    s.reg (R.SYN_BAR_A_STATE b) = 1 ∧ a.round = s.reg (R.SYN_BAR_A_ROUND b) ∧ a.round < 65536 ∧ (s.reg (R.SYN_BAR_A_ARRIVED b) + 1) % 65536 = s.reg (R.SYN_BAR_A_PARTICIPANTS b) ∧ keysRise s.regs = true)
    ∧ (∃ (s : State) (b : Nat) (a : ArriveMsg),
    s.reg (R.SYN_BAR_A_STATE b) = 2 ∧ a.round = s.reg (R.SYN_BAR_A_ROUND b) ∧ a.round < 65536)
    ∧ (∃ (s : State) (b : Nat) (a : ArriveMsg),
    s.reg (R.SYN_BAR_A_STATE b) ≠ 0 ∧ s.reg (R.SYN_BAR_A_ROUND b) < 65536 ∧ a.round % 65536 = (s.reg (R.SYN_BAR_A_ROUND b) + 1) % 65536)
    ∧ (∃ (s : State) (b : Nat) (a : ArriveMsg),
    s.reg (R.SYN_BAR_A_STATE b) ≠ 0 ∧ s.reg (R.SYN_BAR_A_ROUND b) < 65536 ∧ a.round % 65536 = (s.reg (R.SYN_BAR_A_ROUND b) + 1) % 65536) :=
  ⟨⟨State.reset.setRegs [(R.SYN_BAR_A_STATE 7, 1), (R.SYN_BAR_A_ROUND 7, 5)], 7, ⟨1, 2, 32773⟩, by and_intros <;> decide +kernel⟩,
   ⟨State.reset.setRegs [(R.SYN_BAR_A_STATE 7, 1), (R.SYN_BAR_A_ROUND 7, 5), (R.SYN_BAR_A_PARTICIPANTS 7, 2)], 7, ⟨1, 2, 5⟩, by and_intros <;> decide +kernel⟩,
   ⟨State.reset.setRegs [(R.SYN_BAR_A_STATE 7, 1), (R.SYN_BAR_A_ROUND 7, 5), (R.SYN_BAR_A_PARTICIPANTS 7, 2), (R.SYN_BAR_A_ARRIVED 7, 1), (R.SYN_BAR_B_MEMBER_COUNT 7, 1)], 7, ⟨1, 2, 5⟩, by and_intros <;> decide +kernel⟩,
   ⟨State.reset.setRegs [(R.SYN_BAR_A_STATE 7, 2), (R.SYN_BAR_A_ROUND 7, 5), (R.SYN_BAR_A_PARTICIPANTS 7, 2)], 7, ⟨1, 2, 5⟩, by and_intros <;> decide +kernel⟩,
   ⟨State.reset.setRegs [(R.SYN_BAR_A_STATE 7, 2), (R.SYN_BAR_A_ROUND 7, 65535), (R.SYN_BAR_A_PARTICIPANTS 7, 2), (R.SYN_BAR_B_EARLY 7, 1)], 7, ⟨1, 2, 0⟩, by and_intros <;> decide +kernel⟩,
   ⟨State.reset.setRegs [(R.SYN_BAR_A_STATE 7, 1), (R.SYN_BAR_A_ROUND 7, 5), (R.SYN_BAR_A_PARTICIPANTS 7, 2), (R.SYN_BAR_B_EARLY 7, 2)], 7, ⟨1, 2, 6⟩, by and_intros <;> decide +kernel⟩⟩

/-- States that meet the hypotheses of `Barriers` (clauses 13, 14, 15, 16). -/
theorem witness_Barriers_4 :
    (∃ (s : State) (src : Nat) (b : Nat) (round : Nat),
    (s.reg (R.SYN_BAR_A_STATE b) ≠ 2 ∨ s.reg (R.SYN_BAR_A_ROUND b) ≠ round ∨ s.syn.ackWait.contains (b, src) = false))
    ∧ (∃ (s : State) (src : Nat) (b : Nat) (round : Nat),
    (s.reg (R.SYN_BAR_A_STATE b) ≠ 2 ∨ s.reg (R.SYN_BAR_A_ROUND b) ≠ round ∨ s.syn.ackWait.contains (b, src) = false))
    ∧ (∃ (s : State) (src : Nat) (b : Nat) (round : Nat),
    (s.reg (R.SYN_BAR_A_STATE b) ≠ 2 ∨ s.reg (R.SYN_BAR_A_ROUND b) ≠ round ∨ s.syn.ackWait.contains (b, src) = false))
    ∧ (∃ (s : State) (src : Nat) (b : Nat) (round : Nat),
    s.reg (R.SYN_BAR_A_STATE b) = 2 ∧ s.reg (R.SYN_BAR_A_ROUND b) = round ∧ s.syn.ackWait.contains (b, src) = true ∧ 1 < s.reg (R.SYN_BAR_B_ACKS_PENDING b))
    ∧ (∃ (s : State) (src : Nat) (b : Nat) (round : Nat),
    s.reg (R.SYN_BAR_A_STATE b) = 2 ∧ s.reg (R.SYN_BAR_A_ROUND b) = round ∧ s.syn.ackWait.contains (b, src) = true ∧ s.reg (R.SYN_BAR_B_ACKS_PENDING b) = 1)
    ∧ (∃ (s : State) (b : Nat),
    s.reg (R.SYN_BAR_B_EARLY b) ≠ s.reg (R.SYN_BAR_A_PARTICIPANTS b) ∧ keysRise s.regs = true) :=
  ⟨⟨State.reset, 4, 7, 5, by decide +kernel⟩,
   ⟨State.reset.setRegs [(R.SYN_BAR_A_STATE 7, 2), (R.SYN_BAR_A_ROUND 7, 5)], 4, 7, 6, by decide +kernel⟩,
   ⟨State.reset.setRegs [(R.SYN_BAR_A_STATE 7, 2), (R.SYN_BAR_A_ROUND 7, 5)], 4, 7, 5, by decide +kernel⟩,
   ⟨(State.reset.setRegs [(R.SYN_BAR_A_STATE 7, 2), (R.SYN_BAR_A_ROUND 7, 5), (R.SYN_BAR_B_ACKS_PENDING 7, 2)]).onSyn fun y => { y with ackWait := [(7, 4)] }, 4, 7, 5, by and_intros <;> decide +kernel⟩,
   ⟨(State.reset.setRegs [(R.SYN_BAR_A_STATE 7, 2), (R.SYN_BAR_A_ROUND 7, 5), (R.SYN_BAR_B_ACKS_PENDING 7, 1), (R.SYN_BAR_A_PARTICIPANTS 7, 2)]).onSyn fun y => { y with ackWait := [(7, 4)] }, 4, 7, 5, by and_intros <;> decide +kernel⟩,
   ⟨State.reset.setRegs [(R.SYN_BAR_A_STATE 7, 2), (R.SYN_BAR_A_ROUND 7, 65535), (R.SYN_BAR_B_EARLY 7, 1), (R.SYN_BAR_A_PARTICIPANTS 7, 2)], 7, by and_intros <;> decide +kernel⟩⟩

/-- States that meet the hypotheses of `Barriers` (clauses 17, 18, 19, 20). -/
theorem witness_Barriers_5 :
    (∃ (s : State) (src : Nat) (b : Nat) (round : Nat),
    (∀ c, c ∈ s.cores → c.wait ≠ some (.barrier src b round)))
    ∧ (∃ (s : State) (src : Nat) (b : Nat) (round : Nat) (c : Core),
    s.cores = [c] ∧ c.wait = some (.barrier src b round))
    ∧ (∃ (s : State) (src : Nat) (b : Nat) (round : Nat) (st : St) (c : Core) (b' : Nat) (r' : Nat),
    s.cores = [c] ∧ c.wait = some (.barrier src b' r'))
    ∧ (∃ (s : State) (src : Nat) (b : Nat) (round : Nat) (st : St),
    s.barrierWaiters src = []) :=
  ⟨⟨State.reset, 4, 7, 5, by decide +kernel⟩,
   ⟨State.reset.putCore { (State.reset.core 2) with ctx := 1, power := .running, pc := 9, wait := some (.barrier 4 7 5) }, 4, 7, 5, { (State.reset.core 2) with ctx := 1, power := .running, pc := 9, wait := some (.barrier 4 7 5) }, by and_intros <;> decide +kernel⟩,
   ⟨State.reset.putCore { (State.reset.core 2) with ctx := 1, power := .running, pc := 9, wait := some (.barrier 4 7 5) }, 4, 9, 1, .nodeResetting, { (State.reset.core 2) with ctx := 1, power := .running, pc := 9, wait := some (.barrier 4 7 5) }, 7, 5, by and_intros <;> decide +kernel⟩,
   ⟨State.reset, 4, 9, 1, .nodeResetting, by decide +kernel⟩⟩

/-- States that meet the hypotheses of `HostRequestChecks` (clauses 1, 2, 3, 4). -/
theorem witness_HostRequestChecks_1 :
    (∃ (s : State) (p : HostPkt) (op : Nat) (fast : Bool) (admin : Bool) (serves : Bool) (lo : Nat) (hi : Nat) (adm : Bool),
    s.hostUp = true ∧ p.formOk = true ∧ s.hears p.net (s.reg R.HCP_PRAYR_UDP_PORT) = true ∧ s.hostEntry p.src = some (lo, hi, adm) ∧ (s.meter p.tenant).enable = false ∧ (s.meter p.tenant).green + 1 < 2 ^ 32 ∧ (s.hcp.cache.any fun c => decide (c.reply.key = p.key)) = false ∧ (s.hcp.exec.any fun e => decide (e.key = p.key)) = false ∧ p.kind = 0 ∧ s.reg R.PHS_VERSIONS_PRAYR_MIN ≤ p.version ∧ p.version ≤ s.reg R.PHS_VERSIONS_PRAYR_MAX ∧ lo ≤ p.tenant ∧ p.tenant ≤ hi ∧ (admin = true → adm = true) ∧ (s.bld.node = .recovery → serves = true) ∧ s.pathUsed fast < pathDepth fast ∧ (fast = false → s.handsOver = false))
    ∧ (∃ (s : State) (p : HostPkt),
    s.hostUp = false)
    ∧ (∃ (s : State) (p : HostPkt),
    s.hostUp = true ∧ (p.formOk = false ∨ s.hears p.net (s.reg R.HCP_PRAYR_UDP_PORT) = false))
    ∧ (∃ (s : State) (p : HostPkt),
    s.hostUp = true ∧ (p.formOk = false ∨ s.hears p.net (s.reg R.HCP_PRAYR_UDP_PORT) = false))
    ∧ (∃ (s : State) (p : HostPkt),
    s.hostUp = true ∧ (p.formOk = false ∨ s.hears p.net (s.reg R.HCP_PRAYR_UDP_PORT) = false))
    ∧ (∃ (s : State) (p : HostPkt),
    s.hostUp = true ∧ p.formOk = true ∧ s.hears p.net (s.reg R.HCP_PRAYR_UDP_PORT) = true ∧ s.hostEntry p.src = none) :=
  ⟨⟨hostNode, pkt0, 1, true, true, true, 0, 65535, true, by and_intros <;> decide +kernel⟩,
   ⟨State.reset, pkt0, by decide +kernel⟩,
   ⟨hostNode, { pkt0 with octets := [] }, by and_intros <;> decide +kernel⟩,
   ⟨hostNode, { pkt0 with net := netTo 5 }, by and_intros <;> decide +kernel⟩,
   ⟨hostNode, { pkt0 with net := { netTo 47213 with vlan := some 3 } }, by and_intros <;> decide +kernel⟩,
   ⟨hostNode, { pkt0 with src := 1 }, by and_intros <;> decide +kernel⟩⟩

/-- States that meet the hypotheses of `HostRequestChecks` (clauses 5, 6, 7, 8, 9, 10). -/
theorem witness_HostRequestChecks_2 :
    (∃ (s : State) (t : State) (p : HostPkt) (e : Nat × Nat × Bool) (c : CachedReply),
    s.screen p true = (some e, t) ∧ (t.hcp.cache.find? fun x => decide (x.reply.key = p.key)) = some c)
    ∧ (∃ (s : State) (t : State) (p : HostPkt) (e : Nat × Nat × Bool),
    s.screen p true = (some e, t) ∧ (t.hcp.cache.find? fun x => decide (x.reply.key = p.key)) = none ∧ (t.hcp.exec.any fun x => decide (x.key = p.key)) = true)
    ∧ (∃ (s : State) (t : State) (p : HostPkt) (e : Nat × Nat × Bool),
    s.screen p true = (some e, t) ∧ (t.hcp.cache.find? fun x => decide (x.reply.key = p.key)) = none ∧ (t.hcp.exec.any fun x => decide (x.key = p.key)) = false ∧ p.kind = 0 ∧ (p.version < t.reg R.PHS_VERSIONS_PRAYR_MIN ∨ t.reg R.PHS_VERSIONS_PRAYR_MAX < p.version))
    ∧ (∃ (s : State) (t : State) (p : HostPkt) (cursor : Nat) (max : Nat) (lo : Nat) (hi : Nat) (adm : Bool),
    s.prayrFront p 0x22 true = (some (lo, hi, adm), t) ∧ (p.tenant < lo ∨ hi < p.tenant ∨ adm = false))
    ∧ (∃ (s : State) (t : State) (p : HostPkt) (op : Nat) (lo : Nat) (hi : Nat) (adm : Bool),
    op ∉ assignedOps ∧ s.prayrFront p op true = (some (lo, hi, adm), t) ∧ lo ≤ p.tenant ∧ p.tenant ≤ hi)
    ∧ (∃ (s : State) (t : State) (p : HostPkt) (id : Nat) (lo : Nat) (hi : Nat) (adm : Bool),
    s.prayrFront p 0x14 true = (some (lo, hi, adm), t) ∧ lo ≤ p.tenant ∧ p.tenant ≤ hi ∧ t.bld.node = .recovery) :=
  ⟨⟨(hostNode.onHcp fun h => { h with cache := [⟨⟨pkt0.key, 1, 1, 0, .ok, [], 0⟩, 9⟩] }), ((hostNode.onHcp fun h => { h with cache := [⟨⟨pkt0.key, 1, 1, 0, .ok, [], 0⟩, 9⟩] }).screen pkt0 true).2, pkt0, (0, 65535, true), ⟨⟨pkt0.key, 1, 1, 0, .ok, [], 0⟩, 9⟩, by and_intros <;> decide +kernel⟩,
   ⟨(hostNode.onHcp fun h => { h with exec := [⟨0, pkt0.key, 1, 1, 0, true, 0⟩] }), ((hostNode.onHcp fun h => { h with exec := [⟨0, pkt0.key, 1, 1, 0, true, 0⟩] }).screen pkt0 true).2, pkt0, (0, 65535, true), by and_intros <;> decide +kernel⟩,
   ⟨hostNode, (hostNode.screen { pkt0 with version := 99 } true).2, { pkt0 with version := 99 }, (0, 65535, true), by and_intros <;> decide +kernel⟩,
   ⟨(hostNode.setRegs [(R.HCP_HOST_A_VALID 3, 1), (R.HCP_HOST_A_TENANT_HI 3, 4)]), ((hostNode.setRegs [(R.HCP_HOST_A_VALID 3, 1), (R.HCP_HOST_A_TENANT_HI 3, 4)]).prayrFront pkt0 0x22 true).2, pkt0, 0, 1, 0, 4, false, by and_intros <;> decide +kernel⟩,
   ⟨hostNode, (hostNode.prayrFront pkt0 0x77 true).2, pkt0, 0x77, 0, 65535, true, by and_intros <;> decide +kernel⟩,
   ⟨(hostNode.onBld fun b => { b with node := .recovery }), ((hostNode.onBld fun b => { b with node := .recovery }).prayrFront pkt0 0x14 true).2, pkt0, 5, 0, 65535, true, by and_intros <;> decide +kernel⟩⟩

/-- States that meet the hypotheses of `HostRequestChecks` (clauses 11, 12, 13, 14, 15). -/
theorem witness_HostRequestChecks_3 :
    (∃ (s : State) (t : State) (p : HostPkt) (id : Nat) (lo : Nat) (hi : Nat) (adm : Bool),
    s.prayrFront p 0x14 true = (some (lo, hi, adm), t) ∧ lo ≤ p.tenant ∧ p.tenant ≤ hi ∧ t.bld.node ≠ .recovery ∧ pathDepth true ≤ t.pathUsed true)
    ∧ (∃ (s : State) (t : State) (p : HostPkt) (id : Nat) (lo : Nat) (hi : Nat) (adm : Bool),
    s.prayrFront p 0x14 true = (some (lo, hi, adm), t) ∧ lo ≤ p.tenant ∧ p.tenant ≤ hi ∧ t.bld.node ≠ .recovery ∧ t.pathUsed true < pathDepth true ∧ p.payloadOk = false)
    ∧ (∃ (s : State) (p : HostPkt),
    s.hostUp = true ∧ p.formOk = true ∧ s.hears p.net (s.reg R.HCP_PRAYR_UDP_PORT) = true ∧ (s.hostEntry p.src).isSome = true ∧ (s.meter p.tenant).enable = true ∧ ((s.meter p.tenant).refill s.aon).tp < Meter.grain ∧ (s.meter p.tenant).bytes = false)
    ∧ (∃ (s : State) (t : State) (p : HostPkt) (v : Nat) (lo : Nat) (hi : Nat),
    s.prayrFront p 0x30 false = (some (lo, hi, true), t) ∧ lo ≤ p.tenant ∧ p.tenant ≤ hi ∧ t.bld.node ≠ .recovery ∧ t.handsOver = true ∧ t.pathUsed false < pathDepth false)
    ∧ (∃ (m : Meter) (now : Nat),
    m.bytes = false ∧ m.at_ ≤ now ∧ m.tc + m.cir * 65536 * (now - m.at_) ≤ m.cbs * Meter.grain) :=
  ⟨⟨(hostNode.onHcp fun h => { h with exec := List.replicate 16384 ⟨0, ⟨0, 0, 0, 0⟩, 1, 1, 0, true, 0⟩ }), ((hostNode.onHcp fun h => { h with exec := List.replicate 16384 ⟨0, ⟨0, 0, 0, 0⟩, 1, 1, 0, true, 0⟩ }).prayrFront pkt0 0x14 true).2, pkt0, 5, 0, 65535, true, by and_intros <;> decide +kernel⟩,
   ⟨hostNode, (hostNode.prayrFront ({ pkt0 with payloadOk := false }) 0x14 true).2, { pkt0 with payloadOk := false }, 5, 0, 65535, true, by and_intros <;> decide +kernel⟩,
   ⟨hostNode.putMeter { hostNode.meter 0 with enable := true }, pkt0, by and_intros <;> decide +kernel⟩,
   ⟨(hostNode.onBld fun b => { b with node := .ready, hcpSince := some 0 }), ((hostNode.onBld fun b => { b with node := .ready, hcpSince := some 0 }).prayrFront pkt0 0x30 false).2, pkt0, 5, 0, 65535, by and_intros <;> decide +kernel⟩,
   ⟨{ hostNode.meter 0 with bytes := false, cir := 5, cbs := 9, tc := 0, at_ := 0 }, 3, by and_intros <;> decide +kernel⟩⟩

/-- States that meet the hypotheses of `HostQueries` (clauses 1, 2, 3, 4, 5, 6). -/
theorem witness_HostQueries_1 :
    (∃ (s : State) (t : State) (p : HostPkt) (ref : Nat) (data : List Byte),
    s.accept? p 0x00 true false true = some (ref, t) ∧ p.payloadOk = true ∧ data.length ≤ 1024)
    ∧ (∃ (s : State) (t : State) (p : HostPkt) (ref : Nat),
    s.accept? p 0x01 true false true = some (ref, t) ∧ p.payloadOk = true)
    ∧ (∃ (s : State) (t : State) (p : HostPkt) (ref : Nat) (cursor : Nat) (max : Nat),
    s.accept? p 0x22 true true true = some (ref, t) ∧ p.payloadOk = true ∧ 1 ≤ max ∧ max ≤ 32)
    ∧ (∃ (s : State) (t : State) (p : HostPkt) (ref : Nat) (addr : Nat) (v : Nat),
    s.accept? p 0x20 true true true = some (ref, t) ∧ p.payloadOk = true ∧ (t.csrRead addr).1 = .ok v)
    ∧ (∃ (s : State) (t : State) (p : HostPkt) (ref : Nat) (node : Nat) (addr : Nat) (n : Nat),
    s.accept? p 0x20 false true true = some (ref, t) ∧ p.payloadOk = true ∧ node ≠ s.node ∧ 1 ≤ n ∧ n ≤ 64)
    ∧ (∃ (s : State) (t : State) (p : HostPkt) (ref : Nat) (addr : Nat) (v : Nat),
    s.accept? p 0x21 true true (decide (0x10000 ≤ addr ∧ addr + 8 ≤ 0x20000)) = some (ref, t) ∧ p.payloadOk = true ∧ t.regionGuarded addr [v] = none ∧ (t.csrWrite false addr v).2 = .ok) :=
  ⟨⟨hostNode, accepted (hostNode) 0 true false true, pkt0, hostNode.hcp.nextRef, [1, 2], by and_intros <;> decide +kernel⟩,
   ⟨hostNode, accepted (hostNode) 1 true false true, pkt0, hostNode.hcp.nextRef, by and_intros <;> decide +kernel⟩,
   ⟨hostNode, accepted (hostNode) 0x22 true true true, pkt0, hostNode.hcp.nextRef, 0, 32, by and_intros <;> decide +kernel⟩,
   ⟨hostNode, accepted (hostNode) 0x20 true true true, pkt0, hostNode.hcp.nextRef, 0x10000, ((accepted (hostNode) 0x20 true true true).rawReg 0x10000), by and_intros <;> decide +kernel⟩,
   ⟨hostNode, accepted (hostNode) 0x20 false true true, pkt0, hostNode.hcp.nextRef, hostNode.node + 1, 0x10000, 2, by and_intros <;> decide +kernel⟩,
   ⟨hostNode, accepted (hostNode) 0x21 true true false, pkt0, hostNode.hcp.nextRef, 0x400028, 7, by and_intros <;> decide +kernel⟩⟩

/-- States that meet the hypotheses of `HostQueries` (clauses 7, 8, 9). -/
theorem witness_HostQueries_2 :
    (∃ (s : State) (t : State) (p : HostPkt) (ref : Nat) (node : Nat) (addr : Nat) (v : Nat),
    s.accept? p 0x21 false true false = some (ref, t) ∧ p.payloadOk = true ∧ node ≠ s.node)
    ∧ (∃ (s : State) (t : State) (p : HostPkt) (ref : Nat) (value : Nat),
    s.accept? p 0x30 false true false = some (ref, t) ∧ p.payloadOk = true ∧ t.roleLicensed (bitsOf value 60 58) = true ∧ phasePermits (bitsOf value 62 61) (bitsOf value 60 58) = true ∧ t.turning = false)
    ∧ (∃ (s : State) (t : State) (p : HostPkt) (ref : Nat) (value : Nat),
    s.accept? p 0x30 false true false = some (ref, t) ∧ p.payloadOk = true ∧ t.roleLicensed (bitsOf value 60 58) = true ∧ phasePermits (bitsOf value 62 61) (bitsOf value 60 58) = false) :=
  ⟨⟨hostNode, accepted (hostNode) 0x21 false true false, pkt0, hostNode.hcp.nextRef, hostNode.node + 1, 0x400028, 7, by and_intros <;> decide +kernel⟩,
   ⟨hostNode.setReg R.CAP_FEATURES_ROLE_CACHE 1, accepted (hostNode.setReg R.CAP_FEATURES_ROLE_CACHE 1) 0x30 false true false, pkt0, hostNode.hcp.nextRef, 3 * 2 ^ 58, by and_intros <;> decide +kernel⟩,
   ⟨hostNode.setReg R.CAP_FEATURES_ROLE_CACHE 1, accepted (hostNode.setReg R.CAP_FEATURES_ROLE_CACHE 1) 0x30 false true false, pkt0, hostNode.hcp.nextRef, 3 * 2 ^ 58 + 3 * 2 ^ 61, by and_intros <;> decide +kernel⟩⟩

/-- States that meet the hypotheses of `HostRequestCommands` (clauses 1, 2). -/
theorem witness_HostRequestCommands_1 :
    (∃ (s : State) (t : State) (p : HostPkt) (ref : Nat) (op : Nat) (fast : Bool) (admin : Bool) (c : Instr) (f : FwdCmd) (id : Nat) (n : Nat),
    (c, f, op, fast, admin) ∈ [(Instr.cancel p id, FwdCmd.cancel id, 0x11, true, false), (.pause p id n, .pause id n, 0x12, true, false), (.queryReq p id, .query id, 0x14, true, false), (.setTtl p id n, .setTtl id n, 0x16, false, false), (.move p id n, .move id n, 0x17, false, true)] ∧ s.accept? p op fast admin false = some (ref, t) ∧ p.payloadOk = true)
    ∧ (∃ (s : State) (t : State) (p : HostPkt) (ref : Nat) (op : Nat) (fast : Bool) (admin : Bool) (c : Instr) (f : FwdCmd) (id : Nat) (n : Nat),
    (c, f, op, fast, admin) ∈ [(Instr.cancel p id, FwdCmd.cancel id, 0x11, true, false), (.pause p id n, .pause id n, 0x12, true, false), (.queryReq p id, .query id, 0x14, true, false), (.setTtl p id n, .setTtl id n, 0x16, false, false), (.move p id n, .move id n, 0x17, false, true)] ∧ s.accept? p op fast admin false = some (ref, t) ∧ p.payloadOk = true)
    ∧ (∃ (s : State) (t : State) (p : HostPkt) (ref : Nat) (op : Nat) (fast : Bool) (admin : Bool) (c : Instr) (f : FwdCmd) (id : Nat) (n : Nat),
    (c, f, op, fast, admin) ∈ [(Instr.cancel p id, FwdCmd.cancel id, 0x11, true, false), (.pause p id n, .pause id n, 0x12, true, false), (.queryReq p id, .query id, 0x14, true, false), (.setTtl p id n, .setTtl id n, 0x16, false, false), (.move p id n, .move id n, 0x17, false, true)] ∧ s.accept? p op fast admin false = some (ref, t) ∧ p.payloadOk = true)
    ∧ (∃ (s : State) (t : State) (p : HostPkt) (ref : Nat) (op : Nat) (fast : Bool) (admin : Bool) (c : Instr) (f : FwdCmd) (id : Nat) (n : Nat),
    (c, f, op, fast, admin) ∈ [(Instr.cancel p id, FwdCmd.cancel id, 0x11, true, false), (.pause p id n, .pause id n, 0x12, true, false), (.queryReq p id, .query id, 0x14, true, false), (.setTtl p id n, .setTtl id n, 0x16, false, false), (.move p id n, .move id n, 0x17, false, true)] ∧ s.accept? p op fast admin false = some (ref, t) ∧ p.payloadOk = true)
    ∧ (∃ (s : State) (t : State) (p : HostPkt) (ref : Nat) (op : Nat) (fast : Bool) (admin : Bool) (c : Instr) (f : FwdCmd) (id : Nat) (n : Nat),
    (c, f, op, fast, admin) ∈ [(Instr.cancel p id, FwdCmd.cancel id, 0x11, true, false), (.pause p id n, .pause id n, 0x12, true, false), (.queryReq p id, .query id, 0x14, true, false), (.setTtl p id n, .setTtl id n, 0x16, false, false), (.move p id n, .move id n, 0x17, false, true)] ∧ s.accept? p op fast admin false = some (ref, t) ∧ p.payloadOk = true)
    ∧ (∃ (s : State) (c : FwdCmd) (tenant : Nat) (ref : Nat) (st : St) (w : Work),
    s.work? c.id = some w ∧ w.r.mirrored = true ∧ s.isUnreachable w.r.deputy = false ∧ w.r.deputy ≠ s.node) :=
  ⟨⟨hostNode.putHome home0, accepted (hostNode.putHome home0) 0x11 true false false, pkt0, hostNode.hcp.nextRef, 0x11, true, false, .cancel pkt0 5, .cancel 5, 5, 7, by and_intros <;> decide +kernel⟩,
   ⟨hostNode.putHome home0, accepted (hostNode.putHome home0) 0x12 true false false, pkt0, hostNode.hcp.nextRef, 0x12, true, false, .pause pkt0 5 7, .pause 5 7, 5, 7, by and_intros <;> decide +kernel⟩,
   ⟨hostNode.putHome home0, accepted (hostNode.putHome home0) 0x14 true false false, pkt0, hostNode.hcp.nextRef, 0x14, true, false, .queryReq pkt0 5, .query 5, 5, 7, by and_intros <;> decide +kernel⟩,
   ⟨hostNode.putHome home0, accepted (hostNode.putHome home0) 0x16 false false false, pkt0, hostNode.hcp.nextRef, 0x16, false, false, .setTtl pkt0 5 7, .setTtl 5 7, 5, 7, by and_intros <;> decide +kernel⟩,
   ⟨hostNode.putHome home0, accepted (hostNode.putHome home0) 0x17 false true false, pkt0, hostNode.hcp.nextRef, 0x17, false, true, .move pkt0 5 7, .move 5 7, 5, 7, by and_intros <;> decide +kernel⟩,
   ⟨withWork { work0 with r := { rec0 with deputy := 9, mirrored := true } }, .query 5, 0, 3, .nodeUnreachable, { work0 with r := { rec0 with deputy := 9, mirrored := true } }, by and_intros <;> decide +kernel⟩⟩

/-- States that meet the hypotheses of `HostRequestCommands` (clauses 3, 4, 5, 6, 7, 8). -/
theorem witness_HostRequestCommands_2 :
    (∃ (s : State) (c : FwdCmd) (tenant : Nat) (ref : Nat) (st : St),
    s.work? c.id = none)
    ∧ (∃ (s : State) (t : State) (p : HostPkt) (ref : Nat) (b : ResumeBlock) (tokens : List Nat),
    s.accept? p 0x13 true false false = some (ref, t) ∧ p.payloadOk = true ∧ tokens.length = (if b.promptSrc = 0 then b.promptLength else 0) ∧ t.isHome b.id = true ∧ t.transitOnly = false)
    ∧ (∃ (s : State) (c : FwdCmd) (tenant : Nat) (rep : ReplyTo),
    s.home? c.id = none)
    ∧ (∃ (s : State) (c : FwdCmd) (tenant : Nat) (rep : ReplyTo) (h : HomeRec),
    s.home? c.id = some h ∧ h.checkOk = true ∧ h.r.state ≠ .free ∧ h.r.tenant ≠ tenant)
    ∧ (∃ (s : State) (id : Nat) (rep : ReplyTo) (h : HomeRec),
    s.home? id = some h ∧ h.checkOk = true ∧ h.r.state = .queued ∧ h.placing = none)
    ∧ (∃ (s : State) (id : Nat) (ttl : Nat) (rep : ReplyTo) (h : HomeRec),
    s.home? id = some h ∧ h.checkOk = true ∧ h.r.state = .decode ∧ ttl ≤ s.reg R.RSE_TTL_TTL_MAX) :=
  ⟨⟨State.reset, .query 5, 0, 3, .nodeUnreachable, by decide +kernel⟩,
   ⟨hostNode.putHome home0, accepted (hostNode.putHome home0) 0x13 true false false, pkt0, hostNode.hcp.nextRef, resume0, [7], by and_intros <;> decide +kernel⟩,
   ⟨State.reset, .query 5, 0, .here 0, by decide +kernel⟩,
   ⟨hostNode.putHome home0, .query 5, 1, .here 0, home0, by and_intros <;> decide +kernel⟩,
   ⟨withHome { home0 with r := { rec0 with state := .queued } }, 5, .here 0, { home0 with r := { rec0 with state := .queued } }, by and_intros <;> decide +kernel⟩,
   ⟨withHome home0, 5, 0, .here 0, home0, by and_intros <;> decide +kernel⟩⟩

/-- States that meet the hypotheses of `HostRequestCommands` (clauses 9, 10, 11, 12, 13, 14). -/
theorem witness_HostRequestCommands_3 :
    (∃ (s : State) (b : ResumeBlock) (tokens : List Nat) (rep : ReplyTo) (h : HomeRec),
    s.home? b.id = some h ∧ h.checkOk = true ∧ h.r.state = .paused)
    ∧ (∃ (s : State) (c : FwdCmd) (tenant : Nat) (rep : ReplyTo) (h : HomeRec),
    s.home? c.id = some h ∧ h.checkOk = false)
    ∧ (∃ (s : State) (id : Nat) (rep : ReplyTo) (h : HomeRec),
    s.home? id = some h ∧ h.checkOk = true ∧ h.r.state ≠ .free)
    ∧ (∃ (s : State) (id : Nat) (ttl : Nat) (rep : ReplyTo) (h : HomeRec),
    s.home? id = some h ∧ h.checkOk = true ∧ h.r.state = .paused ∧ s.reg R.RSE_TTL_TTL_MAX < ttl)
    ∧ (∃ (s : State) (id : Nat) (dest : Nat) (rep : ReplyTo) (h : HomeRec),
    s.home? id = some h ∧ h.checkOk = true ∧ h.r.state = .decode ∧ h.r.owner ≠ dest)
    ∧ (∃ (s : State) (t : State) (p : HostPkt) (ref : Nat) (b : SubmitBlock) (tokens : List Nat),
    s.accept? p 0x10 true false false = some (ref, t) ∧ p.payloadOk = true ∧ t.admitting = false) :=
  ⟨⟨withHome { home0 with r := { rec0 with state := .paused } }, resume0, [7], .here 0, { home0 with r := { rec0 with state := .paused } }, by and_intros <;> decide +kernel⟩,
   ⟨hostNode.putHome { home0 with checkOk := false }, .query 5, 1, .here 0, { home0 with checkOk := false }, by and_intros <;> decide +kernel⟩,
   ⟨withHome home0, 5, .here 0, home0, by and_intros <;> decide +kernel⟩,
   ⟨withHome { home0 with r := { rec0 with state := .paused } }, 5, 2 ^ 24, .here 0, { home0 with r := { rec0 with state := .paused } }, by and_intros <;> decide +kernel⟩,
   ⟨withHome home0, 5, State.reset.node + 1, .here 0, home0, by and_intros <;> decide +kernel⟩,
   ⟨hostNode, accepted (hostNode) 0x10 true false false, pkt0, hostNode.hcp.nextRef, block0, [7], by and_intros <;> decide +kernel⟩⟩

/-- States that meet the hypotheses of `HostRequestCommands` (clauses 15, 17, 18, 19, 20, 21). -/
theorem witness_HostRequestCommands_4 :
    (∃ (s : State) (t : State) (p : HostPkt) (ref : Nat) (b : SubmitBlock) (tokens : List Nat) (id : Nat) (v : State) (w : State),
    s.accept? p 0x10 true false false = some (ref, t) ∧ p.payloadOk = true ∧ (let u := t.freeSlot.2; let ps := ((u.model? b.modelId).map (·.pageSize)).getD 0; t.submitCheck b p.tenant tokens (t.freeSlot.1 && (u.framesFit ps (u.promptPages b) && u.promptPages b + u.reservedEntries ≤ u.freeEntries)) = none ∧ b.promptSrc = 0 ∧ u.newId = (id, v) ∧ v.writeHistory (v.submitRecord b id p.tenant p.src p.port ps tokens) tokens = some w))
    ∧ (∃ (s : State) (new : HomeRec) (c : Change),
    s.mirrors new.r.id = false)
    ∧ (∃ (s : State) (id : Nat) (ref : Nat) (h : HomeRec),
    s.home? id = some h)
    ∧ (∃ (s : State),
    s.rse.nextCount < 2 ^ 32)
    ∧ (∃ (s : State) (ref : Nat) (st : St) (tokens : List Nat),
    s.hcp.qps = [] ∧ s.hcp.later = [])
    ∧ (∃ (s : State) (ref : Nat) (tenant : Nat) (src : Nat) (port : Nat) (ps : Nat) (b : SubmitBlock) (st : St) (tokens : List Nat),
    s.hcp.qps = [] ∧ s.hcp.later = [.submit ref b tenant src port ps] ∧ (st ≠ .ok ∨ tokens.length ≠ b.promptLength)) :=
  ⟨⟨submitting, (accepted submitting 0x10 true false false), pkt0, hostNode.hcp.nextRef, block0, [7], (accepted submitting 0x10 true false false).freeSlot.2.newId.1, (accepted submitting 0x10 true false false).freeSlot.2.newId.2, ((accepted submitting 0x10 true false false).freeSlot.2.newId.2.writeHistory ((accepted submitting 0x10 true false false).freeSlot.2.newId.2.submitRecord block0 (accepted submitting 0x10 true false false).freeSlot.2.newId.1 pkt0.tenant pkt0.src pkt0.port ((((accepted submitting 0x10 true false false).freeSlot.2.model? block0.modelId).map (·.pageSize)).getD 0) [7]) [7]).getD State.reset, by and_intros <;> first | decide +kernel | exact rfl | exact opt_getD ((accepted submitting 0x10 true false false).freeSlot.2.newId.2.writeHistory ((accepted submitting 0x10 true false false).freeSlot.2.newId.2.submitRecord block0 (accepted submitting 0x10 true false false).freeSlot.2.newId.1 pkt0.tenant pkt0.src pkt0.port ((((accepted submitting 0x10 true false false).freeSlot.2.model? block0.modelId).map (·.pageSize)).getD 0) [7]) [7]) State.reset (by decide +kernel)⟩,
   ⟨State.reset, home0, .note, by decide +kernel⟩,
   ⟨withHome home0, 5, 2, home0, by decide +kernel⟩,
   ⟨(State.reset.onRse fun e => { e with bind := .copying }), by decide +kernel⟩,
   ⟨State.reset, 3, .ok, [], by and_intros <;> decide +kernel⟩,
   ⟨State.reset.onHcp fun h => { h with later := [.submit 3 block0 0 1 1 0] }, 3, 0, 1, 1, 0, block0, .hostReadFailed, [], by decide +kernel, by decide +kernel, Or.inl (by decide)⟩⟩

/-- States that meet the hypotheses of `HostRequestCommands` (clauses 21, 22, 23, 24, 25, 26). -/
theorem witness_HostRequestCommands_5 :
    (∃ (s : State) (ref : Nat) (tenant : Nat) (src : Nat) (port : Nat) (ps : Nat) (b : SubmitBlock) (st : St) (tokens : List Nat),
    s.hcp.qps = [] ∧ s.hcp.later = [.submit ref b tenant src port ps] ∧ (st ≠ .ok ∨ tokens.length ≠ b.promptLength))
    ∧ (∃ (s : State) (ref : Nat) (tenant : Nat) (src : Nat) (port : Nat) (ps : Nat) (b : SubmitBlock) (tokens : List Nat) (id : Nat) (v : State) (w : State),
    s.hcp.qps = [] ∧ s.hcp.later = [.submit ref b tenant src port ps] ∧ tokens.length = b.promptLength ∧ ((s.unreserve (2 ^ 64 + ref)).onHcp fun h => { h with later := [] }).newId = (id, v) ∧ v.writeHistory (v.submitRecord b id tenant src port ps tokens) tokens = some w)
    ∧ (∃ (s : State) (ref : Nat) (tenant : Nat) (b : ResumeBlock) (rep : ReplyTo) (st : St) (tokens : List Nat),
    s.hcp.qps = [] ∧ s.hcp.later = [.resume ref b tenant rep])
    ∧ (∃ (s : State) (t : State) (p : HostPkt) (ref : Nat) (id : Nat) (h : HomeRec),
    s.accept? p 0x11 true false false = some (ref, t) ∧ p.payloadOk = true ∧ t.isHome id = true ∧ t.transitOnly = false ∧ t.home? id = some h ∧ h.checkOk = true ∧ h.r.tenant = p.tenant ∧ (h.r.state = .queued ∨ h.r.state = .paused ∨ h.r.state = .parked) ∧ h.placing = none)
    ∧ (∃ (s : State) (t : State) (p : HostPkt) (ref : Nat) (id : Nat) (h : HomeRec),
    s.accept? p 0x11 true false false = some (ref, t) ∧ p.payloadOk = true ∧ t.isHome id = true ∧ t.transitOnly = false ∧ t.home? id = some h ∧ h.checkOk = true ∧ h.r.tenant = p.tenant ∧ h.r.state = .decode)
    ∧ (∃ (s : State) (t : State) (p : HostPkt) (ref : Nat) (id : Nat) (ttl : Nat) (h : HomeRec),
    s.accept? p 0x12 true false false = some (ref, t) ∧ p.payloadOk = true ∧ t.isHome id = true ∧ t.transitOnly = false ∧ t.home? id = some h ∧ h.checkOk = true ∧ h.r.tenant = p.tenant ∧ h.r.state = .decode ∧ ttl ≤ t.reg R.RSE_TTL_TTL_MAX) :=
  ⟨⟨State.reset.onHcp fun h => { h with later := [.submit 3 block0 0 1 1 0] }, 3, 0, 1, 1, 0, block0, .ok, [], by decide +kernel, by decide +kernel, Or.inr (by decide)⟩,
   ⟨(serving.onHcp fun h => { h with later := [.submit 3 block0 0 1 1 0] }), 3, 0, 1, 1, 0, block0, [7], (((serving.onHcp fun h => { h with later := [.submit 3 block0 0 1 1 0] }).unreserve (2 ^ 64 + 3)).onHcp fun h => { h with later := [] }).newId.1, (((serving.onHcp fun h => { h with later := [.submit 3 block0 0 1 1 0] }).unreserve (2 ^ 64 + 3)).onHcp fun h => { h with later := [] }).newId.2, ((((serving.onHcp fun h => { h with later := [.submit 3 block0 0 1 1 0] }).unreserve (2 ^ 64 + 3)).onHcp fun h => { h with later := [] }).newId.2.writeHistory ((((serving.onHcp fun h => { h with later := [.submit 3 block0 0 1 1 0] }).unreserve (2 ^ 64 + 3)).onHcp fun h => { h with later := [] }).newId.2.submitRecord block0 (((serving.onHcp fun h => { h with later := [.submit 3 block0 0 1 1 0] }).unreserve (2 ^ 64 + 3)).onHcp fun h => { h with later := [] }).newId.1 0 1 1 0 [7]) [7]).getD State.reset, by decide +kernel, by decide +kernel, by decide +kernel, rfl, opt_getD _ _ (by decide +kernel)⟩,
   ⟨State.reset.onHcp fun h => { h with later := [.resume 3 resume0 0 (.here 3)] }, 3, 0, resume0, .here 3, .hostReadFailed, [], by and_intros <;> decide +kernel⟩,
   ⟨((hostNode.putHome { home0 with r := { rec0 with state := .paused } })), accepted ((hostNode.putHome { home0 with r := { rec0 with state := .paused } })) 0x11 true false false, pkt0, hostNode.hcp.nextRef, 5, { home0 with r := { rec0 with state := .paused } }, by and_intros <;> decide +kernel⟩,
   ⟨((hostNode.putHome home0)), accepted ((hostNode.putHome home0)) 0x11 true false false, pkt0, hostNode.hcp.nextRef, 5, home0, by and_intros <;> decide +kernel⟩,
   ⟨((hostNode.putHome home0)), accepted ((hostNode.putHome home0)) 0x12 true false false, pkt0, hostNode.hcp.nextRef, 5, 0, home0, by and_intros <;> decide +kernel⟩⟩

/-- States that meet the hypotheses of `HostRequestCommands` (clauses 27, 28, 29, 30, 31, 32). -/
theorem witness_HostRequestCommands_6 :
    (∃ (s : State) (t : State) (p : HostPkt) (ref : Nat) (id : Nat) (h : HomeRec),
    s.accept? p 0x14 true false false = some (ref, t) ∧ p.payloadOk = true ∧ t.isHome id = true ∧ t.transitOnly = false ∧ t.home? id = some h ∧ h.checkOk = true ∧ h.r.tenant = p.tenant ∧ h.r.state ≠ .free)
    ∧ (∃ (s : State) (t : State) (p : HostPkt) (ref : Nat) (id : Nat) (ttl : Nat) (h : HomeRec),
    s.accept? p 0x16 false false false = some (ref, t) ∧ p.payloadOk = true ∧ t.isHome id = true ∧ t.transitOnly = false ∧ t.home? id = some h ∧ h.checkOk = true ∧ h.r.tenant = p.tenant ∧ h.r.state = .paused ∧ ttl ≤ t.reg R.RSE_TTL_TTL_MAX)
    ∧ (∃ (s : State) (t : State) (p : HostPkt) (ref : Nat) (id : Nat) (dest : Nat) (h : HomeRec),
    s.accept? p 0x17 false true false = some (ref, t) ∧ p.payloadOk = true ∧ t.isHome id = true ∧ t.transitOnly = false ∧ t.home? id = some h ∧ h.checkOk = true ∧ h.r.tenant = p.tenant ∧ h.r.state = .decode ∧ h.r.owner ≠ dest)
    ∧ (∃ (s : State) (h : HomeRec) (b : ResumeBlock) (tokens : List Nat) (rep : ReplyTo) (u : State),
    s.pendingChange h.r.id = false ∧ h.deferred = none ∧ s.mustRebase h.r = false ∧ h.r.state = .paused ∧ b.rsvdOk = true ∧ b.promptSrc ≤ 1 ∧ b.promptLength ≤ 16777216 ∧ 0 < b.maxNew ∧ b.ttl ≤ s.reg R.RSE_TTL_TTL_MAX ∧ tokens.length = b.promptLength ∧ (let hist := h.history.take (h.r.historyLength + h.r.genCommitted) ++ tokens; let r : Record := { h.r with historyLength := h.r.historyLength + h.r.genCommitted + b.promptLength, genCommitted := 0, streamed := 0, stepCount := 0, maxNewTokens := b.maxNew, ttlTicks := b.ttl, replyStream := b.replyStream, state := .queued, lastToken := if b.promptLength = 0 then h.r.lastToken else tokens.getLastD 0 }; s.writeHistory r hist = some u))
    ∧ (∃ (s : State) (t : State) (p : HostPkt) (ref : Nat) (b : ResumeBlock) (tokens : List Nat) (h : HomeRec) (u : State),
    s.accept? p 0x13 true false false = some (ref, t) ∧ p.payloadOk = true ∧ t.isHome b.id = true ∧ t.transitOnly = false ∧ t.home? b.id = some h ∧ h.checkOk = true ∧ h.r.tenant = p.tenant ∧ t.reg R.PHS_PHASE_STATE = 0 ∧ t.pendingChange h.r.id = false ∧ h.deferred = none ∧ t.mustRebase h.r = false ∧ h.r.state = .paused ∧ b.rsvdOk = true ∧ b.promptSrc = 0 ∧ b.promptLength ≤ 16777216 ∧ 0 < b.maxNew ∧ b.ttl ≤ t.reg R.RSE_TTL_TTL_MAX ∧ tokens.length = b.promptLength ∧ (let hist := h.history.take (h.r.historyLength + h.r.genCommitted) ++ tokens; let r : Record := { h.r with historyLength := h.r.historyLength + h.r.genCommitted + b.promptLength, genCommitted := 0, streamed := 0, stepCount := 0, maxNewTokens := b.maxNew, ttlTicks := b.ttl, replyStream := b.replyStream, state := .queued, lastToken := if b.promptLength = 0 then h.r.lastToken else tokens.getLastD 0 }; t.writeHistory r hist = some u))
    ∧ (∃ (s : State) (ref : Nat) (b : ResumeBlock) (tokens : List Nat) (rep : ReplyTo) (h : HomeRec) (u : State),
    s.hcp.qps = [] ∧ s.hcp.later = [.resume ref b h.r.tenant rep] ∧ s.home? b.id = some h ∧ h.checkOk = true ∧ s.reg R.PHS_PHASE_STATE = 0 ∧ s.pendingChange h.r.id = false ∧ h.deferred = none ∧ s.mustRebase h.r = false ∧ h.r.state = .paused ∧ b.rsvdOk = true ∧ b.promptSrc ≤ 1 ∧ b.promptLength ≤ 16777216 ∧ 0 < b.maxNew ∧ b.ttl ≤ s.reg R.RSE_TTL_TTL_MAX ∧ tokens.length = b.promptLength ∧ (let t := s.onHcp fun h => { h with later := [] }; let hist := h.history.take (h.r.historyLength + h.r.genCommitted) ++ tokens; let r : Record := { h.r with historyLength := h.r.historyLength + h.r.genCommitted + b.promptLength, genCommitted := 0, streamed := 0, stepCount := 0, maxNewTokens := b.maxNew, ttlTicks := b.ttl, replyStream := b.replyStream, state := .queued, lastToken := if b.promptLength = 0 then h.r.lastToken else tokens.getLastD 0 }; t.writeHistory r hist = some u)) :=
  ⟨⟨((hostNode.putHome home0)), accepted ((hostNode.putHome home0)) 0x14 true false false, pkt0, hostNode.hcp.nextRef, 5, home0, by and_intros <;> decide +kernel⟩,
   ⟨((hostNode.putHome { home0 with r := { rec0 with state := .paused } })), accepted ((hostNode.putHome { home0 with r := { rec0 with state := .paused } })) 0x16 false false false, pkt0, hostNode.hcp.nextRef, 5, 0, { home0 with r := { rec0 with state := .paused } }, by and_intros <;> decide +kernel⟩,
   ⟨((hostNode.putHome home0)), accepted ((hostNode.putHome home0)) 0x17 false true false, pkt0, hostNode.hcp.nextRef, 5, 9, home0, by and_intros <;> decide +kernel⟩,
   ⟨(serving.putHome paused0), paused0, resume0, [7], .here 2, ((serving.putHome paused0).writeHistory { rec0 with historyLength := 2, genCommitted := 0, streamed := 0, stepCount := 0, maxNewTokens := 1, state := .queued, lastToken := 7 } [7, 7]).getD State.reset, by and_intros <;> first | decide +kernel | exact opt_getD _ _ (by decide +kernel)⟩,
   ⟨((hostNode.setRegs [(R.PGE_KV_POOL_LIMIT, 8), (R.PGE_MODEL_VALID 0, 1), (R.PGE_MODEL_LAYERS 0, 1), (R.PGE_MODEL_KV_HEADS 0, 1), (R.PGE_MODEL_HEAD_DIM 0, 64)]).putHome paused0), (accepted ((hostNode.setRegs [(R.PGE_KV_POOL_LIMIT, 8), (R.PGE_MODEL_VALID 0, 1), (R.PGE_MODEL_LAYERS 0, 1), (R.PGE_MODEL_KV_HEADS 0, 1), (R.PGE_MODEL_HEAD_DIM 0, 64)]).putHome paused0) 0x13 true false false), pkt0, hostNode.hcp.nextRef, resume0, [7], paused0, ((accepted ((hostNode.setRegs [(R.PGE_KV_POOL_LIMIT, 8), (R.PGE_MODEL_VALID 0, 1), (R.PGE_MODEL_LAYERS 0, 1), (R.PGE_MODEL_KV_HEADS 0, 1), (R.PGE_MODEL_HEAD_DIM 0, 64)]).putHome paused0) 0x13 true false false).writeHistory { rec0 with historyLength := 2, genCommitted := 0, streamed := 0, stepCount := 0, maxNewTokens := 1, state := .queued, lastToken := 7 } [7, 7]).getD State.reset, by and_intros <;> first | decide +kernel | exact opt_getD _ _ (by decide +kernel)⟩,
   ⟨(serving.putHome paused0).onHcp fun h => { h with later := [.resume 3 resume0 0 (.here 3)] }, 3, resume0, [7], .here 3, paused0, (((((serving.putHome paused0).onHcp fun h => { h with later := [.resume 3 resume0 0 (.here 3)] })).onHcp fun h => { h with later := [] }).writeHistory { rec0 with historyLength := 2, genCommitted := 0, streamed := 0, stepCount := 0, maxNewTokens := 1, state := .queued, lastToken := 7 } [7, 7]).getD State.reset, by and_intros <;> first | decide +kernel | exact opt_getD _ _ (by decide +kernel)⟩⟩

/-- States that meet the hypotheses of `HostRequestCommands` (clauses 33, 34, 35, 36). -/
theorem witness_HostRequestCommands_7 :
    (∃ (s : State) (t : State) (p : HostPkt) (lo : Nat) (hi : Nat) (id : Nat) (next : Nat) (adm : Bool) (w : Work),
    s.unseen p true = (some (lo, hi, adm), t) ∧ p.kind = 0 ∧ t.reg R.PHS_VERSIONS_PRAYR_MIN ≤ p.version ∧ p.version ≤ t.reg R.PHS_VERSIONS_PRAYR_MAX ∧ lo ≤ p.tenant ∧ p.tenant ≤ hi ∧ p.payloadOk = true ∧ t.bld.node ≠ .recovery ∧ t.pathUsed true < pathDepth true ∧ t.work? id = some w ∧ w.status = .owned ∧ t.flag R.HCP_TOKEN_CFG_ACK_MODE = true)
    ∧ (∃ (s : State) (k : TokenPkt),
    (s.hcp.tokens.find? fun t => if s.flag R.HCP_TOKEN_CFG_ACK_MODE = true then !t.sent else !s.tokenHeld t) = some k ∧ s.hostUp = true)
    ∧ (∃ (s : State) (k : TokenPkt),
    s.flag R.HCP_TOKEN_CFG_ACK_MODE = true ∧ s.hostUp = true ∧ s.hcp.tokens = [k] ∧ k.sent = true ∧ s.reg R.HCP_TOKEN_CFG_RETX_LIMIT = 0)
    ∧ (∃ (s : State) (k : TokenPkt),
    s.flag R.HCP_TOKEN_CFG_ACK_MODE = true ∧ s.hostUp = true ∧ s.hcp.tokens = [k] ∧ k.sent = true ∧ s.reg R.HCP_TOKEN_CFG_RETX_LIMIT ≠ 0 ∧ s.reg R.HCP_TOKEN_CFG_RETX_LIMIT ≤ k.retx) :=
  ⟨⟨((hostNode.setReg R.HCP_TOKEN_CFG_ACK_MODE 1).putWork work0), (((hostNode.setReg R.HCP_TOKEN_CFG_ACK_MODE 1).putWork work0).screen pkt0 true).2, pkt0, 0, 65535, 5, 2, true, work0, by and_intros <;> decide +kernel⟩,
   ⟨(hostNode.onHcp fun h => { h with tokens := [token0] }), token0, by and_intros <;> decide +kernel⟩,
   ⟨((hostNode.onHcp fun h => { h with tokens := [token0] }).setReg R.HCP_TOKEN_CFG_ACK_MODE 1).setReg R.HCP_TOKEN_CFG_RETX_LIMIT 0, token0, by and_intros <;> decide +kernel⟩,
   ⟨(hostNode.onHcp fun h => { h with tokens := [{ token0 with retx := 9 }] }).setRegs [(R.HCP_TOKEN_CFG_ACK_MODE, 1), (R.HCP_TOKEN_CFG_RETX_LIMIT, 4)], { token0 with retx := 9 }, by and_intros <;> decide +kernel⟩⟩

/-- States that meet the hypotheses of `HostPort` (clauses 2, 3, 4, 5, 6, 7). -/
theorem witness_HostPort_1 :
    (∃ (s : State) (vlan : Option Nat) (target : Nat) (asker : Nat),
    s.hostUp = true)
    ∧ (∃ (s : State) (vlan : Option Nat) (target : Nat) (asker : Nat),
    s.hostUp = true)
    ∧ (∃ (s : State) (vlan : Option Nat) (target : Nat) (asker : Nat) (d : List Byte),
    s.hostUp = true)
    ∧ (∃ (s : State) (o : HostOut),
    o.onLink = false)
    ∧ (∃ (s : State) (a : Nat),
    a / 2 ^ 32 = 0xFFFF ∧ s.reg R.HCP_IPV4_GW_GW ≠ 0 ∧ a % 2 ^ 32 / 2 ^ (32 - s.reg R.HCP_IPV4_PREFIX_LEN) ≠ s.reg R.HCP_IPV4_ADDR / 2 ^ (32 - s.reg R.HCP_IPV4_PREFIX_LEN))
    ∧ (∃ (s : State) (a : Nat),
    a / 2 ^ 118 = 0x3FA) :=
  ⟨⟨hostNode.setReg R.HCP_IPV4_ADDR 9, none, 9, 8, by decide +kernel⟩,
   ⟨hostNode, none, (netTo 0).dst, 8, by decide +kernel⟩,
   ⟨hostNode, none, (netTo 0).dst, 8, [1], by decide +kernel⟩,
   ⟨hostNode, .cnp 2, by decide +kernel⟩,
   ⟨State.reset.setRegs [(R.HCP_IPV4_ADDR, 10 * 2 ^ 24 + 5), (R.HCP_IPV4_PREFIX_LEN, 24), (R.HCP_IPV4_GW_GW, 10 * 2 ^ 24 + 1)], 0xFFFF * 2 ^ 32 + 10 * 2 ^ 24 + 256, by and_intros <;> decide +kernel⟩,
   ⟨State.reset, 0x3FA * 2 ^ 118 + 1, by decide +kernel⟩⟩

/-- States that meet the hypotheses of `HostPort` (clauses 8, 9, 10). -/
theorem witness_HostPort_2 :
    (∃ (s : State),
    s.hostUp = false ∧ s.bld.node = .ready ∧ s.bld.off = false ∧ s.pcr.ref156 = true ∧ s.laneBad 0xFF 0 = false ∧ s.laneBad 0xFF 4 = false)
    ∧ (∃ (s : State),
    s.hostUp = true)
    ∧ (∃ (s : State),
    s.hostUp = true)
    ∧ (∃ (s : State),
    s.hostUp = true)
    ∧ (∃ (s : State),
    s.hostUp = true)
    ∧ (∃ (s : State) (v : Nat),
    (v % 65536 < 1280 ∨ 9000 < v % 65536)) :=
  ⟨⟨State.reset.onBld fun b => { b with node := .ready, off := false }, by and_intros <;> decide +kernel⟩,
   ⟨hostNode, by decide +kernel⟩,
   ⟨hostNode, by decide +kernel⟩,
   ⟨hostNode, by decide +kernel⟩,
   ⟨hostNode, by decide +kernel⟩,
   ⟨hostNode, 1279, by decide +kernel⟩⟩

/-- States that meet the hypotheses of `HostPort` (clauses 11, 12, 13, 17, 18, 19). -/
theorem witness_HostPort_3 :
    (∃ (s : State) (v : Nat),
    1280 ≤ v % 65536 ∧ v % 65536 ≤ 9000 ∧ bitAt v 39 = s.flag R.HCP_PORT_CFG_VLAN_EN)
    ∧ (∃ (s : State) (v : Nat),
    bitsOf v 39 32 ≤ 32)
    ∧ (∃ (s : State) (v : Nat),
    16383 < v)
    ∧ (∃ (s : State) (k : Nat) (v : Nat),
    k < 4)
    ∧ (∃ (s : State) (k : Nat) (v : Nat),
    k < 128)
    ∧ (∃ (s : State) (o : HostOut),
    s.hostUp = true ∧ s.heldHead 0 = some o ∧ s.shaperCovers 0 o.bits = true) :=
  ⟨⟨hostNode, 9000, by and_intros <;> decide +kernel⟩,
   ⟨hostNode, 32 * 2 ^ 32 + 7, by decide +kernel⟩,
   ⟨hostNode, 16384, by decide +kernel⟩,
   ⟨hostNode, 3, 5, by decide +kernel⟩,
   ⟨hostNode, 127, 5, by decide +kernel⟩,
   ⟨hostNode.onHcp fun h => { h with held := [(0, .rdmaAck 2 0)] }, .rdmaAck 2 0, by and_intros <;> decide +kernel⟩⟩

/-- States that meet the hypotheses of `HostPort` (clauses 20, 21, 22). -/
theorem witness_HostPort_4 :
    (∃ (s : State) (c : Nat) (k : Nat) (o : HostOut),
    s.hostUp = true ∧ 1 ≤ k ∧ k < 4 ∧ s.eligible k = true ∧ s.eligible 0 = false ∧ s.nextClass = some c ∧ s.heldHead c = some o)
    ∧ (∃ (s : State) (c : Nat) (f : Frame),
    (s.hcp.heldFab.find? fun x => x.1 == c) = some (c, f) ∧ s.shaperCovers (4 + c) (8 * f.bytes) = true)
    ∧ (∃ (s : State) (k : TokenPkt),
    s.flag R.HCP_TOKEN_CFG_ACK_MODE = false ∧ s.hostUp = true) :=
  ⟨⟨hostNode.onHcp fun h => { h with held := [(2, .rdmaAck 2 0)] }, 2, 2, .rdmaAck 2 0, by and_intros <;> decide +kernel⟩,
   ⟨hostNode.onHcp fun h => { h with heldFab := [(3, frame0)] }, 3, frame0, by and_intros <;> decide +kernel⟩,
   ⟨(hostNode.onHcp fun h => { h with tokens := [token0] }), token0, by and_intros <;> decide +kernel⟩⟩

/-- States that meet the hypotheses of `RdmaAndManagement` (clauses 1, 2, 3, 4, 5, 6). -/
theorem witness_RdmaAndManagement_1 :
    (∃ (s : State) (t : State) (p : HostPkt) (ref : Nat) (c : QpCfg),
    s.accept? p 0x32 false true true = some (ref, t) ∧ p.payloadOk = true ∧ c.ok = true ∧ t.qp? c.index = none)
    ∧ (∃ (s : State) (t : State) (p : HostPkt) (ref : Nat) (c : QpCfg) (q : Qp),
    s.accept? p 0x32 false true true = some (ref, t) ∧ p.payloadOk = true ∧ c.ok = true ∧ t.qp? c.index = some q)
    ∧ (∃ (s : State) (t : State) (p : HostPkt) (ref : Nat) (i : Nat) (q : Qp),
    s.accept? p 0x33 false true false = some (ref, t) ∧ p.payloadOk = true ∧ i < 16384 ∧ t.qp? i = some q)
    ∧ (∃ (s : State) (rkey : Nat) (va : Nat) (h : RoceHdr) (d : List Byte),
    s.hostUp = true ∧ s.hears h.net rocePort = false)
    ∧ (∃ (s : State) (h : RoceHdr) (q : Qp),
    s.hostUp = true ∧ s.hears h.net rocePort = true ∧ s.qp? h.qp = some q ∧ q.error = false)
    ∧ (∃ (s : State) (u : State) (rkey : Nat) (va : Nat) (w : Nat) (h : RoceHdr) (q : Qp) (d : List Byte),
    s.roceFront h = (some q, u) ∧ h.psn = q.rqPsn ∧ h.outside = false ∧ 1 ≤ d.length ∧ d.length ≤ 2 ^ 31 ∧ u.window? rkey va d.length true = some w) :=
  ⟨⟨hostNode, accepted (hostNode) 0x32 false true true, pkt0, hostNode.hcp.nextRef, qpCfg0, by and_intros <;> decide +kernel⟩,
   ⟨withQp hostNode, accepted (withQp hostNode) 0x32 false true true, pkt0, hostNode.hcp.nextRef, qpCfg0, qp0, by and_intros <;> decide +kernel⟩,
   ⟨withQp hostNode, accepted (withQp hostNode) 0x33 false true false, pkt0, hostNode.hcp.nextRef, 0, qp0, by and_intros <;> decide +kernel⟩,
   ⟨withQp hostNode, 9, 0, { roceHdr0 with net := netTo 5 }, [1], by and_intros <;> decide +kernel⟩,
   ⟨withQp hostNode, { roceHdr0 with ecn := true }, qp0, by and_intros <;> decide +kernel⟩,
   ⟨((withQp hostNode).setRegs [(R.HCP_WINDOW_A_VALID 3, 1), (R.HCP_WINDOW_B_RKEY 3, 9), (R.HCP_WINDOW_C_LENGTH 3, 4096), (R.HCP_WINDOW_A_PERM_W 3, 1), (R.HCP_WINDOW_A_PERM_R 3, 1)]), (((withQp hostNode).setRegs [(R.HCP_WINDOW_A_VALID 3, 1), (R.HCP_WINDOW_B_RKEY 3, 9), (R.HCP_WINDOW_C_LENGTH 3, 4096), (R.HCP_WINDOW_A_PERM_W 3, 1), (R.HCP_WINDOW_A_PERM_R 3, 1)]).roceFront roceHdr0).2, 9, 4095, 3, roceHdr0, qp0, [1], by and_intros <;> decide +kernel⟩⟩

/-- States that meet the hypotheses of `RdmaAndManagement` (clauses 7, 8, 9, 10, 11, 12). -/
theorem witness_RdmaAndManagement_2 :
    (∃ (s : State) (u : State) (rkey : Nat) (va : Nat) (h : RoceHdr) (q : Qp) (d : List Byte),
    s.roceFront h = (some q, u) ∧ q.psnPlace h.psn = .again ∧ h.outside = false ∧ 1 ≤ d.length ∧ d.length ≤ 2 ^ 31)
    ∧ (∃ (s : State) (u : State) (rkey : Nat) (va : Nat) (n : Nat) (h : RoceHdr) (q : Qp) (d : List Byte),
    s.roceFront h = (some q, u) ∧ q.psnPlace h.psn = .ahead)
    ∧ (∃ (s : State) (u : State) (rkey : Nat) (va : Nat) (n : Nat) (h : RoceHdr) (q : Qp) (d : List Byte),
    s.roceFront h = (some q, u) ∧ h.psn = q.rqPsn ∧ h.outside = true)
    ∧ (∃ (s : State) (u : State) (rkey : Nat) (va : Nat) (h : RoceHdr) (q : Qp) (d : List Byte),
    s.roceFront h = (some q, u) ∧ h.psn = q.rqPsn ∧ h.outside = false ∧ 1 ≤ d.length ∧ d.length ≤ 2 ^ 31 ∧ u.window? rkey va d.length true = none)
    ∧ (∃ (s : State) (u : State) (rkey : Nat) (va : Nat) (len : Nat) (w : Nat) (h : RoceHdr) (q : Qp),
    s.roceFront h = (some q, u) ∧ h.psn = q.rqPsn ∧ h.outside = false ∧ 1 ≤ len ∧ len ≤ 2 ^ 31 ∧ u.readsOut h.qp < q.maxReads ∧ u.window? rkey va len false = some w ∧ u.poisoned .hbm va len = none)
    ∧ (∃ (s : State) (u : State) (rkey : Nat) (va : Nat) (len : Nat) (w : Nat) (h : RoceHdr) (q : Qp),
    s.roceFront h = (some q, u) ∧ h.psn = q.rqPsn ∧ u.window? rkey va len false = some w ∧ ((u.poisoned .hbm va len).isSome = true ∨ q.maxReads ≤ u.readsOut h.qp)) :=
  ⟨⟨((withQp hostNode).setRegs [(R.HCP_WINDOW_A_VALID 3, 1), (R.HCP_WINDOW_B_RKEY 3, 9), (R.HCP_WINDOW_C_LENGTH 3, 4096), (R.HCP_WINDOW_A_PERM_W 3, 1), (R.HCP_WINDOW_A_PERM_R 3, 1)]), (((withQp hostNode).setRegs [(R.HCP_WINDOW_A_VALID 3, 1), (R.HCP_WINDOW_B_RKEY 3, 9), (R.HCP_WINDOW_C_LENGTH 3, 4096), (R.HCP_WINDOW_A_PERM_W 3, 1), (R.HCP_WINDOW_A_PERM_R 3, 1)]).roceFront { roceHdr0 with psn := 2 ^ 24 - 1 }).2, 9, 4095, { roceHdr0 with psn := 2 ^ 24 - 1 }, qp0, [1], by and_intros <;> decide +kernel⟩,
   ⟨((withQp hostNode).setRegs [(R.HCP_WINDOW_A_VALID 3, 1), (R.HCP_WINDOW_B_RKEY 3, 9), (R.HCP_WINDOW_C_LENGTH 3, 4096), (R.HCP_WINDOW_A_PERM_W 3, 1), (R.HCP_WINDOW_A_PERM_R 3, 1)]), (((withQp hostNode).setRegs [(R.HCP_WINDOW_A_VALID 3, 1), (R.HCP_WINDOW_B_RKEY 3, 9), (R.HCP_WINDOW_C_LENGTH 3, 4096), (R.HCP_WINDOW_A_PERM_W 3, 1), (R.HCP_WINDOW_A_PERM_R 3, 1)]).roceFront { roceHdr0 with psn := 1 }).2, 9, 4095, 1, { roceHdr0 with psn := 1 }, qp0, [1], by and_intros <;> decide +kernel⟩,
   ⟨((withQp hostNode).setRegs [(R.HCP_WINDOW_A_VALID 3, 1), (R.HCP_WINDOW_B_RKEY 3, 9), (R.HCP_WINDOW_C_LENGTH 3, 4096), (R.HCP_WINDOW_A_PERM_W 3, 1), (R.HCP_WINDOW_A_PERM_R 3, 1)]), (((withQp hostNode).setRegs [(R.HCP_WINDOW_A_VALID 3, 1), (R.HCP_WINDOW_B_RKEY 3, 9), (R.HCP_WINDOW_C_LENGTH 3, 4096), (R.HCP_WINDOW_A_PERM_W 3, 1), (R.HCP_WINDOW_A_PERM_R 3, 1)]).roceFront { roceHdr0 with outside := true }).2, 9, 4095, 1, { roceHdr0 with outside := true }, qp0, [1], by and_intros <;> decide +kernel⟩,
   ⟨((withQp hostNode).setRegs [(R.HCP_WINDOW_A_VALID 3, 1), (R.HCP_WINDOW_B_RKEY 3, 9), (R.HCP_WINDOW_C_LENGTH 3, 4096), (R.HCP_WINDOW_A_PERM_W 3, 1), (R.HCP_WINDOW_A_PERM_R 3, 1)]), (((withQp hostNode).setRegs [(R.HCP_WINDOW_A_VALID 3, 1), (R.HCP_WINDOW_B_RKEY 3, 9), (R.HCP_WINDOW_C_LENGTH 3, 4096), (R.HCP_WINDOW_A_PERM_W 3, 1), (R.HCP_WINDOW_A_PERM_R 3, 1)]).roceFront roceHdr0).2, 9, 4096, roceHdr0, qp0, [1], by and_intros <;> decide +kernel⟩,
   ⟨((withQp hostNode).setRegs [(R.HCP_WINDOW_A_VALID 3, 1), (R.HCP_WINDOW_B_RKEY 3, 9), (R.HCP_WINDOW_C_LENGTH 3, 4096), (R.HCP_WINDOW_A_PERM_W 3, 1), (R.HCP_WINDOW_A_PERM_R 3, 1)]), (((withQp hostNode).setRegs [(R.HCP_WINDOW_A_VALID 3, 1), (R.HCP_WINDOW_B_RKEY 3, 9), (R.HCP_WINDOW_C_LENGTH 3, 4096), (R.HCP_WINDOW_A_PERM_W 3, 1), (R.HCP_WINDOW_A_PERM_R 3, 1)]).roceFront roceHdr0).2, 9, 0, 4096, 3, roceHdr0, qp0, by and_intros <;> decide +kernel⟩,
   ⟨((withQp hostNode).setRegs [(R.HCP_WINDOW_A_VALID 3, 1), (R.HCP_WINDOW_B_RKEY 3, 9), (R.HCP_WINDOW_C_LENGTH 3, 4096), (R.HCP_WINDOW_A_PERM_W 3, 1), (R.HCP_WINDOW_A_PERM_R 3, 1)]).markPoison .hbm 64 1 .poisonRead, ((((withQp hostNode).setRegs [(R.HCP_WINDOW_A_VALID 3, 1), (R.HCP_WINDOW_B_RKEY 3, 9), (R.HCP_WINDOW_C_LENGTH 3, 4096), (R.HCP_WINDOW_A_PERM_W 3, 1), (R.HCP_WINDOW_A_PERM_R 3, 1)]).markPoison .hbm 64 1 .poisonRead).roceFront roceHdr0).2, 9, 0, 4096, 3, roceHdr0, qp0, by and_intros <;> decide +kernel⟩⟩

/-- States that meet the hypotheses of `RdmaAndManagement` (clauses 12, 13, 14, 15, 16). -/
theorem witness_RdmaAndManagement_3 :
    (∃ (s : State) (u : State) (rkey : Nat) (va : Nat) (len : Nat) (w : Nat) (h : RoceHdr) (q : Qp),
    s.roceFront h = (some q, u) ∧ h.psn = q.rqPsn ∧ u.window? rkey va len false = some w ∧ ((u.poisoned .hbm va len).isSome = true ∨ q.maxReads ≤ u.readsOut h.qp))
    ∧ (∃ (s : State) (i : Nat) (e : Bool) (d : List Byte) (q : Qp) (o : RoceOp) (l : List RoceOp),
    s.qp? i = some q ∧ q.ops = o :: l ∧ q.error = false ∧ (o.write = true ∨ d.length = o.len))
    ∧ (∃ (s : State) (i : Nat) (q : Qp),
    s.qp? i = some q ∧ q.error = false ∧ q.ops ≠ [])
    ∧ (∃ (s : State) (i : Nat) (q : Qp),
    s.qp? i = some q ∧ q.error = false ∧ q.ops ≠ [])
    ∧ (∃ (s : State) (i : Nat) (syn : Nat) (q : Qp),
    s.qp? i = some q ∧ q.error = false)
    ∧ (∃ (s : State) (i : Nat) (q : Qp),
    s.qp? i = some q) :=
  ⟨⟨(((withQp hostNode).setRegs [(R.HCP_WINDOW_A_VALID 3, 1), (R.HCP_WINDOW_B_RKEY 3, 9), (R.HCP_WINDOW_C_LENGTH 3, 4096), (R.HCP_WINDOW_A_PERM_W 3, 1), (R.HCP_WINDOW_A_PERM_R 3, 1)]).onHcp fun h => { h with held := List.replicate 4 (3, .rdmaReadResponse 0 0 []) }), ((((withQp hostNode).setRegs [(R.HCP_WINDOW_A_VALID 3, 1), (R.HCP_WINDOW_B_RKEY 3, 9), (R.HCP_WINDOW_C_LENGTH 3, 4096), (R.HCP_WINDOW_A_PERM_W 3, 1), (R.HCP_WINDOW_A_PERM_R 3, 1)]).onHcp fun h => { h with held := List.replicate 4 (3, .rdmaReadResponse 0 0 []) }).roceFront roceHdr0).2, 9, 0, 4096, 3, roceHdr0, qp0, by and_intros <;> decide +kernel⟩,
   ⟨State.reset.onHcp fun h => { h with qps := [{ qp0 with ops := [roceOp0] }] }, 0, true, [], { qp0 with ops := [roceOp0] }, roceOp0, [], by and_intros <;> decide +kernel⟩,
   ⟨State.reset.onHcp fun h => { h with qps := [{ qp0 with ops := [roceOp0] }] }, 0, { qp0 with ops := [roceOp0] }, by and_intros <;> decide +kernel⟩,
   ⟨State.reset.onHcp fun h => { h with qps := [{ qp0 with ops := [roceOp0], retriesLeft := 0 }] }, 0, { qp0 with ops := [roceOp0], retriesLeft := 0 }, by and_intros <;> decide +kernel⟩,
   ⟨State.reset.onHcp fun h => { h with qps := [{ qp0 with ops := [roceOp0] }] }, 0, 4, { qp0 with ops := [roceOp0] }, by and_intros <;> decide +kernel⟩,
   ⟨State.reset.onHcp fun h => { h with qps := [{ qp0 with ops := [roceOp0] }] }, 0, { qp0 with ops := [roceOp0] }, by decide +kernel⟩⟩

/-- States that meet the hypotheses of `RdmaAndManagement` (clauses 16, 17). -/
theorem witness_RdmaAndManagement_4 :
    (∃ (s : State) (i : Nat) (q : Qp),
    s.qp? i = some q)
    ∧ (∃ (s : State) (i : Nat) (q : Qp),
    s.qp? i = some q)
    ∧ (∃ (s : State) (i : Nat) (q : Qp),
    s.qp? i = some q)
    ∧ (∃ (s : State) (i : Nat) (q : Qp),
    s.qp? i = some q)
    ∧ (∃ (s : State) (i : Nat) (q : Qp),
    s.qp? i = some q)
    ∧ (∃ (s : State) (i : Nat) (q : Qp),
    s.qp? i = some q) :=
  ⟨⟨State.reset.onHcp fun h => { h with qps := [{ qp0 with ops := [roceOp0] }] }, 0, { qp0 with ops := [roceOp0] }, by decide +kernel⟩,
   ⟨State.reset.onHcp fun h => { h with qps := [{ qp0 with ops := [roceOp0] }] }, 0, { qp0 with ops := [roceOp0] }, by decide +kernel⟩,
   ⟨State.reset.onHcp fun h => { h with qps := [{ qp0 with ops := [roceOp0] }] }, 0, { qp0 with ops := [roceOp0] }, by decide +kernel⟩,
   ⟨State.reset.onHcp fun h => { h with qps := [{ qp0 with ops := [roceOp0] }] }, 0, { qp0 with ops := [roceOp0] }, by decide +kernel⟩,
   ⟨State.reset.onHcp fun h => { h with qps := [{ qp0 with ops := [roceOp0] }] }, 0, { qp0 with ops := [roceOp0] }, by decide +kernel⟩,
   ⟨State.reset.onHcp fun h => { h with qps := [{ qp0 with ops := [roceOp0] }] }, 0, { qp0 with ops := [roceOp0] }, by decide +kernel⟩⟩

/-- States that meet the hypotheses of `RdmaAndManagement` (clauses 17, 18, 19, 20, 23). -/
theorem witness_RdmaAndManagement_5 :
    (∃ (s : State) (i : Nat) (q : Qp),
    s.qp? i = some q)
    ∧ (∃ (s : State) (w : Nat) (v : Nat),
    w < 64 ∧ bitAt v 63 = false ∧ bitAt v 62 = s.flag (R.HCP_WINDOW_A_PERM_R w) ∧ bitAt v 61 = s.flag (R.HCP_WINDOW_A_PERM_W w) ∧ v % 2 ^ 46 = s.reg (R.HCP_WINDOW_A_BASE w) ∧ s.flag (R.HCP_WINDOW_A_VALID w) = true)
    ∧ (∃ (s : State) (w : Nat) (v : Nat),
    w < 64 ∧ s.flag (R.HCP_WINDOW_A_VALID w) = false ∧ s.flag (R.HCP_WINDOW_A_BUSY w) = false ∧ bitAt v 63 = true ∧ s.hbmFree (v % 2 ^ 46) (s.reg (R.HCP_WINDOW_C_LENGTH w)) = true)
    ∧ (∃ (s : State) (w : Nat) (v : Nat),
    w < 64 ∧ s.flag (R.HCP_WINDOW_A_VALID w) = true ∧ v % 2 ^ 46 ≠ s.reg (R.HCP_WINDOW_A_BASE w))
    ∧ (∃ (s : State) (n : Nat),
    s.hcp.i3c.offset + n ≤ s.hcp.i3c.snapshot.length) :=
  ⟨⟨State.reset.onHcp fun h => { h with qps := [{ qp0 with ops := [roceOp0] }] }, 0, { qp0 with ops := [roceOp0] }, by decide +kernel⟩,
   ⟨((withQp hostNode).setRegs [(R.HCP_WINDOW_A_VALID 3, 1), (R.HCP_WINDOW_B_RKEY 3, 9), (R.HCP_WINDOW_C_LENGTH 3, 4096), (R.HCP_WINDOW_A_PERM_W 3, 1), (R.HCP_WINDOW_A_PERM_R 3, 1)]), 3, 3 * 2 ^ 61, by and_intros <;> decide +kernel⟩,
   ⟨hostNode, 63, 2 ^ 63 + 4096, by and_intros <;> decide +kernel⟩,
   ⟨((withQp hostNode).setRegs [(R.HCP_WINDOW_A_VALID 3, 1), (R.HCP_WINDOW_B_RKEY 3, 9), (R.HCP_WINDOW_C_LENGTH 3, 4096), (R.HCP_WINDOW_A_PERM_W 3, 1), (R.HCP_WINDOW_A_PERM_R 3, 1)]), 3, 2 ^ 63 + 4096, by and_intros <;> decide +kernel⟩,
   ⟨State.reset.onHcp fun h => { h with i3c := { h.i3c with snapshot := [1, 2, 3], offset := 1 } }, 2, by decide +kernel⟩⟩

/-- States that meet the hypotheses of `UnitsInService` (clauses 1, 2, 3, 4, 5). -/
theorem witness_UnitsInService_1 :
    (∃ (s : State) (f : Finding),
    s.bld.defects.length < 4096)
    ∧ (∃ (s : State) (f : Finding),
    4096 ≤ s.bld.defects.length)
    ∧ (∃ (s : State) (tile : Nat) (phys : Nat) (st : Nat),
    tile < s.tiles ∧ phys < 4 ∧ bitAt (s.reg R.BLD_SERVICE_WITHDRAWN) tile = false ∧ s.bld.spared = [])
    ∧ (∃ (s : State) (tile : Nat) (phys : Nat) (p2 : Nat) (st : Nat),
    tile < s.tiles ∧ phys ≤ 4 ∧ bitAt (s.reg R.BLD_SERVICE_WITHDRAWN) tile = false ∧ s.bld.spared = [(tile, p2)] ∧ phys ≠ p2)
    ∧ (∃ (s : State) (tile : Nat) (phys : Nat) (st : Nat),
    (bitAt (s.reg R.BLD_SERVICE_WITHDRAWN) tile = true ∨ s.tiles ≤ tile ∨ 4 < phys))
    ∧ (∃ (s : State) (tile : Nat) (phys : Nat) (st : Nat),
    (bitAt (s.reg R.BLD_SERVICE_WITHDRAWN) tile = true ∨ s.tiles ≤ tile ∨ 4 < phys)) :=
  ⟨⟨State.reset, ⟨.core, .ok, 3, 2, 0⟩, by decide +kernel⟩,
   ⟨State.reset.onBld fun b => { b with defects := List.replicate 4096 ⟨0, .tile, .ok, 0, 0, 0, 0, 0⟩ }, ⟨.core, .ok, 3, 2, 0⟩, by decide +kernel⟩,
   ⟨State.reset, 31, 3, 0, by and_intros <;> decide +kernel⟩,
   ⟨State.reset.onBld fun b => { b with spared := [(3, 1)] }, 3, 4, 1, 0, by and_intros <;> decide +kernel⟩,
   ⟨State.reset.setReg R.BLD_SERVICE_WITHDRAWN 8, 3, 0, 0, by decide +kernel⟩,
   ⟨State.reset, 32, 0, 0, by decide +kernel⟩⟩

/-- States that meet the hypotheses of `UnitsInService` (clauses 5, 6, 7, 8, 9, 10). -/
theorem witness_UnitsInService_2 :
    (∃ (s : State) (tile : Nat) (phys : Nat) (st : Nat),
    (bitAt (s.reg R.BLD_SERVICE_WITHDRAWN) tile = true ∨ s.tiles ≤ tile ∨ 4 < phys))
    ∧ (∃ (s : State) (t : Nat) (st : St),
    bitAt (s.reg R.BLD_SERVICE_WITHDRAWN) t = false)
    ∧ (∃ (s : State) (t : State) (p : HostPkt) (ref : Nat) (tile : Nat),
    s.accept? p 0x4E false true false = some (ref, t) ∧ p.payloadOk = true ∧ tile < t.tiles ∧ t.tileIn tile = true ∧ t.tileUsed tile = false)
    ∧ (∃ (s : State) (t : State) (p : HostPkt) (ref : Nat) (tile : Nat),
    s.accept? p 0x4E false true false = some (ref, t) ∧ p.payloadOk = true ∧ tile < t.tiles ∧ t.tileIn tile = true ∧ t.tileUsed tile = true)
    ∧ (∃ (s : State) (t : State) (p : HostPkt) (ref : Nat) (tile : Nat),
    s.accept? p 0x4E false true false = some (ref, t) ∧ p.payloadOk = true ∧ tile < t.tiles ∧ bitAt (t.reg R.BLD_SERVICE_OFFLINE) tile = true ∧ t.bld.testing.contains tile = false)
    ∧ (∃ (s : State) (t : State) (p : HostPkt) (ref : Nat) (tile : Nat),
    s.accept? p 0x4E false true false = some (ref, t) ∧ p.payloadOk = true ∧ tile < t.tiles ∧ bitAt (t.reg R.BLD_SERVICE_OFFLINE) tile = false) :=
  ⟨⟨State.reset, 3, 5, 0, by decide +kernel⟩,
   ⟨State.reset, 3, .ok, by decide +kernel⟩,
   ⟨(hostNode.onBld fun b => { b with node := .ready }), accepted ((hostNode.onBld fun b => { b with node := .ready })) 0x4E false true false, pkt0, hostNode.hcp.nextRef, 31, by and_intros <;> decide +kernel⟩,
   ⟨((hostNode.onBld fun b => { b with node := .ready }).onSch fun b => { b with ctxs := [ctx0 1 .running] }), accepted (((hostNode.onBld fun b => { b with node := .ready }).onSch fun b => { b with ctxs := [ctx0 1 .running] })) 0x4E false true false, pkt0, hostNode.hcp.nextRef, 0, by and_intros <;> decide +kernel⟩,
   ⟨((hostNode.onBld fun b => { b with node := .ready }).setReg R.BLD_SERVICE_OFFLINE 8), accepted (((hostNode.onBld fun b => { b with node := .ready }).setReg R.BLD_SERVICE_OFFLINE 8)) 0x4E false true false, pkt0, hostNode.hcp.nextRef, 3, by and_intros <;> decide +kernel⟩,
   ⟨(hostNode.onBld fun b => { b with node := .ready }), accepted ((hostNode.onBld fun b => { b with node := .ready })) 0x4E false true false, pkt0, hostNode.hcp.nextRef, 3, by and_intros <;> decide +kernel⟩⟩

/-- States that meet the hypotheses of `UnitsInService` (clauses 11, 12, 13, 15, 17, 18). -/
theorem witness_UnitsInService_3 :
    (∃ (s : State) (tile : Nat),
    s.bld.testing = [tile] ∧ bitAt (s.reg R.BLD_SERVICE_WITHDRAWN) tile = false)
    ∧ (∃ (s : State) (tile : Nat) (fs : List Finding),
    s.bld.testing.contains tile = false)
    ∧ (∃ (s : State) (t : State) (p : HostPkt) (ref : Nat) (first : Nat) (count : Nat),
    s.accept? p 0x4C false true false = some (ref, t) ∧ p.payloadOk = true ∧ first < 8192 ∧ 1 ≤ count ∧ count ≤ 32)
    ∧ (∃ (s : State) (t : State) (p : HostPkt) (ref : Nat),
    s.accept? p 0x4D false true false = some (ref, t) ∧ p.payloadOk = true)
    ∧ (∃ (s : State) (t : State) (p : HostPkt) (ref : Nat) (stack : Nat) (channel : Nat),
    s.accept? p 0x4F false true false = some (ref, t) ∧ p.payloadOk = true ∧ stack < t.stacks ∧ channel < 32 ∧ t.known ⟨.hbmChannel, .ok, stack, channel, 0⟩ = false ∧ t.bld.retire = none ∧ t.resetting = false ∧ t.bld.node = .ready ∧ t.retireBusy = false ∧ t.retireFits = true)
    ∧ (∃ (s : State) (t : State) (p : HostPkt) (ref : Nat) (stack : Nat) (channel : Nat),
    s.accept? p 0x4F false true false = some (ref, t) ∧ p.payloadOk = true ∧ stack < t.stacks ∧ channel < 32 ∧ (t.known ⟨.hbmChannel, .ok, stack, channel, 0⟩ = true ∨ t.bld.retire.isSome = true)) :=
  ⟨⟨((hostNode.onBld fun b => { b with node := .ready }).setReg R.BLD_SERVICE_OFFLINE 8).onBld fun b => { b with testing := [3] }, 3, by and_intros <;> decide +kernel⟩,
   ⟨State.reset, 3, [], by decide +kernel⟩,
   ⟨((hostNode.onBld fun b => { b with node := .ready }).onBld fun b => { b with defects := [⟨0, .tile, .ok, 0, 0, 0, 0, 0⟩] }), accepted (((hostNode.onBld fun b => { b with node := .ready }).onBld fun b => { b with defects := [⟨0, .tile, .ok, 0, 0, 0, 0, 0⟩] })) 0x4C false true false, pkt0, hostNode.hcp.nextRef, 0, 32, by and_intros <;> decide +kernel⟩,
   ⟨((hostNode.onBld fun b => { b with node := .ready }).onBld fun b => { b with defects := [⟨0, .tile, .ok, 0, 0, 0, 0, 0⟩] }), accepted (((hostNode.onBld fun b => { b with node := .ready }).onBld fun b => { b with defects := [⟨0, .tile, .ok, 0, 0, 0, 0, 0⟩] })) 0x4D false true false, pkt0, hostNode.hcp.nextRef, by and_intros <;> decide +kernel⟩,
   ⟨(hostNode.onBld fun b => { b with node := .ready }), accepted ((hostNode.onBld fun b => { b with node := .ready })) 0x4F false true false, pkt0, hostNode.hcp.nextRef, 19, 31, by and_intros <;> decide +kernel⟩,
   ⟨((hostNode.onBld fun b => { b with node := .ready }).onBld fun b => { b with retire := some ⟨3, 4, false, 0x1000000⟩ }), accepted (((hostNode.onBld fun b => { b with node := .ready }).onBld fun b => { b with retire := some ⟨3, 4, false, 0x1000000⟩ })) 0x4F false true false, pkt0, hostNode.hcp.nextRef, 3, 5, by and_intros <;> decide +kernel⟩⟩

/-- States that meet the hypotheses of `UnitsInService` (clauses 19, 20, 21, 22). -/
theorem witness_UnitsInService_4 :
    (∃ (s : State) (r : Retire),
    s.bld.retire = some r ∧ r.copying = false ∧ s.beyond = [] ∧ s.beyondTargets = [])
    ∧ (∃ (s : State),
    s.bld.retire = none)
    ∧ (∃ (s : State) (r : Retire),
    s.bld.retire = some r ∧ r.copying = true ∧ s.bld.resetAfterCopy = none)
    ∧ (∃ (s : State) (low : Nat) (n : Nat) (a : Nat),
    low ≤ a ∧ a < low + n) :=
  ⟨⟨((hostNode.onBld fun b => { b with node := .ready }).onBld fun b => { b with retire := some ⟨3, 4, false, 0x1000000⟩ }), ⟨3, 4, false, 0x1000000⟩, by and_intros <;> decide +kernel⟩,
   ⟨State.reset, by decide +kernel⟩,
   ⟨((hostNode.onBld fun b => { b with node := .ready }).onBld fun b => { b with retire := some ⟨3, 4, true, 0x1000000⟩ }), ⟨3, 4, true, 0x1000000⟩, by and_intros <;> decide +kernel⟩,
   ⟨State.reset.wrNum .hbm 64 1 5, 64, 1, 64, by and_intros <;> decide +kernel⟩⟩

/-- States that meet the hypotheses of `Resets` (clauses 4, 5, 6, 7, 9, 10). -/
theorem witness_Resets_1 :
    (∃ (s : State),
    s.rse.mirrorOut = [])
    ∧ (∃ (s : State),
    s.rse.mirrorOut = [] ∧ (∀ h ∈ s.rse.homes, h.r.state ≠ .queued))
    ∧ (∃ (s : State) (h : HomeRec),
    s.rse.mirrorOut = [] ∧ s.rse.homes = [h] ∧ h.r.state = .queued)
    ∧ (∃ (s : State) (h : HomeRec) (p : MirrorPend) (rep : ReplyTo),
    s.rse.mirrorOut = [p] ∧ s.rse.homes = [h] ∧ p.id = h.r.id ∧ p.change = .submit rep)
    ∧ (∃ (s : State) (f : Fld),
    s.canonical ∧ s.small = false ∧ f.reg < 0x500000 ∧ f.lo < 64 ∧ restored true f.key = false)
    ∧ (∃ (s : State) (f : Fld),
    s.canonical ∧ s.small = false ∧ f.reg < 0x500000 ∧ f.lo < 64 ∧ restored true f.key = true) :=
  ⟨⟨((State.reset.setRegs [(R.RSE_DEPUTY_VALID, 1), (R.RSE_DEPUTY_NODE, 9)]).onRse fun e => { e with bind := .copying }), by decide +kernel⟩,
   ⟨State.reset.onBld fun b => { b with node := .ready, off := false, stage := 10 }, by and_intros <;> decide +kernel⟩,
   ⟨withHome { home0 with r := { rec0 with state := .queued } }, { home0 with r := { rec0 with state := .queued } }, by and_intros <;> decide +kernel⟩,
   ⟨(withHome home0).onRse fun e => { e with mirrorOut := [(⟨5, 1, .submit (.here 2), none, some home0⟩ : MirrorPend)] }, home0, (⟨5, 1, .submit (.here 2), none, some home0⟩ : MirrorPend), .here 2, by and_intros <;> decide +kernel⟩,
   ⟨State.reset.setReg R.FAB_TIMEOUT_REMOTE_US 77, R.FAB_TIMEOUT_REMOTE_US, by and_intros <;> first | decide +kernel | (unfold State.canonical; decide +kernel)⟩,
   ⟨State.reset.setReg R.FAB_ASSIGN_NUMBER 77, R.FAB_ASSIGN_NUMBER, by and_intros <;> first | decide +kernel | (unfold State.canonical; decide +kernel)⟩⟩

/-- States that meet the hypotheses of `Resets` (clauses 11, 12, 13, 14, 15). -/
theorem witness_Resets_2 :
    (∃ (s : State) (k : ResetKind),
    s.canonical)
    ∧ (∃ (s : State),
    s.bld.off = false ∧ s.bld.node ≠ .failed ∧ s.bld.stage ≠ 0)
    ∧ (∃ (s : State),
    (s.bld.off = true ∨ s.bld.node = .failed ∨ s.bld.stage = 0))
    ∧ (∃ (s : State),
    (s.bld.off = true ∨ s.bld.node = .failed ∨ s.bld.stage = 0))
    ∧ (∃ (s : State) (t : State) (p : HostPkt) (ref : Nat),
    s.accept? p 0x31 false true true = some (ref, t) ∧ p.payloadOk = true ∧ t.resetting = false)
    ∧ (∃ (s : State) (t : State) (p : HostPkt) (ref : Nat),
    s.accept? p 0x31 false true true = some (ref, t) ∧ p.payloadOk = true ∧ t.resetting = true) :=
  ⟨⟨State.reset, .compute, by unfold State.canonical; decide +kernel⟩,
   ⟨State.reset.onBld fun b => { b with node := .ready, off := false, stage := 10 }, by and_intros <;> decide +kernel⟩,
   ⟨State.reset, by decide +kernel⟩,
   ⟨State.reset.onBld fun b => { b with node := .failed, off := false, stage := 4 }, by decide +kernel⟩,
   ⟨(hostNode.onBld fun b => { b with node := .ready }), accepted ((hostNode.onBld fun b => { b with node := .ready })) 0x31 false true true, pkt0, hostNode.hcp.nextRef, by and_intros <;> decide +kernel⟩,
   ⟨(hostNode.onBld fun b => { b with node := .booting }), accepted ((hostNode.onBld fun b => { b with node := .booting })) 0x31 false true true, pkt0, hostNode.hcp.nextRef, by and_intros <;> decide +kernel⟩⟩

/-- States that meet the hypotheses of `Resets` (clauses 16, 17). -/
theorem witness_Resets_3 :
    (∃ (s : State) (t : State) (p : HostPkt) (ref : Nat),
    s.accept? p 0x31 false true true = some (ref, t) ∧ p.payloadOk = true ∧ t.resetting = false ∧ t.bld.node = .ready ∧ t.bld.retire = none)
    ∧ (∃ (s : State) (t : State) (p : HostPkt) (ref : Nat) (r : Retire),
    s.accept? p 0x31 false true true = some (ref, t) ∧ p.payloadOk = true ∧ t.resetting = false ∧ t.bld.node = .ready ∧ t.bld.retire = some r ∧ r.copying = true) :=
  ⟨⟨(hostNode.onBld fun b => { b with node := .ready }), accepted ((hostNode.onBld fun b => { b with node := .ready })) 0x31 false true true, pkt0, hostNode.hcp.nextRef, by and_intros <;> decide +kernel⟩,
   ⟨(hostNode.onBld fun b => { b with node := .ready, retire := some ⟨3, 4, true, 0x1000000⟩ }), accepted ((hostNode.onBld fun b => { b with node := .ready, retire := some ⟨3, 4, true, 0x1000000⟩ })) 0x31 false true true, pkt0, hostNode.hcp.nextRef, ⟨3, 4, true, 0x1000000⟩, by and_intros <;> decide +kernel⟩⟩

/-- States that meet the hypotheses of `BootStages` (clauses 1, 2, 3). -/
theorem witness_BootStages_1 :
    (∃ (s : State) (st : St) (fs : List Finding) (bad : List Nat),
    (s.bld.node ≠ .booting ∧ s.bld.node ≠ .computeReset ∨ s.bld.stage = 0 ∨ s.bld.railHold.isSome = true))
    ∧ (∃ (s : State) (st : St) (fs : List Finding) (bad : List Nat),
    (s.bld.node ≠ .booting ∧ s.bld.node ≠ .computeReset ∨ s.bld.stage = 0 ∨ s.bld.railHold.isSome = true))
    ∧ (∃ (s : State),
    s.bld.node = .booting ∧ s.bld.railHold = none ∧ (s.bld.stage = 1 ∨ s.bld.stage = 2 ∨ s.bld.stage = 7))
    ∧ (∃ (s : State),
    s.bld.node = .booting ∧ s.bld.railHold = none ∧ (s.bld.stage = 1 ∨ s.bld.stage = 2 ∨ s.bld.stage = 7))
    ∧ (∃ (s : State),
    s.bld.node = .booting ∧ s.bld.railHold = none ∧ (s.bld.stage = 1 ∨ s.bld.stage = 2 ∨ s.bld.stage = 7))
    ∧ (∃ (s : State),
    s.bld.node = .booting ∧ s.bld.railHold = none ∧ s.bld.stage = 3) :=
  ⟨⟨State.reset, .ok, [], [], by decide +kernel⟩,
   ⟨State.reset.onBld fun b => { b with node := .ready, stage := 5 }, .ok, [], [], by decide +kernel⟩,
   ⟨State.reset.onBld fun b => { b with node := .booting, stage := 1 }, by and_intros <;> decide +kernel⟩,
   ⟨State.reset.onBld fun b => { b with node := .booting, stage := 2 }, by and_intros <;> decide +kernel⟩,
   ⟨State.reset.onBld fun b => { b with node := .booting, stage := 7 }, by and_intros <;> decide +kernel⟩,
   ⟨State.reset.onBld fun b => { b with node := .booting, stage := 3 }, by and_intros <;> decide +kernel⟩⟩

/-- States that meet the hypotheses of `BootStages` (clauses 4, 5, 6, 7, 8, 9). -/
theorem witness_BootStages_2 :
    (∃ (s : State),
    s.bld.node = .booting ∧ s.bld.railHold = none ∧ s.bld.stage = 4)
    ∧ (∃ (s : State),
    s.bld.node = .booting ∧ s.bld.railHold = none ∧ s.bld.stage = 5)
    ∧ (∃ (s : State),
    s.bld.node = .booting ∧ s.bld.railHold = none ∧ s.bld.stage = 6)
    ∧ (∃ (s : State),
    s.bld.node = .booting ∧ s.bld.railHold = none ∧ s.bld.stage = 8)
    ∧ (∃ (s : State),
    s.bld.node = .booting ∧ s.bld.railHold = none ∧ s.bld.stage = 9)
    ∧ (∃ (s : State),
    s.bld.node = .computeReset ∧ s.bld.railHold = none ∧ s.bld.stage = 6) :=
  ⟨⟨State.reset.onBld fun b => { b with node := .booting, stage := 4 }, by and_intros <;> decide +kernel⟩,
   ⟨State.reset.onBld fun b => { b with node := .booting, stage := 5 }, by and_intros <;> decide +kernel⟩,
   ⟨State.reset.onBld fun b => { b with node := .booting, stage := 6 }, by and_intros <;> decide +kernel⟩,
   ⟨State.reset.onBld fun b => { b with node := .booting, stage := 8 }, by and_intros <;> decide +kernel⟩,
   ⟨State.reset.onBld fun b => { b with node := .booting, stage := 9 }, by and_intros <;> decide +kernel⟩,
   ⟨State.reset.onBld fun b => { b with node := .computeReset, stage := 6 }, by and_intros <;> decide +kernel⟩⟩

/-- States that meet the hypotheses of `BootStages` (clauses 10, 11, 12, 13). -/
theorem witness_BootStages_3 :
    (∃ (s : State),
    s.bld.node = .computeReset ∧ s.bld.railHold = none ∧ s.bld.stage = 8)
    ∧ (∃ (s : State) (st : St),
    s.bld.node = .booting ∧ s.bld.railHold = none ∧ (s.bld.stage = 1 ∨ s.bld.stage = 4) ∧ st ≠ .ok)
    ∧ (∃ (s : State) (st : St),
    s.bld.node = .booting ∧ s.bld.railHold = none ∧ (s.bld.stage = 1 ∨ s.bld.stage = 4) ∧ st ≠ .ok)
    ∧ (∃ (s : State) (st : St),
    s.bld.node = .booting ∧ s.bld.railHold = none ∧ s.bld.stage ≠ 0 ∧ s.bld.stage ≠ 1 ∧ s.bld.stage ≠ 4 ∧ st ≠ .ok)
    ∧ (∃ (s : State) (st : St),
    s.bld.node = .booting ∧ s.bld.railHold = none ∧ s.bld.stage ≠ 0 ∧ s.bld.stage ≠ 1 ∧ s.bld.stage ≠ 4 ∧ st ≠ .ok)
    ∧ (∃ (s : State) (l : Link),
    s.fab.links = [l] ∧ l.state = .up) :=
  ⟨⟨State.reset.onBld fun b => { b with node := .computeReset, stage := 8 }, by and_intros <;> decide +kernel⟩,
   ⟨State.reset.onBld fun b => { b with node := .booting, stage := 1 }, .supplyFault, by and_intros <;> decide +kernel⟩,
   ⟨State.reset.onBld fun b => { b with node := .booting, stage := 4 }, .clockFault, by and_intros <;> decide +kernel⟩,
   ⟨State.reset.onBld fun b => { b with node := .booting, stage := 2 }, .imageInvalid, by and_intros <;> decide +kernel⟩,
   ⟨State.reset.onBld fun b => { b with node := .booting, stage := 9 }, .badParam, by and_intros <;> decide +kernel⟩,
   ⟨(linked [up0]), up0, by and_intros <;> decide +kernel⟩⟩

/-- States that meet the hypotheses of `BootStages` (clauses 14). -/
theorem witness_BootStages_4 :
    ∃ (s : State),
    s.fab.links = [] :=
  ⟨(((hostNode.onBld fun b => { b with node := .ready, off := false })).onPcr fun p => { p with ref156 := true }), by decide +kernel⟩

/-- States that meet the hypotheses of `Images` (clauses 1, 2, 3, 4, 5, 6). -/
theorem witness_Images_1 :
    (∃ (s : State) (t : State) (p : HostPkt) (ref : Nat) (sub : Nat) (b : Bool),
    s.accept? p 0x44 false true true = some (ref, t) ∧ p.payloadOk = true ∧ 8 < sub)
    ∧ (∃ (s : State) (t : State) (p : HostPkt) (ref : Nat) (sub : Nat) (b : Bool),
    s.accept? p 0x44 false true true = some (ref, t) ∧ p.payloadOk = true ∧ sub ≤ 8 ∧ t.slot? sub b = none)
    ∧ (∃ (s : State) (t : State) (p : HostPkt) (ref : Nat) (sub : Nat) (b : Bool) (x : ImageSlot) (y : ImageSlot) (k : Nat),
    s.accept? p 0x44 false true true = some (ref, t) ∧ p.payloadOk = true ∧ sub ≤ 8 ∧ t.slot? sub b = some x ∧ k ≤ 8 ∧ k ≠ sub ∧ t.slot? k (t.nextSlot k) = some y ∧ (x.generation + 1 < y.generation ∨ y.generation + 1 < x.generation))
    ∧ (∃ (s : State) (t : State) (p : HostPkt) (ref : Nat) (sub : Nat) (b : Bool) (x : ImageSlot),
    s.accept? p 0x44 false true true = some (ref, t) ∧ p.payloadOk = true ∧ sub ≤ 8 ∧ t.slot? sub b = some x ∧ t.spread sub b = false)
    ∧ (∃ (s : State) (sub : Nat) (b : Bool),
    sub < 3 ∧ s.canonical ∧ s.sec.identityKey = none)
    ∧ (∃ (s : State) (sub : Nat) (b : Bool),
    4 ≤ sub ∧ sub ≤ 8 ∧ b ≠ s.activeSlot sub ∧ s.canonical ∧ s.sec.identityKey = none) :=
  ⟨⟨(hostNode.onBld fun b => { b with node := .ready }), accepted ((hostNode.onBld fun b => { b with node := .ready })) 0x44 false true true, pkt0, hostNode.hcp.nextRef, 9, true, by and_intros <;> decide +kernel⟩,
   ⟨(hostNode.onBld fun b => { b with node := .ready }), accepted ((hostNode.onBld fun b => { b with node := .ready })) 0x44 false true true, pkt0, hostNode.hcp.nextRef, 8, true, by and_intros <;> decide +kernel⟩,
   ⟨((hostNode.onBld fun b => { b with node := .ready }).onBld fun b => { b with slots := [⟨4, true, 7, 0⟩, ⟨5, false, 5, 0⟩] }), accepted (((hostNode.onBld fun b => { b with node := .ready }).onBld fun b => { b with slots := [⟨4, true, 7, 0⟩, ⟨5, false, 5, 0⟩] })) 0x44 false true true, pkt0, hostNode.hcp.nextRef, 4, true, ⟨4, true, 7, 0⟩, ⟨5, false, 5, 0⟩, 5, by and_intros <;> decide +kernel⟩,
   ⟨((hostNode.onBld fun b => { b with node := .ready }).onBld fun b => { b with slots := [⟨4, true, 6, 0⟩, ⟨5, false, 5, 0⟩] }), accepted (((hostNode.onBld fun b => { b with node := .ready }).onBld fun b => { b with slots := [⟨4, true, 6, 0⟩, ⟨5, false, 5, 0⟩] })) 0x44 false true true, pkt0, hostNode.hcp.nextRef, 4, true, ⟨4, true, 6, 0⟩, by and_intros <;> decide +kernel⟩,
   ⟨((hostNode.onBld fun b => { b with node := .ready }).onBld fun b => { b with slots := [⟨1, true, 6, 0⟩] }), 1, true, by decide +kernel, by unfold State.canonical; decide +kernel, by decide +kernel⟩,
   ⟨((hostNode.onBld fun b => { b with node := .ready }).onBld fun b => { b with slots := [⟨4, true, 6, 0⟩, ⟨5, false, 5, 0⟩] }), 4, true, by decide +kernel, by decide +kernel, by decide +kernel, by unfold State.canonical; decide +kernel, by decide +kernel⟩⟩

/-- States that meet the hypotheses of `Images` (clauses 7, 8, 10, 11, 12). -/
theorem witness_Images_2 :
    (∃ (s : State) (t : State) (p : HostPkt) (ref : Nat),
    s.accept? p 0x45 false true true = some (ref, t) ∧ p.payloadOk = true)
    ∧ (∃ (s : State) (sub : Nat),
    sub ≠ 1)
    ∧ (∃ (s : State) (sub : Nat) (old : Bool),
    s.bld.health.find? (·.1 == sub) = some (sub, old) ∧ sub ≠ 3)
    ∧ (∃ (s : State) (old : Bool),
    s.bld.health.find? (·.1 == 3) = some (3, old))
    ∧ (∃ (s : State) (sub : Nat),
    s.bld.health.find? (·.1 == sub) = none) :=
  ⟨⟨(hostNode.onBld fun b => { b with node := .ready }), accepted ((hostNode.onBld fun b => { b with node := .ready })) 0x45 false true true, pkt0, hostNode.hcp.nextRef, by and_intros <;> decide +kernel⟩,
   ⟨(hostNode.onBld fun b => { b with health := [(3, false)] }), 3, by decide +kernel⟩,
   ⟨(hostNode.onBld fun b => { b with health := [(1, false)] }), 1, false, by and_intros <;> decide +kernel⟩,
   ⟨(hostNode.onBld fun b => { b with health := [(3, false)] }), false, by decide +kernel⟩,
   ⟨(hostNode.onBld fun b => { b with health := [(3, false)] }), 1, by decide +kernel⟩⟩

/-- States that meet the hypotheses of `ImageSessions` (clauses 1, 2, 3, 4, 5, 6). -/
theorem witness_ImageSessions_1 :
    (∃ (s : State) (t : State) (p : HostPkt) (ref : Nat) (o : BcastOpen) (m : List Byte) (cs : List Nat) (ps : List Nat),
    s.accept? p 0x40 false true true = some (ref, t) ∧ p.payloadOk = true ∧ o.rsvdOk = true ∧ m.length = 704 ∧ cs.length < 32 ∧ ps.length < 32 ∧ manifestFormOk m = false)
    ∧ (∃ (s : State) (t : State) (p : HostPkt) (ref : Nat) (o : BcastOpen) (m : List Byte) (cs : List Nat) (ps : List Nat),
    s.accept? p 0x40 false true true = some (ref, t) ∧ p.payloadOk = true ∧ o.rsvdOk = true ∧ m.length = 704 ∧ cs.length < 32 ∧ ps.length < 32 ∧ manifestFormOk m = true ∧ t.manifestSigned (parseManifest m) = false)
    ∧ (∃ (s : State) (t : State) (p : HostPkt) (ref : Nat) (o : BcastOpen) (m : List Byte) (cs : List Nat) (ps : List Nat),
    s.accept? p 0x40 false true true = some (ref, t) ∧ p.payloadOk = true ∧ o.rsvdOk = true ∧ m.length = 704 ∧ cs.length < 32 ∧ ps.length < 32 ∧ manifestFormOk m = true ∧ t.manifestSigned (parseManifest m) = true ∧ (o.dest % 65536 ≠ 0 ∨ 16 < cs.length ∨ 16 < ps.length))
    ∧ (∃ (s : State) (t : State) (p : HostPkt) (ref : Nat) (o : BcastOpen) (m : List Byte) (cs : List Nat) (ps : List Nat),
    s.accept? p 0x40 false true true = some (ref, t) ∧ p.payloadOk = true ∧ o.rsvdOk = true ∧ m.length = 704 ∧ cs.length < 32 ∧ ps.length < 32 ∧ manifestFormOk m = true ∧ t.manifestSigned (parseManifest m) = true ∧ t.bcastArgsOk o (parseManifest m) cs ps = true ∧ ((t.session? o.session).isSome = true ∨ 16 ≤ t.bld.sessions.length))
    ∧ (∃ (s : State) (t : State) (p : HostPkt) (ref : Nat) (o : BcastOpen) (m : List Byte) (cs : List Nat) (ps : List Nat),
    s.accept? p 0x40 false true true = some (ref, t) ∧ p.payloadOk = true ∧ o.rsvdOk = true ∧ m.length = 704 ∧ cs.length < 32 ∧ ps.length < 32 ∧ manifestFormOk m = true ∧ t.manifestSigned (parseManifest m) = true ∧ t.bcastArgsOk o (parseManifest m) cs ps = true ∧ t.session? o.session = none ∧ t.bld.sessions.length < 16)
    ∧ (∃ (s : State) (t : State) (p : HostPkt) (ref : Nat) (n : Nat) (b : Bcast),
    s.accept? p 0x41 false true true = some (ref, t) ∧ p.payloadOk = true ∧ t.session? n = some b ∧ b.o.root = true ∧ b.sending = false ∧ t.sessionState b = 1) :=
  ⟨⟨(hostNode.onBld fun b => { b with node := .ready }), accepted ((hostNode.onBld fun b => { b with node := .ready })) 0x40 false true true, pkt0, hostNode.hcp.nextRef, { session := 7, parent := 9, root := false, dest := 0x10000, repairWaitUs := 100, repairRounds := 3, rsvdOk := true }, List.replicate 704 0, [], [], by and_intros <;> decide +kernel⟩,
   ⟨(hostNode.onBld fun b => { b with node := .ready }), accepted ((hostNode.onBld fun b => { b with node := .ready })) 0x40 false true true, pkt0, hostNode.hcp.nextRef, { session := 7, parent := 9, root := false, dest := 0x10000, repairWaitUs := 100, repairRounds := 3, rsvdOk := true }, manifest0, [], [], by and_intros <;> decide +kernel⟩,
   ⟨(hostNode.onBld fun b => { b with node := .ready }).onSec fun e => { e with approvers := [(0, rsaN)] }, accepted ((hostNode.onBld fun b => { b with node := .ready }).onSec fun e => { e with approvers := [(0, rsaN)] }) 0x40 false true true, pkt0, hostNode.hcp.nextRef, { session := 7, parent := 9, root := false, dest := 0x10001, repairWaitUs := 100, repairRounds := 3, rsvdOk := true }, manifest1, [], [], by and_intros <;> decide +kernel⟩,
   ⟨(((hostNode.onBld fun b => { b with node := .ready }).onSec fun e => { e with approvers := [(0, rsaN)] }).onBld fun b => { b with sessions := [bcast0] }), accepted ((((hostNode.onBld fun b => { b with node := .ready }).onSec fun e => { e with approvers := [(0, rsaN)] }).onBld fun b => { b with sessions := [bcast0] })) 0x40 false true true, pkt0, hostNode.hcp.nextRef, { session := 7, parent := 9, root := false, dest := 2 ^ 26, repairWaitUs := 100, repairRounds := 3, rsvdOk := true }, manifest1, [], [], by and_intros <;> decide +kernel⟩,
   ⟨(hostNode.onBld fun b => { b with node := .ready }).onSec fun e => { e with approvers := [(0, rsaN)] }, accepted ((hostNode.onBld fun b => { b with node := .ready }).onSec fun e => { e with approvers := [(0, rsaN)] }) 0x40 false true true, pkt0, hostNode.hcp.nextRef, { session := 7, parent := 9, root := false, dest := 2 ^ 26, repairWaitUs := 100, repairRounds := 3, rsvdOk := true }, manifest1, [], [], by and_intros <;> decide +kernel⟩,
   ⟨(((hostNode).onBld fun b => { b with node := .ready, sessions := [{ bcast0 with o := { bcast0.o with root := true } }] }).setReg (R.BLD_BCAST_A_STATE 0) 1), accepted ((((hostNode).onBld fun b => { b with node := .ready, sessions := [{ bcast0 with o := { bcast0.o with root := true } }] }).setReg (R.BLD_BCAST_A_STATE 0) 1)) 0x41 false true true, pkt0, hostNode.hcp.nextRef, 7, { bcast0 with o := { bcast0.o with root := true } }, by and_intros <;> decide +kernel⟩⟩

/-- States that meet the hypotheses of `ImageSessions` (clauses 7, 8, 9, 10, 11, 12). -/
theorem witness_ImageSessions_2 :
    (∃ (s : State) (t : State) (p : HostPkt) (ref : Nat) (n : Nat) (b : Bcast),
    s.accept? p 0x42 false true true = some (ref, t) ∧ p.payloadOk = true ∧ t.session? n = some b)
    ∧ (∃ (s : State) (t : State) (p : HostPkt) (ref : Nat) (n : Nat) (b : Bcast),
    s.accept? p 0x43 false true false = some (ref, t) ∧ p.payloadOk = true ∧ t.session? n = some b)
    ∧ (∃ (s : State) (b : Bcast),
    b.k < 16 ∧ s.canonical)
    ∧ (∃ (s : State) (n : Nat) (b : Bcast),
    s.receiving? n = some b ∧ b.writing = false ∧ b.o.root = false ∧ b.missing = [] ∧ s.imageOk b = false)
    ∧ (∃ (s : State) (n : Nat) (b : Bcast),
    s.receiving? n = some b ∧ b.writing = false ∧ b.o.root = false ∧ b.missing = [] ∧ s.imageOk b = true ∧ b.manifest.kind = 1)
    ∧ (∃ (s : State) (n : Nat) (b : Bcast),
    s.receiving? n = some b ∧ b.writing = false ∧ b.o.root = true ∧ b.sending = true ∧ s.imageOk b = true ∧ b.manifest.kind = 0) :=
  ⟨⟨(((hostNode).onBld fun b => { b with node := .ready, sessions := [bcast0] }).setReg (R.BLD_BCAST_A_STATE 0) 1), accepted ((((hostNode).onBld fun b => { b with node := .ready, sessions := [bcast0] }).setReg (R.BLD_BCAST_A_STATE 0) 1)) 0x42 false true true, pkt0, hostNode.hcp.nextRef, 7, bcast0, by and_intros <;> decide +kernel⟩,
   ⟨(((hostNode).onBld fun b => { b with node := .ready, sessions := [bcast0] }).setReg (R.BLD_BCAST_A_STATE 0) 1), accepted ((((hostNode).onBld fun b => { b with node := .ready, sessions := [bcast0] }).setReg (R.BLD_BCAST_A_STATE 0) 1)) 0x43 false true false, pkt0, hostNode.hcp.nextRef, 7, bcast0, by and_intros <;> decide +kernel⟩,
   ⟨(((hostNode).onBld fun b => { b with node := .ready, sessions := [bcast0] }).setReg (R.BLD_BCAST_A_STATE 0) 1), bcast0, by decide +kernel, by unfold State.canonical; decide +kernel⟩,
   ⟨(((hostNode).onBld fun b => { b with node := .ready, sessions := [{ bcast0 with held := [0], manifest := { bcast0.manifest with length := 1 } }] }).setReg (R.BLD_BCAST_A_STATE 0) 1), 7, { bcast0 with held := [0], manifest := { bcast0.manifest with length := 1 } }, by and_intros <;> decide +kernel⟩,
   ⟨(((hostNode).onBld fun b => { b with node := .ready, sessions := [{ bcast0 with held := [0], manifest := { bcast0.manifest with imageHash := sha512 [0], length := 1 } }] }).setReg (R.BLD_BCAST_A_STATE 0) 1), 7, { bcast0 with held := [0], manifest := { bcast0.manifest with imageHash := sha512 [0], length := 1 } }, by and_intros <;> decide +kernel⟩,
   ⟨(((hostNode).onBld fun b => { b with node := .ready, sessions := [{ bcast0 with o := { bcast0.o with root := true }, sending := true, manifest := { bcast0.manifest with imageHash := sha512 [0], length := 1, kind := 0 } }] }).setReg (R.BLD_BCAST_A_STATE 0) 1), 7, { bcast0 with o := { bcast0.o with root := true }, sending := true, manifest := { bcast0.manifest with imageHash := sha512 [0], length := 1, kind := 0 } }, by and_intros <;> decide +kernel⟩⟩

/-- States that meet the hypotheses of `ImageSessions` (clauses 13). -/
theorem witness_ImageSessions_3 :
    ∃ (s : State) (n : Nat) (b : Bcast),
    s.receiving? n = some b ∧ b.writing = true :=
  ⟨(((hostNode).onBld fun b => { b with node := .ready, sessions := [{ bcast0 with held := [0], writing := true, manifest := { bcast0.manifest with kind := 0, subsystem := 4, fwGeneration := 3 } }] }).setReg (R.BLD_BCAST_A_STATE 0) 1), 7, { bcast0 with held := [0], writing := true, manifest := { bcast0.manifest with kind := 0, subsystem := 4, fwGeneration := 3 } }, by and_intros <;> decide +kernel⟩

/-- States that meet the hypotheses of `ImageRepair` (clauses 1, 2, 3, 4). -/
theorem witness_ImageRepair_1 :
    (∃ (s : State) (f : Frame) (m : BcastMsg),
    f.body = .bcast m ∧ (s.takeFrame f).session? m.session = none)
    ∧ (∃ (s : State) (f : Frame) (m : BcastMsg) (b : Bcast),
    f.body = .bcast m ∧ (s.takeFrame f).session? m.session = some b ∧ ((s.takeFrame f).sessionState b = 3 ∨ (f.src ≠ b.o.parent ∧ f.src ∉ b.repairPeers) ∨ b.manifest.length < m.offset + m.data.length))
    ∧ (∃ (s : State) (f : Frame) (m : BcastMsg) (b : Bcast),
    f.body = .bcast m ∧ (s.takeFrame f).session? m.session = some b ∧ ((s.takeFrame f).sessionState b = 3 ∨ (f.src ≠ b.o.parent ∧ f.src ∉ b.repairPeers) ∨ b.manifest.length < m.offset + m.data.length))
    ∧ (∃ (s : State) (f : Frame) (m : BcastMsg) (b : Bcast),
    f.body = .bcast m ∧ (s.takeFrame f).session? m.session = some b ∧ ((s.takeFrame f).sessionState b = 3 ∨ (f.src ≠ b.o.parent ∧ f.src ∉ b.repairPeers) ∨ b.manifest.length < m.offset + m.data.length))
    ∧ (∃ (s : State) (f : Frame) (m : BcastMsg) (b : Bcast),
    f.body = .bcast m ∧ (s.takeFrame f).session? m.session = some b ∧ (s.takeFrame f).sessionState b = 1 ∧ b.o.root = false ∧ f.src = b.o.parent ∧ m.offset + m.data.length ≤ b.manifest.length)
    ∧ (∃ (s : State) (b : Bcast) (f : Frame) (m : BcastMsg),
    (m.offset / 65536, m.offset / 4096 % 16) ∈ b.packets) :=
  ⟨⟨hostNode, (mkFrame 9 0 false (.bcast ⟨7, 0, 0, 100000, 5, [1, 2]⟩)), ⟨7, 0, 0, 100000, 5, [1, 2]⟩, by and_intros <;> decide +kernel⟩,
   ⟨(((hostNode).onBld fun b => { b with node := .ready, sessions := [bcast0] }).setReg (R.BLD_BCAST_A_STATE 0) 3), (mkFrame 9 0 false (.bcast ⟨7, 0, 0, 100000, 5, [1, 2]⟩)), ⟨7, 0, 0, 100000, 5, [1, 2]⟩, bcast0, by and_intros <;> decide +kernel⟩,
   ⟨(((hostNode).onBld fun b => { b with node := .ready, sessions := [bcast0] }).setReg (R.BLD_BCAST_A_STATE 0) 1), (mkFrame 8 0 false (.bcast ⟨7, 0, 0, 100000, 5, [1, 2]⟩)), ⟨7, 0, 0, 100000, 5, [1, 2]⟩, bcast0, by and_intros <;> decide +kernel⟩,
   ⟨(((hostNode).onBld fun b => { b with node := .ready, sessions := [bcast0] }).setReg (R.BLD_BCAST_A_STATE 0) 1), (mkFrame 9 0 false (.bcast ⟨7, 1, 99999, 100000, 5, [1, 2]⟩)), ⟨7, 1, 99999, 100000, 5, [1, 2]⟩, bcast0, by and_intros <;> decide +kernel⟩,
   ⟨(((hostNode).onBld fun b => { b with node := .ready, sessions := [bcast0] }).setReg (R.BLD_BCAST_A_STATE 0) 1), (mkFrame 9 0 false (.bcast ⟨7, 0, 0, 100000, 5, [1, 2]⟩)), ⟨7, 0, 0, 100000, 5, [1, 2]⟩, bcast0, by and_intros <;> decide +kernel⟩,
   ⟨(((hostNode).onBld fun b => { b with node := .ready, sessions := [{ bcast0 with packets := [(0, 0)] }] }).setReg (R.BLD_BCAST_A_STATE 0) 1), { bcast0 with packets := [(0, 0)] }, (mkFrame 9 0 false (.bcast ⟨7, 0, 0, 100000, 5, [1, 2]⟩)), ⟨7, 0, 0, 100000, 5, [1, 2]⟩, by decide +kernel⟩⟩

/-- States that meet the hypotheses of `ImageRepair` (clauses 5, 6, 7, 8, 9, 10). -/
theorem witness_ImageRepair_2 :
    (∃ (s : State) (b : Bcast) (c : Nat) (crc : Nat),
    crc32c (s.chunkBytes b c) ≠ crc)
    ∧ (∃ (s : State) (b : Bcast) (c : Nat) (crc : Nat),
    crc32c (s.chunkBytes b c) = crc ∧ b.rounds = 0)
    ∧ (∃ (s : State) (src : Nat) (n : Nat) (chunks : Nat) (b : Bcast),
    (s.takeMsg src (.bcastEnd n chunks)).session? n = some b ∧ b.o.root = false ∧ src = b.o.parent ∧ (s.takeMsg src (.bcastEnd n chunks)).sessionState b = 2 ∧ b.forwarded = false)
    ∧ (∃ (s : State) (src : Nat) (n : Nat) (chunks : Nat) (b : Bcast),
    (s.takeMsg src (.bcastEnd n chunks)).session? n = some b ∧ b.o.root = false ∧ src = b.o.parent ∧ (s.takeMsg src (.bcastEnd n chunks)).sessionState b = 1 ∧ b.forwarded = false)
    ∧ (∃ (s : State) (b : Bcast),
    b.rounds = 0 ∧ b.missing ≠ [])
    ∧ (∃ (s : State) (b : Bcast) (node : Nat),
    4 ≤ b.asked.length) :=
  ⟨⟨(((hostNode).onBld fun b => { b with node := .ready, sessions := [{ bcast0 with manifest := { bcast0.manifest with length := 8 } }] }).setReg (R.BLD_BCAST_A_STATE 0) 1), { bcast0 with manifest := { bcast0.manifest with length := 8 } }, 0, 5, by decide +kernel⟩,
   ⟨(((hostNode).onBld fun b => { b with node := .ready, sessions := [{ bcast0 with manifest := { bcast0.manifest with length := 8 } }] }).setReg (R.BLD_BCAST_A_STATE 0) 1), { bcast0 with manifest := { bcast0.manifest with length := 8 } }, 0, crc32c (State.chunkBytes (((hostNode).onBld fun b => { b with node := .ready, sessions := [{ bcast0 with manifest := { bcast0.manifest with length := 8 } }] }).setReg (R.BLD_BCAST_A_STATE 0) 1) ({ bcast0 with manifest := { bcast0.manifest with length := 8 } }) 0), by and_intros <;> decide +kernel⟩,
   ⟨(((hostNode).onBld fun b => { b with node := .ready, sessions := [bcast0] }).setReg (R.BLD_BCAST_A_STATE 0) 2), 9, 7, 2, bcast0, by and_intros <;> decide +kernel⟩,
   ⟨(((hostNode).onBld fun b => { b with node := .ready, sessions := [bcast0] }).setReg (R.BLD_BCAST_A_STATE 0) 1), 9, 7, 2, bcast0, by and_intros <;> decide +kernel⟩,
   ⟨(((hostNode).onBld fun b => { b with node := .ready, sessions := [bcast0] }).setReg (R.BLD_BCAST_A_STATE 0) 1), bcast0, by and_intros <;> decide +kernel⟩,
   ⟨(((hostNode).onBld fun b => { b with node := .ready, sessions := [{ bcast0 with asked := [(9, 0, 1), (9, 2, 1), (9, 4, 1), (9, 6, 1)] }] }).setReg (R.BLD_BCAST_A_STATE 0) 1), { bcast0 with asked := [(9, 0, 1), (9, 2, 1), (9, 4, 1), (9, 6, 1)] }, 9, by decide +kernel⟩⟩

/-- States that meet the hypotheses of `ImageRepair` (clauses 11, 12, 13, 14, 15, 16). -/
theorem witness_ImageRepair_3 :
    (∃ (s : State) (src : Nat) (n : Nat) (first : Nat) (count : Nat) (b : Bcast),
    (s.takeMsg src (.repairReq n first count)).session? n = some b)
    ∧ (∃ (s : State) (src : Nat) (n : Nat) (c : Nat) (b : Bcast),
    b.o.session = n ∧ c < b.manifest.chunks ∧ c ∉ b.held)
    ∧ (∃ (s : State) (src : Nat) (c : Nat) (b : Bcast),
    c < b.manifest.chunks ∧ c ∈ b.held ∧ s.sessionState b ≠ 3)
    ∧ (∃ (s : State) (src : Nat) (n : Nat) (first : Nat) (count : Nat) (b : Bcast),
    (s.takeMsg src (.repairNak n first count)).receiving? n = some b ∧ (src, first, count) ∈ b.asked ∧ 0 < count)
    ∧ (∃ (s : State) (src : Nat) (n : Nat) (a : Nat) (b : Nat) (c : Bool),
    s.session? n = none)
    ∧ (∃ (s : State) (b : Bcast),
    b.queryLeft = []) :=
  ⟨⟨(((hostNode).onBld fun b => { b with node := .ready, sessions := [bcast0] }).setReg (R.BLD_BCAST_A_STATE 0) 1), 9, 7, 0, 1, bcast0, by decide +kernel⟩,
   ⟨(((hostNode).onBld fun b => { b with node := .ready, sessions := [bcast0] }).setReg (R.BLD_BCAST_A_STATE 0) 1), 9, 7, 1, bcast0, by and_intros <;> decide +kernel⟩,
   ⟨(((hostNode).onBld fun b => { b with node := .ready, sessions := [{ bcast0 with held := [0], manifest := { bcast0.manifest with length := 8 } }] }).setReg (R.BLD_BCAST_A_STATE 0) 1), 9, 0, { bcast0 with held := [0], manifest := { bcast0.manifest with length := 8 } }, by and_intros <;> decide +kernel⟩,
   ⟨(((hostNode).onBld fun b => { b with node := .ready, sessions := [{ bcast0 with asked := [(9, 0, 1)] }] }).setReg (R.BLD_BCAST_A_STATE 0) 1), 9, 7, 0, 1, { bcast0 with asked := [(9, 0, 1)] }, by and_intros <;> decide +kernel⟩,
   ⟨hostNode, 9, 7, 0, 1, true, by decide +kernel⟩,
   ⟨(((hostNode).onBld fun b => { b with node := .ready, sessions := [bcast0] }).setReg (R.BLD_BCAST_A_STATE 0) 1), bcast0, by decide +kernel⟩⟩

/-- States that meet the hypotheses of `ImageRepair` (clauses 17, 18, 19, 20, 21, 22). -/
theorem witness_ImageRepair_4 :
    (∃ (s : State) (src : Nat) (n : Nat) (b : Bcast),
    (s.takeMsg src (.statusQuery n)).session? n = some b)
    ∧ (∃ (s : State) (src : Nat) (n : Nat) (held : Nat) (b : Bcast),
    (s.takeMsg src (.statusReply n held true)).receiving? n = some b ∧ src ∈ b.queryLeft)
    ∧ (∃ (s : State) (src : Nat) (n : Nat) (held : Nat) (b : Bcast),
    (s.takeMsg src (.statusReply n held false)).receiving? n = some b ∧ src ∈ b.queryLeft)
    ∧ (∃ (s : State) (n : Nat) (b : Bcast),
    s.receiving? n = some b ∧ b.o.root = false ∧ b.begun = true ∧ b.missing ≠ [] ∧ b.o.repairRounds ≤ b.rounds)
    ∧ (∃ (s : State) (n : Nat) (b : Bcast),
    s.receiving? n = some b ∧ b.o.root = false ∧ b.begun = true ∧ b.missing ≠ [] ∧ b.rounds < b.o.repairRounds ∧ b.rounds ≠ 0 ∧ b.peers ≠ [])
    ∧ (∃ (s : State) (n : Nat) (b : Bcast),
    s.receiving? n = some b ∧ b.o.root = false ∧ b.begun = true ∧ b.missing ≠ [] ∧ b.rounds < b.o.repairRounds ∧ b.rounds = 0) :=
  ⟨⟨(((hostNode).onBld fun b => { b with node := .ready, sessions := [bcast0] }).setReg (R.BLD_BCAST_A_STATE 0) 1), 3, 7, bcast0, by decide +kernel⟩,
   ⟨(((hostNode).onBld fun b => { b with node := .ready, sessions := [{ bcast0 with queryLeft := [3, 4] }] }).setReg (R.BLD_BCAST_A_STATE 0) 1), 3, 7, 2, { bcast0 with queryLeft := [3, 4] }, by and_intros <;> decide +kernel⟩,
   ⟨(((hostNode).onBld fun b => { b with node := .ready, sessions := [{ bcast0 with queryLeft := [3, 4] }] }).setReg (R.BLD_BCAST_A_STATE 0) 1), 3, 7, 2, { bcast0 with queryLeft := [3, 4] }, by and_intros <;> decide +kernel⟩,
   ⟨(((hostNode).onBld fun b => { b with node := .ready, sessions := [{ bcast0 with begun := true, rounds := 3 }] }).setReg (R.BLD_BCAST_A_STATE 0) 1), 7, { bcast0 with begun := true, rounds := 3 }, by and_intros <;> decide +kernel⟩,
   ⟨(((hostNode).onBld fun b => { b with node := .ready, sessions := [{ bcast0 with begun := true, rounds := 1 }] }).setReg (R.BLD_BCAST_A_STATE 0) 1), 7, { bcast0 with begun := true, rounds := 1 }, by and_intros <;> decide +kernel⟩,
   ⟨(((hostNode).onBld fun b => { b with node := .ready, sessions := [{ bcast0 with begun := true, rounds := 0 }] }).setReg (R.BLD_BCAST_A_STATE 0) 1), 7, { bcast0 with begun := true, rounds := 0 }, by and_intros <;> decide +kernel⟩⟩

/-- States that meet the hypotheses of `Licences` (clauses 1, 2, 3, 4, 5, 6). -/
theorem witness_Licences_1 :
    (∃ (s : State) (t : State) (p : HostPkt) (ref : Nat) (data : List Byte),
    s.accept? p 0x48 false true false = some (ref, t) ∧ p.payloadOk = true ∧ data.length = 704)
    ∧ (∃ (s : State) (bs : List Byte),
    licenceFormOk bs = false)
    ∧ (∃ (s : State) (bs : List Byte),
    licenceFormOk bs = true ∧ numAt bs 0x40 64 ≠ s.nodeHash)
    ∧ (∃ (s : State) (bs : List Byte),
    licenceFormOk bs = true ∧ numAt bs 0x40 64 = s.nodeHash ∧ s.flezuSigned 3 (numAt bs 0x80 64) (numAt bs 0xC0 512) (bs.take 0xC0) = false)
    ∧ (∃ (s : State) (bs : List Byte),
    (s.installLicence bs).2 = .ok)
    ∧ (∃ (s : State) (bs : List Byte),
    (s.installLicence bs).2 ≠ .ok) :=
  ⟨⟨(hostNode.onBld fun b => { b with node := .ready }), accepted ((hostNode.onBld fun b => { b with node := .ready })) 0x48 false true false, pkt0, hostNode.hcp.nextRef, List.replicate 704 0, by and_intros <;> decide +kernel⟩,
   ⟨hostNode, [], by decide +kernel⟩,
   ⟨(hostNode.onSec fun e => { e with identityN := rsaN }), (licence0 (0) (0)), by and_intros <;> decide +kernel⟩,
   ⟨(hostNode.onSec fun e => { e with identityN := rsaN }), (licence0 (rsaKeyHash) (0)), by and_intros <;> decide +kernel⟩,
   ⟨licNode, licence0 rsaKeyHash licSig, by decide +kernel⟩,
   ⟨(hostNode.onSec fun e => { e with identityN := rsaN }), (licence0 (0) (0)), by decide +kernel⟩⟩

/-- States that meet the hypotheses of `Licences` (clauses 7, 8, 9, 10, 12, 13). -/
theorem witness_Licences_2 :
    (∃ (s : State) (t : State) (p : HostPkt) (ref : Nat),
    s.accept? p 0x49 false true false = some (ref, t) ∧ p.payloadOk = true)
    ∧ (∃ (s : State) (l : Licence) (ls : List Licence),
    l.duration ≠ 0)
    ∧ (∃ (s : State) (t : State) (p : HostPkt) (ref : Nat) (n : Nat),
    s.accept? p 0x4A false true false = some (ref, t) ∧ p.payloadOk = true ∧ t.bld.licences.any (·.serial == n) = true)
    ∧ (∃ (s : State) (t : State) (p : HostPkt) (ref : Nat) (n : Nat),
    s.accept? p 0x4A false true false = some (ref, t) ∧ p.payloadOk = true ∧ t.bld.licences.any (·.serial == n) = false)
    ∧ (∃ (s : State) (n : Nat) (l : Licence),
    s.bld.licences.find? (·.serial == n) = some l ∧ l.lapsed = false ∧ l.duration ≠ 0 ∧ l.duration ≤ s.elapsed l)
    ∧ (∃ (s : State) (n : Nat) (l : Licence),
    s.bld.licences.find? (·.serial == n) = some l ∧ (l.duration = 0 ∨ s.elapsed l < l.duration)) :=
  ⟨⟨(hostNode.onBld fun b => { b with node := .ready, licences := [{ bytes := [], serial := 5, features := 3, limits := 0, duration := 100, recorded := 0, since := 0, lapsed := false }] }), accepted ((hostNode.onBld fun b => { b with node := .ready, licences := [{ bytes := [], serial := 5, features := 3, limits := 0, duration := 100, recorded := 0, since := 0, lapsed := false }] })) 0x49 false true false, pkt0, hostNode.hcp.nextRef, by and_intros <;> decide +kernel⟩,
   ⟨(hostNode.onBld fun b => { b with node := .ready, licences := [{ bytes := [], serial := 5, features := 3, limits := 0, duration := 100, recorded := 0, since := 0, lapsed := false }] }), { bytes := [], serial := 5, features := 3, limits := 0, duration := 100, recorded := 0, since := 0, lapsed := false }, [], by decide +kernel⟩,
   ⟨(hostNode.onBld fun b => { b with node := .ready, licences := [{ bytes := [], serial := 5, features := 3, limits := 0, duration := 100, recorded := 0, since := 0, lapsed := false }] }), accepted ((hostNode.onBld fun b => { b with node := .ready, licences := [{ bytes := [], serial := 5, features := 3, limits := 0, duration := 100, recorded := 0, since := 0, lapsed := false }] })) 0x4A false true false, pkt0, hostNode.hcp.nextRef, 5, by and_intros <;> decide +kernel⟩,
   ⟨(hostNode.onBld fun b => { b with node := .ready, licences := [{ bytes := [], serial := 5, features := 3, limits := 0, duration := 100, recorded := 0, since := 0, lapsed := false }] }), accepted ((hostNode.onBld fun b => { b with node := .ready, licences := [{ bytes := [], serial := 5, features := 3, limits := 0, duration := 100, recorded := 0, since := 0, lapsed := false }] })) 0x4A false true false, pkt0, hostNode.hcp.nextRef, 6, by and_intros <;> decide +kernel⟩,
   ⟨(hostNode.onBld fun b => { b with node := .ready, licences := [{ bytes := [], serial := 5, features := 3, limits := 0, duration := 100, recorded := 100, since := 0, lapsed := false }] }), 5, { bytes := [], serial := 5, features := 3, limits := 0, duration := 100, recorded := 100, since := 0, lapsed := false }, by and_intros <;> decide +kernel⟩,
   ⟨(hostNode.onBld fun b => { b with node := .ready, licences := [{ bytes := [], serial := 5, features := 3, limits := 0, duration := 0, recorded := 0, since := 0, lapsed := false }] }), 5, { bytes := [], serial := 5, features := 3, limits := 0, duration := 0, recorded := 0, since := 0, lapsed := false }, by and_intros <;> decide +kernel⟩⟩

/-- States that meet the hypotheses of `Licences` (clauses 13). -/
theorem witness_Licences_3 :
    ∃ (s : State) (n : Nat) (l : Licence),
    s.bld.licences.find? (·.serial == n) = some l ∧ (l.duration = 0 ∨ s.elapsed l < l.duration) :=
  ⟨(hostNode.onBld fun b => { b with node := .ready, licences := [{ bytes := [], serial := 5, features := 3, limits := 0, duration := 100, recorded := 0, since := 0, lapsed := false }] }), 5, { bytes := [], serial := 5, features := 3, limits := 0, duration := 100, recorded := 0, since := 0, lapsed := false }, by and_intros <;> decide +kernel⟩

/-- States that meet the hypotheses of `Attestation` (clauses 1, 2, 4, 5, 6, 7). -/
theorem witness_Attestation :
    (∃ (s : State) (t : State) (p : HostPkt) (ref : Nat) (nonce : Nat) (d : CrtKey),
    s.accept? p 0x50 false true false = some (ref, t) ∧ p.payloadOk = true ∧ s.sec.identityKey = some d)
    ∧ (∃ (s : State) (t : State) (p : HostPkt) (ref : Nat) (nonce : Nat),
    s.accept? p 0x50 false true true = some (ref, t) ∧ p.payloadOk = true ∧ s.sec.identityKey = none)
    ∧ (∃ (s : State),
    s.sec.identityKey = none)
    ∧ (∃ (s : State) (w : Nat),
    s.sec.identityKey ≠ none ∧ s.canonical ∧ w < 56)
    ∧ (∃ (s : State),
    s.sec.identityKey ≠ none ∧ s.canonical)
    ∧ (∃ (s : State) (t : State) (p : HostPkt) (ref : Nat) (index : Nat),
    s.accept? p 0x51 false true false = some (ref, t) ∧ p.payloadOk = true ∧ index ≤ 4) :=
  ⟨⟨((hostNode.onBld fun b => { b with node := .ready }).onSec fun e => { e with identityN := 7, identityKey := some ⟨3, 5, 1, 1, 2⟩ }), accepted ((hostNode.onBld fun b => { b with node := .ready }).onSec fun e => { e with identityN := 7, identityKey := some ⟨3, 5, 1, 1, 2⟩ }) 0x50 false true false, pkt0, hostNode.hcp.nextRef, 5, ⟨3, 5, 1, 1, 2⟩, by and_intros <;> decide +kernel⟩,
   ⟨(hostNode.onBld fun b => { b with node := .ready }), accepted ((hostNode.onBld fun b => { b with node := .ready })) 0x50 false true false, pkt0, hostNode.hcp.nextRef, 5, by and_intros <;> decide +kernel⟩,
   ⟨(hostNode.onBld fun b => { b with node := .ready }), by decide +kernel⟩,
   ⟨(((hostNode.onBld fun b => { b with node := .ready })).onSec fun e => { e with identityN := 7, identityKey := some ⟨3, 5, 1, 1, 2⟩ }), 55, by decide +kernel, by unfold State.canonical; decide +kernel, by decide +kernel⟩,
   ⟨(((hostNode.onBld fun b => { b with node := .ready })).onSec fun e => { e with identityN := 7, identityKey := some ⟨3, 5, 1, 1, 2⟩ }), by decide +kernel, by unfold State.canonical; decide +kernel⟩,
   ⟨(hostNode.onBld fun b => { b with node := .ready }), accepted ((hostNode.onBld fun b => { b with node := .ready })) 0x51 false true false, pkt0, hostNode.hcp.nextRef, 4, by and_intros <;> decide +kernel⟩⟩

/-- States that meet the hypotheses of `DualApproval` (clauses 1, 2, 3, 4, 5). -/
theorem witness_DualApproval_1 :
    (∃ (s : State) (t : State) (p : HostPkt) (ref : Nat) (op : Nat) (digest : Nat),
    s.accept? p 0x52 false true false = some (ref, t) ∧ p.payloadOk = true ∧ op ∉ approvalOps)
    ∧ (∃ (s : State) (t : State) (p : HostPkt) (ref : Nat) (op : Nat) (digest : Nat),
    s.accept? p 0x52 false true false = some (ref, t) ∧ p.payloadOk = true ∧ op ∈ approvalOps ∧ t.sec.approvers.length < 2)
    ∧ (∃ (s : State) (t : State) (p : HostPkt) (ref : Nat) (op : Nat) (digest : Nat),
    s.accept? p 0x52 false true false = some (ref, t) ∧ p.payloadOk = true ∧ op ∈ approvalOps ∧ 2 ≤ t.sec.approvers.length ∧ (t.sec.sets.any (·.digest == digest) = true ∨ (∀ k < 4, t.sec.sets.any (·.k == k) = true)))
    ∧ (∃ (s : State) (t : State) (p : HostPkt) (ref : Nat) (op : Nat) (digest : Nat),
    s.accept? p 0x52 false true false = some (ref, t) ∧ p.payloadOk = true ∧ op ∈ approvalOps ∧ 2 ≤ t.sec.approvers.length ∧ (t.sec.sets.any (·.digest == digest) = true ∨ (∀ k < 4, t.sec.sets.any (·.k == k) = true)))
    ∧ (∃ (s : State) (t : State) (p : HostPkt) (ref : Nat) (op : Nat) (digest : Nat) (k : Nat),
    s.accept? p 0x52 false true false = some (ref, t) ∧ p.payloadOk = true ∧ op ∈ approvalOps ∧ 2 ≤ t.sec.approvers.length ∧ t.sec.sets.any (·.digest == digest) = false ∧ k < 4 ∧ t.sec.sets.any (·.k == k) = false ∧ (∀ j < k, t.sec.sets.any (·.k == j) = true))
    ∧ (∃ (s : State) (t : State) (p : HostPkt) (ref : Nat) (slot : Nat) (set : Nat) (sig : Nat),
    s.accept? p 0x53 false true false = some (ref, t) ∧ p.payloadOk = true ∧ t.sec.sets.find? (·.k == set) = none) :=
  ⟨⟨(hostNode.onBld fun b => { b with node := .ready }), accepted ((hostNode.onBld fun b => { b with node := .ready })) 0x52 false true false, pkt0, hostNode.hcp.nextRef, 0x49, 9, by and_intros <;> decide +kernel⟩,
   ⟨(hostNode.onBld fun b => { b with node := .ready }), accepted ((hostNode.onBld fun b => { b with node := .ready })) 0x52 false true false, pkt0, hostNode.hcp.nextRef, 0x48, 9, by and_intros <;> decide +kernel⟩,
   ⟨(((hostNode.onBld fun b => { b with node := .ready })).onSec fun e => { e with approvers := [(3, rsaN), (7, rsaN)], sets := [⟨1, 0x48, 9, 5, 256, []⟩] }), accepted ((((hostNode.onBld fun b => { b with node := .ready })).onSec fun e => { e with approvers := [(3, rsaN), (7, rsaN)], sets := [⟨1, 0x48, 9, 5, 256, []⟩] })) 0x52 false true false, pkt0, hostNode.hcp.nextRef, 0x48, 9, by and_intros <;> decide +kernel⟩,
   ⟨(((hostNode.onBld fun b => { b with node := .ready })).onSec fun e => { e with approvers := [(3, rsaN), (7, rsaN)], sets := [⟨0, 0x48, 0, 5, 256, []⟩, ⟨1, 0x48, 1, 5, 256, []⟩, ⟨2, 0x48, 2, 5, 256, []⟩, ⟨3, 0x48, 3, 5, 256, []⟩] }), accepted ((((hostNode.onBld fun b => { b with node := .ready })).onSec fun e => { e with approvers := [(3, rsaN), (7, rsaN)], sets := [⟨0, 0x48, 0, 5, 256, []⟩, ⟨1, 0x48, 1, 5, 256, []⟩, ⟨2, 0x48, 2, 5, 256, []⟩, ⟨3, 0x48, 3, 5, 256, []⟩] })) 0x52 false true false, pkt0, hostNode.hcp.nextRef, 0x4D, 9, by and_intros <;> decide +kernel⟩,
   ⟨(((hostNode.onBld fun b => { b with node := .ready })).onSec fun e => { e with approvers := [(3, rsaN), (7, rsaN)], sets := [⟨0, 0x48, 3, 5, 256, []⟩] }), accepted ((((hostNode.onBld fun b => { b with node := .ready })).onSec fun e => { e with approvers := [(3, rsaN), (7, rsaN)], sets := [⟨0, 0x48, 3, 5, 256, []⟩] })) 0x52 false true false, pkt0, hostNode.hcp.nextRef, 0x48, 9, 1, by and_intros <;> decide +kernel⟩,
   ⟨(hostNode.onBld fun b => { b with node := .ready }), accepted ((hostNode.onBld fun b => { b with node := .ready })) 0x53 false true false, pkt0, hostNode.hcp.nextRef, 3, 1, 5, by and_intros <;> decide +kernel⟩⟩

/-- States that meet the hypotheses of `DualApproval` (clauses 6, 7, 8, 9, 10). -/
theorem witness_DualApproval_2 :
    (∃ (s : State) (t : State) (p : HostPkt) (ref : Nat) (slot : Nat) (set : Nat) (sig : Nat) (x : ApprovalSet),
    s.accept? p 0x53 false true false = some (ref, t) ∧ p.payloadOk = true ∧ t.sec.sets.find? (·.k == set) = some x ∧ (2 ≤ x.slots.length ∨ x.deadline ≤ t.tick))
    ∧ (∃ (s : State) (t : State) (p : HostPkt) (ref : Nat) (slot : Nat) (set : Nat) (sig : Nat) (x : ApprovalSet),
    s.accept? p 0x53 false true false = some (ref, t) ∧ p.payloadOk = true ∧ t.sec.sets.find? (·.k == set) = some x ∧ (2 ≤ x.slots.length ∨ x.deadline ≤ t.tick))
    ∧ (∃ (s : State) (t : State) (p : HostPkt) (ref : Nat) (slot : Nat) (set : Nat) (sig : Nat) (x : ApprovalSet),
    s.accept? p 0x53 false true false = some (ref, t) ∧ p.payloadOk = true ∧ t.sec.sets.find? (·.k == set) = some x ∧ x.slots.length < 2 ∧ t.tick < x.deadline ∧ t.approver? slot = none)
    ∧ (∃ (s : State) (t : State) (p : HostPkt) (ref : Nat) (slot : Nat) (set : Nat) (sig : Nat) (n : Nat) (x : ApprovalSet),
    s.accept? p 0x53 false true false = some (ref, t) ∧ p.payloadOk = true ∧ t.sec.sets.find? (·.k == set) = some x ∧ x.slots.length < 2 ∧ t.tick < x.deadline ∧ t.approver? slot = some n ∧ slot ∈ x.slots)
    ∧ (∃ (s : State) (t : State) (p : HostPkt) (ref : Nat) (slot : Nat) (set : Nat) (sig : Nat) (n : Nat) (x : ApprovalSet),
    s.accept? p 0x53 false true false = some (ref, t) ∧ p.payloadOk = true ∧ t.sec.sets.find? (·.k == set) = some x ∧ x.slots.length < 2 ∧ t.tick < x.deadline ∧ t.approver? slot = some n ∧ slot ∉ x.slots ∧ rsaVerify n sig (t.statement x) = false)
    ∧ (∃ (s : State) (t : State) (p : HostPkt) (ref : Nat) (slot : Nat) (set : Nat) (sig : Nat) (n : Nat) (x : ApprovalSet),
    s.accept? p 0x53 false true false = some (ref, t) ∧ p.payloadOk = true ∧ t.sec.sets.find? (·.k == set) = some x ∧ x.slots.length < 2 ∧ t.tick < x.deadline ∧ t.approver? slot = some n ∧ slot ∉ x.slots ∧ rsaVerify n sig (t.statement x) = true) :=
  ⟨⟨(((hostNode.onBld fun b => { b with node := .ready })).onSec fun e => { e with approvers := [(3, rsaN), (7, rsaN)], sets := [⟨1, 0x48, 9, 5, 256, [3, 7]⟩] }), accepted ((((hostNode.onBld fun b => { b with node := .ready })).onSec fun e => { e with approvers := [(3, rsaN), (7, rsaN)], sets := [⟨1, 0x48, 9, 5, 256, [3, 7]⟩] })) 0x53 false true false, pkt0, hostNode.hcp.nextRef, 3, 1, 5, ⟨1, 0x48, 9, 5, 256, [3, 7]⟩, by and_intros <;> decide +kernel⟩,
   ⟨(((hostNode.onBld fun b => { b with node := .ready })).onSec fun e => { e with approvers := [(3, rsaN), (7, rsaN)], sets := [⟨1, 0x48, 9, 5, 0, []⟩] }), accepted ((((hostNode.onBld fun b => { b with node := .ready })).onSec fun e => { e with approvers := [(3, rsaN), (7, rsaN)], sets := [⟨1, 0x48, 9, 5, 0, []⟩] })) 0x53 false true false, pkt0, hostNode.hcp.nextRef, 3, 1, 5, ⟨1, 0x48, 9, 5, 0, []⟩, by and_intros <;> decide +kernel⟩,
   ⟨(((hostNode.onBld fun b => { b with node := .ready })).onSec fun e => { e with approvers := [(3, rsaN), (7, rsaN)], sets := [⟨1, 0x48, 9, 5, 256, []⟩] }), accepted ((((hostNode.onBld fun b => { b with node := .ready })).onSec fun e => { e with approvers := [(3, rsaN), (7, rsaN)], sets := [⟨1, 0x48, 9, 5, 256, []⟩] })) 0x53 false true false, pkt0, hostNode.hcp.nextRef, 4, 1, 5, ⟨1, 0x48, 9, 5, 256, []⟩, by and_intros <;> decide +kernel⟩,
   ⟨(((hostNode.onBld fun b => { b with node := .ready })).onSec fun e => { e with approvers := [(3, rsaN), (7, rsaN)], sets := [⟨1, 0x48, 9, 5, 256, [3]⟩] }), accepted ((((hostNode.onBld fun b => { b with node := .ready })).onSec fun e => { e with approvers := [(3, rsaN), (7, rsaN)], sets := [⟨1, 0x48, 9, 5, 256, [3]⟩] })) 0x53 false true false, pkt0, hostNode.hcp.nextRef, 3, 1, 5, rsaN, ⟨1, 0x48, 9, 5, 256, [3]⟩, by and_intros <;> decide +kernel⟩,
   ⟨(((hostNode.onBld fun b => { b with node := .ready })).onSec fun e => { e with approvers := [(3, rsaN), (7, rsaN)], sets := [⟨1, 0x48, 9, 5, 256, [3]⟩] }), accepted ((((hostNode.onBld fun b => { b with node := .ready })).onSec fun e => { e with approvers := [(3, rsaN), (7, rsaN)], sets := [⟨1, 0x48, 9, 5, 256, [3]⟩] })) 0x53 false true false, pkt0, hostNode.hcp.nextRef, 7, 1, 5, rsaN, ⟨1, 0x48, 9, 5, 256, [3]⟩, by and_intros <;> decide +kernel⟩,
   ⟨(((hostNode.onBld fun b => { b with node := .ready })).onSec fun e => { e with approvers := [(3, rsaN), (7, rsaN)], sets := [⟨1, 0x48, 9, 5, 256, [3]⟩] }), accepted ((((hostNode.onBld fun b => { b with node := .ready })).onSec fun e => { e with approvers := [(3, rsaN), (7, rsaN)], sets := [⟨1, 0x48, 9, 5, 256, [3]⟩] })) 0x53 false true false, pkt0, hostNode.hcp.nextRef, 7, 1, approveSig, rsaN, ⟨1, 0x48, 9, 5, 256, [3]⟩, by and_intros <;> decide +kernel⟩⟩

/-- States that meet the hypotheses of `DualApproval` (clauses 11, 12, 13, 14, 15). -/
theorem witness_DualApproval_3 :
    (∃ (s : State) (x : ApprovalSet),
    x.opcode < 256 ∧ x.k < 4)
    ∧ (∃ (s : State) (k : Nat) (x : ApprovalSet),
    s.sec.sets.find? (·.k == k) = some x ∧ x.deadline ≤ s.tick)
    ∧ (∃ (s : State) (k : Nat),
    s.sec.sets.find? (·.k == k) = none)
    ∧ (∃ (s : State) (ref : Nat) (op : Nat) (digest : Nat) (c : Bool) (run : State → State × St),
    (s.sec.approvers.length < 2 ∨ (∀ x ∈ s.sec.sets, x.slots.length < 2 ∨ x.opcode ≠ op ∨ x.digest ≠ digest ∨ x.deadline ≤ s.tick)))
    ∧ (∃ (s : State) (ref : Nat) (op : Nat) (digest : Nat) (c : Bool) (run : State → State × St),
    (s.sec.approvers.length < 2 ∨ (∀ x ∈ s.sec.sets, x.slots.length < 2 ∨ x.opcode ≠ op ∨ x.digest ≠ digest ∨ x.deadline ≤ s.tick)))
    ∧ (∃ (s : State) (t : State) (ref : Nat) (op : Nat) (digest : Nat) (run : State → State × St) (x : ApprovalSet) (st : St) (c : Bool),
    2 ≤ s.sec.approvers.length ∧ s.sec.sets.find? (fun x => 2 ≤ x.slots.length && x.opcode == op && x.digest == digest && s.tick < x.deadline) = some x ∧ run ((s.setSets (s.sec.sets.filter (·.k != x.k))).bump R.SEC_STATS_EXECUTED) = (t, st)) :=
  ⟨⟨(hostNode.onBld fun b => { b with node := .ready }), ⟨1, 0x48, 9, 5, 256, []⟩, by and_intros <;> decide +kernel⟩,
   ⟨(((hostNode.onBld fun b => { b with node := .ready })).onSec fun e => { e with sets := [⟨1, 0x48, 9, 5, 0, []⟩] }), 1, ⟨1, 0x48, 9, 5, 0, []⟩, by and_intros <;> decide +kernel⟩,
   ⟨(((hostNode.onBld fun b => { b with node := .ready })).onSec fun e => { e with sets := [⟨1, 0x48, 9, 5, 0, []⟩] }), 2, by decide +kernel⟩,
   ⟨(hostNode.onBld fun b => { b with node := .ready }), 0, 0x48, 9, false, (fun s => (s, .ok)), by decide +kernel⟩,
   ⟨(((hostNode.onBld fun b => { b with node := .ready })).onSec fun e => { e with approvers := [(3, rsaN), (7, rsaN)], sets := [⟨1, 0x48, 9, 5, 0, []⟩] }), 0, 0x48, 9, false, (fun s => (s, .ok)), by decide +kernel⟩,
   ⟨(((hostNode.onBld fun b => { b with node := .ready })).onSec fun e => { e with approvers := [(3, rsaN), (7, rsaN)], sets := [⟨1, 0x48, 9, 5, 256, [3, 7]⟩, ⟨0, 0x48, 3, 5, 256, []⟩] }), (((((hostNode.onBld fun b => { b with node := .ready })).onSec fun e => { e with approvers := [(3, rsaN), (7, rsaN)], sets := [⟨1, 0x48, 9, 5, 256, [3, 7]⟩, ⟨0, 0x48, 3, 5, 256, []⟩] })).setSets [⟨0, 0x48, 3, 5, 256, []⟩]).bump R.SEC_STATS_EXECUTED, 0, 0x48, 9, (fun s => (s, .ok)), ⟨1, 0x48, 9, 5, 256, [3, 7]⟩, .ok, true, by and_intros <;> decide +kernel⟩⟩

/-- States that meet the hypotheses of `ApprovedCommands` (clauses 1, 2, 3, 4, 5). -/
theorem witness_ApprovedCommands_1 :
    (∃ (s : State) (t : State) (p : HostPkt) (ref : Nat) (slot : Nat) (n : Nat),
    s.accept? p 0x54 false true false = some (ref, t) ∧ p.payloadOk = true ∧ slot < 16 ∧ t.flag R.SEC_STATE_SEALED = false)
    ∧ (∃ (s : State) (t : State) (p : HostPkt) (ref : Nat) (slot : Nat) (n : Nat),
    s.accept? p 0x54 false true false = some (ref, t) ∧ p.payloadOk = true ∧ slot < 16 ∧ t.flag R.SEC_STATE_SEALED = true)
    ∧ (∃ (s : State) (t : State) (p : HostPkt) (ref : Nat) (slot : Nat),
    s.accept? p 0x54 false true false = some (ref, t) ∧ p.payloadOk = true ∧ slot < 16)
    ∧ (∃ (s : State) (slot : Nat) (n : Nat),
    ((s.approver? slot).isSome = true ∨ s.sec.approvers.any (·.2 == n) = true))
    ∧ (∃ (s : State) (slot : Nat) (n : Nat),
    ((s.approver? slot).isSome = true ∨ s.sec.approvers.any (·.2 == n) = true))
    ∧ (∃ (s : State) (slot : Nat) (n : Nat),
    s.approver? slot = none ∧ s.sec.approvers.any (·.2 == n) = false ∧ (n < 2 ^ 4095 ∨ 2 ^ 4096 ≤ n ∨ n % 2 = 0)) :=
  ⟨⟨(hostNode.onBld fun b => { b with node := .ready }), accepted ((hostNode.onBld fun b => { b with node := .ready })) 0x54 false true false, pkt0, hostNode.hcp.nextRef, 3, rsaN, by and_intros <;> decide +kernel⟩,
   ⟨((hostNode.onBld fun b => { b with node := .ready }).setReg R.SEC_STATE_SEALED 1), accepted (((hostNode.onBld fun b => { b with node := .ready }).setReg R.SEC_STATE_SEALED 1)) 0x54 false true false, pkt0, hostNode.hcp.nextRef, 3, rsaN, by and_intros <;> decide +kernel⟩,
   ⟨(hostNode.onBld fun b => { b with node := .ready }), accepted ((hostNode.onBld fun b => { b with node := .ready })) 0x54 false true false, pkt0, hostNode.hcp.nextRef, 3, by and_intros <;> decide +kernel⟩,
   ⟨(((hostNode.onBld fun b => { b with node := .ready })).onSec fun e => { e with approvers := [(3, rsaN)] }), 3, 5, by decide +kernel⟩,
   ⟨(((hostNode.onBld fun b => { b with node := .ready })).onSec fun e => { e with approvers := [(3, rsaN)] }), 4, rsaN, by decide +kernel⟩,
   ⟨(((hostNode.onBld fun b => { b with node := .ready })).onSec fun e => { e with approvers := [(3, rsaN)] }), 4, 5, by and_intros <;> decide +kernel⟩⟩

/-- States that meet the hypotheses of `ApprovedCommands` (clauses 5, 6, 7, 8, 9). -/
theorem witness_ApprovedCommands_2 :
    (∃ (s : State) (slot : Nat) (n : Nat),
    s.approver? slot = none ∧ s.sec.approvers.any (·.2 == n) = false ∧ (n < 2 ^ 4095 ∨ 2 ^ 4096 ≤ n ∨ n % 2 = 0))
    ∧ (∃ (s : State) (slot : Nat) (n : Nat),
    s.approver? slot = none ∧ s.sec.approvers.any (·.2 == n) = false ∧ (n < 2 ^ 4095 ∨ 2 ^ 4096 ≤ n ∨ n % 2 = 0))
    ∧ (∃ (s : State) (slot : Nat) (n : Nat),
    s.approver? slot = none ∧ s.sec.approvers.any (·.2 == n) = false ∧ 2 ^ 4095 ≤ n ∧ n < 2 ^ 4096 ∧ n % 2 = 1 ∧ s.sec.identityKey = none ∧ s.canonical)
    ∧ (∃ (s : State) (slot : Nat) (n : Nat),
    s.approver? slot = some n ∧ s.sec.approvers.length ≤ 2 ∧ s.flag R.SEC_STATE_SEALED = true)
    ∧ (∃ (s : State) (slot : Nat) (n : Nat),
    s.approver? slot = some n ∧ 2 < s.sec.approvers.length)
    ∧ (∃ (s : State) (t : State) (p : HostPkt) (ref : Nat) (v : Nat) (rekey : Nat),
    s.accept? p 0x55 false true false = some (ref, t) ∧ p.payloadOk = true ∧ 1 ≤ bitsOf v 63 48) :=
  ⟨⟨(((hostNode.onBld fun b => { b with node := .ready })).onSec fun e => { e with approvers := [(3, rsaN)] }), 4, 2 ^ 4096, by and_intros <;> decide +kernel⟩,
   ⟨(((hostNode.onBld fun b => { b with node := .ready })).onSec fun e => { e with approvers := [(3, rsaN)] }), 4, 2 ^ 4095, by and_intros <;> decide +kernel⟩,
   ⟨(((hostNode.onBld fun b => { b with node := .ready })).onSec fun e => { e with approvers := [(3, rsaN)] }), 4, rsaN + 2, by and_intros <;> first | decide +kernel | (unfold State.canonical; decide +kernel)⟩,
   ⟨(((((hostNode.onBld fun b => { b with node := .ready })).onSec fun e => { e with approvers := [(3, rsaN), (7, rsaN)] })).setReg R.SEC_STATE_SEALED 1), 3, rsaN, by and_intros <;> decide +kernel⟩,
   ⟨(((hostNode.onBld fun b => { b with node := .ready })).onSec fun e => { e with approvers := [(3, rsaN), (7, rsaN), (8, rsaN)] }), 3, rsaN, by and_intros <;> decide +kernel⟩,
   ⟨(hostNode.onBld fun b => { b with node := .ready }), accepted ((hostNode.onBld fun b => { b with node := .ready })) 0x55 false true false, pkt0, hostNode.hcp.nextRef, 2 ^ 48, 5, by and_intros <;> decide +kernel⟩⟩

/-- States that meet the hypotheses of `ApprovedCommands` (clauses 10, 11, 12, 13, 14, 15). -/
theorem witness_ApprovedCommands_3 :
    (∃ (s : State) (v : Nat) (rekey : Nat),
    s.canonical ∧ s.sec.identityKey = none ∧ rekey < 2 ^ 32)
    ∧ (∃ (s : State) (t : State) (p : HostPkt) (ref : Nat) (entry : Nat) (a : Nat) (b : Nat) (c : Nat) (d : Nat),
    s.accept? p 0x56 false true false = some (ref, t) ∧ p.payloadOk = true ∧ entry < 16)
    ∧ (∃ (s : State) (entry : Nat) (a : Nat) (b : Nat) (c : Nat) (d : Nat),
    d % 256 ≤ 128)
    ∧ (∃ (s : State) (a : Nat) (v : Nat),
    s.flag R.SEC_STATE_HOST_LOCK = true ∧ a % 8 = 0 ∧ 0x11000 ≤ a ∧ a < 0x11200)
    ∧ (∃ (s : State) (t : State) (p : HostPkt) (ref : Nat) (v : Nat),
    s.accept? p 0x57 false true false = some (ref, t) ∧ p.payloadOk = true ∧ bitAt v 0 = true ∧ 1 ≤ bitsOf v 63 32 ∧ bitsOf v 63 32 ≤ 4096)
    ∧ (∃ (s : State) (v : Nat),
    s.canonical) :=
  ⟨⟨(hostNode.onBld fun b => { b with node := .ready }), 2 ^ 48 + 7, 5, by unfold State.canonical; decide +kernel, by decide +kernel, by decide +kernel⟩,
   ⟨(hostNode.onBld fun b => { b with node := .ready }), accepted ((hostNode.onBld fun b => { b with node := .ready })) 0x56 false true false, pkt0, hostNode.hcp.nextRef, 15, 1, 2, 3, 4, by and_intros <;> decide +kernel⟩,
   ⟨(hostNode.onBld fun b => { b with node := .ready }), 15, 1, 2, 3, 128, by decide +kernel⟩,
   ⟨(hostNode.onBld fun b => { b with node := .ready }).setReg R.SEC_STATE_HOST_LOCK 1, 0x111F8, 5, by and_intros <;> decide +kernel⟩,
   ⟨(hostNode.onBld fun b => { b with node := .ready }), accepted ((hostNode.onBld fun b => { b with node := .ready })) 0x57 false true false, pkt0, hostNode.hcp.nextRef, 4096 * 2 ^ 32 + 5, by and_intros <;> decide +kernel⟩,
   ⟨(((hostNode.onBld fun b => { b with node := .ready })).onSec fun e => { e with identityN := 7, identityKey := some ⟨3, 5, 1, 1, 2⟩ }), 4096 * 2 ^ 32 + 5, by unfold State.canonical; decide +kernel⟩⟩

/-- States that meet the hypotheses of `ApprovedCommands` (clauses 15, 16, 17). -/
theorem witness_ApprovedCommands_4 :
    (∃ (s : State) (v : Nat),
    s.canonical)
    ∧ (∃ (s : State) (v : Nat),
    s.canonical)
    ∧ (∃ (s : State) (v : Nat),
    s.canonical)
    ∧ (∃ (s : State) (t : State) (p : HostPkt) (ref : Nat) (v : Nat),
    s.accept? p 0x57 false true false = some (ref, t) ∧ p.payloadOk = true ∧ bitAt v 0 = false)
    ∧ (∃ (s : State),
    s.canonical)
    ∧ (∃ (s : State),
    s.canonical) :=
  ⟨⟨(hostNode.onBld fun b => { b with node := .ready, off := false }), 5 * 2 ^ 32 + 6, by unfold State.canonical; decide +kernel⟩,
   ⟨(((hostNode.onBld fun b => { b with node := .ready })).onSec fun e => { e with identityN := 7, identityKey := some ⟨3, 5, 1, 1, 2⟩ }), 4096 * 2 ^ 32 + 5, by unfold State.canonical; decide +kernel⟩,
   ⟨(hostNode.onBld fun b => { b with node := .ready, off := false }), 5 * 2 ^ 32 + 6, by unfold State.canonical; decide +kernel⟩,
   ⟨(hostNode.onBld fun b => { b with node := .ready }), accepted ((hostNode.onBld fun b => { b with node := .ready })) 0x57 false true false, pkt0, hostNode.hcp.nextRef, 0, by and_intros <;> decide +kernel⟩,
   ⟨State.reset.setRegs [(R.SCH_COMP_A_VALID 31, 1)], by unfold State.canonical; decide +kernel⟩,
   ⟨(hostNode.onBld fun b => { b with node := .ready }), by unfold State.canonical; decide +kernel⟩⟩

/-- States that meet the hypotheses of `ApprovedCommands` (clauses 17). -/
theorem witness_ApprovedCommands_5 :
    (∃ (s : State),
    s.canonical)
    ∧ (∃ (s : State),
    s.canonical)
    ∧ (∃ (s : State),
    s.canonical)
    ∧ (∃ (s : State),
    s.canonical)
    ∧ (∃ (s : State),
    s.canonical)
    ∧ (∃ (s : State),
    s.canonical) :=
  ⟨⟨((hostNode.onBld fun b => { b with node := .ready, off := false }).setReg R.PCR_STATUS_INPUT_WARN 1), by unfold State.canonical; decide +kernel⟩,
   ⟨State.reset.setRegs [(R.SCH_COMP_A_VALID 31, 1)], by unfold State.canonical; decide +kernel⟩,
   ⟨(hostNode.onBld fun b => { b with node := .ready }), by unfold State.canonical; decide +kernel⟩,
   ⟨((hostNode.onBld fun b => { b with node := .ready, off := false }).setReg R.PCR_STATUS_INPUT_WARN 1), by unfold State.canonical; decide +kernel⟩,
   ⟨State.reset.setRegs [(R.SCH_COMP_A_VALID 31, 1)], by unfold State.canonical; decide +kernel⟩,
   ⟨(hostNode.onBld fun b => { b with node := .ready }), by unfold State.canonical; decide +kernel⟩⟩

/-- States that meet the hypotheses of `ApprovedCommands` (clauses 17, 18, 19, 20). -/
theorem witness_ApprovedCommands_6 :
    (∃ (s : State),
    s.canonical)
    ∧ (∃ (s : State) (t : State) (w : State) (p : HostPkt) (data : List Byte) (ref : Nat) (op : Nat) (digest : Nat) (slot : Nat) (v : Nat) (rekey : Nat) (entry : Nat) (a : Nat) (b : Nat) (c : Nat) (d : Nat) (u : Nat) (i : Instr) (clears : Bool) (run : State → State × St) (y : ApprovalSet) (st : St),
    (i, op, digest, clears, run) ∈ [(Instr.licInstall p data, 0x48, commandDigest 0x48 data, false, fun x => x.installLicence data), (.defectClear p, 0x4D, commandDigest 0x4D [], false, fun x => x.defectClear), (.approverEnrolRemove p slot, 0x54, commandDigest 0x54 (toBytes 8 slot), true, fun x => x.unenrol slot), (.policySet p v rekey, 0x55, commandDigest 0x55 (toBytes 8 v ++ toBytes 8 rekey), true, fun x => x.policySet v rekey), (.hostSet p entry a b c d, 0x56, commandDigest 0x56 (toBytes 8 entry ++ toBytes 8 a ++ toBytes 8 b ++ toBytes 8 c ++ toBytes 8 d), false, fun x => x.hostSet entry a b c d), (.debugUnlock p u, 0x57, commandDigest 0x57 (toBytes 8 u), false, fun x => x.unlock u)] ∧ data.length = 704 ∧ slot < 16 ∧ 1 ≤ bitsOf v 63 48 ∧ entry < 16 ∧ bitAt u 0 = true ∧ 1 ≤ bitsOf u 63 32 ∧ bitsOf u 63 32 ≤ 4096 ∧ s.accept? p op false true false = some (ref, t) ∧ p.payloadOk = true ∧ 2 ≤ t.sec.approvers.length ∧ t.sec.sets.find? (fun x => 2 ≤ x.slots.length && x.opcode == op && x.digest == digest && t.tick < x.deadline) = some y ∧ run ((t.setSets (t.sec.sets.filter (·.k != y.k))).bump R.SEC_STATS_EXECUTED) = (w, st))
    ∧ (∃ (s : State) (t : State) (w : State) (p : HostPkt) (data : List Byte) (ref : Nat) (op : Nat) (digest : Nat) (slot : Nat) (v : Nat) (rekey : Nat) (entry : Nat) (a : Nat) (b : Nat) (c : Nat) (d : Nat) (u : Nat) (i : Instr) (clears : Bool) (run : State → State × St) (y : ApprovalSet) (st : St),
    (i, op, digest, clears, run) ∈ [(Instr.licInstall p data, 0x48, commandDigest 0x48 data, false, fun x => x.installLicence data), (.defectClear p, 0x4D, commandDigest 0x4D [], false, fun x => x.defectClear), (.approverEnrolRemove p slot, 0x54, commandDigest 0x54 (toBytes 8 slot), true, fun x => x.unenrol slot), (.policySet p v rekey, 0x55, commandDigest 0x55 (toBytes 8 v ++ toBytes 8 rekey), true, fun x => x.policySet v rekey), (.hostSet p entry a b c d, 0x56, commandDigest 0x56 (toBytes 8 entry ++ toBytes 8 a ++ toBytes 8 b ++ toBytes 8 c ++ toBytes 8 d), false, fun x => x.hostSet entry a b c d), (.debugUnlock p u, 0x57, commandDigest 0x57 (toBytes 8 u), false, fun x => x.unlock u)] ∧ data.length = 704 ∧ slot < 16 ∧ 1 ≤ bitsOf v 63 48 ∧ entry < 16 ∧ bitAt u 0 = true ∧ 1 ≤ bitsOf u 63 32 ∧ bitsOf u 63 32 ≤ 4096 ∧ s.accept? p op false true false = some (ref, t) ∧ p.payloadOk = true ∧ 2 ≤ t.sec.approvers.length ∧ t.sec.sets.find? (fun x => 2 ≤ x.slots.length && x.opcode == op && x.digest == digest && t.tick < x.deadline) = some y ∧ run ((t.setSets (t.sec.sets.filter (·.k != y.k))).bump R.SEC_STATS_EXECUTED) = (w, st))
    ∧ (∃ (s : State) (d : Nat),
    s.sec.debugUntil = some d ∧ d ≤ s.tick)
    ∧ (∃ (s : State),
    (∀ d, s.sec.debugUntil = some d → s.tick < d)) :=
  ⟨⟨((hostNode.onBld fun b => { b with node := .ready, off := false }).setReg R.PCR_STATUS_INPUT_WARN 1), by unfold State.canonical; decide +kernel⟩,
   ⟨(approving 0x4D (commandDigest 0x4D [])), (accepted (approving 0x4D (commandDigest 0x4D [])) 0x4D false true false), ((fun x : State => x.defectClear) (((accepted (approving 0x4D (commandDigest 0x4D [])) 0x4D false true false).setSets ((accepted (approving 0x4D (commandDigest 0x4D [])) 0x4D false true false).sec.sets.filter (·.k != 1))).bump R.SEC_STATS_EXECUTED)).1, pkt0, List.replicate 704 0, hostNode.hcp.nextRef, 0x4D, commandDigest 0x4D [], 0, 2 ^ 48, 0, 0, 0, 0, 0, 0, 2 ^ 32 + 1, .defectClear pkt0, false, fun x : State => x.defectClear, ⟨1, 0x4D, commandDigest 0x4D [], 5, 100, [3, 7]⟩, ((fun x : State => x.defectClear) (((accepted (approving 0x4D (commandDigest 0x4D [])) 0x4D false true false).setSets ((accepted (approving 0x4D (commandDigest 0x4D [])) 0x4D false true false).sec.sets.filter (·.k != 1))).bump R.SEC_STATS_EXECUTED)).2, by and_intros <;> first | decide +kernel | exact List.Mem.tail _ (List.Mem.head _) | exact rfl⟩,
   ⟨(approving 0x57 (commandDigest 0x57 (toBytes 8 (2 ^ 32 + 1)))), (accepted (approving 0x57 (commandDigest 0x57 (toBytes 8 (2 ^ 32 + 1)))) 0x57 false true false), ((fun x : State => x.unlock (2 ^ 32 + 1)) (((accepted (approving 0x57 (commandDigest 0x57 (toBytes 8 (2 ^ 32 + 1)))) 0x57 false true false).setSets ((accepted (approving 0x57 (commandDigest 0x57 (toBytes 8 (2 ^ 32 + 1)))) 0x57 false true false).sec.sets.filter (·.k != 1))).bump R.SEC_STATS_EXECUTED)).1, pkt0, List.replicate 704 0, hostNode.hcp.nextRef, 0x57, commandDigest 0x57 (toBytes 8 (2 ^ 32 + 1)), 0, 2 ^ 48, 0, 0, 0, 0, 0, 0, 2 ^ 32 + 1, .debugUnlock pkt0 (2 ^ 32 + 1), false, fun x : State => x.unlock (2 ^ 32 + 1), ⟨1, 0x57, commandDigest 0x57 (toBytes 8 (2 ^ 32 + 1)), 5, 100, [3, 7]⟩, ((fun x : State => x.unlock (2 ^ 32 + 1)) (((accepted (approving 0x57 (commandDigest 0x57 (toBytes 8 (2 ^ 32 + 1)))) 0x57 false true false).setSets ((accepted (approving 0x57 (commandDigest 0x57 (toBytes 8 (2 ^ 32 + 1)))) 0x57 false true false).sec.sets.filter (·.k != 1))).bump R.SEC_STATS_EXECUTED)).2, by and_intros <;> first | decide +kernel | exact List.Mem.tail _ (List.Mem.tail _ (List.Mem.tail _ (List.Mem.tail _ (List.Mem.tail _ (List.Mem.head _))))) | exact rfl⟩,
   ⟨(((hostNode.onBld fun b => { b with node := .ready })).onSec fun e => { e with debugUntil := some 0 }), 0, by and_intros <;> decide +kernel⟩,
   ⟨(((hostNode.onBld fun b => { b with node := .ready })).onSec fun e => { e with debugUntil := some 5 }), by simp [State.tick]; decide +kernel⟩⟩

/-- States that meet the hypotheses of `Supplies` (clauses 1, 2, 3, 4, 5). -/
theorem witness_Supplies_1 :
    (∃ (s : State) (mv : Nat),
    s.bld.off = false ∧ (s.setReg R.PCR_SUPPLY_INPUT_MV mv).flag R.PCR_STATUS_INPUT_WARN = false)
    ∧ (∃ (s : State) (mv : Nat),
    s.bld.off = false ∧ (s.setReg R.PCR_SUPPLY_INPUT_MV mv).flag R.PCR_STATUS_INPUT_WARN = true)
    ∧ (∃ (s : State),
    s.flag R.PCR_STATUS_INPUT_WARN = true)
    ∧ (∃ (s : State) (mv : Nat),
    s.bld.off = false)
    ∧ (∃ (s : State),
    s.bld.off = false)
    ∧ (∃ (s : State),
    s.bld.off = false) :=
  ⟨⟨(hostNode.onBld fun b => { b with node := .ready, off := false }), 42000, by and_intros <;> decide +kernel⟩,
   ⟨((hostNode.onBld fun b => { b with node := .ready, off := false }).setReg R.PCR_STATUS_INPUT_WARN 1), 42000, by and_intros <;> decide +kernel⟩,
   ⟨((hostNode.onBld fun b => { b with node := .ready, off := false }).setReg R.PCR_STATUS_INPUT_WARN 1), by decide +kernel⟩,
   ⟨(hostNode.onBld fun b => { b with node := .ready, off := false }), 43500, by decide +kernel⟩,
   ⟨(hostNode.onBld fun b => { b with node := .ready, off := false }), by decide +kernel⟩,
   ⟨(hostNode.onBld fun b => { b with node := .ready, off := false }), by decide +kernel⟩⟩

/-- States that meet the hypotheses of `Supplies` (clauses 5, 6, 7, 8). -/
theorem witness_Supplies_2 :
    (∃ (s : State),
    s.bld.off = false)
    ∧ (∃ (s : State),
    s.bld.off = false)
    ∧ (∃ (s : State),
    s.bld.tripped = false)
    ∧ (∃ (s : State),
    s.bld.tripped = true)
    ∧ (∃ (s : State),
    s.canonical)
    ∧ (∃ (s : State),
    s.canonical) :=
  ⟨⟨(hostNode.onBld fun b => { b with node := .ready, off := false }), by decide +kernel⟩,
   ⟨(hostNode.onBld fun b => { b with node := .ready, off := false }), by decide +kernel⟩,
   ⟨(hostNode.onBld fun b => { b with node := .ready, off := false }), by decide +kernel⟩,
   ⟨((hostNode.onBld fun b => { b with node := .ready, off := true }).onBld fun b => { b with tripped := true }), by decide +kernel⟩,
   ⟨State.reset.setRegs [(R.SCH_COMP_A_VALID 31, 1)], by unfold State.canonical; decide +kernel⟩,
   ⟨(hostNode.onBld fun b => { b with node := .ready }), by unfold State.canonical; decide +kernel⟩⟩

/-- States that meet the hypotheses of `Supplies` (clauses 8). -/
theorem witness_Supplies_3 :
    (∃ (s : State),
    s.canonical)
    ∧ (∃ (s : State),
    s.canonical)
    ∧ (∃ (s : State),
    s.canonical)
    ∧ (∃ (s : State),
    s.canonical)
    ∧ (∃ (s : State),
    s.canonical)
    ∧ (∃ (s : State),
    s.canonical) :=
  ⟨⟨((hostNode.onBld fun b => { b with node := .ready, off := false }).setReg R.PCR_STATUS_INPUT_WARN 1), by unfold State.canonical; decide +kernel⟩,
   ⟨State.reset.setRegs [(R.SCH_COMP_A_VALID 31, 1)], by unfold State.canonical; decide +kernel⟩,
   ⟨(hostNode.onBld fun b => { b with node := .ready }), by unfold State.canonical; decide +kernel⟩,
   ⟨((hostNode.onBld fun b => { b with node := .ready, off := false }).setReg R.PCR_STATUS_INPUT_WARN 1), by unfold State.canonical; decide +kernel⟩,
   ⟨State.reset.setRegs [(R.SCH_COMP_A_VALID 31, 1)], by unfold State.canonical; decide +kernel⟩,
   ⟨(hostNode.onBld fun b => { b with node := .ready }), by unfold State.canonical; decide +kernel⟩⟩

/-- States that meet the hypotheses of `Supplies` (clauses 8, 9, 10, 11, 12, 13). -/
theorem witness_Supplies_4 :
    (∃ (s : State),
    s.canonical)
    ∧ (∃ (s : State) (rail : Nat) (mv : Nat),
    s.bld.off = false ∧ rail < 9 ∧ rail ∉ s.pcr.railsWarn)
    ∧ (∃ (s : State) (rail : Nat) (mv : Nat),
    s.bld.off = false ∧ rail < 9 ∧ rail ∈ s.pcr.railsWarn)
    ∧ (∃ (s : State) (rail : Nat),
    rail ∈ s.pcr.railsWarn ∧ (∀ r ∈ s.pcr.railsWarn, r = rail))
    ∧ (∃ (s : State) (rail : Nat) (mv : Nat),
    s.bld.off = false ∧ rail < 9)
    ∧ (∃ (s : State) (rail : Nat) (mv : Nat),
    s.bld.off = false ∧ 2 ≤ rail ∧ rail < 9) :=
  ⟨⟨((hostNode.onBld fun b => { b with node := .ready, off := false }).setReg R.PCR_STATUS_INPUT_WARN 1), by unfold State.canonical; decide +kernel⟩,
   ⟨(hostNode.onBld fun b => { b with node := .ready, off := false }), 8, 700, by and_intros <;> decide +kernel⟩,
   ⟨(((hostNode.onBld fun b => { b with node := .ready, off := false })).onPcr fun p => { p with railsWarn := [3] }), 3, 700, by and_intros <;> decide +kernel⟩,
   ⟨(((hostNode.onBld fun b => { b with node := .ready, off := false })).onPcr fun p => { p with railsWarn := [3] }), 3, by and_intros <;> decide +kernel⟩,
   ⟨(hostNode.onBld fun b => { b with node := .ready, off := false }), 8, 720, by and_intros <;> decide +kernel⟩,
   ⟨(hostNode.onBld fun b => { b with node := .ready, off := false }), 2, 1, by and_intros <;> decide +kernel⟩⟩

/-- States that meet the hypotheses of `Supplies` (clauses 13, 14, 15, 17). -/
theorem witness_Supplies_5 :
    (∃ (s : State) (rail : Nat) (mv : Nat),
    s.bld.off = false ∧ 2 ≤ rail ∧ rail < 9)
    ∧ (∃ (s : State) (rail : Nat) (mv : Nat),
    s.bld.off = false ∧ rail < 2)
    ∧ (∃ (s : State) (rail : Nat) (mv : Nat),
    s.bld.off = false ∧ rail < 2)
    ∧ (∃ (s : State) (rail : Nat),
    s.bld.node = .ready ∧ s.bld.resetAfterCopy = none ∧ s.bld.retire = none)
    ∧ (∃ (s : State) (st : St) (cause : Nat) (source : Nat),
    s.canonical ∧ cause < 256 ∧ source < 256) :=
  ⟨⟨(hostNode.onBld fun b => { b with node := .ready, off := false }), 8, 1, by and_intros <;> decide +kernel⟩,
   ⟨(hostNode.onBld fun b => { b with node := .ready, off := false }), 1, 1, by and_intros <;> decide +kernel⟩,
   ⟨(hostNode.onBld fun b => { b with node := .ready, off := false }), 0, 1, by and_intros <;> decide +kernel⟩,
   ⟨(hostNode.onBld fun b => { b with node := .ready, off := false }), 1, by and_intros <;> decide +kernel⟩,
   ⟨(hostNode.onBld fun b => { b with node := .ready, off := false }), .supplyFault, 3, 8, by and_intros <;> first | decide +kernel | (unfold State.canonical; decide +kernel)⟩⟩

/-- States that meet the hypotheses of `Temperatures` (clauses 1, 2, 3, 4, 5, 6). -/
theorem witness_Temperatures_1 :
    (∃ (s : State) (temps : List Nat),
    s.bld.off = true)
    ∧ (∃ (s : State) (temps : List Nat) (x : Nat × Nat),
    s.bld.off = false ∧ x ∈ s.readings temps ∧ atLevel 107 97 x = true ∧ (∃ t, (x.1, t) ∈ s.pcr.tripSince ∧ t + 100 ≤ s.aon) ∧ (∀ y ∈ s.readings temps, y ≠ x → atLevel 107 97 y = false) ∧ (∀ a ∈ s.pcr.tripSince, a.1 = x.1 → a.2 + 100 ≤ s.aon))
    ∧ (∃ (s : State) (temps : List Nat),
    s.bld.off = false ∧ s.pcr.level = 0 ∧ s.canonical ∧ (∀ r ∈ s.readings temps, atLevel 98 88 r = false))
    ∧ (∃ (s : State) (temps : List Nat),
    s.bld.off = false ∧ s.pcr.level = 0 ∧ s.pcr.tripSince = [] ∧ (∃ r ∈ s.readings temps, atLevel 98 88 r = true) ∧ (∀ r ∈ s.readings temps, atLevel 103 92 r = false))
    ∧ (∃ (s : State) (temps : List Nat),
    s.bld.off = false ∧ s.pcr.level < 2 ∧ s.pcr.tripSince = [] ∧ (∃ r ∈ s.readings temps, atLevel 103 92 r = true))
    ∧ (∃ (s : State) (temps : List Nat) (b : Nat),
    s.bld.off = false ∧ s.pcr.level = 2 ∧ s.pcr.belowCrit = some b ∧ b + 100000 ≤ s.aon ∧ (∀ r ∈ s.readings temps, atLevel 103 92 r = false) ∧ (∃ r ∈ s.readings temps, atLevel 93 83 r = true)) :=
  ⟨⟨(hostNode.onBld fun b => { b with node := .ready, off := true }), [], by decide +kernel⟩,
   ⟨{ ((((hostNode.onBld fun b => { b with node := .ready, off := false })).onPcr fun p => { p with tripSince := [(37, 199900)] })) with aon := 200000 }, ((List.replicate 60 (50 * 256)).set 37 (107 * 256)), (37, 107 * 256), by decide +kernel, by decide +kernel, by decide +kernel, ⟨199900, by decide +kernel⟩, by decide +kernel, by decide +kernel⟩,
   ⟨(hostNode.onBld fun b => { b with node := .ready, off := false }), ((List.replicate 60 (50 * 256)).set 37 (97 * 256)), by decide +kernel, by decide +kernel, by unfold State.canonical; decide +kernel, by decide +kernel⟩,
   ⟨(hostNode.onBld fun b => { b with node := .ready, off := false }), ((List.replicate 60 (50 * 256)).set 37 (98 * 256)), by and_intros <;> decide +kernel⟩,
   ⟨(hostNode.onBld fun b => { b with node := .ready, off := false }), ((List.replicate 60 (50 * 256)).set 37 (103 * 256)), by and_intros <;> decide +kernel⟩,
   ⟨{ ((((hostNode.onBld fun b => { b with node := .ready, off := false })).onPcr fun p => { p with level := 2, belowCrit := some 100000 })) with aon := 200000 }, ((List.replicate 60 (50 * 256)).set 37 (102 * 256)), 100000, by and_intros <;> decide +kernel⟩⟩

/-- States that meet the hypotheses of `Temperatures` (clauses 7, 8). -/
theorem witness_Temperatures_2 :
    (∃ (s : State) (temps : List Nat) (b : Nat),
    s.bld.off = false ∧ s.pcr.level = 1 ∧ s.pcr.belowWarn = some b ∧ b + 100000 ≤ s.aon ∧ (∀ r ∈ s.readings temps, atLevel 93 83 r = false))
    ∧ (∃ (s : State) (temps : List Nat) (b : Nat),
    s.bld.off = false ∧ s.pcr.level = 1 ∧ s.pcr.belowWarn = some b ∧ s.aon < b + 100000 ∧ (∀ r ∈ s.readings temps, atLevel 93 83 r = false)) :=
  ⟨⟨{ ((((hostNode.onBld fun b => { b with node := .ready, off := false })).onPcr fun p => { p with level := 1, belowWarn := some 100000 })) with aon := 200000 }, ((List.replicate 60 (50 * 256)).set 37 (92 * 256)), 100000, by and_intros <;> decide +kernel⟩,
   ⟨{ ((((hostNode.onBld fun b => { b with node := .ready, off := false })).onPcr fun p => { p with level := 1, belowWarn := some 100001 })) with aon := 200000 }, ((List.replicate 60 (50 * 256)).set 37 (92 * 256)), 100001, by and_intros <;> decide +kernel⟩⟩

/-- States that meet the hypotheses of `ThrottleAndClocks` (clauses 2, 3, 4, 5, 6). -/
theorem witness_ThrottleAndClocks_1 :
    (∃ (s : State),
    s.canonical ∧ (s.pcr.throttle.force ≤ s.reg R.PCR_STATUS_THROTTLE ∨ s.anyTileOp = false) ∧ s.pcr.throttle.force < 256)
    ∧ (∃ (s : State),
    s.reg R.PCR_STATUS_THROTTLE < s.pcr.throttle.force ∧ s.anyTileOp = true)
    ∧ (∃ (s : State) (w : Nat),
    (s.bld.off = true ∨ s.flag R.PCR_POWER_LIMIT_ENABLE = false))
    ∧ (∃ (s : State) (w : Nat),
    (s.bld.off = true ∨ s.flag R.PCR_POWER_LIMIT_ENABLE = false))
    ∧ (∃ (s : State) (w : Nat),
    s.bld.off = false ∧ s.flag R.PCR_POWER_LIMIT_ENABLE = true ∧ s.reg R.PCR_POWER_LIMIT_LIMIT_W < w ∧ s.pcr.throttle.power = 100)
    ∧ (∃ (s : State) (w : Nat) (p : Nat),
    s.bld.off = false ∧ s.flag R.PCR_POWER_LIMIT_ENABLE = true ∧ s.reg R.PCR_POWER_LIMIT_LIMIT_W < w ∧ s.pcr.throttle.power = p ∧ (p = 75 ∨ p = 50)) :=
  ⟨⟨(((hostNode.onBld fun b => { b with node := .ready, off := false })).onPcr fun p => { p with throttle := ⟨100, 50, 100, 100⟩ }), by and_intros <;> first | decide +kernel | (unfold State.canonical; decide +kernel)⟩,
   ⟨(((issuing 0).setReg R.PCR_STATUS_THROTTLE 50)), by and_intros <;> decide +kernel⟩,
   ⟨(hostNode.onBld fun b => { b with node := .ready, off := false }), 5, by decide +kernel⟩,
   ⟨(hostNode.onBld fun b => { b with node := .ready, off := true }), 5, by decide +kernel⟩,
   ⟨(((((hostNode.onBld fun b => { b with node := .ready, off := false })).onPcr fun p => { p with throttle := ⟨100, 100, 100, 100⟩ })).setRegs [(R.PCR_POWER_LIMIT_ENABLE, 1), (R.PCR_POWER_LIMIT_LIMIT_W, 2000)]), 2001, by and_intros <;> decide +kernel⟩,
   ⟨(((((hostNode.onBld fun b => { b with node := .ready, off := false })).onPcr fun p => { p with throttle := ⟨100, 100, 100, 75⟩ })).setRegs [(R.PCR_POWER_LIMIT_ENABLE, 1), (R.PCR_POWER_LIMIT_LIMIT_W, 2000)]), 2001, 75, by and_intros <;> decide +kernel⟩⟩

/-- States that meet the hypotheses of `ThrottleAndClocks` (clauses 6, 7, 8, 9). -/
theorem witness_ThrottleAndClocks_2 :
    (∃ (s : State) (w : Nat) (p : Nat),
    s.bld.off = false ∧ s.flag R.PCR_POWER_LIMIT_ENABLE = true ∧ s.reg R.PCR_POWER_LIMIT_LIMIT_W < w ∧ s.pcr.throttle.power = p ∧ (p = 75 ∨ p = 50))
    ∧ (∃ (s : State) (w : Nat),
    s.bld.off = false ∧ s.flag R.PCR_POWER_LIMIT_ENABLE = true ∧ s.reg R.PCR_POWER_LIMIT_LIMIT_W < w ∧ s.pcr.throttle.power = 25)
    ∧ (∃ (s : State) (w : Nat) (p : Nat),
    s.bld.off = false ∧ s.flag R.PCR_POWER_LIMIT_ENABLE = true ∧ 100 * w < 95 * s.reg R.PCR_POWER_LIMIT_LIMIT_W ∧ s.pcr.throttle.power = p ∧ (p = 25 ∨ p = 50 ∨ p = 75))
    ∧ (∃ (s : State) (w : Nat) (p : Nat),
    s.bld.off = false ∧ s.flag R.PCR_POWER_LIMIT_ENABLE = true ∧ 100 * w < 95 * s.reg R.PCR_POWER_LIMIT_LIMIT_W ∧ s.pcr.throttle.power = p ∧ (p = 25 ∨ p = 50 ∨ p = 75))
    ∧ (∃ (s : State) (w : Nat),
    s.bld.off = false ∧ s.flag R.PCR_POWER_LIMIT_ENABLE = true ∧ 95 * s.reg R.PCR_POWER_LIMIT_LIMIT_W ≤ 100 * w ∧ w ≤ s.reg R.PCR_POWER_LIMIT_LIMIT_W)
    ∧ (∃ (s : State) (w : Nat),
    s.bld.off = false ∧ s.flag R.PCR_POWER_LIMIT_ENABLE = true ∧ 95 * s.reg R.PCR_POWER_LIMIT_LIMIT_W ≤ 100 * w ∧ w ≤ s.reg R.PCR_POWER_LIMIT_LIMIT_W) :=
  ⟨⟨(((((hostNode.onBld fun b => { b with node := .ready, off := false })).onPcr fun p => { p with throttle := ⟨100, 100, 100, 50⟩ })).setRegs [(R.PCR_POWER_LIMIT_ENABLE, 1), (R.PCR_POWER_LIMIT_LIMIT_W, 2000)]), 2001, 50, by and_intros <;> decide +kernel⟩,
   ⟨(((((hostNode.onBld fun b => { b with node := .ready, off := false })).onPcr fun p => { p with throttle := ⟨100, 100, 100, 25⟩ })).setRegs [(R.PCR_POWER_LIMIT_ENABLE, 1), (R.PCR_POWER_LIMIT_LIMIT_W, 2000)]), 2001, by and_intros <;> decide +kernel⟩,
   ⟨(((((hostNode.onBld fun b => { b with node := .ready, off := false })).onPcr fun p => { p with throttle := ⟨100, 100, 100, 25⟩ })).setRegs [(R.PCR_POWER_LIMIT_ENABLE, 1), (R.PCR_POWER_LIMIT_LIMIT_W, 2000)]), 1899, 25, by and_intros <;> decide +kernel⟩,
   ⟨(((((hostNode.onBld fun b => { b with node := .ready, off := false })).onPcr fun p => { p with throttle := ⟨100, 100, 100, 75⟩ })).setRegs [(R.PCR_POWER_LIMIT_ENABLE, 1), (R.PCR_POWER_LIMIT_LIMIT_W, 2000)]), 1899, 75, by and_intros <;> decide +kernel⟩,
   ⟨(((((hostNode.onBld fun b => { b with node := .ready, off := false })).onPcr fun p => { p with throttle := ⟨100, 100, 100, 50⟩ })).setRegs [(R.PCR_POWER_LIMIT_ENABLE, 1), (R.PCR_POWER_LIMIT_LIMIT_W, 2000)]), 1900, by and_intros <;> decide +kernel⟩,
   ⟨(((((hostNode.onBld fun b => { b with node := .ready, off := false })).onPcr fun p => { p with throttle := ⟨100, 100, 100, 50⟩ })).setRegs [(R.PCR_POWER_LIMIT_ENABLE, 1), (R.PCR_POWER_LIMIT_LIMIT_W, 2000)]), 2000, by and_intros <;> decide +kernel⟩⟩

/-- States that meet the hypotheses of `ThrottleAndClocks` (clauses 10, 11). -/
theorem witness_ThrottleAndClocks_3 :
    (∃ (s : State) (v : Nat),
    (bitsOf v 47 32 < 1 ∨ 1000 < bitsOf v 47 32 ∨ bitsOf v 15 0 < (if s.small then 540 else 1020) ∨ (if s.small then 1800 else 3400) < bitsOf v 15 0))
    ∧ (∃ (s : State) (v : Nat),
    (bitsOf v 47 32 < 1 ∨ 1000 < bitsOf v 47 32 ∨ bitsOf v 15 0 < (if s.small then 540 else 1020) ∨ (if s.small then 1800 else 3400) < bitsOf v 15 0))
    ∧ (∃ (s : State) (v : Nat),
    (bitsOf v 47 32 < 1 ∨ 1000 < bitsOf v 47 32 ∨ bitsOf v 15 0 < (if s.small then 540 else 1020) ∨ (if s.small then 1800 else 3400) < bitsOf v 15 0))
    ∧ (∃ (s : State) (v : Nat),
    (bitsOf v 47 32 < 1 ∨ 1000 < bitsOf v 47 32 ∨ bitsOf v 15 0 < (if s.small then 540 else 1020) ∨ (if s.small then 1800 else 3400) < bitsOf v 15 0))
    ∧ (∃ (s : State) (v : Nat),
    1 ≤ bitsOf v 47 32 ∧ bitsOf v 47 32 ≤ 1000 ∧ (if s.small then 540 else 1020) ≤ bitsOf v 15 0 ∧ bitsOf v 15 0 ≤ (if s.small then 1800 else 3400) ∧ s.canonical)
    ∧ (∃ (s : State) (v : Nat),
    1 ≤ bitsOf v 47 32 ∧ bitsOf v 47 32 ≤ 1000 ∧ (if s.small then 540 else 1020) ≤ bitsOf v 15 0 ∧ bitsOf v 15 0 ≤ (if s.small then 1800 else 3400) ∧ s.canonical) :=
  ⟨⟨(hostNode.onBld fun b => { b with node := .ready, off := false }), 2000, by decide +kernel⟩,
   ⟨(hostNode.onBld fun b => { b with node := .ready, off := false }), 1001 * 2 ^ 32 + 2000, by decide +kernel⟩,
   ⟨(hostNode.onBld fun b => { b with node := .ready, off := false }), 2 ^ 32 + 1019, by decide +kernel⟩,
   ⟨(hostNode.onBld fun b => { b with node := .ready, off := false }), 2 ^ 32 + 3401, by decide +kernel⟩,
   ⟨(hostNode.onBld fun b => { b with node := .ready, off := false }), 2 ^ 63 + 2 ^ 32 + 1020, by decide +kernel, by decide +kernel, by decide +kernel, by decide +kernel, by unfold State.canonical; decide +kernel⟩,
   ⟨(hostNode.onBld fun b => { b with node := .ready, off := false }), 1000 * 2 ^ 32 + 3400, by decide +kernel, by decide +kernel, by decide +kernel, by decide +kernel, by unfold State.canonical; decide +kernel⟩⟩

/-- States that meet the hypotheses of `ThrottleAndClocks` (clauses 12, 13). -/
theorem witness_ThrottleAndClocks_4 :
    (∃ (s : State) (v : Nat),
    s.canonical)
    ∧ (∃ (s : State) (v : Nat),
    s.canonical)
    ∧ (∃ (s : State) (v : Nat),
    s.canonical)
    ∧ (∃ (s : State) (v : Nat),
    s.canonical)
    ∧ (∃ (s : State),
    s.bld.off = false)
    ∧ (∃ (s : State),
    s.bld.off = false) :=
  ⟨⟨(((hostNode.onBld fun b => { b with node := .ready })).onSec fun e => { e with identityN := 7, identityKey := some ⟨3, 5, 1, 1, 2⟩ }), 4096 * 2 ^ 32 + 5, by unfold State.canonical; decide +kernel⟩,
   ⟨(hostNode.onBld fun b => { b with node := .ready, off := false }), 5 * 2 ^ 32 + 6, by unfold State.canonical; decide +kernel⟩,
   ⟨(((hostNode.onBld fun b => { b with node := .ready })).onSec fun e => { e with identityN := 7, identityKey := some ⟨3, 5, 1, 1, 2⟩ }), 4096 * 2 ^ 32 + 5, by unfold State.canonical; decide +kernel⟩,
   ⟨(hostNode.onBld fun b => { b with node := .ready, off := false }), 5 * 2 ^ 32 + 6, by unfold State.canonical; decide +kernel⟩,
   ⟨(hostNode.onBld fun b => { b with node := .ready, off := false }), by decide +kernel⟩,
   ⟨(hostNode.onBld fun b => { b with node := .ready, off := false }), by decide +kernel⟩⟩

/-- States that meet the hypotheses of `ThrottleAndClocks` (clauses 13, 14, 15, 16, 17). -/
theorem witness_ThrottleAndClocks_5 :
    (∃ (s : State),
    s.bld.off = false)
    ∧ (∃ (s : State),
    s.bld.off = false)
    ∧ (∃ (s : State),
    s.pcr.ref156 = true ∧ s.fab.links = [])
    ∧ (∃ (s : State),
    s.pcr.ref156 = true ∧ s.canonical)
    ∧ (∃ (s : State) (l : Link),
    s.pcr.ref156 = true ∧ s.fab.links = [l] ∧ l.state ≠ .disabled)
    ∧ (∃ (s : State) (l : Link),
    s.fab.links = [l] ∧ l.state = .down ∧ s.flag (R.FAB_PORT_CFG_DRAIN (s.linkPort l.id)) = false) :=
  ⟨⟨(hostNode.onBld fun b => { b with node := .ready, off := false }), by decide +kernel⟩,
   ⟨(hostNode.onBld fun b => { b with node := .ready, off := false }), by decide +kernel⟩,
   ⟨(((hostNode.onBld fun b => { b with node := .ready, off := false })).onPcr fun p => { p with ref156 := true }), by and_intros <;> decide +kernel⟩,
   ⟨(((((hostNode.onBld fun b => { b with node := .ready, off := false })).onPcr fun p => { p with ref156 := true })).onFab fun f => { f with links := [freshLink (.port 3) .up] }), by decide +kernel, by unfold State.canonical; decide +kernel⟩,
   ⟨(((((hostNode.onBld fun b => { b with node := .ready, off := false })).onPcr fun p => { p with ref156 := true })).onFab fun f => { f with links := [freshLink (.port 3) .up] }), freshLink (.port 3) .up, by and_intros <;> decide +kernel⟩,
   ⟨(((hostNode.onBld fun b => { b with node := .ready, off := false })).onFab fun f => { f with links := [freshLink (.port 3) .down] }), freshLink (.port 3) .down, by and_intros <;> decide +kernel⟩⟩

/-- States that meet the hypotheses of `SleepAndDebug` (clauses 1, 2, 4, 5, 6, 7). -/
theorem witness_SleepAndDebug_1 :
    (∃ (s : State) (n : Nat),
    (s.core n).power = .idle)
    ∧ (∃ (s : State) (n : Nat),
    (s.core n).power ≠ .idle)
    ∧ (∃ (s : State) (tile : Nat),
    tile < s.tiles ∧ tile ∉ s.pcr.gatedTiles ∧ (∀ k < 4, (s.core (4 * tile + k)).powerNow = .gated))
    ∧ (∃ (s : State) (tile : Nat) (k : Nat),
    k < 4 ∧ (s.core (4 * tile + k)).powerNow ≠ .gated)
    ∧ (∃ (s : State) (n : Nat),
    (s.core n).power = .waking)
    ∧ (∃ (s : State) (stack : Nat) (ch : Nat),
    stack < s.stacks ∧ ch < 32 ∧ s.known ⟨.hbmChannel, .ok, stack, ch, 0⟩ = false ∧ (⟨stack, ch⟩ : ChanDown) ∉ s.pcr.channelsDown) :=
  ⟨⟨(State.reset.putCore { State.reset.core 5 with num := 5, power := .idle }), 5, by decide +kernel⟩,
   ⟨(State.reset.putCore { State.reset.core 5 with num := 5, power := .running }), 5, by decide +kernel⟩,
   ⟨((((State.reset.putCore { State.reset.core 4 with num := 4, power := .gated }).putCore { State.reset.core 5 with num := 5, power := .gated }).putCore { State.reset.core 6 with num := 6, power := .gated } |>.putCore { State.reset.core 7 with num := 7, power := .gated }).onPcr fun p => { p with gatedTiles := [] }), 1, by and_intros <;> decide +kernel⟩,
   ⟨(State.reset.putCore { State.reset.core 5 with num := 5, power := .running }), 1, 1, by and_intros <;> decide +kernel⟩,
   ⟨(State.reset.putCore { State.reset.core 5 with num := 5, power := .waking }), 5, by decide +kernel⟩,
   ⟨(hostNode.onBld fun b => { b with node := .ready, off := false }), 19, 31, by and_intros <;> decide +kernel⟩⟩

/-- States that meet the hypotheses of `SleepAndDebug` (clauses 7, 10, 11, 12, 13). -/
theorem witness_SleepAndDebug_2 :
    (∃ (s : State) (stack : Nat) (ch : Nat),
    stack < s.stacks ∧ ch < 32 ∧ s.known ⟨.hbmChannel, .ok, stack, ch, 0⟩ = false ∧ (⟨stack, ch⟩ : ChanDown) ∉ s.pcr.channelsDown)
    ∧ (∃ (s : State) (v : Nat),
    s.bld.rstN = true)
    ∧ (∃ (s : State) (v : Nat),
    s.bld.rstN = false)
    ∧ (∃ (s : State) (scan : Bool),
    s.flag (if scan then R.SEC_DEBUG_SCAN else R.SEC_DEBUG_TRACE) = false)
    ∧ (∃ (s : State) (scan : Bool),
    s.flag (if scan then R.SEC_DEBUG_SCAN else R.SEC_DEBUG_TRACE) = false)
    ∧ (∃ (s : State),
    s.flag R.SEC_DEBUG_SCAN = true) :=
  ⟨⟨(hostNode.onBld fun b => { b with node := .ready, off := false }), 0, 0, by and_intros <;> decide +kernel⟩,
   ⟨(State.reset.onBld fun b => { b with rstN := true }), 5, by decide +kernel⟩,
   ⟨(State.reset.onBld fun b => { b with rstN := false }), 5, by decide +kernel⟩,
   ⟨(hostNode.onBld fun b => { b with node := .ready, off := false }), true, by decide +kernel⟩,
   ⟨(hostNode.onBld fun b => { b with node := .ready, off := false }), false, by decide +kernel⟩,
   ⟨((hostNode.onBld fun b => { b with node := .ready, off := false }).setReg R.SEC_DEBUG_SCAN 1), by decide +kernel⟩⟩

/-- States that meet the hypotheses of `SleepAndDebug` (clauses 14). -/
theorem witness_SleepAndDebug_3 :
    ∃ (s : State),
    s.flag R.SEC_DEBUG_TRACE = true :=
  ⟨((hostNode.onBld fun b => { b with node := .ready, off := false }).setReg R.SEC_DEBUG_TRACE 1), by decide +kernel⟩

/-- States that meet the hypotheses of `MemoryErrors` (clauses 1, 2, 3, 4, 6). -/
theorem witness_MemoryErrors_1 :
    (∃ (s : State) (stack : Nat) (ch : Nat) (es : List MemErr),
    (s.bld.off = true ∨ s.stacks ≤ stack ∨ 32 ≤ ch ∨ s.known ⟨.hbmChannel, .ok, stack, ch, 0⟩ = true))
    ∧ (∃ (s : State) (stack : Nat) (ch : Nat) (es : List MemErr),
    (s.bld.off = true ∨ s.stacks ≤ stack ∨ 32 ≤ ch ∨ s.known ⟨.hbmChannel, .ok, stack, ch, 0⟩ = true))
    ∧ (∃ (s : State) (stack : Nat) (ch : Nat) (es : List MemErr),
    s.bld.off = false ∧ stack < s.stacks ∧ ch < 32 ∧ s.known ⟨.hbmChannel, .ok, stack, ch, 0⟩ = false)
    ∧ (∃ (s : State) (e : MemErr) (es : List MemErr),
    e.correctable = true)
    ∧ (∃ (s : State) (e : MemErr) (es : List MemErr),
    e.correctable = false)
    ∧ (∃ (s : State) (e : MemErr) (n : Nat),
    s.canonical ∧ s.evt.corrected.find? (·.1 == channelKey e.unit e.sub) = some (channelKey e.unit e.sub, n, s.tick + 1)) :=
  ⟨⟨(hostNode.onBld fun b => { b with node := .ready, off := false }), 20, 0, [], by decide +kernel⟩,
   ⟨(hostNode.onBld fun b => { b with node := .ready, off := false }), 0, 32, [], by decide +kernel⟩,
   ⟨(hostNode.onBld fun b => { b with node := .ready, off := false }), 3, 4, [{ memory := 0, unit := 3, sub := 4, offset := 64, correctable := true }], by and_intros <;> decide +kernel⟩,
   ⟨(hostNode.onBld fun b => { b with node := .ready, off := false }), { memory := 0, unit := 3, sub := 4, offset := 64, correctable := true }, [], by decide +kernel⟩,
   ⟨(hostNode.onBld fun b => { b with node := .ready, off := false }), { memory := 0, unit := 3, sub := 4, offset := 64, correctable := false }, [], by decide +kernel⟩,
   ⟨((hostNode.onBld fun b => { b with node := .ready, off := false }).onEvt fun v => { v with corrected := [(100, 2, 1)] }), { memory := 0, unit := 3, sub := 4, offset := 64, correctable := true }, 2, by unfold State.canonical; decide +kernel, by decide +kernel⟩⟩

/-- States that meet the hypotheses of `MemoryErrors` (clauses 7, 8, 9, 10, 11). -/
theorem witness_MemoryErrors_2 :
    (∃ (s : State) (e : MemErr),
    s.canonical ∧ e.offset < s.mirrorBase ∧ e.offset < s.headerBase ∧ e.offset < s.directoryBase ∧ e.offset < s.pageMapBase ∧ s.touchesRegions e.offset 1 = false ∧ s.touchesMessages e.offset 1 = false ∧ s.pge.pages = [])
    ∧ (∃ (s : State) (stack : Nat) (ch : Nat) (n : Nat) (lim : Nat),
    s.evt.window.find? (·.1 == channelKey stack ch) = some (channelKey stack ch, n) ∧ s.evt.limits.find? (·.1 == channelKey stack ch) = some (channelKey stack ch, lim) ∧ lim < n)
    ∧ (∃ (s : State) (stack : Nat) (ch : Nat) (n : Nat),
    s.evt.window.find? (·.1 == channelKey stack ch) = some (channelKey stack ch, n) ∧ s.evt.limits.find? (·.1 == channelKey stack ch) = none ∧ n ≤ s.reg R.EVT_ECC_CFG_CE_THRESHOLD)
    ∧ (∃ (s : State) (v : Nat),
    (R.EVT_ECC_CFG_SCRUB_HOURS.of v < 1 ∨ 168 < R.EVT_ECC_CFG_SCRUB_HOURS.of v))
    ∧ (∃ (s : State) (v : Nat),
    (R.EVT_ECC_CFG_SCRUB_HOURS.of v < 1 ∨ 168 < R.EVT_ECC_CFG_SCRUB_HOURS.of v))
    ∧ (∃ (s : State) (v : Nat),
    1 ≤ R.EVT_ECC_CFG_SCRUB_HOURS.of v ∧ R.EVT_ECC_CFG_SCRUB_HOURS.of v ≤ 168 ∧ s.canonical) :=
  ⟨⟨(hostNode.onBld fun b => { b with node := .ready, off := false }), { memory := 0, unit := 3, sub := 4, offset := 2 ^ 26 + 64, correctable := false }, by and_intros <;> first | decide +kernel | (unfold State.canonical; decide +kernel)⟩,
   ⟨((hostNode.onBld fun b => { b with node := .ready, off := false }).onEvt fun v => { v with window := [(100, 6)], limits := [(100, 5)] }), 3, 4, 6, 5, by and_intros <;> decide +kernel⟩,
   ⟨((hostNode.onBld fun b => { b with node := .ready, off := false }).onEvt fun v => { v with window := [(100, 0)] }), 3, 4, 0, by and_intros <;> decide +kernel⟩,
   ⟨(hostNode.onBld fun b => { b with node := .ready, off := false }), 0, by decide +kernel⟩,
   ⟨(hostNode.onBld fun b => { b with node := .ready, off := false }), 169 * 2 ^ 48, by decide +kernel⟩,
   ⟨(hostNode.onBld fun b => { b with node := .ready, off := false }), 168 * 2 ^ 48 + 7, by decide +kernel, by decide +kernel, by unfold State.canonical; decide +kernel⟩⟩

/-- States that meet the hypotheses of `NumberRelease` (clauses 1, 2, 3). -/
theorem witness_NumberRelease :
    (∃ (s : State) (v : Nat),
    bitAt v 63 = true ∧ (s.rse.homes ≠ [] ∨ s.rse.works ≠ []))
    ∧ (∃ (s : State) (v : Nat),
    bitAt v 63 = true ∧ (s.rse.homes ≠ [] ∨ s.rse.works ≠ []))
    ∧ (∃ (s : State) (v : Nat),
    bitAt v 63 = true ∧ s.recordsUsed = 0 ∧ s.canonical)
    ∧ (∃ (s : State) (v : Nat),
    bitAt v 63 = true ∧ s.recordsUsed = 0 ∧ s.canonical ∧ v % 65536 = s.reg R.FAB_ASSIGN_NUMBER) :=
  ⟨⟨withHome home0, 2 ^ 63, by and_intros <;> decide +kernel⟩,
   ⟨withWork work0, 2 ^ 63, by and_intros <;> decide +kernel⟩,
   ⟨State.reset.setReg R.CAP_NODE_NODE_VALID 1, 2 ^ 63, by and_intros <;> first | decide +kernel | (unfold State.canonical; decide +kernel)⟩,
   ⟨State.reset.setRegs [(R.CAP_NODE_NODE_VALID, 1), (R.FAB_ASSIGN_NUMBER, 77)], 2 ^ 63 + 77, by decide +kernel, by decide +kernel, by unfold State.canonical; decide +kernel, by decide +kernel⟩⟩

/-- States that meet the hypotheses of `DomainLimit` (clauses 1, 2). -/
theorem witness_DomainLimit :
    (∃ (s : State) (v : Nat),
    bitAt v 63 = true ∧ (s.flag R.CAP_NODE_NODE_VALID = false ∨ s.reg R.FAB_RT_INDEX_INDEX ≠ s.node) ∧ s.reg R.CAP_LIMITS_DOMAIN_MAX ≤ (s.fab.routes.filter (·.dst != s.reg R.FAB_RT_INDEX_INDEX)).length + 1)
    ∧ (∃ (s : State) (v : Nat),
    bitAt v 63 = true ∧ (s.flag R.CAP_NODE_NODE_VALID = false ∨ s.reg R.FAB_RT_INDEX_INDEX ≠ s.node) ∧ (s.fab.routes.filter (·.dst != s.reg R.FAB_RT_INDEX_INDEX)).length + 1 < s.reg R.CAP_LIMITS_DOMAIN_MAX) :=
  ⟨⟨State.reset.setReg R.CAP_LIMITS_DOMAIN_MAX 1, 2 ^ 63, by and_intros <;> decide +kernel⟩,
   ⟨State.reset.setReg R.CAP_LIMITS_DOMAIN_MAX 2, 2 ^ 63, by and_intros <;> decide +kernel⟩⟩

/-- States that meet the hypotheses of `StepKeepsCanonical` (clauses 1). -/
theorem witness_StepKeepsCanonical :
    ∃ (s : State) (t : State),
    s.canonical ∧ step s = .next t :=
  ⟨{ State.reset with pending := [.jtagBypass] }, { State.reset.bypass with pending := [] }, by unfold State.canonical; decide +kernel, rfl⟩

/-- States that meet the hypotheses of `StepFrame` (clauses 1). -/
theorem witness_StepFrame :
    ∃ (s : State) (t : State) (p : Part),
    step s = .next t ∧ p ∉ stepTouches s :=
  ⟨{ State.reset with pending := [.jtagBypass] }, { State.reset.bypass with pending := [] }, .mem, rfl, by decide⟩

end Sys2Proof.Tests
end

section
/-! SUPPORT. The scope statements: what a step is, what reads and writes of the control space do, and that a step takes one
command. -/

namespace Sys2Proof.Machine

/-! ### One step -/

theorem step_idle {s : State} (h : s.pending = []) : step s = .next (cycle s) := by
  unfold step
  rw [h]

theorem step_front {s : State} {c : Instr} {rest : List Instr} (h : s.pending = c :: rest) :
    step s = exec c { s with pending := rest } := by
  unfold step
  rw [h]

/-- Settles O1: with the queue given back, the state under the command is `s` itself. -/
theorem stepRunsFrontCommand : Obligations.StepRunsFrontCommand := by
  unfold Obligations.StepRunsFrontCommand
  intro c s
  exact step_front rfl

/-! ### Every command answers a next state -/

/-- An outcome that is a next state. -/
inductive Answers : Host.Outcome State Fault Refusal → Prop
  | next (t : State) : Answers (.next t)

theorem Answers.exists_next {o : Host.Outcome State Fault Refusal} (h : Answers o) : ∃ t, o = .next t := by
  cases h
  exact ⟨_, rfl⟩

/-- No command stops the block. A meaning that branches, each named here, has a next state at every leaf; any other is one
next state. -/
theorem exec_answers (c : Instr) (s : State) : Answers (exec c s) := by
  cases c
  all_goals
    dsimp only [exec,
      execMirrorBind, execMirrorBindAccepted, execMirrorCopyComplete, execMirrorBindRefused, execMirrorBindRetryExpiry,
      execMirrorWrite, execMirrorAck, execMirrorAckTimeout, execDeferredChangeRetry, execMirrorRefused, execMirrorFenced,
      execOwnReply, execOwnQueryRetry, execClaimWindowExpiry, execResyncReply, execResyncRetry, execPlacementOffer,
      execPlace, execPlaceAccept, execPlaceRefused, execPlaceTimeout, execPlaced, execRecallComplete, execPlaceCancel,
      execPlaceInDoubtExpiry, execStepNote, execStepAck, execLostStep, execRequestRecover, execRecordRestore, execMoveStart,
      execMvPrepare, execPullComplete, execPullReadFailed, execMvPrepared, execMvRefused, execMvCommitted, execMvAborted,
      execMvAbort, execMvReleased, execPrepareTimeout, execMoveCommitTimeout, execHandbackRetryExpiry, execTtlExpiry,
      execTombstoneExpiry, execCancelFwd, execFwdPause, execFwdMove, execFinal, execNotOwner, execNotOwnerRetryExpiry,
      execPrefixIdleExpiry, execPgRenew, execPgTtl, execPgFree, execMigrationStart, execMigrationCopy, execMigrationAck,
      execMigrationRefused, execDemoteIdleExpiry, execWriteThrough, execParityUpdate, execWriteThroughAck, execPgLocate,
      execPgLocateReply, execMztQueryDone, execMztBusyRetryExpiry, execMztPartialTimeout, execTableInvalidateDone,
      execDsetLoadReadDone, execCtxLoadingDone, execCtxDrained, execCtxTeardownDone, execBatchDispatch, execBatchEnd,
      execBatchHoldExpiry, execJobAbort, execShardDispatch, execBackupStart, execShardWin, execTurnQuiesceDone,
      execTurnDrainLimitExpiry, execLaneTrainFail, execHello, execHelloSendTimer, execHelloLossTimeout,
      execLinkDownRetrainExpiry, execLinkFailedRecheck, execLinkDrained, execDataFrameReceive, execLnack, execLack,
      execLinkReplayExpiry, execLinkTimeoutExpiry, execOrderedFrameAccept, execOack, execSignalFrame, execLoadFrame,
      execStoreFrame, execAtomicFrame, execRemoteResponse, execRemoteTimeoutExpiry, execMgmtFrame, execRegionRegister,
      execRegionRevoke, execRegionRead, execRevokeComplete, execSprayNak, execEngineNak, execRekeyStart, execRekeyHello,
      execXfrCopyDone, execWritePacket, execMsgTimeoutExpiry, execReadFrame, execReadData, execReducePacket,
      execReduceDownPacket, execCollTimeoutExpiry, execArriveAtBarrier, execReleaseAck, execWaitLimitExpiry,
      execWaitGateExpiry, execTokenAck, execTokenTransmit, execTokenRetxExpiry, execHostRdmaWrite, execHostRdmaRead,
      execRoceCompletion, execRoceAckTimeout, execRoceNak, execRoceCnp, execRoceRateRecovery, execHostPortUp,
      execI3cPrivateWrite, execBootStageDone, execTileOnlineTestDone, execChannelCopyStart, execChannelCopyDone,
      execImageHealthExpiry, execBcastPacket, execBcastEnd, execRepairReq, execRepairNak, execStatusQuery, execStatusReply,
      execRepairWaitExpiry, execImageHashDone, execImageSlotWriteDone, execLicenceLapse, execApprovalDeadlineExpiry,
      execInputWarnCross, execInputRecoveryDone, execRailWarnCross, execRailClearDone, execRailResetCross,
      execThermalSample, execPowerWindowExpiry, execRefclk156Loss, execTileIdleExpiry, execCoreWakeDone,
      execHbmPowerdownIdle, execPatrolScrubPass, execRekeyDeadline, execShaperRelease]
    repeat' first
      | with_reducible exact .next _
      | split
  all_goals exact .next _

/-- A command leaves the queue, the variant and the AON count alone. -/
theorem exec_keeps_queue {c : Instr} {s t : State} (h : exec c s = .next t) :
    t.pending = s.pending ∧ t.small = s.small ∧ t.aon = s.aon := by
  obtain ⟨hpending, hsmall, haon, -⟩ := kept_exec (κ := fun _ => false) c s (fun _ _ => rfl) t h
  exact ⟨hpending, hsmall, haon⟩

/-- An idle cycle leaves the queue and the variant alone and counts one. -/
theorem cycle_keeps_queue (s : State) :
    (cycle s).pending = s.pending ∧ (cycle s).small = s.small ∧ (cycle s).aon = s.aon + 1 := by
  obtain ⟨hpending, hsmall, haon, -⟩ := kept_serveInbox (κ := fun _ => false) (Kept.refl s) fun _ _ => rfl
  exact ⟨hpending, hsmall, congrArg (· + 1) haon⟩

/-- Settles O59: an idle step is a cycle, and any other is its front command, which answers a next state and leaves the rest
of the queue alone. That the AON count goes on in an idle step alone is the model's choice (log entry 1). -/
theorem stepTakesOneCommand : Obligations.StepTakesOneCommand := by
  unfold Obligations.StepTakesOneCommand
  intro s
  cases hq : s.pending with
  | nil =>
    obtain ⟨hpending, hsmall, haon⟩ := cycle_keeps_queue s
    exact ⟨cycle s, step_idle hq, hpending.trans hq, hsmall, haon⟩
  | cons c rest =>
    obtain ⟨t, ht⟩ := (exec_answers c { s with pending := rest }).exists_next
    obtain ⟨hpending, hsmall, haon⟩ := exec_keeps_queue ht
    exact ⟨t, (step_front hq).trans ht, hpending, hsmall, haon⟩

/-! ### Several register fields written in turn -/

theorem reg_setRegs_of_notMem {g : Fld} {l : List (Fld × Nat)} (h : ∀ p ∈ l, g.key ≠ p.1.key) (s : State) :
    (s.setRegs l).reg g = s.reg g := by
  induction l generalizing s with
  | nil => rfl
  | cons p l ih =>
    rw [List.forall_mem_cons] at h
    exact (ih h.2 _).trans (reg_setReg_ne h.1 s p.2)

/-- A field the list writes with one value only reads as that value. -/
theorem reg_setRegs_of_mem {g : Fld} {v : Nat} {l : List (Fld × Nat)} (hm : (g, v) ∈ l)
    (h : ∀ p ∈ l, g.key = p.1.key → p = (g, v)) (s : State) : (s.setRegs l).reg g = v % 2 ^ g.width := by
  induction l generalizing s with
  | nil => cases hm
  | cons p l ih =>
    rw [List.forall_mem_cons] at h
    by_cases hl : (g, v) ∈ l
    · exact ih hl h.2 _
    · have hp : p = (g, v) := ((List.mem_cons.1 hm).resolve_right hl).symm
      subst hp
      exact (reg_setRegs_of_notMem (fun q hq he => hl (h.2 q hq he ▸ hq)) _).trans (reg_setReg_self s g v)

/-! ### The fields of one register -/

theorem at_key_eq_iff {f g : FldRow} {addr : Nat} : (f.at addr).key = (g.at addr).key ↔ f.lo = g.lo := by
  simp [FldRow.at, Fld.key]

/-- The fields of a register start at different bits. -/
theorem regTable_lo_nodup : ∀ r ∈ regTable, (r.fields.map (·.lo)).Nodup := by decide +kernel

section
variable {addr : Nat} {r : RegRow} (hr : regRowAt addr = some r)
include hr

theorem field_eq_of_key {f g : FldRow} (hf : f ∈ r.fields) (hg : g ∈ r.fields) (h : (f.at addr).key = (g.at addr).key) :
    f = g :=
  List.inj_on_of_nodup_map (regTable_lo_nodup r (List.mem_of_find?_eq_some hr)) hf hg (at_key_eq_iff.1 h)

/-- Some fields of a register written: each of those takes its value, and the others keep theirs. -/
theorem reg_setFields {f : FldRow} (hf : f ∈ r.fields) (p : FldRow → Bool) (val : FldRow → Nat) (s : State) :
    (s.setRegs ((r.fields.filter p).map fun g => (g.at addr, val g))).reg (f.at addr)
      = if p f then val f % 2 ^ f.width else s.reg (f.at addr) := by
  have hkey : ∀ q ∈ (r.fields.filter p).map (fun g => (g.at addr, val g)), (f.at addr).key = q.1.key →
      p f = true ∧ q = (f.at addr, val f) := by
    intro q hq he
    obtain ⟨g, hg, rfl⟩ := List.mem_map.1 hq
    obtain ⟨hg, hpg⟩ := List.mem_filter.1 hg
    obtain rfl := field_eq_of_key hr hf hg he
    exact ⟨hpg, rfl⟩
  split
  case isTrue hp =>
    exact reg_setRegs_of_mem (List.mem_map.2 ⟨f, List.mem_filter.2 ⟨hf, hp⟩, rfl⟩) (fun q hq he => (hkey q hq he).2) s
  case isFalse hp =>
    exact reg_setRegs_of_notMem (fun q hq he => hp (hkey q hq he).1) s

omit hr in
/-- Fields of other registers keep their values. -/
theorem reg_setFields_ne {g : Fld} (hg : ∀ f ∈ r.fields, (f.at addr).key ≠ g.key) (p : FldRow → Bool)
    (val : FldRow → Nat) (s : State) : (s.setRegs ((r.fields.filter p).map fun f => (f.at addr, val f))).reg g = s.reg g := by
  refine reg_setRegs_of_notMem (fun q hq => ?_) s
  obtain ⟨f, hf, rfl⟩ := List.mem_map.1 hq
  exact (hg f (List.mem_filter.1 hf).1).symm

/-! ### Plain writes and clearing reads (Table 0.4) -/

/-- A plain write is one of the RW fields, then one of the W1C fields that stand at 1 and are written with 1. -/
theorem plainWrite_eq (s : State) (v : Nat) : s.plainWrite addr v =
    (s.setRegs ((r.fields.filter fun f => decide (f.acc = .rw)).map fun f => (f.at addr, f.of v))).setRegs
      ((r.fields.filter fun f => decide (f.acc = .w1c) && s.reg (f.at addr) == 1 && f.of v == 1).map
        fun f => (f.at addr, 0)) := by
  simp [State.plainWrite, State.writeRw, hr]

theorem reg_plainWrite {f : FldRow} (hf : f ∈ r.fields) (s : State) (v : Nat) :
    (s.plainWrite addr v).reg (f.at addr) =
      if f.acc = .w1c ∧ s.reg (f.at addr) = 1 ∧ f.of v = 1 then 0
      else if f.acc = .rw then f.of v else s.reg (f.at addr) := by
  have hof : f.of v % 2 ^ f.width = f.of v := Nat.mod_mod _ _
  rw [plainWrite_eq hr, reg_setFields hr hf _ fun _ => 0, reg_setFields hr hf _ fun f => f.of v, hof]
  simp [and_assoc]

theorem reg_plainWrite_ne {g : Fld} (hg : ∀ f ∈ r.fields, (f.at addr).key ≠ g.key) (s : State) (v : Nat) :
    (s.plainWrite addr v).reg g = s.reg g := by
  rw [plainWrite_eq hr]
  exact (reg_setFields_ne hg _ (fun _ => 0) _).trans (reg_setFields_ne hg _ (fun f => f.of v) s)

/-- Of the registers a read changes the RC fields alone: the meter's counts and the time of the throttle are no fields. -/
theorem reg_clearRc_eq (s : State) (g : Fld) : (s.clearRc addr).reg g =
    (s.setRegs ((r.fields.filter fun f => decide (f.acc = .rc)).map fun f => (f.at addr, 0))).reg g := by
  simp only [State.clearRc, hr, State.putMeter]
  split_ifs <;> rfl

theorem reg_clearRc {f : FldRow} (hf : f ∈ r.fields) (s : State) :
    (s.clearRc addr).reg (f.at addr) = if f.acc = .rc then 0 else s.reg (f.at addr) := by
  rw [reg_clearRc_eq hr, reg_setFields hr hf _ fun _ => 0]
  simp

theorem reg_clearRc_ne {g : Fld} (hg : ∀ f ∈ r.fields, (f.at addr).key ≠ g.key) (s : State) :
    (s.clearRc addr).reg g = s.reg g :=
  (reg_clearRc_eq hr s g).trans (reg_setFields_ne hg _ (fun _ => 0) s)

end

/-- Settles O2: the fields of a register have keys of their own, so each takes what its own access type says. -/
theorem accessTypes : Obligations.AccessTypes := by
  unfold Obligations.AccessTypes
  refine ⟨?rw, ?w1c, ?kept, ?rc, ?unread, ?other⟩
  case rw =>
    intro s addr v r f _ hr hf hacc
    simp [reg_plainWrite hr hf, hacc]
  case w1c =>
    intro s addr v r f _ hr hf hacc
    by_cases hone : s.reg (f.at addr) = 1 <;> simp [reg_plainWrite hr hf, hacc, hone]
  case kept =>
    intro s addr v r f _ hr hf hacc
    rcases hacc with hacc | hacc <;> simp [reg_plainWrite hr hf, hacc]
  case rc =>
    intro s addr r f _ hr hf hacc
    rw [reg_clearRc hr hf, if_pos hacc]
  case unread =>
    intro s addr r f _ hr hf hacc
    rw [reg_clearRc hr hf, if_neg hacc]
  case other =>
    intro s addr v r g _ hr hg
    exact ⟨reg_plainWrite_ne hr hg s v, reg_clearRc_ne hr hg s⟩

/-! ### Release of a node number (R243) -/

theorem execFabAssignRelease_refused {s : State} (h : s.recordsUsed ≠ 0) : exec .fabAssignRelease s = .next s := by
  change Host.Outcome.next (s.releaseNumber (s.reg R.FAB_ASSIGN_NUMBER)).1 = _
  rw [State.releaseNumber, if_pos h]

/-- A SUBMIT whose prompt is still to be read. -/
def promptToRead : SubmitBlock :=
  { hostTag := 0, queue := 0, context := 1, modelId := 0, variantId := 0, maxNew := 1, stalenessMax := 0, specWindow := 0,
    coded := false, pauseAtEnd := false, promptSrc := 1, ttl := 0, promptLength := 4, replyAddr := 1, replyPort := 1,
    replyStream := 0, temperature := 0, topP := 0, topK := 0, repeatPenalty := 0, prefixLength := 0, prefixKey := 0,
    stopTokens := [], promptVa := 4096, promptRkey := 7, promptQp := 2, rsvdOk := true }

/-- A numbered node with an empty directory that reads the prompt of a SUBMIT, for which it holds a slot (R333). -/
def readsPrompt : State :=
  (State.reset.setReg R.CAP_NODE_NODE_VALID 1).onHcp fun h => { h with later := [.submit 3 promptToRead 0 1 1 0] }

/-- Refutes O3: a slot held for a SUBMIT whose prompt is being read counts in RSE_OCCUPANCY.RECORDS (R333), so R243 refuses the
release of `readsPrompt`, whose directory is empty; the statement has the number released. -/
theorem not_controlSpace : ¬ Obligations.ControlSpace := by
  unfold Obligations.ControlSpace
  rintro ⟨-, -, -, -, -, -, -, -, -, hrelease, -⟩
  have hslot : readsPrompt.recordsUsed ≠ 0 := by decide +kernel
  have hnumbered : readsPrompt.flag R.CAP_NODE_NODE_VALID = true := by decide +kernel
  have hreleased := hrelease readsPrompt rfl rfl hnumbered
  rw [execFabAssignRelease_refused hslot] at hreleased
  have hvalid := congrArg (fun t => t.flag R.CAP_NODE_NODE_VALID) (Host.Outcome.next.inj hreleased)
  exact absurd hvalid (by decide +kernel)

end Sys2Proof.Machine
end

section
/-! SUPPORT. The statements of every step and of reset: what a step keeps canonical and leaves alone, and what the state after
reset holds. -/

namespace Sys2Proof.Machine

variable {κ : Part → Bool} {s t : State}

/-! ### One part of the state -/

/-- The choice of one part. -/
def onlyPart (p q : Part) : Bool := decide (q = p)

@[simp] theorem onlyPart_self (p : Part) : onlyPart p p = true := by simp [onlyPart]

theorem off_onlyPart {p : Part} {l : List Part} (h : p ∉ l) : Off (onlyPart p) l := by
  intro q hq
  exact decide_eq_false fun he => h (he ▸ hq)

/-! ### What a step keeps -/

/-- No part holds the AON count. -/
theorem Part.same_setAon (p : Part) (n : Nat) : p.same s { t with aon := n } ↔ p.same s t := by
  cases p <;> exact Iff.rfl

/-- No part holds the queue of commands. -/
theorem Part.same_ofPending (p : Part) (l : List Sys2Proof.Instr) : p.same { s with pending := l } t ↔ p.same s t := by
  cases p <;> exact Iff.rfl

/-- A step keeps the canonical form, and every named part that `stepTouches` does not list: an idle one is the inbox served and the
AON count moved on, any other its front command on the queue's rest. -/
theorem step_keeps (hκ : Off κ (stepTouches s)) (h : step s = .next t) :
    (s.canonical → t.canonical) ∧ ∀ p, κ p = true → p.same s t := by
  unfold stepTouches at hκ
  cases hq : s.pending with
  | nil =>
    simp only [hq] at hκ
    obtain ⟨-, -, -, hcanonical, hsame⟩ := kept_serveInbox (Kept.refl s) hκ
    rw [step_idle hq] at h
    cases h
    exact ⟨hcanonical, fun p hp => (p.same_setAon _).2 (hsame p hp)⟩
  | cons c rest =>
    simp only [hq] at hκ
    rw [step_front hq] at h
    obtain ⟨-, -, -, hcanonical, hsame⟩ := kept_exec c _ hκ t h
    exact ⟨hcanonical, fun p hp => (p.same_ofPending rest).1 (hsame p hp)⟩

/-- Settles O58: a step keeps the canonical form, whatever parts it may change. The form is the model's own (log entry 6). -/
theorem stepKeepsCanonical : Obligations.StepKeepsCanonical := by
  unfold Obligations.StepKeepsCanonical
  intro s t hs h
  exact (step_keeps (κ := fun _ => false) (fun _ _ => rfl) h).1 hs

/-- Settles O60: a part outside `stepTouches` is one the step keeps. The division into parts is the model's own. -/
theorem stepFrame : Obligations.StepFrame := by
  unfold Obligations.StepFrame
  intro s t p h hp
  exact (step_keeps (off_onlyPart hp) h).2 p (onlyPart_self p)

/-! ### The state after reset -/

/-- The role CACHE of a node that has never completed a turn (R210). -/
theorem reset_role : State.reset.reg R.PHS_PHASE_ROLE = 3 := rfl

/-- Refutes O57: PHS_PHASE.ROLE holds 3, the role CACHE of R210, where the field's own reset value is 0, the model's choice for a
field whose reset column reads "restored" (log entry 3). -/
theorem not_resetState : ¬ Obligations.ResetState := by
  unfold Obligations.ResetState
  rintro ⟨-, -, -, -, -, -, -, -, hfields, -⟩
  have hrole : State.reset.reg R.PHS_PHASE_ROLE = 0 := hfields R.PHS_PHASE_ROLE
  exact absurd (reset_role.symm.trans hrole) (by decide)

end Sys2Proof.Machine
end

section
/-! SUPPORT. Bring-up (chapter 13): what a posted event, a change of the descriptor and a defect leave as they were, and the
statements of licences and of units in service. -/

namespace Sys2Proof.Machine

/-! ### Bring-up's state under operations of other units -/

variable (s : State)

@[simp] theorem bump_bld (f : Fld) : (s.bump f).bld = s.bld :=
  (kept_bump (κ := onlyPart .bld) (Kept.refl s) (off_onlyPart (by decide)) f).same (onlyPart_self .bld)

@[simp] theorem post_bld (e : Ev) (ctx : Nat) (a : Nat × Nat) : (s.post e ctx a).bld = s.bld :=
  (kept_post (κ := onlyPart .bld) (Kept.refl s) (off_onlyPart (by decide)) e ctx a).same (onlyPart_self .bld)

@[simp] theorem capChange_bld (fs : List (Fld × Nat)) : (s.capChange fs).bld = s.bld :=
  (kept_capChange (κ := onlyPart .bld) (Kept.refl s) (off_onlyPart (by decide)) fs).same (onlyPart_self .bld)

@[simp] theorem reReport_bld : s.reReport.bld = s.bld :=
  (kept_reReport (κ := onlyPart .bld) (Kept.refl s) (off_onlyPart (by decide))).same (onlyPart_self .bld)

@[simp] theorem license_bld : s.license.bld = s.bld := capChange_bld s _

@[simp] theorem retireReply_bld (st : St) : (s.retireReply st).bld = s.bld :=
  (kept_retireReply (κ := onlyPart .bld) (Kept.refl s) (off_onlyPart (by decide)) st).same (onlyPart_self .bld)

@[simp] theorem setLicences_licences (l : List Licence) : (s.setLicences l).bld.licences = l := rfl

/-! ### Licences (R372 to R374) -/

variable {s}

section
variable {bs : List Byte}

theorem installLicence_formBad (h : licenceFormOk bs = false) : s.installLicence bs = (s, .licenceInvalid) := by
  simp [State.installLicence, h]

theorem installLicence_otherNode (hform : licenceFormOk bs = true) (hnode : numAt bs 0x40 64 ≠ s.nodeHash) :
    s.installLicence bs = (s, .licenceNode) := by
  simp [State.installLicence, hform, hnode]

theorem installLicence_unsigned (hform : licenceFormOk bs = true) (hnode : numAt bs 0x40 64 = s.nodeHash)
    (hsigned : s.flezuSigned 3 (numAt bs 0x80 64) (numAt bs 0xC0 512) (bs.take 0xC0) = false) :
    s.installLicence bs = (s, .signatureInvalid) := by
  simp [State.installLicence, hform, hnode, hsigned]

/-- A licence is refused with the state as it was, or passes every check of R373 and is stored. -/
theorem installLicence_cases (s : State) (bs : List Byte) :
    ((s.installLicence bs).1 = s ∧ (s.installLicence bs).2 ≠ .ok)
    ∨ ((s.installLicence bs).2 = .ok ∧ (s.installLicence bs).1.bld.licences = s.bld.licences ++ [parseLicence bs s.tick]
      ∧ (∀ l ∈ s.bld.licences, l.serial ≠ numAt bs 8 8) ∧ s.bld.licences.length < 64
      ∧ numAt bs 0x40 64 = s.nodeHash ∧ licenceFormOk bs = true) := by
  unfold State.installLicence
  dsimp only
  split
  · exact .inl ⟨rfl, nofun⟩
  next hform =>
    split
    · exact .inl ⟨rfl, nofun⟩
    next hnode =>
      split
      · exact .inl ⟨rfl, nofun⟩
      · split
        · exact .inl ⟨rfl, nofun⟩
        next hroom =>
          rw [Bool.or_eq_true, not_or] at hroom
          obtain ⟨hserial, hlength⟩ := hroom
          refine .inr ⟨rfl, by simp, ?_, by simpa using hlength, not_not.1 hnode, by simpa using hform⟩
          simpa [parseLicence] using hserial

end

theorem licenceBytes_cons {l : Licence} (h : l.duration ≠ 0) (ls : List Licence) : (s.licenceBytes (l :: ls)).1
    = toBytes 8 l.serial ++ toBytes 8 ((l.duration - s.elapsed l) * 2 ^ 32 + l.features) ++ (s.licenceBytes ls).1 := by
  simp [State.licenceBytes, h]

/-- Recording a licence's elapsed ticks keeps what it has been counted for (R374). -/
theorem elapsed_recorded (s : State) (l : Licence) :
    s.elapsed (if !l.lapsed && 64 ≤ s.tick - l.since then { l with recorded := s.elapsed l, since := s.tick } else l)
      = s.elapsed l := by
  split
  next h =>
    have hlapsed : l.lapsed = false := by simpa using (Bool.and_eq_true_iff.1 h).1
    simp [State.elapsed, hlapsed]
  · rfl

/-- Settles O46. That LIC_REMOVE of a serial that is not stored answers ST_BAD_PARAM is the model's choice (log entry 36). -/
theorem licences : Obligations.Licences := by
  unfold Obligations.Licences
  refine ⟨?install, fun _ _ => installLicence_formBad, fun _ _ => installLicence_otherNode,
    fun _ _ => installLicence_unsigned, ?stored, ?refused, ?list, fun _ _ ls h => licenceBytes_cons h ls, ?remove, ?unstored,
    ?record, ?lapse, ?unlapsed⟩
  case install =>
    intro s t p ref data h hpayload hlength
    exact congrArg Host.Outcome.next (prayr_accept h (by simp [hpayload, hlength]))
  case stored =>
    intro s bs hok
    obtain ⟨-, hno⟩ | ⟨-, hstored⟩ := installLicence_cases s bs
    · exact absurd hok hno
    · exact hstored
  case refused =>
    intro s bs hno
    obtain ⟨hsame, -⟩ | ⟨hok, -⟩ := installLicence_cases s bs
    · exact hsame
    · exact absurd hok hno
  case list =>
    intro s t p ref h hpayload
    exact congrArg Host.Outcome.next (prayr_accept h hpayload)
  case remove =>
    intro s t p ref n h hpayload hstored
    exact congrArg Host.Outcome.next ((prayr_accept h hpayload).trans (if_pos hstored))
  case unstored =>
    intro s t p ref n h hpayload hstored
    exact congrArg Host.Outcome.next ((prayr_accept h hpayload).trans (if_neg (by simp [hstored])))
  case record =>
    intro s
    refine ⟨_, rfl, ?_, by simp, rfl⟩
    rw [onBld_bld, List.map_map]
    exact List.map_congr_left fun l _ => elapsed_recorded s l
  case lapse =>
    intro s n l hfind hlapsed hduration helapsed
    change execLicenceLapse n s = _
    simp [execLicenceLapse, hfind, hlapsed, hduration, helapsed]
  case unlapsed =>
    intro s n l hfind hlive
    change execLicenceLapse n s = _
    simp only [execLicenceLapse, hfind]
    exact if_pos (.inr hlive)

end Sys2Proof.Machine
end

section
/-! SUPPORT. Units in service (section 13.3): the registers they change are not the node's number, so an event names the
node under the number it had before. -/

namespace Sys2Proof.Machine

/-! ### The node's number under changes of other registers -/

theorem nodeNumber_key_ne {f : Fld} (h : 8 < f.reg) : R.CAP_NODE_NODE_NUMBER.key ≠ f.key := by
  simp only [R.CAP_NODE_NODE_NUMBER, Fld.key]
  omega

section
variable {s t : State} {f : Fld}

theorem node_of_regs (h : t.regs = s.regs) : t.node = s.node := by
  simp only [State.node, State.reg, h]

theorem setReg_node (h : 8 < f.reg) (v : Nat) : (s.setReg f v).node = s.node := reg_setReg_ne (nodeNumber_key_ne h) s v

theorem count_node (h : 8 < f.reg) (n : Nat) : (s.count f n).node = s.node := reg_count_ne s (nodeNumber_key_ne h) n

theorem bump_node (h : 8 < f.reg) : (s.bump f).node = s.node := count_node h 1

theorem setRegs_node {fs : List (Fld × Nat)} (h : ∀ p ∈ fs, 8 < p.1.reg) : (s.setRegs fs).node = s.node :=
  reg_setRegs_of_notMem (fun p hp => nodeNumber_key_ne (h p hp)) s

end

variable (s : State)

/-! ### Events -/

theorem hostSend_node (cls : Nat) (o : HostOut) : (s.hostSend cls o).node = s.node :=
  node_of_regs ((kept_hostSend (κ := onlyPart .regs) (Kept.refl s) (off_onlyPart (by decide)) cls o).same (onlyPart_self .regs))

theorem ringPost_node (w : EvtWords) (own : Bool) : (s.ringPost w own).node = s.node := by
  have hclass : 8 < (R.EVT_CLASS_STATS_POSTED (w.code / 256 % 16)).reg := by
    simp only [R.EVT_CLASS_STATS_POSTED]
    omega
  have hposted : 8 < R.EVT_STATS_POSTED.reg := by decide
  have hoverwritten : 8 < R.EVT_STATS_OVERWRITTEN.reg := by decide
  have hhead : 8 < R.EVT_HEAD_NEXT_SEQ.reg := by decide
  have holdest : 8 < R.EVT_OLDEST_OLDEST_SEQ.reg := by decide
  unfold State.ringPost
  dsimp only
  split <;> split <;>
    simp only [hostSend_node, setReg_node holdest, onEvt_node, bump_node hoverwritten, bump_node hclass, bump_node hposted,
      setReg_node hhead]

theorem postOverwritten_node : s.postOverwritten.node = s.node := by
  unfold State.postOverwritten
  split
  · rfl
  · exact ringPost_node _ _ _

/-- An event that is not of the fabric class sends the manager nodes nothing (R246). -/
theorem post_node {e : Ev} (h : e.cls ≠ 2) (ctx : Nat) (a : Nat × Nat) : (s.post e ctx a).node = s.node := by
  unfold State.post
  rw [if_neg h, postOverwritten_node, ringPost_node]

theorem capChange_node {fs : List (Fld × Nat)} (h : ∀ p ∈ fs, 8 < p.1.reg) : (s.capChange fs).node = s.node := by
  unfold State.capChange
  split
  · rfl
  · rw [post_node _ (by decide), setReg_node (by decide), setRegs_node h]

theorem reReport_node : s.reReport.node = s.node := by
  unfold State.reReport
  split
  · rfl
  · rw [setReg_node (by decide), setRegs_node]
    simp only [List.forall_mem_map, R.SEC_REPORT_WORD]
    omega

/-! ### Defects, tiles and channels -/

@[simp] theorem addDefect_node (f : Finding) : (s.addDefect f).node = s.node := by
  unfold State.addDefect
  dsimp only
  split
  · rw [post_node _ (by decide), bump_node (by decide), onBld_node]
  · rw [reReport_node, setReg_node (by decide), onBld_node]

theorem setBit_node {f : Fld} (h : 8 < f.reg) (i : Nat) (on : Bool) : (s.setBit f i on).node = s.node := by
  unfold State.setBit
  dsimp only
  split
  · exact setReg_node h _
  · exact setReg_node h _
  · rfl

theorem tileOut_node (tile : Nat) : (s.tileOut tile).node = s.node := by
  unfold State.tileOut
  dsimp only
  split
  · exact capChange_node s (by simp [R.CAP_TILES_TILE_PRESENT, R.CAP_COUNTS_TILES, R.CAP_COUNTS_LOGICAL_CORES])
  · rfl

theorem channelOut_node (stack channel : Nat) (st : St) : (s.channelOut stack channel st).node = s.node := by
  unfold State.channelOut
  rw [capChange_node _ (by simp [R.CAP_HBM_HBM_CHANNELS, R.CAP_HBM_HBM_MIB, R.CAP_COUNTS_HBM_STACKS]),
    setReg_node (by decide), addDefect_node]

/-! ### Contexts torn down -/

theorem stopCore_node (c : Core) : (s.stopCore c).node = s.node :=
  count_node (by simp only [R.CORE_SQUASH_SQUASHED]; omega) _

theorem squashCore_node (c : Core) : (s.squashCore c).node = s.node := by
  unfold State.squashCore
  split
  · rw [bump_node (by decide), stopCore_node]
  · rw [bump_node (by decide), stopCore_node]
  · exact stopCore_node s c
  · split <;> rfl

theorem squashCores_node (cs : List Core) : (s.squashCores cs).node = s.node := by
  induction cs generalizing s with
  | nil => rfl
  | cons c cs ih => exact (ih _).trans (squashCore_node s c)

theorem tearDown_node (c : Nat) (cause : CloseCause) (st : St) (core pc : Nat) :
    (s.tearDown c cause st core pc).node = s.node := by
  have hclose : ∀ x, (s.closeCtx x cause st core pc).node = s.node := fun x => squashCores_node _ _
  unfold State.tearDown
  split
  · split
    · exact hclose _
    · exact hclose _
    · exact hclose _
    · rfl
  · rfl

theorem tearDownAll_node (cause : CloseCause) (st : St) (cs : List Nat) :
    (s.tearDownAll cause st cs).node = s.node := by
  induction cs generalizing s with
  | nil => rfl
  | cons c cs ih => exact (ih _).trans (tearDown_node s c cause st 0 0)

/-! ### The defect list (R358, R359) -/

theorem toBytes_length (n v : Nat) : (toBytes n v).length = n := by
  induction n generalizing v with
  | zero => rfl
  | succ n ih => simp [toBytes, ih]

theorem Defect.bytes_length (d : Defect) : d.bytes.length = 32 := by
  simp [Defect.bytes, toBytes_length]

section
variable {s}

theorem addDefect_room {f : Finding} (h : s.bld.defects.length < 4096) :
    s.addDefect f = ((s.onBld fun b => { b with defects := b.defects ++ [⟨s.bld.defects.length, f.kind, f.status,
      s.reg R.BLD_BOOT_START_COUNT, s.startTicks % 2 ^ 32, f.unit, f.sub, f.detail⟩] }).setReg R.BLD_DEFECT_COUNT
        (s.bld.defects.length + 1)).reReport :=
  if_neg (not_le.2 h)

theorem addDefect_full {f : Finding} (h : 4096 ≤ s.bld.defects.length) : (s.addDefect f).bld.defects = s.bld.defects := by
  simp [State.addDefect, h]

/-! ### Tiles (R360, R361) -/

theorem withdraw_inService {tile : Nat} {st : St} (h : bitAt (s.reg R.BLD_SERVICE_WITHDRAWN) tile = false) :
    s.withdraw tile st
      = ((((((s.addDefect ⟨.tile, st, tile, 0, 0⟩).setBit R.BLD_SERVICE_WITHDRAWN tile true).setBit R.BLD_SERVICE_OFFLINE tile
          false).tileOut tile).tearDownAll .withdrawal .ok ((((s.addDefect ⟨.tile, st, tile, 0, 0⟩).setBit
            R.BLD_SERVICE_WITHDRAWN tile true).setBit R.BLD_SERVICE_OFFLINE tile false).tileContexts tile)).gateTile tile).post
              .tileWithdrawn 0xFFF (formO st s.node tile 0) := by
  unfold State.withdraw
  rw [h, if_neg Bool.false_ne_true]
  dsimp only
  rw [tearDownAll_node, tileOut_node, setBit_node _ (by decide), setBit_node _ (by decide), addDefect_node]

theorem coreFailed_withdrawn {tile phys : Nat} {st : St} (h : bitAt (s.reg R.BLD_SERVICE_WITHDRAWN) tile = true) :
    s.coreFailed tile phys st = s := by
  simp [State.coreFailed, h]

/-- The first core of a tile to fail is replaced by the spare. -/
theorem coreFailed_first {tile phys : Nat} {st : St} (hphys : phys < 4)
    (hin : bitAt (s.reg R.BLD_SERVICE_WITHDRAWN) tile = false) (hspared : s.bld.spared = []) :
    s.coreFailed tile phys st
      = ((((s.addDefect ⟨.core, st, tile, phys, 0⟩).onBld fun b => { b with spared := b.spared ++ [(tile, phys)] }).substitute
          (4 * tile + phys)).post .coreSpared 0xFFF (formO st s.node tile 0)) := by
  simp [State.coreFailed, hin, hspared, hphys.ne]

/-- The second withdraws the tile. -/
theorem coreFailed_second {tile phys other : Nat} {st : St} (hin : bitAt (s.reg R.BLD_SERVICE_WITHDRAWN) tile = false)
    (hspared : s.bld.spared = [(tile, other)]) (hne : phys ≠ other) : s.coreFailed tile phys st = s.withdraw tile st := by
  simp [State.coreFailed, hin, hspared, hne]

theorem onBld_congr {f g : Bld → Bld} (h : f s.bld = g s.bld) : s.onBld f = s.onBld g :=
  congrArg (fun b => { s with bld := b }) h

/-- A test without findings brings the tile back. -/
theorem execTileOnlineTestDone_passed {tile : Nat} (htesting : s.bld.testing = [tile])
    (hin : bitAt (s.reg R.BLD_SERVICE_WITHDRAWN) tile = false) :
    exec (.tileOnlineTestDone tile []) s = .next (((((s.onBld fun b => { b with testing := [] }).setBit R.BLD_SERVICE_OFFLINE
      tile false).tileBack tile).takeTile tile).onlineReply tile .ok) := by
  have hended : (s.onBld fun b => { b with testing := b.testing.filter (· != tile) })
      = s.onBld fun b => { b with testing := [] } := onBld_congr (by simp [htesting])
  change execTileOnlineTestDone tile [] s = _
  simp only [execTileOnlineTestDone, hended]
  simp [State.applyFindings, htesting, hin]

/-! ### Channels (R362) -/

theorem readCell_of_notMem {m : List Host.Cell} {a : Nat} (h : ∀ c ∈ m, c.1 ≠ a) : readCell m a = 0 := by
  induction m with
  | nil => rfl
  | cons c m ih =>
    rw [List.forall_mem_cons] at h
    rw [readCell, if_neg h.1.symm, ih h.2, ite_self]

theorem rd_dropRange {low n a : Nat} (hlow : low ≤ a) (hhigh : a < low + n) : (s.dropRange low n).rd .hbm a = 0 := by
  refine readCell_of_notMem fun c hc he => ?_
  have hkept := (List.mem_filter.1 hc).2
  simp [he, hlow, hhigh] at hkept

/-- With nothing at or above the pool's end there is nothing to move, and the copy starts. -/
theorem execChannelCopyStart_ready {r : Retire} (hretire : s.bld.retire = some r) (hcopying : r.copying = false)
    (hpages : s.beyond = []) (htargets : s.beyondTargets = []) :
    exec .channelCopyStart s
      = .next ((s.onBld fun b => { b with retire := some { r with copying := true } }).setReg R.BLD_HBM_RETIRING 1) := by
  change execChannelCopyStart s = _
  simp [execChannelCopyStart, hretire, hcopying, hpages, htargets]

theorem channelOut_resetAfterCopy (stack channel : Nat) (st : St) :
    (s.channelOut stack channel st).bld.resetAfterCopy = s.bld.resetAfterCopy := by
  simp only [State.channelOut, capChange_bld, setReg_bld]
  unfold State.addDefect
  dsimp only
  split <;> simp

/-- A copy that no reset waits for commits, and the retirement is answered. -/
theorem execChannelCopyDone_commits {r : Retire} (hretire : s.bld.retire = some r) (hcopying : r.copying = true)
    (hreset : s.bld.resetAfterCopy = none) :
    exec .channelCopyDone s
      = .next ((((((s.channelOut r.stack r.channel .ok).dropRange r.low (3 * 2 ^ 30)).onBld fun b => { b with
          retire := none }).setReg R.BLD_HBM_RETIRING 0).post .channelRetired 0xFFF (formO .ok s.node 0 0)).retireReply .ok) := by
  have hnode : ((((s.channelOut r.stack r.channel .ok).dropRange r.low (3 * 2 ^ 30)).onBld fun b => { b with
      retire := none }).setReg R.BLD_HBM_RETIRING 0).node = s.node :=
    (setReg_node (by decide) 0).trans (channelOut_node s _ _ _)
  have hlater : ((s.channelOut r.stack r.channel .ok).dropRange r.low (3 * 2 ^ 30)).bld.resetAfterCopy = none :=
    (channelOut_resetAfterCopy _ _ _).trans hreset
  change execChannelCopyDone s = _
  simp only [execChannelCopyDone, hretire, hcopying, hnode, retireReply_bld, post_bld, setReg_bld, onBld_bld, hlater,
    Bool.not_true, Bool.false_eq_true, if_false]

end

/-- Settles O40: an event names the node as before, since no defect, tile or channel changes its number. That TILE_SERVICE online
of a tile that is not offline answers ST_BAD_STATE is the model's choice (log entry 35). -/
theorem unitsInService : Obligations.UnitsInService := by
  unfold Obligations.UnitsInService
  refine ⟨fun _ _ => addDefect_room, fun _ _ => addDefect_full, ?coreSpared, ?coreWithdraws, ?coreIgnored,
    fun _ _ _ => withdraw_inService, ?offline, ?used, ?online, ?notOffline, ?tested, ?untested, ?defectRead,
    Defect.bytes_length, ?defectClear, fun _ => rfl, ?retire, ?retired, fun _ _ => execChannelCopyStart_ready, ?noRetire,
    fun _ _ => execChannelCopyDone_commits, ?dropped⟩
  case coreSpared =>
    intro s tile phys st htile hphys hin hspared
    exact congrArg Host.Outcome.next ((if_pos ⟨htile, hphys.le⟩).trans (coreFailed_first hphys hin hspared))
  case coreWithdraws =>
    intro s tile phys other st htile hphys hin hspared hne
    exact congrArg Host.Outcome.next ((if_pos ⟨htile, hphys⟩).trans (coreFailed_second hin hspared hne))
  case coreIgnored =>
    intro s tile phys st hcase
    refine congrArg Host.Outcome.next ?_
    by_cases hunit : tile < s.tiles ∧ phys ≤ 4
    · have hout : bitAt (s.reg R.BLD_SERVICE_WITHDRAWN) tile = true := hcase.resolve_right (by omega)
      exact (if_pos hunit).trans (coreFailed_withdrawn hout)
    · exact if_neg hunit
  case offline =>
    intro s t p ref tile h hpayload htile hin hunused
    refine congrArg Host.Outcome.next ((prayr_accept h hpayload).trans ?_)
    simp [htile, hin, hunused]
  case used =>
    intro s t p ref tile h hpayload htile hin hused
    refine congrArg Host.Outcome.next ((prayr_accept h hpayload).trans ?_)
    simp [htile, hin, hused]
  case online =>
    intro s t p ref tile h hpayload htile hoff htesting
    refine congrArg Host.Outcome.next ((prayr_accept h hpayload).trans ?_)
    rw [if_neg (not_le.2 htile), hoff, htesting]
    rfl
  case notOffline =>
    intro s t p ref tile h hpayload htile hoff
    refine congrArg Host.Outcome.next ((prayr_accept h hpayload).trans ?_)
    rw [if_neg (not_le.2 htile), hoff]
    rfl
  case tested =>
    intro s tile htesting hin
    exact execTileOnlineTestDone_passed htesting hin
  case untested =>
    intro s tile fs htesting
    exact if_pos (by rw [htesting]; rfl)
  case defectRead =>
    intro s t p ref first count h hpayload hfirst hone hcount
    exact congrArg Host.Outcome.next (prayr_accept h (by simp [hpayload, hfirst, hone, hcount]))
  case defectClear =>
    intro s t p ref h hpayload
    exact congrArg Host.Outcome.next (prayr_accept h hpayload)
  case retire =>
    intro s t p ref stack channel h hpayload hstack hchannel hknown hretire hresetting hready hbusy hfits
    refine congrArg Host.Outcome.next ((prayr_accept h hpayload).trans ?_)
    simp [hstack, hchannel, hknown, hretire, hresetting, hready, hbusy, hfits]
  case retired =>
    intro s t p ref stack channel h hpayload hstack hchannel hcase
    refine congrArg Host.Outcome.next ((prayr_accept h hpayload).trans ?_)
    have hrefused : (t.known ⟨.hbmChannel, .ok, stack, channel, 0⟩ || t.bld.retire.isSome) = true := by simpa using hcase
    simp [hstack, hchannel, hrefused]
  case noRetire =>
    intro s hretire
    change execChannelCopyStart s = _ ∧ execChannelCopyDone s = _
    simp [execChannelCopyStart, execChannelCopyDone, hretire]
  case dropped =>
    intro s low n a hlow hhigh
    simp [State.rdNum, rdNat, rd_dropRange hlow hhigh]

end Sys2Proof.Machine
end

section
/-! SUPPORT. Moves (R51 to R58): what a lookup finds, and that a sound copy at an epoch not below the message's answers as it
stands. -/

namespace Sys2Proof.Machine

variable {s : State} {id epoch : Nat} {w : Work} {h : HomeRec}

/-! ### What a lookup finds -/

theorem home_id (hh : s.home? id = some h) : h.r.id = id := by
  simpa using List.find?_some hh

theorem epochFull_eq_false {r : Record} (he : r.epoch + 1 < 2 ^ 32) : epochFull r = false := by
  exact decide_eq_false (not_le.2 he)

theorem checkCopy_sound (hw : s.work? id = some w) (hok : w.checkOk = true) : s.checkCopy id = s := by
  simp [State.checkCopy, hw, hok]

theorem overtaken_not_lower (hw : s.work? id = some w) (he : epoch ≤ w.r.epoch) : s.overtaken id epoch = s := by
  simp [State.overtaken, hw, he]

theorem meet_not_lower (hw : s.work? id = some w) (hok : w.checkOk = true) (he : epoch ≤ w.r.epoch) :
    s.meet id epoch = s := by
  rw [State.meet, checkCopy_sound hw hok, overtaken_not_lower hw he]

theorem checkCopy_none (hw : s.work? id = none) : s.checkCopy id = s := by
  simp [State.checkCopy, hw]

theorem meet_none (hw : s.work? id = none) : s.meet id epoch = s := by
  simp [State.meet, checkCopy_none hw, State.overtaken, hw]

theorem disposal_decode (hstate : w.r.state = .decode) (hphase : s.reg R.PHS_PHASE_STATE ≠ 2) : s.disposal w = (s, w) := by
  simp [State.disposal, hstate, hphase]

theorem moveTo_of_phase {mv : MoveOut} {ph : MovePhase} (hmove : w.move = some mv) (hphase : mv.phase = ph) :
    w.moveTo mv.dest ph = some mv := by
  simp [Work.moveTo, hmove, hphase, Option.filter_some]

/-- The pending move of a request that rests starts (R51). -/
theorem beginMove_pending {dest : Nat} {o : MoveOrigin} (howned : w.status = .owned) (hstep : w.step = none)
    (hring : w.ring = []) (hnotes : w.notes = []) (hmove : w.move = none) (hrecall : w.recalling = false)
    (hthrough : w.throughWait = 0) (hpause : w.pendPause = none) (hmig : s.migratingReq w.r.id = false)
    (hpages : (s.kvPages w.r.id).all (·.headerOk) = true) (hrebuilds : s.pge.rebuilds.all (·.page.req != w.r.id) = true)
    (hstate : w.r.state = .decode) (hpend : w.pendMove = some (dest, o)) (horigin : o ≠ .endOfTurn)
    (hburin : o ≠ .burin ∨ s.reg R.PHS_PHASE_STATE ≠ 1) : s.beginMove w = s.startMove w dest .decode o none := by
  have hrests : ¬ (w.status ≠ .owned ∨ w.step.isSome ∨ !w.ring.isEmpty ∨ !w.notes.isEmpty ∨ w.move.isSome ∨ w.recalling
      ∨ w.throughWait ≠ 0 ∨ s.migratingReq w.r.id ∨ (s.kvPages w.r.id).any (!·.headerOk)
      ∨ s.pge.rebuilds.any (·.page.req == w.r.id)) := by
    simp only [List.all_eq_true, bne_iff_ne] at hpages hrebuilds
    simp [howned, hstep, hring, hnotes, hmove, hrecall, hthrough, hmig]
    exact ⟨hpages, hrebuilds⟩
  have hopen : ¬ (o = .burin ∧ s.reg R.PHS_PHASE_STATE = 1) := by
    rintro ⟨ho, hclosing⟩
    exact hburin.elim (· ho) (· hclosing)
  rw [State.beginMove, if_neg hrests, hpend]
  split
  next heq =>
    cases heq
    exact absurd rfl horigin
  next => simp [hstate, hpause, hopen]

/-- The home's record of a committed move that is no hand-back (R54). -/
theorem committedRec_decode {src dest : Nat} (hstate : h.r.state = .decode) (hback : s.handbackCopy h.r.id dest = none) :
    s.committedRec h src dest = { h with r := { h.r with owner := dest, epoch := h.r.epoch + 1, moveDest := dest, movePhase := 1 } } := by
  simp [State.committedRec, hback, hstate]

/-- The home records a commit that nothing of Table 2.5 refuses (R54). -/
theorem commitReq_commits {dest : Nat} (hhome : s.isHome id = true) (hh : s.home? id = some h) (hok : h.checkOk = true)
    (hcommitting : s.committing h.r.owner id dest = false) (hpending : s.pendingChange id = false)
    (hcancel : h.r.cancelSeen = false) (hepoch : h.r.epoch + 1 < 2 ^ 32) (hstate : h.r.state = .decode)
    (hback : s.handbackCopy id dest = none) : s.commitReq h.r.owner id h.r.epoch dest
      = s.change { h with r := { h.r with owner := dest, epoch := h.r.epoch + 1, moveDest := dest, movePhase := 1 } }
          (.move h.r.owner dest) := by
  rw [← home_id hh] at hback
  simp [State.commitReq, hhome, hh, hcommitting, hpending, hok, hcancel, epochFull_eq_false hepoch,
    committedRec_decode hstate hback]

/-- Settles O8: each command is met by a sound copy at no lower epoch, so it does what its rule says and nothing before it. That
MV_ABORT goes to a destination reachable until the expiry, which then makes it unreachable, is the model's choice (log entry 65). -/
theorem moves : Obligations.Moves := by
  unfold Obligations.Moves
  refine ⟨?start, ?prepare, ?pulled, ?pullFailed, ?prepared, ?preparedUnknown, ?refused, ?commitReq, ?entered, ?left, ?aborted,
    ?abort, ?released, ?prepareTimeout, ?sourceTimeout, ?destTimeout, ?retry⟩
  case start =>
    intro s id dest o w hw hretry howned hok hphase hpages hrebuilds hstep hring hnotes hmove hrecall hthrough hpause hmig
      hstate hpend horigin hburin
    change execMoveStart id s = _
    simp only [execMoveStart, checkCopy_sound hw hok, hw, hretry, disposal_decode hstate hphase, Bool.false_eq_true, if_false]
    exact congrArg Host.Outcome.next (beginMove_pending (s := s.putWork w) howned hstep hring hnotes hmove hrecall hthrough
      hpause hmig hpages hrebuilds hstate hpend horigin hburin)
  case prepare =>
    intro s s' src m mo hadmit hnext hpages hmodel
    change execMvPrepare src m s = _
    simp [execMvPrepare, hadmit, hnext, hpages, hmodel, State.installRefs]
  case pulled =>
    intro s id w hw hok hstatus hpulls
    change execPullComplete id s = _
    simp [execPullComplete, checkCopy_sound hw hok, hw, hstatus, hpulls]
  case pullFailed =>
    intro s id tag st w hw hok hstatus htag hst
    change execPullReadFailed id tag st s = _
    simp [execPullReadFailed, checkCopy_sound hw hok, hw, hstatus, htag, hst]
  case prepared =>
    intro s src id w mv hw hmove hdest hok hphase
    change execMvPrepared src id w.r.epoch s = _
    simp only [execMvPrepared]
    rw [meet_not_lower (s := s.takeMsg src (.mvPrepared id w.r.epoch)) hw hok le_rfl]
    subst hdest
    simp [hw, Option.filter_some, moveTo_of_phase hmove hphase]
    rfl
  case preparedUnknown =>
    intro s src id epoch hw
    change execMvPrepared src id epoch s = _
    simp only [execMvPrepared]
    rw [meet_none (s := s.takeMsg src (.mvPrepared id epoch)) hw]
    simp [hw]
  case refused =>
    intro s src id st w mv hw hmove hdest hok hphase
    change execMvRefused src id w.r.epoch st s = _
    simp only [execMvRefused]
    rw [meet_not_lower (s := s.takeMsg src (.mvRefused id w.r.epoch st)) hw hok le_rfl]
    subst hdest
    simp [hw, Option.filter_some, moveTo_of_phase hmove hphase]
    rfl
  case commitReq =>
    intro s src id dest h hishome hh howner hok hcommitting hpending hcancel hepoch hstate hback
    change execMvCommitReq src id h.r.epoch dest s = _
    subst howner
    exact congrArg (fun t => Host.Outcome.next (t.heldResume id)) (commitReq_commits
      (s := s.takeMsg h.r.owner (.mvCommitReq id h.r.epoch dest)) hishome hh hok hcommitting hpending hcancel hepoch hstate
      hback)
  case entered =>
    intro s src id w hw hok hstatus
    change execMvCommitted src id (w.r.epoch + 1) s.node s = _
    simp only [execMvCommitted]
    rw [checkCopy_sound (s := s.takeMsg src (.mvCommitted id (w.r.epoch + 1) s.node)) hw hok]
    simp [hw, hstatus]
  case left =>
    intro s src id owner w hw hok hstatus hmove howner
    change execMvCommitted src id (w.r.epoch + 1) owner s = _
    simp only [execMvCommitted]
    rw [checkCopy_sound (s := s.takeMsg src (.mvCommitted id (w.r.epoch + 1) owner)) hw hok]
    simp [hw, hstatus, hmove, howner]
  case aborted =>
    intro s src id w mv hw hok hmove
    change execMvAborted src id w.r.epoch .epochStale s = _
    simp only [execMvAborted]
    rw [meet_not_lower (s := s.takeMsg src (.mvAborted id w.r.epoch .epochStale)) hw hok le_rfl]
    simp [hw, hmove, Option.filter_some]
  case abort =>
    intro s src id w hw hok hstatus
    change execMvAbort src id w.r.epoch s = _
    simp only [execMvAbort]
    rw [meet_not_lower (s := s.takeMsg src (.mvAbort id w.r.epoch)) hw hok le_rfl]
    simp [hw, hstatus]
  case released =>
    intro s src id h hh hok hphase hsrc
    change execMvReleased src id h.r.epoch s = _
    simp [execMvReleased, hh, hok, hphase, hsrc, State.clearMovePhase]
  case prepareTimeout =>
    intro s id w mv hw hmove hphase hok hreach
    change execPrepareTimeout id s = _
    simp [execPrepareTimeout, checkCopy_sound hw hok, hw, hmove, hphase, hreach]
  case sourceTimeout =>
    intro s id w mv hw hok hstatus hmove hphase
    change execMoveCommitTimeout id s = _
    simp [execMoveCommitTimeout, checkCopy_sound hw hok, hw, hmove, hphase, hstatus, State.query]
  case destTimeout =>
    intro s id w hw hok hstatus
    change execMoveCommitTimeout id s = _
    simp [execMoveCommitTimeout, checkCopy_sound hw hok, hw, hstatus, State.query]
  case retry =>
    intro s id w hw hok hretry
    change execHandbackRetryExpiry id s = _
    simp [execHandbackRetryExpiry, checkCopy_sound hw hok, hw, hretry]

end Sys2Proof.Machine
end

section
/-! SUPPORT. What sending leaves: a frame, a reply or a freed page changes no route, no incarnation and few register fields. -/


namespace Sys2Proof.Machine

/-! ### What sending leaves as it was -/

/-- A field that neither a frame sent nor a page freed writes: no port's count of bytes, no count of dropped frames of die 0, and not
PGE_CTRL.EVICTING. -/
def Fld.unsent (g : Fld) : Prop :=
  (∀ p, g.key ≠ (R.FAB_PORT_TX_BYTES p).key) ∧ g.key ≠ (R.FAB_DIE_STATS_HOP_DROPS 0).key
    ∧ g.key ≠ (R.FAB_DIE_STATS_NO_ROUTE_DROPS 0).key ∧ g.key ≠ R.PGE_CTRL_EVICTING.key

/-- `t` has the routes, the incarnation and the unsent register fields of `s`. -/
structure Sent (s t : State) : Prop where
  routes : t.fab.routes = s.fab.routes
  incarnation : t.fab.incarnation = s.fab.incarnation
  reg : ∀ g : Fld, g.unsent → t.reg g = s.reg g

variable {s t u : State}

theorem Sent.refl (s : State) : Sent s s := ⟨rfl, rfl, fun _ _ => rfl⟩

theorem Sent.trans (h : Sent s t) (h' : Sent t u) : Sent s u :=
  ⟨h'.routes.trans h.routes, h'.incarnation.trans h.incarnation, fun g hg => (h'.reg g hg).trans (h.reg g hg)⟩

theorem Sent.of_eq (hfab : t.fab = s.fab) (hregs : t.regs = s.regs) : Sent s t :=
  ⟨by rw [hfab], by rw [hfab], fun g _ => by simp only [State.reg, hregs]⟩

theorem Sent.foldl {α : Type} {f : State → α → State} (hf : ∀ s x, Sent s (f s x)) (l : List α) (s : State) :
    Sent s (l.foldl f s) := by
  induction l generalizing s with
  | nil => exact .refl s
  | cons x l ih => exact (hf s x).trans (ih _)

theorem sent_onFab {f : Fab → Fab} (hroutes : (f s.fab).routes = s.fab.routes)
    (hincarnation : (f s.fab).incarnation = s.fab.incarnation) : Sent s (s.onFab f) :=
  ⟨hroutes, hincarnation, fun _ _ => rfl⟩

theorem sent_count {f : Fld} (hf : ∀ g : Fld, g.unsent → g.key ≠ f.key) (n : Nat) : Sent s (s.count f n) := by
  refine ⟨?_, ?_, fun g hg => reg_count_ne s (hf g hg) n⟩ <;> rw [count_fab]

theorem sent_emit (o : Out) : Sent s (s.emit o) := .of_eq rfl rfl

variable (s)

theorem sent_putLink (l : Link) : Sent s (s.putLink l) := sent_onFab rfl rfl

theorem sent_putOut (c : OutChannel) : Sent s (s.putOut c) := sent_onFab rfl rfl

theorem sent_putIn (c : InChannel) : Sent s (s.putIn c) := sent_onFab rfl rfl

theorem sent_linkPut (l : Link) (f : Frame) : Sent s (s.linkPut l f) :=
  ((sent_putLink s _).trans (sent_count (fun _ hg => hg.1 _) _)).trans (sent_emit _)

theorem sent_linkSend (l : Link) (f : Frame) : Sent s (s.linkSend l f) := by
  unfold State.linkSend
  split
  · exact sent_putLink s _
  · exact sent_linkPut s l f

theorem sent_forward (f : Frame) : Sent s (s.forward f) := by
  have hnoRoute : Sent s (s.bump (R.FAB_DIE_STATS_NO_ROUTE_DROPS 0)) := sent_count (fun _ hg => hg.2.2.1) 1
  have hhop : Sent s (s.bump (R.FAB_DIE_STATS_HOP_DROPS 0)) := sent_count (fun _ hg => hg.2.1) 1
  have hlink : ∀ o : Option Link, Sent s (match o with
      | some l => s.linkSend l f
      | none => s.bump (R.FAB_DIE_STATS_NO_ROUTE_DROPS 0)) := by
    rintro (_ | l)
    · exact hnoRoute
    · exact sent_linkSend s l f
  unfold State.forward State.forwardAt
  split
  case isTrue => exact sent_onFab rfl rfl
  split
  case h_1 => exact hnoRoute
  split
  case h_2 => exact hlink _
  split
  case isTrue => exact hhop
  dsimp only
  split
  case isFalse => exact hlink _
  split
  · exact sent_linkSend s _ _
  · exact .refl s

theorem sent_sendNumbered (dst : Nat) (f : Frame) : Sent s (s.sendNumbered dst f) := by
  unfold State.sendNumbered
  dsimp only
  refine Sent.trans ?_ ((sent_putOut _ _).trans (sent_forward _ _))
  split
  · exact sent_putIn s _
  · exact .refl s

theorem sent_sendOrderedNow (dst : Nat) (f : Frame) : Sent s (s.sendOrderedNow dst f) := by
  unfold State.sendOrderedNow
  dsimp only
  split
  · exact sent_putOut s _
  · exact sent_sendNumbered s dst f

theorem sent_injectNow (f : Frame) : Sent s (s.injectNow f) := by
  unfold State.injectNow
  split
  · exact sent_sendOrderedNow s _ _
  · split
    · exact .refl s
    · refine Sent.trans ?_ (sent_forward _ _)
      split
      · exact .refl s
      · exact sent_putOut s _
  · exact sent_forward s f

theorem sent_shaperTake (k bits : Nat) : Sent s (s.shaperTake k bits) := by
  unfold State.shaperTake
  split
  · exact .refl s
  · exact .of_eq rfl rfl

theorem sent_inject (comp : Option Nat) (f : Frame) : Sent s (s.inject comp f) := by
  unfold State.inject
  split
  · exact sent_injectNow s _
  · split
    · exact .of_eq rfl rfl
    · exact (sent_shaperTake s _ _).trans (sent_injectNow _ _)

theorem sent_injectAll (comp : Option Nat) (fs : List Frame) : Sent s (s.injectAll comp fs) := by
  induction fs generalizing s with
  | nil => exact .refl s
  | cons f fs ih => exact (sent_inject s comp f).trans (ih _)

theorem sent_sendMsg (dst : Nat) (m : Msg) : Sent s (s.sendMsg dst m) := by
  unfold State.sendMsg State.sendMsgFor
  split
  · exact sent_onFab rfl rfl
  · split
    · exact .refl s
    · split
      · exact sent_onFab rfl rfl
      · exact Sent.trans (sent_onFab rfl rfl) (sent_injectAll _ _ _)

theorem sent_nakWith (src : Nat) (m : Msg) (st : St) : Sent s (s.nakWith src m st) := sent_inject s _ _

/-! ### Replies, freed pages and dropped records -/

/-- The parts a `Sent` state has as they were, where an operation touches neither. -/
def sentParts (p : Part) : Bool := decide (p = .fab ∨ p = .regs)

variable {s} in
theorem Sent.of_kept (h : Kept sentParts s t) : Sent s t := .of_eq (h.same (p := .fab) rfl) (h.same (p := .regs) rfl)

theorem sent_hostReply (ref : Nat) (st : St) (payload : List Byte) : Sent s (s.hostReply ref st payload) :=
  .of_kept (kept_hostReply (Kept.refl s) (by unfold Off; decide) ref st payload)

theorem sent_replyTo (r : ReplyTo) (st : St) (payload : List Byte) : Sent s (s.replyTo r st payload) := by
  unfold State.replyTo
  split
  · exact sent_hostReply s _ _ _
  · split
    · exact sent_hostReply s _ _ _
    · exact sent_sendMsg s _ _

theorem sent_setReg {f : Fld} (hf : ∀ g : Fld, g.unsent → g.key ≠ f.key) (v : Nat) : Sent s (s.setReg f v) :=
  ⟨rfl, rfl, fun g hg => reg_setReg_ne (hf g hg) s v⟩

theorem sent_watermark : Sent s s.watermark := by
  have hevicting : ∀ v, Sent s (s.setReg R.PGE_CTRL_EVICTING v) := sent_setReg s fun _ hg => hg.2.2.2
  unfold State.watermark
  dsimp only
  split
  · exact hevicting 1
  · split
    · exact hevicting 0
    · exact .refl s

theorem sent_refuseAsker (asker : Option (Nat × Nat)) : Sent s (s.refuseAsker asker) := by
  unfold State.refuseAsker
  split
  · exact sent_sendMsg s _ _
  · exact .refl s

theorem sent_onPge (f : Pge → Pge) : Sent s (s.onPge f) := .of_eq rfl rfl

theorem sent_putPage (p : Page) : Sent s (s.putPage p) := .of_eq rfl rfl

theorem sent_freePage (idx : Nat) : Sent s (s.freePage idx) := by
  unfold State.freePage
  split
  · exact .refl s
  next p _ =>
    have hended : Sent s (((s.invalidate idx).endMigration idx).refuseAsker ((s.migration? idx).bind (·.asker))) :=
      Sent.trans (t := (s.invalidate idx).endMigration idx) (.of_eq rfl rfl) (sent_refuseAsker _ _)
    dsimp only
    split
    · exact ((hended.trans (sent_onPge _ _)).trans (sent_putPage _ _)).trans (sent_watermark _)
    · exact ((hended.trans (sent_onPge _ _)).trans (sent_onPge _ _)).trans (sent_watermark _)

theorem sent_freePages (l : List Nat) : Sent s (s.freePages l) := by
  induction l generalizing s with
  | nil => exact .refl s
  | cons i l ih => exact (sent_freePage s i).trans (ih _)

theorem sent_dropHome (id : Nat) : Sent s (s.dropHome id) := (sent_freePages s _).trans (.of_eq rfl rfl)

end Sys2Proof.Machine
end

section
/-! SUPPORT. Starts (R351, R352): a cold start or a warm reset as its losses, with new registers, queue and boot stage. -/


namespace Sys2Proof.Machine

variable (s : State)

theorem setRegs_eq (l : List (Fld × Nat)) : s.setRegs l = { s with regs := (s.setRegs l).regs } := by
  induction l generalizing s with
  | nil => rfl
  | cons p l ih => exact (ih _).trans rfl

theorem resetRegs_eq (cold : Bool) : s.resetRegs cold = { s with regs := (s.resetRegs cold).regs } := setRegs_eq _ _

theorem requeue_eq : s.requeue = { s with sch := s.requeue.sch } := by
  have hqueued : ∀ (l : List Nat) (u : State), l.foldl State.enqueue u = { u with sch := (l.foldl State.enqueue u).sch } := by
    intro l
    induction l with
    | nil => exact fun _ => rfl
    | cons i l ih => exact fun u => (ih _).trans rfl
  exact hqueued _ s

theorem warmSlots_eq : s.warmSlots = { s with regs := s.warmSlots.regs } := by
  have hset : ∀ (l : List (Fld × Nat)) (u : State),
      l.foldl (fun s p => s.setReg p.1 p.2) u = { u with regs := (l.foldl (fun s p => s.setReg p.1 p.2) u).regs } := by
    intro l
    induction l with
    | nil => exact fun _ => rfl
    | cons i l ih => exact fun u => (ih _).trans rfl
  exact hset _ s

/-- The state a start begins from: before a warm reset the pending slots of codes 6 to 8 take effect, and SUBMITs the deputy has not
acknowledged are given up. -/
def State.startsFrom (k : ResetKind) : State := if decide (k = .cold) then s else s.warmSlots.dropSubmits

/-- A start on the state that the losses and the reset registers have left: counted, BOOTING, at its first stage. -/
def State.launch (k : ResetKind) : State :=
  let s := s.countStart k
  let seq := s.reg R.BLD_BOOT_START_COUNT % 2 ^ 24 * 2 ^ 40
  let s := (s.onBld fun b => { b with
    node := .booting
    off := false }).setRegs [(R.EVT_HEAD_NEXT_SEQ, seq), (R.EVT_OLDEST_OLDEST_SEQ, seq)]
  s.enterStage (if decide (k = .cold) then 1 else 2)

theorem launch_eq (k : ResetKind) : ∃ regs, s.launch k = { s with
    regs := regs
    bld := { s.bld with
      kind := k
      since := s.aon
      node := .booting
      off := false
      stage := if decide (k = .cold) then 1 else 2 } } := by
  have hcounted : ∃ regs, s.countStart k = { s with regs := regs, bld := { s.bld with kind := k, since := s.aon } } :=
    ⟨_, setRegs_eq _ _⟩
  obtain ⟨regs, hcounted⟩ := hcounted
  rw [State.launch, hcounted]
  dsimp only
  rw [setRegs_eq]
  exact ⟨_, rfl⟩

/-- What a start loses, with GENERATION and INCARNATION raised. -/
def State.lost (k : ResetKind) : State := ((s.startsFrom k).lose (decide (k = .cold))).newStart

theorem fullReset_launch (k : ResetKind) : s.fullReset k = ((s.lost k).requeue.resetRegs (decide (k = .cold))).launch k := rfl

/-- What a start leaves: what its losses have left, with new registers, Burin's queue and boot stage. -/
theorem fullReset_eq (k : ResetKind) : ∃ regs, s.fullReset k = { s.lost k with
    regs := regs
    sch := (s.lost k).requeue.sch
    bld := { (s.lost k).bld with
      kind := k
      since := (s.lost k).aon
      node := .booting
      off := false
      stage := if decide (k = .cold) then 1 else 2 } } := by
  rw [fullReset_launch, resetRegs_eq, requeue_eq]
  exact launch_eq _ k

end Sys2Proof.Machine
end

section
/-! SUPPORT. Starts (R351, R352): the state a start begins from, and what the parts and registers hold after it. -/


namespace Sys2Proof.Machine

variable {s : State}

/-! ### The state a start begins from -/

theorem warmSlots_setRegs (s : State) :
    ∃ l : List (Nat × Bool), s.warmSlots = s.setRegs (l.map fun x => (R.BLD_IMG_ACTIVE x.1, bit x.2)) := by
  have hfold : ∀ (l : List (Fld × Nat)) (u : State), l.foldl (fun s p => s.setReg p.1 p.2) u = u.setRegs l := by
    intro l
    induction l with
    | nil => exact fun _ => rfl
    | cons p l ih => exact fun u => ih _
  exact ⟨_, hfold _ s⟩

theorem sent_dropSubmits (s : State) : Sent s s.dropSubmits := .foldl (fun t (p : MirrorPend) => sent_dropHome t p.id) _ s

theorem dropHome_rse (s : State) (id : Nat) : (s.dropHome id).rse = { s.rse with homes := s.rse.homes.filter (·.r.id != id) } := by
  have hrse : (s.freeHistory id).rse = s.rse :=
    (kept_freePages (κ := onlyPart .rse) (Kept.refl s) (off_onlyPart (by decide)) _).same (p := .rse) rfl
  rw [State.dropHome, State.onRse, hrse]

theorem dropSubmits_generation (s : State) : s.dropSubmits.rse.generation = s.rse.generation := by
  have hdrop : ∀ (l : List MirrorPend) (u : State),
      (l.foldl (fun s p => s.dropHome p.id) u).rse.generation = u.rse.generation := by
    intro l
    induction l with
    | nil => exact fun _ => rfl
    | cons p l ih => exact fun u => (ih _).trans (by rw [dropHome_rse])
  exact hdrop _ s

theorem dropSubmits_of_no_mirrorOut (h : s.rse.mirrorOut = []) : s.dropSubmits = s := by
  rw [State.dropSubmits, h]
  rfl

theorem startsFrom_warm (s : State) : s.startsFrom .warm = s.warmSlots.dropSubmits := rfl

/-- With no change waiting for the deputy, a warm reset begins from the state itself but for the active slots. -/
theorem startsFrom_quiet (k : ResetKind) (h : s.rse.mirrorOut = []) : ∃ regs, s.startsFrom k = { s with regs := regs } := by
  unfold State.startsFrom
  split
  · exact ⟨_, rfl⟩
  · rw [warmSlots_eq]
    exact ⟨_, dropSubmits_of_no_mirrorOut h⟩

theorem kept_startsFrom {κ : Part → Bool} (hκ : Off κ [.regs, .rse, .pge, .fab, .hcp, .out]) (k : ResetKind) :
    Kept κ s (s.startsFrom k) := by
  unfold State.startsFrom
  split
  · exact Kept.refl s
  · exact kept_dropSubmits (kept_warmSlots (Kept.refl s) (hκ.sub (by decide))) hκ

theorem startsFrom_bld (k : ResetKind) : (s.startsFrom k).bld = s.bld :=
  (kept_startsFrom (κ := onlyPart .bld) (off_onlyPart (by decide)) k).same (p := .bld) rfl

theorem startsFrom_sec (k : ResetKind) : (s.startsFrom k).sec = s.sec :=
  (kept_startsFrom (κ := onlyPart .sec) (off_onlyPart (by decide)) k).same (p := .sec) rfl

theorem startsFrom_canonical (k : ResetKind) (h : s.canonical) : (s.startsFrom k).canonical :=
  (kept_startsFrom (κ := fun _ => false) (fun _ _ => rfl) k).2.2.2.1 h

theorem startsFrom_incarnation (k : ResetKind) : (s.startsFrom k).fab.incarnation = s.fab.incarnation := by
  unfold State.startsFrom
  split
  · rfl
  · rw [(sent_dropSubmits _).incarnation, warmSlots_eq]

theorem startsFrom_generation (k : ResetKind) : (s.startsFrom k).rse.generation = s.rse.generation := by
  unfold State.startsFrom
  split
  · rfl
  · rw [dropSubmits_generation, warmSlots_eq]

/-- START_COUNT is no field that sending writes. -/
theorem startCount_unsent : R.BLD_BOOT_START_COUNT.unsent := by
  refine ⟨fun p h => ?_, by decide, by decide, by decide⟩
  simp only [Fld.key, R.BLD_BOOT_START_COUNT, R.FAB_PORT_TX_BYTES] at h
  omega

theorem startsFrom_startCount (k : ResetKind) :
    (s.startsFrom k).reg R.BLD_BOOT_START_COUNT = s.reg R.BLD_BOOT_START_COUNT := by
  unfold State.startsFrom
  split
  · rfl
  · obtain ⟨l, hl⟩ := warmSlots_setRegs s
    rw [(sent_dropSubmits _).reg _ startCount_unsent, hl]
    refine reg_setRegs_of_notMem (fun p hp => ?_) s
    obtain ⟨x, -, rfl⟩ := List.mem_map.1 hp
    intro h
    simp only [Fld.key, R.BLD_BOOT_START_COUNT, R.BLD_IMG_ACTIVE] at h
    omega

/-! ### What is lost -/

theorem lost_generation (k : ResetKind) : (s.lost k).rse.generation = (s.rse.generation + 1) % 65536 := by
  rw [← startsFrom_generation (s := s) k]
  cases k <;> rfl

theorem lost_incarnation (k : ResetKind) : (s.lost k).fab.incarnation = (s.fab.incarnation + 1) % 256 := by
  rw [← startsFrom_incarnation (s := s) k]
  rfl

/-! ### The registers after a start -/

theorem lookupD_of_lt {d key : Nat} {l : List (Nat × Nat)} (h : ∀ y ∈ l, key < y.1) : lookupD d l key = d := by
  cases l with
  | nil => rfl
  | cons x l =>
    have hx : key < x.1 := h x (by simp)
    simp [lookupD, hx, hx.ne]

theorem lookupD_filter {d key : Nat} {q : Nat → Bool} {l : List (Nat × Nat)} (hl : keysRise l = true) :
    lookupD d (l.filter fun p => q p.1) key = if q key then lookupD d l key else d := by
  induction l with
  | nil => simp [lookupD]
  | cons x l ih =>
    obtain ⟨hlt, hl⟩ := (keysRise_cons x l).1 hl
    have hbelow : key < x.1 → lookupD d (l.filter fun p => q p.1) key = d := fun hk =>
      lookupD_of_lt fun y hy => hk.trans (hlt y (List.mem_of_mem_filter hy))
    by_cases hqx : q x.1
    · rw [List.filter_cons_of_pos (by simpa using hqx)]
      simp only [lookupD]
      rcases lt_trichotomy key x.1 with hk | hk | hk
      · simp [hk, hk.ne]
      · simp [hk, hqx]
      · simp [hk.ne', hk.not_gt, ih hl]
    · rw [List.filter_cons_of_neg (by simpa using hqx)]
      simp only [lookupD]
      rcases lt_trichotomy key x.1 with hk | hk | hk
      · simp [hk, hk.ne, hbelow hk]
      · subst hk
        simp [ih hl, hqx]
      · simp [hk.ne', hk.not_gt, ih hl]

theorem reg_resetRegs_small (cold : Bool) {g : Fld} (hs : s.canonical) (hg : ∀ p ∈ smallRegs, g.key ≠ p.1.key) :
    (s.resetRegs cold).reg g = if restored cold g.key then s.reg g else g.rst := by
  have hset : ∀ p ∈ if s.small then smallRegs else [], g.key ≠ p.1.key := by
    split
    · exact hg
    · simp
  exact (reg_setRegs_of_notMem hset _).trans (lookupD_filter hs.1)

theorem reg_resetRegs (cold : Bool) {g : Fld} (hs : s.canonical) (hsmall : s.small = false) :
    (s.resetRegs cold).reg g = if restored cold g.key then s.reg g else g.rst := by
  rw [State.resetRegs, hsmall]
  exact lookupD_filter hs.1

theorem reg_launch (k : ResetKind) {g : Fld} (hg : g.reg < 0x500000) (hlo : g.lo < 64) : (s.launch k).reg g = s.reg g := by
  have hne : ∀ f : Fld, 0x500000 ≤ f.reg → g.key ≠ f.key := by
    intro f hf h
    simp only [Fld.key] at h
    omega
  have hpair : ∀ {f f' : Fld} {v v' : Nat} (u : State), 0x500000 ≤ f.reg → 0x500000 ≤ f'.reg →
      (u.setRegs [(f, v), (f', v')]).reg g = u.reg g := fun u hf hf' =>
    (reg_setReg_ne (hne _ hf') _ _).trans (reg_setReg_ne (hne _ hf) u _)
  unfold State.launch State.enterStage
  dsimp only
  rw [reg_setReg_ne (hne _ (by decide))]
  refine (hpair _ (by decide) (by decide)).trans ?_
  exact hpair (s.onBld fun b => { b with kind := k, since := s.aon }) (by decide) (by decide)

theorem lost_canonical (k : ResetKind) (h : s.canonical) : (s.lost k).canonical := by
  have hfrom := startsFrom_canonical k h
  obtain ⟨hregs, hhbm, -, -, -⟩ := hfrom
  refine ⟨hregs, ?_, rfl, rfl, rfl⟩
  cases k with
  | cold => rfl
  | warm => exact hhbm
  | compute => exact hhbm
  | scrub => exact hhbm

theorem launch_startCount (s : State) (k : ResetKind) :
    (s.launch k).reg R.BLD_BOOT_START_COUNT = (s.reg R.BLD_BOOT_START_COUNT + 1) % 2 ^ 32 := by
  unfold State.launch State.enterStage
  dsimp only
  rw [reg_setReg_ne (by decide)]
  refine (reg_setRegs_of_notMem (by simp; decide) (((s.countStart k).onBld _))).trans ?_
  exact (reg_setReg_ne (by decide) _ _).trans (reg_setReg_self _ _ _)

theorem launch_lastReset (s : State) (k : ResetKind) : (s.launch k).reg R.BLD_BOOT_LAST_RESET = k.code := by
  have hcode : k.code % 2 ^ R.BLD_BOOT_LAST_RESET.width = k.code := by cases k <;> rfl
  unfold State.launch State.enterStage
  dsimp only
  rw [reg_setReg_ne (by decide)]
  refine (reg_setRegs_of_notMem (by simp; decide) (((s.countStart k).onBld _))).trans ?_
  exact (reg_setReg_self _ _ _).trans hcode

theorem requeue_reg (s : State) (g : Fld) : s.requeue.reg g = s.reg g := by
  rw [requeue_eq]
  rfl

theorem requeue_canonical (h : s.canonical) : s.requeue.canonical := by
  rw [requeue_eq]
  exact h

theorem fullReset_startCount (k : ResetKind) (h : s.canonical) :
    (s.fullReset k).reg R.BLD_BOOT_START_COUNT = (s.reg R.BLD_BOOT_START_COUNT + 1) % 2 ^ 32 := by
  have hcount : (s.lost k).reg R.BLD_BOOT_START_COUNT = s.reg R.BLD_BOOT_START_COUNT := startsFrom_startCount k
  rw [fullReset_launch, launch_startCount, reg_resetRegs_small _ (requeue_canonical (lost_canonical k h)) (by decide),
    if_pos (by cases k <;> decide), requeue_reg, hcount]

theorem fullReset_lastReset (k : ResetKind) : (s.fullReset k).reg R.BLD_BOOT_LAST_RESET = k.code := launch_lastReset _ k

theorem lost_cold_reg (s : State) (g : Fld) : (s.lost .cold).reg g = s.reg g := rfl

/-- A field below the boot registers after a cold start (R352). -/
theorem fullReset_cold_reg {f : Fld} (h : s.canonical) (hsmall : s.small = false) (hf : f.reg < 0x500000) (hlo : f.lo < 64) :
    (s.fullReset .cold).reg f = if restored true f.key then s.reg f else f.rst := by
  have hkept : (s.lost .cold).requeue.small = false := by
    rw [requeue_eq]
    exact hsmall
  rw [fullReset_launch, reg_launch _ hf hlo]
  exact (reg_resetRegs true (requeue_canonical (lost_canonical _ h)) hkept).trans (by rw [requeue_reg, lost_cold_reg])

/-! ### The parts after a start -/

/-- With no change waiting for the deputy, each home record stays, with no offer out and no RESUME held. -/
theorem warm_homes (e : Rse) (node : Nat) (h : e.mirrorOut = []) :
    (e.warm node).homes = e.homes.map fun h => { h with placing := none, heldResume := none } := by
  simp [Rse.warm, HomeRec.warm, h]

theorem lost_warm_rse (s : State) :
    (s.lost .warm).rse = ((s.startsFrom .warm).rse.warm (s.startsFrom .warm).node).newGeneration := rfl

theorem lost_warm_homes (h : s.rse.mirrorOut = []) :
    (s.lost .warm).rse.homes = s.rse.homes.map fun h => { h with placing := none, heldResume := none } := by
  obtain ⟨regs, hfrom⟩ := startsFrom_quiet .warm h
  have hrse : (s.startsFrom .warm).rse = s.rse := by rw [hfrom]
  rw [lost_warm_rse, hrse]
  exact warm_homes s.rse (s.startsFrom .warm).node h

/-- The record of a SUBMIT the deputy has not acknowledged is gone (R35). -/
theorem lost_warm_submit {h : HomeRec} {p : MirrorPend} {rep : ReplyTo} (hout : s.rse.mirrorOut = [p]) (hhomes : s.rse.homes = [h])
    (hid : p.id = h.r.id) (hchange : p.change = .submit rep) : (s.lost .warm).rse.homes = [] := by
  have hrse : s.warmSlots.rse = s.rse := by rw [warmSlots_eq]
  have hfrom : s.startsFrom .warm = s.warmSlots.dropHome p.id := by
    rw [startsFrom_warm, State.dropSubmits, hrse, hout]
    simp [hchange]
  rw [lost_warm_rse, hfrom, dropHome_rse, hrse, hhomes]
  simp [Rse.warm, Rse.newGeneration, hid]

theorem requeue_sch_of_not_queued (h : ∀ x ∈ s.rse.homes, x.r.state ≠ .queued) : s.requeue.sch = s.sch := by
  rw [State.requeue, List.filter_eq_nil_iff.2 (by simpa using h)]
  rfl

theorem requeue_sch_of_queued {h : HomeRec} (hhomes : s.rse.homes = [h]) (hqueued : h.r.state = .queued) :
    s.requeue.sch = (s.enqueue h.r.id).sch := by
  simp [State.requeue, hhomes, hqueued]

theorem fullReset_parts (k : ResetKind) : (s.fullReset k).bld.defects = s.bld.defects ∧ (s.fullReset k).bld.slots = s.bld.slots
    ∧ (s.fullReset k).sec.approvers = s.sec.approvers ∧ (s.fullReset k).sec.sealedKey = s.sec.sealedKey
    ∧ (s.fullReset k).sec.helper = s.sec.helper ∧ (s.fullReset k).bld.licences.length = s.bld.licences.length
    ∧ (s.fullReset k).bld.sessions = [] ∧ (s.fullReset k).hcp.qps = [] ∧ (s.fullReset k).hcp.cache = []
    ∧ (s.fullReset k).phs = .reset := by
  obtain ⟨regs, hreset⟩ := fullReset_eq s k
  rw [hreset, ← startsFrom_bld (s := s) k, ← startsFrom_sec (s := s) k]
  exact ⟨rfl, rfl, rfl, rfl, rfl, List.length_map _, rfl, rfl, rfl, rfl⟩

end Sys2Proof.Machine
end

section
/-! SUPPORT. Compute-only resets (R353): what the steps of one leave as it was. -/


namespace Sys2Proof.Machine

/-! ### What a compute-only reset leaves as it was -/

/-- `t` has the fabric's routes and incarnation, the node's state and the directory's generation of `s`, and no context where `s` has
none. -/
structure Settled (s t : State) : Prop where
  routes : t.fab.routes = s.fab.routes
  incarnation : t.fab.incarnation = s.fab.incarnation
  node : t.bld.node = s.bld.node
  generation : t.rse.generation = s.rse.generation
  contexts : s.sch.ctxs = [] → t.sch.ctxs = []

/-- `t` is settled, with the links of `s` where nothing of `s` waits to be taken in or answered. -/
structure Calm (s t : State) : Prop extends Settled s t where
  quiet : s.fab.accepted = [] → s.mzt.queue = [] →
    t.fab.accepted = [] ∧ t.mzt.queue = [] ∧ t.fab.links = s.fab.links

variable {s t u : State}

theorem Settled.refl (s : State) : Settled s s := ⟨rfl, rfl, rfl, rfl, id⟩

theorem Settled.trans (h : Settled s t) (h' : Settled t u) : Settled s u :=
  ⟨h'.routes.trans h.routes, h'.incarnation.trans h.incarnation, h'.node.trans h.node, h'.generation.trans h.generation,
    fun hc => h'.contexts (h.contexts hc)⟩

theorem Settled.transitOnly (h : Settled s t) (hs : s.transitOnly = true) : t.transitOnly = true := by
  rw [State.transitOnly, h.node]
  exact hs

theorem Calm.refl (s : State) : Calm s s := ⟨.refl s, fun ha hq => ⟨ha, hq, rfl⟩⟩

theorem Calm.trans (h : Calm s t) (h' : Calm t u) : Calm s u := by
  refine ⟨h.toSettled.trans h'.toSettled, fun ha hq => ?_⟩
  obtain ⟨hta, htq, htl⟩ := h.quiet ha hq
  obtain ⟨hua, huq, hul⟩ := h'.quiet hta htq
  exact ⟨hua, huq, hul.trans htl⟩

/-- The parts a calm step keeps. -/
def calmParts (p : Part) : Bool := decide (p = .fab ∨ p = .bld ∨ p = .rse ∨ p = .sch ∨ p = .mzt)

theorem Calm.of_kept (h : Kept calmParts s t) : Calm s t := by
  have hfab : t.fab = s.fab := h.same (p := .fab) rfl
  have hbld : t.bld = s.bld := h.same (p := .bld) rfl
  have hrse : t.rse = s.rse := h.same (p := .rse) rfl
  have hsch : t.sch = s.sch := h.same (p := .sch) rfl
  have hmzt : t.mzt = s.mzt := h.same (p := .mzt) rfl
  refine ⟨⟨?_, ?_, ?_, ?_, ?_⟩, ?_⟩ <;> simp +contextual [hfab, hbld, hrse, hsch, hmzt]

/-- What a step keeps that only sends. -/
def sendParts (p : Part) : Bool := decide (p = .bld ∨ p = .rse ∨ p = .sch)

theorem Settled.of_sent (h : Sent s t) (hk : Kept sendParts s t) : Settled s t := by
  have hbld : t.bld = s.bld := hk.same (p := .bld) rfl
  have hrse : t.rse = s.rse := hk.same (p := .rse) rfl
  have hsch : t.sch = s.sch := hk.same (p := .sch) rfl
  exact ⟨h.routes, h.incarnation, by rw [hbld], by rw [hrse], by simp [hsch]⟩

/-- A step that sends is calm where something waits to be taken in or answered. -/
theorem Settled.calm (h : Settled s t) (hw : s.fab.accepted = [] → s.mzt.queue ≠ []) : Calm s t :=
  ⟨h, fun ha hq => absurd hq (hw ha)⟩

/-- A fold of steps that are calm under a condition that calm steps keep. -/
theorem Calm.foldl {α : Type} {f : State → α → State} {I : State → Prop} (hI : ∀ {s t}, Calm s t → I s → I t)
    (hf : ∀ s x, I s → Calm s (f s x)) (l : List α) (hs : I s) : Calm s (l.foldl f s) := by
  induction l generalizing s with
  | nil => exact .refl s
  | cons x l ih =>
    have hx : Calm s (f s x) := hf s x hs
    exact hx.trans (ih (hI hx hs))

/-- The node is in a compute-only reset and has no context left. -/
def State.stilled (s : State) : Prop := s.transitOnly = true ∧ s.sch.ctxs = []

theorem Calm.stilled (h : Calm s t) (hs : s.stilled) : t.stilled := ⟨h.transitOnly hs.1, h.contexts hs.2⟩

/-- An event that is not of the fabric class goes to no manager, so posting it leaves the fabric alone. -/
theorem kept_post_unsent {κ : Part → Bool} (hκ : Off κ [.regs, .hcp, .evt, .out]) {e : Ev} (he : e.cls ≠ 2) (s : State) (ctx : Nat)
    (a : Nat × Nat) : Kept κ s (s.post e ctx a) := by
  unfold State.post
  rw [if_neg he]
  exact kept_postOverwritten (kept_ringPost (Kept.refl s) hκ _ _) hκ

theorem calm_post {e : Ev} (he : e.cls ≠ 2) (s : State) (ctx : Nat) (a : Nat × Nat) : Calm s (s.post e ctx a) :=
  .of_kept (kept_post_unsent (by unfold Off; decide) he s ctx a)

theorem calm_setReg (s : State) (f : Fld) (v : Nat) : Calm s (s.setReg f v) :=
  .of_kept (kept_setReg (Kept.refl s) (by unfold Off; decide) f v)

/-! ### Frames taken in during a compute-only reset (R268) -/

theorem settled_respond (s : State) (f : Frame) (b : Body) (poison : Bool) : Settled s (s.respond f b poison) := by
  refine .of_sent ?_ (kept_respond (Kept.refl s) (by unfold Off; decide) f b poison)
  unfold State.respond
  dsimp only
  split
  · exact sent_onFab rfl rfl
  · exact sent_inject s _ _

theorem settled_takeOrdered (s : State) (f : Frame) : Settled s (s.takeOrdered f) := ⟨rfl, rfl, rfl, rfl, id⟩

theorem settled_setHeld (s : State) (src : Nat) (b : Bool) : Settled s (s.setHeld src b) := ⟨rfl, rfl, rfl, rfl, id⟩

theorem settled_takeIn (h : s.transitOnly = true) (f : Frame) (m : Msg) : Settled s (s.takeIn f m) := by
  rw [State.takeIn, if_pos h]
  exact .of_sent (sent_nakWith s _ _ _) (kept_nakMsg (Kept.refl s) (by unfold Off; decide) f.src m)

theorem settled_applySignal (h : s.transitOnly = true) (f : Frame) : Settled s (s.applySignal f) := by
  have hrefused : ∀ (o : OpHdr) (b : Body),
      Settled s (((s.regionLooked f.src o).countRefusal (some .nodeResetting)).respond f b false) := fun o b =>
    (Calm.of_kept (kept_countRefusal (kept_regionLooked (Kept.refl s) (by unfold Off; decide) f.src o) (by unfold Off; decide)
      _)).toSettled.trans (settled_respond _ f b false)
  have hcheck : ∀ o : OpHdr, s.targetCheck f.src f.dev o .atomic = some .nodeResetting := by simp [State.targetCheck, h]
  unfold State.applySignal
  split
  · simp only [hcheck, Option.orElse_some]
    exact hrefused _ _
  · simp only [hcheck, Option.orElse_some]
    exact hrefused _ _
  · exact .refl s

theorem settled_flowing (h : s.transitOnly = true) (src n : Nat) : Settled s (s.flowing src n) := by
  induction n generalizing s with
  | zero => exact .refl s
  | succ n ih =>
    have hgoes : ∀ {t : State}, Settled s t → Settled s (t.flowing src n) := fun ht => ht.trans (ih (ht.transitOnly h))
    have htaken : ∀ {t : State} (f : Frame), Settled s t → Settled s (t.takeOrdered f) := fun f ht =>
      ht.trans (settled_takeOrdered _ f)
    have hsignal : ∀ f, Settled s (if !s.holding src && src != s.node then s else if s.blocked f then s.setHeld src true
        else (((s.setHeld src false).takeOrdered f).applySignal f).flowing src n) := by
      intro f
      have ht := htaken f (settled_setHeld s src false)
      split
      · exact .refl s
      · split
        · exact settled_setHeld s src true
        · exact hgoes (ht.trans (settled_applySignal (ht.transitOnly h) f))
    unfold State.flowing
    split
    · exact .refl s
    next f _ =>
      split
      · have ht := htaken f (.refl s)
        exact hgoes (ht.trans (settled_takeIn (ht.transitOnly h) f _))
      · exact hgoes (htaken f (.refl s))
      · exact hsignal f
      · exact hsignal f
      · exact .refl s

theorem calm_flow (h : s.transitOnly = true) (src : Nat) : Calm s (s.flow src) := by
  by_cases ha : s.fab.accepted = []
  · rw [State.flow, ha]
    exact .refl s
  · exact (settled_flowing h src _).calm fun hn => absurd hn ha

theorem calm_flowAll (h : s.transitOnly = true) (srcs : List Nat) : Calm s (s.flowAll srcs) :=
  .foldl (I := fun s => s.transitOnly = true) (fun ht => ht.transitOnly) (fun _ src hs => calm_flow hs src) srcs h

theorem calm_account (h : s.transitOnly = true) (src n : Nat) : Calm s (s.account src n) := by
  have hin : Calm s (s.putIn { s.inCh src with accounted := ((s.inCh src).accounted + n) % 2 ^ 40 }) :=
    ⟨⟨rfl, rfl, rfl, rfl, id⟩, fun ha hq => ⟨ha, hq, rfl⟩⟩
  exact hin.trans (calm_flow (hin.transitOnly h) src)

/-! ### Requests ended with no context left (R274) -/

theorem calm_endFlush (s : State) (q : Nat) : Calm s (s.endFlush q) :=
  .of_kept (kept_endFlush (Kept.refl s) (by unfold Off; decide) q)

theorem reduceFault_of_no_context (h : s.sch.ctxs = []) (c : Nat) (st : St) : s.reduceFault c st = s := by
  simp [State.reduceFault, State.ctx?, h]

theorem calm_queueError (s : State) (q idx : Nat) (st : St) : Calm s (s.queueError q idx st) := by
  unfold State.queueError
  dsimp only
  refine Calm.trans ?_ (calm_post (by decide) _ _ _)
  split
  · exact .refl s
  · exact .of_kept (kept_setRegs (Kept.refl s) (by unfold Off; decide) _)

theorem calm_completeReq (h : s.sch.ctxs = []) (r : XReq) {st : St} (hst : st ≠ .ok) : Calm s (s.completeReq r st) := by
  have hoff : ∀ {l : List Part}, l ⊆ [.mem, .regs, .xfr] → Off calmParts l := fun hl =>
    Off.sub (l := [.mem, .regs, .xfr]) (by unfold Off; decide) hl
  unfold State.completeReq
  simp only [hst, decide_false, Bool.false_and, Bool.false_eq_true, and_false, if_false, ne_eq, not_false_eq_true, and_true]
  have hfailed : ∀ {u : State}, Calm s u → Calm s ((if r.wr.op = 0x10 then
      u.reduceFault (u.reg (R.XFR_Q_A_CONTEXT r.q)) st else u).endFlush r.q) := by
    intro u hu
    rw [reduceFault_of_no_context (hu.contexts h), ite_self]
    exact hu.trans (calm_endFlush u r.q)
  refine hfailed (Calm.trans ?_ (calm_queueError _ _ _ _))
  refine .of_kept ?_
  refine kept_bump (kept_setReg (kept_putXq (kept_bump (kept_writeDone (kept_onXfr (Kept.refl s) ?_ _) ?_ _ _ _) ?_ _) ?_ _) ?_ _ _) ?_ _
  all_goals exact hoff (by decide)

theorem calm_putXq (s : State) (x : XQueue) : Calm s (s.putXq x) := .of_kept (kept_putXq (Kept.refl s) (by unfold Off; decide) x)

theorem calm_dropWaiting (h : s.sch.ctxs = []) (q : Nat) {st : St} (hst : st ≠ .ok) (n : Nat) : Calm s (s.dropWaiting q st n) := by
  induction n generalizing s with
  | zero => exact .refl s
  | succ n ih =>
    unfold State.dropWaiting
    dsimp only
    split
    · have hput := calm_putXq s { s.xq q with next := (s.xq q).next + 1 }
      have hdone := hput.trans (calm_completeReq (hput.contexts h) ⟨q, (s.xq q).next, s.workAt q (s.xq q).next, .copy, true⟩ hst)
      exact hdone.trans (ih (hdone.contexts h))
    · exact .refl s

theorem calm_flushQueue (h : s.sch.ctxs = []) (q : Nat) : Calm s (s.flushQueue q) :=
  ((calm_dropWaiting h q (by decide) _).trans (calm_setReg _ _ _)).trans (calm_endFlush _ q)

theorem calm_flushDeviceQueue (h : s.sch.ctxs = []) (q : Nat) : Calm s (s.flushDeviceQueue q) :=
  (calm_dropWaiting h q (by decide) _).trans (calm_setReg _ _ _)

theorem calm_onXfr (s : State) (f : Xfr → Xfr) : Calm s (s.onXfr f) := ⟨⟨rfl, rfl, rfl, rfl, id⟩, fun ha hq => ⟨ha, hq, rfl⟩⟩

theorem calm_bump (s : State) (f : Fld) : Calm s (s.bump f) := .of_kept (kept_bump (Kept.refl s) (by unfold Off; decide) f)

theorem calm_dropFlight (h : s.transitOnly = true) (r : XReq) : Calm s (s.dropFlight r) := by
  have hended : ∀ {u : State} (c : Nat) (x : XQueue), Calm s u → Calm s (((((u.putXq x).setReg (R.XFR_Q_C_COMPLETED r.q) c).bump
      R.XFR_SRC_STATS_COMPLETED).bump R.XFR_SRC_STATS_FAILED).endFlush r.q) := fun c x hu =>
    ((((hu.trans (calm_putXq _ x)).trans (calm_setReg _ _ c)).trans (calm_bump _ _)).trans (calm_bump _ _)).trans
      (calm_endFlush _ r.q)
  have hdone : Calm s ((s.onXfr fun t => { t with
      flights := t.flights.filter fun x => !(x.q == r.q && x.idx == r.idx) }).writeDone r.q r.idx .nodeResetting) :=
    (calm_onXfr s _).trans (.of_kept (kept_writeDone (Kept.refl _) (by unfold Off; decide) _ _ _))
  unfold State.dropFlight
  refine hended _ _ ?_
  split
  · exact hdone.trans (calm_onXfr _ _)
  · split
    · exact hdone.trans (calm_account (hdone.transitOnly h) _ _)
    · exact hdone
  · exact hdone

theorem calm_resetXfr (h : s.stilled) : Calm s s.resetXfr := by
  have hstill : ∀ {s t}, Calm s t → s.stilled → t.stilled := fun ht => ht.stilled
  have hflights := Calm.foldl hstill (fun _ r hs => calm_dropFlight hs.1 r) s.xfr.flights h
  have hdevices := hflights.trans (.foldl hstill (fun _ q hs => calm_flushDeviceQueue hs.2 q) (List.range 64) (hflights.stilled h))
  unfold State.resetXfr
  dsimp only
  refine (hdevices.trans ?_).trans (.of_kept (kept_failMessages (Kept.refl _) (by unfold Off; decide) _))
  exact .foldl hstill (fun _ q hs => calm_flushQueue hs.2 q) _ (hdevices.stilled h)

/-! ### Contexts closed, units reset (R353) -/

theorem calm_posts {α : Type} {e : Ev} (he : e.cls ≠ 2) (a : State → α → Nat × Nat) (l : List α) (s : State) :
    Calm s (l.foldl (fun s x => s.post e 0xFFF (a s x)) s) :=
  .foldl (I := fun _ => True) (fun _ _ => trivial) (fun s x _ => calm_post he s 0xFFF (a s x)) l trivial

theorem calm_onExp (s : State) (f : Exp → Exp) : Calm s (s.onExp f) := ⟨⟨rfl, rfl, rfl, rfl, id⟩, fun ha hq => ⟨ha, hq, rfl⟩⟩

theorem calm_freeTables (s : State) : Calm s s.freeTables := by
  unfold State.freeTables
  exact (calm_onExp s _).trans (calm_posts (e := .codeTableFreed) (by decide) (fun s (t : CodeTable) => formO .ok s.node t.id 0) _ _)

theorem calm_freeDsets (s : State) : Calm s s.freeDsets := by
  unfold State.freeDsets
  exact (calm_onExp s _).trans (calm_posts (e := .deltaSetFreed) (by decide) (fun s (t : DeltaSlot) => formO .ok s.node t.slot 0) _ _)

theorem calm_releaseBinds (s : State) (c : Nat) : Calm s (s.releaseBinds c) :=
  ((calm_onExp s _).trans (calm_freeTables _)).trans (calm_freeDsets _)

theorem calm_setRegs (s : State) (l : List (Fld × Nat)) : Calm s (s.setRegs l) :=
  .of_kept (kept_setRegs (Kept.refl s) (by unfold Off; decide) l)

theorem calm_ctxCmdDone (s : State) (c : Nat) (st : St) : Calm s (s.ctxCmdDone c st) := by
  unfold State.ctxCmdDone
  split
  · exact Calm.trans (t := s.onSch fun b => { b with busy := none }) ⟨⟨rfl, rfl, rfl, rfl, id⟩, fun ha hq => ⟨ha, hq, rfl⟩⟩
      (calm_setRegs _ _)
  · exact .refl s

theorem calm_onSch_reset (s : State) : Calm s (s.onSch fun b => { Sch.reset with
    queuedSeq := b.queuedSeq
    queuedCounter := b.queuedCounter }) :=
  ⟨⟨rfl, rfl, rfl, rfl, fun _ => rfl⟩, fun ha hq => ⟨ha, hq, rfl⟩⟩

theorem calm_onRse {f : Rse → Rse} (hf : ∀ e, (f e).generation = e.generation) (s : State) : Calm s (s.onRse f) :=
  ⟨⟨rfl, rfl, rfl, hf _, id⟩, fun ha hq => ⟨ha, hq, rfl⟩⟩

/-- What follows the end of every context. -/
def State.afterContexts (s : State) : State :=
  let s := (s.onSch fun b => { Sch.reset with
    queuedSeq := b.queuedSeq
    queuedCounter := b.queuedCounter }).resetXfr
  let s := s.onRse fun e => { e with homes := e.homes.map fun h => { h with placing := none } }
  s.post .contextClosed 0xFFF (formC .nodeResetting 0 CloseCause.computeReset.code 0 0)

/-- The end of every context. -/
def State.endContexts (s : State) : State :=
  let cs := s.sch.ctxs.map (·.num)
  let s := cs.foldl State.releaseBinds s
  let s := match s.sch.busy with
    | some (_, c) => s.ctxCmdDone c .nodeResetting
    | none => s
  if cs.contains (s.reg R.MZT_CTRL_CONTEXT) then s.setReg R.MZT_CTRL_SERVE 0 else s

theorem closeAll_eq (s : State) : s.closeAll = s.endContexts.afterContexts := by
  unfold State.closeAll State.endContexts State.afterContexts
  rfl

theorem calm_afterContexts (h : s.transitOnly = true) : Calm s s.afterContexts ∧ s.afterContexts.sch.ctxs = [] := by
  obtain ⟨u, hu⟩ : ∃ u, u = s.onSch fun b => { Sch.reset with
      queuedSeq := b.queuedSeq
      queuedCounter := b.queuedCounter } := ⟨_, rfl⟩
  have hclosed : Calm s u := hu ▸ calm_onSch_reset s
  have hstill : u.stilled := ⟨hclosed.transitOnly h, by rw [hu]; rfl⟩
  have hafter : Calm u s.afterContexts := by
    unfold State.afterContexts
    rw [← hu]
    refine ((calm_resetXfr hstill).trans (calm_onRse ?_ _)).trans (calm_post (e := .contextClosed) (by decide) _ _ _)
    exact fun e => rfl
  exact ⟨hclosed.trans hafter, hafter.contexts hstill.2⟩

theorem calm_endContexts (s : State) : Calm s s.endContexts := by
  have hbinds : Calm s ((s.sch.ctxs.map (·.num)).foldl State.releaseBinds s) :=
    .foldl (I := fun _ => True) (fun _ _ => trivial) (fun s c _ => calm_releaseBinds s c) _ trivial
  have hserve : ∀ {u : State}, Calm s u → Calm s (if (s.sch.ctxs.map (·.num)).contains (u.reg R.MZT_CTRL_CONTEXT) then
      u.setReg R.MZT_CTRL_SERVE 0 else u) := by
    intro u hu
    split
    · exact hu.trans (calm_setReg u _ _)
    · exact hu
  unfold State.endContexts
  refine hserve ?_
  split
  · exact hbinds.trans (calm_ctxCmdDone _ _ _)
  · exact hbinds

theorem calm_closeAll (h : s.transitOnly = true) : Calm s s.closeAll ∧ s.closeAll.sch.ctxs = [] := by
  obtain ⟨hafter, hnone⟩ := calm_afterContexts ((calm_endContexts s).transitOnly h)
  rw [closeAll_eq]
  exact ⟨(calm_endContexts s).trans hafter, hnone⟩

theorem calm_onBld {f : Bld → Bld} (hf : ∀ b, (f b).node = b.node) (s : State) : Calm s (s.onBld f) :=
  ⟨⟨rfl, rfl, hf _, rfl, id⟩, fun ha hq => ⟨ha, hq, rfl⟩⟩

theorem calm_onSyn (s : State) (f : Syn → Syn) : Calm s (s.onSyn f) := ⟨⟨rfl, rfl, rfl, rfl, id⟩, fun ha hq => ⟨ha, hq, rfl⟩⟩

theorem calm_resetSync (s : State) : Calm s s.resetSync := by
  have hbars : ∀ (l : List Nat) (u : State), Calm u (l.foldl (fun s b => s.setRegs [(R.SYN_BAR_A_STATE b, 1),
      (R.SYN_BAR_A_ARRIVED b, 0), (R.SYN_BAR_B_EARLY b, 0), (R.SYN_BAR_B_ACKS_PENDING b, 0), (R.SYN_BAR_A_OWNER b, 0xFFF)]) u) :=
    fun l u => .foldl (I := fun _ => True) (fun _ _ => trivial) (fun s b _ => calm_setRegs s _) l trivial
  unfold State.resetSync
  refine Calm.trans ?_ (calm_onBld ?_ _)
  case refine_2 => exact fun b => rfl
  exact (calm_onSyn s _).trans (hbars _ _)

theorem settled_refuseQuery (s : State) (src : Nat) (q : MztMsg) (st : St) : Settled s (s.refuseQuery src q st) := by
  have hsent : ∀ {u : State}, Settled s u → Settled s (u.sendMsg src (.mztPartial (q.partial_ st 0 []))) := fun {u} hu =>
    hu.trans (.of_sent (sent_sendMsg u _ _) (kept_sendMsg (Kept.refl u) (by unfold Off; decide) _ _))
  unfold State.refuseQuery
  refine hsent ?_
  have hrefused := (calm_bump s R.MZT_SERVE_STATS_REFUSED).toSettled
  split
  · exact hrefused.trans (calm_bump _ _).toSettled
  · exact hrefused.trans (calm_bump _ _).toSettled
  · exact hrefused

theorem calm_refuseQueue (s : State) (st : St) : Calm s (s.refuseQueue st) := by
  have hqueries : ∀ (l : List MztQueued) (u : State), Settled u (l.foldl (fun s x => s.refuseQuery x.src x.q st) u) := by
    intro l
    induction l with
    | nil => exact .refl
    | cons x l ih => exact fun u => (settled_refuseQuery u _ _ _).trans (ih _)
  by_cases hq : s.mzt.queue = []
  · rw [State.refuseQueue, hq]
    exact .refl s
  · refine Settled.calm ?_ fun _ => hq
    rw [State.refuseQueue, if_neg (by simpa using hq)]
    exact Settled.trans (t := s.setQueue []) ⟨rfl, rfl, rfl, rfl, id⟩ (hqueries _ _)

theorem calm_resetTiles (s : State) : Calm s s.resetTiles := by
  have hreplies : Calm s (s.bld.testing.foldl (fun s t => s.onlineReply t .nodeResetting) s) :=
    .foldl (I := fun _ => True) (fun _ _ => trivial)
      (fun s t _ => .of_kept (kept_onlineReply (Kept.refl s) (by unfold Off; decide) t _)) _ trivial
  have hqueries := hreplies.trans (calm_refuseQueue _ .nodeResetting)
  exact hqueries.trans ⟨⟨rfl, rfl, rfl, rfl, id⟩, fun ha _ => ⟨ha, rfl, rfl⟩⟩

theorem calm_abandonTurn (s : State) : Calm s s.abandonTurn := .of_kept (kept_abandonTurn (Kept.refl s) (by unfold Off; decide))

theorem calm_emptySlots (s : State) : Calm s s.emptySlots := by
  unfold State.emptySlots
  dsimp only
  refine Calm.trans ?_ (calm_posts (e := .deltaSetFreed) (by decide) (fun s (t : DeltaSlot) => formO .ok s.node t.slot 0) _ _)
  split
  · exact ((calm_onExp s _).trans (calm_onExp _ _)).trans (calm_setRegs _ _)
  · exact calm_onExp s _

/-! ### The steps of a compute-only reset -/

/-- The node enters a compute-only reset: its state, the count of its start and its standing report. -/
def State.entersCompute (s : State) (k : ResetKind) : State :=
  ((s.onBld fun b => { b with node := NodeState.computeReset }).countStart k).reReport

/-- What waits goes on, every context is closed, and sync units, tiles and the phase turn are reset. -/
def State.stopsCompute (s : State) : State :=
  (((s.flowAll (s.fab.ins.map (·.src))).closeAll).resetSync.resetTiles).abandonTurn

/-- A new generation, empty delta slots by KIND 3, and the locks, before the tiles' boot stage. -/
def State.renewsCompute (s : State) (k : ResetKind) : State :=
  let s := (s.onPge Pge.warm).onRse Rse.newGeneration
  let s := if k = .scrub then s.emptySlots else s
  (s.relock.setReg R.BLD_SERVICE_OFFLINE 0).enterStage 6

theorem computeReset_eq (s : State) (k : ResetKind) : s.computeReset k = ((s.entersCompute k).stopsCompute).renewsCompute k := rfl

theorem entersCompute_transitOnly (s : State) (k : ResetKind) : (s.entersCompute k).transitOnly = true := by
  have hbld : (s.entersCompute k).bld = ((s.onBld fun b => { b with node := NodeState.computeReset }).countStart k).bld :=
    (kept_reReport (κ := onlyPart .bld) (Kept.refl _) (off_onlyPart (by decide))).same (p := .bld) rfl
  rw [State.transitOnly, hbld]
  rfl

theorem entersCompute_same {p : Part} (hp : p ≠ .regs ∧ p ≠ .bld) (s : State) (k : ResetKind) : p.same s (s.entersCompute k) := by
  have hoff : Off (onlyPart p) [.regs, .bld] := off_onlyPart (by simpa using hp)
  exact (kept_reReport (kept_countStart (kept_onBld (Kept.refl s) (hoff.sub (by decide)) _) hoff k) (hoff.sub (by decide))).same
    (onlyPart_self p)

theorem calm_stopsCompute (h : s.transitOnly = true) : Calm s s.stopsCompute ∧ s.stopsCompute.sch.ctxs = [] := by
  have hflow := calm_flowAll h (s.fab.ins.map (·.src))
  obtain ⟨hclosed, hnone⟩ := calm_closeAll (hflow.transitOnly h)
  have hreset : Calm ((s.flowAll (s.fab.ins.map (·.src))).closeAll) s.stopsCompute :=
    ((calm_resetSync _).trans (calm_resetTiles _)).trans (calm_abandonTurn _)
  exact ⟨(hflow.trans hclosed).trans hreset, hreset.contexts hnone⟩

theorem stopsCompute_parts (s : State) :
    s.stopsCompute.cores = [] ∧ s.stopsCompute.tileBuf = [] ∧ s.stopsCompute.opBuf = [] := ⟨rfl, rfl, rfl⟩

theorem calm_renewsCompute (s : State) (k : ResetKind) :
    Calm ((s.onPge Pge.warm).onRse Rse.newGeneration) (s.renewsCompute k) := by
  have hlocked : ∀ {u : State}, Calm ((s.onPge Pge.warm).onRse Rse.newGeneration) u →
      Calm ((s.onPge Pge.warm).onRse Rse.newGeneration) ((u.relock.setReg R.BLD_SERVICE_OFFLINE 0).enterStage 6) := fun {u} hu =>
    ((hu.trans (.of_kept (kept_relock (Kept.refl u) (by unfold Off; decide)))).trans (calm_setReg _ _ _)).trans
      ((calm_onBld (f := fun b => { b with stage := 6 }) (fun _ => rfl) _).trans (calm_setReg _ _ _))
  unfold State.renewsCompute
  refine hlocked ?_
  split
  · exact calm_emptySlots _
  · exact .refl _

theorem renewsCompute_same {p : Part} (hp : p ∉ [Part.regs, .exp, .fab, .hcp, .bld, .sec, .evt, .out]) (s : State) (k : ResetKind) :
    p.same ((s.onPge Pge.warm).onRse Rse.newGeneration) (s.renewsCompute k) := by
  have hoff := off_onlyPart hp
  have hlocked : ∀ {u : State}, Kept (onlyPart p) ((s.onPge Pge.warm).onRse Rse.newGeneration) u →
      Kept (onlyPart p) ((s.onPge Pge.warm).onRse Rse.newGeneration) ((u.relock.setReg R.BLD_SERVICE_OFFLINE 0).enterStage 6) :=
    fun hu => kept_enterStage (kept_setReg (kept_relock hu (hoff.sub (by decide))) (hoff.sub (by decide)) _ _)
      (hoff.sub (by decide)) 6
  refine Kept.same (κ := onlyPart p) ?_ (onlyPart_self p)
  unfold State.renewsCompute
  refine hlocked ?_
  split
  · exact kept_emptySlots (Kept.refl _) (hoff.sub (by decide))
  · exact Kept.refl _

theorem renewsCompute_parts (s : State) (k : ResetKind) : (s.renewsCompute k).cores = s.cores
    ∧ (s.renewsCompute k).tileBuf = s.tileBuf ∧ (s.renewsCompute k).opBuf = s.opBuf
    ∧ (s.renewsCompute k).rse = s.rse.newGeneration ∧ (s.renewsCompute k).bld.stage = 6 := by
  have hmem := renewsCompute_same (p := .mem) (by decide) s k
  simp only [Part.same, Prod.mk.injEq] at hmem
  obtain ⟨-, htile, hop, -⟩ := hmem
  exact ⟨renewsCompute_same (p := .cores) (by decide) s k, htile, hop, renewsCompute_same (p := .rse) (by decide) s k, rfl⟩

/-- What a compute-only reset keeps and loses (R353). -/
theorem computeReset_parts (s : State) (k : ResetKind) :
    (s.computeReset k).bld.node = .computeReset ∧ (s.computeReset k).cores = [] ∧ (s.computeReset k).sch.ctxs = []
      ∧ (s.computeReset k).tileBuf = [] ∧ (s.computeReset k).opBuf = []
      ∧ (s.fab.accepted = [] → s.mzt.queue = [] → (s.computeReset k).fab.links = s.fab.links)
      ∧ (s.computeReset k).fab.routes = s.fab.routes ∧ (s.computeReset k).fab.incarnation = s.fab.incarnation
      ∧ (s.computeReset k).bld.stage = 6 ∧ (s.computeReset k).rse.generation = (s.rse.generation + 1) % 65536
      ∧ (s.computeReset k).rse.nextCount = 1 := by
  obtain ⟨e, he⟩ : ∃ e, e = s.entersCompute k := ⟨_, rfl⟩
  have hfab : e.fab = s.fab := he ▸ entersCompute_same (p := .fab) (by decide) s k
  have hrse : e.rse = s.rse := he ▸ entersCompute_same (p := .rse) (by decide) s k
  have hmzt : e.mzt = s.mzt := he ▸ entersCompute_same (p := .mzt) (by decide) s k
  have htransit : e.transitOnly = true := he ▸ entersCompute_transitOnly s k
  obtain ⟨hcalm, hnone⟩ := calm_stopsCompute htransit
  obtain ⟨hcores, htileBuf, hopBuf⟩ := stopsCompute_parts e
  rw [computeReset_eq, ← he]
  generalize e.stopsCompute = v at hcalm hnone hcores htileBuf hopBuf ⊢
  have hrenewed := calm_renewsCompute v k
  have hnode : e.bld.node = .computeReset := of_decide_eq_true htransit
  obtain ⟨hcores', htile, hop, hrse', hstage⟩ := renewsCompute_parts v k
  have hgeneration : v.rse.generation = s.rse.generation := hcalm.generation.trans (by rw [hrse])
  refine ⟨hrenewed.node.trans (hcalm.node.trans hnode), hcores'.trans hcores, hrenewed.contexts hnone, htile.trans htileBuf,
    hop.trans hopBuf, fun haccepted hqueue => ?_, hrenewed.routes.trans (hcalm.routes.trans (by rw [hfab])),
    hrenewed.incarnation.trans (hcalm.incarnation.trans (by rw [hfab])), hstage, ?_, ?_⟩
  · obtain ⟨hstopAccepted, hstopQueue, hstopLinks⟩ := hcalm.quiet (by rw [hfab, haccepted]) (by rw [hmzt, hqueue])
    obtain ⟨-, -, hlinks⟩ := hrenewed.quiet hstopAccepted hstopQueue
    exact hlinks.trans (hstopLinks.trans (by rw [hfab]))
  · rw [hrse', Rse.newGeneration, hgeneration]
  · rw [hrse', Rse.newGeneration]

end Sys2Proof.Machine
end

section
/-! SUPPORT. Resets (section 13.1): the statement. -/


namespace Sys2Proof.Machine

/-- Settles O41: a start is its losses with new registers, Burin's queue and boot stage, and a compute-only reset calm steps between
the node's new state and its new generation. The watchdog ignored while the rails are off, the node FAILED or at no stage, and the
buffers a warm reset empties, are the model's choices (log entry 34), and so is what a compute-only reset empties (log entry 33). -/
theorem resets : Obligations.Resets := by
  unfold Obligations.Resets
  refine ⟨?coldStart, ?cold, ?warm, ?kept, ?queueEmpty, ?queueOne, ?submit, ?parts, ?reset, ?restored, ?counted, ?watchdog,
    ?watchdogOff, ?warmCmd, ?busy, ?compute, ?copying, ?computeReset⟩
  case coldStart => exact fun s pin => rfl
  case cold =>
    intro s
    obtain ⟨regs, hreset⟩ := fullReset_eq s .cold
    rw [hreset]
    exact ⟨rfl, rfl, rfl, rfl, rfl, rfl, rfl, rfl, rfl, rfl, rfl, rfl, rfl, rfl, rfl, rfl, rfl, rfl, rfl⟩
  case warm =>
    intro s
    obtain ⟨regs, hreset⟩ := fullReset_eq s .warm
    rw [hreset]
    exact ⟨rfl, rfl, rfl, rfl, rfl, rfl, rfl, rfl, lost_incarnation .warm, rfl, lost_generation .warm, rfl⟩
  case kept =>
    intro s hout
    obtain ⟨regs, hreset⟩ := fullReset_eq s .warm
    obtain ⟨regs', hfrom⟩ := startsFrom_quiet .warm hout
    have hhbm : (s.lost .warm).hbm = s.hbm := by
      rw [State.lost, hfrom]
      rfl
    have hmirrors : (s.lost .warm).rse.mirrors = s.rse.mirrors := by
      rw [State.lost, hfrom]
      rfl
    have hpages : (s.lost .warm).pge = s.pge.warm := by
      rw [State.lost, hfrom]
      rfl
    rw [hreset]
    exact ⟨hhbm, hmirrors, lost_warm_homes hout, congrArg Pge.pages hpages⟩
  case queueEmpty =>
    intro s hout hqueued
    obtain ⟨regs, hreset⟩ := fullReset_eq s .warm
    rw [hreset]
    exact requeue_sch_of_not_queued (by simpa [lost_warm_homes hout] using hqueued)
  case queueOne =>
    intro s h hout hhomes hqueued
    obtain ⟨regs, hreset⟩ := fullReset_eq s .warm
    rw [hreset]
    have hlost : (s.lost .warm).rse.homes = [{ h with placing := none, heldResume := none }] := by
      rw [lost_warm_homes hout, hhomes]
      rfl
    exact requeue_sch_of_queued (h := { h with placing := none, heldResume := none }) hlost hqueued
  case submit =>
    intro s h p rep hout hhomes hid hchange
    obtain ⟨regs, hreset⟩ := fullReset_eq s .warm
    rw [hreset]
    exact lost_warm_submit hout hhomes hid hchange
  case parts => exact fun s k => fullReset_parts k
  case reset =>
    intro s f hs hsmall hf hlo hlost
    rw [fullReset_cold_reg hs hsmall hf hlo, hlost]
    rfl
  case restored =>
    intro s f hs hsmall hf hlo hkept
    rw [fullReset_cold_reg hs hsmall hf hlo, hkept]
    rfl
  case counted => exact fun s k hs => ⟨fullReset_startCount k hs, fullReset_lastReset k⟩
  case watchdog =>
    intro s hoff hnode hstage
    exact congrArg Host.Outcome.next (if_neg (by simp [hoff, hnode, hstage]))
  case watchdogOff =>
    intro s hidle
    exact congrArg Host.Outcome.next (if_pos hidle)
  case warmCmd =>
    intro s t p ref h hpayload hresetting
    exact congrArg Host.Outcome.next ((prayr_accept h hpayload).trans (if_neg (by simp [hresetting])))
  case busy =>
    intro s t p ref h hpayload hresetting
    have hrefused : (t.resetting || decide (t.bld.node ≠ .ready)) = true := by simp [hresetting]
    exact ⟨congrArg Host.Outcome.next ((prayr_accept h hpayload).trans (if_pos hresetting)),
      congrArg Host.Outcome.next ((prayr_accept h hpayload).trans (if_pos hrefused)),
      congrArg Host.Outcome.next ((prayr_accept h hpayload).trans (if_pos hrefused))⟩
  case compute =>
    intro s t p ref h hpayload hresetting hready hretire
    have hgoes : ∀ k, (if (t.resetting || decide (t.bld.node ≠ .ready)) = true then t.hostReply ref .badState []
        else t.askCompute k (some ref)) = (t.hostReply ref .ok []).computeReset k := by
      simp [hresetting, hready, State.askCompute, hretire]
    exact ⟨congrArg Host.Outcome.next ((prayr_accept h hpayload).trans (hgoes _)),
      congrArg Host.Outcome.next ((prayr_accept h hpayload).trans (hgoes _))⟩
  case copying =>
    intro s t p ref r h hpayload hresetting hready hretire hcopying
    refine congrArg Host.Outcome.next ((prayr_accept h hpayload).trans ?_)
    simp [hresetting, hready, State.askCompute, hretire, hcopying]
  case computeReset => exact fun s k => computeReset_parts s k

end Sys2Proof.Machine
end

section
/-! SUPPORT. The end of a remote operation (R265 to R267): its answer, its timeout, and refused messages. -/


namespace Sys2Proof.Machine

variable {s : State}

theorem inTurn_due {f : Frame} (hdue : s.due f = true) (run : State → State) :
    s.inTurn f run = ((run (s.takeOrdered f)).flow f.src).serveInbox := by
  simp [State.inTurn, hdue]

/-- An operation whose answer does not make its node unreachable ends by its kind. -/
theorem completeRemote_of_answered {o : RemoteOp} {a : Answer} {c done pc : Nat} (hwho : o.who = .core c done pc) (hread : o.kind ≠ .read)
    (hresetting : a.status ≠ .nodeResetting) (htimeout : a.status ≠ .remoteTimeout) :
    s.completeRemote o a = (s.dropRemote o.tag).coreAnswered o c done pc a := by
  simp [State.completeRemote, hresetting, htimeout, hread, hwho]

/-- The count of timeouts is no queue's context, so an operation is done for the context it was done for. -/
theorem remoteCtx_bump_timeouts (o : RemoteOp) : (s.bump R.FAB_STATS_TIMEOUTS).remoteCtx o = s.remoteCtx o := by
  unfold State.remoteCtx
  cases o.who with
  | core c done pc =>
    have hcores : (s.bump R.FAB_STATS_TIMEOUTS).cores = s.cores :=
      (kept_bump (κ := onlyPart .cores) (Kept.refl s) (off_onlyPart (by decide)) _).same (p := .cores) rfl
    simp only [State.core, hcores]
  | queue q idx =>
    refine reg_bump_ne (s := s) ?_
    simp only [Fld.key, R.XFR_Q_A_CONTEXT, R.FAB_STATS_TIMEOUTS]
    omega
  | csr ref => rfl

/-- REMOTE_TIMEOUT is posted once per destination and millisecond (R266). -/
theorem postTimeout_bump_timeouts (o : RemoteOp) : (s.bump R.FAB_STATS_TIMEOUTS).postTimeout o
    = if lookupD 0 s.fab.timeoutPosted o.dst = s.aon / 1000 + 1 then s.bump R.FAB_STATS_TIMEOUTS
      else ((s.bump R.FAB_STATS_TIMEOUTS).onFab fun f => { f with
        timeoutPosted := assign 0 o.dst (s.aon / 1000 + 1) f.timeoutPosted }).post .remoteTimeout (s.remoteCtx o)
          (formR .remoteTimeout o.dst o.region o.addr) := by
  have hfab : (s.bump R.FAB_STATS_TIMEOUTS).fab = s.fab := count_fab _ _ 1
  have haon : (s.bump R.FAB_STATS_TIMEOUTS).aon = s.aon :=
    (kept_bump (κ := fun _ => false) (Kept.refl s) (fun _ _ => rfl) _).2.2.1
  simp only [State.postTimeout, hfab, haon, remoteCtx_bump_timeouts]

theorem cells_setPoisons (s : State) (m m' : Mem) (p : List Poison) : (s.setPoisons m p).cells m' = s.cells m' := by
  cases m <;> rfl

theorem cells_setCells (s : State) (m : Mem) (c : List Host.Cell) : (s.setCells m c).cells m = c := by
  cases m <;> rfl

/-- A poisoned byte reads as ones (R267). -/
theorem rdNum_poison {m : Mem} {off len k : Nat} (hk : k < len) (st : St) : (s.poison m off len st).rdNum m (off + k) 1 = 0xFF := by
  have hbyte : (s.poison m off len st).rd m (off + k) = 0xFF := by
    rw [State.rd, State.poison, cells_setPoisons, cells_setCells, readCell_writeCells, if_pos (by simp [hk])]
    simp [hk]
  simp [State.rdNum, rdNat, hbyte]

theorem markUnreachable_hcp (s : State) (n : Nat) : (s.markUnreachable n).hcp = s.hcp := by
  unfold State.markUnreachable
  split <;> rfl

/-- The one refused message waiting is off the list when its retry is due. -/
theorem engineNakRetry_only {dst : Nat} {r : NakRetry} (hretries : s.fab.nakRetries = [r]) (hdst : r.dst = dst) :
    (s.fab.nakRetries.filter (·.dst == dst)).foldl State.nakRetry s = s.nakRetry r
      ∧ s.onFab (fun f => { f with nakRetries := dropFirst r f.nakRetries }) = s.onFab fun f => { f with nakRetries := [] } := by
  simp [hretries, hdst, State.onFab, dropFirst]

/-- Settles O28: each end of an operation is what its rule says of the frame in its turn. That a forwarded command fails after
REMOTE_US only while its frame is unacknowledged, and then goes to the deputy, is the model's choice (log entry 100); so is that a
refused message is sent again before those behind it (log entry 42). -/
theorem remoteOperations : Obligations.RemoteOperations := by
  unfold Obligations.RemoteOperations
  refine ⟨?answered, ?late, ?noAnswer, ?load, ?loadRefused, ?ones, ?signal, ?timeoutAgain, ?timeout, ?timeoutRead, ?timeoutGone,
    ?forward, ?forwardDeputy, ?forwardTaken, ?spray, ?sprayRead, ?nak, ?nakOther, ?retry, ?retried, ?unreachable, ?reachable⟩
  case answered =>
    intro s f tag kinds a o hanswer hdue ho hdst hkind hstatus
    change execRemoteResponse f s = _
    have ho' : (s.takeOrdered f).remote? tag = some o := ho
    simp only [execRemoteResponse, hanswer, inTurn_due hdue, State.response, ho', Option.filter_some, hdst, hkind, beq_self_eq_true,
      Bool.and_self, if_true, hstatus, if_false]
  case late =>
    intro s f tag kinds a hanswer hdue ho
    change execRemoteResponse f s = _
    have ho' : (s.takeOrdered f).remote? tag = none := ho
    simp only [execRemoteResponse, hanswer, inTurn_due hdue, State.response, ho', Option.filter_none]
  case noAnswer =>
    intro s f hanswer
    change execRemoteResponse f s = _
    simp [execRemoteResponse, hanswer]
  case load =>
    intro s o c done pc a hwho hkind hok
    rw [completeRemote_of_answered hwho (by simp [hkind]) (by simp [hok]) (by simp [hok])]
    simp [State.coreAnswered, hkind, hok]
  case loadRefused =>
    intro s o c done pc a hwho hkind hok hresetting htimeout
    rw [completeRemote_of_answered hwho (by simp [hkind]) hresetting htimeout]
    simp [State.coreAnswered, hkind, hok]
  case ones => exact fun s m off len k st _ hk => rdNum_poison hk st
  case signal =>
    intro s o c done pc a hwho hkind hok hresetting htimeout
    rw [completeRemote_of_answered hwho (by simp [hkind]) hresetting htimeout]
    simp [State.coreAnswered, hkind, hok]
  case timeoutAgain =>
    intro s tag addr o ho hread hposted
    change execRemoteTimeoutExpiry (.frame tag addr) s = _
    simp only [execRemoteTimeoutExpiry, ho, State.timedOut, if_neg hread]
    rw [postTimeout_bump_timeouts, if_pos hposted]
  case timeout =>
    intro s tag addr o ho hread hposted
    change execRemoteTimeoutExpiry (.frame tag addr) s = _
    simp only [execRemoteTimeoutExpiry, ho, State.timedOut, if_neg hread]
    rw [postTimeout_bump_timeouts, if_neg hposted]
  case timeoutRead =>
    intro s tag addr o ho hread
    change execRemoteTimeoutExpiry (.frame tag addr) s = _
    simp only [execRemoteTimeoutExpiry, ho, State.timedOut, if_pos hread]
  case timeoutGone =>
    intro s tag addr ho
    change execRemoteTimeoutExpiry (.frame tag addr) s = _
    simp only [execRemoteTimeoutExpiry, ho]
  case forward =>
    intro s ref n tenant first c e g hlater hunacked hbody
    change execRemoteTimeoutExpiry (.command ref) s = _
    have hlater' : (s.markUnreachable n).hcp.later = [.forwarded ref n c tenant none] := by
      rw [markUnreachable_hcp, hlater]
    simp [execRemoteTimeoutExpiry, State.forwardTimeout, hlater, hunacked, hbody, State.forwardFails, hlater']
  case forwardDeputy =>
    intro s ref n tenant first c e g st hlater hunacked hbody
    change execRemoteTimeoutExpiry (.command ref) s = _
    have hlater' : (s.markUnreachable n).hcp.later = [.forwarded ref n c tenant (some st)] := by
      rw [markUnreachable_hcp, hlater]
    simp [execRemoteTimeoutExpiry, State.forwardTimeout, hlater, hunacked, hbody, State.forwardFails, hlater', State.forwardedEnds, Later.isForward]
  case forwardTaken =>
    intro s ref n tenant c st hlater hunacked
    change execRemoteTimeoutExpiry (.command ref) s = _
    simp [execRemoteTimeoutExpiry, State.forwardTimeout, hlater, hunacked]
  case spray =>
    intro s f st region addr id hbody hdue hid
    change execSprayNak f s = _
    simp only [execSprayNak, hbody, inTurn_due hdue, State.sprayRefused, if_pos hid, State.postRefused]
    rfl
  case sprayRead =>
    intro s f st region addr id o hbody hdue hid ho
    change execSprayNak f s = _
    have ho' : (s.takeOrdered f).remote? (id - 2 ^ 31) = some o := ho
    simp only [execSprayNak, hbody, inTurn_due hdue, State.sprayRefused, if_neg hid.not_gt, State.postRefused, ho', Option.map_some,
      Option.getD_some]
    rfl
  case nak =>
    intro s f e n m hbody hdue hlearn
    change execEngineNak f s = _
    simp only [execEngineNak, hbody, inTurn_due hdue, State.engineRefused, if_pos hlearn]
  case nakOther =>
    intro s f e n m st hbody hst hdue
    change execEngineNak f s = _
    simp only [execEngineNak, hbody, inTurn_due hdue, id]
  case retry =>
    intro s dst r m ms hretries hdst hrefused hresent hstill
    change execEngineNakRetryExpiry dst s = _
    obtain ⟨honly, hdropped⟩ := engineNakRetry_only hretries hdst
    have hstill' : (s.onFab fun f => { f with nakRetries := [] }).stillSend m = true := hstill
    simp [execEngineNakRetryExpiry, honly, State.nakRetry, hdropped, hdst, hrefused, hresent, hstill']
  case retried =>
    intro s dst r m ms hretries hdst hrefused hresent
    change execEngineNakRetryExpiry dst s = _
    obtain ⟨honly, hdropped⟩ := engineNakRetry_only hretries hdst
    simp [execEngineNakRetryExpiry, honly, State.nakRetry, hdropped, hdst, hrefused, hresent]
  case unreachable =>
    intro s n hn
    simp [State.markUnreachable, hn]
  case reachable =>
    intro s n
    simp [State.markReachable]

end Sys2Proof.Machine
end

section
/-! SUPPORT. How a request ends (R65 to R70): what a forwarded command meets at the owner, and what its answer meets at the home. -/


namespace Sys2Proof.Machine

variable {s : State} {id : Nat} {w : Work} {h : HomeRec}

@[simp] theorem takeMsg_pendingChange (src : Nat) (m : Msg) (id : Nat) :
    (s.takeMsg src m).pendingChange id = s.pendingChange id := rfl

/-- An owned copy at the message's epoch is what a forwarded command meets (R57). -/
theorem ownedFor_owned (hw : s.work? id = some w) (hok : w.checkOk = true) (howned : w.status = .owned) (src : Nat) (k : FwdKind) :
    s.ownedFor src id w.r.epoch k = .ok w := by
  simp [State.ownedFor, checkCopy_sound hw hok, hw, howned]

theorem away_decode (hstate : h.r.state = .decode) : h.r.state.away = true := by
  rw [hstate]
  rfl

/-- Settles O9: the record or the owned copy that a message or an expiry meets decides what it does. -/
theorem requestEnds : Obligations.RequestEnds := by
  unfold Obligations.RequestEnds
  refine ⟨?expired, ?notYet, ?tombstone, ?cancel, ?pause, ?move, ?final, ?otherOwner, ?resend, ?resentNone, ?resentCancel⟩
  case expired =>
    intro s id d h hh hstate hdeadline hd hok hpending
    change execTtlExpiry id s = _
    simp [execTtlExpiry, hh, hstate, hdeadline, hd, hok, hpending]
  case notYet =>
    intro s id d h hh hstate hdeadline hwaits
    change execTtlExpiry id s = _
    have hnot : ¬ (d ≤ s.tick ∧ h.checkOk = true ∧ s.pendingChange id = false) := by
      rintro ⟨hd, -, hpending⟩
      rcases hwaits with hlt | hchange
      · exact absurd hd hlt.not_ge
      · simp [hpending] at hchange
    simp [execTtlExpiry, hh, hstate, hdeadline, hnot]
  case tombstone =>
    intro s id t h hh hok hfinal hdone
    change execTombstoneExpiry id s = _
    simp [execTombstoneExpiry, hh, hok, hfinal, hdone]
  case cancel =>
    intro s src id w hw hok howned hstate hturn
    change execCancelFwd src id w.r.epoch s = _
    simp only [execCancelFwd, ownedFor_owned (s := s.takeMsg src (.cancelFwd id w.r.epoch)) hw hok howned]
    simp [hstate, hturn]
  case pause =>
    intro s src id p w hw howned hstate hok hpendMove hmove hpause
    change execFwdPause src id w.r.epoch p s = _
    simp only [execFwdPause, ownedFor_owned (s := s.takeMsg src (.fwdPause id w.r.epoch p)) hw hok howned]
    simp [hstate, State.askHandback, hpendMove, hmove, hpause]
  case move =>
    intro s src id dest rep w hw howned hok hstate hpendMove hmove hpause
    change execFwdMove src id w.r.epoch dest rep s = _
    simp only [execFwdMove, ownedFor_owned (s := s.takeMsg src (.fwdMove id w.r.epoch dest rep)) hw hok howned]
    simp [hstate, hpendMove, hmove, hpause]
  case final =>
    intro s src m h hh hepoch howner hok hstate
    change execFinal src m s = _
    simp [execFinal, hh, hok, hepoch, howner, away_decode hstate]
  case otherOwner =>
    intro s src id epoch h hh hok hpending howner hstate
    change execNotOwner src id epoch .cancel s = _
    simp [execNotOwner, hh, hok, hpending, howner, away_decode hstate, State.forwardKind, home_id hh]
  case resend =>
    intro s id epoch k h hh hok hpending hstate hknown hlower
    change execNotOwner h.r.owner id epoch k s = _
    simp [execNotOwner, hh, hok, hpending, hknown, hlower, away_decode hstate]
  case resentNone =>
    intro s id h hh hok hpending hstate hresend
    change execNotOwnerRetryExpiry id s = _
    have hkept : { h with resend := [] } = h := by rw [← hresend]
    simp only [execNotOwnerRetryExpiry, hh]
    rw [if_pos (by simp [away_decode hstate, hok, hpending]), hresend, hkept]
    rfl
  case resentCancel =>
    intro s id h hh hok hpending hstate hresend
    change execNotOwnerRetryExpiry id s = _
    simp [execNotOwnerRetryExpiry, hh, hok, hpending, hresend, away_decode hstate, State.forwardKind]

end Sys2Proof.Machine
end

section
/-! SUPPORT. Placements (R45) and step commits (R46 to R50, R61 to R63): records that are not stale, and a sweep of the only record. -/


namespace Sys2Proof.Machine

variable {s : State} {id : Nat} {w : Work} {h : HomeRec}

theorem rebaseStale_of_none (hstale : ∀ k, k ∈ s.rse.homes → k.r.state = .queued → s.mustRebase k.r = false) : s.rebaseStale = s := by
  have hnone : (s.rse.homes.filter fun h => decide (h.r.state = .queued) && h.checkOk && h.placing.isNone && !s.changing h
      && s.mustRebase h.r) = [] := by
    refine List.filter_eq_nil_iff.2 fun k hk hall => ?_
    simp only [Bool.and_eq_true, decide_eq_true_eq] at hall
    obtain ⟨⟨⟨⟨hqueued, -⟩, -⟩, -⟩, hrebase⟩ := hall
    simp [hstale k hk hqueued] at hrebase
  rw [State.rebaseStale, hnone]
  rfl

/-- Where offers are allowed and no record is stale, the next record is placed (R45, R194). -/
theorem placementOffer_open (henable : s.flag R.SCH_CTRL_ENABLE = true) (hphase : s.reg R.PHS_PHASE_PHASE = 0) (hturn : s.turning = false)
    (hroom : (s.rse.homes.filter (·.placing.isSome)).length < s.reg R.SCH_PLACE_PLACE_INFLIGHT)
    (hstale : ∀ k, k ∈ s.rse.homes → k.r.state = .queued → s.mustRebase k.r = false) :
    execPlacementOffer s = .next s.placeNext := by
  simp [execPlacementOffer, henable, hphase, hturn, hroom, rebaseStale_of_none hstale]

theorem placeNext_of_pick (hpick : (s.pickClass true).1 = some h) : s.placeNext = (s.pickClass true).2.offerNext h := by
  unfold State.placeNext
  generalize s.pickClass true = picked at *
  obtain ⟨x, u⟩ := picked
  subst hpick
  rfl

/-- Frames reserved, the node has its number. -/
theorem reserve_node (s : State) (id ps frames : Nat) : (s.reserve id ps frames).node = s.node := by
  have hsent : Sent s (s.reserve id ps frames) :=
    Sent.trans (t := s.onPge fun g => { g with reservations := upsert (·.req == id) ⟨id, ps, frames⟩ g.reservations })
      (.of_eq rfl rfl) (sent_watermark _)
  refine hsent.reg R.CAP_NODE_NODE_NUMBER ⟨fun p => nodeNumber_key_ne ?_, by decide, by decide, by decide⟩
  simp only [R.FAB_PORT_TX_BYTES]
  omega

/-- Settles O6: an offer, its answers and their absence each meet the record or the copy they are for. -/
theorem placements : Obligations.Placements := by
  unfold Obligations.Placements
  refine ⟨?empty, ?offer, ?place, ?accept, ?acceptUnknown, ?refused, ?timeout, ?placed, ?recalled, ?cancel, ?doubt⟩
  case empty =>
    intro s henable hphase hturn hhomes hroom
    change execPlacementOffer s = _
    exact placementOffer_open henable hphase hturn (by simpa [hhomes] using hroom) (by simp [hhomes])
  case offer =>
    intro s h target henable hphase hturn hroom hstale hpick htarget
    change execPlacementOffer s = _
    rw [placementOffer_open henable hphase hturn hroom hstale, placeNext_of_pick hpick, State.offerNext, htarget]
    rfl
  case place =>
    intro s s' src m mo hadmit hmodel hsrc
    change execPlace src m s = _
    have hown : (src == s'.node) = true := by simp [hsrc]
    have hreserved : src = (s'.reserve m.r.id m.r.pageSize (s'.framesNeeded m mo true false)).node :=
      hsrc.trans (reserve_node s' _ _ _).symm
    simp only [execPlace, hadmit, hmodel, hown, if_pos hreserved]
  case accept =>
    intro s src id epoch h hh hplacing hok hpending hstate hepoch hroom
    change execPlaceAccept src id epoch s = _
    subst hepoch
    simp [execPlaceAccept, hh, hok, hpending, hplacing, hstate, epochFull_eq_false hroom]
  case acceptUnknown =>
    intro s src id epoch hh
    change execPlaceAccept src id epoch s = _
    simp [execPlaceAccept, hh]
  case refused =>
    intro s src id epoch st h hh hplacing hok
    change execPlaceRefused src id epoch st s = _
    simp [execPlaceRefused, hh, hok, hplacing]
  case timeout =>
    intro s id target epoch h hh hplacing hstate hok hpending
    change execPlaceTimeout id s = _
    simp [execPlaceTimeout, hh, hplacing, hstate, hok, hpending]
  case placed =>
    intro s src id w hw hok hstatus
    change execPlaced src id (w.r.epoch + 1) s = _
    simp only [execPlaced]
    rw [checkCopy_sound (s := s.takeMsg src (.placed id (w.r.epoch + 1))) hw hok]
    simp [hw, hstatus, State.enterPlaced]
    rfl
  case recalled =>
    intro s id w hw hok hrecall howned hpages
    change execRecallComplete id s = _
    simp [execRecallComplete, checkCopy_sound hw hok, hw, hrecall, howned, hpages]
  case cancel =>
    intro s src id w hw hok hstatus
    change execPlaceCancel src id w.r.epoch s = _
    simp only [execPlaceCancel]
    rw [meet_not_lower (s := s.takeMsg src (.placeCancel id w.r.epoch)) hw hok le_rfl]
    simp [hw, hstatus]
  case doubt =>
    intro s id w hw hok hstatus
    change execPlaceInDoubtExpiry id s = _
    simp [execPlaceInDoubtExpiry, hw, hok, hstatus, State.query]

/-! ### A loss at the home -/

@[simp] theorem markUnreachable_homes (s : State) (n : Nat) : (s.markUnreachable n).rse.homes = s.rse.homes := by
  unfold State.markUnreachable
  split <;> rfl

theorem sendMsg_homes (s : State) (dst : Nat) (m : Msg) : (s.sendMsg dst m).rse.homes = s.rse.homes := by
  have hrse : (s.sendMsg dst m).rse = s.rse :=
    (kept_sendMsg (κ := onlyPart .rse) (Kept.refl s) (off_onlyPart (by decide)) dst m).same (p := .rse) rfl
  rw [hrse]

/-- A noted change of the only home record leaves one record, of the noted owner. -/
theorem noteHome_owners {g : HomeRec} (hhomes : s.rse.homes = [h]) (hid : g.r.id = h.r.id) :
    ∃ k, (s.noteHome g).rse.homes = [k] ∧ k.r.owner = g.r.owner := by
  have hput : ∀ k : HomeRec, k.r.id = h.r.id → (s.putHome k).rse.homes = [k] := fun k hk => by
    simp [State.putHome, State.onRse, hhomes, upsert, hk]
  unfold State.noteHome
  split
  · unfold State.mirrorWrite
    rw [sendMsg_homes]
    exact ⟨_, hput _ hid, rfl⟩
  · exact ⟨g, hput g hid, rfl⟩

theorem ownedBy_of_homes {node : Nat} {k : HomeRec} (hhomes : s.rse.homes = [k]) (howner : k.r.owner ≠ node) :
    (s.rse.homes.filter fun h => h.r.owner == node && h.r.state.away) = [] := by
  simp [hhomes, howner]

theorem clearMovePhase_owner (hhomes : s.rse.homes = [h]) :
    ∃ k, (s.clearMovePhase h).rse.homes = [k] ∧ k.r.owner = h.r.owner := noteHome_owners hhomes rfl

/-- The only record's move has lost its source: its phase clears (R55). -/
theorem sourcesLost_only {node : Nat} (hhomes : s.rse.homes = [h]) (hwaits : h.waits = []) (hphase : h.r.movePhase = 2)
    (hsrc : h.moveSrc = node) (hok : h.checkOk = true) :
    (s.rse.homes.filter fun h => h.r.movePhase == 2 && h.moveSrc == node && h.checkOk).foldl State.sourceLost s
      = s.clearMovePhase h := by
  have hfind : s.home? h.r.id = some h := by simp [State.home?, hhomes]
  simp [hhomes, hphase, hsrc, hok, State.sourceLost, hwaits, hfind]

theorem releaseTokens_of_none {gen : Nat} (h : (w.ring.filter fun x => !x.released && decide (x.pos < gen)) = []) :
    s.releaseTokens w gen = s.putWork w := by
  simp only [State.releaseTokens, h]

/-- Settles O7: the step's record, the message's record or the swept records decide what a commit, a report or a loss does. -/
theorem stepCommits : Obligations.StepCommits := by
  unfold Obligations.StepCommits
  refine ⟨?commit, ?record, ?note, ?ack, ?lostStep, ?sweepEmpty, ?unreachable, ?ownerLost, ?sourceLost, ?recovered, ?restarted⟩
  case commit =>
    intro s id w si toks hw hstep hok hcancelled hfailed haccepted hwrites hring
    change execStepCommit id s = _
    simp [execStepCommit, State.tryCommit, hw, hstep, hok, hcancelled, hfailed, haccepted, hwrites, hring.not_gt]
  case record =>
    intro s w si ts hchunk
    simp [State.stepRecord, hchunk]
  case note =>
    intro s src n h hh hepoch howner hok hpending hstate hgen
    change execStepNote src n s = _
    simp [execStepNote, hh, hok, hpending, hepoch, howner, hstate, ReqState.away, hgen]
  case ack =>
    intro s src id gen w hw hok howned hnotes hid hstate hring
    change execStepAck src id w.r.epoch gen s = _
    simp only [execStepAck]
    rw [meet_not_lower (s := s.takeMsg src (.stepAck id w.r.epoch gen)) hw hok le_rfl]
    subst hid
    have hmine : ¬ (w.r.epoch ≠ w.r.epoch ∨ w.status ≠ .owned ∨ (!w.notes.contains gen) = true) := by simp [howned, hnotes]
    have hrest : w.notes.drop (w.notes.idxOf gen + 1) = [] := by simp [hnotes]
    have hmore : ¬ (w.r.state = .done ∧ ([] : List Nat) = []) := by simp [hstate]
    simp only [takeMsg_work_opt, hw]
    rw [if_neg hmine, hrest, releaseTokens_of_none (w := { w with notes := [] }) hring,
      putWork_work (s := s.takeMsg src (.stepAck w.r.id w.r.epoch gen)) { w with notes := [] }]
    exact if_neg hmore
  case lostStep =>
    intro s src id h hh hok hpending howner hstate
    change execLostStep src id h.r.epoch s = _
    simp [execLostStep, hh, hok, hpending, howner, away_decode hstate]
  case sweepEmpty =>
    intro s node hhomes
    change execLossSweep node s = _
    simp [execLossSweep, hhomes, State.ownersLost]
  case unreachable =>
    intro s node hnode
    exact if_neg hnode
  case ownerLost =>
    intro s node h hhomes howner hstate hphase
    change execLossSweep node s = _
    simp [execLossSweep, hhomes, howner, away_decode hstate, hphase, State.ownersLost]
  case sourceLost =>
    intro s node h hhomes howner hsrc hphase hok hwaits
    change execLossSweep node s = _
    have hhomes' : (s.markUnreachable node).rse.homes = [h] := (markUnreachable_homes s node).trans hhomes
    obtain ⟨k, hk, hkowner⟩ := clearMovePhase_owner hhomes'
    simp only [execLossSweep]
    rw [sourcesLost_only hhomes' hwaits hphase hsrc hok, ownedBy_of_homes hk (hkowner ▸ howner)]
    rfl
  case recovered =>
    intro s id h hh hrecovering hwait hrebuilds hown hneeded
    change execRequestRecover id s = _
    simp [execRequestRecover, hh, hrecovering, hwait, hrebuilds, hown, hneeded, ceilDiv]
  case restarted =>
    intro s id h p hh hrecovering hwait hrebuilds hp hmissing
    change execRequestRecover id s = _
    have hany : (s.neededPages h.r).any (fun p => (h.located.find? fun l => l.layer == p.layer && l.firstPos == p.firstPos
        && l.memberNo != 8).isNone) = true := List.any_eq_true.2 ⟨p, hp, by rw [hmissing]; rfl⟩
    simp only [execRequestRecover, hh, hrecovering, hwait, hrebuilds, hany]
    rfl

end Sys2Proof.Machine
end

section
/-! SUPPORT. A node in doubt (R58, R60): the ownership query and the home's answer. -/


namespace Sys2Proof.Machine

variable {s : State} {id : Nat} {w : Work} {h : HomeRec}

theorem query_of_doubt (hdoubt : w.doubt = true) : s.query w
    = (s.putWork w).sendMsg (s.homeNode w.r) (.ownQuery w.r.id w.r.epoch (decide (w.status = .owned)) w.r) := by
  have hkept : { w with doubt := true } = w := by rw [← hdoubt]
  rw [State.query, hkept]

/-- A query that no resynchronisation and no change waits for meets the home's record (R58, R60). -/
theorem ownQuery_home {src epoch : Nat} {committed : Bool} {r : Record} (hishome : s.isHome id = true) (hh : s.home? id = some h)
    (hok : h.checkOk = true) (hresync : (s.rse.resyncNeeded && s.mirrors id) = false) (hpending : s.pendingChange id = false) :
    s.ownQuery src id epoch committed r = if h.r.epoch < epoch || s.claimsOpen id then s.addClaim id ⟨src, epoch, committed, r⟩
      else s.sendMsg src (.ownReply id h.r.epoch h.r.owner) := by
  simp [State.ownQuery, hishome, hh, hok, hresync, hpending]

/-- Settles O5: the home's record, the copy or the claims a message or an expiry meets decide its outcome. That an unanswered question
goes to the home and the deputy in turn is the model's reading (log entry 65). -/
theorem ownershipDoubt : Obligations.OwnershipDoubt := by
  unfold Obligations.OwnershipDoubt
  refine ⟨?answered, ?claimed, ?unreadable, ?mine, ?notMine, ?askDeputy, ?askHome, ?granted, ?resynced, ?resyncRetry, ?restore,
    ?lost⟩
  case answered =>
    intro s src id epoch cm r h hishome hh hepoch hclaims hok hread hresync hpending
    change execOwnQuery src id epoch cm r s = _
    have hanswer : ¬ (decide (h.r.epoch < epoch) || s.claimsOpen id) = true := by simp [hclaims, hepoch]
    refine congrArg Host.Outcome.next ((if_pos hread).trans ?_)
    exact (ownQuery_home (s := s.takeMsg src (.ownQuery id epoch cm r)) hishome hh hok hresync hpending).trans (if_neg hanswer)
  case claimed =>
    intro s src id epoch cm r h hishome hh hclaims hok hread hresync hpending
    change execOwnQuery src id epoch cm r s = _
    have hclaim : (decide (h.r.epoch < epoch) || s.claimsOpen id) = true := by simpa using hclaims
    refine congrArg Host.Outcome.next ((if_pos hread).trans ?_)
    exact (ownQuery_home (s := s.takeMsg src (.ownQuery id epoch cm r)) hishome hh hok hresync hpending).trans (if_pos hclaim)
  case unreadable =>
    intro s src id epoch cm r hread
    have hread' : (s.takeMsg src (.ownQuery id epoch cm r)).readable r = false := hread
    exact congrArg Host.Outcome.next (if_neg (by simp [hread']))
  case mine =>
    intro s src id epoch w hw hok howned hmove hepoch
    subst hepoch
    change execOwnReply src id w.r.epoch s.node s = _
    simp only [execOwnReply]
    rw [checkCopy_sound (s := s.takeMsg src (.ownReply id w.r.epoch s.node)) hw hok]
    simp [hw, howned, hmove]
  case notMine =>
    intro s src id epoch owner w hw hok howner hstatus
    change execOwnReply src id epoch owner s = _
    simp only [execOwnReply]
    rw [checkCopy_sound (s := s.takeMsg src (.ownReply id epoch owner)) hw hok]
    by_cases hlower : epoch < w.r.epoch
    · simp [hw, hlower]
    · simp [hw, hlower, hstatus, howner]
  case askDeputy =>
    intro s id w hw hok hdoubt hhome
    change execOwnQueryRetry id s = _
    simp [execOwnQueryRetry, hw, hok, hdoubt, hhome, query_of_doubt hdoubt]
  case askHome =>
    intro s id w hw hok hdoubt hhome
    change execOwnQueryRetry id s = _
    simp [execOwnQueryRetry, hw, hok, hdoubt, hhome, query_of_doubt hdoubt]
  case granted =>
    intro s id t c hclaim hh hwindow hepoch hroom
    change execClaimWindowExpiry id s = _
    simp [execClaimWindowExpiry, hclaim, hwindow, State.grantClaims, bestClaim, hh, epochFull_eq_false hroom]
  case resynced =>
    intro s hvalid hhomes hheld
    change execResyncReply _ false [] s = _
    simp [execResyncReply, State.fromDeputy, hvalid, hhomes, hheld, State.copyHomes]
  case resyncRetry =>
    intro s
    change execResyncRetry s = _
    by_cases hasks : s.rse.resyncNeeded = true ∧ s.flag R.RSE_DEPUTY_VALID = true
    · simp [execResyncRetry, hasks]
    · exact (if_neg (by simpa using hasks)).trans (congrArg Host.Outcome.next (if_neg hasks).symm)
  case restore =>
    intro s id h hh hok hmirrors hmirrored hbind hrefused
    change execRecordRestore id s = _
    simp [execRecordRestore, hh, hok, hmirrors, hmirrored, hbind, hrefused]
  case lost =>
    intro s id h hh hok hmirrored
    change execRecordRestore id s = _
    simp [execRecordRestore, hh, hok, hmirrored, State.recordLost, home_id hh]

end Sys2Proof.Machine
end

section
/-! SUPPORT. The deputy (R33 to R37, R73): its registers, the changes given up when they are written, and a note undone. -/


namespace Sys2Proof.Machine

variable {s : State} {id seq : Nat} {h : HomeRec}

/-! ### The deputy's registers -/

/-- A flag at bit 32 and a number in the 16 bits from bit 0, written from a word. -/
theorem setRegs_word (s : State) (f g : Fld) (hg : g.width = 16) (v : Nat) :
    s.setRegs [(f, v / 2 ^ 32 % 2 ^ 1), (g, v / 2 ^ 0 % 2 ^ 16)] = s.setRegs [(f, bit (bitAt v 32)), (g, v)] := by
  have hflag : v / 2 ^ 32 % 2 ^ 1 = bit (bitAt v 32) := by
    rw [pow_one, bitAt, bit]
    rcases Nat.mod_two_eq_zero_or_one (v / 2 ^ 32) with hv | hv <;> rw [hv] <;> rfl
  rw [hflag, pow_zero, Nat.div_one]
  simp [State.setRegs, State.setReg, hg]

theorem writeRw_deputy (s : State) (v : Nat) :
    s.writeRw 0x40000 v = s.setRegs [(R.RSE_DEPUTY_VALID, bit (bitAt v 32)), (R.RSE_DEPUTY_NODE, v)] := by
  have hrow : regRowAt 0x40000 = some ⟨"RSE_DEPUTY", 0x40000, 1, 0, 1, 0,
      [⟨"VALID", 32, 1, .rw, 0⟩, ⟨"BOUND", 16, 1, .ro, 0⟩, ⟨"NODE", 0, 16, .rw, 0⟩]⟩ := by decide +kernel
  rw [State.writeRw, hrow]
  exact setRegs_word s _ _ rfl v

theorem writeRw_mirrorHome (s : State) (v : Nat) :
    s.writeRw 0x40008 v = s.setRegs [(R.RSE_MIRROR_HOME_VALID, bit (bitAt v 32)), (R.RSE_MIRROR_HOME_HOME, v)] := by
  have hrow : regRowAt 0x40008 = some ⟨"RSE_MIRROR_HOME", 0x40008, 1, 0, 1, 0,
      [⟨"VALID", 32, 1, .rw, 0⟩, ⟨"HOME", 0, 16, .rw, 0⟩]⟩ := by decide +kernel
  rw [State.writeRw, hrow]
  exact setRegs_word s _ _ rfl v

/-! ### Changes given up (R35) -/

theorem sent_putHome (s : State) (h : HomeRec) : Sent s (s.putHome h) := .of_eq rfl rfl

theorem sent_revert (s : State) (id : Nat) (prior : Option HomeRec) : Sent s (s.revert id prior) := by
  unfold State.revert
  split
  · split
    · exact sent_putHome s _
    · exact sent_putHome s _
  · exact sent_dropHome s id

theorem sent_giveUp (s : State) (p : MirrorPend) : Sent s (s.giveUp p) := by
  have hreply : ∀ rep : ReplyTo, Sent s ((s.revert p.id p.prior).replyTo rep .deputyUnreachable []) := fun rep =>
    (sent_revert s _ _).trans (sent_replyTo _ _ _ _)
  have hdefer : ∀ {u : State} (c : Change), Sent s u → Sent s (match u.home? p.id with
      | some h => u.putHome { h with deferred := some c }
      | none => u) := by
    intro u c hu
    split
    · exact hu.trans (sent_putHome u _)
    · exact hu
  unfold State.giveUp
  cases hc : p.change with
  | note => exact .refl s
  | restore c st => exact .refl s
  | place t => exact sent_revert s _ _
  | move a b => exact sent_revert s _ _
  | submit rep => exact hreply rep
  | resume rep => exact hreply rep
  | reclaim => exact hdefer _ (.refl s)
  | recover n => exact hdefer _ (sent_revert s _ _)
  | restart n => exact hdefer _ (sent_revert s _ _)
  | rebase => exact hdefer _ (sent_revert s _ _)
  | repair l => exact hdefer _ (sent_revert s _ _)

/-- A field below the page engine's registers is none that sending writes. -/
theorem unsent_of_lt {f : Fld} (hf : f.reg < 0x80000) (hlo : f.lo < 64) : f.unsent := by
  have hne : ∀ g : Fld, 0x80000 ≤ g.reg → f.key ≠ g.key := by
    intro g hg hkey
    simp only [Fld.key] at hkey
    omega
  exact ⟨fun p => hne _ (by simp only [R.FAB_PORT_TX_BYTES]; omega), hne _ (by decide), hne _ (by decide), hne _ (by decide)⟩

theorem flag_eq {f : Fld} {b : Bool} (h : s.reg f = bit b) : s.flag f = b := by
  rw [State.flag, h]
  cases b <;> rfl

theorem bit_mod_two (b : Bool) : bit b % 2 ^ 1 = bit b := by cases b <;> rfl

/-- RSE_DEPUTY written, and no change waiting any more (R73). -/
def State.newDeputy (s : State) (v : Nat) : State :=
  ((s.setRegs [(R.RSE_DEPUTY_VALID, bit (bitAt v 32)), (R.RSE_DEPUTY_NODE, v)]).setReg R.RSE_DEPUTY_BOUND 0).onRse fun e =>
    { e with mirrorOut := [] }

/-- The changes that waited for the former deputy given up (R35). -/
def State.leftDeputy (s : State) (v : Nat) : State := s.rse.mirrorOut.foldl State.giveUp (s.newDeputy v)

theorem leftDeputy_fields (s : State) (v : Nat) : (s.leftDeputy v).reg R.RSE_DEPUTY_NODE = v % 65536
    ∧ (s.leftDeputy v).flag R.RSE_DEPUTY_VALID = bitAt v 32 ∧ (s.leftDeputy v).flag R.RSE_DEPUTY_BOUND = false := by
  have hsent : Sent (s.newDeputy v) (s.leftDeputy v) := Sent.foldl sent_giveUp _ _
  have hkept : ∀ {f : Fld}, f.reg < 0x80000 → f.lo < 64 → (s.leftDeputy v).reg f = (s.newDeputy v).reg f := fun hf hlo =>
    hsent.reg _ (unsent_of_lt hf hlo)
  refine ⟨(hkept (by decide) (by decide)).trans ?_, flag_eq ((hkept (by decide) (by decide)).trans ?_),
    flag_eq ((hkept (by decide) (by decide)).trans ?_)⟩
  · exact (reg_setReg_ne (by decide) _ _).trans (reg_setReg_self _ _ _)
  · refine ((reg_setReg_ne (by decide) _ _).trans (reg_setReg_ne (by decide) _ _)).trans ?_
    exact (reg_setReg_self _ _ _).trans (bit_mod_two _)
  · exact reg_setReg_self _ _ _

/-- A write of RSE_DEPUTY: what it gives up, then the new bind or none (R35, R73). -/
theorem deputyWrite_eq (s : State) (v : Nat) : (s.deputyWrite v).1 = if bitAt v 32 then
      ((s.leftDeputy v).onRse fun e => { e with bind := .sent }).sendMsg ((s.leftDeputy v).reg R.RSE_DEPUTY_NODE) .mirrorBind
    else (s.leftDeputy v).onRse fun e => { e with bind := .none, resyncNeeded := false, heldQueries := [] } := by
  obtain ⟨-, hvalid, -⟩ := leftDeputy_fields s v
  have hleft : s.rse.mirrorOut.foldl State.giveUp (((s.setRegs [(R.RSE_DEPUTY_VALID, bit (bitAt v 32)),
      (R.RSE_DEPUTY_NODE, v)]).setReg R.RSE_DEPUTY_BOUND 0).onRse fun e => { e with mirrorOut := [] }) = s.leftDeputy v := rfl
  simp only [State.deputyWrite, writeRw_deputy, hleft, hvalid]
  split <;> rfl

/-- With nothing waiting, nothing is given up. -/
theorem leftDeputy_quiet (v : Nat) (h : s.rse.mirrorOut = []) : s.leftDeputy v
    = (s.setRegs [(R.RSE_DEPUTY_VALID, bit (bitAt v 32)), (R.RSE_DEPUTY_NODE, v)]).setReg R.RSE_DEPUTY_BOUND 0 := by
  have hnone : ∀ u : State, u.rse.mirrorOut = [] → (u.onRse fun e => { e with mirrorOut := [] }) = u := by
    intro u hu
    rw [State.onRse, ← hu]
  rw [State.leftDeputy, h]
  exact hnone _ (by rw [State.setReg, setRegs_eq]; exact h)

/-! ### The mirrored home's register -/

/-- VALID cleared where a home was named: the mirrors held are discarded (R73). -/
theorem mirrorHomeWrite_cleared {v : Nat} (hclear : bitAt v 32 = false) (hvalid : s.flag R.RSE_MIRROR_HOME_VALID = true) :
    (s.mirrorHomeWrite v).1 = (((s.rse.mirrors.filter fun m => (s.home? m.r.id).isNone).map (·.r.id)).foldl State.freeHistory
      (s.setRegs [(R.RSE_MIRROR_HOME_VALID, 0), (R.RSE_MIRROR_HOME_HOME, v)])).onRse fun e => { e with mirrors := [], boundFrom := none }
    := by
  simp only [State.mirrorHomeWrite, writeRw_mirrorHome, hclear, hvalid]
  rfl

/-! ### Mirror writes at the deputy and their answers -/

/-- A reply names the one write of its record in flight; no other is left once it is taken. -/
theorem pend_only {p : MirrorPend} {l : List MirrorPend} (hp : (l.find? fun p => p.id == id && p.seq == seq) = some p)
    (honly : (l.filter fun x => x.id == id) = [p]) :
    ((l.filter fun p => !(p.id == id && p.seq == seq)).find? (·.id == id)) = none := by
  have hmatch : (p.id == id && p.seq == seq) = true := List.find?_some (p := fun p : MirrorPend => p.id == id && p.seq == seq) hp
  refine List.find?_eq_none.2 fun x hx hid => ?_
  obtain ⟨hx, hother⟩ := List.mem_filter.1 hx
  have hxp : x = p := by
    have hmem : x ∈ l.filter fun x => x.id == id := List.mem_filter.2 ⟨hx, hid⟩
    simpa [honly] using hmem
  simp [hxp, hmatch] at hother

theorem heldResume_of_no_home (h : s.home? id = none) : s.heldResume id = s := by
  simp [State.heldResume, h]

/-- A note that the record stands by, with no later write in flight, is undone (R33, R37). -/
theorem undoNote_reverts {p : MirrorPend} {h' k : HomeRec} (hprior : p.prior = some h) (hnext : p.next = some k)
    (hh : s.home? p.id = some h') (hsame : h'.r = k.r) (hfinal : h'.r.state.final = false)
    (hlater : s.rse.mirrorOut.find? (·.id == p.id) = none) :
    s.undoNote p = s.putHome { h with
      r := { h.r with cancelSeen := h.r.cancelSeen || h'.r.cancelSeen, mirrorSeq := h'.r.mirrorSeq }
      waits := h'.waits
      resend := h'.resend
      heldResume := h'.heldResume } := by
  simp only [State.undoNote, hh, Option.any_some, hfinal, Bool.false_eq_true, if_false, hlater, Option.map_some, hnext,
    if_pos (congrArg some hsame), State.revert, hprior]

theorem dropHome_home (s : State) (id : Nat) : (s.dropHome id).home? id = none := by
  simp [State.home?, dropHome_rse]

end Sys2Proof.Machine
end

section
/-! SUPPORT. The deputy (R33 to R39): the statement. -/


namespace Sys2Proof.Machine

variable {s : State} {id seq : Nat} {h : HomeRec}

theorem reachable_congr {t : State} {n : Nat} (hnode : t.node = s.node) (hfab : t.fab = s.fab)
    (hunreachable : t.rse.unreachable = s.rse.unreachable) : t.reachable n = s.reachable n := by
  simp only [State.reachable, State.isUnreachable, State.out?, hnode, hfab, hunreachable]

/-- A home of which the deputy holds no mirror, adopted while it can be reached: the posted adoption changes neither (R39). -/
theorem adoptWrite_reachable {v : Nat} (hadopt : bitAt v 63 = true) (hvalid : s.flag R.RSE_MIRROR_HOME_VALID = true)
    (hmirrors : s.rse.mirrors = []) (hreach : s.reachable (s.reg R.RSE_MIRROR_HOME_HOME) = true) :
    (s.adoptWrite v).1 = ((s.onRse fun e => { e with
        mirrors := []
        boundFrom := none
        probes := []
        adopted := e.adopted ++ [s.reg R.RSE_MIRROR_HOME_HOME] }).setRegs [(R.RSE_ADOPT_ADOPT, 1), (R.RSE_ADOPT_ADOPTED, 1),
          (R.RSE_ADOPT_FORMER_HOME, s.reg R.RSE_MIRROR_HOME_HOME)]).post .homeAdopted 0xFFF
            (formO .ok (s.reg R.RSE_MIRROR_HOME_HOME) 0 0) := by
  have hposted : ∀ (u : State) (a : Nat × Nat) (n : Nat), (u.post .homeAdopted 0xFFF a).reachable n = u.reachable n := by
    intro u a n
    refine reachable_congr (post_node u (by decide) _ _) ?_ (congrArg Rse.unreachable ?_)
    · exact (kept_post_unsent (κ := onlyPart .fab) (off_onlyPart (by decide)) (by decide) u _ a).same (p := .fab) rfl
    · exact (kept_post_unsent (κ := onlyPart .rse) (off_onlyPart (by decide)) (by decide) u _ a).same (p := .rse) rfl
  have hset : ∀ (f : Rse → Rse) (l : List (Fld × Nat)) (n : Nat), (∀ p ∈ l, 8 < p.1.reg) →
      (f s.rse).unreachable = s.rse.unreachable → ((s.onRse f).setRegs l).reachable n = s.reachable n := by
    intro f l n hl hf
    refine reachable_congr (setRegs_node hl) ?_ ?_
    · rw [setRegs_eq]
      rfl
    · rw [setRegs_eq]
      exact hf
  simp only [State.adoptWrite, hadopt, hvalid, hmirrors, List.foldl_nil, Bool.not_true, Bool.false_eq_true, if_false]
  refine if_pos ?_
  rw [hposted]
  refine (hset _ _ _ ?_ ?_).trans hreach
  · simp only [List.forall_mem_cons, List.not_mem_nil, false_implies, implies_true, and_true]
    decide
  · rfl

/-- Settles O4: a bind and a mirror write are answered by what the deputy's registers and mirrors say, and an answer, or its absence, by
the change it names. That RSE_ADOPT.ADOPT with no home named is set and adopts nothing is the model's choice (log entry 84). -/
theorem mirroring : Obligations.Mirroring := by
  unfold Obligations.Mirroring
  refine ⟨?bind, ?accepted, ?copied, ?bindRefused, ?bindRetry, ?deputyOff, ?deputyOn, ?deputyOnOne, ?homeOffKept, ?homeOff, ?adopt,
    ?adoptNone, ?writeUnbound, ?writeUnreadable, ?writeFenced, ?write, ?ackOther, ?ackNote, ?ackTimeout, ?rebase, ?recover,
    ?undone⟩
  case bind =>
    intro s src
    change execMirrorBind src s = _
    by_cases hadopted : src ∈ s.rse.adopted
    · simp [execMirrorBind, hadopted]
    · by_cases hvalid : s.flag R.RSE_MIRROR_HOME_VALID = true
      · by_cases hhome : s.reg R.RSE_MIRROR_HOME_HOME = src
        · simp [execMirrorBind, hadopted, hvalid, hhome]
        · simp [execMirrorBind, hadopted, hvalid, hhome]
      · simp [execMirrorBind, hadopted, hvalid]
  case accepted =>
    intro s hvalid hbind hhomes hresync
    change execMirrorBindAccepted _ s = _
    simp [execMirrorBindAccepted, State.fromDeputy, hvalid, hbind, hhomes, hresync, State.copyHomes]
  case copied =>
    intro s hbind hout hresync
    refine ⟨(s.onRse fun e => { e with bind := .bound }).setReg R.RSE_DEPUTY_BOUND 1, ?_, ?_, rfl, fun f hf => ?_⟩
    · exact if_pos ⟨hbind, hout, hresync⟩
    · exact flag_eq (b := true) (reg_setReg_self _ _ _)
    · exact reg_setReg_ne hf _ _
  case bindRefused =>
    intro s st hvalid hbind hst
    change execMirrorBindRefused _ st s = _
    simp [execMirrorBindRefused, State.fromDeputy, hvalid, hbind, hst]
  case bindRetry =>
    intro s
    change execMirrorBindRetryExpiry s = _
    by_cases hbind : s.rse.bind = .sent
    · simp [execMirrorBindRetryExpiry, hbind]
    · simp [execMirrorBindRetryExpiry, hbind]
  case deputyOff =>
    intro s v hoff
    obtain ⟨hnode, hvalid, hbound⟩ := leftDeputy_fields s v
    refine ⟨(s.leftDeputy v).onRse fun e => { e with bind := .none, resyncNeeded := false, heldQueries := [] }, ?_, hnode,
      hvalid.trans hoff, hbound, fun hout => ?_⟩
    · exact congrArg Host.Outcome.next ((deputyWrite_eq s v).trans (if_neg (by simp [hoff])))
    · rw [leftDeputy_quiet v hout, State.setReg, setRegs_eq]
      rfl
  case deputyOn =>
    intro s v hon hout
    obtain ⟨hnode, -, -⟩ := leftDeputy_fields s v
    refine congrArg Host.Outcome.next ((deputyWrite_eq s v).trans ((if_pos hon).trans ?_))
    rw [hnode, leftDeputy_quiet v hout, hon]
    rfl
  case deputyOnOne =>
    intro s v p hon hout
    refine ⟨s.leftDeputy v, congrArg Host.Outcome.next ((deputyWrite_eq s v).trans (if_pos hon)), ?_⟩
    rw [State.leftDeputy, hout, State.newDeputy, hon]
    rfl
  case homeOffKept =>
    intro s v hoff hvalid hkept
    have hnone : (s.rse.mirrors.filter fun m => (s.home? m.r.id).isNone) = [] :=
      List.filter_eq_nil_iff.2 fun m hm => by simp [Option.isSome_iff_ne_none.1 (hkept m hm)]
    refine ⟨_, congrArg Host.Outcome.next (mirrorHomeWrite_cleared hoff hvalid), ?_⟩
    rw [hnone]
    refine ⟨?_, ?_, ?_⟩
    · exact flag_eq (b := false) ((reg_setReg_ne (by decide) _ _).trans (reg_setReg_self _ _ _))
    · exact reg_setReg_self _ _ _
    · rfl
  case homeOff => exact fun s v hoff hvalid => congrArg Host.Outcome.next (mirrorHomeWrite_cleared hoff hvalid)
  case adopt =>
    intro s v hadopt hvalid hmirrors hreach
    exact congrArg Host.Outcome.next (adoptWrite_reachable hadopt hvalid hmirrors hreach)
  case adoptNone =>
    intro s v hadopt hvalid
    change execRseAdoptWrite v s = _
    simp [execRseAdoptWrite, State.adoptWrite, hadopt, hvalid]
  case writeUnbound =>
    intro s src id seq epoch r hist hbound
    exact if_pos (.inl hbound)
  case writeUnreadable =>
    intro s src id seq epoch r hist hbound hvalid hhome hread
    change execMirrorWrite src id ⟨seq, epoch⟩ (some r) hist s = _
    have hread' : (s.takeMsg src (.mirrorWrite id seq epoch (some r) hist)).readable r = false := hread
    simp [execMirrorWrite, hbound, hvalid, hhome, hread']
  case writeFenced =>
    intro s src id seq epoch r hist m hbound hvalid hhome hread hm hfenced hepoch
    change execMirrorWrite src id ⟨seq, epoch⟩ (some r) hist s = _
    have hread' : (s.takeMsg src (.mirrorWrite id seq epoch (some r) hist)).readable r = true := hread
    simp [execMirrorWrite, hbound, hvalid, hhome, hread', hm, hfenced, hepoch]
  case write =>
    intro s s' src id seq epoch r hist hbound hvalid hhome hread hm hhistory
    change execMirrorWrite src id ⟨seq, epoch⟩ (some r) hist s = _
    have hread' : (s.takeMsg src (.mirrorWrite id seq epoch (some r) hist)).readable r = true := hread
    simp [execMirrorWrite, hbound, hvalid, hhome, hread', hm, hhistory]
  case ackOther =>
    intro s src id seq epoch m hm hother
    subst hm
    change execMirrorAck src id ⟨seq, epoch⟩ s = _
    have hother' : (s.takeMsg src (.mirrorAck id seq epoch)).fromDeputy src = false := hother
    simp [execMirrorAck, hother']
  case ackNote =>
    intro s src id seq epoch p hdeputy hp hnote hh
    change execMirrorAck src id ⟨seq, epoch⟩ s = _
    have hdeputy' : (s.takeMsg src (.mirrorAck id seq epoch)).fromDeputy src = true := hdeputy
    have hgone : ((s.takeMsg src (.mirrorAck id seq epoch)).onRse fun e => { e with
        mirrorOut := e.mirrorOut.filter fun p => !(p.id == id && p.seq == seq) }).home? id = none := hh
    simp only [execMirrorAck, hdeputy', State.takePend, takeMsg_rse, hp, hnote, Change.commits, Bool.and_false]
    exact congrArg Host.Outcome.next (heldResume_of_no_home hgone)
  case ackTimeout =>
    intro s id seq ref p hp hchange hprior
    change execMirrorAckTimeout id seq s = _
    simp [execMirrorAckTimeout, State.takePend, hp, hchange, hprior, State.refuse, State.revert, State.restoreWrite, dropHome_home,
      State.replyTo]
  case rebase =>
    intro s id h hh hok hdeferred hpending
    change execDeferredChangeRetry id s = _
    have hpending' : s.pendingChange id = false := hpending
    simp [execDeferredChangeRetry, hpending', hh, hok, hdeferred]
  case recover =>
    intro s id h lost hh hok hdeferred hpending hepoch
    change execDeferredChangeRetry id s = _
    have hpending' : s.pendingChange id = false := hpending
    simp [execDeferredChangeRetry, hpending', hh, hok, hdeferred, State.recoverCommit, epochFull_eq_false hepoch]
  case undone =>
    intro s src id seq epoch p h h' k hdeputy hp hnote hprior hid hnext hh hsame hfinal honly
    subst hid
    have hlater := pend_only hp honly
    refine ⟨?_, ?_⟩
    · change execMirrorRefused src p.id ⟨seq, epoch⟩ s = _
      have hdeputy' : (s.takeMsg src (.mirrorRefused p.id seq epoch)).fromDeputy src = true := hdeputy
      simp only [execMirrorRefused, hdeputy', State.takePend, takeMsg_rse, hp, hnote, State.undoWrite]
      exact congrArg Host.Outcome.next (undoNote_reverts hprior hnext hh hsame hfinal hlater)
    · change execMirrorFenced src p.id ⟨seq, epoch⟩ s = _
      have hdeputy' : (s.takeMsg src (.mirrorFenced p.id seq epoch)).fromDeputy src = true := hdeputy
      simp only [execMirrorFenced, hdeputy', State.takePend, takeMsg_rse, hp, hnote, State.undoWrite]
      exact congrArg Host.Outcome.next (undoNote_reverts hprior hnext hh hsame hfinal hlater)

end Sys2Proof.Machine
end

section
/-! SUPPORT. The page engine's registers and the pages held for other nodes (chapter 3): the epochs a holder accepts, and a page freed. -/


namespace Sys2Proof.Machine

variable {s : State} {id epoch : Nat} {p : Page}

/-! ### What a taken message leaves -/

@[simp] theorem takeMsg_heldPages (src : Nat) (m : Msg) (i : Nat) : (s.takeMsg src m).heldPages i = s.heldPages i := rfl
@[simp] theorem takeMsg_migration_opt (src : Nat) (m : Msg) (i : Nat) : (s.takeMsg src m).migration? i = s.migration? i := rfl
@[simp] theorem takeMsg_rdBytes (src : Nat) (m : Msg) (mem : Mem) (a n : Nat) :
    (s.takeMsg src m).rdBytes mem a n = s.rdBytes mem a n := by cases mem <;> rfl

/-! ### The epoch of held pages (R83) -/

/-- The state with the held pages of a request at an epoch. -/
def State.raiseEpoch (s : State) (id epoch : Nat) : State := s.onPge fun g => { g with
  pages := g.pages.map fun p => if p.req == id && p.foreign then { p with epoch := epoch } else p }

/-- An epoch not below that of the held pages is accepted and becomes theirs. -/
theorem holderEpoch_of_le (h : ∀ p ∈ s.heldPages id, p.epoch ≤ epoch) : s.holderEpoch id epoch = some (s.raiseEpoch id epoch) := by
  have hfresh : ((s.heldPages id).any fun p => epoch < p.epoch) = false :=
    List.any_eq_false.2 fun p hp => by simpa using h p hp
  simp [State.holderEpoch, hfresh, State.raiseEpoch]

/-- An epoch below that of one held page is stale. -/
theorem holderEpoch_of_lt (hp : p ∈ s.heldPages id) (h : epoch < p.epoch) : s.holderEpoch id epoch = none := by
  have hstale : ((s.heldPages id).any fun p => epoch < p.epoch) = true := List.any_eq_true.2 ⟨p, hp, by simpa using h⟩
  simp [State.holderEpoch, hstale]

theorem mem_heldPages : p ∈ s.heldPages id ↔ p ∈ s.pge.pages ∧ p.req = id ∧ p.foreign = true := by
  simp [State.heldPages]

/-- A message at the epoch the held pages have changes none of them. -/
theorem raiseEpoch_of_eq (h : ∀ p ∈ s.heldPages id, p.epoch = epoch) : s.raiseEpoch id epoch = s := by
  have hsame : (s.pge.pages.map fun p => if p.req == id && p.foreign then { p with epoch := epoch } else p) = s.pge.pages := by
    refine (List.map_congr_left fun p hp => ?_).trans (List.map_id _)
    split
    next hheld => exact congrArg (fun e => { p with epoch := e }) (h p (mem_heldPages.2 ⟨hp, by simpa using hheld⟩)).symm
    · rfl
  simp only [State.raiseEpoch, State.onPge, hsame]

theorem heldPages_only (hpages : s.pge.pages = [p]) (hforeign : p.foreign = true) : s.heldPages p.req = [p] := by
  simp [State.heldPages, hpages, hforeign]

theorem raiseEpoch_only (epoch : Nat) (hpages : s.pge.pages = [p]) (hforeign : p.foreign = true) :
    (s.raiseEpoch p.req epoch).pge.pages = [{ p with epoch := epoch }] := by
  simp [State.raiseEpoch, hpages, hforeign]

theorem holderEpoch_of_eq (h : ∀ p ∈ s.heldPages id, p.epoch = epoch) : s.holderEpoch id epoch = some s := by
  rw [holderEpoch_of_le fun p hp => (h p hp).le, raiseEpoch_of_eq h]

/-- A message at the epoch of the only held page is accepted and changes nothing. -/
theorem holderEpoch_only (hpages : s.pge.pages = [p]) (hforeign : p.foreign = true) : s.holderEpoch p.req p.epoch = some s :=
  holderEpoch_of_eq (by simp [heldPages_only hpages hforeign])

/-! ### What holders are told, at an epoch that is not stale (R91, R92) -/

theorem execPgRenew_of_le (src : Nat) (idxs : List Nat) (h : ∀ p ∈ s.heldPages id, p.epoch ≤ epoch) :
    execPgRenew src id epoch idxs s = .next (((s.takeMsg src (.pgRenew id epoch idxs)).raiseEpoch id epoch).raiseDeadline
      (fun x => x.req == id && x.named idxs) (s.tick + s.reg R.PGE_TTL_LEASE_TICKS)) := by
  simp only [execPgRenew, holderEpoch_of_le (s := s.takeMsg src (.pgRenew id epoch idxs)) h]
  rfl

theorem execPgTtl_of_le (src ticks : Nat) (h : ∀ p ∈ s.heldPages id, p.epoch ≤ epoch) :
    execPgTtl src id epoch ticks s = .next (((s.takeMsg src (.pgTtl id epoch ticks)).raiseEpoch id epoch).raiseDeadline
      (·.req == id) (s.tick + ticks + s.reg R.PGE_TTL_GRACE_TICKS)) := by
  simp only [execPgTtl, holderEpoch_of_le (s := s.takeMsg src (.pgTtl id epoch ticks)) h]
  rfl

/-! ### A page freed (R92) -/

@[simp] theorem watermark_pge : s.watermark.pge = s.pge :=
  (kept_watermark (κ := fun p => decide (p = .pge)) (Kept.refl s) (by unfold Off; decide)).same (p := .pge) rfl

@[simp] theorem refuseAsker_pge (asker : Option (Nat × Nat)) : (s.refuseAsker asker).pge = s.pge :=
  (kept_refuseAsker (κ := fun p => decide (p = .pge)) (Kept.refl s) (by unfold Off; decide) asker).same (p := .pge) rfl

/-- The only page is gone once it is freed, where no query reads it. -/
theorem freePage_only (hpages : s.pge.pages = [p]) (hread : s.beingRead p.idx = false) : (s.freePage p.idx).pge.pages = [] := by
  have hp : s.page? p.idx = some p := by simp [State.page?, hpages]
  simp [State.freePage, hp, hread, State.endMigration, State.invalidate, hpages]

/-- A PG_FREE that names the only held page by its entry frees that entry. -/
theorem execPgFree_only (src : Nat) (hpages : s.pge.pages = [p]) (hforeign : p.foreign = true) (hepoch : p.epoch ≤ epoch) :
    execPgFree src p.req epoch [p.idx] s
      = .next (((s.takeMsg src (.pgFree p.req epoch [p.idx])).raiseEpoch p.req epoch).freePage p.idx) := by
  have hfresh : ∀ x ∈ s.heldPages p.req, x.epoch ≤ epoch := by simpa [heldPages_only hpages hforeign] using hepoch
  have hheld : ((s.takeMsg src (.pgFree p.req epoch [p.idx])).raiseEpoch p.req epoch).heldPages p.req = [{ p with epoch := epoch }] :=
    heldPages_only (p := { p with epoch := epoch }) (raiseEpoch_only epoch hpages hforeign) hforeign
  simp only [execPgFree, holderEpoch_of_le (s := s.takeMsg src (.pgFree p.req epoch [p.idx])) hfresh, hheld]
  simp [Page.named, State.freePages]

end Sys2Proof.Machine
end

section
/-! SUPPORT. The page engine's registers and the pages held for other nodes (chapter 3): the statement. -/


namespace Sys2Proof.Machine

/-- Settles O10: a register write meets its check or leaves the state, and a message meets held pages at its epoch or below. -/
theorem pageRegistersAndHeldPages : Obligations.PageRegistersAndHeldPages := by
  unfold Obligations.PageRegistersAndHeldPages
  refine ⟨?modelCleared, ?modelBad, ?poolEmpty, ?pool, ?poolBad, ?ochre, ?ochreBusy, ?umberSame, ?umberOther, ?umber, ?evict, ?prefixIdle,
    ?renewSent, ?renew, ?ttl, ?renewStale, ?ttlStale, ?free, ?deadline, ?demote⟩
  case modelCleared =>
    intro s m v hm hclear hvalid
    change Host.Outcome.next (s.modelWrite m v).1 = _
    simp [State.modelWrite, Nat.not_le.2 hm, hclear, hvalid]
  case modelBad =>
    intro s m v hm hset helement
    change Host.Outcome.next (s.modelWrite m v).1 = _
    simp [State.modelWrite, Nat.not_le.2 hm, hset, helement]
  case poolEmpty =>
    intro s v hempty
    change Host.Outcome.next (s.poolWrite v).1 = _
    by_cases htaken : s.framesTaken = [] <;> simp [State.poolWrite, hempty.not_gt, htaken]
  case pool =>
    intro s v hreserved htop htaken
    change Host.Outcome.next (s.poolWrite v).1 = _
    simp [State.poolWrite, hreserved, htop.not_gt, htaken]
  case poolBad =>
    intro s v hlimit hbad
    change Host.Outcome.next (s.poolWrite v).1 = _
    simp [State.poolWrite, hlimit, hbad]
  case ochre =>
    intro s addr v haddr hcoded
    change Host.Outcome.next (s.ochreWrite addr v).1 = _
    cases hadmit : s.admitting
    · simp [State.ochreWrite, State.admissionClosed, hadmit, hcoded, haddr]
    · simp [State.ochreWrite, State.admissionClosed, hadmit]
  case ochreBusy =>
    intro s addr v hcoded
    change Host.Outcome.next (s.ochreWrite addr v).1 = _
    simp [State.ochreWrite, hcoded]
  case umberSame =>
    intro s u v hu hvalid hqp hbit
    change Host.Outcome.next (s.umberCtrlWrite u v).1 = _
    simp [State.umberCtrlWrite, Nat.not_le.2 hu, hvalid, hqp, hbit, -Nat.reducePow]
  case umberOther =>
    intro s u v hu hvalid hqp
    change Host.Outcome.next (s.umberCtrlWrite u v).1 = _
    simp [State.umberCtrlWrite, Nat.not_le.2 hu, hvalid, hqp, -Nat.reducePow]
  case umber =>
    intro s addr v
    change Host.Outcome.next (s.umberWrite addr v).1 = _
    simp only [State.umberWrite, Bool.or_eq_true, Bool.not_eq_true']
    split <;> rfl
  case evict =>
    intro s v
    change Host.Outcome.next (s.evictWrite v).1 = _
    simp only [State.evictWrite]
    split <;> rfl
  case prefixIdle =>
    intro s idx p hp
    change execPrefixIdleExpiry idx s = _
    simp only [execPrefixIdleExpiry, hp]
  case renewSent =>
    intro s w p n i hworks howned hhomes hpages hreq hforeign hholders
    change execPgRenewTimer s = _
    simp [execPgRenewTimer, hworks, howned, hhomes, hpages, hreq, hforeign, hholders]
  case renew =>
    intro s src id epoch idxs hfresh
    exact ⟨_, execPgRenew_of_le src idxs hfresh, by simp [State.raiseDeadline, State.raiseEpoch]⟩
  case ttl =>
    intro s src id epoch ticks hfresh
    exact ⟨_, execPgTtl_of_le src ticks hfresh, by simp [State.raiseDeadline, State.raiseEpoch]⟩
  case renewStale =>
    intro s src id epoch idxs p hp hstale
    refine ⟨?_, ?_⟩
    · change execPgRenew src id epoch idxs s = _
      simp only [execPgRenew, holderEpoch_of_lt (s := s.takeMsg src (.pgRenew id epoch idxs)) hp hstale]
    · change execPgFree src id epoch idxs s = _
      simp only [execPgFree, holderEpoch_of_lt (s := s.takeMsg src (.pgFree id epoch idxs)) hp hstale]
  case ttlStale =>
    intro s src id epoch ticks p hp hstale
    change execPgTtl src id epoch ticks s = _
    simp only [execPgTtl, holderEpoch_of_lt (s := s.takeMsg src (.pgTtl id epoch ticks)) hp hstale]
  case free =>
    intro s src id epoch i p hpages hreq hforeign hidx hepoch hread
    subst hreq hidx
    exact ⟨_, execPgFree_only src hpages hforeign hepoch,
      freePage_only (p := { p with epoch := epoch }) (raiseEpoch_only epoch hpages hforeign) hread⟩
  case deadline =>
    intro s p hpages hforeign hdeadline hfreeing hread
    have hexpired : s.expired = [p] := by simp [State.expired, hpages, hforeign, hdeadline, hfreeing]
    change execPageDeadlineCheck s = _
    simp [execPageDeadlineCheck, hexpired, State.orphans, State.freePages, hread, State.postOrphan]
  case demote =>
    intro s idx p hp hforeign hframe hmigrating hfreeing hroom hidle hslot
    change execDemoteIdleExpiry idx s = _
    simp [execDemoteIdleExpiry, hp, hforeign, hframe, hmigrating, hfreeing, hroom, hidle, -Nat.reducePow]

end Sys2Proof.Machine
end

section
/-! SUPPORT. Page migrations, write-through and recovery (R93 to R102): the statement, and where an owner reports. -/


namespace Sys2Proof.Machine

variable {s : State}

/-- A message taken and a working copy put back change nothing that says where the owner reports. -/
theorem homeNode_takeMsg_putWork (src : Nat) (m : Msg) (w : Work) (r : Record) :
    ((s.takeMsg src m).putWork w).homeNode r = s.homeNode r := by
  simp only [State.homeNode, State.isHome, State.reachable, State.isUnreachable, State.out?, State.putWork]
  rfl

/-- Settles O11: the migration or the page that a message meets decides what it does. -/
theorem pageMigrations : Obligations.PageMigrations := by
  unfold Obligations.PageMigrations
  refine ⟨?retire, ?migrating, ?copyBad, ?copy, ?ack, ?refusedTwice, ?refused, ?writeThrough, ?parity, ?parityAck, ?throughAck, ?aborted,
    ?locate, ?located⟩
  case retire =>
    intro s idx f g p hp hmigrating hroom hloc hlimit hfreeing hread hmay hframe
    change execMigrationStart idx .retire s = _
    simp [execMigrationStart, hp, hmigrating, hfreeing, State.migRoom, hroom, State.startMigration, State.retirePage, hloc, hlimit.not_gt,
      hread, hmay, hframe]
  case migrating =>
    intro s idx why p hp hmigrating
    change execMigrationStart idx why s = _
    simp [execMigrationStart, hp, hmigrating]
  case copyBad =>
    intro s src idx p data hforeign hcrc
    change execMigrationCopy src idx p data s = _
    simp [execMigrationCopy, hforeign, State.holdPage, hcrc]
  case copy =>
    intro s src idx f p q m data hforeign hidx hm htarget hq hcoded hcrc
    change execMigrationCopy src idx p data s = _
    simp [execMigrationCopy, hforeign, hidx.not_ge, hm, hq, State.recalled, htarget, MigTarget.frame?, hcrc, hcoded, -Nat.reducePow]
  case ack =>
    intro s src idx index a b p m hidx hm haborted hp htarget
    change execMigrationAck src idx index s = _
    simp [execMigrationAck, hidx.not_ge, haborted, hm, hp, htarget, -Nat.reducePow]
  case refusedTwice =>
    intro s src idx a b p m hidx hm haborted hp htarget hretried
    change execMigrationRefused src idx .poisonRead s = _
    simp [execMigrationRefused, hidx.not_ge, haborted, hm, hp, htarget, hretried, -Nat.reducePow]
  case refused =>
    intro s src idx a b st p m hidx hm haborted hp htarget hwhy hst
    change execMigrationRefused src idx st s = _
    simp [execMigrationRefused, hidx.not_ge, haborted, hm, hp, htarget, hwhy, hst, -Nat.reducePow]
  case writeThrough =>
    intro s src id epoch idx offset tag f data p hpages hidx hreq hforeign hepoch hloc
    subst hidx hreq hepoch
    have hp : s.page? p.idx = some p := by simp [State.page?, hpages]
    refine ⟨_, ?_, rfl⟩
    change execWriteThrough src p.req p.epoch p.idx offset tag data s = _
    simp only [execWriteThrough, holderEpoch_only (s := s.takeMsg src (.writeThrough p.req p.epoch p.idx offset tag data)) hpages hforeign,
      takeMsg_page_opt, hp, hloc, takeMsg_rdBytes]
    rfl
  case parity =>
    intro s src id epoch group offset tag f delta p hpages hreq hforeign hepoch hkind hgroup hloc
    subst hreq hepoch hgroup
    change execParityUpdate src p.req p.epoch p.group offset tag delta s = _
    simp only [execParityUpdate,
      holderEpoch_only (s := s.takeMsg src (.parityUpdate p.req p.epoch p.group offset tag delta)) hpages hforeign]
    simp [State.parityPage, hpages, hforeign, hkind, hloc]
  case parityAck =>
    intro s src id tag p hpends hnode hreq htag hwrite
    change execWriteThroughAck src id tag s = _
    simp [execWriteThroughAck, hpends, hnode, hreq, htag, hwrite, State.onPge, dropFirst]
  case throughAck =>
    intro s src id tag w hpends hw hwait hid
    change execWriteThroughAck src id tag s = _
    simp [execWriteThroughAck, hpends, State.throughAck, hw, hwait, State.sendNote, homeNode_takeMsg_putWork, hid]
  case aborted =>
    intro s src idx index id e hidx haborted
    change execMigrationAck src idx index s = _
    simp [execMigrationAck, hidx.not_ge, haborted, State.freeAborted, State.onPge, -Nat.reducePow]
  case locate =>
    intro s src id epoch hpages
    have hheld : s.heldPages id = [] := by simp [State.heldPages, hpages]
    change execPgLocate src id epoch s = _
    simp only [execPgLocate, holderEpoch_of_eq (s := s.takeMsg src (.pgLocate id epoch)) (id := id) (epoch := epoch) (by simp [hheld])]
    simp [hheld]
  case located =>
    intro s src id n ps h hh hrecovering hwait hn
    change execPgLocateReply src id ps s = _
    simp [execPgLocateReply, hh, hrecovering, hwait, hn]

end Sys2Proof.Machine
end

section
/-! SUPPORT. Mezzotint (chapter 4): an instruction that issues, the messages an owner has outstanding, and what a holder does with a
query or a KV write it accepts. -/


namespace Sys2Proof.Machine

variable {s : State} {src : Nat} {p : Page}

/-! ### An instruction issued (R126) -/

/-- A core that is ready issues its instruction with its PC past it. -/
theorem issue_of_issues {n : Nat} {o : Opc} {w : Word128} (h : Issues s n o w) (f : State → Core → Word128 → State) :
    s.issue n o f = f (s.advance n) (s.pastCore n) w := by
  obtain ⟨hpower, hwait, hstopped, hsquash, hw, hpoison, hop, hcode, hrsvd, -⟩ := h
  have hdefined : Opc.ofCode o.code ≠ none := by simpa [hcode, Option.isSome_iff_ne_none] using hop
  simp [State.issue, ← hw, hpower, hwait, hstopped, hsquash, hpoison, hdefined, hcode, hrsvd, State.advance, State.pastCore]

theorem pastCore_num {n : Nat} {o : Opc} {w : Word128} (h : Issues s n o w) : (s.pastCore n).num = n := by
  obtain ⟨-, -, -, -, -, -, -, -, -, hnum⟩ := h
  exact hnum

@[simp] theorem advance_model_opt (n i : Nat) : (s.advance n).model? i = s.model? i := rfl
@[simp] theorem advance_kvPages (n i : Nat) : (s.advance n).kvPages i = s.kvPages i := rfl

theorem mztOwned_advance {id : Nat} {k : Work} (hk : s.work? id = some k) (howned : k.status = .owned) (n : Nat) :
    (s.advance n).mztOwned id = some k := by
  have hk' : (s.advance n).work? id = some k := hk
  simp [State.mztOwned, hk', howned]

/-! ### The messages an owner has outstanding (R107, R120, R123) -/

@[simp] theorem deschedule_mzt (c : Core) (w : CoreWait) (done : Nat) : (s.deschedule c w done).mzt = s.mzt := rfl
@[simp] theorem deschedule_isUnreachable (c : Core) (w : CoreWait) (done dst : Nat) :
    (s.deschedule c w done).isUnreachable dst = s.isUnreachable dst := rfl

@[simp] theorem bump_mzt (f : Fld) : (s.bump f).mzt = s.mzt :=
  (kept_bump (κ := fun p => decide (p = .mzt)) (Kept.refl s) (by unfold Off; decide) f).same (p := .mzt) rfl

/-- An instruction's one query waits to be sent. -/
theorem mztStart_query {o : MztOut} (c : Core) (done id : Nat) (hreach : s.isUnreachable o.holder = false) (hquery : o.query = true) :
    s.mztStart c done id [o] = ((s.deschedule c .mzt done).onMzt fun m => { m with waiting := m.waiting ++ [o] }).mztNext := by
  simp [State.mztStart, hreach, hquery]

/-- A query queued to be sent where no other waits. -/
theorem onMzt_waiting {o : MztOut} (hwaiting : s.mzt.waiting = []) :
    (s.onMzt fun m => { m with waiting := m.waiting ++ [o] }) = s.onMzt fun m => { m with waiting := [o] } := by
  simp [State.onMzt, hwaiting]

/-- The one query that waits goes out where none is outstanding. -/
theorem mztNext_one {o : MztOut} (hwaiting : s.mzt.waiting = [o]) (houts : s.mzt.outs = [])
    (hmax : 0 < s.reg R.MZT_LIMITS_MAX_OUTSTANDING) :
    s.mztNext = ((s.onMzt fun m => { m with waiting := [] }).mztSend o).mztGoOn := by
  simp [State.mztNext, State.mztPump, hwaiting, State.mztOutstanding, houts, hmax.ne']

theorem mztNext_of_none (hwaiting : s.mzt.waiting = []) : s.mztNext = s.mztGoOn := by
  simp [State.mztNext, State.mztPump, hwaiting]

/-- The only message outstanding is the one an answer with its TAG from its holder is for. -/
theorem mztOut_only {o : MztOut} (houts : s.mzt.outs = [o]) (hbusy : o.busy = false) :
    s.mztOut? o.holder o.tag o.query = some o := by
  simp [State.mztOut?, houts, hbusy]

theorem dropOut_only {o : MztOut} (houts : s.mzt.outs = [o]) : s.dropOut o = s.onMzt fun m => { m with outs := [] } := by
  simp [State.dropOut, State.onMzt, houts]

/-! ### A query at its holder (R105, R106, R115 to R118) -/

/-- A holder once a query or a KV write has come to it (R216). -/
def State.atHolder (s : State) : State := s.onPhs fun p => { p with holderAt := s.aon }

/-- A query that passes the checks before that of its epoch, at a node that serves it (Table 4.3). -/
structure State.Answerable (s : State) (q : MztMsg) : Prop where
  check : q.checkOk .query = true
  transit : s.transitOnly = false
  serves : s.mztServes = true
  running : s.mztRunning = true
  format : q.format = 1
  fields : q.fieldsOk = true
  length : q.payload.length = q.queryBytes

@[simp] theorem onPhs_mztServes (f : Phs → Phs) : (s.onPhs f).mztServes = s.mztServes := rfl
@[simp] theorem onPhs_mztRunning (f : Phs → Phs) : (s.onPhs f).mztRunning = s.mztRunning := rfl
@[simp] theorem onPhs_queryPages (f : Phs → Phs) (q : MztMsg) : (s.onPhs f).queryPages q = s.queryPages q := rfl
@[simp] theorem onPhs_needsRecall (f : Phs → Phs) (q : MztMsg) : (s.onPhs f).needsRecall q = s.needsRecall q := rfl

@[simp] theorem onPhs_holderEpoch (f : Phs → Phs) (id epoch : Nat) :
    (s.onPhs f).holderEpoch id epoch = (s.holderEpoch id epoch).map (·.onPhs f) := by
  have hheld : (s.onPhs f).heldPages id = s.heldPages id := rfl
  simp only [State.holderEpoch, hheld]
  split <;> rfl

theorem mztQuery_absent {q : MztMsg} (hcheck : q.checkOk .query = true) (htransit : s.transitOnly = false) (hserves : s.mztServes = false) :
    s.mztQuery src q = s.atHolder.refuseQuery src q .unitAbsent := by
  simp [State.mztQuery, hcheck, htransit, hserves, State.atHolder]

theorem mztQuery_stale {q : MztMsg} (hq : s.Answerable q) (hp : p ∈ s.heldPages q.req) (hstale : q.epoch < p.epoch) :
    s.mztQuery src q = s.atHolder.refuseQuery src q .epochStale := by
  simp [State.mztQuery, hq.check, hq.transit, hq.serves, hq.running, hq.format, hq.fields, hq.length, holderEpoch_of_lt hp hstale,
    State.atHolder]

/-- A query whose pages are held, at its epoch and on T0, is queued (R115). -/
theorem mztQuery_queued {q : MztMsg} (hq : s.Answerable q) (hepoch : ∀ p ∈ s.heldPages q.req, p.epoch = q.epoch)
    (hpages : s.queryPages q = none) (hrecall : s.needsRecall q = false) (hroom : s.mzt.queue.length < s.reg R.MZT_LIMITS_QUEUE_DEPTH) :
    s.mztQuery src q
      = (s.atHolder.onMzt fun m => { m with queue := m.queue ++ [⟨src, q, none⟩] }).mztBegin (s.mzt.queue.length + 1) := by
  simp [State.mztQuery, hq.check, hq.transit, hq.serves, hq.running, hq.format, hq.fields, hq.length, holderEpoch_of_eq hepoch, hpages,
    hrecall, hroom.not_ge, State.atHolder]

/-- The only query of the queue is the one served next, whether or not it runs. -/
theorem mztFront_only {x : MztQueued} (hqueue : s.mzt.queue = [x]) : s.mztFront = some x := by
  cases hreading : x.reading.isSome <;> cases hlc : x.q.lc <;> simp [State.mztFront, hqueue, hreading, hlc]

@[simp] theorem serveOn_mzt : s.serveOn.mzt = s.mzt :=
  (kept_serveOn (κ := fun p => decide (p = .mzt)) (Kept.refl s) (by unfold Off; decide)).same (p := .mzt) rfl

/-- The only query of the queue begins to read its pages where the checks of its arrival still hold. -/
theorem mztBegin_only {x : MztQueued} (hqueue : s.mzt.queue = [x]) (hreading : x.reading = none) (hserves : s.mztServes = true)
    (hrunning : s.mztRunning = true) (hfresh : ∀ p ∈ s.heldPages x.q.req, p.epoch ≤ x.q.epoch) (hpages : s.queryPages x.q = none)
    (hrecall : s.needsRecall x.q = false) (n : Nat) :
    ∃ ps : List Page, (s.mztBegin (n + 1)).mzt.queue = [{ x with reading := some ps }]
      ∧ ps.map (·.idx) = (s.readPages x.q).map (·.idx) := by
  have hstale : ((s.heldPages x.q.req).any fun p => x.q.epoch < p.epoch) = false :=
    List.any_eq_false.2 fun p hp => by simpa using hfresh p hp
  refine ⟨(s.readPages x.q).map fun p => { p with loc := ((s.frameOf p).map PageLoc.t0).getD p.loc }, ?_, by simp⟩
  simp [State.mztBegin, mztFront_only hqueue, hreading, hserves, hrunning, hstale, hpages, hrecall, hqueue]

/-- A holder that has computed a query which runs, and has not yet sent its answer (R117). -/
def State.computed (s : State) (x : MztQueued) (ps : List Page) : State :=
  let k := ((s.partialOf x.q ps).run { fresh := s.fresh }).2
  ((((s.setFresh (k.fresh + 1)).arith (s.mztCores.getD (Config.choice k.fresh % s.mztCores.length) 0) k.flags).touchRead x.q ps).bump
    R.MZT_SERVE_STATS_SERVED).count R.MZT_BYTES_KV_BYTES (x.q.kvRead ps)

/-- A query that runs at a holder that still serves it, and reads no poison, is answered with its partial (R117, R118). -/
theorem serveQuery_served {x : MztQueued} {ps : List Page} (hserves : s.mztServes = true) (hrunning : s.mztRunning = true)
    (hfresh : (s.heldPages x.q.req).any (fun p => x.q.epoch < p.epoch) = false) (hpoison : ps.any (s.readsPoison x.q) = false) :
    s.serveQuery x ps = (s.computed x ps).sendMsg x.src
      (.mztPartial (x.q.partial_ .ok ps.length ((s.partialOf x.q ps).run { fresh := s.fresh }).1)) := by
  simp only [State.serveQuery, hserves, hrunning, hfresh, hpoison]
  rfl

/-- What a query computes is in no memory of the holder, nor in its queue. -/
theorem computed_keeps (x : MztQueued) (ps : List Page) : (s.computed x ps).mzt = s.mzt ∧ (s.computed x ps).hbm = s.hbm := by
  have hκ : ∀ {l : List Part}, .mem ∉ l → .mzt ∉ l → Off (fun p => decide (p = .mem ∨ p = .mzt)) l := by
    intro l hmem hmzt p hp
    simpa using ⟨fun h => hmem (h ▸ hp), fun h => hmzt (h ▸ hp)⟩
  have hkept : Kept (fun p => decide (p = .mem ∨ p = .mzt)) s (s.computed x ps) :=
    kept_count (kept_bump (kept_touchRead (kept_arith (kept_setFresh (Kept.refl s) _) (hκ (by decide) (by decide)) _ _)
      (hκ (by decide) (by decide)) _ _) (hκ (by decide) (by decide)) _) (hκ (by decide) (by decide)) _ _
  have hmem := hkept.same (p := .mem) rfl
  simp only [Part.same, Prod.mk.injEq] at hmem
  exact ⟨hkept.same (p := .mzt) rfl, hmem.1⟩

/-! ### A KV write at its holder (R113, R114) -/

@[simp] theorem onPhs_layerPages (f : Phs → Phs) (id layer : Nat) : (s.onPhs f).layerPages id layer = s.layerPages id layer := rfl

@[simp] theorem wr_tick (m : Mem) (a : Nat) (bs : List Byte) : (s.wr m a bs).tick = s.tick := by cases m <;> rfl

/-- A position lies in a page. -/
def Page.holds (p : Page) (pos : Nat) : Bool := p.firstPos ≤ pos && pos < p.firstPos + p.slots

/-- Bytes of KV of one position and half of a page. -/
def Page.posBytes (p : Page) : Nat := p.kvHeads * p.headDim * elemBytes p.element

/-- A KV write at the epoch of the held pages whose position lies in none of them (log entry 88). -/
theorem kvWrite_missing {m : MztMsg} (hcheck : m.checkOk .kvWrite = true) (htransit : s.transitOnly = false)
    (hepoch : ∀ p ∈ s.heldPages m.req, p.epoch = m.epoch)
    (hnone : (s.layerPages m.req m.layer).find? (·.holds m.basePos) = none) :
    s.kvWrite src m = (s.atHolder.bump R.MZT_ERR_STATS_MISSING).sendMsg src (.mztKvAck (m.kvAck .pageMissing)) := by
  simp only [Page.holds] at hnone
  simp [-List.find?_eq_none, State.kvWrite, hcheck, htransit, holderEpoch_of_eq hepoch, hnone, State.sendKvAck, State.atHolder]

/-- A page once a KV write's two halves, of `n` bytes each, have been written into its frame. -/
def State.kvWritten (s : State) (p : Page) (f n : Nat) (m : MztMsg) : State :=
  let a := (m.basePos - p.firstPos) * p.posBytes
  ((s.wr .hbm (16384 * f + a) (m.payload.take n)).wr .hbm (16384 * f + (p.slots * p.posBytes + a))
    ((m.payload.drop (m.payload.length / 2)).take n)).putPage { p with lastUse := s.tick % 2 ^ 24 }

/-- A KV write to an uncoded page on T0 is written and acknowledged. -/
theorem kvWrite_written {m : MztMsg} {f : Nat} (hcheck : m.checkOk .kvWrite = true) (htransit : s.transitOnly = false)
    (hepoch : ∀ p ∈ s.heldPages m.req, p.epoch = m.epoch)
    (hfind : (s.layerPages m.req m.layer).find? (·.holds m.basePos) = some p) (hloc : p.loc = .t0 f) (hcoded : p.coded = false) :
    s.kvWrite src m = (s.atHolder.kvWritten p f (min (m.payload.length / 2) ((p.firstPos + p.slots - m.basePos) * p.posBytes))
      m).sendMsg src (.mztKvAck (m.kvAck .ok)) := by
  simp only [Page.holds] at hfind
  simp [State.kvWrite, hcheck, htransit, holderEpoch_of_eq hepoch, hfind, State.frameOf, hloc, hcoded, State.sendKvAck, State.atHolder,
    State.kvWritten, Page.posBytes]

theorem kvWritten_hbm (f n : Nat) (m : MztMsg) : (s.kvWritten p f n m).hbm =
    writeCells (writeCells s.hbm (16384 * f + (m.basePos - p.firstPos) * p.posBytes) (m.payload.take n))
      (16384 * f + (p.slots * p.posBytes + (m.basePos - p.firstPos) * p.posBytes))
      ((m.payload.drop (m.payload.length / 2)).take n) := rfl

end Sys2Proof.Machine
end

section
/-! SUPPORT. Mezzotint (chapter 4): the statement. -/


namespace Sys2Proof.Machine

/-- Settles O12: a holder answers a message by the first check it fails, and an answer meets the one message outstanding that it is for.
That a KV_WRITE in no held page is answered ST_PAGE_MISSING (log entry 88), and that an MZT_CTRL write which repeats CONTEXT is no write
of it (log entry 72), are the model's choices. -/
theorem mezzotint : Obligations.Mezzotint := by
  unfold Obligations.Mezzotint
  refine ⟨?queryCheck, ?writeCheck, ?queryBehind, ?queryAbsent, ?queryTaken, ?queryStale, ?doneAbsent, ?doneServed, ?writeMissing,
    ?writeHeld, ?ctrlSame, ?ctrlBad, ?cores, ?config, ?mzquery, ?mzwriteNone, ?mzwriteOne, ?start, ?ackLate, ?partialLate, ?ack,
    ?partialOk, ?busyRetry, ?timeout⟩
  case queryCheck =>
    intro s src q hcheck hbehind
    change execMztQuery src q s = _
    simp [execMztQuery, hbehind, State.mztQuery, hcheck]
  case writeCheck =>
    intro s src q hcheck hbehind
    change execMztKvWrite src q s = _
    simp [execMztKvWrite, hbehind, State.kvWrite, hcheck]
  case queryBehind =>
    intro s src q hin hbehind
    change execMztQuery src q s = _
    simp [execMztQuery, hbehind, State.keepMsg, hin]
  case queryAbsent =>
    intro s src q hcheck hbehind htransit hserves
    change execMztQuery src q s = _
    simp only [execMztQuery, hbehind, mztQuery_absent (s := s.takeMsg src (.mztQuery q)) hcheck htransit hserves]
    rfl
  case queryTaken =>
    intro s src q p hcheck hbehind htransit hserves hrunning hformat hfields hlength hheld hepoch hpages hrecall hqueue hdepth
    have hq : (s.takeMsg src (.mztQuery q)).Answerable q := ⟨hcheck, htransit, hserves, hrunning, hformat, hfields, hlength⟩
    have hat : ∀ p ∈ s.heldPages q.req, p.epoch = q.epoch := by simpa [hheld] using hepoch
    have hroom : s.mzt.queue.length < s.reg R.MZT_LIMITS_QUEUE_DEPTH := by simpa [hqueue] using hdepth
    obtain ⟨ps, hbegun, hread⟩ := mztBegin_only (s := (s.takeMsg src (.mztQuery q)).atHolder.onMzt fun m => { m with
      queue := m.queue ++ [⟨src, q, none⟩] }) (x := ⟨src, q, none⟩) (by simp [State.atHolder, hqueue]) rfl hserves hrunning
      (fun p hp => (hat p hp).le) hpages hrecall s.mzt.queue.length
    refine ⟨_, ps, ?_, hbegun, hread⟩
    change execMztQuery src q s = _
    simp only [execMztQuery, hbehind, mztQuery_queued hq hat hpages hrecall hroom]
    rfl
  case queryStale =>
    intro s src q p hcheck hbehind htransit hserves hrunning hformat hfields hlength hheld hepoch
    have hq : (s.takeMsg src (.mztQuery q)).Answerable q := ⟨hcheck, htransit, hserves, hrunning, hformat, hfields, hlength⟩
    have hp : p ∈ s.heldPages q.req := by simp [hheld]
    change execMztQuery src q s = _
    simp only [execMztQuery, hbehind, mztQuery_stale hq hp hepoch]
    rfl
  case doneAbsent =>
    intro s x ps hqueue hreading hserves
    change execMztQueryDone s = _
    simp [execMztQueryDone, mztFront_only hqueue, hreading, State.serveQuery, hserves]
  case doneServed =>
    intro s x ps hqueue hreading hserves hrunning hfresh hpoison
    refine ⟨s.computed x ps, ((s.partialOf x.q ps).run { fresh := s.fresh }).1, ?_, computed_keeps x ps⟩
    change execMztQueryDone s = _
    simp only [execMztQueryDone, mztFront_only hqueue, hreading, serveQuery_served hserves hrunning hfresh hpoison]
  case writeMissing =>
    intro s src m hcheck hbehind htransit hpages
    change execMztKvWrite src m s = _
    simp only [execMztKvWrite, hbehind, kvWrite_missing (s := s.takeMsg src (.mztKvWrite m)) hcheck htransit
      (by simp [State.heldPages, hpages]) (by simp [State.layerPages, State.heldPages, hpages])]
    rfl
  case writeHeld =>
    intro s src f L per m p hcheck hbehind htransit hpages hreq hforeign hkind hepoch hlayer hloc hcoded hfirst hlast hlength hper hroom
    subst hper
    have hheld : s.heldPages m.req = [p] := hreq ▸ heldPages_only hpages hforeign
    have hfind : (s.layerPages m.req m.layer).find? (·.holds m.basePos) = some p := by
      simp [State.layerPages, hheld, hkind, hlayer, Page.holds, hfirst, hlast]
    have hhalf : m.payload.length / 2 = L := by omega
    have hwhole : min L ((p.firstPos + p.slots - m.basePos) * p.posBytes) = L := min_eq_left hroom
    refine ⟨(s.takeMsg src (.mztKvWrite m)).atHolder.kvWritten p f L m, ?_, ?_⟩
    · change execMztKvWrite src m s = _
      simp only [execMztKvWrite, hbehind, kvWrite_written (s := s.takeMsg src (.mztKvWrite m)) hcheck htransit
        (by simp [hheld, hepoch]) hfind hloc hcoded, hhalf, hwhole]
      rfl
    · rw [kvWritten_hbm, hhalf]
      rfl
  case ctrlSame =>
    intro s v hclear hsame
    change Host.Outcome.next (s.mztCtrlWrite v).1 = _
    simp [State.mztCtrlWrite, hclear, hsame]
  case ctrlBad =>
    intro s v hset hmay
    change Host.Outcome.next (s.mztCtrlWrite v).1 = _
    simp only [State.mztCtrlWrite, hset, hmay]
    split <;> rfl
  case cores =>
    intro s hi v
    change Host.Outcome.next (s.mztCoresWrite hi v).1 = _
    simp only [State.mztCoresWrite, State.mztStill, Bool.and_eq_true, Bool.not_eq_true', List.isEmpty_iff]
    split <;> rfl
  case config =>
    intro s addr v
    change Host.Outcome.next (s.mztConfigWrite addr v).1 = _
    simp only [State.mztConfigWrite]
    split <;> rfl
  case mzquery =>
    intro s n off h i w d k mo p hissues hoff hd hheld hk howned hfields hmodel hid hkvHeads hheadDim hbase hpages hlayer hloc hroom
    have hnum := pastCore_num hissues
    change Host.Outcome.next (s.issue n .mzquery State.mzQuery) = _
    rw [issue_of_issues hissues]
    simp [State.mzQuery, hnum, ← hoff, ← hd, hheld, mztOwned_advance hk howned, hpages, hlayer, hloc, hfields, hmodel, hid,
      hkvHeads, hheadDim, hbase, hroom]
  case mzwriteNone =>
    intro s n off w d k mo hissues hoff hd hheld hk howned hmodel hrows hid hkvHeads hheadDim hroom hpages
    have hnum := pastCore_num hissues
    change Host.Outcome.next (s.issue n .mzwrite State.mzWrite) = _
    rw [issue_of_issues hissues]
    simp [State.mzWrite, hnum, ← hoff, ← hd, hheld, mztOwned_advance hk howned, hpages, hmodel, hid,
      hkvHeads, hheadDim, hrows, hroom, State.mztStart]
  case mzwriteOne =>
    intro s n off h i w d k mo p hissues hoff hd hheld hk howned hmodel hrows hid hkvHeads hheadDim hroom hpages hlayer hloc hfirst hlast
    have hslots : 0 < p.slots := by omega
    have hnum := pastCore_num hissues
    change Host.Outcome.next (s.issue n .mzwrite State.mzWrite) = _
    rw [issue_of_issues hissues]
    simp [State.mzWrite, hnum, ← hoff, ← hd, hheld, mztOwned_advance hk howned, hpages, hmodel, hid,
      hkvHeads, hheadDim, hrows, hroom, hloc, hlayer, hfirst, hlast, hslots]
  case start =>
    intro s c done id o hreach hquery hwaiting houts hmax
    have hwaits : (s.deschedule c .mzt done).mzt.waiting = [] := hwaiting
    rw [mztStart_query c done id hreach hquery, onMzt_waiting hwaits]
    exact mztNext_one (s := (s.deschedule c .mzt done).onMzt fun m => { m with waiting := [o] }) rfl houts hmax
  case ackLate =>
    intro s src m hcheck houts
    change Host.Outcome.next ((s.takeMsg src (.mztKvAck m)).mztAck src m) = _
    simp [State.mztAck, hcheck, State.mztOut?, houts]
  case partialLate =>
    intro s src m hcheck houts
    change Host.Outcome.next ((s.takeMsg src (.mztPartial m)).mztPartial src m) = _
    simp [State.mztPartial, hcheck, State.mztOut?, houts]
  case ack =>
    intro s m o hcheck houts htag hquery hbusy hstatus hwaiting
    have hout : (s.takeMsg o.holder (.mztKvAck m)).mztOut? o.holder m.tag false = some o := htag ▸ hquery ▸ mztOut_only houts hbusy
    change Host.Outcome.next ((s.takeMsg o.holder (.mztKvAck m)).mztAck o.holder m) = _
    simp [State.mztAck, hcheck, hout, hstatus, dropOut_only (s := s.takeMsg o.holder (.mztKvAck m)) houts, mztNext_of_none, hwaiting]
  case partialOk =>
    intro s m o hcheck houts htag hquery hbusy hstatus
    have hout : (s.takeMsg o.holder (.mztPartial m)).mztOut? o.holder m.tag true = some o := htag ▸ hquery ▸ mztOut_only houts hbusy
    change Host.Outcome.next ((s.takeMsg o.holder (.mztPartial m)).mztPartial o.holder m) = _
    simp [State.mztPartial, hcheck, hout, hstatus, dropOut_only (s := s.takeMsg o.holder (.mztPartial m)) houts]
  case busyRetry =>
    intro s tag o houts htag hbusy hwaiting
    change execMztBusyRetryExpiry tag s = _
    simp [execMztBusyRetryExpiry, houts, htag, hbusy, dropOut_only houts, onMzt_waiting, hwaiting]
  case timeout =>
    intro s tag o houts htag hreach
    change execMztPartialTimeout tag s = _
    simp [execMztPartialTimeout, houts, htag, hreach]

end Sys2Proof.Machine
end

section
/-! SUPPORT. Cores (section 5.1): the record of a core past an instruction, what it has incomplete, and an access in one piece. -/


namespace Sys2Proof.Machine

variable {s : State} {n : Nat}

/-! ### The record of a core -/

theorem upsert_upsert {α : Type} (p : α → Bool) (x y : α) (l : List α) (hx : p x = true) :
    upsert p y (upsert p x l) = upsert p y l := by
  induction l with
  | nil => simp [upsert, hx]
  | cons z l ih => cases hz : p z <;> simp [upsert, hx, hz, ih]

@[simp] theorem putCore_core (c : Core) : (s.putCore c).core c.num = c := by
  simp [State.core, State.putCore, find_upsert_self]

/-- Only the last record written of a core counts. -/
theorem putCore_putCore {c d : Core} (h : c.num = d.num) : (s.putCore c).putCore d = s.putCore d := by
  simp [State.putCore, upsert_upsert, h]

theorem advance_core (hnum : (s.pastCore n).num = n) : (s.advance n).core n = s.pastCore n := by
  have hput : (s.putCore (s.pastCore n)).core (s.pastCore n).num = s.pastCore n := putCore_core _
  rwa [hnum] at hput

/-- The core's record as it stands, written again. -/
theorem advance_putCore (n : Nat) : (s.advance n).putCore (s.pastCore n) = s.advance n := putCore_putCore rfl

@[simp] theorem pastCore_pc : (s.pastCore n).pc = (s.core n).pc + 1 := rfl
@[simp] theorem pastCore_ctx : (s.pastCore n).ctx = (s.core n).ctx := rfl
@[simp] theorem pastCore_tail : (s.pastCore n).tail = (s.core n).tail := rfl

@[simp] theorem advance_node : (s.advance n).node = s.node := rfl
@[simp] theorem advance_ownQueue : (s.advance n).ownQueue = s.ownQueue := rfl
@[simp] theorem advance_ownWaits : (s.advance n).ownWaits = s.ownWaits := rfl
@[simp] theorem advance_coreRemotes : (s.advance n).coreRemotes n = s.coreRemotes n := rfl
@[simp] theorem advance_targetMapped (sp off len : Nat) : (s.advance n).targetMapped sp off len = s.targetMapped sp off len := rfl
@[simp] theorem advance_counterAt (off : Nat) : (s.advance n).counterAt off = s.counterAt off := rfl
@[simp] theorem advance_counter (k : Nat) : (s.advance n).counter k = s.counter k := rfl
@[simp] theorem advance_fresh : (s.advance n).fresh = s.fresh := rfl

/-- What a core still has to do is the same past an instruction as before it. -/
theorem advance_moving (hnum : (s.pastCore n).num = n) : (s.advance n).moving n = s.moving n := by
  simp [State.moving, advance_core hnum]

theorem advance_coreQuiet (hnum : (s.pastCore n).num = n) :
    (s.advance n).coreQuiet n = true ↔ s.coreRemotes n = [] ∧ (s.core n).tail = [] := by
  simp [State.coreQuiet, advance_core hnum]

/-- Nothing that a core has issued is incomplete, so none of its ranges is waited for. -/
theorem loading_of_quiet (hremotes : s.coreRemotes n = []) (htail : (s.core n).tail = []) (reads writes : List (Nat × Nat)) :
    s.loading n reads writes = false := by
  simp [State.loading, hremotes, htail]

theorem moving_of_tail_nil (htail : (s.core n).tail = []) : s.moving n = false := by
  simp [State.moving, htail]

/-! ### An access of the node's own in one piece (R128, R256, R258) -/

/-- An access of at most 4 KiB that begins at a 4 KiB boundary is one piece. -/
theorem accessPieces_one {off len : Nat} (hoff : off % 4096 = 0) (hpos : 0 < len) (hlen : len ≤ 4096) :
    accessPieces off len = [(0, len)] := by
  simp [accessPieces, accessCut, hoff, hpos.ne', hlen]

theorem outAccess_own {ctx addr len : Nat} (haddr : gNode addr = s.node) : s.outAccess ctx addr len = .ok (0, 0) := by
  simp [State.outAccess, haddr]

/-- A move of the node's own in one piece is complete with that piece. -/
theorem move_one {c : Core} (hcore : s.core c.num = c) (hput : s.putCore c = s) (done : Nat) (reads : List (Nat × Nat))
    (one : State → Nat × Nat → State) (eff : Nat × Nat → OpDone) (p : Nat × Nat) :
    s.move c done true reads one eff [p] = (one s p).doneCtr c.num done := by
  simp [State.move, hcore, hput]

/-- A core past its instruction makes such a move on its record as it stands. -/
theorem advance_move_one (done : Nat) (reads : List (Nat × Nat)) (one : State → Nat × Nat → State) (eff : Nat × Nat → OpDone)
    (p : Nat × Nat) :
    (s.advance n).move (s.pastCore n) done true reads one eff [p] = (one (s.advance n) p).doneCtr (s.pastCore n).num done :=
  move_one (putCore_core _) (advance_putCore n) done reads one eff p

/-- A LOAD's piece of the node's own memory that decodes is copied at once. -/
theorem loadOne_own {c : Core} {addr ob len : Nat} (haddr : gNode addr = s.node) (hqueue : s.ownQueue = false)
    (hspace : gSpace addr < 2) (hmapped : s.targetMapped (gSpace addr) (gOff addr) len = true) (done : Nat) (k : Nat × Nat) :
    s.loadOne c done k addr ob (0, len) = s.copyMem (spaceMem (gSpace addr)) (gOff addr) .op (c.num * obSize + ob) len := by
  simp [State.loadOne, State.loadPiece, haddr, hqueue, hspace, hmapped]

theorem storeOne_own {c : Core} {addr ob len : Nat} (haddr : gNode addr = s.node) (hqueue : s.ownQueue = false)
    (hspace : gSpace addr < 2) (hmapped : s.targetMapped (gSpace addr) (gOff addr) len = true) (done : Nat) (k : Nat × Nat) :
    s.storeOne c done k addr ob (0, len) = s.copyMem .op (c.num * obSize + ob) (spaceMem (gSpace addr)) (gOff addr) len := by
  simp [State.storeOne, State.storePiece, haddr, hqueue, hspace, hmapped]

end Sys2Proof.Machine
end

section
/-! SUPPORT. The instructions of a core's data mover and synchronization (Table 5.10, chapter 11): the statement. -/


namespace Sys2Proof.Machine

/-- Settles O13: an instruction that issues runs on the core past it, and what the core has incomplete decides whether it ends at once.
That a SIGNAL or ARRIVE waits while the data mover has tile-ops to end is the model's choice (log entry 19). -/
theorem coreInstructions : Obligations.CoreInstructions := by
  unfold Obligations.CoreInstructions
  refine ⟨?nop, ?fenceQuiet, ?fenceBusy, ?endBusy, ?endQuiet, ?load, ?store, ?wait, ?signal, ?moverBusy, ?arrive⟩
  case nop =>
    intro s n w hissues
    change Host.Outcome.next (s.issue n .nop fun s c w => s.doneCtr c.num (xDoneCtr w)) = _
    rw [issue_of_issues hissues, pastCore_num hissues]
  case fenceQuiet =>
    intro s n w hissues hremotes htail
    have hnum := pastCore_num hissues
    change Host.Outcome.next (s.issue n .fence _) = _
    rw [issue_of_issues hissues, if_pos ((advance_coreQuiet hnum).2 ⟨hremotes, htail⟩), hnum]
  case fenceBusy =>
    intro s n w hissues hbusy
    change Host.Outcome.next (s.issue n .fence _) = _
    rw [issue_of_issues hissues, if_neg fun hquiet => ?_]
    obtain ⟨hremotes, htail⟩ := (advance_coreQuiet (pastCore_num hissues)).1 hquiet
    exact hbusy.elim (· hremotes) (· htail)
  case endBusy =>
    intro s n w hissues hbusy
    change Host.Outcome.next (s.issue n .end_ _) = _
    rw [issue_of_issues hissues, if_neg fun hquiet => ?_]
    obtain ⟨hremotes, htail⟩ := (advance_coreQuiet (pastCore_num hissues)).1 hquiet
    exact hbusy.elim (· hremotes) (· htail)
  case endQuiet =>
    intro s n w hissues hremotes htail
    have hnum := pastCore_num hissues
    change Host.Outcome.next (s.issue n .end_ _) = _
    rw [issue_of_issues hissues, if_pos ((advance_coreQuiet hnum).2 ⟨hremotes, htail⟩), hnum]
  case load =>
    intro s n w hissues hheld hspace hnode hqueue hpos hlen halign hmapped
    have hnum := pastCore_num hissues
    have hpiece : accessPieces (gOff (xGaddr w)) (64 * xLen w) = [(0, 64 * xLen w)] := accessPieces_one halign (by omega) (by omega)
    change Host.Outcome.next (s.issue n .load State.load) = _
    rw [issue_of_issues hissues]
    simp [State.load, hheld, hpos.ne', hspace.not_ge, outAccess_own (s := s.advance n) hnode, hnode, hqueue, hpiece, advance_move_one,
      loadOne_own (s := s.advance n) hnode hqueue hspace hmapped, hnum]
  case store =>
    intro s n w hissues hroom hremotes htail hqueue hspace hnode hpos hlen halign hmapped
    have hnum := pastCore_num hissues
    have hpiece : accessPieces (gOff (xGaddr w)) (64 * xLen w) = [(0, 64 * xLen w)] := accessPieces_one halign (by omega) (by omega)
    have hstill : ((s.advance n).core n).tail = [] := by rw [advance_core hnum, pastCore_tail, htail]
    have hnone : s.coreRemotes n = [] := by simp [State.coreRemotes, hremotes]
    have hheld : (s.advance n).storeHeld (s.pastCore n) (xAddrOb w) (64 * xLen w) = none := by
      simp [State.storeHeld, hroom.not_gt, hnum, loading_of_quiet (advance_coreRemotes.trans hnone) hstill, moving_of_tail_nil hstill]
    change Host.Outcome.next (s.issue n .store State.store) = _
    rw [issue_of_issues hissues]
    simp [State.store, hheld, hpos.ne', hspace.not_ge, outAccess_own (s := s.advance n) hnode, hnode, hqueue, hpiece, advance_move_one,
      storeOne_own (s := s.advance n) hnode hqueue hspace hmapped, hnum]
  case wait =>
    intro s n k w hissues hcounter hnode hspace
    change Host.Outcome.next (s.issue n .wait State.waitInstr) = _
    rw [issue_of_issues hissues]
    simp [State.waitInstr, hcounter, hnode, hspace, pastCore_num hissues]
  case signal =>
    intro s n k w hissues hcounter hnode hspace hmoving hwaits
    have hnum := pastCore_num hissues
    change Host.Outcome.next (s.issue n .signal State.signal) = _
    rw [issue_of_issues hissues]
    simp [State.signal, hnum, advance_moving hnum, hmoving, hnode, hwaits, hcounter, hspace]
  case moverBusy =>
    intro s n w o c hform hissues hmoving
    have hnum := pastCore_num hissues
    simp only [List.mem_cons, Prod.mk.injEq, List.not_mem_nil, or_false] at hform
    obtain ⟨rfl, rfl⟩ | ⟨rfl, rfl⟩ := hform
    · change Host.Outcome.next (s.issue n .signal State.signal) = _
      rw [issue_of_issues hissues]
      simp [State.signal, hnum, advance_moving hnum, hmoving]
    · change Host.Outcome.next (s.issue n .arrive State.arriveInstr) = _
      rw [issue_of_issues hissues]
      simp [State.arriveInstr, hnum, advance_moving hnum, hmoving]
  case arrive =>
    intro s n b w hissues hround hbarrier hspace hnode hmoving hwaits hok
    have hnum := pastCore_num hissues
    change Host.Outcome.next (s.issue n .arrive State.arriveInstr) = _
    rw [issue_of_issues hissues]
    simp [State.arriveInstr, hnum, advance_moving hnum, hmoving, hround.not_ge, hnode, hwaits, hbarrier, hspace, hok]

end Sys2Proof.Machine
end

section
/-! SUPPORT. The data path (sections 5.3 to 5.8): what a count of statistics leaves, and instructions whose operands pass their checks. -/


namespace Sys2Proof.Machine

variable {s : State} {c : Core} {w : Word128}

@[simp] theorem count_ob (f : Fld) (k n : Nat) : (s.count f k).ob n = s.ob n := by
  have hmem := (kept_count (κ := fun p => decide (p = .mem)) (Kept.refl s) (by unfold Off; decide) f k).same (p := .mem) rfl
  simp only [Part.same, Prod.mk.injEq] at hmem
  obtain ⟨-, -, hop, -⟩ := hmem
  funext off
  exact congrArg (readCell · (n * obSize + off)) hop

/-- An instruction that works on the operand buffer and is not kept from it begins to leave its results. -/
theorem compute_runs {o : Opc} {rs ws : List (Nat × Nat)} (hheld : s.held c o rs ws = none) (run : Calc (List TileOp)) :
    s.compute c o rs ws run = s.results c rs 0 run [] := by
  simp [State.compute, hheld]

theorem matrix_runs {o : Opc} {i : MInstr} {b : List (Nat × Nat)} (hheld : s.held c o (i.ranges b).1 (i.ranges b).2 = none)
    (bv : Nat → Nat → Num) : s.matrix c o i b bv = s.runMatrix c i (i.ranges b).1 bv i.tileOps [] := by
  simp [State.matrix, hheld]

theorem vector_runs {o : Opc} {i : VInstr} (hdecode : vDecode o w = some i) (hlimits : i.limitsOk = true)
    (hheld : s.held c o i.ranges.1 i.ranges.2 = none) :
    State.vector o s c w = s.results c i.ranges.1 0 (i.run (s.ob c.num)) [] := by
  simp [State.vector, hdecode, hlimits, compute_runs hheld]

/-- A SAMPLE or SVERIFY that finds a candidate in every row leaves its entries (R146, R148). -/
theorem sample_runs {o : Opc} {v : Bool} {i : SInstr} {ws : List ObWrite} (hdecode : sDecode w = some i) (hlimits : i.limitsOk = true)
    (hheld : s.held c o i.sampleRanges.1 i.sampleRanges.2 = none)
    (howned : ((List.range i.requests).any fun r => s.badReq c.num (i.entry (s.ob c.num) r).1) = false)
    (hout : ((s.sampleAll c i v (List.range i.requests)).run { fresh := s.fresh }).1 = some ws) :
    State.sample o v s c w = (s.calcDone c ((s.sampleAll c i v (List.range i.requests)).run { fresh := s.fresh }).2).pushOps c.num
      (coreOps c i.sampleRanges.1 0 (i.ops ws)) := by
  obtain ⟨out, k, hrun⟩ : ∃ out k, (s.sampleAll c i v (List.range i.requests)).run { fresh := s.fresh } = (out, k) := ⟨_, _, rfl⟩
  obtain rfl : out = some ws := by simpa [hrun] using hout
  simp [State.sample, hdecode, hlimits, hheld, howned, hrun]

/-- An OADAM or OSGD of an element count in range whose operands pass their checks begins to leave its results (section 5.8). -/
theorem optimize_runs {o : Opc} {a : Bool} {i : OInstr} {m : Nat} (hdecode : oDecode w = some i)
    (hparams : s.held c o [(i.addrP, 64)] [] = none) (hcount : i.count (s.ob c.num) = m) (hpos : 0 < m) (hmax : m ≤ 262144)
    (hheld : s.held c o (i.ranges a m).1 (i.ranges a m).2 = none) :
    State.optimize o a s c w = s.results c (i.ranges a m).1 0 (i.run a (s.ob c.num)) [] := by
  simp [State.optimize, hdecode, hparams, hcount, hpos.ne', hmax.not_gt, compute_runs hheld]

end Sys2Proof.Machine
end

section
/-! SUPPORT. The instructions of a core's data path (sections 5.3 to 5.8): the statement. -/


namespace Sys2Proof.Machine

/-- Settles O14: an instruction whose operands pass its checks runs on the core past it. That all its tile-ops are calculated at issue
and wait in Core.tail (log entry 19), that SCOMMIT lists ROWS divided by 1 + DRAFTS requests and SLOGPROB raises no ST_SAMPLE_INVALID (log
entry 73), and the row of SVERIFY's bonus token (log entry 74), are the model's choices. -/
theorem dataPathInstructions : Obligations.DataPathInstructions := by
  unfold Obligations.DataPathInstructions
  refine ⟨?mma, ?mmt, ?mmx, ?vector, ?sample, ?slogprob, ?scommit, ?optimize, ?squash, ?tileOp, ?reseed⟩
  case mma =>
    intro s n w i hissues hdecode hheld
    change Host.Outcome.next (s.issue n .mma State.mma) = _
    rw [issue_of_issues hissues]
    simp [State.mma, hdecode, matrix_runs hheld, pastCore_num hissues]
  case mmt =>
    intro s n w i hissues hdecode hheld
    change Host.Outcome.next (s.issue n .mmt State.mmt) = _
    rw [issue_of_issues hissues]
    simp [State.mmt, hdecode, matrix_runs hheld, pastCore_num hissues]
  case mmx =>
    intro s n e w i g hissues hdecode hfmt hheld hwalk hloading hg
    subst hg
    have hstaged : (mDecode w).filter (fun _ => (blockFmt (fieldOf w 115 112)).isSome) = some i := by
      rw [hdecode]
      exact Option.filter_some_pos hfmt
    change Host.Outcome.next (s.issue n .mmx State.mmx) = _
    rw [issue_of_issues hissues]
    simp [State.mmx, pastCore_num hissues, hstaged, hheld, hwalk, hloading]
  case vector =>
    intro s n w o c i hform hissues hdecode hlimits hheld
    have hexec : exec c s = .next (s.issue n o (State.vector o)) := by
      fin_cases hform <;> rfl
    rw [hexec, issue_of_issues hissues, vector_runs hdecode hlimits hheld, pastCore_num hissues]
  case sample =>
    intro s n w o v c i ws hform hissues hdecode hlimits hheld howned hout
    have hnum := pastCore_num hissues
    have hexec : exec c s = .next (s.issue n o (State.sample o v)) := by
      fin_cases hform <;> rfl
    rw [hexec, issue_of_issues hissues, sample_runs hdecode hlimits hheld (hnum.symm ▸ howned) hout, hnum, advance_fresh]
  case slogprob =>
    intro s n w i hissues hdecode hheld
    change Host.Outcome.next (s.issue n .slogprob State.slogprob) = _
    rw [issue_of_issues hissues]
    simp [State.slogprob, hdecode, compute_runs hheld, pastCore_num hissues]
  case scommit =>
    intro s n id w i hissues hdecode hlimits hone hheld hentry howned
    change Host.Outcome.next (s.issue n .scommit State.scommit) = _
    rw [issue_of_issues hissues]
    simp [State.scommit, pastCore_num hissues, hdecode, hlimits, hone, hheld, hentry, howned]
  case optimize =>
    intro s n m w o a c i hform hissues hdecode hparams hcount hpos hmax hheld
    have hnum := pastCore_num hissues
    have hexec : exec c s = .next (s.issue n o (State.optimize o a)) := by
      fin_cases hform <;> rfl
    rw [hexec, issue_of_issues hissues, optimize_runs hdecode hparams (hnum.symm ▸ hcount) hpos hmax hheld, hnum]
  case squash =>
    intro s n hraise hsquash hstopped
    change execTileOpBoundary n s = _
    simp [execTileOpBoundary, hraise, hsquash, State.takeSquash, hstopped]
  case tileOp =>
    intro s n op ops hraise hsquash htail
    change execTileOpBoundary n s = _
    simp [execTileOpBoundary, hraise, hsquash, State.nextOp, htail]
  case reseed =>
    intro s n
    rfl

end Sys2Proof.Machine
end

section
/-! SUPPORT. The code table and delta set store (sections 6.5, 6.6): what each command does in the cases that Table 6.5 tells apart. -/


namespace Sys2Proof.Machine

variable {s : State} {id el c k a : Nat} {lens : List Nat} {t : CodeTable}

/-! ### Mapped HBM -/

theorem hbmMapped_setReg {f : Fld} (h : R.BLD_HBM_RETIRED.key ≠ f.key) (v off len : Nat) :
    (s.setReg f v).hbmMapped off len = s.hbmMapped off len := by
  have htop : (s.setReg f v).usableTop = s.usableTop :=
    congrArg (s.headerBase - 3 * 2 ^ 30 * ·) (reg_setReg_ne h s v)
  unfold State.hbmMapped
  rw [htop]
  rfl

/-! ### One command at a time -/

/-- No command and no address write has an effect while a command runs (R166, R178). -/
theorem exec_of_expBusy {i : Instr} {b : Nat} (hform : i ∈ [Instr.tableLoad a, .tableDrop a, .dsetLoad a, .dsetDrop a, .bindTable b a,
    .bindDset b a, .expCmdAddrWrite a]) (hbusy : s.expIdle = false) : exec i s = .next s := by
  have hskip (x : State) : (if s.expIdle then x else s) = s := if_neg (by simp [hbusy])
  simp only [List.mem_cons, List.not_mem_nil, or_false] at hform
  obtain rfl | rfl | rfl | rfl | rfl | rfl | rfl := hform
  iterate 6 exact congrArg Host.Outcome.next (hskip _)
  change Host.Outcome.next (s.expAddrWrite a).1 = _
  simp [State.expAddrWrite, hbusy]

section

variable (hidle : s.expIdle = true)
include hidle

theorem exec_tableLoad : exec (.tableLoad id) s = .next (s.tableLoad id).1 := congrArg Host.Outcome.next (if_pos hidle)
theorem exec_tableDrop : exec (.tableDrop id) s = .next (s.tableDrop id).1 := congrArg Host.Outcome.next (if_pos hidle)
theorem exec_dsetLoad : exec (.dsetLoad k) s = .next (s.dsetLoad k).1 := congrArg Host.Outcome.next (if_pos hidle)
theorem exec_dsetDrop : exec (.dsetDrop k) s = .next (s.dsetDrop k).1 := congrArg Host.Outcome.next (if_pos hidle)
theorem exec_bindTable : exec (.bindTable c id) s = .next (s.bindTable c id).1 := congrArg Host.Outcome.next (if_pos hidle)
theorem exec_bindDset : exec (.bindDset c k) s = .next (s.bindDset c k).1 := congrArg Host.Outcome.next (if_pos hidle)

end

/-! ### TABLE_LOAD -/

/-- The image that TABLE_LOAD names is one for ID `id` that R159 accepts. -/
structure State.Offers (s : State) (id el : Nat) (lens : List Nat) : Prop where
  image : tableImage (s.rd .hbm) (s.reg R.EXP_CMD_ADDR_OFFSET) = some (el, id, lens)
  aligned : s.reg R.EXP_CMD_ADDR_OFFSET % 64 = 0
  mapped : s.hbmMapped (s.reg R.EXP_CMD_ADDR_OFFSET) 144 = true

theorem tableLoad_of_empty (hoffer : s.Offers id el lens) (hempty : s.table? id = none) :
    (s.tableLoad id).1 = (s.onExp fun e => { e with tables := e.tables ++ [⟨id, el, lens, false, [], []⟩] }).expStatus 1 0 id .ok := by
  obtain ⟨himage, haligned, hmapped⟩ := hoffer
  simp [State.tableLoad, himage, haligned, hmapped, hempty]

/-- The content held already, loaded or dropping, is loaded again. -/
theorem tableLoad_of_same (hoffer : s.Offers id t.element t.lens) (hheld : s.table? id = some t) :
    (s.tableLoad id).1
      = (s.onExp fun e => { e with tables := upsert (·.id == id) { t with dropping := false } e.tables }).expStatus 1 0 id .ok := by
  obtain ⟨himage, haligned, hmapped⟩ := hoffer
  simp [State.tableLoad, himage, haligned, hmapped, hheld]

/-- Other lengths than those held wait for the expanders, unless a context binds the table (R170). -/
theorem tableLoad_of_lens_ne (hoffer : s.Offers id el lens) (hheld : s.table? id = some t) (hlens : t.lens ≠ lens) :
    (s.tableLoad id).1 = if t.binds.isEmpty then
        (s.onExp fun e => { e with
          tables := upsert (·.id == id) { t with resident := [] } e.tables
          busy := some (.tableLoad id el lens) }).setRegs [(R.EXP_CMD_OP, 1), (R.EXP_CMD_ID, id), (R.EXP_CMD_STATUS_BUSY, 1)]
      else s.expStatus 1 0 id .tableBusy := by
  obtain ⟨himage, haligned, hmapped⟩ := hoffer
  cases hbinds : t.binds.isEmpty <;> simp [State.tableLoad, himage, haligned, hmapped, hheld, hlens, hbinds]

theorem tableLoad_of_invalid (himage : tableImage (s.rd .hbm) (s.reg R.EXP_CMD_ADDR_OFFSET) = none) :
    (s.tableLoad id).1 = s.expStatus 1 0 id .badParam := by
  simp [State.tableLoad, himage]

/-! ### DSET_LOAD -/

/-- DSET_LOAD into an empty slot of a node with Stipple asks for room alone (Table 6.5). -/
theorem dsetLoad_of_empty (hstipple : s.flag R.CAP_FEATURES_STIPPLE = true) (hslot : k ≠ 0) (hempty : s.dslot? k = none) :
    (s.dsetLoad k).1 = if s.reg R.CAP_LIMITS_DELTA_SETS_MAX ≤ s.exp.slots.length then s.expStatus 3 0 k .deltaLimit
      else (s.onExp fun e => { e with busy := some (.dsetLoad k (s.reg R.EXP_CMD_ADDR_OFFSET)) }).setRegs
        [(R.EXP_CMD_OP, 3), (R.EXP_CMD_ID, k), (R.EXP_CMD_STATUS_BUSY, 1)] := by
  by_cases hfull : s.reg R.CAP_LIMITS_DELTA_SETS_MAX ≤ s.exp.slots.length <;>
    simp [State.dsetLoad, hstipple, hslot, hempty, hfull]

/-- The store with its command ended, before the command's outcome is written. -/
def State.expEnd (s : State) : State := (s.onExp fun e => { e with busy := none }).setReg R.EXP_CMD_STATUS_BUSY 0

@[simp] theorem expEnd_rd (m : Mem) : s.expEnd.rd m = s.rd m := rfl

@[simp] theorem expEnd_hbmMapped (off len : Nat) : s.expEnd.hbmMapped off len = s.hbmMapped off len :=
  hbmMapped_setReg (by decide) 0 off len

/-- The delta set that a read from `a` finds, if it is one that R172 accepts. -/
def State.setRead (s : State) (a : Nat) : Option DsetHdr :=
  if a % 64 = 0 then (dsetOk (s.rd .hbm) a).filter fun h => s.hbmMapped a h.setBytes else none

theorem setRead_of_valid {h : DsetHdr} (haligned : a % 64 = 0) (hset : dsetOk (s.rd .hbm) a = some h)
    (hmapped : s.hbmMapped a h.setBytes = true) : s.setRead a = some h := by
  simp [State.setRead, haligned, hset, hmapped]

theorem setRead_of_invalid (hset : dsetOk (s.rd .hbm) a = none) : s.setRead a = none := by
  simp [State.setRead, hset]

@[simp] theorem expEnd_setRead : s.expEnd.setRead a = s.setRead a := by
  simp [State.setRead]

/-- The end of the read ends the command, and the set read decides its outcome. -/
theorem exec_dsetLoadReadDone (hbusy : s.exp.busy = some (.dsetLoad k a)) :
    exec .dsetLoadReadDone s = .next ((s.setRead a).elim (s.expEnd.expStatus 3 0 k .deltaFormat) fun h =>
      (s.expEnd.onExp fun e => { e with slots := e.slots ++ [⟨k, a, h.modelId, h.variantId, false, []⟩] }).expStatus 3 0 k .ok) := by
  rw [← expEnd_setRead]
  change execDsetLoadReadDone s = _
  rw [execDsetLoadReadDone, hbusy]
  change (match s.expEnd.setRead a with | some h => _ | none => _) = _
  cases s.expEnd.setRead a <;> rfl

/-! ### BIND_TABLE and BIND_DSET -/

theorem bindsFull_eq_false : s.bindsFull c = false
    ↔ (s.exp.tables.filter fun x => x.binds.contains c).length + bit (s.exp.storedBinds.contains c) < 64 := by
  simp [State.bindsFull]

/-- A BIND_TABLE of a table that is loaded, by an open context with room that does not bind it yet. -/
theorem bindTable_of_open (hopen : s.ctxOpen c = true) (hid : id ≠ 0) (hheld : s.table? id = some t) (hloaded : t.dropping = false)
    (hnew : c ∉ t.binds) (hroom : s.bindsFull c = false) : (s.bindTable c id).1
      = (s.onExp fun e => { e with tables := upsert (·.id == id) { t with binds := t.binds ++ [c] } e.tables }).expStatus 5 c id .ok := by
  simp [State.bindTable, hopen, hid, hheld, hloaded, hnew, hroom]

/-- A BIND_DSET of a slot that is loaded, by an open context with room that does not bind it yet. -/
theorem bindDset_of_open {t : DeltaSlot} (hopen : s.ctxOpen c = true) (hheld : s.dslot? k = some t) (hloaded : t.dropping = false)
    (hnew : c ∉ t.binds) (hroom : (s.exp.slots.filter fun x => x.binds.contains c).length < 256) : (s.bindDset c k).1
      = (s.onExp fun e => { e with slots := upsert (·.slot == k) { t with binds := t.binds ++ [c] } e.slots }).expStatus 6 c k .ok := by
  simp only [List.contains_eq_mem] at hroom
  simp [State.bindDset, hopen, hheld, hloaded, hnew, hroom.not_ge]

end Sys2Proof.Machine
end

section
/-! SUPPORT. The code table and delta set store (sections 6.5, 6.6): the statement. -/


namespace Sys2Proof.Machine

/-- Settles O15: an idle store runs its command, and what Table 6.5 checks of the image, the ID, the slot or the context decides the
outcome. A running one refuses every command. That a set is not checked in its directory's entries at or above TILE_COUNT is the model's
choice (log entry 75). -/
theorem expanderStore : Obligations.ExpanderStore := by
  unfold Obligations.ExpanderStore
  refine ⟨?loadEmpty, ?loadSame, ?loadBound, ?loadChanged, ?loadInvalid, ?invalidated, ?drop, ?dropAbsent, ?dsetLoad, ?dsetLimit,
    ?noStipple, ?dsetRead, ?dsetInvalid, ?dsetDrop, ?bind, ?bindStored, ?bindClosed, ?bindDset, ?dsetAbsent, ?address, ?busy⟩
  case loadEmpty =>
    intro s id el lens hidle himage haligned hmapped hempty
    rw [exec_tableLoad hidle, tableLoad_of_empty ⟨himage, haligned, hmapped⟩ hempty]
  case loadSame =>
    rintro s id _ _ t hidle himage haligned hmapped hheld rfl rfl
    rw [exec_tableLoad hidle, tableLoad_of_same ⟨himage, haligned, hmapped⟩ hheld]
  case loadBound =>
    intro s id el lens t hidle himage haligned hmapped hheld hlens hbound
    rw [exec_tableLoad hidle, tableLoad_of_lens_ne ⟨himage, haligned, hmapped⟩ hheld hlens, if_neg (by simpa using hbound)]
  case loadChanged =>
    intro s id el lens t hidle himage haligned hmapped hheld hlens hunbound
    rw [exec_tableLoad hidle, tableLoad_of_lens_ne ⟨himage, haligned, hmapped⟩ hheld hlens, if_pos (by simpa using hunbound)]
  case loadInvalid =>
    intro s id hidle himage
    rw [exec_tableLoad hidle, tableLoad_of_invalid himage]
  case invalidated =>
    intro s id el lens hbusy
    change execTableInvalidateDone s = _
    rw [execTableInvalidateDone, hbusy]
  case drop =>
    intro s id t hidle hid hheld
    rw [exec_tableDrop hidle, State.tableDrop, if_neg hid, hheld]
  case dropAbsent =>
    intro s id hidle hid hempty
    rw [exec_tableDrop hidle, State.tableDrop, if_neg hid, hempty]
  case dsetLoad =>
    intro s k hidle hstipple hslot hempty hroom
    rw [exec_dsetLoad hidle, dsetLoad_of_empty hstipple hslot hempty, if_neg hroom.not_ge]
  case dsetLimit =>
    intro s k hidle hstipple hslot hempty hfull
    rw [exec_dsetLoad hidle, dsetLoad_of_empty hstipple hslot hempty, if_pos hfull]
  case noStipple =>
    intro s k hidle hstipple
    rw [exec_dsetLoad hidle]
    simp [State.dsetLoad, hstipple]
  case dsetRead =>
    intro s k a h hbusy haligned hset hmapped
    rw [exec_dsetLoadReadDone hbusy, setRead_of_valid haligned hset hmapped]
    rfl
  case dsetInvalid =>
    intro s k a hbusy hset
    rw [exec_dsetLoadReadDone hbusy, setRead_of_invalid hset]
    rfl
  case dsetDrop =>
    intro s k t hidle hslot hheld
    rw [exec_dsetDrop hidle, State.dsetDrop, if_neg hslot, hheld]
  case bind =>
    intro s c id t hidle hopen hid hheld hloaded hnew hroom
    rw [exec_bindTable hidle, bindTable_of_open hopen hid hheld hloaded hnew (bindsFull_eq_false.2 hroom)]
  case bindStored =>
    intro s c hidle hopen hnew hroom
    have hstored : s.exp.storedBinds.contains c = false := by simpa using hnew
    have hfull : s.bindsFull c = false := bindsFull_eq_false.2 (by rwa [hstored])
    rw [exec_bindTable hidle]
    simp [State.bindTable, hopen, State.bindStored, hnew, hfull]
  case bindClosed =>
    intro s c id hidle hclosed
    rw [exec_bindTable hidle]
    simp [State.bindTable, hclosed]
  case bindDset =>
    intro s c k t hidle hopen hheld hloaded hnew hroom
    rw [exec_bindDset hidle, bindDset_of_open hopen hheld hloaded hnew hroom]
  case dsetAbsent =>
    intro s c k hidle hopen hempty
    rw [exec_bindDset hidle]
    simp [State.bindDset, hopen, hempty]
  case address =>
    intro s v hidle
    change Host.Outcome.next (s.expAddrWrite v).1 = _
    rw [State.expAddrWrite, if_pos hidle]
  case busy =>
    intro s i a b hform hbusy
    exact exec_of_expBusy hform hbusy

end Sys2Proof.Machine
end

section
/-! SUPPORT. Contexts (sections 7.1, 7.5): the commands of SCH_CTX_CMD, the checks of a descriptor, the end of loading and of teardown. -/


namespace Sys2Proof.Machine

variable {s : State} {c op : Nat} {x : Ctx}

/-! ### Context commands (R181) -/

theorem exec_ctxOpen : exec (.ctxOpen c) s = .next (s.ctxCmd 1 c).1 := rfl
theorem exec_ctxStart : exec (.ctxStart c) s = .next (s.ctxCmd 2 c).1 := rfl
theorem exec_ctxClose : exec (.ctxClose c) s = .next (s.ctxCmd 3 c).1 := rfl
theorem exec_ctxAbort : exec (.ctxAbort c) s = .next (s.ctxCmd 4 c).1 := rfl

/-- No command is taken while one runs, and none for a number that is no context's. -/
theorem ctxCmd_refused (h : s.flag R.SCH_CTX_STATUS_BUSY = true ∨ 0xFFF ≤ c) : (s.ctxCmd op c).1 = s := by
  by_cases hbusy : s.flag R.SCH_CTX_STATUS_BUSY = true
  · simp [State.ctxCmd, hbusy]
  · simp [State.ctxCmd, hbusy, h.resolve_left hbusy]

/-- A command has no effect where it has none while no other runs. -/
theorem ctxCmd_idle (h : s.flag R.SCH_CTX_STATUS_BUSY = false → c < 0xFFF → (s.ctxCmd op c).1 = s) : (s.ctxCmd op c).1 = s := by
  by_cases hbusy : s.flag R.SCH_CTX_STATUS_BUSY = true ∨ 0xFFF ≤ c
  · exact ctxCmd_refused hbusy
  · rw [not_or, Bool.not_eq_true, not_le] at hbusy
    exact h hbusy.1 hbusy.2

/-- A context that is FREE has nothing to start, close or abort. -/
theorem ctxCmd_free (hop : op ∈ [2, 3, 4]) (hfree : s.ctx? c = none) : (s.ctxCmd op c).1 = s := by
  refine ctxCmd_idle fun hbusy hc => ?_
  simp only [List.mem_cons, List.not_mem_nil, or_false] at hop
  obtain rfl | rfl | rfl := hop <;> simp [State.ctxCmd, hbusy, hc.not_ge, hfree]

theorem ctxOpen_turning (hturn : s.turning = true) : (s.ctxCmd 1 c).1 = s := by
  refine ctxCmd_idle fun hbusy hc => ?_
  cases hx : s.ctx? c <;> simp [State.ctxCmd, hbusy, hc.not_ge, hx, hturn]

/-! ### Descriptors (R180) -/

variable {d : Desc}

theorem descCheck_unfit (h : d.formOk = false ∨ s.descCores d = false ∨ d.ranges = false) : s.descCheck d = some .badParam := by
  simp [State.descCheck, h]

/-- A descriptor in form is checked against the role, then its program against the units. -/
theorem descCheck_fit (hform : d.formOk = true) (hcores : s.descCores d = true) (hranges : d.ranges = true) : s.descCheck d
    = if d.suits (s.reg R.PHS_PHASE_ROLE) = false then some .badState else if s.programOk d = false then some .unitAbsent else none := by
  simp [State.descCheck, hform, hcores, hranges]

/-! ### The end of loading (R181, R316) -/

theorem turning_congr {t : State} (h : t.reg R.PHS_PHASE_STATE = s.reg R.PHS_PHASE_STATE) : t.turning = s.turning := by
  rw [State.turning, State.turning, h]

theorem phaseState_key_ne_owner (b : Nat) : R.PHS_PHASE_STATE.key ≠ (R.SYN_BAR_A_OWNER b).key := by
  simp only [R.PHS_PHASE_STATE, R.SYN_BAR_A_OWNER, Fld.key]
  omega

theorem phaseState_key_ne_status : R.PHS_PHASE_STATE.key ≠ R.SCH_CTX_STATUS_BUSY.key
    ∧ R.PHS_PHASE_STATE.key ≠ R.SCH_CTX_STATUS_STATUS.key := by decide

theorem markObjects_phaseState : (s.markObjects c d).reg R.PHS_PHASE_STATE = s.reg R.PHS_PHASE_STATE := by
  unfold State.markObjects
  dsimp only
  refine List.foldlRecOn (motive := fun t : State => t.reg R.PHS_PHASE_STATE = s.reg R.PHS_PHASE_STATE) _ _ rfl fun t ht b _ => ?_
  split
  · exact (reg_setReg_ne (phaseState_key_ne_owner b) t c).trans ht
  · exact ht

theorem ctxCmdDone_phaseState (st : St) : (s.ctxCmdDone c st).reg R.PHS_PHASE_STATE = s.reg R.PHS_PHASE_STATE := by
  unfold State.ctxCmdDone
  split
  · exact reg_setRegs_of_notMem (by simp; decide) _
  · rfl

/-- A context loaded by OPEN outside a turn is OPEN. -/
theorem openCtx_of_command (hturn : s.turning = false) (hbusy : s.sch.busy = some (1, x.num)) : s.openCtx x
    = ((s.putCtx { x with state := .open_ }).markObjects x.num x.desc).ctxCmdDone x.num .ok := by
  have hstill : (((s.putCtx { x with state := .open_ }).markObjects x.num x.desc).ctxCmdDone x.num .ok).turning = false :=
    (turning_congr ((ctxCmdDone_phaseState _).trans markObjects_phaseState)).trans hturn
  simp [State.openCtx, hstill, hbusy]

/-- The checks of a LOADING context end: what its descriptor fails, or that it fails nothing, decides. -/
theorem exec_ctxLoadingDone (hx : s.ctx? c = some x) (hstate : x.state = .loading) : exec (.ctxLoadingDone c) s
    = .next ((s.descCheck x.desc).elim (s.openCtx x) ((s.freeCtx c).ctxCmdDone c)) := by
  have hloading : ((s.ctx? c).filter fun x => decide (x.state = .loading)) = some x := by
    rw [hx]
    exact Option.filter_some_pos (decide_eq_true hstate)
  change execCtxLoadingDone c s = _
  rw [execCtxLoadingDone, hloading]
  cases hcheck : s.descCheck x.desc <;> simp [hcheck]

/-! ### Teardown (R183) -/

/-- A context torn down without a fault goes to FREE. -/
theorem endTeardown_of_cause_ne (h : x.cause ≠ .fault) : s.endTeardown x
    = (((((((((s.disposeOwned x).clearRuns x).releaseBinds x.num).residueCheck x.num).settlePages).flushCtxQueues x.num).post
        .contextClosed x.num (formC x.status x.core x.cause.code x.pc x.desc.jobId)).ctxCmdDone x.num .ok).freeCtx x.num) := by
  simp [State.endTeardown, h]

end Sys2Proof.Machine
end

section
/-! SUPPORT. Contexts (sections 7.1, 7.5): the statement. -/


namespace Sys2Proof.Machine

/-- Settles O16: the state of the context that a command, an end or a job's abort meets decides what it does. That OPEN is refused during a
turn is the model's choice (log entry 53). -/
theorem contexts : Obligations.Contexts := by
  unfold Obligations.Contexts
  refine ⟨?opens, ?start, ?close, ?closeOpen, ?abort, ?refused, ?free, ?turning, ?loadFailed, ?loaded, ?unfit, ?unsuited, ?noUnit,
    ?drained, ?notDraining, ?tornDown, ?notClosing, ?jobAbort, ?noJob⟩
  case opens =>
    intro s c hbusy hc hfree hturn
    rw [exec_ctxOpen]
    simp [State.ctxCmd, hbusy, hc.not_ge, hfree, hturn]
  case start =>
    intro s c x hbusy hc hx hstate hturn
    rw [exec_ctxStart]
    simp [State.ctxCmd, State.startCtx, hbusy, hc.not_ge, hx, hstate, hturn]
  case close =>
    intro s c x hbusy hc hx hstate
    rw [exec_ctxClose]
    simp [State.ctxCmd, hbusy, hc.not_ge, hx, hstate]
  case closeOpen =>
    intro s c x hbusy hc hx hstate
    rw [exec_ctxClose]
    simp [State.ctxCmd, hbusy, hc.not_ge, hx, hstate]
  case abort =>
    intro s c x hbusy hc hx hstate
    rw [exec_ctxAbort]
    obtain hstate | hstate | hstate := hstate <;> simp [State.ctxCmd, hbusy, hc.not_ge, hx, hstate]
  case refused =>
    intro s c i hi hrefused
    simp only [List.mem_cons, List.not_mem_nil, or_false] at hi
    obtain rfl | rfl | rfl | rfl := hi <;> exact congrArg Host.Outcome.next (ctxCmd_refused hrefused)
  case free =>
    intro s c i hi hfree
    simp only [List.mem_cons, List.not_mem_nil, or_false] at hi
    obtain rfl | rfl | rfl := hi <;> exact congrArg Host.Outcome.next (ctxCmd_free (by simp) hfree)
  case turning =>
    intro s c hturn
    rw [exec_ctxOpen, ctxOpen_turning hturn]
  case loadFailed =>
    intro s c x st hx hstate hcheck
    rw [exec_ctxLoadingDone hx hstate, hcheck, Option.elim_some]
  case loaded =>
    rintro s _ x hx rfl hstate hcheck hturn hbusy
    rw [exec_ctxLoadingDone hx hstate, hcheck, Option.elim_none, openCtx_of_command hturn hbusy]
  case unfit =>
    intro s d hunfit
    exact descCheck_unfit hunfit
  case unsuited =>
    intro s d hform hcores hranges hrole
    rw [descCheck_fit hform hcores hranges, if_pos hrole]
  case noUnit =>
    intro s d hform hcores hranges hrole hprogram
    rw [descCheck_fit hform hcores hranges, if_neg (by simp [hrole]), if_pos hprogram]
  case drained =>
    intro s c x hx hstate
    change execCtxDrained c s = _
    cases hbusy : s.ctxBusy c <;> simp [execCtxDrained, hx, hstate, hbusy]
  case notDraining =>
    intro s c x hx hstate
    change execCtxDrained c s = _
    simp [execCtxDrained, hx, hstate]
  case tornDown =>
    rintro s _ x hx rfl hstate hcause
    change execCtxTeardownDone x.num s = _
    simp [execCtxTeardownDone, hx, hstate, endTeardown_of_cause_ne hcause]
  case notClosing =>
    intro s c x hx hstate
    change execCtxTeardownDone c s = _
    simp [execCtxTeardownDone, hx, hstate]
  case jobAbort =>
    intro s src job c cs hjob
    have htaken : (s.takeMsg src (.jobAbort job)).jobContexts job = c :: cs := hjob
    change execJobAbort src job s = _
    rw [execJobAbort, htaken]
  case noJob =>
    intro s src job hjob
    have htaken : (s.takeMsg src (.jobAbort job)).jobContexts job = [] := hjob
    change execJobAbort src job s = _
    rw [execJobAbort, htaken]

end Sys2Proof.Machine
end

section
/-! SUPPORT. Burin's registers (sections 7.4, 7.7): a write to a composition by what it meets, and the meters of the valid compositions. -/


namespace Sys2Proof.Machine

variable {s : State} {c d v : Nat}

/-! ### Writes to queues and compositions -/

theorem exec_schQueueWrite (q : Nat) : exec (.schQueueWrite q v) s = .next (s.queueWrite q v).1 := rfl

theorem exec_schCompWrite (addr : Nat) : exec (.schCompWrite addr v) s = .next (s.compWrite addr v).1 := rfl

/-- A queue not in use takes any write (R209). -/
theorem queueWrite_of_invalid {q : Nat} (hq : q < 4096) (hvalid : s.flag (R.SCH_QUEUE_A_VALID q) = false) :
    (s.queueWrite q v).1 = s.writeRw (0x109000 + 16 * q) v := by
  simp [State.queueWrite, hq.not_ge, hvalid]

/-- A queue in use takes a write that changes its quantum alone. -/
theorem queueWrite_of_quantum {q : Nat} (hq : q < 4096) (hvalid : bitAt v 63 = s.flag (R.SCH_QUEUE_A_VALID q))
    (hclass : bitsOf v 62 62 = s.reg (R.SCH_QUEUE_A_CLASS q)) (htenant : bitsOf v 47 32 = s.reg (R.SCH_QUEUE_A_TENANT q)) :
    (s.queueWrite q v).1 = s.writeRw (0x109000 + 16 * q) v := by
  simp [State.queueWrite, hq.not_ge, hvalid, hclass, htenant]

/-- A queue in use that holds a deficit refuses another tenant. -/
theorem queueWrite_of_owing {q : Nat} (hvalid : s.flag (R.SCH_QUEUE_A_VALID q) = true)
    (htenant : bitsOf v 47 32 ≠ s.reg (R.SCH_QUEUE_A_TENANT q)) (howing : s.reg (R.SCH_QUEUE_B_STEP_DEFICIT q) ≠ 0) :
    (s.queueWrite q v).1 = s := by
  by_cases hq : 4096 ≤ q <;> simp [State.queueWrite, hq, hvalid, htenant, howing]

/-- A write to SCH_COMP_A of a composition the node has (R205). -/
theorem compWrite_a (hc : c < 32) : s.compWrite (0x119000 + 32 * c) v
    = if (s.writeRw (0x119000 + 32 * c) v).compsOk = false then (s, .badParam)
      else if s.sch.ctxs.any (·.desc.comp == c) = true then (s, .tableBusy)
      else (if s.flag (R.SCH_COMP_A_VALID c) = false ∧ (s.writeRw (0x119000 + 32 * c) v).flag (R.SCH_COMP_A_VALID c) = true then
          ((s.writeRw (0x119000 + 32 * c) v).shaperFill (4 + c)).setReg (R.SCH_COMP_TOTAL_TOTAL c) 0
        else (s.writeRw (0x119000 + 32 * c) v).shaperFill (4 + c), .ok) := by
  have hpart : (0x119000 + 32 * c) % 32 = 0 := by omega
  have hflag : ((s.writeRw (0x119000 + 32 * c) v).shaperFill (4 + c)).flag (R.SCH_COMP_A_VALID c)
      = (s.writeRw (0x119000 + 32 * c) v).flag (R.SCH_COMP_A_VALID c) := rfl
  simp [State.compWrite, hpart, hflag, hc.not_ge]

/-! ### The meters (R207) -/

/-- The meters of one composition one tick on. -/
def State.meterUp (s : State) (c : Nat) : State :=
  (s.bump (R.SCH_COMP_METER_TICKS c)).setReg (R.SCH_COMP_TOTAL_TOTAL c) (s.reg (R.SCH_COMP_TOTAL_TOTAL c) + 1)

theorem exec_compMeterTick :
    exec .compMeterTick s = .next (((List.range 32).filter fun c => s.flag (R.SCH_COMP_A_VALID c)).foldl State.meterUp s) := rfl

theorem ticks_key_ne_total : (R.SCH_COMP_METER_TICKS c).key ≠ (R.SCH_COMP_TOTAL_TOTAL d).key := by
  simp only [R.SCH_COMP_METER_TICKS, R.SCH_COMP_TOTAL_TOTAL, Fld.key]
  omega

theorem ticks_key_ne (h : c ≠ d) : (R.SCH_COMP_METER_TICKS c).key ≠ (R.SCH_COMP_METER_TICKS d).key := by
  simp only [R.SCH_COMP_METER_TICKS, Fld.key]
  omega

theorem total_key_ne (h : c ≠ d) : (R.SCH_COMP_TOTAL_TOTAL c).key ≠ (R.SCH_COMP_TOTAL_TOTAL d).key := by
  simp only [R.SCH_COMP_TOTAL_TOTAL, Fld.key]
  omega

theorem meterUp_ticks (h : s.reg (R.SCH_COMP_METER_TICKS c) + 1 < 2 ^ 64) :
    (s.meterUp c).reg (R.SCH_COMP_METER_TICKS c) = s.reg (R.SCH_COMP_METER_TICKS c) + 1 := by
  have hcount : s.bump (R.SCH_COMP_METER_TICKS c) = s.setReg (R.SCH_COMP_METER_TICKS c) (s.reg (R.SCH_COMP_METER_TICKS c) + 1) :=
    if_pos h
  rw [State.meterUp, reg_setReg_ne ticks_key_ne_total, hcount, reg_setReg_self]
  exact Nat.mod_eq_of_lt h

theorem meterUp_total : (s.meterUp c).reg (R.SCH_COMP_TOTAL_TOTAL c) = (s.reg (R.SCH_COMP_TOTAL_TOTAL c) + 1) % 2 ^ 64 :=
  reg_setReg_self _ _ _

theorem meterUp_ticks_ne (h : c ≠ d) : (s.meterUp d).reg (R.SCH_COMP_METER_TICKS c) = s.reg (R.SCH_COMP_METER_TICKS c) :=
  (reg_setReg_ne ticks_key_ne_total _ _).trans (reg_bump_ne s (ticks_key_ne h))

theorem meterUp_total_ne (h : c ≠ d) : (s.meterUp d).reg (R.SCH_COMP_TOTAL_TOTAL c) = s.reg (R.SCH_COMP_TOTAL_TOTAL c) :=
  (reg_setReg_ne (total_key_ne h) _ _).trans (reg_bump_ne s ticks_key_ne_total.symm)

/-- The meters of the others stand still. -/
theorem metersUp_of_notMem {l : List Nat} (h : c ∉ l) :
    (l.foldl State.meterUp s).reg (R.SCH_COMP_METER_TICKS c) = s.reg (R.SCH_COMP_METER_TICKS c)
      ∧ (l.foldl State.meterUp s).reg (R.SCH_COMP_TOTAL_TOTAL c) = s.reg (R.SCH_COMP_TOTAL_TOTAL c) := by
  induction l generalizing s with
  | nil => exact ⟨rfl, rfl⟩
  | cons d l ih =>
    obtain ⟨hd, hl⟩ := List.ne_and_not_mem_of_not_mem_cons h
    obtain ⟨hticks, htotal⟩ := ih (s := s.meterUp d) hl
    exact ⟨hticks.trans (meterUp_ticks_ne hd), htotal.trans (meterUp_total_ne hd)⟩

/-- Each of the meters rises once. -/
theorem metersUp_of_mem {l : List Nat} (hmem : c ∈ l) (hnodup : l.Nodup) (h : s.reg (R.SCH_COMP_METER_TICKS c) + 1 < 2 ^ 64) :
    (l.foldl State.meterUp s).reg (R.SCH_COMP_METER_TICKS c) = s.reg (R.SCH_COMP_METER_TICKS c) + 1
      ∧ (l.foldl State.meterUp s).reg (R.SCH_COMP_TOTAL_TOTAL c) = (s.reg (R.SCH_COMP_TOTAL_TOTAL c) + 1) % 2 ^ 64 := by
  induction l generalizing s with
  | nil => cases hmem
  | cons d l ih =>
    obtain ⟨hnew, hnodup⟩ := List.nodup_cons.1 hnodup
    by_cases hcd : c = d
    · subst hcd
      obtain ⟨hticks, htotal⟩ := metersUp_of_notMem (s := s.meterUp c) hnew
      exact ⟨hticks.trans (meterUp_ticks h), htotal.trans meterUp_total⟩
    · have hin : c ∈ l := (List.mem_cons.1 hmem).resolve_left hcd
      have hup := ih (s := s.meterUp d) hin hnodup (by rwa [meterUp_ticks_ne hcd])
      rwa [meterUp_ticks_ne hcd, meterUp_total_ne hcd] at hup

end Sys2Proof.Machine
end

section
/-! SUPPORT. Burin's registers (sections 7.4, 7.7): the statement. -/


namespace Sys2Proof.Machine

/-- Settles O17: what a queue or a composition is used for decides whether a write takes effect, and a tick raises the meters of the
valid compositions once each. -/
theorem schedulerRegisters : Obligations.SchedulerRegisters := by
  unfold Obligations.SchedulerRegisters
  refine ⟨?control, ?unused, ?quantum, ?owing, ?valid, ?setValid, ?overlap, ?named, ?meters⟩
  case control =>
    intro s v
    rfl
  case unused =>
    intro s q v hq hvalid
    rw [exec_schQueueWrite, queueWrite_of_invalid hq hvalid]
  case quantum =>
    intro s q v hq hvalid hkept hclass htenant
    rw [exec_schQueueWrite, queueWrite_of_quantum hq (hkept.trans hvalid.symm) hclass htenant]
  case owing =>
    intro s q v hvalid htenant howing
    rw [exec_schQueueWrite, queueWrite_of_owing hvalid htenant howing]
  case valid =>
    intro s c v hc hok hfree hvalid
    rw [exec_schCompWrite, compWrite_a hc]
    simp [hok, hfree, hvalid]
  case setValid =>
    intro s c v hc hok hfree hvalid hset
    refine ⟨_, ?_, rfl⟩
    rw [exec_schCompWrite, compWrite_a hc]
    simp [hok, hfree, hvalid, hset]
  case overlap =>
    intro s c v hc hclash
    rw [exec_schCompWrite, compWrite_a hc, if_pos hclash]
  case named =>
    intro s c v hc hnamed
    rw [exec_schCompWrite, compWrite_a hc, if_pos hnamed]
    split <;> rfl
  case meters =>
    intro s _
    refine ⟨_, exec_compMeterTick, fun c hc hvalid hroom => ?_, fun c _ hvalid => ?_⟩
    · exact metersUp_of_mem (by simp [hc, hvalid]) (List.nodup_range.filter _) hroom
    · exact metersUp_of_notMem (by simp [hvalid])

end Sys2Proof.Machine
end

section
/-! SUPPORT. Batches and shards (sections 7.2, 7.3, 7.6): when a formed batch is dispatched or held, where a held one
goes, and the end of a run. -/


namespace Sys2Proof.Machine

variable {s : State} {x : Ctx} {g c : Nat} {b : Batch}

/-! ### Forming (R185, R193) -/

section

variable {y : Ctx} {f : Forming} {t : State} (hform : s.form x g (s.resumeHeld x g) = (y, f, t)) (hrows : f.rows ≠ [])
include hform hrows

/-- A batch with rows is dispatched where nothing holds it. -/
theorem formAndDispatch_dispatches {expired : Bool} (h : expired = true ∨ x.desc.rowMin ≤ f.total) :
    s.formAndDispatch x g expired = t.dispatch y g f := by
  obtain rfl | henough := h
  · simp [State.formAndDispatch, hform, hrows]
  · simp [State.formAndDispatch, hform, hrows, henough]

/-- A batch of BE rows below ROW_MIN is held for HOLD_US. -/
theorem formAndDispatch_holds (hfew : f.total < x.desc.rowMin) (hlc : f.lc = false) (hus : x.desc.holdUs ≠ 0) :
    s.formAndDispatch x g false
      = t.putCtx { y with held := some ⟨x.num, g, 0, renumber 0 f.rows.reverse, f.slot, 0, [], false, false⟩ } := by
  simp [State.formAndDispatch, hform, hrows, hfew.not_ge, hlc, hus]

end

/-- Whether a batch of a context may be formed for a group now (R184, R185). -/
def State.mayForm (s : State) (x : Ctx) (g : Nat) : Bool :=
  s.flag R.SCH_CTRL_ENABLE && x.serving && decide (x.desc.kind = .serving) && s.groupIdle x g && s.turnOf x g

theorem exec_batchDispatch (hx : s.ctx? c = some x) : exec (.batchDispatch c g) s
    = .next (if s.mayForm x g then s.formAndDispatch x g x.holdOver else s) := by
  change execBatchDispatch c g s = _
  rw [execBatchDispatch, hx]
  rfl

/-- The group a held batch goes to when its time is over: its own, or the first that is idle and whose turn it is. -/
def State.holdGroup (s : State) (x : Ctx) (h : Batch) : Option Nat :=
  (h.group :: List.range x.desc.groups).find? fun g => s.groupIdle x g && s.turnOf x g

theorem exec_batchHoldExpiry {h : Batch} (hx : s.ctx? c = some x) (hheld : x.held = some h) : exec (.batchHoldExpiry c) s
    = .next (if s.flag R.SCH_CTRL_ENABLE && x.serving && s.groupIdle x ((s.holdGroup x h).getD x.desc.groups) then
        s.formAndDispatch x ((s.holdGroup x h).getD x.desc.groups) true
      else s.putCtx { x with holdOver := true }) := by
  change execBatchHoldExpiry c s = _
  rw [execBatchHoldExpiry, hx]
  dsimp only
  rw [hheld]
  rfl

theorem holdGroup_own {h : Batch} (hidle : s.groupIdle x h.group = true) (hturn : s.turnOf x h.group = true) :
    s.holdGroup x h = some h.group := by
  simp [State.holdGroup, hidle, hturn]

theorem holdGroup_none {h : Batch} (hbusy : ∀ g, s.groupIdle x g = false ∨ s.turnOf x g = false) : s.holdGroup x h = none := by
  rw [State.holdGroup, List.find?_eq_none]
  intro g _
  obtain hidle | hturn := hbusy g
  · simp [hidle]
  · simp [hturn]

/-- There is no group of that number. -/
theorem groupIdle_groups : s.groupIdle x x.desc.groups = false := by simp [State.groupIdle]

/-! ### The end of a run (R200) -/

/-- A batch of a context that is not being torn down ends where its group is done. -/
theorem exec_batchEnd (hopen : ((s.ctx? c).any fun x => decide (x.state = .closing)) = false)
    (hb : (s.sch.batches.find? fun b => b.ctx == c && b.group == g) = some b) : exec (.batchEnd c g) s
      = .next (if s.runOver b.left b.squashed then
          (((b.left.map s.core).foldl State.idleCore s).onSch fun k => { k with
            batches := k.batches.filter fun y => !(y.ctx == c && y.group == g) }).unfinishedSteps b
        else s) := by
  change execBatchEnd c g s = _
  cases hover : s.runOver b.left b.squashed <;> simp [execBatchEnd, hopen, hb, hover]

theorem runOver_of_left_nil {squashed : Bool} : s.runOver [] squashed = true := rfl

theorem runOver_of_running {left : List Nat} (h : left ≠ []) : s.runOver left false = false := by
  simp [State.runOver, h]

end Sys2Proof.Machine
end

section
/-! SUPPORT. Batches and shards (sections 7.2, 7.3, 7.6): the statement. -/


namespace Sys2Proof.Machine

/-- Settles O18: a group that is idle and whose turn it is takes the batch, shard or backup its command is for, and what is still to run
decides whether a run ends. -/
theorem batchesAndShards : Obligations.BatchesAndShards := by
  unfold Obligations.BatchesAndShards
  refine ⟨?dispatch, ?hold, ?notNow, ?expiry, ?noneHeld, ?waits, ?endOfGone, ?endOfBatch, ?endOfShard, ?running, ?shard, ?backup,
    ?noStraggler, ?win, ?refuseHold⟩
  case dispatch =>
    intro s c g x hx henable hserving hkind hidle hturn hrows henough
    generalize hform : s.form x g (s.resumeHeld x g) = formed at *
    have hmay : s.mayForm x g = true := by simp [State.mayForm, henable, hserving, hkind, hidle, hturn]
    rw [exec_batchDispatch hx, if_pos hmay, formAndDispatch_dispatches hform hrows (.inr henough)]
  case hold =>
    intro s c g x hx henable hserving hkind hidle hturn hrows hover hfew hlc hus
    generalize hform : s.form x g (s.resumeHeld x g) = formed at *
    have hmay : s.mayForm x g = true := by simp [State.mayForm, henable, hserving, hkind, hidle, hturn]
    rw [exec_batchDispatch hx, if_pos hmay, hover, formAndDispatch_holds hform hrows hfew hlc hus]
  case notNow =>
    intro s c g x hx hnot
    rw [exec_batchDispatch hx, if_neg]
    obtain h | h | h | h | h := hnot <;> simp [State.mayForm, h]
  case expiry =>
    intro s c x h hx hheld henable hserving hidle hturn hrows
    generalize hform : s.form x h.group (s.resumeHeld x h.group) = formed at *
    rw [exec_batchHoldExpiry hx hheld, holdGroup_own hidle hturn, Option.getD_some, if_pos (by simp [henable, hserving, hidle]),
      formAndDispatch_dispatches hform hrows (.inl rfl)]
  case noneHeld =>
    intro s c x hx hheld
    change execBatchHoldExpiry c s = _
    simp [execBatchHoldExpiry, hx, hheld]
  case waits =>
    intro s c x h hx hheld hbusy
    rw [exec_batchHoldExpiry hx hheld, holdGroup_none hbusy, Option.getD_none, if_neg (by simp [groupIdle_groups])]
  case endOfGone =>
    intro s c g b hgone hb hleft
    rw [exec_batchEnd (by simp [hgone]) hb, hleft, if_pos runOver_of_left_nil]
    rfl
  case endOfBatch =>
    intro s c g b hopen hb hover
    rw [exec_batchEnd hopen hb, if_pos hover]
  case endOfShard =>
    intro s c g y hopen hnone hy hover
    change execBatchEnd c g s = _
    simp [execBatchEnd, hopen, hnone, hy, hover]
  case running =>
    intro s c g b hb hleft hsquashed
    cases hopen : (s.ctx? c).any fun x => decide (x.state = .closing) with
    | true =>
      change execBatchEnd c g s = _
      rw [execBatchEnd, hopen, if_pos rfl]
    | false =>
      rw [exec_batchEnd hopen hb, hsquashed, if_neg (by simp [runOver_of_running hleft])]
  case shard =>
    intro s c g x hx henable hwaits hidle hunits hturn
    change execShardDispatch c g s = _
    simp [execShardDispatch, hx, henable, hwaits, hidle, hunits, hturn]
  case backup =>
    intro s c g sh x y hx hy henable hmode hbackup hstate hwaits hdone hfirst hstraggles hidle hturn
    change execBackupStart c sh g s = _
    simp [execBackupStart, hx, hy, henable, hmode, hbackup, hstate, hwaits, hdone, hfirst, hstraggles, hidle, hturn]
  case noStraggler =>
    intro s c g sh x y hx hy hstraggles
    change execBackupStart c sh g s = _
    simp [execBackupStart, hx, hy, hstraggles]
  case win =>
    intro s c sh copy x y hx hy hserving hfirst
    change execShardWin c sh copy s = _
    simp [execShardWin, hx, hy, hserving, hfirst]
  case refuseHold =>
    intro s n
    rfl

end Sys2Proof.Machine
end

section
/-! SUPPORT. Supply resets (R406, Table 15.2): what PCR_LAST_TRIP keeps of START_COUNT, and the statement of the supplies. -/


namespace Sys2Proof.Machine

variable {s : State}

theorem railsOff_reg (st : St) (cause source : Nat) (g : Fld) :
    (s.railsOff st cause source).reg g = (((s.recordTrip st cause source).lose true).resetRegs true).reg g := rfl

theorem recordTrip_canonical (h : s.canonical) (st : St) (cause source : Nat) : (s.recordTrip st cause source).canonical :=
  (kept_recordTrip (κ := fun _ => false) (Kept.refl s) (fun _ _ => rfl) st cause source).2.2.2.1 h

/-- A cold start's losses leave a canonical register file, and no memory. -/
theorem lose_cold_canonical (h : s.canonical) : (s.lose true).canonical := by
  obtain ⟨hregs, -⟩ := h
  exact ⟨hregs, rfl, rfl, rfl, rfl⟩

/-- PCR_LAST_TRIP.START_COUNT takes the bits of BLD_BOOT.START_COUNT it has room for, and a supply reset keeps it. -/
theorem railsOff_startCount (hs : s.canonical) (st : St) (cause source : Nat) :
    (s.railsOff st cause source).reg R.PCR_LAST_TRIP_START_COUNT = s.reg R.BLD_BOOT_START_COUNT % 2 ^ 32 := by
  have hkept : restored true R.PCR_LAST_TRIP_START_COUNT.key = true := by decide
  have hrecorded : (s.recordTrip st cause source).reg R.PCR_LAST_TRIP_START_COUNT = s.reg R.BLD_BOOT_START_COUNT % 2 ^ 32 :=
    reg_setReg_self _ _ _
  rw [railsOff_reg, reg_resetRegs_small true (lose_cold_canonical (recordTrip_canonical hs st cause source)) (by decide), if_pos hkept]
  exact hrecorded

/-- A canonical state whose register file holds a START_COUNT past the 32 bits of its field. -/
def countPastField : State := { State.reset with regs := [(R.PHS_PHASE_ROLE.key, 3), (R.BLD_BOOT_START_COUNT.key, 2 ^ 32)] }

/-- Refutes O50, by its last clause: the canonical form orders the register file and does not bound a field by its width. A trip in
`countPastField` records START_COUNT 0 (`railsOff_startCount`), where the statement has it equal 2^32. The state shows a gap of the
statement's hypotheses, not of R406: a register write takes a value modulo its field's width. -/
theorem not_supplies : ¬ Obligations.Supplies := by
  unfold Obligations.Supplies
  rintro ⟨-, -, -, -, -, -, -, -, -, -, -, -, -, -, -, -, htrip⟩
  have hcanonical : countPastField.canonical := ⟨rfl, rfl, rfl, rfl, rfl⟩
  have hcount : countPastField.reg R.BLD_BOOT_START_COUNT = 2 ^ 32 := rfl
  obtain ⟨-, -, -, hstart, -⟩ := htrip countPastField .supplyFault 1 0 hcanonical (by decide) (by decide)
  rw [railsOff_startCount hcanonical, hcount] at hstart
  exact absurd hstart (by decide)

end Sys2Proof.Machine
end

section
/-! SUPPORT. Phase turns (chapter 8): what a write to PHS_TURN does by what it meets, and the registers that events, the clearing of the
deficits and the switch leave. -/


namespace Sys2Proof.Machine

variable {s : State} {v : Nat}

/-! ### Acceptance (R211, R212, R230) -/

theorem exec_phsTurnWrite : exec (.phsTurnWrite v) s = .next (s.turnWrite v).1 := rfl

/-- A turn in progress refuses every write, or answers one that repeats it. -/
theorem turnWrite_turning (hturn : s.turning = true) : (s.turnWrite v).1 = s := by
  cases hgo : bitAt v 63 with
  | false => simp [State.turnWrite, hgo, hturn]
  | true =>
    simp only [State.turnWrite, hgo, State.turnGo, hturn, if_true]
    split
    · rfl
    · split <;> rfl

theorem turnWrite_targets (hgo : bitAt v 63 = false) (hturn : s.turning = false) : (s.turnWrite v).1 = s.writeRw 0x400010 v := by
  simp [State.turnWrite, hgo, hturn]

/-- GO is refused for a role the node has no licence for, and for one its phase does not permit (Table 8.1). -/
theorem turnWrite_refused (hgo : bitAt v 63 = true)
    (h : s.roleLicensed (bitsOf v 60 58) = false ∨ phasePermits (bitsOf v 62 61) (bitsOf v 60 58) = false) : (s.turnWrite v).1 = s := by
  cases hlicensed : s.roleLicensed (bitsOf v 60 58) with
  | false => simp [State.turnWrite, State.turnGo, hgo, hlicensed]
  | true =>
    have hpermits := h.resolve_left (by simp [hlicensed])
    simp [State.turnWrite, State.turnGo, hgo, hlicensed, hpermits]

theorem turnWrite_accepted (hgo : bitAt v 63 = true) (hlicensed : s.roleLicensed (bitsOf v 60 58) = true)
    (hpermits : phasePermits (bitsOf v 62 61) (bitsOf v 60 58) = true) (hturn : s.turning = false) :
    (s.turnWrite v).1 = s.acceptTurn v := by
  simp [State.turnWrite, State.turnGo, hgo, hlicensed, hpermits, hturn]

theorem drainCtxs_of_nil (h : s.sch.ctxs = []) : s.drainCtxs = s := by rw [State.drainCtxs, h, List.foldl_nil]

/-- The state of an accepted turn before the node's contexts drain. -/
def State.closing (s : State) (v : Nat) : State := (s.writeRw 0x400010 v).setRegs [(R.PHS_TURN_GO, 1), (R.PHS_PHASE_STATE, 1)]

/-- Accepting a turn changes registers first. -/
theorem kept_closing : Kept (onlyPart .sch) s (s.closing v) :=
  kept_setRegs (kept_writeRw (Kept.refl s) (off_onlyPart (by decide)) _ _) (off_onlyPart (by decide)) _

theorem acceptTurn_of_nil (h : s.sch.ctxs = []) : s.acceptTurn v = (s.closing v).onPhs fun p =>
    { p with acceptedAt := s.aon, forced := false, quietUs := (s.closing v).reg R.PHS_TURN_CFG_HOLDER_QUIET_US } := by
  obtain ⟨-, -, haon, -⟩ := kept_closing (s := s) (v := v)
  have hsch : (s.closing v).sch = s.sch := kept_closing.same (onlyPart_self .sch)
  rw [← haon]
  exact drainCtxs_of_nil (hsch ▸ h)

/-! ### The queues of a turn (R215) -/

/-- A posted request that has completed is not flushed. -/
theorem turnFlush_of_done {q : Nat} (h : s.postedOf q ≤ (s.xq q).next) : s.turnFlush q (s.postedOf q - (s.xq q).next) = s := by
  rw [Nat.sub_eq_zero_of_le h, State.turnFlush]

theorem turnFlushes_of_done {l : List Nat} (h : ∀ q ∈ l, s.postedOf q ≤ (s.xq q).next) :
    l.foldl (fun s q => s.turnFlush q (s.postedOf q - (s.xq q).next)) s = s := by
  induction l with
  | nil => rfl
  | cons q l ih =>
    obtain ⟨hq, hl⟩ := List.forall_mem_cons.1 h
    rw [List.foldl_cons, turnFlush_of_done hq, ih hl]

theorem done_of_queuesEmpty (h : s.queuesEmpty = true) : ∀ q ∈ s.liveQueues, s.postedOf q ≤ (s.xq q).next := by
  obtain ⟨-, hdone⟩ := Bool.and_eq_true_iff.1 h
  simpa using hdone

/-! ### Registers that an event leaves -/

section

variable {g : Fld}

theorem reg_hostSend (cls : Nat) (o : HostOut) : (s.hostSend cls o).reg g = s.reg g := by
  have hregs : (s.hostSend cls o).regs = s.regs :=
    (kept_hostSend (κ := onlyPart .regs) (Kept.refl s) (off_onlyPart (by decide)) cls o).same (onlyPart_self .regs)
  rw [State.reg, hregs, State.reg]

variable (hreg : g.reg < 0x800000) (hlo : g.lo < 64)
include hreg hlo

/-- A field below the event unit's registers is none of theirs. -/
theorem key_ne_of_lt_event {f : Fld} (hf : 0x800000 ≤ f.reg) : g.key ≠ f.key := by
  simp only [Fld.key]
  omega

theorem reg_ringPost (w : EvtWords) (own : Bool) : (s.ringPost w own).reg g = s.reg g := by
  have hne : ∀ f : Fld, 0x800000 ≤ f.reg → g.key ≠ f.key := fun f => key_ne_of_lt_event hreg hlo
  have hclass : g.key ≠ (R.EVT_CLASS_STATS_POSTED (w.code / 256 % 16)).key :=
    hne _ (by simp only [R.EVT_CLASS_STATS_POSTED]; omega)
  unfold State.ringPost
  dsimp only
  split <;> split <;>
    simp only [reg_hostSend, onEvt_reg, reg_setReg_ne (hne R.EVT_OLDEST_OLDEST_SEQ (by decide)),
      reg_setReg_ne (hne R.EVT_HEAD_NEXT_SEQ (by decide)), reg_bump_ne _ (hne R.EVT_STATS_OVERWRITTEN (by decide)),
      reg_bump_ne _ (hne R.EVT_STATS_POSTED (by decide)), reg_bump_ne _ hclass]

theorem reg_postOverwritten : s.postOverwritten.reg g = s.reg g := by
  unfold State.postOverwritten
  split
  · rfl
  · exact reg_ringPost hreg hlo _ _

/-- An event that is not of the fabric class writes the event unit's registers alone (R424). -/
theorem reg_post {e : Ev} (he : e.cls ≠ 2) (ctx : Nat) (a : Nat × Nat) : (s.post e ctx a).reg g = s.reg g := by
  unfold State.post
  rw [if_neg he, reg_postOverwritten hreg hlo, reg_ringPost hreg hlo]

end

/-! ### The deficits (R219) -/

/-- The keys of the two fields of SCH_QUEUE_B. -/
def deficitKey (k : Nat) : Bool := 0x109008 ≤ k / 64 && k / 64 < 0x119008 && k / 64 % 16 == 8

theorem reg_clearDeficits {g : Fld} (h : s.canonical) : s.clearDeficits.reg g = if deficitKey g.key then g.rst else s.reg g := by
  obtain ⟨hregs, -⟩ := h
  have hfilter : s.clearDeficits.reg g = if !deficitKey g.key then s.reg g else g.rst :=
    lookupD_filter (q := fun k => !deficitKey k) hregs
  rw [hfilter]
  cases deficitKey g.key <;> rfl

theorem deficitKey_of_queue {f : Fld} {q : Nat} (hq : q < 4096) (hreg : f.reg = 0x109008 + 16 * q) (hlo : f.lo < 64) :
    deficitKey f.key = true := by
  have hdiv : f.key / 64 = 0x109008 + 16 * q := by
    simp only [Fld.key]
    omega
  simp only [deficitKey, hdiv, Bool.and_eq_true, decide_eq_true_eq, beq_iff_eq]
  omega

/-! ### The switch (R219) -/

/-- The target's role and phase taken. -/
def State.takePhase (s : State) : State :=
  s.setRegs [(R.PHS_PHASE_ROLE, s.reg R.PHS_TURN_TARGET_ROLE), (R.PHS_PHASE_PHASE, s.reg R.PHS_TURN_TARGET_PHASE)]

/-- The target's role and phase taken, and its policy version where the host has staged it. -/
def State.toTarget (s : State) : State :=
  if s.takePhase.reg R.PHS_POLICY_STAGED = s.reg R.PHS_TURN_TARGET_VERSION then
    s.takePhase.setReg R.PHS_POLICY_CURRENT (s.reg R.PHS_TURN_TARGET_VERSION)
  else s.takePhase.post .policyLagging 0xFFF (formO .ok s.takePhase.node 0 0)

theorem kept_toTarget : Kept (onlyPart .phs) s s.toTarget := by
  have htaken : Kept (onlyPart .phs) s s.takePhase := kept_setRegs (Kept.refl s) (off_onlyPart (by decide)) _
  unfold State.toTarget
  split
  · exact kept_setReg htaken (off_onlyPart (by decide)) _ _
  · exact kept_post htaken (off_onlyPart (by decide)) _ _ _

theorem reg_toTarget_of_ne {g : Fld} (hreg : g.reg < 0x800000) (hlo : g.lo < 64) (hne : g.key ≠ R.PHS_POLICY_CURRENT.key) :
    s.toTarget.reg g = s.takePhase.reg g := by
  unfold State.toTarget
  split
  · exact reg_setReg_ne hne _ _
  · exact reg_post hreg hlo (by decide) _ _

theorem toTarget_role : s.toTarget.reg R.PHS_PHASE_ROLE = s.reg R.PHS_TURN_TARGET_ROLE % 8 := by
  rw [reg_toTarget_of_ne (by decide) (by decide) (by decide)]
  exact (reg_setReg_ne (by decide) _ _).trans (reg_setReg_self _ _ _)

theorem toTarget_phase : s.toTarget.reg R.PHS_PHASE_PHASE = s.reg R.PHS_TURN_TARGET_PHASE % 4 := by
  rw [reg_toTarget_of_ne (by decide) (by decide) (by decide)]
  exact reg_setReg_self _ _ _

/-- The staged version becomes current where it is the target's. -/
theorem toTarget_policy : s.toTarget.reg R.PHS_POLICY_CURRENT
    = if s.reg R.PHS_POLICY_STAGED = s.reg R.PHS_TURN_TARGET_VERSION then s.reg R.PHS_TURN_TARGET_VERSION % 2 ^ 32
      else s.reg R.PHS_POLICY_CURRENT := by
  have hstaged : s.takePhase.reg R.PHS_POLICY_STAGED = s.reg R.PHS_POLICY_STAGED := reg_setRegs_of_notMem (by simp; decide) s
  have hcurrent : s.takePhase.reg R.PHS_POLICY_CURRENT = s.reg R.PHS_POLICY_CURRENT := reg_setRegs_of_notMem (by simp; decide) s
  unfold State.toTarget
  rw [hstaged]
  split
  · exact reg_setReg_self _ _ _
  · exact (reg_post (by decide) (by decide) (by decide) _ _).trans hcurrent

/-- What LAST_TURN.DURATION_US takes. -/
def State.turnTime (s : State) : Nat := min (s.aon - s.phs.acceptedAt) 0xFFFFFFFF

/-- What LAST_TURN.STATUS takes (R214). -/
def State.turnEnd (s : State) : St := if s.phs.forced then .turnForced else .ok

/-- The fields a switch writes last: no turn in progress, and the record of the last one. -/
def State.turnRecord (s : State) : List (Fld × Nat) :=
  [(R.PHS_TURN_GO, 0), (R.PHS_PHASE_STATE, 0), (R.PHS_LAST_TURN_DURATION_US, s.turnTime), (R.PHS_LAST_TURN_STATUS, s.turnEnd.code)]

/-- A turn to SCORE or LEARN leaves parked requests parked. -/
theorem turnSwitch_of_phase_ne (hphase : s.reg R.PHS_TURN_TARGET_PHASE ≠ 0) :
    ∃ a, s.turnSwitch = ((s.toTarget.clearDeficits.setRegs s.turnRecord).bump R.PHS_TURN_STATS_TURNS).post .phaseTurnDone 0xFFF a := by
  obtain ⟨-, -, haon, -⟩ := kept_toTarget (s := s)
  have hphs : s.toTarget.phs = s.phs := kept_toTarget.same (onlyPart_self .phs)
  have hrecord : s.toTarget.clearDeficits.turnRecord = s.turnRecord := by
    simp only [State.turnRecord, State.turnTime, State.turnEnd, State.clearDeficits, haon, hphs]
  rw [← hrecord]
  unfold State.turnSwitch
  dsimp only
  rw [if_neg hphase]
  exact ⟨_, rfl⟩

/-- A switch writes its record, clears the deficits and otherwise leaves what taking the target's values left. -/
theorem reg_turnSwitch {g : Fld} (hphase : s.reg R.PHS_TURN_TARGET_PHASE ≠ 0) (hreg : g.reg < 0x800000) (hlo : g.lo < 64)
    (hcount : g.key ≠ R.PHS_TURN_STATS_TURNS.key) : s.turnSwitch.reg g = (s.toTarget.clearDeficits.setRegs s.turnRecord).reg g := by
  obtain ⟨a, hswitch⟩ := turnSwitch_of_phase_ne hphase
  rw [hswitch, reg_post hreg hlo (by decide), reg_bump_ne _ hcount]

theorem reg_turnSwitch_of_notMem {g : Fld} (hs : s.canonical) (hphase : s.reg R.PHS_TURN_TARGET_PHASE ≠ 0) (hreg : g.reg < 0x800000)
    (hlo : g.lo < 64) (hcount : g.key ≠ R.PHS_TURN_STATS_TURNS.key) (hrecord : ∀ p ∈ s.turnRecord, g.key ≠ p.1.key) :
    s.turnSwitch.reg g = if deficitKey g.key then g.rst else s.toTarget.reg g := by
  obtain ⟨-, -, -, hcanonical, -⟩ := kept_toTarget (s := s)
  rw [reg_turnSwitch hphase hreg hlo hcount, reg_setRegs_of_notMem hrecord, reg_clearDeficits (hcanonical hs)]

/-- Every deficit is 0 after a switch. -/
theorem turnSwitch_deficit {g : Fld} {q : Nat} (hs : s.canonical) (hphase : s.reg R.PHS_TURN_TARGET_PHASE ≠ 0) (hq : q < 4096)
    (hreg : g.reg = 0x109008 + 16 * q) (hlo : g.lo < 64) (hrst : g.rst = 0) : s.turnSwitch.reg g = 0 := by
  have hne : ∀ f : Fld, 0x400000 ≤ f.reg → g.key ≠ f.key := by
    intro f hf
    simp only [Fld.key]
    omega
  have hrecord : ∀ p ∈ s.turnRecord, 0x400000 ≤ p.1.reg := by
    simp [State.turnRecord]
    decide
  rw [reg_turnSwitch_of_notMem hs hphase (by omega) hlo (hne _ (by decide)) fun p hp => hne p.1 (hrecord p hp),
    if_pos (deficitKey_of_queue hq hreg hlo), hrst]

end Sys2Proof.Machine
end

section
/-! SUPPORT. Phase turns (chapter 8): the statement. -/


namespace Sys2Proof.Machine

/-- Settles O19: what a write to PHS_TURN meets decides whether the turn starts, each state of a turn is left by its own command, and
the switch of a turn to SCORE or LEARN leaves the target's values and no deficit. -/
theorem phaseTurns : Obligations.PhaseTurns := by
  unfold Obligations.PhaseTurns
  refine ⟨?accepted, ?unlicensed, ?unpermitted, ?turning, ?targets, ?finish, ?parked, ?quiesced, ?notQuiesce, ?checked, ?notChecked,
    ?holderQuiet, ?forced, ?notForced, ?control, ?policy, ?floor, ?switched⟩
  case accepted =>
    intro s v hgo hlicensed hpermits hturn hctxs
    rw [exec_phsTurnWrite, turnWrite_accepted hgo hlicensed hpermits hturn, acceptTurn_of_nil hctxs]
    rfl
  case unlicensed =>
    intro s v hgo hlicensed
    rw [exec_phsTurnWrite, turnWrite_refused hgo (.inl hlicensed)]
  case unpermitted =>
    intro s v hgo hpermits
    rw [exec_phsTurnWrite, turnWrite_refused hgo (.inr hpermits)]
  case turning =>
    intro s v hturn
    rw [exec_phsTurnWrite, turnWrite_turning hturn]
  case targets =>
    intro s v hgo hturn
    rw [exec_phsTurnWrite, turnWrite_targets hgo hturn]
  case finish =>
    intro s
    rfl
  case parked =>
    intro s
    rfl
  case quiesced =>
    intro s hstate hremotes hempty
    change execTurnQuiesceDone s = _
    simp [execTurnQuiesceDone, hstate, turnFlushes_of_done (done_of_queuesEmpty hempty), State.originBusy, hremotes, hempty]
  case notQuiesce =>
    intro s hstate
    exact if_pos hstate
  case checked =>
    intro s hstate hempty hquiet
    exact congrArg Host.Outcome.next (if_pos ⟨hstate, hempty, hquiet⟩)
  case notChecked =>
    intro s hnot
    refine congrArg Host.Outcome.next (if_neg ?_)
    rintro ⟨hstate, hempty, hquiet⟩
    obtain h | h | h := hnot
    · exact h hstate
    · simp [h] at hempty
    · simp [h] at hquiet
  case holderQuiet =>
    intro s
    rfl
  case forced =>
    intro s hfrom hto hforced hctxs
    change execTurnDrainLimitExpiry s = _
    have hnode : (s.setReg R.PHS_PHASE_STATE 3).node = s.node := setReg_node (by decide) _
    simp [execTurnDrainLimitExpiry, hfrom, hto, hforced, hctxs, State.tearDownAll, hnode]
  case notForced =>
    intro s hnot
    refine if_neg ?_
    rintro ⟨hfrom, hto, hunforced⟩
    obtain h | h | h := hnot
    · omega
    · omega
    · simp [h] at hunforced
  case control =>
    intro s v
    rfl
  case policy =>
    intro s v
    change execPhsPolicyWrite v s = _
    rw [execPhsPolicyWrite, State.policyWrite]
    split <;> rfl
  case floor =>
    intro s v
    rfl
  case switched =>
    intro s hs hphase
    refine ⟨?role, ?phase, ?steady, ?done, ?version, ?status, ?duration, fun q hq => ⟨?step, ?place⟩⟩
    case role =>
      rw [reg_turnSwitch_of_notMem hs hphase (by decide) (by decide) (by decide) (by simp [State.turnRecord]; decide)]
      exact toTarget_role
    case phase =>
      rw [reg_turnSwitch_of_notMem hs hphase (by decide) (by decide) (by decide) (by simp [State.turnRecord]; decide)]
      exact toTarget_phase
    case steady =>
      rw [reg_turnSwitch hphase (by decide) (by decide) (by decide)]
      exact ((reg_setReg_ne (by decide) _ _).trans (reg_setReg_ne (by decide) _ _)).trans (reg_setReg_self _ _ _)
    case done =>
      rw [reg_turnSwitch hphase (by decide) (by decide) (by decide)]
      refine (reg_setRegs_of_notMem (l := s.turnRecord.tail) (by simp [State.turnRecord]; decide) _).trans ?_
      exact reg_setReg_self _ _ _
    case version =>
      rw [reg_turnSwitch_of_notMem hs hphase (by decide) (by decide) (by decide) (by simp [State.turnRecord]; decide)]
      exact toTarget_policy
    case status =>
      rw [reg_turnSwitch hphase (by decide) (by decide) (by decide)]
      refine (reg_setReg_self _ _ _).trans ?_
      rw [State.turnEnd]
      split <;> rfl
    case duration =>
      rw [reg_turnSwitch hphase (by decide) (by decide) (by decide)]
      refine ((reg_setReg_ne (by decide) _ _).trans (reg_setReg_self _ _ _)).trans (Nat.mod_eq_of_lt ?_)
      exact (Nat.min_le_right _ _).trans_lt (by decide)
    case step =>
      exact turnSwitch_deficit hs hphase hq rfl (by simp [R.SCH_QUEUE_B_STEP_DEFICIT]) rfl
    case place =>
      exact turnSwitch_deficit hs hphase hq rfl (by simp [R.SCH_QUEUE_B_PLACE_DEFICIT]) rfl

end Sys2Proof.Machine
end

section
/-! SUPPORT. The region table of mordant keys (R261, R262, R264): its commands and its base. -/

namespace Sys2Proof.Machine

variable {s : State} {n : Nat} {r : Region}

theorem regionCmdOk_idle (hbusy : s.flag R.FAB_REGION_STATUS_BUSY = false) (hlock : s.flag R.FAB_KEY_POLICY_LOCK = false) :
    s.regionCmdOk true = none := by simp [State.regionCmdOk, hbusy, hlock]

/-- REGISTER and REVOKE run while no region command does and no approval is asked for. -/
theorem exec_region_idle (hbusy : s.flag R.FAB_REGION_STATUS_BUSY = false) (hlock : s.flag R.FAB_KEY_POLICY_LOCK = false) :
    exec (.regionRegister n) s = .next (s.regionRegister n).1 ∧ exec (.regionRevoke n) s = .next (s.regionRevoke n).1 := by
  change execRegionRegister n s = _ ∧ execRegionRevoke n s = _
  simp only [execRegionRegister, execRegionRevoke, regionCmdOk_idle hbusy hlock, and_self]

theorem exec_region_refused (h : s.flag R.FAB_REGION_STATUS_BUSY = true ∨ s.flag R.FAB_KEY_POLICY_LOCK = true) :
    exec (.regionRegister n) s = .next s ∧ exec (.regionRevoke n) s = .next s := by
  obtain ⟨st, hst⟩ : ∃ st, s.regionCmdOk true = some st := by
    cases hbusy : s.flag R.FAB_REGION_STATUS_BUSY with
    | true => exact ⟨.badState, if_pos hbusy⟩
    | false => exact ⟨.approvalRequired, by simp [State.regionCmdOk, hbusy, h.resolve_left (by simp [hbusy])]⟩
  change execRegionRegister n s = _ ∧ execRegionRevoke n s = _
  simp only [execRegionRegister, execRegionRevoke, hst, and_self]

theorem exec_regionRead_idle (hbusy : s.flag R.FAB_REGION_STATUS_BUSY = false) :
    exec (.regionRead n) s = .next (s.regionRead n) := by
  change execRegionRead n s = _
  simp [execRegionRead, State.regionCmdOk, hbusy]

theorem argRegion_eq_some (h : s.argRegion n = some r) : r.num = n ∧ r.state = .valid ∧ 0 < n ∧ 0 < r.length ∧ r.space < 3
    ∧ r.base = s.reg R.FAB_REGION_ARG1_WORD ∧ r.length = s.reg R.FAB_REGION_ARG2_WORD
    ∧ (r.space = 0 → r.base + r.length ≤ s.hbmBytes) := by
  have hspace : bitsOf (s.reg R.FAB_REGION_ARG0_WORD) 58 57 < 4 := Nat.mod_lt _ (by decide)
  simp only [State.argRegion, Option.ite_none_left_eq_some, not_or] at h
  obtain ⟨⟨hn, hthree, -, -, -, hlength, hlimit⟩, h⟩ := h
  cases h
  refine ⟨rfl, rfl, by omega, by dsimp only; omega, by dsimp only; omega, rfl, rfl, fun hzero => ?_⟩
  dsimp only at hzero ⊢
  rw [hzero] at hlimit
  exact Nat.not_lt.1 hlimit

/-- The entry a revoking command waits for is FREE once its INFLIGHT is 0 (R264). -/
theorem execRevokeComplete_done (hrevoking : s.fab.revoking = some n) (hr : s.region? n = some r) (hinflight : r.inflight = 0) :
    execRevokeComplete s = .next (((s.onFab fun f => { f with regions := f.regions.filter (·.num != n), revoking := none }).setRegs
      [(R.FAB_REGION_STATUS_BUSY, 0), (R.FAB_REGION_STATUS_STATUS, 0)]).post .regionRevoked 0xFFF (formR .ok s.node n 0)) := by
  have hnode : ((s.onFab fun f => { f with regions := f.regions.filter (·.num != n), revoking := none }).setRegs
      [(R.FAB_REGION_STATUS_BUSY, 0), (R.FAB_REGION_STATUS_STATUS, 0)]).node = s.node := setRegs_node (by decide)
  simp only [execRevokeComplete, hrevoking, hr, Option.any_some, hinflight, ne_eq, not_true, decide_false, Bool.false_eq_true, if_false,
    hnode]

/-- Settles O26: a command that may run finds its arguments and the entry of its number, and they decide its outcome. -/
theorem regionCommands : Obligations.RegionCommands := by
  unfold Obligations.RegionCommands
  refine ⟨?registered, ?held, ?noEntry, ?badArgs, ?args, ?revoked, ?notValid, ?refused, ?read, ?readFree, ?complete, ?inflight, ?pool,
    ?based, ?notBased⟩
  case registered =>
    intro s n r hbusy hlock harg hfree
    rw [(exec_region_idle hbusy hlock).1]
    simp [State.regionRegister, harg, hfree]
  case held =>
    intro s n r hbusy hlock harg hheld
    rw [(exec_region_idle hbusy hlock).1]
    simp [State.regionRegister, harg, hheld]
  case noEntry =>
    intro s n hbusy hlock harg
    rw [(exec_region_idle hbusy hlock).1]
    simp [State.regionRegister, harg]
  case badArgs =>
    intro s n hbad
    refine if_pos ?_
    obtain h | h | h := hbad <;> simp [h]
  case args => exact fun s n r h => argRegion_eq_some h
  case revoked =>
    intro s n r hbusy hlock hn hr hvalid
    rw [(exec_region_idle hbusy hlock).2]
    simp [State.regionRevoke, hr, hvalid, Nat.ne_of_gt hn]
  case notValid =>
    intro s n hbusy hlock hnot
    rw [(exec_region_idle hbusy hlock).2, State.regionRevoke]
    cases hr : s.region? n with
    | none => rfl
    | some r =>
      have hr' : n = 0 ∨ r.state ≠ .valid := by
        obtain h | ⟨r', h, hstate⟩ | h := hnot
        · cases hr.symm.trans h
        · cases hr.symm.trans h
          exact .inr hstate
        · exact .inl h
      simp [hr']
  case refused => exact fun s n h => exec_region_refused h
  case read =>
    intro s n r hbusy hr
    rw [exec_regionRead_idle hbusy, State.regionRead, hr]
    rfl
  case readFree =>
    intro s n hbusy hr
    rw [exec_regionRead_idle hbusy, State.regionRead, hr]
    rfl
  case complete => exact fun s n r hrevoking hr hinflight => execRevokeComplete_done hrevoking hr hinflight
  case inflight =>
    intro s n r hrevoking hr hinflight
    change execRevokeComplete s = _
    simp [execRevokeComplete, hrevoking, hr, hinflight]
  case pool =>
    intro s r hr
    cases hr
    exact ⟨rfl, rfl, rfl, rfl, rfl, rfl⟩
  case based =>
    intro s b hb haligned hmapped hreserved hpool hnone
    change Host.Outcome.next (s.regionBaseWrite b).1 = _
    simp only [State.regionBaseWrite, Nat.mod_eq_of_lt hb, haligned, hmapped, hreserved, hpool, hnone]
    rw [if_neg (by simp), if_neg (by simp)]
  case notBased =>
    intro s b hnot
    refine congrArg Host.Outcome.next ?_
    rw [State.regionBaseWrite]
    split
    case isTrue => rfl
    case isFalse hok =>
      have hregions : s.fab.regions ≠ [] := hnot.resolve_right (by omega)
      rw [if_pos (by simpa using hregions)]

end Sys2Proof.Machine
end

section
/-! SUPPORT. Ordered channels at their source (R250 to R252): what an OACK frees, and what is sent again. -/

namespace Sys2Proof.Machine

variable {s : State} {dst oack : Nat} {c : OutChannel}

/-- The frames of a channel that an OACK leaves unacknowledged. -/
def OutChannel.left (c : OutChannel) (oack : Nat) : List Frame := c.unacked.filter fun g => !oackCovers oack g.oseq

/-- A channel whose frames an OACK has freed. -/
def OutChannel.freed (c : OutChannel) (oack : Nat) : OutChannel :=
  { c with
    unacked := c.left oack
    limits := c.limits.filter fun x => !oackCovers oack x.1
    retx := 0
    unreachable := false }

theorem outCh_of_out (hc : s.out? dst = some c) : s.outCh dst = c := by rw [State.outCh, hc, Option.getD_some]

/-- An OACK acknowledges something just where it leaves fewer frames than there were. -/
theorem any_covered_iff : (c.unacked.any fun g => oackCovers oack g.oseq) = true ↔ (c.left oack).length < c.unacked.length := by
  rw [OutChannel.left, List.length_filter_lt_length_iff_exists]
  simp

theorem takeOack_reachable (hc : s.out? dst = some c) (hless : (c.left oack).length < c.unacked.length) (hwaiting : c.waiting = [])
    (hreach : c.unreachable = false) : s.takeOack dst oack = (s.putOut (c.freed oack)).pumpDst dst := by
  rw [OutChannel.left] at hless
  simp only [State.takeOack, hc]
  rw [if_neg (Nat.ne_of_lt hless)]
  simp only [hwaiting, hreach, List.length_nil, State.pumpWaiting, Bool.false_eq_true, if_false, OutChannel.freed, OutChannel.left]

theorem takeOack_regained (hc : s.out? dst = some c) (hall : c.left oack = []) (hsome : c.unacked ≠ []) (hwaiting : c.waiting = [])
    (hunreach : c.unreachable = true) : s.takeOack dst oack
      = (((((s.putOut (c.freed oack)).markReachable dst).post .nodeReachable 0xFFF (formO .ok dst 0 0)).regained dst).pumpDst dst) := by
  have hless : (c.left oack).length < c.unacked.length := by
    rw [hall]
    exact List.length_pos_of_ne_nil hsome
  rw [OutChannel.freed, hall]
  rw [OutChannel.left] at hall hless
  simp only [State.takeOack, hc]
  rw [if_neg (Nat.ne_of_lt hless)]
  simp only [hwaiting, hunreach, hall, List.length_nil, State.pumpWaiting, if_true, State.resend, List.foldl_nil]

variable {f : Frame}

/-- A standalone OACK that asks for no restart acknowledges, or names a gap where it acknowledges nothing new (log entry 42). -/
theorem exec_oack (hbody : f.body = .oack) (hsync : f.sync = false) (hc : (s.takeFrame f).out? f.src = some c) :
    exec (.oack f) s = .next (if (c.left f.oack).length < c.unacked.length then (s.takeFrame f).takeOack f.src f.oack
      else (s.takeFrame f).retransmit f.src) := by
  change execOack f s = _
  simp only [execOack, hbody, ne_eq, not_true, if_false, hsync, Bool.false_eq_true, outCh_of_out hc, any_covered_iff]

theorem retransmit_idle (h : (s.outCh dst).unreachable = true ∨ (s.outCh dst).unacked = []) : s.retransmit dst = s :=
  if_pos (by simpa using h)

theorem retransmit_busy (hreach : (s.outCh dst).unreachable = false) (hunacked : (s.outCh dst).unacked ≠ []) :
    s.retransmit dst = if (s.outCh dst).retxLimit ≤ (s.outCh dst).retx + 1 then
        ((s.putOut { s.outCh dst with retx := (s.outCh dst).retx + 1 }).resend dst (s.outCh dst).unacked).nodeLost dst
      else (s.putOut { s.outCh dst with retx := (s.outCh dst).retx + 1 }).resend dst (s.outCh dst).unacked :=
  if_neg (by simpa [hreach] using hunacked)

theorem coverFrame_dst (sent : Nat) (f : Frame) : (coverFrame sent f).dst = f.dst := by
  unfold coverFrame
  split <;> rfl

/-- Settles O27: what an OACK covers of its channel, and whether the channel is unreachable, decide what is freed and what is sent
again. That an OACK which acknowledges nothing new names a gap, and that the oldest unacknowledged frame is the probe, are the model's
choices (log entry 42). -/
theorem orderedChannels : Obligations.OrderedChannels := by
  unfold Obligations.OrderedChannels
  refine ⟨?restart, ?gap, ?acked, ?regained, ?notOack, ?idle, ?again, ?lost, ?stillLost, ?probe, ?noProbe, ?owed, ?notOwed, ?restarted⟩
  case restart =>
    intro s f hbody hsync
    change execOack f s = _
    simp [execOack, hbody, hsync]
  case gap =>
    intro s f c hbody hsync hc hsame
    exact (exec_oack hbody hsync hc).trans (congrArg _ (if_neg (Nat.not_lt.2 hsame.ge)))
  case acked =>
    intro s f c hbody hsync hc hless hwaiting hreach
    refine (exec_oack hbody hsync hc).trans (congrArg _ ((if_pos hless).trans ?_))
    rw [takeOack_reachable hc hless hwaiting hreach, OutChannel.freed, hreach]
    rfl
  case regained =>
    intro s f c hbody hsync hc hall hsome hwaiting hunreach
    have hless : (c.left f.oack).length < c.unacked.length := by
      rw [OutChannel.left, hall]
      exact List.length_pos_of_ne_nil hsome
    rw [exec_oack hbody hsync hc, if_pos hless, takeOack_regained hc hall hsome hwaiting hunreach, OutChannel.freed, OutChannel.left, hall]
  case notOack =>
    intro s f hbody
    exact if_pos hbody
  case idle => exact fun s dst h => congrArg Host.Outcome.next (retransmit_idle h)
  case again =>
    intro s dst hreach hunacked hfew
    exact congrArg Host.Outcome.next ((retransmit_busy hreach hunacked).trans (if_neg (Nat.not_le.2 hfew)))
  case lost =>
    intro s dst hreach hunacked hlimit
    exact congrArg Host.Outcome.next ((retransmit_busy hreach hunacked).trans (if_pos hlimit))
  case stillLost => exact fun s dst h => if_pos h
  case probe =>
    intro s dst g gs hunreach hunacked
    change execProbeExpiry dst s = _
    simp [execProbeExpiry, hunreach, hunacked, State.resend]
  case noProbe =>
    intro s dst hreach
    change execProbeExpiry dst s = _
    simp [execProbeExpiry, hreach]
  case owed =>
    intro s src c hc howed
    change execStandaloneOackExpiry src s = _
    simp only [execStandaloneOackExpiry, State.sendOack, hc, Option.any_some, howed, if_true]
    rfl
  case notOwed =>
    intro s src hnone
    refine congrArg Host.Outcome.next (if_neg ?_)
    cases hc : s.inCh? src with
    | none => simp
    | some c => simp [hnone c hc]
  case restarted =>
    intro inc i f
    exact ⟨rfl, rfl, rfl, coverFrame_dst 0 f⟩

end Sys2Proof.Machine
end

section
/-! SUPPORT. The release of the node's number (R243). -/

namespace Sys2Proof.Machine

variable {s : State} {v : Nat}

theorem csrWrite_release (hrelease : bitAt v 63 = true) : s.csrWrite false 0x280008 v = s.releaseNumber v := by
  have hrow : (regRowAt 0x280008).isNone = false := by decide +kernel
  simp [State.csrWrite, State.absentBlock, State.csrGuarded, hrow, State.regWrite, State.fabWrite, hrelease]

theorem recordsUsed_ne_zero (h : s.rse.homes ≠ [] ∨ s.rse.works ≠ []) : s.recordsUsed ≠ 0 := by
  unfold State.recordsUsed
  by_cases hhomes : s.rse.homes = []
  · have hworks : s.rse.works.length ≠ 0 := by simpa using h.resolve_left (not_not.2 hhomes)
    simp only [State.home?, hhomes, List.find?_nil, Option.isNone_none, List.filter_true]
    omega
  · have hlength : s.rse.homes.length ≠ 0 := by simpa using hhomes
    omega

theorem releaseNumber_refused (h : s.recordsUsed ≠ 0) : s.releaseNumber v = (s, .badState) := if_pos h

/-- The standing report is written below no register of the security block (R387). -/
theorem reg_reReport {g : Fld} (hreg : g.reg < 0x600000) (hlo : g.lo < 64) : s.reReport.reg g = s.reg g := by
  have hseq : g.key ≠ R.SEC_REPORT_SEQ_SEQ.key := by
    simp only [Fld.key, R.SEC_REPORT_SEQ_SEQ]
    omega
  unfold State.reReport
  split
  · rfl
  · rw [reg_setReg_ne hseq, reg_setRegs_of_notMem]
    simp only [List.forall_mem_map, Fld.key, R.SEC_REPORT_WORD]
    omega

/-- A valid number given up: of the capability descriptor NODE_VALID and CHANGE_COUNT change (R28), and the report follows. -/
theorem reg_numberGone {g : Fld} (hvalid : s.flag R.CAP_NODE_NODE_VALID = true) (hreg : g.reg < 0x600000) (hlo : g.lo < 64)
    (hcount : g.key ≠ R.CAP_CHANGE_CHANGE_COUNT.key) :
    (s.capChange [(R.CAP_NODE_NODE_VALID, 0)]).reReport.reg g = (s.setReg R.CAP_NODE_NODE_VALID 0).reg g := by
  have hone : s.reg R.CAP_NODE_NODE_VALID = 1 := by simpa [State.flag] using hvalid
  rw [reg_reReport hreg hlo, State.capChange, if_neg (by simp [hone]), reg_post (hreg.trans (by decide)) hlo (by decide),
    reg_setReg_ne hcount]
  rfl

/-- A number given up is not valid, and FAB_ASSIGN holds the number written. That NUMBER takes what is written with RELEASE is the
model's choice (log entry 78). -/
theorem releaseNumber_fields (hfree : s.recordsUsed = 0) : ∃ t, s.releaseNumber v = (t, .ok) ∧ t.flag R.CAP_NODE_NODE_VALID = false
    ∧ t.reg R.FAB_ASSIGN_NUMBER = v % 65536 ∧ t.flag R.FAB_ASSIGN_VALID = false := by
  have hwritten : ∀ g : Fld, g.key ≠ R.FAB_ASSIGN_NUMBER.key → g.key ≠ R.FAB_ASSIGN_VALID.key → g.key ≠ R.FAB_ASSIGN_RELEASE.key →
      (s.setRegs [(R.FAB_ASSIGN_NUMBER, v % 65536), (R.FAB_ASSIGN_VALID, 0), (R.FAB_ASSIGN_RELEASE, 1)]).reg g = s.reg g :=
    fun g h h' h'' => (reg_setReg_ne h'' _ _).trans ((reg_setReg_ne h' _ _).trans (reg_setReg_ne h _ _))
  have hnumber : (s.setRegs [(R.FAB_ASSIGN_NUMBER, v % 65536), (R.FAB_ASSIGN_VALID, 0), (R.FAB_ASSIGN_RELEASE, 1)]).reg
      R.FAB_ASSIGN_NUMBER = v % 65536 :=
    (reg_setReg_ne (by decide) _ _).trans ((reg_setReg_ne (by decide) _ _).trans ((reg_setReg_self _ _ _).trans (Nat.mod_mod _ _)))
  have hgone : (s.setRegs [(R.FAB_ASSIGN_NUMBER, v % 65536), (R.FAB_ASSIGN_VALID, 0), (R.FAB_ASSIGN_RELEASE, 1)]).reg
      R.FAB_ASSIGN_VALID = 0 := (reg_setReg_ne (by decide) _ _).trans (reg_setReg_self _ _ _)
  refine ⟨_, if_neg (not_not.2 hfree), ?_⟩
  generalize hwrote : s.setRegs [(R.FAB_ASSIGN_NUMBER, v % 65536), (R.FAB_ASSIGN_VALID, 0), (R.FAB_ASSIGN_RELEASE, 1)] = u at *
  have hsame : u.flag R.CAP_NODE_NODE_VALID = s.flag R.CAP_NODE_NODE_VALID := by
    simp only [State.flag, hwritten R.CAP_NODE_NODE_VALID (by decide) (by decide) (by decide)]
  cases hvalid : s.flag R.CAP_NODE_NODE_VALID with
  | false => exact ⟨hsame.trans hvalid, hnumber, by simp [State.flag, hgone]⟩
  | true =>
    have hu := hsame.trans hvalid
    simp only [if_true, State.flag]
    rw [reg_numberGone hu (by decide) (by decide) (by decide), reg_numberGone hu (by decide) (by decide) (by decide),
      reg_numberGone hu (by decide) (by decide) (by decide), reg_setReg_self, reg_setReg_ne (by decide), reg_setReg_ne (by decide),
      hnumber, hgone]
    exact ⟨rfl, rfl, rfl⟩

/-- Settles O55: a record at home or owned takes a slot of the directory, so the release is refused; otherwise the number is gone. What
FAB_ASSIGN.NUMBER holds after a release is the model's choice (log entry 78). -/
theorem numberRelease : Obligations.NumberRelease := by
  unfold Obligations.NumberRelease
  refine ⟨?used, ?free, ?same⟩
  case used =>
    intro s v hrelease hheld
    have hused := recordsUsed_ne_zero hheld
    exact ⟨(csrWrite_release hrelease).trans (releaseNumber_refused hused), execFabAssignRelease_refused hused⟩
  case free =>
    intro s v hrelease hfree _
    rw [csrWrite_release hrelease]
    exact releaseNumber_fields hfree
  case same =>
    intro s v hrelease hfree _ hnumber
    obtain ⟨t, ht, -⟩ := releaseNumber_fields (v := v) hfree
    have hwritten : s.releaseNumber (s.reg R.FAB_ASSIGN_NUMBER) = s.releaseNumber v := by
      rw [← hnumber, State.releaseNumber, State.releaseNumber, Nat.mod_mod]
    refine ⟨t, ?_, (csrWrite_release hrelease).trans ht⟩
    exact congrArg Host.Outcome.next (congrArg Prod.fst (hwritten.trans ht))

end Sys2Proof.Machine
end

section
/-! SUPPORT. Ports and the states of a link (sections 9.1, 9.3 and 9.11): configuration, training, loss and virtual links. -/

namespace Sys2Proof.Machine

variable {s : State} {l : Link}

/-! ### The port of a link under events -/

theorem sent_sendMsgs (s : State) (m : Msg) (ds : List Nat) : Sent s (s.sendMsgs m ds) := by
  induction ds generalizing s with
  | nil => exact .refl s
  | cons d ds ih => exact (sent_sendMsg s d m).trans (ih _)

/-- No field that sending writes starts at bit 16. -/
theorem unsent_of_bit16 {g : Fld} (hg : g.key % 64 = 16) : g.unsent := by
  refine ⟨fun p hkey => ?_, fun hkey => ?_, fun hkey => ?_, fun hkey => ?_⟩
  · simp only [Fld.key, R.FAB_PORT_TX_BYTES] at hg hkey
    omega
  all_goals
    rw [hkey] at hg
    exact absurd hg (by decide)

/-- No field of the event unit that a posted event writes starts at bit 16. -/
theorem reg_ringPost_of_bit16 {g : Fld} (hg : g.key % 64 = 16) (s : State) (w : EvtWords) (own : Bool) :
    (s.ringPost w own).reg g = s.reg g := by
  have hne : ∀ f : Fld, f.key % 64 ≠ 16 → g.key ≠ f.key := fun f hf hkey => hf (hkey ▸ hg)
  have hclass : g.key ≠ (R.EVT_CLASS_STATS_POSTED (w.code / 256 % 16)).key :=
    hne _ (by simp only [Fld.key, R.EVT_CLASS_STATS_POSTED]; omega)
  unfold State.ringPost
  dsimp only
  split <;> split <;>
    simp only [reg_hostSend, onEvt_reg, reg_setReg_ne (hne R.EVT_OLDEST_OLDEST_SEQ (by decide)),
      reg_setReg_ne (hne R.EVT_HEAD_NEXT_SEQ (by decide)), reg_bump_ne _ (hne R.EVT_STATS_OVERWRITTEN (by decide)),
      reg_bump_ne _ (hne R.EVT_STATS_POSTED (by decide)), reg_bump_ne _ hclass]

theorem reg_post_of_bit16 {g : Fld} (hg : g.key % 64 = 16) (s : State) (e : Ev) (ctx : Nat) (a : Nat × Nat) :
    (s.post e ctx a).reg g = s.reg g := by
  have hring : ((s.ringPost (s.evtWords e ctx a) false).postOverwritten).reg g = s.reg g := by
    unfold State.postOverwritten
    split
    · exact reg_ringPost_of_bit16 hg _ _ _
    · exact (reg_ringPost_of_bit16 hg _ _ _).trans (reg_ringPost_of_bit16 hg _ _ _)
  unfold State.post
  dsimp only
  split
  · exact ((sent_sendMsgs _ _ _).reg g (unsent_of_bit16 hg)).trans hring
  · exact hring

theorem linkPort_postLink (s : State) (e : Ev) (l : Link) (reason : Nat) (i : LinkId) :
    (s.postLink e l reason).linkPort i = s.linkPort i := by
  cases i with
  | port p => rfl
  | virt i => exact reg_post_of_bit16 (by simp only [Fld.key, R.FAB_PEER_PORT]; omega) _ _ _ _

theorem linkDown_up (hup : l.state = .up) : s.linkDown l
    = ((s.putLink { freshLink l.id .down with peer := l.peer }).postLink .linkDown l 0).reroute (s.linkPort l.id / 4)
        (l.replay.map (·.frame) ++ l.queue) := by
  have hport : ∀ u : State, (u.postLink .linkDown l 0).linkPort l.id = u.linkPort l.id := fun u => linkPort_postLink u _ _ _ _
  simp only [State.linkDown, hup, if_true, hport]
  rfl

/-! ### Port configuration -/

/-- A port configured to run: a change of mode trains it again, any other write retries its FAILED links and may drain it. -/
theorem portCfgWrite_on {p v : Nat} (hp : p < s.ports) (hmode : bitsOf v 1 0 ≠ 3) (hcrypt : bitsOf v 7 6 = 0)
    (hon : bitsOf v 1 0 ≠ 2) : (s.portCfgWrite p v).1
      = if bitsOf v 1 0 = s.reg (R.FAB_PORT_CFG_MODE p) then
          if bitAt v 3 then ((s.writeRw (R.FAB_PORT_CFG_MODE p).reg v).retryFailed p).drainPort p
          else (s.writeRw (R.FAB_PORT_CFG_MODE p).reg v).retryFailed p
        else ((s.writeRw (R.FAB_PORT_CFG_MODE p).reg v).disablePort p).trainPort p := by
  simp only [State.portCfgWrite, Nat.not_le.2 hp, hmode, hcrypt, hon, if_false, ne_eq, not_true, false_and, false_or,
    eq_comm (a := bitsOf v 1 0), ite_not, OfNat.zero_ne_ofNat]
  split
  · split <;> rfl
  · rfl

theorem portCfgWrite_refused {p v : Nat} (h : bitsOf v 1 0 = 3 ∨ bitsOf v 7 6 = 3
    ∨ bitsOf v 7 6 ≠ 0 ∧ s.flag R.CAP_FEATURES_LINK_CRYPT = false) : (s.portCfgWrite p v).1 = s := by
  unfold State.portCfgWrite
  dsimp only
  split
  · rfl
  split
  · rfl
  next hlicensed =>
    rw [if_pos]
    simp only [Bool.not_eq_true', not_and] at hlicensed
    obtain h | h | ⟨hcrypt, hflag⟩ := h
    · exact .inl h
    · exact .inr h
    · exact absurd hflag (hlicensed hcrypt)

/-! ### Training -/

theorem trained_sound (hlow : s.laneBad (s.linkPort l.id) 0 = false) (hhigh : s.laneBad (s.linkPort l.id) 4 = false)
    (hclock : s.pcr.ref156 = true) : s.trained l = if l.lanes = 0 then
        (s.setReg (R.FAB_PORT_STATUS_LANES_UP (s.linkPort l.id))
          (if s.flag (R.FAB_PORT_CFG_LANES4 (s.linkPort l.id)) then 0x0F else 0xFF)).putLink (freshLink l.id .handshake)
      else ((s.setReg (R.FAB_PORT_STATUS_LANES_UP (s.linkPort l.id)) l.lanes).postLink .linkDegraded l 0).putLink
        (freshLink l.id .handshake) := by
  by_cases hlanes : l.lanes = 0 <;> simp [State.trained, hlow, hhigh, hclock, hlanes]

/-! ### Virtual links -/

theorem regRowAt_peer : ∀ i < 256, regRowAt (0x281000 + 8 * i) = some ⟨"FAB_PEER", 0x281000, 256, 8, 1, 0,
    [⟨"VALID", 63, 1, .rw, 0⟩, ⟨"STATE", 60, 3, .ro, 0⟩, ⟨"PORT", 16, 4, .rw, 0⟩, ⟨"NODE", 0, 16, .rw, 0⟩]⟩ := by decide +kernel

/-- FAB_PEER.VALID takes bit 63 of the word written. -/
theorem flag_writeRw_peer {i v : Nat} (hi : i < 256) : (s.writeRw (0x281000 + 8 * i) v).flag (R.FAB_PEER_VALID i) = bitAt v 63 := by
  have hvalid : (s.writeRw (0x281000 + 8 * i) v).reg (R.FAB_PEER_VALID i) = v / 2 ^ 63 % 2 ^ 1 := by
    rw [State.writeRw, regRowAt_peer i hi]
    exact (reg_setFields (regRowAt_peer i hi) (f := ⟨"VALID", 63, 1, .rw, 0⟩) (by simp) _ (fun f => f.of v) s).trans (Nat.mod_mod _ _)
  rw [State.flag, hvalid]
  rfl

theorem peerWrite_invalid {i v : Nat} (hi : i < 256) (hdown : s.linkState (.virt i) ≠ .up) (hv : bitAt v 63 = false) :
    (s.peerWrite i v).1
      = (s.onFab fun f => { f with links := f.links.filter fun l => decide (l.id ≠ .virt i) }).writeRw (0x281000 + 8 * i) v := by
  have hvalid : ∀ u : State, (u.writeRw (R.FAB_PEER_VALID i).reg v).flag (R.FAB_PEER_VALID i) = false :=
    fun u => (flag_writeRw_peer hi).trans hv
  simp only [State.peerWrite, Nat.not_le.2 hi, hdown, if_false, hvalid, Bool.false_and, Bool.false_eq_true]
  rfl

/-- Settles O20: the state of the link that a command meets, or the fields that a write carries, decide what it does. -/
theorem portsAndLinks : Obligations.PortsAndLinks := by
  unfold Obligations.PortsAndLinks
  refine ⟨?drained, ?mode, ?refused, ?trainedPort, ?trainedVirt, ?lanes, ?degraded, ?trainFail, ?timers, ?noTimers, ?retrainPort,
    ?retrainVirt, ?recheck, ?sameHello, ?empty, ?lockLoss, ?down, ?peerUp, ?peerOff, ?ctrl, ?timeout⟩
  case drained =>
    intro s p v hp hmode hcrypt hsame hon hdrain
    change Host.Outcome.next (s.portCfgWrite p v).1 = _
    rw [portCfgWrite_on hp hmode hcrypt hon, if_pos hsame, if_pos hdrain]
    rfl
  case mode =>
    intro s p v hp hmode hcrypt hother hon
    change Host.Outcome.next (s.portCfgWrite p v).1 = _
    rw [portCfgWrite_on hp hmode hcrypt hon, if_neg hother]
    rfl
  case refused => exact fun s p v h => congrArg Host.Outcome.next (portCfgWrite_refused h)
  case trainedPort =>
    intro s p l hlinks hstate
    change execLinkTrained (.port p) s = _
    simp [execLinkTrained, hlinks, hstate]
  case trainedVirt =>
    intro s i l hl hstate
    change execLinkTrained (.virt i) s = _
    rw [execLinkTrained, hl, Option.filter_some, if_pos (by simp [hstate])]
    rfl
  case lanes =>
    intro s l hlow hhigh hclock hlanes
    rw [trained_sound hlow hhigh hclock, if_pos hlanes]
  case degraded =>
    intro s l hlow hhigh hclock hlanes
    rw [trained_sound hlow hhigh hclock, if_neg hlanes]
  case trainFail =>
    intro s p l hl hstate hmode hdegrade
    change execLaneTrainFail p s = _
    simp [execLaneTrainFail, hl, hstate, hmode, hdegrade]
  case timers =>
    intro s i l hl hstate
    change execHelloSendTimer i s = _ ∧ execHelloLossTimeout i s = _
    simp [execHelloSendTimer, execHelloLossTimeout, hl, hstate]
  case noTimers =>
    intro s i l hl hstate
    change execHelloSendTimer i s = _ ∧ execHelloLossTimeout i s = _
    simp [execHelloSendTimer, execHelloLossTimeout, hl, hstate]
  case retrainPort =>
    intro s p l hl hstate hdrain hclock
    change execLinkDownRetrainExpiry (.port p) s = _
    simp [execLinkDownRetrainExpiry, hl, hstate, State.linkPort, hdrain, hclock]
  case retrainVirt =>
    intro s i l hl hstate hdrain hclock
    change execLinkDownRetrainExpiry (.virt i) s = _
    simp [execLinkDownRetrainExpiry, hl, hstate, State.linkPort, hdrain, hclock]
  case recheck =>
    intro s i h l hl hstate hpeer
    change execLinkFailedRecheck i h s = _
    simp [execLinkFailedRecheck, hl, hstate, hpeer]
  case sameHello =>
    intro s i h l hl hpeer
    change execLinkFailedRecheck i h s = _
    simp [execLinkFailedRecheck, hl, hpeer]
  case empty =>
    intro s i l hl hstate
    change execLinkDrained i s = _
    simp only [execLinkDrained, hl, hstate, true_and, apply_ite Host.Outcome.next]
  case lockLoss =>
    intro s i l hl hid hstate
    change execPortLockLoss (.virt i) s = _
    rw [execPortLockLoss]
    simp only [hl]
    rw [Option.filter_some, if_pos (by simp [hstate])]
    simp [State.linksDown, hid, hl]
  case down => exact fun s l hup => linkDown_up hup
  case peerUp =>
    intro s i v hi hup
    change Host.Outcome.next (s.peerWrite i v).1 = _
    simp [State.peerWrite, Nat.not_le.2 hi, hup]
  case peerOff => exact fun s i v hi hdown hv => congrArg Host.Outcome.next (peerWrite_invalid hi hdown hv)
  case ctrl =>
    intro s v
    change Host.Outcome.next (s.fabCtrlWrite v).1 = _
    rw [State.fabCtrlWrite, apply_ite Prod.fst]
  case timeout =>
    intro s v
    change Host.Outcome.next (s.fabTimeoutWrite v).1 = _
    rw [State.fabTimeoutWrite, apply_ite Prod.fst]

end Sys2Proof.Machine
end

section
/-! SUPPORT. The handshake of a link (R234, R238): what the bytes counted leave as it was, and the outcomes of a HELLO. -/

namespace Sys2Proof.Machine

variable {s u : State} {i : LinkId} {l : Link} {hop : HopPart} {h : Hello}

/-! ### A link-control frame received -/

/-- No register at another place of its 64 bytes is one of the two counters of a port that a received frame changes. -/
theorem reg_countRx_of_mod {g : Fld} (hrx : g.key % 4096 ≠ 0x30 * 64) (hfec : g.key % 4096 ≠ 0x20 * 64 + 32) (p n : Nat) :
    (s.countRx p n).reg g = s.reg g := by
  refine reg_countRx_ne s ?_ ?_ n <;> simp only [Fld.key, R.FAB_PORT_RX_BYTES, R.FAB_PORT_ERR_FEC_CORRECTED] at * <;> omega

theorem countRx_linkPort (p n : Nat) (i : LinkId) : (s.countRx p n).linkPort i = s.linkPort i := by
  cases i with
  | port p => rfl
  | virt i => refine reg_countRx_of_mod ?_ ?_ p n <;> simp only [Fld.key, R.FAB_PEER_PORT] <;> omega

theorem countRx_tagged (p n : Nat) (i : LinkId) : (s.countRx p n).tagged i = s.tagged i := by
  have hmode : (s.countRx p n).reg (R.FAB_PORT_CFG_MODE (s.linkPort i)) = s.reg (R.FAB_PORT_CFG_MODE (s.linkPort i)) := by
    refine reg_countRx_of_mod ?_ ?_ p n <;> simp only [Fld.key, R.FAB_PORT_CFG_MODE] <;> omega
  simp only [State.tagged, State.switched, State.flag, countRx_linkPort, hmode,
    reg_countRx_of_mod (g := R.FAB_VLAN_ENABLE) (by decide) (by decide)]

theorem countRx_layoutOk (p n da : Nat) : (s.countRx p n).layoutOk i hop da = s.layoutOk i hop da := by
  simp only [State.layoutOk, countRx_tagged, reg_countRx_of_mod (g := R.FAB_CTRL_ETHERTYPE) (by decide) (by decide),
    reg_countRx_of_mod (g := R.FAB_VLAN_VID) (by decide) (by decide)]

theorem countRx_linkLocalMac (p n : Nat) : (s.countRx p n).linkLocalMac = s.linkLocalMac := by
  simp only [State.linkLocalMac, reg_countRx_of_mod (g := R.FAB_CTRL_MAC_PREFIX) (by decide) (by decide)]

theorem controlIn_layout {type : Nat} (hfcs : hop.fcsOk = true) (hlayout : s.layoutOk l.id hop s.linkLocalMac = false) :
    s.controlIn l hop type = (false, s.countRx (s.linkPort l.id) hop.length) := by
  simp [State.controlIn, hfcs, countRx_linkLocalMac, countRx_layoutOk, hlayout]

/-! ### A HELLO in HANDSHAKE (R238) -/

theorem exec_hello (hl : s.link? i = some l) (hstate : l.state = .handshake) (hshakes : s.shakes = true) :
    exec (.hello i ⟨hop, h⟩) s
      = .next (if (s.controlIn l hop 0x60).1 = true then (s.controlIn l hop 0x60).2.handshake l h else (s.controlIn l hop 0x60).2) := by
  change execHello i ⟨hop, h⟩ s = _
  simp only [execHello, hl, hstate, hshakes, and_self, if_true]

theorem exec_hello_taken (hl : s.link? i = some l) (hstate : l.state = .handshake) (hshakes : s.shakes = true)
    (hin : s.controlIn l hop 0x60 = (true, u)) : exec (.hello i ⟨hop, h⟩) s = .next (u.handshake l h) := by
  rw [exec_hello hl hstate hshakes, hin]
  rfl

/-- Where this node does not offer encryption and neither end requires it, check 5 passes without keys. -/
theorem handshake_plain (hcheck : (s.ownHello l.id).check h = none) (hoffer : (s.ownHello l.id).cryptOffer = false)
    (hpeer : h.cryptRequire = false) (hown : (s.ownHello l.id).cryptRequire = false) :
    s.handshake l h = s.finishHandshake { l with peer := some h } (s.ownHello l.id) h none := by
  simp [State.handshake, hcheck, hoffer, hpeer, hown]

/-! ### A change of keys (R401) -/

theorem exec_rekeyHello_taken (hl : s.link? i = some l) (hup : l.state = .up) (hin : s.controlIn l hop 0x60 = (true, u)) :
    exec (.rekeyHello i ⟨hop, h⟩) s = .next (u.upHello l h) := by
  change execRekeyHello i ⟨hop, h⟩ s = _
  simp [execRekeyHello, hl, hup, hin]

variable {k : LinkCrypt} {pk : KeyAgreement}

theorem upHello_agreed (hpeer : l.peer.map (fun p => { p with agree := none }) = some { h with agree := none }) (hcrypt : l.crypt = some k)
    (hagree : h.agree = some pk) : s.upHello l h = if s.agreementOk h pk = false then s.linkDown l
      else if pk.keyCount ≠ (k.keyCount + 1) % 256 then s else s.rekey l k h pk := by
  simp [State.upHello, hpeer, hcrypt, hagree]

/-- The signature is not among the bytes signed (R399). -/
theorem signedBytes_signature (h : Hello) (k : KeyAgreement) (n : Nat) : h.signedBytes { k with signature := n } = h.signedBytes k := rfl

theorem newAgreement_some {d : CrtKey} {c : Cert} {keyCount : Nat} (hkey : s.sec.identityKey = some d) (hcert : s.sec.certs[0]? = some c) :
    ∃ e : Nat × KeyAgreement, s.newAgreement h keyCount = (some e, s.setFresh (s.fresh + 1)) ∧ e.2.kaVersion = 1
      ∧ e.2.keyCount = keyCount ∧ e.2.identityKey = s.sec.identityN ∧ e.2.cert = c ∧ e.2.signature = d.sign (h.signedBytes e.2) := by
  simp only [State.newAgreement, hkey, hcert]
  exact ⟨_, rfl, rfl, rfl, rfl, rfl, congrArg d.sign (signedBytes_signature _ _ _).symm⟩

/-- Settles O21: whether a frame is taken, and the first check of the HELLO that fails, decide its outcome. -/
theorem handshakeAndKeys : Obligations.HandshakeAndKeys := by
  unfold Obligations.HandshakeAndKeys
  refine ⟨?badFcs, ?layout, ?control, ?notTaken, ?notShaking, ?checked, ?required, ?upPort, ?peerBad, ?skew, ?domain, ?conflict,
    ?rekeyStart, ?noCrypt, ?rekeyBad, ?rekeyPeer, ?rekeyed, ?deadline, ?early, ?spent⟩
  case badFcs =>
    intro s l hop type hfcs hcarries
    simp [State.controlIn, hfcs, hcarries]
  case layout =>
    intro s l hop type hfcs hother
    refine controlIn_layout hfcs ?_
    obtain hda | htype := hother
    · simp [State.layoutOk, hda]
    · simp [State.layoutOk, htype]
  case control =>
    intro s l hop type hfcs hda htype htag htagged hlength hproto
    have hlayout : s.layoutOk l.id hop s.linkLocalMac = true := by simp [State.layoutOk, htype, hlength, hda, htag, htagged]
    simp only [State.controlIn, hfcs, countRx_linkLocalMac, countRx_layoutOk, hlayout, State.controlProto, if_neg hproto]
    by_cases hok : hop.proto = l.proto ∧ hop.kind = 1 ∧ hop.type = type
    · simp [hok]
    · rw [if_neg hok, if_neg (by simp), if_neg (by simp), if_pos (by tauto)]
  case notTaken =>
    intro s u i hop h l hl hstate hshakes hin
    rw [exec_hello hl hstate hshakes, hin]
    rfl
  case notShaking =>
    intro s i hop h l hl hnot
    change execHello i ⟨hop, h⟩ s = _
    simp only [execHello, hl]
    exact if_neg (by rintro ⟨hstate, hshakes⟩; simp [hstate, hshakes] at hnot)
  case checked =>
    intro s u i hop h l e r hl hstate hshakes hin hcheck
    rw [exec_hello_taken hl hstate hshakes hin, State.handshake, hcheck]
  case required =>
    intro s u i hop h l hl hstate hshakes hin hcheck hrequire hoffer
    rw [exec_hello_taken hl hstate hshakes hin]
    simp [State.handshake, hcheck, hrequire, hoffer]
  case upPort =>
    rintro s u p hop h l v hl hid hstate hshakes hin hcheck hoffer hpeer hown rfl
    rw [← hid] at hcheck hoffer hown
    rw [exec_hello_taken hl hstate hshakes hin, handshake_plain hcheck hoffer hpeer hown, hid]
    simp only [State.finishHandshake, State.peerBad, Bool.false_eq_true, if_false]
    simp only [State.linkUp]
    rfl
  case peerBad =>
    intro s u i hop h l hl hid hstate hshakes hin hcheck hoffer hpeer hown hother
    rw [← hid] at hcheck hoffer hown
    rw [exec_hello_taken hl hstate hshakes hin, handshake_plain hcheck hoffer hpeer hown]
    simp [State.finishHandshake, hid, State.peerBad, hother]
  case skew => exact fun o h hskew => if_pos (.inl hskew)
  case domain =>
    intro o h hnew hold hproto hdomain hown hpeer
    rw [Hello.check, if_neg (by omega), if_neg (by omega), if_pos ⟨hdomain, hown, hpeer⟩]
  case conflict =>
    intro o h hnew hold hproto hdomain hown hpeer hnumber
    rw [Hello.check, if_neg (by omega), if_neg (by omega), if_neg (by simp [hdomain]), if_pos ⟨hown, hpeer, hnumber⟩]
  case rekeyStart =>
    intro s i l k d c hl hup hcrypt hdue hrekey hkey hcert
    obtain ⟨e, hnew, hfields⟩ := newAgreement_some (h := s.ownHello i) (keyCount := (k.keyCount + 1) % 256) hkey hcert
    obtain ⟨hversion, hcount, hidentity, hc, hsignature⟩ := hfields
    refine ⟨e, hversion, hcount, hidentity, hc, hsignature, ?_⟩
    change execRekeyStart i s = _
    simp only [execRekeyStart, hl, hup, hcrypt, hdue, hrekey, Option.isNone_none, true_or, and_self, if_true, hnew]
    rfl
  case noCrypt =>
    intro s i l hl hcrypt
    change execRekeyStart i s = _
    simp [execRekeyStart, hl, hcrypt]
  case rekeyBad =>
    intro s u i hop h l k pk hl hup hin hpeer hcrypt hagree hbad
    rw [exec_rekeyHello_taken hl hup hin, upHello_agreed hpeer hcrypt hagree, if_pos hbad]
  case rekeyPeer =>
    intro s u i hop h l hl hup hin hpeer
    rw [exec_rekeyHello_taken hl hup hin, State.upHello, if_pos hpeer]
  case rekeyed =>
    intro s u i hop h l k pk hl hup hin hpeer hcrypt hagree hok hcount
    rw [exec_rekeyHello_taken hl hup hin, upHello_agreed hpeer hcrypt hagree, if_neg (by simp [hok]), if_neg (not_not.2 hcount)]
  case deadline =>
    intro s i l k hl hup hcrypt hspent
    change execRekeyDeadline i s = _
    simp only [execRekeyDeadline, hl]
    exact if_pos ⟨by simp [Link.carries, hup], by simpa [Link.spent, hcrypt] using hspent⟩
  case early =>
    intro s i l k hl hcrypt hearly
    change execRekeyDeadline i s = _
    simp only [execRekeyDeadline, hl]
    exact if_neg (by simpa [Link.spent, hcrypt] using fun _ => hearly)
  case spent =>
    intro s l k f hcrypt hspent
    have hout : l.spent = true := by simpa only [Link.spent, hcrypt, Option.any_some, decide_eq_true_iff] using hspent
    exact if_pos (by simp [hout])

end Sys2Proof.Machine
end

section
/-! SUPPORT. Link-level retry (R239, R241): what a DATA frame, a LACK and an LNACK do at the node they reach. -/

namespace Sys2Proof.Machine

variable {s u : State} {i : LinkId} {l v : Link} {hop : HopPart} {f : Frame}

/-! ### The record of a link -/

theorem credit_queue (cls n : Nat) : (l.credit cls n).queue = l.queue := by
  unfold Link.credit
  dsimp only
  split
  · rfl
  · split <;> rfl

theorem credit_replay (cls n : Nat) : (l.credit cls n).replay = l.replay := by
  unfold Link.credit
  dsimp only
  split
  · rfl
  · split <;> rfl

theorem credit_id (cls n : Nat) : (l.credit cls n).id = l.id := by
  unfold Link.credit
  dsimp only
  split
  · rfl
  · split <;> rfl

/-- What the same LSEQ acknowledges again is nothing. -/
theorem acked_credit_acked (n cls c : Nat) : (((l.acked n).credit cls c).acked n).replay = ((l.acked n).credit cls c).replay := by
  simp only [Link.acked, credit_replay, List.filter_filter, Bool.and_self]

theorem putLink_link (l : Link) : (s.putLink l).link? l.id = some l := find_upsert_self _ _ _ (by simp)

/-! ### A DATA frame (R234, R235) -/

theorem exec_dataFrame (hl : s.link? i = some l) (hup : l.state = .up) :
    exec (.dataFrameReceive i hop f) s = .next (s.dataFrame l hop f) := by
  change execDataFrameReceive i hop f s = _
  simp [execDataFrameReceive, hl, Link.carries, hup]

/-- A frame in sequence on a link without encryption is taken with its acknowledgement, and answered with one LACK (log entry 43). -/
theorem dataFrame_taken (hu : u = s.countRx (s.linkPort l.id) hop.length) (hfcs : hop.fcsOk = true)
    (hlayout : u.layoutOk l.id hop (u.daOf l.id u.node f) = true) (hproto : hop.proto = l.proto) (hkind : hop.kind = 0)
    (hplain : hop.encrypted = false) (hcrypt : l.crypt = none) (hseq : hop.lseq = l.rxSeq)
    (hv : v = { l with rxSeq := (l.rxSeq + 1) % 4096 }) : s.dataFrame l hop f
      = if hop.known f = false then ((u.linkAck v hop.toHop).sendControl v f.body.cls.code f.units .lack).bump
            (R.FAB_DIE_STATS_UNKNOWN_DROPS (s.linkPort l.id / 4))
        else if f.body.cls ≠ .management ∧ (l.peer.any (·.nodeValid)) = false then
          (u.linkAck v hop.toHop).sendControl v f.body.cls.code f.units .lack
        else ((u.linkAck v hop.toHop).sendControl v f.body.cls.code f.units .lack).routeIn (s.linkPort l.id) f := by
  subst hv
  have hauth : l.authBad hop = false := by simp [Link.authBad, hcrypt, hplain]
  simp [State.dataFrame, ← hu, hfcs, hlayout, hproto, hkind, hauth, hseq, State.rxSwitch, hcrypt]

/-! ### Acknowledgements and replay (R239) -/

theorem exec_lack (hl : s.link? i = some l) (hcarries : l.state = .up ∨ l.state = .draining) :
    exec (.lack i hop hop.credits) s = .next (if (s.controlIn l hop 0x61).1 = true then (s.controlIn l hop 0x61).2.linkAck l hop.toHop
      else (s.controlIn l hop 0x61).2) := by
  change execLack i hop hop.credits s = _
  simp only [execLack, hl, Link.carries, hcarries, decide_true, if_true]

theorem exec_lnack (hl : s.link? i = some l) (hup : l.state = .up) :
    exec (.lnack i hop) s = .next (if (s.controlIn l hop 0x62).1 = true then (s.controlIn l hop 0x62).2.lnack l hop.toHop
      else (s.controlIn l hop 0x62).2) := by
  change execLnack i hop s = _
  simp only [execLnack, hl, Link.carries, hup, true_or, decide_true, if_true]

theorem lnack_of_idle {ack : Hop} (hqueue : l.queue = []) (hv : v = (l.acked ack.lack).credit ack.creditClass ack.credits) :
    s.lnack l ack = if v.replay = [] then s.putLink v else (s.putLink v).replayAll v := by
  have hid : l.id = v.id := by rw [hv, credit_id, Link.acked]
  have hvqueue : v.queue = [] := by rw [hv, credit_queue, Link.acked, hqueue]
  have hvreplay : (v.acked ack.lack).replay = v.replay := by rw [hv, acked_credit_acked]
  have hack : s.linkAck l ack = s.putLink v := by
    rw [State.linkAck, ← hv]
    simp only [hvqueue, List.length_nil, State.pumpLink]
  simp only [State.lnack, hack, hid, putLink_link, hvreplay]

/-- Settles O22: the first check that a frame fails, or what it acknowledges, decides its outcome. That each accepted frame is answered
with one LACK is the model's choice (log entry 43), that one of an unknown CLASS or TYPE is dropped once taken its reading (log entry 76). -/
theorem linkRetry : Obligations.LinkRetry := by
  unfold Obligations.LinkRetry
  refine ⟨?badFcs, ?badLayout, ?layout, ?control, ?auth, ?order, ?forwarded, ?unknown, ?lack, ?lnack, ?lackDropped, ?lnackDropped,
    ?timers, ?idle, ?replay, ?acked⟩
  case badFcs =>
    rintro s u i hop f l hl hup rfl hfcs
    rw [exec_dataFrame hl hup]
    simp [State.dataFrame, hfcs]
  case badLayout =>
    rintro s u i hop f l hl hup hu hfcs hlayout
    rw [exec_dataFrame hl hup]
    simp [State.dataFrame, ← hu, hfcs, hlayout]
  case layout =>
    intro s l hop da
    cases htag : hop.eth.tag <;> simp [State.layoutOk, htag, and_assoc]
  case control =>
    rintro s u i hop f l hl hup hu hfcs hlayout hother
    rw [exec_dataFrame hl hup]
    simp [State.dataFrame, ← hu, hfcs, hlayout, hother]
  case auth =>
    rintro s u i hop f l hl hup hu hfcs hlayout hproto hkind hauth
    rw [exec_dataFrame hl hup]
    simp [State.dataFrame, ← hu, hfcs, hlayout, hproto, hkind, hauth]
  case order =>
    rintro s u i hop f l hl hup hu hfcs hlayout hproto hkind hauth hseq
    rw [exec_dataFrame hl hup]
    simp [State.dataFrame, ← hu, hfcs, hlayout, hproto, hkind, hauth, hseq]
  case forwarded =>
    intro s u i hop f l v hl hup hu hfcs hlayout hproto hkind hplain hcrypt hseq hv hpeer hcls hknown
    rw [exec_dataFrame hl hup, dataFrame_taken hu hfcs hlayout hproto hkind hplain hcrypt hseq hv, if_neg (by simp [hknown]),
      if_neg (by simp [hpeer]), State.routeIn]
    split
    · contradiction
    · rfl
  case unknown =>
    intro s u i hop f l v hl hup hu hfcs hlayout hproto hkind hplain hcrypt hseq hv hother
    rw [exec_dataFrame hl hup, dataFrame_taken hu hfcs hlayout hproto hkind hplain hcrypt hseq hv, if_pos]
    obtain h | h := hother <;> simp [HopPart.known, h]
  case lack =>
    intro s u i hop l hl hcarries hin
    rw [exec_lack hl hcarries, hin]
    simp only [if_true, State.linkAck, credit_queue, credit_id, Link.acked]
  case lnack =>
    intro s u i hop l v hl hup hin hqueue hv
    rw [exec_lnack hl hup, hin, ← lnack_of_idle (ack := hop.toHop) hqueue hv]
    rfl
  case lackDropped =>
    intro s u i hop l hl hup hin
    rw [exec_lack hl (.inl hup), hin]
    rfl
  case lnackDropped =>
    intro s u i hop l hl hup hin
    rw [exec_lnack hl hup, hin]
    rfl
  case timers =>
    intro s i l hl hup hreplay
    change execLinkReplayExpiry i s = _ ∧ execLinkTimeoutExpiry i s = _
    simp [execLinkReplayExpiry, execLinkTimeoutExpiry, hl, Link.carries, hup, hreplay]
  case idle =>
    intro s i l hl hreplay hqueue
    change execLinkReplayExpiry i s = _ ∧ execLinkTimeoutExpiry i s = _
    simp [execLinkReplayExpiry, execLinkTimeoutExpiry, hl, hreplay, hqueue]
  case replay =>
    rintro s l v rfl
    simp only [State.replayAll, List.any_map, List.length_map]
    rfl
  case acked => exact fun l n => rfl

end Sys2Proof.Machine
end

section
/-! SUPPORT. Accesses of another node at their target (R253, R256, R257, R260, R263, R267): a frame in its turn, and what a look-up of
its region leaves as it was. -/

namespace Sys2Proof.Machine

variable {s t : State} {f : Frame} {h : OpHdr} {src : Nat} {dev : Bool} {p : Perm}

/-! ### Table 9.13 -/

/-- An access of another node's memory that passes rows 1 and 2 is decided by its region entry. -/
theorem targetCheck_region (htransit : s.transitOnly = false) (hmapped : s.targetMapped (gSpace h.addr) (gOff h.addr) h.len = true)
    (hspace : gSpace h.addr ≠ 3) (hsrc : src ≠ s.node) : s.targetCheck src dev h p
      = regionCheck (s.region? h.region) h.region dev src h.key (gSpace h.addr) (gOff h.addr) h.len p := by
  simp [State.targetCheck, htransit, hmapped, hspace, hsrc]

theorem count_eq (g : Fld) (n : Nat) : ∃ regs fresh, s.count g n = { s with regs := regs, fresh := fresh } := by
  rw [State.count]
  split <;> exact ⟨_, _, rfl⟩

/-- Of the node's state a look-up of a region entry changes the counters of a die's region cache (log entry 95). -/
theorem regionLooked_eq (src : Nat) (h : OpHdr) : ∃ regs fresh, s.regionLooked src h = { s with regs := regs, fresh := fresh } := by
  rw [State.regionLooked]
  split
  · obtain ⟨regs, fresh, heq⟩ := count_eq (s := s) (if Config.unstated s.fresh % 2 = 0 then
      R.FAB_REGION_CACHE_HITS (Config.unstated s.fresh / 2 % 4) else R.FAB_REGION_CACHE_MISSES (Config.unstated s.fresh / 2 % 4)) 1
    simp only [State.bump, heq]
    exact ⟨_, _, rfl⟩
  · exact ⟨_, _, rfl⟩

theorem reg_regionLooked {g : Fld} (hreg : g.reg < 0x200000) (hlo : g.lo < 64) : (s.regionLooked src h).reg g = s.reg g := by
  rw [State.regionLooked]
  split
  · refine reg_bump_ne (s := s) ?_
    split <;> simp only [Fld.key, R.FAB_REGION_CACHE_HITS, R.FAB_REGION_CACHE_MISSES] <;> omega
  · rfl

theorem regionLooked_cells (m : Mem) : (s.regionLooked src h).cells m = s.cells m := by
  obtain ⟨regs, fresh, heq⟩ := regionLooked_eq (s := s) src h
  rw [heq]
  rfl

theorem regionLooked_poisons (m : Mem) : (s.regionLooked src h).poisons m = s.poisons m := by
  obtain ⟨regs, fresh, heq⟩ := regionLooked_eq (s := s) src h
  rw [heq]
  rfl

theorem regionLooked_rdBytes (m : Mem) (a n : Nat) : (s.regionLooked src h).rdBytes m a n = s.rdBytes m a n := by
  rw [State.rdBytes, regionLooked_cells]
  rfl

theorem regionLooked_rdNum (m : Mem) (a n : Nat) : (s.regionLooked src h).rdNum m a n = s.rdNum m a n := by
  have hrd : (s.regionLooked src h).rd m = s.rd m := by
    funext a
    rw [State.rd, regionLooked_cells]
    rfl
  rw [State.rdNum, hrd]
  rfl

theorem regionLooked_poisoned (m : Mem) (a n : Nat) : (s.regionLooked src h).poisoned m a n = s.poisoned m a n := by
  rw [State.poisoned, regionLooked_poisons]
  rfl

theorem regionLooked_counter (k : Nat) : (s.regionLooked src h).counter k = s.counter k := by
  obtain ⟨regs, fresh, heq⟩ := regionLooked_eq (s := s) src h
  rw [heq]
  rfl

theorem regionLooked_counterAt (off : Nat) : (s.regionLooked src h).counterAt off = s.counterAt off := by
  have hpresent := reg_regionLooked (s := s) (src := src) (h := h) (g := R.CAP_TILES_TILE_PRESENT) (by decide) (by decide)
  have htiles : (s.regionLooked src h).tiles = s.tiles := by
    obtain ⟨regs, fresh, heq⟩ := regionLooked_eq (s := s) src h
    rw [heq]
    rfl
  have htile : (s.regionLooked src h).tileIn (off / 2 ^ 19) = s.tileIn (off / 2 ^ 19) := by
    simp only [State.tileIn, hpresent, htiles]
  rw [State.counterAt, htile, State.counterAt]

/-! ### A frame in its turn (R253) -/

theorem exec_loadFrame (hbody : f.body = .load h) (hdue : s.due f = true) (hrun : (s.takeOrdered f).loadFrame f h = t) :
    exec (.loadFrame f) s = .next (t.flow f.src).serveInbox := by
  change execLoadFrame f s = _
  simp only [execLoadFrame, hbody, inTurn_due hdue, hrun]

variable {data : List Byte}

theorem exec_storeFrame (hbody : f.body = .store h data) (hdue : s.due f = true) (hrun : (s.takeOrdered f).storeFrame f h data = t) :
    exec (.storeFrame f) s = .next (t.flow f.src).serveInbox := by
  change execStoreFrame f s = _
  simp only [execStoreFrame, hbody, inTurn_due hdue, hrun]

variable {aop operand compare : Nat}

theorem exec_atomicFrame (hbody : f.body = .atomic h aop operand compare) (hdue : s.due f = true)
    (hrun : (s.takeOrdered f).atomicFrame f h aop operand compare = t) : exec (.atomicFrame f) s = .next (t.flow f.src).serveInbox := by
  change execAtomicFrame f s = _
  simp only [execAtomicFrame, hbody, inTurn_due hdue, hrun]

theorem inTurn_of_not_due (hdue : s.due f = false) (run : State → State) : s.inTurn f run = s := by
  simp [State.inTurn, hdue]

theorem signalTurn_of_not_due (hdue : s.due f = false) : s.signalTurn f = s := by
  simp [State.signalTurn, hdue]

/-! ### Loads and stores (R256, R267) -/

theorem loadFrame_checked (hspace : gSpace h.addr < 2) (hcheck : s.targetCheck f.src f.dev h .read = none) : s.loadFrame f h
    = (s.regionLooked f.src h).respond f (.loadResp h.tag (if (s.poisoned (spaceMem (gSpace h.addr)) (gOff h.addr) h.len).isSome = true
        then .poisonRead else .ok) (s.rdBytes (spaceMem (gSpace h.addr)) (gOff h.addr) h.len))
          (s.poisoned (spaceMem (gSpace h.addr)) (gOff h.addr) h.len).isSome := by
  have hthree : gSpace h.addr ≠ 3 := by omega
  have hsync : ¬ 1 < gSpace h.addr := by omega
  simp only [State.loadFrame, hthree, if_false, hcheck, spaceCheck, Option.orElse_none, hsync, regionLooked_poisoned,
    regionLooked_rdBytes]
  cases s.poisoned (spaceMem (gSpace h.addr)) (gOff h.addr) h.len <;> rfl

theorem loadFrame_refused {x : St} (hspace : gSpace h.addr < 3) (hcheck : s.targetCheck f.src f.dev h .read = some x) :
    s.loadFrame f h = ((s.regionLooked f.src h).bump R.FAB_STATS_KEY_REFUSALS).respond f (.loadResp h.tag x []) false := by
  simp only [State.loadFrame, Nat.ne_of_lt hspace, if_false, hcheck, spaceCheck, Option.orElse_some]
  rfl

theorem loadFrame_sync (hspace : gSpace h.addr = 2) (hcheck : s.targetCheck f.src f.dev h .read = none) :
    s.loadFrame f h = (s.regionLooked f.src h).respond f (.loadResp h.tag .addrInvalid []) false := by
  simp [State.loadFrame, hspace, hcheck, spaceCheck, State.countRefusal]

theorem storeFrame_checked (hspace : gSpace h.addr < 2) (hcheck : s.targetCheck f.src f.dev { h with len := data.length } .write = none) :
    s.storeFrame f h data = ((s.regionLooked f.src { h with len := data.length }).place (spaceMem (gSpace h.addr)) (gOff h.addr)
      data f.poison).respond f (.storeResp h.tag .ok) false := by
  have hthree : gSpace h.addr ≠ 3 := by omega
  have hsync : ¬ 1 < gSpace h.addr := by omega
  simp only [State.storeFrame, hthree, if_false, hcheck, spaceCheck, Option.orElse_none, hsync]

theorem storeFrame_refused {x : St} (hspace : gSpace h.addr < 3)
    (hcheck : s.targetCheck f.src f.dev { h with len := data.length } .write = some x) : s.storeFrame f h data
      = ((s.regionLooked f.src { h with len := data.length }).bump R.FAB_STATS_KEY_REFUSALS).respond f (.storeResp h.tag x) false := by
  simp only [State.storeFrame, Nat.ne_of_lt hspace, if_false, hcheck, spaceCheck, Option.orElse_some]
  rfl

/-! ### Atomics (R257, R301) -/

theorem atomicFrame_memory (hspace : gSpace h.addr < 2) (hcheck : s.targetCheck f.src f.dev { h with len := 8 } .atomic = none)
    (haligned : gOff h.addr % 8 = 0) (haop : aop ≤ 7) : s.atomicFrame f h aop operand compare
      = ((s.regionLooked f.src h).wrNum (spaceMem (gSpace h.addr)) (gOff h.addr) 8 (atomicOp 64 aop
          (s.rdNum (spaceMem (gSpace h.addr)) (gOff h.addr) 8) operand compare)).respond f (.atomicResp h.tag .ok
            (if aop = 0 then 0 else s.rdNum (spaceMem (gSpace h.addr)) (gOff h.addr) 8)) false := by
  have htwo : gSpace h.addr ≠ 2 := by omega
  have hsync : ¬ 1 < gSpace h.addr := by omega
  have hplace : misaligned (gOff h.addr) aop = false := by simp [misaligned, haligned, haop]
  simp only [State.atomicFrame, hcheck, Option.orElse_none, atomicCheck, hplace, htwo, hsync, if_false, Bool.false_eq_true,
    State.atomicAt, regionLooked_rdNum]

theorem atomicFrame_misaligned (hcheck : s.targetCheck f.src f.dev { h with len := 8 } .atomic = none)
    (hbad : gOff h.addr % 8 ≠ 0 ∨ 7 < aop) : s.atomicFrame f h aop operand compare
      = ((s.regionLooked f.src h).bump R.FAB_STATS_KEY_REFUSALS).respond f (.atomicResp h.tag .badParam 0) false := by
  have hplace : misaligned (gOff h.addr) aop = true := by simpa [misaligned] using hbad
  simp only [State.atomicFrame, hcheck, Option.orElse_none, atomicCheck, hplace, if_true]
  rfl

theorem aligned_of_counterAt {off k : Nat} (hk : s.counterAt off = some k) : off % 8 = 0 := by
  simp only [State.counterAt, Option.ite_none_right_eq_some] at hk
  exact hk.1.2.1

theorem atomicFrame_counter {k : Nat} (hspace : gSpace h.addr = 2)
    (hcheck : s.targetCheck f.src f.dev { h with len := 8 } .atomic = none) (hk : s.counterAt (gOff h.addr) = some k)
    (hbarrier : barrierAt (gOff h.addr) = none) (hoperand : operand < 2 ^ 40) (hcompare : compare < 2 ^ 40) (haop : aop ≤ 7) :
    s.atomicFrame f h aop operand compare = ((s.regionLooked f.src h).setCounter k (atomicOp 40 aop (s.counter k) operand compare)).respond
      f (.atomicResp h.tag .ok (if aop = 0 then 0 else s.counter k)) false := by
  have hplace : misaligned (gOff h.addr) aop = false := by simp [misaligned, aligned_of_counterAt hk, haop]
  have hvalues : ¬ (2 ^ 40 ≤ operand ∨ 2 ^ 40 ≤ compare) := by omega
  simp only [State.atomicFrame, hcheck, Option.orElse_none, atomicCheck, hplace, hspace, hbarrier, hvalues, if_true, if_false,
    Option.isSome_none, Bool.false_eq_true, State.atomicAt, regionLooked_counterAt, hk, regionLooked_counter]

/-! ### Registers (R260) -/

theorem loadFrame_registers {x : St} (hspace : gSpace h.addr = 3) (hcheck : s.space3Check f.src h false = some x) :
    s.loadFrame f h = (s.countSpace3 x).respond f (.loadResp h.tag x []) false := by
  simp only [State.loadFrame, hspace, if_true, State.space3Load, hcheck]

/-- Settles O23: the first check that an access fails decides its answer; that a refusal by R260 is not counted, and the answers of a
register access of another length and of a poisoned load, are the model's choices (log entry 44). -/
theorem targetAccesses : Obligations.TargetAccesses := by
  unfold Obligations.TargetAccesses
  refine ⟨?transit, ?unmapped, ?registers, ?noRegion, ?revoking, ?key, ?range, ?load, ?loadPoison, ?loadRefused, ?loadSync, ?store,
    ?storeRefused, ?atomic, ?atomicBad, ?counter, ?ops, ?csrDenied, ?csrUnmapped, ?csrStore, ?notDue, ?due⟩
  case transit =>
    intro s src dev h p htransit
    simp [State.targetCheck, htransit]
  case unmapped =>
    intro s src dev h p htransit hmapped
    simp [State.targetCheck, htransit, hmapped]
  case registers =>
    intro s src dev h p htransit hmapped hspace
    simp only [State.targetCheck, htransit, hmapped]
    simp [hspace]
  case noRegion =>
    intro s src dev h p htransit hmapped hspace hsrc hr
    rw [targetCheck_region htransit hmapped hspace hsrc, hr, regionCheck]
  case revoking =>
    intro s src dev h p r htransit hmapped hspace hsrc hr hstate
    rw [targetCheck_region htransit hmapped hspace hsrc, hr]
    exact if_pos hstate
  case key =>
    intro s src dev h p r htransit hmapped hspace hsrc hr hstate hbad
    rw [targetCheck_region htransit hmapped hspace hsrc, hr]
    simp only [regionCheck, if_neg hstate]
    obtain hpool | hsource | hkey := hbad
    · rw [if_pos (by simpa using hpool)]
    · simp [hsource]
    · simp [hkey]
  case range =>
    intro s src dev h p r htransit hmapped hspace hsrc hr hstate hpool hsource hkey
    have hpool' : ¬ (h.region = 0 ∧ (!dev) = true) := by simpa [or_iff_not_imp_left] using hpool
    have hsource' : (!r.anySource && r.source != src) = false := by
      obtain h | h := hsource <;> simp [h]
    rw [targetCheck_region htransit hmapped hspace hsrc, hr]
    simp only [regionCheck, if_neg hstate, if_neg hpool', hsource', Bool.false_eq_true, if_false, hkey, ne_eq, not_true]
    by_cases hrange : r.space = gSpace h.addr ∧ r.base ≤ gOff h.addr ∧ gOff h.addr + h.len ≤ r.base + r.length
    · obtain ⟨hs, hbase, hend⟩ := hrange
      rw [if_neg (by omega)]
      cases hgrants : r.grants p <;> simp [hs, hbase, hend]
    · rw [if_pos (by omega), if_neg (fun hall => hrange ⟨hall.1, hall.2.1, hall.2.2.1⟩)]
  case load =>
    intro s f h hbody hdue hspace hcheck hpoison t
    refine exec_loadFrame hbody hdue ((loadFrame_checked (s := s.takeOrdered f) hspace hcheck).trans ?_)
    have hclean : (s.takeOrdered f).poisoned (spaceMem (gSpace h.addr)) (gOff h.addr) h.len = none := hpoison
    rw [hclean]
    rfl
  case loadPoison =>
    intro s f h x hbody hdue hspace hcheck hpoison t
    refine exec_loadFrame hbody hdue ((loadFrame_checked (s := s.takeOrdered f) hspace hcheck).trans ?_)
    have hbad : (s.takeOrdered f).poisoned (spaceMem (gSpace h.addr)) (gOff h.addr) h.len = some x := hpoison
    rw [hbad]
    rfl
  case loadRefused =>
    intro s f h x hbody hdue hspace hcheck t
    exact exec_loadFrame hbody hdue (loadFrame_refused (s := s.takeOrdered f) hspace hcheck)
  case loadSync =>
    intro s f h hbody hdue hspace hcheck t
    exact exec_loadFrame hbody hdue (loadFrame_sync (s := s.takeOrdered f) hspace hcheck)
  case store =>
    intro s f h data hbody hdue hspace hcheck t
    exact exec_storeFrame hbody hdue (storeFrame_checked (s := s.takeOrdered f) hspace hcheck)
  case storeRefused =>
    intro s f h data x hbody hdue hspace hcheck t
    exact exec_storeFrame hbody hdue (storeFrame_refused (s := s.takeOrdered f) hspace hcheck)
  case atomic =>
    intro s f h aop operand compare hbody hdue hspace hcheck haligned haop t
    exact exec_atomicFrame hbody hdue (atomicFrame_memory (s := s.takeOrdered f) hspace hcheck haligned haop)
  case atomicBad =>
    intro s f h aop operand compare hbody hdue hspace hcheck hbad t
    exact exec_atomicFrame hbody hdue (atomicFrame_misaligned (s := s.takeOrdered f) hcheck hbad)
  case counter =>
    intro s f h aop operand compare k hbody hdue hspace hcheck hk hbarrier hoperand hcompare haop t
    exact exec_atomicFrame hbody hdue (atomicFrame_counter (s := s.takeOrdered f) hspace hcheck hk hbarrier hoperand hcompare haop)
  case ops => exact fun w a o c => ⟨rfl, rfl, rfl, rfl, rfl, rfl, rfl, rfl⟩
  case csrDenied =>
    intro s f h hbody hdue hspace htransit hdecodes hmanager hread t
    have hcheck : s.space3Check f.src h false = some .accessDenied := by
      simp only [State.space3Check, htransit, hdecodes, hmanager]
      obtain hhigh | hflag := hread
      · simp [Nat.not_lt.2 hhigh]
      · simp [hflag]
    exact exec_loadFrame hbody hdue (loadFrame_registers (s := s.takeOrdered f) hspace hcheck)
  case csrUnmapped =>
    intro s f h hbody hdue hspace hbad t
    have hcheck : s.space3Check f.src h false = some (if s.transitOnly = true then .nodeResetting else .addrInvalid) := by
      cases htransit : s.transitOnly with
      | true => simp [State.space3Check, htransit]
      | false => simp [State.space3Check, htransit, hbad.resolve_left (by simp [htransit])]
    refine exec_loadFrame hbody hdue ((loadFrame_registers (s := s.takeOrdered f) hspace hcheck).trans ?_)
    cases htransit : s.transitOnly <;> simp only [t, htransit] <;> rfl
  case csrStore =>
    intro s u f h data x hbody hdue hspace htransit hdecodes hmanager hlength hwrite t
    have hcheck : (s.takeOrdered f).space3Check f.src { h with len := data.length } true = none := by
      have hcheck' : s.space3Check f.src { h with len := data.length } true = none := by
        simp [State.space3Check, htransit, hdecodes, hmanager, hlength]
      exact hcheck'
    refine exec_storeFrame hbody hdue ?_
    simp only [State.storeFrame, hspace, if_true, State.space3Store, hcheck, hwrite]
    rfl
  case notDue =>
    intro s f hdue
    change execLoadFrame f s = _ ∧ execStoreFrame f s = _ ∧ execAtomicFrame f s = _ ∧ execReadFrame f s = _ ∧ execSignalFrame f s = _
      ∧ execArriveAtBarrier f s = _ ∧ execRemoteResponse f s = _ ∧ execSprayNak f s = _ ∧ execEngineNak f s = _
    simp only [execLoadFrame, execStoreFrame, execAtomicFrame, execReadFrame, execSignalFrame, execArriveAtBarrier, execRemoteResponse,
      execSprayNak, execEngineNak, inTurn_of_not_due hdue, signalTurn_of_not_due hdue]
    refine ⟨?_, ?_, ?_, ?_, ?_, ?_, ?_, ?_, ?_⟩ <;> split <;> rfl
  case due =>
    intro s f g hfirst
    simp [State.due, hfirst]

end Sys2Proof.Machine
end

section
/-! SUPPORT. Ordered frames at their destination (R250, R251) and the signals that wait for sprayed data (R254, R255). -/

namespace Sys2Proof.Machine

variable {s u : State} {f : Frame} {c : InChannel} {src : Nat}

/-! ### A frame of a channel (R250, R251) -/

theorem exec_orderedFrame (hcls : f.body.cls = .ordered) (hoack : f.body ≠ .oack) :
    exec (.orderedFrameAccept f) s = .next ((s.takeFrame f).orderedFrame f) := if_pos ⟨hcls, hoack⟩

section
variable (hresetting : f.body.resetting = false) (hu : u = (s.takeOack f.src f.oack).contact f.src)
include hresetting hu

/-- Without channel state the first frame of an incarnation makes a channel; any other asks for a restart. -/
theorem orderedFrame_unknown (hc : ∀ c, u.inCh? f.src = some c → c.known = false) :
    s.orderedFrame f = if f.sync = true ∧ f.oseq = 0 then u.newChannel f else u.sendOack f.src true := by
  have hnone : (u.inCh? f.src).filter (·.known) = none := by
    rw [Option.filter_eq_none_iff]
    intro c hmem
    simp [hc c hmem]
  simp only [State.orderedFrame, hresetting, Bool.false_eq_true, if_false, ← hu, hnone]

theorem orderedFrame_known (hc : u.inCh? f.src = some c) (hknown : c.known = true) : s.orderedFrame f
    = if f.sync = true ∧ f.oseq = 0 ∧ f.incarnation ≠ c.incarnation then u.newChannel f
      else if f.incarnation ≠ c.incarnation then u
      else if f.oseq = c.expected then (u.putIn { c with expected := (c.expected + 1) % 2 ^ 32, oackOwed := true }).admitFrame f
      else if oackCovers c.expected f.oseq = true then u.putIn { c with oackOwed := true } else u.sendOack f.src false := by
  simp only [State.orderedFrame, hresetting, Bool.false_eq_true, if_false, ← hu, hc, Option.filter_some, hknown, if_true]

end

theorem inCh_of_some (hc : s.inCh? src = some c) : s.inCh src = c := by rw [State.inCh, hc, Option.getD_some]

theorem inCh_of_none (hc : s.inCh? src = none) : s.inCh src = ⟨src, false, 0, 0, 0, false, false⟩ := by
  rw [State.inCh, hc, Option.getD_none]

/-! ### Signals and arrivals (R254, R302) -/

variable {h : OpHdr} {cover : Nat} {a : ArriveMsg}

theorem signalTurn_due (hdue : s.due f = true) (hopen : s.blocked f = false) :
    s.signalTurn f = ((((s.takeOrdered f).applySignal f).flow f.src).serveInbox) := by
  simp only [State.signalTurn, hdue, hopen, Bool.not_true, Bool.false_eq_true, if_false, inTurn_due hdue]

theorem signalTurn_blocked (hdue : s.due f = true) (hblocked : s.blocked f = true) : s.signalTurn f = s.setHeld f.src true := by
  simp [State.signalTurn, hdue, hblocked]

theorem exec_signalFrame {v : Nat} (hbody : f.body = .signal h cover v) : exec (.signalFrame f) s = .next (s.signalTurn f) := by
  change execSignalFrame f s = _
  simp only [execSignalFrame, hbody]

theorem exec_arriveAtBarrier (hbody : f.body = .arrive h cover a) : exec (.arriveAtBarrier f) s = .next (s.signalTurn f) := by
  change execArriveAtBarrier f s = _
  simp only [execArriveAtBarrier, hbody]

theorem applySignal_counter {v : Nat} {k : Nat} (hbody : f.body = .signal h cover v) (hspace : gSpace h.addr = 2)
    (hk : s.counterAt (gOff h.addr) = some k) (hcheck : s.targetCheck f.src f.dev { h with len := 8 } .atomic = none) :
    s.applySignal f = ((s.regionLooked f.src { h with len := 8 }).addCounter k v).respond f (.signalResp h.tag .ok) false := by
  simp only [State.applySignal, hbody, hk, hcheck, Option.orElse_none, hspace, Option.isSome_some, and_self, if_true]

theorem applySignal_refused {v : Nat} {x : St} (hbody : f.body = .signal h cover v)
    (hcheck : s.targetCheck f.src f.dev { h with len := 8 } .atomic = some x) : s.applySignal f
      = ((s.regionLooked f.src { h with len := 8 }).bump R.FAB_STATS_KEY_REFUSALS).respond f (.signalResp h.tag x) false := by
  simp only [State.applySignal, hbody, hcheck, Option.orElse_some]
  rfl

theorem applySignal_barrier {b : Nat} (hbody : f.body = .arrive h cover a) (hspace : gSpace h.addr = 2)
    (hb : barrierAt (gOff h.addr) = some b) (hcheck : s.targetCheck f.src f.dev { h with len := 8 } .atomic = none)
    (hu : u = s.regionLooked f.src { h with len := 8 }) :
    s.applySignal f = ((u.respond f (.arriveResp h.tag (u.arrive b a).2) false).arrive b a).1 := by
  simp only [State.applySignal, hbody, hb, hcheck, Option.orElse_none, hspace, Option.isSome_some, and_self, if_true, ← hu]

/-! ### What flows without a command (R254) -/

theorem accepted_length_of_first (hfirst : s.fab.accepted.find? (·.src == src) = some f) : ∃ n, s.fab.accepted.length = n + 1 :=
  Nat.exists_eq_add_one.2 (List.length_pos_of_mem (List.mem_of_find?_eq_some hfirst))

/-- A frame that covers sprayed data is a SIGNAL or an ARRIVE. -/
theorem flowing_held {v n : Nat} (hfirst : s.fab.accepted.find? (·.src == src) = some f) (hholding : s.holding src = true)
    (hcover : f.cover? = some v) : s.flowing src (n + 1) = if s.blocked f = true then s.setHeld src true
      else (((s.setHeld src false).takeOrdered f).applySignal f).flowing src n := by
  unfold Frame.cover? at hcover
  rw [State.flowing, hfirst]
  cases hbody : f.body with
  | signal h cover v => simp [hbody, hholding]
  | arrive h cover a => simp [hbody, hholding]
  | _ => simp [hbody] at hcover

theorem blocked_iff : s.blocked f = true ↔ s.transitOnly = false ∧ ∃ v, f.cover? = some v ∧ covered (s.inCh f.src).accounted v = false := by
  simp [State.blocked, Option.any_eq_true]

/-- Settles O24: the state of the source's channel decides what becomes of a frame, and the bytes accounted whether a signal waits. That
ACCOUNTED stands when a source's first SYNC frame makes its channel is the model's reading (log entry 77). -/
theorem frameAcceptance : Obligations.FrameAcceptance := by
  unfold Obligations.FrameAcceptance
  refine ⟨?accepted, ?restart, ?first, ?again, ?renewed, ?gap, ?stale, ?notOrdered, ?engine, ?waits, ?blocked, ?signal, ?held, ?refused,
    ?arrive, ?covered, ?stillHeld, ?released, ?expired, ?arriveExpired, ?notHolding, ?account⟩
  case accepted =>
    intro s f c hcls hoack hresetting u hc hknown hincarnation hoseq
    rw [exec_orderedFrame hcls hoack, orderedFrame_known hresetting rfl hc hknown, if_neg (by simp [hincarnation]),
      if_neg (by simp [hincarnation]), if_pos hoseq]
  case restart =>
    intro s f hcls hoack hresetting u hc hsync
    rw [exec_orderedFrame hcls hoack, orderedFrame_unknown hresetting rfl hc, if_neg (by simp [hsync])]
  case first =>
    intro s f hcls hoack hresetting u hc hsync hoseq
    rw [exec_orderedFrame hcls hoack, orderedFrame_unknown hresetting rfl (fun c h => by cases hc.symm.trans h), if_pos ⟨hsync, hoseq⟩,
      State.newChannel, inCh_of_none hc]
    rfl
  case again =>
    intro s f c hcls hoack hresetting u hc hknown hsync hoseq
    have hunknown : ∀ d, u.inCh? f.src = some d → d.known = false := by
      intro d hd
      cases hc.symm.trans hd
      exact hknown
    rw [exec_orderedFrame hcls hoack, orderedFrame_unknown hresetting rfl hunknown, if_pos ⟨hsync, hoseq⟩, State.newChannel,
      inCh_of_some hc]
    simp only [hknown, Bool.false_eq_true, if_false, u]
  case renewed =>
    intro s f c hcls hoack hresetting u hc hknown hsync hoseq hincarnation
    rw [exec_orderedFrame hcls hoack, orderedFrame_known hresetting rfl hc hknown, if_pos ⟨hsync, hoseq, hincarnation⟩, State.newChannel,
      inCh_of_some hc]
    simp only [hknown, if_true, u]
  case gap =>
    intro s f c hcls hoack hresetting u hc hknown hincarnation hoseq
    rw [exec_orderedFrame hcls hoack, orderedFrame_known hresetting rfl hc hknown, if_neg (by simp [hincarnation]),
      if_neg (by simp [hincarnation]), if_neg hoseq]
  case stale =>
    intro s f c hcls hoack hresetting u hc hknown hincarnation hsync
    rw [exec_orderedFrame hcls hoack, orderedFrame_known hresetting rfl hc hknown, if_neg (by simp [hsync]),
      if_pos (Ne.symm hincarnation)]
  case notOrdered => exact fun s f hcls => if_neg fun h => hcls h.1
  case engine =>
    intro s f e first last n off len m hbody
    simp only [State.admitFrame, hbody]
  case waits =>
    intro s f hbody
    unfold State.admitFrame
    split
    · next h => exact absurd h (hbody _ _ _ _ _ _ _)
    · rfl
  case blocked => exact fun s f => blocked_iff
  case signal =>
    intro s f h cover v k hbody hdue hopen hspace hk hcheck t
    rw [exec_signalFrame hbody, signalTurn_due hdue hopen, applySignal_counter (s := s.takeOrdered f) hbody hspace hk hcheck]
  case held =>
    intro s f h cover v hbody hdue hblocked
    rw [exec_signalFrame hbody, signalTurn_blocked hdue hblocked]
  case refused =>
    intro s f h cover v x hbody hdue hopen hcheck t
    rw [exec_signalFrame hbody, signalTurn_due hdue hopen, applySignal_refused (s := s.takeOrdered f) hbody hcheck]
  case arrive =>
    intro s u f h cover b a hbody hdue hopen hspace hb hcheck hu t
    rw [exec_arriveAtBarrier hbody, signalTurn_due hdue hopen, applySignal_barrier (s := s.takeOrdered f) hbody hspace hb hcheck hu]
  case covered => exact fun a c => decide_eq_true_iff
  case stillHeld =>
    intro s src f hfirst hholding hblocked
    obtain ⟨-, v, hcover, -⟩ := blocked_iff.1 hblocked
    obtain ⟨n, hn⟩ := accepted_length_of_first hfirst
    rw [State.flow, hn, flowing_held hfirst hholding hcover, if_pos hblocked]
  case released =>
    intro s f h cover v haccepted hbody hholding hopen
    have hfirst : s.fab.accepted.find? (·.src == f.src) = some f := by simp [haccepted]
    have hcover : f.cover? = some cover := by simp [Frame.cover?, hbody]
    rw [State.flow, haccepted, List.length_singleton, flowing_held hfirst hholding hcover, if_neg (by simp [hopen]), State.flowing]
  case expired =>
    intro s src f h cover v hfirst hholding hbody
    change Host.Outcome.next (s.coverExpired src) = _
    simp only [State.coverExpired, hfirst, hholding, Bool.not_true, Bool.false_eq_true, if_false, hbody]
  case arriveExpired =>
    intro s src f h cover a hfirst hholding hbody
    change Host.Outcome.next (s.coverExpired src) = _
    simp only [State.coverExpired, hfirst, hholding, Bool.not_true, Bool.false_eq_true, if_false, hbody]
  case notHolding =>
    intro s src hholding
    change Host.Outcome.next (s.coverExpired src) = _
    rw [State.coverExpired]
    split
    · rfl
    · simp [hholding]
  case account => exact fun s src n => rfl

end Sys2Proof.Machine
end

section
/-! SUPPORT. Management frames at their target (R245): whether one is accepted, and the access it then makes. -/

namespace Sys2Proof.Machine

variable {s t : State} {f : Frame} {ctl tag v : Nat} {x : St}

theorem mgmtAccept_manager {src : Nat} (h : s.isManager src = true) : s.mgmtAccept src = some s := if_pos h

theorem mgmtAccept_first {src : Nat} (hmanagers : s.managers = []) (hvalid : s.flag R.CAP_NODE_NODE_VALID = false) :
    s.mgmtAccept src = some (s.setRegs [(R.FAB_MANAGER_VALID 0, 1), (R.FAB_MANAGER_NODE 0, src)]) := by
  simp [State.mgmtAccept, State.isManager, hmanagers, hvalid]

theorem mgmtAccept_stranger {src : Nat} (hstranger : s.isManager src = false)
    (hmanaged : s.managers ≠ [] ∨ s.flag R.CAP_NODE_NODE_VALID = true) : s.mgmtAccept src = none := by
  rw [State.mgmtAccept, if_neg (by simp [hstranger]), if_neg]
  obtain h | h := hmanaged <;> simp [h]

theorem exec_mgmtFrame (htarget : f.pathIndex = f.path.length) (haccept : (s.takeFrame f).mgmtAccept f.src = some t) :
    exec (.mgmtFrame f) s = .next (t.mgmtAccess f) := by
  change execMgmtFrame f s = _
  simp only [execMgmtFrame, htarget, ne_eq, not_true, if_false, haccept]

theorem mgmtAccess_write {u : State} (hbody : f.body = .mgmtWrite ctl tag v) (hblock : ctl < 0x500000 ∨ 0x700000 ≤ ctl)
    (hwrite : s.csrWrite false ctl v = (u, x)) : s.mgmtAccess f = u.mgmtAnswer f tag 0 x := by
  have hopen : ¬ (0x500000 ≤ ctl ∧ ctl < 0x700000) := by omega
  simp only [State.mgmtAccess, hbody, hopen, if_false, hwrite]

/-- Settles O25: whether the node accepts the frame's source, and the block it names, decide its answer. That the first RETURN nibble of
the node's own frame is 0 is the model's choice (log entry 94). -/
theorem managementAndNotices : Obligations.ManagementAndNotices := by
  unfold Obligations.ManagementAndNotices
  refine ⟨?read, ?write, ?denied, ?first, ?stranger, ?elsewhere, ?response, ?notice, ?answer⟩
  case read =>
    intro s t f ctl tag v hbody htarget hmanager hread
    rw [exec_mgmtFrame htarget (mgmtAccept_manager (s := s.takeFrame f) hmanager)]
    simp only [State.mgmtAccess, hbody, hread]
  case write =>
    intro s t f ctl tag v x hbody htarget hmanager hblock hwrite
    rw [exec_mgmtFrame htarget (mgmtAccept_manager (s := s.takeFrame f) hmanager), mgmtAccess_write hbody hblock hwrite]
  case denied =>
    intro s f ctl tag v hbody htarget hmanager hlow hhigh
    rw [exec_mgmtFrame htarget (mgmtAccept_manager (s := s.takeFrame f) hmanager)]
    simp only [State.mgmtAccess, hbody, hlow, hhigh, and_self, if_true]
  case first =>
    intro s t f ctl tag v x hbody htarget hmanagers hvalid hblock hwrite
    rw [exec_mgmtFrame htarget (mgmtAccept_first (s := s.takeFrame f) hmanagers hvalid), mgmtAccess_write hbody hblock hwrite]
  case stranger =>
    intro s f htarget hstranger hmanaged
    change execMgmtFrame f s = _
    simp only [execMgmtFrame, htarget, ne_eq, not_true, if_false, mgmtAccept_stranger (s := s.takeFrame f) hstranger hmanaged]
  case elsewhere => exact fun s f h => if_pos h
  case response => exact fun s f => rfl
  case notice => exact fun s src e => rfl
  case answer =>
    intro s f tag value p l x hingress hl hup hmode
    simp only [State.mgmtAnswer, State.mgmtSend, hingress, Option.toList_some, List.cons_append, List.nil_append, hl, hup, hmode,
      and_self, if_true]

end Sys2Proof.Machine
end

section
/-! SUPPORT. Transfer queues (R273 to R281): how the next request of a queue starts, and how one completes at its node. -/

namespace Sys2Proof.Machine

variable {s : State} {q op : Nat} {run : State → XReq → State} {x : XQueue} {w : WorkReq}

/-! ### Starting a request (R275, R279) -/

/-- The request of a queue that starts next. -/
def XQueue.request (x : XQueue) (q : Nat) (w : WorkReq) : XReq := ⟨q, x.next, w, .copy, false⟩

/-- A queue past its next request. -/
def XQueue.past (x : XQueue) : XQueue := { x with next := x.next + 1 }

theorem startNext_idle (hmay : s.mayStart q = false) : s.startNext q op run = s := if_pos (by simp [hmay])

section
variable (hmay : s.mayStart q = true) (hx : s.xq q = x) (hw : s.workAt q x.next = w)
include hmay hx hw

theorem startNext_runs (hop : w.op = op) (hcheck : s.startCheck q w = none) :
    s.startNext q op run = run (s.putXq x.past) (x.request q w) := by
  simp only [State.startNext, hmay, Bool.not_true, Bool.false_eq_true, if_false, hx, hw, hop, ne_eq, not_true, false_and, hcheck]
  rfl

theorem startNext_fails {st : St} (hop : w.op = op ∨ opKnown w.op = false) (hcheck : s.startCheck q w = some st) :
    s.startNext q op run = (s.putXq x.past).completeReq (x.request q w) st := by
  have hruns : ¬ (w.op ≠ op ∧ opKnown w.op = true) := by
    obtain h | h := hop <;> simp [h]
  simp only [State.startNext, hmay, Bool.not_true, Bool.false_eq_true, if_false, hx, hw, hruns, hcheck]
  rfl

end

theorem mayStart_iff : s.mayStart q = true ↔ (q < 64 ∨ q < 1024 ∧ s.flag (R.XFR_Q_A_VALID q) = true)
    ∧ s.flag (R.XFR_Q_A_ERROR q) = false ∧ s.flag (R.XFR_Q_A_BUSY q) = false ∧ (s.xq q).next < s.postedOf q
    ∧ (s.flightsOf q).length < s.reg (R.XFR_Q_B_INFLIGHT_MAX q) ∧ s.xfr.flights.length < 16384
    ∧ ((s.workAt q (s.xq q).next).fence = true → s.flightsOf q = [])
    ∧ ((s.workAt q (s.xq q).next).afterInject = true → ∀ r, r ∈ s.flightsOf q → s.allInjected r = true)
    ∧ s.waitOk q (s.workAt q (s.xq q).next) = true := by
  simp [State.mayStart, ← Bool.not_eq_true, ← imp_iff_not_or, and_assoc]

/-! ### A request done at this node (R275, R276) -/

theorem xq_num : (s.xq q).q = q := by
  rw [State.xq]
  cases h : s.xfr.queues.find? (·.q == q) with
  | none => rfl
  | some x => simpa using List.find?_some h

theorem putXq_xq (x : XQueue) : (s.putXq x).xq x.q = x := by
  have hfind : (s.putXq x).xfr.queues.find? (·.q == x.q) = some x := find_upsert_self _ _ _ (by simp)
  rw [State.xq, hfind, Option.getD_some]

theorem rd_wrNum (m : Mem) (a n v k : Nat) :
    (s.wrNum m a n v).rd m k = if a ≤ k ∧ k < a + n then (toBytes n v).getD (k - a) 0 else s.rd m k := by
  rw [State.rd, State.wrNum, State.wr, cells_setPoisons, cells_setCells, readCell_writeCells, toBytes_length]
  rfl

theorem bump_cells (f : Fld) (m : Mem) : (s.bump f).cells m = s.cells m := by
  obtain ⟨regs, fresh, heq⟩ := count_eq (s := s) f 1
  rw [State.bump, heq]
  rfl

theorem bump_xfr (f : Fld) : (s.bump f).xfr = s.xfr := by
  obtain ⟨regs, fresh, heq⟩ := count_eq (s := s) f 1
  rw [State.bump, heq]

theorem writeDone_xfr (q i : Nat) (st : St) : (s.writeDone q i st).xfr = s.xfr := by
  rw [State.writeDone]
  split <;> rfl

theorem writeDone_regs (q i : Nat) (st : St) : (s.writeDone q i st).regs = s.regs := by
  rw [State.writeDone]
  split <;> rfl

/-- The slot of a request of a software queue is DONE with its status (R276). -/
theorem rd_writeDone (hq : 64 ≤ q) (i : Nat) (st : St) (k : Nat) : (s.writeDone q i st).rd .hbm (s.slotOf q i + k)
    = if k = 0 then 1 else if 2 ≤ k ∧ k < 4 then (toBytes 2 st.code).getD (k - 2) 0 else s.rd .hbm (s.slotOf q i + k) := by
  simp only [State.writeDone, Nat.not_lt.2 hq, if_false, rd_wrNum]
  obtain rfl | hk := Nat.eq_zero_or_pos k
  · rw [if_neg (by omega), if_pos (by omega), if_pos rfl, Nat.add_zero, Nat.sub_self]
    rfl
  · by_cases hstatus : 2 ≤ k ∧ k < 4
    · rw [if_pos (by omega), if_neg (Nat.ne_of_gt hk), if_pos hstatus]
      congr 1
      omega
    · rw [if_neg (by omega), if_neg (by omega), if_neg (Nat.ne_of_gt hk), if_neg hstatus]

/-- A request off the list of those in flight. -/
def State.offFlights (s : State) (r : XReq) : State :=
  s.onXfr fun t => { t with flights := t.flights.filter fun x => !(x.q == r.q && x.idx == r.idx) }

/-- A request off the list of those in flight with ST_OK in its slot, and counted. -/
def State.counted (s : State) (r : XReq) : State := ((s.offFlights r).writeDone r.q r.idx .ok).bump R.XFR_SRC_STATS_COMPLETED

theorem reg_counted {g : Fld} {r : XReq} (h : g.key ≠ R.XFR_SRC_STATS_COMPLETED.key) : (s.counted r).reg g = s.reg g := by
  rw [State.counted, reg_bump_ne (s := _) h, State.reg, writeDone_regs]
  rfl

/-- The slot of a request counted as done with ST_OK (Table 10.1). -/
theorem counted_slot {r : XReq} (hq : 64 ≤ r.q) : (s.counted r).rdNum .hbm (s.slotOf r.q r.idx) 1 = 1
    ∧ (s.counted r).rdNum .hbm (s.slotOf r.q r.idx + 2) 2 = 0 := by
  have hslot := rd_writeDone (s := s.offFlights r) hq r.idx .ok
  have hrd : ∀ a, (s.counted r).rd .hbm a = ((s.offFlights r).writeDone r.q r.idx .ok).rd .hbm a := by
    intro a
    rw [State.rd, State.counted, bump_cells]
    rfl
  refine ⟨?_, ?_⟩
  · simp only [State.rdNum, rdNat, hrd]
    exact congrArg (fun b : Byte => b.toNat + 256 * 0) (hslot 0)
  · simp only [State.rdNum, rdNat, hrd]
    exact congrArg₂ (fun b c : Byte => b.toNat + 256 * (c.toNat + 256 * 0)) (hslot 2) (hslot 3)

theorem counted_xq {r : XReq} (q : Nat) : (s.counted r).xq q = s.xq q := by
  rw [State.xq, State.counted, bump_xfr, writeDone_xfr]
  rfl

/-- A NOP of a software queue that notifies no counter completes with ST_OK: its slot is written and COMPLETED goes on. -/
theorem completeReq_local {r : XReq} (hq : 64 ≤ r.q) (hop : r.wr.op = 6) (hnotify : r.wr.notifyEn = false) : s.completeReq r .ok
    = (((s.counted r).putXq { (s.counted r).xq r.q with
        done := (advanceDone (((s.counted r).xq r.q).done.length + 1) ((s.counted r).reg (R.XFR_Q_C_COMPLETED r.q))
          (((s.counted r).xq r.q).done ++ [r.idx])).2 }).setReg (R.XFR_Q_C_COMPLETED r.q)
            (advanceDone (((s.counted r).xq r.q).done.length + 1) ((s.counted r).reg (R.XFR_Q_C_COMPLETED r.q))
              (((s.counted r).xq r.q).done ++ [r.idx])).1).endFlush r.q := by
  have hwrite : (r.wr.op == 1) = false := by simp [hop]
  have hreduce : ¬ r.wr.op = 0x10 := by simp [hop]
  have hdevice : ¬ r.q < 64 := Nat.not_lt.2 hq
  have hlocal : ∀ t : State, t.notifyLocal r.wr = t := fun t => if_neg (by simp [hnotify])
  simp only [State.completeReq, hwrite, Bool.false_and, Bool.not_false, Bool.and_true, decide_true, if_true, hlocal, hdevice, hreduce,
    false_and, if_false]
  rfl

/-- The head of a queue's ring, done at this node without a counter to notify, completes with ST_OK. -/
theorem completeReq_head {r : XReq} (hq : 64 ≤ r.q) (hop : r.wr.op = 6) (hnotify : r.wr.notifyEn = false)
    (hdone : (s.xq r.q).done = []) (hcompleted : s.reg (R.XFR_Q_C_COMPLETED r.q) = r.idx) (hbusy : s.flag (R.XFR_Q_A_BUSY r.q) = false) :
    s.completeReq r .ok = ((s.counted r).putXq { s.xq r.q with done := [] }).setReg (R.XFR_Q_C_COMPLETED r.q) (r.idx + 1) := by
  have hhead : (s.counted r).reg (R.XFR_Q_C_COMPLETED r.q) = r.idx := by
    rw [reg_counted, hcompleted]
    simp only [Fld.key, R.XFR_Q_C_COMPLETED, R.XFR_SRC_STATS_COMPLETED]
    omega
  have hflush : ∀ y v, (((s.counted r).putXq y).setReg (R.XFR_Q_C_COMPLETED r.q) v).flag (R.XFR_Q_A_BUSY r.q) = false := by
    intro y v
    have hbusyReg : (((s.counted r).putXq y).setReg (R.XFR_Q_C_COMPLETED r.q) v).reg (R.XFR_Q_A_BUSY r.q)
        = s.reg (R.XFR_Q_A_BUSY r.q) := by
      rw [reg_setReg_ne]
      · refine reg_counted ?_
        simp only [Fld.key, R.XFR_Q_A_BUSY, R.XFR_SRC_STATS_COMPLETED]
        omega
      · simp only [Fld.key, R.XFR_Q_A_BUSY, R.XFR_Q_C_COMPLETED]
        omega
    simpa only [State.flag, hbusyReg] using hbusy
  have hadvance : advanceDone (((s.counted r).xq r.q).done.length + 1) ((s.counted r).reg (R.XFR_Q_C_COMPLETED r.q))
      (((s.counted r).xq r.q).done ++ [r.idx]) = (r.idx + 1, []) := by
    rw [counted_xq, hdone, hhead]
    simp [advanceDone]
  rw [completeReq_local hq hop hnotify, hadvance, counted_xq, State.endFlush, hflush]
  rfl

/-! ### Requests to another node (R252, R258) -/

theorem startSignal_elsewhere {r : XReq} (hnode : gNode r.wr.remote ≠ s.node) :
    s.startSignal r = s.remoteReq r .signal fun h => .signal h 0 r.wr.operand := if_pos (.inl hnode)

theorem remoteReq_elsewhere {r : XReq} {kind : RemoteKind} {body : OpHdr → Body} {tag : Nat} (hnode : gNode r.wr.remote ≠ s.node)
    (hreach : s.isUnreachable (gNode r.wr.remote) = false) (htag : s.newTag = tag) : s.remoteReq r kind body
      = ((s.addRemote ⟨tag, kind, gNode r.wr.remote, r.wr.remote, r.wr.region, 8, locAddr r.wr.locSpace r.wr.locOff,
          .queue r.q r.idx⟩).putFlight { r with prog := .remote tag, injected := true }).inject (s.queueComp r.q)
            (mkFrame s.node (gNode r.wr.remote) (r.q < 64) (body ⟨r.wr.remote, r.wr.region, r.wr.key, 8, tag⟩)) := by
  subst htag
  exact (if_neg (by simp [hreach])).trans (if_neg hnode)

/-! ### UMBER requests (R344) -/

theorem roceIssue_some {i : Nat} {p : Qp} {o : RoceOp} (hp : s.qp? i = some p) (herror : p.error = false) :
    ∃ t, s.roceIssue i o = some t := by
  simp [State.roceIssue, hp, herror]

/-! ### Queue registers (R273, R274, R278) -/

section
variable {v : Nat} (hq : 64 ≤ q) (hlast : q < 1024)
include hq hlast

theorem queueCfgWrite_a : s.queueCfgWrite (0x301000 + 32 * q) v
    = if (s.flag (R.XFR_Q_A_VALID q) || s.flag (R.XFR_Q_A_BUSY q)) = true then
        if bitAt v 63 = false then (if s.flag (R.XFR_Q_A_BUSY q) = true then s else s.flushQueue q, .ok) else (s, .tableBusy)
      else if bitsOf v 45 0 % 4096 ≠ 0 ∨ s.hbmFree (bitsOf v 45 0) (64 * 2 ^ s.reg (R.XFR_Q_B_DEPTH_LOG2 q)) = false then (s, .badParam)
      else if bitAt v 63 = true then
        ((((s.writeRw (0x301000 + 32 * q) v).setReg (R.XFR_Q_C_COMPLETED q) 0).putXq ⟨q, 0, [], []⟩).setCounter
          ((s.writeRw (0x301000 + 32 * q) v).postKey q) 0, .ok)
      else (s.writeRw (0x301000 + 32 * q) v, .ok) := by
  have hnum : (0x301000 + 32 * q - 0x301000) / 32 = q := by omega
  have hA : ((0x301000 + 32 * q) % 32 == 0) = true := by simp [Nat.add_mod]
  simp only [State.queueCfgWrite, hnum, hA, Nat.not_le.2 hlast, Nat.not_lt.2 hq, Nat.not_lt.2 (Nat.le_add_right 0x301000 (32 * q)), or_self,
    if_false, Bool.true_and, Bool.not_eq_true', if_true]

theorem queueCfgWrite_b : s.queueCfgWrite (0x301008 + 32 * q) v
    = if (s.flag (R.XFR_Q_A_VALID q) || s.flag (R.XFR_Q_A_BUSY q)) = true then (s, .tableBusy)
      else if bitsOf v 32 28 < 4 ∨ 16 < bitsOf v 32 28 ∨ bitsOf v 22 16 = 0 ∨ 64 < bitsOf v 22 16 then (s, .badParam)
      else (s.writeRw (0x301008 + 32 * q) v, .ok) := by
  have hnum : (0x301008 + 32 * q - 0x301000) / 32 = q := by omega
  have hB : ((0x301008 + 32 * q) % 32 == 0) = false := by simp [Nat.add_mod]
  have hbase : ¬ 0x301008 + 32 * q < 0x301000 := by omega
  simp only [State.queueCfgWrite, hnum, hB, Nat.not_le.2 hlast, Nat.not_lt.2 hq, hbase, or_self, if_false, Bool.false_and,
    Bool.false_eq_true]

end

theorem queueCfgWrite_device {v : Nat} (hq : q < 64) : (s.queueCfgWrite (0x301000 + 32 * q) v).1 = s := by
  have hnum : (0x301000 + 32 * q - 0x301000) / 32 = q := by omega
  have hall : ¬ (0x301000 + 32 * q < 0x301000 ∨ 1024 ≤ q) := by omega
  simp only [State.queueCfgWrite, hnum, hall, if_false, hq, if_true]

/-- Settles O29: whether a queue's next request may start, and the first check it fails, decide how it starts. ST_BAD_PARAM for WAIT_KIND
3 and for a node number in REMOTE of a COPY or REDUCE, and the check of a ring's range, are the model's choices (log entry 46). -/
theorem transferQueues : Obligations.TransferQueues := by
  unfold Obligations.TransferQueues
  refine ⟨?may, ?idle, ?fails, ?badParam, ?nop, ?nopDone, ?copy, ?copyDone, ?atomic, ?unreachable, ?ownSignal, ?signal, ?umberRead,
    ?umberWrite, ?issue, ?post, ?notPosted, ?valid, ?flush, ?refused, ?depth, ?cfg⟩
  case may =>
    intro s q hmay
    obtain ⟨-, herror, -, hposted, hinflight, -, hfence, hinjected, hwait⟩ := mayStart_iff.1 hmay
    exact ⟨herror, hposted, hinflight, hwait, hfence, hinjected⟩
  case idle =>
    intro s q hmay
    have hidle : ∀ op run, Host.Outcome.next (s.startNext q op run) = (Host.Outcome.next s : Host.Outcome State Fault Refusal) :=
      fun op run => congrArg _ (startNext_idle hmay)
    exact ⟨hidle _ _, hidle _ _, hidle _ _, hidle _ _, hidle _ _, hidle _ _, hidle _ _, hidle _ _, hidle _ _⟩
  case fails =>
    intro s q x w st hmay hx hw hop hcheck
    exact congrArg Host.Outcome.next (startNext_fails hmay hx hw hop hcheck)
  case badParam =>
    intro s q w hbad
    rw [State.startCheck]
    by_cases hform : (!opKnown w.op || !w.rsvdOk || !lengthOk w.op w.length || w.waitKind == 3) = true
    · rw [if_pos hform]
    · rw [if_neg hform]
      split
      · rfl
      · rw [if_pos]
        obtain ⟨⟨⟨hknown, hrsvd⟩, hlength⟩, hwait⟩ : ((opKnown w.op = true ∧ w.rsvdOk = true) ∧ lengthOk w.op w.length = true)
            ∧ ¬ w.waitKind = 3 := by simpa using hform
        simpa [hknown, hrsvd, hlength, hwait] using hbad
  case nop =>
    intro s q x w hmay hx hw hop hcheck
    exact congrArg Host.Outcome.next (startNext_runs hmay hx hw hop hcheck)
  case nopDone =>
    intro s q x w _ hq hmay hx hw hop hnotify hcheck hdone hcompleted hroom
    have hnum : x.past.q = q := by rw [XQueue.past, ← hx, xq_num]
    have hpast : (s.putXq x.past).xq q = x.past := by
      have hput := putXq_xq (s := s) x.past
      rwa [hnum] at hput
    obtain ⟨-, -, hbusy, -⟩ := mayStart_iff.1 hmay
    have hdone' : ((s.putXq x.past).xq q).done = [] := by rw [hpast, XQueue.past, hdone]
    refine ⟨_, congrArg Host.Outcome.next ((startNext_runs hmay hx hw hop hcheck).trans
      (completeReq_head (r := x.request q w) hq hop hnotify hdone' hcompleted hbusy)), ?_, ?_, ?_⟩
    · rw [XQueue.request, reg_setReg_self]
      exact Nat.mod_eq_of_lt hroom
    · exact (counted_slot (s := s.putXq x.past) (r := x.request q w) hq).1
    · exact (counted_slot (s := s.putXq x.past) (r := x.request q w) hq).2
  case copy =>
    intro s q x w hmay hx hw hop hcheck
    exact congrArg Host.Outcome.next (startNext_runs hmay hx hw hop hcheck)
  case copyDone =>
    intro s q idx r hr hop
    change execXfrCopyDone q idx s = _
    simp [execXfrCopyDone, hr, State.copyDone, hop]
  case atomic =>
    intro s q x w hmay hx hw hop hcheck hnode hmapped hown hspace haligned hlow hhigh
    refine congrArg Host.Outcome.next ((startNext_runs hmay hx hw hop hcheck).trans ?_)
    have hhere : ¬ (gNode w.remote ≠ (s.putXq x.past).node ∨ (s.putXq x.past).ownQueue = true) := by
      change ¬ (gNode w.remote ≠ s.node ∨ s.ownQueue = true)
      simp [hnode, hown]
    have hmapped' : (s.putXq x.past).targetMapped (gSpace w.remote) (gOff w.remote) 8 = true := hmapped
    have hplace : misaligned (gOff w.remote) w.aop = false := by simp [misaligned, haligned, hhigh]
    have htwo : gSpace w.remote ≠ 2 := by omega
    have hsync : ¬ 1 < gSpace w.remote := by omega
    have haop : w.aop ≠ 0 := by omega
    simp only [State.startAtomic, XQueue.request, hhere, if_false, hmapped', atomicCheck, hplace, htwo, hsync, State.atomicAt, haop,
      Bool.not_true, Bool.false_eq_true]
    rfl
  case unreachable =>
    intro s q x w c hmay hx hw hop hcheck hnode hc hunreach
    refine congrArg Host.Outcome.next ((startNext_runs hmay hx hw hop hcheck).trans ?_)
    have hgone : (s.putXq x.past).isUnreachable (gNode w.remote) = true := by
      change s.isUnreachable (gNode w.remote) = true
      simp [State.isUnreachable, hc, hunreach]
    exact (startSignal_elsewhere hnode).trans (if_pos hgone)
  case ownSignal =>
    intro s q k x w hmay hx hw hop hcheck hnode hopen hspace hk
    refine congrArg Host.Outcome.next ((startNext_runs hmay hx hw hop hcheck).trans ?_)
    have hhere : ¬ (gNode w.remote ≠ (s.putXq x.past).node ∨ (s.putXq x.past).ownWaits = true) := by
      change ¬ (gNode w.remote ≠ s.node ∨ s.ownWaits = true)
      simp [hnode, hopen]
    have hk' : (s.putXq x.past).counterAt (gOff w.remote) = some k := hk
    simp only [State.startSignal, XQueue.request, hhere, if_false, hk', hspace, if_true]
    rfl
  case signal =>
    intro s q tag x w hmay hx hw hop hcheck hnode hreach htag
    refine congrArg Host.Outcome.next ((startNext_runs hmay hx hw hop hcheck).trans ?_)
    rw [startSignal_elsewhere (s := s.putXq x.past) hnode]
    exact remoteReq_elsewhere (s := s.putXq x.past) hnode hreach htag
  case umberRead =>
    intro s q i x w p hmay hx hw hop hcheck hi hp herror
    obtain ⟨t, ht⟩ := roceIssue_some (s := (s.putXq x.past).putFlight ⟨q, x.next, w, .roce i, true⟩)
      (o := ⟨.request q x.next, false, w.remote, w.key, w.length, w.locSpace, w.locOff, [], 0⟩) hp herror
    refine ⟨t, congrArg Host.Outcome.next ((startNext_runs hmay hx hw hop hcheck).trans ?_), ht⟩
    simp only [State.startUmber, XQueue.request, hi, Option.getD_some, Bool.false_and, Bool.false_eq_true, if_false, ht]
  case umberWrite =>
    intro s q i x w p hmay hx hw hop hcheck hpoison hi hp herror
    obtain ⟨t, ht⟩ := roceIssue_some (s := (s.putXq x.past).putFlight ⟨q, x.next, w, .roce i, true⟩)
      (o := ⟨.request q x.next, true, w.remote, w.key, w.length, w.locSpace, w.locOff, s.rdBytes (spaceMem w.locSpace) w.locOff w.length,
        0⟩) hp herror
    refine ⟨t, congrArg Host.Outcome.next ((startNext_runs hmay hx hw hop hcheck).trans ?_), ht⟩
    have hclean : (s.putXq x.past).poisoned (spaceMem w.locSpace) w.locOff w.length = none := hpoison
    have hdata : (s.putXq x.past).rdBytes (spaceMem w.locSpace) w.locOff w.length = s.rdBytes (spaceMem w.locSpace) w.locOff w.length :=
      rfl
    simp only [State.startUmber, XQueue.request, hi, Option.getD_some, hclean, Option.isSome_none, Bool.and_false, Bool.false_eq_true,
      if_false, if_true, hdata, ht]
  case issue =>
    intro s i p o hp herror hops hwrite
    simp [State.roceIssue, hp, herror, hops, hwrite, sendable, State.roceSend, RoceOp.out]
  case post =>
    intro s q v hq hlast hposted hroom
    refine congrArg Host.Outcome.next ?_
    rw [State.qdWrite, if_neg (by omega), if_neg (by omega)]
  case notPosted =>
    intro s q v hbad
    refine congrArg Host.Outcome.next ?_
    rw [State.qdWrite]
    by_cases hq : q < 64
    · rw [if_pos hq]
    · rw [if_neg hq, if_pos (by omega)]
  case valid =>
    intro s q v hq hlast hvalid hbusy hset hring hfree
    refine congrArg Host.Outcome.next ?_
    rw [queueCfgWrite_a hq hlast]
    simp [hvalid, hbusy, hset, hring, hfree]
  case flush =>
    intro s q v hq hlast hvalid hbusy hclear
    refine congrArg Host.Outcome.next ?_
    rw [queueCfgWrite_a hq hlast]
    simp [hvalid, hbusy, hclear]
  case refused =>
    intro s q v hbad
    refine congrArg Host.Outcome.next ?_
    obtain hdevice | ⟨hq, hlast, hvalid, hset⟩ := hbad
    · exact queueCfgWrite_device hdevice
    · rw [queueCfgWrite_a hq hlast]
      simp [hvalid, hset]
  case depth =>
    intro s q v hq hlast hvalid hbusy hlow hhigh hone hmax
    refine congrArg Host.Outcome.next ?_
    rw [queueCfgWrite_b hq hlast]
    rw [if_neg (by simp [hvalid, hbusy]), if_neg (by omega)]
  case cfg => exact fun s v => rfl

end Sys2Proof.Machine
end

section
/-! SUPPORT. Sprayed messages (R282 to R286): the pieces of a range, a WRITE at its source, and a packet at its destination. -/

namespace Sys2Proof.Machine

variable {s : State} {q : Nat} {x : XQueue} {w : WorkReq}

/-! ### The pieces of a range (R282) -/

section
variable {cut start len : Nat}

/-- A piece lies in the range and in one of the parts that the multiples of `cut` bound. -/
theorem mem_pieces {p : Nat × Nat} (hp : p ∈ pieces cut start len) : 0 < len ∧ ∃ j, start / cut ≤ j ∧ j ≤ (start + len - 1) / cut
    ∧ p = (max start (j * cut), min (start + len) ((j + 1) * cut) - max start (j * cut)) := by
  rw [pieces] at hp
  split at hp
  · simp at hp
  · next hlen =>
    obtain ⟨i, hi, rfl⟩ := List.mem_map.1 hp
    have hlast : start / cut ≤ (start + len - 1) / cut := Nat.div_le_div_right (by omega)
    rw [List.mem_range] at hi
    exact ⟨Nat.pos_of_ne_zero hlen, start / cut + i, by omega, by omega, rfl⟩

/-- Where the pieces before the `i`th end. -/
def pieceEnd (cut start len i : Nat) : Nat := max start (min (start + len) ((start / cut + i) * cut))

theorem pieceEnd_mono : Monotone (pieceEnd cut start len) := by
  intro i j hij
  have hle : (start / cut + i) * cut ≤ (start / cut + j) * cut := Nat.mul_le_mul_right cut (by omega)
  simp only [pieceEnd]
  omega

theorem lt_part_end (hcut : 0 < cut) (a : Nat) : a < (a / cut + 1) * cut := (Nat.div_lt_iff_lt_mul hcut).1 (Nat.lt_succ_self _)

theorem sum_steps {b : Nat → Nat} (hb : Monotone b) (n : Nat) : ((List.range n).map fun i => b (i + 1) - b i).sum = b n - b 0 := by
  induction n with
  | zero => simp
  | succ n ih =>
    have hstep : b n ≤ b (n + 1) := hb n.le_succ
    have hfirst : b 0 ≤ b n := hb n.zero_le
    rw [List.sum_range_succ, ih]
    omega

theorem pieces_sum (hcut : 0 < cut) : ((pieces cut start len).map (·.2)).sum = len := by
  rw [pieces]
  split
  · next hlen => simp [hlen]
  next hlen =>
  have hle : start / cut * cut ≤ start := Nat.div_mul_le_self _ _
  have hlast : start / cut ≤ (start + len - 1) / cut := Nat.div_le_div_right (by omega)
  have hend : start + len - 1 < ((start + len - 1) / cut + 1) * cut := lt_part_end hcut _
  have hsteps : ∀ i < (start + len - 1) / cut - start / cut + 1, min (start + len) ((start / cut + i + 1) * cut)
      - max start ((start / cut + i) * cut) = pieceEnd cut start len (i + 1) - pieceEnd cut start len i := by
    intro i hi
    have hbelow : (start / cut + i) * cut ≤ (start + len - 1) / cut * cut := Nat.mul_le_mul_right cut (by omega)
    have hlow : (start + len - 1) / cut * cut ≤ start + len - 1 := Nat.div_mul_le_self _ _
    have habove : start < (start / cut + i + 1) * cut :=
      lt_of_lt_of_le (lt_part_end hcut start) (Nat.mul_le_mul_right cut (by omega))
    simp only [pieceEnd, ← Nat.add_assoc]
    omega
  calc (((List.range ((start + len - 1) / cut - start / cut + 1)).map fun i =>
        (max start ((start / cut + i) * cut), min (start + len) ((start / cut + i + 1) * cut)
          - max start ((start / cut + i) * cut))).map (·.2)).sum
      = ((List.range ((start + len - 1) / cut - start / cut + 1)).map fun i =>
          pieceEnd cut start len (i + 1) - pieceEnd cut start len i).sum := by
        rw [List.map_map]
        exact congrArg List.sum (List.map_congr_left fun i hi => hsteps i (List.mem_range.1 hi))
    _ = pieceEnd cut start len ((start + len - 1) / cut - start / cut + 1) - pieceEnd cut start len 0 := sum_steps pieceEnd_mono _
    _ = len := by
        have hindex : start / cut + ((start + len - 1) / cut - start / cut + 1) = (start + len - 1) / cut + 1 := by omega
        simp only [pieceEnd, hindex, Nat.add_zero]
        omega

theorem pieces_within (hcut : 0 < cut) {p : Nat × Nat} (hp : p ∈ pieces cut start len) :
    0 < p.2 ∧ start ≤ p.1 ∧ p.1 + p.2 ≤ start + len ∧ p.1 / cut = (p.1 + p.2 - 1) / cut := by
  obtain ⟨hlen, j, hfirst, hlast, rfl⟩ := mem_pieces hp
  have hbelow : j * cut ≤ start + len - 1 := (Nat.mul_le_mul_right cut hlast).trans (Nat.div_mul_le_self _ _)
  have habove : start < (j + 1) * cut := lt_of_lt_of_le (lt_part_end hcut start) (Nat.mul_le_mul_right cut (by omega))
  have hpart : j * cut < (j + 1) * cut := Nat.mul_lt_mul_of_pos_right j.lt_succ_self hcut
  have hdiv : ∀ a, j * cut ≤ a → a < (j + 1) * cut → a / cut = j := fun a hlow hhigh => Nat.div_eq_of_lt_le hlow hhigh
  refine ⟨by dsimp only; omega, by dsimp only; omega, by dsimp only; omega, ?_⟩
  dsimp only
  rw [hdiv _ (by omega) (by omega), hdiv _ (by omega) (by omega)]

end

/-! ### The end of a WRITE at its source (R283, R286) -/

/-- The one request in flight is off the list once it is over. -/
theorem flights_landed {r : XReq} (hflights : s.xfr.flights = [r]) :
    (s.onXfr fun t => { t with flights := t.flights.filter fun x => !(x.q == r.q && x.idx == r.idx) })
      = s.onXfr fun t => { t with flights := [] } := by
  simp [State.onXfr, hflights]

section
variable {src first : Nat} {r : XReq} {g : MsgGroup} {tries : Nat} {b : Bool} (hflights : s.xfr.flights = [r])
  (hnode : gNode r.wr.remote = src) (hfirst : g.first = first)
include hflights hnode hfirst

theorem msgDone_ok (hprog : r.prog = .write g [] none tries b) :
    s.msgDone src first .ok = ((s.onXfr fun t => { t with flights := [] }).completeReq r .ok).pumpDst src := by
  simp only [State.msgDone, hflights, List.find?_cons, hnode, hprog, hfirst, beq_self_eq_true, Bool.and_self, flights_landed hflights]

theorem msgDone_timeout (hprog : r.prog = .write g [] none (tries + 1) b) : s.msgDone src first .xfrTimeout
    = (((s.onXfr fun t => { t with flights := [] }).bump R.XFR_SRC_STATS_RETRIES).beginGroup r g.addr g.bytes tries none).pumpDst src := by
  simp only [State.msgDone, hflights, List.find?_cons, hnode, hprog, hfirst, beq_self_eq_true, Bool.and_self, flights_landed hflights,
    Nat.succ_pos, if_true, Nat.add_sub_cancel]

end

/-! ### A packet at its destination (Table 10.4) -/

/-- The record of a message where no message has one. -/
theorem putRec_first (hrecs : s.xfr.recs = []) (r : MsgRec) (p : MsgRec → Bool) :
    (s.onXfr fun t => { t with recs := upsert p r t.recs }) = s.onXfr fun t => { t with recs := [r] } := by
  simp [State.onXfr, hrecs, upsert]

section
variable {f : Frame} {id psn addr region key total : Nat} {data : List Byte}

theorem exec_writePacket (hbody : f.body = .write id psn addr region key total data) :
    exec (.writePacket f) s = .next ((s.takeFrame f).writePacket f id psn addr region key total data) := by
  change execWritePacket f s = _
  simp only [execWritePacket, hbody]

variable (hvalid : s.flag R.XFR_MSG_BASE_VALID = true)
include hvalid

theorem writePacket_finished (hfinished : (s.msgSrc f.src).isFinished id = true) :
    s.writePacket f id psn addr region key total data = s.bump R.XFR_DEST_STATS_DUPLICATES := by
  simp [State.writePacket, hvalid, hfinished]

variable (hopen : (s.msgSrc f.src).isFinished id = false)
include hopen

theorem writePacket_far (hfar : 128 ≤ (id + 2 ^ 31 - (s.msgSrc f.src).floor) % 2 ^ 31) :
    s.writePacket f id psn addr region key total data
      = (s.refusePacket f id region addr data.length .badParam).msgBytes f.src id data.length total := by
  simp only [State.writePacket, hvalid, hopen, hfar, Bool.not_true, Bool.false_eq_true, if_false, if_true]

variable (hnear : (id + 2 ^ 31 - (s.msgSrc f.src).floor) % 2 ^ 31 < 128)
include hnear

theorem writePacket_failed {i : Nat} {st : St} (hfailed : (s.msgSrc f.src).failed.find? (·.1 == id) = some (i, st)) :
    s.writePacket f id psn addr region key total data
      = (s.refusePacket f id region addr data.length st).msgBytes f.src id data.length total := by
  simp only [State.writePacket, hvalid, hopen, Nat.not_le.2 hnear, Bool.not_true, Bool.false_eq_true, if_false, hfailed]

variable (hgood : (s.msgSrc f.src).failed.find? (·.1 == id) = none)
include hgood

theorem writePacket_again {r : MsgRec} (hr : (s.xfr.recs.find? fun r => r.src == f.src && r.msgId == id) = some r)
    (hpsn : r.psns.contains psn = true) :
    s.writePacket f id psn addr region key total data = s.bump R.XFR_DEST_STATS_DUPLICATES := by
  simp only [State.writePacket, hvalid, hopen, Nat.not_le.2 hnear, Bool.not_true, Bool.false_eq_true, if_false, hgood, hr,
    Option.isNone_some, false_and, Option.getD_some, hpsn, if_true]

section
variable (hrecs : s.xfr.recs = [])
include hrecs

theorem writePacket_placed (hspace : gSpace addr < 2)
    (hcheck : s.targetCheck f.src f.dev ⟨addr, region, key, data.length, 0⟩ .write = none) :
    s.writePacket f id psn addr region key total data
      = ((((s.onXfr fun t => { t with recs := [⟨f.src, id, [psn], data.length, total⟩] }).regionLooked f.src
          ⟨addr, region, key, data.length, 0⟩).place (spaceMem (gSpace addr)) (gOff addr) data f.poison).account f.src
            data.length).msgBytes f.src id data.length total := by
  have hcheck' : ∀ recs, (s.onXfr fun t => { t with recs := recs }).targetCheck f.src f.dev ⟨addr, region, key, data.length, 0⟩ .write
      = none := fun _ => hcheck
  have hsync : ¬ 1 < gSpace addr := by omega
  have hroom : ¬ 65536 ≤ s.xfr.recs.length := by simp [hrecs]
  have hnone : (s.xfr.recs.find? fun r => r.src == f.src && r.msgId == id) = none := by simp [hrecs]
  simp only [State.writePacket, hvalid, hopen, Nat.not_le.2 hnear, Bool.not_true, Bool.false_eq_true, if_false, hgood, hnone, hroom,
    and_false, Option.getD_none, List.contains_nil, putRec_first hrecs, hcheck', Option.orElse_none, hsync, List.nil_append, Nat.zero_add]

theorem writePacket_refused {st : St} (hcheck : s.targetCheck f.src f.dev ⟨addr, region, key, data.length, 0⟩ .write = some st) :
    s.writePacket f id psn addr region key total data
      = (((((s.onXfr fun t => { t with recs := [⟨f.src, id, [psn], data.length, total⟩] }).regionLooked f.src
          ⟨addr, region, key, data.length, 0⟩).bump R.FAB_STATS_KEY_REFUSALS).putMsgSrc ((s.msgSrc f.src).fail id st)).refusePacket f id
            region addr data.length st).msgBytes f.src id data.length total := by
  have hcheck' : ∀ recs, (s.onXfr fun t => { t with recs := recs }).targetCheck f.src f.dev ⟨addr, region, key, data.length, 0⟩ .write
      = some st := fun _ => hcheck
  have hcounted : ∀ t : State, t.countRefusal (some st) = t.bump R.FAB_STATS_KEY_REFUSALS := fun _ => rfl
  have hroom : ¬ 65536 ≤ s.xfr.recs.length := by simp [hrecs]
  have hnone : (s.xfr.recs.find? fun r => r.src == f.src && r.msgId == id) = none := by simp [hrecs]
  simp only [State.writePacket, hvalid, hopen, Nat.not_le.2 hnear, Bool.not_true, Bool.false_eq_true, if_false, hgood, hnone, hroom,
    and_false, Option.getD_none, List.contains_nil, putRec_first hrecs, hcheck', Option.orElse_some, hcounted, List.nil_append,
    Nat.zero_add]

end

end

/-- Settles O30: the status of a MSG_DONE decides what becomes of its WRITE, and the first row of Table 10.4 that a packet meets its
outcome. -/
theorem sprayedMessages : Obligations.SprayedMessages := by
  unfold Obligations.SprayedMessages
  refine ⟨?own, ?unreachable, ?group, ?sum, ?within, ?notMine, ?done, ?retry, ?abort, ?noWrite, ?opened, ?finished, ?noTable, ?far,
    ?failed, ?again, ?placed, ?refused, ?aborted, ?base, ?baseRefused⟩
  case own =>
    intro s q x w hmay hx hw hop hcheck hnode
    exact congrArg Host.Outcome.next ((startNext_runs hmay hx hw hop hcheck).trans (if_pos hnode))
  case unreachable =>
    intro s q x w hmay hx hw hop hcheck hnode hgone
    exact congrArg Host.Outcome.next ((startNext_runs hmay hx hw hop hcheck).trans ((if_neg hnode).trans (if_pos hgone)))
  case group =>
    intro s q x w hmay hx hw hop hcheck hnode hreach hfew
    have hreach' : ¬ (s.putXq x.past).isUnreachable (gNode w.remote) = true := by
      change ¬ s.isUnreachable (gNode w.remote) = true
      simp [hreach]
    refine congrArg Host.Outcome.next ((startNext_runs hmay hx hw hop hcheck).trans ((if_neg hnode).trans ((if_neg hreach').trans ?_)))
    simp only [XQueue.request, List.take_of_length_le hfew, Nat.not_lt.2 hfew, if_false]
    rfl
  case sum => exact fun cut start len hcut => pieces_sum hcut
  case within => exact fun cut start len p hcut hp => pieces_within hcut hp
  case notMine =>
    intro s src first count st hother
    have hnone : ∀ p : XReq → Bool, ((s.takeMsg src (.msgDone first count st)).xfr.flights.find? fun r => gNode r.wr.remote == src && p r)
        = none := by
      intro p
      rw [List.find?_eq_none]
      intro r hr
      simp [hother r hr]
    change Host.Outcome.next ((s.takeMsg src (.msgDone first count st)).msgDone src first st) = _
    simp only [State.msgDone, hnone]
  case done =>
    intro s src first count tries r g b hflights hnode hprog hfirst
    exact congrArg Host.Outcome.next (msgDone_ok (s := s.takeMsg src (.msgDone first count .ok)) hflights hnode hfirst hprog)
  case retry =>
    intro s src first count tries r g b hflights hnode hprog hfirst
    exact congrArg Host.Outcome.next (msgDone_timeout (s := s.takeMsg src (.msgDone first count .xfrTimeout)) hflights hnode hfirst
      hprog)
  case abort =>
    intro s q idx tries r g hr hprog hreach
    change execMsgTimeoutExpiry q idx s = _
    simp [execMsgTimeoutExpiry, hr, hprog, hreach]
  case noWrite =>
    intro s q idx hnone
    change execMsgTimeoutExpiry q idx s = _
    simp only [execMsgTimeoutExpiry, hnone]
  case opened => exact fun s src m => rfl
  case finished =>
    intro s f id psn addr region key total data hbody hvalid hfinished
    rw [exec_writePacket hbody, writePacket_finished (s := s.takeFrame f) hvalid hfinished]
  case noTable =>
    intro s f id psn addr region key total data hbody hvalid
    refine (exec_writePacket hbody).trans (congrArg _ (if_pos ?_))
    change (!s.flag R.XFR_MSG_BASE_VALID) = true
    simp [hvalid]
  case far =>
    intro s f id psn addr region key total data hbody hvalid hopen hfar
    rw [exec_writePacket hbody, writePacket_far (s := s.takeFrame f) hvalid hopen hfar]
  case failed =>
    intro s f id psn addr region key total data i st hbody hvalid hopen hnear hfailed
    rw [exec_writePacket hbody, writePacket_failed (s := s.takeFrame f) hvalid hopen hnear hfailed]
  case again =>
    intro s f id psn addr region key total data r hbody hvalid hopen hnear hgood hr hpsn
    rw [exec_writePacket hbody, writePacket_again (s := s.takeFrame f) hvalid hopen hnear hgood hr hpsn]
  case placed =>
    intro s f id psn addr region key total data hbody hvalid hopen hnear hgood hrecs hspace hcheck
    rw [exec_writePacket hbody, writePacket_placed (s := s.takeFrame f) hvalid hopen hnear hgood hrecs hspace hcheck]
  case refused =>
    intro s f id psn addr region key total data st hbody hvalid hopen hnear hgood hrecs hcheck
    exact (exec_writePacket hbody).trans (congrArg _ (writePacket_refused (s := s.takeFrame f) hvalid hopen hnear hgood hrecs hcheck))
  case aborted => exact fun s src m => rfl
  case base =>
    intro s v haligned hmapped hreserved hpool hregions hrecs
    change Host.Outcome.next (s.msgBaseWrite v).1 = _
    simp only [State.msgBaseWrite, haligned, hmapped, hreserved, hpool, hregions, hrecs]
    rw [if_neg (by simp), if_neg (by simp)]
  case baseRefused =>
    intro s v hbad
    refine congrArg Host.Outcome.next ?_
    rw [State.msgBaseWrite]
    split
    · rfl
    · next hok =>
      have hrecs : s.xfr.recs ≠ [] := hbad.resolve_left (by simp only [not_or] at hok; exact hok.1)
      rw [if_pos (by simpa using hrecs)]

end Sys2Proof.Machine
end

section
/-! SUPPORT. READs (R288, R289): the answer of a responder and the pieces that reach the requester. -/

namespace Sys2Proof.Machine

variable {s t : State} {f : Frame} {h : OpHdr} {tag addr : Nat} {data : List Byte}

/-! ### At the responder (R263, R288) -/

theorem exec_readFrame (hbody : f.body = .read h) (hdue : s.due f = true) (hrun : (s.takeOrdered f).readFrame f h = t) :
    exec (.readFrame f) s = .next (t.flow f.src).serveInbox := by
  change execReadFrame f s = _
  simp only [execReadFrame, hbody, inTurn_due hdue, hrun]

theorem regionLooked_readsLost {src : Nat} {k : OpHdr} (m : Mem) (a n : Nat) :
    (s.regionLooked src k).readsLost m a n = s.readsLost m a n := by
  obtain ⟨regs, fresh, heq⟩ := regionLooked_eq (s := s) src k
  rw [heq]
  rfl

theorem readFrame_checked (hspace : gSpace h.addr < 2) (hcheck : s.targetCheck f.src f.dev h .read = none) : s.readFrame f h
    = (s.regionLooked f.src h).respond f (.readData (2 ^ 31 + h.tag) 0 h.addr (s.rdBytes (spaceMem (gSpace h.addr)) (gOff h.addr) h.len))
        ((s.poisoned (spaceMem (gSpace h.addr)) (gOff h.addr) h.len).isSome
          || s.readsLost (spaceMem (gSpace h.addr)) (gOff h.addr) h.len) := by
  have hsync : ¬ 1 < gSpace h.addr := by omega
  simp only [State.readFrame, hcheck, Option.orElse_none, hsync, if_false, regionLooked_rdBytes, regionLooked_poisoned,
    regionLooked_readsLost]

theorem readFrame_refused {st : St} (hcheck : s.targetCheck f.src f.dev h .read = some st) : s.readFrame f h
    = ((s.regionLooked f.src h).bump R.FAB_STATS_KEY_REFUSALS).respond f (.sprayNak st h.region h.addr (2 ^ 31 + h.tag)) false := by
  simp only [State.readFrame, hcheck, Option.orElse_some]
  rfl

/-! ### At the requester (R288, R289) -/

theorem startRead_elsewhere {r : XReq} (hnode : gNode r.wr.remote ≠ s.node) (hreach : s.isUnreachable (gNode r.wr.remote) = false)
    (htag : s.newTag = tag) : s.startRead r = (((s.addRemote ⟨tag, .read, gNode r.wr.remote, r.wr.remote, r.wr.region, r.wr.length,
        locAddr r.wr.locSpace r.wr.locOff, .queue r.q r.idx⟩).putFlight { r with
          prog := .read tag (pieces 4096 r.wr.remote r.wr.length) [] none, injected := true }).sendReads (s.queueComp r.q) (r.q < 64)
            (gNode r.wr.remote) tag r.wr (pieces 4096 r.wr.remote r.wr.length)) := by
  subst htag
  exact (if_neg hnode).trans (if_neg (by simp [hreach]))

theorem exec_readData {id psn : Nat} (hbody : f.body = .readData id psn addr data) :
    exec (.readData f) s = .next ((s.takeFrame f).readData f (id % 2 ^ 31) addr data) := by
  change execReadData f s = _
  simp only [execReadData, hbody]

section
variable {r : XReq} {left : List (Nat × Nat)} {landed : List Nat} {failed : Option St} {slot : Nat}
  (hflight : s.readFlight slot = some r) (hprog : r.prog = .read tag left landed failed)
include hflight hprog

theorem readData_awaited (hleft : (left.any (·.1 == addr)) = true) : s.readData f slot addr data
    = ((s.place (spaceMem r.wr.locSpace) (r.wr.locOff + (addr - r.wr.remote)) data f.poison).account f.src data.length).readEnd { r with
        prog := .read tag (left.filter (·.1 != addr)) (landed ++ [addr])
          (if f.poison = true ∧ r.q < 64 then some (failed.getD .poisonRead) else failed) } := by
  simp only [State.readData, hflight, hprog, hleft, if_true]

/-- A piece that has landed is a duplicate when it comes again. -/
theorem readData_landed (hleft : (left.any (·.1 == addr)) = false) (hlanded : landed.contains addr = true) :
    s.readData f slot addr data = s := by
  simp only [State.readData, hflight, hprog, hleft, Bool.false_eq_true, if_false, hlanded, if_true]

end

theorem readData_late {slot : Nat} (hflight : s.readFlight slot = none) : s.readData f slot addr data
    = if (s.xfr.quiet.any fun q => q.tag == slot && q.landed.contains addr) = true then s
      else (s.account f.src data.length).bump R.FAB_STATS_LATE_RESPONSES := by
  simp only [State.readData, hflight]
  rfl

/-- Settles O31: what the request still awaits decides what becomes of a piece, and the checks of its frame what is answered. -/
theorem reads : Obligations.Reads := by
  unfold Obligations.Reads
  refine ⟨?start, ?answer, ?refused, ?piece, ?again, ?late, ?duplicate, ?ended, ?quiet⟩
  case start =>
    intro s q tag x w hmay hx hw hop hcheck hnode hreach htag
    exact congrArg Host.Outcome.next ((startNext_runs hmay hx hw hop hcheck).trans
      (startRead_elsewhere (s := s.putXq x.past) (r := x.request q w) hnode hreach htag))
  case answer =>
    intro s f h hbody hdue hspace hcheck t
    exact exec_readFrame hbody hdue (readFrame_checked (s := s.takeOrdered f) hspace hcheck)
  case refused =>
    intro s f h st hbody hdue hcheck t
    exact exec_readFrame hbody hdue (readFrame_refused (s := s.takeOrdered f) hcheck)
  case piece =>
    intro s f id psn addr tag data r left landed failed hbody hflight hprog hleft
    rw [exec_readData hbody, readData_awaited (s := s.takeFrame f) hflight hprog hleft]
  case again =>
    intro s f id psn addr tag data r left landed failed hbody hflight hprog hleft hlanded
    rw [exec_readData hbody, readData_landed (s := s.takeFrame f) hflight hprog hleft hlanded]
  case late =>
    intro s f id psn addr data hbody hflight hnew
    rw [exec_readData hbody, readData_late (s := s.takeFrame f) hflight]
    exact congrArg _ (if_neg (by simpa using hnew))
  case duplicate =>
    intro s f id psn addr data hbody hflight hquiet
    rw [exec_readData hbody, readData_late (s := s.takeFrame f) hflight]
    exact congrArg _ (if_pos hquiet)
  case ended =>
    intro s r tag landed failed hprog
    simp only [State.readEnd, hprog]
  case quiet => exact fun s tag => rfl

end Sys2Proof.Machine
end

section
/-! SUPPORT. Boot stages (R355 to R357): the end of a stage, and a node that leaves the fabric. -/

namespace Sys2Proof.Machine

variable {s : State}

/-! ### Nothing goes out on a link while none is UP -/

section
variable {ls : List Link} (hls : ∀ l ∈ ls, l.state ≠ .up)

/-- The links of a state none of whose links is UP stay through an operation that puts a link's record back only to send on it. -/
def LinksStay (ls : List Link) (op : State → State) : Prop := ∀ s : State, s.fab.links = ls → (op s).fab.links = ls

include hls

theorem upLink_eq_none (hs : s.fab.links = ls) (port next : Nat) : s.upLink port next = none := by
  rw [State.upLink, Option.filter_eq_none_iff]
  intro l hl
  have hmem : l ∈ ls := hs ▸ List.mem_of_find?_eq_some hl
  simp [hls l hmem]

theorem maskLinks_eq_nil (hs : s.fab.links = ls) (mask next : Nat) : s.maskLinks mask next = [] := by
  simp [State.maskLinks, upLink_eq_none hls hs]

theorem linksStay_forwardAt (die : Nat) (f : Frame) : LinksStay ls (fun s => s.forwardAt die f) := by
  intro s hs
  have hbump : ∀ g : Fld, (s.bump g).fab.links = ls := fun g => (congrArg Fab.links (count_fab s g 1)).trans hs
  simp only [State.forwardAt, upLink_eq_none hls hs, maskLinks_eq_nil hls hs, leastQueued, List.isEmpty_nil, Bool.not_true,
    Bool.and_false, Bool.false_eq_true, if_false]
  split
  · exact hs
  split
  · exact hbump _
  split
  · split <;> exact hbump _
  · exact hbump _

theorem linksStay_sendNumbered (dst : Nat) (f : Frame) : LinksStay ls (fun s => s.sendNumbered dst f) := by
  intro s hs
  refine linksStay_forwardAt hls 0 _ _ ?_
  split <;> exact hs

theorem linksStay_sendOrderedNow (dst : Nat) (f : Frame) : LinksStay ls (fun s => s.sendOrderedNow dst f) := by
  intro s hs
  dsimp only [State.sendOrderedNow]
  split
  · exact hs
  · exact linksStay_sendNumbered hls dst f s hs

theorem linksStay_injectNow (f : Frame) : LinksStay ls (fun s => s.injectNow f) := by
  intro s hs
  dsimp only [State.injectNow]
  split
  · exact linksStay_sendOrderedNow hls _ _ s hs
  · split
    · exact hs
    · refine linksStay_forwardAt hls 0 _ _ ?_
      split <;> exact hs
  · exact linksStay_forwardAt hls 0 _ s hs

theorem linksStay_inject (comp : Option Nat) (f : Frame) : LinksStay ls (fun s => s.inject comp f) := by
  intro s hs
  dsimp only [State.inject]
  split
  · exact linksStay_injectNow hls _ s hs
  · split
    · exact hs
    · refine linksStay_injectNow hls _ _ ?_
      unfold State.shaperTake
      split <;> exact hs

theorem linksStay_injectAll (comp : Option Nat) (fs : List Frame) : LinksStay ls (fun s => s.injectAll comp fs) := by
  induction fs with
  | nil => exact fun _ hs => hs
  | cons f fs ih => exact fun s hs => ih _ (linksStay_inject hls comp f s hs)

theorem linksStay_sendMsg (dst : Nat) (m : Msg) : LinksStay ls (fun s => s.sendMsg dst m) := by
  intro s hs
  dsimp only [State.sendMsg, State.sendMsgFor]
  split
  · exact hs
  split
  · exact hs
  split
  · exact hs
  · exact linksStay_injectAll hls _ _ _ hs

theorem linksStay_sendMsgs (m : Msg) (ds : List Nat) : LinksStay ls (fun s => s.sendMsgs m ds) := by
  induction ds with
  | nil => exact fun _ hs => hs
  | cons d ds ih => exact fun s hs => ih _ (linksStay_sendMsg hls d m s hs)

theorem linksStay_post (e : Ev) (ctx : Nat) (a : Nat × Nat) : LinksStay ls (fun s => s.post e ctx a) := by
  intro s hs
  have hring : ((s.ringPost (s.evtWords e ctx a) false).postOverwritten).fab = s.fab :=
    (kept_postOverwritten (κ := onlyPart .fab) (kept_ringPost (Kept.refl s) (off_onlyPart (by decide)) _ _)
      (off_onlyPart (by decide))).same (onlyPart_self .fab)
  dsimp only [State.post]
  split
  · exact linksStay_sendMsgs hls _ _ _ ((congrArg Fab.links hring).trans hs)
  · exact (congrArg Fab.links hring).trans hs

theorem linksStay_reroute (die : Nat) (fs : List Frame) : LinksStay ls (fun s => s.reroute die fs) := by
  induction fs with
  | nil => exact fun _ hs => hs
  | cons f fs ih =>
    intro s hs
    refine ih _ ?_
    split
    · exact linksStay_forwardAt hls die f s hs
    · exact hs

end

/-! ### Leaving the fabric (R357) -/

theorem upsert_only {α : Type} (p : α → Bool) (x y : α) (hy : p y = true) : upsert p x [y] = [x] := if_pos hy

theorem linkDown_only {l : Link} (hlinks : s.fab.links = [l]) :
    (s.linkDown l).fab.links = [{ freshLink l.id .down with peer := l.peer }] := by
  have hdown : ∀ m ∈ [{ freshLink l.id .down with peer := l.peer }], m.state ≠ .up := by simp [freshLink]
  have hput : (s.putLink { freshLink l.id .down with peer := l.peer }).fab.links = [{ freshLink l.id .down with peer := l.peer }] := by
    simp only [State.putLink, onFab_fab, hlinks]
    exact upsert_only _ _ _ (by simp [freshLink])
  refine linksStay_reroute hdown _ _ _ ?_
  split
  · exact linksStay_post hdown _ _ _ _ hput
  · exact hput

theorem leaveFabric_only {l : Link} (hlinks : s.fab.links = [l]) (hup : l.state = .up) :
    s.leaveFabric.fab.links = [{ freshLink l.id .down with peer := l.peer }] := by
  have hleft : s.leaveFabric = (s.onFab fun f => { f with arrived := [], accepted := [] }).linkDown l := by
    simp [State.leaveFabric, hlinks, hup, State.linksDown, State.link?]
  rw [hleft]
  exact linkDown_only hlinks

/-! ### The end of a stage -/

/-- A stage of a boot or a reset ends without a finding or a bad image; RST_N is released with it (log entry 34). -/
theorem exec_bootStageDone (hnode : s.bld.node = .booting ∨ s.bld.node = .computeReset) (hstage : s.bld.stage ≠ 0)
    (hhold : s.bld.railHold = none) (st : St) : exec (.bootStageDone st [] []) s
      = .next (if st = .ok then (s.onBld fun b => { b with rstN := false }).stageDone
          else (s.onBld fun b => { b with rstN := false }).stageFailed st) := by
  change execBootStageDone st [] [] s = _
  simp [execBootStageDone, hnode, hstage, hhold, State.applyFindings, State.fallBacks]

/-- Settles O42: the stage that ends, and whether the node boots, decide the work and the next stage. That RST_N is released with the
first stage that ends is the model's choice (log entry 34). -/
theorem bootStages : Obligations.BootStages := by
  unfold Obligations.BootStages
  refine ⟨?none, ?plain, ?mgmt, ?clock, ?hbm, ?tiles, ?resync, ?ready, ?resetTiles, ?resetDone, ?failed, ?recovery, ?left, ?noLinks,
    ?isReady, ?scrubbed⟩
  case none =>
    intro s st fs bad hnone
    refine if_pos ?_
    obtain ⟨hboot, hreset⟩ | h | h := hnone <;> simp [*]
  case plain =>
    intro s hnode hhold hstage
    rw [exec_bootStageDone (.inl hnode) (by omega) hhold]
    obtain h | h | h := hstage <;> simp [State.stageDone, h]
  case mgmt =>
    intro s hnode hhold hstage
    rw [exec_bootStageDone (.inl hnode) (by omega) hhold]
    simp [State.stageDone, hstage]
  case clock =>
    intro s hnode hhold hstage
    rw [exec_bootStageDone (.inl hnode) (by omega) hhold]
    simp [State.stageDone, hstage]
  case hbm =>
    intro s hnode hhold hstage
    rw [exec_bootStageDone (.inl hnode) (by omega) hhold]
    simp only [State.stageDone, onBld_bld, hstage]
    rfl
  case tiles =>
    intro s hnode hhold hstage
    rw [exec_bootStageDone (.inl hnode) (by omega) hhold]
    simp [State.stageDone, hstage, hnode]
  case resync =>
    intro s hnode hhold hstage
    rw [exec_bootStageDone (.inl hnode) (by omega) hhold]
    simp [State.stageDone, hstage, hnode]
  case ready =>
    intro s hnode hhold hstage
    rw [exec_bootStageDone (.inl hnode) (by omega) hhold]
    simp [State.stageDone, hstage]
  case resetTiles =>
    intro s hnode hhold hstage
    rw [exec_bootStageDone (.inr hnode) (by omega) hhold]
    simp [State.stageDone, hstage, hnode]
  case resetDone =>
    intro s hnode hhold hstage
    rw [exec_bootStageDone (.inr hnode) (by omega) hhold]
    simp [State.stageDone, hstage, hnode]
  case failed =>
    intro s st hnode hhold hstage hst
    rw [exec_bootStageDone (.inl hnode) (by omega) hhold, if_neg hst]
    simp [State.stageFailed, hstage]
  case recovery =>
    intro s st hnode hhold hzero hone hfour hst
    rw [exec_bootStageDone (.inl hnode) hzero hhold, if_neg hst]
    simp [State.stageFailed, hone, hfour]
  case left =>
    intro s l hlinks hup m hm
    rw [leaveFabric_only hlinks hup, List.mem_singleton] at hm
    subst hm
    exact ⟨rfl, rfl⟩
  case noLinks =>
    intro s hlinks
    simp [State.leaveFabric, hlinks, State.linksDown]
  case isReady =>
    intro s
    simp [State.nodeReady, State.enterStage]
  case scrubbed => exact fun s => rfl

end Sys2Proof.Machine
end

section
/-! SUPPORT. Collectives (R292 to R297, R299): how a REDUCE starts and goes on, its packets, an op that fails, and group registers. -/

namespace Sys2Proof.Machine

variable {s : State} {g : Nat}

/-! ### A REDUCE request (R292, R296) -/

section
variable {r : XReq}

theorem startReduce_running {r' : XReq} (hflight : s.reduceFlight r.wr.group = some r') : s.startReduce r = s.completeReq r .badState :=
  if_pos (by simp [hflight])

section
variable (hidle : s.reduceFlight r.wr.group = none)
include hidle

theorem startReduce_owed {st : St} (hended : s.xfr.ended = [⟨r.wr.group, r.wr.collOp, true⟩])
    (hlast : s.reg (R.XFR_GROUP_STATUS_LAST_STATUS r.wr.group) ≠ 0)
    (hst : St.ofCode (s.reg (R.XFR_GROUP_STATUS_LAST_STATUS r.wr.group)) = some st) :
    s.startReduce r = (s.onXfr fun t => { t with ended := [⟨r.wr.group, r.wr.collOp, false⟩] }).completeReq r st := by
  have hpaid : (s.onXfr fun t => { t with ended := t.ended.map fun e => if e.group = r.wr.group then { e with owed := false } else e })
      = s.onXfr fun t => { t with ended := [⟨r.wr.group, r.wr.collOp, false⟩] } := by
    simp [State.onXfr, hended]
  have howed : (s.xfr.ended.contains ⟨r.wr.group, r.wr.collOp, true⟩
      && s.reg (R.XFR_GROUP_STATUS_LAST_STATUS r.wr.group) != 0) = true := by
    simp [hended, hlast]
  rw [State.startReduce, if_neg (by simp [hidle]), if_pos howed, hpaid, hst, Option.getD_some]

theorem startReduce_afresh (hunowed : s.xfr.ended.contains ⟨r.wr.group, r.wr.collOp, true⟩ = false) (hslots : s.xfr.slots = []) :
    s.startReduce r = (((s.setReg (R.XFR_GROUP_STATUS_CURRENT_OP r.wr.group) r.wr.collOp).putFlight { r with
        prog := .reduce ((r.wr.length + 3967) / 3968) 0 [] }).onXfr fun t => { t with
          ended := t.ended.filter fun e => !(e.group == r.wr.group && e.op == r.wr.collOp) }).pumpReduce r.wr.group
            (2 * ((r.wr.length + 3967) / 3968) + 2) := by
  rw [State.startReduce, if_neg (by simp [hidle]), if_neg (by rw [hunowed, Bool.false_and]; exact Bool.false_ne_true)]
  refine if_neg ?_
  change ¬ (s.xfr.slots.any _) = true
  simp [hslots]

end

section
variable {n next : Nat} {w : List Nat} (hflight : s.reduceFlight g = some r) (hprog : r.prog = .reduce n next w)
include hflight hprog

theorem pumpReduce_done (hdone : w.length = n) (k : Nat) : s.pumpReduce g (k + 1) = s.endOp g r.wr.collOp .ok := by
  simp only [State.pumpReduce, hflight, hprog, hdone, if_true]

section
variable (hmore : w.length ≠ n)
include hmore

theorem pumpReduce_submits {t : State} {m : ReduceMsg} {b : Bool} (hnext : next < n) (hroom : next < s.reg (R.XFR_GROUP_A_WINDOW g))
    (hchunk : s.ownChunk r next = (m, b, t)) (k : Nat) : s.pumpReduce g (k + 1)
      = ((t.putFlight { r with prog := .reduce n (next + 1) w, injected := next + 1 == n }).contribute m 65536 b).pumpReduce g k := by
  simp only [State.pumpReduce, hflight, hprog, hmore, if_false, hnext, hroom, true_or, and_self, if_true, hchunk]

/-- The chunk a window before the next has no result yet, so the next one waits. -/
theorem pumpReduce_full (hfull : s.reg (R.XFR_GROUP_A_WINDOW g) ≤ next)
    (hbefore : w.contains (next - s.reg (R.XFR_GROUP_A_WINDOW g)) = false) (k : Nat) : s.pumpReduce g k = s := by
  cases k with
  | zero => rfl
  | succ k =>
    have hwait : ¬ (next < n ∧ (next < s.reg (R.XFR_GROUP_A_WINDOW g)
        ∨ w.contains (next - s.reg (R.XFR_GROUP_A_WINDOW g)) = true)) := by
      simp only [hbefore, Nat.not_lt.2 hfull, Bool.false_eq_true, or_self, and_false, not_false_eq_true]
    simp only [State.pumpReduce, hflight, hprog, hmore, if_false, hwait]

end

end

end

/-! ### REDUCE packets (R293 to R296) -/

section
variable {f : Frame} {m : ReduceMsg}

theorem exec_reducePacket (hbody : f.body = .reduce m) :
    exec (.reducePacket f) s = .next (if m.down = true then s else (s.takeFrame f).reducePacket f m) := by
  change execReducePacket f s = _
  simp only [execReducePacket, hbody]

theorem exec_reduceDownPacket (hbody : f.body = .reduce m) :
    exec (.reduceDownPacket f) s = .next (if m.down = true then (s.takeFrame f).reducePacket f m else s) := by
  change execReduceDownPacket f s = _
  simp only [execReduceDownPacket, hbody]

theorem reduceAccepts_invalid (hinvalid : s.flag (R.XFR_GROUP_A_VALID m.group) = false) : s.reduceAccepts f m = false := by
  simp [State.reduceAccepts, hinvalid]

theorem reduceAccepts_stranger (hup : m.down = false) (hchild : (s.groupChildren m.group).contains f.src = false) :
    s.reduceAccepts f m = false := by
  simp only [State.reduceAccepts, hup, Bool.false_eq_true, if_false, hchild, Bool.and_false, Bool.false_and]

theorem reduceAccepts_notParent (hdown : m.down = true) (hparent : s.reg (R.XFR_GROUP_A_PARENT m.group) ≠ f.src) :
    s.reduceAccepts f m = false := by
  simp [State.reduceAccepts, hdown, hparent]

section
variable (hrun : s.transitOnly = false)
include hrun

theorem reducePacket_refused (haccepts : s.reduceAccepts f m = false) :
    s.reducePacket f m = (s.sprayNak f m.msgId 0 m.firstElem .accessDenied).account f.src m.data.length := by
  simp only [State.reducePacket, hrun, haccepts, Bool.false_eq_true, if_false, Bool.not_false, if_true, State.reduceRefused]

variable (haccepts : s.reduceAccepts f m = true)
include haccepts

theorem reducePacket_again (hseen : s.reduceSeen f m = true) :
    s.reducePacket f m = s.bump (R.XFR_GROUP_STATS_DUPLICATES m.group) := by
  simp only [State.reducePacket, hrun, haccepts, hseen, Bool.false_eq_true, if_false, Bool.not_true, if_true]

variable (hseen : s.reduceSeen f m = false)
include hseen

theorem reducePacket_mismatch {r : XReq} (hflight : (s.account f.src m.data.length).reduceFlight m.group = some r)
    (hop : r.wr.collOp = m.op) (hlength : r.wr.length ≠ m.total) :
    s.reducePacket f m = (s.account f.src m.data.length).failOp m.group m.op .collectiveMismatch := by
  have hmismatch : (s.account f.src m.data.length).reduceMismatch m = true := by
    simp [State.reduceMismatch, hflight, hop, hlength]
  simp only [State.reducePacket, hrun, haccepts, hseen, hmismatch, Bool.false_eq_true, if_false, Bool.not_true, if_true]

section
variable (hidle : (s.account f.src m.data.length).reduceFlight m.group = none)
include hidle

theorem reducePacket_contributes (hup : m.down = false)
    (hafter : ((s.account f.src m.data.length).contribute m f.src f.poison).reduceFlight m.group = none) :
    s.reducePacket f m = (s.account f.src m.data.length).contribute m f.src f.poison := by
  simp only [State.reducePacket, State.reduceMismatch, hrun, haccepts, hseen, hidle, hup, hafter, Option.any_none, Bool.false_eq_true,
    if_false, Bool.not_true]

theorem reducePacket_applies (hdown : m.down = true)
    (hafter : ((s.account f.src m.data.length).applyDown m f.poison).reduceFlight m.group = none) :
    s.reducePacket f m = (s.account f.src m.data.length).applyDown m f.poison := by
  simp only [State.reducePacket, State.reduceMismatch, hrun, haccepts, hseen, hidle, hdown, hafter, Option.any_none,
    Bool.false_eq_true, if_false, Bool.not_true, if_true]

end

end

end

/-! ### An op that fails (R296) -/

/-- With no request for the op here its slots alone are free, and the request still to come is owed the status. -/
theorem endOp_noRequest (hidle : s.reduceFlight g = none) (op : Nat) (st : St) :
    s.endOp g op st = (s.onXfr fun t => { t with
        slots := t.slots.filter fun x => !(x.group == g && x.op == op)
        ended := upsert (·.group == g) ⟨g, op, true⟩ t.ended }).setReg (R.XFR_GROUP_STATUS_LAST_STATUS g) st.code := by
  simp only [State.endOp, hidle, Option.all_none]
  split
  · next r hr => exact absurd (hr.symm.trans hidle) (Option.some_ne_none r)
  · rfl

theorem failOp_xfr (op : Nat) (st : St) : (s.failOp g op st).xfr = (s.endOp g op st).xfr :=
  (kept_post (κ := onlyPart .xfr) (Kept.refl _) (off_onlyPart (by decide)) _ _ _).same (p := .xfr) rfl

/-! ### Group registers (R299) -/

theorem regRowAt_isNone_of_mem {row : RegRow} {addr : Nat} (hrow : row ∈ regTable) (hindex : (row.index? addr).isSome = true) :
    (regRowAt addr).isNone = false := by
  rw [Option.isNone_eq_false_iff, regRowAt, List.find?_isSome]
  exact ⟨row, hrow, hindex⟩

section
variable (hg : g < 256)
include hg

theorem regRowAt_group : (regRowAt (0x30A000 + 64 * g)).isNone = false := by
  refine regRowAt_isNone_of_mem (row := ⟨"XFR_GROUP_A", 0x30a000, 256, 64, 1, 0, [⟨"VALID", 63, 1, .rw, 0⟩, ⟨"ROOT", 62, 1, .rw, 0⟩,
    ⟨"DIE", 60, 2, .rw, 0⟩, ⟨"ACC_FMT", 59, 1, .rw, 0⟩, ⟨"WIRE_FMT", 58, 1, .rw, 0⟩, ⟨"ROUND", 56, 2, .rw, 0⟩,
    ⟨"RES_FMT", 55, 1, .rw, 0⟩, ⟨"CHILD_COUNT", 50, 5, .rw, 0⟩, ⟨"WINDOW", 41, 9, .rw, 64⟩, ⟨"PARENT", 0, 16, .rw, 0⟩]⟩)
    (by decide +kernel) ?_
  simp [RegRow.index?, hg, Nat.mul_comm]

theorem regRowAt_groupChildren {k : Nat} (hk : k < 4) : (regRowAt (0x30A008 + 64 * g + 8 * k)).isNone = false := by
  refine regRowAt_isNone_of_mem (row := ⟨"XFR_GROUP_CHILD", 0x30a008, 256, 64, 4, 8, [⟨"CHILDREN", 0, 64, .rw, 0⟩]⟩)
    (by decide +kernel) ?_
  have hbase : ¬ 0x30A008 + 64 * g + 8 * k < 0x30A008 := by omega
  have hgroup : (0x30A008 + 64 * g + 8 * k - 0x30A008) / 64 = g := by omega
  have hchild : (0x30A008 + 64 * g + 8 * k - 0x30A008 - g * 64) / 8 = k := by omega
  have hsum : g * 64 + k * 8 = 0x30A008 + 64 * g + 8 * k - 0x30A008 := by omega
  simp [RegRow.index?, hbase, hgroup, hchild, hg, hk, hsum]

theorem groupWrite_config (v : Nat) : s.groupWrite (0x30A000 + 64 * g) v
    = if s.groupBusy g = true then (s, .tableBusy)
      else if bitsOf v 57 56 = 3 ∨ 16 < bitsOf v 54 50 ∨ bitsOf v 49 41 = 0 ∨ 256 < bitsOf v 49 41 ∨ s.dies ≤ bitsOf v 61 60
        ∨ (bitAt v 63 = true ∧ 2048 < s.dieWindow (bitsOf v 61 60) g + bitsOf v 49 41) then (s, .badParam)
      else (s.writeRw (0x30A000 + 64 * g) v, .ok) := by
  have hnum : (0x30A000 + 64 * g - 0x30A000) / 64 = g := by omega
  have hfirst : (0x30A000 + 64 * g) % 64 = 0 := by omega
  have hmapped : ¬ (0x30A000 + 64 * g < 0x30A000 ∨ 256 ≤ g ∨ (regRowAt (0x30A000 + 64 * g)).isNone = true) := by
    simp [regRowAt_group hg, hg]
  simp only [State.groupWrite, hnum, hfirst, hmapped, if_false, if_true]

theorem groupWrite_children {k : Nat} (hk : k < 4) (v : Nat) : s.groupWrite (0x30A008 + 64 * g + 8 * k) v
    = if s.groupBusy g = true then (s, .tableBusy) else (s.writeRw (0x30A008 + 64 * g + 8 * k) v, .ok) := by
  have hnum : (0x30A008 + 64 * g + 8 * k - 0x30A000) / 64 = g := by omega
  have hlater : (0x30A008 + 64 * g + 8 * k) % 64 ≠ 0 := by omega
  have hmapped : ¬ (0x30A008 + 64 * g + 8 * k < 0x30A000 ∨ 256 ≤ g ∨ (regRowAt (0x30A008 + 64 * g + 8 * k)).isNone = true) := by
    rw [regRowAt_groupChildren hg hk]
    simp only [Bool.false_eq_true, or_false]
    omega
  simp only [State.groupWrite, hnum, hlater, hmapped, if_false]

end

/-- Settles O32: the request in flight, the op that ended last and the window decide what a REDUCE does, and the group's configuration
which packets and writes it takes. -/
theorem collectives : Obligations.Collectives := by
  unfold Obligations.Collectives
  refine ⟨?afresh, ?owed, ?running, ?submits, ?full, ?done, ?chunk, ?refused, ?strangers, ?again, ?mismatch, ?contributes, ?applies,
    ?notUp, ?notDown, ?timeout, ?noSlot, ?failed, ?config, ?configRefused, ?children⟩
  case afresh =>
    intro s q x w hmay hx hw hop hcheck hidle hunowed hslots
    exact congrArg Host.Outcome.next ((startNext_runs hmay hx hw hop hcheck).trans
      (startReduce_afresh (s := s.putXq x.past) (r := x.request q w) hidle hunowed hslots))
  case owed =>
    intro s q x w st hmay hx hw hop hcheck hidle hended hlast hst
    exact congrArg Host.Outcome.next ((startNext_runs hmay hx hw hop hcheck).trans
      (startReduce_owed (s := s.putXq x.past) (r := x.request q w) hidle hended hlast hst))
  case running =>
    intro s q x w r hmay hx hw hop hcheck hflight
    exact congrArg Host.Outcome.next ((startNext_runs hmay hx hw hop hcheck).trans
      (startReduce_running (s := s.putXq x.past) (r := x.request q w) hflight))
  case submits =>
    intro s g n next r w t m b k hflight hprog hmore hnext hroom hchunk
    exact pumpReduce_submits hflight hprog hmore hnext hroom hchunk k
  case full =>
    intro s g n next r w k hflight hprog hmore _ hfull hbefore
    exact pumpReduce_full hflight hprog hmore hfull hbefore k
  case done =>
    intro s g n next r w k hflight hprog hdone
    exact pumpReduce_done hflight hprog hdone k
  case chunk =>
    intro s t r c m b hchunk
    rw [State.ownChunk, Prod.mk.injEq, Prod.mk.injEq] at hchunk
    obtain ⟨rfl, hpoison, -⟩ := hchunk
    exact ⟨rfl, rfl, rfl, rfl, Nat.mul_comm _ _, rfl, hpoison.symm⟩
  case refused =>
    intro s f m hbody hup hrun haccepts
    rw [exec_reducePacket hbody, if_neg (by simp [hup]), reducePacket_refused (s := s.takeFrame f) hrun haccepts]
  case strangers =>
    intro s f m hbad
    obtain hinvalid | ⟨hup, hchild⟩ | ⟨hdown, hparent⟩ := hbad
    · exact reduceAccepts_invalid hinvalid
    · exact reduceAccepts_stranger hup hchild
    · exact reduceAccepts_notParent hdown hparent
  case again =>
    intro s f m hbody hup hrun haccepts hseen
    rw [exec_reducePacket hbody, if_neg (by simp [hup]), reducePacket_again (s := s.takeFrame f) hrun haccepts hseen]
  case mismatch =>
    intro s f m r hbody hdown hrun haccepts hseen hflight hop hlength
    rw [exec_reduceDownPacket hbody, if_pos hdown,
      reducePacket_mismatch (s := s.takeFrame f) hrun haccepts hseen hflight hop hlength]
  case contributes =>
    intro s f m hbody hup hrun haccepts hseen hidle hafter
    rw [exec_reducePacket hbody, if_neg (by simp [hup]),
      reducePacket_contributes (s := s.takeFrame f) hrun haccepts hseen hidle hup hafter]
  case applies =>
    intro s f m hbody hdown hrun haccepts hseen hidle hafter
    rw [exec_reduceDownPacket hbody, if_pos hdown,
      reducePacket_applies (s := s.takeFrame f) hrun haccepts hseen hidle hdown hafter]
  case notUp =>
    intro s f m hbody hdown
    rw [exec_reducePacket hbody, if_pos hdown]
  case notDown =>
    intro s f m hbody hup
    rw [exec_reduceDownPacket hbody, if_neg (by simp [hup])]
  case timeout =>
    intro s g c x hx
    change execCollTimeoutExpiry g c s = _
    simp only [execCollTimeoutExpiry, hx]
  case noSlot =>
    intro s g c hnone
    change execCollTimeoutExpiry g c s = _
    simp only [execCollTimeoutExpiry, hnone]
  case failed =>
    intro s g op st hidle
    rw [failOp_xfr, endOp_noRequest hidle]
    refine ⟨?_, rfl⟩
    simp [List.filter_filter]
  case config =>
    intro s g v hg hslots hflights hround hfew hone hmax hdie hwindow
    have hfree : s.groupBusy g = false := by rw [State.groupBusy, hslots, hflights, Bool.or_self]
    refine congrArg Host.Outcome.next ?_
    rw [groupWrite_config hg, if_neg (by simp [hfree]), if_neg (by omega)]
  case configRefused =>
    intro s g v hg hbad
    refine congrArg Host.Outcome.next ?_
    rw [groupWrite_config hg]
    split
    · rfl
    · next hfree =>
      obtain ⟨hslots, hflights⟩ : (s.xfr.slots.any (·.group == g)) = false
          ∧ (s.xfr.flights.any fun r => r.wr.op == 0x10 && r.wr.group == g) = false := by
        simpa only [State.groupBusy, Bool.or_eq_true, not_or, Bool.not_eq_true] using hfree
      rw [hslots, hflights] at hbad
      exact congrArg Prod.fst (if_pos (by tauto))
  case children =>
    intro s g k v hg hk hslots hflights
    have hfree : s.groupBusy g = false := by rw [State.groupBusy, hslots, hflights, Bool.or_self]
    refine congrArg Host.Outcome.next ?_
    rw [groupWrite_children hg hk, if_neg (by simp [hfree])]

end Sys2Proof.Machine
end

section
/-! SUPPORT. Sleep and wake, and the debug port (R418, R421): the statement. -/

namespace Sys2Proof.Machine

variable {s : State}

/-- A tile gates when it is there, awake, and its four cores are gated. -/
theorem execTileIdleExpiry_gates {tile : Nat} (htile : tile < s.tiles) (hawake : tile ∉ s.pcr.gatedTiles)
    (hcores : ∀ k < 4, (s.core (4 * tile + k)).powerNow = .gated) :
    exec (.tileIdleExpiry tile) s = .next (s.onPcr fun p => { p with gatedTiles := p.gatedTiles ++ [tile] }) := by
  refine if_pos ⟨htile, by simp [hawake], ?_⟩
  exact List.all_eq_true.2 fun k hk => decide_eq_true (hcores k (by simp at hk; omega))

/-- A tile with a core that is not gated stays as it is. -/
theorem execTileIdleExpiry_stays {tile k : Nat} (hk : k < 4) (hcore : (s.core (4 * tile + k)).powerNow ≠ .gated) :
    exec (.tileIdleExpiry tile) s = .next s := by
  refine if_neg ?_
  rintro ⟨-, -, hall⟩
  have hmem : k ∈ [0, 1, 2, 3] := by
    simp only [List.mem_cons, List.not_mem_nil, or_false]
    omega
  exact hcore (of_decide_eq_true (List.all_eq_true.1 hall k hmem))

/-- Settles O53: what a core's power state, a channel or a debug scope is decides whether a command acts. That BYPASS shifts out 0 and
that a refused EXTEST leaves the port as it was are the model's choice (log entry 11, presumed). -/
theorem sleepAndDebug : Obligations.SleepAndDebug := by
  unfold Obligations.SleepAndDebug
  refine ⟨?idle, ?notIdle, ?keeps, ?gates, ?stays, ?wakes, ?powerdown, ?bypass, ?reads, ?drives, ?held, ?closed, ?scan, ?trace⟩
  case idle =>
    intro s n hidle
    exact congrArg Host.Outcome.next (if_pos hidle)
  case notIdle =>
    intro s n hidle
    exact congrArg Host.Outcome.next (if_neg hidle)
  case keeps =>
    intro s n
    refine ⟨_, rfl, ?_⟩
    split <;> exact ⟨rfl, rfl, rfl⟩
  case gates =>
    intro s tile htile hawake hcores
    exact execTileIdleExpiry_gates htile hawake hcores
  case stays =>
    intro s tile k hk hcore
    exact execTileIdleExpiry_stays hk hcore
  case wakes =>
    intro s n hwaking
    exact if_pos hwaking
  case powerdown =>
    intro s stack ch hstack hch hknown hup
    exact if_neg (by simp [hknown, hup, hstack, hch])
  case bypass =>
    intro s
    rfl
  case reads =>
    intro s
    exact ⟨rfl, rfl⟩
  case drives =>
    intro s v hheld
    exact congrArg Host.Outcome.next (if_pos hheld)
  case held =>
    intro s v hreleased
    exact congrArg Host.Outcome.next (if_neg (by simp [hreleased]))
  case closed =>
    intro s scan hclosed
    exact congrArg Host.Outcome.next (if_neg (by simp [hclosed]))
  case scan =>
    intro s hopen
    exact congrArg Host.Outcome.next (if_pos hopen)
  case trace =>
    intro s hopen
    exact congrArg Host.Outcome.next (if_pos hopen)

end Sys2Proof.Machine
end

section
/-! SUPPORT. Memory errors (R430, R431, R433): what counting and posting leave, and the statement. -/

namespace Sys2Proof.Machine

variable {s : State}

/-! ### Registers written from a word (R7) -/

/-- A RW field takes its bits of the word. -/
theorem reg_writeRw {addr : Nat} {r : RegRow} (hr : regRowAt addr = some r) {f : FldRow} (hf : f ∈ r.fields) (hacc : f.acc = .rw)
    (s : State) (v : Nat) : (s.writeRw addr v).reg (f.at addr) = f.of v := by
  rw [State.writeRw, hr]
  exact (reg_setFields hr hf _ (fun f => f.of v) s).trans ((if_pos (decide_eq_true hacc)).trans (Nat.mod_mod _ _))

theorem regRowAt_eccCfg : regRowAt 0x800018 = some ⟨"EVT_ECC_CFG", 0x800018, 1, 0, 1, 0,
    [⟨"SCRUB_HOURS", 48, 16, .rw, 24⟩, ⟨"CE_THRESHOLD", 0, 32, .rw, 1000⟩]⟩ := by decide +kernel

/-! ### Statistics leave the event unit and the clock -/

theorem bump_evt (s : State) (f : Fld) : (s.bump f).evt = s.evt :=
  (kept_bump (κ := onlyPart .evt) (Kept.refl s) (off_onlyPart (by decide)) f).same (onlyPart_self .evt)

theorem bump_tick (s : State) (f : Fld) : (s.bump f).tick = s.tick :=
  congrArg (· / 2 ^ 20) (kept_bump (κ := fun _ => false) (Kept.refl s) (fun _ _ => rfl) f).2.2.1

/-! ### Corrected errors (R430) -/

/-- A key found in a list kept by key is found again where it was put. -/
theorem find?_upsert {α : Type} (p : α → Bool) {x : α} (hx : p x = true) (l : List α) : (upsert p x l).find? p = some x := by
  induction l with
  | nil => simp [upsert, hx]
  | cons y l ih =>
    rw [upsert]
    split
    · simp [hx]
    · next hy => simp [hy, ih]

/-- A correction is counted for its channel's window alone where its channel's posting of this tick has been. -/
theorem corrected_again {e : MemErr} {n : Nat} (hposted : s.evt.corrected.find? (·.1 == channelKey e.unit e.sub)
      = some (channelKey e.unit e.sub, n, s.tick + 1)) :
    s.corrected e = ((s.bump R.EVT_ECC_STATS_CORRECTED).onEvt fun v => { v with
      window := upsert (·.1 == channelKey e.unit e.sub) (channelKey e.unit e.sub,
        ((v.window.find? (·.1 == channelKey e.unit e.sub)).map (·.2)).getD 0 + 1) v.window }).onEvt fun v => { v with
      corrected := upsert (·.1 == channelKey e.unit e.sub) (channelKey e.unit e.sub, n + 1, s.tick + 1) v.corrected } := by
  simp only [State.corrected, bump_evt, hposted, Option.map_some, Option.getD_some, onEvt_tick, bump_tick, if_true]

/-- Of the memories and the request and page engines, a corrected error changes nothing. -/
theorem corrected_keeps (s : State) (e : MemErr) : (s.corrected e).hbm = s.hbm ∧ (s.corrected e).hbmPoison = s.hbmPoison
    ∧ (s.corrected e).rse = s.rse ∧ (s.corrected e).pge = s.pge := by
  have hkept (p : Part) (hp : p ∉ [Part.regs, .fab, .hcp, .evt, .out]) : p.same s (s.corrected e) :=
    (kept_corrected (κ := onlyPart p) (Kept.refl s) (off_onlyPart hp) e).same (onlyPart_self p)
  have hmem := hkept .mem (by decide)
  simp only [Part.same, Prod.mk.injEq] at hmem
  obtain ⟨hhbm, -, -, -, hpoison, -, -⟩ := hmem
  exact ⟨hhbm, hpoison, hkept .rse (by decide), hkept .pge (by decide)⟩

/-! ### Uncorrected errors (Table 16.5) -/

/-- The state after an error is counted and posted. -/
def State.noted (s : State) (e : MemErr) : State :=
  (s.bump R.EVT_ECC_STATS_UNCORRECTED).post .memUncorrected 0xFFF (formM 0 e.unit e.sub e.offset 0)

theorem noted_small (e : MemErr) : (s.noted e).small = s.small :=
  (kept_post (κ := fun _ => false) (kept_bump (Kept.refl s) (fun _ _ => rfl) _) (fun _ _ => rfl) _ _ _).2.1

theorem noted_pge (e : MemErr) : (s.noted e).pge = s.pge :=
  (kept_post (κ := onlyPart .pge) (kept_bump (Kept.refl s) (off_onlyPart (by decide)) _) (off_onlyPart (by decide)) _ _ _).same
    (onlyPart_self .pge)

/-- Counting and posting write the event unit's registers alone. -/
theorem noted_reg (e : MemErr) {g : Fld} (hreg : g.reg < 0x800000) (hlo : g.lo < 64) : (s.noted e).reg g = s.reg g :=
  (reg_post hreg hlo (by decide) _ _).trans (reg_bump_ne s (key_ne_of_lt_event hreg hlo (by decide)))

theorem noted_hbmBytes (e : MemErr) : (s.noted e).hbmBytes = s.hbmBytes := by simp only [State.hbmBytes, noted_small]

theorem noted_pageMapBase (e : MemErr) : (s.noted e).pageMapBase = s.pageMapBase := congrArg (· - 2 ^ 30) (noted_hbmBytes e)

theorem noted_directoryBase (e : MemErr) : (s.noted e).directoryBase = s.directoryBase :=
  congrArg (· - 2 ^ 28) (noted_pageMapBase e)

theorem noted_mirrorBase (e : MemErr) : (s.noted e).mirrorBase = s.mirrorBase := congrArg (· - 2 ^ 28) (noted_directoryBase e)

theorem noted_headerBase (e : MemErr) : (s.noted e).headerBase = s.headerBase := congrArg (· - 2 ^ 32) (noted_mirrorBase e)

/-- An error in HBM the device keeps nothing in marks its byte, where no page is held. -/
theorem uncorrected_plain {e : MemErr} (hheader : e.offset < s.headerBase) (hregions : s.touchesRegions e.offset 1 = false)
    (hmessages : s.touchesMessages e.offset 1 = false) (hpages : s.pge.pages = []) :
    s.uncorrected e = (s.noted e).markPoison .hbm e.offset 1 .poisonRead := by
  have hnoted : (s.bump R.EVT_ECC_STATS_UNCORRECTED).post .memUncorrected 0xFFF (formM 0 e.unit e.sub e.offset 0) = s.noted e := rfl
  have hmirror : e.offset < s.mirrorBase := hheader.trans_le (Nat.sub_le _ _)
  have hdirectory : e.offset < s.directoryBase := hmirror.trans_le (Nat.sub_le _ _)
  have hmap : e.offset < s.pageMapBase := hdirectory.trans_le (Nat.sub_le _ _)
  have hregions' : (s.noted e).touchesRegions e.offset 1 = false := by
    rw [State.touchesRegions, noted_reg e (g := R.FAB_REGION_BASE_BASE) (by decide) (by decide)]
    exact hregions
  have hmessages' : (s.noted e).touchesMessages e.offset 1 = false := by
    rw [State.touchesMessages, State.flag, noted_reg e (g := R.XFR_MSG_BASE_VALID) (by decide) (by decide),
      noted_reg e (g := R.XFR_MSG_BASE_BASE) (by decide) (by decide)]
    exact hmessages
  have hpages' : ((s.noted e).markPoison .hbm e.offset 1 .poisonRead).pge.pages = [] := by
    simp only [State.markPoison, State.setPoisons, noted_pge, hpages]
  simp only [State.uncorrected, hnoted, noted_pageMapBase, noted_directoryBase, noted_mirrorBase, noted_headerBase, hmap.not_ge,
    hdirectory.not_ge, hmirror.not_ge, hheader.not_ge, hregions', hmessages', hpages', if_false, Bool.false_eq_true,
    List.find?_nil]

/-! ### The statement -/

/-- Settles O54: an error's kind and place decide what is done for it, and the count of a window what its end posts. -/
theorem memoryErrors : Obligations.MemoryErrors := by
  unfold Obligations.MemoryErrors
  refine ⟨?noPass, ?pass, ?correctable, ?uncorrectable, ?keeps, ?again, ?plain, ?degraded, ?within, ?cfgRefused, ?cfg⟩
  case noPass =>
    intro s stack ch es hno
    refine if_pos ?_
    obtain h | h | h | h := hno <;> simp [h]
  case pass =>
    intro s stack ch es hon hstack hch hknown
    exact if_neg (by simp [hon, hknown, hstack, hch])
  case correctable =>
    intro s e es he
    rw [State.memErrors, if_pos he]
  case uncorrectable =>
    intro s e es he
    rw [State.memErrors, if_neg (by simp [he])]
  case keeps =>
    intro s e
    exact corrected_keeps s e
  case again =>
    intro s e n _ hposted
    rw [corrected_again hposted]
    exact ⟨find?_upsert _ (by simp) _, reg_bump_ne s (by decide)⟩
  case plain =>
    intro s e _ _ hheader _ _ hregions hmessages hpages
    exact uncorrected_plain hheader hregions hmessages hpages
  case degraded =>
    intro s stack ch n lim hn hlim hover
    change execCeWindowExpiry stack ch s = _
    simp only [execCeWindowExpiry, hn, hlim, Option.map_some, Option.getD_some, hover, if_true]
  case within =>
    intro s stack ch n hn hlim hwithin
    change execCeWindowExpiry stack ch s = _
    simp only [execCeWindowExpiry, hn, hlim, Option.map_some, Option.map_none, Option.getD_some, Option.getD_none,
      Nat.not_lt.2 hwithin, if_false]
  case cfgRefused =>
    intro s v hbad
    have hwrite : s.eccCfgWrite v = (s, .badParam) := if_pos hbad
    exact ⟨congrArg (fun r : State × St => Host.Outcome.next r.1) hwrite, hwrite⟩
  case cfg =>
    intro s v hlow hhigh _
    refine ⟨_, congrArg Host.Outcome.next (congrArg Prod.fst (if_neg (by omega))), ?_, ?_⟩
    · exact reg_writeRw regRowAt_eccCfg (f := ⟨"SCRUB_HOURS", 48, 16, .rw, 24⟩) (by simp) rfl _ v
    · exact reg_writeRw regRowAt_eccCfg (f := ⟨"CE_THRESHOLD", 0, 32, .rw, 1000⟩) (by simp) rfl _ v

end Sys2Proof.Machine
end

section
/-! SUPPORT. The throttle and the power limit (R414, R415, R423): what a demand changes, and the range of PCR_POWER_LIMIT. -/

namespace Sys2Proof.Machine

variable {s : State}

/-! ### The throttle in force (R414) -/

theorem force_le (t : Throttle) : t.force ≤ t.input ∧ t.force ≤ t.rail ∧ t.force ≤ t.thermal ∧ t.force ≤ t.power := by
  unfold Throttle.force
  omega

theorem force_mem (t : Throttle) : t.force = t.input ∨ t.force = t.rail ∨ t.force = t.thermal ∨ t.force = t.power := by
  unfold Throttle.force
  omega

/-- The throttle register set to what the demands ask for, where it is not that already. -/
def State.throttled (s : State) : State :=
  if s.reg R.PCR_STATUS_THROTTLE = s.pcr.throttle.force then s else s.setThrottle s.pcr.throttle.force

/-- A higher level waits for the next tile-op boundary. -/
theorem combine_raises (hraise : s.reg R.PCR_STATUS_THROTTLE < s.pcr.throttle.force) (hop : s.anyTileOp = true) :
    s.combine = s.onPcr fun p => { p with raiseTo := some s.pcr.throttle.force } :=
  if_pos ⟨hraise, hop⟩

/-- Any other level is in force at once. -/
theorem combine_now (hnow : s.pcr.throttle.force ≤ s.reg R.PCR_STATUS_THROTTLE ∨ s.anyTileOp = false) :
    s.combine = s.throttled.onPcr fun p => { p with raiseTo := none } := by
  refine if_neg ?_
  rintro ⟨hraise, hop⟩
  obtain h | h := hnow
  · exact hraise.not_ge h
  · simp [h] at hop

theorem reg_setThrottle_self (p : Nat) : (s.setThrottle p).reg R.PCR_STATUS_THROTTLE = p % 2 ^ 8 := reg_setReg_self _ _ _

theorem reg_throttled (hforce : s.pcr.throttle.force < 256) : s.throttled.reg R.PCR_STATUS_THROTTLE = s.pcr.throttle.force := by
  unfold State.throttled
  split
  · assumption
  · exact (reg_setThrottle_self _).trans (Nat.mod_eq_of_lt hforce)

/-- A field of no throttle register. -/
def Fld.unthrottled (g : Fld) : Prop := g.key ≠ R.PCR_STATUS_THROTTLE.key ∧ g.key ≠ R.PCR_THROTTLE_TIME_US.key

theorem reg_setThrottle {g : Fld} (hg : g.unthrottled) (p : Nat) : (s.setThrottle p).reg g = s.reg g := by
  obtain ⟨hlevel, htime⟩ := hg
  unfold State.setThrottle
  refine (reg_setReg_ne hlevel _ _).trans ?_
  split
  · exact reg_count_ne s htime _
  · rfl

theorem reg_combine {g : Fld} (hg : g.unthrottled) : s.combine.reg g = s.reg g := by
  dsimp only [State.combine]
  split
  · rfl
  · rw [onPcr_reg]
    split
    · rfl
    · exact reg_setThrottle hg _

theorem count_pcr (s : State) (f : Fld) (n : Nat) : (s.count f n).pcr = s.pcr := by unfold State.count; split <;> rfl

/-- The throttle register's own change notes its time alone. -/
theorem setThrottle_pcr (p : Nat) : (s.setThrottle p).pcr = { s.pcr with throttleAt := s.aon } := by
  unfold State.setThrottle
  split
  · rw [setReg_pcr, onPcr_pcr, count_pcr, (kept_count (κ := fun _ => false) (Kept.refl s) (fun _ _ => rfl) _ _).2.2.1]
  · rfl

/-- Of the power die a change of demand combined changes only when the level was set and what is still to be raised. -/
theorem combine_pcr (s : State) : ∃ at_ r, s.combine.pcr = { s.pcr with throttleAt := at_, raiseTo := r } := by
  dsimp only [State.combine]
  split
  · exact ⟨_, _, rfl⟩
  · rw [onPcr_pcr]
    split
    · exact ⟨_, _, rfl⟩
    · rw [setThrottle_pcr]
      exact ⟨_, _, rfl⟩

theorem combine_throttle (s : State) : s.combine.pcr.throttle = s.pcr.throttle := by
  obtain ⟨at_, r, h⟩ := combine_pcr s
  rw [h]

theorem demand_throttle (f : Throttle → Throttle) : (s.demand f).pcr.throttle = f s.pcr.throttle := combine_throttle _

theorem reg_demand {g : Fld} (hg : g.unthrottled) (f : Throttle → Throttle) : (s.demand f).reg g = s.reg g := reg_combine hg

/-! ### The power limit (R415, R423) -/

theorem setPower_power (p : Nat) : (s.setPower p).pcr.throttle.power = p := congrArg Throttle.power (demand_throttle _)

theorem reg_setPower {g : Fld} (hg : g.unthrottled) (hlimiting : g.key ≠ R.PCR_STATUS_LIMITING.key) (p : Nat) :
    (s.setPower p).reg g = s.reg g :=
  (reg_demand hg _).trans (reg_setReg_ne hlimiting s _)

section
variable {w : Nat} (hon : s.bld.off = false) (henable : s.flag R.PCR_POWER_LIMIT_ENABLE = true)
include hon henable

theorem powerWindow_over (hover : s.reg R.PCR_POWER_LIMIT_LIMIT_W < w) {t u : State}
    (ht : s.setPower (powerStep false s.pcr.throttle.power) = t)
    (hu : (if 25 < s.pcr.throttle.power then t.bump R.PCR_STATS_LIMIT_WINDOWS else t) = u) :
    exec (.powerWindowExpiry w) s
      = .next (if s.pcr.throttle.power = 100 then u.post .powerLimiting 0xFFF (formO .ok s.node 0 0) else u) := by
  change execPowerWindowExpiry w s = _
  simp only [execPowerWindowExpiry, hon, henable, hover, ht, hu, Bool.not_true, Bool.or_self, Bool.false_eq_true, if_false, if_true]

theorem powerWindow_below (hbelow : 100 * w < 95 * s.reg R.PCR_POWER_LIMIT_LIMIT_W) :
    exec (.powerWindowExpiry w) s = .next (s.setPower (powerStep true s.pcr.throttle.power)) := by
  have hunder : ¬ s.reg R.PCR_POWER_LIMIT_LIMIT_W < w := by omega
  change execPowerWindowExpiry w s = _
  simp only [execPowerWindowExpiry, hon, henable, hunder, hbelow, Bool.not_true, Bool.or_self, Bool.false_eq_true, if_false, if_true]

theorem powerWindow_within (hlow : 95 * s.reg R.PCR_POWER_LIMIT_LIMIT_W ≤ 100 * w) (hhigh : w ≤ s.reg R.PCR_POWER_LIMIT_LIMIT_W) :
    exec (.powerWindowExpiry w) s = .next s := by
  change execPowerWindowExpiry w s = _
  simp only [execPowerWindowExpiry, hon, henable, Nat.not_lt.2 hlow, Nat.not_lt.2 hhigh, Bool.not_true, Bool.or_self,
    Bool.false_eq_true, if_false]

end

/-- A word's WINDOW_MS and LIMIT_W are in the range of the variant (R423). -/
def State.limitOk (s : State) (v : Nat) : Prop :=
  1 ≤ bitsOf v 47 32 ∧ bitsOf v 47 32 ≤ 1000 ∧ (if s.small then 540 else 1020) ≤ bitsOf v 15 0
    ∧ bitsOf v 15 0 ≤ (if s.small then 1800 else 3400)

/-- The registers of a power limit written, with the demand withdrawn where the limit is off. -/
def State.limitWritten (s : State) (v : Nat) : State :=
  if (s.writeRw 0x700018 v).flag R.PCR_POWER_LIMIT_ENABLE then s.writeRw 0x700018 v else (s.writeRw 0x700018 v).setPower 100

theorem powerLimitWrite_ok {v : Nat} (h : s.limitOk v) : s.powerLimitWrite v = (s.limitWritten v, .ok) := by
  obtain ⟨hwindow, hwindow', hlimit, hlimit'⟩ := h
  unfold State.powerLimitWrite
  cases hsmall : s.small <;> simp only [hsmall, Bool.false_eq_true, if_false, if_true] at hlimit hlimit' ⊢
  all_goals
    refine if_neg ?_
    change ¬ (bitsOf v 47 32 < 1 ∨ 1000 < bitsOf v 47 32 ∨ bitsOf v 15 0 < _ ∨ _ < bitsOf v 15 0)
    omega

theorem powerLimitWrite_bad {v : Nat} (h : ¬ s.limitOk v) : s.powerLimitWrite v = (s, .badParam) := by
  unfold State.limitOk at h
  unfold State.powerLimitWrite
  cases hsmall : s.small <;> simp only [hsmall, Bool.false_eq_true, if_false, if_true] at h ⊢
  all_goals
    refine if_pos ?_
    change bitsOf v 47 32 < 1 ∨ 1000 < bitsOf v 47 32 ∨ bitsOf v 15 0 < _ ∨ _ < bitsOf v 15 0
    omega

theorem regRowAt_powerLimit : regRowAt 0x700018 = some ⟨"PCR_POWER_LIMIT", 0x700018, 1, 0, 1, 0,
    [⟨"ENABLE", 63, 1, .rw, 0⟩, ⟨"WINDOW_MS", 32, 16, .rw, 10⟩, ⟨"LIMIT_W", 0, 16, .rw, 3400⟩]⟩ := by decide +kernel

theorem regRowAt_gateCfg : regRowAt 0x700020 = some ⟨"PCR_GATE_CFG", 0x700020, 1, 0, 1, 0,
    [⟨"TILE_IDLE_US", 32, 32, .rw, 200⟩, ⟨"CORE_IDLE_US", 0, 32, .rw, 50⟩]⟩ := by decide +kernel

/-- The three fields of a power limit written. -/
theorem reg_limitWritten (v : Nat) : (s.limitWritten v).reg R.PCR_POWER_LIMIT_WINDOW_MS = bitsOf v 47 32
    ∧ (s.limitWritten v).reg R.PCR_POWER_LIMIT_LIMIT_W = bitsOf v 15 0
    ∧ (s.limitWritten v).reg R.PCR_POWER_LIMIT_ENABLE = bitsOf v 63 63 := by
  have hkept {g : Fld} (hg : g.unthrottled) (hlimiting : g.key ≠ R.PCR_STATUS_LIMITING.key) :
      (s.limitWritten v).reg g = (s.writeRw 0x700018 v).reg g := by
    unfold State.limitWritten
    split
    · rfl
    · exact reg_setPower hg hlimiting 100
  refine ⟨(hkept ⟨by decide, by decide⟩ (by decide)).trans ?_, (hkept ⟨by decide, by decide⟩ (by decide)).trans ?_,
    (hkept ⟨by decide, by decide⟩ (by decide)).trans ?_⟩
  · exact reg_writeRw regRowAt_powerLimit (f := ⟨"WINDOW_MS", 32, 16, .rw, 10⟩) (by simp) rfl s v
  · exact reg_writeRw regRowAt_powerLimit (f := ⟨"LIMIT_W", 0, 16, .rw, 3400⟩) (by simp) rfl s v
  · exact reg_writeRw regRowAt_powerLimit (f := ⟨"ENABLE", 63, 1, .rw, 0⟩) (by simp) rfl s v

/-- A limit switched off withdraws its demand. -/
theorem limitWritten_power (v : Nat) : (s.limitWritten v).pcr.throttle.power
    = if bitsOf v 63 63 = 0 then 100 else s.pcr.throttle.power := by
  have henable : (s.writeRw 0x700018 v).reg R.PCR_POWER_LIMIT_ENABLE = bitsOf v 63 63 :=
    reg_writeRw regRowAt_powerLimit (f := ⟨"ENABLE", 63, 1, .rw, 0⟩) (by simp) rfl s v
  have hpcr : (s.writeRw 0x700018 v).pcr = s.pcr :=
    (kept_writeRw (κ := onlyPart .pcr) (Kept.refl s) (off_onlyPart (by decide)) _ _).same (onlyPart_self .pcr)
  obtain hbit | hbit : bitsOf v 63 63 = 0 ∨ bitsOf v 63 63 = 1 := Nat.mod_two_eq_zero_or_one _
  · simp only [State.limitWritten, State.flag, henable, hbit, Nat.reduceBEq, Bool.false_eq_true, if_false, if_true, setPower_power]
  · simp only [State.limitWritten, State.flag, henable, hbit, BEq.rfl, if_true, hpcr, Nat.one_ne_zero, if_false]

/-! ### The 156.25 MHz reference (R417) -/

/-- The ports go DOWN without their clock. -/
def State.clockless (s : State) : State :=
  (s.onPcr fun p => { p with ref156 := false }).linksDown
    (s.fab.links.filter fun l => decide (l.state ≠ .disabled ∧ l.state ≠ .down))

theorem exec_refclk156Loss (hclock : s.pcr.ref156 = true) : exec .refclk156Loss s
    = .next (s.clockless.hostDown.post .clockFault 0xFFF (formO .ok s.clockless.node 0 0)) := by
  change execRefclk156Loss s = _
  simp only [execRefclk156Loss, hclock, Bool.not_true, Bool.false_eq_true, if_false]
  rfl

theorem hostUp_post {e : Ev} (he : e.cls ≠ 2) (ctx : Nat) (a : Nat × Nat) : (s.post e ctx a).hostUp = s.hostUp := by
  unfold State.hostUp
  rw [reg_post (by decide) (by decide) he]

/-- A host port taken down is not UP. -/
theorem hostDown_hostUp (s : State) : s.hostDown.hostUp = false := by
  unfold State.hostDown
  split
  · rw [hostUp_post (by decide)]
    have hstate : (s.setRegs [(R.HCP_PORT_STATUS_STATE, 0), (R.HCP_PORT_STATUS_LANES_UP, 0)]).reg R.HCP_PORT_STATUS_STATE = 0 :=
      reg_setRegs_of_mem (v := 0) (by simp) (by decide) s
    rw [State.hostUp, hstate]
    rfl
  · next h => exact Bool.eq_false_iff.2 h

/-- The loss of the clock leaves every part but the fabric, the registers and what is sent. -/
theorem refclk156Loss_keeps {p : Part} (hp : p ∉ [Part.regs, .fab, .hcp, .evt, .out]) (e : Ev) (ctx : Nat) (a : Nat × Nat) :
    p.same (s.onPcr fun p => { p with ref156 := false }) (s.clockless.hostDown.post e ctx a) := by
  have hoff : Off (onlyPart p) [.regs, .fab, .hcp, .evt, .out] := off_onlyPart hp
  exact (kept_post (kept_hostDown (kept_linksDown (Kept.refl _) (hoff.sub (by decide)) _) (hoff.sub (by decide))) hoff e ctx a).same
    (onlyPart_self p)

/-- The only link is DOWN without its clock, and what is posted leaves it so. -/
theorem clockless_only {l : Link} (hlinks : s.fab.links = [l]) (henabled : l.state ≠ .disabled) :
    ∃ m : Link, m.id = l.id ∧ m.state = .down ∧ s.clockless.fab.links = [m] := by
  by_cases hdown : l.state = .down
  · refine ⟨l, rfl, hdown, ?_⟩
    simp [State.clockless, hlinks, hdown, State.linksDown]
  · refine ⟨{ freshLink l.id .down with peer := l.peer }, rfl, rfl, ?_⟩
    have hlost : s.clockless = (s.onPcr fun p => { p with ref156 := false }).linkDown l := by
      simp [State.clockless, hlinks, henabled, hdown, State.linksDown, State.link?]
    rw [hlost]
    exact linkDown_only hlinks

theorem linksStay_hostDown {ls : List Link} (hls : ∀ l ∈ ls, l.state ≠ .up) : LinksStay ls State.hostDown := by
  intro s hs
  unfold State.hostDown
  split
  · exact linksStay_post hls _ _ _ _ hs
  · exact hs

theorem onPcr_linkPort (f : Pcr → Pcr) (i : LinkId) : (s.onPcr f).linkPort i = s.linkPort i := by cases i <;> rfl

/-! ### The statement -/

/-- Settles O52: the lowest demand is the throttle, an averaging window's power moves the limit's demand, and a reference lost or back
decides what becomes of the ports. -/
theorem throttleAndClocks : Obligations.ThrottleAndClocks := by
  unfold Obligations.ThrottleAndClocks
  refine ⟨?lowest, ?now, ?raises, ?unlimited, ?first, ?further, ?least, ?below, ?within, ?limitRefused, ?limit, ?gate, ?clock25,
    ?noLinks, ?clock156, ?oneLink, ?restored⟩
  case lowest =>
    intro t
    obtain ⟨hinput, hrail, hthermal, hpower⟩ := force_le t
    exact ⟨hinput, hrail, hthermal, hpower, force_mem t⟩
  case now =>
    intro s _ hnow hforce
    rw [combine_now hnow]
    exact ⟨reg_throttled hforce, rfl⟩
  case raises =>
    intro s hraise hop
    exact combine_raises hraise hop
  case unlimited =>
    intro s w hoff
    refine if_pos ?_
    obtain h | h := hoff <;> simp [h]
  case first =>
    intro s w hon henable hover hpower
    rw [powerWindow_over hon henable hover rfl rfl, hpower]
    simp [powerStep]
  case further =>
    intro s w p hon henable hover hpower hp
    rw [powerWindow_over hon henable hover rfl rfl, hpower]
    obtain rfl | rfl := hp <;> simp [powerStep]
  case least =>
    intro s w hon henable hover hpower
    rw [powerWindow_over hon henable hover rfl rfl, hpower]
    simp [powerStep]
  case below =>
    intro s w p hon henable hbelow hpower hp
    rw [powerWindow_below hon henable hbelow, hpower]
    obtain rfl | rfl | rfl := hp <;> simp [powerStep]
  case within =>
    intro s w hon henable hlow hhigh
    exact powerWindow_within hon henable hlow hhigh
  case limitRefused =>
    intro s v hbad
    have hrange : ¬ s.limitOk v := by
      rintro ⟨hwindow, hwindow', hlimit, hlimit'⟩
      omega
    have hwrite := powerLimitWrite_bad hrange
    exact ⟨hwrite, congrArg (fun r : State × St => Host.Outcome.next r.1) hwrite⟩
  case limit =>
    intro s v hwindow hwindow' hlimit hlimit' _
    obtain ⟨hms, hw, henable⟩ := reg_limitWritten (s := s) v
    exact ⟨_, congrArg (fun r : State × St => Host.Outcome.next r.1) (powerLimitWrite_ok ⟨hwindow, hwindow', hlimit, hlimit'⟩),
      hms, hw, henable, limitWritten_power v⟩
  case gate =>
    intro s v _
    refine ⟨_, rfl, ?_, ?_⟩
    · exact reg_writeRw regRowAt_gateCfg (f := ⟨"TILE_IDLE_US", 32, 32, .rw, 200⟩) (by simp) rfl s v
    · exact reg_writeRw regRowAt_gateCfg (f := ⟨"CORE_IDLE_US", 0, 32, .rw, 50⟩) (by simp) rfl s v
  case clock25 =>
    intro s hon
    exact congrArg Host.Outcome.next (if_neg (by simp [hon]))
  case noLinks =>
    intro s hclock hlinks
    have hnone : s.clockless = s.onPcr fun p => { p with ref156 := false } := by
      rw [State.clockless, hlinks]
      rfl
    rw [exec_refclk156Loss hclock, hnone]
    rfl
  case clock156 =>
    intro s hclock _
    have hmem := refclk156Loss_keeps (s := s) (p := .mem) (by decide) .clockFault 0xFFF (formO .ok s.clockless.node 0 0)
    have hpcr := refclk156Loss_keeps (s := s) (p := .pcr) (by decide) .clockFault 0xFFF (formO .ok s.clockless.node 0 0)
    refine ⟨_, exec_refclk156Loss hclock, congrArg Pcr.ref156 hpcr, ?_, congrArg Prod.fst hmem,
      refclk156Loss_keeps (p := .bld) (by decide) _ _ _⟩
    rw [hostUp_post (by decide), hostDown_hostUp]
  case oneLink =>
    intro s l hclock hlinks henabled
    obtain ⟨m, hid, hdown, hlost⟩ := clockless_only hlinks henabled
    have hnotUp : ∀ x ∈ [m], x.state ≠ .up := by simp [hdown]
    refine ⟨_, exec_refclk156Loss hclock, ?_⟩
    rw [linksStay_post hnotUp _ _ _ _ (linksStay_hostDown hnotUp _ hlost)]
    simp [hid, hdown]
  case restored =>
    intro s l hlinks hdown hdrain
    change execRefclk156Restored s = _
    simp [execRefclk156Restored, hlinks, hdown, hdrain, onPcr_linkPort]

end Sys2Proof.Machine
end

section
/-! SUPPORT. Temperature (R412, R413, Table 15.6): what a sample shows, how the level rises and falls, and the trip. -/

namespace Sys2Proof.Machine

variable {s : State}

/-! ### Readings and levels -/

/-- A reading at a level is at every lower one. -/
theorem atLevel_mono {logic hbm logic' hbm' : Int} (hlogic : logic ≤ logic') (hhbm : hbm ≤ hbm') {r : Nat × Nat}
    (h : atLevel logic' hbm' r = true) : atLevel logic hbm r = true := by
  simp only [atLevel, Bool.and_eq_true, decide_eq_true_eq] at h ⊢
  obtain ⟨hread, hat⟩ := h
  refine ⟨hread, le_trans ?_ hat⟩
  split <;> omega

section
variable {logic hbm logic' hbm' : Int} {rs : List (Nat × Nat)}

/-- Where no reading is at a level, none is at a higher one. -/
theorem not_atLevel_of_lower (hlogic : logic ≤ logic') (hhbm : hbm ≤ hbm') (h : ∀ r ∈ rs, atLevel logic hbm r = false) :
    ∀ r ∈ rs, atLevel logic' hbm' r = false := fun r hr =>
  Bool.eq_false_iff.2 fun hat => Bool.false_ne_true ((h r hr).symm.trans (atLevel_mono hlogic hhbm hat))

theorem filter_atLevel_nil (hlogic : logic ≤ logic') (hhbm : hbm ≤ hbm') (h : ∀ r ∈ rs, atLevel logic hbm r = false) :
    rs.filter (atLevel logic' hbm') = [] :=
  List.filter_eq_nil_iff.2 fun r hr => Bool.eq_false_iff.1 (not_atLevel_of_lower hlogic hhbm h r hr)

end

theorem filter_ne_nil_of_exists {rs : List (Nat × Nat)} {p : Nat × Nat → Bool} (h : ∃ r ∈ rs, p r = true) : rs.filter p ≠ [] := by
  obtain ⟨r, hr, hp⟩ := h
  exact List.ne_nil_of_mem (List.mem_filter.2 ⟨hr, hp⟩)

/-! ### A sample shown -/

theorem foldl_setReg_eq_setRegs {α : Type} (f : α → Fld) (v : α → Nat) (l : List α) (s : State) :
    l.foldl (fun s x => s.setReg (f x) (v x)) s = s.setRegs (l.map fun x => (f x, v x)) := by
  induction l generalizing s with
  | nil => rfl
  | cons x l ih => exact ih _

/-- Showing the temperatures writes registers alone. -/
theorem showTemps_eq (rs : List (Nat × Nat)) : ∃ regs, s.showTemps rs = { s with regs := regs } := by
  unfold State.showTemps
  rw [foldl_setReg_eq_setRegs (fun r : Nat × Nat => R.PCR_TEMP_TEMP r.1) Prod.snd, setRegs_eq]
  dsimp only
  split
  · exact ⟨_, rfl⟩
  · exact ⟨_, rfl⟩

theorem temp_key_inj {i j : Nat} (h : (R.PCR_TEMP_TEMP i).key = (R.PCR_TEMP_TEMP j).key) : i = j := by
  simp only [Fld.key, R.PCR_TEMP_TEMP] at h
  omega

/-- Two readings of one sensor are one. -/
theorem readings_inj {temps : List Nat} {r r' : Nat × Nat} (hr : r ∈ s.readings temps) (hr' : r' ∈ s.readings temps)
    (h : r.1 = r'.1) : r = r' := by
  obtain ⟨i, -, rfl⟩ := List.mem_map.1 hr
  obtain ⟨j, -, rfl⟩ := List.mem_map.1 hr'
  obtain rfl : i = j := h
  rfl

/-- Every sensor's register shows its reading. -/
theorem showTemps_temp (temps : List Nat) {r : Nat × Nat} (hr : r ∈ s.readings temps) :
    (s.showTemps (s.readings temps)).reg (R.PCR_TEMP_TEMP r.1) = r.2 % 2 ^ 16 := by
  have hshown : ((s.readings temps).foldl (fun s r => s.setReg (R.PCR_TEMP_TEMP r.1) r.2) s).reg (R.PCR_TEMP_TEMP r.1)
      = r.2 % 2 ^ 16 := by
    rw [foldl_setReg_eq_setRegs (fun r : Nat × Nat => R.PCR_TEMP_TEMP r.1) Prod.snd]
    refine reg_setRegs_of_mem (g := R.PCR_TEMP_TEMP r.1) (v := r.2) (List.mem_map.2 ⟨r, hr, rfl⟩) ?_ s
    intro p hp hkey
    obtain ⟨r', hr', rfl⟩ := List.mem_map.1 hp
    obtain rfl := readings_inj hr hr' (temp_key_inj hkey)
    rfl
  unfold State.showTemps
  dsimp only
  split
  · refine (reg_setRegs_of_notMem ?_ _).trans hshown
    simp only [List.forall_mem_cons, List.not_mem_nil, false_implies, implies_true, and_true, Fld.key, R.PCR_TEMP_TEMP,
      R.PCR_THERMAL_HOTTEST, R.PCR_THERMAL_TJ_MAX]
    omega
  · exact hshown

/-! ### The thermal level -/

/-- The throttle a thermal level demands (Table 15.6). -/
def thermalDemand : Nat → Nat
  | 0 => 100
  | 1 => 50
  | _ => 25

theorem setLevel_pcr (n : Nat) : ∃ at_ r, (s.setLevel n).pcr = { s.pcr with
    level := n
    thermWarnPin := decide (0 < n)
    throttle := { s.pcr.throttle with thermal := thermalDemand n }
    throttleAt := at_
    raiseTo := r } := by
  unfold State.setLevel State.demand
  obtain ⟨at_, r, h⟩ := combine_pcr (((s.onPcr fun p => { p with
    level := n
    thermWarnPin := decide (0 < n) }).setRegs [(R.PCR_STATUS_THERM_CRIT, bit (decide (n = 2))),
      (R.PCR_STATUS_THERM_WARN, bit (decide (0 < n)))]).onPcr fun p => { p with throttle := { p.throttle with thermal := thermalDemand n } })
  refine ⟨at_, r, Eq.trans ?_ h⟩
  match n with
  | 0 => rfl
  | 1 => rfl
  | _ + 2 => rfl

theorem post_pcr (e : Ev) (ctx : Nat) (a : Nat × Nat) : (s.post e ctx a).pcr = s.pcr :=
  (kept_post (κ := onlyPart .pcr) (Kept.refl s) (off_onlyPart (by decide)) e ctx a).same (onlyPart_self .pcr)

theorem bump_pcr (f : Fld) : (s.bump f).pcr = s.pcr := count_pcr s f 1

/-- From `s` to `t` the thermal level was set to `n` and did what Table 15.6 says, and the clear conditions go on. -/
structure LevelSet (s t : State) (n : Nat) : Prop where
  level : t.pcr.level = n
  throttle : t.pcr.throttle = { s.pcr.throttle with thermal := thermalDemand n }
  pin : t.pcr.thermWarnPin = decide (0 < n)
  crit : t.pcr.belowCrit = s.pcr.belowCrit
  warn : t.pcr.belowWarn = s.pcr.belowWarn

theorem levelSet_of_pcr {t : State} {n : Nat} (h : t.pcr = (s.setLevel n).pcr) : LevelSet s t n := by
  obtain ⟨at_, r, hset⟩ := setLevel_pcr (s := s) n
  rw [hset] at h
  constructor <;> rw [h]

theorem LevelSet.trans {t u : State} {m n : Nat} (h : LevelSet s t m) (h' : LevelSet t u n) : LevelSet s u n :=
  ⟨h'.level, by rw [h'.throttle, h.throttle], h'.pin, h'.crit.trans h.crit, h'.warn.trans h.warn⟩

theorem heat_nil (n : Nat) (e : Ev) : s.heat n e [] = s := rfl

/-- A level at or below the one in force is not reached again. -/
theorem heat_below {n : Nat} (h : n ≤ s.pcr.level) (e : Ev) (rs : List (Nat × Nat)) : s.heat n e rs = s := by
  cases rs with
  | nil => rfl
  | cons r rs => exact if_pos h

theorem levelSet_heat {n : Nat} (h : s.pcr.level < n) (e : Ev) {rs : List (Nat × Nat)} (hrs : rs ≠ []) :
    LevelSet s (s.heat n e rs) n := by
  refine levelSet_of_pcr ?_
  cases rs with
  | nil => exact absurd rfl hrs
  | cons r rs => rw [State.heat, if_neg h.not_ge, post_pcr, bump_pcr]

theorem cool_elsewhere {n : Nat} (h : s.pcr.level ≠ n) (since : Option Nat) : s.cool n since = s := if_neg fun hn => h hn.1

theorem cool_none (n : Nat) : s.cool n none = s := if_neg (by simp)

theorem cool_waits {n b : Nat} (h : s.aon < b + 100000) : s.cool n (some b) = s := if_neg (by simp [h])

/-- A clear condition that has held for 100 ms ends its level. -/
theorem levelSet_cool {n b : Nat} (hlevel : s.pcr.level = n) (h : b + 100000 ≤ s.aon) : LevelSet s (s.cool n (some b)) (n - 1) :=
  levelSet_of_pcr (by rw [State.cool, if_pos (by simp [hlevel, h]), post_pcr])

/-! ### A sample -/

/-- The times of a sample: since when each clear condition holds, and each sensor is at the trip level. -/
def State.sampled (s : State) (rs : List (Nat × Nat)) : State :=
  (s.showTemps rs).onPcr fun p => { p with
    belowCrit := if (rs.filter (atLevel 103 92)).isEmpty then some (p.belowCrit.getD (s.showTemps rs).aon) else none
    belowWarn := if rs.all (fun r => !atLevel 93 83 r) then some (p.belowWarn.getD (s.showTemps rs).aon) else none
    tripSince := (rs.filter (atLevel 107 97)).map fun r => (r.1, ((p.tripSince.find? (·.1 == r.1)).map (·.2)).getD (s.showTemps rs).aon) }

/-- What a sample does where no sensor trips. -/
def State.levelled (s : State) (rs : List (Nat × Nat)) : State :=
  let t := ((s.sampled rs).heat 1 .thermalWarn (rs.filter (atLevel 98 88))).heat 2 .thermalCrit (rs.filter (atLevel 103 92))
  (t.cool 2 t.pcr.belowCrit).cool 1 t.pcr.belowWarn

theorem sampled_pcr (rs : List (Nat × Nat)) : (s.sampled rs).pcr = { s.pcr with
    belowCrit := if (rs.filter (atLevel 103 92)).isEmpty then some (s.pcr.belowCrit.getD s.aon) else none
    belowWarn := if rs.all (fun r => !atLevel 93 83 r) then some (s.pcr.belowWarn.getD s.aon) else none
    tripSince := (rs.filter (atLevel 107 97)).map fun r => (r.1, ((s.pcr.tripSince.find? (·.1 == r.1)).map (·.2)).getD s.aon) } := by
  obtain ⟨regs, h⟩ := showTemps_eq (s := s) rs
  rw [State.sampled, h]
  rfl

theorem sampled_aon (rs : List (Nat × Nat)) : (s.sampled rs).aon = s.aon := by
  obtain ⟨regs, h⟩ := showTemps_eq (s := s) rs
  rw [State.sampled, h]
  rfl

section
variable (hon : s.bld.off = false) {temps : List Nat}
include hon

theorem exec_thermalSample_trips {x : Nat × Nat} (hx : ((s.sampled (s.readings temps)).pcr.tripSince.find? fun x =>
      x.2 + 100 ≤ (s.sampled (s.readings temps)).aon) = some x) :
    exec (.thermalSample temps) s = .next ((s.sampled (s.readings temps)).thermalTrip x.1) := by
  change execThermalSample temps s = _
  rw [execThermalSample, if_neg (by simp [hon])]
  dsimp only
  split
  · next y hy =>
    obtain rfl := Option.some.inj (hy.symm.trans hx)
    rfl
  · next hnone => exact absurd (hnone.symm.trans hx) (by simp)

theorem exec_thermalSample_levels (hnone : ((s.sampled (s.readings temps)).pcr.tripSince.find? fun x =>
      x.2 + 100 ≤ (s.sampled (s.readings temps)).aon) = none) :
    exec (.thermalSample temps) s = .next (s.levelled (s.readings temps)) := by
  change execThermalSample temps s = _
  rw [execThermalSample, if_neg (by simp [hon])]
  dsimp only
  split
  · next y hy => exact absurd (hy.symm.trans hnone) (by simp)
  · rfl

end

theorem resetRegs_hbm (s : State) (cold : Bool) : (s.resetRegs cold).hbm = s.hbm := by rw [resetRegs_eq]

/-- What a thermal trip leaves: the node FAILED with its rails off, and THERM_TRIP_N asserted. -/
theorem thermalTrip_leaves (s : State) (sensor : Nat) : (s.thermalTrip sensor).bld.node = .failed ∧ (s.thermalTrip sensor).bld.tripped = true
    ∧ (s.thermalTrip sensor).pcr.thermTripPin = true ∧ (s.thermalTrip sensor).bld.off = true ∧ (s.thermalTrip sensor).hbm = [] := by
  refine ⟨?_, ?_, ?_, ?_, ?_⟩
  all_goals
    simp only [State.thermalTrip, State.railsOff, setReg_hbm, setReg_bld, setReg_pcr, onPcr_pcr, onPcr_bld, onPcr_hbm, onBld_bld,
      onBld_hbm, resetRegs_hbm, State.lose, if_true]

/-- A sensor at the trip level since 100 ms trips. -/
theorem tripSince_due {rs : List (Nat × Nat)} {x : Nat × Nat} (hx : x ∈ rs) (hat : atLevel 107 97 x = true)
    (hknown : ∃ t, (x.1, t) ∈ s.pcr.tripSince) (hdue : ∀ a ∈ s.pcr.tripSince, a.1 = x.1 → a.2 + 100 ≤ s.aon) :
    ((s.sampled rs).pcr.tripSince.find? fun y => y.2 + 100 ≤ (s.sampled rs).aon).isSome = true := by
  obtain ⟨t, ht⟩ := hknown
  have hfound : (s.pcr.tripSince.find? (·.1 == x.1)).isSome = true := List.find?_isSome.2 ⟨_, ht, by simp⟩
  obtain ⟨a, ha⟩ := Option.isSome_iff_exists.1 hfound
  rw [sampled_pcr, sampled_aon, List.find?_isSome]
  refine ⟨(x.1, a.2), List.mem_map.2 ⟨x, List.mem_filter.2 ⟨hx, hat⟩, by rw [ha]; rfl⟩, ?_⟩
  exact decide_eq_true (hdue a (List.mem_of_find?_eq_some ha) (by simpa using List.find?_some ha))

/-- With no sensor at the trip level, or none there before, none trips. -/
theorem tripSince_early {rs : List (Nat × Nat)} (h : (∀ r ∈ rs, atLevel 103 92 r = false) ∨ s.pcr.tripSince = []) :
    ((s.sampled rs).pcr.tripSince.find? fun y => y.2 + 100 ≤ (s.sampled rs).aon) = none := by
  rw [sampled_pcr, sampled_aon]
  obtain h | h := h
  · have htrip : rs.filter (atLevel 107 97) = [] := filter_atLevel_nil (by decide) (by decide) h
    simp only [htrip, List.map_nil, List.find?_nil]
  · rw [h, List.find?_eq_none]
    intro y hy
    obtain ⟨r, -, rfl⟩ := List.mem_map.1 hy
    simp

section
variable {rs : List (Nat × Nat)}

theorem sampled_belowCrit (h : ∀ r ∈ rs, atLevel 103 92 r = false) :
    (s.sampled rs).pcr.belowCrit = some (s.pcr.belowCrit.getD s.aon) := by
  rw [sampled_pcr, filter_atLevel_nil (by decide) (by decide) h]
  rfl

theorem sampled_belowCrit_none (h : ∃ r ∈ rs, atLevel 103 92 r = true) : (s.sampled rs).pcr.belowCrit = none := by
  rw [sampled_pcr]
  exact if_neg (by simpa using filter_ne_nil_of_exists h)

theorem sampled_belowWarn (h : ∀ r ∈ rs, atLevel 93 83 r = false) :
    (s.sampled rs).pcr.belowWarn = some (s.pcr.belowWarn.getD s.aon) := by
  rw [sampled_pcr]
  exact if_pos (List.all_eq_true.2 fun r hr => by simp [h r hr])

theorem sampled_belowWarn_none (h : ∃ r ∈ rs, atLevel 93 83 r = true) : (s.sampled rs).pcr.belowWarn = none := by
  rw [sampled_pcr]
  exact if_neg (by simpa using h)

theorem sampled_level : (s.sampled rs).pcr.level = s.pcr.level := by rw [sampled_pcr]

theorem sampled_throttle : (s.sampled rs).pcr.throttle = s.pcr.throttle := by rw [sampled_pcr]

/-- Without a reading at a level above the one in force, a sample at most ends that level. -/
theorem levelled_quiet (hwarn : 1 ≤ s.pcr.level ∨ ∀ r ∈ rs, atLevel 98 88 r = false) (hcrit : ∀ r ∈ rs, atLevel 103 92 r = false) :
    s.levelled rs = ((s.sampled rs).cool 2 (s.sampled rs).pcr.belowCrit).cool 1 (s.sampled rs).pcr.belowWarn := by
  have hheat : (s.sampled rs).heat 1 .thermalWarn (rs.filter (atLevel 98 88)) = s.sampled rs := by
    obtain h | h := hwarn
    · exact heat_below (sampled_level.symm ▸ h) _ _
    · rw [filter_atLevel_nil (le_refl _) (le_refl _) h, heat_nil]
  simp only [State.levelled, hheat, filter_atLevel_nil (le_refl _) (le_refl _) hcrit, heat_nil]

/-- At WARN and below CRIT the level is WARN. -/
theorem levelled_warn (hlevel : s.pcr.level = 0) (hwarn : ∃ r ∈ rs, atLevel 98 88 r = true)
    (hcrit : ∀ r ∈ rs, atLevel 103 92 r = false) : LevelSet (s.sampled rs) (s.levelled rs) 1 := by
  have hset := levelSet_heat (s := s.sampled rs) (n := 1) (by rw [sampled_level, hlevel]; decide) .thermalWarn
    (filter_ne_nil_of_exists hwarn)
  have hbelow : (s.sampled rs).pcr.belowWarn = none :=
    sampled_belowWarn_none (hwarn.imp fun r hr => ⟨hr.1, atLevel_mono (by decide) (by decide) hr.2⟩)
  simp only [State.levelled, filter_atLevel_nil (le_refl _) (le_refl _) hcrit, heat_nil]
  rw [cool_elsewhere (n := 2) (by rw [hset.level]; decide), hset.warn, hbelow, cool_none]
  exact hset

/-- At CRIT the level is CRIT, by way of WARN where it was below that. -/
theorem levelled_crit (hlevel : s.pcr.level < 2) (hcrit : ∃ r ∈ rs, atLevel 103 92 r = true) :
    LevelSet (s.sampled rs) (s.levelled rs) 2 := by
  have hhot : rs.filter (atLevel 98 88) ≠ [] :=
    filter_ne_nil_of_exists (hcrit.imp fun r hr => ⟨hr.1, atLevel_mono (by decide) (by decide) hr.2⟩)
  have hset : LevelSet (s.sampled rs) (((s.sampled rs).heat 1 .thermalWarn (rs.filter (atLevel 98 88))).heat 2 .thermalCrit
      (rs.filter (atLevel 103 92))) 2 := by
    by_cases hcold : s.pcr.level = 0
    · have hwarned := levelSet_heat (s := s.sampled rs) (n := 1) (by rw [sampled_level, hcold]; decide) .thermalWarn hhot
      exact hwarned.trans (levelSet_heat (by rw [hwarned.level]; decide) _ (filter_ne_nil_of_exists hcrit))
    · rw [heat_below (n := 1) (by rw [sampled_level]; omega)]
      exact levelSet_heat (by rw [sampled_level]; omega) _ (filter_ne_nil_of_exists hcrit)
  simp only [State.levelled]
  rw [hset.crit, sampled_belowCrit_none hcrit, cool_none, cool_elsewhere (by rw [hset.level]; decide)]
  exact hset

end

/-! ### The statement -/

/-- Settles O51: the highest level a reading is at raises the level in force, and a clear condition held for 100 ms lowers it by one.
That WARN and CRIT clear below 93 and 83 degrees and not at them is a reading of Table 15.6 (log entry 81). -/
theorem temperatures : Obligations.Temperatures := by
  unfold Obligations.Temperatures
  refine ⟨?off, ?trip, ?normal, ?warn, ?crit, ?uncrit, ?unwarn, ?waits⟩
  case off =>
    intro s temps hoff
    exact if_pos hoff
  case trip =>
    intro s temps x hon hx hat hsince _ hdue
    obtain ⟨t, ht, -⟩ := hsince
    obtain ⟨y, hy⟩ := Option.isSome_iff_exists.1 (tripSince_due hx hat ⟨t, ht⟩ hdue)
    exact ⟨_, exec_thermalSample_trips hon hy, thermalTrip_leaves _ _⟩
  case normal =>
    intro s temps hon hlevel _ hcold
    have hcrit := not_atLevel_of_lower (logic' := 103) (hbm' := 92) (by decide) (by decide) hcold
    refine ⟨_, exec_thermalSample_levels hon (tripSince_early (.inl hcrit)), ?_⟩
    rw [levelled_quiet (.inr hcold) hcrit, cool_elsewhere (n := 2) (by rw [sampled_level, hlevel]; decide),
      cool_elsewhere (by rw [sampled_level, hlevel]; decide)]
    refine ⟨sampled_level.trans hlevel, sampled_throttle, ?_, fun r hr => showTemps_temp temps hr⟩
    obtain ⟨regs, h⟩ := showTemps_eq (s := s) (s.readings temps)
    rw [State.sampled, onPcr_evt, h]
  case warn =>
    intro s temps hon hlevel htrips hwarn hcrit
    have hset := levelled_warn hlevel hwarn hcrit
    exact ⟨_, exec_thermalSample_levels hon (tripSince_early (.inr htrips)), hset.level,
      hset.throttle.trans (by rw [sampled_throttle]; rfl), hset.pin⟩
  case crit =>
    intro s temps hon hlevel htrips hcrit
    have hset := levelled_crit hlevel hcrit
    exact ⟨_, exec_thermalSample_levels hon (tripSince_early (.inr htrips)), hset.level,
      hset.throttle.trans (by rw [sampled_throttle]; rfl), hset.pin⟩
  case uncrit =>
    intro s temps b hon hlevel hb hheld hcrit hwarn
    have hcool := levelSet_cool (s := s.sampled (s.readings temps)) (n := 2) (b := b) (sampled_level.trans hlevel)
      (by rw [sampled_aon]; exact hheld)
    refine ⟨_, exec_thermalSample_levels hon (tripSince_early (.inl hcrit)), ?_⟩
    rw [levelled_quiet (.inl (by omega)) hcrit, sampled_belowCrit hcrit, hb, Option.getD_some, sampled_belowWarn_none hwarn, cool_none]
    exact ⟨hcool.level, hcool.throttle.trans (by rw [sampled_throttle]; rfl)⟩
  case unwarn =>
    intro s temps b hon hlevel hb hheld hcold
    have hcrit := not_atLevel_of_lower (logic' := 103) (hbm' := 92) (by decide) (by decide) hcold
    have hcool := levelSet_cool (s := s.sampled (s.readings temps)) (n := 1) (b := b) (sampled_level.trans hlevel)
      (by rw [sampled_aon]; exact hheld)
    refine ⟨_, exec_thermalSample_levels hon (tripSince_early (.inl hcrit)), ?_⟩
    rw [levelled_quiet (.inl hlevel.ge) hcrit, cool_elsewhere (n := 2) (by rw [sampled_level, hlevel]; decide),
      sampled_belowWarn hcold, hb, Option.getD_some]
    exact ⟨hcool.level, hcool.throttle.trans (by rw [sampled_throttle]; rfl), hcool.pin⟩
  case waits =>
    intro s temps b hon hlevel hb hwaits hcold
    have hcrit := not_atLevel_of_lower (logic' := 103) (hbm' := 92) (by decide) (by decide) hcold
    refine ⟨_, exec_thermalSample_levels hon (tripSince_early (.inl hcrit)), ?_⟩
    rw [levelled_quiet (.inl hlevel.ge) hcrit, cool_elsewhere (n := 2) (by rw [sampled_level, hlevel]; decide),
      sampled_belowWarn hcold, hb, Option.getD_some, cool_waits (by rw [sampled_aon]; exact hwaits)]
    exact ⟨sampled_level.trans hlevel, sampled_throttle⟩

end Sys2Proof.Machine
end

section
/-! SUPPORT. Counters and waits (R300 to R306): what a counter holds after it is set, a queue whose posts pass its ring, the ends of a
wait, and the statement. -/

namespace Sys2Proof.Machine

variable {s : State}

/-! ### A counter's value (R301) -/

theorem counter_storeCounter_self (s : State) (k v : Nat) : (s.storeCounter k v).counter k = v % 2 ^ 40 := by
  simp only [State.counter, State.storeCounter, onSyn_syn, lookupD_assign, if_true]
  split
  · next h => exact h.symm
  · rfl

theorem counter_storeCounter_ne {j k : Nat} (h : j ≠ k) (s : State) (v : Nat) : (s.storeCounter k v).counter j = s.counter j := by
  simp only [State.counter, State.storeCounter, onSyn_syn, lookupD_assign, h, if_false]

theorem counter_of_syn {t : State} (h : t.syn = s.syn) (k : Nat) : t.counter k = s.counter k := by
  rw [State.counter, h, State.counter]

theorem count_syn (s : State) (f : Fld) (n : Nat) : (s.count f n).syn = s.syn := by unfold State.count; split <;> rfl

theorem count_xfr (s : State) (f : Fld) (n : Nat) : (s.count f n).xfr = s.xfr := by unfold State.count; split <;> rfl

/-- No queue is checked where there is none. -/
theorem checkPosted_noQueues (h : s.xfr.queues = []) (k : Nat) : s.checkPosted k = s := by
  simp [State.checkPosted, State.postQueues, h]

theorem completeWaits_nil (s : State) : s.completeWaits [] = s := by simp [State.completeWaits, State.bumpCounters, State.endWaits]

/-- With no core that waits and no queue, a counter is set and nothing follows. -/
theorem counter_setCounter_idle (hcores : s.cores = []) (hqueues : s.xfr.queues = []) (k v : Nat) :
    (s.setCounter k v).counter k = v % 2 ^ 40 := by
  have hsatisfied : (s.storeCounter k v).satisfied k = [] := by
    simp [State.satisfied, State.waiters, State.storeCounter, hcores]
  have hset : s.setCounter k v = (s.storeCounter k v).count R.SYN_WAIT_STATS_WAITS 0 := by
    simp only [State.setCounter, hsatisfied, completeWaits_nil]
    refine checkPosted_noQueues (s := (s.storeCounter k v).count R.SYN_WAIT_STATS_WAITS 0) ?_ k
    rw [count_xfr]
    exact hqueues
  rw [hset, counter_of_syn (count_syn _ _ _), counter_storeCounter_self]

/-! ### A queue's posts (R276) -/

/-- The only queue, when it posts by a counter whose value has passed its ring. -/
theorem checkPosted_full {q : XQueue} (hqueues : s.xfr.queues = [q]) (hq : 64 ≤ q.q) (hvalid : s.flag (R.XFR_Q_A_VALID q.q) = true)
    (hrunning : s.flag (R.XFR_Q_A_ERROR q.q) = false)
    (hposted : 2 ^ s.reg (R.XFR_Q_B_DEPTH_LOG2 q.q) + s.reg (R.XFR_Q_C_COMPLETED q.q) < s.counter (s.postKey q.q)) :
    s.checkPosted (s.postKey q.q)
      = s.setRegs [(R.XFR_Q_A_ERROR q.q, 1), (R.XFR_Q_B_ERROR_STATUS q.q, St.queueFull.code)] := by
  have hmine : s.postQueues (s.postKey q.q) = [q.q] := by
    simp [State.postQueues, State.postKey, hqueues, hq, hvalid]
  have hpast : 2 ^ s.reg (R.XFR_Q_B_DEPTH_LOG2 q.q) < s.counter (s.postKey q.q) - s.reg (R.XFR_Q_C_COMPLETED q.q) := by omega
  simp [State.checkPosted, hmine, State.ringCheck, hrunning, hpast]

/-! ### Conditions (R301, R304) -/

theorem sext24_of_lt {v : Nat} (h : v < 2 ^ 24) : sext24 v = if v < 2 ^ 23 then (v : Int) else (v : Int) - 2 ^ 24 := by
  rw [sext24, Nat.mod_eq_of_lt h]
  split <;> omega

/-! ### The ends of a wait (R305, R306) -/

section
variable {n : Nat} (hlimit : (s.core n).waitLimit ≠ 0)
include hlimit

theorem execWaitLimitExpiry_counter {t k x : Nat} (hwait : (s.core n).wait = some (.counter t k x)) : exec (.waitLimitExpiry n) s
    = .next ((s.bump R.SYN_WAIT_STATS_TIMEOUTS).coreFault n .waitTimeout ((s.core n).pc - 1) 0x88) := by
  change execWaitLimitExpiry n s = _
  simp only [execWaitLimitExpiry, hlimit, hwait, if_false]

theorem execWaitLimitExpiry_barrier {m b r : Nat} (hwait : (s.core n).wait = some (.barrier m b r)) : exec (.waitLimitExpiry n) s
    = .next ((s.bump R.SYN_WAIT_STATS_TIMEOUTS).coreFault n .waitTimeout ((s.core n).pc - 1) 0x8A) := by
  change execWaitLimitExpiry n s = _
  simp only [execWaitLimitExpiry, hlimit, hwait, if_false]

end

/-- A core that waits on nothing has no wait to end. -/
theorem execWaitExpiries_noWait {n : Nat} (hwait : (s.core n).wait = none) :
    exec (.waitLimitExpiry n) s = .next s ∧ exec (.waitGateExpiry n) s = .next s := by
  constructor
  · change execWaitLimitExpiry n s = _
    simp only [execWaitLimitExpiry, hwait, ite_self]
  · change execWaitGateExpiry n s = _
    simp only [execWaitGateExpiry, hwait]

/-! ### The statement -/

/-- Settles O33: a counter takes its value modulo 2^40 and wakes what it satisfies, and what a core waits on decides how its wait ends. -/
theorem countersAndWaits : Obligations.CountersAndWaits := by
  unfold Obligations.CountersAndWaits
  refine ⟨?write, ?absent, ?stored, ?others, ?set, ?add, ?sext, ?holds, ?timeout, ?barrierTimeout, ?noWait, ?gate, ?full, ?noLimit⟩
  case write =>
    intro s v htile
    exact congrArg Host.Outcome.next (if_pos htile)
  case absent =>
    intro s v htile
    exact congrArg Host.Outcome.next (if_neg (by simp [htile]))
  case stored =>
    intro s k v
    exact counter_storeCounter_self s k v
  case others =>
    intro s k j v _ hj
    exact counter_storeCounter_ne hj s v
  case set =>
    intro s k v hcores hqueues
    exact counter_setCounter_idle hcores hqueues k v
  case add =>
    intro s k d
    rfl
  case sext =>
    intro v hv
    exact sext24_of_lt hv
  case holds =>
    intro a v
    exact decide_eq_true_iff
  case timeout =>
    intro s n t k x hwait hlimit
    exact execWaitLimitExpiry_counter hlimit hwait
  case barrierTimeout =>
    intro s n m b r hwait hlimit
    exact execWaitLimitExpiry_barrier hlimit hwait
  case noWait =>
    intro s n hwait
    exact execWaitExpiries_noWait hwait
  case gate =>
    intro s n t k x hwait
    change execWaitGateExpiry n s = _
    simp only [execWaitGateExpiry, hwait]
  case full =>
    intro s q hqueues hq hvalid hrunning hposted
    exact checkPosted_full hqueues hq hvalid hrunning hposted
  case noLimit =>
    intro s n hlimit
    exact if_pos hlimit

end Sys2Proof.Machine
end

section
/-! SUPPORT. Barriers (R309 to R313): an arrival by its distance to the barrier's round, acknowledgements and releases, and the
statement. -/

namespace Sys2Proof.Machine

variable {s : State} {b : Nat}

/-! ### CONFIGURE and FREE (R309) -/

theorem barArgsOk_false (h : s.reg R.SYN_BAR_ARG0_PARTICIPANTS = 0 ∨ s.reg R.SYN_BAR_ARG0_MEMBER_COUNT = 0
    ∨ 4096 < s.reg R.SYN_BAR_ARG0_MEMBER_COUNT ∨ s.reg R.SYN_BAR_ARG1_MEMBERS % 2 = 1) : s.barArgsOk = false := by
  obtain h | h | h | h := h <;> simp [State.barArgsOk, h, Nat.not_le.2]

section
variable (hfree : s.reg (R.SYN_BAR_A_STATE b) = 0)
include hfree

theorem barConfigure_configures (hargs : s.barArgsOk = true) : s.barConfigure b
    = (s.setRegs [(R.SYN_BAR_A_STATE b, 1), (R.SYN_BAR_A_ROUND b, s.reg R.SYN_BAR_ARG0_ROUND),
      (R.SYN_BAR_A_PARTICIPANTS b, s.reg R.SYN_BAR_ARG0_PARTICIPANTS), (R.SYN_BAR_A_ARRIVED b, 0), (R.SYN_BAR_B_EARLY b, 0),
      (R.SYN_BAR_B_ACKS_PENDING b, 0), (R.SYN_BAR_B_MEMBER_COUNT b, s.reg R.SYN_BAR_ARG0_MEMBER_COUNT),
      (R.SYN_BAR_C_MEMBERS b, s.reg R.SYN_BAR_ARG1_MEMBERS), (R.SYN_BAR_D_COMPLETED b, 0)]).barStatus 1 b .ok := by
  rw [State.barConfigure, if_neg (not_not.2 hfree), if_neg (by simp [hargs])]

theorem barConfigure_badArgs (hargs : s.barArgsOk = false) : s.barConfigure b = s.barStatus 1 b .badParam := by
  rw [State.barConfigure, if_neg (not_not.2 hfree), if_pos (by simp [hargs])]

end

/-! ### Arrivals (Table 11.3) -/

/-- How far an arrival's round is ahead of the barrier's. -/
def State.ahead (s : State) (b : Nat) (a : ArriveMsg) : Nat := (a.round % 65536 + 65536 - s.reg (R.SYN_BAR_A_ROUND b)) % 65536

theorem ahead_current {a : ArriveMsg} (hround : a.round = s.reg (R.SYN_BAR_A_ROUND b)) (hlt : a.round < 65536) : s.ahead b a = 0 := by
  rw [State.ahead, ← hround, Nat.mod_eq_of_lt hlt, Nat.add_sub_cancel_left, Nat.mod_self]

theorem ahead_next {a : ArriveMsg} (hlt : s.reg (R.SYN_BAR_A_ROUND b) < 65536)
    (hround : a.round % 65536 = (s.reg (R.SYN_BAR_A_ROUND b) + 1) % 65536) : s.ahead b a = 1 := by
  rw [State.ahead, hround]
  omega

section
variable {a : ArriveMsg}

theorem arrive_free (h : s.reg (R.SYN_BAR_A_STATE b) = 0) : s.arrive b a = (s.bump R.SYN_BAR_STATS_REFUSED, .badState) := if_pos h

theorem arrive_stale (h : s.reg (R.SYN_BAR_A_STATE b) ≠ 0) (hold : 32768 ≤ s.ahead b a) :
    s.arrive b a = (s.bump R.SYN_BAR_STATS_REFUSED, .barrierStale) := (if_neg h).trans (if_pos hold)

/-- The round being collected counts its arrivals and completes with its last. -/
theorem arrive_collecting (h : s.reg (R.SYN_BAR_A_STATE b) = 1) (hnow : s.ahead b a = 0) : s.arrive b a
    = (if (s.reg (R.SYN_BAR_A_ARRIVED b) + 1) % 65536 = s.reg (R.SYN_BAR_A_PARTICIPANTS b) then
        (s.setReg (R.SYN_BAR_A_ARRIVED b) (s.reg (R.SYN_BAR_A_ARRIVED b) + 1)).completeRound b
      else s.setReg (R.SYN_BAR_A_ARRIVED b) (s.reg (R.SYN_BAR_A_ARRIVED b) + 1), .ok) := by
  have harrived : (s.setReg (R.SYN_BAR_A_ARRIVED b) (s.reg (R.SYN_BAR_A_ARRIVED b) + 1)).reg (R.SYN_BAR_A_ARRIVED b)
      = (s.reg (R.SYN_BAR_A_ARRIVED b) + 1) % 65536 := reg_setReg_self _ _ _
  rw [State.ahead] at hnow
  simp only [State.arrive, h, hnow, harrived, Nat.one_ne_zero, Nat.reduceLeDiff, if_false, and_self, if_true]

theorem arrive_releasing (h : s.reg (R.SYN_BAR_A_STATE b) = 2) (hnow : s.ahead b a = 0) :
    s.arrive b a = (s.bump R.SYN_BAR_STATS_REFUSED, .barrierOverrun) := by
  rw [State.ahead] at hnow
  simp [State.arrive, h, hnow]

theorem arrive_early (h : s.reg (R.SYN_BAR_A_STATE b) ≠ 0) (hnext : s.ahead b a = 1) : s.arrive b a
    = if s.reg (R.SYN_BAR_B_EARLY b) < s.reg (R.SYN_BAR_A_PARTICIPANTS b) then
        ((s.setReg (R.SYN_BAR_B_EARLY b) (s.reg (R.SYN_BAR_B_EARLY b) + 1)).bump R.SYN_BAR_STATS_EARLY, .ok)
      else (s.bump R.SYN_BAR_STATS_REFUSED, .barrierOverrun) := by
  rw [State.ahead] at hnext
  simp [State.arrive, h, hnext]

end

/-! ### Acknowledgements (R312) -/

section
variable {src round : Nat}

theorem execReleaseAck_counts (hstate : s.reg (R.SYN_BAR_A_STATE b) = 2) (hround : s.reg (R.SYN_BAR_A_ROUND b) = round) :
    exec (.releaseAck src b round) s = .next ((s.takeMsg src (.releaseAck b round)).barAck b src) := if_pos ⟨hstate, hround⟩

theorem execReleaseAck_other (h : s.reg (R.SYN_BAR_A_STATE b) ≠ 2 ∨ s.reg (R.SYN_BAR_A_ROUND b) ≠ round) :
    exec (.releaseAck src b round) s = .next (s.takeMsg src (.releaseAck b round)) := by
  refine if_neg ?_
  rintro ⟨hstate, hround⟩
  exact h.elim (· hstate) (· hround)

theorem barAck_notAwaited (h : s.syn.ackWait.contains (b, src) = false) : s.barAck b src = s :=
  if_neg (by simp only [h, Bool.false_eq_true, not_false_eq_true])

section
variable (hawaited : s.syn.ackWait.contains (b, src) = true)
include hawaited

theorem barAck_more (hmore : 1 < s.reg (R.SYN_BAR_B_ACKS_PENDING b)) : s.barAck b src
    = (s.onSyn fun y => { y with ackWait := dropFirst (b, src) y.ackWait }).setReg (R.SYN_BAR_B_ACKS_PENDING b)
      (s.reg (R.SYN_BAR_B_ACKS_PENDING b) - 1) := by
  have hleft : s.reg (R.SYN_BAR_B_ACKS_PENDING b) - 1 ≠ 0 := by omega
  simp only [State.barAck, hawaited, if_true, hleft, if_false]

theorem barAck_last (hlast : s.reg (R.SYN_BAR_B_ACKS_PENDING b) = 1) : s.barAck b src
    = ((s.onSyn fun y => { y with ackWait := dropFirst (b, src) y.ackWait }).setReg (R.SYN_BAR_B_ACKS_PENDING b) 0).closeRound b := by
  simp only [State.barAck, hawaited, if_true, hlast, Nat.sub_self]

end

end

/-! ### The next round (R312) -/

/-- The round's advance leaves the count of participants. -/
theorem advanceRound_participants : (s.advanceRound b).reg (R.SYN_BAR_A_PARTICIPANTS b) = s.reg (R.SYN_BAR_A_PARTICIPANTS b) := by
  refine (reg_bump_ne _ ?_).trans (reg_setRegs_of_notMem ?_ s)
  · simp only [Fld.key, R.SYN_BAR_A_PARTICIPANTS, R.SYN_BAR_STATS_ROUNDS]
    omega
  · simp only [List.forall_mem_cons, List.not_mem_nil, false_implies, implies_true, and_true, Fld.key, R.SYN_BAR_A_PARTICIPANTS,
      R.SYN_BAR_A_ROUND, R.SYN_BAR_A_ARRIVED, R.SYN_BAR_B_EARLY, R.SYN_BAR_A_STATE, R.SYN_BAR_D_COMPLETED]
    omega

/-- A round the early arrivals do not fill waits for more. -/
theorem closeRound_advances (h : s.reg (R.SYN_BAR_B_EARLY b) ≠ s.reg (R.SYN_BAR_A_PARTICIPANTS b)) :
    s.closeRound b = s.advanceRound b := by
  rw [State.closeRound, advanceRound_participants, if_neg h]

/-! ### Members (R313) -/

theorem waiters_none {p : CoreWait → Bool} (h : ∀ c ∈ s.cores, c.wait.any p = false) : s.waiters p = [] :=
  List.filter_eq_nil_iff.2 fun c hc => by simp [h c hc]

theorem waiters_only {c : Core} {p : CoreWait → Bool} (hcores : s.cores = [c]) (h : c.wait.any p = true) : s.waiters p = [c] := by
  simp [State.waiters, hcores, h]

/-! ### The statement -/

/-- Settles O34: a barrier's state, and how far an arrival's round is ahead of it, decide what the arrival does; the acknowledgements
still awaited decide when the round advances; and a core's wait decides whether a release or an abort ends it. -/
theorem barriers : Obligations.Barriers := by
  unfold Obligations.Barriers
  refine ⟨?configure, ?busy, ?badArgs, ?args, ?free, ?notFree, ?arriveFree, ?stale, ?counted, ?last, ?releasing, ?early, ?otherAck,
    ?ack, ?lastAck, ?advance, ?released, ?releasedOne, ?abortedOne, ?aborted⟩
  case configure =>
    intro s b hfree hargs
    exact congrArg Host.Outcome.next (barConfigure_configures hfree hargs)
  case busy =>
    intro s b hbusy
    exact congrArg Host.Outcome.next (if_pos hbusy)
  case badArgs =>
    intro s b hfree hargs
    exact congrArg Host.Outcome.next (barConfigure_badArgs hfree hargs)
  case args =>
    intro s hbad
    exact barArgsOk_false hbad
  case free =>
    intro s b hstate harrived hearly
    exact congrArg Host.Outcome.next (if_pos ⟨hstate, harrived, hearly⟩)
  case notFree =>
    intro s b hbad
    refine congrArg Host.Outcome.next (if_neg ?_)
    rintro ⟨hstate, harrived, hearly⟩
    omega
  case arriveFree =>
    intro s b a hfree
    exact arrive_free hfree
  case stale =>
    intro s b a hstate _ hold
    exact arrive_stale hstate hold
  case counted =>
    intro s b a hstate hround hlt hmore _
    rw [arrive_collecting hstate (ahead_current hround hlt), if_neg hmore]
  case last =>
    intro s b a hstate hround hlt hlast _
    rw [arrive_collecting hstate (ahead_current hround hlt), if_pos hlast]
  case releasing =>
    intro s b a hstate hround hlt
    exact arrive_releasing hstate (ahead_current hround hlt)
  case early =>
    intro s b a hstate hlt hround
    exact arrive_early hstate (ahead_next hlt hround)
  case otherAck =>
    intro s src b round hother
    by_cases hmine : s.reg (R.SYN_BAR_A_STATE b) = 2 ∧ s.reg (R.SYN_BAR_A_ROUND b) = round
    · obtain ⟨hstate, hround⟩ := hmine
      have hnone : s.syn.ackWait.contains (b, src) = false := (hother.resolve_left (not_not.2 hstate)).resolve_left (not_not.2 hround)
      rw [execReleaseAck_counts hstate hround, barAck_notAwaited (s := s.takeMsg src (.releaseAck b round)) hnone]
    · exact execReleaseAck_other (not_and_or.1 hmine)
  case ack =>
    intro s src b round hstate hround hawaited hmore
    exact (execReleaseAck_counts hstate hround).trans
      (congrArg Host.Outcome.next (barAck_more (s := s.takeMsg src (.releaseAck b round)) hawaited hmore))
  case lastAck =>
    intro s src b round hstate hround hawaited hlast
    exact (execReleaseAck_counts hstate hround).trans
      (congrArg Host.Outcome.next (barAck_last (s := s.takeMsg src (.releaseAck b round)) hawaited hlast))
  case advance =>
    intro s b hearly _
    exact closeRound_advances hearly
  case released =>
    intro s src b round hnone
    have hwaiters : (s.takeMsg src (.barRelease b round)).waiters (fun w => decide (w = .barrier src b round)) = [] :=
      waiters_none fun c hc => by
        have hwait := hnone c hc
        cases hw : c.wait <;> simp_all
    change execBarrierRelease src b round s = _
    simp only [execBarrierRelease, hwaiters, completeWaits_nil]
  case releasedOne =>
    intro s src b round c hcores hwait
    have hwaiters : (s.takeMsg src (.barRelease b round)).waiters (fun w => decide (w = .barrier src b round)) = [c] :=
      waiters_only hcores (by simp [hwait])
    change execBarrierRelease src b round s = _
    simp only [execBarrierRelease, hwaiters]
  case abortedOne =>
    intro s src b round st c b' r' hcores hwait
    have hwaiters : (s.takeMsg src (.barAbort b round st)).barrierWaiters src = [c] := waiters_only hcores (by simp [hwait])
    change execBarrierAbort src b round st s = _
    simp only [execBarrierAbort, hwaiters, State.faultBarrierWaiters]
  case aborted =>
    intro s src b round st hnone
    have hwaiters : (s.takeMsg src (.barAbort b round st)).barrierWaiters src = [] := hnone
    change execBarrierAbort src b round st s = _
    simp only [execBarrierAbort, hwaiters, State.faultBarrierWaiters]

end Sys2Proof.Machine
end

section
/-! SUPPORT. The checks of a host's packet (Table 12.2): what each of them answers, the meters (R340), and the statement. -/

namespace Sys2Proof.Machine

variable {s t : State} {p : HostPkt}

/-! ### Checks 1 to 3 (R321, R324, R340) -/

section
variable {fast : Bool}

theorem screen_down (h : s.hostUp = false) : s.screen p fast = (none, s) := if_pos (by simp [h])

variable (hup : s.hostUp = true)
include hup

theorem screen_unheard (h : p.formOk = false ∨ s.hears p.net (s.reg R.HCP_PRAYR_UDP_PORT) = false) :
    s.screen p fast = (none, s.bump R.HCP_STATS_CHECK_DROPS) := by
  rw [State.screen, if_neg (by simp [hup]), if_pos (by obtain h | h := h <;> simp [h])]

variable (hform : p.formOk = true) (hhears : s.hears p.net (s.reg R.HCP_PRAYR_UDP_PORT) = true)
include hform hhears

theorem screen_noHost (h : s.hostEntry p.src = none) : s.screen p fast = (none, s.bump R.HCP_DROP_STATS_NO_HOST) := by
  simp only [State.screen, hup, hform, hhears, h, Bool.not_true, Bool.or_self, Bool.false_eq_true, if_false]

theorem screen_admitted {e : Nat × Nat × Bool} (h : s.hostEntry p.src = some e) (hpolice : s.police p.tenant p.size fast = (true, t)) :
    s.screen p fast = (some e, t) := by
  simp only [State.screen, hup, hform, hhears, h, hpolice, Bool.not_true, Bool.or_self, Bool.false_eq_true, if_false]

theorem screen_policed {e : Nat × Nat × Bool} (h : s.hostEntry p.src = some e) (hpolice : s.police p.tenant p.size fast = (false, t)) :
    s.screen p fast = (none, t) := by
  simp only [State.screen, hup, hform, hhears, h, hpolice, Bool.not_true, Bool.or_self, Bool.false_eq_true, if_false]

end

/-! ### Meters (R340) -/

theorem up32_below {v : Nat} (h : v + 1 < 2 ^ 32) : s.up32 v = (v + 1, s) := by rw [State.up32, if_pos h]

/-- A disabled meter colours every packet green. -/
theorem colour_disabled {m : Meter} (h : m.enable = false) (now size : Nat) : m.colour now size = (.green, m) := by
  rw [Meter.colour, if_pos (by simp [h])]

theorem police_green {tenant size : Nat} {fast : Bool} {m : Meter} (h : (s.meter tenant).colour s.aon size = (.green, m))
    (hcount : s.up32 m.green = (m.green + 1, s)) :
    s.police tenant size fast = (true, s.putMeter { m with green := m.green + 1 }) := by
  rw [State.police, h]
  dsimp only
  rw [hcount]

theorem refill_bytes (m : Meter) (now : Nat) : (m.refill now).bytes = m.bytes := by cases m; rfl

/-- A packet that finds less than a packet in its peak bucket is red. -/
theorem colour_red {m : Meter} {now : Nat} (h : m.enable = true) (hbytes : m.bytes = false) (hpeak : (m.refill now).tp < Meter.grain)
    (size : Nat) : m.colour now size = (.red, m.refill now) := by
  simp only [Meter.colour, h, refill_bytes, hbytes, Bool.not_true, Bool.false_eq_true, if_false, Nat.mul_one, hpeak, if_true]

theorem police_red {tenant size : Nat} {fast : Bool} {m : Meter} (h : (s.meter tenant).colour s.aon size = (.red, m)) :
    s.police tenant size fast = (false, s.redDrop m) := by
  rw [State.police, h]

/-- A committed bucket of packets fills by its rate until it is full. -/
theorem refill_committed {m : Meter} {now : Nat} (hbytes : m.bytes = false)
    (hroom : m.tc + m.cir * 65536 * (now - m.at_) ≤ m.cbs * Meter.grain) :
    (m.refill now).tc = m.tc + m.cir * 65536 * (now - m.at_) := by
  simp only [Meter.refill, Meter.unit, hbytes, Bool.false_eq_true, if_false, Nat.mul_one, Nat.min_eq_right hroom]

/-! ### Checks 4 and 5 (R325, R326) -/

section
variable {e : Nat × Nat × Bool} {fast : Bool} (hscreen : s.screen p fast = (some e, t))
include hscreen

theorem unseen_cached {c : CachedReply} (hc : (t.hcp.cache.find? fun x => decide (x.reply.key = p.key)) = some c) :
    s.unseen p fast = (none, (t.bump R.HCP_STATS_DUPLICATES).hostSend 0 (.reply c.reply)) := by
  simp only [State.unseen, hscreen, hc]

variable (hcache : (t.hcp.cache.find? fun x => decide (x.reply.key = p.key)) = none)
include hcache

theorem unseen_executing (hexec : (t.hcp.exec.any fun x => decide (x.key = p.key)) = true) : s.unseen p fast = (none, t) := by
  simp only [State.unseen, hscreen, hcache, hexec, if_true]

theorem unseen_new (hexec : (t.hcp.exec.any fun x => decide (x.key = p.key)) = false) : s.unseen p fast = (some e, t) := by
  simp only [State.unseen, hscreen, hcache, hexec, Bool.false_eq_true, if_false]

end

section
variable {op : Nat} {fast : Bool}

theorem prayrFront_dropped (h : s.unseen p fast = (none, t)) : s.prayrFront p op fast = (none, t) := by
  simp only [State.prayrFront, h]

variable {e : Nat × Nat × Bool} (hunseen : s.unseen p fast = (some e, t)) (hkind : p.kind = 0)
include hunseen hkind

theorem prayrFront_version (h : p.version < t.reg R.PHS_VERSIONS_PRAYR_MIN ∨ t.reg R.PHS_VERSIONS_PRAYR_MAX < p.version) :
    s.prayrFront p op fast = (none, t.rejectPkt p op (t.reg R.PHS_VERSIONS_PRAYR_MAX) .formatUnsupported
      (toBytes 8 (t.reg R.PHS_VERSIONS_PRAYR_MIN * 256 + t.reg R.PHS_VERSIONS_PRAYR_MAX))) := by
  simp only [State.prayrFront, hunseen, hkind, ne_eq, not_true_eq_false, if_false, h, if_true]

theorem prayrFront_passes (hmin : t.reg R.PHS_VERSIONS_PRAYR_MIN ≤ p.version) (hmax : p.version ≤ t.reg R.PHS_VERSIONS_PRAYR_MAX) :
    s.prayrFront p op fast = (some e, t) := by
  simp only [State.prayrFront, hunseen, hkind, ne_eq, not_true_eq_false, if_false, hmin.not_gt, hmax.not_gt, or_self]

end

/-! ### Checks 6 to 9 (R327, R328, R363) -/

theorem prayr_dropped {op : Nat} {fast : Bool} (h : s.prayrFront p op fast = (none, t)) (admin serves ok : Bool)
    (run : Nat → State → State) : s.prayr p op fast admin serves ok run = t := by
  simp only [State.prayr, h]

section
variable {op lo hi : Nat} {fast admin serves ok adm : Bool} {run : Nat → State → State}
  (hfront : s.prayrFront p op fast = (some (lo, hi, adm), t))
include hfront

theorem prayr_denied (h : p.tenant < lo ∨ hi < p.tenant ∨ (admin = true ∧ adm = false)) :
    s.prayr p op fast admin serves ok run = t.rejectPkt p op p.version .accessDenied [] := by
  simp only [State.prayr, hfront, h, if_true]

variable (hlo : lo ≤ p.tenant) (hhi : p.tenant ≤ hi) (hadm : ¬ (admin = true ∧ adm = false))
include hlo hhi hadm

theorem prayr_resetting (hnode : t.bld.node = .recovery) (hserves : serves = false) :
    s.prayr p op fast admin serves ok run = t.rejectPkt p op p.version .nodeResetting [] := by
  simp only [State.prayr, hfront, hlo.not_gt, hhi.not_gt, hadm, or_self, if_false, hnode, hserves, and_self, if_true]

variable (hnode : ¬ (t.bld.node = .recovery ∧ serves = false))
include hnode

theorem prayr_busy (hbusy : t.pathBusy fast = true) :
    s.prayr p op fast admin serves ok run = (t.bump R.HCP_DROP_STATS_BUSY).rejectPkt p op p.version .hcpBusy [] := by
  simp only [State.prayr, hfront, hlo.not_gt, hhi.not_gt, hadm, or_self, hnode, if_false, hbusy, if_true]

variable (hfree : t.pathBusy fast = false)
include hfree

theorem prayr_badPayload (hok : ok = false) :
    s.prayr p op fast admin serves ok run = t.rejectPkt p op p.version .badParam [] := by
  simp only [State.prayr, hfront, hlo.not_gt, hhi.not_gt, hadm, or_self, hnode, if_false, hfree, hok, Bool.false_eq_true,
    Bool.not_false, if_true]

omit ok run in
theorem accept?_passes : s.accept? p op fast admin serves = some (t.hcp.nextRef, (t.onHcp fun h => { h with
      nextRef := t.hcp.nextRef + 1
      exec := h.exec ++ [⟨t.hcp.nextRef, p.key, op, p.version, p.tenant, fast, t.reg R.HCP_PRAYR_UDP_PORT⟩] }).bump
        R.HCP_STATS_COMMANDS) := by
  simp only [State.accept?, hfront, hlo.not_gt, hhi.not_gt, hadm, hnode, hfree, Bool.false_eq_true, or_self, if_false]

end

theorem pathBusy_fast : s.pathBusy true = decide (pathDepth true ≤ s.pathUsed true) := by simp [State.pathBusy]

theorem pathBusy_eq_false {fast : Bool} (hroom : s.pathUsed fast < pathDepth fast) (hserves : fast = false → s.handsOver = false) :
    s.pathBusy fast = false := by
  cases fast <;> simp [State.pathBusy, hroom, hserves]

theorem pathBusy_handsOver (h : s.handsOver = true) : s.pathBusy false = true := by simp [State.pathBusy, h]

/-- The port hears a packet for its address and port, whole and tagged as it accepts (R321, R322). -/
theorem hears_iff {n : NetHdr} {port : Nat} : s.hears n port = true ↔ s.ownAddr n.dst = true ∧ n.fragment = false ∧ n.udpPort = some port
    ∧ n.vlan = (if s.flag R.HCP_PORT_CFG_VLAN_EN = true then some (s.reg R.HCP_PORT_CFG_VID) else none) := by
  simp only [State.hears, State.tagOk, Bool.and_eq_true, Bool.not_eq_true', decide_eq_true_eq, and_assoc]

/-! ### The statement -/

theorem exec_caps : exec (.caps p) s = .next (s.prayr p 0x01 true false true p.payloadOk fun ref t => t.hostReply ref .ok t.capsBytes) := rfl

theorem exec_queryReq (id : Nat) : exec (.queryReq p id) s
    = .next (s.prayr p 0x14 true false false p.payloadOk fun ref t => t.requestCommand (.query id) p.tenant ref) := rfl

/-- A packet that a check before the version's drops. -/
theorem exec_caps_dropped (h : s.unseen p true = (none, t)) : exec (.caps p) s = .next t := by
  rw [exec_caps, prayr_dropped (prayrFront_dropped h)]

theorem unseen_screened (h : s.screen p true = (none, t)) : s.unseen p true = (none, t) := by simp only [State.unseen, h]

/-- Settles O35: the first check a packet fails decides its answer, and one that passes them all is in execution. -/
theorem hostRequestChecks : Obligations.HostRequestChecks := by
  unfold Obligations.HostRequestChecks
  refine ⟨?accepts, ?down, ?unheard, ?noHost, ?cached, ?executing, ?version, ?denied, ?badOpcode, ?resetting, ?busy, ?payload, ?red,
    ?handsOver, ?refill, ?hears⟩
  case accepts =>
    intro s p op fast admin serves lo hi adm hup hform hhears hentry hmeter hcount hcache hexec hkind hmin hmax hlo hhi hadmin hnode
      hroom hfree
    have hscreen := screen_admitted hup hform hhears hentry (fast := fast)
      (police_green (colour_disabled hmeter s.aon p.size) (up32_below hcount))
    have hnone : (s.hcp.cache.find? fun x => decide (x.reply.key = p.key)) = none := by
      simpa [List.find?_eq_none] using hcache
    exact accept?_passes (prayrFront_passes (unseen_new hscreen hnone hexec) hkind hmin hmax) hlo hhi
      (fun h => Bool.false_ne_true (h.2.symm.trans (hadmin h.1))) (fun h => Bool.false_ne_true (h.2.symm.trans (hnode h.1)))
      (pathBusy_eq_false hroom hfree)
  case down =>
    intro s p hdown
    exact exec_caps_dropped (unseen_screened (screen_down hdown))
  case unheard =>
    intro s p hup hbad
    exact exec_caps_dropped (unseen_screened (screen_unheard hup hbad))
  case noHost =>
    intro s p hup hform hhears hentry
    exact exec_caps_dropped (unseen_screened (screen_noHost hup hform hhears hentry))
  case cached =>
    intro s t p e c hscreen hc
    exact exec_caps_dropped (unseen_cached hscreen hc)
  case executing =>
    intro s t p e hscreen hcache hexec
    exact exec_caps_dropped (unseen_executing hscreen hcache hexec)
  case version =>
    intro s t p e hscreen hcache hexec hkind hversion
    rw [exec_caps, prayr_dropped (prayrFront_version (unseen_new hscreen hcache hexec) hkind hversion)]
  case denied =>
    intro s t p cursor max lo hi adm hfront hdenied
    refine congrArg Host.Outcome.next (prayr_denied hfront ?_)
    simpa using hdenied
  case badOpcode =>
    intro s t p op lo hi adm hop hfront hlo hhi
    change Host.Outcome.next _ = _
    simp only [List.contains_eq_mem, hop, decide_false, Bool.false_eq_true, if_false, State.prayrBad, hfront, hlo.not_gt, hhi.not_gt,
      or_self]
  case resetting =>
    intro s t p id lo hi adm hfront hlo hhi hnode
    exact congrArg Host.Outcome.next (prayr_resetting hfront hlo hhi (by simp) hnode rfl)
  case busy =>
    intro s t p id lo hi adm hfront hlo hhi hnode hfull
    exact congrArg Host.Outcome.next (prayr_busy hfront hlo hhi (by simp) (by simp [hnode]) (by simp [pathBusy_fast, hfull]))
  case payload =>
    intro s t p id lo hi adm hfront hlo hhi hnode hroom hpayload
    exact congrArg Host.Outcome.next (prayr_badPayload hfront hlo hhi (by simp) (by simp [hnode])
      (pathBusy_eq_false hroom (by simp)) hpayload)
  case red =>
    intro s p hup hform hhears hentry hmeter hpeak hbytes
    obtain ⟨e, he⟩ := Option.isSome_iff_exists.1 hentry
    exact exec_caps_dropped (unseen_screened (screen_policed hup hform hhears he (police_red (colour_red hmeter hbytes hpeak p.size))))
  case handsOver =>
    intro s t p v lo hi hfront hlo hhi hnode hover _
    exact congrArg Host.Outcome.next (prayr_busy hfront hlo hhi (by simp) (by simp [hnode]) (pathBusy_handsOver hover))
  case refill =>
    intro m now hbytes _ hroom
    exact refill_committed hbytes hroom
  case hears =>
    intro s n port
    exact hears_iff

end Sys2Proof.Machine
end

section
/-! SUPPORT. Host queries (R325, R335, R339, Table 12.3): reads and writes of one register, and the statement. -/

namespace Sys2Proof.Machine

variable {s t : State} {p : HostPkt} {ref addr v : Nat}

/-! ### CSR_READ and CSR_WRITE (R335) -/

theorem csrReads_one (h : (s.csrRead addr).1 = .ok v) : s.csrReads addr [] 1 = ([v], .ok, (s.csrRead addr).2) := by
  rw [State.csrReads]
  split
  · next w u heq =>
    rw [heq] at h ⊢
    cases h
    rfl
  · next st u heq =>
    rw [heq] at h
    cases h

theorem csrWrites_one (h : (s.csrWrite false addr v).2 = .ok) : s.csrWrites addr 0 [v] = (1, .ok, (s.csrWrite false addr v).1) := by
  rw [State.csrWrites]
  split
  · next u heq =>
    rw [heq]
    rfl
  · next u st hst heq =>
    rw [heq] at h
    exact absurd h hst

section
variable {n : Nat} (hn : 1 ≤ n) (hmax : n ≤ 64) (hpayload : p.payloadOk = true)
include hn hmax hpayload

theorem exec_csrRead_here (h : s.accept? p 0x20 true true true = some (ref, t)) : exec (.csrRead p s.node addr n) s
    = .next ((t.csrReads addr [] n).2.2.hostReply ref (t.csrReads addr [] n).2.1 (csrPayload false (t.csrReads addr [] n).1)) := by
  change execCsrRead p s.node addr n s = _
  simp only [execCsrRead, beq_self_eq_true, if_true]
  exact congrArg Host.Outcome.next (prayr_accept h (by simp [hpayload, hn, hmax]))

theorem exec_csrRead_elsewhere {node : Nat} (hnode : node ≠ s.node) (h : s.accept? p 0x20 false true true = some (ref, t)) :
    exec (.csrRead p node addr n) s = .next (t.csrNext ref false node addr (List.replicate n 0) []) := by
  change execCsrRead p node addr n s = _
  simp only [execCsrRead, beq_eq_false_iff_ne.2 hnode, Bool.false_eq_true, if_false]
  exact congrArg Host.Outcome.next (prayr_accept h (by simp [hpayload, hn, hmax]))

end

section
variable (hpayload : p.payloadOk = true)
include hpayload

theorem exec_csrWrite_here
    (h : s.accept? p 0x21 true true (decide (0x10000 ≤ addr ∧ addr + 8 ≤ 0x20000)) = some (ref, t))
    (hplain : t.regionGuarded addr [v] = none) : exec (.csrWrite p s.node addr [v]) s
      = .next ((t.csrWrites addr 0 [v]).2.2.hostReply ref (t.csrWrites addr 0 [v]).2.1 (toBytes 8 (t.csrWrites addr 0 [v]).1)) := by
  change execCsrWrite p s.node addr [v] s = _
  simp only [execCsrWrite, beq_self_eq_true, if_true, Bool.true_and, List.length_singleton, Nat.mul_one, ← Bool.decide_and]
  refine congrArg Host.Outcome.next ((prayr_accept h (by simp [hpayload])).trans ?_)
  simp only [hplain]

theorem exec_csrWrite_elsewhere {node : Nat} (hnode : node ≠ s.node) (h : s.accept? p 0x21 false true false = some (ref, t)) :
    exec (.csrWrite p node addr [v]) s = .next (t.csrNext ref true node addr [v] []) := by
  change execCsrWrite p node addr [v] s = _
  simp only [execCsrWrite, beq_eq_false_iff_ne.2 hnode, Bool.false_and, Bool.false_eq_true, if_false]
  exact congrArg Host.Outcome.next (prayr_accept h (by simp [hpayload]))

end

/-! ### The statement -/

/-- Settles O36: an accepted query is answered from the state it is accepted in, and a register of another node is asked of that
node. -/
theorem hostQueries : Obligations.HostQueries := by
  unfold Obligations.HostQueries
  refine ⟨?nop, ?caps, ?events, ?read, ?readElsewhere, ?write, ?writeElsewhere, ?turn, ?turnRefused, ?release⟩
  case nop =>
    intro s t p ref data h hpayload hlength
    exact congrArg Host.Outcome.next (prayr_accept h (by simp [hpayload, hlength]))
  case caps =>
    intro s t p ref h hpayload
    exact congrArg Host.Outcome.next (prayr_accept h hpayload)
  case events =>
    intro s t p ref cursor max h hpayload hone hmax
    exact congrArg Host.Outcome.next (prayr_accept h (by simp [hpayload, hone, hmax]))
  case read =>
    intro s t p ref addr v h hpayload hv
    rw [exec_csrRead_here (le_refl 1) (by decide) hpayload h, csrReads_one hv]
  case readElsewhere =>
    intro s t p ref node addr n h hpayload hnode hone hmax
    exact exec_csrRead_elsewhere hone hmax hpayload hnode h
  case write =>
    intro s t p ref addr v h hpayload hplain hv
    rw [exec_csrWrite_here hpayload h hplain, csrWrites_one hv]
  case writeElsewhere =>
    intro s t p ref node addr v h hpayload hnode
    exact exec_csrWrite_elsewhere hpayload hnode h
  case turn =>
    intro s t p ref value h hpayload hlicensed hpermits hturning
    refine congrArg Host.Outcome.next ((prayr_accept h hpayload).trans ?_)
    have hgo : t.turnGo value = (t.acceptTurn value, .ok) := by simp [State.turnGo, hlicensed, hpermits, hturning]
    simp only [hgo]
  case turnRefused =>
    intro s t p ref value h hpayload hlicensed hpermits
    refine congrArg Host.Outcome.next ((prayr_accept h hpayload).trans ?_)
    have hgo : t.turnGo value = (t, .badParam) := by simp [State.turnGo, hlicensed, hpermits]
    simp only [hgo]
  case release =>
    intro s k
    rfl

end Sys2Proof.Machine
end

section
/-! SUPPORT. Request-state commands (R64, R66, R92, R218, R330 to R334, R440) and the TOKEN packets (section 12.4): where a command is
acted on, what the home does with each, the new turn of a RESUME, and the statement. -/

namespace Sys2Proof.Machine

variable {s t : State} {p : HostPkt} {ref : Nat}

/-! ### Where a command is acted on (R330) -/

theorem requestCommand_home {c : FwdCmd} (hhome : s.isHome c.id = true) (hserves : s.transitOnly = false) (tenant ref : Nat) :
    s.requestCommand c tenant ref = s.homeCommand c tenant (.here ref) := by
  simp only [State.requestCommand, hhome, hserves, if_true, Bool.false_eq_true, if_false]

theorem toDeputy_noCopy {c : FwdCmd} (h : s.work? c.id = none) (tenant ref : Nat) (st : St) :
    s.toDeputy c tenant ref st = s.hostReply ref st [] := by
  simp only [State.toDeputy, h]

theorem exec_cancel (id : Nat) : exec (.cancel p id) s
    = .next (s.prayr p 0x11 true false false p.payloadOk fun ref t => t.requestCommand (.cancel id) p.tenant ref) := rfl

theorem exec_pause (id ttl : Nat) : exec (.pause p id ttl) s
    = .next (s.prayr p 0x12 true false false p.payloadOk fun ref t => t.requestCommand (.pause id ttl) p.tenant ref) := rfl

theorem exec_setTtl (id ttl : Nat) : exec (.setTtl p id ttl) s
    = .next (s.prayr p 0x16 false false false p.payloadOk fun ref t => t.requestCommand (.setTtl id ttl) p.tenant ref) := rfl

theorem exec_move (id dest : Nat) : exec (.move p id dest) s
    = .next (s.prayr p 0x17 false true false p.payloadOk fun ref t => t.requestCommand (.move id dest) p.tenant ref) := rfl

/-- An accepted RESUME with as many tokens as its block names is a request-state command. -/
theorem exec_resume_accepted {b : ResumeBlock} {tokens : List Nat} (h : s.accept? p 0x13 true false false = some (ref, t))
    (hpayload : p.payloadOk = true) (hlength : tokens.length = if b.promptSrc = 0 then b.promptLength else 0) :
    exec (.resume p b tokens) s = .next (t.requestCommand (.resume b tokens) p.tenant ref) :=
  congrArg Host.Outcome.next (prayr_accept h (by simp [hpayload, hlength]))

/-! ### What the home does with a command -/

section
variable {c : FwdCmd} {h : HomeRec} {rep : ReplyTo}

theorem homeCommand_noRecord (hhome : s.home? c.id = none) (tenant : Nat) : s.homeCommand c tenant rep = s.replyTo rep .noRequest [] := by
  simp only [State.homeCommand, hhome]

theorem homeCommand_checkFails (hhome : s.home? c.id = some h) (hok : h.checkOk = false) (tenant : Nat) :
    s.homeCommand c tenant rep = s.commandLater c tenant rep := by
  simp only [State.homeCommand, hhome, hok, Bool.not_false, if_true]

theorem homeCommand_otherTenant {tenant : Nat} (hhome : s.home? c.id = some h) (hok : h.checkOk = true) (hused : h.r.state ≠ .free)
    (htenant : h.r.tenant ≠ tenant) : s.homeCommand c tenant rep = s.replyTo rep .accessDenied [] := by
  simp only [State.homeCommand, hhome, hok, Bool.not_true, Bool.false_eq_true, if_neg hused, if_pos htenant, if_false]

end

section
variable {h : HomeRec} {rep : ReplyTo} {id : Nat} (hhome : s.home? id = some h) (hok : h.checkOk = true)
include hhome hok

theorem homeCommand_cancel_held (hheld : h.r.state = .queued ∨ h.r.state = .paused ∨ h.r.state = .parked)
    (hplacing : h.placing = none) : s.homeCommand (.cancel id) h.r.tenant rep
      = s.finalise { h with
          r := { h.r with cancelSeen := true }
          waits := h.waits ++ [.cancel rep] } .cancelled .cancelled s.node := by
  rcases hheld with hstate | hstate | hstate <;> simp [State.homeCommand, FwdCmd.id, hhome, hok, hstate, hplacing]

theorem homeCommand_cancel_decode (hstate : h.r.state = .decode) : s.homeCommand (.cancel id) h.r.tenant rep
    = (s.noteHome { h with
        r := { h.r with cancelSeen := true }
        waits := h.waits ++ [.cancel rep] }).forwardWait { h with
          r := { h.r with cancelSeen := true }
          waits := h.waits ++ [.cancel rep] } (.cancel rep) := by
  simp [State.homeCommand, FwdCmd.id, hhome, hok, hstate]

theorem homeCommand_pause_decode {ttl : Nat} (hstate : h.r.state = .decode) (httl : ttl ≤ s.reg R.RSE_TTL_TTL_MAX) :
    s.homeCommand (.pause id ttl) h.r.tenant rep
      = (s.putHome { h with waits := h.waits ++ [.pause ⟨false, ttl, some rep⟩] }).forwardWait
          { h with waits := h.waits ++ [.pause ⟨false, ttl, some rep⟩] } (.pause ⟨false, ttl, some rep⟩) := by
  have haway : ReqState.decode.away = true := rfl
  simp [State.homeCommand, FwdCmd.id, hhome, hok, hstate, Nat.not_lt.2 httl, haway]

theorem homeCommand_query (hused : h.r.state ≠ .free) :
    s.homeCommand (.query id) h.r.tenant rep = s.replyTo rep .ok (s.queryBytes h) := by
  simp [State.homeCommand, FwdCmd.id, hhome, hok, hused]

theorem homeCommand_setTtl_range {ttl : Nat} (hstate : h.r.state = .paused) (httl : s.reg R.RSE_TTL_TTL_MAX < ttl) :
    s.homeCommand (.setTtl id ttl) h.r.tenant rep = s.replyTo rep .ttlRange [] := by
  simp [State.homeCommand, FwdCmd.id, hhome, hok, hstate, httl]

theorem homeCommand_setTtl {ttl k : Nat} {u : State} (hstate : h.r.state = .paused) (httl : ttl ≤ s.reg R.RSE_TTL_TTL_MAX)
    (hk : (if ttl = 0 then s.reg R.RSE_TTL_TTL_DEFAULT else ttl) = k)
    (hu : s.noteHome { h with deadline := some (s.tick + k) } = u) : s.homeCommand (.setTtl id ttl) h.r.tenant rep
      = (u.sendMsgs (.pgTtl h.r.id h.r.epoch k) (((u.ownPages h.r.id).flatMap Page.holders).map (·.1)).dedup).replyTo rep .ok [] := by
  subst hk hu
  simp [State.homeCommand, FwdCmd.id, hhome, hok, hstate, Nat.not_lt.2 httl]

theorem homeCommand_move_decode {dest : Nat} (hstate : h.r.state = .decode) (hdest : h.r.owner ≠ dest) :
    s.homeCommand (.move id dest) h.r.tenant rep
      = (s.putHome { h with waits := h.waits ++ [.move dest rep] }).forwardWait { h with waits := h.waits ++ [.move dest rep] }
          (.move dest rep) := by
  simp [State.homeCommand, FwdCmd.id, hhome, hok, hstate, hdest]

theorem homeCommand_resume_paused {b : ResumeBlock} {tokens : List Nat} (hid : b.id = id) (hstate : h.r.state = .paused) :
    s.homeCommand (.resume b tokens) h.r.tenant rep
      = if s.reg R.PHS_PHASE_STATE = 0 then s.resumeHome h b tokens rep else s.replyTo rep .admissionClosed [] := by
  subst hid
  by_cases hphase : s.reg R.PHS_PHASE_STATE = 0 <;> simp [State.homeCommand, FwdCmd.id, hhome, hok, hstate, hphase]

end

/-! ### The new turn of a RESUME (R334) -/

/-- The record a RESUME's new turn starts with. -/
def resumedRecord (h : HomeRec) (b : ResumeBlock) (tokens : List Nat) : Record :=
  { h.r with
    historyLength := h.r.historyLength + h.r.genCommitted + b.promptLength
    genCommitted := 0
    streamed := 0
    stepCount := 0
    maxNewTokens := b.maxNew
    ttlTicks := b.ttl
    replyStream := b.replyStream
    state := .queued
    lastToken := if b.promptLength = 0 then h.r.lastToken else tokens.getLastD 0 }

/-- What lets the home start a PAUSED record's new turn at once: no change, deferral or rebase of it is due, and the block is within
its limits with its tokens at hand. -/
structure Resumable (s : State) (h : HomeRec) (b : ResumeBlock) (tokens : List Nat) : Prop where
  settled : s.pendingChange h.r.id = false
  current : h.deferred = none
  young : s.mustRebase h.r = false
  paused : h.r.state = .paused
  rsvd : b.rsvdOk = true
  source : b.promptSrc ≤ 1
  prompt : b.promptLength ≤ 16777216
  maxNew : 0 < b.maxNew
  ttl : b.ttl ≤ s.reg R.RSE_TTL_TTL_MAX
  tokens : tokens.length = b.promptLength

theorem resumeTurn_paused {h : HomeRec} {b : ResumeBlock} {tokens : List Nat} {rep : ReplyTo} {u : State} (hstate : h.r.state = .paused)
    (hwrite : s.writeHistory (resumedRecord h b tokens) (resumeHistory h tokens) = some u) : s.resumeTurn h b tokens rep
      = u.change { h with
          r := resumedRecord h b tokens
          history := resumeHistory h tokens
          deadline := none } (.resume rep) := by
  unfold resumedRecord at hwrite
  simp only [State.resumeTurn, hstate, reduceCtorEq, decide_false, Bool.false_and, Bool.false_eq_true, if_false, resumedRecord, hwrite]

theorem resumeHome_resumable {h : HomeRec} {b : ResumeBlock} {tokens : List Nat} {rep : ReplyTo} {u : State}
    (hr : Resumable s h b tokens) (hwrite : s.writeHistory (resumedRecord h b tokens) (resumeHistory h tokens) = some u) :
    s.resumeHome h b tokens rep
      = u.change { h with
          r := resumedRecord h b tokens
          history := resumeHistory h tokens
          deadline := none } (.resume rep) := by
  obtain ⟨hsettled, hcurrent, hyoung, hpaused, hrsvd, hsource, hprompt, hnew, httl, htokens⟩ := hr
  refine Eq.trans ?_ (resumeTurn_paused hpaused hwrite)
  simp [State.resumeHome, hsettled, hcurrent, hyoung, hrsvd, Nat.not_lt.2 hsource, Nat.not_lt.2 hprompt, Nat.ne_of_gt hnew,
    Nat.not_lt.2 httl, htokens]

theorem homeCommand_resume_resumable {h : HomeRec} {b : ResumeBlock} {tokens : List Nat} {rep : ReplyTo} {u : State}
    (hhome : s.home? b.id = some h) (hok : h.checkOk = true) (hphase : s.reg R.PHS_PHASE_STATE = 0) (hr : Resumable s h b tokens)
    (hwrite : s.writeHistory (resumedRecord h b tokens) (resumeHistory h tokens) = some u) :
    s.homeCommand (.resume b tokens) h.r.tenant rep
      = u.change { h with
          r := resumedRecord h b tokens
          history := resumeHistory h tokens
          deadline := none } (.resume rep) := by
  rw [homeCommand_resume_paused hhome hok rfl hr.paused, if_pos hphase, resumeHome_resumable hr hwrite]

/-! ### SUBMIT (R331 to R333) -/

/-- An accepted SUBMIT whose payload is whole is checked as its block says. -/
theorem exec_submit_accepted {b : SubmitBlock} {tokens : List Nat} (h : s.accept? p 0x10 true false false = some (ref, t))
    (hpayload : p.payloadOk = true) :
    exec (.submit p b tokens) s = .next (t.submit b tokens p.tenant p.src p.port ref) := by
  have hb : { b with rsvdOk := b.rsvdOk && p.payloadOk } = b := by rw [hpayload, Bool.and_true]
  refine congrArg Host.Outcome.next ((prayr_accept h rfl).trans ?_)
  exact congrArg (fun b => t.submit b tokens p.tenant p.src p.port ref) hb

theorem submit_closed (h : s.admitting = false) (b : SubmitBlock) (tokens : List Nat) (tenant src port ref : Nat) :
    s.submit b tokens tenant src port ref = s.hostReply ref .admissionClosed [] := by
  simp only [State.submit, State.submitCheck, h, Bool.not_false, if_true]

theorem submit_inline {b : SubmitBlock} {tokens : List Nat} {tenant src port ref ps : Nat} {slot : Bool} {u : State}
    (hslot : s.freeSlot = (slot, u)) (hps : ((u.model? b.modelId).map (·.pageSize)).getD 0 = ps)
    (hcheck : s.submitCheck b tenant tokens (slot && (u.framesFit ps (u.promptPages b)
      && u.promptPages b + u.reservedEntries ≤ u.freeEntries)) = none) (hinline : b.promptSrc = 0) :
    s.submit b tokens tenant src port ref = u.submitGo b tenant src port ref ps tokens := by
  subst hps
  simp only [State.submit, hslot, hcheck, hinline, if_true]

theorem submitGo_written {b : SubmitBlock} {tenant src port ps id : Nat} {tokens : List Nat} {v w : State} (hid : s.newId = (id, v))
    (hwrite : v.writeHistory (v.submitRecord b id tenant src port ps tokens) tokens = some w) :
    s.submitGo b tenant src port ref ps tokens
      = w.change { homeOf (v.submitRecord b id tenant src port ps tokens) tokens with
          prefixKey := b.prefixKey
          prefixLen := b.prefixLength } (.submit (.here ref)) := by
  simp only [State.submitGo, hid, hwrite]

theorem newId_below (h : s.rse.nextCount < 2 ^ 32) : s.newId = (s.node * 2 ^ 48 + s.rse.generation * 2 ^ 32 + s.rse.nextCount,
    s.onRse fun e => { e with nextCount := e.nextCount + 1 }) := by
  simp only [State.newId, if_neg (Nat.not_le.2 h)]

/-! ### Prompts read from the host (R333) -/

theorem roceRemove_noQps (h : s.hcp.qps = []) (use : RoceUse) : s.roceRemove use = s := by
  simp only [State.roceRemove, h, List.find?_nil]

theorem exec_submitPromptReadDone (h : s.hcp.qps = []) (ref : Nat) (st : St) (tokens : List Nat) :
    exec (.submitPromptReadDone ref st tokens) s = .next (s.submitRead ref st tokens) := by
  change execSubmitPromptReadDone ref st tokens s = _
  rw [execSubmitPromptReadDone, roceRemove_noQps h]

theorem exec_resumePromptReadDone (h : s.hcp.qps = []) (ref : Nat) (st : St) (tokens : List Nat) :
    exec (.resumePromptReadDone ref st tokens) s = .next (s.resumeReadDone ref st tokens) := by
  change execResumePromptReadDone ref st tokens s = _
  rw [execResumePromptReadDone, roceRemove_noQps h]

theorem unreserve_hcp (s : State) (id : Nat) : (s.unreserve id).hcp = s.hcp :=
  (kept_watermark (κ := onlyPart .hcp) (Kept.refl _) (off_onlyPart (by decide))).same (onlyPart_self .hcp)

theorem submitRead_only {b : SubmitBlock} {tenant src port ps : Nat} (h : s.hcp.later = [.submit ref b tenant src port ps]) (st : St)
    (tokens : List Nat) : s.submitRead ref st tokens
      = let t := (s.unreserve (2 ^ 64 + ref)).onHcp fun h => { h with later := [] }
        if st = .ok ∧ tokens.length = b.promptLength then t.submitGo b tenant src port ref ps tokens
        else t.hostReply ref .hostReadFailed [] := by
  simp [State.submitRead, h, State.onHcp, unreserve_hcp]

theorem resumeReadDone_only {b : ResumeBlock} {tenant : Nat} {rep : ReplyTo} (h : s.hcp.later = [.resume ref b tenant rep]) (st : St)
    (tokens : List Nat) : s.resumeReadDone ref st tokens
      = let t := s.onHcp fun h => { h with later := [] }
        if st = .ok ∧ tokens.length = b.promptLength then t.homeCommand (.resume b tokens) tenant rep
        else t.replyTo rep .hostReadFailed [] := by
  simp [State.resumeReadDone, h, State.onHcp]

/-! ### TOKEN packets (R337) -/

theorem bump_rse (s : State) (f : Fld) : (s.bump f).rse = s.rse :=
  (kept_bump (κ := onlyPart .rse) (Kept.refl s) (off_onlyPart (by decide)) f).same (onlyPart_self .rse)

theorem bump_hcp (s : State) (f : Fld) : (s.bump f).hcp = s.hcp :=
  (kept_bump (κ := onlyPart .hcp) (Kept.refl s) (off_onlyPart (by decide)) f).same (onlyPart_self .hcp)

/-- A TOKEN_ACK that passes the checks of a request of the fast path is acted on (R325). -/
theorem exec_tokenAck_passes {lo hi id epoch next : Nat} {adm : Bool} (h : s.unseen p true = (some (lo, hi, adm), t)) (hkind : p.kind = 0)
    (hmin : t.reg R.PHS_VERSIONS_PRAYR_MIN ≤ p.version) (hmax : p.version ≤ t.reg R.PHS_VERSIONS_PRAYR_MAX) (hlo : lo ≤ p.tenant)
    (hhi : p.tenant ≤ hi) (hpayload : p.payloadOk = true) (hnode : t.bld.node ≠ .recovery) (hbusy : t.pathBusy true = false) :
    exec (.tokenAck p id epoch next) s = .next ((t.bump R.HCP_STATS_COMMANDS).tokenAck id epoch next) := by
  change execTokenAck p id epoch next s = _
  simp [execTokenAck, h, hkind, Nat.not_lt.2 hmin, Nat.not_lt.2 hmax, Nat.not_lt.2 hlo, Nat.not_lt.2 hhi, hpayload, hnode, hbusy]

theorem tokenAck_owned {id next : Nat} {w : Work} (hw : s.work? id = some w) (hstatus : w.status = .owned)
    (hmode : s.flag R.HCP_TOKEN_CFG_ACK_MODE = true) : s.tokenAck id w.r.epoch next
      = s.drainTokens (s.hcp.tokens.filter fun x => x.id == id && x.pos + x.tokens.length ≤ next) := by
  simp [State.tokenAck, hw, hstatus, hmode]

section
variable {k : TokenPkt} (hmode : s.flag R.HCP_TOKEN_CFG_ACK_MODE = true) (hup : s.hostUp = true) (htokens : s.hcp.tokens = [k])
  (hsent : k.sent = true)
include hmode hup htokens hsent

theorem exec_tokenRetx_again (hlimit : s.reg R.HCP_TOKEN_CFG_RETX_LIMIT = 0) : exec (.tokenRetxExpiry k.id) s
    = .next (((s.onHcp fun h => { h with tokens := [{ k with retx := k.retx + 1 }] }).bump
        R.HCP_DROP_STATS_TOKEN_RETX).hostSend 0 (.token k)) := by
  change execTokenRetxExpiry k.id s = _
  simp [execTokenRetxExpiry, hmode, hup, htokens, hsent, hlimit, State.onHcp, updateAll]

theorem exec_tokenRetx_dropped (hlimit : s.reg R.HCP_TOKEN_CFG_RETX_LIMIT ≠ 0) (hover : s.reg R.HCP_TOKEN_CFG_RETX_LIMIT ≤ k.retx) :
    exec (.tokenRetxExpiry k.id) s
      = .next (((s.drainToken k).count R.HCP_DROP_STATS_TOKEN_DROPPED 1).post .tokenDropped (s.reqCtx k.id)
          ((max 0 (k.pos + k.tokens.length - 1)) * 2 ^ 32 + min k.pos k.pos, k.id)) := by
  change execTokenRetxExpiry k.id s = _
  simp [execTokenRetxExpiry, hmode, hup, htokens, hsent, hlimit, hover, State.drainTokens]

end

/-! ### The statement -/

/-- Settles O37: an accepted command goes to its home, and what the home does turns on the record's state alone. That a command of an
unreachable home goes to the deputy of this node's own copy is the model's choice (log entry 100), and so is that a RESUME during a turn
is refused by the home (log entry 66). -/
theorem hostRequestCommands : Obligations.HostRequestCommands := by
  unfold Obligations.HostRequestCommands
  refine ⟨?routed, ?deputy, ?noCopy, ?resumeRouted, ?noRecord, ?otherTenant, ?cancelQueued, ?pauseDecode, ?resumePaused, ?checkFails,
    ?query, ?ttlRange, ?moveDecode, ?closed, ?submit, ?record, ?change, ?finish, ?newId, ?notRead, ?readFailed, ?promptRead,
    ?resumeRead, ?execCancel, ?execCancelDecode, ?execPause, ?execQuery, ?execSetTtl, ?execMove, ?resumeHome, ?execResume,
    ?execResumeRead, ?tokenAck, ?transmit, ?again, ?dropped⟩
  case routed =>
    intro s t p ref op fast admin c f id n hmem h hpayload
    simp only [List.mem_cons, Prod.mk.injEq, List.not_mem_nil, or_false] at hmem
    rcases hmem with ⟨rfl, rfl, rfl, rfl, rfl⟩ | ⟨rfl, rfl, rfl, rfl, rfl⟩ | ⟨rfl, rfl, rfl, rfl, rfl⟩ | ⟨rfl, rfl, rfl, rfl, rfl⟩
      | ⟨rfl, rfl, rfl, rfl, rfl⟩ <;> exact congrArg Host.Outcome.next (prayr_accept h hpayload)
  case deputy =>
    intro s c tenant ref st w hw hmirrored hreach hdeputy
    simp only [State.toDeputy, hw, hmirrored, hreach, bne_iff_ne.2 hdeputy, Bool.not_false, Bool.and_self, if_true]
    rfl
  case noCopy =>
    intro s c tenant ref st h
    exact toDeputy_noCopy h tenant ref st
  case resumeRouted =>
    intro s t p ref b tokens h hpayload hlength hhome hserves
    rw [exec_resume_accepted h hpayload hlength, requestCommand_home hhome hserves]
  case noRecord =>
    intro s c tenant rep h
    exact homeCommand_noRecord h tenant
  case otherTenant =>
    intro s c tenant rep h hhome hok hused htenant
    exact homeCommand_otherTenant hhome hok hused htenant
  case cancelQueued =>
    intro s id rep h hhome hok hstate hplacing
    exact homeCommand_cancel_held hhome hok (.inl hstate) hplacing
  case pauseDecode =>
    intro s id ttl rep h hhome hok hstate httl
    exact homeCommand_pause_decode hhome hok hstate httl
  case resumePaused =>
    intro s b tokens rep h hhome hok hstate
    exact homeCommand_resume_paused hhome hok rfl hstate
  case checkFails =>
    intro s c tenant rep h hhome hok
    exact homeCommand_checkFails hhome hok tenant
  case query =>
    intro s id rep h hhome hok hused
    exact homeCommand_query hhome hok hused
  case ttlRange =>
    intro s id ttl rep h hhome hok hstate httl
    exact homeCommand_setTtl_range hhome hok hstate httl
  case moveDecode =>
    intro s id dest rep h hhome hok hstate hdest
    exact homeCommand_move_decode hhome hok hstate hdest
  case closed =>
    intro s t p ref b tokens h hpayload hclosed
    rw [exec_submit_accepted h hpayload, submit_closed hclosed]
  case submit =>
    intro s t p ref b tokens id v w h hpayload u ps hcheck hinline hid hwrite
    rw [exec_submit_accepted h hpayload, submit_inline (Prod.eta t.freeSlot).symm rfl hcheck hinline, submitGo_written hid hwrite]
  case record =>
    intro s b id tenant src port ps tokens r
    exact ⟨rfl, rfl, rfl, rfl, rfl, rfl, rfl, rfl, rfl, rfl, rfl, rfl⟩
  case change =>
    intro s new c hmirrors
    simp only [State.change, hmirrors, Bool.not_false, if_true]
  case finish =>
    intro s id ref h hhome
    simp only [State.finish, hhome]
  case newId =>
    intro s h
    exact newId_below h
  case notRead =>
    intro s ref st tokens hqps hlater
    rw [exec_submitPromptReadDone hqps]
    simp only [State.submitRead, hlater, List.findSome?_nil]
  case readFailed =>
    intro s ref tenant src port ps b st tokens hqps hlater hfailed
    rw [exec_submitPromptReadDone hqps, submitRead_only hlater]
    exact congrArg Host.Outcome.next (if_neg fun ⟨hst, hlength⟩ => hfailed.elim (· hst) (· hlength))
  case promptRead =>
    intro s ref tenant src port ps b tokens id v w hqps hlater hlength hid hwrite
    rw [exec_submitPromptReadDone hqps, submitRead_only hlater, ← submitGo_written hid hwrite]
    exact congrArg Host.Outcome.next (if_pos ⟨rfl, hlength⟩)
  case resumeRead =>
    intro s ref tenant b rep st tokens hqps hlater
    rw [exec_resumePromptReadDone hqps, resumeReadDone_only hlater]
  case execCancel =>
    intro s t p ref id h ha hpayload hhere hserves hhome hok htenant hheld hplacing
    rw [exec_cancel, prayr_accept ha hpayload, requestCommand_home hhere hserves, ← htenant,
      homeCommand_cancel_held hhome hok hheld hplacing]
  case execCancelDecode =>
    intro s t p ref id h ha hpayload hhere hserves hhome hok htenant hstate
    rw [exec_cancel, prayr_accept ha hpayload, requestCommand_home hhere hserves, ← htenant,
      homeCommand_cancel_decode hhome hok hstate]
  case execPause =>
    intro s t p ref id ttl h ha hpayload hhere hserves hhome hok htenant hstate httl
    rw [exec_pause, prayr_accept ha hpayload, requestCommand_home hhere hserves, ← htenant,
      homeCommand_pause_decode hhome hok hstate httl]
  case execQuery =>
    intro s t p ref id h ha hpayload hhere hserves hhome hok htenant hused
    rw [exec_queryReq, prayr_accept ha hpayload, requestCommand_home hhere hserves, ← htenant, homeCommand_query hhome hok hused]
    rfl
  case execSetTtl =>
    intro s t p ref id ttl h ha hpayload hhere hserves hhome hok htenant hstate httl k u
    rw [exec_setTtl, prayr_accept ha hpayload, requestCommand_home hhere hserves, ← htenant,
      homeCommand_setTtl hhome hok hstate httl rfl rfl]
    rfl
  case execMove =>
    intro s t p ref id dest h ha hpayload hhere hserves hhome hok htenant hstate hdest
    rw [exec_move, prayr_accept ha hpayload, requestCommand_home hhere hserves, ← htenant,
      homeCommand_move_decode hhome hok hstate hdest]
  case resumeHome =>
    intro s h b tokens rep u hsettled hcurrent hyoung hpaused hrsvd hsource hprompt hnew httl htokens hist r hwrite
    exact resumeHome_resumable ⟨hsettled, hcurrent, hyoung, hpaused, hrsvd, hsource, hprompt, hnew, httl, htokens⟩ hwrite
  case execResume =>
    intro s t p ref b tokens h u ha hpayload hhere hserves hhome hok htenant hphase hsettled hcurrent hyoung hpaused hrsvd hinline
      hprompt hnew httl htokens hist r hwrite
    have hr : Resumable t h b tokens :=
      ⟨hsettled, hcurrent, hyoung, hpaused, hrsvd, hinline.trans_le (Nat.zero_le 1), hprompt, hnew, httl, htokens⟩
    rw [exec_resume_accepted ha hpayload (by rw [if_pos hinline, htokens]), requestCommand_home hhere hserves, ← htenant,
      homeCommand_resume_resumable hhome hok hphase hr hwrite]
    rfl
  case execResumeRead =>
    intro s ref b tokens rep h u hqps hlater hhome hok hphase hsettled hcurrent hyoung hpaused hrsvd hsource hprompt hnew httl htokens
      t hist r hwrite
    have hr : Resumable t h b tokens := ⟨hsettled, hcurrent, hyoung, hpaused, hrsvd, hsource, hprompt, hnew, httl, htokens⟩
    rw [exec_resumePromptReadDone hqps, resumeReadDone_only hlater]
    refine congrArg Host.Outcome.next ((if_pos ⟨rfl, htokens⟩).trans ?_)
    exact homeCommand_resume_resumable (s := t) hhome hok hphase hr hwrite
  case tokenAck =>
    intro s t p lo hi id next adm w h hkind hmin hmax hlo hhi hpayload hnode hroom hw hstatus hmode
    have hcopy : (t.bump R.HCP_STATS_COMMANDS).work? id = some w := by rw [State.work?, bump_rse]; exact hw
    have hack : (t.bump R.HCP_STATS_COMMANDS).flag R.HCP_TOKEN_CFG_ACK_MODE = true := by
      rw [State.flag, reg_bump_ne t (f := R.HCP_STATS_COMMANDS) (g := R.HCP_TOKEN_CFG_ACK_MODE) (by decide)]
      exact hmode
    rw [exec_tokenAck_passes h hkind hmin hmax hlo hhi hpayload hnode (pathBusy_eq_false hroom fun h => nomatch h),
      tokenAck_owned hcopy hstatus hack, bump_hcp]
  case transmit =>
    intro s k hfind hup
    change execTokenTransmit s = _
    simp only [execTokenTransmit, hfind, hup, if_true]
  case again =>
    intro s k hmode hup htokens hsent hlimit
    exact exec_tokenRetx_again hmode hup htokens hsent hlimit
  case dropped =>
    intro s k hmode hup htokens hsent hlimit hover
    exact exec_tokenRetx_dropped hmode hup htokens hsent hlimit hover

end Sys2Proof.Machine
end

section
/-! SUPPORT. The host port (R320 to R322, R337, R342, R343, R348 to R350): its own answers, the next hop, its state, register writes,
the releases of its shapers, and the statement. -/

namespace Sys2Proof.Machine

variable {s : State}

/-! ### Where the port sends (R321) -/

theorem isV4_iff {a : Nat} : isV4 a = true ↔ a / 2 ^ 32 = 0xFFFF := beq_iff_eq

/-- An IPv4 address outside the configured network goes to the gateway. -/
theorem nextHop_v4_gateway {a : Nat} (hv4 : a / 2 ^ 32 = 0xFFFF) (hgw : s.reg R.HCP_IPV4_GW_GW ≠ 0)
    (hout : a % 2 ^ 32 / 2 ^ (32 - s.reg R.HCP_IPV4_PREFIX_LEN) ≠ s.reg R.HCP_IPV4_ADDR / 2 ^ (32 - s.reg R.HCP_IPV4_PREFIX_LEN)) :
    s.nextHop a = 0xFFFF * 2 ^ 32 + s.reg R.HCP_IPV4_GW_GW := by
  simp only [State.nextHop, isV4_iff.2 hv4, if_true, beq_eq_false_iff_ne.2 hout, hgw, if_false, Bool.false_or, decide_eq_true_eq,
    Nat.add_eq_zero_iff, and_false]

/-- A link-local address is on the port's link (log entry 56). -/
theorem nextHop_linkLocal {a : Nat} (h : a / 2 ^ 118 = 0x3FA) : s.nextHop a = a := by
  have hv6 : isV4 a = false := beq_eq_false_iff_ne.2 fun hv4 => by omega
  simp only [State.nextHop, hv6, h, beq_self_eq_true, Bool.true_or, if_true, Bool.false_eq_true, if_false]

theorem portAnswer_up (hup : s.hostUp = true) (own : Bool) (o : HostOut) :
    s.portAnswer own o = if own = true then s.hostEmit o else s.bump R.HCP_STATS_CHECK_DROPS := by
  simp only [State.portAnswer, hup, Bool.not_true, Bool.false_eq_true, if_false]

/-! ### The shapers (R342, R343) -/

theorem shaperAt_class {k : Nat} (hk : k < 4) : shaperAt (0x20100 + 8 * k) = k := by
  rw [shaperAt, if_pos (by omega)]
  omega

theorem shaperAt_composition (k : Nat) : shaperAt (0x20200 + 8 * k) = 4 + k := by
  rw [shaperAt, if_neg (by omega)]
  omega

theorem shaperFill_node (s : State) (k : Nat) : (s.shaperFill k).node = s.node := rfl

theorem exec_shaperWrite (addr v : Nat) : exec (.shaperWrite addr v) s = .next ((s.writeRw addr v).shaperFill (shaperAt addr)) := rfl

theorem eligible_of_covers {k : Nat} {o : HostOut} (hhead : s.heldHead k = some o) (hcovers : s.shaperCovers k o.bits = true) :
    s.eligible k = true := by
  simp only [State.eligible, hhead, Option.any_some, hcovers]

/-- The class that goes next while class 0 has nothing to send is one of the other three. -/
theorem nextClass_ne_zero {c : Nat} (h0 : s.eligible 0 = false) (h : s.nextClass = some c) : c ≠ 0 := by
  rw [State.nextClass, h0] at h
  obtain ⟨i, -, hi⟩ := List.mem_map.1 (List.mem_of_find?_eq_some h)
  omega

theorem exec_shaperRelease_class {c k : Nat} {o : HostOut} (hup : s.hostUp = true) (hk : k < 4) (heligible : s.eligible k = true)
    (hnext : s.nextClass = some c) (hhead : s.heldHead c = some o) : exec (.shaperRelease k) s
      = .next ((((s.onHcp fun h => { h with
          held := dropFirst (c, o) h.held
          lastClass := if c = 0 then h.lastClass else c }).shaperTake c o.bits).hostEmit o).transmitted o) := by
  change execShaperRelease k s = _
  simp only [execShaperRelease, if_pos hk, hup, heligible, Bool.not_true, Bool.or_false, Bool.false_eq_true, if_false, hnext, hhead]

theorem hostSend_holds {cls : Nat} {o : HostOut} (hup : s.hostUp = true) (h : s.hostHolds cls o = true) :
    s.hostSend cls o = s.onHcp fun x => { x with held := x.held ++ [(cls, o)] } := by
  have hstate : s.reg R.HCP_PORT_STATUS_STATE = 2 := beq_iff_eq.1 hup
  simp only [State.hostSend, hstate, ne_eq, not_true_eq_false, if_false, h, if_true]

theorem hostSend_goes {cls : Nat} {o : HostOut} (hup : s.hostUp = true) (h : s.hostHolds cls o = false) :
    s.hostSend cls o = (s.shaperTake cls o.bits).hostEmit o := by
  have hstate : s.reg R.HCP_PORT_STATUS_STATE = 2 := beq_iff_eq.1 hup
  simp only [State.hostSend, hstate, ne_eq, not_true_eq_false, if_false, h, Bool.false_eq_true]

/-! ### The statement -/

/-- Settles O38: an answer of the port's own needs its tag and its address, and a shaper's release goes by class. The next hop and a
tag mismatch counted as a dropped packet are the model's choices (log entry 98), and so is fe80::/10 taken as on-link (log entry 56). -/
theorem hostPort : Obligations.HostPort := by
  unfold Obligations.HostPort
  refine ⟨?drop, ?arp, ?neighbour, ?echo, ?emit, ?gateway, ?linkLocal, ?up, ?down, ?mtuRange, ?mtu, ?address, ?dscpRange, ?plain,
    ?rates, ?bursts, ?classWrite, ?compWrite, ?release, ?releaseTurn, ?releaseComp, ?token⟩
  case drop =>
    intro s
    rfl
  case arp =>
    intro s vlan target asker hup
    change Host.Outcome.next (s.portAnswer (s.tagOk vlan && s.ownV4 target) (.arp target asker)) = _
    simp only [portAnswer_up hup, Bool.and_eq_true, State.ownV4, bne_iff_ne, beq_iff_eq]
  case neighbour =>
    intro s vlan target asker hup
    change Host.Outcome.next (s.portAnswer (s.tagOk vlan && s.ownV6 target) (.neighbour target asker)) = _
    simp only [portAnswer_up hup, Bool.and_eq_true]
  case echo =>
    intro s vlan target asker d hup
    change Host.Outcome.next (s.portAnswer (s.tagOk vlan && s.ownAddr target) (.echo asker d)) = _
    simp only [portAnswer_up hup, Bool.and_eq_true]
  case emit =>
    intro s o h
    simp only [State.hostEmit, h, Bool.false_eq_true, if_false]
  case gateway =>
    intro s a hv4 hgw hout
    exact nextHop_v4_gateway hv4 hgw hout
  case linkLocal =>
    intro s a h
    exact nextHop_linkLocal h
  case up =>
    intro s hdown hnode hoff href hlow hhigh
    change execHostPortUp s = _
    have htrains : s.hostTrains = true := by simp [State.hostTrains, hdown, hnode, hoff, href, hlow, hhigh]
    have hnode' : (s.setRegs [(R.HCP_PORT_STATUS_STATE, 2), (R.HCP_PORT_STATUS_LANES_UP, 0xFF)]).node = s.node :=
      setRegs_node (by decide)
    simp only [execHostPortUp, htrains, Bool.not_true, Bool.false_eq_true, if_false, shaperFill_node, hnode']
  case down =>
    intro s hup
    exact congrArg Host.Outcome.next (if_pos hup)
  case mtuRange =>
    intro s v h
    change Host.Outcome.next (s.hcpWrite 0x10000 v).1 = _
    simp only [State.hcpWrite, if_true, if_pos h]
  case mtu =>
    intro s v hlow hhigh hvlan
    have hrange : ¬(v % 65536 < 1280 ∨ 9000 < v % 65536) := by omega
    change Host.Outcome.next (s.hcpWrite 0x10000 v).1 = _
    simp only [State.hcpWrite, if_true, if_neg hrange, hvlan, bne_self_eq_false, Bool.false_eq_true, if_false]
  case address =>
    intro s v h
    change Host.Outcome.next (s.hcpWrite 0x10018 v).1 = _
    simp only [State.hcpWrite, Nat.reduceEqDiff, if_false, if_true, if_neg (Nat.not_lt.2 h)]
    split <;> rfl
  case dscpRange =>
    intro s v h
    change Host.Outcome.next (s.hcpWrite 0x10090 v).1 = _
    simp [State.hcpWrite, h]
  case plain =>
    intro s v
    change Host.Outcome.next (s.hcpWrite 0x10040 v).1 = _
    simp [State.hcpWrite]
  case rates =>
    intro s v
    change Host.Outcome.next (s.meterWrite 0x20010 v).1 = _
    simp only [State.meterWrite, if_true]
  case bursts =>
    intro s v
    change Host.Outcome.next (s.meterWrite 0x20018 v).1 = _
    simp only [State.meterWrite, Nat.reduceEqDiff, if_false, if_true, Bool.and_eq_true, Bool.or_eq_true, beq_iff_eq]
    split <;> rfl
  case classWrite =>
    intro s k v hk
    rw [exec_shaperWrite, shaperAt_class hk]
  case compWrite =>
    intro s k v _
    rw [exec_shaperWrite, shaperAt_composition]
  case release =>
    intro s o hup hhead hcovers
    have heligible := eligible_of_covers hhead hcovers
    rw [exec_shaperRelease_class hup (by decide) heligible (if_pos heligible) hhead]
    rfl
  case releaseTurn =>
    intro s c k o hup _ hk heligible h0 hnext hhead
    rw [exec_shaperRelease_class hup hk heligible hnext hhead]
    simp only [if_neg (nextClass_ne_zero h0 hnext)]
  case releaseComp =>
    intro s c f hfind hcovers
    change execShaperRelease (4 + c) s = _
    simp only [execShaperRelease, if_neg (Nat.not_lt.2 (Nat.le_add_right 4 c)), Nat.add_sub_cancel_left, hfind, hcovers, if_true]
  case token =>
    intro s k hmode hup
    cases hholds : s.hostHolds 0 (.token k)
    · have hflag : ((s.shaperTake 0 (HostOut.token k).bits).hostEmit (.token k)).flag R.HCP_TOKEN_CFG_ACK_MODE = false := by
        rw [← hostSend_goes hup hholds, State.flag, reg_hostSend]
        exact hmode
      simp only [State.sendToken, hmode, hholds, hostSend_goes hup hholds, State.transmitted, hflag, Bool.false_eq_true, if_false]
    · simp only [State.sendToken, hmode, hholds, hostSend_holds hup hholds, Bool.false_eq_true, if_false, if_true]

end Sys2Proof.Machine
end

section
/-! SUPPORT. RoCEv2 and board management (R344 to R347): how a host-initiated access is taken or refused, the writes of a window's first
register, the I3C target's map, and the statement. -/

namespace Sys2Proof.Machine

variable {s t u : State} {p : HostPkt} {ref : Nat}

/-! ### Queue pairs (R344, R345) -/

theorem exec_qpSetup_accepted {c : QpCfg} (h : s.accept? p 0x32 false true true = some (ref, t)) (hpayload : p.payloadOk = true)
    (hok : c.ok = true) : exec (.qpSetup p c) s = .next (if (t.qp? c.index).isSome then t.hostReply ref .tableBusy []
      else (t.putQp c.qp).hostReply ref .ok (toBytes 8 (0x100 + c.index))) :=
  congrArg Host.Outcome.next (prayr_accept h (by simp [hpayload, hok]))

theorem qpDestroy_some {i : Nat} {q : Qp} (h : s.qp? i = some q) :
    s.qpDestroy i = (s.onHcp fun h => { h with qps := h.qps.filter fun x => x.index != i }).roceFails q.ops := by
  simp only [State.qpDestroy, h]

theorem roceFront_unheard {h : RoceHdr} (hup : s.hostUp = true) (hnet : s.hears h.net rocePort = false) :
    s.roceFront h = (none, s.bump R.HCP_STATS_CHECK_DROPS) := by
  simp only [State.roceFront, hup, hnet, Bool.not_true, Bool.not_false, Bool.false_eq_true, if_false, if_true]

theorem roceFront_ready {h : RoceHdr} {q : Qp} (hup : s.hostUp = true) (hnet : s.hears h.net rocePort = true) (hq : s.qp? h.qp = some q)
    (hready : q.error = false) : s.roceFront h = (some q, s.marked h.qp h.ecn) := by
  simp only [State.roceFront, hup, hnet, hq, hready, Bool.not_true, Bool.false_eq_true, if_false]

/-! ### Host-initiated accesses (R346; sequence numbers as log entry 99 presumes) -/

section
variable {h : RoceHdr} {q : Qp}

theorem psnPlace_due (hpsn : h.psn = q.rqPsn) : q.psnPlace h.psn = .due := if_pos hpsn

/-- An access inside the profile, of a length it has, within MAX_READS. -/
theorem access_wellFormed {len reads : Nat} (hinside : h.outside = false) (hpos : 1 ≤ len) (hmax : len ≤ 2 ^ 31)
    (hreads : reads ≤ q.maxReads) : ¬(h.outside = true ∨ len < 1 ∨ 2 ^ 31 < len ∨ q.maxReads < reads) := by
  simp only [hinside, Bool.false_eq_true, false_or]
  omega

theorem roceRefuse_ahead (hplace : q.psnPlace h.psn = .ahead) (len reads : Nat) (win : Option Nat) :
    s.roceRefuse q h len reads win = some .sequence := if_pos hplace

theorem roceRefuse_invalid {len reads : Nat} (hplace : q.psnPlace h.psn ≠ .ahead)
    (hbad : h.outside = true ∨ len < 1 ∨ 2 ^ 31 < len ∨ q.maxReads < reads) (win : Option Nat) :
    s.roceRefuse q h len reads win = some .invalid := by
  rw [State.roceRefuse, if_neg hplace, if_pos hbad]

theorem roceRefuse_access {len reads : Nat} (hplace : q.psnPlace h.psn ≠ .ahead)
    (hgood : ¬(h.outside = true ∨ len < 1 ∨ 2 ^ 31 < len ∨ q.maxReads < reads)) :
    s.roceRefuse q h len reads none = some .access := by
  rw [State.roceRefuse, if_neg hplace, if_neg hgood, if_pos rfl]

theorem roceRefuse_none {len reads w : Nat} (hplace : q.psnPlace h.psn ≠ .ahead)
    (hgood : ¬(h.outside = true ∨ len < 1 ∨ 2 ^ 31 < len ∨ q.maxReads < reads)) : s.roceRefuse q h len reads (some w) = none := by
  rw [State.roceRefuse, if_neg hplace, if_neg hgood, if_neg (Option.some_ne_none w)]

theorem psnTaken_due (hplace : q.psnPlace h.psn = .due) (len : Nat) :
    s.psnTaken q h len = s.putQp { q with rqPsn := psnAdd q.rqPsn (q.packets len) } := if_pos hplace

theorem exec_hostRdmaWrite_dropped {rkey va : Nat} {d : List Byte} (hfront : s.roceFront h = (none, u)) :
    exec (.hostRdmaWrite h rkey va d) s = .next u := by
  change execHostRdmaWrite h rkey va d s = _
  simp only [execHostRdmaWrite, hfront]

section
variable {rkey va : Nat} {d : List Byte} (hfront : s.roceFront h = (some q, u))
include hfront

theorem exec_hostRdmaWrite_refused {k : NakCode}
    (hk : u.roceRefuse q h d.length 0 (if q.psnPlace h.psn = .again then some 0 else u.window? rkey va d.length true) = some k) :
    exec (.hostRdmaWrite h rkey va d) s = .next (u.hostSend 3 (.rdmaNak h.qp h.psn k)) := by
  change execHostRdmaWrite h rkey va d s = _
  simp only [execHostRdmaWrite, hfront, hk]

theorem exec_hostRdmaWrite_again (hplace : q.psnPlace h.psn = .again) (hk : u.roceRefuse q h d.length 0 (some 0) = none) :
    exec (.hostRdmaWrite h rkey va d) s = .next (u.hostSend 3 (.rdmaAck h.qp h.psn)) := by
  change execHostRdmaWrite h rkey va d s = _
  simp only [execHostRdmaWrite, hfront, hplace, if_true, hk]

theorem exec_hostRdmaWrite_due {w : Nat} (hplace : q.psnPlace h.psn = .due) (hwin : u.window? rkey va d.length true = some w)
    (hk : u.roceRefuse q h d.length 0 (some w) = none) : exec (.hostRdmaWrite h rkey va d) s
      = .next ((((u.wr .hbm va d).count (R.HCP_WINDOW_D_BYTES w) d.length).putQp
          { q with rqPsn := psnAdd q.rqPsn (q.packets d.length) }).hostSend 3 (.rdmaAck h.qp h.psn)) := by
  change execHostRdmaWrite h rkey va d s = _
  simp only [execHostRdmaWrite, hfront, hplace, reduceCtorEq, if_false, hwin, hk, Option.getD_some, psnTaken_due hplace]

theorem exec_hostRdmaRead_refused {len : Nat} {k : NakCode}
    (hk : u.roceRefuse q h len (u.readsOut h.qp + 1) (u.window? rkey va len false) = some k) :
    exec (.hostRdmaRead h rkey va len) s = .next (u.hostSend 3 (.rdmaNak h.qp h.psn k)) := by
  change execHostRdmaRead h rkey va len s = _
  simp only [execHostRdmaRead, hfront, hk]

/-- A READ of poisoned data is refused (log entry 41). -/
theorem exec_hostRdmaRead_poisoned {len : Nat} (hk : u.roceRefuse q h len (u.readsOut h.qp + 1) (u.window? rkey va len false) = none)
    (hpoison : (u.poisoned .hbm va len).isSome = true) :
    exec (.hostRdmaRead h rkey va len) s = .next (u.hostSend 3 (.rdmaNak h.qp h.psn .invalid)) := by
  change execHostRdmaRead h rkey va len s = _
  simp only [execHostRdmaRead, hfront, hk, hpoison, if_true]

theorem exec_hostRdmaRead_due {len w : Nat} (hplace : q.psnPlace h.psn = .due) (hwin : u.window? rkey va len false = some w)
    (hk : u.roceRefuse q h len (u.readsOut h.qp + 1) (some w) = none) (hclean : u.poisoned .hbm va len = none) :
    exec (.hostRdmaRead h rkey va len) s
      = .next (((u.count (R.HCP_WINDOW_D_BYTES w) len).putQp { q with rqPsn := psnAdd q.rqPsn (q.packets len) }).hostSend 3
          (.rdmaReadResponse h.qp h.psn (u.rdBytes .hbm va len))) := by
  change execHostRdmaRead h rkey va len s = _
  simp only [execHostRdmaRead, hfront, hwin, hk, hclean, Option.isSome_none, Bool.false_eq_true, if_false, Option.getD_some,
    psnTaken_due hplace]

end

end

/-! ### Windows (R346) -/

/-- A write to the first register of a window. -/
theorem windowWrite_base (w v : Nat) : s.windowWrite (0x12000 + 32 * w) v
    = if (s.flag (R.HCP_WINDOW_A_VALID w) || s.flag (R.HCP_WINDOW_A_BUSY w)) && !(bitAt v 62 == s.flag (R.HCP_WINDOW_A_PERM_R w)
        && bitAt v 61 == s.flag (R.HCP_WINDOW_A_PERM_W w) && v % 2 ^ 46 == s.reg (R.HCP_WINDOW_A_BASE w)) then (s, .tableBusy)
      else if bitAt v 63 then
        if s.hbmFree (v % 2 ^ 46) (s.reg (R.HCP_WINDOW_C_LENGTH w)) then (s.writeRw (0x12000 + 32 * w) v, .ok) else (s, .badParam)
      else (if s.flag (R.HCP_WINDOW_A_VALID w) then (s.writeRw (0x12000 + 32 * w) v).setReg (R.HCP_WINDOW_A_BUSY w) 1
        else s.writeRw (0x12000 + 32 * w) v, .ok) := by
  have hw : (0x12000 + 32 * w - 0x12000) / 32 = w := by omega
  have hk : (0x12000 + 32 * w - 0x12000) % 32 = 0 := by omega
  rw [State.windowWrite, hw, hk, if_pos rfl]

theorem exec_hcpWindowWrite (addr v : Nat) : exec (.hcpWindowWrite addr v) s = .next (s.windowWrite addr v).1 := rfl

/-! ### Board management (R347) -/

theorem mapBytes_inside {m : List Byte} {offset n : Nat} (h : offset + n ≤ m.length) (free : Nat) :
    mapBytes m offset n free = (m.drop offset).take n := by
  refine List.ext_getElem (by simp [mapBytes]; omega) fun k hk _ => ?_
  have hk' : offset + k < m.length := by
    rw [mapBytes, List.length_map, List.length_range] at hk
    omega
  simp [mapBytes, List.getElem?_eq_getElem hk']

/-! ### The statement -/

/-- Settles O39: an access's answer turns on its PSN, then its form, then its window. The answers to a PSN again or ahead, the
MAX_READS NAK and the class of a CNP are the model's choices (log entry 99, presumed), and so is the NAK of a poisoned READ (log
entry 41). -/
theorem rdmaAndManagement : Obligations.RdmaAndManagement := by
  unfold Obligations.RdmaAndManagement
  refine ⟨?setup, ?setupBusy, ?destroy, ?unheard, ?front, ?write, ?writeAgain, ?ahead, ?outside, ?noWindow, ?read, ?readRefused,
    ?completion, ?timeout, ?nak, ?cnp, ?recovery, ?close, ?opens, ?stands, ?closed, ?privateWrite, ?privateRead, ?entdaa, ?snapshot⟩
  case setup =>
    intro s t p ref c h hpayload hok hfree
    rw [exec_qpSetup_accepted h hpayload hok, hfree]
    rfl
  case setupBusy =>
    intro s t p ref c q h hpayload hok hq
    rw [exec_qpSetup_accepted h hpayload hok, hq]
    rfl
  case destroy =>
    intro s t p ref i q h hpayload hi hq
    rw [← qpDestroy_some hq]
    exact congrArg Host.Outcome.next (prayr_accept h (by simp [hpayload, hi]))
  case unheard =>
    intro s rkey va h d hup hnet
    exact exec_hostRdmaWrite_dropped (roceFront_unheard hup hnet)
  case front =>
    intro s h q hup hnet hq hready
    exact roceFront_ready hup hnet hq hready
  case write =>
    intro s u rkey va w h q d hfront hpsn hinside hpos hmax hwin
    have hplace := psnPlace_due hpsn
    exact exec_hostRdmaWrite_due hfront hplace hwin (roceRefuse_none (by simp [hplace])
      (access_wellFormed hinside hpos hmax (Nat.zero_le _)))
  case writeAgain =>
    intro s u rkey va h q d hfront hplace hinside hpos hmax
    exact exec_hostRdmaWrite_again hfront hplace (roceRefuse_none (by simp [hplace])
      (access_wellFormed hinside hpos hmax (Nat.zero_le _)))
  case ahead =>
    intro s u rkey va n h q d hfront hplace
    exact ⟨exec_hostRdmaWrite_refused hfront (roceRefuse_ahead hplace ..),
      exec_hostRdmaRead_refused hfront (roceRefuse_ahead hplace ..)⟩
  case outside =>
    intro s u rkey va n h q d hfront hpsn houtside
    have hplace : q.psnPlace h.psn ≠ .ahead := by simp [psnPlace_due hpsn]
    exact ⟨exec_hostRdmaWrite_refused hfront (roceRefuse_invalid hplace (.inl houtside) _),
      exec_hostRdmaRead_refused hfront (roceRefuse_invalid hplace (.inl houtside) _)⟩
  case noWindow =>
    intro s u rkey va h q d hfront hpsn hinside hpos hmax hwin
    have hplace := psnPlace_due hpsn
    refine exec_hostRdmaWrite_refused hfront ?_
    rw [if_neg (by simp [hplace]), hwin]
    exact roceRefuse_access (by simp [hplace]) (access_wellFormed hinside hpos hmax (Nat.zero_le _))
  case read =>
    intro s u rkey va len w h q hfront hpsn hinside hpos hmax hreads hwin hclean
    have hplace := psnPlace_due hpsn
    exact exec_hostRdmaRead_due hfront hplace hwin (roceRefuse_none (by simp [hplace])
      (access_wellFormed hinside hpos hmax hreads)) hclean
  case readRefused =>
    intro s u rkey va len w h q hfront hpsn hwin hrefused
    have hplace : q.psnPlace h.psn ≠ .ahead := by simp [psnPlace_due hpsn]
    by_cases hbad : h.outside = true ∨ len < 1 ∨ 2 ^ 31 < len ∨ q.maxReads < u.readsOut h.qp + 1
    · exact exec_hostRdmaRead_refused hfront (roceRefuse_invalid hplace hbad _)
    · refine exec_hostRdmaRead_poisoned hfront (hwin ▸ roceRefuse_none hplace hbad) (hrefused.resolve_right fun hreads => hbad ?_)
      exact .inr (.inr (.inr (Nat.lt_succ_of_le hreads)))
  case completion =>
    intro s i e d q o l hq hops hready hdata
    have hgood : ¬(q.error = true ∨ o.write = false ∧ d.length ≠ o.len) := by
      rcases hdata with hdata | hdata <;> simp [hready, hdata]
    change execRoceCompletion i ⟨e, d⟩ s = _
    simp only [execRoceCompletion, hq, hops, if_neg hgood, State.marked]
  case timeout =>
    intro s i q hq hready hops
    change execRoceAckTimeout i s = _
    simp only [execRoceAckTimeout, hq, hready, hops, Bool.false_eq_true, or_self, if_false]
    split <;> rfl
  case nak =>
    intro s i syn q hq hready
    change execRoceNak i syn s = _
    simp only [execRoceNak, hq, hready, Bool.false_eq_true, if_false]
    rfl
  case cnp =>
    intro s i q hq
    change execRoceCnp i s = _
    simp only [execRoceCnp, hq]
  case recovery =>
    intro s i q hq
    change execRoceRateRecovery i s = _
    simp only [execRoceRateRecovery, hq]
  case close =>
    intro s w v _ hclear hread hwrite hbase hvalid
    simp only [exec_hcpWindowWrite, windowWrite_base, hclear, hread, hwrite, hbase, hvalid, beq_self_eq_true, Bool.and_self,
      Bool.not_true, Bool.and_false, Bool.false_eq_true, if_false, if_true]
  case opens =>
    intro s w v _ hvalid hbusy hset hfree
    simp only [exec_hcpWindowWrite, windowWrite_base, hvalid, hbusy, hset, hfree, Bool.or_self, Bool.false_and, Bool.false_eq_true,
      if_false, if_true]
  case stands =>
    intro s w v _ hvalid hbase
    simp only [exec_hcpWindowWrite, windowWrite_base, hvalid, beq_eq_false_iff_ne.2 hbase, Bool.true_or, Bool.and_false, Bool.not_false,
      Bool.and_self, if_true]
  case closed =>
    intro s w
    rfl
  case privateWrite =>
    intro s b d
    rfl
  case privateRead =>
    intro s n h
    refine ⟨_, rfl, ?_, rfl⟩
    change Out.i3c _ :: s.outbox = _
    rw [mapBytes_inside h]
  case entdaa =>
    intro s a
    rfl
  case snapshot =>
    intro s
    exact ⟨_, rfl, rfl, rfl, rfl, rfl, rfl, rfl⟩

end Sys2Proof.Machine
end

section
/-! SUPPORT. Firmware images (R363 to R365): what an activation changes, when two active images would lie too far apart, and the
statement. -/

namespace Sys2Proof.Machine

variable {s t : State} {p : HostPkt} {ref sub : Nat} {b : Bool}

/-! ### The registers of a subsystem's slots (R364) -/

theorem imgPending_key_ne_active (sub : Nat) : (R.BLD_IMG_PENDING sub).key ≠ (R.BLD_IMG_ACTIVE sub).key := by
  simp [Fld.key, R.BLD_IMG_PENDING, R.BLD_IMG_ACTIVE]

theorem imgFellBack_key_ne_active (sub : Nat) : (R.BLD_IMG_FELL_BACK sub).key ≠ (R.BLD_IMG_ACTIVE sub).key := by
  simp [Fld.key, R.BLD_IMG_FELL_BACK, R.BLD_IMG_ACTIVE]

theorem imgFellBack_key_ne_pending (sub : Nat) : (R.BLD_IMG_FELL_BACK sub).key ≠ (R.BLD_IMG_PENDING sub).key := by
  simp [Fld.key, R.BLD_IMG_FELL_BACK, R.BLD_IMG_PENDING]

/-- No register of the firmware slots is PHS_VERSIONS. -/
theorem key_ne_fwGeneration {g : Fld} (h : 0x500000 ≤ g.reg) : g.key ≠ R.PHS_VERSIONS_FW_GENERATION.key := by
  simp only [Fld.key, R.PHS_VERSIONS_FW_GENERATION]
  omega

theorem reg_fwGeneration {g : Fld} (h : 0x500000 ≤ g.reg) : s.fwGeneration.reg g = s.reg g := by
  unfold State.fwGeneration
  split
  · split
    · rfl
    · exact reg_setReg_ne (key_ne_fwGeneration h) _ _
  · rfl

theorem fwGeneration_bld (s : State) : s.fwGeneration.bld = s.bld :=
  (kept_fwGeneration (κ := onlyPart .bld) (Kept.refl s) (off_onlyPart (by decide))).same (onlyPart_self .bld)

/-- A field of the slots' registers after an activation is that of the two it writes. -/
theorem reg_activate {g : Fld} (hlow : 0x500000 ≤ g.reg) (hhigh : g.reg < 0x600000) (hlo : g.lo < 64) :
    (s.activate sub b).reg g = ((s.setReg (R.BLD_IMG_PENDING sub) 0).setReg (R.BLD_IMG_ACTIVE sub) (bit b)).reg g := by
  unfold State.activate
  dsimp only
  rw [reg_reReport hhigh hlo, reg_fwGeneration hlow]
  split <;> rfl

section
variable (hsub : sub ≤ 8)
include hsub

theorem activate_active : (s.activate sub b).reg (R.BLD_IMG_ACTIVE sub) = bit b := by
  rw [reg_activate (by simp [R.BLD_IMG_ACTIVE]; omega) (by simp [R.BLD_IMG_ACTIVE]; omega) (by simp [R.BLD_IMG_ACTIVE]), reg_setReg_self]
  exact bit_mod_two b

theorem activate_pending : (s.activate sub b).reg (R.BLD_IMG_PENDING sub) = 0 := by
  rw [reg_activate (by simp [R.BLD_IMG_PENDING]; omega) (by simp [R.BLD_IMG_PENDING]; omega) (by simp [R.BLD_IMG_PENDING]),
    reg_setReg_ne (imgPending_key_ne_active sub), reg_setReg_self, Nat.zero_mod]

theorem activate_fellBack : (s.activate sub b).reg (R.BLD_IMG_FELL_BACK sub) = s.reg (R.BLD_IMG_FELL_BACK sub) := by
  rw [reg_activate (by simp [R.BLD_IMG_FELL_BACK]; omega) (by simp [R.BLD_IMG_FELL_BACK]; omega) (by simp [R.BLD_IMG_FELL_BACK]),
    reg_setReg_ne (imgFellBack_key_ne_active sub), reg_setReg_ne (imgFellBack_key_ne_pending sub)]

end

theorem activate_slots : (s.activate sub b).bld.slots = s.bld.slots := by
  simp only [State.activate, reReport_bld, fwGeneration_bld]
  split <;> rfl

theorem activate_small : (s.activate sub b).small = s.small :=
  (kept_activate (κ := fun _ => false) (Kept.refl s) (fun _ _ => rfl) sub b).2.1

theorem fallBack_small : (s.fallBack sub b).small = s.small :=
  (kept_fallBack (κ := fun _ => false) (Kept.refl s) (fun _ _ => rfl) sub b).2.1

/-! ### An activation (R363) -/

theorem exec_imgActivate_accepted (h : s.accept? p 0x44 false true true = some (ref, t)) (hpayload : p.payloadOk = true) :
    exec (.imgActivate p sub b) s = .next (if 8 < sub then t.hostReply ref .badParam []
      else if (t.slot? sub b).isNone || t.spread sub b then t.hostReply ref .badState []
      else (t.imgActivate sub b).hostReply ref .ok []) :=
  congrArg Host.Outcome.next (prayr_accept h hpayload)

/-- Two images that would be active more than one generation apart. -/
theorem spread_apart {x y : ImageSlot} {k : Nat} (hsub : sub ≤ 8) (hx : s.slot? sub b = some x) (hk : k ≤ 8) (hne : k ≠ sub)
    (hy : s.slot? k (s.nextSlot k) = some y) (h : x.generation + 1 < y.generation ∨ y.generation + 1 < x.generation) :
    s.spread sub b = true := by
  have hmemx : x.generation ∈ (List.range 9).filterMap fun k => (s.slot? k (if k = sub then b else s.nextSlot k)).map (·.generation) :=
    List.mem_filterMap.2 ⟨sub, List.mem_range.2 (Nat.lt_succ_of_le hsub), by simp [hx]⟩
  have hmemy : y.generation ∈ (List.range 9).filterMap fun k => (s.slot? k (if k = sub then b else s.nextSlot k)).map (·.generation) :=
    List.mem_filterMap.2 ⟨k, List.mem_range.2 (Nat.lt_succ_of_le hk), by simp [hne, hy]⟩
  simp only [State.spread, List.any_eq_true, decide_eq_true_eq]
  rcases h with h | h
  · exact ⟨_, hmemy, _, hmemx, h⟩
  · exact ⟨_, hmemx, _, hmemy, h⟩

/-- An image of subsystems 0 to 2 is activated at once, with its health awaited. -/
theorem imgActivate_atOnce (hsub : sub < 3) : s.imgActivate sub b = ((s.setReg (R.BLD_IMG_FELL_BACK sub) 0).activate sub b).onBld
    fun x => { x with health := x.health.filter (·.1 != sub) ++ [(sub, s.activeSlot sub)] } := by
  simp only [State.imgActivate, if_pos (show sub ≤ 3 by omega), if_neg (show sub ≠ 3 by omega)]

/-- The state an activation of subsystems 4 to 8 leaves before the generation and the report follow it. -/
def State.imgPend (s : State) (sub : Nat) (b : Bool) : State :=
  ((s.setReg (R.BLD_IMG_FELL_BACK sub) 0).onBld fun x => { x with
    pendingSlot := x.pendingSlot.filter (·.1 != sub) ++ [(sub, b)]
    taken := if sub = 4 then [] else x.taken }).setReg (R.BLD_IMG_PENDING sub) 1

theorem imgActivate_pends (hsub : 4 ≤ sub) (hb : b ≠ s.activeSlot sub) :
    s.imgActivate sub b = (s.imgPend sub b).fwGeneration.reReport := by
  simp only [State.imgActivate, if_neg (show ¬sub ≤ 3 by omega), if_neg hb, State.imgPend]

theorem reg_imgPend {g : Fld} (hfell : g.key ≠ (R.BLD_IMG_FELL_BACK sub).key) (hpending : g.key ≠ (R.BLD_IMG_PENDING sub).key) :
    (s.imgPend sub b).reg g = s.reg g :=
  (reg_setReg_ne hpending _ _).trans (reg_setReg_ne hfell s 0)

theorem find?_pendingSlot (l : List (Nat × Bool)) : (l.filter (·.1 != sub) ++ [(sub, b)]).find? (·.1 == sub) = some (sub, b) := by
  have hnone : (l.filter (·.1 != sub)).find? (·.1 == sub) = none := by simp [List.find?_eq_none]
  rw [List.find?_append, hnone]
  simp

/-! ### The statement -/

/-- Settles O43: an activation writes a subsystem's own fields and, through the generation and the report, no other of the slots'
registers. That the next activation clears FELL_BACK is the model's choice (log entry 36). -/
theorem images : Obligations.Images := by
  unfold Obligations.Images
  refine ⟨?range, ?empty, ?apart, ?accepted, ?atOnce, ?pends, ?status, ?healthy, ?healthyProcessor, ?expiry, ?expirySerdes, ?notAwaited,
    ?fallBack⟩
  case range =>
    intro s t p ref sub b h hpayload hsub
    rw [exec_imgActivate_accepted h hpayload, if_pos hsub]
  case empty =>
    intro s t p ref sub b h hpayload hsub hslot
    rw [exec_imgActivate_accepted h hpayload, if_neg (Nat.not_lt.2 hsub), hslot]
    rfl
  case apart =>
    intro s t p ref sub b x y k h hpayload hsub hx hk hne hy hgen
    rw [exec_imgActivate_accepted h hpayload, if_neg (Nat.not_lt.2 hsub), spread_apart hsub hx hk hne hy hgen, Bool.or_true, if_pos rfl]
  case accepted =>
    intro s t p ref sub b x h hpayload hsub hx hspread
    rw [exec_imgActivate_accepted h hpayload, if_neg (Nat.not_lt.2 hsub), hx, hspread]
    rfl
  case atOnce =>
    intro s sub b hsub _ _
    have hle : sub ≤ 8 := by omega
    rw [imgActivate_atOnce hsub]
    refine ⟨activate_active hle, activate_pending hle, (activate_fellBack hle).trans ?_, activate_slots, ?_⟩
    · rw [reg_setReg_self, Nat.zero_mod]
    · exact List.mem_append_right _ (List.mem_singleton_self _)
  case pends =>
    intro s sub b hlow hhigh hb _ _
    rw [imgActivate_pends hlow hb]
    refine ⟨?_, ?_, ?_, ?_⟩
    · rw [reg_reReport (by simp [R.BLD_IMG_ACTIVE]; omega) (by simp [R.BLD_IMG_ACTIVE]),
        reg_fwGeneration (by simp [R.BLD_IMG_ACTIVE]; omega),
        reg_imgPend (imgFellBack_key_ne_active sub).symm (imgPending_key_ne_active sub).symm]
    · rw [reg_reReport (by simp [R.BLD_IMG_PENDING]; omega) (by simp [R.BLD_IMG_PENDING]),
        reg_fwGeneration (by simp [R.BLD_IMG_PENDING]; omega)]
      exact reg_setReg_self _ (R.BLD_IMG_PENDING sub) 1
    · have hpending : (s.imgPend sub b).bld.pendingSlot = s.bld.pendingSlot.filter (·.1 != sub) ++ [(sub, b)] := rfl
      rw [State.nextSlot, reReport_bld, fwGeneration_bld, hpending, find?_pendingSlot]
      rfl
    · rw [reReport_bld, fwGeneration_bld]
      rfl
  case status =>
    intro s t p ref h hpayload
    exact congrArg Host.Outcome.next (prayr_accept h hpayload)
  case healthy =>
    intro s sub hsub
    change execImageHealthy sub s = _
    simp only [execImageHealthy, if_neg hsub]
  case healthyProcessor =>
    intro s
    rfl
  case expiry =>
    intro s sub old hfind hsub
    change execImageHealthExpiry sub s = _
    simp only [execImageHealthExpiry, hfind, if_neg hsub]
  case expirySerdes =>
    intro s old hfind
    change execImageHealthExpiry 3 s = _
    simp only [execImageHealthExpiry, hfind, if_true, State.ports, fallBack_small]
    rfl
  case notAwaited =>
    intro s sub hfind
    change execImageHealthExpiry sub s = _
    simp only [execImageHealthExpiry, hfind]
  case fallBack =>
    intro s sub old
    rfl

end Sys2Proof.Machine
end

section
/-! SUPPORT. Broadcast sessions (R357, R366, R370, R371, R375, R377): the checks of BCAST_OPEN, what a closed session leaves, the
acceptance of an image, and the statement. -/

namespace Sys2Proof.Machine

variable {s t : State} {p : HostPkt} {ref n : Nat}

/-! ### BCAST_OPEN (R366, R370, R375) -/

/-- A BCAST_OPEN whose payload has the form of Table 13.6 meets the checks in their order. -/
theorem exec_bcastOpen_accepted {o : BcastOpen} {m : List Byte} {cs ps : List Nat} (h : s.accept? p 0x40 false true true = some (ref, t))
    (hpayload : p.payloadOk = true) (hrsvd : o.rsvdOk = true) (hlength : m.length = 704) (hcs : cs.length < 32) (hps : ps.length < 32) :
    exec (.bcastOpen p o m cs ps) s = .next (if !manifestFormOk m then t.hostReply ref .imageInvalid []
      else if !t.manifestSigned (parseManifest m) then t.hostReply ref .signatureInvalid []
      else if !t.bcastArgsOk o (parseManifest m) cs ps then t.hostReply ref .badParam []
      else if (t.session? o.session).isSome || 16 ≤ t.bld.sessions.length then t.hostReply ref .tableBusy []
      else (t.openSession o (parseManifest m) cs ps).hostReply ref .ok []) :=
  congrArg Host.Outcome.next (prayr_accept h (by simp [hpayload, hrsvd, hlength, hcs, hps]))

theorem bcastArgsOk_false {o : BcastOpen} {cs ps : List Nat} (h : o.dest % 65536 ≠ 0 ∨ 16 < cs.length ∨ 16 < ps.length)
    (m : Manifest) : s.bcastArgsOk o m cs ps = false := by
  refine Bool.eq_false_iff.2 fun hok => ?_
  simp only [State.bcastArgsOk, Bool.and_eq_true, decide_eq_true_eq, beq_iff_eq] at hok
  omega

/-! ### Sessions closed (R377) -/

section
variable (session : Nat) (st : St)

theorem sendReply_reg (g : Fld) : (s.sendReply session st).reg g = s.reg g := by
  have hregs : (s.sendReply session st).regs = s.regs :=
    (kept_sendReply (κ := onlyPart .regs) (Kept.refl s) (off_onlyPart (by decide)) session st).same (onlyPart_self .regs)
  rw [State.reg, hregs]
  rfl

theorem sendReply_bld : (s.sendReply session st).bld = s.bld :=
  (kept_sendReply (κ := onlyPart .bld) (Kept.refl s) (off_onlyPart (by decide)) session st).same (onlyPart_self .bld)

end

theorem closeSession_hbm (b : Bcast) : (s.closeSession b).hbm = s.hbm :=
  congrArg Prod.fst ((kept_closeSession (κ := onlyPart .mem) (Kept.refl s) (off_onlyPart (by decide)) b).same (onlyPart_self .mem))

/-- The fields of a session's registers, with the values of FREE. -/
def freeSession (k : Nat) : List (Fld × Nat) :=
  [(R.BLD_BCAST_A_STATE k, 0), (R.BLD_BCAST_A_KIND k, 0), (R.BLD_BCAST_A_SESSION k, 0), (R.BLD_BCAST_A_PARENT k, 0),
   (R.BLD_BCAST_B_CHUNKS k, 0), (R.BLD_BCAST_B_HELD k, 0), (R.BLD_BCAST_C_REPAIRS k, 0), (R.BLD_BCAST_C_CRC_FAILS k, 0),
   (R.BLD_BCAST_C_STATUS k, 0)]

theorem closeSession_eq (b : Bcast) : s.closeSession b
    = ((s.onBld fun x => { x with sessions := x.sessions.filter (·.k != b.k) }).setRegs (freeSession b.k)).sendReply
        b.o.session .badState := rfl

theorem reg_freeSession_state (k : Nat) : (s.setRegs (freeSession k)).reg (R.BLD_BCAST_A_STATE k) = 0 := by
  refine reg_setRegs_of_mem (v := 0) (List.mem_cons_self ..) ?_ s
  simp [Fld.key, R.BLD_BCAST_A_STATE, R.BLD_BCAST_A_KIND, R.BLD_BCAST_A_SESSION, R.BLD_BCAST_A_PARENT, R.BLD_BCAST_B_CHUNKS,
    R.BLD_BCAST_B_HELD, R.BLD_BCAST_C_REPAIRS, R.BLD_BCAST_C_CRC_FAILS, R.BLD_BCAST_C_STATUS]
  omega

theorem setRegs_bld (l : List (Fld × Nat)) : (s.setRegs l).bld = s.bld := by rw [setRegs_eq]

theorem closeSession_bld (b : Bcast) :
    (s.closeSession b).bld = { s.bld with sessions := s.bld.sessions.filter (·.k != b.k) } := by
  rw [closeSession_eq, sendReply_bld, setRegs_bld]
  rfl

/-! ### Acceptance (R370, R371) -/

section
variable {b : Bcast} (hreceiving : s.receiving? n = some b) (hwriting : b.writing = false)
  (hready : if b.o.root then b.sending = true else b.missing = [])
include hreceiving hwriting hready

theorem exec_imageHashDone_bad (himage : s.imageOk b = false) :
    exec (.imageHashDone n) s = .next (s.failSession b .imageInvalid) := by
  change execImageHashDone n s = _
  cases hroot : b.o.root <;> rw [hroot] at hready <;> simp_all [execImageHashDone]

/-- An image whose hash matches is held whole; a FIRMWARE image is written to its slot before the session is COMPLETE. -/
theorem exec_imageHashDone_good (himage : s.imageOk b = true) : exec (.imageHashDone n) s
    = .next (
      let c := { b with
        held := List.range b.manifest.chunks
        writing := b.manifest.kind == 0 }
      let u := (s.putSession c).setReg (R.BLD_BCAST_B_HELD b.k) b.manifest.chunks
      let u := if b.o.root then (u.sendReply n .ok).sendImage c else u
      if b.manifest.kind = 0 then u else u.completeSession c) := by
  change execImageHashDone n s = _
  cases hroot : b.o.root <;> rw [hroot] at hready <;> simp_all [execImageHashDone]

end

theorem dropPending_slots (sub : Nat) : (s.dropPending sub).bld.slots = s.bld.slots := rfl

theorem writeSlot_slots (m : Manifest) : (s.writeSlot m).bld.slots
    = upsert (fun y => y.subsystem == m.subsystem && y.slotB == !s.activeSlot m.subsystem)
        ⟨m.subsystem, !s.activeSlot m.subsystem, m.fwGeneration, m.imageHash⟩ s.bld.slots := by
  have hdrop : ∀ u : State, (u.dropPending m.subsystem).fwGeneration.reReport.bld.slots = u.bld.slots := fun u => by
    rw [reReport_bld, fwGeneration_bld, dropPending_slots]
  simp only [State.writeSlot, apply_ite State.bld, apply_ite Bld.slots, hdrop, ite_self]
  rfl

/-! ### The statement -/

/-- Settles O44: the checks of BCAST_OPEN in their order, and the steps of an image from its hash to its slot. That the root's own image
is accepted at the match of its hash is the model's reading (log entry 80). -/
theorem imageSessions : Obligations.ImageSessions := by
  unfold Obligations.ImageSessions
  refine ⟨?form, ?signature, ?arguments, ?busy, ?opens, ?send, ?status, ?close, ?closed, ?badHash, ?complete, ?root, ?written, ?slot⟩
  case form =>
    intro s t p ref o m cs ps h hpayload hrsvd hlength hcs hps hform
    rw [exec_bcastOpen_accepted h hpayload hrsvd hlength hcs hps, hform]
    rfl
  case signature =>
    intro s t p ref o m cs ps h hpayload hrsvd hlength hcs hps hform hsigned
    rw [exec_bcastOpen_accepted h hpayload hrsvd hlength hcs hps, hform, hsigned]
    rfl
  case arguments =>
    intro s t p ref o m cs ps h hpayload hrsvd hlength hcs hps hform hsigned hbad
    rw [exec_bcastOpen_accepted h hpayload hrsvd hlength hcs hps, hform, hsigned, bcastArgsOk_false hbad]
    rfl
  case busy =>
    intro s t p ref o m cs ps h hpayload hrsvd hlength hcs hps hform hsigned hargs hbusy
    have hbusy : ((t.session? o.session).isSome || decide (16 ≤ t.bld.sessions.length)) = true := by
      rwa [Bool.or_eq_true, decide_eq_true_eq]
    rw [exec_bcastOpen_accepted h hpayload hrsvd hlength hcs hps, hform, hsigned, hargs, hbusy]
    rfl
  case opens =>
    intro s t p ref o m cs ps h hpayload hrsvd hlength hcs hps hform hsigned hargs hnew hroom
    rw [exec_bcastOpen_accepted h hpayload hrsvd hlength hcs hps, hform, hsigned, hargs, hnew, decide_eq_false (Nat.not_le.2 hroom)]
    rfl
  case send =>
    intro s t p ref n b h hpayload hb hroot hsending hstate
    refine congrArg Host.Outcome.next ((prayr_accept h hpayload).trans ?_)
    simp only [hb, hroot, hsending, hstate, Bool.not_true, Bool.or_self, bne_self_eq_false, Bool.false_eq_true, if_false]
  case status =>
    intro s t p ref n b h hpayload hb
    refine congrArg Host.Outcome.next ((prayr_accept h hpayload).trans ?_)
    simp only [hb]
  case close =>
    intro s t p ref n b h hpayload hb
    refine congrArg Host.Outcome.next ((prayr_accept h hpayload).trans ?_)
    simp only [hb]
  case closed =>
    intro s b _ _
    refine ⟨?_, ?_, closeSession_hbm b, fun x hx => ?_⟩
    · rw [State.sessionState, closeSession_eq, sendReply_reg, reg_freeSession_state]
    · rw [closeSession_bld]
    · rw [closeSession_bld] at hx
      simpa using (List.mem_filter.1 hx).2
  case badHash =>
    intro s n b hreceiving hwriting hroot hwhole himage
    exact exec_imageHashDone_bad hreceiving hwriting (by rwa [hroot, if_neg Bool.false_ne_true]) himage
  case complete =>
    intro s n b hreceiving hwriting hroot hwhole himage hkind
    rw [exec_imageHashDone_good hreceiving hwriting (by rwa [hroot, if_neg Bool.false_ne_true]) himage, hroot, hkind]
    rfl
  case root =>
    intro s n b hreceiving hwriting hroot hsending himage hkind
    rw [exec_imageHashDone_good hreceiving hwriting (by rwa [hroot, if_pos rfl]) himage, hroot, hkind]
    rfl
  case written =>
    intro s n b hreceiving hwriting
    change execImageSlotWriteDone n s = _
    simp only [execImageSlotWriteDone, hreceiving, hwriting, if_true]
  case slot =>
    intro s m
    rw [State.slot?, writeSlot_slots]
    exact find?_upsert _ (by simp) _

end Sys2Proof.Machine
end

section
/-! SUPPORT. Broadcast packets and repair (R367 to R369, R377): which packets and messages a session takes, what it asks for and what it
answers, and the statement. -/

namespace Sys2Proof.Machine

variable {s : State} {src n : Nat} {b : Bcast}

/-! ### Packets (R367, R368) -/

/-- A session takes a packet that lies in its image, from its parent or a peer it repairs from, while it is receiving or COMPLETE. -/
def State.takesPacket (s : State) (b : Bcast) (src : Nat) (m : BcastMsg) : Bool :=
  (s.sessionState b == 1 || s.sessionState b == 2) && ((!b.o.root && src == b.o.parent) || b.repairPeers.contains src)
    && m.offset + m.data.length ≤ b.manifest.length

section
variable {f : Frame} {m : BcastMsg} (hbody : f.body = .bcast m)
include hbody

theorem exec_bcastPacket_unknown (h : (s.takeFrame f).session? m.session = none) :
    exec (.bcastPacket f) s = .next ((s.takeFrame f).bump (R.FAB_DIE_STATS_UNKNOWN_DROPS 0)) := by
  change execBcastPacket f s = _
  simp only [execBcastPacket, hbody, h]

theorem exec_bcastPacket_known (h : (s.takeFrame f).session? m.session = some b) : exec (.bcastPacket f) s
    = .next (if (s.takeFrame f).takesPacket b f.src m then (s.takeFrame f).takePacket b f m
      else (s.takeFrame f).bump (R.FAB_DIE_STATS_UNKNOWN_DROPS 0)) := by
  change execBcastPacket f s = _
  simp only [execBcastPacket, hbody, h]
  rw [apply_ite Host.Outcome.next]
  rfl

end

theorem takesPacket_false {m : BcastMsg} (h : s.sessionState b = 3 ∨ (src ≠ b.o.parent ∧ src ∉ b.repairPeers)
    ∨ b.manifest.length < m.offset + m.data.length) : s.takesPacket b src m = false := by
  refine Bool.eq_false_iff.2 fun htakes => ?_
  simp only [State.takesPacket, Bool.and_eq_true, Bool.or_eq_true, beq_iff_eq, List.contains_iff_mem, decide_eq_true_eq] at htakes
  obtain ⟨⟨hstate, hsrc⟩, hlength⟩ := htakes
  rcases h with h | ⟨hparent, hpeer⟩ | h
  · omega
  · exact hsrc.elim (fun h => hparent h.2) hpeer
  · omega

theorem takesPacket_parent {m : BcastMsg} (hstate : s.sessionState b = 1) (hroot : b.o.root = false)
    (hlength : m.offset + m.data.length ≤ b.manifest.length) : s.takesPacket b b.o.parent m = true := by
  simp [State.takesPacket, hstate, hroot, hlength]

theorem takePacket_again {f : Frame} {m : BcastMsg} (h : (m.offset / 65536, m.offset / 4096 % 16) ∈ b.packets) : s.takePacket b f m
    = (s.place b.mem (b.o.dest + m.offset) m.data f.poison).putSession { b with begun := true } := by
  simp only [State.takePacket, List.contains_iff_mem.2 h, Bool.or_true, if_true]

/-! ### Messages (R369) -/

theorem bcastState_unsent (k : Nat) : (R.BLD_BCAST_A_STATE k).unsent := by
  simp only [Fld.unsent, Fld.key, R.BLD_BCAST_A_STATE, R.FAB_PORT_TX_BYTES, R.FAB_DIE_STATS_HOP_DROPS, R.FAB_DIE_STATS_NO_ROUTE_DROPS,
    R.PGE_CTRL_EVICTING]
  refine ⟨fun _ => ?_, ?_, ?_, ?_⟩ <;> omega

theorem sessionState_of_sent {t : State} (h : Sent s t) : t.sessionState b = s.sessionState b := h.reg _ (bcastState_unsent b.k)

theorem exec_bcastEnd_parent {chunks : Nat} (h : (s.takeMsg src (.bcastEnd n chunks)).session? n = some b) (hroot : b.o.root = false)
    (hsrc : src = b.o.parent) (hstate : (s.takeMsg src (.bcastEnd n chunks)).sessionState b ≠ 3) (hforwarded : b.forwarded = false) :
    exec (.bcastEnd src n chunks) s = .next (
      let c := { b with
        ended := true
        forwarded := true }
      let u := ((s.takeMsg src (.bcastEnd n chunks)).putSession c).sendMsgs (.bcastEnd n chunks) b.children
      if (s.takeMsg src (.bcastEnd n chunks)).sessionState b = 1 then u.firstRepair c else u) := by
  have hgo : ¬(b.o.root = true ∨ src ≠ b.o.parent ∨ (s.takeMsg src (.bcastEnd n chunks)).sessionState b = 3) := by
    simp [hroot, hsrc, hsrc ▸ hstate]
  change execBcastEnd src n chunks s = _
  simp only [execBcastEnd, h, if_neg hgo, hforwarded, Bool.false_eq_true, if_false, sessionState_of_sent (sent_sendMsgs ..)]
  rfl

/-- With four requests outstanding nothing more is asked for. -/
theorem askRepair_full (h : 4 ≤ b.asked.length) (node : Nat) :
    s.askRepair b node = (s.putSession b).count (R.BLD_BCAST_C_REPAIRS b.k) 0 := by
  simp only [State.askRepair, Nat.sub_eq_zero_of_le h, List.take_zero, List.map_nil, List.append_nil, List.length_nil, List.foldl_nil]

/-- A request for one chunk of the image: the chunk, or that it is not held. -/
theorem serveRepair_one {c : Nat} (hc : c < b.manifest.chunks) : s.serveRepair b src c 1
    = if b.held.contains c && s.sessionState b != 3 then s.sendChunk b src c else s.sendMsg src (.repairNak b.o.session c 1) := by
  have hone : min (c + 1) b.manifest.chunks - c = 1 := by omega
  have hbeyond : ¬b.manifest.chunks < c + 1 := by omega
  cases hhave : b.held.contains c && s.sessionState b != 3 <;>
    simp only [State.serveRepair, hone, if_neg hbeyond, List.range_one, List.map_cons, List.map_nil, Nat.add_zero, List.filter_cons,
      List.filter_nil, hhave, Bool.not_true, Bool.not_false, Bool.false_eq_true, if_true, if_false, runs, List.append_nil,
      List.foldl_cons, List.foldl_nil]

theorem exec_repairNak_asked {first count : Nat} (h : (s.takeMsg src (.repairNak n first count)).receiving? n = some b)
    (hasked : (src, first, count) ∈ b.asked) (hcount : 0 < count) : exec (.repairNak src n first count) s
      = .next ((s.takeMsg src (.repairNak n first count)).queryPeers { b with
          asked := b.asked.filter fun r => !(r.1 == src && r.2.1 < first + count && first < r.2.1 + r.2.2) }) := by
  have hany : (b.asked.any fun r => r.1 == src && r.2.1 < first + count && first < r.2.1 + r.2.2) = true :=
    List.any_eq_true.2 ⟨_, hasked, by simp [hcount]⟩
  change execRepairNak src n first count s = _
  simp only [execRepairNak, h, hany, if_true]

theorem receiving?_unknown (h : s.session? n = none) : s.receiving? n = none := by rw [State.receiving?, h]; rfl

theorem exec_statusReply_awaited {held : Nat} {complete : Bool} (h : (s.takeMsg src (.statusReply n held complete)).receiving? n = some b)
    (hleft : src ∈ b.queryLeft) : exec (.statusReply src n held complete) s
      = .next (if complete then (s.takeMsg src (.statusReply n held complete)).askRepair { b with
            queryLeft := []
            repairPeers := b.repairPeers.filter (· != src) ++ [src] } src
          else (s.takeMsg src (.statusReply n held complete)).putSession { b with queryLeft := b.queryLeft.filter (· != src) }) := by
  change execStatusReply src n held complete s = _
  cases complete <;> simp [execStatusReply, h, hleft]

/-- The end of a wait for missing chunks. -/
theorem exec_repairWaitExpiry_missing (h : s.receiving? n = some b) (hroot : b.o.root = false) (hbegun : b.begun = true)
    (hmissing : b.missing ≠ []) : exec (.repairWaitExpiry n) s
      = .next (if b.o.repairRounds ≤ b.rounds then s.failSession b .imageIncomplete
        else if b.rounds = 0 then s.firstRepair b
        else
          let c := { b with
            rounds := b.rounds + 1
            asked := []
            queryLeft := [] }
          if b.peers.isEmpty then s.askRepair c b.o.parent else s.queryPeers c) := by
  have hgo : ¬(b.o.root = true ∨ (b.begun = false ∧ b.ended = false) ∨ b.missing = []) := by simp [hroot, hbegun, hmissing]
  change execRepairWaitExpiry n s = _
  simp only [execRepairWaitExpiry, h, if_neg hgo, apply_ite Host.Outcome.next]

/-! ### The statement -/

/-- Settles O45: a packet or message is acted on by the session of its number, in the state it stands in, and dropped and counted
without one. -/
theorem imageRepair : Obligations.ImageRepair := by
  unfold Obligations.ImageRepair
  refine ⟨?unknown, ?refused, ?taken, ?again, ?mismatch, ?verified, ?endComplete, ?endReceiving, ?first, ?full, ?request, ?notHeld, ?held,
    ?nak, ?noSession, ?query, ?statusQuery, ?peerComplete, ?peerPartial, ?roundsOver, ?nextRound, ?firstRound, ?fail⟩
  case unknown =>
    intro s f m hbody h
    exact exec_bcastPacket_unknown hbody h
  case refused =>
    intro s f m b hbody h hrefused
    rw [exec_bcastPacket_known hbody h, takesPacket_false hrefused]
    rfl
  case taken =>
    intro s f m b hbody h hstate hroot hsrc hlength
    rw [exec_bcastPacket_known hbody h, hsrc, takesPacket_parent hstate hroot hlength, if_pos rfl]
  case again =>
    intro s b f m h
    exact takePacket_again h
  case mismatch =>
    intro s b c crc h
    exact if_neg h
  case verified =>
    intro s b c crc h hrounds
    refine (if_pos h).trans ((if_neg fun hround => ?_).trans ?_)
    · exact absurd hround.1 (by simp [hrounds])
    · rw [List.length_append]
      rfl
  case endComplete =>
    intro s src n chunks b h hroot hsrc hstate hforwarded
    rw [exec_bcastEnd_parent h hroot hsrc (by simp [hstate]) hforwarded, hstate]
    rfl
  case endReceiving =>
    intro s src n chunks b h hroot hsrc hstate hforwarded
    rw [exec_bcastEnd_parent h hroot hsrc (by simp [hstate]) hforwarded, hstate]
    rfl
  case first =>
    intro s b hrounds hmissing
    exact if_pos ⟨hrounds, hmissing⟩
  case full =>
    intro s b node h
    exact askRepair_full h node
  case request =>
    intro s src n first count b h
    change execRepairReq src n first count s = _
    simp only [execRepairReq, h]
  case notHeld =>
    intro s src n c b hn hc hheld
    rw [serveRepair_one hc, List.contains_eq_mem, decide_eq_false hheld, hn]
    rfl
  case held =>
    intro s src c b hc hheld hstate
    rw [serveRepair_one hc, List.contains_eq_mem, decide_eq_true hheld, bne_iff_ne.2 hstate]
    rfl
  case nak =>
    intro s src n first count b h hasked hcount
    exact exec_repairNak_asked h hasked hcount
  case noSession =>
    intro s src n a b c h
    have hsession : ∀ m : Msg, (s.takeMsg src m).session? n = none := fun _ => h
    have hreceiving : ∀ m : Msg, (s.takeMsg src m).receiving? n = none := fun m => receiving?_unknown (hsession m)
    refine ⟨?_, ?_, ?_, ?_, ?_⟩
    · change execRepairReq src n a b s = _
      simp only [execRepairReq, hsession]
    · change execRepairNak src n a b s = _
      simp only [execRepairNak, hreceiving, hsession, Option.isNone_none, if_true]
    · change execBcastEnd src n a s = _
      simp only [execBcastEnd, hsession]
    · change execStatusQuery src n s = _
      simp only [execStatusQuery, hsession]
    · change execStatusReply src n a c s = _
      simp only [execStatusReply, hreceiving, hsession, Option.isNone_none, if_true]
  case query =>
    intro s b hleft
    exact if_neg (not_not_intro hleft)
  case statusQuery =>
    intro s src n b h
    change execStatusQuery src n s = _
    simp only [execStatusQuery, h]
  case peerComplete =>
    intro s src n held b h hleft
    exact exec_statusReply_awaited h hleft
  case peerPartial =>
    intro s src n held b h hleft
    exact exec_statusReply_awaited h hleft
  case roundsOver =>
    intro s n b h hroot hbegun hmissing hrounds
    rw [exec_repairWaitExpiry_missing h hroot hbegun hmissing, if_pos hrounds]
  case nextRound =>
    intro s n b h hroot hbegun hmissing hrounds hlater hpeers
    rw [exec_repairWaitExpiry_missing h hroot hbegun hmissing, if_neg (Nat.not_le.2 hrounds), if_neg hlater]
    exact congrArg Host.Outcome.next (if_neg (by simpa using hpeers))
  case firstRound =>
    intro s n b h hroot hbegun hmissing hrounds hzero
    rw [exec_repairWaitExpiry_missing h hroot hbegun hmissing, if_neg (Nat.not_le.2 hrounds), if_pos hzero]
  case fail =>
    intro s b st
    rfl

end Sys2Proof.Machine
end

section
/-! SUPPORT. Attestation (R382 to R387, Tables 14.1, 14.2, 14.7): the layout of a report, the standing report's registers, and the
statement. -/

namespace Sys2Proof.Machine

variable {s t : State} {p : HostPkt} {ref : Nat}

/-! ### Little-endian numbers -/

theorem rdNat_congr {f g : Nat → Byte} {off n : Nat} (h : ∀ k, off ≤ k → k < off + n → f k = g k) :
    rdNat f off n = rdNat g off n := by
  induction n generalizing off with
  | zero => rfl
  | succ n ih =>
    rw [rdNat, rdNat, h off (le_refl off) (by omega), ih fun k hk hlt => h k (by omega) (by omega)]

theorem rdNat_lt (f : Nat → Byte) (off n : Nat) : rdNat f off n < 256 ^ n := by
  induction n generalizing off with
  | zero => exact Nat.one_pos
  | succ n ih =>
    have hbyte := (f off).isLt
    have hrest := ih (off + 1)
    rw [rdNat, Nat.pow_succ]
    omega

/-! ### The report (Table 14.2) -/

theorem digestBytes_length (d : Nat) : (digestBytes d).length = 64 := toBytes_length 64 d

theorem reportBody_length (nonce : Nat) : (s.reportBody nonce).length = 0x1C0 := by
  simp [State.reportBody, toBytes_length, digestBytes_length]

theorem digestBytes_take (d : Nat) (l : List Byte) : (digestBytes d ++ l).take 64 = digestBytes d :=
  List.take_left' (digestBytes_length d)

theorem digestBytes_drop (d : Nat) (l : List Byte) : (digestBytes d ++ l).drop 64 = l := List.drop_left' (digestBytes_length d)

theorem drop_words (a b c d : Nat) (l : List Byte) :
    (toBytes 8 a ++ (toBytes 8 b ++ (toBytes 8 c ++ (toBytes 8 d ++ l)))).drop 0x20 = l := by
  simp only [← List.append_assoc]
  exact List.drop_left' (by simp only [List.length_append, toBytes_length])

/-- A report's body behind its first 32 bytes: six digests and padding. -/
theorem reportBody_drop (nonce : Nat) : (s.reportBody nonce).drop 0x20
    = digestBytes nonce ++ (digestBytes s.nodeHash ++ (digestBytes s.fwMeas ++ (digestBytes s.licenceMeas
      ++ (digestBytes s.defectMeas ++ (digestBytes s.approverMeas ++ List.replicate 32 0))))) := by
  rw [State.reportBody]
  simp only [List.append_assoc]
  exact drop_words ..

theorem report_none (h : s.sec.identityKey = none) (nonce : Nat) : s.report nonce = none := by rw [State.report, h]; rfl

theorem report_some {d : CrtKey} (h : s.sec.identityKey = some d) (nonce : Nat) :
    s.report nonce = some (s.reportBody nonce ++ toBytes 512 (d.sign (s.reportBody nonce))) := by rw [State.report, h]; rfl

/-! ### The standing report (R387) -/

/-- The fields of the standing report's registers, with a report's words. -/
def reportWords (b : List Byte) : List (Fld × Nat) :=
  (List.range 120).map fun w => (R.SEC_REPORT_WORD w, rdNat (fun k => b.getD k 0) (8 * w) 8)

theorem reReport_signed {d : CrtKey} (h : s.sec.identityKey = some d) : s.reReport
    = (s.setRegs (reportWords (s.reportBody 0 ++ toBytes 512 (d.sign (s.reportBody 0))))).setReg R.SEC_REPORT_SEQ_SEQ
        (s.reg R.SEC_REPORT_SEQ_SEQ + 1) := by
  simp only [State.reReport, report_some h]
  rfl

theorem reportWord_key_ne_seq (w : Nat) : (R.SEC_REPORT_WORD w).key ≠ R.SEC_REPORT_SEQ_SEQ.key := by
  simp only [Fld.key, R.SEC_REPORT_WORD, R.SEC_REPORT_SEQ_SEQ]
  omega

theorem reportWord_key_inj {v w : Nat} (h : (R.SEC_REPORT_WORD w).key = (R.SEC_REPORT_WORD v).key) : v = w := by
  simp only [Fld.key, R.SEC_REPORT_WORD] at h
  omega

theorem reg_reportWords {w : Nat} (hw : w < 120) (b : List Byte) :
    (s.setRegs (reportWords b)).reg (R.SEC_REPORT_WORD w) = rdNat (fun k => b.getD k 0) (8 * w) 8 := by
  have hlt : rdNat (fun k => b.getD k 0) (8 * w) 8 < 2 ^ 64 := (rdNat_lt _ _ 8).trans_eq (by norm_num)
  have hmem : (R.SEC_REPORT_WORD w, rdNat (fun k => b.getD k 0) (8 * w) 8) ∈ reportWords b :=
    List.mem_map.2 ⟨w, List.mem_range.2 hw, rfl⟩
  have hone : ∀ q ∈ reportWords b, (R.SEC_REPORT_WORD w).key = q.1.key →
      q = (R.SEC_REPORT_WORD w, rdNat (fun k => b.getD k 0) (8 * w) 8) := by
    intro q hq hkey
    obtain ⟨v, -, rfl⟩ := List.mem_map.1 hq
    rw [reportWord_key_inj hkey]
  have hwidth : (R.SEC_REPORT_WORD w).width = 64 := rfl
  rw [reg_setRegs_of_mem hmem hone, hwidth, Nat.mod_eq_of_lt hlt]

/-- The words of a report's body are the same in the signed report. -/
theorem rdNat_signed {b sig : List Byte} {w : Nat} (h : 8 * w + 8 ≤ b.length) :
    rdNat (fun k => (b ++ sig).getD k 0) (8 * w) 8 = rdNat (fun k => b.getD k 0) (8 * w) 8 := by
  refine rdNat_congr fun k _ hk => ?_
  rw [List.getD_eq_getElem?_getD, List.getD_eq_getElem?_getD, List.getElem?_append_left (by omega)]

/-! ### Accepted requests -/

theorem accept?_sec {op : Nat} {fast admin serves : Bool} (h : s.accept? p op fast admin serves = some (ref, t)) : t.sec = s.sec := by
  have hfront : (s.prayrFront p op fast).2.sec = s.sec :=
    (kept_prayrFront (κ := onlyPart .sec) (Kept.refl s) (off_onlyPart (by decide)) p op fast).same (onlyPart_self .sec)
  unfold State.accept? at h
  rcases heq : s.prayrFront p op fast with ⟨_ | ⟨lo, hi, adm⟩, u⟩
  · simp only [heq, reduceCtorEq] at h
  · simp only [heq] at h hfront
    split at h
    · cases h
    · cases h
      rw [← hfront]
      exact count_sec _ R.HCP_STATS_COMMANDS 1

/-- ATTEST is served in RECOVERY only where the identity key is not unsealed (log entry 103). -/
theorem exec_attest_accepted {nonce : Nat} (h : s.accept? p 0x50 false true s.sec.identityKey.isNone = some (ref, t))
    (hpayload : p.payloadOk = true) : exec (.attest p nonce) s = .next (match t.report nonce with
      | some b => t.hostReply ref .ok b
      | none => t.hostReply ref .identityUnavailable []) :=
  congrArg Host.Outcome.next (prayr_accept h hpayload)

/-! ### The statement -/

/-- Settles O47: a report is its body with the key's signature, and the standing report's registers are its words. That a certificate the
node does not hold reads with LENGTH 0 and that the standing report stays while the key is not unsealed are the model's choices (log entry
37), and so is ATTEST's answer in RECOVERY (log entry 103). -/
theorem attestation : Obligations.Attestation := by
  unfold Obligations.Attestation
  refine ⟨?attest, ?noKey, ?layout, ?stands, ?word, ?seq, ?cert⟩
  case attest =>
    intro s t p ref nonce d h hpayload hkey
    rw [exec_attest_accepted (by rwa [hkey]) hpayload, report_some (by rwa [accept?_sec h])]
  case noKey =>
    intro s t p ref nonce h hpayload hkey
    rw [exec_attest_accepted (by rwa [hkey]) hpayload, report_none (by rwa [accept?_sec h])]
  case layout =>
    intro s nonce
    have hstep : ∀ {n : Nat} {l : List Byte} {d : Nat}, (s.reportBody nonce).drop n = digestBytes d ++ l →
        (s.reportBody nonce).drop (n + 64) = l := fun h => by rw [← List.drop_drop, h, digestBytes_drop]
    have hnonce := reportBody_drop (s := s) nonce
    have hnode := hstep hnonce
    have hfw := hstep hnode
    have hlicence := hstep hfw
    have hdefect := hstep hlicence
    have happrover := hstep hdefect
    refine ⟨reportBody_length nonce, ?_, ?_, ?_, ?_, ?_, ?_⟩
    · rw [hnonce, digestBytes_take]
    · rw [hnode, digestBytes_take]
    · rw [hfw, digestBytes_take]
    · rw [hlicence, digestBytes_take]
    · rw [hdefect, digestBytes_take]
    · rw [happrover, digestBytes_take]
  case stands =>
    intro s hkey
    simp only [State.reReport, report_none hkey]
  case word =>
    intro s w hkey _ hw
    obtain ⟨d, hd⟩ := Option.ne_none_iff_exists'.1 hkey
    rw [reReport_signed hd, reg_setReg_ne (reportWord_key_ne_seq w), reg_reportWords (by omega)]
    exact rdNat_signed (by rw [reportBody_length]; omega)
  case seq =>
    intro s hkey _
    obtain ⟨d, hd⟩ := Option.ne_none_iff_exists'.1 hkey
    have hwidth : R.SEC_REPORT_SEQ_SEQ.width = 64 := rfl
    rw [reReport_signed hd, reg_setReg_self, hwidth]
  case cert =>
    intro s t p ref index h hpayload hindex
    exact congrArg Host.Outcome.next (prayr_accept h (by simp [hpayload, hindex]))

end Sys2Proof.Machine
end

section
/-! SUPPORT. Dual approval (R391 to R396): the place a set opens at, APPROVE's checks, the approval statement, a command under its set, and
the statement. -/

namespace Sys2Proof.Machine

variable {s t : State} {p : HostPkt} {ref : Nat}

/-! ### APPROVAL_OPEN (R393) -/

/-- The lowest place no set has. -/
def State.freeSet (s : State) : Option Nat := (List.range 4).find? fun k => !s.sec.sets.any fun x => x.k == k

theorem freeSet_eq_none (h : ∀ k < 4, s.sec.sets.any (·.k == k) = true) : s.freeSet = none :=
  List.find?_eq_none.2 fun k hk => by simp [h k (List.mem_range.1 hk)]

theorem freeSet_eq_some {k : Nat} (hk : k < 4) (hfree : s.sec.sets.any (·.k == k) = false)
    (hbelow : ∀ j < k, s.sec.sets.any (·.k == j) = true) : s.freeSet = some k :=
  List.find?_range_eq_some.2 ⟨by rw [hfree]; rfl, List.mem_range.2 hk, fun j hj => by rw [hbelow j hj]; rfl⟩

section
variable {op digest : Nat} (h : s.accept? p 0x52 false true false = some (ref, t)) (hpayload : p.payloadOk = true)
include h hpayload

theorem exec_approvalOpen_badOp (hop : op ∉ approvalOps) : exec (.approvalOpen p op digest) s = .next (t.hostReply ref .badParam []) := by
  refine congrArg Host.Outcome.next ((prayr_accept h hpayload).trans (if_pos ?_))
  rw [List.contains_eq_mem, decide_eq_false hop, Bool.not_false]

/-- An APPROVAL_OPEN of an opcode of Table 14.3. -/
theorem exec_approvalOpen_accepted (hop : op ∈ approvalOps) : exec (.approvalOpen p op digest) s
    = .next (if t.sec.approvers.length < 2 then t.hostReply ref .badState []
      else match t.freeSet with
        | none => t.hostReply ref .tableBusy []
        | some k =>
          if t.sec.sets.any (·.digest == digest) then t.hostReply ref .tableBusy []
          else
            let w := t.reg R.SEC_APPROVAL_CFG_WINDOW_TICKS
            let nonce := Config.nonce t.sec.nonces % 2 ^ 256
            ((t.onSec fun e => { e with nonces := e.nonces + 1 }).setSets
              (t.sec.sets ++ [⟨k, op, digest, nonce, t.tick + w, []⟩])).hostReply ref .ok
                (toBytes 8 (w * 2 ^ 32 + k) ++ toBytes 32 nonce)) := by
  refine congrArg Host.Outcome.next ((prayr_accept h hpayload).trans (if_neg ?_))
  simp [List.contains_eq_mem, hop]

end

/-! ### APPROVE (R394) -/

section
variable {slot set sig : Nat} (h : s.accept? p 0x53 false true false = some (ref, t)) (hpayload : p.payloadOk = true)
include h hpayload

theorem exec_approve_noSet (hset : t.sec.sets.find? (·.k == set) = none) :
    exec (.approve p slot set sig) s = .next ((t.bump R.SEC_STATS_REFUSED).hostReply ref .approvalExpired []) := by
  refine congrArg Host.Outcome.next ((prayr_accept h hpayload).trans ?_)
  simp only [hset]

variable {x : ApprovalSet} (hset : t.sec.sets.find? (·.k == set) = some x)
include hset

theorem exec_approve_closed (hclosed : 2 ≤ x.slots.length ∨ x.deadline ≤ t.tick) :
    exec (.approve p slot set sig) s = .next ((t.bump R.SEC_STATS_REFUSED).hostReply ref .approvalExpired []) := by
  refine congrArg Host.Outcome.next ((prayr_accept h hpayload).trans ?_)
  simp only [hset, if_pos hclosed]

/-- An APPROVE of a set that waits for approvals. -/
theorem exec_approve_open (hroom : x.slots.length < 2) (hdeadline : t.tick < x.deadline) : exec (.approve p slot set sig) s
    = .next (match t.approver? slot with
      | none => (t.bump R.SEC_STATS_REFUSED).hostReply ref .approverUnknown []
      | some n =>
        if x.slots.contains slot then (t.bump R.SEC_STATS_REFUSED).hostReply ref .approverDuplicate []
        else if !rsaVerify n sig (t.statement x) then (t.bump R.SEC_STATS_REFUSED).hostReply ref .signatureInvalid []
        else ((t.setSets (upsert (·.k == set) { x with slots := x.slots ++ [slot] } t.sec.sets)).bump
          R.SEC_STATS_APPROVALS).hostReply ref .ok (toBytes 8 (((x.slots ++ [slot]).map fun i => 2 ^ i).sum))) := by
  have hopen : ¬(2 ≤ x.slots.length ∨ x.deadline ≤ t.tick) := by omega
  refine congrArg Host.Outcome.next ((prayr_accept h hpayload).trans ?_)
  simp only [hset, if_neg hopen] <;> rfl

end

/-! ### The approval statement (Table 14.4) -/

theorem statement_length (x : ApprovalSet) : (s.statement x).length = 176 := by
  simp only [State.statement, List.length_append, toBytes_length, digestBytes_length]

theorem statement_drop (x : ApprovalSet) :
    (s.statement x).drop 0x10 = digestBytes s.nodeHash ++ (toBytes 32 x.nonce ++ digestBytes x.digest) := by
  rw [State.statement, List.append_assoc, List.append_assoc]
  exact List.drop_left' (by simp only [List.length_append, toBytes_length])

/-! ### Commands under an approved set (R395) -/

theorem showSet_node (k : Nat) : (s.showSet k).node = s.node := by
  unfold State.showSet
  split <;> refine setRegs_node fun q hq => ?_
  all_goals
    simp only [List.mem_cons, List.not_mem_nil, or_false] at hq
    rcases hq with rfl | rfl | rfl | rfl | rfl <;>
      simp only [R.SEC_SET_A_STATE, R.SEC_SET_A_APPROVED_BY, R.SEC_SET_A_OPCODE, R.SEC_SET_A_DEADLINE, R.SEC_SET_B_DIGEST_TAG] <;> omega

theorem setSets_node (l : List ApprovalSet) : (s.setSets l).node = s.node := by
  rw [State.setSets, showSet_node, showSet_node, showSet_node, showSet_node]
  rfl

/-- The approved set that stands for a command. -/
def State.standing? (s : State) (op digest : Nat) : Option ApprovalSet :=
  s.sec.sets.find? fun x => 2 ≤ x.slots.length && x.opcode == op && x.digest == digest && s.tick < x.deadline

theorem standing?_eq_none {op digest : Nat}
    (h : ∀ x ∈ s.sec.sets, x.slots.length < 2 ∨ x.opcode ≠ op ∨ x.digest ≠ digest ∨ x.deadline ≤ s.tick) :
    s.standing? op digest = none := by
  refine List.find?_eq_none.2 fun x hx hstands => ?_
  simp only [Bool.and_eq_true, decide_eq_true_eq, beq_iff_eq] at hstands
  obtain ⟨⟨⟨hfull, hop⟩, hdigest⟩, hdeadline⟩ := hstands
  rcases h x hx with h | h | h | h
  · omega
  · exact h hop
  · exact h hdigest
  · omega

section
variable {op digest : Nat} {c : Bool} {run : State → State × St}

theorem approved_refused (h : s.sec.approvers.length < 2 ∨ s.standing? op digest = none) :
    s.approved ref op digest c run = s.hostReply ref .approvalRequired [] := by
  unfold State.approved State.approvedWith
  by_cases hfew : s.sec.approvers.length < 2
  · rw [if_pos hfew]
  · have hnone := h.resolve_left hfew
    unfold State.standing? at hnone
    simp only [if_neg hfew, hnone]

/-- A command under its set, which is consumed; an executed APPROVER_ENROL, POLICY_SET and their like free the others. -/
theorem approved_run {st : St} {x : ApprovalSet} (hfew : 2 ≤ s.sec.approvers.length) (hset : s.standing? op digest = some x)
    (hrun : run ((s.setSets (s.sec.sets.filter (·.k != x.k))).bump R.SEC_STATS_EXECUTED) = (t, st)) : s.approved ref op digest c run
      = ((if st = .ok ∧ c = true then t.setSets [] else t).post .approvedCommand 0xFFF
          (formO st t.node op ((x.slots.map fun i => 2 ^ i).sum))).hostReply ref st [] := by
  have hnode : (if st = .ok ∧ c = true then t.setSets [] else t).node = t.node := by
    split
    · exact setSets_node []
    · rfl
  unfold State.standing? at hset
  simp only [State.approved, State.approvedWith, if_neg (Nat.not_lt.2 hfew), hset, hrun, hnode]

end

/-! ### The statement -/

/-- Settles O48: a set opens at the lowest free place, takes two approvals of different enrolled keys on its own statement, and lets the one
command of its opcode and digest run once before its deadline. -/
theorem dualApproval : Obligations.DualApproval := by
  unfold Obligations.DualApproval
  refine ⟨?badOp, ?fewApprovers, ?busy, ?opened, ?noSet, ?closed, ?unknown, ?duplicate, ?badSignature, ?approved, ?layout, ?expires,
    ?noExpiry, ?refused, ?run⟩
  case badOp =>
    intro s t p ref op digest h hpayload hop
    exact exec_approvalOpen_badOp h hpayload hop
  case fewApprovers =>
    intro s t p ref op digest h hpayload hop hfew
    rw [exec_approvalOpen_accepted h hpayload hop, if_pos hfew]
  case busy =>
    intro s t p ref op digest h hpayload hop hfew hbusy
    rw [exec_approvalOpen_accepted h hpayload hop, if_neg (Nat.not_lt.2 hfew)]
    rcases hbusy with hdigest | hfull
    · cases t.freeSet with
      | none => rfl
      | some k => exact congrArg Host.Outcome.next (if_pos hdigest)
    · rw [freeSet_eq_none hfull]
  case opened =>
    intro s t p ref op digest k h hpayload hop hfew hdigest hk hfree hbelow
    rw [exec_approvalOpen_accepted h hpayload hop, if_neg (Nat.not_lt.2 hfew), freeSet_eq_some hk hfree hbelow]
    exact congrArg Host.Outcome.next (if_neg (by simp [hdigest]))
  case noSet =>
    intro s t p ref slot set sig h hpayload hset
    exact exec_approve_noSet h hpayload hset
  case closed =>
    intro s t p ref slot set sig x h hpayload hset hclosed
    exact exec_approve_closed h hpayload hset hclosed
  case unknown =>
    intro s t p ref slot set sig x h hpayload hset hroom hdeadline hslot
    rw [exec_approve_open h hpayload hset hroom hdeadline, hslot]
  case duplicate =>
    intro s t p ref slot set sig n x h hpayload hset hroom hdeadline hslot hmem
    rw [exec_approve_open h hpayload hset hroom hdeadline, hslot]
    exact congrArg Host.Outcome.next (if_pos (List.contains_iff_mem.2 hmem))
  case badSignature =>
    intro s t p ref slot set sig n x h hpayload hset hroom hdeadline hslot hmem hverify
    rw [exec_approve_open h hpayload hset hroom hdeadline, hslot]
    simp only [List.contains_eq_mem, hmem, decide_false, hverify, Bool.not_false, Bool.false_eq_true, if_false, if_true]
  case approved =>
    intro s t p ref slot set sig n x h hpayload hset hroom hdeadline hslot hmem hverify
    rw [exec_approve_open h hpayload hset hroom hdeadline, hslot]
    simp only [List.contains_eq_mem, hmem, decide_false, hverify, Bool.not_true, Bool.false_eq_true, if_false]
  case layout =>
    intro s x _ _
    have hhash := statement_drop (s := s) x
    have hnonce : (s.statement x).drop (0x10 + 64) = toBytes 32 x.nonce ++ digestBytes x.digest := by
      rw [← List.drop_drop, hhash, digestBytes_drop]
    have hdigest : (s.statement x).drop (0x10 + 64 + 32) = digestBytes x.digest := by
      rw [← List.drop_drop, hnonce, List.drop_left' (toBytes_length 32 x.nonce)]
    exact ⟨statement_length x, by rw [hhash, digestBytes_take], by rw [hnonce, List.take_left' (toBytes_length 32 x.nonce)], hdigest⟩
  case expires =>
    intro s k x hset hdeadline
    change execApprovalDeadlineExpiry k s = _
    simp only [execApprovalDeadlineExpiry, hset, if_pos hdeadline]
  case noExpiry =>
    intro s k hset
    change execApprovalDeadlineExpiry k s = _
    simp only [execApprovalDeadlineExpiry, hset]
  case refused =>
    intro s ref op digest c run h
    exact approved_refused (h.imp_right standing?_eq_none)
  case run =>
    intro s t ref op digest run x st c hfew hset hrun
    exact approved_run hfew hset hrun

end Sys2Proof.Machine
end

section
/-! SUPPORT. The commands of dual approval (R388 to R392): an enrolment at a slot beyond the sixteen, whose KEY_TAG lies at the address of
EVT_HEAD, and the refutation it gives. -/

namespace Sys2Proof.Machine

variable {s : State}

/-! ### The number of the next event (R424) -/

/-- The number after an event's (R424): its lower 40 bits count. -/
def seqAfter (seq : Nat) : Nat := seq / 2 ^ 40 * 2 ^ 40 + (seq + 1) % 2 ^ 40

theorem seqAfter_mod_ne (h : Nat) : seqAfter (h % 2 ^ 64) % 2 ^ 64 ≠ h % 2 ^ 64 := by
  simp only [seqAfter]
  omega

theorem nextSeq_ringPost (w : EvtWords) (own : Bool) :
    (s.ringPost w own).reg R.EVT_HEAD_NEXT_SEQ = seqAfter (s.reg R.EVT_HEAD_NEXT_SEQ) % 2 ^ 64 := by
  have hclass : R.EVT_HEAD_NEXT_SEQ.key ≠ (R.EVT_CLASS_STATS_POSTED (w.code / 256 % 16)).key := by
    simp only [Fld.key, R.EVT_HEAD_NEXT_SEQ, R.EVT_CLASS_STATS_POSTED]
    omega
  have hposted : R.EVT_HEAD_NEXT_SEQ.key ≠ R.EVT_STATS_POSTED.key := by decide
  have hoverwritten : R.EVT_HEAD_NEXT_SEQ.key ≠ R.EVT_STATS_OVERWRITTEN.key := by decide
  have holdest : R.EVT_HEAD_NEXT_SEQ.key ≠ R.EVT_OLDEST_OLDEST_SEQ.key := by decide
  have hevt : ∀ (u : State) (f : Evt → Evt), (u.onEvt f).reg R.EVT_HEAD_NEXT_SEQ = u.reg R.EVT_HEAD_NEXT_SEQ := fun _ _ => rfl
  unfold State.ringPost
  dsimp only
  split <;> split <;>
    simp only [reg_hostSend, reg_setReg_ne holdest, hevt, reg_bump_ne _ hoverwritten, reg_bump_ne _ hclass, reg_bump_ne _ hposted,
      reg_setReg_self] <;> rfl

/-- An event that overwrites none leaves the count of those that others overwrote. -/
theorem byOthers_ringPost (hroom : s.evt.entries.length < 65536) (w : EvtWords) (own : Bool) :
    (s.ringPost w own).evt.byOthers = s.evt.byOthers := by
  have hsend : ∀ (u : State) (o : HostOut), (u.hostSend 0 o).evt = u.evt := fun u o =>
    (kept_hostSend (κ := onlyPart .evt) (Kept.refl u) (off_onlyPart (by decide)) 0 o).same (onlyPart_self .evt)
  have hset : ∀ (u : State) (f : Fld) (v : Nat), (u.setReg f v).evt = u.evt := fun _ _ _ => rfl
  simp only [State.ringPost, if_neg (Nat.not_le.2 hroom)]
  split <;> simp only [hsend, hset, State.onEvt, bump_evt]

theorem nextSeq_post (hroom : s.evt.entries.length < 65536) (hquiet : s.evt.byOthers = 0) {e : Ev} (he : e.cls ≠ 2) (ctx : Nat)
    (a : Nat × Nat) : (s.post e ctx a).reg R.EVT_HEAD_NEXT_SEQ = seqAfter (s.reg R.EVT_HEAD_NEXT_SEQ) % 2 ^ 64 := by
  have hnone : (s.ringPost (s.evtWords e ctx a) false).postOverwritten = s.ringPost (s.evtWords e ctx a) false :=
    if_pos (by rw [byOthers_ringPost hroom, hquiet]; rfl)
  rw [State.post, if_neg he, hnone, nextSeq_ringPost]

/-! ### An enrolment (R388) -/

theorem rsaKeyOk_iff {n : Nat} : rsaKeyOk n = true ↔ 2 ^ 4095 ≤ n ∧ n < 2 ^ 4096 ∧ n % 2 = 1 := by
  simp only [rsaKeyOk, Bool.and_eq_true, decide_eq_true_eq, beq_iff_eq, and_assoc]

theorem enrol_new {slot n : Nat} (hslot : s.approver? slot = none) (hkey : s.sec.approvers.any (·.2 == n) = false)
    (hn : rsaKeyOk n = true) : s.enrol slot n = (s.setApprover slot (some n) (keyHash n), .ok) := by
  simp only [State.enrol, hslot, hkey, hn, Option.isSome_none, Bool.or_self, Bool.not_true, Bool.false_eq_true, if_false]

/-- A node's first approver key and its registers, before the event and the report that follow. -/
def State.firstKey (s : State) (slot n hash : Nat) : State :=
  (s.onSec fun e => { e with approvers := [(slot, n)] }).setRegs [(R.SEC_STATE_APPROVERS, 1), (R.SEC_APPROVER_KEY_TAG slot, hash)]

theorem firstKey_keyTag (slot n hash : Nat) : (s.firstKey slot n hash).reg (R.SEC_APPROVER_KEY_TAG slot) = hash % 2 ^ 64 :=
  reg_setReg_self _ (R.SEC_APPROVER_KEY_TAG slot) hash

theorem post_sec (e : Ev) (ctx : Nat) (a : Nat × Nat) : (s.post e ctx a).sec = s.sec :=
  (kept_post (κ := onlyPart .sec) (Kept.refl s) (off_onlyPart (by decide)) e ctx a).same (onlyPart_self .sec)

theorem setApprover_first (happrovers : s.sec.approvers = []) (hidentity : s.sec.identityKey = none) (slot n hash : Nat) :
    s.setApprover slot (some n) hash = (s.firstKey slot n hash).post .approverChanged 0xFFF
      (formO .ok (s.firstKey slot n hash).node slot hash) := by
  have hunsealed : ∀ a : Nat × Nat, ((s.firstKey slot n hash).post .approverChanged 0xFFF a).reReport
      = (s.firstKey slot n hash).post .approverChanged 0xFFF a := fun a => by
    have hkey : ((s.firstKey slot n hash).post .approverChanged 0xFFF a).sec.identityKey = none := by
      rw [post_sec]
      exact hidentity
    simp only [State.reReport, report_none hkey]
  rw [← hunsealed, State.setApprover, happrovers]
  rfl

/-! ### The refutation -/

/-- The slot whose KEY_TAG the model puts at the address of EVT_HEAD, far beyond the sixteen of R388. -/
def eventSlot : Nat := 0x3FFC0

theorem keyTag_eventSlot : R.SEC_APPROVER_KEY_TAG eventSlot = R.EVT_HEAD_NEXT_SEQ := by decide

/-- The event that reports the enrolment counts on from the key's tag. -/
theorem enrol_eventSlot {n : Nat} (hn : rsaKeyOk n = true) : (State.reset.enrol eventSlot n).1.reg (R.SEC_APPROVER_KEY_TAG eventSlot)
    = seqAfter (keyHash n % 2 ^ 64) % 2 ^ 64 := by
  have hnew : State.reset.enrol eventSlot n = (State.reset.setApprover eventSlot (some n) (keyHash n), .ok) := enrol_new rfl rfl hn
  have htag := firstKey_keyTag (s := State.reset) eventSlot n (keyHash n)
  rw [keyTag_eventSlot] at htag ⊢
  have hroom : (State.reset.firstKey eventSlot n (keyHash n)).evt.entries.length < 65536 := Nat.zero_lt_succ 65535
  rw [hnew, setApprover_first rfl rfl, nextSeq_post hroom rfl (by decide), htag]

/-- A modulus of 4096 bits that is odd. -/
def oddModulus : Nat := 2 ^ 4095 + 1

theorem succ_two_pow_odd (k : Nat) :
    2 ^ (k + 1) ≤ 2 ^ (k + 1) + 1 ∧ 2 ^ (k + 1) + 1 < 2 ^ (k + 1 + 1) ∧ (2 ^ (k + 1) + 1) % 2 = 1 := by
  have hpos : 0 < 2 ^ k := Nat.two_pow_pos k
  rw [Nat.pow_succ 2 (k + 1), Nat.pow_succ 2 k]
  omega

theorem oddModulus_ok : 2 ^ 4095 ≤ oddModulus ∧ oddModulus < 2 ^ 4096 ∧ oddModulus % 2 = 1 := by
  simpa only [oddModulus, Nat.reduceAdd] using succ_two_pow_odd 4094

/-- Refutes O49: the statement bounds no SLOT, and an enrolment on the node after reset at the slot whose KEY_TAG lies at EVT_HEAD posts
APPROVER_CHANGED, whose number is counted on from the tag just written, so that the register no longer holds the key's tag. -/
theorem not_approvedCommands : ¬ Obligations.ApprovedCommands := by
  unfold Obligations.ApprovedCommands
  rintro ⟨-, -, -, -, -, henrol, -⟩
  obtain ⟨hlow, hhigh, hodd⟩ := oddModulus_ok
  obtain ⟨-, -, htag, -⟩ := henrol State.reset eventSlot oddModulus rfl rfl hlow hhigh hodd rfl ⟨rfl, rfl, rfl, rfl, rfl⟩
  rw [enrol_eventSlot (rsaKeyOk_iff.2 oddModulus_ok)] at htag
  exact seqAfter_mod_ne _ htag

end Sys2Proof.Machine
end
